-- ==== Sys2Proof/Word.lean ====
section
/-! DEFINITION. The word types of the model (spec 00 R12, R13; 03 Table 3.1; 01 R31). -/

namespace Sys2Proof

/-- One byte of an in-memory structure or of a frame (00 R12). -/
abbrev Byte := BitVec 8
/-- A 32-bit lane, accumulator word or FP32 number (03 Table 3.1, 04 R112). -/
abbrev W32 := BitVec 32
/-- A 64-bit scalar register or sync cell (03 Table 3.1, R97). -/
abbrev W64 := BitVec 64

/-- One of the eight Vats V0 to V7 (01 R17, Table 1.2). -/
abbrev VatNo := Fin 8
/-- A scalar register number s0 to s63 (03 Table 3.1). -/
abbrev SReg := Fin 64
/-- A predicate number p0 to p15 (03 Table 3.1). -/
abbrev PReg := Fin 16
/-- A vector register number v0 to v31 (03 Table 3.1). -/
abbrev VReg := Fin 32
/-- A descriptor register number a0 to a31 (03 Table 3.1). -/
abbrev AReg := Fin 32
/-- A tile of a Vat, 0 to 3 (01 Table 1.1). -/
abbrev TileNo := Fin 4

end Sys2Proof
end

