-- ==== Sys2Proof/Machine/Bits.lean ====
section
/-! DEFINITION. Bit fields, sign extension and byte order: the conventions of spec 00 (R12) used by every table. -/

namespace Sys2Proof.Machine

/-- Bits [hi:lo] of a register or structure field (00, "Registers and fields"; bit 0 is least significant, R12). -/
def bits (n hi lo : Nat) : Nat := (n >>> lo) % 2 ^ (hi + 1 - lo)

/-- Bit i of n. -/
def bit (n i : Nat) : Bool := n.testBit i

/-- 1 for true, 0 for false: the value a one-bit field reads as. -/
def b2n (b : Bool) : Nat := if b then 1 else 0

/-- n with bits [hi:lo] replaced by v, the other bits kept. -/
def putBits (n hi lo v : Nat) : Nat :=
  n - (bits n hi lo) * 2 ^ lo + (v % 2 ^ (hi + 1 - lo)) * 2 ^ lo

/-- n with bit i set or cleared. -/
def putBit (n i : Nat) (b : Bool) : Nat := putBits n i i (b2n b)

/-- A w-bit pattern read as a two's complement number. -/
def toInt (w n : Nat) : Int :=
  if n % 2 ^ w < 2 ^ (w - 1) then ((n % 2 ^ w : Nat) : Int) else ((n % 2 ^ w : Nat) : Int) - (2 ^ w : Nat)

/-- The w-bit two's complement pattern of z. -/
def ofInt (w : Nat) (z : Int) : Nat := (z % ((2 ^ w : Nat) : Int)).toNat

/-- z held within the signed range of w bits. -/
def satInt (w : Nat) (z : Int) : Int := max (-(2 ^ (w - 1) : Nat)) (min z ((2 ^ (w - 1) : Nat) - 1))

/-- The number whose little-endian bytes are l (00 R12). -/
def fromLE : List Byte → Nat
  | [] => 0
  | b :: l => b.toNat + 256 * fromLE l

/-- The n little-endian bytes of v (00 R12). -/
def toLE : Nat → Nat → List Byte
  | 0, _ => []
  | n + 1, v => BitVec.ofNat 8 v :: toLE n (v / 256)

/-- The number whose big-endian bytes are l (network formats of 09 and 13). -/
def fromBE (l : List Byte) : Nat := l.foldl (fun a b => a * 256 + b.toNat) 0

/-- The little-endian field of n bytes at offset o of a structure's bytes, absent bytes read as 0. -/
def fieldLE (l : List Byte) (o n : Nat) : Nat := fromLE ((l.drop o).take n)

/-- Ceiling division. -/
def cdiv (a b : Nat) : Nat := (a + b - 1) / b

/-- a + b, saturating at the largest w-bit value. -/
def satAdd (w a b : Nat) : Nat := min (a + b) (2 ^ w - 1)

/-- v is a multiple of a (alignment checks, 00 R511 and 03 R103). -/
def aligned (v a : Nat) : Bool := v % a == 0

end Sys2Proof.Machine
end

