-- ==== Sys2Proof/Machine/Float.lean ====
section
/-! DEFINITION. Floating-point arithmetic of spec 04: the exact value of a pattern, fl32 (R125), the element-wise operations
(R127, R128), the correctly rounded functions (R129), the conversions (R131 to R133) and the compensated primitives (R134).
Values are computed exactly on naturals and rounded once. -/

namespace Sys2Proof.Machine

/-- The exact value of a floating-point pattern: NaN, an infinity, or (-1)^neg * m * 2^e (m = 0 is a signed zero). -/
inductive FV where
  | nan
  | inf (neg : Bool)
  | fin (neg : Bool) (m : Nat) (e : Int)
deriving DecidableEq, Repr

/-- The NaN every operation writes (R126, R127). -/
def nan32 : W32 := 0x7FC00000#32

/-- An infinity of the sign. -/
def inf32 (neg : Bool) : W32 := if neg then 0xFF800000#32 else 0x7F800000#32

/-- A zero of the sign. -/
def zero32 (neg : Bool) : W32 := if neg then 0x80000000#32 else 0#32

/-- m / 2^sh rounded to nearest, ties to even. -/
def rneShift (m sh : Nat) : Nat :=
  if sh = 0 then m
  else
    let q := m / 2 ^ sh
    let r := m % 2 ^ sh
    if r > 2 ^ (sh - 1) ∨ (r = 2 ^ (sh - 1) ∧ q % 2 = 1) then q + 1 else q

/-- m * 2^e rounded to p significant bits, half-even, exponent unlimited: a p-bit significand and its exponent (m ≠ 0). -/
def roundSig (p m : Nat) (e : Int) : Nat × Int :=
  let l := m.log2
  let r : Nat × Int :=
    if l + 1 > p then (rneShift m (l + 1 - p), e + ((l + 1 - p : Nat) : Int))
    else (m * 2 ^ (p - 1 - l), e - ((p - 1 - l : Nat) : Int))
  if r.1 = 2 ^ p then (2 ^ (p - 1), r.2 + 1) else r

/-- fl32 of (-1)^neg * m * 2^e (04 R125): round to 24 bits, then overflow to infinity, flush below 2^-126 after rounding. -/
def fl32 (neg : Bool) (m : Nat) (e : Int) : W32 :=
  if m = 0 then zero32 neg
  else
    let r := roundSig 24 m e
    let x := r.2 + 23
    if x > 127 then inf32 neg
    else if x < -126 then zero32 neg
    else BitVec.ofNat 32 ((b2n neg) * 2 ^ 31 + (x + 127).toNat * 2 ^ 23 + (r.1 - 2 ^ 23))

/-- The value of an FP32 pattern, subnormals kept (BF16 inputs of the tiles, R126). -/
def val32 (w : W32) : FV :=
  let n := w.toNat
  let neg := n.testBit 31
  let ex := bits n 30 23
  let fr := bits n 22 0
  if ex = 255 then (if fr = 0 then .inf neg else .nan)
  else if ex = 0 then .fin neg fr (-149)
  else .fin neg (fr + 2 ^ 23) ((ex : Int) - 150)

/-- The value of an FP32 lane of the element-wise pipeline: a subnormal reads as zero of its sign (R127). -/
def ewp (w : W32) : FV :=
  match val32 w with
  | .fin neg m e => if m < 2 ^ 23 then .fin neg 0 e else .fin neg m e
  | v => v

/-- Rounding an exact value to a lane (R127). -/
def out32 : FV → W32
  | .nan => nan32
  | .inf neg => inf32 neg
  | .fin neg m e => fl32 neg m e

/-- The signed integer m * 2^(e - f) of a finite value, for f at most e. -/
def scaled (neg : Bool) (m : Nat) (e f : Int) : Int :=
  let k : Int := ((m * 2 ^ (e - f).toNat : Nat) : Int)
  if neg then -k else k

/-- An exact integer multiple of 2^e as a value; an exact zero takes the sign z. -/
def ofScaled (z : Bool) (k : Int) (e : Int) : FV :=
  if k = 0 then .fin z 0 e else .fin (decide (k < 0)) k.natAbs e

/-- Exact addition (R128); an exact zero sum of operands of opposite sign is +0 (R127). -/
def FV.add : FV → FV → FV
  | .nan, _ => .nan
  | _, .nan => .nan
  | .inf a, .inf b => if a = b then .inf a else .nan
  | .inf a, _ => .inf a
  | _, .inf b => .inf b
  | .fin a m e, .fin b n f => ofScaled (a && b) (scaled a m e (min e f) + scaled b n f (min e f)) (min e f)

/-- The value with its sign changed. -/
def FV.neg : FV → FV
  | .nan => .nan
  | .inf a => .inf (!a)
  | .fin a m e => .fin (!a) m e

/-- Exact multiplication; infinity times zero is NaN (R128). -/
def FV.mul : FV → FV → FV
  | .nan, _ => .nan
  | _, .nan => .nan
  | .inf a, .inf b => .inf (a != b)
  | .inf a, .fin b n _ => if n = 0 then .nan else .inf (a != b)
  | .fin a m _, .inf b => if m = 0 then .nan else .inf (a != b)
  | .fin a m e, .fin b n f => .fin (a != b) (m * n) (e + f)

def fadd (a b : W32) : W32 := out32 ((ewp a).add (ewp b))
def fsub (a b : W32) : W32 := out32 ((ewp a).add (ewp b).neg)
def fmul (a b : W32) : W32 := out32 ((ewp a).mul (ewp b))

/-- One rounding of the exact a * b + c (R128); NaN if a * b is infinity times zero, whatever c. -/
def ffma (a b c : W32) : W32 := out32 (((ewp a).mul (ewp b)).add (ewp c))

/-- The order of VMAX and VMIN and of comparisons: -0 below +0 where the flag is set (R128). -/
def FV.key : FV → Int
  | .nan => 0
  | .inf neg => if neg then -(2 ^ 600 : Nat) else (2 ^ 600 : Nat)
  | .fin neg m e => if neg then -(((m * 2 ^ (e + 200).toNat : Nat) : Int) * 2) - 1 else (((m * 2 ^ (e + 200).toNat : Nat) : Int) * 2)

/-- Clear a subnormal lane to its zero, NaN to the one NaN: what a selected operand is written as (R127). -/
def canon32 (w : W32) : W32 := out32 (ewp w)

/-- VMAX (R128): NaN if either is NaN, -0 below +0. -/
def fmax (a b : W32) : W32 :=
  match ewp a, ewp b with
  | .nan, _ => nan32
  | _, .nan => nan32
  | x, y => if x.key ≥ y.key then canon32 a else canon32 b

/-- VMIN (R128). -/
def fmin (a b : W32) : W32 :=
  match ewp a, ewp b with
  | .nan, _ => nan32
  | _, .nan => nan32
  | x, y => if x.key ≤ y.key then canon32 a else canon32 b

/-- a < b as real numbers; false with a NaN. -/
def flt (a b : W32) : Bool :=
  match ewp a, ewp b with
  | .nan, _ => false
  | _, .nan => false
  | x, y => decide (x.key / 2 * 2 < y.key / 2 * 2 ∧ ¬((x.key = 0 ∨ x.key = -1) ∧ (y.key = 0 ∨ y.key = -1)))

def fle (a b : W32) : Bool :=
  match ewp a, ewp b with
  | .nan, _ => false
  | _, .nan => false
  | _, _ => !(flt b a)

/-- |a|. -/
def fabs (a : W32) : W32 := a &&& 0x7FFFFFFF#32

/-- -a. -/
def fneg (a : W32) : W32 := a ^^^ 0x80000000#32

/-- a is neither NaN nor infinite. -/
def isFinite32 (a : W32) : Bool := bits a.toNat 30 23 != 255

def isNan32 (a : W32) : Bool := bits a.toNat 30 23 == 255 && bits a.toNat 22 0 != 0

/-- fl32 of an integer (R131 SUB 6, R401). -/
def fofInt (z : Int) : W32 := fl32 (decide (z < 0)) z.natAbs 0

/-- A value rounded to the nearest even integer. -/
def rneInt (neg : Bool) (m : Nat) (e : Int) : Int :=
  let k : Nat := if e ≥ 0 then m * 2 ^ e.toNat else rneShift m (-e).toNat
  if neg then -(k : Int) else (k : Int)

/-! ### Correctly rounded functions (R129), by fixed point with more than 150 significant bits -/

/-- Fraction bits of the fixed-point computations. -/
def fxP : Nat := 200

/-- ln 2 and log2 e, times 2^200, truncated. -/
def fxLn2 : Nat := 0xb17217f7d1cf79abc9e3b39803f2f6af40f343267298b62d8a
def fxLog2e : Nat := 0x171547652b82fe1777d0ffda0d23a7d11d6aef551bad2b4b116

/-- floor(sqrt n) by its bits from bit i down. -/
def isqrtBits : Nat → Nat → Nat → Nat
  | 0, _, r => r
  | i + 1, n, r => isqrtBits i n (if (r + 2 ^ i) * (r + 2 ^ i) ≤ n then r + 2 ^ i else r)

/-- floor(sqrt n) for n below 2^512. -/
def isqrt (n : Nat) : Nat := isqrtBits 256 n 0

/-- The exponential series: sum of t^k / k! for t in [0, 1) in units of 2^-200. -/
def fxExpLoop : Nat → Nat → Nat → Nat → Nat → Nat
  | 0, _, _, _, acc => acc
  | fuel + 1, t, k, term, acc => fxExpLoop fuel t (k + 1) (term * t / 2 ^ fxP / (k + 1)) (acc + term)

/-- e^t for t in [0, 1), units of 2^-200. -/
def fxExp (t : Nat) : Nat := fxExpLoop 60 t 0 (2 ^ fxP) 0

/-- 2^f for f in [0, 1), units of 2^-200. -/
def fxExp2 (f : Nat) : Nat := fxExp (f * fxLn2 / 2 ^ fxP)

/-- The atanh series of ln((1 + z) / (1 - z)) / 2, z in units of 2^-200. -/
def fxAtanhLoop : Nat → Nat → Nat → Nat → Nat → Nat
  | 0, _, _, _, acc => acc
  | fuel + 1, z2, k, zp, acc => fxAtanhLoop fuel z2 (k + 2) (zp * z2 / 2 ^ fxP) (acc + zp / k)

/-- ln m for m = n / 2^23 in [1, 2), units of 2^-200. -/
def fxLn (n : Nat) : Nat :=
  let z := (n - 2 ^ 23) * 2 ^ fxP / (n + 2 ^ 23)
  2 * fxAtanhLoop 70 (z * z / 2 ^ fxP) 1 z 0

/-- A fixed-point real x * 2^-200 given as an integer, 2 to its power: significand (units 2^-200, in [1, 2)) and exponent. -/
def fxPow2 (x : Int) : Nat × Int :=
  let n := x / (2 ^ fxP : Nat)
  let f := (x % (2 ^ fxP : Nat)).toNat
  (fxExp2 f, n)

/-- The fixed-point integer of a finite value of magnitude below 2^32, units of 2^-200. -/
def fxOf (neg : Bool) (m : Nat) (e : Int) : Int := scaled neg m e (-200)

/-- VEXP2 (R129, Table 4.4). -/
def fexp2 (a : W32) : W32 :=
  match ewp a with
  | .nan => nan32
  | .inf neg => if neg then zero32 false else inf32 false
  | .fin neg m e =>
    if m = 0 then 0x3F800000#32
    else if ¬neg ∧ (.fin neg m e : FV).key ≥ (.fin false 128 0 : FV).key then inf32 false
    else if neg ∧ (.fin neg m e : FV).key < (.fin true 126 0 : FV).key then zero32 false
    else
      let r := fxPow2 (fxOf neg m e)
      if fxOf neg m e % (2 ^ fxP : Nat) = 0 then fl32 false 1 r.2 else fl32 false (2 * r.1 + 1) (r.2 - 201)

/-- VLOG2 (R129, Table 4.4). -/
def flog2 (a : W32) : W32 :=
  match ewp a with
  | .nan => nan32
  | .inf neg => if neg then nan32 else inf32 false
  | .fin neg m e =>
    if m = 0 then inf32 true
    else if neg then nan32
    else
      let x := e + 23
      if m = 2 ^ 23 then fofInt x
      else
        let l : Int := x * (2 ^ fxP : Nat) + ((fxLn m * fxLog2e / 2 ^ fxP : Nat) : Int)
        fl32 (decide (l < 0)) (2 * l.natAbs + 1) (-201)

/-- VRCP (R129, Table 4.4). -/
def frcp (a : W32) : W32 :=
  match ewp a with
  | .nan => nan32
  | .inf neg => zero32 neg
  | .fin neg m e =>
    if m = 0 then inf32 neg
    else
      let q := 2 ^ 80 / m
      fl32 neg (2 * q + b2n (q * m != 2 ^ 80)) (-e - 81)

/-- VRSQ (R129, Table 4.4). -/
def frsq (a : W32) : W32 :=
  match ewp a with
  | .nan => nan32
  | .inf neg => if neg then nan32 else zero32 false
  | .fin neg m e =>
    if m = 0 then inf32 neg
    else if neg then nan32
    else
      let m2 := if e % 2 = 0 then m else 2 * m
      let e2 := if e % 2 = 0 then e else e - 1
      let q := isqrt (2 ^ 160 / m2)
      fl32 false (2 * q + b2n (q * q * m2 != 2 ^ 160)) (-(e2 / 2) - 81)

/-- e^x of a finite value of magnitude at most 256: significand (units of 2^-200) and exponent. -/
def fxExpOf (neg : Bool) (m : Nat) (e : Int) : Nat × Int :=
  fxPow2 (fxOf neg m e * (fxLog2e : Int) / (2 ^ fxP : Nat))

/-- VSIG (R129, Table 4.4): 1 / (1 + e^-x). -/
def fsig (a : W32) : W32 :=
  match ewp a with
  | .nan => nan32
  | .inf neg => if neg then zero32 false else 0x3F800000#32
  | .fin neg m e =>
    if m = 0 then 0x3F000000#32
    else if (.fin neg m e : FV).key > (.fin false 200 0 : FV).key then 0x3F800000#32
    else if (.fin neg m e : FV).key < (.fin true 200 0 : FV).key then zero32 false
    else
      let r := fxExpOf (!neg) m e
      -- 1 + r.1 * 2^(r.2 - 200), in units of 2^-600
      let d := 2 ^ 600 + r.1 * 2 ^ (r.2 + 400).toNat
      fl32 false (2 * (2 ^ 1400 / d) + 1) (-801)

/-- VTANH (R129, Table 4.4). Below 2^-40 the nearest FP32 value is x itself. -/
def ftanh (a : W32) : W32 :=
  match ewp a with
  | .nan => nan32
  | .inf neg => if neg then 0xBF800000#32 else 0x3F800000#32
  | .fin neg m e =>
    if m = 0 then zero32 neg
    else if e + 23 < -40 then fl32 neg m e
    else if (.fin false m e : FV).key > (.fin false 64 0 : FV).key then (if neg then 0xBF800000#32 else 0x3F800000#32)
    else
      let r := fxExpOf false m (e + 1)
      let x := r.1 * 2 ^ r.2.toNat
      fl32 neg (2 * ((x - 2 ^ fxP) * 2 ^ 200 / (x + 2 ^ fxP)) + 1) (-201)

/-! ### Narrow formats (04 Tables 4.1, 4.3, 4.5) -/

/-- E4M3 (R119): 0x7F and 0xFF are NaN, there is no infinity. -/
def valE4M3 (c : Nat) : FV :=
  let neg := c.testBit 7
  let ex := bits c 6 3
  let fr := bits c 2 0
  if ex = 15 ∧ fr = 7 then .nan
  else if ex = 0 then .fin neg fr (-9)
  else .fin neg (fr + 8) ((ex : Int) - 10)

/-- E5M2 (R119). -/
def valE5M2 (c : Nat) : FV :=
  let neg := c.testBit 7
  let ex := bits c 6 2
  let fr := bits c 1 0
  if ex = 31 then (if fr = 0 then .inf neg else .nan)
  else if ex = 0 then .fin neg fr (-16)
  else .fin neg (fr + 4) ((ex : Int) - 17)

/-- BF16: the upper half of an FP32 value. -/
def valBF16 (c : Nat) : FV := val32 (BitVec.ofNat 32 ((c % 65536) * 65536))

/-- Round a magnitude to a format of p significant bits whose least subnormal is 2^emin: an exact multiple m * 2^e. -/
def roundSub (p : Nat) (emin : Int) (m : Nat) (e : Int) : Nat × Int :=
  if m = 0 then (0, emin)
  else
    let top : Int := e + (m.log2 : Int)
    let q : Int := max (top - ((p : Int) - 1)) emin
    if q ≤ e then (m * 2 ^ (e - q).toNat, q) else (rneShift m (q - e).toNat, q)

/-- FP32 to E4M3 (Table 4.5 SUB 2): saturating, NaN 0x7F. -/
def toE4M3 : FV → Nat
  | .nan => 0x7F
  | .inf neg => b2n neg * 128 + 0x7E
  | .fin neg m e =>
    let r := roundSub 4 (-9) m e
    -- value r.1 * 2^r.2; 448 = 7 * 2^6
    if r.1 = 0 then b2n neg * 128
    else if r.1 * 2 ^ (r.2 + 9).toNat > 448 * 512 then b2n neg * 128 + 0x7E
    else
      let s := r.1 * 2 ^ (r.2 + 9).toNat
      let l := s.log2
      if l < 3 then b2n neg * 128 + s
      else b2n neg * 128 + (l - 2) * 8 + (s / 2 ^ (l - 3) - 8)

/-- FP32 to E5M2 (Table 4.5 SUB 3): finite results saturate, infinities stay, NaN 0x7E. -/
def toE5M2 : FV → Nat
  | .nan => 0x7E
  | .inf neg => b2n neg * 128 + 0x7C
  | .fin neg m e =>
    let r := roundSub 3 (-16) m e
    if r.1 = 0 then b2n neg * 128
    else if r.1 * 2 ^ (r.2 + 16).toNat > 57344 * 65536 then b2n neg * 128 + 0x7B
    else
      let s := r.1 * 2 ^ (r.2 + 16).toNat
      let l := s.log2
      if l < 2 then b2n neg * 128 + s
      else b2n neg * 128 + (l - 1) * 4 + (s / 2 ^ (l - 2) - 4)

/-- FP32 to BF16 (Table 4.5 SUB 0): the flush is tested after rounding to 8 bits; NaN 0x7FC0. -/
def toBF16 : FV → Nat
  | .nan => 0x7FC0
  | .inf neg => b2n neg * 0x8000 + 0x7F80
  | .fin neg m e =>
    if m = 0 then b2n neg * 0x8000
    else
      let r := roundSig 8 m e
      (fl32 neg r.1 r.2).toNat / 65536

/-- FP32 to INT32 (Table 4.5 SUB 7): nearest even, saturating, NaN to 0; infinities saturate. -/
def toInt32 : FV → Int
  | .nan => 0
  | .inf neg => if neg then -2147483648 else 2147483647
  | .fin neg m e => if e > 40 ∧ m ≠ 0 then (if neg then -2147483648 else 2147483647) else satInt 32 (rneInt neg m e)

/-- VCVT of one lane by SUB 0 to 7 (R131, Table 4.5). -/
def cvtLane (sub : Nat) (w : W32) : W32 :=
  match sub with
  | 0 => BitVec.ofNat 32 (toBF16 (ewp w))
  | 1 => out32 (ewp (BitVec.ofNat 32 (w.toNat % 65536 * 65536)))
  | 2 => BitVec.ofNat 32 (toE4M3 (ewp w))
  | 3 => BitVec.ofNat 32 (toE5M2 (ewp w))
  | 4 => out32 (valE4M3 (w.toNat % 256))
  | 5 => out32 (valE5M2 (w.toNat % 256))
  | 6 => fofInt (toInt 32 w.toNat)
  | _ => BitVec.ofNat 32 (ofInt 32 (toInt32 (ewp w)))

/-- The signed exponent of an exponent byte: bits [5:0] (04 Table 4.1). -/
def expOf (b : Nat) : Int := toInt 6 b

/-- The exponent byte written for e: six bits with [7:6] copies of bit 5 (04 Table 4.1). -/
def expByte (e : Int) : Nat := ofInt 8 e

/-- A value times 2^k. -/
def FV.scale (k : Int) : FV → FV
  | .fin neg m e => .fin neg m (e + k)
  | v => v

/-- An integer as a value. -/
def FV.ofInt (z : Int) : FV := .fin (decide (z < 0)) z.natAbs 0

/-- VSCL of one lane (R132), SUB 0 to 2. -/
def sclLane (sub : Nat) (a f : W32) : W32 :=
  let x : FV := match sub with
    | 0 => FV.ofInt (toInt 24 a.toNat)
    | 1 => valE4M3 (a.toNat % 256)
    | _ => valE5M2 (a.toNat % 256)
  out32 ((x.scale (expOf (bits a.toNat 31 24))).mul (ewp f))

/-- floor(log2 |x|) of a nonzero finite value. -/
def FV.ilog : FV → Int
  | .fin _ m e => e + (m.log2 : Int)
  | _ => 0

/-- k of Table 4.6. -/
def qntK (sub : Nat) : Int :=
  match sub with
  | 0 => 6
  | 1 => 2
  | 2 => 7
  | 3 => 14
  | _ => 0

/-- The exponent VQNT gives a block of 32 products (R133). -/
def qntExp (sub : Nat) (ys : List W32) : Int :=
  if sub = 4 then 0
  else
    match ys.foldl (fun (best : Option Int) y =>
        match ewp y with
        | .fin _ m e => if m = 0 then best else
            (match best with
             | none => some (e + (m.log2 : Int))
             | some b => some (max b (e + (m.log2 : Int))))
        | _ => best) none with
    | none => 0
    | some l => max (-32) (min 31 (l - qntK sub))

/-- An integer code saturated to +-lim, as 24 bits; a NaN codes as 0 (Table 4.6). -/
def qntInt (lim : Int) : FV → Nat
  | .nan => 0
  | .inf neg => ofInt 24 (if neg then -lim else lim)
  | .fin neg m e =>
    if e > 40 ∧ m ≠ 0 then ofInt 24 (if neg then -lim else lim)
    else ofInt 24 (max (-lim) (min lim (rneInt neg m e)))

/-- The code of one product of a block whose exponent is e (R133, Table 4.6). -/
def qntCode (sub : Nat) (e : Int) (y : W32) : Nat :=
  let v := (ewp y).scale (-e)
  match sub with
  | 1 => qntInt 7 v
  | 2 => (match v with | .inf neg => b2n neg * 128 + 0x7E | _ => toE4M3 v)
  | 3 => toE5M2 v
  | _ => qntInt 127 v

/-- VQNT of one block of 32 lanes (R133). -/
def qntBlock (sub : Nat) (as bs : List W32) : List W32 :=
  let ys := List.zipWith fmul as bs
  let e := qntExp sub ys
  ys.map (fun y => BitVec.ofNat 32 (expByte e * 2 ^ 24 + qntCode sub e y))

/-! ### Compensated primitives (R134) -/

def twoSum (a b : W32) : W32 × W32 :=
  let s := fadd a b
  let bb := fsub s a
  (s, fadd (fsub a (fsub s bb)) (fsub b bb))

def twoProd (a b : W32) : W32 × W32 :=
  let p := fmul a b
  (p, out32 (((ewp a).mul (ewp b)).add (ewp p).neg))

def renorm (main err : W32) : W32 × W32 :=
  let s := fadd main err
  (s, fsub err (fsub s main))

/-! ### Tile arithmetic (R124, R125) -/

/-- One column of FP32 mode: the aligned, truncated sum of the exact products, rounded once (R125). -/
def tileSum (vs : List FV) : W32 :=
  if vs.any (fun v => v == .nan) then nan32
  else if vs.any (fun v => match v with | .inf _ => true | _ => false) then
    if vs.all (fun v => v != .inf true) then inf32 false
    else if vs.all (fun v => v != .inf false) then inf32 true
    else nan32
  else
    match vs.foldl (fun (best : Option Int) v =>
        match v with
        | .fin _ m e => if m = 0 then best else
            (match best with
             | none => some (e + (m.log2 : Int))
             | some b => some (max b (e + (m.log2 : Int))))
        | _ => best) none with
    | none => zero32 false
    | some q =>
      let t : Int := vs.foldl (fun acc v =>
        match v with
        | .fin neg m e =>
          let k : Int := e + 30 - q
          acc + (if k ≥ 0 then scaled neg (m * 2 ^ k.toNat) 0 0 else (scaled neg m 0 0) / ((2 ^ (-k).toNat : Nat) : Int))
        | _ => acc) 0
      fl32 (decide (t < 0)) t.natAbs (q - 30)

/-- IEEE 754 addition of two accumulator words, half-even, flushed (R125). -/
def accAdd (a b : W32) : W32 := out32 ((val32 a).add (val32 b))

/-- A quotient n / d (d not 0) as an odd-sticky significand and exponent: rounding it to fewer than 64 bits rounds the exact quotient. -/
def quotient (n d : Nat) : Nat × Int :=
  let k := 66 + d.log2 + 1 - n.log2
  let q := n * 2 ^ k / d
  (2 * q + (if n * 2 ^ k % d = 0 then 0 else 1), -((k : Nat) : Int) - 1)

/-- fl32 of the exact quotient of two integers. -/
def flQuot (neg : Bool) (n d : Nat) : W32 := let r := quotient n d; fl32 neg r.1 r.2

/-- fl32 of the quotient a / b in the conventions of R127: 0 / 0 and infinity / infinity are NaN, a finite value over 0 an infinity. -/
def fdiv (a b : W32) : W32 :=
  match ewp a, ewp b with
  | .nan, _ => nan32
  | _, .nan => nan32
  | .inf _, .inf _ => nan32
  | .inf x, .fin y _ _ => inf32 (x != y)
  | .fin x _ _, .inf y => zero32 (x != y)
  | .fin x m e, .fin y n f =>
    if n = 0 then (if m = 0 then nan32 else inf32 (x != y))
    else if m = 0 then zero32 (x != y)
    else
      let r := quotient m n
      fl32 (x != y) r.1 (r.2 + e - f)

/-- FP32 of a finite FP64 pattern, rounded once; a subnormal FP64 value rounds to a zero. -/
def f64to32 (n : Nat) : W32 :=
  let neg := n.testBit 63
  let ex := bits n 62 52
  let fr := bits n 51 0
  if ex = 2047 then (if fr = 0 then inf32 neg else nan32)
  else if ex = 0 then zero32 neg
  else fl32 neg (fr + 2 ^ 52) ((ex : Int) - 1075)

end Sys2Proof.Machine
end

