-- ==== Sys2Proof/Config.lean ====
section
/-! DEFINITION. What the spec leaves to the silicon, to the outside world or to no one: constants without a body, so that nothing
can evaluate them. Each is named in a log entry (notes/assumptions). -/

namespace Sys2Proof.Config

/-- A value the spec leaves open after an operation that goes on, by its position in the sequence of free values. -/
opaque freeWord : Nat → BitVec 64

/-- TYPE of a trace packet by source and event: "source-specific" (17 Table 17.16). -/
opaque traceType : Nat → Nat → BitVec 8

/-- DATA of a trace packet from the two values Table 17.16 names for its source: the packing is not stated. -/
opaque traceData : Nat → Nat → Nat → BitVec 64

/-- Fixed latency of camera receiver p in ns, taken off its stamps (09 Table 9.2: fixed, no figure). -/
opaque csiLatency : Nat → Nat

/-- Component i (0 to 3 orientation, 4 to 6 position, FP64) of the pose at a time up to 500 us after the newest entry of the history, from the time and the last two
entries: 09 R255 gives the limit and no value. -/
opaque poseAhead : List Nat → Nat → BitVec 64

/-- Element i of a relative pose that is flagged NOPOSE, from its two times (09 R255): 0 to 3 the orientation, 4 to 6 the translation, 7 to 15 the rotation matrix, FP32. -/
opaque relPose : List Nat → Nat → BitVec 32

/-- Component i of an aligned unit quaternion from u and the two inputs: 09 R259 gives bounds only, and the value counts where it keeps them. -/
opaque slerp : BitVec 32 → List (BitVec 32) → List (BitVec 32) → Nat → BitVec 32

/-- Fuse of Vat v from which MAXM follows (16 R411: per silicon, 48 to 52). -/
opaque fuse : Nat → Nat

/-- The grade of the silicon: automotive, or industrial (19 R508). -/
opaque automotive : Bool

/-- Fused weight of activity event i (16 R424, PWR_ACT_Wi). -/
opaque actWeight : Nat → BitVec 32

/-- Role (1 operator, 2 installer, 3 maker), KEY_ID and epoch of a certificate, by its bytes: 17 R432 names them and gives no layout. -/
opaque certRole : List Byte → Nat
opaque certKey : List Byte → BitVec 16
opaque certEpoch : List Byte → BitVec 6

/-- The maker root key whose SHA-384 digest is fused signs the certificate (17 R432: ECDSA P-384; the certificate's layout is not given). -/
opaque rootSigned : List Byte → List Byte → Bool

/-- The key of the first certificate signs the second. -/
opaque certSigned : List Byte → List Byte → Bool

/-- A 96-byte signature verifies under the key of a certificate over a 48-byte digest. -/
opaque sigBy : List Byte → List Byte → List Byte → Bool

/-- A 96-byte signature verifies under the maker root key with the fused digest, over a 48-byte digest (18 R473). -/
opaque rootSig : List Byte → List Byte → List Byte → Bool

/-- Byte i of the fused device serial (17 Table 17.9). -/
opaque serial : Nat → Byte

end Sys2Proof.Config
end

