-- ==== Sys2Proof/Machine/Flags.lean ====
section
/-! DEFINITION. The tests and flags of the spec: scalar comparisons and predicate operations (03 Table 3.9), the SWAIT conditions
(03 R98), guards (03 R86), the sticky error bits of a block (01 Table 1.15) and the status codes (00 Table 0.7). -/

namespace Sys2Proof.Machine

/-- CMPEQ, CMPLT (signed), CMPLTU (unsigned) (03 Table 3.9). -/
inductive Cmp where
  | eq | lt | ltu
deriving DecidableEq, Repr

/-- The comparison of a with b. -/
def Cmp.test : Cmp → W64 → W64 → Bool
  | .eq, a, b => a == b
  | .lt, a, b => decide (a.toInt < b.toInt)
  | .ltu, a, b => decide (a.toNat < b.toNat)

/-- The SWAIT test under COND of value x against threshold t (03 R98). -/
def swaitTest (cond x t : Nat) : Bool :=
  let a := if cond < 4 then x else x % 2 ^ 32
  let b := if cond < 4 then t else t % 2 ^ 32
  match cond % 4 with
  | 0 => decide (b ≤ a)
  | 1 => a == b
  | 2 => a != b
  | _ => decide (a < b)

/-- A slot operation executes if p[PRED] XOR NEG (03 R86); preds holds p15 to p0, p0 being 1. -/
def guardHolds (preds pred : Nat) (neg : Bool) : Bool := bit preds pred != neg

/-! ### Sticky error bits of PFX_ERR (01 Table 1.15) -/
def errUnmapped : Nat := 0
def errState : Nat := 1
def errRole : Nat := 2
def errWidth : Nat := 3
def errValue : Nat := 4

/-! ### Status codes (00 Table 0.7) -/
def stDone : Nat := 0x00
def stAccepted : Nat := 0x01
def stBadArg : Nat := 0x10
def stStateConflict : Nat := 0x11
def stRoleDenied : Nat := 0x12
def stNoSpace : Nat := 0x13
def stInternal : Nat := 0x14
def stDoubt : Nat := 0x15
def stTierLate : Nat := 0x20
def stTierFault : Nat := 0x21
def stDeadlineMiss : Nat := 0x22
def stPreempted : Nat := 0x23
def stStaleGen : Nat := 0x24
def stPeerLost : Nat := 0x25
def stCapReached : Nat := 0x30
def stWsMismatch : Nat := 0x31
def stPivotReg : Nat := 0x32
def stNoPath : Nat := 0x38
def stPlanTimeout : Nat := 0x39
def stStaleMap : Nat := 0x3A
def stImminent : Nat := 0x3B
def stAlignLost : Nat := 0x40

end Sys2Proof.Machine
end

