-- ==== Sys2Proof/Machine/Crc.lean ====
section
/-! DEFINITION. The two check codes of the spec: CRC-32C (02 Table 2.1, 06 R202, 12 R328, 14 R359, 15 Table 15.7,
17 R452, 18) and CRC-64/ECMA-182 in the form 09 R252 gives. -/

namespace Sys2Proof.Machine

/-- One byte into a reflected CRC-32C register (polynomial 0x1EDC6F41, reflected 0x82F63B78). PRESUMED, log entry 6: the
spec names CRC-32C without its parameters. -/
def crc32cBits : Nat → Nat → Nat
  | 0, r => r
  | n + 1, r => crc32cBits n (if r % 2 = 1 then (r / 2) ^^^ 0x82F63B78 else r / 2)

/-- One byte into the register. -/
def crc32cByte (r : Nat) (b : Byte) : Nat := crc32cBits 8 (r ^^^ b.toNat)

/-- CRC-32C of a byte string. -/
def crc32c (l : List Byte) : Nat := (l.foldl crc32cByte 0xFFFFFFFF) ^^^ 0xFFFFFFFF

/-- Eight shifts of an unreflected 64-bit CRC register (09 R252: polynomial 0x42F0_E1EB_A9EA_3693, no reflection). -/
def crc64Bits : Nat → Nat → Nat
  | 0, r => r
  | n + 1, r =>
    crc64Bits n (if r ≥ 2 ^ 63 then ((r * 2) % 2 ^ 64) ^^^ 0x42F0E1EBA9EA3693 else r * 2)

/-- One byte into the register. -/
def crc64Byte (r : Nat) (b : Byte) : Nat := crc64Bits 8 (r ^^^ (b.toNat * 2 ^ 56))

/-- CRC-64 of a byte string (09 R252: initial value and final XOR all ones). -/
def crc64 (l : List Byte) : Nat := (l.foldl crc64Byte 0xFFFFFFFFFFFFFFFF) ^^^ 0xFFFFFFFFFFFFFFFF

end Sys2Proof.Machine
end

