-- ==== Sys2Proof/Machine/Maps.lean ====
section
/-! DEFINITION. Sparse maps: lists of (key, value) pairs in one canonical form (keys strictly rising, no entry
equal to the value an unlisted key reads as). Memory, the register file, sync cells and the tables of the blocks
are kept so; Laws/Maps.lean proves that every operation keeps the form. -/

namespace Sys2Proof.Machine

/-- The value at key k; an unlisted key reads as d. -/
def mapGet {α : Type} (d : α) : List (Nat × α) → Nat → α
  | [], _ => d
  | (j, v) :: m, k => if j = k then v else mapGet d m k

/-- m without key k. -/
def mapErase {α : Type} : List (Nat × α) → Nat → List (Nat × α)
  | [], _ => []
  | (j, w) :: m, k => if j = k then m else (j, w) :: mapErase m k

/-- m with value v entered at key k, in key order. -/
def mapInsert {α : Type} : List (Nat × α) → Nat → α → List (Nat × α)
  | [], k, v => [(k, v)]
  | (j, w) :: m, k, v =>
    if k < j then (k, v) :: (j, w) :: m
    else if k = j then (k, v) :: m
    else (j, w) :: mapInsert m k v

/-- m with key k reading as v: writing the value an unlisted key reads as removes the entry. -/
def mapSet {α : Type} [DecidableEq α] (d : α) (m : List (Nat × α)) (k : Nat) (v : α) : List (Nat × α) :=
  if v = d then mapErase m k else mapInsert m k v

/-- The keys rise strictly from above lo. -/
def keysRise {α : Type} : List (Nat × α) → Bool
  | [] => true
  | [_] => true
  | (j, _) :: (k, w) :: m => decide (j < k) && keysRise ((k, w) :: m)

/-- The canonical form of a sparse map whose unlisted keys read as d. -/
def mapWf {α : Type} [DecidableEq α] (d : α) (m : List (Nat × α)) : Bool :=
  keysRise m && m.all (fun e => decide (e.2 ≠ d))

/-- Insert k into a strictly rising list of numbers (a set kept in canonical form). -/
def setInsert : List Nat → Nat → List Nat
  | [], k => [k]
  | j :: m, k => if k < j then k :: j :: m else if k = j then j :: m else j :: setInsert m k

/-- A log of at most n entries, oldest first, in which a new entry replaces the oldest when full. -/
def logPush {α : Type} (n : Nat) (l : List α) (e : α) : List α :=
  if l.length < n then l ++ [e] else l.drop (l.length + 1 - n) ++ [e]

/-- l with element i replaced by f of it; l itself where i is outside. -/
def listModify {α : Type} (f : α → α) : List α → Nat → List α
  | [], _ => []
  | a :: l, 0 => f a :: l
  | a :: l, i + 1 => a :: listModify f l i

/-- l with element i replaced by a. -/
def listSet {α : Type} (l : List α) (i : Nat) (a : α) : List α := listModify (fun _ => a) l i

end Sys2Proof.Machine
end

