-- ==== Sys2Proof/Machine/RegTable.lean ====
section
/-! DEFINITION. The register table: one row per register array of the register tables of spec 02 to 17, with the common
header of 01 R38, and one named key per register. A key is block index * 2^20 + offset (01 R37). -/

namespace Sys2Proof.Machine

/-- The access codes of Table 0.3 (00 R9). -/
inductive Access where
  | ro | rw | wo | w1c | w1s | rc | ra
deriving DecidableEq, Repr

/-- One row of a register table: block, instances of the block, offset, two strides, width, access, reset value,
the bits a write may set (the others are RSV, RO or absent), and the values R511 accepts. -/
structure RegRow where
  name : String
  blk : Nat
  nblk : Nat
  off : Nat
  n1 : Nat
  s1 : Nat
  n2 : Nat
  s2 : Nat
  width : Nat
  acc : Access
  reset : Nat
  mask : Nat
  ok : Nat → Bool

/-- Every value of the field is an encoding (00 R511). -/
def anyV : Nat → Bool := fun _ => true

/-- MBX_STATE (17 Table 17.6): FW, AUTH, TIME, POWER and OBS hold encodings of the table. -/
def mbxStateOk (v : Nat) : Bool :=
  [1, 2, 3, 4, 6, 7].contains (v % 256) && v / 2 ^ 8 % 4 != 3 && v / 2 ^ 10 % 4 != 3 && v / 2 ^ 12 % 4 != 3 && v / 2 ^ 14 % 4 != 3

/-- ING_CSI_CFG (09 R243, Table 9.1): 1, 2 or 4 lanes of D-PHY up to 4.5 Gb/s, 1 to 3 trios of C-PHY up to 3.5 Gsym/s; a receiver that is not enabled may name none
(the reset value; DEDUCED, log entry 44). -/
def csiCfgOk (v : Nat) : Bool :=
  let lanes := v / 4 % 8
  let rate := v / 256 % 256
  let off := v % 2 == 0
  ((off && lanes == 0) || lanes == 1 || lanes == 2 || lanes == (if v / 2 % 2 = 0 then 4 else 3)) &&
    ((off && rate == 0) || (1 ≤ rate && rate ≤ (if v / 2 % 2 = 0 then 45 else 35)))

/-- ING_CAN_CFG (09 R243, Table 9.1): nominal rate 125 kb/s to 1 Mb/s, data phase up to 5 Mb/s with FD and 10 Mb/s with XL; a controller that is not enabled may
name none (DEDUCED, log entry 44). -/
def canCfgOk (v : Nat) : Bool :=
  let off := v / 2 ^ 34 % 2 == 0
  let nom := v % 65536
  let data := v / 65536 % 65536
  ((off && nom == 0) || (125 ≤ nom && nom ≤ 1000)) && data ≤ (if v / 2 ^ 33 % 2 = 1 then 100 else 50) &&
    (off || v / 2 ^ 32 % 4 == 0 || 1 ≤ data)

/-- XSL_ROUTE (14 Table 14.5): each byte names a port 0 to 5, or 0xF for none. -/
def routeOk (v : Nat) : Bool := (List.range 8).all (fun i => v / 2 ^ (8 * i) % 16 ≤ 5 || v / 2 ^ (8 * i) % 16 == 15)

/-- LOOP_PERIOD (12 R316): PERIOD_NS is a multiple of 4 between 1,600 and 1,000,000. -/
def loopPeriodOk (v : Nat) : Bool := v % 4 == 0 && 1600 ≤ v && v ≤ 1000000

/-- A row from its columns, in the order of the register tables. -/
def rr (name : String) (blk nblk off n1 s1 n2 s2 width : Nat) (acc : Access) (reset mask : Nat) (ok : Nat → Bool) :
    RegRow := ⟨name, blk, nblk, off, n1, s1, n2, s2, width, acc, reset, mask, ok⟩

/-- The key of the register at an offset of a block (01 R37). -/
def regKey (blk off : Nat) : Nat := blk * 0x100000 + off

/-- Registers of the MBX_ block. -/
def regRowsMbx : List RegRow := [
  rr "MBX_ID" 0 1 0 1 0 1 0 32 .ro 0 0 anyV,
  rr "MBX_ERR" 0 1 4 1 0 1 0 32 .w1c 0 0x1F anyV,
  rr "MBX_CAPS" 0 1 0x10 1 0 1 0 32 .ro 0x10100008 0 anyV,
  rr "MBX_STATE" 0 1 0x14 1 0 1 0 32 .rw 0x2101 0x1CFFFF mbxStateOk,
  rr "MBX_DB_PEND" 0 1 0x18 1 0 1 0 32 .ro 0 0 anyV,
  rr "MBX_DB_ACK" 0 1 0x1C 1 0 1 0 32 .w1c 0 0xFFFF anyV,
  rr "MBX_OWNER" 0 1 0x20 1 0 1 0 32 .rw 0xFFFF 0xFFFF anyV,
  rr "MBX_IRQ" 0 1 0x24 1 0 1 0 32 .wo 0 0x1F (fun v => v ≤ 16),
  rr "MBX_LOAD_AREA" 0 1 0x28 1 0 1 0 32 .rw 0 0xFFFFFFFF (fun v => v % 4194304 == 0),
  rr "MBX_HS_CE_CNT" 0 1 0x30 1 0 1 0 32 .rc 0 0 anyV,
  rr "MBX_HS_UE_CNT" 0 1 0x34 1 0 1 0 32 .rc 0 0 anyV,
  rr "MBX_HS_UE_LOG" 0 1 0x38 1 0 1 0 64 .ra 0 0 anyV,
  rr "MBX_GS_CE_CNT" 0 1 0x40 1 0 1 0 32 .rc 0 0 anyV,
  rr "MBX_GS_UE_CNT" 0 1 0x44 1 0 1 0 32 .rc 0 0 anyV,
  rr "MBX_GS_UE_LOG" 0 1 0x48 1 0 1 0 64 .ra 0 0 anyV,
  rr "MBX_SNP_STATE" 0 1 0xF0000 1 0 1 0 32 .ro 0 0 anyV]

/-- Registers of the CG_ block. -/
def regRowsCg : List RegRow := [
  rr "CG_ID" 1 1 0 1 0 1 0 32 .ro 0 0 anyV,
  rr "CG_ERR" 1 1 4 1 0 1 0 32 .w1c 0 0x1F anyV,
  rr "CG_CAPS" 1 1 0x10 1 0 1 0 32 .ro 0x400008 0 anyV,
  rr "CG_STAGE_HDR" 1 1 0x18 1 0 1 0 64 .rw 0 0xFFFFFFFFFFFFFFFF anyV,
  rr "CG_STAGE_T" 1 1 0x20 1 0 1 0 64 .rw 0 0xFFFFFFFFFFFFFFFF anyV,
  rr "CG_STAGE_ROLE" 1 1 0x28 1 0 1 0 32 .rw 0 3 anyV,
  rr "CG_SUBMIT" 1 1 0x30 1 0 1 0 32 .wo 0 0xFFFFFFFF anyV,
  rr "CG_LAST" 1 1 0x34 1 0 1 0 32 .ro 0 0 anyV,
  rr "CG_APPLY_CNT" 1 1 0x38 1 0 1 0 32 .rc 0 0 anyV,
  rr "CG_ABORT_CNT" 1 1 0x3C 1 0 1 0 32 .rc 0 0 anyV,
  rr "CG_STATUS" 1 1 0x100 8 0x10 1 0 64 .ro 0 0 anyV,
  rr "CG_CANCEL" 1 1 0x108 8 0x10 1 0 32 .wo 0 0xFFFFFFFF anyV,
  rr "CG_STAGE_E" 1 1 0x1000 64 0x20 3 8 64 .rw 0 0xFFFFFFFFFFFFFFFF anyV,
  rr "CG_SNP_STATUS" 1 1 0xF0000 1 0 1 0 64 .ro 0 0 anyV]

/-- Registers of the FRT_ block. -/
def regRowsFrt : List RegRow := [
  rr "FRT_ID" 2 1 0 1 0 1 0 32 .ro 0 0 anyV,
  rr "FRT_ERR" 2 1 4 1 0 1 0 32 .w1c 0 0x1F anyV,
  rr "FRT_CAPS" 2 1 0x10 1 0 1 0 32 .ro 0x28000C 0 anyV,
  rr "FRT_STATUS" 2 1 0x14 1 0 1 0 32 .ro 0 0 anyV,
  rr "FRT_CTRL" 2 1 0x18 1 0 1 0 32 .rw 0 3 anyV,
  rr "FRT_FRAME_CNT" 2 1 0x20 1 0 1 0 64 .ro 0 0 anyV,
  rr "FRT_SLOT_NOW" 2 1 0x28 1 0 1 0 32 .ro 0 0 anyV,
  rr "FRT_TRIM_LAST" 2 1 0x2C 1 0 1 0 32 .ro 0 0 anyV,
  rr "FRT_LOAD_SRC" 2 1 0x30 1 0 1 0 64 .rw 0 0xFFFFFFFFFFFFFFFF anyV,
  rr "FRT_LOAD_LEN" 2 1 0x38 1 0 1 0 32 .rw 0 0xFFFFFFFF anyV,
  rr "FRT_LOAD_CMD" 2 1 0x3C 1 0 1 0 32 .wo 0 0xFFFFFFFF anyV,
  rr "FRT_ACTIVE_ID" 2 1 0x40 1 0 1 0 32 .ro 0 0 anyV,
  rr "FRT_ACTIVE_VER" 2 1 0x44 1 0 1 0 32 .ro 0 0 anyV,
  rr "FRT_OVR_CNT" 2 1 0x48 1 0 1 0 32 .rc 0 0 anyV,
  rr "FRT_CUT_CNT" 2 1 0x4C 1 0 1 0 32 .rc 0 0 anyV,
  rr "FRT_DONATE_CNT" 2 1 0x50 1 0 1 0 32 .rc 0 0 anyV,
  rr "FRT_SLIP_CNT" 2 1 0x54 1 0 1 0 32 .rc 0 0 anyV,
  rr "FRT_OVR_LOG" 2 1 0x58 1 0 1 0 64 .ra 0 0 anyV,
  rr "FRT_VAT_STATE" 2 1 0x100 8 8 1 0 64 .ro 0xFFF000000000 0 anyV,
  rr "FRT_FILL_EN" 2 1 0x400 256 4 1 0 32 .rw 0 1 anyV,
  rr "FRT_FILL_CUR" 2 1 0x800 256 4 1 0 32 .ro 0 0 anyV,
  rr "FRT_RC_DENY_CNT" 2 1 0x1000 16 4 1 0 32 .rc 0 0 anyV,
  rr "FRT_RC_DENY_LOG" 2 1 0x1040 1 0 1 0 64 .ra 0 0 anyV]

/-- Registers of the MIG_ block. -/
def regRowsMig : List RegRow := [
  rr "MIG_ID" 3 1 0 1 0 1 0 32 .ro 0 0 anyV,
  rr "MIG_ERR" 3 1 4 1 0 1 0 32 .w1c 0 0x1F anyV,
  rr "MIG_CAPS" 3 1 0x10 1 0 1 0 32 .ro 0xC0000200 0 anyV,
  rr "MIG_STATUS" 3 1 0x14 1 0 1 0 32 .ro 0 0 anyV,
  rr "MIG_IPT_BASE" 3 1 0x18 1 0 1 0 32 .rw 0 0x3FF0000 anyV,
  rr "MIG_POOL" 3 1 0x20 4 4 1 0 32 .rw 0 0x3FFF (fun v => v ≤ 12288),
  rr "MIG_RES_FRAMES" 3 1 0x30 1 0 1 0 32 .ro 0 0 anyV,
  rr "MIG_RES_CFG" 3 1 0x34 1 0 1 0 32 .rw 0 0x1F (fun v => v % 4 ≤ 2 && v / 4 % 4 ≤ 2),
  rr "MIG_AQ_STATUS" 3 1 0x38 1 0 1 0 32 .ro 0 0 anyV,
  rr "MIG_CMD" 3 1 0x100 8 8 1 0 64 .wo 0 0xFFFFFFFFFFFFFFFF anyV,
  rr "MIG_CMD_PUSH" 3 1 0x140 1 0 1 0 32 .wo 0 0xFFFFFFFF anyV,
  rr "MIG_CPL" 3 1 0x148 1 0 1 0 64 .ra 0 0 anyV,
  rr "MIG_MISS_CNT" 3 1 0x150 1 0 1 0 32 .rc 0 0 anyV,
  rr "MIG_LATE_CNT" 3 1 0x154 1 0 1 0 32 .rc 0 0 anyV,
  rr "MIG_FAULT_CNT" 3 1 0x158 1 0 1 0 32 .rc 0 0 anyV,
  rr "MIG_DROP_CNT" 3 1 0x15C 1 0 1 0 32 .rc 0 0 anyV,
  rr "MIG_RES_CE_CNT" 3 1 0x160 1 0 1 0 32 .rc 0 0 anyV,
  rr "MIG_FAULT_LOG" 3 1 0x168 1 0 1 0 64 .ra 0 0 anyV,
  rr "MIG_SNP_STATUS" 3 1 0xF0000 1 0 1 0 32 .ro 0 0 anyV,
  rr "MIG_SNP_MISS" 3 1 0xF0004 1 0 1 0 32 .ro 0 0 anyV]

/-- Registers of the ING_ block. -/
def regRowsIng : List RegRow := [
  rr "ING_ID" 4 1 0 1 0 1 0 32 .ro 0 0 anyV,
  rr "ING_ERR" 4 1 4 1 0 1 0 32 .w1c 0 0x1F anyV,
  rr "ING_CAPS" 4 1 0x10 1 0 1 0 32 .ro 0x60080402 0 anyV,
  rr "ING_STATUS" 4 1 0x14 1 0 1 0 32 .ro 0 0 anyV,
  rr "ING_STAGE_HWM" 4 1 0x18 1 0 1 0 32 .rc 0 0 anyV,
  rr "ING_SAMPLE_CNT" 4 1 0x20 1 0 1 0 32 .rc 0 0 anyV,
  rr "ING_DROP_CNT" 4 1 0x24 1 0 1 0 32 .rc 0 0 anyV,
  rr "ING_LINK_ERR_CNT" 4 1 0x28 1 0 1 0 32 .rc 0 0 anyV,
  rr "ING_FROZEN_CNT" 4 1 0x2C 1 0 1 0 32 .rc 0 0 anyV,
  rr "ING_SKIP_CNT" 4 1 0x30 1 0 1 0 32 .rc 0 0 anyV,
  rr "ING_NOMATCH_CNT" 4 1 0x34 1 0 1 0 32 .rc 0 0 anyV,
  rr "ING_CSI_CFG" 4 1 0x100 8 8 1 0 32 .rw 0 0xFF1F csiCfgOk,
  rr "ING_CAN_CFG" 4 1 0x180 2 8 1 0 64 .rw 0 0x7FFFFFFFF canCfgOk,
  rr "ING_CTX_CFG" 4 1 0x1000 96 0x40 1 0 64 .rw 0 0x8000000000000FFF anyV,
  rr "ING_CTX_FILT" 4 1 0x1008 96 0x40 1 0 64 .rw 0 0xFFFFFFFFFFFFFFFF anyV,
  rr "ING_CTX_TIME" 4 1 0x1010 96 0x40 1 0 64 .rw 0 0xFFFFFFFFFFFFFFFF anyV,
  rr "ING_CTX_LIM" 4 1 0x1018 96 0x40 1 0 64 .rw 0 0xFFFFFFFFFFFFFFF anyV,
  rr "ING_CTX_RING" 4 1 0x1020 96 0x40 1 0 64 .rw 0 0x1FFFFFFFFFFFFFFF (fun v => 8 ≤ v / 2 ^ 48 % 32 && v / 2 ^ 48 % 32 ≤ 26 && v % 2 ^ (v / 2 ^ 48 % 32) == 0),
  rr "ING_CTX_CELL" 4 1 0x1028 96 0x40 1 0 64 .rw 0 0x8000FFFFFFFFFFFF anyV,
  rr "ING_CTX_CNT" 4 1 0x1030 96 0x40 1 0 64 .rw 0 0x3FFFFFF07FFFFFF (fun v => v / 2 ^ 24 % 4 ≤ 2 && v / 2 ^ 56 % 4 ≤ 2),
  rr "ING_CTX_STAT" 4 1 0x1038 96 0x40 1 0 64 .ro 0 0 anyV,
  rr "ING_SNP_STATUS" 4 1 0xF0000 1 0 1 0 32 .ro 0 0 anyV,
  rr "ING_SNP_SEQ" 4 1 0xF0100 96 4 1 0 32 .ro 0 0 anyV]

/-- Registers of the FUS_ block. -/
def regRowsFus : List RegRow := [
  rr "FUS_ID" 5 1 0 1 0 1 0 32 .ro 0 0 anyV,
  rr "FUS_ERR" 5 1 4 1 0 1 0 32 .w1c 0 0x1F anyV,
  rr "FUS_CAPS" 5 1 0x10 1 0 1 0 32 .ro 0x10400410 0 anyV,
  rr "FUS_STATUS" 5 1 0x14 1 0 1 0 32 .ro 0 0 anyV,
  rr "FUS_CAL_BASE" 5 1 0x18 1 0 1 0 32 .rw 0 0xFFFFFFFF (fun v => v % 128 == 0),
  rr "FUS_VMAP_BASE" 5 1 0x1C 1 0 1 0 32 .rw 0 0xFFFFFFFF (fun v => v % 64 == 0),
  rr "FUS_POSE_BASE" 5 1 0x20 1 0 1 0 32 .rw 0 0xFFFFFFFF (fun v => v % 64 == 0),
  rr "FUS_EGO_CFG" 5 1 0x28 1 0 1 0 64 .rw 0 0xFFF7F7F03 anyV,
  rr "FUS_EGO_VEL_ADDR" 5 1 0x30 1 0 1 0 64 .rw 0 0xFFFFFFFFFFFFFFFF (fun v => v % 16 == 0),
  rr "FUS_EGO_TICK" 5 1 0x38 1 0 1 0 64 .ro 0 0 anyV,
  rr "FUS_REQ_CNT" 5 1 0x40 1 0 1 0 32 .rc 0 0 anyV,
  rr "FUS_MISS_CNT" 5 1 0x44 1 0 1 0 32 .rc 0 0 anyV,
  rr "FUS_LATE_USE_CNT" 5 1 0x48 1 0 1 0 32 .rc 0 0 anyV,
  rr "FUS_LATE_DROP_CNT" 5 1 0x4C 1 0 1 0 32 .rc 0 0 anyV,
  rr "FUS_ALOST_CNT" 5 1 0x50 1 0 1 0 32 .rc 0 0 anyV,
  rr "FUS_EXCL_CNT" 5 1 0x54 1 0 1 0 32 .rc 0 0 anyV,
  rr "FUS_EGO_DEG_CNT" 5 1 0x58 1 0 1 0 32 .rc 0 0 anyV,
  rr "FUS_PROJ_CUT_CNT" 5 1 0x5C 1 0 1 0 32 .rc 0 0 anyV,
  rr "FUS_CH_CFG" 5 1 0x1000 16 0x40 1 0 64 .rw 0 0xFFFFFFFFFFFFFF1F (fun v => v / 2 ^ 12 % 16 ≤ 8 && v / 2 ^ 16 % 32 == 0),
  rr "FUS_CH_TIME" 5 1 0x1008 16 0x40 1 0 64 .rw 0 0xFFFFFFFFFF (fun v => 250 ≤ v % 2 ^ 20 && v % 2 ^ 20 ≤ 1000000 && v / 2 ^ 20 % 2 ^ 20 ≤ v % 2 ^ 20),
  rr "FUS_CH_PHASE" 5 1 0x1010 16 0x40 1 0 64 .rw 0 0xFFFFFFFFFFFFFFFF anyV,
  rr "FUS_CH_LIST0" 5 1 0x1018 16 0x40 1 0 64 .rw 0 0xFFFFFFFFFFFFFFFF anyV,
  rr "FUS_CH_LIST1" 5 1 0x1020 16 0x40 1 0 64 .rw 0 0xFFFFFFFFFFFFFFFF anyV,
  rr "FUS_CH_OUT" 5 1 0x1028 16 0x40 1 0 64 .rw 0 0xFFFFFFFFFFFFFF (fun v => v % 4096 == 0),
  rr "FUS_CH_CELL" 5 1 0x1030 16 0x40 1 0 64 .rw 0 0x8000FFFFFFFFFFFF anyV,
  rr "FUS_CH_STATE" 5 1 0x1038 16 0x40 1 0 64 .ro 0 0 anyV,
  rr "FUS_AS_CFG" 5 1 0x2000 4 0x40 1 0 64 .rw 0 0xFFFFFFFF00000F01 anyV,
  rr "FUS_AS_TIME" 5 1 0x2008 4 0x40 1 0 64 .rw 0 0xFFFFFF anyV,
  rr "FUS_AS_TRACK" 5 1 0x2010 4 0x40 1 0 64 .rw 0 0xFFFFFFFFFFFFFFFF anyV,
  rr "FUS_AS_DET" 5 1 0x2018 4 0x40 1 0 64 .rw 0 0xFFFFFFFFFFFFFFFF anyV,
  rr "FUS_AS_OUT" 5 1 0x2020 4 0x40 1 0 64 .rw 0 0xFFFFFFFFFFFFFFFF anyV,
  rr "FUS_AS_READY" 5 1 0x2028 4 0x40 1 0 64 .rw 0 0xFFFFFFFFFFFFFFFF anyV,
  rr "FUS_AS_THR" 5 1 0x2030 4 0x40 1 0 64 .rw 0 0xFFFFFFFFFFFFFFFF anyV,
  rr "FUS_AS_CELL" 5 1 0x2038 4 0x40 1 0 64 .rw 0 0x8000FFFFFFFFFFFF anyV,
  rr "FUS_SNP_STATUS" 5 1 0xF0000 1 0 1 0 32 .ro 0 0 anyV,
  rr "FUS_SNP_CH" 5 1 0xF0100 16 8 1 0 64 .ro 0 0 anyV]

/-- Registers of the HARP_ block. -/
def regRowsHarp : List RegRow := [
  rr "HARP_ID" 6 1 0 1 0 1 0 32 .ro 0 0 anyV,
  rr "HARP_ERR" 6 1 4 1 0 1 0 32 .w1c 0 0x1F anyV,
  rr "HARP_CAPS" 6 1 0x10 1 0 1 0 32 .ro 0x4180100 0 anyV,
  rr "HARP_SHARE" 6 1 0x14 1 0 1 0 32 .rw 0 0xFFFFFFFF anyV,
  rr "HARP_JOB" 6 1 0x100 4 0x40 1 0 64 .rw 0 0xFFFFFFFFFFFFFFFF (fun v => v % 128 == 0),
  rr "HARP_CTRL" 6 1 0x108 4 0x40 1 0 32 .w1s 0 3 anyV,
  rr "HARP_STATUS" 6 1 0x10C 4 0x40 1 0 32 .ro 0 0 anyV,
  rr "HARP_FRAME_CNT" 6 1 0x110 4 0x40 1 0 32 .rc 0 0 anyV,
  rr "HARP_OVR_CNT" 6 1 0x114 4 0x40 1 0 32 .rc 0 0 anyV,
  rr "HARP_GEOM_CNT" 6 1 0x118 4 0x40 1 0 32 .rc 0 0 anyV,
  rr "HARP_RING_ROWS" 6 1 0x11C 4 0x40 1 0 32 .ro 0 0 anyV,
  rr "HARP_GOLD_SIG" 6 1 0x120 4 0x40 1 0 32 .ro 0 0 anyV,
  rr "HARP_GOLD_CNT" 6 1 0x124 4 0x40 1 0 32 .rc 0 0 anyV,
  rr "HARP_CE_CNT" 6 1 0x128 4 0x40 1 0 32 .rc 0 0 anyV,
  rr "HARP_SNP_STATUS" 6 1 0xF0000 4 0x10 1 0 32 .ro 0 0 anyV,
  rr "HARP_SNP_FRAME" 6 1 0xF0004 4 0x10 1 0 32 .ro 0 0 anyV]

/-- Registers of the SLV_ block. -/
def regRowsSlv : List RegRow := [
  rr "SLV_ID" 7 1 0 1 0 1 0 32 .ro 0 0 anyV,
  rr "SLV_ERR" 7 1 4 1 0 1 0 32 .w1c 0 0x1F anyV,
  rr "SLV_CAPS" 7 1 0x10 1 0 1 0 32 .ro 0x8800600 0 anyV,
  rr "SLV_STATUS" 7 1 0x14 1 0 1 0 32 .ro 0 0 anyV,
  rr "SLV_JOB_CNT" 7 1 0x18 1 0 1 0 32 .rc 0 0 anyV,
  rr "SLV_MISS_CNT" 7 1 0x1C 1 0 1 0 32 .rc 0 0 anyV,
  rr "SLV_PREEMPT_CNT" 7 1 0x20 1 0 1 0 32 .rc 0 0 anyV,
  rr "SLV_WSMM_CNT" 7 1 0x24 1 0 1 0 32 .rc 0 0 anyV,
  rr "SLV_REG_CNT" 7 1 0x28 1 0 1 0 32 .rc 0 0 anyV,
  rr "SLV_CE_CNT" 7 1 0x2C 1 0 1 0 32 .rc 0 0 anyV,
  rr "SLV_LASTERR" 7 1 0x30 1 0 1 0 64 .rc 0 0 anyV,
  rr "SLV_CKPT_SIG" 7 1 0x38 1 0 1 0 64 .ro 0 0 anyV,
  rr "SLV_JOB_DESC" 7 1 0x1000 8 0x40 1 0 64 .rw 0 0xFFFFFFFFFFFF (fun v => v % 2 ^ 48 % 128 == 0),
  rr "SLV_JOB_CTRL" 7 1 0x1008 8 0x40 1 0 32 .rw 0 1 anyV,
  rr "SLV_JOB_PERIOD" 7 1 0x1010 8 0x40 1 0 64 .rw 0 0xFFFFFFFFFFFFFFFF anyV,
  rr "SLV_JOB_PHASE" 7 1 0x1018 8 0x40 1 0 64 .rw 0 0xFFFFFFFFFFFFFFFF anyV,
  rr "SLV_JOB_BUDGET" 7 1 0x1020 8 0x40 1 0 64 .rw 0 0xFFFFFFFFFFFFFFFF anyV,
  rr "SLV_JOB_CELL" 7 1 0x1028 8 0x40 1 0 64 .rw 0 0x8000FFFFFFFFFFFF anyV,
  rr "SLV_JOB_STAT" 7 1 0x1030 8 0x40 1 0 64 .ro 0 0 anyV,
  rr "SLV_JOB_NEXT" 7 1 0x1038 8 0x40 1 0 64 .ro 0 0 anyV,
  rr "SLV_SNP_STATUS" 7 1 0xF0000 1 0 1 0 32 .ro 0 0 anyV,
  rr "SLV_SNP_STAT" 7 1 0xF0008 8 8 1 0 64 .ro 0 0 anyV]

/-- Registers of the PLN_ block. -/
def regRowsPln : List RegRow := [
  rr "PLN_ID" 8 1 0 1 0 1 0 32 .ro 0 0 anyV,
  rr "PLN_ERR" 8 1 4 1 0 1 0 32 .w1c 0 0x1F anyV,
  rr "PLN_CAPS" 8 1 0x10 1 0 1 0 32 .ro 0x10004010 0 anyV,
  rr "PLN_STATUS" 8 1 0x14 1 0 1 0 32 .ro 0 0 anyV,
  rr "PLN_CTRL" 8 1 0x18 1 0 1 0 32 .rw 0 1 anyV,
  rr "PLN_PERIOD" 8 1 0x20 1 0 1 0 64 .rw 0 0xFFFFFFFFFFFFFFFF anyV,
  rr "PLN_PHASE" 8 1 0x28 1 0 1 0 64 .rw 0 0xFFFFFFFFFFFFFFFF anyV,
  rr "PLN_BUDGET" 8 1 0x30 1 0 1 0 64 .rw 0 0xFFFFFFFFFFFFFFFF anyV,
  rr "PLN_CAND_ADDR" 8 1 0x38 1 0 1 0 64 .rw 0 0xFFFFFFFFFFFF (fun v => v % 256 == 0),
  rr "PLN_READY_ADDR" 8 1 0x40 1 0 1 0 64 .rw 0 0xFFFFFFFFFFFF anyV,
  rr "PLN_READY_THR" 8 1 0x48 1 0 1 0 64 .rw 0 0xFFFFFFFFFFFFFFFF anyV,
  rr "PLN_PUB_ADDR" 8 1 0x50 1 0 1 0 64 .rw 0 0xFFFFFFFFFFFF anyV,
  rr "PLN_PIN_ADDR" 8 1 0x58 1 0 1 0 64 .rw 0 0xFFFFFFFFFFFF anyV,
  rr "PLN_RES_ADDR" 8 1 0x60 1 0 1 0 64 .rw 0 0xFFFFFFFFFFFF (fun v => v % 256 == 0),
  rr "PLN_CELL" 8 1 0x68 1 0 1 0 64 .rw 0 0x8000FFFFFFFFFFFF anyV,
  rr "PLN_GHDR_BASE" 8 1 0x70 1 0 1 0 32 .rw 0 0xFFFFFFFF (fun v => v % 128 == 0),
  rr "PLN_BODY_BASE" 8 1 0x74 1 0 1 0 32 .rw 0 0xFFFFFFFF (fun v => v % 32 == 0),
  rr "PLN_CFG" 8 1 0x78 1 0 1 0 32 .rw 0 0xF1F (fun v => 1 ≤ v % 32 && v % 32 ≤ 16),
  rr "PLN_WDT" 8 1 0x80 1 0 1 0 32 .rw 0 0xFFFFFFFF (fun v => 1 ≤ v && v ≤ 1000000),
  rr "PLN_A_STOP" 8 1 0x84 1 0 1 0 32 .rw 0 0xFFFFFFFF (fun v => v < 0x7F800000 && 0 < v),
  rr "PLN_MAP_AGE" 8 1 0x88 1 0 1 0 32 .rw 0 0xFFFFFFFF anyV,
  rr "PLN_CYCLE_CNT" 8 1 0x100 1 0 1 0 32 .rc 0 0 anyV,
  rr "PLN_NOPATH_CNT" 8 1 0x104 1 0 1 0 32 .rc 0 0 anyV,
  rr "PLN_TIMEOUT_CNT" 8 1 0x108 1 0 1 0 32 .rc 0 0 anyV,
  rr "PLN_IMMINENT_CNT" 8 1 0x10C 1 0 1 0 32 .rc 0 0 anyV,
  rr "PLN_STALE_CNT" 8 1 0x110 1 0 1 0 32 .rc 0 0 anyV,
  rr "PLN_MAPBAD_CNT" 8 1 0x114 1 0 1 0 32 .rc 0 0 anyV,
  rr "PLN_POISON_CNT" 8 1 0x118 1 0 1 0 32 .rc 0 0 anyV,
  rr "PLN_LASTERR" 8 1 0x120 1 0 1 0 64 .rc 0 0 anyV,
  rr "PLN_CKPT_SIG" 8 1 0x128 1 0 1 0 64 .ro 0 0 anyV,
  rr "PLN_SNP_STATUS" 8 1 0xF0000 1 0 1 0 32 .ro 0 0 anyV,
  rr "PLN_SNP_SEQ" 8 1 0xF0004 1 0 1 0 32 .ro 0 0 anyV]

/-- Registers of the LOOP_ block. -/
def regRowsLoop1 : List RegRow := [
  rr "LOOP_ID" 9 1 0 1 0 1 0 32 .ro 0 0 anyV,
  rr "LOOP_ERR" 9 1 4 1 0 1 0 32 .w1c 0 0x1F anyV,
  rr "LOOP_CAPS" 9 1 0x10 1 0 1 0 32 .ro 0x40080400 0 anyV,
  rr "LOOP_STATUS" 9 1 0x14 1 0 1 0 32 .ro 0 0 anyV,
  rr "LOOP_CTRL" 9 1 0x18 1 0 1 0 32 .rw 0 1 anyV,
  rr "LOOP_PERIOD" 9 1 0x1C 1 0 1 0 32 .rw 0x640 0xFFFFFFFF loopPeriodOk,
  rr "LOOP_PHASE" 9 1 0x20 1 0 1 0 64 .rw 0 0xFFFFFFFFFFFFFFFF anyV,
  rr "LOOP_TICK" 9 1 0x28 1 0 1 0 64 .ro 0 0 anyV,
  rr "LOOP_TICK_T" 9 1 0x30 1 0 1 0 64 .ro 0 0 anyV,
  rr "LOOP_SEG_T0" 9 1 0x38 1 0 1 0 64 .rw 0 0xFFFFFFFFFFFFFFFF anyV,
  rr "LOOP_SEG_LEN" 9 1 0x40 1 0 1 0 32 .rw 0 0xFFFFFFFF (fun v => v ≤ 4000000000),
  rr "LOOP_SEG_SWAP" 9 1 0x44 1 0 1 0 32 .wo 0 0xFFFFFFFF anyV,
  rr "LOOP_TBL_ADDR" 9 1 0x48 1 0 1 0 32 .rw 0 0x3F07FF anyV,
  rr "LOOP_TBL_DATA" 9 1 0x4C 1 0 1 0 32 .rw 0 0xFFFFFFFF anyV,
  rr "LOOP_SLIP_CNT" 9 1 0x50 1 0 1 0 32 .rc 0 0 anyV,
  rr "LOOP_CMP_CNT" 9 1 0x54 1 0 1 0 32 .rc 0 0 anyV,
  rr "LOOP_FE_CNT" 9 1 0x58 1 0 1 0 32 .rc 0 0 anyV,
  rr "LOOP_FAULT_CNT" 9 1 0x5C 1 0 1 0 32 .rc 0 0 anyV,
  rr "LOOP_STALE_CNT" 9 1 0x60 1 0 1 0 32 .rc 0 0 anyV,
  rr "LOOP_CE_CNT" 9 1 0x64 1 0 1 0 32 .rc 0 0 anyV,
  rr "LOOP_UE_LOG" 9 1 0x68 1 0 1 0 64 .ra 0 0 anyV,
  rr "LOOP_CKPT_SIG" 9 1 0x80 8 8 1 0 64 .ro 0 0 anyV,
  rr "LOOP_KP" 9 1 0x10000 64 0x80 1 0 32 .rw 0 0xFFFFFFFF anyV,
  rr "LOOP_KVFF" 9 1 0x10004 64 0x80 1 0 32 .rw 0 0xFFFFFFFF anyV,
  rr "LOOP_KV" 9 1 0x10008 64 0x80 1 0 32 .rw 0 0xFFFFFFFF anyV,
  rr "LOOP_KI" 9 1 0x1000C 64 0x80 1 0 32 .rw 0 0xFFFFFFFF anyV,
  rr "LOOP_ILIM" 9 1 0x10010 64 0x80 1 0 32 .rw 0 0xFFFFFFFF anyV,
  rr "LOOP_AV" 9 1 0x10014 64 0x80 1 0 32 .rw 0 0xFFFFFFFF (fun v => 0 < v && v ≤ 0x3F800000),
  rr "LOOP_KTFF" 9 1 0x10018 64 0x80 1 0 32 .rw 0 0xFFFFFFFF anyV,
  rr "LOOP_KT" 9 1 0x1001C 64 0x80 1 0 32 .rw 0 0xFFFFFFFF anyV,
  rr "LOOP_IMAX" 9 1 0x10020 64 0x80 1 0 32 .rw 0 0xFFFFFFFF anyV,
  rr "LOOP_VDB" 9 1 0x10024 64 0x80 1 0 32 .rw 0 0xFFFFFFFF (fun v => 0 < v && v < 0x80000000 && v ≤ 0x7F800000),
  rr "LOOP_TQLSB" 9 1 0x10028 64 0x80 1 0 32 .rw 0 0xFFFFFFFF anyV,
  rr "LOOP_FELIM" 9 1 0x1002C 64 0x80 1 0 32 .rw 0 0xFFFFFFFF (fun v => 1 ≤ v && v ≤ 0x7FFFFFFF),
  rr "LOOP_AXCFG" 9 1 0x10030 64 0x80 1 0 32 .rw 0 0xFFFF0F3F (fun v => 10 ≤ v % 64 && v % 64 ≤ 32),
  rr "LOOP_AXCMD" 9 1 0x10034 64 0x80 1 0 32 .wo 0 3 anyV,
  rr "LOOP_AXSTATE" 9 1 0x10038 64 0x80 1 0 32 .ro 0 0 anyV,
  rr "LOOP_AXFB" 9 1 0x10040 64 0x80 1 0 64 .ro 0 0 anyV,
  rr "LOOP_AXOUT" 9 1 0x10048 64 0x80 1 0 64 .ro 0 0 anyV,
  rr "LOOP_AXVF" 9 1 0x10050 64 0x80 1 0 32 .ro 0 0 anyV]

/-- Registers of the LOOP_ block. -/
def regRowsLoop2 : List RegRow := [
  rr "LOOP_AXIV" 9 1 0x10054 64 0x80 1 0 32 .ro 0 0 anyV,
  rr "LOOP_SEG_0" 9 1 0x20000 64 0x20 1 0 64 .rw 0 0xFFFFFFFFFFFFFFFF anyV,
  rr "LOOP_SEG_1" 9 1 0x20008 64 0x20 1 0 64 .rw 0 0xFFFFFFFFFFFFFFFF anyV,
  rr "LOOP_SEG_2" 9 1 0x20010 64 0x20 1 0 64 .rw 0 0xFFFFFFFFFFFFFFFF anyV,
  rr "LOOP_SNP_TICK" 9 1 0xF0000 1 0 1 0 64 .ro 0 0 anyV,
  rr "LOOP_SNP_STATUS" 9 1 0xF0008 1 0 1 0 32 .ro 0 0 anyV,
  rr "LOOP_SNP_AX" 9 1 0xF0100 64 8 1 0 64 .ro 0 0 anyV]

/-- Registers of the SRV_ block. -/
def regRowsSrv : List RegRow := [
  rr "SRV_ID" 0xA 1 0 1 0 1 0 32 .ro 0 0 anyV,
  rr "SRV_ERR" 0xA 1 4 1 0 1 0 32 .w1c 0 0x1F anyV,
  rr "SRV_CAPS" 0xA 1 0x10 1 0 1 0 32 .ro 0x808004C 0 anyV,
  rr "SRV_STATUS" 0xA 1 0x14 1 0 1 0 32 .ro 0 0 anyV,
  rr "SRV_CFG" 0xA 1 0x1000 8 0x40 1 0 32 .rw 0 0xFFFF001F (fun v => 1 ≤ v / 2 % 16),
  rr "SRV_PSTAT" 0xA 1 0x1004 8 0x40 1 0 32 .ro 0 0 anyV,
  rr "SRV_RTT_MAX" 0xA 1 0x1008 8 0x40 1 0 32 .rc 0 0 anyV,
  rr "SRV_RTT_LAST" 0xA 1 0x100C 8 0x40 1 0 32 .ro 0 0 anyV,
  rr "SRV_CODE_CNT" 0xA 1 0x1010 8 0x40 1 0 32 .rc 0 0 anyV,
  rr "SRV_CRC_CNT" 0xA 1 0x1014 8 0x40 1 0 32 .rc 0 0 anyV,
  rr "SRV_FMT_CNT" 0xA 1 0x1018 8 0x40 1 0 32 .rc 0 0 anyV,
  rr "SRV_STALE_CNT" 0xA 1 0x101C 8 0x40 1 0 32 .rc 0 0 anyV,
  rr "SRV_LATE_CNT" 0xA 1 0x1020 8 0x40 1 0 32 .rc 0 0 anyV,
  rr "SRV_MISS_CNT" 0xA 1 0x1024 8 0x40 1 0 32 .rc 0 0 anyV,
  rr "SRV_DOWN_CNT" 0xA 1 0x1028 8 0x40 1 0 32 .rc 0 0 anyV,
  rr "SRV_SNP_PSTAT" 0xA 1 0xF0000 8 8 1 0 32 .ro 0 0 anyV]

/-- Registers of the TB_ block. -/
def regRowsTb : List RegRow := [
  rr "TB_ID" 0xB 1 0 1 0 1 0 32 .ro 0 0 anyV,
  rr "TB_ERR" 0xB 1 4 1 0 1 0 32 .w1c 0 0x1F anyV,
  rr "TB_CAPS" 0xB 1 0x10 1 0 1 0 32 .ro 0x1000FA 0 anyV,
  rr "TB_STATUS" 0xB 1 0x14 1 0 1 0 32 .ro 0 0 anyV,
  rr "TB_CTRL" 0xB 1 0x18 1 0 1 0 32 .rw 0 1 anyV,
  rr "TB_NOW" 0xB 1 0x20 1 0 1 0 64 .ro 0 0 anyV,
  rr "TB_NOW_FRAC" 0xB 1 0x28 1 0 1 0 32 .ro 0 0 anyV,
  rr "TB_COUNT" 0xB 1 0x30 1 0 1 0 64 .ro 0 0 anyV,
  rr "TB_OFS" 0xB 1 0x38 1 0 1 0 64 .ro 0 0 anyV,
  rr "TB_RATE" 0xB 1 0x40 1 0 1 0 32 .rw 0 0xFFFFFFFF anyV,
  rr "TB_STEP" 0xB 1 0x48 1 0 1 0 64 .wo 0 0xFFFFFFFFFFFFFFFF anyV,
  rr "TB_MEAS" 0xB 1 0x50 1 0 1 0 64 .wo 0 0xFFFFFFFFFFFFFFFF anyV,
  rr "TB_LAST_MEAS" 0xB 1 0x58 1 0 1 0 64 .ro 0 0 anyV,
  rr "TB_INTEG" 0xB 1 0x60 1 0 1 0 32 .ro 0 0 anyV,
  rr "TB_KP" 0xB 1 0x64 1 0 1 0 32 .rw 0 0xFFFFFFFF anyV,
  rr "TB_KI" 0xB 1 0x68 1 0 1 0 32 .rw 0 0xFFFFFFFF anyV,
  rr "TB_RATE_MAX" 0xB 1 0x6C 1 0 1 0 32 .rw 0x7FFFFFFF 0xFFFFFFFF (fun v => 1 ≤ v && v ≤ 2147483647),
  rr "TB_LOCK" 0xB 1 0x70 1 0 1 0 32 .rw 0x3040064 0xFFFFFFFF (fun v => 1 ≤ v / 2 ^ 16 % 256 && 1 ≤ v / 2 ^ 24),
  rr "TB_OUTLIER" 0xB 1 0x74 1 0 1 0 32 .rw 0x186A0 0xFFFFFFFF anyV,
  rr "TB_MEAS_TO" 0xB 1 0x78 1 0 1 0 32 .rw 0x3E8 0xFFFFFFFF (fun v => 1 ≤ v && v ≤ 60000),
  rr "TB_HOLD_MAX" 0xB 1 0x7C 1 0 1 0 32 .rw 0x2710 0xFFFFFFFF (fun v => 1 ≤ v && v ≤ 1000000),
  rr "TB_DOMAIN_OFS" 0xB 1 0x80 1 0 1 0 64 .rw 0 0xFFFFFFFFFFFFFFFF anyV,
  rr "TB_MEAS_CNT" 0xB 1 0x88 1 0 1 0 32 .rc 0 0 anyV,
  rr "TB_OUTLIER_CNT" 0xB 1 0x8C 1 0 1 0 32 .rc 0 0 anyV,
  rr "TB_HOLD_CNT" 0xB 1 0x90 1 0 1 0 32 .rc 0 0 anyV,
  rr "TB_EXPIRE_CNT" 0xB 1 0x94 1 0 1 0 32 .rc 0 0 anyV,
  rr "TB_STEP_CNT" 0xB 1 0x98 1 0 1 0 32 .rc 0 0 anyV,
  rr "TB_SKIP_CNT" 0xB 1 0x9C 1 0 1 0 32 .rc 0 0 anyV,
  rr "TB_SNP_NOW" 0xB 1 0xF0000 1 0 1 0 64 .ro 0 0 anyV,
  rr "TB_SNP_STATUS" 0xB 1 0xF0008 1 0 1 0 32 .ro 0 0 anyV]

/-- Registers of the TSN_ block. -/
def regRowsTsn : List RegRow := [
  rr "TSN_ID" 0xC 1 0 1 0 1 0 32 .ro 0 0 anyV,
  rr "TSN_ERR" 0xC 1 4 1 0 1 0 32 .w1c 0 0x1F anyV,
  rr "TSN_CAPS" 0xC 1 0x10 1 0 1 0 32 .ro 0x4080100 0 anyV,
  rr "TSN_ACTQ" 0xC 1 0x14 1 0 1 0 32 .rw 0 0x11F anyV,
  rr "TSN_PCFG" 0xC 1 0x1000 4 0x1000 1 0 32 .rw 0 7 anyV,
  rr "TSN_PSTAT" 0xC 1 0x1004 4 0x1000 1 0 32 .ro 0 0 anyV,
  rr "TSN_GCL_ADDR" 0xC 1 0x1008 4 0x1000 1 0 64 .rw 0 0xFFFFFFFFFFFF (fun v => v % 8 == 0),
  rr "TSN_GCL_CFG" 0xC 1 0x1010 4 0x1000 1 0 32 .rw 0 0x800001FF (fun v => 1 ≤ v % 512 && v % 512 ≤ 256),
  rr "TSN_GCL_CYCLE" 0xC 1 0x1014 4 0x1000 1 0 32 .rw 0 0xFFFFFFFF (fun v => 1000 ≤ v && v ≤ 1000000000),
  rr "TSN_GCL_BASE" 0xC 1 0x1018 4 0x1000 1 0 64 .rw 0 0xFFFFFFFFFFFFFFFF anyV,
  rr "TSN_TX_CNT" 0xC 1 0x1020 4 0x1000 1 0 32 .rc 0 0 anyV,
  rr "TSN_RX_CNT" 0xC 1 0x1024 4 0x1000 1 0 32 .rc 0 0 anyV,
  rr "TSN_PTP_CNT" 0xC 1 0x1028 4 0x1000 1 0 32 .rc 0 0 anyV,
  rr "TSN_QCFG" 0xC 1 0x1100 4 0x1000 8 0x40 32 .rw 0 0xFFFF00F7 anyV,
  rr "TSN_QRING" 0xC 1 0x1108 4 0x1000 8 0x40 64 .rw 0 0xFFFFFFFFFFFFFFF (fun v => v % 32 == 0),
  rr "TSN_QDB" 0xC 1 0x1110 4 0x1000 8 0x40 64 .rw 0 0xFFFFFFFFFFFF anyV,
  rr "TSN_QCPL" 0xC 1 0x1118 4 0x1000 8 0x40 64 .rw 0 0x8000FFFFFFFFFFFF anyV,
  rr "TSN_QSTAT" 0xC 1 0x1120 4 0x1000 8 0x40 32 .ro 0 0 anyV,
  rr "TSN_QLATE" 0xC 1 0x1124 4 0x1000 8 0x40 32 .rc 0 0 anyV,
  rr "TSN_QPRE" 0xC 1 0x1128 4 0x1000 8 0x40 32 .rc 0 0 anyV,
  rr "TSN_SNP_PSTAT" 0xC 1 0xF0000 4 4 1 0 32 .ro 0 0 anyV]

/-- Registers of the XSL_ block. -/
def regRowsXsl : List RegRow := [
  rr "XSL_ID" 0xD 1 0 1 0 1 0 32 .ro 0 0 anyV,
  rr "XSL_ERR" 0xD 1 4 1 0 1 0 32 .w1c 0 0x1F anyV,
  rr "XSL_CAPS" 0xD 1 0x10 1 0 1 0 32 .ro 0x6040017 0 anyV,
  rr "XSL_STATUS" 0xD 1 0x14 1 0 1 0 32 .ro 0 0 anyV,
  rr "XSL_CFG" 0xD 1 0x18 1 0 1 0 32 .rw 0 0x13F3F (fun v => 1 ≤ v / 2 ^ 8 % 64),
  rr "XSL_MEMBERS" 0xD 1 0x20 1 0 1 0 64 .rw 0 0xFFFFFFFFFFFFFFFF anyV,
  rr "XSL_LOST" 0xD 1 0x28 1 0 1 0 64 .w1c 0 0xFFFFFFFFFFFFFFFF anyV,
  rr "XSL_RES_MAX" 0xD 1 0x30 1 0 1 0 32 .rw 0x4E20 0xFFFFFFFF (fun v => 1000 ≤ v && v ≤ 1000000),
  rr "XSL_WIRE_MAX" 0xD 1 0x34 1 0 1 0 32 .rw 0xA 0xFFFFFFFF (fun v => v ≤ 10000),
  rr "XSL_LMAX" 0xD 1 0x38 1 0 1 0 32 .ro 0 0 anyV,
  rr "XSL_PEER_TO" 0xD 1 0x3C 1 0 1 0 32 .rw 0x2710 0xFFFFFFFF (fun v => 100 ≤ v && v ≤ 1000000),
  rr "XSL_TAGS_FREE" 0xD 1 0x40 1 0 1 0 32 .ro 0x10000 0 anyV,
  rr "XSL_STALE_CNT" 0xD 1 0x50 1 0 1 0 32 .rc 0 0 anyV,
  rr "XSL_ORPHAN_CNT" 0xD 1 0x54 1 0 1 0 32 .rc 0 0 anyV,
  rr "XSL_NONMEM_CNT" 0xD 1 0x58 1 0 1 0 32 .rc 0 0 anyV,
  rr "XSL_CRC_CNT" 0xD 1 0x5C 1 0 1 0 32 .rc 0 0 anyV,
  rr "XSL_FWD_DROP_CNT" 0xD 1 0x60 1 0 1 0 32 .rc 0 0 anyV,
  rr "XSL_IN_DROP_CNT" 0xD 1 0x64 1 0 1 0 32 .rc 0 0 anyV,
  rr "XSL_AGE_CNT" 0xD 1 0x68 1 0 1 0 32 .rc 0 0 anyV,
  rr "XSL_PEERLOST_CNT" 0xD 1 0x6C 1 0 1 0 32 .rc 0 0 anyV,
  rr "XSL_ROUTE" 0xD 1 0x100 8 8 1 0 64 .rw 0xFFFFFFFFFFFFFFFF 0xF0F0F0F0F0F0F0F routeOk,
  rr "XSL_ROTMASK" 0xD 1 0x200 6 8 1 0 64 .rw 0 0xFFFFFFFFFFFFFFFF anyV,
  rr "XSL_PCFG" 0xD 1 0x300 6 0x20 1 0 32 .rw 0 1 anyV,
  rr "XSL_PSTAT" 0xD 1 0x304 6 0x20 1 0 32 .ro 0 0 anyV,
  rr "XSL_CE_CNT" 0xD 1 0x308 6 0x20 1 0 32 .rc 0 0 anyV,
  rr "XSL_UE_CNT" 0xD 1 0x30C 6 0x20 1 0 32 .rc 0 0 anyV,
  rr "XSL_TXF_CNT" 0xD 1 0x310 6 0x20 1 0 32 .rc 0 0 anyV,
  rr "XSL_GEN" 0xD 1 0x1000 128 4 1 0 32 .rw 0 0xFF anyV,
  rr "XSL_SNP_STATUS" 0xD 1 0xF0000 1 0 1 0 32 .ro 0 0 anyV,
  rr "XSL_SNP_LOST" 0xD 1 0xF0008 1 0 1 0 64 .ro 0 0 anyV]

/-- Registers of the SAF_ block. -/
def regRowsSaf : List RegRow := [
  rr "SAF_ID" 0xE 1 0 1 0 1 0 32 .ro 0 0 anyV,
  rr "SAF_ERR" 0xE 1 4 1 0 1 0 32 .w1c 0 0x1F anyV,
  rr "SAF_CAPS" 0xE 1 0x10 1 0 1 0 32 .ro 0x20100100 0 anyV,
  rr "SAF_STATUS" 0xE 1 0x14 1 0 1 0 32 .ro 0 0 anyV,
  rr "SAF_DOUBT" 0xE 1 0x18 1 0 1 0 32 .w1c 0 0xFFFFFFFF anyV,
  rr "SAF_DOUBT_FIRST" 0xE 1 0x1C 1 0 1 0 32 .ro 0 0 anyV,
  rr "SAF_DOUBT_CNT" 0xE 1 0x20 32 4 1 0 32 .rc 0 0 anyV,
  rr "SAF_CMP_LOG" 0xE 1 0xA0 1 0 1 0 64 .ra 0 0 anyV,
  rr "SAF_CMP_BE_CNT" 0xE 1 0xA8 1 0 1 0 32 .rc 0 0 anyV,
  rr "SAF_LANE_FAIL_CNT" 0xE 1 0xAC 1 0 1 0 32 .rc 0 0 anyV,
  rr "SAF_ARRAY_CNT" 0xE 1 0xB0 1 0 1 0 32 .rc 0 0 anyV,
  rr "SAF_PAIR_CNT" 0xE 1 0xB4 1 0 1 0 32 .rc 0 0 anyV,
  rr "SAF_GOLD_MM_CNT" 0xE 1 0xB8 1 0 1 0 32 .rc 0 0 anyV,
  rr "SAF_PLAN_BASE" 0xE 1 0xC0 1 0 1 0 32 .rw 0 0xFFFFFFFF (fun v => v % 1024 == 0),
  rr "SAF_GOLD_BASE" 0xE 1 0xC4 1 0 1 0 32 .rw 0 0xFFFFFFFF (fun v => v % 64 == 0),
  rr "SAF_ST_AREA" 0xE 1 0x100 8 4 1 0 32 .rw 0 0x3F (fun v => v ≤ 47),
  rr "SAF_ST_STATE" 0xE 1 0x200 8 0x10 1 0 64 .ro 0 0 anyV,
  rr "SAF_ST_CNT" 0xE 1 0x208 8 0x10 1 0 64 .rc 0 0 anyV,
  rr "SAF_PAIR_SIG" 0xE 1 0x300 8 8 1 0 64 .ro 0 0 anyV,
  rr "SAF_GOLD_STAT" 0xE 1 0x400 256 4 1 0 32 .ro 0 0 anyV,
  rr "SAF_SNP_DOUBT" 0xE 1 0xF0000 1 0 1 0 32 .ro 0 0 anyV,
  rr "SAF_SNP_STATUS" 0xE 1 0xF0004 1 0 1 0 32 .ro 0 0 anyV]

/-- Registers of the PWR_ block. -/
def regRowsPwr : List RegRow := [
  rr "PWR_ID" 0xF 1 0 1 0 1 0 32 .ro 0 0 anyV,
  rr "PWR_ERR" 0xF 1 4 1 0 1 0 32 .w1c 0 0x1F anyV,
  rr "PWR_CAPS" 0xF 1 0x10 1 0 1 0 32 .ro 0x1C2005A 0 anyV,
  rr "PWR_STATUS" 0xF 1 0x14 1 0 1 0 32 .ro 0x27000002 0 anyV,
  rr "PWR_MODE" 0xF 1 0x18 1 0 1 0 32 .rw 0x1C20002 0x1FF0003 (fun v => v % 4 ≤ 2 && 90 ≤ v / 2 ^ 16 % 512 && v / 2 ^ 16 % 512 ≤ 450),
  rr "PWR_TABLE" 0xF 1 0x1C 1 0 1 0 32 .ro 0 0 anyV,
  rr "PWR_PKG" 0xF 1 0x20 1 0 1 0 32 .ro 0 0 anyV,
  rr "PWR_ENERGY" 0xF 1 0x28 1 0 1 0 64 .ro 0 0 anyV,
  rr "PWR_UNMETERED" 0xF 1 0x30 1 0 1 0 64 .ro 0 0 anyV,
  rr "PWR_METER" 0xF 1 0x40 8 8 1 0 64 .ro 0 0 anyV,
  rr "PWR_METER_CFG" 0xF 1 0x80 8 4 1 0 32 .rw 0 0xF1 anyV,
  rr "PWR_THERM_CFG" 0xF 1 0xA0 1 0 1 0 32 .rw 0x64 0xFF anyV,
  rr "PWR_THARD" 0xF 1 0xA4 1 0 1 0 32 .ro 0 0 anyV,
  rr "PWR_TEMP" 0xF 1 0xB0 16 4 1 0 32 .ro 0 0 anyV,
  rr "PWR_RAIL" 0xF 1 0x100 16 4 1 0 32 .ro 0 0 anyV,
  rr "PWR_OVER_CNT" 0xF 1 0x140 1 0 1 0 32 .rc 0 0 anyV,
  rr "PWR_THROT_CNT" 0xF 1 0x144 1 0 1 0 32 .rc 0 0 anyV,
  rr "PWR_HARD_CNT" 0xF 1 0x148 1 0 1 0 32 .rc 0 0 anyV,
  rr "PWR_EXCESS_CNT" 0xF 1 0x14C 1 0 1 0 32 .rc 0 0 anyV,
  rr "PWR_DIFF_MAX" 0xF 1 0x150 1 0 1 0 32 .rc 0 0 anyV,
  rr "PWR_ACT_W" 0xF 1 0x160 8 4 1 0 32 .ro 0 0 anyV,
  rr "PWR_SNP_STATUS" 0xF 1 0xF0000 1 0 1 0 32 .ro 0 0 anyV,
  rr "PWR_SNP_ENERGY" 0xF 1 0xF0008 1 0 1 0 64 .ro 0 0 anyV]

/-- Registers of the CLK_ block. -/
def regRowsClk : List RegRow := [
  rr "CLK_ID" 0x10 1 0 1 0 1 0 32 .ro 0 0 anyV,
  rr "CLK_ERR" 0x10 1 4 1 0 1 0 32 .w1c 0 0x1F anyV,
  rr "CLK_CAPS" 0x10 1 0x10 1 0 1 0 32 .ro 0x10340008 0 anyV,
  rr "CLK_STATUS" 0x10 1 0x14 1 0 1 0 32 .ro 0 0 anyV,
  rr "CLK_FUSE" 0x10 1 0x20 8 4 1 0 32 .ro 0 0 anyV,
  rr "CLK_M" 0x10 1 0x40 8 4 1 0 32 .ro 0x27 0 anyV,
  rr "CLK_DROOP_CNT" 0x10 1 0x60 8 4 1 0 32 .rc 0 0 anyV,
  rr "CLK_DROOP_SW" 0x10 1 0x80 8 8 1 0 64 .rc 0 0 anyV,
  rr "CLK_DROOP_OVER" 0x10 1 0xC0 8 4 1 0 32 .rc 0 0 anyV,
  rr "CLK_DROOP_CFG" 0x10 1 0xE0 1 0 1 0 32 .rw 0x3C 0xFF (fun v => 20 ≤ v && v ≤ 150),
  rr "CLK_XLATE_CNT" 0x10 1 0xE4 1 0 1 0 32 .rc 0 0 anyV,
  rr "CLK_SNP_M" 0x10 1 0xF0000 1 0 1 0 64 .ro 0 0 anyV,
  rr "CLK_SNP_STATUS" 0x10 1 0xF0008 1 0 1 0 32 .ro 0 0 anyV]

/-- Registers of the SNP_ block. -/
def regRowsSnp : List RegRow := [
  rr "SNP_ID" 0x11 1 0 1 0 1 0 32 .ro 0 0 anyV,
  rr "SNP_ERR" 0x11 1 4 1 0 1 0 32 .w1c 0 0x1F anyV,
  rr "SNP_CTRL" 0x11 1 0x10 1 0 1 0 32 .rw 1 7 anyV,
  rr "SNP_CMP_T" 0x11 1 0x18 1 0 1 0 64 .rw 0 0xFFFFFFFFFFFFFFFF anyV,
  rr "SNP_SEQ" 0x11 1 0x20 1 0 1 0 32 .ro 0 0 anyV,
  rr "SNP_SRC" 0x11 1 0x24 1 0 1 0 32 .ro 0 0 anyV,
  rr "SNP_T" 0x11 1 0x28 1 0 1 0 64 .ro 0 0 anyV,
  rr "SNP_MISS_CNT" 0x11 1 0x30 1 0 1 0 32 .rc 0 0 anyV]

/-- Registers of the OBS_ block. -/
def regRowsObs : List RegRow := [
  rr "OBS_ID" 0x12 1 0 1 0 1 0 32 .ro 0 0 anyV,
  rr "OBS_ERR" 0x12 1 4 1 0 1 0 32 .w1c 0 0x1F anyV,
  rr "OBS_MODE" 0x12 1 0x10 1 0 1 0 32 .rw 0 0x103 (fun v => v % 4 ≤ 2),
  rr "OBS_TRC_SRC" 0x12 1 0x14 1 0 1 0 32 .rw 0 0x3FFF anyV,
  rr "OBS_TRC_LEVEL" 0x12 1 0x18 1 0 1 0 32 .ro 0 0 anyV,
  rr "OBS_TRC_DROP_CNT" 0x12 1 0x1C 1 0 1 0 32 .rc 0 0 anyV,
  rr "OBS_TRC_POP0" 0x12 1 0x20 1 0 1 0 64 .ra 0 0 anyV,
  rr "OBS_TRC_POP1" 0x12 1 0x28 1 0 1 0 64 .ro 0 0 anyV,
  rr "OBS_READ_CNT" 0x12 1 0x30 1 0 1 0 32 .ro 0 0 anyV]

/-- Registers of the VAT_ block. -/
def regRowsVat : List RegRow := [
  rr "VAT_ID" 0x20 8 0 1 0 1 0 32 .ro 0 0 anyV,
  rr "VAT_ERR" 0x20 8 4 1 0 1 0 32 .w1c 0 0x1F anyV,
  rr "VAT_CAPS" 0x20 8 0x10 1 0 1 0 32 .ro 0x4201000 0 anyV,
  rr "VAT_STATUS" 0x20 8 0x14 1 0 1 0 32 .ro 0 0 anyV,
  rr "VAT_FAULT" 0x20 8 0x18 1 0 1 0 32 .ro 0 0 anyV,
  rr "VAT_FAULT_CNT" 0x20 8 0x1C 1 0 1 0 32 .rc 0 0 anyV,
  rr "VAT_CHK_LAG" 0x20 8 0x20 1 0 1 0 32 .rw 8 0x1F (fun v => 2 ≤ v && v ≤ 16),
  rr "VAT_WCOLL_CNT" 0x20 8 0x24 1 0 1 0 32 .rc 0 0 anyV,
  rr "VAT_PCONF_CNT" 0x20 8 0x28 1 0 1 0 32 .rc 0 0 anyV,
  rr "VAT_PC" 0x20 8 0x30 1 0 1 0 32 .ro 0 0 anyV,
  rr "VAT_VCYC" 0x20 8 0x38 1 0 1 0 64 .ro 0 0 anyV,
  rr "VAT_MV_CNT" 0x20 8 0x40 2 4 1 0 32 .ro 0 0 anyV,
  rr "VAT_MV_LASTERR" 0x20 8 0x48 2 8 1 0 64 .rc 0 0 anyV,
  rr "VAT_MV_FAILCNT" 0x20 8 0x58 2 4 1 0 32 .rc 0 0 anyV,
  rr "VAT_ACC_LOCK" 0x20 8 0x100 4 4 1 0 32 .rw 0 0xFFFF000F anyV,
  rr "VAT_CKPT_SIG" 0x20 8 0x110 1 0 1 0 64 .ro 0 0 anyV,
  rr "VAT_POND_CE_CNT" 0x20 8 0x120 1 0 1 0 32 .rc 0 0 anyV,
  rr "VAT_POND_UE_CNT" 0x20 8 0x124 1 0 1 0 32 .rc 0 0 anyV,
  rr "VAT_POND_UE_LOG" 0x20 8 0x128 1 0 1 0 64 .ra 0 0 anyV,
  rr "VAT_SNP_PC" 0x20 8 0xF0000 1 0 1 0 32 .ro 0 0 anyV,
  rr "VAT_SNP_VCYC" 0x20 8 0xF0008 1 0 1 0 64 .ro 0 0 anyV,
  rr "VAT_SNP_STATUS" 0x20 8 0xF0010 1 0 1 0 32 .ro 0 0 anyV,
  rr "VAT_SNP_PRED" 0x20 8 0xF0014 1 0 1 0 32 .ro 0 0 anyV,
  rr "VAT_SNP_MVCNT" 0x20 8 0xF0018 1 0 1 0 32 .ro 0 0 anyV,
  rr "VAT_SNP_S" 0x20 8 0xF0100 64 8 1 0 64 .ro 0 0 anyV]

/-- Registers of the ATT_ block. -/
def regRowsAtt : List RegRow := [
  rr "ATT_ID" 0x28 8 0 1 0 1 0 32 .ro 0 0 anyV,
  rr "ATT_ERR" 0x28 8 4 1 0 1 0 32 .w1c 0 0x1F anyV,
  rr "ATT_CAPS" 0x28 8 0x10 1 0 1 0 32 .ro 0x2004014 0 anyV,
  rr "ATT_STATUS" 0x28 8 0x14 1 0 1 0 32 .ro 0 0 anyV,
  rr "ATT_SEQ_BASE" 0x28 8 0x18 1 0 1 0 32 .rw 0 0xFFFFFFFF (fun v => v % 64 == 0),
  rr "ATT_SEQ_COUNT" 0x28 8 0x1C 1 0 1 0 32 .rw 0 0x3FF (fun v => v ≤ 512),
  rr "ATT_RING_BASE" 0x28 8 0x20 1 0 1 0 32 .rw 0 0xFFFFFFFF (fun v => v % 64 == 0),
  rr "ATT_RING_LEN" 0x28 8 0x24 1 0 1 0 32 .rw 0x40 0x1FF (fun v => 1 ≤ v && v ≤ 256),
  rr "ATT_DB_CELL" 0x28 8 0x28 1 0 1 0 32 .rw 0 0x3FFF anyV,
  rr "ATT_RING_HEAD" 0x28 8 0x2C 1 0 1 0 32 .ro 0 0 anyV,
  rr "ATT_CMD_CNT" 0x28 8 0x30 1 0 1 0 32 .rc 0 0 anyV,
  rr "ATT_FAIL_CNT" 0x28 8 0x34 1 0 1 0 32 .rc 0 0 anyV,
  rr "ATT_LASTERR" 0x28 8 0x38 1 0 1 0 64 .rc 0 0 anyV,
  rr "ATT_EVICT_CNT" 0x28 8 0x40 1 0 1 0 32 .rc 0 0 anyV,
  rr "ATT_MASS_CNT" 0x28 8 0x44 1 0 1 0 32 .rc 0 0 anyV,
  rr "ATT_SNP_STATUS" 0x28 8 0xF0000 1 0 1 0 32 .ro 0 0 anyV,
  rr "ATT_SNP_HEAD" 0x28 8 0xF0004 1 0 1 0 32 .ro 0 0 anyV]

/-- Registers of the SCN_ block. -/
def regRowsScn : List RegRow := [
  rr "SCN_ID" 0x30 8 0 1 0 1 0 32 .ro 0 0 anyV,
  rr "SCN_ERR" 0x30 8 4 1 0 1 0 32 .w1c 0 0x1F anyV,
  rr "SCN_CAPS" 0x30 8 0x10 1 0 1 0 32 .ro 0x400100 0 anyV,
  rr "SCN_STATUS" 0x30 8 0x14 1 0 1 0 32 .ro 0 0 anyV,
  rr "SCN_RUN_CNT" 0x30 8 0x18 1 0 1 0 32 .rc 0 0 anyV,
  rr "SCN_DISCARD_CNT" 0x30 8 0x1C 1 0 1 0 32 .rc 0 0 anyV,
  rr "SCN_NAN_CNT" 0x30 8 0x20 1 0 1 0 32 .rc 0 0 anyV,
  rr "SCN_CLAMP_CNT" 0x30 8 0x24 1 0 1 0 32 .rc 0 0 anyV,
  rr "SCN_ANCH_CNT" 0x30 8 0x28 1 0 1 0 32 .rc 0 0 anyV,
  rr "SCN_SWAP_CNT" 0x30 8 0x2C 1 0 1 0 32 .rc 0 0 anyV,
  rr "SCN_LASTERR" 0x30 8 0x30 1 0 1 0 64 .rc 0 0 anyV,
  rr "SCN_STR_CFG" 0x30 8 0x1000 64 0x20 1 0 64 .rw 0 0xC00F030F00000000 (fun v => v / 2 ^ 32 % 2 == 0),
  rr "SCN_STR_CELLS" 0x30 8 0x1008 64 0x20 1 0 32 .rw 0 0x3FFF3FFF anyV,
  rr "SCN_STR_SAVE" 0x30 8 0x100C 64 0x20 1 0 32 .rw 0 0x3FFFF00 anyV,
  rr "SCN_STR_STEPS" 0x30 8 0x1010 64 0x20 1 0 64 .ro 0 0 anyV,
  rr "SCN_STR_STATE" 0x30 8 0x1018 64 0x20 1 0 32 .ro 0 0 anyV,
  rr "SCN_STR_CMD" 0x30 8 0x101C 64 0x20 1 0 32 .wo 0 3 anyV,
  rr "SCN_SNP_STATUS" 0x30 8 0xF0000 1 0 1 0 32 .ro 0 0 anyV,
  rr "SCN_SNP_STR" 0x30 8 0xF0100 64 4 1 0 32 .ro 0 0 anyV]

/-- Registers of the LAKE_ block. -/
def regRowsLake : List RegRow := [
  rr "LAKE_ID" 0x38 4 0 1 0 1 0 32 .ro 0 0 anyV,
  rr "LAKE_ERR" 0x38 4 4 1 0 1 0 32 .w1c 0 0x1F anyV,
  rr "LAKE_STATUS" 0x38 4 0x10 1 0 1 0 32 .ro 0 0 anyV,
  rr "LAKE_CE_CNT" 0x38 4 0x14 1 0 1 0 32 .rc 0 0 anyV,
  rr "LAKE_UE_CNT" 0x38 4 0x18 1 0 1 0 32 .rc 0 0 anyV,
  rr "LAKE_UE_LOG" 0x38 4 0x20 1 0 1 0 64 .ra 0 0 anyV,
  rr "LAKE_SCRUB_POS" 0x38 4 0x28 1 0 1 0 64 .ro 0 0 anyV,
  rr "LAKE_BAD_FRAMES" 0x38 4 0x30 1 0 1 0 32 .ro 0 0 anyV,
  rr "LAKE_SNP_STATUS" 0x38 4 0xF0000 1 0 1 0 32 .ro 0 0 anyV]

/-- Registers of the RIND_ block. -/
def regRowsRind : List RegRow := [
  rr "RIND_ID" 0x40 1 0 1 0 1 0 32 .ro 0 0 anyV,
  rr "RIND_ERR" 0x40 1 4 1 0 1 0 32 .w1c 0 0x1F anyV,
  rr "RIND_STATUS" 0x40 1 0x10 1 0 1 0 32 .ro 1 0 anyV,
  rr "RIND_DOUBT" 0x40 1 0x14 1 0 1 0 32 .w1c 0 0xFFFFFFFF anyV,
  rr "RIND_DOUBT_FIRST" 0x40 1 0x18 1 0 1 0 32 .ro 0 0 anyV,
  rr "RIND_DOUBT_CNT" 0x40 1 0x20 32 4 1 0 32 .rc 0 0 anyV,
  rr "RIND_CMP_LOG" 0x40 1 0xA0 1 0 1 0 64 .ra 0 0 anyV,
  rr "RIND_CKPT_SIG" 0x40 1 0xA8 1 0 1 0 64 .ro 0 0 anyV,
  rr "RIND_RCLK_CNT" 0x40 1 0xB0 1 0 1 0 64 .ro 0 0 anyV,
  rr "RIND_TAKE_T" 0x40 1 0xB8 1 0 1 0 64 .ro 0 0 anyV,
  rr "RIND_TAKE_CNT" 0x40 1 0xC0 1 0 1 0 32 .rc 0 0 anyV,
  rr "RIND_GLITCH_CNT" 0x40 1 0xC4 1 0 1 0 32 .rc 0 0 anyV,
  rr "RIND_WDT_CFG" 0x40 1 0xC8 1 0 1 0 32 .rw 0x64 0x3FF (fun v => 1 ≤ v && v ≤ 1000),
  rr "RIND_WDT_KICK" 0x40 1 0xCC 1 0 1 0 32 .wo 0 0xFFFFFFFF anyV,
  rr "RIND_SUPPLY" 0x40 1 0xD0 1 0 1 0 32 .ro 0 0 anyV,
  rr "RIND_SNP_STATUS" 0x40 1 0xF0000 1 0 1 0 32 .ro 0 0 anyV,
  rr "RIND_SNP_RCLK" 0x40 1 0xF0008 1 0 1 0 64 .ro 0 0 anyV]

/-- Registers of the FBX_ block. -/
def regRowsFbx : List RegRow := [
  rr "FBX_ID" 0x41 1 0 1 0 1 0 32 .ro 0 0 anyV,
  rr "FBX_ERR" 0x41 1 4 1 0 1 0 32 .w1c 0 0x1F anyV,
  rr "FBX_STATUS" 0x41 1 0x10 1 0 1 0 32 .ro 0 0 anyV,
  rr "FBX_CFG" 0x41 1 0x14 1 0 1 0 32 .rw 0 0x1FF01 anyV,
  rr "FBX_TX" 0x41 1 0x18 1 0 1 0 32 .rw 0 0xFFFFFFFF (fun v => 16 ≤ v % 65536 && v % 65536 ≤ 500),
  rr "FBX_TIMES" 0x41 1 0x20 1 0 1 0 64 .rw 0 0xFFFFFFFFFFFF anyV,
  rr "FBX_LATE_US" 0x41 1 0x28 1 0 1 0 32 .rw 0x1388 0xFFFFFFFF (fun v => 100 ≤ v && v ≤ 100000),
  rr "FBX_STILL_VEL" 0x41 1 0x2C 1 0 1 0 32 .rw 0 0xFFFFFFFF anyV,
  rr "FBX_AXEN" 0x41 1 0x30 1 0 1 0 64 .rw 0 0xFFFFFFFFFFFFFFFF anyV,
  rr "FBX_ACC_T" 0x41 1 0x38 1 0 1 0 64 .ro 0 0 anyV,
  rr "FBX_TRJ_COMMIT" 0x41 1 0x40 1 0 1 0 32 .wo 0 0xFFFFFFFF anyV,
  rr "FBX_HB_REQ" 0x41 1 0x44 1 0 1 0 32 .wo 0 0xFFFFFFFF anyV,
  rr "FBX_HB_GO" 0x41 1 0x48 1 0 1 0 32 .wo 0 0xFFFFFFFF anyV,
  rr "FBX_ACC_CNT" 0x41 1 0x50 1 0 1 0 32 .rc 0 0 anyV,
  rr "FBX_REJ_CNT" 0x41 1 0x54 1 0 1 0 32 .rc 0 0 anyV,
  rr "FBX_NAN_CNT" 0x41 1 0x58 1 0 1 0 32 .rc 0 0 anyV,
  rr "FBX_FBLOSS_CNT" 0x41 1 0x5C 1 0 1 0 32 .rc 0 0 anyV,
  rr "FBX_DEF_CFG" 0x41 1 0x60 1 0 1 0 64 .rw 0 0xFFFFFFFFFFFF (fun v => v % 256 ≤ 68),
  rr "FBX_DEF_ETH" 0x41 1 0x800 16 8 1 0 64 .rw 0 0xFFFFFFFFFFFFFFFF anyV,
  rr "FBX_KPF" 0x41 1 0x1000 64 0x20 1 0 32 .rw 0 0xFFFFFFFF anyV,
  rr "FBX_KDF" 0x41 1 0x1004 64 0x20 1 0 32 .rw 0 0xFFFFFFFF anyV,
  rr "FBX_KTF" 0x41 1 0x1008 64 0x20 1 0 32 .rw 0 0xFFFFFFFF anyV,
  rr "FBX_IMAXF" 0x41 1 0x100C 64 0x20 1 0 32 .rw 0 0xFFFFFFFF anyV,
  rr "FBX_PMIN" 0x41 1 0x1010 64 0x20 1 0 32 .rw 0x80000000 0xFFFFFFFF anyV,
  rr "FBX_PMAX" 0x41 1 0x1014 64 0x20 1 0 32 .rw 0x7FFFFFFF 0xFFFFFFFF anyV,
  rr "FBX_VMAX" 0x41 1 0x1018 64 0x20 1 0 32 .rw 0 0xFFFFFFFF anyV,
  rr "FBX_STAGE" 0x41 1 0x10000 2048 8 1 0 64 .wo 0 0xFFFFFFFFFFFFFFFF anyV,
  rr "FBX_SNP_STATUS" 0x41 1 0xF0000 1 0 1 0 32 .ro 0 0 anyV,
  rr "FBX_SNP_IQ" 0x41 1 0xF0100 64 4 1 0 32 .ro 0 0 anyV]

/-- Registers of the EVR_ block. -/
def regRowsEvr : List RegRow := [
  rr "EVR_ID" 0x42 1 0 1 0 1 0 32 .ro 0 0 anyV,
  rr "EVR_ERR" 0x42 1 4 1 0 1 0 32 .w1c 0 0x1F anyV,
  rr "EVR_CAPS" 0x42 1 0x10 1 0 1 0 32 .ro 0x20001000 0 anyV,
  rr "EVR_STATUS" 0x42 1 0x14 1 0 1 0 32 .ro 0 0 anyV,
  rr "EVR_NEXT_SEQ" 0x42 1 0x18 1 0 1 0 32 .ro 0 0 anyV,
  rr "EVR_OLDEST_SEQ" 0x42 1 0x1C 1 0 1 0 32 .ro 0 0 anyV,
  rr "EVR_OPTIME_S" 0x42 1 0x20 1 0 1 0 32 .ro 0 0 anyV,
  rr "EVR_OPTIME_H" 0x42 1 0x24 1 0 1 0 32 .ro 0 0 anyV,
  rr "EVR_PCYC" 0x42 1 0x28 1 0 1 0 32 .ro 0 0 anyV,
  rr "EVR_OVW_CNT" 0x42 1 0x2C 1 0 1 0 32 .rc 0 0 anyV,
  rr "EVR_LOST_CNT" 0x42 1 0x30 1 0 1 0 32 .rc 0 0 anyV,
  rr "EVR_TORN_CNT" 0x42 1 0x34 1 0 1 0 32 .ro 0 0 anyV,
  rr "EVR_CUR_F" 0x42 1 0x40 1 0 1 0 32 .rw 0 0xFFFFFFFF anyV,
  rr "EVR_CUR_O" 0x42 1 0x44 1 0 1 0 32 .rw 0 0xFFFFFFFF anyV,
  rr "EVR_WIN_F" 0x42 1 0x100 8 8 1 0 64 .ro 0 0 anyV,
  rr "EVR_WIN_O" 0x42 1 0x200 8 8 1 0 64 .ro 0 0 anyV,
  rr "EVR_SNP_NEXT" 0x42 1 0xF0000 1 0 1 0 32 .ro 0 0 anyV]

/-- Every register of the device (01 Table 1.12). -/
def regTable : List RegRow :=
  regRowsMbx ++ regRowsCg ++ regRowsFrt ++ regRowsMig ++ regRowsIng ++ regRowsFus ++ regRowsHarp ++ regRowsSlv ++ regRowsPln ++ regRowsLoop1 ++ regRowsLoop2 ++ regRowsSrv ++ regRowsTb ++ regRowsTsn ++ regRowsXsl ++ regRowsSaf ++ regRowsPwr ++ regRowsClk ++ regRowsSnp ++ regRowsObs ++ regRowsVat ++ regRowsAtt ++ regRowsScn ++ regRowsLake ++ regRowsRind ++ regRowsFbx ++ regRowsEvr

end Sys2Proof.Machine

namespace Sys2Proof.Machine.Reg

/-- FRT_ID, 02. -/
def FRT_ID : Nat := regKey 2 (0)
/-- FRT_ERR, 02. -/
def FRT_ERR : Nat := regKey 2 (4)
/-- FRT_CAPS, 02. -/
def FRT_CAPS : Nat := regKey 2 (0x10)
/-- FRT_STATUS, 02. -/
def FRT_STATUS : Nat := regKey 2 (0x14)
/-- FRT_CTRL, 02. -/
def FRT_CTRL : Nat := regKey 2 (0x18)
/-- FRT_FRAME_CNT, 02. -/
def FRT_FRAME_CNT : Nat := regKey 2 (0x20)
/-- FRT_SLOT_NOW, 02. -/
def FRT_SLOT_NOW : Nat := regKey 2 (0x28)
/-- FRT_TRIM_LAST, 02. -/
def FRT_TRIM_LAST : Nat := regKey 2 (0x2C)
/-- FRT_LOAD_SRC, 02. -/
def FRT_LOAD_SRC : Nat := regKey 2 (0x30)
/-- FRT_LOAD_LEN, 02. -/
def FRT_LOAD_LEN : Nat := regKey 2 (0x38)
/-- FRT_LOAD_CMD, 02. -/
def FRT_LOAD_CMD : Nat := regKey 2 (0x3C)
/-- FRT_ACTIVE_ID, 02. -/
def FRT_ACTIVE_ID : Nat := regKey 2 (0x40)
/-- FRT_ACTIVE_VER, 02. -/
def FRT_ACTIVE_VER : Nat := regKey 2 (0x44)
/-- FRT_OVR_CNT, 02. -/
def FRT_OVR_CNT : Nat := regKey 2 (0x48)
/-- FRT_CUT_CNT, 02. -/
def FRT_CUT_CNT : Nat := regKey 2 (0x4C)
/-- FRT_DONATE_CNT, 02. -/
def FRT_DONATE_CNT : Nat := regKey 2 (0x50)
/-- FRT_SLIP_CNT, 02. -/
def FRT_SLIP_CNT : Nat := regKey 2 (0x54)
/-- FRT_OVR_LOG, 02. -/
def FRT_OVR_LOG : Nat := regKey 2 (0x58)
/-- FRT_VAT_STATE, 02. -/
def FRT_VAT_STATE (i : Nat) : Nat := regKey 2 (0x100 + 8 * i)
/-- FRT_FILL_EN, 02. -/
def FRT_FILL_EN (i : Nat) : Nat := regKey 2 (0x400 + 4 * i)
/-- FRT_FILL_CUR, 02. -/
def FRT_FILL_CUR (i : Nat) : Nat := regKey 2 (0x800 + 4 * i)
/-- VAT_ID, 03. -/
def VAT_ID (v : Nat) : Nat := regKey (0x20 + v) (0)
/-- VAT_ERR, 03. -/
def VAT_ERR (v : Nat) : Nat := regKey (0x20 + v) (4)
/-- VAT_CAPS, 03. -/
def VAT_CAPS (v : Nat) : Nat := regKey (0x20 + v) (0x10)
/-- VAT_STATUS, 03. -/
def VAT_STATUS (v : Nat) : Nat := regKey (0x20 + v) (0x14)
/-- VAT_FAULT, 03. -/
def VAT_FAULT (v : Nat) : Nat := regKey (0x20 + v) (0x18)
/-- VAT_FAULT_CNT, 03. -/
def VAT_FAULT_CNT (v : Nat) : Nat := regKey (0x20 + v) (0x1C)
/-- VAT_CHK_LAG, 03. -/
def VAT_CHK_LAG (v : Nat) : Nat := regKey (0x20 + v) (0x20)
/-- VAT_WCOLL_CNT, 03. -/
def VAT_WCOLL_CNT (v : Nat) : Nat := regKey (0x20 + v) (0x24)
/-- VAT_PCONF_CNT, 03. -/
def VAT_PCONF_CNT (v : Nat) : Nat := regKey (0x20 + v) (0x28)
/-- VAT_PC, 03. -/
def VAT_PC (v : Nat) : Nat := regKey (0x20 + v) (0x30)
/-- VAT_VCYC, 03. -/
def VAT_VCYC (v : Nat) : Nat := regKey (0x20 + v) (0x38)
/-- VAT_MV_CNT, 03. -/
def VAT_MV_CNT (v : Nat) (i : Nat) : Nat := regKey (0x20 + v) (0x40 + 4 * i)
/-- VAT_MV_LASTERR, 03. -/
def VAT_MV_LASTERR (v : Nat) (i : Nat) : Nat := regKey (0x20 + v) (0x48 + 8 * i)
/-- VAT_MV_FAILCNT, 03. -/
def VAT_MV_FAILCNT (v : Nat) (i : Nat) : Nat := regKey (0x20 + v) (0x58 + 4 * i)
/-- VAT_ACC_LOCK, 03. -/
def VAT_ACC_LOCK (v : Nat) (i : Nat) : Nat := regKey (0x20 + v) (0x100 + 4 * i)
/-- VAT_CKPT_SIG, 03. -/
def VAT_CKPT_SIG (v : Nat) : Nat := regKey (0x20 + v) (0x110)
/-- VAT_POND_CE_CNT, 03. -/
def VAT_POND_CE_CNT (v : Nat) : Nat := regKey (0x20 + v) (0x120)
/-- VAT_POND_UE_CNT, 03. -/
def VAT_POND_UE_CNT (v : Nat) : Nat := regKey (0x20 + v) (0x124)
/-- VAT_POND_UE_LOG, 03. -/
def VAT_POND_UE_LOG (v : Nat) : Nat := regKey (0x20 + v) (0x128)
/-- VAT_SNP_PC, 03. -/
def VAT_SNP_PC (v : Nat) : Nat := regKey (0x20 + v) (0xF0000)
/-- VAT_SNP_VCYC, 03. -/
def VAT_SNP_VCYC (v : Nat) : Nat := regKey (0x20 + v) (0xF0008)
/-- VAT_SNP_STATUS, 03. -/
def VAT_SNP_STATUS (v : Nat) : Nat := regKey (0x20 + v) (0xF0010)
/-- VAT_SNP_PRED, 03. -/
def VAT_SNP_PRED (v : Nat) : Nat := regKey (0x20 + v) (0xF0014)
/-- VAT_SNP_MVCNT, 03. -/
def VAT_SNP_MVCNT (v : Nat) : Nat := regKey (0x20 + v) (0xF0018)
/-- VAT_SNP_S, 03. -/
def VAT_SNP_S (v : Nat) (i : Nat) : Nat := regKey (0x20 + v) (0xF0100 + 8 * i)
/-- MIG_ID, 05. -/
def MIG_ID : Nat := regKey 3 (0)
/-- MIG_ERR, 05. -/
def MIG_ERR : Nat := regKey 3 (4)
/-- MIG_CAPS, 05. -/
def MIG_CAPS : Nat := regKey 3 (0x10)
/-- MIG_STATUS, 05. -/
def MIG_STATUS : Nat := regKey 3 (0x14)
/-- MIG_IPT_BASE, 05. -/
def MIG_IPT_BASE : Nat := regKey 3 (0x18)
/-- MIG_POOL, 05. -/
def MIG_POOL (i : Nat) : Nat := regKey 3 (0x20 + 4 * i)
/-- MIG_RES_FRAMES, 05. -/
def MIG_RES_FRAMES : Nat := regKey 3 (0x30)
/-- MIG_RES_CFG, 05. -/
def MIG_RES_CFG : Nat := regKey 3 (0x34)
/-- MIG_AQ_STATUS, 05. -/
def MIG_AQ_STATUS : Nat := regKey 3 (0x38)
/-- MIG_CMD, 05. -/
def MIG_CMD (i : Nat) : Nat := regKey 3 (0x100 + 8 * i)
/-- MIG_CMD_PUSH, 05. -/
def MIG_CMD_PUSH : Nat := regKey 3 (0x140)
/-- MIG_CPL, 05. -/
def MIG_CPL : Nat := regKey 3 (0x148)
/-- MIG_MISS_CNT, 05. -/
def MIG_MISS_CNT : Nat := regKey 3 (0x150)
/-- MIG_LATE_CNT, 05. -/
def MIG_LATE_CNT : Nat := regKey 3 (0x154)
/-- MIG_FAULT_CNT, 05. -/
def MIG_FAULT_CNT : Nat := regKey 3 (0x158)
/-- MIG_DROP_CNT, 05. -/
def MIG_DROP_CNT : Nat := regKey 3 (0x15C)
/-- MIG_RES_CE_CNT, 05. -/
def MIG_RES_CE_CNT : Nat := regKey 3 (0x160)
/-- MIG_FAULT_LOG, 05. -/
def MIG_FAULT_LOG : Nat := regKey 3 (0x168)
/-- MIG_SNP_STATUS, 05. -/
def MIG_SNP_STATUS : Nat := regKey 3 (0xF0000)
/-- MIG_SNP_MISS, 05. -/
def MIG_SNP_MISS : Nat := regKey 3 (0xF0004)
/-- LAKE_ID, 05. -/
def LAKE_ID (v : Nat) : Nat := regKey (0x38 + v) (0)
/-- LAKE_ERR, 05. -/
def LAKE_ERR (v : Nat) : Nat := regKey (0x38 + v) (4)
/-- LAKE_STATUS, 05. -/
def LAKE_STATUS (v : Nat) : Nat := regKey (0x38 + v) (0x10)
/-- LAKE_CE_CNT, 05. -/
def LAKE_CE_CNT (v : Nat) : Nat := regKey (0x38 + v) (0x14)
/-- LAKE_UE_CNT, 05. -/
def LAKE_UE_CNT (v : Nat) : Nat := regKey (0x38 + v) (0x18)
/-- LAKE_UE_LOG, 05. -/
def LAKE_UE_LOG (v : Nat) : Nat := regKey (0x38 + v) (0x20)
/-- LAKE_SCRUB_POS, 05. -/
def LAKE_SCRUB_POS (v : Nat) : Nat := regKey (0x38 + v) (0x28)
/-- LAKE_BAD_FRAMES, 05. -/
def LAKE_BAD_FRAMES (v : Nat) : Nat := regKey (0x38 + v) (0x30)
/-- LAKE_SNP_STATUS, 05. -/
def LAKE_SNP_STATUS (v : Nat) : Nat := regKey (0x38 + v) (0xF0000)
/-- FRT_RC_DENY_CNT, 05. -/
def FRT_RC_DENY_CNT (i : Nat) : Nat := regKey 2 (0x1000 + 4 * i)
/-- FRT_RC_DENY_LOG, 05. -/
def FRT_RC_DENY_LOG : Nat := regKey 2 (0x1040)
/-- HARP_ID, 06. -/
def HARP_ID : Nat := regKey 6 (0)
/-- HARP_ERR, 06. -/
def HARP_ERR : Nat := regKey 6 (4)
/-- HARP_CAPS, 06. -/
def HARP_CAPS : Nat := regKey 6 (0x10)
/-- HARP_SHARE, 06. -/
def HARP_SHARE : Nat := regKey 6 (0x14)
/-- HARP_JOB, 06. -/
def HARP_JOB (i : Nat) : Nat := regKey 6 (0x100 + 0x40 * i)
/-- HARP_CTRL, 06. -/
def HARP_CTRL (i : Nat) : Nat := regKey 6 (0x108 + 0x40 * i)
/-- HARP_STATUS, 06. -/
def HARP_STATUS (i : Nat) : Nat := regKey 6 (0x10C + 0x40 * i)
/-- HARP_FRAME_CNT, 06. -/
def HARP_FRAME_CNT (i : Nat) : Nat := regKey 6 (0x110 + 0x40 * i)
/-- HARP_OVR_CNT, 06. -/
def HARP_OVR_CNT (i : Nat) : Nat := regKey 6 (0x114 + 0x40 * i)
/-- HARP_GEOM_CNT, 06. -/
def HARP_GEOM_CNT (i : Nat) : Nat := regKey 6 (0x118 + 0x40 * i)
/-- HARP_RING_ROWS, 06. -/
def HARP_RING_ROWS (i : Nat) : Nat := regKey 6 (0x11C + 0x40 * i)
/-- HARP_GOLD_SIG, 06. -/
def HARP_GOLD_SIG (i : Nat) : Nat := regKey 6 (0x120 + 0x40 * i)
/-- HARP_GOLD_CNT, 06. -/
def HARP_GOLD_CNT (i : Nat) : Nat := regKey 6 (0x124 + 0x40 * i)
/-- HARP_CE_CNT, 06. -/
def HARP_CE_CNT (i : Nat) : Nat := regKey 6 (0x128 + 0x40 * i)
/-- HARP_SNP_STATUS, 06. -/
def HARP_SNP_STATUS (i : Nat) : Nat := regKey 6 (0xF0000 + 0x10 * i)
/-- HARP_SNP_FRAME, 06. -/
def HARP_SNP_FRAME (i : Nat) : Nat := regKey 6 (0xF0004 + 0x10 * i)
/-- ATT_ID, 07. -/
def ATT_ID (v : Nat) : Nat := regKey (0x28 + v) (0)
/-- ATT_ERR, 07. -/
def ATT_ERR (v : Nat) : Nat := regKey (0x28 + v) (4)
/-- ATT_CAPS, 07. -/
def ATT_CAPS (v : Nat) : Nat := regKey (0x28 + v) (0x10)
/-- ATT_STATUS, 07. -/
def ATT_STATUS (v : Nat) : Nat := regKey (0x28 + v) (0x14)
/-- ATT_SEQ_BASE, 07. -/
def ATT_SEQ_BASE (v : Nat) : Nat := regKey (0x28 + v) (0x18)
/-- ATT_SEQ_COUNT, 07. -/
def ATT_SEQ_COUNT (v : Nat) : Nat := regKey (0x28 + v) (0x1C)
/-- ATT_RING_BASE, 07. -/
def ATT_RING_BASE (v : Nat) : Nat := regKey (0x28 + v) (0x20)
/-- ATT_RING_LEN, 07. -/
def ATT_RING_LEN (v : Nat) : Nat := regKey (0x28 + v) (0x24)
/-- ATT_DB_CELL, 07. -/
def ATT_DB_CELL (v : Nat) : Nat := regKey (0x28 + v) (0x28)
/-- ATT_RING_HEAD, 07. -/
def ATT_RING_HEAD (v : Nat) : Nat := regKey (0x28 + v) (0x2C)
/-- ATT_CMD_CNT, 07. -/
def ATT_CMD_CNT (v : Nat) : Nat := regKey (0x28 + v) (0x30)
/-- ATT_FAIL_CNT, 07. -/
def ATT_FAIL_CNT (v : Nat) : Nat := regKey (0x28 + v) (0x34)
/-- ATT_LASTERR, 07. -/
def ATT_LASTERR (v : Nat) : Nat := regKey (0x28 + v) (0x38)
/-- ATT_EVICT_CNT, 07. -/
def ATT_EVICT_CNT (v : Nat) : Nat := regKey (0x28 + v) (0x40)
/-- ATT_MASS_CNT, 07. -/
def ATT_MASS_CNT (v : Nat) : Nat := regKey (0x28 + v) (0x44)
/-- ATT_SNP_STATUS, 07. -/
def ATT_SNP_STATUS (v : Nat) : Nat := regKey (0x28 + v) (0xF0000)
/-- ATT_SNP_HEAD, 07. -/
def ATT_SNP_HEAD (v : Nat) : Nat := regKey (0x28 + v) (0xF0004)
/-- SCN_ID, 08. -/
def SCN_ID (v : Nat) : Nat := regKey (0x30 + v) (0)
/-- SCN_ERR, 08. -/
def SCN_ERR (v : Nat) : Nat := regKey (0x30 + v) (4)
/-- SCN_CAPS, 08. -/
def SCN_CAPS (v : Nat) : Nat := regKey (0x30 + v) (0x10)
/-- SCN_STATUS, 08. -/
def SCN_STATUS (v : Nat) : Nat := regKey (0x30 + v) (0x14)
/-- SCN_RUN_CNT, 08. -/
def SCN_RUN_CNT (v : Nat) : Nat := regKey (0x30 + v) (0x18)
/-- SCN_DISCARD_CNT, 08. -/
def SCN_DISCARD_CNT (v : Nat) : Nat := regKey (0x30 + v) (0x1C)
/-- SCN_NAN_CNT, 08. -/
def SCN_NAN_CNT (v : Nat) : Nat := regKey (0x30 + v) (0x20)
/-- SCN_CLAMP_CNT, 08. -/
def SCN_CLAMP_CNT (v : Nat) : Nat := regKey (0x30 + v) (0x24)
/-- SCN_ANCH_CNT, 08. -/
def SCN_ANCH_CNT (v : Nat) : Nat := regKey (0x30 + v) (0x28)
/-- SCN_SWAP_CNT, 08. -/
def SCN_SWAP_CNT (v : Nat) : Nat := regKey (0x30 + v) (0x2C)
/-- SCN_LASTERR, 08. -/
def SCN_LASTERR (v : Nat) : Nat := regKey (0x30 + v) (0x30)
/-- SCN_STR_CFG, 08. -/
def SCN_STR_CFG (v : Nat) (i : Nat) : Nat := regKey (0x30 + v) (0x1000 + 0x20 * i)
/-- SCN_STR_CELLS, 08. -/
def SCN_STR_CELLS (v : Nat) (i : Nat) : Nat := regKey (0x30 + v) (0x1008 + 0x20 * i)
/-- SCN_STR_SAVE, 08. -/
def SCN_STR_SAVE (v : Nat) (i : Nat) : Nat := regKey (0x30 + v) (0x100C + 0x20 * i)
/-- SCN_STR_STEPS, 08. -/
def SCN_STR_STEPS (v : Nat) (i : Nat) : Nat := regKey (0x30 + v) (0x1010 + 0x20 * i)
/-- SCN_STR_STATE, 08. -/
def SCN_STR_STATE (v : Nat) (i : Nat) : Nat := regKey (0x30 + v) (0x1018 + 0x20 * i)
/-- SCN_STR_CMD, 08. -/
def SCN_STR_CMD (v : Nat) (i : Nat) : Nat := regKey (0x30 + v) (0x101C + 0x20 * i)
/-- SCN_SNP_STATUS, 08. -/
def SCN_SNP_STATUS (v : Nat) : Nat := regKey (0x30 + v) (0xF0000)
/-- SCN_SNP_STR, 08. -/
def SCN_SNP_STR (v : Nat) (i : Nat) : Nat := regKey (0x30 + v) (0xF0100 + 4 * i)
/-- ING_ID, 09. -/
def ING_ID : Nat := regKey 4 (0)
/-- ING_ERR, 09. -/
def ING_ERR : Nat := regKey 4 (4)
/-- ING_CAPS, 09. -/
def ING_CAPS : Nat := regKey 4 (0x10)
/-- ING_STATUS, 09. -/
def ING_STATUS : Nat := regKey 4 (0x14)
/-- ING_STAGE_HWM, 09. -/
def ING_STAGE_HWM : Nat := regKey 4 (0x18)
/-- ING_SAMPLE_CNT, 09. -/
def ING_SAMPLE_CNT : Nat := regKey 4 (0x20)
/-- ING_DROP_CNT, 09. -/
def ING_DROP_CNT : Nat := regKey 4 (0x24)
/-- ING_LINK_ERR_CNT, 09. -/
def ING_LINK_ERR_CNT : Nat := regKey 4 (0x28)
/-- ING_FROZEN_CNT, 09. -/
def ING_FROZEN_CNT : Nat := regKey 4 (0x2C)
/-- ING_SKIP_CNT, 09. -/
def ING_SKIP_CNT : Nat := regKey 4 (0x30)
/-- ING_NOMATCH_CNT, 09. -/
def ING_NOMATCH_CNT : Nat := regKey 4 (0x34)
/-- ING_CSI_CFG, 09. -/
def ING_CSI_CFG (i : Nat) : Nat := regKey 4 (0x100 + 8 * i)
/-- ING_CAN_CFG, 09. -/
def ING_CAN_CFG (i : Nat) : Nat := regKey 4 (0x180 + 8 * i)
/-- ING_CTX_CFG, 09. -/
def ING_CTX_CFG (i : Nat) : Nat := regKey 4 (0x1000 + 0x40 * i)
/-- ING_CTX_FILT, 09. -/
def ING_CTX_FILT (i : Nat) : Nat := regKey 4 (0x1008 + 0x40 * i)
/-- ING_CTX_TIME, 09. -/
def ING_CTX_TIME (i : Nat) : Nat := regKey 4 (0x1010 + 0x40 * i)
/-- ING_CTX_LIM, 09. -/
def ING_CTX_LIM (i : Nat) : Nat := regKey 4 (0x1018 + 0x40 * i)
/-- ING_CTX_RING, 09. -/
def ING_CTX_RING (i : Nat) : Nat := regKey 4 (0x1020 + 0x40 * i)
/-- ING_CTX_CELL, 09. -/
def ING_CTX_CELL (i : Nat) : Nat := regKey 4 (0x1028 + 0x40 * i)
/-- ING_CTX_CNT, 09. -/
def ING_CTX_CNT (i : Nat) : Nat := regKey 4 (0x1030 + 0x40 * i)
/-- ING_CTX_STAT, 09. -/
def ING_CTX_STAT (i : Nat) : Nat := regKey 4 (0x1038 + 0x40 * i)
/-- ING_SNP_STATUS, 09. -/
def ING_SNP_STATUS : Nat := regKey 4 (0xF0000)
/-- ING_SNP_SEQ, 09. -/
def ING_SNP_SEQ (i : Nat) : Nat := regKey 4 (0xF0100 + 4 * i)
/-- FUS_ID, 09. -/
def FUS_ID : Nat := regKey 5 (0)
/-- FUS_ERR, 09. -/
def FUS_ERR : Nat := regKey 5 (4)
/-- FUS_CAPS, 09. -/
def FUS_CAPS : Nat := regKey 5 (0x10)
/-- FUS_STATUS, 09. -/
def FUS_STATUS : Nat := regKey 5 (0x14)
/-- FUS_CAL_BASE, 09. -/
def FUS_CAL_BASE : Nat := regKey 5 (0x18)
/-- FUS_VMAP_BASE, 09. -/
def FUS_VMAP_BASE : Nat := regKey 5 (0x1C)
/-- FUS_POSE_BASE, 09. -/
def FUS_POSE_BASE : Nat := regKey 5 (0x20)
/-- FUS_EGO_CFG, 09. -/
def FUS_EGO_CFG : Nat := regKey 5 (0x28)
/-- FUS_EGO_VEL_ADDR, 09. -/
def FUS_EGO_VEL_ADDR : Nat := regKey 5 (0x30)
/-- FUS_EGO_TICK, 09. -/
def FUS_EGO_TICK : Nat := regKey 5 (0x38)
/-- FUS_REQ_CNT, 09. -/
def FUS_REQ_CNT : Nat := regKey 5 (0x40)
/-- FUS_MISS_CNT, 09. -/
def FUS_MISS_CNT : Nat := regKey 5 (0x44)
/-- FUS_LATE_USE_CNT, 09. -/
def FUS_LATE_USE_CNT : Nat := regKey 5 (0x48)
/-- FUS_LATE_DROP_CNT, 09. -/
def FUS_LATE_DROP_CNT : Nat := regKey 5 (0x4C)
/-- FUS_ALOST_CNT, 09. -/
def FUS_ALOST_CNT : Nat := regKey 5 (0x50)
/-- FUS_EXCL_CNT, 09. -/
def FUS_EXCL_CNT : Nat := regKey 5 (0x54)
/-- FUS_EGO_DEG_CNT, 09. -/
def FUS_EGO_DEG_CNT : Nat := regKey 5 (0x58)
/-- FUS_PROJ_CUT_CNT, 09. -/
def FUS_PROJ_CUT_CNT : Nat := regKey 5 (0x5C)
/-- FUS_CH_CFG, 09. -/
def FUS_CH_CFG (i : Nat) : Nat := regKey 5 (0x1000 + 0x40 * i)
/-- FUS_CH_TIME, 09. -/
def FUS_CH_TIME (i : Nat) : Nat := regKey 5 (0x1008 + 0x40 * i)
/-- FUS_CH_PHASE, 09. -/
def FUS_CH_PHASE (i : Nat) : Nat := regKey 5 (0x1010 + 0x40 * i)
/-- FUS_CH_LIST0, 09. -/
def FUS_CH_LIST0 (i : Nat) : Nat := regKey 5 (0x1018 + 0x40 * i)
/-- FUS_CH_LIST1, 09. -/
def FUS_CH_LIST1 (i : Nat) : Nat := regKey 5 (0x1020 + 0x40 * i)
/-- FUS_CH_OUT, 09. -/
def FUS_CH_OUT (i : Nat) : Nat := regKey 5 (0x1028 + 0x40 * i)
/-- FUS_CH_CELL, 09. -/
def FUS_CH_CELL (i : Nat) : Nat := regKey 5 (0x1030 + 0x40 * i)
/-- FUS_CH_STATE, 09. -/
def FUS_CH_STATE (i : Nat) : Nat := regKey 5 (0x1038 + 0x40 * i)
/-- FUS_AS_CFG, 09. -/
def FUS_AS_CFG (i : Nat) : Nat := regKey 5 (0x2000 + 0x40 * i)
/-- FUS_AS_TIME, 09. -/
def FUS_AS_TIME (i : Nat) : Nat := regKey 5 (0x2008 + 0x40 * i)
/-- FUS_AS_TRACK, 09. -/
def FUS_AS_TRACK (i : Nat) : Nat := regKey 5 (0x2010 + 0x40 * i)
/-- FUS_AS_DET, 09. -/
def FUS_AS_DET (i : Nat) : Nat := regKey 5 (0x2018 + 0x40 * i)
/-- FUS_AS_OUT, 09. -/
def FUS_AS_OUT (i : Nat) : Nat := regKey 5 (0x2020 + 0x40 * i)
/-- FUS_AS_READY, 09. -/
def FUS_AS_READY (i : Nat) : Nat := regKey 5 (0x2028 + 0x40 * i)
/-- FUS_AS_THR, 09. -/
def FUS_AS_THR (i : Nat) : Nat := regKey 5 (0x2030 + 0x40 * i)
/-- FUS_AS_CELL, 09. -/
def FUS_AS_CELL (i : Nat) : Nat := regKey 5 (0x2038 + 0x40 * i)
/-- FUS_SNP_STATUS, 09. -/
def FUS_SNP_STATUS : Nat := regKey 5 (0xF0000)
/-- FUS_SNP_CH, 09. -/
def FUS_SNP_CH (i : Nat) : Nat := regKey 5 (0xF0100 + 8 * i)
/-- SLV_ID, 10. -/
def SLV_ID : Nat := regKey 7 (0)
/-- SLV_ERR, 10. -/
def SLV_ERR : Nat := regKey 7 (4)
/-- SLV_CAPS, 10. -/
def SLV_CAPS : Nat := regKey 7 (0x10)
/-- SLV_STATUS, 10. -/
def SLV_STATUS : Nat := regKey 7 (0x14)
/-- SLV_JOB_CNT, 10. -/
def SLV_JOB_CNT : Nat := regKey 7 (0x18)
/-- SLV_MISS_CNT, 10. -/
def SLV_MISS_CNT : Nat := regKey 7 (0x1C)
/-- SLV_PREEMPT_CNT, 10. -/
def SLV_PREEMPT_CNT : Nat := regKey 7 (0x20)
/-- SLV_WSMM_CNT, 10. -/
def SLV_WSMM_CNT : Nat := regKey 7 (0x24)
/-- SLV_REG_CNT, 10. -/
def SLV_REG_CNT : Nat := regKey 7 (0x28)
/-- SLV_CE_CNT, 10. -/
def SLV_CE_CNT : Nat := regKey 7 (0x2C)
/-- SLV_LASTERR, 10. -/
def SLV_LASTERR : Nat := regKey 7 (0x30)
/-- SLV_CKPT_SIG, 10. -/
def SLV_CKPT_SIG : Nat := regKey 7 (0x38)
/-- SLV_JOB_DESC, 10. -/
def SLV_JOB_DESC (i : Nat) : Nat := regKey 7 (0x1000 + 0x40 * i)
/-- SLV_JOB_CTRL, 10. -/
def SLV_JOB_CTRL (i : Nat) : Nat := regKey 7 (0x1008 + 0x40 * i)
/-- SLV_JOB_PERIOD, 10. -/
def SLV_JOB_PERIOD (i : Nat) : Nat := regKey 7 (0x1010 + 0x40 * i)
/-- SLV_JOB_PHASE, 10. -/
def SLV_JOB_PHASE (i : Nat) : Nat := regKey 7 (0x1018 + 0x40 * i)
/-- SLV_JOB_BUDGET, 10. -/
def SLV_JOB_BUDGET (i : Nat) : Nat := regKey 7 (0x1020 + 0x40 * i)
/-- SLV_JOB_CELL, 10. -/
def SLV_JOB_CELL (i : Nat) : Nat := regKey 7 (0x1028 + 0x40 * i)
/-- SLV_JOB_STAT, 10. -/
def SLV_JOB_STAT (i : Nat) : Nat := regKey 7 (0x1030 + 0x40 * i)
/-- SLV_JOB_NEXT, 10. -/
def SLV_JOB_NEXT (i : Nat) : Nat := regKey 7 (0x1038 + 0x40 * i)
/-- SLV_SNP_STATUS, 10. -/
def SLV_SNP_STATUS : Nat := regKey 7 (0xF0000)
/-- SLV_SNP_STAT, 10. -/
def SLV_SNP_STAT (i : Nat) : Nat := regKey 7 (0xF0008 + 8 * i)
/-- PLN_ID, 11. -/
def PLN_ID : Nat := regKey 8 (0)
/-- PLN_ERR, 11. -/
def PLN_ERR : Nat := regKey 8 (4)
/-- PLN_CAPS, 11. -/
def PLN_CAPS : Nat := regKey 8 (0x10)
/-- PLN_STATUS, 11. -/
def PLN_STATUS : Nat := regKey 8 (0x14)
/-- PLN_CTRL, 11. -/
def PLN_CTRL : Nat := regKey 8 (0x18)
/-- PLN_PERIOD, 11. -/
def PLN_PERIOD : Nat := regKey 8 (0x20)
/-- PLN_PHASE, 11. -/
def PLN_PHASE : Nat := regKey 8 (0x28)
/-- PLN_BUDGET, 11. -/
def PLN_BUDGET : Nat := regKey 8 (0x30)
/-- PLN_CAND_ADDR, 11. -/
def PLN_CAND_ADDR : Nat := regKey 8 (0x38)
/-- PLN_READY_ADDR, 11. -/
def PLN_READY_ADDR : Nat := regKey 8 (0x40)
/-- PLN_READY_THR, 11. -/
def PLN_READY_THR : Nat := regKey 8 (0x48)
/-- PLN_PUB_ADDR, 11. -/
def PLN_PUB_ADDR : Nat := regKey 8 (0x50)
/-- PLN_PIN_ADDR, 11. -/
def PLN_PIN_ADDR : Nat := regKey 8 (0x58)
/-- PLN_RES_ADDR, 11. -/
def PLN_RES_ADDR : Nat := regKey 8 (0x60)
/-- PLN_CELL, 11. -/
def PLN_CELL : Nat := regKey 8 (0x68)
/-- PLN_GHDR_BASE, 11. -/
def PLN_GHDR_BASE : Nat := regKey 8 (0x70)
/-- PLN_BODY_BASE, 11. -/
def PLN_BODY_BASE : Nat := regKey 8 (0x74)
/-- PLN_CFG, 11. -/
def PLN_CFG : Nat := regKey 8 (0x78)
/-- PLN_WDT, 11. -/
def PLN_WDT : Nat := regKey 8 (0x80)
/-- PLN_A_STOP, 11. -/
def PLN_A_STOP : Nat := regKey 8 (0x84)
/-- PLN_MAP_AGE, 11. -/
def PLN_MAP_AGE : Nat := regKey 8 (0x88)
/-- PLN_CYCLE_CNT, 11. -/
def PLN_CYCLE_CNT : Nat := regKey 8 (0x100)
/-- PLN_NOPATH_CNT, 11. -/
def PLN_NOPATH_CNT : Nat := regKey 8 (0x104)
/-- PLN_TIMEOUT_CNT, 11. -/
def PLN_TIMEOUT_CNT : Nat := regKey 8 (0x108)
/-- PLN_IMMINENT_CNT, 11. -/
def PLN_IMMINENT_CNT : Nat := regKey 8 (0x10C)
/-- PLN_STALE_CNT, 11. -/
def PLN_STALE_CNT : Nat := regKey 8 (0x110)
/-- PLN_MAPBAD_CNT, 11. -/
def PLN_MAPBAD_CNT : Nat := regKey 8 (0x114)
/-- PLN_POISON_CNT, 11. -/
def PLN_POISON_CNT : Nat := regKey 8 (0x118)
/-- PLN_LASTERR, 11. -/
def PLN_LASTERR : Nat := regKey 8 (0x120)
/-- PLN_CKPT_SIG, 11. -/
def PLN_CKPT_SIG : Nat := regKey 8 (0x128)
/-- PLN_SNP_STATUS, 11. -/
def PLN_SNP_STATUS : Nat := regKey 8 (0xF0000)
/-- PLN_SNP_SEQ, 11. -/
def PLN_SNP_SEQ : Nat := regKey 8 (0xF0004)
/-- LOOP_ID, 12. -/
def LOOP_ID : Nat := regKey 9 (0)
/-- LOOP_ERR, 12. -/
def LOOP_ERR : Nat := regKey 9 (4)
/-- LOOP_CAPS, 12. -/
def LOOP_CAPS : Nat := regKey 9 (0x10)
/-- LOOP_STATUS, 12. -/
def LOOP_STATUS : Nat := regKey 9 (0x14)
/-- LOOP_CTRL, 12. -/
def LOOP_CTRL : Nat := regKey 9 (0x18)
/-- LOOP_PERIOD, 12. -/
def LOOP_PERIOD : Nat := regKey 9 (0x1C)
/-- LOOP_PHASE, 12. -/
def LOOP_PHASE : Nat := regKey 9 (0x20)
/-- LOOP_TICK, 12. -/
def LOOP_TICK : Nat := regKey 9 (0x28)
/-- LOOP_TICK_T, 12. -/
def LOOP_TICK_T : Nat := regKey 9 (0x30)
/-- LOOP_SEG_T0, 12. -/
def LOOP_SEG_T0 : Nat := regKey 9 (0x38)
/-- LOOP_SEG_LEN, 12. -/
def LOOP_SEG_LEN : Nat := regKey 9 (0x40)
/-- LOOP_SEG_SWAP, 12. -/
def LOOP_SEG_SWAP : Nat := regKey 9 (0x44)
/-- LOOP_TBL_ADDR, 12. -/
def LOOP_TBL_ADDR : Nat := regKey 9 (0x48)
/-- LOOP_TBL_DATA, 12. -/
def LOOP_TBL_DATA : Nat := regKey 9 (0x4C)
/-- LOOP_SLIP_CNT, 12. -/
def LOOP_SLIP_CNT : Nat := regKey 9 (0x50)
/-- LOOP_CMP_CNT, 12. -/
def LOOP_CMP_CNT : Nat := regKey 9 (0x54)
/-- LOOP_FE_CNT, 12. -/
def LOOP_FE_CNT : Nat := regKey 9 (0x58)
/-- LOOP_FAULT_CNT, 12. -/
def LOOP_FAULT_CNT : Nat := regKey 9 (0x5C)
/-- LOOP_STALE_CNT, 12. -/
def LOOP_STALE_CNT : Nat := regKey 9 (0x60)
/-- LOOP_CE_CNT, 12. -/
def LOOP_CE_CNT : Nat := regKey 9 (0x64)
/-- LOOP_UE_LOG, 12. -/
def LOOP_UE_LOG : Nat := regKey 9 (0x68)
/-- LOOP_CKPT_SIG, 12. -/
def LOOP_CKPT_SIG (i : Nat) : Nat := regKey 9 (0x80 + 8 * i)
/-- LOOP_KP, 12. -/
def LOOP_KP (i : Nat) : Nat := regKey 9 (0x10000 + 0x80 * i)
/-- LOOP_KVFF, 12. -/
def LOOP_KVFF (i : Nat) : Nat := regKey 9 (0x10004 + 0x80 * i)
/-- LOOP_KV, 12. -/
def LOOP_KV (i : Nat) : Nat := regKey 9 (0x10008 + 0x80 * i)
/-- LOOP_KI, 12. -/
def LOOP_KI (i : Nat) : Nat := regKey 9 (0x1000C + 0x80 * i)
/-- LOOP_ILIM, 12. -/
def LOOP_ILIM (i : Nat) : Nat := regKey 9 (0x10010 + 0x80 * i)
/-- LOOP_AV, 12. -/
def LOOP_AV (i : Nat) : Nat := regKey 9 (0x10014 + 0x80 * i)
/-- LOOP_KTFF, 12. -/
def LOOP_KTFF (i : Nat) : Nat := regKey 9 (0x10018 + 0x80 * i)
/-- LOOP_KT, 12. -/
def LOOP_KT (i : Nat) : Nat := regKey 9 (0x1001C + 0x80 * i)
/-- LOOP_IMAX, 12. -/
def LOOP_IMAX (i : Nat) : Nat := regKey 9 (0x10020 + 0x80 * i)
/-- LOOP_VDB, 12. -/
def LOOP_VDB (i : Nat) : Nat := regKey 9 (0x10024 + 0x80 * i)
/-- LOOP_TQLSB, 12. -/
def LOOP_TQLSB (i : Nat) : Nat := regKey 9 (0x10028 + 0x80 * i)
/-- LOOP_FELIM, 12. -/
def LOOP_FELIM (i : Nat) : Nat := regKey 9 (0x1002C + 0x80 * i)
/-- LOOP_AXCFG, 12. -/
def LOOP_AXCFG (i : Nat) : Nat := regKey 9 (0x10030 + 0x80 * i)
/-- LOOP_AXCMD, 12. -/
def LOOP_AXCMD (i : Nat) : Nat := regKey 9 (0x10034 + 0x80 * i)
/-- LOOP_AXSTATE, 12. -/
def LOOP_AXSTATE (i : Nat) : Nat := regKey 9 (0x10038 + 0x80 * i)
/-- LOOP_AXFB, 12. -/
def LOOP_AXFB (i : Nat) : Nat := regKey 9 (0x10040 + 0x80 * i)
/-- LOOP_AXOUT, 12. -/
def LOOP_AXOUT (i : Nat) : Nat := regKey 9 (0x10048 + 0x80 * i)
/-- LOOP_AXVF, 12. -/
def LOOP_AXVF (i : Nat) : Nat := regKey 9 (0x10050 + 0x80 * i)
/-- LOOP_AXIV, 12. -/
def LOOP_AXIV (i : Nat) : Nat := regKey 9 (0x10054 + 0x80 * i)
/-- LOOP_SEG_0, 12. -/
def LOOP_SEG_0 (i : Nat) : Nat := regKey 9 (0x20000 + 0x20 * i)
/-- LOOP_SEG_1, 12. -/
def LOOP_SEG_1 (i : Nat) : Nat := regKey 9 (0x20008 + 0x20 * i)
/-- LOOP_SEG_2, 12. -/
def LOOP_SEG_2 (i : Nat) : Nat := regKey 9 (0x20010 + 0x20 * i)
/-- LOOP_SNP_TICK, 12. -/
def LOOP_SNP_TICK : Nat := regKey 9 (0xF0000)
/-- LOOP_SNP_STATUS, 12. -/
def LOOP_SNP_STATUS : Nat := regKey 9 (0xF0008)
/-- LOOP_SNP_AX, 12. -/
def LOOP_SNP_AX (i : Nat) : Nat := regKey 9 (0xF0100 + 8 * i)
/-- SRV_ID, 12. -/
def SRV_ID : Nat := regKey 0xA (0)
/-- SRV_ERR, 12. -/
def SRV_ERR : Nat := regKey 0xA (4)
/-- SRV_CAPS, 12. -/
def SRV_CAPS : Nat := regKey 0xA (0x10)
/-- SRV_STATUS, 12. -/
def SRV_STATUS : Nat := regKey 0xA (0x14)
/-- SRV_CFG, 12. -/
def SRV_CFG (i : Nat) : Nat := regKey 0xA (0x1000 + 0x40 * i)
/-- SRV_PSTAT, 12. -/
def SRV_PSTAT (i : Nat) : Nat := regKey 0xA (0x1004 + 0x40 * i)
/-- SRV_RTT_MAX, 12. -/
def SRV_RTT_MAX (i : Nat) : Nat := regKey 0xA (0x1008 + 0x40 * i)
/-- SRV_RTT_LAST, 12. -/
def SRV_RTT_LAST (i : Nat) : Nat := regKey 0xA (0x100C + 0x40 * i)
/-- SRV_CODE_CNT, 12. -/
def SRV_CODE_CNT (i : Nat) : Nat := regKey 0xA (0x1010 + 0x40 * i)
/-- SRV_CRC_CNT, 12. -/
def SRV_CRC_CNT (i : Nat) : Nat := regKey 0xA (0x1014 + 0x40 * i)
/-- SRV_FMT_CNT, 12. -/
def SRV_FMT_CNT (i : Nat) : Nat := regKey 0xA (0x1018 + 0x40 * i)
/-- SRV_STALE_CNT, 12. -/
def SRV_STALE_CNT (i : Nat) : Nat := regKey 0xA (0x101C + 0x40 * i)
/-- SRV_LATE_CNT, 12. -/
def SRV_LATE_CNT (i : Nat) : Nat := regKey 0xA (0x1020 + 0x40 * i)
/-- SRV_MISS_CNT, 12. -/
def SRV_MISS_CNT (i : Nat) : Nat := regKey 0xA (0x1024 + 0x40 * i)
/-- SRV_DOWN_CNT, 12. -/
def SRV_DOWN_CNT (i : Nat) : Nat := regKey 0xA (0x1028 + 0x40 * i)
/-- SRV_SNP_PSTAT, 12. -/
def SRV_SNP_PSTAT (i : Nat) : Nat := regKey 0xA (0xF0000 + 8 * i)
/-- TB_ID, 13. -/
def TB_ID : Nat := regKey 0xB (0)
/-- TB_ERR, 13. -/
def TB_ERR : Nat := regKey 0xB (4)
/-- TB_CAPS, 13. -/
def TB_CAPS : Nat := regKey 0xB (0x10)
/-- TB_STATUS, 13. -/
def TB_STATUS : Nat := regKey 0xB (0x14)
/-- TB_CTRL, 13. -/
def TB_CTRL : Nat := regKey 0xB (0x18)
/-- TB_NOW, 13. -/
def TB_NOW : Nat := regKey 0xB (0x20)
/-- TB_NOW_FRAC, 13. -/
def TB_NOW_FRAC : Nat := regKey 0xB (0x28)
/-- TB_COUNT, 13. -/
def TB_COUNT : Nat := regKey 0xB (0x30)
/-- TB_OFS, 13. -/
def TB_OFS : Nat := regKey 0xB (0x38)
/-- TB_RATE, 13. -/
def TB_RATE : Nat := regKey 0xB (0x40)
/-- TB_STEP, 13. -/
def TB_STEP : Nat := regKey 0xB (0x48)
/-- TB_MEAS, 13. -/
def TB_MEAS : Nat := regKey 0xB (0x50)
/-- TB_LAST_MEAS, 13. -/
def TB_LAST_MEAS : Nat := regKey 0xB (0x58)
/-- TB_INTEG, 13. -/
def TB_INTEG : Nat := regKey 0xB (0x60)
/-- TB_KP, 13. -/
def TB_KP : Nat := regKey 0xB (0x64)
/-- TB_KI, 13. -/
def TB_KI : Nat := regKey 0xB (0x68)
/-- TB_RATE_MAX, 13. -/
def TB_RATE_MAX : Nat := regKey 0xB (0x6C)
/-- TB_LOCK, 13. -/
def TB_LOCK : Nat := regKey 0xB (0x70)
/-- TB_OUTLIER, 13. -/
def TB_OUTLIER : Nat := regKey 0xB (0x74)
/-- TB_MEAS_TO, 13. -/
def TB_MEAS_TO : Nat := regKey 0xB (0x78)
/-- TB_HOLD_MAX, 13. -/
def TB_HOLD_MAX : Nat := regKey 0xB (0x7C)
/-- TB_DOMAIN_OFS, 13. -/
def TB_DOMAIN_OFS : Nat := regKey 0xB (0x80)
/-- TB_MEAS_CNT, 13. -/
def TB_MEAS_CNT : Nat := regKey 0xB (0x88)
/-- TB_OUTLIER_CNT, 13. -/
def TB_OUTLIER_CNT : Nat := regKey 0xB (0x8C)
/-- TB_HOLD_CNT, 13. -/
def TB_HOLD_CNT : Nat := regKey 0xB (0x90)
/-- TB_EXPIRE_CNT, 13. -/
def TB_EXPIRE_CNT : Nat := regKey 0xB (0x94)
/-- TB_STEP_CNT, 13. -/
def TB_STEP_CNT : Nat := regKey 0xB (0x98)
/-- TB_SKIP_CNT, 13. -/
def TB_SKIP_CNT : Nat := regKey 0xB (0x9C)
/-- TB_SNP_NOW, 13. -/
def TB_SNP_NOW : Nat := regKey 0xB (0xF0000)
/-- TB_SNP_STATUS, 13. -/
def TB_SNP_STATUS : Nat := regKey 0xB (0xF0008)
/-- TSN_ID, 13. -/
def TSN_ID : Nat := regKey 0xC (0)
/-- TSN_ERR, 13. -/
def TSN_ERR : Nat := regKey 0xC (4)
/-- TSN_CAPS, 13. -/
def TSN_CAPS : Nat := regKey 0xC (0x10)
/-- TSN_ACTQ, 13. -/
def TSN_ACTQ : Nat := regKey 0xC (0x14)
/-- TSN_PCFG, 13. -/
def TSN_PCFG (i : Nat) : Nat := regKey 0xC (0x1000 + 0x1000 * i)
/-- TSN_PSTAT, 13. -/
def TSN_PSTAT (i : Nat) : Nat := regKey 0xC (0x1004 + 0x1000 * i)
/-- TSN_GCL_ADDR, 13. -/
def TSN_GCL_ADDR (i : Nat) : Nat := regKey 0xC (0x1008 + 0x1000 * i)
/-- TSN_GCL_CFG, 13. -/
def TSN_GCL_CFG (i : Nat) : Nat := regKey 0xC (0x1010 + 0x1000 * i)
/-- TSN_GCL_CYCLE, 13. -/
def TSN_GCL_CYCLE (i : Nat) : Nat := regKey 0xC (0x1014 + 0x1000 * i)
/-- TSN_GCL_BASE, 13. -/
def TSN_GCL_BASE (i : Nat) : Nat := regKey 0xC (0x1018 + 0x1000 * i)
/-- TSN_TX_CNT, 13. -/
def TSN_TX_CNT (i : Nat) : Nat := regKey 0xC (0x1020 + 0x1000 * i)
/-- TSN_RX_CNT, 13. -/
def TSN_RX_CNT (i : Nat) : Nat := regKey 0xC (0x1024 + 0x1000 * i)
/-- TSN_PTP_CNT, 13. -/
def TSN_PTP_CNT (i : Nat) : Nat := regKey 0xC (0x1028 + 0x1000 * i)
/-- TSN_QCFG, 13. -/
def TSN_QCFG (i : Nat) (j : Nat) : Nat := regKey 0xC (0x1100 + 0x1000 * i + 0x40 * j)
/-- TSN_QRING, 13. -/
def TSN_QRING (i : Nat) (j : Nat) : Nat := regKey 0xC (0x1108 + 0x1000 * i + 0x40 * j)
/-- TSN_QDB, 13. -/
def TSN_QDB (i : Nat) (j : Nat) : Nat := regKey 0xC (0x1110 + 0x1000 * i + 0x40 * j)
/-- TSN_QCPL, 13. -/
def TSN_QCPL (i : Nat) (j : Nat) : Nat := regKey 0xC (0x1118 + 0x1000 * i + 0x40 * j)
/-- TSN_QSTAT, 13. -/
def TSN_QSTAT (i : Nat) (j : Nat) : Nat := regKey 0xC (0x1120 + 0x1000 * i + 0x40 * j)
/-- TSN_QLATE, 13. -/
def TSN_QLATE (i : Nat) (j : Nat) : Nat := regKey 0xC (0x1124 + 0x1000 * i + 0x40 * j)
/-- TSN_QPRE, 13. -/
def TSN_QPRE (i : Nat) (j : Nat) : Nat := regKey 0xC (0x1128 + 0x1000 * i + 0x40 * j)
/-- TSN_SNP_PSTAT, 13. -/
def TSN_SNP_PSTAT (i : Nat) : Nat := regKey 0xC (0xF0000 + 4 * i)
/-- XSL_ID, 14. -/
def XSL_ID : Nat := regKey 0xD (0)
/-- XSL_ERR, 14. -/
def XSL_ERR : Nat := regKey 0xD (4)
/-- XSL_CAPS, 14. -/
def XSL_CAPS : Nat := regKey 0xD (0x10)
/-- XSL_STATUS, 14. -/
def XSL_STATUS : Nat := regKey 0xD (0x14)
/-- XSL_CFG, 14. -/
def XSL_CFG : Nat := regKey 0xD (0x18)
/-- XSL_MEMBERS, 14. -/
def XSL_MEMBERS : Nat := regKey 0xD (0x20)
/-- XSL_LOST, 14. -/
def XSL_LOST : Nat := regKey 0xD (0x28)
/-- XSL_RES_MAX, 14. -/
def XSL_RES_MAX : Nat := regKey 0xD (0x30)
/-- XSL_WIRE_MAX, 14. -/
def XSL_WIRE_MAX : Nat := regKey 0xD (0x34)
/-- XSL_LMAX, 14. -/
def XSL_LMAX : Nat := regKey 0xD (0x38)
/-- XSL_PEER_TO, 14. -/
def XSL_PEER_TO : Nat := regKey 0xD (0x3C)
/-- XSL_TAGS_FREE, 14. -/
def XSL_TAGS_FREE : Nat := regKey 0xD (0x40)
/-- XSL_STALE_CNT, 14. -/
def XSL_STALE_CNT : Nat := regKey 0xD (0x50)
/-- XSL_ORPHAN_CNT, 14. -/
def XSL_ORPHAN_CNT : Nat := regKey 0xD (0x54)
/-- XSL_NONMEM_CNT, 14. -/
def XSL_NONMEM_CNT : Nat := regKey 0xD (0x58)
/-- XSL_CRC_CNT, 14. -/
def XSL_CRC_CNT : Nat := regKey 0xD (0x5C)
/-- XSL_FWD_DROP_CNT, 14. -/
def XSL_FWD_DROP_CNT : Nat := regKey 0xD (0x60)
/-- XSL_IN_DROP_CNT, 14. -/
def XSL_IN_DROP_CNT : Nat := regKey 0xD (0x64)
/-- XSL_AGE_CNT, 14. -/
def XSL_AGE_CNT : Nat := regKey 0xD (0x68)
/-- XSL_PEERLOST_CNT, 14. -/
def XSL_PEERLOST_CNT : Nat := regKey 0xD (0x6C)
/-- XSL_ROUTE, 14. -/
def XSL_ROUTE (i : Nat) : Nat := regKey 0xD (0x100 + 8 * i)
/-- XSL_ROTMASK, 14. -/
def XSL_ROTMASK (i : Nat) : Nat := regKey 0xD (0x200 + 8 * i)
/-- XSL_PCFG, 14. -/
def XSL_PCFG (i : Nat) : Nat := regKey 0xD (0x300 + 0x20 * i)
/-- XSL_PSTAT, 14. -/
def XSL_PSTAT (i : Nat) : Nat := regKey 0xD (0x304 + 0x20 * i)
/-- XSL_CE_CNT, 14. -/
def XSL_CE_CNT (i : Nat) : Nat := regKey 0xD (0x308 + 0x20 * i)
/-- XSL_UE_CNT, 14. -/
def XSL_UE_CNT (i : Nat) : Nat := regKey 0xD (0x30C + 0x20 * i)
/-- XSL_TXF_CNT, 14. -/
def XSL_TXF_CNT (i : Nat) : Nat := regKey 0xD (0x310 + 0x20 * i)
/-- XSL_GEN, 14. -/
def XSL_GEN (i : Nat) : Nat := regKey 0xD (0x1000 + 4 * i)
/-- XSL_SNP_STATUS, 14. -/
def XSL_SNP_STATUS : Nat := regKey 0xD (0xF0000)
/-- XSL_SNP_LOST, 14. -/
def XSL_SNP_LOST : Nat := regKey 0xD (0xF0008)
/-- SAF_ID, 15. -/
def SAF_ID : Nat := regKey 0xE (0)
/-- SAF_ERR, 15. -/
def SAF_ERR : Nat := regKey 0xE (4)
/-- SAF_CAPS, 15. -/
def SAF_CAPS : Nat := regKey 0xE (0x10)
/-- SAF_STATUS, 15. -/
def SAF_STATUS : Nat := regKey 0xE (0x14)
/-- SAF_DOUBT, 15. -/
def SAF_DOUBT : Nat := regKey 0xE (0x18)
/-- SAF_DOUBT_FIRST, 15. -/
def SAF_DOUBT_FIRST : Nat := regKey 0xE (0x1C)
/-- SAF_DOUBT_CNT, 15. -/
def SAF_DOUBT_CNT (i : Nat) : Nat := regKey 0xE (0x20 + 4 * i)
/-- SAF_CMP_LOG, 15. -/
def SAF_CMP_LOG : Nat := regKey 0xE (0xA0)
/-- SAF_CMP_BE_CNT, 15. -/
def SAF_CMP_BE_CNT : Nat := regKey 0xE (0xA8)
/-- SAF_LANE_FAIL_CNT, 15. -/
def SAF_LANE_FAIL_CNT : Nat := regKey 0xE (0xAC)
/-- SAF_ARRAY_CNT, 15. -/
def SAF_ARRAY_CNT : Nat := regKey 0xE (0xB0)
/-- SAF_PAIR_CNT, 15. -/
def SAF_PAIR_CNT : Nat := regKey 0xE (0xB4)
/-- SAF_GOLD_MM_CNT, 15. -/
def SAF_GOLD_MM_CNT : Nat := regKey 0xE (0xB8)
/-- SAF_PLAN_BASE, 15. -/
def SAF_PLAN_BASE : Nat := regKey 0xE (0xC0)
/-- SAF_GOLD_BASE, 15. -/
def SAF_GOLD_BASE : Nat := regKey 0xE (0xC4)
/-- SAF_ST_AREA, 15. -/
def SAF_ST_AREA (i : Nat) : Nat := regKey 0xE (0x100 + 4 * i)
/-- SAF_ST_STATE, 15. -/
def SAF_ST_STATE (i : Nat) : Nat := regKey 0xE (0x200 + 0x10 * i)
/-- SAF_ST_CNT, 15. -/
def SAF_ST_CNT (i : Nat) : Nat := regKey 0xE (0x208 + 0x10 * i)
/-- SAF_PAIR_SIG, 15. -/
def SAF_PAIR_SIG (i : Nat) : Nat := regKey 0xE (0x300 + 8 * i)
/-- SAF_GOLD_STAT, 15. -/
def SAF_GOLD_STAT (i : Nat) : Nat := regKey 0xE (0x400 + 4 * i)
/-- SAF_SNP_DOUBT, 15. -/
def SAF_SNP_DOUBT : Nat := regKey 0xE (0xF0000)
/-- SAF_SNP_STATUS, 15. -/
def SAF_SNP_STATUS : Nat := regKey 0xE (0xF0004)
/-- RIND_ID, 15. -/
def RIND_ID : Nat := regKey 0x40 (0)
/-- RIND_ERR, 15. -/
def RIND_ERR : Nat := regKey 0x40 (4)
/-- RIND_STATUS, 15. -/
def RIND_STATUS : Nat := regKey 0x40 (0x10)
/-- RIND_DOUBT, 15. -/
def RIND_DOUBT : Nat := regKey 0x40 (0x14)
/-- RIND_DOUBT_FIRST, 15. -/
def RIND_DOUBT_FIRST : Nat := regKey 0x40 (0x18)
/-- RIND_DOUBT_CNT, 15. -/
def RIND_DOUBT_CNT (i : Nat) : Nat := regKey 0x40 (0x20 + 4 * i)
/-- RIND_CMP_LOG, 15. -/
def RIND_CMP_LOG : Nat := regKey 0x40 (0xA0)
/-- RIND_CKPT_SIG, 15. -/
def RIND_CKPT_SIG : Nat := regKey 0x40 (0xA8)
/-- RIND_RCLK_CNT, 15. -/
def RIND_RCLK_CNT : Nat := regKey 0x40 (0xB0)
/-- RIND_TAKE_T, 15. -/
def RIND_TAKE_T : Nat := regKey 0x40 (0xB8)
/-- RIND_TAKE_CNT, 15. -/
def RIND_TAKE_CNT : Nat := regKey 0x40 (0xC0)
/-- RIND_GLITCH_CNT, 15. -/
def RIND_GLITCH_CNT : Nat := regKey 0x40 (0xC4)
/-- RIND_WDT_CFG, 15. -/
def RIND_WDT_CFG : Nat := regKey 0x40 (0xC8)
/-- RIND_WDT_KICK, 15. -/
def RIND_WDT_KICK : Nat := regKey 0x40 (0xCC)
/-- RIND_SUPPLY, 15. -/
def RIND_SUPPLY : Nat := regKey 0x40 (0xD0)
/-- RIND_SNP_STATUS, 15. -/
def RIND_SNP_STATUS : Nat := regKey 0x40 (0xF0000)
/-- RIND_SNP_RCLK, 15. -/
def RIND_SNP_RCLK : Nat := regKey 0x40 (0xF0008)
/-- FBX_ID, 15. -/
def FBX_ID : Nat := regKey 0x41 (0)
/-- FBX_ERR, 15. -/
def FBX_ERR : Nat := regKey 0x41 (4)
/-- FBX_STATUS, 15. -/
def FBX_STATUS : Nat := regKey 0x41 (0x10)
/-- FBX_CFG, 15. -/
def FBX_CFG : Nat := regKey 0x41 (0x14)
/-- FBX_TX, 15. -/
def FBX_TX : Nat := regKey 0x41 (0x18)
/-- FBX_TIMES, 15. -/
def FBX_TIMES : Nat := regKey 0x41 (0x20)
/-- FBX_LATE_US, 15. -/
def FBX_LATE_US : Nat := regKey 0x41 (0x28)
/-- FBX_STILL_VEL, 15. -/
def FBX_STILL_VEL : Nat := regKey 0x41 (0x2C)
/-- FBX_AXEN, 15. -/
def FBX_AXEN : Nat := regKey 0x41 (0x30)
/-- FBX_ACC_T, 15. -/
def FBX_ACC_T : Nat := regKey 0x41 (0x38)
/-- FBX_TRJ_COMMIT, 15. -/
def FBX_TRJ_COMMIT : Nat := regKey 0x41 (0x40)
/-- FBX_HB_REQ, 15. -/
def FBX_HB_REQ : Nat := regKey 0x41 (0x44)
/-- FBX_HB_GO, 15. -/
def FBX_HB_GO : Nat := regKey 0x41 (0x48)
/-- FBX_ACC_CNT, 15. -/
def FBX_ACC_CNT : Nat := regKey 0x41 (0x50)
/-- FBX_REJ_CNT, 15. -/
def FBX_REJ_CNT : Nat := regKey 0x41 (0x54)
/-- FBX_NAN_CNT, 15. -/
def FBX_NAN_CNT : Nat := regKey 0x41 (0x58)
/-- FBX_FBLOSS_CNT, 15. -/
def FBX_FBLOSS_CNT : Nat := regKey 0x41 (0x5C)
/-- FBX_DEF_CFG, 15. -/
def FBX_DEF_CFG : Nat := regKey 0x41 (0x60)
/-- FBX_DEF_ETH, 15. -/
def FBX_DEF_ETH (i : Nat) : Nat := regKey 0x41 (0x800 + 8 * i)
/-- FBX_KPF, 15. -/
def FBX_KPF (i : Nat) : Nat := regKey 0x41 (0x1000 + 0x20 * i)
/-- FBX_KDF, 15. -/
def FBX_KDF (i : Nat) : Nat := regKey 0x41 (0x1004 + 0x20 * i)
/-- FBX_KTF, 15. -/
def FBX_KTF (i : Nat) : Nat := regKey 0x41 (0x1008 + 0x20 * i)
/-- FBX_IMAXF, 15. -/
def FBX_IMAXF (i : Nat) : Nat := regKey 0x41 (0x100C + 0x20 * i)
/-- FBX_PMIN, 15. -/
def FBX_PMIN (i : Nat) : Nat := regKey 0x41 (0x1010 + 0x20 * i)
/-- FBX_PMAX, 15. -/
def FBX_PMAX (i : Nat) : Nat := regKey 0x41 (0x1014 + 0x20 * i)
/-- FBX_VMAX, 15. -/
def FBX_VMAX (i : Nat) : Nat := regKey 0x41 (0x1018 + 0x20 * i)
/-- FBX_STAGE, 15. -/
def FBX_STAGE (i : Nat) : Nat := regKey 0x41 (0x10000 + 8 * i)
/-- FBX_SNP_STATUS, 15. -/
def FBX_SNP_STATUS : Nat := regKey 0x41 (0xF0000)
/-- FBX_SNP_IQ, 15. -/
def FBX_SNP_IQ (i : Nat) : Nat := regKey 0x41 (0xF0100 + 4 * i)
/-- CLK_ID, 16. -/
def CLK_ID : Nat := regKey 0x10 (0)
/-- CLK_ERR, 16. -/
def CLK_ERR : Nat := regKey 0x10 (4)
/-- CLK_CAPS, 16. -/
def CLK_CAPS : Nat := regKey 0x10 (0x10)
/-- CLK_STATUS, 16. -/
def CLK_STATUS : Nat := regKey 0x10 (0x14)
/-- CLK_FUSE, 16. -/
def CLK_FUSE (i : Nat) : Nat := regKey 0x10 (0x20 + 4 * i)
/-- CLK_M, 16. -/
def CLK_M (i : Nat) : Nat := regKey 0x10 (0x40 + 4 * i)
/-- CLK_DROOP_CNT, 16. -/
def CLK_DROOP_CNT (i : Nat) : Nat := regKey 0x10 (0x60 + 4 * i)
/-- CLK_DROOP_SW, 16. -/
def CLK_DROOP_SW (i : Nat) : Nat := regKey 0x10 (0x80 + 8 * i)
/-- CLK_DROOP_OVER, 16. -/
def CLK_DROOP_OVER (i : Nat) : Nat := regKey 0x10 (0xC0 + 4 * i)
/-- CLK_DROOP_CFG, 16. -/
def CLK_DROOP_CFG : Nat := regKey 0x10 (0xE0)
/-- CLK_XLATE_CNT, 16. -/
def CLK_XLATE_CNT : Nat := regKey 0x10 (0xE4)
/-- CLK_SNP_M, 16. -/
def CLK_SNP_M : Nat := regKey 0x10 (0xF0000)
/-- CLK_SNP_STATUS, 16. -/
def CLK_SNP_STATUS : Nat := regKey 0x10 (0xF0008)
/-- PWR_ID, 16. -/
def PWR_ID : Nat := regKey 0xF (0)
/-- PWR_ERR, 16. -/
def PWR_ERR : Nat := regKey 0xF (4)
/-- PWR_CAPS, 16. -/
def PWR_CAPS : Nat := regKey 0xF (0x10)
/-- PWR_STATUS, 16. -/
def PWR_STATUS : Nat := regKey 0xF (0x14)
/-- PWR_MODE, 16. -/
def PWR_MODE : Nat := regKey 0xF (0x18)
/-- PWR_TABLE, 16. -/
def PWR_TABLE : Nat := regKey 0xF (0x1C)
/-- PWR_PKG, 16. -/
def PWR_PKG : Nat := regKey 0xF (0x20)
/-- PWR_ENERGY, 16. -/
def PWR_ENERGY : Nat := regKey 0xF (0x28)
/-- PWR_UNMETERED, 16. -/
def PWR_UNMETERED : Nat := regKey 0xF (0x30)
/-- PWR_METER, 16. -/
def PWR_METER (i : Nat) : Nat := regKey 0xF (0x40 + 8 * i)
/-- PWR_METER_CFG, 16. -/
def PWR_METER_CFG (i : Nat) : Nat := regKey 0xF (0x80 + 4 * i)
/-- PWR_THERM_CFG, 16. -/
def PWR_THERM_CFG : Nat := regKey 0xF (0xA0)
/-- PWR_THARD, 16. -/
def PWR_THARD : Nat := regKey 0xF (0xA4)
/-- PWR_TEMP, 16. -/
def PWR_TEMP (i : Nat) : Nat := regKey 0xF (0xB0 + 4 * i)
/-- PWR_RAIL, 16. -/
def PWR_RAIL (i : Nat) : Nat := regKey 0xF (0x100 + 4 * i)
/-- PWR_OVER_CNT, 16. -/
def PWR_OVER_CNT : Nat := regKey 0xF (0x140)
/-- PWR_THROT_CNT, 16. -/
def PWR_THROT_CNT : Nat := regKey 0xF (0x144)
/-- PWR_HARD_CNT, 16. -/
def PWR_HARD_CNT : Nat := regKey 0xF (0x148)
/-- PWR_EXCESS_CNT, 16. -/
def PWR_EXCESS_CNT : Nat := regKey 0xF (0x14C)
/-- PWR_DIFF_MAX, 16. -/
def PWR_DIFF_MAX : Nat := regKey 0xF (0x150)
/-- PWR_ACT_W, 16. -/
def PWR_ACT_W (i : Nat) : Nat := regKey 0xF (0x160 + 4 * i)
/-- PWR_SNP_STATUS, 16. -/
def PWR_SNP_STATUS : Nat := regKey 0xF (0xF0000)
/-- PWR_SNP_ENERGY, 16. -/
def PWR_SNP_ENERGY : Nat := regKey 0xF (0xF0008)
/-- CG_ID, 17. -/
def CG_ID : Nat := regKey 1 (0)
/-- CG_ERR, 17. -/
def CG_ERR : Nat := regKey 1 (4)
/-- CG_CAPS, 17. -/
def CG_CAPS : Nat := regKey 1 (0x10)
/-- CG_STAGE_HDR, 17. -/
def CG_STAGE_HDR : Nat := regKey 1 (0x18)
/-- CG_STAGE_T, 17. -/
def CG_STAGE_T : Nat := regKey 1 (0x20)
/-- CG_STAGE_ROLE, 17. -/
def CG_STAGE_ROLE : Nat := regKey 1 (0x28)
/-- CG_SUBMIT, 17. -/
def CG_SUBMIT : Nat := regKey 1 (0x30)
/-- CG_LAST, 17. -/
def CG_LAST : Nat := regKey 1 (0x34)
/-- CG_APPLY_CNT, 17. -/
def CG_APPLY_CNT : Nat := regKey 1 (0x38)
/-- CG_ABORT_CNT, 17. -/
def CG_ABORT_CNT : Nat := regKey 1 (0x3C)
/-- CG_STATUS, 17. -/
def CG_STATUS (i : Nat) : Nat := regKey 1 (0x100 + 0x10 * i)
/-- CG_CANCEL, 17. -/
def CG_CANCEL (i : Nat) : Nat := regKey 1 (0x108 + 0x10 * i)
/-- CG_STAGE_E, 17. -/
def CG_STAGE_E (i : Nat) (j : Nat) : Nat := regKey 1 (0x1000 + 0x20 * i + 8 * j)
/-- CG_SNP_STATUS, 17. -/
def CG_SNP_STATUS : Nat := regKey 1 (0xF0000)
/-- EVR_ID, 17. -/
def EVR_ID : Nat := regKey 0x42 (0)
/-- EVR_ERR, 17. -/
def EVR_ERR : Nat := regKey 0x42 (4)
/-- EVR_CAPS, 17. -/
def EVR_CAPS : Nat := regKey 0x42 (0x10)
/-- EVR_STATUS, 17. -/
def EVR_STATUS : Nat := regKey 0x42 (0x14)
/-- EVR_NEXT_SEQ, 17. -/
def EVR_NEXT_SEQ : Nat := regKey 0x42 (0x18)
/-- EVR_OLDEST_SEQ, 17. -/
def EVR_OLDEST_SEQ : Nat := regKey 0x42 (0x1C)
/-- EVR_OPTIME_S, 17. -/
def EVR_OPTIME_S : Nat := regKey 0x42 (0x20)
/-- EVR_OPTIME_H, 17. -/
def EVR_OPTIME_H : Nat := regKey 0x42 (0x24)
/-- EVR_PCYC, 17. -/
def EVR_PCYC : Nat := regKey 0x42 (0x28)
/-- EVR_OVW_CNT, 17. -/
def EVR_OVW_CNT : Nat := regKey 0x42 (0x2C)
/-- EVR_LOST_CNT, 17. -/
def EVR_LOST_CNT : Nat := regKey 0x42 (0x30)
/-- EVR_TORN_CNT, 17. -/
def EVR_TORN_CNT : Nat := regKey 0x42 (0x34)
/-- EVR_CUR_F, 17. -/
def EVR_CUR_F : Nat := regKey 0x42 (0x40)
/-- EVR_CUR_O, 17. -/
def EVR_CUR_O : Nat := regKey 0x42 (0x44)
/-- EVR_WIN_F, 17. -/
def EVR_WIN_F (i : Nat) : Nat := regKey 0x42 (0x100 + 8 * i)
/-- EVR_WIN_O, 17. -/
def EVR_WIN_O (i : Nat) : Nat := regKey 0x42 (0x200 + 8 * i)
/-- EVR_SNP_NEXT, 17. -/
def EVR_SNP_NEXT : Nat := regKey 0x42 (0xF0000)
/-- SNP_ID, 17. -/
def SNP_ID : Nat := regKey 0x11 (0)
/-- SNP_ERR, 17. -/
def SNP_ERR : Nat := regKey 0x11 (4)
/-- SNP_CTRL, 17. -/
def SNP_CTRL : Nat := regKey 0x11 (0x10)
/-- SNP_CMP_T, 17. -/
def SNP_CMP_T : Nat := regKey 0x11 (0x18)
/-- SNP_SEQ, 17. -/
def SNP_SEQ : Nat := regKey 0x11 (0x20)
/-- SNP_SRC, 17. -/
def SNP_SRC : Nat := regKey 0x11 (0x24)
/-- SNP_T, 17. -/
def SNP_T : Nat := regKey 0x11 (0x28)
/-- SNP_MISS_CNT, 17. -/
def SNP_MISS_CNT : Nat := regKey 0x11 (0x30)
/-- OBS_ID, 17. -/
def OBS_ID : Nat := regKey 0x12 (0)
/-- OBS_ERR, 17. -/
def OBS_ERR : Nat := regKey 0x12 (4)
/-- OBS_MODE, 17. -/
def OBS_MODE : Nat := regKey 0x12 (0x10)
/-- OBS_TRC_SRC, 17. -/
def OBS_TRC_SRC : Nat := regKey 0x12 (0x14)
/-- OBS_TRC_LEVEL, 17. -/
def OBS_TRC_LEVEL : Nat := regKey 0x12 (0x18)
/-- OBS_TRC_DROP_CNT, 17. -/
def OBS_TRC_DROP_CNT : Nat := regKey 0x12 (0x1C)
/-- OBS_TRC_POP0, 17. -/
def OBS_TRC_POP0 : Nat := regKey 0x12 (0x20)
/-- OBS_TRC_POP1, 17. -/
def OBS_TRC_POP1 : Nat := regKey 0x12 (0x28)
/-- OBS_READ_CNT, 17. -/
def OBS_READ_CNT : Nat := regKey 0x12 (0x30)
/-- MBX_ID, 17. -/
def MBX_ID : Nat := regKey 0 (0)
/-- MBX_ERR, 17. -/
def MBX_ERR : Nat := regKey 0 (4)
/-- MBX_CAPS, 17. -/
def MBX_CAPS : Nat := regKey 0 (0x10)
/-- MBX_STATE, 17. -/
def MBX_STATE : Nat := regKey 0 (0x14)
/-- MBX_DB_PEND, 17. -/
def MBX_DB_PEND : Nat := regKey 0 (0x18)
/-- MBX_DB_ACK, 17. -/
def MBX_DB_ACK : Nat := regKey 0 (0x1C)
/-- MBX_OWNER, 17. -/
def MBX_OWNER : Nat := regKey 0 (0x20)
/-- MBX_IRQ, 17. -/
def MBX_IRQ : Nat := regKey 0 (0x24)
/-- MBX_LOAD_AREA, 17. -/
def MBX_LOAD_AREA : Nat := regKey 0 (0x28)
/-- MBX_HS_CE_CNT, 17. -/
def MBX_HS_CE_CNT : Nat := regKey 0 (0x30)
/-- MBX_HS_UE_CNT, 17. -/
def MBX_HS_UE_CNT : Nat := regKey 0 (0x34)
/-- MBX_HS_UE_LOG, 17. -/
def MBX_HS_UE_LOG : Nat := regKey 0 (0x38)
/-- MBX_GS_CE_CNT, 17. -/
def MBX_GS_CE_CNT : Nat := regKey 0 (0x40)
/-- MBX_GS_UE_CNT, 17. -/
def MBX_GS_UE_CNT : Nat := regKey 0 (0x44)
/-- MBX_GS_UE_LOG, 17. -/
def MBX_GS_UE_LOG : Nat := regKey 0 (0x48)
/-- MBX_SNP_STATE, 17. -/
def MBX_SNP_STATE : Nat := regKey 0 (0xF0000)

end Sys2Proof.Machine.Reg
end

