-- ==== Sys2Proof/Syntax.lean ====
section
/-! DEFINITION. The commands the block takes: one constructor of Instr per row of the opcode table (spec/opcode_table.json),
with the operands that come with it from outside, and the data types of those operands. -/

namespace Sys2Proof

/-- The guard of a slot operation (03 R86): predicate number and NEG. -/
structure Guard where
  pred : PReg
  neg : Bool
deriving DecidableEq, Repr

/-- Who sends a fabric request (01 Table 1.7, Table 1.11): a Vat, a hub client, the migration engine, inbound
Xexisha, host DMA or the management processor. -/
inductive Initiator where
  | vat (v : VatNo)
  | harp | ingest | fusion | solver | planner
  | migration | xexisha | hostDma | mgmt
deriving DecidableEq, Repr

/-- A sync-cell operation (03 R97). -/
inductive CellOp where
  | add (v : W64)
  | set (v : W64)
deriving DecidableEq, Repr

/-- What a fabric request asks (05 R163). -/
inductive FabricOp where
  | read (len : Nat)
  | write (bytes : List Byte)
  | cell (op : CellOp)
deriving DecidableEq, Repr

/-- What befell a request on its way: nothing, a bridge flit that could not be corrected (01 R20), a word the host link of a Lake stack corrected, or one it could only
detect as bad (05 Table 5.7). -/
inductive Transit where
  | clean | flitLost | linkCorrected | linkBad
deriving DecidableEq, Repr

/-- What the Reservoir link found in the words of a page it read: some word failed, and how many it corrected (05 Table 5.9). -/
structure LinkRead where
  failed : Bool
  corrected : Nat
deriving DecidableEq, Repr

/-- What the Aquifer root port trained at: the rate, as its PCIe generation, and the lanes (05 R167). -/
structure PortLink where
  rate : Nat
  width : Nat
deriving DecidableEq, Repr

/-- A replicated core (15 Table 15.2): a Vat sequencer, a loop-engine lane, the solver control core, the planner reduction core, a Rind core. -/
inductive RepCore where
  | vat (v : VatNo)
  | lane (l : Fin 8)
  | solver
  | planner
  | rind (k : Fin 2)
deriving DecidableEq, Repr

/-- The commands of the block, one constructor per row of the opcode table, in the table's order. -/
inductive Instr where
  /-- REGISTER_WRITE (R511): A write to a register that has no row of its own is checked for width, offset, role, state and value, then stored or refused with the matching PFX_ERR bit. -/
  | registerWrite (tag : Fin 4) (addr : BitVec 48) (width : Nat) (value : BitVec 64)
  /-- COUNTER_READ_CLEAR (R9): A read of an RC counter or last-error register returns its value and then clears it. -/
  | counterReadClear (addr : BitVec 48)
  /-- LOG_READ_ADVANCE (R9): A read of an RA log register (overrun, UE, deny, fault or compare log) returns the oldest entry and pops it. -/
  | logReadAdvance (addr : BitVec 48)
  /-- FABRIC_REQUEST (R163): A request enters the fabric, is range-checked once against the partition in force and moves only in owned sub-slots. -/
  | fabricRequest (ini : Initiator) (p : Fin 16) (addr : BitVec 54) (gen : BitVec 16) (op : FabricOp) (deadline : Option (BitVec 64)) (transit : Transit)
  /-- SYNC_CELL_OPERATION (R97): A sync-cell SADD or SSET reaching a cell from any initiator applies in the fixed per-cycle order. -/
  | syncCellOperation (v : VatNo) (k : Fin 16384) (ops : List (Fin 6 × CellOp))
  /-- MAJOR_FRAME_START (R47): A major frame of the active table begins; slot 0 starts, frame count advances, and SLIP is set or cleared. -/
  | majorFrameStart
  /-- SLOT_START (R50): The distributor delivers a slot start to both slot engines and the hub-side segment control. -/
  | slotStart
  /-- LAKE_REFRESH_SUBSLOT (R142): In each refresh sub-slot every Lake controller issues its refresh commands and then scrubs two units. -/
  | lakeRefreshSubslot
  /-- FILL_ENTRY_START (R57): The fill-list entry at the cursor starts once it is ready and the time to the next cut point fits T_START plus C_DECL. -/
  | fillEntryStart (v : VatNo)
  /-- CUT_POINT (R59): At a cut point a BE kernel stops issuing, drains in-flight requests, gets PREEMPTED in its status word, and keeps its cursor. -/
  | cutPoint (v : VatNo)
  /-- LC_OVERRUN (R63): An LC kernel not complete G_CUT before its window end is cut with DEADLINE_MISS, logged and raises LC slot overrun. -/
  | lcOverrun (v : VatNo)
  /-- FRT_LOAD_CMD (R76): Writing FRT_LOAD_CMD starts a copy of the table from hub SRAM into the inactive bank, or is ignored if busy or a switch is pending. -/
  | frtLoadCmd (value : BitVec 32)
  /-- FRT_LOAD_COMPLETE (R76): The bank copy ends; the CRC is recomputed and LOADED is set or LOAD_CODE reports the failure. -/
  | frtLoadComplete
  /-- FT_SWITCH (R77): A commit group sets FRT_CTRL.SWITCH with a next-major-frame commit point, making a switch pending. -/
  | ftSwitch
  /-- FT_STOP (R79): A commit group sets FRT_CTRL.STOP so that every entry and sub-slot goes idle from the next frame boundary. -/
  | ftStop
  /-- BR (R93): Branch relative with two delay long words. -/
  | opBr (v : VatNo) (w : BitVec 56) (x : W64)
  /-- BRI (R93): Branch to the Pond offset in a scalar register with two delay long words. -/
  | opBri (v : VatNo) (w : BitVec 56) (x : W64)
  /-- CALL (R93): Push the return address and branch relative. -/
  | opCall (v : VatNo) (w : BitVec 56) (x : W64)
  /-- CALLI (R93): Push the return address and branch to a register address. -/
  | opCalli (v : VatNo) (w : BitVec 56) (x : W64)
  /-- RET (R93): Pop the return stack and branch to the popped address. -/
  | opRet (v : VatNo) (w : BitVec 56) (x : W64)
  /-- LOOP (R94): Open a loop level over the following body long words with a count. -/
  | opLoop (v : VatNo) (w : BitVec 56) (x : W64)
  /-- WAITC (R95): Delay the next long word by a count of VCLK cycles. -/
  | opWaitc (v : VatNo) (w : BitVec 56) (x : W64)
  /-- WAITC_EXPIRY (R95): The WAITC count expires and the next long word issues. -/
  | waitcExpiry (v : VatNo)
  /-- YIELD (R95): Suspend issue until the next slot that the kernel holds. -/
  | opYield (v : VatNo) (w : BitVec 56) (x : W64)
  /-- YIELD_RESUME (R95): Issue resumes after YIELD at the first VCLK cycle of the next held slot. -/
  | yieldResume (v : VatNo)
  /-- END (R96): Stop issue and wait for every write of the kernel to become visible. -/
  | opEnd (v : VatNo) (w : BitVec 56) (x : W64)
  /-- END_DONE_INCREMENT (R96): Once all kernel writes are visible, the Vat performs SADD DONE_CELL, 1. -/
  | endDoneIncrement (v : VatNo)
  /-- SADD (R97): Slot-0 add to a sync cell of the Vat, held for comparison. -/
  | opSadd (v : VatNo) (w : BitVec 56) (x : W64)
  /-- SSET (R97): Slot-0 set of a sync cell of the Vat, held for comparison. -/
  | opSset (v : VatNo) (w : BitVec 56) (x : W64)
  /-- SRD (R97): Read a sync cell into a scalar register. -/
  | opSrd (v : VatNo) (w : BitVec 56) (x : W64)
  /-- SWAIT (R98): Hold issue until a sync cell meets a condition or a timeout passes. -/
  | opSwait (v : VatNo) (w : BitVec 56) (x : W64)
  /-- SWAIT_SATISFIED (R98): The SWAIT test holds; the predicate is set and issue resumes two cycles later. -/
  | swaitSatisfied (v : VatNo)
  /-- SWAIT_TIMEOUT (R98): The SWAIT timeout passes; the predicate is cleared and issue resumes. -/
  | swaitTimeout (v : VatNo)
  /-- ADD (R88): Scalar add. -/
  | opAdd (v : VatNo) (alu : Fin 2) (w : BitVec 56) (x : W64)
  /-- SUB (R88): Scalar subtract. -/
  | opSub (v : VatNo) (alu : Fin 2) (w : BitVec 56) (x : W64)
  /-- AND (R88): Scalar bitwise and. -/
  | opAnd (v : VatNo) (alu : Fin 2) (w : BitVec 56) (x : W64)
  /-- OR (R88): Scalar bitwise or. -/
  | opOr (v : VatNo) (alu : Fin 2) (w : BitVec 56) (x : W64)
  /-- XOR (R88): Scalar bitwise exclusive or. -/
  | opXor (v : VatNo) (alu : Fin 2) (w : BitVec 56) (x : W64)
  /-- SHL (R88): Scalar shift left. -/
  | opShl (v : VatNo) (alu : Fin 2) (w : BitVec 56) (x : W64)
  /-- SHR (R88): Scalar logical shift right. -/
  | opShr (v : VatNo) (alu : Fin 2) (w : BitVec 56) (x : W64)
  /-- SAR (R88): Scalar arithmetic shift right. -/
  | opSar (v : VatNo) (alu : Fin 2) (w : BitVec 56) (x : W64)
  /-- MIN (R88): Signed minimum. -/
  | opMin (v : VatNo) (alu : Fin 2) (w : BitVec 56) (x : W64)
  /-- MAX (R88): Signed maximum. -/
  | opMax (v : VatNo) (alu : Fin 2) (w : BitVec 56) (x : W64)
  /-- MINU (R88): Unsigned minimum. -/
  | opMinu (v : VatNo) (alu : Fin 2) (w : BitVec 56) (x : W64)
  /-- MAXU (R88): Unsigned maximum. -/
  | opMaxu (v : VatNo) (alu : Fin 2) (w : BitVec 56) (x : W64)
  /-- MUL (R88): Low 64 bits of a scalar product. -/
  | opMul (v : VatNo) (alu : Fin 2) (w : BitVec 56) (x : W64)
  /-- MULHU (R88): High 64 bits of an unsigned scalar product. -/
  | opMulhu (v : VatNo) (alu : Fin 2) (w : BitVec 56) (x : W64)
  /-- CMPEQ (R88): Set a predicate on equality. -/
  | opCmpeq (v : VatNo) (alu : Fin 2) (w : BitVec 56) (x : W64)
  /-- CMPLT (R88): Set a predicate on signed less-than. -/
  | opCmplt (v : VatNo) (alu : Fin 2) (w : BitVec 56) (x : W64)
  /-- CMPLTU (R88): Set a predicate on unsigned less-than. -/
  | opCmpltu (v : VatNo) (alu : Fin 2) (w : BitVec 56) (x : W64)
  /-- PAND (R88): Predicate and. -/
  | opPand (v : VatNo) (alu : Fin 2) (w : BitVec 56) (x : W64)
  /-- POR (R88): Predicate or. -/
  | opPor (v : VatNo) (alu : Fin 2) (w : BitVec 56) (x : W64)
  /-- PXOR (R88): Predicate exclusive or. -/
  | opPxor (v : VatNo) (alu : Fin 2) (w : BitVec 56) (x : W64)
  /-- LD (R103): Load 8 bytes from the Vat's Pond into a scalar register. -/
  | opLd (v : VatNo) (alu : Fin 2) (w : BitVec 56) (x : W64)
  /-- ST (R109): Store 8 bytes to the Vat's Pond, held for comparison. -/
  | opSt (v : VatNo) (alu : Fin 2) (w : BitVec 56) (x : W64)
  /-- RDC (R88): Read the VCLK cycles since the kernel's first long word. -/
  | opRdc (v : VatNo) (alu : Fin 2) (w : BitVec 56) (x : W64)
  /-- ALD (R99): Load a 64-byte address-generator descriptor and reset its position. -/
  | opAld (v : VatNo) (ag : Fin 4) (w : BitVec 56) (x : W64)
  /-- ASET (R99): Write one descriptor field by number and reset its position. -/
  | opAset (v : VatNo) (ag : Fin 4) (w : BitVec 56) (x : W64)
  /-- ARST (R99): Reset a descriptor's iteration position. -/
  | opArst (v : VatNo) (ag : Fin 4) (w : BitVec 56) (x : W64)
  /-- VLD (R102): Load the next vector of a descriptor into a vector register. -/
  | opVld (v : VatNo) (ag : Fin 4) (w : BitVec 56) (x : W64)
  /-- VST (R121): Store a vector register to the next vector of a descriptor, with exponents. -/
  | opVst (v : VatNo) (ag : Fin 4) (w : BitVec 56) (x : W64)
  /-- ASKIP (R88): Advance a descriptor by a number of vectors. -/
  | opAskip (v : VatNo) (ag : Fin 4) (w : BitVec 56) (x : W64)
  /-- TWLD (R122): Load 128 vectors into a tile weight buffer, recording the format and computing the checksum column. -/
  | opTwld (v : VatNo) (tile : TileNo) (w : BitVec 56) (x : W64)
  /-- TMM (R89): Multiply streamed vectors by a weight buffer into accumulator rows. -/
  | opTmm (v : VatNo) (tile : TileNo) (w : BitVec 56) (x : W64)
  /-- TRD (R91): Copy four accumulator rows into a vector register and move the read pointer. -/
  | opTrd (v : VatNo) (tile : TileNo) (w : BitVec 56) (x : W64)
  /-- TCLR (R88): Clear the accumulator banks in a mask. -/
  | opTclr (v : VatNo) (tile : TileNo) (w : BitVec 56) (x : W64)
  /-- TLUT (R116): Load the tile's LN4 table from 16 elements. -/
  | opTlut (v : VatNo) (tile : TileNo) (w : BitVec 56) (x : W64)
  /-- VADD (R128): Lane-wise FP32 add. -/
  | opVadd (v : VatNo) (w : BitVec 56) (x : W64)
  /-- VSUB (R128): Lane-wise FP32 subtract. -/
  | opVsub (v : VatNo) (w : BitVec 56) (x : W64)
  /-- VMAX (R128): Lane-wise FP32 maximum. -/
  | opVmax (v : VatNo) (w : BitVec 56) (x : W64)
  /-- VMIN (R128): Lane-wise FP32 minimum. -/
  | opVmin (v : VatNo) (w : BitVec 56) (x : W64)
  /-- VMUL (R128): Lane-wise FP32 multiply. -/
  | opVmul (v : VatNo) (w : BitVec 56) (x : W64)
  /-- VFMA (R128): Lane-wise fused multiply-add with one rounding. -/
  | opVfma (v : VatNo) (w : BitVec 56) (x : W64)
  /-- VEXP2 (R129): Lane-wise 2 to the x. -/
  | opVexp2 (v : VatNo) (w : BitVec 56) (x : W64)
  /-- VLOG2 (R129): Lane-wise base-2 logarithm. -/
  | opVlog2 (v : VatNo) (w : BitVec 56) (x : W64)
  /-- VRCP (R129): Lane-wise reciprocal. -/
  | opVrcp (v : VatNo) (w : BitVec 56) (x : W64)
  /-- VRSQ (R129): Lane-wise reciprocal square root. -/
  | opVrsq (v : VatNo) (w : BitVec 56) (x : W64)
  /-- VSIG (R129): Lane-wise sigmoid. -/
  | opVsig (v : VatNo) (w : BitVec 56) (x : W64)
  /-- VTANH (R129): Lane-wise hyperbolic tangent. -/
  | opVtanh (v : VatNo) (w : BitVec 56) (x : W64)
  /-- VCVT (R131): Lane-wise format conversion selected by SUB. -/
  | opVcvt (v : VatNo) (w : BitVec 56) (x : W64)
  /-- VSCL (R132): Dequantise coded lanes with block exponents and factors. -/
  | opVscl (v : VatNo) (w : BitVec 56) (x : W64)
  /-- VQNT (R133): Quantise FP32 lanes to codes with derived block exponents. -/
  | opVqnt (v : VatNo) (w : BitVec 56) (x : W64)
  /-- VRMAX (R130): Maximum over each 128-lane group by a fixed tree, broadcast. -/
  | opVrmax (v : VatNo) (w : BitVec 56) (x : W64)
  /-- VRSUM (R130): Sum over each 128-lane group by a fixed tree, broadcast. -/
  | opVrsum (v : VatNo) (w : BitVec 56) (x : W64)
  /-- VSMX_MASK (R207): Set masked score lanes to minus infinity from key and query words. -/
  | opVsmxMask (v : VatNo) (w : BitVec 56) (x : W64)
  /-- VSMX_EXPD (R208): Per lane exp2 of a difference, or +0 for minus infinity. -/
  | opVsmxExpd (v : VatNo) (w : BitVec 56) (x : W64)
  /-- VSMX_NORM (R208): Per lane multiply by a reciprocal, or +0 for infinite reciprocal. -/
  | opVsmxNorm (v : VatNo) (w : BitVec 56) (x : W64)
  /-- VSMX_MASS (R224): Compute attention weights and add column sums into the mass array through the score unit. -/
  | opVsmxMass (v : VatNo) (w : BitVec 56) (x : W64)
  /-- VBC (R88): Broadcast a scalar into every lane. -/
  | opVbc (v : VatNo) (w : BitVec 56) (x : W64)
  /-- VEXT (R88): Extract one lane into a scalar register. -/
  | opVext (v : VatNo) (w : BitVec 56) (x : W64)
  /-- VSEL (R128): Select lanes by the bit pattern of a mask vector. -/
  | opVsel (v : VatNo) (w : BitVec 56) (x : W64)
  /-- SCN_RUN (R228): Advance a compensated state pair by one chunk, or discard the chunk if its stream is not resident. -/
  | opScnRun (v : VatNo) (w : BitVec 56) (x : W64)
  /-- SCN_RUN_COMPLETE (R232): The chunk's state becomes final, STEPS and DISP update, an anchor applies if due and the completion operation lands. -/
  | opScnRunComplete (v : VatNo)
  /-- SCN_ANCH (R236): Renormalise every element of a state pair in place. -/
  | opScnAnch (v : VatNo) (w : BitVec 56) (x : W64)
  /-- SCN_SAVE (R236): Copy a state pair to a 128 KiB save area in Pond. -/
  | opScnSave (v : VatNo) (w : BitVec 56) (x : W64)
  /-- SCN_LOAD (R236): Copy a state pair from a save area into the banks. -/
  | opScnLoad (v : VatNo) (w : BitVec 56) (x : W64)
  /-- MPUSH (R107): Queue a mover descriptor, faulting if the queue would exceed 4,096. -/
  | opMpush (v : VatNo) (m : Fin 2) (w : BitVec 56) (x : W64)
  /-- MCNT (R107): Read the number of outstanding descriptors of a mover. -/
  | opMcnt (v : VatNo) (m : Fin 2) (w : BitVec 56) (x : W64)
  /-- MSTAT (R88): Read and clear the mover's last-error register. -/
  | opMstat (v : VatNo) (m : Fin 2) (w : BitVec 56) (x : W64)
  /-- VAT_FAULT_IN_STREAM (R111): A fault found during the occupancy of a stream operation stops that operation and issue, records the fault and ends the kernel. -/
  | vatFaultInStream (v : VatNo)
  /-- MOVER_QUEUE_ENTRY (R107): A pushed descriptor enters its mover queue H plus 4 cycles after the MPUSH. -/
  | moverQueueEntry (v : VatNo) (m : Fin 2)
  /-- MOVER_DESCRIPTOR_START (R105): The descriptor at the queue head starts issuing requests, or messages for a remote destination, in owned sub-slots. -/
  | moverDescriptorStart (v : VatNo) (m : Fin 2)
  /-- MOVER_DESCRIPTOR_END (R105): A descriptor ends in queue order with DONE or a failure code and performs its completion operation. -/
  | moverDescriptorEnd (v : VatNo) (m : Fin 2)
  /-- MOVER_DEADLINE (R106): A descriptor's deadline passes; it stops issuing and its status is fixed. -/
  | moverDeadline (v : VatNo) (m : Fin 2) (sent : Bool)
  /-- HELD_OUTPUT_COMPARE (R380): A held output of a replicated core is released once the checker produces the same value and both lanes pass. -/
  | heldOutputCompare (core : RepCore) (lanes : Fin 4)
  /-- CORE_CHECKPOINT (R380): At each multiple of 4,096 core cycles the register-file signature is taken and compared. -/
  | coreCheckpoint (core : RepCore) (lanes : Fin 4)
  /-- JOURNAL_APPLY (R383): A side effect of a main-copy read is applied to the checker copy LAG cycles later. -/
  | journalApply (core : RepCore)
  /-- ARRAY_CHECKSUM (R136): The tile checksum of a TMM is checked after its last row; a mismatch is logged and counted or raises doubt. -/
  | arrayChecksum (v : VatNo) (tile : TileNo) (mismatch : Bool)
  /-- DIE_COPY_UPDATE (R147): A page-table change from the migration engine reaches a compute die's translation copy. -/
  | dieCopyUpdate (die : Fin 2)
  /-- MIG_DEMAND_MISS (R151): A miss reaches the engine, which releases it, fails it, joins a fill or starts one. -/
  | migDemandMiss
  /-- HELD_READ_RELEASE (R152): A held image read is released when its die copy shows the page resident, and translates again. -/
  | heldReadRelease
  /-- PAGE_FILL_COMPLETE (R154): A filled page whose CRC matches becomes resident and the engine sends the L update. -/
  | pageFillComplete (link : LinkRead)
  /-- AQUIFER_READ_COMPLETE (R155): An Aquifer read completes, with data or an NVMe error status that ends the fill with TIER_FAULT. -/
  | aquiferReadComplete (status : Nat) (data : List Byte)
  /-- AQUIFER_READ_TIMEOUT (R155): An Aquifer read not complete within 10 ms ends its fill as a fault. -/
  | aquiferReadTimeout
  /-- AQUIFER_LINK_DOWN (R167): The Aquifer link goes down, ending every outstanding read as a failure and posting an event. -/
  | aquiferLinkDown
  /-- EVICT_FRAME_FREE (R157): After the update and drain waits the evicted frame is freed. -/
  | evictFrameFree
  /-- SRAM_SCRUB (R162): A Pond, hub SRAM or grid-store scrubber corrects and writes back the next word in an idle port cycle. -/
  | sramScrub (m : Fin 10)
  /-- MIG_CMD_PUSH (R148): Writing MIG_CMD_PUSH queues the staged migration command, or drops it when the queue is full. -/
  | migCmdPush (value : Nat)
  /-- MIG_CPL_READ (R148): A read of MIG_CPL returns and pops the oldest migration completion. -/
  | migCplRead
  /-- MIG_MAP (R149): Map an image: fill the image table entry, create leaves and set page entries. -/
  | migMap
  /-- MIG_UNMAP (R158): Unmap an image, freeing its frames, or refuse when pages are pinned, filling, held or in use. -/
  | migUnmap
  /-- MIG_STAGE (R149): Copy pages in neither tier from Aquifer into Reservoir. -/
  | migStage
  /-- MIG_LOAD (R150): Make pages resident in a Lake pool through Reservoir, evicting as needed. -/
  | migLoad
  /-- MIG_PIN (R149): Pin pages already resident in Lake. -/
  | migPin
  /-- MIG_UNPIN (R149): Clear PIN on pages. -/
  | migUnpin
  /-- MIG_DROP_L (R149): Evict unpinned pages from Lake. -/
  | migDropL
  /-- MIG_DROP_R (R149): Free Reservoir copies of pages. -/
  | migDropR
  /-- MIG_CLEAR_FAULT (R149): Clear FAULT so the next request refetches the page. -/
  | migClearFault
  /-- HARP_ARM (R186): ARM makes an engine read and check a job descriptor and load its weights, or fail the job. -/
  | harpArm (e : Fin 4)
  /-- HARP_DISARM (R186): DISARM stops a repeating job once the frame in progress has ended. -/
  | harpDisarm (e : Fin 4)
  /-- HARP_ROW_ARRIVAL (R187): A converted input row is written into the engine's line-buffer ring. -/
  | harpRowArrival (e : Fin 4)
  /-- HARP_OUTPUT_ROW (R187): An output row starts once its last input row is complete and the output buffer has room. -/
  | harpOutputRow (e : Fin 4)
  /-- HARP_FRAME_END (R191): When the frame's last output write is visible the engine writes the status word and completion operation. -/
  | harpFrameEnd (e : Fin 4)
  /-- HARP_GOLDEN_ABANDON (R202): A golden job not ended G_CUT before the window end is abandoned with signature 0. -/
  | harpGoldenAbandon (e : Fin 4)
  /-- WALKER_DOORBELL (R215): A SADD on the walker doorbell cell announces further commands. -/
  | walkerDoorbell (v : VatNo)
  /-- WALKER_GATHER (R217): Gather cache positions into key and value tiles by pushing mover copies and writing key words and summaries. -/
  | walkerGather (v : VatNo)
  /-- WALKER_APPEND (R219): Append source rows to the lane's pages by pushing copies, or end NO_SPACE. -/
  | walkerAppend (v : VatNo)
  /-- WALKER_APPEND_COMMIT (R219): After all append copies end the walker writes FILL and NEXT_POS, or ends with the failure code. -/
  | walkerAppendCommit (v : VatNo)
  /-- WALKER_EVICT (R220): Evict the pages with the lowest attention mass and write the freed-page list. -/
  | walkerEvict (v : VatNo)
  /-- SWAP_OUT (R239): Make a resident stream OUT, clear RES_CELL and start saving its pair. -/
  | swapOut (v : VatNo) (m : Fin 64)
  /-- SWAP_IN (R240): Make a stream due for a swap-in from its save area. -/
  | swapIn (v : VatNo) (m : Fin 64)
  /-- INIT (R240): Make a stream due for a swap-in that writes zeros and sets STEPS to 0. -/
  | init (v : VatNo) (m : Fin 64)
  /-- SWAP_OUT_COMPLETE (R239): The save of a swapped-out pair is visible; the stream becomes ABSENT and the pair free. -/
  | swapOutComplete (v : VatNo)
  /-- SWAP_IN_START (R240): The swap engine starts the earliest due swap-in once idle and the pair is free. -/
  | swapInStart (v : VatNo)
  /-- SWAP_IN_COMPLETE (R240): The pair is final; the stream becomes RESIDENT and RES_CELL is set to 1, or FAILED on bad data. -/
  | swapInComplete (v : VatNo)
  /-- CSI_FRAME_START (R247): A CSI-2 frame-start short packet opens a camera sample and is stamped. -/
  | csiFrameStart (rx : Fin 8) (vc : Fin 16) (bad : Bool)
  /-- CSI_PACKET (R245): A CSI-2 long packet is matched to a context and its payload staged. -/
  | csiPacket (rx : Fin 8) (vc : Fin 16) (dt : Fin 64) (bad : Bool) (crcBad : Bool) (data : List Byte)
  /-- CSI_FRAME_END (R245): A CSI-2 frame-end packet ends a camera sample. -/
  | csiFrameEnd (rx : Fin 8) (vc : Fin 16) (bad : Bool)
  /-- ETH_RX_FRAME (R245): A received Ethernet frame is matched, stamped if first, and aggregated into a sample. -/
  | ethRxFrame (mac : Fin 4) (sfd : Int) (bad : Bool) (frame : List Byte)
  /-- SPI_TRIGGER (R247): A data-ready edge or period instant starts an SPI transfer and stamps the sample. -/
  | spiTrigger (m : Fin 4) (cs : Fin 4)
  /-- SPI_TRANSFER_END (R245): An SPI transfer ends and its bytes form one sample. -/
  | spiTransferEnd (m : Fin 4) (cs : Fin 4) (data : List Byte)
  /-- CAN_RX_FRAME (R245): A received CAN frame is matched and forms one sample. -/
  | canRxFrame (n : Fin 2) (sof : Int) (ident : BitVec 29) (format : Fin 4) (bad : Bool) (data : List Byte)
  /-- SAMPLE_END (R249): A sample is written into its ring slot in order, checked for frozen frames, and its completion operation performed. -/
  | sampleEnd (c : Fin 96)
  /-- SAMPLE_ACCEPT (R257): At ARRIVE plus 200 ns a qualifying sample enters its stream's alignment history. -/
  | sampleAccept
  /-- EGO_TICK (R254): At each 500 µs instant the ego-motion unit aligns IMU and wheel inputs and integrates the pose. -/
  | egoTick
  /-- ALIGN_EVAL (R258): At DUE a channel evaluates each entry, checks drift, and writes the aligned-set record. -/
  | alignEval (k : Fin 16)
  /-- ASSOCIATION_JOB (R269): An association channel gates and greedily assigns tracks to detections at its instant. -/
  | associationJob (a : Fin 4)
  /-- SOLVER_JOB_ARRIVE (R274): At a slot's start instant the job joins the pending set, pre-empting a lower-criticality job. -/
  | solverJobArrive (j : Fin 8)
  /-- SOLVER_JOB_START (R275): When the engine is free it starts the earliest pending job, tests READY and loads inputs. -/
  | solverJobStart
  /-- SOLVER_ITERATE_DONE (R282): An iteration completes and its residual test decides whether the job ends. -/
  | solverIterateDone
  /-- SOLVER_DEADLINE (R287): A job reaching its deadline is abandoned and outputs the passing or previous solution. -/
  | solverDeadline
  /-- SOLVER_RECORD_WRITE (R290): The solution record is written with SEQ last and the completion operation follows. -/
  | solverRecordWrite
  /-- PLAN_CYCLE_START (R306): At S_n the planner pins the published grid, checks its header and computes the stop trajectory. -/
  | planCycleStart
  /-- PLAN_PRECHECK_END (R308): The stop-trajectory check ends. -/
  | planPrecheckEnd
  /-- PLAN_PREP_END (R308): PREP ends with candidates binned, or NOT_READY. -/
  | planPrepEnd
  /-- PLAN_SWEEP_START (R308): With PRECHECK and PREP both ended the sweep starts loading layers. -/
  | planSweepStart
  /-- PLAN_SWEEP_END (R308): All binned waypoints have been tested against all layers. -/
  | planSweepEnd
  /-- PLAN_RECHECK_END (R311): The recheck ends, keeping the selection or falling back to the stop trajectory. -/
  | planRecheckEnd
  /-- PLAN_DEADLINE (R312): A cycle not at OUT by its deadline is abandoned and outputs the stop trajectory. -/
  | planDeadline
  /-- PLAN_RECORD_WRITE (R313): The result record is written, the completion operation performed and the pin released. -/
  | planRecordWrite
  /-- LOOP_RUN (R319): A write of LOOP_CTRL.RUN starts ticks, or stops them, aborting when an axis is not DISABLED. -/
  | loopRun (run : Bool)
  /-- LOOP_TICK (R316): A loop tick starts at its instant, clamped to the slew limit, and the reference segments are evaluated. -/
  | loopTick
  /-- LOOP_GROUP_START (R315): A group of a tick starts and each lane computes two axes in turn. -/
  | loopGroupStart
  /-- SERVO_COMMAND_FRAME (R328): A framer sends a port's command frame at its scheduled SOF. -/
  | servoCommandFrame (p : Fin 8)
  /-- SERVO_FEEDBACK_FRAME (R331): A feedback frame is decoded, checked and accepted or discarded and counted. -/
  | servoFeedbackFrame (p : Fin 8) (bad : Bool) (frame : List Byte)
  /-- FEEDBACK_CUTOFF (R332): At a port's cutoff the latest accepted feedback is taken, or a miss is counted and the port may become LOST. -/
  | feedbackCutoff (p : Fin 8)
  /-- SERVO_LINK_ALIGN (R327): A receiver aligns after 16 comma symbols and the port is up. -/
  | servoLinkAlign (p : Fin 8)
  /-- SERVO_LINK_DOWN (R327): A receiver without a valid symbol for 1 µs loses alignment. -/
  | servoLinkDown (p : Fin 8)
  /-- AXIS_ENABLE (R325): ENABLE an axis, taking effect with the first valid feedback. -/
  | axisEnable (a : Fin 64)
  /-- AXIS_DISABLE (R325): DISABLE an axis. -/
  | axisDisable (a : Fin 64)
  /-- AXIS_CLEAR (R325): CLEAR a held or faulted axis to DISABLED. -/
  | axisClear (a : Fin 64)
  /-- LOOP_SEG_SWAP (R320): Swap the staging and active reference banks from the next tick. -/
  | loopSegSwap (v : BitVec 32)
  /-- LOOP_TBL_DATA_WRITE (R323): Store one friction or cogging entry and advance the table address. -/
  | loopTblDataWrite (v : BitVec 32)
  /-- TB_MEAS_WRITE (R340): A measured offset is recorded, discarded as an outlier, or accepted by the servo and may change the time state. -/
  | tbMeasWrite (theta : BitVec 64)
  /-- TB_RATE_APPLY (R337): A servo rate change takes effect 8 TCLK cycles after its measurement without stepping device time. -/
  | tbRateApply
  /-- TB_RATE_WRITE (R341): A direct write of RATE applies when the servo is off and is ignored otherwise. -/
  | tbRateWrite (rate : BitVec 32)
  /-- TB_STEP (R337): Step device time by a signed amount, skipping or waiting for periodic instants. -/
  | tbStep (delta : BitVec 64)
  /-- TB_SERVO_ENABLE (R341): Setting SERVO_EN loads the integrator from RATE; clearing it sends the state to FREE. -/
  | tbServoEnable (en : Bool)
  /-- TB_MEAS_TIMEOUT (R342): No accepted measurement for MEAS_TO moves LOCKED to HOLDOVER or reloads RATE in holdover. -/
  | tbMeasTimeout
  /-- TB_HOLDOVER_EXPIRY (R343): HOLD_MAX expires in HOLDOVER; the state becomes FREE and doubt is raised. -/
  | tbHoldoverExpiry
  /-- TB_NOW_READ (R353): A read of TB_NOW latches the fraction of the same cycle into TB_NOW_FRAC. -/
  | tbNowRead
  /-- PTP_FRAME_RX (R346): A received PTP event frame is timestamped and passed to the management processor. -/
  | ptpFrameRx (mac : Fin 4) (sfd : Int) (frame : List Byte)
  /-- TSN_DOORBELL_POLL (R347): In the first client-0x9 sub-slot of a slot the MAC reads each enabled queue's doorbell. -/
  | tsnDoorbellPoll
  /-- TSN_FRAME_FETCH (R347): An announced descriptor and frame are fetched into the transmit buffer. -/
  | tsnFrameFetch (m : Fin 4) (q : Fin 8)
  /-- TSN_FRAME_TX_START (R349): The link being idle, the MAC starts the eligible head frame of the highest queue. -/
  | tsnFrameTxStart (m : Fin 4)
  /-- TSN_FRAME_LATE (R350): A head frame past LAUNCH plus LATE_TOL is dropped or sent late according to POLICY. -/
  | tsnFrameLate (m : Fin 4) (q : Fin 8)
  /-- TSN_FRAME_TX_END (R348): At the end of a frame the MAC writes status and TX_TIME and performs the completion operation. -/
  | tsnFrameTxEnd (m : Fin 4)
  /-- TSN_GCL_ENABLE (R351): A group enabling a gate list makes the MAC copy it pending the next cycle start. -/
  | tsnGclEnable (m : Fin 4) (value : BitVec 32)
  /-- TSN_GCL_TAKE_EFFECT (R351): The copied gate list takes effect at a cycle start at least 100 µs after commit and at or after BASE. -/
  | tsnGclTakeEffect (m : Fin 4)
  /-- XSL_PORT_ENABLE (R356): Setting a port's EN starts training and wire-delay measurement. -/
  | xslPortEnable (p : Fin 6) (on : Bool)
  /-- XSL_PORT_TRAINED (R356): A port finishes training with all four lanes and is UP. -/
  | xslPortTrained (p : Fin 6) (wire : Nat)
  /-- XSL_PORT_DOWN (R356): No valid slot frame for 1 µs makes a port DOWN. -/
  | xslPortDown (p : Fin 6)
  /-- XSL_SLOT_FRAME_TX (R362): In each sub-slot an UP port sends a slot frame carrying the owner's flits. -/
  | xslSlotFrameTx (p : Fin 6)
  /-- XSL_SLOT_FRAME_RX (R358): A received slot frame is checked and discarded, or its flits handled. -/
  | xslSlotFrameRx (p : Fin 6) (bad : Bool) (corrected : Nat) (frame : List Byte)
  /-- XSL_LANDING (R365): A WRITE or SYNC leaving the inbound buffer is checked for reach and generation, lands, and is acknowledged. -/
  | xslLanding (p : Fin 6)
  /-- XSL_FLIT_AGE (R367): A flit that has waited RES_MAX in one buffer is discarded. -/
  | xslFlitAge (p : Fin 6)
  /-- XSL_MESSAGE_TIMEOUT (R368): A message without ACK after 2 × L_max ends with DEADLINE_MISS. -/
  | xslMessageTimeout
  /-- XSL_TAG_RELEASE (R361): A released tag becomes eligible again after its quarantine. -/
  | xslTagRelease
  /-- XSL_PEER_TIMEOUT (R370): A member silent for PEER_TO becomes LOST and its outstanding messages end with PEER_LOST. -/
  | xslPeerTimeout (d : Fin 64)
  /-- XSL_GEN_ADVANCE (R369): A group advances a landing range's generation by one, or is refused inside quarantine. -/
  | xslGenAdvance (k : Fin 128) (value : Nat)
  /-- XSL_LOST_CLEAR (R370): A group clears a LOST bit. -/
  | xslLostClear (mask : BitVec 64)
  /-- DOUBT_CODE_SEND (R377): The aggregator sends each newly latched code to the Rind over the bridge. -/
  | doubtCodeSend
  /-- DOUBT_CODE_RECEIVE (R22): A doubt code arrives at the Rind over the bridge. -/
  | doubtCodeReceive
  /-- DOUBT_CODE_TIMEOUT (R22): No code within 2 µs of a doubt assertion records doubt line without code. -/
  | doubtCodeTimeout
  /-- DOUBT_QUALIFY (R397): The doubt line shows doubt for four consecutive RCLK cycles and doubt is qualified. -/
  | doubtQualify
  /-- DOUBT_GLITCH (R397): A doubt pulse shorter than four RCLK cycles is counted and has no other effect. -/
  | doubtGlitch
  /-- DOUBT_CLEAR (R379): A W1C write of doubt bits outside MAIN clears them; in MAIN it is ignored. -/
  | doubtClear (rind : Bool) (clear : BitVec 32)
  /-- LANE_INJECTION (R382): Every 50 ms each compare point injects a one-bit difference into one lane, which must report it. -/
  | laneInjection (core : RepCore) (checkpoint : Bool) (reported : Bool)
  /-- PAIR_COMPARE (R386): When both runs of a pair complete their RSIGs are compared. -/
  | pairCompare
  /-- SELFTEST_SLICE_START (R393): The slot engine starts the next pending slice if it fits, or defers or skips it. -/
  | selftestSliceStart (v : VatNo)
  /-- FBX_TRJ_COMMIT (R399): The Rind validates the staging bank and accepts or rejects the trajectory. -/
  | fbxTrjCommit (v : BitVec 32)
  /-- FBX_LATE (R400): No trajectory accepted for FBX_LATE_US in MAIN raises 0x94. -/
  | fbxLate
  /-- FBX_TRACKING_STEP (R401): Every 50 µs the executor samples feedback and computes a tracking command for every playing axis. -/
  | fbxTrackingStep
  /-- FBX_COMMAND_FRAME (R402): Every FB_TX_NS the executor sends a command frame on each enabled port. -/
  | fbxCommandFrame (p : Fin 8)
  /-- FBX_ETH_SEND (R402): A trajectory Ethernet entry is sent or repeated on the actuator queue. -/
  | fbxEthSend
  /-- FBX_END_ACTION (R403): After the last knot and END_HOLD_MS every port carries ESTOP frames. -/
  | fbxEndAction
  /-- FBX_HB_REQ (R404): A handback request moves FALLBACK to HANDBACK_PENDING. -/
  | fbxHbReq (v : BitVec 32)
  /-- FBX_HB_GO (R404): Firmware releases handback, which completes when its conditions hold. -/
  | fbxHbGo (v : BitVec 32)
  /-- HANDBACK_COMPLETE (R404): All handback conditions hold and the authority returns to MAIN. -/
  | handbackComplete
  /-- HANDBACK_TIMEOUT (R396): HB_TO_MS since the request returns the authority to FALLBACK and cancels the request. -/
  | handbackTimeout
  /-- HD_HEARTBEAT (R405): A heartbeat from HD reaches the Rind. -/
  | hdHeartbeat
  /-- HD_HEARTBEAT_MISS (R405): A 4 µs gap in heartbeats raises 0x92. -/
  | hdHeartbeatMiss
  /-- RIND_WDT_KICK (R405): Firmware kicks the watchdog with alternating values; a wrong value raises 0x93. -/
  | rindWdtKick (v : BitVec 32)
  /-- WATCHDOG_MISS (R405): No kick within WDT_MS raises 0x93. -/
  | watchdogMiss
  /-- SUPPLY_LIMIT (R499): A rail outside its range for 10 µs raises 0x90. -/
  | supplyLimit (rails : BitVec 16)
  /-- SAFE_FRAME (R405): In SAFE a hardwired generator sends ESTOP frames every 10 µs. -/
  | safeFrame
  /-- POWER_PERIOD (R413): At each 50 µs period end the controller reads package power, steps m_c and updates meters. -/
  | powerPeriod
  /-- MULTIPLIER_APPLY (R411): At a group boundary a Vat's multiplier moves toward its target under the slew rules. -/
  | multiplierApply (v : VatNo)
  /-- PWR_MODE_WRITE (R412): A new power mode or cap takes effect at the next period boundary. -/
  | pwrModeWrite (v : BitVec 32)
  /-- DROOP_ASSERT (R417): A droop detector asserts and the Vat swallows one of every two pulses. -/
  | droopAssert (v : VatNo)
  /-- DROOP_SWALLOW_END (R417): Swallowing ends 32 passing pulses after the detector last releases. -/
  | droopSwallowEnd (v : VatNo)
  /-- THERMAL_SAMPLE (R418): Every 10 µs region temperatures are read, adjusting ceilings and entering or leaving the hard state. -/
  | thermalSample (temps : List (BitVec 16))
  /-- REGION_DIFF_SAMPLE (R422): A pair found beyond the maximum difference makes the sagging region's Vats swallow one pulse in eight. -/
  | regionDiffSample
  /-- REGION_SWALLOW_END (R422): Every pair within release limits for 1 ms ends region swallowing. -/
  | regionSwallowEnd
  /-- ENERGY_SAMPLE (R423): Every 1 µs rail voltages and currents are sampled into PWR_ENERGY. -/
  | energySample (rails : List (BitVec 16 × BitVec 16))
  /-- PWR_METER_CFG_WRITE (R424): A meter configuration write zeroes the meter and takes effect at the next period. -/
  | pwrMeterCfgWrite (k : Fin 8) (v : BitVec 32)
  /-- HOST_DOORBELL (R430): A host doorbell gives ownership of a mailbox to firmware, or sets HOST_ERR if firmware owns it. -/
  | hostDoorbell (m : Fin 16)
  /-- COMMAND_COMPLETE (R430): An asynchronous command ends; firmware writes its final status and returns ownership. -/
  | commandComplete (m : Fin 16) (status : Nat) (data : List Byte)
  /-- IDENTIFY (R439): Return the identity record. -/
  | identify (m : Fin 16)
  /-- GET_STATE (R439): Return doubt registers and the active table identity. -/
  | getState (m : Fin 16)
  /-- SESSION_CHALLENGE (R433): Return a nonce bound to the mailbox. -/
  | sessionChallenge (m : Fin 16) (nonce : BitVec 256)
  /-- SESSION_OPEN (R433): Verify a token and certificate and open a session. -/
  | sessionOpen (m : Fin 16)
  /-- SESSION_CLOSE (R434): Close the mailbox's session. -/
  | sessionClose (m : Fin 16)
  /-- SESSION_EXPIRY (R434): A session ends at its lifetime or after 600 s idle. -/
  | sessionExpiry (m : Fin 16)
  /-- SESSION_LOCKOUT_END (R433): A mailbox locked out after failures accepts challenges again after 10 s. -/
  | sessionLockoutEnd (m : Fin 16)
  /-- REG_READ (R439): Read up to 500 registers. -/
  | regRead (m : Fin 16)
  /-- EVENT_READ (R439): Read event records through window F. -/
  | eventRead (m : Fin 16)
  /-- SNAPSHOT (R460): Pull the global snapshot trigger, by command or group action. -/
  | snapshot (m : Fin 16)
  /-- WORKLOAD_START (R443): Submit a workload's start group. -/
  | workloadStart (m : Fin 16)
  /-- WORKLOAD_STOP (R443): Submit a workload's stop group. -/
  | workloadStop (m : Fin 16)
  /-- IMAGE_LOAD (R441): Verify an image manifest and map, stage or load and pin its pages. -/
  | imageLoad (m : Fin 16)
  /-- IMAGE_UNLOAD (R439): Unmap an image slot. -/
  | imageUnload (m : Fin 16)
  /-- HOST_DMA (R439): Move data between host and device memory. -/
  | hostDma (m : Fin 16)
  /-- BATCH_SUBMIT (R442): Place sequences into bucket lists and set selectors. -/
  | batchSubmit (m : Fin 16)
  /-- HANDBACK (R439): Operator request for handback from FALLBACK. -/
  | handback (m : Fin 16)
  /-- CG_SUBMIT (R446): Check and stage a commit group in the commit-group unit. -/
  | cgSubmit (m : Fin 16)
  /-- CG_CANCEL (R449): Withdraw a pending group. -/
  | cgCancel (m : Fin 16)
  /-- FT_LOAD (R440): Copy, validate and load a frame table into the inactive bank. -/
  | ftLoad (m : Fin 16)
  /-- WORKLOAD_DEFINE (R443): Store a workload's start and stop groups. -/
  | workloadDefine (m : Fin 16)
  /-- MIG_CMD (R439): Issue a migration command on the installer's behalf. -/
  | migCmd (m : Fin 16)
  /-- STORE_WRITE (R168): Write logical blocks to Aquifer, refusing blocks of a mapped image. -/
  | storeWrite (m : Fin 16)
  /-- STORE_TRIM (R439): Trim logical blocks of Aquifer. -/
  | storeTrim (m : Fin 16)
  /-- FB_RELAY (R444): Configure the relay of fallback trajectories from hub SRAM. -/
  | fbRelay (m : Fin 16)
  /-- KEY_ADD (R432): Add a certificate to the key store. -/
  | keyAdd (m : Fin 16)
  /-- KEY_REMOVE (R432): Delete a certificate from the key store. -/
  | keyRemove (m : Fin 16)
  /-- RESET_WARM (R482): Command a warm reset. -/
  | resetWarm (m : Fin 16)
  /-- RESET_COLD (R482): Command a cold reset. -/
  | resetCold (m : Fin 16)
  /-- RESET_PARTITION (R485): Command a partition reset of a Vat or partition. -/
  | resetPartition (m : Fin 16)
  /-- RESET_BEGIN (R482): 1 ms after a warm or cold reset command the reset begins. -/
  | resetBegin
  /-- FW_STAGE (R473): Check and write a firmware image into the inactive slot. -/
  | fwStage (m : Fin 16)
  /-- FW_ACTIVATE (R472): Make the staged slot active for the next boot. -/
  | fwActivate (m : Fin 16)
  /-- FUSE_PROGRAM (R490): Program a fuse field. -/
  | fuseProgram (m : Fin 16)
  /-- LIFECYCLE_ADVANCE (R490): Advance the fused lifecycle one step. -/
  | lifecycleAdvance (m : Fin 16)
  /-- BOOT_PUSH (R474): The boot ROM copies and checks a host-supplied firmware image. -/
  | bootPush (data : List Byte)
  /-- FIRMWARE_INTERNAL_ERROR (R437): An internal firmware error halts firmware. -/
  | firmwareInternalError
  /-- CG_SUBMIT_WRITE (R451): Writing CG_SUBMIT moves the staged group to a free slot. -/
  | cgSubmitWrite (value : BitVec 32)
  /-- CG_CANCEL_WRITE (R451): Writing CG_CANCELk cancels a pending group. -/
  | cgCancelWrite (k : Fin 8) (value : BitVec 32)
  /-- COMMIT_POINT (R447): A pending group's commit point is reached and the commit lines are driven. -/
  | commitPoint (k : Fin 8)
  /-- COMMIT_EVALUATE (R448): Every block evaluates the group's entries; all apply or the group aborts. -/
  | commitEvaluate (bad : Option Nat)
  /-- RIND_GROUP_APPLY (R448): The Rind evaluates and applies a Rind group once it has fully arrived. -/
  | rindGroupApply (bad : Option Nat)
  /-- EVENT_MARK (R445): A group action posts a mark record. -/
  | eventMark (value : BitVec 64) (gtag : BitVec 32)
  /-- MBX_IRQ_WRITE (R466): Writing MBX_IRQ raises an MSI-X vector. -/
  | mbxIrqWrite (value : BitVec 32)
  /-- EVENT_RECORD_POST (R452): A record enters the Rind buffer, gets SEQ and times, and may start a flush, or is discarded when full. -/
  | eventRecordPost (kind : Fin 6) (code : BitVec 16) (role : Fin 4) (mbox : BitVec 8) (frame : BitVec 32) (stw : BitVec 32) (detail : BitVec 224)
  /-- EVR_FLUSH_WRITE (R454): The flush writes the next buffered record to its MRAM slot. -/
  | evrFlushWrite
  /-- EVR_FLUSH_TIMER (R454): 1 s after the last flush a flush starts. -/
  | evrFlushTimer
  /-- EVR_WINDOW_READ (R456): Reading word 7 of a window returns the record at the cursor and advances it. -/
  | evrWindowRead (port : Bool)
  /-- POWER_FAIL_WARNING (R458): PWR_FAIL_N low for 1 µs or VIN_R below warning starts a flush and firmware SHUTDOWN. -/
  | powerFailWarning (low : Bool)
  /-- POWER_FAIL_RECOVERY (R458): Warning clear for 10 ms before NV-inhibit returns firmware to its prior state. -/
  | powerFailRecovery
  /-- NV_INHIBIT (R459): VIN_R below the inhibit threshold stops new MRAM and Aquifer writes until cold reset. -/
  | nvInhibit
  /-- SNAPSHOT_TRIGGER (R460): The global trigger fires and, if armed, every block latches its snapshot area. -/
  | snapshotTrigger (sources : BitVec 5)
  /-- SNAP_IN_EDGE (R460): A rising edge on SNAP_IN fires the snapshot trigger. -/
  | snapInEdge
  /-- SNAPSHOT_COMPARE_INSTANT (R460): Device time reaching SNP_CMP_T with CMP_EN fires the snapshot trigger. -/
  | snapshotCompareInstant
  /-- OBS_READ (R462): An observation-port read transaction returns main-copy words. -/
  | obsRead (addr : BitVec 48) (words : Nat)
  /-- OBS_STATUS (R462): An observation-port status transaction returns one byte. -/
  | obsStatus
  /-- OBS_TRC_POP (R464): Reading OBS_TRC_POP0 pops the oldest packet and latches its second half. -/
  | obsTrcPop
  /-- RIND_POWER_ON (R468): VIN_R rising through power-on starts a Rind cold boot. -/
  | rindPowerOn (flash : List (Nat × List Byte))
  /-- RIND_BOOT_END (R468): The Rind boot ends, writing its boot record and releasing MC_RST or entering SAFE. -/
  | rindBootEnd (fail : Bool) (torn : List Nat)
  /-- MC_RESET_RELEASE (R467): The main complex leaves reset when no reset cause remains and REFCLK runs. -/
  | mcResetRelease
  /-- STARTUP_STEP_END (R470): A start-up step ends and the next begins, or start-up holds. -/
  | startupStepEnd (fault : Option Nat) (laneB : Bool)
  /-- EMPTY_TRAJECTORY_COMMIT (R480): Until relays begin firmware commits the empty trajectory at half FBX_LATE_US. -/
  | emptyTrajectoryCommit
  /-- RESET_N_ASSERT (R482): RESET_N low for 1 µs or more causes a cold reset. -/
  | resetNAssert (low : Bool)
  /-- RAIL_POWER_GOOD_LOSS (R499): A rail below power-good for 2 µs holds the main complex in reset. -/
  | railPowerGoodLoss (bad : Bool)
  /-- ROOT_PLL_LOSS (R42): Loss of root PLL lock or REFCLK stops every main-complex clock. -/
  | rootPllLoss (refclk : Bool)
  /-- RIND_SUPPLY_LOSS (R501): VIN_R below the minimum operating level stops the Rind and releases DOUBT_OUT. -/
  | rindSupplyLoss
  /-- HARP_READ_DEADLINE (R190): A Harp engine read held on a page miss passes its DEADLINE and ends its frame or its arming with TIER_LATE. -/
  | harpReadDeadline (e : Fin 4)
  /-- HOST_MAILBOX_WRITE (R429): A host write to BAR0 mailbox bytes, HOST_EVENT or HOST_ERR is stored, cleared or ignored according to HOST_OWN and the field written. -/
  | hostMailboxWrite (off : BitVec 17) (data : List Byte)
  /-- AQUIFER_NVME_READY (R477): The Aquifer root port link comes up and its NVMe controller becomes ready, so that fills from Aquifer no longer fail. -/
  | aquiferNvmeReady (port : PortLink) (ready : Bool)
  /-- DROOP_RELEASE (R417): A Vat's droop detector releases, starting the count of 32 passing pulses after which swallowing ends. -/
  | droopRelease (v : VatNo)
  /-- RIND_XTAL_STOP (R506): The RIND_XTAL crystal stops in service, RCLK stops, servo lines carry no frames and DOUBT_OUT goes high through its pull-up. -/
  | rindXtalStop
deriving DecidableEq, Repr

end Sys2Proof
end

