-- ==== Sys2Proof/Machine/State.lean ====
section
/-! DEFINITION. The state of the block, State.reset, and the reasons a command can stop. State is plain data; INVENTORY.md
lists every piece with the rule that names it. -/

namespace Sys2Proof.Machine

/-- The block stops with one of these. -/
inductive Fault where
  /-- Raised by no command of the present table: every exceptional end of the spec is an effect on State (a status code,
  a fault latch, doubt). Kept so that the type is not empty; safe, since nothing answers it. -/
  | none
deriving DecidableEq, Repr

/-- The block has no meaning for a command. -/
inductive Refusal where
  /-- The command's arm is not written yet; raised by exec's refused arms alone. Safe: no claim is made. -/
  | notModelled (mnemonic : String)
deriving DecidableEq, Repr

/-! The registers whose reset value is not 0, from the reset columns of spec 02 to 17 and PFX_ID of 01 Table 1.14, by rising key. -/

def resetRegs1 : List (Nat × Nat) := [
  (0x0, 0x20100), (0x10, 0x10100008), (0x14, 0x2101), (0x20, 0xFFFF),
  (0x100000, 0x1020100), (0x100010, 0x400008), (0x200000, 0x2020100), (0x200010, 0x28000C),
  (0x200100, 0xFFF000000000), (0x200108, 0xFFF000000000), (0x200110, 0xFFF000000000), (0x200118, 0xFFF000000000),
  (0x200120, 0xFFF000000000), (0x200128, 0xFFF000000000), (0x200130, 0xFFF000000000), (0x200138, 0xFFF000000000),
  (0x300000, 0x3020100), (0x300010, 0xC0000200), (0x400000, 0x4020100), (0x400010, 0x60080402),
  (0x500000, 0x5020100), (0x500010, 0x10400410), (0x600000, 0x6020100), (0x600010, 0x4180100),
  (0x700000, 0x7020100), (0x700010, 0x8800600), (0x800000, 0x8020100), (0x800010, 0x10004010),
  (0x900000, 0x9020100), (0x900010, 0x40080400)]

def resetRegs2 : List (Nat × Nat) := [
  (0x90001C, 0x640), (0xA00000, 0xA020100), (0xA00010, 0x808004C), (0xB00000, 0xB020100),
  (0xB00010, 0x1000FA), (0xB0006C, 0x7FFFFFFF), (0xB00070, 0x3040064), (0xB00074, 0x186A0),
  (0xB00078, 0x3E8), (0xB0007C, 0x2710), (0xC00000, 0xC020100), (0xC00010, 0x4080100),
  (0xD00000, 0xD020100), (0xD00010, 0x6040017), (0xD00030, 0x4E20), (0xD00034, 0xA),
  (0xD0003C, 0x2710), (0xD00040, 0x10000), (0xD00100, 0xFFFFFFFFFFFFFFFF), (0xD00108, 0xFFFFFFFFFFFFFFFF),
  (0xD00110, 0xFFFFFFFFFFFFFFFF), (0xD00118, 0xFFFFFFFFFFFFFFFF), (0xD00120, 0xFFFFFFFFFFFFFFFF), (0xD00128, 0xFFFFFFFFFFFFFFFF),
  (0xD00130, 0xFFFFFFFFFFFFFFFF), (0xD00138, 0xFFFFFFFFFFFFFFFF), (0xE00000, 0xE020100), (0xE00010, 0x20100100),
  (0xF00000, 0xF020100), (0xF00010, 0x1C2005A)]

def resetRegs3 : List (Nat × Nat) := [
  (0xF00014, 0x27000002), (0xF00018, 0x1C20002), (0xF000A0, 0x64), (0x1000000, 0x10020100),
  (0x1000010, 0x10340008), (0x1000040, 0x27), (0x1000044, 0x27), (0x1000048, 0x27),
  (0x100004C, 0x27), (0x1000050, 0x27), (0x1000054, 0x27), (0x1000058, 0x27),
  (0x100005C, 0x27), (0x10000E0, 0x3C), (0x1100000, 0x11020100), (0x1100010, 0x1),
  (0x1200000, 0x12020100), (0x2000000, 0x20000100), (0x2000010, 0x4201000), (0x2000020, 0x8),
  (0x2100000, 0x21100100), (0x2100010, 0x4201000), (0x2100020, 0x8), (0x2200000, 0x22200100),
  (0x2200010, 0x4201000), (0x2200020, 0x8), (0x2300000, 0x23300100), (0x2300010, 0x4201000),
  (0x2300020, 0x8), (0x2400000, 0x24410100)]

def resetRegs4 : List (Nat × Nat) := [
  (0x2400010, 0x4201000), (0x2400020, 0x8), (0x2500000, 0x25510100), (0x2500010, 0x4201000),
  (0x2500020, 0x8), (0x2600000, 0x26610100), (0x2600010, 0x4201000), (0x2600020, 0x8),
  (0x2700000, 0x27710100), (0x2700010, 0x4201000), (0x2700020, 0x8), (0x2800000, 0x28000100),
  (0x2800010, 0x2004014), (0x2800024, 0x40), (0x2900000, 0x29100100), (0x2900010, 0x2004014),
  (0x2900024, 0x40), (0x2A00000, 0x2A200100), (0x2A00010, 0x2004014), (0x2A00024, 0x40),
  (0x2B00000, 0x2B300100), (0x2B00010, 0x2004014), (0x2B00024, 0x40), (0x2C00000, 0x2C410100),
  (0x2C00010, 0x2004014), (0x2C00024, 0x40), (0x2D00000, 0x2D510100), (0x2D00010, 0x2004014),
  (0x2D00024, 0x40), (0x2E00000, 0x2E610100)]

def resetRegs5 : List (Nat × Nat) := [
  (0x2E00010, 0x2004014), (0x2E00024, 0x40), (0x2F00000, 0x2F710100), (0x2F00010, 0x2004014),
  (0x2F00024, 0x40), (0x3000000, 0x30000100), (0x3000010, 0x400100), (0x3100000, 0x31100100),
  (0x3100010, 0x400100), (0x3200000, 0x32200100), (0x3200010, 0x400100), (0x3300000, 0x33300100),
  (0x3300010, 0x400100), (0x3400000, 0x34410100), (0x3400010, 0x400100), (0x3500000, 0x35510100),
  (0x3500010, 0x400100), (0x3600000, 0x36610100), (0x3600010, 0x400100), (0x3700000, 0x37710100),
  (0x3700010, 0x400100), (0x3800000, 0x38000100), (0x3900000, 0x39100100), (0x3A00000, 0x3A210100),
  (0x3B00000, 0x3B310100), (0x4000000, 0x40030100), (0x4000010, 0x1), (0x40000C8, 0x64),
  (0x4100000, 0x41030100), (0x4100028, 0x1388)]

def resetRegs6 : List (Nat × Nat) := [
  (0x4101010, 0x80000000), (0x4101014, 0x7FFFFFFF), (0x4101030, 0x80000000), (0x4101034, 0x7FFFFFFF),
  (0x4101050, 0x80000000), (0x4101054, 0x7FFFFFFF), (0x4101070, 0x80000000), (0x4101074, 0x7FFFFFFF),
  (0x4101090, 0x80000000), (0x4101094, 0x7FFFFFFF), (0x41010B0, 0x80000000), (0x41010B4, 0x7FFFFFFF),
  (0x41010D0, 0x80000000), (0x41010D4, 0x7FFFFFFF), (0x41010F0, 0x80000000), (0x41010F4, 0x7FFFFFFF),
  (0x4101110, 0x80000000), (0x4101114, 0x7FFFFFFF), (0x4101130, 0x80000000), (0x4101134, 0x7FFFFFFF),
  (0x4101150, 0x80000000), (0x4101154, 0x7FFFFFFF), (0x4101170, 0x80000000), (0x4101174, 0x7FFFFFFF),
  (0x4101190, 0x80000000), (0x4101194, 0x7FFFFFFF), (0x41011B0, 0x80000000), (0x41011B4, 0x7FFFFFFF),
  (0x41011D0, 0x80000000), (0x41011D4, 0x7FFFFFFF)]

def resetRegs7 : List (Nat × Nat) := [
  (0x41011F0, 0x80000000), (0x41011F4, 0x7FFFFFFF), (0x4101210, 0x80000000), (0x4101214, 0x7FFFFFFF),
  (0x4101230, 0x80000000), (0x4101234, 0x7FFFFFFF), (0x4101250, 0x80000000), (0x4101254, 0x7FFFFFFF),
  (0x4101270, 0x80000000), (0x4101274, 0x7FFFFFFF), (0x4101290, 0x80000000), (0x4101294, 0x7FFFFFFF),
  (0x41012B0, 0x80000000), (0x41012B4, 0x7FFFFFFF), (0x41012D0, 0x80000000), (0x41012D4, 0x7FFFFFFF),
  (0x41012F0, 0x80000000), (0x41012F4, 0x7FFFFFFF), (0x4101310, 0x80000000), (0x4101314, 0x7FFFFFFF),
  (0x4101330, 0x80000000), (0x4101334, 0x7FFFFFFF), (0x4101350, 0x80000000), (0x4101354, 0x7FFFFFFF),
  (0x4101370, 0x80000000), (0x4101374, 0x7FFFFFFF), (0x4101390, 0x80000000), (0x4101394, 0x7FFFFFFF),
  (0x41013B0, 0x80000000), (0x41013B4, 0x7FFFFFFF)]

def resetRegs8 : List (Nat × Nat) := [
  (0x41013D0, 0x80000000), (0x41013D4, 0x7FFFFFFF), (0x41013F0, 0x80000000), (0x41013F4, 0x7FFFFFFF),
  (0x4101410, 0x80000000), (0x4101414, 0x7FFFFFFF), (0x4101430, 0x80000000), (0x4101434, 0x7FFFFFFF),
  (0x4101450, 0x80000000), (0x4101454, 0x7FFFFFFF), (0x4101470, 0x80000000), (0x4101474, 0x7FFFFFFF),
  (0x4101490, 0x80000000), (0x4101494, 0x7FFFFFFF), (0x41014B0, 0x80000000), (0x41014B4, 0x7FFFFFFF),
  (0x41014D0, 0x80000000), (0x41014D4, 0x7FFFFFFF), (0x41014F0, 0x80000000), (0x41014F4, 0x7FFFFFFF),
  (0x4101510, 0x80000000), (0x4101514, 0x7FFFFFFF), (0x4101530, 0x80000000), (0x4101534, 0x7FFFFFFF),
  (0x4101550, 0x80000000), (0x4101554, 0x7FFFFFFF), (0x4101570, 0x80000000), (0x4101574, 0x7FFFFFFF),
  (0x4101590, 0x80000000), (0x4101594, 0x7FFFFFFF)]

def resetRegs9 : List (Nat × Nat) := [
  (0x41015B0, 0x80000000), (0x41015B4, 0x7FFFFFFF), (0x41015D0, 0x80000000), (0x41015D4, 0x7FFFFFFF),
  (0x41015F0, 0x80000000), (0x41015F4, 0x7FFFFFFF), (0x4101610, 0x80000000), (0x4101614, 0x7FFFFFFF),
  (0x4101630, 0x80000000), (0x4101634, 0x7FFFFFFF), (0x4101650, 0x80000000), (0x4101654, 0x7FFFFFFF),
  (0x4101670, 0x80000000), (0x4101674, 0x7FFFFFFF), (0x4101690, 0x80000000), (0x4101694, 0x7FFFFFFF),
  (0x41016B0, 0x80000000), (0x41016B4, 0x7FFFFFFF), (0x41016D0, 0x80000000), (0x41016D4, 0x7FFFFFFF),
  (0x41016F0, 0x80000000), (0x41016F4, 0x7FFFFFFF), (0x4101710, 0x80000000), (0x4101714, 0x7FFFFFFF),
  (0x4101730, 0x80000000), (0x4101734, 0x7FFFFFFF), (0x4101750, 0x80000000), (0x4101754, 0x7FFFFFFF),
  (0x4101770, 0x80000000), (0x4101774, 0x7FFFFFFF)]

def resetRegs10 : List (Nat × Nat) := [
  (0x4101790, 0x80000000), (0x4101794, 0x7FFFFFFF), (0x41017B0, 0x80000000), (0x41017B4, 0x7FFFFFFF),
  (0x41017D0, 0x80000000), (0x41017D4, 0x7FFFFFFF), (0x41017F0, 0x80000000), (0x41017F4, 0x7FFFFFFF),
  (0x4200000, 0x42030100), (0x4200010, 0x20001000)]

/-- Every register with a reset value other than 0, in key order (unlisted registers read 0). -/
def resetRegs : List (Nat × Nat) :=
  resetRegs1 ++ resetRegs2 ++ resetRegs3 ++ resetRegs4 ++ resetRegs5 ++ resetRegs6 ++ resetRegs7 ++ resetRegs8 ++ resetRegs9 ++ resetRegs10


/-- The authority, the values of the authority axis (15 Table 15.5). -/
inductive Auth where
  | main | fallback | handbackPending
deriving DecidableEq, Repr

/-- One event record as the Rind holds it (17 Table 17.13); CRC is computed when the record is read. -/
structure EvRecord where
  seq : Nat
  optime : Nat
  pcyc : Nat
  kind : Nat
  code : Nat
  role : Nat
  mbox : Nat
  rclk : Nat
  frame : Nat
  state : Nat
  detail : Nat
deriving DecidableEq, Repr

/-- The event recorder (17 R452 to R457): buffer of unflushed records oldest first, MRAM slots (slot, record), counters. -/
structure Recorder where
  buffer : List EvRecord
  mram : List (Nat × EvRecord)
  torn : List Nat
  nextSeq : Nat
  oldestSeq : Nat
  optime : Nat
  optimeRclk : Nat
  pcyc : Nat
  flushing : Bool
  lastFlush : Nat
  curF : Nat
  curO : Nat
  /-- DETAIL of the power-fail record that follows the present flush -/
  pfRecord : Option Nat
deriving DecidableEq, Repr

/-- The timebase (13 R336 to R343). OFS in 2^-16 ns, RATE in 2^-40; count values are TCLK cycles. -/
structure Timebase where
  count : Nat
  ofs : Int
  rate : Int
  integ : Int
  fracLatch : Nat
  /-- rates of the servo that take effect in a TCLK cycle to come (R341) -/
  pendRate : List (Nat × Int)
  /-- firmware's rate and steps (ns) that take effect with the next TCLK cycle (R337) -/
  fwRate : Option Int
  fwSteps : List Int
  stepAt : Option Nat
  st : Nat
  lockRun : Nat
  outRun : Nat
  inRange : Bool
  lastAcc : Nat
  accInHold : Bool
  holdEntry : Nat
deriving DecidableEq, Repr

/-- The doubt line and the code path to the Rind (01 R22, 15 R376, R377, R397). -/
structure DoubtLine where
  dlP : Bool
  dlN : Bool
  /-- consecutive RCLK cycles in which the pair shows doubt -/
  run : Nat
  /-- codes latched on HD and not yet sent, in the order they are sent -/
  toSend : List Nat
  /-- RCLK count at which the Rind saw the pair assert, until a code arrives -/
  assertT : Option Nat
  qualified : Bool
  /-- codes sent and not yet arrived at the Rind -/
  bridge : List Nat
  /-- pulses of the pair shorter than four RCLK cycles, not yet counted -/
  glitches : Nat
  /-- no code has been seen by the Rind since both doubt registers were last all clear -/
  fresh : Bool
deriving DecidableEq, Repr


/-- 13 R336: OFS, RATE and the counter are 0 at cold reset. -/
def Timebase.reset : Timebase :=
  { count := 0, ofs := 0, rate := 0, integ := 0, fracLatch := 0, pendRate := [], fwRate := none, fwSteps := [], stepAt := none, st := 0, lockRun := 0,
    outRun := 0, inRange := false, lastAcc := 0, accInHold := false, holdEntry := 0 }

/-- 17 R453 with no valid record in MRAM: SEQ 0, OPTIME 0, PCYC 1. -/
def Recorder.reset : Recorder :=
  { buffer := [], mram := [], torn := [], nextSeq := 0, oldestSeq := 0, optime := 0, optimeRclk := 0, pcyc := 1, flushing := false,
    lastFlush := 0, curF := 0, curO := 0, pfRecord := none }

/-- Until step 2 of start-up ends the pair shows doubt: DL_P = DL_N = 0 (18 R483; 01 R22). -/
def DoubtLine.reset : DoubtLine :=
  { dlP := false, dlN := false, run := 0, toSend := [], assertT := none, qualified := false, bridge := [],
    glitches := 0, fresh := true }

/-- What the slot engine knows of one Vat's run beside FRT_VAT_STATEv (02 R51, R54 to R59). -/
structure SlotRun where
  /-- slot in which the present window began -/
  winSlot : Nat
  /-- ARG of the present slot entry -/
  arg : Nat
  /-- the present window runs nothing more of its own: its LC kernel has completed or was cut, or a slice was deferred -/
  lcDone : Bool
  /-- the fill list that holds the Vat, in a fill slot or as heir -/
  list : Option Nat
  /-- a golden run of the present window has produced its outcome (15 R391) -/
  goldDone : Bool
  /-- FRT_FRAME_CNT at the last kernel start -/
  startFrame : Nat
  /-- the Vat joins at the first window start after its reset (R64) -/
  waitWindow : Bool
deriving DecidableEq, Repr

/-- A partition reset accepted but not ended (17, 18 R485): Vats, whether it has begun, and the FCLK cycle it began in. -/
structure PartReset where
  form : Nat
  target : Nat
  vats : List Nat
  begun : Option Nat
  /-- the mailbox whose RESET command ends with it -/
  mbox : Option Nat
deriving DecidableEq, Repr

/-- The frame-table distributor and the slot engines (02). Times are FCLK cycles. -/
structure FrameTab where
  bankA : List Byte
  bankB : List Byte
  /-- index k of the frame instant the current frame belongs to (R47) -/
  instant : Int
  frameStart : Nat
  slotStart : Nat
  /-- actual length of the trim slot once it has begun -/
  trimLen : Option Nat
  /-- completion cycle of the group that set SWITCH -/
  switchAt : Option Nat
  /-- device time in ns from which a switch with no active table may take an instant (R77) -/
  switchNs : Int
  /-- the stop takes effect at the next boundary (R79) -/
  stopAt : Bool
  load : Option (Nat × Nat)
  runs : List SlotRun
  resets : List PartReset
deriving DecidableEq, Repr

def SlotRun.reset : SlotRun :=
  { winSlot := 0, arg := 0, lcDone := false, list := none, goldDone := false, startFrame := 0, waitWindow := false }

def FrameTab.reset : FrameTab :=
  { bankA := [], bankB := [], instant := 0, frameStart := 0, slotStart := 0, trimLen := none, switchAt := none, switchNs := 0, stopAt := false,
    load := none, runs := List.replicate 8 SlotRun.reset, resets := [] }


/-- A tile weight buffer (03 R83, 04 R122, R136): recorded FMT, whether loaded with exponents, 128 rows of codes and of exponents, and
the checksum column. -/
structure WBuf where
  fmt : Option Nat
  exps : Bool
  codes : List (List Nat)
  exp : List (List Int)
  chk : List Int
deriving DecidableEq, Repr

/-- An active loop level (03 R94): first and last long word of the body (Pond offsets), passes left. -/
structure LoopLevel where
  first : Nat
  last : Nat
  left : Nat
deriving DecidableEq, Repr

/-- An executed SCN.RUN (08 R228, R232): issue cycle, program counter, kernel partition, chunk length, NSTEP, STREAM, TILE, ACC, DMODE, the plane offsets and the
completion operation. -/
structure ScanOp where
  issued : Nat
  pc : Nat
  part : Nat
  lc : Nat
  n : Nat
  stream : Nat
  tile : Nat
  acc : Nat
  dmode : Nat
  g : Nat
  x : Nat
  b : Nat
  q : Nat
  gd : Nat
  yd : Nat
  cell : Nat
  comp : Bool
deriving DecidableEq, Repr

/-- Where a result in flight goes (03 R81, R88): a register of the Vat, an accumulator row, the Pond, a cell, a mover queue, the mass
array (07 R224), the scan unit's counts (08 R232, R238). -/
inductive Dest where
  | sreg (n : Nat) (v : W64)
  | pred (n : Nat) (b : Bool)
  | vreg (n : Nat) (l : List W32)
  | desc (n : Nat) (b : List Byte)
  | descField (n f v : Nat)
  | accSet (key : Nat) (l : List W32)
  | accInt (key : Nat) (l : List Int)
  | accFp (key : Nat) (l : List W32)
  | accClear (tile mask : Nat)
  | wbuf (k : Nat) (b : WBuf)
  | lut (t : Nat) (l : List Int)
  | pond (off : Nat) (l : List Byte)
  | nib (off v : Nat)
  | cell (k : Nat) (op : CellOp)
  | mpush (m : Nat) (b : List Byte)
  | mstat (m : Nat)
  | mass (l : List (Nat × W32))
  | scnStart (op : ScanOp)
  | scnDiscard (stream : Nat)
  | scnAnch
  | scnDone (stream cell : Nat) (comp : Bool) (v : W64)
  /-- the check of cycle t + 6 of an SCN operation: kind (0 RUN, 1 ANCH, 2 SAVE, 3 LOAD), ACC and chunk length, program counter and partition of the kernel, whether
  a RUN is discarded, its descriptor (08 R229) -/
  | scnCheck (kind acc lc pc part : Nat) (discard : Bool) (d : List Byte)
  /-- END's increment of DONE_CELL (03 R96) -/
  | done
deriving DecidableEq, Repr

/-- One result in flight: due cycle, issue cycle, slot, and whether the checker has still to pass it (03 R109). -/
structure Flight where
  due : Nat
  issued : Nat
  slot : Nat
  held : Bool
  dest : Dest
deriving DecidableEq, Repr

/-- A Pond access on its way to its bank (03 R104): the cycle in which it reaches the bank, the issue cycle and slot of its operation (16 the walker, 17 the swap
engine), its place in the order of R104, its 256-byte line, whether it writes, and whether it has been delayed. -/
structure BankAccess where
  due : Nat
  issued : Nat
  slot : Nat
  place : Nat
  line : Nat
  write : Bool
  waited : Bool
deriving DecidableEq, Repr

/-- A taken branch (03 R93): delay long words still to issue, the target, and whether loop levels are closed by it (R94: not by the
skip of a LOOP with count 0). -/
structure Branch where
  delay : Nat
  target : Nat
  closes : Bool
deriving DecidableEq, Repr

/-- Why the next long word does not issue (03 R95, R96, R98). -/
inductive Hold where
  | none
  | waitc (next : Nat)
  /-- the FCLK cycle in which the slot of the YIELD began -/
  | yield (slotStart : Nat)
  /-- cell, condition, threshold, predicate, issue cycle, timeout, and the first cycle in which the test held -/
  | swait (cell cond : Nat) (thr : W64) (pd issued timeout : Nat) (held : Option Nat)
  /-- since which VCLK cycle every write of the kernel is visible -/
  | ended (since : Option Nat)
deriving DecidableEq, Repr

/-- The chunk of an executed SCN.RUN once its pair is read (08 R230, R232): the operation, the VCLK cycles by which bank conflicts have delayed it, the pair (as read; after
the last step as the chunk leaves it), the rows of its planes read so far, and once all are read whether NaN came up and the clamped decays. -/
structure Chunk where
  op : ScanOp
  late : Nat
  main : List (List W32)
  err : List (List W32)
  g : List (List Nat)
  x : List (List W32)
  b : List (List W32)
  q : List (List W32)
  ends : Option (Bool × Nat)
deriving DecidableEq, Repr

/-- A descriptor of a mover queue (03 Table 3.13, R105, R106; 05 R153; 14 R368). -/
structure MvEntry where
  seq : Nat
  bytes : List Byte
  /-- FCLK cycle of the first request, and the partition it acted for -/
  started : Option (Nat × Nat)
  /-- status fixed before the end -/
  fixed : Option Nat
  /-- requests still to go: destination (of a decode the unit), source and length, 0 for a sync-cell operation -/
  todo : List (Nat × Nat × Nat)
  /-- data that has been read and not yet written: address, bytes, error marks -/
  got : List (Nat × List Byte × List Bool)
  /-- failure codes of parts and messages that have ended -/
  fails : List Nat
deriving DecidableEq, Repr

/-- One mover of a Vat (03 R105, R107). -/
structure Mover where
  queue : List MvEntry
  seq : Nat
deriving DecidableEq, Repr

/-- The part of a Vat that a long word withheld by a fault leaves as it was (03 R111). -/
structure VatCore where
  sregs : List (Nat × W64)
  preds : Nat
  vregs : List (Nat × List W32)
  descs : List (Nat × List Byte)
  poss : List (Nat × Nat)
  acc : List (Nat × List W32)
  wbufs : List (Nat × WBuf)
  luts : List (Nat × List Int)
  rptr : List (Nat × Nat)
  loops : List LoopLevel
  rets : List Nat
  pc : Nat
  branch : Option Branch
  hold : Hold
  /-- first cycle in which the next long word may issue -/
  nextIssue : Nat
  /-- Pond accesses to come -/
  access : List BankAccess
  flights : List Flight
  agUntil : List Nat
  /-- issue cycle of the operation that last took each generator, and the scan unit -/
  agFrom : List Nat
  scnFrom : Nat
  tileUntil : List Nat
  twUntil : List Nat
  wbUntil : List Nat
  scnUntil : Nat
  /-- tile of the SCN.RUN occupying the scan unit, 4 for none (08 R229) -/
  scnTile : Nat
  /-- descriptors named by the long word issuing (03 R99) -/
  named : List Nat
  massUntil : Nat
  chunk : List Chunk
  /-- faults found in streams: cycle, slot, code, program counter of the long word -/
  stream : List (Nat × Nat × Nat × Nat)
  movers : List Mover
  /-- TMMs whose checksum is still to be reported (04 R136): tile, cycle in which the last row is final, kernel, and whether its class is LC -/
  tmms : List (Nat × Nat × Nat × Bool)
deriving DecidableEq, Repr

/-- One Vat (03 Table 3.1, R83, R95, R109 to R111). -/
structure Vat where
  core : VatCore
  running : Bool
  faulted : Bool
  issuing : Bool
  /-- VCLK cycles of this Vat since reset, and the cycle of the running kernel's first long word -/
  cyc : Nat
  cyc0 : Option Nat
  lag : Nat
  lock : List Nat
  /-- the long word issuing in the present cycle: its slots so far and the core before it -/
  lw : Option (List Nat)
  saved : Option VatCore
  /-- VCLK candidate pulses counted (01 R41, 16 R410) -/
  pulse : Nat
  /-- results that have landed in the present cycle -/
  landed : List Flight
deriving DecidableEq, Repr

def Mover.reset : Mover := { queue := [], seq := 0 }

/-- 03 R83: the state a kernel start leaves; DESIGN CHOICE at reset (log entry 1). -/
def VatCore.reset : VatCore :=
  { sregs := [], preds := 1, vregs := [], descs := [], poss := [], acc := [], wbufs := [], luts := [], rptr := [], loops := [], rets := [],
    pc := 0, branch := none, hold := .none, nextIssue := 0, access := [], flights := [], agUntil := [0, 0, 0, 0], agFrom := [0, 0, 0, 0], scnFrom := 0, tileUntil := [0, 0, 0, 0], twUntil := [0, 0, 0, 0],
    wbUntil := [0, 0, 0, 0, 0, 0, 0, 0], scnUntil := 0, scnTile := 4, named := [], massUntil := 0, chunk := [], stream := [], movers := [Mover.reset, Mover.reset], tmms := [] }

/-- 03 R110, Table 3.15: LAG 8 at reset. -/
def Vat.reset : Vat :=
  { core := VatCore.reset, running := false, faulted := false, issuing := false, cyc := 0, cyc0 := none, lag := 8,
    lock := [0, 0, 0, 0], lw := none, saved := none, pulse := 0, landed := [] }


/-- Who waits for a fabric read or a remote message: descriptor seq of mover m of Vat v, Harp engine e, or another client (its number). -/
inductive Waiter where
  | mover (v m seq : Nat)
  | harp (e : Nat)
  | client (c : Nat)
deriving DecidableEq, Repr

/-- A read of the image range held at its die (05 R152): the part of one page it asks for, its die, its deadline (FCLK cycle), and whether
the engine has seen the miss. -/
structure HeldRead where
  who : Waiter
  addr : Nat
  len : Nat
  die : Nat
  part : Nat
  deadline : Option Nat
  seen : Bool
deriving DecidableEq, Repr

/-- A write or a sync-cell operation of a hub client that waits for its path (02 R53): initiator, partition, address, the bytes of a write, the operation. -/
structure Post where
  init : Initiator
  part : Nat
  addr : Nat
  data : List Byte
  op : Option CellOp
deriving DecidableEq, Repr

/-- A read of a hub client's job that has ended (02 R53): client, job within it, address, length, status, bytes; kept until the job ends. -/
structure Fetched where
  client : Nat
  job : Nat
  addr : Nat
  len : Nat
  status : Nat
  data : List Byte
deriving DecidableEq, Repr

/-- A fill (05 R150 to R155): the page of the window, its target stack, its Lake frame once it has one, whether a miss wants it, whether the
Lake is its target (STAGE: no), the FCLK cycle of the outstanding Aquifer read, whether it has refetched already, and whether the engine has owned the row of its source, 28 or 29, since
it reads from it (R166). -/
structure Fill where
  page : Nat
  stack : Nat
  frame : Option Nat
  demand : Bool
  toLake : Bool
  reading : Option Nat
  retried : Bool
  moved : Bool
deriving DecidableEq, Repr

/-- A frame on its way out (05 R157): frame, FCLK cycle in which L was cleared, and whether it is withdrawn (R161). -/
structure Evict where
  frame : Nat
  since : Nat
  bad : Bool
deriving DecidableEq, Repr

/-- A migration command in progress (05 R149): its bytes, the next page of it, the pages completed, and the Lake frames whose eviction it waits
for (R157). -/
structure MigJob where
  bytes : List Byte
  next : Nat
  done : Nat
  frames : List Nat
deriving DecidableEq, Repr

/-- The migration engine, the die copies of the page table, and Reservoir (05 R144 to R158). -/
structure Migration where
  queue : List (List Byte)
  job : Option MigJob
  fills : List Fill
  evicts : List Evict
  held : List HeldRead
  /-- resident Lake frames (frame, page), in the order they were filled -/
  lake : List (Nat × Nat)
  /-- Reservoir frames in use (frame, page), in the order they were filled -/
  resv : List (Nat × Nat)
  /-- Lake frames withdrawn until the next cold reset -/
  bad : List Nat
  /-- die copies: key 2^23 * die + entry; entry = page of L and LFRAME with value 1 + frame, unlisted 0 not resident; entry = 2^24 + index of the
  directory with its word, unlisted 0 no leaf (R147) -/
  dies : List (Nat × Nat)
  /-- updates on their way to a die: die, entry as in `dies`, value, FCLK cycle of the change -/
  updates : List (Nat × Nat × Nat × Nat)
  /-- contents of Reservoir by frame * 2 MiB + offset -/
  rmem : List Host.Cell
  /-- NVMe commands sent to Aquifer: namespace, first logical block, count of blocks and the data of a write; none for a trim; a Flush is namespace
  0xFFFFFFFF with no blocks -/
  aqSent : List (Nat × Nat × Nat × Option (List Byte))
  /-- ended reads of Harp engines and hub clients: engine, or 100 + client, address, status, bytes -/
  arrived : List (Nat × Nat × Nat × List Byte)
  /-- scrub offsets: Ponds 0 to 7, hub SRAM 8, grid store 9 (R162); unlisted 0 -/
  scrub : List (Nat × Nat)
  /-- 1 + the number of the last refresh sub-slot done -/
  refreshed : Nat
  /-- reads of jobs of the hub clients that have ended, until their jobs do -/
  inbox : List Fetched
  /-- a read of a job found its path or its page not ready -/
  waits : Bool
  /-- the reads of a group that a table switch carries do not wait for their paths -/
  urgent : Bool
  /-- small writes and completion operations that wait for their paths, oldest first -/
  posts : List Post
deriving DecidableEq, Repr

def Migration.reset : Migration :=
  { queue := [], job := none, fills := [], evicts := [], held := [], lake := [], resv := [], bad := [], dies := [], updates := [],
    rmem := [], aqSent := [], arrived := [], scrub := [], refreshed := 0, inbox := [], waits := false, urgent := false, posts := [] }


/-- A row in a Harp line buffer (06 R187): its number in arrival order, frame, input row, codes as bytes, exponent bytes per 32 codes (none
in MODE 0), whether a word of it is uncorrectable, and how many of its words hold an error the line buffer's SECDED corrects (05 R159). -/
structure HarpRow where
  idx : Nat
  frame : Nat
  row : Nat
  codes : List Nat
  exps : List Nat
  bad : Bool
  upset : Nat
deriving DecidableEq, Repr

/-- A frame in progress (06 R186 to R191): its sequence number, input rows seen, output rows computed, output rows written, the status that
ended it early, whether a poisoned row went into it, rows the encoder holds for their unit row, and the FCLK cycle in which its last
write is visible. -/
structure HarpFrame where
  seq : Nat
  rowsIn : Nat
  rowsOut : Nat
  written : Nat
  fixed : Option Nat
  bad : Bool
  units : List (List Nat × List Nat × Bool)
  visible : Nat
deriving DecidableEq, Repr

/-- A write in the output buffer of an engine (06 R187): the frame it belongs to, the address and bytes still to go, whether they are poisoned,
and how many output rows are written with its last byte. -/
structure HarpWrite where
  seq : Nat
  addr : Nat
  data : List Byte
  bad : Bool
  rows : Nat
deriving DecidableEq, Repr

/-- A read of an engine (06 R190): its bytes, the FCLK cycle of its deadline, and whether it has left the engine. -/
structure HarpRead where
  addr : Nat
  len : Nat
  deadline : Option Nat
  sent : Bool
deriving DecidableEq, Repr

/-- A golden job in progress (06 R202): the sensor lines read so far, whether a word of them is uncorrectable, output rows started, the FCLK cycle
from which the array is free, and the cycle in which the last pixel started leaves the epilogue. -/
structure HarpGold where
  data : List Byte
  bad : Bool
  rows : Nat
  free : Nat
  ends : Nat
deriving DecidableEq, Repr

/-- A Harp engine (06 R180 to R203): the descriptor of its job; whether armed, loaded, stopping, and running a golden job, with what it has read;
the frame counter; frames in progress, oldest first; whether the stream's present frame has all its rows and is over; the ring; sensor
lines not yet converted; the reads under way and what they have brought (address, bytes, uncorrectable); weight memory by address, with the mark of
an uncorrectable word and the number of correctable ones; the output buffer, oldest write first; status words with their completions
(descriptor, word, code) that wait for their path; the last status. -/
structure HarpEngine where
  desc : List Byte
  armed : Bool
  loaded : Bool
  stopping : Bool
  golden : Bool
  gold : Option HarpGold
  seq : Nat
  frames : List HarpFrame
  closed : Bool
  ring : List HarpRow
  arrivals : Nat
  lines : List (List Byte)
  want : List HarpRead
  got : List (Nat × List Byte × Bool)
  weights : List (Nat × List Byte × Bool × Nat)
  out : List HarpWrite
  owed : List (List Byte × Nat × Nat)
  last : Nat
deriving DecidableEq, Repr

def HarpEngine.reset : HarpEngine :=
  { desc := [], armed := false, loaded := false, stopping := false, golden := false, gold := none, seq := 0, frames := [], closed := false, ring := [],
    arrivals := 0, lines := [], want := [], got := [], weights := [], out := [], owed := [], last := 0 }


/-- A walker command in progress (07 R215 to R222): its number, its 64 bytes, the VCLK cycle at which its present step is done, and for an
APPEND the copies pushed (mover, sequence number), the entries to write when they have ended (Pond offset of the page entry, FILL), the
rows and the new NEXT_POS; for an EVICT the mass sums of its candidate pages as the command started (page list index, FP32 sum; R220). -/
structure WalkCmd where
  num : Nat
  bytes : List Byte
  ready : Nat
  pushed : List (Nat × Nat)
  fills : List (Nat × Nat)
  rows : Nat
  nextPos : Nat
  failed : Nat
  sums : List (Nat × Nat)
deriving DecidableEq, Repr

/-- The page-table walker of one Vat: its count of commands read against the doorbell cell (R215), the command in progress, and the ATT_
values in force since the kernel start (R227): SEQ_BASE, SEQ_COUNT, RING_BASE, RING_LEN, DB_CELL. -/
structure Walker where
  count : Nat
  cmd : Option WalkCmd
  seqBase : Nat
  seqCount : Nat
  ringBase : Nat
  ringLen : Nat
  dbCell : Nat
  last : Nat
deriving DecidableEq, Repr

/-- No kernel has started: the ATT_ reset values (07 Table 7.13). -/
def Walker.reset : Walker :=
  { count := 0, cmd := none, seqBase := 0, seqCount := 0, ringBase := 0, ringLen := 64, dbCell := 0, last := 0 }

/-- A move of the swap engine (08 R239, R240): stream, swap-in, INIT, VCLK cycle of its start. -/
structure Swap where
  stream : Nat
  inward : Bool
  init : Bool
  start : Nat
deriving DecidableEq, Repr

/-- The swap engine of one Vat (08 R239, R240): the move in progress, the swap-outs waiting for the engine, and the due swap-ins (the VCLK
cycle each became due, stream, INIT), and the streams whose pair is final and whose RES_CELL will be set (VCLK cycle, stream). -/
structure SwapEng where
  busy : Option Swap
  outs : List Nat
  due : List (Nat × Nat × Bool)
  landing : List (Nat × Nat)
deriving DecidableEq, Repr

def SwapEng.reset : SwapEng := { busy := none, outs := [], due := [], landing := [] }


/-- A sample (09 R245 to R253): STAMP, ARRIVE, embedded and data bytes, frames aggregated, whether a link error or a full staging buffer met it,
bytes still staged, and once it is checked its status, FLAGS, SEQ, HASH and EMB. -/
structure IngSample where
  stamp : Int
  arrive : Int
  emb : List Byte
  data : List Byte
  frames : Nat
  fault : Bool
  full : Bool
  left : Nat
  checked : Option (Nat × Nat × Nat × Nat × Nat)
deriving DecidableEq, Repr

/-- A stream context (09 R245, R246, R252, R253): the sample in progress, samples that have ended and are not yet written, samples since
VALID was set, the hashes of the last 4 DONE samples, the counter of the last, whether VALID clears at the end of the sample in progress, and the next period
instant of an SPI context with TRIG 1. -/
structure IngCtx where
  cur : Option IngSample
  ended : List IngSample
  seq : Nat
  hashes : List Nat
  counter : Option Nat
  closing : Bool
  instant : Int
deriving DecidableEq, Repr

def IngCtx.reset : IngCtx := { cur := none, ended := [], seq := 0, hashes := [], counter := none, closing := false, instant := 0 }

/-- A sample of a stream on its way into a history, or in it (09 R257): STAMP, ARRIVE, SEQ, the first bytes of its payload. -/
structure Held where
  stamp : Int
  arrive : Int
  seq : Nat
  bytes : List Byte
deriving DecidableEq, Repr

/-- An entry of the pose history (09 R254, R255): tick number, orientation and position (FP64 patterns), v_body (FP32 patterns), STATUS. -/
structure Pose where
  k : Int
  q : List Nat
  p : List Nat
  v : List Nat
  status : Nat
deriving DecidableEq, Repr

/-- An entry of an aligned set as evaluated (09 R258 to R262): its stream, status, MODE, values, and the sample a frame stream chose with its time. -/
structure EntryOut where
  stream : Nat
  status : Nat
  mode : Nat
  values : List W32
  sample : Option (Int × Held)
deriving DecidableEq, Repr

/-- Output of a fusion job that waits for its paths (09 R264, R270): partition, the writes still to be made in order, the cell to be told, and the status. -/
structure FusOut where
  part : Nat
  writes : List (Nat × List Byte)
  cell : Option Nat
  status : Nat
deriving DecidableEq, Repr

/-- The projections of an evaluation (09 R268): channel, instant T and DUE, the entries of the set, and the pair descriptors still to run, none while the list has
not been read. -/
structure FusPairs where
  ch : Nat
  t : Int
  due : Int
  entries : List EntryOut
  todo : Option (List (List Byte))
deriving DecidableEq, Repr

/-- The fusion units beside their registers (09 R254 to R269): samples waiting for acceptance (stream; whether it
ended DONE and unfrozen), histories, D_s, value maps and
calibration copies as read at enabling, the n of each channel's and association channel's next job, the ego-motion unit (next tick, pose
history newest first, consecutive held ticks, last angular rate and velocity), projections to run, and outputs that wait for their paths. -/
structure Fusion where
  waiting : List (Nat × Held × Bool)
  hist : List (Nat × List Held)
  drift : List (Nat × Int)
  vmap : List (Nat × List Nat)
  cal : List (Nat × List Byte)
  next : List (Nat × Int)
  asNext : List (Nat × Int)
  tick : Int
  poses : List Pose
  heldRun : Nat
  omega : List Nat
  vel : List Nat
  pairs : List FusPairs
  outs : List FusOut
deriving DecidableEq, Repr

def Fusion.reset : Fusion :=
  { waiting := [], hist := [], drift := [], vmap := [], cal := [], next := [], asNext := [], tick := 0, poses := [], heldRun := 0,
    omega := [0, 0, 0], vel := [0, 0, 0], pairs := [], outs := [] }


/-- A job slot of the solver (10 R274): n of its next start instant, the instant of its single run where PERIOD is 0, and whether EN clears when
the run in hand ends. -/
structure SlvSlot where
  n : Int
  once : Option Int
  stopping : Bool
deriving DecidableEq, Repr

/-- A job waiting in the pending set: slot, run n, start instant, deadline (10 R274, R275). -/
structure SlvJob where
  slot : Nat
  n : Int
  start : Int
  deadline : Int
deriving DecidableEq, Repr

/-- The running job (10 R277 to R287): descriptor (empty until read), whether READY has been tested, whether its inputs are loaded, the inputs,
iterate 0 and the last completed iterate as elements, the index of that iterate, whether iterate 0 has been tested, rho, passed, mu, regularised
pivots and FLAGS so far; rho of iterate 0 where it was tested; the HCLK cycle in which the iteration in hand began; words of its working memory that stand in
correctable error, and whether one stands uncorrectable (R273, R293: no command sets them). -/
structure SlvRun where
  job : SlvJob
  desc : List Byte
  ready : Bool
  loaded : Bool
  ins : List (List Byte)
  x0 : List Nat
  x : List Nat
  k : Nat
  tested : Bool
  rho : Nat
  passed : Bool
  mu : Nat
  nreg : Nat
  flags : Nat
  rho0 : Option Nat
  since : Nat
  upset : Nat
  bad : Bool
deriving DecidableEq, Repr

/-- A run that has read nothing yet. -/
def SlvRun.start (q : SlvJob) : SlvRun := ⟨q, [], false, false, [], [], [], 0, false, 0, false, 0, 0, 0, none, 0, 0, false⟩

/-- A job that has ended and is not yet written (10 R290): its record with its address where it writes one, partition, ITER and status; for an abandoned job, until its
previous record has been read, the run as it was with its causes and FLAGS (R287). -/
structure SlvOut where
  job : SlvJob
  part : Nat
  record : Option (Nat × List Byte)
  iter : Nat
  status : Nat
  prev : Option (SlvRun × List Nat × Nat)
deriving DecidableEq, Repr

/-- The least-squares solver beside its registers (10): slots, pending set, the slot that pre-empted, the running job, ended jobs. -/
structure Solver where
  slots : List SlvSlot
  pending : List SlvJob
  urgent : Option Nat
  run : Option SlvRun
  outs : List SlvOut
deriving DecidableEq, Repr

def Solver.reset : Solver :=
  { slots := List.replicate 8 ⟨0, none, false⟩, pending := [], urgent := none, run := none, outs := [] }


/-- An eligible candidate (11 R297, R298): index, COST, waypoints as words x, y, z, yaw. -/
structure PlanCand where
  i : Nat
  cost : Nat
  wps : List (List Nat)
deriving DecidableEq, Repr

/-- The cycle in progress (11 R306 to R313): n, S_n, D_n; stage (1 PIN, 2 PRECHECK and PREP, 3 SWEEP, 4 REDUCE, 5 RECHECK, 6 OUT); the pin with its version and buffer;
the header and whether the grid counts as fully occupied; FLAGS and the statuses that apply; P_0, v0 and omega0; the stop trajectory, the result
of its latest completed check and the version checked; whether PRECHECK and PREP have ended; N, the eligible candidates, those that passed;
the selection, and the version of its last check. Also whether the publication has been read, whether it was VALID, whether the header of the buffer it
names is still to be read; the HCLK cycle in which SWEEP began and the cost of each of its layers. -/
structure PlanRun where
  n : Int
  start : Int
  deadline : Int
  stage : Nat
  pinned : Bool
  ver : Nat
  buf : Nat
  hdr : List Byte
  full : Bool
  flags : Nat
  causes : List Nat
  p0 : List Nat
  v0 : Nat
  w0 : Nat
  stop : List (List Nat)
  stopOk : Option Bool
  stopVer : Option Nat
  stopFirst : Bool
  preDone : Bool
  prepDone : Bool
  count : Nat
  cands : List PlanCand
  passed : List Nat
  sel : Nat
  selVer : Nat
  named : Bool
  valid : Bool
  hdrWait : Bool
  since : Nat
  layers : List Nat
deriving DecidableEq, Repr

/-- A cycle that has read nothing yet. -/
def PlanRun.fresh (n : Int) (t d : Int) : PlanRun :=
  { n := n, start := t, deadline := d, stage := 1, pinned := false, ver := 0, buf := 0, hdr := [], full := true, flags := 0, causes := [], p0 := [], v0 := 0, w0 := 0,
    stop := [], stopOk := none, stopVer := none, stopFirst := false, preDone := false, prepDone := false, count := 0, cands := [], passed := [], sel := 0, selVer := 0,
    named := false, valid := false, hdrWait := true, since := 0, layers := [] }

/-- The planner check unit beside its registers (11): n of the next cycle, whether EN clears when the cycle in hand ends, its copy of the body
table, the cycle in progress. -/
structure Planner where
  n : Int
  stopping : Bool
  body : List (List Byte)
  run : Option PlanRun
deriving DecidableEq, Repr

def Planner.reset : Planner := { n := 0, stopping := false, body := [], run := none }


/-- A servo axis (12 R320 to R326, Tables 12.2 and 12.5): state (0 DISABLED, 1 ENABLED, 2 HOLD, 3 FAULT), ENABLE_PENDING, commands that take
effect at the next tick, fault cause, SAT, SEG_STALE, MISS, following-error timer, FAULT_RST due; pos_prev, vf and iv; hold position; the
references of the tick (base, off, vref, tff); the last accepted feedback word; ep; the last word released, and the word the main copy has produced
and that has not passed its comparison yet. -/
structure LoopAxis where
  st : Nat
  pend : Bool
  cmds : List Nat
  cause : Nat
  sat : Bool
  stale : Bool
  miss : Bool
  timer : Nat
  rst : Bool
  posPrev : Nat
  vf : Nat
  iv : Nat
  hold : Nat
  refs : List Nat
  fb : Nat
  ep : Nat
  word : Nat
  held : Option Nat
deriving DecidableEq, Repr

def LoopAxis.reset : LoopAxis :=
  { st := 0, pend := false, cmds := [], cause := 0, sat := false, stale := false, miss := false, timer := 0, rst := false, posPrev := 0, vf := 0,
    iv := 0, hold := 0, refs := [0, 0, 0, 0], fb := 0, ep := 0, word := 0, held := none }

/-- A servo port (12 R327 to R332): aligned, LOST, consecutive misses, whether the cutoff of the next computation has passed, whether it brought
feedback, the frame accepted since the last cutoff, whether words wait for their frame and when it is due (LCLK cycle), SRV_CFG of the tick that
computed them, SEQ and SOF of the last command frame, and its bytes. -/
structure LoopPort where
  up : Bool
  lost : Bool
  misses : Nat
  cut : Bool
  hit : Bool
  got : Option (List Nat)
  made : Bool
  due : Nat
  cfg : Nat
  madeSeq : Nat
  seq : Nat
  sof : Option Nat
  sent : List Byte
deriving DecidableEq, Repr

def LoopPort.reset : LoopPort :=
  { up := false, lost := false, misses := 0, cut := false, hit := false, got := none, made := false, due := 0, cfg := 0, madeSeq := 0, seq := 0, sof := none,
    sent := [] }

/-- A bank of reference segments (12 R320): SEG_T0, SEG_LEN, and BASE, C1, C2, C3, TFF0, TFF1 of each axis. -/
structure SegBank where
  t0 : Nat
  len : Nat
  segs : List (List Nat)
deriving DecidableEq, Repr

/-- The loop engine beside its registers (12): axes, ports, the active bank (the staging bank is in the registers), friction and cogging tables
(2048 * axis + 1024 * table + entry) and the entries written that take effect with the next tick, parameters, port configurations and PERIOD_NS of
the tick, next tick instant, start of the present tick (LCLK cycle), ports whose axes are computed in it, whether it is counted as stale,
uncorrectable and correctable words of the engine's memory by axis, and the LCLK cycle in which RUN was set. -/
structure Loop where
  axes : List LoopAxis
  ports : List LoopPort
  active : SegBank
  bank : Nat
  swap : Bool
  slip : Bool
  table : List (Nat × Nat)
  writes : List (Nat × Nat)
  par : List (List Nat)
  srv : List Nat
  period : Nat
  k : Int
  first : Bool
  start : Nat
  half : Nat
  counted : Bool
  bad : List (Nat × Nat)
  upset : List (Nat × Nat)
  runT : Nat
deriving DecidableEq, Repr

def Loop.reset : Loop :=
  { axes := List.replicate 64 LoopAxis.reset, ports := List.replicate 8 LoopPort.reset,
    active := ⟨0, 0, List.replicate 64 [0, 0, 0, 0, 0, 0]⟩, bank := 0, swap := false, slip := false, table := [], writes := [],
    par := [], srv := [], period := 0, k := 0, first := false, start := 0, half := 8, counted := false, bad := [], upset := [], runT := 0 }


/-- A frame in a transmit buffer (13 R347): its descriptor's address, FLAGS, bytes, LAUNCH, and the status it ends with unsent. -/
structure TxFrame where
  desc : Nat
  flags : Nat
  bytes : List Byte
  launch : Int
  fixed : Option Nat
deriving DecidableEq, Repr

/-- A transmit queue (13 R347): the doorbell as last read, frames fetched, and the frames in the buffer, head first. -/
structure TxQueue where
  announced : Nat
  fetched : Nat
  buf : List TxFrame
deriving DecidableEq, Repr

/-- A gate control list as the MAC holds it (13 R351): intervals in ns with their gates, BASE, CYCLE. -/
structure GateList where
  entries : List (Nat × Nat)
  base : Int
  cycle : Nat
deriving DecidableEq, Repr

/-- A TSN port (13): its queues; the frame in transmission (queue, 8 for the fallback executor; frame; device time of its SFD in 2^-16 ns); the root-clock period in which
its last frame ends with its FCS; the gate list in
force, and the copy that waits with the instant it takes effect; the last PTP frame passed to firmware (time in 2^-16 ns, bytes). -/
structure TsnPort where
  queues : List TxQueue
  sending : Option (Nat × TxFrame × Int)
  ends : Nat
  gcl : Option GateList
  pend : Option (GateList × Int)
  ptp : Option (Int × List Byte)
deriving DecidableEq, Repr

def TxQueue.reset : TxQueue := { announced := 0, fetched := 0, buf := [] }
def TsnPort.reset : TsnPort := { queues := List.replicate 8 TxQueue.reset, sending := none, ends := 0, gcl := none, pend := none, ptp := none }


/-- A flit (14 Table 14.2); HOPS, the CRC taken as good while it is on the device, and the device time in ns at which it entered its present
buffer (R367). -/
structure Flit where
  typ : Nat
  src : Nat
  dst : Nat
  gen : Nat
  tag : Nat
  hops : Nat
  set : Bool
  poison : Bool
  addr : Nat
  payload : List Byte
  since : Int
deriving DecidableEq, Repr

/-- An outstanding message (14 R360, R368): tag, destination, whose it is, and the device time at which it entered the outbound queue. -/
structure XMsg where
  tag : Nat
  dst : Nat
  who : Waiter
  since : Int
deriving DecidableEq, Repr

/-- One Xexisha port (14 R355 to R365): ST of XSL_PSTAT, the outbound queue, the forwarding buffers (all sources together, in arrival order),
the inbound buffer, the FCLK cycle of EN and of the last valid slot frame, and the slot header (Table 14.1) and flits of the last slot frame sent. -/
structure XPort where
  st : Nat
  dupId : Bool
  neighbour : Nat
  wire : Nat
  out : List Flit
  fwd : List Flit
  inb : List Flit
  enAt : Nat
  lastRx : Nat
  header : List Byte
  sent : List Flit
  /-- 1 + the sub-slot of the last slot frame sent -/
  sentAt : Nat
deriving DecidableEq, Repr

/-- The Xexisha block beside its registers (14): ports, outstanding messages, tags never used yet from here on, tags released (with their
instants, in order), tags whose quarantine has passed, acknowledgements to send (destination, tag, status), per-device instant of the last flit, per-range instant of the
last generation change. -/
structure Xexisha where
  ports : List XPort
  msgs : List XMsg
  fresh : Nat
  released : List (Nat × Int)
  ready : List Nat
  acks : List (Nat × Nat × Nat)
  seen : List (Nat × Int)
  genAt : List (Nat × Int)
deriving DecidableEq, Repr

def XPort.reset : XPort :=
  { st := 0, dupId := false, neighbour := 0, wire := 0, out := [], fwd := [], inb := [], enAt := 0, lastRx := 0, header := [], sent := [], sentAt := 0 }

def Xexisha.reset : Xexisha :=
  { ports := List.replicate 6 XPort.reset, msgs := [], fresh := 0, released := [], ready := [], acks := [], seen := [], genAt := [] }


/-- One axis of a fallback trajectory: AXIS, TFF (FP32) and the knots (POS as INT32 pattern, VEL as FP32) (15 Table 15.7). -/
structure TrjAxis where
  axis : Nat
  tff : Nat
  knots : List (Nat × Nat)
deriving DecidableEq, Repr

/-- One Ethernet entry of a fallback trajectory (15 Table 15.7). -/
structure TrjEth where
  offsetMs : Nat
  repeatUs : Nat
  frame : List Byte
deriving DecidableEq, Repr

/-- An accepted fallback trajectory with its acceptance instant in RCLK cycles (15 R399, Table 15.7). -/
structure Trj where
  seq : Nat
  kdtMs : Nat
  nk : Nat
  endAction : Nat
  endHoldMs : Nat
  axes : List TrjAxis
  eth : List TrjEth
  accT : Nat
deriving DecidableEq, Repr

/-- The fallback executor (15 R399 to R404): banks, playback, feedback samples, handback. Times are RCLK cycles. -/
structure Fbx where
  staging : List (Nat × Nat)
  active : Option Trj
  pendingTrj : Option Trj
  playing : Bool
  deflt : Bool
  playSet : List Nat
  t0 : Nat
  tau0 : Nat
  endReached : Bool
  reject : Nat
  /-- latest accepted feedback POS per axis -/
  fbPos : List (Nat × Nat)
  /-- the sample of the last step and of the step before, per axis -/
  pos : List (Nat × Nat)
  posPrev : List (Nat × Nat)
  vmeas : List (Nat × Nat)
  iq : List (Nat × Nat)
  /-- axes whose iq of the last step was not finite -/
  nanAx : List Nat
  holdPos : List (Nat × Nat)
  /-- axes whose last main command word carried ENABLE = 1 -/
  mainEn : List Nat
  /-- a valid feedback frame arrived since the last step, per port -/
  fbSeen : List Nat
  /-- consecutive steps without one, per port -/
  fbMiss : List (Nat × Nat)
  estop : List Nat
  swPorts : List Nat
  actqSw : Bool
  seq : List (Nat × Nat)
  ethSent : Option Nat
  ethLastT : Nat
  stepT : Nat
  stillT : List (Nat × Nat)
  lateFrom : Nat
  hbReqT : Option Nat
  hbGo : Bool
  hbAcc : Bool
  clearT : Option Nat
  /-- command frames sent per port: the bytes of the last one -/
  sent : List (Nat × List Byte)
  /-- RCLK cycle of the SOF of that frame -/
  txT : List (Nat × Nat)
  ethOut : List (List Byte)
deriving DecidableEq, Repr

/-- 15 R396: after a Rind cold boot, FALLBACK with no trajectory; nothing sampled. -/
def Fbx.reset : Fbx :=
  { staging := [], active := none, pendingTrj := none, playing := false, deflt := false, playSet := [], t0 := 0, tau0 := 0,
    endReached := false, reject := 0, fbPos := [], pos := [], posPrev := [], vmeas := [], iq := [], nanAx := [], holdPos := [],
    mainEn := [], fbSeen := [], fbMiss := [], estop := [], swPorts := [], actqSw := false, seq := [], ethSent := none,
    ethLastT := 0, stepT := 0, stillT := [], lateFrom := 0, hbReqT := none, hbGo := false, hbAcc := false, clearT := none, sent := [],
    txT := [], ethOut := [] }

/-- The watchdogs of the Rind (15 R405); times are RCLK cycles. -/
structure Watchdogs where
  hbLast : Nat
  hbArmed : Bool
  kickLast : Nat
  kickExpect : Nat
  kickArmed : Bool
  /-- a kick has come since the last release of MC_RST (18 R469) -/
  kicked : Bool
deriving DecidableEq, Repr

/-- One golden-frame descriptor or self-test slice pass state is in SAF_ registers; this is what has no register (15 R380 to R395). -/
structure Diag where
  /-- diagnostic copies of the 16 plans and 256 descriptors of banks A and B (02 R76, 15 R392) -/
  copyA : List Byte
  copyB : List Byte
  /-- slices pending per Vat, in plan order -/
  pendSlices : List (Nat × List Nat)
  /-- slice running on a Vat and the window start -/
  slice : List (Nat × Nat)
  /-- first slice to consider in the present self-test window, per Vat -/
  sliceNext : List (Nat × Nat)
  /-- runs of a pair completed: kernel, RSIG, FRT_FRAME_CNT and slot of the run's start (15 R386) -/
  pairSig : List (Nat × Nat × Nat × Nat)
  /-- CRC-64 registers of the run in progress: Vat * 3 + stream (15 R384); unlisted: all ones -/
  rsig : List (Nat × Nat)
  /-- the next injection of a compare point is on lane B -/
  laneB : List Nat
  lanePos : List (Nat × Nat)
  /-- cycle of the last injection of a compare point -/
  laneT : List (Nat × Nat)
  /-- main-copy reads with side effects not yet applied to the checker: core, (due cycle, register key) oldest first -/
  journals : List (Nat × List (Nat × Nat))
  /-- cores halted by a failed compare: 2 solver, 3 planner -/
  halted : List Nat
deriving DecidableEq, Repr

def Diag.reset : Diag :=
  { copyA := [], copyB := [], pendSlices := [], slice := [], sliceNext := [], pairSig := [], rsig := [], laneB := [],
    lanePos := [], laneT := [], journals := [], halted := [] }



/-- The droop detector of a Vat and its swallowing (16 R417): asserted; swallowing; passing pulses left after the release; whether the next pulse
of the pattern is the second of its pair. -/
structure Droop where
  asserted : Bool
  active : Bool
  left : Nat
  second : Bool
deriving DecidableEq, Repr

/-- The power and clock controller beside its registers (16): CAP in force (the mode in force is in PWR_STATUS); low; thermal ceilings; raises above
the floor in this period by Vat; whole periods done; PWR_ENERGY at the start of this one; T_SOFT in force; droop by Vat; region swallowing
by Vat with its count of pulses; pairs in excursion; FCLK cycle since which every pair is within the release limits; meter configurations in
force; counts of activity events (8 * partition + event, partition 16 for none); pulses passed by R410 and pulses removed in the LC window of
each Vat. -/
structure Power where
  cap : Nat
  low : Nat
  th : List Nat
  raised : List Nat
  periods : Nat
  eStart : Nat
  tsoft : Nat
  droop : List Droop
  region : List (Option Nat)
  exc : List (Nat × Nat)
  within : Option Nat
  meters : List Nat
  acts : List (Nat × Nat)
  win : List (Nat × Nat)
deriving DecidableEq, Repr

/-- 16 R412 (FIXED, CAP 450 W), R413 (low 0), R418 (ceilings 52), Table 16.7 (T_SOFT 100). -/
def Power.reset : Power :=
  { cap := 450, low := 0, th := List.replicate 8 52, raised := List.replicate 8 0, periods := 0, eStart := 0, tsoft := 100,
    droop := List.replicate 8 ⟨false, false, 0, false⟩, region := List.replicate 8 none, exc := [], within := none,
    meters := List.replicate 8 0, acts := [], win := List.replicate 8 (0, 0) }


/-- One packet of the trace FIFO (17 Table 17.16). -/
structure TracePkt where
  src : Nat
  typ : Nat
  time : Nat
  data : Nat
deriving DecidableEq, Repr

/-- An entry of a commit group (17 Table 17.11): KIND, ACTION, ADDR, VALUE. -/
structure CEntry where
  kind : Nat
  action : Nat
  addr : Nat
  value : Nat
deriving DecidableEq, Repr

/-- What the present clock cycle has brought, for the rules that order two updates of one cycle: bits that hardware set in W1C registers (register key; cycle, bits;
00 R11), separate immediate writes of software (register key; cycle, role tag, value; 01 R27), and sync-cell operations (key of the cell; VCLK cycle of its Vat, the value
before them, and the operations in their order with their place in it, 0 to 5; 03 R97), and the HCLK cycle of the last snapshot (17 R460). An entry of an earlier cycle has no
effect. -/
structure Now where
  sets : List (Nat × Nat × Nat)
  plain : List (Nat × Nat × Nat × Nat)
  cells : List (Nat × Nat × Nat × List (Nat × CellOp))
  snap : Option Nat
deriving DecidableEq, Repr

/-- A staged commit group (17 R445 to R450): the model's number of it, slot, GTAG, role tag, POINT, TARGET, INSTANT, entries, FCLK cycle of the end of staging, and
the FCLK cycle of its commit point once that is reached. -/
structure CGroup where
  id : Nat
  slot : Nat
  gtag : Nat
  role : Nat
  point : Nat
  target : Nat
  instant : Int
  entries : List CEntry
  staged : Nat
  commit : Option Nat
deriving DecidableEq, Repr

/-- The commit-group unit beside its registers: pending groups in submission order, Rind groups on the bridge, and the next number. -/
structure CgUnit where
  pending : List CGroup
  bridge : List CGroup
  next : Nat
deriving DecidableEq, Repr

def CgUnit.reset : CgUnit := { pending := [], bridge := [], next := 0 }

/-- A session of a mailbox (17 R431 to R434): role, KEY_ID, certificate, LIFETIME_S, and the FCLK cycles of its opening and of its last command. -/
structure Session where
  role : Nat
  keyId : Nat
  cert : List Byte
  lifetime : Nat
  opened : Nat
  last : Nat
deriving DecidableEq, Repr

/-- An asynchronous command in progress (17 R430): mailbox, opcode, TAG, role, stage of the command, numbers and bytes it works with, the commit groups it waits
for, and how it ends once that is known (status, DETAIL, state word). -/
structure FwJob where
  mbox : Nat
  op : Nat
  tag : Nat
  role : Nat
  stage : Nat
  args : List Nat
  data : List Byte
  group : Option Nat
  ends : Option (Nat × Nat × Nat)
deriving DecidableEq, Repr

/-- A workload (17 R443): start and stop groups as defined, role of the definer, and whether it counts as started. -/
structure Work where
  start : List Byte
  stop : List Byte
  role : Nat
  started : Bool
deriving DecidableEq, Repr

/-- The fallback relay (17 R444, 18 R480): enabled, buffers, ready cell, its value at the previous boundary, and whether the first trajectory has been relayed; of the
trajectory under way the words still to stage, the place of the first of them, whether its commit is still to be submitted, and the relay's last group. -/
structure Relay where
  en : Bool
  buf0 : Nat
  buf1 : Nat
  ready : Nat
  seen : Nat
  begun : Bool
  words : List Nat
  place : Nat
  commit : Bool
  last : Option Nat
deriving DecidableEq, Repr

/-- A bucket of a loaded image (07 R225, R226): the sequences that did not fit in its last list, as their 16-byte entries, and the VCLK count of the bucket's
Vat when its selector was last set. -/
structure Batch where
  carried : List (List Byte)
  since : Nat
deriving DecidableEq, Repr

/-- Firmware and the host endpoint beside the MBX_ registers (17 R427 to R444): BAR0 mailbox bytes (key 4096 * mailbox + offset), HOST_ERR, doorbells rung and
not yet served, commands in progress, sessions, nonces (mailbox, FCLK cycle, bytes), consecutive failures, lockouts (mailbox, FCLK cycle of the end), approved
image slots with their manifests, their buckets (key 16 * slot + bucket), workloads, relay, FW before SHUTDOWN, version and build of the running image, raises of each MSI-X vector, data sent to
the host (address, bytes). -/
structure Firmware where
  mail : List Host.Cell
  hostErr : Nat
  bells : List Nat
  jobs : List FwJob
  sessions : List (Nat × Session)
  nonces : List (Nat × Nat × List Byte)
  fails : List (Nat × Nat)
  lockout : List (Nat × Nat)
  images : List (Nat × List Byte)
  batches : List (Nat × Batch)
  works : List (Nat × Work)
  relay : Relay
  prior : Nat
  ver : Nat
  build : Nat
  hostOut : List (Nat × List Byte)
deriving DecidableEq, Repr

/-- Firmware as a reset leaves it: no session, no command, no workload (18 Table 18.6). -/
def Firmware.reset : Firmware :=
  { mail := [], hostErr := 0, bells := [], jobs := [], sessions := [], nonces := [], fails := [], lockout := [], images := [], batches := [], works := [],
    relay := ⟨false, 0, 0, 0, 0, false, [], 0, false, none⟩, prior := 2, ver := 0, build := 0, hostOut := [] }

/-- What outlives every reset (18 Table 18.6): the fuses of Table 18.8 with the lifecycle, and SPI NOR: its regions by offset (Table 18.3), the key
store, and whether FW_STAGE has written the slot that is not active. -/
structure Keep where
  lifecycle : Nat
  rootKey : List Byte
  epoch : Nat
  svn : Nat
  bootHost : Bool
  nor : List (Nat × List Byte)
  keys : List (List Byte)
  staged : Bool
deriving DecidableEq, Repr

/-- As delivered: MANUFACTURE, nothing fused, nothing in SPI NOR (DESIGN CHOICE, log entry 45). -/
def Keep.reset : Keep := { lifecycle := 0, rootKey := [], epoch := 0, svn := 0, bootHost := false, nor := [], keys := [], staged := false }

/-- Start-up, resets and the pins they watch (18, 19): step in progress (8 once it has ended), firmware runs (before that the boot ROM does), cause of the hold (0 none), the kind of reset whose steps
run (1 warm, 2 cold, 3 Rind), a commanded reset that waits (FCLK cycle, kind), FCLK cycle of the last release of the main-complex reset; MC_RST, RESET_N low,
rails below power-good (19 R499), REFCLK, root PLL lock, the Rind supply, Rind boot in progress; the ROM waits for a host image; RCLK cycle of the last empty
trajectory while firmware commits them (18 R480); groups of the start-up configuration by phase. -/
structure Startup where
  step : Nat
  running : Bool
  hold : Nat
  kind : Nat
  resetAt : Option (Nat × Nat)
  release : Nat
  mcRst : Bool
  resetN : Bool
  railBad : Bool
  refclk : Bool
  pll : Bool
  rind : Bool
  booting : Bool
  hostWait : Bool
  empties : Option Nat
  phases : List (List (List Byte))
deriving DecidableEq, Repr

/-- The main complex has just left a cold reset: step 2 begins (18 Table 18.1). -/
def Startup.reset : Startup :=
  { step := 2, running := false, hold := 0, kind := 2, resetAt := none, release := 0, mcRst := false, resetN := false, railBad := false, refclk := true, pll := true,
    rind := true, booting := false, hostWait := false, empties := none, phases := [] }

/-- The observation port (17 R462): the high word captured at a low-word read, and whether the last address lay outside register space. -/
structure ObsPort where
  high : Nat
  outside : Bool
deriving DecidableEq, Repr



/-- The whole state of the block: everything the spec gives it, as plain data, and the queue of waiting commands. -/
structure State where
  /-- The commands that are waiting, first in, first out (the block's queue). -/
  pending : List Instr
  /-- Root-clock cycles (1/8 ns) for which the main-complex clocks have run since power-on: the model's own clock, 01 R41. -/
  tick : Nat
  /-- The model's own counter that each use of a free value advances; no statement rests on it. -/
  free : Nat
  /-- The values the last read command returned to its reader (00 R9, 17 R462). -/
  rdata : List Nat
  /-- The main-complex clocks run: root PLL locked and REFCLK present (01 R42). -/
  mainClk : Bool
  /-- RCLK runs (19 R506). -/
  rclkOn : Bool
  /-- Root periods since the last RCLK edge, 0 to 19 (RCLK is 400 MHz, nominal; log entry 2). -/
  rphase : Nat
  /-- RIND_RCLK_CNT: RCLK cycles since the RCLK PLL locked (15 Table 15.9). -/
  rclk : Nat
  /-- Every register of spec 02 to 17 by its key (RegTable.lean); unlisted reads 0. -/
  regs : List (Nat × Nat)
  /-- The RA logs and completion FIFOs by register key, oldest entry first (00 R9). -/
  logs : List (Nat × List Nat)
  /-- Bytes of Lake, Ponds, hub SRAM and grid store by local address (01 R31); unlisted reads 0. -/
  mem : List Host.Cell
  /-- Addresses of the 8-byte protected words whose check bits are uncorrectable (05 R160). -/
  poison : List Nat
  /-- Addresses of protected words with a correctable error (05 R159, R160). -/
  upset : List Nat
  /-- Sync cells: Vat n, cell k at key n * 16384 + k (01 R33, 03 R97); unlisted reads 0. -/
  cells : List (Nat × Nat)
  /-- The timebase (13). -/
  tb : Timebase
  /-- The event recorder (17). -/
  evr : Recorder
  /-- The doubt line (01 R22). -/
  line : DoubtLine
  /-- The authority (15 R396): FALLBACK after a Rind cold boot. -/
  auth : Auth
  /-- The Rind is in SAFE (15 R405). -/
  safe : Bool
  /-- HOST_EVENT of BAR0, 3 bits W1C (17 Table 17.2). -/
  hostEvent : Nat
  /-- The frame-table distributor and slot engines (02): banks, current frame, per-Vat runs. -/
  frt : FrameTab
  /-- The eight Vats (03, 04). -/
  vats : List Vat
  /-- The migration engine, the die copies of the page table, and Reservoir (05). -/
  mig : Migration
  /-- The Harp engines (06). -/
  harp : List HarpEngine
  /-- HARP_SHARE in force since the last frame boundary (06 R190). -/
  harpShare : Nat
  /-- The page-table walkers of the Vats (07 R215). -/
  walkers : List Walker
  /-- The swap engines of the scan units (08 R239). -/
  swaps : List SwapEng
  /-- The stream contexts of sensor ingest (09). -/
  ing : List IngCtx
  /-- The fusion units (09). -/
  fus : Fusion
  /-- The least-squares solver (10). -/
  slv : Solver
  /-- The planner check unit (11). -/
  pln : Planner
  /-- The loop engine and its servo ports (12). -/
  lp : Loop
  /-- The TSN ports (13). -/
  tsn : List TsnPort
  /-- The Xexisha link (14). -/
  xsl : Xexisha
  /-- The fallback executor and authority switch (15). -/
  fbx : Fbx
  /-- The Rind's watchdogs (15 R405). -/
  wd : Watchdogs
  /-- Replicated-core comparison, golden frames and self-test (15). -/
  diag : Diag
  /-- The power and clock controller (16). -/
  pwr : Power
  /-- The trace FIFO, oldest packet first, at most 4,096 packets (17 R464). -/
  trace : List TracePkt
  /-- Packets discarded since the trace FIFO became full, and the source of the last of them (17 R464). -/
  traceDrop : Nat × Nat
  /-- Times each MSI-X vector has been raised; unlisted 0 (17 R430, R466). -/
  msix : List (Nat × Nat)
  /-- The commit-group unit (17 R445 to R451). -/
  cg : CgUnit
  /-- Firmware and the host endpoint (17 R427 to R444). -/
  firm : Firmware
  /-- Fuses and SPI NOR (18 R472, R489, R490). -/
  keep : Keep
  /-- Start-up, resets, supplies and reference clocks (18, 19). -/
  start : Startup
  /-- The compare instant SNP_CMP_T has not fired since it or CMP_EN was last written (17 R460). -/
  snapCmp : Bool
  /-- The observation port (17 R462). -/
  obs : ObsPort
  /-- What the present cycle has brought (00 R11, 01 R27): the model's own notes, with no effect beyond their cycle. -/
  now : Now
deriving DecidableEq, Repr

/-- The block right after a cold reset of the whole device: every field at the value the spec states, and where it states
none at the value its log entry names (notes/assumptions). -/
def State.reset : State where
  pending := []
  tick := 0
  free := 0
  rdata := []
  mainClk := true
  rclkOn := true
  rphase := 0
  rclk := 0
  regs := resetRegs
  logs := []
  mem := []
  poison := []
  upset := []
  cells := []
  tb := Timebase.reset
  evr := Recorder.reset
  line := DoubtLine.reset
  auth := .fallback
  safe := false
  hostEvent := 0
  frt := FrameTab.reset
  vats := List.replicate 8 Vat.reset
  mig := Migration.reset
  harp := List.replicate 4 HarpEngine.reset
  harpShare := 0
  walkers := List.replicate 8 Walker.reset
  swaps := List.replicate 8 SwapEng.reset
  ing := List.replicate 96 IngCtx.reset
  fus := Fusion.reset
  slv := Solver.reset
  pln := Planner.reset
  lp := Loop.reset
  tsn := List.replicate 4 TsnPort.reset
  xsl := Xexisha.reset
  fbx := Fbx.reset
  wd := ⟨0, false, 0, 0x5A5A5A5A, false, false⟩
  diag := Diag.reset
  pwr := Power.reset
  trace := []
  traceDrop := (0, 0)
  msix := []
  cg := CgUnit.reset
  firm := Firmware.reset
  keep := Keep.reset
  start := Startup.reset
  snapCmp := true
  obs := ⟨0, false⟩
  now := ⟨[], [], [], none⟩

end Sys2Proof.Machine
end

