-- ==== Sys2Proof/Machine/Store.lean ====
section
/-! DEFINITION. Reading and writing the stored registers, memory bytes, poisoned words and sync cells, and the clocks
derived from the root tick. Everything above goes through these. -/

namespace Sys2Proof.Machine

/-! ### Registers -/

/-- The stored value of a register (00 R9). -/
def State.reg (s : State) (k : Nat) : Nat := mapGet 0 s.regs k

/-- The register k set to v. -/
def State.setReg (s : State) (k v : Nat) : State := { s with regs := mapSet 0 s.regs k v }

/-- Bits [hi:lo] of register k. -/
def State.regBits (s : State) (k hi lo : Nat) : Nat := bits (s.reg k) hi lo

/-- Bits [hi:lo] of register k set to v. -/
def State.setRegBits (s : State) (k hi lo v : Nat) : State := s.setReg k (putBits (s.reg k) hi lo v)

/-- A counter register raised by n, modulo its 32 bits. -/
def State.bumpBy (s : State) (k n : Nat) : State := s.setReg k ((s.reg k + n) % 2 ^ 32)

/-- A counter register raised by one. -/
def State.bump (s : State) (k : Nat) : State := s.bumpBy k 1

/-- Bit i of register k set (the sticky error bits of 01 Table 1.15, the doubt bits of 15). -/
def State.setRegBit (s : State) (k i : Nat) : State := s.setReg k (putBit (s.reg k) i true)

/-! ### Clocks (01 R41: every main-complex clock divides the root clock) -/

/-- FCLK and HCLK cycles (root / 8). -/
def State.fclk (s : State) : Nat := s.tick / 8

/-- LCLK cycles (root / 16). -/
def State.lclk (s : State) : Nat := s.tick / 16

/-- The clock cycle of the register at key k: RCLK's on the Rind, HCLK's elsewhere. -/
def State.cycleOf (s : State) (k : Nat) : Nat := if 0x40 ≤ k / 0x100000 then s.rclk else s.fclk

/-- The bits that hardware has set in register k in its present cycle (00 R11). -/
def State.setNow (s : State) (k : Nat) : Nat :=
  match s.now.sets.find? (fun e => e.1 == k) with
  | some e => if e.2.1 = s.cycleOf k then e.2.2 else 0
  | none => 0

/-- Hardware has set the bits of m in register k. -/
def State.noteSet (s : State) (k m : Nat) : State :=
  { s with now := { s.now with sets := mapInsert s.now.sets k (s.cycleOf k, s.setNow k ||| m) } }

/-- Hardware sets bit i of the W1C register k; a clear by software in the same cycle leaves it set (00 R11). -/
def State.hwSetBit (s : State) (k i : Nat) : State := (s.setRegBit k i).noteSet k (2 ^ i)

/-- What a software clear of the bits of v leaves of the bits of x that register k holds (00 R11). -/
def State.cleared (s : State) (k x v : Nat) : Nat := x - (x &&& v - (v &&& s.setNow k))

/-- Device time in units of 2^-16 ns in the present TCLK cycle: t(c) of 13 R336. -/
def State.timeFix (s : State) : Int :=
  s.tb.ofs + (s.tb.count * 4 * 2 ^ 16 : Nat) + (s.tb.count * s.tb.rate) / (2 ^ 22 : Nat)

/-- TB_NOW, the integer part of device time in ns (13 R336). -/
def State.nowNs (s : State) : Int := s.timeFix / (2 ^ 16 : Nat)

/-- TB_NOW_FRAC, the 16-bit fraction of device time (13 R336). -/
def State.nowFrac (s : State) : Nat := (s.timeFix % (2 ^ 16 : Nat)).toNat

/-- An instant has been reached (13 R338: integer part of the readout at or past it, compared as signed numbers). -/
def State.reached (s : State) (instant : Int) : Bool := decide (instant ≤ s.nowNs)

/-! ### Memory (01 R31, 05 R159, R160) -/

/-- The byte at local address a; a byte nothing has written reads as 0 (DESIGN CHOICE, log entry 3). -/
def memByte (m : List Host.Cell) (a : Nat) : Byte := mapGet 0 m a

/-- n bytes from local address a. -/
def memBytes (m : List Host.Cell) (a : Nat) : Nat → List Byte
  | 0 => []
  | n + 1 => memByte m a :: memBytes m (a + 1) n

/-- m with the bytes l stored from address a upward. -/
def memStore (m : List Host.Cell) (a : Nat) : List Byte → List Host.Cell
  | [] => m
  | b :: l => memStore (mapSet 0 m a b) (a + 1) l

/-- The canonical form of memory. -/
def memWf (m : List Host.Cell) : Bool := mapWf (0 : Byte) m

/-- n bytes of memory from local address a. -/
def State.bytes (s : State) (a n : Nat) : List Byte := memBytes s.mem a n

/-- The little-endian number in the n bytes at a (00 R12). -/
def State.loadLE (s : State) (a n : Nat) : Nat := fromLE (s.bytes a n)

/-- The protected words (8 bytes, 05 Table 5.7) that the n bytes at a touch. -/
def wordsOf (a n : Nat) : List Nat :=
  if n = 0 then [] else (List.range ((a + n - 1) / 8 - a / 8 + 1)).map (fun i => (a / 8 + i) * 8)

/-- The n bytes at a meet a poisoned word (05 R160). -/
def State.poisoned (s : State) (a n : Nat) : Bool := (wordsOf a n).any (fun w => s.poison.contains w)

/-- The bytes l stored at local address a. A single write that covers a whole poisoned word gives it new check bits; a partial
one leaves it poisoned (05 R160). -/
def State.store (s : State) (a : Nat) (l : List Byte) : State :=
  { s with mem := memStore s.mem a l, poison := s.poison.filter (fun w => !(a ≤ w && w + 8 ≤ a + l.length)),
           upset := s.upset.filter (fun w => !(wordsOf a l.length).contains w) }

/-- The n-byte little-endian value v stored at a. -/
def State.storeLE (s : State) (a n v : Nat) : State := s.store a (toLE n v)

/-- The bytes l stored at a with the words they touch marked uncorrectable (poison moves with the data, 05 R160). -/
def State.storePoisoned (s : State) (a : Nat) (l : List Byte) : State :=
  { s with mem := memStore s.mem a l, poison := (wordsOf a l.length).foldl setInsert s.poison }

/-! ### Address map (01 Tables 1.9 and 1.10) -/

/-- Base of the window of Vat n. -/
def vatBase (n : Nat) : Nat := 0x200000000000 + n * 0x4000000

/-- Local address of offset o in the Pond of Vat n. -/
def pondAddr (n o : Nat) : Nat := vatBase n + o

/-- Bytes of a Pond (48 MiB). -/
def pondSize : Nat := 0x3000000

/-- Local address of sync cell k of Vat n (01 R33). -/
def cellAddr (n k : Nat) : Nat := vatBase n + 0x3000000 + 8 * k

/-- Base of hub SRAM. -/
def hubBase : Nat := 0x200100000000

/-- Base of the planner grid store. -/
def gridBase : Nat := 0x200140000000

/-- The regions of Table 1.9 with Table 1.10's split of a Vat window; reserved addresses are a region of their own. -/
inductive Region where
  | lake (k : Nat)
  | image
  | pond (v : Nat)
  | cell (v k : Nat)
  | hub
  | grid
  | regs
  | reserved
deriving DecidableEq, Repr

/-- The region a local address lies in. -/
def regionOf (a : Nat) : Region :=
  if a < 0x1800000000 then .lake (a / 0x600000000)
  else if 0x100000000000 ≤ a ∧ a < 0x200000000000 then .image
  else if 0x200000000000 ≤ a ∧ a < 0x200020000000 then
    if a % 0x4000000 < 0x3000000 then .pond (a / 0x4000000 % 8)
    else if a % 0x4000000 < 0x3020000 then .cell (a / 0x4000000 % 8) (a % 0x4000000 % 0x3000000 / 8)
    else .reserved
  else if 0x200100000000 ≤ a ∧ a < 0x200104000000 then .hub
  else if 0x200140000000 ≤ a ∧ a < 0x200142000000 then .grid
  else if 0x300000000000 ≤ a ∧ a < 0x300010000000 then .regs
  else .reserved

/-- The whole extent [a, a + n) lies in one region of the same kind and instance. -/
def extentRegion (a n : Nat) : Region :=
  match regionOf a, regionOf (a + n - 1) with
  | .cell v k, .cell v' _ => if v = v' then .cell v k else .reserved
  | r, r' => if r = r' then r else .reserved

/-! ### Sync cells (01 R33, 03 R97) -/

/-- Key of sync cell k of Vat n. -/
def cellKey (n k : Nat) : Nat := n * 16384 + k

/-- The value of sync cell k of Vat n. -/
def State.cell (s : State) (n k : Nat) : Nat := mapGet 0 s.cells (cellKey n k)

/-- Sync cell k of Vat n set to v, modulo 2^64. -/
def State.setCell (s : State) (n k v : Nat) : State :=
  { s with cells := mapSet 0 s.cells (cellKey n k) (v % 2 ^ 64) }

/-- SADD on a cell: addition modulo 2^64 (03 R97). -/
def State.addCell (s : State) (n k v : Nat) : State := s.setCell n k (s.cell n k + v)

/-- The VCLK cycle of Vat n. -/
def State.vatCycle (s : State) (n : Nat) : Nat := (s.vats.getD n Vat.reset).cyc

/-- The value sync cell k of Vat n had before the operations of the present cycle, and those operations; none where there are none (03 R97). -/
def State.cellNow (s : State) (n k : Nat) : Option (Nat × List (Nat × CellOp)) :=
  (s.now.cells.find? (fun e => e.1 == cellKey n k && e.2.1 == s.vatCycle n)).map (fun e => e.2.2)

/-- What a read of a cell in the present cycle returns: the value after every operation of the cycle before (03 R97). -/
def State.cellSeen (s : State) (n k : Nat) : Nat := match s.cellNow n k with | some e => e.1 | none => s.cell n k

/-- A cell's value after an operation. -/
def cellAfter (x : Nat) : CellOp → Nat
  | .add y => (x + y.toNat) % 2 ^ 64
  | .set y => y.toNat

/-- An operation enters those of its cycle: by place, then in order of arrival (03 R97). -/
def insertCellOp (o : Nat × CellOp) : List (Nat × CellOp) → List (Nat × CellOp)
  | [] => [o]
  | p :: l => if p.1 ≤ o.1 then p :: insertCellOp o l else o :: p :: l

/-- No operation of a later place than i has reached the cell in the present cycle. -/
def State.cellFree (s : State) (n k i : Nat) : Bool := match s.cellNow n k with | some e => e.2.all (fun o => decide (o.1 ≤ i)) | none => true

/-- A sync-cell operation of place i of R97: 0 slot 0 and END, 1 and 2 the movers, 3 the scan unit, 4 the walker, 5 the fabric. One that arrives after an operation of a later
place takes its own place before it. -/
def State.cellDo (s : State) (n k i : Nat) (op : CellOp) : State :=
  let e := (s.cellNow n k).getD (s.cell n k, [])
  let ops := insertCellOp (i, op) e.2
  let x := if s.cellFree n k i then cellAfter (s.cell n k) op else ops.foldl (fun x o => cellAfter x o.2) e.1
  { s.setCell n k x with now := { s.now with
      cells := s.now.cells.filter (fun c => c.1 != cellKey n k && (c.1 / 16384 != n || c.2.1 == s.vatCycle n)) ++
        [(cellKey n k, s.vatCycle n, e.1, ops)] } }

/-- What a fabric read of the cell at a local address returns, 0 elsewhere. -/
def State.cellAt (s : State) (a : Nat) : Nat :=
  match regionOf a with
  | .cell v k => s.cellSeen v k
  | _ => 0

/-! ### The model's own counter for free values -/

/-- The state after one use of a free value: the counter moves on, so that the next use is another value. -/
def State.useFree (s : State) : State := { s with free := s.free + 1 }

/-- The state after n uses. -/
def State.useFrees (s : State) (n : Nat) : State := { s with free := s.free + n }

end Sys2Proof.Machine
end

