-- ==== Sys2Proof/Machine/FrameFmt.lean ====
section
/-! DEFINITION. The binary frame table (02 Tables 2.1 to 2.7): field accessors over a table image, and what the rest of the
block asks of the table in force (partitions, kernels, fill lists, slots, sub-slot owners). -/

namespace Sys2Proof.Machine

/-- A table is executing (02 Table 2.11). -/
def State.tableValid (s : State) : Bool := bit (s.reg Reg.FRT_STATUS) 1

/-- The bank that executes, 0 A or 1 B. -/
def State.activeBank (s : State) : Nat := s.regBits Reg.FRT_STATUS 0 0

/-- The image in bank b. -/
def State.bank (s : State) (b : Nat) : List Byte := if b = 0 then s.frt.bankA else s.frt.bankB

/-- The table in force; empty when none executes. -/
def State.table (s : State) : List Byte := if s.tableValid then s.bank s.activeBank else []

/-- Header fields (02 Table 2.1). -/
def hdr (t : List Byte) (off size : Nat) : Nat := fieldLE t off size
def tSlotUs (t : List Byte) : Nat := hdr t 0x10 1
def tMMin (t : List Byte) : Nat := hdr t 0x11 1
def tDroopAllow (t : List Byte) : Nat := hdr t 0x12 1
def tPartCount (t : List Byte) : Nat := hdr t 0x13 1
def tSlotCount (t : List Byte) : Nat := hdr t 0x14 2
def tTrimMax (t : List Byte) : Nat := hdr t 0x16 2
def tPMinW (t : List Byte) : Nat := hdr t 0x18 2
def tGCut (t : List Byte) : Nat := hdr t 0x1A 2
def tTStart (t : List Byte) : Nat := hdr t 0x1C 2
def tXVp (t : List Byte) : Nat := hdr t 0x1E 2
def tKernelCount (t : List Byte) : Nat := hdr t 0x20 2
def tFillCount (t : List Byte) : Nat := hdr t 0x22 2
def tPathCount (t : List Byte) : Nat := hdr t 0x24 2
def tLinkCount (t : List Byte) : Nat := hdr t 0x26 2
def tOffPart (t : List Byte) : Nat := hdr t 0x28 4
def tOffKern (t : List Byte) : Nat := hdr t 0x2C 4
def tOffFill (t : List Byte) : Nat := hdr t 0x30 4
def tOffSlot (t : List Byte) : Nat := hdr t 0x34 4
def tOffPath (t : List Byte) : Nat := hdr t 0x38 4
def tOffLink (t : List Byte) : Nat := hdr t 0x3C 4
def tTotalLen (t : List Byte) : Nat := hdr t 0x40 4
def tCrc (t : List Byte) : Nat := hdr t 0x44 4
/-- PHASE_NS, device time in ns (read as a signed number, as device time is). -/
def tPhaseNs (t : List Byte) : Int := toInt 64 (hdr t 0x48 8)
/-- Slot length in FCLK cycles (02 R44). -/
def tSlotLen (t : List Byte) : Nat := 1000 * tSlotUs t
/-- Sub-slots per slot (02 R45). -/
def tSubs (t : List Byte) : Nat := 8 * tSlotUs t
/-- Frame length in device-time ns (02 R44, "Frame instants"). -/
def tFrameNs (t : List Byte) : Nat := tSlotCount t * tSlotUs t * 1000

/-- A range of a partition (02 Table 2.2): first byte, last byte, and its permissions. -/
structure PartRange where
  base : Nat
  last : Nat
  r : Bool
  w : Bool
  sy : Bool
  landing : Bool
deriving DecidableEq, Repr

/-- The descriptor at position i of the partition section. -/
def partDesc (t : List Byte) (i : Nat) : List Byte := (t.drop (tOffPart t + 144 * i)).take 144

/-- Range j of a descriptor. -/
def descRange (d : List Byte) (j : Nat) : PartRange :=
  let b := fieldLE d (0x10 + 16 * j) 8
  let l := fieldLE d (0x18 + 16 * j) 8
  { base := bits b 47 12 * 4096, last := bits l 47 12 * 4096 + 4095, r := bit l 63, w := bit l 62, sy := bit l 61,
    landing := bit l 60 }

/-- The ranges of a descriptor. -/
def descRanges (d : List Byte) : List PartRange := (List.range (fieldLE d 3 1)).map (descRange d)

/-- The descriptor of partition p in table t. -/
def partOf (t : List Byte) (p : Nat) : Option (List Byte) :=
  ((List.range (tPartCount t)).map (partDesc t)).find? (fun d => fieldLE d 0 1 == p)

/-- The ranges of partition p in the table in force. -/
def State.partRanges (s : State) (p : Nat) : List PartRange :=
  match partOf s.table p with
  | some d => descRanges d
  | none => []

/-- Partition p of table t is latency-critical. -/
def partLC (t : List Byte) (p : Nat) : Bool :=
  match partOf t p with
  | some d => fieldLE d 1 1 == 0
  | none => false

/-- CRITICALITY of partition p. -/
def partCrit (t : List Byte) (p : Nat) : Nat :=
  match partOf t p with
  | some d => fieldLE d 2 1
  | none => 0

/-- A whole extent lies within one range of the partition that satisfies ok (05 R163). -/
def inRange (rs : List PartRange) (ok : PartRange → Bool) (a n : Nat) : Bool :=
  rs.any (fun r => ok r && decide (r.base ≤ a) && decide (a + n ≤ r.last + 1))

/-- The kernel directory entry k (02 Table 2.3). -/
def kernEntry (t : List Byte) (k : Nat) : List Byte := (t.drop (tOffKern t + 64 * k)).take 64
def kClass (e : List Byte) : Nat := fieldLE e 2 1
def kPart (e : List Byte) : Nat := fieldLE e 3 1
def kVat (e : List Byte) : Nat := fieldLE e 4 1
def kPairVat (e : List Byte) : Nat := fieldLE e 6 1
def kFlags (e : List Byte) : Nat := fieldLE e 7 1
def kEntry (e : List Byte) : Nat := fieldLE e 8 8
def kNIssue (e : List Byte) : Nat := fieldLE e 0x10 4
def kDStall (e : List Byte) : Nat := fieldLE e 0x14 4
def kCDecl (e : List Byte) : Nat := fieldLE e 0x18 4
def kDoneCell (e : List Byte) : Nat := fieldLE e 0x1C 2 % 16384
def kStatusAddr (e : List Byte) : Nat := fieldLE e 0x20 8

/-- Fill list f: its header and entries (02 Tables 2.4, 2.5). -/
def fillList (t : List Byte) (f : Nat) : List Byte := (t.drop (tOffFill t + 528 * f)).take 528
def fVat (l : List Byte) : Nat := fieldLE l 0 1
def fPart (l : List Byte) : Nat := fieldLE l 1 1
def fCount (l : List Byte) : Nat := fieldLE l 2 1
def fFlags (l : List Byte) : Nat := fieldLE l 3 1
def fEntry (l : List Byte) (i : Nat) : Nat := fieldLE l (16 + 8 * i) 8

/-- The slot record of slot n, and the entry of Vat v in it (02 Table 2.6). -/
def slotRec (t : List Byte) (n : Nat) : List Byte := (t.drop (tOffSlot t + 80 * n)).take 80
def slotEntry (t : List Byte) (n v : Nat) : Nat := fieldLE (slotRec t n) (8 * v) 8
def eType (e : Nat) : Nat := bits e 63 60
def eOwner (e : Nat) : Nat := bits e 55 44
def eHeir (e : Nat) : Nat := bits e 43 36
def eStart (e : Nat) : Bool := bit e 35
def eArg (e : Nat) : Nat := bits e 31 0
def slotPath (t : List Byte) (n : Nat) : Nat := fieldLE (slotRec t n) 0x40 2
def slotLink (t : List Byte) (n : Nat) : Nat := fieldLE (slotRec t n) 0x42 2

/-- Byte of path map p, row r, sub-slot j (02 Table 2.7). -/
def pathByte (t : List Byte) (p r j : Nat) : Nat :=
  fieldLE t (tOffPath t + p * 240 * tSlotUs t + r * tSubs t + j) 1

/-- Byte of link map q, port x, sub-slot j. -/
def linkByte (t : List Byte) (q x j : Nat) : Nat :=
  fieldLE t (tOffLink t + q * 48 * tSlotUs t + x * tSubs t + j) 1

/-- The slot of the current frame and the sub-slot in it, by the FCLK cycles since the slot began (02 R45). -/
def State.slotNow (s : State) : Nat := s.regBits Reg.FRT_SLOT_NOW 15 0
def State.subNow (s : State) : Nat := (s.fclk - s.frt.slotStart) / 125

/-- The owner of segment row r in sub-slot j of the present slot; idle with no table or outside the written slot (02 R43, R47). -/
def State.ownerIn (s : State) (j r : Nat) : Nat :=
  let t := s.table
  if s.tableValid && decide (j < tSubs t) then pathByte t (slotPath t s.slotNow) r j else 0x10

/-- The owner of segment row r in the present sub-slot. -/
def State.owner (s : State) (r : Nat) : Nat := s.ownerIn s.subNow r

/-- RUN_KERNEL and PARTITION of FRT_VAT_STATEv (02 Table 2.14); 0xFFF means none. -/
def State.runKernel (s : State) (v : Nat) : Nat := s.regBits (Reg.FRT_VAT_STATE v) 47 36
def State.runPart (s : State) (v : Nat) : Nat := s.regBits (Reg.FRT_VAT_STATE v) 35 32
def State.vatInReset (s : State) (v : Nat) : Bool := bit (s.reg (Reg.FRT_VAT_STATE v)) 29

/-- The kernel directory entry of the kernel running on Vat v. -/
def State.runEntry (s : State) (v : Nat) : List Byte := kernEntry s.table (s.runKernel v)

/-- The kernel running on Vat v belongs to a latency-critical class (02 Table 2.3 CLASS). -/
def State.runLC (s : State) (v : Nat) : Bool := s.runKernel v != 0xFFF && kClass (s.runEntry v) == 0

/-- Run data of Vat v. -/
def State.run (s : State) (v : Nat) : SlotRun := s.frt.runs.getD v SlotRun.reset

/-- Run data of Vat v changed by f. -/
def State.modRun (s : State) (v : Nat) (f : SlotRun → SlotRun) : State :=
  { s with frt := { s.frt with runs := listModify f s.frt.runs v } }

end Sys2Proof.Machine
end

