-- ==== Sys2Proof/Machine/Precision.lean ====
section
/-! DEFINITION. Arithmetic of the solver and the planner in either precision (10 R279): patterns of FP32 or FP64, subnormals read and written as
zeros, each operation rounded once to nearest even. -/

namespace Sys2Proof.Machine

/-- FP32 or FP64 (10 Table 10.2, PREC). -/
inductive Prec where
  | single | double
deriving DecidableEq, Repr

/-- Bytes of an element. -/
def Prec.size : Prec → Nat
  | .single => 4
  | .double => 8

/-- The value of a pattern; a subnormal reads as a zero of its sign. -/
def Prec.val : Prec → Nat → FV
  | .single, w => ewp (BitVec.ofNat 32 w)
  | .double, w =>
    let neg := w.testBit 63
    let ex := bits w 62 52
    let fr := bits w 51 0
    if ex = 2047 then (if fr = 0 then .inf neg else .nan)
    else if ex = 0 then .fin neg 0 (-1074)
    else .fin neg (fr + 2 ^ 52) ((ex : Int) - 1075)

/-- The FP64 pattern of a value, rounded once; overflow to infinity, flush below 2^-1022. -/
def out64 : FV → Nat
  | .nan => 0x7FF8000000000000
  | .inf neg => b2n neg * 2 ^ 63 + 0x7FF0000000000000
  | .fin neg m e =>
    if m = 0 then b2n neg * 2 ^ 63
    else
      let r := roundSig 53 m e
      let x := r.2 + 52
      if x > 1023 then b2n neg * 2 ^ 63 + 0x7FF0000000000000
      else if x < -1022 then b2n neg * 2 ^ 63
      else b2n neg * 2 ^ 63 + (x + 1023).toNat * 2 ^ 52 + (r.1 - 2 ^ 52)

/-- The pattern of a value in a precision. -/
def Prec.out : Prec → FV → Nat
  | .single, v => (out32 v).toNat
  | .double, v => out64 v

def Prec.add (p : Prec) (a b : Nat) : Nat := p.out ((p.val a).add (p.val b))
def Prec.sub (p : Prec) (a b : Nat) : Nat := p.out ((p.val a).add (p.val b).neg)
def Prec.mul (p : Prec) (a b : Nat) : Nat := p.out ((p.val a).mul (p.val b))
/-- a * b + c with one rounding. -/
def Prec.fma (p : Prec) (a b c : Nat) : Nat := p.out (((p.val a).mul (p.val b)).add (p.val c))
/-- -a * b + c with one rounding. -/
def Prec.fnma (p : Prec) (a b c : Nat) : Nat := p.out ((((p.val a).neg).mul (p.val b)).add (p.val c))

/-- The exact quotient of two values, with a sticky bit. -/
def FV.div : FV → FV → FV
  | .nan, _ => .nan
  | _, .nan => .nan
  | .inf _, .inf _ => .nan
  | .inf x, .fin y _ _ => .inf (x != y)
  | .fin x _ _, .inf y => .fin (x != y) 0 0
  | .fin x m e, .fin y n f =>
    if n = 0 then (if m = 0 then .nan else .inf (x != y))
    else if m = 0 then .fin (x != y) 0 0
    else
      let r := quotient m n
      .fin (x != y) r.1 (r.2 + e - f)

/-- The square root of a value, with a sticky bit; of a negative value NaN, of a zero that zero. -/
def FV.sqrt : FV → FV
  | .nan => .nan
  | .inf neg => if neg then .nan else .inf false
  | .fin neg m e =>
    if m = 0 then .fin neg 0 0
    else if neg then .nan
    else
      let k : Nat := if e % 2 = 0 then 128 else 129
      let n := m * 2 ^ k
      let q := isqrt n
      .fin false (2 * q + (if q * q = n then 0 else 1)) ((e - k) / 2 - 1)

def Prec.div (p : Prec) (a b : Nat) : Nat := p.out ((p.val a).div (p.val b))
def Prec.sqrt (p : Prec) (a : Nat) : Nat := p.out ((p.val a).sqrt)

/-- a <= b as real numbers; false with a NaN. -/
def FV.le : FV → FV → Bool
  | .nan, _ => false
  | _, .nan => false
  | .inf a, .inf b => a || !b
  | .inf a, _ => a
  | _, .inf b => !b
  | .fin a m e, .fin b n f => decide (scaled a m e (min e f) ≤ scaled b n f (min e f))

def Prec.le (p : Prec) (a b : Nat) : Bool := (p.val a).le (p.val b)
def Prec.lt (p : Prec) (a b : Nat) : Bool := (p.val a).le (p.val b) && !(p.val b).le (p.val a)

/-- The value is neither NaN nor infinite. -/
def Prec.finite (p : Prec) (a : Nat) : Bool := match p.val a with | .fin _ _ _ => true | _ => false

/-- |a|. -/
def Prec.abs (p : Prec) (a : Nat) : Nat := a % 2 ^ (8 * p.size - 1)

/-- The larger of two; NaN if either is. -/
def Prec.max (p : Prec) (a b : Nat) : Nat := if p.finite a = false ∧ !p.le a a then a else if !p.le b b then b else if p.le a b then b else a

/-- A pattern of precision p as a pattern of precision q, rounded once. -/
def Prec.conv (p q : Prec) (a : Nat) : Nat := q.out (p.val a)

/-- An element list from bytes. -/
def Prec.elems (p : Prec) (l : List Byte) : List Nat := (List.range (l.length / p.size)).map (fun i => fieldLE l (p.size * i) p.size)
def Prec.bytes (p : Prec) (l : List Nat) : List Byte := (l.map (toLE p.size)).flatten

end Sys2Proof.Machine
end

