-- ==== Sys2Proof/Machine/SolverNum.lean ====
section
/-! DEFINITION. The numerics of the least-squares solver: the job descriptor, the system of a job, Cholesky with its pivot rule, iterations and
residuals (10 R273, R277 to R286). -/

namespace Sys2Proof.Machine

/-! ### The descriptor (Table 10.2) -/

def jdClass (d : List Byte) : Nat := fieldLE d 0 1
def jdPrec (d : List Byte) : Prec := if fieldLE d 1 1 = 0 then .single else .double
def jdPart (d : List Byte) : Nat := fieldLE d 2 1
def jdWs (d : List Byte) : Bool := bit (fieldLE d 3 1) 0
def jdRunToCap (d : List Byte) : Bool := bit (fieldLE d 3 1) 1
def jdSparse (d : List Byte) : Bool := bit (fieldLE d 3 1) 2
def jdCap (d : List Byte) : Nat := fieldLE d 4 1
def jdBs (d : List Byte) : Nat := fieldLE d 5 1
def jdNshift (d : List Byte) : Nat := fieldLE d 6 2
def jdN1 (d : List Byte) : Nat := fieldLE d 8 4
def jdN2 (d : List Byte) : Nat := fieldLE d 0xC 4
def jdN3 (d : List Byte) : Nat := fieldLE d 0x10 4
def jdStride (d : List Byte) : Nat := fieldLE d 0x14 4
def jdTau (d : List Byte) : Nat := fieldLE d 0x18 8
def jdLambda (d : List Byte) : Nat := fieldLE d 0x20 8
def jdAbs (d : List Byte) : Nat := fieldLE d 0x28 8
def jdRel (d : List Byte) : Nat := fieldLE d 0x30 8
def jdMu (d : List Byte) : Nat := fieldLE d 0x38 8
def jdIn0 (d : List Byte) : Nat := fieldLE d 0x40 8
def jdIn1 (d : List Byte) : Nat := fieldLE d 0x48 8
def jdIn2 (d : List Byte) : Nat := fieldLE d 0x50 8
def jdSol (d : List Byte) (r : Nat) : Nat := fieldLE d 0x58 8 + r * jdStride d
def jdShift (d : List Byte) : Nat := fieldLE d 0x60 8
def jdReady (d : List Byte) : Nat := fieldLE d 0x68 8
def jdThr (d : List Byte) : Nat := fieldLE d 0x70 8

def one64 : Nat := 0x3FF0000000000000

/-- The job lies within the limits of Table 10.1 that its descriptor shows (R273). -/
def jdLimits (d : List Byte) : Bool :=
  let n := jdN1 d
  decide (fieldLE d 1 1 ≤ 1) && if jdClass d = 0 then
    if jdSparse d then decide (1 ≤ jdBs d) && decide (jdBs d ≤ 6) && decide (1 ≤ n) && decide (n ≤ 1536) && n % jdBs d == 0 &&
      decide (1 ≤ jdN2 d) && decide (jdN2 d ≤ 65536)
    else decide (1 ≤ n) && decide (n ≤ 1536)
  else if jdClass d = 1 then
    decide (1 ≤ n) && decide (n ≤ 4096) && decide (1 ≤ jdN2 d) && decide (jdN2 d ≤ 65536) && decide (1 ≤ jdN3 d) &&
      decide (jdN3 d ≤ 262144) && fieldLE d 1 1 == 1
  else jdClass d == 2 && decide (1 ≤ n) && decide (n ≤ 256) && decide (1 ≤ jdN2 d) && decide (jdN2 d ≤ 1024)

/-- An FP64 pattern at or above zero, or above it, as a real number: a subnormal counts as what it stands for (Table 10.2 gives conditions, no arithmetic). -/
def dNonNeg (w : Nat) : Bool := w == 2 ^ 63 || decide (w ≤ 0x7FF0000000000000)
def dPos (w : Nat) : Bool := w != 0 && decide (w ≤ 0x7FF0000000000000)

/-- An element of a precision at or above zero. -/
def Prec.nonNeg (p : Prec) (w : Nat) : Bool :=
  match p with
  | .single => w == 2 ^ 31 || decide (w ≤ 0x7F800000)
  | .double => dNonNeg w

/-- The other fields satisfy Table 10.2. -/
def jdFields (d : List Byte) : Bool :=
  decide (jdPart d ≤ 15) && decide (fieldLE d 3 1 < 8) && (!jdSparse d || jdClass d == 0) &&
    decide (1 ≤ jdCap d) && decide (jdCap d ≤ 64) && (jdSparse d || jdBs d == 0) && decide (jdNshift d ≤ 64) &&
    (jdClass d != 1 || jdNshift d == 0) && (jdClass d != 0 || jdSparse d || jdN2 d == 0) && (jdClass d == 1 || jdN3 d == 0) &&
    jdStride d % 256 == 0 && dNonNeg (jdTau d) && Prec.double.lt (jdTau d) one64 && dPos (jdLambda d) &&
    dNonNeg (jdAbs d) && dNonNeg (jdRel d) && (jdClass d != 0 || jdMu d == 0) && (jdNshift d != 0 || jdShift d == 0) &&
    (jdClass d != 0 || jdSparse d || jdIn2 d == 0) && fieldLE d 0x78 8 == 0

/-- Lengths in bytes of IN0, IN1, IN2 and the shift list. -/
def jdLens (d : List Byte) : List Nat :=
  let n := jdN1 d
  let e := (jdPrec d).size
  let sh := 4 * jdNshift d
  if jdClass d = 0 then
    if jdSparse d then [jdN2 d * jdBs d * jdBs d * e, n * e, 4 * jdN2 d, sh] else [n * (n + 1) / 2 * e, n * e, 0, sh]
  else if jdClass d = 1 then [32 * jdN3 d, 32 * n, 64 * n + 32 * jdN2 d, sh]
  else [jdN2 d * n * e, jdN2 d * e, jdN2 d * e, sh]

/-- The inputs: address and length of each. -/
def jdInputs (d : List Byte) : List (Nat × Nat) := ([jdIn0 d, jdIn1 d, jdIn2 d, jdShift d]).zip (jdLens d)

/-- Bytes of the vector of a record. -/
def jdVecLen (d : List Byte) : Nat := if jdClass d = 1 then 64 * jdN1 d + 32 * jdN2 d else jdN1 d * (jdPrec d).size

/-! ### Input layouts -/

/-- Block-list entries (row, column). -/
def blockList (l : List Byte) : List (Nat × Nat) := (List.range (l.length / 4)).map (fun i => (fieldLE l (4 * i) 2, fieldLE l (4 * i + 2) 2))

/-- Consecutive entries satisfy r. -/
def chained {α : Type} (r : α → α → Bool) : List α → Bool
  | [] => true
  | [_] => true
  | a :: b :: l => r a b && chained r (b :: l)

/-- Shift entries: first element, kind. -/
def shiftList (l : List Byte) : List (Nat × Nat) :=
  (List.range (l.length / 4)).map (fun i => let w := fieldLE l (4 * i) 4; (bits w 15 0, bits w 17 16))
def shiftLen (kind : Nat) : Nat := if kind = 1 then 6 else 3

/-- The shift list has kinds 1 to 3, lies inside the vector, and its entries do not overlap (R289). -/
def shiftsOk (n : Nat) (l : List Byte) : Bool :=
  let e := shiftList l
  (List.range (l.length / 4)).all (fun i => fieldLE l (4 * i) 4 < 2 ^ 18) &&
    e.all (fun x => x.2 != 0 && decide (x.1 + shiftLen x.2 ≤ n)) &&
    (List.range e.length).all (fun i => (List.range e.length).all (fun j =>
      i == j || (match e[i]?, e[j]? with
        | some a, some b => decide (a.1 + shiftLen a.2 ≤ b.1) || decide (b.1 + shiftLen b.2 ≤ a.1)
        | _, _ => true)))

/-- Observations of BA: CAM, LM. -/
def baObs (l : List Byte) : List (Nat × Nat) := (List.range (l.length / 32)).map (fun i => (fieldLE l (32 * i) 2, fieldLE l (32 * i + 4) 4))
def baFree (l : List Byte) : List Nat := (List.range (l.length / 32)).map (fun i => fieldLE l (32 * i + 0x10) 1)
def popcount6 (n : Nat) : Nat := ((List.range 6).filter (fun i => bit n i)).length

/-- The bytes of every record of r bytes from o on, n of them, are 0. -/
def zeroBytes (l : List Byte) (r o n : Nat) : Bool := (List.range (l.length / r)).all (fun i => fieldLE l (r * i + o) n == 0)

/-- The bytes that Table 10.3 makes 0. -/
def baZeros (n : Nat) (i0 i1 i2 : List Byte) : Bool :=
  zeroBytes i0 32 2 2 && zeroBytes i0 32 0x14 12 && zeroBytes i1 32 0x11 15 && zeroBytes (i2.take (64 * n)) 64 56 8 && zeroBytes (i2.drop (64 * n)) 32 24 8

/-- The inputs satisfy the layouts; for BA also the limits that only they show. -/
def inputsOk (d : List Byte) (ins : List (List Byte)) : Bool :=
  let i0 := ins.getD 0 []
  let i1 := ins.getD 1 []
  let i2 := ins.getD 2 []
  let n := jdN1 d
  shiftsOk n (ins.getD 3 []) &&
    (if jdClass d = 0 then
      !jdSparse d || ((blockList i2).all (fun e => decide (e.2 ≤ e.1) && decide (e.1 * jdBs d < n)) &&
        chained (fun a b => decide (a.2 < b.2) || (a.2 == b.2 && decide (a.1 < b.1))) (blockList i2))
    else if jdClass d = 1 then
      let o := baObs i0
      o.all (fun e => decide (e.1 < n) && decide (e.2 < jdN2 d)) && chained (fun a b => decide (a.2 ≤ b.2)) o &&
        (baFree i1).all (fun f => decide (f < 64)) && baZeros n i0 i1 i2 && decide (((baFree i1).map popcount6).sum ≤ 1536) &&
        (List.range (jdN2 d)).all (fun m => decide ((o.filter (fun e => e.2 == m)).length ≤ 255))
    else ((jdPrec d).elems i2).all (jdPrec d).nonNeg)

/-- For BA the limits that only the inputs show: free parameters, and observations per landmark (R273). -/
def baLimits (d : List Byte) (ins : List (List Byte)) : Bool :=
  jdClass d != 1 ||
    (decide (((baFree (ins.getD 1 [])).map popcount6).sum ≤ 1536) &&
      (List.range (jdN2 d)).all (fun m => decide (((baObs (ins.getD 0 [])).filter (fun e => e.2 == m)).length ≤ 255)))

/-- The hash of R285. -/
def jobHash (d : List Byte) (ins : List (List Byte)) : Nat :=
  if jdClass d = 0 ∧ jdSparse d then crc64 (ins.getD 2 [])
  else if jdClass d = 1 then
    crc64 (((baObs (ins.getD 0 [])).map (fun e => toLE 2 e.1 ++ toLE 4 e.2)).flatten ++ (baFree (ins.getD 1 [])).map (BitVec.ofNat 8))
  else crc64 []

/-- The signature as it stands in a record header at 0x1C: CLASS, BS, N1, N2, N3, HASH (R285, Table 10.4). -/
def jobSig (d : List Byte) (ins : List (List Byte)) : List Byte :=
  toLE 1 (jdClass d) ++ toLE 1 (jdBs d) ++ toLE 2 0 ++ toLE 4 (jdN1 d) ++ toLE 4 (jdN2 d) ++ toLE 4 (jdN3 d) ++ toLE 4 0 ++ toLE 8 (jobHash d ins)

/-! ### The system H x = g (R282) -/

/-- Sum of fused multiply-adds over a list, from s on. -/
def fmaSum (p : Prec) (s : Nat) (l : List (Nat × Nat)) : Nat := l.foldl (fun a e => p.fma e.1 e.2 a) s

/-- Element (i, k), i ≥ k, of H. The products of WBLS are w_i * a_ij rounded, then fused (DEDUCED, log entry 37). -/
def sysH (d : List Byte) (ins : List (List Byte)) (i k : Nat) : Nat :=
  let p := jdPrec d
  let n := jdN1 d
  let e := p.size
  if jdClass d = 0 then
    if jdSparse d then
      let b := jdBs d
      match (List.range (jdN2 d)).find? (fun x => (blockList (ins.getD 2 []))[x]? == some (i / b, k / b)) with
      | some x => fieldLE (ins.getD 0 []) ((x * b * b + i % b * b + k % b) * e) e
      | none => 0
    else fieldLE (ins.getD 0 []) ((k * n - k * (k - 1) / 2 + (i - k)) * e) e
  else
    let m := jdN2 d
    let a := fun (r c : Nat) => fieldLE (ins.getD 0 []) ((r * n + c) * e) e
    let w := fun (r : Nat) => fieldLE (ins.getD 2 []) (r * e) e
    let s := fmaSum p 0 ((List.range m).map (fun r => (p.mul (w r) (a r i), a r k)))
    if i = k then p.add s (Prec.double.conv p (jdMu d)) else s

/-- Element i of g. -/
def sysG (d : List Byte) (ins : List (List Byte)) (i : Nat) : Nat :=
  let p := jdPrec d
  let e := p.size
  if jdClass d = 0 then fieldLE (ins.getD 1 []) (i * e) e
  else
    let n := jdN1 d
    fmaSum p 0 ((List.range (jdN2 d)).map (fun r =>
      (p.mul (fieldLE (ins.getD 2 []) (r * e) e) (fieldLE (ins.getD 0 []) ((r * n + i) * e) e), fieldLE (ins.getD 1 []) (r * e) e)))

/-- e_i: first column of row i in the envelope (R280). -/
def envStart (d : List Byte) (ins : List (List Byte)) (i : Nat) : Nat :=
  if jdSparse d then
    ((blockList (ins.getD 2 [])).filter (fun e => e.1 == i / jdBs d)).foldl (fun m e => min m (e.2 * jdBs d)) i
  else 0

/-- H in full, row i column k. -/
def symH (h : List (List Nat)) (i k : Nat) : Nat := if k ≤ i then (h.getD i []).getD k 0 else (h.getD k []).getD i 0

/-- The lower triangle of H. -/
def lowerH (d : List Byte) (ins : List (List Byte)) : List (List Nat) :=
  (List.range (jdN1 d)).map (fun i => (List.range (i + 1)).map (fun k => sysH d ins i k))

/-! ### Cholesky (R280, R281) -/

/-- The pivot rule: d, none where not finite, and whether the pivot is regularised. tau and lam in the job's precision. -/
def pivot (p : Prec) (tau lam dmax s : Nat) : Option Nat × Bool :=
  let t := p.mul tau dmax
  if !p.finite s || !p.finite dmax then (none, false)
  else if p.le t s then (some s, false)
  else
    let q := p.sub t s
    let d := p.add s (if p.le lam q then q else lam)
    (if p.finite d then some d else none, true)

/-- Entry k of row i of L from the entries before it and the rows above. -/
def lowerEntry (p : Prec) (rows : List (List Nat)) (es : List Nat) (i k : Nat) (row : List Nat) (s : Nat) : Nat :=
  let lk := rows.getD k []
  let from' := max (es.getD i 0) (es.getD k 0)
  let t := (List.range k).foldl (fun a j => if j < from' then a else p.fnma (row.getD j 0) (lk.getD j 0) a) s
  p.div t (lk.getD k 0)

/-- Row i of L: its entries below the diagonal, then the pivot; none where a pivot is not finite. -/
def cholRow (p : Prec) (tau lam dmax : Nat) (rows : List (List Nat)) (es : List Nat) (h : List (List Nat)) (i : Nat) :
    Option (List Nat) × Bool :=
  let e := es.getD i 0
  let row := (List.range i).foldl (fun r k => r ++ [if k < e then 0 else lowerEntry p rows es i k r (symH h i k)]) []
  let s := (List.range i).foldl (fun a j => if j < e then a else p.fnma (row.getD j 0) (row.getD j 0) a) (symH h i i)
  let d := pivot p tau lam dmax s
  (d.1.map (fun x => row ++ [p.sqrt x]), d.2)

/-- The factor of h, none under NONFINITE, and the count of regularised pivots. -/
def cholesky (p : Prec) (tau lam : Nat) (es : List Nat) (h : List (List Nat)) : Option (List (List Nat)) × Nat :=
  let n := h.length
  let dmax := (List.range n).foldl (fun m i => if i = 0 then symH h 0 0 else p.max m (symH h i i)) 0
  (List.range n).foldl (fun acc i =>
    match acc.1 with
    | none => acc
    | some rows =>
      let r := cholRow p tau lam dmax rows es h i
      (r.1.map (fun x => rows ++ [x]), acc.2 + b2n r.2)) (some [], 0)

/-- L y = r, then L^T z = y (R280). -/
def solveL (p : Prec) (l : List (List Nat)) (es : List Nat) (r : List Nat) : List Nat :=
  let n := l.length
  let at' := fun (i k : Nat) => (l.getD i []).getD k 0
  let y := (List.range n).foldl (fun y k =>
    let s := (List.range k).foldl (fun a j => if j < es.getD k 0 then a else p.fnma (at' k j) (y.getD j 0) a) (r.getD k 0)
    y ++ [p.div s (at' k k)]) []
  (List.range n).reverse.foldl (fun z k =>
    let s := (List.range n).foldl (fun a i => if i ≤ k ∨ k < es.getD i 0 then a else p.fnma (at' i k) (z.getD (i - k - 1) 0) a) (y.getD k 0)
    p.div s (at' k k) :: z) []

/-! ### Residuals (R282) -/

/-- Row i of g - H x in a precision, columns ascending. -/
def residRow (p : Prec) (h : List (List Nat)) (g x : List Nat) (i : Nat) : Nat :=
  (List.range h.length).foldl (fun a k => p.fnma (symH h i k) (x.getD k 0) a) (g.getD i 0)

/-- rho: the largest magnitude of g - H x in FP64. -/
def residNorm (p : Prec) (h : List (List Nat)) (g x : List Nat) : Nat :=
  let c := fun (l : List Nat) => l.map (p.conv .double)
  let h' := h.map c
  let r := (List.range h.length).map (fun i => Prec.double.abs (residRow .double h' (c g) (c x) i))
  r.foldl (fun m v => Prec.double.max m v) 0

/-- The test of R282. -/
def residPasses (d : List Byte) (g : List Nat) (rho : Nat) : Bool :=
  let gm := (g.map (fun v => Prec.double.abs ((jdPrec d).conv .double v))).foldl (fun m v => Prec.double.max m v) 0
  Prec.double.le rho (Prec.double.fma (jdRel d) gm (jdAbs d))

/-- One iteration of EST or WBLS from x: the next vector, none under NONFINITE, and the regularised pivots of its factorisation. -/
def linearStep (d : List Byte) (ins : List (List Byte)) (x : List Nat) : Option (List Nat) × Nat :=
  let p := jdPrec d
  let h := lowerH d ins
  let es := (List.range h.length).map (envStart d ins)
  let g := (List.range h.length).map (sysG d ins)
  let c := cholesky p (Prec.double.conv p (jdTau d)) (Prec.double.conv p (jdLambda d)) es h
  (c.1.map (fun l =>
    let dx := solveL p l es ((List.range h.length).map (residRow p h g x))
    (List.range h.length).map (fun i => p.add (x.getD i 0) (dx.getD i 0))), c.2)

/-- rho of x and whether it passes. -/
def linearTest (d : List Byte) (ins : List (List Byte)) (x : List Nat) : Nat × Bool :=
  let h := lowerH d ins
  let g := (List.range h.length).map (sysG d ins)
  let r := residNorm (jdPrec d) h g x
  (r, residPasses d g r)

/-- The state of a bundle adjustment as FP64 patterns. -/
def baWords (l : List Byte) : List Nat := (List.range (l.length / 8)).map (fun i => fieldLE l (8 * i) 8)

/-- The state with the words that Table 10.3 makes 0. -/
def baPad (n : Nat) (x : List Nat) : List Nat :=
  (List.range x.length).map (fun i => if (i < 8 * n ∧ i % 8 = 7) ∨ (8 * n ≤ i ∧ i % 4 = 3) then 0 else x.getD i 0)

/-! ### Stage costs (Table 10.5) -/

def ceilDiv (a b : Nat) : Nat := (a + b - 1) / b

/-- P: lanes of the column pipeline. -/
def jdLanes (d : List Byte) : Nat := if jdPrec d = .single then 256 else 128

/-- Order of the factored system. -/
def jdOrder (d : List Byte) (ins : List (List Byte)) : Nat := if jdClass d = 1 then ((baFree (ins.getD 1 [])).map popcount6).sum else jdN1 d

/-- R_k: rows of column k in the envelope. -/
def envRows (es : List Nat) (k : Nat) : Nat := ((es.drop k).filter (fun e => decide (e ≤ k))).length

def costFac (p : Nat) (es : List Nat) : Nat :=
  ((List.range es.length).map (fun k => ceilDiv (envRows es k * (k - es.getD k 0)) p + 12 + (if 1 < envRows es k then envRows es k - 1 + 12 else 0))).sum
def costSub (p : Nat) (es : List Nat) : Nat := 2 * (12 * es.length + ceilDiv ((List.range es.length).map (envRows es)).sum p)

/-- The stages of the running iteration, or of the test of iterate 0, with their costs: stage numbers of Table 10.6. -/
def slvStages (d : List Byte) (ins : List (List Byte)) (tested : Bool) (k : Nat) : List (Nat × Nat) :=
  let p := jdLanes d
  let n := jdN1 d
  let es := (List.range (jdOrder d ins)).map (envStart d ins)
  let res := (7, 32 + ceilDiv (n * n) p)
  let lin := (2, 64 + jdN3 d)
  let fac := (4, costFac p es)
  let sub := (5, costSub p es)
  if jdClass d = 1 then
    if !tested then [lin]
    else
      let seen := fun (l : Nat) => ((baObs (ins.getD 0 [])).filter (fun e => e.2 == l)).length
      [(3, 48 + ((List.range (jdN2 d)).map (fun l => max 4 (ceilDiv (18 * seen l * (seen l + 1)) p))).sum), fac, sub, (6, 48 + 4 * jdN2 d),
        (7, 32 + 4 * ((baFree (ins.getD 1 [])).filter (fun f => f != 0)).length + jdN2 d), lin]
  else if !tested then (if jdClass d = 2 then [(2, 32 + ceilDiv (jdN2 d * (n * (n + 1) / 2)) p)] else []) ++ [res]
  else if k = 0 then [fac, sub, res]
  else [sub, res]

/-- The stage reached t cycles after the first began, each taking its cost; the last goes on until its iterate is tested. -/
def stageAt : List (Nat × Nat) → Nat → Nat
  | [], _ => 0
  | [e], _ => e.1
  | e :: l, t => if t < e.2 then e.1 else stageAt l (t - e.2)

end Sys2Proof.Machine
end

