-- ==== Sys2Proof/Machine/Registers.lean ====
section
/-! DEFINITION. Reading registers: the register table's rows by key, the registers whose value is read from the state of their
block, the side effects of RC and RA reads (00 R9), and the snapshot areas (01 R38, 17 R460). -/

namespace Sys2Proof.Machine

/-- The key lies in the array of the row. -/
def RegRow.covers (r : RegRow) (k : Nat) : Bool :=
  let b := k / 0x100000
  let o := k % 0x100000
  decide (r.blk ≤ b) && decide (b < r.blk + r.nblk) && decide (r.off ≤ o) &&
    (let d := o - r.off
     if r.n1 = 1 then d == 0
     else decide (d / r.s1 < r.n1) &&
      (if r.n2 = 1 then d % r.s1 == 0 else d % r.s1 % r.s2 == 0 && decide (d % r.s1 / r.s2 < r.n2)))

/-- The row of the register at key k; none at a reserved offset. -/
def rowAt (k : Nat) : Option RegRow := regTable.find? (fun r => r.covers k)

/-- The block index is one of Table 1.12 (01 R37). -/
def blockAssigned (b : Nat) : Bool :=
  b ≤ 0x12 || (0x20 ≤ b && b ≤ 0x3B) || (0x40 ≤ b && b ≤ 0x42)

/-- Key of the register at a local address of register space (01 R37). -/
def keyOfAddr (a : Nat) : Nat := a - 0x300000000000

/-- Key of PFX_ERR of a block (01 Table 1.13). -/
def errKey (blk : Nat) : Nat := regKey blk 4

/-- The doubt line shows doubt: every state of the pair but DL_P = 0, DL_N = 1 (01 R22). -/
def State.lineDoubt (s : State) : Bool := !(s.line.dlP == false && s.line.dlN == true)

/-- AUTH as the registers and the state word code it (15 Table 15.9). -/
def authCode : Auth → Nat
  | .main => 0
  | .fallback => 1
  | .handbackPending => 2

/-- A list of small numbers as a bit mask. -/
def maskOf (l : List Nat) : Nat := l.foldl (fun m i => m ||| (2 ^ i)) 0

/-- RIND_STATUS (15 Table 15.9); the doubt line as the last RCLK cycle read it (01 R22). -/
def State.rindStatus (s : State) : Nat :=
  authCode s.auth + 4 * b2n s.safe + 8 * b2n (decide (0 < s.line.run)) + 16 * (maskOf s.fbx.swPorts % 256) + 4096 * b2n s.fbx.actqSw

/-- FBX_STATUS (15 Table 15.10). -/
def State.fbxStatus (s : State) : Nat :=
  b2n s.fbx.active.isSome + 2 * b2n s.fbx.pendingTrj.isSome + 4 * b2n s.fbx.playing + 8 * b2n s.fbx.deflt +
    16 * b2n s.fbx.endReached + 256 * (s.fbx.reject % 256) +
    65536 * ((match s.fbx.active with | some t => t.seq | none => 0) % 65536)

/-- SAF_STATUS (15 Table 15.8); the lane-test bit is stored. -/
def State.safStatus (s : State) : Nat :=
  b2n s.line.dlP + 2 * s.regBits Reg.SAF_STATUS 1 1 + 256 * (s.reg Reg.SAF_DOUBT_FIRST % 256)

/-- TB_STATUS (13 Table 13.5). -/
def State.tbStatus (s : State) : Nat :=
  s.tb.st + 4 * s.regBits Reg.TB_CTRL 0 0 + 8 * b2n s.tb.inRange + 256 * min s.tb.lockRun 255 + 65536 * min s.tb.outRun 255

/-- The record named by a SEQ: in the buffer or in its MRAM slot (17 R455, R456). -/
def State.recordOf (s : State) (q : Nat) : Option EvRecord :=
  match s.evr.buffer.find? (fun r => r.seq == q) with
  | some r => some r
  | none =>
    match s.evr.mram.find? (fun e => e.1 == q % 131072) with
    | some e => if e.2.seq == q then some e.2 else none
    | none => none

/-- Bytes 0x00 to 0x3B of a record (17 Table 17.13). -/
def EvRecord.body (r : EvRecord) : List Byte :=
  toLE 4 r.seq ++ toLE 4 r.optime ++ toLE 3 r.pcyc ++ toLE 1 r.kind ++ toLE 2 r.code ++ toLE 1 r.role ++ toLE 1 r.mbox ++
    toLE 8 r.rclk ++ toLE 4 r.frame ++ toLE 4 r.state ++ toLE 28 r.detail

/-- The 64 bytes of a record, its CRC last (17 R452). -/
def EvRecord.bytes (r : EvRecord) : List Byte := r.body ++ toLE 4 (crc32c r.body)

/-- The number of records posted after a cursor, modulo 2^32: 0 when the cursor names a record not yet posted. -/
def State.posted (s : State) (q : Nat) : Bool :=
  let ahead := (s.evr.nextSeq + 2 ^ 32 - q) % 2 ^ 32
  decide (0 < ahead) && decide (ahead ≤ 2 ^ 31)

/-- Where a window's cursor goes at a read, and whether SKIP sets (17 R456): a cursor older than the oldest record moves to it, one
that names a slot skipped as torn moves to the next held record. -/
def State.cursorAt (s : State) (q : Nat) : Nat × Bool :=
  let old := (s.evr.oldestSeq + 2 ^ 32 - q) % 2 ^ 32
  if old ≠ 0 ∧ old < 2 ^ 31 ∧ s.posted q then (s.evr.oldestSeq, true)
  else if s.posted q ∧ (s.recordOf q).isNone then
    match (s.evr.mram.map (fun e => e.2.seq) ++ s.evr.buffer.map (fun r => r.seq)).foldl
        (fun best x => if (decide ((x + 2 ^ 32 - q) % 2 ^ 32 < 2 ^ 31) &&
            (match best with | some b => decide ((x + 2 ^ 32 - q) % 2 ^ 32 < (b + 2 ^ 32 - q) % 2 ^ 32) | none => true)) = true
          then some x else best) none with
    | some x => (x, true)
    | none => (q, false)
  else (q, false)

/-- Word w of the window whose cursor is q; zeros for a record not yet posted (17 R456). -/
def State.windowWord (s : State) (q w : Nat) : Nat :=
  match s.recordOf (s.cursorAt q).1 with
  | some r => if s.posted (s.cursorAt q).1 then fieldLE r.bytes (8 * w) 8 else 0
  | none => 0

/-- EVR_STATUS (17 Table 17.14): flushing and the unflushed records from the recorder, the rest stored. -/
def State.evrStatus (s : State) : Nat :=
  putBits (putBit (s.reg Reg.EVR_STATUS) 0 s.evr.flushing) 28 16 s.evr.buffer.length

/-- Vat n. -/
def State.vat (s : State) (n : Nat) : Vat := s.vats.getD n Vat.reset

/-- Vat n changed by f. -/
def State.modVat (s : State) (n : Nat) (f : Vat → Vat) : State := { s with vats := listModify f s.vats n }

/-- The core of Vat n changed by f. -/
def State.modCore (s : State) (n : Nat) (f : VatCore → VatCore) : State := s.modVat n (fun v => { v with core := f v.core })

/-- The outstanding descriptors of a mover: queued, and pushed but not yet entered (03 R107). -/
def moverCount (c : VatCore) (m : Nat) : Nat :=
  (c.movers.getD m Mover.reset).queue.length +
    (c.flights.filter (fun f => match f.dest with | .mpush k _ => k == m | _ => false)).length

/-- VAT_STATUS (03 Table 3.16). -/
def vatStatus (v : Vat) : Nat :=
  b2n v.running + 2 * b2n v.faulted + 4 * b2n (match v.core.hold with | .swait .. => true | _ => false) +
    8 * b2n (match v.core.hold with | .yield _ => true | _ => false) + 16 * (v.core.loops.length % 16)

/-- VCLK cycles since the first long word (03 R83, RDC); the count goes on after the kernel has ended (DESIGN CHOICE, log entry 51: 03 R112 defines VAT_VCYC for the
running kernel only). -/
def vatVcyc (v : Vat) : Nat := match v.cyc0 with | some c => v.cyc - c | none => 0

/-- Derived registers of the VAT_ block of Vat n, by offset (03 Table 3.15). ISSUING stays 1 while WAITC, YIELD or SWAIT holds issue and after END until the kernel completes
(DESIGN CHOICE, log entry 51: 03 R112 does not define the bit). -/
def vatDerived (v : Vat) (off : Nat) : Option Nat :=
  if off = 0x14 then some (vatStatus v)
  else if off = 0x30 then some (b2n v.issuing * 2 ^ 31 + v.core.pc / 128 % 2 ^ 19)
  else if off = 0x38 then some (vatVcyc v)
  else if off = 0x40 then some (moverCount v.core 0)
  else if off = 0x44 then some (moverCount v.core 1)
  else none

/-! Scan unit and attention support: registers read from their block's state (08 Tables 8.6, 8.8; 07 Tables 7.13, 7.14). -/

/-- An executed chunk of stream m has not yet completed (08 R238). -/
def VatCore.inFlight (c : VatCore) (m : Nat) : Bool :=
  c.chunk.any (fun k => k.op.stream == m) ||
    c.flights.any (fun f => match f.dest with
      | .scnStart op => op.stream == m
      | .scnDone k _ _ _ => k == m
      | _ => false)

/-- The swap engine of Vat v. -/
def State.swap (s : State) (v : Nat) : SwapEng := s.swaps.getD v SwapEng.reset

/-- Streams a and b of Vat v name one bank pair. -/
def State.samePair (s : State) (v a b : Nat) : Bool :=
  let p := fun (m : Nat) => (bits (s.reg (Reg.SCN_STR_CFG v m)) 41 40, bits (s.reg (Reg.SCN_STR_CFG v m)) 35 32)
  p a == p b

/-- Another valid entry that names the pair of stream m is IN, RESIDENT or OUT (08 R240). -/
def State.pairHeld (s : State) (v m : Nat) : Bool :=
  (List.range 64).any (fun j =>
    let st := s.regBits (Reg.SCN_STR_STATE v j) 2 0
    decide (1 ≤ st) && decide (st ≤ 3) && j != m && bit (s.reg (Reg.SCN_STR_CFG v j)) 63 && s.samePair v m j)

/-- SCN_STR_STATEm: ST and DISP stored, IN_FLIGHT and WAIT_PAIR as they stand (08 Table 8.8). -/
def State.strState (s : State) (v m : Nat) : Nat :=
  putBit (putBit (s.reg (Reg.SCN_STR_STATE v m)) 5 ((s.vat v).core.inFlight m)) 4
    ((s.swap v).due.any (fun e => e.2.1 == m) && s.pairHeld v m)

/-- SCN_STATUS (08 Table 8.6). -/
def State.scnStatus (s : State) (v : Nat) : Nat :=
  let w := s.swap v
  b2n (decide ((s.vat v).cyc < (s.vat v).core.scnUntil)) + 2 * b2n w.busy.isSome +
    (match w.busy with | some b => 4 * b2n b.inward + 256 * b.stream | none => 0)

def State.scnDerived (s : State) (v off : Nat) : Option Nat :=
  if off = 0x14 then some (s.scnStatus v)
  else if 0x1000 ≤ off ∧ off < 0x1800 ∧ (off - 0x1000) % 32 = 0x18 then some (s.strState v ((off - 0x1000) / 32))
  else none

/-- ATT_STATUS (07 Table 7.14): announced commands are the doorbell cell's value less those read (07 R215). -/
def State.attStatus (s : State) (v : Nat) : Nat :=
  let w := s.walkers.getD v Walker.reset
  let ahead := (s.cell v w.dbCell + 2 ^ 64 - w.count) % 2 ^ 64
  b2n w.cmd.isSome + 2 * b2n (decide ((s.vat v).cyc < (s.vat v).core.massUntil)) + 256 * w.last + 65536 * min ahead 65535

/-! The Xexisha link and the migration engine: registers read from their block's state. -/

/-- The device's own ID (01 R35). -/
def State.devId (s : State) : Nat := s.regBits Reg.XSL_CFG 5 0

/-- HOPS of XSL_CFG. -/
def State.hops (s : State) : Nat := s.regBits Reg.XSL_CFG 13 8

/-- L_max in ns from the registers in force (14 R367). -/
def State.lmax (s : State) : Nat :=
  (s.hops + 1) * s.reg Reg.XSL_RES_MAX + s.hops * (285 + s.reg Reg.XSL_WIRE_MAX) + 230

/-- The quarantine Q = 2 * L_max (14 R361). -/
def State.quarantine (s : State) : Nat := 2 * s.lmax

/-- Port p. -/
def State.port (s : State) (p : Nat) : XPort := s.xsl.ports.getD p XPort.reset
def State.modPort (s : State) (p : Nat) (f : XPort → XPort) : State := { s with xsl := { s.xsl with ports := listModify f s.xsl.ports p } }

/-- Tags eligible for issue: those never used, and those whose quarantine has passed (14 R361). -/
def State.tagsFree (s : State) : Nat := 65536 - s.xsl.fresh + s.xsl.ready.length

/-- Derived registers of the XSL_ block (14 Table 14.5). -/
def State.xslDerived (s : State) (k : Nat) : Option Nat :=
  if k = Reg.XSL_STATUS then
    some ((List.range 6).foldl (fun m p => m + (if (s.port p).st = 2 then 2 ^ p else 0)) 0 + 256 * s.devId)
  else if k = Reg.XSL_TAGS_FREE then some s.tagsFree
  else match (List.range 6).find? (fun p => k == Reg.XSL_PSTAT p) with
    | some p =>
      let x := s.port p
      some (x.st + 4 * b2n x.dupId + 256 * (x.neighbour % 64) + 65536 * (x.wire % 65536))
    | none => none

/-- MIG_STATUS (05 Table 5.10): IPT_VALID and RES_READY stored. -/
def State.migStatus (s : State) : Nat :=
  s.reg Reg.MIG_STATUS % 8 - 2 * s.regBits Reg.MIG_STATUS 1 1 + 2 * b2n (!s.mig.fills.isEmpty) + 256 * s.mig.queue.length +
    65536 * min 255 (s.mig.fills.filter (fun f => f.demand)).length

/-- Harp engine e. -/
def State.engineOf (s : State) (e : Nat) : HarpEngine := s.harp.getD e HarpEngine.reset

/-- HARP_STATUSe (06 Table 6.6). -/
def State.harpStatus (s : State) (e : Nat) : Nat :=
  let h := s.engineOf e
  b2n h.armed + 2 * b2n (!h.frames.isEmpty) + 4 * b2n h.golden + 256 * h.last +
    65536 * (match h.frames with | f :: _ => f.written % 65536 | [] => 0)

def State.harpDerived (s : State) (k : Nat) : Option Nat :=
  (List.range 4).findSome? (fun e => if k = Reg.HARP_STATUS e then some (s.harpStatus e) else none)

/-- SLV_STATUS (10 Table 10.6). Within an iteration the stages take the cycles of Table 10.5 (DESIGN CHOICE, log entry 37: these are upper bounds). -/
def State.slvStatus (s : State) : Nat :=
  let pend := 65536 * maskOf (s.slv.pending.map (fun q => q.slot))
  match s.slv.run with
  | some r =>
    let stage := if !r.loaded then 1 else stageAt (slvStages r.desc r.ins r.tested r.k) (s.fclk - r.since)
    1 + 2 * r.job.slot + 16 * stage + 256 * r.k + pend
  | none =>
    match s.slv.outs with
    | o :: _ => 1 + 2 * o.job.slot + 16 * 8 + 256 * o.iter + pend
    | [] => pend

/-- PLN_STATUS (11 Table 11.7). The layers of SWEEP take the cycles of Table 11.5, after the load of layer 0 (DESIGN CHOICE, log entry 38: these are upper bounds). -/
def State.plnStatus (s : State) : Nat :=
  match s.pln.run with
  | some r =>
    let layer := if r.stage = 3 then stageAt ((List.range 64).zip (r.layers.map (fun c => max 525 c))) (s.fclk - r.since - 525) else 0
    1 + 2 * r.stage + 16 * b2n r.pinned + 32 * r.buf + 256 * layer
  | none => 0

/-! The loop engine and the servo ports (12 Tables 12.5, 12.6). -/

def State.loopStatus (s : State) : Nat := bits (s.reg Reg.LOOP_CTRL) 0 0 + 2 * b2n s.lp.slip + 4 * b2n s.lp.swap + 8 * s.lp.bank
def LoopAxis.state (x : LoopAxis) : Nat :=
  x.st + 4 * b2n x.pend + 8 * b2n x.sat + 16 * b2n x.stale + 32 * b2n x.miss + 256 * x.cause + 65536 * min 65535 x.timer
def LoopPort.stat (x : LoopPort) : Nat := b2n x.up + 2 * b2n x.lost + 256 * x.misses + 65536 * x.seq
def State.loopDerived (s : State) (k : Nat) : Option Nat :=
  if k = Reg.LOOP_STATUS then some s.loopStatus
  else if k = Reg.LOOP_TBL_DATA then
    (let w := s.reg Reg.LOOP_TBL_ADDR
     let key := 2048 * bits w 21 16 + 1024 * bits w 10 10 + bits w 9 0
     some (match s.lp.writes.reverse.find? (fun e => e.1 == key) with | some e => e.2 | none => mapGet 0 s.lp.table key))
  else if Reg.LOOP_KP 0 ≤ k ∧ k < Reg.LOOP_KP 64 then
    (let x := s.lp.axes.getD ((k - Reg.LOOP_KP 0) / 0x80) LoopAxis.reset
     let o := (k - Reg.LOOP_KP 0) % 0x80
     if o = 0x38 then some x.state
     else if o = 0x40 then some x.fb
     else if o = 0x48 then some (x.word % 2 ^ 32 + 2 ^ 32 * x.ep)
     else if o = 0x50 then some x.vf
     else if o = 0x54 then some x.iv
     else none)
  else none
def State.srvDerived (s : State) (k : Nat) : Option Nat :=
  if k = Reg.SRV_STATUS then
    some ((List.range 8).foldl (fun m p =>
      let x := s.lp.ports.getD p LoopPort.reset
      m + 2 ^ p * b2n x.up + 2 ^ (8 + p) * b2n x.lost) 0)
  else (List.range 8).findSome? (fun p => if k = Reg.SRV_PSTAT p then some (s.lp.ports.getD p LoopPort.reset).stat else none)

/-! Clocks and power (16). -/

/-- MAXM of Vat v, 48 to 52 (16 R411). -/
def maxm (v : Nat) : Nat := 48 + Config.fuse v % 5

/-- T_HARD in °C: the largest junction temperature of the grade (16 R418, 19 R508). -/
def tHard : Nat := if Config.automotive then 125 else 110

/-- Weight of activity event i; 0 for 6 and 7 (16 Table 16.7). -/
def actWeight (i : Nat) : Nat := if i < 6 then (Config.actWeight i).toNat else 0

def State.clkPwrDerived (s : State) (k : Nat) : Option Nat :=
  if k = Reg.PWR_THARD then some tHard
  else if k = Reg.PWR_TABLE then some (if s.tableValid then tPMinW s.table + 65536 * tMMin s.table else 0)
  else if Reg.CLK_FUSE 0 ≤ k ∧ k ≤ Reg.CLK_FUSE 7 then some (maxm ((k - Reg.CLK_FUSE 0) / 4))
  else if Reg.PWR_ACT_W 0 ≤ k ∧ k ≤ Reg.PWR_ACT_W 7 then some (actWeight ((k - Reg.PWR_ACT_W 0) / 4))
  else none

/-! The TSN MACs (13 R351, Table 13.6). -/

def State.tport (s : State) (m : Nat) : TsnPort := s.tsn.getD m TsnPort.reset

/-- Position in the cycle, ns. -/
def GateList.pos (g : GateList) (t : Int) : Nat := ((t - g.base) % ((max 1 g.cycle : Nat) : Int)).toNat

/-- Segments of one cycle: start, end, gates; the last lasts to the end, a longer list is cut. -/
def gateSegs (cycle : Nat) : Nat → List (Nat × Nat) → List (Nat × Nat × Nat)
  | _, [] => []
  | a, [(_, g)] => if a < cycle then [(a, cycle, g)] else []
  | a, (d, g) :: l => if a < cycle then (a, min (a + d) cycle, g) :: gateSegs cycle (a + d) l else []

/-- Gates at time t. -/
def GateList.gates (g : GateList) (t : Int) : Nat :=
  match (gateSegs g.cycle 0 g.entries).find? (fun e => decide (e.1 ≤ g.pos t) && decide (g.pos t < e.2.1)) with
  | some e => e.2.2
  | none => 0xFF

/-- Gates of port m now. -/
def State.gatesNow (s : State) (m : Nat) : Nat := match (s.tport m).gcl with | some g => g.gates s.nowNs % 256 | none => 0xFF

/-- TSN_PSTAT of port m: LINK_UP and the gates while the port is enabled (DESIGN CHOICE, log entry 43), GCL_PENDING. -/
def State.tsnPstat (s : State) (m : Nat) : Nat :=
  let en := s.regBits (Reg.TSN_PCFG m) 0 0
  en + 2 * b2n (s.tport m).pend.isSome + 256 * en * s.gatesNow m

/-! Sensor ingest (09 Tables 9.9, 9.11). -/

/-- The bits of ING_CTX_FILT that Table 9.11 lists for a KIND; the others are RSV. -/
def filtMask (kind : Nat) : Nat :=
  if kind = 0 then 0x073F3F0F else if kind = 3 then 2 ^ 60 - 1 else 2 ^ 57 - 1

/-- ING_STATUS: a receiver is synchronised once it has taken a packet header since it was enabled, a CAN controller is on the bus while it is enabled (DESIGN
CHOICE, log entry 34). -/
def State.ingStatus (s : State) : Nat :=
  (List.range 8).foldl (fun m p => m + 2 ^ p * (s.regBits Reg.ING_STATUS p p * s.regBits (Reg.ING_CSI_CFG p) 0 0)) 0 +
    65536 * (s.regBits (Reg.ING_CAN_CFG 0) 34 34 + 2 * s.regBits (Reg.ING_CAN_CFG 1) 34 34)

def State.ingDerived (s : State) (k : Nat) : Option Nat :=
  let o := k % 0x100000
  if k = Reg.ING_STATUS then some s.ingStatus
  else if 0x1000 ≤ o ∧ o < 0x2800 ∧ o % 64 = 8 then some (s.reg k &&& filtMask (s.regBits (k - 8) 1 0))
  else none

/-! Trace (17 R464, Table 17.17). -/

/-- Bytes 0 to 7 of a packet. -/
def TracePkt.word0 (p : TracePkt) : Nat := p.src % 256 + 256 * (p.typ % 256) + 65536 * (p.time % 2 ^ 48)

/-- The packet of TYPE 0xFF that follows discarded ones carries their number; its SRC is that of the last of them (DESIGN CHOICE, log entry 44). -/
def State.lostPacket (s : State) : List TracePkt := if s.traceDrop.1 = 0 then [] else [⟨s.traceDrop.2, 0xFF, ofInt 48 s.nowNs, s.traceDrop.1⟩]

/-- The oldest packet leaves the FIFO; with the room that returns the packet for those discarded enters it (17 R464). -/
def State.dropTrace (s : State) : State := { s with trace := s.trace.drop 1 ++ s.lostPacket, traceDrop := (0, 0) }

/-- A read of OBS_TRC_POP0 with PINS = 0 takes the oldest packet; its second half goes to OBS_TRC_POP1. -/
def State.popTrace (s : State) : State :=
  match s.trace with
  | p :: _ => if bit (s.reg Reg.OBS_MODE) 8 then s else (s.setReg Reg.OBS_TRC_POP1 (p.data % 2 ^ 64)).dropTrace
  | [] => s

/-- The registers whose value is their block's state. -/
def State.derived (s : State) (k : Nat) : Option Nat :=
  if 0x20 ≤ k / 0x100000 ∧ k / 0x100000 ≤ 0x27 then vatDerived (s.vat (k / 0x100000 - 0x20)) (k % 0x100000)
  else if 0x28 ≤ k / 0x100000 ∧ k / 0x100000 ≤ 0x2F then (if k % 0x100000 = 0x14 then some (s.attStatus (k / 0x100000 - 0x28)) else none)
  else if 0x30 ≤ k / 0x100000 ∧ k / 0x100000 ≤ 0x37 then s.scnDerived (k / 0x100000 - 0x30) (k % 0x100000)
  else if k / 0x100000 = 0xD then s.xslDerived k
  else if k / 0x100000 = 6 then s.harpDerived k
  else if k / 0x100000 = 4 then s.ingDerived k
  else if k / 0x100000 = 9 then s.loopDerived k
  else if k / 0x100000 = 0xF ∨ k / 0x100000 = 0x10 then s.clkPwrDerived k
  else if k / 0x100000 = 0xA then s.srvDerived k
  else if k / 0x100000 = 0xC then ((List.range 4).find? (fun m => k == Reg.TSN_PSTAT m)).map s.tsnPstat
  else if k = Reg.OBS_TRC_LEVEL then some (min s.trace.length 8191)
  else if k = Reg.MIG_STATUS then some s.migStatus
  else if k = Reg.SLV_STATUS then some s.slvStatus
  else if k = Reg.PLN_STATUS then some s.plnStatus
  else if k = Reg.TB_NOW then some (ofInt 64 s.nowNs)
  else if k = Reg.TB_NOW_FRAC then some s.tb.fracLatch
  else if k = Reg.TB_COUNT then some (s.tb.count % 2 ^ 64)
  else if k = Reg.TB_OFS then some (ofInt 64 (s.tb.ofs / (2 ^ 16 : Nat)))
  else if k = Reg.TB_RATE then some (ofInt 32 s.tb.rate)
  else if k = Reg.TB_INTEG then some (ofInt 32 s.tb.integ)
  else if k = Reg.TB_STATUS then some s.tbStatus
  else if k = Reg.SAF_STATUS then some s.safStatus
  else if k = Reg.RIND_STATUS then some s.rindStatus
  else if k = Reg.RIND_RCLK_CNT then some (s.rclk % 2 ^ 64)
  else if k = Reg.FBX_STATUS then some s.fbxStatus
  else if k = Reg.FRT_SLOT_NOW then some (s.slotNow + 65536 * (s.subNow % 256))
  else if k = Reg.EVR_STATUS then some s.evrStatus
  else if k = Reg.EVR_NEXT_SEQ then some s.evr.nextSeq
  else if k = Reg.EVR_OLDEST_SEQ then some s.evr.oldestSeq
  else if k = Reg.EVR_OPTIME_S then some s.evr.optime
  else if k = Reg.EVR_OPTIME_H then some (s.evr.optime / 3600)
  else if k = Reg.EVR_PCYC then some s.evr.pcyc
  else if k = Reg.EVR_TORN_CNT then some s.evr.torn.length
  else if k = Reg.EVR_CUR_F then some s.evr.curF
  else if k = Reg.EVR_CUR_O then some s.evr.curO
  else if Reg.EVR_WIN_F 0 ≤ k ∧ k ≤ Reg.EVR_WIN_F 7 then some (s.windowWord s.evr.curF ((k - Reg.EVR_WIN_F 0) / 8))
  else if Reg.EVR_WIN_O 0 ≤ k ∧ k ≤ Reg.EVR_WIN_O 7 then some (s.windowWord s.evr.curO ((k - Reg.EVR_WIN_O 0) / 8))
  else none

/-- The value a read of the register at key k returns (00 R9): write-only registers read 0, an RA log its oldest entry, 0 when
empty. -/
def State.readReg (s : State) (k : Nat) : Nat :=
  match rowAt k with
  | none => 0
  | some r =>
    match r.acc with
    | .wo => 0
    | .ra => (if k = Reg.OBS_TRC_POP0 then (match s.trace with | p :: _ => if bit (s.reg Reg.OBS_MODE) 8 then 0 else p.word0 | [] => 0)
       else match mapGet [] s.logs k with | e :: _ => e | [] => 0)
    | _ => match s.derived k with
      | some v => v
      | none => s.reg k

/-- An entry appended to the log at register k, which holds at most n entries, the oldest replaced. -/
def State.pushLog (s : State) (k n e : Nat) : State :=
  { s with logs := mapSet [] s.logs k (logPush n (mapGet [] s.logs k) e) }

/-- A read of word 7 of window F: the cursor moves past the record shown; SKIP and EMPTY tell how the read went
(17 R456; that a later read clears them is a DESIGN CHOICE, log entry 9). -/
def State.advanceF (s : State) : State :=
  let c := s.cursorAt s.evr.curF
  let s1 := s.setReg Reg.EVR_STATUS (putBit (putBit (s.reg Reg.EVR_STATUS) 3 c.2) 4 (!s.posted c.1))
  if s.posted c.1 then { s1 with evr := { s1.evr with curF := (c.1 + 1) % 2 ^ 32 } } else s1

/-- A read of word 7 of window O, in the same way. -/
def State.advanceO (s : State) : State :=
  let c := s.cursorAt s.evr.curO
  let s1 := s.setReg Reg.EVR_STATUS (putBit (putBit (s.reg Reg.EVR_STATUS) 5 c.2) 6 (!s.posted c.1))
  if s.posted c.1 then { s1 with evr := { s1.evr with curO := (c.1 + 1) % 2 ^ 32 } } else s1

/-- The side effect of a read of the register at key k: RC clears, RA pops, word 7 of a window advances its cursor, TB_NOW latches the
fraction (00 R9, 13 R353, 17 R456). -/
def State.readEffect (s : State) (k : Nat) : State :=
  if k = Reg.TB_NOW then { s with tb := { s.tb with fracLatch := s.nowFrac } }
  else if k = Reg.OBS_TRC_POP0 then s.popTrace
  else if k = Reg.EVR_WIN_F 7 then s.advanceF
  else if k = Reg.EVR_WIN_O 7 then s.advanceO
  else
    match rowAt k with
    | none => s
    | some r =>
      match r.acc with
      | .rc => s.setReg k 0
      | .ra => { s with logs := mapSet [] s.logs k ((mapGet [] s.logs k).drop 1) }
      | _ => s

end Sys2Proof.Machine
end

