-- ==== Sys2Proof/Machine/Snapshot.lean ====
section
/-! DEFINITION. The snapshot areas: which register each takes at a trigger (01 R38, 17 R460 and the snapshot rows of the
register tables of spec 02 to 17). -/

namespace Sys2Proof.Machine

/-- One snapshot register takes the present value of another. -/
def snapPair (s : State) (p : Nat × Nat) : Nat × Nat := (p.1, s.readReg p.2)

/-- Snapshot values of the VAT_ block of Vat n (03 Table 3.18). -/
def snapVat (s : State) (n : Nat) : List (Nat × Nat) :=
  let v := s.vat n
  [(Reg.VAT_SNP_PC n, s.readReg (Reg.VAT_PC n)), (Reg.VAT_SNP_VCYC n, vatVcyc v), (Reg.VAT_SNP_STATUS n, vatStatus v),
    (Reg.VAT_SNP_PRED n, v.core.preds % 65536),
    (Reg.VAT_SNP_MVCNT n, moverCount v.core 0 % 8192 + 65536 * (moverCount v.core 1 % 8192))] ++
    (List.range 64).map (fun k => (Reg.VAT_SNP_S n k, (mapGet 0 v.core.sregs k).toNat))

/-- The snapshot registers that copy one register of their block (06 to 17). -/
def snapCopies : List (Nat × Nat) :=
  [(Reg.MIG_SNP_STATUS, Reg.MIG_STATUS), (Reg.ING_SNP_STATUS, Reg.ING_STATUS), (Reg.FUS_SNP_STATUS, Reg.FUS_STATUS),
    (Reg.SLV_SNP_STATUS, Reg.SLV_STATUS), (Reg.PLN_SNP_STATUS, Reg.PLN_STATUS), (Reg.LOOP_SNP_TICK, Reg.LOOP_TICK),
    (Reg.LOOP_SNP_STATUS, Reg.LOOP_STATUS), (Reg.TB_SNP_NOW, Reg.TB_NOW), (Reg.TB_SNP_STATUS, Reg.TB_STATUS),
    (Reg.XSL_SNP_STATUS, Reg.XSL_STATUS), (Reg.XSL_SNP_LOST, Reg.XSL_LOST), (Reg.SAF_SNP_DOUBT, Reg.SAF_DOUBT),
    (Reg.SAF_SNP_STATUS, Reg.SAF_STATUS), (Reg.RIND_SNP_STATUS, Reg.RIND_STATUS), (Reg.RIND_SNP_RCLK, Reg.RIND_RCLK_CNT),
    (Reg.FBX_SNP_STATUS, Reg.FBX_STATUS), (Reg.CLK_SNP_STATUS, Reg.CLK_STATUS), (Reg.PWR_SNP_STATUS, Reg.PWR_STATUS),
    (Reg.PWR_SNP_ENERGY, Reg.PWR_ENERGY), (Reg.EVR_SNP_NEXT, Reg.EVR_NEXT_SEQ), (Reg.MBX_SNP_STATE, Reg.MBX_STATE)] ++
  (List.range 4).map (fun k => (Reg.LAKE_SNP_STATUS k, Reg.LAKE_STATUS k)) ++
  (List.range 4).map (fun e => (Reg.HARP_SNP_STATUS e, Reg.HARP_STATUS e)) ++
  (List.range 8).map (fun n => (Reg.ATT_SNP_STATUS n, Reg.ATT_STATUS n)) ++
  (List.range 8).map (fun n => (Reg.ATT_SNP_HEAD n, Reg.ATT_RING_HEAD n)) ++
  (List.range 8).map (fun n => (Reg.SCN_SNP_STATUS n, Reg.SCN_STATUS n)) ++
  ((List.range 8).map (fun n => (List.range 64).map (fun m => (Reg.SCN_SNP_STR n m, Reg.SCN_STR_STATE n m)))).flatten ++
  (List.range 16).map (fun c => (Reg.FUS_SNP_CH c, Reg.FUS_CH_STATE c)) ++
  (List.range 8).map (fun j => (Reg.SLV_SNP_STAT j, Reg.SLV_JOB_STAT j)) ++
  (List.range 8).map (fun p => (Reg.SRV_SNP_PSTAT p, Reg.SRV_PSTAT p)) ++
  (List.range 4).map (fun m => (Reg.TSN_SNP_PSTAT m, Reg.TSN_PSTAT m))

/-- The snapshot registers that take a part of a register or of their block's state. -/
def snapParts (s : State) : List (Nat × Nat) :=
  (List.range 4).map (fun e => (Reg.HARP_SNP_FRAME e, (match (s.engineOf e).frames with | f :: _ => f.seq % 2 ^ 32 | [] => 0))) ++
  [(Reg.MIG_SNP_MISS, (s.mig.fills.filter (fun f => f.demand)).length),
    (Reg.PLN_SNP_SEQ, (match s.pln.run with | some r => ofInt 32 r.n | none => 0))] ++
  (List.range 96).map (fun c => (Reg.ING_SNP_SEQ c, s.readReg (Reg.ING_CTX_STAT c) % 2 ^ 32)) ++
  (List.range 64).map (fun a => (Reg.LOOP_SNP_AX a, s.readReg (Reg.LOOP_AXFB a) % 2 ^ 32 + 2 ^ 32 * (s.readReg (Reg.LOOP_AXOUT a) % 2 ^ 32))) ++
  (List.range 64).map (fun a => (Reg.FBX_SNP_IQ a, mapGet 0 s.fbx.iq a)) ++
  [(Reg.CLK_SNP_M, fromLE ((List.range 8).map (fun v => BitVec.ofNat 8 (s.reg (Reg.CLK_M v) % 64)))),
    (Reg.CG_SNP_STATUS, maskOf ((List.range 8).filter (fun k => s.readReg (Reg.CG_STATUS k) % 8 == 1)))]

/-- Every value the trigger latches, by snapshot register. -/
def State.snapValues (s : State) : List (Nat × Nat) :=
  ((List.range 8).map (snapVat s)).flatten ++ snapCopies.map (snapPair s) ++ snapParts s

/-- Every block latches its snapshot area (17 R460). -/
def State.latchSnapshots (s : State) : State :=
  (s.snapValues).foldl (fun t e => t.setReg e.1 e.2) s

/-- The global snapshot trigger with the sources active in its cycle (17 R460): while ARMED, SNP_SEQ, SNP_T and SNP_SRC are taken, ARMED
clears unless AUTO_REARM, and every block latches; otherwise only SNP_MISS_CNT counts. A source that follows in the HCLK cycle of a snapshot is one of that
snapshot. Without HCLK no block latches (01 R42). -/
def State.snapshotFire (s : State) (sources : Nat) : State :=
  if !s.mainClk then s
  else if s.now.snap = some s.fclk then s.setReg Reg.SNP_SRC (s.reg Reg.SNP_SRC ||| sources % 32)
  else if bit (s.reg Reg.SNP_CTRL) 0 then
    let s1 := s.latchSnapshots
    let s2 := s1.setReg Reg.SNP_SEQ ((s1.reg Reg.SNP_SEQ + 1) % 2 ^ 32)
    let s3 := s2.setReg Reg.SNP_T (ofInt 64 s.nowNs)
    let s4 := s3.setReg Reg.SNP_SRC (sources % 32)
    let s5 := s4.setReg Reg.SNP_CTRL (putBit (s4.reg Reg.SNP_CTRL) 0 (bit (s.reg Reg.SNP_CTRL) 1))
    { s5 with now := { s5.now with snap := some s.fclk } }
  else s.bump Reg.SNP_MISS_CNT

end Sys2Proof.Machine
end

