-- ==== Sys2Proof/Machine/Ops.lean ====
section
/-! DEFINITION. The named operations many meanings share: the state word, event records, trace packets, doubt and takeover,
register writes by access code, and completion of sync cells on this device. -/

namespace Sys2Proof.Machine

/-! ### The state word (17 R436, Table 17.6) -/

/-- FW of the state word: 1 STARTING, 2 IDLE, 3 RUNNING, 4 STOPPED, 6 SHUTDOWN, 7 HALTED. -/
def State.fw (s : State) : Nat := s.regBits Reg.MBX_STATE 7 0

/-- The state word with every field but FW and LIFECYCLE brought up to date: firmware reports the machine's state (17 R436). -/
def State.stateWord (s : State) : Nat :=
  let w := s.reg Reg.MBX_STATE
  let w := putBits w 9 8 (authCode s.auth)
  let w := putBits w 11 10 s.tb.st
  let w := putBits w 13 12 (s.regBits Reg.PWR_STATUS 1 0)
  let w := putBits w 15 14 (s.regBits Reg.OBS_MODE 1 0)
  let w := putBit w 18 (bit (s.reg Reg.FRT_STATUS) 5)
  let w := putBit w 19 s.lineDoubt
  putBit w 20 s.safe

/-- MSI-X vector v is raised (17 R430, R466). -/
def State.raiseVector (s : State) (v : Nat) : State := { s with msix := mapSet 0 s.msix v (mapGet 0 s.msix v + 1) }

/-- Where the notes of a cycle hold HOST_EVENT and HOST_ERR, which are registers of the host's BAR0 (17 Table 17.2). -/
def hostEventKey : Nat := 0x0F000044
def hostErrKey : Nat := 0x0F00004C

/-- Bits of HOST_EVENT become set; vector 16 tells of each new one (17 R430, Table 17.2). -/
def State.hostEv (s : State) (m : Nat) : State :=
  let a := s.noteSet hostEventKey m
  if s.hostEvent ||| m = s.hostEvent then a else ({ a with hostEvent := s.hostEvent ||| m }).raiseVector 16

/-- What the main complex does: nothing while its clocks stand still or it is held in reset (01 R42, 18 R467). -/
def State.onMain (s : State) (f : State → State) : State := if s.mainClk then f s else s

/-- Firmware brings MBX_STATE up to date and HOST_EVENT tells of an authority, doubt or firmware change (17 Table 17.2);
without its clocks it does not run (01 R42). -/
def State.syncState (s : State) : State :=
  if !s.mainClk then s else
  let w := s.stateWord
  let old := s.reg Reg.MBX_STATE
  let ev := b2n (bits w 9 8 != bits old 9 8 || bit w 19 != bit old 19)
  (s.setReg Reg.MBX_STATE w).hostEv ev

/-- A firmware state transition (17 R437, Table 17.7). -/
def State.setFw (s : State) (x : Nat) : State :=
  if s.fw = x then s
  else (s.setRegBits Reg.MBX_STATE 7 0 x).hostEv 2

/-! ### Event records (17 R452 to R454, R513) -/

/-- A record enters the Rind buffer: it takes SEQ, OPTIME, PCYC and RCLK, or is discarded and counted when 4,096 records wait; records of
KIND 0, 1 and 4 and the 2,048th unflushed record start a flush (17 R452, R454). -/
def State.post (s : State) (kind code role mbox frame stw detail : Nat) : State :=
  if s.evr.buffer.length ≥ 4096 then s.bump Reg.EVR_LOST_CNT
  else
    let r : EvRecord :=
      { seq := s.evr.nextSeq, optime := s.evr.optime, pcyc := s.evr.pcyc, kind := kind, code := code, role := role, mbox := mbox,
        rclk := s.rclk, frame := frame, state := stw, detail := detail }
    let flush := s.evr.flushing || kind == 0 || kind == 1 || kind == 4 || decide (s.evr.buffer.length + 1 ≥ 2048)
    let a := { s with evr := { s.evr with buffer := s.evr.buffer ++ [r], nextSeq := (s.evr.nextSeq + 1) % 2 ^ 32, flushing := flush } }
    if kind = 0 ∨ kind = 4 then a.hostEv 4 else a

/-- The low 32 bits of FRT_FRAME_CNT. -/
def State.frameLo (s : State) : Nat := s.reg Reg.FRT_FRAME_CNT % 2 ^ 32

/-- A record of a block on HD without a mailbox (17 Table 17.13). -/
def State.postHd (s : State) (kind code detail : Nat) : State :=
  s.post kind code 0 0xFF s.frameLo (s.reg Reg.MBX_STATE) detail

/-- A record of the Rind itself (17 Table 17.13: FRAME all ones, STATE 0). -/
def State.postRd (s : State) (kind code detail : Nat) : State := s.post kind code 0 0xFF 0xFFFFFFFF 0 detail

/-- An outcome record, KIND 1, of the block with the index blk (17 R513, Table 17.21). -/
def State.outcome (s : State) (blk code detail : Nat) : State := s.postHd 1 (blk * 256 + code) detail

/-! ### Trace packets (17 R464) -/

/-- A packet of an enabled source in TRACE mode enters the FIFO; a full FIFO discards it and counts. -/
def State.emit (s : State) (src ev a b : Nat) : State :=
  if s.regBits Reg.OBS_MODE 1 0 = 2 ∧ bit (s.reg Reg.OBS_TRC_SRC) src then
    if s.trace.length ≥ 4096 then { s.bump Reg.OBS_TRC_DROP_CNT with traceDrop := (s.traceDrop.1 + 1, src) }
    else { s with trace := s.trace ++ [⟨src, (Config.traceType src ev).toNat, ofInt 48 s.nowNs, (Config.traceData src a b).toNat⟩] }
  else s

/-! ### Authority (15 R396 to R398) -/

/-- The executor takes over at the present RCLK cycle (15 R398, R400): FALLBACK, RIND_TAKE_T latched and counted, playback of the active
trajectory from tau0 = t0 - acceptance while it is not older than AGE_MAX_MS, otherwise the default profile, which holds the axes of
FBX_AXEN whose last main word carried ENABLE at their position. -/
def State.takeover (s : State) : State :=
  let age := match s.fbx.active with | some t => s.rclk - t.accT | none => 0
  let ok := s.fbx.active.isSome && decide (age ≤ s.regBits Reg.FBX_TIMES 15 0 * 400000)
  let axes := (List.range 64).filter (fun a => bit (s.reg Reg.FBX_AXEN) a)
  let held := axes.filter (fun a => s.fbx.mainEn.contains a)
  let set := if ok then (match s.fbx.active with | some t => t.axes.map (fun x => x.axis) | none => []) else held
  let f := { s.fbx with
    playing := true, deflt := !ok, playSet := set, t0 := s.rclk, tau0 := age, endReached := false, actqSw := true,
    holdPos := held.map (fun a => (a, mapGet 0 s.fbx.fbPos a)), estop := [], ethSent := none, stepT := s.rclk, stillT := [] }
  let s1 := { s with auth := .fallback, fbx := f }
  ((s1.setReg Reg.RIND_TAKE_T s.rclk).bump Reg.RIND_TAKE_CNT).syncState

/-- The HANDBACK command (17 Table 17.8) that waits learns the status with which its request was cancelled: DEADLINE_MISS at HB_TO_MS (cause 3), else DOUBT. -/
def State.tellHandback (s : State) (cause : Nat) : State :=
  { s with firm := { s.firm with jobs := s.firm.jobs.map (fun j =>
      if j.op = 0x0106 ∧ j.ends = none then { j with ends := some (if cause = 3 then stDeadlineMiss else stDoubt, 0, s.reg Reg.MBX_STATE) } else j) } }

/-- A handback request is cancelled and the authority returns to FALLBACK (15 Table 15.5, outcome 0xC4). -/
def State.cancelHandback (s : State) (cause : Nat) : State :=
  let s1 := ({ s with auth := .fallback, fbx := { s.fbx with hbReqT := none, hbGo := false, hbAcc := false } }).tellHandback cause
  (s1.postRd 1 (0x41 * 256 + 0xC4) (cause + 256 * s.reg Reg.RIND_DOUBT_FIRST)).syncState

/-- Doubt acts on the authority (15 Table 15.5): MAIN is left by a takeover, HANDBACK_PENDING by a cancelled request; in FALLBACK nothing. -/
def State.doubtActs (s : State) (cause : Nat) : State :=
  match s.auth with
  | .main => s.takeover
  | .handbackPending => s.cancelHandback cause
  | .fallback => s

/-! ### Doubt (15 R376 to R378) -/

/-- What a doubt record says of its source (17 Table 17.20, KIND 0); 0xFF where it does not apply. -/
structure DoubtInfo where
  blk : Nat
  vat : Nat
  tile : Nat
  inst : Nat
  stream : Nat
  word : Nat
  addr : Nat

/-- A source that is none of Vat, tile, core and stream. -/
def DoubtInfo.plain (blk : Nat) : DoubtInfo := ⟨blk, 0xFF, 0xFF, 0xFF, 0xFF, 0, 0⟩

/-- DETAIL of the record. -/
def DoubtInfo.detail (d : DoubtInfo) : Nat :=
  d.vat + 2 ^ 8 * d.tile + 2 ^ 16 * d.inst + 2 ^ 24 * d.stream + 2 ^ 32 * (d.word % 2 ^ 32) + 2 ^ 64 * (d.addr % 2 ^ 64)

/-- The code is detected on the Rind (15 Table 15.1). -/
def onRind (code : Nat) : Bool := code == 0x90 || (0x92 ≤ code && code ≤ 0x97)

/-- Both doubt registers are all clear. -/
def State.noDoubtBits (s : State) : Bool := s.reg Reg.SAF_DOUBT == 0 && s.reg Reg.RIND_DOUBT == 0

/-- SAFE entry on 0x96 or 0x97: the executor stops, FALLBACK is shown (15 Table 15.5, R405). The executor's frame on a port's line, 122 RCLK cycles at most, ends before
the generator's first one there (12 R333): its stamp is moved so that the port is due then. -/
def State.enterSafe (s : State) : State :=
  { s with auth := .fallback, safe := true, fbx := { s.fbx with
      playing := false, hbReqT := none, hbGo := false, hbAcc := false, txT := s.fbx.txT.map (fun (e : Nat × Nat) => (e.1, e.2 + 122 - 4000)) } }.syncState

/-- The Rind sees a code: RIND_DOUBT_FIRST takes the first since both doubt registers were last all clear (15 R377). -/
def State.rindFirst (s : State) (code : Nat) : State :=
  if s.line.fresh then { (s.setReg Reg.RIND_DOUBT_FIRST code) with line := { s.line with fresh := false } } else s

/-- A doubt source fires (15 R376 to R378). A bit already latched only counts. A newly latched bit counts, becomes FIRST when both registers were
clear, posts one record and pulls the snapshot trigger; an HD bit asserts the line (held at 0, 0 until step 2 of start-up ends, 18 R483) and queues its code for
the bridge; an RD bit acts at once. Until the first
kick after a release of MC_RST the Rind raises none of 0x92, 0x93, 0x95 (18 R469). -/
def State.raise (s : State) (code : Nat) (d : DoubtInfo) : State :=
  let c := code - 0x80
  if onRind code then
    let s1 := s.bump (Reg.RIND_DOUBT_CNT c)
    if !s.wd.kicked ∧ (code = 0x92 ∨ code = 0x93 ∨ code = 0x95) then s
    else if bit (s.reg Reg.RIND_DOUBT) c then s1
    else
      let s2 := s1.rindFirst code
      let s3 := s2.hwSetBit Reg.RIND_DOUBT c
      let s4 := s3.postRd 0 (d.blk * 256 + code) d.detail
      let s5 := s4.snapshotFire 4
      if code = 0x96 ∨ code = 0x97 then (s5.doubtActs 2).enterSafe else s5.doubtActs 2
  else
    let s1 := s.bump (Reg.SAF_DOUBT_CNT c)
    if bit (s.reg Reg.SAF_DOUBT) c then s1
    else
      let s2 := if s.noDoubtBits then s1.setReg Reg.SAF_DOUBT_FIRST code else s1
      let s3 := s2.hwSetBit Reg.SAF_DOUBT c
      let s4 := { s3 with line := { s3.line with dlP := decide (2 < s.start.step), dlN := false, toSend := setInsert s3.line.toSend code } }
      let s5 := s4.postHd 0 (d.blk * 256 + code) d.detail
      ((s5.emit 12 0 code 0).snapshotFire 2).syncState

/-! ### Uncorrectable and correctable data (05 R160) -/

/-- A correctable-error counter steps; each multiple of 1,024 posts outcome 0xC0 (05 R160). -/
def State.countCE (s : State) (blk key : Nat) : State :=
  let s1 := s.bump key
  if (s1.reg key) % 1024 = 0 then s1.outcome blk 0xC0 (key % 0x100000 + 2 ^ 32 * s1.reg key) else s1

/-! ### Sync cells on this device (03 R97) -/

/-- A sync-cell operation of place i of R97 on a local cell address; no effect at any other address. -/
def State.cellOpAs (s : State) (i a : Nat) (op : CellOp) : State :=
  match regionOf a with
  | .cell v k => s.cellDo v k i op
  | _ => s

/-- A sync-cell operation from the fabric side. -/
def State.cellOp (s : State) (a : Nat) (op : CellOp) : State := s.cellOpAs 5 a op

/-- SADD of a completion: 1 for DONE, 1 and the failure count for any other status (03 R105). -/
def completionValue (status : Nat) : Nat := if status = 0 then 1 else 2 ^ 32 + 1

end Sys2Proof.Machine
end

