-- ==== Sys2Proof/Machine/Activity.lean ====
section
/-! DEFINITION. What the power controller counts while others work: the activity events of 16 Table 16.5 (R424) and the pulses of an LC window
(R417). Log entry 42 says what the model takes for one event. -/

namespace Sys2Proof.Machine

/-- n events of number i for partition q, 16 for none (R424). -/
def State.act (s : State) (q i n : Nat) : State :=
  if n = 0 then s
  else { s with pwr := { s.pwr with acts := mapSet 0 s.pwr.acts (8 * q + i) (mapGet 0 s.pwr.acts (8 * q + i) + n) } }

/-- The partition of the kernel running on Vat v; 16 in a self-test window and with no kernel (R424). -/
def State.actPart (s : State) (v : Nat) : Nat :=
  if (s.vat v).running && !(s.diag.slice.any (fun e => e.1 == v)) then s.regBits (Reg.FRT_VAT_STATE v) 35 32 else 16

/-- n events of number i on Vat v. -/
def State.vatAct (s : State) (v i n : Nat) : State := s.act (s.actPart v) i n

/-- 64-byte lines that n bytes at a touch. -/
def linesOf (a n : Nat) : Nat := if n = 0 then 0 else (a + n - 1) / 64 - a / 64 + 1

/-- An access of n bytes at local address a over the fabric: the ports and Pond of the Vats it meets (events 3 and 2). -/
def State.actTarget (s : State) (a n : Nat) : State :=
  match regionOf a with
  | .pond w => (s.vatAct w 3 (cdiv n 64)).vatAct w 2 (linesOf a n)
  | _ => s

/-- Bytes moved by Vat v's movers: within its own window a Pond access, else through its port (events 2 and 3). -/
def State.actMover (s : State) (v a n : Nat) : State :=
  match regionOf a with
  | .pond w => if w = v then s.vatAct v 2 (linesOf a n) else (s.vatAct v 3 (cdiv n 64)).actTarget a n
  | _ => s.vatAct v 3 (cdiv n 64)

/-- Bytes moved by a hub client for partition p, 16 for none (event 4). -/
def State.actHub (s : State) (p a n : Nat) : State := (s.act p 4 (cdiv n 64)).actTarget a n

/-- The LC window of Vat v begins: its pulse counts start from 0 (R417). -/
def State.winOpen (s : State) (v : Nat) : State := { s with pwr := { s.pwr with win := listSet s.pwr.win v (0, 0) } }

/-- The LC window of Vat v ends: pulses removed beyond floor(DROOP_ALLOW * P / 256) count in CLK_DROOP_OVERv (R417). -/
def State.winClose (s : State) (v : Nat) : State :=
  let w := s.pwr.win.getD v (0, 0)
  if tDroopAllow s.table * w.1 / 256 < w.2 then s.bump (Reg.CLK_DROOP_OVER v) else s

end Sys2Proof.Machine
end

