-- ==== Sys2Proof/Machine/Protect.lean ====
section
/-! DEFINITION. Error protection of Pond, hub SRAM, grid store and Lake (05 R159 to R162), and the fault and denial logs that every
initiator shares (05 R163, R171; 01 R34). -/

namespace Sys2Proof.Machine

/-- The block that owns the counters of a local address, its CE counter, UE counter and UE log (05 R170, 03 Table 3.15, 17 Table 17.18). -/
def eccRegs (a : Nat) : Option (Nat × Nat × Nat × Nat) :=
  match regionOf a with
  | .lake k => some (0x38 + k, Reg.LAKE_CE_CNT k, Reg.LAKE_UE_CNT k, Reg.LAKE_UE_LOG k)
  | .pond v => some (0x20 + v, Reg.VAT_POND_CE_CNT v, Reg.VAT_POND_UE_CNT v, Reg.VAT_POND_UE_LOG v)
  | .cell v _ => some (0x20 + v, Reg.VAT_POND_CE_CNT v, Reg.VAT_POND_UE_CNT v, Reg.VAT_POND_UE_LOG v)
  | .hub => some (0, Reg.MBX_HS_CE_CNT, Reg.MBX_HS_UE_CNT, Reg.MBX_HS_UE_LOG)
  | .grid => some (0, Reg.MBX_GS_CE_CNT, Reg.MBX_GS_UE_CNT, Reg.MBX_GS_UE_LOG)
  | _ => none

/-- The partitions of the table in force. -/
def State.partIds (s : State) : List Nat :=
  (List.range (tPartCount s.table)).map (fun i => fieldLE (partDesc s.table i) 0 1)

/-- The address lies in a W range of a latency-critical partition of the table in force (05 R160). -/
def State.inLcWrite (s : State) (a : Nat) : Bool :=
  s.partIds.any (fun p => partLC s.table p && inRange (s.partRanges p) (fun r => r.w) a 1)

/-- A protected word with a correctable error is corrected, counted and written back (05 R160). -/
def State.correct (s : State) (w : Nat) : State :=
  match eccRegs w with
  | some (blk, ce, _, _) => ({ s with upset := s.upset.filter (fun x => x != w) }).countCE blk ce
  | none => s

/-- A write that covers only part of protected words reads them first: what is correctable there is corrected and counted (05 R160). -/
def State.mend (s : State) (a n : Nat) : State :=
  ((wordsOf a n).filter (fun w => s.upset.contains w && !(decide (a ≤ w) && decide (w + 8 ≤ a + n)))).foldl State.correct s

/-- An uncorrectable word met by a reader of partition p: counted, logged, and doubt 0x89 where it lies in a W range of an LC partition
(05 R160). -/
def State.uncorrectable (s : State) (w p : Nat) (d : DoubtInfo) : State :=
  match eccRegs w with
  | some (_, _, ue, log) =>
    let s1 := (s.bump ue).pushLog log 16 (2 ^ 63 + (p % 16) * 2 ^ 48 + w)
    if s1.inLcWrite w then s1.raise 0x89 { d with addr := w } else s1
  | none => s

/-- A read of n bytes at a by partition p: every correctable word is corrected, every uncorrectable word recorded. -/
def State.eccRead (s : State) (a n p : Nat) (d : DoubtInfo) : State :=
  let ws := wordsOf a n
  let s1 := (ws.filter (fun w => s.upset.contains w)).foldl State.correct s
  (ws.filter (fun w => s.poison.contains w)).foldl (fun t w => t.uncorrectable w p d) s1

/-- The doubt information of a read by Vat v (17 Table 17.20). -/
def vatDoubt (s : State) (v : Nat) : DoubtInfo :=
  { (DoubtInfo.plain (0x20 + v)) with vat := v, word := s.runKernel v }

/-- A request that fails its range check or its reach is counted at the checker of client c and logged (05 R163, R171): kind 0 R, 1 W, 2 S. -/
def State.deny (s : State) (c p kind a : Nat) : State :=
  (s.bump (Reg.FRT_RC_DENY_CNT c)).pushLog Reg.FRT_RC_DENY_LOG 16
    (2 ^ 63 + (c % 16) * 2 ^ 56 + (p % 16) * 2 ^ 52 + (kind % 4) * 2 ^ 50 + a % 2 ^ 48)

/-- An entry of SAF_CMP_LOG (15 Table 15.8). -/
def State.cmpLog (s : State) (core inst tile kind lanes : Nat) : State :=
  s.pushLog Reg.SAF_CMP_LOG 16
    (2 ^ 63 + core * 2 ^ 56 + inst * 2 ^ 52 + tile * 2 ^ 50 + kind * 2 ^ 48 + lanes * 2 ^ 46 + s.frameLo)

end Sys2Proof.Machine
end

