-- ==== Sys2Proof/Machine/Fabric.lean ====
section
/-! DEFINITION. Requests on the fabric: reach (01 R34, Table 1.11), range checks (05 R163 to R165), path ownership (02 R43, R53), memory
reads and writes with their error marks (05 R160), and the image range (05 R145 to R147, R152). -/

namespace Sys2Proof.Machine

/-! ### Initiators and reach -/

/-- The client number of an initiator (01 Table 1.7). -/
def clientOf : Initiator → Nat
  | .vat v => v
  | .harp => 8
  | .ingest => 9
  | .fusion => 0xA
  | .solver => 0xB
  | .planner => 0xC
  | .migration => 0xD
  | .xexisha => 0xE
  | .hostDma => 0xF
  | .mgmt => 0xF

/-- Read, write, or sync-cell operation. -/
inductive Want where
  | r | w | s
deriving DecidableEq, Repr

/-- Kind 0 R, 1 W, 2 S of FRT_RC_DENY_LOG (05 Table 5.12). -/
def Want.code : Want → Nat
  | .r => 0
  | .w => 1
  | .s => 2

/-- The initiator may reach the region for the access (01 Table 1.11); the engine also its page table in hub SRAM (05 R164). -/
def reaches (i : Initiator) (reg : Region) (k : Want) : Bool :=
  match reg, k with
  | .lake _, .r => (match i with | .migration => false | .xexisha => false | _ => true)
  | .lake _, .w => true
  | .image, .r => (match i with | .migration => false | .xexisha => false | .hostDma => false | _ => true)
  | .pond _, .r => (match i with | .migration => false | .xexisha => false | .hostDma => false | _ => true)
  | .pond _, .w => (match i with | .migration => false | .hostDma => false | _ => true)
  | .cell _ _, .r => (match i with | .vat _ => true | .mgmt => true | _ => false)
  | .cell _ _, .s => (match i with | .hostDma => false | _ => true)
  | .hub, .r => (match i with | .xexisha => false | _ => true)
  | .hub, .w => true
  | .grid, .r => (match i with | .migration => false | .xexisha => false | .hostDma => false | _ => true)
  | .grid, .w => (match i with | .migration => false | .xexisha => false | .hostDma => false | _ => true)
  | .regs, .r => i == .mgmt
  | .regs, .w => i == .mgmt
  | _, _ => false

/-! ### Frame pools and the page-table region (05 R144, R146, R164) -/

/-- Lake frame of a Lake address. -/
def frameOf (a : Nat) : Nat := a / 0x200000

/-- Frame f belongs to the pool of its stack (05 R144). -/
def State.inPool (s : State) (f : Nat) : Bool :=
  decide (f < 49152) && decide (12288 - s.regBits (Reg.MIG_POOL (f / 12288)) 13 0 ≤ f % 12288)

/-- Local address of the page-table region. -/
def State.iptBase (s : State) : Nat := hubBase + s.regBits Reg.MIG_IPT_BASE 25 16 * 0x10000

/-- Bytes of the page-table region. -/
def iptSize : Nat := 8454144

/-- The extent is refused to the initiator whatever its ranges (05 R144, R164). -/
def State.reserved (s : State) (i : Initiator) (k : Want) (a n : Nat) : Bool :=
  let table := decide (a < s.iptBase + iptSize) && decide (s.iptBase < a + n)
  let pool := decide (a < 0x1800000000) && (s.inPool (frameOf a) || s.inPool (frameOf (a + n - 1)))
  (table || pool) && !(i == .migration) && !(i == .mgmt && k == .r)

/-- The engine's own check: Lake within a frame pool, hub SRAM within the page-table region (05 R164). Reservoir has no address. -/
def State.engineMay (s : State) (a n : Nat) : Bool :=
  match regionOf a with
  | .lake _ => s.inPool (frameOf a) && s.inPool (frameOf (a + n - 1))
  | .hub => decide (s.iptBase ≤ a) && decide (a + n ≤ s.iptBase + iptSize)
  | _ => true

/-- The partition's ranges admit the extent (05 R163); inbound Xexisha needs a LANDING range of some partition, the engine has checks of its own, and the
management processor, which acts for no partition, has none. -/
def State.inRanges (s : State) (i : Initiator) (p : Option Nat) (k : Want) (a n : Nat) : Bool :=
  let perm := fun (x : PartRange) => match k with | .r => x.r | .w => x.w | .s => x.sy
  match i, p with
  | .migration, _ => s.engineMay a n
  | .xexisha, _ => s.partIds.any (fun q => inRange (s.partRanges q) (fun x => x.landing && perm x) a n)
  | _, some q => inRange (s.partRanges q) perm a n
  | _, none => true

/-- A request for n bytes at local address a passes its checks (01 R34; 05 R163, R164). -/
def State.admits (s : State) (i : Initiator) (p : Option Nat) (k : Want) (a n : Nat) : Bool :=
  decide (0 < n) && decide (a + n ≤ 2 ^ 48) && reaches i (extentRegion a n) k && !s.reserved i k a n && s.inRanges i p k a n &&
    (k != .s || aligned a 8)

/-- A refused request is counted by the checker of its client (05 R163, R171). -/
def State.refuse (s : State) (i : Initiator) (p : Option Nat) (k : Want) (a : Nat) : State :=
  s.deny (clientOf i) (p.getD 0) k.code a

/-! ### Paths (02 Table 2.7, R53; 01 Tables 1.6, 1.8, 1.17) -/

/-- The die of a Vat or of a Lake stack: 0 CD0, 1 CD1. -/
def vatDie (v : Nat) : Nat := v / 4
def stackDie (k : Nat) : Nat := k / 2

/-- Rows from a compute die to the die of the initiator: none on the same die. -/
def rowsFrom (die : Nat) : Initiator → List Nat
  | .vat v => if vatDie v = die then [] else [if die = 0 then 20 else 21]
  | _ => [22 + 2 * die]

/-- Rows from the initiator to a compute die. -/
def rowsTo (die : Nat) : Initiator → List Nat
  | .vat v => if vatDie v = die then [] else [if die = 0 then 21 else 20]
  | _ => [23 + 2 * die]

/-- Rows between a Vat and the hub die: fabric to initiator, and initiator to fabric; none for a hub client. -/
def rowsHub (i : Initiator) (read : Bool) : List Nat :=
  match i with
  | .vat v => [(if read then 23 else 22) + 2 * vatDie v]
  | _ => []

/-- The port of the initiator itself. -/
def portRow (i : Initiator) (read : Bool) : List Nat :=
  match i with
  | .vat v => [if read then 8 + v.val else v.val]
  | _ => []

/-- The rows of a read or a write at a region; an access of a Vat to its own window uses no fabric (01 Table 1.8). -/
def pathRows (i : Initiator) (reg : Region) (read : Bool) : List Nat :=
  let far := fun (die row : Nat) => portRow i read ++ (if read then rowsFrom die i else rowsTo die i) ++ [row]
  match reg with
  | .lake k => far (stackDie k) (16 + k)
  | .pond v => if i == .vat (Fin.ofNat 8 v) then [] else far (vatDie v) (if read then v else 8 + v)
  | .cell v _ => if i == .vat (Fin.ofNat 8 v) then [] else far (vatDie v) (if read then v else 8 + v)
  | .hub => portRow i read ++ rowsHub i read ++ [26]
  | .grid => portRow i read ++ rowsHub i read ++ [27]
  | _ => []

/-- The client owns every direction of the path in the present sub-slot (02 R53). -/
def State.owns (s : State) (i : Initiator) (rows : List Nat) : Bool := rows.all (fun r => s.owner r == clientOf i)

/-- A path on which the request may move now; firmware and host DMA need none while no table gives one (log entry 44). -/
def State.pathOpen (s : State) (i : Initiator) (rows : List Nat) : Bool :=
  s.owns i rows || (!s.tableValid && clientOf i == 15)

/-- The present sub-slot is the first of its slot in which the client owns the path. -/
def State.firstOwned (s : State) (i : Initiator) (rows : List Nat) : Bool :=
  s.owns i rows && (List.range s.subNow).all (fun j => rows.any (fun r => s.ownerIn j r != clientOf i))

/-- Number of the present sub-slot from the frame start (02 R46). -/
def State.subGlobal (s : State) : Nat := (s.fclk - s.frt.frameStart) / 125

/-- The engine that HARP_SHARE in force names for the present sub-slot is e (06 R190). -/
def State.harpTurn (s : State) (e : Nat) : Bool := bits s.harpShare (2 * (s.subGlobal % 16) + 1) (2 * (s.subGlobal % 16)) == e

/-- A path on which the waiter's request may move now: its initiator owns it, and of the Harp engines it is this one's turn. -/
def State.waiterOpen (s : State) (who : Waiter) (i : Initiator) (rows : List Nat) : Bool :=
  s.pathOpen i rows && (match who with | .harp e => s.harpTurn e | _ => true)

/-! ### Data -/

/-- n bytes at a local address: a sync cell returns its value (01 R33), every other address its memory. -/
def State.readBytes (s : State) (a n : Nat) : List Byte :=
  match extentRegion a n with
  | .cell _ _ => (List.range n).map (fun i => ((toLE 8 (s.cellAt ((a + i) / 8 * 8))).getD ((a + i) % 8) 0))
  | _ => s.bytes a n

/-- Which of n bytes at a lie in poisoned words. -/
def State.poisonMask (s : State) (a n : Nat) : List Bool := (List.range n).map (fun i => s.poison.contains ((a + i) / 8 * 8))

/-- Bytes written at a with their error marks: a destination word that takes a poisoned byte is poisoned (05 R160). -/
def State.putBytes (s : State) (a : Nat) (l : List Byte) (mask : List Bool) : State :=
  let t := (s.mend a l.length).store a l
  { t with poison := ((List.range l.length).filter (fun i => mask.getD i false)).foldl (fun p i => setInsert p ((a + i) / 8 * 8)) t.poison }

/-! ### The image range (05 R145 to R147, R152) -/

/-- Base of the image range. -/
def imageBase : Nat := 0x100000000000

/-- Window page of an image-range address (05 R145). -/
def pageOf (a : Nat) : Nat := (a - imageBase) / 0x200000

/-- Local address of the leaf entry of a window page; none without a leaf (05 R145, R146). -/
def State.leafAddr (s : State) (page : Nat) : Option Nat :=
  let d := s.loadLE (s.iptBase + 0x8000 + 4 * (page / 1024)) 4
  if bit d 31 then some (s.iptBase + 0x10000 + bits d 8 0 * 0x4000 + 16 * (page % 1024)) else none

/-- Word 0 of the leaf entry of a page, 0 without a leaf (05 Table 5.4). -/
def State.leaf (s : State) (page : Nat) : Nat :=
  match s.leafAddr page with
  | some a => s.loadLE a 8
  | none => 0

def lfMapped (w : Nat) : Bool := bit w 63
def lfL (w : Nat) : Bool := bit w 62
def lfFill (w : Nat) : Bool := bit w 61
def lfPin (w : Nat) : Bool := bit w 60
def lfFault (w : Nat) : Bool := bit w 59
def lfR (w : Nat) : Bool := bit w 58
def lfSlot (w : Nat) : Nat := bits w 57 48
def lfLFrame (w : Nat) : Nat := bits w 47 32
def lfRFrame (w : Nat) : Nat := bits w 14 0

/-- The leaf entry of a page changed by f; the engine is the region's writer (05 R146). -/
def State.modLeaf (s : State) (page : Nat) (f : Nat → Nat) : State :=
  match s.leafAddr page with
  | some a => s.storeLE a 8 (f (s.loadLE a 8))
  | none => s

/-- The die whose copy translates for an initiator: a Vat's own; CD0 for a hub client (DESIGN CHOICE, log entry 27). -/
def dieOf : Initiator → Nat
  | .vat v => vatDie v
  | _ => 0

/-- The frame a die copy shows for a page (05 R147). -/
def State.dieFrame (s : State) (die page : Nat) : Option Nat :=
  match mapGet 0 s.mig.dies (2 ^ 23 * die + page) with
  | 0 => none
  | n + 1 => some n

/-- The parts of an extent of the image range, one per page: address and length. -/
def pageParts : Nat → Nat → Nat → List (Nat × Nat)
  | 0, _, _ => []
  | k + 1, a, n =>
    if n = 0 then []
    else
      let m := min n (0x200000 - a % 0x200000)
      (a, m) :: pageParts k (a + m) (n - m)

/-- The parts of n bytes at a. -/
def imageParts (a n : Nat) : List (Nat × Nat) := pageParts (n / 0x200000 + 2) a n

/-- Local Lake address of an image-range address whose page is in frame f. -/
def frameAddr (f a : Nat) : Nat := f * 0x200000 + a % 0x200000

/-- The die's copy of directory entry d (05 R147). -/
def State.dieDir (s : State) (die d : Nat) : Nat := mapGet 0 s.mig.dies (2 ^ 23 * die + 2 ^ 24 + d)

/-- A change of the engine's copy goes to both dies (05 R147): of L, value 1 + frame or 0 for not resident, or of a directory entry. -/
def State.sendUpdate (s : State) (entry v : Nat) : State :=
  { s with mig := { s.mig with updates := s.mig.updates ++ [(0, entry, v, s.fclk), (1, entry, v, s.fclk)] } }

/-- A read is held at its die (05 R152): for its page, or, already seen by the engine, for its path alone. -/
def State.holdRead (s : State) (who : Waiter) (i : Initiator) (p a n : Nat) (deadline : Option Nat) (seen : Bool) : State :=
  { s with mig := { s.mig with held := s.mig.held ++ [⟨who, a, n, dieOf i, p, deadline, seen⟩] } }

/-- The reads held on a page go to the engine again: its page has left Lake before they ran (05 R152, R157). -/
def State.unsee (s : State) (page : Nat) : State :=
  { s with mig := { s.mig with held := s.mig.held.map (fun h => if pageOf h.addr = page then { h with seen := false } else h) } }

/-- A resident page whose frame holds uncorrectable data, met by a reader of partition p, is withdrawn: L cleared, the frame out of use until the next cold reset, no
poison and no doubt (05 R161); the log says the pool (05 Table 5.11). -/
def State.withdraw (s : State) (page f p : Nat) : State :=
  let k := f / 12288
  let inside := fun (x : Nat) => decide (f * 0x200000 ≤ x) && decide (x < (f + 1) * 0x200000)
  let a := ((s.modLeaf page (fun w => putBit w 62 false)).sendUpdate page 0).unsee page
  let mg := { a.mig with lake := a.mig.lake.filter (fun e => e.1 != f), evicts := a.mig.evicts ++ [(⟨f, a.fclk, true⟩ : Evict)] }
  let b := { a with mig := mg, poison := a.poison.filter (fun x => !inside x) }
  let c := (b.bump (Reg.LAKE_UE_CNT k)).pushLog (Reg.LAKE_UE_LOG k) 16
    (2 ^ 63 + 2 ^ 62 + (p % 16) * 2 ^ 48 + ((s.poison.find? inside).getD (f * 0x200000)))
  c.bump (Reg.LAKE_BAD_FRAMES k)

/-- The uncorrectable words of n bytes at a in a frame pool withdraw the pages they hold (05 R161). -/
def State.withdrawAt (s : State) (a n p : Nat) : State :=
  (s.mig.lake.filter (fun e => frameOf a == e.1 || frameOf (a + n - 1) == e.1)).foldl
    (fun t e => if (wordsOf a n).any (fun w => t.poison.contains w && frameOf w == e.1) then t.withdraw e.2 e.1 p else t) s

/-- Some word of frame f in n bytes at a is uncorrectable. -/
def State.framePoisoned (s : State) (f a n : Nat) : Bool := s.poisoned (frameAddr f a) n

/-- One part of an image read: its bytes now, or held until its die copy shows the page and its initiator owns the path (05 R152, R161; 02 R53). -/
def State.readPart (s : State) (who : Waiter) (i : Initiator) (p a n : Nat) (deadline : Option Nat) : State × Option (List Byte) :=
  match s.dieFrame (dieOf i) (pageOf a) with
  | some f =>
    if !s.waiterOpen who i (pathRows i (.lake (f / 12288)) true) then (s.holdRead who i p a n deadline true, none)
    else if s.framePoisoned f a n then ((s.withdraw (pageOf a) f p).holdRead who i p a n deadline false, none)
    else (s.eccRead (frameAddr f a) n p (DoubtInfo.plain 3), some (s.bytes (frameAddr f a) n))
  | none => (s.holdRead who i p a n deadline false, none)

/-- Every page of an image extent belongs to a mapped image: the die's copy of the directory names a leaf, and the page is MAPPED (05 R145, R147). -/
def State.imageMapped (s : State) (i : Initiator) (a n : Nat) : Bool :=
  (imageParts a n).all (fun e => bit (s.dieDir (dieOf i) (pageOf e.1 / 1024)) 31 && lfMapped (s.leaf (pageOf e.1)))

/-- A held read still waits for a page: its die copy does not show it (05 R156). -/
def State.onTier (s : State) (h : HeldRead) : Bool := (s.dieFrame h.die (pageOf h.addr)).isNone

end Sys2Proof.Machine
end

