-- ==== Sys2Proof/Machine/Post.lean ====
section
/-! DEFINITION. Writes and completion operations that hub clients make beside their data (descriptors, status, sync cells): each moves in a sub-slot in which its client
owns the path (02 R53), those of one client in order (DEDUCED, log entry 53). -/

namespace Sys2Proof.Machine

/-- The path of a post is owned now. -/
def State.postOpen (s : State) (x : Post) : Bool := s.pathOpen x.init (pathRows x.init (regionOf x.addr) false)

/-- A post takes effect. -/
def State.postNow (s : State) (x : Post) : State :=
  match x.op with
  | some op => s.cellOp x.addr op
  | none => ((s.mend x.addr x.data.length).store x.addr x.data).actHub x.part x.addr x.data.length

/-- A post goes at once where its path is owned and none of its client waits; else it waits. -/
def State.postPut (s : State) (x : Post) : State :=
  if s.postOpen x && s.mig.posts.all (fun y => y.init != x.init) then s.postNow x
  else { s with mig := { s.mig with posts := s.mig.posts ++ [x] } }

/-- The posts that wait, in one FCLK cycle: each goes whose path is owned, unless an older one of its client stays. -/
def State.postsCycle (s : State) : State :=
  if s.mig.posts.isEmpty then s
  else s.mig.posts.foldl State.postPut { s with mig := { s.mig with posts := [] } }

/-- A sync-cell operation for partition p, refused where the checks refuse it. -/
def State.postCell (s : State) (i : Initiator) (p a : Nat) (op : CellOp) : State :=
  if s.admits i (some p) .s a 8 then s.postPut ⟨i, p, a, [], some op⟩ else s.refuse i (some p) .s a

/-- A small write for partition p, refused where the checks refuse it. -/
def State.postWrite (s : State) (i : Initiator) (p a : Nat) (l : List Byte) : State :=
  if l.isEmpty then s
  else if s.admits i (some p) .w a l.length then s.postPut ⟨i, p, a, l, none⟩ else s.refuse i (some p) .w a

end Sys2Proof.Machine
end

