-- ==== Sys2Proof/Machine/Frc.lean ====
section
/-! DEFINITION. Feature compression: the FRC unit, its encoder and its decoder (06 R193 to R198, Table 6.5). A unit is 8 × 8 pixels of one
group of 32 channels; pixels are given as lists of 64, y outermost. -/

namespace Sys2Proof.Machine

/-- The ratio of the low bits of CODEC: samples f, index bits b, block bits P, unit bytes U (06 Table 6.5). -/
def frcRatio (c : Nat) : Option (Nat × Nat × Nat × Nat) :=
  match c with
  | 1 => some (1, 5, 340, 1408)
  | 2 => some (1, 3, 252, 1056)
  | 3 => some (2, 4, 164, 704)
  | 4 => some (4, 6, 120, 528)
  | _ => none

/-- The pixels of sample k, as positions 8 y + x (06 R194). -/
def frcSample (f k : Nat) : List Nat :=
  match f with
  | 1 => [k]
  | 2 => [2 * k, 2 * k + 1]
  | _ => let o := (k / 4) * 16 + 2 * (k % 4); [o, o + 1, o + 8, o + 9]

/-- round_half_even (n / f) of an integer sum, f a power of two. -/
def rneDiv (n : Int) (f : Nat) : Int :=
  let q := n / (f : Int)
  let r := n % (f : Int)
  if 2 * r > (f : Int) ∨ (2 * r = (f : Int) ∧ q % 2 = 1) then q + 1 else q

/-- RS: the least r in 0 to 7 whose levels span the block. -/
def frcShift (b : Nat) (span : Int) : Nat :=
  ((List.range 7).find? (fun r => decide (span ≤ (((2 ^ b - 1) * 2 ^ r : Nat) : Int)))).getD 7

/-- The channel block of 64 codes as a bit string (06 R193, R194). -/
def frcEncodeBlock (f b : Nat) (codes : List Int) : Nat :=
  let a := (List.range (64 / f)).map (fun k => rneDiv ((frcSample f k).foldl (fun s p => s + codes.getD p 0) 0) f)
  let lo := a.foldl min (a.headD 0)
  let hi := a.foldl max (a.headD 0)
  let rs := frcShift b (hi - lo)
  let h : Int := if rs = 0 then 0 else ((2 ^ (rs - 1) : Nat) : Int)
  let idx := a.map (fun x => ((x - lo + h) / ((2 ^ rs : Nat) : Int)).toNat)
  ofInt 8 lo + rs * 2 ^ 8 + (List.range idx.length).foldl (fun s k => s + idx.getD k 0 * 2 ^ (11 + b * k)) 0

/-- The 64 codes of a channel block (06 R195). -/
def frcDecodeBlock (f b blk : Nat) : List Nat :=
  let lo := toInt 8 blk
  let rs := bits blk 10 8
  (List.range 64).map (fun p =>
    let k := if f = 1 then p else if f = 2 then p / 2 else p / 16 * 4 + p % 8 / 2
    let idx := bits blk (11 + b * k + b - 1) (11 + b * k)
    ofInt 8 (min 127 (lo + ((idx * 2 ^ rs : Nat) : Int))))

/-- A unit: 64 pixel exponents (bytes) and 32 blocks of 64 codes. -/
structure FrcUnit where
  exps : List Nat
  codes : List (List Nat)

/-- The U_r bytes of a unit. -/
def frcEncode (r : Nat × Nat × Nat × Nat) (u : FrcUnit) : List Byte :=
  let e := (List.range 64).foldl (fun s p => s + u.exps.getD p 0 % 64 * 2 ^ (6 * p)) 0
  let n := (List.range 32).foldl (fun s j => s + frcEncodeBlock r.1 r.2.1 ((u.codes.getD j []).map (toInt 8)) * 2 ^ (384 + j * r.2.2.1)) e
  toLE r.2.2.2 n

/-- The unit of U_r bytes; each exponent byte with bits [7:6] copies of bit 5 (06 R195). -/
def frcDecode (r : Nat × Nat × Nat × Nat) (l : List Byte) : FrcUnit :=
  let n := fromLE l
  { exps := (List.range 64).map (fun p => expByte (toInt 6 (n >>> (6 * p)))),
    codes := (List.range 32).map (fun j => frcDecodeBlock r.1 r.2.1 ((n >>> (384 + j * r.2.2.1)) % 2 ^ r.2.2.1)) }

/-- A raw map: width, height, channels, pitch, and the offset of the exponent plane (06 R198). -/
structure RawMap where
  w : Nat
  h : Nat
  c : Nat
  base : Nat
  pitch : Nat
  plane : Nat

/-- Units of a map: (uy, ux, g), g innermost (06 R193). -/
def RawMap.units (m : RawMap) : List (Nat × Nat × Nat) :=
  ((List.range (cdiv m.h 8)).map (fun uy => ((List.range (cdiv m.w 8)).map (fun ux =>
    (List.range (m.c / 32)).map (fun g => (uy, ux, g)))).flatten)).flatten

/-- Offset from the raw start of the byte of channel ch of a pixel. -/
def RawMap.at (m : RawMap) (x y ch : Nat) : Nat := y * m.pitch + x * m.c + ch

/-- The pixel of a unit with the last column and row replicated past the edge (06 R193). -/
def RawMap.pixel (m : RawMap) (u : Nat × Nat × Nat) (p : Nat) : Nat × Nat :=
  (min (8 * u.2.1 + p % 8) (m.w - 1), min (8 * u.1 + p / 8) (m.h - 1))

end Sys2Proof.Machine
end

