-- ==== Sys2Proof/Machine/Operands.lean ====
section
/-! DEFINITION. The operand forms of the slot operations (03 Tables 3.3 to 3.8): fields of the operation word, the immediate and slot 15,
operand b, Pond offsets, and the address-generator descriptor (03 Table 3.12). A slot operation's command carries bits [55:0] of its slot
word (its OP is the command itself) and the value of slot 15. -/

namespace Sys2Proof.Machine

/-- A field of a slot word. -/
def fld (w : BitVec 56) (hi lo : Nat) : Nat := bits w.toNat hi lo

/-- PRED, NEG and X (03 Table 3.3). -/
def oPred (w : BitVec 56) : Nat := fld w 54 51
def oNeg (w : BitVec 56) : Bool := bit w.toNat 55
def oX (w : BitVec 56) : Bool := bit w.toNat 50

/-- The value of scalar register n; s0 is never entered and reads 0 (03 Table 3.1). -/
def VatCore.sreg (c : VatCore) (n : Nat) : W64 := mapGet 0 c.sregs n

/-- Predicate n; p0 reads 1 (03 Table 3.1). -/
def VatCore.pred (c : VatCore) (n : Nat) : Bool := if n = 0 then true else bit c.preds n

/-- Vector register n: 512 lanes (03 Table 3.1); one never written reads zeros. -/
def VatCore.vreg (c : VatCore) (n : Nat) : List W32 := mapGet (List.replicate 512 0) c.vregs n

/-- Descriptor n: 64 bytes. -/
def VatCore.desc (c : VatCore) (n : Nat) : List Byte := mapGet (List.replicate 64 0) c.descs n

/-- Iteration position of descriptor n. -/
def VatCore.pos (c : VatCore) (n : Nat) : Nat := mapGet 0 c.poss n

/-- Accumulator row: 128 words; key (tile * 16 + bank) * 128 + row. -/
def accKey (tile bank row : Nat) : Nat := (tile * 16 + bank) * 128 + row
def VatCore.accRow (c : VatCore) (key : Nat) : List W32 := mapGet (List.replicate 128 0) c.acc key

/-- The immediate of n low bits, or slot 15 (03 R87). -/
def oImm (n : Nat) (w : BitVec 56) (x : W64) : W64 := if oX w then x else BitVec.ofNat 64 (ofInt 64 (toInt n w.toNat))

/-- Operand b of formats C and S: s[SB] + immediate (03, "Operand formats"). -/
def cB (c : VatCore) (w : BitVec 56) (x : W64) : W64 := c.sreg (fld w 43 38) + oImm 24 w x
def sB (c : VatCore) (w : BitVec 56) (x : W64) : W64 := c.sreg (fld w 37 32) + oImm 16 w x

/-- s[SA] + IMM16 of formats S (LD, ST), A, N and M, as an unsigned Pond offset modulo 2^64. -/
def sOff (c : VatCore) (w : BitVec 56) (x : W64) : Nat := (c.sreg (fld w 43 38) + oImm 16 w x).toNat
def aVal (c : VatCore) (w : BitVec 56) (x : W64) : W64 := c.sreg (fld w 39 34) + oImm 16 w x
def nOff (c : VatCore) (w : BitVec 56) (x : W64) : Nat := (c.sreg (fld w 49 44) + oImm 16 w x).toNat

/-- Some bit of [hi:lo] is set: a reserved field that is not 0 (03 R85). -/
def rsv (w : BitVec 56) (hi lo : Nat) : Bool := fld w hi lo != 0

/-! ### Address-generator descriptors (03 Table 3.12) -/

/-- Offset and size of descriptor field number f, 0 to 21. -/
def descField (f : Nat) : Nat × Nat :=
  if f < 2 then (8 * f, 8)
  else if f < 10 then (0x10 + 4 * (f - 2), 4)
  else if f = 10 then (0x30, 1)
  else if f = 11 then (0x31, 1)
  else if f < 15 then (0x32 + 2 * (f - 12), 2)
  else if f < 21 then (0x38 + (f - 15), 1)
  else (0x3E, 2)

/-- The bytes of a descriptor with field f set to v. -/
def setDescField (d : List Byte) (f v : Nat) : List Byte :=
  let o := descField f
  d.take o.1 ++ toLE o.2 v ++ d.drop (o.1 + o.2)

/-- A parsed descriptor. -/
structure AgDesc where
  base : Nat
  expBase : Nat
  count : List Nat
  stride : List Int
  elem : Nat
  sign : Bool
  mode : Nat
  vec : Nat
  ih : Nat
  iw : Nat
  kh : Nat
  kw : Nat
  sy : Nat
  sx : Nat
  dy : Nat
  dx : Nat
  pt : Nat
  pb : Nat
  pl : Nat
  pr : Nat
  fill : Nat
  fillVal : Nat
  /-- every field lies in its range of Table 3.12 -/
  ok : Bool

def parseDesc (d : List Byte) : AgDesc :=
  let f := fieldLE d
  let el := f 0x30 1
  let khw := f 0x38 1
  let str := f 0x39 1
  let dil := f 0x3A 1
  let ptb := f 0x3B 1
  let plr := f 0x3C 1
  let fl := f 0x3D 1
  let mode := f 0x31 1
  let win := decide (mode = 1)
  let r (v lo hi : Nat) : Bool := decide (lo ≤ v) && decide (v ≤ hi)
  { base := f 0 8, expBase := f 8 8, count := (List.range 4).map (fun i => max 1 (f (0x10 + 8 * i) 4)),
    stride := (List.range 4).map (fun i => toInt 32 (f (0x14 + 8 * i) 4)), elem := el % 4, sign := bit el 2, mode := mode,
    vec := f 0x32 2, ih := f 0x34 2, iw := f 0x36 2, kh := khw % 16, kw := khw / 16, sy := str % 16, sx := str / 16,
    dy := dil % 16, dx := dil / 16, pt := ptb % 16, pb := ptb / 16, pl := plr % 16, pr := plr / 16, fill := fl % 4,
    fillVal := f 0x3E 2,
    ok := decide (el < 8) && decide (mode ≤ 1) && r (f 0x32 2) 1 512 &&
      (!win || (r (f 0x34 2) 1 65535 && r (f 0x36 2) 1 65535 && r (khw % 16) 1 15 && r (khw / 16) 1 15 && r (str % 16) 1 8 &&
        r (str / 16) 1 8 && r (dil % 16) 1 8 && r (dil / 16) 1 8 && decide (fl < 3))) }

/-- Bits per element: 4, 8, 16 or 32. -/
def AgDesc.ebits (d : AgDesc) : Nat := 4 * 2 ^ d.elem

/-- Bytes of one vector. -/
def AgDesc.vbytes (d : AgDesc) : Nat := (d.vec * d.ebits + 7) / 8

/-- Output rows and columns of window mode (03 R101). -/
def AgDesc.oh (d : AgDesc) : Int := ((d.ih + d.pt + d.pb : Nat) - (d.dy * (d.kh - 1) : Nat) - 1 : Int) / (d.sy : Int) + 1
def AgDesc.ow (d : AgDesc) : Int := ((d.iw + d.pl + d.pr : Nat) - (d.dx * (d.kw - 1) : Nat) - 1 : Int) / (d.sx : Int) + 1

/-- The descriptor may be used: fields in range and, in window mode, OH and OW at least 1 (03 R101). -/
def AgDesc.usable (d : AgDesc) : Bool := d.ok && (d.mode == 0 || (decide (1 ≤ d.oh) && decide (1 ≤ d.ow)))

/-- Steps of one whole iteration (03 R100, R101). -/
def AgDesc.steps (d : AgDesc) : Nat :=
  if d.mode = 0 then d.count.foldl (· * ·) 1
  else d.ow.toNat * d.oh.toNat * (d.kh * d.kw) * d.count.getD 2 1

/-- Where step k reads: the Pond offset of its first element, and whether it falls on a fill position (03 R100, R101); edge replication reads
the clamped position. -/
def AgDesc.at (d : AgDesc) (k : Nat) : Int × Bool :=
  if d.mode = 0 then
    let c := d.count
    let i0 := k % c.getD 0 1
    let i1 := k / c.getD 0 1 % c.getD 1 1
    let i2 := k / (c.getD 0 1 * c.getD 1 1) % c.getD 2 1
    let i3 := k / (c.getD 0 1 * c.getD 1 1 * c.getD 2 1)
    ((d.base : Int) + i0 * d.stride.getD 0 0 + i1 * d.stride.getD 1 0 + i2 * d.stride.getD 2 0 + i3 * d.stride.getD 3 0, false)
  else
    let ow := d.ow.toNat
    let oh := d.oh.toNat
    let ox := k % ow
    let oy := k / ow % oh
    let tap := k / (ow * oh) % (d.kh * d.kw)
    let c := k / (ow * oh * (d.kh * d.kw))
    let iy : Int := ((oy * d.sy + tap / d.kw * d.dy : Nat) : Int) - (d.pt : Int)
    let ix : Int := ((ox * d.sx + tap % d.kw * d.dx : Nat) : Int) - (d.pl : Int)
    let inside := decide (0 ≤ iy) && decide (iy < (d.ih : Int)) && decide (0 ≤ ix) && decide (ix < (d.iw : Int))
    let cy := max 0 (min iy ((d.ih : Int) - 1))
    let cx := max 0 (min ix ((d.iw : Int) - 1))
    ((d.base : Int) + cy * d.stride.getD 1 0 + cx * d.stride.getD 0 0 + c * d.stride.getD 2 0, !inside)

/-- Cycles one vector occupies its generator (03 Table 3.9, VLD). -/
def AgDesc.occ (d : AgDesc) : Nat := cdiv (d.vec * d.ebits) 2048

end Sys2Proof.Machine
end

