-- ==== Sys2Proof/Machine/Slots.lean ====
section
/-! DEFINITION. What the slot engines do on a Vat, as operations many events share (02 R51 to R64, 03 R83, R111; 15 R384 to R395): slot and
window ends, cut points, kernel start, cut, overrun, fault and completion, golden outcomes and self-test slices. Times are FCLK cycles. -/

namespace Sys2Proof.Machine

/-! ### Slots, windows and runs -/

/-- SLOT_COUNT and the number of the trim slot of the table in force (02 R47). -/
def State.slotCount (s : State) : Nat := tSlotCount s.table

/-- The length slot n is counted at: the trim slot at its guaranteed length (02 R58). -/
def guaranteedLen (t : List Byte) (n : Nat) : Nat :=
  if n + 1 = tSlotCount t then tSlotLen t - tTrimMax t else tSlotLen t

/-- Length of the present slot: the trim slot's actual length once it has begun (02 R47). -/
def State.slotLenNow (s : State) : Nat :=
  if s.slotNow + 1 = s.slotCount then (s.frt.trimLen.getD (guaranteedLen s.table s.slotNow)) else tSlotLen s.table

/-- FCLK cycle in which the present slot ends. -/
def State.slotEnd (s : State) : Nat := s.frt.slotStart + s.slotLenNow

/-- The entry of Vat v in slot n of the table in force. -/
def State.entry (s : State) (n v : Nat) : Nat := slotEntry s.table n v

/-- Slots after n that continue its window on Vat v (02 R51). -/
def followers (t : List Byte) (v : Nat) : Nat → Nat → Nat
  | 0, _ => 0
  | k + 1, n =>
    let e := slotEntry t n v
    let e1 := slotEntry t (n + 1) v
    if n + 1 < tSlotCount t ∧ eType e1 = eType e ∧ eOwner e1 = eOwner e ∧ !eStart e1 then followers t v k (n + 1) + 1 else 0

/-- FCLK cycle in which the window that holds Vat v in the present slot ends (windows of TYPE 1, 3 and 4 never reach the trim slot, R49). -/
def State.windowEnd (s : State) (v : Nat) : Nat :=
  s.slotEnd + followers s.table v s.slotCount s.slotNow * tSlotLen s.table

/-- The diagnostic copies that stand with the active bank (15 R387): descriptors first, then plans (DESIGN CHOICE, log entry 20). -/
def State.diagCopy (s : State) : List Byte := if s.activeBank = 0 then s.diag.copyA else s.diag.copyB
def State.goldDesc (s : State) (d : Nat) : List Byte := (s.diagCopy.drop (64 * d)).take 64
def State.plan (s : State) (i : Nat) : List Byte := (s.diagCopy.drop (16384 + 1024 * i)).take 1024

/-- Golden-frame descriptor fields (15 Table 15.3). -/
def gTarget (d : List Byte) : Nat := fieldLE d 0 1
def gEngine (d : List Byte) : Nat := fieldLE d 1 1
def gSafety (d : List Byte) : Bool := bit (fieldLE d 2 1) 0
def gFill (d : List Byte) : Nat := fieldLE d 3 1
def gEvery (d : List Byte) : Nat := fieldLE d 6 2
def gPhase (d : List Byte) : Nat := fieldLE d 8 2
def gKernel (d : List Byte) : Nat := fieldLE d 0xA 2
def gArg (d : List Byte) : Nat := fieldLE d 0xC 4
def gExpect (d : List Byte) : Nat := fieldLE d 0x10 8
def gInput (d : List Byte) : Nat := fieldLE d 0x18 8
def gRows (d : List Byte) : Nat := fieldLE d 0x20 1

/-- The descriptor runs its golden frame in major frame fr (15 R388). -/
def goldRuns (d : List Byte) (fr : Nat) : Bool := decide (0 < gEvery d) && fr % gEvery d == gPhase d

/-- The fill list that holds Vat v in slot n of major frame fr, other than as heir (02 R57; 15 R388 for golden windows). -/
def State.fillOf (s : State) (v n fr : Nat) : Option Nat :=
  let e := s.entry n v
  if eType e = 2 then some (eOwner e)
  else if eType e = 4 then
    let d := s.goldDesc (eOwner e)
    if goldRuns d fr ∨ gFill d = 0xFF then none else some (gFill d)
  else none

/-- A stop or a switch takes the boundary at FCLK cycle e (02 R58, R77, R79). -/
def State.boundaryEnds (s : State) (e : Nat) : Bool :=
  s.frt.stopAt || (bit (s.reg Reg.FRT_STATUS) 5 && (match s.frt.switchAt with | some t => decide (t + 16000 ≤ e) | none => false))

/-- Major frames after which a run of slots that nothing has broken is never broken: more than the longest period of the golden windows of Vat v. -/
def State.holdFrames (s : State) (v : Nat) : Nat :=
  2 + ((List.range s.slotCount).map (fun n => let e := s.entry n v; if eType e = 4 then gEvery (s.goldDesc (eOwner e)) else 0)).foldl max 0

/-- An instant after every instant: the end of a run without end. -/
def noEnd : Nat := 2 ^ 64

/-- The end of the run of consecutive slots from slot n on that list f goes on holding (02 R58); a list that holds every slot of every frame has none. -/
def State.holdFrom (s : State) (v f : Nat) : Nat → Nat → Nat → Nat → Nat
  | 0, _, _, e => e + noEnd
  | k + 1, n, fr, e =>
    if n = s.slotCount then (if s.boundaryEnds e then e else State.holdFrom s v f k 0 (fr + 1) e)
    else if s.fillOf v n fr = some f then State.holdFrom s v f k (n + 1) fr (e + guaranteedLen s.table n)
    else e

/-- DONATED of FRT_VAT_STATEv: a heir runs. -/
def State.donated (s : State) (v : Nat) : Bool := bit (s.reg (Reg.FRT_VAT_STATE v)) 31

/-- The end of the present run of the list that holds Vat v (02 R58); a heir window counts to its end. -/
def State.holdEnd (s : State) (v f : Nat) : Nat :=
  let heir := eType (s.entry s.slotNow v) == 1
  let n := if heir then s.slotNow + followers s.table v s.slotCount s.slotNow + 1 else s.slotNow + 1
  let e := if heir then s.windowEnd v else s.slotEnd
  s.holdFrom v f ((s.holdFrames v + 1) * (s.slotCount + 1)) n (s.reg Reg.FRT_FRAME_CNT) e

/-- The next cut point of list f on Vat v (02 R58). -/
def State.cutPoint (s : State) (v f : Nat) : Nat := s.holdEnd v f - tGCut s.table

/-! ### FRT_VAT_STATE (02 Table 2.14) -/

def State.setVatState (s : State) (v hi lo x : Nat) : State := s.setRegBits (Reg.FRT_VAT_STATE v) hi lo x

/-- No kernel runs on Vat v: RUN_KERNEL 0xFFF, PARTITION 0, DONATED 0. -/
def State.noKernel (s : State) (v : Nat) : State :=
  ((s.setVatState v 47 36 0xFFF).setVatState v 35 32 0).setVatState v 31 31 0

/-- The self-test slice running on Vat v, and its plan (15 R393). -/
def State.sliceOn (s : State) (v : Nat) : Option Nat :=
  match s.diag.slice.find? (fun e => e.1 == v) with
  | some e => some e.2
  | none => none

/-- Local address of the self-test area of Vat v (15 R392). -/
def State.stArea (s : State) (v : Nat) : Nat := pondAddr v (s.regBits (Reg.SAF_ST_AREA v) 5 0 * 0x100000)

/-- The ranges the sequencer side of Vat v may reach: those of the kernel's partition, or the self-test area (03 R103, 15 R393). -/
def State.vatRanges (s : State) (v : Nat) : List PartRange :=
  match s.sliceOn v with
  | some _ => [⟨s.stArea v, s.stArea v + 0xFFFFF, true, true, false, false⟩]
  | none => s.partRanges (s.runPart v)

/-! ### Run signatures (15 R384) -/

/-- Bytes l enter stream i of Vat v's run signature: 0 the sequencer, 1 and 2 the movers. -/
def State.rsigAdd (s : State) (v i : Nat) (l : List Byte) : State :=
  let k := v * 3 + i
  { s with diag := { s.diag with
      rsig := mapSet 0xFFFFFFFFFFFFFFFF s.diag.rsig k (l.foldl crc64Byte (mapGet 0xFFFFFFFFFFFFFFFF s.diag.rsig k)) } }

/-- RSIG of Vat v's run: the CRC-64 over the three CRC-64 values. -/
def State.rsigOf (s : State) (v : Nat) : Nat :=
  crc64 (((List.range 3).map (fun i => toLE 8 ((mapGet 0xFFFFFFFFFFFFFFFF s.diag.rsig (v * 3 + i)) ^^^ 0xFFFFFFFFFFFFFFFF))).flatten)

/-! ### Kernel start (03 R83; 07 R215, R227; 08 R241) -/

/-- Locks of tile t in VAT_ACC_LOCKt as taken at a kernel start: mask in [31:16], owner in [3:0] (03 Table 3.15). -/
def lockMask (l : Nat) : Nat := bits l 31 16
def lockOwner (l : Nat) : Nat := bits l 3 0

/-- Bank b of tile t is locked to partition p under the lock words ls. -/
def lockedTo (ls : List Nat) (t b p : Nat) : Bool := bit (lockMask (ls.getD t 0)) b && lockOwner (ls.getD t 0) == p

/-- Fields of SCN_STR_CFGm (08 Table 8.7) and ST of SCN_STR_STATEm (Table 8.8). -/
def State.strCfg (s : State) (v m : Nat) : Nat := s.reg (Reg.SCN_STR_CFG v m)
def strValid (c : Nat) : Bool := bit c 63
def strAuto (c : Nat) : Bool := bit c 62
def strPart (c : Nat) : Nat := bits c 51 48
def strTile (c : Nat) : Nat := bits c 41 40
def strAcc (c : Nat) : Nat := bits c 35 32
def State.strSt (s : State) (v m : Nat) : Nat := s.regBits (Reg.SCN_STR_STATE v m) 2 0
def State.setStrSt (s : State) (v m x : Nat) : State := s.setRegBits (Reg.SCN_STR_STATE v m) 2 0 x

/-- At a kernel start with the lock gone, a stream that is not ABSENT becomes FAILED (08 R241). -/
def State.dropUnlocked (s : State) (v : Nat) (ls : List Nat) : State :=
  (List.range 64).foldl (fun t m =>
    let c := t.strCfg v m
    if strValid c ∧ t.strSt v m ≠ 0 ∧
        !(lockedTo ls (strTile c) (strAcc c) (strPart c) && lockedTo ls (strTile c) (strAcc c + 1) (strPart c)) then t.setStrSt v m 4
    else t) s

/-- The walker of Vat v. -/
def State.walker (s : State) (v : Nat) : Walker := s.walkers.getD v Walker.reset
def State.modWalker (s : State) (v : Nat) (f : Walker → Walker) : State := { s with walkers := listModify f s.walkers v }

/-- The walker abandons the command in progress (07 R222). -/
def State.walkAbandon (s : State) (v : Nat) : State :=
  (s.modWalker v (fun w => { w with cmd := none })).modCore v (fun c => { c with access := c.access.filter (fun a => a.slot != 16) })

/-- The walker at a kernel start: the ATT_ values take effect, the count is the doorbell cell's value (07 R215, R227). -/
def State.walkStart (s : State) (v : Nat) : State :=
  let c := s.regBits (Reg.ATT_DB_CELL v) 13 0
  (s.modWalker v (fun w => { w with
    count := s.cell v c, cmd := none, seqBase := s.reg (Reg.ATT_SEQ_BASE v), seqCount := s.reg (Reg.ATT_SEQ_COUNT v),
    ringBase := s.reg (Reg.ATT_RING_BASE v), ringLen := s.reg (Reg.ATT_RING_LEN v), dbCell := c })).setReg (Reg.ATT_RING_HEAD v) 0

/-- The state R83 gives a Vat at a kernel start. -/
def VatCore.start (c : VatCore) (entry s1 kernel frame slot : Nat) (ls : List Nat) : VatCore :=
  { c with
    sregs := [(1, BitVec.ofNat 64 s1), (2, BitVec.ofNat 64 kernel), (3, BitVec.ofNat 64 frame), (4, BitVec.ofNat 64 slot)].filter
      (fun e => e.2 != 0),
    preds := 1, vregs := [], descs := [], poss := [],
    acc := c.acc.filter (fun e => bit (lockMask (ls.getD (e.1 / 128 / 16) 0)) (e.1 / 128 % 16)),
    wbufs := [], luts := [], rptr := [], loops := [], rets := [], pc := entry, branch := none, hold := .none, named := [], stream := [],
    movers := c.movers.map (fun m => { m with queue := [] }) }

/-- A kernel starts on Vat v (03 R83): partition p, first long word at Pond offset entry, s1. RUN_KERNEL shows k. -/
def State.startKernel (s : State) (v k p entry s1 : Nat) : State :=
  let ls := (List.range 4).map (fun t => s.reg (Reg.VAT_ACC_LOCK v t))
  let a := (s.dropUnlocked v ls).walkStart v
  let b := a.modVat v (fun x => { x with
    core := { x.core.start entry s1 k a.frameLo a.slotNow ls with nextIssue := x.cyc + 1 }, running := true, faulted := false,
    issuing := true, cyc0 := none, lag := a.regBits (Reg.VAT_CHK_LAG v) 4 0, lock := ls, lw := none, saved := none })
  let c := ((b.setVatState v 47 36 k).setVatState v 35 32 p).setVatState v 30 30 0
  let d := { c with diag := { c.diag with rsig := c.diag.rsig.filter (fun e => e.1 / 3 != v),
                                          pairSig := c.diag.pairSig.filter (fun e => e.1 != k) } }
  (d.modRun v (fun r => { r with startFrame := d.reg Reg.FRT_FRAME_CNT })).emit v 0 entry k

/-! ### Stopping a kernel -/

/-- The descriptors of Vat v are gone: reads held for them end with no record, and their messages end, their tags going into quarantine (02 R59;
14 R372: acknowledgements arrive as orphans). -/
def State.dropMovers (s : State) (v : Nat) : State :=
  let mine := fun (w : Waiter) => match w with | .mover u _ _ => u == v | _ => false
  { s with
    mig := { s.mig with held := s.mig.held.filter (fun h => !mine h.who) },
    xsl := { s.xsl with
      msgs := s.xsl.msgs.filter (fun m => !mine m.who),
      released := s.xsl.released ++ (s.xsl.msgs.filter (fun m => mine m.who)).map (fun m => (m.tag, s.nowNs)) } }

/-- Issue stops; operations already issued run to their end; the movers' queues end without a record, an MPUSH not yet entered and an END's increment not yet made are
discarded; the walker abandons its command (02 R59, 03 R111, 07 R222). -/
def State.stopIssue (s : State) (v : Nat) : State :=
  ((s.modVat v (fun x => { x with
    issuing := false, lw := none, saved := none,
    core := { x.core with
      hold := .none, branch := none, named := [], stream := [], movers := x.core.movers.map (fun m => { m with queue := [] }),
      flights := x.core.flights.filter (fun f => match f.dest with | .mpush _ _ => false | .done => false | _ => true) } })).dropMovers v).walkAbandon v

/-- The status word a cut writes: the code, and the low 32 bits of FRT_FRAME_CNT in bytes 4 to 7 (02 R59). -/
def State.statusWord (s : State) (k code : Nat) : State :=
  s.storeLE (kStatusAddr (kernEntry s.table k)) 8 (code + 2 ^ 32 * s.frameLo)

/-- A best-effort kernel is cut (02 R59): the cursor stays, the kernel is not completed. -/
def State.cutKernel (s : State) (v : Nat) : State :=
  let k := s.runKernel v
  let a := ((s.stopIssue v).statusWord k stPreempted).bump Reg.FRT_CUT_CNT
  let b := (a.modVat v (fun x => { x with running := false })).noKernel v
  (b.setVatState v 30 30 1).emit 9 2 s.slotNow k

/-- The slot in which the window of Vat v that holds the present slot ends. -/
def State.windowLast (s : State) (v : Nat) : Nat := s.slotNow + followers s.table v s.slotCount s.slotNow

/-- The actions of R63 on an LC kernel: DEADLINE_MISS in the status word, FRT_OVR_CNT, an FRT_OVR_LOG entry, and doubt 0x8A. -/
def State.lcMiss (s : State) (v : Nat) : State :=
  let k := s.runKernel v
  let a := ((s.stopIssue v).statusWord k stDeadlineMiss).bump Reg.FRT_OVR_CNT
  let b := a.pushLog Reg.FRT_OVR_LOG 32 (s.windowLast v * 2 ^ 48 + 2 ^ 47 + v * 2 ^ 44 + k * 2 ^ 32 + s.frameLo)
  let c := ((b.modVat v (fun x => { x with running := false })).noKernel v).modRun v (fun r => { r with lcDone := true, list := none })
  ((c.setVatState v 30 30 1).emit 9 2 s.slotNow k).raise 0x8A { (DoubtInfo.plain 2) with vat := v, word := k }

/-! ### Golden frames and self-test (15 R391, R394, R395) -/

/-- The outcome of a golden run of descriptor d: 1 pass, 2 mismatch, 3 not produced (15 R391); a second consecutive run that was not produced
counts as a mismatch. -/
def State.goldOutcome (s : State) (d res : Nat) : State :=
  let key := Reg.SAF_GOLD_STAT d
  let w := s.reg key
  let miss := if res = 3 then min 255 (bits w 15 8 + 1) else 0
  let a := s.setReg key (res + 256 * miss + 65536 * ((bits w 31 16 + 1) % 65536))
  if res = 2 ∨ 2 ≤ miss then
    if gSafety (s.goldDesc d) then a.raise 0x86 { (DoubtInfo.plain 0xE) with inst := d % 256 } else a.bump Reg.SAF_GOLD_MM_CNT
  else a

/-- A 16-bit field of SAF_ST_CNTv, saturating (15 Table 15.8). -/
def State.bumpSt (s : State) (v lo : Nat) : State :=
  let k := Reg.SAF_ST_CNT v
  s.setReg k (putBits (s.reg k) (lo + 15) lo (satAdd 16 (s.regBits k (lo + 15) lo) 1))

/-- Slices pending on Vat v, in plan order. -/
def State.pendSlices (s : State) (v : Nat) : List Nat := mapGet [] s.diag.pendSlices v

/-- SAF_ST_STATEv shows the next pending slice and whether the pass is complete. -/
def State.showSlices (s : State) (v : Nat) : State :=
  let p := s.pendSlices v
  let k := Reg.SAF_ST_STATE v
  s.setReg k (putBit (putBits (s.reg k) 5 0 (p.headD 0)) 6 p.isEmpty)

/-- No slice runs on Vat v any more. -/
def State.endSlice (s : State) (v : Nat) : State :=
  { s with diag := { s.diag with slice := s.diag.slice.filter (fun e => e.1 != v) } }

/-- Slice sl of Vat v is done (15 R394). -/
def State.sliceDone (s : State) (v sl : Nat) : State :=
  let a := { s with diag := { s.diag with pendSlices := mapSet [] s.diag.pendSlices v ((s.pendSlices v).filter (fun x => x != sl)) } }
  let b := (a.setRegBits (Reg.SAF_ST_STATE v) 63 32 a.frameLo).showSlices v
  if (b.pendSlices v).isEmpty then b.bumpSt v 48 else b

/-- Doubt 0x87 for Vat v. -/
def State.sliceBad (s : State) (v : Nat) : State := s.raise 0x87 { (DoubtInfo.plain 0xE) with vat := v }

/-! ### Faults (03 R111) -/

/-- The Vat is stopped by a fault of the kernel: a self-test slice is done with 0x87 (15 R394), a golden run is not produced, a best-effort kernel
loses its fill list's enable and waits for the cut point, an LC kernel takes the actions of R63. -/
def State.faultEnds (s : State) (v : Nat) : State :=
  let a := (s.stopIssue v).modVat v (fun x => { x with faulted := true })
  match a.sliceOn v with
  | some sl => (((a.endSlice v).sliceBad v).sliceDone v sl).modVat v (fun x => { x with running := false })
  | none =>
    if eType (a.entry a.slotNow v) = 4 ∧ (a.run v).list = none then
      (a.noKernel v).modVat v (fun x => { x with running := false })
    else if a.runLC v then a.lcMiss v
    else match (a.run v).list with
      | some f => a.setReg (Reg.FRT_FILL_EN f) 0
      | none => a

/-- VAT_FAULT, VAT_FAULT_CNT and the event record of a fault (03 R111, 17 Table 17.21 0xC2). -/
def State.recordFault (s : State) (v slot code pc : Nat) : State :=
  let w := code * 2 ^ 24 + slot * 2 ^ 20 + pc / 128 % 2 ^ 19
  let a := (s.setReg (Reg.VAT_FAULT v) w).bump (Reg.VAT_FAULT_CNT v)
  (a.outcome (0x20 + v) 0xC2
    (code + 2 ^ 8 * slot + 2 ^ 16 * (pc / 128) + 2 ^ 48 * s.runKernel v + 2 ^ 60 * s.runPart v)).emit v 2 pc code

/-- The kernel on Vat v faults with a code of Table 3.10 (03 R111). -/
def State.vatFault (s : State) (v slot code : Nat) : State :=
  (s.recordFault v slot code (s.vat v).core.pc).faultEnds v

/-- Fault codes (03 Table 3.10). -/
def fIllegal : Nat := 1
def fPcRange : Nat := 2
def fCallStack : Nat := 3
def fLoop : Nat := 4
def fAgBusy : Nat := 5
def fTileBusy : Nat := 6
def fMqFull : Nat := 7
def fAddr : Nat := 8
def fAccLock : Nat := 9
def fPoison : Nat := 10
def fFormat : Nat := 11

/-! ### Completion (02 R55, R56) -/

/-- A paired run has completed: its signature waits for the partner's (15 R386). -/
def State.pairDone (s : State) (v k sig : Nat) : State :=
  if kPairVat (kernEntry s.table k) = 0xFF then s
  else { s with diag := { s.diag with
    pairSig := s.diag.pairSig.filter (fun e => e.1 != k) ++ [(k, sig, (s.run v).startFrame, (s.run v).winSlot)] } }

/-- Vat v no longer runs a kernel; its run signature is reported (15 R384). -/
def State.kernelEnds (s : State) (v : Nat) : State :=
  let sig := s.rsigOf v
  let k := s.runKernel v
  let a := (s.setReg (Reg.SAF_PAIR_SIG v) sig).pairDone v k sig
  ((a.modVat v (fun x => { x with running := false, issuing := false, core := { x.core with hold := .none } })).noKernel v).emit v 1 k 0

/-- The kernel on Vat v completes (02 R55): a slice is compared (15 R394), a golden run is compared (15 R391), a list's cursor advances (02 R57),
an LC window goes to its heir (02 R56). -/
def State.kernelComplete (s : State) (v : Nat) : State :=
  let e := s.entry s.slotNow v
  let k := s.runKernel v
  let sig := s.rsigOf v
  match s.sliceOn v with
  | some sl =>
    let p := s.plan (eOwner e)
    let good := s.loadLE (s.stArea v + 0xFFFF8) 8 == fieldLE p (0x18 + 16 * sl) 8
    let a := (s.kernelEnds v).endSlice v
    ((if good then a else a.sliceBad v)).sliceDone v sl
  | none =>
    let a := s.kernelEnds v
    match (s.run v).list with
    | some f =>
      let c := s.regBits (Reg.FRT_FILL_CUR f) 5 0
      a.setReg (Reg.FRT_FILL_CUR f) (if c + 1 < fCount (fillList s.table f) then c + 1 else 0)
    | none =>
      if eType e = 4 then
        (a.goldOutcome (eOwner e) (if sig = gExpect (s.goldDesc (eOwner e)) then 1 else 2)).modRun v (fun r => { r with goldDone := true })
      else if kClass (kernEntry s.table k) = 0 then
        let b := a.modRun v (fun r => { r with lcDone := true })
        if eHeir e = 0xFF then b
        else (((b.bump Reg.FRT_DONATE_CNT).modRun v (fun r => { r with list := some (eHeir e) })).setVatState v 31 31 1).emit 9 1 s.slotNow k
      else a

end Sys2Proof.Machine
end

