-- ==== Sys2Proof/Machine/ScanUnit.lean ====
section
/-! DEFINITION. The chunk arithmetic of the scan unit (08 R230, R231) with the check of an SCN operation (08 R229) and the steps of an executed SCN.RUN
(08 R232). -/

namespace Sys2Proof.Machine

/-! ### Exact dyadic numbers k * 2^e -/

def dyAdd (a b : Int × Int) : Int × Int :=
  let e := min a.2 b.2
  (a.1 * 2 ^ (a.2 - e).toNat + b.1 * 2 ^ (b.2 - e).toNat, e)
def dyMul (a b : Int × Int) : Int × Int := (a.1 * b.1, a.2 + b.2)
def dyNeg (a : Int × Int) : Int × Int := (-a.1, a.2)

/-- fl32 of an exact number; an exact zero is +0 (04 R125, R127). -/
def dyRound (a : Int × Int) : W32 := fl32 (decide (a.1 < 0)) a.1.natAbs a.2

/-- The exact value of a finite FP32 word read under R127; none for NaN and infinity. -/
def dyOf (w : W32) : Option (Int × Int) :=
  match ewp w with
  | .fin neg m e => some (scaled neg m e e, e)
  | _ => none

/-- The value, 0 where it is not finite. -/
def dyVal (w : W32) : Int × Int := (dyOf w).getD (0, 0)

/-! ### The recurrence (08 R230) -/

/-- f(d) = fh + fl for a log-decay d of 24 fractional bits, d at most 0. -/
def decay (d : Int) : Int × Int :=
  if d % 2 ^ 24 = 0 then (if d / 2 ^ 24 < -126 then (0, 0) else (1, d / 2 ^ 24))
  else
    let r := fxPow2 (d * (2 ^ 176 : Nat))
    let v : Int × Int := ((2 * r.1 + 1 : Nat), r.2 - 201)
    let fh := dyRound v
    if fh = 0 then (0, 0) else dyAdd (dyVal fh) (dyVal (dyRound (dyAdd v (dyNeg (dyVal fh)))))

/-- A decay as the unit takes it: positive values are 0 (08 R231). -/
def gate (g : Nat) : Int := min 0 (toInt 32 g)

/-- G[0] to G[n] of one lane from its decays of steps 1 to n. -/
def prefixes : Int → List Int → List Int
  | acc, [] => [acc]
  | acc, g :: l => acc :: prefixes (acc + g) l

/-- The planes of a chunk: rows of 128 words for steps 1 to n. -/
structure Planes where
  g : List (List Nat)
  x : List (List W32)
  b : List (List W32)
  q : List (List W32)

def at2 (l : List (List W32)) (i j : Nat) : W32 := (l.getD i []).getD j 0

/-- The elements that meet no NaN or infinity among their inputs (08 R231); q counts where there is a read-out. -/
def Planes.fine (p : Planes) (readout : Bool) (main err : W32) (r c : Nat) : Bool :=
  isFinite32 main && isFinite32 err && p.x.all (fun l => isFinite32 (l.getD r 0)) && p.b.all (fun l => isFinite32 (l.getD c 0)) &&
    (!readout || p.q.all (fun l => isFinite32 (l.getD c 0)))

/-- m of one element: f(G[n]) * main + sum of f(G[n] - G[k]) * x[k][r] * b[k][c]; fs are the factors f(G[n] - G[k]), k = 0 to n. -/
def Planes.sum (p : Planes) (fs : List (Int × Int)) (main : W32) (r c : Nat) : Int × Int :=
  (List.range p.x.length).foldl
    (fun a k => dyAdd a (dyMul (fs.getD (k + 1) (0, 0)) (dyMul (dyVal (at2 p.x k r)) (dyVal (at2 p.b k c)))))
    (dyMul (fs.getD 0 (0, 0)) (dyVal main))

/-- The pair of one element after the chunk (08 R230, R231). -/
def Planes.element (p : Planes) (readout : Bool) (fs : List (Int × Int)) (main err : W32) (r c : Nat) : W32 × W32 :=
  if !p.fine readout main err r c then (nan32, nan32)
  else
    let m := p.sum fs main r c
    let h := dyRound m
    if !isFinite32 h then (nan32, nan32)
    else (h, dyRound (dyAdd (dyAdd m (dyNeg (dyVal h))) (dyMul (fs.getD 0 (0, 0)) (dyVal err))))

/-- G[0] to G[k] of lane l from the k rows of decays read so far. -/
def Planes.prefix (p : Planes) (l : Nat) : List Int := prefixes 0 (p.g.map (fun row => gate (row.getD l 0)))

/-- The lane of row r, column c whose decays count: r (DMODE 0) or c (DMODE 1). -/
def gateLane (dmode r c : Nat) : Nat := if dmode = 0 then r else c

/-- The pair and the NaN mark that a chunk leaves once every step is read (08 R230, R231). -/
def Planes.pair (p : Planes) (dmode : Nat) (readout : Bool) (main err : List (List W32)) : List (List (W32 × W32)) :=
  let rows := List.range 128
  let fs := rows.map (fun l => let g := p.prefix l; g.map (fun x => decay (g.getLastD 0 - x)))
  rows.map (fun r => rows.map (fun c => p.element readout (fs.getD (gateLane dmode r c) []) (at2 main r c) (at2 err r c) r c))

/-- The row of G_DST of the last step read. -/
def Planes.gRow (p : Planes) : List Nat :=
  (List.range 128).map (fun l => ofInt 32 (max (-(2 ^ 31 : Nat)) ((p.prefix l).getLastD 0)))

/-- The row of Y_DST of the last step read. An element reaches it when an input of a step up to this one, or the pair, is NaN or infinite; after the last step of the chunk, also
when its m is not finite (DEDUCED from the schedule of R232: the inputs of later steps are not there yet; log entry 24). -/
def Planes.yRow (p : Planes) (dmode : Nat) (last : Bool) (main err : List (List W32)) : List W32 :=
  let rows := List.range 128
  let fk := rows.map (fun l => decay ((p.prefix l).getLastD 0))
  let out := if last then p.pair dmode true main err else []
  rows.map (fun r =>
    if rows.any (fun c => !p.fine true (at2 main r c) (at2 err r c) r c) || (out.getD r []).any (fun e => isNan32 e.1) then nan32
    else dyRound (rows.foldl (fun a c =>
      dyAdd a (dyMul (dyMul (dyVal (at2 p.q (p.q.length - 1) c)) (fk.getD (gateLane dmode r c) (0, 0)))
        (dyAdd (dyVal (at2 main r c)) (dyVal (at2 err r c))))) (0, 0)))

/-! ### Reading the pair and the planes -/

/-- n rows of 128 words at a Pond offset. -/
def State.planeRows (s : State) (v off n : Nat) : List (List Nat) :=
  (List.range n).map (fun k => (List.range 128).map (fun i => s.loadLE (pondAddr v (off + 512 * k + 4 * i)) 4))

def words (l : List (List Nat)) : List (List W32) := l.map (fun r => r.map (BitVec.ofNat 32))

/-- Bank b of tile t as 128 rows. -/
def VatCore.bankRows (c : VatCore) (t b : Nat) : List (List W32) := (List.range 128).map (fun r => c.accRow (accKey t b r))

/-- The bytes of a row of words. -/
def rowBytes (l : List W32) : List Byte := (l.map (fun x => toLE 4 x.toNat)).flatten

/-- The planes an operation reads. -/
def ScanOp.reads (op : ScanOp) : List Nat := [op.g, op.x, op.b] ++ (if op.q = 0 then [] else [op.q])

/-- The rows an operation writes for a step, at t + k + 32 + H. -/
def ScanOp.writes (op : ScanOp) : List Nat := (if op.gd = 0 then [] else [op.gd]) ++ (if op.q = 0 then [] else [op.yd])

/-- The chunk when its pair is read. -/
def ScanOp.chunk (op : ScanOp) (late : Nat) (c : VatCore) : Chunk :=
  { op := op, late := late, main := c.bankRows op.tile op.acc, err := c.bankRows op.tile (op.acc + 1), g := [], x := [], b := [], q := [], ends := none }

/-- The planes read so far. -/
def Chunk.planes (k : Chunk) : Planes := ⟨k.g, k.x, k.b, k.q⟩

/-- The chunk with the rows of its next step, and its pair once that is the last. -/
def Chunk.step (k : Chunk) (g : List Nat) (x b : List W32) (q : List (List W32)) : Chunk :=
  let k' := { k with g := k.g ++ [g], x := k.x ++ [x], b := k.b ++ [b], q := k.q ++ q }
  if k.op.n ≤ k'.g.length then
    let out := k'.planes.pair k.op.dmode (k.op.q != 0) k.main k.err
    { k' with
      main := out.map (fun l => l.map (fun e => e.1)), err := out.map (fun l => l.map (fun e => e.2)),
      ends := some (out.any (fun l => l.any (fun e => isNan32 e.1)), k'.g.foldl (fun n row => n + (row.filter (fun z => decide (0 < toInt 32 z))).length) 0) }
  else k'

/-- The Pond rows a step sends: offset and bytes; pair is the pair as read (08 R230). -/
def Chunk.rows (k : Chunk) (pair : List (List W32) × List (List W32)) : List (Nat × List Byte) :=
  let at_ := 512 * (k.g.length - 1)
  (if k.op.gd = 0 then [] else [(k.op.gd + at_, (k.planes.gRow.map (toLE 4)).flatten)]) ++
    (if k.op.q = 0 then [] else [(k.op.yd + at_, rowBytes (k.planes.yRow k.op.dmode k.ends.isSome pair.1 pair.2))])

/-- The cycle in which the inputs of the next step of a chunk are read (08 R232). -/
def Chunk.next (k : Chunk) : Nat := k.op.issued + k.late + 8 + k.g.length

/-- A chunk's inputs of this cycle are read; its rows go on their way to t + k + 32 + H. An uncorrectable input stops it: what it has already sent to be held stays (03 R103,
R111). -/
def State.chunkRead (s : State) (v : Nat) (k : Chunk) : State :=
  let t := s.vat v
  let i := k.g.length
  let row := fun (o : Nat) => (s.planeRows v (o + 512 * i) 1).headD []
  let put := fun (u : State) (x : Chunk) =>
    u.modCore v (fun c => { c with chunk := c.chunk.map (fun y => if y.op == k.op then x else y) })
  let a := k.op.reads.foldl (fun u x => (u.eccRead (pondAddr v (x + 512 * i)) 512 k.op.part (vatDoubt u v)).vatAct v 2 (linesOf (x + 512 * i) 512)) s
  if k.op.reads.any (fun o => s.poisoned (pondAddr v (o + 512 * i)) 512) then
    a.modCore v (fun c => { c with
      chunk := c.chunk.filter (fun y => y.op != k.op),
      flights := c.flights.filter (fun f => !(f.issued == k.op.issued && f.slot == 12 && decide (t.cyc + t.lag + 2 < f.due))),
      access := c.access.filter (fun e => !(e.issued == k.op.issued && e.slot == 12 && (!e.write || decide (t.cyc + t.lag + 2 ≤ e.due)))),
      stream := c.stream ++ [(t.cyc, 12, fPoison, k.op.pc)] })
  else
    let k' := k.step (row k.op.g) ((row k.op.x).map (BitVec.ofNat 32)) ((row k.op.b).map (BitVec.ofNat 32))
      (if k.op.q = 0 then [] else [(row k.op.q).map (BitVec.ofNat 32)])
    (put a k').modCore v (fun c => { c with
      flights := c.flights ++ (k'.rows (k.main, k.err)).map (fun r => ⟨t.cyc + 25 + t.lag + 2, k.op.issued, 12, true, .pond r.1 r.2⟩) })

/-- Every chunk of Vat v that reads inputs in this cycle does so. -/
def State.chunkReads (s : State) (v : Nat) : State :=
  ((s.vat v).core.chunk.filter (fun k => k.ends.isNone && decide (k.next ≤ (s.vat v).cyc))).foldl (fun u k => u.chunkRead v k) s

/-! ### The descriptor and its check (08 Table 8.1, R229) -/

/-- One of the ranges permits a sequencer-side access of n bytes at a Pond offset of Vat v (03 R103). -/
def rangesMay (rs : List PartRange) (v off n : Nat) (write : Bool) : Bool :=
  decide (off + n ≤ pondSize) && inRange rs (fun r => if write then r.w else r.r) (pondAddr v off) n

/-- A range of the kernel permits it. -/
def State.pondMay (s : State) (v off n : Nat) (write : Bool) : Bool := rangesMay (s.vatRanges v) v off n write

/-- A bank of tile t that the lock words ls give to a partition other than p (03 R84). -/
def lockedOut (ls : List Nat) (t b p : Nat) : Bool := bit (lockMask (ls.getD t 0)) b && lockOwner (ls.getD t 0) != p

/-- The scan operations. -/
inductive ScnKind where
  | run | anch | save | load
deriving DecidableEq, Repr

/-- Their numbers in a check on its way. -/
def ScnKind.num : ScnKind → Nat
  | .run => 0 | .anch => 1 | .save => 2 | .load => 3
def scnKind (n : Nat) : ScnKind := if n = 0 then .run else if n = 1 then .anch else if n = 2 then .save else .load

def sdTile (d : List Byte) : Nat := fieldLE d 0x18 1
def sdStream (d : List Byte) : Nat := fieldLE d 0x1A 1
def sdArea (d : List Byte) : Nat := fieldLE d 0x20 4

/-- The plane offsets: G_SRC, X_SRC, B_SRC, Q_SRC, G_DST, Y_DST. -/
def sdPlane (d : List Byte) (i : Nat) : Nat := fieldLE d (4 * i) 4

/-- The checks of the descriptor's own fields that fault with FORMAT (08 R229). -/
def sdFormat (kind : ScnKind) (acc lc : Nat) (d : List Byte) : Bool :=
  let n := fieldLE d 0x1C 2
  acc % 2 == 1 || decide (3 < sdTile d) || fieldLE d 0x1B 1 != 0 || (d.drop 0x24).any (fun b => b != 0) ||
    (match kind with
     | .run => decide (1 < fieldLE d 0x19 1) || n == 0 || decide (lc < n) || (decide (63 < sdStream d) && sdStream d != 255) ||
        (List.range 6).any (fun i => sdPlane d i % 512 != 0) || (sdPlane d 3 != 0 && sdPlane d 5 == 0) || bit (fieldLE d 0x1E 2) 14
     | .anch => false
     | _ => sdArea d % 256 != 0)

/-- The stream entry the descriptor names is not one of this pair (08 R229). -/
def State.sdWrongStream (s : State) (v acc : Nat) (d : List Byte) : Bool :=
  let c := s.strCfg v (sdStream d)
  !strValid c || strTile c != sdTile d || strAcc c != acc

/-- The planes or the save area are reachable (08 R229, 03 R103). -/
def sdMay (rs : List PartRange) (v : Nat) (kind : ScnKind) (lc : Nat) (d : List Byte) : Bool :=
  let may := rangesMay rs v
  let len := 512 * lc
  match kind with
  | .run =>
    (List.range 3).all (fun i => may (sdPlane d i) len false) &&
      (sdPlane d 3 == 0 || (may (sdPlane d 3) len false && may (sdPlane d 5) len true)) &&
      (sdPlane d 4 == 0 || may (sdPlane d 4) len true)
  | .anch => true
  | .save => may (sdArea d) 0x20000 true
  | .load => may (sdArea d) 0x20000 false

/-- The swap engine is moving the pair (08 R229, R236). -/
def State.pairMoving (s : State) (v tile acc : Nat) : Bool :=
  match (s.swap v).busy with
  | some b => strTile (s.strCfg v b.stream) == tile && strAcc (s.strCfg v b.stream) == acc
  | none => false

/-- The check of cycle t + 6 of an operation of a kernel of partition p: the fault code, in the order of the table of 08 R229. A RUN that its stream discards moves no pair and is not measured against the engine and the
tile (08 R238, Table 8.5). -/
def State.sdCheck (s : State) (v : Nat) (kind : ScnKind) (acc lc p : Nat) (discard : Bool) (d : List Byte) : Option Nat :=
  let t := s.vat v
  let rs := if t.running then s.vatRanges v else s.partRanges p
  let run := kind == .run && sdStream d != 255
  if sdFormat kind acc lc d ∨ (run ∧ s.sdWrongStream v acc d) then some fFormat
  else if (run ∧ strPart (s.strCfg v (sdStream d)) ≠ p) ∨ lockedOut t.lock (sdTile d) acc p ∨ lockedOut t.lock (sdTile d) (acc + 1) p then some fAccLock
  else if !sdMay rs v kind lc d then some fAddr
  else if !discard ∧ s.pairMoving v (sdTile d) acc then some fAgBusy
  else if !discard ∧ t.cyc < t.core.tileUntil.getD (sdTile d) 0 then some fTileBusy
  else none

/-- The first row of a save area that is uncorrectable. -/
def State.poisonRow (s : State) (v off : Nat) : Option Nat :=
  (List.range 256).find? (fun r => s.poisoned (pondAddr v (off + 512 * r)) 512)

/-- The operation of slot 12 issued in cycle i faults in cycle cyc: nothing of it that is still to come happens, and the unit is free (08 R229, 03 R111). -/
def VatCore.scnStop (c : VatCore) (i cyc code pc : Nat) : VatCore :=
  let mine := fun (slot issued : Nat) => slot == 12 && issued == i
  { c with
    flights := c.flights.filter (fun f => !mine f.slot f.issued), access := c.access.filter (fun e => !mine e.slot e.issued),
    scnUntil := if c.scnFrom = i then min c.scnUntil cyc else c.scnUntil, stream := c.stream ++ [(cyc, 12, code, pc)] }

/-- The check of cycle t + 6 of the operation issued in cycle i: a fault, or the operation goes on; a LOAD then reads its area, where an uncorrectable row stops it in the cycle
that reads it (03 R103, R111; 05 R160). -/
def State.scnChecked (s : State) (v i kind acc lc pc p : Nat) (discard : Bool) (d : List Byte) : State :=
  let cyc := (s.vat v).cyc
  match s.sdCheck v (scnKind kind) acc lc p discard d with
  | some code => s.modCore v (fun c => c.scnStop i cyc code pc)
  | none =>
    if kind = 3 then
      let a := (s.eccRead (pondAddr v (sdArea d)) 0x20000 p (vatDoubt s v)).vatAct v 2 2048
      match s.poisonRow v (sdArea d) with
      | some r => a.modCore v (fun c => { c.scnStop i (cyc + r) fPoison pc with scnUntil := c.scnUntil })
      | none => a
    else s

end Sys2Proof.Machine
end

