-- ==== Sys2Proof/Machine/VatIssue.lean ====
section
/-! DEFINITION. How a Vat issues slot operations and lands their results (03 R80 to R82, R85, R86, R92 to R94, R104, R109, R111). The
commands of one VCLK cycle are the slots of one long word; a fault at issue withholds the whole long word. -/

namespace Sys2Proof.Machine

/-- H, the output-hold time (03 R109). -/
def Vat.hold (t : Vat) : Nat := t.lag + 2

/-- The next long word may issue in this cycle: nothing holds issue, and no fault found in a stream has stopped it (03 R80, R111). -/
def Vat.wordDue (t : Vat) : Bool :=
  t.issuing && t.core.hold == Hold.none && decide (t.core.nextIssue ≤ t.cyc) && !t.core.stream.any (fun e => decide (e.1 ≤ t.cyc))

/-- Slot operations may issue: either a long word is issuing in this cycle and has not yet had this slot, or the next long word is due (03 R80). -/
def Vat.canIssue (t : Vat) (slot : Nat) : Bool :=
  match t.lw with
  | some l => t.issuing && !l.contains slot
  | none => t.wordDue

/-- A new long word begins to issue: the state before it is kept for a fault at issue; the first one starts the cycle count (03 R83). -/
def Vat.openWord (t : Vat) : Vat :=
  match t.lw with
  | some _ => t
  | none => { t with saved := some t.core, lw := some [], cyc0 := some (t.cyc0.getD t.cyc), core := { t.core with nextIssue := t.cyc + 1 } }

/-- The long word at the program counter may issue: aligned, inside an R range (03 R92). -/
def State.pcOk (s : State) (v pc : Nat) : Bool := aligned pc 128 && s.pondMay v pc 128 false

/-- The fetch of the long word at a program counter, as it issues: a sequencer-side read (03 R92, R103; 05 R160). -/
def State.fetchRead (s : State) (v pc : Nat) : State := s.eccRead (pondAddr v pc) 128 (s.runPart v) (vatDoubt s v)

/-- The long word holds an uncorrectable word: POISON with slot 0 as it issues (03 R103, Table 3.17). -/
def State.fetchBad (s : State) (v pc : Nat) : Bool := s.poisoned (pondAddr v pc) 128

/-- A fault found as a long word issues: the whole long word is withheld (03 R111). -/
def State.issueFault (s : State) (v slot code : Nat) : State :=
  (s.modVat v (fun t => { t with core := t.saved.getD t.core, saved := none, lw := none })).vatFault v slot code

/-- What an issued operation adds to the activity of its Vat: vectors started on a tile in [cyc, end), an EWP operation, the lines read (16
R424). -/
def State.issueAct (s : State) (v slot : Nat) (reads : List (Nat × Nat)) (cyc : Nat) : State :=
  let c := (s.vat v).core
  let stop := match c.stream.getLast? with | some f => if f.2.1 = slot then f.1 else c.tileUntil.getD (slot - 7) 0 | none => c.tileUntil.getD (slot - 7) 0
  let a := if 7 ≤ slot ∧ slot ≤ 10 then s.vatAct v 0 (min stop (c.tileUntil.getD (slot - 7) 0) - cyc) else s
  let b := if slot = 11 then a.vatAct v 1 1 else a
  b.vatAct v 2 (reads.foldl (fun n r => n + linesOf r.1 r.2) 0)

/-- A slot operation issues (03 R85, R86): ILLEGAL whatever the predicate; nothing at all where the guard does not hold; otherwise act
gives the new core or a fault code, and the reads it made are checked (05 R160), those of a withheld one only where they are its fault. Of several faults in one long word the
one whose command comes first is recorded, and of several in one operation the first of its tests (DESIGN CHOICE, log entry 51: 03 R111 gives no order). -/
def State.issue (s : State) (v slot : Nat) (w : BitVec 56) (illegal : VatCore → Bool) (reads : VatCore → List (Nat × Nat))
    (act : State → Vat → Sum Nat VatCore) : State :=
  let t := s.vat v
  if !t.canIssue slot then s
  else
    let fresh := t.lw.isNone
    let s1 := s.modVat v Vat.openWord
    if fresh && !s1.pcOk v t.core.pc then s1.issueFault v 0 fPcRange
    else if fresh && s1.fetchBad v t.core.pc then (s1.fetchRead v t.core.pc).issueFault v 0 fPoison
    else
      let s2 := (if fresh then s1.fetchRead v t.core.pc else s1).modVat v (fun t => { t with lw := some (slot :: t.lw.getD []) })
      let c := (s2.vat v).core
      if illegal c then s2.issueFault v slot fIllegal
      else if !guardHolds c.preds (oPred w) (oNeg w) then s2
      else
        let ecc (u : State) : State := (reads c).foldl (fun u r => u.eccRead (pondAddr v r.1) r.2 (u.runPart v) (vatDoubt u v)) u
        match act s2 (s2.vat v) with
        | .inl code => (if code = fPoison then ecc s2 else s2).issueFault v slot code
        | .inr c' => ((ecc s2).modVat v (fun t => { t with core := c' })).issueAct v slot (reads c) t.cyc

/-- A result on its way: latency l from the present cycle, held for the checker or not (03 R81, R109). -/
def Vat.send (t : Vat) (c : VatCore) (slot l : Nat) (held : Bool) (d : Dest) : VatCore :=
  { c with flights := c.flights ++ [⟨t.cyc + l, t.cyc, slot, held, d⟩] }

/-- The 256-byte lines that n bytes at a Pond offset touch (03 R104). -/
def pondLines (off n : Nat) : List Nat := if n = 0 then [] else (List.range ((off + n - 1) / 256 - off / 256 + 1)).map (fun i => off / 256 + i)

/-- Pond accesses of an operation issued in cycle cyc: cycles after it, offset and bytes of each, in their place in the order of R104: 1 + g for AGg, 5 scalar slots, 6 scan
unit, 7 walker, 8 score unit, 9 swap engine. -/
def VatCore.touch (c : VatCore) (cyc place slot : Nat) (l : List (Nat × Nat × Nat)) (write : Bool) : VatCore :=
  { c with access := c.access ++ (l.map (fun e => (pondLines e.2.1 e.2.2).map (fun k => ⟨cyc + e.1, cyc, slot, place, k, write, false⟩))).flatten }

/-- n bytes at an offset, one line a cycle from cycle first on, the last cycle taking what is left when occ cycles are not enough. -/
def spread (first occ off n : Nat) : List (Nat × Nat × Nat) :=
  (pondLines off n).zipIdx.map (fun e => (first + min e.2 (occ - 1), 256 * e.1, 1))

/-! ### Landing (03 R81, R82) -/

/-- Two results name the same destination register, predicate, descriptor or accumulator row. -/
def Dest.clash : Dest → Dest → Bool
  | .sreg a _, .sreg b _ => a == b && a != 0
  | .pred a _, .pred b _ => a == b && a != 0
  | .vreg a _, .vreg b _ => a == b
  | .desc a _, .desc b _ => a == b
  | .desc a _, .descField b _ _ => a == b
  | .descField a _ _, .desc b _ => a == b
  | .descField a _ _, .descField b _ _ => a == b
  | a, b =>
    let key : Dest → Option Nat := fun d => match d with
      | .accSet k _ => some k
      | .accInt k _ => some k
      | .accFp k _ => some k
      | _ => none
    match key a, key b, a, b with
    | some k, some l, _, _ => k == l
    | some k, none, _, .accClear t m => k / 2048 == t && bit m (k / 128 % 16)
    | none, some k, .accClear t m, _ => k / 2048 == t && bit m (k / 128 % 16)
    | _, _, _, _ => false

/-- Vector lanes and rows are kept so that one never written reads as zeros. -/
def zeros (n : Nat) : List W32 := List.replicate n 0

/-- The core after a result lands; accumulation reads the row as it stood before this cycle's results (03 R82, R89; 04 R124, R125). -/
def VatCore.land (base c : VatCore) : Dest → VatCore
  | .sreg n x => if n = 0 then c else { c with sregs := mapSet 0 c.sregs n x }
  | .pred n b => if n = 0 then c else { c with preds := putBit c.preds n b }
  | .vreg n l => { c with vregs := mapSet (zeros 512) c.vregs n l }
  | .desc n b => { c with descs := mapSet (List.replicate 64 0) c.descs n b, poss := mapSet 0 c.poss n 0 }
  | .descField n f x => { c with descs := mapSet (List.replicate 64 0) c.descs n (setDescField (c.desc n) f x), poss := mapSet 0 c.poss n 0 }
  | .accSet k l => { c with acc := mapSet (zeros 128) c.acc k l }
  | .accInt k l =>
    let row := List.zipWith (fun a z => BitVec.ofNat 32 (ofInt 32 (satInt 32 (toInt 32 a.toNat + z)))) (base.accRow k) l
    { c with acc := mapSet (zeros 128) c.acc k row }
  | .accFp k l => { c with acc := mapSet (zeros 128) c.acc k (List.zipWith accAdd (base.accRow k) l) }
  | .accClear t m => { c with acc := c.acc.filter (fun e => !(e.1 / 2048 == t && bit m (e.1 / 128 % 16))) }
  | .wbuf k b => { c with wbufs := (c.wbufs.filter (fun e => e.1 != k)) ++ [(k, b)] }
  | .lut t l => { c with luts := mapSet (List.replicate 16 0) c.luts t l }
  | _ => c

/-- A result lands outside the core: Pond, cells, registers (03 R97, R109; 07 R224; 08 R232, R238). -/
def State.landOut (s : State) (v : Nat) : Dest → State
  | .pond off l => ((s.mend (pondAddr v off) l.length).store (pondAddr v off) l).vatAct v 2 (linesOf off l.length)
  | .nib off x =>
    ((s.mend (pondAddr v off) 1).store (pondAddr v off) [BitVec.ofNat 8 ((memByte s.mem (pondAddr v off)).toNat / 16 * 16 + x % 16)]).vatAct v 2 1
  | .mstat m => s.setReg (Reg.VAT_MV_LASTERR v m) 0
  | .mass l =>
    ((l.foldl (fun t e =>
        (t.mend (pondAddr v e.1) 4).storeLE (pondAddr v e.1) 4 (fadd (BitVec.ofNat 32 (t.loadLE (pondAddr v e.1) 4)) e.2).toNat) s).vatAct v 2 ((l.map (fun e => e.1 / 64)).foldl setInsert []).length).bump
      (Reg.ATT_MASS_CNT v)
  | .scnDiscard m =>
    (s.bump (Reg.SCN_DISCARD_CNT v)).setReg (Reg.SCN_LASTERR v) (2 ^ 32 * s.frameLo + 2 ^ 16 * m + stStateConflict)
  | .scnAnch => s.bump (Reg.SCN_ANCH_CNT v)
  | .scnDone _ k comp x => if comp then s.cellDo v k 3 (.add x) else s
  | _ => s

/-- The result is due; a held one only when the checker has passed it (03 R81, R109). An MPUSH enters its queue and END's increment is made by events of their own, an operation
of slot 0 on a cell is one of the cycle before it is seen. -/
def Flight.ready (f : Flight) (cyc : Nat) : Bool :=
  !f.held && decide (f.due ≤ cyc) && (match f.dest with | .mpush _ _ | .done | .cell _ _ => false | _ => true)

/-- Order of results in one cycle: by issue cycle, then by slot (03 R82). -/
def Flight.before (a b : Flight) : Bool := decide (a.issued < b.issued) || (a.issued == b.issued && decide (a.slot ≤ b.slot))

/-- Insertion of a result in that order. -/
def insertFlight (f : Flight) : List Flight → List Flight
  | [] => [f]
  | g :: l => if g.before f then g :: insertFlight f l else f :: g :: l

/-- Collisions among results of one cycle, each counted once (03 R82). -/
def collisions : List Flight → Nat
  | [] => 0
  | f :: l => (if l.any (fun g => f.dest.clash g.dest) then 1 else 0) + collisions l

/-- Flights in the order of their landing. -/
def inOrder (l : List Flight) : List Flight := l.foldl (fun l f => insertFlight f l) []

/-- The results due in the present cycle of Vat v land. A chunk reads its pair before them, so that a write landing then does not enter it (08 R232); the checks of SCN operations
come first, and the inputs of chunks are read last (03 R81). -/
def State.landDue (s : State) (v : Nat) : State :=
  let cyc := (s.vat v).cyc
  let early := fun (f : Flight) => match f.dest with | .scnCheck .. | .scnStart _ => true | _ => false
  let pick := fun (c : VatCore) (b : Bool) => inOrder (c.flights.filter (fun f => f.ready cyc && early f == b))
  let drop := fun (b : Bool) (c : VatCore) => { c with flights := c.flights.filter (fun f => !(f.ready cyc && early f == b)) }
  let first := (pick (s.vat v).core true).foldl (fun u f =>
    match f.dest with
    | .scnCheck k acc lc pc p d l => u.scnChecked v f.issued k acc lc pc p d l
    | .scnStart op => u.modCore v (fun c => { c with chunk := c.chunk ++ [op.chunk (f.due - (op.issued + 8)) c] })
    | _ => u) (s.modCore v (drop true))
  let due := pick (first.vat v).core false
  let a := first.bumpBy (Reg.VAT_WCOLL_CNT v) (collisions due)
  let b := a.modVat v (fun t => { t with core := due.foldl (fun c f => VatCore.land t.core c f.dest) (drop false t.core), landed := due })
  (due.foldl (fun u f => u.landOut v f.dest) b).chunkReads v

/-- The operations of slot 0 on cells whose results are seen from the next cycle are operations of this one (03 R81, R97). -/
def State.slotCells (s : State) (v : Nat) : State :=
  let cyc := (s.vat v).cyc
  let now := fun (f : Flight) => !f.held && decide (f.due ≤ cyc + 1) && (match f.dest with | .cell _ _ => true | _ => false)
  let due := inOrder ((s.vat v).core.flights.filter now)
  due.foldl (fun u f =>
    match f.dest with
    | .cell k op =>
      let kind : Nat × W64 := match op with | .add x => (0, x) | .set x => (1, x)
      ((u.cellDo v k 0 op).rsigAdd v 0 (toLE 2 k ++ toLE 1 kind.1 ++ toLE 8 kind.2.toNat)).emit 8 0 (v * 16384 + k) kind.2.toNat
    | _ => u) (s.modCore v (fun c => { c with flights := c.flights.filter (fun f => !now f) }))

/-! ### Pond bank conflicts (03 R104) -/

/-- Whether a bank serves one access after those already served in the cycle (line, write): alone, or together with reads of its line. -/
def serves104 (g : List (Nat × Bool)) (a : BankAccess) : Bool :=
  match g.find? (fun e => e.1 % 64 == a.line % 64) with
  | none => true
  | some e => e.1 == a.line && !e.2 && !a.write

/-- Insertion in the order of R104. -/
def insertAccess (a : BankAccess) : List BankAccess → List BankAccess
  | [] => [a]
  | b :: l => if b.place ≤ a.place then b :: insertAccess a l else a :: b :: l

/-- The accesses of a cycle that are not served, in order; g has been served before them. -/
def notServed : List (Nat × Bool) → List BankAccess → List BankAccess
  | _, [] => []
  | g, a :: l => if serves104 g a then notServed (g ++ [(a.line, a.write)]) l else a :: notServed g l

/-- One access of the operation issued in cycle i in a slot has met a delay of one cycle in cycle cyc, in a place of R104: the later accesses, results, faults and steps of the
operation and its occupancies move by one (a TWLD has a weight buffer on its way, a TMM the tile input and, 128 cycles longer, its buffer). -/
def VatCore.shift (c : VatCore) (cyc i slot place : Nat) : VatCore :=
  let mine := fun (issued s : Nat) => issued == i && s == slot
  let up := fun (ok : Bool) (x : Nat) => if ok && decide (cyc < x) then x + 1 else x
  let at_ := fun (ok : Bool) (k : Nat) (l : List Nat) => if ok then listModify (up true) l k else l
  let load := c.flights.any (fun f => mine f.issued f.slot && (match f.dest with | .wbuf _ _ => true | _ => false))
  let tile := decide (7 ≤ slot) && decide (slot ≤ 10)
  let use := c.tileUntil.getD (slot - 7) 0 + 128
  { c with
    access := c.access.map (fun a => if mine a.issued a.slot then { a with due := up true a.due } else a),
    flights := c.flights.map (fun f => if mine f.issued f.slot then { f with due := up true f.due } else f),
    stream := c.stream.map (fun e => if e.2.1 = slot ∧ cyc ≤ e.1 then (e.1 + 1, e.2) else e),
    tmms := if tile && !load then c.tmms.map (fun e => if e.1 + 7 = slot ∧ cyc < e.2.1 ∧ (c.tmms.filter (fun x => x.1 == e.1 && decide (e.2.1 < x.2.1))).isEmpty then
      (e.1, e.2.1 + 1, e.2.2) else e) else c.tmms,
    chunk := c.chunk.map (fun k => if slot = 12 ∧ k.op.issued = i then { k with late := k.late + 1 } else k),
    agUntil := at_ (decide (1 ≤ place) && decide (place ≤ 4) && c.agFrom.getD (place - 1) 0 == i) (place - 1) c.agUntil,
    scnUntil := up (slot == 12 && c.scnFrom == i) c.scnUntil,
    massUntil := up (slot == 11 && decide (c.massUntil < i + 256)) c.massUntil,
    twUntil := at_ (tile && load) (slot - 7) c.twUntil,
    tileUntil := at_ (tile && !load) (slot - 7) c.tileUntil,
    wbUntil := if tile && !load then
        (List.range 8).map (fun k => let x := c.wbUntil.getD k 0
          if k / 2 + 7 = slot ∧ cyc + 128 < x ∧ x = use then x + 1 else x)
      else c.wbUntil }

/-- The accesses that reach the banks of Vat v in this cycle, after the fetch of the long word that issues in it, if one does (its line is taken to be read as the word issues:
DESIGN CHOICE, log entry 51): each that is not served waits one cycle and moves its operation, the walker's command or the swap engine's move with it. -/
def State.bankConflicts (s : State) (v : Nat) (fetch : List Nat) : State :=
  let t := s.vat v
  let now := (t.core.access.filter (fun a => decide (a.due ≤ t.cyc))).foldl (fun l a => insertAccess a l) []
  let late := notServed (fetch.map (fun k => (k, false))) now
  let ops := late.foldl (fun l a => if l.contains (a.issued, a.slot, a.place) then l else l ++ [(a.issued, a.slot, a.place)]) []
  let rest := late.map (fun a => { a with due := t.cyc + 1, waited := true })
  let later := t.core.access.filter (fun a => !decide (a.due ≤ t.cyc))
  let a := s.modCore v (fun c =>
    let c1 := ops.foldl (fun c o => c.shift t.cyc o.1 o.2.1 o.2.2) { c with access := later }
    { c1 with access := rest ++ c1.access })
  let b := if ops.any (fun o => o.2.1 == 16) then a.modWalker v (fun w => { w with cmd := w.cmd.map (fun c => { c with ready := c.ready + 1 }) }) else a
  let c := if ops.any (fun o => o.2.1 == 17) then
      { b with swaps := listModify (fun w => { w with busy := w.busy.map (fun m => { m with start := m.start + 1 }) }) b.swaps v }
    else b
  c.bumpBy (Reg.VAT_PCONF_CNT v) (late.filter (fun a => !a.waited)).length

/-! ### The next long word (03 R92 to R94) -/

/-- A taken branch leaves the innermost body: its level closes, and so does every outer one whose body does not contain the target (03 R94). -/
def closeLevels (target : Nat) : List LoopLevel → List LoopLevel
  | [] => []
  | l :: ls =>
    let holds := fun (x : LoopLevel) => decide (x.first ≤ target) && decide (target ≤ x.last)
    if holds l then l :: ls else ls.filter holds

/-- The body ends at address p: the next address, and the levels (03 R94). -/
def bodyEnd (p : Nat) : List LoopLevel → Nat × List LoopLevel
  | [] => (p + 128, [])
  | l :: ls =>
    if l.last = p then
      if 1 < l.left then (l.first, { l with left := l.left - 1 } :: ls) else bodyEnd p ls
    else
      let r := bodyEnd p ls
      (r.1, l :: r.2)

/-- The program counter after the long word that issued. -/
def VatCore.advance (c : VatCore) : VatCore :=
  match c.branch with
  | some b =>
    if b.delay = 0 then { c with pc := b.target, branch := none, loops := if b.closes then closeLevels b.target c.loops else c.loops }
    else { c with pc := c.pc + 128, branch := some { b with delay := b.delay - 1 } }
  | none =>
    let r := bodyEnd c.pc c.loops
    { c with pc := r.1, loops := r.2 }

/-- The cycle of Vat v ends for the sequencer: the long word that issued is complete. Where one was due and no operation came, a long word of no-operations issues, which faults
outside its ranges or with an uncorrectable word, and otherwise only moves the program counter (03 R80, R85, R92). -/
def State.closeWord (s : State) (v : Nat) : State :=
  let t := s.vat v
  let done := fun (u : State) => ((u.bankConflicts v [t.core.pc / 256]).vatAct v 2 2).modVat v (fun t =>
    { t with lw := none, saved := none, core := { t.core.advance with named := [] } })
  match t.lw with
  | some _ => done s
  | none =>
    if !t.wordDue then s.bankConflicts v []
    else if !s.pcOk v t.core.pc then (s.issueFault v 0 fPcRange).bankConflicts v []
    else if s.fetchBad v t.core.pc then ((s.fetchRead v t.core.pc).issueFault v 0 fPoison).bankConflicts v []
    else done ((s.fetchRead v t.core.pc).modVat v Vat.openWord)

/-! ### Waits (03 R96, R98) -/

/-- A result that is a write of the kernel other than into its own registers and accumulators, or may lead to one. -/
def Dest.visible : Dest → Bool
  | .pond _ _ | .nib _ _ | .cell _ _ | .mpush _ _ | .mass _ | .scnStart _ | .scnCheck .. | .scnDone .. => true
  | _ => false

/-- END sees in this cycle that every write of the kernel is visible: its increment is on its way, held like a slot-0 operation (03 R96, R109). -/
def Vat.noteEnded (t : Vat) : Vat :=
  match t.core.hold with
  | .ended none =>
    if !(t.core.flights ++ t.landed.filter (fun f => match f.dest with | .scnDone .. => true | _ => false)).any (fun f => f.dest.visible) ∧
        t.core.movers.all (fun m => m.queue.isEmpty) ∧ t.core.chunk.isEmpty then
      { t with core := { t.core with
        hold := .ended (some t.cyc), flights := t.core.flights ++ [⟨t.cyc + t.hold + 1, t.cyc, 0, true, .done⟩] } }
    else t
  | _ => t

/-- The first cycle in which the test of a SWAIT held, up to the present one (03 R98). -/
def State.swaitHeld (s : State) (v : Nat) : Option Nat :=
  match (s.vat v).core.hold with
  | .swait k cond thr _ _ _ none => if swaitTest cond (s.cellSeen v k) thr.toNat then some (s.vat v).cyc else none
  | .swait _ _ _ _ _ _ (some n) => some n
  | _ => none

/-- The cycle in which the test first holds is kept. -/
def State.noteSwait (s : State) (v : Nat) : State :=
  match (s.vat v).core.hold with
  | .swait k cond thr pd i b _ => s.modCore v (fun c => { c with hold := .swait k cond thr pd i b (s.swaitHeld v) })
  | _ => s

/-- One passing VCLK pulse of Vat v: the long word of the cycle closes, the next cycle begins and its results land. -/
def State.vcycle (s : State) (v : Nat) : State :=
  let a := (((s.closeWord v).noteSwait v).modVat v Vat.noteEnded).slotCells v
  (a.modVat v (fun t => { t with cyc := t.cyc + 1 })).landDue v

end Sys2Proof.Machine
end

