-- ==== Sys2Proof/Machine/VatAgu.lean ====
section
/-! DEFINITION. Slots 3 to 6: the address generators, their vectors, vector loads and stores (03 R99 to R103; 04 R114, R120, R121). Each command
carries the Vat, the generator (slot 3 + ag), bits [55:0] of the slot word and slot 15. -/

namespace Sys2Proof.Machine

/-- The Pond offset of an exponent byte for the element i of the vector that starts at off (03 R102). -/
def AgDesc.expAt (d : AgDesc) (off : Int) (i : Nat) : Int :=
  (d.expBase : Int) + (off - (d.base : Int) + (i * d.ebits / 8 : Nat)) / ((4 * d.ebits : Nat) : Int)

/-- The n elements of eb bits in a byte string, element 0 in the low bits (04 R114). -/
def splitElems (eb : Nat) (bytes : List Byte) (n : Nat) : List Nat :=
  if eb = 4 then ((bytes.map (fun b => [b.toNat % 16, b.toNat / 16])).flatten).take n
  else (List.range n).map (fun i => fieldLE bytes (i * (eb / 8)) (eb / 8))

/-- Code of a fill element (03 R101, Table 3.12). -/
def AgDesc.fillCode (d : AgDesc) : Nat := if d.fill = 1 then d.fillVal % 2 ^ d.ebits else 0

/-- The exponent plane bytes of one vector: first offset and length (03 R102). -/
def AgDesc.expSpan (d : AgDesc) (off : Int) : Int × Nat :=
  (d.expAt off 0, (d.expAt off (d.vec - 1) - d.expAt off 0).toNat + 1)

/-- An access of n bytes at a signed offset is permitted (03 R103). -/
def State.spanMay (s : State) (v : Nat) (off : Int) (n : Nat) (write : Bool) : Bool :=
  decide (0 ≤ off) && s.pondMay v off.toNat n write

/-- The next vector's codes and exponent bytes, read through descriptor d at step k, or a fault code (03 R100 to R103). -/
def State.agVector (s : State) (v : Nat) (d : AgDesc) (k : Nat) : Sum Nat (List Nat × List Nat) :=
  let p := d.at k
  if p.2 ∧ d.fill ≠ 2 then .inr (List.replicate d.vec d.fillCode, List.replicate d.vec 0)
  else
    let sp := d.expSpan p.1
    if !s.spanMay v p.1 d.vbytes false then .inl fAddr
    else if d.expBase ≠ 0 ∧ !s.spanMay v sp.1 sp.2 false then .inl fAddr
    else
      let a := pondAddr v p.1.toNat
      let e := pondAddr v sp.1.toNat
      if s.poisoned a d.vbytes ∨ (d.expBase ≠ 0 ∧ s.poisoned e sp.2) then .inl fPoison
      else
        let exps := if d.expBase = 0 then List.replicate d.vec 0
          else (List.range d.vec).map (fun i => s.loadLE (pondAddr v (d.expAt p.1 i).toNat) 1)
        .inr (splitElems d.ebits (s.bytes a d.vbytes) d.vec, exps)

/-- The memory a step reads, for the ECC accounting (05 R160). -/
def AgDesc.reads (d : AgDesc) (k : Nat) : List (Nat × Nat) :=
  let p := d.at k
  if p.2 ∧ d.fill ≠ 2 ∨ p.1 < 0 then []
  else (p.1.toNat, d.vbytes) :: (if d.expBase = 0 then [] else [((d.expSpan p.1).1.toNat, (d.expSpan p.1).2)])

/-- The Pond accesses of one vector over occ cycles from cycle first on, its exponent bytes beside it: none at a fill position that reads nothing (03 R104). -/
def AgDesc.accesses (d : AgDesc) (k first occ : Nat) : List (Nat × Nat × Nat) := ((d.reads k).map (fun r => spread first occ r.1 r.2)).flatten

/-- The lane an element fills: extended to 32 bits, or a coded lane when the descriptor has an exponent plane (03 R102, 04 R120). A 4-byte element in
a coded lane keeps its low 24 bits (DESIGN CHOICE, log entry 51: the rule extends elements to 24 bits and does not say what a longer one leaves). -/
def AgDesc.lane (d : AgDesc) (code exp : Nat) : W32 :=
  let ext (n : Nat) : Nat := if d.sign then ofInt n (toInt d.ebits code) else code % 2 ^ n
  if d.expBase = 0 then BitVec.ofNat 32 (ext 32)
  else BitVec.ofNat 32 (expByte (expOf exp) * 2 ^ 24 + ext 24)

/-- A list extended with zeros or cut to 512 lanes. -/
def lanes512 (l : List W32) : List W32 := (l ++ zeros 512).take 512

/-- Descriptor a is free in this long word, and generator g is free (03 R90, R99). -/
def VatCore.agFree (c : VatCore) (cyc g a : Nat) : Bool := decide (c.agUntil.getD g 0 ≤ cyc) && !c.named.contains a

/-- Generator g is occupied for occ cycles with descriptor a. -/
def VatCore.bind (c : VatCore) (cyc g a occ : Nat) : VatCore :=
  { c with agUntil := listSet c.agUntil g (cyc + occ), agFrom := listSet c.agFrom g cyc, named := a :: c.named }

/-- The iteration position moves by n steps, wrapping (03 R100). -/
def VatCore.step (c : VatCore) (a : Nat) (n : Int) (steps : Nat) : VatCore :=
  { c with poss := mapSet 0 c.poss a ((((c.pos a : Nat) : Int) + n) % ((max 1 steps : Nat) : Int)).toNat }

/-- Reserved bits of format A (03 Table 3.6). -/
def aIllegal (w : BitVec 56) : Bool := rsv w 27 16

/-- AD of format A. -/
def oAd (w : BitVec 56) : Nat := fld w 49 45

def aldEffect (v : VatNo) (ag : Fin 4) (w : BitVec 56) (x : W64) (s : State) : State :=
  s.issue v (3 + ag) w (fun _ => aIllegal w)
    (fun c => if s.pondMay v (aVal c w x).toNat 64 false then [((aVal c w x).toNat, 64)] else [])
    (fun u t =>
      let off := (aVal t.core w x).toNat
      if !t.core.agFree t.cyc ag (oAd w) then .inl fAgBusy
      else if !(aligned off 64 && u.pondMay v off 64 false) then .inl fAddr
      else if u.poisoned (pondAddr v off) 64 then .inl fPoison
      else .inr (t.send ((t.core.bind t.cyc ag (oAd w) 1).touch t.cyc (1 + ag) (3 + ag) [(0, off, 64)] false) (3 + ag) 8 false
        (.desc (oAd w) (u.bytes (pondAddr v off) 64))))

/-- ALD: a[AD] = 64 bytes at Pond offset s[SA] + IMM16, position 0, eight cycles later (03 R99). -/
def execAld (v : VatNo) (ag : Fin 4) (w : BitVec 56) (x : W64) (s : State) : Host.Outcome State Fault Refusal :=
  .next (s.onMain (aldEffect v ag w x))

def asetEffect (v : VatNo) (ag : Fin 4) (w : BitVec 56) (x : W64) (s : State) : State :=
  s.issue v (3 + ag) w (fun _ => aIllegal w) (fun _ => []) (fun _ t =>
    if !t.core.agFree t.cyc ag (oAd w) then .inl fAgBusy
    else if 22 ≤ fld w 33 28 then .inl fFormat
    else .inr (t.send (t.core.bind t.cyc ag (oAd w) 1) (3 + ag) 1 false
      (.descField (oAd w) (fld w 33 28) (aVal t.core w x).toNat)))

/-- ASET: field FIELD of a[AD] = s[SA] + IMM16, position 0 (03 R99). -/
def execAset (v : VatNo) (ag : Fin 4) (w : BitVec 56) (x : W64) (s : State) : Host.Outcome State Fault Refusal :=
  .next (s.onMain (asetEffect v ag w x))

def arstEffect (v : VatNo) (ag : Fin 4) (w : BitVec 56) (s : State) : State :=
  s.issue v (3 + ag) w (fun _ => aIllegal w) (fun _ => []) (fun _ t =>
    if !t.core.agFree t.cyc ag (oAd w) then .inl fAgBusy
    else .inr { t.core.bind t.cyc ag (oAd w) 1 with poss := mapSet 0 t.core.poss (oAd w) 0 })

/-- ARST: position of a[AD] = 0 (03 R99). -/
def execArst (v : VatNo) (ag : Fin 4) (w : BitVec 56) (_x : W64) (s : State) : Host.Outcome State Fault Refusal :=
  .next (s.onMain (arstEffect v ag w))

def vldEffect (v : VatNo) (ag : Fin 4) (w : BitVec 56) (s : State) : State :=
  s.issue v (3 + ag) w (fun _ => aIllegal w)
    (fun c => (parseDesc (c.desc (oAd w))).reads (c.pos (oAd w)))
    (fun u t =>
      let d := parseDesc (t.core.desc (oAd w))
      if !t.core.agFree t.cyc ag (oAd w) then .inl fAgBusy
      else if !d.usable then .inl fFormat
      else
        let k := t.core.pos (oAd w)
        match u.agVector v d k with
        | .inl code => .inl code
        | .inr (codes, exps) =>
          let c := ((t.core.bind t.cyc ag (oAd w) d.occ).step (oAd w) 1 d.steps).touch t.cyc (1 + ag) (3 + ag) (d.accesses k 0 d.occ) false
          .inr (t.send c (3 + ag) (5 + d.occ) false (.vreg (fld w 44 40) (lanes512 (List.zipWith d.lane codes exps)))))

/-- VLD: v[V] = the next vector of a[AD] after 5 + occ cycles (03 R102, 04 R120). -/
def execVld (v : VatNo) (ag : Fin 4) (w : BitVec 56) (_x : W64) (s : State) : Host.Outcome State Fault Refusal :=
  .next (s.onMain (vldEffect v ag w))

/-- The bytes of n elements of eb bits (04 R114). -/
def joinElems (eb : Nat) (codes : List Nat) : List Byte :=
  if eb = 4 then
    (List.range (codes.length / 2)).map (fun i => BitVec.ofNat 8 (codes.getD (2 * i) 0 % 16 + 16 * (codes.getD (2 * i + 1) 0 % 16)))
  else (codes.map (fun c => toLE (eb / 8) c)).flatten

/-- The exponent bytes a VST writes: each from the lowest lane that maps to it (04 R121), its bits [7:6] copies of bit 5 (04 R113, Table 4.1). -/
def AgDesc.expBytes (d : AgDesc) (off : Int) (lanes : List W32) : List Byte :=
  (List.range (d.expSpan off).2).map (fun (j : Nat) =>
    match (List.range d.vec).find? (fun i => d.expAt off i == (d.expSpan off).1 + (j : Int)) with
    | some i => BitVec.ofNat 8 (expByte (expOf (bits (lanes.getD i 0).toNat 31 24)))
    | none => 0)

/-- What a VST stores: elements, the odd nibble of a 4-bit vector, and exponent bytes (03 R102, 04 R121). -/
def AgDesc.stores (d : AgDesc) (off : Int) (lanes : List W32) : List Dest :=
  let codes := (lanes.take d.vec).map (fun l => l.toNat % 2 ^ d.ebits)
  [Dest.pond off.toNat (joinElems d.ebits codes)] ++
    (if d.ebits = 4 ∧ d.vec % 2 = 1 then [Dest.nib (off.toNat + d.vec / 2) (codes.getD (d.vec - 1) 0)] else []) ++
    (if d.expBase = 0 then [] else [Dest.pond (d.expSpan off).1.toNat (d.expBytes off lanes)])

/-- The Pond accesses of a VST over its cycles from cycle first on (03 R104). -/
def AgDesc.storeAccesses (d : AgDesc) (off : Int) (first : Nat) : List (Nat × Nat × Nat) :=
  spread first d.occ off.toNat d.vbytes ++ (if d.expBase = 0 then [] else spread first d.occ (d.expSpan off).1.toNat (d.expSpan off).2)

def vstEffect (v : VatNo) (ag : Fin 4) (w : BitVec 56) (s : State) : State :=
  s.issue v (3 + ag) w (fun _ => aIllegal w) (fun _ => [])
    (fun u t =>
      let d := parseDesc (t.core.desc (oAd w))
      if !t.core.agFree t.cyc ag (oAd w) then .inl fAgBusy
      else if !d.usable then .inl fFormat
      else
        let p := d.at (t.core.pos (oAd w))
        let c := (t.core.bind t.cyc ag (oAd w) d.occ).step (oAd w) 1 d.steps
        if p.2 then .inr c
        else if !u.spanMay v p.1 d.vbytes true then .inl fAddr
        else if d.expBase ≠ 0 ∧ !u.spanMay v (d.expSpan p.1).1 (d.expSpan p.1).2 true then .inl fAddr
        else
          .inr ((d.stores p.1 (t.core.vreg (fld w 44 40))).foldl (fun c b => t.send c (3 + ag) (t.hold + 2 + d.occ) true b)
            (c.touch t.cyc (1 + ag) (3 + ag) (d.storeAccesses p.1 (t.hold + 2)) true)))

/-- VST: the next vector of a[AD] = v[V], with exponents, after H + 2 + occ cycles; nothing at a fill position (03 R102, 04 R121). -/
def execVst (v : VatNo) (ag : Fin 4) (w : BitVec 56) (_x : W64) (s : State) : Host.Outcome State Fault Refusal :=
  .next (s.onMain (vstEffect v ag w))

def askipEffect (v : VatNo) (ag : Fin 4) (w : BitVec 56) (x : W64) (s : State) : State :=
  s.issue v (3 + ag) w (fun _ => aIllegal w) (fun _ => []) (fun _ t =>
    let d := parseDesc (t.core.desc (oAd w))
    if !t.core.agFree t.cyc ag (oAd w) then .inl fAgBusy
    else if !d.usable then .inl fFormat
    else .inr ((t.core.bind t.cyc ag (oAd w) 1).step (oAd w) (aVal t.core w x).toInt d.steps))

/-- ASKIP: advance a[AD] by s[SA] + IMM16 vectors (03 Table 3.9). -/
def execAskip (v : VatNo) (ag : Fin 4) (w : BitVec 56) (x : W64) (s : State) : Host.Outcome State Fault Refusal :=
  .next (s.onMain (askipEffect v ag w x))

end Sys2Proof.Machine
end

