-- ==== Sys2Proof/Machine/VatTile.lean ====
section
/-! DEFINITION. Slots 7 to 10: the matrix tiles (03 R83, R84, R89 to R91, Table 3.22; 04 R116 to R126, R136). Each command carries the Vat, the
tile (slot 7 + tile), bits [55:0] of the slot word and slot 15. A stream operation reads all its vectors at issue (DESIGN CHOICE, log
entry 24); a fault at a later vector keeps its own cycle. -/

namespace Sys2Proof.Machine

/-! ### Fields of format T (03 Table 3.7) -/

def tAg (w : BitVec 56) : Nat := fld w 49 48
def tAd (w : BitVec 56) : Nat := fld w 47 43
def tAcc (w : BitVec 56) : Nat := fld w 42 39
def tRow0 (w : BitVec 56) : Nat := fld w 38 32
def tAuto (w : BitVec 56) : Bool := bit w.toNat 31
def tN (w : BitVec 56) : Nat := fld w 30 24 + 1
def tFmt (w : BitVec 56) : Nat := fld w 23 21
def tWb (w : BitVec 56) : Nat := fld w 20 20
def tZero (w : BitVec 56) : Bool := bit w.toNat 19
def tV (w : BitVec 56) : Nat := fld w 18 14

/-- Reserved bits of format T other than TCLR, and of TCLR (03 Table 3.7). -/
def tIllegal (w : BitVec 56) : Bool := rsv w 13 0
def tclrIllegal (w : BitVec 56) : Bool := rsv w 49 16

/-- VEC and ELEM[1:0] of the descriptor of a TWLD (weights) or a TMM (activations), by FMT (03 Table 3.22). -/
def fmtShape (fmt : Nat) (weights : Bool) : Nat × Nat :=
  match fmt with
  | 1 => (256, 0)
  | 2 => (128, if weights then 0 else 1)
  | 5 => (128, 2)
  | _ => (128, 1)

/-- The descriptor has the shape of its FMT; FMT 6 and 7 have none. -/
def AgDesc.fits (d : AgDesc) (fmt : Nat) (weights : Bool) : Bool :=
  decide (fmt ≤ 5) && decide ((d.vec, d.elem) = fmtShape fmt weights)

/-- The exponent planes take no part (04 R116; "For a BF16 TMM or TWLD, the exponent planes are ignored"). -/
def AgDesc.noExp (d : AgDesc) (b : Bool) : AgDesc := if b then { d with expBase := 0 } else d

/-! ### Streams -/

/-- The first n vectors from step k of descriptor d, and the number and code of the first vector that faults (03 R100 to R103). -/
def State.agStream (s : State) (v : Nat) (d : AgDesc) (k : Nat) : Nat → List (List Nat × List Nat) × Option (Nat × Nat)
  | 0 => ([], none)
  | n + 1 =>
    let r := s.agStream v d k n
    match r.2 with
    | some _ => r
    | none =>
      match s.agVector v d ((k + n) % max 1 d.steps) with
      | .inl code => (r.1, some (n, code))
      | .inr x => (r.1 ++ [x], none)

/-- The memory a stream of n vectors reads. -/
def AgDesc.streamReads (d : AgDesc) (k n : Nat) : List (Nat × Nat) :=
  ((List.range n).map (fun i => d.reads ((k + i) % max 1 d.steps))).flatten

/-- A fault found in a stream takes effect in its cycle (03 R111). -/
def VatCore.streamFault (c : VatCore) (cyc slot code : Nat) : VatCore := { c with stream := c.stream ++ [(cyc, slot, code, c.pc)] }

/-- The generator tile operations name is free for descriptor ad. -/
def tileAg (w : BitVec 56) (t : Vat) : Bool := t.core.agFree t.cyc (tAg w) (tAd w)

/-! ### Elements (04 R115, R118, R119, R122) -/

/-- Value of a code with its block exponent, by FMT; weights of FMT 2 are decoded to 8 bits when loaded. -/
def elemVal (fmt code : Nat) (e : Int) : FV :=
  match fmt with
  | 1 => (FV.ofInt (toInt 4 code)).scale e
  | 3 => (valE4M3 code).scale e
  | 4 => (valE5M2 code).scale e
  | 5 => valBF16 code
  | _ => (FV.ofInt (toInt 8 code)).scale e

/-- The integer an element has in integer mode: FMT 0 and 1 (04 R124). -/
def elemInt (fmt code : Nat) : Int := if fmt = 1 then toInt 4 code else toInt 8 code

/-- The significand of an element as the multiplier sees it (04, "Array checksums"). -/
def elemSig (fmt code : Nat) : Int :=
  match fmt with
  | 3 => (match valE4M3 code with | .fin neg m _ => scaled neg m 0 0 | _ => 0)
  | 4 => (match valE5M2 code with | .fin neg m _ => scaled neg m 0 0 | _ => 0)
  | 5 => (match valBF16 code with | .fin neg m _ => scaled neg (m / 65536) 0 0 | _ => 0)
  | _ => elemInt fmt code

/-- The default LN4 grid (04 Table 4.2). -/
def ln4Default : List Int := [-127, -90, -69, -53, -39, -27, -16, -5, 5, 16, 27, 39, 53, 69, 90, 127]

/-- The LN4 table in force: the tile's, or the default grid when all its entries are 0 (04 R116). -/
def VatCore.ln4 (c : VatCore) (tile : Nat) : List Int :=
  let l := mapGet (List.replicate 16 0) c.luts tile
  if l.all (fun x => x == 0) then ln4Default else l

/-- w8 of an LN4 code: round_half_even(t[c] * s8 / 256) (04 R118). -/
def ln4Decode (grid : List Int) (code s8 : Nat) : Int :=
  let p := grid.getD code 0 * (s8 : Int)
  let m : Int := (rneShift p.natAbs 8 : Nat)
  if p < 0 then -m else m

/-! ### TWLD (04 R117, R118, R122, R136) -/

/-- The superblock exponent bytes of one vector of an FMT 2 load: 1 MiB above the scale plane, one per 256 codes (04 R117). -/
def AgDesc.superAt (d : AgDesc) (off : Int) (i : Nat) : Int :=
  (d.expBase : Int) + 0x100000 + (off - (d.base : Int) + (i / 2 : Nat)) / 128

/-- The superblock plane of a vector lies in range, and its fault if not or if it is poisoned. -/
def State.superFault (s : State) (v : Nat) (d : AgDesc) (k : Nat) : Option Nat :=
  let p := d.at k
  if p.2 ∧ d.fill ≠ 2 then none
  else
    let a := d.superAt p.1 0
    let n := (d.superAt p.1 (d.vec - 1) - a).toNat + 1
    if !s.spanMay v a n false then some fAddr
    else if s.poisoned (pondAddr v a.toNat) n then some fPoison
    else none

/-- The Pond accesses of a stream of n vectors from step k, vector i in cycle i * num / den; of an FMT 2 load its superblock plane too (03 R104). -/
def AgDesc.streamAccesses (d : AgDesc) (k n num den : Nat) (super : Bool) : List (Nat × Nat × Nat) :=
  ((List.range n).map (fun i =>
    let j := (k + i) % max 1 d.steps
    let p := d.at j
    d.accesses j (i * num / den) 1 ++
      (if super ∧ !(p.2 && d.fill != 2) then
        [(i * num / den, (d.superAt p.1 0).toNat, (d.superAt p.1 (d.vec - 1) - d.superAt p.1 0).toNat + 1)] else []))).flatten

/-- Codes and exponents of the weight row read at step k. At a zero or constant fill position of an FMT 2 load the scale byte and the superblock exponent are 0 (DESIGN CHOICE,
log entry 51: 03 R102 gives such an element exponent 0 and says nothing of these two). -/
def State.weightRow (s : State) (v : Nat) (c : VatCore) (tile fmt : Nat) (d : AgDesc) (k : Nat) (x : List Nat × List Nat) :
    List Nat × List Int :=
  if fmt = 2 then
    let p := d.at k
    let grid := c.ln4 tile
    let sup := fun (i : Nat) => if p.2 ∧ d.fill ≠ 2 then 0 else s.loadLE (pondAddr v (d.superAt p.1 i).toNat) 1
    (List.zipWith (fun code s8 => ofInt 8 (ln4Decode grid code s8)) x.1 x.2,
      (List.range x.1.length).map (fun i => expOf (sup i) + 1))
  else (x.1, x.2.map expOf)

/-- The checksum column: per input element, the sum over the columns of the weight significands (04 R136). -/
def chkColumn (fmt : Nat) (codes : List (List Nat)) : List Int :=
  if fmt = 1 then
    (codes.map (fun row =>
      [0, 1].map (fun k => (List.range 128).foldl (fun a j => a + elemSig fmt (row.getD (2 * j + k) 0)) (0 : Int)))).flatten
  else codes.map (fun row => row.foldl (fun a x => a + elemSig fmt x) 0)

/-- The weight buffer a TWLD leaves. -/
def State.weights (s : State) (v : Nat) (c : VatCore) (tile fmt : Nat) (d : AgDesc) (k : Nat) (xs : List (List Nat × List Nat)) : WBuf :=
  let rows := (List.range xs.length).map (fun i => s.weightRow v c tile fmt d ((k + i) % max 1 d.steps) (xs.getD i ([], [])))
  { fmt := some fmt, exps := d.expBase != 0, codes := rows.map (fun r => r.1), exp := rows.map (fun r => r.2),
    chk := chkColumn fmt (rows.map (fun r => r.1)) }

/-- The first vector of an FMT 2 load whose superblock plane faults, before vector n. -/
def State.superFirst (s : State) (v : Nat) (d : AgDesc) (k n : Nat) : Option (Nat × Nat) :=
  ((List.range n).filterMap (fun i => (s.superFault v d ((k + i) % max 1 d.steps)).map (fun c => (i, c)))).head?

/-- TWLD at issue: checks, then the load of 128 vectors; a fault at vector i > 0 stops it in cycle t + i (03 R111). -/
def twldAct (v tile : Nat) (w : BitVec 56) (u : State) (t : Vat) : Sum Nat VatCore :=
  let fmt := tFmt w
  let d0 := parseDesc (t.core.desc (tAd w))
  let d := d0.noExp (fmt == 5)
  let key := tile * 2 + tWb w
  if !tileAg w t then .inl fAgBusy
  else if t.cyc < t.core.twUntil.getD tile 0 ∨ t.cyc < t.core.wbUntil.getD key 0 then .inl fTileBusy
  else if !d.usable ∨ !d.fits fmt true ∨ (fmt = 2 ∧ d.expBase = 0) then .inl fFormat
  else
    let k := t.core.pos (tAd w)
    let r := u.agStream v d k 128
    let sup := if fmt = 2 then u.superFirst v d k 128 else none
    let bad : Option (Nat × Nat) := match r.2, sup with
      | some a, some b => if b.1 < a.1 then some b else some a
      | some a, none => some a
      | none, x => x
    let c := (t.core.bind t.cyc (tAg w) (tAd w) 64).step (tAd w) 128 d.steps
    let c := { c with twUntil := listSet c.twUntil tile (t.cyc + 64) }
    match bad with
    | some (0, code) => .inl code
    | some (i, code) => .inr (c.streamFault (t.cyc + i / 2) (7 + tile) code)
    | none =>
      let c := c.touch t.cyc (1 + tAg w) (7 + tile) (d.streamAccesses k 128 1 2 (fmt == 2)) false
      .inr (t.send c (7 + tile) 68 false (.wbuf key (u.weights v t.core tile fmt d k r.1)))

def twldEffect (v : VatNo) (tile : TileNo) (w : BitVec 56) (s : State) : State :=
  s.issue v (7 + tile) w (fun _ => tIllegal w)
    (fun c =>
      let d := (parseDesc (c.desc (tAd w))).noExp (tFmt w == 5)
      d.streamReads (c.pos (tAd w)) 128)
    (twldAct v tile w)

/-- TWLD: WB[WB] = the next 128 vectors of a[AD], after 68 cycles (03 Table 3.9; 04 R117, R118, R122, R136). -/
def execTwld (v : VatNo) (tile : TileNo) (w : BitVec 56) (_x : W64) (s : State) : Host.Outcome State Fault Refusal :=
  .next (s.onMain (twldEffect v tile w))

/-! ### TMM (03 R89, R90; 04 R122 to R126) -/

/-- The products that meet in column j: element i of the vector with the weight of row i, or of row i / 2 for Q4S (03 R89, 04 R122). -/
def products (fmt : Nat) (b : WBuf) (x : List Nat × List Nat) (j : Nat) : List FV :=
  (List.range x.1.length).map (fun i =>
    let r := if fmt = 1 then i / 2 else i
    let c := if fmt = 1 then 2 * j + i % 2 else j
    (elemVal fmt (x.1.getD i 0) (expOf (x.2.getD i 0))).mul
      (elemVal fmt ((b.codes.getD r []).getD c 0) ((b.exp.getD r []).getD c 0)))

/-- The exact integer sum of column j (04 R124). -/
def intSum (fmt : Nat) (b : WBuf) (x : List Nat) (j : Nat) : Int :=
  (List.range x.length).foldl (fun a i =>
    let r := if fmt = 1 then i / 2 else i
    let c := if fmt = 1 then 2 * j + i % 2 else j
    a + elemInt fmt (x.getD i 0) * elemInt fmt ((b.codes.getD r []).getD c 0)) 0

/-- The TMM runs in integer mode (04 R123). -/
def integerMode (fmt : Nat) (d : AgDesc) (b : WBuf) : Bool := decide (fmt ≤ 1) && d.expBase == 0 && !b.exps

/-- What row key becomes by vector x: written with ZERO, accumulated without, by the mode (04 R124, R125). -/
def rowResult (fmt : Nat) (int zero : Bool) (b : WBuf) (x : List Nat × List Nat) (key : Nat) : Dest :=
  if int then
    let l := (List.range 128).map (intSum fmt b x.1)
    if zero then .accSet key (l.map (fun z => BitVec.ofNat 32 (ofInt 32 z))) else .accInt key l
  else
    let l := (List.range 128).map (fun j => tileSum (products fmt b x j))
    if zero then .accSet key l else .accFp key l

/-- The latency of row i: t + 140 + i, or t + 148 + 4 i for BF16 (03 Table 3.9). -/
def rowLatency (fmt i : Nat) : Nat := if fmt = 5 then 148 + 4 * i else 140 + i

/-- Cycles per vector. -/
def vecCycles (fmt : Nat) : Nat := if fmt = 5 then 4 else 1

/-- The scan unit runs on the tile in an occupancy that began in an earlier cycle (08 R229). -/
def scanOnTile (t : Vat) (tile : Nat) : Bool :=
  t.core.scnTile == tile && decide (t.cyc < t.core.scnUntil) && decide (t.core.scnFrom < t.cyc)

/-- A TMM whose checksum is to be reported within 8 cycles of its last row (04 R136); those whose time has passed are gone. -/
def VatCore.noteTmm (c : VatCore) (cyc tile last kernel : Nat) (lc : Bool) : VatCore :=
  { c with tmms := c.tmms.filter (fun e => decide (cyc ≤ e.2.1 + 8)) ++ [(tile, last, kernel, lc)] }

def tmmAct (v tile : Nat) (w : BitVec 56) (u : State) (t : Vat) : Sum Nat VatCore :=
  let fmt := tFmt w
  let n := tN w
  let d := (parseDesc (t.core.desc (tAd w))).noExp (fmt == 5)
  let key := tile * 2 + tWb w
  match t.core.wbufs.find? (fun e => e.1 == key) with
  | none => if !tileAg w t then .inl fAgBusy
            else if t.cyc < t.core.tileUntil.getD tile 0 ∨ scanOnTile t tile then .inl fTileBusy else .inl fFormat
  | some (_, b) =>
    if !tileAg w t then .inl fAgBusy
    else if t.cyc < t.core.tileUntil.getD tile 0 ∨ scanOnTile t tile then .inl fTileBusy
    else if lockedOut t.lock tile (tAcc w) (u.runPart v) then .inl fAccLock
    else if !d.usable ∨ !d.fits fmt false ∨ 128 < tRow0 w + n ∨ b.fmt ≠ some fmt then .inl fFormat
    else
      let k := t.core.pos (tAd w)
      let r := u.agStream v d k n
      let occ := n * vecCycles fmt
      let c := (t.core.bind t.cyc (tAg w) (tAd w) occ).step (tAd w) n d.steps
      let c := { c with
        tileUntil := listSet c.tileUntil tile (t.cyc + occ), wbUntil := listSet c.wbUntil key (t.cyc + occ + 128) }
      let rows := (List.range r.1.length).map (fun i =>
        (rowLatency fmt i, rowResult fmt (integerMode fmt d b) (tZero w) b (r.1.getD i ([], []))
          (accKey tile (tAcc w) (tRow0 w + i))))
      match r.2 with
      | some (0, code) => .inl code
      | some (i, code) =>
        let stop := i * vecCycles fmt
        .inr (((rows.filter (fun x => decide (x.1 ≤ stop))).foldl (fun c x => t.send c (7 + tile) x.1 false x.2) c).streamFault
          (t.cyc + stop) (7 + tile) code)
      | none =>
        let c := c.touch t.cyc (1 + tAg w) (7 + tile) (d.streamAccesses k n (vecCycles fmt) 1 false) false
        let c := c.noteTmm t.cyc tile (t.cyc + rowLatency fmt (n - 1)) (u.runKernel v) (u.runLC v)
        .inr (rows.foldl (fun c x => t.send c (7 + tile) x.1 false x.2) c)

def tmmEffect (v : VatNo) (tile : TileNo) (w : BitVec 56) (s : State) : State :=
  s.issue v (7 + tile) w (fun _ => tIllegal w)
    (fun c =>
      let d := (parseDesc (c.desc (tAd w))).noExp (tFmt w == 5)
      d.streamReads (c.pos (tAd w)) (tN w))
    (tmmAct v tile w)

/-- TMM: rows ROW0 to ROW0 + N - 1 of bank ACC (+)= the next N vectors of a[AD] times WB[WB] (03 R89, R90; 04 R123 to R126). -/
def execTmm (v : VatNo) (tile : TileNo) (w : BitVec 56) (_x : W64) (s : State) : Host.Outcome State Fault Refusal :=
  .next (s.onMain (tmmEffect v tile w))

/-! ### TRD (03 R91) -/

/-- The tile read pointer: bank * 128 + row. -/
def VatCore.readPtr (c : VatCore) (tile : Nat) : Nat := mapGet 0 c.rptr tile

/-- The bank and row a TRD reads from. -/
def trdFrom (c : VatCore) (tile : Nat) (w : BitVec 56) : Nat × Nat :=
  if tAuto w then (c.readPtr tile / 128, c.readPtr tile % 128) else (tAcc w, tRow0 w)

/-- Four rows of a bank, row by row; a row past the bank reads as zeros. -/
def VatCore.fourRows (c : VatCore) (tile bank row : Nat) : List W32 :=
  ((List.range 4).map (fun i => if row + i < 128 then c.accRow (accKey tile bank (row + i)) else zeros 128)).flatten

/-- ROW0 breaks the rule that it is a multiple of 4; what is then read and where the pointer goes the spec does not say (03 R91). -/
def trdOpen (w : BitVec 56) : Bool := !tAuto w && tRow0 w % 4 != 0

def trdEffect (v : VatNo) (tile : TileNo) (w : BitVec 56) (s : State) : State :=
  let s' := s.issue v (7 + tile) w (fun _ => tIllegal w) (fun _ => []) (fun u t =>
    let r := trdFrom t.core tile w
    if lockedOut t.lock tile r.1 (u.runPart v) then .inl fAccLock
    else
      let lanes := if trdOpen w then (List.range 512).map (fun i => (Config.freeWord (u.free + i)).setWidth 32)
        else t.core.fourRows tile r.1 r.2
      let next := if trdOpen w then (Config.freeWord (u.free + 512)).toNat % 512 * 4 else (r.1 * 128 + r.2 + 4) % 2048
      .inr (t.send { t.core with rptr := mapSet 0 t.core.rptr tile next } (7 + tile) 4 false (.vreg (tV w) lanes)))
  if trdOpen w then s'.useFrees 513 else s'

/-- TRD: v[V] = four rows of a bank, from ROW0 or from the read pointer, which moves to the rows that follow (03 R91). -/
def execTrd (v : VatNo) (tile : TileNo) (w : BitVec 56) (_x : W64) (s : State) : Host.Outcome State Fault Refusal :=
  .next (s.onMain (trdEffect v tile w))

/-! ### TCLR and TLUT -/

def tclrEffect (v : VatNo) (tile : TileNo) (w : BitVec 56) (s : State) : State :=
  s.issue v (7 + tile) w (fun _ => tclrIllegal w) (fun _ => []) (fun u t =>
    if (List.range 16).any (fun b => bit (fld w 15 0) b && lockedOut t.lock tile b (u.runPart v)) then .inl fAccLock
    else .inr (t.send t.core (7 + tile) 1 false (.accClear tile (fld w 15 0))))

/-- TCLR: the banks in mask [15:0] = 0, in the next cycle (03 Table 3.9). -/
def execTclr (v : VatNo) (tile : TileNo) (w : BitVec 56) (_x : W64) (s : State) : Host.Outcome State Fault Refusal :=
  .next (s.onMain (tclrEffect v tile w))

def tlutEffect (v : VatNo) (tile : TileNo) (w : BitVec 56) (s : State) : State :=
  s.issue v (7 + tile) w (fun _ => tIllegal w)
    (fun c => ((parseDesc (c.desc (tAd w))).noExp true).reads (c.pos (tAd w)))
    (fun u t =>
      let d := (parseDesc (t.core.desc (tAd w))).noExp true
      let k := t.core.pos (tAd w)
      if !tileAg w t then .inl fAgBusy
      else if !d.usable ∨ d.vec ≠ 16 ∨ d.elem ≠ 1 then .inl fFormat
      else match u.agVector v d k with
        | .inl code => .inl code
        | .inr x =>
          let c := ((t.core.bind t.cyc (tAg w) (tAd w) 1).step (tAd w) 1 d.steps).touch t.cyc (1 + tAg w) (7 + tile) (d.accesses k 0 1) false
          .inr (t.send c (7 + tile) 4 false (.lut tile (x.1.map (toInt 8)))))

/-- TLUT: the tile's LN4 table = the 16 elements of the next step of a[AD], after four cycles (04 R116). -/
def execTlut (v : VatNo) (tile : TileNo) (w : BitVec 56) (_x : W64) (s : State) : Host.Outcome State Fault Refusal :=
  .next (s.onMain (tlutEffect v tile w))

end Sys2Proof.Machine
end

