-- ==== Sys2Proof/Machine/XslSend.lean ====
section
/-! DEFINITION. Sending on the Xexisha link: bounds, tags, routes, and the creation of a message (14 R360, R361, R364, R367). -/

namespace Sys2Proof.Machine

/-- Device d is a member, and is LOST (14 R370). -/
def State.member (s : State) (d : Nat) : Bool := bit (s.reg Reg.XSL_MEMBERS) d
def State.peerLost (s : State) (d : Nat) : Bool := bit (s.reg Reg.XSL_LOST) d

/-- The port the route table names for a device (14 R364). -/
def State.routeOf (s : State) (d : Nat) : Option Nat :=
  let b := bits (s.reg (Reg.XSL_ROUTE (d / 8))) (8 * (d % 8) + 3) (8 * (d % 8))
  if b < 6 then some b else none

/-- The next tag, in the order of release, and the block without it. -/
def State.takeTag (s : State) : Option (Nat × State) :=
  if s.xsl.fresh < 65536 then some (s.xsl.fresh, { s with xsl := { s.xsl with fresh := s.xsl.fresh + 1 } })
  else match s.xsl.ready with
    | t :: l => some (t, { s with xsl := { s.xsl with ready := l } })
    | [] => none

/-- A message to device dst enters the outbound queue of its port (14 R360); none when it must wait: no tag free, or the queue full. -/
def State.sendMsg (s : State) (who : Waiter) (dst gen addr : Nat) (data : Option (List Byte)) (value : Nat) (set poison : Bool) : Option State :=
  match s.routeOf dst with
  | none => none
  | some p =>
    if 4096 ≤ (s.port p).out.length then none
    else match s.takeTag with
      | none => none
      | some (tag, t) =>
        let f : Flit :=
          { typ := if data.isSome then 1 else 2, src := s.devId, dst := dst, gen := gen, tag := tag, hops := s.hops, set := set,
            poison := poison, addr := addr % 2 ^ 48, payload := data.getD (toLE 8 value), since := s.nowNs }
        let u := t.modPort p (fun x => { x with out := x.out ++ [f] })
        some { u with xsl := { u.xsl with msgs := u.xsl.msgs ++ [⟨tag, dst, who, s.nowNs⟩] } }

/-- The pieces of n bytes at a that do not cross a 256-byte boundary (14 R359): address and length. -/
def linkParts : Nat → Nat → Nat → List (Nat × Nat)
  | 0, _, _ => []
  | k + 1, a, n =>
    if n = 0 then []
    else
      let m := min n (256 - a % 256)
      (a, m) :: linkParts k (a + m) (n - m)

end Sys2Proof.Machine
end

