-- ==== Sys2Proof/Machine/VatMover.lean ====
section
/-! DEFINITION. Slots 13 and 14, the movers, and faults found in streams (03 R103, R105 to R107, R111; 05 R153, R156, R160; 06 R198, R200;
14 R360, R368; 15 R385). Requests move one after the other in MOVER_DESCRIPTOR_START, each whole, as far as the paths are owned (DESIGN CHOICE, log entry 28): what
has moved has landed, whatever then cuts the kernel (02 R59, R63; 03 R111). -/

namespace Sys2Proof.Machine

/-! ### The slot operations -/

/-- Reserved bits of format M (03 Table 3.8). -/
def mIllegal (w : BitVec 56) : Bool := rsv w 37 16

def mpushEffect (v : VatNo) (m : Fin 2) (w : BitVec 56) (x : W64) (s : State) : State :=
  s.issue v (13 + m) w (fun _ => mIllegal w)
    (fun c => if s.pondMay v (nOff c w x) 64 false then [(nOff c w x, 64)] else [])
    (fun u t =>
      let off := nOff t.core w x
      if 4096 ≤ moverCount t.core m then .inl fMqFull
      else if !(aligned off 64 && u.pondMay v off 64 false) ∨ (u.sliceOn v).isSome then .inl fAddr
      else if u.poisoned (pondAddr v off) 64 then .inl fPoison
      else .inr (t.send (t.core.touch t.cyc 5 (13 + m) [(0, off, 64)] false) (13 + m) (t.hold + 4) true (.mpush m (u.bytes (pondAddr v off) 64))))

/-- MPUSH: the descriptor at Pond offset s[SA] + IMM16 enters the queue of mover m after H + 4 cycles (03 R107, R109). Its read is served with those of the scalar slots (DESIGN
CHOICE, log entry 51: 03 R104 lists no place for it). A self-test slice may not
push: ADDR (15 R393). -/
def execMpush (v : VatNo) (m : Fin 2) (w : BitVec 56) (x : W64) (s : State) : Host.Outcome State Fault Refusal :=
  .next (s.onMain (mpushEffect v m w x))

/-- SD of format M. -/
def mSd (w : BitVec 56) : Nat := fld w 43 38

def mcntEffect (v : VatNo) (m : Fin 2) (w : BitVec 56) (s : State) : State :=
  s.issue v (13 + m) w (fun _ => mIllegal w) (fun _ => []) (fun _ t =>
    .inr (t.send t.core (13 + m) 2 false (.sreg (mSd w) (BitVec.ofNat 64 (moverCount t.core m)))))

/-- MCNT: s[SD] = outstanding descriptors of mover m, after 2 cycles (03 R107). -/
def execMcnt (v : VatNo) (m : Fin 2) (w : BitVec 56) (_x : W64) (s : State) : Host.Outcome State Fault Refusal :=
  .next (s.onMain (mcntEffect v m w))

def mstatEffect (v : VatNo) (m : Fin 2) (w : BitVec 56) (s : State) : State :=
  s.issue v (13 + m) w (fun _ => mIllegal w) (fun _ => []) (fun u t =>
    let c := t.send t.core (13 + m) 2 false (.sreg (mSd w) (BitVec.ofNat 64 (u.reg (Reg.VAT_MV_LASTERR v m))))
    .inr (t.send c (13 + m) 1 false (.mstat m)))

/-- MSTAT: s[SD] = VAT_MVm_LASTERR, which is then cleared (03 Table 3.9). -/
def execMstat (v : VatNo) (m : Fin 2) (w : BitVec 56) (_x : W64) (s : State) : Host.Outcome State Fault Refusal :=
  .next (s.onMain (mstatEffect v m w))

/-! ### Faults in streams (03 R111) -/

def vatFaultInStreamEffect (v : VatNo) (s : State) : State :=
  let t := s.vat v
  if !t.running || t.faulted then s
  else
    match (t.core.stream.filter (fun e => decide (e.1 ≤ t.cyc))).foldl (fun best e =>
        match best with
        | none => some e
        | some b => if e.1 < b.1 ∨ (e.1 = b.1 ∧ e.2.1 < b.2.1) then some e else some b) (none : Option (Nat × Nat × Nat × Nat)) with
    | none => s
    | some e => (s.recordFault v e.2.1 e.2.2.1 e.2.2.2).faultEnds v

/-- VAT_FAULT_IN_STREAM: a fault found in a stream, in its cycle or later, is recorded, stops issue and ends the kernel (03 R111); without one
nothing happens. -/
def execVatFaultInStream (v : VatNo) (s : State) : Host.Outcome State Fault Refusal := .next (s.onMain (vatFaultInStreamEffect v))

/-! ### Queue entry (03 R107) -/

/-- Mover m of Vat v changed by f. -/
def State.modMover (s : State) (v m : Nat) (f : Mover → Mover) : State :=
  s.modCore v (fun c => { c with movers := listModify f c.movers m })

/-- Mover m of a core. -/
def VatCore.mover (c : VatCore) (m : Nat) : Mover := c.movers.getD m Mover.reset

/-- A descriptor joins a queue. -/
def Mover.push (q : Mover) (b : List Byte) : Mover :=
  { queue := q.queue ++ [{ seq := q.seq, bytes := b, started := none, fixed := none, todo := [], got := [], fails := [] }],
    seq := (q.seq + 1) % 2 ^ 24 }

def moverQueueEntryEffect (v : VatNo) (m : Fin 2) (s : State) : State :=
  let t := s.vat v
  let mine := fun (f : Flight) => match f.dest with | .mpush k _ => k == m.val && !f.held && decide (f.due ≤ t.cyc) | _ => false
  match t.core.flights.findIdx? mine with
  | none => s
  | some i =>
    match t.core.flights[i]? with
    | none => s
    | some f =>
      match f.dest with
      | .mpush _ b => (s.modCore v (fun c => { c with flights := c.flights.eraseIdx i })).modMover v m.val (fun q => q.push b)
      | _ => s

/-- MOVER_QUEUE_ENTRY: the oldest pushed descriptor that the checker has passed and whose H + 4 cycles are over enters the queue (03 R107,
Table 3.14). -/
def execMoverQueueEntry (v : VatNo) (m : Fin 2) (s : State) : Host.Outcome State Fault Refusal := .next (s.onMain (moverQueueEntryEffect v m))

/-! ### Fields of a descriptor (03 Table 3.13) -/

def mvSrc (b : List Byte) : Nat := fieldLE b 0 8
def mvDst (b : List Byte) : Nat := fieldLE b 8 8
def mvRowBytes (b : List Byte) : Nat := fieldLE b 0x10 4
def mvRows (b : List Byte) : Nat := fieldLE b 0x14 4
def mvSrcPitch (b : List Byte) : Int := toInt 32 (fieldLE b 0x18 4)
def mvDstPitch (b : List Byte) : Int := toInt 32 (fieldLE b 0x1C 4)
def mvKind (b : List Byte) : Nat := fieldLE b 0x20 1
def mvFlags (b : List Byte) : Nat := fieldLE b 0x21 1
def mvCell (b : List Byte) : Nat := fieldLE b 0x22 2
def mvDeadline (b : List Byte) : Nat := fieldLE b 0x24 4
def mvGen (b : List Byte) : Nat := fieldLE b 0x28 1
def mvCodec (b : List Byte) : Nat := fieldLE b 0x29 1
def mvValue (b : List Byte) : Nat := fieldLE b 0x30 8

/-- Device and local address of a global address (01 R35). -/
def gaDev (a : Nat) : Nat := bits a 53 48
def gaLocal (a : Nat) : Nat := a % 2 ^ 48

/-- The destination is another device. -/
def State.mvRemote (s : State) (b : List Byte) : Bool := gaDev (mvDst b) != s.devId

/-- Rows of a copy: source and destination of each row (addresses modulo 2^48). -/
def mvRowList (b : List Byte) : List (Nat × Nat) :=
  (List.range (mvRows b)).map (fun (r : Nat) =>
    (ofInt 48 ((gaLocal (mvSrc b) : Int) + ((r : Nat) : Int) * mvSrcPitch b), ofInt 48 ((gaLocal (mvDst b) : Int) + ((r : Nat) : Int) * mvDstPitch b)))

/-- The raw map of a codec copy (06 R198): the raw side is the source of an encode, the destination of a decode. -/
def mvRaw (b : List Byte) : RawMap :=
  let enc := decide (mvCodec b < 0x80)
  let c := bits (mvValue b) 47 32
  { w := mvRowBytes b / max 1 c, h := mvRows b, c := c, base := gaLocal (if enc then mvSrc b else mvDst b),
    pitch := (if enc then mvSrcPitch b else mvDstPitch b).toNat, plane := bits (mvValue b) 31 0 }

/-- Ratio of a codec, and the bytes of the compressed side. -/
def mvRatio (b : List Byte) : Option (Nat × Nat × Nat × Nat) := frcRatio (mvCodec b % 0x80)
def mvPacked (b : List Byte) : Nat := (mvRaw b).units.length * (match mvRatio b with | some r => r.2.2.2 | none => 0)

/-- The Pond extents of a raw map, row by row: its codes, and their exponents (06 R198). -/
def mvRawRows (b : List Byte) : List (Nat × Nat) :=
  let o := gaLocal (mvRaw b).base % 0x4000000
  ((List.range (mvRows b)).map (fun (r : Nat) => [(o + r * (mvRaw b).pitch, mvRowBytes b), ((mvRaw b).plane + r * (mvRaw b).pitch / 32, mvRowBytes b / 32)])).flatten

/-- The codec conditions of 06 R198 other than the addresses. -/
def mvCodecOk (b : List Byte) : Bool :=
  let m := mvRaw b
  let enc := decide (mvCodec b < 0x80)
  (mvRatio b).isSome && m.c % 32 == 0 && decide (32 ≤ m.c) && decide (m.c ≤ 4096) && bits (mvValue b) 63 48 == 0 &&
    mvRowBytes b % m.c == 0 && m.pitch % 32 == 0 && decide (mvRowBytes b ≤ m.pitch) &&
    (if enc then decide (0 < mvSrcPitch b) && mvDstPitch b == 0 else decide (0 < mvDstPitch b) && mvSrcPitch b == 0)

/-- The fields of a descriptor are valid (03 Table 3.13, R106). -/
def State.mvFields (s : State) (b : List Byte) : Bool :=
  let common := mvDst b / 2 ^ 54 == 0 && decide (mvFlags b < 2) && !bit (mvCell b) 14
  if mvKind b = 1 then common && mvCodec b == 0
  else
    common && mvKind b == 0 && mvSrc b / 2 ^ 54 == 0 && gaDev (mvSrc b) == s.devId && decide (1 ≤ mvRowBytes b) &&
      decide (mvRowBytes b ≤ 16777216) && decide (1 ≤ mvRows b) && decide (mvRows b ≤ 65536) &&
      (fieldLE b 0x2A 6 == 0 && fieldLE b 0x38 8 == 0) && (mvCodec b == 0 || mvCodecOk b)

/-- The fabric accesses of a descriptor on this device, which the range checker sees: want, address, length (01 R34; 06 R198). -/
def State.mvAccesses (s : State) (v : Nat) (b : List Byte) : List (Want × Nat × Nat) :=
  let remote := s.mvRemote b
  if mvKind b = 1 then (if remote then [] else [(.s, gaLocal (mvDst b), 8)])
  else if mvCodec b = 0 then
    ((mvRowList b).map (fun r => (Want.r, r.1, mvRowBytes b) :: (if remote then [] else [(Want.w, r.2, mvRowBytes b)]))).flatten
  else if mvCodec b < 0x80 then (if remote then [] else [(.w, gaLocal (mvDst b), mvPacked b)])
  else [(.r, gaLocal (mvSrc b), mvPacked b)]

/-- The raw side of a codec copy is in the mover's own Pond (06 R198). -/
def mvRawHome (v : Nat) (b : List Byte) : Bool :=
  mvCodec b == 0 || mvKind b == 1 ||
    (decide (regionOf (mvRaw b).base = .pond v) && (decide (mvCodec b < 0x80) || !decide (gaDev (mvDst b) ≠ gaDev (mvSrc b))))

/-- The raw side of a codec copy passes R103 as a sequencer-side access of the kernel's partition (06 R198). -/
def State.mvRawOk (s : State) (v : Nat) (b : List Byte) : Bool :=
  mvCodec b == 0 || mvKind b == 1 || (mvRawRows b).all (fun x => s.pondMay v x.1 x.2 (!decide (mvCodec b < 0x80)))

/-- The first access of a descriptor that fails 01 R34: it is counted at the checker. -/
def State.mvDenied (s : State) (v p : Nat) (b : List Byte) : Option (Want × Nat × Nat) :=
  (s.mvAccesses v b).find? (fun a =>
    !s.admits (.vat (Fin.ofNat 8 v)) (some p) a.1 a.2.1 a.2.2 ||
      (decide (regionOf a.2.1 = .image) && a.1 == .r && !s.imageMapped (.vat (Fin.ofNat 8 v)) a.2.1 a.2.2))

/-- Suppressed runs: the shadow of a pair, and a golden run (15 R385, R390): what leaves the Vat is not sent. -/
def State.suppressed (s : State) (v : Nat) : Bool :=
  let e := s.entry s.slotNow v
  let pair := kPairVat (s.runEntry v)
  (s.runKernel v != 0xFFF && pair != 0xFF && decide (pair < v)) || (eType e == 4 && (s.run v).list.isNone)

/-- The address lies in the window of Vat v. -/
def ownWindow (v a : Nat) : Bool := decide (vatBase v ≤ a) && decide (a < vatBase v + 0x4000000)

/-- Bytes of a request that have been read and not yet written, with their error marks. -/
def MvEntry.held (e : MvEntry) (a n : Nat) : Option (List Byte × List Bool) :=
  let one := fun (x : Nat) => (e.got.find? (fun g => decide (g.1 ≤ x) && decide (x < g.1 + g.2.1.length))).map
    (fun g => (g.2.1.getD (x - g.1) 0#8, g.2.2.getD (x - g.1) false))
  let l := (List.range n).filterMap (fun i => one (a + i))
  if l.length = n then some (l.map (fun x => x.1), l.map (fun x => x.2)) else none

/-- The segment rows the read of n bytes at src needs now: none for bytes a codec made (2^60 upward), for a page, whose read is gated at its die, and in the Vat's own
window (02 R53). -/
def readRows (v src n : Nat) : List Nat :=
  if 2 ^ 60 ≤ src ∨ regionOf src = .image then [] else pathRows (.vat (Fin.ofNat 8 v)) (extentRegion src n) true

/-- The segment rows a write of the descriptor needs: to the destination, or to the hub die for a message; none into the Vat's own Pond (02 R53; 14 R360). -/
def State.writeRows (s : State) (v : Nat) (b : List Byte) (dst n : Nat) : List Nat :=
  if s.mvRemote b then [v, 22 + 2 * vatDie v]
  else if 0x80 ≤ mvCodec b ∧ mvKind b = 0 then []
  else pathRows (.vat (Fin.ofNat 8 v)) (extentRegion dst n) false

/-- The segment rows of the first request of a descriptor: its read, or its write where nothing is read over the fabric. -/
def State.mvPath (s : State) (v : Nat) (b : List Byte) : List Nat :=
  let src := gaLocal (mvSrc b)
  let from_ := if mvKind b = 1 ∨ (0 < mvCodec b ∧ mvCodec b < 0x80) then []
    else match regionOf src with
      | .image => (match s.dieFrame (vatDie v) (pageOf src) with | some f => pathRows (.vat (Fin.ofNat 8 v)) (.lake (f / 12288)) true | none => [8 + v])
      | r => pathRows (.vat (Fin.ofNat 8 v)) r true
  if from_.isEmpty then s.writeRows v b (gaLocal (mvDst b)) 1 else from_

/-! ### Reading the source -/

/-- The units of an encode: their bytes and whether each unit holds an uncorrectable raw word (06 R194, R200). -/
def State.mvEncode (s : State) (v : Nat) (b : List Byte) : List (List Byte × Bool) :=
  let m := mvRaw b
  match mvRatio b with
  | none => []
  | some r => m.units.map (fun u =>
      let at_ := fun (p ch : Nat) => m.at (m.pixel u p).1 (m.pixel u p).2 (32 * u.2.2 + ch)
      let bad := (List.range 64).any (fun p =>
        s.poisoned (m.base + at_ p 0) 32 || s.poisoned (pondAddr v (m.plane + at_ p 0 / 32)) 1)
      (frcEncode r { exps := (List.range 64).map (fun p => s.loadLE (pondAddr v (m.plane + at_ p 0 / 32)) 1),
                     codes := (List.range 32).map (fun ch => (List.range 64).map (fun p => s.loadLE (m.base + at_ p ch) 1)) }, bad))

/-- One decoded unit written to the raw side: only positions inside the map (06 R193, R195, R200). -/
def State.mvDecodeUnit (s : State) (v : Nat) (b : List Byte) (r : Nat × Nat × Nat × Nat) (u : Nat × Nat × Nat) (l : List Byte) (bad : Bool) : State :=
  let m := mvRaw b
  let d := frcDecode r l
  (List.range 64).foldl (fun t p =>
    let x := 8 * u.2.1 + p % 8
    let y := 8 * u.1 + p / 8
    if x < m.w ∧ y < m.h then
      let a := m.at x y (32 * u.2.2)
      let codes := (List.range 32).map (fun ch => BitVec.ofNat 8 ((d.codes.getD ch []).getD p 0))
      ((t.putBytes (m.base + a) codes (List.replicate 32 bad)).putBytes (pondAddr v (m.plane + a / 32)) [BitVec.ofNat 8 (d.exps.getD p 0)] [bad]).vatAct
        v 2 2
    else t) s

/-! ### Start (03 R105; 14 R360) -/

/-- Entry i of the queue of mover m changed by f. -/
def State.modEntry (s : State) (v m i : Nat) (f : MvEntry → MvEntry) : State :=
  s.modMover v m (fun q => { q with queue := listModify f q.queue i })

/-- The descriptor with sequence number seq changed by f. -/
def State.modSeq (s : State) (v m seq : Nat) (f : MvEntry → MvEntry) : State :=
  s.modMover v m (fun q => { q with queue := q.queue.map (fun e => if e.seq = seq then f e else e) })

/-- Some read of the descriptor is held, some message of it outstanding. -/
def State.waitsHeld (s : State) (w : Waiter) : Bool := s.mig.held.any (fun h => h.who == w)
def State.waitsMsg (s : State) (w : Waiter) : Bool := s.xsl.msgs.any (fun x => x.who == w)

/-- The image parts a descriptor reads. -/
def mvImageParts (b : List Byte) : List (Nat × Nat) :=
  if mvKind b = 1 then []
  else if mvCodec b ≥ 0x80 then (if regionOf (gaLocal (mvSrc b)) = .image then imageParts (gaLocal (mvSrc b)) (mvPacked b) else [])
  else if mvCodec b = 0 then ((mvRowList b).map (fun r => if regionOf r.1 = .image then imageParts r.1 (mvRowBytes b) else [])).flatten
  else []

/-- The pieces a row is read in: the parts of the image range, or the row itself. -/
def rowPieces (a n : Nat) : List (Nat × Nat) := if regionOf a = .image then imageParts a n else [(a, n)]

/-- The requests of a descriptor in their order: destination, source, length, 0 for a sync-cell operation; of a decode the number of the unit in place of the destination; of
a remote descriptor its messages (14 R360). -/
def State.mvTodo (s : State) (b : List Byte) : List (Nat × Nat × Nat) :=
  let dst := gaLocal (mvDst b)
  if mvKind b = 1 then [(dst, 0, 0)]
  else if s.mvRemote b then
    let row := fun (src dst n : Nat) => (linkParts (n / 256 + 2) dst n).map (fun e => (e.1, src + (e.1 - dst), e.2))
    if mvCodec b = 0 then ((mvRowList b).map (fun r => row r.1 r.2 (mvRowBytes b))).flatten else row (2 ^ 60) dst (mvPacked b)
  else if mvCodec b = 0 then
    ((mvRowList b).map (fun r => (rowPieces r.1 (mvRowBytes b)).map (fun q => (r.2 + (q.1 - r.1), q.1, q.2)))).flatten
  else if mvCodec b < 0x80 then [(dst, 2 ^ 60, mvPacked b)]
  else match mvRatio b with
    | none => []
    | some r => (List.range (mvRaw b).units.length).map (fun (k : Nat) => (k, gaLocal (mvSrc b) + k * r.2.2.2, r.2.2.2))

/-- The reads of image parts: data that is there arrives, the rest is held. -/
def State.mvReadImage (s : State) (v m i : Nat) (e : MvEntry) (p : Nat) : State :=
  let dl := if mvDeadline e.bytes = 0 then none else some (s.fclk + mvDeadline e.bytes)
  (mvImageParts e.bytes).foldl (fun t a =>
    let r := t.readPart (.mover v m e.seq) (.vat (Fin.ofNat 8 v)) p a.1 a.2 dl
    match r.2 with
    | some l => (r.1.actMover v a.1 a.2).modEntry v m i (fun x => { x with got := x.got ++ [(a.1, l, List.replicate l.length false)] })
    | none => r.1) s

/-- A write of the descriptor on this device, or only its mark in the run signature where it is suppressed (15 R385). -/
def State.mvWrite (s : State) (v m dst : Nat) (l : List Byte) (mask : List Bool) : State :=
  let t := s.rsigAdd v (1 + m) (toLE 8 dst ++ l)
  if s.suppressed v && !ownWindow v dst then t else (t.putBytes dst l mask).actMover v dst l.length

/-- A sync-cell operation of the descriptor: on this device, or as a message; none where it must wait. -/
def State.mvCellOp (s : State) (v m : Nat) (e : MvEntry) (a : Nat) : Option State :=
  let b := e.bytes
  let x := BitVec.ofNat 64 (mvValue b)
  if s.mvRemote b then
    let t := s.rsigAdd v (1 + m) (toLE 8 (gaDev (mvDst b) * 2 ^ 48 + a) ++ toLE 1 (mvFlags b % 2) ++ toLE 8 (mvValue b))
    if s.suppressed v then some t else t.sendMsg (.mover v m e.seq) (gaDev (mvDst b)) (mvGen b) a none (mvValue b) (bit (mvFlags b) 0) false
  else
    let t := s.rsigAdd v (1 + m) (toLE 8 a ++ toLE 1 (mvFlags b % 2) ++ toLE 8 (mvValue b))
    some (if s.suppressed v && !ownWindow v a then t else t.cellOp a (if bit (mvFlags b) 0 then .set x else .add x))

/-- The data of a request goes to its place: a unit of a decode, a message, a write; none where it must wait. -/
def State.mvPut (s : State) (v m : Nat) (e : MvEntry) (r : Nat × Nat × Nat) (l : List Byte) (mask : List Bool) : Option State :=
  let b := e.bytes
  if s.mvRemote b then
    let t := s.rsigAdd v (1 + m) (toLE 8 (gaDev (mvDst b) * 2 ^ 48 + r.1) ++ l)
    if s.suppressed v then some t
    else (t.vatAct v 3 (cdiv r.2.2 64)).sendMsg (.mover v m e.seq) (gaDev (mvDst b)) (mvGen b) r.1 (some l) 0 false (mask.any id)
  else if 0x80 ≤ mvCodec b then
    match mvRatio b with
    | some q => some (s.mvDecodeUnit v b q ((mvRaw b).units.getD r.1 (0, 0, 0)) l (mask.any id))
    | none => some s
  else some (s.mvWrite v m r.1 l mask)

/-- The read of a request is still held for its page or path. -/
def State.heldPart (s : State) (w : Waiter) (a : Nat) : Bool :=
  s.mig.held.any (fun h => h.who == w && decide (h.addr ≤ a) && decide (a < h.addr + h.len))

/-- The place in a descriptor's requests of the next that may go: the first whose data is not held at its die; messages go in their order (14 R360). -/
def State.nextPiece (s : State) (v m : Nat) (e : MvEntry) : Option Nat :=
  let j := e.todo.findIdx? (fun r => r.2.2 = 0 || (e.held r.2.1 r.2.2).isSome || !s.heldPart (.mover v m e.seq) r.2.1)
  if s.mvRemote e.bytes ∧ j ≠ some 0 then none else j

/-- A request read over the fabric stands in the mover until its write may go. -/
def State.mvFetch (s : State) (v m i p : Nat) (r : Nat × Nat × Nat) : State :=
  let mask := s.poisonMask r.2.1 r.2.2
  ((s.eccRead r.2.1 r.2.2 p (vatDoubt s v)).actMover v r.2.1 r.2.2).modEntry v m i (fun x => { x with
    got := x.got ++ [(r.2.1, s.readBytes r.2.1 r.2.2, mask)],
    fails := if mask.any id then x.fails ++ [stTierFault] else x.fails })

/-- One request goes as far as its paths are owned now (02 R53): its read, then its write. True: it is over; one whose page did not arrive leaves its destination
unchanged (05 R153). -/
def State.mvPiece (s : State) (v m i p : Nat) (e : MvEntry) (r : Nat × Nat × Nat) : State × Bool :=
  let own := fun (rows : List Nat) => s.owns (.vat (Fin.ofNat 8 v)) rows
  let into := own (s.writeRows v e.bytes r.1 (max 1 r.2.2))
  let sent := fun (t : State) (x : Option State) => match x with | some u => (u, true) | none => (t, false)
  if r.2.2 = 0 then (if into then sent s (s.mvCellOp v m e r.1) else (s, false))
  else match e.held r.2.1 r.2.2 with
    | some g => if into then sent s (s.mvPut v m e r g.1 g.2) else (s, false)
    | none =>
      if 2 ^ 60 ≤ r.2.1 ∨ regionOf r.2.1 = .image then (s, true)
      else if !own (readRows v r.2.1 r.2.2) then (s, false)
      else
        let t := s.mvFetch v m i p r
        if into then sent t (t.mvPut v m e r (s.readBytes r.2.1 r.2.2) (s.poisonMask r.2.1 r.2.2)) else (t, false)

/-- Requests go in order until one must wait; its data is given up once it is written. -/
def State.mvSendAll (s : State) (v m i : Nat) : Nat → State
  | 0 => s
  | k + 1 =>
    match (((s.vat v).core.mover m).queue)[i]? with
    | none => s
    | some e =>
      match s.nextPiece v m e with
      | none => s
      | some j =>
        match e.todo[j]?, e.started with
        | some r, some (_, p) =>
          let t := s.mvPiece v m i p e r
          if t.2 then
            State.mvSendAll (t.1.modEntry v m i (fun x => { x with
              todo := x.todo.eraseIdx j, got := x.got.filter (fun g => !(g.1 == r.2.1 && g.2.1.length == r.2.2)) })) v m i k
          else t.1
        | _, _ => s

/-- Why a descriptor ends before it moves anything: PEER_LOST for a lost or foreign device, BAD_ARG for invalid fields or refused addresses, with the refused access
(03 R106; 14 R360). -/
def State.mvVerdict (s : State) (v : Nat) (b : List Byte) : Option (Nat × Option (Want × Nat × Nat)) :=
  let dev := gaDev (mvDst b)
  if s.mvRemote b ∧ mvDst b / 2 ^ 54 = 0 ∧ (!s.member dev ∨ s.peerLost dev ∨ (s.routeOf dev).isNone) then some (stPeerLost, none)
  else if !s.mvFields b ∨ !mvRawHome v b then some (stBadArg, none)
  else match s.mvDenied v (s.runPart v) b with
    | some a => some (stBadArg, some a)
    | none => none

/-- A descriptor starts (03 R105, R106): its requests are lined up, an encode reads its map (06 R200), and its image reads go out. -/
def State.mvBegin (s : State) (v m i : Nat) (e : MvEntry) : State :=
  let b := e.bytes
  let p := s.runPart v
  let enc := mvKind b = 0 ∧ 0 < mvCodec b ∧ mvCodec b < 0x80
  let units := if enc then s.mvEncode v b else []
  let r := if enc then (mvRawRows b).foldl (fun (t : State) x => t.eccRead (pondAddr v x.1) x.2 p (vatDoubt t v)) s else s
  let size := match mvRatio b with | some q => q.2.2.2 | none => 0
  (r.modEntry v m i (fun x => { x with
    started := some (s.fclk, p), todo := s.mvTodo b,
    got := if enc then [(2 ^ 60, (units.map (fun u => u.1)).flatten, (units.map (fun u => List.replicate size u.2)).flatten)] else [],
    fails := if units.any (fun u => u.2) then [stTierFault] else [] })).mvReadImage v m i e p

/-- The next descriptor starts: with its status fixed, with an ADDR fault where R103 refuses its raw side (06 R198), or, once it owns the path of its first request, with its
requests. -/
def State.mvStart (s : State) (v m i : Nat) (e : MvEntry) : State :=
  match s.mvVerdict v e.bytes with
  | some x =>
    let t := s.modEntry v m i (fun y => { y with started := some (s.fclk, s.runPart v), fixed := some x.1 })
    (match x.2 with | some a => t.refuse (.vat (Fin.ofNat 8 v)) (some (s.runPart v)) a.1 a.2.1 | none => t)
  | none =>
    if !s.mvRawOk v e.bytes then s.vatFault v (13 + m) fAddr
    else if !s.owns (.vat (Fin.ofNat 8 v)) (s.mvPath v e.bytes) then s
    else s.mvBegin v m i e

/-- The descriptor of the queue whose turn it is: the first that has not started or has a request that may go (03 R105). -/
def State.mvNext (s : State) (v m : Nat) : Option Nat :=
  ((s.vat v).core.mover m).queue.findIdx? (fun e => e.started.isNone || (s.nextPiece v m e).isSome)

def moverDescriptorStartEffect (v : VatNo) (m : Fin 2) (s : State) : State :=
  match s.mvNext v m with
  | none => s
  | some i =>
    match (((s.vat v).core.mover m).queue)[i]? with
    | none => s
    | some e =>
      let t := if e.started.isNone then s.mvStart v m i e else s
      t.mvSendAll v m i (((((t.vat v).core.mover m).queue)[i]?).map (fun x => x.todo.length) |>.getD 0)

/-- MOVER_DESCRIPTOR_START: the next descriptor of mover m starts, or goes on, with the requests whose paths the Vat owns now (03 R105, 14 R360, 02 R53). -/
def execMoverDescriptorStart (v : VatNo) (m : Fin 2) (s : State) : Host.Outcome State Fault Refusal :=
  .next (s.onMain (moverDescriptorStartEffect v m))

/-! ### Ending (03 R105, R106; 05 R153, R160) -/

/-- The first status that applies (03 R106, 14 R368). -/
def mvStatus (codes : List Nat) : Nat :=
  ([stPeerLost, stBadArg, stTierFault, stStaleGen, stTierLate, stDeadlineMiss].find? (fun c => codes.contains c)).getD stDone

/-- A walker's APPEND hears of the end of a copy it pushed (07 R219): the first failure code is kept, and its entries follow 4 cycles per page
touched and 2 after the last end (07 Table 7.11). -/
def State.tellWalker (s : State) (v m seq status : Nat) : State :=
  s.modWalker v (fun w => { w with cmd := w.cmd.map (fun c =>
    if c.pushed.contains (m, seq) then
      { c with pushed := c.pushed.filter (fun e => e != (m, seq)), failed := if c.failed = 0 then status else c.failed,
               ready := (s.vat v).cyc + 4 * c.fills.length + 2 }
    else c) })

/-- The record of an end: completion operation, and on a failure LASTERR and FAILCNT (03 R105). -/
def State.mvRecord (s : State) (v m : Nat) (e : MvEntry) (status : Nat) : State :=
  let told := s.tellWalker v m e.seq status
  let a := if bit (mvCell e.bytes) 15 then told else told.cellDo v (mvCell e.bytes % 16384) (1 + m) (.add (BitVec.ofNat 64 (completionValue status)))
  if status = stDone then a
  else (a.setReg (Reg.VAT_MV_LASTERR v m) (2 ^ 32 * a.frameLo + 2 ^ 8 * (e.seq % 2 ^ 24) + status)).bump (Reg.VAT_MV_FAILCNT v m)

def moverDescriptorEndEffect (v : VatNo) (m : Fin 2) (s : State) : State :=
  match ((s.vat v).core.mover m).queue with
  | [] => s
  | e :: rest =>
    match e.started with
    | none => s
    | some _ =>
      let who : Waiter := .mover v m e.seq
      if !e.todo.isEmpty || s.waitsHeld who || s.waitsMsg who then s
      else (s.modMover v m (fun q => { q with queue := rest })).mvRecord v m e (e.fixed.getD (mvStatus e.fails))

/-- MOVER_DESCRIPTOR_END: the descriptor at the queue head, all its requests and messages ended, ends with its status: the
completion operation, and on a failure VAT_MVm_LASTERR and VAT_MVm_FAILCNT (03 R105, R106; 05 R153; 14 R368). -/
def execMoverDescriptorEnd (v : VatNo) (m : Fin 2) (s : State) : Host.Outcome State Fault Refusal :=
  .next (s.onMain (moverDescriptorEndEffect v m))

/-! ### Deadlines (03 R106; 05 R152, R153, R156; 14 R368) -/

/-- Messages of a waiter end: their tags go into quarantine. -/
def State.endMsgs (s : State) (w : Waiter) : State :=
  { s with xsl := { s.xsl with
      msgs := s.xsl.msgs.filter (fun x => x.who != w),
      released := s.xsl.released ++ (s.xsl.msgs.filter (fun x => x.who == w)).map (fun x => (x.tag, s.nowNs)) } }

/-- Some read of the waiter waits for a page of a lower tier, not only for its path (05 R153, R156). -/
def State.waitsTier (s : State) (w : Waiter) : Bool := s.mig.held.any (fun h => h.who == w && s.onTier h)

/-- The held reads of a waiter end; those that waited on a lower tier end TIER_LATE and count (05 R152, R156). -/
def State.endHeldLate (s : State) (w : Waiter) : State :=
  let n := (s.mig.held.filter (fun h => h.who == w && s.onTier h)).length
  { s.bumpBy Reg.MIG_LATE_CNT n with mig := { s.mig with held := s.mig.held.filter (fun h => h.who != w) } }

/-- The deadline of a started descriptor has passed and its status is not fixed. -/
def MvEntry.late (e : MvEntry) (now : Nat) : Bool :=
  match e.started with
  | some (t, _) => mvDeadline e.bytes != 0 && e.fixed.isNone && decide (t + mvDeadline e.bytes ≤ now)
  | none => false

/-- The first request whose data stands in the mover, with that data: it was read over the fabric and its write has not gone. -/
def MvEntry.fetched (e : MvEntry) : Option ((Nat × Nat × Nat) × List Byte × List Bool) :=
  e.todo.findSome? (fun r => if r.2.2 = 0 then none else (e.held r.2.1 r.2.2).map (fun g => (r, g)))

/-- The write of that request lands: it was on the fabric already. A message of a remote descriptor is a request of its own (14 R360). -/
def State.mvLands (s : State) (v m : Nat) (e : MvEntry) : State :=
  match e.fetched with
  | some x => if s.mvRemote e.bytes then s else (s.mvPut v m e x.1 x.2.1 x.2.2).getD s
  | none => s

def moverDeadlineEffect (v : VatNo) (m : Fin 2) (sent : Bool) (s : State) : State :=
  match ((s.vat v).core.mover m).queue.findIdx? (fun e => e.late s.fclk) with
  | none => s
  | some i =>
    match (((s.vat v).core.mover m).queue)[i]? with
    | none => s
    | some e =>
      let who : Waiter := .mover v m e.seq
      let codes := e.fails ++ [if s.waitsTier who then stTierLate else stDeadlineMiss]
      let t := if sent then s.mvLands v m e else s
      ((t.endHeldLate who).endMsgs who).modEntry v m i (fun x => { x with fixed := some (mvStatus codes), todo := [] })

/-- MOVER_DEADLINE: the first descriptor of mover m whose DEADLINE has passed stops: it issues nothing more, what it has written stays, and its status is fixed: TIER_LATE
while a part waits on a lower tier, DEADLINE_MISS otherwise, unless an earlier code of the order of 03 R106 applies. sent says whether the write of the request that has
been read was on the fabric already: it then lands. Its end is recorded in queue order (03 R106; 05 R152, R153, R156). -/
def execMoverDeadline (v : VatNo) (m : Fin 2) (sent : Bool) (s : State) : Host.Outcome State Fault Refusal := .next (s.onMain (moverDeadlineEffect v m sent))

end Sys2Proof.Machine
end

