-- ==== Sys2Proof/Machine/Walker.lean ====
section
/-! DEFINITION. The page-table walker of a Vat (07 R213 to R222): its commands, and what each does. The effects of GATHER and EVICT are applied
together at the cycle Table 7.11 gives their status word, the pushes of APPEND at its last push (DESIGN CHOICE, log entry 29). -/

namespace Sys2Proof.Machine

/-! ### The command and the tables it names (07 Tables 7.5 to 7.8) -/

def wkOp (b : List Byte) : Nat := fieldLE b 0 1
def wkMover (b : List Byte) : Nat := fieldLE b 1 1
def wkSeq (b : List Byte) : Nat := fieldLE b 2 2
def wkLane (b : List Byte) : Nat := fieldLE b 4 2
def wkCell (b : List Byte) : Nat := fieldLE b 6 2
def wkStatus (b : List Byte) : Nat := fieldLE b 8 4
def wkMcell (b : List Byte) : Nat := fieldLE b 0xC 2
def wkArg (b : List Byte) (i : Nat) : Nat := fieldLE b (0x10 + 8 * i) 8

/-- A read by the walker is permitted and its data correctable (03 R103). -/
def State.wkReads (s : State) (v off n : Nat) : Bool := s.pondMay v off n false && !s.poisoned (pondAddr v off) n

/-- The bytes of sequence entry k of Vat v: none past ATT_SEQ_COUNT. -/
def State.seqEntry (s : State) (v k : Nat) : Option (List Byte) :=
  let w := s.walker v
  let a := w.seqBase + 64 * k
  if k < w.seqCount ∧ s.wkReads v a 64 then some (s.bytes (pondAddr v a) 64) else none

def sqValid (b : List Byte) : Bool := bit (fieldLE b 4 1) 0
def sqElem (b : List Byte) : Nat := fieldLE b 5 1
def sqDim (b : List Byte) : Nat := fieldLE b 6 1
def sqLanes (b : List Byte) : Nat := fieldLE b 8 2
def sqMassLog (b : List Byte) : Nat := fieldLE b 0xC 1
def sqLaneBase (b : List Byte) : Nat := fieldLE b 0x10 4
def sqMassBase (b : List Byte) : Nat := fieldLE b 0x14 4

/-- Bytes of one element: ELEM 0 to 2 one byte, ELEM 3 two (R213). -/
def sqBytes (b : List Byte) : Nat := if sqElem b = 3 then 2 else 1

/-- One page entry read (Table 7.7), with its Pond offset. -/
structure KvPage where
  off : Nat
  w0 : Nat
  fill : Nat
  first : Nat
deriving DecidableEq, Repr

def KvPage.valid (p : KvPage) : Bool := bit p.w0 63
def KvPage.evicted (p : KvPage) : Bool := bit p.w0 62
def KvPage.sz (p : KvPage) : Nat := bits p.w0 51 48
def KvPage.addr (p : KvPage) : Nat := bits p.w0 47 12 * 4096
def KvPage.live (p : KvPage) : Bool := p.valid && !p.evicted

/-- Positions of a page (R213). -/
def KvPage.npp (p : KvPage) (dim e : Nat) : Nat := 2 ^ (12 + p.sz) / max 1 (2 * dim * e)

/-- The entry keeps R213. -/
def KvPage.ok (p : KvPage) (dim e : Nat) : Bool :=
  !p.valid || (decide (p.sz ≤ 8) && p.addr % 2 ^ (12 + p.sz) == 0 && decide (p.addr + 2 ^ (12 + p.sz) ≤ 0x1800000000) &&
    decide (p.fill ≤ p.npp dim e))

/-- A lane read: Pond offset of its entry, NEXT_POS, and its page entries. -/
structure KvLane where
  off : Nat
  next : Nat
  pages : List KvPage
deriving DecidableEq, Repr

/-- The lane entry and its page list; none where an access is refused or PAGE_COUNT is out of range. -/
def State.lane (s : State) (v : Nat) (sq : List Byte) (x : Nat) : Option KvLane :=
  let off := sqLaneBase sq + 16 * x
  if !s.wkReads v off 16 then none
  else
    let l := s.bytes (pondAddr v off) 16
    let base := fieldLE l 0 4
    let count := fieldLE l 4 2
    if count = 0 ∨ 4096 < count ∨ !s.wkReads v base (16 * count) then none
    else some {
      off := off, next := fieldLE l 8 3,
      pages := (List.range count).map (fun (i : Nat) =>
        let w1 := s.loadLE (pondAddr v (base + 16 * i + 8)) 8
        { off := base + 16 * i, w0 := s.loadLE (pondAddr v (base + 16 * i)) 8, fill := bits w1 39 24, first := bits w1 23 0 }) }

/-- The fields common to the three commands are valid (R216, Table 7.8). -/
def wkFields (b : List Byte) : Bool :=
  decide (wkMover b ≤ 1) && !bit (wkCell b) 14 && aligned (wkStatus b) 8 && decide (wkMcell b < 16384) && fieldLE b 0xE 2 == 0

/-- The sequence entry of a command, its lane, or the status it ends with. -/
def State.wkOpen (s : State) (v : Nat) (b : List Byte) : Sum Nat (List Byte × KvLane) :=
  if !wkFields b ∨ !s.pondMay v (wkStatus b) 8 true then .inl stBadArg
  else match s.seqEntry v (wkSeq b) with
    | none => .inl stBadArg
    | some sq =>
      if !sqValid sq then .inl stStateConflict
      else if 3 < sqElem sq ∨ !(sqDim sq == 64 || sqDim sq == 128) ∨ sqLanes sq ≤ wkLane b then .inl stBadArg
      else match s.lane v sq (wkLane b) with
        | none => .inl stBadArg
        | some l => .inr (sq, l)

/-! ### The end of a command (R216) -/

/-- The walker ends its command: status word, completion operation, counters, and the walker is free. -/
def State.wkEnd (s : State) (v : Nat) (c : WalkCmd) (code count value : Nat) : State :=
  let b := c.bytes
  let a := if aligned (wkStatus b) 8 && s.pondMay v (wkStatus b) 8 true then
      s.storeLE (pondAddr v (wkStatus b)) 8 (code + 2 ^ 16 * (count % 65536) + 2 ^ 32 * (value % 2 ^ 32)) else s
  let d := if bit (wkCell b) 15 then a else a.cellDo v (wkCell b % 16384) 4 (.add (BitVec.ofNat 64 (completionValue code)))
  let e := (d.bump (Reg.ATT_CMD_CNT v)).modWalker v (fun w => { w with cmd := none, last := code })
  if code = stDone then e
  else (e.bump (Reg.ATT_FAIL_CNT v)).setReg (Reg.ATT_LASTERR v) (2 ^ 32 * e.frameLo + 2 ^ 8 * (c.num % 2 ^ 24) + code)

/-- VALUE of a command that fails: 0 for EVICT (07 Table 7.9); of the others it is stated for one that is done only, so it is a free value. -/
def State.wkValue (s : State) (b : List Byte) : Nat := if wkOp b = 3 then 0 else (Config.freeWord s.free).toNat

/-- A command that fails. -/
def State.wkFail (s : State) (v : Nat) (c : WalkCmd) (code : Nat) : State := s.useFree.wkEnd v c code 0 (s.wkValue c.bytes)

/-! ### Reading the next command (R215) -/

/-- Mass sum of a page: fl32 additions in position order from +0 (R220). -/
def State.massSum (s : State) (v : Nat) (sq : List Byte) (p : KvPage) : W32 :=
  if sqMassLog sq = 0 then 0#32
  else (List.range p.fill).foldl (fun acc (i : Nat) =>
    accAdd acc (BitVec.ofNat 32 (s.loadLE (pondAddr v (sqMassBase sq + 4 * ((p.first + i) % 2 ^ sqMassLog sq))) 4))) 0#32

/-- The pages an EVICT considers: places in the page list (R220). -/
def wkConsidered (sq : List Byte) (l : KvLane) (sink recent : Nat) : List (Nat × KvPage) :=
  ((List.range l.pages.length).zip l.pages).filter (fun e =>
    let n := e.2.npp (sqDim sq) (sqBytes sq)
    e.2.live && e.2.fill == n && decide (sink ≤ e.2.first) && decide (e.2.first + n + recent ≤ l.next))

/-- Mass sums of the pages an EVICT considers, as the command starts. -/
def State.wkSums (s : State) (v : Nat) (b : List Byte) : List (Nat × Nat) :=
  if wkOp b ≠ 3 then []
  else match s.wkOpen v b with
    | .inl _ => []
    | .inr (sq, l) =>
      (wkConsidered sq l (wkArg b 1 % 2 ^ 24) (wkArg b 2 % 2 ^ 24)).map (fun e => (e.1, (s.massSum v sq e.2).toNat))

/-! ### Descriptors (R217, R219; 03 Table 3.13) -/

/-- A copy descriptor on this device. -/
def State.wkCopy (s : State) (mcell src dst rowBytes rows srcPitch dstPitch : Nat) : List Byte :=
  let dev := s.devId * 2 ^ 48
  toLE 8 (dev + src) ++ toLE 8 (dev + dst) ++ toLE 4 rowBytes ++ toLE 4 rows ++ toLE 4 srcPitch ++ toLE 4 dstPitch ++
    toLE 2 0 ++ toLE 2 mcell ++ toLE 4 0 ++ toLE 8 0 ++ toLE 8 0 ++ toLE 8 0

/-- Descriptors pushed in order; their sequence numbers. -/
def State.wkPush (s : State) (v m : Nat) : List (List Byte) → State × List (Nat × Nat)
  | [] => (s, [])
  | d :: l =>
    let q := (s.vat v).core.mover m
    let r := State.wkPush (s.modMover v m (fun x => x.push d)) v m l
    (r.1, (m, q.seq) :: r.2)

/-! ### GATHER (R217) -/

/-- A run of a gather: the page, its first column there, the count, and the first column of the tiles. -/
structure KvRun where
  page : KvPage
  col : Nat
  n : Nat
  dst : Nat
deriving DecidableEq, Repr

/-- A page's run cut at tile boundaries and at the last column. -/
def kvSplit (limit : Nat) (p : KvPage) : Nat → Nat → Nat → Nat → List KvRun
  | 0, _, _, _ => []
  | k + 1, col, n, dst =>
    let m := min (min n (128 - dst % 128)) (limit - dst)
    if m = 0 then [] else ⟨p, col, m, dst⟩ :: kvSplit limit p k (col + m) (n - m) (dst + m)

/-- Runs of the pages in order, the next free column, the entries read, and the first position not gathered. -/
def kvRuns (dim e p0 limit : Nat) : List KvPage → Nat → List KvRun × Nat × Nat
  | [], _ => ([], 0, 0xFFFFFF)
  | p :: l, dst =>
    let lo := max p0 p.first
    let n := if p.live then p.first + p.fill - lo else 0
    let take := min n (limit - dst)
    if take < n then (kvSplit limit p (limit / 128 + 2) (lo - p.first) take dst, 1, lo + take)
    else
      let here := kvSplit limit p (limit / 128 + 2) (lo - p.first) n dst
      if p.valid ∧ p.fill < p.npp dim e then (here, 1, 0xFFFFFF)
      else
        let r := kvRuns dim e p0 limit l (dst + n)
        (here ++ r.1, r.2.1 + 1, r.2.2)

/-- The two copies of a run. -/
def State.kvCopies (s : State) (v mcell dim e kt vd : Nat) (r : KvRun) : List (List Byte) :=
  let npp := r.page.npp dim e
  let tile := r.dst / 128
  let c := r.dst % 128
  let half := 2 ^ (11 + r.page.sz)
  [s.wkCopy mcell (r.page.addr + r.col * e) (pondAddr v (kt + 16384 * e * tile + c * e)) (r.n * e) dim (npp * e) (128 * e),
   s.wkCopy mcell (r.page.addr + half + r.col * dim * e) (pondAddr v (vd + 16384 * e * tile + c * 128 * e)) (dim * e) r.n (dim * e) (128 * e)]

/-- Position in column x of the gather; none for an empty column. -/
def kvAt (rs : List KvRun) (x : Nat) : Option Nat :=
  match rs.find? (fun r => decide (r.dst ≤ x) && decide (x < r.dst + r.n)) with
  | some r => some (r.page.first + r.col + (x - r.dst))
  | none => none

/-- Key words and summary of tile t (Tables 7.4, 7.10). -/
def State.kvTile (s : State) (v kw sum t : Nat) (rs : List KvRun) : State :=
  let ps := (List.range 128).map (fun (j : Nat) => kvAt rs (128 * t + j))
  let got := ps.filterMap id
  let keys := (ps.map (fun p => toLE 4 (match p with | some x => 0xFF000000 + x % 2 ^ 24 | none => 0xFFFFFFFF))).flatten
  let w0 := (got.foldl max 0) * 2 ^ 32 + got.foldl min 0xFFFFFF
  (s.store (pondAddr v (kw + 512 * t)) keys).store (pondAddr v (sum + 16 * t)) (toLE 8 w0 ++ toLE 8 got.length)

/-- The arguments of a GATHER are valid. -/
def State.wkGatherArgs (s : State) (v : Nat) (b : List Byte) : Bool :=
  let t := bits (wkArg b 0) 42 32
  let dst := (List.range 4).all (fun i => aligned (wkArg b (1 + i)) 256 && decide (wkArg b (1 + i) < pondSize))
  bits (wkArg b 0) 31 24 == 0 && bits (wkArg b 0) 63 43 == 0 && decide (1 ≤ t) && decide (t ≤ 1024) && wkArg b 5 == 0 && dst &&
    s.pondMay v (wkArg b 3) (512 * t) true && s.pondMay v (wkArg b 4) (16 * t) true

/-- The effect of a GATHER and the cycles after the entry reads at which it ends. -/
def State.wkGather (s : State) (v : Nat) (c : WalkCmd) : State × Nat :=
  let b := c.bytes
  match s.wkOpen v b with
  | .inl code => (s.wkFail v c code, 2)
  | .inr (sq, l) =>
    let dim := sqDim sq
    let e := sqBytes sq
    let t := bits (wkArg b 0) 42 32
    let r := kvRuns dim e (wkArg b 0 % 2 ^ 24) (128 * t) l.pages 0
    if !s.wkGatherArgs v b ∨ !((l.pages.take r.2.1).all (fun p => p.ok dim e)) then (s.wkFail v c stBadArg, 2 * r.2.1 + 2)
    else
      let ds := (r.1.map (s.kvCopies v (wkMcell b) dim e (wkArg b 1) (wkArg b 2))).flatten
      if 4096 < moverCount (s.vat v).core (wkMover b) + ds.length then (s.wkFail v c stNoSpace, 2 * r.2.1 + 2)
      else
        let s1 := (s.wkPush v (wkMover b) ds).1
        let s2 := (List.range t).foldl (fun u i => u.kvTile v (wkArg b 3) (wkArg b 4) i r.1) s1
        (s2.wkEnd v c stDone ds.length r.2.2, 2 * r.2.1 + 2 * ds.length + 4 * t + 2)

/-- A command of the walker: run when it is at hand, carries this OP, or an invalid OP, which ends BAD_ARG, and its cycles have passed. -/
def State.wkRun (s : State) (v op : Nat) (act : State → WalkCmd → State × Nat) : State :=
  match (s.walker v).cmd with
  | none => s
  | some c =>
    let o := wkOp c.bytes
    let r := if o = op then act s c else (s.wkFail v c stBadArg, 2)
    if (o = op ∨ o = 0 ∨ 3 < o) ∧ c.pushed.isEmpty ∧ c.nextPos = 0 ∧ c.ready + r.2 ≤ (s.vat v).cyc then r.1 else s

def walkerGatherEffect (v : VatNo) (s : State) : State := s.wkRun v 1 (fun u c => u.wkGather v c)

/-- WALKER_GATHER: the lane's positions from P0 on gathered into tiles: two copies per run pushed, key words and summaries written, the command
ended (R217). A command whose OP is invalid ends BAD_ARG here too (R216). -/
def execWalkerGather (v : VatNo) (s : State) : Host.Outcome State Fault Refusal := .next (s.onMain (walkerGatherEffect v))

/-! ### APPEND (R219) -/

/-- The page and column of position p. -/
def kvPlace (dim e : Nat) (pages : List KvPage) (p : Nat) : Option (KvPage × Nat) :=
  match pages.find? (fun x => x.live && decide (x.first ≤ p) && decide (p < x.first + x.npp dim e)) with
  | some x => some (x, p - x.first)
  | none => none

/-- The copies of one row of LAYOUT 0. -/
def State.kvRow (s : State) (v mcell dim e : Nat) (ksrc vsrc : Nat) (pl : KvPage × Nat) : List (List Byte) :=
  let npp := pl.1.npp dim e
  [s.wkCopy mcell (pondAddr v ksrc) (pl.1.addr + pl.2 * e) e dim e (npp * e),
   s.wkCopy mcell (pondAddr v vsrc) (pl.1.addr + 2 ^ (11 + pl.1.sz) + pl.2 * dim * e) (dim * e) 1 (dim * e) (dim * e)]

/-- The copies of one page of LAYOUT 1: n positions from column col, the first being row `at_` of the source. -/
def State.kvBlock (s : State) (v mcell dim e ksrc pitch vsrc : Nat) (p : KvPage) (col n at_ : Nat) : List (List Byte) :=
  let npp := p.npp dim e
  [s.wkCopy mcell (pondAddr v (ksrc + at_ * e)) (p.addr + col * e) (n * e) dim pitch (npp * e),
   s.wkCopy mcell (pondAddr v (vsrc + at_ * dim * e)) (p.addr + 2 ^ (11 + p.sz) + col * dim * e) (dim * e) n (dim * e) (dim * e)]

/-- Columns taken on each page by n positions from `next`: page, first column, count, first row. -/
def kvTaken (dim e next n : Nat) (pages : List KvPage) : List (KvPage × Nat × Nat × Nat) :=
  pages.filterMap (fun p =>
    let lo := max next p.first
    let hi := min (next + n) (p.first + p.npp dim e)
    if p.live ∧ lo < hi then some (p, lo - p.first, hi - lo, lo - next) else none)

/-- The arguments of an APPEND are valid. -/
def wkAppendArgs (b : List Byte) : Bool :=
  let a3 := wkArg b 3
  let n := bits a3 28 16
  bits (wkArg b 2) 63 32 == 0 && bits a3 15 1 == 0 && bits a3 63 29 == 0 && wkArg b 4 == 0 && wkArg b 5 == 0 &&
    (!bit a3 0 || (decide (1 ≤ n) && decide (n ≤ 4096)))

/-- The effect of an APPEND up to its last push, and its cycles after the entry reads. -/
def State.wkAppend (s : State) (v : Nat) (c : WalkCmd) : State × Nat :=
  let b := c.bytes
  match s.wkOpen v b with
  | .inl code => (s.wkFail v c code, 2)
  | .inr (sq, l) =>
    let dim := sqDim sq
    let e := sqBytes sq
    let kept := (List.range 64).filter (fun r => bit (wkArg b 0) r)
    let n := if bit (wkArg b 3) 0 then bits (wkArg b 3) 28 16 else kept.length
    let taken := kvTaken dim e l.next n l.pages
    let cost := 2 * l.pages.length
    if !wkAppendArgs b ∨ !(l.pages.all (fun p => p.ok dim e)) then (s.wkFail v c stBadArg, cost + 2)
    else
      let ksrc := wkArg b 1 % 2 ^ 32
      let pitch := wkArg b 1 / 2 ^ 32
      let vsrc := wkArg b 2 % 2 ^ 32
      let ds := if bit (wkArg b 3) 0 then (taken.map (fun x => s.kvBlock v (wkMcell b) dim e ksrc pitch vsrc x.1 x.2.1 x.2.2.1 x.2.2.2)).flatten
        else (((List.range kept.length).zip kept).map (fun x =>
          match kvPlace dim e l.pages (l.next + x.1) with
          | some pl => s.kvRow v (wkMcell b) dim e (ksrc + x.2 * pitch) (vsrc + x.2 * pitch) pl
          | none => [])).flatten
      if (taken.map (fun x => x.2.2.1)).foldl (· + ·) 0 < n ∨ 4096 < moverCount (s.vat v).core (wkMover b) + ds.length then
        (s.wkFail v c stNoSpace, cost + 2)
      else
        let r := s.wkPush v (wkMover b) ds
        let late := cost + 2 * ds.length
        let c' := { c with pushed := r.2, fills := taken.map (fun x => (x.1.off, x.2.1 + x.2.2.1)), rows := n, nextPos := l.next + n,
                           ready := c.ready + late + 4 * taken.length + 2 }
        if n = 0 then (s.wkEnd v c stDone 0 l.next, cost + 2)
        else (r.1.modWalker v (fun w => { w with cmd := some c' }), late)

def walkerAppendEffect (v : VatNo) (s : State) : State := s.wkRun v 2 (fun u c => u.wkAppend v c)

/-- WALKER_APPEND: the copies of the rows to append are pushed, or the command ends, NO_SPACE where the pages or the mover queue lack room
(R219; the queue: DEDUCED from R217, log entry 29). -/
def execWalkerAppend (v : VatNo) (s : State) : Host.Outcome State Fault Refusal := .next (s.onMain (walkerAppendEffect v))

def walkerAppendCommitEffect (v : VatNo) (s : State) : State :=
  match (s.walker v).cmd with
  | none => s
  | some c =>
    if wkOp c.bytes = 2 ∧ c.pushed.isEmpty ∧ c.nextPos ≠ 0 ∧ c.ready ≤ (s.vat v).cyc then
      if c.failed ≠ 0 then s.wkFail v c c.failed
      else match s.wkOpen v c.bytes with
        | .inl code => s.wkFail v c code
        | .inr (_, l) =>
          if !(c.fills.all (fun e => s.pondMay v e.1 16 true) && s.pondMay v l.off 16 true) then s.wkFail v c stBadArg
          else
            let a := c.fills.foldl (fun u e => u.storeLE (pondAddr v (e.1 + 11)) 2 e.2) s
            ((a.storeLE (pondAddr v (l.off + 8)) 4 c.nextPos).vatAct v 2 (c.fills.length + 1)).wkEnd v c stDone c.rows c.nextPos
    else s

/-- WALKER_APPEND_COMMIT: every copy has ended; FILL of each page touched and NEXT_POS are written, or nothing where a copy failed or an entry may not be written, and the command
ends (R219). -/
def execWalkerAppendCommit (v : VatNo) (s : State) : Host.Outcome State Fault Refusal := .next (s.onMain (walkerAppendCommitEffect v))

/-! ### EVICT (R220) -/

/-- An exact value of a mass sum: a finite FP32 as integer times 2^-149; infinities, which no product with FILL moves, beyond every finite value; a NaN, whose
place the order does not state, at a free value. -/
def massKey (free : Nat) (x : Nat) : Int :=
  match val32 (BitVec.ofNat 32 x) with
  | .fin neg m e => scaled neg m e (-149)
  | .inf neg => if neg then -(2 ^ 400 : Nat) else (2 ^ 400 : Nat)
  | .nan => (Config.freeWord free).toInt

/-- A sum times the other page's FILL (R220). -/
def massCross (free x fill : Nat) : Int :=
  let k := massKey free x
  if k.natAbs = 2 ^ 400 then k else k * (fill : Int)

/-- Sum over FILL of a is less than of b, or equal with the lower FIRST_POS: (place, page, sum). -/
def massBefore (free : Nat) (a b : Nat × KvPage × Nat) : Bool :=
  let x := massCross free a.2.2 b.2.1.fill
  let y := massCross free b.2.2 a.2.1.fill
  decide (x < y) || (x == y && decide (a.2.1.first < b.2.1.first))

/-- Insertion in that order. -/
def massInsert (free : Nat) (a : Nat × KvPage × Nat) : List (Nat × KvPage × Nat) → List (Nat × KvPage × Nat)
  | [] => [a]
  | b :: l => if massBefore free a b then a :: b :: l else b :: massInsert free a l

/-- The Pond reads of the mass sum of a page: up to 64 entries each, wrapping in the array (R220, R221). -/
def massReads (sq : List Byte) (p : KvPage) : List (Nat × Nat) :=
  if sqMassLog sq = 0 then []
  else (List.range (cdiv p.fill 64)).flatMap (fun j =>
    let n := min 64 (p.fill - 64 * j)
    let i := (p.first + 64 * j) % 2 ^ sqMassLog sq
    let k := min n (2 ^ sqMassLog sq - i)
    [(sqMassBase sq + 4 * i, 4 * k)] ++ (if k < n then [(sqMassBase sq, 4 * min (n - k) (2 ^ sqMassLog sq))] else []))

/-- Cycles of the mass sums of pages (07 Table 7.11). -/
def massCycles (l : List (Nat × KvPage)) : Nat := (l.map (fun e => 3 + cdiv e.2.fill 64)).foldl (· + ·) 0

/-- The pages an EVICT takes, in FIRST_POS order: place, entry, sum (R220). -/
def wkTaken (free k n : Nat) (cand : List (Nat × KvPage)) (sums : List (Nat × Nat)) : List (Nat × KvPage × Nat) :=
  let order := (cand.map (fun e => (e.1, e.2, mapGet 0 sums e.1))).foldl (fun acc a => massInsert free a acc) []
  (List.range n).filterMap (fun i => (order.take k).find? (fun e => e.1 == i))

/-- The effect of an EVICT and its cycles after the entry reads. A refused or uncorrectable mass entry, or a page entry that may not be written, ends it with BAD_ARG before it
has changed anything (R216; 03 R103). -/
def State.wkEvict (s : State) (v : Nat) (c : WalkCmd) : State × Nat :=
  let b := c.bytes
  match s.wkOpen v b with
  | .inl code => (s.wkFail v c code, 2)
  | .inr (sq, l) =>
    let want := wkArg b 0
    let cost := 2 * l.pages.length
    let cand := wkConsidered sq l (wkArg b 1) (wkArg b 2)
    let list := wkArg b 3
    let k := min want cand.length
    let out := wkTaken s.free k l.pages.length cand c.sums
    if want = 0 ∨ 64 < want ∨ 2 ^ 24 ≤ wkArg b 1 ∨ 2 ^ 24 ≤ wkArg b 2 ∨ 2 ^ 32 ≤ list ∨ wkArg b 4 ≠ 0 ∨ wkArg b 5 ≠ 0 ∨
        !(l.pages.all (fun p => p.ok (sqDim sq) (sqBytes sq))) ∨ (0 < k ∧ !s.pondMay v list (8 * k) true) ∨
        !cand.all (fun e => (massReads sq e.2).all (fun r => s.wkReads v r.1 r.2)) ∨ !out.all (fun e => s.pondMay v e.2.1.off 16 true) then
      (s.wkFail v c stBadArg, cost + 2)
    else
      let marked := out.foldl (fun u e => u.storeLE (pondAddr v e.2.1.off) 8 (putBit e.2.1.w0 62 true)) s.useFree
      let listed := marked.store (pondAddr v list) ((out.map (fun e => toLE 8 (putBit e.2.1.w0 62 true))).flatten)
      ((listed.bumpBy (Reg.ATT_EVICT_CNT v) out.length).wkEnd v c stDone out.length 0, cost + massCycles cand + 4 * out.length + 2)

def walkerEvictEffect (v : VatNo) (s : State) : State := s.wkRun v 3 (fun u c => u.wkEvict v c)

/-- WALKER_EVICT: the pages with the lowest mass over FILL are marked EVICTED and listed in FIRST_POS order (R220; word 0 is listed as written,
with EVICTED set: DEDUCED, log entry 29). -/
def execWalkerEvict (v : VatNo) (s : State) : Host.Outcome State Fault Refusal := .next (s.onMain (walkerEvictEffect v))

/-! ### Reading the next command (R215, R221) -/

/-- Pond accesses of a command after its lane entry: cycles after the reads of the lane entry, offset, bytes, write. The writes of an APPEND follow the end of its copies and are
not among them (log entry 29). -/
def State.wkPlan (s : State) (v : Nat) (b : List Byte) (sums : List (Nat × Nat)) : List (Nat × Nat × Nat × Bool) :=
  match s.wkOpen v b with
  | .inl _ => []
  | .inr (sq, l) =>
    let dim := sqDim sq
    let e := sqBytes sq
    let entries := fun (n : Nat) => (l.pages.take n).zipIdx.map (fun (x : KvPage × Nat) => (2 * x.2, x.1.off, 16, false))
    let n := l.pages.length
    if wkOp b = 1 then
      let t := bits (wkArg b 0) 42 32
      let r := kvRuns dim e (wkArg b 0 % 2 ^ 24) (128 * t) l.pages 0
      let o := 2 * r.2.1 + 4 * r.1.length
      entries r.2.1 ++ (if s.wkGatherArgs v b ∧ moverCount (s.vat v).core (wkMover b) + 2 * r.1.length ≤ 4096 then
        (List.range t).flatMap (fun i => [(o + 4 * i, wkArg b 3 + 512 * i, 512, true), (o + 4 * i + 2, wkArg b 4 + 16 * i, 16, true)]) else [])
    else if wkOp b = 3 then
      let cand := wkConsidered sq l (wkArg b 1) (wkArg b 2)
      let out := wkTaken s.free (min (wkArg b 0) cand.length) n cand sums
      entries n ++
        (cand.zipIdx.flatMap (fun (x : (Nat × KvPage) × Nat) =>
          (massReads sq x.1.2).zipIdx.map (fun (y : (Nat × Nat) × Nat) => (2 * n + massCycles (cand.take x.2) + 3 + y.2, y.1.1, y.1.2, false)))) ++
        out.zipIdx.flatMap (fun (x : (Nat × KvPage × Nat) × Nat) =>
          [(2 * n + massCycles cand + 4 * x.2, x.1.2.1.off, 8, true), (2 * n + massCycles cand + 4 * x.2 + 2, wkArg b 3 + 8 * x.2, 8, true)])
    else entries n

def walkerDoorbellEffect (v : VatNo) (s : State) : State :=
  let w := s.walker v
  if w.cmd.isSome || s.cellSeen v w.dbCell == w.count || !(s.vat v).running then s
  else
    let cyc := (s.vat v).cyc
    let off := w.ringBase + 64 * (w.count % max 1 w.ringLen)
    let b := if s.wkReads v off 64 then s.bytes (pondAddr v off) 64 else List.replicate 64 0xFF#8
    let sums := s.wkSums v b
    let c : WalkCmd := { num := w.count, bytes := b, ready := cyc + 14, pushed := [], fills := [], rows := 0, nextPos := 0,
                         failed := 0, sums := sums }
    let first := [(2, off, 64, false), (6, w.seqBase + 64 * wkSeq b, 64, false)] ++
      (match s.seqEntry v (wkSeq b) with | some sq => [(10, sqLaneBase sq + 16 * wkLane b, 16, false)] | none => [])
    let plan := first ++ (s.wkPlan v b sums).map (fun e => (14 + e.1, e.2))
    let seen := ((plan.filter (fun e => !e.2.2.2)).map (fun e => (e.2.1, e.2.2.1))).foldl (fun u r =>
      u.eccRead (pondAddr v r.1) r.2 (u.runPart v) (vatDoubt u v)) s
    let put := plan.foldl (fun c e => c.touch cyc 7 16 [(e.1, e.2.1, e.2.2.1)] e.2.2.2) (s.vat v).core
    (((seen.modCore v (fun c => { c with access := put.access })).modWalker v (fun w => { w with
      cmd := some c, count := (w.count + 1) % 2 ^ 64 })).bump (Reg.ATT_RING_HEAD v)).vatAct v 2 (plan.foldl (fun n e => n + linesOf e.2.1 e.2.2.1) 0)

/-- WALKER_DOORBELL: increments of the doorbell cell announce commands; with none in progress the walker begins to read the next one from the ring two cycles later, which
with its sequence and lane entry takes 12 cycles (R215, R221). A ring access that is refused ends the command with BAD_ARG, without a status
word, since none can be read. -/
def execWalkerDoorbell (v : VatNo) (s : State) : Host.Outcome State Fault Refusal := .next (s.onMain (walkerDoorbellEffect v))

end Sys2Proof.Machine
end

