-- ==== Sys2Proof/Machine/Migration.lean ====
section
/-! DEFINITION. The migration engine and the lower tiers (05 R144 to R162, R166 to R168): die copies, misses and held reads, fills and evictions,
Aquifer reads, migration commands, and the scrubbers. The head of `fills` is the page that moves (DESIGN CHOICE, log entry 30). -/

namespace Sys2Proof.Machine

/-- The Migration part changed by f. -/
def State.modMig (s : State) (f : Migration → Migration) : State := { s with mig := f s.mig }

/-- One of a list of equally good choices that the spec does not make: a free value picks it. -/
def State.pickFree (s : State) (l : List Nat) : Option (Nat × State) :=
  match l[(Config.freeWord s.free).toNat % max 1 l.length]? with
  | some x => some (x, s.useFree)
  | none => none

/-! ### Image table (05 Table 5.2) -/

/-- Local address of image table entry k, and its fields. -/
def State.slotAddr (s : State) (k : Nat) : Nat := s.iptBase + 32 * k
def State.imgEntry (s : State) (k : Nat) : List Byte := s.bytes (s.slotAddr k) 32
def imgBase (e : List Byte) : Nat := fieldLE e 8 8
def imgLba (e : List Byte) : Nat := fieldLE e 0x10 8
def imgPages (e : List Byte) : Nat := fieldLE e 0x18 4
def imgNsid (e : List Byte) : Nat := fieldLE e 0x1C 1
def imgHome (e : List Byte) : Nat := fieldLE e 0x1D 1
def imgValid (e : List Byte) : Bool := bit (fieldLE e 0x1E 1) 0

/-- Page of the image that window page q is. -/
def State.imagePage (s : State) (q : Nat) : Nat := q - pageOf (imgBase (s.imgEntry (lfSlot (s.leaf q))))

/-- CRC of a page in its leaf entry. -/
def State.leafCrc (s : State) (q : Nat) : Nat :=
  match s.leafAddr q with
  | some a => s.loadLE (a + 8) 4
  | none => 0

/-! ### Die copies (05 R147) -/

def dieCopyUpdateEffect (die : Fin 2) (s : State) : State :=
  match s.mig.updates.findIdx? (fun u => u.1 == die.val) with
  | none => s
  | some i =>
    match s.mig.updates[i]? with
    | none => s
    | some (d, q, x, _) =>
      s.modMig (fun m => { m with updates := m.updates.eraseIdx i, dies := mapSet 0 m.dies (2 ^ 23 * d + q) x })

/-- Changes sent 64 FCLK cycles ago have reached their dies, in the order in which they were sent (05 R147). -/
def State.dieCopiesDue (s : State) : State :=
  let due := s.mig.updates.filter (fun u => decide (u.2.2.2 + 64 ≤ s.fclk))
  if due.isEmpty then s
  else s.modMig (fun m => { m with
    updates := m.updates.filter (fun u => !decide (u.2.2.2 + 64 ≤ s.fclk)), dies := due.foldl (fun l u => mapSet 0 l (2 ^ 23 * u.1 + u.2.1) u.2.2.1) m.dies })

/-- DIE_COPY_UPDATE: the oldest change sent to a compute die reaches its copy (05 R147); 64 FCLK cycles after it was sent it has, in any case. -/
def execDieCopyUpdate (die : Fin 2) (s : State) : Host.Outcome State Fault Refusal := .next (s.onMain (dieCopyUpdateEffect die))

/-! ### Held reads (05 R152) -/

/-- The initiator of a waiting read. -/
def waiterInit : Waiter → Initiator
  | .mover v _ _ => .vat (Fin.ofNat 8 v)
  | .harp _ => .harp
  | .client k => let c := k % 16; if c < 8 then .vat (Fin.ofNat 8 c) else if c = 8 then .harp else if c = 9 then .ingest else if c = 10 then .fusion
      else if c = 11 then .solver else if c = 12 then .planner else .mgmt

/-- A held read ends: its part joins what its descriptor has, or its failure does; another client's read returns status and bytes. -/
def State.heldEnds (s : State) (h : HeldRead) (status : Nat) (l : List Byte) : State :=
  let t := s.modMig (fun m => { m with held := m.held.filter (fun x => x != h) })
  match h.who with
  | .mover v m seq =>
    if status = stDone then t.modSeq v m seq (fun e => { e with got := e.got ++ [(h.addr, l, List.replicate l.length false)] })
    else t.modSeq v m seq (fun e => { e with fails := e.fails ++ [status] })
  | .harp e => t.modMig (fun m => { m with arrived := m.arrived ++ [(e, h.addr, status, l)] })
  | .client c =>
    if 8 ≤ c ∧ c < 15 then t.modMig (fun m => { m with arrived := m.arrived ++ [(100 + c, h.addr, status, l)] })
    else { t with rdata := status :: l.map (fun b => b.toNat) }

/-- A held read that finds its page in frame f runs: its data, or a withdrawal of the page and a further wait (R161). -/
def State.release (s : State) (h : HeldRead) (f : Nat) : State :=
  if s.framePoisoned f h.addr h.len then
    s.withdraw (pageOf h.addr) f h.part
  else
    let u := s.eccRead (frameAddr f h.addr) h.len h.part (DoubtInfo.plain 3)
    let t := match h.who with
      | .mover v _ _ => u.actMover v h.addr h.len
      | .harp _ => u.actHub h.part h.addr h.len
      | .client _ => u
    t.heldEnds h stDone (s.bytes (frameAddr f h.addr) h.len)

/-- A held read whose die copy shows its page, on a path its initiator owns. -/
def State.canRelease (s : State) (h : HeldRead) : Bool :=
  match s.dieFrame h.die (pageOf h.addr) with
  | some f => s.waiterOpen h.who (waiterInit h.who) (pathRows (waiterInit h.who) (.lake (f / 12288)) true)
  | none => false

def heldReadReleaseEffect (s : State) : State :=
  match s.mig.held.find? (fun h => s.canRelease h) with
  | none => s
  | some h =>
    match s.dieFrame h.die (pageOf h.addr) with
    | some f => s.release h f
    | none => s

/-- HELD_READ_RELEASE: the first held read whose die copy shows its page resident translates again and runs in a sub-slot its initiator owns
(05 R152). -/
def execHeldReadRelease (s : State) : Host.Outcome State Fault Refusal := .next (s.onMain heldReadReleaseEffect)

/-- Every read held on page q that the engine knows of ends with a status; late ones are counted. -/
def State.endWaiting (s : State) (q status : Nat) : State :=
  (s.mig.held.filter (fun h => pageOf h.addr == q && h.seen)).foldl
    (fun t h => (if status = stTierLate then t.bump Reg.MIG_LATE_CNT else t).heldEnds h status []) s

/-! ### Evictions (05 R157) -/

/-- Steps 1 of an eviction: L is cleared and the update sent; the frame waits to be freed. A read still held on the page is a miss again. -/
def State.evictPage (s : State) (q f : Nat) : State :=
  (((s.modLeaf q (fun w => putBit w 62 false)).sendUpdate q 0).unsee q).modMig (fun m => { m with
    lake := m.lake.filter (fun e => e.1 != f), evicts := m.evicts ++ [⟨f, s.fclk, false⟩] })

/-! ### The end of a command (05 R148) -/

def mcOp (b : List Byte) : Nat := fieldLE b 0 1
def mcStack (b : List Byte) : Nat := fieldLE b 1 1
def mcSlot (b : List Byte) : Nat := fieldLE b 2 2
def mcFirst (b : List Byte) : Nat := fieldLE b 4 4
def mcCount (b : List Byte) : Nat := fieldLE b 8 4
def mcTag (b : List Byte) : Nat := fieldLE b 0xC 4
def mcCell (b : List Byte) : Nat := fieldLE b 0x10 8

/-- Entries MIG_CPL holds before the oldest is replaced: the spec names no depth (DESIGN CHOICE, log entry 30). -/
def cplDepth : Nat := 2 ^ 32

/-- A command ends: the completion entry and the add on its cell. -/
def State.migEnds (s : State) (b : List Byte) (status pages : Nat) : State :=
  let a := s.pushLog Reg.MIG_CPL cplDepth (mcTag b * 2 ^ 32 + 2 ^ 31 + (pages % 2 ^ 23) * 2 ^ 8 + status)
  let d := if mcCell b = 0 then a else a.postPut ⟨.migration, 0, mcCell b, [], some (.add (BitVec.ofNat 64 (completionValue status)))⟩
  d.modMig (fun m => { m with job := none })

/-! ### Fills (05 R150 to R155) -/

/-- The fill at the head is over. -/
def State.dropFill (s : State) : State := s.modMig (fun m => { m with fills := m.fills.drop 1 })

/-- The head fill ends without its page: its waiters end, a command that moved it ends, LFILL is cleared. -/
def State.failFill (s : State) (q status : Nat) : State :=
  let a := ((s.modLeaf q (fun w => putBit w 61 false)).dropFill).endWaiting q status
  match a.mig.job with
  | some j =>
    if pageOf (imgBase (a.imgEntry (mcSlot j.bytes))) + j.next = q then
      a.migEnds j.bytes (if status = stTierLate then stNoSpace else status) j.done
    else a
  | none => a

/-- The Aquifer port refuses or loses the data of the head fill (05 R155): FAULT, TIER_FAULT for every waiter, counter, log and event. -/
def State.aquiferFault (s : State) (cause : Nat) : State :=
  match s.mig.fills with
  | [] => s
  | f :: _ =>
    let slot := lfSlot (s.leaf f.page)
    let pg := s.imagePage f.page
    let a := (s.modLeaf f.page (fun w => putBit w 59 true)).failFill f.page stTierFault
    let b := (a.bump Reg.MIG_FAULT_CNT).pushLog Reg.MIG_FAULT_LOG 16 (2 ^ 63 + slot * 2 ^ 48 + (pg % 2 ^ 20) * 2 ^ 28 + cause)
    b.outcome 3 0xCA (slot + (pg % 2 ^ 24) * 2 ^ 16 + cause * 2 ^ 40)

/-- Frames of pool k that hold nothing and are not on their way out. -/
def State.freeFrames (s : State) (k : Nat) : List Nat :=
  let n := s.regBits (Reg.MIG_POOL k) 13 0
  let used := s.mig.lake.map (fun e => e.1) ++ s.mig.evicts.map (fun e => e.frame) ++ s.mig.bad ++ s.mig.fills.filterMap (fun f => f.frame)
  ((List.range n).map (fun (i : Nat) => 12288 * k + 12288 - n + i)).filter (fun f => !used.contains f)

/-- The frame of pool k filled earliest whose page is neither pinned nor filling. -/
def State.victim (s : State) (k : Nat) : Option (Nat × Nat) :=
  s.mig.lake.find? (fun e => e.1 / 12288 == k && !lfPin (s.leaf e.2) && !lfFill (s.leaf e.2))

/-- The command in progress moves page q. -/
def State.jobMoves (s : State) (q : Nat) : Bool :=
  match s.mig.job with
  | some j => (mcOp j.bytes == 3 || mcOp j.bytes == 4) && pageOf (imgBase (s.imgEntry (mcSlot j.bytes))) + j.next == q
  | none => false

/-- The command in progress has its page q. -/
def State.jobPage (s : State) (q : Nat) : State :=
  if s.jobMoves q then s.modMig (fun m => { m with job := m.job.map (fun j => { j with next := j.next + 1, done := j.done + 1 }) }) else s

/-- The pool has no frame for the head fill: its waiters end TIER_LATE, a LOAD ends NO_SPACE (R150). A STAGE that a miss had joined still makes its Reservoir copy. -/
def State.lakeFull (s : State) (f : Fill) : State :=
  match s.mig.job with
  | some j =>
    if mcOp j.bytes = 3 ∧ s.jobMoves f.page then
      let a := (s.modLeaf f.page (fun w => putBit w 61 false)).endWaiting f.page stTierLate
      if lfR (s.leaf f.page) then (a.dropFill).jobPage f.page
      else a.modMig (fun m => { m with fills := { f with demand := false, toLake := false } :: m.fills.drop 1 })
    else s.failFill f.page stTierLate
  | none => s.failFill f.page stTierLate

/-- The head fill takes a Lake frame where it needs one: a free one, one being evicted, or else it ends NO_SPACE or TIER_LATE (R150). -/
def State.fillFrame (s : State) : State :=
  match s.mig.fills with
  | [] => s
  | f :: l =>
    if !f.toLake || f.frame.isSome then s
    else match s.pickFree (s.freeFrames f.stack) with
      | some (x, t) => t.modMig (fun m => { m with fills := { f with frame := some x } :: l })
      | none =>
        if s.mig.evicts.any (fun e => e.frame / 12288 == f.stack && !e.bad) then s
        else match s.victim f.stack with
          | some e => s.evictPage e.2 e.1
          | none => s.lakeFull f

/-- The head fill whose page is in no Reservoir frame reads Aquifer, which fails while NVMe is not ready (R155; 18 R477). -/
def State.fillRead (s : State) : State :=
  match s.mig.fills with
  | [] => s
  | f :: l =>
    if (f.toLake && f.frame.isNone) || f.reading.isSome || lfR (s.leaf f.page) then s
    else if !bit (s.reg Reg.MIG_AQ_STATUS) 9 then s.aquiferFault 4
    else s.modMig (fun m => { m with fills := { f with reading := some s.fclk, moved := false } :: l })

/-- A page where a LOAD or STAGE would put it (R149). -/
def State.inPlace (s : State) (b : List Byte) (q : Nat) : Bool :=
  let w := s.leaf q
  if mcOp b = 4 then lfL w && lfLFrame w / 12288 == mcStack b else lfL w || lfR w

/-- The command in progress goes on: pages in place count as done, the next other page starts a fill, and a command without pages left, or
without frames to wait for, ends (R149). A page resident in another stack's pool is evicted first, as one frame holds a page; pinned there it stays, and the LOAD ends NO_SPACE (DESIGN CHOICE, log entry 52); a
FAULT page is not fetched (R155). -/
def State.jobNext (s : State) : Nat → State
  | 0 => s
  | k + 1 =>
    match s.mig.job with
    | none => s
    | some j =>
      if !s.mig.fills.isEmpty then s
      else if mcOp j.bytes = 3 ∨ mcOp j.bytes = 4 then
        if mcFirst j.bytes + mcCount j.bytes ≤ j.next then s.migEnds j.bytes stDone j.done
        else
          let q := pageOf (imgBase (s.imgEntry (mcSlot j.bytes))) + j.next
          if s.inPlace j.bytes q then
            State.jobNext (s.modMig (fun m => { m with job := some { j with next := j.next + 1, done := j.done + 1 } })) k
          else if lfFault (s.leaf q) then s.migEnds j.bytes stTierFault j.done
          else if lfL (s.leaf q) && lfPin (s.leaf q) then s.migEnds j.bytes stNoSpace j.done
          else
            let t := if lfL (s.leaf q) then s.evictPage q (lfLFrame (s.leaf q)) else s
            let lake := mcOp j.bytes == 4
            (t.modLeaf q (fun w => putBit w 61 lake)).modMig (fun m => { m with
              fills := [⟨q, mcStack j.bytes, none, false, lake, none, false, false⟩] })
      else if j.frames.any (fun f => s.mig.evicts.any (fun e => e.frame == f)) then s
      else s.migEnds j.bytes stDone j.done

/-- Pages a command can have: the fuel of its steps. -/
def jobFuel (s : State) : Nat := match s.mig.job with | some j => mcCount j.bytes + 2 | none => 1

/-- The engine goes on after an event: next page of a command, a frame, an Aquifer read; once more for a fill that ended at once. -/
def State.engineOnce (s : State) : State := ((s.jobNext (jobFuel s)).fillFrame).fillRead

/-- Until the head fill waits for something: at most one round per fill and command. -/
def State.engineLoop (s : State) : Nat → State
  | 0 => s
  | k + 1 =>
    let t := s.engineOnce
    if t.mig.fills.length < s.mig.fills.length ∨ (s.mig.job.isSome ∧ t.mig.job.isNone) then State.engineLoop t k else t

def State.engine (s : State) : State := s.engineLoop (s.mig.fills.length + 2)

/-! ### Misses (05 R151, R152) -/

/-- Pages of the miss table: those whose fill a miss waits for. -/
def State.missPages (s : State) : Nat := (s.mig.fills.filter (fun f => f.demand)).length

/-- The engine has seen every read held on page q so far. -/
def State.seeHeld (s : State) (h : HeldRead) : State :=
  s.modMig (fun m => { m with held := m.held.map (fun x => if x = h then { x with seen := true } else x) })

def migDemandMissEffect (s : State) : State :=
  match s.mig.held.find? (fun h => !h.seen) with
  | none => s
  | some h =>
    let q := pageOf h.addr
    let w := s.leaf q
    let a := s.bump Reg.MIG_MISS_CNT
    if lfL w then a.seeHeld h
    else if lfFault w then a.heldEnds h stTierFault []
    else
      let seen := a.seeHeld h
      let home := imgHome (s.imgEntry (lfSlot w)) % 4
      if s.mig.fills.any (fun f => f.page == q && f.demand) then seen
      else if 256 ≤ s.missPages then (a.bump Reg.MIG_LATE_CNT).heldEnds h stTierLate []
      else if s.mig.fills.any (fun f => f.page == q) then
        ((seen.modLeaf q (fun w => putBit w 61 true)).modMig (fun m => { m with
          fills := m.fills.map (fun f => if f.page = q then { f with demand := true, toLake := true, stack := if f.toLake then f.stack else home } else f)
        })).engine
      else
        ((seen.modLeaf q (fun w => putBit w 61 true)).modMig (fun m => { m with
          fills := m.fills ++ [⟨q, home, none, true, true, none, false, false⟩] })).engine

/-- MIG_DEMAND_MISS: the oldest held read that has not reached the engine does: on a resident page it only waits for its die copy and path, FAULT ends it TIER_FAULT, a fill of its
page takes it in, a full miss table ends it TIER_LATE, or a fill into the HOME pool starts (05 R151, R152). -/
def execMigDemandMiss (s : State) : Host.Outcome State Fault Refusal := .next (s.onMain migDemandMissEffect)

/-! ### The end of a fill (05 R154, R155) -/

/-- The Reservoir copy of page q is freed. -/
def State.freeReservoir (s : State) (q : Nat) : State :=
  (s.modLeaf q (fun w => putBit w 58 false)).modMig (fun m => { m with resv := m.resv.filter (fun e => e.2 != q) })

/-- Corrections on the Reservoir link: counted in MIG_RES_CE_CNT, an event for each multiple of 1,024 passed (05 R159, R160). -/
def State.countCEs (s : State) (blk key n : Nat) : State :=
  let old := s.reg key
  (List.range ((old + n) / 1024 - old / 1024)).foldl
    (fun t (i : Nat) => t.outcome blk 0xC0 (key % 0x100000 + 2 ^ 32 * ((old / 1024 + i + 1) * 1024 % 2 ^ 32))) (s.bumpBy key n)

/-- The engine moves bytes for the head fill only in sub-slots whose rows client 0xD owns (05 R166; 02 R53): of the Reservoir or Aquifer port while it reads, and of the
Lake path when the last byte is written. -/
def State.engineOwns (s : State) (rows : List Nat) : Bool := s.owns .migration rows

/-- The source row of the head fill: 29 while Aquifer is read, else 28. -/
def sourceRow (f : Fill) : Nat := if f.reading.isSome then 29 else 28

/-- In an FCLK cycle in which the engine owns the row of its source, the head fill reads. -/
def State.fillMoves (s : State) : State :=
  match s.mig.fills with
  | f :: l =>
    if !f.moved && (f.reading.isSome || (f.frame.isSome && lfR (s.leaf f.page))) && s.engineOwns [sourceRow f] then
      s.modMig (fun m => { m with fills := { f with moved := true } :: l })
    else s
  | [] => s

def pageFillCompleteEffect (link : LinkRead) (s : State) : State :=
  match s.mig.fills with
  | [] => s
  | f :: l =>
    match f.frame with
    | none => s
    | some fr =>
      let w := s.leaf f.page
      if !lfR w || f.reading.isSome || !(f.moved || s.engineOwns [28]) || !s.engineOwns (pathRows .migration (.lake (fr / 12288)) false) then s
      else
        let s := if link.corrected = 0 then s else s.countCEs 3 Reg.MIG_RES_CE_CNT link.corrected
        let data := memBytes s.mig.rmem (lfRFrame w * 0x200000) 0x200000
        if link.failed ∨ crc32c data ≠ s.leafCrc f.page then
          if f.retried then (s.freeReservoir f.page).aquiferFault 3 |>.engine
          else
            ((s.freeReservoir f.page).modMig (fun m => { m with fills := { f with retried := true, moved := false } :: l })).engine
        else
          let a := (s.store (fr * 0x200000) data).actHub 16 (fr * 0x200000) 0x200000
          let b := a.modLeaf f.page (fun w => putBits (putBit (putBit w 62 true) 61 false) 47 32 fr)
          let c := (b.sendUpdate f.page (1 + fr)).modMig (fun m => { m with fills := l, lake := m.lake ++ [(fr, f.page)] })
          (c.jobPage f.page).engine

/-- PAGE_FILL_COMPLETE: in sub-slots the engine owns, the last byte of the moving page is visible in its Lake frame and its CRC is checked: a match makes it resident and
sends the update; bad Reservoir data (CRC, or a word the link could not correct) frees the copy and refetches once from Aquifer (05 R154, R155, R166). The second
time in one fill it is an Aquifer fault of cause 3, for which the spec names no cause (DESIGN CHOICE, log entry 52). The words the Reservoir link corrected are counted
(05 Table 5.9). -/
def execPageFillComplete (link : LinkRead) (s : State) : Host.Outcome State Fault Refusal := .next (s.onMain (pageFillCompleteEffect link))

/-! ### Aquifer (05 R155, R167) -/

/-- A Reservoir frame for the page: a free one, or the one filled earliest, whose copy is dropped (R150). -/
def State.takeReservoir (s : State) : Option (Nat × State) :=
  let used := s.mig.resv.map (fun e => e.1)
  match s.pickFree ((List.range (s.reg Reg.MIG_RES_FRAMES)).filter (fun f => !used.contains f)) with
  | some r => some r
  | none =>
    match s.mig.resv with
    | (f, q) :: _ => some (f, s.freeReservoir q)
    | [] => none

def aquiferReadCompleteEffect (status : Nat) (data : List Byte) (s : State) : State :=
  match s.mig.fills with
  | [] => s
  | f :: l =>
    if f.reading.isNone ∨ (status = 0 ∧ (!(f.moved || s.engineOwns [29]) ∨ !s.engineOwns [28])) then s
    else
      let page := data.take 0x200000 ++ List.replicate (0x200000 - data.length) 0#8
      if status ≠ 0 then (s.aquiferFault 1).engine
      else if crc32c page ≠ s.leafCrc f.page then (s.aquiferFault 3).engine
      else match s.takeReservoir with
        | none => (s.failFill f.page stTierLate).engine
        | some (r, t) =>
          let a := t.modLeaf f.page (fun w => putBits (putBit w 58 true) 14 0 r)
          let b := a.modMig (fun m => { m with rmem := memStore m.rmem (r * 0x200000) page, resv := m.resv ++ [(r, f.page)],
                                               fills := { f with reading := none, moved := false } :: l })
          if f.toLake then b.engine
          else ((b.modMig (fun m => { m with fills := l })).jobPage f.page).engine

/-- AQUIFER_READ_COMPLETE: the outstanding Aquifer read ends with an NVMe status and, for 0, the page's bytes, moved in sub-slots of rows 29 and 28 that the engine
owns (02 R53): an error or a wrong CRC is a fault; otherwise the Reservoir frame takes the page (05 R155). -/
def execAquiferReadComplete (status : Nat) (data : List Byte) (s : State) : Host.Outcome State Fault Refusal :=
  .next (s.onMain (aquiferReadCompleteEffect status data))

def aquiferReadTimeoutEffect (s : State) : State :=
  match s.mig.fills with
  | f :: _ =>
    (match f.reading with
     | some t => if t + 10000000 ≤ s.fclk then (s.aquiferFault 2).engine else s
     | none => s)
  | [] => s

/-- AQUIFER_READ_TIMEOUT: a read outstanding for 10 ms ends its fill as a fault (05 R155). -/
def execAquiferReadTimeout (s : State) : Host.Outcome State Fault Refusal := .next (s.onMain aquiferReadTimeoutEffect)

def aquiferLinkDownEffect (s : State) : State :=
  let st := s.reg Reg.MIG_AQ_STATUS
  if !bit st 8 then s
  else
    let a := (s.setReg Reg.MIG_AQ_STATUS 0).outcome 3 0xCB (bits st 6 0)
    match a.mig.fills with
    | f :: _ => if f.reading.isSome then (a.aquiferFault 4).engine else a
    | [] => a

/-- AQUIFER_LINK_DOWN: every outstanding read is an Aquifer failure and an event is posted (05 R167). -/
def execAquiferLinkDown (s : State) : Host.Outcome State Fault Refusal := .next (s.onMain aquiferLinkDownEffect)

def aquiferNvmeReadyEffect (port : PortLink) (ready : Bool) (s : State) : State :=
  if 1 ≤ port.rate ∧ port.rate ≤ 5 ∧ (port.width = 1 ∨ port.width = 2 ∨ port.width = 4) then
    s.setReg Reg.MIG_AQ_STATUS (port.rate + 16 * port.width + 2 ^ 8 + 2 ^ 9 * b2n ready)
  else s

/-- AQUIFER_NVME_READY: the root port trains at one of the rates and widths of 05 R167 and its NVMe controller is ready (18 R477), or, ready false, the link alone is up: a
controller that needs a host memory buffer does not come ready (05 R167). -/
def execAquiferNvmeReady (port : PortLink) (ready : Bool) (s : State) : Host.Outcome State Fault Refusal :=
  .next (s.onMain (aquiferNvmeReadyEffect port ready))

def evictFrameFreeEffect (s : State) : State :=
  match s.mig.evicts with
  | [] => s
  | e :: l =>
    if e.since + 294 ≤ s.fclk then
      (s.modMig (fun m => { m with evicts := l, bad := if e.bad then m.bad ++ [e.frame] else m.bad })).engine
    else s

/-- EVICT_FRAME_FREE: 64 and 230 FCLK cycles after L was cleared the frame is freed, or withdrawn for good where its data was uncorrectable
(05 R157, R161). -/
def execEvictFrameFree (s : State) : Host.Outcome State Fault Refusal := .next (s.onMain evictFrameFreeEffect)

/-! ### Commands (05 R148, R149, R158) -/

def migCmdPushEffect (value : Nat) (s : State) : State :=
  if value ≠ 1 then s
  else if 64 ≤ s.mig.queue.length then (s.hwSetBit Reg.MIG_ERR errState).bump Reg.MIG_DROP_CNT
  else
    let b := ((List.range 8).map (fun i => toLE 8 (s.reg (Reg.MIG_CMD i)))).flatten
    s.modMig (fun m => { m with queue := m.queue ++ [b] })

/-- MIG_CMD_PUSH: writing 1 queues the staged command; a full queue drops it, sets STATE and counts (05 R148). -/
def execMigCmdPush (value : Nat) (s : State) : Host.Outcome State Fault Refusal := .next (s.onMain (migCmdPushEffect value))

def migCplReadEffect (s : State) : State := { (s.readEffect Reg.MIG_CPL) with rdata := [s.readReg Reg.MIG_CPL] }

/-- MIG_CPL_READ: returns and pops the oldest completion (05 R148). -/
def execMigCplRead (s : State) : Host.Outcome State Fault Refusal := .next (s.onMain migCplReadEffect)

/-- Window page 0 of a command's image. -/
def State.mcBase (s : State) (b : List Byte) : Nat := pageOf (imgBase (s.imgEntry (mcSlot b)))

/-- The window pages of a command. -/
def State.mcPages (s : State) (b : List Byte) : List Nat := (List.range (mcCount b)).map (fun (i : Nat) => s.mcBase b + mcFirst b + i)

/-- The fields of any command (Table 5.5). -/
def mcCommon (b : List Byte) : Bool :=
  (if mcOp b = 4 then decide (mcStack b < 4) else mcStack b == 0) && decide (mcSlot b < 1024) && fieldLE b 0x18 8 == 0 &&
    (mcCell b == 0 || (aligned (mcCell b) 8 && (match regionOf (mcCell b) with | .cell _ _ => true | _ => false)))

/-- The fields of a command on a mapped image: its slot is VALID and its page range lies inside. -/
def State.mcRange (s : State) (b : List Byte) : Bool :=
  let e := s.imgEntry (mcSlot b)
  mcCommon b && imgValid e && decide (1 ≤ mcCount b) && decide (mcFirst b + mcCount b ≤ imgPages e)

/-- A queued command may run: it is at the front, of this OP, the engine moves nothing and no miss is pending (R151). -/
def State.mcFront (s : State) (op : Nat) : Option (List Byte) :=
  match s.mig.queue with
  | b :: _ =>
    if mcOp b = op ∧ s.mig.job.isNone ∧ s.mig.fills.isEmpty ∧ s.mig.held.all (fun h => h.seen) then some b else none
  | [] => none

/-- The front command taken and done: status and pages. -/
def State.mcRun (s : State) (op : Nat) (ok : State → List Byte → Bool) (act : State → List Byte → State) : State :=
  match s.mcFront op with
  | none => s
  | some b =>
    let t := s.modMig (fun m => { m with queue := m.queue.drop 1 })
    if ok t b then act t b else t.migEnds b stBadArg 0

/-- Leaf indexes in use. -/
def State.leavesUsed (s : State) : List Nat :=
  (List.range 8192).filterMap (fun d => let e := s.loadLE (s.iptBase + 0x8000 + 4 * d) 4; if bit e 31 then some (bits e 8 0) else none)

/-- Directory indexes of n pages from window page q that have no leaf. -/
def State.dirsWithout (s : State) (q n : Nat) : List Nat :=
  (List.range ((q + n - 1) / 1024 - q / 1024 + 1)).filterMap (fun (i : Nat) =>
    let d := q / 1024 + i
    if bit (s.loadLE (s.iptBase + 0x8000 + 4 * d) 4) 31 then none else some d)

/-- A leaf, its 1,024 entries clear, for directory index d. -/
def State.addLeaf (s : State) (d : Nat) : State :=
  let used := s.leavesUsed
  match s.pickFree ((List.range 512).filter (fun l => !used.contains l)) with
  | some (l, t) =>
    ((t.store (s.iptBase + 0x10000 + l * 0x4000) (List.replicate 0x4000 0#8)).storeLE (s.iptBase + 0x8000 + 4 * d) 4 (2 ^ 31 + l)).sendUpdate (2 ^ 24 + d) (2 ^ 31 + l)
  | none => s

def mcBaseField (b : List Byte) : Nat := fieldLE b 0x28 8

/-- The fields of a MAP. FIRST is 0: Table 5.5 gives MAP no other first page (DESIGN CHOICE, log entry 52). -/
def mcMapFields (b : List Byte) : Bool :=
  mcCommon b && mcFirst b == 0 && decide (1 ≤ mcCount b) && decide (mcCount b ≤ 524288) && decide (imageBase ≤ mcBaseField b) &&
    mcBaseField b % 0x200000 == 0 && decide (mcBaseField b + mcCount b * 0x200000 ≤ 0x200000000000) && decide (1 ≤ fieldLE b 0x38 1) &&
    decide (fieldLE b 0x38 1 ≤ 4) && decide (fieldLE b 0x39 1 ≤ 3) && fieldLE b 0x3A 2 == 0 && fieldLE b 0x3C 4 % 4 == 0 &&
    decide (fieldLE b 0x3C 4 + 4 * mcCount b ≤ 0x4000000) && decide (fieldLE b 0x30 8 + 512 * mcCount b ≤ 2 ^ 31)

/-- One page of a MAP: MAPPED, SLOT and CRC. -/
def State.mapPage (s : State) (b : List Byte) (i : Nat) : State :=
  let q := pageOf (mcBaseField b) + i
  match s.leafAddr q with
  | some a => (s.storeLE a 8 (2 ^ 63 + mcSlot b * 2 ^ 48)).storeLE (a + 8) 8 (s.loadLE (hubBase + fieldLE b 0x3C 4 + 4 * i) 4)
  | none => s

def State.migMap (s : State) (b : List Byte) : State :=
  let q := pageOf (mcBaseField b)
  let n := mcCount b
  if imgValid (s.imgEntry (mcSlot b)) ∨ (List.range n).any (fun (i : Nat) => lfMapped (s.leaf (q + i))) then s.migEnds b stStateConflict 0
  else
    let dirs := s.dirsWithout q n
    if 512 < s.leavesUsed.length + dirs.length then s.migEnds b stNoSpace 0
    else
      let entry := toLE 4 (fieldLE b 0x20 4) ++ toLE 4 (fieldLE b 0x24 4) ++ toLE 8 (mcBaseField b) ++ toLE 8 (fieldLE b 0x30 8) ++ toLE 4 n ++
        toLE 1 (fieldLE b 0x38 1) ++ toLE 1 (fieldLE b 0x39 1) ++ toLE 1 1 ++ toLE 1 0
      let a := (dirs.foldl State.addLeaf s).store (s.slotAddr (mcSlot b)) entry
      ((List.range n).foldl (fun t i => t.mapPage b i) a).setRegBit Reg.MIG_STATUS 0 |>.migEnds b stDone n

def migMapEffect (s : State) : State := s.mcRun 1 (fun _ b => mcMapFields b) State.migMap

/-- MIG_MAP (05 R145, R149): the image table entry, the leaves it needs, and MAPPED, CRC and SLOT on every page. -/
def execMigMap (s : State) : Host.Outcome State Fault Refusal := .next (s.onMain migMapEffect)

/-- R158: a page pinned, filling, or with a read held on it, or the image's range in a range of a partition of the table in force. -/
def State.unmapBlocked (s : State) (b : List Byte) (e : List Byte) : Bool :=
  let q := s.mcBase b
  let lo := imgBase e
  let hi := lo + imgPages e * 0x200000
  (List.range (imgPages e)).any (fun (i : Nat) => lfPin (s.leaf (q + i)) || lfFill (s.leaf (q + i))) ||
    s.mig.held.any (fun h => decide (lo ≤ h.addr) && decide (h.addr < hi)) ||
    s.partIds.any (fun p => (s.partRanges p).any (fun r => decide (r.base < hi) && decide (lo ≤ r.last)))

/-- One page of an UNMAP: its frames are freed and its entry cleared. -/
def State.unmapPage (s : State) (q : Nat) : State :=
  let w := s.leaf q
  let a := if lfL w then s.evictPage q (lfLFrame w) else s
  let c := if lfR w then a.freeReservoir q else a
  match c.leafAddr q with
  | some x => c.store x (List.replicate 16 0#8)
  | none => c

/-- A leaf without a mapped page is given up. -/
def State.dropLeaf (s : State) (d : Nat) : State :=
  if (List.range 1024).any (fun (i : Nat) => lfMapped (s.leaf (1024 * d + i))) then s
  else (s.storeLE (s.iptBase + 0x8000 + 4 * d) 4 0).sendUpdate (2 ^ 24 + d) 0

/-- The frames of the Lake pages among ps. -/
def State.framesOf (s : State) (ps : List Nat) : List Nat := ps.filterMap (fun q => if lfL (s.leaf q) then some (lfLFrame (s.leaf q)) else none)

/-- A command whose evictions are under way ends once their frames are free. -/
def State.awaitFrames (s : State) (b : List Byte) (done : Nat) (frames : List Nat) : State :=
  (s.modMig (fun m => { m with job := some ⟨b, 0, done, frames⟩ })).engine

def State.migUnmap (s : State) (b : List Byte) : State :=
  let e := s.imgEntry (mcSlot b)
  if s.unmapBlocked b e then s.migEnds b stStateConflict 0
  else
    let ps := (List.range (imgPages e)).map (fun (i : Nat) => s.mcBase b + i)
    let a := ps.foldl State.unmapPage s
    let q := s.mcBase b
    let c := (List.range ((q + imgPages e - 1) / 1024 - q / 1024 + 1)).foldl (fun t (i : Nat) => t.dropLeaf (q / 1024 + i)) a
    let d := c.storeLE (s.slotAddr (mcSlot b) + 0x1E) 1 0
    let d' := if (List.range 1024).any (fun k => imgValid (d.imgEntry k)) then d else d.setRegBits Reg.MIG_STATUS 0 0 0
    d'.awaitFrames b (imgPages e) (s.framesOf ps)

def migUnmapEffect (s : State) : State := s.mcRun 2 State.mcRange State.migUnmap

/-- MIG_UNMAP (05 R149, R157, R158): STATE_CONFLICT, or the image's frames freed, its entries and leaves cleared, and VALID cleared. -/
def execMigUnmap (s : State) : Host.Outcome State Fault Refusal := .next (s.onMain migUnmapEffect)

/-- A LOAD or STAGE begins. -/
def State.migJob (s : State) (b : List Byte) : State := (s.modMig (fun m => { m with job := some ⟨b, mcFirst b, 0, []⟩ })).engine

def migStageEffect (s : State) : State := s.mcRun 3 State.mcRange State.migJob

/-- MIG_STAGE (05 R149): each page in neither tier is copied from Aquifer into Reservoir, page by page. -/
def execMigStage (s : State) : Host.Outcome State Fault Refusal := .next (s.onMain migStageEffect)

def migLoadEffect (s : State) : State := s.mcRun 4 State.mcRange State.migJob

/-- MIG_LOAD (05 R149, R150): each page becomes resident in the pool of STACK, through Reservoir, evicting as needed. -/
def execMigLoad (s : State) : Host.Outcome State Fault Refusal := .next (s.onMain migLoadEffect)

def State.migPin (s : State) (b : List Byte) : State :=
  let ps := s.mcPages b
  let n := (ps.takeWhile (fun q => lfL (s.leaf q))).length
  let a := (ps.take n).foldl (fun t q => t.modLeaf q (fun w => putBit w 60 true)) s
  a.migEnds b (if n = ps.length then stDone else stStateConflict) n

def migPinEffect (s : State) : State := s.mcRun 5 State.mcRange State.migPin

/-- MIG_PIN (05 R149): PIN on each resident page in page order, STATE_CONFLICT at the first that is not. -/
def execMigPin (s : State) : Host.Outcome State Fault Refusal := .next (s.onMain migPinEffect)

def State.migUnpin (s : State) (b : List Byte) : State :=
  ((s.mcPages b).foldl (fun t q => t.modLeaf q (fun w => putBit w 60 false)) s).migEnds b stDone (mcCount b)

def migUnpinEffect (s : State) : State := s.mcRun 6 State.mcRange State.migUnpin

/-- MIG_UNPIN (05 R149): clears PIN. -/
def execMigUnpin (s : State) : Host.Outcome State Fault Refusal := .next (s.onMain migUnpinEffect)

def State.migDropL (s : State) (b : List Byte) : State :=
  let ps := (s.mcPages b).filter (fun q => lfL (s.leaf q) && !lfPin (s.leaf q))
  (ps.foldl (fun t q => t.evictPage q (lfLFrame (t.leaf q))) s).awaitFrames b ps.length (s.framesOf ps)

def migDropLEffect (s : State) : State := s.mcRun 7 State.mcRange State.migDropL

/-- MIG_DROP_L (05 R149, R157): evicts unpinned pages, PAGES counting them. -/
def execMigDropL (s : State) : Host.Outcome State Fault Refusal := .next (s.onMain migDropLEffect)

def State.migDropR (s : State) (b : List Byte) : State :=
  (((s.mcPages b).filter (fun q => lfR (s.leaf q))).foldl State.freeReservoir s).migEnds b stDone (mcCount b)

def migDropREffect (s : State) : State := s.mcRun 8 State.mcRange State.migDropR

/-- MIG_DROP_R (05 R149): frees Reservoir copies. -/
def execMigDropR (s : State) : Host.Outcome State Fault Refusal := .next (s.onMain migDropREffect)

def State.migClearFault (s : State) (b : List Byte) : State :=
  ((s.mcPages b).foldl (fun t q => t.modLeaf q (fun w => putBit w 59 false)) s).migEnds b stDone (mcCount b)

/-- A command of an OP that Table 5.6 does not list ends BAD_ARG; the events of the migration commands all end one that is at the front. -/
def State.mcUnknown (s : State) : State :=
  match s.mig.queue with
  | b :: _ =>
    if (mcOp b = 0 ∨ 9 < mcOp b) ∧ s.mig.job.isNone ∧ s.mig.fills.isEmpty ∧ s.mig.held.all (fun h => h.seen) then
      (s.modMig (fun m => { m with queue := m.queue.drop 1 })).migEnds b stBadArg 0
    else s
  | [] => s

def migClearFaultEffect (s : State) : State := (s.mcRun 9 State.mcRange State.migClearFault).mcUnknown

/-- MIG_CLEAR_FAULT (05 R149, R155): clears FAULT. A front command whose OP Table 5.6 does not list ends BAD_ARG here (no row is its own). -/
def execMigClearFault (s : State) : Host.Outcome State Fault Refusal := .next (s.onMain migClearFaultEffect)

/-! ### Scrubbing and refresh (05 R142, R162) -/

/-- One scrubbed word: corrected and written back, or recorded; a frame-pool word that is uncorrectable withdraws its page (R161, R162). -/
def State.scrubWord (s : State) (a : Nat) : State :=
  if s.poison.contains a ∧ a < 0x1800000000 ∧ s.inPool (frameOf a) then s.withdrawAt a 8 0
  else s.eccRead a 8 0 (DoubtInfo.plain 0)

/-- Memory m of the SRAM scrubbers: base and size. -/
def scrubMem (m : Nat) : Nat × Nat :=
  if m < 8 then (pondAddr m 0, pondSize) else if m = 8 then (hubBase, 0x4000000) else (gridBase, 0x2000000)

def sramScrubEffect (m : Fin 10) (s : State) : State :=
  let o := mapGet 0 s.mig.scrub m.val
  let t := s.scrubWord ((scrubMem m).1 + o)
  t.modMig (fun g => { g with scrub := mapSet 0 g.scrub m.val ((o + 8) % (scrubMem m).2) })

/-- SRAM_SCRUB: the scrubber of a Pond (0 to 7), hub SRAM (8) or the grid store (9) reads, corrects and writes back its next word in an idle port
cycle (05 R162). -/
def execSramScrub (m : Fin 10) (s : State) : Host.Outcome State Fault Refusal := .next (s.onMain (sramScrubEffect m))

/-- The refresh sub-slot now running, as 1 + its number since power-on; 0 outside one. -/
def State.refreshNow (s : State) : Nat := if s.subGlobal % 16 = 0 then 1 + s.frt.frameStart + s.subGlobal else 0

/-- Stack k scrubs two 256-byte units (R162). -/
def State.scrubLake (s : State) (k : Nat) : State :=
  let o := s.reg (Reg.LAKE_SCRUB_POS k)
  let t := (List.range 64).foldl (fun u (i : Nat) => u.scrubWord (k * 0x600000000 + o + 8 * i)) s
  t.setReg (Reg.LAKE_SCRUB_POS k) ((o + 512) % 0x600000000)

/-- Stack k is trained and its scrubbing is not suspended by heat (16 R419). -/
def State.scrubs (s : State) (k : Nat) : Bool := bit (s.reg (Reg.LAKE_STATUS k)) 0 && !bit (s.reg (Reg.LAKE_STATUS k)) 1

def lakeRefreshSubslotEffect (s : State) : State :=
  let n := s.refreshNow
  if n = 0 ∨ s.mig.refreshed = n then s
  else (((List.range 4).filter s.scrubs).foldl State.scrubLake s).modMig (fun m => { m with refreshed := n })

/-- LAKE_REFRESH_SUBSLOT: in a refresh sub-slot (02 R46), once, every trained Lake controller refreshes and, unless heat suspends it (16 R419), scrubs two
256-byte units in address order (05 R142, R162). -/
def execLakeRefreshSubslot (s : State) : Host.Outcome State Fault Refusal := .next (s.onMain lakeRefreshSubslotEffect)

end Sys2Proof.Machine
end

