-- ==== Sys2Proof/Machine/Xexisha.lean ====
section
/-! DEFINITION. The Xexisha link (14): ports, slot frames, forwarding, landing, acknowledgements, tags, peers and generations. -/

namespace Sys2Proof.Machine

/-- The Xexisha part changed by f. -/
def State.modXsl (s : State) (f : Xexisha → Xexisha) : State := { s with xsl := f s.xsl }

/-! ### The end of messages and peers (R368, R370) -/

/-- A message has ended with a status: its tag goes into quarantine, and what sent it is told. -/
def State.endMsg (s : State) (x : XMsg) (status : Nat) : State :=
  let a := s.modXsl (fun l => { l with msgs := l.msgs.filter (fun y => y.tag != x.tag), released := l.released ++ [(x.tag, s.nowNs)] })
  match x.who with
  | .mover v m seq => if status = stDone then a else a.modSeq v m seq (fun e => { e with fails := e.fails ++ [status] })
  | .harp _ => a
  | .client _ => { a with rdata := [status] }

/-- Every outstanding message to device d ends PEER_LOST. -/
def State.endPeerMsgs (s : State) (d : Nat) : State :=
  (s.xsl.msgs.filter (fun x => x.dst == d)).foldl (fun t x => t.endMsg x stPeerLost) s

/-- Member d becomes LOST; cause 0 PEER_TO, 1 port down (R370). -/
def State.losePeer (s : State) (d cause : Nat) : State :=
  if !s.member d || s.peerLost d || d == s.devId then s
  else (((s.hwSetBit Reg.XSL_LOST d).endPeerMsgs d).bump Reg.XSL_PEERLOST_CNT).outcome 0xD 0xCC (d + 256 * cause)

/-- The port goes DOWN: every member routed through it becomes LOST (R356, R370). -/
def State.portDown (s : State) (p : Nat) : State :=
  ((List.range 64).filter (fun d => s.routeOf d == some p)).foldl (fun t d => t.losePeer d 1) (s.modPort p (fun x => { x with st := 0 }))

/-! ### Ports (R356) -/

def xslPortEnableEffect (p : Fin 6) (on : Bool) (s : State) : State :=
  let a := s.setRegBits (Reg.XSL_PCFG p) 0 0 (b2n on)
  if on then
    if bit (s.reg (Reg.XSL_PCFG p)) 0 then a
    else a.modPort p (fun x => { x with st := 1, dupId := false, enAt := s.fclk })
  else if (s.port p).st = 2 then a.portDown p
  else a.modPort p (fun x => { x with st := 0 })

/-- XSL_PORT_ENABLE: EN set starts training and clears DUP_ID; EN cleared takes the port DOWN (14 R356). -/
def execXslPortEnable (p : Fin 6) (on : Bool) (s : State) : Host.Outcome State Fault Refusal := .next (s.onMain (xslPortEnableEffect p on))

def xslPortTrainedEffect (p : Fin 6) (wire : Nat) (s : State) : State :=
  if (s.port p).st = 1 then s.modPort p (fun x => { x with st := 2, wire := wire % 65536, lastRx := s.fclk }) else s

/-- XSL_PORT_TRAINED: all four lanes are trained and the wire delay (ns, measured outside) is known: the port is UP (14 R355, R356). -/
def execXslPortTrained (p : Fin 6) (wire : Nat) (s : State) : Host.Outcome State Fault Refusal := .next (s.onMain (xslPortTrainedEffect p wire))

def xslPortDownEffect (p : Fin 6) (s : State) : State :=
  if (s.port p).st = 2 ∧ (s.port p).lastRx + 1000 ≤ s.fclk then s.portDown p else s

/-- XSL_PORT_DOWN: no valid slot frame for 1 µs (14 R356). -/
def execXslPortDown (p : Fin 6) (s : State) : Host.Outcome State Fault Refusal := .next (s.onMain (xslPortDownEffect p))

/-! ### Sending slot frames (R357, R362, R365) -/

/-- The owner of the present sub-slot on port p; none where it is idle or no table runs (R362). -/
def State.linkOwner (s : State) (p : Nat) : Option Nat :=
  if !s.tableValid || tSlotLen s.table ≤ s.fclk - s.frt.slotStart then none
  else
    let link := slotLink s.table s.slotNow
    let b := if link = 0xFFFF then 0x40 else linkByte s.table link p s.subNow
    if b < 0x40 then some b
    else if b = 0x40 then
      let m := (List.range 64).filter (fun d => bit (s.reg (Reg.XSL_ROTMASK p)) d)
      m[s.subGlobal % max 1 m.length]?
    else none

/-- ACK flits ready for port p, at most n: up to 32 entries of one destination each, in order; the entries left. -/
def State.ackFlits (s : State) (p : Nat) : Nat → List (Nat × Nat × Nat) → List Flit × List (Nat × Nat × Nat)
  | 0, l => ([], l)
  | k + 1, l =>
    match l.find? (fun e => s.routeOf e.1 == some p) with
    | none => ([], l)
    | some e =>
      let es := (l.filter (fun x => x.1 == e.1)).take 32
      let rest := l.filter (fun x => x.1 != e.1) ++ (l.filter (fun x => x.1 == e.1)).drop 32
      let f : Flit := { typ := 3, src := s.devId, dst := e.1, gen := 0, tag := 0, hops := s.hops, set := false, poison := false, addr := 0,
                        payload := (es.map (fun x => toLE 8 (x.2.1 + 65536 * x.2.2))).flatten, since := s.nowNs }
      let r := State.ackFlits s p k rest
      (f :: r.1, r.2)

/-- The flits of the present sub-slot on port p, with the port and the acknowledgements that are left (R362). -/
def State.slotFlits (s : State) (p : Nat) : List Flit × XPort × List (Nat × Nat × Nat) :=
  let x := s.port p
  match s.linkOwner p with
  | none => ([], x, s.xsl.acks)
  | some o =>
    if o = s.devId then
      let a := s.ackFlits p 23 s.xsl.acks
      let n := 23 - a.1.length
      (a.1 ++ x.out.take n, { x with out := x.out.drop n }, a.2)
    else
      let mine := (x.fwd.filter (fun f => f.src == o)).take 23
      let rest := x.fwd.filter (fun f => f.src != o) ++ (x.fwd.filter (fun f => f.src == o)).drop 23
      (mine, { x with fwd := rest }, s.xsl.acks)

/-- The slot header of a frame of n flits on port p in the present sub-slot (Table 14.1). -/
def State.slotHeader (s : State) (p n : Nat) : List Byte :=
  let b := toLE 1 s.devId ++ toLE 1 ((s.linkOwner p).getD 0x41) ++ toLE 1 n ++ toLE 1 0 ++ toLE 4 s.subGlobal ++ toLE 4 (s.reg Reg.FRT_FRAME_CNT)
  b ++ toLE 4 (crc32c b)

def xslSlotFrameTxEffect (p : Fin 6) (s : State) : State :=
  let n := 1 + s.frt.slotStart + s.subNow
  if (s.port p).st ≠ 2 ∨ (s.port p).sentAt = n then s
  else
    let r := s.slotFlits p
    ((s.modPort p (fun _ => { r.2.1 with header := s.slotHeader p.val r.1.length, sent := r.1, sentAt := n })).modXsl (fun l => { l with acks := r.2.2 })).bumpBy (Reg.XSL_TXF_CNT p)
      r.1.length

/-- XSL_SLOT_FRAME_TX: an UP port sends the slot frame of the present sub-slot: the owner's flits, at most 23, its acknowledgements first where it
is the device itself; none while no table is active (14 R357, R362, R365). -/
def execXslSlotFrameTx (p : Fin 6) (s : State) : Host.Outcome State Fault Refusal := .next (s.onMain (xslSlotFrameTxEffect p))

/-! ### Receiving (R358, R363) -/

/-- A flit read from its 276 bytes: none where its CRC or TYPE is wrong (R359, Table 14.2). -/
def parseFlit (b : List Byte) (now : Int) : Option Flit :=
  let t := fieldLE b 0 1
  if crc32c (b.take 0x110) ≠ fieldLE b 0x110 4 ∨ t = 0 ∨ 4 < t then none
  else
    let n := if t = 1 then fieldLE b 0xE 1 + 1 else if t = 2 then 8 else if t = 3 then 8 * (fieldLE b 0xE 1 + 1) else 0
    some { typ := t, src := fieldLE b 1 1 % 64, dst := fieldLE b 2 1 % 64, gen := fieldLE b 3 1, tag := fieldLE b 4 2, hops := fieldLE b 6 1 % 64,
           set := bit (fieldLE b 7 1) 0, poison := bit (fieldLE b 7 1) 1, addr := fieldLE b 8 6, payload := (b.drop 0x10).take n, since := now }

/-- An ACK ends the tags it names (R363, R368). -/
def State.takeAcks (s : State) (f : Flit) : State :=
  (List.range (f.payload.length / 8)).foldl (fun t i =>
    let e := fieldLE f.payload (8 * i) 8
    match t.xsl.msgs.find? (fun x => x.tag == e % 65536 && x.dst == f.src) with
    | some x => t.endMsg x (bits e 23 16)
    | none => t.bump Reg.XSL_ORPHAN_CNT) s

/-- One flit of a valid slot frame on port p (Table 14.4). -/
def State.takeFlit (s : State) (p : Nat) : Option Flit → State
  | none => s.bump Reg.XSL_CRC_CNT
  | some f =>
    if !s.member f.src || s.peerLost f.src then s.bump Reg.XSL_NONMEM_CNT
    else
      let a := s.modXsl (fun l => { l with seen := mapSet (-1) l.seen f.src s.nowNs })
      if f.dst ≠ s.devId then
        match s.routeOf f.dst with
        | some q =>
          if f.hops = 0 ∨ 256 ≤ ((s.port q).fwd.filter (fun x => x.src == f.src)).length then a.bump Reg.XSL_FWD_DROP_CNT
          else a.modPort q (fun x => { x with fwd := x.fwd ++ [{ f with hops := f.hops - 1, since := s.nowNs }] })
        | none => a.bump Reg.XSL_FWD_DROP_CNT
      else if f.typ = 3 then a.takeAcks f
      else if f.typ = 4 then a
      else if 4096 ≤ (s.port p).inb.length then a.bump Reg.XSL_IN_DROP_CNT
      else a.modPort p (fun x => { x with inb := x.inb ++ [{ f with since := s.nowNs }] })

def xslSlotFrameRxEffect (p : Fin 6) (bad : Bool) (corrected : Nat) (frame : List Byte) (s : State) : State :=
  if (s.port p).st ≠ 2 then s
  else
    let h := frame.take 16
    if bad ∨ crc32c (h.take 12) ≠ fieldLE h 0xC 4 then s.bump (Reg.XSL_UE_CNT p)
    else if fieldLE h 0 1 % 64 = s.devId then
      ((s.modPort p (fun x => { x with dupId := true })).portDown p).outcome 0xD 0xC8 (p + 256 * s.devId)
    else
      let a := (s.modPort p (fun x => { x with lastRx := s.fclk, neighbour := fieldLE h 0 1 % 64 })).bumpBy (Reg.XSL_CE_CNT p) corrected
      (List.range (min 23 (fieldLE h 2 1))).foldl (fun t i => t.takeFlit p (parseFlit ((frame.drop (16 + 276 * i)).take 276) s.nowNs)) a

/-- XSL_SLOT_FRAME_RX: a slot frame arrives (its bytes, whether a codeword was uncorrectable, and how many were corrected): discarded and counted, a
frame of the device's own ID takes the port DOWN, and otherwise each flit is handled (14 R356, R358, R363). -/
def execXslSlotFrameRx (p : Fin 6) (bad : Bool) (corrected : Nat) (frame : List Byte) (s : State) : Host.Outcome State Fault Refusal :=
  .next (s.onMain (xslSlotFrameRxEffect p bad corrected frame))

/-! ### Landing (R365, R366, R369) -/

/-- The landing range that takes an extent: partition and range number (R365, 05 R163). -/
def State.landingRange (s : State) (k : Want) (a n : Nat) : Option (Nat × Nat) :=
  let hit := fun (p : Nat) =>
    ((List.range (s.partRanges p).length).zip (s.partRanges p)).find? (fun e =>
      inRange [e.2] (fun x => x.landing && (match k with | .r => x.r | .w => x.w | .s => x.sy)) a n)
  (s.partIds.filterMap (fun p => (hit p).map (fun e => (p, e.1)))).head?

/-- An acknowledgement to send (R365). -/
def State.ack (s : State) (f : Flit) (status : Nat) : State := s.modXsl (fun l => { l with acks := l.acks ++ [(f.src, f.tag, status)] })

/-- The check and landing of one message (R365). -/
def State.land (s : State) (f : Flit) : State :=
  let k : Want := if f.typ = 1 then .w else .s
  let n := if f.typ = 1 then f.payload.length else 8
  if !s.admits .xexisha none k f.addr n then (s.refuse .xexisha none k f.addr).ack f stBadArg
  else match s.landingRange k f.addr n with
    | none => (s.refuse .xexisha none k f.addr).ack f stBadArg
    | some (p, i) =>
      if f.gen ≠ s.regBits (Reg.XSL_GEN (8 * p + i)) 7 0 then (s.bump Reg.XSL_STALE_CNT).ack f stStaleGen
      else if f.typ = 1 then ((s.putBytes f.addr f.payload (List.replicate n f.poison)).actHub p f.addr n).ack f stDone
      else
        let x := BitVec.ofNat 64 (fromLE f.payload)
        (s.cellOp f.addr (if f.set then .set x else .add x)).ack f stDone

def xslLandingEffect (p : Fin 6) (s : State) : State :=
  match (s.port p).inb with
  | [] => s
  | f :: l =>
    if !s.owns .xexisha (pathRows .xexisha (regionOf f.addr) false) then s
    else (s.modPort p (fun x => { x with inb := l })).land f

/-- XSL_LANDING: the oldest WRITE or SYNC of a port's inbound buffer leaves it in a sub-slot client 0xE owns on its path, is checked for reach and
generation, lands and is acknowledged (14 R365, R366). -/
def execXslLanding (p : Fin 6) (s : State) : Host.Outcome State Fault Refusal := .next (s.onMain (xslLandingEffect p))

/-! ### Time bounds (R361, R367, R368, R370) -/

/-- A flit has stayed RES_MAX in its buffer. -/
def State.aged (s : State) (f : Flit) : Bool := s.reached (f.since + (s.reg Reg.XSL_RES_MAX : Int))

def xslFlitAgeEffect (p : Fin 6) (s : State) : State :=
  let x := s.port p
  let n := ((x.out ++ x.fwd ++ x.inb).filter s.aged).length
  let keep := fun (l : List Flit) => l.filter (fun f => !s.aged f)
  (s.modPort p (fun y => { y with out := keep y.out, fwd := keep y.fwd, inb := keep y.inb })).bumpBy Reg.XSL_AGE_CNT n

/-- XSL_FLIT_AGE: the flits that have stayed RES_MAX in one buffer of a port are discarded and counted (14 R367). -/
def execXslFlitAge (p : Fin 6) (s : State) : Host.Outcome State Fault Refusal := .next (s.onMain (xslFlitAgeEffect p))

def xslMessageTimeoutEffect (s : State) : State :=
  match s.xsl.msgs.find? (fun x => s.reached (x.since + (s.quarantine : Int))) with
  | some x => s.endMsg x stDeadlineMiss
  | none => s

/-- XSL_MESSAGE_TIMEOUT: a message without ACK after 2 * L_max ends DEADLINE_MISS (14 R368). -/
def execXslMessageTimeout (s : State) : Host.Outcome State Fault Refusal := .next (s.onMain xslMessageTimeoutEffect)

def xslTagReleaseEffect (s : State) : State :=
  match s.xsl.released with
  | (t, since) :: l =>
    if s.reached (since + (s.quarantine : Int)) then s.modXsl (fun x => { x with released := l, ready := x.ready ++ [t] }) else s
  | [] => s

/-- XSL_TAG_RELEASE: the tag released longest ago is eligible again once its quarantine has passed (14 R361). -/
def execXslTagRelease (s : State) : Host.Outcome State Fault Refusal := .next (s.onMain xslTagReleaseEffect)

def xslPeerTimeoutEffect (d : Fin 64) (s : State) : State :=
  if s.reached (mapGet (-1) s.xsl.seen d.val + 1000 * (s.reg Reg.XSL_PEER_TO : Int)) then s.losePeer d.val 0 else s

/-- XSL_PEER_TIMEOUT: a member from which no flit came for PEER_TO becomes LOST (14 R370). -/
def execXslPeerTimeout (d : Fin 64) (s : State) : Host.Outcome State Fault Refusal := .next (s.onMain (xslPeerTimeoutEffect d))

/-- A write of a generation is accepted (R369). -/
def State.genAllowed (s : State) (k value : Nat) : Bool :=
  value == (s.regBits (Reg.XSL_GEN k) 7 0 + 1) % 256 &&
    (match s.xsl.genAt.find? (fun e => e.1 == k) with
     | some e => s.reached (e.2 + (s.quarantine : Int))
     | none => true)

def xslGenAdvanceEffect (k : Fin 128) (value : Nat) (s : State) : State :=
  if s.genAllowed k.val value then
    (s.setReg (Reg.XSL_GEN k) value).modXsl (fun l => { l with genAt := l.genAt.filter (fun e => e.1 != k.val) ++ [(k.val, s.nowNs)] })
  else s.hwSetBit Reg.XSL_ERR errState

/-- XSL_GEN_ADVANCE: a group writes the current generation + 1 of a landing range, at least Q after its last change; any other write is refused and
sets STATE (14 R369, R373). -/
def execXslGenAdvance (k : Fin 128) (value : Nat) (s : State) : Host.Outcome State Fault Refusal := .next (s.onMain (xslGenAdvanceEffect k value))

def xslLostClearEffect (mask : BitVec 64) (s : State) : State :=
  let gone := (List.range 64).filter (fun d => bit mask.toNat d && s.peerLost d && !bit (s.setNow Reg.XSL_LOST) d)
  let a := s.setReg Reg.XSL_LOST (gone.foldl (fun m d => putBit m d false) (s.reg Reg.XSL_LOST))
  a.modXsl (fun l => { l with seen := gone.foldl (fun m d => mapSet (-1) m d s.nowNs) l.seen })

/-- XSL_LOST_CLEAR: a group clears LOST bits; a member is heard anew from then on (14 R370; the restart of PEER_TO is DEDUCED, log entry 31). -/
def execXslLostClear (mask : BitVec 64) (s : State) : Host.Outcome State Fault Refusal := .next (s.onMain (xslLostClearEffect mask))

/-! ### Membership and heartbeats (R370, R371) -/

/-- XSL_MEMBERS takes a new value at a frame boundary: the messages to members that leave end PEER_LOST; a member that joins is heard from then on. -/
def State.setMembers (s : State) (x : Nat) : State :=
  let left := (List.range 64).filter (fun d => s.member d && !bit x d)
  let came := (List.range 64).filter (fun d => !s.member d && bit x d)
  let a := left.foldl State.endPeerMsgs s
  (a.setReg Reg.XSL_MEMBERS x).modXsl (fun l => { l with seen := came.foldl (fun m d => mapSet (-1) m d s.nowNs) l.seen })

/-- One HEARTBEAT flit to every other member at a frame start, where HB_EN is set; it needs a route and room in the outbound queue. -/
def State.heartbeats (s : State) : State :=
  if !bit (s.reg Reg.XSL_CFG) 16 then s
  else ((List.range 64).filter (fun d => s.member d && d != s.devId)).foldl (fun t d =>
    match t.routeOf d with
    | some p =>
      if 4096 ≤ (t.port p).out.length then t
      else t.modPort p (fun x => { x with out := x.out ++
        [{ typ := 4, src := s.devId, dst := d, gen := 0, tag := 0, hops := s.hops, set := false, poison := false, addr := 0, payload := [],
           since := s.nowNs }] })
    | none => t) s

end Sys2Proof.Machine
end

