-- ==== Sys2Proof/Machine/Harp.lean ====
section
/-! DEFINITION. The Harp engines (06 R180 to R192, R200 to R203): job descriptors, conversion of camera lines, the line-buffer ring, the
convolution of one output row, frames, and golden jobs. -/

namespace Sys2Proof.Machine

/-! ### The job descriptor (06 Table 6.3) -/

def hjMode (d : List Byte) : Nat := fieldLE d 0 1
def hjSource (d : List Byte) : Nat := fieldLE d 1 1
def hjStream (d : List Byte) : Nat := fieldLE d 2 1
def hjPart (d : List Byte) : Nat := fieldLE d 3 1
def hjPix (d : List Byte) : Nat := fieldLE d 4 1
def hjGshift (d : List Byte) : Nat := fieldLE d 5 1
def hjAct (d : List Byte) : Nat := fieldLE d 6 1
def hjOutFmt (d : List Byte) : Nat := fieldLE d 7 1
def hjIw (d : List Byte) : Nat := fieldLE d 8 2
def hjIh (d : List Byte) : Nat := fieldLE d 0xA 2
def hjCin (d : List Byte) : Nat := fieldLE d 0xC 2
def hjCout (d : List Byte) : Nat := fieldLE d 0xE 1
def hjKh (d : List Byte) : Nat := fieldLE d 0xF 1 % 16
def hjKw (d : List Byte) : Nat := fieldLE d 0xF 1 / 16
def hjSy (d : List Byte) : Nat := fieldLE d 0x10 1 % 16
def hjSx (d : List Byte) : Nat := fieldLE d 0x10 1 / 16
def hjPt (d : List Byte) : Nat := fieldLE d 0x11 1 % 16
def hjPb (d : List Byte) : Nat := fieldLE d 0x11 1 / 16
def hjPl (d : List Byte) : Nat := fieldLE d 0x12 1 % 16
def hjPr (d : List Byte) : Nat := fieldLE d 0x12 1 / 16
def hjFill (d : List Byte) : Nat := fieldLE d 0x13 1
def hjFillVal (d : List Byte) : Nat := fieldLE d 0x14 1
def hjInExp (d : List Byte) : Int := expOf (fieldLE d 0x15 1)
def hjWExp (d : List Byte) : Int := expOf (fieldLE d 0x16 1)
def hjOutExp (d : List Byte) : Nat := fieldLE d 0x17 1
def hjCodec (d : List Byte) : Nat := fieldLE d 0x18 1
def hjFlags (d : List Byte) : Nat := fieldLE d 0x19 1
def hjRepeat (d : List Byte) : Bool := bit (hjFlags d) 0
def hjOutFrames (d : List Byte) : Nat := fieldLE d 0x1A 2
def hjStride (d : List Byte) : Nat := fieldLE d 0x1C 4
def hjIn (d : List Byte) : Nat := fieldLE d 0x20 8
def hjInExpAddr (d : List Byte) : Nat := fieldLE d 0x28 8
def hjW (d : List Byte) : Nat := fieldLE d 0x30 8
def hjWExpAddr (d : List Byte) : Nat := fieldLE d 0x38 8
def hjEpi (d : List Byte) : Nat := fieldLE d 0x40 8
def hjOut (d : List Byte) : Nat := fieldLE d 0x48 8
def hjOutExpAddr (d : List Byte) : Nat := fieldLE d 0x50 8
def hjCell (d : List Byte) : Nat := fieldLE d 0x58 8
def hjStatus (d : List Byte) : Nat := fieldLE d 0x60 8
def hjDeadline (d : List Byte) : Nat := fieldLE d 0x68 4
def hjClampHi (d : List Byte) : W32 := BitVec.ofNat 32 (fieldLE d 0x6C 4)
def hjBlack (d : List Byte) (c : Nat) : Nat := fieldLE d (0x70 + 2 * c) 2 % 4096
def hjGain (d : List Byte) (c : Nat) : Nat := fieldLE d (0x78 + 2 * c) 2

/-- Channels held per pixel: 4 in MODE 0, CIN in MODE 1. -/
def hjChan (d : List Byte) : Nat := if hjMode d = 0 then 4 else hjCin d

/-- Output rows and columns: the formula of 03 R101 with dilation 1. -/
def hjOh (d : List Byte) : Int := ((hjIh d + hjPt d + hjPb d : Nat) - (hjKh d : Int)) / (max 1 (hjSy d) : Int) + 1
def hjOw (d : List Byte) : Int := ((hjIw d + hjPl d + hjPr d : Nat) - (hjKw d : Int)) / (max 1 (hjSx d) : Int) + 1

/-- RING_ROWS (R187). -/
def hjRing (d : List Byte) : Nat :=
  if hjMode d = 0 then 1572864 / max 1 (4 * hjIw d) else 1572864 / max 1 (hjIw d * hjCin d * 33 / 32)

/-- Bytes of the weights and of their exponents. -/
def hjWBytes (d : List Byte) : Nat := hjCout d * hjKh d * hjKw d * hjChan d
def hjWExpBytes (d : List Byte) : Nat := if hjMode d = 1 ∧ hjWExpAddr d ≠ 0 then cdiv (hjWBytes d) 32 else 0

/-- An address in the image range. -/
def isImage (a : Nat) : Bool := decide (regionOf a = .image)

/-- The limits of Table 6.2 and the rules of R185 to R187, R190 and R201. -/
def hjOk (d : List Byte) : Bool :=
  let r (v lo hi : Nat) : Bool := decide (lo ≤ v) && decide (v ≤ hi)
  let m0 := hjMode d == 0
  let shape :=
    if m0 then (hjCin d == 3 || hjCin d == 4) && r (hjCout d) 1 64 && r (hjKh d) 1 7 && r (hjKw d) 1 7 && r (hjSy d) 1 4 && r (hjSx d) 1 4 &&
      r (hjPt d) 0 7 && r (hjPb d) 0 7 && r (hjPl d) 0 7 && r (hjPr d) 0 7
    else r (hjCin d) 32 1024 && hjCin d % 32 == 0 && r (hjCout d) 1 16 && r (hjKh d) 1 3 && r (hjKw d) 1 3 && r (hjSy d) 1 2 && r (hjSx d) 1 2 &&
      r (hjPt d) 0 2 && r (hjPb d) 0 2 && r (hjPl d) 0 2 && r (hjPr d) 0 2 && hjSource d == 1
  let source := hjSource d == 1 || (decide (hjStream d < 96) && decide (hjPix d ≤ 4))
  let out :=
    (hjOutFmt d != 0 || ([8, 16, 32, 64].contains (hjCout d) && (hjOw d).toNat * hjCout d % 32 == 0)) &&
    (hjCodec d == 0 || (decide (hjCodec d ≤ 4) && hjOutFmt d == 0 && (hjCout d == 32 || hjCout d == 64)))
  let late := hjDeadline d != 0 || !(isImage (hjIn d) || isImage (hjW d) || isImage (hjWExpAddr d) || isImage (hjEpi d) ||
    (hjSource d == 1 && isImage (hjInExpAddr d)))
  decide (hjMode d ≤ 1) && decide (hjSource d ≤ 1) && shape && source && r (hjIw d) 1 8192 && r (hjIh d) 1 8192 && decide (1 ≤ hjOh d) &&
    decide (1 ≤ hjOw d) && decide (hjGshift d ≤ 31) && decide (hjAct d ≤ 2) && decide (hjOutFmt d ≤ 2) && decide (hjFill d ≤ 2) &&
    decide (hjFlags d ≤ 1) && !(hjSource d == 1 && hjRepeat d) && r (hjOutFrames d) 1 256 && hjStride d % 256 == 0 && out && late &&
    decide (hjKh d + hjSy d ≤ hjRing d) && decide (hjWBytes d + hjWExpBytes d ≤ 262144)

/-! ### Engine access -/

def State.modHarp (s : State) (e : Nat) (f : HarpEngine → HarpEngine) : State := { s with harp := listModify f s.harp e }

/-- Engine e owns the path of an access now. -/
def State.harpOwns (s : State) (e : Nat) (a : Nat) (read : Bool) : Bool :=
  s.harpTurn e && s.owns .harp (pathRows .harp (regionOf a) read)

/-- An access engine e makes for its job may move now; a refused one needs no path. -/
def State.harpMay (s : State) (e : Nat) (d : List Byte) (k : Want) (a n : Nat) : Bool :=
  !s.admits .harp (some (hjPart d)) k a n || s.harpOwns e a (k == .r)

/-! ### Conversion of camera lines (R182) -/

/-- Samples of a line in the packing of MIPI CSI-2 v2.1 for PIXFMT: RGB888 in the order B, G, R, YUV422 in the order U, Y, V, Y, RAW10 four and RAW12
two samples to a group (PRESUMED, log entry 32: the spec names the standard, not the packing). -/
def unpackLine (pix : Nat) (l : List Byte) : List Nat :=
  let b := l.map (fun x => x.toNat)
  if pix ≤ 2 then b
  else if pix = 3 then
    ((List.range (b.length / 5)).map (fun (g : Nat) => (List.range 4).map (fun (i : Nat) =>
      4 * b.getD (5 * g + i) 0 + bits (b.getD (5 * g + 4) 0) (2 * i + 1) (2 * i)))).flatten
  else
    ((List.range (b.length / 3)).map (fun (g : Nat) => (List.range 2).map (fun (i : Nat) =>
      16 * b.getD (3 * g + i) 0 + bits (b.getD (3 * g + 2) 0) (4 * i + 3) (4 * i)))).flatten

/-- Sensor lines of one converted row. -/
def linesPerRow (pix : Nat) : Nat := if pix ≤ 1 then 1 else 2

/-- The channels of the converted pixels of a row: four samples each, none for a channel marked 0. -/
def pixelRows (pix : Nat) (ls : List (List Byte)) : List (List (Option Nat)) :=
  let a := unpackLine pix (ls.getD 0 [])
  let b := unpackLine pix (ls.getD 1 [])
  if pix = 0 then (List.range (a.length / 3)).map (fun (i : Nat) => [a[3 * i + 2]?, a[3 * i + 1]?, a[3 * i]?, none])
  else if pix = 1 then
    (List.range (a.length / 2)).map (fun (i : Nat) => [a[2 * i + 1]?, a[4 * (i / 2)]?, a[4 * (i / 2) + 2]?, none])
  else (List.range (a.length / 2)).map (fun (i : Nat) => [a[2 * i]?, a[2 * i + 1]?, b[2 * i]?, b[2 * i + 1]?])

/-- The code of one channel sample (R182). -/
def harpCode (d : List Byte) (c : Nat) : Option Nat → Nat
  | none => 0
  | some p =>
    let x : Int := ((p : Int) - (hjBlack d c : Int)) * (hjGain d c : Int)
    ofInt 8 (max (-127) (min 127 (rneDiv x (2 ^ hjGshift d))))

/-- A converted row: four codes per pixel. -/
def convertRow (d : List Byte) (ls : List (List Byte)) : List Nat :=
  ((pixelRows (hjPix d) ls).map (fun px => ((List.range 4).map (fun c => harpCode d c (px.getD c none))))).flatten

/-! ### One output row (R183 to R185) -/

/-- Code and exponent of input element (y, x, c); none where it lies outside and is not replicated. -/
def harpElem (d : List Byte) (rows : Nat → Option HarpRow) (y x : Int) (c : Nat) : Int × Int :=
  let inside := decide (0 ≤ y) && decide (y < (hjIh d : Int)) && decide (0 ≤ x) && decide (x < (hjIw d : Int))
  if !inside && hjFill d != 2 then ((if hjFill d = 0 then 0 else toInt 8 (hjFillVal d)), 0)
  else
    let cy := (max 0 (min y ((hjIh d : Int) - 1))).toNat
    let cx := (max 0 (min x ((hjIw d : Int) - 1))).toNat
    match rows cy with
    | none => (0, 0)
    | some r =>
      let k := cx * hjChan d + c
      (toInt 8 (r.codes.getD k 0), if r.exps.isEmpty then 0 else expOf (r.exps.getD (k / 32) 0))

/-- The weight of product (j, ky, kx, c) and its exponent, from the bytes read at W_ADDR and W_EXP_ADDR. -/
def harpWeight (d : List Byte) (w we : List Byte) (j ky kx c : Nat) : Int × Int :=
  let k := ((j * hjKh d + ky) * hjKw d + kx) * hjChan d + c
  (toInt 8 ((w.getD k 0).toNat), if we.isEmpty then 0 else expOf ((we.getD (k / 32) 0).toNat))

/-- r of output pixel (oy, ox), channel j: an exact integer in MODE 0 (R183), the aligned sum in MODE 1 (R184). -/
def harpSum (d : List Byte) (w we : List Byte) (rows : Nat → Option HarpRow) (oy ox j : Nat) : W32 :=
  let taps := ((List.range (hjKh d)).map (fun ky => ((List.range (hjKw d)).map (fun kx =>
    ((List.range (if hjMode d = 0 then hjCin d else hjChan d)).map (fun c =>
      (harpElem d rows ((oy * hjSy d + ky : Nat) - (hjPt d : Int)) ((ox * hjSx d + kx : Nat) - (hjPl d : Int)) c,
       harpWeight d w we j ky kx c))))).flatten)).flatten
  if hjMode d = 0 then
    let t : Int := taps.foldl (fun a p => a + p.1.1 * p.2.1) 0
    fl32 (decide (t < 0)) t.natAbs (hjInExp d + hjWExp d)
  else tileSum (taps.map (fun p => (FV.ofInt (p.1.1 * p.2.1)).scale (p.1.2 + p.2.2)))

/-- Scale, bias and activation (R185). -/
def harpEpilogue (d epi : List Byte) (j : Nat) (r : W32) : W32 :=
  let y := ffma r (BitVec.ofNat 32 (fieldLE epi (8 * j) 4)) (BitVec.ofNat 32 (fieldLE epi (8 * j + 4) 4))
  match hjAct d with
  | 0 => y
  | 1 => if isNan32 y then y else if bit y.toNat 31 then 0#32 else y
  | _ => fmin (fmax y 0#32) (hjClampHi d)

/-- Output row oy: its elements, pixel by pixel. -/
def harpRowOut (d w we epi : List Byte) (rows : Nat → Option HarpRow) (oy : Nat) : List W32 :=
  ((List.range (hjOw d).toNat).map (fun ox => (List.range (hjCout d)).map (fun j => harpEpilogue d epi j (harpSum d w we rows oy ox j)))).flatten

/-- Blocks of 32 of a list. -/
def blocks32 (l : List W32) : List (List W32) := (List.range (cdiv l.length 32)).map (fun b => (l.drop (32 * b)).take 32)

/-- The stored form of a row (R185): element bytes, and an exponent byte per block of 32 (none for FP32). -/
def harpStore (d : List Byte) (l : List W32) : List Nat × List Nat :=
  match hjOutFmt d with
  | 0 =>
    let bs := (blocks32 l).map (fun ys =>
      let zs := ys.map (fun y => fmul y 0x3F800000#32)
      let e := qntExp 0 zs
      (zs.map (fun y => qntCode 0 e y % 256), expByte e))
    ((bs.map (fun b => b.1)).flatten, bs.map (fun b => b.2))
  | 1 =>
    (l.map (fun y => qntInt 127 ((ewp y).scale (-(expOf (hjOutExp d)))) % 256), (blocks32 l).map (fun _ => hjOutExp d))
  | _ => ((l.map (fun y => (toLE 4 y.toNat).map (fun b => b.toNat))).flatten, [])

/-- Bytes of a list of byte values. -/
def bytesOf (l : List Nat) : List Byte := l.map (BitVec.ofNat 8)

/-- The FRC units of a unit row of up to 8 stored rows (codes, exponents): (ux, g, bytes) (R193, R201). -/
def harpUnits (d : List Byte) (rows : List (List Nat × List Nat × Bool)) : List (Nat × Nat × List Byte) :=
  match frcRatio (hjCodec d) with
  | none => []
  | some r =>
    let ow := (hjOw d).toNat
    let c := hjCout d
    let at_ := fun (y x : Nat) => (rows.getD (min y (rows.length - 1)) ([], [], false), min x (ow - 1))
    ((List.range (cdiv ow 8)).map (fun ux => (List.range (c / 32)).map (fun g =>
      (ux, g, frcEncode r {
        exps := (List.range 64).map (fun p => let e := at_ (p / 8) (8 * ux + p % 8); e.1.2.1.getD ((e.2 * c + 32 * g) / 32) 0),
        codes := (List.range 32).map (fun ch => (List.range 64).map (fun p =>
          let e := at_ (p / 8) (8 * ux + p % 8); e.1.1.getD (e.2 * c + 32 * g + ch) 0)) })))).flatten

/-! ### Status (R186, R191) -/

/-- The completion operation on CELL_ADDR, where there is one and the partition allows it. -/
def State.harpTell (s : State) (d : List Byte) (code : Nat) : State :=
  if hjCell d = 0 then s
  else if s.admits .harp (some (hjPart d)) .s (hjCell d) 8 then s.cellOp (hjCell d) (.add (BitVec.ofNat 64 (completionValue code)))
  else s.refuse .harp (some (hjPart d)) .s (hjCell d)

/-- The status word. -/
def State.harpWord (s : State) (d : List Byte) (w : Nat) : State :=
  if s.admits .harp (some (hjPart d)) .w (hjStatus d) 8 then s.storeLE (hjStatus d) 8 w
  else s.refuse .harp (some (hjPart d)) .w (hjStatus d)

/-- The paths to the status word and to the completion cell are owned now. -/
def State.harpCanTell (s : State) (e : Nat) (d : List Byte) : Bool :=
  s.harpMay e d .w (hjStatus d) 8 && (hjCell d == 0 || s.harpMay e d .s (hjCell d) 8)

/-- The status word and the completion operation, which wait in the engine, in order, while one of their paths is not owned (R190; 02 R53). -/
def State.harpNotify (s : State) (e : Nat) (d : List Byte) (w code : Nat) : State :=
  if (s.engineOf e).owed.isEmpty && s.harpCanTell e d then (s.harpWord d w).harpTell d code
  else s.modHarp e (fun h => { h with owed := h.owed ++ [(d, w, code)] })

/-- The engine keeps nothing of its job but what it still has to report. -/
def HarpEngine.clear (h : HarpEngine) (code : Nat) : HarpEngine :=
  { HarpEngine.reset with last := code, golden := h.golden, gold := h.gold, owed := h.owed }

/-- The reads of engine e that have not ended are given up. -/
def State.harpCancel (s : State) (e : Nat) : State :=
  (s.modHarp e (fun h => { h with want := [], got := [] })).modMig (fun m => { m with
    held := m.held.filter (fun x => x.who != .harp e), arrived := m.arrived.filter (fun x => x.1 != e) })

/-- An arming ends without a job (R186). -/
def State.harpFail (s : State) (e : Nat) (code : Nat) : State :=
  let d := (s.engineOf e).desc
  ((s.harpNotify e d code code).harpCancel e).modHarp e (fun h => h.clear code)

/-! ### Reads (R190) -/

/-- The deadline of a read issued now. -/
def State.harpDeadline (s : State) (d : List Byte) : Option Nat := if hjDeadline d = 0 then none else some (s.fclk + hjDeadline d)

/-- A read leaves the engine: data and marks at once on a path it owns, and from the image range what is resident, the rest held; while its path is
not owned it stays in the engine (02 R53). -/
def State.harpIssue (s : State) (e : Nat) (r : HarpRead) : State :=
  let d := (s.engineOf e).desc
  let p := hjPart d
  let keep := fun (t : State) (sent : Bool) => t.modHarp e (fun h => { h with want := h.want ++ [{ r with sent := sent }] })
  if regionOf r.addr = .image then
    (imageParts r.addr r.len).foldl (fun u x =>
      let q := u.readPart (.harp e) .harp p x.1 x.2 r.deadline
      match q.2 with
      | some l => (q.1.actHub p x.1 x.2).modHarp e (fun h => { h with got := h.got ++ [(x.1, l, false)] })
      | none => q.1) (keep s true)
  else if s.harpOwns e r.addr true then
    (keep ((s.eccRead r.addr r.len p (DoubtInfo.plain 6)).actHub p r.addr r.len) true).modHarp e (fun h =>
      { h with got := h.got ++ [(r.addr, s.readBytes r.addr r.len, s.poisoned r.addr r.len)] })
  else keep s false

/-- One read of the engine; a refused read brings nothing and is told by false. -/
def State.harpRead (s : State) (e a n : Nat) : State × Bool :=
  let d := (s.engineOf e).desc
  let p := hjPart d
  if !s.admits .harp (some p) .r a n ∨ (regionOf a = .image ∧ !s.imageMapped .harp a n) then (s.refuse .harp (some p) .r a, false)
  else (s.harpIssue e ⟨a, n, s.harpDeadline d, false⟩, true)

/-- The reads that wait in the engine for their paths try again. -/
def State.harpResend (s : State) (e : Nat) : State :=
  let h := s.engineOf e
  (h.want.filter (fun r => !r.sent)).foldl (fun t r => t.harpIssue e r) (s.modHarp e (fun h => { h with want := h.want.filter (fun r => r.sent) }))

/-- What the migration engine has brought joins what the engine has; the failure code of the first part that failed. -/
def State.harpCollect (s : State) (e : Nat) : State × Option Nat :=
  let mine := s.mig.arrived.filter (fun x => x.1 == e)
  let t := (s.modMig (fun m => { m with arrived := m.arrived.filter (fun x => x.1 != e) })).modHarp e (fun h =>
    { h with got := h.got ++ (mine.filter (fun x => x.2.2.1 == 0)).map (fun x => (x.2.1, x.2.2.2, false)) })
  (t, (mine.find? (fun x => x.2.2.1 != 0)).map (fun x => x.2.2.1))

/-- The bytes of n at a from the parts got, and whether one is uncorrectable; none while a part is missing. -/
def harpGot (got : List (Nat × List Byte × Bool)) (a n : Nat) : Option (List Byte × Bool) :=
  let parts := if regionOf a = .image then imageParts a n else [(a, n)]
  let fs := parts.map (fun x => got.find? (fun g => g.1 == x.1 && g.2.1.length == x.2))
  if fs.all (fun f => f.isSome) then
    some ((fs.map (fun f => match f with | some g => g.2.1 | none => [])).flatten, fs.any (fun f => match f with | some g => g.2.2 | none => false))
  else none

/-! ### Arming (R186) -/

/-- The reads an arming makes. -/
def hjLoads (d : List Byte) : List (Nat × Nat) :=
  [(hjW d, hjWBytes d)] ++ (if hjWExpBytes d = 0 then [] else [(hjWExpAddr d, hjWExpBytes d)]) ++ [(hjEpi d, 8 * hjCout d)]

/-- A frame of which nothing has come. -/
def HarpFrame.start (seq : Nat) : HarpFrame := ⟨seq, 0, 0, 0, none, false, [], 0⟩

/-- A frame starts: at a frame-start packet, or when a memory job is loaded. -/
def HarpEngine.startFrame (h : HarpEngine) : HarpEngine :=
  { h with frames := h.frames ++ [HarpFrame.start h.seq], seq := (h.seq + 1) % 2 ^ 32, lines := [], closed := false }

/-- The arming ends when all it loads has arrived: weights kept, or TIER_FAULT for an uncorrectable word, or the code of a failed part. -/
def State.harpLoad (s : State) (e : Nat) : State :=
  let c := s.harpCollect e
  match c.2 with
  | some code => c.1.harpFail e code
  | none =>
    let h := c.1.engineOf e
    let parts := (hjLoads h.desc).map (fun x => (x.1, harpGot h.got x.1 x.2))
    if parts.all (fun p => p.2.isSome) then
      if parts.any (fun p => match p.2 with | some g => g.2 | none => false) then c.1.harpFail e stTierFault
      else
        let w := parts.map (fun p => (p.1, (match p.2 with | some g => g.1 | none => []), false, 0))
        c.1.modHarp e (fun h =>
          let k := { h with loaded := true, weights := w, want := [], got := [] }
          if hjSource h.desc = 1 then k.startFrame else k)
    else c.1

/-- Another engine's job binds the same stream (R181). -/
def State.streamBound (s : State) (e : Nat) (d : List Byte) : Bool :=
  hjSource d == 0 && (List.range 4).any (fun k => k != e && (s.engineOf k).armed && hjSource (s.engineOf k).desc == 0 &&
    hjStream (s.engineOf k).desc == hjStream d)

/-- ARM acts: the descriptor is read and checked, and the weights are loaded, or the job fails with its status. -/
def State.harpArmNow (s : State) (e : Nat) : State :=
  let h := s.engineOf e
  let a := s.reg (Reg.HARP_JOB e)
  let d := s.bytes a 128
  let t := ((s.eccRead a 128 (hjPart d) (DoubtInfo.plain 6)).actHub (hjPart d) a 128).modHarp e (fun _ => { h.clear h.last with desc := d, armed := true })
  if s.poisoned a 128 then t.harpFail e stTierFault
  else if !hjOk d || s.streamBound e d then t.harpFail e stBadArg
  else
    let r := (hjLoads d).foldl (fun (u : State × Bool) x => if u.2 then u.1.harpRead e x.1 x.2 else u) (t.setReg (Reg.HARP_RING_ROWS e) (hjRing d), true)
    if r.2 then r.1.harpLoad e else r.1.harpFail e stBadArg

def harpArmEffect (e : Fin 4) (s : State) : State :=
  let h := s.engineOf e
  if h.armed || h.golden then s.hwSetBit Reg.HARP_ERR errState
  else
    let a := s.reg (Reg.HARP_JOB e)
    if extentRegion a 128 ≠ .hub then s.setRegBits (Reg.HARP_CTRL e) 0 0 0
    else if s.harpOwns e a true then (s.setRegBits (Reg.HARP_CTRL e) 0 0 0).harpArmNow e
    else s.setRegBits (Reg.HARP_CTRL e) 0 0 1

/-- HARP_ARM: ARM written: ignored with STATE while ARMED or a golden job runs; otherwise the descriptor is read and checked, and the weights are
loaded, or the job fails with its status (06 R186). ARM stays set while the engine does not own the path to the descriptor (06 R190; 02 R53). A HARP_JOB outside
hub SRAM names no descriptor: nothing is read (DEDUCED, log entry 32). -/
def execHarpArm (e : Fin 4) (s : State) : Host.Outcome State Fault Refusal := .next (s.onMain (harpArmEffect e))

def harpDisarmEffect (e : Fin 4) (s : State) : State :=
  let h := s.engineOf e
  if !h.armed || !hjRepeat h.desc then s
  else if h.frames.isEmpty then s.modHarp e (fun h => h.clear h.last)
  else (s.setRegBits (Reg.HARP_CTRL e) 1 1 1).modHarp e (fun h => { h with stopping := true })

/-- HARP_DISARM: a repeating job stops when the frame in progress has ended, at once where there is none; DISARM clears when acted on (06 R186). -/
def execHarpDisarm (e : Fin 4) (s : State) : Host.Outcome State Fault Refusal := .next (s.onMain (harpDisarmEffect e))

/-! ### Frames and rows in (R181, R187 to R189) -/

/-- A frame-start packet of a stream: its engine, armed and loaded, opens a frame unless it is stopping or its one frame is open (R181, R186). -/
def State.harpFrameStart (s : State) (stream : Nat) : State :=
  (List.range 4).foldl (fun t e =>
    let h := t.engineOf e
    if h.armed && h.loaded && !h.stopping && hjSource h.desc == 0 && hjStream h.desc == stream && (hjRepeat h.desc || h.seq == 0) then
      t.modHarp e (fun x => x.startFrame)
    else t) s

/-- The last frame of an engine changed by f. -/
def HarpEngine.modLast (h : HarpEngine) (f : HarpFrame → HarpFrame) : HarpEngine :=
  { h with frames := listModify f h.frames (h.frames.length - 1) }

/-- The frame ends early with a status, unless it has one (R188, R189). -/
def HarpFrame.fix (f : HarpFrame) (code : Nat) : HarpFrame := { f with fixed := f.fixed.orElse (fun _ => some code) }

/-- A frame-end packet: a frame with fewer than IH rows ends with BAD_ARG and is counted (R189). -/
def State.harpFrameStop (s : State) (stream : Nat) : State :=
  (List.range 4).foldl (fun t e =>
    let h := t.engineOf e
    if h.armed && hjSource h.desc == 0 && hjStream h.desc == stream then
      match h.frames.getLast? with
      | some f =>
        if f.fixed.isNone ∧ f.rowsIn + (h.lines.length / linesPerRow (hjPix h.desc)) < hjIh h.desc then
          (t.bump (Reg.HARP_GEOM_CNT e)).modHarp e (fun x => x.modLast (fun f => f.fix stBadArg))
        else t
      | none => t.modHarp e (fun x => { x with closed := false })
    else t) s

/-- A line of a stream's pixel data reaches its engine (R181). -/
def State.harpLine (s : State) (stream : Nat) (l : List Byte) : State :=
  (List.range 4).foldl (fun t e =>
    let h := t.engineOf e
    if h.armed && h.loaded && hjSource h.desc == 0 && hjStream h.desc == stream && (!h.frames.isEmpty || h.closed) then
      t.modHarp e (fun x => { x with lines := x.lines ++ [l] })
    else t) s

/-- Output row oy reads input row r: one of its KH positions is that row, replicated rows of FILL 2 included (R183, R184). -/
def hjUses (d : List Byte) (oy r : Nat) : Bool :=
  let lo := ((oy * hjSy d : Nat) : Int) - (hjPt d : Int)
  let hi := lo + (hjKh d : Int) - 1
  let c := fun (y : Int) => if hjFill d = 2 then max 0 (min y ((hjIh d : Int) - 1)) else y
  decide (c lo ≤ (r : Int)) && decide ((r : Int) ≤ c hi)

/-- Output rows of the frame are still to be computed. -/
def HarpFrame.pending (f : HarpFrame) (d : List Byte) : Bool := f.fixed.isNone && decide ((f.rowsOut : Int) < hjOh d)

/-- The ring row r is still needed by a pending output row of its frame (R188). -/
def HarpEngine.needs (h : HarpEngine) (r : HarpRow) : Bool :=
  match h.frames.find? (fun f => f.seq == r.frame) with
  | some f => f.pending h.desc && (List.range ((hjOh h.desc).toNat - f.rowsOut)).any (fun i => hjUses h.desc (f.rowsOut + i) r.row)
  | none => false

/-- A complete input row enters the ring at its position, which holds nothing that is needed. -/
def HarpEngine.put (h : HarpEngine) (codes exps : List Nat) (bad : Bool) : HarpEngine :=
  match h.frames.getLast? with
  | none => h
  | some f =>
    let ring := h.ring.filter (fun r => r.idx % hjRing h.desc != h.arrivals % hjRing h.desc)
    let k : HarpEngine := { h with ring := ring ++ [⟨h.arrivals, f.seq, f.rowsIn, codes, exps, bad, 0⟩], arrivals := h.arrivals + 1 }
    k.modLast (fun f => { f with rowsIn := f.rowsIn + 1 })

/-- The ring position the next row would take holds a row that is needed. -/
def HarpEngine.full (h : HarpEngine) : Bool := h.ring.any (fun r => r.idx % hjRing h.desc == h.arrivals % hjRing h.desc && h.needs r)

/-- A stream row arrives. -/
def State.harpStreamRow (s : State) (e : Nat) : State :=
  let h := s.engineOf e
  let n := linesPerRow (hjPix h.desc)
  if h.lines.length < n then s
  else
    let t := s.modHarp e (fun x => { x with lines := x.lines.drop n })
    match h.frames.getLast? with
    | none => t.bump (Reg.HARP_GEOM_CNT e)
    | some f =>
      if f.fixed.isSome then t
      else if hjIh h.desc ≤ f.rowsIn then t.bump (Reg.HARP_GEOM_CNT e)
      else
        let row := convertRow h.desc (h.lines.take n)
        if row.length ≠ 4 * hjIw h.desc then (t.bump (Reg.HARP_GEOM_CNT e)).modHarp e (fun x => x.modLast (fun f => f.fix stBadArg))
        else if h.full then (t.bump (Reg.HARP_OVR_CNT e)).modHarp e (fun x => x.modLast (fun f => f.fix stDeadlineMiss))
        else t.modHarp e (fun x => x.put row [] false)

/-- Address and length of the codes of input row r of a memory job, and of its exponents in MODE 1. -/
def hjRowReads (d : List Byte) (r : Nat) : List (Nat × Nat) :=
  let n := hjIw d * hjChan d
  [(hjIn d + r * n, n)] ++ (if hjMode d = 1 ∧ hjInExpAddr d ≠ 0 then [(hjInExpAddr d + r * n / 32, n / 32)] else [])

/-- A memory row: its reads are issued, and once all have arrived the row enters the ring; a failed part ends the frame. -/
def State.harpMemRow (s : State) (e : Nat) : State :=
  let h := s.engineOf e
  match h.frames.getLast? with
  | none => s
  | some f =>
    if f.fixed.isSome ∨ hjIh h.desc ≤ f.rowsIn ∨ h.full then s
    else
      let reads := hjRowReads h.desc f.rowsIn
      let issued := if h.want.isEmpty then
          reads.foldl (fun (u : State × Bool) x => if u.2 then u.1.harpRead e x.1 x.2 else u) (s, true) else (s.harpResend e, true)
      if !issued.2 then (issued.1.harpCancel e).modHarp e (fun x => x.modLast (fun f => f.fix stBadArg))
      else
        let c := issued.1.harpCollect e
        match c.2 with
        | some code => (c.1.harpCancel e).modHarp e (fun x => x.modLast (fun f => f.fix code))
        | none =>
          let g := (c.1.engineOf e).got
          let parts := reads.map (fun x => harpGot g x.1 x.2)
          if parts.all (fun p => p.isSome) then
            let get := fun (i : Nat) => match parts.getD i none with | some x => x.1.map (fun b => b.toNat) | none => []
            let bad := parts.any (fun p => match p with | some x => x.2 | none => false)
            c.1.modHarp e (fun x => { x.put (get 0) (get 1) bad with want := [], got := [] })
          else c.1

def harpRowArrivalEffect (e : Fin 4) (s : State) : State :=
  let h := s.engineOf e
  if !h.armed then s
  else if !h.loaded then (s.harpResend e).harpLoad e
  else if hjSource h.desc = 0 then s.harpStreamRow e
  else s.harpMemRow e

/-- HARP_ROW_ARRIVAL: the next input row enters the ring: converted from the camera lines at hand, or read from IN_ADDR (where reads of the image range
were held, when all have arrived; an arming still loading goes on here). A row whose place is still needed ends its frame with
DEADLINE_MISS, a row of the wrong length with BAD_ARG (06 R182, R187 to R190). -/
def execHarpRowArrival (e : Fin 4) (s : State) : Host.Outcome State Fault Refusal := .next (s.onMain (harpRowArrivalEffect e))

/-! ### Rows out (R185, R187, R189, R201) -/

/-- Write latency from HD in FCLK cycles (Table 6.4). -/
def hdWrite (a : Nat) : Nat := match regionOf a with | .lake _ => 134 | _ => 20

/-- Frame seq of an engine changed by f. -/
def HarpEngine.modFrame (h : HarpEngine) (seq : Nat) (f : HarpFrame → HarpFrame) : HarpEngine :=
  { h with frames := h.frames.map (fun x => if x.seq = seq then f x else x) }

/-- The first bytes of a write of the output buffer go, at most 256 in a cycle (R190); a refused write ends its frame BAD_ARG, and what the buffer holds of that
frame is dropped. -/
def State.harpWrite (s : State) (e : Nat) (w : HarpWrite) (rest : List HarpWrite) : State :=
  let d := (s.engineOf e).desc
  let n := min 256 w.data.length
  if s.admits .harp (some (hjPart d)) .w w.addr n then
    ((s.putBytes w.addr (w.data.take n) (List.replicate n w.bad)).actHub (hjPart d) w.addr n).modHarp e (fun h =>
      if w.data.length ≤ 256 then
        { h.modFrame w.seq (fun f => { f with written := f.written + w.rows, visible := max f.visible (s.fclk + hdWrite w.addr) }) with out := rest }
      else { h with out := { w with addr := w.addr + n, data := w.data.drop n } :: rest })
  else (s.refuse .harp (some (hjPart d)) .w w.addr).modHarp e (fun h =>
    { h.modFrame w.seq (fun f => f.fix stBadArg) with out := rest.filter (fun x => x.seq != w.seq) })

/-- The output buffer drains into a sub-slot in which the engine owns the path of its oldest write (R187, R190; 02 R53). -/
def State.harpDrain (s : State) (e : Nat) : State :=
  match (s.engineOf e).out with
  | w :: l => if s.harpMay e (s.engineOf e).desc .w w.addr (min 256 w.data.length) then s.harpWrite e w l else s
  | [] => s

/-- Address of output frame f. -/
def hjFrameAddr (d : List Byte) (f : Nat) : Nat := hjOut d + (f % max 1 (hjOutFrames d)) * hjStride d

/-- What output row oy of a frame puts into the output buffer, and the rows the encoder then holds: the row at its place with its exponents, or, encoded, the
units of a unit row once it is complete (R185, R201). -/
def harpEmit (d : List Byte) (f : HarpFrame) (row : List Nat × List Nat) (bad : Bool) : List HarpWrite × List (List Nat × List Nat × Bool) :=
  let oy := f.rowsOut
  let ow := (hjOw d).toNat
  if hjCodec d = 0 then
    let off := oy * row.1.length
    let codes := hjFrameAddr d f.seq + off
    if hjOutFmt d = 2 then ([⟨f.seq, codes, bytesOf row.1, bad, 1⟩], [])
    else
      let lo := off / 32
      let n := (off + row.1.length - 1) / 32 + 1 - lo
      let ex := if hjOutFmt d = 1 then List.replicate n (hjOutExp d) else row.2
      ([⟨f.seq, codes, bytesOf row.1, bad, 0⟩, ⟨f.seq, hjOutExpAddr d + (f.seq % max 1 (hjOutFrames d)) * hjStride d + lo, bytesOf ex, bad, 1⟩], [])
  else
    let rows := f.units ++ [(row.1, row.2, bad)]
    if oy % 8 = 7 ∨ oy + 1 = (hjOh d).toNat then
      let ur := match frcRatio (hjCodec d) with | some r => r.2.2.2 | none => 0
      let any := rows.any (fun r => r.2.2)
      let us := harpUnits d rows
      ((List.range us.length).map (fun i =>
        let u := us.getD i (0, 0, [])
        ⟨f.seq, hjFrameAddr d f.seq + ur * (((oy / 8) * cdiv ow 8 + u.1) * (hjCout d / 32) + u.2.1), u.2.2, any, if i + 1 = us.length then rows.length else 0⟩), [])
    else ([], rows)

/-- Bytes the output buffer holds. -/
def outBytes (l : List HarpWrite) : Nat := (l.map (fun w => w.data.length)).foldl (fun a b => a + b) 0

/-- The weights read at an address. -/
def HarpEngine.weightAt (h : HarpEngine) (a : Nat) : List Byte :=
  match h.weights.find? (fun w => w.1 == a) with
  | some w => w.2.1
  | none => []

/-- The ring row of a frame. -/
def HarpEngine.rowAt (h : HarpEngine) (f r : Nat) : Option HarpRow := h.ring.find? (fun x => x.frame == f && x.row == r)

/-- The last input row output row oy needs is complete (R187); a row that FILL 2 replicates is needed too. -/
def HarpFrame.ready (f : HarpFrame) (d : List Byte) : Bool :=
  let last := min ((hjIh d : Int) - 1) ((f.rowsOut * hjSy d + hjKh d : Nat) - 1 - (hjPt d : Int))
  decide ((if hjFill d = 2 then max 0 last else last) < (f.rowsIn : Int))

/-- The ring rows the next output row of a frame reads. -/
def HarpEngine.used (h : HarpEngine) (f : HarpFrame) : List HarpRow := h.ring.filter (fun r => r.frame == f.seq && hjUses h.desc f.rowsOut r.row)

/-- A word the next output row reads, of the ring or of the weights, is uncorrectable (R189). -/
def HarpEngine.badFor (h : HarpEngine) (f : HarpFrame) : Bool := (h.used f).any (fun r => r.bad) || h.weights.any (fun w => w.2.2.1)

/-- Words with a correctable error that it reads: each is corrected and counted (R192; 05 R159, R160). -/
def HarpEngine.upsetFor (h : HarpEngine) (f : HarpFrame) : Nat :=
  ((h.used f).map (fun r => r.upset) ++ h.weights.map (fun w => w.2.2.2)).foldl (fun a b => a + b) 0

/-- n corrected words of engine e. -/
def State.harpCe (s : State) (e n : Nat) : State := (List.range n).foldl (fun t _ => t.countCE 6 (Reg.HARP_CE_CNT e)) s

/-- The next output row of a frame, in the form it is stored in. -/
def HarpEngine.nextRow (h : HarpEngine) (f : HarpFrame) : List Nat × List Nat :=
  let d := h.desc
  let we := if hjWExpBytes d = 0 then [] else h.weightAt (hjWExpAddr d)
  harpStore d (harpRowOut d (h.weightAt (hjW d)) we (h.weightAt (hjEpi d)) (fun r => h.rowAt f.seq r) f.rowsOut)

/-- The frame whose next output row is computed: the oldest with rows to come. -/
def HarpEngine.current (h : HarpEngine) : Option HarpFrame := h.frames.find? (fun f => f.pending h.desc)

def harpOutputRowEffect (e : Fin 4) (s : State) : State :=
  let h := s.engineOf e
  match h.current with
  | none => s
  | some f =>
    let bad := h.badFor f
    let w := harpEmit h.desc f (h.nextRow f) bad
    if h.golden || !f.ready h.desc || decide (262144 < outBytes (h.out ++ w.1)) then s
    else
      (s.harpCe e (h.upsetFor f)).modHarp e (fun x => { x.modFrame f.seq (fun g => { g with rowsOut := g.rowsOut + 1, bad := g.bad || bad, units := w.2 }) with
        out := x.out ++ w.1 })

/-- HARP_OUTPUT_ROW: the next output row of the oldest frame with rows to come, its input rows complete, is computed into the output buffer, which has room for what it
adds; no golden job may be running (06 R180, R183 to R187, R201, R202). -/
def execHarpOutputRow (e : Fin 4) (s : State) : Host.Outcome State Fault Refusal := .next (s.onMain (harpOutputRowEffect e))

def harpFrameEndEffect (e : Fin 4) (s : State) : State :=
  let h := s.engineOf e
  let d := h.desc
  match h.frames with
  | [] => s
  | f :: l =>
    if !f.pending d ∧ (h.out.all (fun w => w.seq != f.seq)) ∧ f.visible ≤ s.fclk then
      let code := f.fixed.getD (if f.bad then stTierFault else stDone)
      let b := (s.harpNotify e d (code + 65536 * (f.written % 65536) + 2 ^ 32 * f.seq) code).bump (Reg.HARP_FRAME_CNT e)
      if !hjRepeat d ∨ (h.stopping ∧ l.isEmpty) then
        (b.setRegBits (Reg.HARP_CTRL e) 1 0 0).modHarp e (fun x => x.clear code)
      else b.modHarp e (fun x => { x with
        frames := l, last := code, closed := l.isEmpty && f.fixed.isNone, ring := x.ring.filter (fun r => r.frame != f.seq) })
    else s

/-- HARP_FRAME_END: the oldest frame, complete or ended early, its last write visible, writes its status word and completion operation and is counted; a
job that does not repeat, or was disarmed, clears ARMED (06 R186, R188 to R191). -/
def execHarpFrameEnd (e : Fin 4) (s : State) : Host.Outcome State Fault Refusal := .next (s.onMain (harpFrameEndEffect e))

def harpReadDeadlineEffect (e : Fin 4) (s : State) : State :=
  let past := fun (d : Option Nat) => match d with | some t => decide (t ≤ s.fclk) | none => false
  let late := s.mig.held.filter (fun x => x.who == .harp e && past x.deadline)
  if late.isEmpty ∧ !(s.engineOf e).want.any (fun r => !r.sent && past r.deadline) then s
  else
    let tiers := late.filter s.onTier
    let code := if tiers.isEmpty then stDeadlineMiss else stTierLate
    let a := (s.harpCancel e).bumpBy Reg.MIG_LATE_CNT tiers.length
    if (s.engineOf e).loaded then a.modHarp e (fun x => x.modLast (fun f => f.fix code))
    else a.harpFail e code

/-- HARP_READ_DEADLINE: a read held past DEADLINE ends its frame, or its arming, with TIER_LATE, or with DEADLINE_MISS where it waits for its path alone (06 R190; 05 R152,
R156). -/
def execHarpReadDeadline (e : Fin 4) (s : State) : Host.Outcome State Fault Refusal := .next (s.onMain (harpReadDeadlineEffect e))

/-! ### Golden jobs (R202; 15 R388, R391) -/

/-- Bytes of one sensor line of the live job: columns of converted pixels as packed samples; of a memory job, one input row. -/
def goldLine (d : List Byte) : Nat :=
  if hjSource d = 1 then hjIw d * hjChan d
  else match hjPix d with
    | 0 => 3 * hjIw d
    | 1 => 2 * hjIw d
    | 2 => 2 * hjIw d
    | 3 => cdiv (2 * hjIw d * 5) 4
    | _ => 3 * hjIw d

/-- The descriptor of the golden run: the live job's with the rows of n sensor lines (R202). -/
def goldDescOf (d : List Byte) (n : Nat) : List Byte :=
  d.take 0xA ++ toLE 2 (n / (if hjSource d = 1 then 1 else linesPerRow (hjPix d))) ++ d.drop 0xC

/-- The signature over n sensor lines: CRC-32C over the output in stored order: codes or units, then exponents (log entry 32). -/
def HarpEngine.goldSignature (h : HarpEngine) (data : List Byte) (n : Nat) : Nat :=
  let d := h.desc
  let len := goldLine d
  let lines := (List.range n).map (fun (i : Nat) => (data.drop (i * len)).take len)
  let per := if hjSource d = 1 then 1 else linesPerRow (hjPix d)
  let rows := (List.range (n / per)).map (fun (r : Nat) =>
    let ls := (lines.drop (r * per)).take per
    (⟨r, 0, r, (if hjSource d = 1 then (ls.flatten).map (fun b => b.toNat) else convertRow d ls), [], false, 0⟩ : HarpRow))
  let d' := goldDescOf d n
  let we := if hjWExpBytes d = 0 then [] else h.weightAt (hjWExpAddr d)
  let outs := (List.range (hjOh d').toNat).map (fun oy =>
    harpStore d' (harpRowOut d' (h.weightAt (hjW d)) we (h.weightAt (hjEpi d)) (fun r => rows[r]?) oy))
  if hjCodec d = 0 then crc32c (bytesOf ((outs.map (fun o => o.1)).flatten ++ (outs.map (fun o => o.2)).flatten))
  else
    let groups := (List.range (cdiv outs.length 8)).map (fun (g : Nat) => ((outs.drop (8 * g)).take 8).map (fun o => (o.1, o.2, false)))
    crc32c ((groups.map (fun g => ((harpUnits d' g).map (fun u => u.2.2)).flatten)).flatten)

/-- A golden window on engine e begins: live computation is suspended. -/
def State.goldBegin (s : State) (e : Nat) : State := s.modHarp e (fun h => { h with golden := true, gold := some ⟨[], false, 0, 0, 0⟩ })

/-- The golden job of engine e has ended: signature and count; live computation goes on. -/
def State.goldFinish (s : State) (e sig : Nat) : State :=
  ((s.setReg (Reg.HARP_GOLD_SIG e) sig).bump (Reg.HARP_GOLD_CNT e)).modHarp e (fun h => { h with golden := false, gold := none })

/-- The Vat and descriptor of the golden window that runs on engine e now. -/
def State.goldWindow (s : State) (e : Nat) : Option (Nat × Nat) :=
  (List.range 8).findSome? (fun v =>
    let x := s.entry s.slotNow v
    let d := s.goldDesc (eOwner x)
    if eType x = 4 ∧ gTarget d = 1 ∧ gEngine d = e ∧ goldRuns d (s.reg Reg.FRT_FRAME_CNT) then some (v, eOwner x) else none)

/-- The golden job of engine e ends without a signature: 0 in its register, not produced; live computation goes on (R202; 15 R391). -/
def State.goldDrop (s : State) (e v d : Nat) : State :=
  let a := (s.setReg (Reg.HARP_GOLD_SIG e) 0).modHarp e (fun h => { h with golden := false, gold := none })
  (a.goldOutcome d 3).modRun v (fun r => { r with goldDone := true })

/-- A golden output row starts in this FCLK cycle (one HCLK cycle) when its lines are read and the array is free, and takes the cycles of Table 6.2 (R180, R187). -/
def HarpGold.advance (g : HarpGold) (d : List Byte) (n now : Nat) : HarpGold :=
  let per := if hjSource d = 1 then 1 else linesPerRow (hjPix d)
  let f := { HarpFrame.start 0 with rowsIn := g.data.length / max 1 (per * goldLine d), rowsOut := g.rows }
  let k := hjKh d * hjKw d * hjChan d
  let t := (hjOw d).toNat * cdiv k (if hjMode d = 0 then 64 else 256)
  if f.pending (goldDescOf d n) && f.ready (goldDescOf d n) && decide (g.free ≤ now) then { g with rows := g.rows + 1, free := now + t, ends := now + 36 + t } else g

/-- One FCLK cycle of the golden job of engine e: up to 256 bytes of its sensor lines are read in a client-0x8 sub-slot, and it ends when its last pixel is out. A job
whose lines cannot be read, or hold an uncorrectable word, produces no signature (DEDUCED, log entry 32). -/
def State.goldCycle (s : State) (e : Nat) : State :=
  let h := s.engineOf e
  match h.gold, s.goldWindow e with
  | some g, some (v, o) =>
    if !h.armed || !h.loaded then s
    else
      let d := h.desc
      let n := gRows (s.goldDesc o)
      let a := gInput (s.goldDesc o) + g.data.length
      let k := min 256 (n * goldLine d - g.data.length)
      if k = 0 then
        if (hjOh (goldDescOf d n)).toNat ≤ g.rows ∧ g.ends ≤ s.fclk then
          (if g.bad then s.goldDrop e v o else s.goldFinish e (h.goldSignature g.data n))
        else s.modHarp e (fun h => { h with gold := some (g.advance d n s.fclk) })
      else if !s.admits .harp (some (hjPart d)) .r a k then (s.refuse .harp (some (hjPart d)) .r a).goldDrop e v o
      else if s.harpOwns e a true then
        ((s.eccRead a k (hjPart d) (DoubtInfo.plain 6)).actHub (hjPart d) a k).modHarp e (fun h =>
          { h with gold := some ({ g with data := g.data ++ s.readBytes a k, bad := g.bad || s.poisoned a k }.advance d n s.fclk) })
      else s.modHarp e (fun h => { h with gold := some (g.advance d n s.fclk) })
  | _, _ => s

def harpGoldenAbandonEffect (e : Fin 4) (s : State) : State :=
  match s.goldWindow e with
  | none => s
  | some (v, d) => if !(s.engineOf e).golden ∨ s.fclk + tGCut s.table < s.windowEnd v then s else s.goldDrop e v d

/-- HARP_GOLDEN_ABANDON: a golden job not ended G_CUT before the window end is abandoned: signature 0, not produced, live computation goes on (06 R202,
15 R391). -/
def execHarpGoldenAbandon (e : Fin 4) (s : State) : Host.Outcome State Fault Refusal := .next (s.onMain (harpGoldenAbandonEffect e))

/-! ### Every FCLK cycle -/

/-- What waits for its path moves where this sub-slot gives it: a pending arming, reads of an arming or of a memory row, the oldest status word, the golden lines,
and the output buffer (R190; 02 R53). -/
def State.harpCycle (s : State) (e : Nat) : State :=
  let h := s.engineOf e
  let a := if bit (s.reg (Reg.HARP_CTRL e)) 0 && !h.armed && !h.golden then harpArmEffect (Fin.ofNat 4 e) s else s
  let b := if h.want.any (fun r => !r.sent) then (if h.loaded then a.harpResend e else (a.harpResend e).harpLoad e) else a
  let c := match h.owed with
    | [] => b
    | x :: l => if b.harpCanTell e x.1 then ((b.modHarp e (fun h => { h with owed := l })).harpWord x.1 x.2.1).harpTell x.1 x.2.2 else b
  (c.goldCycle e).harpDrain e

end Sys2Proof.Machine
end

