-- ==== Sys2Proof/Machine/VatScan.lean ====
section
/-! DEFINITION. Slot 12, the scan unit, and the swap engine (08; 03 Table 3.9, R84). The slot operations carry the Vat, bits [55:0] of the slot
word and slot 15. -/

namespace Sys2Proof.Machine

/-! ### Format N and the descriptor (03 Table 3.8, 08 Table 8.1) -/

def nAcc (w : BitVec 56) : Nat := fld w 43 40
def nLc (w : BitVec 56) : Nat := fld w 39 37
def nIllegal (w : BitVec 56) : Bool := rsv w 36 16

/-- The chunk length of a valid LC field. -/
def chunkLen (w : BitVec 56) : Nat := 16 * 2 ^ nLc w

/-- A RUN that its stream discards: the entry is not RESIDENT in the issue cycle (08 R238). -/
def State.scnDiscards (s : State) (v : Nat) (kind : ScnKind) (d : List Byte) : Bool :=
  kind == .run && sdStream d != 255 && s.strSt v (sdStream d) != 2

/-- An SCN operation at issue: the unit is free, the descriptor is in reach, LC is valid; the check of t + 6 is on its way, and act gives the rest. -/
def State.scnIssue (s : State) (v : Nat) (w : BitVec 56) (x : W64) (kind : ScnKind) (occ : Nat)
    (act : State → Vat → List Byte → VatCore → VatCore) : State :=
  s.issue v 12 w (fun _ => nIllegal w)
    (fun c => if s.pondMay v (nOff c w x) 64 false then [(nOff c w x, 64)] else [])
    (fun u t =>
      let off := nOff t.core w x
      if t.cyc < t.core.scnUntil then .inl fAgBusy
      else if kind = .run ∧ 4 < nLc w then .inl fFormat
      else if !(aligned off 64 && u.pondMay v off 64 false) then .inl fAddr
      else if u.poisoned (pondAddr v off) 64 then .inl fPoison
      else
        let d := u.bytes (pondAddr v off) 64
        let c := { t.core.touch t.cyc 6 12 [(0, off, 64)] false with
          scnUntil := t.cyc + occ, scnFrom := t.cyc, scnTile := if kind = .run then sdTile d else 4 }
        .inr (act u t d (t.send c 12 6 false
          (.scnCheck kind.num (nAcc w) (chunkLen w) t.core.pc (u.runPart v) (u.scnDiscards v kind d) d))))

/-! ### The slot operations -/

/-- The rows of n steps of planes at the given offsets, the row of step k + 1 in cycle first + k (03 R104). -/
def planeAccesses (first n : Nat) (planes : List Nat) : List (Nat × Nat × Nat) :=
  ((List.range n).map (fun k => planes.map (fun o => (first + k, o + 512 * k, 512)))).flatten

/-- An executed SCN.RUN reads its pair at t + 8 and the inputs of step k at t + 7 + k; a discarded one counts once its check has passed and ends as a failure (08 R232,
R238). -/
def scnRunAct (v : Nat) (w : BitVec 56) (u : State) (t : Vat) (d : List Byte) (c : VatCore) : VatCore :=
  let m := sdStream d
  let cw := fieldLE d 0x1E 2
  let op : ScanOp :=
    { issued := t.cyc, pc := t.core.pc, part := u.runPart v, lc := chunkLen w, n := fieldLE d 0x1C 2, stream := m, tile := sdTile d, acc := nAcc w,
      dmode := fieldLE d 0x19 1, g := sdPlane d 0, x := sdPlane d 1, b := sdPlane d 2, q := sdPlane d 3, gd := sdPlane d 4,
      yd := sdPlane d 5, cell := cw % 16384, comp := !bit cw 15 }
  let n := min op.n op.lc
  if u.scnDiscards v .run d then
    let c1 := t.send c 12 6 false (.scnDiscard m)
    if op.comp then t.send c1 12 (op.lc + t.hold + 49) false (.scnDone 255 op.cell true 0x100000001#64) else c1
  else
    t.send ((c.touch t.cyc 6 12 (planeAccesses 8 n op.reads) false).touch t.cyc 6 12 (planeAccesses (t.hold + 32) n op.writes) true)
      12 8 false (.scnStart op)

def scnRunEffect (v : VatNo) (w : BitVec 56) (x : W64) (s : State) : State :=
  s.scnIssue v w x .run (chunkLen w + 16) (scnRunAct v w)

/-- SCN.RUN: one chunk on the pair at ACC, or its discard (08 R228, R229, R232, R238). -/
def execScnRun (v : VatNo) (w : BitVec 56) (x : W64) (s : State) : Host.Outcome State Fault Refusal := .next (s.onMain (scnRunEffect v w x))

/-- Rows of a pair of banks set l cycles from now. -/
def Vat.sendPair (t : Vat) (c : VatCore) (l tile acc : Nat) (main err : List (List W32)) : VatCore :=
  let one := fun (b : Nat) (rows : List (List W32)) (c : VatCore) =>
    (List.range 128).foldl (fun c r => t.send c 12 l false (.accSet (accKey tile b r) (rows.getD r (zeros 128)))) c
  one (acc + 1) err (one acc main c)

/-- Renormalisation of every element of a pair (04 R134, 08 R235, R236). -/
def renormRows (main err : List (List W32)) : List (List W32) × List (List W32) :=
  let z := List.zipWith (List.zipWith renorm) main err
  (z.map (fun l => l.map (fun e => e.1)), z.map (fun l => l.map (fun e => e.2)))

def scnAnchEffect (v : VatNo) (w : BitVec 56) (x : W64) (s : State) : State :=
  s.scnIssue v w x .anch 32 (fun _ t d c =>
    let r := renormRows (t.core.bankRows (sdTile d) (nAcc w)) (t.core.bankRows (sdTile d) (nAcc w + 1))
    t.send (t.sendPair c 40 (sdTile d) (nAcc w) r.1 r.2) 12 40 false .scnAnch)

/-- SCN.ANCH: every element of the pair renormalised, after 40 cycles (08 R236). -/
def execScnAnch (v : VatNo) (w : BitVec 56) (x : W64) (s : State) : Host.Outcome State Fault Refusal := .next (s.onMain (scnAnchEffect v w x))

/-- The 128 KiB image of a pair: main bank, then error bank (08 R236). -/
def pairBytes (main err : List (List W32)) : List Byte := (main.map rowBytes).flatten ++ (err.map rowBytes).flatten

/-- The rows of a pair from its image at a Pond offset. -/
def State.pairAt (s : State) (v off : Nat) : List (List W32) × List (List W32) :=
  (words (s.planeRows v off 128), words (s.planeRows v (off + 0x10000) 128))

def scnSaveEffect (v : VatNo) (w : BitVec 56) (x : W64) (s : State) : State :=
  s.scnIssue v w x .save 256 (fun _ t d c =>
    t.send (c.touch t.cyc 6 12 (planeAccesses (t.hold + 4) 256 [sdArea d]) true) 12 (t.hold + 260) true
      (.pond (sdArea d) (pairBytes (t.core.bankRows (sdTile d) (nAcc w)) (t.core.bankRows (sdTile d) (nAcc w + 1)))))

/-- SCN.SAVE: the pair copied to AREA, visible after H + 260 cycles (08 R236). -/
def execScnSave (v : VatNo) (w : BitVec 56) (x : W64) (s : State) : Host.Outcome State Fault Refusal := .next (s.onMain (scnSaveEffect v w x))

def scnLoadEffect (v : VatNo) (w : BitVec 56) (x : W64) (s : State) : State :=
  s.scnIssue v w x .load 256 (fun u t d c =>
    let p := u.pairAt v (sdArea d)
    t.sendPair (c.touch t.cyc 6 12 (planeAccesses 6 256 [sdArea d]) false) 262 (sdTile d) (nAcc w) p.1 p.2)

/-- SCN.LOAD: the pair copied from AREA, after 262 cycles (08 R236); what its check finds is in State.scnChecked. -/
def execScnLoad (v : VatNo) (w : BitVec 56) (x : W64) (s : State) : Host.Outcome State Fault Refusal := .next (s.onMain (scnLoadEffect v w x))

/-! ### The end of a chunk (08 R231, R232, R235) -/

/-- The pair of a bank set now, but for the rows that keep says. -/
def VatCore.setPairBut (c : VatCore) (tile acc : Nat) (keep : Nat → Bool) (main err : List (List W32)) : VatCore :=
  let one := fun (b : Nat) (rows : List (List W32)) (a : List (Nat × List W32)) =>
    (List.range 128).foldl (fun a r => if keep (accKey tile b r) then a else mapSet (zeros 128) a (accKey tile b r) (rows.getD r (zeros 128))) a
  { c with acc := one (acc + 1) err (one acc main c.acc) }

/-- The pair of a bank set now. -/
def VatCore.setPair (c : VatCore) (tile acc : Nat) (main err : List (List W32)) : VatCore := c.setPairBut tile acc (fun _ => false) main err

/-- STEPS, DISP and the automatic anchor of the stream of a finished chunk: whether the anchor applies, and the new state. -/
def State.chunkStream (s : State) (v m n : Nat) : Bool × State :=
  if m = 255 then (false, s)
  else
    let old := s.reg (Reg.SCN_STR_STEPS v m)
    let new := (old + n) % 2 ^ 64
    let k := Reg.SCN_STR_STATE v m
    let a := (s.setReg (Reg.SCN_STR_STEPS v m) new).setReg k (putBits (s.reg k) 31 8 (bits (s.reg k) 31 8 + 1))
    (strAuto (s.strCfg v m) && decide (old / 65536 < new / 65536), a)

/-- The results that have landed on row k of an accumulator in the cycle in which a chunk issued in cycle i becomes final: any, and one of a later operation (03 R82). -/
def Vat.meets (t : Vat) (due i k : Nat) : Bool × Bool :=
  let on := fun (f : Flight) => t.cyc == due && f.dest.clash (.accSet k [])
  (t.landed.any on, t.landed.any (fun f => on f && !f.before ⟨due, i, 12, false, .accSet k []⟩))

def scnRunCompleteEffect (v : VatNo) (s : State) : State :=
  let t := s.vat v
  match t.core.chunk with
  | [] => s
  | k :: rest =>
    let due := k.op.issued + k.late + k.op.lc + 48
    match k.ends with
    | none => s
    | some (nan, clamps) =>
      if t.cyc < due then s
      else
        let r := s.chunkStream v k.op.stream k.op.n
        let p := if r.1 then renormRows k.main k.err else (k.main, k.err)
        let met := t.meets due k.op.issued
        let keys := [k.op.acc, k.op.acc + 1].flatMap (fun b => (List.range 128).map (accKey k.op.tile b))
        let a := (r.2.bump (Reg.SCN_RUN_CNT v)).bumpBy (Reg.VAT_WCOLL_CNT v) (keys.filter (fun x => (met x).1)).length
        let b := if nan then a.bump (Reg.SCN_NAN_CNT v) else a
        let c := (b.bumpBy (Reg.SCN_CLAMP_CNT v) clamps)
        let d := if r.1 then c.bump (Reg.SCN_ANCH_CNT v) else c
        d.modCore v (fun core =>
          let core := { core.setPairBut k.op.tile k.op.acc (fun x => (met x).2) p.1 p.2 with chunk := rest }
          { core with flights := core.flights ++
              [⟨due + t.hold + 1, k.op.issued, 12, false, .scnDone k.op.stream k.op.cell k.op.comp 1⟩] })

/-- SCN_RUN_COMPLETE: at t + Lc + 48 the oldest chunk's pair becomes final, STEPS and DISP move on and a due anchor applies; the completion
operation follows at t + Lc + H + 49 (08 R232, R235). Before that cycle nothing happens. -/
def execScnRunComplete (v : VatNo) (s : State) : Host.Outcome State Fault Refusal := .next (s.onMain (scnRunCompleteEffect v))

/-! ### The swap engine (08 R239 to R241) -/

def State.modSwap (s : State) (v : Nat) (f : SwapEng → SwapEng) : State := { s with swaps := listModify f s.swaps v }

/-- RES_CELL and QUEUE_CELL of stream m. -/
def State.resCell (s : State) (v m : Nat) : Nat := s.regBits (Reg.SCN_STR_CELLS v m) 13 0
def State.queueCell (s : State) (v m : Nat) : Nat := s.regBits (Reg.SCN_STR_CELLS v m) 29 16

/-- Pond offset of the save area of stream m. -/
def State.saveArea (s : State) (v m : Nat) : Nat := s.regBits (Reg.SCN_STR_SAVE v m) 25 8 * 256

/-- The save area lies in the Pond, in a range of the stream's partition that carries both R and W (08 R237, R241). -/
def State.saveOk (s : State) (v m : Nat) : Bool :=
  decide (s.saveArea v m + 0x20000 ≤ pondSize) &&
    inRange (s.partRanges (strPart (s.strCfg v m))) (fun r => r.r && r.w) (pondAddr v (s.saveArea v m)) 0x20000

/-- SCN_LASTERR with a stream and a code. -/
def State.scnLasterr (s : State) (v m code : Nat) : State := s.setReg (Reg.SCN_LASTERR v) (2 ^ 32 * s.frameLo + 2 ^ 16 * m + code)

/-- The answer to a stream command of Table 8.4: 0 accepted, or the code it is refused with (08 R239, R241). -/
def State.swapAnswer (s : State) (v m : Nat) (out : Bool) : Nat :=
  let st := s.strSt v m
  if !strValid (s.strCfg v m) then stStateConflict
  else if out then
    if st ≠ 2 ∨ (s.vat v).core.inFlight m then stStateConflict
    else if !s.saveOk v m then stBadArg else 0
  else if st = 0 ∨ st = 4 then 0 else stStateConflict

/-- The engine takes the next waiting swap-out when it is idle (a swap-out waits only for the engine; before swap-ins: DESIGN CHOICE, log entry 26). -/
def State.nextOut (s : State) (v : Nat) : State :=
  match (s.swap v).busy, (s.swap v).outs with
  | none, m :: l =>
    let cyc := (s.vat v).cyc
    (s.modSwap v (fun w => { w with busy := some ⟨m, false, false, cyc⟩, outs := l })).modCore v
      (fun c => c.touch cyc 9 17 (planeAccesses 4 256 [s.saveArea v m]) true)
  | _, _ => s

def swapOutEffect (v : VatNo) (m : Fin 64) (s : State) : State :=
  if s.swapAnswer v m true ≠ 0 then s
  else (((s.setStrSt v m 3).cellDo v (s.resCell v m) 3 (.set 0)).modSwap v (fun w => { w with outs := w.outs ++ [m.val] })).nextOut v

/-- SWAP_OUT of stream m: accepted while it is RESIDENT with no chunk in flight; it becomes OUT, RES_CELL is set to 0 and its save starts when the
engine is idle. A refused command changes nothing (08 R239, Table 8.4). -/
def execSwapOut (v : VatNo) (m : Fin 64) (s : State) : Host.Outcome State Fault Refusal := .next (s.onMain (swapOutEffect v m))

/-- Stream m becomes due for a swap-in; one already due keeps its cycle (08 R240). -/
def State.makeDue (s : State) (v m : Nat) (init : Bool) : State :=
  s.modSwap v (fun w =>
    if w.due.any (fun e => e.2.1 == m) then
      { w with due := w.due.map (fun e => if e.2.1 = m then (e.1, m, e.2.2 || init) else e) }
    else { w with due := w.due ++ [((s.vat v).cyc, m, init)] })

def swapInEffect (v : VatNo) (m : Fin 64) (s : State) : State :=
  if s.swapAnswer v m false ≠ 0 then s else s.makeDue v m false

/-- SWAP_IN of stream m: accepted while it is ABSENT or FAILED; it becomes due for a swap-in (08 R240, Table 8.4). -/
def execSwapIn (v : VatNo) (m : Fin 64) (s : State) : Host.Outcome State Fault Refusal := .next (s.onMain (swapInEffect v m))

def initEffect (v : VatNo) (m : Fin 64) (s : State) : State :=
  if s.swapAnswer v m false ≠ 0 then s else s.makeDue v m true

/-- INIT of stream m: as SWAP_IN, but zeros are written into the pair and STEPS becomes 0 (08 R240, Table 8.4). -/
def execInit (v : VatNo) (m : Fin 64) (s : State) : Host.Outcome State Fault Refusal := .next (s.onMain (initEffect v m))

def swapOutCompleteEffect (v : VatNo) (s : State) : State :=
  match (s.swap v).busy with
  | some b =>
    if b.inward ∨ (s.vat v).cyc < b.start + 260 then s
    else
      let c := s.strCfg v b.stream
      let core := (s.vat v).core
      let a := (s.vatAct v 2 2048).store (pondAddr v (s.saveArea v b.stream))
        (pairBytes (core.bankRows (strTile c) (strAcc c)) (core.bankRows (strTile c) (strAcc c + 1)))
      (((a.setStrSt v b.stream 0).bump (Reg.SCN_SWAP_CNT v)).modSwap v (fun w => { w with busy := none })).nextOut v
  | none => s

/-- SWAP_OUT_COMPLETE: 260 cycles after its start the save is visible, the stream ABSENT and the pair free (08 R239). -/
def execSwapOutComplete (v : VatNo) (s : State) : Host.Outcome State Fault Refusal := .next (s.onMain (swapOutCompleteEffect v))

/-- The due swap-in that starts next: the earliest due, then the lowest entry, among those whose pair is free (08 R240). -/
def State.firstDue (s : State) (v : Nat) : Option (Nat × Nat × Bool) :=
  ((s.swap v).due.filter (fun e => !s.pairHeld v e.2.1)).foldl (fun best e =>
    match best with
    | none => some e
    | some b => if e.1 < b.1 ∨ (e.1 = b.1 ∧ e.2.1 < b.2.1) then some e else some b) none

def swapInStartEffect (v : VatNo) (s : State) : State :=
  match (s.swap v).busy, s.firstDue v with
  | none, some e =>
    let a := s.modSwap v (fun w => { w with due := w.due.filter (fun x => x.2.1 != e.2.1) })
    if !s.saveOk v e.2.1 then a.scnLasterr v e.2.1 stBadArg
    else
      let b := (a.setStrSt v e.2.1 1).modSwap v (fun w => { w with busy := some ⟨e.2.1, true, e.2.2, (s.vat v).cyc⟩ })
      if e.2.2 then b else b.modCore v (fun c => c.touch (s.vat v).cyc 9 17 (planeAccesses 0 256 [s.saveArea v e.2.1]) false)
  | _, _ => s

/-- SWAP_IN_START: the idle engine starts the earliest due swap-in whose pair is free; a save area out of reach leaves the stream ABSENT with
BAD_ARG in SCN_LASTERR (08 R240, R241). -/
def execSwapInStart (v : VatNo) (s : State) : Host.Outcome State Fault Refusal := .next (s.onMain (swapInStartEffect v))

def swapInCompleteEffect (v : VatNo) (s : State) : State :=
  match (s.swap v).busy with
  | some b =>
    if !b.inward ∨ (s.vat v).cyc < b.start + 262 then s
    else
      let c := s.strCfg v b.stream
      let area := s.saveArea v b.stream
      let idle := s.modSwap v (fun w => { w with busy := none })
      let zero := List.replicate 128 (zeros 128)
      let put := fun (u : State) (main err : List (List W32)) => u.modCore v (fun k => k.setPair (strTile c) (strAcc c) main err)
      if !b.init ∧ s.poisoned (pondAddr v area) 0x20000 then
        let u := (put idle zero zero).eccRead (pondAddr v area) 0x20000 (strPart c) { (DoubtInfo.plain (0x20 + v)) with vat := v, stream := b.stream }
        let w := ((s.poison.find? (fun w => decide (pondAddr v area ≤ w) && decide (w < pondAddr v area + 0x20000))).getD 0) - pondAddr v 0
        (((u.setStrSt v b.stream 4).bump (Reg.SCN_SWAP_CNT v)).outcome (0x30 + v) 0xC9 (b.stream + 2 ^ 32 * w)).nextOut v
      else
        let u := if b.init then (put idle zero zero).setReg (Reg.SCN_STR_STEPS v b.stream) 0
          else
            let e := (idle.vatAct v 2 2048).eccRead (pondAddr v area) 0x20000 (strPart c) { (DoubtInfo.plain (0x20 + v)) with vat := v, stream := b.stream }
            put e (s.pairAt v area).1 (s.pairAt v area).2
        ((u.bump (Reg.SCN_SWAP_CNT v)).modSwap v (fun w => { w with landing := w.landing ++ [(b.start + 264, b.stream)] })).nextOut v
  | none => s

/-- SWAP_IN_COMPLETE: 262 cycles after its start the pair is final; two cycles later the stream is RESIDENT and RES_CELL 1. Uncorrectable data
leaves the pair zero and the stream FAILED, with one event (08 R240, R241). -/
def execSwapInComplete (v : VatNo) (s : State) : Host.Outcome State Fault Refusal := .next (s.onMain (swapInCompleteEffect v))

/-- In each VCLK cycle: streams whose pair became final two cycles ago are RESIDENT, and an ABSENT stream with a chunk queued is due (08 R240). -/
def State.swapCycle (s : State) (v : Nat) : State :=
  let cyc := (s.vat v).cyc
  let a := ((s.swap v).landing.filter (fun e => decide (e.1 ≤ cyc))).foldl
    (fun u e => (u.setStrSt v e.2 2).cellDo v (u.resCell v e.2) 3 (.set 1)) s
  let b := a.modSwap v (fun w => { w with landing := w.landing.filter (fun e => !decide (e.1 ≤ cyc)) })
  let base := Reg.SCN_STR_CFG v 0
  let valid := (s.regs.filter (fun e => decide (base ≤ e.1) && decide (e.1 < base + 0x800) && (e.1 - base) % 32 == 0 && bit e.2 63)).map
    (fun e => (e.1 - base) / 32)
  valid.foldl (fun u m =>
    if u.strSt v m = 0 ∧ u.cellSeen v (u.queueCell v m) % 2 ^ 24 ≠ u.regBits (Reg.SCN_STR_STATE v m) 31 8 ∧
        !(u.swap v).due.any (fun e => e.2.1 == m) then u.makeDue v m false else u) b

end Sys2Proof.Machine
end

