-- ==== Sys2Proof/Machine/FrameTable.lean ====
section
/-! DEFINITION. The frame-table distributor and the slot engines (02 R47 to R64, R76 to R79; 15 R386 to R395; 18 R485). -/

namespace Sys2Proof.Machine

/-! ### Instants (02 R47, 13 R338) -/

/-- The FCLK cycle in which instant i is reached: the first of the TCLK cycle whose readout is at or past it. -/
def State.fclkOf (s : State) (i : Int) : Int :=
  let x := (i * (2 ^ 16 : Nat) - s.tb.ofs) * (2 ^ 22 : Nat)
  let d : Int := (2 ^ 40 : Nat) + s.tb.rate
  let c := -((-x) / d)
  (s.tick / 32 * 4 : Nat) + 4 * (c - (s.tb.count : Int))

/-- Instant k of the frames of table t. -/
def tInstant (t : List Byte) (k : Int) : Int := tPhaseNs t + k * (tFrameNs t : Nat)

/-- The index of the instant of t nearest FCLK cycle e, the later one on a tie. -/
def State.nearestInstant (s : State) (t : List Byte) (e : Nat) : Int :=
  let ns := s.nowNs + ((e : Int) - (s.fclk : Int))
  let k := (ns - tPhaseNs t) / (max 1 (tFrameNs t) : Nat)
  let j := if s.fclkOf (tInstant t (k + 1)) ≤ (e : Int) then k + 1 else if (e : Int) < s.fclkOf (tInstant t k) then k - 1 else k
  if s.fclkOf (tInstant t (j + 1)) - (e : Int) ≤ (e : Int) - s.fclkOf (tInstant t j) then j + 1 else j

/-- The first instant of t at or after device time n. -/
def firstInstant (t : List Byte) (n : Int) : Int := -((tPhaseNs t - n) / (max 1 (tFrameNs t) : Nat))

/-! ### The ends of windows, and cuts (R59, R63; 15 R391, R394) -/

/-- The kernel of a golden run on Vat v stops without a status word (DEDUCED, log entry 33: the run's suppressed outputs stay suppressed). -/
def State.goldCut (s : State) (v : Nat) : State :=
  let d := eOwner (s.entry s.slotNow v)
  let a := ((s.stopIssue v).modVat v (fun x => { x with running := false })).noKernel v
  ((a.goldOutcome d 3).modRun v (fun r => { r with goldDone := true })).setVatState v 30 30 1

/-- A slice is cut: it stays pending (15 R394). -/
def State.sliceCut (s : State) (v : Nat) : State :=
  let a := ((s.stopIssue v).modVat v (fun x => { x with running := false })).noKernel v
  (((a.endSlice v).bumpSt v 16).modRun v (fun r => { r with lcDone := true })).setVatState v 30 30 1

/-- The golden run of the present window of Vat v is of its own kernel (TARGET 0) and has produced nothing yet. -/
def State.goldPending (s : State) (v : Nat) : Bool :=
  let e := s.entry s.slotNow v
  let d := s.goldDesc (eOwner e)
  eType e == 4 && (s.run v).list.isNone && goldRuns d (s.reg Reg.FRT_FRAME_CNT) && !(s.run v).goldDone && !s.vatInReset v &&
    !(s.run v).waitWindow

/-- What the cut point of Vat v stops, if it has come by FCLK cycle now; one that a stop or switch becoming pending puts into the past cuts, with PREEMPTED, at the next
CUT_POINT or at the boundary, as the spec names no cycle for it (R58, "not revisited"; DESIGN CHOICE, log entry 52): a kernel of the list that holds the Vat, a slice, or a golden run
(R59; 15 R391, R394). -/
def State.cutAt (s : State) (v now : Nat) : State :=
  match (s.run v).list with
  | some f => if (s.vat v).running ∧ s.cutPoint v f ≤ now then s.cutKernel v else s
  | none =>
    if now + tGCut s.table < s.windowEnd v then s
    else if (s.sliceOn v).isSome then s.sliceCut v
    else if s.goldPending v ∧ gTarget (s.goldDesc (eOwner (s.entry s.slotNow v))) = 0 then s.goldCut v
    else s

/-- The LC kernel of Vat v runs at G_CUT before the end of its window (R63). -/
def State.overrunAt (s : State) (v now : Nat) : State :=
  if (s.vat v).running ∧ (s.run v).list = none ∧ eType (s.entry s.slotNow v) = 1 ∧ s.windowEnd v ≤ now + tGCut s.table then s.lcMiss v
  else s

/-- The golden frame on a Harp engine ends with its window: its signature is compared (15 R388, R391). -/
def State.harpGoldEnd (s : State) (v : Nat) : State :=
  let o := eOwner (s.entry s.slotNow v)
  let d := s.goldDesc o
  if s.goldPending v ∧ gTarget d = 1 then
    if (s.engineOf (gEngine d)).golden then s.goldDrop (gEngine d) v o
    else
      let res := if s.reg (Reg.HARP_GOLD_SIG (gEngine d)) = gExpect d then 1 else 2
      (s.goldOutcome o res).modRun v (fun r => { r with goldDone := true })
  else s

/-- The present slot ends for Vat v: what was to be cut by now is cut, and a golden window that ends is judged. -/
def State.endSlot (s : State) (v : Nat) : State :=
  let a := (s.overrunAt v s.slotEnd).cutAt v s.slotEnd
  if a.windowLast v = a.slotNow then
    (if eType (a.entry a.slotNow v) = 1 then a.winClose v else a.harpGoldEnd v)
  else a

/-- The cut point of list or window on Vat v has come. -/
def cutPointEffect (v : VatNo) (s : State) : State := if s.tableValid then s.cutAt v.val s.fclk else s

/-- CUT_POINT: at a cut point a best-effort kernel stops and gets PREEMPTED; a slice or a golden run not complete by then is cut (R59; 15 R391, R394). -/
def execCutPoint (v : VatNo) (s : State) : Host.Outcome State Fault Refusal := .next (s.onMain (cutPointEffect v))

def lcOverrunEffect (v : VatNo) (s : State) : State := if s.tableValid then s.overrunAt v.val s.fclk else s

/-- LC_OVERRUN: an LC kernel that has not completed G_CUT before its window ends is cut with DEADLINE_MISS (R63). -/
def execLcOverrun (v : VatNo) (s : State) : Host.Outcome State Fault Refusal := .next (s.onMain (lcOverrunEffect v))

/-! ### Partition reset (18 R485) -/

/-- Dest writes that leave the Vat's registers: they land although the Vat is reset (03 R111). -/
def Dest.leaves : Dest → Bool
  | .pond _ _ => true
  | .nib _ _ => true
  | .cell _ _ => true
  | _ => false

/-- Streams of Vat v that satisfy ok become FAILED, those whose state lies in the save area too, and their swaps are abandoned: the save area holds the rows that had been
written, one a cycle from the fourth cycle after the start (08 R239, R241; 18 R485). -/
def State.failStreams (s : State) (v : Nat) (ok : Nat → Bool) : State :=
  let c := (s.vat v).core
  let a := match (s.swap v).busy with
    | some b =>
      if !ok b.stream then s
      else
        let p := s.strCfg v b.stream
        let n := (s.vat v).cyc - (b.start + 4)
        let rows := (c.bankRows (strTile p) (strAcc p) ++ c.bankRows (strTile p) (strAcc p + 1)).take n
        let t := if b.inward then s else s.store (pondAddr v (s.saveArea v b.stream)) (rows.map rowBytes).flatten
        ((t.modSwap v (fun w => { w with busy := none })).modCore v (fun c => { c with access := c.access.filter (fun a => a.slot != 17) }))
    | none => s
  let b := a.modSwap v (fun w => { w with
    outs := w.outs.filter (fun m => !ok m), due := w.due.filter (fun e => !ok e.2.1), landing := w.landing.filter (fun e => !ok e.2) })
  ((List.range 64).foldl (fun t m => if strValid (t.strCfg v m) ∧ ok m then t.setStrSt v m 4 else t) b).nextOut v

/-- The Vat form begins on Vat v. -/
def State.vatResetBegin (s : State) (v : Nat) : State :=
  let a := ((s.stopIssue v).endSlice v).failStreams v (fun _ => true)
  let b := a.modVat v (fun x => { x with
    running := false, faulted := false, cyc0 := none, landed := [],
    core := { VatCore.reset with nextIssue := x.cyc + 1, flights := x.core.flights.filter (fun f => f.dest.leaves) } })
  let c := { b with swaps := listSet b.swaps v SwapEng.reset }
  ((c.noKernel v).modRun v (fun r => { r with list := none, lcDone := true })).setVatState v 29 29 1

/-- Accumulator rows in banks locked to partition p are zeroed. -/
def Vat.zeroLocked (x : Vat) (p : Nat) : Vat :=
  { x with core := { x.core with acc := x.core.acc.filter (fun e => !lockedTo x.lock (e.1 / 2048) (e.1 / 128 % 16) p) } }

/-- The partition form begins for partition p. -/
def State.partResetBegin (s : State) (p : Nat) : State :=
  (List.range 8).foldl (fun t v =>
    let a := if (t.vat v).running ∧ (t.sliceOn v).isNone ∧ t.runPart v = p then
        (((t.stopIssue v).modVat v (fun x => { x with running := false, faulted := false })).noKernel v).modRun v (fun r => { r with lcDone := true })
      else t
    (a.failStreams v (fun m => strPart (a.strCfg v m) == p)).modVat v (fun x => x.zeroLocked p)) s

/-- A partition reset of partition p is in progress. -/
def State.partHeld (s : State) (p : Nat) : Bool := s.frt.resets.any (fun r => r.form == 1 && r.target == p && r.begun.isSome)

/-- Resets accepted begin at the slot boundary in FCLK cycle e. -/
def State.beginResets (s : State) (e : Nat) : State :=
  let new := s.frt.resets.filter (fun r => r.begun.isNone)
  let a := new.foldl (fun t r => if r.form = 0 then t.vatResetBegin r.target else t.partResetBegin r.target) s
  { a with frt := { a.frt with resets := a.frt.resets.map (fun r => { r with begun := some (r.begun.getD e) }) } }

/-- The resets that end at the frame boundary in FCLK cycle e: begun at least 100 us before. -/
def State.resetsEnding (s : State) (e : Nat) : List PartReset :=
  s.frt.resets.filter (fun r => match r.begun with | some b => decide (b + 100000 ≤ e) | none => false)

/-- The end of one reset. -/
def State.endReset (s : State) (r : PartReset) : State :=
  let a := { s with frt := { s.frt with resets := s.frt.resets.filter (fun x => x != r) } }
  if r.form = 0 then (a.setVatState r.target 29 29 0).modRun r.target (fun x => { x with waitWindow := true })
  else (List.range (tFillCount a.table)).foldl (fun t f =>
    if fPart (fillList t.table f) = r.target then t.setReg (Reg.FRT_FILL_CUR f) 0 else t) a

/-! ### Slot starts (R50, R54, R57; 15 R388) -/

/-- Kernel k starts on Vat v with ARG. -/
def State.startLC (s : State) (v k arg : Nat) : State :=
  let e := kernEntry s.table k
  s.startKernel v k (kPart e) (kEntry e - vatBase v) arg

/-- A window that begins on Vat v in slot n. -/
def State.beginWindow (s : State) (v n : Nat) : State :=
  let e := s.entry n v
  let o := eOwner e
  let a := s.modRun v (fun r => { r with winSlot := n, arg := eArg e, lcDone := false, goldDone := false, list := none, waitWindow := false })
  let b := a.setVatState v 31 31 0
  if eType e = 1 then
    let b := b.winOpen v
    if b.partHeld (kPart (kernEntry b.table o)) then b.modRun v (fun r => { r with lcDone := true }) else b.startLC v o (eArg e)
  else if eType e = 2 then b.modRun v (fun r => { r with list := some o })
  else if eType e = 3 then { b with diag := { b.diag with sliceNext := mapSet 0 b.diag.sliceNext v 0 } }
  else
    let d := b.goldDesc o
    if goldRuns d (b.reg Reg.FRT_FRAME_CNT) then
      if gTarget d = 0 then
        (if b.partHeld (kPart (kernEntry b.table (gKernel d))) then b else b.startLC v (gKernel d) (gArg d))
      else b.goldBegin (gEngine d)
    else b.modRun v (fun r => { r with list := if gFill d = 0xFF then none else some (gFill d) })

/-- A slot of Vat v that continues a fill list which already runs keeps its kernel (R58); a new window of the same list goes on with it. -/
def State.beginVat (n : Nat) (s : State) (v : Nat) : State :=
  let e := s.entry n v
  let a := ((s.setVatState v 63 60 (eType e)).setVatState v 59 48 (eOwner e)).setVatState v 30 30 0
  if a.vatInReset v then a
  else if eType e = 0 then
    (if (a.run v).waitWindow then a else (a.modRun v (fun r => { r with list := none })).setVatState v 31 31 0)
  else if eStart e then a.beginWindow v n
  else a

/-- Slot n begins in FCLK cycle e. In the trim slot the distributor reads the timebase and sets its length (R47, R48). -/
def State.slotBegin (s : State) (n e : Nat) : State :=
  let a := (s.setRegBits Reg.FRT_SLOT_NOW 15 0 n)
  let b := { a with frt := { a.frt with slotStart := e, trimLen := none } }
  let t := b.table
  let c :=
    if n + 1 = tSlotCount t then
      let want := b.fclkOf (tInstant t (b.frt.instant + 1)) - (e : Int) - (tSlotLen t : Int)
      let lim : Int := tTrimMax t
      let d := max (-lim) (min lim want)
      let x := b.setReg Reg.FRT_TRIM_LAST (ofInt 32 d)
      let y := if d = want then x else x.bump Reg.FRT_SLIP_CNT
      { y with frt := { y.frt with trimLen := some ((tSlotLen t : Int) + d).toNat } }
    else b
  ((List.range 8).foldl (State.beginVat n) (c.beginResets e)).emit 9 0 n c.frameLo

/-- The next slot of the frame may start. -/
def State.slotDue (s : State) : Bool := s.tableValid && decide (s.slotNow + 1 < s.slotCount) && decide (s.slotEnd ≤ s.fclk)

def slotStartEffect (s : State) : State :=
  if s.slotDue then ((List.range 8).foldl State.endSlot s).slotBegin (s.slotNow + 1) s.slotEnd else s

/-- SLOT_START: the next slot of the major frame begins on every Vat and segment (R50). -/
def execSlotStart (s : State) : Host.Outcome State Fault Refusal := .next (s.onMain slotStartEffect)

/-! ### Major frames (R47, R48, R77 to R79; 15 R395) -/

/-- The inactive bank; bank A while no table has run since the reset (18 R479; log entry 33). -/
def State.idleBank (s : State) : Nat := if !s.tableValid && s.reg Reg.FRT_FRAME_CNT == 0 then 0 else 1 - s.activeBank

/-- A switch is pending, and the inactive bank's table. -/
def State.switchPending (s : State) : Bool := bit (s.reg Reg.FRT_STATUS) 5
def State.nextTable (s : State) : List Byte := s.bank s.idleBank

/-- The switch takes the boundary in FCLK cycle e of the active table. -/
def State.switchTakes (s : State) (e : Nat) : Bool :=
  s.switchPending && (match s.frt.switchAt with | some t => decide (t + 16000 ≤ e) | none => false)

/-- The instant at which a switch with no table active starts the new table (R77). -/
def State.startInstant (s : State) : Int := tInstant s.nextTable (firstInstant s.nextTable s.frt.switchNs)

/-- FCLK cycle of the frame boundary that has come, if one has. -/
def State.frameDue (s : State) : Option Nat :=
  if s.tableValid then
    if s.slotNow + 1 = s.slotCount ∧ s.slotEnd ≤ s.fclk then some s.slotEnd else none
  else if s.switchPending ∧ s.fclkOf s.startInstant ≤ (s.fclk : Int) then some (s.fclkOf s.startInstant).toNat
  else none

/-- The new table is in force (R78): banks change over, cursors clear, enables load, SWITCH, STOP and SWITCH_PENDING clear. -/
def State.takeTable (s : State) : State :=
  let t := s.nextTable
  let w := putBit (putBit (putBit (s.reg Reg.FRT_STATUS) 0 (s.idleBank == 1)) 1 true) 5 false
  let a := ((s.setReg Reg.FRT_STATUS w).setRegBits Reg.FRT_CTRL 1 0 0)
  let b := (a.setReg Reg.FRT_ACTIVE_ID (hdr t 8 4)).setReg Reg.FRT_ACTIVE_VER (hdr t 0xC 4)
  let c := (List.range 256).foldl (fun x f =>
    (x.setReg (Reg.FRT_FILL_CUR f) 0).setReg (Reg.FRT_FILL_EN f)
      (if f < tFillCount t then fFlags (fillList t f) % 2 else 0)) b
  { c with frt := { c.frt with switchAt := none, stopAt := false } }

/-- No table executes from here on (R79). A SWITCH still short of its 16 us when a STOP takes the boundary stays pending and starts its table at the first instant of that table
at or after both that boundary and the 16 us: the spec does not say which instant it then takes (DESIGN CHOICE, log entry 52). -/
def State.dropTable (s : State) (e : Nat) : State :=
  let a := s.setReg Reg.FRT_STATUS (putBit (s.reg Reg.FRT_STATUS) 1 false)
  let b := (List.range 8).foldl (fun t v => ((t.setVatState v 63 48 0).noKernel v).modRun v (fun r => { r with list := none })) a
  { b with frt := { b.frt with stopAt := false, switchNs := max b.frt.switchNs (b.nowNs + ((e : Int) - (b.fclk : Int))) } }

/-- The self-test plan of Vat v in the table in force (15 R392). -/
def State.planOf (s : State) (v : Nat) : Option Nat :=
  ((List.range s.slotCount).find? (fun n => eType (s.entry n v) == 3)).map (fun n => eOwner (s.entry n v))

/-- P of R395. -/
def passPeriod (t plan : List Byte) : Nat := max 1 (fieldLE plan 1 1 * 1000 / (2 * max 1 (tSlotCount t * tSlotUs t)))

/-- A pass starts on Vat v at the first frame of its period and at a switch: a slice left over is 0x8F, and every slice becomes pending. -/
def State.passStart (switched : Bool) (s : State) (v : Nat) : State :=
  let fr := s.reg Reg.FRT_FRAME_CNT
  match s.planOf v with
  | some i =>
    let p := passPeriod s.table (s.plan i)
    if switched ∨ fr % p = 0 then
      let a := if (s.pendSlices v).isEmpty then s else s.raise 0x8F { (DoubtInfo.plain 0xE) with vat := v }
      let b := { a with diag := { a.diag with pendSlices := mapSet [] a.diag.pendSlices v (List.range (fieldLE (s.plan i) 0 1)) } }
      (b.setRegBits (Reg.SAF_ST_STATE v) 31 16 (fr / p)).showSlices v
    else s
  | none =>
    if switched ∧ !(s.pendSlices v).isEmpty then
      let a := s.raise 0x8F { (DoubtInfo.plain 0xE) with vat := v }
      { a with diag := { a.diag with pendSlices := mapSet [] a.diag.pendSlices v [] } }
    else s

/-- A frame of the table in force begins in FCLK cycle e and belongs to instant k. -/
def State.frameBegin (s : State) (switched : Bool) (k : Int) (e : Nat) : State :=
  let a := s.setReg Reg.FRT_FRAME_CNT ((s.reg Reg.FRT_FRAME_CNT + 1) % 2 ^ 64)
  let b := a.setReg Reg.FRT_STATUS (putBit (a.reg Reg.FRT_STATUS) 6 (decide (a.fclkOf (tInstant a.table k) ≠ (e : Int))))
  let c := { b with frt := { b.frt with instant := k, frameStart := e }, harpShare := b.reg Reg.HARP_SHARE }
  (((List.range 8).foldl (State.passStart switched) c).slotBegin 0 e).heartbeats

/-- The frame boundary in FCLK cycle e: the old frame's last slot ends, resets end, and the next frame, the new table or the stop takes effect. -/
def State.frameBoundary (s : State) (e : Nat) : State :=
  let a := if s.tableValid then (List.range 8).foldl State.endSlot s else s
  let b := (a.resetsEnding e).foldl State.endReset a
  if s.tableValid then
    if b.switchTakes e then
      let t := b.takeTable
      t.frameBegin true (t.nearestInstant t.table e) e
    else if b.frt.stopAt then b.dropTable e
    else b.frameBegin false (b.frt.instant + 1) e
  else
    let t := b.takeTable
    t.frameBegin true (t.nearestInstant t.table e) e

/-! ### Switch and stop (R77, R79, R449) -/

/-- A completed group has set SWITCH: the switch is pending. -/
def State.frtSwitch (s : State) : State :=
  let a := (s.setReg Reg.FRT_STATUS (putBit (s.reg Reg.FRT_STATUS) 5 true)).setRegBit Reg.FRT_CTRL 0
  { a with frt := { a.frt with switchAt := some s.fclk, switchNs := s.nowNs + 16000 } }

/-- The inactive bank holds a table (R77). -/
def State.idleLoaded (s : State) : Bool := bit (s.reg Reg.FRT_STATUS) (2 + s.idleBank)

def ftSwitchEffect (s : State) : State := if s.idleLoaded then s.frtSwitch else s

/-- FT_SWITCH: a group with the commit point "next major frame" completes that sets FRT_CTRL.SWITCH; with the inactive bank not loaded the group has
aborted (R77). -/
def execFtSwitch (s : State) : Host.Outcome State Fault Refusal := .next (s.onMain ftSwitchEffect)

/-- A completed group has set STOP. -/
def State.frtStop (s : State) : State :=
  let a := s.setRegBit Reg.FRT_CTRL 1
  { a with frt := { a.frt with stopAt := true } }

/-- STOP written 0: the bit clears (Table 2.12), and a stop that has not reached its boundary is withdrawn (log entry 33). -/
def State.frtUnstop (s : State) : State :=
  let a := s.setRegBits Reg.FRT_CTRL 1 1 0
  { a with frt := { a.frt with stopAt := false } }

def ftStopEffect (s : State) : State := if s.tableValid then s.frtStop else s.hwSetBit Reg.FRT_ERR errState

/-- FT_STOP: a group completes that sets FRT_CTRL.STOP without SWITCH; with no table active it is refused and STATE is set (R79). -/
def execFtStop (s : State) : Host.Outcome State Fault Refusal := .next (s.onMain ftStopEffect)

/-! ### Loading a bank (R76, 15 R387) -/

def frtLoadCmdEffect (value : BitVec 32) (s : State) : State :=
  if !bit value.toNat 0 then s
  else if s.switchPending ∨ bit (s.reg Reg.FRT_STATUS) 4 then (s.setRegBits Reg.FRT_STATUS 15 8 3).hwSetBit Reg.FRT_ERR errState
  else if 0x400000 < s.reg Reg.FRT_LOAD_LEN then s.setRegBits Reg.FRT_STATUS 15 8 2
  else
    let a := s.setReg Reg.FRT_STATUS (putBit (putBit (s.reg Reg.FRT_STATUS) 4 true) (2 + s.idleBank) false)
    { a with frt := { a.frt with load := some (s.reg Reg.FRT_LOAD_SRC, s.reg Reg.FRT_LOAD_LEN) } }

/-- FRT_LOAD_CMD: writing 1 starts the copy into the inactive bank; a load while busy or with a switch pending is ignored (R76). That LOADED of the
bank clears as the copy begins is DEDUCED, log entry 33. -/
def execFrtLoadCmd (value : BitVec 32) (s : State) : Host.Outcome State Fault Refusal := .next (s.onMain (frtLoadCmdEffect value))

/-- The image with CRC and SIGNATURE taken as zero (Table 2.1). -/
def crcImage (l : List Byte) : List Byte :=
  l.take 0x44 ++ List.replicate 4 0 ++ (l.drop 0x48).take 0x18 ++ List.replicate 96 0 ++ l.drop 0xC0

/-- The CRC of a table image matches. -/
def tableCrcOk (l : List Byte) : Bool :=
  decide (0x100 ≤ tTotalLen l) && decide (tTotalLen l ≤ l.length) && crc32c (crcImage (l.take (tTotalLen l))) == tCrc l

/-- An uncorrectable word met by the copy is counted and logged, with no doubt (R76). -/
def State.loadUE (s : State) (w : Nat) : State :=
  (s.bump Reg.MBX_HS_UE_CNT).pushLog Reg.MBX_HS_UE_LOG 16 (2 ^ 63 + w)

/-- Bank b and its diagnostic area take new contents. -/
def State.setBank (s : State) (b : Nat) (l d : List Byte) : State :=
  if b = 0 then { s with frt := { s.frt with bankA := l }, diag := { s.diag with copyA := d } }
  else { s with frt := { s.frt with bankB := l }, diag := { s.diag with copyB := d } }

def frtLoadCompleteEffect (s : State) : State :=
  match s.frt.load with
  | none => s
  | some (src, n) =>
    let l := s.bytes src n
    let da := src + tTotalLen l
    let bad := (wordsOf src n ++ wordsOf da 0x8000).filter (fun w => s.poison.contains w)
    let a := ((wordsOf src n ++ wordsOf da 0x8000).filter (fun w => s.upset.contains w)).foldl State.correct s
    let b := (bad.foldl State.loadUE a).setBank s.idleBank l (s.bytes da 0x8000)
    let code := if !bad.isEmpty then 4 else if tableCrcOk l then 0 else 1
    let w := putBit (putBits (putBit (b.reg Reg.FRT_STATUS) 4 false) 15 8 code) (2 + s.idleBank) (code == 0)
    let c := b.setReg Reg.FRT_STATUS w
    { c with frt := { c.frt with load := none } }

/-- FRT_LOAD_COMPLETE: the copy ends; LOADED is set where it met no uncorrectable data and the CRC matches, else LOAD_CODE says why (R76). -/
def execFrtLoadComplete (s : State) : Host.Outcome State Fault Refusal := .next (s.onMain frtLoadCompleteEffect)

/-! ### Fill lists (R57) -/

/-- The fill-list entry is ready. -/
def State.entryReady (s : State) (v e : Nat) : Bool :=
  bits e 31 30 == 0 || decide (bits e 63 32 ≤ s.cellSeen v (bits e 29 16))

def fillEntryStartEffect (v : VatNo) (s : State) : State :=
  match (s.run v.val).list with
  | some f =>
    let l := fillList s.table f
    let e := fEntry l (s.regBits (Reg.FRT_FILL_CUR f) 5 0)
    let k := bits e 11 0
    let ke := kernEntry s.table k
    if s.tableValid ∧ !(s.vat v.val).running ∧ !s.vatInReset v.val ∧ !(s.run v.val).waitWindow ∧ bit (s.reg (Reg.FRT_FILL_EN f)) 0 ∧
        !s.partHeld (kPart ke) ∧ s.entryReady v.val e ∧ s.fclk + tTStart s.table + kCDecl ke ≤ s.cutPoint v.val f then
      s.startKernel v.val k (kPart ke) (kEntry ke - vatBase v.val) 0
    else s
  | none => s

/-- FILL_ENTRY_START: the entry at the cursor of the list that holds the Vat starts once it is ready and fits before the next cut point (R57). -/
def execFillEntryStart (v : VatNo) (s : State) : Host.Outcome State Fault Refusal := .next (s.onMain (fillEntryStartEffect v))

/-! ### Self-test slices (15 R393) -/

/-- KIND, TILE, D, ENTRY_OFS of slice i of a plan (15 Table 15.4). -/
def slTile (p : List Byte) (i : Nat) : Nat := fieldLE p (0x11 + 16 * i) 1
def slD (p : List Byte) (i : Nat) : Nat := fieldLE p (0x12 + 16 * i) 2
def slEntry (p : List Byte) (i : Nat) : Nat := fieldLE p (0x14 + 16 * i) 4

/-- Bank acc14 or acc15 of the tile is locked. -/
def State.testBankLocked (s : State) (v t : Nat) : Bool :=
  let m := lockMask (s.reg (Reg.VAT_ACC_LOCK v (t % 4)))
  bit m 14 || bit m 15

def selftestSliceStartEffect (v : VatNo) (s : State) : State :=
  let n := v.val
  let e := s.entry s.slotNow n
  if !s.tableValid ∨ eType e ≠ 3 ∨ (s.vat n).running ∨ s.vatInReset n ∨ (s.run n).waitWindow ∨ (s.run n).lcDone then s
  else
    match (s.pendSlices n).find? (fun i => decide (mapGet 0 s.diag.sliceNext n ≤ i)) with
    | none => s
    | some i =>
      let p := s.plan (eOwner e)
      if s.testBankLocked n (slTile p i) then
        { s.bumpSt n 32 with diag := { (s.bumpSt n 32).diag with sliceNext := mapSet 0 s.diag.sliceNext n (i + 1) } }
      else if s.windowEnd n < s.fclk + tGCut s.table + tTStart s.table + slD p i then
        (s.bumpSt n 0).modRun n (fun r => { r with lcDone := true })
      else
        let a := s.startKernel n 0xFFF 0 (s.stArea n - vatBase n + slEntry p i) (slTile p i)
        let w := Config.freeWord a.free
        let b := (a.useFree).modCore n (fun c => { c with sregs := mapSet 0 c.sregs 2 w })
        { b with diag := { b.diag with slice := b.diag.slice ++ [(n, i)] } }

/-- SELFTEST_SLICE_START: the slot engine starts the next pending slice where it fits, defers it, or skips it where its banks are locked (15 R393). A slice
has no kernel index: s2 is a free value, log entry 4; that the slice after a skipped one is taken next is DEDUCED, log entry 33. -/
def execSelftestSliceStart (v : VatNo) (s : State) : Host.Outcome State Fault Refusal := .next (s.onMain (selftestSliceStartEffect v))

/-! ### Pair comparison (15 R386) -/

/-- The completed run that is the other half of run a: the partner Vat's kernel of the same ENTRY offset, in the same frame and the same or the next
slot (check 0x11). -/
def State.partner (s : State) (a : Nat × Nat × Nat × Nat) : Option (Nat × Nat × Nat × Nat) :=
  let ka := kernEntry s.table a.1
  s.diag.pairSig.find? (fun b =>
    let kb := kernEntry s.table b.1
    b.1 != a.1 && kVat kb == kPairVat ka && kPairVat kb == kVat ka &&
      kEntry kb - vatBase (kVat kb) == kEntry ka - vatBase (kVat ka) && b.2.2.1 == a.2.2.1 &&
      decide (b.2.2.2 ≤ a.2.2.2 + 1) && decide (a.2.2.2 ≤ b.2.2.2 + 1))

def pairCompareEffect (s : State) : State :=
  match s.diag.pairSig.findSome? (fun a => (s.partner a).map (fun b => (a, b))) with
  | none => s
  | some (a, b) =>
    let x := { s.bump Reg.SAF_PAIR_CNT with diag := { s.diag with pairSig := s.diag.pairSig.filter (fun e => e != a && e != b) } }
    let va := kVat (kernEntry s.table a.1)
    let vb := kVat (kernEntry s.table b.1)
    if a.2.1 = b.2.1 then x
    else x.raise 0x85 { (DoubtInfo.plain 2) with vat := min va vb, tile := max va vb, word := if va < vb then a.1 else b.1 }

/-- PAIR_COMPARE: both runs of a pair have completed; their signatures are compared and counted, and 0x85 is raised where they differ (15 R386). -/
def execPairCompare (s : State) : Host.Outcome State Fault Refusal := .next (s.onMain pairCompareEffect)

end Sys2Proof.Machine
end

