-- ==== Sys2Proof/Machine/LoopEngine.lean ====
section
/-! DEFINITION. The loop engine and the servo ports (12): ticks and groups, reference segments, the control law, axis states and faults, frames
and feedback. -/

namespace Sys2Proof.Machine

def State.modLp (s : State) (f : Loop → Loop) : State := { s with lp := f s.lp }
def State.axis (s : State) (a : Nat) : LoopAxis := s.lp.axes.getD a LoopAxis.reset
def State.modAxis (s : State) (a : Nat) (f : LoopAxis → LoopAxis) : State := s.modLp (fun l => { l with axes := listModify f l.axes a })
def State.lport (s : State) (p : Nat) : LoopPort := s.lp.ports.getD p LoopPort.reset
def State.modLport (s : State) (p : Nat) (f : LoopPort → LoopPort) : State := s.modLp (fun l => { l with ports := listModify f l.ports p })

def State.loopRunning (s : State) : Bool := bit (s.reg Reg.LOOP_CTRL) 0
def State.loopPeriod (s : State) : Nat := s.reg Reg.LOOP_PERIOD
def State.srvEn (s : State) (p : Nat) : Bool := bit (s.reg (Reg.SRV_CFG p)) 0

/-! ### Axis commands (R325, Table 12.2) -/

/-- ENABLE 1, DISABLE 2, CLEAR 3 applied to an axis; DISABLE leads every state to DISABLED (DEDUCED, log entry 39). -/
def LoopAxis.apply (x : LoopAxis) (c : Nat) : LoopAxis :=
  if c = 1 then { x with pend := true }
  else if c = 2 then { x with st := 0, pend := false, timer := 0 }
  else if c = 3 ∧ x.st ≠ 0 then { x with st := 0, pend := false, timer := 0, cause := 0, rst := true }
  else x

/-- The axis once the commands that wait for the next tick have acted. -/
def LoopAxis.settled (x : LoopAxis) : LoopAxis := { (x.cmds.foldl LoopAxis.apply x) with cmds := [] }

/-- Table 12.2 accepts the command. -/
def State.axisAccepts (s : State) (a c : Nat) : Bool :=
  let st := (s.axis a).settled.st
  if c = 1 then st == 0 && s.srvEn (a / 8)
  else if c = 2 then true
  else c == 3 && st != 1

/-- A tick is in progress: axes of it have still to be computed. -/
def State.inTick (s : State) : Bool := decide (s.lp.half < 8)

/-- T_k. -/
def State.loopT (s : State) (k : Int) : Int := toInt 64 (s.reg Reg.LOOP_PHASE) + k * (s.loopPeriod : Int)

/-- The staging bank as its registers hold it. -/
def State.staging (s : State) : SegBank :=
  ⟨s.reg Reg.LOOP_SEG_T0, s.reg Reg.LOOP_SEG_LEN, (List.range 64).map (fun (a : Nat) =>
    let w0 := s.reg (Reg.LOOP_SEG_0 a)
    let w1 := s.reg (Reg.LOOP_SEG_1 a)
    let w2 := s.reg (Reg.LOOP_SEG_2 a)
    [w0 % 2 ^ 32, w0 / 2 ^ 32, w1 % 2 ^ 32, w1 / 2 ^ 32, w2 % 2 ^ 32, w2 / 2 ^ 32])⟩

/-- A bank put into the staging registers. -/
def State.setStaging (s : State) (b : SegBank) : State :=
  (List.range 64).foldl (fun (t : State) a =>
    let g := b.segs.getD a [0, 0, 0, 0, 0, 0]
    ((t.setReg (Reg.LOOP_SEG_0 a) (g.getD 0 0 + 2 ^ 32 * g.getD 1 0)).setReg (Reg.LOOP_SEG_1 a) (g.getD 2 0 + 2 ^ 32 * g.getD 3 0)).setReg
      (Reg.LOOP_SEG_2 a) (g.getD 4 0 + 2 ^ 32 * g.getD 5 0))
    ((s.setReg Reg.LOOP_SEG_T0 b.t0).setReg Reg.LOOP_SEG_LEN b.len)

/-- A pending swap takes place. -/
def State.swapBanks (s : State) : State :=
  if s.lp.swap then
    let b := s.staging
    (s.setStaging s.lp.active).modLp (fun l => { l with active := b, bank := 1 - l.bank, swap := false })
  else s

/-- BASE, off, vref, tff and SEG_STALE of a segment at T_k (R321). -/
def evalSegment (b : SegBank) (g : List Nat) (t : Int) : List Nat × Bool :=
  let w := fun (i : Nat) => BitVec.ofNat 32 (g.getD i 0)
  let dt := t - toInt 64 b.t0
  let tns := min dt.toNat b.len
  let tau : W32 := if tns = 0 then 0 else flQuot false tns 1000000000
  let u1 := fadd (fmul (w 3) tau) (w 2)
  let u2 := fadd (fmul u1 tau) (w 1)
  let off := fmul u2 tau
  let w1 := fadd (fmul (fmul (fofInt 3) (w 3)) tau) (fmul (fofInt 2) (w 2))
  let vref := fadd (fmul w1 tau) (w 1)
  let tff := fadd (fmul (w 5) tau) (w 4)
  let stale := decide ((b.len : Int) < dt)
  ([g.getD 0 0, off.toNat, if stale then 0 else vref.toNat, if stale then 0 else tff.toNat], stale)

/-- An axis at the start of tick T_k: commands act, an enabled axis (or one waiting for feedback) takes its references. -/
def LoopAxis.atTick (b : SegBank) (g : List Nat) (t : Int) (x : LoopAxis) : LoopAxis :=
  let y := x.settled
  if y.st = 1 ∨ (y.st = 0 ∧ y.pend) then
    let e := evalSegment b g t
    { y with refs := e.1, stale := e.2 }
  else { y with stale := false }

/-- Gains, limits and configuration of axis a in the order of Table 12.5: KP, KVFF, KV, KI, ILIM, AV, KTFF, KT, IMAX, VDB, TQLSB, FELIM, AXCFG. -/
def State.axisPar (s : State) (a : Nat) : List Nat :=
  [s.reg (Reg.LOOP_KP a), s.reg (Reg.LOOP_KVFF a), s.reg (Reg.LOOP_KV a), s.reg (Reg.LOOP_KI a), s.reg (Reg.LOOP_ILIM a), s.reg (Reg.LOOP_AV a),
    s.reg (Reg.LOOP_KTFF a), s.reg (Reg.LOOP_KT a), s.reg (Reg.LOOP_IMAX a), s.reg (Reg.LOOP_VDB a), s.reg (Reg.LOOP_TQLSB a),
    s.reg (Reg.LOOP_FELIM a), s.reg (Reg.LOOP_AXCFG a)]

/-- Table entries written that have waited for a tick. -/
def State.takeTables (s : State) : State :=
  s.modLp (fun l => { l with table := l.writes.foldl (fun m e => mapSet 0 m e.1 e.2) l.table, writes := [] })

/-- What tick k takes from the writes before it: a pending swap, commands, table entries, parameters and port configurations (R319 to R321). -/
def State.loopTake (s : State) (k : Int) : State :=
  let a := s.swapBanks.takeTables
  let t := a.loopT k
  let axes := (List.range 64).map (fun i => (a.axis i).atTick a.lp.active (a.lp.active.segs.getD i [0, 0, 0, 0, 0, 0]) t)
  a.modLp (fun l => { l with
    axes := axes, par := (List.range 64).map a.axisPar, srv := (List.range 8).map (fun p => a.reg (Reg.SRV_CFG p)), period := a.loopPeriod })

/-- A write of the LCLK cycle in which a tick started applies to that tick (R319). -/
def State.loopRetake (s : State) : State :=
  if s.loopRunning ∧ s.lp.half = 0 ∧ s.lclk = s.lp.start then s.loopTake (s.lp.k - 1) else s

/-- No tick is in progress and none will come: what waited for one takes effect. -/
def State.loopRest (s : State) : State :=
  if s.loopRunning ∨ s.inTick then s
  else s.takeTables.modLp (fun l => { l with axes := l.axes.map LoopAxis.settled })

/-- An accepted command acts with a tick: with the one that starts in this LCLK cycle or the next one; at once while no ticks run (R319). -/
def State.axisCommand (s : State) (a c : Nat) : State :=
  if !s.axisAccepts a c then s
  else if s.loopRunning || s.inTick then (s.modAxis a (fun x => { x with cmds := x.cmds ++ [c] })).loopRetake
  else s.modAxis a (fun x => x.apply c)

def axisEnableEffect (a : Fin 64) (s : State) : State := s.axisCommand a.val 1
def axisDisableEffect (a : Fin 64) (s : State) : State := s.axisCommand a.val 2
def axisClearEffect (a : Fin 64) (s : State) : State := s.axisCommand a.val 3

/-- AXIS_ENABLE: ENABLE_PENDING of a DISABLED axis of an enabled port; the axis is enabled in the first tick with valid feedback (R325). -/
def execAxisEnable (a : Fin 64) (s : State) : Host.Outcome State Fault Refusal := .next (s.onMain (axisEnableEffect a))

/-- AXIS_DISABLE (R325). -/
def execAxisDisable (a : Fin 64) (s : State) : Host.Outcome State Fault Refusal := .next (s.onMain (axisDisableEffect a))

/-- AXIS_CLEAR: a held or faulted axis returns to DISABLED, and its first word after it carries FAULT_RST (R325, Table 12.4). -/
def execAxisClear (a : Fin 64) (s : State) : Host.Outcome State Fault Refusal := .next (s.onMain (axisClearEffect a))

/-! ### RUN, segments and tables (R316, R319, R320, R323) -/

/-- Every axis is DISABLED. -/
def State.allDisabled (s : State) : Bool := s.lp.axes.all (fun x => x.settled.st == 0)

/-- RUN is set at this commit point, or cleared. -/
def State.loopStart (s : State) : State :=
  let k := -((toInt 64 (s.reg Reg.LOOP_PHASE) - s.nowNs) / (max 1 s.loopPeriod : Nat))
  ((s.modLp (fun l => { l with k := k, first := true, runT := s.lclk })).setRegBit Reg.LOOP_CTRL 0).setReg Reg.LOOP_TICK 0

/-- RUN cleared: no further tick starts; one in progress ends as it began (R319). -/
def State.loopStop (s : State) : State := (s.setReg Reg.LOOP_CTRL 0).loopRest

def loopRunEffect (run : Bool) (s : State) : State :=
  if run then (if s.loopRunning then s else s.loopStart)
  else if s.loopRunning ∧ s.allDisabled then s.loopStop else s

/-- LOOP_RUN: RUN set starts ticks at the first instant at or after the commit point; RUN cleared while an axis is not DISABLED aborts its group
(R316, R319). -/
def execLoopRun (run : Bool) (s : State) : Host.Outcome State Fault Refusal := .next (s.onMain (loopRunEffect run))

def loopSegSwapEffect (v : BitVec 32) (s : State) : State := if v = 1 then (s.modLp (fun l => { l with swap := true })).loopRetake else s

/-- LOOP_SEG_SWAP: 1 makes the staging bank active from the first tick that starts at or after the commit point (R320). -/
def execLoopSegSwap (v : BitVec 32) (s : State) : Host.Outcome State Fault Refusal := .next (s.onMain (loopSegSwapEffect v))

def loopTblDataWriteEffect (v : BitVec 32) (s : State) : State :=
  let w := s.reg Reg.LOOP_TBL_ADDR
  let a := bits w 21 16
  if (s.axis a).settled.st ≠ 0 then s.hwSetBit Reg.LOOP_ERR errState
  else
    let key := 2048 * a + 1024 * bits w 10 10 + bits w 9 0
    ((s.modLp (fun l => { l with writes := l.writes ++ [(key, v.toNat)] })).loopRest.loopRetake).setReg Reg.LOOP_TBL_ADDR
      (putBits w 9 0 ((bits w 9 0 + 1) % 1024))

/-- LOOP_TBL_DATA_WRITE: one entry is stored and the entry number advances modulo 1,024; while the axis is not DISABLED the write is ignored and sets STATE
(R319, R323). -/
def execLoopTblDataWrite (v : BitVec 32) (s : State) : Host.Outcome State Fault Refusal := .next (s.onMain (loopTblDataWriteEffect v))

/-! ### Ticks (R316, R320, R321) -/

/-- LCLK cycle in which T_k is reached. -/
def State.lclkOf (s : State) (t : Int) : Int := s.fclkOf t / 2

/-- The LCLK cycle in which the next tick starts: that of its instant, held within PERIOD_LC +- 2 of the last start. -/
def State.nextTick (s : State) : Int :=
  let t := s.lclkOf (s.loopT s.lp.k)
  if s.lp.first then t
  else
    let lo := (s.lp.start : Int) + (s.loopPeriod / 2 : Nat) - 2
    max lo (min t (lo + 4))

def loopTickEffect (s : State) : State :=
  let n := s.nextTick
  let t := s.loopT s.lp.k
  if !s.loopRunning ∨ (s.lclk : Int) < n ∨ s.inTick then s
  else
    let slip := n != s.lclkOf t
    let b := (s.loopTake s.lp.k).modLp (fun l => { l with k := l.k + 1, first := false, start := n.toNat, half := 0, slip := slip, counted := false })
    let c := if slip then b.bump Reg.LOOP_SLIP_CNT else b
    let e := (c.setReg Reg.LOOP_TICK ((c.reg Reg.LOOP_TICK + 1) % 2 ^ 64)).setReg Reg.LOOP_TICK_T (ofInt 64 c.nowNs)
    if slip then e.emit 13 0 (ofInt 32 s.lp.k) 0 else e

/-- LOOP_TICK: tick k starts at T_k, or at the nearer limit of PERIOD_LC +- 2 with a slip; a pending swap, pending commands and table entries take effect,
parameters hold for the tick, and the enabled axes evaluate their segments (R316, R319 to R321). -/
def execLoopTick (s : State) : Host.Outcome State Fault Refusal := .next (s.onMain loopTickEffect)

/-! ### The control law (R322 to R325) -/

/-- interp of table k of axis a at pos. -/
def State.interp (s : State) (a k cpr pos : Nat) : W32 :=
  let sh := cpr - 10
  let m := pos % 2 ^ cpr
  let i := m / 2 ^ sh
  let f : W32 := if m % 2 ^ sh = 0 then 0 else fl32 false (m % 2 ^ sh) (-(sh : Int))
  let t := fun (j : Nat) => BitVec.ofNat 32 (mapGet 0 s.lp.table (2048 * a + 1024 * k + j % 1024))
  fadd (t i) (fmul f (fsub (t (i + 1)) (t i)))

/-- A value held within +-lim. -/
def fclamp (x lim : W32) : W32 := if flt lim x then lim else if flt x (fneg lim) then fneg lim else x

/-- -1, 0, 1. -/
def fsign (x : W32) : Int := if flt 0 x then 1 else if flt x 0 then -1 else 0

/-- What one pass of the law gives: vf, iv, ep, iu, iq, sat. -/
structure LawOut where
  vf : W32
  iv : W32
  ep : W32
  iu : W32
  iq : W32
  sat : Bool

/-- The law of R322 for an axis with references refs; hit: the port has usable feedback, without it vf and iv are held (R332). -/
def State.law (s : State) (a : Nat) (par refs : List Nat) (x : LoopAxis) (hit : Bool) : LawOut :=
  let g := fun (i : Nat) => BitVec.ofNat 32 (par.getD i 0)
  let cfg := par.getD 12 0
  let pos := x.fb % 2 ^ 32
  let base := refs.getD 0 0
  let off := BitVec.ofNat 32 (refs.getD 1 0)
  let vref := BitVec.ofNat 32 (refs.getD 2 0)
  let tff := BitVec.ofNat 32 (refs.getD 3 0)
  let vf0 := BitVec.ofNat 32 x.vf
  let iv0 := BitVec.ofNat 32 x.iv
  let dpos := toInt 32 ((pos + 2 ^ 32 - x.posPrev) % 2 ^ 32)
  let vm := fmul (fofInt dpos) (flQuot false 1000000000 (max 1 s.lp.period))
  let vf := if hit then fadd vf0 (fmul (g 5) (fsub vm vf0)) else vf0
  let tm := fmul (fofInt (toInt 16 (bits x.fb 47 32))) (g 10)
  let ep := fadd (fofInt (toInt 32 ((base + 2 ^ 32 - pos) % 2 ^ 32))) off
  let vc := fadd (fmul (g 0) ep) (fmul (g 1) vref)
  let ev := fsub vc vf
  let vdb := g 9
  let sg := if flt vdb vc then fofInt 1 else if flt vc (fneg vdb) then fofInt (-1) else fdiv vc vdb
  let cpr := bits cfg 5 0
  let fr := if bit cfg 10 then fmul (s.interp a 0 cpr pos) sg else 0
  let cg := if bit cfg 11 then s.interp a 1 cpr pos else 0
  let tc := fadd (fadd (fadd (fadd (fmul (g 2) ev) iv0) tff) fr) cg
  let iu := if bit cfg 8 then fadd (fmul (g 6) tc) (fmul (g 7) (fsub tc tm)) else fmul (g 6) tc
  let imax := g 8
  let sat := flt imax (fabs iu)
  let iv := if !hit ∨ (sat ∧ fsign ev = fsign iu) then iv0 else fclamp (fadd iv0 (fmul (g 3) ev)) (g 4)
  ⟨vf, iv, ep, iu, fclamp iu imax, sat⟩

/-- Word of an axis that is not driven; its first one after a CLEAR carries FAULT_RST. -/
def idleWord (x : LoopAxis) : Nat := if x.rst then 2 ^ 34 else 0

/-- The main copy produces a word; it is held until its comparison passes (R317). -/
def LoopAxis.produce (x : LoopAxis) (w : Nat) : LoopAxis := { x with held := some w, rst := false }

/-- The word is released to the framer. -/
def LoopAxis.release (x : LoopAxis) : LoopAxis := { x with word := x.held.getD x.word, held := none }

/-- The words of a port whose comparison has passed with no difference reported are released: they are with the framer before its SOF (R317, R380). -/
def State.loopRelease (s : State) : State :=
  if s.lp.axes.any (fun x => x.held.isSome) then
    (List.range 8).foldl (fun (t : State) p =>
      if (s.lport p).due ≤ s.lclk + 1 then (List.range 8).foldl (fun u j => u.modAxis (8 * p + j) LoopAxis.release) t else t) s
  else s

/-- The axis becomes FAULT with a cause: counted, one record, IQ +0 and CTRL 0 (R325). -/
def State.axisFault (s : State) (a : Nat) (x : LoopAxis) (cause : Nat) : State :=
  ((s.modAxis a (fun _ => { (x.produce 0) with st := 3, cause := cause, sat := false })).bump Reg.LOOP_FAULT_CNT).outcome 9 0xC6 (a + 256 * cause)

/-- The law runs on references; an output that is not finite faults the axis. -/
def State.drive (s : State) (a : Nat) (par refs : List Nat) (x : LoopAxis) (hit : Bool) : State :=
  let o := s.law a par refs x hit
  let y := { x with vf := o.vf.toNat, iv := o.iv.toNat, ep := o.ep.toNat, sat := o.sat, posPrev := x.fb % 2 ^ 32 }
  if !isFinite32 o.iu then s.axisFault a { x with ep := o.ep.toNat } 5
  else s.modAxis a (fun _ => y.produce (o.iq.toNat + 3 * 2 ^ 32))

/-- An enabled axis computes: supervision of the following error, then the law (R324). -/
def State.runAxis (s : State) (a : Nat) (par : List Nat) (x : LoopAxis) (hit : Bool) : State :=
  let o := s.law a par x.refs x hit
  let cfg := par.getD 12 0
  let far := flt (fofInt (par.getD 11 0 : Nat)) (fabs o.ep)
  let t := if !hit then x.timer else if far then x.timer + 1 else 0
  let y := { x with timer := t }
  if hit ∧ far ∧ bits cfg 31 16 ≤ t then
    let e := (s.bump Reg.LOOP_FE_CNT).outcome 9 0xC5 (a + 2 ^ 32 * o.ep.toNat)
    if bit cfg 9 then
      let pos := x.fb % 2 ^ 32
      e.drive a par [pos, 0, 0, 0] { y with st := 2, cause := 1, hold := pos, refs := [pos, 0, 0, 0] } hit
    else e.axisFault a { y with ep := o.ep.toNat } 1
  else s.drive a par x.refs y hit

/-- Uncorrectable words of an axis are met (R326). -/
def State.axisPoison (s : State) (a : Nat) (x : LoopAxis) : State :=
  let ws := s.lp.bad.filter (fun e => e.1 == a)
  let b := ws.foldl (fun (t : State) e => t.pushLog Reg.LOOP_UE_LOG 16 (2 ^ 63 + a * 2 ^ 16 + e.2 % 2 ^ 16)) s
  (b.axisFault a x 6).raise 0x89 (DoubtInfo.plain 9)

/-- ENABLE of axis a takes effect in this tick: its port is enabled and has brought feedback (R325). -/
def State.enables (s : State) (a : Nat) : Bool :=
  let x := s.axis a
  x.st == 0 && x.pend && (s.lport (a / 8)).hit && bit (s.lp.srv.getD (a / 8) 0) 0

/-- Correctable words that axis a meets are corrected and counted (R326; 05 R160). -/
def State.axisCorrect (s : State) (a : Nat) : State :=
  (s.lp.upset.filter (fun e => e.1 == a)).foldl (fun (t : State) _ => t.countCE 9 Reg.LOOP_CE_CNT)
    (s.modLp (fun l => { l with upset := l.upset.filter (fun e => e.1 != a) }))

/-- Axis a computes in the present tick (R322, R325). -/
def State.computeAxis (s0 : State) (a : Nat) : State :=
  let s := s0.axisCorrect a
  let p := s.lport (a / 8)
  let par := s.lp.par.getD a []
  let x : LoopAxis := { (s.axis a) with miss := !p.hit }
  if s.enables a then
    let y := { x with st := 1, pend := false, posPrev := x.fb % 2 ^ 32, vf := 0, iv := 0, timer := 0, cause := 0 }
    if s.lp.bad.any (fun e => e.1 == a) then s.axisPoison a y
    else if bit x.fb 50 then s.axisFault a y 2
    else if bit x.fb 52 then s.axisFault a y 3
    else s.runAxis a par y true
  else if x.st = 1 ∨ x.st = 2 then
    if s.lp.bad.any (fun e => e.1 == a) then s.axisPoison a x
    else if p.hit ∧ bit x.fb 50 then s.axisFault a x 2
    else if p.hit ∧ bit x.fb 52 then s.axisFault a x 3
    else if x.st = 1 then s.runAxis a par x p.hit
    else s.drive a par [x.hold, 0, 0, 0] x p.hit
  else s.modAxis a (fun _ => x.produce (idleWord x))

/-- Offset of the axis computations of port p from the tick start (R315). -/
def portOffset (p : Nat) : Nat := 200 * (p / 2) + 96 * (p % 2)

/-- The tick counts as stale from now: an enabled axis, or one that port p enables, has SEG_STALE set, and the tick has not been counted (R321). -/
def State.staleAt (s : State) (p : Nat) : Bool :=
  !s.lp.counted && (s.lp.axes.any (fun x => x.st == 1 && x.stale) ||
    (List.range 8).any (fun j => s.enables (8 * p + j) && (s.axis (8 * p + j)).stale))

def loopGroupStartEffect (s : State) : State :=
  let p := s.lp.half
  let cfg := s.lp.srv.getD p 0
  if 8 ≤ p ∨ s.lclk < s.lp.start + max 1 (portOffset p) ∨ (bit cfg 0 && !(s.lport p).cut) then s
  else
    let c := if s.staleAt p then (s.modLp (fun l => { l with counted := true })).bump Reg.LOOP_STALE_CNT else s
    let a := (List.range 8).foldl (fun (t : State) j => t.computeAxis (8 * p + j)) c
    let b := a.modLport p (fun x => { x with
      cut := false, made := bit cfg 0, due := s.lp.start + portOffset p + 104, cfg := cfg, madeSeq := ofInt 16 (s.lp.k - 1) })
    (b.modLp (fun l => { l with half := p + 1 })).loopRest

/-- LOOP_GROUP_START: the lanes compute the axes of the next port of the group: those of port 2g from the group start, those of port 2g + 1 from 96 LCLK
cycles after it, each use of the command one of the two; port 0's once the cycle of the tick start is over, whose writes still apply (R315, R317, R319,
R322). -/
def execLoopGroupStart (s : State) : Host.Outcome State Fault Refusal := .next (s.onMain loopGroupStartEffect)

/-! ### Frames (R327 to R333) -/

/-- The command frame of port p from the released words. -/
def State.cmdFrame (s : State) (p seq : Nat) : List Byte :=
  let body := toLE 1 0xC1 ++ toLE 1 0 ++ toLE 2 seq ++ toLE 2 (bits (s.lport p).cfg 31 16) ++
    (List.range 8).flatMap (fun j => toLE 8 (s.axis (8 * p + j)).word)
  body ++ toLE 4 (crc32c body)

/-- Words of port p have still to be released. -/
def State.portHeld (s : State) (p : Nat) : Bool := (List.range 8).any (fun j => (s.axis (8 * p + j)).held.isSome)

def servoCommandFrameEffect (p : Fin 8) (s : State) : State :=
  let x := s.lport p.val
  let gap := !s.fbx.swPorts.contains p.val || (s.auth == .main && decide (mapGet 0 s.fbx.txT p.val + 122 ≤ s.rclk))
  if !x.made ∨ s.lclk < x.due ∨ s.portHeld p.val then s
  else
    let b := s.modLport p.val (fun q => { q with made := false, seq := q.madeSeq, sof := some s.lclk, sent := s.cmdFrame p.val q.madeSeq })
    if !gap then b
    else
      let axes := (List.range 8).map (fun j => 8 * p.val + j)
      let on := axes.filter (fun a => bit (s.axis a).word 32)
      { b with fbx := { b.fbx with swPorts := b.fbx.swPorts.filter (fun q => q != p.val), mainEn := on.foldl setInsert (b.fbx.mainEn.filter (fun a => !axes.contains a)) } }

/-- SERVO_COMMAND_FRAME: at s_p the framer of an enabled port sends the words of the tick that computed them; they reach the drives, and the Rind, unless the
port's switch stands on the fallback side; after a return to MAIN the switch moves back at the first gap after its last fallback frame (R317, R327,
R328, R333; 15 R404). -/
def execServoCommandFrame (p : Fin 8) (s : State) : Host.Outcome State Fault Refusal := .next (s.onMain (servoCommandFrameEffect p))

/-- A frame that fails the checks both receivers make: code errors, then TYPE and length, then CRC; the counter it steps (R331). -/
def frameFault (p : Nat) (bad : Bool) (f : List Byte) : Option Nat :=
  if bad then some (Reg.SRV_CODE_CNT p)
  else if f.length ≠ 74 ∨ fieldLE f 0 1 ≠ 0xD1 then some (Reg.SRV_FMT_CNT p)
  else if fieldLE f 70 4 ≠ crc32c (f.take 70) then some (Reg.SRV_CRC_CNT p)
  else none

/-- The eight feedback words of a frame. -/
def fbWords (f : List Byte) : List Nat := (List.range 8).map (fun j => fieldLE f (6 + 8 * j) 8)

/-- The executor takes feedback under the same checks, without the SEQ test (15 R401). -/
def State.fbxFeedback (s : State) (p : Nat) (ws : List Nat) : State :=
  { s with fbx := { s.fbx with fbSeen := setInsert s.fbx.fbSeen p,
                               fbPos := (List.range 8).foldl (fun m j => mapSet 0 m (8 * p + j) (ws.getD j 0 % 2 ^ 32)) s.fbx.fbPos } }

def servoFeedbackFrameEffect (p : Fin 8) (bad : Bool) (frame : List Byte) (s : State) : State :=
  let x := s.lport p.val
  let fault := frameFault p.val bad frame
  let a := if fault.isNone then s.fbxFeedback p.val (fbWords frame) else s
  if !x.up ∨ !s.mainClk then a
  else
    match fault with
    | some k => a.bump k
    | none =>
      match x.sof with
      | none => a.bump (Reg.SRV_STALE_CNT p.val)
      | some t =>
        if fieldLE frame 2 2 ≠ x.seq then a.bump (Reg.SRV_STALE_CNT p.val)
        else if x.cut || x.made then a.bump (Reg.SRV_LATE_CNT p.val)
        else
          let rtt := s.lclk - t
          let b := a.modLport p.val (fun q => { q with got := some (fbWords frame) })
          (b.setReg (Reg.SRV_RTT_LAST p.val) rtt).setReg (Reg.SRV_RTT_MAX p.val) (max rtt (s.reg (Reg.SRV_RTT_MAX p.val)))

/-- SERVO_FEEDBACK_FRAME: a frame whose symbols, format, CRC, SEQ and time satisfy R331 is taken for the next computation of its port; another is counted
and discarded: late from the cutoff on until the next SOF. The Rind's receiver takes it too, whatever the framer's state (01 R24, 15 R401). -/
def execServoFeedbackFrame (p : Fin 8) (bad : Bool) (frame : List Byte) (s : State) : Host.Outcome State Fault Refusal :=
  .next (servoFeedbackFrameEffect p bad frame s)

/-- The LCLK cycle of the cutoff of port p's next computation (Table 12.1). -/
def State.cutoffAt (s : State) (p : Nat) : Option Int :=
  if s.lp.half = 8 then (if p = 0 ∧ s.loopRunning then some (s.nextTick - 4) else none)
  else if s.lp.half ≤ p then some ((s.lp.start : Int) + (portOffset p : Nat) - 4)
  else none

/-- SRV_CFG of port p for its next computation: of the present tick, or, where that has begun all it computes, as the register stands (R319). -/
def State.cutCfg (s : State) (p : Nat) : Nat := if s.inTick then s.lp.srv.getD p 0 else s.reg (Reg.SRV_CFG p)

/-- The axes of a port that has become LOST become FAULT. -/
def State.lostAxis (s : State) (a : Nat) : State :=
  let x := s.axis a
  if x.st = 1 ∨ x.st = 2 then
    ((s.modAxis a (fun y => { y with st := 3, cause := 4, sat := false })).bump Reg.LOOP_FAULT_CNT).outcome 9 0xC6 (a + 256 * 4)
  else s

/-- A miss at the cutoff of port p (R332). -/
def State.portMiss (s : State) (p : Nat) : State :=
  let n := min 15 ((s.lport p).misses + 1)
  let a := (s.bump (Reg.SRV_MISS_CNT p)).modLport p (fun q => { q with cut := true, hit := false, misses := n })
  let b := a.emit 13 1 p n
  if bits (s.cutCfg p) 4 1 ≤ n ∧ !(s.lport p).lost then
    (List.range 8).foldl (fun (t : State) j => t.lostAxis (8 * p + j)) (b.modLport p (fun q => { q with lost := true }))
  else b

/-- Usable feedback at the cutoff of port p. -/
def State.portHit (s : State) (p : Nat) (ws : List Nat) : State :=
  let a := s.modLport p (fun q => { q with cut := true, hit := true, misses := 0, lost := false, got := none })
  (List.range 8).foldl (fun (t : State) j => t.modAxis (8 * p + j) (fun x => { x with fb := ws.getD j 0 })) a

def feedbackCutoffEffect (p : Fin 8) (s : State) : State :=
  let x := s.lport p.val
  match s.cutoffAt p.val with
  | none => s
  | some t =>
    if !bit (s.cutCfg p.val) 0 ∨ x.cut ∨ (s.lclk : Int) ≤ t then s
    else
      match x.got with
      | some ws => s.portHit p.val ws
      | none => s.portMiss p.val

/-- FEEDBACK_CUTOFF: once the cutoff's cycle is over, whose frames are still in time, the feedback accepted since the last cutoff is used by the port's next
computation; without any, a miss is counted, and after MISS_MAX of them the port is LOST and its driven axes fault (R331, R332). -/
def execFeedbackCutoff (p : Fin 8) (s : State) : Host.Outcome State Fault Refusal := .next (s.onMain (feedbackCutoffEffect p))

def servoLinkAlignEffect (p : Fin 8) (s : State) : State := s.modLport p.val (fun q => { q with up := true })

/-- SERVO_LINK_ALIGN (R327). -/
def execServoLinkAlign (p : Fin 8) (s : State) : Host.Outcome State Fault Refusal := .next (s.onMain (servoLinkAlignEffect p))

def servoLinkDownEffect (p : Fin 8) (s : State) : State :=
  if (s.lport p.val).up then (s.modLport p.val (fun q => { q with up := false })).bump (Reg.SRV_DOWN_CNT p.val) else s

/-- SERVO_LINK_DOWN: an aligned receiver loses alignment, counted (R327). -/
def execServoLinkDown (p : Fin 8) (s : State) : Host.Outcome State Fault Refusal := .next (s.onMain (servoLinkDownEffect p))

/-- A comparison of axis a's word did not pass: doubt, and the frame carries the word released before with REPEAT (R326). -/
def State.loopMismatch (s : State) (a : Nat) : State :=
  (s.modAxis a (fun x => { x with word := x.word % 2 ^ 35 + 2 ^ 35, held := none })).bump Reg.LOOP_CMP_CNT

end Sys2Proof.Machine
end

