-- ==== Sys2Proof/Machine/Compare.lean ====
section
/-! DEFINITION. Replicated cores (15 R380 to R383): comparison of held outputs and checkpoints, compare-lane injection, the journals of reads with side
effects, and the tile checksums (04 R136). -/

namespace Sys2Proof.Machine

/-! ### The checkpoint signature of a Vat sequencer (R380) -/

/-- Bytes of the architectural state in the order of R380. -/
def VatCore.checkBytes (c : VatCore) : List Byte :=
  (List.range 64).flatMap (fun n => toLE 8 (c.sreg n).toNat) ++
    toLE 2 (maskOf ((List.range 16).filter c.pred)) ++
    (List.range 32).flatMap (fun n => (c.vreg n).flatMap (fun w => toLE 4 w.toNat)) ++
    (List.range 32).flatMap (fun n => c.desc n ++ toLE 4 (c.pos n)) ++
    toLE 1 c.loops.length ++
    (List.range 4).flatMap (fun i => match c.loops[i]? with
      | some l => toLE 4 l.first ++ toLE 4 l.last ++ toLE 4 l.left
      | none => List.replicate 12 0) ++
    toLE 1 c.rets.length ++ (List.range 16).flatMap (fun i => toLE 4 (c.rets.getD i 0)) ++ toLE 4 c.pc

/-- Core number, instance and block of a core in the compare logs (Table 15.8). -/
def repNumber : RepCore → Nat × Nat
  | .vat v => (0, v.val)
  | .lane l => (1, l.val)
  | .solver => (2, 0)
  | .planner => (3, 0)
  | .rind k => (4, k.val)

/-- A failed compare is logged: kind 0 output, 1 checkpoint, 2 lane test; lanes that failed. -/
def State.logCompare (s : State) (core : RepCore) (kind lanes : Nat) : State :=
  let n := (repNumber core)
  if n.1 = 4 then
    s.pushLog Reg.RIND_CMP_LOG 16 (2 ^ 63 + 4 * 2 ^ 56 + n.2 * 2 ^ 52 + kind * 2 ^ 48 + lanes * 2 ^ 46 + s.frameLo)
  else s.cmpLog n.1 n.2 0 kind lanes

/-- A Vat whose compare failed stops as by a fault under R111 with VAT_FAULT unchanged: 0x80 for an LC kernel, a count for a best-effort one; what is still
held is not released (DEDUCED, log entry 40). A Vat that has stopped already has no kernel left to end. -/
def State.vatDiverges (s : State) (v : Nat) : State :=
  let lc := s.runLC v
  let a := s.modVat v (fun t => { t with core := { t.core with flights := t.core.flights.filter (fun f => !f.held) } })
  let b := if lc then a.raise 0x80 { (DoubtInfo.plain 0x20) with blk := 0x20 + v, vat := v, word := s.runKernel v } else a.bump Reg.SAF_CMP_BE_CNT
  if (s.vat v).running && !(s.vat v).faulted then b.faultEnds v else b.modVat v (fun t => { t with faulted := true, issuing := false })

/-- A core of the hub die halts until a reset. -/
def State.haltCore (s : State) (c code blk : Nat) : State :=
  ({ s with diag := { s.diag with halted := setInsert s.diag.halted c } }).raise code (DoubtInfo.plain blk)

/-- The axis whose word lane l compares next: of its held words the one whose frame is due first. -/
def State.laneAxis (s : State) (l : Nat) : Option Nat :=
  ((List.range 8).filter (fun p => (s.axis (8 * p + l)).held.isSome)).foldl (fun m p => match m with
    | some a => if (s.lport p).due < (s.lport (a / 8)).due then some (8 * p + l) else some a
    | none => some (8 * p + l)) none

/-- A failed compare of an output (kind 0) or checkpoint (kind 1) (R381). -/
def State.diverge (s : State) (core : RepCore) (kind lanes : Nat) : State :=
  let a := s.logCompare core kind lanes
  match core with
  | .vat v => a.vatDiverges v.val
  | .lane l =>
    let b := if kind = 0 then (match s.laneAxis l.val with | some x => a.loopMismatch x | none => a) else a
    b.raise 0x81 { (DoubtInfo.plain 9) with inst := l.val }
  | .solver => a.haltCore 2 0x82 7
  | .planner => a.haltCore 3 0x83 8
  | .rind k => a.raise 0x96 { (DoubtInfo.plain 0x40) with inst := k.val }

/-- The held output of Vat v that is compared next: the one that is due first, of several the first issued. -/
def State.nextHeld (s : State) (v : Nat) : Option Flight :=
  ((s.vat v).core.flights.filter (fun f => f.held)).foldl (fun m f => match m with
    | some g => if f.due < g.due || (f.due == g.due && f.before g && !g.before f) then some f else some g
    | none => some f) none

/-- A compare of this core is made now: a Vat's while it holds an output whose checker copy is due, also after a fault, a cut or its end, for what has issued lands (03 R111); a
lane from the cycle in which its held word's comparison passes, two before the frame (12 R317); a halted core never again. -/
def State.compares (s : State) : RepCore → Bool
  | .vat v => (match s.nextHeld v.val with | some f => decide (f.due ≤ (s.vat v).cyc + 2) | none => false)
  | .lane l => (match s.laneAxis l.val with | some a => decide ((s.lport (a / 8)).due ≤ s.lclk + 2) | none => false)
  | .solver => !s.diag.halted.contains 2
  | .planner => !s.diag.halted.contains 3
  | .rind _ => !s.safe

/-- The output of Vat v that was compared is released; it lands at its cycle. -/
def State.releaseHeld (s : State) (v : Nat) : State :=
  match s.nextHeld v with
  | none => s
  | some f => s.modVat v (fun t => { t with core := { t.core with flights := t.core.flights.map (fun g => if g == f then { g with held := false } else g) } })

/-- A core does: outside the Rind nothing without the clocks of the main complex (01 R42). -/
def State.onCore (s : State) (core : RepCore) (f : State → State) : State :=
  match core with
  | .rind _ => f s
  | _ => s.onMain f

def heldOutputCompareEffect (core : RepCore) (lanes : Fin 4) (s : State) : State :=
  if !s.compares core then s
  else if lanes.val ≠ 0 then s.diverge core 0 lanes.val
  else match core with
    | .vat v => s.releaseHeld v.val
    | .lane l => (match s.laneAxis l.val with | some a => s.modAxis a LoopAxis.release | none => s)
    | _ => s

/-- HELD_OUTPUT_COMPARE: the lanes (bit 0 A, bit 1 B) that found the held output of a core different; with none the output is released, a Vat's and a lane's by this
command and the other cores' on their schedules, which include the hold (R380, R381). -/
def execHeldOutputCompare (core : RepCore) (lanes : Fin 4) (s : State) : Host.Outcome State Fault Refusal := .next (s.onCore core (heldOutputCompareEffect core lanes))

/-- The core stands at a multiple of 4,096 of its cycles, counted as R380 says. -/
def State.atCheckpoint (s : State) : RepCore → Bool
  | .vat v => (s.vat v).running && !(s.vat v).faulted && decide (0 < vatVcyc (s.vat v)) && vatVcyc (s.vat v) % 4096 == 0
  | .lane _ => s.loopRunning && decide (s.lp.runT < s.lclk) && (s.lclk - s.lp.runT) % 4096 == 0
  | .solver => !s.diag.halted.contains 2 && decide (s.start.release < s.fclk) && (s.fclk - s.start.release) % 4096 == 0
  | .planner => !s.diag.halted.contains 3 && decide (s.start.release < s.fclk) && (s.fclk - s.start.release) % 4096 == 0
  | .rind _ => !s.safe && decide (0 < s.rclk) && s.rclk % 4096 == 0

/-- The signature register takes the signature; only the Vat sequencer's order is published, the others' is a free value. -/
def State.takeSignature (s : State) : RepCore → State
  | .vat v => s.setReg (Reg.VAT_CKPT_SIG v.val) (crc64 (s.vat v).core.checkBytes)
  | .lane l => (s.setReg (Reg.LOOP_CKPT_SIG l.val) (Config.freeWord s.free).toNat).useFrees 1
  | .solver => (s.setReg Reg.SLV_CKPT_SIG (Config.freeWord s.free).toNat).useFrees 1
  | .planner => (s.setReg Reg.PLN_CKPT_SIG (Config.freeWord s.free).toNat).useFrees 1
  | .rind _ => (s.setReg Reg.RIND_CKPT_SIG (Config.freeWord s.free).toNat).useFrees 1

def coreCheckpointEffect (core : RepCore) (lanes : Fin 4) (s : State) : State :=
  if !s.atCheckpoint core then s
  else
    let a := s.takeSignature core
    if lanes.val = 0 then a else a.diverge core 1 lanes.val

/-- CORE_CHECKPOINT: at a multiple of 4,096 cycles the signature of a core's registers is taken and compared; a difference is acted on under R381. -/
def execCoreCheckpoint (core : RepCore) (lanes : Fin 4) (s : State) : Host.Outcome State Fault Refusal := .next (s.onCore core (coreCheckpointEffect core lanes))

/-! ### Lanes (R382) -/

/-- Key of a compare point of a core. -/
def repPoint (core : RepCore) (checkpoint : Bool) : Nat := 2 * (16 * (repNumber core).1 + (repNumber core).2) + b2n checkpoint

/-- The clock of a core's injections and their distance of 50 ms in it: FCLK, on the Rind RCLK. -/
def State.laneClock (s : State) (core : RepCore) : Nat × Nat :=
  match core with
  | .rind _ => (s.rclk, 20000000)
  | _ => (s.fclk, 50000000)

/-- In-service injections of the core have begun: outside the Rind when step 7 of start-up ends (18 R476). -/
def State.laneOn (s : State) (core : RepCore) : Bool :=
  match core with
  | .rind _ => true
  | _ => decide (8 ≤ s.start.step)

/-- 50 ms have passed since the last injection of compare point k; a point that had none is due. -/
def State.laneDue (s : State) (core : RepCore) (k : Nat) : Bool :=
  s.laneOn core && match s.diag.laneT.find? (fun e => e.1 == k) with
  | some e => decide (e.2 + (s.laneClock core).2 ≤ (s.laneClock core).1)
  | none => true

def laneInjectionEffect (core : RepCore) (checkpoint reported : Bool) (s : State) : State :=
  let k := repPoint core checkpoint
  let b := s.diag.laneB.contains k
  if !s.laneDue core k then s else
  let a := { s with diag := { s.diag with
    laneB := if b then s.diag.laneB.filter (fun x => x != k) else setInsert s.diag.laneB k,
    lanePos := mapSet 0 s.diag.lanePos k (mapGet 0 s.diag.lanePos k + 1), laneT := mapInsert s.diag.laneT k (s.laneClock core).1 } }
  if reported then a
  else
    let c := (a.logCompare core 2 (if b then 2 else 1)).bump Reg.SAF_LANE_FAIL_CNT
    match core with
    | .rind i => c.raise 0x97 { (DoubtInfo.plain 0x40) with inst := i.val }
    | _ => c.raise 0x88 { (DoubtInfo.plain 0xE) with inst := (repNumber core).2 }

/-- LANE_INJECTION: once in 50 ms one lane of a compare point, A and B in turn, is given a difference of one bit at the next position; a lane that does not report it
raises 0x88, on the Rind 0x97 (R382). -/
def execLaneInjection (core : RepCore) (checkpoint reported : Bool) (s : State) : Host.Outcome State Fault Refusal :=
  .next (s.onCore core (laneInjectionEffect core checkpoint reported))

/-! ### Journals (R383) -/

/-- The journal of the core that owns register k: Vats 0 to 7, loop engine 8, solver 9, planner 10, Rind 11. -/
def journalOf (k : Nat) : Option Nat :=
  let b := k / 0x100000
  if 0x20 ≤ b ∧ b ≤ 0x27 then some (b - 0x20)
  else if b = 9 then some 8
  else if b = 7 then some 9
  else if b = 8 then some 10
  else if 0x40 ≤ b ∧ b ≤ 0x42 then some 11
  else none

/-- The journal of a core. -/
def repJournal : RepCore → Nat
  | .vat v => v.val
  | .lane _ => 8
  | .solver => 9
  | .planner => 10
  | .rind _ => 11

/-- Cycles of the clock of a journal's core, and its LAG. -/
def State.coreClock (s : State) (j : Nat) : Nat × Nat :=
  if j < 8 then ((s.vat j).cyc, (s.vat j).lag)
  else if j = 8 then (s.lclk, 4)
  else if j < 11 then (s.fclk, 8)
  else (s.rclk, 4)

/-- A read of register k has a side effect in its core. -/
def readSideEffect (k : Nat) : Bool :=
  match rowAt k with
  | some r => (match r.acc with | .rc => true | .ra => true | _ => false)
  | none => false

/-- The journal of register k's core has room, where a read of k needs an entry. -/
def State.journalRoom (s : State) (k : Nat) : Bool :=
  match journalOf k with
  | some j => !readSideEffect k || decide ((mapGet [] s.diag.journals j).length < 16)
  | none => true

/-- A read of k by the observation port or the management processor enters the journal of its core. -/
def State.journalRead (s : State) (k : Nat) : State :=
  match journalOf k with
  | some j =>
    if readSideEffect k then
      let c := s.coreClock j
      { s with diag := { s.diag with journals := mapSet [] s.diag.journals j (mapGet [] s.diag.journals j ++ [(c.1 + c.2, k)]) } }
    else s
  | none => s

def journalApplyEffect (core : RepCore) (s : State) : State :=
  let j := repJournal core
  match mapGet [] s.diag.journals j with
  | e :: rest => if e.1 ≤ (s.coreClock j).1 then { s with diag := { s.diag with journals := mapSet [] s.diag.journals j rest } } else s
  | [] => s

/-- JOURNAL_APPLY: LAG cycles after a read with a side effect its effect reaches the checker copy, which the model holds as one with the main copy, and the
entry drains (R383). -/
def execJournalApply (core : RepCore) (s : State) : Host.Outcome State Fault Refusal := .next (s.onCore core (journalApplyEffect core))

/-! ### Tile checksums (04 R136) -/

/-- The TMM of a tile whose check is reported next: its last row became final at most 8 cycles ago. -/
def VatCore.checkedTmm (c : VatCore) (cyc tile : Nat) : Option (Nat × Nat × Nat × Bool) :=
  c.tmms.find? (fun e => e.1 == tile && decide (cyc ≤ e.2.1 + 8))

def arrayChecksumEffect (v : VatNo) (tile : TileNo) (mismatch : Bool) (s : State) : State :=
  match (s.vat v).core.checkedTmm (s.vat v).cyc tile with
  | none => s
  | some e =>
    let t := s.modCore v (fun c => { c with tmms := c.tmms.erase e })
    if !mismatch then t
    else
      let a := t.cmpLog 5 v.val tile.val 3 0
      if e.2.2.2 then a.raise 0x84 { (DoubtInfo.plain 0x20) with blk := 0x20 + v.val, vat := v.val, tile := tile.val, word := e.2.2.1 }
      else a.bump Reg.SAF_ARRAY_CNT

/-- ARRAY_CHECKSUM: the column sums of a TMM have been checked, mismatch saying what the multiplier cells gave; a mismatch is logged, and raises 0x84 for an
LC kernel or is counted, whatever has stopped the kernel since (04 R136). -/
def execArrayChecksum (v : VatNo) (tile : TileNo) (mismatch : Bool) (s : State) : Host.Outcome State Fault Refusal :=
  .next (s.onMain (arrayChecksumEffect v tile mismatch))

end Sys2Proof.Machine
end

