-- ==== Sys2Proof/Machine/Rind.lean ====
section
/-! DEFINITION. Doubt on its way to the Rind, qualification and clearing (01 R22; 15 R377, R379, R397), handback (R404), and the Rind's watchdogs and
supply monitors (R405, 19 R499). Times are RCLK cycles: 400 in 1 us. -/

namespace Sys2Proof.Machine

def State.modLine (s : State) (f : DoubtLine → DoubtLine) : State := { s with line := f s.line }
def State.modFbx (s : State) (f : Fbx → Fbx) : State := { s with fbx := f s.fbx }

/-! ### Doubt codes -/

def doubtCodeSendEffect (s : State) : State :=
  match s.line.toSend with
  | [] => s
  | c :: rest => s.modLine (fun l => { l with toSend := rest, bridge := l.bridge ++ [c] })

/-- DOUBT_CODE_SEND: the lowest newly latched code goes onto the bridge (15 R377). -/
def execDoubtCodeSend (s : State) : Host.Outcome State Fault Refusal := .next (s.onMain doubtCodeSendEffect)

def doubtCodeReceiveEffect (s : State) : State :=
  match s.line.bridge with
  | [] => s
  | c :: rest =>
    let a := (s.modLine (fun l => { l with bridge := rest, assertT := none })).rindFirst c
    a.bump (Reg.RIND_DOUBT_CNT (c - 0x80))

/-- DOUBT_CODE_RECEIVE: a code arrives at the Rind, which counts it and takes it as FIRST where it is the first it sees (01 R22, 15 R377, Table 15.9). -/
def execDoubtCodeReceive (s : State) : Host.Outcome State Fault Refusal := .next (doubtCodeReceiveEffect s)

def doubtCodeTimeoutEffect (s : State) : State :=
  match s.line.assertT with
  | some t => if t + 800 ≤ s.rclk then (s.modLine (fun l => { l with assertT := none })).raise 0x95 (DoubtInfo.plain 0x40) else s
  | none => s

/-- DOUBT_CODE_TIMEOUT: no code within 2 us of an assertion of the pair raises 0x95 (01 R22). -/
def execDoubtCodeTimeout (s : State) : Host.Outcome State Fault Refusal := .next (doubtCodeTimeoutEffect s)

/-! ### Qualification and clearing -/

def doubtQualifyEffect (s : State) : State :=
  if s.line.run < 4 ∨ s.line.qualified then s else (s.modLine (fun l => { l with qualified := true })).doubtActs 1

/-- DOUBT_QUALIFY: the pair has shown doubt in four consecutive RCLK cycles; MAIN is left by a takeover, a handback request is cancelled (15 R397, R398). -/
def execDoubtQualify (s : State) : Host.Outcome State Fault Refusal := .next (doubtQualifyEffect s)

def doubtGlitchEffect (s : State) : State :=
  if s.line.glitches = 0 then s else (s.modLine (fun l => { l with glitches := l.glitches - 1 })).bump Reg.RIND_GLITCH_CNT

/-- DOUBT_GLITCH: a pulse of fewer than four RCLK cycles is counted (15 R397). -/
def execDoubtGlitch (s : State) : Host.Outcome State Fault Refusal := .next (doubtGlitchEffect s)

/-- The pair shows no doubt once no HD bit is latched; with no bit on either die the next code seen is the first (15 R377, R379);
until step 2 of start-up ends it stays at 0, 0 (18 R483). -/
def State.settleDoubt (s : State) : State :=
  let a := if s.start.step ≤ 2 then s else s.modLine (fun l => { l with dlP := s.reg Reg.SAF_DOUBT != 0, dlN := s.reg Reg.SAF_DOUBT == 0 })
  (if a.noDoubtBits then a.modLine (fun l => { l with fresh := true }) else a).syncState

/-- W1C of a doubt register outside MAIN; in MAIN it is ignored and sets STATE (15 R379). -/
def State.clearDoubt (s : State) (rind : Bool) (v : Nat) : State :=
  let k := if rind then Reg.RIND_DOUBT else Reg.SAF_DOUBT
  if s.auth = .main then s.hwSetBit (errKey (k / 0x100000)) errState
  else (s.setReg k (s.cleared k (s.reg k) v)).settleDoubt

def doubtClearEffect (rind : Bool) (clear : BitVec 32) (s : State) : State := s.clearDoubt rind clear.toNat

/-- DOUBT_CLEAR: a W1C write of SAF_DOUBT or RIND_DOUBT (15 R379). -/
def execDoubtClear (rind : Bool) (clear : BitVec 32) (s : State) : Host.Outcome State Fault Refusal := .next (doubtClearEffect rind clear s)

/-! ### Watchdogs and supply (R405, R499) -/

def State.wdtPeriod (s : State) : Nat := s.regBits Reg.RIND_WDT_CFG 9 0 * 400000

/-- The heartbeat is current; the firmware watchdog is current. -/
def State.hbCurrent (s : State) : Bool := s.wd.hbArmed && decide (s.rclk ≤ s.wd.hbLast + 1600)
def State.wdtCurrent (s : State) : Bool := s.wd.kickArmed && decide (s.rclk ≤ s.wd.kickLast + s.wdtPeriod)

def hdHeartbeatEffect (s : State) : State :=
  if s.mainClk ∧ s.start.step ≠ 1 then { s with wd := { s.wd with hbLast := s.rclk, hbArmed := true } } else s

/-- HD_HEARTBEAT: HD's heartbeat arrives; without clocks and in reset it sends none (15 R405). -/
def execHdHeartbeat (s : State) : Host.Outcome State Fault Refusal := .next (hdHeartbeatEffect s)

def hdHeartbeatMissEffect (s : State) : State :=
  if s.wd.hbArmed ∧ s.wd.hbLast + 1600 ≤ s.rclk then ({ s with wd := { s.wd with hbArmed := false } }).raise 0x92 (DoubtInfo.plain 0x40) else s

/-- HD_HEARTBEAT_MISS: a gap of 4 us raises 0x92, once for each gap (15 R405). -/
def execHdHeartbeatMiss (s : State) : Host.Outcome State Fault Refusal := .next (hdHeartbeatMissEffect s)

def rindWdtKickEffect (v : BitVec 32) (s : State) : State :=
  let late := s.wd.kickArmed && decide (s.wd.kickLast + s.wdtPeriod < s.rclk)
  let s := { s with wd := { s.wd with kicked := true } }
  if v.toNat ≠ s.wd.kickExpect then s.raise 0x93 (DoubtInfo.plain 0x40)
  else
    let a := { s with wd := { s.wd with kickLast := s.rclk, kickExpect := 0xFFFFFFFF - s.wd.kickExpect, kickArmed := true } }
    if late then a.raise 0x93 (DoubtInfo.plain 0x40) else a

/-- RIND_WDT_KICK: the values 0x5A5A_5A5A and 0xA5A5_A5A5 in alternation; a wrong value or a late write raises 0x93 (15 R405). -/
def execRindWdtKick (v : BitVec 32) (s : State) : Host.Outcome State Fault Refusal := .next (rindWdtKickEffect v s)

def watchdogMissEffect (s : State) : State :=
  if s.wd.kickArmed ∧ s.wd.kickLast + s.wdtPeriod < s.rclk then ({ s with wd := { s.wd with kickArmed := false } }).raise 0x93 (DoubtInfo.plain 0x40) else s

/-- WATCHDOG_MISS: no kick within WDT_MS raises 0x93 (15 R405). -/
def execWatchdogMiss (s : State) : Host.Outcome State Fault Refusal := .next (watchdogMissEffect s)

def supplyLimitEffect (rails : BitVec 16) (s : State) : State :=
  let a := s.setReg Reg.RIND_SUPPLY rails.toNat
  if rails = 0 then a else a.raise 0x90 (DoubtInfo.plain 0x40)

/-- SUPPLY_LIMIT: the rails outside their range for 10 us show in RIND_SUPPLY and raise 0x90; none left shows 0 (19 R499). -/
def execSupplyLimit (rails : BitVec 16) (s : State) : Host.Outcome State Fault Refusal := .next (supplyLimitEffect rails s)

/-! ### Handback (R396, R404) -/

def fbxHbReqEffect (v : BitVec 32) (s : State) : State :=
  if v = 1 ∧ s.auth = .fallback ∧ s.safe = false then
    ({ s with auth := .handbackPending, fbx := { s.fbx with hbReqT := some s.rclk, hbGo := false, hbAcc := false } }).syncState
  else s

/-- FBX_HB_REQ: FALLBACK becomes HANDBACK_PENDING; in another state, and in SAFE, the group aborts (15 Table 15.5, R405). -/
def execFbxHbReq (v : BitVec 32) (s : State) : Host.Outcome State Fault Refusal := .next (fbxHbReqEffect v s)

def fbxHbGoEffect (v : BitVec 32) (s : State) : State :=
  if v = 1 ∧ s.auth = .handbackPending then s.modFbx (fun f => { f with hbGo := true }) else s

/-- FBX_HB_GO (15 R404). -/
def execFbxHbGo (v : BitVec 32) (s : State) : Host.Outcome State Fault Refusal := .next (fbxHbGoEffect v s)

/-- Axis a has been still for FBX_STILL_MS. -/
def State.axisStill (s : State) (a : Nat) : Bool :=
  match s.fbx.stillT.find? (fun e => e.1 == a) with
  | some e => decide (e.2 + s.regBits Reg.FBX_TIMES 31 16 * 400000 ≤ s.rclk)
  | none => false

/-- The four conditions of R404. -/
def State.handbackReady (s : State) : Bool :=
  s.noDoubtBits && !s.lineDoubt && (match s.fbx.clearT with | some t => decide (t + 400000 ≤ s.rclk) | none => false) &&
    s.fbx.hbAcc && s.hbCurrent && s.wdtCurrent && (bit (s.reg Reg.FBX_CFG) 0 || s.fbx.playSet.all s.axisStill)

def handbackCompleteEffect (s : State) : State :=
  if s.auth = .handbackPending ∧ s.fbx.hbGo ∧ s.handbackReady then
    ({ s with auth := .main, fbx := { s.fbx with
        active := (match s.fbx.pendingTrj with | some t => some t | none => s.fbx.active), pendingTrj := none, playing := false, deflt := false,
        endReached := false, estop := [], fbMiss := [], actqSw := false, lateFrom := s.rclk, hbReqT := none, hbGo := false, hbAcc := false,
        ethOut := [], ethSent := none } }).syncState
  else s

/-- HANDBACK_COMPLETE: after GO every condition of R404 holds: the authority is MAIN and the pending trajectory active; each port returns at its next gap. -/
def execHandbackComplete (s : State) : Host.Outcome State Fault Refusal := .next (handbackCompleteEffect s)

/-- HB_TO_MS after the request it is cancelled (15 Table 15.5). -/
def State.handbackLapse (s : State) : State :=
  match s.fbx.hbReqT with
  | some t =>
    if s.auth = .handbackPending ∧ t + s.regBits Reg.FBX_TIMES 47 32 * 400000 ≤ s.rclk then s.cancelHandback 3 else s
  | none => s

end Sys2Proof.Machine
end

