-- ==== Sys2Proof/Machine/Fallback.lean ====
section
/-! DEFINITION. The fallback executor (15 R399 to R403, R405): validation of trajectories, playback and tracking, command frames, Ethernet entries,
end actions, and the frames of SAFE. -/

namespace Sys2Proof.Machine

/-! ### The trajectory (R399, Table 15.7) -/

/-- The 16 KiB of the staging bank. -/
def State.stageBytes (s : State) (n : Nat) : List Byte := ((List.range ((n + 7) / 8)).flatMap (fun k => toLE 8 (mapGet 0 s.fbx.staging k))).take n

/-- Axis entry i of a trajectory with nk knots. -/
def trjAxis (l : List Byte) (nk i : Nat) : TrjAxis :=
  let o := 0x40 + i * (8 + 8 * nk)
  ⟨fieldLE l o 1, fieldLE l (o + 4) 4, (List.range nk).map (fun k => (fieldLE l (o + 8 + 8 * k) 4, fieldLE l (o + 12 + 8 * k) 4))⟩

/-- The Ethernet entries from offset o on: the entries, and the offset after them. -/
def trjEths (l : List Byte) : Nat → Nat → List TrjEth × Nat
  | 0, o => ([], o)
  | n + 1, o =>
    let len := fieldLE l (o + 8) 2
    let r := trjEths l n (o + 16 + (len + 7) / 8 * 8)
    (⟨fieldLE l o 4, fieldLE l (o + 4) 4, (l.drop (o + 16)).take len⟩ :: r.1, r.2)

/-- Consecutive elements rise. -/
def risingNats : List Nat → Bool
  | a :: b :: l => decide (a < b) && risingNats (b :: l)
  | _ => true
def ascendingNats : List Nat → Bool
  | a :: b :: l => decide (a ≤ b) && ascendingNats (b :: l)
  | _ => true

/-- The trajectory that LEN bytes spell. -/
def trjOf (l : List Byte) (t : Nat) : Trj :=
  let nk := fieldLE l 0x12 1
  let nax := fieldLE l 0x13 1
  ⟨fieldLE l 0xC 4, fieldLE l 0x10 2, nk, fieldLE l 0x15 1, fieldLE l 0x16 2, (List.range nax).map (trjAxis l nk),
    (trjEths l (fieldLE l 0x14 1) (0x40 + nax * (8 + 8 * nk))).1, t⟩

/-- Number of the first failed check of R399, 0 for none; a field outside Table 15.7 counts with the first check (DESIGN CHOICE, log entry 41). -/
def State.trjReject (s : State) (l : List Byte) : Nat :=
  let len := fieldLE l 4 4
  let t := trjOf l 0
  let mask := fieldLE l 0x18 8
  let axes := t.axes.map (fun (x : TrjAxis) => x.axis)
  let eths := trjEths l (fieldLE l 0x14 1) (0x40 + fieldLE l 0x13 1 * (8 + 8 * t.nk))
  let crcOk := fieldLE l 8 4 == crc32c (l.take 8 ++ List.replicate 4 0 ++ l.drop 12)
  let fields := decide (1 ≤ t.kdtMs) && decide (t.kdtMs ≤ 1000) && decide (2 ≤ t.nk) && decide (t.nk ≤ 32) && decide (fieldLE l 0x13 1 ≤ 64) &&
    decide (fieldLE l 0x14 1 ≤ 16) && decide (t.endAction ≤ 1) && ((l.drop 0x20).take 32).all (fun b => b == 0) &&
    eths.1.all (fun e => e.repeatUs == 0 || (decide (100 ≤ e.repeatUs) && decide (e.repeatUs ≤ 1000000)))
  let knotOk := fun (a : Nat) (k : Nat × Nat) =>
    decide (toInt 32 (s.reg (Reg.FBX_PMIN a)) ≤ toInt 32 k.1) && decide (toInt 32 k.1 ≤ toInt 32 (s.reg (Reg.FBX_PMAX a))) &&
      fle (fabs (BitVec.ofNat 32 k.2)) (BitVec.ofNat 32 (s.reg (Reg.FBX_VMAX a)))
  if fieldLE l 0 4 ≠ 0x46584231 ∨ len < 64 ∨ 16384 < len ∨ !crcOk ∨ !fields then 1
  else if fieldLE l 0x13 1 ≠ ((List.range 64).filter (fun a => bit mask a)).length ∨ mask &&& s.reg Reg.FBX_AXEN ≠ mask then 2
  else if !risingNats axes ∨ maskOf axes ≠ mask then 3
  else if !t.axes.all (fun x => x.knots.all (knotOk x.axis)) then 4
  else if !t.axes.all (fun x => (x.knots.getLastD (0, 1)).2 % 2 ^ 31 == 0) then 5
  else if !t.axes.all (fun x => isFinite32 (BitVec.ofNat 32 x.tff)) then 6
  else if !ascendingNats (eths.1.map (fun (e : TrjEth) => e.offsetMs)) ∨
      !eths.1.all (fun e => decide (e.offsetMs ≤ (t.nk - 1) * t.kdtMs) && decide (60 ≤ e.frame.length) && decide (e.frame.length ≤ 128)) then 7
  else if eths.2 ≠ len then 8
  else 0

/-- The staging bank is validated (R399). -/
def State.trjCommit (s : State) : State :=
  let len := min 16384 (fieldLE (s.stageBytes 8) 4 4)
  let l := s.stageBytes (max 64 len)
  let r := s.trjReject l
  if r ≠ 0 then
    ((s.modFbx (fun f => { f with reject := r })).bump Reg.FBX_REJ_CNT).postRd 1 (0x41 * 256 + 0xC3) (r + 2 ^ 32 * fieldLE l 0xC 4)
  else
    let t := trjOf l s.rclk
    let a := ((s.bump Reg.FBX_ACC_CNT).setReg Reg.FBX_ACC_T (s.rclk % 2 ^ 64)).modFbx (fun f => { f with lateFrom := s.rclk })
    if s.auth = .main then a.modFbx (fun f => { f with active := some t })
    else a.modFbx (fun f => { f with pendingTrj := some t, hbAcc := f.hbAcc || s.auth == .handbackPending })

def fbxTrjCommitEffect (v : BitVec 32) (s : State) : State := if v = 1 ∧ s.safe = false then s.trjCommit else s

/-- FBX_TRJ_COMMIT: 1 validates the staging bank; an accepted trajectory is active in MAIN and pending outside it, a rejected one leaves its reason and an
event (15 R399). -/
def execFbxTrjCommit (v : BitVec 32) (s : State) : Host.Outcome State Fault Refusal := .next (fbxTrjCommitEffect v s)

def fbxLateEffect (s : State) : State :=
  if s.auth = .main ∧ s.fbx.lateFrom + s.reg Reg.FBX_LATE_US * 400 ≤ s.rclk then s.raise 0x94 (DoubtInfo.plain 0x41) else s

/-- FBX_LATE: in MAIN no acceptance for FBX_LATE_US raises 0x94 (15 R400). -/
def execFbxLate (s : State) : Host.Outcome State Fault Refusal := .next (fbxLateEffect s)

/-! ### Playback (R400, R401) -/

/-- Trajectory time in RCLK cycles. -/
def State.tau (s : State) : Nat := s.fbx.tau0 + (s.rclk - s.fbx.t0)

/-- The cubic Hermite segment between two knots (POS, VEL) d RCLK cycles apart, x cycles after the first: position and velocity in FP64, each operation rounded, in the
order written here (DESIGN CHOICE, log entry 41; R401 names no order). -/
def hermite (p q : Nat × Nat) (x d : Nat) : Nat × Nat :=
  let f := Prec.double
  let n := fun (i : Int) => f.out (.fin (decide (i < 0)) i.natAbs 0)
  let sec := f.div (n d) (n 400000000)
  let p0 := n (toInt 32 p.1)
  let p1 := n (toInt 32 q.1)
  let m0 := f.mul sec (Prec.single.conv f p.2)
  let m1 := f.mul sec (Prec.single.conv f q.2)
  let s := f.div (n x) (n d)
  let s2 := f.mul s s
  let s3 := f.mul s2 s
  let h00 := f.add (f.sub (f.mul (n 2) s3) (f.mul (n 3) s2)) (n 1)
  let h10 := f.add (f.sub s3 (f.mul (n 2) s2)) s
  let h01 := f.sub (f.mul (n 3) s2) (f.mul (n 2) s3)
  let h11 := f.sub s3 s2
  let g00 := f.sub (f.mul (n 6) s2) (f.mul (n 6) s)
  let g10 := f.add (f.sub (f.mul (n 3) s2) (f.mul (n 4) s)) (n 1)
  let g01 := f.sub (f.mul (n 6) s) (f.mul (n 6) s2)
  let g11 := f.sub (f.mul (n 3) s2) (f.mul (n 2) s)
  let mix := fun (a b c e : Nat) => f.add (f.add (f.add (f.mul a p0) (f.mul b m0)) (f.mul c p1)) (f.mul e m1)
  (mix h00 h10 h01 h11, f.div (mix g00 g10 g01 g11) sec)

/-- Reference position, velocity and torque of an axis at time tau. -/
def State.fbxRef (s : State) (a : Nat) : Nat × W32 × W32 :=
  let hold := (mapGet 0 s.fbx.holdPos a, (0 : W32), (0 : W32))
  if s.fbx.deflt then hold
  else match s.fbx.active with
    | none => hold
    | some t =>
      match t.axes.find? (fun (x : TrjAxis) => x.axis == a) with
      | none => hold
      | some x =>
        let d := t.kdtMs * 400000
        let k := s.tau / (max 1 d)
        let tff := BitVec.ofNat 32 x.tff
        if t.nk ≤ k + 1 then ((x.knots.getLastD (0, 0)).1, 0, tff)
        else
          let p := x.knots.getD k (0, 0)
          let q := x.knots.getD (k + 1) (0, 0)
          let h := hermite p q (s.tau - k * d) d
          (ofInt 32 (toInt32 (Prec.double.val h.1)), BitVec.ofNat 32 (Prec.double.conv .single h.2), tff)

/-- iq of an axis from the last two samples (R401). -/
def State.fbxIq (s : State) (a : Nat) : W32 × W32 :=
  let g := fun (k : Nat) => BitVec.ofNat 32 (s.reg k)
  let pos := mapGet 0 s.fbx.pos a
  let dp := toInt 32 ((pos + 2 ^ 32 - mapGet 0 s.fbx.posPrev a) % 2 ^ 32)
  let vm := fmul (fofInt dp) (fofInt 20000)
  let r := s.fbxRef a
  let e := fofInt (toInt 32 ((r.1 + 2 ^ 32 - pos) % 2 ^ 32))
  let x := fadd (fadd (fmul (g (Reg.FBX_KPF a)) e) (fmul (g (Reg.FBX_KDF a)) (fsub r.2.1 vm))) (fmul (g (Reg.FBX_KTF a)) r.2.2)
  (fclamp x (g (Reg.FBX_IMAXF a)), vm)

/-- Every axis is sampled (R401). -/
def State.fbxSample (s : State) : State := s.modFbx (fun f => { f with posPrev := f.pos, pos := f.fbPos })

/-- Axis a of the playing set is computed. -/
def State.fbxAxis (s : State) (a : Nat) : State :=
  let r := s.fbxIq a
  let bad := !isFinite32 r.1
  let still := fle (fabs r.2) (BitVec.ofNat 32 (s.reg Reg.FBX_STILL_VEL))
  let b := s.modFbx (fun f => { f with
    iq := mapSet 0 f.iq a r.1.toNat, vmeas := mapSet 0 f.vmeas a r.2.toNat,
    nanAx := if bad then setInsert f.nanAx a else f.nanAx.filter (fun x => x != a),
    stillT := if still then (if f.stillT.any (fun e => e.1 == a) then f.stillT else f.stillT ++ [(a, s.rclk)]) else f.stillT.filter (fun e => e.1 != a) })
  if bad then b.bump Reg.FBX_NAN_CNT else b

def State.portEn (s : State) (p : Nat) : Bool := bit (s.reg Reg.FBX_CFG) (8 + p)

/-- A step of port p without feedback; at the fourth in a row the port is sent to ESTOP (R402). -/
def State.fbxMissPort (s : State) (p : Nat) : State :=
  if !s.portEn p then s
  else
    let n := if s.fbx.fbSeen.contains p then 0 else mapGet 0 s.fbx.fbMiss p + 1
    let a := s.modFbx (fun f => { f with fbMiss := mapSet 0 f.fbMiss p n })
    if 4 ≤ n ∧ !a.fbx.estop.contains p then (a.modFbx (fun f => { f with estop := setInsert f.estop p })).bump Reg.FBX_FBLOSS_CNT else a

def fbxTrackingStepEffect (s : State) : State :=
  if s.rclk < s.fbx.stepT ∨ s.safe then s
  else
    let a := s.fbxSample
    let b := if s.fbx.playing then (List.range 8).foldl State.fbxMissPort (s.fbx.playSet.foldl State.fbxAxis a) else a
    b.modFbx (fun f => { f with stepT := f.stepT + 20000, fbSeen := [] })

/-- FBX_TRACKING_STEP: every 50 us, and at once at a takeover, the feedback of every axis is sampled, and in playback each axis of the playing set takes a new
command (15 R401, R402). -/
def execFbxTrackingStep (s : State) : Host.Outcome State Fault Refusal := .next (fbxTrackingStepEffect s)

/-! ### Frames (R402, R405) -/

/-- A frame of the Rind: FLAGS, SEQ, WD, words. -/
def fbxFrame (flags seq wd : Nat) (words : List Nat) : List Byte :=
  let body := toLE 1 0xC1 ++ toLE 1 flags ++ toLE 2 seq ++ toLE 2 wd ++ words.flatMap (toLE 8)
  body ++ toLE 4 (crc32c body)

/-- Every port carries ESTOP: END_ACTION 1 past its end. -/
def State.endEstop (s : State) : Bool := s.fbx.endReached

/-- The command word of axis a. -/
def State.fbxWord (s : State) (a : Nat) : Nat :=
  if s.fbx.playing ∧ s.fbx.playSet.contains a ∧ !s.fbx.nanAx.contains a ∧ !s.fbx.estop.contains (a / 8) ∧ !s.endEstop then
    mapGet 0 s.fbx.iq a + 3 * 2 ^ 32
  else 0

/-- The main frame on port p has ended, or none can be on it. -/
def State.lineGap (s : State) (p : Nat) : Bool :=
  s.fbx.swPorts.contains p || !s.mainClk || (match (s.lport p).sof with | some t => decide (t + 152 ≤ s.lclk) | none => true)

def fbxCommandFrameEffect (p : Fin 8) (s : State) : State :=
  let per := s.regBits Reg.FBX_TX 15 0 * 40
  let fresh := !s.fbx.txT.any (fun e => e.1 == p.val)
  let due := fresh || decide (mapGet 0 s.fbx.txT p.val + per ≤ s.rclk)
  if s.auth = .main ∨ s.safe ∨ !s.portEn p.val ∨ !due ∨ !s.lineGap p.val ∨ (s.fbx.playing ∧ s.fbx.stepT ≤ s.fbx.t0) then s
  else
    let seq := mapGet 0 s.fbx.seq p.val
    let es := s.fbx.playing && (s.fbx.estop.contains p.val || s.endEstop)
    let f := fbxFrame (1 + 2 * b2n es) seq (s.regBits Reg.FBX_TX 31 16) ((List.range 8).map (fun j => s.fbxWord (8 * p.val + j)))
    s.modFbx (fun x => { x with
      swPorts := setInsert x.swPorts p.val, seq := mapSet 0 x.seq p.val ((seq + 1) % 65536), sent := mapSet [] x.sent p.val f,
      txT := mapInsert x.txT p.val s.rclk })

/-- FBX_COMMAND_FRAME: outside MAIN the executor sends a frame on each port of PORTEN every FB_TX_NS; its first one moves the port's switch at the end of a
main frame and after the first tracking step (15 R398, R402). -/
def execFbxCommandFrame (p : Fin 8) (s : State) : Host.Outcome State Fault Refusal := .next (fbxCommandFrameEffect p s)

/-- In SAFE a frame of port p is due: 10 us after the last one there, the first in a gap of the line. -/
def State.safeDue (s : State) (p : Nat) : Bool :=
  s.portEn p && (!s.fbx.txT.any (fun e => e.1 == p) || decide (mapGet 0 s.fbx.txT p + 4000 ≤ s.rclk)) && s.lineGap p

def safeFrameEffect (s : State) : State :=
  let ports := (List.range 8).filter s.safeDue
  if !s.safe ∨ ports = [] then s
  else
    let seq := (Config.freeWord s.free).toNat % 65536
    let f := fbxFrame 3 seq 40 (List.replicate 8 0)
    (s.modFbx (fun x => { x with
      swPorts := ports.foldl setInsert x.swPorts, sent := ports.foldl (fun m p => mapSet [] m p f) x.sent,
      txT := ports.foldl (fun m p => mapInsert m p s.rclk) x.txT })).useFrees 1

/-- SAFE_FRAME: in SAFE a generator sends ESTOP frames on every port of PORTEN every 10 us (15 R405), on the ports that are due now; each port's first one waits for a gap
of its line (12 R333). Their SEQ is not stated: a free value. -/
def execSafeFrame (s : State) : Host.Outcome State Fault Refusal := .next (safeFrameEffect s)

/-! ### Ethernet entries and end actions (R400, R402, R403) -/

/-- The last entry whose offset tau has reached. -/
def State.ethEntry (s : State) : Option Nat :=
  match s.fbx.active with
  | some t => ((List.range t.eth.length).filter (fun i => match t.eth[i]? with | some e => decide (e.offsetMs * 400000 ≤ s.tau) | none => false)).getLast?
  | none => none

/-- A frame goes to the actuator queue. -/
def State.ethSend (s : State) (i : Nat) (f : List Byte) : State :=
  s.modFbx (fun x => { x with ethOut := x.ethOut ++ [f], ethSent := some i, ethLastT := s.rclk })

/-- The default frame of FBX_DEF_ETH. -/
def State.defFrame (s : State) : List Byte :=
  ((List.range 16).flatMap (fun i => toLE 8 (s.reg (Reg.FBX_DEF_ETH i)))).take (s.regBits Reg.FBX_DEF_CFG 7 0 + 60)

def fbxEthSendEffect (s : State) : State :=
  if !s.fbx.playing ∨ s.safe ∨ !bit (s.reg Reg.FBX_CFG) 16 then s
  else if s.fbx.deflt then
    if s.fbx.ethSent = none ∨ s.fbx.ethLastT + s.regBits Reg.FBX_DEF_CFG 31 8 * 400 ≤ s.rclk then s.ethSend 0 s.defFrame else s
  else
    match s.fbx.active, s.ethEntry with
    | some t, some last =>
      let next := match s.fbx.ethSent with | none => last | some i => if i < last then i + 1 else i
      match t.eth[next]? with
      | none => s
      | some e =>
        if s.fbx.ethSent ≠ some next then s.ethSend next e.frame
        else if e.repeatUs ≠ 0 ∧ s.fbx.ethLastT + e.repeatUs * 400 ≤ s.rclk then s.ethSend next e.frame
        else s
    | _, _ => s

/-- FBX_ETH_SEND: at t0 the entry with the largest offset reached, then each entry at its offset, the last one repeated every REPEAT_US; in the default
profile the default frame every DEF_REP_US (15 R400, R402). -/
def execFbxEthSend (s : State) : Host.Outcome State Fault Refusal := .next (fbxEthSendEffect s)

def fbxEndActionEffect (s : State) : State :=
  if !s.fbx.playing ∨ s.safe then s
  else if s.fbx.deflt then
    if s.fbx.t0 + s.regBits Reg.FBX_DEF_CFG 47 32 * 400000 ≤ s.rclk then s.modFbx (fun f => { f with estop := (List.range 8).foldl setInsert f.estop }) else s
  else
    match s.fbx.active with
    | some t =>
      if t.endAction = 1 ∧ ((t.nk - 1) * t.kdtMs + t.endHoldMs) * 400000 ≤ s.tau then s.modFbx (fun f => { f with endReached := true }) else s
    | none => s

/-- FBX_END_ACTION: END_HOLD_MS past the last knot with END_ACTION 1, or DEF_HOLD_MS into the default profile, every port carries ESTOP frames (15 R400,
R403). -/
def execFbxEndAction (s : State) : Host.Outcome State Fault Refusal := .next (fbxEndActionEffect s)

end Sys2Proof.Machine
end

