-- ==== Sys2Proof/Machine/Client.lean ====
section
/-! DEFINITION. Reads, writes and completion operations of the hub clients (ingest, fusion, solver, planner) for their jobs: range checks
(05 R163), error marks (05 R160), image reads (05 R152) and path ownership (02 R53). -/

namespace Sys2Proof.Machine

/-- The block of a unit that reads for jobs (01 Table 1.12): ingest, fusion, solver, planner. -/
def clientBlock : Initiator → Nat
  | .ingest => 4
  | .fusion => 5
  | .solver => 7
  | .planner => 8
  | _ => 0

/-- What a read for a job brings: bytes, a status that ends the job, or nothing yet. -/
inductive Got where
  | bytes (l : List Byte)
  | fail (status : Nat)
  | wait

/-- The key under which ended image reads of an initiator lie. -/
def arrivedKey (i : Initiator) : Nat := 100 + clientOf i

/-- One part of an image read: what has arrived, what is resident, or a held read, entered once. -/
def State.fetchPart (s : State) (i : Initiator) (p a n : Nat) (dl : Option Nat) : State × Got :=
  match s.mig.arrived.find? (fun x => x.1 == arrivedKey i && x.2.1 == a) with
  | some x => (s, if x.2.2.1 = stDone then .bytes x.2.2.2 else .fail x.2.2.1)
  | none =>
    if s.mig.held.any (fun h => h.who == .client (clientOf i) && h.addr == a && h.len == n) then (s, .wait)
    else
      let r := s.readPart (.client (clientOf i)) i p a n dl
      match r.2 with
      | some l => (r.1, .bytes l)
      | none => (r.1, .wait)

/-- Parts joined: a failure ends the read, a part that waits makes it wait. -/
def Got.join : Got → Got → Got
  | .fail c, _ => .fail c
  | _, .fail c => .fail c
  | .wait, _ => .wait
  | _, .wait => .wait
  | .bytes a, .bytes b => .bytes (a ++ b)

/-- The bytes that came, and the status of a read that failed. -/
def Got.data : Got → List Byte
  | .bytes l => l
  | _ => []
def Got.code : Got → List Nat
  | .fail c => [c]
  | _ => []
def Got.waits : Got → Bool
  | .wait => true
  | _ => false

/-- n bytes at a for a job of partition p: BAD_ARG where refused, TIER_FAULT where uncorrectable (09 R270, 10 R290), bytes, or a wait for a page of the
image range. -/
def State.fetch (s : State) (i : Initiator) (p a n : Nat) (dl : Option Nat) : State × Got :=
  if n = 0 then (s, .bytes [])
  else if !s.admits i (some p) .r a n ∨ (regionOf a = .image ∧ !s.imageMapped i a n) then (s.refuse i (some p) .r a, .fail stBadArg)
  else if regionOf a = .image then
    let r := (imageParts a n).foldl (fun (u : State × Got) x =>
      let t := u.1.fetchPart i p x.1 x.2 dl
      (t.1, u.2.join t.2)) (s, .bytes [])
    match r.2 with
    | .wait => r
    | g => ((r.1.actHub p a n).modMig (fun m => { m with arrived := m.arrived.filter (fun x => !(x.1 == arrivedKey i && decide (a ≤ x.2.1) && decide (x.2.1 < a + n))) }), g)
  else
    let t := (s.eccRead a n p (DoubtInfo.plain (clientBlock i))).actHub p a n
    (t, if s.poisoned a n then .fail stTierFault else .bytes (s.readBytes a n))

/-- The initiator owns the path of an access it is admitted to; a refused access needs none, and the reads of a group that a table switch carries wait for none. -/
def State.mayGo (s : State) (i : Initiator) (p : Nat) (k : Want) (a n : Nat) : Bool :=
  s.mig.urgent || !s.admits i (some p) k a n || regionOf a == .image || s.owns i (pathRows i (extentRegion a n) (k == .r))

/-- What job j of an initiator has already read of n bytes at a. -/
def State.inboxOf (s : State) (i : Initiator) (j a n : Nat) : Option Got :=
  (s.mig.inbox.find? (fun x => x.client == clientOf i && x.job == j && x.addr == a && x.len == n)).map (fun x =>
    if x.status = stDone then .bytes x.data else .fail x.status)

/-- A read that has ended is kept for its job; one that waits is noted. -/
def State.keepRead (u : State × Got) (i : Initiator) (j a n : Nat) : State × Got :=
  (match u.2 with
    | .bytes l => u.1.modMig (fun m => { m with inbox := m.inbox ++ [⟨clientOf i, j, a, n, stDone, l⟩] })
    | .fail c => u.1.modMig (fun m => { m with inbox := m.inbox ++ [⟨clientOf i, j, a, n, c, []⟩] })
    | .wait => u.1.modMig (fun m => { m with waits := true }), u.2)

/-- n bytes at a for job j, read once: it waits for its path (02 R53) or its page, and what has come is kept until the job ends. -/
def State.gather (s : State) (i : Initiator) (j p a n : Nat) (dl : Option Nat) : State × Got :=
  if n = 0 then (s, .bytes [])
  else match s.inboxOf i j a n with
  | some g => (s, g)
  | none => State.keepRead (if s.mayGo i p .r a n then s.fetch i p a n dl else (s, .wait)) i j a n

/-- The sync cell at a, read for partition p under its S permission (DEDUCED, log entry 36); none where refused. -/
def State.cellRead (s : State) (i : Initiator) (p a : Nat) : Option Nat := if s.admits i (some p) .s a 8 then some (s.cellAt a) else none

/-- The sync cell at a for job j, read once under the S permission of partition p (the reach of Table 1.11 gives these units sync cells by S alone: DEDUCED, log entry
36) as 8 bytes; BAD_ARG where refused. -/
def State.gatherCell (s : State) (i : Initiator) (j p a : Nat) : State × Got :=
  match s.inboxOf i j a 8 with
  | some g => (s, g)
  | none =>
    State.keepRead (if !s.admits i (some p) .s a 8 then (s.refuse i (some p) .s a, .fail stBadArg)
      else if s.owns i (pathRows i (regionOf a) true) then
        (s.eccRead a 8 p (DoubtInfo.plain (clientBlock i)), if s.poisoned a 8 then .fail stTierFault else .bytes (toLE 8 (s.cellAt a)))
      else (s, .wait)) i j a 8

/-- Job j of an initiator has ended: what it read is given up. -/
def State.dropReads (s : State) (i : Initiator) (j : Nat) : State :=
  s.modMig (fun m => { m with inbox := m.inbox.filter (fun x => !(x.client == clientOf i && x.job == j)) })

/-- Bytes written for a job of partition p; false where refused, memory unchanged. -/
def State.deliver (s : State) (i : Initiator) (p a : Nat) (l : List Byte) : State × Bool :=
  if l.isEmpty then (s, true)
  else if s.admits i (some p) .w a l.length then (((s.mend a l.length).store a l).actHub p a l.length, true)
  else (s.refuse i (some p) .w a, false)

/-- A completion operation on a cell for partition p: 1 for DONE, 1 and the failure count otherwise (09 R250); refused where the checks refuse it, and waiting for its
path. -/
def State.complete (s : State) (i : Initiator) (p cell status : Nat) : State :=
  s.postCell i p cell (.add (BitVec.ofNat 64 (completionValue status)))

end Sys2Proof.Machine
end

