-- ==== Sys2Proof/Machine/Ingest.lean ====
section
/-! DEFINITION. Sensor ingest (09 R243 to R253): matching of received units, stamps, the staging buffer, sample rings, frozen frames. -/

namespace Sys2Proof.Machine

def State.ctx (s : State) (c : Nat) : IngCtx := s.ing.getD c IngCtx.reset
def State.modCtx (s : State) (c : Nat) (f : IngCtx → IngCtx) : State := { s with ing := listModify f s.ing c }

/-- Fields of ING_CTX_CFGc (Table 9.10) and FILTc (Table 9.11). -/
def State.ctxCfg (s : State) (c : Nat) : Nat := s.reg (Reg.ING_CTX_CFG c)
def State.ctxValid (s : State) (c : Nat) : Bool := bit (s.ctxCfg c) 63
def State.ctxKind (s : State) (c : Nat) : Nat := bits (s.ctxCfg c) 1 0
def State.ctxPort (s : State) (c : Nat) : Nat := bits (s.ctxCfg c) 3 2
def State.ctxPart (s : State) (c : Nat) : Nat := bits (s.ctxCfg c) 11 8
def State.ctxSafety (s : State) (c : Nat) : Bool := bit (s.ctxCfg c) 7
def State.filt (s : State) (c hi lo : Nat) : Nat := s.regBits (Reg.ING_CTX_FILT c) hi lo
/-- EXP_OFS and LAT in ns, LIM in ns. -/
def State.expOfs (s : State) (c : Nat) : Int := toInt 32 (s.regBits (Reg.ING_CTX_TIME c) 31 0)
def State.lat (s : State) (c : Nat) : Int := (s.regBits (Reg.ING_CTX_TIME c) 63 32 : Nat)
def State.period (s : State) (c : Nat) : Int := (s.regBits (Reg.ING_CTX_LIM c) 19 0 * 1000 : Nat)
def State.horizon (s : State) (c : Nat) : Int := (s.regBits (Reg.ING_CTX_LIM c) 39 20 * 1000 : Nat)
def State.lateMax (s : State) (c : Nat) : Int := (s.regBits (Reg.ING_CTX_LIM c) 59 40 * 1000 : Nat)
/-- Ring geometry; address 0 is no ring (R249). -/
def State.ringAddr (s : State) (c : Nat) : Nat := s.regBits (Reg.ING_CTX_RING c) 47 0
def State.slotLog (s : State) (c : Nat) : Nat := s.regBits (Reg.ING_CTX_RING c) 52 48
def State.ringCount (s : State) (c : Nat) : Nat := s.regBits (Reg.ING_CTX_RING c) 60 53 + 1

/-- The contexts whose VALID is 1 and that satisfy ok, lowest first (R245). -/
def State.matching (s : State) (ok : Nat → Bool) : List Nat := (List.range 96).filter (fun c => s.ctxValid c && ok c)

/-! ### The staging buffer (R251) -/

/-- Bytes of one context in the staging buffer; a context without a ring stages nothing. -/
def IngCtx.staged (x : IngCtx) : Nat :=
  (match x.cur with | some o => o.left | none => 0) + (x.ended.map (fun o => o.left)).sum

/-- Bytes in the staging buffer. -/
def State.staged (s : State) : Nat := (s.ing.map IngCtx.staged).sum

/-- Size of the staging buffer. -/
def stagingSize : Nat := 0x100000

/-- The highest occupancy in KiB, rounded up (DEDUCED, log entry 34). -/
def State.noteHwm (s : State) : State :=
  let k := cdiv s.staged 1024
  if s.reg Reg.ING_STAGE_HWM < k then s.setReg Reg.ING_STAGE_HWM k else s

/-- Bytes l arrive for the sample in progress of context c; once a byte has found the buffer full the rest of the sample is discarded. -/
def State.stage (s : State) (c : Nat) (emb : Bool) (l : List Byte) : State :=
  match (s.ctx c).cur with
  | none => s
  | some o =>
    let ring := s.ringAddr c != 0
    let room := if o.full then 0 else if ring then stagingSize - s.staged else l.length
    let kept := l.take room
    let o1 := { o with
      arrive := s.nowNs, full := o.full || decide (kept.length < l.length), left := o.left + (if ring then kept.length else 0) }
    let o2 := if emb then { o1 with emb := o1.emb ++ kept } else { o1 with data := o1.data ++ kept }
    (s.modCtx c (fun x => { x with cur := some o2 })).noteHwm

/-- Client 0x9 owns the path to the ring of context c in the present sub-slot. -/
def State.ringOwned (s : State) (c : Nat) : Bool := s.owns .ingest (pathRows .ingest (regionOf (s.ringAddr c)) false)

/-- Bytes the path to a ring takes in one FCLK cycle (02 Table 2.8). -/
def ringRate (a : Nat) : Nat := match regionOf a with | .pond _ => 512 | .grid => 500 | _ => 1000

/-- One FCLK cycle of draining: the first staged bytes whose path is owned go, ended samples before the one in progress. The payload becomes visible
with its record (DESIGN CHOICE, log entry 34). -/
def drainSamples (r : Nat) : List IngSample → List IngSample
  | [] => []
  | o :: l => if 0 < o.left then { o with left := o.left - r } :: l else o :: drainSamples r l

def IngCtx.drain (r : Nat) (x : IngCtx) : IngCtx :=
  if x.ended.any (fun o => decide (0 < o.left)) then { x with ended := drainSamples r x.ended }
  else match x.cur with
    | some o => { x with cur := some { o with left := o.left - r } }
    | none => x

def State.ingestCycle (s : State) : State :=
  match (List.range 96).find? (fun c => decide (0 < (s.ctx c).staged) && s.ringOwned c) with
  | some c => s.modCtx c (IngCtx.drain (ringRate (s.ringAddr c)))
  | none => s

/-! ### Samples -/

/-- A sample of context c opens with a stamp. -/
def State.openSample (s : State) (c : Nat) (stamp : Int) : State :=
  let o : IngSample :=
    { stamp := stamp, arrive := s.nowNs, emb := [], data := [], frames := 0, fault := false, full := false, left := 0, checked := none }
  s.modCtx c (fun x => { x with cur := some o })

/-- The sample in progress of context c ends; a VALID that was cleared meanwhile clears (R246). -/
def State.closeSample (s : State) (c : Nat) : State :=
  match (s.ctx c).cur with
  | none => s
  | some o =>
    let a := s.modCtx c (fun x => { x with cur := none, ended := x.ended ++ [o], closing := false })
    if (s.ctx c).closing then a.setReg (Reg.ING_CTX_CFG c) (putBit (a.ctxCfg c) 63 false) else a

/-- A link error discards a unit or fails its sample (R244). -/
def State.linkErr (s : State) : State := s.bump Reg.ING_LINK_ERR_CNT

/-! ### CSI-2 (R244, R245, R247) -/

/-- The camera contexts of a receiver's virtual channel. -/
def State.cameras (s : State) (rx vc : Nat) : List Nat :=
  s.matching (fun c => s.ctxKind c == 0 && s.filt c 26 24 == rx && s.filt c 3 0 == vc)

/-- A receiver that takes a packet header is synchronised (Table 9.9). -/
def State.csiSync (s : State) (rx : Nat) : State := s.setRegBits Reg.ING_STATUS rx rx 1

def csiFrameStartEffect (rx : Fin 8) (vc : Fin 16) (bad : Bool) (s : State) : State :=
  if !bit (s.reg (Reg.ING_CSI_CFG rx.val)) 0 then s
  else if bad then s.linkErr
  else (s.cameras rx.val vc.val).foldl (fun t c =>
    let u := t.closeSample c
    if u.ctxValid c then (u.openSample c (u.nowNs - (Config.csiLatency rx.val : Int) + u.expOfs c)).harpFrameStart c else u) (s.csiSync rx.val)

/-- CSI_FRAME_START: a frame-start packet opens a sample in the camera contexts of its virtual channel, stamped less the fixed receiver latency (R245,
R247); a sample still open ends (DEDUCED, log entry 34). -/
def execCsiFrameStart (rx : Fin 8) (vc : Fin 16) (bad : Bool) (s : State) : Host.Outcome State Fault Refusal :=
  .next (s.onMain (csiFrameStartEffect rx vc bad))

def csiPacketEffect (rx : Fin 8) (vc : Fin 16) (dt : Fin 64) (bad crcBad : Bool) (data : List Byte) (s : State) : State :=
  if !bit (s.reg (Reg.ING_CSI_CFG rx.val)) 0 then s
  else if bad then s.linkErr
  else
    let t := if crcBad then (s.csiSync rx.val).linkErr else s.csiSync rx.val
    match (s.cameras rx.val vc.val).find? (fun c => s.filt c 13 8 == dt.val || (s.filt c 21 16 == dt.val && dt.val != 0)) with
    | none => t.bump Reg.ING_NOMATCH_CNT
    | some c =>
      let emb := s.filt c 13 8 != dt.val
      let a := t.stage c emb data
      let b := if crcBad then a.modCtx c (fun x => { x with cur := x.cur.map (fun o => { o with fault := true }) }) else a
      if emb then b else b.harpLine c data

/-- CSI_PACKET: a long packet is staged for the lowest context that matches it; a header error discards it, a CRC error fails its sample (R244, R245,
R251). -/
def execCsiPacket (rx : Fin 8) (vc : Fin 16) (dt : Fin 64) (bad crcBad : Bool) (data : List Byte) (s : State) :
    Host.Outcome State Fault Refusal := .next (s.onMain (csiPacketEffect rx vc dt bad crcBad data))

def csiFrameEndEffect (rx : Fin 8) (vc : Fin 16) (bad : Bool) (s : State) : State :=
  if !bit (s.reg (Reg.ING_CSI_CFG rx.val)) 0 then s
  else if bad then s.linkErr
  else (s.cameras rx.val vc.val).foldl (fun t c => (t.closeSample c).harpFrameStop c) (s.csiSync rx.val)

/-- CSI_FRAME_END: the samples of the virtual channel end (R245). -/
def execCsiFrameEnd (rx : Fin 8) (vc : Fin 16) (bad : Bool) (s : State) : Host.Outcome State Fault Refusal :=
  .next (s.onMain (csiFrameEndEffect rx vc bad))

/-! ### Ethernet (R243, R245, R247, 13 R344) -/

/-- A parsed frame: VLAN ID, EtherType, the bytes after it. -/
def ethParse (l : List Byte) : Option Nat × Nat × List Byte :=
  let t := fromBE ((l.drop 12).take 2)
  if t = 0x8100 then (some (fromBE ((l.drop 14).take 2) % 4096), fromBE ((l.drop 16).take 2), l.drop 18) else (none, t, l.drop 14)

/-- The payload after an IPv4 header without options and a UDP header to the port; none where the frame is another. -/
def udpPayload (port : Nat) (l : List Byte) : Option (List Byte) :=
  if fromBE (l.take 1) = 0x45 ∧ fromBE ((l.drop 6).take 2) % 0x4000 = 0 ∧ fromBE ((l.drop 9).take 1) = 17 ∧
      fromBE ((l.drop 22).take 2) = port then some (l.drop 28) else none

/-- The payload of a frame for context c, where it matches. -/
def State.ethPayload (s : State) (c : Nat) (l : List Byte) : Option (List Byte) :=
  let p := ethParse l
  if s.filt c 15 0 ≠ p.2.1 ∨ (s.filt c 44 44 = 1 ∧ p.1 ≠ some (s.filt c 43 32)) then none
  else if s.filt c 31 16 = 0 then some p.2.2
  else if p.2.1 = 0x800 then udpPayload (s.filt c 31 16) p.2.2 else none

/-- The time a payload carries at PT_OFS in PT_FMT, in the domain (13 R344); the bytes missing from a short payload are free values, log entry 4. -/
def State.payloadTime (s : State) (c : Nat) (l : List Byte) : Int :=
  let k := s.reg (Reg.ING_CTX_CNT c)
  let raw := (l.drop (bits k 55 32)).take 10
  let b := raw ++ (List.range 10).map (fun i => (Config.freeWord (s.free + i)).setWidth 8)
  let f := bits k 57 56
  if f = 0 then (fromBE (b.take 6) * 1000000000 + fromBE ((b.drop 6).take 4) : Nat)
  else if f = 1 then (fromBE (b.take 8) : Nat) else (fromLE (b.take 8) : Nat)

/-- STAMP of a sample whose first frame has payload l and start-frame delimiter at sfd. -/
def State.ethStamp (s : State) (c : Nat) (sfd : Int) (l : List Byte) : Int :=
  if bit (s.ctxCfg c) 4 then sfd + s.expOfs c
  else toInt 64 (ofInt 64 (s.payloadTime c l + toInt 64 (s.reg Reg.TB_DOMAIN_OFS) + s.expOfs c))

/-- The frame is a PTP event message: EtherType 0x88F7, or UDP over IPv4 to port 319 or 320. -/
def isPtp (l : List Byte) : Bool :=
  let p := ethParse l
  p.2.1 == 0x88F7 || (p.2.1 == 0x800 && ((udpPayload 319 p.2.2).isSome || (udpPayload 320 p.2.2).isSome))

/-- Port m is enabled (13 Table 13.6). -/
def State.tpEn (s : State) (m : Nat) : Bool := bit (s.reg (Reg.TSN_PCFG m)) 0

def ethRxFrameEffect (mac : Fin 4) (sfd : Int) (bad : Bool) (frame : List Byte) (s : State) : State :=
  if !s.tpEn mac.val then s
  else if bad then s.linkErr
  else if isPtp frame ∨ (ethParse frame).2.1 = 0x8808 then s.bump (Reg.TSN_RX_CNT mac.val)
  else
    let s := s.bump (Reg.TSN_RX_CNT mac.val)
    match (s.matching (fun c => s.ctxKind c == 1 && s.ctxPort c == mac.val)).findSome? (fun c => (s.ethPayload c frame).map (fun l => (c, l))) with
    | none => s.bump Reg.ING_NOMATCH_CNT
    | some (c, l) =>
      let a := if (s.ctx c).cur.isSome then s else (s.openSample c (s.ethStamp c sfd l)).useFrees 10
      let b := (a.stage c false l).modCtx c (fun x => { x with cur := x.cur.map (fun o => { o with frames := o.frames + 1 }) })
      match (b.ctx c).cur with
      | some o => if s.filt c 56 45 + 1 ≤ o.frames then b.closeSample c else b
      | none => b

/-- ETH_RX_FRAME: a received frame joins the sample of the lowest context that matches it, stamped if it is the first; AGG frames make a sample. A bad
frame never reaches ingest and is counted; a PTP frame (13 R346) and a PAUSE frame (13 R345) do not reach it either (R244, R245, R247). -/
def execEthRxFrame (mac : Fin 4) (sfd : Int) (bad : Bool) (frame : List Byte) (s : State) : Host.Outcome State Fault Refusal :=
  .next (s.onMain (ethRxFrameEffect mac sfd bad frame))

/-! ### SPI and CAN (R245, R247) -/

/-- The SPI context of a chip select. -/
def State.spiCtx (s : State) (m cs : Nat) : Option Nat :=
  (s.matching (fun c => s.ctxKind c == 2 && s.ctxPort c == m && s.filt c 45 44 == cs)).head?

def spiTriggerEffect (m cs : Fin 4) (s : State) : State :=
  match s.spiCtx m.val cs.val with
  | none => s
  | some c =>
    if s.filt c 56 56 = 0 then (if (s.ctx c).cur.isSome then s else s.openSample c (s.nowNs + s.expOfs c))
    else if !s.reached (s.ctx c).instant then s
    else
      let t := s.modCtx c (fun x => { x with instant := x.instant + max 1 (s.period c) })
      if (s.ctx c).cur.isSome then t else t.openSample c ((s.ctx c).instant + s.expOfs c)

/-- SPI_TRIGGER: a data-ready edge, or with TRIG 1 the period instant when it has come, stamps a sample and starts its transfer (R243, R247); one that comes during a
transfer starts none (DEDUCED, log entry 34). -/
def execSpiTrigger (m cs : Fin 4) (s : State) : Host.Outcome State Fault Refusal := .next (s.onMain (spiTriggerEffect m cs))

def spiTransferEndEffect (m cs : Fin 4) (data : List Byte) (s : State) : State :=
  match s.spiCtx m.val cs.val with
  | none => s.bump Reg.ING_NOMATCH_CNT
  | some c => if (s.ctx c).cur.isSome then (s.stage c false (data.take (s.filt c 43 35 + 1))).closeSample c else s

/-- SPI_TRANSFER_END: the RXLEN bytes read make one sample (R245). -/
def execSpiTransferEnd (m cs : Fin 4) (data : List Byte) (s : State) : Host.Outcome State Fault Refusal :=
  .next (s.onMain (spiTransferEndEffect m cs data))

/-- The controller receives frames of the format, 1 CC, 2 FD, 3 XL. -/
def State.canTakes (s : State) (n f : Nat) : Bool :=
  let c := s.reg (Reg.ING_CAN_CFG n)
  bit c 34 && (f == 1 || (f == 2 && bit c 32) || (f == 3 && bit c 33))

/-- Context c matches a CAN frame. -/
def State.canMatch (s : State) (c n ident f : Nat) : Bool :=
  s.ctxKind c == 3 && s.ctxPort c == n && (ident ^^^ s.filt c 28 0) &&& s.filt c 57 29 == 0 &&
    (s.filt c 59 58 == 0 || s.filt c 59 58 == f)

def canRxFrameEffect (n : Fin 2) (sof : Int) (ident : BitVec 29) (format : Fin 4) (bad : Bool) (data : List Byte) (s : State) : State :=
  if !bit (s.reg (Reg.ING_CAN_CFG n.val)) 34 then s
  else if bad ∨ !s.canTakes n.val format.val then s.linkErr
  else
    match (s.matching (fun c => s.canMatch c n.val ident.toNat format.val)).head? with
    | none => s.bump Reg.ING_NOMATCH_CNT
    | some c => ((s.openSample c (sof + s.expOfs c)).stage c false data).closeSample c

/-- CAN_RX_FRAME: a received frame makes one sample of the lowest context that matches it; a frame with an error is discarded (R244, R245, R247). -/
def execCanRxFrame (n : Fin 2) (sof : Int) (ident : BitVec 29) (format : Fin 4) (bad : Bool) (data : List Byte) (s : State) :
    Host.Outcome State Fault Refusal := .next (s.onMain (canRxFrameEffect n sof ident format bad data))

/-! ### The end of a sample (R249 to R253) -/

/-- Payload of a sample: embedded packets first (R245). -/
def IngSample.payload (o : IngSample) : List Byte := o.emb ++ o.data

/-- Width in bytes and offset of the embedded counter. -/
def State.cntBytes (s : State) (c : Nat) : Nat := 2 ^ min 2 (s.regBits (Reg.ING_CTX_CNT c) 25 24)
def State.cntOfs (s : State) (c : Nat) : Nat := s.regBits (Reg.ING_CTX_CNT c) 23 0

/-- The embedded counter of a payload; of one too short to hold it a free value, log entry 4. -/
def State.counterOf (s : State) (c : Nat) (l : List Byte) : Nat :=
  let w := s.cntBytes c
  let b := (l.drop (s.cntOfs c)).take w
  if b.length < w then (Config.freeWord s.free).toNat % 2 ^ (8 * w)
  else if bit (s.reg (Reg.ING_CTX_CNT c)) 26 then fromBE b else fromLE b

/-- The payload with the bytes of the counter field taken as 0 (R252). -/
def State.hashInput (s : State) (c : Nat) (l : List Byte) : List Byte :=
  if bit (s.ctxCfg c) 6 then
    let o := s.cntOfs c
    l.take o ++ ((l.drop o).take (s.cntBytes c)).map (fun _ => 0) ++ l.drop (o + s.cntBytes c)
  else l

/-- The slot of sample q in the ring of context c, and the most payload it takes. -/
def State.ringSlot (s : State) (c q : Nat) : Nat := s.ringAddr c + 2 ^ s.slotLog c * (q % s.ringCount c)
def State.slotRoom (s : State) (c : Nat) : Nat := 2 ^ s.slotLog c - 64

/-- The checks of a sample that has ended: status, FLAGS, SEQ, HASH, EMB, with their counters, the frozen-frame doubt and the entry for acceptance. The
status of a sample with several failures is the first of TIER_FAULT, NO_SPACE, BAD_ARG (DEDUCED, log entry 34). -/
def State.checkSample (s : State) (c : Nat) (o : IngSample) : State × (Nat × Nat × Nat × Nat × Nat) :=
  let x := s.ctx c
  let cfg := s.ctxCfg c
  let l := o.payload
  let q := x.seq
  let hash := if bit cfg 5 then crc64 (s.hashInput c l) else 0
  let cnt := if bit cfg 6 then s.counterOf c l else 0
  let fh := bit cfg 5 && x.hashes.contains hash
  let fc := bit cfg 6 && x.counter == some cnt
  let sk := bit cfg 6 && (match x.counter with | some p => !fc && cnt != (p + 1) % 2 ^ (8 * s.cntBytes c) | none => false)
  let late := decide (s.lateMax c < o.arrive - o.stamp - s.lat c)
  let ring := s.ringAddr c != 0
  let trunc := ring && decide (s.slotRoom c < l.length)
  let n := if trunc then s.slotRoom c else l.length
  let refused := ring && !s.admits .ingest (some (s.ctxPart c)) .w (s.ringSlot c q) (64 + n)
  let st := if o.fault then stTierFault else if o.full then stNoSpace else if trunc || refused then stBadArg else stDone
  let fl := b2n fh + 2 * b2n fc + 4 * b2n sk + 8 * b2n late + 16 * b2n trunc + 32 * b2n (s.ctxSafety c)
  let a := s.modCtx c (fun y => { y with
    seq := (y.seq + 1) % 2 ^ 32,
    hashes := if st = stDone ∧ bit cfg 5 then (hash :: y.hashes).take 4 else y.hashes,
    counter := if st = stDone ∧ bit cfg 6 then some cnt else y.counter })
  let b := if sk then a.bump Reg.ING_SKIP_CNT else a
  let d := if fh || fc then
      let e := b.bump Reg.ING_FROZEN_CNT
      if s.ctxSafety c then e.raise 0x8B { (DoubtInfo.plain 4) with stream := c, word := q } else e
    else b
  let w := { d with fus := { d.fus with waiting := d.fus.waiting ++ [(c, (⟨o.stamp, o.arrive, q, l.take 4100⟩ : Held), st == stDone && !fh && !fc)] } }
  (w.useFree, (st, fl, q, hash, cnt))

/-- The record of Table 9.3 with its SEQ. -/
def sampleRecord (c : Nat) (o : IngSample) (k : Nat × Nat × Nat × Nat × Nat) (n : Nat) : List Byte :=
  toLE 8 (ofInt 64 o.stamp) ++ toLE 8 (ofInt 64 o.arrive) ++ toLE 4 k.2.2.1 ++ toLE 1 c ++ toLE 1 k.1 ++ toLE 2 k.2.1 ++ toLE 4 n ++
    toLE 4 k.2.2.2.2 ++ toLE 8 k.2.2.2.1 ++ List.replicate 24 0

/-- The writes of R249 in their order; each refused one leaves memory unchanged. -/
def State.writeSample (s : State) (c : Nat) (o : IngSample) (k : Nat × Nat × Nat × Nat × Nat) : State :=
  let a := s.ringSlot c k.2.2.1
  let p := s.ctxPart c
  let l := o.payload.take (s.slotRoom c)
  let r := sampleRecord c o k l.length
  let s1 := (s.deliver .ingest p (a + 0x10) (List.replicate 4 0xFF)).1
  let s2 := (s1.deliver .ingest p (a + 64) l).1
  let s3 := (s2.deliver .ingest p a (r.take 0x10)).1
  let s4 := (s3.deliver .ingest p (a + 0x14) (r.drop 0x14)).1
  (s4.deliver .ingest p (a + 0x10) ((r.drop 0x10).take 4)).1

def sampleEndEffect (c : Fin 96) (s : State) : State :=
  match (s.ctx c.val).ended with
  | [] => s
  | o :: rest =>
    let r := match o.checked with
      | some k => (s, k)
      | none => s.checkSample c.val o
    let a := r.1
    let k := r.2
    let ring := a.ringAddr c.val != 0
    if ring ∧ (0 < o.left ∨ !a.mayGo .ingest (a.ctxPart c.val) .w (a.ringSlot c.val k.2.2.1) 64) then
      a.modCtx c.val (fun x => { x with ended := { o with checked := some k } :: rest })
    else
      let b := if ring then a.writeSample c.val o k else a
      let cell := b.reg (Reg.ING_CTX_CELL c.val)
      let d := if bit cell 63 then b else b.complete .ingest (b.ctxPart c.val) (bits cell 47 0) k.1
      let e := (d.bump Reg.ING_SAMPLE_CNT).setReg (Reg.ING_CTX_STAT c.val) (k.2.2.1 + 2 ^ 32 * k.1)
      let f := if k.1 = stNoSpace then e.bump Reg.ING_DROP_CNT else e
      f.modCtx c.val (fun x => { x with ended := rest })

/-- SAMPLE_END: the oldest sample of the context that has ended is checked once; when its bytes have left the staging buffer and client 0x9 owns the path it
is written into its ring slot in the order of R249, and its completion operation is performed (R249 to R253). -/
def execSampleEnd (c : Fin 96) (s : State) : Host.Outcome State Fault Refusal := .next (s.onMain (sampleEndEffect c))

/-! ### VALID (R246) -/

/-- The context's filter holds encodings of its KIND (Tables 9.1, 9.11): an SPI context's command has at most 4 bytes, it reads at most 256, and SCLK = HCLK / (2 *
(DIV + 1)) is at most 50 MHz. -/
def State.filtOk (s : State) (c : Nat) : Bool :=
  s.ctxKind c != 2 || (decide (s.filt c 34 32 ≤ 4) && decide (s.filt c 43 35 ≤ 255) && decide (9 ≤ s.filt c 55 48))

/-- The context's parameters may be enabled: HORIZON at most PERIOD, PERIOD within Table 9.5, and a filter of its KIND. -/
def State.ctxOk (s : State) (c : Nat) : Bool :=
  let l := s.reg (Reg.ING_CTX_LIM c)
  decide (bits l 39 20 ≤ bits l 19 0) && decide (1 ≤ bits l 19 0) && s.filtOk c

/-- VALID is set: the samples count from 0 and are compared with nothing; the first period instant of an SPI context lies one PERIOD on (DESIGN CHOICE, log entry 34). -/
def State.ctxStart (s : State) (c : Nat) : State :=
  s.modCtx c (fun x => { x with seq := 0, hashes := [], counter := none, closing := false, instant := s.nowNs + s.period c })

/-- VALID is cleared: at once, or at the end of the sample in progress. -/
def State.ctxStop (s : State) (c : Nat) : State :=
  if (s.ctx c).cur.isSome then s.modCtx c (fun x => { x with closing := true })
  else s.setReg (Reg.ING_CTX_CFG c) (putBit (s.ctxCfg c) 63 false)

end Sys2Proof.Machine
end

