-- ==== Sys2Proof/Machine/Power.lean ====
section
/-! DEFINITION. Clocks, power capping, droop, thermal control and energy metering (16). -/

namespace Sys2Proof.Machine

def State.modPwr (s : State) (f : Power → Power) : State := { s with pwr := f s.pwr }

/-! ### What is in force (R411 to R414, R418) -/

/-- The mode in force: 0 OPEN, 1 CAPPED, 2 FIXED. -/
def State.pwrMode (s : State) : Nat := s.regBits Reg.PWR_STATUS 1 0

/-- m_c. -/
def State.mc (s : State) : Nat := s.regBits Reg.PWR_STATUS 31 24

/-- Region r is in the hard state. -/
def State.regionHard (s : State) (r : Nat) : Bool := bit (s.reg Reg.PWR_STATUS) (8 + r)

/-- The load set of region r (Table 16.3). -/
def loadSet (r : Nat) : List Nat :=
  if r < 8 then [r]
  else if r = 8 then [0, 1, 2, 3]
  else if r = 9 then [4, 5, 6, 7]
  else if r = 10 then List.range 8
  else if r = 11 ∨ r = 12 then [0, 1, 2, 3]
  else if r = 13 ∨ r = 14 then [4, 5, 6, 7]
  else []

/-- Vat v is in a hard load set. -/
def State.vatHard (s : State) (v : Nat) : Bool := (List.range 16).any (fun r => s.regionHard r && (loadSet r).contains v)

/-- What table t, present or coming, contributes to the floor in CAPPED (Table 16.2). -/
def State.tableFloor (s : State) (t : List Byte) : Nat := if tPMinW t ≤ s.pwr.cap then max 16 (tMMin t) else 16

/-- The floor in force: Table 16.2, and with a switch pending the larger of the old and the new value (R414). -/
def State.floor (s : State) : Nat :=
  match s.pwrMode with
  | 0 => 16
  | 1 =>
    max (if s.tableValid then s.tableFloor s.table else 16) (if s.switchPending then s.tableFloor s.nextTable else 16)
  | _ => 39

/-- The target of Vat v (R413): 16 in a hard load set, 39 in FIXED, else m_c under MAXM and the thermal ceiling, not below the floor. -/
def State.target (s : State) (v : Nat) : Nat :=
  if s.vatHard v then 16
  else if 2 ≤ s.pwrMode then 39
  else max s.floor (min s.mc (min (maxm v) (s.pwr.th.getD v 52)))

/-- m in force on Vat v. -/
def State.mult (s : State) (v : Nat) : Nat := s.regBits (Reg.CLK_M v) 5 0

/-- The present cycle begins a group of 64 source pulses, common to all Vats (16, "Pulse-swallowing"). -/
def State.groupBoundary (s : State) : Bool := s.tick % 192 == 0

/-- Pulse i of a group passes at multiplier m (R410). -/
def passes (m i : Nat) : Bool := decide (i * m / 64 < (i + 1) * m / 64)

/-- The m a Vat takes at a group boundary: its target m', down in full, up to floor flo in full, and beyond it at most `left` (R411). -/
def nextMult (m target flo left : Nat) : Nat × Nat :=
  if target ≤ m then (target, 0)
  else
    let base := if m < flo then min flo target else m
    let up := min (target - base) left
    (base + up, up)

def multiplierApplyEffect (v : VatNo) (s : State) : State :=
  if s.groupBoundary then
    let up := s.pwr.raised.getD v 0
    let r := nextMult (s.mult v) (s.target v) s.floor (4 - up)
    (s.setRegBits (Reg.CLK_M v) 5 0 r.1).modPwr (fun p => { p with raised := listSet p.raised v (up + r.2) })
  else s

/-- MULTIPLIER_APPLY: at a group boundary m of Vat v moves to its target: a decrease or a raise to the floor in full, any further raise at most 4
in a controller period (R411, R414). -/
def execMultiplierApply (v : VatNo) (s : State) : Host.Outcome State Fault Refusal := .next (s.onMain (multiplierApplyEffect v))

/-! ### BELOW_MIN (R415) -/

/-- BELOW_MIN follows the cap in force and the active table; each time it becomes set one record is posted. -/
def State.belowMin (s : State) : State :=
  let now := s.pwrMode == 1 && s.tableValid && decide (s.pwr.cap < tPMinW s.table)
  let a := s.setReg Reg.PWR_STATUS (putBit (s.reg Reg.PWR_STATUS) 4 now)
  if now ∧ !bit (s.reg Reg.PWR_STATUS) 4 then a.outcome 0xF 0xC1 (s.pwr.cap + 65536 * tPMinW s.table) else a

/-! ### The controller period (R413, R418, R424) -/

/-- Temperature of region r as last sampled, in 1/16 °C. -/
def State.temp (s : State) (r : Nat) : Int := toInt 16 (s.regBits (Reg.PWR_TEMP r) 15 0)

/-- The thermal ceiling of Vat v after a period (R418): down by 1 where a region of its sets is at or above T_SOFT (not in FIXED), up by 1 where all
are below T_SOFT - 5. -/
def State.nextCeiling (s : State) (v : Nat) : Nat :=
  let th := s.pwr.th.getD v 52
  let mine := (List.range 16).filter (fun r => (loadSet r).contains v)
  let soft : Int := (16 * s.pwr.tsoft : Nat)
  if mine.any (fun r => decide (soft ≤ s.temp r)) then
    (if 2 ≤ s.pwrMode then th else max (min th s.floor) (th - 1))
  else if mine.all (fun r => decide (s.temp r < soft - 80)) then min 52 (th + 1)
  else th

/-- m_c, low and OVER after a period of energy e under limit lim with floor flo (R413); power is e / 12,800 W. -/
def capStep (e lim flo mc low : Nat) : Nat × Nat × Bool :=
  let r : Nat × Nat :=
    if 14080 * lim < e then (max flo (mc - 4), low)
    else if 12800 * lim < e then (max flo (mc - 1), low)
    else if e < 12416 * lim then ((if 2 ≤ low + 1 then min 52 (mc + 1) else mc), low + 1)
    else (mc, low)
  (r.1, if 12416 * lim ≤ e ∨ r.1 ≠ mc then 0 else r.2, decide (12800 * lim < e) && mc == flo)

/-- Weighted activity of partition q, 16 for none. -/
def State.activity (s : State) (q : Nat) : Nat :=
  (List.range 8).foldl (fun n i => n + actWeight i * mapGet 0 s.pwr.acts (8 * q + i)) 0

/-- The share of partition q in energy e. -/
def State.share (s : State) (e q : Nat) : Nat :=
  let tot := (List.range 17).foldl (fun n q => n + s.activity q) 0
  if tot = 0 then 0 else e * s.activity q / tot

/-- The energy of a period goes to the enabled meters and PWR_UNMETERED; a share that two meters receive is subtracted once (R424). -/
def State.meterAll (s : State) (e : Nat) : State :=
  let on := (List.range 8).filter (fun k => bit (s.pwr.meters.getD k 0) 0)
  let part := fun (k : Nat) => bits (s.pwr.meters.getD k 0) 7 4
  let a := on.foldl (fun t k => t.setReg (Reg.PWR_METER k) ((t.reg (Reg.PWR_METER k) + s.share e (part k)) % 2 ^ 64)) s
  let taken := ((List.range 16).filter (fun q => on.any (fun k => part k == q))).foldl (fun n q => n + s.share e q) 0
  let b := a.setReg Reg.PWR_UNMETERED ((a.reg Reg.PWR_UNMETERED + (e - taken)) % 2 ^ 64)
  b.modPwr (fun p => { p with acts := [], meters := (List.range 8).map (fun k => s.reg (Reg.PWR_METER_CFG k)) })

/-- What was written takes effect: mode, cap and T_SOFT (R412, R426); a change of mode or cap sets low to 0 (R413). -/
def State.takePower (s : State) : State :=
  let mode := s.regBits Reg.PWR_MODE 1 0
  let cap := s.regBits Reg.PWR_MODE 24 16
  let same := mode == s.pwrMode && cap == s.pwr.cap
  (s.setRegBits Reg.PWR_STATUS 1 0 mode).modPwr (fun p => { p with
    cap := cap, tsoft := s.regBits Reg.PWR_THERM_CFG 7 0, low := if same then p.low else 0 })

/-- The thermal ceilings step; a period with a ceiling below 52 counts. -/
def State.stepCeilings (s : State) : State :=
  let th := (List.range 8).map s.nextCeiling
  let soft := th.any (fun x => decide (x < 52))
  let a := (s.modPwr (fun p => { p with th := th })).setReg Reg.PWR_STATUS (putBit (s.reg Reg.PWR_STATUS) 6 soft)
  if soft then a.bump Reg.PWR_THROT_CNT else a

/-- The cap loop over energy e (R413). -/
def State.capLoop (s : State) (e : Nat) : State :=
  if 2 ≤ s.pwrMode then (s.setReg Reg.PWR_STATUS (putBit (s.reg Reg.PWR_STATUS) 5 false)).modPwr (fun p => { p with low := 0 })
  else
    let r := capStep e (if s.pwrMode = 1 then s.pwr.cap else 450) s.floor s.mc s.pwr.low
    let a := s.setReg Reg.PWR_STATUS (putBit (putBits (s.reg Reg.PWR_STATUS) 31 24 r.1) 5 r.2.2)
    let b := a.modPwr (fun p => { p with low := r.2.1 })
    if r.2.2 then b.bump Reg.PWR_OVER_CNT else b

def powerPeriodEffect (s : State) : State :=
  if s.fclk < (s.pwr.periods + 1) * 50000 then s
  else
    let e := (s.reg Reg.PWR_ENERGY + 2 ^ 64 - s.pwr.eStart) % 2 ^ 64
    let a := ((s.setReg Reg.PWR_PKG (e * 5 / 64 % 2 ^ 32)).meterAll e).takePower
    let b := (a.stepCeilings.capLoop e).belowMin
    (b.modPwr (fun p => { p with periods := p.periods + 1, eStart := s.reg Reg.PWR_ENERGY, raised := List.replicate 8 0 })).syncState

/-- POWER_PERIOD: 50,000 HCLK cycles are over: the energy of the period goes to the meters, what was written takes effect, thermal ceilings, m_c, low and
OVER step, and BELOW_MIN follows (R412, R413, R415, R418, R424). -/
def execPowerPeriod (s : State) : Host.Outcome State Fault Refusal := .next (s.onMain powerPeriodEffect)

/-- CAP lies in 90 to 450 W and MODE names a mode (R412, Table 16.7). -/
def pwrModeOk (v : Nat) : Bool := decide (bits v 1 0 ≤ 2) && decide (90 ≤ bits v 24 16) && decide (bits v 24 16 ≤ 450)

def pwrModeWriteEffect (v : BitVec 32) (s : State) : State :=
  if pwrModeOk v.toNat then s.setReg Reg.PWR_MODE (bits v.toNat 24 16 * 65536 + bits v.toNat 1 0) else s.hwSetBit Reg.PWR_ERR errValue

/-- PWR_MODE_WRITE: a group's write of PWR_MODE, in force from the first period boundary after it; a CAP outside 90 to 450 W is refused (R412). -/
def execPwrModeWrite (v : BitVec 32) (s : State) : Host.Outcome State Fault Refusal := .next (s.onMain (pwrModeWriteEffect v))

def pwrMeterCfgWriteEffect (k : Fin 8) (v : BitVec 32) (s : State) : State :=
  ((s.setReg (Reg.PWR_METER_CFG k) (bits v.toNat 7 4 * 16 + bits v.toNat 0 0)).setReg (Reg.PWR_METER k) 0).modPwr
    (fun p => { p with meters := listSet p.meters k.val 0 })

/-- PWR_METER_CFG_WRITE: the meter is zeroed and its new configuration is in force from the next period boundary; until then it takes nothing (R424; DEDUCED,
log entry 42). -/
def execPwrMeterCfgWrite (k : Fin 8) (v : BitVec 32) (s : State) : Host.Outcome State Fault Refusal := .next (s.onMain (pwrMeterCfgWriteEffect k v))

/-! ### Droop (R410, R417) -/

def State.droopOf (s : State) (v : Nat) : Droop := s.pwr.droop.getD v ⟨false, false, 0, false⟩
def State.modDroop (s : State) (v : Nat) (f : Droop → Droop) : State := s.modPwr (fun p => { p with droop := listModify f p.droop v })

def droopAssertEffect (v : VatNo) (s : State) : State :=
  if (s.droopOf v).asserted then s
  else
    ((s.bump (Reg.CLK_DROOP_CNT v)).modDroop v (fun d => { d with
      asserted := true, active := true, left := 32, second := if d.active then d.second else false })).setRegBits (Reg.CLK_M v) 8 8 1

/-- DROOP_ASSERT: the detector asserts: counted; swallowing of one of every two passing pulses begins, or goes on without a new count of pairs (R417). -/
def execDroopAssert (v : VatNo) (s : State) : Host.Outcome State Fault Refusal := .next (s.onMain (droopAssertEffect v))

def droopReleaseEffect (v : VatNo) (s : State) : State :=
  if (s.droopOf v).asserted then s.modDroop v (fun d => { d with asserted := false, left := 32 }) else s

/-- DROOP_RELEASE: the detector releases: swallowing goes on until 32 further pulses have passed (R417). -/
def execDroopRelease (v : VatNo) (s : State) : Host.Outcome State Fault Refusal := .next (s.onMain (droopReleaseEffect v))

def droopSwallowEndEffect (v : VatNo) (s : State) : State :=
  let d := s.droopOf v
  if d.active ∧ !d.asserted ∧ d.left = 0 then
    (s.modDroop v (fun d => { d with active := false, second := false })).setRegBits (Reg.CLK_M v) 8 8 0
  else s

/-- DROOP_SWALLOW_END: 32 pulses have passed since the last release: swallowing is over (R417). -/
def execDroopSwallowEnd (v : VatNo) (s : State) : Host.Outcome State Fault Refusal := .next (s.onMain (droopSwallowEndEffect v))

/-- What swallowing does to a pulse of Vat v that R410 passes: droop removes the second of each pair, and where it applies takes the place of the region
swallowing, which removes the eighth of each eight (R417, R422). True: it passes. -/
def State.swallow (s : State) (v : Nat) : State × Bool :=
  let d := s.droopOf v
  if d.active ∧ (d.asserted ∨ 0 < d.left) then
    (s.modDroop v (fun x => { x with second := !x.second, left := if x.second ∨ x.asserted then x.left else x.left - 1 }), !d.second)
  else match s.pwr.region.getD v none with
    | some n => (s.modPwr (fun p => { p with region := listSet p.region v (some ((n + 1) % 8)) }), n % 8 != 7)
    | none => (s, true)

/-- Source pulse i of a group at Vat v: passed by R410 and not removed; counts of R417 follow. -/
def State.sourcePulse (s : State) (v i : Nat) : State × Bool :=
  if !passes (s.mult v) i then (s, false)
  else
    let r := s.swallow v
    let w := r.1.pwr.win.getD v (0, 0)
    let a := r.1.modPwr (fun p => { p with win := listSet p.win v (w.1 + 1, w.2 + b2n (!r.2)) })
    (if r.2 then a else a.setReg (Reg.CLK_DROOP_SW v) ((a.reg (Reg.CLK_DROOP_SW v) + 1) % 2 ^ 64), r.2)

/-! ### Temperature (R418, R419) -/

/-- Region r enters the hard state: at or above T_HARD; a Lake stack above 105 °C (R418, R419). -/
def hardEnters (r : Nat) (t : Int) : Bool :=
  decide (((16 * tHard : Nat) : Int) ≤ t) || (11 ≤ r && r ≤ 14 && decide (1680 < t))

/-- It leaves below T_HARD - 10 °C; a Lake stack not while above 105 °C (DEDUCED, log entry 42). -/
def hardLeaves (r : Nat) (t : Int) : Bool :=
  decide (t < ((16 * (tHard - 10) : Nat) : Int)) && !(11 ≤ r && r ≤ 14 && decide (1680 < t))

/-- Status of Lake stack k at t: its temperature, whether it is over 105 °C (05 Table 5.11), and doubled refresh with scrubbing suspended from above 105 °C to below
100 °C (R419). -/
def State.lakeTemp (s : State) (k : Nat) (t : Int) : State :=
  let w := s.reg (Reg.LAKE_STATUS k)
  let hot := if 1680 < t then true else if t < 1600 then false else bit w 1
  s.setReg (Reg.LAKE_STATUS k) (putBits (putBit (putBit w 1 hot) 2 (decide (1680 < t))) 15 8 (ofInt 8 (t / 16)))

/-- One region's reading. -/
def State.regionTemp (temps : List (BitVec 16)) (s : State) (r : Nat) : State :=
  let x := temps.getD r 0
  let t := x.toInt
  let a := s.setReg (Reg.PWR_TEMP r) x.toNat
  let b := if 11 ≤ r ∧ r ≤ 14 then a.lakeTemp (r - 11) t else a
  if !b.regionHard r ∧ hardEnters r t then
    ((b.setRegBit Reg.PWR_STATUS (8 + r)).bump Reg.PWR_HARD_CNT).raise 0x91 { (DoubtInfo.plain 0xF) with inst := r }
  else if b.regionHard r ∧ hardLeaves r t then b.setReg Reg.PWR_STATUS (putBit (b.reg Reg.PWR_STATUS) (8 + r) false)
  else b

def thermalSampleEffect (temps : List (BitVec 16)) (s : State) : State := (List.range 16).foldl (State.regionTemp temps) s

/-- THERMAL_SAMPLE: the highest reading of each region, in 1/16 °C: entries into the hard state raise 0x91 once each; its targets follow at the next
group boundary (R418, R419). -/
def execThermalSample (temps : List (BitVec 16)) (s : State) : Host.Outcome State Fault Refusal := .next (s.onMain (thermalSampleEffect temps))

/-! ### Neighbouring regions (R420 to R422) -/

/-- The neighbouring pairs (16, "Regions and crossings"). -/
def regionPairs : List (Nat × Nat) :=
  [(0, 8), (1, 8), (2, 8), (3, 8), (4, 9), (5, 9), (6, 9), (7, 9), (8, 9), (8, 10), (9, 10)]

/-- Main-rail voltage of region r in mV. -/
def State.volt (s : State) (r : Nat) : Nat := s.regBits (Reg.PWR_RAIL r) 15 0

/-- |ΔV| in mV and |ΔT| in 1/16 K of a pair. -/
def State.diffV (s : State) (p : Nat × Nat) : Nat := ((s.volt p.1 : Int) - (s.volt p.2 : Int)).natAbs
def State.diffT (s : State) (p : Nat × Nat) : Nat := (s.temp p.1 - s.temp p.2).natAbs

/-- Beyond the maximum, and within the release limits (R420, R422). -/
def State.beyond (s : State) (p : Nat × Nat) : Bool := decide (150 < s.diffV p) || decide (400 < s.diffT p)
def State.released (s : State) (p : Nat × Nat) : Bool := decide (s.diffV p ≤ 140) && decide (s.diffT p ≤ 320)

/-- The sagging region of a pair beyond the maximum: the lower voltage, or with only the temperature beyond, the hotter one. -/
def State.sagging (s : State) (p : Nat × Nat) : Nat :=
  if 150 < s.diffV p then (if s.volt p.1 < s.volt p.2 then p.1 else p.2) else (if s.temp p.2 < s.temp p.1 then p.1 else p.2)

/-- Vat v swallows for a region difference. -/
def State.regionStart (s : State) (v : Nat) : State :=
  match s.pwr.region.getD v none with
  | some _ => s
  | none => (s.modPwr (fun p => { p with region := listSet p.region v (some 0) })).setRegBits (Reg.CLK_M v) 9 9 1

/-- One pair of a sample: the largest differences are kept; a pair newly beyond the maximum counts and posts, and its sagging region swallows. -/
def State.pairSample (s : State) (p : Nat × Nat) : State :=
  let w := s.reg Reg.PWR_DIFF_MAX
  let a := s.setReg Reg.PWR_DIFF_MAX (max (bits w 15 0) (min 65535 (s.diffV p)) + 65536 * max (bits w 31 16) (min 65535 (s.diffT p)))
  if a.beyond p then
    let b := if a.pwr.exc.contains p then a
      else ((a.bump Reg.PWR_EXCESS_CNT).modPwr (fun x => { x with exc := x.exc ++ [p] })).outcome 0xF 0xC7
        (p.1 + 16 * p.2 + 2 ^ 8 * (a.diffV p % 65536) + 2 ^ 24 * (a.diffT p % 65536))
    ((loadSet (a.sagging p)).foldl State.regionStart b).setRegBit Reg.PWR_STATUS 7
  else a

def regionDiffSampleEffect (s : State) : State :=
  let a := regionPairs.foldl State.pairSample s
  a.modPwr (fun p => { p with within := if regionPairs.all a.released then some (p.within.getD a.fclk) else none })

/-- REGION_DIFF_SAMPLE: the sampled rails and temperatures of the neighbouring pairs are compared (R420 to R422). -/
def execRegionDiffSample (s : State) : Host.Outcome State Fault Refusal := .next (s.onMain regionDiffSampleEffect)

def regionSwallowEndEffect (s : State) : State :=
  match s.pwr.within with
  | some t =>
    if bit (s.reg Reg.PWR_STATUS) 7 ∧ t + 1000000 ≤ s.fclk then
      let a := (List.range 8).foldl (fun u v => u.setRegBits (Reg.CLK_M v) 9 9 0) s
      (a.modPwr (fun p => { p with exc := [], region := List.replicate 8 none })).setReg Reg.PWR_STATUS (putBit (a.reg Reg.PWR_STATUS) 7 false)
    else s
  | none => s

/-- REGION_SWALLOW_END: every pair has stayed within 140 mV and 20 K for 1 ms: region swallowing ends and EXCESS clears (R422). -/
def execRegionSwallowEnd (s : State) : Host.Outcome State Fault Refusal := .next (s.onMain regionSwallowEndEffect)

/-! ### Energy (R423) -/

def energySampleEffect (rails : List (BitVec 16 × BitVec 16)) (s : State) : State :=
  let e := rails.foldl (fun n r => n + r.1.toNat * r.2.toNat) 0 * 256 / 10000
  let a := (List.range 11).foldl (fun t r =>
    let x := rails.getD r (0, 0)
    t.setReg (Reg.PWR_RAIL r) (x.1.toNat + 65536 * x.2.toNat)) s
  a.setReg Reg.PWR_ENERGY ((a.reg Reg.PWR_ENERGY + e) % 2 ^ 64)

/-- ENERGY_SAMPLE: voltage (mV) and current (0.1 A) of every package supply rail over 1 µs, in the order of Table 19.4, VIN_R last: PWR_RAIL of
regions 0 to 10, and the sum of the products in PWR_ENERGY (R423). -/
def execEnergySample (rails : List (BitVec 16 × BitVec 16)) (s : State) : Host.Outcome State Fault Refusal := .next (s.onMain (energySampleEffect rails))

end Sys2Proof.Machine
end

