-- ==== Sys2Proof/Machine/Trig.lean ====
section
/-! DEFINITION. cosf and sinf (11 R300): the FP32 values nearest to the cosine and sine of an FP32 angle. The angle is reduced by half pi with 512
fraction bits, and the series runs with 256. -/

namespace Sys2Proof.Machine

/-- Pi with 512 fraction bits. -/
def piFx : Nat :=
  0x3243f6a8885a308d313198a2e03707344a4093822299f31d0082efa98ec4e6c89452821e638d01377be5466cf34e90c6cc0ac29b7c97c50dd3f84d5b5b5470917

/-- Quadrant and remainder, 256 fraction bits, of an angle m * 2^e; the remainder lies in [-pi/4, pi/4]. -/
def trigReduce (m : Nat) (e : Int) : Nat × Int :=
  let x := m * 2 ^ (e + 512).toNat
  let q := (2 * x + piFx / 2) / piFx
  (q % 4, ((x : Int) - (q * piFx / 2 : Nat)) / (2 ^ 256 : Nat))

/-- Alternating power series from term t on: next terms t * r2 / ((n + 1)(n + 2)). -/
def trigLoop : Nat → Int → Int → Nat → Int → Int
  | 0, _, _, _, s => s
  | f + 1, r2, t, n, s =>
    let u := -(t * r2 / (2 ^ 256 : Nat)) / ((n + 1) * (n + 2) : Nat)
    trigLoop f r2 u (n + 2) (s + u)

/-- Sine and cosine of a remainder, 256 fraction bits. -/
def sinFx (r : Int) : Int := trigLoop 40 (r * r / (2 ^ 256 : Nat)) r 1 r
def cosFx (r : Int) : Int := trigLoop 40 (r * r / (2 ^ 256 : Nat)) (2 ^ 256 : Nat) 0 (2 ^ 256 : Nat)

/-- A number with 256 fraction bits as FP32. -/
def outFx (z : Int) : W32 := fl32 (decide (z < 0)) z.natAbs (-256)

def fcos (a : W32) : W32 :=
  match ewp a with
  | .fin _ m e =>
    let t := trigReduce m e
    match t.1 with
    | 0 => outFx (cosFx t.2)
    | 1 => outFx (-sinFx t.2)
    | 2 => outFx (-cosFx t.2)
    | _ => outFx (sinFx t.2)
  | _ => nan32

def fsin (a : W32) : W32 :=
  match ewp a with
  | .fin neg m e =>
    if m = 0 then zero32 neg
    else
      let t := trigReduce m e
      let z := match t.1 with
        | 0 => sinFx t.2
        | 1 => cosFx t.2
        | 2 => -sinFx t.2
        | _ => -cosFx t.2
      outFx (if neg then -z else z)
  | _ => nan32

end Sys2Proof.Machine
end

