-- ==== Sys2Proof/Machine/Geometry.lean ====
section
/-! DEFINITION. Rotations, quaternions (w, x, y, z) and angles in FP64 (09 R254, R255, R259, R266; 10 R283, R289; 11 R307). Patterns are Nats. Each operation of a
formula is rounded once, in the order the spec writes it, sums from left to right; sine, cosine and the arc tangent are the nearest FP64 values (DESIGN CHOICE, log
entry 35: the spec gives the formulas and says FP64). -/

namespace Sys2Proof.Machine

/-! ### Operations -/

def dAdd (a b : Nat) : Nat := Prec.double.add a b
def dSub (a b : Nat) : Nat := Prec.double.sub a b
def dMul (a b : Nat) : Nat := Prec.double.mul a b
def dDiv (a b : Nat) : Nat := Prec.double.div a b
def dSqrt (a : Nat) : Nat := Prec.double.sqrt a
def dNeg (a : Nat) : Nat := a ^^^ 2 ^ 63
def dOfInt (z : Int) : Nat := out64 (FV.ofInt z)
/-- The FP64 pattern of an FP32 pattern. -/
def dOf32 (w : Nat) : Nat := out64 (val32 (BitVec.ofNat 32 w))
def dOne : Nat := 0x3FF0000000000000
def dHalf : Nat := 0x3FE0000000000000
def dTwo : Nat := 0x4000000000000000
/-- a < b, a and b finite or infinite. -/
def dLt (a b : Nat) : Bool := Prec.double.lt a b
/-- A zero of either sign. -/
def dIsZero (a : Nat) : Bool := a % 2 ^ 63 == 0
def dNan : Nat := 0x7FF8000000000000

/-- The sum of a list from left to right. -/
def dSum : List Nat → Nat
  | [] => 0
  | x :: l => l.foldl dAdd x

/-- Products summed from left to right. -/
def dDot (a b : List Nat) : Nat := dSum (List.zipWith dMul a b)

/-- The Euclidean norm. -/
def dNorm (v : List Nat) : Nat := dSqrt (dDot v v)

/-- The cross product of 3-vectors. -/
def dCross (a b : List Nat) : List Nat :=
  let x := fun (i : Nat) => a.getD i 0
  let y := fun (i : Nat) => b.getD i 0
  [dSub (dMul (x 1) (y 2)) (dMul (x 2) (y 1)), dSub (dMul (x 2) (y 0)) (dMul (x 0) (y 2)), dSub (dMul (x 0) (y 1)) (dMul (x 1) (y 0))]

/-! ### Angles, with 256 fraction bits -/

/-- A finite value with 256 fraction bits, rounded down. -/
def FV.fx : FV → Int
  | .fin neg m e =>
    let k : Int := e + 256
    let z : Int := if 0 ≤ k then (m * 2 ^ k.toNat : Nat) else (m / 2 ^ (-k).toNat : Nat)
    if neg then -z else z
  | _ => 0

/-- The FP64 pattern of a number with 256 fraction bits. -/
def dOfFx (z : Int) : Nat := out64 (.fin (decide (z < 0)) z.natAbs (-256))

def fxOne : Nat := 2 ^ 256
/-- Pi with 256 fraction bits. -/
def fxPi : Int := (piFx / 2 ^ 256 : Nat)

/-- floor(sqrt n) of a number of up to 1,000 bits. -/
def fxSqrt (n : Nat) : Nat := isqrtBits 500 n 0

/-- Sine and cosine of an angle with 256 fraction bits. -/
def fxSinCos (a : Int) : Int × Int :=
  let q := (2 * a + fxPi / 2) / fxPi
  let r := a - q * fxPi / 2
  match (q % 4).toNat with
  | 0 => (sinFx r, cosFx r)
  | 1 => (cosFx r, -sinFx r)
  | 2 => (-sinFx r, -cosFx r)
  | _ => (-cosFx r, sinFx r)

/-- The power series of the arc tangent: r - r^3/3 + r^5/5 ... -/
def fxAtanLoop : Nat → Int → Int → Nat → Int → Int
  | 0, _, _, _, s => s
  | f + 1, r2, t, n, s => let u := -(t * r2 / (fxOne : Int)); fxAtanLoop f r2 u (n + 2) (s + u / (n + 2 : Nat))

/-- tan(a / 2) from tan a. -/
def fxHalfTan (x : Nat) : Nat := x * fxOne / (fxOne + fxSqrt (fxOne * fxOne + x * x))

/-- The arc tangent of a number from 0 to 1. -/
def fxAtan (x : Nat) : Int :=
  let r : Int := fxHalfTan (fxHalfTan (fxHalfTan x))
  8 * fxAtanLoop 45 (r * r / (fxOne : Int)) r 1 r

/-- The angle, from 0 to pi/2, of a point with coordinates a (up) and b that are not both 0. -/
def fxAngle (a b : Nat) : Int := if a ≤ b then fxAtan (a * fxOne / max 1 b) else fxPi / 2 - fxAtan (b * fxOne / max 1 a)

/-- The magnitude lies below 2^-60, where sine and arc tangent round to their arguments. -/
def FV.tiny : FV → Bool
  | .fin _ m e => m == 0 || decide ((m.log2 : Int) + e < -60)
  | _ => false

def dSin (a : Nat) : Nat :=
  match Prec.double.val a with
  | .fin neg m e =>
    if (FV.fin neg m e).tiny then a
    else
      let t := trigReduce m e
      let z := match t.1 with
        | 0 => sinFx t.2
        | 1 => cosFx t.2
        | 2 => -sinFx t.2
        | _ => -cosFx t.2
      dOfFx (if neg then -z else z)
  | _ => dNan

def dCos (a : Nat) : Nat :=
  match Prec.double.val a with
  | .fin neg m e =>
    if (FV.fin neg m e).tiny then dOne
    else
      let t := trigReduce m e
      dOfFx (match t.1 with
        | 0 => cosFx t.2
        | 1 => -sinFx t.2
        | 2 => -cosFx t.2
        | _ => sinFx t.2)
  | _ => dNan

/-- atan2(y, x). -/
def dAtan2 (y x : Nat) : Nat :=
  match Prec.double.val y, Prec.double.val x with
  | .fin ny my ey, .fin nx mx ex =>
    let sign := fun (z : Int) => dOfFx (if ny then -z else z)
    if my = 0 then (if nx then sign fxPi else y)
    else if !nx && mx != 0 && ((FV.fin ny my ey).div (.fin nx mx ex)).tiny then dDiv y x
    else
      let e := min ey ex
      let a := fxAngle (my * 2 ^ (ey - e).toNat) (mx * 2 ^ (ex - e).toNat)
      sign (if nx then fxPi - a else a)
  | _, _ => dNan

/-! ### Quaternions -/

def qMul (a b : List Nat) : List Nat :=
  let p := fun (i j : Nat) => dMul (a.getD i 0) (b.getD j 0)
  [dSub (dSub (dSub (p 0 0) (p 1 1)) (p 2 2)) (p 3 3), dSub (dAdd (dAdd (p 0 1) (p 1 0)) (p 2 3)) (p 3 2),
    dAdd (dAdd (dSub (p 0 2) (p 1 3)) (p 2 0)) (p 3 1), dAdd (dSub (dAdd (p 0 3) (p 1 2)) (p 2 1)) (p 3 0)]

def qConj (q : List Nat) : List Nat := q.take 1 ++ (q.drop 1).map dNeg

def qNormalise (q : List Nat) : List Nat := q.map (fun x => dDiv x (dNorm q))

/-- Element (r, c) of the rotation matrix by the unit-quaternion formula. -/
def qMat (q : List Nat) (r c : Nat) : Nat :=
  let p := fun (i j : Nat) => dMul (q.getD i 0) (q.getD j 0)
  let two := fun (x : Nat) => dMul dTwo x
  match r, c with
  | 0, 0 => dSub dOne (two (dAdd (p 2 2) (p 3 3)))
  | 0, 1 => two (dSub (p 1 2) (p 0 3))
  | 0, 2 => two (dAdd (p 1 3) (p 0 2))
  | 1, 0 => two (dAdd (p 1 2) (p 0 3))
  | 1, 1 => dSub dOne (two (dAdd (p 1 1) (p 3 3)))
  | 1, 2 => two (dSub (p 2 3) (p 0 1))
  | 2, 0 => two (dSub (p 1 3) (p 0 2))
  | 2, 1 => two (dAdd (p 2 3) (p 0 1))
  | _, _ => dSub dOne (two (dAdd (p 1 1) (p 2 2)))

/-- The rows of the rotation matrix. -/
def qRows (q : List Nat) : List (List Nat) := (List.range 3).map (fun r => (List.range 3).map (fun c => qMat q r c))

/-- Rows times a vector. -/
def matVec (m : List (List Nat)) (v : List Nat) : List Nat := m.map (fun r => dDot r v)

/-- rot(q) v. -/
def qRot (q v : List Nat) : List Nat := matVec (qRows q) v

/-- (cos(h), sin(h) v / n) for the half angle h of a rotation about v of norm n; (1, 0, 0, 0) where n is 0. -/
def qTurn (h n : Nat) (v : List Nat) : List Nat :=
  if dIsZero n then [dOne, 0, 0, 0] else dCos h :: v.map (fun x => dDiv (dMul (dSin h) x) n)

/-- The quaternion of Exp(v). -/
def qExp (v : List Nat) : List Nat := qTurn (dMul (dNorm v) dHalf) (dNorm v) v

/-- The rotation vector of a unit quaternion, of length at most pi. -/
def qLog (q : List Nat) : List Nat :=
  let s := if Prec.double.lt (q.getD 0 0) 0 then q.map dNeg else q
  let v := s.drop 1
  let n := dNorm v
  if dIsZero n then v else v.map (fun x => dDiv (dMul (dMul dTwo (dAtan2 n (s.getD 0 0))) x) n)

/-! ### Interpolation of orientations (09 R259) -/

def fxMul (a b : Int) : Int := a * b / (fxOne : Int)

/-- The dot product of two quaternions, and the second by the shorter arc. -/
def fxArc (a b : List Int) : Int × List Int :=
  let d := (List.zipWith fxMul a b).foldl (fun x y => x + y) 0
  if d < 0 then (-d, b.map (fun x => -x)) else (d, b)

/-- Normalised linear interpolation at u. -/
def fxLerp (u : Int) (a b : List Int) : List Int :=
  let v := List.zipWith (fun x y => x + fxMul u (y - x)) a b
  let n : Int := max 1 (fxSqrt ((v.map (fun x => (x * x).toNat)).foldl (fun x y => x + y) 0))
  v.map (fun x => x * (fxOne : Int) / n)

/-- Spherical interpolation at u, d the dot product, below 1. -/
def fxSphere (u d : Int) (a b : List Int) : List Int :=
  let s : Nat := fxSqrt (fxOne * fxOne - (d * d).toNat)
  let t := fxAngle s d.toNat
  let w0 := (fxSinCos (fxMul ((fxOne : Int) - u) t)).1
  let w1 := (fxSinCos (fxMul u t)).1
  List.zipWith (fun x y => (w0 * x + w1 * y) / (max 1 s : Nat)) a b

/-- The aligned orientation: normalised lerp where the dot product exceeds 0.9995, slerp otherwise. -/
def fxSlerp (u : Int) (a b : List Int) : List Int :=
  let r := fxArc a b
  if 9995 * (fxOne : Int) < 10000 * r.1 then fxLerp u a r.2 else fxSphere u r.1 a r.2

/-- The exact slerp. -/
def fxExact (u : Int) (a b : List Int) : List Int :=
  let r := fxArc a b
  if r.1 < (fxOne : Int) then fxSphere u r.1 a r.2 else fxLerp u a r.2

/-- Four FP32 values keep the bounds of R259: each within 4 * 2^-24 of the exact slerp, the norm within 2^-22 of 1. -/
def slerpBound (exact : List Int) (c : List W32) : Bool :=
  let v := c.map (fun w => (val32 w).fx)
  let n2 := (v.map (fun x => x * x)).foldl (fun x y => x + y) 0
  let lo : Int := (fxOne - fxOne / 2 ^ 22 : Nat)
  let hi : Int := (fxOne + fxOne / 2 ^ 22 : Nat)
  c.all isFinite32 && (List.zipWith (fun x y => decide ((x - y).natAbs ≤ fxOne / 2 ^ 22)) v exact).all (fun x => x) &&
    decide (lo * lo ≤ n2) && decide (n2 ≤ hi * hi)

/-- Component i of an aligned unit quaternion of FP32 values: any value in the bounds of R259, which are all it gives of the last bits (Config.slerp, log entry 35);
a quaternion with a component that is not finite leaves the others free. -/
def slerp32 (u : W32) (a b : List W32) (i : Nat) : W32 :=
  let c := (List.range 4).map (fun j => Config.slerp u a b j)
  if !(u :: (a ++ b)).all isFinite32 then c.getD i 0
  else
    let fx := fun (l : List W32) => l.map (fun w => (val32 w).fx)
    if slerpBound (fxExact (val32 u).fx (fx a) (fx b)) c then c.getD i 0
    else
      let z := (fxSlerp (val32 u).fx (fx a) (fx b)).getD i 0
      fl32 (decide (z < 0)) z.natAbs (-256)

/-- The orientation at u between two FP64 orientations, rounded once to FP64. -/
def slerp64 (u : Nat) (a b : List Nat) : List Nat :=
  let fx := fun (l : List Nat) => l.map (fun w => (Prec.double.val w).fx)
  if (u :: (a ++ b)).all Prec.double.finite then (fxSlerp (Prec.double.val u).fx (fx a) (fx b)).map dOfFx else List.replicate 4 dNan

end Sys2Proof.Machine
end

