-- ==== Sys2Proof/Machine/Fusion.lean ====
section
/-! DEFINITION. The fusion units (09 R254 to R270): acceptance of samples, ego-motion, alignment channels, projection and track association. -/

namespace Sys2Proof.Machine

def State.modFus (s : State) (f : Fusion → Fusion) : State := { s with fus := f s.fus }

/-! ### Acceptance (R257, R261, R263) -/

/-- Fields of a value-map entry (R256). -/
def vmOff (w : Nat) : Nat := bits w 11 0
def vmType (w : Nat) : Nat := bits w 14 12
def vmQuat (w : Nat) : Bool := bit w 15
def vmExp (w : Nat) : Int := toInt 6 (bits w 21 16)

def State.vmapOf (s : State) (c : Nat) : List Nat := mapGet [] s.fus.vmap c
/-- NVAL: entries in use from 0 on without a gap. -/
def vmCount (m : List Nat) : Nat := (m.takeWhile (fun w => vmType w != 0)).length

/-- Entries a history holds: 8 of a frame stream, 16 of a value stream or of one whose map no enabling has read. -/
def State.histSize (s : State) (c : Nat) : Nat := if s.fus.vmap.any (fun e => e.1 == c) ∧ vmCount (s.vmapOf c) = 0 then 8 else 16

/-- A history of n entries with a sample entered by STAMP: an equal stamp is replaced, and the n latest stay. -/
def holdSample (n : Nat) (l : List Held) (h : Held) : List Held :=
  let m := l.filter (fun x => x.stamp != h.stamp)
  let k := m.filter (fun x => decide (x.stamp < h.stamp)) ++ [h] ++ m.filter (fun x => decide (h.stamp < x.stamp))
  k.drop (k.length - n)

/-- The stream list of channel k, entry 0 first (Table 9.12). -/
def State.chN (s : State) (k : Nat) : Nat := s.regBits (Reg.FUS_CH_CFG k) 4 1 + 1
def State.chEn (s : State) (k : Nat) : Bool := bit (s.reg (Reg.FUS_CH_CFG k)) 0
def State.chPart (s : State) (k : Nat) : Nat := s.regBits (Reg.FUS_CH_CFG k) 11 8
def State.chNproj (s : State) (k : Nat) : Nat := s.regBits (Reg.FUS_CH_CFG k) 15 12
def State.chPairs (s : State) (k : Nat) : Nat := s.regBits (Reg.FUS_CH_CFG k) 63 16
def State.chStream (s : State) (k i : Nat) : Nat := (s.reg (if i < 8 then Reg.FUS_CH_LIST0 k else Reg.FUS_CH_LIST1 k)) / 256 ^ (i % 8) % 256
def State.chStreams (s : State) (k : Nat) : List Nat := (List.range (s.chN k)).map (fun i => s.chStream k i)
def State.chPeriod (s : State) (k : Nat) : Int := (s.regBits (Reg.FUS_CH_TIME k) 19 0 * 1000 : Nat)
def State.chDelay (s : State) (k : Nat) : Int := (s.regBits (Reg.FUS_CH_TIME k) 39 20 * 1000 : Nat)
/-- T_n of channel k. -/
def State.chT (s : State) (k : Nat) (n : Int) : Int := toInt 64 (s.reg (Reg.FUS_CH_PHASE k)) + n * s.chPeriod k

/-- The first n with T_n + d at or after t. -/
def State.chFirst (s : State) (k : Nat) (d t : Int) : Int :=
  -((toInt 64 (s.reg (Reg.FUS_CH_PHASE k)) + d - t) / max 1 (s.chPeriod k))

/-- The sample is accepted after the DUE of an instant at or after its stamp, in an enabled channel that names its stream (R263). -/
def State.lateFor (s : State) (c : Nat) (h : Held) : Bool :=
  (List.range 16).any (fun k => s.chEn k && (s.chStreams k).contains c &&
    decide (s.chT k (s.chFirst k 0 h.stamp) + s.chDelay k < h.arrive + 200))

/-- DUE of the next evaluation of channel k. -/
def State.chDue (s : State) (k : Nat) : Int := s.chT k (mapGet 0 s.fus.next k) + s.chDelay k

/-- An evaluation or an ego tick due before t has not been made: it uses what was accepted by its own instant (R257). -/
def State.dueBefore (s : State) (t : Int) : Bool :=
  (List.range 16).any (fun k => s.chEn k && decide (s.chDue k < t)) || (bit (s.reg Reg.FUS_EGO_CFG) 0 && decide (s.fus.tick * 500000 < t))

def sampleAcceptEffect (s : State) : State :=
  match s.fus.waiting.find? (fun w => s.reached (w.2.1.arrive + 200)) with
  | none => s
  | some (c, h, ok) =>
    if s.dueBefore (h.arrive + 200) then s
    else
      let a := s.modFus (fun f => { f with
        waiting := f.waiting.filter (fun w => w != (c, h, ok)),
        drift := mapInsert f.drift c (h.arrive - h.stamp - s.lat c) })
      if s.lateMax c < h.arrive - h.stamp - s.lat c then a.bump Reg.FUS_LATE_DROP_CNT
      else if !ok then a
      else
        let b := if s.lateFor c h then a.bump Reg.FUS_LATE_USE_CNT else a
        b.modFus (fun f => { f with hist := mapSet [] f.hist c (holdSample (s.histSize c) (mapGet [] f.hist c) h) })

/-- SAMPLE_ACCEPT: at ARRIVE + 200 ns a sample is accepted: its D_s replaces the stream's, one late beyond LATE_MAX is counted, and any other that ended DONE and
unfrozen enters the history (R257, R261, R263). What was due before that instant is evaluated first. -/
def execSampleAccept (s : State) : Host.Outcome State Fault Refusal := .next (s.onMain sampleAcceptEffect)

/-! ### Value maps and value rules (R256, R258, R259) -/

/-- A field's value: fl32(raw * 2^E); of a payload too short a free value, log entry 4. -/
def State.fieldValue (s : State) (l : List Byte) (w : Nat) : W32 :=
  let t := vmType w
  let n := if t ≤ 2 then 2 else 4
  let b := (l.drop (vmOff w)).take n
  if b.length < n then (Config.freeWord s.free).setWidth 32
  else
    let raw := if t % 2 = 1 then fromLE b else fromBE b
    if t ≤ 2 then let z := toInt 16 raw; fl32 (decide (z < 0)) z.natAbs (vmExp w)
    else if t ≤ 4 then let z := toInt 32 raw; fl32 (decide (z < 0)) z.natAbs (vmExp w)
    else out32 ((val32 (BitVec.ofNat 32 raw)).scale (vmExp w))

/-- The values of a sample under a map. -/
def State.valuesOf (s : State) (m : List Nat) (h : Held) : List W32 := (m.take (vmCount m)).map (s.fieldValue h.bytes)

/-- u of R258 in FP64, rounded once to FP32. -/
def ratio (num den : Int) : W32 :=
  if num = 0 then 0
  else
    let r := quotient num.natAbs (max 1 den.natAbs)
    let q := roundSig 53 r.1 r.2
    fl32 (decide (num < 0) != decide (den < 0)) q.1 q.2

/-- Index of the first entry of the quaternion group that entry i belongs to. -/
def quatGroup (m : List Nat) (i : Nat) : Option Nat := (List.range (i + 1)).find? (fun j => decide (i < j + 4) && vmQuat (m.getD j 0))

/-- Aligned values from two samples (R259). -/
def alignValues (m : List Nat) (u : W32) (v0 v1 : List W32) : List W32 :=
  (List.range (vmCount m)).map (fun (i : Nat) =>
    let a := v0.getD i 0
    let b := v1.getD i 0
    match quatGroup m i with
    | some j =>
      if isNan32 a || isNan32 b then nan32 else slerp32 u ((v0.drop j).take 4) ((v1.drop j).take 4) (i - j)
    | none => ffma u (fsub b a) a)

/-- The last element that satisfies ok. -/
def lastOf (l : List (Int × Held)) (ok : Int → Bool) : Option (Int × Held) := (l.filter (fun e => ok e.1)).getLast?

/-- The value rules of R258 over samples ordered by time: MODE and values; none when dropped. lost: only rules 3 and 4, on samples within HORIZON (R261). -/
def State.alignStream (s : State) (c : Nat) (m : List Nat) (l : List (Int × Held)) (t : Int) (lost : Bool) : Option (Nat × List W32) :=
  let val := fun (e : Int × Held) => s.valuesOf m e.2
  let per := s.period c
  match lastOf l (fun x => decide (x ≤ t)) with
  | none => none
  | some b =>
    if !lost ∧ b.1 = t then some (0, val b)
    else
      match (if lost then none else l.find? (fun e => decide (t < e.1) && decide (e.1 - b.1 ≤ 2 * per))) with
      | some n => some (0, alignValues m (ratio (t - b.1) (n.1 - b.1)) (val b) (val n))
      | none =>
        if t - b.1 ≤ s.horizon c then
          match lastOf l (fun x => decide (x < b.1)) with
          | some a => if b.1 - a.1 ≤ 2 * per ∧ (!lost ∨ t - a.1 ≤ s.horizon c) then some (1, alignValues m (ratio (t - a.1) (b.1 - a.1)) (val a) (val b)) else some (2, val b)
          | none => some (2, val b)
        else none

/-- The history of stream c as it stands for an evaluation due at d: samples accepted no later, by STAMP. -/
def State.histAt (s : State) (c : Nat) (d : Int) : List (Int × Held) :=
  ((mapGet [] s.fus.hist c).filter (fun h => decide (h.arrive + 200 ≤ d))).map (fun h => (h.stamp, h))

/-- A list in rising order of time, stable. -/
def insertTime (e : Int × Held) : List (Int × Held) → List (Int × Held)
  | [] => [e]
  | f :: l => if e.1 < f.1 then e :: f :: l else f :: insertTime e l
def sortTime (l : List (Int × Held)) : List (Int × Held) := l.foldr insertTime []

/-- Stamps replaced by ARRIVE - LAT (R261). -/
def State.replaced (s : State) (c : Nat) (l : List (Int × Held)) : List (Int × Held) :=
  sortTime (l.map (fun e => (e.2.arrive - s.lat c, e.2)))

/-! ### Outputs (R264, R270) -/

/-- Writes of an output in their order as far as their paths are owned: what is left, and the status, BAD_ARG after a refused write. -/
def State.fusWrites (p : Nat) : List (Nat × List Byte) → State → Nat → State × List (Nat × List Byte) × Nat
  | [], s, st => (s, [], st)
  | (a, l) :: rest, s, st =>
    if l.isEmpty then State.fusWrites p rest s st
    else if s.mayGo .fusion p .w a l.length then
      let w := s.deliver .fusion p a l
      State.fusWrites p rest w.1 (if w.2 then st else stBadArg)
    else (s, (a, l) :: rest, st)

/-- An output goes as far as its paths are owned: its writes, then its completion operation; what is left of it. -/
def State.fusGo (s : State) (o : FusOut) : State × Option FusOut :=
  let w := State.fusWrites o.part o.writes s o.status
  let left : FusOut := { o with writes := w.2.1, status := w.2.2 }
  if !w.2.1.isEmpty then (w.1, some left)
  else match o.cell with
    | none => (w.1, none)
    | some c => (w.1.complete .fusion o.part c w.2.2, none)

/-- Every output that waits goes as far as it can, oldest first. -/
def State.fusFlush (s : State) : State :=
  s.fus.outs.foldl (fun t o => let r := t.fusGo o; match r.2 with | some x => r.1.modFus (fun f => { f with outs := f.outs ++ [x] }) | none => r.1)
    (s.modFus (fun f => { f with outs := [] }))

/-- An output of a fusion unit: it goes now, as far as its paths are owned, and later the rest. -/
def State.fusPut (s : State) (o : FusOut) : State := (s.modFus (fun f => { f with outs := f.outs ++ [o] })).fusFlush

/-! ### Ego-motion (R254, R255) -/

def State.egoPart (s : State) : Nat := s.regBits Reg.FUS_EGO_CFG 35 32

/-- Three fields of a stream at time t, where it is usable there. -/
def State.egoFields (s : State) (c f n : Nat) (t : Int) : Option (List Nat) :=
  match s.alignStream c (s.vmapOf c) (s.histAt c t) t false with
  | some (_, l) => some ((List.range n).map (fun i => (l.getD (f + i) nan32).toNat))
  | none => none

/-- Address of v_body with VSRC 1. -/
def State.velAddr (s : State) : Nat := s.reg Reg.FUS_EGO_VEL_ADDR % 2 ^ 48

/-- The three values at FUS_EGO_VEL_ADDR; none where the read is refused or uncorrectable, or its page is not resident. -/
def State.egoVel (s : State) : State × Option (List Nat) :=
  let r := s.fetch .fusion s.egoPart s.velAddr 12 none
  match r.2 with
  | .bytes l => (r.1, some ((List.range 3).map (fun i => fieldLE l (4 * i) 4)))
  | _ => (r.1, none)

/-- The 64 bytes of an entry (Table 9.4). -/
def Pose.bytes (e : Pose) : List Byte :=
  toLE 8 (ofInt 64 (e.k * 500000)) ++ (e.q.map (fun x => toLE 4 (f64to32 x).toNat)).flatten ++ (e.p.map (toLE 8)).flatten ++
    (e.v.map (toLE 4)).flatten ++ toLE 4 e.status

/-- 0.0005 s. -/
def egoDelta : Nat := dDiv dOne (dOfInt 2000)

/-- q_k from q_(k-1) and the angular rate (FP32 patterns): the step of R254. -/
def egoTurn (q w : List Nat) : List Nat :=
  let v := w.map dOf32
  let n := dNorm v
  qNormalise (qMul q (qTurn (dMul (dMul n egoDelta) dHalf) n v))

/-- p_k from p_(k-1), both orientations and v_body (FP32 patterns). -/
def egoMove (p q0 q1 v : List Nat) : List Nat :=
  List.zipWith (fun x y => dAdd x (dMul y egoDelta)) p (qRot (qNormalise (List.zipWith dAdd q0 q1)) (v.map dOf32))

def egoTickEffect (s : State) : State :=
  let k := s.fus.tick
  let t := k * 500000
  let cfg := s.reg Reg.FUS_EGO_CFG
  if !bit cfg 0 ∨ !s.reached t ∨ (bit cfg 1 ∧ !s.mayGo .fusion s.egoPart .r s.velAddr 12) then s
  else
    let om := s.egoFields (bits cfg 14 8) (bits cfg 27 24) 3 t
    let r := if bit cfg 1 then s.egoVel
      else (s, (s.egoFields (bits cfg 22 16) (bits cfg 31 28) 1 t).map (fun l => l ++ [0, 0]))
    let a := r.1
    let w := om.getD a.fus.omega
    let v := r.2.getD a.fus.vel
    let run := if om.isNone || r.2.isNone then a.fus.heldRun + 1 else 0
    let bad := decide (20 ≤ run)
    let prev : Pose := a.fus.poses.headD ⟨k - 1, [dOne, 0, 0, 0], [0, 0, 0], [0, 0, 0], 0⟩
    let q := egoTurn prev.q w
    let e : Pose := ⟨k, q, egoMove prev.p prev.q q v, v, b2n om.isNone + 2 * b2n r.2.isNone + 4 * b2n bad⟩
    let b := a.modFus (fun f => { f with tick := k + 1, poses := (e :: f.poses).take 4000, heldRun := run, omega := w, vel := v })
    let c := (b.setReg Reg.FUS_EGO_TICK (ofInt 64 t)).setReg Reg.FUS_STATUS (putBit (putBit (b.reg Reg.FUS_STATUS) 0 true) 1 bad)
    let d := if bad then c.bump Reg.FUS_EGO_DEG_CNT else c
    d.fusPut ⟨d.egoPart, [(hubBase + d.reg Reg.FUS_POSE_BASE + 64 * (k % 4000).toNat, e.bytes)], none, stDone⟩

/-- EGO_TICK: at T_k the unit aligns the IMU and the wheel stream (or reads the velocity, on an owned path), integrates the pose and writes a copy of the entry (R254, R255,
R270). -/
def execEgoTick (s : State) : Host.Outcome State Fault Refusal := .next (s.onMain egoTickEffect)

/-- The entries that a pose at time t is interpolated from, newer first; none is NOPOSE (R255). -/
def State.posesAt (s : State) (t : Int) : Option (Pose × Pose) :=
  match s.fus.poses with
  | [] => none
  | e :: rest =>
    if e.k * 500000 ≤ t then (if t - e.k * 500000 ≤ 500000 ∧ !bit e.status 2 then some (e, rest.headD e) else none)
    else
      match (e :: rest).find? (fun x => decide (x.k * 500000 ≤ t)) with
      | none => none
      | some x =>
        let y := ((e :: rest).filter (fun z => z.k == x.k + 1)).headD x
        if bit x.status 2 || (bit y.status 2 && x.k * 500000 != t) then none else some (y, x)

def Pose.words (e : Pose) : List Nat := ofInt 64 e.k :: e.q ++ e.p

/-- The orientation and position at time t: an entry's own at its instant, position linear and orientation by slerp between two entries. After the newest entry the
rule gives a time limit and no value: free, Config.poseAhead, log entry 35. -/
def poseAt (x : Pose × Pose) (t : Int) : List Nat × List Nat :=
  let e := if x.1.k * 500000 = t then x.1 else x.2
  if e.k * 500000 = t then (e.q, e.p)
  else if x.1.k * 500000 < t then
    let f := fun (i : Nat) => (Config.poseAhead (ofInt 64 t :: x.1.words ++ x.2.words) i).toNat
    ((List.range 4).map f, (List.range 3).map (fun i => f (4 + i)))
  else
    let u := dDiv (dOfInt (t - x.2.k * 500000)) (dOfInt 500000)
    (slerp64 u x.2.q x.1.q, List.zipWith (fun a b => dAdd a (dMul u (dSub b a))) x.2.p x.1.p)

/-- REL from pose a to pose b in FP64: orientation, translation, rotation matrix by rows. -/
def relOf (a b : List Nat × List Nat) : List Nat :=
  let q := qMul (qConj b.1) a.1
  q ++ qRot (qConj b.1) (List.zipWith dSub a.2 b.2) ++ (qRows q).flatten

/-- REL(a -> b): element i, 0 to 3 the orientation, 4 to 6 the translation, 7 to 15 the rotation matrix by rows, computed in FP64 and rounded once to FP32 (R255); of one
flagged NOPOSE a free value (Config.relPose, log entry 35). -/
def State.rel (s : State) (a b : Int) (i : Nat) : W32 :=
  match s.posesAt a, s.posesAt b with
  | some x, some y => f64to32 ((relOf (poseAt x a) (poseAt y b)).getD i 0)
  | _, _ => Config.relPose [ofInt 64 a, ofInt 64 b] i
def State.noPose (s : State) (a b : Int) : Bool := (s.posesAt a).isNone || (s.posesAt b).isNone

/-- The ego pose is INVALID at t: the newest entry at or before it is. -/
def State.egoBad (s : State) (t : Int) : Bool :=
  match s.fus.poses.find? (fun x => decide (x.k * 500000 ≤ t)) with
  | some e => bit e.status 2
  | none => false

/-! ### Evaluation (R258 to R264) -/

/-- The entry has no value for its set. -/
def EntryOut.dropped (e : EntryOut) : Bool := e.mode == 4

/-- Distance of two times. -/
def tdist (a b : Int) : Int := ((a - b).natAbs : Nat)

/-- The sample nearest to t, the earlier on a tie, within the horizon (R260). -/
def nearest (l : List (Int × Held)) (t hz : Int) : Option (Int × Held) :=
  l.foldl (fun best e =>
    if hz < tdist t e.1 then best
    else match best with
      | some b => if tdist t e.1 < tdist t b.1 then some e else best
      | none => some e) none

/-- Entry of stream c at t from the samples l: value stream or frame stream. -/
def State.evalStream (s : State) (c : Nat) (l : List (Int × Held)) (t : Int) (lost : Bool) : Option (Nat × List W32 × Option (Int × Held)) :=
  let m := s.vmapOf c
  if vmCount m ≠ 0 then (s.alignStream c m l t lost).map (fun r => (r.1, r.2, none))
  else
    let g := if lost then l.filter (fun e => decide (e.1 ≤ t)) else l
    (nearest g t (s.horizon c)).map (fun e => (3, [], some e))

/-- D_s of stream c; a stream with no accepted sample drifts by nothing (DEDUCED, log entry 36). -/
def State.driftOf (s : State) (c : Nat) : Int := mapGet 0 s.fus.drift c

/-- The drift state of entry i of channel k after this evaluation's comparison: beyond PERIOD, ALIGN_LOST, EXCLUDED (R261, R262). -/
def State.driftCheck (s : State) (k i : Nat) : Bool × Bool × Bool :=
  let c := s.chStream k i
  let d := tdist (s.driftOf c) (s.driftOf (s.chStream k 0))
  let st := s.reg (Reg.FUS_CH_STATE k)
  let big := i != 0 && decide (s.period c < d)
  let calm := i == 0 || decide (2 * d ≤ s.period c)
  (big, big || (bit st i && !calm), bit st (16 + i) && !calm)

/-- Entry i of channel k evaluated at t, due at d: the state with its counters, flags and doubt, and the entry. -/
def State.evalEntry (k : Nat) (t d : Int) (u : State × List EntryOut) (i : Nat) : State × List EntryOut :=
  let s := u.1
  let c := s.chStream k i
  let x := s.driftCheck k i
  let lost := x.2.1
  let excl := x.2.2
  let l := s.histAt c d
  let res := if excl then none else s.evalStream c (if lost then s.replaced c l else l) t lost
  let st := if lost || excl then stAlignLost else if res.isSome then stDone else stDeadlineMiss
  let e : EntryOut := match res with
    | some r => ⟨c, st, r.1, r.2.1, r.2.2⟩
    | none => ⟨c, st, 4, [], none⟩
  let key := Reg.FUS_CH_STATE k
  let old := bits (s.reg key) (33 + 2 * i) (32 + 2 * i)
  let drops := if lost && res.isNone then min 3 (old + 1) else 0
  let newEx := lost && !excl && decide (drops = 3)
  let a := if x.1 then s.bump Reg.FUS_ALOST_CNT else s
  let b := if res.isNone then a.bump Reg.FUS_MISS_CNT else a
  let w := putBits (putBit (putBit (b.reg key) i lost) (16 + i) (excl || newEx)) (33 + 2 * i) (32 + 2 * i) drops
  let f := b.setReg key w
  let g := if newEx then
      let h := f.bump Reg.FUS_EXCL_CNT
      if s.ctxSafety c then h.raise 0x8C { (DoubtInfo.plain 5) with stream := i } else h
    else f
  (g, u.2 ++ [e])

/-- n bytes of free values: fields of a record to which the spec gives no content. -/
def State.freeBytes (s : State) (j n : Nat) : List Byte := (List.range n).map (fun i => (Config.freeWord (s.free + 64 * j + i)).setWidth 8)

/-- The 128 bytes of an entry (Table 9.6). -/
def State.entryBytes (s : State) (t : Int) (j : Nat) (e : EntryOut) : List Byte :=
  let head := toLE 1 e.stream ++ toLE 1 e.status ++ toLE 1 e.mode ++ toLE 1 e.values.length
  let rel := match e.sample with
    | some x => toLE 4 x.2.seq ++ ((List.range 7).map (fun i => toLE 4 (s.rel x.1 t i).toNat)).flatten ++
        toLE 4 (b2n (!s.noPose x.1 t) + 2 * b2n (s.noPose x.1 t))
    | none => s.freeBytes (2 * j) 32 ++ toLE 4 0
  let vals := (e.values.map (fun v => toLE 4 v.toNat)).flatten
  head ++ rel ++ vals ++ s.freeBytes (2 * j + 1) (64 - vals.length) ++ List.replicate 24 0

/-- The record of Table 9.6. -/
def State.setRecord (s : State) (k : Nat) (n t : Int) (es : List EntryOut) : List Byte :=
  let fl := b2n (es.any (fun e => e.status == stAlignLost)) + 2 * b2n (es.any EntryOut.dropped) + 4 * b2n (s.egoBad t)
  toLE 8 (ofInt 64 t) ++ toLE 4 (ofInt 32 n) ++ toLE 1 k ++ toLE 1 es.length ++ toLE 1 fl ++ List.replicate 49 0 ++
    ((List.range es.length).map (fun j => match es[j]? with | some e => s.entryBytes t j e | none => [])).flatten

/-- A record written with the discipline of R249: SEQ at offset 8 all ones, the rest, SEQ last; the first refusal is told. -/
def State.writeSeqRecord (s : State) (i : Initiator) (p a : Nat) (l : List Byte) : State × Bool :=
  let s1 := s.deliver i p (a + 8) (List.replicate 4 0xFF)
  let s2 := s1.1.deliver i p a (l.take 8)
  let s3 := s2.1.deliver i p (a + 12) (l.drop 12)
  let s4 := s3.1.deliver i p (a + 8) ((l.drop 8).take 4)
  (s4.1, s1.2 && s2.2 && s3.2 && s4.2)

/-! ### Projection (R265 to R268) -/

/-- Fields of a calibration copy in native format. -/
def calF (d : List Byte) (o : Nat) : W32 := BitVec.ofNat 32 (fieldLE d o 4)
def calRot (d : List Byte) (r c : Nat) : W32 := calF d (0x08 + 4 * (3 * r + c))
def calTrn (d : List Byte) (r : Nat) : W32 := calF d (0x2C + 4 * r)

/-- Three terms summed left to right. -/
def dot3 (a b : Nat → W32) : W32 := fadd (fadd (fmul (a 0) (b 0)) (fmul (a 1) (b 1))) (fmul (a 2) (b 2))

/-- One projected point: u, v, depth and flags (R267). -/
def projectPoint (cam lid : List Byte) (rot : Nat → Nat → W32) (trn : Nat → W32) (noPose : Bool) (p : Nat → W32) : W32 × W32 × W32 × Nat :=
  let pb := fun (r : Nat) => fadd (dot3 (calRot lid r) p) (calTrn lid r)
  let pb' := fun (r : Nat) => fadd (dot3 (rot r) pb) (trn r)
  let q := fun (r : Nat) => fsub (pb' r) (calTrn cam r)
  let pc := fun (r : Nat) => dot3 (fun j => calRot cam j r) q
  let k1 := calF cam 0x48
  let k2 := calF cam 0x4C
  let p1 := calF cam 0x50
  let p2 := calF cam 0x54
  let k3 := calF cam 0x58
  let one := fofInt 1
  let two := fofInt 2
  let x := fdiv (pc 0) (pc 2)
  let y := fdiv (pc 1) (pc 2)
  let r2 := fadd (fmul x x) (fmul y y)
  let rad := fadd one (fmul r2 (fadd k1 (fmul r2 (fadd k2 (fmul r2 k3)))))
  let xd := fadd (fmul x rad) (fadd (fmul (fmul (fmul two p1) x) y) (fmul p2 (fadd r2 (fmul (fmul two x) x))))
  let yd := fadd (fmul y rad) (fadd (fmul p1 (fadd r2 (fmul (fmul two y) y))) (fmul (fmul (fmul two p2) x) y))
  let u := fadd (fmul (calF cam 0x38) xd) (calF cam 0x40)
  let v := fadd (fmul (calF cam 0x3C) yd) (calF cam 0x44)
  let zmin := if calF cam 0x5C = 0 then (0x3DCCCCCD#32) else calF cam 0x5C
  let rmax := if calF cam 0x60 = 0 then one else calF cam 0x60
  let behind := flt (pc 2) zmin
  let outside := flt rmax r2
  let inView := !behind && !outside && !noPose && fle 0 u && flt u (fofInt (fieldLE cam 2 2 : Nat)) && fle 0 v &&
    flt v (fofInt (fieldLE cam 4 2 : Nat))
  (u, v, pc 2, b2n inView + 2 * b2n behind + 4 * b2n outside + 8 * b2n noPose)

/-- Identity matrix. -/
def ident3 (r c : Nat) : W32 := if r = c then fofInt 1 else 0

/-- Pair descriptor fields (Table 9.8). -/
def ppAddr (d : List Byte) : Nat := fieldLE d 8 8 % 2 ^ 48
def ppOut (d : List Byte) : Nat := fieldLE d 0x10 8 % 2 ^ 48
def ppCell (d : List Byte) : Nat := fieldLE d 0x18 8 % 2 ^ 48

/-- The output of a pair: header and points. -/
def State.projectAll (s : State) (d : List Byte) (t tc : Int) (pts : List Byte) (n : Nat) : List Byte :=
  let cam := mapGet [] s.fus.cal (fieldLE d 1 1)
  let lid := mapGet [] s.fus.cal (fieldLE d 2 1)
  let ego := bit (fieldLE d 3 1) 0
  let st := toInt 64 (fieldLE pts 0 8)
  let outs := (List.range n).map (fun (i : Nat) =>
    let o := 16 + 16 * i
    let tp := st + toInt 32 (fieldLE pts (o + 12) 4)
    let rot := fun (r c : Nat) => if ego then s.rel tp tc (7 + 3 * r + c) else ident3 r c
    let trn := fun (r : Nat) => if ego then s.rel tp tc (4 + r) else 0
    projectPoint cam lid rot trn (ego && s.noPose tp tc) (fun j => BitVec.ofNat 32 (fieldLE pts (o + 4 * j) 4)))
  toLE 8 (ofInt 64 t) ++ toLE 4 n ++ toLE 4 ((outs.filter (fun o => bit o.2.2.2 0)).length) ++
    (outs.map (fun o => toLE 4 o.1.toNat ++ toLE 4 o.2.1.toNat ++ toLE 4 o.2.2.1.toNat ++ toLE 4 o.2.2.2)).flatten

/-- A pair ends with output bytes and a status. -/
def State.pairEnds (s : State) (p : Nat) (d : List Byte) (l : List Byte) (status : Nat) : State :=
  s.fusPut ⟨p, [(ppOut d, l)], if ppCell d = 0 then none else some (ppCell d), status⟩

/-- One pair descriptor of channel k run for a set at t (R268): its output goes to the queue of outputs; false where a read waits. -/
def State.runPair (s : State) (k : Nat) (t : Int) (es : List EntryOut) (d : List Byte) : State × Bool :=
  let p := s.chPart k
  match (es[fieldLE d 0 1]?).bind (fun e => e.sample) with
  | none => (s.pairEnds p d (toLE 8 (ofInt 64 t) ++ List.replicate 8 0) stDeadlineMiss, true)
  | some x =>
    let h := s.gather .fusion k p (ppAddr d) 16 none
    match h.2 with
    | .wait => (h.1, false)
    | .fail c => (h.1.pairEnds p d [] c, true)
    | .bytes hb =>
      let n := fieldLE hb 8 4
      let m := min n (fieldLE d 4 4)
      let r := h.1.gather .fusion k p (ppAddr d) (16 + 16 * m) none
      match r.2 with
      | .wait => (r.1, false)
      | .fail c => (r.1.pairEnds p d [] c, true)
      | .bytes pts => ((r.1.bumpBy Reg.FUS_PROJ_CUT_CNT (n - m)).pairEnds p d (s.projectAll d t x.2.stamp pts m) stDone, true)

/-- The pair descriptors of channel k. -/
def State.pairList (s : State) (k : Nat) : State × Got := s.gather .fusion k (s.chPart k) (s.chPairs k) (32 * s.chNproj k) none
def pairDescs (l : List Byte) : List (List Byte) := (List.range (l.length / 32)).map (fun i => (l.drop (32 * i)).take 32)

/-- The pairs of a set in list order, as far as their reads have come; those left. -/
def State.runList (k : Nat) (t : Int) (es : List EntryOut) : List (List Byte) → State → State × List (List Byte)
  | [], s => (s, [])
  | d :: rest, s =>
    let r := s.runPair k t es d
    if r.2 then State.runList k t es rest (r.1.dropReads .fusion k) else (r.1, d :: rest)

/-- The projections of a set go on as far as they can; what is left. A list that cannot be read ends them (R270): the rule gives no place to show its BAD_ARG or TIER_FAULT
(DEDUCED, log entry 36). -/
def State.pairsGo (s : State) (x : FusPairs) : State × Option FusPairs :=
  let r : State × Option (List (List Byte)) := match x.todo with
    | some l => (s, some l)
    | none =>
      let g := s.pairList x.ch
      match g.2 with
      | .wait => (g.1, none)
      | .fail _ => (g.1.dropReads .fusion x.ch, some [])
      | .bytes l => (g.1.dropReads .fusion x.ch, some (pairDescs l))
  match r.2 with
  | none => (r.1, some x)
  | some l =>
    let u := State.runList x.ch x.t x.entries l r.1
    (u.1, if u.2.isEmpty then none else some { x with todo := some u.2 })

/-- An alignment channel of a lower number has an evaluation due at the same instant d that is not made (R270). -/
def State.evalFirst (s : State) (k : Nat) (d : Int) : Bool := (List.range 16).any (fun j => decide (j < k) && s.chEn j && decide (s.chDue j = d))

/-- The oldest projections go on, once no evaluation is due at their instant. -/
def State.pairsFlush (s : State) : State :=
  match s.fus.pairs with
  | [] => s
  | x :: rest =>
    if s.evalFirst 16 x.due then s
    else
      let r := s.pairsGo x
      r.1.modFus (fun f => { f with pairs := (match r.2 with | some y => y :: rest | none => rest) })

/-- One FCLK cycle of the fusion units: outputs and projections that waited for their paths go on. -/
def State.fusionCycle (s : State) : State :=
  let a := if s.fus.outs.isEmpty then s else s.fusFlush
  if a.fus.pairs.isEmpty then a else a.pairsFlush

/-- The writes of a record with the discipline of R249: SEQ at offset 8 all ones, the rest, SEQ last. -/
def seqWrites (a : Nat) (l : List Byte) : List (Nat × List Byte) :=
  [(a + 8, List.replicate 4 0xFF), (a, l.take 8), (a + 12, l.drop 12), (a + 8, (l.drop 8).take 4)]

/-- One evaluation of channel k for n: its record and completion go out, and its projections follow. -/
def State.evaluate (s : State) (k : Nat) (n : Int) : State :=
  let t := s.chT k n
  let d := t + s.chDelay k
  let r := (List.range (s.chN k)).foldl (State.evalEntry k t d) (s.bump Reg.FUS_REQ_CNT, [])
  let out := s.reg (Reg.FUS_CH_OUT k)
  let addr := bits out 47 0 + 4096 * (n % ((bits out 55 48 + 1 : Nat) : Int)).toNat
  let cell := s.reg (Reg.FUS_CH_CELL k)
  let st := if r.2.any EntryOut.dropped then stDeadlineMiss else stDone
  let o : FusOut := ⟨s.chPart k, seqWrites addr (r.1.setRecord k n t r.2), if bit cell 63 then none else some (bits cell 47 0), st⟩
  let a := (r.1.useFrees 4096).modFus (fun f => { f with
    next := mapInsert f.next k (n + 1), pairs := if s.chNproj k = 0 then f.pairs else f.pairs ++ [⟨k, t, d, r.2, none⟩] })
  (a.fusPut o).pairsFlush

def alignEvalEffect (k : Fin 16) (s : State) : State :=
  if !s.chEn k.val ∨ !s.reached (s.chDue k.val) ∨ s.evalFirst k.val (s.chDue k.val) then s
  else s.evaluate k.val (mapGet 0 s.fus.next k.val)

/-- ALIGN_EVAL: at DUE a channel evaluates its entries from the samples accepted by then and checks their drift; the aligned set, its completion and the projection pairs
follow as paths allow. Evaluations due at one instant run by channel number (R258 to R264, R267, R268, R270). -/
def execAlignEval (k : Fin 16) (s : State) : Host.Outcome State Fault Refusal := .next (s.onMain (alignEvalEffect k))

/-! ### Association (R269) -/

/-- Position and variance of entry i of a track or detection array, field f from 0. -/
def asField (l : List Byte) (i f : Nat) : W32 := BitVec.ofNat 32 (fieldLE l (16 + 32 * i + 4 + 4 * f) 4)

/-- The cost c of a track and a detection. -/
def assocCost (tr de : List Byte) (i j : Nat) : W32 :=
  let term := fun (f : Nat) =>
    let d := fsub (asField tr i f) (asField de j f)
    fdiv (fmul d d) (fadd (asField tr i (3 + f)) (asField de j (3 + f)))
  fadd (fadd (term 0) (term 1)) (term 2)

/-- Insertion by c; equal costs keep the order (i, j) in which pairs are entered. -/
def insertPair (e : W32 × Nat × Nat) : List (W32 × Nat × Nat) → List (W32 × Nat × Nat)
  | [] => [e]
  | f :: l => if flt f.1 e.1 then f :: insertPair e l else e :: f :: l

/-- The gated pairs sorted by (c, i, j). -/
def gatedPairs (tr de : List Byte) (nt nd : Nat) (gate : W32) : List (W32 × Nat × Nat) :=
  (((List.range nt).map (fun (i : Nat) => (List.range nd).map (fun (j : Nat) => (assocCost tr de i j, i, j)))).flatten.filter
    (fun e => fle e.1 gate)).foldr insertPair []

/-- Greedy assignment in order. -/
def assignPairs (l : List (W32 × Nat × Nat)) : List (W32 × Nat × Nat) :=
  l.foldl (fun out e => if out.any (fun o => o.2.1 == e.2.1 || o.2.2 == e.2.2) then out else out ++ [e]) []

def State.asPart (s : State) (a : Nat) : Nat := s.regBits (Reg.FUS_AS_CFG a) 11 8

/-- An association job ends with output bytes (none: nothing written) and a status. -/
def State.assocEnd (s : State) (a : Nat) (l : List Byte) (status : Nat) : State :=
  let cell := s.reg (Reg.FUS_AS_CELL a)
  (s.dropReads .fusion (16 + a)).fusPut
    ⟨s.asPart a, [(s.reg (Reg.FUS_AS_OUT a) % 2 ^ 48, l)], if bit cell 63 then none else some (bits cell 47 0), status⟩

/-- Header with COUNT. -/
def asHeader (n : Nat) : List Byte := toLE 4 n ++ List.replicate 12 0

/-- The job of channel a; true where a read waits. -/
def State.assocJob (s : State) (a : Nat) : State × Bool :=
  let p := s.asPart a
  let key := 16 + a
  let c := s.gatherCell .fusion key p (s.reg (Reg.FUS_AS_READY a) % 2 ^ 48)
  match c.2 with
  | .wait => (c.1, true)
  | .fail st => (c.1.assocEnd a [] st, false)
  | .bytes v =>
    if fromLE v < s.reg (Reg.FUS_AS_THR a) then (c.1.assocEnd a (asHeader 0) stDeadlineMiss, false)
    else
      let ta := s.reg (Reg.FUS_AS_TRACK a) % 2 ^ 48
      let da := s.reg (Reg.FUS_AS_DET a) % 2 ^ 48
      let h1 := c.1.gather .fusion key p ta 16 none
      let h2 := h1.1.gather .fusion key p da 16 none
      match h1.2.join h2.2 with
      | .wait => (h2.1, true)
      | .fail st => (h2.1.assocEnd a [] st, false)
      | .bytes l =>
        let nt := fieldLE l 0 4
        let nd := fieldLE l 16 4
        if 512 < nt ∨ 1024 < nd then (h2.1.assocEnd a [] stBadArg, false)
        else
          let r1 := h2.1.gather .fusion key p ta (16 + 32 * nt) none
          let r2 := r1.1.gather .fusion key p da (16 + 32 * nd) none
          match r1.2, r2.2 with
          | .bytes tr, .bytes de =>
            let g := gatedPairs tr de nt nd (BitVec.ofNat 32 (s.regBits (Reg.FUS_AS_CFG a) 63 32))
            if 65536 < g.length then (r2.1.assocEnd a (asHeader 0) stNoSpace, false)
            else
              let o := assignPairs g
              (r2.1.assocEnd a (asHeader o.length ++ (o.map (fun e => toLE 2 e.2.1 ++ toLE 2 e.2.2 ++ toLE 4 e.1.toNat)).flatten) stDone, false)
          | .fail st, _ => (r2.1.assocEnd a [] st, false)
          | _, .fail st => (r2.1.assocEnd a [] st, false)
          | _, _ => (r2.1, true)

/-- The instant of association channel a for n: DUE of its alignment channel and its DELAY. -/
def State.asDue (s : State) (a : Nat) (n : Int) : Int :=
  let k := s.regBits (Reg.FUS_AS_TIME a) 3 0
  s.chT k n + s.chDelay k + (s.regBits (Reg.FUS_AS_TIME a) 23 4 * 1000 : Nat)

/-- Association channel a runs with its alignment channel. -/
def State.asOn (s : State) (a : Nat) : Bool := bit (s.reg (Reg.FUS_AS_CFG a)) 0 && s.chEn (s.regBits (Reg.FUS_AS_TIME a) 3 0)

/-- A job that starts at the instant d of association channel a comes before it: an evaluation, its projections, or a lower association channel (R270). -/
def State.assocAfter (s : State) (a : Nat) (d : Int) : Bool :=
  s.evalFirst 16 d || s.fus.pairs.any (fun x => x.due == d) ||
    (List.range 4).any (fun b => decide (b < a) && s.asOn b && decide (s.asDue b (mapGet 0 s.fus.asNext b) = d))

def associationJobEffect (a : Fin 4) (s : State) : State :=
  let n := mapGet 0 s.fus.asNext a.val
  if !s.asOn a.val ∨ !s.reached (s.asDue a.val n) ∨ s.assocAfter a.val (s.asDue a.val n) then s
  else
    let r := s.assocJob a.val
    if r.2 then r.1 else r.1.modFus (fun f => { f with asNext := mapInsert f.asNext a.val (n + 1) })

/-- ASSOCIATION_JOB: at DUE + DELAY an association channel tests its ready cell, gates the pairs of tracks and detections and assigns them greedily (R269). -/
def execAssociationJob (a : Fin 4) (s : State) : Host.Outcome State Fault Refusal := .next (s.onMain (associationJobEffect a))

/-! ### Enabling (R254, R256, R265, R266, R272) -/

/-- Value maps of the streams are read; the history of a frame stream keeps its 8 latest. -/
def State.readVmaps (s : State) (p : Nat) (cs : List Nat) : State × Bool :=
  cs.foldl (fun (u : State × Bool) c =>
    let r := u.1.gather .fusion 32 p (hubBase + u.1.reg Reg.FUS_VMAP_BASE + 64 * c) 64 none
    match r.2 with
    | .bytes l =>
      let m := (List.range 16).map (fun i => fieldLE l (4 * i) 4)
      (r.1.modFus (fun f => { f with
        vmap := mapInsert f.vmap c m,
        hist := if vmCount m = 0 then mapSet [] f.hist c (let h := mapGet [] f.hist c; h.drop (h.length - 8)) else f.hist }), u.2)
    | _ => (r.1, false)) (s, true)

/-- A calibration entry as the unit keeps it: FMT 1 converted, the quaternion normalised in FP64 and each element of its matrix rounded once (R266); none for FMT above 1 or
a quaternion of norm 0. -/
def convertCal (l : List Byte) : Option (List Byte) :=
  let f := fieldLE l 0 1
  if f = 0 then some l
  else if f = 1 then
    let q := (List.range 4).map (fun i => dOf32 (fieldLE l (8 + 4 * i) 4))
    if dIsZero (dNorm q) then none
    else
      let mm := fun (i : Nat) => let z := toInt 32 (fieldLE l (0x18 + 4 * i) 4); if z = 0 then (0 : W32) else flQuot (decide (z < 0)) z.natAbs 1000
      some (l.take 8 ++ ((qRows (qNormalise q)).flatten.map (fun x => toLE 4 (f64to32 x).toNat)).flatten ++
        ((List.range 3).map (fun i => toLE 4 (mm i).toNat)).flatten ++ (l.drop 0x24).take 16 ++ (l.drop 0x34).take 16 ++ List.replicate 4 0 ++
        l.drop 0x5C)
  else none

/-- The calibration entries cs are read and converted. -/
def State.readCals (s : State) (p : Nat) (cs : List Nat) : State × Bool :=
  cs.foldl (fun (u : State × Bool) c =>
    let r := u.1.gather .fusion 32 p (hubBase + u.1.reg Reg.FUS_CAL_BASE + 128 * c) 128 none
    match r.2 with
    | .bytes l =>
      match convertCal l with
      | some d => (r.1.modFus (fun f => { f with cal := mapSet [] f.cal c d }), u.2)
      | none => (r.1, false)
    | _ => (r.1, false)) (s, true)

/-- Channel k is enabled: value maps and calibration are read, its entries start undisturbed, its first set is the first still due; false aborts the
group. -/
def State.chEnable (s : State) (k : Nat) : State × Bool :=
  let p := s.chPart k
  let a := s.readVmaps p (s.chStreams k)
  let b := if a.1.chNproj k = 0 then (a.1, true)
    else
      let r := a.1.pairList k
      match r.2 with
      | .bytes l => r.1.readCals p (((pairDescs l).map (fun d => [fieldLE d 1 1 % 64, fieldLE d 2 1 % 64])).flatten)
      | _ => (r.1, false)
  let c := ((b.1.dropReads .fusion 32).dropReads .fusion k).setReg (Reg.FUS_CH_STATE k) 0
  (c.modFus (fun f => { f with next := mapInsert f.next k (c.chFirst k (c.chDelay k) c.nowNs) }), a.2 && b.2)

/-- Association channel a is enabled: its first job is the first still due. -/
def State.asEnable (s : State) (a : Nat) : State :=
  let k := s.regBits (Reg.FUS_AS_TIME a) 3 0
  let d := s.chDelay k + (s.regBits (Reg.FUS_AS_TIME a) 23 4 * 1000 : Nat)
  s.modFus (fun f => { f with asNext := mapInsert f.asNext a (s.chFirst k d s.nowNs) })

/-- EGO_EN is set: the pose starts at q = (1, 0, 0, 0), p = 0, and the first tick is the next instant. -/
def State.egoEnable (s : State) : State :=
  let cfg := s.reg Reg.FUS_EGO_CFG
  let a := (s.readVmaps s.egoPart ([bits cfg 14 8] ++ (if bit cfg 1 then [] else [bits cfg 22 16]))).1
  ((a.dropReads .fusion 32).modFus (fun f => { f with tick := a.nowNs / 500000 + 1, poses := [], heldRun := 0, omega := [0, 0, 0], vel := [0, 0, 0] })).setReg
    Reg.FUS_STATUS (putBits (a.reg Reg.FUS_STATUS) 1 0 1)

/-- EGO_EN is cleared. -/
def State.egoDisable (s : State) : State := s.setRegBits Reg.FUS_STATUS 1 0 0

end Sys2Proof.Machine
end

