-- ==== Sys2Proof/Machine/Planner.lean ====
section
/-! DEFINITION. The planner check unit (11): planning cycles, the body model and single tests, the pinned grid, the stop trajectory, candidates,
selection, the urgent recheck, and the result record. -/

namespace Sys2Proof.Machine

def State.modPln (s : State) (f : Planner → Planner) : State := { s with pln := f s.pln }
def State.putPlan (s : State) (r : PlanRun) : State := s.modPln (fun p => { p with run := some r })

def State.plnEn (s : State) : Bool := bit (s.reg Reg.PLN_CTRL) 0
def State.plnPart (s : State) : Nat := s.regBits Reg.PLN_CFG 11 8
/-- S_n. -/
def State.plnStart (s : State) (n : Int) : Int := toInt 64 (s.reg Reg.PLN_PHASE) + n * (s.reg Reg.PLN_PERIOD : Int)

/-! ### The body table (R296, R299) -/

/-- Positive and finite as a real number; a subnormal is what it stands for (Tables 11.3, 11.7 and R306 give conditions, no arithmetic). -/
def isPos32 (w : W32) : Bool := decide (0 < w.toNat) && decide (w.toNat < 0x7F800000)
def primF (l : List Byte) (o : Nat) : W32 := BitVec.ofNat 32 (fieldLE l o 4)

/-- An entry satisfies Table 11.3, which asks R_HX to be above zero and finite, and nothing of the box fields HY, HZ and YAW_P. -/
def primOk (l : List Byte) : Bool :=
  let ty := fieldLE l 0 1
  decide (ty ≤ 1) && fieldLE l 1 3 == 0 && isFinite32 (primF l 4) && isFinite32 (primF l 8) && isFinite32 (primF l 12) && isPos32 (primF l 0x10) &&
    (ty == 1 || (fieldLE l 0x14 4 == 0 && fieldLE l 0x18 4 == 0 && fieldLE l 0x1C 4 == 0))

/-- PERIOD and BUDGET lie in their ranges (R295), WDT and A_STOP satisfy Table 11.7 (R296). -/
def State.plnRules (s : State) : Bool :=
  let p := s.reg Reg.PLN_PERIOD
  let b := s.reg Reg.PLN_BUDGET
  let w := s.reg Reg.PLN_WDT
  decide (1000000 ≤ p) && decide (p ≤ 1000000000) && decide (60000 ≤ b) && decide (b ≤ p) && decide (1 ≤ w) && decide (w ≤ 1000000) &&
    isPos32 (BitVec.ofNat 32 (s.reg Reg.PLN_A_STOP)) && decide (1 ≤ s.regBits Reg.PLN_CFG 4 0) && decide (s.regBits Reg.PLN_CFG 4 0 ≤ 16)

/-- EN is set at this commit point: the body table is read, the first cycle is the first instant after it; false aborts the group (R295, R296). -/
def State.plnEnable (s : State) : State × Bool :=
  let n := s.regBits Reg.PLN_CFG 4 0
  let g := s.gather .planner 2 s.plnPart (hubBase + s.reg Reg.PLN_BODY_BASE) (32 * n) none
  let t := g.1.dropReads .planner 2
  match g.2 with
  | .bytes l =>
    let b := (List.range n).map (fun i => (l.drop (32 * i)).take 32)
    let k := (s.nowNs - toInt 64 (s.reg Reg.PLN_PHASE)) / (max 1 (s.reg Reg.PLN_PERIOD) : Nat) + 1
    (t.modPln (fun p => { p with n := k, stopping := false, body := b }), s.plnRules && b.all primOk)
  | _ => (t, false)

/-- EN is cleared: at once, or when the cycle in hand ends. -/
def State.plnDisable (s : State) : State :=
  if s.pln.run.isSome then (s.setRegBit Reg.PLN_CTRL 0).modPln (fun p => { p with stopping := true }) else s.setReg Reg.PLN_CTRL 0

/-! ### The grid (R301 to R304) -/

def gLog (h : List Byte) (a : Nat) : Nat := fieldLE h (4 + a) 1
def gInv (h : List Byte) : W32 := primF h 0x20
def gOrg (h : List Byte) (a : Nat) : W32 := primF h (0x24 + 4 * a)
def gTmap (h : List Byte) : Int := toInt 64 (fieldLE h 8 8)
def gT0 (h : List Byte) : Int := toInt 64 (fieldLE h 0x10 8)
def gDt (h : List Byte) : Nat := fieldLE h 0x18 4

/-- Base of layer l of buffer b (R302). -/
def layerBase (b l : Nat) : Nat := gridBase + b * 0x1000000 + l * 0x40000

/-- floor of a value; none where it is not finite. -/
def FV.floor : FV → Option Int
  | .fin neg m e =>
    let z : Int := if neg then -(m : Int) else m
    some (if 0 ≤ e then z * (2 ^ e.toNat : Nat) else z / (2 ^ (-e).toNat : Nat))
  | _ => none

/-- K_p: the bound of a primitive under a grid (R301), its products exact (DEDUCED, log entry 38). -/
def primBound (h prim : List Byte) : Nat :=
  let sphere := fieldLE prim 0 1 == 0
  let ext := fun (a : Nat) =>
    let v := if sphere then ewp (primF prim 0x10)
      else if a = 2 then ewp (primF prim 0x18) else (ewp (primF prim 0x10)).add (ewp (primF prim 0x14))
    if gLog h a = 0 then 1 else ((((v.mul (ewp (gInv h))).scale 1).floor.getD 0) + 2).toNat
  (List.range 3).foldl (fun k a => k * ((ext a + 7) / 8)) 1

/-- A header satisfies Table 11.4 and R302. -/
def headerOk (h : List Byte) : Bool :=
  (List.range 3).all (fun a => decide (gLog h a ≤ 16)) && decide (gLog h 0 + gLog h 1 + gLog h 2 ≤ 21) && fieldLE h 7 1 == 0 &&
    decide (1 ≤ gDt h) && decide (gDt h ≤ 1000000) && isPos32 (primF h 0x1C) && isPos32 (gInv h) && (h.drop 0x40).all (fun b => b == 0)

/-- Layer of waypoint k before clamping (R304). -/
def State.planLayer (s : State) (r : PlanRun) (k : Nat) : Int :=
  (r.start + (k * (s.reg Reg.PLN_WDT * 1000) : Nat) - gT0 r.hdr) / (1000 * gDt r.hdr : Nat)
def clampLayer (l : Int) : Nat := if l < 0 then 0 else min 63 l.toNat

/-- HORIZON of a trajectory of n waypoints. -/
def State.planHorizon (s : State) (r : PlanRun) (n : Nat) : Bool :=
  gDt r.hdr != 0 && (List.range n).any (fun k => decide (s.planLayer r k < 0) || decide (63 < s.planLayer r k))

/-! ### One test (R300) -/

/-- Centre, extents and the values on the way for a primitive at a waypoint. -/
def primPlace (prim : List Byte) (wp : List Nat) : List W32 × List W32 × List W32 :=
  let x := fun (i : Nat) => BitVec.ofNat 32 (wp.getD i 0)
  let psi := x 3
  let c := fcos psi
  let sn := fsin psi
  let cx := primF prim 4
  let cy := primF prim 8
  let g := [fsub (fadd (x 0) (fmul c cx)) (fmul sn cy), fadd (fadd (x 1) (fmul sn cx)) (fmul c cy), fadd (x 2) (primF prim 12)]
  let hx := primF prim 0x10
  if fieldLE prim 0 1 = 0 then (g, [hx, hx, hx], [c, sn])
  else
    let hy := primF prim 0x14
    let y := fadd psi (primF prim 0x1C)
    let c2 := fcos y
    let s2 := fsin y
    (g, [fadd (fmul (fabs c2) hx) (fmul (fabs s2) hy), fadd (fmul (fabs s2) hx) (fmul (fabs c2) hy), primF prim 0x18], [c, sn, c2, s2])

/-- Cell index of a coordinate. -/
def gridCell (h : List Byte) (a : Nat) (v : W32) : Option Int := (ewp (fmul (fsub v (gOrg h a)) (gInv h))).floor

/-- The cells lo to hi of an axis; none where a value is not finite, on a planar axis as well, or a cell lies outside the grid. -/
def axisCells (h : List Byte) (a : Nat) (g e : W32) : Option (Nat × Nat) :=
  if !isFinite32 (fsub g e) || !isFinite32 (fadd g e) then none
  else
    match gridCell h a (fsub g e), gridCell h a (fadd g e) with
    | some lo, some hi =>
      if gLog h a = 0 then some (0, 0)
      else if lo < 0 ∨ ((2 ^ gLog h a : Nat) : Int) ≤ hi then none else some (lo.toNat, hi.toNat)
    | _, _ => none

/-- The cells of the three axes; none where the test collides without them. -/
def testBox (h prim : List Byte) (wp : List Nat) : Option ((Nat × Nat) × (Nat × Nat) × (Nat × Nat)) :=
  let p := primPlace prim wp
  if !(p.2.2 ++ p.1 ++ p.2.1).all isFinite32 then none
  else
    let ax := fun (a : Nat) => axisCells h a (p.1.getD a 0) (p.2.1.getD a 0)
    match ax 0, ax 1, ax 2 with
    | some x, some y, some z => some (x, y, z)
    | _, _, _ => none

/-- Bytes of the layer at base that hold the tested cells, with the bit of each; none where the test collides without them. -/
def testCells (h prim : List Byte) (wp : List Nat) (base : Nat) : Option (List (Nat × Nat)) :=
  (testBox h prim wp).map (fun b =>
    let run := fun (q : Nat × Nat) => (List.range (q.2 + 1 - q.1)).map (fun i => q.1 + i)
    (run b.2.2).flatMap (fun iz => (run b.2.1).flatMap (fun iy => (run b.1).map (fun ix =>
      let j := ix + 2 ^ gLog h 0 * (iy + 2 ^ gLog h 1 * iz)
      (base + j / 8, j % 8)))))

/-- K: the block count of a test (R301). -/
def testK (h prim : List Byte) (wp : List Nat) : Nat :=
  match testBox h prim wp with
  | some (x, y, z) => let n := fun (q : Nat × Nat) => (q.2 + 1 - q.1 + 7) / 8; n x * n y * n z
  | none => 1

/-- The layer of a waypoint may be read by the unit's partition. -/
def State.layerOk (s : State) (b l : Nat) : Bool := s.admits .planner (some s.plnPart) .r (layerBase b l) 0x40000

/-- The primitive collides at the waypoint; an uncorrectable word counts as occupied (R312). -/
def State.primHits (s : State) (r : PlanRun) (prim : List Byte) (wp : List Nat) (l : Nat) : Bool :=
  match testCells r.hdr prim wp (layerBase r.buf l) with
  | none => true
  | some cs => cs.any (fun c => s.poison.contains (c.1 / 8 * 8) || bit (fieldLE (s.readBytes c.1 1) 0 1) c.2)

/-- Waypoint k collides. -/
def State.wpHits (s : State) (r : PlanRun) (wp : List Nat) (k : Nat) : Bool :=
  let l := clampLayer (s.planLayer r k)
  r.full || !s.layerOk r.buf l || s.pln.body.any (fun b => s.primHits r b wp l)

/-- A trajectory passes (R300). -/
def State.trajPasses (s : State) (r : PlanRun) (wps : List (List Nat)) : Bool :=
  (List.range wps.length).all (fun k => !s.wpHits r (wps.getD k []) k)

/-- A refused layer among those a trajectory uses. -/
def State.trajRefused (s : State) (r : PlanRun) (n : Nat) : Bool :=
  !r.full && (List.range n).any (fun k => !s.layerOk r.buf (clampLayer (s.planLayer r k)))

/-- Words read by single checks of a trajectory. -/
def State.trajWords (s : State) (r : PlanRun) (wps : List (List Nat)) : List Nat :=
  if r.full then []
  else (List.range wps.length).flatMap (fun k => s.pln.body.flatMap (fun b =>
    ((testCells r.hdr b (wps.getD k []) (layerBase r.buf (clampLayer (s.planLayer r k)))).getD []).map (fun c => c.1 / 8 * 8)))

/-- The unit reads the words that satisfy ok: corrections and uncorrectable words are recorded, the latter counted; the number of them (R160, R312). -/
def State.gridRead (s : State) (ok : Nat → Bool) : State × Nat :=
  let bad := s.poison.filter ok
  let a := (s.upset.filter ok).foldl State.correct s
  let b := bad.foldl (fun t w => t.uncorrectable w s.plnPart (DoubtInfo.plain 8)) a
  (b.bumpBy Reg.PLN_POISON_CNT bad.length, bad.length)

/-! ### FLAGS and statuses (R310 to R313) -/

def pfStale : Nat := 0
def pfStopBlocked : Nat := 1
def pfMapBad : Nat := 2
def pfNoPose : Nat := 3
def pfHorizon : Nat := 4
def pfGridPoison : Nat := 5
def pfCandPoison : Nat := 6
def pfNotReady : Nat := 7
def pfRecheckFail : Nat := 8

def PlanRun.flag (r : PlanRun) (b : Nat) : PlanRun := { r with flags := putBit r.flags b true }
def PlanRun.flagIf (r : PlanRun) (c : Bool) (b : Nat) : PlanRun := if c then r.flag b else r
def PlanRun.cause (r : PlanRun) (c : Nat) : PlanRun := { r with causes := c :: r.causes }

/-- STATUS of a list of statuses (R313). -/
def planStatusOf (l : List Nat) : Nat :=
  (([stImminent, stTierFault, stBadArg, stPlanTimeout, stNoPath, stStaleMap]).find? (fun c => l.contains c)).getD stDone

/-! ### Pinning (R305, R306) -/

/-- SSET on the pin cell. -/
def State.pinCell (s : State) (ver buf : Nat) (on : Bool) : State :=
  s.postCell .planner s.plnPart (s.reg Reg.PLN_PIN_ADDR % 2 ^ 48) (.set (BitVec.ofNat 64 (ver + buf * 2 ^ 32 + b2n on * 2 ^ 33)))

/-- The buffer that publication value v names is pinned for run r; its header is still to be read (R305). -/
def State.pinTake (s : State) (r : PlanRun) (v : Nat) : State × PlanRun :=
  (s.pinCell (v % 2 ^ 32) (bits v 32 32) true,
    { r with named := true, pinned := true, ver := v % 2 ^ 32, buf := bits v 32 32, valid := bit v 63, hdrWait := true })

/-- Header h makes the pinned grid count as fully occupied (R306). -/
def State.gridBad (s : State) (r : PlanRun) (h : List Byte) : Bool :=
  let age := r.start - gTmap h
  !r.valid || fieldLE h 0 4 != r.ver || !headerOk h || decide (age < 0) || decide ((1000 * s.reg Reg.PLN_MAP_AGE : Nat) < age) ||
    decide (48 < ((s.pln.body.map (primBound h)).sum))

/-- The header is unknown: no buffer is pinned, or its read failed. Its bytes are free values and the grid counts as fully occupied (R306, R312; DEDUCED, log entry 38). -/
def State.blindHeader (s : State) (r : PlanRun) : State × PlanRun :=
  (s.useFrees 128, { r with hdr := s.freeBytes 0 128, full := true, hdrWait := false })

/-- The header of the pinned buffer, read under key; none while it waits for its path. The status of a read that failed comes with it. -/
def State.pinRead (s : State) (r : PlanRun) (key : Nat) : State × Option PlanRun :=
  if !r.pinned then (let b := s.blindHeader r; (b.1, some b.2))
  else
    let g := s.gather .planner key s.plnPart (hubBase + s.reg Reg.PLN_GHDR_BASE + 128 * r.buf) 128 none
    match g.2 with
    | .wait => (g.1, none)
    | .fail c => let b := g.1.blindHeader r; (b.1, some (b.2.cause c))
    | .bytes h => (g.1, some { r with hdr := h, full := s.gridBad r h, hdrWait := false })

/-- The grid is unusable: MAP_BAD, counted once a cycle. -/
def State.mapBad (u : State × PlanRun) : State × PlanRun :=
  if !u.2.full then u
  else (if bit u.2.flags pfMapBad then u.1 else u.1.bump Reg.PLN_MAPBAD_CNT, u.2.flag pfMapBad)

/-- The pin is released. -/
def State.unpin (s : State) (r : PlanRun) : State × PlanRun :=
  if r.pinned then (s.pinCell r.ver r.buf false, { r with pinned := false }) else (s, r)

/-! ### The stop trajectory (R307) -/

/-- REL(a -> b) as FP64 patterns: 0 to 3 the orientation, 4 to 6 the translation, 7 to 15 the rotation matrix by rows. -/
def State.rel64 (s : State) (a b : Int) : List Nat := (List.range 16).map (fun i => dOf32 (s.rel a b i).toNat)

/-- The yaw of a relative pose: atan2(R[1][0], R[0][0]). -/
def relYaw (x : List Nat) : Nat := dAtan2 (x.getD 10 0) (x.getD 7 0)

/-- P_0 in FP64: POSE_M composed with the inverse of REL(T_MAP -> S_n), whose position is -R^T t and whose yaw is -atan2(R[1][0], R[0][0]). -/
def stopPose (rel pose : List Nat) : List Nat :=
  let m := fun (i : Nat) => pose.getD i 0
  let p := (List.range 3).map (fun c => dNeg (dDot ((List.range 3).map (fun r => rel.getD (7 + 3 * r + c) 0)) ((rel.drop 4).take 3)))
  let q := fun (i : Nat) => p.getD i 0
  let c := dCos (m 3)
  let z := dSin (m 3)
  [dSub (dAdd (m 0) (dMul c (q 0))) (dMul z (q 1)), dAdd (dAdd (m 1) (dMul z (q 0))) (dMul c (q 1)), dAdd (m 2) (q 2), dAdd (m 3) (dNeg (relYaw rel))]

/-- omega0: the yaw of REL(S_n - 500,000 -> S_n) over 0.0005 s. -/
def stopRate (rel : List Nat) : Nat := dDiv (relYaw rel) 0x3F40624DD2F1A9FC

/-- V.x of the newest entry at or before S_n; with no entry a free value. -/
def State.stopV0 (s : State) (r : PlanRun) : Nat :=
  match s.fus.poses.find? (fun x => decide (x.k * 500000 ≤ r.start)) with
  | some e => e.v.getD 0 0
  | none => (Config.freeWord s.free).toNat % 2 ^ 32

/-- |v0| < 0.1 m/s, in FP64. -/
def stopStill (v0 : Nat) : Bool := dLt (Prec.double.abs (dOf32 v0)) 0x3FB999999999999A

/-- s_k: the signed distance at waypoint k, v and a in FP64, WDT in us. -/
def stopPath (v a wdt k : Nat) : Nat :=
  let u := Prec.double.abs v
  let ts := dDiv u a
  let t := dDiv (dOfInt (k * wdt : Nat)) (dOfInt 1000000)
  let tau := if Prec.double.le t ts then t else ts
  let d := dSub (dMul u tau) (dDiv (dMul a (dMul tau tau)) dTwo)
  if v.testBit 63 then dNeg d else d

/-- Waypoint k in FP64 from P_0, v0, omega0 and s_k: a straight line where |kappa| < 10^-6, an arc otherwise (R307). -/
def stopWay (p : List Nat) (v w sk : Nat) : List Nat :=
  let e := fun (i : Nat) => p.getD i 0
  let ka := dDiv w v
  if dLt (Prec.double.abs ka) 0x3EB0C6F7A0B5ED8D then [dAdd (e 0) (dMul sk (dCos (e 3))), dAdd (e 1) (dMul sk (dSin (e 3))), e 2, e 3]
  else
    let y := dAdd (e 3) (dMul ka sk)
    [dAdd (e 0) (dDiv (dSub (dSin y) (dSin (e 3))) ka), dSub (e 1) (dDiv (dSub (dCos y) (dCos (e 3))) ka), e 2, y]

/-- P_0, v0, omega0 and the 64 waypoints, each element rounded once to FP32 (R307; log entry 35: FP64 operation by operation). -/
def State.planStop (s : State) (r : PlanRun) : PlanRun :=
  let p := stopPose (s.rel64 (gTmap r.hdr) r.start) ((List.range 4).map (fun i => dOf32 (fieldLE r.hdr (0x30 + 4 * i) 4)))
  let v0 := s.stopV0 r
  let v := dOf32 v0
  let w := stopRate (s.rel64 (r.start - 500000) r.start)
  let out := fun (l : List Nat) => l.map (fun x => (f64to32 x).toNat)
  { r with
    p0 := out p, v0 := v0, w0 := (f64to32 w).toNat,
    stop := (List.range 64).map (fun k =>
      out (if stopStill v0 then p else stopWay p v w (stopPath v (dOf32 (s.reg Reg.PLN_A_STOP)) (s.reg Reg.PLN_WDT) k))) }

/-! ### The cycle -/

/-- The publication cell, read once under key. -/
def State.readPub (s : State) (key : Nat) : State × Got := s.gatherCell .planner key s.plnPart (s.reg Reg.PLN_PUB_ADDR % 2 ^ 48)

/-- PIN has read what it reads: NOPOSE, MAP_BAD, the stop trajectory; PRECHECK and PREP begin (R306, R307). -/
def State.pinEnd (s : State) (r : PlanRun) : State :=
  let np := s.noPose (gTmap r.hdr) r.start
  let q := r.flagIf np pfNoPose
  let w := State.mapBad (s, { q with full := q.full || np })
  (w.1.putPlan (w.1.planStop { w.2 with stage := 2 })).useFrees 1

/-- PIN in one HCLK cycle, as far as its paths are owned: the publication and the pin cell, then the header (R305, R306). A refused publication pins nothing. -/
def State.planPin (s : State) (r : PlanRun) : State :=
  if r.named then
    let g := s.pinRead r 0
    match g.2 with
    | some q => g.1.pinEnd q
    | none => g.1
  else
    let c := s.readPub 0
    match c.2 with
    | .wait => c.1.putPlan r
    | .fail st => (c.1.useFrees 1).putPlan ({ r with named := true, ver := (Config.freeWord c.1.free).toNat % 2 ^ 32 }.cause st)
    | .bytes b => let u := c.1.pinTake r (fromLE b); u.1.putPlan u.2

def planCycleStartEffect (s : State) : State :=
  let n := s.pln.n
  let t := s.plnStart n
  if !s.plnEn ∨ s.pln.stopping ∨ s.pln.run.isSome ∨ s.diag.halted.contains 3 ∨ !s.reached t then s
  else (s.modPln (fun x => { x with n := n + 1 })).planPin (PlanRun.fresh n t (t + (s.reg Reg.PLN_BUDGET : Int)))

/-- PLAN_CYCLE_START: at S_n the unit reads the publication cell and pins its buffer; its header and the stop trajectory follow in the HCLK cycles after it (R295, R306,
R307). -/
def execPlanCycleStart (s : State) : Host.Outcome State Fault Refusal := .next (s.onMain planCycleStartEffect)

/-- The path to the grid store is owned. -/
def State.gridPath (s : State) : Bool := s.mayGo .planner s.plnPart .r gridBase 8

/-- The stop trajectory is checked against the pinned grid by single checks. -/
def State.checkStop (s : State) (r : PlanRun) : State × PlanRun :=
  let ws := s.trajWords r r.stop
  let g := s.gridRead (fun w => ws.contains w)
  let q := { r with stopOk := some (s.trajPasses r r.stop), stopVer := some r.ver }
  (g.1, (if s.trajRefused r 64 then q.cause stBadArg else q).flagIf (decide (0 < g.2)) pfGridPoison)

def planPrecheckEndEffect (s : State) : State :=
  match s.pln.run with
  | none => s
  | some r =>
    if r.stage ≠ 2 ∨ r.preDone ∨ s.reached r.deadline ∨ s.diag.halted.contains 3 ∨ !s.gridPath then s
    else
      let u := s.checkStop r
      u.1.putPlan { u.2 with preDone := true, stopFirst := u.2.stopOk == some true }

/-- PLAN_PRECHECK_END: the stop trajectory has been checked against the pinned grid (R308). -/
def execPlanPrecheckEnd (s : State) : Host.Outcome State Fault Refusal := .next (s.onMain planPrecheckEndEffect)

/-- Base of the array of cycle n (R297). -/
def State.candBase (s : State) (n : Int) : Nat := (if n % 2 = 0 then 0 else 0x420000) + s.reg Reg.PLN_CAND_ADDR % 2 ^ 48

/-- Uncorrectable words in an extent. -/
def State.badWords (s : State) (a n : Nat) : Nat := ((wordsOf a n).filter (fun w => s.poison.contains w)).length

/-- COST is neither NaN nor +inf. -/
def costOk (w : Nat) : Bool := !isNan32 (BitVec.ofNat 32 w) && w != 0x7F800000

/-- Waypoints of entry h that are read: those before NWP; of an entry whose NWP is uncorrectable none (R297, R298). -/
def State.candReads (s : State) (a : Nat) : Nat := if s.poisoned a 8 then 0 else min 64 (fieldLE (s.readBytes (a + 4) 1) 0 1)

/-- Entry h of n waypoints read, binned where it is eligible (R298). -/
def candOf (i : Nat) (h : List Byte) : List PlanCand :=
  let n := fieldLE h 4 1
  if n < 1 ∨ 64 < n ∨ !costOk (fieldLE h 0 4) then []
  else [⟨i, fieldLE h 0 4, (List.range n).map (fun k => (List.range 4).map (fun e => fieldLE h (16 + 16 * k + 4 * e) 4))⟩]

/-- Entry i of the array at base is read; poisoned words are counted; whether a read waits. -/
def State.prepCand (base : Nat) (u : State × List PlanCand × Nat × Bool) (i : Nat) : State × List PlanCand × Nat × Bool :=
  let a := base + 0x40 + 1040 * i
  let n := 16 + 16 * u.1.candReads a
  let g := u.1.fetch .planner u.1.plnPart a n none
  match g.2 with
  | .wait => (g.1, u.2.1, u.2.2.1, true)
  | .fail _ => (g.1, u.2.1, u.2.2.1 + u.1.badWords a n, u.2.2.2)
  | .bytes h => (g.1, u.2.1 ++ candOf i h, u.2.2)

/-- The entries 1 to n - 1 after the header. -/
def State.prepEntries (s : State) (base n : Nat) (q : PlanRun) : State × Option PlanRun :=
  let u := ((List.range n).drop 1).foldl (State.prepCand base) (s, [], 0, false)
  if u.2.2.2 then (u.1, none)
  else (u.1.bumpBy Reg.PLN_POISON_CNT u.2.2.1, some ({ q with count := n, cands := u.2.1 }.flagIf (decide (0 < u.2.2.1)) pfCandPoison))

/-- The header h of the array at base. -/
def State.prepHeader (s : State) (base : Nat) (h : List Byte) (q : PlanRun) : State × Option PlanRun :=
  let n := fieldLE h 0 2
  if fieldLE h 4 4 ≠ ofInt 32 q.n then (s, some (q.flag pfNotReady))
  else if n = 0 ∨ 4096 < n then (s, some (q.cause stBadArg))
  else if !s.admits .planner (some s.plnPart) .r base (0x40 + 1040 * n) then
    (s.refuse .planner (some s.plnPart) .r base, some ((q.flag pfNotReady).cause stBadArg))
  else s.prepEntries base n q

/-- The READY cell, read once. -/
def State.readReady (s : State) : State × Got := s.gatherCell .planner 0 s.plnPart (s.reg Reg.PLN_READY_ADDR % 2 ^ 48)

/-- PREP after READY: the header, the entries; none where a read waits. -/
def State.prepArray (s : State) (q : PlanRun) : State × Option PlanRun :=
  if !s.mayGo .planner s.plnPart .r (s.candBase q.n) 8 then (s, none)
  else
    let g := s.fetch .planner s.plnPart (s.candBase q.n) 0x40 none
    match g.2 with
    | .wait => (g.1, none)
    | .fail c => (g.1, some ((q.flag pfNotReady).cause c))
    | .bytes h => g.1.prepHeader (s.candBase q.n) h q

/-- PREP: READY, the header, the entries; none where a read waits. -/
def State.prep (s : State) (r : PlanRun) : State × Option PlanRun :=
  let q := { r with prepDone := true }
  let c := s.readReady
  match c.2 with
  | .wait => (c.1, none)
  | .fail st => (c.1, some ((q.flag pfNotReady).cause st))
  | .bytes b => if fromLE b < s.reg Reg.PLN_READY_THR then (c.1, some (q.flag pfNotReady)) else c.1.prepArray q

def planPrepEndEffect (s : State) : State :=
  match s.pln.run with
  | none => s
  | some r =>
    if r.stage ≠ 2 ∨ r.prepDone ∨ s.reached r.deadline ∨ s.diag.halted.contains 3 then s
    else
      let u := s.prep r
      match u.2 with
      | some q => u.1.putPlan q
      | none => u.1

/-- PLAN_PREP_END: the READY cell has been tested and the eligible candidates of the array are binned, or NOT_READY is set (R298, R308). -/
def execPlanPrepEnd (s : State) : Host.Outcome State Fault Refusal := .next (s.onMain planPrepEndEffect)

/-- ceil(X_l / 32): the cycles of the tests of layer l (Table 11.5). -/
def State.layerCost (s : State) (r : PlanRun) (l : Nat) : Nat :=
  ((r.cands.map (fun (c : PlanCand) => ((List.range c.wps.length).map (fun k =>
    if clampLayer (s.planLayer r k) = l then (s.pln.body.map (fun b => if r.full then 1 else testK r.hdr b (c.wps.getD k []))).sum else 0)).sum)).sum + 31) / 32

def planSweepStartEffect (s : State) : State :=
  match s.pln.run with
  | none => s
  | some r =>
    if r.stage ≠ 2 ∨ !r.preDone ∨ !r.prepDone ∨ s.reached r.deadline ∨ s.diag.halted.contains 3 then s
    else s.putPlan { r with stage := 3, since := s.fclk, layers := (List.range 64).map (s.layerCost r) }

/-- PLAN_SWEEP_START: PRECHECK and PREP have both ended and the unit begins to load the layers (R308). -/
def execPlanSweepStart (s : State) : Host.Outcome State Fault Refusal := .next (s.onMain planSweepStartEffect)

/-- The cheaper of two candidates, the first on a tie: FP32 comparison, -0 equal to +0 (R309). -/
def cheaper (a b : PlanCand) : PlanCand :=
  let x := val32 (BitVec.ofNat 32 a.cost)
  let y := val32 (BitVec.ofNat 32 b.cost)
  if x.le y then a else b

/-- REDUCE: the least COST among those that passed; 0 where none did. -/
def planReduce (l : List PlanCand) : Nat :=
  match l with
  | [] => 0
  | c :: rest => (rest.foldl cheaper c).i

/-- The waypoints of the selection. -/
def PlanRun.selWps (r : PlanRun) : List (List Nat) :=
  if r.sel = 0 then r.stop else match r.cands.find? (fun c => c.i == r.sel) with | some c => c.wps | none => []

/-- The publication read of REDUCE: an urgent new grid moves the pin and starts a recheck; otherwise the cycle goes to OUT, with the status of a read that failed
(R311, R312). -/
def State.planReduceEnd (s : State) (r : PlanRun) : State :=
  let c := s.readPub 1
  match c.2 with
  | .wait => c.1
  | .fail st => c.1.putPlan ({ r with stage := 6 }.cause st)
  | .bytes b =>
    let v := fromLE b
    if bit v 63 ∧ bit v 33 ∧ v % 2 ^ 32 ≠ r.ver then
      let a := (c.1.bump Reg.PLN_STALE_CNT).unpin (r.flag pfStale)
      let u := a.1.pinTake { a.2 with stage := 5 } v
      u.1.putPlan u.2
    else c.1.putPlan { r with stage := 6 }

/-- The header of the newly pinned buffer is read before the recheck (R306, R311). -/
def State.planRehead (s : State) (r : PlanRun) : State :=
  let g := s.pinRead r 1
  match g.2 with
  | none => g.1
  | some q =>
    let w := State.mapBad (g.1, { q with full := q.full || bit q.flags pfNoPose })
    w.1.putPlan w.2

/-- An HCLK cycle of the unit's small reads: PIN, READY, the publication read of REDUCE, the header of a recheck; each waits for its path (02 R53). -/
def State.plannerCycle (s : State) : State :=
  match s.pln.run with
  | none => s
  | some r =>
    if s.reached r.deadline ∨ s.diag.halted.contains 3 then s
    else if r.stage = 1 then s.planPin r
    else if r.stage = 2 ∧ !r.prepDone then s.readReady.1
    else if r.stage = 4 then s.planReduceEnd r
    else if r.stage = 5 ∧ r.hdrWait then s.planRehead r
    else s

def planSweepEndEffect (s : State) : State :=
  match s.pln.run with
  | none => s
  | some r =>
    if r.stage ≠ 3 ∨ s.reached r.deadline ∨ s.diag.halted.contains 3 ∨ !s.gridPath then s
    else
      let g := s.gridRead (fun w => decide (layerBase r.buf 0 ≤ w) && decide (w < layerBase r.buf 64) && s.layerOk r.buf ((w - layerBase r.buf 0) / 0x40000))
      let ok := r.cands.filter (fun c => s.trajPasses r c.wps)
      let refused := !r.full && (List.range 64).any (fun l => !s.layerOk r.buf l)
      let q := { r with passed := ok.map (fun (c : PlanCand) => c.i), sel := planReduce ok, selVer := r.ver, stage := 4 }
      g.1.putPlan ((if refused then q.cause stBadArg else q).flagIf (decide (0 < g.2)) pfGridPoison)

/-- PLAN_SWEEP_END: every binned waypoint has been tested against every layer; REDUCE selects the cheapest candidate that passed; its second read of the publication
cell, which may start a recheck, follows in the HCLK cycles after it (R308, R309, R311). -/
def execPlanSweepEnd (s : State) : Host.Outcome State Fault Refusal := .next (s.onMain planSweepEndEffect)

def planRecheckEndEffect (s : State) : State :=
  match s.pln.run with
  | none => s
  | some r =>
    if r.stage ≠ 5 ∨ r.hdrWait ∨ s.reached r.deadline ∨ s.diag.halted.contains 3 ∨ !s.gridPath then s
    else if r.sel = 0 then
      let u := s.checkStop r
      u.1.putPlan { u.2 with stage := 6 }
    else
      let ws := s.trajWords r r.selWps
      let g := s.gridRead (fun w => ws.contains w)
      let q := { (r.flagIf (decide (0 < g.2)) pfGridPoison) with stage := 6 }
      let c := if s.trajRefused r r.selWps.length then q.cause stBadArg else q
      if s.trajPasses r r.selWps then g.1.putPlan { (c.cause stStaleMap) with selVer := r.ver }
      else
        let u := g.1.checkStop (c.flag pfRecheckFail)
        u.1.putPlan { u.2 with sel := 0 }

/-- PLAN_RECHECK_END: the selection alone has been rechecked against the new grid; a candidate that fails gives way to the rechecked stop trajectory
(R311). -/
def execPlanRecheckEnd (s : State) : Host.Outcome State Fault Refusal := .next (s.onMain planRecheckEndEffect)

def planDeadlineEffect (s : State) : State :=
  match s.pln.run with
  | none => s
  | some r =>
    if r.stage = 6 ∨ !s.reached r.deadline then s
    else
      let a := if r.stage = 1 then (let b := s.blindHeader r; (b.1.useFrees 1, b.1.planStop b.2)) else (s, r)
      let u := a.1.unpin { a.2 with stage := 6, sel := 0 }
      u.1.putPlan (u.2.cause (if r.stopOk = some true then stPlanTimeout else stImminent))

/-- PLAN_DEADLINE: a cycle that has reached D_n before OUT is abandoned, releases its pin and outputs the stop trajectory (R312); one still in PIN has no header to
compute it from (free values, log entry 38). -/
def execPlanDeadline (s : State) : Host.Outcome State Fault Refusal := .next (s.onMain planDeadlineEffect)

/-- The statuses that apply at OUT (R310, R311). -/
def PlanRun.outcome (r : PlanRun) : List Nat :=
  if r.sel ≠ 0 then r.causes
  else
    let timed := r.causes.contains stPlanTimeout || r.causes.contains stImminent
    if timed then r.causes
    else if r.stopOk = some true then (if bit r.flags pfNotReady then stPlanTimeout else stNoPath) :: r.causes
    else stImminent :: r.causes

/-- The record of Table 11.6. -/
def State.planRecord (s : State) (r : PlanRun) (status flags : Nat) : List Byte :=
  let w := r.selWps
  let cost := if r.sel = 0 then 0x7F800000 else match r.cands.find? (fun c => c.i == r.sel) with | some c => c.cost | none => 0x7F800000
  let ver := if r.sel = 0 then r.stopVer.getD ((Config.freeWord s.free).toNat % 2 ^ 32) else r.selVer
  let ways := (List.range 64).flatMap (fun k => (List.range 4).flatMap (fun e => toLE 4 ((w.getD k []).getD e 0)))
  let pass := (List.range 512).map (fun j => BitVec.ofNat 8 (maskOf ((List.range 8).filter (fun b =>
    (j == 0 && b == 0 && r.stopFirst) || (8 * j + b != 0 && r.passed.contains (8 * j + b))))))
  toLE 8 (ofInt 64 r.start) ++ toLE 4 (ofInt 32 r.n) ++ toLE 1 status ++ toLE 1 w.length ++ toLE 2 flags ++ toLE 2 r.sel ++ toLE 2 r.count ++
    toLE 2 r.passed.length ++ toLE 2 0 ++ toLE 4 cost ++ toLE 4 ver ++ (r.p0.flatMap (toLE 4)) ++ toLE 4 r.v0 ++ toLE 4 r.w0 ++ toLE 8 0 ++
    ways ++ pass

/-- Counters, log and EN at the end of a cycle. -/
def State.planAccount (s : State) (status flags : Nat) : State :=
  let a := s.bump Reg.PLN_CYCLE_CNT
  let b := if status = stNoPath then a.bump Reg.PLN_NOPATH_CNT
    else if status = stPlanTimeout then a.bump Reg.PLN_TIMEOUT_CNT
    else if status = stImminent then a.bump Reg.PLN_IMMINENT_CNT else a
  let c := if status = stDone then b else b.setReg Reg.PLN_LASTERR (b.frameLo * 2 ^ 32 + flags * 2 ^ 16 + status)
  let d := if status = stImminent then c.raise 0x8E (DoubtInfo.plain 8) else c
  if d.pln.stopping then (d.setReg Reg.PLN_CTRL 0).modPln (fun p => { p with stopping := false }) else d

def planRecordWriteEffect (s : State) : State :=
  match s.pln.run with
  | none => s
  | some r =>
    let p := s.plnPart
    let addr := s.reg Reg.PLN_RES_ADDR % 2 ^ 48 + 2048 * (r.n % 2).toNat
    if r.stage ≠ 6 ∨ s.diag.halted.contains 3 ∨ !s.mayGo .planner p .w addr 1600 then s
    else
      let fl := (r.flagIf (decide (r.sel ≠ 0) && r.stopOk == some false) pfStopBlocked).flagIf (s.planHorizon r r.selWps.length) pfHorizon
      let st := planStatusOf r.outcome
      let ok := s.admits .planner (some p) .w addr 1600
      let w := if ok then (s.writeSeqRecord .planner p addr (s.planRecord r st fl.flags)).1 else s.refuse .planner (some p) .w addr
      let st' := if ok then st else planStatusOf (stBadArg :: r.outcome)
      let cell := s.reg Reg.PLN_CELL
      let c := if bit cell 63 then w else w.complete .planner p (bits cell 47 0) st'
      let u := (c.useFrees 1).unpin r
      (((u.1.dropReads .planner 0).dropReads .planner 1).modPln (fun x => { x with run := none })).planAccount st' fl.flags

/-- PLAN_RECORD_WRITE: the result record is written with SEQ last, the completion operation performed, the pin released and the cycle counted; IMMINENT
raises doubt (R310, R313). A halted core writes nothing (15 R379). -/
def execPlanRecordWrite (s : State) : Host.Outcome State Fault Refusal := .next (s.onMain planRecordWriteEffect)

end Sys2Proof.Machine
end

