-- ==== Sys2Proof/Machine/SolverBundle.lean ====
section
/-! DEFINITION. Bundle adjustment (10 R283) and the geometry of a time shift (R289), in FP64. Sums are chains of fused multiply-adds in the order in which the spec
writes their terms, observations in their order and landmarks ascending (R279; DESIGN CHOICE, log entry 37: the spec fuses and does not say the association). -/

namespace Sys2Proof.Machine

/-! ### Rotations with fused multiply-adds -/

/-- Products summed from left to right, each after the first by a fused multiply-add. -/
def fmaDot : List (Nat × Nat) → Nat
  | [] => 0
  | e :: l => fmaSum .double (dMul e.1 e.2) l

/-- Element (r, c) of the matrix of a unit quaternion (w, x, y, z). -/
def fmaMat (q : List Nat) (r c : Nat) : Nat :=
  let x := fun (i : Nat) => q.getD i 0
  let one := fun (i j : Nat) => Prec.double.fnma dTwo (fmaDot [(x i, x i), (x j, x j)]) dOne
  let two := fun (i j k : Nat) => dMul dTwo (fmaDot [(x i, x j), (x 0, k)])
  match r, c with
  | 0, 0 => one 2 3
  | 0, 1 => two 1 2 (dNeg (x 3))
  | 0, 2 => two 1 3 (x 2)
  | 1, 0 => two 1 2 (x 3)
  | 1, 1 => one 1 3
  | 1, 2 => two 2 3 (dNeg (x 1))
  | 2, 0 => two 1 3 (dNeg (x 2))
  | 2, 1 => two 2 3 (x 1)
  | _, _ => one 1 2

/-- Rows times a vector. -/
def fmaMatVec (m : List (List Nat)) (v : List Nat) : List Nat := m.map (fun r => fmaDot (r.zip v))

def fmaRows (q : List Nat) : List (List Nat) := (List.range 3).map (fun r => (List.range 3).map (fmaMat q r))

/-- The quaternion product. -/
def fmaQMul (a b : List Nat) : List Nat :=
  let p := fun (i j : Nat) => (a.getD i 0, b.getD j 0)
  let n := fun (i j : Nat) => (dNeg (a.getD i 0), b.getD j 0)
  [fmaDot [p 0 0, n 1 1, n 2 2, n 3 3], fmaDot [p 0 1, p 1 0, p 2 3, n 3 2], fmaDot [p 0 2, n 1 3, p 2 0, p 3 1], fmaDot [p 0 3, p 1 2, n 2 1, p 3 0]]

def fmaNorm (v : List Nat) : Nat := dSqrt (fmaDot (v.zip v))

/-- The quaternion of Exp(v). -/
def fmaExp (v : List Nat) : List Nat := qTurn (dMul (fmaNorm v) dHalf) (fmaNorm v) v

def fmaNormalise (q : List Nat) : List Nat := q.map (fun x => dDiv x (fmaNorm q))

/-- The rotation vector of a unit quaternion, of length at most pi. -/
def fmaLog (q : List Nat) : List Nat :=
  let s := if dLt (q.getD 0 0) 0 then q.map dNeg else q
  let v := s.drop 1
  let n := fmaNorm v
  if dIsZero n then v else v.map (fun x => dDiv (dMul (dMul dTwo (dAtan2 n (s.getD 0 0))) x) n)

/-! ### Observations, residuals and Jacobians -/

/-- FP64 pattern of the FP32 field at o. -/
def f32At (l : List Byte) (o : Nat) : Nat := Prec.single.conv .double (fieldLE l o 4)

/-- One kept observation: camera and landmark, weight, and ten columns of (u, v): six of the camera's pose, three of the landmark, the residual. -/
abbrev BaRow := (Nat × Nat) × Nat × List (Nat × Nat)

/-- The vector of landmark l in a state of n cameras. -/
def baPoint (n : Nat) (x : List Nat) (l : Nat) : List Nat := (x.drop (8 * n + 4 * l)).take 3

/-- rot(q_c) x_l, and pc, for camera c. -/
def baFrame (n : Nat) (x : List Nat) (c l : Nat) : List Nat × List Nat :=
  let r := fmaMatVec (fmaRows ((x.drop (8 * c)).take 4)) (baPoint n x l)
  (r, List.zipWith dAdd r ((x.drop (8 * c + 4)).take 3))

/-- (ru, rv) of a point pc under the intrinsics and the measurement of observation i. -/
def baResid (ins : List (List Byte)) (c i : Nat) (pc : List Nat) : Nat × Nat :=
  let k := fun (j : Nat) => f32At (ins.getD 1 []) (32 * c + 4 * j)
  let m := fun (j : Nat) => f32At (ins.getD 0 []) (32 * i + 8 + 4 * j)
  let r := fun (j : Nat) => dSub (dAdd (dDiv (dMul (k j) (pc.getD j 0)) (pc.getD 2 0)) (k (2 + j))) (m j)
  (r 0, r 1)

/-- The columns of (u, v) by a direction of pc: fx (d.x - (pc.x / pc.z) d.z) / pc.z, and y likewise. -/
def baColumn (ins : List (List Byte)) (c : Nat) (pc d : List Nat) : Nat × Nat :=
  let j := fun (a : Nat) =>
    let f := dDiv (f32At (ins.getD 1 []) (32 * c + 4 * a)) (pc.getD 2 0)
    fmaDot [(f, d.getD a 0), (dNeg (dDiv (dMul f (pc.getD a 0)) (pc.getD 2 0)), d.getD 2 0)]
  (j 0, j 1)

/-- The unit vector of axis a. -/
def unit3 (a : Nat) : List Nat := (List.range 3).map (fun i => if i = a then dOne else 0)

/-- The directions in which pc moves: a left rotation increment turns rot x by e_a x (rot x); the translation; the landmark by a column of rot. -/
def baMoves (rows : List (List Nat)) (r : List Nat) : List (List Nat) :=
  let e := fun (i : Nat) => r.getD i 0
  [[0, dNeg (e 2), e 1], [e 2, 0, dNeg (e 0)], [dNeg (e 1), e 0, 0], unit3 0, unit3 1, unit3 2] ++
    (List.range 3).map (fun a => rows.map (fun w => w.getD a 0))

/-- Observation i at a state; none where pc.z <= 0 skips it. -/
def baRow (ins : List (List Byte)) (n : Nat) (x : List Nat) (o : (Nat × Nat) × Nat) : Option BaRow :=
  let f := baFrame n x o.1.1 o.1.2
  if Prec.double.le (f.2.getD 2 0) 0 then none
  else some (o.1, f32At (ins.getD 0 []) (32 * o.2 + 16),
    (baMoves (fmaRows ((x.drop (8 * o.1.1)).take 4)) f.1).map (baColumn ins o.1.1 f.2) ++ [baResid ins o.1.1 o.2 f.2])

/-- Every kept observation of a state, in observation order. -/
def baLin (d : List Byte) (ins : List (List Byte)) (x : List Nat) : List BaRow :=
  let o := baObs (ins.getD 0 [])
  (o.zip (List.range o.length)).filterMap (baRow ins (jdN1 d) x)

/-- 0.5 weight (ru^2 + rv^2). -/
def baRowCost (r : BaRow) : Nat :=
  let e := r.2.2.getD 9 (0, 0)
  dMul (dMul dHalf r.2.1) (fmaDot [(e.1, e.1), (e.2, e.2)])

/-- rho: the sum of the costs in observation order. -/
def baCost (d : List Byte) (ins : List (List Byte)) (x : List Nat) : Nat := ((baLin d ins x).map baRowCost).foldl dAdd 0

/-! ### One iteration -/

/-- Sum of w J_i J_j over rows. -/
def baSum (rows : List BaRow) (i j : Nat) : Nat :=
  fmaSum .double 0 (rows.flatMap (fun r =>
    let a := r.2.2.getD i (0, 0)
    let b := r.2.2.getD j (0, 0)
    [(dMul r.2.1 a.1, b.1), (dMul r.2.1 a.2, b.2)]))

/-- The free parameters in the order of the reduced system: camera, bit of FREE. -/
def baParams (ins : List (List Byte)) : List (Nat × Nat) :=
  let f := baFree (ins.getD 1 [])
  (List.range f.length).flatMap (fun c => ((List.range 6).filter (fun i => bit (f.getD c 0) i)).map (fun i => (c, i)))

/-- What one landmark gives the reduced system: its rows, the factor of V with mu added, and V^-1 applied to its right side. -/
structure BaLandmark where
  rows : List BaRow
  fac : List (List Nat)
  rhs : List Nat
deriving DecidableEq, Repr

/-- V_l with mu added, factored under R280 with its own dmax; the regularised pivots. -/
def baFactor (tau lam mu : Nat) (rows : List BaRow) : Option BaLandmark × Nat :=
  let v := (List.range 3).map (fun i => (List.range (i + 1)).map (fun k => let s := baSum rows (6 + i) (6 + k); if i = k then dAdd s mu else s))
  let c := cholesky .double tau lam [0, 0, 0] v
  (c.1.map (fun l => ⟨rows, l, (List.range 3).map (fun k => dNeg (baSum rows (6 + k) 9))⟩), c.2)

/-- The landmarks in ascending order, up to one whose factor is not finite. -/
def baFactors (tau lam mu m : Nat) (rows : List BaRow) : Option (List BaLandmark) × Nat :=
  (List.range m).foldl (fun acc l =>
    match acc.1 with
    | none => acc
    | some fs =>
      let f := baFactor tau lam mu (rows.filter (fun r => r.1.2 == l))
      (f.1.map (fun x => fs ++ [x]), acc.2 + f.2)) (some [], 0)

/-- Row W of a free parameter at a landmark, none where no kept observation joins them. -/
def baW (f : BaLandmark) (p : Nat × Nat) : Option (List Nat) :=
  let rs := f.rows.filter (fun r => r.1.1 == p.1)
  if rs.isEmpty then none else some ((List.range 3).map (fun k => baSum rs p.2 (6 + k)))

/-- s - W_p V^-1 y with y given, over the landmarks in ascending order. -/
def baReduce (fs : List BaLandmark) (p : Nat × Nat) (y : BaLandmark → Option (List Nat)) (s : Nat) : Nat :=
  fs.foldl (fun a f =>
    match baW f p, y f with
    | some w, some v => (w.zip (solveL .double f.fac [0, 0, 0] v)).foldl (fun b e => Prec.double.fnma e.1 e.2 b) a
    | _, _ => a) s

/-- Element (p, q) of S = U - W V^-1 W^T, mu added on the diagonal of U. -/
def baS (mu : Nat) (rows : List BaRow) (fs : List BaLandmark) (p q : Nat × Nat) : Nat :=
  let u := if p.1 = q.1 then baSum (rows.filter (fun r => r.1.1 == p.1)) p.2 q.2 else 0
  baReduce fs p (fun f => baW f q) (if p = q then dAdd u mu else u)

/-- The right side of the reduced system. -/
def baG (rows : List BaRow) (fs : List BaLandmark) (p : Nat × Nat) : Nat :=
  baReduce fs p (fun f => some f.rhs) (dNeg (baSum (rows.filter (fun r => r.1.1 == p.1)) p.2 9))

/-- The step of a landmark: V dx = rhs - W^T dc. -/
def baBack (ps : List (Nat × Nat)) (dc : List Nat) (f : BaLandmark) : List Nat :=
  solveL .double f.fac [0, 0, 0] ((List.range 3).map (fun k =>
    (ps.zip dc).foldl (fun a e => match baW f e.1 with | some w => Prec.double.fnma (w.getD k 0) e.2 a | none => a) (f.rhs.getD k 0)))

/-- Camera c after its step: q <- normalise(q(Exp(dw)) q), t <- t + dt; a camera with FREE = 0 is held. -/
def baCamera (x : List Nat) (ps : List (Nat × Nat)) (dc : List Nat) (c : Nat) : List Nat :=
  let w := (x.drop (8 * c)).take 8
  let dx := fun (i : Nat) => (((ps.zip dc).find? (fun e => e.1 == (c, i))).map (fun e => e.2)).getD 0
  if !ps.any (fun p => p.1 == c) then w.take 7 ++ [0]
  else
    fmaNormalise (fmaQMul (fmaExp [dx 0, dx 1, dx 2]) (w.take 4)) ++ (List.range 3).map (fun k => dAdd (w.getD (4 + k) 0) (dx (3 + k))) ++ [0]

/-- The state after the steps of its cameras and landmarks. -/
def baUpdate (n : Nat) (x : List Nat) (ps : List (Nat × Nat)) (dc : List Nat) (fs : List BaLandmark) : List Nat :=
  (List.range n).flatMap (baCamera x ps dc) ++
    (fs.zip (List.range fs.length)).flatMap (fun e => List.zipWith dAdd (baPoint n x e.2) (baBack ps dc e.1) ++ [0])

/-- One iteration from x with damping mu: the candidate state, none under NONFINITE, and the regularised pivots of its landmark blocks and of S. -/
def baStep (d : List Byte) (ins : List (List Byte)) (x : List Nat) (mu : Nat) : Option (List Nat) × Nat :=
  let rows := baLin d ins x
  let f := baFactors (jdTau d) (jdLambda d) mu (jdN2 d) rows
  match f.1 with
  | none => (none, f.2)
  | some fs =>
    let ps := baParams ins
    let s := (List.range ps.length).map (fun i => (List.range (i + 1)).map (fun k => baS mu rows fs (ps.getD i (0, 0)) (ps.getD k (0, 0))))
    let es := List.replicate ps.length 0
    let c := cholesky .double (jdTau d) (jdLambda d) es s
    (c.1.map (fun l => baUpdate (jdN1 d) x ps (solveL .double l es (ps.map (baG rows fs))) fs), f.2 + c.2)

/-! ### Time shift (R289) -/

/-- A group of elements in FP64 under a relative pose (0 to 3 orientation, 4 to 6 translation, 7 to 15 matrix rows, as FP64): kind 1 a pose, 2 a position, 3 a vector. -/
def shiftGroup (kind : Nat) (rel x : List Nat) : List Nat :=
  let turn := fun (v : List Nat) => fmaMatVec ((List.range 3).map (fun r => (rel.drop (7 + 3 * r)).take 3)) v
  let move := fun (v : List Nat) => List.zipWith dAdd (turn v) ((rel.drop 4).take 3)
  if kind = 1 then fmaLog (fmaQMul (rel.take 4) (fmaExp (x.take 3))) ++ move ((x.drop 3).take 3)
  else if kind = 2 then move x
  else turn x

end Sys2Proof.Machine
end

