-- ==== Sys2Proof/Machine/Solver.lean ====
section
/-! DEFINITION. The least-squares solver (10): job slots and the pending set, the run of a job, abandonment, solution records and completion. -/

namespace Sys2Proof.Machine

def State.modSlv (s : State) (f : Solver → Solver) : State := { s with slv := f s.slv }
def State.slvSlot (s : State) (j : Nat) : SlvSlot := s.slv.slots.getD j ⟨0, none, false⟩
def State.modSlvSlot (s : State) (j : Nat) (f : SlvSlot → SlvSlot) : State := s.modSlv (fun v => { v with slots := listModify f v.slots j })

/-! ### Slots and start instants (R274) -/

def State.slvEn (s : State) (j : Nat) : Bool := bit (s.reg (Reg.SLV_JOB_CTRL j)) 0
def State.slvPeriod (s : State) (j : Nat) : Nat := s.reg (Reg.SLV_JOB_PERIOD j)
def State.slvBudget (s : State) (j : Nat) : Nat := s.reg (Reg.SLV_JOB_BUDGET j)

/-- S_n of slot j; none where a single run has started. -/
def State.slvStart (s : State) (j : Nat) (n : Int) : Option Int :=
  if s.slvPeriod j = 0 then (s.slvSlot j).once
  else some (toInt 64 (s.reg (Reg.SLV_JOB_PHASE j)) + n * (s.slvPeriod j : Int))

/-- The rules of R274 that a group enabling slot j must satisfy. -/
def State.slvRules (s : State) (j : Nat) : Bool :=
  let p := s.slvPeriod j
  let b := s.slvBudget j
  (p == 0 || (decide (100000 ≤ p) && decide (p ≤ 10000000000))) && decide (1000 ≤ b) && decide (b ≤ if p = 0 then 10000000000 else p)

/-- EN of slot j is set at this commit point: its first run is the first instant after it; the single run of PERIOD 0 is this point and takes the number of
runs ended as its n (DESIGN CHOICE, log entry 37). -/
def State.slvEnable (s : State) (j : Nat) : State :=
  let now := s.nowNs
  let p := s.slvPeriod j
  let n := if p = 0 then ((s.reg (Reg.SLV_JOB_STAT j) % 2 ^ 32 : Nat) : Int) else (now - toInt 64 (s.reg (Reg.SLV_JOB_PHASE j))) / (p : Int) + 1
  let a := s.modSlvSlot j (fun _ => ⟨n, if p = 0 then some now else none, false⟩)
  a.setReg (Reg.SLV_JOB_NEXT j) (ofInt 64 ((a.slvStart j n).getD now))

/-- A run of slot j is pending, running or not yet written. -/
def State.slvBusy (s : State) (j : Nat) : Bool :=
  s.slv.pending.any (fun q => q.slot == j) || (match s.slv.run with | some r => r.job.slot == j | none => false) ||
    s.slv.outs.any (fun o => o.job.slot == j)

/-- EN of slot j is cleared: at once, or when its current run ends (R294). -/
def State.slvDisable (s : State) (j : Nat) : State :=
  if s.slvBusy j then (s.setRegBit (Reg.SLV_JOB_CTRL j) 0).modSlvSlot j (fun x => { x with stopping := true })
  else s.setReg (Reg.SLV_JOB_CTRL j) 0

/-! ### Elements and previous records -/

/-- Bytes of an element of the vector. -/
def jdElem (d : List Byte) : Prec := if jdClass d = 1 then .double else jdPrec d

/-- The elements of a vector as its bytes. -/
def vecBytes (d : List Byte) (x : List Nat) : List Byte := (x.map (toLE (jdElem d).size)).flatten

/-! ### Reads of a job (R277) -/

/-- The key under which the reads of a run are kept. -/
def SlvJob.key (q : SlvJob) : Nat := q.slot + 8 * (q.n % (2 ^ 32 : Nat)).toNat

/-- n bytes at a for a run, read once; the run's deadline is the read's own, and an image read that has not ended by then is TIER_LATE. -/
def State.slvRead (s : State) (q : SlvJob) (p a n : Nat) : State × Got :=
  let g := s.gather .solver q.key p a n (some (s.fclkOf q.deadline).toNat)
  (g.1, match g.2 with | .fail c => .fail (if c = stDeadlineMiss then stTierLate else c) | x => x)

/-- Several reads of a run, all begun. -/
def State.slvReads (s : State) (q : SlvJob) (p : Nat) (l : List (Nat × Nat)) : State × List Got :=
  l.foldl (fun (u : State × List Got) e => let x := u.1.slvRead q p e.1 e.2; (x.1, u.2 ++ [x.2])) (s, [])

/-- The descriptor of a run, checked against the partition that it names. -/
def State.slvDesc (s : State) (q : SlvJob) : State × Got :=
  let a := s.reg (Reg.SLV_JOB_DESC q.slot) % 2 ^ 48
  s.slvRead q (fieldLE (s.readBytes (a + 2) 1) 0 1) a 128

/-- The header of a record that is valid: its SEQ is not all ones. -/
def validHeader (l : List Byte) : Option (List Byte) := if l.isEmpty ∨ fieldLE l 8 4 = 0xFFFFFFFF then none else some l

/-- The later of two records by SEQ; a tie goes to record 0 (DESIGN CHOICE, log entry 37). -/
def laterRecord (d l0 l1 : List Byte) : Option (Nat × List Byte) :=
  match validHeader l0, validHeader l1 with
  | some a, some b => if fieldLE a 8 4 < fieldLE b 8 4 then some (jdSol d 1, b) else some (jdSol d 0, a)
  | some a, none => some (jdSol d 0, a)
  | none, some b => some (jdSol d 1, b)
  | none, none => none

/-- The previous record of a run, its address and header, with the statuses of reads that failed, which leave a record out (R286, R293); none while a read waits. -/
def State.slvPrev (s : State) (r : SlvRun) : State × Option (Option (Nat × List Byte) × List Nat) :=
  let g := s.slvReads r.job (jdPart r.desc) [(jdSol r.desc 0, 64), (jdSol r.desc 1, 64)]
  (g.1, if g.2.any Got.waits then none
    else some (laterRecord r.desc (g.2.getD 0 .wait).data (g.2.getD 1 .wait).data, g.2.flatMap Got.code))

/-- The signature of a record header. -/
def headerSig (h : List Byte) : List Byte := (h.drop 0x1C).take 0x1C

/-! ### Time shift (R289) -/

/-- Element i of a vector under the entries of a shift list: its group moves in FP64 and is rounded once to PREC. -/
def State.shiftAt (s : State) (d : List Byte) (es : List (Nat × Nat)) (a b : Int) (x : List Nat) (i : Nat) : Nat :=
  match es.find? (fun e => decide (e.1 ≤ i) && decide (i < e.1 + shiftLen e.2)) with
  | none => x.getD i 0
  | some e =>
    let p := jdElem d
    let rel := (List.range 16).map (fun j => Prec.single.conv .double (s.rel a b j).toNat)
    Prec.double.conv p ((shiftGroup e.2 rel (((x.drop e.1).take (shiftLen e.2)).map (p.conv .double))).getD (i - e.1) 0)

/-- A vector carried from t to the job's S_n, and the FLAGS it adds: SHIFTED, or NOPOSE with the vector unchanged; a list of no entries moves nothing and
asks for no pose, and so does one that breaks its rules (DEDUCED, log entry 37). -/
def State.shiftVec (s : State) (r : SlvRun) (t : Int) (x : List Nat) : List Nat × Nat :=
  let l := r.ins.getD 3 []
  let es := shiftList l
  if es.isEmpty ∨ !jdFields r.desc ∨ !shiftsOk (jdN1 r.desc) l then (x, 0)
  else if s.noPose t r.job.start then (x, 8)
  else ((List.range x.length).map (s.shiftAt r.desc es t r.job.start x), 4)

/-- The vector of a record as it was read, shifted: elements, FLAGS. -/
def State.prevVec (s : State) (r : SlvRun) (h l : List Byte) : List Nat × Nat :=
  s.shiftVec r (toInt 64 (fieldLE h 0 8)) (let x := (jdElem r.desc).elems l; if jdClass r.desc = 1 then baPad (jdN1 r.desc) x else x)

/-! ### The end of a job (R284, R287, R290, R291) -/

def fWsmm : Nat := 1
def fReg : Nat := 2
def fNoPrev : Nat := 16
def fNonFinite : Nat := 32
def fPassed : Nat := 64
def fPrevious : Nat := 128

/-- STATUS: the first condition that applies in the order of R291. -/
def slvStatusOf (causes : List Nat) (flags : Nat) : Nat :=
  let all := causes ++ (if bit flags 0 then [stWsMismatch] else []) ++ (if bit flags 1 then [stPivotReg] else [])
  (([stTierFault, stTierLate, stBadArg, stPreempted, stDeadlineMiss, stCapReached, stWsMismatch, stPivotReg]).find? (fun c => all.contains c)).getD stDone

/-- FLAGS with PIVOT_REGULARISED where a pivot was. -/
def slvFlags (r : SlvRun) (flags : Nat) : Nat := if r.nreg = 0 then flags else flags ||| fReg

/-- The record of a run that outputs x as iterate it. -/
def slvRecord (r : SlvRun) (causes : List Nat) (flags rho it : Nat) (x : List Nat) : List Byte :=
  let f := slvFlags r flags
  toLE 8 (ofInt 64 r.job.start) ++ toLE 4 (ofInt 32 r.job.n) ++ toLE 1 (slvStatusOf causes f) ++ toLE 1 it ++ toLE 2 f ++ toLE 8 rho ++
    toLE 4 r.nreg ++ jobSig r.desc r.ins ++ toLE 8 0 ++ vecBytes r.desc x

/-- What a run that has ended with x as iterate it has to write. -/
def slvOutOf (r : SlvRun) (causes : List Nat) (flags rho it : Nat) (x : List Nat) : SlvOut :=
  ⟨r.job, jdPart r.desc, some (jdSol r.desc (r.job.n % 2).toNat, slvRecord r causes flags rho it x), it, slvStatusOf causes (slvFlags r flags), none⟩

/-- A run that ends without a record: outside R273, or with no descriptor to tell where it would lie. -/
def slvBare (q : SlvJob) (d : List Byte) (status : Nat) : SlvOut := ⟨q, jdPart d, none, 0, status, none⟩

/-- The running job ends: what it outputs waits for its record to be written, and the engine is free. -/
def State.slvPut (s : State) (o : SlvOut) : State := s.modSlv (fun v => { v with run := none, outs := v.outs ++ [o] })

/-- The running job ends with an iterate of its own. -/
def State.slvEnd (s : State) (r : SlvRun) (causes : List Nat) (flags rho it : Nat) (x : List Nat) : State := s.slvPut (slvOutOf r causes flags rho it x)

/-- Zeros for EST and WBLS, IN2 for BA. -/
def coldStart (d : List Byte) (ins : List (List Byte)) : List Nat :=
  if jdClass d = 1 then baPad (jdN1 d) (baWords (ins.getD 2 [])) else List.replicate (jdN1 d) 0

/-- A job is abandoned for a cause: with RUN_TO_CAP and a passing last iterate that iterate is output as DONE; else its output waits for the previous record
(R287). -/
def State.slvAbandon (s : State) (r : SlvRun) (cause : Nat) (flags : Nat) : State :=
  if r.desc ≠ [] ∧ !jdLimits r.desc then s.slvPut (slvBare r.job r.desc cause)
  else if r.desc ≠ [] ∧ jdRunToCap r.desc ∧ r.tested ∧ r.passed then s.slvEnd r [] (r.flags ||| flags ||| fPassed) r.rho r.k r.x
  else s.slvPut ⟨r.job, jdPart r.desc, none, 0, cause, some (r, [cause], r.flags ||| flags)⟩

/-- Regularised pivots are counted. -/
def State.slvRegs (s : State) (n : Nat) : State := s.bumpBy Reg.SLV_REG_CNT n

/-- The pivots that the iteration in hand regularises: those of its factorisations. -/
def slvPivots (r : SlvRun) : Nat :=
  if !r.loaded ∨ !r.tested then 0
  else if jdClass r.desc = 1 then (baStep r.desc r.ins r.x r.mu).2
  else if r.k = 0 then (linearStep r.desc r.ins r.x).2
  else 0

/-- The iteration in hand is dropped at whatever stage it has reached and its job abandoned; how many of its pivots it had regularised by then is a free value
(R281, R287; log entry 37). -/
def State.slvDrop (s : State) (r : SlvRun) (cause : Nat) : State :=
  let m := (Config.freeWord s.free).toNat % (slvPivots r + 1)
  ((s.useFrees 1).slvRegs m).slvAbandon { r with nreg := r.nreg + m } cause 0

/-- The inputs on which the signature, iterate 0 and the shift of an abandoned job rest. -/
def slvNeeds (d : List Byte) (i : Nat) : Bool :=
  (i == 2 && jdClass d == 0 && jdSparse d) || (decide (i < 3) && jdClass d == 1) || (i == 3 && jdFields d)

/-- The inputs of a job that was abandoned before they were loaded, with the statuses of reads that failed: those bytes are free values (DEDUCED, log entry 37). -/
def State.slvInputs (s : State) (r : SlvRun) : State × Option (SlvRun × List Nat) :=
  if r.loaded then (s, some (r, []))
  else
    let l := ((jdInputs r.desc).zip (List.range 4)).map (fun e => (e.1.1, if slvNeeds r.desc e.2 then e.1.2 else 0))
    let g := s.slvReads r.job (jdPart r.desc) l
    if g.2.any Got.waits then (g.1, none)
    else
      let u := (g.2.zip l).foldl (fun (u : State × List (List Byte)) e =>
        match e.1 with
        | .bytes b => (u.1, u.2 ++ [b])
        | _ => (u.1.useFrees e.2.2, u.2 ++ [u.1.freeBytes 0 e.2.2])) (g.1, [])
      (u.1, some ({ r with ins := u.2, x0 := coldStart r.desc u.2 }, g.2.flatMap Got.code))

/-- Iterate 0 under NOPREV; the rho of one never tested is a free value. -/
def State.slvNoPrev (s : State) (r : SlvRun) (causes : List Nat) (f : Nat) : State × Option SlvOut :=
  (s.useFrees 1, some (slvOutOf r causes (f ||| fNoPrev) (r.rho0.getD (Config.freeWord s.free).toNat) 0 r.x0))

/-- What an abandoned job outputs, its descriptor known: the previous record's vector, shifted; with none, one of another structure or one that cannot be read,
iterate 0 with NOPREV (R287, R293); none while a read waits. -/
def State.slvResolve (s : State) (r0 : SlvRun) (causes : List Nat) (f : Nat) : State × Option SlvOut :=
  if !jdLimits r0.desc then (s, some (slvBare r0.job r0.desc stBadArg))
  else
    let i := s.slvInputs r0
    match i.2 with
    | none => (i.1, none)
    | some (r, c1) =>
      if !baLimits r.desc r.ins then (i.1, some (slvBare r.job r.desc stBadArg))
      else
        let q := i.1.slvPrev r
        match q.2 with
        | none => (q.1, none)
        | some (best, c2) =>
          let cs := causes ++ c1 ++ c2
          match best with
          | none => q.1.slvNoPrev r cs f
          | some (a, h) =>
            if headerSig h ≠ jobSig r.desc r.ins then q.1.slvNoPrev r cs f
            else
              let v := q.1.slvRead r.job (jdPart r.desc) (a + 64) (jdVecLen r.desc)
              match v.2 with
              | .wait => (v.1, none)
              | .fail c => v.1.slvNoPrev r (cs ++ [c]) f
              | .bytes l =>
                let y := v.1.prevVec r h l
                (v.1, some (slvOutOf r cs (f ||| y.2 ||| fPrevious) (fieldLE h 0x10 8) 0 y.1))

/-- An ended job with its record settled, as far as paths and pages allow: the descriptor of one that never read it comes first. -/
def State.slvSettle (s : State) (o : SlvOut) : State × Option SlvOut :=
  match o.prev with
  | none => (s, some o)
  | some (r, causes, f) =>
    if r.desc ≠ [] then s.slvResolve r causes f
    else
      let g := s.slvDesc r.job
      match g.2 with
      | .wait => (g.1, none)
      | .fail c => (g.1, some (slvBare r.job [] (slvStatusOf (c :: causes) 0)))
      | .bytes d => g.1.slvResolve { r with desc := d } causes f

/-- The oldest ended job is settled in place. -/
def State.slvSettleOut (s : State) : State :=
  match s.slv.outs with
  | [] => s
  | o :: _ =>
    if o.prev.isNone then s
    else
      let g := s.slvSettle o
      match g.2 with
      | none => g.1
      | some x => g.1.modSlv (fun v => { v with outs := x :: v.outs.drop 1 })

/-! ### Arrival and start (R274 to R278, R286) -/

/-- CRITICALITY of the partition that the descriptor of slot j names (DEDUCED, log entry 37: it is known at the start instant). -/
def State.slvCrit (s : State) (j : Nat) : Nat := partCrit s.table (fieldLE (s.readBytes (s.reg (Reg.SLV_JOB_DESC j) % 2 ^ 48 + 2) 1) 0 1)

/-- CRITICALITY of the running job: by the descriptor it read. -/
def State.slvRunCrit (s : State) (r : SlvRun) : Nat := if r.desc = [] then s.slvCrit r.job.slot else partCrit s.table (jdPart r.desc)

/-- Slot j has a run in the pending set or in the engine. -/
def State.slvWaits (s : State) (j : Nat) : Bool :=
  s.slv.pending.any (fun q => q.slot == j) || (match s.slv.run with | some r => r.job.slot == j | none => false)

/-- The arriving job pre-empts the running one. -/
def State.slvPreempts (s : State) (j : Nat) : Bool :=
  match s.slv.run with
  | some r => decide (s.slvRunCrit r < s.slvCrit j)
  | none => false

def solverJobArriveEffect (j : Fin 8) (s : State) : State :=
  let n := (s.slvSlot j.val).n
  match s.slvStart j.val n with
  | none => s
  | some t =>
    if !s.slvEn j.val ∨ (s.slvSlot j.val).stopping ∨ !s.reached t ∨ s.slvWaits j.val then s
    else
      let a := s.modSlv (fun v => { v with pending := v.pending ++ [⟨j.val, n, t, t + s.slvBudget j.val⟩] })
      let b := a.modSlvSlot j.val (fun x => { x with n := n + 1, once := none })
      let c := b.setReg (Reg.SLV_JOB_NEXT j.val) (ofInt 64 ((b.slvStart j.val (n + 1)).getD t))
      match s.slv.run with
      | some r =>
        if s.slvPreempts j.val then (c.slvDrop r stPreempted).modSlv (fun v => { v with urgent := some j.val }) else c
      | none => c

/-- SOLVER_JOB_ARRIVE: at S_n slot j's job joins the pending set; a running job of a partition of lower CRITICALITY is abandoned as PREEMPTED and the
arriving job is next (R274 to R276). -/
def execSolverJobArrive (j : Fin 8) (s : State) : Host.Outcome State Fault Refusal := .next (s.onMain (solverJobArriveEffect j))

/-- The earlier start instant, ties to the lower slot (R275). -/
def SlvJob.before (a b : SlvJob) : Bool := decide (a.start < b.start) || (a.start == b.start && decide (a.slot < b.slot))

/-- The pending job for which another was pre-empted. -/
def State.slvUrgent (s : State) : Option SlvJob := s.slv.urgent.bind (fun j => s.slv.pending.find? (fun q => q.slot == j))

/-- The pending job the engine takes. -/
def State.slvPick (s : State) : Option SlvJob :=
  match s.slvUrgent with
  | some q => some q
  | none => s.slv.pending.foldl (fun m q => match m with | some b => if q.before b then some q else some b | none => some q) none

/-- The engine is free: the job before has written its output, or was pre-empted and its abandonment has ended (R275, R276; DEDUCED, log entry 37). -/
def State.slvFree (s : State) : Bool := s.slv.run.isNone && (s.slv.outs.isEmpty || s.slvUrgent.isSome)

/-- The inputs are in: iterate 0 is the warm start or the cold start (R286). -/
def State.slvIterate0 (s : State) (r0 : SlvRun) : State :=
  let cold := coldStart r0.desc r0.ins
  let r := { r0 with loaded := true, x0 := cold, x := cold, mu := jdMu r0.desc, since := s.fclk }
  let put := fun (t : State) (q : SlvRun) => t.modSlv (fun v => { v with run := some q })
  if !jdWs r.desc then put s r
  else
    let q := s.slvPrev r
    match q.2 with
    | none => q.1
    | some (_, c :: _) => q.1.slvAbandon r c 0
    | some (none, []) => put q.1 { r with flags := r.flags ||| fNoPrev }
    | some (some (a, h), []) =>
      if headerSig h ≠ jobSig r.desc r.ins then put (q.1.bump Reg.SLV_WSMM_CNT) { r with flags := r.flags ||| fWsmm }
      else
        let v := q.1.slvRead r.job (jdPart r.desc) (a + 64) (jdVecLen r.desc)
        match v.2 with
        | .wait => v.1
        | .fail c => v.1.slvAbandon r c 0
        | .bytes l =>
          let y := v.1.prevVec r h l
          put v.1 { r with x0 := y.1, x := y.1, flags := r.flags ||| y.2 }

/-- LOAD of the running job, as far as paths and pages allow: limits, layouts and reads that fail end it (R273, R277, R278, R293). -/
def State.slvLoad (s : State) (r : SlvRun) : State :=
  if !jdLimits r.desc then s.slvPut (slvBare r.job r.desc stBadArg)
  else if !jdFields r.desc then s.slvAbandon r stBadArg 0
  else
    let g := s.slvReads r.job (jdPart r.desc) (jdInputs r.desc)
    match g.2.foldl Got.join (.bytes []) with
    | .wait => g.1
    | .fail c => g.1.slvAbandon r c 0
    | .bytes _ =>
      let r' := { r with ins := g.2.map Got.data }
      if !baLimits r.desc r'.ins then g.1.slvPut (slvBare r.job r.desc stBadArg)
      else if !inputsOk r.desc r'.ins then g.1.slvAbandon { r' with loaded := true, x0 := coldStart r.desc r'.ins, x := coldStart r.desc r'.ins } stBadArg 0
      else g.1.slvIterate0 r'

/-- The start of the running job: descriptor, READY, LOAD. -/
def State.slvBegin (s : State) (r : SlvRun) : State :=
  if r.ready then s.slvLoad r
  else
    let g := s.slvDesc r.job
    match g.2 with
    | .wait => g.1
    | .fail c => g.1.slvPut (slvBare r.job [] c)
    | .bytes d =>
      let r' := { r with desc := d }
      let c := g.1.gatherCell .solver r.job.key (jdPart d) (jdReady d)
      let t := c.1.modSlv (fun v => { v with run := some r' })
      match c.2 with
      | .wait => t
      | .fail st => t.slvAbandon r' st 0
      | .bytes v =>
        let r'' := { r' with ready := true }
        if fromLE v < jdThr d then t.slvAbandon r'' stDeadlineMiss 0 else (t.modSlv (fun v => { v with run := some r'' })).slvLoad r''

def solverJobStartEffect (s : State) : State :=
  match s.slvPick with
  | none => s
  | some q =>
    if !s.slvFree ∨ s.diag.halted.contains 2 ∨ s.reached q.deadline then s
    else
      (s.modSlv (fun v => { v with
        run := some (SlvRun.start q), urgent := none, pending := v.pending.filter (fun x => x != q) })).slvBegin (SlvRun.start q)

/-- SOLVER_JOB_START: the free engine takes the pending job with the earliest start instant, reads its descriptor, tests READY and loads its inputs; a read
that waits goes on in the HCLK cycles that follow (R275, R277, R278). -/
def execSolverJobStart (s : State) : Host.Outcome State Fault Refusal := .next (s.onMain solverJobStartEffect)

/-- An HCLK cycle of the solver's transfers: the loading of the running job before its deadline, and the previous record of the oldest ended one. -/
def State.solverCycle (s : State) : State :=
  if s.diag.halted.contains 2 then s
  else
    State.slvSettleOut (match s.slv.run with
      | some r => if r.loaded ∨ s.reached r.job.deadline then s else s.slvBegin r
      | none => s)

/-! ### Iterations (R282 to R284) -/

/-- An iterate has been tested: the job ends at the first that passes, at the cap, or goes on. -/
def State.slvTested (s : State) (r : SlvRun) : State :=
  if (r.passed ∧ !jdRunToCap r.desc) ∨ (r.k = jdCap r.desc ∧ r.passed) then s.slvEnd r [] (r.flags ||| fPassed) r.rho r.k r.x
  else if r.k = jdCap r.desc then s.slvEnd r [stCapReached] r.flags r.rho r.k r.x
  else s.modSlv (fun v => { v with run := some { r with since := s.fclk } })

/-- One iteration of EST or WBLS; the pivots of its factorisation count in the first. -/
def State.slvLinear (s : State) (r : SlvRun) : State :=
  let t := linearStep r.desc r.ins r.x
  let c := slvPivots r
  let r' := { r with nreg := r.nreg + c }
  match t.1 with
  | none => (s.slvRegs c).slvAbandon r' stBadArg fNonFinite
  | some x =>
    let u := linearTest r.desc r.ins x
    (s.slvRegs c).slvTested { r' with x := x, k := r.k + 1, rho := u.1, passed := u.2 }

/-- One iteration of BA: an increase of the cost takes the step back (R283). -/
def State.slvBundle (s : State) (r : SlvRun) : State :=
  let P := Prec.double
  let t := baStep r.desc r.ins r.x r.mu
  let r' := { r with nreg := r.nreg + t.2 }
  match t.1 with
  | none => (s.slvRegs t.2).slvAbandon r' stBadArg fNonFinite
  | some x =>
    let rho := baCost r.desc r.ins x
    let ok := P.le rho r.rho
    let q := if ok then rho else r.rho
    let pass := P.le q (jdAbs r.desc) || (ok && P.le (P.sub r.rho q) (P.mul (jdRel r.desc) r.rho))
    let mu := if ok then P.mul r.mu 0x3FE0000000000000 else P.mul 0x4020000000000000 r.mu
    (s.slvRegs t.2).slvTested { r' with x := if ok then x else r.x, k := r.k + 1, rho := q, passed := pass, mu := mu }

/-- Iterate 0 is tested; a BA start passes only by ABS_TOL. -/
def State.slvTest0 (s : State) (r : SlvRun) : State :=
  let u := if jdClass r.desc = 1 then (let c := baCost r.desc r.ins r.x; (c, Prec.double.le c (jdAbs r.desc))) else linearTest r.desc r.ins r.x
  s.slvTested { r with tested := true, rho := u.1, rho0 := some u.1, passed := u.2 }

/-- The words of working memory in error that an iterate meets: correctable ones are counted; an uncorrectable one of an LC partition's job is doubt 0x89 (R293). -/
def State.slvMeet (s : State) (r : SlvRun) : State :=
  let a := (List.range r.upset).foldl (fun t _ => t.countCE 7 Reg.SLV_CE_CNT) s
  if r.bad && partLC a.table (jdPart r.desc) then a.raise 0x89 (DoubtInfo.plain 7) else a

def solverIterateDoneEffect (s : State) : State :=
  match s.slv.run with
  | none => s
  | some r0 =>
    if s.reached r0.job.deadline ∨ s.diag.halted.contains 2 ∨ !r0.loaded then s
    else
      let a := s.slvMeet r0
      let r := { r0 with upset := 0 }
      if r0.bad then a.slvDrop r stTierFault
      else if !r.tested then a.slvTest0 r
      else if jdClass r.desc = 1 then a.slvBundle r
      else a.slvLinear r

/-- SOLVER_ITERATE_DONE: an iteration, or the test of iterate 0, completes before the deadline and its residual test decides whether the job ends (R282 to
R284, R287); one that meets uncorrectable working memory is abandoned (R293). -/
def execSolverIterateDone (s : State) : Host.Outcome State Fault Refusal := .next (s.onMain solverIterateDoneEffect)

/-! ### Deadlines and records (R287, R290, R294) -/

/-- A pending job past its deadline ends under R287, having completed no iterate (R275); a job that runs goes on. -/
def State.slvExpire (s : State) (q : SlvJob) : State :=
  s.modSlv (fun v => { v with
    pending := v.pending.filter (fun x => x != q), urgent := if v.urgent = some q.slot then none else v.urgent,
    outs := v.outs ++ [⟨q, 0, none, 0, stDeadlineMiss, some (SlvRun.start q, [stDeadlineMiss], 0)⟩] })

/-- A read of the image range by a run has not ended, or ended late. -/
def State.slvLateRead (s : State) (q : SlvJob) : Bool :=
  let d := some (s.fclkOf q.deadline).toNat
  s.mig.held.any (fun h => h.who == .client (clientOf .solver) && h.deadline == d) ||
    s.mig.arrived.any (fun x => x.1 == arrivedKey .solver && (x.2.2.1 == stTierLate || x.2.2.1 == stDeadlineMiss))

def solverDeadlineEffect (s : State) : State :=
  let pending := match s.slv.pending.find? (fun q => s.reached q.deadline) with
    | some q => s.slvExpire q
    | none => s
  match s.slv.run with
  | some r =>
    if s.reached r.job.deadline then s.slvDrop r (if !r.loaded && s.slvLateRead r.job then stTierLate else stDeadlineMiss) else pending
  | none => pending

/-- SOLVER_DEADLINE: the running job, or a pending one, has reached its deadline and is abandoned (R275, R287). -/
def execSolverDeadline (s : State) : Host.Outcome State Fault Refusal := .next (s.onMain solverDeadlineEffect)

/-- The record of an ended job goes to memory; a refusal by the range checker leaves memory as it is and is BAD_ARG (R290). -/
def State.slvWrite (s : State) (o : SlvOut) : State × Nat :=
  match o.record with
  | none => (s, o.status)
  | some (a, l) =>
    if s.admits .solver (some o.part) .w a l.length then ((s.writeSeqRecord .solver o.part a l).1, o.status)
    else (s.refuse .solver (some o.part) .w a, if o.status = stTierFault ∨ o.status = stTierLate then o.status else stBadArg)

/-- Counters and logs of an ended run, and EN where its slot closes (R274, R294). -/
def State.slvAccount (s : State) (o : SlvOut) (status : Nat) : State :=
  let j := o.job.slot
  let a := s.bump Reg.SLV_JOB_CNT
  let b := if status = stDeadlineMiss then a.bump Reg.SLV_MISS_CNT else if status = stPreempted then a.bump Reg.SLV_PREEMPT_CNT else a
  let c := if status = stDone then b else b.setReg Reg.SLV_LASTERR (b.frameLo * 2 ^ 32 + j * 2 ^ 16 + status)
  let k := Reg.SLV_JOB_STAT j
  let d := c.setReg k ((c.reg k % 2 ^ 32 + 1) % 2 ^ 32 + status * 2 ^ 32 + o.iter * 2 ^ 40)
  if (d.slvSlot j).stopping ∨ d.slvPeriod j = 0 then (d.setReg (Reg.SLV_JOB_CTRL j) 0).modSlvSlot j (fun x => { x with stopping := false }) else d

/-- The path of the record of an ended job is owned. -/
def State.slvWay (s : State) (o : SlvOut) : Bool := match o.record with | some (a, l) => s.mayGo .solver o.part .w a l.length | none => true

def solverRecordWriteEffect (s0 : State) : State :=
  let s := if s0.diag.halted.contains 2 then s0 else s0.slvSettleOut
  match s.slv.outs with
  | [] => s
  | o :: rest =>
    if s.diag.halted.contains 2 ∨ o.prev.isSome ∨ !s.slvWay o then s
    else
      let w := ((s.modSlv (fun v => { v with outs := rest })).dropReads .solver o.job.key).slvWrite o
      let cell := s.reg (Reg.SLV_JOB_CELL o.job.slot)
      let t := if bit cell 63 then w.1 else w.1.complete .solver o.part (bits cell 47 0) w.2
      t.slvAccount o w.2

/-- SOLVER_RECORD_WRITE: the oldest ended job writes its record with SEQ last, performs its completion operation and is counted (R290, R294); a halted core
writes nothing (15 R379). -/
def execSolverRecordWrite (s : State) : Host.Outcome State Fault Refusal := .next (s.onMain solverRecordWriteEffect)

end Sys2Proof.Machine
end

