-- ==== Sys2Proof/Machine/TimeServo.lean ====
section
/-! DEFINITION. The timebase: rate changes, steps, the servo and its states (13 R336 to R344). -/

namespace Sys2Proof.Machine

def State.modTb (s : State) (f : Timebase → Timebase) : State := { s with tb := f s.tb }

/-- RATE becomes r in TCLK cycle c0, with OFS replaced so that T(c0) is the same (R337). -/
def Timebase.setRate (t : Timebase) (c0 : Nat) (r : Int) : Timebase :=
  { t with ofs := toInt 80 (ofInt 80 (t.ofs + (c0 * t.rate) / (2 ^ 22 : Nat) - (c0 * r) / (2 ^ 22 : Nat))), rate := r }

/-- The first TCLK cycle that begins at or after the present HCLK cycle (R337). -/
def State.nextTclk (s : State) : Nat := if s.tick / 8 * 8 % 32 = 0 then s.tb.count else s.tb.count + 1

/-- LOCK_NS, LOCK_CNT, OUT_CNT. -/
def State.lockNs (s : State) : Nat := s.regBits Reg.TB_LOCK 15 0
def State.lockCnt (s : State) : Nat := s.regBits Reg.TB_LOCK 23 16
def State.outCnt (s : State) : Nat := s.regBits Reg.TB_LOCK 31 24

/-- The servo is enabled. -/
def State.servoEn (s : State) : Bool := bit (s.reg Reg.TB_CTRL) 0

def State.clampRate (s : State) (x : Int) : Int := let m : Int := s.reg Reg.TB_RATE_MAX; max (-m) (min x m)

/-- The servo's next i and RATE for theta (R341). -/
def State.servo (s : State) (theta : Int) : Int × Int :=
  let i := s.clampRate (s.tb.integ + (s.reg Reg.TB_KI * theta) / (2 ^ 24 : Nat))
  (i, s.clampRate (i + (s.reg Reg.TB_KP * theta) / (2 ^ 24 : Nat)))

/-- HOLDOVER is entered: RATE = i, counted, the holdover timer starts; the run of LOCK_CNT starts anew (R342). The rate takes effect in TCLK cycle c0. -/
def State.enterHoldover (s : State) (c0 : Nat) : State :=
  ((s.modTb (fun t => { t with
    st := 2, lockRun := 0, holdEntry := t.count, accInHold := false, pendRate := t.pendRate ++ [(c0, t.integ)] })).bump Reg.TB_HOLD_CNT).syncState

/-- The entry to LOCKED, HOLDOVER or FREE shows in the state word. -/
def State.setTimeState (s : State) (x : Nat) : State := (s.modTb (fun t => { t with st := x })).syncState

/-- A measurement is discarded. -/
def State.measOutlier (s : State) : State :=
  let a := (s.bump Reg.TB_OUTLIER_CNT).modTb (fun t => { t with outRun := t.outRun + 1 })
  if a.tb.st = 1 ∧ a.outCnt ≤ a.tb.outRun then a.enterHoldover (a.tb.count + 8) else a

/-- A measurement is accepted. -/
def State.measAccept (s : State) (theta : Int) : State :=
  let near := decide (theta.natAbs ≤ s.lockNs * 65536)
  let r := s.servo theta
  let a := (s.bump Reg.TB_MEAS_CNT).modTb (fun t => { t with
    outRun := 0, inRange := near, lockRun := if near then t.lockRun + 1 else 0, lastAcc := t.count, accInHold := t.st == 2,
    integ := r.1, pendRate := t.pendRate ++ [(t.count + 8, r.2)] })
  if a.tb.st ≠ 1 ∧ near ∧ a.lockCnt ≤ a.tb.lockRun then a.setTimeState 1 else a

def tbMeasWriteEffect (theta : BitVec 64) (s : State) : State :=
  let z := theta.toInt
  let a := s.setReg Reg.TB_LAST_MEAS theta.toNat
  if !s.servoEn then a
  else if s.tb.stepAt = some s.tb.count ∨ s.reg Reg.TB_OUTLIER * 65536 < z.natAbs then a.measOutlier
  else a.measAccept z

/-- TB_MEAS_WRITE: a measured offset; with SERVO_EN = 0 only recorded, otherwise an outlier (or one in the cycle of a step) is discarded and any other
drives the servo (R340 to R342). -/
def execTbMeasWrite (theta : BitVec 64) (s : State) : Host.Outcome State Fault Refusal := .next (s.onMain (tbMeasWriteEffect theta))

def tbRateApplyEffect (s : State) : State :=
  match s.tb.pendRate with
  | (c0, r) :: rest => if c0 ≤ s.tb.count then s.modTb (fun t => { t.setRate c0 r with pendRate := rest }) else s
  | [] => s

/-- TB_RATE_APPLY: the servo's new RATE takes effect in its cycle, device time unchanged there (R337, R341). -/
def execTbRateApply (s : State) : Host.Outcome State Fault Refusal := .next (s.onMain tbRateApplyEffect)

def tbRateWriteEffect (rate : BitVec 32) (s : State) : State :=
  if s.servoEn then s.hwSetBit Reg.TB_ERR errState
  else if s.nextTclk = s.tb.count then s.modTb (fun t => t.setRate t.count rate.toInt)
  else s.modTb (fun t => { t with fwRate := some rate.toInt })

/-- TB_RATE_WRITE: firmware writes RATE, which changes in the first TCLK cycle that begins at or after the present HCLK cycle; ignored with STATE set while
SERVO_EN = 1 (R337, R341). -/
def execTbRateWrite (rate : BitVec 32) (s : State) : Host.Outcome State Fault Refusal := .next (s.onMain (tbRateWriteEffect rate))

/-- A step of z ns is added to OFS (R337). -/
def State.stepTime (s : State) (z : Int) : State :=
  (s.modTb (fun t => { t with ofs := toInt 80 (ofInt 80 (t.ofs + z * (65536 : Nat))), stepAt := some s.tb.count })).bump Reg.TB_STEP_CNT

def tbServoEnableEffect (en : Bool) (s : State) : State :=
  let a := s.setReg Reg.TB_CTRL (b2n en)
  if en ∧ !s.servoEn then a.modTb (fun t => { t with integ := t.rate, lockRun := 0, outRun := 0 })
  else if !en ∧ s.servoEn then (a.modTb (fun t => { t with lockRun := 0 })).setTimeState 0
  else a

/-- TB_SERVO_ENABLE: SERVO_EN is written; setting it makes i the current RATE, clearing it leaves FREE with RATE unchanged (R341, R342). -/
def execTbServoEnable (en : Bool) (s : State) : Host.Outcome State Fault Refusal := .next (s.onMain (tbServoEnableEffect en))

/-- TCLK cycles of MEAS_TO and HOLD_MAX. -/
def State.measTo (s : State) : Nat := s.reg Reg.TB_MEAS_TO * 250000
def State.holdMax (s : State) : Nat := s.reg Reg.TB_HOLD_MAX * 250000

def tbMeasTimeoutEffect (s : State) : State :=
  if s.tb.count < s.tb.lastAcc + s.measTo then s
  else if s.tb.st = 1 then s.enterHoldover s.tb.count
  else if s.tb.st = 2 ∧ s.tb.accInHold then
    s.modTb (fun t => { t with accInHold := false, pendRate := t.pendRate ++ [(t.count, t.integ)] })
  else s

/-- TB_MEAS_TIMEOUT: MEAS_TO without an accepted measurement: LOCKED goes to HOLDOVER, and RATE returns to i (R341, R342). -/
def execTbMeasTimeout (s : State) : Host.Outcome State Fault Refusal := .next (s.onMain tbMeasTimeoutEffect)

def tbHoldoverExpiryEffect (s : State) : State :=
  if s.tb.st = 2 ∧ s.tb.holdEntry + s.holdMax ≤ s.tb.count then
    ((s.setTimeState 0).bump Reg.TB_EXPIRE_CNT).raise 0x8D (DoubtInfo.plain 0xB)
  else s

/-- TB_HOLDOVER_EXPIRY: HOLD_MAX since the entry to HOLDOVER: FREE, counted, doubt 0x8D (R342, R343). -/
def execTbHoldoverExpiry (s : State) : Host.Outcome State Fault Refusal := .next (s.onMain tbHoldoverExpiryEffect)

def tbNowReadEffect (s : State) : State :=
  { s.readEffect Reg.TB_NOW with rdata := [s.readReg Reg.TB_NOW] }

/-- TB_NOW_READ: the integer part of device time is read, and the fraction of the same cycle latched (R336, R353). -/
def execTbNowRead (s : State) : Host.Outcome State Fault Refusal := .next (s.onMain tbNowReadEffect)

end Sys2Proof.Machine
end

