-- ==== Sys2Proof/Machine/TimeStep.lean ====
section
/-! DEFINITION. Steps of device time: what a forward step skips (13 R337, R339). The frame-table distributor and the loop engine follow their own
rules; a single pending instant is simply reached. -/

namespace Sys2Proof.Machine

/-- TB_SKIP_CNT counts skipped instants. -/
def State.skipped (s : State) (n : Nat) : State := s.bumpBy Reg.TB_SKIP_CNT n

/-- Of the instants t, t + p, ... the number reached beyond the first. -/
def State.passed (s : State) (t p : Int) : Nat := if s.reached t then ((s.nowNs - t) / max 1 p).toNat else 0

/-- Alignment channel k goes to the latest of its due instants. -/
def State.skipChannel (s : State) (k : Nat) : State :=
  let n := mapGet 0 s.fus.next k
  let j := s.passed (s.chT k n + s.chDelay k) (s.chPeriod k)
  if s.chEn k ∧ 0 < j then (s.modFus (fun f => { f with next := mapInsert f.next k (n + j) })).skipped j else s

/-- Association channel a likewise. -/
def State.skipAssoc (s : State) (a : Nat) : State :=
  let n := mapGet 0 s.fus.asNext a
  let j := s.passed (s.asDue a n) (s.chPeriod (s.regBits (Reg.FUS_AS_TIME a) 3 0))
  if bit (s.reg (Reg.FUS_AS_CFG a)) 0 ∧ 0 < j then (s.modFus (fun f => { f with asNext := mapInsert f.asNext a (n + j) })).skipped j else s

/-- The ego-motion unit likewise (its ticks are every 500 us). -/
def State.skipEgo (s : State) : State :=
  let j := s.passed (s.fus.tick * 500000) 500000
  if bit (s.reg Reg.FUS_EGO_CFG) 0 ∧ 0 < j then (s.modFus (fun f => { f with tick := f.tick + j })).skipped j else s

/-- Solver slot i likewise. -/
def State.skipSolver (s : State) (i : Nat) : State :=
  match s.slvStart i (s.slvSlot i).n with
  | some t =>
    let j := if s.slvPeriod i = 0 then 0 else s.passed t (s.slvPeriod i : Nat)
    let n := (s.slvSlot i).n + j
    if s.slvEn i ∧ 0 < j then
      ((s.modSlvSlot i (fun x => { x with n := n })).setReg (Reg.SLV_JOB_NEXT i) (ofInt 64 ((s.slvStart i n).getD t))).skipped j
    else s
  | none => s

/-- The planner check unit likewise. -/
def State.skipPlanner (s : State) : State :=
  let j := s.passed (s.plnStart s.pln.n) (s.reg Reg.PLN_PERIOD : Nat)
  if s.plnEn ∧ 0 < j then (s.modPln (fun x => { x with n := x.n + j })).skipped j else s

/-- An SPI context that triggers by its period likewise. -/
def State.skipSpi (s : State) (c : Nat) : State :=
  let j := s.passed (s.ctx c).instant (s.period c)
  if s.ctxValid c ∧ s.ctxKind c = 2 ∧ s.filt c 56 56 = 1 ∧ 0 < j then
    (s.modCtx c (fun x => { x with instant := x.instant + j * max 1 (s.period c) })).skipped j
  else s

/-- After a forward step each periodic block acts only on the latest of the instants reached together (R339). -/
def State.skipInstants (s : State) : State :=
  let a := (List.range 16).foldl State.skipChannel s
  let b := ((List.range 4).foldl State.skipAssoc a).skipEgo
  let c := ((List.range 8).foldl State.skipSolver b).skipPlanner
  (List.range 96).foldl State.skipSpi c

/-- A step takes place in the present TCLK cycle. -/
def State.stepNow (s : State) (z : Int) : State := let a := s.stepTime z; if 0 < z then a.skipInstants else a

def tbStepEffect (delta : BitVec 64) (s : State) : State :=
  if s.nextTclk = s.tb.count then s.stepNow delta.toInt
  else s.modTb (fun t => { t with fwSteps := t.fwSteps ++ [delta.toInt] })

/-- A TCLK cycle: the timebase counts, and what firmware wrote for this cycle takes effect, the rate first (R336, R337). -/
def State.tclkEdge (s : State) : State :=
  let a := s.modTb (fun t => { t with count := t.count + 1, fwRate := none, fwSteps := [] })
  let b := match s.tb.fwRate with | some r => a.modTb (fun t => t.setRate t.count r) | none => a
  s.tb.fwSteps.foldl State.stepNow b

/-- TB_STEP: device time steps by a signed number of nanoseconds in the first TCLK cycle that begins at or after the present HCLK cycle; instants a forward step
passes together are skipped but the latest, and after a backward step every block waits for its next instant (R337, R339). -/
def execTbStep (delta : BitVec 64) (s : State) : Host.Outcome State Fault Refusal := .next (s.onMain (tbStepEffect delta))

end Sys2Proof.Machine
end

