-- ==== Sys2Proof/Machine/Tsn.lean ====
section
/-! DEFINITION. The TSN MACs: PTP frames, transmit rings, launch times, gate schedules and the actuator queue (13 R346 to R352). -/

namespace Sys2Proof.Machine

def State.modTport (s : State) (m : Nat) (f : TsnPort → TsnPort) : State := { s with tsn := listModify f s.tsn m }
def State.tqueue (s : State) (m q : Nat) : TxQueue := (s.tport m).queues.getD q TxQueue.reset
def State.modTqueue (s : State) (m q : Nat) (f : TxQueue → TxQueue) : State :=
  s.modTport m (fun p => { p with queues := listModify f p.queues q })

/-- Queue fields (Table 13.6). -/
def State.tqCfg (s : State) (m q : Nat) : Nat := s.reg (Reg.TSN_QCFG m q)
def State.tqEn (s : State) (m q : Nat) : Bool := bit (s.tqCfg m q) 0
def State.tqLt (s : State) (m q : Nat) : Bool := bit (s.tqCfg m q) 1
def State.tqSend (s : State) (m q : Nat) : Bool := bit (s.tqCfg m q) 2
def State.tqPart (s : State) (m q : Nat) : Nat := bits (s.tqCfg m q) 7 4
def State.tqTol (s : State) (m q : Nat) : Int := (bits (s.tqCfg m q) 31 16 : Nat)

/-! ### PTP reception (R346) -/

def ptpFrameRxEffect (mac : Fin 4) (sfd : Int) (frame : List Byte) (s : State) : State :=
  if !s.tpEn mac.val ∨ !isPtp frame then s
  else ((s.bump (Reg.TSN_RX_CNT mac.val)).bump (Reg.TSN_PTP_CNT mac.val)).modTport mac.val (fun p => { p with ptp := some (sfd, frame) })

/-- PTP_FRAME_RX: a PTP event message goes to firmware with the device time of its start-frame delimiter, in 2^-16 ns, and never reaches ingest (R346). -/
def execPtpFrameRx (mac : Fin 4) (sfd : Int) (frame : List Byte) (s : State) : Host.Outcome State Fault Refusal :=
  .next (s.onMain (ptpFrameRxEffect mac sfd frame))

/-! ### Gates (R351) -/

/-- Time until gate q next closes, from an open gate at t: the open segments that follow one another, over two cycles; none where it never closes. -/
def openRun (q : Nat) : List (Nat × Nat × Nat) → Option Nat
  | [] => none
  | (a, _, g) :: l => if bit g q then openRun q l else some a

def GateList.untilClose (g : GateList) (q : Nat) (t : Int) : Option Nat :=
  let segs := gateSegs g.cycle 0 g.entries
  let two := segs ++ segs.map (fun e => (e.1 + g.cycle, e.2.1 + g.cycle, e.2.2))
  (openRun q (two.filter (fun e => decide (g.pos t < e.2.1)))).map (fun c => c - g.pos t)

/-- Wire time of n bytes at the port's rate, 2^-16 ns, rounded up: 25 or 10 Gb/s. -/
def State.wireTime (s : State) (m n : Nat) : Nat :=
  let g := if s.regBits (Reg.TSN_PCFG m) 2 1 = 3 then 10 else 25
  cdiv (n * 8 * 65536) g

/-- Root-clock periods, of 1/8 ns, of n bytes on the wire. -/
def State.wireTicks (s : State) (m n : Nat) : Nat := cdiv (n * 64) (if s.regBits (Reg.TSN_PCFG m) 2 1 = 3 then 10 else 25)

/-- The gate of queue q is open, and stays so for n bytes, their FCS and 12 bytes of gap (R349). -/
def State.gateFits (s : State) (m q n : Nat) : Bool :=
  match (s.tport m).gcl with
  | none => true
  | some g => bit (g.gates s.nowNs) q &&
    (match g.untilClose q s.nowNs with | some c => decide (s.wireTime m (n + 16) ≤ c * 65536) | none => true)

/-! ### Frames (R347, R348) -/

/-- Client 0x9 owns the path of an access. -/
def State.tsnMay (s : State) (m q : Nat) (k : Want) (a n : Nat) : Bool := s.mayGo .ingest (s.tqPart m q) k a n

/-- The doorbell of one queue is read, where it is enabled, in the first sub-slot of the slot that gives its path; an uncorrectable doorbell announces nothing (DEDUCED,
log entry 43). -/
def State.pollQueue (s : State) (m q : Nat) : State :=
  let a := s.reg (Reg.TSN_QDB m q) % 2 ^ 48
  let p := s.tqPart m q
  if !s.tqEn m q then s
  else match s.cellRead .ingest p a with
    | some v =>
      if !s.firstOwned .ingest (pathRows .ingest (regionOf a) true) then s
      else
        let b := s.eccRead a 8 p (DoubtInfo.plain 0xC)
        if s.poisoned a 8 then b else b.modTqueue m q (fun x => { x with announced := v % 2 ^ 32 })
    | none => s.refuse .ingest (some p) .s a

def tsnDoorbellPollEffect (s : State) : State :=
  (List.range 32).foldl (fun t i => t.pollQueue (i / 8) (i % 8)) s

/-- TSN_DOORBELL_POLL: in the first sub-slot of client 0x9 in a slot the MACs read the doorbells of every enabled queue (R347). -/
def execTsnDoorbellPoll (s : State) : Host.Outcome State Fault Refusal := .next (s.onMain tsnDoorbellPollEffect)

/-- A frame of the ring ends: descriptor and completion cell (R348); a time where it was sent. -/
def State.txEnd (s : State) (m q : Nat) (f : TxFrame) (status : Nat) (late : Bool) (time : Option Int) : State :=
  let p := s.tqPart m q
  let fl := f.flags % 128 + 128 * b2n late
  let a := s.postWrite .ingest p (f.desc + 0x0A) (toLE 1 fl ++ toLE 1 status)
  let b := match time with
    | some t =>
      (a.postWrite .ingest p (f.desc + 0x0C) (toLE 2 (t % (65536 : Nat)).toNat)).postWrite .ingest p (f.desc + 0x18) (toLE 8 (ofInt 64 (t / (65536 : Nat))))
    | none => a
  let cell := s.reg (Reg.TSN_QCPL m q)
  if bit cell 63 then b else b.complete .ingest p (bits cell 47 0) status

/-- The head of a queue leaves it. -/
def State.popTx (s : State) (m q : Nat) : State := s.modTqueue m q (fun x => { x with buf := x.buf.drop 1 })

/-- The queue carries actuator frames and the executor has its input (R352). -/
def State.actq (s : State) (m q : Nat) : Bool :=
  let r := s.reg Reg.TSN_ACTQ
  bit r 8 && bits r 1 0 == m && bits r 4 2 == q && decide (s.auth ≠ .main)

/-- Heads that end unsent without a start: those fetched with a failure, and in the actuator queue outside MAIN those whose LAUNCH has come (R348,
R352). -/
def State.settle (m q : Nat) : Nat → State → State
  | 0, s => s
  | n + 1, s =>
    match (s.tqueue m q).buf with
    | [] => s
    | f :: _ =>
      match f.fixed with
      | some c => State.settle m q n ((s.popTx m q).txEnd m q f c false none)
      | none =>
        if s.actq m q ∧ (!s.tqLt m q ∨ s.reached f.launch) then
          State.settle m q n (((s.popTx m q).txEnd m q f stPreempted false none).bump (Reg.TSN_QPRE m q))
        else s

/-- Bytes in the transmit buffer of a port, of 256 KiB: the frame on the wire still lies in it (DEDUCED, log entry 43). -/
def State.txBytes (s : State) (m : Nat) : Nat :=
  (((s.tport m).queues.map (fun q => (q.buf.map (fun f => f.bytes.length)).sum))).sum +
    (match (s.tport m).sending with | some (q, f, _) => if q = 8 then 0 else f.bytes.length | none => 0)

/-- The frame of a descriptor: its bytes, or the status it ends with. -/
def State.readFrame (s : State) (p : Nat) (d : List Byte) : State × (Nat ⊕ List Byte) :=
  let a := fieldLE d 0 8
  let n := fieldLE d 8 2
  if n < 60 ∨ 1518 < n ∨ regionOf a ≠ .hub ∨ regionOf (a + n - 1) ≠ .hub then (s, .inl stBadArg)
  else
    let r := s.fetch .ingest p a n none
    match r.2 with
    | .bytes l => (r.1, .inr l)
    | .fail c => (r.1, .inl c)
    | .wait => (r.1, .inl stBadArg)

def tsnFrameFetchEffect (m : Fin 4) (q : Fin 8) (s : State) : State :=
  let x := s.tqueue m.val q.val
  let p := s.tqPart m.val q.val
  let ring := s.reg (Reg.TSN_QRING m.val q.val)
  let d := bits ring 47 0 + 32 * (x.fetched % (bits ring 59 48 + 1))
  if !s.tqEn m.val q.val ∨ x.announced = x.fetched % 2 ^ 32 ∨ !s.tsnMay m.val q.val .r d 32 then s
  else
    let r := s.fetch .ingest p d 32 none
    let y : State × TxFrame := match r.2 with
      | .bytes l =>
        let g := r.1.readFrame p l
        (g.1, ⟨d, fieldLE l 0x0A 1, (match g.2 with | .inr b => b | .inl _ => []), toInt 64 (fieldLE l 0x10 8),
          (match g.2 with | .inl c => some c | .inr _ => none)⟩)
      | .fail c => (r.1, ⟨d, 0, [], 0, some c⟩)
      | .wait => (r.1, ⟨d, 0, [], 0, some stBadArg⟩)
    let far : Bool := match r.2 with | .bytes l => !s.tsnMay m.val q.val .r (fieldLE l 0 8) (fieldLE l 8 2) | _ => false
    if far ∨ 0x40000 < s.txBytes m.val + y.2.bytes.length then s
    else
      let a := y.1.modTqueue m.val q.val (fun z => { z with fetched := z.fetched + 1, buf := z.buf ++ [y.2] })
      State.settle m.val q.val (x.buf.length + 1) (a.setReg (Reg.TSN_QSTAT m.val q.val) ((x.fetched + 1) % 2 ^ 32))

/-- TSN_FRAME_FETCH: the next announced descriptor of a queue and its frame enter the transmit buffer, where they fit and client 0x9 owns their paths; a frame that fails ends
in its turn
(R347, R348). -/
def execTsnFrameFetch (m : Fin 4) (q : Fin 8) (s : State) : Host.Outcome State Fault Refusal := .next (s.onMain (tsnFrameFetchEffect m q))

/-! ### Sending (R349, R350, R352) -/

/-- The frame queue q of port m presents, where it is eligible now: its own head, or a fallback frame of the executor in the actuator queue. -/
def State.eligible (s : State) (m q : Nat) : Option TxFrame :=
  if !s.tqEn m q then none
  else if s.actq m q then
    match s.fbx.ethOut with
    | l :: _ => if bit (s.gatesNow m) q then some ⟨0, 0, l, 0, none⟩ else none
    | [] => none
  else
    match (s.tqueue m q).buf with
    | f :: _ => if f.fixed.isNone && (!s.tqLt m q || s.reached f.launch) && s.gateFits m q f.bytes.length then some f else none
    | [] => none

/-- A half of TSN_QLATEmq counts, saturating. -/
def State.bumpLate (s : State) (m q lo : Nat) : State :=
  let k := Reg.TSN_QLATE m q
  s.setReg k (putBits (s.reg k) (lo + 15) lo (satAdd 16 (s.regBits k (lo + 15) lo) 1))

/-- The idle link takes the eligible frame of the highest queue: a late one under POLICY 0 is dropped, any other starts (R349, R350). -/
def State.txGo (s : State) (m : Nat) : State :=
  match (List.range 8).reverse.findSome? (fun q => (s.eligible m q).map (fun f => (q, f))) with
  | none => s
  | some (q, f) =>
    let send := fun (t : State) (k : Nat) (g : TxFrame) => t.modTport m (fun p => { p with sending := some (k, g, t.timeFix), ends := t.tick + t.wireTicks m (g.bytes.length + 4) })
    if s.actq m q then send { s with fbx := { s.fbx with ethOut := s.fbx.ethOut.drop 1 } } 8 f
    else if s.tqLt m q ∧ f.launch + s.tqTol m q < s.nowNs then
      (if s.tqSend m q then send ((s.popTx m q).bumpLate m q 16) q { f with flags := f.flags % 128 + 128 }
      else ((s.popTx m q).txEnd m q f stDeadlineMiss false none).bumpLate m q 0)
    else send (s.popTx m q) q { f with flags := f.flags % 128 }

/-- Port m may start a frame: its last one has ended, and 12 bytes of gap, preamble and start-frame delimiter have followed (IEEE 802.3-2022, R345). -/
def State.txIdle (s : State) (m : Nat) : Bool :=
  s.tpEn m && (s.tport m).sending.isNone && decide ((s.tport m).ends = 0 ∨ (s.tport m).ends + s.wireTicks m 20 ≤ s.tick)

def State.settleAll (s : State) (m : Nat) : State :=
  (List.range 8).foldl (fun t q => State.settle m q ((t.tqueue m q).buf.length) t) s

def tsnFrameTxStartEffect (m : Fin 4) (s : State) : State :=
  let a := s.settleAll m.val
  if a.txIdle m.val then a.txGo m.val else a

/-- TSN_FRAME_TX_START: the idle link starts the eligible frame of the highest-numbered queue (R349, R350, R352). -/
def execTsnFrameTxStart (m : Fin 4) (s : State) : Host.Outcome State Fault Refusal := .next (s.onMain (tsnFrameTxStartEffect m))

def tsnFrameLateEffect (m : Fin 4) (q : Fin 8) (s : State) : State :=
  match (List.range 8).reverse.find? (fun k => (s.eligible m.val k).isSome), s.eligible m.val q.val with
  | some k, some f =>
    if k = q.val ∧ s.txIdle m.val ∧ !s.actq m.val k ∧ s.tqLt m.val k ∧ f.launch + s.tqTol m.val k < s.nowNs then s.txGo m.val else s
  | _, _ => s

/-- TSN_FRAME_LATE: the head that would start now is past LAUNCH + LATE_TOL; POLICY drops it with DEADLINE_MISS or sends it marked LATE (R350). -/
def execTsnFrameLate (m : Fin 4) (q : Fin 8) (s : State) : Host.Outcome State Fault Refusal := .next (s.onMain (tsnFrameLateEffect m q))

def tsnFrameTxEndEffect (m : Fin 4) (s : State) : State :=
  match (s.tport m.val).sending with
  | none => s
  | some (q, f, t) =>
    if s.tick < (s.tport m.val).ends then s
    else
      let a := (s.modTport m.val (fun p => { p with sending := none })).bump (Reg.TSN_TX_CNT m.val)
      if q = 8 then a else a.txEnd m.val q f stDone (bit f.flags 7) (some t)

/-- TSN_FRAME_TX_END: the frame on the wire ends: its descriptor takes DONE and the time of its start-frame delimiter, and its cell is told (R346, R348). -/
def execTsnFrameTxEnd (m : Fin 4) (s : State) : Host.Outcome State Fault Refusal := .next (s.onMain (tsnFrameTxEndEffect m))

/-! ### Gate lists taken over (R351) -/

/-- The list of n entries at a. -/
def State.gateEntries (s : State) (a n : Nat) : List (Nat × Nat) :=
  (List.range n).map (fun i => let e := s.loadLE (a + 8 * i) 8; (bits e 31 0, bits e 39 32))

/-- A list of port m is pending. -/
def State.gclPending (s : State) (m : Nat) : Bool := (s.tport m).pend.isSome

def tsnGclEnableEffect (m : Fin 4) (value : BitVec 32) (s : State) : State :=
  let a := s.setReg (Reg.TSN_GCL_CFG m.val) (value.toNat &&& 0x800001FF)
  if bit value.toNat 31 then
    let src := a.reg (Reg.TSN_GCL_ADDR m.val) % 2 ^ 48
    let n := bits value.toNat 8 0
    let cyc := a.reg (Reg.TSN_GCL_CYCLE m.val)
    let base := toInt 64 (a.reg (Reg.TSN_GCL_BASE m.val))
    let t := max base (a.nowNs + 100000)
    let first := base + (-((base - t) / ((max 1 cyc : Nat) : Int))) * (cyc : Int)
    let b := a.eccRead src (8 * n) 0 (DoubtInfo.plain 0xC)
    b.modTport m.val (fun p => { p with pend := some (⟨a.gateEntries src n, base, cyc⟩, first) })
  else a.modTport m.val (fun p => { p with gcl := none, pend := none })

/-- TSN_GCL_ENABLE: TSN_GCL_CFGm is written: with EN = 1 the list is copied, to take effect at the first cycle start at least 100 us on and at or after BASE;
with EN = 0 all gates are open (R351). -/
def execTsnGclEnable (m : Fin 4) (value : BitVec 32) (s : State) : Host.Outcome State Fault Refusal := .next (s.onMain (tsnGclEnableEffect m value))

def tsnGclTakeEffectEffect (m : Fin 4) (s : State) : State :=
  match (s.tport m.val).pend with
  | some (g, t) => if s.reached t then s.modTport m.val (fun p => { p with gcl := some g, pend := none }) else s
  | none => s

/-- TSN_GCL_TAKE_EFFECT: the pending list takes effect at its cycle start (R351). -/
def execTsnGclTakeEffect (m : Fin 4) (s : State) : Host.Outcome State Fault Refusal := .next (s.onMain (tsnGclTakeEffectEffect m))

/-- A port's queue is enabled: it has announced and fetched nothing. -/
def State.tqEnable (s : State) (m q : Nat) : State := (s.modTqueue m q (fun _ => TxQueue.reset)).setReg (Reg.TSN_QSTAT m q) 0

end Sys2Proof.Machine
end

