-- ==== Sys2Proof/Machine/RegWrite.lean ====
section
/-! DEFINITION. Writes of registers: role (17 R446), the states the chapters ask for (R438), the values R511 admits, and what an accepted write does.
A refused write leaves the register as it was and names the bit of PFX_ERR that it sets (01 Table 1.15). -/

namespace Sys2Proof.Machine

/-- How a write arrives: role tag (1 operator, 2 installer, 3 maker), commit point of its group, the enable keys its group sets from 0, and FRT_CTRL or
TB_STEP where its group sets SWITCH or steps the time. -/
structure WCtx where
  tag : Nat
  point : Nat
  setting : List Nat

/-- Block index and offset of a key. -/
def keyBlk (k : Nat) : Nat := k / 0x100000
def keyOff (k : Nat) : Nat := k % 0x100000

/-- Index of offset o in an array of n records of s bytes from b. -/
def arrIdx (o b s n : Nat) : Option Nat := if b ≤ o ∧ o < b + s * n then some ((o - b) / s) else none

/-- The register whose EN or VALID governs register k, and the bit of it (09 R246, R272; 10 R294; 11 R296; 13 R354). -/
def enUnit (k : Nat) : Option (Nat × Nat) :=
  let o := keyOff k
  if keyBlk k = 4 then (arrIdx o 0x1000 0x40 96).map (fun c => (Reg.ING_CTX_CFG c, 63))
  else if keyBlk k = 5 then
    match arrIdx o 0x1000 0x40 16 with
    | some c => some (Reg.FUS_CH_CFG c, 0)
    | none => (arrIdx o 0x2000 0x40 4).map (fun a => (Reg.FUS_AS_CFG a, 0))
  else if keyBlk k = 7 then (arrIdx o 0x1000 0x40 8).map (fun j => (Reg.SLV_JOB_CTRL j, 0))
  else if keyBlk k = 8 then (if 0x18 ≤ o ∧ o < 0xF0000 then some (Reg.PLN_CTRL, 0) else none)
  else if keyBlk k = 0xC then
    match arrIdx o 0x1000 0x1000 4 with
    | some m => (arrIdx (o % 0x1000) 0x100 0x40 8).map (fun q => (Reg.TSN_QCFG m q, 0))
    | none => none
  else none

/-- A write of v to register k sets or clears the enable of its unit. -/
def enWrite (k v : Nat) : Option Bool :=
  match enUnit k with
  | some (e, b) => if e = k then some (bit v b) else none
  | none => if k = Reg.FUS_EGO_CFG then some (bit v 0) else none

/-- The enable that register k is of is set now. -/
def State.enabled (s : State) (k : Nat) : Bool :=
  match enUnit k with
  | some (e, b) => bit (s.reg e) b
  | none => k == Reg.FUS_EGO_CFG && bit (s.reg k) 0

/-! ### Roles -/

/-- The role may write the register: the installer, the maker in MANUFACTURE, and the operator the handback request (17 Table 17.4, R446; 15 R404). The
registers of MBX_ and CG_ are written by firmware itself. -/
def State.roleMay (s : State) (tag k : Nat) : Bool :=
  keyBlk k ≤ 1 || tag == 2 || (tag == 3 && s.keep.lifecycle == 0) || (tag == 1 && k == Reg.FBX_HB_REQ)

/-! ### States -/

/-- Loop axes of port p are all DISABLED. -/
def State.portDisabled (s : State) (p : Nat) : Bool := (List.range 8).all (fun j => (s.axis (8 * p + j)).settled.st == 0)

/-- No image is mapped (05 R169). -/
def State.anyImage (s : State) : Bool := (List.range 1024).any (fun k => imgValid (s.imgEntry k))

/-- A frame of the pool of stack k is resident or being filled (05 R169). -/
def State.poolUsed (s : State) (k : Nat) : Bool :=
  s.mig.lake.any (fun e => e.1 / 12288 == k) || s.mig.fills.any (fun f => match f.frame with | some x => x / 12288 == k | none => false)

/-- FRT_CTRL (02 R77, R79): SWITCH asks for the commit point "next major frame" and a loaded bank, STOP alone for an active table. -/
def State.frtCtrlBad (s : State) (c : WCtx) (v : Nat) : Bool :=
  if bit v 0 then c.point != 2 || !s.idleLoaded else bit v 1 && !c.setting.contains Reg.FRT_CTRL && !s.tableValid

/-- The state of a loop-engine or servo-port register forbids the write (12 R319, R320, R325, R335). -/
def State.loopBad (s : State) (k v : Nat) : Bool :=
  let o := keyOff k
  if k = Reg.LOOP_CTRL then !bit v 0 && s.loopRunning && !s.allDisabled
  else if k = Reg.LOOP_PERIOD ∨ k = Reg.LOOP_PHASE then s.loopRunning
  else if k = Reg.LOOP_SEG_T0 ∨ k = Reg.LOOP_SEG_LEN ∨ (0x20000 ≤ o ∧ o < 0x20800) then s.lp.swap
  else if k = Reg.LOOP_TBL_DATA then (s.axis (s.regBits Reg.LOOP_TBL_ADDR 21 16)).settled.st != 0
  else match arrIdx o 0x10000 0x80 64 with
    | some a =>
      if k = Reg.LOOP_AXCFG a then (s.axis a).settled.st != 0
      else if k = Reg.LOOP_AXCMD a then v % 4 != 0 && !s.axisAccepts a (v % 4)
      else false
    | none => false

def State.srvBad (s : State) (k v : Nat) : Bool :=
  match arrIdx (keyOff k) 0x1000 0x40 8 with
  | some p => k == Reg.SRV_CFG p && s.srvEn p && !bit v 0 && !s.portDisabled p
  | none => false

/-- 130 ms have not passed since the release of the main-complex reset (18 R487). -/
def State.xslTooSoon (s : State) : Bool := decide (s.fclk < s.start.release + 130000000)

/-- XSL_ writes (14 R369, R371, R373; 18 R487). -/
def State.xslBad (s : State) (c : WCtx) (k v : Nat) : Bool :=
  let o := keyOff k
  if k = Reg.XSL_MEMBERS ∨ (0x100 ≤ o ∧ o < 0x230) then c.point != 2
  else if k = Reg.XSL_CFG then (List.range 6).any (fun p => bit (s.reg (Reg.XSL_PCFG p)) 0)
  else if k = Reg.XSL_RES_MAX ∨ k = Reg.XSL_WIRE_MAX then s.reg Reg.XSL_MEMBERS != 2 ^ s.devId
  else if 0x1000 ≤ o ∧ o < 0x1200 then !s.genAllowed ((o - 0x1000) / 4) (v % 256)
  else match arrIdx o 0x300 0x20 6 with
    | some p => k == Reg.XSL_PCFG p && bit v 0 && !bit (s.reg k) 0 && s.xslTooSoon
    | none => false

/-- SCN_ entries (08 R237, R239): CFG, CELLS and SAVE only while the entry is ABSENT or FAILED or not VALID; a command only where Table 8.4 accepts it. -/
def State.scnBad (s : State) (k v : Nat) : Bool :=
  let n := keyBlk k - 0x30
  match arrIdx (keyOff k) 0x1000 0x20 64 with
  | some m =>
    if k = Reg.SCN_STR_CMD n m then v % 4 != 0 && s.swapAnswer n m (v % 4 == 1) != 0
    else strValid (s.strCfg n m) && s.strSt n m != 0 && s.strSt n m != 4
  | none => false

/-- The registers of R409 that only MAIN admits, and HB_REQ and HB_GO (15 R396, R404, R409). -/
def State.fbxBad (s : State) (k v : Nat) : Bool :=
  let o := keyOff k
  if k = Reg.FBX_HB_REQ then v == 1 && (s.auth != .fallback || s.safe)
  else if k = Reg.FBX_HB_GO then v == 1 && s.auth != .handbackPending
  else if k = Reg.FBX_CFG ∨ k = Reg.FBX_AXEN ∨ k = Reg.FBX_TIMES ∨ k = Reg.FBX_TX ∨ k = Reg.FBX_DEF_CFG ∨ (0x800 ≤ o ∧ o < 0x880) ∨
      (0x1000 ≤ o ∧ o < 0x1800) then s.auth != .main
  else false

/-- The state of its block forbids a write of v to register k. -/
def State.stateForbids (s : State) (c : WCtx) (k v : Nat) : Bool :=
  let b := keyBlk k
  (match enUnit k with
   | some (e, i) => bit (s.reg e) i && !c.setting.contains e && !(e == k && !bit v i)
   | none => false) ||
  (if b = 2 then
     (if k = Reg.FRT_CTRL then s.frtCtrlBad c v
      else k == Reg.FRT_LOAD_CMD && bit v 0 && (s.switchPending || bit (s.reg Reg.FRT_STATUS) 4))
   else if b = 3 then
     (if k = Reg.MIG_IPT_BASE then s.anyImage
      else if k = Reg.MIG_CMD_PUSH then v == 1 && decide (64 ≤ s.mig.queue.length)
      else match arrIdx (keyOff k) 0x20 4 4 with | some i => s.poolUsed i | none => false)
   else if b = 6 then
     (match arrIdx (keyOff k) 0x100 0x40 4 with
      | some e => k == Reg.HARP_CTRL e && bit v 0 && ((s.engineOf e).armed || (s.engineOf e).golden)
      | none => false)
   else if b = 9 then s.loopBad k v
   else if b = 0xA then s.srvBad k v
   else if b = 0xB then k == Reg.TB_RATE && s.servoEn
   else if b = 0xC then
     (if k = Reg.TSN_ACTQ then s.auth != .main
      else match arrIdx (keyOff k) 0x1000 0x1000 4 with
        | some m => (k == Reg.TSN_GCL_ADDR m || k == Reg.TSN_GCL_CYCLE m || k == Reg.TSN_GCL_BASE m) && s.gclPending m
        | none => false)
   else if b = 0xD then s.xslBad c k v
   else if k = Reg.SAF_DOUBT ∨ k = Reg.RIND_DOUBT then s.auth == .main
   else if 0x30 ≤ b ∧ b ≤ 0x37 then s.scnBad k v
   else if b = 0x41 then s.fbxBad k v
   else false)

/-! ### Values -/

/-- A value outside the range or the encodings of its field (01 R511; 16 R418). -/
def State.valueBad (r : RegRow) (k v : Nat) : Bool :=
  let x := v &&& r.mask
  (r.acc == .rw || r.acc == .wo || r.acc == .w1c || r.acc == .w1s) &&
    (!r.ok x || (k == Reg.PWR_THERM_CFG && decide (tHard < x % 256 + 5)))

/-! ### The check of one write -/

/-- The register's access code takes writes. -/
def Access.writable : Access → Bool
  | .rw => true
  | .wo => true
  | .w1c => true
  | .w1s => true
  | _ => false

/-- The bit of PFX_ERR that an access at key k sets where no register begins: WIDTH at the high word of a 64-bit register, an access of another width (DEDUCED, log
entry 44), else UNMAPPED (01 R39). -/
def offRow (k : Nat) : Nat :=
  if (match rowAt (k - 4) with | some r => decide (4 ≤ k) && r.width == 64 | none => false) then errWidth else errUnmapped

/-- The bit of PFX_ERR with which the block refuses a write of width bits to key k, or none where it is accepted: offset (UNMAPPED), width, role, state, value. A
write to a register that takes none is accepted and ignored (00 R9), on the Rind refused with STATE (01 R40). -/
def State.writeRefusal (s : State) (c : WCtx) (k width v : Nat) : Option Nat :=
  match rowAt k with
  | none => some (offRow k)
  | some r =>
    if width ≠ r.width then some errWidth
    else if !r.acc.writable then (if 0x40 ≤ keyBlk k then some errState else none)
    else if !s.roleMay c.tag k then some errRole
    else if s.stateForbids c k (v &&& r.mask) then some errState
    else if State.valueBad r k v then some errValue
    else none

/-- The status a refusal gives the command that submitted the group (17 R449, R511). -/
def refusalStatus (e : Nat) : Nat := if e = errState then stStateConflict else if e = errRole then stRoleDenied else stBadArg

/-- The Vat and stream of a stream command's register. -/
def scnCmdOf (k : Nat) : Option (Nat × Nat) :=
  let n := keyBlk k - 0x30
  if 0x30 ≤ keyBlk k ∧ keyBlk k ≤ 0x37 then
    match arrIdx (keyOff k) 0x1000 0x20 64 with
    | some m => if k = Reg.SCN_STR_CMD n m then some (n, m) else none
    | none => none
  else none

/-- The status an abort by a write of value v to key k gives: of a stream command the code of Table 8.4 or of its save area (08 R239, R241). -/
def State.abortStatus (s : State) (k v e : Nat) : Nat :=
  match scnCmdOf k with
  | some (n, m) => if e = errState ∧ s.swapAnswer n m (v % 4 == 1) = stBadArg then stBadArg else refusalStatus e
  | none => refusalStatus e

/-- What an abort by key k adds to DETAIL: of a stream command the state of its stream, in bits [27:24] (08 R239; the place is a DESIGN CHOICE, log entry 26). -/
def State.abortDetail (s : State) (k : Nat) : Nat := match scnCmdOf k with | some (n, m) => 2 ^ 24 * s.strSt n m | none => 0

/-- PFX_ERR that an access to key k marks: MBX_ERR's for an unassigned block (01 R39). -/
def errKeyOf (k : Nat) : Nat := errKey (if blockAssigned (keyBlk k) then keyBlk k else 0)

/-- What a refused write leaves: its bit in PFX_ERR, MIG_DROP_CNT for a push to a full queue (05 R148), and LOAD_CODE 3 for a load that is ignored (02 R76). -/
def State.markRefused (s : State) (k e : Nat) : State :=
  let a := s.hwSetBit (errKeyOf k) e
  if e = errState ∧ k = Reg.MIG_CMD_PUSH then a.bump Reg.MIG_DROP_CNT
  else if e = errState ∧ k = Reg.FRT_LOAD_CMD then a.setRegBits Reg.FRT_STATUS 15 8 3
  else a

/-! ### The effect of an accepted write -/

/-- A value stored as the access code has it (00 R9). -/
def State.storeReg (s : State) (r : RegRow) (k v : Nat) : State :=
  let x := v &&& r.mask
  match r.acc with
  | .rw => s.setReg k x
  | .w1c => s.setReg k (s.cleared k (s.reg k) x)
  | .w1s => s.setReg k (s.reg k ||| x)
  | _ => s

/-- Clearing the enable of a unit: at once, or at the end of what runs (09 R246, 10 R294, 11 R296). -/
def State.unitOff (s : State) (k : Nat) : State :=
  if keyBlk k = 4 then s.ctxStop ((keyOff k - 0x1000) / 0x40)
  else if keyBlk k = 7 then s.slvDisable ((keyOff k - 0x1000) / 0x40)
  else if keyBlk k = 8 then s.plnDisable
  else s.setReg k (putBit (s.reg k) 0 false)

/-- FRT_ registers with an effect of their own. -/
def State.writeFrt (s : State) (c : WCtx) (r : RegRow) (k v : Nat) : State :=
  if k = Reg.FRT_CTRL then
    (if bit v 0 then s.setRegBit Reg.FRT_CTRL 0 else if !bit v 1 then s.frtUnstop else if c.setting.contains k then s else s.frtStop)
  else if k = Reg.FRT_LOAD_CMD then frtLoadCmdEffect (BitVec.ofNat 32 v) s
  else s.storeReg r k v

/-- LOOP_ registers. -/
def State.writeLoop (s : State) (r : RegRow) (k v : Nat) : State :=
  if k = Reg.LOOP_CTRL then loopRunEffect (bit v 0) s
  else if k = Reg.LOOP_SEG_SWAP then loopSegSwapEffect (BitVec.ofNat 32 v) s
  else if k = Reg.LOOP_TBL_DATA then loopTblDataWriteEffect (BitVec.ofNat 32 v) s
  else match arrIdx (keyOff k) 0x10000 0x80 64 with
    | some a => if k = Reg.LOOP_AXCMD a then s.axisCommand a (v % 4) else (s.storeReg r k v).loopRetake
    | none => (s.storeReg r k v).loopRetake

/-- TB_ registers; a measurement in one group with a step is taken as an outlier (13 R340). -/
def State.writeTb (s : State) (c : WCtx) (r : RegRow) (k v : Nat) : State :=
  if k = Reg.TB_CTRL then tbServoEnableEffect (bit v 0) s
  else if k = Reg.TB_RATE then tbRateWriteEffect (BitVec.ofNat 32 v) s
  else if k = Reg.TB_STEP then tbStepEffect (BitVec.ofNat 64 v) s
  else if k = Reg.TB_MEAS then
    tbMeasWriteEffect (BitVec.ofNat 64 v) (if c.setting.contains Reg.TB_STEP then s.modTb (fun t => { t with stepAt := some t.count }) else s)
  else s.storeReg r k v

/-- XSL_LMAX shows L_max of the registers in force from the first write of one of them on (14 R367; its reset value 0 stands until then, DEDUCED, log entry 50). -/
def State.showLmax (s : State) : State := s.setReg Reg.XSL_LMAX (s.lmax % 2 ^ 32)

/-- XSL_ registers. -/
def State.writeXsl (s : State) (r : RegRow) (k v : Nat) : State :=
  let o := keyOff k
  if k = Reg.XSL_MEMBERS then s.setMembers v
  else if k = Reg.XSL_CFG ∨ k = Reg.XSL_RES_MAX ∨ k = Reg.XSL_WIRE_MAX then (s.storeReg r k v).showLmax
  else if k = Reg.XSL_LOST then xslLostClearEffect (BitVec.ofNat 64 v) s
  else if 0x1000 ≤ o ∧ o < 0x1200 then xslGenAdvanceEffect (Fin.ofNat 128 ((o - 0x1000) / 4)) (v % 256) s
  else match arrIdx o 0x300 0x20 6 with
    | some p => if k = Reg.XSL_PCFG p then xslPortEnableEffect (Fin.ofNat 6 p) (bit v 0) s else s.storeReg r k v
    | none => s.storeReg r k v

/-- SCN_ registers: 1 SWAP_OUT, 2 SWAP_IN, 3 INIT. -/
def State.writeScn (s : State) (r : RegRow) (k v : Nat) : State :=
  let n := Fin.ofNat 8 (keyBlk k - 0x30)
  match arrIdx (keyOff k) 0x1000 0x20 64 with
  | some m =>
    if k = Reg.SCN_STR_CMD n m then
      (if v % 4 = 1 then swapOutEffect n (Fin.ofNat 64 m) s
       else if v % 4 = 2 then swapInEffect n (Fin.ofNat 64 m) s
       else if v % 4 = 3 then initEffect n (Fin.ofNat 64 m) s
       else s)
    else s.storeReg r k v
  | none => s.storeReg r k v

/-- SNP_CTRL and SNP_CMP_T: ARMED is set by a write of 1 and not cleared by one of 0; a write arms the compare anew (17 Table 17.15). -/
def State.writeSnp (s : State) (r : RegRow) (k v : Nat) : State :=
  if k = Reg.SNP_CTRL then { s.setReg k (putBit (v &&& r.mask) 0 (bit v 0 || bit (s.reg k) 0)) with snapCmp := true }
  else { s.storeReg r k v with snapCmp := true }

/-- RIND_, FBX_ and EVR_ registers. -/
def State.writeRind (s : State) (r : RegRow) (k v : Nat) : State :=
  if k = Reg.RIND_DOUBT then s.clearDoubt true v
  else if k = Reg.RIND_WDT_KICK then rindWdtKickEffect (BitVec.ofNat 32 v) s
  else if k = Reg.FBX_TRJ_COMMIT then fbxTrjCommitEffect (BitVec.ofNat 32 v) s
  else if k = Reg.FBX_HB_REQ then fbxHbReqEffect (BitVec.ofNat 32 v) s
  else if k = Reg.FBX_HB_GO then fbxHbGoEffect (BitVec.ofNat 32 v) s
  else if keyBlk k = 0x41 ∧ 0x10000 ≤ keyOff k ∧ keyOff k < 0x14000 then
    s.modFbx (fun f => { f with staging := mapSet 0 f.staging ((keyOff k - 0x10000) / 8) v })
  else if k = Reg.EVR_CUR_F then { s with evr := { s.evr with curF := v } }
  else if k = Reg.EVR_CUR_O then { s with evr := { s.evr with curO := v } }
  else s.storeReg r k v

/-- OBS_MODE also shows in the state word (17 Table 17.6). -/
def State.writeObs (s : State) (r : RegRow) (k v : Nat) : State :=
  if k = Reg.OBS_MODE then (s.storeReg r k v).syncState else s.storeReg r k v

/-- PWR_ and CLK_ registers. -/
def State.writePwr (s : State) (r : RegRow) (k v : Nat) : State :=
  if k = Reg.PWR_MODE then (pwrModeWriteEffect (BitVec.ofNat 32 v) s).syncState
  else match arrIdx (keyOff k) 0x80 4 8 with
    | some i => if k = Reg.PWR_METER_CFG i then pwrMeterCfgWriteEffect (Fin.ofNat 8 i) (BitVec.ofNat 32 v) s else s.storeReg r k v
    | none => s.storeReg r k v

/-- HARP_CTRL: ARM, DISARM. -/
def State.writeHarp (s : State) (r : RegRow) (k v : Nat) : State :=
  match arrIdx (keyOff k) 0x100 0x40 4 with
  | some e =>
    if k = Reg.HARP_CTRL e then
      let a := if bit v 0 then harpArmEffect (Fin.ofNat 4 e) s else s
      if bit v 1 then harpDisarmEffect (Fin.ofNat 4 e) a else a
    else s.storeReg r k v
  | none => s.storeReg r k v

/-- TSN_GCL_CFG copies the gate list. -/
def State.writeTsn (s : State) (r : RegRow) (k v : Nat) : State :=
  match arrIdx (keyOff k) 0x1000 0x1000 4 with
  | some m => if k = Reg.TSN_GCL_CFG m then tsnGclEnableEffect (Fin.ofNat 4 m) (BitVec.ofNat 32 v) s else s.storeReg r k v
  | none => s.storeReg r k v

/-- A camera receiver that is disabled is not synchronised. -/
def State.writeIng (s : State) (r : RegRow) (k v : Nat) : State :=
  let a := s.storeReg r k v
  match arrIdx (keyOff k) 0x100 8 8 with
  | some p => if bit v 0 then a else a.setReg Reg.ING_STATUS (putBit (a.reg Reg.ING_STATUS) p false)
  | none => a

/-- MIG_CMD words are staged; the push queues them. -/
def State.writeMig (s : State) (r : RegRow) (k v : Nat) : State :=
  if k = Reg.MIG_CMD_PUSH then migCmdPushEffect v s
  else if (arrIdx (keyOff k) 0x100 8 8).isSome then s.setReg k v
  else s.storeReg r k v

/-- MBX_STATE keeps LIFECYCLE; MBX_DB_ACK takes doorbells; MBX_IRQ raises a vector (17 Table 17.18). -/
def State.writeMbx (s : State) (r : RegRow) (k v : Nat) : State :=
  if k = Reg.MBX_STATE then
    let w := putBits (v &&& r.mask) 17 16 s.keep.lifecycle
    let a := s.setReg k w
    a.hostEv (b2n (bits w 9 8 != bits (s.reg k) 9 8 || bit w 19 != bit (s.reg k) 19) + 2 * b2n (bits w 7 0 != s.fw))
  else if k = Reg.MBX_DB_ACK then s.setReg Reg.MBX_DB_PEND (s.cleared Reg.MBX_DB_PEND (s.reg Reg.MBX_DB_PEND) v)
  else if k = Reg.MBX_IRQ then s.raiseVector (v % 32)
  else s.storeReg r k v

/-- What an accepted write of v to register k does. CG_SUBMIT and CG_CANCEL act in Groups. -/
def State.applyWrite (s : State) (c : WCtx) (k v : Nat) : State :=
  match rowAt k with
  | none => s
  | some r =>
    let b := keyBlk k
    if !r.acc.writable then s
    else if enWrite k v = some false ∧ s.enabled k ∧ k ≠ Reg.FUS_EGO_CFG ∧ !c.setting.contains k then s.unitOff k
    else if b = 0 then s.writeMbx r k v
    else if b = 2 then s.writeFrt c r k v
    else if b = 3 then s.writeMig r k v
    else if b = 4 then s.writeIng r k v
    else if b = 5 then
      (let a := s.storeReg r k v
       if k = Reg.FUS_EGO_CFG ∧ s.enabled k ∧ !bit v 0 then a.egoDisable else a)
    else if b = 6 then s.writeHarp r k v
    else if b = 9 then s.writeLoop r k v
    else if b = 0xA then (s.storeReg r k v).loopRetake
    else if b = 0xB then s.writeTb c r k v
    else if b = 0xC then s.writeTsn r k v
    else if b = 0xD then s.writeXsl r k v
    else if b = 0xF ∨ b = 0x10 then s.writePwr r k v
    else if b = 0x11 then s.writeSnp r k v
    else if b = 0x12 then s.writeObs r k v
    else if 0x30 ≤ b ∧ b ≤ 0x37 then s.writeScn r k v
    else if k = Reg.SAF_DOUBT then s.clearDoubt false v
    else if 0x40 ≤ b then s.writeRind r k v
    else s.storeReg r k v

/-! ### What a group's end brings (enables, and the conditions over several registers) -/

/-- The unit whose enable key is k comes into service; false where its rules are broken, with which the group aborts (09 R246, R265, R272; 10 R274; 11 R295,
R296; 13 R347). -/
def State.unitOn (s : State) (k : Nat) : State × Bool :=
  let i := (keyOff k - 0x1000) / 0x40
  if keyBlk k = 4 then (s.ctxStart i, s.ctxOk i)
  else if k = Reg.FUS_EGO_CFG then (s.egoEnable, true)
  else if keyBlk k = 5 then (if keyOff k < 0x2000 then s.chEnable i else (s.asEnable ((keyOff k - 0x2000) / 0x40), true))
  else if keyBlk k = 7 then (s.slvEnable i, s.slvRules i)
  else if keyBlk k = 8 then s.plnEnable
  else (s.tqEnable ((keyOff k - 0x1000) / 0x1000) (((keyOff k) % 0x1000 - 0x100) / 0x40), true)

/-- The conditions of R237 on a stream entry as a group leaves it, VALID or not: its partition owns the lock of its pair in force, its save area lies in a range of the
partition that carries both R and W, and every entry of the pair names the same partition. -/
def State.scnEntryOk (s : State) (n m : Nat) : Bool :=
  let c := s.strCfg n m
  let l := (s.vat n).lock
  lockedTo l (strTile c) (strAcc c) (strPart c) && lockedTo l (strTile c) (strAcc c + 1) (strPart c) && s.saveOk n m &&
    (List.range 64).all (fun j => !strValid (s.strCfg n j) || !s.samePair n m j || strPart (s.strCfg n j) == strPart c)

/-- A write to key k that left a filter outside the encodings of its context's KIND (09 Table 9.11; 01 R511): the two registers of one group are taken together. -/
def State.filtLeftBad (s : State) (k : Nat) : Bool :=
  match (if keyBlk k = 4 then arrIdx (keyOff k) 0x1000 0x40 96 else none) with
  | some c => k == Reg.ING_CTX_FILT c && !s.filtOk c
  | none => false

/-- A write to key k that left a stream entry against R237. -/
def State.scnLeftBad (s : State) (k : Nat) : Bool :=
  let b := keyBlk k
  if 0x30 ≤ b ∧ b ≤ 0x37 then
    match arrIdx (keyOff k) 0x1000 0x20 64 with
    | some m => k != Reg.SCN_STR_CMD (b - 0x30) m && !s.scnEntryOk (b - 0x30) m
    | none => false
  else false

end Sys2Proof.Machine
end

