-- ==== Sys2Proof/Machine/Groups.lean ====
section
/-! DEFINITION. Commit groups (17 R445 to R451, R514): staging, commit points, evaluation and application in the commit-group unit and on the Rind; the
implicit group of a plain write (01 R27). -/

namespace Sys2Proof.Machine

def State.modCg (s : State) (f : CgUnit → CgUnit) : State := { s with cg := f s.cg }
def State.modFirm (s : State) (f : Firmware → Firmware) : State := { s with firm := f s.firm }

/-! ### Entries (Table 17.11) -/

/-- The register an entry addresses. -/
def CEntry.key (e : CEntry) : Nat := keyOfAddr e.addr

/-- The entry sets FRT_CTRL.SWITCH, or STOP: the actions, or writes of the register. -/
def CEntry.sets (e : CEntry) (b : Nat) : Bool :=
  (e.kind == 3 && e.action == b + 1) || (e.kind != 3 && e.key == Reg.FRT_CTRL && bit e.value b)

/-- The group switches the table, or stops it without a switch. -/
def switches (l : List CEntry) : Bool := l.any (fun e => e.sets 0)
def stops (l : List CEntry) : Bool := !switches l && l.any (fun e => e.sets 1)

/-- Width in bits of an entry's write. -/
def CEntry.width (e : CEntry) : Nat := if e.kind = 1 then 32 else if e.kind = 2 then 64 else 0

/-- What a group sets that its other entries may rely on: enables that stand at 0, SWITCH, a step of device time. -/
def State.settingOf (s : State) (l : List CEntry) : List Nat :=
  (l.filter (fun e => e.kind != 3 && enWrite e.key e.value == some true && !s.enabled e.key)).map CEntry.key ++
    (if switches l then [Reg.FRT_CTRL] else []) ++ (l.filter (fun e => e.kind != 3 && e.key == Reg.TB_STEP)).map CEntry.key

/-- The bit of PFX_ERR with which entry e is refused, if it is. -/
def State.entryRefusal (s : State) (c : WCtx) (e : CEntry) : Option Nat :=
  if e.kind = 3 then
    (if e.action = 1 then (if s.frtCtrlBad c 1 then some errState else none)
     else if e.action = 2 then (if s.frtCtrlBad c 2 then some errState else none)
     else none)
  else s.writeRefusal c e.key e.width e.value

/-- The register (for its block) that an entry reaches: FRT_CTRL, SNP_CTRL or EVR_STATUS for the actions. -/
def CEntry.target (e : CEntry) : Nat :=
  if e.kind = 3 then (if e.action ≤ 2 then Reg.FRT_CTRL else if e.action = 3 then Reg.SNP_CTRL else Reg.EVR_STATUS) else e.key

/-- A mark record: the entry's VALUE and the group's GTAG (17 Table 17.20). -/
def State.mark (s : State) (value gtag : Nat) : State := s.post 5 0 0 0xFF s.frameLo (s.reg Reg.MBX_STATE) (value % 2 ^ 64 + 2 ^ 64 * (gtag % 2 ^ 32))

/-- What an accepted entry does. -/
def State.applyEntry (s : State) (c : WCtx) (gtag : Nat) (e : CEntry) : State :=
  if e.kind = 3 then
    (if e.action = 1 then s.applyWrite c Reg.FRT_CTRL 1
     else if e.action = 2 then s.applyWrite c Reg.FRT_CTRL 2
     else if e.action = 3 then s.snapshotFire 8
     else if e.action = 4 then s.mark e.value gtag
     else s)
  else s.applyWrite c e.key e.value

/-! ### Evaluation and application (R448, R449) -/

/-- Where and why a group aborts: entry, register, bit of PFX_ERR. -/
structure Abort where
  entry : Nat
  key : Nat
  err : Nat

/-- The entries in order from number i on, each accepted in the state the earlier ones leave. -/
def State.runEntries (c : WCtx) (gtag : Nat) : Nat → List CEntry → State → State ⊕ Abort
  | _, [], s => .inl s
  | i, e :: l, s =>
    match s.entryRefusal c e with
    | some b => .inr ⟨i, e.target, b⟩
    | none => State.runEntries c gtag (i + 1) l (s.applyEntry c gtag e)

/-- The units the group enables come into service, and the stream entries it wrote satisfy R237. One whose reads wait for their path does not refuse. -/
def State.runUnits (c : WCtx) : Nat → List CEntry → State → State ⊕ Abort
  | _, [], s => .inl s
  | i, e :: l, s =>
    if e.kind = 3 then State.runUnits c (i + 1) l s
    else if s.scnLeftBad e.key then .inr ⟨i, e.key, errState⟩
    else if s.filtLeftBad e.key then .inr ⟨i, e.key, errValue⟩
    else if c.setting.contains e.key ∧ e.key ≠ Reg.FRT_CTRL ∧ e.key ≠ Reg.TB_STEP ∧ enWrite e.key e.value = some true then
      (let u := s.unitOn e.key
       if u.2 ∨ u.1.mig.waits then State.runUnits c (i + 1) l u.1 else .inr ⟨i, e.key, errValue⟩)
    else State.runUnits c (i + 1) l s

/-- The group evaluated as a whole: its state where every entry is accepted, else why it aborts. -/
def State.runGroup (s : State) (tag point gtag : Nat) (l : List CEntry) : State ⊕ Abort :=
  let c : WCtx := ⟨tag, point, s.settingOf l⟩
  match State.runEntries c gtag 0 l s with
  | .inr a => .inr a
  | .inl t => State.runUnits c 0 l t

/-- The entries of an accepted group applied to a state that a table switch has left (R514, steps 2 and 4). -/
def State.forceGroup (s : State) (tag point gtag : Nat) (l : List CEntry) : State :=
  let c : WCtx := ⟨tag, point, s.settingOf l⟩
  let a := l.foldl (fun t e => if e.sets 0 then t else t.applyEntry c gtag e) s
  match State.runUnits c 0 l (a.modMig (fun m => { m with waits := false, urgent := true })) with
  | .inl t => t.modMig (fun m => { m with urgent := false })
  | .inr _ => a

/-! ### How a group ends (R449, Table 17.12) -/

/-- FW follows a switch or a stop that is applied (Table 17.7). -/
def State.fwAfter (s : State) (l : List CEntry) : State :=
  if switches l then (if s.fw = 2 ∨ s.fw = 4 then s.setFw 3 else s)
  else if stops l then (if s.fw = 3 then s.setFw 4 else s)
  else s

/-- CG_STATUSk: state, final status, entry, block, GTAG. -/
def State.cgStatus (s : State) (g : CGroup) (st status entry blk : Nat) : State :=
  s.setReg (Reg.CG_STATUS g.slot) (st + 2 ^ 8 * status + 2 ^ 16 * (entry % 64) + 2 ^ 24 * (blk % 256) + 2 ^ 32 * (g.gtag % 2 ^ 32))

/-- A command waits for the group. -/
def State.waitedFor (s : State) (id : Nat) : Bool := s.firm.jobs.any (fun j => j.group == some id)

/-- The command that waits for group id learns how it ended. -/
def State.tellJob (s : State) (id status detail : Nat) : State :=
  s.modFirm (fun f => { f with jobs := f.jobs.map (fun j =>
    if j.group = some id then { j with group := none, ends := some (status, detail, s.reg Reg.MBX_STATE) } else j) })

/-- The record of a group that ends on firmware's own account (Table 17.20, KIND 2 with CODE 0). -/
def State.ownRecord (s : State) (status gtag detail : Nat) : State :=
  s.post 2 0 0 0xFF s.frameLo (s.reg Reg.MBX_STATE) (status + 2 ^ 32 * (gtag % 2 ^ 32) + 2 ^ 64 * detail)

/-- A group has been applied. -/
def State.groupDone (s : State) (g : CGroup) : State :=
  let a := ((s.fwAfter g.entries).cgStatus g 2 stDone 0 0).bump Reg.CG_APPLY_CNT
  (a.tellJob g.id stDone 0).emit 11 0 g.gtag 0

/-- A pending switch remains pending only while some group still carries one. -/
def State.settleSwitch (s : State) : State :=
  if s.cg.pending.any (fun g => switches g.entries) then s
  else
    let a := s.setReg Reg.FRT_STATUS (putBit (s.reg Reg.FRT_STATUS) 5 false)
    { a with frt := { a.frt with switchAt := none } }.syncState

/-- A group has aborted: nothing of it applies, the refusing block marks PFX_ERR, the abort is counted, and one KIND 2 record is posted, that of the command
that waits for the group or firmware's own. -/
def State.groupAborts (s : State) (g : CGroup) (status : Nat) (x : Abort) : State :=
  let detail := x.entry % 65536 + 65536 * (keyBlk x.key % 256) + s.abortDetail x.key
  let a := ((s.cgStatus g 3 status x.entry (keyBlk x.key)).bump Reg.CG_ABORT_CNT)
  let b := if status = stTierFault then a else a.markRefused x.key x.err
  let c := if switches g.entries then b.settleSwitch else b
  let d := if c.waitedFor g.id then c.tellJob g.id status detail else c.ownRecord status g.gtag detail
  d.emit 11 1 g.gtag 0

/-! ### Plain writes (01 R27, R39, R511) -/

/-- A write that is a group of its own is refused. -/
def State.implicitAborts (s : State) (e : CEntry) (x : Abort) : State :=
  let a := s.markRefused x.key x.err
  if x.err = errUnmapped ∨ x.err = errWidth then a
  else (a.bump Reg.CG_ABORT_CNT).ownRecord (s.abortStatus x.key e.value x.err) 0 (65536 * keyBlk x.key + s.abortDetail x.key)

/-- The slot of a write that is a group of its own and waits for a read: none of CG_STATUS. -/
def ownSlot : Nat := 8

/-- The implicit group of one write to a data-plane or management-plane register. One that enables a unit whose reads wait is evaluated anew with the groups of this
commit point (DEDUCED, log entry 36). -/
def State.implicitGroup (s : State) (tag : Nat) (e : CEntry) : State :=
  match (s.modMig (fun m => { m with waits := false })).runGroup tag 0 0 [e] with
  | .inl t =>
    if t.mig.waits then
      (s.modMig (fun m => { m with held := t.mig.held })).modCg (fun c => { c with
        pending := c.pending ++ [⟨c.next, ownSlot, 0, tag, 0, 0, 0, [e], s.fclk, some s.fclk⟩], next := c.next + 1 })
    else t.modMig (fun m => { m with waits := s.mig.waits })
  | .inr x => s.implicitAborts e x

/-- The register of entry e holds the last value written and is clocked by HCLK: a later write of the same cycle replaces the value (01 R27). -/
def CEntry.lasting (e : CEntry) : Bool :=
  e.kind != 3 && decide (keyBlk e.key < 0x40) && (match rowAt e.key with | some r => r.acc == .rw | none => false)

/-- A separate immediate write, noted for its HCLK cycle. -/
def State.separateWrite (s : State) (tag : Nat) (e : CEntry) : State :=
  let a := if e.lasting then { s with now := { s.now with plain := mapInsert s.now.plain e.key (s.fclk, tag, e.value) } } else s
  a.implicitGroup tag e

/-- The separate writes of this HCLK cycle to a register of the group's entries follow the group's (01 R27). -/
def State.separateAfter (s : State) (l : List CEntry) : State :=
  (s.now.plain.filter (fun p => p.2.1 == s.fclk && l.any (fun e => e.kind != 3 && e.key == p.1))).foldl
    (fun t p => match l.find? (fun e => e.kind != 3 && e.key == p.1) with
      | some e => t.implicitGroup p.2.2.1 { e with value := p.2.2.2 }
      | none => t) s

/-! ### Evaluation of one group -/

/-- The status with which a group aborts. -/
def State.groupStatus (s : State) (l : List CEntry) (x : Abort) : Nat := s.abortStatus x.key (match l[x.entry]? with | some e => e.value | none => 0) x.err

/-- One group whose commit point has come is evaluated, and applied or aborted; the entry in bad, if any, is met as uncorrectable data. -/
def State.evalGroup (s : State) (bad : Option Nat) (g : CGroup) : State :=
  match bad with
  | some i => s.groupAborts g stTierFault ⟨i, (match g.entries[i]? with | some e => e.target | none => Reg.CG_ERR), errState⟩
  | none =>
    match s.runGroup g.role g.point g.gtag g.entries with
    | .inl t => if g.slot = ownSlot then t else (t.groupDone g).separateAfter g.entries
    | .inr x => if g.slot = ownSlot then g.entries.foldl (fun t e => t.implicitAborts e x) s else s.groupAborts g (s.groupStatus g.entries x) x

/-! ### Staging (R446, R451) -/

/-- Slot k may take a group. -/
def State.slotFree (s : State) (k : Nat) : Bool := s.regBits (Reg.CG_STATUS k) 2 0 != 1

/-- The group that the staging registers hold (Table 17.12). -/
def State.stagedEntry (s : State) (i : Nat) : CEntry :=
  let w := s.reg (Reg.CG_STAGE_E i 0)
  ⟨bits w 7 0, bits w 15 8, bits w 63 16, s.reg (Reg.CG_STAGE_E i 1)⟩
def State.stagedGroup (s : State) (slot : Nat) : CGroup :=
  let h := s.reg Reg.CG_STAGE_HDR
  { id := s.cg.next, slot := slot, gtag := bits h 63 32, role := s.regBits Reg.CG_STAGE_ROLE 1 0, point := bits h 15 8, target := bits h 23 16,
    instant := toInt 64 (s.reg Reg.CG_STAGE_T), entries := (List.range (min 64 (bits h 7 0))).map s.stagedEntry, staged := s.fclk, commit := none }

/-- A switch group is complete: the switch is pending (02 R77, 17 Table 17.19). -/
def State.switchStaged (s : State) : State :=
  let a := s.setReg Reg.FRT_STATUS (putBit (s.reg Reg.FRT_STATUS) 5 true)
  ({ a with frt := { a.frt with switchAt := (match s.frt.switchAt with | some t => some t | none => some s.fclk),
                                switchNs := (match s.frt.switchAt with | some _ => s.frt.switchNs | none => s.nowNs + 16000) } }).syncState

def cgSubmitWriteEffect (value : BitVec 32) (s : State) : State :=
  if !bit value.toNat 0 then s
  else
    match (List.range 8).find? s.slotFree with
    | none => s.setReg Reg.CG_LAST (putBit (s.reg Reg.CG_LAST) 8 true)
    | some k =>
      let g := s.stagedGroup k
      let a := ((s.cgStatus g 1 0 0 0).setReg Reg.CG_LAST k).modCg (fun c => { c with pending := c.pending ++ [g], next := c.next + 1 })
      if switches g.entries ∧ g.point = 2 ∧ g.target = 0 then a.switchStaged else a

/-- CG_SUBMIT: writing 1 moves the staged group to a free slot; CG_LAST tells which, or that none is free (R451). -/
def execCgSubmitWrite (value : BitVec 32) (s : State) : Host.Outcome State Fault Refusal := .next (s.onMain (cgSubmitWriteEffect value))

/-- Group g, pending, is withdrawn. -/
def State.cancelGroup (s : State) (g : CGroup) : State :=
  let a := (s.modCg (fun c => { c with pending := c.pending.filter (fun x => x.id != g.id) })).cgStatus g 4 stStateConflict 0 0
  let b := if switches g.entries then a.settleSwitch else a
  b.tellJob g.id stStateConflict 0

def cgCancelWriteEffect (k : Fin 8) (value : BitVec 32) (s : State) : State :=
  if !bit value.toNat 0 then s
  else match s.cg.pending.find? (fun g => g.slot == k.val && g.commit == none) with
    | some g => s.cancelGroup g
    | none => s

/-- CG_CANCELk: writing 1 cancels the pending group of slot k (R449, R451). A command that waits for it ends with STATE_CONFLICT (DESIGN CHOICE, log entry 44). -/
def execCgCancelWrite (k : Fin 8) (value : BitVec 32) (s : State) : Host.Outcome State Fault Refusal := .next (s.onMain (cgCancelWriteEffect k value))

/-! ### Commit points (R447) -/

/-- The commit point of a pending group has come; a switch group's is its frame boundary (R77). -/
def State.commitDue (s : State) (g : CGroup) : Bool :=
  g.commit == none &&
  (if g.point = 0 then decide (g.staged + 1 ≤ s.fclk)
   else if g.point = 1 then s.tableValid && decide (g.staged + 2000 ≤ s.frt.slotStart)
   else if g.point = 2 then !(switches g.entries && g.target == 0) && s.tableValid && decide (g.staged + 16000 ≤ s.frt.frameStart)
   else s.reached g.instant)

def commitPointEffect (k : Fin 8) (s : State) : State :=
  match s.cg.pending.find? (fun g => g.slot == k.val) with
  | some g =>
    if !s.commitDue g then s
    else
      let h := { g with commit := some s.fclk }
      if g.target = 0 then s.modCg (fun c => { c with pending := c.pending.map (fun x => if x.id = g.id then h else x) })
      else s.modCg (fun c => { c with pending := c.pending.filter (fun x => x.id != g.id), bridge := c.bridge ++ [h] })
  | none => s

/-- COMMIT_POINT: the commit point of the group in slot k is reached: the commit lines are driven, or a Rind group goes over the bridge (R447, R448). -/
def execCommitPoint (k : Fin 8) (s : State) : Host.Outcome State Fault Refusal := .next (s.onMain (commitPointEffect k))

/-- The earliest commit point among the groups that have reached theirs. -/
def firstCommit (l : List CGroup) : Option Nat :=
  (l.filterMap (fun g => g.commit)).foldl (fun (b : Option Nat) t => match b with | some x => some (min x t) | none => some t) none

def commitEvaluateEffect (bad : Option Nat) (s : State) : State :=
  match firstCommit s.cg.pending with
  | none => s
  | some t =>
    let now := s.cg.pending.filter (fun g => g.commit == some t)
    let a := (s.modCg (fun c => { c with pending := c.pending.filter (fun g => g.commit != some t) })).modMig (fun m => { m with waits := false })
    let r : State := match now with
      | g :: rest => rest.foldl (fun (u : State) x => u.evalGroup none x) (a.evalGroup bad g)
      | [] => a
    if r.mig.waits then s.modMig (fun m => { m with held := r.mig.held }) else r

/-- COMMIT_EVALUATE: the groups whose commit point fell in the earliest cycle are evaluated in submission order as one sequence of entries; each applies as a whole
or aborts alone (R448 to R450). A read that enabling a channel or the planner makes waits for its path, and the groups with it (DEDUCED, log entry 36). bad is an entry of the first group that a block reads as uncorrectable. -/
def execCommitEvaluate (bad : Option Nat) (s : State) : Host.Outcome State Fault Refusal := .next (s.onMain (commitEvaluateEffect bad))

/-! ### The relay of fallback trajectories (R444) -/

/-- The relay has a trajectory to stage, or its commit to submit. -/
def Relay.busy (r : Relay) : Bool := !r.words.isEmpty || r.commit

/-- The next Rind group of the relay: up to 64 words of the trajectory into FBX_STAGE, at once; after the last of them FBX_TRJ_COMMIT, at the next major frame. -/
def Relay.entries (r : Relay) : List CEntry :=
  if r.words.isEmpty then [⟨1, 0, 0x300000000000 + Reg.FBX_TRJ_COMMIT, 1⟩]
  else (r.words.take 64).zipIdx.map (fun x => ⟨2, 0, 0x300000000000 + Reg.FBX_STAGE (r.place + x.2), x.1⟩)

/-- The relay's last group is still under way. -/
def State.relayWaits (s : State) : Bool := s.firm.relay.last.any (fun i => (s.cg.pending ++ s.cg.bridge).any (fun g => g.id == i))

/-- Firmware submits the relay's next group once the one before it has been applied and a slot is free (R444; one at a time: DESIGN CHOICE, log entry 44). -/
def State.relayPump (s : State) : State :=
  let r := s.firm.relay
  if !r.busy ∨ s.fw = 7 ∨ s.relayWaits then s
  else match (List.range 8).find? s.slotFree with
    | none => s
    | some k =>
      let g : CGroup := { id := s.cg.next, slot := k, gtag := 0, role := 2, point := if r.words.isEmpty then 2 else 0, target := 1, instant := 0, entries := r.entries,
                          staged := s.fclk, commit := none }
      ((s.cgStatus g 1 0 0 0).modCg (fun c => { c with pending := c.pending ++ [g], next := c.next + 1 })).modFirm (fun f => { f with
        relay := { r with words := r.words.drop 64, place := r.place + 64, commit := r.commit && !r.words.isEmpty, last := some g.id } })

def rindGroupApplyEffect (bad : Option Nat) (s : State) : State :=
  match s.cg.bridge with
  | g :: rest => ((s.modCg (fun c => { c with bridge := rest })).evalGroup bad g).relayPump
  | [] => s

/-- RIND_GROUP_APPLY: the Rind evaluates and applies the oldest Rind group in the RCLK cycle in which it has wholly arrived (R448); firmware goes on with the trajectory
that it relays (R444). -/
def execRindGroupApply (bad : Option Nat) (s : State) : Host.Outcome State Fault Refusal := .next (rindGroupApplyEffect bad s)

/-! ### Plain writes and marks (01 R27, R39, R511) -/

def registerWriteEffect (tag : Fin 4) (addr : BitVec 48) (width : Nat) (value : BitVec 64) (s : State) : State :=
  let a := addr.toNat
  let k := keyOfAddr a
  if regionOf a ≠ .regs then s
  else if !blockAssigned (keyBlk k) then s.hwSetBit Reg.MBX_ERR errUnmapped
  else if 1 < keyBlk k then s.separateWrite tag ⟨if width = 32 then 1 else if width = 64 then 2 else 0, 0, a, value.toNat⟩
  else
    let c : WCtx := ⟨tag, 0, []⟩
    match s.writeRefusal c k width value.toNat with
    | some b => s.markRefused k b
    | none =>
      if k = Reg.CG_SUBMIT then cgSubmitWriteEffect (value.setWidth 32) s
      else match (List.range 8).find? (fun i => k == Reg.CG_CANCEL i) with
        | some i => cgCancelWriteEffect (Fin.ofNat 8 i) (value.setWidth 32) s
        | none => s.applyWrite c k value.toNat

/-- REGISTER_WRITE: firmware writes a register under a role tag. A control-plane register (MBX_, CG_) is written or refused alone; any other takes the write as a
commit group of one entry (01 R27, R39; R511). -/
def execRegisterWrite (tag : Fin 4) (addr : BitVec 48) (width : Nat) (value : BitVec 64) (s : State) : Host.Outcome State Fault Refusal :=
  .next (s.onMain (registerWriteEffect tag addr width value))

def eventMarkEffect (value : BitVec 64) (gtag : BitVec 32) (s : State) : State := s.mark value.toNat gtag.toNat

/-- EVENT_MARK: the action of a group posts a KIND 5 record with its VALUE and GTAG (R445, R513). -/
def execEventMark (value : BitVec 64) (gtag : BitVec 32) (s : State) : Host.Outcome State Fault Refusal := .next (s.onMain (eventMarkEffect value gtag))

def mbxIrqWriteEffect (value : BitVec 32) (s : State) : State :=
  if bits value.toNat 4 0 ≤ 16 then s.raiseVector (bits value.toNat 4 0) else s.hwSetBit Reg.MBX_ERR errValue

/-- MBX_IRQ: MSI-X vector [4:0] is raised; there are 17, and another number is refused with VALUE (17 R427, R466; 01 R511). -/
def execMbxIrqWrite (value : BitVec 32) (s : State) : Host.Outcome State Fault Refusal := .next (s.onMain (mbxIrqWriteEffect value))

end Sys2Proof.Machine
end

