-- ==== Sys2Proof/Machine/Keys.lean ====
section
/-! DEFINITION. Certificates, signatures and the key store (17 R432, 18 R473, R475). A certificate's layout and the arithmetic of ECDSA on it are constants of
Config (log entry 46). -/

namespace Sys2Proof.Machine

/-- A certificate of an installer key or of the maker that the root key signs and whose epoch is not below the fused one (17 R432). -/
def State.rootCertOk (s : State) (c : List Byte) : Bool :=
  Config.rootSigned s.keep.rootKey c && decide (s.keep.epoch ≤ (Config.certEpoch c).toNat)

/-- The valid installer certificates of the key store. -/
def State.installers (s : State) : List (List Byte) := s.keep.keys.filter (fun c => Config.certRole c == 2 && s.rootCertOk c)

/-- An operator certificate that a provisioned installer key signs, of a valid epoch. -/
def State.operatorCertOk (s : State) (c : List Byte) : Bool :=
  decide (s.keep.epoch ≤ (Config.certEpoch c).toNat) && s.installers.any (fun i => Config.certSigned i c)

/-- The certificate is valid for its role (17 R432, R433). An operator's or installer's stands in the key store too (DEDUCED, log entry 46). -/
def State.certOk (s : State) (c : List Byte) : Bool :=
  if Config.certRole c = 1 then s.keep.keys.contains c && s.operatorCertOk c
  else if Config.certRole c = 2 then s.keep.keys.contains c && s.rootCertOk c
  else Config.certRole c == 3 && s.rootCertOk c

/-- KEY_ID id is a provisioned installer key and verifies the signature of message m. -/
def State.installerSigned (s : State) (id : Nat) (m sig : List Byte) : Bool :=
  s.installers.any (fun c => (Config.certKey c).toNat == id && Config.sigBy c (sha384 m) sig)

/-- The maker root key verifies the signature of message m (18 R473). -/
def State.makerSigned (s : State) (m sig : List Byte) : Bool := Config.rootSig s.keep.rootKey (sha384 m) sig

end Sys2Proof.Machine
end

