-- ==== Sys2Proof/Machine/Mailbox.lean ====
section
/-! DEFINITION. Mailboxes (17 R427 to R430, R435 to R439), roles and sessions (R431 to R434), and the commands that read. Arguments and results are packed in the
order Table 17.8 names them (log entry 44). A command at the head of the doorbells is served by its own row; its guard is that it stands there. -/

namespace Sys2Proof.Machine

/-! ### Mailbox bytes (Tables 17.2, 17.3) -/

def State.mailByte (s : State) (m o : Nat) : Byte := mapGet 0 s.firm.mail (4096 * m + o)
def State.mailBytes (s : State) (m o n : Nat) : List Byte := (List.range n).map (fun i => s.mailByte m (o + i))
def State.mailField (s : State) (m o n : Nat) : Nat := fromLE (s.mailBytes m o n)
def State.setMail (s : State) (m o : Nat) (l : List Byte) : State := s.modFirm (fun f => { f with mail := memStore f.mail (4096 * m + o) l })
def State.opcode (s : State) (m : Nat) : Nat := s.mailField m 0 2
def State.mailTag (s : State) (m : Nat) : Nat := s.mailField m 4 4
def State.argLen (s : State) (m : Nat) : Nat := min 4032 (s.mailField m 8 4)
/-- The arguments: ARG_LEN bytes of PAYLOAD. -/
def State.args (s : State) (m : Nat) : List Byte := s.mailBytes m 0x40 (s.argLen m)
/-- The argument of n bytes at offset o. -/
def State.arg (s : State) (m o n : Nat) : Nat := fieldLE (s.args m) o n

/-- HOST_OWN: the host owns mailbox m. -/
def State.hostOwns (s : State) (m : Nat) : Bool := bit (s.reg Reg.MBX_OWNER) m

/-! ### Sessions and rights (R431, R434, Table 17.4) -/

/-- FCLK cycles in a second. -/
def fclkPerSecond : Nat := 1000000000

def State.session (s : State) (m : Nat) : Option Session := (s.firm.sessions.find? (fun e => e.1 == m)).map (fun e => e.2)

/-- The session is past LIFETIME_S, or 600 s without a command. -/
def State.sessionOver (s : State) (x : Session) : Bool :=
  decide (x.opened + x.lifetime * fclkPerSecond ≤ s.fclk) || decide (x.last + 600 * fclkPerSecond ≤ s.fclk)

/-- Role of mailbox m's session: 0 none. -/
def State.roleOf (s : State) (m : Nat) : Nat :=
  match s.session m with
  | some x => if s.sessionOver x then 0 else x.role
  | none => 0

/-- A session is open on mailbox m (R434). -/
def State.inSession (s : State) (m : Nat) : Bool := match s.session m with | some x => !s.sessionOver x | none => false

/-- What a command asks of the role: nothing, a right to read, operator, installer, or maker rights. -/
inductive Need where
  | any | read | operator | installer | maker
deriving DecidableEq, Repr

/-- Role r holds the right in lifecycle l (R431). -/
def holds (r l : Nat) : Need → Bool
  | .any => true
  | .read => r != 0
  | .operator => r == 1 || r == 2 || (r == 3 && l == 0)
  | .installer => r == 2 || (r == 3 && l == 0)
  | .maker => r == 3

/-! ### Taking up and finishing a command (R430, R435, R436) -/

/-- Opcodes of Table 17.8. -/
def listed (op : Nat) : Bool :=
  ([1, 2, 3, 4, 5, 0x10, 0x11, 0x12, 0x100, 0x101, 0x102, 0x103, 0x104, 0x105, 0x106, 0x200, 0x201, 0x202, 0x203, 0x204, 0x205, 0x206, 0x207, 0x208, 0x209,
    0x20A, 0x300, 0x301, 0x302, 0x303] : List Nat).contains op

/-- Commands without a KIND 2 record: IDENTIFY, GET_STATE, REG_READ, EVENT_READ (R435). -/
def quiet (op : Nat) : Bool := op == 1 || op == 2 || op == 0x10 || op == 0x11

/-- Commands served in SHUTDOWN, and in HALTED (R437, R439). -/
def inShutdown (op : Nat) : Bool := quiet op
def inHalted (op : Nat) : Bool := op == 1 || op == 2 || op == 0x11

/-- Firmware takes the doorbell of mailbox m; its session, if it has not ended, has had a command (R434). -/
def State.takeBell (s : State) (m : Nat) : State :=
  ((s.setReg Reg.MBX_DB_PEND (putBit (s.reg Reg.MBX_DB_PEND) m false)).modFirm (fun f => { f with
    bells := f.bells.filter (fun x => x != m),
    sessions := f.sessions.map (fun e => if e.1 = m ∧ !s.sessionOver e.2 then (m, { e.2 with last := s.fclk }) else e) })).emit 10 0 (s.opcode m) 0

/-- A vector tells the host of mailbox m, unless FLAGS[0] holds it back. -/
def State.tellHost (s : State) (m : Nat) : State := if bit (s.mailField m 2 2) 0 then s else s.raiseVector m

/-- The command of mailbox m ends: its record, the completion fields and results, ownership back to the host, the vector. -/
def State.finishAt (s : State) (m role status detail : Nat) (res : List Byte) (stw : Nat) : State :=
  let op := s.opcode m
  let silent := quiet op
  let seq := if silent ∨ 4096 ≤ s.evr.buffer.length then 0xFFFFFFFF else s.evr.nextSeq
  let a := if silent then s else s.post 2 op role m s.frameLo stw (status + 2 ^ 32 * s.mailTag m + 2 ^ 64 * (detail % 2 ^ 64))
  let b := (a.setMail m 0xC ([0, BitVec.ofNat 8 status, BitVec.ofNat 8 (s.roleOf m), 0] ++ toLE 4 stw ++ toLE 4 res.length ++ toLE 8 detail ++ toLE 4 seq)).setMail m 0x40 res
  ((b.setRegBit Reg.MBX_OWNER m).tellHost m).emit 10 1 op status

/-- It ends with the present state word and the mailbox's own role. -/
def State.finish (s : State) (m status detail : Nat) (res : List Byte) : State := s.finishAt m (s.roleOf m) status detail res (s.reg Reg.MBX_STATE)

/-- It ends with STATE_CONFLICT over object obj of block blk (R438). -/
def State.conflict (s : State) (m blk obj : Nat) : State := s.finish m stStateConflict (blk + 65536 * (obj % 65536)) []

/-- Firmware takes the doorbells at the head whose opcode Table 17.8 does not list. -/
def State.drainOnce : Nat → State → State
  | 0, s => s
  | k + 1, s =>
    match s.firm.bells with
    | m :: _ =>
      if listed (s.opcode m) then s
      else State.drainOnce k ((s.takeBell m).finish m (if s.fw = 7 then stInternal else stBadArg) 0 [])
    | [] => s

/-- The boot ROM that waits for a host image ends every opcode but IDENTIFY and BOOT_PUSH of mailbox 0 with STATE_CONFLICT (18 R474). -/
def State.romDrain (s : State) : State :=
  if s.start.hostWait ∧ s.firm.bells.contains 0 ∧ s.opcode 0 ≠ 1 ∧ s.opcode 0 ≠ 0x0310 then (s.takeBell 0).finish 0 stStateConflict 0 [] else s

/-- Commands that no row of the table is for. -/
def State.drain (s : State) : State := if s.start.running then State.drainOnce 16 s else s.romDrain

/-- The command of mailbox m is the next that firmware takes up, with opcode op. -/
def State.atHead (s : State) (m op : Nat) : Bool := s.start.running && s.firm.bells.head? == some m && s.opcode m == op

/-- FW is one of l. -/
def State.fwIn (s : State) (l : List Nat) : Bool := l.contains s.fw

/-- IDLE, RUNNING or STOPPED. -/
def State.isOpen (s : State) : Bool := s.fwIn [2, 3, 4]

/-- Firmware serves the command of mailbox m at the head: HALTED, role, state, and then what the command does (R437 to R439). -/
def State.serve (s : State) (m op : Nat) (need : State → Need) (ok : State → Bool) (act : State → State) : State :=
  if !s.atHead m op then s
  else
    let t := s.takeBell m
    let u :=
      if t.fw = 7 ∧ !inHalted op then t.finish m stInternal 0 []
      else if !holds (t.roleOf m) t.keep.lifecycle (need t) then t.finish m stRoleDenied 0 []
      else if (t.fw = 6 ∧ !inShutdown op) ∨ !ok t then t.finish m stStateConflict 0 []
      else act t
    u.drain

/-- An asynchronous command is accepted: STATUS ACCEPTED, ownership kept, the vector raised, which FLAGS[0] does not hold back: it is no completion (R430, Table 17.3). -/
def State.accept (s : State) (m : Nat) (args : List Nat) (data : List Byte) (group : Option Nat) : State :=
  let j : FwJob := { mbox := m, op := s.opcode m, tag := s.mailTag m, role := s.roleOf m, stage := 0, args := args, data := data, group := group, ends := none }
  ((s.modFirm (fun f => { f with jobs := f.jobs ++ [j] })).setMail m 0xD [BitVec.ofNat 8 stAccepted]).raiseVector m

/-- The resources a command holds while it runs (R430): 0 frame-table loader, 1 migration queue, 2 image store, 3 firmware store, 256 + image slot its batch
lists. IMAGE_LOAD keeps the page CRC table in the load area and so holds the loader too (log entry 44). -/
def resources (op slot : Nat) : List Nat :=
  if op = 0x202 then [0]
  else if op = 0x102 then [0, 1, 2]
  else if op = 0x103 ∨ op = 0x204 then [1]
  else if op = 0x205 ∨ op = 0x206 then [2]
  else if op = 0x300 then [3]
  else if op = 0x105 then [256 + slot]
  else []

/-- A resource that the command needs is held. -/
def State.busy (s : State) (op slot : Nat) : Bool :=
  s.firm.jobs.any (fun j => (resources j.op (j.args.getD 0 0)).any (fun r => (resources op slot).contains r))

/-! ### The host (R429, R430) -/

def hostDoorbellEffect (m : Fin 16) (s : State) : State :=
  if s.hostOwns m.val then
    (((({ s with firm := { s.firm with bells := s.firm.bells ++ [m.val] } }).hwSetBit Reg.MBX_DB_PEND m.val).setReg Reg.MBX_OWNER
      (putBit (s.reg Reg.MBX_OWNER) m.val false)).setMail m.val 0xC [1]).drain
  else (s.modFirm (fun f => { f with hostErr := f.hostErr ||| 2 ^ m.val })).noteSet hostErrKey (2 ^ m.val)

/-- HOST_DOORBELL: mailbox m changes to firmware, which takes commands in the order of their doorbells; a mailbox that firmware owns sets HOST_ERR (R429, R430). -/
def execHostDoorbell (m : Fin 16) (s : State) : Host.Outcome State Fault Refusal := .next (s.onMain (hostDoorbellEffect m))

/-- One byte written to BAR0. -/
def State.hostByte (s : State) (o : Nat) (b : Byte) : State :=
  let m := o / 4096
  let p := o % 4096
  if o < 0x10000 ∧ s.hostOwns m ∧ (p < 0xC ∨ 0x40 ≤ p) then s.setMail m p [b]
  else if 0x10044 ≤ o ∧ o < 0x10048 then
    { s with hostEvent := s.cleared hostEventKey s.hostEvent (b.toNat * 2 ^ (8 * (o - 0x10044))) }
  else if 0x1004C ≤ o ∧ o < 0x10050 then
    s.modFirm (fun f => { f with hostErr := s.cleared hostErrKey f.hostErr (b.toNat * 2 ^ (8 * (o - 0x1004C))) })
  else s

/-- The bytes from o on. -/
def State.hostWrite (s : State) : Nat → List Byte → State
  | _, [] => s
  | o, b :: l => State.hostWrite (s.hostByte o b) (o + 1) l

def hostMailboxWriteEffect (off : BitVec 17) (data : List Byte) (s : State) : State := s.hostWrite off.toNat data

/-- HOST_MAILBOX_WRITE: bytes of BAR0. Mailbox bytes 0x000 to 0x00B and PAYLOAD are stored while the host owns the mailbox; HOST_EVENT and HOST_ERR are
W1C; every other byte is ignored (R428, R429). -/
def execHostMailboxWrite (off : BitVec 17) (data : List Byte) (s : State) : Host.Outcome State Fault Refusal := .next (s.onMain (hostMailboxWriteEffect off data))

/-! ### IDENTIFY, GET_STATE -/

/-- ASCII of the part number (Table 0.1). -/
def partNumber : List Byte :=
  ([0x4C, 0x4D, 0x58, 0x2D, 0x49, 0x53, 0x44, 0x37, 0x32, 0x34, 0x30, 0x2D] : List Byte) ++
    (if Config.automotive then [0x41, 0x51] else [0x49, 0x4E]) ++ [0, 0]

/-- The fused serial. -/
def serialBytes : List Byte := (List.range 16).map Config.serial

/-- GiB of Reservoir after training; 0 untrained. -/
def State.resGib (s : State) : Nat := if bit (s.reg Reg.MIG_STATUS) 2 then s.reg Reg.MIG_RES_FRAMES / 512 else 0

/-- The identity record (Table 17.9). -/
def State.identity (s : State) : List Byte :=
  partNumber ++ serialBytes ++ [BitVec.ofNat 8 (b2n (!Config.automotive)), BitVec.ofNat 8 s.keep.lifecycle] ++ toLE 2 s.firm.ver ++ toLE 4 s.firm.build ++
    (List.range 8).map (fun v => BitVec.ofNat 8 (maxm v)) ++ toLE 4 (s.evr.optime / 3600) ++ toLE 4 (s.evr.pcyc % 2 ^ 24) ++ toLE 1 s.resGib ++
    toLE 1 s.keep.epoch ++ List.replicate 70 0

def identifyEffect (m : Fin 16) (s : State) : State :=
  if !s.start.running then
    (if m.val = 0 ∧ s.firm.bells.contains 0 ∧ s.opcode 0 = 1 then ((s.takeBell 0).finish 0 stDone 0 s.identity) else s)
  else s.serve m.val 1 (fun _ => .any) (fun _ => true) (fun t => t.finish m.val stDone 0 t.identity)

/-- IDENTIFY: the identity record. The boot ROM serves it on mailbox 0, with FW_VER and FW_BUILD 0 (Table 17.9; 18 R474). -/
def execIdentify (m : Fin 16) (s : State) : Host.Outcome State Fault Refusal := .next (s.onMain (identifyEffect m))

def getStateEffect (m : Fin 16) (s : State) : State :=
  s.serve m.val 2 (fun _ => .any) (fun _ => true) (fun t =>
    t.finish m.val stDone 0 (toLE 4 (t.reg Reg.SAF_DOUBT) ++ toLE 4 (t.reg Reg.RIND_DOUBT) ++ toLE 4 (t.reg Reg.FRT_ACTIVE_ID) ++ toLE 4 (t.reg Reg.FRT_ACTIVE_VER)))

/-- GET_STATE: the doubt registers and the identity of the active table (Table 17.8). -/
def execGetState (m : Fin 16) (s : State) : Host.Outcome State Fault Refusal := .next (s.onMain (getStateEffect m))

/-! ### Sessions (R433 to R435) -/

/-- A KIND 3 record: event, role, KEY_ID (Table 17.20). -/
def State.sessionRecord (s : State) (op m ev role key : Nat) : State :=
  s.post 3 op role m s.frameLo (s.reg Reg.MBX_STATE) (ev + 2 ^ 8 * role + 2 ^ 16 * (key % 65536))

/-- The session of mailbox m ends with an event of Table 17.20. -/
def State.endSession (s : State) (op ev m : Nat) : State :=
  match s.session m with
  | some x => (s.modFirm (fun f => { f with sessions := f.sessions.filter (fun e => e.1 != m) })).sessionRecord op m ev x.role x.keyId
  | none => s

/-- A session of mailbox m that is over ends, where no SESSION_EXPIRY has come yet. -/
def State.lapse (s : State) (m : Nat) : State := if s.inSession m then s else s.endSession 0 4 m

/-- Mailbox m refuses challenges for now. -/
def State.lockedOut (s : State) (m : Nat) : Bool := s.firm.lockout.any (fun e => e.1 == m && decide (s.fclk < e.2))

def sessionChallengeEffect (m : Fin 16) (nonce : BitVec 256) (s : State) : State :=
  s.serve m.val 3 (fun _ => .any) (fun t => !t.inSession m.val) (fun x =>
    let t := x.lapse m.val
    if t.lockedOut m.val then (t.sessionRecord 3 m.val 3 0 0xFFFF).finish m.val stRoleDenied 0 []
    else
      let n := toLE 32 nonce.toNat
      (t.modFirm (fun f => { f with nonces := f.nonces.filter (fun e => e.1 != m.val) ++ [(m.val, t.fclk, n)] })).finish m.val stDone 0 n)

/-- SESSION_CHALLENGE: a nonce bound to the mailbox, from firmware's random source (R433). -/
def execSessionChallenge (m : Fin 16) (nonce : BitVec 256) (s : State) : Host.Outcome State Fault Refusal := .next (s.onMain (sessionChallengeEffect m nonce))

/-- The token is as Table 17.5 has it, and a certificate follows. -/
def tokenOk (t : List Byte) : Bool :=
  decide (192 < t.length) && fieldLE t 0 4 == 0x544F4B31 && decide (1 ≤ fieldLE t 4 1) && decide (fieldLE t 4 1 ≤ 3) && fieldLE t 5 1 == 0 &&
    decide (1 ≤ fieldLE t 0x38 4) && decide (fieldLE t 0x38 4 ≤ 86400) && fieldLE t 0x3C 36 == 0

/-- Every condition of R433, item 3. -/
def State.tokenHolds (s : State) (m : Nat) (t : List Byte) : Bool :=
  let c := t.drop 192
  Config.certRole c == fieldLE t 4 1 && (Config.certKey c).toNat == fieldLE t 6 2 && ((t.drop 8).take 16) == serialBytes &&
    s.firm.nonces.any (fun e => e.1 == m && decide (s.fclk < e.2.1 + 60 * fclkPerSecond) && e.2.2 == (t.drop 0x18).take 32) &&
    s.certOk c && Config.sigBy c (sha384 (t.take 0x60)) ((t.drop 0x60).take 96)

/-- Consecutive failures of mailbox m; the eighth locks it out for 10 s. -/
def State.sessionFails (s : State) (m : Nat) : State :=
  let n := mapGet 0 s.firm.fails m + 1
  if 8 ≤ n then
    s.modFirm (fun f => { f with fails := mapSet 0 f.fails m 0, lockout := f.lockout.filter (fun e => e.1 != m) ++ [(m, s.fclk + 10 * fclkPerSecond)] })
  else s.modFirm (fun f => { f with fails := mapSet 0 f.fails m n })

def sessionOpenEffect (m : Fin 16) (s : State) : State :=
  s.serve m.val 4 (fun _ => .any) (fun _ => true) (fun x =>
    let t := x.lapse m.val
    let a := t.args m.val
    let role := fieldLE a 4 1
    let key := fieldLE a 6 2
    if !tokenOk a then t.finish m.val stBadArg 0 []
    else
      let u := t.modFirm (fun f => { f with nonces := f.nonces.filter (fun e => e.1 != m.val) })
      if (t.session m.val).isSome ∨ !t.tokenHolds m.val a then
        (((u.sessionFails m.val).sessionRecord 4 m.val 3 role key).finish m.val stRoleDenied 0 [])
      else
        let x : Session := ⟨role, key, a.drop 192, fieldLE a 0x38 4, t.fclk, t.fclk⟩
        let v := u.modFirm (fun f => { f with sessions := f.sessions ++ [(m.val, x)], fails := mapSet 0 f.fails m.val 0 })
        (v.sessionRecord 4 m.val 1 role key).finish m.val stDone 0 (toLE 4 role))

/-- SESSION_OPEN: the token and its certificate open a session, or the attempt counts as a failure (R433). -/
def execSessionOpen (m : Fin 16) (s : State) : Host.Outcome State Fault Refusal := .next (s.onMain (sessionOpenEffect m))

def sessionCloseEffect (m : Fin 16) (s : State) : State :=
  s.serve m.val 5 (fun _ => .any) (fun _ => true) (fun t =>
    let u := t.endSession 5 2 m.val
    u.finishAt m.val (t.roleOf m.val) stDone 0 [] (u.reg Reg.MBX_STATE))

/-- SESSION_CLOSE (R434). -/
def execSessionClose (m : Fin 16) (s : State) : Host.Outcome State Fault Refusal := .next (s.onMain (sessionCloseEffect m))

def sessionExpiryEffect (m : Fin 16) (s : State) : State :=
  match s.session m.val with
  | some x => if s.sessionOver x then s.endSession 0 4 m.val else s
  | none => s

/-- SESSION_EXPIRY: LIFETIME_S after its opening, or after 600 s without a command, the session ends (R434). -/
def execSessionExpiry (m : Fin 16) (s : State) : Host.Outcome State Fault Refusal := .next (s.onMain (sessionExpiryEffect m))

def sessionLockoutEndEffect (m : Fin 16) (s : State) : State :=
  if s.lockedOut m.val then s else s.modFirm (fun f => { f with lockout := f.lockout.filter (fun e => e.1 != m.val) })

/-- SESSION_LOCKOUT_END: 10 s after the eighth failure the mailbox takes challenges again (R433). -/
def execSessionLockoutEnd (m : Fin 16) (s : State) : Host.Outcome State Fault Refusal := .next (s.onMain (sessionLockoutEndEffect m))

/-- Sessions whose certificate is no longer valid end (R434). -/
def State.endInvalid (s : State) : State :=
  (s.firm.sessions.filter (fun e => !s.certOk e.2.cert)).foldl (fun t e => t.endSession 0 5 e.1) s

/-! ### Reads (R39, R383, R456) -/

/-- A register as the management processor or the observation port reads it: its value, and the state after the side effect, journaled. A full journal drains an
entry while the reader waits (15 R383). -/
def State.coreRead (s : State) (k : Nat) : State × Nat :=
  let t := if s.journalRoom k then s else match journalOf k with
    | some j => { s with diag := { s.diag with journals := mapSet [] s.diag.journals j ((mapGet [] s.diag.journals j).drop 1) } }
    | none => s
  ((t.journalRead k).readEffect k, s.readReg k)

/-- The management processor reads register space at address a: an unassigned block reads 0 and sets UNMAPPED in MBX_ERR, an offset with no register reads 0 and marks
its block (01 R39). -/
def State.mgmtRead (s : State) (a : Nat) : State × Nat :=
  let k := keyOfAddr a
  if !blockAssigned (keyBlk k) then (s.hwSetBit Reg.MBX_ERR errUnmapped, 0)
  else if (rowAt k).isNone then (s.hwSetBit (errKey (keyBlk k)) (offRow k), 0)
  else s.coreRead k

/-- Registers read one after another. -/
def State.mgmtReads (s : State) : List Nat → State × List Nat
  | [] => (s, [])
  | a :: l =>
    let r := s.mgmtRead a
    let q := State.mgmtReads r.1 l
    (q.1, r.2 :: q.2)

def regReadEffect (m : Fin 16) (s : State) : State :=
  s.serve m.val 0x10 (fun _ => .read) (fun _ => true) (fun t =>
    let n := t.argLen m.val / 8
    let l := (List.range n).map (fun i => t.arg m.val (8 * i) 8)
    if n = 0 ∨ 500 < n ∨ t.argLen m.val % 8 ≠ 0 ∨ !l.all (fun a => regionOf a == .regs) then t.finish m.val stBadArg 0 []
    else
      let r := t.mgmtReads l
      r.1.finish m.val stDone 0 (r.2.map (toLE 8)).flatten)

/-- REG_READ: 1 to 500 registers in the order of their addresses, with the side effects of their reads (R439; 01 R39). -/
def execRegRead (m : Fin 16) (s : State) : Host.Outcome State Fault Refusal := .next (s.onMain (regReadEffect m))

/-- Up to n records through window F: a record that is not posted ends the reading. -/
def State.readEvents : Nat → State → State × List (List Byte)
  | 0, s => (s, [])
  | n + 1, s =>
    let c := (s.cursorAt s.evr.curF).1
    let t := (s.coreRead (Reg.EVR_WIN_F 7)).1
    if !s.posted c then (t, [])
    else
      let q := State.readEvents n t
      (q.1, ((List.range 8).map (fun w => toLE 8 (s.windowWord s.evr.curF w))).flatten :: q.2)

def eventReadEffect (m : Fin 16) (s : State) : State :=
  s.serve m.val 0x11 (fun _ => .read) (fun _ => true) (fun t =>
    let n := t.arg m.val 4 4
    if n = 0 ∨ 62 < n then t.finish m.val stBadArg 0 []
    else
      let r := State.readEvents n { t with evr := { t.evr with curF := t.arg m.val 0 4 } }
      let o := r.1.coreRead Reg.EVR_OVW_CNT
      o.1.finish m.val stDone 0 (toLE 4 r.2.length ++ toLE 4 t.evr.oldestSeq ++ toLE 4 (t.evr.nextSeq + 0xFFFFFFFF) ++ toLE 4 o.2 ++ r.2.flatten))

/-- EVENT_READ: up to 62 records from a SEQ on, through window F, after their number, the oldest and newest SEQ and EVR_OVW_CNT (Table 17.8, R456). -/
def execEventRead (m : Fin 16) (s : State) : Host.Outcome State Fault Refusal := .next (s.onMain (eventReadEffect m))

def snapshotEffect (m : Fin 16) (s : State) : State :=
  s.serve m.val 0x12 (fun _ => .read) (fun t => t.fwIn [1, 2, 3, 4]) (fun t =>
    if !bit (t.reg Reg.SNP_CTRL) 0 then t.conflict m.val 0x11 0
    else
      let u := t.snapshotFire 8
      u.finish m.val stDone 0 (toLE 4 (u.reg Reg.SNP_SEQ)))

/-- SNAPSHOT: the global trigger, refused while it is not armed (Table 17.8, R460). -/
def execSnapshot (m : Fin 16) (s : State) : Host.Outcome State Fault Refusal := .next (s.onMain (snapshotEffect m))

end Sys2Proof.Machine
end

