-- ==== Sys2Proof/Machine/Commands.lean ====
section
/-! DEFINITION. Commands on groups, workloads, keys and the authority (17 Table 17.8; R432, R443 to R447; 18 R489, R490). -/

namespace Sys2Proof.Machine

/-! ### Groups in the format of Table 17.11 -/

/-- Bytes of the group at the head of l. -/
def groupLen (l : List Byte) : Nat := 32 + 24 * fieldLE l 0 1

/-- Entry i of a group. -/
def groupEntry (l : List Byte) (i : Nat) : CEntry :=
  let o := 0x20 + 24 * i
  ⟨fieldLE l o 1, fieldLE l (o + 1) 1, fieldLE l (o + 2) 6, fieldLE l (o + 8) 8⟩

def groupEntries (l : List Byte) : List CEntry := (List.range (fieldLE l 0 1)).map (groupEntry l)

/-- The group's own fields hold, and it is there whole. -/
def groupShape (l : List Byte) : Bool :=
  decide (1 ≤ fieldLE l 0 1) && decide (fieldLE l 0 1 ≤ 64) && decide (groupLen l ≤ l.length) && decide (fieldLE l 1 1 ≤ 3) && decide (fieldLE l 2 1 ≤ 1) &&
    fieldLE l 3 1 == 0 && fieldLE l 0x10 16 == 0

/-- The entry is of the die that TARGET names (R445); EVENT_MARK goes with either (DEDUCED, log entry 44). -/
def entryTargets (e : CEntry) (target : Nat) : Bool :=
  if e.kind = 3 then e.action == 4 || target == 0 else decide (0x40 ≤ keyBlk e.key) == (target == 1)

/-- Entry i breaks Table 17.11, the width of its register, or its block is not in Table 1.12 (R446). -/
def entryBadArg (l : List Byte) (i : Nat) : Bool :=
  let e := groupEntry l i
  fieldLE l (0x30 + 24 * i) 8 != 0 ||
    (if e.kind = 3 then decide (e.action < 1) || decide (4 < e.action)
     else if e.kind = 1 ∨ e.kind = 2 then
       regionOf e.addr != .regs || !aligned e.addr (e.width / 8) || !blockAssigned (keyBlk e.key) ||
         (match rowAt e.key with | some r => r.width != e.width | none => true)
     else true) || !entryTargets e (fieldLE l 2 1)

/-- The role may not write the entry's register: its chapter's role, and in CG_ none but the management processor (R446, R451). -/
def State.entryRoleBad (s : State) (tag : Nat) (e : CEntry) : Bool := e.kind != 3 && (keyBlk e.key == 1 || !s.roleMay tag e.key)

/-- The first entry that fails the checks of R446, with the status. -/
def State.submitCheck (s : State) (l : List Byte) (tag : Nat) : Option (Nat × Nat) :=
  (List.range (fieldLE l 0 1)).findSome? (fun i =>
    if entryBadArg l i then some (stBadArg, i) else if s.entryRoleBad tag (groupEntry l i) then some (stRoleDenied, i) else none)

/-- The commit point of the group is not to be had (R447). -/
def State.pointBad (s : State) (l : List Byte) : Bool :=
  let p := fieldLE l 1 1
  let sw := switches (groupEntries l) && fieldLE l 2 1 == 0
  (fieldLE l 2 1 == 1 && p != 0 && p != 2) || ((p == 1 || (p == 2 && !sw)) && !s.tableValid) || (p == 3 && s.reached (toInt 64 (fieldLE l 8 8)))

/-- The group's bytes in the staging registers, under a role tag. -/
def State.stageGroup (s : State) (l : List Byte) (tag : Nat) : State :=
  let a := ((s.setReg Reg.CG_STAGE_HDR (fieldLE l 0 8)).setReg Reg.CG_STAGE_T (fieldLE l 8 8)).setReg Reg.CG_STAGE_ROLE tag
  (List.range (fieldLE l 0 1)).foldl (fun t i =>
    (List.range 3).foldl (fun u j => u.setReg (Reg.CG_STAGE_E i j) (fieldLE l (0x20 + 24 * i + 8 * j) 8)) t) a

/-- A group submitted: the status and DETAIL with which it fails, or the staged state with the model's number of the group and its slot. -/
def State.submit (s : State) (l : List Byte) (tag : Nat) : (Nat × Nat) ⊕ (State × Nat × Nat) :=
  if !groupShape l then .inl (stBadArg, 0)
  else match s.submitCheck l tag with
    | some x => .inl x
    | none =>
      if s.pointBad l then .inl (stBadArg, 0)
      else match (List.range 8).find? s.slotFree with
        | none => .inl (stNoSpace, 0)
        | some k => .inr (cgSubmitWriteEffect 1 (s.stageGroup l tag), s.cg.next, k)

/-- A group submitted for the command of mailbox m, which then waits for it. -/
def State.submitFor (s : State) (m : Nat) (l : List Byte) (tag : Nat) (args : List Nat) : State :=
  match s.submit l tag with
  | .inl x => s.finish m x.1 x.2 []
  | .inr (t, id, k) => t.accept m (args ++ [k]) [] (some id)

def cgSubmitEffect (m : Fin 16) (s : State) : State :=
  s.serve m.val 0x200 (fun _ => .installer) State.isOpen (fun t => t.submitFor m.val (t.args m.val) (t.roleOf m.val) [])

/-- CG_SUBMIT: the group is checked (R445 to R447), staged in a free slot, and the command waits for its end; the result is the slot. -/
def execCgSubmit (m : Fin 16) (s : State) : Host.Outcome State Fault Refusal := .next (s.onMain (cgSubmitEffect m))

def cgCancelEffect (m : Fin 16) (s : State) : State :=
  s.serve m.val 0x201 (fun _ => .installer) State.isOpen (fun t =>
    match t.cg.pending.find? (fun g => g.gtag == t.arg m.val 0 4 && g.commit == none) with
    | some g => (t.cancelGroup g).finish m.val stDone 0 []
    | none => t.conflict m.val 1 0)

/-- CG_CANCEL: withdraws the pending group of a GTAG (R449). -/
def execCgCancel (m : Fin 16) (s : State) : Host.Outcome State Fault Refusal := .next (s.onMain (cgCancelEffect m))

/-! ### Workloads (R443) -/

def State.workload (s : State) (w : Nat) : Option Work := (s.firm.works.find? (fun e => e.1 == w)).map (fun e => e.2)

def workloadDefineEffect (m : Fin 16) (s : State) : State :=
  s.serve m.val 0x203 (fun _ => .installer) State.isOpen (fun t =>
    let a := t.args m.val
    let w := fieldLE a 0 4
    let g := a.drop 4
    let h := g.drop (groupLen g)
    if 63 < w then t.finish m.val stBadArg 0 []
    else if (match t.workload w with | some x => x.started | none => false) then t.conflict m.val 0 w
    else if !groupShape g ∨ !groupShape h then t.finish m.val stBadArg 0 []
    else
      let x : Work := ⟨g.take (groupLen g), h.take (groupLen h), t.roleOf m.val, false⟩
      (t.modFirm (fun f => { f with works := f.works.filter (fun e => e.1 != w) ++ [(w, x)] })).finish m.val stDone 0 [])

/-- WORKLOAD_DEFINE: a workload number, its start group and its stop group (R443). -/
def execWorkloadDefine (m : Fin 16) (s : State) : Host.Outcome State Fault Refusal := .next (s.onMain (workloadDefineEffect m))

/-- The start or stop group of the workload that the command names. -/
def State.runWorkload (s : State) (m : Nat) (start : Bool) : State :=
  let w := s.arg m 0 4
  match (if 63 < w then none else s.workload w) with
  | some x => s.submitFor m (if start then x.start else x.stop) x.role [w]
  | none => s.finish m stBadArg 0 []

def workloadStartEffect (m : Fin 16) (s : State) : State :=
  s.serve m.val 0x100 (fun _ => .operator) (fun t => t.fwIn [3]) (fun t => t.runWorkload m.val true)

/-- WORKLOAD_START: submits the start group under its definer's role (R443). -/
def execWorkloadStart (m : Fin 16) (s : State) : Host.Outcome State Fault Refusal := .next (s.onMain (workloadStartEffect m))

def workloadStopEffect (m : Fin 16) (s : State) : State :=
  s.serve m.val 0x101 (fun _ => .operator) (fun t => t.fwIn [3, 4]) (fun t => t.runWorkload m.val false)

/-- WORKLOAD_STOP (R443). -/
def execWorkloadStop (m : Fin 16) (s : State) : Host.Outcome State Fault Refusal := .next (s.onMain (workloadStopEffect m))

/-! ### Handback and the relay (15 R404, 17 R444) -/

/-- Firmware's own write of a register, as an implicit group with the installer's tag (01 R27). -/
def State.ownWrite (s : State) (k w v : Nat) : State := s.implicitGroup 2 ⟨if w = 32 then 1 else 2, 0, 0x300000000000 + k, v⟩

def handbackEffect (m : Fin 16) (s : State) : State :=
  s.serve m.val 0x106 (fun _ => .operator) State.isOpen (fun t =>
    if t.auth ≠ .fallback then t.conflict m.val 0x40 0
    else if t.safe then t.conflict m.val 0x41 0
    else
      let a := t.ownWrite Reg.FBX_HB_REQ 32 1
      (a.ownWrite Reg.SAF_DOUBT 32 (a.reg Reg.SAF_DOUBT)).accept m.val [] [] none)

/-- HANDBACK: firmware writes FBX_HB_REQ and clears the HD doubt bits; it goes on as trajectories are accepted (15 R404). -/
def execHandback (m : Fin 16) (s : State) : Host.Outcome State Fault Refusal := .next (s.onMain (handbackEffect m))

/-- 16 KiB of hub SRAM at a. -/
def hubBuffer (a : Nat) : Bool := extentRegion a 0x4000 == .hub

/-- An 8-byte aligned sync cell. -/
def cellAligned (a : Nat) : Bool := aligned a 8 && (match regionOf a with | .cell _ _ => true | _ => false)

def fbRelayEffect (m : Fin 16) (s : State) : State :=
  s.serve m.val 0x207 (fun _ => .installer) State.isOpen (fun t =>
    let b0 := t.arg m.val 0 8
    let b1 := t.arg m.val 8 8
    let c := t.arg m.val 16 8
    let en := t.arg m.val 24 4
    if t.auth ≠ .main then t.conflict m.val 0x40 0
    else if 1 < en ∨ !hubBuffer b0 ∨ !hubBuffer b1 ∨ !cellAligned c then t.finish m.val stBadArg 0 []
    else
      (t.modFirm (fun f => { f with relay := { f.relay with en := en == 1, buf0 := b0, buf1 := b1, ready := c, seen := t.cellAt c } })).finish m.val stDone 0 [])

/-- FB_RELAY: two hub SRAM buffers, the ready cell, and whether the relay runs (R444). -/
def execFbRelay (m : Fin 16) (s : State) : Host.Outcome State Fault Refusal := .next (s.onMain (fbRelayEffect m))

/-! ### Keys and lifecycle (R432, R489, R490) -/

/-- Operator keys are the installer's, installer keys the maker's (Table 17.8). -/
def keyNeed (installerKey : Bool) : Need := if installerKey then .maker else .installer

/-- Certificates of role r in the store. -/
def State.keyCount (s : State) (r : Nat) : Nat := (s.keep.keys.filter (fun c => Config.certRole c == r)).length

def State.modKeep (s : State) (f : Keep → Keep) : State := { s with keep := f s.keep }

def keyAddEffect (m : Fin 16) (s : State) : State :=
  s.serve m.val 0x208 (fun t => keyNeed (Config.certRole (t.args m.val) == 2)) (fun t => t.fwIn [2, 4]) (fun t =>
    let c := t.args m.val
    let r := Config.certRole c
    if !((r == 1 && t.operatorCertOk c) || (r == 2 && t.rootCertOk c)) then t.finish m.val stBadArg 0 []
    else if t.keep.keys.contains c then t.finish m.val stDone 0 (toLE 4 (Config.certKey c).toNat)
    else if (if r = 1 then 16 else 8) ≤ t.keyCount r then t.finish m.val stNoSpace 0 []
    else (t.modKeep (fun k => { k with keys := k.keys ++ [c] })).finish m.val stDone 0 (toLE 4 (Config.certKey c).toNat))

/-- KEY_ADD: a valid operator or installer certificate enters the store, of 16 and 8 (R432). -/
def execKeyAdd (m : Fin 16) (s : State) : Host.Outcome State Fault Refusal := .next (s.onMain (keyAddEffect m))

/-- The certificate has KEY_ID id. -/
def hasId (id : Nat) (c : List Byte) : Bool := (Config.certKey c).toNat == id

def keyRemoveEffect (m : Fin 16) (s : State) : State :=
  s.serve m.val 0x209 (fun t => keyNeed (t.keep.keys.any (fun c => hasId (t.arg m.val 0 4) c && Config.certRole c == 2))) (fun t => t.fwIn [2, 4]) (fun t =>
    let id := t.arg m.val 0 4
    if !t.keep.keys.any (hasId id) then t.finish m.val stBadArg 0 []
    else
      let u := (t.modKeep (fun k => { k with keys := k.keys.filter (fun c => !hasId id c) })).endInvalid
      u.finishAt m.val (t.roleOf m.val) stDone 0 [] (u.reg Reg.MBX_STATE))

/-- KEY_REMOVE: the certificate leaves the store, and sessions whose key it takes away end (R432, R434). -/
def execKeyRemove (m : Fin 16) (s : State) : Host.Outcome State Fault Refusal := .next (s.onMain (keyRemoveEffect m))

/-! ### The start-up configuration (18 R475, Table 18.5a) -/

/-- A region of SPI NOR by its offset. -/
def State.nor (s : State) (o : Nat) : List Byte := match s.keep.nor.find? (fun e => e.1 == o) with | some e => e.2 | none => []
def norConfig : Nat := 0x1110000
def norTable : Nat := 0x1120000

/-- The configuration in SPI NOR; none where it is missing. -/
def State.startConfig (s : State) : Option (List Byte) :=
  let l := s.nor norConfig
  if fieldLE l 0 4 = 0x53554331 then some l else none

/-- The start-up frame table: FT_LEN bytes. -/
def State.startTable (s : State) (c : List Byte) : List Byte := (s.nor norTable).take (fieldLE c 0x10 4)

/-- n groups one after another; none where one is not whole. -/
def splitGroups : Nat → List Byte → Option (List (List Byte) × List Byte)
  | 0, l => some ([], l)
  | n + 1, l =>
    if l.length < 32 ∨ l.length < groupLen l then none
    else match splitGroups n (l.drop (groupLen l)) with
      | some (gs, r) => some (l.take (groupLen l) :: gs, r)
      | none => none

/-- The groups of the four phases PRE, POST, RIND, RUN. -/
def configPhases (c : List Byte) : Option (List (List (List Byte))) :=
  let body := (c.take (fieldLE c 4 4 - 96)).drop 0x80
  match splitGroups (fieldLE c 0x14 1) body with
  | none => none
  | some (p, r1) => match splitGroups (fieldLE c 0x15 1) r1 with
    | none => none
    | some (q, r2) => match splitGroups (fieldLE c 0x16 1) r2 with
      | none => none
      | some (x, r3) => match splitGroups (fieldLE c 0x17 1) r3 with
        | none => none
        | some (y, _) => some [p, q, x, y]

/-- The configuration verifies: layout, signature, and FT_DIGEST where there is a table (R475). -/
def State.configOk (s : State) (c : List Byte) : Bool :=
  let n := fieldLE c 4 4
  decide (256 ≤ n) && decide (n ≤ 65536) && decide (n ≤ c.length) && fieldLE c 0xA 2 == 0 && fieldLE c 0x18 8 == 0 && fieldLE c 0x50 48 == 0 &&
    decide (fieldLE c 0x10 4 ≤ 0x400000) && (List.range 4).all (fun i => decide (fieldLE c (0x14 + i) 1 ≤ 16)) && (configPhases c).isSome &&
    s.installerSigned (fieldLE c 8 2) (c.take (n - 96)) ((c.drop (n - 96)).take 96) &&
    (fieldLE c 0x10 4 == 0 || (decide ((s.startTable c).length = fieldLE c 0x10 4) && sha384 (s.startTable c) == (c.drop 0x20).take 48))

def lifecycleAdvanceEffect (m : Fin 16) (s : State) : State :=
  s.serve m.val 0x303 (fun _ => .maker) (fun t => t.fwIn [2]) (fun t =>
    let x := t.arg m.val 0 4
    let ready := if x = 1 then t.keep.rootKey != [] && !t.installers.isEmpty
      else match t.startConfig with | some c => t.configOk c | none => false
    if x ≠ t.keep.lifecycle + 1 ∨ 2 < x ∨ !ready then t.finish m.val stStateConflict 0 []
    else
      let u := (t.modKeep (fun k => { k with lifecycle := x })).setRegBits Reg.MBX_STATE 17 16 x
      u.finish m.val stDone 0 [])

/-- LIFECYCLE_ADVANCE: one step, to PROVISIONED with a root key digest and a valid installer certificate, to FIELD with a start-up configuration that verifies
(18 R489, R490). -/
def execLifecycleAdvance (m : Fin 16) (s : State) : Host.Outcome State Fault Refusal := .next (s.onMain (lifecycleAdvanceEffect m))

/-! ### Firmware slots (18 R472) -/

/-- Slot that BOOT_HDR names; slot 0 where its CRC is wrong (DESIGN CHOICE, log entry 45). -/
def State.activeSlot (s : State) : Nat :=
  let h := s.nor 0
  if 8 ≤ h.length ∧ crc32c (h.take 4) = fieldLE h 4 4 then fieldLE h 0 1 % 2 else 0

def slotOffset (k : Nat) : Nat := if k = 0 then 0x100000 else 0x900000

def State.setNor (s : State) (o : Nat) (l : List Byte) : State :=
  s.modKeep (fun k => { k with nor := k.nor.filter (fun e => e.1 != o) ++ [(o, l)] })

/-- BOOT_HDR that names slot k. -/
def bootHdr (k : Nat) : List Byte := let h : List Byte := toLE 4 k; h ++ toLE 4 (crc32c h)

def fwActivateEffect (m : Fin 16) (s : State) : State :=
  s.serve m.val 0x301 (fun _ => .maker) (fun t => t.fwIn [2, 4] && t.keep.staged) (fun t =>
    ((t.setNor 0 (bootHdr (1 - t.activeSlot))).modKeep (fun k => { k with staged := false })).finish m.val stDone 0 [])

/-- FW_ACTIVATE: BOOT_HDR names the staged slot, which boots at the next warm or cold reset (18 R472). -/
def execFwActivate (m : Fin 16) (s : State) : Host.Outcome State Fault Refusal := .next (s.onMain (fwActivateEffect m))

/-! ### HALTED (R437) -/

def firmwareInternalErrorEffect (s : State) : State :=
  if !s.start.running ∨ s.fw = 1 ∨ s.fw = 7 then s
  else ((s.post 2 0 0 0xFF s.frameLo (s.reg Reg.MBX_STATE) stInternal).setFw 7)

/-- FIRMWARE_INTERNAL_ERROR: an event record with INTERNAL, and HALTED from every state but STARTING (Table 17.7). -/
def execFirmwareInternalError (s : State) : Host.Outcome State Fault Refusal := .next (s.onMain firmwareInternalErrorEffect)

end Sys2Proof.Machine
end

