-- ==== Sys2Proof/Machine/Validate.lean ====
section
/-! DEFINITION. Validation of a frame table (02 R75, Table 2.9): the checks in their order, each with the index it reports. Inside one check the parts are
tried in the order of its row, and entries in ascending order (log entry 47). -/

namespace Sys2Proof.Machine

/-- The first number below n that satisfies bad. -/
def firstBad (n : Nat) (bad : Nat → Bool) : Option Nat := (List.range n).find? bad

/-- The first offset of a list of (offset, wrong). -/
def firstWrong (l : List (Nat × Bool)) : Option Nat := (l.find? (fun e => e.2)).map (fun e => e.1)

/-- n bytes at o are not all 0. -/
def nonZero (t : List Byte) (o n : Nat) : Bool := fieldLE t o n != 0

/-! ### 0x01 to 0x05 -/

/-- The sections in header order: the offset field, first byte, length in bytes. -/
def tSections (t : List Byte) : List (Nat × Nat × Nat) :=
  [(0x28, tOffPart t, 144 * tPartCount t), (0x2C, tOffKern t, 64 * tKernelCount t), (0x30, tOffFill t, 528 * tFillCount t),
    (0x34, tOffSlot t, 80 * tSlotCount t), (0x38, tOffPath t, 240 * tSlotUs t * tPathCount t), (0x3C, tOffLink t, 48 * tSlotUs t * tLinkCount t)]

/-- Two extents share a byte. -/
def meets (a n b m : Nat) : Bool := decide (0 < n) && decide (0 < m) && decide (a < b + m) && decide (b < a + n)

/-- A section leaves TOTAL_LEN, or meets the header or a section before it. -/
def sectionsBad (t : List Byte) : List (Nat × Nat × Nat) → List (Nat × Nat × Nat) → List (Nat × Bool)
  | _, [] => []
  | past, (f, o, n) :: rest =>
    (f, decide (0 < n) && (decide (tTotalLen t < o + n) || decide (o < 0x100) || past.any (fun x => meets x.2.1 x.2.2 o n))) ::
      sectionsBad t ((f, o, n) :: past) rest

/-- Reserved fields of partition descriptor i. -/
def partReserved (t : List Byte) (i : Nat) : List (Nat × Bool) :=
  let o := tOffPart t + 144 * i
  (o + 4, nonZero t (o + 4) 12) ::
    ((List.range 8).map (fun j =>
      if fieldLE t (o + 3) 1 ≤ j then [(o + 0x10 + 16 * j, nonZero t (o + 0x10 + 16 * j) 16)]
      else [(o + 0x10 + 16 * j, bits (fieldLE t (o + 0x10 + 16 * j) 8) 63 48 != 0),
        (o + 0x18 + 16 * j, bits (fieldLE t (o + 0x18 + 16 * j) 8) 59 48 != 0)])).flatten

def kernReserved (t : List Byte) (k : Nat) : List (Nat × Bool) :=
  let o := tOffKern t + 64 * k
  [(o + 0x1E, nonZero t (o + 0x1E) 2), (o + 0x28, nonZero t (o + 0x28) 24)]

def fillReserved (t : List Byte) (f : Nat) : List (Nat × Bool) :=
  let o := tOffFill t + 528 * f
  (o + 4, nonZero t (o + 4) 12) :: (List.range 64).map (fun i => (o + 16 + 8 * i, bits (fieldLE t (o + 16 + 8 * i) 8) 15 12 != 0))

def slotReserved (t : List Byte) (n : Nat) : List (Nat × Bool) :=
  let o := tOffSlot t + 80 * n
  (List.range 8).map (fun v => (o + 8 * v, bits (slotEntry t n v) 59 56 != 0 || bits (slotEntry t n v) 34 32 != 0)) ++ [(o + 0x44, nonZero t (o + 0x44) 12)]

/-- Check 0x01: the first field found wrong. n is the number of bytes the table came with. -/
def check01 (t : List Byte) (n : Nat) : Option Nat :=
  firstWrong ([(0, hdr t 0 4 != 0x46544231), (4, hdr t 4 2 != 1), (0x40, decide (0x400000 < tTotalLen t) || decide (n < tTotalLen t) || decide (tTotalLen t < 0x100))] ++
    sectionsBad t [] (tSections t) ++
    [(6, decide (1 < hdr t 6 2)), (0x54, nonZero t 0x54 12), (0xC0, nonZero t 0xC0 64)] ++
    ((List.range (tPartCount t)).map (partReserved t)).flatten ++ ((List.range (tKernelCount t)).map (kernReserved t)).flatten ++
    ((List.range (tFillCount t)).map (fillReserved t)).flatten ++ ((List.range (tSlotCount t)).map (slotReserved t)).flatten)

/-- Check 0x02. -/
def check02 (t : List Byte) : Option Nat := if crc32c (crcImage t) = tCrc t then none else some 0

/-- The image that SIGNATURE covers: SIGNATURE taken as zero (Table 2.1). -/
def sigImage (t : List Byte) : List Byte := t.take 0x60 ++ List.replicate 96 0 ++ t.drop 0xC0

/-- Check 0x03. -/
def State.check03 (s : State) (t : List Byte) : Option Nat :=
  let id := hdr t 0x50 4
  if s.installerSigned id (sigImage t) ((t.drop 0x60).take 96) then none else some id

/-- x lies outside lo to hi. -/
def outside (lo hi x : Nat) : Bool := decide (x < lo) || decide (hi < x)

/-- Frame length in us (R44). -/
def tFrameUs (t : List Byte) : Nat := tSlotCount t * tSlotUs t

/-- Check 0x04. A frame length against R44 is reported at SLOT_COUNT. -/
def check04 (t : List Byte) : Option Nat :=
  firstWrong [(0x10, outside 1 16 (tSlotUs t)), (0x11, outside 24 39 (tMMin t)), (0x12, outside 0 32 (tDroopAllow t)), (0x13, outside 1 16 (tPartCount t)),
    (0x14, outside 1 10000 (tSlotCount t) || outside 250 10000 (tFrameUs t) || tFrameUs t % 2 == 1), (0x16, outside 0 (500 * tSlotUs t) (tTrimMax t)),
    (0x18, outside 90 450 (tPMinW t)), (0x20, outside 1 4096 (tKernelCount t)), (0x22, outside 0 256 (tFillCount t)), (0x24, outside 1 512 (tPathCount t)),
    (0x26, outside 0 256 (tLinkCount t))]

/-- Check 0x05 (R71), with X_VP_MIN and T_START_MIN of FRT_CAPS. -/
def State.check05 (s : State) (t : List Byte) : Option Nat :=
  firstWrong [(0x1A, decide (tGCut t < 230 + 2 * tXVp t)), (0x1E, decide (tXVp t < s.regBits Reg.FRT_CAPS 15 0)),
    (0x1C, decide (tTStart t < s.regBits Reg.FRT_CAPS 31 16))]

/-! ### 0x06: partitions -/

/-- The extent lies in the map of 01 Table 1.9. -/
def mapped (a b : Nat) : Bool :=
  ([(0, 0x17FFFFFFFF), (0x100000000000, 0x1FFFFFFFFFFF), (0x200000000000, 0x20001FFFFFFF), (0x200100000000, 0x200103FFFFFF),
    (0x200140000000, 0x200141FFFFFF), (0x300000000000, 0x30000FFFFFFF)] : List (Nat × Nat)).any (fun r => decide (r.1 ≤ a) && decide (b ≤ r.2))

/-- Range j of a descriptor is page-aligned and in the map. -/
def rangeOk (d : List Byte) (j : Nat) : Bool :=
  let r := descRange d j
  fieldLE d (0x10 + 16 * j) 8 % 4096 == 0 && fieldLE d (0x18 + 16 * j) 8 % 4096 == 0 && decide (r.base ≤ r.last) && mapped r.base r.last

/-- R65 between ranges of two partitions. -/
def rangesClash (x y : PartRange) : Bool :=
  (x.w || x.sy || x.landing || y.w || y.sy || y.landing) && decide (x.base ≤ y.last) && decide (y.base ≤ x.last)

/-- Descriptor i breaks check 0x06, alone or against one before it. -/
def partBad (t : List Byte) (i : Nat) : Bool :=
  let d := partDesc t i
  let before := (List.range i).map (partDesc t)
  decide (15 < fieldLE d 0 1) || before.any (fun e => fieldLE e 0 1 == fieldLE d 0 1) || decide (1 < fieldLE d 1 1) ||
    decide ((if Config.automotive then 4 else 3) < fieldLE d 2 1) || outside 1 8 (fieldLE d 3 1) ||
    (List.range (fieldLE d 3 1)).any (fun j => !rangeOk d j) ||
    before.any (fun e => (descRanges e).any (fun x => (descRanges d).any (rangesClash x)))

/-- Check 0x06. -/
def check06 (t : List Byte) : Option Nat := firstBad (tPartCount t) (partBad t)

/-! ### 0x07: kernels -/

/-- The ranges and the class of partition p of table t. -/
def tRanges (t : List Byte) (p : Nat) : List PartRange := match partOf t p with | some d => descRanges d | none => []
def tClass (t : List Byte) (p : Nat) : Option Nat := (partOf t p).map (fun d => fieldLE d 1 1)

/-- The least C_DECL (R69). -/
def cMin (t e : List Byte) : Nat := cdiv (24 * kNIssue e * (256 + tDroopAllow t)) (256 * tMMin t) + kDStall e

/-- Kernel k breaks check 0x07. -/
def kernBad (t : List Byte) (k : Nat) : Bool :=
  let e := kernEntry t k
  let rs := tRanges t (kPart e)
  let pond := match regionOf (kEntry e) with | .pond v => v == kVat e | _ => false
  tClass t (kPart e) != some (kClass e) || decide (7 < kVat e) || !pond || !inRange rs (fun r => r.r) (kEntry e) 1 ||
    !inRange rs (fun r => r.w) (kStatusAddr e) 8 || decide (kCDecl e < cMin t e) ||
    (kClass e == 0 && rs.any (fun r => r.landing || (decide (r.base < 0x200000000000) && decide (0x100000000000 ≤ r.last))) && !bit (kFlags e) 0)

/-- Check 0x07. -/
def check07 (t : List Byte) : Option Nat := firstBad (tKernelCount t) (kernBad t)

/-! ### 0x08 to 0x0B: fill lists, slot records, windows, the trim slot -/

/-- Fill list f breaks check 0x08. -/
def fillBad (t : List Byte) (f : Nat) : Bool :=
  let l := fillList t f
  decide (7 < fVat l) || tClass t (fPart l) != some 1 || outside 1 64 (fCount l) ||
    (List.range (min 64 (fCount l))).any (fun i =>
      let x := fEntry l i
      let e := kernEntry t (bits x 11 0)
      decide (tKernelCount t ≤ bits x 11 0) || kClass e != 1 || kPart e != fPart l || kVat e != fVat l || decide (1 < bits x 31 30))

def check08 (t : List Byte) : Option Nat := firstBad (tFillCount t) (fillBad t)

/-- START of Vat v in slot n agrees with R51. -/
def startOk (t : List Byte) (n v : Nat) : Bool :=
  let e := slotEntry t n v
  let p := slotEntry t (n - 1) v
  if eType e = 0 then !eStart e
  else if n = 0 then eStart e
  else eStart e || (eType p == eType e && eOwner p == eOwner e)

/-- List f exists and is of Vat v. -/
def fillOn (t : List Byte) (f v : Nat) : Bool := decide (f < tFillCount t) && fVat (fillList t f) == v

/-- Slot n breaks check 0x09. -/
def slotBad (t : List Byte) (n : Nat) : Bool :=
  (List.range 8).any (fun v =>
    let e := slotEntry t n v
    decide (4 < eType e) ||
      (eType e == 1 && !(decide (eOwner e < tKernelCount t) && kVat (kernEntry t (eOwner e)) == v && (eHeir e == 0xFF || fillOn t (eHeir e) v))) ||
      (eType e == 2 && !fillOn t (eOwner e) v) || !startOk t n v) ||
    decide (tPathCount t ≤ slotPath t n) || !(slotLink t n == 0xFFFF || decide (slotLink t n < tLinkCount t))

def check09 (t : List Byte) : Option Nat := firstBad (tSlotCount t) (slotBad t)

/-- Slots of the window of Vat v that begins in slot n. -/
def windowSlots (t : List Byte) (n v : Nat) : Nat := followers t v (tSlotCount t) n + 1

/-- Check 0x0A (R70). -/
def check0A (t : List Byte) : Option Nat :=
  firstBad (tSlotCount t) (fun n => (List.range 8).any (fun v =>
    let e := slotEntry t n v
    eType e == 1 && eStart e && decide (tSlotLen t * windowSlots t n v < tTStart t + kCDecl (kernEntry t (eOwner e)) + tGCut t)))

/-- Check 0x0B (R49). -/
def check0B (t : List Byte) : Option Nat :=
  firstBad 8 (fun v => let e := eType (slotEntry t (tSlotCount t - 1) v); e == 1 || e == 3 || e == 4)

/-! ### 0x0C to 0x0E: path and link maps -/

/-- Byte b is admitted on row r in a sub-slot that is a refresh sub-slot or not (R52). -/
def pathByteOk (r b : Nat) (refresh : Bool) : Bool :=
  if 16 ≤ r ∧ r ≤ 19 then (if refresh then b == 0x11 else decide (b ≤ 0x10))
  else if 28 ≤ r then b == 0x0D || b == 0x10
  else if r < 8 then decide (b ≤ 0x10) && b != 0x0D && b != 0x0E
  else decide (b ≤ 0x10)

/-- Check 0x0C: every slot that uses the map. -/
def check0C (t : List Byte) : Option Nat :=
  firstBad (tPathCount t) (fun p => (List.range (tSlotCount t)).any (fun n =>
    slotPath t n == p && (List.range 30).any (fun r => (List.range (tSubs t)).any (fun j =>
      !pathByteOk r (pathByte t p r j) ((n * tSubs t + j) % 16 == 0)))))

/-- Check 0x0D. -/
def check0D (t : List Byte) : Option Nat :=
  firstBad (tSlotCount t) (fun n => (List.range 30).any (fun r => (List.range (tSubs t)).any (fun j =>
    let b := pathByte t (slotPath t n) r j
    decide (b < 8) && eType (slotEntry t n b) != 1 && eType (slotEntry t n b) != 2)))

/-- Check 0x0E. -/
def check0E (t : List Byte) : Option Nat :=
  match firstBad (tLinkCount t) (fun q => (List.range 6).any (fun x => (List.range (tSubs t)).any (fun j => decide (0x41 < linkByte t q x j)))) with
  | some q => some q
  | none => if bit (hdr t 6 2) 0 = decide (0 < tLinkCount t) then none else some 0xFFFFFFFF

/-! ### 0x0F: best-effort kernels fit -/

/-- The longest sum of consecutive lengths in a list of (held, length); acc is the run so far. -/
def longestRun : List (Bool × Nat) → Nat → Nat → Nat
  | [], acc, best => max acc best
  | (h, n) :: l, acc, best => if h then longestRun l (acc + n) best else longestRun l 0 (max acc best)

/-- The slots of Vat v that fill list f holds as fill slots, with their guaranteed lengths. -/
def listSlots (t : List Byte) (f v : Nat) : List (Bool × Nat) :=
  (List.range (tSlotCount t)).map (fun n => (eType (slotEntry t n v) == 2 && eOwner (slotEntry t n v) == f, guaranteedLen t n))

/-- Every kernel of list f fits its longest guaranteed run; a list that holds every slot of its Vat runs without end (R58). -/
def entryFits (t : List Byte) (f i : Nat) : Bool :=
  let l := fillList t f
  let sl := listSlots t f (fVat l)
  sl.all (fun x => x.1) || decide (tTStart t + kCDecl (kernEntry t (bits (fEntry l i) 11 0)) + tGCut t ≤ longestRun (sl ++ sl) 0 0)

/-- Check 0x0F. -/
def check0F (t : List Byte) : Option Nat :=
  (List.range (tFillCount t)).findSome? (fun f =>
    (firstBad (fCount (fillList t f)) (fun i => !entryFits t f i)).map (fun i => f * 65536 + i))

/-! ### 0x10: self-test and golden windows (15 R387, R389, R392, R395) -/

/-- The originals in hub SRAM. -/
def State.goldOriginal (s : State) (d : Nat) : List Byte := s.bytes (hubBase + s.reg Reg.SAF_GOLD_BASE + 64 * d) 64
def State.planOriginal (s : State) (i : Nat) : List Byte := s.bytes (hubBase + s.reg Reg.SAF_PLAN_BASE + 1024 * i) 1024

/-- Slices placed in a window of which left FCLK cycles remain before its cut, in plan order (R393): the slices that do not fit. -/
def packWindow (t p : List Byte) : Nat → List Nat → List Nat
  | _, [] => []
  | left, i :: l => if tTStart t + slD p i ≤ left then packWindow t p (left - (tTStart t + slD p i)) l else i :: l

/-- Lengths less G_CUT of the TYPE 3 windows of Vat v in a frame. -/
def testWindows (t : List Byte) (v : Nat) : List Nat :=
  ((List.range (tSlotCount t)).filter (fun n => eType (slotEntry t n v) == 3 && eStart (slotEntry t n v))).map
    (fun n => tSlotLen t * windowSlots t n v - tGCut t)

/-- The slices left after n frames. -/
def packFrames (t p : List Byte) (ws : List Nat) : Nat → List Nat → List Nat
  | 0, l => l
  | n + 1, l => packFrames t p ws n (ws.foldl (fun r w => packWindow t p w r) l)

/-- Frames of a pass (R395), as the rule counts them. -/
def passFrames (t p : List Byte) : Nat := fieldLE p 1 1 * 1000 / (2 * tFrameUs t)

/-- A slice of a plan is as Table 15.4 has it. -/
def sliceOk (p : List Byte) (i : Nat) : Bool :=
  let k := fieldLE p (0x10 + 16 * i) 1
  decide (k ≤ 5) && (if k = 0 ∨ k = 1 ∨ k = 3 then decide (slTile p i ≤ 3) else slTile p i == 0) && !outside 1 20000 (slD p i)

/-- Plan i serves the TYPE 3 windows of Vat v. -/
def State.planOk (s : State) (t : List Byte) (v i : Nat) : Bool :=
  let p := s.planOriginal i
  let a := s.stArea v
  decide (i < 16) && !outside 1 63 (fieldLE p 0 1) && !outside 2 100 (fieldLE p 1 1) && !nonZero p 2 14 &&
    (List.range (fieldLE p 0 1)).all (sliceOk p) &&
    (List.range (tPartCount t)).all (fun x => (descRanges (partDesc t x)).all (fun r => !(decide (r.base < a + 0x100000) && decide (a ≤ r.last)))) &&
    decide (2 ≤ passFrames t p) && (packFrames t p (testWindows t v) (passFrames t p / 2) (List.range (fieldLE p 0 1))).isEmpty

/-- Descriptor d serves a TYPE 4 window of Vat v. -/
def State.goldOk (s : State) (t : List Byte) (v d : Nat) : Bool :=
  let g := s.goldOriginal d
  decide (d < 256) && decide (gTarget g ≤ 1) && decide (fieldLE g 2 1 ≤ 1) && (gFill g == 0xFF || fillOn t (gFill g) v) && decide (64 ≤ gEvery g) &&
    decide (gPhase g < gEvery g) && !nonZero g 0x21 31 &&
    (if gTarget g = 0 then decide (gKernel g < tKernelCount t) && kVat (kernEntry t (gKernel g)) == v
     else decide (gEngine g ≤ 3) && !outside 1 64 (gRows g))

/-- Two golden runs of one GROUP may fall within 64 consecutive frames (R389). -/
def runsClose (a b : List Byte) : Bool :=
  let g := Nat.gcd (gEvery a) (gEvery b)
  let x := (gPhase a + g - gPhase b % g) % g
  fieldLE a 4 2 == fieldLE b 4 2 && (decide (x < 64) || decide (g < x + 64))

/-- The TYPE 4 windows of the table in slots before n, and in slot n on Vats before v, by descriptor. -/
def goldWindows (t : List Byte) (n v : Nat) : List Nat :=
  ((List.range (n + 1)).map (fun m => (List.range 8).filterMap (fun w =>
    if (m < n ∨ w < v) ∧ eType (slotEntry t m w) = 4 ∧ eStart (slotEntry t m w) then some (eOwner (slotEntry t m w)) else none))).flatten

/-- Slot n breaks check 0x10. -/
def State.diagBad (s : State) (t : List Byte) (n : Nat) : Bool :=
  (List.range 8).any (fun v =>
    let e := slotEntry t n v
    (eType e == 3 && !((List.range n).all (fun m => eType (slotEntry t m v) != 3 || eOwner (slotEntry t m v) == eOwner e) && s.planOk t v (eOwner e))) ||
      (eType e == 4 && !(s.goldOk t v (eOwner e) &&
        (!eStart e || (goldWindows t n v).all (fun d => !runsClose (s.goldOriginal d) (s.goldOriginal (eOwner e)))))))

/-- Check 0x10. -/
def State.check10 (s : State) (t : List Byte) : Option Nat := firstBad (tSlotCount t) (s.diagBad t)

/-! ### 0x11: paired kernels -/

/-- A window of a fit partner of kernel e stands on Vat w beside the window of slots n to n + m - 1. -/
def partnerBeside (t e : List Byte) (n m : Nat) : Bool :=
  ([n, n + 1] ++ (if n = 0 then [] else [n - 1])).any (fun x =>
    let y := slotEntry t x (kPairVat e)
    let f := kernEntry t (eOwner y)
    decide (x < tSlotCount t) && eType y == 1 && eStart y && windowSlots t x (kPairVat e) == m && kPairVat f == kVat e &&
      kEntry f - vatBase (kPairVat e) == kEntry e - vatBase (kVat e) && kCDecl f == kCDecl e)

/-- Kernel k breaks check 0x11. -/
def pairBad (t : List Byte) (k : Nat) : Bool :=
  let e := kernEntry t k
  kPairVat e != 0xFF && (decide (7 < kPairVat e) || kPairVat e == kVat e ||
    (List.range (tSlotCount t)).any (fun n =>
      let y := slotEntry t n (kVat e)
      eType y == 1 && eOwner y == k && eStart y && !partnerBeside t e n (windowSlots t n (kVat e))))

/-- Check 0x11. -/
def check11 (t : List Byte) : Option Nat := firstBad (tKernelCount t) (pairBad t)

/-! ### R75 -/

/-- Check n of Table 2.9; t is the table as it came, u its TOTAL_LEN bytes. -/
def State.check (s : State) (t u : List Byte) (n : Nat) : Option Nat :=
  if n ≤ 8 then
    (if n = 1 then check01 t t.length else if n = 2 then check02 u else if n = 3 then s.check03 u else if n = 4 then check04 u
     else if n = 5 then s.check05 u else if n = 6 then check06 u else if n = 7 then check07 u else check08 u)
  else if n = 9 then check09 u else if n = 0xA then check0A u else if n = 0xB then check0B u else if n = 0xC then check0C u
  else if n = 0xD then check0D u else if n = 0xE then check0E u else if n = 0xF then check0F u else if n = 0x10 then s.check10 u
  else check11 u

/-- The checks from n on, k of them: the code and the index of the first that fails. -/
def State.checksFrom (s : State) (t u : List Byte) : Nat → Nat → Option (Nat × Nat)
  | 0, _ => none
  | k + 1, n =>
    match s.check t u n with
    | some i => some (n, i)
    | none => State.checksFrom s t u k (n + 1)

/-- The first check that fails (R75). -/
def State.validate (s : State) (t : List Byte) : Option (Nat × Nat) := s.checksFrom t (t.take (tTotalLen t)) 17 1

/-- The copies that follow the table in the load area: every descriptor and plan the table names (15 R387), at the places the diagnostic area has them
(DESIGN CHOICE, log entry 20), the rest zero. -/
def State.diagImage (s : State) (t : List Byte) : List Byte :=
  let owners : Nat → List Nat := fun ty => ((List.range (tSlotCount t)).map (fun n =>
    (List.range 8).filterMap (fun v => if eType (slotEntry t n v) = ty then some (eOwner (slotEntry t n v)) else none))).flatten
  let g := owners 4
  let p := owners 3
  ((List.range 256).map (fun d => if g.contains d then s.goldOriginal d else List.replicate 64 0)).flatten ++
    ((List.range 16).map (fun i => if p.contains i then s.planOriginal i else List.replicate 1024 0)).flatten

end Sys2Proof.Machine
end

