-- ==== Sys2Proof/Machine/Jobs.lean ====
section
/-! DEFINITION. Asynchronous commands (17 R430, R440 to R442, Table 17.8; 05 R168; 18 R472, R473, R490): what each checks before it is accepted, and
COMMAND_COMPLETE, which takes a command in progress on to its next stage or to its end. Data from the host or from Aquifer are operands of it. -/

namespace Sys2Proof.Machine

/-! ### Jobs -/

def State.job (s : State) (m : Nat) : Option FwJob := s.firm.jobs.find? (fun j => j.mbox == m)

/-- The job of mailbox m replaced. -/
def State.setJob (s : State) (j : FwJob) : State := s.modFirm (fun f => { f with jobs := f.jobs.map (fun x => if x.mbox = j.mbox then j else x) })

/-- The job ends, with a state word. -/
def State.endJobAt (s : State) (j : FwJob) (status detail : Nat) (res : List Byte) (stw : Nat) : State :=
  (s.modFirm (fun f => { f with jobs := f.jobs.filter (fun x => x.mbox != j.mbox) })).finishAt j.mbox j.role status detail res stw

def State.endJob (s : State) (j : FwJob) (status detail : Nat) (res : List Byte) : State := s.endJobAt j status detail res (s.reg Reg.MBX_STATE)

/-- The job goes on to a stage. -/
def State.nextStage (s : State) (j : FwJob) (n : Nat) : State := s.setJob { j with stage := n }

/-- Client 0xF may move on the path now. With no table no sub-slot has an owner, and firmware's own traffic passes (DEDUCED from 18 R481, log entry 44). -/
def State.firmMoves (s : State) (a n : Nat) (read : Bool) : Bool := !s.tableValid || s.owns .mgmt (pathRows .mgmt (extentRegion a n) read)

/-- n bytes of an operand, absent ones 0. -/
def sized (l : List Byte) (n : Nat) : List Byte := l.take n ++ List.replicate (n - l.length) 0

/-- The 4 MiB load area (R440). -/
def State.loadArea (s : State) : Nat := hubBase + s.reg Reg.MBX_LOAD_AREA

/-! ### Migration commands on firmware's account (05 R148, 17 R441) -/

/-- The 64 bytes of a migration command without MAP's fields. -/
def migBytes (op stack slot first count tag : Nat) : List Byte :=
  toLE 1 op ++ toLE 1 stack ++ toLE 2 slot ++ toLE 4 first ++ toLE 4 count ++ toLE 4 tag ++ List.replicate 48 0

/-- The command goes to the queue in one group of nine writes; none where the group aborts. -/
def State.pushMig (s : State) (b : List Byte) : Option State :=
  let word : Nat → CEntry := fun i => ⟨2, 0, 0x300000000000 + Reg.MIG_CMD i, fieldLE b (8 * i) 8⟩
  match s.runGroup 2 0 0 ((List.range 8).map word ++ [⟨1, 0, 0x300000000000 + Reg.MIG_CMD_PUSH, 1⟩]) with
  | .inl t => some t
  | .inr _ => none

/-- The completion with TAG t: the entry, and the FIFO after firmware has read up to it. -/
def State.takeCpl (s : State) (t : Nat) : Option (Nat × State) :=
  let l := mapGet [] s.logs Reg.MIG_CPL
  match l.findIdx? (fun e => bits e 63 32 == t) with
  | some i => some (l.getD i 0, { s with logs := mapSet [] s.logs Reg.MIG_CPL (l.drop (i + 1)) })
  | none => none

/-- The job issues a migration command and waits for it at a stage; a full queue ends it with STATE_CONFLICT. -/
def State.migStep (s : State) (j : FwJob) (b : List Byte) (stage : Nat) : State :=
  match s.pushMig b with
  | some t => t.nextStage j stage
  | none => s.endJob j stStateConflict 3 []

def migCmdEffect (m : Fin 16) (s : State) : State :=
  s.serve m.val 0x204 (fun _ => .installer) State.isOpen (fun t =>
    if t.busy 0x204 0 then t.conflict m.val 3 0
    else if t.argLen m.val < 64 then t.finish m.val stBadArg 0 []
    else match t.pushMig ((t.args m.val).take 64) with
      | some u => u.accept m.val [0, t.arg m.val 0xC 4] [] none
      | none => t.conflict m.val 3 0)

/-- MIG_CMD: a command of 05 Table 5.5 in the installer's name; the result is its completion (Table 17.8). -/
def execMigCmd (m : Fin 16) (s : State) : Host.Outcome State Fault Refusal := .next (s.onMain (migCmdEffect m))

def imageUnloadEffect (m : Fin 16) (s : State) : State :=
  s.serve m.val 0x103 (fun _ => .operator) State.isOpen (fun t =>
    let k := t.arg m.val 0 4
    if t.busy 0x103 0 then t.conflict m.val 3 0
    else if 1023 < k then t.finish m.val stBadArg 0 []
    else match t.pushMig (migBytes 2 0 k 0 (imgPages (t.imgEntry k)) (t.mailTag m.val)) with
      | some u => u.accept m.val [k] [] none
      | none => t.conflict m.val 3 0)

/-- IMAGE_UNLOAD: UNMAP of an image slot (Table 17.8, 05 R158). -/
def execImageUnload (m : Fin 16) (s : State) : Host.Outcome State Fault Refusal := .next (s.onMain (imageUnloadEffect m))

def imageLoadEffect (m : Fin 16) (s : State) : State :=
  s.serve m.val 0x102 (fun _ => .operator) State.isOpen (fun t =>
    let ns := t.arg m.val 0 4
    let lba := t.arg m.val 4 8
    let k := t.arg m.val 12 4
    let fl := t.arg m.val 16 4
    if t.busy 0x102 0 then t.conflict m.val 3 k
    else if ns = 0 ∨ 4 < ns ∨ 2 ^ 31 ≤ lba ∨ 1023 < k ∨ 1 < fl then t.finish m.val stBadArg 0 []
    else t.accept m.val [k, ns, lba, fl, 0] [] none)

/-- IMAGE_LOAD: the manifest at NSID and LBA is read and verified, and its image mapped, staged or loaded, and pinned (R441). -/
def execImageLoad (m : Fin 16) (s : State) : Host.Outcome State Fault Refusal := .next (s.onMain (imageLoadEffect m))

/-! ### Manifest fields (Table 17.10) -/

def mfPages (l : List Byte) : Nat := fieldLE l 0xC 4
def mfHome (l : List Byte) : Nat := fieldLE l 0x28 1
def mfPin (l : List Byte) : Bool := fieldLE l 0x29 1 == 1
def mfBuckets (l : List Byte) : Nat := fieldLE l 0x2A 1
def mfMax (l : List Byte) : Nat := fieldLE l 0x2B 1
/-- Bucket k: b, Vat, selector cell, Pond offsets of the lists. -/
def mfB (l : List Byte) (k : Nat) : Nat := fieldLE l (0x30 + 16 * k) 1
def mfVat (l : List Byte) (k : Nat) : Nat := fieldLE l (0x31 + 16 * k) 1 % 8
def mfCell (l : List Byte) (k : Nat) : Nat := fieldLE l (0x32 + 16 * k) 2 % 16384
def mfList (l : List Byte) (k i : Nat) : Nat := fieldLE l (0x34 + 16 * k + 4 * i) 4

/-- The manifest has the form of Table 17.10 and its signature verifies. -/
def State.manifestOk (s : State) (l : List Byte) : Bool :=
  fieldLE l 0 4 == 0x494D4731 && !outside 1 524288 (mfPages l) && decide (mfHome l ≤ 3) && decide (fieldLE l 0x29 1 ≤ 1) && decide (mfBuckets l ≤ 16) &&
    (mfBuckets l == 0 || !outside 1 250 (mfMax l)) && fieldLE l 0x2E 2 == 0 && fieldLE l 0x160 64 == 0 &&
    (List.range (mfBuckets l)).all (fun k => !outside 7 24 (mfB l k) && decide (fieldLE l (0x31 + 16 * k) 1 ≤ 7)) &&
    s.installerSigned (fieldLE l 0x2C 2) (l.take 0x1A0) ((l.drop 0x1A0).take 96)

/-- Aquifer can be read. -/
def State.nvmeReady (s : State) : Bool := bit (s.reg Reg.MIG_AQ_STATUS) 9

/-- A step of IMAGE_LOAD (R441). Stages: 0 manifest, 1 page CRC table, 2 MAP, 3 LOAD or STAGE, 4 PIN, 5 UNPIN and 6 UNMAP after a failure. -/
def State.imageStep (s : State) (j : FwJob) (status : Nat) (data : List Byte) : State :=
  let k := j.args.getD 0 0
  let md := j.data
  let n := mfPages md
  let back : State → Nat → State := fun t st => t.migStep { j with args := j.args.take 4 ++ [st] } (migBytes 6 0 k 0 n j.tag) 5
  if j.stage = 0 then
    if status ≠ 0 ∨ !s.nvmeReady then s.endJob j stTierFault 0 []
    else
      let l := sized data 4096
      if s.manifestOk l then s.setJob { j with stage := 1, data := l } else s.endJob j stBadArg 0 []
  else if j.stage = 1 then
    if status ≠ 0 ∨ !s.nvmeReady then s.endJob j stTierFault 0 []
    else if !s.firmMoves s.loadArea 1 false then s
    else
      let t := sized data (4 * n)
      if sha384 t ≠ (md.drop 0x130).take 48 then s.endJob j stBadArg 0 []
      else
        let b := (migBytes 1 0 k 0 n j.tag).take 0x20 ++ (md.drop 4).take 8 ++ (md.drop 0x20).take 8 ++ (md.drop 0x10).take 8 ++
          toLE 1 (j.args.getD 1 0) ++ toLE 1 (mfHome md) ++ toLE 2 0 ++ toLE 4 (s.reg Reg.MBX_LOAD_AREA)
        (s.store s.loadArea t).migStep j b 2
  else
    match s.takeCpl j.tag with
    | none => s
    | some (e, t) =>
      let st := bits e 7 0
      if j.stage = 2 then
        if st ≠ 0 then t.endJob j st 0 []
        else if j.args.getD 3 0 = 1 then t.migStep j (migBytes 3 0 k 0 n j.tag) 3
        else t.migStep j (migBytes 4 (mfHome md) k 0 n j.tag) 3
      else if j.stage = 3 ∧ st = 0 ∧ mfPin md then t.migStep j (migBytes 5 0 k 0 n j.tag) 4
      else if j.stage = 3 ∨ j.stage = 4 then
        if st ≠ 0 then back t st
        else
          let u := t.modFirm (fun f => { f with images := f.images.filter (fun x => x.1 != k) ++ [(k, md)], batches := f.batches.filter (fun x => x.1 / 16 != k) })
          u.endJob j stDone 0 ((md.drop 4).take 8 ++ (md.drop 0x20).take 8)
      else if j.stage = 5 then t.migStep j (migBytes 2 0 k 0 n j.tag) 6
      else t.endJob j (j.args.getD 4 0) 0 []

/-! ### Host DMA, frame tables, the image store, firmware images: what is checked first -/

/-- The bytes touch the calibration table of the fusion unit (09 R265). -/
def State.inCalTable (s : State) (a n : Nat) : Bool :=
  let b := hubBase + s.reg Reg.FUS_CAL_BASE
  decide (a < b + 8192) && decide (b < a + n)

def hostDmaEffect (m : Fin 16) (s : State) : State :=
  s.serve m.val 0x104 (fun _ => .operator) State.isOpen (fun t =>
    let dir := t.arg m.val 0 4
    let p := t.arg m.val 4 4
    let a := t.arg m.val 16 8
    let n := t.arg m.val 24 4
    let k : Want := if dir = 1 then .r else .w
    if 1 < dir ∨ 15 < p ∨ n = 0 ∨ 0x1000000 < n then t.finish m.val stBadArg 0 []
    else if k = .w ∧ t.inCalTable a n ∧ !holds (t.roleOf m.val) t.keep.lifecycle .installer then t.finish m.val stRoleDenied 0 []
    else if !t.admits .hostDma (some p) k a n then (t.refuse .hostDma (some p) k a).finish m.val stBadArg 0 []
    else t.accept m.val [dir, p, t.arg m.val 8 8, a, n] [] none)

/-- HOST_DMA: direction 0 moves host memory to the device, 1 the device's to the host, for a partition's ranges (Table 17.8, 01 Table 1.11, 05 R163);
only the installer role writes the calibration table (09 R265). -/
def execHostDma (m : Fin 16) (s : State) : Host.Outcome State Fault Refusal := .next (s.onMain (hostDmaEffect m))

/-- A step of HOST_DMA. -/
def State.dmaStep (s : State) (j : FwJob) (status : Nat) (data : List Byte) : State :=
  let p := j.args.getD 1 0
  let a := j.args.getD 3 0
  let n := j.args.getD 4 0
  if status ≠ 0 then s.endJob j stTierFault 0 []
  else if j.args.getD 0 0 = 1 then
    if !s.owns .hostDma (pathRows .hostDma (extentRegion a n) true) then s
    else
      let t := (s.eccRead a n p (DoubtInfo.plain 0)).actHub p a n
      if s.poisoned a n then t.endJob j stTierFault 0 []
      else (t.modFirm (fun f => { f with hostOut := f.hostOut ++ [(j.args.getD 2 0, s.bytes a n)] })).endJob j stDone 0 []
  else if !s.owns .hostDma (pathRows .hostDma (extentRegion a n) false) then s
  else (((s.mend a n).store a (sized data n)).actHub p a n).endJob j stDone 0 []

def ftLoadEffect (m : Fin 16) (s : State) : State :=
  s.serve m.val 0x202 (fun _ => .installer) State.isOpen (fun t =>
    let n := t.arg m.val 8 4
    if t.busy 0x202 0 ∨ t.switchPending then t.conflict m.val 2 0
    else if n = 0 ∨ 0x400000 < n then t.finish m.val stBadArg 0 []
    else t.accept m.val [0, t.arg m.val 0 8, n] [] none)

/-- FT_LOAD: copies a table into the load area, validates it (02 R75), and loads the inactive bank (R440). -/
def execFtLoad (m : Fin 16) (s : State) : Host.Outcome State Fault Refusal := .next (s.onMain (ftLoadEffect m))

/-- The inactive bank is left without a loaded table (R440). -/
def State.dropLoaded (s : State) : State := s.setReg Reg.FRT_STATUS (putBit (s.reg Reg.FRT_STATUS) (2 + s.idleBank) false)

/-- A table stands in the load area: it is validated, the diagnostic copies follow it, and the load starts; or why not: status and DETAIL. -/
def State.loadTable (s : State) (n : Nat) : State ⊕ (Nat × Nat) :=
  let a := s.loadArea
  if s.poisoned a n then .inr (stTierFault, 0)
  else
    let t := s.bytes a n
    match s.validate t with
    | some (c, i) => .inr (stBadArg, c + 2 ^ 8 * i)
    | none =>
      let u := s.store (a + tTotalLen t) (s.diagImage (t.take (tTotalLen t)))
      let w : Nat → Nat → Nat → CEntry := fun k x v => ⟨k, 0, 0x300000000000 + x, v⟩
      match u.runGroup 2 0 0 [w 2 Reg.FRT_LOAD_SRC a, w 1 Reg.FRT_LOAD_LEN (tTotalLen t), w 1 Reg.FRT_LOAD_CMD 1] with
      | .inl v => .inl v
      | .inr _ => .inr (stStateConflict, 2)

/-- A step of FT_LOAD. Stages: 0 the copy, 1 the load of the bank. -/
def State.tableStep (s : State) (j : FwJob) (status : Nat) (data : List Byte) : State :=
  let n := j.args.getD 2 0
  if j.stage = 0 then
    if !s.firmMoves s.loadArea n false then s
    else if status ≠ 0 then s.endJob j stTierFault 0 []
    else
      let t := s.store s.loadArea (sized data n)
      match t.loadTable n with
      | .inl u => u.nextStage j 1
      | .inr (st, d) => (if st = stTierFault then t.dropLoaded else t).endJob j st d []
  else if s.frt.load.isSome then s
  else
    let code := s.regBits Reg.FRT_STATUS 15 8
    let t := s.nextTable
    if code = 0 then s.endJob j stDone 0 (toLE 4 s.idleBank ++ toLE 4 (hdr t 8 4) ++ toLE 4 (hdr t 0xC 4))
    else s.endJob j (if code = 4 then stTierFault else stBadArg) 0 []

/-- Blocks of a mapped image (05 R168). -/
def State.blocksMapped (s : State) (ns lba n : Nat) : Bool :=
  (List.range 1024).any (fun k =>
    let e := s.imgEntry k
    imgValid e && imgNsid e == ns && decide (lba < imgLba e + 512 * imgPages e) && decide (imgLba e < lba + n))

/-- The checks of STORE_WRITE and STORE_TRIM, and their acceptance. -/
def State.storeCommand (s : State) (m op : Nat) : State :=
  let ns := s.arg m 0 4
  let lba := s.arg m 4 8
  let n := s.arg m 12 4
  if s.busy op 0 then s.conflict m 3 0
  else if ns = 0 ∨ 4 < ns ∨ n = 0 ∨ (op = 0x205 ∧ 4096 < n) ∨ 2 ^ 31 < lba + n then s.finish m stBadArg 0 []
  else if s.blocksMapped ns lba n then s.conflict m 3 0
  else s.accept m [0, ns, lba, n, s.arg m 16 8] [] none

def storeWriteEffect (m : Fin 16) (s : State) : State :=
  s.serve m.val 0x205 (fun _ => .installer) State.isOpen (fun t => t.storeCommand m.val 0x205)

/-- STORE_WRITE: logical blocks of Aquifer, none of a mapped image (05 R168, Table 17.8). -/
def execStoreWrite (m : Fin 16) (s : State) : Host.Outcome State Fault Refusal := .next (s.onMain (storeWriteEffect m))

def storeTrimEffect (m : Fin 16) (s : State) : State :=
  s.serve m.val 0x206 (fun _ => .installer) State.isOpen (fun t => t.storeCommand m.val 0x206)

/-- STORE_TRIM (Table 17.8). -/
def execStoreTrim (m : Fin 16) (s : State) : Host.Outcome State Fault Refusal := .next (s.onMain (storeTrimEffect m))

/-- PFW or NV-inhibit: no new Aquifer write is issued (R458, R459). -/
def State.noWrites (s : State) : Bool := bit (s.reg Reg.EVR_STATUS) 1 || bit (s.reg Reg.EVR_STATUS) 2

/-- A step of STORE_WRITE or STORE_TRIM: the command goes to Aquifer and ends with what NVMe answers. -/
def State.storeStep (s : State) (j : FwJob) (status : Nat) (data : List Byte) : State :=
  let ns := j.args.getD 1 0
  let lba := j.args.getD 2 0
  let n := j.args.getD 3 0
  if s.noWrites then s
  else if !s.nvmeReady then s.endJob j stTierFault 0 []
  else if s.blocksMapped ns lba n then s.endJob j stStateConflict 3 []
  else
    let x := if j.op = 0x205 then some (sized data (4096 * n)) else none
    let t := s.modMig (fun g => { g with aqSent := g.aqSent ++ [(ns, lba, n, x)] })
    if status = 0 then t.endJob j stDone 0 [] else t.endJob j stTierFault 0 []

def fwStageEffect (m : Fin 16) (s : State) : State :=
  s.serve m.val 0x300 (fun _ => .maker) (fun t => t.fwIn [2, 4]) (fun t =>
    let n := t.arg m.val 8 4
    if t.busy 0x300 0 then t.conflict m.val 0 0
    else if n = 0 ∨ 0x800000 < n then t.finish m.val stBadArg 0 []
    else t.accept m.val [0, t.arg m.val 0 8, n] [] none)

/-- FW_STAGE: an image that the boot ROM would take goes into the slot that is not active (18 R472, R473). -/
def execFwStage (m : Fin 16) (s : State) : Host.Outcome State Fault Refusal := .next (s.onMain (fwStageEffect m))

/-- The cause of Table 18.2 with which a firmware image is refused; 0 where it is accepted (18 R473). -/
def State.imageRefused (s : State) (l : List Byte) : Nat :=
  let n := fieldLE l 0xC 4
  if fieldLE l 0 4 ≠ 0x46574931 ∨ 0x7FFF00 < n ∨ l.length < 256 + n ∨ !s.makerSigned (l.take 0x60) ((l.drop 0x60).take 96) ∨
      sha384 ((l.drop 256).take n) ≠ (l.drop 0x10).take 48 then 1
  else if fieldLE l 6 2 < s.keep.svn then 2
  else 0

/-- A step of FW_STAGE. -/
def State.stageStep (s : State) (j : FwJob) (status : Nat) (data : List Byte) : State :=
  let l := sized data (j.args.getD 2 0)
  if status ≠ 0 ∨ s.imageRefused l ≠ 0 then s.endJob j stBadArg 0 []
  else ((s.setNor (slotOffset (1 - s.activeSlot)) l).modKeep (fun k => { k with staged := true })).endJob j stDone 0 (toLE 4 (fieldLE l 4 2))

/-! ### Fuses (18 R489, R490, Tables 18.7, 18.8) -/

/-- The lifecycle lets the field be programmed. -/
def fieldAllowed (lifecycle field : Nat) : Bool :=
  lifecycle == 0 || (lifecycle == 1 && (field == 2 || field == 3 || field == 4)) || (lifecycle == 2 && (field == 2 || field == 3))

def fuseProgramEffect (m : Fin 16) (s : State) : State :=
  s.serve m.val 0x302 (fun _ => .maker) (fun t => t.fwIn [2]) (fun t =>
    let f := t.arg m.val 0 4
    let v := t.arg m.val 4 4
    if f = 0 ∨ 4 < f then t.finish m.val stBadArg 0 []
    else if !fieldAllowed t.keep.lifecycle f ∨ (f = 1 ∧ t.keep.rootKey ≠ []) then t.conflict m.val 0 f
    else if (f = 1 ∧ t.argLen m.val < 52) ∨ (f = 2 ∧ (v < t.keep.epoch ∨ 64 < v)) ∨ (f = 3 ∧ (v < t.keep.svn ∨ 64 < v)) ∨
        (f = 4 ∧ (1 < v ∨ (v = 0 ∧ t.keep.bootHost))) then t.finish m.val stBadArg 0 []
    else t.accept m.val [0, f, v] ((t.args m.val).drop 4) none)

/-- FUSE_PROGRAM: a field of Table 18.8 that the lifecycle allows; counts go up only (18 R490). -/
def execFuseProgram (m : Fin 16) (s : State) : Host.Outcome State Fault Refusal := .next (s.onMain (fuseProgramEffect m))

/-- Field f of the fuses programmed with v or the bytes l: bits are set, never cleared (R489, R490). -/
def Keep.program (k : Keep) (f v : Nat) (l : List Byte) : Keep :=
  if f = 1 then { k with rootKey := if k.rootKey = [] then l.take 48 else k.rootKey }
  else if f = 2 then { k with epoch := max k.epoch v }
  else if f = 3 then { k with svn := max k.svn v }
  else { k with bootHost := k.bootHost || v == 1 }

/-- The fuses are written; sessions lose keys of a lower epoch (R434). A root key digest that another command wrote meanwhile stays. -/
def State.fuseStep (s : State) (j : FwJob) : State :=
  let f := j.args.getD 1 0
  if f = 1 ∧ s.keep.rootKey ≠ [] then s.endJob j stStateConflict (65536 * f) []
  else ((s.modKeep (fun k => k.program f (j.args.getD 2 0) j.data)).endInvalid).endJob j stDone 0 []

/-! ### Length buckets (07 R225, R226; R442) -/

/-- Entry i of BATCH_SUBMIT: slot, rows, POS, L. -/
def batchEntry (a : List Byte) (i : Nat) : List Byte := (a.drop (16 + 16 * i)).take 16
def beSlot (e : List Byte) : Nat := fieldLE e 0 2 % 512
def beRows (e : List Byte) : Nat := fieldLE e 2 1
def bePos (e : List Byte) : Nat := fieldLE e 4 4
def beLen (e : List Byte) : Nat := fieldLE e 8 3

/-- Bucket of a sequence: max(7, ceil(log2 L)) (07 R225). -/
def bucketFor (e : List Byte) : Nat := if beLen e ≤ 1 then 7 else max 7 (Nat.log2 (beLen e - 1) + 1)

/-- The entry is as R442 has it and its bucket is declared. -/
def batchOk (md e : List Byte) : Bool :=
  bits (fieldLE e 0 4) 15 9 == 0 && bits (fieldLE e 0 4) 31 24 == 0 && !outside 1 64 (beRows e) && decide (1 ≤ beLen e) && fieldLE e 11 5 == 0 &&
    (List.range (mfBuckets md)).any (fun k => mfB md k == bucketFor e)

def batchSubmitEffect (m : Fin 16) (s : State) : State :=
  s.serve m.val 0x105 (fun _ => .operator) (fun t => t.fwIn [3]) (fun t =>
    let k := t.arg m.val 0 4
    let n := (t.argLen m.val - 16) / 16
    let es := (List.range n).map (batchEntry (t.args m.val))
    match t.firm.images.find? (fun x => x.1 == k) with
    | none => t.finish m.val stBadArg 0 []
    | some x =>
      if t.busy 0x105 k then t.conflict m.val 3 k
      else if n = 0 ∨ 250 < n ∨ !es.all (batchOk x.2) then t.finish m.val stBadArg 0 []
      else t.accept m.val [k] es.flatten none)

/-- BATCH_SUBMIT: sequences for the length buckets of a loaded image (R442). -/
def execBatchSubmit (m : Fin 16) (s : State) : Host.Outcome State Fault Refusal := .next (s.onMain (batchSubmitEffect m))

/-- Entries in ascending L, then ascending slot. -/
def batchLe (a b : List Byte) : Bool := decide (beLen a < beLen b) || (beLen a == beLen b && decide (beSlot a ≤ beSlot b))

/-- e placed among entries in order. -/
def batchInsert (e : List Byte) : List (List Byte) → List (List Byte)
  | [] => [e]
  | x :: l => if batchLe e x then e :: x :: l else x :: batchInsert e l

def State.batch (s : State) (key : Nat) : Batch := match s.firm.batches.find? (fun x => x.1 == key) with | some x => x.2 | none => ⟨[], 0⟩

/-- No run is under way on Vat v that may have read the selector before it was last set (R226). -/
def State.listFree (s : State) (v since : Nat) : Bool :=
  !(s.vat v).running || (match (s.vat v).cyc0 with | some c => decide (since < c) | none => true)

/-- The bytes of a bucket list (07 Table 7.12). -/
def bucketList (b : Nat) (es : List (List Byte)) : List Byte :=
  toLE 2 es.length ++ toLE 1 b ++ List.replicate 13 0 ++
    (es.map (fun e => toLE 8 (beSlot e + 2 ^ 16 * beRows e + 2 ^ 32 * (bePos e % 2 ^ 24)))).flatten

/-- A step of BATCH_SUBMIT: the list of the next bucket that the selector does not name is written and selected; the last one ends the command. -/
def State.batchStep (s : State) (j : FwJob) : State :=
  let k := j.args.getD 0 0
  match s.firm.images.find? (fun x => x.1 == k) with
  | none => s.endJob j stStateConflict (3 + 65536 * k) []
  | some (_, md) =>
    let i := j.stage
    let v := mfVat md i
    let old := s.batch (16 * k + i)
    let sel := s.cellSeen v (mfCell md i)
    let side := if sel = 0 then 1 else 0
    let a := pondAddr v (mfList md i side)
    if mfBuckets md ≤ i then s.endJob j stDone 0 []
    else if !s.listFree v old.since ∨ !s.firmMoves a 1 false then s
    else
      let n := j.data.length / 16
      let new := ((List.range n).map (fun x => (j.data.drop (16 * x)).take 16)).filter (fun e => bucketFor e == mfB md i)
      let all := old.carried ++ new.foldr batchInsert []
      let put := all.take (mfMax md)
      let rest := all.drop (mfMax md)
      let t := ((s.store a (bucketList (mfB md i) put)).cellDo v (mfCell md i) 5 (.set (BitVec.ofNat 64 side))).modFirm (fun f => { f with
        batches := f.batches.filter (fun x => x.1 != 16 * k + i) ++ [(16 * k + i, ⟨rest, (s.vat v).cyc⟩)] })
      let args := j.args ++ [put.length, rest.length]
      if i + 1 = mfBuckets md then t.endJob j stDone 0 ((args.drop 1).map (toLE 4)).flatten
      else t.setJob { j with stage := i + 1, args := args }

/-! ### COMMAND_COMPLETE -/

/-- The end of a command that waited for its group (R443, R449). -/
def State.groupEnds (s : State) (j : FwJob) (status detail stw : Nat) : State :=
  let ok := status == stDone
  let w := j.args.getD 0 0
  let t := if (j.op = 0x100 ∨ j.op = 0x101) ∧ ok then
      s.modFirm (fun f => { f with works := f.works.map (fun e => if e.1 = w then (w, { e.2 with started := j.op == 0x100 }) else e) })
    else s
  if ok then t.endJob j status detail (if j.op = 0x200 then toLE 4 (j.args.getD 0 0) else [])
  else t.endJobAt j status detail [] stw

/-- A step of HANDBACK: GO once a trajectory has been accepted, DONE in MAIN, and the status with which the request was cancelled (15 R404). -/
def State.handbackStep (s : State) (j : FwJob) : State :=
  match j.ends with
  | some (st, d, _) => s.endJob j st d []
  | none =>
    if j.stage = 0 ∧ s.auth = .handbackPending ∧ s.fbx.hbAcc then (s.ownWrite Reg.FBX_HB_GO 32 1).nextStage j 1
    else if s.auth = .main then s.endJob j stDone 0 []
    else if s.auth = .fallback then s.endJob j stDoubt 0 []
    else s

def commandCompleteEffect (m : Fin 16) (status : Nat) (data : List Byte) (s : State) : State :=
  match s.job m.val with
  | none => s
  | some j =>
    if s.fw = 7 then s.endJob j stInternal 0 []
    else match j.op with
      | 0x100 | 0x101 | 0x200 => (match j.ends with | some (st, d, w) => s.groupEnds j st d w | none => s)
      | 0x102 => s.imageStep j status data
      | 0x103 => (match s.takeCpl j.tag with
        | some (e, t) =>
          let k := j.args.getD 0 0
          (if bits e 7 0 = 0 then t.modFirm (fun f => { f with images := f.images.filter (fun x => x.1 != k) }) else t).endJob j (bits e 7 0) 0 []
        | none => s)
      | 0x104 => s.dmaStep j status data
      | 0x105 => s.batchStep j
      | 0x106 => s.handbackStep j
      | 0x202 => s.tableStep j status data
      | 0x204 => (match s.takeCpl (j.args.getD 1 0) with | some (e, t) => t.endJob j (bits e 7 0) 0 (toLE 8 e) | none => s)
      | 0x205 => s.storeStep j status data
      | 0x206 => s.storeStep j status data
      | 0x20A => if s.frt.resets.any (fun r => r.mbox == some m.val) then s else s.endJob j stDone 0 []
      | 0x300 => s.stageStep j status data
      | _ => s.fuseStep j

/-- COMMAND_COMPLETE: the command in progress on mailbox m goes on, or ends with its final status, results and the return of ownership (R430). status (0 for
success) and data are what the host or Aquifer answers the stage in progress. -/
def execCommandComplete (m : Fin 16) (status : Nat) (data : List Byte) (s : State) : Host.Outcome State Fault Refusal :=
  .next (s.onMain (commandCompleteEffect m status data))

end Sys2Proof.Machine
end

