-- ==== Sys2Proof/Machine/Late.lean ====
section
/-! DEFINITION. Major frames with the groups that switch tables (02 R47, R77, R78; 17 R514), the relay of fallback trajectories at each of them (17 R444), single
requests on the fabric (01 R33 to R36; 05 R163), and sync-cell operations that meet in one cycle (03 R97). -/

namespace Sys2Proof.Machine

/-! ### Major frames -/

/-- The group switches tables at a frame boundary. -/
def isSwitch (g : CGroup) : Bool := switches g.entries && g.point == 2 && g.target == 0

/-- Switch groups that take the boundary in FCLK cycle e, in submission order; with no table active the first pending one has set the instant (R77). -/
def State.switchGroups (s : State) (e : Nat) : List CGroup :=
  let l := s.cg.pending.filter isSwitch
  l.filter (fun g => decide (g.staged + 16000 ≤ e) || (!s.tableValid && l.head? == some g))

/-- The switch stays pending while another group still carries one; the earliest of them counts. -/
def State.nextSwitch (s : State) : State :=
  match s.cg.pending.find? isSwitch with
  | some g =>
    let a := s.setReg Reg.FRT_STATUS (putBit (s.reg Reg.FRT_STATUS) 5 true)
    { a with frt := { a.frt with switchAt := some g.staged } }
  | none => s

/-- The first switch group that is accepted; those before it abort (R449). Groups are evaluated in the state before the boundary, and the reads
that enabling a unit makes do not wait there for their paths (DESIGN CHOICE, log entry 36). -/
def State.pickSwitch (s : State) : List CGroup → State × Option CGroup
  | [] => (s, none)
  | g :: l =>
    let a := s.modCg (fun c => { c with pending := c.pending.filter (fun x => x.id != g.id) })
    match (s.modMig (fun m => { m with waits := false, urgent := true })).runGroup g.role g.point g.gtag g.entries with
    | .inl _ => (a, some g)
    | .inr x => State.pickSwitch (a.groupAborts g (a.groupStatus g.entries x) x).nextSwitch l

/-- The boundary in FCLK cycle e with the groups that switch at it: the boundary comes first, then the entries of the group (R514, steps 2 and 4). -/
def State.boundaryWith (s : State) (e : Nat) : State :=
  let gs := s.switchGroups e
  if gs.isEmpty then s.frameBoundary e
  else
    let r := s.pickSwitch gs
    match r.2 with
    | some g =>
      let a := ({ r.1 with frt := { r.1.frt with switchAt := some (e - 16000) } } : State).setReg Reg.FRT_STATUS (putBit (r.1.reg Reg.FRT_STATUS) 5 true)
      (((a.frameBoundary e).forceGroup g.role g.point g.gtag g.entries).groupDone g).nextSwitch
    | none => if s.tableValid then r.1.frameBoundary e else r.1

/-- Firmware reads the ready cell at a frame boundary; a changed value names the buffer whose trajectory of LEN bytes is relayed, once one still being staged is complete. One
that meets an uncorrectable word is not taken at this boundary. -/
def State.relayPoll (s : State) : State :=
  let r := s.firm.relay
  let v := s.cellAt r.ready
  let buf := if v % 2 = 0 then r.buf0 else r.buf1
  let n := max 64 (min 16384 (s.loadLE (buf + 4) 4))
  if !s.start.running ∨ !r.en ∨ s.fw = 7 ∨ r.busy ∨ v = r.seen then s.relayPump
  else
    let a := s.eccRead buf n 16 (DoubtInfo.plain 0)
    if s.poisoned buf n then a
    else
      (a.modFirm (fun f => { f with relay := { f.relay with
        seen := v, begun := true, words := (List.range ((n + 7) / 8)).map (fun i => s.loadLE (buf + 8 * i) 8), place := 0, commit := true } })).relayPump

def majorFrameStartEffect (s : State) : State :=
  match s.frameDue with
  | some e => (s.boundaryWith e).belowMin.syncState.relayPoll
  | none => s

/-- MAJOR_FRAME_START: the boundary that has come: the next frame, a new table, or a stop takes effect; slot 0 begins, FRT_FRAME_CNT steps and SLIP follows (R47,
R77 to R79). -/
def execMajorFrameStart (s : State) : Host.Outcome State Fault Refusal := .next (s.onMain majorFrameStartEffect)

/-! ### Fabric requests -/

/-- The partition an initiator acts for: a Vat's is its kernel's, the engine and the management processor act for none (05 R163, R164). -/
def State.actsFor (s : State) (i : Initiator) (p : Fin 16) : Option Nat :=
  match i with
  | .vat v => some (s.runPart v)
  | .migration => none
  | .mgmt => none
  | _ => some p.val

/-- What a request wants, and its length. -/
def wantOf : FabricOp → Want
  | .read _ => .r
  | .write _ => .w
  | .cell _ => .s
def lenOf : FabricOp → Nat
  | .read n => n
  | .write l => l.length
  | .cell _ => 8

/-- The request ends with a status. -/
def State.answer (s : State) (status : Nat) : State := { s with rdata := [status] }

/-- A refused request: counted and logged, no effect; a read returns zeros (01 R34). -/
def State.refusedReq (s : State) (i : Initiator) (p : Option Nat) (a : Nat) (op : FabricOp) : State :=
  { s.refuse i p (wantOf op) a with rdata := stBadArg :: (match op with | .read n => List.replicate n 0 | _ => []) }

/-- Bytes moved, as the power controller counts them. -/
def State.actReq (s : State) (i : Initiator) (p a n : Nat) : State :=
  match i with
  | .vat v => s.actMover v a n
  | _ => s.actHub p a n

/-- A row between dies. -/
def bridgeRow (r : Nat) : Bool := decide (20 ≤ r) && decide (r ≤ 25)

/-- A word on the host link of a Lake stack that only its two-bit detection caught: as uncorrectable data of the stack, marked link in the log (05 R159, R160, R170). -/
def State.linkError (s : State) (a p : Nat) (d : DoubtInfo) : State :=
  match regionOf a with
  | .lake k =>
    let t := (s.bump (Reg.LAKE_UE_CNT k)).pushLog (Reg.LAKE_UE_LOG k) 16 (2 ^ 63 + 2 ^ 61 + (p % 16) * 2 ^ 48 + a / 8 * 8)
    if t.inLcWrite a then t.raise 0x89 { d with addr := a } else t
  | _ => s

/-- What a request met on its way is recorded: a corrected word of a Lake link counts as a corrected error of its stack; a word that came bad on the link, or in a
flit that a bridge could not correct, is uncorrectable data met at the address read (01 R20; 05 R159, R160). -/
def State.transitErr (s : State) (tr : Transit) (rows : List Nat) (a p : Nat) (d : DoubtInfo) : State :=
  match tr with
  | .clean => s
  | .flitLost => if rows.any bridgeRow then s.uncorrectable (a / 8 * 8) p d else s
  | .linkCorrected => (match regionOf a with | .lake k => s.countCE (0x38 + k) (Reg.LAKE_CE_CNT k) | _ => s)
  | .linkBad => s.linkError a p d

/-- The data of a request comes bad. -/
def spoils (tr : Transit) (rows : List Nat) (a : Nat) : Bool :=
  match tr with
  | .flitLost => rows.any bridgeRow
  | .linkBad => decide (a < 0x1800000000)
  | _ => false

/-- What the doubt record says of the reader. -/
def reqDoubt (s : State) (i : Initiator) : DoubtInfo := match i with | .vat v => vatDoubt s v.val | _ => DoubtInfo.plain 0

/-- One part of a request to the image range. Bad data on the link of its stack is withheld, and its page withdrawn (05 R159, R161); a lost flit reaches the reader. -/
def State.imagePart (s : State) (i : Initiator) (p a n : Nat) (deadline : Option Nat) (tr : Transit) : State × Option (List Byte) × Bool :=
  let who : Waiter := .client (16 + clientOf i)
  match s.dieFrame (dieOf i) (pageOf a) with
  | some f =>
    let rows := pathRows i (.lake (f / 12288)) true
    if tr = .linkBad ∧ s.pathOpen i rows then ((s.withdraw (pageOf a) f p).holdRead who i p a n deadline false, none, false)
    else
      let t := s.readPart who i p a n deadline
      if t.2.isSome then (t.1.transitErr tr rows (frameAddr f a) p (reqDoubt s i), t.2, spoils tr rows (frameAddr f a)) else (t.1, none, false)
  | none => let t := s.readPart who i p a n deadline; (t.1, t.2, false)

/-- A read of the image range: every part that is resident arrives, others are held (05 R152). -/
def State.imageReq (s : State) (i : Initiator) (p a n : Nat) (deadline : Option Nat) (tr : Transit) : State :=
  let r := (imageParts a n).foldl (fun (u : State × Option (List Byte) × Bool) x =>
    let t := u.1.imagePart i p x.1 x.2 deadline tr
    (t.1, (match u.2.1, t.2.1 with | some l, some m => some (l ++ m) | _, _ => none), u.2.2 || t.2.2)) (s, some [], false)
  match r.2.1 with
  | some l => if r.2.2 then (r.1.actReq i p a n).answer stTierFault else { r.1.actReq i p a n with rdata := stDone :: l.map (fun b => b.toNat) }
  | none => r.1

/-- The error marks of what a read met: a word of a frame pool, which only the management processor reads, withdraws its page (05 R161). -/
def State.readErrs (s : State) (i : Initiator) (p a n : Nat) : State :=
  if regionOf a = .lake (a / 0x600000000) ∧ (s.inPool (frameOf a) || s.inPool (frameOf (a + n - 1))) then
    if s.poisoned a n then s.withdrawAt a n p else s.eccRead a n p (DoubtInfo.plain 0)
  else s.eccRead a n p (reqDoubt s i)

/-- A request at a local address. -/
def State.localReq (s : State) (i : Initiator) (p : Option Nat) (a : Nat) (op : FabricOp) (deadline : Option Nat) (tr : Transit) : State :=
  let n := lenOf op
  let q := p.getD 0
  let rows := pathRows i (extentRegion a n) (wantOf op == .r)
  let bad := spoils tr rows a
  if !s.admits i p (wantOf op) a n ∨ (regionOf a = .image ∧ !s.imageMapped i a n) then s.refusedReq i p a op
  else if regionOf a = .image then s.imageReq i q a n deadline tr
  else if !s.pathOpen i rows then (match deadline with | some d => if d ≤ s.fclk then s.answer stDeadlineMiss else s | none => s)
  else match op with
    | .read m =>
      let t := ((s.readErrs i q a m).transitErr tr rows a q (reqDoubt s i)).actReq i q a m
      if bad ∨ s.poisoned a m then t.answer stTierFault
      else { t with rdata := stDone :: (s.readBytes a m).map (fun b => b.toNat) }
    | .write l =>
      let t := if tr = .linkCorrected then s.transitErr tr rows a q (reqDoubt s i) else s
      ((t.putBytes a l (List.replicate l.length bad)).actReq i q a n).answer stDone
    | .cell c => (if bad then s else s.cellOp a c).answer (if bad then stTierFault else stDone)

/-- Messages of a remote request in address order; none where one must wait. -/
def State.sendParts (s : State) (who : Waiter) (dev gen base : Nat) (l : List Byte) (bad : Bool) : List (Nat × Nat) → Option State
  | [] => some s
  | x :: rest =>
    match s.sendMsg who dev gen x.1 (some ((l.drop (x.1 - base)).take x.2)) 0 false bad with
    | some t => State.sendParts t who dev gen base l bad rest
    | none => none

/-- A request at another device's address (01 R35, R36; 14 R360): PEER_LOST where the device is no member or is LOST; a write or a sync-cell operation of a Vat or of the
management processor becomes messages; a read, and a hub client's request, is refused. -/
def State.remoteReq (s : State) (i : Initiator) (p : Option Nat) (dev gen a : Nat) (op : FabricOp) (tr : Transit) : State :=
  let who : Waiter := .client (16 + clientOf i)
  let rows : List Nat := match i with | .vat v => [v.val, 22 + 2 * vatDie v] | _ => []
  let sends := match i with | .vat _ => true | .mgmt => true | _ => false
  let bad := decide (tr = .flitLost) && rows.any bridgeRow
  if !s.member dev ∨ s.peerLost dev then s.answer stPeerLost
  else match op with
    | .read _ => s.refusedReq i p a op
    | .write l =>
      if !sends then s.refusedReq i p a op
      else if !s.owns i rows then s
      else (s.sendParts who dev gen a l bad (linkParts (l.length / 256 + 2) a l.length)).getD s
    | .cell c =>
      if !sends then s.refusedReq i p a op
      else if !s.owns i rows then s
      else (s.sendMsg who dev gen a none (match c with | .add x => x.toNat | .set x => x.toNat) (match c with | .add _ => false | .set _ => true) bad).getD s

/-- A request of the management processor in register space; a read of another width is ignored and sets WIDTH (01 R39; that it answers BAD_ARG and 0, log entry 44). -/
def State.regReq (s : State) (a : Nat) (op : FabricOp) : State :=
  match op with
  | .read n =>
    if (match rowAt (keyOfAddr a) with | some r => r.width != 8 * n | none => false) then
      let t := s.hwSetBit (errKey (keyBlk (keyOfAddr a))) errWidth
      { t with rdata := [stBadArg, 0] }
    else let r := s.mgmtRead a; { r.1 with rdata := [stDone, r.2] }
  | .write l => (registerWriteEffect 2 (BitVec.ofNat 48 a) (8 * l.length) (BitVec.ofNat 64 (fromLE l)) s).answer stDone
  | .cell _ => s.refusedReq .mgmt none a op

def fabricRequestEffect (i : Initiator) (p : Fin 16) (addr : BitVec 54) (gen : BitVec 16) (op : FabricOp) (deadline : Option (BitVec 64)) (tr : Transit) (s : State) :
    State :=
  let a := gaLocal addr.toNat
  let q := s.actsFor i p
  match i with
  | .vat v => if !(s.vat v).running then s
    else if gaDev addr.toNat ≠ s.devId then s.remoteReq i q (gaDev addr.toNat) gen.toNat a op tr
    else s.localReq i q a op (deadline.map (fun d => d.toNat)) tr
  | _ =>
    if gaDev addr.toNat ≠ s.devId then s.remoteReq i q (gaDev addr.toNat) gen.toNat a op tr
    else if i = .mgmt ∧ regionOf a = .regs then s.regReq a op
    else s.localReq i q a op (deadline.map (fun d => d.toNat)) tr

/-- FABRIC_REQUEST: a request enters the fabric for partition p, is checked once, and moves if its initiator owns the path; what it brings is in rdata, status
first. deadline is an FCLK cycle; tr says what befell it on its way (01 R20; 05 Table 5.7); gen is the generation of a remote request. A request whose path is not owned
has no effect yet. -/
def execFabricRequest (i : Initiator) (p : Fin 16) (addr : BitVec 54) (gen : BitVec 16) (op : FabricOp) (deadline : Option (BitVec 64)) (tr : Transit) (s : State) :
    Host.Outcome State Fault Refusal := .next (s.onMain (fabricRequestEffect i p addr gen op deadline tr))

/-! ### Sync-cell operations -/

/-- Operations that reach one cell in the same VCLK cycle, in the order of R97: 0 slot 0 or END, 1 M0, 2 M1, 3 scan unit, 4 walker, 5 the fabric side. -/
def inCellOrder (l : List (Fin 6 × CellOp)) : List (Nat × CellOp) :=
  ((List.range 6).map (fun c => (l.filter (fun e => e.1.val == c)).map (fun e => (c, e.2)))).flatten

def syncCellOperationEffect (v : VatNo) (k : Fin 16384) (ops : List (Fin 6 × CellOp)) (s : State) : State :=
  (inCellOrder ops).foldl (fun t c => t.cellDo v k c.1 c.2) s

/-- SYNC_CELL_OPERATION: the operations that reach cell k of Vat v in one cycle apply in their fixed order (R97). -/
def execSyncCellOperation (v : VatNo) (k : Fin 16384) (ops : List (Fin 6 × CellOp)) (s : State) : Host.Outcome State Fault Refusal :=
  .next (s.onMain (syncCellOperationEffect v k ops))

end Sys2Proof.Machine
end

