-- ==== Sys2Proof/Machine/Recorder.lean ====
section
/-! DEFINITION. The event recorder (17 R452 to R457), supply sag (R458, R459), snapshots (R460), the observation port and trace (R462 to R464), and reads of
counters and logs (00 R9). -/

namespace Sys2Proof.Machine

/-- The Rind works: supplied, with its clock, past its boot. -/
def State.rindRuns (s : State) : Bool := s.start.rind && s.rclkOn && !s.start.booting

def State.modEvr (s : State) (f : Recorder → Recorder) : State := { s with evr := f s.evr }

/-! ### Posting and flushing (R452 to R455) -/

def eventRecordPostEffect (kind : Fin 6) (code : BitVec 16) (role : Fin 4) (mbox : BitVec 8) (frame : BitVec 32) (stw : BitVec 32) (detail : BitVec 224)
    (s : State) : State :=
  if s.rindRuns then s.post kind.val code.toNat role.val mbox.toNat frame.toNat stw.toNat detail.toNat else s

/-- EVENT_RECORD_POST: a record arrives at the Rind: SEQ, OPTIME, PCYC and RCLK are assigned as it enters the buffer, a full buffer discards it and counts,
and KIND 0, 1, 4 or 2,048 unflushed records start a flush (R452, R454). -/
def execEventRecordPost (kind : Fin 6) (code : BitVec 16) (role : Fin 4) (mbox : BitVec 8) (frame : BitVec 32) (stw : BitVec 32) (detail : BitVec 224)
    (s : State) : Host.Outcome State Fault Refusal := .next (eventRecordPostEffect kind code role mbox frame stw detail s)

/-- MRAM slots. -/
def mramSlots : Nat := 131072

/-- A record into its MRAM slot: SEQ mod 131,072; a valid record there is overwritten and counted (R455). -/
def State.mramWrite (s : State) (r : EvRecord) : State :=
  let k := r.seq % mramSlots
  let a := if s.evr.mram.any (fun e => e.1 == k) then s.bump Reg.EVR_OVW_CNT else s
  let first := s.evr.mram.isEmpty
  a.modEvr (fun e => { e with
    mram := e.mram.filter (fun x => x.1 != k) ++ [(k, r)], torn := e.torn.filter (fun x => x != k),
    oldestSeq := if first then r.seq else if mramSlots ≤ (r.seq + 2 ^ 32 - e.oldestSeq) % 2 ^ 32 then (r.seq + 2 ^ 32 + 1 - mramSlots) % 2 ^ 32 else e.oldestSeq })

/-- A KIND 4 record of the Rind written directly to MRAM (R453, R458). -/
def State.mramRecord (s : State) (code detail : Nat) : State :=
  let r : EvRecord :=
    { seq := s.evr.nextSeq, optime := s.evr.optime, pcyc := s.evr.pcyc, kind := 4, code := 0x4200 + code, role := 0, mbox := 0xFF, rclk := s.rclk,
      frame := 0xFFFFFFFF, state := 0, detail := detail }
  ((s.mramWrite r).modEvr (fun e => { e with nextSeq := (e.nextSeq + 1) % 2 ^ 32 })).hostEv 4

/-- No further MRAM write starts (R459). -/
def State.nvInhibited (s : State) : Bool := bit (s.reg Reg.EVR_STATUS) 1

/-- The flush has ended: the power-fail record follows where PFW asked for it (R458). -/
def State.flushEnd (s : State) : State :=
  let a := s.modEvr (fun e => { e with flushing := false, lastFlush := s.rclk, pfRecord := none })
  match s.evr.pfRecord with
  | some d => a.mramRecord 2 d
  | none => a

def evrFlushWriteEffect (s : State) : State :=
  if !s.rindRuns ∨ !s.evr.flushing ∨ s.nvInhibited then s
  else match s.evr.buffer with
    | [] => s.flushEnd
    | r :: rest =>
      let a := (s.modEvr (fun e => { e with buffer := rest })).mramWrite r
      if rest.isEmpty then a.flushEnd else a

/-- EVR_FLUSH_WRITE: the oldest buffered record goes to its MRAM slot; the flush ends with the last (R454, R455). -/
def execEvrFlushWrite (s : State) : Host.Outcome State Fault Refusal := .next (evrFlushWriteEffect s)

def evrFlushTimerEffect (s : State) : State :=
  if s.rindRuns ∧ !s.evr.flushing ∧ s.evr.lastFlush + 400000000 ≤ s.rclk then
    s.modEvr (fun e => if e.buffer.isEmpty then { e with lastFlush := s.rclk } else { e with flushing := true })
  else s

/-- EVR_FLUSH_TIMER: 1 s after the last flush a flush starts (R454); with nothing buffered it ends at once. -/
def execEvrFlushTimer (s : State) : Host.Outcome State Fault Refusal := .next (evrFlushTimerEffect s)

/-! ### Windows (R456) -/

def evrWindowReadEffect (port : Bool) (s : State) : State :=
  let k := if port then Reg.EVR_WIN_O 7 else Reg.EVR_WIN_F 7
  let q := if port then s.evr.curO else s.evr.curF
  if port ∧ s.regBits Reg.OBS_MODE 1 0 = 0 then { s with rdata := List.replicate 8 0 }
  else { (s.coreRead k).1 with rdata := (List.range 8).map (s.windowWord q) }

/-- EVR_WINDOW_READ: the record at the cursor of window F (firmware) or O (the observation port); reading word 7 advances the cursor (R456). -/
def execEvrWindowRead (port : Bool) (s : State) : Host.Outcome State Fault Refusal := .next (evrWindowReadEffect port s)

/-! ### Supply sag (R458, R459) -/

/-- PFW is asserted. -/
def State.pfw (s : State) : Bool := bit (s.reg Reg.EVR_STATUS) 2

/-- DETAIL of the power-fail and recovery records (Table 17.20). -/
def State.supplyDetail (s : State) (low : Bool) : Nat := s.reg Reg.RIND_SUPPLY % 65536 + 65536 * b2n low

/-- Firmware hears of the warning: SHUTDOWN from IDLE, RUNNING or STOPPED, and an NVMe Flush. -/
def State.shutDown (s : State) : State :=
  if !(s.start.running && s.isOpen) then s
  else
    let a := (s.modFirm (fun f => { f with prior := s.fw })).setFw 6
    if bit (a.reg Reg.MIG_AQ_STATUS) 9 then a.modMig (fun g => { g with aqSent := g.aqSent ++ [(0xFFFFFFFF, 0, 0, none)] }) else a

def powerFailWarningEffect (low : Bool) (s : State) : State :=
  if !s.rindRuns ∨ s.pfw then s
  else ((s.setRegBit Reg.EVR_STATUS 2).modEvr (fun e => { e with flushing := true, pfRecord := some (s.supplyDetail low) })).shutDown

/-- POWER_FAIL_WARNING: PWR_FAIL_N low for 1 us (low) or VIN_R below its warning threshold: a flush starts that ends with a power-fail record, and firmware
enters SHUTDOWN (R458). -/
def execPowerFailWarning (low : Bool) (s : State) : Host.Outcome State Fault Refusal := .next (powerFailWarningEffect low s)

def powerFailRecoveryEffect (s : State) : State :=
  if !s.rindRuns ∨ !s.pfw ∨ s.nvInhibited then s
  else
    let a := s.setReg Reg.EVR_STATUS (putBit (s.reg Reg.EVR_STATUS) 2 false)
    let b := if a.fw = 6 then a.setFw a.firm.prior else a
    b.postRd 4 0x4203 (b.supplyDetail false)

/-- POWER_FAIL_RECOVERY: the warning has been clear for 10 ms without NV-inhibit: firmware returns to the state before SHUTDOWN and a recovery record is
posted (R458, Table 17.7). -/
def execPowerFailRecovery (s : State) : Host.Outcome State Fault Refusal := .next (powerFailRecoveryEffect s)

def nvInhibitEffect (s : State) : State := if s.rindRuns then s.setRegBit Reg.EVR_STATUS 1 else s

/-- NV_INHIBIT: VIN_R below the inhibit threshold: no MRAM write and no Aquifer write starts until a cold reset (R459). -/
def execNvInhibit (s : State) : Host.Outcome State Fault Refusal := .next (nvInhibitEffect s)

/-! ### Snapshots (R460) -/

def snapshotTriggerEffect (sources : BitVec 5) (s : State) : State := if sources = 0 then s else s.snapshotFire sources.toNat

/-- SNAPSHOT_TRIGGER: the global trigger with the sources active in its cycle (R460). -/
def execSnapshotTrigger (sources : BitVec 5) (s : State) : Host.Outcome State Fault Refusal := .next (s.onMain (snapshotTriggerEffect sources))

def snapInEdgeEffect (s : State) : State := s.snapshotFire 16

/-- SNAP_IN_EDGE: SNAP_IN has risen and stayed high for 20 ns (R460, bit 4). -/
def execSnapInEdge (s : State) : Host.Outcome State Fault Refusal := .next (s.onMain snapInEdgeEffect)

def snapshotCompareInstantEffect (s : State) : State :=
  if s.snapCmp ∧ bit (s.reg Reg.SNP_CTRL) 2 ∧ s.reached (toInt 64 (s.reg Reg.SNP_CMP_T)) then ({ s with snapCmp := false }).snapshotFire 1 else s

/-- SNAPSHOT_COMPARE_INSTANT: device time reaches SNP_CMP_T while CMP_EN is set, once for each instant written (R460, bit 0). -/
def execSnapshotCompareInstant (s : State) : Host.Outcome State Fault Refusal := .next (s.onMain snapshotCompareInstantEffect)

/-! ### The observation port and trace (R462, R464) -/

/-- What an address with no register of its own reads: the high word captured with the 64-bit register below it, else 0. -/
def State.highAt (s : State) (k : Nat) : Nat :=
  if (match rowAt (k - 4) with | some r => decide (4 ≤ k) && r.width == 64 | none => false) then s.obs.high else 0

/-- A read at key k where the row o lies. -/
def State.portAt (s : State) (k : Nat) (o : Option RegRow) : State × Nat :=
  match o with
  | some r =>
    let q := s.coreRead k
    if r.width = 64 then ({ q.1 with obs := { q.1.obs with high := q.2 / 2 ^ 32 } }, q.2 % 2 ^ 32) else (q.1, q.2 % 2 ^ 32)
  | none => (s, s.highAt k)

/-- A word address the port reads as 0: outside register space, in mode OFF, or in a block that is not assigned. -/
def State.portBlank (s : State) (a : Nat) : Bool :=
  regionOf a != .regs || s.regBits Reg.OBS_MODE 1 0 == 0 || !blockAssigned (keyBlk (keyOfAddr a))

/-- The read is counted. -/
def State.portCount (s : State) (a : Nat) : State :=
  let t := s.bump Reg.OBS_READ_CNT
  { t with obs := { t.obs with outside := regionOf a != .regs } }

/-- One 32-bit word at address a: the value and the state after. The high word of a 64-bit register is the one captured with its low word. -/
def State.portWord (s : State) (a : Nat) : State × Nat :=
  if s.portBlank a then (s.portCount a, 0) else (s.portCount a).portAt (keyOfAddr a) (rowAt (keyOfAddr a))

/-- n words from address a on. -/
def State.portWords (s : State) : Nat → Nat → State × List Nat
  | 0, _ => (s, [])
  | n + 1, a =>
    let r := s.portWord a
    let q := State.portWords r.1 n (a + 4)
    (q.1, r.2 :: q.2)

def obsReadEffect (addr : BitVec 48) (words : Nat) (s : State) : State :=
  let r := s.portWords words (addr.toNat / 4 * 4)
  { r.1 with rdata := r.2 }

/-- OBS_READ: a read transaction of the observation port: main-copy words from a 4-byte-aligned address on; in mode OFF each reads 0; side effects act at the
low word and are journaled (R462, 15 R383). -/
def execObsRead (addr : BitVec 48) (words : Nat) (s : State) : Host.Outcome State Fault Refusal := .next (s.onMain (obsReadEffect addr words))

def obsStatusEffect (s : State) : State := { s with rdata := [1 + 2 * b2n (s.regBits Reg.OBS_MODE 1 0 == 0) + 4 * b2n s.obs.outside] }

/-- OBS_STATUS: ready, mode OFF, and whether the last address lay outside register space (R462). -/
def execObsStatus (s : State) : Host.Outcome State Fault Refusal := .next (s.onMain obsStatusEffect)

def obsTrcPopEffect (s : State) : State := { s.popTrace with rdata := [s.readReg Reg.OBS_TRC_POP0] }

/-- OBS_TRC_POP: with PINS = 0 a read of OBS_TRC_POP0 returns bytes 0 to 7 of the oldest packet, pops it and latches its other half; 0 when empty (R464). -/
def execObsTrcPop (s : State) : Host.Outcome State Fault Refusal := .next (s.onMain obsTrcPopEffect)

/-! ### Counters and logs (00 R9) -/

def counterReadClearEffect (addr : BitVec 48) (s : State) : State :=
  if regionOf addr.toNat = .regs then (let r := s.mgmtRead addr.toNat; { r.1 with rdata := [r.2] }) else s

/-- COUNTER_READ_CLEAR: a read of an RC register by the management processor returns its value and clears it (00 R9; 01 R39; 15 R383). -/
def execCounterReadClear (addr : BitVec 48) (s : State) : Host.Outcome State Fault Refusal := .next (s.onMain (counterReadClearEffect addr))

def logReadAdvanceEffect (addr : BitVec 48) (s : State) : State :=
  if regionOf addr.toNat = .regs then (let r := s.mgmtRead addr.toNat; { r.1 with rdata := [r.2] }) else s

/-- LOG_READ_ADVANCE: a read of an RA register by the management processor returns the oldest entry and takes it (00 R9; 01 R39; 15 R383). -/
def execLogReadAdvance (addr : BitVec 48) (s : State) : Host.Outcome State Fault Refusal := .next (s.onMain (logReadAdvanceEffect addr))

end Sys2Proof.Machine
end

