-- ==== Sys2Proof/Machine/Startup.lean ====
section
/-! DEFINITION. Start-up, resets and the pins and supplies behind them (18 R467 to R488; 19 R499 to R506; 01 R42). The main complex is held in reset while
start.step is 1. -/

namespace Sys2Proof.Machine

def State.modStart (s : State) (f : Startup → Startup) : State := { s with start := f s.start }

/-! ### What a reset of the main complex keeps (R486, Table 18.6) -/

/-- Registers that keep their values: those of the Rind, and at a warm reset the timebase's, the snapshots, and what Lake and Reservoir training left. -/
def keepsReg (warm : Bool) (k : Nat) : Bool :=
  decide (0x40 ≤ keyBlk k) || (warm && (keyBlk k == 0xB || keyBlk k == 0x11 || decide (0xF0000 ≤ keyOff k) ||
    k == Reg.MIG_RES_CFG || k == Reg.MIG_RES_FRAMES || (List.range 4).any (fun i => k == Reg.LAKE_STATUS i)))

/-- An address of Lake. -/
def inLake (a : Nat) : Bool := decide (a < 0x1800000000)

/-- The register file after a reset. -/
def State.keptRegs (s : State) (warm : Bool) : List (Nat × Nat) :=
  let base := State.reset.regs.filter (fun e => !keepsReg warm e.1)
  let m := (s.regs.filter (fun e => keepsReg warm e.1)).foldl (fun r e => mapSet 0 r e.1 e.2) base
  if warm && bit (s.reg Reg.MIG_STATUS) 2 then mapSet 0 m Reg.MIG_STATUS 4 else m

/-- The main complex as a reset leaves it, held (step 1) or at the boot ROM (step 2); the Rind, fuses, SPI NOR and pins stay as they are. The doubt aggregator
drives DL_P = DL_N = 0 until step 2 ends (R483). -/
def State.resetImage (s : State) (warm : Bool) (step knd : Nat) : State :=
  let z := State.reset
  let a : State := { z with
    pending := s.pending, free := s.free, rdata := s.rdata, msix := s.msix, keep := s.keep,
    rclkOn := s.rclkOn, rphase := s.rphase, rclk := s.rclk, evr := s.evr, auth := s.auth, safe := s.safe, fbx := s.fbx, wd := s.wd,
    regs := s.keptRegs warm, logs := s.logs.filter (fun e => decide (0x40 ≤ keyBlk e.1)),
    line := { s.line with dlP := false, dlN := false, toSend := [] },
    tick := if warm then s.tick else 0, mainClk := warm && s.mainClk, tb := if warm then s.tb else z.tb,
    mem := if warm then s.mem.filter (fun e => inLake e.1) else [],
    poison := if warm then s.poison.filter inLake else [], upset := if warm then s.upset.filter inLake else [],
    mig := if warm then { z.mig with bad := s.mig.bad, rmem := s.mig.rmem, refreshed := s.mig.refreshed } else z.mig,
    pwr := if warm then { z.pwr with periods := s.fclk / 50000 } else z.pwr,
    start := { s.start with
      step := step, running := false, hold := 0, kind := knd, resetAt := none,
      release := if warm then s.fclk else 0, hostWait := false, empties := none, phases := [], pll := warm && s.start.pll } }
  let b := if warm then a else a.setReg Reg.EVR_STATUS (putBit (a.reg Reg.EVR_STATUS) 1 false)
  b.setRegBits Reg.MBX_STATE 17 16 b.keep.lifecycle

/-- The kind whose steps run when a reset of kind k begins: the larger of the two while start-up has not ended (R488). -/
def State.largerKind (s : State) (k : Nat) : Nat := if s.start.step < 8 then max k s.start.kind else k

/-- A cold reset that something holds. -/
def State.holdReset (s : State) : State := s.resetImage false 1 (s.largerKind 2)

/-- A pin, a supply or the Rind holds the main complex (R467). -/
def State.held (s : State) : Bool := s.start.mcRst || s.start.resetN || s.start.railBad || !s.start.rind || s.start.booting

/-! ### The Rind (R467, R468; 17 R453; 19 R501, R506) -/

/-- Offsets of the regions of SPI NOR that the integrator programs (Table 18.3), the key store aside. -/
def norRegions : List Nat := [0, 0x100000, 0x900000, norConfig, norTable]

def rindPowerOnEffect (flash : List (Nat × List Byte)) (s : State) : State :=
  let z := State.reset
  let a := (flash.filter (fun e => norRegions.contains e.1)).foldl (fun t e => t.setNor e.1 e.2) s
  let b : State := { a with
    evr := { z.evr with mram := s.evr.mram, torn := s.evr.torn, nextSeq := s.evr.nextSeq, optime := s.evr.optime, pcyc := s.evr.pcyc },
    fbx := z.fbx, wd := z.wd, auth := .fallback, safe := false, line := z.line, rclkOn := true, rclk := 0, rphase := 0,
    regs := z.regs, logs := [],
    start := { s.start with mcRst := true, rind := true, booting := true } }
  b.resetImage false 1 3

/-- RIND_POWER_ON: VIN_R rises through its power-on level: the Rind and the main complex are reset, the Rind's boot begins, and MC_RST is asserted (R467, R468).
flash is what the integrator has programmed into SPI NOR while the device was off, by offset. -/
def execRindPowerOn (flash : List (Nat × List Byte)) (s : State) : Host.Outcome State Fault Refusal := .next (rindPowerOnEffect flash s)

/-- The MRAM scan (17 R453, R455): slots that are torn are skipped; SEQ goes on after the highest, OPTIME is the highest, PCYC the highest and one. -/
def State.scanMram (s : State) (torn : List Nat) : State :=
  let bad := torn.foldl (fun l k => setInsert l (k % mramSlots)) s.evr.torn
  let l := s.evr.mram.filter (fun e => !bad.contains e.1)
  let top := fun (f : EvRecord → Nat) => (l.map (fun e => f e.2)).foldl max 0
  let next := if l.isEmpty then 0 else (top (fun r => r.seq) + 1) % 2 ^ 32
  let held := l.filter (fun e => decide (top (fun r => r.seq) < e.2.seq + mramSlots))
  s.modEvr (fun e => { e with
    mram := l, torn := bad, nextSeq := next, oldestSeq := (held.map (fun e => e.2.seq)).foldl min next,
    optime := top (fun r => r.optime), optimeRclk := s.rclk,
    pcyc := if l.isEmpty then 1 else min (top (fun r => r.pcyc) + 1) 0xFFFFFF, lastFlush := s.rclk })

def rindBootEndEffect (fail : Bool) (torn : List Nat) (s : State) : State :=
  if !s.start.booting then s
  else
    let a := s.scanMram torn
    let b := a.mramRecord 1 (a.evr.pcyc + 2 ^ 32 * (a.evr.torn.length % 2 ^ 32))
    if fail then (b.modStart (fun x => { x with booting := false })).enterSafe
    else b.modStart (fun x => { x with booting := false, mcRst := false })

/-- RIND_BOOT_END: the scan and the boot record are done; MC_RST is released, or where the SRAM test or a compare lane failed (fail) the Rind is in SAFE and keeps
it asserted (R468). torn are slots whose CRC fails. -/
def execRindBootEnd (fail : Bool) (torn : List Nat) (s : State) : Host.Outcome State Fault Refusal := .next (rindBootEndEffect fail torn s)

def rindSupplyLossEffect (s : State) : State := { s with rclkOn := false, start := { s.start with rind := false } }

/-- RIND_SUPPLY_LOSS: VIN_R below the minimum operating level: the Rind stops and drives no line (19 R501). -/
def execRindSupplyLoss (s : State) : Host.Outcome State Fault Refusal := .next (rindSupplyLossEffect s)

def rindXtalStopEffect (s : State) : State := { s with rclkOn := false }

/-- RIND_XTAL_STOP: the crystal stops and RCLK with it (19 R506). -/
def execRindXtalStop (s : State) : Host.Outcome State Fault Refusal := .next (rindXtalStopEffect s)

/-- The level of DOUBT_OUT is low: the Rind works, has MAIN and is not in SAFE (19 R504). -/
def State.doubtOutLow (s : State) : Bool := s.rindRuns && s.auth == .main && !s.safe

/-! ### Resets of the main complex (R467, R482 to R488; 19 R499; 01 R42) -/

def mcResetReleaseEffect (s : State) : State :=
  if s.start.step ≠ 1 ∨ s.held ∨ !s.start.refclk then s
  else
    let a := s.resetImage false 2 s.start.kind
    { a with mainClk := true, start := { a.start with pll := true } }

/-- MC_RESET_RELEASE: nothing holds the main complex any more and REFCLK runs: it leaves reset, the root PLL locks, and step 2 begins (R467, R470). What was
done to it while it was held is lost. -/
def execMcResetRelease (s : State) : Host.Outcome State Fault Refusal := .next (mcResetReleaseEffect s)

def resetNAssertEffect (low : Bool) (s : State) : State :=
  let a := s.modStart (fun x => { x with resetN := low })
  if low && !s.start.resetN then a.holdReset else a

/-- RESET_N_ASSERT: RESET_N has been low for 1 us or more (low), which begins a cold reset and holds it, or is high again (R467, R482). -/
def execResetNAssert (low : Bool) (s : State) : Host.Outcome State Fault Refusal := .next (resetNAssertEffect low s)

def railPowerGoodLossEffect (bad : Bool) (s : State) : State :=
  let a := s.modStart (fun x => { x with railBad := bad })
  if bad && !s.start.railBad then a.holdReset else a

/-- RAIL_POWER_GOOD_LOSS: a rail has been below power-good for 2 us (bad), which holds the main complex in reset, or every rail is good again (19 R499). -/
def execRailPowerGoodLoss (bad : Bool) (s : State) : Host.Outcome State Fault Refusal := .next (railPowerGoodLossEffect bad s)

def rootPllLossEffect (refclk : Bool) (s : State) : State :=
  { s.setReg Reg.CLK_STATUS (2 * b2n refclk) with mainClk := false, start := { s.start with pll := false, refclk := refclk } }

/-- ROOT_PLL_LOSS: the root PLL loses lock and every main-complex clock stops; refclk tells whether REFCLK is present (01 R42, 19 R505). -/
def execRootPllLoss (refclk : Bool) (s : State) : Host.Outcome State Fault Refusal := .next (rootPllLossEffect refclk s)

def resetBeginEffect (s : State) : State :=
  match s.start.resetAt with
  | some (t, k) =>
    if s.fclk < t ∨ !s.mainClk then s
    else
      let kind := s.largerKind k
      if kind = 1 then s.resetImage true 2 1
      else
        let a := s.resetImage false 2 kind
        { a with mainClk := true, start := { a.start with pll := true } }
  | none => s

/-- RESET_BEGIN: 1 ms after its command a warm or cold reset begins; nothing holds it, and step 2 follows (R482, R486, R488). -/
def execResetBegin (s : State) : Host.Outcome State Fault Refusal := .next (resetBeginEffect s)

/-- The authority is MAIN and an axis of the loop engine is not DISABLED (R484). -/
def State.axesBusy (s : State) : Bool := s.auth == .main && s.lp.axes.any (fun x => x.st != 0)

/-- A warm or cold reset commanded: DONE, and the reset 1 ms later; of two that wait the earlier time and the larger kind count (log entry 49). -/
def State.commandReset (s : State) (m kind : Nat) : State :=
  if s.axesBusy then s.conflict m 9 0
  else
    let a := s.finish m stDone 0 []
    a.modStart (fun x => { x with resetAt := (match x.resetAt with | some (t, k) => some (t, max k kind) | none => some (s.fclk + 1000000, kind)) })

/-- The mailbox's command is a RESET of kind k; the warm row also serves kinds that do not exist. -/
def State.resetKind (s : State) (m k : Nat) : Bool :=
  let x := s.arg m 0 4
  x == k || (k == 1 && (x == 0 || decide (3 < x)))

def State.openOrStarting (s : State) : Bool := s.fwIn [1, 2, 3, 4]

def resetWarmEffect (m : Fin 16) (s : State) : State :=
  if !s.resetKind m.val 1 then s
  else s.serve m.val 0x20A (fun _ => .installer) State.openOrStarting (fun t =>
    if t.arg m.val 0 4 = 1 then t.commandReset m.val 1 else t.finish m.val stBadArg 0 [])

/-- RESET_WARM: RESET kind 1 (R482, R484); a kind that Table 17.8 does not have ends with BAD_ARG. -/
def execResetWarm (m : Fin 16) (s : State) : Host.Outcome State Fault Refusal := .next (s.onMain (resetWarmEffect m))

def resetColdEffect (m : Fin 16) (s : State) : State :=
  if !s.resetKind m.val 2 then s
  else s.serve m.val 0x20A (fun _ => .installer) State.openOrStarting (fun t => t.commandReset m.val 2)

/-- RESET_COLD: RESET kind 2 (R482, R484). -/
def execResetCold (m : Fin 16) (s : State) : Host.Outcome State Fault Refusal := .next (s.onMain (resetColdEffect m))

/-- The target of a partition reset has LC work that MAIN protects (R484). -/
def State.resetsLC (s : State) (form target : Nat) : Bool :=
  if form = 0 then (List.range s.slotCount).any (fun n => eType (s.entry n target) == 1)
  else (List.range (tPartCount s.table)).any (fun i => fieldLE (partDesc s.table i) 0 1 == target && fieldLE (partDesc s.table i) 1 1 == 0)

def resetPartitionEffect (m : Fin 16) (s : State) : State :=
  if !s.resetKind m.val 3 then s
  else s.serve m.val 0x20A (fun _ => .installer) State.openOrStarting (fun t =>
    let b := t.arg m.val 4 1
    let form := b / 128
    let target := b % 16
    if !t.tableValid ∨ !t.frt.resets.isEmpty then t.conflict m.val 2 0
    else if (form = 0 ∧ 7 < target) ∨ (form = 1 ∧ (partOf t.table target).isNone) then t.finish m.val stBadArg 0 []
    else if t.auth = .main ∧ t.resetsLC form target then t.conflict m.val 2 target
    else
      let r : PartReset := ⟨form, target, if form = 0 then [target] else [], none, some m.val⟩
      let u := t.accept m.val [form, target] [] none
      { u with frt := { u.frt with resets := u.frt.resets ++ [r] } })

/-- RESET_PARTITION: RESET kind 3 of a Vat or a partition; it begins at the next slot boundary and ends with DONE (R484, R485). -/
def execResetPartition (m : Fin 16) (s : State) : Host.Outcome State Fault Refusal := .next (s.onMain (resetPartitionEffect m))

/-! ### Firmware images (R473, R474) -/

/-- Start-up stops at the present step (R471). -/
def State.startHold (s : State) (cause obj : Nat) : State :=
  (s.postHd 4 4 (s.start.step + 2 ^ 8 * cause + 2 ^ 32 * (obj % 2 ^ 32))).modStart (fun x => { x with hold := cause })

/-- The image l runs. -/
def State.startImage (s : State) (l : List Byte) : State :=
  (((s.modFirm (fun f => { f with ver := fieldLE l 4 2, build := fieldLE l 8 4 })).modStart (fun x => { x with running := true, hostWait := false }))).syncState.drain

/-- The boot ROM looks for an image: the active slot, the other slot, the host (R473). -/
def State.bootRom (s : State) : State :=
  let a := s.activeSlot
  let la := s.nor (slotOffset a)
  let lb := s.nor (slotOffset (1 - a))
  let ra := s.imageRefused la
  let rb := s.imageRefused lb
  if ra = 0 then s.startImage la
  else
    let t := s.postHd 4 5 (a + 2 ^ 8 * ra)
    if rb = 0 then t.startImage lb
    else if s.keep.bootHost then t.modStart (fun x => { x with hostWait := true })
    else if ra = 2 then t.startHold 2 a
    else if rb = 2 then t.startHold 2 (1 - a)
    else t.startHold 3 0

def bootPushEffect (data : List Byte) (s : State) : State :=
  if s.start.running ∨ !s.start.hostWait ∨ !s.firm.bells.contains 0 ∨ s.opcode 0 ≠ 0x0310 then s
  else
    let t := s.takeBell 0
    let n := t.arg 0 8 4
    let l := sized data n
    if 0x800000 < n ∨ t.imageRefused l ≠ 0 then t.finish 0 stBadArg 0 []
    else (t.finish 0 stDone 0 []).startImage l

/-- BOOT_PUSH: while it waits for the host the boot ROM copies the image and checks it: DONE and it starts, or BAD_ARG (R474). data are the bytes that host DMA finds
at the address given. -/
def execBootPush (data : List Byte) (s : State) : Host.Outcome State Fault Refusal := .next (s.onMain (bootPushEffect data))

/-! ### The start-up configuration (R475) -/

/-- Group l of a phase is staged and evaluated at once: the state after it, and whether it was applied. -/
def State.startGroup (s : State) (target : Nat) (l : List Byte) : State × Bool :=
  if fieldLE l 1 1 ≠ 0 ∨ fieldLE l 2 1 ≠ target then (s, false)
  else match s.submit l 2 with
    | .inl _ => (s, false)
    | .inr (t, id, k) =>
      match t.cg.pending.find? (fun g => g.id == id) with
      | some g =>
        let u := (t.modCg (fun c => { c with pending := c.pending.filter (fun x => x.id != id) })).evalGroup none g
        (u, u.regBits (Reg.CG_STATUS k) 2 0 == 2)
      | none => (t, false)

/-- The groups of a phase from index i on; the first that is not applied holds start-up with cause 5. -/
def State.runPhase (target : Nat) : Nat → List (List Byte) → State → State
  | _, [], s => s
  | i, l :: rest, s =>
    let r := s.startGroup target l
    if r.2 then State.runPhase target (i + 1) rest r.1 else r.1.startHold 5 i

/-- Phase p: 0 PRE, 1 POST, 2 RIND. -/
def State.phase (s : State) (p : Nat) : State := State.runPhase (if p = 2 then 1 else 0) 0 (s.start.phases.getD p []) s

/-- A RUN group as if submitted by CG_SUBMIT; one that is refused posts its record (R475). -/
def State.runRun (s : State) (l : List Byte) : State :=
  match s.submit l 2 with
  | .inl x => s.ownRecord x.1 (fieldLE l 4 4) x.2
  | .inr (t, _, _) => t

/-- The configuration is checked, or found missing in MANUFACTURE (R475). -/
def State.checkConfig (s : State) : State :=
  let good := match s.startConfig with | some c => if s.configOk c then configPhases c else none | none => none
  match good with
  | some ps => s.modStart (fun x => { x with phases := ps })
  | none => if s.keep.lifecycle = 0 then s.modStart (fun x => { x with phases := [[], [], [], []] }) else s.startHold 4 0

/-! ### The steps (R470, R476 to R481) -/

/-- The next step of this kind of start-up: a warm reset trains nothing (Table 18.5). -/
def State.nextStep (s : State) : State :=
  s.modStart (fun x => { x with step := if x.kind = 1 ∧ x.step = 3 then 5 else x.step + 1 })

/-- Step 2: image, configuration, PRE groups; with its end the doubt line shows no doubt (R483). -/
def State.endStep2 (s : State) : State :=
  let a := if s.start.running then s else s.bootRom
  if !a.start.running then a
  else
    let b := a.checkConfig
    if b.start.hold ≠ 0 then b
    else
      let c := b.phase 0
      if c.start.hold ≠ 0 then c else c.nextStep.settleDoubt

/-- Step 3: lane laneB of compare point p did not report its injection (R476). -/
def State.failStep3 (s : State) (p : Nat) (laneB : Bool) : State :=
  let core := p / 32
  let i := p / 2 % 16
  let a := (s.cmpLog core i 0 2 (if laneB then 2 else 1)).bump Reg.SAF_LANE_FAIL_CNT
  (a.raise 0x88 { (DoubtInfo.plain 0xE) with inst := i }).startHold 6 p

/-- A PRE group has written MIG_RES_CFG (R477). -/
def State.resWanted (s : State) : Bool :=
  (s.start.phases.getD 0 []).any (fun l => (groupEntries l).any (fun e => e.kind != 3 && e.key == Reg.MIG_RES_CFG))

/-- Step 4: the Lake stacks, and Reservoir where it is wanted, have trained (R477; frames by size, 05 R166). -/
def State.endStep4 (s : State) : State :=
  let a := (List.range 4).foldl (fun t k => t.setRegBit (Reg.LAKE_STATUS k) 0) s
  let b := if s.resWanted then
      (a.setReg Reg.MIG_RES_FRAMES (8192 * 2 ^ (s.regBits Reg.MIG_RES_CFG 3 2))).setReg Reg.MIG_STATUS (putBit (a.reg Reg.MIG_STATUS) 2 true)
    else a
  b.nextStep

/-- Step 5: every tested memory is zero (R478); POST groups. -/
def State.endStep5 (s : State) : State :=
  let warm := s.start.kind == 1
  let a : State := { s with
    mem := if warm then s.mem.filter (fun e => inLake e.1) else [], poison := if warm then s.poison.filter inLake else [],
    upset := if warm then s.upset.filter inLake else [], cells := [], frt := { s.frt with bankA := [], bankB := [] },
    lp := { s.lp with table := [], writes := [] }}
  let b := a.phase 1
  if b.start.hold ≠ 0 then b else b.nextStep

/-- The bytes of the empty trajectory (R479), SEQ seq. -/
def emptyTrj (seq : Nat) : List Byte :=
  let tail : List Byte := toLE 4 seq ++ toLE 2 1 ++ [2, 0, 0, 0] ++ List.replicate 42 0
  let l : List Byte := toLE 4 0x46584231 ++ toLE 4 64 ++ List.replicate 4 0 ++ tail
  toLE 4 0x46584231 ++ toLE 4 64 ++ toLE 4 (crc32c l) ++ tail

/-- A trajectory is staged and committed in Rind groups that apply at once (15 R399, 18 R480). -/
def State.pushTrj (s : State) (l : List Byte) : State :=
  let word : Nat → CEntry := fun i => ⟨2, 0, 0x300000000000 + Reg.FBX_STAGE i, fieldLE l (8 * i) 8⟩
  match s.runGroup 2 0 0 ((List.range ((l.length + 7) / 8)).map word) with
  | .inl t => t.ownWrite Reg.FBX_TRJ_COMMIT 32 1
  | .inr x => s.markRefused x.key x.err

/-- Firmware commits the empty trajectory; its SEQ is a free value, which no rule states. -/
def State.commitEmpty (s : State) : State :=
  ((s.pushTrj (emptyTrj (Config.freeWord s.free).toNat)).useFree).modStart (fun x => { x with empties := some s.rclk })

/-- Items 3 to 5 of step 7 (R479). -/
def State.askHandback (s : State) : State := ((s.ownWrite Reg.FBX_HB_REQ 32 1).commitEmpty).ownWrite Reg.FBX_HB_GO 32 1

/-- 0x92 to 0x95 in a doubt register. -/
def resetBits : Nat := 0x3C0000

/-- Step 7: the watchdog is kicked, the bits a reset leaves behind are cleared, any other latched bit holds, and handback is asked for (R479). -/
def State.handover (s : State) : State :=
  let a := s.ownWrite Reg.RIND_WDT_KICK 32 s.wd.kickExpect
  let b := if a.reg Reg.RIND_DOUBT &&& resetBits = 0 then a else a.ownWrite Reg.RIND_DOUBT 32 (a.reg Reg.RIND_DOUBT &&& resetBits)
  let c := if b.reg Reg.SAF_DOUBT &&& resetBits = 0 then b else b.ownWrite Reg.SAF_DOUBT 32 (b.reg Reg.SAF_DOUBT &&& resetBits)
  let left := c.reg Reg.RIND_DOUBT ||| c.reg Reg.SAF_DOUBT
  match (List.range 32).find? (bit left) with
  | some i => c.startHold 10 (0x80 + i)
  | none => if c.auth = .fallback then c.askHandback else c

/-- Step 6: the start-up table is validated and loaded into bank A; then step 7 begins (R479). -/
def State.endStep6 (s : State) : State :=
  let c := match s.startConfig with | some c => if s.configOk c then c else [] | none => []
  let n := fieldLE c 0x10 4
  if n = 0 then s.nextStep.handover
  else match (s.store s.loadArea (s.startTable c)).loadTable n with
    | .inl t => (frtLoadCompleteEffect t).nextStep.handover
    | .inr x => (s.store s.loadArea (s.startTable c)).startHold 9 (x.2 % 256)

/-- Step 7 ends in MAIN: RIND groups, IDLE, RUN groups (R475, R479); outside it the handover is asked for again. -/
def State.endStep7 (s : State) : State :=
  if s.auth = .main then
    let a := s.phase 2
    if a.start.hold ≠ 0 then a
    else
      let b := (a.modStart (fun x => { x with step := 8 })).setFw 2
      (s.start.phases.getD 3 []).foldl State.runRun b
  else if s.auth = .fallback then s.handover
  else s

def startupStepEndEffect (fault : Option Nat) (laneB : Bool) (s : State) : State :=
  if s.start.hold ≠ 0 ∨ !s.mainClk ∨ s.start.step < 2 ∨ 7 < s.start.step ∨ s.start.hostWait then s
  else
    match s.start.step, fault with
    | 2, _ => s.endStep2
    | 3, some p => s.failStep3 p laneB
    | 3, none => s.nextStep
    | 4, some k => s.startHold 7 k
    | 4, none => s.endStep4
    | 5, some b => s.startHold 8 b
    | 5, none => s.endStep5
    | 6, _ => s.endStep6
    | _, _ => s.endStep7

/-- STARTUP_STEP_END: the step in progress ends: the next begins, or start-up holds with one KIND 4 record (R470, R471). fault is the object of Table 18.2 that the
test or the training of steps 3 to 5 found at fault, laneB the lane of step 3. -/
def execStartupStepEnd (fault : Option Nat) (laneB : Bool) (s : State) : Host.Outcome State Fault Refusal := .next (startupStepEndEffect fault laneB s)

def emptyTrajectoryCommitEffect (s : State) : State :=
  if s.start.running ∧ s.start.empties.isSome ∧ !s.firm.relay.begun then s.commitEmpty else s

/-- EMPTY_TRAJECTORY_COMMIT: from the handover until software's first trajectory has been relayed firmware commits the empty one again (R480). -/
def execEmptyTrajectoryCommit (s : State) : Host.Outcome State Fault Refusal := .next (s.onMain emptyTrajectoryCommitEffect)

def handbackTimeoutEffect (s : State) : State :=
  let a := s.handbackLapse
  if s.mainClk ∧ a.start.step = 7 ∧ a.start.hold = 0 ∧ s.auth = .handbackPending ∧ a.auth = .fallback then a.askHandback else a

/-- HANDBACK_TIMEOUT: HB_TO_MS after the request it is cancelled (15 Table 15.5); in step 7 of start-up firmware asks again (R479). -/
def execHandbackTimeout (s : State) : Host.Outcome State Fault Refusal := .next (handbackTimeoutEffect s)

end Sys2Proof.Machine
end

