-- ==== Sys2Proof/Machine/VatControl.lean ====
section
/-! DEFINITION. Slot 0: control flow, waits, END and sync cells (03 R93 to R98). Each command carries the Vat, bits [55:0] of the slot word
and slot 15. -/

namespace Sys2Proof.Machine

/-- A branch may not stand in a delay long word or in one of the last two long words of an active loop body (03 R93). -/
def branchBarred (c : VatCore) : Bool :=
  c.branch.isSome || c.loops.any (fun l => l.last == c.pc || l.last == c.pc + 128)

/-- A branch to target is taken: two delay long words follow (03 R93). -/
def VatCore.jump (c : VatCore) (target : Nat) : VatCore := { c with branch := some ⟨2, target, true⟩ }

/-- PC + 128 * IMM24 (03 Table 3.9, BR). -/
def relTarget (c : VatCore) (w : BitVec 56) (x : W64) : Nat := (BitVec.ofNat 64 c.pc + 128 * oImm 24 w x).toNat

/-- The address a CALL pushes: the long word after the second delay long word (03 R93). A CALL leaves the loop levels open while the callee runs (03 R94). -/
def callPush (c : VatCore) (target : Nat) : Sum Nat VatCore :=
  if 16 ≤ c.rets.length then .inl fCallStack else .inr { c with branch := some ⟨2, target, false⟩, rets := (c.pc + 384) :: c.rets }

/-- A taken branch is traced (17 R464). -/
def State.traceBranch (s : State) (v : Nat) (before : State) : State :=
  match (s.vat v).core.branch, (before.vat v).core.branch with
  | some b, none => s.emit v 3 (s.vat v).core.pc b.target
  | _, _ => s

def brEffect (v : VatNo) (w : BitVec 56) (x : W64) (s : State) : State :=
  (s.issue v 0 w branchBarred (fun _ => []) (fun _ t => .inr (t.core.jump (relTarget t.core w x)))).traceBranch v s

/-- BR: branch to PC + 128 * IMM24 (03 R93). -/
def execBr (v : VatNo) (w : BitVec 56) (x : W64) (s : State) : Host.Outcome State Fault Refusal := .next (s.onMain (brEffect v w x))

def briEffect (v : VatNo) (w : BitVec 56) (s : State) : State :=
  (s.issue v 0 w branchBarred (fun _ => []) (fun _ t => .inr (t.core.jump (t.core.sreg (fld w 49 44)).toNat))).traceBranch v s

/-- BRI: branch to Pond offset s[SA] (03 R93). -/
def execBri (v : VatNo) (w : BitVec 56) (_x : W64) (s : State) : Host.Outcome State Fault Refusal := .next (s.onMain (briEffect v w))

def callEffect (v : VatNo) (w : BitVec 56) (x : W64) (s : State) : State :=
  (s.issue v 0 w branchBarred (fun _ => []) (fun _ t => callPush t.core (relTarget t.core w x))).traceBranch v s

/-- CALL: push the return address and branch as BR (03 R93). -/
def execCall (v : VatNo) (w : BitVec 56) (x : W64) (s : State) : Host.Outcome State Fault Refusal := .next (s.onMain (callEffect v w x))

def calliEffect (v : VatNo) (w : BitVec 56) (s : State) : State :=
  (s.issue v 0 w branchBarred (fun _ => []) (fun _ t => callPush t.core (t.core.sreg (fld w 49 44)).toNat)).traceBranch v s

/-- CALLI: push the return address and branch as BRI (03 R93). -/
def execCalli (v : VatNo) (w : BitVec 56) (_x : W64) (s : State) : Host.Outcome State Fault Refusal := .next (s.onMain (calliEffect v w))

def retEffect (v : VatNo) (w : BitVec 56) (s : State) : State :=
  (s.issue v 0 w branchBarred (fun _ => []) (fun _ t =>
    match t.core.rets with
    | a :: l => .inr { t.core.jump a with rets := l }
    | [] => .inl fCallStack)).traceBranch v s

/-- RET: pop the return stack and branch to the popped address (03 R93). -/
def execRet (v : VatNo) (w : BitVec 56) (_x : W64) (s : State) : Host.Outcome State Fault Refusal := .next (s.onMain (retEffect v w))

/-- The body length of a LOOP is 1 to 4,096 long words (03 R94). -/
def loopLen (w : BitVec 56) : Nat := fld w 37 24

/-- LOOP opens a level; with count 0 the body is skipped and the long word after it issues at t + 3 (03 R94). In a delay long word of a taken branch that skip takes the place
of the branch, which does not reach its target (DESIGN CHOICE, log entry 51: the spec does not say which governs). -/
def loopAct (w : BitVec 56) (x : W64) (t : Vat) : Sum Nat VatCore :=
  let c := t.core
  if 4 ≤ c.loops.length then .inl fLoop
  else
    let b := (cB c w x).toNat % 2 ^ 32
    let last := c.pc + 128 * loopLen w
    if b = 0 then .inr { c with branch := some ⟨0, last + 128, false⟩, nextIssue := t.cyc + 3 }
    else .inr { c with loops := ⟨c.pc + 128, last, b⟩ :: c.loops }

def loopEffect (v : VatNo) (w : BitVec 56) (x : W64) (s : State) : State :=
  s.issue v 0 w (fun _ => loopLen w == 0 || decide (4096 < loopLen w)) (fun _ => []) (fun _ t => loopAct w x t)

/-- LOOP: count b, body CELL long words (03 R94). -/
def execLoop (v : VatNo) (w : BitVec 56) (x : W64) (s : State) : Host.Outcome State Fault Refusal := .next (s.onMain (loopEffect v w x))

def waitcEffect (v : VatNo) (w : BitVec 56) (x : W64) (s : State) : State :=
  s.issue v 0 w (fun _ => false) (fun _ => []) (fun _ t =>
    .inr { t.core with hold := .waitc (t.cyc + 1 + (cB t.core w x).toNat % 2 ^ 24) })

/-- WAITC: the next long word issues in cycle t + 1 + b (03 R95). -/
def execWaitc (v : VatNo) (w : BitVec 56) (x : W64) (s : State) : Host.Outcome State Fault Refusal := .next (s.onMain (waitcEffect v w x))

def waitcExpiryEffect (v : VatNo) (s : State) : State :=
  match (s.vat v).core.hold with
  | .waitc n =>
    if (s.vat v).lw.isNone ∧ n ≤ (s.vat v).cyc then s.modCore v (fun c => { c with hold := .none, nextIssue := n }) else s
  | _ => s

/-- The WAITC count expires and the next long word may issue (03 R95). -/
def execWaitcExpiry (v : VatNo) (s : State) : Host.Outcome State Fault Refusal := .next (s.onMain (waitcExpiryEffect v))

def yieldEffect (v : VatNo) (w : BitVec 56) (s : State) : State :=
  s.issue v 0 w (fun _ => false) (fun _ => []) (fun u t => .inr { t.core with hold := .yield u.frt.slotStart })

/-- YIELD: suspend issue until the next slot the kernel holds (03 R95). -/
def execYield (v : VatNo) (w : BitVec 56) (_x : W64) (s : State) : Host.Outcome State Fault Refusal := .next (s.onMain (yieldEffect v w))

def yieldResumeEffect (v : VatNo) (s : State) : State :=
  match (s.vat v).core.hold with
  | .yield n =>
    if (s.vat v).lw.isNone ∧ n < s.frt.slotStart then s.modCore v (fun c => { c with hold := .none, nextIssue := (s.vat v).cyc }) else s
  | _ => s

/-- Issue resumes after a YIELD: a later slot has begun and the kernel still holds the Vat (03 R95). -/
def execYieldResume (v : VatNo) (s : State) : Host.Outcome State Fault Refusal := .next (s.onMain (yieldResumeEffect v))

def endEffect (v : VatNo) (w : BitVec 56) (s : State) : State :=
  s.issue v 0 w (fun _ => false) (fun _ => []) (fun _ t => .inr { t.core with hold := .ended none })

/-- END: issue stops (03 R96). -/
def execEnd (v : VatNo) (w : BitVec 56) (_x : W64) (s : State) : Host.Outcome State Fault Refusal := .next (s.onMain (endEffect v w))

def endDoneEffect (v : VatNo) (s : State) : State :=
  let cyc := (s.vat v).cyc
  let mine := fun (f : Flight) => f.dest == .done && !f.held && decide (f.due ≤ cyc)
  match (s.vat v).core.hold with
  | .ended (some _) =>
    if (s.vat v).core.flights.any mine then
      let a := s.modCore v (fun c => { c with flights := c.flights.filter (fun f => f.dest != .done) })
      (if (s.sliceOn v).isSome then a else a.cellDo v (kDoneCell (s.runEntry v)) 0 (.add 1)).kernelComplete v
    else s
  | _ => s

/-- Every write of the kernel is visible: SADD DONE_CELL, 1, H + 1 cycles later, once the checker has passed it; the kernel completes (03 R96, R109, 02 R55). -/
def execEndDone (v : VatNo) (s : State) : Host.Outcome State Fault Refusal := .next (s.onMain (endDoneEffect v))

/-- The sync cell an SADD or SSET names: (CELL + s[SA]) mod 16,384 (03 Table 3.9). -/
def cellIndex (c : VatCore) (w : BitVec 56) : Nat := (fld w 37 24 + (c.sreg (fld w 49 44)).toNat) % 16384

def saddEffect (v : VatNo) (w : BitVec 56) (x : W64) (s : State) : State :=
  s.issue v 0 w (fun _ => false) (fun _ => []) (fun _ t =>
    .inr (t.send t.core 0 (t.hold + 1) true (.cell (cellIndex t.core w) (.add (cB t.core w x)))))

/-- SADD: the cell gains b, held for comparison (03 R97, R109). -/
def execSadd (v : VatNo) (w : BitVec 56) (x : W64) (s : State) : Host.Outcome State Fault Refusal := .next (s.onMain (saddEffect v w x))

def ssetEffect (v : VatNo) (w : BitVec 56) (x : W64) (s : State) : State :=
  s.issue v 0 w (fun _ => false) (fun _ => []) (fun _ t =>
    .inr (t.send t.core 0 (t.hold + 1) true (.cell (cellIndex t.core w) (.set (cB t.core w x)))))

/-- SSET: the cell becomes b, held for comparison (03 R97, R109). -/
def execSset (v : VatNo) (w : BitVec 56) (x : W64) (s : State) : Host.Outcome State Fault Refusal := .next (s.onMain (ssetEffect v w x))

def srdEffect (v : VatNo) (w : BitVec 56) (s : State) : State :=
  s.issue v 0 w (fun _ => false) (fun _ => []) (fun u t =>
    .inr (t.send t.core 0 3 false (.sreg (fld w 49 44) (BitVec.ofNat 64 (u.cellSeen v (fld w 37 24))))))

/-- SRD: s[SA] = cell CELL, three cycles later (03 R97). -/
def execSrd (v : VatNo) (w : BitVec 56) (_x : W64) (s : State) : Host.Outcome State Fault Refusal := .next (s.onMain (srdEffect v w))

def swaitEffect (v : VatNo) (w : BitVec 56) (x : W64) (s : State) : State :=
  s.issue v 0 w (fun _ => false) (fun _ => []) (fun _ t =>
    .inr { t.core with
      hold := .swait (fld w 37 24) (fld w 49 47) (t.core.sreg (fld w 43 38)) (fld w 46 44) t.cyc (cB t.core w x).toNat none })

/-- SWAIT: hold issue until the cell meets COND against s[SB], or for b cycles, b as in every operation of the format: s[SB] plus the immediate or slot 15 (03 R98, Table 3.4;
log entry 21). -/
def execSwait (v : VatNo) (w : BitVec 56) (x : W64) (s : State) : Host.Outcome State Fault Refusal := .next (s.onMain (swaitEffect v w x))

/-- The wait of a SWAIT issued in cycle i ends: the cycle of the next long word, in which its predicate is there; a predicate of a cycle already begun is there at once. -/
def State.endSwait (s : State) (v pd i : Nat) (b : Bool) (next : Nat) : State :=
  s.modVat v (fun t =>
    let c := { t.core with hold := .none, nextIssue := next }
    { t with core := if next ≤ t.cyc then VatCore.land c c (.pred pd b) else { c with flights := c.flights ++ [⟨next, i, 0, false, .pred pd b⟩] } })

def swaitSatisfiedEffect (v : VatNo) (s : State) : State :=
  match (s.vat v).core.hold, s.swaitHeld v with
  | .swait _ _ _ pd i b _, some n => if b = 0 ∨ n < i + b then s.endSwait v pd i true (n + 2) else s
  | _, _ => s

/-- The SWAIT test first held in cycle c: p[PD] = 1, the next long word issues at c + 2 (03 R98). -/
def execSwaitSatisfied (v : VatNo) (s : State) : Host.Outcome State Fault Refusal := .next (s.onMain (swaitSatisfiedEffect v))

def swaitTimeoutEffect (v : VatNo) (s : State) : State :=
  let t := s.vat v
  match t.core.hold with
  | .swait _ _ _ pd i b _ =>
    let inTime := match s.swaitHeld v with | some n => decide (n < i + b) | none => false
    if b ≠ 0 ∧ i + b ≤ t.cyc ∧ !inTime then s.endSwait v pd i false (i + b + 1) else s
  | _ => s

/-- The test of a SWAIT has not held by cycle t + b - 1: p[PD] = 0, the next long word issues at t + b + 1 (03 R98). -/
def execSwaitTimeout (v : VatNo) (s : State) : Host.Outcome State Fault Refusal := .next (s.onMain (swaitTimeoutEffect v))

end Sys2Proof.Machine
end

