-- ==== Sys2Proof/Machine/VatEwp.lean ====
section
/-! DEFINITION. Slot 11: the element-wise pipeline (03 Table 3.9; 04 R127 to R133; 07 R206 to R208, R224). Each command carries the Vat, bits
[55:0] of the slot word and slot 15. -/

namespace Sys2Proof.Machine

/-! ### Fields of format E (03 Table 3.8) -/

def eVd (w : BitVec 56) : Nat := fld w 49 45
def eVa (w : BitVec 56) : Nat := fld w 44 40
def eVb (w : BitVec 56) : Nat := fld w 39 35
def eVc (w : BitVec 56) : Nat := fld w 34 30
def eSr (w : BitVec 56) : Nat := fld w 29 24
def eSub (w : BitVec 56) : Nat := fld w 23 20

/-- Reserved bits of format E for every operation but VEXT (03 Table 3.8). -/
def eIllegal (w : BitVec 56) : Bool := rsv w 19 0

/-- v[VD] = f of the three sources after lat cycles; FORMAT where SUB is not below subs. -/
def State.lanes (s : State) (v : Nat) (w : BitVec 56) (lat subs : Nat) (f : List W32 → List W32 → List W32 → List W32) : State :=
  s.issue v 11 w (fun _ => eIllegal w) (fun _ => []) (fun _ t =>
    if subs ≤ eSub w then .inl fFormat
    else .inr (t.send t.core 11 lat false (.vreg (eVd w) (f (t.core.vreg (eVa w)) (t.core.vreg (eVb w)) (t.core.vreg (eVc w))))))

/-- One function of each lane of va. -/
def lanes1 (f : W32 → W32) (a _b _c : List W32) : List W32 := a.map f
/-- One function of each pair of lanes of va and vb. -/
def lanes2 (f : W32 → W32 → W32) (a b _c : List W32) : List W32 := List.zipWith f a b
/-- One function of each three lanes. -/
def lanes3 (f : W32 → W32 → W32 → W32) (a b c : List W32) : List W32 := List.zipWith (fun g z => g z) (List.zipWith f a b) c

/-- One level of the fixed tree: op of neighbours (04 R130). -/
def pairUp (op : W32 → W32 → W32) : List W32 → List W32
  | a :: b :: l => op a b :: pairUp op l
  | l => l

/-- The result of one group of 128 lanes by seven levels (04 R130). -/
def treeOf (op : W32 → W32 → W32) (l : List W32) : W32 :=
  (pairUp op (pairUp op (pairUp op (pairUp op (pairUp op (pairUp op (pairUp op l))))))).headD 0

/-- Each of the four groups reduced, its result in every lane of the group. -/
def groups (op : W32 → W32 → W32) (a _b _c : List W32) : List W32 :=
  ((List.range 4).map (fun g => List.replicate 128 (treeOf op ((a.drop (128 * g)).take 128)))).flatten

/-- VSEL: va where the pattern of the vc lane is nonzero, else vb (04 R128). -/
def selLane (a b c : W32) : W32 := if c = 0 then b else a

/-- VQNT: 16 blocks of 32 lanes (04 R133). -/
def quantise (sub : Nat) (a b _c : List W32) : List W32 :=
  ((List.range 16).map (fun i => qntBlock sub ((a.drop (32 * i)).take 32) ((b.drop (32 * i)).take 32))).flatten

/-! ### Lane-wise operations -/

def vaddEffect (v : VatNo) (w : BitVec 56) (s : State) : State := s.lanes v w 4 16 (lanes2 fadd)

/-- VADD: v[VD] = fl32(va + vb) (04 R128), after 4 cycles. -/
def execVadd (v : VatNo) (w : BitVec 56) (_x : W64) (s : State) : Host.Outcome State Fault Refusal := .next (s.onMain (vaddEffect v w))

def vsubEffect (v : VatNo) (w : BitVec 56) (s : State) : State := s.lanes v w 4 16 (lanes2 fsub)

/-- VSUB: v[VD] = fl32(va - vb) (04 R128), after 4 cycles. -/
def execVsub (v : VatNo) (w : BitVec 56) (_x : W64) (s : State) : Host.Outcome State Fault Refusal := .next (s.onMain (vsubEffect v w))

def vmaxEffect (v : VatNo) (w : BitVec 56) (s : State) : State := s.lanes v w 4 16 (lanes2 fmax)

/-- VMAX: v[VD] = the larger, NaN if either is NaN, -0 below +0 (04 R128), after 4 cycles. -/
def execVmax (v : VatNo) (w : BitVec 56) (_x : W64) (s : State) : Host.Outcome State Fault Refusal := .next (s.onMain (vmaxEffect v w))

def vminEffect (v : VatNo) (w : BitVec 56) (s : State) : State := s.lanes v w 4 16 (lanes2 fmin)

/-- VMIN: v[VD] = the smaller, NaN if either is NaN, -0 below +0 (04 R128), after 4 cycles. -/
def execVmin (v : VatNo) (w : BitVec 56) (_x : W64) (s : State) : Host.Outcome State Fault Refusal := .next (s.onMain (vminEffect v w))

def vmulEffect (v : VatNo) (w : BitVec 56) (s : State) : State := s.lanes v w 5 16 (lanes2 fmul)

/-- VMUL: v[VD] = fl32(va * vb) (04 R128), after 5 cycles. -/
def execVmul (v : VatNo) (w : BitVec 56) (_x : W64) (s : State) : Host.Outcome State Fault Refusal := .next (s.onMain (vmulEffect v w))

def vfmaEffect (v : VatNo) (w : BitVec 56) (s : State) : State := s.lanes v w 5 16 (lanes3 ffma)

/-- VFMA: v[VD] = fl32(va * vb + vc), one rounding (04 R128), after 5 cycles. -/
def execVfma (v : VatNo) (w : BitVec 56) (_x : W64) (s : State) : Host.Outcome State Fault Refusal := .next (s.onMain (vfmaEffect v w))

def vexp2Effect (v : VatNo) (w : BitVec 56) (s : State) : State := s.lanes v w 8 16 (lanes1 fexp2)

/-- VEXP2: v[VD] = 2^va (04 R129, Table 4.4), after 8 cycles. -/
def execVexp2 (v : VatNo) (w : BitVec 56) (_x : W64) (s : State) : Host.Outcome State Fault Refusal := .next (s.onMain (vexp2Effect v w))

def vlog2Effect (v : VatNo) (w : BitVec 56) (s : State) : State := s.lanes v w 8 16 (lanes1 flog2)

/-- VLOG2: v[VD] = log2 va (04 R129, Table 4.4), after 8 cycles. -/
def execVlog2 (v : VatNo) (w : BitVec 56) (_x : W64) (s : State) : Host.Outcome State Fault Refusal := .next (s.onMain (vlog2Effect v w))

def vrcpEffect (v : VatNo) (w : BitVec 56) (s : State) : State := s.lanes v w 9 16 (lanes1 frcp)

/-- VRCP: v[VD] = 1 / va (04 R129, Table 4.4), after 9 cycles. -/
def execVrcp (v : VatNo) (w : BitVec 56) (_x : W64) (s : State) : Host.Outcome State Fault Refusal := .next (s.onMain (vrcpEffect v w))

def vrsqEffect (v : VatNo) (w : BitVec 56) (s : State) : State := s.lanes v w 9 16 (lanes1 frsq)

/-- VRSQ: v[VD] = 1 / sqrt va (04 R129, Table 4.4), after 9 cycles. -/
def execVrsq (v : VatNo) (w : BitVec 56) (_x : W64) (s : State) : Host.Outcome State Fault Refusal := .next (s.onMain (vrsqEffect v w))

def vsigEffect (v : VatNo) (w : BitVec 56) (s : State) : State := s.lanes v w 11 16 (lanes1 fsig)

/-- VSIG: v[VD] = 1 / (1 + e^-va) (04 R129, Table 4.4), after 11 cycles. -/
def execVsig (v : VatNo) (w : BitVec 56) (_x : W64) (s : State) : Host.Outcome State Fault Refusal := .next (s.onMain (vsigEffect v w))

def vtanhEffect (v : VatNo) (w : BitVec 56) (s : State) : State := s.lanes v w 11 16 (lanes1 ftanh)

/-- VTANH: v[VD] = tanh va (04 R129, Table 4.4), after 11 cycles. -/
def execVtanh (v : VatNo) (w : BitVec 56) (_x : W64) (s : State) : Host.Outcome State Fault Refusal := .next (s.onMain (vtanhEffect v w))

def vcvtEffect (v : VatNo) (w : BitVec 56) (s : State) : State := s.lanes v w 3 8 (lanes1 (cvtLane (eSub w)))

/-- VCVT: v[VD] = the conversion SUB of each lane of va (04 R131, Table 4.5), after 3 cycles. -/
def execVcvt (v : VatNo) (w : BitVec 56) (_x : W64) (s : State) : Host.Outcome State Fault Refusal := .next (s.onMain (vcvtEffect v w))

def vsclEffect (v : VatNo) (w : BitVec 56) (s : State) : State := s.lanes v w 4 3 (lanes2 (sclLane (eSub w)))

/-- VSCL: v[VD] = x * 2^e * vb of each coded lane of va (04 R132), after 4 cycles. -/
def execVscl (v : VatNo) (w : BitVec 56) (_x : W64) (s : State) : Host.Outcome State Fault Refusal := .next (s.onMain (vsclEffect v w))

def vqntEffect (v : VatNo) (w : BitVec 56) (s : State) : State := s.lanes v w 6 5 (quantise (eSub w))

/-- VQNT: v[VD] = coded lanes of va * vb by blocks of 32 (04 R133, Table 4.6), after 6 cycles. -/
def execVqnt (v : VatNo) (w : BitVec 56) (_x : W64) (s : State) : Host.Outcome State Fault Refusal := .next (s.onMain (vqntEffect v w))

def vrmaxEffect (v : VatNo) (w : BitVec 56) (s : State) : State := s.lanes v w 12 16 (groups fmax)

/-- VRMAX: v[VD] = the maximum of each 128-lane group in every lane of it (04 R130), after 12 cycles. -/
def execVrmax (v : VatNo) (w : BitVec 56) (_x : W64) (s : State) : Host.Outcome State Fault Refusal := .next (s.onMain (vrmaxEffect v w))

def vrsumEffect (v : VatNo) (w : BitVec 56) (s : State) : State := s.lanes v w 12 16 (groups fadd)

/-- VRSUM: v[VD] = the sum of each 128-lane group in every lane of it (04 R130), after 12 cycles. -/
def execVrsum (v : VatNo) (w : BitVec 56) (_x : W64) (s : State) : Host.Outcome State Fault Refusal := .next (s.onMain (vrsumEffect v w))

def vselEffect (v : VatNo) (w : BitVec 56) (s : State) : State := s.lanes v w 2 16 (lanes3 selLane)

/-- VSEL: v[VD] = va where the vc lane is nonzero, else vb (04 R128), after 2 cycles. -/
def execVsel (v : VatNo) (w : BitVec 56) (_x : W64) (s : State) : Host.Outcome State Fault Refusal := .next (s.onMain (vselEffect v w))

/-! ### Broadcast and extract -/

def vbcEffect (v : VatNo) (w : BitVec 56) (s : State) : State :=
  s.issue v 11 w (fun _ => eIllegal w) (fun _ => []) (fun _ t =>
    .inr (t.send t.core 11 2 false (.vreg (eVd w) (List.replicate 512 ((t.core.sreg (eSr w)).setWidth 32)))))

/-- VBC: every lane of v[VD] = the low 32 bits of s[SR], after 2 cycles (03 Table 3.9). -/
def execVbc (v : VatNo) (w : BitVec 56) (_x : W64) (s : State) : Host.Outcome State Fault Refusal := .next (s.onMain (vbcEffect v w))

/-- The lane of a VEXT: IMM16, or slot 15 (03 R87, Table 3.8). -/
def extLane (w : BitVec 56) (x : W64) : Nat := if oX w then x.toNat else fld w 15 0

def vextEffect (v : VatNo) (w : BitVec 56) (x : W64) (s : State) : State :=
  s.issue v 11 w (fun _ => rsv w 19 16 || rsv w 15 9 || decide (511 < extLane w x)) (fun _ => []) (fun _ t =>
    .inr (t.send t.core 11 3 false (.sreg (eSr w) (((t.core.vreg (eVa w)).getD (extLane w x) 0).setWidth 64))))

/-- VEXT: s[SR] = one lane of v[VA], zero-extended, after 3 cycles; a lane above 511 is ILLEGAL (03 Tables 3.9, 3.10). -/
def execVext (v : VatNo) (w : BitVec 56) (x : W64) (s : State) : Host.Outcome State Fault Refusal := .next (s.onMain (vextEffect v w x))

/-! ### VSMX (07 R206 to R208, R224). SUB 4 to 15 fault with FORMAT; a word whose SUB is that of another step is not this command. -/

def negInf : W32 := 0xFF800000#32
def posInf : W32 := 0x7F800000#32

/-- A key word and a query word mask their lane (07 R207, Table 7.4). -/
def masked (k q : Nat) : Bool :=
  k == 0xFFFFFFFF || q == 0xFFFFFFFF || decide (q % 2 ^ 24 < k % 2 ^ 24) ||
    bits q 31 24 &&& (bits k 31 24 ^^^ 0xFF) != 0

/-- MASK (07 R207): lane 128 i + j becomes -inf where key word j is masked for query word i. -/
def maskLanes (a b c : List W32) : List W32 :=
  (List.range 512).map (fun n => if masked (b.getD (n % 128) 0).toNat (c.getD (n / 128 * 128) 0).toNat then negInf else a.getD n 0)

/-- EXPD (07 R206, R208). -/
def expd (a b : W32) : W32 := if a = negInf then 0 else fexp2 (fsub a b)

/-- NORM (07 R206, R208). -/
def normLane (a b : W32) : W32 := if b = posInf then 0 else fmul a b

/-- A VSMX step other than MASS: the command's own SUB, or FORMAT for SUB 4 to 15. -/
def State.smx (s : State) (v : Nat) (w : BitVec 56) (sub : Nat) (f : List W32 → List W32 → List W32 → List W32) : State :=
  if eSub w = sub ∨ 4 ≤ eSub w then s.lanes v w 14 4 f else s

def vsmxMaskEffect (v : VatNo) (w : BitVec 56) (s : State) : State := s.smx v w 0 maskLanes

/-- VSMX MASK: va with the masked lanes replaced by -inf, after 14 cycles (07 R207). -/
def execVsmxMask (v : VatNo) (w : BitVec 56) (_x : W64) (s : State) : Host.Outcome State Fault Refusal := .next (s.onMain (vsmxMaskEffect v w))

def vsmxExpdEffect (v : VatNo) (w : BitVec 56) (s : State) : State := s.smx v w 1 (lanes2 expd)

/-- VSMX EXPD: +0 where va is -inf, otherwise VEXP2(VSUB(va, vb)), after 14 cycles (07 R206, R208). -/
def execVsmxExpd (v : VatNo) (w : BitVec 56) (_x : W64) (s : State) : Host.Outcome State Fault Refusal := .next (s.onMain (vsmxExpdEffect v w))

def vsmxNormEffect (v : VatNo) (w : BitVec 56) (s : State) : State := s.smx v w 2 (lanes2 normLane)

/-- VSMX NORM: +0 where vb is +inf, otherwise VMUL(va, vb), after 14 cycles (07 R206, R208). -/
def execVsmxNorm (v : VatNo) (w : BitVec 56) (_x : W64) (s : State) : Host.Outcome State Fault Refusal := .next (s.onMain (vsmxNormEffect v w))

/-- The attention weights of a quad (07 R224). -/
def massWeights (a c : List W32) : List W32 :=
  (List.range 512).map (fun n =>
    let r := c.getD (n / 128 * 128 + 1) 0
    let x := a.getD n 0
    if r = posInf ∨ x = negInf then 0 else fmul (expd x (c.getD (n / 128 * 128) 0)) r)

/-- Column sums of the weights (07 R224). -/
def massColumn (w : List W32) (j : Nat) : W32 :=
  fadd (fadd (fadd (w.getD j 0) (w.getD (128 + j) 0)) (w.getD (256 + j) 0)) (w.getD (384 + j) 0)

/-- The Pond offset and length log of the mass array of sequence slot k; length log 0 for none, and for a slot outside the table
(DESIGN CHOICE, log entry 25). -/
def State.massArray (s : State) (v k : Nat) : Nat × Nat :=
  let wk := s.walker v
  let e := s.bytes (pondAddr v (wk.seqBase + 64 * k)) 64
  if k < wk.seqCount ∧ wk.seqBase + 64 * k + 64 ≤ pondSize then (fieldLE e 0x14 4, fieldLE e 0xC 1) else (0, 0)

/-- The updates of the mass array, in column order: Pond offset and addend (07 R224). -/
def State.massUpdates (s : State) (v : Nat) (sr : Nat) (keys weights : List W32) : List (Nat × W32) :=
  let m := s.massArray v (bits sr 8 0)
  if m.2 = 0 then []
  else (List.range 128).filterMap (fun j =>
    let k := (keys.getD j 0).toNat
    if k ≠ 0xFFFFFFFF ∧ k % 2 ^ 24 < bits sr 39 16 then some (m.1 + 4 * (k % 2 ^ 24 % 2 ^ m.2), massColumn weights j) else none)

/-- The score unit's updates, one a cycle, the last visible at t + H + 144 (03 R104, 07 R221). -/
def massAccess (c : VatCore) (cyc hold : Nat) (up : List (Nat × W32)) : VatCore :=
  c.touch cyc 8 11 (up.zipIdx.map (fun (e : (Nat × W32) × Nat) => (hold + 16 + e.2, e.1.1, 4))) true

def vsmxMassEffect (v : VatNo) (w : BitVec 56) (s : State) : State :=
  if eSub w = 3 ∨ 4 ≤ eSub w then
    s.issue v 11 w (fun _ => eIllegal w) (fun _ => []) (fun u t =>
      if 4 ≤ eSub w then .inl fFormat
      else if t.cyc < t.core.massUntil then .inl fAgBusy
      else
        let c := t.core.vreg (eVc w)
        let ws := massWeights (t.core.vreg (eVa w)) c
        let up := u.massUpdates v (t.core.sreg (eSr w)).toNat (t.core.vreg (eVb w)) ws
        if up.any (fun e => !u.pondMay v e.1 4 true) then .inl fAddr
        else
          let c1 := t.send (massAccess { t.core with massUntil := t.cyc + 128 } t.cyc t.hold up) 11 14 false (.vreg (eVd w) ws)
          .inr (t.send c1 11 (t.hold + 144) true (.mass up)))
  else s

/-- VSMX MASS: the attention weights in v[VD] after 14 cycles, their column sums added to the mass array at t + H + 144; the score unit is
occupied for 128 cycles (07 R224). -/
def execVsmxMass (v : VatNo) (w : BitVec 56) (_x : W64) (s : State) : Host.Outcome State Fault Refusal := .next (s.onMain (vsmxMassEffect v w))

end Sys2Proof.Machine
end

