-- ==== Sys2Proof/Machine/VatScalar.lean ====
section
/-! DEFINITION. Slots 1 and 2: the scalar ALUs, predicates, scalar loads and stores (03 R88, Table 3.9, R103, R109). Each command carries the
Vat, the ALU (slot 1 + alu), bits [55:0] of the slot word and slot 15. -/

namespace Sys2Proof.Machine

/-- Reserved bits of format S (03 Table 3.5). -/
def sIllegal (w : BitVec 56) : Bool := rsv w 31 16

/-- Reserved bits of a comparison, whose destination is PD (03 Table 3.5). -/
def cmpIllegal (w : BitVec 56) : Bool := rsv w 31 16 || rsv w 49 48

/-- Reserved bits of a predicate operation (03 Table 3.5). -/
def predIllegal (w : BitVec 56) : Bool := rsv w 31 16 || rsv w 49 48 || rsv w 43 42 || rsv w 37 36

/-- s[SD] = f s[SA] b after lat cycles. -/
def State.scalar (s : State) (v alu : Nat) (w : BitVec 56) (x : W64) (lat : Nat) (f : W64 → W64 → W64) : State :=
  s.issue v (1 + alu) w (fun _ => sIllegal w) (fun _ => []) (fun _ t =>
    .inr (t.send t.core (1 + alu) lat false (.sreg (fld w 49 44) (f (t.core.sreg (fld w 43 38)) (sB t.core w x)))))

/-- p[PD] = the comparison of s[SA] with b, in the next cycle. -/
def State.compare (s : State) (v alu : Nat) (w : BitVec 56) (x : W64) (k : Cmp) : State :=
  s.issue v (1 + alu) w (fun _ => cmpIllegal w) (fun _ => []) (fun _ t =>
    .inr (t.send t.core (1 + alu) 1 false (.pred (fld w 47 44) (k.test (t.core.sreg (fld w 43 38)) (sB t.core w x)))))

/-- p[PD] = p[first] op p[second], in the next cycle. -/
def State.predOp (s : State) (v alu : Nat) (w : BitVec 56) (f : Bool → Bool → Bool) : State :=
  s.issue v (1 + alu) w (fun _ => predIllegal w) (fun _ => []) (fun _ t =>
    .inr (t.send t.core (1 + alu) 1 false (.pred (fld w 47 44) (f (t.core.pred (fld w 41 38)) (t.core.pred (fld w 35 32))))))

/-- Signed minimum and maximum. -/
def sMin (a b : W64) : W64 := if a.toInt ≤ b.toInt then a else b
def sMax (a b : W64) : W64 := if a.toInt ≤ b.toInt then b else a
/-- Unsigned minimum and maximum. -/
def uMin (a b : W64) : W64 := if a.toNat ≤ b.toNat then a else b
def uMax (a b : W64) : W64 := if a.toNat ≤ b.toNat then b else a
/-- High 64 bits of the unsigned product. -/
def mulHigh (a b : W64) : W64 := BitVec.ofNat 64 (a.toNat * b.toNat / 2 ^ 64)


def addEffect (v : VatNo) (alu : Fin 2) (w : BitVec 56) (x : W64) (s : State) : State := s.scalar v alu w x 1 (fun a b => a + b)

/-- ADD: s[SD] = s[SA] + b modulo 2^64 (03 R88). -/
def execAdd (v : VatNo) (alu : Fin 2) (w : BitVec 56) (x : W64) (s : State) : Host.Outcome State Fault Refusal :=
  .next (s.onMain (addEffect v alu w x))


def subEffect (v : VatNo) (alu : Fin 2) (w : BitVec 56) (x : W64) (s : State) : State := s.scalar v alu w x 1 (fun a b => a - b)

/-- SUB: s[SD] = s[SA] - b modulo 2^64 (03 R88). -/
def execSub (v : VatNo) (alu : Fin 2) (w : BitVec 56) (x : W64) (s : State) : Host.Outcome State Fault Refusal :=
  .next (s.onMain (subEffect v alu w x))


def andEffect (v : VatNo) (alu : Fin 2) (w : BitVec 56) (x : W64) (s : State) : State := s.scalar v alu w x 1 (fun a b => a &&& b)

/-- AND: bitwise and (03 R88). -/
def execAnd (v : VatNo) (alu : Fin 2) (w : BitVec 56) (x : W64) (s : State) : Host.Outcome State Fault Refusal :=
  .next (s.onMain (andEffect v alu w x))


def orEffect (v : VatNo) (alu : Fin 2) (w : BitVec 56) (x : W64) (s : State) : State := s.scalar v alu w x 1 (fun a b => a ||| b)

/-- OR: bitwise or (03 R88). -/
def execOr (v : VatNo) (alu : Fin 2) (w : BitVec 56) (x : W64) (s : State) : Host.Outcome State Fault Refusal :=
  .next (s.onMain (orEffect v alu w x))


def xorEffect (v : VatNo) (alu : Fin 2) (w : BitVec 56) (x : W64) (s : State) : State := s.scalar v alu w x 1 (fun a b => a ^^^ b)

/-- XOR: bitwise exclusive or (03 R88). -/
def execXor (v : VatNo) (alu : Fin 2) (w : BitVec 56) (x : W64) (s : State) : Host.Outcome State Fault Refusal :=
  .next (s.onMain (xorEffect v alu w x))


def shlEffect (v : VatNo) (alu : Fin 2) (w : BitVec 56) (x : W64) (s : State) : State := s.scalar v alu w x 1 (fun a b => a <<< (b.toNat % 64))

/-- SHL: shift left by b[5:0] (03 R88). -/
def execShl (v : VatNo) (alu : Fin 2) (w : BitVec 56) (x : W64) (s : State) : Host.Outcome State Fault Refusal :=
  .next (s.onMain (shlEffect v alu w x))


def shrEffect (v : VatNo) (alu : Fin 2) (w : BitVec 56) (x : W64) (s : State) : State := s.scalar v alu w x 1 (fun a b => a >>> (b.toNat % 64))

/-- SHR: logical shift right by b[5:0] (03 R88). -/
def execShr (v : VatNo) (alu : Fin 2) (w : BitVec 56) (x : W64) (s : State) : Host.Outcome State Fault Refusal :=
  .next (s.onMain (shrEffect v alu w x))


def sarEffect (v : VatNo) (alu : Fin 2) (w : BitVec 56) (x : W64) (s : State) : State := s.scalar v alu w x 1 (fun a b => a.sshiftRight (b.toNat % 64))

/-- SAR: arithmetic shift right by b[5:0] (03 R88). -/
def execSar (v : VatNo) (alu : Fin 2) (w : BitVec 56) (x : W64) (s : State) : Host.Outcome State Fault Refusal :=
  .next (s.onMain (sarEffect v alu w x))


def minEffect (v : VatNo) (alu : Fin 2) (w : BitVec 56) (x : W64) (s : State) : State := s.scalar v alu w x 1 sMin

/-- MIN: signed minimum (03 R88). -/
def execMin (v : VatNo) (alu : Fin 2) (w : BitVec 56) (x : W64) (s : State) : Host.Outcome State Fault Refusal :=
  .next (s.onMain (minEffect v alu w x))


def maxEffect (v : VatNo) (alu : Fin 2) (w : BitVec 56) (x : W64) (s : State) : State := s.scalar v alu w x 1 sMax

/-- MAX: signed maximum (03 R88). -/
def execMax (v : VatNo) (alu : Fin 2) (w : BitVec 56) (x : W64) (s : State) : Host.Outcome State Fault Refusal :=
  .next (s.onMain (maxEffect v alu w x))


def minuEffect (v : VatNo) (alu : Fin 2) (w : BitVec 56) (x : W64) (s : State) : State := s.scalar v alu w x 1 uMin

/-- MINU: unsigned minimum (03 R88). -/
def execMinu (v : VatNo) (alu : Fin 2) (w : BitVec 56) (x : W64) (s : State) : Host.Outcome State Fault Refusal :=
  .next (s.onMain (minuEffect v alu w x))


def maxuEffect (v : VatNo) (alu : Fin 2) (w : BitVec 56) (x : W64) (s : State) : State := s.scalar v alu w x 1 uMax

/-- MAXU: unsigned maximum (03 R88). -/
def execMaxu (v : VatNo) (alu : Fin 2) (w : BitVec 56) (x : W64) (s : State) : Host.Outcome State Fault Refusal :=
  .next (s.onMain (maxuEffect v alu w x))


def mulEffect (v : VatNo) (alu : Fin 2) (w : BitVec 56) (x : W64) (s : State) : State := s.scalar v alu w x 3 (fun a b => a * b)

/-- MUL: low 64 bits of the product (03 R88). -/
def execMul (v : VatNo) (alu : Fin 2) (w : BitVec 56) (x : W64) (s : State) : Host.Outcome State Fault Refusal :=
  .next (s.onMain (mulEffect v alu w x))


def mulhuEffect (v : VatNo) (alu : Fin 2) (w : BitVec 56) (x : W64) (s : State) : State := s.scalar v alu w x 3 mulHigh

/-- MULHU: high 64 bits of the unsigned product (03 R88). -/
def execMulhu (v : VatNo) (alu : Fin 2) (w : BitVec 56) (x : W64) (s : State) : Host.Outcome State Fault Refusal :=
  .next (s.onMain (mulhuEffect v alu w x))


def cmpeqEffect (v : VatNo) (alu : Fin 2) (w : BitVec 56) (x : W64) (s : State) : State := s.compare v alu w x .eq

/-- CMPEQ: p[PD] = equality of s[SA] and b (03 R88). -/
def execCmpeq (v : VatNo) (alu : Fin 2) (w : BitVec 56) (x : W64) (s : State) : Host.Outcome State Fault Refusal :=
  .next (s.onMain (cmpeqEffect v alu w x))


def cmpltEffect (v : VatNo) (alu : Fin 2) (w : BitVec 56) (x : W64) (s : State) : State := s.compare v alu w x .lt

/-- CMPLT: p[PD] = signed less-than of s[SA] and b (03 R88). -/
def execCmplt (v : VatNo) (alu : Fin 2) (w : BitVec 56) (x : W64) (s : State) : Host.Outcome State Fault Refusal :=
  .next (s.onMain (cmpltEffect v alu w x))


def cmpltuEffect (v : VatNo) (alu : Fin 2) (w : BitVec 56) (x : W64) (s : State) : State := s.compare v alu w x .ltu

/-- CMPLTU: p[PD] = unsigned less-than of s[SA] and b (03 R88). -/
def execCmpltu (v : VatNo) (alu : Fin 2) (w : BitVec 56) (x : W64) (s : State) : Host.Outcome State Fault Refusal :=
  .next (s.onMain (cmpltuEffect v alu w x))


def pandEffect (v : VatNo) (alu : Fin 2) (w : BitVec 56) (s : State) : State := s.predOp v alu w (fun a b => a && b)

/-- PAND: p[PD] = p[first] and p[second] (03 R88). -/
def execPand (v : VatNo) (alu : Fin 2) (w : BitVec 56) (_x : W64) (s : State) : Host.Outcome State Fault Refusal :=
  .next (s.onMain (pandEffect v alu w))


def porEffect (v : VatNo) (alu : Fin 2) (w : BitVec 56) (s : State) : State := s.predOp v alu w (fun a b => a || b)

/-- POR: p[PD] = p[first] or p[second] (03 R88). -/
def execPor (v : VatNo) (alu : Fin 2) (w : BitVec 56) (_x : W64) (s : State) : Host.Outcome State Fault Refusal :=
  .next (s.onMain (porEffect v alu w))


def pxorEffect (v : VatNo) (alu : Fin 2) (w : BitVec 56) (s : State) : State := s.predOp v alu w (fun a b => a != b)

/-- PXOR: p[PD] = p[first] exclusive or p[second] (03 R88). -/
def execPxor (v : VatNo) (alu : Fin 2) (w : BitVec 56) (_x : W64) (s : State) : Host.Outcome State Fault Refusal :=
  .next (s.onMain (pxorEffect v alu w))


/-- A scalar Pond access: 8-byte aligned and inside a range of the kernel that permits it, or ADDR (03 R103). -/
def State.word8Ok (s : State) (v off : Nat) (write : Bool) : Bool := aligned off 8 && s.pondMay v off 8 write

def ldEffect (v : VatNo) (alu : Fin 2) (w : BitVec 56) (x : W64) (s : State) : State :=
  s.issue v (1 + alu) w (fun _ => sIllegal w)
    (fun c => if s.word8Ok v (sOff c w x) false then [(sOff c w x, 8)] else [])
    (fun u t =>
      let off := sOff t.core w x
      if !u.word8Ok v off false then .inl fAddr
      else if u.poisoned (pondAddr v off) 8 then .inl fPoison
      else .inr (t.send (t.core.touch t.cyc 5 (1 + alu) [(0, off, 8)] false) (1 + alu) 6 false
        (.sreg (fld w 49 44) (BitVec.ofNat 64 (u.loadLE (pondAddr v off) 8)))))

/-- LD: s[SD] = 8 bytes at Pond offset s[SA] + IMM16, six cycles later (03 R88, R103). -/
def execLd (v : VatNo) (alu : Fin 2) (w : BitVec 56) (x : W64) (s : State) : Host.Outcome State Fault Refusal :=
  .next (s.onMain (ldEffect v alu w x))

def stEffect (v : VatNo) (alu : Fin 2) (w : BitVec 56) (x : W64) (s : State) : State :=
  s.issue v (1 + alu) w (fun _ => sIllegal w) (fun _ => []) (fun u t =>
    let off := sOff t.core w x
    if !u.word8Ok v off true then .inl fAddr
    else .inr (t.send (t.core.touch t.cyc 5 (1 + alu) [(t.hold + 2, off, 8)] true) (1 + alu) (t.hold + 3) true
      (.pond off (toLE 8 (t.core.sreg (fld w 37 32)).toNat))))

/-- ST: 8 bytes at Pond offset s[SA] + IMM16 = s[SB], H + 3 cycles later, held (03 R88, R103, R109). -/
def execSt (v : VatNo) (alu : Fin 2) (w : BitVec 56) (x : W64) (s : State) : Host.Outcome State Fault Refusal :=
  .next (s.onMain (stEffect v alu w x))

def rdcEffect (v : VatNo) (alu : Fin 2) (w : BitVec 56) (s : State) : State :=
  s.issue v (1 + alu) w (fun _ => sIllegal w) (fun _ => []) (fun _ t =>
    .inr (t.send t.core (1 + alu) 1 false (.sreg (fld w 49 44) (BitVec.ofNat 64 (vatVcyc t)))))

/-- RDC: s[SD] = VCLK cycles since the first long word of the kernel (03 R83, R88). -/
def execRdc (v : VatNo) (alu : Fin 2) (w : BitVec 56) (_x : W64) (s : State) : Host.Outcome State Fault Refusal :=
  .next (s.onMain (rdcEffect v alu w))

end Sys2Proof.Machine
end

