-- ==== Sys2Proof/Machine/Dispatch.lean ====
section
/-! DEFINITION. One arm per command: the meaning of each row of the opcode table. -/

namespace Sys2Proof.Machine

def exec (i : Instr) (s : State) : Host.Outcome State Fault Refusal :=
  match i with
  | .registerWrite tag addr width value => Sys2Proof.Machine.execRegisterWrite tag addr width value s
  | .counterReadClear addr => Sys2Proof.Machine.execCounterReadClear addr s
  | .logReadAdvance addr => Sys2Proof.Machine.execLogReadAdvance addr s
  | .fabricRequest ini p addr gen op deadline transit => Sys2Proof.Machine.execFabricRequest ini p addr gen op deadline transit s
  | .syncCellOperation v k ops => Sys2Proof.Machine.execSyncCellOperation v k ops s
  | .majorFrameStart => Sys2Proof.Machine.execMajorFrameStart s
  | .slotStart => Sys2Proof.Machine.execSlotStart s
  | .lakeRefreshSubslot => Sys2Proof.Machine.execLakeRefreshSubslot s
  | .fillEntryStart v => Sys2Proof.Machine.execFillEntryStart v s
  | .cutPoint v => Sys2Proof.Machine.execCutPoint v s
  | .lcOverrun v => Sys2Proof.Machine.execLcOverrun v s
  | .frtLoadCmd value => Sys2Proof.Machine.execFrtLoadCmd value s
  | .frtLoadComplete => Sys2Proof.Machine.execFrtLoadComplete s
  | .ftSwitch => Sys2Proof.Machine.execFtSwitch s
  | .ftStop => Sys2Proof.Machine.execFtStop s
  | .opBr v w x => Sys2Proof.Machine.execBr v w x s
  | .opBri v w x => Sys2Proof.Machine.execBri v w x s
  | .opCall v w x => Sys2Proof.Machine.execCall v w x s
  | .opCalli v w x => Sys2Proof.Machine.execCalli v w x s
  | .opRet v w x => Sys2Proof.Machine.execRet v w x s
  | .opLoop v w x => Sys2Proof.Machine.execLoop v w x s
  | .opWaitc v w x => Sys2Proof.Machine.execWaitc v w x s
  | .waitcExpiry v => Sys2Proof.Machine.execWaitcExpiry v s
  | .opYield v w x => Sys2Proof.Machine.execYield v w x s
  | .yieldResume v => Sys2Proof.Machine.execYieldResume v s
  | .opEnd v w x => Sys2Proof.Machine.execEnd v w x s
  | .endDoneIncrement v => Sys2Proof.Machine.execEndDone v s
  | .opSadd v w x => Sys2Proof.Machine.execSadd v w x s
  | .opSset v w x => Sys2Proof.Machine.execSset v w x s
  | .opSrd v w x => Sys2Proof.Machine.execSrd v w x s
  | .opSwait v w x => Sys2Proof.Machine.execSwait v w x s
  | .swaitSatisfied v => Sys2Proof.Machine.execSwaitSatisfied v s
  | .swaitTimeout v => Sys2Proof.Machine.execSwaitTimeout v s
  | .opAdd v alu w x => Sys2Proof.Machine.execAdd v alu w x s
  | .opSub v alu w x => Sys2Proof.Machine.execSub v alu w x s
  | .opAnd v alu w x => Sys2Proof.Machine.execAnd v alu w x s
  | .opOr v alu w x => Sys2Proof.Machine.execOr v alu w x s
  | .opXor v alu w x => Sys2Proof.Machine.execXor v alu w x s
  | .opShl v alu w x => Sys2Proof.Machine.execShl v alu w x s
  | .opShr v alu w x => Sys2Proof.Machine.execShr v alu w x s
  | .opSar v alu w x => Sys2Proof.Machine.execSar v alu w x s
  | .opMin v alu w x => Sys2Proof.Machine.execMin v alu w x s
  | .opMax v alu w x => Sys2Proof.Machine.execMax v alu w x s
  | .opMinu v alu w x => Sys2Proof.Machine.execMinu v alu w x s
  | .opMaxu v alu w x => Sys2Proof.Machine.execMaxu v alu w x s
  | .opMul v alu w x => Sys2Proof.Machine.execMul v alu w x s
  | .opMulhu v alu w x => Sys2Proof.Machine.execMulhu v alu w x s
  | .opCmpeq v alu w x => Sys2Proof.Machine.execCmpeq v alu w x s
  | .opCmplt v alu w x => Sys2Proof.Machine.execCmplt v alu w x s
  | .opCmpltu v alu w x => Sys2Proof.Machine.execCmpltu v alu w x s
  | .opPand v alu w x => Sys2Proof.Machine.execPand v alu w x s
  | .opPor v alu w x => Sys2Proof.Machine.execPor v alu w x s
  | .opPxor v alu w x => Sys2Proof.Machine.execPxor v alu w x s
  | .opLd v alu w x => Sys2Proof.Machine.execLd v alu w x s
  | .opSt v alu w x => Sys2Proof.Machine.execSt v alu w x s
  | .opRdc v alu w x => Sys2Proof.Machine.execRdc v alu w x s
  | .opAld v ag w x => Sys2Proof.Machine.execAld v ag w x s
  | .opAset v ag w x => Sys2Proof.Machine.execAset v ag w x s
  | .opArst v ag w x => Sys2Proof.Machine.execArst v ag w x s
  | .opVld v ag w x => Sys2Proof.Machine.execVld v ag w x s
  | .opVst v ag w x => Sys2Proof.Machine.execVst v ag w x s
  | .opAskip v ag w x => Sys2Proof.Machine.execAskip v ag w x s
  | .opTwld v tile w x => Sys2Proof.Machine.execTwld v tile w x s
  | .opTmm v tile w x => Sys2Proof.Machine.execTmm v tile w x s
  | .opTrd v tile w x => Sys2Proof.Machine.execTrd v tile w x s
  | .opTclr v tile w x => Sys2Proof.Machine.execTclr v tile w x s
  | .opTlut v tile w x => Sys2Proof.Machine.execTlut v tile w x s
  | .opVadd v w x => Sys2Proof.Machine.execVadd v w x s
  | .opVsub v w x => Sys2Proof.Machine.execVsub v w x s
  | .opVmax v w x => Sys2Proof.Machine.execVmax v w x s
  | .opVmin v w x => Sys2Proof.Machine.execVmin v w x s
  | .opVmul v w x => Sys2Proof.Machine.execVmul v w x s
  | .opVfma v w x => Sys2Proof.Machine.execVfma v w x s
  | .opVexp2 v w x => Sys2Proof.Machine.execVexp2 v w x s
  | .opVlog2 v w x => Sys2Proof.Machine.execVlog2 v w x s
  | .opVrcp v w x => Sys2Proof.Machine.execVrcp v w x s
  | .opVrsq v w x => Sys2Proof.Machine.execVrsq v w x s
  | .opVsig v w x => Sys2Proof.Machine.execVsig v w x s
  | .opVtanh v w x => Sys2Proof.Machine.execVtanh v w x s
  | .opVcvt v w x => Sys2Proof.Machine.execVcvt v w x s
  | .opVscl v w x => Sys2Proof.Machine.execVscl v w x s
  | .opVqnt v w x => Sys2Proof.Machine.execVqnt v w x s
  | .opVrmax v w x => Sys2Proof.Machine.execVrmax v w x s
  | .opVrsum v w x => Sys2Proof.Machine.execVrsum v w x s
  | .opVsmxMask v w x => Sys2Proof.Machine.execVsmxMask v w x s
  | .opVsmxExpd v w x => Sys2Proof.Machine.execVsmxExpd v w x s
  | .opVsmxNorm v w x => Sys2Proof.Machine.execVsmxNorm v w x s
  | .opVsmxMass v w x => Sys2Proof.Machine.execVsmxMass v w x s
  | .opVbc v w x => Sys2Proof.Machine.execVbc v w x s
  | .opVext v w x => Sys2Proof.Machine.execVext v w x s
  | .opVsel v w x => Sys2Proof.Machine.execVsel v w x s
  | .opScnRun v w x => Sys2Proof.Machine.execScnRun v w x s
  | .opScnRunComplete v => Sys2Proof.Machine.execScnRunComplete v s
  | .opScnAnch v w x => Sys2Proof.Machine.execScnAnch v w x s
  | .opScnSave v w x => Sys2Proof.Machine.execScnSave v w x s
  | .opScnLoad v w x => Sys2Proof.Machine.execScnLoad v w x s
  | .opMpush v m w x => Sys2Proof.Machine.execMpush v m w x s
  | .opMcnt v m w x => Sys2Proof.Machine.execMcnt v m w x s
  | .opMstat v m w x => Sys2Proof.Machine.execMstat v m w x s
  | .vatFaultInStream v => Sys2Proof.Machine.execVatFaultInStream v s
  | .moverQueueEntry v m => Sys2Proof.Machine.execMoverQueueEntry v m s
  | .moverDescriptorStart v m => Sys2Proof.Machine.execMoverDescriptorStart v m s
  | .moverDescriptorEnd v m => Sys2Proof.Machine.execMoverDescriptorEnd v m s
  | .moverDeadline v m sent => Sys2Proof.Machine.execMoverDeadline v m sent s
  | .heldOutputCompare core lanes => Sys2Proof.Machine.execHeldOutputCompare core lanes s
  | .coreCheckpoint core lanes => Sys2Proof.Machine.execCoreCheckpoint core lanes s
  | .journalApply core => Sys2Proof.Machine.execJournalApply core s
  | .arrayChecksum v tile mismatch => Sys2Proof.Machine.execArrayChecksum v tile mismatch s
  | .dieCopyUpdate die => Sys2Proof.Machine.execDieCopyUpdate die s
  | .migDemandMiss => Sys2Proof.Machine.execMigDemandMiss s
  | .heldReadRelease => Sys2Proof.Machine.execHeldReadRelease s
  | .pageFillComplete link => Sys2Proof.Machine.execPageFillComplete link s
  | .aquiferReadComplete status data => Sys2Proof.Machine.execAquiferReadComplete status data s
  | .aquiferReadTimeout => Sys2Proof.Machine.execAquiferReadTimeout s
  | .aquiferLinkDown => Sys2Proof.Machine.execAquiferLinkDown s
  | .evictFrameFree => Sys2Proof.Machine.execEvictFrameFree s
  | .sramScrub m => Sys2Proof.Machine.execSramScrub m s
  | .migCmdPush value => Sys2Proof.Machine.execMigCmdPush value s
  | .migCplRead => Sys2Proof.Machine.execMigCplRead s
  | .migMap => Sys2Proof.Machine.execMigMap s
  | .migUnmap => Sys2Proof.Machine.execMigUnmap s
  | .migStage => Sys2Proof.Machine.execMigStage s
  | .migLoad => Sys2Proof.Machine.execMigLoad s
  | .migPin => Sys2Proof.Machine.execMigPin s
  | .migUnpin => Sys2Proof.Machine.execMigUnpin s
  | .migDropL => Sys2Proof.Machine.execMigDropL s
  | .migDropR => Sys2Proof.Machine.execMigDropR s
  | .migClearFault => Sys2Proof.Machine.execMigClearFault s
  | .harpArm e => Sys2Proof.Machine.execHarpArm e s
  | .harpDisarm e => Sys2Proof.Machine.execHarpDisarm e s
  | .harpRowArrival e => Sys2Proof.Machine.execHarpRowArrival e s
  | .harpOutputRow e => Sys2Proof.Machine.execHarpOutputRow e s
  | .harpFrameEnd e => Sys2Proof.Machine.execHarpFrameEnd e s
  | .harpGoldenAbandon e => Sys2Proof.Machine.execHarpGoldenAbandon e s
  | .walkerDoorbell v => Sys2Proof.Machine.execWalkerDoorbell v s
  | .walkerGather v => Sys2Proof.Machine.execWalkerGather v s
  | .walkerAppend v => Sys2Proof.Machine.execWalkerAppend v s
  | .walkerAppendCommit v => Sys2Proof.Machine.execWalkerAppendCommit v s
  | .walkerEvict v => Sys2Proof.Machine.execWalkerEvict v s
  | .swapOut v m => Sys2Proof.Machine.execSwapOut v m s
  | .swapIn v m => Sys2Proof.Machine.execSwapIn v m s
  | .init v m => Sys2Proof.Machine.execInit v m s
  | .swapOutComplete v => Sys2Proof.Machine.execSwapOutComplete v s
  | .swapInStart v => Sys2Proof.Machine.execSwapInStart v s
  | .swapInComplete v => Sys2Proof.Machine.execSwapInComplete v s
  | .csiFrameStart rx vc bad => Sys2Proof.Machine.execCsiFrameStart rx vc bad s
  | .csiPacket rx vc dt bad crcBad data => Sys2Proof.Machine.execCsiPacket rx vc dt bad crcBad data s
  | .csiFrameEnd rx vc bad => Sys2Proof.Machine.execCsiFrameEnd rx vc bad s
  | .ethRxFrame mac sfd bad frame => Sys2Proof.Machine.execEthRxFrame mac sfd bad frame s
  | .spiTrigger m cs => Sys2Proof.Machine.execSpiTrigger m cs s
  | .spiTransferEnd m cs data => Sys2Proof.Machine.execSpiTransferEnd m cs data s
  | .canRxFrame n sof ident format bad data => Sys2Proof.Machine.execCanRxFrame n sof ident format bad data s
  | .sampleEnd c => Sys2Proof.Machine.execSampleEnd c s
  | .sampleAccept => Sys2Proof.Machine.execSampleAccept s
  | .egoTick => Sys2Proof.Machine.execEgoTick s
  | .alignEval k => Sys2Proof.Machine.execAlignEval k s
  | .associationJob a => Sys2Proof.Machine.execAssociationJob a s
  | .solverJobArrive j => Sys2Proof.Machine.execSolverJobArrive j s
  | .solverJobStart => Sys2Proof.Machine.execSolverJobStart s
  | .solverIterateDone => Sys2Proof.Machine.execSolverIterateDone s
  | .solverDeadline => Sys2Proof.Machine.execSolverDeadline s
  | .solverRecordWrite => Sys2Proof.Machine.execSolverRecordWrite s
  | .planCycleStart => Sys2Proof.Machine.execPlanCycleStart s
  | .planPrecheckEnd => Sys2Proof.Machine.execPlanPrecheckEnd s
  | .planPrepEnd => Sys2Proof.Machine.execPlanPrepEnd s
  | .planSweepStart => Sys2Proof.Machine.execPlanSweepStart s
  | .planSweepEnd => Sys2Proof.Machine.execPlanSweepEnd s
  | .planRecheckEnd => Sys2Proof.Machine.execPlanRecheckEnd s
  | .planDeadline => Sys2Proof.Machine.execPlanDeadline s
  | .planRecordWrite => Sys2Proof.Machine.execPlanRecordWrite s
  | .loopRun run => Sys2Proof.Machine.execLoopRun run s
  | .loopTick => Sys2Proof.Machine.execLoopTick s
  | .loopGroupStart => Sys2Proof.Machine.execLoopGroupStart s
  | .servoCommandFrame p => Sys2Proof.Machine.execServoCommandFrame p s
  | .servoFeedbackFrame p bad frame => Sys2Proof.Machine.execServoFeedbackFrame p bad frame s
  | .feedbackCutoff p => Sys2Proof.Machine.execFeedbackCutoff p s
  | .servoLinkAlign p => Sys2Proof.Machine.execServoLinkAlign p s
  | .servoLinkDown p => Sys2Proof.Machine.execServoLinkDown p s
  | .axisEnable a => Sys2Proof.Machine.execAxisEnable a s
  | .axisDisable a => Sys2Proof.Machine.execAxisDisable a s
  | .axisClear a => Sys2Proof.Machine.execAxisClear a s
  | .loopSegSwap v => Sys2Proof.Machine.execLoopSegSwap v s
  | .loopTblDataWrite v => Sys2Proof.Machine.execLoopTblDataWrite v s
  | .tbMeasWrite theta => Sys2Proof.Machine.execTbMeasWrite theta s
  | .tbRateApply => Sys2Proof.Machine.execTbRateApply s
  | .tbRateWrite rate => Sys2Proof.Machine.execTbRateWrite rate s
  | .tbStep delta => Sys2Proof.Machine.execTbStep delta s
  | .tbServoEnable en => Sys2Proof.Machine.execTbServoEnable en s
  | .tbMeasTimeout => Sys2Proof.Machine.execTbMeasTimeout s
  | .tbHoldoverExpiry => Sys2Proof.Machine.execTbHoldoverExpiry s
  | .tbNowRead => Sys2Proof.Machine.execTbNowRead s
  | .ptpFrameRx mac sfd frame => Sys2Proof.Machine.execPtpFrameRx mac sfd frame s
  | .tsnDoorbellPoll => Sys2Proof.Machine.execTsnDoorbellPoll s
  | .tsnFrameFetch m q => Sys2Proof.Machine.execTsnFrameFetch m q s
  | .tsnFrameTxStart m => Sys2Proof.Machine.execTsnFrameTxStart m s
  | .tsnFrameLate m q => Sys2Proof.Machine.execTsnFrameLate m q s
  | .tsnFrameTxEnd m => Sys2Proof.Machine.execTsnFrameTxEnd m s
  | .tsnGclEnable m value => Sys2Proof.Machine.execTsnGclEnable m value s
  | .tsnGclTakeEffect m => Sys2Proof.Machine.execTsnGclTakeEffect m s
  | .xslPortEnable p on => Sys2Proof.Machine.execXslPortEnable p on s
  | .xslPortTrained p wire => Sys2Proof.Machine.execXslPortTrained p wire s
  | .xslPortDown p => Sys2Proof.Machine.execXslPortDown p s
  | .xslSlotFrameTx p => Sys2Proof.Machine.execXslSlotFrameTx p s
  | .xslSlotFrameRx p bad corrected frame => Sys2Proof.Machine.execXslSlotFrameRx p bad corrected frame s
  | .xslLanding p => Sys2Proof.Machine.execXslLanding p s
  | .xslFlitAge p => Sys2Proof.Machine.execXslFlitAge p s
  | .xslMessageTimeout => Sys2Proof.Machine.execXslMessageTimeout s
  | .xslTagRelease => Sys2Proof.Machine.execXslTagRelease s
  | .xslPeerTimeout d => Sys2Proof.Machine.execXslPeerTimeout d s
  | .xslGenAdvance k value => Sys2Proof.Machine.execXslGenAdvance k value s
  | .xslLostClear mask => Sys2Proof.Machine.execXslLostClear mask s
  | .doubtCodeSend => Sys2Proof.Machine.execDoubtCodeSend s
  | .doubtCodeReceive => Sys2Proof.Machine.execDoubtCodeReceive s
  | .doubtCodeTimeout => Sys2Proof.Machine.execDoubtCodeTimeout s
  | .doubtQualify => Sys2Proof.Machine.execDoubtQualify s
  | .doubtGlitch => Sys2Proof.Machine.execDoubtGlitch s
  | .doubtClear rind clear => Sys2Proof.Machine.execDoubtClear rind clear s
  | .laneInjection core checkpoint reported => Sys2Proof.Machine.execLaneInjection core checkpoint reported s
  | .pairCompare => Sys2Proof.Machine.execPairCompare s
  | .selftestSliceStart v => Sys2Proof.Machine.execSelftestSliceStart v s
  | .fbxTrjCommit v => Sys2Proof.Machine.execFbxTrjCommit v s
  | .fbxLate => Sys2Proof.Machine.execFbxLate s
  | .fbxTrackingStep => Sys2Proof.Machine.execFbxTrackingStep s
  | .fbxCommandFrame p => Sys2Proof.Machine.execFbxCommandFrame p s
  | .fbxEthSend => Sys2Proof.Machine.execFbxEthSend s
  | .fbxEndAction => Sys2Proof.Machine.execFbxEndAction s
  | .fbxHbReq v => Sys2Proof.Machine.execFbxHbReq v s
  | .fbxHbGo v => Sys2Proof.Machine.execFbxHbGo v s
  | .handbackComplete => Sys2Proof.Machine.execHandbackComplete s
  | .handbackTimeout => Sys2Proof.Machine.execHandbackTimeout s
  | .hdHeartbeat => Sys2Proof.Machine.execHdHeartbeat s
  | .hdHeartbeatMiss => Sys2Proof.Machine.execHdHeartbeatMiss s
  | .rindWdtKick v => Sys2Proof.Machine.execRindWdtKick v s
  | .watchdogMiss => Sys2Proof.Machine.execWatchdogMiss s
  | .supplyLimit rails => Sys2Proof.Machine.execSupplyLimit rails s
  | .safeFrame => Sys2Proof.Machine.execSafeFrame s
  | .powerPeriod => Sys2Proof.Machine.execPowerPeriod s
  | .multiplierApply v => Sys2Proof.Machine.execMultiplierApply v s
  | .pwrModeWrite v => Sys2Proof.Machine.execPwrModeWrite v s
  | .droopAssert v => Sys2Proof.Machine.execDroopAssert v s
  | .droopSwallowEnd v => Sys2Proof.Machine.execDroopSwallowEnd v s
  | .thermalSample temps => Sys2Proof.Machine.execThermalSample temps s
  | .regionDiffSample => Sys2Proof.Machine.execRegionDiffSample s
  | .regionSwallowEnd => Sys2Proof.Machine.execRegionSwallowEnd s
  | .energySample rails => Sys2Proof.Machine.execEnergySample rails s
  | .pwrMeterCfgWrite k v => Sys2Proof.Machine.execPwrMeterCfgWrite k v s
  | .hostDoorbell m => Sys2Proof.Machine.execHostDoorbell m s
  | .commandComplete m status data => Sys2Proof.Machine.execCommandComplete m status data s
  | .identify m => Sys2Proof.Machine.execIdentify m s
  | .getState m => Sys2Proof.Machine.execGetState m s
  | .sessionChallenge m nonce => Sys2Proof.Machine.execSessionChallenge m nonce s
  | .sessionOpen m => Sys2Proof.Machine.execSessionOpen m s
  | .sessionClose m => Sys2Proof.Machine.execSessionClose m s
  | .sessionExpiry m => Sys2Proof.Machine.execSessionExpiry m s
  | .sessionLockoutEnd m => Sys2Proof.Machine.execSessionLockoutEnd m s
  | .regRead m => Sys2Proof.Machine.execRegRead m s
  | .eventRead m => Sys2Proof.Machine.execEventRead m s
  | .snapshot m => Sys2Proof.Machine.execSnapshot m s
  | .workloadStart m => Sys2Proof.Machine.execWorkloadStart m s
  | .workloadStop m => Sys2Proof.Machine.execWorkloadStop m s
  | .imageLoad m => Sys2Proof.Machine.execImageLoad m s
  | .imageUnload m => Sys2Proof.Machine.execImageUnload m s
  | .hostDma m => Sys2Proof.Machine.execHostDma m s
  | .batchSubmit m => Sys2Proof.Machine.execBatchSubmit m s
  | .handback m => Sys2Proof.Machine.execHandback m s
  | .cgSubmit m => Sys2Proof.Machine.execCgSubmit m s
  | .cgCancel m => Sys2Proof.Machine.execCgCancel m s
  | .ftLoad m => Sys2Proof.Machine.execFtLoad m s
  | .workloadDefine m => Sys2Proof.Machine.execWorkloadDefine m s
  | .migCmd m => Sys2Proof.Machine.execMigCmd m s
  | .storeWrite m => Sys2Proof.Machine.execStoreWrite m s
  | .storeTrim m => Sys2Proof.Machine.execStoreTrim m s
  | .fbRelay m => Sys2Proof.Machine.execFbRelay m s
  | .keyAdd m => Sys2Proof.Machine.execKeyAdd m s
  | .keyRemove m => Sys2Proof.Machine.execKeyRemove m s
  | .resetWarm m => Sys2Proof.Machine.execResetWarm m s
  | .resetCold m => Sys2Proof.Machine.execResetCold m s
  | .resetPartition m => Sys2Proof.Machine.execResetPartition m s
  | .resetBegin => Sys2Proof.Machine.execResetBegin s
  | .fwStage m => Sys2Proof.Machine.execFwStage m s
  | .fwActivate m => Sys2Proof.Machine.execFwActivate m s
  | .fuseProgram m => Sys2Proof.Machine.execFuseProgram m s
  | .lifecycleAdvance m => Sys2Proof.Machine.execLifecycleAdvance m s
  | .bootPush data => Sys2Proof.Machine.execBootPush data s
  | .firmwareInternalError => Sys2Proof.Machine.execFirmwareInternalError s
  | .cgSubmitWrite value => Sys2Proof.Machine.execCgSubmitWrite value s
  | .cgCancelWrite k value => Sys2Proof.Machine.execCgCancelWrite k value s
  | .commitPoint k => Sys2Proof.Machine.execCommitPoint k s
  | .commitEvaluate bad => Sys2Proof.Machine.execCommitEvaluate bad s
  | .rindGroupApply bad => Sys2Proof.Machine.execRindGroupApply bad s
  | .eventMark value gtag => Sys2Proof.Machine.execEventMark value gtag s
  | .mbxIrqWrite value => Sys2Proof.Machine.execMbxIrqWrite value s
  | .eventRecordPost kind code role mbox frame stw detail => Sys2Proof.Machine.execEventRecordPost kind code role mbox frame stw detail s
  | .evrFlushWrite => Sys2Proof.Machine.execEvrFlushWrite s
  | .evrFlushTimer => Sys2Proof.Machine.execEvrFlushTimer s
  | .evrWindowRead port => Sys2Proof.Machine.execEvrWindowRead port s
  | .powerFailWarning low => Sys2Proof.Machine.execPowerFailWarning low s
  | .powerFailRecovery => Sys2Proof.Machine.execPowerFailRecovery s
  | .nvInhibit => Sys2Proof.Machine.execNvInhibit s
  | .snapshotTrigger sources => Sys2Proof.Machine.execSnapshotTrigger sources s
  | .snapInEdge => Sys2Proof.Machine.execSnapInEdge s
  | .snapshotCompareInstant => Sys2Proof.Machine.execSnapshotCompareInstant s
  | .obsRead addr words => Sys2Proof.Machine.execObsRead addr words s
  | .obsStatus => Sys2Proof.Machine.execObsStatus s
  | .obsTrcPop => Sys2Proof.Machine.execObsTrcPop s
  | .rindPowerOn flash => Sys2Proof.Machine.execRindPowerOn flash s
  | .rindBootEnd fail torn => Sys2Proof.Machine.execRindBootEnd fail torn s
  | .mcResetRelease => Sys2Proof.Machine.execMcResetRelease s
  | .startupStepEnd fault laneB => Sys2Proof.Machine.execStartupStepEnd fault laneB s
  | .emptyTrajectoryCommit => Sys2Proof.Machine.execEmptyTrajectoryCommit s
  | .resetNAssert low => Sys2Proof.Machine.execResetNAssert low s
  | .railPowerGoodLoss bad => Sys2Proof.Machine.execRailPowerGoodLoss bad s
  | .rootPllLoss refclk => Sys2Proof.Machine.execRootPllLoss refclk s
  | .rindSupplyLoss => Sys2Proof.Machine.execRindSupplyLoss s
  | .harpReadDeadline e => Sys2Proof.Machine.execHarpReadDeadline e s
  | .hostMailboxWrite off data => Sys2Proof.Machine.execHostMailboxWrite off data s
  | .aquiferNvmeReady port ready => Sys2Proof.Machine.execAquiferNvmeReady port ready s
  | .droopRelease v => Sys2Proof.Machine.execDroopRelease v s
  | .rindXtalStop => Sys2Proof.Machine.execRindXtalStop s

end Sys2Proof.Machine
end

