-- ==== Sys2Proof/Machine/Tick.lean ====
section
/-! DEFINITION. One period of the root clock, 1/8 ns, which is what a step does with no command waiting (01 R41, Table 1.16; log entry 2): TCLK, VCLK and FCLK
edges of the main complex, and RCLK edges of the Rind. -/

namespace Sys2Proof.Machine

/-- Source pulse i of a group of 64 at Vat v; one that is not swallowed is a VCLK cycle (16 R410, R417), and an activity event of its own where no kernel runs (Table 16.5). -/
def State.vatPulse (i : Nat) (s : State) (v : Nat) : State :=
  let r := s.sourcePulse v i
  if r.2 then (((if (s.vat v).running then r.1 else r.1.act 16 5 1).vcycle v).swapCycle v) else r.1

/-- Reads of hub clients held past their deadlines end: with TIER_LATE where they wait for a lower tier, with DEADLINE_MISS where only for their path (05 R152, R156). -/
def State.lateClients (s : State) : State :=
  (s.mig.held.filter (fun h => (match h.who with | .client _ => true | _ => false) && (match h.deadline with | some d => decide (d ≤ s.fclk) | none => false))).foldl
    (fun t h => if s.onTier h then (t.bump Reg.MIG_LATE_CNT).heldEnds h stTierLate [] else t.heldEnds h stDeadlineMiss []) s

/-- A packet leaves on the trace lanes: eight lanes, 72 ns a packet (17 R464). -/
def State.traceOut (s : State) : State := if bit (s.reg Reg.OBS_MODE) 8 ∧ s.trace ≠ [] then s.dropTrace else s

/-- CLK_STATUS shows the root PLL and REFCLK from the first FCLK cycle on (16 Table 16.9; reset value 0, DEDUCED, log entry 50). -/
def State.showClocks (s : State) : State :=
  let v := b2n s.start.pll + 2 * b2n s.start.refclk
  if s.reg Reg.CLK_STATUS = v then s else s.setReg Reg.CLK_STATUS v

/-- One root-clock period of the main complex. -/
def State.mainTick (s : State) : State :=
  let n := s.tick + 1
  let a := { s with tick := n }
  let b := if n % 32 = 0 then a.tclkEdge else a
  let c := if n % 3 = 0 then (List.range 8).foldl (State.vatPulse (n % 192 / 3)) b else b
  let d := if n % 8 = 0 then ((List.range 4).foldl State.harpCycle c.ingestCycle).fusionCycle.solverCycle.plannerCycle.postsCycle.dieCopiesDue.fillMoves.lateClients.showClocks else c
  let e := if n % 16 = 0 then d.loopRelease else d
  if n % 72 = 0 then e.traceOut else e

/-- The pair as the Rind samples it in RCLK cycle n (15 R397): an assertion waits for its code until one comes, whatever the pair shows by then (01 R22); a pulse too short
to qualify has no code. -/
def DoubtLine.sample (l : DoubtLine) (doubt : Bool) (n : Nat) : DoubtLine :=
  let glitch := decide (0 < l.run) && decide (l.run < 4)
  if doubt then { l with run := l.run + 1, assertT := if l.run = 0 then some (l.assertT.getD n) else l.assertT }
  else { l with
    run := 0, qualified := false, glitches := if glitch then l.glitches + 1 else l.glitches,
    assertT := if glitch && l.assertT == some (n - l.run) then none else l.assertT }

/-- The authority switch in an RCLK cycle: outside MAIN the actuator queue is on the Rind's side, and so is, from the first gap of its line on, every port that the executor
does not drive (it sends only K28.5, 18 R468); in MAIN a port returns once its last fallback frame has ended (01 R24; 12 R333; 15 R398, R404). -/
def State.switchLines (s : State) : State :=
  if s.auth = .main then s.modFbx (fun f => { f with swPorts := f.swPorts.filter (fun p => decide (s.rclk < mapGet 0 f.txT p + 122)) })
  else
    s.modFbx (fun f => { f with
      actqSw := true, swPorts := ((List.range 8).filter (fun p => !s.portEn p && s.lineGap p)).foldl setInsert f.swPorts })

/-- One RCLK cycle: the counter, operating seconds (17 R453), the doubt line, the authority switch, and since when all has been clear (15 R404). -/
def State.rindTick (s : State) : State :=
  let n := s.rclk + 1
  let clear := s.noDoubtBits && !s.lineDoubt
  let sec := decide (s.evr.optimeRclk + 400000000 ≤ n)
  State.switchLines { s with
    rclk := n, line := s.line.sample s.lineDoubt n,
    evr := if sec then { s.evr with optime := s.evr.optime + 1, optimeRclk := n } else s.evr,
    fbx := { s.fbx with clearT := if clear then some (s.fbx.clearT.getD n) else none } }

/-- One root-clock period: the main complex where its clocks run, and every twentieth an RCLK cycle where RCLK runs. -/
def State.tickOnce (s : State) : State :=
  let a := if s.mainClk then s.mainTick else s
  if s.rphase = 19 then { (if s.rclkOn then a.rindTick else a) with rphase := 0 } else { a with rphase := s.rphase + 1 }

end Sys2Proof.Machine
end

