-- ==== Sys2Proof/Machine/Step.lean ====
section
/-! DEFINITION. One step: the command at the front of the queue, or with none waiting one root-clock period (log entry 2). -/

namespace Sys2Proof.Machine

/-- The command at the front leaves the queue and has its effect on the state with the queue's rest; an empty queue lets a clock period pass. -/
def step (s : State) : Host.Outcome State Fault Refusal :=
  match s.pending with
  | c :: rest => exec c { s with pending := rest }
  | [] => .next s.tickOnce

/-- The opcode table gives no row any bits, so no word spells a command and the state stays as it is. -/
def State.withFetchWord (s : State) (_nbits _w : Nat) : State := s

end Sys2Proof.Machine
end

