-- ==== Sys2Proof/Safety.lean ====
section
/-! DEFINITION. What every step keeps, in the terms the statements use: canonical memory, sync cells and registers; fuses that only ever gain bits (18 R489, R490); SAFE, which
only a cycle of the Rind supply ends (15 R405, 18 R482); an authority that only HANDBACK_COMPLETE makes MAIN (15 R396, R404); and the parts of the state that a command
does not touch. -/

namespace Sys2Proof.Machine

/-- The block's like units are as many as the spec gives it: eight Vats with their walkers and swap engines, four Harp engines, the ingest contexts, four
TSN ports (00 Table 0.2; 06, 07, 08, 09, 13). -/
def State.shaped (s : State) : Bool :=
  s.vats.length == 8 && s.walkers.length == 8 && s.swaps.length == 8 && s.harp.length == 4 && s.ing.length == 96 && s.tsn.length == 4

/-- Memory, sync cells and the register file are in canonical form, and the block has its units. -/
def State.canonical (s : State) : Bool := memWf s.mem && mapWf 0 s.cells && mapWf 0 s.regs && s.shaped

/-- Fuses b hold at least what fuses a hold: no bit has been cleared, and a root key digest once written stands. -/
def Keep.fusesLe (a b : Keep) : Bool :=
  decide (a.lifecycle ≤ b.lifecycle) && decide (a.epoch ≤ b.epoch) && decide (a.svn ≤ b.svn) && (!a.bootHost || b.bootHost) &&
    (decide (a.rootKey = []) || decide (b.rootKey = a.rootKey))

/-- The command is not the one that sets SAFE aside, and not the one that makes the authority MAIN. -/
def keepsSafe (c : Instr) : Bool := match c with | .rindPowerOn _ => false | _ => true
def keepsFallback (c : Instr) : Bool := match c with | .handbackComplete => false | _ => true

/-! ### The parts of the state, the queue aside -/

inductive Part where
  | tick | free | rdata | mainClk | rclkOn | rphase | rclk | regs | logs | mem | poison | upset | cells | tb | evr | line | auth
  | safe | hostEvent | frt | vats | mig | harp | harpShare | walkers | swaps | ing | fus | slv | pln | lp | tsn | xsl | fbx | wd
  | diag | pwr | trace | traceDrop | msix | cg | firm | keep | start | snapCmp | obs | now
deriving DecidableEq, Repr

/-- Part f of two states is the same. -/
def Part.same (f : Part) (s t : State) : Prop :=
  match f with
  | .tick => t.tick = s.tick
  | .free => t.free = s.free
  | .rdata => t.rdata = s.rdata
  | .mainClk => t.mainClk = s.mainClk
  | .rclkOn => t.rclkOn = s.rclkOn
  | .rphase => t.rphase = s.rphase
  | .rclk => t.rclk = s.rclk
  | .regs => t.regs = s.regs
  | .logs => t.logs = s.logs
  | .mem => t.mem = s.mem
  | .poison => t.poison = s.poison
  | .upset => t.upset = s.upset
  | .cells => t.cells = s.cells
  | .tb => t.tb = s.tb
  | .evr => t.evr = s.evr
  | .line => t.line = s.line
  | .auth => t.auth = s.auth
  | .safe => t.safe = s.safe
  | .hostEvent => t.hostEvent = s.hostEvent
  | .frt => t.frt = s.frt
  | .vats => t.vats = s.vats
  | .mig => t.mig = s.mig
  | .harp => t.harp = s.harp
  | .harpShare => t.harpShare = s.harpShare
  | .walkers => t.walkers = s.walkers
  | .swaps => t.swaps = s.swaps
  | .ing => t.ing = s.ing
  | .fus => t.fus = s.fus
  | .slv => t.slv = s.slv
  | .pln => t.pln = s.pln
  | .lp => t.lp = s.lp
  | .tsn => t.tsn = s.tsn
  | .xsl => t.xsl = s.xsl
  | .fbx => t.fbx = s.fbx
  | .wd => t.wd = s.wd
  | .diag => t.diag = s.diag
  | .pwr => t.pwr = s.pwr
  | .trace => t.trace = s.trace
  | .traceDrop => t.traceDrop = s.traceDrop
  | .msix => t.msix = s.msix
  | .cg => t.cg = s.cg
  | .firm => t.firm = s.firm
  | .keep => t.keep = s.keep
  | .start => t.start = s.start
  | .snapCmp => t.snapCmp = s.snapCmp
  | .obs => t.obs = s.obs
  | .now => t.now = s.now

/-- What a doubt, a takeover and an event record can touch (15 R376 to R398, 17 R452, R460, R464). -/
def doubtParts : List Part := [.regs, .evr, .line, .auth, .safe, .hostEvent, .fbx, .trace, .traceDrop, .msix, .firm, .now]

/-- What an issued word of a Vat can touch, a stop of its run among it (02 R51 to R60, 03 R85 to R90). -/
def issueParts : List Part := [.logs, .mem, .poison, .upset, .frt, .vats, .mig, .walkers, .xsl, .diag, .pwr]

/-- What a reset of the main complex can touch (18 R486, Table 18.6). -/
def resetParts : List Part := [.tick, .mainClk, .regs, .logs, .mem, .poison, .upset, .cells, .tb, .line, .hostEvent, .frt, .vats, .mig, .harp,
    .harpShare, .walkers, .swaps, .ing, .fus, .slv, .pln, .lp, .tsn, .xsl, .diag, .pwr, .trace, .traceDrop, .cg, .firm,
    .start, .snapCmp, .obs, .now]

/-- What a period of the root clock can touch. -/
def tickParts : List Part := [.tick, .free, .rdata, .rphase, .rclk, .regs, .logs, .mem, .poison, .upset, .cells, .tb, .evr, .line, .auth, .safe,
    .hostEvent, .frt, .vats, .mig, .harp, .walkers, .swaps, .ing, .fus, .slv, .pln, .lp, .xsl, .fbx, .diag, .pwr, .trace,
    .traceDrop, .msix, .firm, .now]

/-- The parts a command can touch; every other part is the same after it. -/
def changes (c : Instr) : List Part :=
  match c with
  | .registerWrite _ _ _ _ | .handback _ | .commitEvaluate _ | .rindGroupApply _
    => doubtParts ++ [.rdata, .logs, .mem, .poison, .upset, .cells, .tb, .frt, .vats, .mig, .harp, .swaps, .ing, .fus, .slv, .pln, .lp, .tsn, .xsl, .wd, .pwr, .cg, .snapCmp]
  | .counterReadClear _ | .logReadAdvance _ => [.rdata, .regs, .logs, .tb, .evr, .diag, .trace, .traceDrop, .now]
  | .fabricRequest _ _ _ _ _ _ _
    => doubtParts ++ [.rdata, .logs, .mem, .poison, .upset, .cells, .tb, .frt, .vats, .mig, .harp, .swaps, .ing, .fus, .slv, .pln, .lp, .tsn, .xsl, .wd, .diag, .pwr, .cg, .snapCmp]
  | .syncCellOperation _ _ _ => [.cells, .now]
  | .majorFrameStart => doubtParts ++ issueParts ++ [.rdata, .cells, .tb, .harp, .harpShare, .swaps, .ing, .fus, .slv, .pln, .lp, .tsn, .wd, .cg, .snapCmp]
  | .slotStart => doubtParts ++ issueParts ++ [.harp, .swaps]
  | .lakeRefreshSubslot | .sramScrub _ => doubtParts ++ [.logs, .mem, .poison, .upset, .mig]
  | .fillEntryStart _ => [.regs, .frt, .vats, .walkers, .diag, .trace, .traceDrop]
  | .cutPoint _ => doubtParts ++ [.mem, .poison, .upset, .frt, .vats, .mig, .walkers, .xsl, .diag]
  | .lcOverrun _ => doubtParts ++ [.logs, .mem, .poison, .upset, .frt, .vats, .mig, .walkers, .xsl]
  | .frtLoadCmd _ | .ftStop => [.regs, .frt, .now]
  | .frtLoadComplete => [.regs, .logs, .upset, .evr, .hostEvent, .frt, .diag, .msix, .now]
  | .ftSwitch => [.regs, .frt]
  | .opBr _ _ _ | .opBri _ _ _ | .opCall _ _ _ | .opCalli _ _ _ | .opRet _ _ _ | .opLoop _ _ _ | .opWaitc _ _ _ | .opYield _ _ _ | .opEnd _ _ _
  | .opSadd _ _ _ | .opSset _ _ _ | .opSrd _ _ _ | .opSwait _ _ _ | .opAdd _ _ _ _ | .opSub _ _ _ _ | .opAnd _ _ _ _ | .opOr _ _ _ _ | .opXor _ _ _ _
  | .opShl _ _ _ _ | .opShr _ _ _ _ | .opSar _ _ _ _ | .opMin _ _ _ _ | .opMax _ _ _ _ | .opMinu _ _ _ _ | .opMaxu _ _ _ _ | .opMul _ _ _ _
  | .opMulhu _ _ _ _ | .opCmpeq _ _ _ _ | .opCmplt _ _ _ _ | .opCmpltu _ _ _ _ | .opPand _ _ _ _ | .opPor _ _ _ _ | .opPxor _ _ _ _ | .opLd _ _ _ _
  | .opSt _ _ _ _ | .opRdc _ _ _ _ | .opAld _ _ _ _ | .opAset _ _ _ _ | .opArst _ _ _ _ | .opVld _ _ _ _ | .opVst _ _ _ _ | .opAskip _ _ _ _
  | .opTwld _ _ _ _ | .opTmm _ _ _ _ | .opTclr _ _ _ _ | .opTlut _ _ _ _ | .opVadd _ _ _ | .opVsub _ _ _ | .opVmax _ _ _ | .opVmin _ _ _ | .opVmul _ _ _
  | .opVfma _ _ _ | .opVexp2 _ _ _ | .opVlog2 _ _ _ | .opVrcp _ _ _ | .opVrsq _ _ _ | .opVsig _ _ _ | .opVtanh _ _ _ | .opVcvt _ _ _ | .opVscl _ _ _
  | .opVqnt _ _ _ | .opVrmax _ _ _ | .opVrsum _ _ _ | .opVsmxMask _ _ _ | .opVsmxExpd _ _ _ | .opVsmxNorm _ _ _ | .opVsmxMass _ _ _ | .opVbc _ _ _
  | .opVext _ _ _ | .opVsel _ _ _ | .opScnRun _ _ _ | .opScnAnch _ _ _ | .opScnSave _ _ _ | .opScnLoad _ _ _ | .opMpush _ _ _ _ | .opMcnt _ _ _ _
  | .opMstat _ _ _ _ => doubtParts ++ issueParts
  | .waitcExpiry _ | .yieldResume _ | .swaitSatisfied _ | .swaitTimeout _ | .moverQueueEntry _ _ => [.vats]
  | .endDoneIncrement _ => doubtParts ++ [.cells, .frt, .vats, .diag]
  | .opTrd _ _ _ _ => doubtParts ++ issueParts ++ [.free]
  | .opScnRunComplete _ => [.regs, .vats]
  | .vatFaultInStream _ => doubtParts ++ [.logs, .mem, .poison, .upset, .frt, .vats, .mig, .walkers, .xsl, .diag]
  | .moverDescriptorStart _ _ => doubtParts ++ issueParts ++ [.cells]
  | .moverDescriptorEnd _ _ => [.regs, .cells, .vats, .walkers, .now]
  | .moverDeadline _ _ _ => [.regs, .mem, .poison, .upset, .evr, .hostEvent, .vats, .mig, .xsl, .diag, .pwr, .msix, .now]
  | .heldOutputCompare _ _ => doubtParts ++ [.logs, .mem, .poison, .upset, .frt, .vats, .mig, .walkers, .lp, .xsl, .diag]
  | .coreCheckpoint _ _ => doubtParts ++ [.free, .logs, .mem, .poison, .upset, .frt, .vats, .mig, .walkers, .lp, .xsl, .diag]
  | .journalApply _ => [.diag]
  | .arrayChecksum _ _ _ => doubtParts ++ [.logs, .vats]
  | .dieCopyUpdate _ => [.mig]
  | .migDemandMiss | .pageFillComplete _ | .aquiferReadComplete _ _ | .aquiferReadTimeout | .aquiferLinkDown | .evictFrameFree | .migUnmap | .migStage
  | .migLoad | .migDropL => [.free, .rdata, .regs, .logs, .mem, .poison, .upset, .cells, .evr, .hostEvent, .vats, .mig, .pwr, .msix, .now]
  | .heldReadRelease => doubtParts ++ [.rdata, .logs, .mem, .poison, .upset, .vats, .mig, .pwr]
  | .migCmdPush _ => [.regs, .mig, .now]
  | .migCplRead | .tbNowRead => [.rdata, .regs, .logs, .tb, .evr, .trace, .traceDrop]
  | .migMap => [.free, .regs, .logs, .mem, .poison, .upset, .cells, .evr, .hostEvent, .mig, .pwr, .msix, .now]
  | .migPin | .migUnpin | .migDropR | .migClearFault => [.regs, .logs, .mem, .poison, .upset, .cells, .evr, .hostEvent, .mig, .pwr, .msix, .now]
  | .harpArm _ | .harpRowArrival _ => doubtParts ++ [.logs, .mem, .poison, .upset, .cells, .mig, .harp, .pwr]
  | .harpDisarm _ => [.regs, .harp]
  | .harpOutputRow _ => [.regs, .evr, .hostEvent, .harp, .msix, .now]
  | .harpFrameEnd _ => [.regs, .logs, .mem, .poison, .upset, .cells, .harp, .now]
  | .harpGoldenAbandon _ => doubtParts ++ [.frt, .harp]
  | .walkerDoorbell _ => doubtParts ++ [.logs, .upset, .vats, .walkers, .pwr]
  | .walkerGather _ | .walkerAppend _ => [.free, .regs, .mem, .poison, .upset, .cells, .vats, .walkers, .now]
  | .walkerAppendCommit _ => [.free, .regs, .mem, .poison, .upset, .cells, .walkers, .pwr, .now]
  | .walkerEvict _ => [.free, .regs, .mem, .poison, .upset, .cells, .walkers, .now]
  | .swapOut _ _ => [.regs, .cells, .vats, .swaps, .now]
  | .swapIn _ _ | .init _ _ => [.swaps]
  | .swapOutComplete _ => [.regs, .mem, .poison, .upset, .vats, .swaps, .pwr]
  | .swapInStart _ => [.regs, .vats, .swaps]
  | .swapInComplete _ => doubtParts ++ [.logs, .upset, .vats, .swaps, .pwr]
  | .csiFrameStart _ _ _ | .csiPacket _ _ _ _ _ _ | .csiFrameEnd _ _ _ => [.regs, .harp, .ing]
  | .ethRxFrame _ _ _ _ => [.free, .regs, .ing]
  | .spiTrigger _ _ => [.ing]
  | .spiTransferEnd _ _ _ | .canRxFrame _ _ _ _ _ _ => [.regs, .ing]
  | .sampleEnd _ => doubtParts ++ [.free, .logs, .mem, .poison, .upset, .cells, .mig, .ing, .fus, .pwr]
  | .sampleAccept => [.regs, .fus]
  | .egoTick | .associationJob _ => doubtParts ++ [.logs, .mem, .poison, .upset, .cells, .mig, .fus, .pwr]
  | .alignEval _ => doubtParts ++ [.free, .logs, .mem, .poison, .upset, .cells, .mig, .fus, .pwr]
  | .solverJobArrive _ | .solverDeadline => [.free, .regs, .slv]
  | .solverJobStart => doubtParts ++ [.logs, .mem, .poison, .upset, .mig, .slv, .pwr]
  | .solverIterateDone => doubtParts ++ [.free, .slv]
  | .solverRecordWrite => doubtParts ++ [.free, .logs, .mem, .poison, .upset, .cells, .mig, .slv, .pwr]
  | .planCycleStart | .planRecordWrite => doubtParts ++ [.free, .logs, .mem, .poison, .upset, .cells, .mig, .pln, .pwr]
  | .planPrecheckEnd | .planSweepEnd | .planRecheckEnd => doubtParts ++ [.logs, .upset, .pln]
  | .planPrepEnd => doubtParts ++ [.logs, .mem, .poison, .upset, .mig, .pln, .pwr]
  | .planSweepStart => [.pln]
  | .planDeadline => [.free, .regs, .logs, .mem, .poison, .upset, .cells, .evr, .hostEvent, .mig, .pln, .pwr, .msix, .now]
  | .loopRun _ | .servoLinkDown _ | .axisEnable _ | .axisDisable _ | .axisClear _ | .loopSegSwap _ => [.regs, .lp]
  | .loopTick => [.regs, .lp, .trace, .traceDrop]
  | .loopGroupStart => doubtParts ++ [.logs, .lp]
  | .servoCommandFrame _ => [.lp, .fbx]
  | .servoFeedbackFrame _ _ _ => [.regs, .lp, .fbx]
  | .feedbackCutoff _ => [.regs, .evr, .hostEvent, .lp, .trace, .traceDrop, .msix, .now]
  | .servoLinkAlign _ => [.lp]
  | .loopTblDataWrite _ => [.regs, .lp, .now]
  | .tbMeasWrite _ | .tbServoEnable _ | .tbMeasTimeout => [.regs, .tb, .hostEvent, .msix, .now]
  | .tbRateApply => [.tb]
  | .tbRateWrite _ => [.regs, .tb, .now]
  | .tbStep _ => [.regs, .tb, .ing, .fus, .slv, .pln]
  | .tbHoldoverExpiry => doubtParts ++ [.tb]
  | .ptpFrameRx _ _ _ => [.regs, .tsn]
  | .tsnDoorbellPoll | .tsnGclEnable _ _ => doubtParts ++ [.logs, .upset, .tsn]
  | .tsnFrameFetch _ _ => doubtParts ++ [.logs, .mem, .poison, .upset, .cells, .mig, .tsn, .pwr]
  | .tsnFrameTxStart _ | .tsnFrameLate _ _ => [.regs, .logs, .mem, .poison, .upset, .cells, .evr, .hostEvent, .mig, .tsn, .fbx, .pwr, .msix, .now]
  | .tsnFrameTxEnd _ => [.regs, .logs, .mem, .poison, .upset, .cells, .evr, .hostEvent, .mig, .tsn, .pwr, .msix, .now]
  | .tsnGclTakeEffect _ => [.tsn]
  | .xslPortEnable _ _ | .xslPortDown _ | .xslSlotFrameRx _ _ _ _ | .xslPeerTimeout _ => [.rdata, .regs, .evr, .hostEvent, .vats, .xsl, .msix, .now]
  | .xslPortTrained _ _ | .xslTagRelease => [.xsl]
  | .xslSlotFrameTx _ | .xslFlitAge _ | .xslLostClear _ => [.regs, .xsl]
  | .xslLanding _ => [.regs, .logs, .mem, .poison, .upset, .cells, .evr, .hostEvent, .xsl, .pwr, .msix, .now]
  | .xslMessageTimeout => [.rdata, .vats, .xsl]
  | .xslGenAdvance _ _ => [.regs, .xsl, .now]
  | .doubtCodeSend => [.line]
  | .doubtCodeReceive | .doubtGlitch => [.regs, .line]
  | .doubtCodeTimeout | .fbxLate | .supplyLimit _ | .thermalSample _ => doubtParts
  | .doubtQualify => [.regs, .evr, .line, .auth, .hostEvent, .fbx, .msix, .firm, .now]
  | .doubtClear _ _ => [.regs, .line, .hostEvent, .msix, .now]
  | .laneInjection _ _ _ => doubtParts ++ [.logs, .diag]
  | .pairCompare => doubtParts ++ [.diag]
  | .selftestSliceStart _ => [.free, .regs, .frt, .vats, .walkers, .diag, .trace, .traceDrop]
  | .fbxTrjCommit _ => [.regs, .evr, .hostEvent, .fbx, .msix, .now]
  | .fbxTrackingStep => [.regs, .fbx]
  | .fbxCommandFrame _ | .fbxEthSend | .fbxEndAction | .fbxHbGo _ => [.fbx]
  | .fbxHbReq _ | .handbackComplete => [.regs, .auth, .hostEvent, .fbx, .msix, .now]
  | .handbackTimeout | .emptyTrajectoryCommit
    => doubtParts ++ [.free, .rdata, .logs, .mem, .poison, .upset, .cells, .tb, .frt, .vats, .mig, .harp, .swaps, .ing, .fus, .slv, .pln, .lp, .tsn, .xsl, .wd, .pwr, .cg, .start, .snapCmp]
  | .hdHeartbeat => [.wd]
  | .hdHeartbeatMiss | .rindWdtKick _ | .watchdogMiss => doubtParts ++ [.wd]
  | .safeFrame => [.free, .fbx]
  | .powerPeriod | .regionDiffSample => [.regs, .evr, .hostEvent, .pwr, .msix, .now]
  | .multiplierApply _ | .droopAssert _ | .droopSwallowEnd _ | .regionSwallowEnd | .pwrMeterCfgWrite _ _ => [.regs, .pwr]
  | .pwrModeWrite _ | .snapshotTrigger _ | .snapInEdge => [.regs, .now]
  | .energySample _ | .nvInhibit | .aquiferNvmeReady _ _ => [.regs]
  | .hostDoorbell _ | .identify _ | .getState _ | .sessionChallenge _ _ | .sessionOpen _ | .sessionClose _ | .snapshot _ | .imageLoad _ | .batchSubmit _
  | .ftLoad _ | .workloadDefine _ | .storeWrite _ | .storeTrim _ | .fbRelay _ | .fwStage _ | .fuseProgram _
    => [.regs, .evr, .hostEvent, .trace, .traceDrop, .msix, .firm, .now]
  | .commandComplete _ _ _
    => doubtParts ++ [.rdata, .logs, .mem, .poison, .upset, .cells, .tb, .frt, .vats, .mig, .harp, .swaps, .ing, .fus, .slv, .pln, .lp, .tsn, .xsl, .wd, .pwr, .cg, .keep, .snapCmp]
  | .sessionExpiry _ => [.regs, .evr, .hostEvent, .msix, .firm, .now]
  | .sessionLockoutEnd _ => [.firm]
  | .regRead _ | .eventRead _ => [.regs, .logs, .tb, .evr, .hostEvent, .diag, .trace, .traceDrop, .msix, .firm, .now]
  | .workloadStart _ | .workloadStop _ | .cgSubmit _ | .cgCancel _ => [.regs, .evr, .hostEvent, .frt, .trace, .traceDrop, .msix, .cg, .firm, .now]
  | .imageUnload _ | .migCmd _
    => doubtParts ++ [.rdata, .logs, .mem, .poison, .upset, .cells, .tb, .frt, .vats, .mig, .harp, .swaps, .ing, .fus, .slv, .pln, .lp, .tsn, .xsl, .wd, .pwr, .snapCmp]
  | .hostDma _ => [.regs, .logs, .evr, .hostEvent, .trace, .traceDrop, .msix, .firm, .now]
  | .keyAdd _ | .keyRemove _ | .fwActivate _ | .lifecycleAdvance _ => [.regs, .evr, .hostEvent, .trace, .traceDrop, .msix, .firm, .keep, .now]
  | .resetWarm _ | .resetCold _ | .bootPush _ => [.regs, .evr, .hostEvent, .trace, .traceDrop, .msix, .firm, .start, .now]
  | .resetPartition _ => [.regs, .evr, .hostEvent, .frt, .trace, .traceDrop, .msix, .firm, .now]
  | .resetBegin | .mcResetRelease | .resetNAssert _ | .railPowerGoodLoss _ => resetParts
  | .firmwareInternalError | .eventMark _ _ | .eventRecordPost _ _ _ _ _ _ _ | .evrFlushWrite | .powerFailRecovery => [.regs, .evr, .hostEvent, .msix, .now]
  | .cgSubmitWrite _ => [.regs, .hostEvent, .frt, .msix, .cg, .now]
  | .cgCancelWrite _ _ => [.regs, .hostEvent, .frt, .msix, .cg, .firm, .now]
  | .commitPoint _ => [.cg]
  | .mbxIrqWrite _ => [.regs, .msix, .now]
  | .evrFlushTimer => [.evr]
  | .evrWindowRead _ => [.rdata, .regs, .logs, .tb, .evr, .diag, .trace, .traceDrop]
  | .powerFailWarning _ => [.regs, .evr, .hostEvent, .mig, .msix, .firm, .now]
  | .snapshotCompareInstant => [.regs, .snapCmp, .now]
  | .obsRead _ _ => [.rdata, .regs, .logs, .tb, .evr, .diag, .trace, .traceDrop, .obs]
  | .obsStatus => [.rdata]
  | .obsTrcPop => [.rdata, .regs, .trace, .traceDrop]
  | .rindPowerOn _ => resetParts ++ [.rclkOn, .rphase, .rclk, .evr, .auth, .safe, .fbx, .wd, .keep]
  | .rindBootEnd _ _ => [.regs, .evr, .auth, .safe, .hostEvent, .fbx, .msix, .start, .now]
  | .startupStepEnd _ _
    => doubtParts ++ [.free, .rdata, .logs, .mem, .poison, .upset, .cells, .tb, .frt, .vats, .mig, .harp, .swaps, .ing, .fus, .slv, .pln, .lp, .tsn, .xsl, .wd, .diag, .pwr, .cg, .start, .snapCmp]
  | .rootPllLoss _ => [.mainClk, .regs, .start]
  | .rindSupplyLoss => [.rclkOn, .start]
  | .harpReadDeadline _ => [.regs, .logs, .mem, .poison, .upset, .cells, .mig, .harp, .now]
  | .hostMailboxWrite _ _ => [.hostEvent, .firm]
  | .droopRelease _ => [.pwr]
  | .rindXtalStop => [.rclkOn]

/-! ### What a meaning keeps -/

/-- A promise about the states a meaning passes through: the queue it is given; canonical form; at least these fuses; with safe, SAFE; with fallback, an authority
other than MAIN; and every part outside may as it is in base. -/
structure Promise where
  queue : List Instr
  fuses : Keep
  safe : Bool
  fallback : Bool
  base : State
  may : Part → Bool

/-- Every part of a list may change. -/
def Promise.mays (p : Promise) : List Part → Prop
  | [] => True
  | f :: l => p.may f = true ∧ p.mays l

structure State.Kept (p : Promise) (s : State) : Prop where
  queue : s.pending = p.queue
  form : s.canonical = true
  fuses : p.fuses.fusesLe s.keep = true
  safeStays : p.safe = true → s.safe = true
  outside : p.fallback = true → s.auth ≠ .main
  frame : ∀ f, p.may f = false → f.same p.base s

/-! ### How the statements speak of a command's own effect -/

/-- The command answers a next state, and P holds of it. -/
def Answers (c : Instr) (s : State) (P : State → Prop) : Prop := ∃ t, Sys2Proof.Machine.exec c s = .next t ∧ P t

/-- Nothing has changed but the parts listed; the queue has not. The marks of the present cycle (State.now, the model's own) are in no list. -/
def Only (l : List Part) (s t : State) : Prop := t.pending = s.pending ∧ ∀ f, f ≠ .now → f ∉ l → f.same s t

/-- Registers other than those of the list read as before. -/
def RegsBut (l : List Nat) (s t : State) : Prop := ∀ k, k ∉ l → t.reg k = s.reg k

/-- The registers that a doubt, a record, a trace packet or a snapshot trigger may step or latch beside the snapshot areas (15 R376 to R378; 17 R453, R460, R464). -/
def sideRegs : List Nat :=
  [Reg.SAF_DOUBT, Reg.SAF_DOUBT_FIRST, Reg.RIND_DOUBT, Reg.RIND_DOUBT_FIRST, Reg.RIND_TAKE_T, Reg.RIND_TAKE_CNT, Reg.EVR_LOST_CNT, Reg.OBS_TRC_DROP_CNT,
    Reg.SNP_SEQ, Reg.SNP_T, Reg.SNP_SRC, Reg.SNP_CTRL, Reg.SNP_MISS_CNT, Reg.MBX_STATE] ++
  (List.range 32).map Reg.SAF_DOUBT_CNT ++ (List.range 32).map Reg.RIND_DOUBT_CNT

/-- The key is one of those, or lies in a snapshot area (01 R38). -/
def sideKey (k : Nat) : Bool := decide (0xF0000 ≤ k % 0x100000) || sideRegs.contains k

/-- Registers other than those of the list read as before, those aside that doubts, records, trace packets and snapshots touch. -/
def RegsSide (l : List Nat) (s t : State) : Prop := ∀ k, sideKey k = false → k ∉ l → t.reg k = s.reg k

/-- The state in which an operation of slot of Vat v issues: its long word is open and has it (03 R80). -/
def State.begun (s : State) (v slot : Nat) : State :=
  (s.modVat v Vat.openWord).modVat v (fun t => { t with lw := some (slot :: t.lw.getD []) })

/-- The Vat in which an operation of slot of Vat v issues. -/
def State.issuer (s : State) (v slot : Nat) : Vat := (s.begun v slot).vat v

/-- The long word at the program counter of Vat v holds no word with an error (05 R160). -/
def State.fetchWhole (s : State) (v : Nat) : Bool :=
  (wordsOf (pondAddr v (s.vat v).core.pc) 128).all (fun w => !s.upset.contains w && !s.poison.contains w)

/-- VCLK runs, the slot may issue in this VCLK cycle, and where it opens a long word the program counter may be fetched from (01 R42; 03 R80, R92, R103). -/
structure State.SlotOpen (s : State) (v slot : Nat) : Prop where
  clock : s.mainClk = true
  slot : (s.vat v).canIssue slot = true
  pc : (s.vat v).lw = none → s.pcOk v (s.vat v).core.pc = true
  whole : (s.vat v).lw = none → s.fetchWhole v = true

/-- The slot may issue and the operation's guard holds (03 R86). -/
structure State.Ready (s : State) (v slot : Nat) (w : BitVec 56) : Prop where
  slot : s.SlotOpen v slot
  guard : guardHolds (s.vat v).core.preds (oPred w) (oNeg w) = true

/-- The operation has issued: the core of Vat v is c, its long word has the slot, and nothing else has changed but the activity counts and the
parts listed. -/
def State.Issued (s : State) (v slot : Nat) (l : List Part) (c : VatCore) (t : State) : Prop :=
  t.vat v = { s.issuer v slot with core := c } ∧ (∀ u, u ≠ v → t.vat u = s.vat u) ∧ Only (.vats :: .pwr :: l) s t

/-- The core of Vat v is c, and nothing else has changed but the parts listed. -/
def State.NewCore (s : State) (v : Nat) (l : List Part) (c : VatCore) (t : State) : Prop :=
  t.vat v = { s.vat v with core := c } ∧ (∀ u, u ≠ v → t.vat u = s.vat u) ∧ Only (.vats :: l) s t

/-- Migration command b, taken from the front of the queue, has ended: its completion entry is in MIG_CPL, and its cell has the add, or the add waits for the engine's path
(05 R148; 02 R53). -/
structure State.McEnded (s : State) (b : List Byte) (status pages : Nat) (t : State) : Prop where
  queue : t.mig.queue = s.mig.queue.drop 1
  job : t.mig.job = none
  entry : t.logs = (s.pushLog Reg.MIG_CPL cplDepth (mcTag b * 2 ^ 32 + 2 ^ 31 + (pages % 2 ^ 23) * 2 ^ 8 + status)).logs
  cell : let x : Post := ⟨.migration, 0, mcCell b, [], some (.add (BitVec.ofNat 64 (completionValue status)))⟩
    let goes := s.postOpen x && s.mig.posts.all (fun y => y.init != .migration)
    (mcCell b = 0 → t.cells = s.cells ∧ t.mig.posts = s.mig.posts) ∧
    (mcCell b ≠ 0 → goes = true → t.cells = (s.cellOp (mcCell b) (.add (BitVec.ofNat 64 (completionValue status)))).cells ∧ t.mig.posts = s.mig.posts) ∧
    (mcCell b ≠ 0 → goes = false → t.cells = s.cells ∧ t.mig.posts = s.mig.posts ++ [x])

/-- Every byte of memory outside n bytes from a reads as before. -/
def MemBut (a n : Nat) (s t : State) : Prop := ∀ x, x < a ∨ a + n ≤ x → memByte t.mem x = memByte s.mem x

/-- The head of the engine's fills has its frame and waits for Aquifer (05 R154). -/
def State.FillWaits (s : State) : Prop := ∃ f l, s.mig.fills = f :: l ∧ f.frame.isSome = true ∧ f.reading.isSome = true

/-- The Pond bytes an operation reads hold no uncorrectable word (05 R160). -/
def State.ReadsWhole (s : State) (v : Nat) (l : List (Nat × Nat)) : Prop := ∀ r ∈ l, s.poisoned (pondAddr v r.1) r.2 = false

/-- What the correction of a word and the trace of a branch can touch (05 R160, 17 R464). -/
def correctParts : List Part := [.regs, .upset, .evr, .hostEvent, .msix]
def traceParts : List Part := [.regs, .trace, .traceDrop]

/-- A doubt of the main complex has been raised once: its bit is latched and its counter has stepped (15 R376). -/
def State.Doubted (s : State) (code : Nat) (t : State) : Prop :=
  bit (t.reg Reg.SAF_DOUBT) (code - 0x80) = true ∧
    t.reg (Reg.SAF_DOUBT_CNT (code - 0x80)) = (s.reg (Reg.SAF_DOUBT_CNT (code - 0x80)) + 1) % 2 ^ 32

/-- A doubt of the Rind has been raised once; 0x96 and 0x97 have entered SAFE unless the bit was latched before (15 R376, R405). -/
def State.RindDoubted (s : State) (code : Nat) (t : State) : Prop :=
  bit (t.reg Reg.RIND_DOUBT) (code - 0x80) = true ∧
    t.reg (Reg.RIND_DOUBT_CNT (code - 0x80)) = (s.reg (Reg.RIND_DOUBT_CNT (code - 0x80)) + 1) % 2 ^ 32 ∧
    ((code = 0x96 ∨ code = 0x97) → bit (s.reg Reg.RIND_DOUBT) (code - 0x80) = false → t.safe = true ∧ t.auth = .fallback)

/-- The command of mailbox m with opcode op is the one that firmware serves: it stands at the head of the doorbells, firmware is not HALTED, and the mailbox's
role holds the right. The doorbell behind it, if there is one, has a listed opcode, and so waits for its own command (17 R430, R431, R437, R439). -/
structure State.Serves (s : State) (m op : Nat) (need : Need) : Prop where
  clock : s.mainClk = true
  head : s.atHead m op = true
  mail : mapWf (0 : Byte) s.firm.mail = true
  up : s.fw ≠ 7
  role : holds (s.roleOf m) s.keep.lifecycle need = true
  next : ∀ x l, s.firm.bells.filter (fun y => y != m) = x :: l → listed (s.opcode x) = true

/-- The command of mailbox m has ended: its record, its completion fields and results, the ownership and the vector (17 R430, R435, Table 17.3). -/
structure State.Ended (s : State) (m status detail : Nat) (res : List Byte) (t : State) : Prop where
  owner : bit (t.reg Reg.MBX_OWNER) m = true
  others : ∀ x, x ≠ m → bit (t.reg Reg.MBX_OWNER) x = bit (s.reg Reg.MBX_OWNER) x
  phase : t.mailBytes m 0xC 2 = [0, BitVec.ofNat 8 status]
  explained : t.mailField m 0x18 8 = detail % 2 ^ 64
  size : t.mailField m 0x14 4 = res.length
  results : t.mailBytes m 0x40 res.length = res
  mails : ∀ x o, x ≠ m → o < 4096 → t.mailByte x o = s.mailByte x o
  record : quiet (s.opcode m) = false → t.evr.buffer.length < 4096 → ∃ r : EvRecord, t.evr.buffer.getLast? = some r ∧ r.kind = 2 ∧ r.code = s.opcode m ∧ r.mbox = m ∧
    r.detail % 2 ^ 32 = status % 2 ^ 32
  vector : bit (s.mailField m 2 2) 0 = false → mapGet 0 t.msix m = mapGet 0 s.msix m + 1

/-- Firmware has taken the doorbell of mailbox m and ended its command. -/
def State.Done (s : State) (m status detail : Nat) (res : List Byte) (t : State) : Prop :=
  t.firm.bells = s.firm.bells.filter (fun y => y != m) ∧ s.Ended m status detail res t

/-- The command of mailbox m has been accepted and goes on: STATUS ACCEPTED, the mailbox kept, the vector raised (17 R430). -/
structure State.Accepted (s : State) (m : Nat) (args : List Nat) (data : List Byte) (group : Option Nat) (t : State) : Prop where
  bells : t.firm.bells = s.firm.bells.filter (fun y => y != m)
  job : t.firm.jobs = s.firm.jobs ++ [⟨m, s.opcode m, s.mailTag m, s.roleOf m, 0, args, data, group, none⟩]
  owner : t.reg Reg.MBX_OWNER = s.reg Reg.MBX_OWNER
  phase : t.mailByte m 0xD = BitVec.ofNat 8 stAccepted
  mails : ∀ x o, x ≠ m → o < 4096 → t.mailByte x o = s.mailByte x o
  vector : mapGet 0 t.msix m = mapGet 0 s.msix m + 1

/-- Mailbox, opcode, right and admitted states of a mailbox command (17 Tables 17.4 and 17.8); none for every other command, and for a RESET of another kind. -/
def State.mailRow (s : State) (c : Instr) : Option (Nat × Nat × Need × Bool) :=
  match c with
  | .identify m => some (m.val, 1, .any, true)
  | .getState m => some (m.val, 2, .any, true)
  | .sessionChallenge m _ => some (m.val, 3, .any, !s.inSession m.val)
  | .sessionOpen m => some (m.val, 4, .any, true)
  | .sessionClose m => some (m.val, 5, .any, true)
  | .regRead m => some (m.val, 0x10, .read, true)
  | .eventRead m => some (m.val, 0x11, .read, true)
  | .snapshot m => some (m.val, 0x12, .read, s.fwIn [1, 2, 3, 4])
  | .workloadStart m => some (m.val, 0x100, .operator, s.fwIn [3])
  | .workloadStop m => some (m.val, 0x101, .operator, s.fwIn [3, 4])
  | .imageLoad m => some (m.val, 0x102, .operator, s.fwIn [2, 3, 4])
  | .imageUnload m => some (m.val, 0x103, .operator, s.fwIn [2, 3, 4])
  | .hostDma m => some (m.val, 0x104, .operator, s.fwIn [2, 3, 4])
  | .batchSubmit m => some (m.val, 0x105, .operator, s.fwIn [3])
  | .handback m => some (m.val, 0x106, .operator, s.fwIn [2, 3, 4])
  | .cgSubmit m => some (m.val, 0x200, .installer, s.fwIn [2, 3, 4])
  | .cgCancel m => some (m.val, 0x201, .installer, s.fwIn [2, 3, 4])
  | .ftLoad m => some (m.val, 0x202, .installer, s.fwIn [2, 3, 4])
  | .workloadDefine m => some (m.val, 0x203, .installer, s.fwIn [2, 3, 4])
  | .migCmd m => some (m.val, 0x204, .installer, s.fwIn [2, 3, 4])
  | .storeWrite m => some (m.val, 0x205, .installer, s.fwIn [2, 3, 4])
  | .storeTrim m => some (m.val, 0x206, .installer, s.fwIn [2, 3, 4])
  | .fbRelay m => some (m.val, 0x207, .installer, s.fwIn [2, 3, 4])
  | .keyAdd m => some (m.val, 0x208, if Config.certRole (s.args m.val) = 2 then .maker else .installer, s.fwIn [2, 4])
  | .keyRemove m => some (m.val, 0x209,
      if s.keep.keys.any (fun c => (Config.certKey c).toNat == s.arg m.val 0 4 && Config.certRole c == 2) then .maker else .installer, s.fwIn [2, 4])
  | .resetWarm m => if s.arg m.val 0 4 = 1 ∨ s.arg m.val 0 4 = 0 ∨ 3 < s.arg m.val 0 4 then some (m.val, 0x20A, .installer, s.fwIn [1, 2, 3, 4]) else none
  | .resetCold m => if s.arg m.val 0 4 = 2 then some (m.val, 0x20A, .installer, s.fwIn [1, 2, 3, 4]) else none
  | .resetPartition m => if s.arg m.val 0 4 = 3 then some (m.val, 0x20A, .installer, s.fwIn [1, 2, 3, 4]) else none
  | .fwStage m => some (m.val, 0x300, .maker, s.fwIn [2, 4])
  | .fwActivate m => some (m.val, 0x301, .maker, s.fwIn [2, 4] && s.keep.staged)
  | .fuseProgram m => some (m.val, 0x302, .maker, s.fwIn [2])
  | .lifecycleAdvance m => some (m.val, 0x303, .maker, s.fwIn [2])
  | _ => none

/-- The Vat, slot and word of a slot operation; none for any other command and for a VSMX word whose SUB is another step's. -/
def slotOp (c : Instr) : Option (VatNo × Nat × BitVec 56) :=
  match c with
  | .opBr v w _ | .opBri v w _ | .opCall v w _ | .opCalli v w _ | .opRet v w _ | .opLoop v w _ | .opWaitc v w _ | .opYield v w _ | .opEnd v w _ |
      .opSadd v w _ | .opSset v w _ | .opSrd v w _ | .opSwait v w _ => some (v, 0, w)
  | .opAdd v k w _ | .opSub v k w _ | .opAnd v k w _ | .opOr v k w _ | .opXor v k w _ | .opShl v k w _ | .opShr v k w _ | .opSar v k w _ | .opMin v k w
      _ | .opMax v k w _ | .opMinu v k w _ | .opMaxu v k w _ | .opMul v k w _ | .opMulhu v k w _ | .opCmpeq v k w _ | .opCmplt v k w _ | .opCmpltu v k w
      _ | .opPand v k w _ | .opPor v k w _ | .opPxor v k w _ | .opLd v k w _ | .opSt v k w _ | .opRdc v k w _ => some (v, 1 + k, w)
  | .opAld v k w _ | .opAset v k w _ | .opArst v k w _ | .opVld v k w _ | .opVst v k w _ | .opAskip v k w _ => some (v, 3 + k, w)
  | .opTwld v k w _ | .opTmm v k w _ | .opTrd v k w _ | .opTclr v k w _ | .opTlut v k w _ => some (v, 7 + k, w)
  | .opVadd v w _ | .opVsub v w _ | .opVmax v w _ | .opVmin v w _ | .opVmul v w _ | .opVfma v w _ | .opVexp2 v w _ | .opVlog2 v w _ | .opVrcp v w _ |
      .opVrsq v w _ | .opVsig v w _ | .opVtanh v w _ | .opVcvt v w _ | .opVscl v w _ | .opVqnt v w _ | .opVrmax v w _ | .opVrsum v w _ | .opVbc v w _ |
      .opVext v w _ | .opVsel v w _ => some (v, 11, w)
  | .opScnRun v w _ | .opScnAnch v w _ | .opScnSave v w _ | .opScnLoad v w _ => some (v, 12, w)
  | .opMpush v k w _ | .opMcnt v k w _ | .opMstat v k w _ => some (v, 13 + k, w)
  | .opVsmxMask v w _ => if eSub w = 0 then some (v, 11, w) else none
  | .opVsmxExpd v w _ => if eSub w = 1 then some (v, 11, w) else none
  | .opVsmxNorm v w _ => if eSub w = 2 then some (v, 11, w) else none
  | .opVsmxMass v w _ => if 3 ≤ eSub w then some (v, 11, w) else none
  | .registerWrite _ _ _ _ | .counterReadClear _ | .logReadAdvance _ | .fabricRequest _ _ _ _ _ _ _ | .syncCellOperation _ _ _ | .majorFrameStart |
      .slotStart | .lakeRefreshSubslot | .fillEntryStart _ | .cutPoint _ | .lcOverrun _ | .frtLoadCmd _ | .frtLoadComplete | .ftSwitch | .ftStop |
      .waitcExpiry _ | .yieldResume _ | .endDoneIncrement _ | .swaitSatisfied _ | .swaitTimeout _ | .opScnRunComplete _ | .vatFaultInStream _ |
      .moverQueueEntry _ _ | .moverDescriptorStart _ _ | .moverDescriptorEnd _ _ | .moverDeadline _ _ _ | .heldOutputCompare _ _ | .coreCheckpoint _ _ |
      .journalApply _ | .arrayChecksum _ _ _ | .dieCopyUpdate _ | .migDemandMiss | .heldReadRelease | .pageFillComplete _ | .aquiferReadComplete _ _ |
      .aquiferReadTimeout | .aquiferLinkDown | .evictFrameFree | .sramScrub _ | .migCmdPush _ | .migCplRead | .migMap | .migUnmap | .migStage | .migLoad
      | .migPin | .migUnpin | .migDropL | .migDropR | .migClearFault | .harpArm _ | .harpDisarm _ | .harpRowArrival _ | .harpOutputRow _ | .harpFrameEnd
      _ | .harpGoldenAbandon _ | .walkerDoorbell _ | .walkerGather _ | .walkerAppend _ | .walkerAppendCommit _ | .walkerEvict _ | .swapOut _ _ | .swapIn
      _ _ | .init _ _ | .swapOutComplete _ | .swapInStart _ | .swapInComplete _ | .csiFrameStart _ _ _ | .csiPacket _ _ _ _ _ _ | .csiFrameEnd _ _ _ |
      .ethRxFrame _ _ _ _ | .spiTrigger _ _ | .spiTransferEnd _ _ _ | .canRxFrame _ _ _ _ _ _ | .sampleEnd _ | .sampleAccept | .egoTick | .alignEval _ |
      .associationJob _ | .solverJobArrive _ | .solverJobStart | .solverIterateDone | .solverDeadline | .solverRecordWrite | .planCycleStart |
      .planPrecheckEnd | .planPrepEnd | .planSweepStart | .planSweepEnd | .planRecheckEnd | .planDeadline | .planRecordWrite | .loopRun _ | .loopTick |
      .loopGroupStart | .servoCommandFrame _ | .servoFeedbackFrame _ _ _ | .feedbackCutoff _ | .servoLinkAlign _ | .servoLinkDown _ | .axisEnable _ |
      .axisDisable _ | .axisClear _ | .loopSegSwap _ | .loopTblDataWrite _ | .tbMeasWrite _ | .tbRateApply | .tbRateWrite _ | .tbStep _ | .tbServoEnable
      _ | .tbMeasTimeout | .tbHoldoverExpiry | .tbNowRead | .ptpFrameRx _ _ _ | .tsnDoorbellPoll | .tsnFrameFetch _ _ | .tsnFrameTxStart _ |
      .tsnFrameLate _ _ | .tsnFrameTxEnd _ | .tsnGclEnable _ _ | .tsnGclTakeEffect _ | .xslPortEnable _ _ | .xslPortTrained _ _ | .xslPortDown _ |
      .xslSlotFrameTx _ | .xslSlotFrameRx _ _ _ _ | .xslLanding _ | .xslFlitAge _ | .xslMessageTimeout | .xslTagRelease | .xslPeerTimeout _ |
      .xslGenAdvance _ _ | .xslLostClear _ | .doubtCodeSend | .doubtCodeReceive | .doubtCodeTimeout | .doubtQualify | .doubtGlitch | .doubtClear _ _ |
      .laneInjection _ _ _ | .pairCompare | .selftestSliceStart _ | .fbxTrjCommit _ | .fbxLate | .fbxTrackingStep | .fbxCommandFrame _ | .fbxEthSend |
      .fbxEndAction | .fbxHbReq _ | .fbxHbGo _ | .handbackComplete | .handbackTimeout | .hdHeartbeat | .hdHeartbeatMiss | .rindWdtKick _ | .watchdogMiss
      | .supplyLimit _ | .safeFrame | .powerPeriod | .multiplierApply _ | .pwrModeWrite _ | .droopAssert _ | .droopSwallowEnd _ | .thermalSample _ |
      .regionDiffSample | .regionSwallowEnd | .energySample _ | .pwrMeterCfgWrite _ _ | .hostDoorbell _ | .commandComplete _ _ _ | .identify _ |
      .getState _ | .sessionChallenge _ _ | .sessionOpen _ | .sessionClose _ | .sessionExpiry _ | .sessionLockoutEnd _ | .regRead _ | .eventRead _ |
      .snapshot _ | .workloadStart _ | .workloadStop _ | .imageLoad _ | .imageUnload _ | .hostDma _ | .batchSubmit _ | .handback _ | .cgSubmit _ |
      .cgCancel _ | .ftLoad _ | .workloadDefine _ | .migCmd _ | .storeWrite _ | .storeTrim _ | .fbRelay _ | .keyAdd _ | .keyRemove _ | .resetWarm _ |
      .resetCold _ | .resetPartition _ | .resetBegin | .fwStage _ | .fwActivate _ | .fuseProgram _ | .lifecycleAdvance _ | .bootPush _ |
      .firmwareInternalError | .cgSubmitWrite _ | .cgCancelWrite _ _ | .commitPoint _ | .commitEvaluate _ | .rindGroupApply _ | .eventMark _ _ |
      .mbxIrqWrite _ | .eventRecordPost _ _ _ _ _ _ _ | .evrFlushWrite | .evrFlushTimer | .evrWindowRead _ | .powerFailWarning _ | .powerFailRecovery |
      .nvInhibit | .snapshotTrigger _ | .snapInEdge | .snapshotCompareInstant | .obsRead _ _ | .obsStatus | .obsTrcPop | .rindPowerOn _ | .rindBootEnd _
      _ | .mcResetRelease | .startupStepEnd _ _ | .emptyTrajectoryCommit | .resetNAssert _ | .railPowerGoodLoss _ | .rootPllLoss _ | .rindSupplyLoss |
      .harpReadDeadline _ | .hostMailboxWrite _ _ | .aquiferNvmeReady _ _ | .droopRelease _ | .rindXtalStop => none

end Sys2Proof.Machine
end

