-- ==== Sys2Proof/Certificates/Slice0/Obligations.lean ====
section
/-! DEFINITION. The statements for the provers, each formalising rules of the spec (cited in OBLIGATIONS.json). Where a clause rests on a choice of
the model, the docstring names the log entry. -/

open Sys2Proof Sys2Proof.Machine


/-- A step takes the command at the front of the queue and answers what exec answers on the state with the queue's rest. -/
def Obligations.StepRunsTheFrontCommand : Prop :=
  ∀ (s : State) (c : Instr) (rest : List Instr), s.pending = c :: rest → Sys2Proof.Machine.step s = Sys2Proof.Machine.exec c { s with pending := rest }

/-- With no command waiting, a step is one period of the root clock (log entry 2, the model's choice). While the main complex has no clock and RCLK does not run,
the period moves the phase of RCLK and nothing else. -/
def Obligations.AnEmptyQueueLetsAPeriodPass : Prop :=
  ∀ (s : State), s.canonical = true → s.pending = [] →
    (∃ t, Sys2Proof.Machine.step s = .next t ∧ t.pending = [] ∧ t.rphase = (if s.rphase = 19 then 0 else s.rphase + 1) ∧
      t.tick = (if s.mainClk then s.tick + 1 else s.tick) ∧
      (s.rphase = 19 → s.rclkOn = true → t.rclk = s.rclk + 1) ∧ (s.rphase ≠ 19 ∨ s.rclkOn = false → t.rclk = s.rclk) ∧
      (s.mainClk = false → s.rphase ≠ 19 ∨ s.rclkOn = false → t = { s with rphase := t.rphase }))

/-- After reset nothing waits, the state is in canonical form, the authority is FALLBACK without SAFE and with no trajectory (15 R396), no port is in PORTEN, no slot
and no Vat runs, registers hold the reset values of their tables, and memory reads 0 (log entry 3, the model's choice). -/
def Obligations.ResetLeavesFallbackAndNothingRunning : Prop :=
  State.reset.pending = [] ∧ State.reset.canonical = true ∧ State.reset.auth = .fallback ∧ State.reset.safe = false ∧
    State.reset.fbx = Fbx.reset ∧ State.reset.frt = FrameTab.reset ∧
    State.reset.reg Reg.LOOP_PERIOD = 1600 ∧ State.reset.reg Reg.MBX_OWNER = 0xFFFF ∧ (∀ v : VatNo, State.reset.reg (Reg.VAT_CHK_LAG v) = 8) ∧ State.reset.mig = Migration.reset ∧
    (∀ v : VatNo, State.reset.vat v = Vat.reset) ∧ (∀ a, memByte State.reset.mem a = 0)

/-- Every command answers a next state; the queue stays as it is, and whatever the command may not change is as before. -/
def Obligations.EveryCommandAnswersWithinItsParts : Prop :=
  ∀ (c : Instr) (s : State), s.canonical = true → Answers c s (Only (changes c) s)

/-- Memory, sync cells and the register file stay in canonical form, and the block keeps its units, whatever a step does. -/
def Obligations.EveryStepKeepsCanonicalForm : Prop :=
  ∀ (s t : State), s.canonical = true → Sys2Proof.Machine.step s = .next t → t.canonical = true

/-- The lifecycle and the count fields go one way only, and a root key digest once written stands, whatever a step does (18 R489, R490). -/
def Obligations.FusesOnlyGainBits : Prop :=
  ∀ (s t : State), s.canonical = true → Sys2Proof.Machine.step s = .next t → s.keep.fusesLe t.keep = true

/-- SAFE ends only with the Rind's own reset, at power-on (15 R405, Table 18.5). The authority comes to MAIN only by the completion of a handback (15 R396, Table 15.5). -/
def Obligations.SafeAndMainChangeOnlyAsStated : Prop :=
  (∀ (s t : State), s.canonical = true → s.safe = true → Sys2Proof.Machine.step s = .next t →
     t.safe = true ∨ ∃ f, s.pending.head? = some (.rindPowerOn f)) ∧
  (∀ (s t : State), s.canonical = true → s.auth ≠ .main → Sys2Proof.Machine.step s = .next t →
     t.auth ≠ .main ∨ s.pending.head? = some .handbackComplete)


/-! ### The Vat sequencer (03) -/

/-- BR, BRI, CALL, CALLI and RET, taken: two delay long words follow and the target then issues; CALL pushes the address after them and leaves the loop levels open, RET pops it
(03 R93, R94). LOOP opens a level or skips its body, WAITC, YIELD and END hold the issue, and the end of a WAITC or YIELD lets it go on (03 R94 to R96). -/
def Obligations.BranchesLoopsAndWaitsGovernIssue : Prop :=
  (∀ (v : VatNo) (w : BitVec 56) (x : W64) (s : State), s.Ready v 0 w → branchBarred (s.issuer v 0).core = false →
     let c := (s.issuer v 0).core
     let rel := (BitVec.ofNat 64 c.pc + 128 * oImm 24 w x).toNat
     let there := (c.sreg (fld w 49 44)).toNat
     let after := fun (target : Nat) => { c with branch := some ⟨2, target, true⟩ }
     Answers (.opBr v w x) s (s.Issued v 0 traceParts (after rel)) ∧
     Answers (.opBri v w x) s (s.Issued v 0 traceParts (after there)) ∧
     (c.rets.length < 16 →
       Answers (.opCall v w x) s (s.Issued v 0 traceParts { c with branch := some ⟨2, rel, false⟩, rets := (c.pc + 3 * 128) :: c.rets }) ∧
       Answers (.opCalli v w x) s (s.Issued v 0 traceParts { c with branch := some ⟨2, there, false⟩, rets := (c.pc + 3 * 128) :: c.rets })) ∧
     (∀ (a : Nat) (l : List Nat), c.rets = a :: l → Answers (.opRet v w x) s (s.Issued v 0 traceParts { after a with rets := l }))) ∧
  (∀ (v : VatNo) (w : BitVec 56) (x : W64) (s : State),
     (s.Ready v 0 w →
       let t := s.issuer v 0
       let c := t.core
       let len := fld w 37 24
       let b := (cB c w x).toNat
       (1 ≤ len → len ≤ 4096 → c.loops.length < 4 →
         Answers (.opLoop v w x) s (s.Issued v 0 []
           (if b % 2 ^ 32 = 0 then { c with branch := some ⟨0, c.pc + 128 * (len + 1), false⟩, nextIssue := t.cyc + 3 }
            else { c with loops := ⟨c.pc + 128, c.pc + 128 * len, b % 2 ^ 32⟩ :: c.loops }))) ∧
       Answers (.opWaitc v w x) s (s.Issued v 0 [] { c with hold := .waitc (t.cyc + 1 + b % 2 ^ 24) }) ∧
       Answers (.opYield v w x) s (s.Issued v 0 [] { c with hold := .yield s.frt.slotStart }) ∧
       Answers (.opEnd v w x) s (s.Issued v 0 [] { c with hold := .ended none })) ∧
     (∀ n, s.mainClk = true → (s.vat v).core.hold = .waitc n → (s.vat v).lw = none → n ≤ (s.vat v).cyc →
       Answers (.waitcExpiry v) s (s.NewCore v [] { (s.vat v).core with hold := .none, nextIssue := n })) ∧
     (∀ n, s.mainClk = true → (s.vat v).core.hold = .yield n → (s.vat v).lw = none → n < s.frt.slotStart →
       Answers (.yieldResume v) s (s.NewCore v [] { (s.vat v).core with hold := .none, nextIssue := (s.vat v).cyc })))

/-- SADD, SSET and SRD send what they say to a sync cell or a register, SRD what the cell held after the cycle before; SWAIT holds the issue until its cell passes its test or its time
is up, and the kernel's end adds 1 to DONE_CELL once that increment has been compared (03 R96 to R98, R109). Operations that reach one sync cell in one cycle apply in the fixed order of R97 also where one of an
earlier place arrives later, and a read in that cycle does not see them; no other cell changes. -/
def Obligations.SyncCellOperations : Prop :=
  (∀ (v : VatNo) (w : BitVec 56) (x : W64) (s : State),
     (s.Ready v 0 w →
       let t := s.issuer v 0
       let c := t.core
       let named := (fld w 37 24 + (c.sreg (fld w 49 44)).toNat) % 16384
       Answers (.opSadd v w x) s (s.Issued v 0 [] (t.send c 0 (t.hold + 1) true (.cell named (.add (cB c w x))))) ∧
       Answers (.opSset v w x) s (s.Issued v 0 [] (t.send c 0 (t.hold + 1) true (.cell named (.set (cB c w x))))) ∧
       Answers (.opSrd v w x) s (s.Issued v 0 [] (t.send c 0 3 false (.sreg (fld w 49 44) (BitVec.ofNat 64 (s.cellSeen v (fld w 37 24)))))) ∧
       Answers (.opSwait v w x) s (s.Issued v 0 []
         { c with hold := .swait (fld w 37 24) (fld w 49 47) (c.sreg (fld w 43 38)) (fld w 46 44) t.cyc (cB c w x).toNat none })) ∧
     (∀ k cond thr pd i b held, s.mainClk = true → (s.vat v).core.hold = .swait k cond thr pd i b held →
       let cyc := (s.vat v).cyc
       let first := match held with | some n => some n | none => if swaitTest cond (s.cellSeen v k) thr.toNat = true then some cyc else none
       let after := fun (p : Bool) (next : Nat) =>
         if next ≤ cyc then { (s.vat v).core with hold := .none, nextIssue := next, preds := if pd = 0 then (s.vat v).core.preds else putBit (s.vat v).core.preds pd p }
         else { (s.vat v).core with hold := .none, nextIssue := next, flights := (s.vat v).core.flights ++ [⟨next, i, 0, false, .pred pd p⟩] }
       (∀ n, first = some n → (b = 0 ∨ n < i + b) → Answers (.swaitSatisfied v) s (s.NewCore v [] (after true (n + 2)))) ∧
       (0 < b → i + b ≤ cyc → (∀ n, first = some n → i + b ≤ n) → Answers (.swaitTimeout v) s (s.NewCore v [] (after false (i + b + 1))))) ∧
     (∀ n f, s.canonical = true → s.mainClk = true → (s.vat v).core.hold = .ended (some n) → f ∈ (s.vat v).core.flights → f.dest = .done → f.held = false → f.due ≤ (s.vat v).cyc →
       s.sliceOn v = none → s.cellNow v (kDoneCell (s.runEntry v)) = none →
       Answers (.endDoneIncrement v) s (fun t =>
         let k := kDoneCell (s.runEntry v)
         t.cell v k = (s.cell v k + 1) % 2 ^ 64 ∧ (∀ u j, cellKey u j ≠ cellKey v k → t.cell u j = s.cell u j) ∧ t.mem = s.mem))) ∧
  (∀ (v : VatNo) (k : Fin 16384) (s : State), s.canonical = true → s.mainClk = true →
     let apply := fun (x : Nat) (o : Nat × CellOp) => match o.2 with | .add y => (x + y.toNat) % 2 ^ 64 | .set y => y.toNat
     (∀ (ops : List (Fin 6 × CellOp)), s.cellNow v k = none → Answers (.syncCellOperation v k ops) s (fun t =>
       t.cell v k = (inCellOrder ops).foldl apply (s.cell v k) ∧ t.cellSeen v k = s.cell v k ∧
       (∀ (u : VatNo) (j : Fin 16384), (u, j) ≠ (v, k) → t.cell u j = s.cell u j) ∧ Only [.cells] s t)) ∧
     (∀ (i : Fin 6) (op : CellOp) (x : Nat) (l : List (Nat × CellOp)), s.cellNow v k = some (x, l) → (∃ o ∈ l, i.val < o.1) →
       Answers (.syncCellOperation v k [(i, op)]) s (fun t =>
         t.cell v k = (insertCellOp (i.val, op) l).foldl apply x ∧
         t.cellSeen v k = x ∧ (∀ (u : VatNo) (j : Fin 16384), (u, j) ≠ (v, k) → t.cell u j = s.cell u j) ∧ Only [.cells] s t)))


/-- The arithmetic of the scalar slots: each sends s[SA] op b to s[SD], in the next cycle or, for a product, after three (03 R87, R88, Table 3.9). Comparisons, predicate operations and RDC: what they send to p[PD] or s[SD] in the next cycle (03 R88, Table 3.9). -/
def Obligations.ScalarArithmeticAndComparisons : Prop :=
  (∀ (v : VatNo) (alu : Fin 2) (w : BitVec 56) (x : W64) (s : State), s.Ready v (1 + alu) w → fld w 31 16 = 0 →
     let t := s.issuer v (1 + alu)
     let a := t.core.sreg (fld w 43 38)
     let b := sB t.core w x
     ∀ e ∈ [(Instr.opAdd v alu w x, 1, a + b), (.opSub v alu w x, 1, a - b), (.opAnd v alu w x, 1, a &&& b), (.opOr v alu w x, 1, a ||| b),
         (.opXor v alu w x, 1, a ^^^ b), (.opShl v alu w x, 1, a <<< (b.toNat % 64)), (.opShr v alu w x, 1, a >>> (b.toNat % 64)),
         (.opSar v alu w x, 1, a.sshiftRight (b.toNat % 64)), (.opMin v alu w x, 1, if a.toInt ≤ b.toInt then a else b),
         (.opMax v alu w x, 1, if a.toInt ≤ b.toInt then b else a), (.opMinu v alu w x, 1, if a.toNat ≤ b.toNat then a else b),
         (.opMaxu v alu w x, 1, if a.toNat ≤ b.toNat then b else a), (.opMul v alu w x, 3, a * b),
         (.opMulhu v alu w x, 3, BitVec.ofNat 64 (a.toNat * b.toNat / 2 ^ 64))],
       Answers e.1 s (s.Issued v (1 + alu) [] (t.send t.core (1 + alu) e.2.1 false (.sreg (fld w 49 44) e.2.2)))) ∧
  (∀ (v : VatNo) (alu : Fin 2) (w : BitVec 56) (x : W64) (s : State), s.Ready v (1 + alu) w → fld w 31 16 = 0 →
     let t := s.issuer v (1 + alu)
     let a := t.core.sreg (fld w 43 38)
     let b := sB t.core w x
     let p := t.core.pred (fld w 41 38)
     let q := t.core.pred (fld w 35 32)
     (fld w 49 48 = 0 → ∀ e ∈ [(Instr.opCmpeq v alu w x, decide (a = b)), (.opCmplt v alu w x, decide (a.toInt < b.toInt)),
         (.opCmpltu v alu w x, decide (a.toNat < b.toNat))],
       Answers e.1 s (s.Issued v (1 + alu) [] (t.send t.core (1 + alu) 1 false (.pred (fld w 47 44) e.2)))) ∧
     (fld w 49 48 = 0 → fld w 43 42 = 0 → fld w 37 36 = 0 →
       ∀ e ∈ [(Instr.opPand v alu w x, p && q), (.opPor v alu w x, p || q), (.opPxor v alu w x, p != q)],
         Answers e.1 s (s.Issued v (1 + alu) [] (t.send t.core (1 + alu) 1 false (.pred (fld w 47 44) e.2)))) ∧
     Answers (.opRdc v alu w x) s (s.Issued v (1 + alu) [] (t.send t.core (1 + alu) 1 false (.sreg (fld w 49 44) (BitVec.ofNat 64 (vatVcyc t))))))

/-- LD sends the eight bytes at s[SA] + IMM16 to s[SD] after six cycles; ST sends s[SB] to Pond there, held, after H + 3; memory is as before when
either has issued (03 R88, R103, R109). -/
def Obligations.ScalarLoadAndStore : Prop :=
  ∀ (v : VatNo) (alu : Fin 2) (w : BitVec 56) (x : W64) (s : State), s.Ready v (1 + alu) w → fld w 31 16 = 0 →
    let t := s.issuer v (1 + alu)
    let off := (t.core.sreg (fld w 43 38) + oImm 16 w x).toNat
    (s.canonical = true → off % 8 = 0 → s.pondMay v off 8 false = true → s.poisoned (pondAddr v off) 8 = false →
      Answers (.opLd v alu w x) s (s.Issued v (1 + alu) correctParts (t.send (t.core.touch t.cyc 5 (1 + alu) [(0, off, 8)] false) (1 + alu) 6 false
        (.sreg (fld w 49 44) (BitVec.ofNat 64 (s.loadLE (pondAddr v off) 8)))))) ∧
    (off % 8 = 0 → s.pondMay v off 8 true = true →
      Answers (.opSt v alu w x) s (s.Issued v (1 + alu) [] (t.send (t.core.touch t.cyc 5 (1 + alu) [(t.hold + 2, off, 8)] true) (1 + alu) (t.hold + 3) true
        (.pond off (toLE 8 (t.core.sreg (fld w 37 32)).toNat)))))

/-- The address generators: ALD, ASET and ARST change a descriptor or its position, VLD and VST move one vector through it, ASKIP moves its position
(03 R99 to R103, Table 3.9; 04 R120, R121). -/
def Obligations.AddressGenerators : Prop :=
  ∀ (v : VatNo) (ag : Fin 4) (w : BitVec 56) (x : W64) (s : State), s.Ready v (3 + ag) w → fld w 27 16 = 0 →
    let t := s.issuer v (3 + ag)
    let a := fld w 49 45
    let val := t.core.sreg (fld w 39 34) + oImm 16 w x
    let d := parseDesc (t.core.desc a)
    let p := d.at (t.core.pos a)
    t.core.agFree t.cyc ag a = true →
    (s.canonical = true → val.toNat % 64 = 0 → s.pondMay v val.toNat 64 false = true → s.poisoned (pondAddr v val.toNat) 64 = false →
      Answers (.opAld v ag w x) s (s.Issued v (3 + ag) correctParts (t.send ((t.core.bind t.cyc ag a 1).touch t.cyc (1 + ag) (3 + ag) [(0, val.toNat, 64)] false)
        (3 + ag) 8 false (.desc a (s.bytes (pondAddr v val.toNat) 64))))) ∧
    (fld w 33 28 < 22 → Answers (.opAset v ag w x) s (s.Issued v (3 + ag) []
      (t.send (t.core.bind t.cyc ag a 1) (3 + ag) 1 false (.descField a (fld w 33 28) val.toNat)))) ∧
    Answers (.opArst v ag w x) s (s.Issued v (3 + ag) [] { t.core.bind t.cyc ag a 1 with poss := mapSet 0 t.core.poss a 0 }) ∧
    (d.usable = true →
      (∀ codes exps, s.canonical = true → s.agVector v d (t.core.pos a) = .inr (codes, exps) → s.ReadsWhole v (d.reads (t.core.pos a)) →
        Answers (.opVld v ag w x) s (s.Issued v (3 + ag) correctParts (t.send
          (((t.core.bind t.cyc ag a d.occ).step a 1 d.steps).touch t.cyc (1 + ag) (3 + ag) (d.accesses (t.core.pos a) 0 d.occ) false)
          (3 + ag) (5 + d.occ) false (.vreg (fld w 44 40) (lanes512 (List.zipWith d.lane codes exps)))))) ∧
      (p.2 = true → Answers (.opVst v ag w x) s (s.Issued v (3 + ag) [] ((t.core.bind t.cyc ag a d.occ).step a 1 d.steps))) ∧
      (p.2 = false → s.spanMay v p.1 d.vbytes true = true → (d.expBase = 0 ∨ s.spanMay v (d.expSpan p.1).1 (d.expSpan p.1).2 true = true) →
        Answers (.opVst v ag w x) s (s.Issued v (3 + ag) [] ((d.stores p.1 (t.core.vreg (fld w 44 40))).foldl
          (fun c b => t.send c (3 + ag) (t.hold + 2 + d.occ) true b)
          (((t.core.bind t.cyc ag a d.occ).step a 1 d.steps).touch t.cyc (1 + ag) (3 + ag) (d.storeAccesses p.1 (t.hold + 2)) true)))) ∧
      Answers (.opAskip v ag w x) s (s.Issued v (3 + ag) [] ((t.core.bind t.cyc ag a 1).step a val.toInt d.steps)))

/-- TWLD loads 128 vectors into a weight buffer after 68 cycles, TMM sends the rows it forms to their accumulator rows, each at its latency (03 R88 to
R90; 04 R117, R118, R122 to R125, R136). -/
def Obligations.TileLoadsAndProducts : Prop :=
  ∀ (v : VatNo) (tile : TileNo) (w : BitVec 56) (x : W64) (s : State), s.canonical = true → s.Ready v (7 + tile) w → fld w 13 0 = 0 →
    let t := s.issuer v (7 + tile)
    let fmt := fld w 23 21
    let g := fld w 49 48
    let a := fld w 47 43
    let key := tile * 2 + fld w 20 20
    let d := (parseDesc (t.core.desc a)).noExp (fmt == 5)
    let k := t.core.pos a
    let touched := fun (c : VatCore) (l : List (Nat × Nat × Nat)) => c.touch t.cyc (1 + g) (7 + tile) l false
    t.core.agFree t.cyc g a = true → d.usable = true →
    (∀ xs, t.core.twUntil.getD tile 0 ≤ t.cyc → t.core.wbUntil.getD key 0 ≤ t.cyc → d.fits fmt true = true → (fmt = 2 → d.expBase ≠ 0) →
      s.agStream v d k 128 = (xs, none) → (fmt = 2 → s.superFirst v d k 128 = none) → s.ReadsWhole v (d.streamReads k 128) →
      Answers (.opTwld v tile w x) s (s.Issued v (7 + tile) correctParts
        (let c := (t.core.bind t.cyc g a 64).step a 128 d.steps
         t.send (touched { c with twUntil := listSet c.twUntil tile (t.cyc + 64) } (d.streamAccesses k 128 1 2 (fmt == 2))) (7 + tile) 68 false
           (.wbuf key (s.weights v t.core tile fmt d k xs))))) ∧
    (∀ b xs, t.core.wbufs.find? (fun e => e.1 == key) = some (key, b) → t.core.tileUntil.getD tile 0 ≤ t.cyc → scanOnTile t tile = false →
      lockedOut t.lock tile (fld w 42 39) (s.runPart v) = false → d.fits fmt false = true → fld w 38 32 + tN w ≤ 128 → b.fmt = some fmt →
      s.agStream v d k (tN w) = (xs, none) → s.ReadsWhole v (d.streamReads k (tN w)) →
      Answers (.opTmm v tile w x) s (s.Issued v (7 + tile) correctParts
        (let occ := tN w * (if fmt = 5 then 4 else 1)
         let c := (t.core.bind t.cyc g a occ).step a (tN w) d.steps
         (List.range xs.length).foldl (fun c i => t.send c (7 + tile) (if fmt = 5 then 148 + 4 * i else 140 + i) false
             (rowResult fmt (integerMode fmt d b) (bit w.toNat 19) b (xs.getD i ([], [])) (accKey tile (fld w 42 39) (fld w 38 32 + i))))
           ((touched { c with tileUntil := listSet c.tileUntil tile (t.cyc + occ), wbUntil := listSet c.wbUntil key (t.cyc + occ + 128) }
             (d.streamAccesses k (tN w) (if fmt = 5 then 4 else 1) 1 false)).noteTmm t.cyc tile
               (t.cyc + (if fmt = 5 then 148 + 4 * (tN w - 1) else 140 + (tN w - 1))) (s.runKernel v) (s.runLC v)))))

/-- TRD sends four rows of a bank to a vector register and moves the read pointer, TCLR clears the banks of its mask, TLUT loads the LN4 table (03 R91,
Table 3.9; 04 R116). With AUTO = 0 and a ROW0 that is no multiple of 4 the rows and the pointer are free values (log entry 22). -/
def Obligations.TileReadsAndTables : Prop :=
  ∀ (v : VatNo) (tile : TileNo) (w : BitVec 56) (x : W64) (s : State), s.Ready v (7 + tile) w →
    let t := s.issuer v (7 + tile)
    let p := mapGet 0 t.core.rptr tile
    let r := if bit w.toNat 31 = true then (p / 128, p % 128) else (fld w 42 39, fld w 38 32)
    (fld w 13 0 = 0 → lockedOut t.lock tile r.1 (s.runPart v) = false →
      ((bit w.toNat 31 = true ∨ fld w 38 32 % 4 = 0) →
        Answers (.opTrd v tile w x) s (s.Issued v (7 + tile) []
          (t.send { t.core with rptr := mapSet 0 t.core.rptr tile ((r.1 * 128 + r.2 + 4) % 2048) } (7 + tile) 4 false
            (.vreg (fld w 18 14) (t.core.fourRows tile r.1 r.2))))) ∧
      ((bit w.toNat 31 = false ∧ fld w 38 32 % 4 ≠ 0) →
        Answers (.opTrd v tile w x) s (s.Issued v (7 + tile) [.free]
          (t.send { t.core with rptr := mapSet 0 t.core.rptr tile ((Config.freeWord (s.free + 512)).toNat % 512 * 4) } (7 + tile) 4 false
            (.vreg (fld w 18 14) ((List.range 512).map (fun i => (Config.freeWord (s.free + i)).setWidth 32))))))) ∧
    (fld w 49 16 = 0 → (∀ b, b < 16 → bit (fld w 15 0) b = true → lockedOut t.lock tile b (s.runPart v) = false) →
      Answers (.opTclr v tile w x) s (s.Issued v (7 + tile) [] (t.send t.core (7 + tile) 1 false (.accClear tile (fld w 15 0))))) ∧
    (fld w 13 0 = 0 →
      let g := fld w 49 48
      let a := fld w 47 43
      let d := (parseDesc (t.core.desc a)).noExp true
      let k := t.core.pos a
      ∀ codes exps, s.canonical = true → t.core.agFree t.cyc g a = true → d.usable = true → d.vec = 16 → d.elem = 1 →
        s.agVector v d k = .inr (codes, exps) → s.ReadsWhole v (d.reads k) →
        Answers (.opTlut v tile w x) s (s.Issued v (7 + tile) correctParts
          (let c := (t.core.bind t.cyc g a 1).step a 1 d.steps
           t.send (c.touch t.cyc (1 + g) (7 + tile) (d.accesses k 0 1) false) (7 + tile) 4 false
             (.lut tile (codes.map (toInt 8))))))

/-- The element-wise pipeline: each operation sends v[VD], lane by lane from its sources, after its latency; VBC spreads and VEXT takes one lane (03
Table 3.9; 04 R127 to R133). A SUB that an operation does not define is in its own clause. -/
def Obligations.ElementwiseOperations : Prop :=
  ∀ (v : VatNo) (w : BitVec 56) (x : W64) (s : State), s.Ready v 11 w →
    let t := s.issuer v 11
    let a := t.core.vreg (fld w 44 40)
    let b := t.core.vreg (fld w 39 35)
    let c := t.core.vreg (fld w 34 30)
    let sub := fld w 23 20
    let sends := fun (lat : Nat) (l : List W32) => s.Issued v 11 [] (t.send t.core 11 lat false (.vreg (fld w 49 45) l))
    (fld w 19 0 = 0 →
      (∀ e ∈ [(Instr.opVadd v w x, 4, List.zipWith fadd a b), (.opVsub v w x, 4, List.zipWith fsub a b), (.opVmax v w x, 4, List.zipWith fmax a b),
          (.opVmin v w x, 4, List.zipWith fmin a b), (.opVmul v w x, 5, List.zipWith fmul a b),
          (.opVfma v w x, 5, List.zipWith (fun f z => f z) (List.zipWith ffma a b) c), (.opVexp2 v w x, 8, a.map fexp2),
          (.opVlog2 v w x, 8, a.map flog2), (.opVrcp v w x, 9, a.map frcp), (.opVrsq v w x, 9, a.map frsq), (.opVsig v w x, 11, a.map fsig),
          (.opVtanh v w x, 11, a.map ftanh), (.opVrmax v w x, 12, groups fmax a b c), (.opVrsum v w x, 12, groups fadd a b c),
          (.opVsel v w x, 2, List.zipWith (fun f z => f z) (List.zipWith (fun p q r => if r = 0 then q else p) a b) c)],
        Answers e.1 s (sends e.2.1 e.2.2)) ∧
      Answers (.opVbc v w x) s (sends 2 (List.replicate 512 ((t.core.sreg (fld w 29 24)).setWidth 32))) ∧
      (sub < 8 → Answers (.opVcvt v w x) s (sends 3 (a.map (cvtLane sub)))) ∧
      (sub < 3 → Answers (.opVscl v w x) s (sends 4 (List.zipWith (sclLane sub) a b))) ∧
      (sub < 5 → Answers (.opVqnt v w x) s (sends 6 (quantise sub a b c)))) ∧
    (fld w 19 16 = 0 → fld w 15 9 = 0 → extLane w x ≤ 511 →
      Answers (.opVext v w x) s (s.Issued v 11 [] (t.send t.core 11 3 false (.sreg (fld w 29 24) ((a.getD (extLane w x) 0).setWidth 64)))))

/-- The attention steps of VSMX: MASK, EXPD, NORM and MASS (07 R206 to R208, R224). The mass array's address is a reading of the spec (log entry 25). -/
def Obligations.SoftmaxSteps : Prop :=
  ∀ (v : VatNo) (w : BitVec 56) (x : W64) (s : State), s.Ready v 11 w → fld w 19 0 = 0 →
    let t := s.issuer v 11
    let a := t.core.vreg (fld w 44 40)
    let b := t.core.vreg (fld w 39 35)
    let c := t.core.vreg (fld w 34 30)
    let sends := fun (l : List W32) => s.Issued v 11 [] (t.send t.core 11 14 false (.vreg (fld w 49 45) l))
    (fld w 23 20 = 0 → Answers (.opVsmxMask v w x) s (sends ((List.range 512).map (fun n =>
      if masked (b.getD (n % 128) 0).toNat (c.getD (n / 128 * 128) 0).toNat then negInf else a.getD n 0)))) ∧
    (fld w 23 20 = 1 → Answers (.opVsmxExpd v w x) s (sends (List.zipWith (fun p q => if p = negInf then 0 else fexp2 (fsub p q)) a b))) ∧
    (fld w 23 20 = 2 → Answers (.opVsmxNorm v w x) s (sends (List.zipWith (fun p q => if q = posInf then 0 else fmul p q) a b))) ∧
    (fld w 23 20 = 3 → t.core.massUntil ≤ t.cyc →
      let ws := massWeights a c
      let up := s.massUpdates v (t.core.sreg (fld w 29 24)).toNat b ws
      (∀ e ∈ up, s.pondMay v e.1 4 true = true) →
      Answers (.opVsmxMass v w x) s (s.Issued v 11 []
        (t.send (t.send (massAccess { t.core with massUntil := t.cyc + 128 } t.cyc t.hold up) 11 14 false (.vreg (fld w 49 45) ws)) 11 (t.hold + 144) true (.mass up))))

/-- VRMAX and VRSUM reduce each group of 128 lanes by the fixed tree and send its result to every lane of the group (04 R130). -/
def Obligations.ReductionsFollowTheFixedTree : Prop :=
  ∀ (v : VatNo) (w : BitVec 56) (x : W64) (s : State), s.Ready v 11 w → fld w 19 0 = 0 → ((s.issuer v 11).core.vreg (fld w 44 40)).length = 512 →
    ∀ e ∈ [(Instr.opVrmax v w x, fmax), (.opVrsum v w x, fadd)],
      ∃ l, Answers e.1 s (s.Issued v 11 [] ((s.issuer v 11).send (s.issuer v 11).core 11 12 false (.vreg (fld w 49 45) l))) ∧ l.length = 512 ∧
        ∀ g, g < 4 → ∀ level : Nat → Nat → W32,
          (∀ k, k < 128 → level 0 k = ((s.issuer v 11).core.vreg (fld w 44 40)).getD (128 * g + k) 0) →
          (∀ n k, n < 7 → k < 2 ^ (6 - n) → level (n + 1) k = e.2 (level n (2 * k)) (level n (2 * k + 1))) →
          ∀ j, j < 128 → l.getD (128 * g + j) 0 = level 7 0

/-- In integer mode a tile forms the exact sum of products, of magnitude at most 2,097,152; with ZERO = 1 the row becomes it, with ZERO = 0 the clamped sum of
it and the row (04 R124). -/
def Obligations.IntegerTileSumsAreExact : Prop :=
  ∀ (fmt : Nat) (b : WBuf) (codes exps : List Nat) (c : VatCore) (key j : Nat), (fmt = 0 ∧ codes.length = 128 ∨ fmt = 1 ∧ codes.length = 256) → j < 128 →
    mapWf (zeros 128) c.acc = true → (c.accRow key).length = 128 →
    let weight := fun (i : Nat) => if fmt = 1 then toInt 4 ((b.codes.getD (i / 2) []).getD (2 * j + i % 2) 0) else toInt 8 ((b.codes.getD i []).getD j 0)
    let element := fun (i : Nat) => if fmt = 1 then toInt 4 (codes.getD i 0) else toInt 8 (codes.getD i 0)
    let sum := ((List.range codes.length).map (fun i => element i * weight i)).foldl (· + ·) 0
    sum.natAbs ≤ 2097152 ∧
    ((VatCore.land c c (rowResult fmt true true b (codes, exps) key)).accRow key).getD j 0 = BitVec.ofInt 32 sum ∧
    ((VatCore.land c c (rowResult fmt true false b (codes, exps) key)).accRow key).getD j 0 =
      BitVec.ofInt 32 (max (-2147483648) (min (((c.accRow key).getD j 0).toInt + sum) 2147483647))

/-- The scan operations of slot 12: with the unit free and the descriptor in reach, the check of t + 6 is on its way, and RUN reads its pair at t + 8 or discards its
chunk, ANCH, SAVE and LOAD send the pair renormalised, to Pond or from it (08 R228, R229, R232, R236, R238). A finished chunk: its pair, with the automatic anchor where it applies, its counters and its stream's STEPS and DISP, and the completion on its way
(08 R232, R234 to R236). -/
def Obligations.ScanOperations : Prop :=
  (∀ (v : VatNo) (w : BitVec 56) (x : W64) (s : State), s.canonical = true → s.Ready v 12 w → fld w 36 16 = 0 →
     let t := s.issuer v 12
     let off := (t.core.sreg (fld w 49 44) + oImm 16 w x).toNat
     let d := s.bytes (pondAddr v off) 64
     let acc := fld w 43 40
     let busy := fun (n tile kind : Nat) (gone : Bool) =>
       t.send { t.core.touch t.cyc 6 12 [(0, off, 64)] false with scnUntil := t.cyc + n, scnFrom := t.cyc, scnTile := tile } 12 6 false
         (.scnCheck kind acc (chunkLen w) t.core.pc (s.runPart v) gone d)
     let main := t.core.bankRows (sdTile d) acc
     let err := t.core.bankRows (sdTile d) (acc + 1)
     t.core.scnUntil ≤ t.cyc → off % 64 = 0 → s.pondMay v off 64 false = true → s.poisoned (pondAddr v off) 64 = false →
     (nLc w ≤ 4 →
       let op : ScanOp :=
         { issued := t.cyc, pc := t.core.pc, part := s.runPart v, lc := chunkLen w, n := fieldLE d 0x1C 2, stream := sdStream d,
           tile := sdTile d, acc := acc, dmode := fieldLE d 0x19 1, g := sdPlane d 0, x := sdPlane d 1, b := sdPlane d 2, q := sdPlane d 3,
           gd := sdPlane d 4, yd := sdPlane d 5, cell := fieldLE d 0x1E 2 % 16384, comp := !bit (fieldLE d 0x1E 2) 15 }
       let n := min op.n op.lc
       ((sdStream d = 255 ∨ s.strSt v (sdStream d) = 2) →
         Answers (.opScnRun v w x) s (s.Issued v 12 correctParts (t.send
           (((busy (chunkLen w + 16) (sdTile d) 0 false).touch t.cyc 6 12 (planeAccesses 8 n op.reads) false).touch t.cyc 6 12
             (planeAccesses (t.hold + 32) n op.writes) true) 12 8 false (.scnStart op)))) ∧
       (sdStream d ≠ 255 → s.strSt v (sdStream d) ≠ 2 →
         Answers (.opScnRun v w x) s (s.Issued v 12 correctParts
           (let c1 := t.send (busy (chunkLen w + 16) (sdTile d) 0 true) 12 6 false (.scnDiscard (sdStream d))
            if op.comp = true then t.send c1 12 (chunkLen w + t.hold + 49) false (.scnDone 255 op.cell true 0x100000001#64) else c1)))) ∧
     (Answers (.opScnAnch v w x) s (s.Issued v 12 correctParts
         (t.send (t.sendPair (busy 32 4 1 false) 40 (sdTile d) acc (renormRows main err).1 (renormRows main err).2) 12 40 false .scnAnch))) ∧
     (Answers (.opScnSave v w x) s (s.Issued v 12 correctParts
       (t.send ((busy 256 4 2 false).touch t.cyc 6 12 (planeAccesses (t.hold + 4) 256 [sdArea d]) true) 12 (t.hold + 260) true
         (.pond (sdArea d) (pairBytes main err))))) ∧
     (Answers (.opScnLoad v w x) s (s.Issued v 12 correctParts
         (t.sendPair ((busy 256 4 3 false).touch t.cyc 6 12 (planeAccesses 6 256 [sdArea d]) false) 262 (sdTile d) acc (s.pairAt v (sdArea d)).1 (s.pairAt v (sdArea d)).2)))) ∧
  (∀ (v : VatNo) (s : State) (k : Chunk) (rest : List Chunk) (end_ : Bool × Nat), s.canonical = true → s.mainClk = true → (s.vat v).core.chunk = k :: rest →
     k.ends = some end_ → k.op.issued + k.late + k.op.lc + 48 ≤ (s.vat v).cyc →
     let due := k.op.issued + k.late + k.op.lc + 48
     let m := k.op.stream
     let old := s.reg (Reg.SCN_STR_STEPS v m)
     let anchor := m ≠ 255 ∧ strAuto (s.strCfg v m) = true ∧ old / 65536 < (old + k.op.n) % 2 ^ 64 / 65536
     Answers (.opScnRunComplete v) s (fun t =>
       (∃ p, (anchor → p = renormRows k.main k.err) ∧ (¬ anchor → p = (k.main, k.err)) ∧
         t.vat v = { s.vat v with core := { ((s.vat v).core.setPairBut k.op.tile k.op.acc (fun x => ((s.vat v).meets due k.op.issued x).2) p.1 p.2) with
           chunk := rest,
           flights := (s.vat v).core.flights ++ [⟨due + (s.vat v).hold + 1, k.op.issued, 12, false, .scnDone m k.op.cell k.op.comp 1⟩] } }) ∧
       (∀ u, u ≠ v.val → t.vat u = s.vat u) ∧ Only [.vats, .regs] s t ∧
       t.reg (Reg.SCN_RUN_CNT v) = (s.reg (Reg.SCN_RUN_CNT v) + 1) % 2 ^ 32 ∧
       (end_.1 = true → t.reg (Reg.SCN_NAN_CNT v) = (s.reg (Reg.SCN_NAN_CNT v) + 1) % 2 ^ 32) ∧
       RegsBut [Reg.SCN_RUN_CNT v, Reg.VAT_WCOLL_CNT v, Reg.SCN_NAN_CNT v, Reg.SCN_CLAMP_CNT v, Reg.SCN_ANCH_CNT v, Reg.SCN_STR_STEPS v m, Reg.SCN_STR_STATE v m] s t))

/-- The swap engine: an accepted SWAP_OUT makes the stream OUT and clears RES_CELL, an accepted SWAP_IN or INIT makes it due, and the engine starts the
earliest due swap-in (08 R239, R240, Table 8.4; the order of waiting swap-outs is the model's choice, log entry 26). A swap-out ends 260 cycles after its start with the pair's 128 KiB at the save area, no other byte changed, and the stream ABSENT; a swap-in ends after
262 with the pair loaded, or zero for INIT, and the stream RESIDENT two cycles later (08 R239, R240). -/
def Obligations.StreamSwaps : Prop :=
  (∀ (v : VatNo) (m : Fin 64) (s : State), s.canonical = true → s.mainClk = true →
     let q := s.swap v
     let now := (s.vat v).cyc
     let touched := fun (first : Nat) (m : Nat) (write : Bool) (t : State) =>
       t.vat v = { s.vat v with core := (s.vat v).core.touch now 9 17 (planeAccesses first 256 [s.saveArea v m]) write } ∧ ∀ u, u ≠ v.val → t.vat u = s.vat u
     let due := fun (init : Bool) => fun (t : State) => Only [.swaps] s t ∧
       t.swap v = { q with
         due := if q.due.any (fun e => e.2.1 == m.val) = true then q.due.map (fun e => if e.2.1 = m.val then (e.1, m.val, e.2.2 || init) else e)
           else q.due ++ [(now, m.val, init)] }
     (s.swapAnswer v m true = 0 → Answers (.swapOut v m) s (fun t =>
       Only [.regs, .cells, .swaps, .vats] s t ∧ t.strSt v m = 3 ∧ RegsBut [Reg.SCN_STR_STATE v m] s t ∧
       (s.cellFree v (s.resCell v m) 3 = true → t.cell v (s.resCell v m) = 0) ∧
       (∀ u j, cellKey u j ≠ cellKey v (s.resCell v m) → t.cell u j = s.cell u j) ∧
       (q.busy ≠ none → t.swap v = { q with outs := q.outs ++ [m.val] } ∧ t.vats = s.vats) ∧
       (q.busy = none → touched 4 ((q.outs ++ [m.val]).headD 0) true t ∧ t.swap v = { q with
         busy := some ⟨(q.outs ++ [m.val]).headD 0, false, false, now⟩, outs := (q.outs ++ [m.val]).tail }))) ∧
     (s.swapAnswer v m false = 0 → Answers (.swapIn v m) s (due false) ∧ Answers (.init v m) s (due true)) ∧
     (∀ e, q.busy = none → s.firstDue v = some e → s.saveOk v e.2.1 = true → Answers (.swapInStart v) s (fun t =>
       Only [.regs, .swaps, .vats] s t ∧ (e.2.2 = true → t.vats = s.vats) ∧ (e.2.2 = false → touched 0 e.2.1 false t) ∧ t.strSt v e.2.1 = 1 ∧ RegsBut [Reg.SCN_STR_STATE v e.2.1] s t ∧
       t.swap v = { q with busy := some ⟨e.2.1, true, e.2.2, now⟩, due := q.due.filter (fun x => x.2.1 != e.2.1) }))) ∧
  (∀ (v : VatNo) (s : State) (b : Swap), s.canonical = true → s.mainClk = true → (s.swap v).busy = some b →
     let c := s.strCfg v b.stream
     let core := (s.vat v).core
     let next := fun (q : SwapEng) (k : VatCore) (t : State) => (∀ u, u ≠ v.val → t.vat u = s.vat u) ∧
       match q.outs with
       | [] => t.swap v = q ∧ t.vat v = { s.vat v with core := k }
       | m :: l => t.swap v = { q with busy := some ⟨m, false, false, (s.vat v).cyc⟩, outs := l } ∧
         t.vat v = { s.vat v with core := k.touch (s.vat v).cyc 9 17 (planeAccesses 4 256 [s.saveArea v m]) true }
     let area := s.saveArea v b.stream
     let image := pairBytes (core.bankRows (strTile c) (strAcc c)) (core.bankRows (strTile c) (strAcc c + 1))
     (b.inward = false → b.start + 260 ≤ (s.vat v).cyc → Answers (.swapOutComplete v) s (fun t =>
       (∀ i (h : i < image.length), memByte t.mem (pondAddr v area + i) = image[i]) ∧
       (∀ a, a < pondAddr v area ∨ pondAddr v area + image.length ≤ a → memByte t.mem a = memByte s.mem a) ∧
       t.strSt v b.stream = 0 ∧ t.reg (Reg.SCN_SWAP_CNT v) = (s.reg (Reg.SCN_SWAP_CNT v) + 1) % 2 ^ 32 ∧
       RegsBut [Reg.SCN_STR_STATE v b.stream, Reg.SCN_SWAP_CNT v] s t ∧ next { s.swap v with busy := none } core t ∧
       Only [.regs, .mem, .poison, .upset, .pwr, .swaps, .vats] s t)) ∧
     (b.inward = true → b.start + 262 ≤ (s.vat v).cyc →
       let zero := List.replicate 128 (zeros 128)
       let landed := fun (main err : List (List W32)) => fun (t : State) =>
         t.mem = s.mem ∧ next { s.swap v with busy := none, landing := (s.swap v).landing ++ [(b.start + 264, b.stream)] }
           (core.setPair (strTile c) (strAcc c) main err) t
       (b.init = true → Answers (.swapInComplete v) s (fun t => landed zero zero t ∧ t.reg (Reg.SCN_STR_STEPS v b.stream) = 0 ∧
         t.reg (Reg.SCN_SWAP_CNT v) = (s.reg (Reg.SCN_SWAP_CNT v) + 1) % 2 ^ 32 ∧ RegsBut [Reg.SCN_STR_STEPS v b.stream, Reg.SCN_SWAP_CNT v] s t)) ∧
       (b.init = false → s.poisoned (pondAddr v area) 0x20000 = false →
         Answers (.swapInComplete v) s (landed (s.pairAt v area).1 (s.pairAt v area).2))))


/-- MPUSH sends its descriptor towards the queue, faults MQ_FULL at 4,096 outstanding ones, MCNT and MSTAT send the count and the last error; the
descriptor then enters at the tail (03 R107, R109, Table 3.9). -/
def Obligations.MoverQueues : Prop :=
  ∀ (v : VatNo) (m : Fin 2) (w : BitVec 56) (x : W64) (s : State), s.canonical = true → s.mainClk = true →
    (s.Ready v (13 + m) w → fld w 37 16 = 0 →
      let t := s.issuer v (13 + m)
      let off := (t.core.sreg (fld w 49 44) + oImm 16 w x).toNat
      (moverCount t.core m < 4096 → off % 64 = 0 → s.pondMay v off 64 false = true → s.sliceOn v = none → s.poisoned (pondAddr v off) 64 = false →
        Answers (.opMpush v m w x) s (s.Issued v (13 + m) correctParts
          (t.send (t.core.touch t.cyc 5 (13 + m) [(0, off, 64)] false) (13 + m) (t.hold + 4) true (.mpush m (s.bytes (pondAddr v off) 64))))) ∧
      (4096 ≤ moverCount t.core m → Answers (.opMpush v m w x) s (fun u => u = (s.begun v (13 + m)).issueFault v (13 + m) fMqFull)) ∧
      Answers (.opMcnt v m w x) s (s.Issued v (13 + m) []
        (t.send t.core (13 + m) 2 false (.sreg (fld w 43 38) (BitVec.ofNat 64 (moverCount t.core m))))) ∧
      Answers (.opMstat v m w x) s (s.Issued v (13 + m) []
        (t.send (t.send t.core (13 + m) 2 false (.sreg (fld w 43 38) (BitVec.ofNat 64 (s.reg (Reg.VAT_MV_LASTERR v m))))) (13 + m) 1 false (.mstat m)))) ∧
    (∀ (i : Nat) (f : Flight) (b : List Byte), let c := (s.vat v).core
      c.flights[i]? = some f → f.dest = .mpush m b → f.held = false → f.due ≤ (s.vat v).cyc → m < c.movers.length →
      (∀ j g, j < i → c.flights[j]? = some g → ∀ d, g.dest = .mpush m d → g.held = true ∨ (s.vat v).cyc < g.due) →
      Answers (.moverQueueEntry v m) s (s.NewCore v [] { c with
        flights := c.flights.eraseIdx i, movers := listModify (fun q => q.push b) c.movers m }))

/-- A descriptor starts when it owns the path of its first request: a copy on this device whose paths are all owned moves its rows, a sync-cell operation is applied, and
one whose verdict is against it has its status fixed. It ends when nothing of it is outstanding: it leaves the queue and its completion operation adds 1, or 1 and 2^32 for a
failure. A deadline that passes first fixes its status, TIER_LATE while a part waits on a lower tier and else DEADLINE_MISS, and a copy's write that was on the fabric already lands
(03 R105, R106; 05 R153, R156). A fault found in a
stream takes effect in its cycle: it is recorded, and the Vat is marked faulted and issues nothing more (03 R111). -/
def Obligations.MoverDescriptorsAndStreamFaults : Prop :=
  (∀ (v : VatNo) (m : Fin 2) (s : State) (e : MvEntry), s.canonical = true → s.mainClk = true → m < (s.vat v).core.movers.length →
     let q := ((s.vat v).core.mover m).queue
     let who : Waiter := .mover v m e.seq
     let b := e.bytes
     let n := mvRowBytes b
     let begins : MvEntry := { e with started := some (s.fclk, s.runPart v), todo := [], got := [], fails := [] }
     (∀ rest, q = e :: rest → e.started = none → s.mvVerdict v b = none → s.owns (.vat v) (s.mvPath v b) = true → s.mvRemote b = false → s.suppressed v = false →
       s.waitsHeld who = false →
       (mvKind b = 1 → Answers (.moverDescriptorStart v m) s (fun t =>
         ((t.vat v).core.mover m).queue = begins :: rest ∧ t.mem = s.mem ∧ t.regs = s.regs ∧
         t.cells = (s.cellOp (gaLocal (mvDst b)) (if bit (mvFlags b) 0 then .set (BitVec.ofNat 64 (mvValue b)) else .add (BitVec.ofNat 64 (mvValue b)))).cells)) ∧
       (mvKind b = 0 → mvCodec b = 0 → mvImageParts b = [] →
         (∀ r ∈ mvRowList b, s.owns (.vat v) (readRows v r.1 n) = true ∧ s.owns (.vat v) (s.writeRows v b r.2 n) = true ∧ s.poisoned r.1 n = false) →
         Answers (.moverDescriptorStart v m) s (fun t =>
           ((t.vat v).core.mover m).queue = begins :: rest ∧ t.cells = s.cells ∧
           t.mem = ((mvRowList b).foldl (fun (u : State) r => u.store r.2 (u.readBytes r.1 n)) s).mem))) ∧
     (∀ rest code, q = e :: rest → e.started = none → e.todo = [] → s.mvVerdict v b = some (code, none) →
       Answers (.moverDescriptorStart v m) s (fun t =>
         ((t.vat v).core.mover m).queue = { e with started := some (s.fclk, s.runPart v), fixed := some code } :: rest ∧ Only [.vats] s t)) ∧
     (∀ rest p, q = e :: rest → e.started = some p → e.todo = [] → s.waitsHeld who = false → s.waitsMsg who = false →
       (bit (mvCell b) 15 = false → s.cellFree v (mvCell b % 16384) (1 + m) = true) →
       let k := e.fixed.getD (mvStatus e.fails)
       Answers (.moverDescriptorEnd v m) s (fun t =>
         ((t.vat v).core.mover m).queue = rest ∧ t.mem = s.mem ∧
         (bit (mvCell b) 15 = true → t.cells = s.cells) ∧
         (bit (mvCell b) 15 = false → t.cell v (mvCell b % 16384) =
             (s.cell v (mvCell b % 16384) + if k = stDone then 1 else 2 ^ 32 + 1) % 2 ^ 64 ∧
           ∀ u j, cellKey u j ≠ cellKey v (mvCell b % 16384) → t.cell u j = s.cell u j) ∧
         (k = stDone → t.regs = s.regs) ∧
         (k ≠ stDone → t.reg (Reg.VAT_MV_LASTERR v m) = 2 ^ 32 * s.frameLo + 2 ^ 8 * (e.seq % 2 ^ 24) + k ∧
           t.reg (Reg.VAT_MV_FAILCNT v m) = (s.reg (Reg.VAT_MV_FAILCNT v m) + 1) % 2 ^ 32 ∧
           RegsBut [Reg.VAT_MV_LASTERR v m, Reg.VAT_MV_FAILCNT v m] s t))) ∧
     (∀ rest p sent, q = e :: rest → e.late s.fclk = true → e.started = some p → (sent = true → e.fetched = none) →
       Answers (.moverDeadline v m sent) s (fun t =>
         ((t.vat v).core.mover m).queue =
           { e with fixed := some (mvStatus (e.fails ++ [if s.waitsTier who = true then stTierLate else stDeadlineMiss])), todo := [] } :: rest ∧
         t.reg Reg.MIG_LATE_CNT = (s.reg Reg.MIG_LATE_CNT + (s.mig.held.filter (fun h => h.who == who && s.onTier h)).length) % 2 ^ 32 ∧
         RegsBut [Reg.MIG_LATE_CNT] s t ∧ t.waitsMsg who = false ∧ t.waitsHeld who = false ∧ t.cells = s.cells ∧ t.mem = s.mem)) ∧
     (∀ rest p r l mask, q = e :: rest → e.late s.fclk = true → e.started = some p → e.fetched = some (r, l, mask) → s.mvRemote b = false → mvCodec b = 0 →
       s.suppressed v = false → s.waitsTier who = false →
       Answers (.moverDeadline v m true) s (fun t =>
         ((t.vat v).core.mover m).queue = { e with fixed := some (mvStatus (e.fails ++ [stDeadlineMiss])), todo := [] } :: rest ∧
         t.mem = (s.store r.1 l).mem ∧ t.cells = s.cells))) ∧
  (∀ (v : VatNo) (s : State) (e : Nat × Nat × Nat × Nat), s.canonical = true → s.mainClk = true → (s.vat v).running = true → (s.vat v).faulted = false →
     (s.vat v).core.stream.filter (fun x => decide (x.1 ≤ (s.vat v).cyc)) = [e] →
     Answers (.vatFaultInStream v) s (fun t => (t.vat v).faulted = true ∧ (t.vat v).issuing = false ∧ (∀ u, u ≠ v.val → t.vat u = s.vat u) ∧
       t.reg (Reg.VAT_FAULT v) = e.2.2.1 * 2 ^ 24 + e.2.1 * 2 ^ 20 + e.2.2.2 / 128 % 2 ^ 19 ∧
       t.reg (Reg.VAT_FAULT_CNT v) = (s.reg (Reg.VAT_FAULT_CNT v) + 1) % 2 ^ 32 ∧ t.cells = s.cells))

/-- A slot operation whose guard does not hold takes its slot of the long word and has no other effect at all, and raises no fault other than ILLEGAL (03
R86). The model's own counter of free values (log entry 4) is no effect. -/
def Obligations.AnOperationWithItsGuardOffDoesNothing : Prop :=
  ∀ (c : Instr) (v : VatNo) (slot : Nat) (w : BitVec 56) (s : State), slotOp c = some (v, slot, w) → s.SlotOpen v slot →
    guardHolds (s.vat v).core.preds (oPred w) (oNeg w) = false →
    Answers c s (fun t => ∃ n, t = { s.begun v slot with free := n } ∨ t = { (s.begun v slot).issueFault v slot fIllegal with free := n })

/-- A result that has come due lands: it is what its register, predicate, vector register, descriptor or accumulator row then holds, s0 and p0 stay as they
are, and no other register of the core changes (03 R81, Tables 3.1, 3.2). A store that lands changes the bytes of its address and no other byte: what ST, VST and SCN.SAVE sent to a Pond offset is what Pond then holds there (03
R103, R109). -/
def Obligations.ResultsAndStoresLandWhereTheyWereSent : Prop :=
  (∀ (c : VatCore), mapWf 0 c.sregs = true → mapWf (zeros 512) c.vregs = true →
     (∀ n x, let d := VatCore.land c c (.sreg n x)
       (n ≠ 0 → d.sreg n = x) ∧ (∀ k, k ≠ n ∨ n = 0 → d.sreg k = c.sreg k) ∧ d = { c with sregs := d.sregs }) ∧
     (∀ n b, let d := VatCore.land c c (.pred n b)
       d.pred 0 = true ∧ (n ≠ 0 → d.pred n = b) ∧ (∀ k, k ≠ n → d.pred k = c.pred k) ∧ d = { c with preds := d.preds }) ∧
     (∀ n l, let d := VatCore.land c c (.vreg n l)
       d.vreg n = l ∧ (∀ k, k ≠ n → d.vreg k = c.vreg k) ∧ d = { c with vregs := d.vregs }) ∧
     (∀ n f x, let d := VatCore.land c c (.descField n f x)
       d = { c with descs := d.descs, poss := d.poss } ∧ (mapWf (List.replicate 64 0) c.descs = true → d.desc n = setDescField (c.desc n) f x) ∧
       (mapWf 0 c.poss = true → d.pos n = 0))) ∧
  (∀ (v : VatNo) (s : State) (off : Nat) (l : List Byte), s.canonical = true →
     let t := s.landOut v (.pond off l)
     (∀ i (h : i < l.length), memByte t.mem (pondAddr v off + i) = l[i]) ∧
     (∀ a, a < pondAddr v off ∨ pondAddr v off + l.length ≤ a → memByte t.mem a = memByte s.mem a) ∧
     Only (.mem :: .poison :: .pwr :: correctParts) s t ∧ ((∀ w ∈ wordsOf (pondAddr v off) l.length, w ∉ s.upset) → Only [.mem, .poison, .upset, .pwr] s t) ∧
     t.canonical = true)



/-- SLOT_START and MAJOR_FRAME_START: the next slot begins where the last one ends; a frame begins in slot 0, FRT_FRAME_CNT steps and the frame takes the next instant
of its table; a switch at the boundary, or with no table in force, makes the other bank the active one; a stop leaves no table (02 R47, R48, R50, R77 to R79). -/
def Obligations.SlotsAndFramesBegin : Prop :=
  (∀ (s : State), s.canonical = true → s.mainClk = true → s.slotDue = true →
    Answers .slotStart s (fun t => t.slotNow = s.slotNow + 1 ∧ t.frt.slotStart = s.slotEnd ∧ t.reg Reg.FRT_FRAME_CNT = s.reg Reg.FRT_FRAME_CNT ∧
      t.frt.frameStart = s.frt.frameStart ∧ t.frt.instant = s.frt.instant)) ∧
  (∀ (s : State) (e : Nat), s.canonical = true → s.mainClk = true → s.frameDue = some e → s.switchGroups e = [] → s.tableValid = true → s.switchTakes e = false →
    s.frt.stopAt = false →
    Answers .majorFrameStart s (fun t => t.slotNow = 0 ∧ t.frt.slotStart = e ∧ t.frt.frameStart = e ∧ t.frt.instant = s.frt.instant + 1 ∧
      t.reg Reg.FRT_FRAME_CNT = (s.reg Reg.FRT_FRAME_CNT + 1) % 2 ^ 64 ∧ t.table = s.table)) ∧
  (∀ (s : State) (e : Nat), s.canonical = true → s.mainClk = true → s.frameDue = some e → s.switchGroups e = [] → (s.tableValid = false ∨ s.switchTakes e = true) →
    Answers .majorFrameStart s (fun t => t.slotNow = 0 ∧ t.frt.slotStart = e ∧ t.frt.frameStart = e ∧
      t.reg Reg.FRT_FRAME_CNT = (s.reg Reg.FRT_FRAME_CNT + 1) % 2 ^ 64 ∧ t.tableValid = true ∧ t.table = s.nextTable ∧ t.switchPending = false ∧
      t.frt.switchAt = none ∧ t.frt.stopAt = false)) ∧
  (∀ (s : State) (e : Nat), s.canonical = true → s.mainClk = true → s.frameDue = some e → s.switchGroups e = [] → s.tableValid = true → s.switchTakes e = false →
    s.frt.stopAt = true →
    Answers .majorFrameStart s (fun t => t.tableValid = false ∧ t.frt.stopAt = false ∧ t.reg Reg.FRT_FRAME_CNT = s.reg Reg.FRT_FRAME_CNT))

/-- A kernel of a fill list that is ready starts with the state R83 gives it; at its cut point it stops with PREEMPTED and its cursor stays; an LC kernel at G_CUT is
cut with DEADLINE_MISS, counted and logged, and doubt 0x8A is latched (02 R57, R59, R63; 03 R83). Only that Vat stops. -/
def Obligations.KernelsStartAndAreCut : Prop :=
  ∀ (v : VatNo) (s : State), s.canonical = true → s.mainClk = true → s.tableValid = true → s.frt.runs.length = 8 →
    let k := s.runKernel v
    let cut : State → Prop := fun t => (t.vat v).running = false ∧ t.runKernel v = 0xFFF ∧ bit (t.reg (Reg.FRT_VAT_STATE v)) 30 = true ∧
      (∀ u, u ≠ v.val → t.vat u = s.vat u)
    (∀ f, (s.run v).list = some f → (s.vat v).running = true → s.cutPoint v f ≤ s.fclk →
      Answers (.cutPoint v) s (fun t => cut t ∧ t.mem = (s.statusWord k stPreempted).mem ∧ t.reg Reg.FRT_CUT_CNT = (s.reg Reg.FRT_CUT_CNT + 1) % 2 ^ 32 ∧
        t.reg (Reg.FRT_FILL_CUR f) = s.reg (Reg.FRT_FILL_CUR f))) ∧
    ((s.run v).list = none → (s.vat v).running = true → eType (s.entry s.slotNow v) = 1 → s.windowEnd v ≤ s.fclk + tGCut s.table →
      Answers (.lcOverrun v) s (fun t => cut t ∧ t.mem = (s.statusWord k stDeadlineMiss).mem ∧
        t.reg Reg.FRT_OVR_CNT = (s.reg Reg.FRT_OVR_CNT + 1) % 2 ^ 32 ∧ (t.run v).lcDone = true ∧ bit (t.reg Reg.SAF_DOUBT) 0xA = true)) ∧
    (∀ f, (s.run v).list = some f → (s.vat v).running = false → s.vatInReset v = false → (s.run v).waitWindow = false →
      bit (s.reg (Reg.FRT_FILL_EN f)) 0 = true →
      let e := fEntry (fillList s.table f) (s.regBits (Reg.FRT_FILL_CUR f) 5 0)
      let ke := kernEntry s.table (bits e 11 0)
      s.partHeld (kPart ke) = false → s.entryReady v e = true → s.fclk + tTStart s.table + kCDecl ke ≤ s.cutPoint v f →
      Answers (.fillEntryStart v) s (fun t => (t.vat v).running = true ∧ (t.vat v).issuing = true ∧ t.runKernel v = bits e 11 0 ∧
        t.runPart v = kPart ke % 16 ∧
        (t.vat v).core = { (s.vat v).core.start (kEntry ke - vatBase v) 0 (bits e 11 0) s.frameLo s.slotNow
          ((List.range 4).map (fun t => s.reg (Reg.VAT_ACC_LOCK v t))) with nextIssue := (s.vat v).cyc + 1 } ∧
        (∀ u, u ≠ v.val → t.vat u = s.vat u) ∧ t.mem = s.mem))

/-- SELFTEST_SLICE_START: in a self-test window the next pending slice starts where it ends before the cut, is deferred where it would not, and is skipped where its
accumulator banks are locked (15 R393). -/
def Obligations.SelfTestSlicesStartDeferOrSkip : Prop :=
  ∀ (v : VatNo) (s : State) (i : Nat), s.canonical = true → s.mainClk = true → s.frt.runs.length = 8 → s.tableValid = true → eType (s.entry s.slotNow v) = 3 →
    (s.vat v).running = false → s.vatInReset v = false → (s.run v).waitWindow = false → (s.run v).lcDone = false →
    (s.pendSlices v).find? (fun i => decide (mapGet 0 s.diag.sliceNext v ≤ i)) = some i →
    let p := s.plan (eOwner (s.entry s.slotNow v))
    let fits := decide (s.fclk + tGCut s.table + tTStart s.table + slD p i ≤ s.windowEnd v)
    (s.testBankLocked v (slTile p i) = true →
      Answers (.selftestSliceStart v) s (fun t => t.regBits (Reg.SAF_ST_CNT v) 47 32 = satAdd 16 (s.regBits (Reg.SAF_ST_CNT v) 47 32) 1 ∧
        mapGet 0 t.diag.sliceNext v = i + 1 ∧ RegsBut [Reg.SAF_ST_CNT v] s t ∧ Only [.regs, .diag] s t)) ∧
    (s.testBankLocked v (slTile p i) = false → fits = false →
      Answers (.selftestSliceStart v) s (fun t => t.regBits (Reg.SAF_ST_CNT v) 15 0 = satAdd 16 (s.regBits (Reg.SAF_ST_CNT v) 15 0) 1 ∧
        (t.run v).lcDone = true ∧ RegsBut [Reg.SAF_ST_CNT v] s t ∧ Only [.regs, .frt] s t)) ∧
    (s.testBankLocked v (slTile p i) = false → fits = true →
      Answers (.selftestSliceStart v) s (fun t => (t.vat v).running = true ∧ (t.vat v).core.pc = s.stArea v - vatBase v + slEntry p i ∧
        (v.val, i) ∈ t.diag.slice ∧ (t.vat v).core.sreg 1 = BitVec.ofNat 64 (slTile p i) ∧ (∀ u, u ≠ v.val → t.vat u = s.vat u) ∧
        t.pendSlices v = s.pendSlices v))

/-- A bank is loaded by FRT_LOAD_CMD, is busy while the copy runs, and is LOADED where the copy met no uncorrectable word and the CRC matches; a load while busy or with a
switch pending is ignored with code 3 and STATE (02 R76). A group that sets SWITCH with a loaded bank makes the switch pending; STOP takes effect at the next boundary, and
with no table active is refused with STATE (R77, R79). That LOADED clears as the copy begins is log entry 33. -/
def Obligations.TablesLoadSwitchAndStop : Prop :=
  ∀ (s : State), s.canonical = true → s.mainClk = true →
    let st := s.reg Reg.FRT_STATUS
    (∀ x : BitVec 32, bit x.toNat 0 = true →
      (s.switchPending = true ∨ bit st 4 = true →
        Answers (.frtLoadCmd x) s (fun t => t.regBits Reg.FRT_STATUS 15 8 = 3 ∧ bit (t.reg Reg.FRT_ERR) errState = true ∧
          RegsBut [Reg.FRT_STATUS, Reg.FRT_ERR] s t ∧ Only [.regs] s t)) ∧
      (s.switchPending = false → bit st 4 = false → 0x400000 < s.reg Reg.FRT_LOAD_LEN →
        Answers (.frtLoadCmd x) s (fun t => t.regBits Reg.FRT_STATUS 15 8 = 2 ∧ RegsBut [Reg.FRT_STATUS] s t ∧ Only [.regs] s t)) ∧
      (s.switchPending = false → bit st 4 = false → s.reg Reg.FRT_LOAD_LEN ≤ 0x400000 →
        Answers (.frtLoadCmd x) s (fun t => bit (t.reg Reg.FRT_STATUS) 4 = true ∧ bit (t.reg Reg.FRT_STATUS) (2 + s.idleBank) = false ∧
          t.frt = { s.frt with load := some (s.reg Reg.FRT_LOAD_SRC, s.reg Reg.FRT_LOAD_LEN) } ∧ RegsBut [Reg.FRT_STATUS] s t ∧ Only [.regs, .frt] s t))) ∧
    (∀ a n, s.frt.load = some (a, n) →
      let whole := !s.poisoned a n && !s.poisoned (a + tTotalLen (s.bytes a n)) 0x8000
      Answers .frtLoadComplete s (fun t => t.frt.load = none ∧ t.bank s.idleBank = s.bytes a n ∧ t.bank (1 - s.idleBank) = s.bank (1 - s.idleBank) ∧
        bit (t.reg Reg.FRT_STATUS) 4 = false ∧
        t.regBits Reg.FRT_STATUS 15 8 = (if !whole then 4 else if tableCrcOk (s.bytes a n) then 0 else 1) ∧
        bit (t.reg Reg.FRT_STATUS) (2 + s.idleBank) = (whole && tableCrcOk (s.bytes a n)))) ∧
    (s.idleLoaded = true →
      Answers .ftSwitch s (fun t => t.switchPending = true ∧ bit (t.reg Reg.FRT_CTRL) 0 = true ∧
        t.frt = { s.frt with switchAt := some s.fclk, switchNs := s.nowNs + 16000 } ∧ RegsBut [Reg.FRT_STATUS, Reg.FRT_CTRL] s t ∧ Only [.regs, .frt] s t)) ∧
    (s.tableValid = true →
      Answers .ftStop s (fun t => bit (t.reg Reg.FRT_CTRL) 1 = true ∧ t.frt = { s.frt with stopAt := true } ∧ RegsBut [Reg.FRT_CTRL] s t ∧
        Only [.regs, .frt] s t)) ∧
    (s.tableValid = false →
      Answers .ftStop s (fun t => bit (t.reg Reg.FRT_ERR) errState = true ∧ RegsBut [Reg.FRT_ERR] s t ∧ Only [.regs] s t))



/-- FABRIC_REQUEST on this device: a request that fails its check is refused, counted and logged and reads as zeros; one that passes and owns its path moves its
bytes or applies to its cell; a management read of a register returns its value (01 R34, R36, R39; 02 R53; 05 R163). -/
def Obligations.RequestsAreCheckedOnceAndMove : Prop :=
  ∀ (i : Initiator) (p : Fin 16) (addr : BitVec 54) (gen : BitVec 16) (d : Option (BitVec 64)) (s : State), s.canonical = true → s.mainClk = true → gaDev addr.toNat = s.devId →
    (∀ v, i = .vat v → (s.vat v).running = true) →
    let a := gaLocal addr.toNat
    let q := s.actsFor i p
    let passes := fun op => s.admits i q (wantOf op) a (lenOf op) = true ∧ regionOf a ≠ .image ∧
      s.pathOpen i (pathRows i (extentRegion a (lenOf op)) (wantOf op == .r)) = true
    ((i = .mgmt ∧ regionOf a = .regs) → ∀ n, (∀ r, rowAt (keyOfAddr a) = some r → r.width = 8 * n) →
      Answers (.fabricRequest i p addr gen (.read n) d .clean) s (fun t => t.rdata = [stDone, (s.mgmtRead a).2])) ∧
    (¬(i = .mgmt ∧ regionOf a = .regs) →
      (∀ op tr, s.admits i q (wantOf op) a (lenOf op) = false →
        Answers (.fabricRequest i p addr gen op d tr) s (fun t =>
          t.rdata = stBadArg :: (match op with | .read n => List.replicate n 0 | _ => []) ∧
          t.reg (Reg.FRT_RC_DENY_CNT (clientOf i)) = (s.reg (Reg.FRT_RC_DENY_CNT (clientOf i)) + 1) % 2 ^ 32 ∧
          RegsBut [Reg.FRT_RC_DENY_CNT (clientOf i)] s t ∧ Only [.rdata, .regs, .logs] s t)) ∧
      (∀ n, passes (.read n) → s.poisoned a n = false →
        Answers (.fabricRequest i p addr gen (.read n) d .clean) s (fun t =>
          t.rdata = stDone :: (s.readBytes a n).map (fun b => b.toNat) ∧ t.mem = s.mem ∧ t.cells = s.cells)) ∧
      (∀ l, passes (.write l) →
        Answers (.fabricRequest i p addr gen (.write l) d .clean) s (fun t =>
          t.rdata = [stDone] ∧ t.mem = memStore s.mem a l ∧ t.cells = s.cells ∧
          ((∀ w ∈ wordsOf a l.length, w ∉ s.upset) → Only [.rdata, .mem, .poison, .upset, .pwr] s t))) ∧
      (∀ c, passes (.cell c) →
        Answers (.fabricRequest i p addr gen (.cell c) d .clean) s (fun t =>
          t.rdata = [stDone] ∧ t.cells = (s.cellOp a c).cells ∧ Only [.rdata, .cells] s t)))


/-- A commit group whose point has come is evaluated as a whole: it is applied and counted, or it aborts and nothing of it applies: its status, its count, the mark in
the block that refused it, a switch that is no longer pending and one record are all that changes (17 R448, R449). So it is for a group of the main complex and for one of
the Rind, and uncorrectable data in an entry aborts it with TIER_FAULT. Separate writes of the same cycle follow the group (01 R27); while a read that it makes waits for
its path, so does the group (log entry 36); after a Rind group firmware goes on with a trajectory that it relays (17 R444). -/
def Obligations.GroupsApplyWholeOrNotAtAll : Prop :=
  ∀ (bad : Option Nat) (s : State) (g : CGroup) (c : Instr) (a : State), s.canonical = true → g.slot < 8 →
    ((c = .commitEvaluate bad ∧ s.mainClk = true ∧ s.mig.waits = false ∧ ∃ n, firstCommit s.cg.pending = some n ∧ s.cg.pending.filter (fun x => x.commit == some n) = [g] ∧
        a = s.modCg (fun u => { u with pending := u.pending.filter (fun x => x.commit != some n) })) ∨
      (c = .rindGroupApply bad ∧ ∃ rest, s.cg.bridge = g :: rest ∧ a = s.modCg (fun u => { u with bridge := rest }))) →
    let ended := fun (st status : Nat) (t : State) => t.regBits (Reg.CG_STATUS g.slot) 2 0 = st ∧ t.regBits (Reg.CG_STATUS g.slot) 15 8 = status ∧
      t.regBits (Reg.CG_STATUS g.slot) 63 32 = g.gtag % 2 ^ 32
    let aborted := fun (status : Nat) (l : List Nat) (t : State) => ended 3 status t ∧ t.reg Reg.CG_ABORT_CNT = (s.reg Reg.CG_ABORT_CNT + 1) % 2 ^ 32 ∧
      t.cg = a.cg ∧ RegsSide ([Reg.CG_STATUS g.slot, Reg.CG_ABORT_CNT, Reg.FRT_STATUS] ++ l) s t ∧
      Only [.regs, .evr, .hostEvent, .frt, .trace, .traceDrop, .msix, .cg, .firm] s t
    let answers := fun (P : State → Prop) => Answers c s (fun t => ∃ x, P x ∧ t = match c with | .rindGroupApply _ => x.relayPump | _ => x)
    (∀ u, bad = none → a.runGroup g.role g.point g.gtag g.entries = .inl u →
      let r := (u.groupDone g).separateAfter g.entries
      (c = .commitEvaluate bad → r.mig.waits = false) →
      answers (fun t => ∃ y, t = y.separateAfter g.entries ∧ ended 2 stDone y ∧ y.reg Reg.CG_APPLY_CNT = (u.reg Reg.CG_APPLY_CNT + 1) % 2 ^ 32 ∧
        RegsSide [Reg.CG_STATUS g.slot, Reg.CG_APPLY_CNT] u y ∧ Only [.regs, .hostEvent, .trace, .traceDrop, .msix, .firm] u y)) ∧
    (∀ u, c = .commitEvaluate none → a.runGroup g.role g.point g.gtag g.entries = .inl u → ((u.groupDone g).separateAfter g.entries).mig.waits = true →
      Answers c s (fun t => Only [.mig] s t)) ∧
    (∀ x, bad = none → a.runGroup g.role g.point g.gtag g.entries = .inr x →
      answers (aborted (a.abortStatus x.key (match g.entries[x.entry]? with | some e => e.value | none => 0) x.err) [errKeyOf x.key, Reg.MIG_DROP_CNT])) ∧
    (bad ≠ none → answers (aborted stTierFault []))

/-- REGISTER_WRITE: a write that its block refuses leaves every register as it was but the bit of PFX_ERR that says why, and its counts; one to an unassigned block
sets UNMAPPED; an accepted write of a plain register stores its writable bits and nothing else changes, and a tick that starts in this cycle takes a servo register anew (01 R27, R39; 12 R319; 17 R438, R446, R449). -/
def Obligations.RegisterWritesAreStoredOrRefused : Prop :=
  ∀ (tag : Fin 4) (addr : BitVec 48) (w : Nat) (x : BitVec 64) (s : State), s.canonical = true → s.mainClk = true → regionOf addr.toNat = .regs →
    let k := keyOfAddr addr.toNat
    (blockAssigned (keyBlk k) = false →
      Answers (.registerWrite tag addr w x) s (fun t => bit (t.reg Reg.MBX_ERR) errUnmapped = true ∧ RegsBut [Reg.MBX_ERR] s t ∧ Only [.regs] s t)) ∧
    (∀ b, blockAssigned (keyBlk k) = true → keyBlk k ≤ 1 → s.writeRefusal ⟨tag, 0, []⟩ k w x.toNat = some b →
      Answers (.registerWrite tag addr w x) s (fun t => bit (t.reg (errKey (keyBlk k))) b = true ∧ RegsBut [errKey (keyBlk k)] s t ∧ Only [.regs] s t)) ∧
    (∀ b, blockAssigned (keyBlk k) = true → 1 < keyBlk k → w = 32 ∨ w = 64 →
      s.writeRefusal ⟨tag, 0, s.settingOf [⟨if w = 32 then 1 else 2, 0, addr.toNat, x.toNat⟩]⟩ k w x.toNat = some b →
      Answers (.registerWrite tag addr w x) s (fun t => bit (t.reg (errKey (keyBlk k))) b = true ∧
        RegsSide [errKey (keyBlk k), Reg.CG_ABORT_CNT, Reg.MIG_DROP_CNT, Reg.FRT_STATUS] s t ∧ Only [.regs, .evr, .hostEvent, .msix] s t)) ∧
    (∀ r, blockAssigned (keyBlk k) = true → rowAt k = some r → r.acc = .rw → w = r.width → w = 32 ∨ w = 64 →
      keyBlk k = 0xA ∨ keyBlk k = 0xE ∨ (0x20 ≤ keyBlk k ∧ keyBlk k < 0x30) ∨ (0x38 ≤ keyBlk k ∧ keyBlk k < 0x40) →
      s.writeRefusal ⟨tag, 0, []⟩ k w x.toNat = none →
      Answers (.registerWrite tag addr w x) s (fun t => ∃ u, u.reg k = x.toNat &&& r.mask ∧ RegsBut [k] s u ∧ Only [.regs] s u ∧
        t = if keyBlk k = 0xA then u.loopRetake else u))

/-- A staged group takes a free slot, or CG_LAST says that none is free; a pending group is withdrawn by a cancel before its commit point; at its commit point its
lines are driven, or it goes over the bridge (17 R446 to R448, R451). A command that waits for a withdrawn group is log entry 44. MBX_IRQ raises one of the 17 vectors
and refuses another number with VALUE (R427, R466; 01 R511). -/
def Obligations.GroupsAreStagedWithdrawnAndCommitted : Prop :=
  ∀ (s : State), s.canonical = true → s.mainClk = true →
    (∀ (x : BitVec 32) (k : Nat), bit x.toNat 0 = true → (List.range 8).find? s.slotFree = some k →
      Answers (.cgSubmitWrite x) s (fun t => t.regBits (Reg.CG_STATUS k) 2 0 = 1 ∧ t.reg Reg.CG_LAST = k ∧
        t.cg = { s.cg with pending := s.cg.pending ++ [s.stagedGroup k], next := s.cg.next + 1 })) ∧
    (∀ (x : BitVec 32), bit x.toNat 0 = true → (List.range 8).find? s.slotFree = none →
      Answers (.cgSubmitWrite x) s (fun t => bit (t.reg Reg.CG_LAST) 8 = true ∧ RegsBut [Reg.CG_LAST] s t ∧ Only [.regs] s t)) ∧
    (∀ (x : BitVec 32) (k : Fin 8) (g : CGroup), bit x.toNat 0 = true → s.cg.pending.find? (fun g => g.slot == k.val && g.commit == none) = some g →
      Answers (.cgCancelWrite k x) s (fun t => t.regBits (Reg.CG_STATUS k) 2 0 = 4 ∧
        t.cg = { s.cg with pending := s.cg.pending.filter (fun y => y.id != g.id) } ∧ RegsSide [Reg.CG_STATUS k, Reg.FRT_STATUS] s t)) ∧
    (∀ (k : Fin 8) (g : CGroup), s.cg.pending.find? (fun g => g.slot == k.val) = some g → s.commitDue g = true →
      Answers (.commitPoint k) s (fun t => Only [.cg] s t ∧
        (g.target = 0 → t.cg = { s.cg with pending := s.cg.pending.map (fun y => if y.id = g.id then { g with commit := some s.fclk } else y) }) ∧
        (g.target ≠ 0 → t.cg = { s.cg with
          pending := s.cg.pending.filter (fun y => y.id != g.id)
          bridge := s.cg.bridge ++ [{ g with commit := some s.fclk }] }))) ∧
    (∀ (x : BitVec 32), Answers (.mbxIrqWrite x) s (fun t =>
      (bits x.toNat 4 0 ≤ 16 → t = { s with msix := mapSet 0 s.msix (bits x.toNat 4 0) (mapGet 0 s.msix (bits x.toNat 4 0) + 1) }) ∧
      (16 < bits x.toNat 4 0 → bit (t.reg Reg.MBX_ERR) errValue = true ∧ RegsBut [Reg.MBX_ERR] s t ∧ Only [.regs] s t)))


/-- A record enters the buffer with its SEQ, or is counted as lost with 4,096 waiting; KIND 0, 1, 4 or the 2,048th starts a flush, and so does a second without one; a
flush moves the oldest record to its MRAM slot and ends with the last; EVENT_MARK posts VALUE and GTAG; a window shows the record at its cursor and moves past it (17 R445,
R452, R454 to R456). -/
def Obligations.RecordsArePostedFlushedAndRead : Prop :=
  ∀ (s : State), s.canonical = true →
    let posted := fun (kind detail : Nat) (t : State) => t.evr.nextSeq = (s.evr.nextSeq + 1) % 2 ^ 32 ∧ t.regs = s.regs ∧
      Only [.evr, .hostEvent, .msix] s t ∧
      t.evr.flushing = (s.evr.flushing || kind == 0 || kind == 1 || kind == 4 || decide (2048 ≤ s.evr.buffer.length + 1)) ∧
      ∃ r : EvRecord, t.evr.buffer = s.evr.buffer ++ [r] ∧ r.kind = kind ∧ r.seq = s.evr.nextSeq ∧ r.optime = s.evr.optime ∧ r.pcyc = s.evr.pcyc ∧
        r.rclk = s.rclk ∧ r.detail = detail
    let lost := fun (t : State) => t.reg Reg.EVR_LOST_CNT = (s.reg Reg.EVR_LOST_CNT + 1) % 2 ^ 32 ∧ RegsBut [Reg.EVR_LOST_CNT] s t ∧ Only [.regs] s t
    (∀ (x : BitVec 64) (g : BitVec 32), s.mainClk = true → (s.evr.buffer.length < 4096 → Answers (.eventMark x g) s (posted 5 (x.toNat + 2 ^ 64 * g.toNat))) ∧
      (4096 ≤ s.evr.buffer.length → Answers (.eventMark x g) s lost)) ∧
    (∀ kind code role mbox frame stw detail, s.rindRuns = true →
      (s.evr.buffer.length < 4096 → Answers (.eventRecordPost kind code role mbox frame stw detail) s (posted kind detail.toNat)) ∧
      (4096 ≤ s.evr.buffer.length → Answers (.eventRecordPost kind code role mbox frame stw detail) s lost)) ∧
    (∀ r rest, s.rindRuns = true → s.evr.flushing = true → s.nvInhibited = false → s.evr.buffer = r :: rest → (rest = [] → s.evr.pfRecord = none) →
      Answers .evrFlushWrite s (fun t => t.evr.buffer = rest ∧
        t.evr.mram = s.evr.mram.filter (fun x => x.1 != r.seq % 131072) ++ [(r.seq % 131072, r)] ∧
        t.evr.flushing = !rest.isEmpty ∧ (rest = [] → t.evr.lastFlush = s.rclk) ∧
        t.reg Reg.EVR_OVW_CNT = (if s.evr.mram.any (fun e => e.1 == r.seq % 131072) then (s.reg Reg.EVR_OVW_CNT + 1) % 2 ^ 32 else s.reg Reg.EVR_OVW_CNT) ∧
        RegsBut [Reg.EVR_OVW_CNT] s t ∧ Only [.regs, .evr] s t)) ∧
    (s.rindRuns = true → s.evr.flushing = false → s.evr.lastFlush + 400000000 ≤ s.rclk →
      Answers .evrFlushTimer s (fun t => Only [.evr] s t ∧
        t.evr = (if s.evr.buffer.isEmpty then { s.evr with lastFlush := s.rclk } else { s.evr with flushing := true }))) ∧
    (∀ port : Bool, (port = true → s.regBits Reg.OBS_MODE 1 0 ≠ 0) →
      let q := if port then s.evr.curO else s.evr.curF
      let at' := (s.cursorAt q).1
      Answers (.evrWindowRead port) s (fun t => t.rdata = (List.range 8).map (s.windowWord q) ∧
        (if port then t.evr.curO else t.evr.curF) = (if s.posted at' then (at' + 1) % 2 ^ 32 else q) ∧
        RegsBut [Reg.EVR_STATUS] s t ∧ Only [.rdata, .regs, .evr, .diag] s t))

/-- The power-fail warning sets PFW, starts a flush that ends with the power-fail record and takes firmware to SHUTDOWN; its end brings firmware back; NV-inhibit is held.
An armed trigger latches every snapshot area, its time and its sources, and disarms unless AUTO_REARM; one that is not armed counts as missed; a source that follows in the cycle of a snapshot is one of that snapshot (17 R458 to R460). -/
def Obligations.SupplySagsAndSnapshots : Prop :=
  ∀ (s : State), s.canonical = true →
    let latched := fun (src : Nat) (t : State) => t.reg Reg.SNP_SEQ = (s.reg Reg.SNP_SEQ + 1) % 2 ^ 32 ∧ t.reg Reg.SNP_T = ofInt 64 s.nowNs ∧
      t.reg Reg.SNP_SRC = src ∧ t.reg Reg.SNP_CTRL = putBit (s.reg Reg.SNP_CTRL) 0 (bit (s.reg Reg.SNP_CTRL) 1) ∧
      t.reg Reg.SAF_SNP_DOUBT = s.reg Reg.SAF_DOUBT ∧ t.reg Reg.RIND_SNP_RCLK = s.rclk % 2 ^ 64 ∧ t.reg Reg.TB_SNP_NOW = ofInt 64 s.nowNs ∧
      t.reg Reg.MBX_SNP_STATE = s.reg Reg.MBX_STATE ∧ (∀ k, k % 0x100000 < 0xF0000 →
        k ∉ [Reg.SNP_SEQ, Reg.SNP_T, Reg.SNP_SRC, Reg.SNP_CTRL] → t.reg k = s.reg k)
    let missed := fun (t : State) => t.reg Reg.SNP_MISS_CNT = (s.reg Reg.SNP_MISS_CNT + 1) % 2 ^ 32 ∧ RegsBut [Reg.SNP_MISS_CNT] s t
    let armed := bit (s.reg Reg.SNP_CTRL) 0
    (∀ x : BitVec 5, x ≠ 0 → s.mainClk = true → s.now.snap ≠ some s.fclk →
      Answers (.snapshotTrigger x) s (fun t => (if armed then latched x.toNat t else missed t) ∧ Only [.regs] s t)) ∧
    (∀ x : BitVec 5, x ≠ 0 → s.mainClk = true → s.now.snap = some s.fclk →
      Answers (.snapshotTrigger x) s (fun t => t.reg Reg.SNP_SRC = s.reg Reg.SNP_SRC ||| x.toNat ∧ RegsBut [Reg.SNP_SRC] s t ∧ Only [.regs] s t)) ∧
    (s.mainClk = true → s.now.snap ≠ some s.fclk → Answers .snapInEdge s (fun t => (if armed then latched 16 t else missed t) ∧ Only [.regs] s t)) ∧
    (s.mainClk = true → s.now.snap ≠ some s.fclk → s.snapCmp = true → bit (s.reg Reg.SNP_CTRL) 2 = true → s.reached (toInt 64 (s.reg Reg.SNP_CMP_T)) = true →
      Answers .snapshotCompareInstant s (fun t => (if armed then latched 1 t else missed t) ∧ t.snapCmp = false ∧ Only [.regs, .snapCmp] s t)) ∧
    (∀ low, s.rindRuns = true → s.pfw = false → Answers (.powerFailWarning low) s (fun t => t.pfw = true ∧ t.evr.flushing = true ∧
      t.evr.pfRecord = some (s.supplyDetail low) ∧ (s.start.running = true → s.isOpen = true → t.fw = 6 ∧ t.firm.prior = s.fw) ∧
      RegsBut [Reg.EVR_STATUS, Reg.MBX_STATE] s t)) ∧
    (s.rindRuns = true → s.pfw = true → s.nvInhibited = false → Answers .powerFailRecovery s (fun t => t.pfw = false ∧
      (s.fw = 6 → s.firm.prior < 256 → t.fw = s.firm.prior) ∧ (s.fw ≠ 6 → t.fw = s.fw) ∧
      (s.evr.buffer.length < 4096 → ∃ r : EvRecord, t.evr.buffer = s.evr.buffer ++ [r] ∧ r.kind = 4 ∧ r.code = 0x4203))) ∧
    (s.rindRuns = true → Answers .nvInhibit s (fun t => t.nvInhibited = true ∧ RegsBut [Reg.EVR_STATUS] s t ∧ Only [.regs] s t))

/-- A read of an RC register returns and clears it, one of an RA log returns and takes its oldest entry, one of an offset with no register returns 0 and marks its block;
the observation port reads 0 in mode OFF and a 32-bit register otherwise, counts its words, and pops a trace packet (00 R9; 01 R39; 17 R462, R464). -/
def Obligations.ReadsOfCountersLogsAndTheObservationPort : Prop :=
  ∀ (addr : BitVec 48) (s : State), s.canonical = true → s.mainClk = true →
    let a := addr.toNat
    let k := keyOfAddr a
    (regionOf a = .regs → blockAssigned (keyBlk k) = true →
      (∀ r, rowAt k = some r → r.acc = .rc →
        Answers (.counterReadClear addr) s (fun t => t.rdata = [s.readReg k] ∧ t.reg k = 0 ∧ RegsBut [k] s t ∧ Only [.rdata, .regs, .diag] s t)) ∧
      (∀ r, rowAt k = some r → r.acc = .ra → k ≠ Reg.OBS_TRC_POP0 →
        Answers (.logReadAdvance addr) s (fun t => t.rdata = [s.readReg k] ∧
          t.logs = mapSet [] s.logs k ((mapGet [] s.logs k).drop 1) ∧ Only [.rdata, .logs, .diag] s t)) ∧
      (rowAt k = none → ∀ c ∈ [Instr.counterReadClear addr, .logReadAdvance addr],
        Answers c s (fun t => t.rdata = [0] ∧ bit (t.reg (errKey (keyBlk k))) (offRow k) = true ∧ RegsBut [errKey (keyBlk k)] s t ∧ Only [.rdata, .regs] s t))) ∧
    (regionOf a = .regs → blockAssigned (keyBlk k) = false → ∀ c ∈ [Instr.counterReadClear addr, .logReadAdvance addr],
      Answers c s (fun t => t.rdata = [0] ∧ bit (t.reg Reg.MBX_ERR) errUnmapped = true ∧ RegsBut [Reg.MBX_ERR] s t ∧ Only [.rdata, .regs] s t)) ∧
    (∀ n, 0 < n → s.regBits Reg.OBS_MODE 1 0 = 0 → Answers (.obsRead addr n) s (fun t => t.rdata = List.replicate n 0 ∧
      t.reg Reg.OBS_READ_CNT = (s.reg Reg.OBS_READ_CNT + n) % 2 ^ 32 ∧ RegsBut [Reg.OBS_READ_CNT] s t ∧ Only [.rdata, .regs, .obs] s t)) ∧
    (∀ r, s.regBits Reg.OBS_MODE 1 0 ≠ 0 → a % 4 = 0 → regionOf a = .regs → blockAssigned (keyBlk k) = true → rowAt k = some r → r.width = 32 →
      Answers (.obsRead addr 1) s (fun t => t.rdata = [(s.portCount a).readReg k % 2 ^ 32] ∧
        RegsBut [Reg.OBS_READ_CNT, k, Reg.OBS_TRC_POP1, Reg.EVR_STATUS] s t)) ∧
    Answers .obsStatus s (fun t => Only [.rdata] s t ∧
      t.rdata = [1 + 2 * b2n (s.regBits Reg.OBS_MODE 1 0 == 0) + 4 * b2n s.obs.outside]) ∧
    (∀ p rest, s.trace = p :: rest → bit (s.reg Reg.OBS_MODE) 8 = false →
      Answers .obsTrcPop s (fun t => t.rdata = [p.word0] ∧ t.trace = rest ++ s.lostPacket ∧ t.traceDrop = (0, 0) ∧ t.reg Reg.OBS_TRC_POP1 = p.data % 2 ^ 64 ∧
        RegsBut [Reg.OBS_TRC_POP1] s t ∧ Only [.rdata, .regs, .trace, .traceDrop] s t))


/-- A die copy takes the oldest change sent to it; a command is queued, or with 64 waiting dropped and counted; MIG_CPL gives its oldest entry; the root port's
training and its loss show in MIG_AQ_STATUS; an evicted frame is free after 294 FCLK cycles; the scrubbers correct and move on (05 R142, R147, R148, R157, R161, R162, R167). -/
def Obligations.MigrationQueueLinkAndScrubbing : Prop :=
  ∀ (s : State), s.canonical = true → s.mainClk = true →
    (∀ (die : Fin 2) i d q x n, s.mig.updates.findIdx? (fun u => u.1 == die.val) = some i → s.mig.updates[i]? = some (d, q, x, n) →
      Answers (.dieCopyUpdate die) s (fun t => Only [.mig] s t ∧
        t.mig = { s.mig with updates := s.mig.updates.eraseIdx i, dies := mapSet 0 s.mig.dies (2 ^ 23 * d + q) x })) ∧
    (s.mig.queue.length < 64 → Answers (.migCmdPush 1) s (fun t => Only [.mig] s t ∧
      t.mig = { s.mig with queue := s.mig.queue ++ [((List.range 8).map (fun i => toLE 8 (s.reg (Reg.MIG_CMD i)))).flatten] })) ∧
    (64 ≤ s.mig.queue.length → Answers (.migCmdPush 1) s (fun t => Only [.regs] s t ∧ bit (t.reg Reg.MIG_ERR) errState = true ∧
      t.reg Reg.MIG_DROP_CNT = (s.reg Reg.MIG_DROP_CNT + 1) % 2 ^ 32 ∧ RegsBut [Reg.MIG_ERR, Reg.MIG_DROP_CNT] s t)) ∧
    Answers .migCplRead s (fun t => Only [.rdata, .logs] s t ∧ t.rdata = [(mapGet [] s.logs Reg.MIG_CPL).headD 0] ∧
      t.logs = mapSet [] s.logs Reg.MIG_CPL ((mapGet [] s.logs Reg.MIG_CPL).drop 1)) ∧
    (∀ rate width, 1 ≤ rate → rate ≤ 5 → width = 1 ∨ width = 2 ∨ width = 4 → Answers (.aquiferNvmeReady ⟨rate, width⟩ true) s (fun t => Only [.regs] s t ∧
      t.reg Reg.MIG_AQ_STATUS = rate + 16 * width + 2 ^ 8 + 2 ^ 9 ∧ RegsBut [Reg.MIG_AQ_STATUS] s t) ∧
      Answers (.aquiferNvmeReady ⟨rate, width⟩ false) s (fun t => Only [.regs] s t ∧ bit (t.reg Reg.MIG_AQ_STATUS) 8 = true ∧
        bit (t.reg Reg.MIG_AQ_STATUS) 9 = false)) ∧
    (bit (s.reg Reg.MIG_AQ_STATUS) 8 = true → s.mig.fills = [] → Answers .aquiferLinkDown s (fun t => t.reg Reg.MIG_AQ_STATUS = 0 ∧
      RegsSide [Reg.MIG_AQ_STATUS] s t ∧ (s.evr.buffer.length < 4096 → ∃ r : EvRecord, t.evr.buffer = s.evr.buffer ++ [r] ∧ r.kind = 1 ∧ r.code = 0x3CB))) ∧
    (∀ e l, s.mig.evicts = e :: l → e.since + 294 ≤ s.fclk → s.mig.fills = [] → s.mig.job = none →
      Answers .evictFrameFree s (fun t => Only [.mig] s t ∧
        t.mig = { s.mig with evicts := l, bad := if e.bad then s.mig.bad ++ [e.frame] else s.mig.bad })) ∧
    (∀ m : Fin 10, let o := mapGet 0 s.mig.scrub m.val
      o % 8 = 0 → o < (scrubMem m).2 → Answers (.sramScrub m) s (fun t => (scrubMem m).1 + o ∉ t.upset ∧ t.mem = s.mem ∧ t.poison = s.poison ∧
        t.mig = { s.mig with scrub := mapSet 0 s.mig.scrub m.val ((o + 8) % (scrubMem m).2) })) ∧
    (s.refreshNow ≠ 0 → s.mig.refreshed ≠ s.refreshNow → Answers .lakeRefreshSubslot s (fun t => t.mig.refreshed = s.refreshNow ∧
      ∀ k, k < 4 → t.reg (Reg.LAKE_SCRUB_POS k) =
        if s.scrubs k then (s.reg (Reg.LAKE_SCRUB_POS k) + 512) % 0x600000000 else s.reg (Reg.LAKE_SCRUB_POS k)))

/-- A held read reaches the engine: on a resident page it waits for its die copy, FAULT ends it, a full miss table ends it late, a fill of its page takes it in, else a fill into the HOME pool is queued; it runs
when its die copy shows the page. A page that has moved whole becomes resident; one that Aquifer or its CRC fails is marked FAULT and ends its waiters (05 R151, R152, R154,
R155). -/
def Obligations.MissesAndFillsMovePages : Prop :=
  ∀ (s : State), s.canonical = true → s.mainClk = true →
    (∀ h, s.mig.held.find? (fun h => !h.seen) = some h →
      let q := pageOf h.addr
      let w := s.leaf q
      let home := imgHome (s.imgEntry (lfSlot w)) % 4
      let counted := fun (t : State) => t.reg Reg.MIG_MISS_CNT = (s.reg Reg.MIG_MISS_CNT + 1) % 2 ^ 32
      let sees := s.mig.held.map (fun x => if x = h then { x with seen := true } else x)
      (lfL w = true → Answers .migDemandMiss s (fun t => counted t ∧ t.mig = { s.mig with held := sees } ∧ Only [.regs, .mig] s t)) ∧
      (lfL w = false →
      (lfFault w = true → Answers .migDemandMiss s (fun t => counted t ∧ h ∉ t.mig.held ∧ RegsBut [Reg.MIG_MISS_CNT] s t)) ∧
      (lfFault w = false → s.mig.fills.any (fun f => f.page == q && f.demand) = true →
        Answers .migDemandMiss s (fun t => counted t ∧ t.mig = { s.mig with held := sees } ∧ Only [.regs, .mig] s t)) ∧
      (lfFault w = false → s.mig.fills.any (fun f => f.page == q && f.demand) = false → 256 ≤ s.missPages →
        Answers .migDemandMiss s (fun t => counted t ∧ h ∉ t.mig.held ∧ t.reg Reg.MIG_LATE_CNT = (s.reg Reg.MIG_LATE_CNT + 1) % 2 ^ 32)) ∧
      (lfFault w = false → s.mig.fills.any (fun f => f.page == q) = false → s.missPages < 256 → s.FillWaits →
        Answers .migDemandMiss s (fun t => counted t ∧
          t.mig = { s.mig with held := sees, fills := s.mig.fills ++ [⟨q, home, none, true, true, none, false, false⟩] } ∧
          t.mem = (s.modLeaf q (fun w => putBit w 61 true)).mem)))) ∧
    (∀ h f, s.mig.held.find? (fun h => s.canRelease h) = some h → s.dieFrame h.die (pageOf h.addr) = some f → s.framePoisoned f h.addr h.len = false →
      Answers .heldReadRelease s (fun t => h ∉ t.mig.held ∧ t.mem = s.mem ∧
        (∀ c, h.who = .client c → c < 8 ∨ 15 ≤ c → t.rdata = stDone :: (s.bytes (frameAddr f h.addr) h.len).map (fun b => b.toNat)))) ∧
    (∀ f, s.mig.fills = [f] → s.mig.job = none →
      let failed := fun (cause : Nat) (t : State) => t.mig.fills = [] ∧ t.reg Reg.MIG_FAULT_CNT = (s.reg Reg.MIG_FAULT_CNT + 1) % 2 ^ 32 ∧
        (∀ h ∈ t.mig.held, ¬(pageOf h.addr = f.page ∧ h.seen = true)) ∧
        t.logs = (s.pushLog Reg.MIG_FAULT_LOG 16 (2 ^ 63 + lfSlot (s.leaf f.page) * 2 ^ 48 + (s.imagePage f.page % 2 ^ 20) * 2 ^ 28 + cause)).logs ∧
        t.mem = ((s.modLeaf f.page (fun w => putBit w 59 true)).modLeaf f.page (fun w => putBit w 61 false)).mem
      (∀ n, f.reading = some n → n + 10000000 ≤ s.fclk → Answers .aquiferReadTimeout s (failed 2)) ∧
      (f.reading.isSome = true → ∀ st l, st ≠ 0 → Answers (.aquiferReadComplete st l) s (failed 1)) ∧
      (∀ l r u, f.reading.isSome = true → f.moved = true ∨ s.engineOwns [29] = true → s.engineOwns [28] = true → l.length = 0x200000 → crc32c l = s.leafCrc f.page → s.takeReservoir = some (r, u) →
        Answers (.aquiferReadComplete 0 l) s (fun t => t.mig.rmem = memStore s.mig.rmem (r * 0x200000) l ∧ (r, f.page) ∈ t.mig.resv ∧
          t.reg Reg.MIG_FAULT_CNT = s.reg Reg.MIG_FAULT_CNT)) ∧
      (∀ x, f.frame = some x → lfR (s.leaf f.page) = true → f.reading = none → f.moved = true ∨ s.engineOwns [28] = true →
        s.engineOwns (pathRows .migration (.lake (x / 12288)) false) = true →
        let data := memBytes s.mig.rmem (lfRFrame (s.leaf f.page) * 0x200000) 0x200000
        crc32c data = s.leafCrc f.page →
        Answers (.pageFillComplete ⟨false, 0⟩) s (fun t => t.mig = { s.mig with
            fills := []
            lake := s.mig.lake ++ [(x, f.page)]
            updates := s.mig.updates ++ [(0, f.page, 1 + x, s.fclk), (1, f.page, 1 + x, s.fclk)] } ∧
          t.mem = ((s.store (x * 0x200000) data).modLeaf f.page (fun w => putBits (putBit (putBit w 62 true) 61 false) 47 32 x)).mem ∧ t.regs = s.regs)))

/-- The migration commands: each taken at the front ends with its completion, BAD_ARG for fields against its rules; PIN, UNPIN, CLEAR_FAULT and DROP_R change their
pages' bits; MAP writes the table region and nothing else; UNMAP clears VALID; STAGE and LOAD move page by page; DROP_L waits for its frames (05 R148 to R150, R155, R158). -/
def Obligations.MigrationCommandsAct : Prop :=
  ∀ (s : State) (b : List Byte), s.canonical = true → s.mainClk = true →
    let ends := fun (c : Instr) (status pages : Nat) (P : State → Prop) => Answers c s (fun t => s.McEnded b status pages t ∧ P t)
    let bits' := fun (f : Nat → Nat) (l : List Nat) (t : State) => t.mem = (l.foldl (fun u q => u.modLeaf q f) s).mem ∧ Only [.logs, .mem, .poison, .upset, .cells, .mig] s t
    let ps := s.mcPages b
    (∀ c ∈ [(Instr.migUnmap, 2), (.migStage, 3), (.migLoad, 4), (.migPin, 5), (.migUnpin, 6), (.migDropL, 7), (.migDropR, 8)],
      s.mcFront c.2 = some b → s.mcRange b = false → ends c.1 stBadArg 0 (fun t => t.mem = s.mem)) ∧
    (s.mcFront 1 = some b → mcMapFields b = false → ends .migMap stBadArg 0 (fun t => t.mem = s.mem)) ∧
    (s.mcFront 1 = some b → mcMapFields b = true →
      let q := pageOf (mcBaseField b)
      let taken := imgValid (s.imgEntry (mcSlot b)) || (List.range (mcCount b)).any (fun i => lfMapped (s.leaf (q + i)))
      let full := decide (512 < s.leavesUsed.length + (s.dirsWithout q (mcCount b)).length)
      (taken = true → ends .migMap stStateConflict 0 (fun t => t.mem = s.mem)) ∧
      (taken = false → full = true → ends .migMap stNoSpace 0 (fun t => t.mem = s.mem)) ∧
      (taken = false → full = false → ends .migMap stDone (mcCount b) (fun t => bit (t.reg Reg.MIG_STATUS) 0 = true ∧ MemBut s.iptBase iptSize s t))) ∧
    (s.mcFront 2 = some b → s.mcRange b = true →
      (s.unmapBlocked b (s.imgEntry (mcSlot b)) = true → ends .migUnmap stStateConflict 0 (fun t => t.mem = s.mem)) ∧
      (s.unmapBlocked b (s.imgEntry (mcSlot b)) = false → Answers .migUnmap s (fun t => imgValid (t.imgEntry (mcSlot b)) = false ∧
        t.mig.queue = s.mig.queue.drop 1))) ∧
    (s.mcFront 3 = some b → s.mcRange b = true → ps.all (fun q => lfL (s.leaf q) || lfR (s.leaf q)) = true →
      ends .migStage stDone (mcCount b) (fun t => t.mem = s.mem)) ∧
    (s.mcFront 4 = some b → s.mcRange b = true → ps.all (fun q => lfL (s.leaf q) && lfLFrame (s.leaf q) / 12288 == mcStack b) = true →
      ends .migLoad stDone (mcCount b) (fun t => t.mem = s.mem)) ∧
    (s.mcFront 3 = some b → s.mcRange b = true → ∀ q, ps.head? = some q → q < 8388608 → lfL (s.leaf q) = false → lfR (s.leaf q) = false →
      lfFault (s.leaf q) = false → bit (s.reg Reg.MIG_AQ_STATUS) 9 = true →
      Answers .migStage s (fun t => t.mig = { s.mig with
        queue := s.mig.queue.drop 1
        job := some ⟨b, mcFirst b, 0, []⟩
        fills := [⟨q, mcStack b, none, false, false, some s.fclk, false, false⟩] })) ∧
    (s.mcFront 5 = some b → s.mcRange b = true →
      let n := (ps.takeWhile (fun q => lfL (s.leaf q))).length
      ends .migPin (if n = ps.length then stDone else stStateConflict) n (bits' (fun w => putBit w 60 true) (ps.take n))) ∧
    (s.mcFront 6 = some b → s.mcRange b = true → ends .migUnpin stDone (mcCount b) (bits' (fun w => putBit w 60 false) ps)) ∧
    (s.mcFront 7 = some b → s.mcRange b = true →
      let es := ps.filter (fun q => lfL (s.leaf q) && !lfPin (s.leaf q))
      (es = [] → ends .migDropL stDone 0 (fun t => t.mem = s.mem)) ∧
      (es ≠ [] → Answers .migDropL s (fun t => t.mig.job = some ⟨b, 0, es.length, s.framesOf es⟩ ∧ t.mig.queue = s.mig.queue.drop 1))) ∧
    (s.mcFront 8 = some b → s.mcRange b = true →
      ends .migDropR stDone (mcCount b) (bits' (fun w => putBit w 58 false) (ps.filter (fun q => lfR (s.leaf q))))) ∧
    (s.mcFront 9 = some b → (∀ c ∈ (s.mig.queue.drop 1).head?, mcOp c ≠ 0 ∧ mcOp c ≤ 9) →
      (s.mcRange b = false → ends .migClearFault stBadArg 0 (fun t => t.mem = s.mem)) ∧
      (s.mcRange b = true → ends .migClearFault stDone (mcCount b) (bits' (fun w => putBit w 59 false) ps)))


/-- A held output or checkpoint that agrees in both lanes lets the output go or its signature stand; one that differs is logged and stops its core by R381; a lane that misses
an injected difference, a failed tile checksum and differing pair signatures count and raise their doubts (04 R136; 15 R380 to R383, R386). -/
def Obligations.CoresAreComparedAndStopped : Prop :=
  ∀ (s : State), s.canonical = true →
    let runs := fun (core : RepCore) => (repNumber core).1 = 4 ∨ s.mainClk = true
    let logged := fun (core : RepCore) (kind lanes : Nat) (t : State) =>
      t.logs = (s.pushLog (if (repNumber core).1 = 4 then Reg.RIND_CMP_LOG else Reg.SAF_CMP_LOG) 16
        (2 ^ 63 + (repNumber core).1 * 2 ^ 56 + (repNumber core).2 * 2 ^ 52 + kind * 2 ^ 48 + lanes * 2 ^ 46 + s.frameLo)).logs
    let diverged := fun (core : RepCore) (kind lanes : Nat) (t : State) => match core with
      | .vat v => (t.vat v).faulted = true ∧ (t.vat v).issuing = false ∧ (∀ f ∈ (t.vat v).core.flights, f.held = false) ∧
          (s.runLC v = true → bit (t.reg Reg.SAF_DOUBT) 0 = true)
      | .lane l => logged core kind lanes t ∧ s.Doubted 0x81 t ∧ (kind = 0 → t.reg Reg.LOOP_CMP_CNT = (s.reg Reg.LOOP_CMP_CNT + 1) % 2 ^ 32 ∧
          ∃ a w, s.laneAxis l.val = some a ∧ (s.axis a).held = some w ∧ t.axis a = { s.axis a with
            word := (s.axis a).word % 2 ^ 35 + 2 ^ 35
            held := none } ∧ ∀ b, b ≠ a → t.axis b = s.axis b)
      | .solver => logged core kind lanes t ∧ s.Doubted 0x82 t ∧ t.diag = { s.diag with halted := setInsert s.diag.halted 2 }
      | .planner => logged core kind lanes t ∧ s.Doubted 0x83 t ∧ t.diag = { s.diag with halted := setInsert s.diag.halted 3 }
      | .rind _ => logged core kind lanes t ∧ s.RindDoubted 0x96 t
    (∀ (v : VatNo) f, s.mainClk = true → s.compares (.vat v) = true → s.nextHeld v = some f → Answers (.heldOutputCompare (.vat v) 0) s (fun t =>
      s.NewCore v [] { (s.vat v).core with flights := (s.vat v).core.flights.map (fun g => if g == f then { g with held := false } else g) } t)) ∧
    (∀ (l : Fin 8) a w, s.mainClk = true → s.compares (.lane l) = true → s.laneAxis l.val = some a → (s.axis a).held = some w → a < s.lp.axes.length →
      Answers (.heldOutputCompare (.lane l) 0) s (fun t => Only [.lp] s t ∧ t.axis a = { s.axis a with word := w, held := none } ∧
        ∀ b, b ≠ a → t.axis b = s.axis b)) ∧
    (∀ core (lanes : Fin 4), runs core → s.compares core = true → lanes ≠ 0 → Answers (.heldOutputCompare core lanes) s (diverged core 0 lanes.val)) ∧
    (∀ (v : VatNo), s.mainClk = true → s.atCheckpoint (.vat v) = true → Answers (.coreCheckpoint (.vat v) 0) s (fun t => RegsBut [Reg.VAT_CKPT_SIG v] s t ∧ Only [.regs] s t ∧
      t.reg (Reg.VAT_CKPT_SIG v) = crc64 (s.vat v).core.checkBytes)) ∧
    (∀ c ∈ [(RepCore.solver, Reg.SLV_CKPT_SIG), (.planner, Reg.PLN_CKPT_SIG), (.rind 0, Reg.RIND_CKPT_SIG), (.rind 1, Reg.RIND_CKPT_SIG)] ++
        (List.finRange 8).map (fun l => (.lane l, Reg.LOOP_CKPT_SIG l.val)),
      runs c.1 → s.atCheckpoint c.1 = true → Answers (.coreCheckpoint c.1 0) s (fun t =>
        t.reg c.2 = (Config.freeWord s.free).toNat ∧ RegsBut [c.2] s t ∧ Only [.regs, .free] s t)) ∧
    (∀ core (lanes : Fin 4), runs core → s.atCheckpoint core = true → lanes ≠ 0 → Answers (.coreCheckpoint core lanes) s (diverged core 1 lanes.val)) ∧
    (∀ core point,
      let k := 2 * (16 * (repNumber core).1 + (repNumber core).2) + b2n point
      let b := s.diag.laneB.contains k
      let clock := if (repNumber core).1 = 4 then (s.rclk, 20000000) else (s.fclk, 50000000)
      let moved := fun (t : State) => t.diag = { s.diag with
        laneB := if b then s.diag.laneB.filter (fun x => x != k) else setInsert s.diag.laneB k
        lanePos := mapSet 0 s.diag.lanePos k (mapGet 0 s.diag.lanePos k + 1)
        laneT := mapInsert s.diag.laneT k clock.1 }
      (∀ e, s.diag.laneT.find? (fun x => x.1 == k) = some e → e.2 + clock.2 ≤ clock.1) → ((repNumber core).1 = 4 ∨ 8 ≤ s.start.step) → runs core →
      Answers (.laneInjection core point true) s (fun t => moved t ∧ Only [.diag] s t) ∧
      Answers (.laneInjection core point false) s (fun t => moved t ∧ t.reg Reg.SAF_LANE_FAIL_CNT = (s.reg Reg.SAF_LANE_FAIL_CNT + 1) % 2 ^ 32 ∧
        logged core 2 (if b then 2 else 1) t ∧ RegsSide [Reg.SAF_LANE_FAIL_CNT] s t ∧
        (if (repNumber core).1 = 4 then s.RindDoubted 0x97 t else s.Doubted 0x88 t))) ∧
    (∀ core e rest, runs core → mapGet [] s.diag.journals (repJournal core) = e :: rest → e.1 ≤ (s.coreClock (repJournal core)).1 →
      Answers (.journalApply core) s (fun t => Only [.diag] s t ∧ t.diag = { s.diag with journals := mapSet [] s.diag.journals (repJournal core) rest })) ∧
    (∀ (v : VatNo) (tile : TileNo) e, s.mainClk = true → (s.vat v).core.checkedTmm (s.vat v).cyc tile = some e → Answers (.arrayChecksum v tile true) s (fun t =>
      t.logs = (s.pushLog Reg.SAF_CMP_LOG 16 (2 ^ 63 + 5 * 2 ^ 56 + v.val * 2 ^ 52 + tile.val * 2 ^ 50 + 3 * 2 ^ 48 + s.frameLo)).logs ∧
      (if e.2.2.2 = true then s.Doubted 0x84 t ∧ RegsSide [] s t
        else t.reg Reg.SAF_ARRAY_CNT = (s.reg Reg.SAF_ARRAY_CNT + 1) % 2 ^ 32 ∧ RegsBut [Reg.SAF_ARRAY_CNT] s t))) ∧
    (∀ a b, s.mainClk = true → s.diag.pairSig.findSome? (fun a => (s.partner a).map (fun b => (a, b))) = some (a, b) → Answers .pairCompare s (fun t =>
      t.reg Reg.SAF_PAIR_CNT = (s.reg Reg.SAF_PAIR_CNT + 1) % 2 ^ 32 ∧ RegsSide [Reg.SAF_PAIR_CNT] s t ∧
      t.diag = { s.diag with pairSig := s.diag.pairSig.filter (fun e => e != a && e != b) } ∧ (a.2.1 ≠ b.2.1 → s.Doubted 0x85 t)))


/-- An arming that passes its checks loads its weights; a row that arrives enters the ring or ends its frame; an output row is computed and stored in its place; a frame
that is over writes its status and is counted; DISARM, abandonment and late reads end what they name (06 R181, R182, R185 to R191, R202). -/
def Obligations.HarpEnginesRunTheirJobs : Prop :=
  ∀ (s : State) (e : Fin 4), s.canonical = true → s.mainClk = true →
    let h := s.engineOf e
    let engine := fun (x : HarpEngine) (t : State) => t.harp = listSet s.harp e x
    let ended := fun (code : Nat) (x : HarpEngine) => x.modLast (fun f => f.fix code)
    (h.armed = true ∨ h.golden = true → Answers (.harpArm e) s (fun t => bit (t.reg Reg.HARP_ERR) errState = true ∧ RegsBut [Reg.HARP_ERR] s t ∧ Only [.regs] s t)) ∧
    (h.armed = false → h.golden = false →
      let a := s.reg (Reg.HARP_JOB e)
      let d := s.bytes a 128
      extentRegion a 128 = .hub →
      (s.harpOwns e a true = false → Answers (.harpArm e) s (fun t => bit (t.reg (Reg.HARP_CTRL e)) 0 = true ∧ RegsBut [Reg.HARP_CTRL e] s t ∧ Only [.regs] s t)) ∧
      (s.harpOwns e a true = true → s.poisoned a 128 = false → h.owed = [] → s.harpCanTell e d = true → hjOk d = false ∨ s.streamBound e d = true →
        Answers (.harpArm e) s (engine (h.clear stBadArg))) ∧
      (s.harpOwns e a true = true → s.poisoned a 128 = false → hjOk d = true → s.streamBound e d = false → (∀ x ∈ s.mig.arrived, x.1 ≠ e.val) →
        (∀ x ∈ hjLoads d, s.admits .harp (some (hjPart d)) .r x.1 x.2 = true ∧ regionOf x.1 ≠ .image ∧ s.harpOwns e x.1 true = true ∧
          s.poisoned x.1 x.2 = false) →
        Answers (.harpArm e) s (fun t => t.mem = s.mem ∧ t.reg (Reg.HARP_RING_ROWS e) = hjRing d ∧ engine { h.clear h.last with
          desc := d
          armed := true
          loaded := true
          weights := (hjLoads d).map (fun x => (x.1, s.readBytes x.1 x.2, false, 0))
          frames := if hjSource d = 1 then [HarpFrame.start 0] else []
          seq := if hjSource d = 1 then 1 else 0 } t))) ∧
    (h.armed = true → hjRepeat h.desc = true →
      (h.frames = [] → Answers (.harpDisarm e) s (fun t => engine (h.clear h.last) t ∧ Only [.harp] s t)) ∧
      (h.frames ≠ [] → Answers (.harpDisarm e) s (fun t => engine { h with stopping := true } t ∧ bit (t.reg (Reg.HARP_CTRL e)) 1 = true ∧
        RegsBut [Reg.HARP_CTRL e] s t ∧ Only [.harp, .regs] s t))) ∧
    (h.armed = true → h.loaded = true → h.frames = [] → hjSource h.desc = 0 → linesPerRow (hjPix h.desc) ≤ h.lines.length →
      Answers (.harpRowArrival e) s (fun t => engine { h with lines := h.lines.drop (linesPerRow (hjPix h.desc)) } t ∧
        t.reg (Reg.HARP_GEOM_CNT e) = (s.reg (Reg.HARP_GEOM_CNT e) + 1) % 2 ^ 32 ∧ RegsBut [Reg.HARP_GEOM_CNT e] s t ∧ Only [.harp, .regs] s t)) ∧
    (∀ f, h.armed = true → h.loaded = true → h.frames.getLast? = some f → f.fixed = none →
      let n := linesPerRow (hjPix h.desc)
      let row := convertRow h.desc (h.lines.take n)
      let rest := { h with lines := h.lines.drop n }
      let geom := fun (t : State) => t.reg (Reg.HARP_GEOM_CNT e) = (s.reg (Reg.HARP_GEOM_CNT e) + 1) % 2 ^ 32 ∧ RegsBut [Reg.HARP_GEOM_CNT e] s t ∧ Only [.harp, .regs] s t
      (hjSource h.desc = 0 → n ≤ h.lines.length →
        (hjIh h.desc ≤ f.rowsIn → Answers (.harpRowArrival e) s (fun t => engine rest t ∧ geom t)) ∧
        (f.rowsIn < hjIh h.desc → row.length ≠ 4 * hjIw h.desc → Answers (.harpRowArrival e) s (fun t => engine (ended stBadArg rest) t ∧ geom t)) ∧
        (f.rowsIn < hjIh h.desc → row.length = 4 * hjIw h.desc →
          (h.full = true → Answers (.harpRowArrival e) s (fun t => engine (ended stDeadlineMiss rest) t ∧
            t.reg (Reg.HARP_OVR_CNT e) = (s.reg (Reg.HARP_OVR_CNT e) + 1) % 2 ^ 32 ∧ RegsBut [Reg.HARP_OVR_CNT e] s t ∧ Only [.harp, .regs] s t)) ∧
          (h.full = false → Answers (.harpRowArrival e) s (fun t => engine (rest.put row [] false) t ∧ Only [.harp] s t)))) ∧
      (hjSource h.desc ≠ 0 → f.rowsIn < hjIh h.desc → h.full = false → h.want = [] → h.got = [] → (∀ x ∈ s.mig.arrived, x.1 ≠ e.val) →
        let reads := hjRowReads h.desc f.rowsIn
        let codes := fun i => ((reads[i]?.map (fun x => s.readBytes x.1 x.2)).getD []).map (fun b => b.toNat)
        (∀ x ∈ reads, s.admits .harp (some (hjPart h.desc)) .r x.1 x.2 = true ∧ regionOf x.1 ≠ .image ∧ s.harpOwns e x.1 true = true) →
        Answers (.harpRowArrival e) s (fun t => t.mem = s.mem ∧ engine (h.put (codes 0) (codes 1) (reads.any (fun x => s.poisoned x.1 x.2))) t))) ∧
    (∀ f, h.current = some f → h.golden = false → f.ready h.desc = true →
      let d := h.desc
      let row := h.nextRow f
      let bad := h.badFor f
      let off := f.rowsOut * row.1.length
      let n := (off + row.1.length - 1) / 32 + 1 - off / 32
      let exps := if hjOutFmt d = 1 then List.replicate n (hjOutExp d) else row.2
      let at0 := hjFrameAddr d f.seq + off
      let at1 := hjOutExpAddr d + (f.seq % max 1 (hjOutFrames d)) * hjStride d + off / 32
      let out := fun (ws : List HarpWrite) (held : List (List Nat × List Nat × Bool)) (t : State) => t.mem = s.mem ∧ (h.upsetFor f = 0 → Only [.harp] s t) ∧
        t.harp = listSet s.harp e { h.modFrame f.seq (fun g => { g with rowsOut := g.rowsOut + 1, bad := g.bad || bad, units := held }) with
          out := h.out ++ ws }
      (262144 < outBytes (h.out ++ (harpEmit d f row bad).1) → Answers (.harpOutputRow e) s (fun t => t = s)) ∧
      (outBytes (h.out ++ (harpEmit d f row bad).1) ≤ 262144 →
        (hjCodec d = 0 → hjOutFmt d = 2 → Answers (.harpOutputRow e) s (out [⟨f.seq, at0, bytesOf row.1, bad, 1⟩] [])) ∧
        (hjCodec d = 0 → hjOutFmt d ≠ 2 →
          Answers (.harpOutputRow e) s (out [⟨f.seq, at0, bytesOf row.1, bad, 0⟩, ⟨f.seq, at1, bytesOf exps, bad, 1⟩] [])) ∧
        (hjCodec d ≠ 0 → f.rowsOut % 8 ≠ 7 → f.rowsOut + 1 ≠ (hjOh d).toNat →
          Answers (.harpOutputRow e) s (out [] (f.units ++ [(row.1, row.2, bad)]))))) ∧
    (∀ w l, h.out = w :: l →
      (s.harpMay e h.desc .w w.addr (min 256 w.data.length) = false → s.harpDrain e = s) ∧
      (s.harpOwns e w.addr false = true → s.admits .harp (some (hjPart h.desc)) .w w.addr (min 256 w.data.length) = true →
        (s.harpDrain e).mem = memStore s.mem w.addr (w.data.take 256) ∧ (256 < w.data.length → ((s.harpDrain e).engineOf e).out =
          { w with
            addr := w.addr + 256
            data := w.data.drop 256 } :: l) ∧ (w.data.length ≤ 256 → ((s.harpDrain e).engineOf e).out = l))) ∧
    (∀ f l, h.frames = f :: l → f.pending h.desc = false → h.out.all (fun w => w.seq != f.seq) = true → f.visible ≤ s.fclk → h.owed = [] →
      s.harpCanTell e h.desc = true →
      let code := f.fixed.getD (if f.bad then stTierFault else stDone)
      let told := fun (t : State) => t.reg (Reg.HARP_FRAME_CNT e) = (s.reg (Reg.HARP_FRAME_CNT e) + 1) % 2 ^ 32 ∧
        (s.admits .harp (some (hjPart h.desc)) .w (hjStatus h.desc) 8 = true →
          t.mem = memStore s.mem (hjStatus h.desc) (toLE 8 (code + 65536 * (f.written % 65536) + 2 ^ 32 * f.seq))) ∧
        (hjCell h.desc ≠ 0 → s.admits .harp (some (hjPart h.desc)) .s (hjCell h.desc) 8 = true →
          t.cells = (s.cellOp (hjCell h.desc) (.add (BitVec.ofNat 64 (completionValue code)))).cells)
      if hjRepeat h.desc = true ∧ (h.stopping = false ∨ l ≠ []) then Answers (.harpFrameEnd e) s (fun t => told t ∧ engine { h with
          frames := l
          last := code
          closed := l.isEmpty && f.fixed.isNone
          ring := h.ring.filter (fun r => r.frame != f.seq) } t)
      else Answers (.harpFrameEnd e) s (fun t => told t ∧ engine (h.clear code) t)) ∧
    (∀ w, s.goldWindow e = some w → h.golden = true → s.windowEnd w.1 ≤ s.fclk + tGCut s.table → Answers (.harpGoldenAbandon e) s (fun t =>
      engine { h with
        golden := false
        gold := none } t ∧ t.reg (Reg.HARP_GOLD_SIG e) = 0)) ∧
    (∀ late, late = s.mig.held.filter (fun x => x.who == .harp e && (match x.deadline with | some t => decide (t ≤ s.fclk) | none => false)) →
      late ≠ [] → Answers (.harpReadDeadline e) s (fun t =>
        let tiers := late.filter s.onTier
        let code := if tiers = [] then stDeadlineMiss else stTierLate
        t.reg Reg.MIG_LATE_CNT = (s.reg Reg.MIG_LATE_CNT + tiers.length) % 2 ^ 32 ∧
        t.mig = { s.mig with
          held := s.mig.held.filter (fun x => x.who != .harp e)
          arrived := s.mig.arrived.filter (fun x => x.1 != e.val) } ∧
        (h.loaded = true → engine (ended code { h with
          want := []
          got := [] }) t) ∧ (h.loaded = false → h.owed = [] → s.harpCanTell e h.desc = true → engine (h.clear code) t)))


/-- The walker reads the next command its doorbell announces; a command that cannot be opened ends with its code and, but for EVICT, a free VALUE; GATHER pushes two copies per run and writes
key words and summaries; APPEND pushes its copies and commits FILL and NEXT_POS when they have ended; EVICT marks the pages of lowest mass (07 R215 to R217, R219 to R222). -/
def Obligations.TheWalkerRunsItsCommands : Prop :=
  ∀ (s : State) (v : VatNo), s.canonical = true → s.mainClk = true →
    let w := s.walker v
    let ended := fun (u : State) (c : WalkCmd) (code count value : Nat) (t : State) =>
      let word := toLE 8 (code + 2 ^ 16 * (count % 65536) + 2 ^ 32 * (value % 2 ^ 32))
      t.walkers = listSet s.walkers v { w with
        cmd := none
        last := code } ∧
      t.mem = (if aligned (wkStatus c.bytes) 8 && s.pondMay v (wkStatus c.bytes) 8 true then memStore u.mem (pondAddr v (wkStatus c.bytes)) word else u.mem) ∧
      t.cells = (if bit (wkCell c.bytes) 15 then s else s.cellDo v (wkCell c.bytes % 16384) 4 (.add (BitVec.ofNat 64 (completionValue code)))).cells ∧
      (bit (wkCell c.bytes) 15 = false → s.cellFree v (wkCell c.bytes % 16384) 4 = true →
        t.cell v (wkCell c.bytes % 16384) = (s.cell v (wkCell c.bytes % 16384) + completionValue code) % 2 ^ 64) ∧
      t.vats = u.vats ∧ t.reg (Reg.ATT_CMD_CNT v) = (s.reg (Reg.ATT_CMD_CNT v) + 1) % 2 ^ 32 ∧
      (code = stDone → RegsBut [Reg.ATT_CMD_CNT v, Reg.ATT_EVICT_CNT v] s t) ∧
      (code ≠ stDone → t.reg (Reg.ATT_FAIL_CNT v) = (s.reg (Reg.ATT_FAIL_CNT v) + 1) % 2 ^ 32 ∧
        t.reg (Reg.ATT_LASTERR v) = 2 ^ 32 * s.frameLo + 2 ^ 8 * (c.num % 2 ^ 24) + code ∧
        RegsBut [Reg.ATT_CMD_CNT v, Reg.ATT_FAIL_CNT v, Reg.ATT_LASTERR v] s t)
    let fails := fun (c : WalkCmd) (code : Nat) (t : State) => ended s c code 0 (if wkOp c.bytes = 3 then 0 else (Config.freeWord s.free).toNat) t
    let late := fun (c : WalkCmd) (n : Nat) => c.ready + n ≤ (s.vat v).cyc
    (w.cmd = none → s.cellSeen v w.dbCell ≠ w.count → (s.vat v).running = true →
      let off := w.ringBase + 64 * (w.count % max 1 w.ringLen)
      let b := if s.wkReads v off 64 then s.bytes (pondAddr v off) 64 else List.replicate 64 0xFF#8
      Answers (.walkerDoorbell v) s (fun t => t.mem = s.mem ∧ t.reg (Reg.ATT_RING_HEAD v) = (s.reg (Reg.ATT_RING_HEAD v) + 1) % 2 ^ 32 ∧
        t.walkers = listSet s.walkers v { w with
          cmd := some ⟨w.count, b, (s.vat v).cyc + 14, [], [], 0, 0, 0, s.wkSums v b⟩
          count := (w.count + 1) % 2 ^ 64 })) ∧
    (∀ c, w.cmd = some c → c.pushed = [] → c.nextPos = 0 →
      (∀ k ∈ [(Instr.walkerGather v, 1), (.walkerAppend v, 2), (.walkerEvict v, 3)],
        (∀ code, wkOp c.bytes = k.2 → s.wkOpen v c.bytes = .inl code → late c 2 → Answers k.1 s (fails c code)) ∧
        (wkOp c.bytes = 0 ∨ 3 < wkOp c.bytes → late c 2 → Answers k.1 s (fails c stBadArg))) ∧
      (∀ sq l, s.wkOpen v c.bytes = .inr (sq, l) →
        let b := c.bytes
        let dim := sqDim sq
        let e := sqBytes sq
        let cost := 2 * l.pages.length
        (wkOp b = 1 →
          let t' := bits (wkArg b 0) 42 32
          let r := kvRuns dim e (wkArg b 0 % 2 ^ 24) (128 * t') l.pages 0
          let ds := (r.1.map (s.kvCopies v (wkMcell b) dim e (wkArg b 1) (wkArg b 2))).flatten
          (s.wkGatherArgs v b = false ∨ (l.pages.take r.2.1).all (fun p => p.ok dim e) = false → late c (2 * r.2.1 + 2) →
            Answers (.walkerGather v) s (fails c stBadArg)) ∧
          (s.wkGatherArgs v b = true → (l.pages.take r.2.1).all (fun p => p.ok dim e) = true →
          (4096 < moverCount (s.vat v).core (wkMover b) + ds.length → late c (2 * r.2.1 + 2) → Answers (.walkerGather v) s (fails c stNoSpace)) ∧
          (moverCount (s.vat v).core (wkMover b) + ds.length ≤ 4096 → late c (2 * r.2.1 + 2 * ds.length + 4 * t' + 2) →
            Answers (.walkerGather v) s (ended ((List.range t').foldl (fun u i => u.kvTile v (wkArg b 3) (wkArg b 4) i r.1) (s.wkPush v (wkMover b) ds).1)
              c stDone ds.length r.2.2)))) ∧
        (wkOp b = 2 → wkAppendArgs b = false ∨ l.pages.all (fun p => p.ok dim e) = false → late c (cost + 2) →
          Answers (.walkerAppend v) s (fails c stBadArg)) ∧
        (wkOp b = 2 → wkAppendArgs b = true → l.pages.all (fun p => p.ok dim e) = true →
          let kept := (List.range 64).filter (fun r => bit (wkArg b 0) r)
          let n := if bit (wkArg b 3) 0 then bits (wkArg b 3) 28 16 else kept.length
          let taken := kvTaken dim e l.next n l.pages
          let ksrc := wkArg b 1 % 2 ^ 32
          let pitch := wkArg b 1 / 2 ^ 32
          let vsrc := wkArg b 2 % 2 ^ 32
          let ds := if bit (wkArg b 3) 0 then (taken.map (fun x => s.kvBlock v (wkMcell b) dim e ksrc pitch vsrc x.1 x.2.1 x.2.2.1 x.2.2.2)).flatten
            else (kept.zipIdx.map (fun x => match kvPlace dim e l.pages (l.next + x.2) with
              | some pl => s.kvRow v (wkMcell b) dim e (ksrc + x.1 * pitch) (vsrc + x.1 * pitch) pl
              | none => [])).flatten
          let full := (taken.map (fun x => x.2.2.1)).sum < n ∨ 4096 < moverCount (s.vat v).core (wkMover b) + ds.length
          (full → late c (cost + 2) → Answers (.walkerAppend v) s (fails c stNoSpace)) ∧
          (¬full → n = 0 → late c (cost + 2) → Answers (.walkerAppend v) s (ended s c stDone 0 l.next)) ∧
          (¬full → n ≠ 0 → late c (cost + 2 * ds.length) → Answers (.walkerAppend v) s (fun t => t.vats = (s.wkPush v (wkMover b) ds).1.vats ∧
            t.walkers = listSet s.walkers v { w with
              cmd := some { c with
                pushed := (s.wkPush v (wkMover b) ds).2
                fills := taken.map (fun x => (x.1.off, x.2.1 + x.2.2.1))
                rows := n
                nextPos := l.next + n
                ready := c.ready + (cost + 2 * ds.length) + 4 * taken.length + 2 } } ∧ t.mem = s.mem ∧ t.regs = s.regs))) ∧
        (wkOp b = 3 →
          let cand := wkConsidered sq l (wkArg b 1) (wkArg b 2)
          let k := min (wkArg b 0) cand.length
          1 ≤ wkArg b 0 → wkArg b 0 ≤ 64 → wkArg b 1 < 2 ^ 24 → wkArg b 2 < 2 ^ 24 → wkArg b 3 < 2 ^ 32 → wkArg b 4 = 0 → wkArg b 5 = 0 →
          l.pages.all (fun p => p.ok dim e) = true → (0 < k → s.pondMay v (wkArg b 3) (8 * k) true = true) →
          (∀ x ∈ cand, ∀ r ∈ massReads sq x.2, s.wkReads v r.1 r.2 = true) → (∀ x ∈ cand, s.pondMay v x.2.off 16 true = true) →
          let order := (cand.map (fun x => (x.1, x.2, mapGet 0 c.sums x.1))).foldl (fun acc a => massInsert s.free a acc) []
          let out := (List.range l.pages.length).filterMap (fun i => (order.take k).find? (fun x => x.1 == i))
          let marks := out.map (fun x => toLE 8 (putBit x.2.1.w0 62 true))
          late c (cost + (cand.map (fun x => 3 + cdiv x.2.fill 64)).sum + 4 * out.length + 2) →
          Answers (.walkerEvict v) s (fun t => ended ((out.foldl (fun u x => u.storeLE (pondAddr v x.2.1.off) 8 (putBit x.2.1.w0 62 true)) s).store
            (pondAddr v (wkArg b 3)) marks.flatten) c stDone out.length 0 t ∧
            t.reg (Reg.ATT_EVICT_CNT v) = (s.reg (Reg.ATT_EVICT_CNT v) + out.length) % 2 ^ 32)))) ∧
    (∀ c, w.cmd = some c → wkOp c.bytes = 2 → c.pushed = [] → c.nextPos ≠ 0 → c.ready ≤ (s.vat v).cyc →
      (c.failed ≠ 0 → Answers (.walkerAppendCommit v) s (fails c c.failed)) ∧
      (∀ code, c.failed = 0 → s.wkOpen v c.bytes = .inl code → Answers (.walkerAppendCommit v) s (fails c code)) ∧
      (∀ sq l, c.failed = 0 → s.wkOpen v c.bytes = .inr (sq, l) →
        let open' := c.fills.all (fun x => s.pondMay v x.1 16 true) && s.pondMay v l.off 16 true
        (open' = false → Answers (.walkerAppendCommit v) s (fails c stBadArg)) ∧
        (open' = true → Answers (.walkerAppendCommit v) s
          (ended ((c.fills.foldl (fun u x => u.storeLE (pondAddr v (x.1 + 11)) 2 x.2) s).storeLE (pondAddr v (l.off + 8)) 4 c.nextPos)
            c stDone c.rows c.nextPos))))


/-- A unit received with an error is counted and discarded; one without a context counts; otherwise its bytes are staged for the lowest context that matches, stamped by its
kind; an SPI context with TRIG 1 triggers at its period instants; a sample that has ended takes its SEQ, status and frozen test and is written into its ring slot (09 R244, R245, R247, R249 to R253). -/
def Obligations.SamplesAreStampedStagedAndWritten : Prop :=
  ∀ (s : State), s.canonical = true → s.mainClk = true →
    let counts := fun (k : Nat) (t : State) => t.reg k = (s.reg k + 1) % 2 ^ 32 ∧ RegsBut [k] s t ∧ Only [.regs] s t
    let fresh := fun (stamp : Int) => (⟨stamp, s.nowNs, [], [], 0, false, false, 0, none⟩ : IngSample)
    let staged := fun (c : Nat) (o : IngSample) (emb bad : Bool) (l : List Byte) =>
      let kept := l.take (if o.full then 0 else if s.ringAddr c = 0 then l.length else stagingSize - s.staged)
      { o with
        arrive := s.nowNs
        full := o.full || decide (kept.length < l.length)
        left := o.left + (if s.ringAddr c = 0 then 0 else kept.length)
        emb := if emb then o.emb ++ kept else o.emb
        data := if emb then o.data else o.data ++ kept
        fault := o.fault || bad }
    let linked := fun (crc : Bool) (t : State) =>
      t.reg Reg.ING_LINK_ERR_CNT = (if crc then (s.reg Reg.ING_LINK_ERR_CNT + 1) % 2 ^ 32 else s.reg Reg.ING_LINK_ERR_CNT)
    let synced := fun (rx : Fin 8) (t : State) => t.reg Reg.ING_STATUS = putBits (s.reg Reg.ING_STATUS) rx rx 1
    let others := fun (l : List Nat) (t : State) => ∀ c, c ∉ l → t.ctx c = s.ctx c
    (∀ (rx : Fin 8) (vc : Fin 16), bit (s.reg (Reg.ING_CSI_CFG rx)) 0 = true →
      let cams := s.cameras rx vc
      Answers (.csiFrameStart rx vc true) s (counts Reg.ING_LINK_ERR_CNT) ∧ Answers (.csiFrameEnd rx vc true) s (counts Reg.ING_LINK_ERR_CNT) ∧
      Answers (.csiFrameStart rx vc false) s (fun t => others cams t ∧ ∀ c ∈ cams, (s.ctx c).cur = none ∨ (s.ctx c).closing = false →
        (t.ctx c).cur = some (fresh (s.nowNs - (Config.csiLatency rx.val : Int) + s.expOfs c)) ∧
        (t.ctx c).ended = (s.ctx c).ended ++ (s.ctx c).cur.toList ∧ (t.ctx c).seq = (s.ctx c).seq) ∧
      Answers (.csiFrameEnd rx vc false) s (fun t => others cams t ∧ ∀ c ∈ cams, (t.ctx c).cur = none ∧
        (t.ctx c).ended = (s.ctx c).ended ++ (s.ctx c).cur.toList ∧ (t.ctx c).seq = (s.ctx c).seq) ∧
      (∀ (dt : Fin 64) (crc : Bool) (l : List Byte),
        Answers (.csiPacket rx vc dt true crc l) s (counts Reg.ING_LINK_ERR_CNT) ∧
        (cams.find? (fun c => s.filt c 13 8 == dt.val || (s.filt c 21 16 == dt.val && dt.val != 0)) = none →
          Answers (.csiPacket rx vc dt false crc l) s (fun t => RegsBut [Reg.ING_NOMATCH_CNT, Reg.ING_LINK_ERR_CNT, Reg.ING_STATUS] s t ∧ Only [.regs] s t ∧
            t.reg Reg.ING_NOMATCH_CNT = (s.reg Reg.ING_NOMATCH_CNT + 1) % 2 ^ 32 ∧ linked crc t ∧ synced rx t)) ∧
        (∀ c o, cams.find? (fun c => s.filt c 13 8 == dt.val || (s.filt c 21 16 == dt.val && dt.val != 0)) = some c → (s.ctx c).cur = some o →
          Answers (.csiPacket rx vc dt false crc l) s (fun t => others [c] t ∧ RegsBut [Reg.ING_LINK_ERR_CNT, Reg.ING_STAGE_HWM, Reg.ING_STATUS] s t ∧
            (t.ctx c).cur = some (staged c o (s.filt c 13 8 != dt.val) crc l) ∧ linked crc t ∧ synced rx t)))) ∧
    (∀ (m : Fin 4) (sfd : Int) (f : List Byte), s.tpEn m = true →
      Answers (.ethRxFrame m sfd true f) s (counts Reg.ING_LINK_ERR_CNT) ∧
      (isPtp f = false → (ethParse f).2.1 ≠ 0x8808 →
        let found := (s.matching (fun c => s.ctxKind c == 1 && s.ctxPort c == m.val)).findSome? (fun c => (s.ethPayload c f).map (fun l => (c, l)))
        (found = none → Answers (.ethRxFrame m sfd false f) s (fun t => t.reg (Reg.TSN_RX_CNT m) = (s.reg (Reg.TSN_RX_CNT m) + 1) % 2 ^ 32 ∧
          t.reg Reg.ING_NOMATCH_CNT = (s.reg Reg.ING_NOMATCH_CNT + 1) % 2 ^ 32 ∧ RegsBut [Reg.TSN_RX_CNT m, Reg.ING_NOMATCH_CNT] s t ∧ Only [.regs] s t)) ∧
        (∀ c l, found = some (c, l) →
          let o := staged c ((s.ctx c).cur.getD (fresh (s.ethStamp c sfd l))) false false l
          let o' := { o with frames := o.frames + 1 }
          Answers (.ethRxFrame m sfd false f) s (fun t => others [c] t ∧ t.reg (Reg.TSN_RX_CNT m) = (s.reg (Reg.TSN_RX_CNT m) + 1) % 2 ^ 32 ∧
            (if s.filt c 56 45 + 1 ≤ o'.frames then (t.ctx c).cur = none ∧ (t.ctx c).ended = (s.ctx c).ended ++ [o']
              else (t.ctx c).cur = some o' ∧ (t.ctx c).ended = (s.ctx c).ended))))) ∧
    (∀ (m cs : Fin 4) (l : List Byte),
      (s.spiCtx m cs = none → Answers (.spiTransferEnd m cs l) s (counts Reg.ING_NOMATCH_CNT)) ∧
      (∀ c, s.spiCtx m cs = some c → s.filt c 56 56 = 0 → (s.ctx c).cur = none → Answers (.spiTrigger m cs) s (fun t => Only [.ing] s t ∧ others [c] t ∧
        t.ctx c = { s.ctx c with cur := some (fresh (s.nowNs + s.expOfs c)) })) ∧
      (∀ c, s.spiCtx m cs = some c → s.filt c 56 56 = 1 →
        (s.reached (s.ctx c).instant = false → Answers (.spiTrigger m cs) s (fun t => t = s)) ∧
        (s.reached (s.ctx c).instant = true → Answers (.spiTrigger m cs) s (fun t => Only [.ing] s t ∧ others [c] t ∧
          t.ctx c = { s.ctx c with
            instant := (s.ctx c).instant + max 1 (s.period c)
            cur := if (s.ctx c).cur = none then some (fresh ((s.ctx c).instant + s.expOfs c)) else (s.ctx c).cur }))) ∧
      (∀ c o, s.spiCtx m cs = some c → (s.ctx c).cur = some o → Answers (.spiTransferEnd m cs l) s (fun t => others [c] t ∧ (t.ctx c).cur = none ∧
        (t.ctx c).ended = (s.ctx c).ended ++ [staged c o false false (l.take (s.filt c 43 35 + 1))]))) ∧
    (∀ (n : Fin 2) (sof : Int) (ident : BitVec 29) (fmt : Fin 4) (l : List Byte), bit (s.reg (Reg.ING_CAN_CFG n)) 34 = true →
      let found := (s.matching (fun c => s.canMatch c n.val ident.toNat fmt.val)).head?
      Answers (.canRxFrame n sof ident fmt true l) s (counts Reg.ING_LINK_ERR_CNT) ∧
      (s.canTakes n fmt = false → Answers (.canRxFrame n sof ident fmt false l) s (counts Reg.ING_LINK_ERR_CNT)) ∧
      (s.canTakes n fmt = true → found = none → Answers (.canRxFrame n sof ident fmt false l) s (counts Reg.ING_NOMATCH_CNT)) ∧
      (∀ c, s.canTakes n fmt = true → found = some c → (s.ctx c).cur = none → Answers (.canRxFrame n sof ident fmt false l) s (fun t => others [c] t ∧
        (t.ctx c).cur = none ∧ (t.ctx c).ended = (s.ctx c).ended ++ [staged c (fresh (sof + s.expOfs c)) false false l]))) ∧
    (∀ (c : Fin 96) o rest, (s.ctx c).ended = o :: rest → o.checked = none → o.left = 0 →
      let x := s.ctx c
      let cfg := s.ctxCfg c
      let l := o.payload
      let hash := if bit cfg 5 then crc64 (s.hashInput c l) else 0
      let cnt := if bit cfg 6 then s.counterOf c l else 0
      let frozen := (bit cfg 5 && x.hashes.contains hash) || (bit cfg 6 && x.counter == some cnt)
      let n := min l.length (s.slotRoom c)
      let slot := s.ringSlot c x.seq
      let part := s.ctxPart c
      let st := if o.fault then stTierFault else if o.full then stNoSpace else if s.ringAddr c ≠ 0 ∧ s.slotRoom c < l.length then stBadArg else stDone
      let cell := s.reg (Reg.ING_CTX_CELL c)
      (s.ringAddr c ≠ 0 → s.mayGo .ingest part .w slot 64 = true ∧
        ∀ k m, k + m ≤ 64 + n → 0 < m → s.admits .ingest (some part) .w (slot + k) m = true) →
      Answers (.sampleEnd c) s (fun t => others [c.val] t ∧ (t.ctx c).ended = rest ∧ (t.ctx c).seq = (x.seq + 1) % 2 ^ 32 ∧
        (t.ctx c).hashes = (if st = stDone ∧ bit cfg 5 then (hash :: x.hashes).take 4 else x.hashes) ∧
        (t.ctx c).counter = (if st = stDone ∧ bit cfg 6 then some cnt else x.counter) ∧
        t.reg Reg.ING_SAMPLE_CNT = (s.reg Reg.ING_SAMPLE_CNT + 1) % 2 ^ 32 ∧ t.reg (Reg.ING_CTX_STAT c) = x.seq + 2 ^ 32 * st ∧
        (frozen = true → t.reg Reg.ING_FROZEN_CNT = (s.reg Reg.ING_FROZEN_CNT + 1) % 2 ^ 32 ∧ (s.ctxSafety c = true → s.Doubted 0x8B t)) ∧
        t.fus = { s.fus with waiting := s.fus.waiting ++ [(c.val, (⟨o.stamp, o.arrive, x.seq, l.take 4100⟩ : Held), st == stDone && !frozen)] } ∧
        (bit cell 63 = false → s.admits .ingest (some part) .s (bits cell 47 0) 8 = true →
          let op := CellOp.add (BitVec.ofNat 64 (completionValue st))
          if s.pathOpen .ingest (pathRows .ingest (regionOf (bits cell 47 0)) false) = true ∧ ∀ y ∈ s.mig.posts, y.init ≠ .ingest then
            t.cells = (s.cellOp (bits cell 47 0) op).cells
          else t.cells = s.cells ∧ t.mig.posts = s.mig.posts ++ [⟨.ingest, part, bits cell 47 0, [], some op⟩]) ∧
        (s.ringAddr c = 0 → t.mem = s.mem) ∧
        (s.ringAddr c ≠ 0 → MemBut slot (64 + n) s t ∧ t.bytes (slot + 64) n = l.take n ∧
          let r := t.bytes slot 64
          fieldLE r 0 8 = ofInt 64 o.stamp ∧ fieldLE r 8 8 = ofInt 64 o.arrive ∧ fieldLE r 0x10 4 = x.seq % 2 ^ 32 ∧ fieldLE r 0x14 1 = c.val ∧
          fieldLE r 0x15 1 = st ∧ fieldLE r 0x18 4 = n % 2 ^ 32 ∧ fieldLE r 0x20 8 = hash % 2 ^ 64)))


/-- A sample accepted at ARRIVE + 200 ns gives the drift of its stream and enters its history unless late; the ego tick integrates a pose and writes its entry; a channel writes
its aligned set at DUE; an association job tests its cell, then gates, sorts and assigns greedily (09 R254, R257, R258, R261, R263, R269; log entry 35 for the FP64 steps). -/
def Obligations.FusionAcceptsAlignsAndAssociates : Prop :=
  ∀ (s : State), s.canonical = true → s.mainClk = true →
    let told := fun (p cellReg st : Nat) (t : State) =>
      let a := bits (s.reg cellReg) 47 0
      let op := CellOp.add (BitVec.ofNat 64 (completionValue st))
      if bit (s.reg cellReg) 63 = true ∨ s.admits .fusion (some p) .s a 8 = false then t.cells = s.cells ∧ t.mig.posts = s.mig.posts
      else if s.pathOpen .fusion (pathRows .fusion (regionOf a) false) = true ∧ ∀ y ∈ s.mig.posts, y.init ≠ .fusion then t.cells = (s.cellOp a op).cells
      else t.cells = s.cells ∧ t.mig.posts = s.mig.posts ++ [⟨.fusion, p, a, [], some op⟩]
    let open' := fun (p a n : Nat) => ∀ k m, k + m ≤ n → 0 < m → s.admits .fusion (some p) .w (a + k) m = true ∧ s.mayGo .fusion p .w (a + k) m = true
    (∀ c h ok, s.fus.waiting.find? (fun w => s.reached (w.2.1.arrive + 200)) = some (c, h, ok) → s.dueBefore (h.arrive + 200) = false →
      let f := { s.fus with
        waiting := s.fus.waiting.filter (fun w => w != (c, h, ok))
        drift := mapInsert s.fus.drift c (h.arrive - h.stamp - s.lat c) }
      (s.lateMax c < h.arrive - h.stamp - s.lat c → Answers .sampleAccept s (fun t => t.fus = f ∧ RegsBut [Reg.FUS_LATE_DROP_CNT] s t ∧
        t.reg Reg.FUS_LATE_DROP_CNT = (s.reg Reg.FUS_LATE_DROP_CNT + 1) % 2 ^ 32)) ∧
      (h.arrive - h.stamp - s.lat c ≤ s.lateMax c → ok = false → Answers .sampleAccept s (fun t => t.fus = f ∧ RegsBut [] s t)) ∧
      (h.arrive - h.stamp - s.lat c ≤ s.lateMax c → ok = true → Answers .sampleAccept s (fun t => RegsBut [Reg.FUS_LATE_USE_CNT] s t ∧
        t.fus = { f with hist := mapSet [] f.hist c (holdSample (s.histSize c) (mapGet [] f.hist c) h) } ∧
        t.reg Reg.FUS_LATE_USE_CNT = (if s.lateFor c h then (s.reg Reg.FUS_LATE_USE_CNT + 1) % 2 ^ 32 else s.reg Reg.FUS_LATE_USE_CNT)))) ∧
    (∀ k, k = s.fus.tick → bit (s.reg Reg.FUS_EGO_CFG) 0 = true → s.reached (k * 500000) = true →
      let cfg := s.reg Reg.FUS_EGO_CFG
      let om := s.egoFields (bits cfg 14 8) (bits cfg 27 24) 3 (k * 500000)
      let ve := if bit cfg 1 then s.egoVel.2 else (s.egoFields (bits cfg 22 16) (bits cfg 31 28) 1 (k * 500000)).map (fun l => l ++ [0, 0])
      let w := om.getD s.fus.omega
      let v := ve.getD s.fus.vel
      let run := if om.isNone || ve.isNone then s.fus.heldRun + 1 else 0
      let prev : Pose := s.fus.poses.headD ⟨k - 1, [0x3FF0000000000000, 0, 0, 0], [0, 0, 0], [0, 0, 0], 0⟩
      let rate := w.map dOf32
      let turned := qNormalise (qMul prev.q (qTurn (dMul (dMul (dNorm rate) egoDelta) dHalf) (dNorm rate) rate))
      let moved := List.zipWith (fun x y => dAdd x (dMul y egoDelta)) prev.p (qRot (qNormalise (List.zipWith dAdd prev.q turned)) (v.map dOf32))
      let e : Pose := ⟨k, turned, moved, v, b2n om.isNone + 2 * b2n ve.isNone + 4 * b2n (decide (20 ≤ run))⟩
      let addr := hubBase + s.reg Reg.FUS_POSE_BASE + 64 * (k % 4000).toNat
      s.fus.outs = [] → s.mayGo .fusion s.egoPart .w addr e.bytes.length = true →
      (bit cfg 1 = true → s.mayGo .fusion s.egoPart .r s.velAddr 12 = true) →
      Answers .egoTick s (fun t => t.fus = { s.fus with
          tick := k + 1
          poses := (e :: s.fus.poses).take 4000
          heldRun := run
          omega := w
          vel := v } ∧
        t.reg Reg.FUS_EGO_TICK = ofInt 64 (k * 500000) ∧ bit (t.reg Reg.FUS_STATUS) 0 = true ∧ bit (t.reg Reg.FUS_STATUS) 1 = decide (20 ≤ run) ∧
        (20 ≤ run → t.reg Reg.FUS_EGO_DEG_CNT = (s.reg Reg.FUS_EGO_DEG_CNT + 1) % 2 ^ 32) ∧
        (s.admits .fusion (some s.egoPart) .w addr e.bytes.length = true → t.bytes addr e.bytes.length = e.bytes))) ∧
    (∀ (k : Fin 16) n, n = mapGet 0 s.fus.next k.val → s.chEn k = true → s.chNproj k = 0 → s.reached (s.chT k n + s.chDelay k) = true →
      s.evalFirst k (s.chT k n + s.chDelay k) = false → s.fus.outs = [] → s.fus.pairs = [] →
      let t0 := s.chT k n
      let u := (List.range (s.chN k)).foldl (State.evalEntry k t0 (t0 + s.chDelay k)) (s.bump Reg.FUS_REQ_CNT, [])
      let r := u.1.setRecord k n t0 u.2
      let out := s.reg (Reg.FUS_CH_OUT k)
      let addr := bits out 47 0 + 4096 * (n % ((bits out 55 48 + 1 : Nat) : Int)).toNat
      open' (s.chPart k) addr r.length →
      Answers (.alignEval k) s (fun t => t.fus = { s.fus with next := mapInsert s.fus.next k (n + 1) } ∧ u.2.map (fun e => e.stream) = s.chStreams k ∧
        t.reg Reg.FUS_REQ_CNT = (s.reg Reg.FUS_REQ_CNT + 1) % 2 ^ 32 ∧ t.bytes addr r.length = r ∧ MemBut addr r.length s t ∧
        told (s.chPart k) (Reg.FUS_CH_CELL k) (if u.2.any EntryOut.dropped then stDeadlineMiss else stDone) t)) ∧
    (∀ (a : Fin 4) n, n = mapGet 0 s.fus.asNext a.val → s.asOn a = true → s.reached (s.asDue a n) = true → s.assocAfter a (s.asDue a n) = false →
      let p := s.asPart a
      let out := s.reg (Reg.FUS_AS_OUT a) % 2 ^ 48
      let next := fun (t : State) => t.fus = { s.fus with asNext := mapInsert s.fus.asNext a (n + 1) }
      let ready := s.reg (Reg.FUS_AS_READY a) % 2 ^ 48
      let x := s.cellAt ready % 2 ^ 64
      s.fus.outs = [] → s.mig.inbox = [] → s.admits .fusion (some p) .s ready 8 = true → s.owns .fusion (pathRows .fusion (regionOf ready) true) = true →
      s.poisoned ready 8 = false →
      (x < s.reg (Reg.FUS_AS_THR a) → open' p out 16 →
        Answers (.associationJob a) s (fun t => next t ∧ t.mem = memStore s.mem out (List.replicate 16 0) ∧ told p (Reg.FUS_AS_CELL a) stDeadlineMiss t ∧
          (s.upset = [] → RegsBut [Reg.FRT_RC_DENY_CNT (clientOf .fusion)] s t))) ∧
      (s.reg (Reg.FUS_AS_THR a) ≤ x →
        let ta := s.reg (Reg.FUS_AS_TRACK a) % 2 ^ 48
        let da := s.reg (Reg.FUS_AS_DET a) % 2 ^ 48
        let nt := s.loadLE ta 4
        let nd := s.loadLE da 4
        let plain := fun (b m : Nat) => (∀ k ∈ [16, 16 + 32 * m], s.admits .fusion (some p) .r b k = true ∧ s.mayGo .fusion p .r b k = true) ∧
          (regionOf b = .hub ∨ ∃ i, regionOf b = .lake i) ∧ s.poisoned b (16 + 32 * m) = false
        let g := gatedPairs (s.bytes ta (16 + 32 * nt)) (s.bytes da (16 + 32 * nd)) nt nd (BitVec.ofNat 32 (s.regBits (Reg.FUS_AS_CFG a) 63 32))
        let o := assignPairs g
        let l := toLE 4 o.length ++ List.replicate 12 0 ++ (o.map (fun e => toLE 2 e.2.1 ++ toLE 2 e.2.2 ++ toLE 4 e.1.toNat)).flatten
        nt ≤ 512 → nd ≤ 1024 → plain ta nt → plain da nd →
        (65536 < g.length → open' p out 16 → Answers (.associationJob a) s (fun t => next t ∧ t.mem = memStore s.mem out (List.replicate 16 0) ∧
          told p (Reg.FUS_AS_CELL a) stNoSpace t)) ∧
        (g.length ≤ 65536 → open' p out l.length → Answers (.associationJob a) s (fun t => next t ∧ t.mem = memStore s.mem out l ∧
          told p (Reg.FUS_AS_CELL a) stDone t))))


/-- A solver job joins the pending set at its start instant, pre-empting a less critical one; the free engine loads the earliest, warm or cold; an iterate that passes or
reaches the cap ends it; a deadline, a value not finite or uncorrectable working memory abandons it, and then the previous record's vector is output; its record and
counters follow (10 R274 to R278, R281 to R287, R290, R291, R293, R294; log entry 37). -/
def Obligations.TheSolverRunsJobsToTheirRecords : Prop :=
  ∀ (s : State), s.canonical = true → s.mainClk = true →
    let ends := fun (r : SlvRun) (causes : List Nat) (flags : Nat) (t : State) => t.slv = { s.slv with
      run := none
      outs := s.slv.outs ++ [slvOutOf r causes flags r.rho r.k r.x] }
    let tested := fun (r : SlvRun) (t : State) =>
      if (r.passed = true ∧ jdRunToCap r.desc = false) ∨ (r.k = jdCap r.desc ∧ r.passed = true) then ends r [] (r.flags ||| fPassed) t
      else if r.k = jdCap r.desc then ends r [stCapReached] r.flags t
      else t.slv = { s.slv with run := some { r with since := s.fclk } }
    let given := fun (r : SlvRun) (cause flags : Nat) (t : State) => t.slv.run = none ∧ t.slv.outs = s.slv.outs ++
      [if r.desc ≠ [] ∧ jdLimits r.desc = false then slvBare r.job r.desc cause
        else if r.desc ≠ [] ∧ jdRunToCap r.desc = true ∧ r.tested = true ∧ r.passed = true then slvOutOf r [] (r.flags ||| flags ||| fPassed) r.rho r.k r.x
        else ⟨r.job, jdPart r.desc, none, 0, cause, some (r, [cause], r.flags ||| flags)⟩]
    let dropped := fun (r : SlvRun) (cause : Nat) (t : State) => ∃ m, m ≤ slvPivots r ∧ given { r with nreg := r.nreg + m } cause 0 t
    let fresh := ∀ x ∈ s.mig.inbox, x.client ≠ clientOf .solver
    let plain := fun (p b n : Nat) => s.admits .solver (some p) .r b n = true ∧ (regionOf b = .hub ∨ ∃ i, regionOf b = .lake i) ∧
      s.poisoned b n = false ∧ s.mayGo .solver p .r b n = true
    let prev := fun (d : List Byte) => laterRecord d (s.bytes (jdSol d 0) 64) (s.bytes (jdSol d 1) 64)
    let prevPlain := fun (d : List Byte) => plain (jdPart d) (jdSol d 0) 64 ∧ plain (jdPart d) (jdSol d 1) 64
    (∀ (j : Fin 8) n t0, n = (s.slvSlot j).n → s.slvStart j n = some t0 → s.slvEn j = true → (s.slvSlot j).stopping = false → s.reached t0 = true →
      s.slvWaits j = false →
      let joined := s.slv.pending ++ [⟨j.val, n, t0, t0 + s.slvBudget j⟩]
      let next := fun (t : State) => t.slv.pending = joined ∧
        t.slv.slots = listModify (fun x => { x with n := n + 1, once := none }) s.slv.slots j ∧
        t.reg (Reg.SLV_JOB_NEXT j) = ofInt 64 (if s.slvPeriod j = 0 then t0 else toInt 64 (s.reg (Reg.SLV_JOB_PHASE j)) + (n + 1) * (s.slvPeriod j : Int))
      (s.slvPreempts j = false → Answers (.solverJobArrive j) s (fun t => next t ∧ RegsBut [Reg.SLV_JOB_NEXT j] s t ∧ Only [.regs, .slv] s t ∧
        t.slv.run = s.slv.run ∧ t.slv.outs = s.slv.outs)) ∧
      (∀ r, s.slv.run = some r → s.slvPreempts j = true → Answers (.solverJobArrive j) s (fun t => next t ∧ t.slv.urgent = some j.val ∧
        dropped r stPreempted t))) ∧
    (∀ q, s.slvPick = some q → s.slvFree = true → s.diag.halted.contains 2 = false → s.reached q.deadline = false → fresh →
      let a := s.reg (Reg.SLV_JOB_DESC q.slot) % 2 ^ 48
      let d := s.bytes a 128
      let p := jdPart d
      let taken := { s.slv with
        pending := s.slv.pending.filter (fun x => x != q)
        urgent := none }
      let ins := (jdInputs d).map (fun e => s.bytes e.1 e.2)
      let r : SlvRun := { SlvRun.start q with
        desc := d
        ready := true
        loaded := true
        ins := ins
        x0 := coldStart d ins
        x := coldStart d ins
        mu := jdMu d
        since := s.fclk }
      let runs := fun (r : SlvRun) (t : State) => t.slv = { taken with run := some r } ∧ t.mem = s.mem
      plain p a 128 → s.admits .solver (some p) .s (jdReady d) 8 = true → s.owns .solver (pathRows .solver (regionOf (jdReady d)) true) = true →
      s.poisoned (jdReady d) 8 = false →
      (s.cellAt (jdReady d) < jdThr d → Answers .solverJobStart s (fun t => t.slv.pending = taken.pending ∧ t.slv.urgent = none ∧
        given { SlvRun.start q with
          desc := d
          ready := true } stDeadlineMiss 0 t)) ∧
      (jdThr d ≤ s.cellAt (jdReady d) →
        (jdLimits d = false → Answers .solverJobStart s (fun t => t.slv = { taken with outs := s.slv.outs ++ [⟨q, p, none, 0, stBadArg, none⟩] } ∧ t.mem = s.mem)) ∧
        (jdLimits d = true → jdFields d = true → (∀ e ∈ jdInputs d, e.2 ≠ 0 → plain p e.1 e.2) → baLimits d ins = true → inputsOk d ins = true →
          (jdWs d = false → Answers .solverJobStart s (runs r)) ∧
          (jdWs d = true → prevPlain d →
            (prev d = none → Answers .solverJobStart s (runs { r with flags := fNoPrev })) ∧
            (∀ b h, prev d = some (b, h) → headerSig h ≠ jobSig d ins → Answers .solverJobStart s (fun t => runs { r with flags := fWsmm } t ∧
              t.reg Reg.SLV_WSMM_CNT = (s.reg Reg.SLV_WSMM_CNT + 1) % 2 ^ 32)) ∧
            (∀ b h, prev d = some (b, h) → headerSig h = jobSig d ins → plain p (b + 64) (jdVecLen d) →
              let y := s.prevVec r h (s.bytes (b + 64) (jdVecLen d))
              Answers .solverJobStart s (runs { r with
                x0 := y.1
                x := y.1
                flags := y.2 })))))) ∧
    (∀ r, s.slv.run = some r → s.reached r.job.deadline = false → s.diag.halted.contains 2 = false → r.loaded = true → r.bad = false → r.upset = 0 →
      let P := Prec.double
      let u := if jdClass r.desc = 1 then (baCost r.desc r.ins r.x, P.le (baCost r.desc r.ins r.x) (jdAbs r.desc)) else linearTest r.desc r.ins r.x
      (r.tested = false → Answers .solverIterateDone s (fun t => tested { r with
          tested := true
          rho := u.1
          rho0 := some u.1
          passed := u.2 } t ∧ Only [.slv] s t)) ∧
      (r.tested = true →
        let e := if jdClass r.desc = 1 then baStep r.desc r.ins r.x r.mu else linearStep r.desc r.ins r.x
        let c := slvPivots r
        let counts := fun (t : State) => Only [.regs, .slv] s t ∧ RegsBut [Reg.SLV_REG_CNT] s t ∧ t.reg Reg.SLV_REG_CNT = (s.reg Reg.SLV_REG_CNT + c) % 2 ^ 32
        (e.1 = none → Answers .solverIterateDone s (fun t => counts t ∧ given { r with nreg := r.nreg + c } stBadArg fNonFinite t)) ∧
        (∀ x, e.1 = some x → jdClass r.desc ≠ 1 → Answers .solverIterateDone s (fun t => counts t ∧ tested { r with
            nreg := r.nreg + c
            x := x
            k := r.k + 1
            rho := (linearTest r.desc r.ins x).1
            passed := (linearTest r.desc r.ins x).2 } t)) ∧
        (∀ x, e.1 = some x → r.loaded = true → jdClass r.desc = 1 →
          let rho := baCost r.desc r.ins x
          let ok := P.le rho r.rho
          Answers .solverIterateDone s (fun t => counts t ∧ tested { r with
            nreg := r.nreg + c
            x := if ok then x else r.x
            k := r.k + 1
            rho := if ok then rho else r.rho
            passed := P.le (if ok then rho else r.rho) (jdAbs r.desc) || (ok && P.le (P.sub r.rho rho) (P.mul (jdRel r.desc) r.rho))
            mu := if ok then P.mul r.mu 0x3FE0000000000000 else P.mul 0x4020000000000000 r.mu } t)))) ∧
    (∀ r, s.slv.run = some r → s.reached r.job.deadline = false → s.diag.halted.contains 2 = false → r.loaded = true → r.bad = true →
      Answers .solverIterateDone s (dropped { r with upset := 0 } stTierFault)) ∧
    (∀ r, s.slv.run = some r → s.reached r.job.deadline = true → Answers .solverDeadline s (fun t =>
      dropped r (if (!r.loaded && s.slvLateRead r.job) = true then stTierLate else stDeadlineMiss) t ∧ t.slv.pending = s.slv.pending)) ∧
    (∀ q, (∀ r, s.slv.run = some r → s.reached r.job.deadline = false) → s.slv.pending.find? (fun q => s.reached q.deadline) = some q →
      Answers .solverDeadline s (fun t => t.slv.pending = s.slv.pending.filter (fun x => x != q) ∧ t.slv.run = s.slv.run ∧
        t.slv.outs = s.slv.outs ++ [⟨q, 0, none, 0, stDeadlineMiss, some (SlvRun.start q, [stDeadlineMiss], 0)⟩])) ∧
    (∀ o0 rest, s.slv.outs = o0 :: rest → o0.job.slot < 8 → s.diag.halted.contains 2 = false →
      let j := o0.job.slot
      let counted := fun (o : SlvOut) (st : Nat) (t : State) => t.slv.outs = rest ∧ t.slv.run = s.slv.run ∧ t.slv.pending = s.slv.pending ∧
        t.reg Reg.SLV_JOB_CNT = (s.reg Reg.SLV_JOB_CNT + 1) % 2 ^ 32 ∧
        t.reg (Reg.SLV_JOB_STAT j) = (s.reg (Reg.SLV_JOB_STAT j) % 2 ^ 32 + 1) % 2 ^ 32 + st * 2 ^ 32 + o.iter * 2 ^ 40 ∧
        (st ≠ stDone → t.reg Reg.SLV_LASTERR = s.frameLo * 2 ^ 32 + j * 2 ^ 16 + st) ∧
        ((s.slvSlot j).stopping = true ∨ s.slvPeriod j = 0 → t.reg (Reg.SLV_JOB_CTRL j) = 0)
      let open' := fun (p a n : Nat) => s.mayGo .solver p .w a n = true ∧ ∀ k m, k + m ≤ n → 0 < m → s.admits .solver (some p) .w (a + k) m = true
      let written := fun (o : SlvOut) (t : State) => ∀ a l, o.record = some (a, l) → counted o o.status t ∧ t.bytes a l.length = l ∧ MemBut a l.length s t
      (∀ a l, o0.prev = none → o0.record = some (a, l) → 12 ≤ l.length → s.mayGo .solver o0.part .w a l.length = true →
        ((∀ k m, k + m ≤ l.length → 0 < m → s.admits .solver (some o0.part) .w (a + k) m = true) → Answers .solverRecordWrite s (written o0)) ∧
        (s.admits .solver (some o0.part) .w a l.length = false → Answers .solverRecordWrite s (fun t => t.mem = s.mem ∧
          counted o0 (if o0.status = stTierFault ∨ o0.status = stTierLate then o0.status else stBadArg) t))) ∧
      (∀ r causes f, o0.prev = some (r, causes, f) → r.job = o0.job → r.desc ≠ [] → jdLimits r.desc = true → baLimits r.desc r.ins = true → r.loaded = true →
        fresh → prevPlain r.desc → open' (jdPart r.desc) (jdSol r.desc (r.job.n % 2).toNat) (slvRecord r causes f 0 0 r.x0).length →
        ((prev r.desc = none ∨ ∃ b h, prev r.desc = some (b, h) ∧ headerSig h ≠ jobSig r.desc r.ins) → Answers .solverRecordWrite s (fun t =>
          ∃ rho, (∀ v, r.rho0 = some v → rho = v) ∧ written (slvOutOf r causes (f ||| fNoPrev) rho 0 r.x0) t)) ∧
        (∀ b h, prev r.desc = some (b, h) → headerSig h = jobSig r.desc r.ins → plain (jdPart r.desc) (b + 64) (jdVecLen r.desc) →
          let y := s.prevVec r h (s.bytes (b + 64) (jdVecLen r.desc))
          y.1.length = r.x0.length →
          Answers .solverRecordWrite s (written (slvOutOf r causes (f ||| y.2 ||| fPrevious) (fieldLE h 0x10 8) 0 y.1)))))


/-- A planning cycle pins the published grid, checks its stop trajectory, bins its eligible candidates, selects the cheapest that passes, rechecks it on an urgent grid,
gives the stop trajectory at its deadline, and writes its record, raising doubt on IMMINENT (11 R295, R297, R298, R305 to R313; log entry 38). -/
def Obligations.ThePlannerChecksSelectsAndReports : Prop :=
  ∀ (s : State), s.canonical = true → s.mainClk = true → s.diag.halted.contains 3 = false →
    let part := s.plnPart
    let pub := s.reg Reg.PLN_PUB_ADDR % 2 ^ 48
    let pinAt := s.reg Reg.PLN_PIN_ADDR % 2 ^ 48
    let pins := fun (ver buf : Nat) (on : Bool) (t : State) => s.admits .planner (some part) .s pinAt 8 = true →
      s.pathOpen .planner (pathRows .planner (regionOf pinAt) false) = true → (∀ x ∈ s.mig.posts, x.init ≠ .planner) →
      t.cells = (s.cellOp pinAt (.set (BitVec.ofNat 64 (ver + buf * 2 ^ 32 + b2n on * 2 ^ 33)))).cells
    let clean := fun (ok : Nat → Bool) => s.poison.filter ok = []
    let fresh := ∀ x ∈ s.mig.inbox, x.client ≠ clientOf .planner
    let cell := fun (a : Nat) => s.admits .planner (some part) .s a 8 = true ∧ s.owns .planner (pathRows .planner (regionOf a) true) = true ∧ s.poisoned a 8 = false
    let v := s.cellAt pub
    (∀ n, n = s.pln.n → s.plnEn = true → s.pln.stopping = false → s.pln.run = none → s.reached (s.plnStart n) = true → fresh →
      let q := PlanRun.fresh n (s.plnStart n) (s.plnStart n + (s.reg Reg.PLN_BUDGET : Int))
      (cell pub → Answers .planCycleStart s (fun t => pins (v % 2 ^ 32) (bits v 32 32) true t ∧ t.pln = { s.pln with
        n := n + 1
        run := some { q with
          named := true
          pinned := true
          ver := v % 2 ^ 32
          buf := bits v 32 32
          valid := bit v 63 } })) ∧
      (s.admits .planner (some part) .s pub 8 = false → Answers .planCycleStart s (fun t => ∃ ver, t.pln = { s.pln with
        n := n + 1
        run := some { q with
          named := true
          ver := ver
          causes := [stBadArg] } }))) ∧
    (∀ r, s.pln.run = some r →
      let at' := fun (q : PlanRun) (t : State) => t.pln = { s.pln with run := some q }
      let words := fun (wps : List (List Nat)) => clean (fun w => (s.trajWords r wps).contains w)
      let out := r.causes.contains stPlanTimeout || r.causes.contains stImminent
      (s.reached r.deadline = false →
        (r.stage = 1 → r.named = true → r.pinned = true → fresh →
          let a := hubBase + s.reg Reg.PLN_GHDR_BASE + 128 * r.buf
          s.admits .planner (some part) .r a 128 = true → regionOf a = .hub → s.mayGo .planner part .r a 128 = true → s.poisoned a 128 = false →
          let h := s.bytes a 128
          let np := s.noPose (gTmap h) r.start
          let bad := s.gridBad r h || np
          let t := s.plannerCycle
          t.reg Reg.PLN_MAPBAD_CNT = (s.reg Reg.PLN_MAPBAD_CNT + (if bad = true ∧ bit r.flags pfMapBad = false then 1 else 0)) % 2 ^ 32 ∧
            ∃ q, at' q t ∧ q.stage = 2 ∧ q.hdr = h ∧ q.full = bad ∧ bit q.flags pfNoPose = (np || bit r.flags pfNoPose) ∧
              bit q.flags pfMapBad = (bad || bit r.flags pfMapBad) ∧ q.stop = (s.planStop { r with hdr := h }).stop ∧ q.p0 = (s.planStop { r with hdr := h }).p0) ∧
        (r.stage = 2 → r.preDone = false → s.gridPath = true → s.trajRefused r 64 = false → words r.stop → Answers .planPrecheckEnd s (fun t => t.mem = s.mem ∧ at' { r with
          preDone := true
          stopOk := some (s.trajPasses r r.stop)
          stopVer := some r.ver
          stopFirst := s.trajPasses r r.stop } t)) ∧
        (r.stage = 2 → r.prepDone = false → s.mayGo .planner part .r (s.candBase r.n) 8 = true → fresh → cell (s.reg Reg.PLN_READY_ADDR % 2 ^ 48) →
          let x := s.cellAt (s.reg Reg.PLN_READY_ADDR % 2 ^ 48)
          let base := s.candBase r.n
          let notReady := fun (t : State) => at' { r with
            prepDone := true
            flags := putBit r.flags pfNotReady true } t ∧ t.mem = s.mem
          let n := s.loadLE base 2
          let size := 0x40 + 1040 * n
          (x < s.reg Reg.PLN_READY_THR → Answers .planPrepEnd s notReady) ∧
          (s.reg Reg.PLN_READY_THR ≤ x → (∀ k m, k + m ≤ max 0x40 size → 0 < m → s.admits .planner (some part) .r (base + k) m = true ∧
              regionOf (base + k) = regionOf base) → (regionOf base = .hub ∨ ∃ i, regionOf base = .lake i) → s.poisoned base (max 0x40 size) = false →
            (s.loadLE (base + 4) 4 ≠ ofInt 32 r.n → Answers .planPrepEnd s notReady) ∧
            (s.loadLE (base + 4) 4 = ofInt 32 r.n → 1 ≤ n → n ≤ 4096 →
              let entry := fun (i : Nat) => let h := s.bytes (base + 0x40 + 1040 * i) 16
                let k := fieldLE h 4 1
                if k < 1 ∨ 64 < k ∨ costOk (fieldLE h 0 4) = false then none
                else some (⟨i, fieldLE h 0 4, (List.range k).map (fun j => (List.range 4).map (fun e =>
                  s.loadLE (base + 0x40 + 1040 * i + 16 + 16 * j + 4 * e) 4))⟩ : PlanCand)
              Answers .planPrepEnd s (fun t => t.mem = s.mem ∧ at' { r with
                prepDone := true
                count := n
                cands := ((List.range n).drop 1).filterMap entry } t)))) ∧
        (r.stage = 2 → r.preDone = true → r.prepDone = true → Answers .planSweepStart s (fun t => at' { r with
          stage := 3
          since := s.fclk
          layers := (List.range 64).map (s.layerCost r) } t ∧ Only [.pln] s t)) ∧
        (r.stage = 3 → s.gridPath = true → r.full = false → (∀ l, l < 64 → s.layerOk r.buf l = true) →
          clean (fun w => decide (layerBase r.buf 0 ≤ w) && decide (w < layerBase r.buf 64)) →
          let ok := r.cands.filter (fun c => s.trajPasses r c.wps)
          let q := { r with
            passed := ok.map (fun (c : PlanCand) => c.i)
            sel := planReduce ok
            selVer := r.ver }
          Answers .planSweepEnd s (fun t => at' { q with stage := 4 } t ∧ t.mem = s.mem)) ∧
        (r.stage = 4 → fresh → cell pub →
          let urgent := bit v 63 && bit v 33 && v % 2 ^ 32 != r.ver
          let t := s.plannerCycle
          (urgent = false → at' { r with stage := 6 } t) ∧
          (urgent = true → t.reg Reg.PLN_STALE_CNT = (s.reg Reg.PLN_STALE_CNT + 1) % 2 ^ 32 ∧ at' { r with
            stage := 5
            named := true
            pinned := true
            ver := v % 2 ^ 32
            buf := bits v 32 32
            valid := true
            hdrWait := true
            flags := putBit r.flags pfStale true } t)) ∧
        (r.stage = 5 → r.hdrWait = false → s.gridPath = true → r.sel = 0 → s.trajRefused r 64 = false → words r.stop → Answers .planRecheckEnd s (at' { r with
          stage := 6
          stopOk := some (s.trajPasses r r.stop)
          stopVer := some r.ver })) ∧
        (r.stage = 5 → r.hdrWait = false → s.gridPath = true → r.sel ≠ 0 → s.trajRefused r r.selWps.length = false → words r.selWps →
          (s.trajPasses r r.selWps = true → Answers .planRecheckEnd s (at' { r with
            stage := 6
            causes := stStaleMap :: r.causes
            selVer := r.ver })) ∧
          (s.trajPasses r r.selWps = false → Answers .planRecheckEnd s (fun t => ∃ q, at' q t ∧ q.stage = 6 ∧ q.sel = 0 ∧
            bit q.flags pfRecheckFail = true ∧ q.stopVer = some r.ver)))) ∧
      (s.reached r.deadline = true → r.stage ≠ 6 →
        let cause := if r.stopOk = some true then stPlanTimeout else stImminent
        Answers .planDeadline s (fun t => (r.pinned = true → pins r.ver r.buf false t) ∧
          (r.stage ≠ 1 → at' { r with
            stage := 6
            sel := 0
            pinned := false
            causes := cause :: r.causes } t) ∧
          (r.stage = 1 → ∃ q, at' q t ∧ q.n = r.n ∧ q.start = r.start ∧ q.stage = 6 ∧ q.sel = 0 ∧ q.pinned = false ∧ q.causes = cause :: r.causes ∧ q.stop.length = 64))) ∧
      (r.stage = 6 → r.p0.length = 4 →
        let addr := s.reg Reg.PLN_RES_ADDR % 2 ^ 48 + 2048 * (r.n % 2).toNat
        let st := planStatusOf (if r.sel ≠ 0 ∨ out = true then r.causes else if r.stopOk = some true then
          (if bit r.flags pfNotReady then stPlanTimeout else stNoPath) :: r.causes else stImminent :: r.causes)
        s.mayGo .planner part .w addr 1600 = true → (∀ k m, k + m ≤ 1600 → 0 < m → s.admits .planner (some part) .w (addr + k) m = true) →
        Answers .planRecordWrite s (fun t => t.pln = { s.pln with run := none, stopping := false } ∧ MemBut addr 1600 s t ∧
          (∀ l, l = t.bytes addr 1600 →
            fieldLE l 0 8 = ofInt 64 r.start ∧ fieldLE l 8 4 = ofInt 32 r.n ∧ fieldLE l 0xC 1 = st ∧ fieldLE l 0xD 1 = r.selWps.length % 256 ∧
            fieldLE l 0x10 2 = r.sel % 65536 ∧ fieldLE l 0x12 2 = r.count % 65536 ∧ fieldLE l 0x14 2 = r.passed.length % 65536) ∧
          t.reg Reg.PLN_CYCLE_CNT = (s.reg Reg.PLN_CYCLE_CNT + 1) % 2 ^ 32 ∧
          (st = stImminent → s.Doubted 0x8E t ∧ t.reg Reg.PLN_IMMINENT_CNT = (s.reg Reg.PLN_IMMINENT_CNT + 1) % 2 ^ 32) ∧
          (st = stNoPath → t.reg Reg.PLN_NOPATH_CNT = (s.reg Reg.PLN_NOPATH_CNT + 1) % 2 ^ 32) ∧
          (st = stPlanTimeout → t.reg Reg.PLN_TIMEOUT_CNT = (s.reg Reg.PLN_TIMEOUT_CNT + 1) % 2 ^ 32) ∧
          (s.pln.stopping = true → t.reg Reg.PLN_CTRL = 0))))


/-- Axis commands act at once or at the next tick; RUN starts and stops ticks; a tick takes the pending swap, commands and table entries and evaluates the segments, and writes
of its first cycle still count; a group computes the words of its port under the control law, faulting an axis whose drive reports it (12 R315, R316, R319 to R325; log entry 39 for DISABLE in every state). -/
def Obligations.TicksAndGroupsDriveTheAxes : Prop :=
  ∀ (s : State), s.canonical = true → s.mainClk = true → s.lp.axes.length = 64 → s.lp.ports.length = 8 →
    let only := fun (l : Loop) (t : State) => t.lp = l ∧ Only [.lp] s t
    let axisIs := fun (a : Nat) (x : LoopAxis) => only { s.lp with axes := listSet s.lp.axes a x }
    let fresh := s.loopRunning = true ∧ s.lp.half = 0 ∧ s.lclk = s.lp.start
    let rests := s.loopRunning = false ∧ s.lp.half = 8
    let takes := fun (k : Int) (cmds : Nat → LoopAxis) (bank : Bool) (writes : List (Nat × Nat)) (t : State) =>
      let b := if bank then s.staging else s.lp.active
      t.lp = { s.lp with
        active := b
        bank := if bank then 1 - s.lp.bank else s.lp.bank
        swap := false
        table := writes.foldl (fun m e => mapSet 0 m e.1 e.2) s.lp.table
        writes := []
        axes := (List.range 64).map (fun i => (cmds i).atTick b (b.segs.getD i [0, 0, 0, 0, 0, 0]) (s.loopT k))
        par := (List.range 64).map s.axisPar
        srv := (List.range 8).map (fun p => s.reg (Reg.SRV_CFG p))
        period := s.loopPeriod
        k := t.lp.k
        first := t.lp.first
        start := t.lp.start
        half := t.lp.half
        slip := t.lp.slip
        counted := t.lp.counted }
    let sameTick := fun (t : State) => t.lp.k = s.lp.k ∧ t.lp.first = s.lp.first ∧ t.lp.start = s.lp.start ∧ t.lp.half = s.lp.half ∧ t.lp.slip = s.lp.slip ∧
      t.lp.counted = s.lp.counted
    (∀ a : Fin 64, let x := s.axis a
      (∀ c ∈ [(Instr.axisEnable a, 1, decide (x.settled.st = 0) && s.srvEn (a / 8)), (.axisDisable a, 2, true), (.axisClear a, 3, decide (x.settled.st ≠ 1))],
        (c.2.2 = true → s.loopRunning = true ∨ s.lp.half < 8 → ¬fresh → Answers c.1 s (axisIs a { x with cmds := x.cmds ++ [c.2.1] })) ∧
        (c.2.2 = true → fresh → Answers c.1 s (fun t => sameTick t ∧
          takes (s.lp.k - 1) (fun i => if i = a.val then { x with cmds := x.cmds ++ [c.2.1] } else s.axis i) s.lp.swap s.lp.writes t ∧
          (s.lp.swap = false → Only [.lp] s t))) ∧
        (c.2.2 = false → Answers c.1 s (fun t => t = s))) ∧
      (rests → x.settled.st = 0 → s.srvEn (a / 8) = true → Answers (.axisEnable a) s (axisIs a { x with pend := true })) ∧
      (rests → Answers (.axisDisable a) s (axisIs a { x with st := 0, pend := false, timer := 0 })) ∧
      (rests → x.settled.st ≠ 1 → x.st ≠ 0 → Answers (.axisClear a) s (axisIs a { x with
        st := 0
        pend := false
        timer := 0
        cause := 0
        rst := true }))) ∧
    (s.loopRunning = false → Answers (.loopRun true) s (fun t => t.loopRunning = true ∧ t.reg Reg.LOOP_TICK = 0 ∧ t.lp.first = true ∧ t.lp.half = s.lp.half ∧
      t.lp.runT = s.lclk ∧ t.lp.axes = s.lp.axes ∧ RegsBut [Reg.LOOP_CTRL, Reg.LOOP_TICK] s t ∧
      (0 < s.loopPeriod → s.nowNs ≤ t.loopT t.lp.k ∧ t.loopT (t.lp.k - 1) < s.nowNs))) ∧
    (s.loopRunning = true → (s.allDisabled = true → Answers (.loopRun false) s (fun t => t.loopRunning = false ∧ RegsBut [Reg.LOOP_CTRL] s t ∧
        (s.lp.half < 8 → t.lp = s.lp) ∧ (s.lp.half = 8 → t.lp = { s.lp with
          axes := s.lp.axes.map LoopAxis.settled
          table := s.lp.writes.foldl (fun m e => mapSet 0 m e.1 e.2) s.lp.table
          writes := [] }))) ∧
      (s.allDisabled = false → Answers (.loopRun false) s (fun t => t = s))) ∧
    (¬fresh → Answers (.loopSegSwap 1) s (only { s.lp with swap := true })) ∧
    (fresh → Answers (.loopSegSwap 1) s (fun t => sameTick t ∧ takes (s.lp.k - 1) s.axis true s.lp.writes t)) ∧
    (∀ v : BitVec 32, let w := s.reg Reg.LOOP_TBL_ADDR
      let entry := (2048 * bits w 21 16 + 1024 * bits w 10 10 + bits w 9 0, v.toNat)
      ((s.axis (bits w 21 16)).settled.st = 0 → Answers (.loopTblDataWrite v) s (fun t =>
        t.reg Reg.LOOP_TBL_ADDR = putBits w 9 0 ((bits w 9 0 + 1) % 1024) ∧ (¬fresh → RegsBut [Reg.LOOP_TBL_ADDR] s t) ∧
        (s.loopRunning = true ∨ s.lp.half < 8 → ¬fresh → t.lp = { s.lp with writes := s.lp.writes ++ [entry] }) ∧
        (rests → s.lp.writes = [] → (∀ x ∈ s.lp.axes, x.cmds = []) → t.lp = { s.lp with table := mapSet 0 s.lp.table entry.1 entry.2 }) ∧
        (fresh → sameTick t ∧ takes (s.lp.k - 1) s.axis s.lp.swap (s.lp.writes ++ [entry]) t))) ∧
      ((s.axis (bits w 21 16)).settled.st ≠ 0 → Answers (.loopTblDataWrite v) s (fun t => t.lp = s.lp ∧ bit (t.reg Reg.LOOP_ERR) errState = true ∧
        RegsBut [Reg.LOOP_ERR] s t))) ∧
    (s.loopRunning = true → s.lp.half = 8 → s.nextTick ≤ (s.lclk : Int) →
      let slip := s.nextTick != s.lclkOf (s.loopT s.lp.k)
      Answers .loopTick s (fun t => takes s.lp.k s.axis s.lp.swap s.lp.writes t ∧ t.lp.k = s.lp.k + 1 ∧ t.lp.first = false ∧ t.lp.start = s.nextTick.toNat ∧
        t.lp.half = 0 ∧ t.lp.slip = slip ∧ t.lp.counted = false ∧
        t.reg Reg.LOOP_TICK = (s.reg Reg.LOOP_TICK + 1) % 2 ^ 64 ∧ t.reg Reg.LOOP_TICK_T = ofInt 64 s.nowNs ∧
        t.reg Reg.LOOP_SLIP_CNT = (if slip then (s.reg Reg.LOOP_SLIP_CNT + 1) % 2 ^ 32 else s.reg Reg.LOOP_SLIP_CNT) ∧
        (s.lp.swap = true → t.reg Reg.LOOP_SEG_T0 = s.lp.active.t0 ∧ t.reg Reg.LOOP_SEG_LEN = s.lp.active.len) ∧
        (s.lp.swap = false → RegsSide [Reg.LOOP_TICK, Reg.LOOP_TICK_T, Reg.LOOP_SLIP_CNT] s t))) ∧
    (∀ p, p = s.lp.half → p < 8 → s.lp.start + (200 * (p / 2) + 96 * (p % 2)) ≤ s.lclk → s.lp.start < s.lclk →
      (p < 7 ∨ s.loopRunning = true) → (bit (s.lp.srv.getD p 0) 0 = true → (s.lport p).cut = true) →
      let hit := (s.lport p).hit
      let on := fun (a : Nat) => (s.axis a).st = 0 ∧ (s.axis a).pend = true ∧ a / 8 = p ∧ hit = true ∧ bit (s.lp.srv.getD p 0) 0 = true
      let stale := s.lp.counted = false ∧ ∃ a, a < 64 ∧ ((s.axis a).st = 1 ∨ on a) ∧ (s.axis a).stale = true
      Answers .loopGroupStart s (fun t => t.lp.half = p + 1 ∧ (stale → t.lp.counted = true ∧
          t.reg Reg.LOOP_STALE_CNT = (s.reg Reg.LOOP_STALE_CNT + 1) % 2 ^ 32) ∧
        (¬stale → t.lp.counted = s.lp.counted ∧ t.reg Reg.LOOP_STALE_CNT = s.reg Reg.LOOP_STALE_CNT) ∧ (∀ q, q ≠ p → t.lport q = s.lport q) ∧ (∀ a, a / 8 ≠ p → t.axis a = s.axis a) ∧
        t.lport p = { s.lport p with
          cut := false
          made := bit (s.lp.srv.getD p 0) 0
          due := s.lp.start + (200 * (p / 2) + 96 * (p % 2)) + 104
          cfg := s.lp.srv.getD p 0
          madeSeq := ofInt 16 (s.lp.k - 1) } ∧
        ∀ a, a / 8 = p → s.lp.bad.any (fun e => e.1 == a) = false →
          let x := { s.axis a with miss := !hit }
          let par := s.lp.par.getD a []
          let starts := on a
          let y := if x.st = 0 then { x with
            st := 1
            pend := false
            posPrev := x.fb % 2 ^ 32
            vf := 0
            iv := 0
            timer := 0
            cause := 0 } else x
          let o := s.law a par y.refs y hit
          let far := flt (fofInt (par.getD 11 0 : Nat)) (fabs o.ep)
          let timer := if hit then (if far then y.timer + 1 else 0) else y.timer
          (x.st ≠ 1 → x.st ≠ 2 → ¬starts → t.axis a = x.produce (if x.rst then 2 ^ 34 else 0)) ∧
          (starts ∨ x.st = 1 ∨ x.st = 2 → hit = true → bit x.fb 50 = true → (t.axis a).st = 3 ∧ (t.axis a).cause = 2 ∧ (t.axis a).held = some 0) ∧
          (starts ∨ x.st = 1 ∨ x.st = 2 → hit = true → bit x.fb 50 = false → bit x.fb 52 = true → (t.axis a).st = 3 ∧ (t.axis a).cause = 3 ∧ (t.axis a).held = some 0) ∧
          (starts ∨ x.st = 1 → (hit = true → bit x.fb 50 = false ∧ bit x.fb 52 = false) → ¬(hit = true ∧ far = true ∧ bits (par.getD 12 0) 31 16 ≤ timer) →
            (isFinite32 o.iu = true → t.axis a = LoopAxis.produce { y with
              timer := timer
              vf := o.vf.toNat
              iv := o.iv.toNat
              ep := o.ep.toNat
              sat := o.sat
              posPrev := y.fb % 2 ^ 32 } (o.iq.toNat + 3 * 2 ^ 32)) ∧
            (isFinite32 o.iu = false → (t.axis a).st = 3 ∧ (t.axis a).cause = 5 ∧ (t.axis a).held = some 0)) ∧
          (starts ∨ x.st = 1 → hit = true → bit x.fb 50 = false → bit x.fb 52 = false → far = true → bits (par.getD 12 0) 31 16 ≤ timer →
            let still := s.law a par [x.fb % 2 ^ 32, 0, 0, 0] y hit
            (bit (par.getD 12 0) 9 = false → (t.axis a).st = 3 ∧ (t.axis a).cause = 1 ∧ (t.axis a).held = some 0) ∧
            (bit (par.getD 12 0) 9 = true → isFinite32 still.iu = true → (t.axis a).st = 2 ∧ (t.axis a).cause = 1 ∧ (t.axis a).hold = x.fb % 2 ^ 32 ∧
              (t.axis a).held = some (still.iq.toNat + 3 * 2 ^ 32))) ∧
          (x.st = 2 → (hit = true → bit x.fb 50 = false ∧ bit x.fb 52 = false) →
            let still := s.law a par [x.hold, 0, 0, 0] x hit
            isFinite32 still.iu = true → (t.axis a).st = 2 ∧ (t.axis a).held = some (still.iq.toNat + 3 * 2 ^ 32))))

/-- A due command frame carries the released words with TYPE, SEQ and CRC; a feedback frame is taken or counted by its first failed check, and the executor takes it without the main
complex's clocks too; a cutoff with feedback
feeds the axes, one without counts a miss and after MISS_MAX faults the driven axes; alignment and its loss (12 R317, R327 to R333). -/
def Obligations.ServoFramesCarryWordsAndFeedback : Prop :=
  ∀ (s : State) (p : Fin 8), s.canonical = true → s.mainClk = true → s.lp.axes.length = 64 → s.lp.ports.length = 8 →
    let x := s.lport p
    let port := fun (y : LoopPort) => { s.lp with ports := listSet s.lp.ports p y }
    let counts := fun (k : Nat) (t : State) => t.reg k = (s.reg k + 1) % 2 ^ 32 ∧ RegsBut [k] s t ∧ t.lp = s.lp
    (x.made = true → x.due ≤ s.lclk → (∀ j, j < 8 → (s.axis (8 * p.val + j)).held = none) →
      let words := (List.range 8).map (fun j => (s.axis (8 * p.val + j)).word)
      let body := toLE 1 0xC1 ++ toLE 1 0 ++ toLE 2 x.madeSeq ++ toLE 2 (bits x.cfg 31 16) ++ (words.map (toLE 8)).flatten
      Answers (.servoCommandFrame p) s (fun t => Only [.lp, .fbx] s t ∧ t.lp = port { x with
          made := false
          seq := x.madeSeq
          sof := some s.lclk
          sent := body ++ toLE 4 (crc32c body) } ∧
        (s.fbx.swPorts.contains p.val = false → t.fbx.swPorts = s.fbx.swPorts ∧
          ∀ j, j < 8 → (8 * p.val + j ∈ t.fbx.mainEn ↔ bit (s.axis (8 * p.val + j)).word 32 = true)) ∧
        (s.fbx.swPorts.contains p.val = true → s.auth ≠ .main → t.fbx = s.fbx) ∧
        (s.fbx.swPorts.contains p.val = true → s.auth = .main → mapGet 0 s.fbx.txT p.val + 122 ≤ s.rclk → p.val ∉ t.fbx.swPorts))) ∧
    (∀ (bad : Bool) (f : List Byte), x.up = true →
      let ws := (List.range 8).map (fun j => fieldLE f (6 + 8 * j) 8)
      let sound := bad = false ∧ f.length = 74 ∧ fieldLE f 0 1 = 0xD1 ∧ fieldLE f 70 4 = crc32c (f.take 70)
      let taken := fun (t : State) => p.val ∈ t.fbx.fbSeen ∧ ∀ j, j < 8 → mapGet 0 t.fbx.fbPos (8 * p.val + j) = ws.getD j 0 % 2 ^ 32
      (bad = true → Answers (.servoFeedbackFrame p bad f) s (counts (Reg.SRV_CODE_CNT p))) ∧
      (bad = false → f.length ≠ 74 ∨ fieldLE f 0 1 ≠ 0xD1 → Answers (.servoFeedbackFrame p bad f) s (counts (Reg.SRV_FMT_CNT p))) ∧
      (bad = false → f.length = 74 → fieldLE f 0 1 = 0xD1 → fieldLE f 70 4 ≠ crc32c (f.take 70) →
        Answers (.servoFeedbackFrame p bad f) s (counts (Reg.SRV_CRC_CNT p))) ∧
      (sound → x.sof = none ∨ fieldLE f 2 2 ≠ x.seq → Answers (.servoFeedbackFrame p bad f) s (fun t => counts (Reg.SRV_STALE_CNT p) t ∧
        (mapWf 0 s.fbx.fbPos = true → taken t))) ∧
      (∀ t0, sound → x.sof = some t0 → fieldLE f 2 2 = x.seq →
        (x.cut = true ∨ x.made = true → Answers (.servoFeedbackFrame p bad f) s (counts (Reg.SRV_LATE_CNT p))) ∧
        (x.cut = false → x.made = false → Answers (.servoFeedbackFrame p bad f) s (fun t => t.lp = port { x with got := some ws } ∧
          t.reg (Reg.SRV_RTT_LAST p) = s.lclk - t0 ∧ t.reg (Reg.SRV_RTT_MAX p) = max (s.lclk - t0) (s.reg (Reg.SRV_RTT_MAX p)) ∧
          RegsBut [Reg.SRV_RTT_LAST p, Reg.SRV_RTT_MAX p] s t ∧ (mapWf 0 s.fbx.fbPos = true → taken t))))) ∧
    (∀ (f : List Byte) (u : State), u = { s with mainClk := false } → f.length = 74 → fieldLE f 0 1 = 0xD1 → fieldLE f 70 4 = crc32c (f.take 70) →
      Answers (.servoFeedbackFrame p false f) u (fun t => Only [.fbx] u t ∧ p.val ∈ t.fbx.fbSeen)) ∧
    let cfg := if s.lp.half < 8 then s.lp.srv.getD p 0 else s.reg (Reg.SRV_CFG p)
    (∀ c, s.cutoffAt p = some c → bit cfg 0 = true → x.cut = false → c < (s.lclk : Int) →
      (∀ ws, x.got = some ws → Answers (.feedbackCutoff p) s (fun t => Only [.lp] s t ∧ t.lport p = { x with
          cut := true
          hit := true
          misses := 0
          lost := false
          got := none } ∧
        ∀ a, t.axis a = if a / 8 = p.val then { s.axis a with fb := ws.getD (a % 8) 0 } else s.axis a)) ∧
      (x.got = none →
        let n := min 15 (x.misses + 1)
        let gone := decide (bits cfg 4 1 ≤ n)
        Answers (.feedbackCutoff p) s (fun t => t.reg (Reg.SRV_MISS_CNT p) = (s.reg (Reg.SRV_MISS_CNT p) + 1) % 2 ^ 32 ∧ t.lport p = { x with
            cut := true
            hit := false
            misses := n
            lost := x.lost || gone } ∧
          ∀ a, t.axis a = if a / 8 = p.val ∧ gone = true ∧ x.lost = false ∧ ((s.axis a).st = 1 ∨ (s.axis a).st = 2) then { s.axis a with
            st := 3
            cause := 4
            sat := false } else s.axis a))) ∧
    Answers (.servoLinkAlign p) s (fun t => t.lp = port { x with up := true } ∧ Only [.lp] s t) ∧
    (x.up = true → Answers (.servoLinkDown p) s (fun t => t.lp = port { x with up := false } ∧
      t.reg (Reg.SRV_DOWN_CNT p) = (s.reg (Reg.SRV_DOWN_CNT p) + 1) % 2 ^ 32 ∧ RegsBut [Reg.SRV_DOWN_CNT p] s t))


/-- A measurement is recorded, and with the servo on discarded or fed to it; a rate change keeps device time in its cycle and a step adds to it; LOCKED, HOLDOVER and FREE follow
accepted measurements and timeouts; a forward step skips instants (13 R336, R337, R339 to R343; log entry 43). -/
def Obligations.TheTimebaseServesAndSteps : Prop :=
  ∀ (s : State), s.canonical = true → s.mainClk = true →
    let c := s.tb.count
    let steps := fun (k : Nat) (t : State) => t.reg k = (s.reg k + 1) % 2 ^ 32
    let clamp := fun (x : Int) => max (-(s.reg Reg.TB_RATE_MAX : Int)) (min x (s.reg Reg.TB_RATE_MAX : Int))
    let keeps := fun (c0 : Nat) (r : Int) (t : State) => t.tb.rate = r ∧
      (t.tb.ofs + (c0 * r) / (2 ^ 22 : Nat)) % (2 ^ 80 : Nat) = (s.tb.ofs + (c0 * s.tb.rate) / (2 ^ 22 : Nat)) % (2 ^ 80 : Nat)
    (∀ w : BitVec 64, let theta := w.toInt
      let out := decide (s.tb.stepAt = some c) || decide (s.reg Reg.TB_OUTLIER * 65536 < theta.natAbs)
      let near := decide (theta.natAbs ≤ bits (s.reg Reg.TB_LOCK) 15 0 * 65536)
      let i := clamp (s.tb.integ + (s.reg Reg.TB_KI * theta) / (2 ^ 24 : Nat))
      (s.servoEn = false → Answers (.tbMeasWrite w) s (fun t => t.reg Reg.TB_LAST_MEAS = w.toNat ∧ RegsBut [Reg.TB_LAST_MEAS] s t ∧ Only [.regs] s t)) ∧
      (s.servoEn = true → out = true →
        let holds := s.tb.st = 1 ∧ bits (s.reg Reg.TB_LOCK) 31 24 ≤ s.tb.outRun + 1
        Answers (.tbMeasWrite w) s (fun t => t.reg Reg.TB_LAST_MEAS = w.toNat ∧ steps Reg.TB_OUTLIER_CNT t ∧ t.tb.outRun = s.tb.outRun + 1 ∧
          t.tb.integ = s.tb.integ ∧ t.tb.lastAcc = s.tb.lastAcc ∧
          (holds → t.tb.st = 2 ∧ steps Reg.TB_HOLD_CNT t ∧ t.tb.pendRate = s.tb.pendRate ++ [(c + 8, s.tb.integ)]) ∧
          (¬holds → t.tb = { s.tb with outRun := s.tb.outRun + 1 }))) ∧
      (s.servoEn = true → out = false → Answers (.tbMeasWrite w) s (fun t => t.reg Reg.TB_LAST_MEAS = w.toNat ∧ steps Reg.TB_MEAS_CNT t ∧
        t.tb = { s.tb with
          outRun := 0
          inRange := near
          lockRun := if near then s.tb.lockRun + 1 else 0
          lastAcc := c
          accInHold := s.tb.st == 2
          integ := i
          pendRate := s.tb.pendRate ++ [(c + 8, clamp (i + (s.reg Reg.TB_KP * theta) / (2 ^ 24 : Nat)))]
          st := if near = true ∧ bits (s.reg Reg.TB_LOCK) 23 16 ≤ s.tb.lockRun + 1 then 1 else s.tb.st }))) ∧
    (∀ c0 r rest, s.tb.pendRate = (c0, r) :: rest → c0 ≤ c → Answers .tbRateApply s (fun t => keeps c0 r t ∧ t.tb.pendRate = rest ∧ t.tb.count = c ∧ Only [.tb] s t)) ∧
    (∀ w : BitVec 32, (s.servoEn = true → Answers (.tbRateWrite w) s (fun t => bit (t.reg Reg.TB_ERR) errState = true ∧ RegsBut [Reg.TB_ERR] s t ∧ Only [.regs] s t)) ∧
      (s.servoEn = false → Answers (.tbRateWrite w) s (fun t => Only [.tb] s t ∧ (s.tick % 32 < 8 → keeps c w.toInt t) ∧
        (8 ≤ s.tick % 32 → t.tb = { s.tb with fwRate := some w.toInt })))) ∧
    (∀ w : BitVec 64, let z := w.toInt
      let u := s.stepTime z
      let j := fun (t0 p : Int) => if t0 ≤ u.nowNs then ((u.nowNs - t0) / max 1 p).toNat else 0
      (8 ≤ s.tick % 32 → Answers (.tbStep w) s (fun t => Only [.tb] s t ∧ t.tb = { s.tb with fwSteps := s.tb.fwSteps ++ [z] })) ∧
      (s.tick % 32 < 8 → Answers (.tbStep w) s (fun t => t.tb.ofs % (2 ^ 80 : Nat) = (s.tb.ofs + z * 65536) % (2 ^ 80 : Nat) ∧ t.tb.stepAt = some c ∧ t.tb.rate = s.tb.rate ∧
        steps Reg.TB_STEP_CNT t ∧ (z ≤ 0 → Only [.regs, .tb] s t ∧ RegsBut [Reg.TB_STEP_CNT] s t) ∧
        (0 < z → t.pln = { s.pln with n := if s.plnEn then s.pln.n + j (s.plnStart s.pln.n) (s.reg Reg.PLN_PERIOD : Nat) else s.pln.n } ∧
          t.fus.tick = (if bit (s.reg Reg.FUS_EGO_CFG) 0 then s.fus.tick + j (s.fus.tick * 500000) 500000 else s.fus.tick))))) ∧
    (s.servoEn = false → Answers (.tbServoEnable true) s (fun t => t.servoEn = true ∧ t.tb = { s.tb with integ := s.tb.rate, lockRun := 0, outRun := 0 } ∧
      RegsBut [Reg.TB_CTRL] s t)) ∧
    (s.servoEn = true → Answers (.tbServoEnable false) s (fun t => t.servoEn = false ∧ t.tb = { s.tb with st := 0, lockRun := 0 } ∧ RegsSide [Reg.TB_CTRL] s t)) ∧
    (s.tb.lastAcc + s.reg Reg.TB_MEAS_TO * 250000 ≤ c →
      (s.tb.st = 1 → Answers .tbMeasTimeout s (fun t => t.tb.st = 2 ∧ steps Reg.TB_HOLD_CNT t ∧ t.tb.pendRate = s.tb.pendRate ++ [(c, s.tb.integ)] ∧ t.tb.holdEntry = c)) ∧
      (s.tb.st = 2 → s.tb.accInHold = true → Answers .tbMeasTimeout s (fun t => Only [.tb] s t ∧ t.tb = { s.tb with
        accInHold := false
        pendRate := s.tb.pendRate ++ [(c, s.tb.integ)] }))) ∧
    (s.tb.st = 2 → s.tb.holdEntry + s.reg Reg.TB_HOLD_MAX * 250000 ≤ c → Answers .tbHoldoverExpiry s (fun t => t.tb = { s.tb with st := 0 } ∧
      steps Reg.TB_EXPIRE_CNT t ∧ s.Doubted 0x8D t)) ∧
    Answers .tbNowRead s (fun t => t.rdata = [ofInt 64 s.nowNs] ∧ t.tb = { s.tb with fracLatch := s.nowFrac } ∧ Only [.rdata, .tb] s t)

/-- A PTP event message goes to firmware; doorbells are read; an announced frame is fetched; the eligible frame of the highest queue starts, is dropped or is marked late; its
end tells descriptor and cell; a gate list waits for its first cycle (13 R346 to R351). -/
def Obligations.TsnPortsQueueSendAndGate : Prop :=
  ∀ (s : State) (m : Fin 4), s.canonical = true → s.mainClk = true → (∀ p ∈ s.tsn, p.queues.length = 8) →
    let port := fun (y : TsnPort) (t : State) => t.tsn = listSet s.tsn m y
    let p := s.tport m
    let steps := fun (k : Nat) (t : State) => t.reg k = (s.reg k + 1) % 2 ^ 32
    let still := ∀ q, q < 8 → ∀ f ∈ (s.tqueue m q).buf.head?, f.fixed = none ∧ s.actq m q = false
    let popped := fun (q : Nat) => { p with queues := listModify (fun x => { x with buf := x.buf.drop 1 }) p.queues q }
    let goes := fun (q : Nat) (f : TxFrame) => (∀ x ∈ s.mig.posts, x.init ≠ .ingest) ∧
      ∀ a ∈ [f.desc + 0x0A, f.desc + 0x0C, f.desc + 0x18, bits (s.reg (Reg.TSN_QCPL m q)) 47 0], s.pathOpen .ingest (pathRows .ingest (regionOf a) false) = true
    let tells := fun (q : Nat) (f : TxFrame) (st flags : Nat) (t : State) =>
      goes q f → (s.admits .ingest (some (s.tqPart m q)) .w (f.desc + 0x0A) 2 = true → t.bytes (f.desc + 0x0A) 2 = [BitVec.ofNat 8 flags, BitVec.ofNat 8 st]) ∧
      (∀ cell, cell = s.reg (Reg.TSN_QCPL m q) →
        bit cell 63 = false ∧ s.admits .ingest (some (s.tqPart m q)) .s (bits cell 47 0) 8 = true →
          t.cells = (s.cellOp (bits cell 47 0) (.add (BitVec.ofNat 64 (completionValue st)))).cells)
    (∀ sfd f, s.tpEn m = true → isPtp f = true → Answers (.ptpFrameRx m sfd f) s (fun t => port { p with ptp := some (sfd, f) } t ∧
      steps (Reg.TSN_RX_CNT m) t ∧ steps (Reg.TSN_PTP_CNT m) t ∧ RegsBut [Reg.TSN_RX_CNT m, Reg.TSN_PTP_CNT m] s t)) ∧
    Answers .tsnDoorbellPoll s (fun t => ∀ n q, n < 4 → q < 8 → t.tqueue n q =
      let a := s.reg (Reg.TSN_QDB n q) % 2 ^ 48
      (if s.tqEn n q && s.admits .ingest (some (s.tqPart n q)) .s a 8 && !s.poisoned a 8 && s.owns .ingest (pathRows .ingest (regionOf a) true) &&
          (List.range s.subNow).all (fun j => (pathRows .ingest (regionOf a) true).any (fun r => s.ownerIn j r != 9)) then
        { s.tqueue n q with announced := s.cellAt a % 2 ^ 32 }
      else s.tqueue n q)) ∧
    (∀ q : Fin 8, let x := s.tqueue m q
      let ring := s.reg (Reg.TSN_QRING m q)
      let d := bits ring 47 0 + 32 * (x.fetched % (bits ring 59 48 + 1))
      let l := s.bytes d 32
      let a := fieldLE l 0 8
      let n := fieldLE l 8 2
      let plain := fun (b k : Nat) => regionOf b = .hub ∧ extentRegion b k = .hub ∧ s.admits .ingest (some (s.tqPart m q)) .r b k = true ∧ s.poisoned b k = false
      s.tqEn m q = true → x.announced ≠ x.fetched % 2 ^ 32 → s.tsnMay m q .r d 32 = true → plain d 32 → 60 ≤ n → n ≤ 1518 → plain a n → s.tsnMay m q .r a n = true →
      s.txBytes m + n ≤ 0x40000 → s.actq m q = false → (∀ f ∈ x.buf.head?, f.fixed = none) →
      Answers (.tsnFrameFetch m q) s (fun t => t.mem = s.mem ∧ t.tqueue m q = { x with
          fetched := x.fetched + 1
          buf := x.buf ++ [⟨d, fieldLE l 0x0A 1, s.bytes a n, toInt 64 (fieldLE l 0x10 8), none⟩] } ∧
        t.reg (Reg.TSN_QSTAT m q) = (x.fetched + 1) % 2 ^ 32)) ∧
    (∀ q f, still → s.tpEn m = true → p.sending = none → p.ends = 0 ∨ p.ends + s.wireTicks m 20 ≤ s.tick → s.actq m q = false →
      (List.range 8).reverse.findSome? (fun q => (s.eligible m q).map (fun f => (q, f))) = some (q, f) →
      let late := s.tqLt m q && decide (f.launch + s.tqTol m q < s.nowNs)
      let sends := fun (fl : Nat) (y : TsnPort) => { y with sending := some (q, { f with flags := fl }, s.timeFix), ends := s.tick + s.wireTicks m (f.bytes.length + 4) }
      let drops := fun (t : State) => port (popped q) t ∧ tells q f stDeadlineMiss (f.flags % 128) t ∧
        bits (t.reg (Reg.TSN_QLATE m q)) 15 0 = satAdd 16 (bits (s.reg (Reg.TSN_QLATE m q)) 15 0) 1
      let marks := fun (t : State) => port (sends (f.flags % 128 + 128) (popped q)) t ∧ t.mem = s.mem ∧
        bits (t.reg (Reg.TSN_QLATE m q)) 31 16 = satAdd 16 (bits (s.reg (Reg.TSN_QLATE m q)) 31 16) 1
      (late = false → Answers (.tsnFrameTxStart m) s (fun t => port (sends (f.flags % 128) (popped q)) t ∧ Only [.tsn] s t)) ∧
      (late = true → ∀ q' : Fin 8, q'.val = q → ∀ c ∈ [Instr.tsnFrameTxStart m, .tsnFrameLate m q'],
        Answers c s (if s.tqSend m q then marks else drops))) ∧
    (∀ q f t0, p.sending = some (q, f, t0) → p.ends ≤ s.tick →
      Answers (.tsnFrameTxEnd m) s (fun t => port { p with sending := none } t ∧ steps (Reg.TSN_TX_CNT m) t ∧
        (q = 8 → t.mem = s.mem ∧ t.cells = s.cells) ∧ (q < 8 → tells q f stDone (f.flags % 128 + 128 * b2n (bit f.flags 7)) t ∧
          (goes q f → s.admits .ingest (some (s.tqPart m q)) .w (f.desc + 0x18) 8 = true → fieldLE (t.bytes (f.desc + 0x18) 8) 0 8 = ofInt 64 (t0 / (65536 : Nat)))))) ∧
    (∀ v : BitVec 32, let a := s.reg (Reg.TSN_GCL_ADDR m) % 2 ^ 48
      let cyc := s.reg (Reg.TSN_GCL_CYCLE m)
      let base := toInt 64 (s.reg (Reg.TSN_GCL_BASE m))
      (bit v.toNat 31 = true → 0 < cyc → Answers (.tsnGclEnable m v) s (fun t => t.reg (Reg.TSN_GCL_CFG m) = v.toNat &&& 0x800001FF ∧ ∃ first,
        port { p with pend := some (⟨(List.range (bits v.toNat 8 0)).map (fun i => (bits (s.loadLE (a + 8 * i) 8) 31 0, bits (s.loadLE (a + 8 * i) 8) 39 32)),
          base, cyc⟩, first) } t ∧ max base (s.nowNs + 100000) ≤ first ∧ first - cyc < max base (s.nowNs + 100000) ∧ (first - base) % cyc = 0)) ∧
      (bit v.toNat 31 = false → Answers (.tsnGclEnable m v) s (fun t => t.reg (Reg.TSN_GCL_CFG m) = v.toNat &&& 0x800001FF ∧
        port { p with gcl := none, pend := none } t ∧ RegsBut [Reg.TSN_GCL_CFG m] s t))) ∧
    (∀ g t0, p.pend = some (g, t0) → s.reached t0 = true → Answers (.tsnGclTakeEffect m) s (fun t => port { p with gcl := some g, pend := none } t ∧ Only [.tsn] s t))


/-- A port trains, sends its owner's flits and goes down, losing the members behind it; a received frame is counted or its flit forwarded or buffered; a message lands if
reach, landing range and generation admit it, and is acknowledged; flits, messages, tags and peers age (14 R356, R357, R361 to R363, R365 to R370). -/
def Obligations.LinkPortsCarryAndLandMessages : Prop :=
  ∀ (s : State) (p : Fin 6), s.canonical = true → s.mainClk = true → s.xsl.ports.length = 6 →
    let x := s.port p
    let dev := s.devId
    let port := fun (y : XPort) (t : State) => t.xsl = { s.xsl with ports := listSet s.xsl.ports p y }
    let steps := fun (k n : Nat) (t : State) => t.reg k = (s.reg k + n) % 2 ^ 32
    let gone := fun (d : Nat) => s.routeOf d == some p.val && s.member d && d != dev
    let down := fun (t : State) => (t.port p).st = 0 ∧ (∀ d, d < 64 → t.peerLost d = (s.peerLost d || gone d)) ∧
      (∀ m ∈ t.xsl.msgs, m.dst < 64 → ¬(gone m.dst = true ∧ s.peerLost m.dst = false))
    (bit (s.reg (Reg.XSL_PCFG p)) 0 = false → Answers (.xslPortEnable p true) s (fun t => bit (t.reg (Reg.XSL_PCFG p)) 0 = true ∧ port { x with
        st := 1
        dupId := false
        enAt := s.fclk } t ∧ RegsBut [Reg.XSL_PCFG p] s t)) ∧
    Answers (.xslPortEnable p false) s (fun t => bit (t.reg (Reg.XSL_PCFG p)) 0 = false ∧ (x.st = 2 → down t) ∧ (x.st ≠ 2 → port { x with st := 0 } t)) ∧
    (∀ wire, x.st = 1 → Answers (.xslPortTrained p wire) s (fun t => Only [.xsl] s t ∧ port { x with
        st := 2
        wire := wire % 65536
        lastRx := s.fclk } t)) ∧
    (x.st = 2 → x.lastRx + 1000 ≤ s.fclk → Answers (.xslPortDown p) s down) ∧
    (x.st = 2 → x.sentAt ≠ 1 + s.frt.slotStart + s.subNow → Answers (.xslSlotFrameTx p) s (fun t =>
      let y := t.port p
      let h := [BitVec.ofNat 8 dev, BitVec.ofNat 8 ((s.linkOwner p).getD 0x41), BitVec.ofNat 8 y.sent.length, 0] ++ toLE 4 s.subGlobal ++ toLE 4 (s.reg Reg.FRT_FRAME_CNT)
      y.header = h ++ toLE 4 (crc32c h) ∧ y.sentAt = 1 + s.frt.slotStart + s.subNow ∧ y.sent.length ≤ 23 ∧ steps (Reg.XSL_TXF_CNT p) y.sent.length t ∧ y.inb = x.inb ∧
      (s.linkOwner p = none → y.sent = [] ∧ y.out = x.out ∧ y.fwd = x.fwd ∧ t.xsl.acks = s.xsl.acks) ∧
      (s.linkOwner p = some dev → s.xsl.acks = [] → y.sent = x.out.take 23 ∧ y.out = x.out.drop 23 ∧ y.fwd = x.fwd) ∧
      (∀ o, s.linkOwner p = some o → o ≠ dev → y.sent = (x.fwd.filter (fun f => f.src == o)).take 23 ∧ y.out = x.out))) ∧
    (∀ (bad : Bool) (n : Nat) (frame : List Byte), x.st = 2 →
      let h := frame.take 16
      let sound := bad = false ∧ crc32c (h.take 12) = fieldLE h 0xC 4
      let origin := fieldLE h 0 1 % 64
      let seen := fun (t : State) => (t.port p).lastRx = s.fclk ∧ (t.port p).neighbour = origin ∧ steps (Reg.XSL_CE_CNT p) n t
      (¬sound → Answers (.xslSlotFrameRx p bad n frame) s (fun t => steps (Reg.XSL_UE_CNT p) 1 t ∧ RegsBut [Reg.XSL_UE_CNT p] s t ∧ t.xsl = s.xsl)) ∧
      (sound → origin = dev → Answers (.xslSlotFrameRx p bad n frame) s (fun t => down t ∧ (t.port p).dupId = true)) ∧
      (sound → origin ≠ dev → fieldLE h 2 1 = 1 →
        let flit := parseFlit ((frame.drop 16).take 276) s.nowNs
        (flit = none → Answers (.xslSlotFrameRx p bad n frame) s (fun t => seen t ∧ steps Reg.XSL_CRC_CNT 1 t)) ∧
        (∀ f, flit = some f → s.member f.src = false ∨ s.peerLost f.src = true →
          Answers (.xslSlotFrameRx p bad n frame) s (fun t => seen t ∧ steps Reg.XSL_NONMEM_CNT 1 t ∧ (t.port p).inb = x.inb)) ∧
        (∀ f, flit = some f → s.member f.src = true → s.peerLost f.src = false → f.dst = dev → f.typ = 1 ∨ f.typ = 2 →
          (x.inb.length < 4096 → Answers (.xslSlotFrameRx p bad n frame) s (fun t => seen t ∧ (t.port p).inb = x.inb ++ [{ f with since := s.nowNs }])) ∧
          (4096 ≤ x.inb.length → Answers (.xslSlotFrameRx p bad n frame) s (fun t => seen t ∧ steps Reg.XSL_IN_DROP_CNT 1 t ∧ (t.port p).inb = x.inb))) ∧
        (∀ f q, flit = some f → s.member f.src = true → s.peerLost f.src = false → f.dst ≠ dev → s.routeOf f.dst = some q →
          if f.hops = 0 ∨ 256 ≤ ((s.port q).fwd.filter (fun y => y.src == f.src)).length then
            Answers (.xslSlotFrameRx p bad n frame) s (fun t => seen t ∧ steps Reg.XSL_FWD_DROP_CNT 1 t ∧ (t.port q).fwd = (s.port q).fwd)
          else Answers (.xslSlotFrameRx p bad n frame) s (fun t => seen t ∧
            (t.port q).fwd = (s.port q).fwd ++ [{ f with hops := f.hops - 1, since := s.nowNs }])))) ∧
    (∀ f l, x.inb = f :: l → s.owns .xexisha (pathRows .xexisha (regionOf f.addr) false) = true →
      let k : Want := if f.typ = 1 then .w else .s
      let n := if f.typ = 1 then f.payload.length else 8
      let acked := fun (st : Nat) (t : State) => t.xsl = { s.xsl with
        ports := listSet s.xsl.ports p { x with inb := l }
        acks := s.xsl.acks ++ [(f.src, f.tag, st)] }
      (s.admits .xexisha none k f.addr n = false ∨ s.landingRange k f.addr n = none → Answers (.xslLanding p) s (fun t => acked stBadArg t ∧ t.mem = s.mem ∧
        t.cells = s.cells)) ∧
      (∀ q i, s.admits .xexisha none k f.addr n = true → s.landingRange k f.addr n = some (q, i) →
        (f.gen ≠ bits (s.reg (Reg.XSL_GEN (8 * q + i))) 7 0 → Answers (.xslLanding p) s (fun t => acked stStaleGen t ∧ steps Reg.XSL_STALE_CNT 1 t ∧
          t.mem = s.mem ∧ t.cells = s.cells)) ∧
        (f.gen = bits (s.reg (Reg.XSL_GEN (8 * q + i))) 7 0 → Answers (.xslLanding p) s (fun t => acked stDone t ∧ ((∀ w ∈ wordsOf f.addr n, w ∉ s.upset) → t.regs = s.regs) ∧
          (if f.typ = 1 then t.mem = memStore s.mem f.addr f.payload ∧ t.cells = s.cells else t.mem = s.mem ∧
            t.cells = (s.cellOp f.addr (if f.set then .set (BitVec.ofNat 64 (fromLE f.payload)) else .add (BitVec.ofNat 64 (fromLE f.payload)))).cells))))) ∧
    (∀ old, old = (fun (f : Flit) => s.reached (f.since + (s.reg Reg.XSL_RES_MAX : Int))) →
      Answers (.xslFlitAge p) s (fun t => port { x with
        out := x.out.filter (fun f => !old f)
        fwd := x.fwd.filter (fun f => !old f)
        inb := x.inb.filter (fun f => !old f) } t ∧ steps Reg.XSL_AGE_CNT ((x.out ++ x.fwd ++ x.inb).filter old).length t ∧ RegsBut [Reg.XSL_AGE_CNT] s t)) ∧
    (∀ m, s.xsl.msgs.find? (fun m => s.reached (m.since + (s.quarantine : Int))) = some m → Answers .xslMessageTimeout s (fun t => t.xsl = { s.xsl with
        msgs := s.xsl.msgs.filter (fun y => y.tag != m.tag)
        released := s.xsl.released ++ [(m.tag, s.nowNs)] } ∧ ∀ c, m.who = .client c → t.rdata = [stDeadlineMiss])) ∧
    (∀ tag since l, s.xsl.released = (tag, since) :: l → s.reached (since + (s.quarantine : Int)) = true → Answers .xslTagRelease s (fun t => Only [.xsl] s t ∧
      t.xsl = { s.xsl with released := l, ready := s.xsl.ready ++ [tag] })) ∧
    (∀ d : Fin 64, s.reached (mapGet (-1) s.xsl.seen d.val + 1000 * (s.reg Reg.XSL_PEER_TO : Int)) = true → s.member d = true → s.peerLost d = false → d.val ≠ dev →
      Answers (.xslPeerTimeout d) s (fun t => t.peerLost d = true ∧ steps Reg.XSL_PEERLOST_CNT 1 t ∧ RegsSide [Reg.XSL_LOST, Reg.XSL_PEERLOST_CNT] s t ∧
        (∀ m ∈ t.xsl.msgs, m.dst ≠ d.val) ∧ t.xsl.ports = s.xsl.ports)) ∧
    (∀ (k : Fin 128) (v : Nat), let ok := decide (v = (bits (s.reg (Reg.XSL_GEN k)) 7 0 + 1) % 256) &&
        (match s.xsl.genAt.find? (fun e => e.1 == k.val) with | some e => s.reached (e.2 + (s.quarantine : Int)) | none => true)
      (ok = true → Answers (.xslGenAdvance k v) s (fun t => t.reg (Reg.XSL_GEN k) = v ∧ RegsBut [Reg.XSL_GEN k] s t ∧ (k.val, s.nowNs) ∈ t.xsl.genAt)) ∧
      (ok = false → Answers (.xslGenAdvance k v) s (fun t => bit (t.reg Reg.XSL_ERR) errState = true ∧ RegsBut [Reg.XSL_ERR] s t ∧ t.xsl = s.xsl))) ∧
    (∀ w : BitVec 64, Answers (.xslLostClear w) s (fun t => (∀ d, d < 64 → t.peerLost d = (s.peerLost d && !bit w.toNat d)) ∧ RegsBut [Reg.XSL_LOST] s t ∧
      t.xsl.msgs = s.xsl.msgs ∧ t.xsl.ports = s.xsl.ports))


/-- A code travels to the Rind and is its first where none was latched; missing and wrong signs of life raise the Rind's own codes; four cycles of doubt take the
authority over or cancel a handback request; doubt bits are cleared outside MAIN only; and the handback completes when every condition of R404 holds
(01 R22; 15 R376 to R379, R396 to R398, R404, R405; 19 R499). Which values firmware kicks with and how a request arms its conditions are the model's reading
(log entries 41 and 49). -/
def Obligations.DoubtReachesTheRindAndHandbackReturns : Prop :=
  ∀ s : State, s.canonical = true →
    let steps := fun (k : Nat) (t : State) => t.reg k = (s.reg k + 1) % 2 ^ 32
    let acted := fun (code : Nat) (t : State) => s.RindDoubted code t ∧ (bit (s.reg Reg.RIND_DOUBT) (code - 0x80) = false → t.auth = .fallback)
    let window := s.regBits Reg.RIND_WDT_CFG 9 0 * 400000
    let late := s.wd.kickArmed = true ∧ s.wd.kickLast + window < s.rclk
    let ms := 400000
    (∀ c l, s.mainClk = true → s.line.toSend = c :: l → Answers .doubtCodeSend s (fun t => Only [.line] s t ∧
      t.line = { s.line with
        toSend := l
        bridge := s.line.bridge ++ [c] })) ∧
    (∀ c l, s.line.bridge = c :: l → 0x80 ≤ c → c < 0xA0 → Answers .doubtCodeReceive s (fun t => Only [.line, .regs] s t ∧
      t.line = { s.line with
        bridge := l
        assertT := none
        fresh := false } ∧
      t.reg Reg.RIND_DOUBT_FIRST = (if s.line.fresh then c else s.reg Reg.RIND_DOUBT_FIRST) ∧ steps (Reg.RIND_DOUBT_CNT (c - 0x80)) t ∧
      RegsBut [Reg.RIND_DOUBT_FIRST, Reg.RIND_DOUBT_CNT (c - 0x80)] s t)) ∧
    (∀ t0, s.line.assertT = some t0 → t0 + 800 ≤ s.rclk →
      (s.wd.kicked = true → Answers .doubtCodeTimeout s (fun t => acted 0x95 t ∧ t.line.assertT = none)) ∧
      (s.wd.kicked = false → Answers .doubtCodeTimeout s (fun t => Only [.line] s t ∧ t.line.assertT = none))) ∧
    (4 ≤ s.line.run → s.line.qualified = false → Answers .doubtQualify s (fun t => t.line = { s.line with qualified := true } ∧ t.auth = .fallback ∧
      (s.auth = .main → t.reg Reg.RIND_TAKE_T = s.rclk ∧ steps Reg.RIND_TAKE_CNT t ∧ t.fbx.playing = true ∧ t.fbx.t0 = s.rclk ∧
        RegsBut [Reg.RIND_TAKE_T, Reg.RIND_TAKE_CNT, Reg.MBX_STATE] s t ∧
        (∀ tr, s.fbx.active = some tr → s.rclk - tr.accT ≤ s.regBits Reg.FBX_TIMES 15 0 * ms →
          t.fbx.deflt = false ∧ t.fbx.tau0 = s.rclk - tr.accT ∧ t.fbx.playSet = tr.axes.map (fun x => x.axis)) ∧
        (s.fbx.active = none → t.fbx.deflt = true ∧
          ∀ a, a ∈ t.fbx.playSet ↔ a < 64 ∧ bit (s.reg Reg.FBX_AXEN) a = true ∧ a ∈ s.fbx.mainEn)) ∧
      (s.auth = .handbackPending → t.fbx = { s.fbx with
          hbReqT := none
          hbGo := false
          hbAcc := false } ∧
        (s.evr.buffer.length < 4096 → ∃ r : EvRecord, t.evr.buffer = s.evr.buffer ++ [r] ∧ r.kind = 1 ∧ r.code = 0x41C4)) ∧
      (s.auth = .fallback → Only [.line] s t))) ∧
    (0 < s.line.glitches → Answers .doubtGlitch s (fun t => Only [.line, .regs] s t ∧ t.line = { s.line with glitches := s.line.glitches - 1 } ∧
      steps Reg.RIND_GLITCH_CNT t ∧ RegsBut [Reg.RIND_GLITCH_CNT] s t)) ∧
    (∀ (rind : Bool) (w : BitVec 32),
      let k := if rind then Reg.RIND_DOUBT else Reg.SAF_DOUBT
      let e := errKey (k / 0x100000)
      (s.auth = .main → Answers (.doubtClear rind w) s (fun t => Only [.regs] s t ∧ RegsBut [e] s t ∧ bit (t.reg e) errState = true)) ∧
      (s.auth ≠ .main → Answers (.doubtClear rind w) s (fun t => RegsBut [k, Reg.MBX_STATE] s t ∧ t.auth = s.auth ∧
        t.reg k = s.cleared k (s.reg k) w.toNat ∧ (s.now.sets = [] → ∀ i, bit (t.reg k) i = (bit (s.reg k) i && !bit w.toNat i)) ∧
        (2 < s.start.step → t.lineDoubt = decide (t.reg Reg.SAF_DOUBT ≠ 0)) ∧ (t.reg Reg.SAF_DOUBT = 0 → t.reg Reg.RIND_DOUBT = 0 → t.line.fresh = true)))) ∧
    (s.mainClk = true → s.start.step ≠ 1 → Answers .hdHeartbeat s (fun t => Only [.wd] s t ∧ t.wd = { s.wd with
        hbLast := s.rclk
        hbArmed := true })) ∧
    (s.wd.hbArmed = true → s.wd.hbLast + 1600 ≤ s.rclk → s.wd.kicked = true →
      Answers .hdHeartbeatMiss s (fun t => acted 0x92 t ∧ t.wd = { s.wd with hbArmed := false })) ∧
    (∀ w : BitVec 32,
      let kicked := { s.wd with
        kicked := true
        kickLast := s.rclk
        kickExpect := 0xFFFFFFFF - s.wd.kickExpect
        kickArmed := true }
      (w.toNat = s.wd.kickExpect → ¬late → Answers (.rindWdtKick w) s (fun t => Only [.wd] s t ∧ t.wd = kicked)) ∧
      (w.toNat = s.wd.kickExpect → late → Answers (.rindWdtKick w) s (fun t => acted 0x93 t ∧ t.wd = kicked)) ∧
      (w.toNat ≠ s.wd.kickExpect → Answers (.rindWdtKick w) s (fun t => acted 0x93 t ∧ t.wd = { s.wd with kicked := true }))) ∧
    (late → s.wd.kicked = true → Answers .watchdogMiss s (fun t => acted 0x93 t ∧ t.wd = { s.wd with kickArmed := false })) ∧
    (Answers (.supplyLimit 0) s (fun t => Only [.regs] s t ∧ t.reg Reg.RIND_SUPPLY = 0 ∧ RegsBut [Reg.RIND_SUPPLY] s t)) ∧
    (∀ w : BitVec 16, w ≠ 0 → Answers (.supplyLimit w) s (fun t => acted 0x90 t ∧ t.reg Reg.RIND_SUPPLY = w.toNat)) ∧
    (s.auth = .fallback → s.safe = false → Answers (.fbxHbReq 1) s (fun t => t.auth = .handbackPending ∧ RegsBut [Reg.MBX_STATE] s t ∧
      Only [.auth, .fbx, .regs, .hostEvent, .msix] s t ∧ t.fbx = { s.fbx with
        hbReqT := some s.rclk
        hbGo := false
        hbAcc := false })) ∧
    (s.auth = .handbackPending → Answers (.fbxHbGo 1) s (fun t => Only [.fbx] s t ∧ t.fbx = { s.fbx with hbGo := true })) ∧
    (∀ t0, s.auth = .handbackPending → s.fbx.hbGo = true →
      let clear := s.reg Reg.SAF_DOUBT = 0 ∧ s.reg Reg.RIND_DOUBT = 0 ∧ s.lineDoubt = false ∧ s.fbx.clearT = some t0 ∧ t0 + ms ≤ s.rclk
      let alive := s.wd.hbArmed = true ∧ s.rclk ≤ s.wd.hbLast + 1600 ∧ s.wd.kickArmed = true ∧ s.rclk ≤ s.wd.kickLast + window
      let still := ∀ a ∈ s.fbx.playSet, ∃ e, s.fbx.stillT.find? (fun e => e.1 == a) = some e ∧ e.2 + s.regBits Reg.FBX_TIMES 31 16 * ms ≤ s.rclk
      clear → s.fbx.hbAcc = true → alive → bit (s.reg Reg.FBX_CFG) 0 = true ∨ still →
      Answers .handbackComplete s (fun t => t.auth = .main ∧ RegsBut [Reg.MBX_STATE] s t ∧ Only [.auth, .fbx, .regs, .hostEvent, .msix] s t ∧
        t.fbx.playing = false ∧ t.fbx.pendingTrj = none ∧ t.fbx.hbReqT = none ∧ t.fbx.swPorts = s.fbx.swPorts ∧
        t.fbx.active = (if s.fbx.pendingTrj.isSome then s.fbx.pendingTrj else s.fbx.active))) ∧
    (s.auth = .handbackPending →
      ¬(s.noDoubtBits = true ∧ s.lineDoubt = false ∧ s.fbx.hbGo = true ∧ s.fbx.hbAcc = true) → Answers .handbackComplete s (Only [] s))


/-- A staged trajectory is accepted or rejected with a reason; a missing one raises 0x94; every 50 us each axis of playback takes a command from the trajectory or from
its held position; frames, Ethernet entries, end actions and the frames of SAFE follow (15 R399 to R403, R405). The reason for a field outside its table, the order
of the steps of the reference between two knots and the sequence number in SAFE are the model's (log entry 41). -/
def Obligations.TheFallbackExecutorPlaysItsTrajectory : Prop :=
  ∀ s : State, s.canonical = true → mapWf 0 s.fbx.iq = true → mapWf 0 s.fbx.fbMiss = true →
    let steps := fun (k : Nat) (t : State) => t.reg k = (s.reg k + 1) % 2 ^ 32
    let ms := 400000
    let g := fun (k : Nat) => BitVec.ofNat 32 (s.reg k)
    let wrap := fun (a b : Nat) => fofInt (toInt 32 ((a + 2 ^ 32 - b) % 2 ^ 32))
    let frame := fun (flags seq wd : Nat) (words : List Nat) =>
      let body := [0xC1#8] ++ toLE 1 flags ++ toLE 2 seq ++ toLE 2 wd ++ (words.map (toLE 8)).flatten
      body ++ toLE 4 (crc32c body)
    -- the trajectory's checks
    (s.safe = false → ∀ l, l = s.stageBytes (max 64 (min 16384 (fieldLE (s.stageBytes 8) 4 4))) →
      let r := s.trjReject l
      let axes := (trjOf l 0).axes
      (r ≠ 0 → Answers (.fbxTrjCommit 1) s (fun t => t.fbx = { s.fbx with reject := r } ∧ steps Reg.FBX_REJ_CNT t ∧ RegsSide [Reg.FBX_REJ_CNT] s t ∧
        (s.evr.buffer.length < 4096 → ∃ x : EvRecord, t.evr.buffer = s.evr.buffer ++ [x] ∧ x.kind = 1 ∧ x.code = 0x41C3))) ∧
      (r = 0 → Answers (.fbxTrjCommit 1) s (fun t => Only [.regs, .fbx] s t ∧ steps Reg.FBX_ACC_CNT t ∧ t.reg Reg.FBX_ACC_T = s.rclk % 2 ^ 64 ∧
        RegsBut [Reg.FBX_ACC_CNT, Reg.FBX_ACC_T] s t ∧ t.fbx.lateFrom = s.rclk ∧
        (if s.auth = .main then t.fbx.active = some (trjOf l s.rclk) ∧ t.fbx.pendingTrj = s.fbx.pendingTrj
         else t.fbx.active = s.fbx.active ∧ t.fbx.pendingTrj = some (trjOf l s.rclk)))) ∧
      (r = 0 → fieldLE l 0 4 = 0x46584231 ∧ fieldLE l 8 4 = crc32c (l.take 8 ++ List.replicate 4 0 ++ l.drop 12) ∧
        (∀ a, a < 64 → bit (fieldLE l 0x18 8) a = true → bit (s.reg Reg.FBX_AXEN) a = true) ∧
        (∀ x ∈ axes, isFinite32 (BitVec.ofNat 32 x.tff) = true ∧ ∀ k ∈ x.knots, toInt 32 (s.reg (Reg.FBX_PMIN x.axis)) ≤ toInt 32 k.1 ∧
          toInt 32 k.1 ≤ toInt 32 (s.reg (Reg.FBX_PMAX x.axis)) ∧ fle (fabs (BitVec.ofNat 32 k.2)) (g (Reg.FBX_VMAX x.axis)) = true)) ∧
      (fieldLE l 0 4 ≠ 0x46584231 → r = 1)) ∧
    (s.auth = .main → s.fbx.lateFrom + s.reg Reg.FBX_LATE_US * 400 ≤ s.rclk → Answers .fbxLate s (fun t => s.RindDoubted 0x94 t ∧
      (bit (s.reg Reg.RIND_DOUBT) 0x14 = false → t.auth = .fallback))) ∧
    -- one tracking step
    (s.fbx.stepT ≤ s.rclk → s.safe = false → Answers .fbxTrackingStep s (fun t => Only [.regs, .fbx] s t ∧ t.fbx.pos = s.fbx.fbPos ∧ t.fbx.posPrev = s.fbx.pos ∧
      t.fbx.stepT = s.fbx.stepT + 20000 ∧ t.fbx.fbSeen = [] ∧ RegsBut [Reg.FBX_NAN_CNT, Reg.FBX_FBLOSS_CNT] s t ∧
      (s.fbx.playing = false → t.fbx.iq = s.fbx.iq ∧ t.fbx.fbMiss = s.fbx.fbMiss ∧ t.fbx.estop = s.fbx.estop ∧ t.regs = s.regs) ∧
      (s.fbx.playing = true → (∀ a ∈ s.fbx.playSet,
        let pos := mapGet 0 s.fbx.fbPos a
        let vm := fmul (wrap pos (mapGet 0 s.fbx.pos a)) (fofInt 20000)
        let ref := s.fbxRef a
        let x := fadd (fadd (fmul (g (Reg.FBX_KPF a)) (wrap ref.1 pos)) (fmul (g (Reg.FBX_KDF a)) (fsub ref.2.1 vm))) (fmul (g (Reg.FBX_KTF a)) ref.2.2)
        let iq := fclamp x (g (Reg.FBX_IMAXF a))
        mapGet 0 t.fbx.iq a = iq.toNat ∧ (a ∈ t.fbx.nanAx ↔ isFinite32 iq = false)) ∧
        (∀ p : Fin 8, bit (s.reg Reg.FBX_CFG) (8 + p) = true →
          mapGet 0 t.fbx.fbMiss p = (if p.val ∈ s.fbx.fbSeen then 0 else mapGet 0 s.fbx.fbMiss p + 1) ∧
          (4 ≤ mapGet 0 t.fbx.fbMiss p → p.val ∈ t.fbx.estop))))) ∧
    (∀ a, s.fbx.deflt = true → s.fbxRef a = (mapGet 0 s.fbx.holdPos a, 0, 0)) ∧
    (∀ a tr x, s.fbx.deflt = false → s.fbx.active = some tr → tr.axes.find? (fun y => y.axis == a) = some x →
      tr.nk ≤ (s.fbx.tau0 + (s.rclk - s.fbx.t0)) / (max 1 (tr.kdtMs * ms)) + 1 →
      s.fbxRef a = ((x.knots.getLastD (0, 0)).1, 0, BitVec.ofNat 32 x.tff)) ∧
    (∀ a tr x, s.fbx.deflt = false → s.fbx.active = some tr → tr.axes.find? (fun y => y.axis == a) = some x →
      let d := tr.kdtMs * ms
      let tau := s.fbx.tau0 + (s.rclk - s.fbx.t0)
      let k := tau / (max 1 d)
      k + 1 < tr.nk → s.fbxRef a = (ofInt 32 (toInt32 (Prec.double.val (hermite (x.knots.getD k (0, 0)) (x.knots.getD (k + 1) (0, 0)) (tau - k * d) d).1)),
        BitVec.ofNat 32 (Prec.double.conv .single (hermite (x.knots.getD k (0, 0)) (x.knots.getD (k + 1) (0, 0)) (tau - k * d) d).2), BitVec.ofNat 32 x.tff)) ∧
    -- frames on the ports
    (∀ p : Fin 8, s.auth ≠ .main → s.safe = false → bit (s.reg Reg.FBX_CFG) (8 + p) = true → (s.fbx.playing = true → s.fbx.t0 < s.fbx.stepT) →
      ((∀ e ∈ s.fbx.txT, e.1 ≠ p.val) ∨ mapGet 0 s.fbx.txT p + s.regBits Reg.FBX_TX 15 0 * 40 ≤ s.rclk) →
      (p.val ∈ s.fbx.swPorts ∨ s.mainClk = false ∨ ∀ t0, (s.lport p).sof = some t0 → t0 + 152 ≤ s.lclk) →
      let es := s.fbx.playing && (s.fbx.estop.contains p.val || s.fbx.endReached)
      let word := fun (a : Nat) =>
        if s.fbx.playing = true ∧ a ∈ s.fbx.playSet ∧ a ∉ s.fbx.nanAx ∧ es = false then mapGet 0 s.fbx.iq a + 3 * 2 ^ 32 else 0
      let n := mapGet 0 s.fbx.seq p
      Answers (.fbxCommandFrame p) s (fun t => Only [.fbx] s t ∧ p.val ∈ t.fbx.swPorts ∧ mapGet 0 t.fbx.txT p = s.rclk ∧
        (mapWf 0 s.fbx.seq = true → mapGet 0 t.fbx.seq p = (n + 1) % 65536) ∧
        mapGet [] t.fbx.sent p = frame (if es then 3 else 1) n (s.regBits Reg.FBX_TX 31 16) ((List.range 8).map (fun j => word (8 * p + j))))) ∧
    (s.safe = true → (∃ p : Fin 8, s.safeDue p = true) → Answers .safeFrame s (fun t => Only [.fbx, .free] s t ∧
      ∃ n, n < 65536 ∧ ∀ p : Fin 8,
        (s.safeDue p = true → p.val ∈ t.fbx.swPorts ∧ mapGet 0 t.fbx.txT p = s.rclk ∧ mapGet [] t.fbx.sent p = frame 3 n 40 (List.replicate 8 0)) ∧
        (s.safeDue p = false → mapGet [] t.fbx.sent p = mapGet [] s.fbx.sent p))) ∧
    (∀ p : Fin 8, bit (s.reg Reg.FBX_CFG) (8 + p) = true →
      ((∀ e ∈ s.fbx.txT, e.1 ≠ p.val) ∨ mapGet 0 s.fbx.txT p + 4000 ≤ s.rclk) →
      (p.val ∈ s.fbx.swPorts ∨ s.mainClk = false ∨ ∀ t0, (s.lport p).sof = some t0 → t0 + 152 ≤ s.lclk) → s.safeDue p = true) ∧
    -- Ethernet entries and end actions
    (s.fbx.playing = true → s.safe = false → bit (s.reg Reg.FBX_CFG) 16 = true →
      let out := fun (i : Nat) (f : List Byte) (t : State) => Only [.fbx] s t ∧ t.fbx = { s.fbx with
        ethOut := s.fbx.ethOut ++ [f]
        ethSent := some i
        ethLastT := s.rclk }
      (s.fbx.deflt = true → s.fbx.ethSent = none ∨ s.fbx.ethLastT + s.regBits Reg.FBX_DEF_CFG 31 8 * 400 ≤ s.rclk → Answers .fbxEthSend s (out 0 s.defFrame)) ∧
      (∀ tr, s.fbx.deflt = false → s.fbx.active = some tr →
        let due := fun (i : Nat) => ∃ e, tr.eth[i]? = some e ∧ e.offsetMs * ms ≤ s.fbx.tau0 + (s.rclk - s.fbx.t0)
        (∀ i e, tr.eth[i]? = some e → s.fbx.ethSent = none → due i → (∀ j, i < j → ¬due j) → Answers .fbxEthSend s (out i e.frame)) ∧
        (∀ i j e, s.fbx.ethSent = some i → tr.eth[i + 1]? = some e → i < j → due j → Answers .fbxEthSend s (out (i + 1) e.frame)) ∧
        (∀ i e, s.fbx.ethSent = some i → tr.eth[i]? = some e → due i → (∀ j, i < j → ¬due j) → e.repeatUs ≠ 0 →
          s.fbx.ethLastT + e.repeatUs * 400 ≤ s.rclk → Answers .fbxEthSend s (out i e.frame)))) ∧
    (s.fbx.playing = true → s.safe = false →
      (s.fbx.deflt = true → s.fbx.t0 + s.regBits Reg.FBX_DEF_CFG 47 32 * ms ≤ s.rclk →
        Answers .fbxEndAction s (fun t => Only [.fbx] s t ∧ ∀ p, p < 8 → p ∈ t.fbx.estop)) ∧
      (∀ tr, s.fbx.deflt = false → s.fbx.active = some tr → tr.endAction = 1 →
        ((tr.nk - 1) * tr.kdtMs + tr.endHoldMs) * ms ≤ s.fbx.tau0 + (s.rclk - s.fbx.t0) →
        Answers .fbxEndAction s (fun t => Only [.fbx] s t ∧ t.fbx = { s.fbx with endReached := true })))


/-! ### Resets, start-up and power (15, 16, 18, 19) -/

/-- A reset leaves what Table 18.6 keeps and the reset values elsewhere: the Rind's power-on, a pin or a supply that holds the main complex, its release, and a commanded
warm or cold reset; the Rind's boot ends in a release or in SAFE; a lost lock stops the clocks, without which the main complex does nothing (01 R42; 17 R453; 18 R467, R468, R482, R483, R486, R488; 19 R499, R501, R506).
What two waiting resets make, and that the lock is taken at the release, is the model's (log entry 49). -/
def Obligations.ResetsLeaveWhatTheTableKeeps : Prop :=
  ∀ s : State, s.canonical = true →
    let zero : List Part := [.cells, .hostEvent, .frt, .vats, .harp, .harpShare, .walkers, .swaps, .ing, .fus, .slv, .pln, .lp, .tsn, .xsl, .diag, .trace, .traceDrop,
      .cg, .firm, .snapCmp, .obs]
    let kept : List Part := [.free, .rdata, .rclkOn, .rphase, .rclk, .evr, .auth, .safe, .fbx, .wd, .msix, .keep]
    let begun := fun (step kind : Nat) (t : State) => t.pending = s.pending ∧ (∀ f ∈ kept, f.same s t) ∧ (∀ f ∈ zero, f.same State.reset t) ∧
      t.lineDoubt = true ∧ t.line.toSend = [] ∧ t.start.step = step ∧ t.start.kind = kind ∧ t.start.running = false ∧ t.start.hold = 0 ∧
      t.start.resetAt = none ∧ t.start.empties = none ∧ bits (t.reg Reg.MBX_STATE) 17 16 = s.keep.lifecycle % 4
    let cold := fun (step kind : Nat) (t : State) => begun step kind t ∧ t.tick = 0 ∧
      (∀ f ∈ ([.mem, .poison, .upset, .tb, .mig, .pwr] : List Part), f.same State.reset t) ∧
      (∀ k, 0x40 ≤ k / 0x100000 → k ≠ Reg.EVR_STATUS → t.reg k = s.reg k) ∧
      (∀ k, k / 0x100000 < 0x40 → k ≠ Reg.MBX_STATE → t.reg k = State.reset.reg k)
    let warm := fun (step kind : Nat) (t : State) => begun step kind t ∧ t.tick = s.tick ∧ t.mainClk = s.mainClk ∧ t.tb = s.tb ∧
      (∀ a, memByte t.mem a = if a < 0x1800000000 then memByte s.mem a else 0) ∧ t.mig.queue = [] ∧ t.mig.rmem = s.mig.rmem ∧
      (∀ k, 0x40 ≤ k / 0x100000 ∨ k / 0x100000 = 0xB ∨ k / 0x100000 = 0x11 ∨ 0xF0000 ≤ k % 0x100000 → t.reg k = s.reg k) ∧
      (∀ k, k / 0x100000 < 0x40 → k / 0x100000 ≠ 0xB → k / 0x100000 ≠ 0x11 → k % 0x100000 < 0xF0000 →
        k ∉ [Reg.MBX_STATE, Reg.MIG_RES_CFG, Reg.MIG_RES_FRAMES, Reg.MIG_STATUS, Reg.LAKE_STATUS 0, Reg.LAKE_STATUS 1, Reg.LAKE_STATUS 2, Reg.LAKE_STATUS 3] →
        t.reg k = State.reset.reg k)
    let larger := fun (k : Nat) => if s.start.step < 8 then max k s.start.kind else k
    (s.start.step = 1 → s.start.mcRst = false → s.start.resetN = false → s.start.railBad = false → s.start.rind = true → s.start.booting = false → s.start.refclk = true →
      Answers .mcResetRelease s (fun t => cold 2 s.start.kind t ∧ t.mainClk = true ∧ t.start.pll = true)) ∧
    (s.start.resetN = false → Answers (.resetNAssert true) s (fun t => cold 1 (larger 2) t ∧ t.mainClk = false ∧ t.start.resetN = true)) ∧
    Answers (.resetNAssert false) s (fun t => Only [.start] s t ∧ t.start = { s.start with resetN := false }) ∧
    (s.start.railBad = false → Answers (.railPowerGoodLoss true) s (fun t => cold 1 (larger 2) t ∧ t.mainClk = false ∧ t.start.railBad = true)) ∧
    Answers (.railPowerGoodLoss false) s (fun t => Only [.start] s t ∧ t.start = { s.start with railBad := false }) ∧
    (∀ at' k, s.start.resetAt = some (at', k) → at' ≤ s.fclk → s.mainClk = true →
      (larger k = 1 → Answers .resetBegin s (warm 2 1)) ∧
      (larger k ≠ 1 → Answers .resetBegin s (fun t => cold 2 (larger k) t ∧ t.mainClk = true ∧ t.start.pll = true))) ∧
    (∀ flash : List (Nat × List Byte), Answers (.rindPowerOn flash) s (fun t => t.pending = s.pending ∧
      (∀ f ∈ ([.fbx, .wd, .mem, .tb, .mig, .pwr] : List Part) ++ zero, f.same State.reset t) ∧ t.auth = .fallback ∧ t.safe = false ∧ t.logs = [] ∧ t.evr.buffer = [] ∧
      t.evr.mram = s.evr.mram ∧ t.rclkOn = true ∧ t.rclk = 0 ∧ (∀ k, k ≠ Reg.EVR_STATUS → k ≠ Reg.MBX_STATE → t.reg k = State.reset.reg k) ∧
      t.start.mcRst = true ∧ t.start.booting = true ∧ t.start.rind = true ∧ t.start.step = 1 ∧ t.start.kind = 3 ∧ t.keep = { s.keep with nor := t.keep.nor } ∧
      (flash = [] → t.keep = s.keep) ∧
      (∀ o l, flash = [(o, l)] → o ∈ [0, 0x100000, 0x900000, 0x1110000, 0x1120000] → t.nor o = l ∧ ∀ q, q ≠ o → t.nor q = s.nor q))) ∧
    (∀ (fail : Bool) (torn : List Nat), s.start.booting = true → Answers (.rindBootEnd fail torn) s (fun t =>
      t.start = { s.start with
        booting := false
        mcRst := if fail then s.start.mcRst else false } ∧
      (fail = true → t.safe = true ∧ t.auth = .fallback) ∧ (fail = false → t.safe = s.safe ∧ t.auth = s.auth) ∧
      (s.evr.mram = [] → t.evr.pcyc = 1) ∧
      (∀ e, e ∈ s.evr.mram → e.1 ∉ s.evr.torn → (∀ k ∈ torn, k % mramSlots ≠ e.1) → min (e.2.pcyc + 1) 0xFFFFFF ≤ t.evr.pcyc ∧
        ((∀ x ∈ s.evr.mram, x.2.seq < 2 ^ 32 - 2) → e.2.seq < t.evr.nextSeq)))) ∧
    Answers .rindSupplyLoss s (fun t => Only [.rclkOn, .start] s t ∧ t.rclkOn = false ∧ t.start = { s.start with rind := false }) ∧
    Answers .rindXtalStop s (fun t => Only [.rclkOn] s t ∧ t.rclkOn = false) ∧
    (∀ ref : Bool, Answers (.rootPllLoss ref) s (fun t => Only [.mainClk, .start, .regs] s t ∧ t.mainClk = false ∧ t.start = { s.start with
        pll := false
        refclk := ref } ∧
      t.reg Reg.CLK_STATUS = 2 * b2n ref ∧ RegsBut [Reg.CLK_STATUS] s t)) ∧
    (s.mainClk = false → ∀ (v : VatNo) (a : Fin 64) (m : Fin 16) (p : Fin 8) (w : BitVec 64) (k : BitVec 48),
      ∀ c ∈ [Instr.majorFrameStart, .slotStart, .cutPoint v, .commitPoint 0, .commitEvaluate none, .registerWrite 0 k 64 w, .axisEnable a, .loopTick, .planCycleStart,
        .solverJobStart, .egoTick, .snapshotTrigger 1, .resetWarm m, .getState m, .hostDoorbell m, .feedbackCutoff p, .powerPeriod, .tsnGclTakeEffect 0,
        .doubtCodeSend], Answers c s (fun t => t = s))


/-- A step of start-up ends in the next step or holds with a cause; an image is found, pushed or waited for; with step 7 firmware asks for the authority, and asks again when a
request lapses; RESET is refused while axes run and otherwise begins 1 ms later, or at the next slot (18 R470, R471, R473 to R481, R484, R485). That step 7 asks again
outside MAIN, the SEQ of the empty trajectory and how two resets combine are the model's (log entry 49). -/
def Obligations.StartUpRunsItsStepsAndResetIsCommanded : Prop :=
  ∀ s : State, s.canonical = true →
    let steps := fun (k : Nat) (t : State) => t.reg k = (s.reg k + 1) % 2 ^ 32
    let running := s.start.hold = 0 ∧ s.mainClk = true ∧ s.start.hostWait = false
    let held := fun (cause : Nat) (t : State) => t.start.hold = cause ∧ t.start.step = s.start.step ∧ (t.evr.buffer.length < 4096 →
      ∃ r : EvRecord, t.evr.buffer.getLast? = some r ∧ r.kind = 4 ∧ r.code = 4 ∧ r.detail % 2 ^ 32 = s.start.step + 2 ^ 8 * cause)
    let asked := fun (t : State) => t.auth = .handbackPending ∧ t.fbx.hbReqT = some s.rclk ∧ t.fbx.hbGo = true ∧ t.start.empties = some s.rclk
    let la := s.nor (slotOffset s.activeSlot)
    let lb := s.nor (slotOffset (1 - s.activeSlot))
    let ra := s.imageRefused la
    let rb := s.imageRefused lb
    let runs := fun (l : List Byte) (t : State) => t.start.running = true ∧ t.start.hostWait = false ∧ t.firm.ver = fieldLE l 4 2 ∧ t.firm.build = fieldLE l 8 4
    -- step 2: the image, the configuration, the doubt line
    (running → s.start.step = 2 → s.start.running = false → s.firm.bells = [] → s.startConfig = none → ∀ lane,
      (ra ≠ 0 → rb ≠ 0 → s.keep.bootHost = true → Answers (.startupStepEnd none lane) s (fun t => t.start = { s.start with hostWait := true })) ∧
      (ra ≠ 0 → rb ≠ 0 → s.keep.bootHost = false → Answers (.startupStepEnd none lane) s (held (if ra = 2 ∨ rb = 2 then 2 else 3))) ∧
      (∀ l, (ra = 0 ∧ l = la) ∨ (ra ≠ 0 ∧ rb = 0 ∧ l = lb) → Answers (.startupStepEnd none lane) s (runs l))) ∧
    (running → s.start.step = 2 → s.start.running = true → ∀ lane c,
      (s.startConfig = none → s.keep.lifecycle ≠ 0 → Answers (.startupStepEnd none lane) s (held 4)) ∧
      (s.startConfig = none → s.keep.lifecycle = 0 → Answers (.startupStepEnd none lane) s (fun t => t.start = { s.start with
          step := 3
          phases := [[], [], [], []] } ∧ RegsBut [Reg.MBX_STATE] s t ∧ (s.reg Reg.SAF_DOUBT = 0 → t.lineDoubt = false))) ∧
      (s.startConfig = some c → s.configOk c = true → ∀ a b d, configPhases c = some [[], a, b, d] →
        Answers (.startupStepEnd none lane) s (fun t => t.start = { s.start with
          step := 3
          phases := [[], a, b, d] } ∧ RegsBut [Reg.MBX_STATE] s t ∧ (s.reg Reg.SAF_DOUBT = 0 → t.lineDoubt = false)))) ∧
    -- steps 3 to 5: tests and training
    (running → ∀ lane,
      (s.start.step = 3 → Answers (.startupStepEnd none lane) s (fun t => Only [.start] s t ∧ t.start = { s.start with step := if s.start.kind = 1 then 5 else 4 })) ∧
      (s.start.step = 3 → ∀ p, Answers (.startupStepEnd (some p) lane) s (fun t => held 6 t ∧ s.Doubted 0x88 t ∧ steps Reg.SAF_LANE_FAIL_CNT t)) ∧
      (s.start.step = 4 → ∀ k, Answers (.startupStepEnd (some k) lane) s (fun t => held 7 t ∧ RegsSide [] s t)) ∧
      (s.start.step = 4 → Answers (.startupStepEnd none lane) s (fun t => t.start = { s.start with step := 5 } ∧
        (∀ i : Fin 4, bit (t.reg (Reg.LAKE_STATUS i)) 0 = true) ∧
        (if s.resWanted = true then bit (t.reg Reg.MIG_STATUS) 2 = true ∧ t.reg Reg.MIG_RES_FRAMES = 8192 * 2 ^ s.regBits Reg.MIG_RES_CFG 3 2
         else t.reg Reg.MIG_STATUS = s.reg Reg.MIG_STATUS ∧ t.reg Reg.MIG_RES_FRAMES = s.reg Reg.MIG_RES_FRAMES))) ∧
      (s.start.step = 5 → ∀ k, Answers (.startupStepEnd (some k) lane) s (fun t => held 8 t ∧ t.mem = s.mem ∧ t.cells = s.cells)) ∧
      (s.start.step = 5 → s.start.phases.getD 1 [] = [] → Answers (.startupStepEnd none lane) s (fun t => t.start = { s.start with step := 6 } ∧ t.cells = [] ∧
        t.frt.bankA = [] ∧ t.frt.bankB = [] ∧ t.lp.table = [] ∧ t.regs = s.regs ∧
        ∀ a, memByte t.mem a = if s.start.kind = 1 ∧ a < 0x1800000000 then memByte s.mem a else 0))) ∧
    -- groups of a phase: the first that is not applied holds with cause 5
    (∀ target i l rest, State.runPhase target i (l :: rest) s =
      (if (s.startGroup target l).2 = true then State.runPhase target (i + 1) rest (s.startGroup target l).1 else (s.startGroup target l).1.startHold 5 i)) ∧
    (∀ target i l rest, fieldLE l 1 1 ≠ 0 → (State.runPhase target i (l :: rest) s).start.hold = 5) ∧
    -- steps 6 and 7: the handover and its end
    (running → s.start.step = 6 → s.startConfig = none → s.reg Reg.SAF_DOUBT = 0 → s.reg Reg.RIND_DOUBT = 0 → s.wd.kickArmed = false → s.auth = .fallback → s.safe = false →
      ∀ lane, Answers (.startupStepEnd none lane) s (fun t => asked t ∧ t.start.step = 7 ∧ t.start.hold = 0 ∧ t.wd.kicked = true ∧ t.wd.kickLast = s.rclk)) ∧
    (running → s.start.step = 6 → s.startConfig = none → bit (s.reg Reg.SAF_DOUBT) 0 = true → s.wd.kickArmed = false → s.auth = .fallback → ∀ lane,
      Answers (.startupStepEnd none lane) s (fun t => t.start.step = 7 ∧ t.start.hold = 10 ∧ t.auth = .fallback)) ∧
    (running → s.start.step = 7 → s.auth = .main → s.start.phases.getD 2 [] = [] → s.start.phases.getD 3 [] = [] → ∀ lane,
      Answers (.startupStepEnd none lane) s (fun t => t.start = { s.start with step := 8 } ∧ t.fw = 2 ∧ t.auth = .main ∧ RegsBut [Reg.MBX_STATE] s t)) ∧
    -- the boot ROM's host image; the empty trajectory; a lapsed request
    (∀ data, s.mainClk = true → s.start.running = false → s.start.hostWait = true → 0 ∈ s.firm.bells → s.opcode 0 = 0x310 → mapWf (0 : Byte) s.firm.mail = true →
      let n := s.arg 0 8 4
      let r := s.imageRefused (sized data n)
      (0x800000 < n ∨ r ≠ 0 → Answers (.bootPush data) s (fun t => s.Done 0 stBadArg 0 [] t ∧ t.start = s.start)) ∧
      (n ≤ 0x800000 → r = 0 → (∀ x l, s.firm.bells.filter (fun y => y != 0) = x :: l → listed (s.opcode x) = true) →
        Answers (.bootPush data) s (fun t => s.Done 0 stDone 0 [] t ∧ runs (sized data n) t))) ∧
    (s.mainClk = true → s.start.running = true → s.start.empties.isSome = true → s.firm.relay.begun = false → s.safe = false →
      Answers .emptyTrajectoryCommit s (fun t => t.start = { s.start with empties := some s.rclk } ∧ t.free = s.free + 1 ∧ steps Reg.FBX_ACC_CNT t ∧
        ∀ tr, (s.auth = .main ∧ t.fbx.active = some tr) ∨ (s.auth ≠ .main ∧ t.fbx.pendingTrj = some tr) → tr.axes = [] ∧ tr.eth = [] ∧ tr.nk = 2 ∧ tr.accT = s.rclk)) ∧
    (∀ t0, s.auth = .handbackPending → s.fbx.hbReqT = some t0 → t0 + s.regBits Reg.FBX_TIMES 47 32 * 400000 ≤ s.rclk →
      (s.start.step ≠ 7 → Answers .handbackTimeout s (fun t => t.auth = .fallback ∧ t.fbx = { s.fbx with
          hbReqT := none
          hbGo := false
          hbAcc := false } ∧
        (∀ j ∈ t.firm.jobs, j.op = 0x106 → j.ends ≠ none) ∧
        (s.evr.buffer.length < 4096 → ∃ r : EvRecord, t.evr.buffer = s.evr.buffer ++ [r] ∧ r.kind = 1 ∧ r.code = 0x41C4 ∧ r.detail % 256 = 3))) ∧
      (s.mainClk = true → s.start.step = 7 → s.start.hold = 0 → s.safe = false → Answers .handbackTimeout s asked)) ∧
    -- RESET
    (∀ m : Fin 16, s.Serves m 0x20A .installer → s.openOrStarting = true →
      let kind := s.arg m 0 4
      let at' := match s.start.resetAt with | some (x, k) => some (x, max k kind) | none => some (s.fclk + 1000000, kind)
      let b := s.arg m 4 1
      let vats := if b / 128 = 0 then [b % 16] else []
      (∀ c, (kind = 1 ∧ c = Instr.resetWarm m) ∨ (kind = 2 ∧ c = .resetCold m) →
        (s.axesBusy = false → Answers c s (fun t => s.Done m stDone 0 [] t ∧ t.start = { s.start with resetAt := at' })) ∧
        (s.axesBusy = true → Answers c s (fun t => s.Done m stStateConflict 9 [] t ∧ t.start = s.start))) ∧
      (kind = 0 ∨ 3 < kind → Answers (.resetWarm m) s (fun t => s.Done m stBadArg 0 [] t ∧ t.start = s.start)) ∧
      (kind = 3 →
        (s.tableValid = false ∨ s.frt.resets ≠ [] → Answers (.resetPartition m) s (fun t => s.Done m stStateConflict 2 [] t ∧ t.frt = s.frt)) ∧
        (s.tableValid = true → s.frt.resets = [] → (b / 128 = 0 ∧ b % 16 ≤ 7) ∨ (b / 128 = 1 ∧ (partOf s.table (b % 16)).isSome = true) →
          s.auth ≠ .main ∨ s.resetsLC (b / 128) (b % 16) = false →
          Answers (.resetPartition m) s (fun t => s.Accepted m [b / 128, b % 16] [] none t ∧ t.frt = { s.frt with
            resets := [⟨b / 128, b % 16, vats, none, some m⟩] }))))


/-- At the end of a controller period the energy goes to the meters, the mode and cap that were written come into force, the thermal ceilings and m_c step, and OVER, THROT and BELOW_MIN
follow; at a group boundary a multiplier moves to its target, down or up to the floor in full and beyond it by at most 4 in a period; of 64 pulses exactly m pass
(16 R410 to R415, R418, R424). That ceilings step in the mode of the coming period, and what a rewritten meter counts, are the model's (log entry 42). -/
def Obligations.PowerPeriodsCapAndMeter : Prop :=
  (∀ m, m ≤ 64 → ((List.range 64).filter (passes m)).length = m) ∧
  ∀ s : State, s.canonical = true → s.mainClk = true →
    let mode := bits (s.reg Reg.PWR_MODE) 1 0
    let cap := bits (s.reg Reg.PWR_MODE) 24 16
    let u := s.takePower
    let e := (s.reg Reg.PWR_ENERGY + 2 ^ 64 - s.pwr.eStart) % 2 ^ 64
    let lim := if mode = 1 then cap else 450
    let on := fun (k : Nat) => bit (s.pwr.meters.getD k 0) 0
    let part := fun (k : Nat) => bits (s.pwr.meters.getD k 0) 7 4
    (u.pwrMode = mode ∧ u.pwr.cap = cap ∧ u.pwr.tsoft = bits (s.reg Reg.PWR_THERM_CFG) 7 0 ∧
      u.pwr.low = if mode = s.pwrMode ∧ cap = s.pwr.cap then s.pwr.low else 0) ∧
    ((s.pwr.periods + 1) * 50000 ≤ s.fclk → Answers .powerPeriod s (fun t =>
      t.reg Reg.PWR_PKG = e * 5 / 64 % 2 ^ 32 ∧
      (∀ k : Fin 8, t.reg (Reg.PWR_METER k) = if on k then (s.reg (Reg.PWR_METER k) + s.share e (part k)) % 2 ^ 64 else s.reg (Reg.PWR_METER k)) ∧
      t.reg Reg.PWR_UNMETERED = (s.reg Reg.PWR_UNMETERED +
        (e - (((List.range 16).filter (fun q => (List.range 8).any (fun k => on k && part k == q))).map (s.share e)).sum)) % 2 ^ 64 ∧
      t.pwrMode = mode ∧ t.pwr.cap = cap ∧ t.pwr.tsoft = u.pwr.tsoft ∧ t.pwr.th = (List.range 8).map u.nextCeiling ∧
      t.pwr.periods = s.pwr.periods + 1 ∧ t.pwr.eStart = s.reg Reg.PWR_ENERGY ∧ t.pwr.raised = List.replicate 8 0 ∧ t.pwr.acts = [] ∧
      t.pwr.meters = (List.range 8).map (fun k => s.reg (Reg.PWR_METER_CFG k)) ∧
      t.pwr.droop = s.pwr.droop ∧ t.pwr.region = s.pwr.region ∧
      (2 ≤ mode → t.mc = s.mc ∧ t.pwr.low = 0 ∧ bit (t.reg Reg.PWR_STATUS) 5 = false) ∧
      (mode < 2 →
        let flo := u.floor
        let low := u.pwr.low
        (14080 * lim < e → t.mc = max flo (s.mc - 4) ∧ t.pwr.low = 0) ∧
        (12800 * lim < e → e ≤ 14080 * lim → t.mc = max flo (s.mc - 1) ∧ t.pwr.low = 0) ∧
        (12416 * lim ≤ e → e ≤ 12800 * lim → t.mc = s.mc ∧ t.pwr.low = 0) ∧
        (e < 12416 * lim → low = 0 → t.mc = s.mc ∧ t.pwr.low = 1) ∧
        (e < 12416 * lim → 1 ≤ low → t.mc = min 52 (s.mc + 1) ∧ t.pwr.low = if s.mc = min 52 (s.mc + 1) then low + 1 else 0) ∧
        (bit (t.reg Reg.PWR_STATUS) 5 = (decide (12800 * lim < e) && s.mc == flo)) ∧
        t.reg Reg.PWR_OVER_CNT = if 12800 * lim < e ∧ s.mc = flo then (s.reg Reg.PWR_OVER_CNT + 1) % 2 ^ 32 else s.reg Reg.PWR_OVER_CNT) ∧
      (let soft := t.pwr.th.any (fun x => decide (x < 52))
       bit (t.reg Reg.PWR_STATUS) 6 = soft ∧
         t.reg Reg.PWR_THROT_CNT = if soft then (s.reg Reg.PWR_THROT_CNT + 1) % 2 ^ 32 else s.reg Reg.PWR_THROT_CNT) ∧
      (let below := mode == 1 && s.tableValid && decide (cap < tPMinW s.table)
       bit (t.reg Reg.PWR_STATUS) 4 = below ∧
         (below = true → bit (s.reg Reg.PWR_STATUS) 4 = false → s.evr.buffer.length < 4096 →
           ∃ r : EvRecord, t.evr.buffer = s.evr.buffer ++ [r] ∧ r.kind = 1 ∧ r.code = 0xFC1)) ∧
      RegsSide ([Reg.PWR_PKG, Reg.PWR_UNMETERED, Reg.PWR_STATUS, Reg.PWR_OVER_CNT, Reg.PWR_THROT_CNT] ++ (List.range 8).map Reg.PWR_METER) s t)) ∧
    (∀ v : VatNo,
      let regions := (List.range 16).filter (fun r => (loadSet r).contains v.val)
      let th := s.pwr.th.getD v 52
      let soft : Int := (16 * s.pwr.tsoft : Nat)
      (∀ r ∈ regions, soft ≤ s.temp r → s.nextCeiling v = if s.pwrMode < 2 then max (min th s.floor) (th - 1) else th) ∧
      ((∀ r ∈ regions, s.temp r < soft - 80) → s.nextCeiling v = min 52 (th + 1))) ∧
    -- multipliers
    (∀ v : VatNo, s.groupBoundary = true → s.pwr.raised.length = 8 →
      let m := s.mult v
      let hard := (List.range 16).any (fun r => s.regionHard r && (loadSet r).contains v.val)
      let goal := if hard then 16 else if 2 ≤ s.pwrMode then 39 else max s.floor (min s.mc (min (maxm v) (s.pwr.th.getD v 52)))
      let base := if m < s.floor then min s.floor goal else m
      let up := min (goal - base) (4 - s.pwr.raised.getD v 0)
      let got := if goal ≤ m then goal else base + up
      Answers (.multiplierApply v) s (fun t => Only [.regs, .pwr] s t ∧ t.mult v = got % 64 ∧ bits (t.reg (Reg.CLK_M v)) 31 6 = bits (s.reg (Reg.CLK_M v)) 31 6 ∧
        RegsBut [Reg.CLK_M v] s t ∧ t.pwr.raised.getD v 0 = s.pwr.raised.getD v 0 + if goal ≤ m then 0 else up)) ∧
    -- configuration
    (∀ w : BitVec 32,
      let ok := bits w.toNat 1 0 ≤ 2 ∧ 90 ≤ bits w.toNat 24 16 ∧ bits w.toNat 24 16 ≤ 450
      (ok → Answers (.pwrModeWrite w) s (fun t => Only [.regs] s t ∧ bits (t.reg Reg.PWR_MODE) 1 0 = bits w.toNat 1 0 ∧
        bits (t.reg Reg.PWR_MODE) 24 16 = bits w.toNat 24 16 ∧ RegsBut [Reg.PWR_MODE] s t)) ∧
      (¬ok → Answers (.pwrModeWrite w) s (fun t => Only [.regs] s t ∧ bit (t.reg Reg.PWR_ERR) errValue = true ∧ RegsBut [Reg.PWR_ERR] s t))) ∧
    (∀ (k : Fin 8) (w : BitVec 32), Answers (.pwrMeterCfgWrite k w) s (fun t => Only [.regs, .pwr] s t ∧ t.reg (Reg.PWR_METER k) = 0 ∧
      bit (t.reg (Reg.PWR_METER_CFG k)) 0 = bit w.toNat 0 ∧ bits (t.reg (Reg.PWR_METER_CFG k)) 7 4 = bits w.toNat 7 4 ∧
      RegsBut [Reg.PWR_METER k, Reg.PWR_METER_CFG k] s t ∧ t.pwr = { s.pwr with meters := listSet s.pwr.meters k 0 }))

/-- A droop is counted and swallows until 32 pulses after its release; a region's reading shows, and enters or leaves the hard state; a pair beyond the permitted difference counts once and its
sagging region swallows until every pair has been within the release limits for 1 ms; energy adds up (16 R417 to R423). That droop swallowing stops after its 32 pulses and that an
excursion lasts until swallowing ends are the model's readings (log entry 42). -/
def Obligations.DroopTemperatureAndEnergyAreWatched : Prop :=
  ∀ s : State, s.canonical = true → s.mainClk = true → s.pwr.droop.length = 8 → s.pwr.region.length = 8 →
    let steps := fun (k n : Nat) (t : State) => t.reg k = if n = 0 then s.reg k else (s.reg k + n) % 2 ^ 32
    (∀ v : VatNo,
      let d := s.pwr.droop.getD v ⟨false, false, 0, false⟩
      let now := fun (x : Droop) (t : State) => t.pwr = { s.pwr with droop := listSet s.pwr.droop v x }
      (d.asserted = false → Answers (.droopAssert v) s (fun t => Only [.regs, .pwr] s t ∧ now ⟨true, true, 32, d.active && d.second⟩ t ∧ steps (Reg.CLK_DROOP_CNT v) 1 t ∧
        bit (t.reg (Reg.CLK_M v)) 8 = true ∧ RegsBut [Reg.CLK_DROOP_CNT v, Reg.CLK_M v] s t)) ∧
      (d.asserted = true → Answers (.droopRelease v) s (fun t => Only [.pwr] s t ∧ now ⟨false, d.active, 32, d.second⟩ t)) ∧
      (d.active = true → d.asserted = false → d.left = 0 → Answers (.droopSwallowEnd v) s (fun t => Only [.regs, .pwr] s t ∧ now ⟨false, false, 0, false⟩ t ∧
        bit (t.reg (Reg.CLK_M v)) 8 = false ∧ RegsBut [Reg.CLK_M v] s t))) ∧
    (∀ temps : List (BitVec 16),
      let x := fun (r : Nat) => temps.getD r 0
      let lake := fun (r : Nat) => 11 ≤ r ∧ r ≤ 14 ∧ 1680 < (x r).toInt
      let enters := fun (r : Nat) => ((16 * tHard : Nat) : Int) ≤ (x r).toInt ∨ lake r
      let leaves := fun (r : Nat) => (x r).toInt < ((16 * (tHard - 10) : Nat) : Int) ∧ ¬lake r
      Answers (.thermalSample temps) s (fun t =>
        (∀ r : Fin 16, t.reg (Reg.PWR_TEMP r) = (x r).toNat) ∧
        (∀ r : Fin 16, t.regionHard r = true ↔ (s.regionHard r = true ∧ ¬leaves r) ∨ (s.regionHard r = false ∧ enters r)) ∧
        (∀ k : Fin 4,
          let hot := if 1680 < (x (11 + k)).toInt then true else if (x (11 + k)).toInt < 1600 then false else bit (s.reg (Reg.LAKE_STATUS k)) 1
          bit (t.reg (Reg.LAKE_STATUS k)) 1 = hot ∧ bit (t.reg (Reg.LAKE_STATUS k)) 2 = decide (1680 < (x (11 + k)).toInt)) ∧
        (∀ l, l = (List.range 16).filter (fun r => t.regionHard r && !s.regionHard r) →
          steps Reg.PWR_HARD_CNT l.length t ∧ steps (Reg.SAF_DOUBT_CNT 0x11) l.length t ∧ (l ≠ [] → bit (t.reg Reg.SAF_DOUBT) 0x11 = true)) ∧
        RegsSide ([Reg.PWR_STATUS, Reg.PWR_HARD_CNT] ++ (List.range 16).map Reg.PWR_TEMP ++ (List.range 4).map Reg.LAKE_STATUS) s t)) ∧
    Answers .regionDiffSample s (fun t =>
      let new := regionPairs.filter (fun p => s.beyond p && !s.pwr.exc.contains p)
      let w := fun (q : State) => bits (q.reg Reg.PWR_DIFF_MAX) 15 0
      let h := fun (q : State) => bits (q.reg Reg.PWR_DIFF_MAX) 31 16
      (∀ p ∈ regionPairs, s.beyond p = true → p ∈ t.pwr.exc ∧ bit (t.reg Reg.PWR_STATUS) 7 = true ∧
        ∀ v ∈ loadSet (s.sagging p), (t.pwr.region.getD v none).isSome = true) ∧
      (∀ v : VatNo, (s.pwr.region.getD v none).isSome = true ∨ (∀ p ∈ regionPairs, s.beyond p = true → v.val ∉ loadSet (s.sagging p)) →
        t.pwr.region.getD v none = s.pwr.region.getD v none ∧ t.reg (Reg.CLK_M v) = s.reg (Reg.CLK_M v)) ∧
      t.pwr.exc = s.pwr.exc ++ new ∧ steps Reg.PWR_EXCESS_CNT new.length t ∧
      w s ≤ w t ∧ (∀ p ∈ regionPairs, min 65535 (s.diffV p) ≤ w t) ∧ (w t = w s ∨ ∃ p ∈ regionPairs, w t = min 65535 (s.diffV p)) ∧
      h s ≤ h t ∧ (∀ p ∈ regionPairs, min 65535 (s.diffT p) ≤ h t) ∧ (h t = h s ∨ ∃ p ∈ regionPairs, h t = min 65535 (s.diffT p)) ∧
      t.pwr.within = (if regionPairs.all s.released then some (s.pwr.within.getD s.fclk) else none) ∧
      RegsSide ([Reg.PWR_DIFF_MAX, Reg.PWR_EXCESS_CNT, Reg.PWR_STATUS] ++ (List.range 8).map Reg.CLK_M) s t) ∧
    (∀ t0, s.pwr.within = some t0 → bit (s.reg Reg.PWR_STATUS) 7 = true → t0 + 1000000 ≤ s.fclk → Answers .regionSwallowEnd s (fun t => Only [.regs, .pwr] s t ∧
      bit (t.reg Reg.PWR_STATUS) 7 = false ∧ (∀ v : VatNo, bit (t.reg (Reg.CLK_M v)) 9 = false ∧ t.mult v = s.mult v) ∧ t.pwr = { s.pwr with
        exc := []
        region := List.replicate 8 none } ∧ RegsBut (Reg.PWR_STATUS :: (List.range 8).map Reg.CLK_M) s t)) ∧
    (∀ rails : List (BitVec 16 × BitVec 16), Answers (.energySample rails) s (fun t => Only [.regs] s t ∧
      t.reg Reg.PWR_ENERGY = (s.reg Reg.PWR_ENERGY + (rails.map (fun r => r.1.toNat * r.2.toNat)).sum * 256 / 10000) % 2 ^ 64 ∧
      (∀ r : Fin 11, t.reg (Reg.PWR_RAIL r) = (rails.getD r (0, 0)).1.toNat + 65536 * (rails.getD r (0, 0)).2.toNat) ∧
      RegsBut (Reg.PWR_ENERGY :: (List.range 11).map Reg.PWR_RAIL) s t))


/-! ### Mailboxes and firmware (17, 18) -/

/-- A doorbell hands the mailbox to firmware and what the host writes lands where the host owns it; a command in HALTED, without the right, or in a state that does not
admit it ends with INTERNAL, ROLE_DENIED or STATE_CONFLICT and no other effect; an opcode that Table 17.8 does not list ends with BAD_ARG (17 R428 to R431, R437 to
R439). Which conditions are checked before the arguments of a command, beside role and state, is the model's (log entry 44). -/
def Obligations.MailboxesAdmitCommandsByRoleAndState : Prop :=
  (∀ (c : Instr) (m op : Nat) (need : Need) (ok : Bool) (s : State), s.mailRow c = some (m, op, need, ok) → s.atHead m op = true → mapWf (0 : Byte) s.firm.mail = true →
    s.canonical = true → s.mainClk = true → (∀ x l, s.firm.bells.filter (fun y => y != m) = x :: l → listed (s.opcode x) = true) →
    let refused := fun (status : Nat) (t : State) => s.Done m status 0 [] t ∧ Only [.regs, .evr, .trace, .traceDrop, .msix, .firm] s t ∧ RegsSide [Reg.MBX_OWNER, Reg.MBX_DB_PEND] s t ∧
      t.firm = { s.firm with
        bells := t.firm.bells
        mail := t.firm.mail
        sessions := t.firm.sessions } ∧
      t.firm.sessions.map (fun e => (e.1, e.2.role)) = s.firm.sessions.map (fun e => (e.1, e.2.role))
    let stopped := s.fw = 7 ∧ op ≠ 1 ∧ op ≠ 2 ∧ op ≠ 0x11
    let right := holds (s.roleOf m) s.keep.lifecycle need
    (stopped → Answers c s (refused stInternal)) ∧
    (¬stopped → right = false → Answers c s (refused stRoleDenied)) ∧
    (¬stopped → right = true → ok = false ∨ (s.fw = 6 ∧ op ∉ [1, 2, 0x10, 0x11]) → Answers c s (refused stStateConflict))) ∧
  (∀ r l, holds r l .any = true ∧ holds r l .read = decide (r ≠ 0) ∧ holds r l .maker = decide (r = 3) ∧
    holds r l .installer = decide (r = 2 ∨ (r = 3 ∧ l = 0)) ∧ holds r l .operator = decide (r = 1 ∨ r = 2 ∨ (r = 3 ∧ l = 0))) ∧
  (∀ (m : Fin 16) (s : State), s.canonical = true → s.mainClk = true → mapWf (0 : Byte) s.firm.mail = true →
    (s.hostOwns m = false → Answers (.hostDoorbell m) s (fun t => Only [.firm] s t ∧ t.firm = { s.firm with hostErr := t.firm.hostErr } ∧
      ∀ i, bit t.firm.hostErr i = (bit s.firm.hostErr i || decide (i = m.val)))) ∧
    (s.hostOwns m = true → s.start.running = true → (∀ x l, s.firm.bells ++ [m.val] = x :: l → listed (s.opcode x) = true) →
      Answers (.hostDoorbell m) s (fun t => Only [.regs, .firm] s t ∧ t.firm.bells = s.firm.bells ++ [m.val] ∧ t.hostOwns m = false ∧ t.mailByte m 0xC = 1 ∧
        RegsBut [Reg.MBX_OWNER, Reg.MBX_DB_PEND] s t ∧ bit (t.reg Reg.MBX_DB_PEND) m = true ∧ ∀ x, x ≠ m.val → t.hostOwns x = s.hostOwns x)) ∧
    (s.hostOwns m = true → s.start.running = true → s.firm.bells = [] → s.fw ≠ 7 → listed (s.opcode m) = false →
      Answers (.hostDoorbell m) s (s.Done m stBadArg 0 []))) ∧
  (∀ (off : BitVec 17) (data : List Byte) (s : State), s.mainClk = true → mapWf (0 : Byte) s.firm.mail = true →
    let o := off.toNat
    let within := fun (a : Nat) => o ≤ a ∧ a < o + data.length
    let one := fun (base i : Nat) => decide (within (base + i / 8)) && bit (data.getD (base + i / 8 - o) 0).toNat (i % 8)
    Answers (.hostMailboxWrite off data) s (fun t => Only [.hostEvent, .firm] s t ∧
      (∀ (m : Fin 16) (p : Fin 4096), t.mailByte m p =
        if within (4096 * m.val + p.val) ∧ s.hostOwns m = true ∧ (p.val < 0xC ∨ 0x40 ≤ p.val) then data.getD (4096 * m.val + p.val - o) 0 else s.mailByte m p) ∧
      (∀ i, i < 32 → bit t.hostEvent i = (bit s.hostEvent i && (!one 0x10044 i || bit (s.setNow hostEventKey) i)) ∧
        bit t.firm.hostErr i = (bit s.firm.hostErr i && (!one 0x1004C i || bit (s.setNow hostErrKey) i)))))

/-- A challenge gives a nonce, a token that holds opens a session of its role and a failure counts towards the lockout; closing and expiry end it; identity, state, registers and
events are read and a snapshot is taken for the host (17 R432 to R435, R456, R460, Table 17.9; 18 R474). What a certificate says and which tokens verify are open constants, and
what counts as a failure is the model's (log entry 46). -/
def Obligations.SessionsOpenAndEndAndTheHostReads : Prop :=
  ∀ (m : Fin 16) (s : State), s.canonical = true → s.mainClk = true → mapWf (0 : Byte) s.firm.mail = true → mapWf 0 s.firm.fails = true →
    let a := s.args m
    let role := fieldLE a 4 1
    let key := fieldLE a 6 2
    let told := fun (ev role key : Nat) (t : State) => t.evr.buffer.length < 4096 → ∃ l r : EvRecord, ∃ p, t.evr.buffer = p ++ [l, r] ∧ l.kind = 3 ∧ l.mbox = m ∧
      l.detail = ev + 2 ^ 8 * role + 2 ^ 16 * (key % 65536)
    let others := fun (t : State) => ∀ x, x ≠ m.val → (t.session x).map (fun y => y.role) = (s.session x).map (fun y => y.role)
    -- sessions
    (∀ nonce : BitVec 256, s.Serves m 3 .any → s.fw ≠ 6 → s.inSession m = false →
      (s.lockedOut m = false → Answers (.sessionChallenge m nonce) s (fun t => s.Done m stDone 0 (toLE 32 nonce.toNat) t ∧
        t.firm.nonces = s.firm.nonces.filter (fun e => e.1 != m.val) ++ [(m.val, s.fclk, toLE 32 nonce.toNat)])) ∧
      (s.lockedOut m = true → Answers (.sessionChallenge m nonce) s (fun t => s.Done m stRoleDenied 0 [] t ∧ told 3 0 0xFFFF t ∧ t.firm.nonces = s.firm.nonces))) ∧
    (s.Serves m 4 .any → s.fw ≠ 6 →
      (tokenOk a = false → Answers (.sessionOpen m) s (s.Done m stBadArg 0 [])) ∧
      (tokenOk a = true → s.inSession m = false → s.tokenHolds m a = true → Answers (.sessionOpen m) s (fun t => s.Done m stDone 0 (toLE 4 role) t ∧
        t.session m = some ⟨role, key, a.drop 192, fieldLE a 0x38 4, s.fclk, s.fclk⟩ ∧ others t ∧ mapGet 0 t.firm.fails m = 0 ∧ told 1 role key t ∧
        t.firm.nonces = s.firm.nonces.filter (fun e => e.1 != m.val))) ∧
      (tokenOk a = true → s.inSession m = true ∨ s.tokenHolds m a = false →
        let n := mapGet 0 s.firm.fails m + 1
        Answers (.sessionOpen m) s (fun t => s.Done m stRoleDenied 0 [] t ∧ others t ∧ told 3 role key t ∧
          (n < 8 → mapGet 0 t.firm.fails m = n ∧ t.firm.lockout = s.firm.lockout) ∧
          (8 ≤ n → mapGet 0 t.firm.fails m = 0 ∧ t.lockedOut m = true ∧ (m.val, s.fclk + 10000000000) ∈ t.firm.lockout)))) ∧
    (s.Serves m 5 .any → s.fw ≠ 6 →
      Answers (.sessionClose m) s (fun t => s.Done m stDone 0 [] t ∧ t.session m = none ∧ others t ∧ ∀ x, s.session m = some x → told 2 x.role x.keyId t)) ∧
    (∀ x, s.session m = some x → x.opened + x.lifetime * 1000000000 ≤ s.fclk ∨ x.last + 600000000000 ≤ s.fclk →
      Answers (.sessionExpiry m) s (fun t => t.session m = none ∧ others t ∧ t.firm = { s.firm with sessions := t.firm.sessions } ∧
        (s.evr.buffer.length < 4096 → ∃ r : EvRecord, t.evr.buffer = s.evr.buffer ++ [r] ∧ r.kind = 3 ∧ r.mbox = m ∧ r.detail % 256 = 4))) ∧
    (s.lockedOut m = false → Answers (.sessionLockoutEnd m) s (fun t => Only [.firm] s t ∧
      t.firm = { s.firm with lockout := s.firm.lockout.filter (fun e => e.1 != m.val) })) ∧
    -- reads
    (s.identity.length = 128 ∧ fieldLE s.identity 0x21 1 = s.keep.lifecycle % 256 ∧ fieldLE s.identity 0x22 2 = s.firm.ver % 2 ^ 16 ∧
      fieldLE s.identity 0x24 4 = s.firm.build % 2 ^ 32 ∧ fieldLE s.identity 0x30 4 = s.evr.optime / 3600 % 2 ^ 32 ∧
      fieldLE s.identity 0x34 4 = s.evr.pcyc % 2 ^ 24) ∧
    (s.Serves m 1 .any → Answers (.identify m) s (s.Done m stDone 0 s.identity)) ∧
    (m.val = 0 → s.start.running = false → 0 ∈ s.firm.bells → s.opcode 0 = 1 → Answers (.identify m) s (s.Done m stDone 0 s.identity)) ∧
    (s.Serves m 2 .any → Answers (.getState m) s (s.Done m stDone 0
      (toLE 4 (s.reg Reg.SAF_DOUBT) ++ toLE 4 (s.reg Reg.RIND_DOUBT) ++ toLE 4 (s.reg Reg.FRT_ACTIVE_ID) ++ toLE 4 (s.reg Reg.FRT_ACTIVE_VER)))) ∧
    (s.Serves m 0x10 .read →
      let n := s.argLen m / 8
      let l := (List.range n).map (fun i => s.arg m (8 * i) 8)
      let ok := 1 ≤ n ∧ n ≤ 500 ∧ s.argLen m % 8 = 0 ∧ ∀ x ∈ l, regionOf x = .regs
      (¬ok → Answers (.regRead m) s (s.Done m stBadArg 0 [])) ∧
      (ok → Answers (.regRead m) s (fun t => ∃ r, r = ((s.takeBell m).mgmtReads l).2 ∧ r.length = n ∧ s.Done m stDone 0 (r.map (toLE 8)).flatten t))) ∧
    (∀ x l,
      let k := keyOfAddr x
      (s.mgmtReads (x :: l)).2 = (s.mgmtRead x).2 :: ((s.mgmtRead x).1.mgmtReads l).2 ∧
      (blockAssigned (keyBlk k) = false → (s.mgmtRead x).2 = 0 ∧ bit ((s.mgmtRead x).1.reg Reg.MBX_ERR) errUnmapped = true) ∧
      (blockAssigned (keyBlk k) = true → (rowAt k).isSome = true → (s.mgmtRead x).2 = s.readReg k)) ∧
    (s.Serves m 0x11 .read →
      let n := s.arg m 4 4
      (n = 0 ∨ 62 < n → Answers (.eventRead m) s (s.Done m stBadArg 0 [])) ∧
      (1 ≤ n → n ≤ 62 → ∀ b, b = s.takeBell m → ∀ r, r = State.readEvents n { b with evr := { b.evr with curF := s.arg m 0 4 } } →
        Answers (.eventRead m) s (fun t => r.2.length ≤ n ∧ s.Done m stDone 0
          (toLE 4 r.2.length ++ toLE 4 s.evr.oldestSeq ++ toLE 4 (s.evr.nextSeq + 0xFFFFFFFF) ++ toLE 4 (r.1.readReg Reg.EVR_OVW_CNT) ++ r.2.flatten) t))) ∧
    (s.Serves m 0x12 .read → s.fwIn [1, 2, 3, 4] = true →
      let n := (s.reg Reg.SNP_SEQ + 1) % 2 ^ 32
      (bit (s.reg Reg.SNP_CTRL) 0 = false → Answers (.snapshot m) s (s.Done m stStateConflict 0x11 [])) ∧
      (bit (s.reg Reg.SNP_CTRL) 0 = true → s.now.snap ≠ some s.fclk → Answers (.snapshot m) s (fun t => s.Done m stDone 0 (toLE 4 n) t ∧
        t.reg Reg.SNP_SEQ = n ∧ t.reg Reg.SNP_SRC = 8 ∧ RegsSide [Reg.MBX_OWNER, Reg.MBX_DB_PEND] s t)) ∧
      (bit (s.reg Reg.SNP_CTRL) 0 = true → s.now.snap = some s.fclk → Answers (.snapshot m) s (fun t => s.Done m stDone 0 (toLE 4 (s.reg Reg.SNP_SEQ)) t ∧
        t.reg Reg.SNP_SEQ = s.reg Reg.SNP_SEQ ∧ t.reg Reg.SNP_SRC = s.reg Reg.SNP_SRC ||| 8)))


/-- An asynchronous command is checked and accepted; COMMAND_COMPLETE takes it through its stages to its end: a manifest is verified and its image mapped, host data lands,
a table is validated and loaded, blocks go to Aquifer, a firmware image is staged, fuses are programmed upwards, and bucket lists are written (05 R148, R168; 07 R225, R226;
17 R430, R440 to R443, Table 17.8; 18 R472, R473, R490). Which resources a command holds, the packing of arguments and the order of bucket lists are the model's (log entries 44
and 48); signatures and digests' keys are open constants (log entry 46). -/
def Obligations.AsynchronousCommandsAreAcceptedAndCompleted : Prop :=
  ∀ (m : Fin 16) (s : State), s.canonical = true → s.mainClk = true → mapWf (0 : Byte) s.firm.mail = true →
    let arg := fun (o n : Nat) => s.arg m o n
    let room := s.mig.queue.length < 64
    let pushed := fun (q : State) (b : List Byte) (t : State) => t.mig = { q.mig with queue := q.mig.queue ++ [b] }
    let free := fun (op slot : Nat) => s.busy op slot = false
    -- acceptance
    (s.Serves m 0x102 .operator → s.isOpen = true → free 0x102 0 →
      let k := arg 12 4
      let ok := 1 ≤ arg 0 4 ∧ arg 0 4 ≤ 4 ∧ arg 4 8 < 2 ^ 31 ∧ k ≤ 1023 ∧ arg 16 4 ≤ 1
      (ok → Answers (.imageLoad m) s (s.Accepted m [k, arg 0 4, arg 4 8, arg 16 4, 0] [] none)) ∧
      (¬ok → Answers (.imageLoad m) s (s.Done m stBadArg 0 []))) ∧
    (s.Serves m 0x103 .operator → s.isOpen = true → free 0x103 0 →
      let k := arg 0 4
      let b := migBytes 2 0 k 0 (imgPages (s.imgEntry k)) (s.mailTag m)
      (k ≤ 1023 → room → Answers (.imageUnload m) s (fun t => s.Accepted m [k] [] none t ∧ pushed s b t)) ∧
      (k ≤ 1023 → ¬room → Answers (.imageUnload m) s (fun t => s.Done m stStateConflict 3 [] t ∧ t.mig = s.mig)) ∧
      (1023 < k → Answers (.imageUnload m) s (s.Done m stBadArg 0 []))) ∧
    (s.Serves m 0x204 .installer → s.isOpen = true → free 0x204 0 →
      (64 ≤ s.argLen m → room → Answers (.migCmd m) s (fun t => s.Accepted m [0, arg 0xC 4] [] none t ∧ pushed s ((s.args m).take 64) t)) ∧
      (s.argLen m < 64 → Answers (.migCmd m) s (fun t => s.Done m stBadArg 0 [] t ∧ t.mig = s.mig))) ∧
    (s.Serves m 0x104 .operator → s.isOpen = true →
      let shape := arg 0 4 ≤ 1 ∧ arg 4 4 ≤ 15 ∧ 1 ≤ arg 24 4 ∧ arg 24 4 ≤ 0x1000000
      let may := s.admits .hostDma (some (arg 4 4)) (if arg 0 4 = 1 then .r else .w) (arg 16 8) (arg 24 4)
      let own := arg 0 4 = 0 ∧ s.inCalTable (arg 16 8) (arg 24 4) = true ∧ holds (s.roleOf m) s.keep.lifecycle .installer = false
      (shape → own → Answers (.hostDma m) s (s.Done m stRoleDenied 0 [])) ∧
      (shape → ¬own → may = true → Answers (.hostDma m) s (s.Accepted m [arg 0 4, arg 4 4, arg 8 8, arg 16 8, arg 24 4] [] none)) ∧
      (shape → ¬own → may = false → Answers (.hostDma m) s (fun t => s.Done m stBadArg 0 [] t ∧
        t.reg (Reg.FRT_RC_DENY_CNT (clientOf .hostDma)) = (s.reg (Reg.FRT_RC_DENY_CNT (clientOf .hostDma)) + 1) % 2 ^ 32)) ∧
      (¬shape → Answers (.hostDma m) s (s.Done m stBadArg 0 []))) ∧
    (s.Serves m 0x202 .installer → s.isOpen = true →
      let n := arg 8 4
      (free 0x202 0 → s.switchPending = false → 1 ≤ n → n ≤ 0x400000 → Answers (.ftLoad m) s (s.Accepted m [0, arg 0 8, n] [] none)) ∧
      (s.busy 0x202 0 = true ∨ s.switchPending = true → Answers (.ftLoad m) s (s.Done m stStateConflict 2 []))) ∧
    (∀ c op, (c = Instr.storeWrite m ∧ op = 0x205) ∨ (c = .storeTrim m ∧ op = 0x206) → s.Serves m op .installer → s.isOpen = true → free op 0 →
      let ns := arg 0 4
      let lba := arg 4 8
      let n := arg 12 4
      let shape := 1 ≤ ns ∧ ns ≤ 4 ∧ 1 ≤ n ∧ (op = 0x205 → n ≤ 4096) ∧ lba + n ≤ 2 ^ 31
      (shape → s.blocksMapped ns lba n = false → Answers c s (s.Accepted m [0, ns, lba, n, arg 16 8] [] none)) ∧
      (shape → s.blocksMapped ns lba n = true → Answers c s (s.Done m stStateConflict 3 [])) ∧
      (¬shape → Answers c s (s.Done m stBadArg 0 []))) ∧
    (s.Serves m 0x300 .maker → s.fwIn [2, 4] = true → free 0x300 0 → 1 ≤ arg 8 4 → arg 8 4 ≤ 0x800000 →
      Answers (.fwStage m) s (s.Accepted m [0, arg 0 8, arg 8 4] [] none)) ∧
    (s.Serves m 0x302 .maker → s.fwIn [2] = true →
      let f := arg 0 4
      let v := arg 4 4
      let k := s.keep
      let allowed := (k.lifecycle = 0 ∨ (k.lifecycle = 1 ∧ f ∈ [2, 3, 4]) ∨ (k.lifecycle = 2 ∧ f ∈ [2, 3])) ∧ (f = 1 → k.rootKey = [])
      let ok := (f = 1 → 52 ≤ s.argLen m) ∧ (f = 2 → k.epoch ≤ v ∧ v ≤ 64) ∧ (f = 3 → k.svn ≤ v ∧ v ≤ 64) ∧ (f = 4 → v = 1 ∨ (v = 0 ∧ k.bootHost = false))
      (f = 0 ∨ 4 < f → Answers (.fuseProgram m) s (s.Done m stBadArg 0 [])) ∧
      (1 ≤ f → f ≤ 4 → ¬allowed → Answers (.fuseProgram m) s (s.Done m stStateConflict (65536 * f) [])) ∧
      (1 ≤ f → f ≤ 4 → allowed → ¬ok → Answers (.fuseProgram m) s (s.Done m stBadArg 0 [])) ∧
      (1 ≤ f → f ≤ 4 → allowed → ok → Answers (.fuseProgram m) s (s.Accepted m [0, f, v] ((s.args m).drop 4) none))) ∧
    (s.Serves m 0x105 .operator → s.fwIn [3] = true →
      let k := arg 0 4
      let n := (s.argLen m - 16) / 16
      let es := (List.range n).map (batchEntry (s.args m))
      (s.firm.images.find? (fun x => x.1 == k) = none → Answers (.batchSubmit m) s (s.Done m stBadArg 0 [])) ∧
      (∀ md, s.firm.images.find? (fun x => x.1 == k) = some (k, md) → free 0x105 k →
        (1 ≤ n → n ≤ 250 → (∀ e ∈ es, batchOk md e = true) → Answers (.batchSubmit m) s (s.Accepted m [k] es.flatten none)) ∧
        (∀ e ∈ es, batchOk md e = false → Answers (.batchSubmit m) s (s.Done m stBadArg 0 [])))) ∧
    -- completion
    (∀ (j : FwJob) (status : Nat) (data : List Byte), s.firm.jobs.find? (fun x => x.mbox == m.val) = some j →
      let c := Instr.commandComplete m status data
      let ended := fun (st d : Nat) (res : List Byte) (t : State) => s.Ended m st d res t ∧ t.firm.jobs = s.firm.jobs.filter (fun x => x.mbox != m.val)
      let goes := fun (j' : FwJob) (t : State) => t.firm.jobs = s.firm.jobs.map (fun x => if x.mbox = m.val then j' else x) ∧ t.reg Reg.MBX_OWNER = s.reg Reg.MBX_OWNER
      let k := j.args.getD 0 0
      let md := j.data
      let pages := mfPages md
      let got := fun (tag e : Nat) (u : State) => s.takeCpl tag = some (e, u)
      (s.fw = 7 → Answers c s (ended stInternal 0 [])) ∧
      (s.fw ≠ 7 →
        -- groups and workloads
        (∀ st d w, j.op ∈ [0x100, 0x101, 0x200] → j.ends = some (st, d, w) → Answers c s (fun t =>
          ended st d (if j.op = 0x200 ∧ st = stDone then toLE 4 k else []) t ∧
          (st = stDone → j.op ≠ 0x200 → ∀ x, s.workload k = some x → ∃ y, t.workload k = some y ∧ y.started = decide (j.op = 0x100)))) ∧
        -- IMAGE_LOAD
        (j.op = 0x102 → j.stage = 0 →
          (status ≠ 0 ∨ s.nvmeReady = false → Answers c s (ended stTierFault 0 [])) ∧
          (status = 0 → s.nvmeReady = true → s.manifestOk (sized data 4096) = false → Answers c s (ended stBadArg 0 [])) ∧
          (status = 0 → s.nvmeReady = true → s.manifestOk (sized data 4096) = true → Answers c s (fun t => Only [.firm] s t ∧ goes { j with
            stage := 1
            data := sized data 4096 } t))) ∧
        (j.op = 0x102 → j.stage = 1 → status = 0 → s.nvmeReady = true → s.firmMoves s.loadArea 1 false = true →
          let crcs := sized data (4 * pages)
          (sha384 crcs ≠ (md.drop 0x130).take 48 → Answers c s (fun t => ended stBadArg 0 [] t ∧ t.mem = s.mem)) ∧
          (sha384 crcs = (md.drop 0x130).take 48 → room → Answers c s (fun t => goes { j with stage := 2 } t ∧ t.mem = memStore s.mem s.loadArea crcs ∧
            ∃ b, pushed s b t ∧ mcOp b = 1 ∧ mcSlot b = k % 65536 ∧ mcCount b = pages % 2 ^ 32 ∧ mcTag b = j.tag % 2 ^ 32))) ∧
        (∀ e u, j.op = 0x102 → got j.tag e u →
          let next := fun (op stack n : Nat) (t : State) => goes { j with stage := n } t ∧ pushed s (migBytes op stack k 0 pages j.tag) t
          let home := if j.args.getD 3 0 = 1 then 0 else mfHome md
          (j.stage = 2 → bits e 7 0 ≠ 0 → Answers c s (ended (bits e 7 0) 0 [])) ∧
          (j.stage = 2 → bits e 7 0 = 0 → room → Answers c s (next (if j.args.getD 3 0 = 1 then 3 else 4) home 3)) ∧
          (j.stage = 3 → bits e 7 0 = 0 → mfPin md = true → room → Answers c s (next 5 0 4)) ∧
          (j.stage = 4 ∨ (j.stage = 3 ∧ mfPin md = false) → bits e 7 0 = 0 → Answers c s (fun t =>
            ended stDone 0 ((md.drop 4).take 8 ++ (md.drop 0x20).take 8) t ∧ (k, md) ∈ t.firm.images)) ∧
          (j.stage = 3 ∨ j.stage = 4 → bits e 7 0 ≠ 0 → room → Answers c s (fun t => goes { j with
            stage := 5
            args := j.args.take 4 ++ [bits e 7 0] } t ∧ pushed s (migBytes 6 0 k 0 pages j.tag) t)) ∧
          (j.stage = 5 → room → Answers c s (next 2 0 6)) ∧
          (j.stage = 6 → Answers c s (ended (j.args.getD 4 0) 0 []))) ∧
        -- IMAGE_UNLOAD and MIG_CMD
        (∀ e u, j.op = 0x103 → got j.tag e u → Answers c s (fun t => ended (bits e 7 0) 0 [] t ∧
          t.firm.images = if bits e 7 0 = 0 then s.firm.images.filter (fun x => x.1 != k) else s.firm.images)) ∧
        (∀ e u, j.op = 0x204 → got (j.args.getD 1 0) e u → Answers c s (ended (bits e 7 0) 0 (toLE 8 e))) ∧
        -- HOST_DMA
        (j.op = 0x104 →
          let a := j.args.getD 3 0
          let n := j.args.getD 4 0
          (status ≠ 0 → Answers c s (ended stTierFault 0 [])) ∧
          (status = 0 → k ≠ 1 → s.owns .hostDma (pathRows .hostDma (extentRegion a n) false) = true →
            Answers c s (fun t => ended stDone 0 [] t ∧ t.mem = memStore s.mem a (sized data n))) ∧
          (status = 0 → k = 1 → s.owns .hostDma (pathRows .hostDma (extentRegion a n) true) = true →
            (s.poisoned a n = true → Answers c s (fun t => ended stTierFault 0 [] t ∧ t.firm.hostOut = s.firm.hostOut)) ∧
            (s.poisoned a n = false → Answers c s (fun t => ended stDone 0 [] t ∧ t.mem = s.mem ∧
              t.firm.hostOut = s.firm.hostOut ++ [(j.args.getD 2 0, s.bytes a n)])))) ∧
        -- FT_LOAD
        (j.op = 0x202 →
          let n := j.args.getD 2 0
          let put := s.store s.loadArea (sized data n)
          (j.stage = 0 → status ≠ 0 → s.firmMoves s.loadArea n false = true → Answers c s (ended stTierFault 0 [])) ∧
          (∀ q i, j.stage = 0 → status = 0 → s.firmMoves s.loadArea n false = true → put.poisoned s.loadArea n = false →
            put.validate (put.bytes s.loadArea n) = some (q, i) → Answers c s (fun t => ended stBadArg (q + 2 ^ 8 * i) [] t ∧ t.mem = put.mem ∧ t.frt = s.frt)) ∧
          (∀ u, j.stage = 0 → status = 0 → s.firmMoves s.loadArea n false = true → put.loadTable n = .inl u → Answers c s (fun t => t = u.setJob { j with stage := 1 })) ∧
          (j.stage = 1 → s.frt.load = none → s.regBits Reg.FRT_STATUS 15 8 = 0 →
            Answers c s (ended stDone 0 (toLE 4 s.idleBank ++ toLE 4 (hdr s.nextTable 8 4) ++ toLE 4 (hdr s.nextTable 0xC 4)))) ∧
          (j.stage = 1 → s.frt.load = none → s.regBits Reg.FRT_STATUS 15 8 ≠ 0 →
            Answers c s (ended (if s.regBits Reg.FRT_STATUS 15 8 = 4 then stTierFault else stBadArg) 0 []))) ∧
        -- STORE_WRITE and STORE_TRIM
        (j.op = 0x205 ∨ j.op = 0x206 → s.noWrites = false → s.nvmeReady = true →
          let ns := j.args.getD 1 0
          let lba := j.args.getD 2 0
          let n := j.args.getD 3 0
          s.blocksMapped ns lba n = false → Answers c s (fun t => ended (if status = 0 then stDone else stTierFault) 0 [] t ∧
            t.mig = { s.mig with aqSent := s.mig.aqSent ++ [(ns, lba, n, if j.op = 0x205 then some (sized data (4096 * n)) else none)] })) ∧
        -- RESET of a partition, FW_STAGE, FUSE_PROGRAM
        (j.op = 0x20A → (∀ r ∈ s.frt.resets, r.mbox ≠ some m.val) → Answers c s (ended stDone 0 [])) ∧
        (j.op = 0x300 →
          let l := sized data (j.args.getD 2 0)
          (status ≠ 0 ∨ s.imageRefused l ≠ 0 → Answers c s (fun t => ended stBadArg 0 [] t ∧ t.keep = s.keep)) ∧
          (status = 0 → s.imageRefused l = 0 → Answers c s (fun t => ended stDone 0 (toLE 4 (fieldLE l 4 2)) t ∧ t.keep.staged = true ∧
            t.nor (slotOffset (1 - s.activeSlot)) = l ∧ t.nor (slotOffset s.activeSlot) = s.nor (slotOffset s.activeSlot)))) ∧
        (j.op = 0x302 →
          let f := j.args.getD 1 0
          let v := j.args.getD 2 0
          (f = 1 → s.keep.rootKey ≠ [] → Answers c s (fun t => ended stStateConflict 65536 [] t ∧ t.keep = s.keep)) ∧
          (f = 1 → s.keep.rootKey = [] → Answers c s (fun t => ended stDone 0 [] t ∧ t.keep = { s.keep with rootKey := j.data.take 48 })) ∧
          (f = 2 → Answers c s (fun t => ended stDone 0 [] t ∧ t.keep = { s.keep with epoch := max s.keep.epoch v } ∧
            ∀ x ∈ t.firm.sessions, t.certOk x.2.cert = true)) ∧
          (f = 3 → Answers c s (fun t => ended stDone 0 [] t ∧ t.keep = { s.keep with svn := max s.keep.svn v })) ∧
          (f = 4 → Answers c s (fun t => ended stDone 0 [] t ∧ t.keep = { s.keep with bootHost := s.keep.bootHost || v == 1 }))) ∧
        -- HANDBACK
        (j.op = 0x106 →
          (∀ st d w, j.ends = some (st, d, w) → Answers c s (ended st d [])) ∧
          (j.ends = none → j.stage = 0 → s.auth = .handbackPending → s.fbx.hbAcc = true → Answers c s (fun t => goes { j with stage := 1 } t ∧ t.fbx.hbGo = true)) ∧
          (j.ends = none → s.auth = .main → Answers c s (ended stDone 0 []))) ∧
        -- BATCH_SUBMIT: one bucket list
        (∀ x, j.op = 0x105 → s.firm.images.find? (fun y => y.1 == k) = some x →
          let i := j.stage
          let v := mfVat x.2 i
          let side := if s.cellSeen v (mfCell x.2 i) = 0 then 1 else 0
          let a := pondAddr v (mfList x.2 i side)
          let old := s.batch (16 * k + i)
          let new := ((List.range (md.length / 16)).map (fun y => (md.drop (16 * y)).take 16)).filter (fun e => bucketFor e == mfB x.2 i)
          let all := old.carried ++ new.foldr batchInsert []
          let put := all.take (mfMax x.2)
          let rest := all.drop (mfMax x.2)
          let args := j.args ++ [put.length, rest.length]
          (mfBuckets x.2 ≤ i → Answers c s (ended stDone 0 [])) ∧
          (i < mfBuckets x.2 → s.cellFree v (mfCell x.2 i) 5 = true → s.listFree v old.since = true → s.firmMoves a 1 false = true → Answers c s (fun t =>
            t.mem = memStore s.mem a (bucketList (mfB x.2 i) put) ∧ t.cell v (mfCell x.2 i) = side ∧ (t.batch (16 * k + i)).carried = rest ∧
            (i + 1 = mfBuckets x.2 → ended stDone 0 ((args.drop 1).map (toLE 4)).flatten t) ∧
            (i + 1 < mfBuckets x.2 → goes { j with
              stage := i + 1
              args := args } t))))))


/-- Groups are submitted, withdrawn and run for workloads; the authority is asked for; the relay is set up; keys enter and leave the store; a staged image is activated; the lifecycle goes
up by one; an error of firmware halts it (15 R404; 17 R432, R437, R443 to R447, R449, Table 17.8; 18 R472, R489, R490). The packing of arguments and when a group's
commit point can be had are the model's (log entry 44); what a certificate says is an open constant (log entry 46). -/
def Obligations.CommandsOnGroupsKeysAndAuthorityAct : Prop :=
  ∀ (m : Fin 16) (s : State), s.canonical = true → mapWf (0 : Byte) s.firm.mail = true →
    let arg := fun (o n : Nat) => s.arg m o n
    let a := s.args m
    let role := s.roleOf m
    let submitted := fun (l : List Byte) (tag : Nat) (args : List Nat) (c : Instr) =>
      (∀ x, s.submit l tag = .inl x → Answers c s (fun t => s.Done m x.1 x.2 [] t ∧ t.cg = s.cg)) ∧
      (∀ u id k, s.submit l tag = .inr (u, id, k) → Answers c s (fun t => s.Accepted m (args ++ [k]) [] (some id) t ∧ t.cg = u.cg ∧ ∃ g ∈ t.cg.pending, g.id = id ∧ g.slot = k))
    -- groups
    (s.Serves m 0x200 .installer → s.isOpen = true → submitted a role [] (.cgSubmit m)) ∧
    (∀ (l : List Byte) (tag : Nat),
      (groupShape l = false → s.submit l tag = .inl (stBadArg, 0)) ∧
      (∀ i, groupShape l = true → i < fieldLE l 0 1 → (∀ j, j < i → entryBadArg l j = false ∧ s.entryRoleBad tag (groupEntry l j) = false) →
        (entryBadArg l i = true → s.submit l tag = .inl (stBadArg, i)) ∧
        (entryBadArg l i = false → s.entryRoleBad tag (groupEntry l i) = true → s.submit l tag = .inl (stRoleDenied, i))) ∧
      (groupShape l = true → s.submitCheck l tag = none → s.pointBad l = true → s.submit l tag = .inl (stBadArg, 0)) ∧
      (groupShape l = true → s.submitCheck l tag = none → s.pointBad l = false → (∀ k, k < 8 → s.slotFree k = false) → s.submit l tag = .inl (stNoSpace, 0)) ∧
      (∀ k, groupShape l = true → s.submitCheck l tag = none → s.pointBad l = false → k < 8 → s.slotFree k = true → (∀ j, j < k → s.slotFree j = false) →
        ∃ u, s.submit l tag = .inr (u, s.cg.next, k))) ∧
    (s.Serves m 0x201 .installer → s.isOpen = true →
      let it := s.cg.pending.find? (fun g => g.gtag == arg 0 4 && g.commit == none)
      (it = none → Answers (.cgCancel m) s (fun t => s.Done m stStateConflict 1 [] t ∧ t.cg = s.cg)) ∧
      (∀ g, it = some g → Answers (.cgCancel m) s (fun t => s.Done m stDone 0 [] t ∧ t.cg.pending = s.cg.pending.filter (fun x => x.id != g.id) ∧
        ∀ j ∈ s.firm.jobs, j.group = some g.id → ∃ i ∈ t.firm.jobs, i.mbox = j.mbox ∧ i.op = j.op ∧ i.group = none ∧
          ∃ d w, i.ends = some (stStateConflict, d, w)))) ∧
    -- workloads
    (s.Serves m 0x203 .installer → s.isOpen = true →
      let w := fieldLE a 0 4
      let g := a.drop 4
      let h := g.drop (groupLen g)
      let started := ∃ x, s.workload w = some x ∧ x.started = true
      (63 < w → Answers (.workloadDefine m) s (s.Done m stBadArg 0 [])) ∧
      (w ≤ 63 → started → Answers (.workloadDefine m) s (s.Done m stStateConflict (65536 * w) [])) ∧
      (w ≤ 63 → ¬started → groupShape g = false ∨ groupShape h = false → Answers (.workloadDefine m) s (s.Done m stBadArg 0 [])) ∧
      (w ≤ 63 → ¬started → groupShape g = true → groupShape h = true → Answers (.workloadDefine m) s (fun t => s.Done m stDone 0 [] t ∧
        t.workload w = some ⟨g.take (groupLen g), h.take (groupLen h), role, false⟩ ∧ ∀ x, x ≠ w → t.workload x = s.workload x))) ∧
    (∀ c op, (c = Instr.workloadStart m ∧ op = 0x100 ∧ s.fwIn [3] = true) ∨ (c = .workloadStop m ∧ op = 0x101 ∧ s.fwIn [3, 4] = true) → s.Serves m op .operator →
      let w := arg 0 4
      (63 < w ∨ s.workload w = none → Answers c s (s.Done m stBadArg 0 [])) ∧
      (∀ x, w ≤ 63 → s.workload w = some x → submitted (if op = 0x100 then x.start else x.stop) x.role [w] c)) ∧
    -- the authority and the relay
    (s.Serves m 0x106 .operator → s.fwIn [2, 3, 4] = true → s.auth ≠ .fallback → Answers (.handback m) s (fun t =>
      s.Done m stStateConflict 0x40 [] t ∧ t.auth = s.auth ∧ t.fbx = s.fbx)) ∧
    (s.Serves m 0x106 .operator → s.auth = .fallback → s.fwIn [2, 3, 4] = true → s.reg Reg.SAF_DOUBT < 2 ^ 32 → s.setNow Reg.SAF_DOUBT = 0 →
      (s.safe = true → Answers (.handback m) s (fun t => s.Done m stStateConflict 0x41 [] t ∧ t.auth = .fallback)) ∧
      (s.safe = false → Answers (.handback m) s (fun t => s.Accepted m [] [] none t ∧ t.auth = .handbackPending ∧ t.reg Reg.SAF_DOUBT = 0 ∧
        t.reg Reg.RIND_DOUBT = s.reg Reg.RIND_DOUBT ∧ t.fbx = { s.fbx with
          hbReqT := some s.rclk
          hbGo := false
          hbAcc := false }))) ∧
    (s.Serves m 0x207 .installer → s.isOpen = true → s.auth ≠ .main → Answers (.fbRelay m) s (fun t =>
      s.Done m stStateConflict 0x40 [] t ∧ t.firm.relay = s.firm.relay)) ∧
    (s.Serves m 0x207 .installer → s.isOpen = true → s.auth = .main →
      let shape := arg 24 4 ≤ 1 ∧ hubBuffer (arg 0 8) = true ∧ hubBuffer (arg 8 8) = true ∧ cellAligned (arg 16 8) = true
      (shape → Answers (.fbRelay m) s (fun t => s.Done m stDone 0 [] t ∧ t.firm.relay = { s.firm.relay with
          en := arg 24 4 == 1
          buf0 := arg 0 8
          buf1 := arg 8 8
          ready := arg 16 8
          seen := s.cellAt (arg 16 8) })) ∧
      (¬shape → Answers (.fbRelay m) s (fun t => s.Done m stBadArg 0 [] t ∧ t.firm.relay = s.firm.relay))) ∧
    -- keys, images and the lifecycle
    (let r := Config.certRole a
     let count := (s.keep.keys.filter (fun c => Config.certRole c == r)).length
     let good := (r = 1 ∧ s.operatorCertOk a = true) ∨ (r = 2 ∧ s.rootCertOk a = true)
     let id := toLE 4 (Config.certKey a).toNat
     s.Serves m 0x208 (if r = 2 then .maker else .installer) → s.fwIn [2, 4] = true →
      (¬good → Answers (.keyAdd m) s (fun t => s.Done m stBadArg 0 [] t ∧ t.keep = s.keep)) ∧
      (good → a ∈ s.keep.keys → Answers (.keyAdd m) s (fun t => s.Done m stDone 0 id t ∧ t.keep = s.keep)) ∧
      (good → a ∉ s.keep.keys → (if r = 1 then 16 else 8) ≤ count → Answers (.keyAdd m) s (fun t => s.Done m stNoSpace 0 [] t ∧ t.keep = s.keep)) ∧
      (good → a ∉ s.keep.keys → count < (if r = 1 then 16 else 8) → Answers (.keyAdd m) s (fun t => s.Done m stDone 0 id t ∧
        t.keep = { s.keep with keys := s.keep.keys ++ [a] }))) ∧
    (let named := fun (c : List Byte) => (Config.certKey c).toNat == arg 0 4
     s.Serves m 0x209 (if s.keep.keys.any (fun c => named c && Config.certRole c == 2) then .maker else .installer) → s.fwIn [2, 4] = true →
      ((∀ c ∈ s.keep.keys, named c = false) → Answers (.keyRemove m) s (fun t => s.Done m stBadArg 0 [] t ∧ t.keep = s.keep)) ∧
      (∀ c ∈ s.keep.keys, named c = true → Answers (.keyRemove m) s (fun t => s.Done m stDone 0 [] t ∧
        t.keep = { s.keep with keys := s.keep.keys.filter (fun c => !named c) } ∧ ∀ x ∈ t.firm.sessions, t.certOk x.2.cert = true))) ∧
    (s.Serves m 0x301 .maker → s.fwIn [2, 4] = true → s.keep.staged = true → Answers (.fwActivate m) s (fun t => s.Done m stDone 0 [] t ∧
      t.keep.staged = false ∧ t.activeSlot = 1 - s.activeSlot ∧ ∀ o, o ≠ 0 → t.nor o = s.nor o)) ∧
    (s.Serves m 0x303 .maker → s.fwIn [2] = true →
      let x := arg 0 4
      let ready := (x = 1 ∧ s.keep.rootKey ≠ [] ∧ s.installers ≠ []) ∨ (x = 2 ∧ ∃ c, s.startConfig = some c ∧ s.configOk c = true)
      (x = s.keep.lifecycle + 1 → ready → Answers (.lifecycleAdvance m) s (fun t => s.Done m stDone 0 [] t ∧ t.keep = { s.keep with lifecycle := x } ∧
        bits (t.reg Reg.MBX_STATE) 17 16 = x)) ∧
      (x ≠ s.keep.lifecycle + 1 ∨ ¬ready → Answers (.lifecycleAdvance m) s (fun t => s.Done m stStateConflict 0 [] t ∧ t.keep = s.keep))) ∧
    (s.mainClk = true → s.start.running = true → s.fw ≠ 1 → s.fw ≠ 7 → Answers .firmwareInternalError s (fun t => t.fw = 7 ∧ RegsSide [] s t ∧
      (s.evr.buffer.length < 4096 → ∃ r : EvRecord, t.evr.buffer = s.evr.buffer ++ [r] ∧ r.kind = 2 ∧ r.detail = stInternal)))
end

