-- ==== Sys2Proof/Laws/Bits.lean ====
section
/-! SUPPORT. Bit fields of numbers: what writing a field changes and what it leaves, and how large a little-endian number can be. -/

namespace Sys2Proof.Machine

theorem putBits_eq (n hi lo v : Nat) : putBits n hi lo v = 2 ^ lo * (2 ^ (hi + 1 - lo) * (n >>> lo >>> (hi + 1 - lo)) + v % 2 ^ (hi + 1 - lo)) + n % 2 ^ lo := by
  unfold putBits bits
  simp only [Nat.shiftRight_eq_div_pow]
  generalize 2 ^ lo = p
  generalize 2 ^ (hi + 1 - lo) = q
  have e1 := Nat.div_add_mod n p
  have e2 := Nat.div_add_mod (n / p) q
  have e3 : n / p * p = (q * (n / p / q)) * p + n / p % q * p := by
    conv => lhs; rw [← e2]
    rw [Nat.add_mul]
  rw [Nat.mul_comm] at e1
  rw [Nat.mul_add, Nat.mul_comm p (v % q), Nat.mul_comm p (q * _)]
  omega

/-- Bit j after field [hi:lo] is set to v. -/
theorem testBit_putBits (n hi lo v j : Nat) (h : lo ≤ hi) :
    (putBits n hi lo v).testBit j = if lo ≤ j ∧ j ≤ hi then v.testBit (j - lo) else n.testBit j := by
  rw [putBits_eq, Nat.testBit_two_pow_mul_add _ (Nat.mod_lt _ (Nat.two_pow_pos _)), Nat.testBit_two_pow_mul_add _ (Nat.mod_lt _ (Nat.two_pow_pos _))]
  by_cases h1 : j < lo
  · rw [if_pos h1, if_neg (by omega), Nat.testBit_mod_two_pow]
    simp [h1]
  · rw [if_neg h1]
    by_cases h2 : j ≤ hi
    · rw [if_pos (by omega), if_pos ⟨by omega, h2⟩, Nat.testBit_mod_two_pow]
      simp only [Bool.and_eq_right_iff_imp, decide_eq_true_eq]
      omega
    · rw [if_neg (by omega), if_neg (by omega), Nat.testBit_shiftRight, Nat.testBit_shiftRight]
      congr 1
      omega

theorem testBit_bits (n hi lo j : Nat) : (bits n hi lo).testBit j = (decide (j < hi + 1 - lo) && n.testBit (lo + j)) := by
  unfold bits
  rw [Nat.testBit_mod_two_pow, Nat.testBit_shiftRight]

/-- A field apart from the one written reads as before. -/
theorem bits_putBits_other (n hi lo v a b : Nat) (h : lo ≤ hi) (hd : a < lo ∨ hi < b) : bits (putBits n hi lo v) a b = bits n a b := by
  refine Nat.eq_of_testBit_eq (fun j => ?_)
  rw [testBit_bits, testBit_bits, testBit_putBits n hi lo v _ h]
  by_cases hj : j < a + 1 - b
  · rw [if_neg (by omega)]
  · simp [hj]

theorem bit_putBits_other (n hi lo v i : Nat) (h : lo ≤ hi) (hd : i < lo ∨ hi < i) : bit (putBits n hi lo v) i = bit n i := by
  unfold bit
  rw [testBit_putBits n hi lo v i h, if_neg (by omega)]

theorem bit_putBit (n i : Nat) (b : Bool) : bit (putBit n i b) i = b := by
  unfold bit putBit
  rw [testBit_putBits _ _ _ _ _ (Nat.le_refl i), if_pos ⟨Nat.le_refl i, Nat.le_refl i⟩, Nat.sub_self]
  cases b <;> rfl

theorem bit_putBit_other (n i j : Nat) (b : Bool) (h : j ≠ i) : bit (putBit n i b) j = bit n j := bit_putBits_other n i i _ j (Nat.le_refl i) (by omega)

theorem bits_putBit_other (n i a b : Nat) (c : Bool) (h : a < i ∨ i < b) : bits (putBit n i c) a b = bits n a b :=
  bits_putBits_other n i i _ a b (Nat.le_refl i) (by omega)

theorem fromLE_lt (l : List Byte) : fromLE l < 256 ^ l.length := by
  induction l with
  | nil => exact Nat.one_pos
  | cons b r ih =>
    have : b.toNat < 256 := b.isLt
    simp only [fromLE, List.length_cons, Nat.pow_succ]
    omega

/-- A field of n bytes is below 256 to the n. -/
theorem fieldLE_lt (l : List Byte) (o n : Nat) : fieldLE l o n < 256 ^ n :=
  Nat.lt_of_lt_of_le (fromLE_lt _) (Nat.pow_le_pow_right (by omega) (by rw [List.length_take]; omega))

end Sys2Proof.Machine
end

