-- ==== Sys2Proof/Laws/Maps.lean ====
section
/-! SUPPORT. Sparse maps: what reads see after a write, and that every operation keeps the canonical form. -/

namespace Sys2Proof.Machine

/-- Every key of m is above k. -/
def keysAbove {α : Type} (k : Nat) (m : List (Nat × α)) : Prop := ∀ e ∈ m, k < e.1

theorem keysRise_cons {α : Type} {j : Nat} {v : α} {m : List (Nat × α)} : keysRise ((j, v) :: m) = true ↔ keysAbove j m ∧ keysRise m = true := by
  induction m generalizing j v with
  | nil => simp [keysRise, keysAbove]
  | cons e l ih =>
    obtain ⟨k, w⟩ := e
    constructor
    · intro h
      simp only [keysRise, Bool.and_eq_true, decide_eq_true_eq] at h
      refine ⟨?_, h.2⟩
      intro x hx
      rcases List.mem_cons.1 hx with rfl | hx
      · exact h.1
      · exact Nat.lt_trans h.1 ((ih.1 h.2).1 x hx)
    · intro h
      simp only [keysRise, Bool.and_eq_true, decide_eq_true_eq]
      exact ⟨h.1 (k, w) (List.mem_cons_self ..), h.2⟩

theorem keysRise_nil {α : Type} : keysRise ([] : List (Nat × α)) = true := rfl

theorem mem_mapErase {α : Type} {m : List (Nat × α)} {k : Nat} {e : Nat × α} (h : e ∈ mapErase m k) : e ∈ m := by
  induction m with
  | nil => exact h
  | cons x l ih =>
    obtain ⟨j, w⟩ := x
    unfold mapErase at h
    split at h
    · exact List.mem_cons_of_mem _ h
    · rcases List.mem_cons.1 h with rfl | h
      · exact List.mem_cons_self ..
      · exact List.mem_cons_of_mem _ (ih h)

theorem mem_mapInsert {α : Type} {m : List (Nat × α)} {k : Nat} {v : α} {e : Nat × α} (h : e ∈ mapInsert m k v) : e = (k, v) ∨ e ∈ m := by
  induction m with
  | nil => simpa [mapInsert] using h
  | cons x l ih =>
    obtain ⟨j, w⟩ := x
    unfold mapInsert at h
    split at h
    · exact List.mem_cons.1 h
    · split at h
      · rcases List.mem_cons.1 h with h | h
        · exact .inl h
        · exact .inr (List.mem_cons_of_mem _ h)
      · rcases List.mem_cons.1 h with h | h
        · exact .inr (h ▸ List.mem_cons_self ..)
        · rcases ih h with h | h
          · exact .inl h
          · exact .inr (List.mem_cons_of_mem _ h)

theorem keysRise_mapErase {α : Type} {m : List (Nat × α)} {k : Nat} (h : keysRise m = true) : keysRise (mapErase m k) = true := by
  induction m with
  | nil => exact h
  | cons x l ih =>
    obtain ⟨j, w⟩ := x
    have hc := keysRise_cons.1 h
    unfold mapErase
    split
    · exact hc.2
    · exact keysRise_cons.2 ⟨fun e he => hc.1 e (mem_mapErase he), ih hc.2⟩

theorem keysRise_mapInsert {α : Type} {m : List (Nat × α)} {k : Nat} {v : α} (h : keysRise m = true) : keysRise (mapInsert m k v) = true := by
  induction m with
  | nil => rfl
  | cons x l ih =>
    obtain ⟨j, w⟩ := x
    have hc := keysRise_cons.1 h
    unfold mapInsert
    split
    next hk => exact keysRise_cons.2 ⟨fun e he => by
      rcases List.mem_cons.1 he with rfl | he
      · exact hk
      · exact Nat.lt_trans hk (hc.1 e he), h⟩
    next hk =>
      split
      next he => exact keysRise_cons.2 ⟨fun e hx => he ▸ hc.1 e hx, hc.2⟩
      next he =>
        refine keysRise_cons.2 ⟨fun e hx => ?_, ih hc.2⟩
        rcases mem_mapInsert hx with rfl | hx
        · simp only; omega
        · exact hc.1 e hx

theorem mapWf_iff {α : Type} [DecidableEq α] {d : α} {m : List (Nat × α)} :
    mapWf d m = true ↔ keysRise m = true ∧ ∀ e ∈ m, e.2 ≠ d := by
  simp [mapWf]

/-- Writing keeps the canonical form. -/
theorem mapWf_mapSet {α : Type} [DecidableEq α] {d : α} {m : List (Nat × α)} {k : Nat} {v : α} (h : mapWf d m = true) :
    mapWf d (mapSet d m k v) = true := by
  rw [mapWf_iff] at h ⊢
  unfold mapSet
  split
  · exact ⟨keysRise_mapErase h.1, fun e he => h.2 e (mem_mapErase he)⟩
  next hv =>
    refine ⟨keysRise_mapInsert h.1, fun e he => ?_⟩
    rcases mem_mapInsert he with rfl | he
    · exact hv
    · exact h.2 e he

theorem mapWf_nil {α : Type} [DecidableEq α] {d : α} : mapWf d ([] : List (Nat × α)) = true := rfl

theorem keysRise_filter {α : Type} {m : List (Nat × α)} {p : Nat × α → Bool} (h : keysRise m = true) : keysRise (m.filter p) = true := by
  induction m with
  | nil => exact h
  | cons x l ih =>
    obtain ⟨j, w⟩ := x
    have hc := keysRise_cons.1 h
    rw [List.filter_cons]
    split
    · exact keysRise_cons.2 ⟨fun e he => hc.1 e (List.mem_filter.1 he).1, ih hc.2⟩
    · exact ih hc.2

theorem mapWf_filter {α : Type} [DecidableEq α] {d : α} {m : List (Nat × α)} {p : Nat × α → Bool} (h : mapWf d m = true) :
    mapWf d (m.filter p) = true := by
  rw [mapWf_iff] at h ⊢
  exact ⟨keysRise_filter h.1, fun e he => h.2 e (List.mem_filter.1 he).1⟩

theorem mapGet_of_keysAbove {α : Type} {d : α} {m : List (Nat × α)} {k : Nat} (h : keysAbove k m) : mapGet d m k = d := by
  induction m with
  | nil => rfl
  | cons x l ih =>
    obtain ⟨j, w⟩ := x
    have hj : k < j := h (j, w) (List.mem_cons_self ..)
    unfold mapGet
    rw [if_neg (by omega)]
    exact ih (fun e he => h e (List.mem_cons_of_mem _ he))

theorem mapGet_mapErase {α : Type} {d : α} {m : List (Nat × α)} {k j : Nat} (h : keysRise m = true) :
    mapGet d (mapErase m k) j = if j = k then d else mapGet d m j := by
  induction m with
  | nil => simp [mapErase, mapGet]
  | cons x l ih =>
    obtain ⟨i, w⟩ := x
    have hc := keysRise_cons.1 h
    unfold mapErase
    split
    next hi =>
      split
      next hj => exact mapGet_of_keysAbove (fun e he => by have := hc.1 e he; omega)
      next hj => simp only [mapGet]; rw [if_neg (by omega)]
    next hi =>
      simp only [mapGet]
      split
      next hij => rw [if_neg (by omega)]
      next hij => exact ih hc.2

theorem mapGet_mapInsert {α : Type} {d : α} {m : List (Nat × α)} {k j : Nat} {v : α} (h : keysRise m = true) :
    mapGet d (mapInsert m k v) j = if j = k then v else mapGet d m j := by
  induction m with
  | nil => simp only [mapInsert, mapGet, eq_comm]
  | cons x l ih =>
    obtain ⟨i, w⟩ := x
    have hc := keysRise_cons.1 h
    unfold mapInsert
    split
    next hk =>
      simp only [mapGet]
      by_cases hj : j = k
      · simp [hj]
      · rw [if_neg (by omega), if_neg hj]
    next hk =>
      split
      next hki =>
        simp only [mapGet]
        by_cases hj : j = k
        · simp [hj]
        · rw [if_neg (by omega), if_neg hj, if_neg (by omega)]
      next hki =>
        simp only [mapGet]
        split
        next hij => rw [if_neg (by omega)]
        next hij => exact ih hc.2

/-- A read after a write: the value written at its key, every other key as before. -/
theorem mapGet_mapSet {α : Type} [DecidableEq α] {d : α} {m : List (Nat × α)} {k j : Nat} {v : α} (h : mapWf d m = true) :
    mapGet d (mapSet d m k v) j = if j = k then v else mapGet d m j := by
  have hr := (mapWf_iff.1 h).1
  unfold mapSet
  split
  next hv => rw [mapGet_mapErase hr, hv]
  next hv => exact mapGet_mapInsert hr

/-! ### Memory -/

/-- Storing bytes keeps memory canonical. -/
theorem memWf_memStore {m : List Host.Cell} {a : Nat} {l : List Byte} (h : memWf m = true) : memWf (memStore m a l) = true := by
  induction l generalizing m a with
  | nil => exact h
  | cons b l ih => exact ih (mapWf_mapSet h)

/-- A byte outside the bytes stored is as before. -/
theorem memByte_memStore_outside {m : List Host.Cell} {a x : Nat} {l : List Byte} (h : memWf m = true) (hx : x < a ∨ a + l.length ≤ x) :
    memByte (memStore m a l) x = memByte m x := by
  induction l generalizing m a with
  | nil => rfl
  | cons b l ih =>
    simp only [List.length_cons] at hx
    have hw := mapWf_mapSet (k := a) (v := b) h
    show memByte (memStore (mapSet 0 m a b) (a + 1) l) x = _
    rw [ih hw (by omega)]
    unfold memByte
    rw [mapGet_mapSet h, if_neg (by omega)]

/-- A byte stored reads as it was stored. -/
theorem memByte_memStore {m : List Host.Cell} {a i : Nat} {l : List Byte} (h : memWf m = true) (hi : i < l.length) :
    memByte (memStore m a l) (a + i) = l[i] := by
  induction l generalizing m a i with
  | nil => simp at hi
  | cons b l ih =>
    have hw := mapWf_mapSet (k := a) (v := b) h
    show memByte (memStore (mapSet 0 m a b) (a + 1) l) (a + i) = _
    cases i with
    | zero =>
      rw [memByte_memStore_outside hw (by omega)]
      unfold memByte
      rw [mapGet_mapSet h]; simp
    | succ i =>
      have : a + (i + 1) = a + 1 + i := by omega
      rw [this, ih hw (by simpa using hi)]
      simp

theorem listModify_length {α : Type} (f : α → α) (l : List α) (i : Nat) : (listModify f l i).length = l.length := by
  induction l generalizing i with
  | nil => rfl
  | cons a l ih => cases i with
    | zero => rfl
    | succ i => simp [listModify, ih]

theorem listSet_length {α : Type} (l : List α) (i : Nat) (a : α) : (listSet l i a).length = l.length := listModify_length _ l i

end Sys2Proof.Machine
end

