-- ==== Sys2Proof/Laws/Kept.lean ====
section
/-! SUPPORT. State.Kept through the updates that the meanings are built from. -/

set_option linter.all false

namespace Sys2Proof.Machine

variable {p : Promise}

theorem Part.same_refl (f : Part) (s : State) : f.same s s := by
  cases f <;> rfl

theorem Part.same_trans {f : Part} {s t u : State} (h : f.same s t) (g : f.same t u) : f.same s u := by
  cases f <;> exact Eq.trans g h

theorem State.Kept.mem_wf {s : State} (h : s.Kept p) : memWf s.mem = true := by
  have := h.form; simp only [State.canonical, Bool.and_eq_true] at this; exact this.1.1.1
theorem State.Kept.cells_wf {s : State} (h : s.Kept p) : mapWf 0 s.cells = true := by
  have := h.form; simp only [State.canonical, Bool.and_eq_true] at this; exact this.1.1.2
theorem State.Kept.regs_wf {s : State} (h : s.Kept p) : mapWf 0 s.regs = true := by
  have := h.form; simp only [State.canonical, Bool.and_eq_true] at this; exact this.1.2
theorem State.Kept.shape {s : State} (h : s.Kept p) : s.shaped = true := by
  have := h.form; simp only [State.canonical, Bool.and_eq_true] at this; exact this.2

/-- A state that keeps the queue, the authority, SAFE and the fuses, is in canonical form, and differs in parts that may change only. -/
theorem State.Kept.build {s t : State} (h : s.Kept p) (h1 : t.pending = s.pending) (h2 : memWf t.mem = true) (h3 : mapWf 0 t.cells = true)
    (h4 : mapWf 0 t.regs = true) (h5 : t.keep = s.keep) (h6 : t.safe = s.safe) (h7 : t.auth = s.auth) (h8 : t.shaped = true) (hf : ∀ f, p.may f = false → f.same s t) : t.Kept p :=
  ⟨h1.trans h.queue, by simp only [State.canonical, h2, h3, h4, h8]; rfl, h5 ▸ h.fuses, fun x => h6 ▸ h.safeStays x, fun x => h7 ▸ h.outside x,
    fun f hm => Part.same_trans (h.frame f hm) (hf f hm)⟩

/-- The register file replaced by a canonical one. -/
theorem State.Kept.withRegs {s : State} {r : List (Nat × Nat)} (h : s.Kept p) (m : p.may .regs) (hr : mapWf 0 r = true) : ({ s with regs := r } : State).Kept p :=
  h.build rfl h.mem_wf h.cells_wf hr rfl rfl rfl h.shape (fun f hf => by cases f <;> first | rfl | simp_all)

theorem Keep.fusesLe_refl (a : Keep) : a.fusesLe a = true := by
  simp [Keep.fusesLe]

theorem Keep.fusesLe_trans {a b c : Keep} (h : a.fusesLe b = true) (g : b.fusesLe c = true) : a.fusesLe c = true := by
  simp only [Keep.fusesLe, Bool.and_eq_true, decide_eq_true_eq, Bool.or_eq_true, Bool.not_eq_true'] at h g ⊢
  refine ⟨⟨⟨⟨by omega, by omega⟩, by omega⟩, ?_⟩, ?_⟩
  · cases ha : a.bootHost <;> cases hb : b.bootHost <;> simp_all
  · rcases h.2 with h | h
    · exact .inl h
    · rcases g.2 with g | g
      · exact .inl (by rw [← h, g])
      · exact .inr (by rw [g, h])

theorem Keep.fusesLe_lifecycle {a : Keep} {x : Nat} (h : a.lifecycle ≤ x) : a.fusesLe { a with lifecycle := x } = true := by
  simp [Keep.fusesLe, h]

/-- The fuses and the rest of SPI NOR replaced by a value with no fuse bit cleared. -/
theorem State.Kept.withKeep {s : State} {x : Keep} (h : s.Kept p) (m : p.may .keep) (hx : s.keep.fusesLe x = true) : ({ s with keep := x } : State).Kept p :=
  ⟨h.queue, h.form, Keep.fusesLe_trans h.fuses hx, h.safeStays, h.outside,
    fun f hf => Part.same_trans (h.frame f hf) (by cases f <;> first | rfl | simp_all)⟩

theorem State.Kept.ite {c : Prop} [Decidable c] {a b : State} (ha : a.Kept p) (hb : b.Kept p) : State.Kept p (if c then a else b) := by
  split <;> assumption

theorem State.Kept.getD {o : Option State} {s : State} (ho : ∀ t, o = some t → State.Kept p t) (h : s.Kept p) : State.Kept p (o.getD s) := by
  cases o with
  | none => exact h
  | some t => exact ho t rfl

theorem State.Kept.foldl {α : Type} {f : State → α → State} {l : List α} {s : State} (hf : ∀ t a, State.Kept p t → State.Kept p (f t a))
    (h : s.Kept p) : State.Kept p (l.foldl f s) := by
  induction l generalizing s with
  | nil => exact h
  | cons a l ih => exact ih (hf s a h)

/-- A fold over a pair whose first part is the state. -/
theorem State.Kept.foldl_fst {α β : Type} {f : State × β → α → State × β} {l : List α} {s : State × β}
    (hf : ∀ t a, State.Kept p t.1 → State.Kept p (f t a).1) (h : s.1.Kept p) : State.Kept p (l.foldl f s).1 := by
  induction l generalizing s with
  | nil => exact h
  | cons a l ih => exact ih (hf s a h)

/-! ### Records in which some parts are new and the others another state's -/

theorem State.Kept.upd_auth_fbx {a : State} {y17 : Auth} {y34 : Fbx} (h : a.Kept p) (_ : p.may .auth) (_ : p.may .fbx) (ho : p.fallback = true → y17 ≠ .main) :
    State.Kept p (State.mk a.pending a.tick a.free a.rdata a.mainClk a.rclkOn a.rphase a.rclk a.regs a.logs a.mem a.poison a.upset a.cells a.tb a.evr a.line y17 a.safe a.hostEvent a.frt a.vats a.mig a.harp a.harpShare a.walkers a.swaps a.ing a.fus a.slv a.pln a.lp a.tsn a.xsl y34 a.wd a.diag a.pwr a.trace a.traceDrop a.msix a.cg a.firm a.keep a.start a.snapCmp a.obs a.now) :=
  ⟨h.queue, h.form, h.fuses, h.safeStays, ho,
    fun f hf => Part.same_trans (h.frame f hf) (by cases f <;> first | rfl | simp_all)⟩

theorem State.Kept.upd_auth_safe_fbx {a : State} {y17 : Auth} {y18 : Bool} {y34 : Fbx} (h : a.Kept p) (_ : p.may .auth) (_ : p.may .safe) (_ : p.may .fbx) (ho : p.fallback = true → y17 ≠ .main) (hs : p.safe = true → y18 = true) :
    State.Kept p (State.mk a.pending a.tick a.free a.rdata a.mainClk a.rclkOn a.rphase a.rclk a.regs a.logs a.mem a.poison a.upset a.cells a.tb a.evr a.line y17 y18 a.hostEvent a.frt a.vats a.mig a.harp a.harpShare a.walkers a.swaps a.ing a.fus a.slv a.pln a.lp a.tsn a.xsl y34 a.wd a.diag a.pwr a.trace a.traceDrop a.msix a.cg a.firm a.keep a.start a.snapCmp a.obs a.now) :=
  ⟨h.queue, h.form, h.fuses, hs, ho,
    fun f hf => Part.same_trans (h.frame f hf) (by cases f <;> first | rfl | simp_all)⟩

theorem State.Kept.upd_cg {a : State} {y41 : CgUnit} (h : a.Kept p) (_ : p.may .cg) :
    State.Kept p (State.mk a.pending a.tick a.free a.rdata a.mainClk a.rclkOn a.rphase a.rclk a.regs a.logs a.mem a.poison a.upset a.cells a.tb a.evr a.line a.auth a.safe a.hostEvent a.frt a.vats a.mig a.harp a.harpShare a.walkers a.swaps a.ing a.fus a.slv a.pln a.lp a.tsn a.xsl a.fbx a.wd a.diag a.pwr a.trace a.traceDrop a.msix y41 a.firm a.keep a.start a.snapCmp a.obs a.now) :=
  h.build rfl h.mem_wf h.cells_wf h.regs_wf rfl rfl rfl h.shape (fun f hf => by cases f <;> first | rfl | simp_all)

theorem State.Kept.upd_diag {a : State} {y36 : Diag} (h : a.Kept p) (_ : p.may .diag) :
    State.Kept p (State.mk a.pending a.tick a.free a.rdata a.mainClk a.rclkOn a.rphase a.rclk a.regs a.logs a.mem a.poison a.upset a.cells a.tb a.evr a.line a.auth a.safe a.hostEvent a.frt a.vats a.mig a.harp a.harpShare a.walkers a.swaps a.ing a.fus a.slv a.pln a.lp a.tsn a.xsl a.fbx a.wd y36 a.pwr a.trace a.traceDrop a.msix a.cg a.firm a.keep a.start a.snapCmp a.obs a.now) :=
  h.build rfl h.mem_wf h.cells_wf h.regs_wf rfl rfl rfl h.shape (fun f hf => by cases f <;> first | rfl | simp_all)

theorem State.Kept.upd_evr {a : State} {y15 : Recorder} (h : a.Kept p) (_ : p.may .evr) :
    State.Kept p (State.mk a.pending a.tick a.free a.rdata a.mainClk a.rclkOn a.rphase a.rclk a.regs a.logs a.mem a.poison a.upset a.cells a.tb y15 a.line a.auth a.safe a.hostEvent a.frt a.vats a.mig a.harp a.harpShare a.walkers a.swaps a.ing a.fus a.slv a.pln a.lp a.tsn a.xsl a.fbx a.wd a.diag a.pwr a.trace a.traceDrop a.msix a.cg a.firm a.keep a.start a.snapCmp a.obs a.now) :=
  h.build rfl h.mem_wf h.cells_wf h.regs_wf rfl rfl rfl h.shape (fun f hf => by cases f <;> first | rfl | simp_all)

theorem State.Kept.upd_fbx {a : State} {y34 : Fbx} (h : a.Kept p) (_ : p.may .fbx) :
    State.Kept p (State.mk a.pending a.tick a.free a.rdata a.mainClk a.rclkOn a.rphase a.rclk a.regs a.logs a.mem a.poison a.upset a.cells a.tb a.evr a.line a.auth a.safe a.hostEvent a.frt a.vats a.mig a.harp a.harpShare a.walkers a.swaps a.ing a.fus a.slv a.pln a.lp a.tsn a.xsl y34 a.wd a.diag a.pwr a.trace a.traceDrop a.msix a.cg a.firm a.keep a.start a.snapCmp a.obs a.now) :=
  h.build rfl h.mem_wf h.cells_wf h.regs_wf rfl rfl rfl h.shape (fun f hf => by cases f <;> first | rfl | simp_all)

theorem State.Kept.upd_firm {a : State} {y42 : Firmware} (h : a.Kept p) (_ : p.may .firm) :
    State.Kept p (State.mk a.pending a.tick a.free a.rdata a.mainClk a.rclkOn a.rphase a.rclk a.regs a.logs a.mem a.poison a.upset a.cells a.tb a.evr a.line a.auth a.safe a.hostEvent a.frt a.vats a.mig a.harp a.harpShare a.walkers a.swaps a.ing a.fus a.slv a.pln a.lp a.tsn a.xsl a.fbx a.wd a.diag a.pwr a.trace a.traceDrop a.msix a.cg y42 a.keep a.start a.snapCmp a.obs a.now) :=
  h.build rfl h.mem_wf h.cells_wf h.regs_wf rfl rfl rfl h.shape (fun f hf => by cases f <;> first | rfl | simp_all)

theorem State.Kept.upd_free {a : State} {y2 : Nat} (h : a.Kept p) (_ : p.may .free) :
    State.Kept p (State.mk a.pending a.tick y2 a.rdata a.mainClk a.rclkOn a.rphase a.rclk a.regs a.logs a.mem a.poison a.upset a.cells a.tb a.evr a.line a.auth a.safe a.hostEvent a.frt a.vats a.mig a.harp a.harpShare a.walkers a.swaps a.ing a.fus a.slv a.pln a.lp a.tsn a.xsl a.fbx a.wd a.diag a.pwr a.trace a.traceDrop a.msix a.cg a.firm a.keep a.start a.snapCmp a.obs a.now) :=
  h.build rfl h.mem_wf h.cells_wf h.regs_wf rfl rfl rfl h.shape (fun f hf => by cases f <;> first | rfl | simp_all)

theorem State.Kept.upd_frt {a : State} {y20 : FrameTab} (h : a.Kept p) (_ : p.may .frt) :
    State.Kept p (State.mk a.pending a.tick a.free a.rdata a.mainClk a.rclkOn a.rphase a.rclk a.regs a.logs a.mem a.poison a.upset a.cells a.tb a.evr a.line a.auth a.safe a.hostEvent y20 a.vats a.mig a.harp a.harpShare a.walkers a.swaps a.ing a.fus a.slv a.pln a.lp a.tsn a.xsl a.fbx a.wd a.diag a.pwr a.trace a.traceDrop a.msix a.cg a.firm a.keep a.start a.snapCmp a.obs a.now) :=
  h.build rfl h.mem_wf h.cells_wf h.regs_wf rfl rfl rfl h.shape (fun f hf => by cases f <;> first | rfl | simp_all)

theorem State.Kept.upd_frt_diag {a : State} {y20 : FrameTab} {y36 : Diag} (h : a.Kept p) (_ : p.may .frt) (_ : p.may .diag) :
    State.Kept p (State.mk a.pending a.tick a.free a.rdata a.mainClk a.rclkOn a.rphase a.rclk a.regs a.logs a.mem a.poison a.upset a.cells a.tb a.evr a.line a.auth a.safe a.hostEvent y20 a.vats a.mig a.harp a.harpShare a.walkers a.swaps a.ing a.fus a.slv a.pln a.lp a.tsn a.xsl a.fbx a.wd y36 a.pwr a.trace a.traceDrop a.msix a.cg a.firm a.keep a.start a.snapCmp a.obs a.now) :=
  h.build rfl h.mem_wf h.cells_wf h.regs_wf rfl rfl rfl h.shape (fun f hf => by cases f <;> first | rfl | simp_all)

theorem State.Kept.upd_frt_harpShare {a : State} {y20 : FrameTab} {y24 : Nat} (h : a.Kept p) (_ : p.may .frt) (_ : p.may .harpShare) :
    State.Kept p (State.mk a.pending a.tick a.free a.rdata a.mainClk a.rclkOn a.rphase a.rclk a.regs a.logs a.mem a.poison a.upset a.cells a.tb a.evr a.line a.auth a.safe a.hostEvent y20 a.vats a.mig a.harp y24 a.walkers a.swaps a.ing a.fus a.slv a.pln a.lp a.tsn a.xsl a.fbx a.wd a.diag a.pwr a.trace a.traceDrop a.msix a.cg a.firm a.keep a.start a.snapCmp a.obs a.now) :=
  h.build rfl h.mem_wf h.cells_wf h.regs_wf rfl rfl rfl h.shape (fun f hf => by cases f <;> first | rfl | simp_all)

theorem State.Kept.upd_fus {a : State} {y28 : Fusion} (h : a.Kept p) (_ : p.may .fus) :
    State.Kept p (State.mk a.pending a.tick a.free a.rdata a.mainClk a.rclkOn a.rphase a.rclk a.regs a.logs a.mem a.poison a.upset a.cells a.tb a.evr a.line a.auth a.safe a.hostEvent a.frt a.vats a.mig a.harp a.harpShare a.walkers a.swaps a.ing y28 a.slv a.pln a.lp a.tsn a.xsl a.fbx a.wd a.diag a.pwr a.trace a.traceDrop a.msix a.cg a.firm a.keep a.start a.snapCmp a.obs a.now) :=
  h.build rfl h.mem_wf h.cells_wf h.regs_wf rfl rfl rfl h.shape (fun f hf => by cases f <;> first | rfl | simp_all)

theorem State.Kept.upd_harp {a : State} {y23 : List HarpEngine} (h : a.Kept p) (_ : p.may .harp) (hl23 : y23.length = a.harp.length) :
    State.Kept p (State.mk a.pending a.tick a.free a.rdata a.mainClk a.rclkOn a.rphase a.rclk a.regs a.logs a.mem a.poison a.upset a.cells a.tb a.evr a.line a.auth a.safe a.hostEvent a.frt a.vats a.mig y23 a.harpShare a.walkers a.swaps a.ing a.fus a.slv a.pln a.lp a.tsn a.xsl a.fbx a.wd a.diag a.pwr a.trace a.traceDrop a.msix a.cg a.firm a.keep a.start a.snapCmp a.obs a.now) :=
  h.build rfl h.mem_wf h.cells_wf h.regs_wf rfl rfl rfl (by have e := h.shape; unfold State.shaped at e ⊢; simp only [hl23]; exact e) (fun f hf => by cases f <;> first | rfl | simp_all)

theorem State.Kept.upd_hostEvent {a : State} {y19 : Nat} (h : a.Kept p) (_ : p.may .hostEvent) :
    State.Kept p (State.mk a.pending a.tick a.free a.rdata a.mainClk a.rclkOn a.rphase a.rclk a.regs a.logs a.mem a.poison a.upset a.cells a.tb a.evr a.line a.auth a.safe y19 a.frt a.vats a.mig a.harp a.harpShare a.walkers a.swaps a.ing a.fus a.slv a.pln a.lp a.tsn a.xsl a.fbx a.wd a.diag a.pwr a.trace a.traceDrop a.msix a.cg a.firm a.keep a.start a.snapCmp a.obs a.now) :=
  h.build rfl h.mem_wf h.cells_wf h.regs_wf rfl rfl rfl h.shape (fun f hf => by cases f <;> first | rfl | simp_all)

theorem State.Kept.upd_ing {a : State} {y27 : List IngCtx} (h : a.Kept p) (_ : p.may .ing) (hl27 : y27.length = a.ing.length) :
    State.Kept p (State.mk a.pending a.tick a.free a.rdata a.mainClk a.rclkOn a.rphase a.rclk a.regs a.logs a.mem a.poison a.upset a.cells a.tb a.evr a.line a.auth a.safe a.hostEvent a.frt a.vats a.mig a.harp a.harpShare a.walkers a.swaps y27 a.fus a.slv a.pln a.lp a.tsn a.xsl a.fbx a.wd a.diag a.pwr a.trace a.traceDrop a.msix a.cg a.firm a.keep a.start a.snapCmp a.obs a.now) :=
  h.build rfl h.mem_wf h.cells_wf h.regs_wf rfl rfl rfl (by have e := h.shape; unfold State.shaped at e ⊢; simp only [hl27]; exact e) (fun f hf => by cases f <;> first | rfl | simp_all)

theorem State.Kept.upd_line {a : State} {y16 : DoubtLine} (h : a.Kept p) (_ : p.may .line) :
    State.Kept p (State.mk a.pending a.tick a.free a.rdata a.mainClk a.rclkOn a.rphase a.rclk a.regs a.logs a.mem a.poison a.upset a.cells a.tb a.evr y16 a.auth a.safe a.hostEvent a.frt a.vats a.mig a.harp a.harpShare a.walkers a.swaps a.ing a.fus a.slv a.pln a.lp a.tsn a.xsl a.fbx a.wd a.diag a.pwr a.trace a.traceDrop a.msix a.cg a.firm a.keep a.start a.snapCmp a.obs a.now) :=
  h.build rfl h.mem_wf h.cells_wf h.regs_wf rfl rfl rfl h.shape (fun f hf => by cases f <;> first | rfl | simp_all)

theorem State.Kept.upd_logs {a : State} {y9 : List (Nat × List Nat)} (h : a.Kept p) (_ : p.may .logs) :
    State.Kept p (State.mk a.pending a.tick a.free a.rdata a.mainClk a.rclkOn a.rphase a.rclk a.regs y9 a.mem a.poison a.upset a.cells a.tb a.evr a.line a.auth a.safe a.hostEvent a.frt a.vats a.mig a.harp a.harpShare a.walkers a.swaps a.ing a.fus a.slv a.pln a.lp a.tsn a.xsl a.fbx a.wd a.diag a.pwr a.trace a.traceDrop a.msix a.cg a.firm a.keep a.start a.snapCmp a.obs a.now) :=
  h.build rfl h.mem_wf h.cells_wf h.regs_wf rfl rfl rfl h.shape (fun f hf => by cases f <;> first | rfl | simp_all)

theorem State.Kept.upd_lp {a : State} {y31 : Loop} (h : a.Kept p) (_ : p.may .lp) :
    State.Kept p (State.mk a.pending a.tick a.free a.rdata a.mainClk a.rclkOn a.rphase a.rclk a.regs a.logs a.mem a.poison a.upset a.cells a.tb a.evr a.line a.auth a.safe a.hostEvent a.frt a.vats a.mig a.harp a.harpShare a.walkers a.swaps a.ing a.fus a.slv a.pln y31 a.tsn a.xsl a.fbx a.wd a.diag a.pwr a.trace a.traceDrop a.msix a.cg a.firm a.keep a.start a.snapCmp a.obs a.now) :=
  h.build rfl h.mem_wf h.cells_wf h.regs_wf rfl rfl rfl h.shape (fun f hf => by cases f <;> first | rfl | simp_all)

theorem State.Kept.upd_mainClk_start {a : State} {y4 : Bool} {y44 : Startup} (h : a.Kept p) (_ : p.may .mainClk) (_ : p.may .start) :
    State.Kept p (State.mk a.pending a.tick a.free a.rdata y4 a.rclkOn a.rphase a.rclk a.regs a.logs a.mem a.poison a.upset a.cells a.tb a.evr a.line a.auth a.safe a.hostEvent a.frt a.vats a.mig a.harp a.harpShare a.walkers a.swaps a.ing a.fus a.slv a.pln a.lp a.tsn a.xsl a.fbx a.wd a.diag a.pwr a.trace a.traceDrop a.msix a.cg a.firm a.keep y44 a.snapCmp a.obs a.now) :=
  h.build rfl h.mem_wf h.cells_wf h.regs_wf rfl rfl rfl h.shape (fun f hf => by cases f <;> first | rfl | simp_all)

theorem State.Kept.upd_mig {a : State} {y22 : Migration} (h : a.Kept p) (_ : p.may .mig) :
    State.Kept p (State.mk a.pending a.tick a.free a.rdata a.mainClk a.rclkOn a.rphase a.rclk a.regs a.logs a.mem a.poison a.upset a.cells a.tb a.evr a.line a.auth a.safe a.hostEvent a.frt a.vats y22 a.harp a.harpShare a.walkers a.swaps a.ing a.fus a.slv a.pln a.lp a.tsn a.xsl a.fbx a.wd a.diag a.pwr a.trace a.traceDrop a.msix a.cg a.firm a.keep a.start a.snapCmp a.obs a.now) :=
  h.build rfl h.mem_wf h.cells_wf h.regs_wf rfl rfl rfl h.shape (fun f hf => by cases f <;> first | rfl | simp_all)

theorem State.Kept.upd_mig_xsl {a : State} {y22 : Migration} {y33 : Xexisha} (h : a.Kept p) (_ : p.may .mig) (_ : p.may .xsl) :
    State.Kept p (State.mk a.pending a.tick a.free a.rdata a.mainClk a.rclkOn a.rphase a.rclk a.regs a.logs a.mem a.poison a.upset a.cells a.tb a.evr a.line a.auth a.safe a.hostEvent a.frt a.vats y22 a.harp a.harpShare a.walkers a.swaps a.ing a.fus a.slv a.pln a.lp a.tsn y33 a.fbx a.wd a.diag a.pwr a.trace a.traceDrop a.msix a.cg a.firm a.keep a.start a.snapCmp a.obs a.now) :=
  h.build rfl h.mem_wf h.cells_wf h.regs_wf rfl rfl rfl h.shape (fun f hf => by cases f <;> first | rfl | simp_all)

theorem State.Kept.upd_msix {a : State} {y40 : List (Nat × Nat)} (h : a.Kept p) (_ : p.may .msix) :
    State.Kept p (State.mk a.pending a.tick a.free a.rdata a.mainClk a.rclkOn a.rphase a.rclk a.regs a.logs a.mem a.poison a.upset a.cells a.tb a.evr a.line a.auth a.safe a.hostEvent a.frt a.vats a.mig a.harp a.harpShare a.walkers a.swaps a.ing a.fus a.slv a.pln a.lp a.tsn a.xsl a.fbx a.wd a.diag a.pwr a.trace a.traceDrop y40 a.cg a.firm a.keep a.start a.snapCmp a.obs a.now) :=
  h.build rfl h.mem_wf h.cells_wf h.regs_wf rfl rfl rfl h.shape (fun f hf => by cases f <;> first | rfl | simp_all)

theorem State.Kept.upd_now {a : State} {y47 : Now} (h : a.Kept p) (_ : p.may .now) :
    State.Kept p (State.mk a.pending a.tick a.free a.rdata a.mainClk a.rclkOn a.rphase a.rclk a.regs a.logs a.mem a.poison a.upset a.cells a.tb a.evr a.line a.auth a.safe a.hostEvent a.frt a.vats a.mig a.harp a.harpShare a.walkers a.swaps a.ing a.fus a.slv a.pln a.lp a.tsn a.xsl a.fbx a.wd a.diag a.pwr a.trace a.traceDrop a.msix a.cg a.firm a.keep a.start a.snapCmp a.obs y47) :=
  h.build rfl h.mem_wf h.cells_wf h.regs_wf rfl rfl rfl h.shape (fun f hf => by cases f <;> first | rfl | simp_all)

theorem State.Kept.upd_obs {a : State} {y46 : ObsPort} (h : a.Kept p) (_ : p.may .obs) :
    State.Kept p (State.mk a.pending a.tick a.free a.rdata a.mainClk a.rclkOn a.rphase a.rclk a.regs a.logs a.mem a.poison a.upset a.cells a.tb a.evr a.line a.auth a.safe a.hostEvent a.frt a.vats a.mig a.harp a.harpShare a.walkers a.swaps a.ing a.fus a.slv a.pln a.lp a.tsn a.xsl a.fbx a.wd a.diag a.pwr a.trace a.traceDrop a.msix a.cg a.firm a.keep a.start a.snapCmp y46 a.now) :=
  h.build rfl h.mem_wf h.cells_wf h.regs_wf rfl rfl rfl h.shape (fun f hf => by cases f <;> first | rfl | simp_all)

theorem State.Kept.upd_pln {a : State} {y30 : Planner} (h : a.Kept p) (_ : p.may .pln) :
    State.Kept p (State.mk a.pending a.tick a.free a.rdata a.mainClk a.rclkOn a.rphase a.rclk a.regs a.logs a.mem a.poison a.upset a.cells a.tb a.evr a.line a.auth a.safe a.hostEvent a.frt a.vats a.mig a.harp a.harpShare a.walkers a.swaps a.ing a.fus a.slv y30 a.lp a.tsn a.xsl a.fbx a.wd a.diag a.pwr a.trace a.traceDrop a.msix a.cg a.firm a.keep a.start a.snapCmp a.obs a.now) :=
  h.build rfl h.mem_wf h.cells_wf h.regs_wf rfl rfl rfl h.shape (fun f hf => by cases f <;> first | rfl | simp_all)

theorem State.Kept.upd_poison {a : State} {y11 : List Nat} (h : a.Kept p) (_ : p.may .poison) :
    State.Kept p (State.mk a.pending a.tick a.free a.rdata a.mainClk a.rclkOn a.rphase a.rclk a.regs a.logs a.mem y11 a.upset a.cells a.tb a.evr a.line a.auth a.safe a.hostEvent a.frt a.vats a.mig a.harp a.harpShare a.walkers a.swaps a.ing a.fus a.slv a.pln a.lp a.tsn a.xsl a.fbx a.wd a.diag a.pwr a.trace a.traceDrop a.msix a.cg a.firm a.keep a.start a.snapCmp a.obs a.now) :=
  h.build rfl h.mem_wf h.cells_wf h.regs_wf rfl rfl rfl h.shape (fun f hf => by cases f <;> first | rfl | simp_all)

theorem State.Kept.upd_poison_mig {a : State} {y11 : List Nat} {y22 : Migration} (h : a.Kept p) (_ : p.may .poison) (_ : p.may .mig) :
    State.Kept p (State.mk a.pending a.tick a.free a.rdata a.mainClk a.rclkOn a.rphase a.rclk a.regs a.logs a.mem y11 a.upset a.cells a.tb a.evr a.line a.auth a.safe a.hostEvent a.frt a.vats y22 a.harp a.harpShare a.walkers a.swaps a.ing a.fus a.slv a.pln a.lp a.tsn a.xsl a.fbx a.wd a.diag a.pwr a.trace a.traceDrop a.msix a.cg a.firm a.keep a.start a.snapCmp a.obs a.now) :=
  h.build rfl h.mem_wf h.cells_wf h.regs_wf rfl rfl rfl h.shape (fun f hf => by cases f <;> first | rfl | simp_all)

theorem State.Kept.upd_pwr {a : State} {y37 : Power} (h : a.Kept p) (_ : p.may .pwr) :
    State.Kept p (State.mk a.pending a.tick a.free a.rdata a.mainClk a.rclkOn a.rphase a.rclk a.regs a.logs a.mem a.poison a.upset a.cells a.tb a.evr a.line a.auth a.safe a.hostEvent a.frt a.vats a.mig a.harp a.harpShare a.walkers a.swaps a.ing a.fus a.slv a.pln a.lp a.tsn a.xsl a.fbx a.wd a.diag y37 a.trace a.traceDrop a.msix a.cg a.firm a.keep a.start a.snapCmp a.obs a.now) :=
  h.build rfl h.mem_wf h.cells_wf h.regs_wf rfl rfl rfl h.shape (fun f hf => by cases f <;> first | rfl | simp_all)

theorem State.Kept.upd_rclk_evr_line_fbx {a : State} {y7 : Nat} {y15 : Recorder} {y16 : DoubtLine} {y34 : Fbx} (h : a.Kept p) (_ : p.may .rclk) (_ : p.may .evr) (_ : p.may .line) (_ : p.may .fbx) :
    State.Kept p (State.mk a.pending a.tick a.free a.rdata a.mainClk a.rclkOn a.rphase y7 a.regs a.logs a.mem a.poison a.upset a.cells a.tb y15 y16 a.auth a.safe a.hostEvent a.frt a.vats a.mig a.harp a.harpShare a.walkers a.swaps a.ing a.fus a.slv a.pln a.lp a.tsn a.xsl y34 a.wd a.diag a.pwr a.trace a.traceDrop a.msix a.cg a.firm a.keep a.start a.snapCmp a.obs a.now) :=
  h.build rfl h.mem_wf h.cells_wf h.regs_wf rfl rfl rfl h.shape (fun f hf => by cases f <;> first | rfl | simp_all)

theorem State.Kept.upd_rclkOn {a : State} {y5 : Bool} (h : a.Kept p) (_ : p.may .rclkOn) :
    State.Kept p (State.mk a.pending a.tick a.free a.rdata a.mainClk y5 a.rphase a.rclk a.regs a.logs a.mem a.poison a.upset a.cells a.tb a.evr a.line a.auth a.safe a.hostEvent a.frt a.vats a.mig a.harp a.harpShare a.walkers a.swaps a.ing a.fus a.slv a.pln a.lp a.tsn a.xsl a.fbx a.wd a.diag a.pwr a.trace a.traceDrop a.msix a.cg a.firm a.keep a.start a.snapCmp a.obs a.now) :=
  h.build rfl h.mem_wf h.cells_wf h.regs_wf rfl rfl rfl h.shape (fun f hf => by cases f <;> first | rfl | simp_all)

theorem State.Kept.upd_rclkOn_start {a : State} {y5 : Bool} {y44 : Startup} (h : a.Kept p) (_ : p.may .rclkOn) (_ : p.may .start) :
    State.Kept p (State.mk a.pending a.tick a.free a.rdata a.mainClk y5 a.rphase a.rclk a.regs a.logs a.mem a.poison a.upset a.cells a.tb a.evr a.line a.auth a.safe a.hostEvent a.frt a.vats a.mig a.harp a.harpShare a.walkers a.swaps a.ing a.fus a.slv a.pln a.lp a.tsn a.xsl a.fbx a.wd a.diag a.pwr a.trace a.traceDrop a.msix a.cg a.firm a.keep y44 a.snapCmp a.obs a.now) :=
  h.build rfl h.mem_wf h.cells_wf h.regs_wf rfl rfl rfl h.shape (fun f hf => by cases f <;> first | rfl | simp_all)

theorem State.Kept.upd_rdata {a : State} {y3 : List Nat} (h : a.Kept p) (_ : p.may .rdata) :
    State.Kept p (State.mk a.pending a.tick a.free y3 a.mainClk a.rclkOn a.rphase a.rclk a.regs a.logs a.mem a.poison a.upset a.cells a.tb a.evr a.line a.auth a.safe a.hostEvent a.frt a.vats a.mig a.harp a.harpShare a.walkers a.swaps a.ing a.fus a.slv a.pln a.lp a.tsn a.xsl a.fbx a.wd a.diag a.pwr a.trace a.traceDrop a.msix a.cg a.firm a.keep a.start a.snapCmp a.obs a.now) :=
  h.build rfl h.mem_wf h.cells_wf h.regs_wf rfl rfl rfl h.shape (fun f hf => by cases f <;> first | rfl | simp_all)

theorem State.Kept.upd_rphase {a : State} {y6 : Nat} (h : a.Kept p) (_ : p.may .rphase) :
    State.Kept p (State.mk a.pending a.tick a.free a.rdata a.mainClk a.rclkOn y6 a.rclk a.regs a.logs a.mem a.poison a.upset a.cells a.tb a.evr a.line a.auth a.safe a.hostEvent a.frt a.vats a.mig a.harp a.harpShare a.walkers a.swaps a.ing a.fus a.slv a.pln a.lp a.tsn a.xsl a.fbx a.wd a.diag a.pwr a.trace a.traceDrop a.msix a.cg a.firm a.keep a.start a.snapCmp a.obs a.now) :=
  h.build rfl h.mem_wf h.cells_wf h.regs_wf rfl rfl rfl h.shape (fun f hf => by cases f <;> first | rfl | simp_all)

theorem State.Kept.upd_slv {a : State} {y29 : Solver} (h : a.Kept p) (_ : p.may .slv) :
    State.Kept p (State.mk a.pending a.tick a.free a.rdata a.mainClk a.rclkOn a.rphase a.rclk a.regs a.logs a.mem a.poison a.upset a.cells a.tb a.evr a.line a.auth a.safe a.hostEvent a.frt a.vats a.mig a.harp a.harpShare a.walkers a.swaps a.ing a.fus y29 a.pln a.lp a.tsn a.xsl a.fbx a.wd a.diag a.pwr a.trace a.traceDrop a.msix a.cg a.firm a.keep a.start a.snapCmp a.obs a.now) :=
  h.build rfl h.mem_wf h.cells_wf h.regs_wf rfl rfl rfl h.shape (fun f hf => by cases f <;> first | rfl | simp_all)

theorem State.Kept.upd_snapCmp {a : State} {y45 : Bool} (h : a.Kept p) (_ : p.may .snapCmp) :
    State.Kept p (State.mk a.pending a.tick a.free a.rdata a.mainClk a.rclkOn a.rphase a.rclk a.regs a.logs a.mem a.poison a.upset a.cells a.tb a.evr a.line a.auth a.safe a.hostEvent a.frt a.vats a.mig a.harp a.harpShare a.walkers a.swaps a.ing a.fus a.slv a.pln a.lp a.tsn a.xsl a.fbx a.wd a.diag a.pwr a.trace a.traceDrop a.msix a.cg a.firm a.keep a.start y45 a.obs a.now) :=
  h.build rfl h.mem_wf h.cells_wf h.regs_wf rfl rfl rfl h.shape (fun f hf => by cases f <;> first | rfl | simp_all)

theorem State.Kept.upd_start {a : State} {y44 : Startup} (h : a.Kept p) (_ : p.may .start) :
    State.Kept p (State.mk a.pending a.tick a.free a.rdata a.mainClk a.rclkOn a.rphase a.rclk a.regs a.logs a.mem a.poison a.upset a.cells a.tb a.evr a.line a.auth a.safe a.hostEvent a.frt a.vats a.mig a.harp a.harpShare a.walkers a.swaps a.ing a.fus a.slv a.pln a.lp a.tsn a.xsl a.fbx a.wd a.diag a.pwr a.trace a.traceDrop a.msix a.cg a.firm a.keep y44 a.snapCmp a.obs a.now) :=
  h.build rfl h.mem_wf h.cells_wf h.regs_wf rfl rfl rfl h.shape (fun f hf => by cases f <;> first | rfl | simp_all)

theorem State.Kept.upd_swaps {a : State} {y26 : List SwapEng} (h : a.Kept p) (_ : p.may .swaps) (hl26 : y26.length = a.swaps.length) :
    State.Kept p (State.mk a.pending a.tick a.free a.rdata a.mainClk a.rclkOn a.rphase a.rclk a.regs a.logs a.mem a.poison a.upset a.cells a.tb a.evr a.line a.auth a.safe a.hostEvent a.frt a.vats a.mig a.harp a.harpShare a.walkers y26 a.ing a.fus a.slv a.pln a.lp a.tsn a.xsl a.fbx a.wd a.diag a.pwr a.trace a.traceDrop a.msix a.cg a.firm a.keep a.start a.snapCmp a.obs a.now) :=
  h.build rfl h.mem_wf h.cells_wf h.regs_wf rfl rfl rfl (by have e := h.shape; unfold State.shaped at e ⊢; simp only [hl26]; exact e) (fun f hf => by cases f <;> first | rfl | simp_all)

theorem State.Kept.upd_tb {a : State} {y14 : Timebase} (h : a.Kept p) (_ : p.may .tb) :
    State.Kept p (State.mk a.pending a.tick a.free a.rdata a.mainClk a.rclkOn a.rphase a.rclk a.regs a.logs a.mem a.poison a.upset a.cells y14 a.evr a.line a.auth a.safe a.hostEvent a.frt a.vats a.mig a.harp a.harpShare a.walkers a.swaps a.ing a.fus a.slv a.pln a.lp a.tsn a.xsl a.fbx a.wd a.diag a.pwr a.trace a.traceDrop a.msix a.cg a.firm a.keep a.start a.snapCmp a.obs a.now) :=
  h.build rfl h.mem_wf h.cells_wf h.regs_wf rfl rfl rfl h.shape (fun f hf => by cases f <;> first | rfl | simp_all)

theorem State.Kept.upd_tick {a : State} {y1 : Nat} (h : a.Kept p) (_ : p.may .tick) :
    State.Kept p (State.mk a.pending y1 a.free a.rdata a.mainClk a.rclkOn a.rphase a.rclk a.regs a.logs a.mem a.poison a.upset a.cells a.tb a.evr a.line a.auth a.safe a.hostEvent a.frt a.vats a.mig a.harp a.harpShare a.walkers a.swaps a.ing a.fus a.slv a.pln a.lp a.tsn a.xsl a.fbx a.wd a.diag a.pwr a.trace a.traceDrop a.msix a.cg a.firm a.keep a.start a.snapCmp a.obs a.now) :=
  h.build rfl h.mem_wf h.cells_wf h.regs_wf rfl rfl rfl h.shape (fun f hf => by cases f <;> first | rfl | simp_all)

theorem State.Kept.upd_trace {a : State} {y38 : List TracePkt} (h : a.Kept p) (_ : p.may .trace) :
    State.Kept p (State.mk a.pending a.tick a.free a.rdata a.mainClk a.rclkOn a.rphase a.rclk a.regs a.logs a.mem a.poison a.upset a.cells a.tb a.evr a.line a.auth a.safe a.hostEvent a.frt a.vats a.mig a.harp a.harpShare a.walkers a.swaps a.ing a.fus a.slv a.pln a.lp a.tsn a.xsl a.fbx a.wd a.diag a.pwr y38 a.traceDrop a.msix a.cg a.firm a.keep a.start a.snapCmp a.obs a.now) :=
  h.build rfl h.mem_wf h.cells_wf h.regs_wf rfl rfl rfl h.shape (fun f hf => by cases f <;> first | rfl | simp_all)

theorem State.Kept.upd_trace_traceDrop {a : State} {y38 : List TracePkt} {y39 : Nat × Nat} (h : a.Kept p) (_ : p.may .trace) (_ : p.may .traceDrop) :
    State.Kept p (State.mk a.pending a.tick a.free a.rdata a.mainClk a.rclkOn a.rphase a.rclk a.regs a.logs a.mem a.poison a.upset a.cells a.tb a.evr a.line a.auth a.safe a.hostEvent a.frt a.vats a.mig a.harp a.harpShare a.walkers a.swaps a.ing a.fus a.slv a.pln a.lp a.tsn a.xsl a.fbx a.wd a.diag a.pwr y38 y39 a.msix a.cg a.firm a.keep a.start a.snapCmp a.obs a.now) :=
  h.build rfl h.mem_wf h.cells_wf h.regs_wf rfl rfl rfl h.shape (fun f hf => by cases f <;> first | rfl | simp_all)

theorem State.Kept.upd_traceDrop {a : State} {y39 : Nat × Nat} (h : a.Kept p) (_ : p.may .traceDrop) :
    State.Kept p (State.mk a.pending a.tick a.free a.rdata a.mainClk a.rclkOn a.rphase a.rclk a.regs a.logs a.mem a.poison a.upset a.cells a.tb a.evr a.line a.auth a.safe a.hostEvent a.frt a.vats a.mig a.harp a.harpShare a.walkers a.swaps a.ing a.fus a.slv a.pln a.lp a.tsn a.xsl a.fbx a.wd a.diag a.pwr a.trace y39 a.msix a.cg a.firm a.keep a.start a.snapCmp a.obs a.now) :=
  h.build rfl h.mem_wf h.cells_wf h.regs_wf rfl rfl rfl h.shape (fun f hf => by cases f <;> first | rfl | simp_all)

theorem State.Kept.upd_tsn {a : State} {y32 : List TsnPort} (h : a.Kept p) (_ : p.may .tsn) (hl32 : y32.length = a.tsn.length) :
    State.Kept p (State.mk a.pending a.tick a.free a.rdata a.mainClk a.rclkOn a.rphase a.rclk a.regs a.logs a.mem a.poison a.upset a.cells a.tb a.evr a.line a.auth a.safe a.hostEvent a.frt a.vats a.mig a.harp a.harpShare a.walkers a.swaps a.ing a.fus a.slv a.pln a.lp y32 a.xsl a.fbx a.wd a.diag a.pwr a.trace a.traceDrop a.msix a.cg a.firm a.keep a.start a.snapCmp a.obs a.now) :=
  h.build rfl h.mem_wf h.cells_wf h.regs_wf rfl rfl rfl (by have e := h.shape; unfold State.shaped at e ⊢; simp only [hl32]; exact e) (fun f hf => by cases f <;> first | rfl | simp_all)

theorem State.Kept.upd_upset {a : State} {y12 : List Nat} (h : a.Kept p) (_ : p.may .upset) :
    State.Kept p (State.mk a.pending a.tick a.free a.rdata a.mainClk a.rclkOn a.rphase a.rclk a.regs a.logs a.mem a.poison y12 a.cells a.tb a.evr a.line a.auth a.safe a.hostEvent a.frt a.vats a.mig a.harp a.harpShare a.walkers a.swaps a.ing a.fus a.slv a.pln a.lp a.tsn a.xsl a.fbx a.wd a.diag a.pwr a.trace a.traceDrop a.msix a.cg a.firm a.keep a.start a.snapCmp a.obs a.now) :=
  h.build rfl h.mem_wf h.cells_wf h.regs_wf rfl rfl rfl h.shape (fun f hf => by cases f <;> first | rfl | simp_all)

theorem State.Kept.upd_vats {a : State} {y21 : List Vat} (h : a.Kept p) (_ : p.may .vats) (hl21 : y21.length = a.vats.length) :
    State.Kept p (State.mk a.pending a.tick a.free a.rdata a.mainClk a.rclkOn a.rphase a.rclk a.regs a.logs a.mem a.poison a.upset a.cells a.tb a.evr a.line a.auth a.safe a.hostEvent a.frt y21 a.mig a.harp a.harpShare a.walkers a.swaps a.ing a.fus a.slv a.pln a.lp a.tsn a.xsl a.fbx a.wd a.diag a.pwr a.trace a.traceDrop a.msix a.cg a.firm a.keep a.start a.snapCmp a.obs a.now) :=
  h.build rfl h.mem_wf h.cells_wf h.regs_wf rfl rfl rfl (by have e := h.shape; unfold State.shaped at e ⊢; simp only [hl21]; exact e) (fun f hf => by cases f <;> first | rfl | simp_all)

theorem State.Kept.upd_walkers {a : State} {y25 : List Walker} (h : a.Kept p) (_ : p.may .walkers) (hl25 : y25.length = a.walkers.length) :
    State.Kept p (State.mk a.pending a.tick a.free a.rdata a.mainClk a.rclkOn a.rphase a.rclk a.regs a.logs a.mem a.poison a.upset a.cells a.tb a.evr a.line a.auth a.safe a.hostEvent a.frt a.vats a.mig a.harp a.harpShare y25 a.swaps a.ing a.fus a.slv a.pln a.lp a.tsn a.xsl a.fbx a.wd a.diag a.pwr a.trace a.traceDrop a.msix a.cg a.firm a.keep a.start a.snapCmp a.obs a.now) :=
  h.build rfl h.mem_wf h.cells_wf h.regs_wf rfl rfl rfl (by have e := h.shape; unfold State.shaped at e ⊢; simp only [hl25]; exact e) (fun f hf => by cases f <;> first | rfl | simp_all)

theorem State.Kept.upd_wd {a : State} {y35 : Watchdogs} (h : a.Kept p) (_ : p.may .wd) :
    State.Kept p (State.mk a.pending a.tick a.free a.rdata a.mainClk a.rclkOn a.rphase a.rclk a.regs a.logs a.mem a.poison a.upset a.cells a.tb a.evr a.line a.auth a.safe a.hostEvent a.frt a.vats a.mig a.harp a.harpShare a.walkers a.swaps a.ing a.fus a.slv a.pln a.lp a.tsn a.xsl a.fbx y35 a.diag a.pwr a.trace a.traceDrop a.msix a.cg a.firm a.keep a.start a.snapCmp a.obs a.now) :=
  h.build rfl h.mem_wf h.cells_wf h.regs_wf rfl rfl rfl h.shape (fun f hf => by cases f <;> first | rfl | simp_all)

theorem State.Kept.upd_xsl {a : State} {y33 : Xexisha} (h : a.Kept p) (_ : p.may .xsl) :
    State.Kept p (State.mk a.pending a.tick a.free a.rdata a.mainClk a.rclkOn a.rphase a.rclk a.regs a.logs a.mem a.poison a.upset a.cells a.tb a.evr a.line a.auth a.safe a.hostEvent a.frt a.vats a.mig a.harp a.harpShare a.walkers a.swaps a.ing a.fus a.slv a.pln a.lp a.tsn y33 a.fbx a.wd a.diag a.pwr a.trace a.traceDrop a.msix a.cg a.firm a.keep a.start a.snapCmp a.obs a.now) :=
  h.build rfl h.mem_wf h.cells_wf h.regs_wf rfl rfl rfl h.shape (fun f hf => by cases f <;> first | rfl | simp_all)

end Sys2Proof.Machine
end

