-- ==== Sys2Proof/Laws/KeptStore.lean ====
section
/-! SUPPORT. State.Kept through the operations of Machine/Store.lean. -/

set_option linter.all false

namespace Sys2Proof.Machine

variable {p : Promise}

theorem State.setReg_kept {s : State} {k v : Nat} (h : s.Kept p) (m : p.may .regs) : (s.setReg k v).Kept p :=
  h.withRegs m (mapWf_mapSet h.regs_wf)


theorem State.setRegBits_kept {s : State} {k : Nat} {hi : Nat} {lo : Nat} {v : Nat} (h : s.Kept p) (_ : p.may .regs) :
    State.Kept p (State.setRegBits s k hi lo v) := by
  unfold State.setRegBits
  repeat' first
    | with_reducible assumption
    | with_reducible apply State.setReg_kept

theorem State.bumpBy_kept {s : State} {k : Nat} {n : Nat} (h : s.Kept p) (_ : p.may .regs) :
    State.Kept p (State.bumpBy s k n) := by
  unfold State.bumpBy
  repeat' first
    | with_reducible assumption
    | with_reducible apply State.setReg_kept

theorem State.bump_kept {s : State} {k : Nat} (h : s.Kept p) (_ : p.may .regs) :
    State.Kept p (State.bump s k) := by
  unfold State.bump
  repeat' first
    | with_reducible assumption
    | with_reducible apply State.bumpBy_kept

theorem State.setRegBit_kept {s : State} {k : Nat} {i : Nat} (h : s.Kept p) (_ : p.may .regs) :
    State.Kept p (State.setRegBit s k i) := by
  unfold State.setRegBit
  repeat' first
    | with_reducible assumption
    | with_reducible apply State.Kept.ite
    | with_reducible apply State.setReg_kept
    | split

theorem State.noteSet_kept {s : State} {k : Nat} {m : Nat} (h : s.Kept p) (_ : p.may .now) :
    State.Kept p (State.noteSet s k m) := by
  unfold State.noteSet
  exact State.Kept.upd_now h (by assumption)

theorem State.hwSetBit_kept {s : State} {k : Nat} {i : Nat} (h : s.Kept p) (_ : p.may .regs) (_ : p.may .now) :
    State.Kept p (State.hwSetBit s k i) := by
  unfold State.hwSetBit
  repeat' first
    | with_reducible assumption
    | with_reducible apply State.Kept.ite
    | with_reducible apply State.noteSet_kept
    | with_reducible apply State.setRegBit_kept
    | split

theorem State.store_kept {s : State} {a : Nat} {l : List Byte} (h : s.Kept p) (_ : p.may .mem) (_ : p.may .poison) (_ : p.may .upset) : (State.store s a l).Kept p :=
  h.build rfl (memWf_memStore h.mem_wf) h.cells_wf h.regs_wf rfl rfl rfl h.shape (fun f hf => by cases f <;> first | rfl | simp_all)


theorem State.storeLE_kept {s : State} {a : Nat} {n : Nat} {v : Nat} (h : s.Kept p) (_ : p.may .mem) (_ : p.may .poison) (_ : p.may .upset) :
    State.Kept p (State.storeLE s a n v) := by
  unfold State.storeLE
  repeat' first
    | with_reducible assumption
    | with_reducible apply State.store_kept

theorem State.storePoisoned_kept {s : State} {a : Nat} {l : List Byte} (h : s.Kept p) (_ : p.may .mem) (_ : p.may .poison) : (State.storePoisoned s a l).Kept p :=
  h.build rfl (memWf_memStore h.mem_wf) h.cells_wf h.regs_wf rfl rfl rfl h.shape (fun f hf => by cases f <;> first | rfl | simp_all)


theorem State.setCell_kept {s : State} {n k v : Nat} (h : s.Kept p) (_ : p.may .cells) : (s.setCell n k v).Kept p :=
  h.build rfl h.mem_wf (mapWf_mapSet h.cells_wf) h.regs_wf rfl rfl rfl h.shape (fun f hf => by cases f <;> first | rfl | simp_all)


theorem State.addCell_kept {s : State} {n : Nat} {k : Nat} {v : Nat} (h : s.Kept p) (_ : p.may .cells) :
    State.Kept p (State.addCell s n k v) := by
  unfold State.addCell
  repeat' first
    | with_reducible assumption
    | with_reducible apply State.Kept.ite
    | with_reducible apply State.setCell_kept
    | split

theorem State.cellDo_kept {s : State} {n : Nat} {k : Nat} {i : Nat} {op : CellOp} (h : s.Kept p) (_ : p.may .cells) (_ : p.may .now) :
    State.Kept p (State.cellDo s n k i op) := by
  unfold State.cellDo
  repeat' first
    | with_reducible assumption
    | (intro x; first
        | (refine (have hx : State.Kept p x := ?_; ?_); subst x; rotate_left; clear_value x; rotate_right)
        | (refine (have hx : State.Kept p x.1 := ?_; ?_); subst x; rotate_left; clear_value x; rotate_right)
        | (try clear_value x))
    | lift_lets -underBinder
    | with_reducible apply State.Kept.ite
    | with_reducible apply State.Kept.foldl
    | with_reducible apply State.Kept.foldl_fst
    | with_reducible apply State.setCell_kept
    | (with_reducible apply State.Kept.upd_now <;> with_reducible assumption)
    | split

theorem State.useFree_kept {s : State} (h : s.Kept p) (_ : p.may .free) :
    State.Kept p (State.useFree s) := by
  unfold State.useFree
  exact State.Kept.upd_free h (by assumption)

theorem State.useFrees_kept {s : State} {n : Nat} (h : s.Kept p) (_ : p.may .free) :
    State.Kept p (State.useFrees s n) := by
  unfold State.useFrees
  exact State.Kept.upd_free h (by assumption)

end Sys2Proof.Machine
end

