-- ==== Sys2Proof/Laws/KeptActivity.lean ====
section
/-! SUPPORT. State.Kept through the operations of Machine/Activity.lean. -/

set_option linter.all false

namespace Sys2Proof.Machine

variable {p : Promise}

theorem State.act_kept {s : State} {q : Nat} {i : Nat} {n : Nat} (h : s.Kept p) (_ : p.may .pwr) :
    State.Kept p (State.act s q i n) := by
  unfold State.act
  repeat' first
    | with_reducible assumption
    | with_reducible apply State.Kept.ite
    | (with_reducible apply State.Kept.upd_pwr <;> with_reducible assumption)
    | split

theorem State.vatAct_kept {s : State} {v : Nat} {i : Nat} {n : Nat} (h : s.Kept p) (_ : p.may .pwr) :
    State.Kept p (State.vatAct s v i n) := by
  unfold State.vatAct
  repeat' first
    | with_reducible assumption
    | with_reducible apply State.Kept.ite
    | with_reducible apply State.act_kept
    | split

theorem State.actTarget_kept {s : State} {a : Nat} {n : Nat} (h : s.Kept p) (_ : p.may .pwr) :
    State.Kept p (State.actTarget s a n) := by
  unfold State.actTarget
  repeat' first
    | with_reducible assumption
    | with_reducible apply State.vatAct_kept
    | split

theorem State.actMover_kept {s : State} {v : Nat} {a : Nat} {n : Nat} (h : s.Kept p) (_ : p.may .pwr) :
    State.Kept p (State.actMover s v a n) := by
  unfold State.actMover
  repeat' first
    | with_reducible assumption
    | with_reducible apply State.Kept.ite
    | with_reducible apply State.actTarget_kept
    | with_reducible apply State.vatAct_kept
    | split

theorem State.actHub_kept {s : State} {p' : Nat} {a : Nat} {n : Nat} (h : s.Kept p) (_ : p.may .pwr) :
    State.Kept p (State.actHub s p' a n) := by
  unfold State.actHub
  repeat' first
    | with_reducible assumption
    | with_reducible apply State.actTarget_kept
    | with_reducible apply State.act_kept

theorem State.winOpen_kept {s : State} {v : Nat} (h : s.Kept p) (_ : p.may .pwr) :
    State.Kept p (State.winOpen s v) := by
  unfold State.winOpen
  exact State.Kept.upd_pwr h (by assumption)

theorem State.winClose_kept {s : State} {v : Nat} (h : s.Kept p) (_ : p.may .regs) :
    State.Kept p (State.winClose s v) := by
  unfold State.winClose
  repeat' first
    | with_reducible assumption
    | (intro x; first
        | (refine (have hx : State.Kept p x := ?_; ?_); subst x; rotate_left; clear_value x; rotate_right)
        | (refine (have hx : State.Kept p x.1 := ?_; ?_); subst x; rotate_left; clear_value x; rotate_right)
        | (try clear_value x))
    | lift_lets -underBinder
    | with_reducible apply State.Kept.ite
    | with_reducible apply State.bump_kept
    | split

end Sys2Proof.Machine
end

