-- ==== Sys2Proof/Laws/KeptSnapshot.lean ====
section
/-! SUPPORT. State.Kept through the operations of Machine/Snapshot.lean. -/

set_option linter.all false

namespace Sys2Proof.Machine

variable {p : Promise}

theorem State.latchSnapshots_kept {s : State} (h : s.Kept p) (_ : p.may .regs) :
    State.Kept p (State.latchSnapshots s) := by
  unfold State.latchSnapshots
  repeat' first
    | with_reducible assumption
    | (intro x; first
        | (refine (have hx : State.Kept p x := ?_; ?_); subst x; rotate_left; clear_value x; rotate_right)
        | (refine (have hx : State.Kept p x.1 := ?_; ?_); subst x; rotate_left; clear_value x; rotate_right)
        | (try clear_value x))
    | lift_lets -underBinder
    | with_reducible apply State.Kept.foldl
    | with_reducible apply State.Kept.foldl_fst
    | with_reducible apply State.setReg_kept

theorem State.snapshotFire_kept {s : State} {sources : Nat} (h : s.Kept p) (_ : p.may .regs) (_ : p.may .now) :
    State.Kept p (State.snapshotFire s sources) := by
  unfold State.snapshotFire
  repeat' first
    | with_reducible assumption
    | (intro x; first
        | (refine (have hx : State.Kept p x := ?_; ?_); subst x; rotate_left; clear_value x; rotate_right)
        | (refine (have hx : State.Kept p x.1 := ?_; ?_); subst x; rotate_left; clear_value x; rotate_right)
        | (try clear_value x))
    | lift_lets -underBinder
    | with_reducible apply State.Kept.ite
    | with_reducible apply State.setReg_kept
    | with_reducible apply State.bump_kept
    | with_reducible apply State.latchSnapshots_kept
    | (with_reducible apply State.Kept.upd_now <;> with_reducible assumption)
    | split

end Sys2Proof.Machine
end

