-- ==== Sys2Proof/Laws/KeptOps.lean ====
section
/-! SUPPORT. State.Kept through the operations of Machine/Ops.lean. -/

set_option linter.all false

namespace Sys2Proof.Machine

variable {p : Promise}

theorem State.raiseVector_kept {s : State} {v : Nat} (h : s.Kept p) (_ : p.may .msix) :
    State.Kept p (State.raiseVector s v) := by
  unfold State.raiseVector
  exact State.Kept.upd_msix h (by assumption)

theorem State.hostEv_kept {s : State} {m : Nat} (h : s.Kept p) (_ : p.may .hostEvent) (_ : p.may .msix) (_ : p.may .now) :
    State.Kept p (State.hostEv s m) := by
  unfold State.hostEv
  repeat' first
    | with_reducible assumption
    | (intro x; first
        | (refine (have hx : State.Kept p x := ?_; ?_); subst x; rotate_left; clear_value x; rotate_right)
        | (refine (have hx : State.Kept p x.1 := ?_; ?_); subst x; rotate_left; clear_value x; rotate_right)
        | (try clear_value x))
    | lift_lets -underBinder
    | with_reducible apply State.Kept.ite
    | with_reducible apply State.noteSet_kept
    | with_reducible apply State.raiseVector_kept
    | (with_reducible apply State.Kept.upd_hostEvent <;> with_reducible assumption)
    | split

theorem State.onMain_kept {s : State} {f : State → State} (h : s.Kept p) (hf : ∀ (t : State), t.Kept p → State.Kept p (f t )) :
    State.Kept p (State.onMain s f) := by
  unfold State.onMain
  repeat' first
    | with_reducible assumption
    | (intro x; first
        | (refine (have hx : State.Kept p x := ?_; ?_); subst x; rotate_left; clear_value x; rotate_right)
        | (refine (have hx : State.Kept p x.1 := ?_; ?_); subst x; rotate_left; clear_value x; rotate_right)
        | (try clear_value x))
    | lift_lets -underBinder
    | with_reducible apply State.Kept.ite
    | with_reducible apply hf
    | split

theorem State.syncState_kept {s : State} (h : s.Kept p) (_ : p.may .regs) (_ : p.may .hostEvent) (_ : p.may .msix) (_ : p.may .now) :
    State.Kept p (State.syncState s) := by
  unfold State.syncState
  repeat' first
    | with_reducible assumption
    | (intro x; first
        | (refine (have hx : State.Kept p x := ?_; ?_); subst x; rotate_left; clear_value x; rotate_right)
        | (refine (have hx : State.Kept p x.1 := ?_; ?_); subst x; rotate_left; clear_value x; rotate_right)
        | (try clear_value x))
    | lift_lets -underBinder
    | with_reducible apply State.Kept.ite
    | with_reducible apply State.setReg_kept
    | with_reducible apply State.hostEv_kept
    | split

theorem State.setFw_kept {s : State} {x' : Nat} (h : s.Kept p) (_ : p.may .regs) (_ : p.may .hostEvent) (_ : p.may .msix) (_ : p.may .now) :
    State.Kept p (State.setFw s x') := by
  unfold State.setFw
  repeat' first
    | with_reducible assumption
    | with_reducible apply State.Kept.ite
    | with_reducible apply State.hostEv_kept
    | with_reducible apply State.setRegBits_kept
    | split

theorem State.post_kept {s : State} {kind : Nat} {code : Nat} {role : Nat} {mbox : Nat} {frame : Nat} {stw : Nat} {detail : Nat} (h : s.Kept p) (_ : p.may .regs) (_ : p.may .evr) (_ : p.may .hostEvent) (_ : p.may .msix) (_ : p.may .now) :
    State.Kept p (State.post s kind code role mbox frame stw detail) := by
  unfold State.post
  repeat' first
    | with_reducible assumption
    | (intro x; first
        | (refine (have hx : State.Kept p x := ?_; ?_); subst x; rotate_left; clear_value x; rotate_right)
        | (refine (have hx : State.Kept p x.1 := ?_; ?_); subst x; rotate_left; clear_value x; rotate_right)
        | (try clear_value x))
    | lift_lets -underBinder
    | with_reducible apply State.Kept.ite
    | with_reducible apply State.bump_kept
    | with_reducible apply State.hostEv_kept
    | (with_reducible apply State.Kept.upd_evr <;> with_reducible assumption)
    | split

theorem State.postHd_kept {s : State} {kind : Nat} {code : Nat} {detail : Nat} (h : s.Kept p) (_ : p.may .regs) (_ : p.may .evr) (_ : p.may .hostEvent) (_ : p.may .msix) (_ : p.may .now) :
    State.Kept p (State.postHd s kind code detail) := by
  unfold State.postHd
  repeat' first
    | with_reducible assumption
    | with_reducible apply State.post_kept

theorem State.postRd_kept {s : State} {kind : Nat} {code : Nat} {detail : Nat} (h : s.Kept p) (_ : p.may .regs) (_ : p.may .evr) (_ : p.may .hostEvent) (_ : p.may .msix) (_ : p.may .now) :
    State.Kept p (State.postRd s kind code detail) := by
  unfold State.postRd
  repeat' first
    | with_reducible assumption
    | with_reducible apply State.post_kept

theorem State.outcome_kept {s : State} {blk : Nat} {code : Nat} {detail : Nat} (h : s.Kept p) (_ : p.may .regs) (_ : p.may .evr) (_ : p.may .hostEvent) (_ : p.may .msix) (_ : p.may .now) :
    State.Kept p (State.outcome s blk code detail) := by
  unfold State.outcome
  repeat' first
    | with_reducible assumption
    | with_reducible apply State.postHd_kept

theorem State.emit_kept {s : State} {src : Nat} {ev : Nat} {a : Nat} {b : Nat} (h : s.Kept p) (_ : p.may .regs) (_ : p.may .trace) (_ : p.may .traceDrop) :
    State.Kept p (State.emit s src ev a b) := by
  unfold State.emit
  repeat' first
    | with_reducible assumption
    | (intro x; first
        | (refine (have hx : State.Kept p x := ?_; ?_); subst x; rotate_left; clear_value x; rotate_right)
        | (refine (have hx : State.Kept p x.1 := ?_; ?_); subst x; rotate_left; clear_value x; rotate_right)
        | (try clear_value x))
    | lift_lets -underBinder
    | with_reducible apply State.Kept.ite
    | with_reducible apply State.Kept.foldl
    | with_reducible apply State.Kept.foldl_fst
    | with_reducible apply State.bump_kept
    | (with_reducible apply State.Kept.upd_traceDrop <;> (first
      | with_reducible assumption
      | (intro _; with_reducible rfl)
      | (intro _; decide)
      | with_reducible apply State.bump_kept))
    | (with_reducible apply State.Kept.upd_trace <;> (first
      | with_reducible assumption
      | (intro _; with_reducible rfl)
      | (intro _; decide)
      | with_reducible apply State.bump_kept))
    | split

theorem State.takeover_kept {s : State} (h : s.Kept p) (_ : p.may .regs) (_ : p.may .auth) (_ : p.may .hostEvent) (_ : p.may .fbx) (_ : p.may .msix) (_ : p.may .now) :
    State.Kept p (State.takeover s) := by
  unfold State.takeover
  repeat' first
    | with_reducible assumption
    | (intro x; first
        | (refine (have hx : State.Kept p x := ?_; ?_); subst x; rotate_left; clear_value x; rotate_right)
        | (refine (have hx : State.Kept p x.1 := ?_; ?_); subst x; rotate_left; clear_value x; rotate_right)
        | (try clear_value x))
    | lift_lets -underBinder
    | with_reducible apply State.Kept.ite
    | with_reducible apply State.setReg_kept
    | with_reducible apply State.bump_kept
    | with_reducible apply State.syncState_kept
    | (with_reducible apply State.Kept.upd_auth_fbx <;> (first | with_reducible assumption | (intro _; with_reducible rfl) | (intro _; decide)))
    | split

theorem State.tellHandback_kept {s : State} {cause : Nat} (h : s.Kept p) (_ : p.may .firm) :
    State.Kept p (State.tellHandback s cause) := by
  unfold State.tellHandback
  repeat' first
    | with_reducible assumption
    | with_reducible apply State.Kept.ite
    | (with_reducible apply State.Kept.upd_firm <;> with_reducible assumption)
    | split

theorem State.cancelHandback_kept {s : State} {cause : Nat} (h : s.Kept p) (_ : p.may .regs) (_ : p.may .evr) (_ : p.may .auth) (_ : p.may .hostEvent) (_ : p.may .fbx) (_ : p.may .msix) (_ : p.may .firm) (_ : p.may .now) :
    State.Kept p (State.cancelHandback s cause) := by
  unfold State.cancelHandback
  repeat' first
    | with_reducible assumption
    | (intro x; first
        | (refine (have hx : State.Kept p x := ?_; ?_); subst x; rotate_left; clear_value x; rotate_right)
        | (refine (have hx : State.Kept p x.1 := ?_; ?_); subst x; rotate_left; clear_value x; rotate_right)
        | (try clear_value x))
    | lift_lets -underBinder
    | with_reducible apply State.postRd_kept
    | with_reducible apply State.tellHandback_kept
    | with_reducible apply State.syncState_kept
    | (with_reducible apply State.Kept.upd_auth_fbx <;> (first | with_reducible assumption | (intro _; with_reducible rfl) | (intro _; decide)))

theorem State.doubtActs_kept {s : State} {cause : Nat} (h : s.Kept p) (_ : p.may .regs) (_ : p.may .evr) (_ : p.may .auth) (_ : p.may .hostEvent) (_ : p.may .fbx) (_ : p.may .msix) (_ : p.may .firm) (_ : p.may .now) :
    State.Kept p (State.doubtActs s cause) := by
  unfold State.doubtActs
  repeat' first
    | with_reducible assumption
    | with_reducible apply State.takeover_kept
    | with_reducible apply State.cancelHandback_kept
    | split

theorem State.enterSafe_kept {s : State} (h : s.Kept p) (_ : p.may .regs) (_ : p.may .auth) (_ : p.may .safe) (_ : p.may .hostEvent) (_ : p.may .fbx) (_ : p.may .msix) (_ : p.may .now) :
    State.Kept p (State.enterSafe s) := by
  unfold State.enterSafe
  repeat' first
    | with_reducible assumption
    | with_reducible apply State.syncState_kept
    | (with_reducible apply State.Kept.upd_auth_safe_fbx <;> (first | with_reducible assumption | (intro _; with_reducible rfl) | (intro _; decide)))

theorem State.rindFirst_kept {s : State} {code : Nat} (h : s.Kept p) (_ : p.may .regs) (_ : p.may .line) :
    State.Kept p (State.rindFirst s code) := by
  unfold State.rindFirst
  repeat' first
    | with_reducible assumption
    | (intro x; first
        | (refine (have hx : State.Kept p x := ?_; ?_); subst x; rotate_left; clear_value x; rotate_right)
        | (refine (have hx : State.Kept p x.1 := ?_; ?_); subst x; rotate_left; clear_value x; rotate_right)
        | (try clear_value x))
    | lift_lets -underBinder
    | with_reducible apply State.Kept.ite
    | with_reducible apply State.Kept.foldl
    | with_reducible apply State.Kept.foldl_fst
    | with_reducible apply State.setReg_kept
    | (with_reducible apply State.Kept.upd_line <;> (first
      | with_reducible assumption
      | (intro _; with_reducible rfl)
      | (intro _; decide)
      | with_reducible apply State.setReg_kept))
    | split

theorem State.raise_kept {s : State} {code : Nat} {d : DoubtInfo} (h : s.Kept p) (_ : p.may .regs) (_ : p.may .evr) (_ : p.may .line) (_ : p.may .auth) (_ : p.may .safe) (_ : p.may .hostEvent) (_ : p.may .fbx) (_ : p.may .trace) (_ : p.may .traceDrop) (_ : p.may .msix) (_ : p.may .firm) (_ : p.may .now) :
    State.Kept p (State.raise s code d) := by
  unfold State.raise
  repeat' first
    | with_reducible assumption
    | (intro x; first
        | (refine (have hx : State.Kept p x := ?_; ?_); subst x; rotate_left; clear_value x; rotate_right)
        | (refine (have hx : State.Kept p x.1 := ?_; ?_); subst x; rotate_left; clear_value x; rotate_right)
        | (try clear_value x))
    | lift_lets -underBinder
    | with_reducible apply State.Kept.ite
    | with_reducible apply State.hwSetBit_kept
    | with_reducible apply State.setReg_kept
    | with_reducible apply State.bump_kept
    | with_reducible apply State.postHd_kept
    | with_reducible apply State.postRd_kept
    | with_reducible apply State.enterSafe_kept
    | with_reducible apply State.snapshotFire_kept
    | with_reducible apply State.rindFirst_kept
    | with_reducible apply State.syncState_kept
    | with_reducible apply State.doubtActs_kept
    | with_reducible apply State.emit_kept
    | (with_reducible apply State.Kept.upd_line <;> with_reducible assumption)
    | split

theorem State.countCE_kept {s : State} {blk : Nat} {key : Nat} (h : s.Kept p) (_ : p.may .regs) (_ : p.may .evr) (_ : p.may .hostEvent) (_ : p.may .msix) (_ : p.may .now) :
    State.Kept p (State.countCE s blk key) := by
  unfold State.countCE
  repeat' first
    | with_reducible assumption
    | (intro x; first
        | (refine (have hx : State.Kept p x := ?_; ?_); subst x; rotate_left; clear_value x; rotate_right)
        | (refine (have hx : State.Kept p x.1 := ?_; ?_); subst x; rotate_left; clear_value x; rotate_right)
        | (try clear_value x))
    | lift_lets -underBinder
    | with_reducible apply State.Kept.ite
    | with_reducible apply State.bump_kept
    | with_reducible apply State.outcome_kept
    | split

theorem State.cellOpAs_kept {s : State} {i : Nat} {a : Nat} {op : CellOp} (h : s.Kept p) (_ : p.may .cells) (_ : p.may .now) :
    State.Kept p (State.cellOpAs s i a op) := by
  unfold State.cellOpAs
  repeat' first
    | with_reducible assumption
    | with_reducible apply State.cellDo_kept
    | split

theorem State.cellOp_kept {s : State} {a : Nat} {op : CellOp} (h : s.Kept p) (_ : p.may .cells) (_ : p.may .now) :
    State.Kept p (State.cellOp s a op) := by
  unfold State.cellOp
  repeat' first
    | with_reducible assumption
    | with_reducible apply State.Kept.ite
    | with_reducible apply State.cellOpAs_kept
    | split

end Sys2Proof.Machine
end

