-- ==== Sys2Proof/Laws/KeptRegisters.lean ====
section
/-! SUPPORT. State.Kept through the operations of Machine/Registers.lean. -/

set_option linter.all false

namespace Sys2Proof.Machine

variable {p : Promise}

theorem State.modVat_kept {s : State} {n : Nat} {f : Vat → Vat} (h : s.Kept p) (_ : p.may .vats) :
    State.Kept p (State.modVat s n f) := by
  unfold State.modVat
  exact State.Kept.upd_vats h (by assumption) (by simp only [listModify_length, listSet_length])

theorem State.modCore_kept {s : State} {n : Nat} {f : VatCore → VatCore} (h : s.Kept p) (_ : p.may .vats) :
    State.Kept p (State.modCore s n f) := by
  unfold State.modCore
  repeat' first
    | with_reducible assumption
    | (intro x; first
        | (refine (have hx : State.Kept p x := ?_; ?_); subst x; rotate_left; clear_value x; rotate_right)
        | (refine (have hx : State.Kept p x.1 := ?_; ?_); subst x; rotate_left; clear_value x; rotate_right)
        | (try clear_value x))
    | lift_lets -underBinder
    | with_reducible apply State.Kept.ite
    | with_reducible apply State.modVat_kept
    | split

theorem State.modPort_kept {s : State} {p' : Nat} {f : XPort → XPort} (h : s.Kept p) (_ : p.may .xsl) :
    State.Kept p (State.modPort s p' f) := by
  unfold State.modPort
  repeat' first
    | with_reducible assumption
    | (intro x; first
        | (refine (have hx : State.Kept p x := ?_; ?_); subst x; rotate_left; clear_value x; rotate_right)
        | (refine (have hx : State.Kept p x.1 := ?_; ?_); subst x; rotate_left; clear_value x; rotate_right)
        | (try clear_value x))
    | lift_lets -underBinder
    | with_reducible apply State.Kept.ite
    | with_reducible apply State.Kept.foldl
    | with_reducible apply State.Kept.foldl_fst
    | (with_reducible apply State.Kept.upd_xsl <;> with_reducible assumption)
    | split

theorem State.dropTrace_kept {s : State} (h : s.Kept p) (_ : p.may .trace) (_ : p.may .traceDrop) :
    State.Kept p (State.dropTrace s) := by
  unfold State.dropTrace
  exact State.Kept.upd_trace_traceDrop h (by assumption) ‹_›

theorem State.popTrace_kept {s : State} (h : s.Kept p) (_ : p.may .regs) (_ : p.may .trace) (_ : p.may .traceDrop) :
    State.Kept p (State.popTrace s) := by
  unfold State.popTrace
  repeat' first
    | with_reducible assumption
    | (intro x; first
        | (refine (have hx : State.Kept p x := ?_; ?_); subst x; rotate_left; clear_value x; rotate_right)
        | (refine (have hx : State.Kept p x.1 := ?_; ?_); subst x; rotate_left; clear_value x; rotate_right)
        | (try clear_value x))
    | lift_lets -underBinder
    | with_reducible apply State.Kept.ite
    | with_reducible apply State.Kept.foldl
    | with_reducible apply State.Kept.foldl_fst
    | with_reducible apply State.setReg_kept
    | with_reducible apply State.dropTrace_kept
    | split

theorem State.pushLog_kept {s : State} {k : Nat} {n : Nat} {e : Nat} (h : s.Kept p) (_ : p.may .logs) :
    State.Kept p (State.pushLog s k n e) := by
  unfold State.pushLog
  exact State.Kept.upd_logs h (by assumption)

theorem State.advanceF_kept {s : State} (h : s.Kept p) (_ : p.may .regs) (_ : p.may .evr) :
    State.Kept p (State.advanceF s) := by
  unfold State.advanceF
  repeat' first
    | with_reducible assumption
    | (intro x; first
        | (refine (have hx : State.Kept p x := ?_; ?_); subst x; rotate_left; clear_value x; rotate_right)
        | (refine (have hx : State.Kept p x.1 := ?_; ?_); subst x; rotate_left; clear_value x; rotate_right)
        | (try clear_value x))
    | lift_lets -underBinder
    | with_reducible apply State.Kept.ite
    | with_reducible apply State.setReg_kept
    | (with_reducible apply State.Kept.upd_evr <;> with_reducible assumption)
    | split

theorem State.advanceO_kept {s : State} (h : s.Kept p) (_ : p.may .regs) (_ : p.may .evr) :
    State.Kept p (State.advanceO s) := by
  unfold State.advanceO
  repeat' first
    | with_reducible assumption
    | (intro x; first
        | (refine (have hx : State.Kept p x := ?_; ?_); subst x; rotate_left; clear_value x; rotate_right)
        | (refine (have hx : State.Kept p x.1 := ?_; ?_); subst x; rotate_left; clear_value x; rotate_right)
        | (try clear_value x))
    | lift_lets -underBinder
    | with_reducible apply State.Kept.ite
    | with_reducible apply State.setReg_kept
    | (with_reducible apply State.Kept.upd_evr <;> with_reducible assumption)
    | split

theorem State.readEffect_kept {s : State} {k : Nat} (h : s.Kept p) (_ : p.may .regs) (_ : p.may .logs) (_ : p.may .tb) (_ : p.may .evr) (_ : p.may .trace) (_ : p.may .traceDrop) :
    State.Kept p (State.readEffect s k) := by
  unfold State.readEffect
  repeat' first
    | with_reducible assumption
    | with_reducible apply State.Kept.ite
    | with_reducible apply State.setReg_kept
    | with_reducible apply State.popTrace_kept
    | with_reducible apply State.advanceF_kept
    | with_reducible apply State.advanceO_kept
    | (with_reducible apply State.Kept.upd_tb <;> with_reducible assumption)
    | (with_reducible apply State.Kept.upd_logs <;> with_reducible assumption)
    | split

end Sys2Proof.Machine
end

