-- ==== Sys2Proof/Laws/KeptProtect.lean ====
section
/-! SUPPORT. State.Kept through the operations of Machine/Protect.lean. -/

set_option linter.all false

namespace Sys2Proof.Machine

variable {p : Promise}

theorem State.correct_kept {s : State} {w : Nat} (h : s.Kept p) (_ : p.may .regs) (_ : p.may .upset) (_ : p.may .evr) (_ : p.may .hostEvent) (_ : p.may .msix) (_ : p.may .now) :
    State.Kept p (State.correct s w) := by
  unfold State.correct
  repeat' first
    | with_reducible assumption
    | with_reducible apply State.countCE_kept
    | (with_reducible apply State.Kept.upd_upset <;> with_reducible assumption)
    | split

theorem State.mend_kept {s : State} {a : Nat} {n : Nat} (h : s.Kept p) (_ : p.may .regs) (_ : p.may .upset) (_ : p.may .evr) (_ : p.may .hostEvent) (_ : p.may .msix) (_ : p.may .now) :
    State.Kept p (State.mend s a n) := by
  unfold State.mend
  repeat' first
    | with_reducible assumption
    | (intro x; first
        | (refine (have hx : State.Kept p x := ?_; ?_); subst x; rotate_left; clear_value x; rotate_right)
        | (refine (have hx : State.Kept p x.1 := ?_; ?_); subst x; rotate_left; clear_value x; rotate_right)
        | (try clear_value x))
    | lift_lets -underBinder
    | with_reducible apply State.Kept.foldl
    | with_reducible apply State.Kept.foldl_fst
    | with_reducible apply State.correct_kept

theorem State.uncorrectable_kept {s : State} {w : Nat} {p' : Nat} {d : DoubtInfo} (h : s.Kept p) (_ : p.may .regs) (_ : p.may .logs) (_ : p.may .evr) (_ : p.may .line) (_ : p.may .auth) (_ : p.may .safe) (_ : p.may .hostEvent) (_ : p.may .fbx) (_ : p.may .trace) (_ : p.may .traceDrop) (_ : p.may .msix) (_ : p.may .firm) (_ : p.may .now) :
    State.Kept p (State.uncorrectable s w p' d) := by
  unfold State.uncorrectable
  repeat' first
    | with_reducible assumption
    | (intro x; first
        | (refine (have hx : State.Kept p x := ?_; ?_); subst x; rotate_left; clear_value x; rotate_right)
        | (refine (have hx : State.Kept p x.1 := ?_; ?_); subst x; rotate_left; clear_value x; rotate_right)
        | (try clear_value x))
    | lift_lets -underBinder
    | with_reducible apply State.Kept.ite
    | with_reducible apply State.bump_kept
    | with_reducible apply State.pushLog_kept
    | with_reducible apply State.raise_kept
    | split

theorem State.eccRead_kept {s : State} {a : Nat} {n : Nat} {p' : Nat} {d : DoubtInfo} (h : s.Kept p) (_ : p.may .regs) (_ : p.may .logs) (_ : p.may .upset) (_ : p.may .evr) (_ : p.may .line) (_ : p.may .auth) (_ : p.may .safe) (_ : p.may .hostEvent) (_ : p.may .fbx) (_ : p.may .trace) (_ : p.may .traceDrop) (_ : p.may .msix) (_ : p.may .firm) (_ : p.may .now) :
    State.Kept p (State.eccRead s a n p' d) := by
  unfold State.eccRead
  repeat' first
    | with_reducible assumption
    | (intro x; first
        | (refine (have hx : State.Kept p x := ?_; ?_); subst x; rotate_left; clear_value x; rotate_right)
        | (refine (have hx : State.Kept p x.1 := ?_; ?_); subst x; rotate_left; clear_value x; rotate_right)
        | (try clear_value x))
    | lift_lets -underBinder
    | with_reducible apply State.Kept.foldl
    | with_reducible apply State.Kept.foldl_fst
    | with_reducible apply State.correct_kept
    | with_reducible apply State.uncorrectable_kept

theorem State.deny_kept {s : State} {c : Nat} {p' : Nat} {kind : Nat} {a : Nat} (h : s.Kept p) (_ : p.may .regs) (_ : p.may .logs) :
    State.Kept p (State.deny s c p' kind a) := by
  unfold State.deny
  repeat' first
    | with_reducible assumption
    | with_reducible apply State.bump_kept
    | with_reducible apply State.pushLog_kept

theorem State.cmpLog_kept {s : State} {core : Nat} {inst : Nat} {tile : Nat} {kind : Nat} {lanes : Nat} (h : s.Kept p) (_ : p.may .logs) :
    State.Kept p (State.cmpLog s core inst tile kind lanes) := by
  unfold State.cmpLog
  repeat' first
    | with_reducible assumption
    | with_reducible apply State.pushLog_kept

end Sys2Proof.Machine
end

