-- ==== Sys2Proof/Laws/KeptScanUnit.lean ====
section
/-! SUPPORT. State.Kept through the operations of Machine/ScanUnit.lean. -/

set_option linter.all false

namespace Sys2Proof.Machine

variable {p : Promise}

theorem State.chunkRead_kept {s : State} {v : Nat} {k : Chunk} (h : s.Kept p) (_ : p.may .regs) (_ : p.may .logs) (_ : p.may .upset) (_ : p.may .evr) (_ : p.may .line) (_ : p.may .auth) (_ : p.may .safe) (_ : p.may .hostEvent) (_ : p.may .vats) (_ : p.may .fbx) (_ : p.may .pwr) (_ : p.may .trace) (_ : p.may .traceDrop) (_ : p.may .msix) (_ : p.may .firm) (_ : p.may .now) :
    State.Kept p (State.chunkRead s v k) := by
  unfold State.chunkRead
  repeat' first
    | with_reducible assumption
    | (intro x; first
        | (refine (have hx : State.Kept p x := ?_; ?_); subst x; rotate_left; clear_value x; rotate_right)
        | (refine (have hx : State.Kept p x.1 := ?_; ?_); subst x; rotate_left; clear_value x; rotate_right)
        | skip)
    | lift_lets -underBinder
    | with_reducible apply State.Kept.ite
    | with_reducible apply State.Kept.foldl
    | with_reducible apply State.Kept.foldl_fst
    | with_reducible apply State.eccRead_kept
    | with_reducible apply State.modCore_kept
    | with_reducible apply State.vatAct_kept
    | split

theorem State.chunkReads_kept {s : State} {v : Nat} (h : s.Kept p) (_ : p.may .regs) (_ : p.may .logs) (_ : p.may .upset) (_ : p.may .evr) (_ : p.may .line) (_ : p.may .auth) (_ : p.may .safe) (_ : p.may .hostEvent) (_ : p.may .vats) (_ : p.may .fbx) (_ : p.may .pwr) (_ : p.may .trace) (_ : p.may .traceDrop) (_ : p.may .msix) (_ : p.may .firm) (_ : p.may .now) :
    State.Kept p (State.chunkReads s v) := by
  unfold State.chunkReads
  repeat' first
    | with_reducible assumption
    | (intro x; first
        | (refine (have hx : State.Kept p x := ?_; ?_); subst x; rotate_left; clear_value x; rotate_right)
        | (refine (have hx : State.Kept p x.1 := ?_; ?_); subst x; rotate_left; clear_value x; rotate_right)
        | (try clear_value x))
    | lift_lets -underBinder
    | with_reducible apply State.Kept.ite
    | with_reducible apply State.Kept.foldl
    | with_reducible apply State.Kept.foldl_fst
    | with_reducible apply State.Kept.getD
    | with_reducible apply State.chunkRead_kept
    | split

theorem State.scnChecked_kept {s : State} {v : Nat} {i : Nat} {kind : Nat} {acc : Nat} {lc : Nat} {pc : Nat} {p' : Nat} {discard : Bool} {d : List Byte} (h : s.Kept p) (_ : p.may .regs) (_ : p.may .logs) (_ : p.may .upset) (_ : p.may .evr) (_ : p.may .line) (_ : p.may .auth) (_ : p.may .safe) (_ : p.may .hostEvent) (_ : p.may .vats) (_ : p.may .fbx) (_ : p.may .pwr) (_ : p.may .trace) (_ : p.may .traceDrop) (_ : p.may .msix) (_ : p.may .firm) (_ : p.may .now) :
    State.Kept p (State.scnChecked s v i kind acc lc pc p' discard d) := by
  unfold State.scnChecked
  repeat' first
    | with_reducible assumption
    | (intro x; first
        | (refine (have hx : State.Kept p x := ?_; ?_); subst x; rotate_left; clear_value x; rotate_right)
        | (refine (have hx : State.Kept p x.1 := ?_; ?_); subst x; rotate_left; clear_value x; rotate_right)
        | (try clear_value x))
    | lift_lets -underBinder
    | with_reducible apply State.Kept.ite
    | with_reducible apply State.eccRead_kept
    | with_reducible apply State.modCore_kept
    | with_reducible apply State.vatAct_kept
    | split

end Sys2Proof.Machine
end

