-- ==== Sys2Proof/Laws/KeptFrameFmt.lean ====
section
/-! SUPPORT. State.Kept through the operations of Machine/FrameFmt.lean. -/

set_option linter.all false

namespace Sys2Proof.Machine

variable {p : Promise}

theorem State.modRun_kept {s : State} {v : Nat} {f : SlotRun → SlotRun} (h : s.Kept p) (_ : p.may .frt) :
    State.Kept p (State.modRun s v f) := by
  unfold State.modRun
  exact State.Kept.upd_frt h (by assumption)

end Sys2Proof.Machine
end

