-- ==== Sys2Proof/Laws/KeptSlots.lean ====
section
/-! SUPPORT. State.Kept through the operations of Machine/Slots.lean. -/

set_option linter.all false

namespace Sys2Proof.Machine

variable {p : Promise}

theorem State.setVatState_kept {s : State} {v : Nat} {hi : Nat} {lo : Nat} {x' : Nat} (h : s.Kept p) (_ : p.may .regs) :
    State.Kept p (State.setVatState s v hi lo x') := by
  unfold State.setVatState
  repeat' first
    | with_reducible assumption
    | with_reducible apply State.setRegBits_kept

theorem State.noKernel_kept {s : State} {v : Nat} (h : s.Kept p) (_ : p.may .regs) :
    State.Kept p (State.noKernel s v) := by
  unfold State.noKernel
  repeat' first
    | with_reducible assumption
    | with_reducible apply State.setVatState_kept
    | split

theorem State.rsigAdd_kept {s : State} {v : Nat} {i : Nat} {l : List Byte} (h : s.Kept p) (_ : p.may .diag) :
    State.Kept p (State.rsigAdd s v i l) := by
  unfold State.rsigAdd
  repeat' first
    | with_reducible assumption
    | (intro x; first
        | (refine (have hx : State.Kept p x := ?_; ?_); subst x; rotate_left; clear_value x; rotate_right)
        | (refine (have hx : State.Kept p x.1 := ?_; ?_); subst x; rotate_left; clear_value x; rotate_right)
        | (try clear_value x))
    | lift_lets -underBinder
    | with_reducible apply State.Kept.foldl
    | with_reducible apply State.Kept.foldl_fst
    | with_reducible apply State.Kept.getD
    | (with_reducible apply State.Kept.upd_diag <;> with_reducible assumption)

theorem State.setStrSt_kept {s : State} {v : Nat} {m : Nat} {x' : Nat} (h : s.Kept p) (_ : p.may .regs) :
    State.Kept p (State.setStrSt s v m x') := by
  unfold State.setStrSt
  repeat' first
    | with_reducible assumption
    | with_reducible apply State.setRegBits_kept

theorem State.dropUnlocked_kept {s : State} {v : Nat} {ls : List Nat} (h : s.Kept p) (_ : p.may .regs) :
    State.Kept p (State.dropUnlocked s v ls) := by
  unfold State.dropUnlocked
  repeat' first
    | with_reducible assumption
    | (intro x; first
        | (refine (have hx : State.Kept p x := ?_; ?_); subst x; rotate_left; clear_value x; rotate_right)
        | (refine (have hx : State.Kept p x.1 := ?_; ?_); subst x; rotate_left; clear_value x; rotate_right)
        | (try clear_value x))
    | lift_lets -underBinder
    | with_reducible apply State.Kept.ite
    | with_reducible apply State.Kept.foldl
    | with_reducible apply State.Kept.foldl_fst
    | with_reducible apply State.setStrSt_kept
    | split

theorem State.modWalker_kept {s : State} {v : Nat} {f : Walker → Walker} (h : s.Kept p) (_ : p.may .walkers) :
    State.Kept p (State.modWalker s v f) := by
  unfold State.modWalker
  exact State.Kept.upd_walkers h (by assumption) (by simp only [listModify_length, listSet_length])

theorem State.walkAbandon_kept {s : State} {v : Nat} (h : s.Kept p) (_ : p.may .vats) (_ : p.may .walkers) :
    State.Kept p (State.walkAbandon s v) := by
  unfold State.walkAbandon
  repeat' first
    | with_reducible assumption
    | with_reducible apply State.modCore_kept
    | with_reducible apply State.modWalker_kept

theorem State.walkStart_kept {s : State} {v : Nat} (h : s.Kept p) (_ : p.may .regs) (_ : p.may .walkers) :
    State.Kept p (State.walkStart s v) := by
  unfold State.walkStart
  repeat' first
    | with_reducible assumption
    | (intro x; first
        | (refine (have hx : State.Kept p x := ?_; ?_); subst x; rotate_left; clear_value x; rotate_right)
        | (refine (have hx : State.Kept p x.1 := ?_; ?_); subst x; rotate_left; clear_value x; rotate_right)
        | (try clear_value x))
    | lift_lets -underBinder
    | with_reducible apply State.setReg_kept
    | with_reducible apply State.modWalker_kept

theorem State.startKernel_kept {s : State} {v : Nat} {k : Nat} {p' : Nat} {entry : Nat} {s1 : Nat} (h : s.Kept p) (_ : p.may .regs) (_ : p.may .frt) (_ : p.may .vats) (_ : p.may .walkers) (_ : p.may .diag) (_ : p.may .trace) (_ : p.may .traceDrop) :
    State.Kept p (State.startKernel s v k p' entry s1) := by
  unfold State.startKernel
  repeat' first
    | with_reducible assumption
    | (intro x; first
        | (refine (have hx : State.Kept p x := ?_; ?_); subst x; rotate_left; clear_value x; rotate_right)
        | (refine (have hx : State.Kept p x.1 := ?_; ?_); subst x; rotate_left; clear_value x; rotate_right)
        | (try clear_value x))
    | lift_lets -underBinder
    | with_reducible apply State.setVatState_kept
    | with_reducible apply State.modVat_kept
    | with_reducible apply State.walkStart_kept
    | with_reducible apply State.modRun_kept
    | with_reducible apply State.dropUnlocked_kept
    | with_reducible apply State.emit_kept
    | (with_reducible apply State.Kept.upd_diag <;> with_reducible assumption)

theorem State.dropMovers_kept {s : State} {v : Nat} (h : s.Kept p) (_ : p.may .mig) (_ : p.may .xsl) :
    State.Kept p (State.dropMovers s v) := by
  unfold State.dropMovers
  repeat' first
    | with_reducible assumption
    | (intro x; first
        | (refine (have hx : State.Kept p x := ?_; ?_); subst x; rotate_left; clear_value x; rotate_right)
        | (refine (have hx : State.Kept p x.1 := ?_; ?_); subst x; rotate_left; clear_value x; rotate_right)
        | (try clear_value x))
    | lift_lets -underBinder
    | (with_reducible apply State.Kept.upd_mig_xsl <;> with_reducible assumption)
    | split

theorem State.stopIssue_kept {s : State} {v : Nat} (h : s.Kept p) (_ : p.may .vats) (_ : p.may .mig) (_ : p.may .walkers) (_ : p.may .xsl) :
    State.Kept p (State.stopIssue s v) := by
  unfold State.stopIssue
  repeat' first
    | with_reducible assumption
    | with_reducible apply State.modVat_kept
    | with_reducible apply State.walkAbandon_kept
    | with_reducible apply State.dropMovers_kept
    | split

theorem State.statusWord_kept {s : State} {k : Nat} {code : Nat} (h : s.Kept p) (_ : p.may .mem) (_ : p.may .poison) (_ : p.may .upset) :
    State.Kept p (State.statusWord s k code) := by
  unfold State.statusWord
  repeat' first
    | with_reducible assumption
    | with_reducible apply State.storeLE_kept

theorem State.cutKernel_kept {s : State} {v : Nat} (h : s.Kept p) (_ : p.may .regs) (_ : p.may .mem) (_ : p.may .poison) (_ : p.may .upset) (_ : p.may .vats) (_ : p.may .mig) (_ : p.may .walkers) (_ : p.may .xsl) (_ : p.may .trace) (_ : p.may .traceDrop) :
    State.Kept p (State.cutKernel s v) := by
  unfold State.cutKernel
  repeat' first
    | with_reducible assumption
    | (intro x; first
        | (refine (have hx : State.Kept p x := ?_; ?_); subst x; rotate_left; clear_value x; rotate_right)
        | (refine (have hx : State.Kept p x.1 := ?_; ?_); subst x; rotate_left; clear_value x; rotate_right)
        | (try clear_value x))
    | lift_lets -underBinder
    | with_reducible apply State.bump_kept
    | with_reducible apply State.statusWord_kept
    | with_reducible apply State.stopIssue_kept
    | with_reducible apply State.setVatState_kept
    | with_reducible apply State.noKernel_kept
    | with_reducible apply State.modVat_kept
    | with_reducible apply State.emit_kept

theorem State.lcMiss_kept {s : State} {v : Nat} (h : s.Kept p) (_ : p.may .regs) (_ : p.may .logs) (_ : p.may .mem) (_ : p.may .poison) (_ : p.may .upset) (_ : p.may .evr) (_ : p.may .line) (_ : p.may .auth) (_ : p.may .safe) (_ : p.may .hostEvent) (_ : p.may .frt) (_ : p.may .vats) (_ : p.may .mig) (_ : p.may .walkers) (_ : p.may .xsl) (_ : p.may .fbx) (_ : p.may .trace) (_ : p.may .traceDrop) (_ : p.may .msix) (_ : p.may .firm) (_ : p.may .now) :
    State.Kept p (State.lcMiss s v) := by
  unfold State.lcMiss
  repeat' first
    | with_reducible assumption
    | (intro x; first
        | (refine (have hx : State.Kept p x := ?_; ?_); subst x; rotate_left; clear_value x; rotate_right)
        | (refine (have hx : State.Kept p x.1 := ?_; ?_); subst x; rotate_left; clear_value x; rotate_right)
        | (try clear_value x))
    | lift_lets -underBinder
    | with_reducible apply State.bump_kept
    | with_reducible apply State.statusWord_kept
    | with_reducible apply State.stopIssue_kept
    | with_reducible apply State.setVatState_kept
    | with_reducible apply State.noKernel_kept
    | with_reducible apply State.modVat_kept
    | with_reducible apply State.pushLog_kept
    | with_reducible apply State.modRun_kept
    | with_reducible apply State.raise_kept
    | with_reducible apply State.emit_kept

theorem State.goldOutcome_kept {s : State} {d : Nat} {res : Nat} (h : s.Kept p) (_ : p.may .regs) (_ : p.may .evr) (_ : p.may .line) (_ : p.may .auth) (_ : p.may .safe) (_ : p.may .hostEvent) (_ : p.may .fbx) (_ : p.may .trace) (_ : p.may .traceDrop) (_ : p.may .msix) (_ : p.may .firm) (_ : p.may .now) :
    State.Kept p (State.goldOutcome s d res) := by
  unfold State.goldOutcome
  repeat' first
    | with_reducible assumption
    | (intro x; first
        | (refine (have hx : State.Kept p x := ?_; ?_); subst x; rotate_left; clear_value x; rotate_right)
        | (refine (have hx : State.Kept p x.1 := ?_; ?_); subst x; rotate_left; clear_value x; rotate_right)
        | (try clear_value x))
    | lift_lets -underBinder
    | with_reducible apply State.Kept.ite
    | with_reducible apply State.setReg_kept
    | with_reducible apply State.bump_kept
    | with_reducible apply State.raise_kept
    | split

theorem State.bumpSt_kept {s : State} {v : Nat} {lo : Nat} (h : s.Kept p) (_ : p.may .regs) :
    State.Kept p (State.bumpSt s v lo) := by
  unfold State.bumpSt
  repeat' first
    | with_reducible assumption
    | (intro x; first
        | (refine (have hx : State.Kept p x := ?_; ?_); subst x; rotate_left; clear_value x; rotate_right)
        | (refine (have hx : State.Kept p x.1 := ?_; ?_); subst x; rotate_left; clear_value x; rotate_right)
        | (try clear_value x))
    | lift_lets -underBinder
    | with_reducible apply State.setReg_kept

theorem State.showSlices_kept {s : State} {v : Nat} (h : s.Kept p) (_ : p.may .regs) :
    State.Kept p (State.showSlices s v) := by
  unfold State.showSlices
  repeat' first
    | with_reducible assumption
    | (intro x; first
        | (refine (have hx : State.Kept p x := ?_; ?_); subst x; rotate_left; clear_value x; rotate_right)
        | (refine (have hx : State.Kept p x.1 := ?_; ?_); subst x; rotate_left; clear_value x; rotate_right)
        | (try clear_value x))
    | lift_lets -underBinder
    | with_reducible apply State.setReg_kept

theorem State.endSlice_kept {s : State} {v : Nat} (h : s.Kept p) (_ : p.may .diag) :
    State.Kept p (State.endSlice s v) := by
  unfold State.endSlice
  exact State.Kept.upd_diag h (by assumption)

theorem State.sliceDone_kept {s : State} {v : Nat} {sl : Nat} (h : s.Kept p) (_ : p.may .regs) (_ : p.may .diag) :
    State.Kept p (State.sliceDone s v sl) := by
  unfold State.sliceDone
  repeat' first
    | with_reducible assumption
    | (intro x; first
        | (refine (have hx : State.Kept p x := ?_; ?_); subst x; rotate_left; clear_value x; rotate_right)
        | (refine (have hx : State.Kept p x.1 := ?_; ?_); subst x; rotate_left; clear_value x; rotate_right)
        | (try clear_value x))
    | lift_lets -underBinder
    | with_reducible apply State.Kept.ite
    | with_reducible apply State.bumpSt_kept
    | with_reducible apply State.showSlices_kept
    | with_reducible apply State.setRegBits_kept
    | (with_reducible apply State.Kept.upd_diag <;> with_reducible assumption)
    | split

theorem State.sliceBad_kept {s : State} {v : Nat} (h : s.Kept p) (_ : p.may .regs) (_ : p.may .evr) (_ : p.may .line) (_ : p.may .auth) (_ : p.may .safe) (_ : p.may .hostEvent) (_ : p.may .fbx) (_ : p.may .trace) (_ : p.may .traceDrop) (_ : p.may .msix) (_ : p.may .firm) (_ : p.may .now) :
    State.Kept p (State.sliceBad s v) := by
  unfold State.sliceBad
  repeat' first
    | with_reducible assumption
    | with_reducible apply State.raise_kept

theorem State.faultEnds_kept {s : State} {v : Nat} (h : s.Kept p) (_ : p.may .regs) (_ : p.may .logs) (_ : p.may .mem) (_ : p.may .poison) (_ : p.may .upset) (_ : p.may .evr) (_ : p.may .line) (_ : p.may .auth) (_ : p.may .safe) (_ : p.may .hostEvent) (_ : p.may .frt) (_ : p.may .vats) (_ : p.may .mig) (_ : p.may .walkers) (_ : p.may .xsl) (_ : p.may .fbx) (_ : p.may .diag) (_ : p.may .trace) (_ : p.may .traceDrop) (_ : p.may .msix) (_ : p.may .firm) (_ : p.may .now) :
    State.Kept p (State.faultEnds s v) := by
  unfold State.faultEnds
  repeat' first
    | with_reducible assumption
    | (intro x; first
        | (refine (have hx : State.Kept p x := ?_; ?_); subst x; rotate_left; clear_value x; rotate_right)
        | (refine (have hx : State.Kept p x.1 := ?_; ?_); subst x; rotate_left; clear_value x; rotate_right)
        | (try clear_value x))
    | lift_lets -underBinder
    | with_reducible apply State.Kept.ite
    | with_reducible apply State.sliceBad_kept
    | with_reducible apply State.setReg_kept
    | with_reducible apply State.lcMiss_kept
    | with_reducible apply State.stopIssue_kept
    | with_reducible apply State.noKernel_kept
    | with_reducible apply State.modVat_kept
    | with_reducible apply State.sliceDone_kept
    | with_reducible apply State.endSlice_kept
    | split

theorem State.recordFault_kept {s : State} {v : Nat} {slot : Nat} {code : Nat} {pc : Nat} (h : s.Kept p) (_ : p.may .regs) (_ : p.may .evr) (_ : p.may .hostEvent) (_ : p.may .trace) (_ : p.may .traceDrop) (_ : p.may .msix) (_ : p.may .now) :
    State.Kept p (State.recordFault s v slot code pc) := by
  unfold State.recordFault
  repeat' first
    | with_reducible assumption
    | (intro x; first
        | (refine (have hx : State.Kept p x := ?_; ?_); subst x; rotate_left; clear_value x; rotate_right)
        | (refine (have hx : State.Kept p x.1 := ?_; ?_); subst x; rotate_left; clear_value x; rotate_right)
        | (try clear_value x))
    | lift_lets -underBinder
    | with_reducible apply State.setReg_kept
    | with_reducible apply State.bump_kept
    | with_reducible apply State.outcome_kept
    | with_reducible apply State.emit_kept

theorem State.vatFault_kept {s : State} {v : Nat} {slot : Nat} {code : Nat} (h : s.Kept p) (_ : p.may .regs) (_ : p.may .logs) (_ : p.may .mem) (_ : p.may .poison) (_ : p.may .upset) (_ : p.may .evr) (_ : p.may .line) (_ : p.may .auth) (_ : p.may .safe) (_ : p.may .hostEvent) (_ : p.may .frt) (_ : p.may .vats) (_ : p.may .mig) (_ : p.may .walkers) (_ : p.may .xsl) (_ : p.may .fbx) (_ : p.may .diag) (_ : p.may .trace) (_ : p.may .traceDrop) (_ : p.may .msix) (_ : p.may .firm) (_ : p.may .now) :
    State.Kept p (State.vatFault s v slot code) := by
  unfold State.vatFault
  repeat' first
    | with_reducible assumption
    | with_reducible apply State.recordFault_kept
    | with_reducible apply State.faultEnds_kept

theorem State.pairDone_kept {s : State} {v : Nat} {k : Nat} {sig : Nat} (h : s.Kept p) (_ : p.may .diag) :
    State.Kept p (State.pairDone s v k sig) := by
  unfold State.pairDone
  repeat' first
    | with_reducible assumption
    | with_reducible apply State.Kept.ite
    | (with_reducible apply State.Kept.upd_diag <;> with_reducible assumption)
    | split

theorem State.kernelEnds_kept {s : State} {v : Nat} (h : s.Kept p) (_ : p.may .regs) (_ : p.may .vats) (_ : p.may .diag) (_ : p.may .trace) (_ : p.may .traceDrop) :
    State.Kept p (State.kernelEnds s v) := by
  unfold State.kernelEnds
  repeat' first
    | with_reducible assumption
    | (intro x; first
        | (refine (have hx : State.Kept p x := ?_; ?_); subst x; rotate_left; clear_value x; rotate_right)
        | (refine (have hx : State.Kept p x.1 := ?_; ?_); subst x; rotate_left; clear_value x; rotate_right)
        | (try clear_value x))
    | lift_lets -underBinder
    | with_reducible apply State.setReg_kept
    | with_reducible apply State.noKernel_kept
    | with_reducible apply State.modVat_kept
    | with_reducible apply State.pairDone_kept
    | with_reducible apply State.emit_kept

theorem State.kernelComplete_kept {s : State} {v : Nat} (h : s.Kept p) (_ : p.may .regs) (_ : p.may .evr) (_ : p.may .line) (_ : p.may .auth) (_ : p.may .safe) (_ : p.may .hostEvent) (_ : p.may .frt) (_ : p.may .vats) (_ : p.may .fbx) (_ : p.may .diag) (_ : p.may .trace) (_ : p.may .traceDrop) (_ : p.may .msix) (_ : p.may .firm) (_ : p.may .now) :
    State.Kept p (State.kernelComplete s v) := by
  unfold State.kernelComplete
  repeat' first
    | with_reducible assumption
    | (intro x; first
        | (refine (have hx : State.Kept p x := ?_; ?_); subst x; rotate_left; clear_value x; rotate_right)
        | (refine (have hx : State.Kept p x.1 := ?_; ?_); subst x; rotate_left; clear_value x; rotate_right)
        | (try clear_value x))
    | lift_lets -underBinder
    | with_reducible apply State.Kept.ite
    | with_reducible apply State.sliceBad_kept
    | with_reducible apply State.setReg_kept
    | with_reducible apply State.bump_kept
    | with_reducible apply State.kernelEnds_kept
    | with_reducible apply State.setVatState_kept
    | with_reducible apply State.modRun_kept
    | with_reducible apply State.sliceDone_kept
    | with_reducible apply State.endSlice_kept
    | with_reducible apply State.goldOutcome_kept
    | with_reducible apply State.emit_kept
    | split

end Sys2Proof.Machine
end

