-- ==== Sys2Proof/Laws/KeptVatIssue.lean ====
section
/-! SUPPORT. State.Kept through the operations of Machine/VatIssue.lean. -/

set_option linter.all false

namespace Sys2Proof.Machine

variable {p : Promise}

theorem State.fetchRead_kept {s : State} {v : Nat} {pc : Nat} (h : s.Kept p) (_ : p.may .regs) (_ : p.may .logs) (_ : p.may .upset) (_ : p.may .evr) (_ : p.may .line) (_ : p.may .auth) (_ : p.may .safe) (_ : p.may .hostEvent) (_ : p.may .fbx) (_ : p.may .trace) (_ : p.may .traceDrop) (_ : p.may .msix) (_ : p.may .firm) (_ : p.may .now) :
    State.Kept p (State.fetchRead s v pc) := by
  unfold State.fetchRead
  repeat' first
    | with_reducible assumption
    | with_reducible apply State.eccRead_kept

theorem State.issueFault_kept {s : State} {v : Nat} {slot : Nat} {code : Nat} (h : s.Kept p) (_ : p.may .regs) (_ : p.may .logs) (_ : p.may .mem) (_ : p.may .poison) (_ : p.may .upset) (_ : p.may .evr) (_ : p.may .line) (_ : p.may .auth) (_ : p.may .safe) (_ : p.may .hostEvent) (_ : p.may .frt) (_ : p.may .vats) (_ : p.may .mig) (_ : p.may .walkers) (_ : p.may .xsl) (_ : p.may .fbx) (_ : p.may .diag) (_ : p.may .trace) (_ : p.may .traceDrop) (_ : p.may .msix) (_ : p.may .firm) (_ : p.may .now) :
    State.Kept p (State.issueFault s v slot code) := by
  unfold State.issueFault
  repeat' first
    | with_reducible assumption
    | with_reducible apply State.Kept.getD
    | with_reducible apply State.vatFault_kept
    | with_reducible apply State.modVat_kept

theorem State.issueAct_kept {s : State} {v : Nat} {slot : Nat} {reads : List (Nat × Nat)} {cyc : Nat} (h : s.Kept p) (_ : p.may .pwr) :
    State.Kept p (State.issueAct s v slot reads cyc) := by
  unfold State.issueAct
  repeat' first
    | with_reducible assumption
    | (intro x; first
        | (refine (have hx : State.Kept p x := ?_; ?_); subst x; rotate_left; clear_value x; rotate_right)
        | (refine (have hx : State.Kept p x.1 := ?_; ?_); subst x; rotate_left; clear_value x; rotate_right)
        | (try clear_value x))
    | lift_lets -underBinder
    | with_reducible apply State.Kept.ite
    | with_reducible apply State.Kept.foldl
    | with_reducible apply State.Kept.foldl_fst
    | with_reducible apply State.vatAct_kept
    | split

theorem State.issue_kept {s : State} {v : Nat} {slot : Nat} {w : BitVec 56} {illegal : VatCore → Bool} {reads : VatCore → List (Nat × Nat)} {act : State → Vat → Nat ⊕ VatCore} (h : s.Kept p) (_ : p.may .regs) (_ : p.may .logs) (_ : p.may .mem) (_ : p.may .poison) (_ : p.may .upset) (_ : p.may .evr) (_ : p.may .line) (_ : p.may .auth) (_ : p.may .safe) (_ : p.may .hostEvent) (_ : p.may .frt) (_ : p.may .vats) (_ : p.may .mig) (_ : p.may .walkers) (_ : p.may .xsl) (_ : p.may .fbx) (_ : p.may .diag) (_ : p.may .pwr) (_ : p.may .trace) (_ : p.may .traceDrop) (_ : p.may .msix) (_ : p.may .firm) (_ : p.may .now) :
    State.Kept p (State.issue s v slot w illegal reads act) := by
  unfold State.issue
  repeat' first
    | with_reducible assumption
    | (intro x; first
        | (refine (have hx : State.Kept p x := ?_; ?_); subst x; rotate_left; clear_value x; rotate_right)
        | (refine (have hx : State.Kept p x.1 := ?_; ?_); subst x; rotate_left; clear_value x; rotate_right)
        | skip)
    | lift_lets -underBinder
    | with_reducible apply State.Kept.ite
    | with_reducible apply State.Kept.foldl
    | with_reducible apply State.Kept.foldl_fst
    | with_reducible apply State.eccRead_kept
    | with_reducible apply State.issueFault_kept
    | with_reducible apply State.modVat_kept
    | with_reducible apply State.issueAct_kept
    | with_reducible apply State.fetchRead_kept
    | split

theorem State.landOut_kept {s : State} {v : Nat} {a1_ : Dest} (h : s.Kept p) (_ : p.may .regs) (_ : p.may .mem) (_ : p.may .poison) (_ : p.may .upset) (_ : p.may .cells) (_ : p.may .evr) (_ : p.may .hostEvent) (_ : p.may .pwr) (_ : p.may .msix) (_ : p.may .now) :
    State.Kept p (State.landOut s v a1_) := by
  unfold State.landOut
  repeat' first
    | with_reducible assumption
    | (intro x; first
        | (refine (have hx : State.Kept p x := ?_; ?_); subst x; rotate_left; clear_value x; rotate_right)
        | (refine (have hx : State.Kept p x.1 := ?_; ?_); subst x; rotate_left; clear_value x; rotate_right)
        | (try clear_value x))
    | lift_lets -underBinder
    | with_reducible apply State.Kept.ite
    | with_reducible apply State.Kept.foldl
    | with_reducible apply State.Kept.foldl_fst
    | with_reducible apply State.setReg_kept
    | with_reducible apply State.bump_kept
    | with_reducible apply State.store_kept
    | with_reducible apply State.vatAct_kept
    | with_reducible apply State.storeLE_kept
    | with_reducible apply State.cellDo_kept
    | with_reducible apply State.mend_kept
    | split

theorem State.landDue_kept {s : State} {v : Nat} (h : s.Kept p) (_ : p.may .regs) (_ : p.may .logs) (_ : p.may .mem) (_ : p.may .poison) (_ : p.may .upset) (_ : p.may .cells) (_ : p.may .evr) (_ : p.may .line) (_ : p.may .auth) (_ : p.may .safe) (_ : p.may .hostEvent) (_ : p.may .vats) (_ : p.may .fbx) (_ : p.may .pwr) (_ : p.may .trace) (_ : p.may .traceDrop) (_ : p.may .msix) (_ : p.may .firm) (_ : p.may .now) :
    State.Kept p (State.landDue s v) := by
  unfold State.landDue
  repeat' first
    | with_reducible assumption
    | (intro x; first
        | (refine (have hx : State.Kept p x := ?_; ?_); subst x; rotate_left; clear_value x; rotate_right)
        | (refine (have hx : State.Kept p x.1 := ?_; ?_); subst x; rotate_left; clear_value x; rotate_right)
        | (try clear_value x))
    | lift_lets -underBinder
    | with_reducible apply State.Kept.foldl
    | with_reducible apply State.Kept.foldl_fst
    | with_reducible apply State.scnChecked_kept
    | with_reducible apply State.bumpBy_kept
    | with_reducible apply State.chunkReads_kept
    | with_reducible apply State.landOut_kept
    | with_reducible apply State.modCore_kept
    | with_reducible apply State.modVat_kept
    | split

theorem State.slotCells_kept {s : State} {v : Nat} (h : s.Kept p) (_ : p.may .regs) (_ : p.may .cells) (_ : p.may .vats) (_ : p.may .diag) (_ : p.may .trace) (_ : p.may .traceDrop) (_ : p.may .now) :
    State.Kept p (State.slotCells s v) := by
  unfold State.slotCells
  repeat' first
    | with_reducible assumption
    | (intro x; first
        | (refine (have hx : State.Kept p x := ?_; ?_); subst x; rotate_left; clear_value x; rotate_right)
        | (refine (have hx : State.Kept p x.1 := ?_; ?_); subst x; rotate_left; clear_value x; rotate_right)
        | (try clear_value x))
    | lift_lets -underBinder
    | with_reducible apply State.Kept.ite
    | with_reducible apply State.Kept.foldl
    | with_reducible apply State.Kept.foldl_fst
    | with_reducible apply State.modCore_kept
    | with_reducible apply State.rsigAdd_kept
    | with_reducible apply State.cellDo_kept
    | with_reducible apply State.emit_kept
    | split

theorem State.bankConflicts_kept {s : State} {v : Nat} {fetch : List Nat} (h : s.Kept p) (_ : p.may .regs) (_ : p.may .vats) (_ : p.may .walkers) (_ : p.may .swaps) :
    State.Kept p (State.bankConflicts s v fetch) := by
  unfold State.bankConflicts
  repeat' first
    | with_reducible assumption
    | (intro x; first
        | (refine (have hx : State.Kept p x := ?_; ?_); subst x; rotate_left; clear_value x; rotate_right)
        | (refine (have hx : State.Kept p x.1 := ?_; ?_); subst x; rotate_left; clear_value x; rotate_right)
        | (try clear_value x))
    | lift_lets -underBinder
    | with_reducible apply State.Kept.ite
    | with_reducible apply State.Kept.foldl
    | with_reducible apply State.Kept.foldl_fst
    | with_reducible apply State.bumpBy_kept
    | with_reducible apply State.modCore_kept
    | with_reducible apply State.modWalker_kept
    | (with_reducible apply State.Kept.upd_swaps <;> (first | with_reducible assumption | (simp only [listModify_length, listSet_length]; done)))
    | split

theorem State.closeWord_kept {s : State} {v : Nat} (h : s.Kept p) (_ : p.may .regs) (_ : p.may .logs) (_ : p.may .mem) (_ : p.may .poison) (_ : p.may .upset) (_ : p.may .evr) (_ : p.may .line) (_ : p.may .auth) (_ : p.may .safe) (_ : p.may .hostEvent) (_ : p.may .frt) (_ : p.may .vats) (_ : p.may .mig) (_ : p.may .walkers) (_ : p.may .swaps) (_ : p.may .xsl) (_ : p.may .fbx) (_ : p.may .diag) (_ : p.may .pwr) (_ : p.may .trace) (_ : p.may .traceDrop) (_ : p.may .msix) (_ : p.may .firm) (_ : p.may .now) :
    State.Kept p (State.closeWord s v) := by
  unfold State.closeWord
  repeat' first
    | with_reducible assumption
    | (intro x; first
        | (refine (have hx : State.Kept p x := ?_; ?_); subst x; rotate_left; clear_value x; rotate_right)
        | (refine (have hx : State.Kept p x.1 := ?_; ?_); subst x; rotate_left; clear_value x; rotate_right)
        | skip)
    | lift_lets -underBinder
    | with_reducible apply State.Kept.ite
    | with_reducible apply State.Kept.foldl
    | with_reducible apply State.Kept.foldl_fst
    | with_reducible apply State.issueFault_kept
    | with_reducible apply State.modVat_kept
    | with_reducible apply State.bankConflicts_kept
    | with_reducible apply State.vatAct_kept
    | with_reducible apply State.fetchRead_kept
    | split

theorem State.noteSwait_kept {s : State} {v : Nat} (h : s.Kept p) (_ : p.may .vats) :
    State.Kept p (State.noteSwait s v) := by
  unfold State.noteSwait
  repeat' first
    | with_reducible assumption
    | with_reducible apply State.modCore_kept
    | split

theorem State.vcycle_kept {s : State} {v : Nat} (h : s.Kept p) (_ : p.may .regs) (_ : p.may .logs) (_ : p.may .mem) (_ : p.may .poison) (_ : p.may .upset) (_ : p.may .cells) (_ : p.may .evr) (_ : p.may .line) (_ : p.may .auth) (_ : p.may .safe) (_ : p.may .hostEvent) (_ : p.may .frt) (_ : p.may .vats) (_ : p.may .mig) (_ : p.may .walkers) (_ : p.may .swaps) (_ : p.may .xsl) (_ : p.may .fbx) (_ : p.may .diag) (_ : p.may .pwr) (_ : p.may .trace) (_ : p.may .traceDrop) (_ : p.may .msix) (_ : p.may .firm) (_ : p.may .now) :
    State.Kept p (State.vcycle s v) := by
  unfold State.vcycle
  repeat' first
    | with_reducible assumption
    | (intro x; first
        | (refine (have hx : State.Kept p x := ?_; ?_); subst x; rotate_left; clear_value x; rotate_right)
        | (refine (have hx : State.Kept p x.1 := ?_; ?_); subst x; rotate_left; clear_value x; rotate_right)
        | (try clear_value x))
    | lift_lets -underBinder
    | with_reducible apply State.slotCells_kept
    | with_reducible apply State.landDue_kept
    | with_reducible apply State.closeWord_kept
    | with_reducible apply State.modVat_kept
    | with_reducible apply State.noteSwait_kept

end Sys2Proof.Machine
end

