-- ==== Sys2Proof/Laws/State.lean ====
section
/-! SUPPORT. Every field of State after each basic update, so that a proof unfolds none of them. -/

namespace Sys2Proof.Machine

@[simp] theorem State.setReg_pending (s : State) (k v : Nat) : (s.setReg k v).pending = s.pending := rfl
@[simp] theorem State.setReg_tick (s : State) (k v : Nat) : (s.setReg k v).tick = s.tick := rfl
@[simp] theorem State.setReg_free (s : State) (k v : Nat) : (s.setReg k v).free = s.free := rfl
@[simp] theorem State.setReg_rdata (s : State) (k v : Nat) : (s.setReg k v).rdata = s.rdata := rfl
@[simp] theorem State.setReg_mainClk (s : State) (k v : Nat) : (s.setReg k v).mainClk = s.mainClk := rfl
@[simp] theorem State.setReg_rclkOn (s : State) (k v : Nat) : (s.setReg k v).rclkOn = s.rclkOn := rfl
@[simp] theorem State.setReg_rphase (s : State) (k v : Nat) : (s.setReg k v).rphase = s.rphase := rfl
@[simp] theorem State.setReg_rclk (s : State) (k v : Nat) : (s.setReg k v).rclk = s.rclk := rfl
@[simp] theorem State.setReg_regs (s : State) (k v : Nat) : (s.setReg k v).regs = mapSet 0 s.regs k v := rfl
@[simp] theorem State.setReg_logs (s : State) (k v : Nat) : (s.setReg k v).logs = s.logs := rfl
@[simp] theorem State.setReg_mem (s : State) (k v : Nat) : (s.setReg k v).mem = s.mem := rfl
@[simp] theorem State.setReg_poison (s : State) (k v : Nat) : (s.setReg k v).poison = s.poison := rfl
@[simp] theorem State.setReg_upset (s : State) (k v : Nat) : (s.setReg k v).upset = s.upset := rfl
@[simp] theorem State.setReg_cells (s : State) (k v : Nat) : (s.setReg k v).cells = s.cells := rfl
@[simp] theorem State.setReg_tb (s : State) (k v : Nat) : (s.setReg k v).tb = s.tb := rfl
@[simp] theorem State.setReg_evr (s : State) (k v : Nat) : (s.setReg k v).evr = s.evr := rfl
@[simp] theorem State.setReg_line (s : State) (k v : Nat) : (s.setReg k v).line = s.line := rfl
@[simp] theorem State.setReg_auth (s : State) (k v : Nat) : (s.setReg k v).auth = s.auth := rfl
@[simp] theorem State.setReg_safe (s : State) (k v : Nat) : (s.setReg k v).safe = s.safe := rfl
@[simp] theorem State.setReg_hostEvent (s : State) (k v : Nat) : (s.setReg k v).hostEvent = s.hostEvent := rfl
@[simp] theorem State.setReg_frt (s : State) (k v : Nat) : (s.setReg k v).frt = s.frt := rfl
@[simp] theorem State.setReg_vats (s : State) (k v : Nat) : (s.setReg k v).vats = s.vats := rfl
@[simp] theorem State.setReg_mig (s : State) (k v : Nat) : (s.setReg k v).mig = s.mig := rfl
@[simp] theorem State.setReg_harp (s : State) (k v : Nat) : (s.setReg k v).harp = s.harp := rfl
@[simp] theorem State.setReg_harpShare (s : State) (k v : Nat) : (s.setReg k v).harpShare = s.harpShare := rfl
@[simp] theorem State.setReg_walkers (s : State) (k v : Nat) : (s.setReg k v).walkers = s.walkers := rfl
@[simp] theorem State.setReg_swaps (s : State) (k v : Nat) : (s.setReg k v).swaps = s.swaps := rfl
@[simp] theorem State.setReg_ing (s : State) (k v : Nat) : (s.setReg k v).ing = s.ing := rfl
@[simp] theorem State.setReg_fus (s : State) (k v : Nat) : (s.setReg k v).fus = s.fus := rfl
@[simp] theorem State.setReg_slv (s : State) (k v : Nat) : (s.setReg k v).slv = s.slv := rfl
@[simp] theorem State.setReg_pln (s : State) (k v : Nat) : (s.setReg k v).pln = s.pln := rfl
@[simp] theorem State.setReg_lp (s : State) (k v : Nat) : (s.setReg k v).lp = s.lp := rfl
@[simp] theorem State.setReg_tsn (s : State) (k v : Nat) : (s.setReg k v).tsn = s.tsn := rfl
@[simp] theorem State.setReg_xsl (s : State) (k v : Nat) : (s.setReg k v).xsl = s.xsl := rfl
@[simp] theorem State.setReg_fbx (s : State) (k v : Nat) : (s.setReg k v).fbx = s.fbx := rfl
@[simp] theorem State.setReg_wd (s : State) (k v : Nat) : (s.setReg k v).wd = s.wd := rfl
@[simp] theorem State.setReg_diag (s : State) (k v : Nat) : (s.setReg k v).diag = s.diag := rfl
@[simp] theorem State.setReg_pwr (s : State) (k v : Nat) : (s.setReg k v).pwr = s.pwr := rfl
@[simp] theorem State.setReg_trace (s : State) (k v : Nat) : (s.setReg k v).trace = s.trace := rfl
@[simp] theorem State.setReg_traceDrop (s : State) (k v : Nat) : (s.setReg k v).traceDrop = s.traceDrop := rfl
@[simp] theorem State.setReg_msix (s : State) (k v : Nat) : (s.setReg k v).msix = s.msix := rfl
@[simp] theorem State.setReg_cg (s : State) (k v : Nat) : (s.setReg k v).cg = s.cg := rfl
@[simp] theorem State.setReg_firm (s : State) (k v : Nat) : (s.setReg k v).firm = s.firm := rfl
@[simp] theorem State.setReg_keep (s : State) (k v : Nat) : (s.setReg k v).keep = s.keep := rfl
@[simp] theorem State.setReg_start (s : State) (k v : Nat) : (s.setReg k v).start = s.start := rfl
@[simp] theorem State.setReg_snapCmp (s : State) (k v : Nat) : (s.setReg k v).snapCmp = s.snapCmp := rfl
@[simp] theorem State.setReg_obs (s : State) (k v : Nat) : (s.setReg k v).obs = s.obs := rfl
@[simp] theorem State.setReg_now (s : State) (k v : Nat) : (s.setReg k v).now = s.now := rfl

@[simp] theorem State.setRegBits_pending (s : State) (k hi lo v : Nat) : (s.setRegBits k hi lo v).pending = s.pending := rfl
@[simp] theorem State.setRegBits_tick (s : State) (k hi lo v : Nat) : (s.setRegBits k hi lo v).tick = s.tick := rfl
@[simp] theorem State.setRegBits_free (s : State) (k hi lo v : Nat) : (s.setRegBits k hi lo v).free = s.free := rfl
@[simp] theorem State.setRegBits_rdata (s : State) (k hi lo v : Nat) : (s.setRegBits k hi lo v).rdata = s.rdata := rfl
@[simp] theorem State.setRegBits_mainClk (s : State) (k hi lo v : Nat) : (s.setRegBits k hi lo v).mainClk = s.mainClk := rfl
@[simp] theorem State.setRegBits_rclkOn (s : State) (k hi lo v : Nat) : (s.setRegBits k hi lo v).rclkOn = s.rclkOn := rfl
@[simp] theorem State.setRegBits_rphase (s : State) (k hi lo v : Nat) : (s.setRegBits k hi lo v).rphase = s.rphase := rfl
@[simp] theorem State.setRegBits_rclk (s : State) (k hi lo v : Nat) : (s.setRegBits k hi lo v).rclk = s.rclk := rfl
@[simp] theorem State.setRegBits_regs (s : State) (k hi lo v : Nat) : (s.setRegBits k hi lo v).regs = mapSet 0 s.regs k (putBits (s.reg k) hi lo v) := rfl
@[simp] theorem State.setRegBits_logs (s : State) (k hi lo v : Nat) : (s.setRegBits k hi lo v).logs = s.logs := rfl
@[simp] theorem State.setRegBits_mem (s : State) (k hi lo v : Nat) : (s.setRegBits k hi lo v).mem = s.mem := rfl
@[simp] theorem State.setRegBits_poison (s : State) (k hi lo v : Nat) : (s.setRegBits k hi lo v).poison = s.poison := rfl
@[simp] theorem State.setRegBits_upset (s : State) (k hi lo v : Nat) : (s.setRegBits k hi lo v).upset = s.upset := rfl
@[simp] theorem State.setRegBits_cells (s : State) (k hi lo v : Nat) : (s.setRegBits k hi lo v).cells = s.cells := rfl
@[simp] theorem State.setRegBits_tb (s : State) (k hi lo v : Nat) : (s.setRegBits k hi lo v).tb = s.tb := rfl
@[simp] theorem State.setRegBits_evr (s : State) (k hi lo v : Nat) : (s.setRegBits k hi lo v).evr = s.evr := rfl
@[simp] theorem State.setRegBits_line (s : State) (k hi lo v : Nat) : (s.setRegBits k hi lo v).line = s.line := rfl
@[simp] theorem State.setRegBits_auth (s : State) (k hi lo v : Nat) : (s.setRegBits k hi lo v).auth = s.auth := rfl
@[simp] theorem State.setRegBits_safe (s : State) (k hi lo v : Nat) : (s.setRegBits k hi lo v).safe = s.safe := rfl
@[simp] theorem State.setRegBits_hostEvent (s : State) (k hi lo v : Nat) : (s.setRegBits k hi lo v).hostEvent = s.hostEvent := rfl
@[simp] theorem State.setRegBits_frt (s : State) (k hi lo v : Nat) : (s.setRegBits k hi lo v).frt = s.frt := rfl
@[simp] theorem State.setRegBits_vats (s : State) (k hi lo v : Nat) : (s.setRegBits k hi lo v).vats = s.vats := rfl
@[simp] theorem State.setRegBits_mig (s : State) (k hi lo v : Nat) : (s.setRegBits k hi lo v).mig = s.mig := rfl
@[simp] theorem State.setRegBits_harp (s : State) (k hi lo v : Nat) : (s.setRegBits k hi lo v).harp = s.harp := rfl
@[simp] theorem State.setRegBits_harpShare (s : State) (k hi lo v : Nat) : (s.setRegBits k hi lo v).harpShare = s.harpShare := rfl
@[simp] theorem State.setRegBits_walkers (s : State) (k hi lo v : Nat) : (s.setRegBits k hi lo v).walkers = s.walkers := rfl
@[simp] theorem State.setRegBits_swaps (s : State) (k hi lo v : Nat) : (s.setRegBits k hi lo v).swaps = s.swaps := rfl
@[simp] theorem State.setRegBits_ing (s : State) (k hi lo v : Nat) : (s.setRegBits k hi lo v).ing = s.ing := rfl
@[simp] theorem State.setRegBits_fus (s : State) (k hi lo v : Nat) : (s.setRegBits k hi lo v).fus = s.fus := rfl
@[simp] theorem State.setRegBits_slv (s : State) (k hi lo v : Nat) : (s.setRegBits k hi lo v).slv = s.slv := rfl
@[simp] theorem State.setRegBits_pln (s : State) (k hi lo v : Nat) : (s.setRegBits k hi lo v).pln = s.pln := rfl
@[simp] theorem State.setRegBits_lp (s : State) (k hi lo v : Nat) : (s.setRegBits k hi lo v).lp = s.lp := rfl
@[simp] theorem State.setRegBits_tsn (s : State) (k hi lo v : Nat) : (s.setRegBits k hi lo v).tsn = s.tsn := rfl
@[simp] theorem State.setRegBits_xsl (s : State) (k hi lo v : Nat) : (s.setRegBits k hi lo v).xsl = s.xsl := rfl
@[simp] theorem State.setRegBits_fbx (s : State) (k hi lo v : Nat) : (s.setRegBits k hi lo v).fbx = s.fbx := rfl
@[simp] theorem State.setRegBits_wd (s : State) (k hi lo v : Nat) : (s.setRegBits k hi lo v).wd = s.wd := rfl
@[simp] theorem State.setRegBits_diag (s : State) (k hi lo v : Nat) : (s.setRegBits k hi lo v).diag = s.diag := rfl
@[simp] theorem State.setRegBits_pwr (s : State) (k hi lo v : Nat) : (s.setRegBits k hi lo v).pwr = s.pwr := rfl
@[simp] theorem State.setRegBits_trace (s : State) (k hi lo v : Nat) : (s.setRegBits k hi lo v).trace = s.trace := rfl
@[simp] theorem State.setRegBits_traceDrop (s : State) (k hi lo v : Nat) : (s.setRegBits k hi lo v).traceDrop = s.traceDrop := rfl
@[simp] theorem State.setRegBits_msix (s : State) (k hi lo v : Nat) : (s.setRegBits k hi lo v).msix = s.msix := rfl
@[simp] theorem State.setRegBits_cg (s : State) (k hi lo v : Nat) : (s.setRegBits k hi lo v).cg = s.cg := rfl
@[simp] theorem State.setRegBits_firm (s : State) (k hi lo v : Nat) : (s.setRegBits k hi lo v).firm = s.firm := rfl
@[simp] theorem State.setRegBits_keep (s : State) (k hi lo v : Nat) : (s.setRegBits k hi lo v).keep = s.keep := rfl
@[simp] theorem State.setRegBits_start (s : State) (k hi lo v : Nat) : (s.setRegBits k hi lo v).start = s.start := rfl
@[simp] theorem State.setRegBits_snapCmp (s : State) (k hi lo v : Nat) : (s.setRegBits k hi lo v).snapCmp = s.snapCmp := rfl
@[simp] theorem State.setRegBits_obs (s : State) (k hi lo v : Nat) : (s.setRegBits k hi lo v).obs = s.obs := rfl
@[simp] theorem State.setRegBits_now (s : State) (k hi lo v : Nat) : (s.setRegBits k hi lo v).now = s.now := rfl

@[simp] theorem State.setRegBit_pending (s : State) (k i : Nat) : (s.setRegBit k i).pending = s.pending := rfl
@[simp] theorem State.setRegBit_tick (s : State) (k i : Nat) : (s.setRegBit k i).tick = s.tick := rfl
@[simp] theorem State.setRegBit_free (s : State) (k i : Nat) : (s.setRegBit k i).free = s.free := rfl
@[simp] theorem State.setRegBit_rdata (s : State) (k i : Nat) : (s.setRegBit k i).rdata = s.rdata := rfl
@[simp] theorem State.setRegBit_mainClk (s : State) (k i : Nat) : (s.setRegBit k i).mainClk = s.mainClk := rfl
@[simp] theorem State.setRegBit_rclkOn (s : State) (k i : Nat) : (s.setRegBit k i).rclkOn = s.rclkOn := rfl
@[simp] theorem State.setRegBit_rphase (s : State) (k i : Nat) : (s.setRegBit k i).rphase = s.rphase := rfl
@[simp] theorem State.setRegBit_rclk (s : State) (k i : Nat) : (s.setRegBit k i).rclk = s.rclk := rfl
@[simp] theorem State.setRegBit_regs (s : State) (k i : Nat) : (s.setRegBit k i).regs = mapSet 0 s.regs k (putBit (s.reg k) i true) := rfl
@[simp] theorem State.setRegBit_logs (s : State) (k i : Nat) : (s.setRegBit k i).logs = s.logs := rfl
@[simp] theorem State.setRegBit_mem (s : State) (k i : Nat) : (s.setRegBit k i).mem = s.mem := rfl
@[simp] theorem State.setRegBit_poison (s : State) (k i : Nat) : (s.setRegBit k i).poison = s.poison := rfl
@[simp] theorem State.setRegBit_upset (s : State) (k i : Nat) : (s.setRegBit k i).upset = s.upset := rfl
@[simp] theorem State.setRegBit_cells (s : State) (k i : Nat) : (s.setRegBit k i).cells = s.cells := rfl
@[simp] theorem State.setRegBit_tb (s : State) (k i : Nat) : (s.setRegBit k i).tb = s.tb := rfl
@[simp] theorem State.setRegBit_evr (s : State) (k i : Nat) : (s.setRegBit k i).evr = s.evr := rfl
@[simp] theorem State.setRegBit_line (s : State) (k i : Nat) : (s.setRegBit k i).line = s.line := rfl
@[simp] theorem State.setRegBit_auth (s : State) (k i : Nat) : (s.setRegBit k i).auth = s.auth := rfl
@[simp] theorem State.setRegBit_safe (s : State) (k i : Nat) : (s.setRegBit k i).safe = s.safe := rfl
@[simp] theorem State.setRegBit_hostEvent (s : State) (k i : Nat) : (s.setRegBit k i).hostEvent = s.hostEvent := rfl
@[simp] theorem State.setRegBit_frt (s : State) (k i : Nat) : (s.setRegBit k i).frt = s.frt := rfl
@[simp] theorem State.setRegBit_vats (s : State) (k i : Nat) : (s.setRegBit k i).vats = s.vats := rfl
@[simp] theorem State.setRegBit_mig (s : State) (k i : Nat) : (s.setRegBit k i).mig = s.mig := rfl
@[simp] theorem State.setRegBit_harp (s : State) (k i : Nat) : (s.setRegBit k i).harp = s.harp := rfl
@[simp] theorem State.setRegBit_harpShare (s : State) (k i : Nat) : (s.setRegBit k i).harpShare = s.harpShare := rfl
@[simp] theorem State.setRegBit_walkers (s : State) (k i : Nat) : (s.setRegBit k i).walkers = s.walkers := rfl
@[simp] theorem State.setRegBit_swaps (s : State) (k i : Nat) : (s.setRegBit k i).swaps = s.swaps := rfl
@[simp] theorem State.setRegBit_ing (s : State) (k i : Nat) : (s.setRegBit k i).ing = s.ing := rfl
@[simp] theorem State.setRegBit_fus (s : State) (k i : Nat) : (s.setRegBit k i).fus = s.fus := rfl
@[simp] theorem State.setRegBit_slv (s : State) (k i : Nat) : (s.setRegBit k i).slv = s.slv := rfl
@[simp] theorem State.setRegBit_pln (s : State) (k i : Nat) : (s.setRegBit k i).pln = s.pln := rfl
@[simp] theorem State.setRegBit_lp (s : State) (k i : Nat) : (s.setRegBit k i).lp = s.lp := rfl
@[simp] theorem State.setRegBit_tsn (s : State) (k i : Nat) : (s.setRegBit k i).tsn = s.tsn := rfl
@[simp] theorem State.setRegBit_xsl (s : State) (k i : Nat) : (s.setRegBit k i).xsl = s.xsl := rfl
@[simp] theorem State.setRegBit_fbx (s : State) (k i : Nat) : (s.setRegBit k i).fbx = s.fbx := rfl
@[simp] theorem State.setRegBit_wd (s : State) (k i : Nat) : (s.setRegBit k i).wd = s.wd := rfl
@[simp] theorem State.setRegBit_diag (s : State) (k i : Nat) : (s.setRegBit k i).diag = s.diag := rfl
@[simp] theorem State.setRegBit_pwr (s : State) (k i : Nat) : (s.setRegBit k i).pwr = s.pwr := rfl
@[simp] theorem State.setRegBit_trace (s : State) (k i : Nat) : (s.setRegBit k i).trace = s.trace := rfl
@[simp] theorem State.setRegBit_traceDrop (s : State) (k i : Nat) : (s.setRegBit k i).traceDrop = s.traceDrop := rfl
@[simp] theorem State.setRegBit_msix (s : State) (k i : Nat) : (s.setRegBit k i).msix = s.msix := rfl
@[simp] theorem State.setRegBit_cg (s : State) (k i : Nat) : (s.setRegBit k i).cg = s.cg := rfl
@[simp] theorem State.setRegBit_firm (s : State) (k i : Nat) : (s.setRegBit k i).firm = s.firm := rfl
@[simp] theorem State.setRegBit_keep (s : State) (k i : Nat) : (s.setRegBit k i).keep = s.keep := rfl
@[simp] theorem State.setRegBit_start (s : State) (k i : Nat) : (s.setRegBit k i).start = s.start := rfl
@[simp] theorem State.setRegBit_snapCmp (s : State) (k i : Nat) : (s.setRegBit k i).snapCmp = s.snapCmp := rfl
@[simp] theorem State.setRegBit_obs (s : State) (k i : Nat) : (s.setRegBit k i).obs = s.obs := rfl
@[simp] theorem State.setRegBit_now (s : State) (k i : Nat) : (s.setRegBit k i).now = s.now := rfl

@[simp] theorem State.bumpBy_pending (s : State) (k n : Nat) : (s.bumpBy k n).pending = s.pending := rfl
@[simp] theorem State.bumpBy_tick (s : State) (k n : Nat) : (s.bumpBy k n).tick = s.tick := rfl
@[simp] theorem State.bumpBy_free (s : State) (k n : Nat) : (s.bumpBy k n).free = s.free := rfl
@[simp] theorem State.bumpBy_rdata (s : State) (k n : Nat) : (s.bumpBy k n).rdata = s.rdata := rfl
@[simp] theorem State.bumpBy_mainClk (s : State) (k n : Nat) : (s.bumpBy k n).mainClk = s.mainClk := rfl
@[simp] theorem State.bumpBy_rclkOn (s : State) (k n : Nat) : (s.bumpBy k n).rclkOn = s.rclkOn := rfl
@[simp] theorem State.bumpBy_rphase (s : State) (k n : Nat) : (s.bumpBy k n).rphase = s.rphase := rfl
@[simp] theorem State.bumpBy_rclk (s : State) (k n : Nat) : (s.bumpBy k n).rclk = s.rclk := rfl
@[simp] theorem State.bumpBy_regs (s : State) (k n : Nat) : (s.bumpBy k n).regs = mapSet 0 s.regs k ((s.reg k + n) % 2 ^ 32) := rfl
@[simp] theorem State.bumpBy_logs (s : State) (k n : Nat) : (s.bumpBy k n).logs = s.logs := rfl
@[simp] theorem State.bumpBy_mem (s : State) (k n : Nat) : (s.bumpBy k n).mem = s.mem := rfl
@[simp] theorem State.bumpBy_poison (s : State) (k n : Nat) : (s.bumpBy k n).poison = s.poison := rfl
@[simp] theorem State.bumpBy_upset (s : State) (k n : Nat) : (s.bumpBy k n).upset = s.upset := rfl
@[simp] theorem State.bumpBy_cells (s : State) (k n : Nat) : (s.bumpBy k n).cells = s.cells := rfl
@[simp] theorem State.bumpBy_tb (s : State) (k n : Nat) : (s.bumpBy k n).tb = s.tb := rfl
@[simp] theorem State.bumpBy_evr (s : State) (k n : Nat) : (s.bumpBy k n).evr = s.evr := rfl
@[simp] theorem State.bumpBy_line (s : State) (k n : Nat) : (s.bumpBy k n).line = s.line := rfl
@[simp] theorem State.bumpBy_auth (s : State) (k n : Nat) : (s.bumpBy k n).auth = s.auth := rfl
@[simp] theorem State.bumpBy_safe (s : State) (k n : Nat) : (s.bumpBy k n).safe = s.safe := rfl
@[simp] theorem State.bumpBy_hostEvent (s : State) (k n : Nat) : (s.bumpBy k n).hostEvent = s.hostEvent := rfl
@[simp] theorem State.bumpBy_frt (s : State) (k n : Nat) : (s.bumpBy k n).frt = s.frt := rfl
@[simp] theorem State.bumpBy_vats (s : State) (k n : Nat) : (s.bumpBy k n).vats = s.vats := rfl
@[simp] theorem State.bumpBy_mig (s : State) (k n : Nat) : (s.bumpBy k n).mig = s.mig := rfl
@[simp] theorem State.bumpBy_harp (s : State) (k n : Nat) : (s.bumpBy k n).harp = s.harp := rfl
@[simp] theorem State.bumpBy_harpShare (s : State) (k n : Nat) : (s.bumpBy k n).harpShare = s.harpShare := rfl
@[simp] theorem State.bumpBy_walkers (s : State) (k n : Nat) : (s.bumpBy k n).walkers = s.walkers := rfl
@[simp] theorem State.bumpBy_swaps (s : State) (k n : Nat) : (s.bumpBy k n).swaps = s.swaps := rfl
@[simp] theorem State.bumpBy_ing (s : State) (k n : Nat) : (s.bumpBy k n).ing = s.ing := rfl
@[simp] theorem State.bumpBy_fus (s : State) (k n : Nat) : (s.bumpBy k n).fus = s.fus := rfl
@[simp] theorem State.bumpBy_slv (s : State) (k n : Nat) : (s.bumpBy k n).slv = s.slv := rfl
@[simp] theorem State.bumpBy_pln (s : State) (k n : Nat) : (s.bumpBy k n).pln = s.pln := rfl
@[simp] theorem State.bumpBy_lp (s : State) (k n : Nat) : (s.bumpBy k n).lp = s.lp := rfl
@[simp] theorem State.bumpBy_tsn (s : State) (k n : Nat) : (s.bumpBy k n).tsn = s.tsn := rfl
@[simp] theorem State.bumpBy_xsl (s : State) (k n : Nat) : (s.bumpBy k n).xsl = s.xsl := rfl
@[simp] theorem State.bumpBy_fbx (s : State) (k n : Nat) : (s.bumpBy k n).fbx = s.fbx := rfl
@[simp] theorem State.bumpBy_wd (s : State) (k n : Nat) : (s.bumpBy k n).wd = s.wd := rfl
@[simp] theorem State.bumpBy_diag (s : State) (k n : Nat) : (s.bumpBy k n).diag = s.diag := rfl
@[simp] theorem State.bumpBy_pwr (s : State) (k n : Nat) : (s.bumpBy k n).pwr = s.pwr := rfl
@[simp] theorem State.bumpBy_trace (s : State) (k n : Nat) : (s.bumpBy k n).trace = s.trace := rfl
@[simp] theorem State.bumpBy_traceDrop (s : State) (k n : Nat) : (s.bumpBy k n).traceDrop = s.traceDrop := rfl
@[simp] theorem State.bumpBy_msix (s : State) (k n : Nat) : (s.bumpBy k n).msix = s.msix := rfl
@[simp] theorem State.bumpBy_cg (s : State) (k n : Nat) : (s.bumpBy k n).cg = s.cg := rfl
@[simp] theorem State.bumpBy_firm (s : State) (k n : Nat) : (s.bumpBy k n).firm = s.firm := rfl
@[simp] theorem State.bumpBy_keep (s : State) (k n : Nat) : (s.bumpBy k n).keep = s.keep := rfl
@[simp] theorem State.bumpBy_start (s : State) (k n : Nat) : (s.bumpBy k n).start = s.start := rfl
@[simp] theorem State.bumpBy_snapCmp (s : State) (k n : Nat) : (s.bumpBy k n).snapCmp = s.snapCmp := rfl
@[simp] theorem State.bumpBy_obs (s : State) (k n : Nat) : (s.bumpBy k n).obs = s.obs := rfl
@[simp] theorem State.bumpBy_now (s : State) (k n : Nat) : (s.bumpBy k n).now = s.now := rfl

@[simp] theorem State.bump_pending (s : State) (k : Nat) : (s.bump k).pending = s.pending := rfl
@[simp] theorem State.bump_tick (s : State) (k : Nat) : (s.bump k).tick = s.tick := rfl
@[simp] theorem State.bump_free (s : State) (k : Nat) : (s.bump k).free = s.free := rfl
@[simp] theorem State.bump_rdata (s : State) (k : Nat) : (s.bump k).rdata = s.rdata := rfl
@[simp] theorem State.bump_mainClk (s : State) (k : Nat) : (s.bump k).mainClk = s.mainClk := rfl
@[simp] theorem State.bump_rclkOn (s : State) (k : Nat) : (s.bump k).rclkOn = s.rclkOn := rfl
@[simp] theorem State.bump_rphase (s : State) (k : Nat) : (s.bump k).rphase = s.rphase := rfl
@[simp] theorem State.bump_rclk (s : State) (k : Nat) : (s.bump k).rclk = s.rclk := rfl
@[simp] theorem State.bump_regs (s : State) (k : Nat) : (s.bump k).regs = mapSet 0 s.regs k ((s.reg k + 1) % 2 ^ 32) := rfl
@[simp] theorem State.bump_logs (s : State) (k : Nat) : (s.bump k).logs = s.logs := rfl
@[simp] theorem State.bump_mem (s : State) (k : Nat) : (s.bump k).mem = s.mem := rfl
@[simp] theorem State.bump_poison (s : State) (k : Nat) : (s.bump k).poison = s.poison := rfl
@[simp] theorem State.bump_upset (s : State) (k : Nat) : (s.bump k).upset = s.upset := rfl
@[simp] theorem State.bump_cells (s : State) (k : Nat) : (s.bump k).cells = s.cells := rfl
@[simp] theorem State.bump_tb (s : State) (k : Nat) : (s.bump k).tb = s.tb := rfl
@[simp] theorem State.bump_evr (s : State) (k : Nat) : (s.bump k).evr = s.evr := rfl
@[simp] theorem State.bump_line (s : State) (k : Nat) : (s.bump k).line = s.line := rfl
@[simp] theorem State.bump_auth (s : State) (k : Nat) : (s.bump k).auth = s.auth := rfl
@[simp] theorem State.bump_safe (s : State) (k : Nat) : (s.bump k).safe = s.safe := rfl
@[simp] theorem State.bump_hostEvent (s : State) (k : Nat) : (s.bump k).hostEvent = s.hostEvent := rfl
@[simp] theorem State.bump_frt (s : State) (k : Nat) : (s.bump k).frt = s.frt := rfl
@[simp] theorem State.bump_vats (s : State) (k : Nat) : (s.bump k).vats = s.vats := rfl
@[simp] theorem State.bump_mig (s : State) (k : Nat) : (s.bump k).mig = s.mig := rfl
@[simp] theorem State.bump_harp (s : State) (k : Nat) : (s.bump k).harp = s.harp := rfl
@[simp] theorem State.bump_harpShare (s : State) (k : Nat) : (s.bump k).harpShare = s.harpShare := rfl
@[simp] theorem State.bump_walkers (s : State) (k : Nat) : (s.bump k).walkers = s.walkers := rfl
@[simp] theorem State.bump_swaps (s : State) (k : Nat) : (s.bump k).swaps = s.swaps := rfl
@[simp] theorem State.bump_ing (s : State) (k : Nat) : (s.bump k).ing = s.ing := rfl
@[simp] theorem State.bump_fus (s : State) (k : Nat) : (s.bump k).fus = s.fus := rfl
@[simp] theorem State.bump_slv (s : State) (k : Nat) : (s.bump k).slv = s.slv := rfl
@[simp] theorem State.bump_pln (s : State) (k : Nat) : (s.bump k).pln = s.pln := rfl
@[simp] theorem State.bump_lp (s : State) (k : Nat) : (s.bump k).lp = s.lp := rfl
@[simp] theorem State.bump_tsn (s : State) (k : Nat) : (s.bump k).tsn = s.tsn := rfl
@[simp] theorem State.bump_xsl (s : State) (k : Nat) : (s.bump k).xsl = s.xsl := rfl
@[simp] theorem State.bump_fbx (s : State) (k : Nat) : (s.bump k).fbx = s.fbx := rfl
@[simp] theorem State.bump_wd (s : State) (k : Nat) : (s.bump k).wd = s.wd := rfl
@[simp] theorem State.bump_diag (s : State) (k : Nat) : (s.bump k).diag = s.diag := rfl
@[simp] theorem State.bump_pwr (s : State) (k : Nat) : (s.bump k).pwr = s.pwr := rfl
@[simp] theorem State.bump_trace (s : State) (k : Nat) : (s.bump k).trace = s.trace := rfl
@[simp] theorem State.bump_traceDrop (s : State) (k : Nat) : (s.bump k).traceDrop = s.traceDrop := rfl
@[simp] theorem State.bump_msix (s : State) (k : Nat) : (s.bump k).msix = s.msix := rfl
@[simp] theorem State.bump_cg (s : State) (k : Nat) : (s.bump k).cg = s.cg := rfl
@[simp] theorem State.bump_firm (s : State) (k : Nat) : (s.bump k).firm = s.firm := rfl
@[simp] theorem State.bump_keep (s : State) (k : Nat) : (s.bump k).keep = s.keep := rfl
@[simp] theorem State.bump_start (s : State) (k : Nat) : (s.bump k).start = s.start := rfl
@[simp] theorem State.bump_snapCmp (s : State) (k : Nat) : (s.bump k).snapCmp = s.snapCmp := rfl
@[simp] theorem State.bump_obs (s : State) (k : Nat) : (s.bump k).obs = s.obs := rfl
@[simp] theorem State.bump_now (s : State) (k : Nat) : (s.bump k).now = s.now := rfl

@[simp] theorem State.store_pending (s : State) (a : Nat) (l : List Byte) : (s.store a l).pending = s.pending := rfl
@[simp] theorem State.store_tick (s : State) (a : Nat) (l : List Byte) : (s.store a l).tick = s.tick := rfl
@[simp] theorem State.store_free (s : State) (a : Nat) (l : List Byte) : (s.store a l).free = s.free := rfl
@[simp] theorem State.store_rdata (s : State) (a : Nat) (l : List Byte) : (s.store a l).rdata = s.rdata := rfl
@[simp] theorem State.store_mainClk (s : State) (a : Nat) (l : List Byte) : (s.store a l).mainClk = s.mainClk := rfl
@[simp] theorem State.store_rclkOn (s : State) (a : Nat) (l : List Byte) : (s.store a l).rclkOn = s.rclkOn := rfl
@[simp] theorem State.store_rphase (s : State) (a : Nat) (l : List Byte) : (s.store a l).rphase = s.rphase := rfl
@[simp] theorem State.store_rclk (s : State) (a : Nat) (l : List Byte) : (s.store a l).rclk = s.rclk := rfl
@[simp] theorem State.store_regs (s : State) (a : Nat) (l : List Byte) : (s.store a l).regs = s.regs := rfl
@[simp] theorem State.store_logs (s : State) (a : Nat) (l : List Byte) : (s.store a l).logs = s.logs := rfl
@[simp] theorem State.store_mem (s : State) (a : Nat) (l : List Byte) : (s.store a l).mem = memStore s.mem a l := rfl
@[simp] theorem State.store_cells (s : State) (a : Nat) (l : List Byte) : (s.store a l).cells = s.cells := rfl
@[simp] theorem State.store_tb (s : State) (a : Nat) (l : List Byte) : (s.store a l).tb = s.tb := rfl
@[simp] theorem State.store_evr (s : State) (a : Nat) (l : List Byte) : (s.store a l).evr = s.evr := rfl
@[simp] theorem State.store_line (s : State) (a : Nat) (l : List Byte) : (s.store a l).line = s.line := rfl
@[simp] theorem State.store_auth (s : State) (a : Nat) (l : List Byte) : (s.store a l).auth = s.auth := rfl
@[simp] theorem State.store_safe (s : State) (a : Nat) (l : List Byte) : (s.store a l).safe = s.safe := rfl
@[simp] theorem State.store_hostEvent (s : State) (a : Nat) (l : List Byte) : (s.store a l).hostEvent = s.hostEvent := rfl
@[simp] theorem State.store_frt (s : State) (a : Nat) (l : List Byte) : (s.store a l).frt = s.frt := rfl
@[simp] theorem State.store_vats (s : State) (a : Nat) (l : List Byte) : (s.store a l).vats = s.vats := rfl
@[simp] theorem State.store_mig (s : State) (a : Nat) (l : List Byte) : (s.store a l).mig = s.mig := rfl
@[simp] theorem State.store_harp (s : State) (a : Nat) (l : List Byte) : (s.store a l).harp = s.harp := rfl
@[simp] theorem State.store_harpShare (s : State) (a : Nat) (l : List Byte) : (s.store a l).harpShare = s.harpShare := rfl
@[simp] theorem State.store_walkers (s : State) (a : Nat) (l : List Byte) : (s.store a l).walkers = s.walkers := rfl
@[simp] theorem State.store_swaps (s : State) (a : Nat) (l : List Byte) : (s.store a l).swaps = s.swaps := rfl
@[simp] theorem State.store_ing (s : State) (a : Nat) (l : List Byte) : (s.store a l).ing = s.ing := rfl
@[simp] theorem State.store_fus (s : State) (a : Nat) (l : List Byte) : (s.store a l).fus = s.fus := rfl
@[simp] theorem State.store_slv (s : State) (a : Nat) (l : List Byte) : (s.store a l).slv = s.slv := rfl
@[simp] theorem State.store_pln (s : State) (a : Nat) (l : List Byte) : (s.store a l).pln = s.pln := rfl
@[simp] theorem State.store_lp (s : State) (a : Nat) (l : List Byte) : (s.store a l).lp = s.lp := rfl
@[simp] theorem State.store_tsn (s : State) (a : Nat) (l : List Byte) : (s.store a l).tsn = s.tsn := rfl
@[simp] theorem State.store_xsl (s : State) (a : Nat) (l : List Byte) : (s.store a l).xsl = s.xsl := rfl
@[simp] theorem State.store_fbx (s : State) (a : Nat) (l : List Byte) : (s.store a l).fbx = s.fbx := rfl
@[simp] theorem State.store_wd (s : State) (a : Nat) (l : List Byte) : (s.store a l).wd = s.wd := rfl
@[simp] theorem State.store_diag (s : State) (a : Nat) (l : List Byte) : (s.store a l).diag = s.diag := rfl
@[simp] theorem State.store_pwr (s : State) (a : Nat) (l : List Byte) : (s.store a l).pwr = s.pwr := rfl
@[simp] theorem State.store_trace (s : State) (a : Nat) (l : List Byte) : (s.store a l).trace = s.trace := rfl
@[simp] theorem State.store_traceDrop (s : State) (a : Nat) (l : List Byte) : (s.store a l).traceDrop = s.traceDrop := rfl
@[simp] theorem State.store_msix (s : State) (a : Nat) (l : List Byte) : (s.store a l).msix = s.msix := rfl
@[simp] theorem State.store_cg (s : State) (a : Nat) (l : List Byte) : (s.store a l).cg = s.cg := rfl
@[simp] theorem State.store_firm (s : State) (a : Nat) (l : List Byte) : (s.store a l).firm = s.firm := rfl
@[simp] theorem State.store_keep (s : State) (a : Nat) (l : List Byte) : (s.store a l).keep = s.keep := rfl
@[simp] theorem State.store_start (s : State) (a : Nat) (l : List Byte) : (s.store a l).start = s.start := rfl
@[simp] theorem State.store_snapCmp (s : State) (a : Nat) (l : List Byte) : (s.store a l).snapCmp = s.snapCmp := rfl
@[simp] theorem State.store_obs (s : State) (a : Nat) (l : List Byte) : (s.store a l).obs = s.obs := rfl
@[simp] theorem State.store_now (s : State) (a : Nat) (l : List Byte) : (s.store a l).now = s.now := rfl
@[simp] theorem State.store_reg (s : State) (a : Nat) (l : List Byte) (j : Nat) : (s.store a l).reg j = s.reg j := rfl

@[simp] theorem State.storeLE_pending (s : State) (a n v : Nat) : (s.storeLE a n v).pending = s.pending := rfl
@[simp] theorem State.storeLE_tick (s : State) (a n v : Nat) : (s.storeLE a n v).tick = s.tick := rfl
@[simp] theorem State.storeLE_free (s : State) (a n v : Nat) : (s.storeLE a n v).free = s.free := rfl
@[simp] theorem State.storeLE_rdata (s : State) (a n v : Nat) : (s.storeLE a n v).rdata = s.rdata := rfl
@[simp] theorem State.storeLE_mainClk (s : State) (a n v : Nat) : (s.storeLE a n v).mainClk = s.mainClk := rfl
@[simp] theorem State.storeLE_rclkOn (s : State) (a n v : Nat) : (s.storeLE a n v).rclkOn = s.rclkOn := rfl
@[simp] theorem State.storeLE_rphase (s : State) (a n v : Nat) : (s.storeLE a n v).rphase = s.rphase := rfl
@[simp] theorem State.storeLE_rclk (s : State) (a n v : Nat) : (s.storeLE a n v).rclk = s.rclk := rfl
@[simp] theorem State.storeLE_regs (s : State) (a n v : Nat) : (s.storeLE a n v).regs = s.regs := rfl
@[simp] theorem State.storeLE_logs (s : State) (a n v : Nat) : (s.storeLE a n v).logs = s.logs := rfl
@[simp] theorem State.storeLE_mem (s : State) (a n v : Nat) : (s.storeLE a n v).mem = memStore s.mem a (toLE n v) := rfl
@[simp] theorem State.storeLE_cells (s : State) (a n v : Nat) : (s.storeLE a n v).cells = s.cells := rfl
@[simp] theorem State.storeLE_tb (s : State) (a n v : Nat) : (s.storeLE a n v).tb = s.tb := rfl
@[simp] theorem State.storeLE_evr (s : State) (a n v : Nat) : (s.storeLE a n v).evr = s.evr := rfl
@[simp] theorem State.storeLE_line (s : State) (a n v : Nat) : (s.storeLE a n v).line = s.line := rfl
@[simp] theorem State.storeLE_auth (s : State) (a n v : Nat) : (s.storeLE a n v).auth = s.auth := rfl
@[simp] theorem State.storeLE_safe (s : State) (a n v : Nat) : (s.storeLE a n v).safe = s.safe := rfl
@[simp] theorem State.storeLE_hostEvent (s : State) (a n v : Nat) : (s.storeLE a n v).hostEvent = s.hostEvent := rfl
@[simp] theorem State.storeLE_frt (s : State) (a n v : Nat) : (s.storeLE a n v).frt = s.frt := rfl
@[simp] theorem State.storeLE_vats (s : State) (a n v : Nat) : (s.storeLE a n v).vats = s.vats := rfl
@[simp] theorem State.storeLE_mig (s : State) (a n v : Nat) : (s.storeLE a n v).mig = s.mig := rfl
@[simp] theorem State.storeLE_harp (s : State) (a n v : Nat) : (s.storeLE a n v).harp = s.harp := rfl
@[simp] theorem State.storeLE_harpShare (s : State) (a n v : Nat) : (s.storeLE a n v).harpShare = s.harpShare := rfl
@[simp] theorem State.storeLE_walkers (s : State) (a n v : Nat) : (s.storeLE a n v).walkers = s.walkers := rfl
@[simp] theorem State.storeLE_swaps (s : State) (a n v : Nat) : (s.storeLE a n v).swaps = s.swaps := rfl
@[simp] theorem State.storeLE_ing (s : State) (a n v : Nat) : (s.storeLE a n v).ing = s.ing := rfl
@[simp] theorem State.storeLE_fus (s : State) (a n v : Nat) : (s.storeLE a n v).fus = s.fus := rfl
@[simp] theorem State.storeLE_slv (s : State) (a n v : Nat) : (s.storeLE a n v).slv = s.slv := rfl
@[simp] theorem State.storeLE_pln (s : State) (a n v : Nat) : (s.storeLE a n v).pln = s.pln := rfl
@[simp] theorem State.storeLE_lp (s : State) (a n v : Nat) : (s.storeLE a n v).lp = s.lp := rfl
@[simp] theorem State.storeLE_tsn (s : State) (a n v : Nat) : (s.storeLE a n v).tsn = s.tsn := rfl
@[simp] theorem State.storeLE_xsl (s : State) (a n v : Nat) : (s.storeLE a n v).xsl = s.xsl := rfl
@[simp] theorem State.storeLE_fbx (s : State) (a n v : Nat) : (s.storeLE a n v).fbx = s.fbx := rfl
@[simp] theorem State.storeLE_wd (s : State) (a n v : Nat) : (s.storeLE a n v).wd = s.wd := rfl
@[simp] theorem State.storeLE_diag (s : State) (a n v : Nat) : (s.storeLE a n v).diag = s.diag := rfl
@[simp] theorem State.storeLE_pwr (s : State) (a n v : Nat) : (s.storeLE a n v).pwr = s.pwr := rfl
@[simp] theorem State.storeLE_trace (s : State) (a n v : Nat) : (s.storeLE a n v).trace = s.trace := rfl
@[simp] theorem State.storeLE_traceDrop (s : State) (a n v : Nat) : (s.storeLE a n v).traceDrop = s.traceDrop := rfl
@[simp] theorem State.storeLE_msix (s : State) (a n v : Nat) : (s.storeLE a n v).msix = s.msix := rfl
@[simp] theorem State.storeLE_cg (s : State) (a n v : Nat) : (s.storeLE a n v).cg = s.cg := rfl
@[simp] theorem State.storeLE_firm (s : State) (a n v : Nat) : (s.storeLE a n v).firm = s.firm := rfl
@[simp] theorem State.storeLE_keep (s : State) (a n v : Nat) : (s.storeLE a n v).keep = s.keep := rfl
@[simp] theorem State.storeLE_start (s : State) (a n v : Nat) : (s.storeLE a n v).start = s.start := rfl
@[simp] theorem State.storeLE_snapCmp (s : State) (a n v : Nat) : (s.storeLE a n v).snapCmp = s.snapCmp := rfl
@[simp] theorem State.storeLE_obs (s : State) (a n v : Nat) : (s.storeLE a n v).obs = s.obs := rfl
@[simp] theorem State.storeLE_now (s : State) (a n v : Nat) : (s.storeLE a n v).now = s.now := rfl
@[simp] theorem State.storeLE_reg (s : State) (a n v : Nat) (j : Nat) : (s.storeLE a n v).reg j = s.reg j := rfl

@[simp] theorem State.storePoisoned_pending (s : State) (a : Nat) (l : List Byte) : (s.storePoisoned a l).pending = s.pending := rfl
@[simp] theorem State.storePoisoned_tick (s : State) (a : Nat) (l : List Byte) : (s.storePoisoned a l).tick = s.tick := rfl
@[simp] theorem State.storePoisoned_free (s : State) (a : Nat) (l : List Byte) : (s.storePoisoned a l).free = s.free := rfl
@[simp] theorem State.storePoisoned_rdata (s : State) (a : Nat) (l : List Byte) : (s.storePoisoned a l).rdata = s.rdata := rfl
@[simp] theorem State.storePoisoned_mainClk (s : State) (a : Nat) (l : List Byte) : (s.storePoisoned a l).mainClk = s.mainClk := rfl
@[simp] theorem State.storePoisoned_rclkOn (s : State) (a : Nat) (l : List Byte) : (s.storePoisoned a l).rclkOn = s.rclkOn := rfl
@[simp] theorem State.storePoisoned_rphase (s : State) (a : Nat) (l : List Byte) : (s.storePoisoned a l).rphase = s.rphase := rfl
@[simp] theorem State.storePoisoned_rclk (s : State) (a : Nat) (l : List Byte) : (s.storePoisoned a l).rclk = s.rclk := rfl
@[simp] theorem State.storePoisoned_regs (s : State) (a : Nat) (l : List Byte) : (s.storePoisoned a l).regs = s.regs := rfl
@[simp] theorem State.storePoisoned_logs (s : State) (a : Nat) (l : List Byte) : (s.storePoisoned a l).logs = s.logs := rfl
@[simp] theorem State.storePoisoned_mem (s : State) (a : Nat) (l : List Byte) : (s.storePoisoned a l).mem = memStore s.mem a l := rfl
@[simp] theorem State.storePoisoned_poison (s : State) (a : Nat) (l : List Byte) : (s.storePoisoned a l).poison = (wordsOf a l.length).foldl setInsert s.poison := rfl
@[simp] theorem State.storePoisoned_upset (s : State) (a : Nat) (l : List Byte) : (s.storePoisoned a l).upset = s.upset := rfl
@[simp] theorem State.storePoisoned_cells (s : State) (a : Nat) (l : List Byte) : (s.storePoisoned a l).cells = s.cells := rfl
@[simp] theorem State.storePoisoned_tb (s : State) (a : Nat) (l : List Byte) : (s.storePoisoned a l).tb = s.tb := rfl
@[simp] theorem State.storePoisoned_evr (s : State) (a : Nat) (l : List Byte) : (s.storePoisoned a l).evr = s.evr := rfl
@[simp] theorem State.storePoisoned_line (s : State) (a : Nat) (l : List Byte) : (s.storePoisoned a l).line = s.line := rfl
@[simp] theorem State.storePoisoned_auth (s : State) (a : Nat) (l : List Byte) : (s.storePoisoned a l).auth = s.auth := rfl
@[simp] theorem State.storePoisoned_safe (s : State) (a : Nat) (l : List Byte) : (s.storePoisoned a l).safe = s.safe := rfl
@[simp] theorem State.storePoisoned_hostEvent (s : State) (a : Nat) (l : List Byte) : (s.storePoisoned a l).hostEvent = s.hostEvent := rfl
@[simp] theorem State.storePoisoned_frt (s : State) (a : Nat) (l : List Byte) : (s.storePoisoned a l).frt = s.frt := rfl
@[simp] theorem State.storePoisoned_vats (s : State) (a : Nat) (l : List Byte) : (s.storePoisoned a l).vats = s.vats := rfl
@[simp] theorem State.storePoisoned_mig (s : State) (a : Nat) (l : List Byte) : (s.storePoisoned a l).mig = s.mig := rfl
@[simp] theorem State.storePoisoned_harp (s : State) (a : Nat) (l : List Byte) : (s.storePoisoned a l).harp = s.harp := rfl
@[simp] theorem State.storePoisoned_harpShare (s : State) (a : Nat) (l : List Byte) : (s.storePoisoned a l).harpShare = s.harpShare := rfl
@[simp] theorem State.storePoisoned_walkers (s : State) (a : Nat) (l : List Byte) : (s.storePoisoned a l).walkers = s.walkers := rfl
@[simp] theorem State.storePoisoned_swaps (s : State) (a : Nat) (l : List Byte) : (s.storePoisoned a l).swaps = s.swaps := rfl
@[simp] theorem State.storePoisoned_ing (s : State) (a : Nat) (l : List Byte) : (s.storePoisoned a l).ing = s.ing := rfl
@[simp] theorem State.storePoisoned_fus (s : State) (a : Nat) (l : List Byte) : (s.storePoisoned a l).fus = s.fus := rfl
@[simp] theorem State.storePoisoned_slv (s : State) (a : Nat) (l : List Byte) : (s.storePoisoned a l).slv = s.slv := rfl
@[simp] theorem State.storePoisoned_pln (s : State) (a : Nat) (l : List Byte) : (s.storePoisoned a l).pln = s.pln := rfl
@[simp] theorem State.storePoisoned_lp (s : State) (a : Nat) (l : List Byte) : (s.storePoisoned a l).lp = s.lp := rfl
@[simp] theorem State.storePoisoned_tsn (s : State) (a : Nat) (l : List Byte) : (s.storePoisoned a l).tsn = s.tsn := rfl
@[simp] theorem State.storePoisoned_xsl (s : State) (a : Nat) (l : List Byte) : (s.storePoisoned a l).xsl = s.xsl := rfl
@[simp] theorem State.storePoisoned_fbx (s : State) (a : Nat) (l : List Byte) : (s.storePoisoned a l).fbx = s.fbx := rfl
@[simp] theorem State.storePoisoned_wd (s : State) (a : Nat) (l : List Byte) : (s.storePoisoned a l).wd = s.wd := rfl
@[simp] theorem State.storePoisoned_diag (s : State) (a : Nat) (l : List Byte) : (s.storePoisoned a l).diag = s.diag := rfl
@[simp] theorem State.storePoisoned_pwr (s : State) (a : Nat) (l : List Byte) : (s.storePoisoned a l).pwr = s.pwr := rfl
@[simp] theorem State.storePoisoned_trace (s : State) (a : Nat) (l : List Byte) : (s.storePoisoned a l).trace = s.trace := rfl
@[simp] theorem State.storePoisoned_traceDrop (s : State) (a : Nat) (l : List Byte) : (s.storePoisoned a l).traceDrop = s.traceDrop := rfl
@[simp] theorem State.storePoisoned_msix (s : State) (a : Nat) (l : List Byte) : (s.storePoisoned a l).msix = s.msix := rfl
@[simp] theorem State.storePoisoned_cg (s : State) (a : Nat) (l : List Byte) : (s.storePoisoned a l).cg = s.cg := rfl
@[simp] theorem State.storePoisoned_firm (s : State) (a : Nat) (l : List Byte) : (s.storePoisoned a l).firm = s.firm := rfl
@[simp] theorem State.storePoisoned_keep (s : State) (a : Nat) (l : List Byte) : (s.storePoisoned a l).keep = s.keep := rfl
@[simp] theorem State.storePoisoned_start (s : State) (a : Nat) (l : List Byte) : (s.storePoisoned a l).start = s.start := rfl
@[simp] theorem State.storePoisoned_snapCmp (s : State) (a : Nat) (l : List Byte) : (s.storePoisoned a l).snapCmp = s.snapCmp := rfl
@[simp] theorem State.storePoisoned_obs (s : State) (a : Nat) (l : List Byte) : (s.storePoisoned a l).obs = s.obs := rfl
@[simp] theorem State.storePoisoned_now (s : State) (a : Nat) (l : List Byte) : (s.storePoisoned a l).now = s.now := rfl
@[simp] theorem State.storePoisoned_reg (s : State) (a : Nat) (l : List Byte) (j : Nat) : (s.storePoisoned a l).reg j = s.reg j := rfl

@[simp] theorem State.setCell_pending (s : State) (n k v : Nat) : (s.setCell n k v).pending = s.pending := rfl
@[simp] theorem State.setCell_tick (s : State) (n k v : Nat) : (s.setCell n k v).tick = s.tick := rfl
@[simp] theorem State.setCell_free (s : State) (n k v : Nat) : (s.setCell n k v).free = s.free := rfl
@[simp] theorem State.setCell_rdata (s : State) (n k v : Nat) : (s.setCell n k v).rdata = s.rdata := rfl
@[simp] theorem State.setCell_mainClk (s : State) (n k v : Nat) : (s.setCell n k v).mainClk = s.mainClk := rfl
@[simp] theorem State.setCell_rclkOn (s : State) (n k v : Nat) : (s.setCell n k v).rclkOn = s.rclkOn := rfl
@[simp] theorem State.setCell_rphase (s : State) (n k v : Nat) : (s.setCell n k v).rphase = s.rphase := rfl
@[simp] theorem State.setCell_rclk (s : State) (n k v : Nat) : (s.setCell n k v).rclk = s.rclk := rfl
@[simp] theorem State.setCell_regs (s : State) (n k v : Nat) : (s.setCell n k v).regs = s.regs := rfl
@[simp] theorem State.setCell_logs (s : State) (n k v : Nat) : (s.setCell n k v).logs = s.logs := rfl
@[simp] theorem State.setCell_mem (s : State) (n k v : Nat) : (s.setCell n k v).mem = s.mem := rfl
@[simp] theorem State.setCell_poison (s : State) (n k v : Nat) : (s.setCell n k v).poison = s.poison := rfl
@[simp] theorem State.setCell_upset (s : State) (n k v : Nat) : (s.setCell n k v).upset = s.upset := rfl
@[simp] theorem State.setCell_cells (s : State) (n k v : Nat) : (s.setCell n k v).cells = mapSet 0 s.cells (cellKey n k) (v % 2 ^ 64) := rfl
@[simp] theorem State.setCell_tb (s : State) (n k v : Nat) : (s.setCell n k v).tb = s.tb := rfl
@[simp] theorem State.setCell_evr (s : State) (n k v : Nat) : (s.setCell n k v).evr = s.evr := rfl
@[simp] theorem State.setCell_line (s : State) (n k v : Nat) : (s.setCell n k v).line = s.line := rfl
@[simp] theorem State.setCell_auth (s : State) (n k v : Nat) : (s.setCell n k v).auth = s.auth := rfl
@[simp] theorem State.setCell_safe (s : State) (n k v : Nat) : (s.setCell n k v).safe = s.safe := rfl
@[simp] theorem State.setCell_hostEvent (s : State) (n k v : Nat) : (s.setCell n k v).hostEvent = s.hostEvent := rfl
@[simp] theorem State.setCell_frt (s : State) (n k v : Nat) : (s.setCell n k v).frt = s.frt := rfl
@[simp] theorem State.setCell_vats (s : State) (n k v : Nat) : (s.setCell n k v).vats = s.vats := rfl
@[simp] theorem State.setCell_mig (s : State) (n k v : Nat) : (s.setCell n k v).mig = s.mig := rfl
@[simp] theorem State.setCell_harp (s : State) (n k v : Nat) : (s.setCell n k v).harp = s.harp := rfl
@[simp] theorem State.setCell_harpShare (s : State) (n k v : Nat) : (s.setCell n k v).harpShare = s.harpShare := rfl
@[simp] theorem State.setCell_walkers (s : State) (n k v : Nat) : (s.setCell n k v).walkers = s.walkers := rfl
@[simp] theorem State.setCell_swaps (s : State) (n k v : Nat) : (s.setCell n k v).swaps = s.swaps := rfl
@[simp] theorem State.setCell_ing (s : State) (n k v : Nat) : (s.setCell n k v).ing = s.ing := rfl
@[simp] theorem State.setCell_fus (s : State) (n k v : Nat) : (s.setCell n k v).fus = s.fus := rfl
@[simp] theorem State.setCell_slv (s : State) (n k v : Nat) : (s.setCell n k v).slv = s.slv := rfl
@[simp] theorem State.setCell_pln (s : State) (n k v : Nat) : (s.setCell n k v).pln = s.pln := rfl
@[simp] theorem State.setCell_lp (s : State) (n k v : Nat) : (s.setCell n k v).lp = s.lp := rfl
@[simp] theorem State.setCell_tsn (s : State) (n k v : Nat) : (s.setCell n k v).tsn = s.tsn := rfl
@[simp] theorem State.setCell_xsl (s : State) (n k v : Nat) : (s.setCell n k v).xsl = s.xsl := rfl
@[simp] theorem State.setCell_fbx (s : State) (n k v : Nat) : (s.setCell n k v).fbx = s.fbx := rfl
@[simp] theorem State.setCell_wd (s : State) (n k v : Nat) : (s.setCell n k v).wd = s.wd := rfl
@[simp] theorem State.setCell_diag (s : State) (n k v : Nat) : (s.setCell n k v).diag = s.diag := rfl
@[simp] theorem State.setCell_pwr (s : State) (n k v : Nat) : (s.setCell n k v).pwr = s.pwr := rfl
@[simp] theorem State.setCell_trace (s : State) (n k v : Nat) : (s.setCell n k v).trace = s.trace := rfl
@[simp] theorem State.setCell_traceDrop (s : State) (n k v : Nat) : (s.setCell n k v).traceDrop = s.traceDrop := rfl
@[simp] theorem State.setCell_msix (s : State) (n k v : Nat) : (s.setCell n k v).msix = s.msix := rfl
@[simp] theorem State.setCell_cg (s : State) (n k v : Nat) : (s.setCell n k v).cg = s.cg := rfl
@[simp] theorem State.setCell_firm (s : State) (n k v : Nat) : (s.setCell n k v).firm = s.firm := rfl
@[simp] theorem State.setCell_keep (s : State) (n k v : Nat) : (s.setCell n k v).keep = s.keep := rfl
@[simp] theorem State.setCell_start (s : State) (n k v : Nat) : (s.setCell n k v).start = s.start := rfl
@[simp] theorem State.setCell_snapCmp (s : State) (n k v : Nat) : (s.setCell n k v).snapCmp = s.snapCmp := rfl
@[simp] theorem State.setCell_obs (s : State) (n k v : Nat) : (s.setCell n k v).obs = s.obs := rfl
@[simp] theorem State.setCell_now (s : State) (n k v : Nat) : (s.setCell n k v).now = s.now := rfl
@[simp] theorem State.setCell_reg (s : State) (n k v : Nat) (j : Nat) : (s.setCell n k v).reg j = s.reg j := rfl

@[simp] theorem State.addCell_pending (s : State) (n k v : Nat) : (s.addCell n k v).pending = s.pending := rfl
@[simp] theorem State.addCell_tick (s : State) (n k v : Nat) : (s.addCell n k v).tick = s.tick := rfl
@[simp] theorem State.addCell_free (s : State) (n k v : Nat) : (s.addCell n k v).free = s.free := rfl
@[simp] theorem State.addCell_rdata (s : State) (n k v : Nat) : (s.addCell n k v).rdata = s.rdata := rfl
@[simp] theorem State.addCell_mainClk (s : State) (n k v : Nat) : (s.addCell n k v).mainClk = s.mainClk := rfl
@[simp] theorem State.addCell_rclkOn (s : State) (n k v : Nat) : (s.addCell n k v).rclkOn = s.rclkOn := rfl
@[simp] theorem State.addCell_rphase (s : State) (n k v : Nat) : (s.addCell n k v).rphase = s.rphase := rfl
@[simp] theorem State.addCell_rclk (s : State) (n k v : Nat) : (s.addCell n k v).rclk = s.rclk := rfl
@[simp] theorem State.addCell_regs (s : State) (n k v : Nat) : (s.addCell n k v).regs = s.regs := rfl
@[simp] theorem State.addCell_logs (s : State) (n k v : Nat) : (s.addCell n k v).logs = s.logs := rfl
@[simp] theorem State.addCell_mem (s : State) (n k v : Nat) : (s.addCell n k v).mem = s.mem := rfl
@[simp] theorem State.addCell_poison (s : State) (n k v : Nat) : (s.addCell n k v).poison = s.poison := rfl
@[simp] theorem State.addCell_upset (s : State) (n k v : Nat) : (s.addCell n k v).upset = s.upset := rfl
@[simp] theorem State.addCell_tb (s : State) (n k v : Nat) : (s.addCell n k v).tb = s.tb := rfl
@[simp] theorem State.addCell_evr (s : State) (n k v : Nat) : (s.addCell n k v).evr = s.evr := rfl
@[simp] theorem State.addCell_line (s : State) (n k v : Nat) : (s.addCell n k v).line = s.line := rfl
@[simp] theorem State.addCell_auth (s : State) (n k v : Nat) : (s.addCell n k v).auth = s.auth := rfl
@[simp] theorem State.addCell_safe (s : State) (n k v : Nat) : (s.addCell n k v).safe = s.safe := rfl
@[simp] theorem State.addCell_hostEvent (s : State) (n k v : Nat) : (s.addCell n k v).hostEvent = s.hostEvent := rfl
@[simp] theorem State.addCell_frt (s : State) (n k v : Nat) : (s.addCell n k v).frt = s.frt := rfl
@[simp] theorem State.addCell_vats (s : State) (n k v : Nat) : (s.addCell n k v).vats = s.vats := rfl
@[simp] theorem State.addCell_mig (s : State) (n k v : Nat) : (s.addCell n k v).mig = s.mig := rfl
@[simp] theorem State.addCell_harp (s : State) (n k v : Nat) : (s.addCell n k v).harp = s.harp := rfl
@[simp] theorem State.addCell_harpShare (s : State) (n k v : Nat) : (s.addCell n k v).harpShare = s.harpShare := rfl
@[simp] theorem State.addCell_walkers (s : State) (n k v : Nat) : (s.addCell n k v).walkers = s.walkers := rfl
@[simp] theorem State.addCell_swaps (s : State) (n k v : Nat) : (s.addCell n k v).swaps = s.swaps := rfl
@[simp] theorem State.addCell_ing (s : State) (n k v : Nat) : (s.addCell n k v).ing = s.ing := rfl
@[simp] theorem State.addCell_fus (s : State) (n k v : Nat) : (s.addCell n k v).fus = s.fus := rfl
@[simp] theorem State.addCell_slv (s : State) (n k v : Nat) : (s.addCell n k v).slv = s.slv := rfl
@[simp] theorem State.addCell_pln (s : State) (n k v : Nat) : (s.addCell n k v).pln = s.pln := rfl
@[simp] theorem State.addCell_lp (s : State) (n k v : Nat) : (s.addCell n k v).lp = s.lp := rfl
@[simp] theorem State.addCell_tsn (s : State) (n k v : Nat) : (s.addCell n k v).tsn = s.tsn := rfl
@[simp] theorem State.addCell_xsl (s : State) (n k v : Nat) : (s.addCell n k v).xsl = s.xsl := rfl
@[simp] theorem State.addCell_fbx (s : State) (n k v : Nat) : (s.addCell n k v).fbx = s.fbx := rfl
@[simp] theorem State.addCell_wd (s : State) (n k v : Nat) : (s.addCell n k v).wd = s.wd := rfl
@[simp] theorem State.addCell_diag (s : State) (n k v : Nat) : (s.addCell n k v).diag = s.diag := rfl
@[simp] theorem State.addCell_pwr (s : State) (n k v : Nat) : (s.addCell n k v).pwr = s.pwr := rfl
@[simp] theorem State.addCell_trace (s : State) (n k v : Nat) : (s.addCell n k v).trace = s.trace := rfl
@[simp] theorem State.addCell_traceDrop (s : State) (n k v : Nat) : (s.addCell n k v).traceDrop = s.traceDrop := rfl
@[simp] theorem State.addCell_msix (s : State) (n k v : Nat) : (s.addCell n k v).msix = s.msix := rfl
@[simp] theorem State.addCell_cg (s : State) (n k v : Nat) : (s.addCell n k v).cg = s.cg := rfl
@[simp] theorem State.addCell_firm (s : State) (n k v : Nat) : (s.addCell n k v).firm = s.firm := rfl
@[simp] theorem State.addCell_keep (s : State) (n k v : Nat) : (s.addCell n k v).keep = s.keep := rfl
@[simp] theorem State.addCell_start (s : State) (n k v : Nat) : (s.addCell n k v).start = s.start := rfl
@[simp] theorem State.addCell_snapCmp (s : State) (n k v : Nat) : (s.addCell n k v).snapCmp = s.snapCmp := rfl
@[simp] theorem State.addCell_obs (s : State) (n k v : Nat) : (s.addCell n k v).obs = s.obs := rfl
@[simp] theorem State.addCell_now (s : State) (n k v : Nat) : (s.addCell n k v).now = s.now := rfl
@[simp] theorem State.addCell_reg (s : State) (n k v : Nat) (j : Nat) : (s.addCell n k v).reg j = s.reg j := rfl

@[simp] theorem State.noteSet_pending (s : State) (k m : Nat) : (s.noteSet k m).pending = s.pending := rfl
@[simp] theorem State.noteSet_tick (s : State) (k m : Nat) : (s.noteSet k m).tick = s.tick := rfl
@[simp] theorem State.noteSet_free (s : State) (k m : Nat) : (s.noteSet k m).free = s.free := rfl
@[simp] theorem State.noteSet_rdata (s : State) (k m : Nat) : (s.noteSet k m).rdata = s.rdata := rfl
@[simp] theorem State.noteSet_mainClk (s : State) (k m : Nat) : (s.noteSet k m).mainClk = s.mainClk := rfl
@[simp] theorem State.noteSet_rclkOn (s : State) (k m : Nat) : (s.noteSet k m).rclkOn = s.rclkOn := rfl
@[simp] theorem State.noteSet_rphase (s : State) (k m : Nat) : (s.noteSet k m).rphase = s.rphase := rfl
@[simp] theorem State.noteSet_rclk (s : State) (k m : Nat) : (s.noteSet k m).rclk = s.rclk := rfl
@[simp] theorem State.noteSet_regs (s : State) (k m : Nat) : (s.noteSet k m).regs = s.regs := rfl
@[simp] theorem State.noteSet_logs (s : State) (k m : Nat) : (s.noteSet k m).logs = s.logs := rfl
@[simp] theorem State.noteSet_mem (s : State) (k m : Nat) : (s.noteSet k m).mem = s.mem := rfl
@[simp] theorem State.noteSet_poison (s : State) (k m : Nat) : (s.noteSet k m).poison = s.poison := rfl
@[simp] theorem State.noteSet_upset (s : State) (k m : Nat) : (s.noteSet k m).upset = s.upset := rfl
@[simp] theorem State.noteSet_cells (s : State) (k m : Nat) : (s.noteSet k m).cells = s.cells := rfl
@[simp] theorem State.noteSet_tb (s : State) (k m : Nat) : (s.noteSet k m).tb = s.tb := rfl
@[simp] theorem State.noteSet_evr (s : State) (k m : Nat) : (s.noteSet k m).evr = s.evr := rfl
@[simp] theorem State.noteSet_line (s : State) (k m : Nat) : (s.noteSet k m).line = s.line := rfl
@[simp] theorem State.noteSet_auth (s : State) (k m : Nat) : (s.noteSet k m).auth = s.auth := rfl
@[simp] theorem State.noteSet_safe (s : State) (k m : Nat) : (s.noteSet k m).safe = s.safe := rfl
@[simp] theorem State.noteSet_hostEvent (s : State) (k m : Nat) : (s.noteSet k m).hostEvent = s.hostEvent := rfl
@[simp] theorem State.noteSet_frt (s : State) (k m : Nat) : (s.noteSet k m).frt = s.frt := rfl
@[simp] theorem State.noteSet_vats (s : State) (k m : Nat) : (s.noteSet k m).vats = s.vats := rfl
@[simp] theorem State.noteSet_mig (s : State) (k m : Nat) : (s.noteSet k m).mig = s.mig := rfl
@[simp] theorem State.noteSet_harp (s : State) (k m : Nat) : (s.noteSet k m).harp = s.harp := rfl
@[simp] theorem State.noteSet_harpShare (s : State) (k m : Nat) : (s.noteSet k m).harpShare = s.harpShare := rfl
@[simp] theorem State.noteSet_walkers (s : State) (k m : Nat) : (s.noteSet k m).walkers = s.walkers := rfl
@[simp] theorem State.noteSet_swaps (s : State) (k m : Nat) : (s.noteSet k m).swaps = s.swaps := rfl
@[simp] theorem State.noteSet_ing (s : State) (k m : Nat) : (s.noteSet k m).ing = s.ing := rfl
@[simp] theorem State.noteSet_fus (s : State) (k m : Nat) : (s.noteSet k m).fus = s.fus := rfl
@[simp] theorem State.noteSet_slv (s : State) (k m : Nat) : (s.noteSet k m).slv = s.slv := rfl
@[simp] theorem State.noteSet_pln (s : State) (k m : Nat) : (s.noteSet k m).pln = s.pln := rfl
@[simp] theorem State.noteSet_lp (s : State) (k m : Nat) : (s.noteSet k m).lp = s.lp := rfl
@[simp] theorem State.noteSet_tsn (s : State) (k m : Nat) : (s.noteSet k m).tsn = s.tsn := rfl
@[simp] theorem State.noteSet_xsl (s : State) (k m : Nat) : (s.noteSet k m).xsl = s.xsl := rfl
@[simp] theorem State.noteSet_fbx (s : State) (k m : Nat) : (s.noteSet k m).fbx = s.fbx := rfl
@[simp] theorem State.noteSet_wd (s : State) (k m : Nat) : (s.noteSet k m).wd = s.wd := rfl
@[simp] theorem State.noteSet_diag (s : State) (k m : Nat) : (s.noteSet k m).diag = s.diag := rfl
@[simp] theorem State.noteSet_pwr (s : State) (k m : Nat) : (s.noteSet k m).pwr = s.pwr := rfl
@[simp] theorem State.noteSet_trace (s : State) (k m : Nat) : (s.noteSet k m).trace = s.trace := rfl
@[simp] theorem State.noteSet_traceDrop (s : State) (k m : Nat) : (s.noteSet k m).traceDrop = s.traceDrop := rfl
@[simp] theorem State.noteSet_msix (s : State) (k m : Nat) : (s.noteSet k m).msix = s.msix := rfl
@[simp] theorem State.noteSet_cg (s : State) (k m : Nat) : (s.noteSet k m).cg = s.cg := rfl
@[simp] theorem State.noteSet_firm (s : State) (k m : Nat) : (s.noteSet k m).firm = s.firm := rfl
@[simp] theorem State.noteSet_keep (s : State) (k m : Nat) : (s.noteSet k m).keep = s.keep := rfl
@[simp] theorem State.noteSet_start (s : State) (k m : Nat) : (s.noteSet k m).start = s.start := rfl
@[simp] theorem State.noteSet_snapCmp (s : State) (k m : Nat) : (s.noteSet k m).snapCmp = s.snapCmp := rfl
@[simp] theorem State.noteSet_obs (s : State) (k m : Nat) : (s.noteSet k m).obs = s.obs := rfl
@[simp] theorem State.noteSet_reg (s : State) (k m : Nat) (j : Nat) : (s.noteSet k m).reg j = s.reg j := rfl

@[simp] theorem State.hwSetBit_pending (s : State) (k i : Nat) : (s.hwSetBit k i).pending = s.pending := rfl
@[simp] theorem State.hwSetBit_tick (s : State) (k i : Nat) : (s.hwSetBit k i).tick = s.tick := rfl
@[simp] theorem State.hwSetBit_free (s : State) (k i : Nat) : (s.hwSetBit k i).free = s.free := rfl
@[simp] theorem State.hwSetBit_rdata (s : State) (k i : Nat) : (s.hwSetBit k i).rdata = s.rdata := rfl
@[simp] theorem State.hwSetBit_mainClk (s : State) (k i : Nat) : (s.hwSetBit k i).mainClk = s.mainClk := rfl
@[simp] theorem State.hwSetBit_rclkOn (s : State) (k i : Nat) : (s.hwSetBit k i).rclkOn = s.rclkOn := rfl
@[simp] theorem State.hwSetBit_rphase (s : State) (k i : Nat) : (s.hwSetBit k i).rphase = s.rphase := rfl
@[simp] theorem State.hwSetBit_rclk (s : State) (k i : Nat) : (s.hwSetBit k i).rclk = s.rclk := rfl
@[simp] theorem State.hwSetBit_regs (s : State) (k i : Nat) : (s.hwSetBit k i).regs = mapSet 0 s.regs k (putBit (s.reg k) i true) := rfl
@[simp] theorem State.hwSetBit_logs (s : State) (k i : Nat) : (s.hwSetBit k i).logs = s.logs := rfl
@[simp] theorem State.hwSetBit_mem (s : State) (k i : Nat) : (s.hwSetBit k i).mem = s.mem := rfl
@[simp] theorem State.hwSetBit_poison (s : State) (k i : Nat) : (s.hwSetBit k i).poison = s.poison := rfl
@[simp] theorem State.hwSetBit_upset (s : State) (k i : Nat) : (s.hwSetBit k i).upset = s.upset := rfl
@[simp] theorem State.hwSetBit_cells (s : State) (k i : Nat) : (s.hwSetBit k i).cells = s.cells := rfl
@[simp] theorem State.hwSetBit_tb (s : State) (k i : Nat) : (s.hwSetBit k i).tb = s.tb := rfl
@[simp] theorem State.hwSetBit_evr (s : State) (k i : Nat) : (s.hwSetBit k i).evr = s.evr := rfl
@[simp] theorem State.hwSetBit_line (s : State) (k i : Nat) : (s.hwSetBit k i).line = s.line := rfl
@[simp] theorem State.hwSetBit_auth (s : State) (k i : Nat) : (s.hwSetBit k i).auth = s.auth := rfl
@[simp] theorem State.hwSetBit_safe (s : State) (k i : Nat) : (s.hwSetBit k i).safe = s.safe := rfl
@[simp] theorem State.hwSetBit_hostEvent (s : State) (k i : Nat) : (s.hwSetBit k i).hostEvent = s.hostEvent := rfl
@[simp] theorem State.hwSetBit_frt (s : State) (k i : Nat) : (s.hwSetBit k i).frt = s.frt := rfl
@[simp] theorem State.hwSetBit_vats (s : State) (k i : Nat) : (s.hwSetBit k i).vats = s.vats := rfl
@[simp] theorem State.hwSetBit_mig (s : State) (k i : Nat) : (s.hwSetBit k i).mig = s.mig := rfl
@[simp] theorem State.hwSetBit_harp (s : State) (k i : Nat) : (s.hwSetBit k i).harp = s.harp := rfl
@[simp] theorem State.hwSetBit_harpShare (s : State) (k i : Nat) : (s.hwSetBit k i).harpShare = s.harpShare := rfl
@[simp] theorem State.hwSetBit_walkers (s : State) (k i : Nat) : (s.hwSetBit k i).walkers = s.walkers := rfl
@[simp] theorem State.hwSetBit_swaps (s : State) (k i : Nat) : (s.hwSetBit k i).swaps = s.swaps := rfl
@[simp] theorem State.hwSetBit_ing (s : State) (k i : Nat) : (s.hwSetBit k i).ing = s.ing := rfl
@[simp] theorem State.hwSetBit_fus (s : State) (k i : Nat) : (s.hwSetBit k i).fus = s.fus := rfl
@[simp] theorem State.hwSetBit_slv (s : State) (k i : Nat) : (s.hwSetBit k i).slv = s.slv := rfl
@[simp] theorem State.hwSetBit_pln (s : State) (k i : Nat) : (s.hwSetBit k i).pln = s.pln := rfl
@[simp] theorem State.hwSetBit_lp (s : State) (k i : Nat) : (s.hwSetBit k i).lp = s.lp := rfl
@[simp] theorem State.hwSetBit_tsn (s : State) (k i : Nat) : (s.hwSetBit k i).tsn = s.tsn := rfl
@[simp] theorem State.hwSetBit_xsl (s : State) (k i : Nat) : (s.hwSetBit k i).xsl = s.xsl := rfl
@[simp] theorem State.hwSetBit_fbx (s : State) (k i : Nat) : (s.hwSetBit k i).fbx = s.fbx := rfl
@[simp] theorem State.hwSetBit_wd (s : State) (k i : Nat) : (s.hwSetBit k i).wd = s.wd := rfl
@[simp] theorem State.hwSetBit_diag (s : State) (k i : Nat) : (s.hwSetBit k i).diag = s.diag := rfl
@[simp] theorem State.hwSetBit_pwr (s : State) (k i : Nat) : (s.hwSetBit k i).pwr = s.pwr := rfl
@[simp] theorem State.hwSetBit_trace (s : State) (k i : Nat) : (s.hwSetBit k i).trace = s.trace := rfl
@[simp] theorem State.hwSetBit_traceDrop (s : State) (k i : Nat) : (s.hwSetBit k i).traceDrop = s.traceDrop := rfl
@[simp] theorem State.hwSetBit_msix (s : State) (k i : Nat) : (s.hwSetBit k i).msix = s.msix := rfl
@[simp] theorem State.hwSetBit_cg (s : State) (k i : Nat) : (s.hwSetBit k i).cg = s.cg := rfl
@[simp] theorem State.hwSetBit_firm (s : State) (k i : Nat) : (s.hwSetBit k i).firm = s.firm := rfl
@[simp] theorem State.hwSetBit_keep (s : State) (k i : Nat) : (s.hwSetBit k i).keep = s.keep := rfl
@[simp] theorem State.hwSetBit_start (s : State) (k i : Nat) : (s.hwSetBit k i).start = s.start := rfl
@[simp] theorem State.hwSetBit_snapCmp (s : State) (k i : Nat) : (s.hwSetBit k i).snapCmp = s.snapCmp := rfl
@[simp] theorem State.hwSetBit_obs (s : State) (k i : Nat) : (s.hwSetBit k i).obs = s.obs := rfl

@[simp] theorem State.cellDo_pending (s : State) (n k i : Nat) (op : CellOp) : (s.cellDo n k i op).pending = s.pending := rfl
@[simp] theorem State.cellDo_tick (s : State) (n k i : Nat) (op : CellOp) : (s.cellDo n k i op).tick = s.tick := rfl
@[simp] theorem State.cellDo_free (s : State) (n k i : Nat) (op : CellOp) : (s.cellDo n k i op).free = s.free := rfl
@[simp] theorem State.cellDo_rdata (s : State) (n k i : Nat) (op : CellOp) : (s.cellDo n k i op).rdata = s.rdata := rfl
@[simp] theorem State.cellDo_mainClk (s : State) (n k i : Nat) (op : CellOp) : (s.cellDo n k i op).mainClk = s.mainClk := rfl
@[simp] theorem State.cellDo_rclkOn (s : State) (n k i : Nat) (op : CellOp) : (s.cellDo n k i op).rclkOn = s.rclkOn := rfl
@[simp] theorem State.cellDo_rphase (s : State) (n k i : Nat) (op : CellOp) : (s.cellDo n k i op).rphase = s.rphase := rfl
@[simp] theorem State.cellDo_rclk (s : State) (n k i : Nat) (op : CellOp) : (s.cellDo n k i op).rclk = s.rclk := rfl
@[simp] theorem State.cellDo_regs (s : State) (n k i : Nat) (op : CellOp) : (s.cellDo n k i op).regs = s.regs := rfl
@[simp] theorem State.cellDo_logs (s : State) (n k i : Nat) (op : CellOp) : (s.cellDo n k i op).logs = s.logs := rfl
@[simp] theorem State.cellDo_mem (s : State) (n k i : Nat) (op : CellOp) : (s.cellDo n k i op).mem = s.mem := rfl
@[simp] theorem State.cellDo_poison (s : State) (n k i : Nat) (op : CellOp) : (s.cellDo n k i op).poison = s.poison := rfl
@[simp] theorem State.cellDo_upset (s : State) (n k i : Nat) (op : CellOp) : (s.cellDo n k i op).upset = s.upset := rfl
@[simp] theorem State.cellDo_tb (s : State) (n k i : Nat) (op : CellOp) : (s.cellDo n k i op).tb = s.tb := rfl
@[simp] theorem State.cellDo_evr (s : State) (n k i : Nat) (op : CellOp) : (s.cellDo n k i op).evr = s.evr := rfl
@[simp] theorem State.cellDo_line (s : State) (n k i : Nat) (op : CellOp) : (s.cellDo n k i op).line = s.line := rfl
@[simp] theorem State.cellDo_auth (s : State) (n k i : Nat) (op : CellOp) : (s.cellDo n k i op).auth = s.auth := rfl
@[simp] theorem State.cellDo_safe (s : State) (n k i : Nat) (op : CellOp) : (s.cellDo n k i op).safe = s.safe := rfl
@[simp] theorem State.cellDo_hostEvent (s : State) (n k i : Nat) (op : CellOp) : (s.cellDo n k i op).hostEvent = s.hostEvent := rfl
@[simp] theorem State.cellDo_frt (s : State) (n k i : Nat) (op : CellOp) : (s.cellDo n k i op).frt = s.frt := rfl
@[simp] theorem State.cellDo_vats (s : State) (n k i : Nat) (op : CellOp) : (s.cellDo n k i op).vats = s.vats := rfl
@[simp] theorem State.cellDo_mig (s : State) (n k i : Nat) (op : CellOp) : (s.cellDo n k i op).mig = s.mig := rfl
@[simp] theorem State.cellDo_harp (s : State) (n k i : Nat) (op : CellOp) : (s.cellDo n k i op).harp = s.harp := rfl
@[simp] theorem State.cellDo_harpShare (s : State) (n k i : Nat) (op : CellOp) : (s.cellDo n k i op).harpShare = s.harpShare := rfl
@[simp] theorem State.cellDo_walkers (s : State) (n k i : Nat) (op : CellOp) : (s.cellDo n k i op).walkers = s.walkers := rfl
@[simp] theorem State.cellDo_swaps (s : State) (n k i : Nat) (op : CellOp) : (s.cellDo n k i op).swaps = s.swaps := rfl
@[simp] theorem State.cellDo_ing (s : State) (n k i : Nat) (op : CellOp) : (s.cellDo n k i op).ing = s.ing := rfl
@[simp] theorem State.cellDo_fus (s : State) (n k i : Nat) (op : CellOp) : (s.cellDo n k i op).fus = s.fus := rfl
@[simp] theorem State.cellDo_slv (s : State) (n k i : Nat) (op : CellOp) : (s.cellDo n k i op).slv = s.slv := rfl
@[simp] theorem State.cellDo_pln (s : State) (n k i : Nat) (op : CellOp) : (s.cellDo n k i op).pln = s.pln := rfl
@[simp] theorem State.cellDo_lp (s : State) (n k i : Nat) (op : CellOp) : (s.cellDo n k i op).lp = s.lp := rfl
@[simp] theorem State.cellDo_tsn (s : State) (n k i : Nat) (op : CellOp) : (s.cellDo n k i op).tsn = s.tsn := rfl
@[simp] theorem State.cellDo_xsl (s : State) (n k i : Nat) (op : CellOp) : (s.cellDo n k i op).xsl = s.xsl := rfl
@[simp] theorem State.cellDo_fbx (s : State) (n k i : Nat) (op : CellOp) : (s.cellDo n k i op).fbx = s.fbx := rfl
@[simp] theorem State.cellDo_wd (s : State) (n k i : Nat) (op : CellOp) : (s.cellDo n k i op).wd = s.wd := rfl
@[simp] theorem State.cellDo_diag (s : State) (n k i : Nat) (op : CellOp) : (s.cellDo n k i op).diag = s.diag := rfl
@[simp] theorem State.cellDo_pwr (s : State) (n k i : Nat) (op : CellOp) : (s.cellDo n k i op).pwr = s.pwr := rfl
@[simp] theorem State.cellDo_trace (s : State) (n k i : Nat) (op : CellOp) : (s.cellDo n k i op).trace = s.trace := rfl
@[simp] theorem State.cellDo_traceDrop (s : State) (n k i : Nat) (op : CellOp) : (s.cellDo n k i op).traceDrop = s.traceDrop := rfl
@[simp] theorem State.cellDo_msix (s : State) (n k i : Nat) (op : CellOp) : (s.cellDo n k i op).msix = s.msix := rfl
@[simp] theorem State.cellDo_cg (s : State) (n k i : Nat) (op : CellOp) : (s.cellDo n k i op).cg = s.cg := rfl
@[simp] theorem State.cellDo_firm (s : State) (n k i : Nat) (op : CellOp) : (s.cellDo n k i op).firm = s.firm := rfl
@[simp] theorem State.cellDo_keep (s : State) (n k i : Nat) (op : CellOp) : (s.cellDo n k i op).keep = s.keep := rfl
@[simp] theorem State.cellDo_start (s : State) (n k i : Nat) (op : CellOp) : (s.cellDo n k i op).start = s.start := rfl
@[simp] theorem State.cellDo_snapCmp (s : State) (n k i : Nat) (op : CellOp) : (s.cellDo n k i op).snapCmp = s.snapCmp := rfl
@[simp] theorem State.cellDo_obs (s : State) (n k i : Nat) (op : CellOp) : (s.cellDo n k i op).obs = s.obs := rfl
@[simp] theorem State.cellDo_reg (s : State) (n k i : Nat) (op : CellOp) (j : Nat) : (s.cellDo n k i op).reg j = s.reg j := rfl

@[simp] theorem State.useFree_pending (s : State) : (s.useFree).pending = s.pending := rfl
@[simp] theorem State.useFree_tick (s : State) : (s.useFree).tick = s.tick := rfl
@[simp] theorem State.useFree_free (s : State) : (s.useFree).free = s.free + 1 := rfl
@[simp] theorem State.useFree_rdata (s : State) : (s.useFree).rdata = s.rdata := rfl
@[simp] theorem State.useFree_mainClk (s : State) : (s.useFree).mainClk = s.mainClk := rfl
@[simp] theorem State.useFree_rclkOn (s : State) : (s.useFree).rclkOn = s.rclkOn := rfl
@[simp] theorem State.useFree_rphase (s : State) : (s.useFree).rphase = s.rphase := rfl
@[simp] theorem State.useFree_rclk (s : State) : (s.useFree).rclk = s.rclk := rfl
@[simp] theorem State.useFree_regs (s : State) : (s.useFree).regs = s.regs := rfl
@[simp] theorem State.useFree_logs (s : State) : (s.useFree).logs = s.logs := rfl
@[simp] theorem State.useFree_mem (s : State) : (s.useFree).mem = s.mem := rfl
@[simp] theorem State.useFree_poison (s : State) : (s.useFree).poison = s.poison := rfl
@[simp] theorem State.useFree_upset (s : State) : (s.useFree).upset = s.upset := rfl
@[simp] theorem State.useFree_cells (s : State) : (s.useFree).cells = s.cells := rfl
@[simp] theorem State.useFree_tb (s : State) : (s.useFree).tb = s.tb := rfl
@[simp] theorem State.useFree_evr (s : State) : (s.useFree).evr = s.evr := rfl
@[simp] theorem State.useFree_line (s : State) : (s.useFree).line = s.line := rfl
@[simp] theorem State.useFree_auth (s : State) : (s.useFree).auth = s.auth := rfl
@[simp] theorem State.useFree_safe (s : State) : (s.useFree).safe = s.safe := rfl
@[simp] theorem State.useFree_hostEvent (s : State) : (s.useFree).hostEvent = s.hostEvent := rfl
@[simp] theorem State.useFree_frt (s : State) : (s.useFree).frt = s.frt := rfl
@[simp] theorem State.useFree_vats (s : State) : (s.useFree).vats = s.vats := rfl
@[simp] theorem State.useFree_mig (s : State) : (s.useFree).mig = s.mig := rfl
@[simp] theorem State.useFree_harp (s : State) : (s.useFree).harp = s.harp := rfl
@[simp] theorem State.useFree_harpShare (s : State) : (s.useFree).harpShare = s.harpShare := rfl
@[simp] theorem State.useFree_walkers (s : State) : (s.useFree).walkers = s.walkers := rfl
@[simp] theorem State.useFree_swaps (s : State) : (s.useFree).swaps = s.swaps := rfl
@[simp] theorem State.useFree_ing (s : State) : (s.useFree).ing = s.ing := rfl
@[simp] theorem State.useFree_fus (s : State) : (s.useFree).fus = s.fus := rfl
@[simp] theorem State.useFree_slv (s : State) : (s.useFree).slv = s.slv := rfl
@[simp] theorem State.useFree_pln (s : State) : (s.useFree).pln = s.pln := rfl
@[simp] theorem State.useFree_lp (s : State) : (s.useFree).lp = s.lp := rfl
@[simp] theorem State.useFree_tsn (s : State) : (s.useFree).tsn = s.tsn := rfl
@[simp] theorem State.useFree_xsl (s : State) : (s.useFree).xsl = s.xsl := rfl
@[simp] theorem State.useFree_fbx (s : State) : (s.useFree).fbx = s.fbx := rfl
@[simp] theorem State.useFree_wd (s : State) : (s.useFree).wd = s.wd := rfl
@[simp] theorem State.useFree_diag (s : State) : (s.useFree).diag = s.diag := rfl
@[simp] theorem State.useFree_pwr (s : State) : (s.useFree).pwr = s.pwr := rfl
@[simp] theorem State.useFree_trace (s : State) : (s.useFree).trace = s.trace := rfl
@[simp] theorem State.useFree_traceDrop (s : State) : (s.useFree).traceDrop = s.traceDrop := rfl
@[simp] theorem State.useFree_msix (s : State) : (s.useFree).msix = s.msix := rfl
@[simp] theorem State.useFree_cg (s : State) : (s.useFree).cg = s.cg := rfl
@[simp] theorem State.useFree_firm (s : State) : (s.useFree).firm = s.firm := rfl
@[simp] theorem State.useFree_keep (s : State) : (s.useFree).keep = s.keep := rfl
@[simp] theorem State.useFree_start (s : State) : (s.useFree).start = s.start := rfl
@[simp] theorem State.useFree_snapCmp (s : State) : (s.useFree).snapCmp = s.snapCmp := rfl
@[simp] theorem State.useFree_obs (s : State) : (s.useFree).obs = s.obs := rfl
@[simp] theorem State.useFree_now (s : State) : (s.useFree).now = s.now := rfl
@[simp] theorem State.useFree_reg (s : State) (j : Nat) : (s.useFree).reg j = s.reg j := rfl

@[simp] theorem State.useFrees_pending (s : State) (n : Nat) : (s.useFrees n).pending = s.pending := rfl
@[simp] theorem State.useFrees_tick (s : State) (n : Nat) : (s.useFrees n).tick = s.tick := rfl
@[simp] theorem State.useFrees_free (s : State) (n : Nat) : (s.useFrees n).free = s.free + n := rfl
@[simp] theorem State.useFrees_rdata (s : State) (n : Nat) : (s.useFrees n).rdata = s.rdata := rfl
@[simp] theorem State.useFrees_mainClk (s : State) (n : Nat) : (s.useFrees n).mainClk = s.mainClk := rfl
@[simp] theorem State.useFrees_rclkOn (s : State) (n : Nat) : (s.useFrees n).rclkOn = s.rclkOn := rfl
@[simp] theorem State.useFrees_rphase (s : State) (n : Nat) : (s.useFrees n).rphase = s.rphase := rfl
@[simp] theorem State.useFrees_rclk (s : State) (n : Nat) : (s.useFrees n).rclk = s.rclk := rfl
@[simp] theorem State.useFrees_regs (s : State) (n : Nat) : (s.useFrees n).regs = s.regs := rfl
@[simp] theorem State.useFrees_logs (s : State) (n : Nat) : (s.useFrees n).logs = s.logs := rfl
@[simp] theorem State.useFrees_mem (s : State) (n : Nat) : (s.useFrees n).mem = s.mem := rfl
@[simp] theorem State.useFrees_poison (s : State) (n : Nat) : (s.useFrees n).poison = s.poison := rfl
@[simp] theorem State.useFrees_upset (s : State) (n : Nat) : (s.useFrees n).upset = s.upset := rfl
@[simp] theorem State.useFrees_cells (s : State) (n : Nat) : (s.useFrees n).cells = s.cells := rfl
@[simp] theorem State.useFrees_tb (s : State) (n : Nat) : (s.useFrees n).tb = s.tb := rfl
@[simp] theorem State.useFrees_evr (s : State) (n : Nat) : (s.useFrees n).evr = s.evr := rfl
@[simp] theorem State.useFrees_line (s : State) (n : Nat) : (s.useFrees n).line = s.line := rfl
@[simp] theorem State.useFrees_auth (s : State) (n : Nat) : (s.useFrees n).auth = s.auth := rfl
@[simp] theorem State.useFrees_safe (s : State) (n : Nat) : (s.useFrees n).safe = s.safe := rfl
@[simp] theorem State.useFrees_hostEvent (s : State) (n : Nat) : (s.useFrees n).hostEvent = s.hostEvent := rfl
@[simp] theorem State.useFrees_frt (s : State) (n : Nat) : (s.useFrees n).frt = s.frt := rfl
@[simp] theorem State.useFrees_vats (s : State) (n : Nat) : (s.useFrees n).vats = s.vats := rfl
@[simp] theorem State.useFrees_mig (s : State) (n : Nat) : (s.useFrees n).mig = s.mig := rfl
@[simp] theorem State.useFrees_harp (s : State) (n : Nat) : (s.useFrees n).harp = s.harp := rfl
@[simp] theorem State.useFrees_harpShare (s : State) (n : Nat) : (s.useFrees n).harpShare = s.harpShare := rfl
@[simp] theorem State.useFrees_walkers (s : State) (n : Nat) : (s.useFrees n).walkers = s.walkers := rfl
@[simp] theorem State.useFrees_swaps (s : State) (n : Nat) : (s.useFrees n).swaps = s.swaps := rfl
@[simp] theorem State.useFrees_ing (s : State) (n : Nat) : (s.useFrees n).ing = s.ing := rfl
@[simp] theorem State.useFrees_fus (s : State) (n : Nat) : (s.useFrees n).fus = s.fus := rfl
@[simp] theorem State.useFrees_slv (s : State) (n : Nat) : (s.useFrees n).slv = s.slv := rfl
@[simp] theorem State.useFrees_pln (s : State) (n : Nat) : (s.useFrees n).pln = s.pln := rfl
@[simp] theorem State.useFrees_lp (s : State) (n : Nat) : (s.useFrees n).lp = s.lp := rfl
@[simp] theorem State.useFrees_tsn (s : State) (n : Nat) : (s.useFrees n).tsn = s.tsn := rfl
@[simp] theorem State.useFrees_xsl (s : State) (n : Nat) : (s.useFrees n).xsl = s.xsl := rfl
@[simp] theorem State.useFrees_fbx (s : State) (n : Nat) : (s.useFrees n).fbx = s.fbx := rfl
@[simp] theorem State.useFrees_wd (s : State) (n : Nat) : (s.useFrees n).wd = s.wd := rfl
@[simp] theorem State.useFrees_diag (s : State) (n : Nat) : (s.useFrees n).diag = s.diag := rfl
@[simp] theorem State.useFrees_pwr (s : State) (n : Nat) : (s.useFrees n).pwr = s.pwr := rfl
@[simp] theorem State.useFrees_trace (s : State) (n : Nat) : (s.useFrees n).trace = s.trace := rfl
@[simp] theorem State.useFrees_traceDrop (s : State) (n : Nat) : (s.useFrees n).traceDrop = s.traceDrop := rfl
@[simp] theorem State.useFrees_msix (s : State) (n : Nat) : (s.useFrees n).msix = s.msix := rfl
@[simp] theorem State.useFrees_cg (s : State) (n : Nat) : (s.useFrees n).cg = s.cg := rfl
@[simp] theorem State.useFrees_firm (s : State) (n : Nat) : (s.useFrees n).firm = s.firm := rfl
@[simp] theorem State.useFrees_keep (s : State) (n : Nat) : (s.useFrees n).keep = s.keep := rfl
@[simp] theorem State.useFrees_start (s : State) (n : Nat) : (s.useFrees n).start = s.start := rfl
@[simp] theorem State.useFrees_snapCmp (s : State) (n : Nat) : (s.useFrees n).snapCmp = s.snapCmp := rfl
@[simp] theorem State.useFrees_obs (s : State) (n : Nat) : (s.useFrees n).obs = s.obs := rfl
@[simp] theorem State.useFrees_now (s : State) (n : Nat) : (s.useFrees n).now = s.now := rfl
@[simp] theorem State.useFrees_reg (s : State) (n : Nat) (j : Nat) : (s.useFrees n).reg j = s.reg j := rfl

@[simp] theorem State.modKeep_pending (s : State) (f : Keep → Keep) : (s.modKeep f).pending = s.pending := rfl
@[simp] theorem State.modKeep_tick (s : State) (f : Keep → Keep) : (s.modKeep f).tick = s.tick := rfl
@[simp] theorem State.modKeep_free (s : State) (f : Keep → Keep) : (s.modKeep f).free = s.free := rfl
@[simp] theorem State.modKeep_rdata (s : State) (f : Keep → Keep) : (s.modKeep f).rdata = s.rdata := rfl
@[simp] theorem State.modKeep_mainClk (s : State) (f : Keep → Keep) : (s.modKeep f).mainClk = s.mainClk := rfl
@[simp] theorem State.modKeep_rclkOn (s : State) (f : Keep → Keep) : (s.modKeep f).rclkOn = s.rclkOn := rfl
@[simp] theorem State.modKeep_rphase (s : State) (f : Keep → Keep) : (s.modKeep f).rphase = s.rphase := rfl
@[simp] theorem State.modKeep_rclk (s : State) (f : Keep → Keep) : (s.modKeep f).rclk = s.rclk := rfl
@[simp] theorem State.modKeep_regs (s : State) (f : Keep → Keep) : (s.modKeep f).regs = s.regs := rfl
@[simp] theorem State.modKeep_logs (s : State) (f : Keep → Keep) : (s.modKeep f).logs = s.logs := rfl
@[simp] theorem State.modKeep_mem (s : State) (f : Keep → Keep) : (s.modKeep f).mem = s.mem := rfl
@[simp] theorem State.modKeep_poison (s : State) (f : Keep → Keep) : (s.modKeep f).poison = s.poison := rfl
@[simp] theorem State.modKeep_upset (s : State) (f : Keep → Keep) : (s.modKeep f).upset = s.upset := rfl
@[simp] theorem State.modKeep_cells (s : State) (f : Keep → Keep) : (s.modKeep f).cells = s.cells := rfl
@[simp] theorem State.modKeep_tb (s : State) (f : Keep → Keep) : (s.modKeep f).tb = s.tb := rfl
@[simp] theorem State.modKeep_evr (s : State) (f : Keep → Keep) : (s.modKeep f).evr = s.evr := rfl
@[simp] theorem State.modKeep_line (s : State) (f : Keep → Keep) : (s.modKeep f).line = s.line := rfl
@[simp] theorem State.modKeep_auth (s : State) (f : Keep → Keep) : (s.modKeep f).auth = s.auth := rfl
@[simp] theorem State.modKeep_safe (s : State) (f : Keep → Keep) : (s.modKeep f).safe = s.safe := rfl
@[simp] theorem State.modKeep_hostEvent (s : State) (f : Keep → Keep) : (s.modKeep f).hostEvent = s.hostEvent := rfl
@[simp] theorem State.modKeep_frt (s : State) (f : Keep → Keep) : (s.modKeep f).frt = s.frt := rfl
@[simp] theorem State.modKeep_vats (s : State) (f : Keep → Keep) : (s.modKeep f).vats = s.vats := rfl
@[simp] theorem State.modKeep_mig (s : State) (f : Keep → Keep) : (s.modKeep f).mig = s.mig := rfl
@[simp] theorem State.modKeep_harp (s : State) (f : Keep → Keep) : (s.modKeep f).harp = s.harp := rfl
@[simp] theorem State.modKeep_harpShare (s : State) (f : Keep → Keep) : (s.modKeep f).harpShare = s.harpShare := rfl
@[simp] theorem State.modKeep_walkers (s : State) (f : Keep → Keep) : (s.modKeep f).walkers = s.walkers := rfl
@[simp] theorem State.modKeep_swaps (s : State) (f : Keep → Keep) : (s.modKeep f).swaps = s.swaps := rfl
@[simp] theorem State.modKeep_ing (s : State) (f : Keep → Keep) : (s.modKeep f).ing = s.ing := rfl
@[simp] theorem State.modKeep_fus (s : State) (f : Keep → Keep) : (s.modKeep f).fus = s.fus := rfl
@[simp] theorem State.modKeep_slv (s : State) (f : Keep → Keep) : (s.modKeep f).slv = s.slv := rfl
@[simp] theorem State.modKeep_pln (s : State) (f : Keep → Keep) : (s.modKeep f).pln = s.pln := rfl
@[simp] theorem State.modKeep_lp (s : State) (f : Keep → Keep) : (s.modKeep f).lp = s.lp := rfl
@[simp] theorem State.modKeep_tsn (s : State) (f : Keep → Keep) : (s.modKeep f).tsn = s.tsn := rfl
@[simp] theorem State.modKeep_xsl (s : State) (f : Keep → Keep) : (s.modKeep f).xsl = s.xsl := rfl
@[simp] theorem State.modKeep_fbx (s : State) (f : Keep → Keep) : (s.modKeep f).fbx = s.fbx := rfl
@[simp] theorem State.modKeep_wd (s : State) (f : Keep → Keep) : (s.modKeep f).wd = s.wd := rfl
@[simp] theorem State.modKeep_diag (s : State) (f : Keep → Keep) : (s.modKeep f).diag = s.diag := rfl
@[simp] theorem State.modKeep_pwr (s : State) (f : Keep → Keep) : (s.modKeep f).pwr = s.pwr := rfl
@[simp] theorem State.modKeep_trace (s : State) (f : Keep → Keep) : (s.modKeep f).trace = s.trace := rfl
@[simp] theorem State.modKeep_traceDrop (s : State) (f : Keep → Keep) : (s.modKeep f).traceDrop = s.traceDrop := rfl
@[simp] theorem State.modKeep_msix (s : State) (f : Keep → Keep) : (s.modKeep f).msix = s.msix := rfl
@[simp] theorem State.modKeep_cg (s : State) (f : Keep → Keep) : (s.modKeep f).cg = s.cg := rfl
@[simp] theorem State.modKeep_firm (s : State) (f : Keep → Keep) : (s.modKeep f).firm = s.firm := rfl
@[simp] theorem State.modKeep_keep (s : State) (f : Keep → Keep) : (s.modKeep f).keep = f s.keep := rfl
@[simp] theorem State.modKeep_start (s : State) (f : Keep → Keep) : (s.modKeep f).start = s.start := rfl
@[simp] theorem State.modKeep_snapCmp (s : State) (f : Keep → Keep) : (s.modKeep f).snapCmp = s.snapCmp := rfl
@[simp] theorem State.modKeep_obs (s : State) (f : Keep → Keep) : (s.modKeep f).obs = s.obs := rfl
@[simp] theorem State.modKeep_now (s : State) (f : Keep → Keep) : (s.modKeep f).now = s.now := rfl
@[simp] theorem State.modKeep_reg (s : State) (f : Keep → Keep) (j : Nat) : (s.modKeep f).reg j = s.reg j := rfl

@[simp] theorem State.modFus_pending (s : State) (f : Fusion → Fusion) : (s.modFus f).pending = s.pending := rfl
@[simp] theorem State.modFus_tick (s : State) (f : Fusion → Fusion) : (s.modFus f).tick = s.tick := rfl
@[simp] theorem State.modFus_free (s : State) (f : Fusion → Fusion) : (s.modFus f).free = s.free := rfl
@[simp] theorem State.modFus_rdata (s : State) (f : Fusion → Fusion) : (s.modFus f).rdata = s.rdata := rfl
@[simp] theorem State.modFus_mainClk (s : State) (f : Fusion → Fusion) : (s.modFus f).mainClk = s.mainClk := rfl
@[simp] theorem State.modFus_rclkOn (s : State) (f : Fusion → Fusion) : (s.modFus f).rclkOn = s.rclkOn := rfl
@[simp] theorem State.modFus_rphase (s : State) (f : Fusion → Fusion) : (s.modFus f).rphase = s.rphase := rfl
@[simp] theorem State.modFus_rclk (s : State) (f : Fusion → Fusion) : (s.modFus f).rclk = s.rclk := rfl
@[simp] theorem State.modFus_regs (s : State) (f : Fusion → Fusion) : (s.modFus f).regs = s.regs := rfl
@[simp] theorem State.modFus_logs (s : State) (f : Fusion → Fusion) : (s.modFus f).logs = s.logs := rfl
@[simp] theorem State.modFus_mem (s : State) (f : Fusion → Fusion) : (s.modFus f).mem = s.mem := rfl
@[simp] theorem State.modFus_poison (s : State) (f : Fusion → Fusion) : (s.modFus f).poison = s.poison := rfl
@[simp] theorem State.modFus_upset (s : State) (f : Fusion → Fusion) : (s.modFus f).upset = s.upset := rfl
@[simp] theorem State.modFus_cells (s : State) (f : Fusion → Fusion) : (s.modFus f).cells = s.cells := rfl
@[simp] theorem State.modFus_tb (s : State) (f : Fusion → Fusion) : (s.modFus f).tb = s.tb := rfl
@[simp] theorem State.modFus_evr (s : State) (f : Fusion → Fusion) : (s.modFus f).evr = s.evr := rfl
@[simp] theorem State.modFus_line (s : State) (f : Fusion → Fusion) : (s.modFus f).line = s.line := rfl
@[simp] theorem State.modFus_auth (s : State) (f : Fusion → Fusion) : (s.modFus f).auth = s.auth := rfl
@[simp] theorem State.modFus_safe (s : State) (f : Fusion → Fusion) : (s.modFus f).safe = s.safe := rfl
@[simp] theorem State.modFus_hostEvent (s : State) (f : Fusion → Fusion) : (s.modFus f).hostEvent = s.hostEvent := rfl
@[simp] theorem State.modFus_frt (s : State) (f : Fusion → Fusion) : (s.modFus f).frt = s.frt := rfl
@[simp] theorem State.modFus_vats (s : State) (f : Fusion → Fusion) : (s.modFus f).vats = s.vats := rfl
@[simp] theorem State.modFus_mig (s : State) (f : Fusion → Fusion) : (s.modFus f).mig = s.mig := rfl
@[simp] theorem State.modFus_harp (s : State) (f : Fusion → Fusion) : (s.modFus f).harp = s.harp := rfl
@[simp] theorem State.modFus_harpShare (s : State) (f : Fusion → Fusion) : (s.modFus f).harpShare = s.harpShare := rfl
@[simp] theorem State.modFus_walkers (s : State) (f : Fusion → Fusion) : (s.modFus f).walkers = s.walkers := rfl
@[simp] theorem State.modFus_swaps (s : State) (f : Fusion → Fusion) : (s.modFus f).swaps = s.swaps := rfl
@[simp] theorem State.modFus_ing (s : State) (f : Fusion → Fusion) : (s.modFus f).ing = s.ing := rfl
@[simp] theorem State.modFus_fus (s : State) (f : Fusion → Fusion) : (s.modFus f).fus = f s.fus := rfl
@[simp] theorem State.modFus_slv (s : State) (f : Fusion → Fusion) : (s.modFus f).slv = s.slv := rfl
@[simp] theorem State.modFus_pln (s : State) (f : Fusion → Fusion) : (s.modFus f).pln = s.pln := rfl
@[simp] theorem State.modFus_lp (s : State) (f : Fusion → Fusion) : (s.modFus f).lp = s.lp := rfl
@[simp] theorem State.modFus_tsn (s : State) (f : Fusion → Fusion) : (s.modFus f).tsn = s.tsn := rfl
@[simp] theorem State.modFus_xsl (s : State) (f : Fusion → Fusion) : (s.modFus f).xsl = s.xsl := rfl
@[simp] theorem State.modFus_fbx (s : State) (f : Fusion → Fusion) : (s.modFus f).fbx = s.fbx := rfl
@[simp] theorem State.modFus_wd (s : State) (f : Fusion → Fusion) : (s.modFus f).wd = s.wd := rfl
@[simp] theorem State.modFus_diag (s : State) (f : Fusion → Fusion) : (s.modFus f).diag = s.diag := rfl
@[simp] theorem State.modFus_pwr (s : State) (f : Fusion → Fusion) : (s.modFus f).pwr = s.pwr := rfl
@[simp] theorem State.modFus_trace (s : State) (f : Fusion → Fusion) : (s.modFus f).trace = s.trace := rfl
@[simp] theorem State.modFus_traceDrop (s : State) (f : Fusion → Fusion) : (s.modFus f).traceDrop = s.traceDrop := rfl
@[simp] theorem State.modFus_msix (s : State) (f : Fusion → Fusion) : (s.modFus f).msix = s.msix := rfl
@[simp] theorem State.modFus_cg (s : State) (f : Fusion → Fusion) : (s.modFus f).cg = s.cg := rfl
@[simp] theorem State.modFus_firm (s : State) (f : Fusion → Fusion) : (s.modFus f).firm = s.firm := rfl
@[simp] theorem State.modFus_keep (s : State) (f : Fusion → Fusion) : (s.modFus f).keep = s.keep := rfl
@[simp] theorem State.modFus_start (s : State) (f : Fusion → Fusion) : (s.modFus f).start = s.start := rfl
@[simp] theorem State.modFus_snapCmp (s : State) (f : Fusion → Fusion) : (s.modFus f).snapCmp = s.snapCmp := rfl
@[simp] theorem State.modFus_obs (s : State) (f : Fusion → Fusion) : (s.modFus f).obs = s.obs := rfl
@[simp] theorem State.modFus_now (s : State) (f : Fusion → Fusion) : (s.modFus f).now = s.now := rfl
@[simp] theorem State.modFus_reg (s : State) (f : Fusion → Fusion) (j : Nat) : (s.modFus f).reg j = s.reg j := rfl

@[simp] theorem State.modCg_pending (s : State) (f : CgUnit → CgUnit) : (s.modCg f).pending = s.pending := rfl
@[simp] theorem State.modCg_tick (s : State) (f : CgUnit → CgUnit) : (s.modCg f).tick = s.tick := rfl
@[simp] theorem State.modCg_free (s : State) (f : CgUnit → CgUnit) : (s.modCg f).free = s.free := rfl
@[simp] theorem State.modCg_rdata (s : State) (f : CgUnit → CgUnit) : (s.modCg f).rdata = s.rdata := rfl
@[simp] theorem State.modCg_mainClk (s : State) (f : CgUnit → CgUnit) : (s.modCg f).mainClk = s.mainClk := rfl
@[simp] theorem State.modCg_rclkOn (s : State) (f : CgUnit → CgUnit) : (s.modCg f).rclkOn = s.rclkOn := rfl
@[simp] theorem State.modCg_rphase (s : State) (f : CgUnit → CgUnit) : (s.modCg f).rphase = s.rphase := rfl
@[simp] theorem State.modCg_rclk (s : State) (f : CgUnit → CgUnit) : (s.modCg f).rclk = s.rclk := rfl
@[simp] theorem State.modCg_regs (s : State) (f : CgUnit → CgUnit) : (s.modCg f).regs = s.regs := rfl
@[simp] theorem State.modCg_logs (s : State) (f : CgUnit → CgUnit) : (s.modCg f).logs = s.logs := rfl
@[simp] theorem State.modCg_mem (s : State) (f : CgUnit → CgUnit) : (s.modCg f).mem = s.mem := rfl
@[simp] theorem State.modCg_poison (s : State) (f : CgUnit → CgUnit) : (s.modCg f).poison = s.poison := rfl
@[simp] theorem State.modCg_upset (s : State) (f : CgUnit → CgUnit) : (s.modCg f).upset = s.upset := rfl
@[simp] theorem State.modCg_cells (s : State) (f : CgUnit → CgUnit) : (s.modCg f).cells = s.cells := rfl
@[simp] theorem State.modCg_tb (s : State) (f : CgUnit → CgUnit) : (s.modCg f).tb = s.tb := rfl
@[simp] theorem State.modCg_evr (s : State) (f : CgUnit → CgUnit) : (s.modCg f).evr = s.evr := rfl
@[simp] theorem State.modCg_line (s : State) (f : CgUnit → CgUnit) : (s.modCg f).line = s.line := rfl
@[simp] theorem State.modCg_auth (s : State) (f : CgUnit → CgUnit) : (s.modCg f).auth = s.auth := rfl
@[simp] theorem State.modCg_safe (s : State) (f : CgUnit → CgUnit) : (s.modCg f).safe = s.safe := rfl
@[simp] theorem State.modCg_hostEvent (s : State) (f : CgUnit → CgUnit) : (s.modCg f).hostEvent = s.hostEvent := rfl
@[simp] theorem State.modCg_frt (s : State) (f : CgUnit → CgUnit) : (s.modCg f).frt = s.frt := rfl
@[simp] theorem State.modCg_vats (s : State) (f : CgUnit → CgUnit) : (s.modCg f).vats = s.vats := rfl
@[simp] theorem State.modCg_mig (s : State) (f : CgUnit → CgUnit) : (s.modCg f).mig = s.mig := rfl
@[simp] theorem State.modCg_harp (s : State) (f : CgUnit → CgUnit) : (s.modCg f).harp = s.harp := rfl
@[simp] theorem State.modCg_harpShare (s : State) (f : CgUnit → CgUnit) : (s.modCg f).harpShare = s.harpShare := rfl
@[simp] theorem State.modCg_walkers (s : State) (f : CgUnit → CgUnit) : (s.modCg f).walkers = s.walkers := rfl
@[simp] theorem State.modCg_swaps (s : State) (f : CgUnit → CgUnit) : (s.modCg f).swaps = s.swaps := rfl
@[simp] theorem State.modCg_ing (s : State) (f : CgUnit → CgUnit) : (s.modCg f).ing = s.ing := rfl
@[simp] theorem State.modCg_fus (s : State) (f : CgUnit → CgUnit) : (s.modCg f).fus = s.fus := rfl
@[simp] theorem State.modCg_slv (s : State) (f : CgUnit → CgUnit) : (s.modCg f).slv = s.slv := rfl
@[simp] theorem State.modCg_pln (s : State) (f : CgUnit → CgUnit) : (s.modCg f).pln = s.pln := rfl
@[simp] theorem State.modCg_lp (s : State) (f : CgUnit → CgUnit) : (s.modCg f).lp = s.lp := rfl
@[simp] theorem State.modCg_tsn (s : State) (f : CgUnit → CgUnit) : (s.modCg f).tsn = s.tsn := rfl
@[simp] theorem State.modCg_xsl (s : State) (f : CgUnit → CgUnit) : (s.modCg f).xsl = s.xsl := rfl
@[simp] theorem State.modCg_fbx (s : State) (f : CgUnit → CgUnit) : (s.modCg f).fbx = s.fbx := rfl
@[simp] theorem State.modCg_wd (s : State) (f : CgUnit → CgUnit) : (s.modCg f).wd = s.wd := rfl
@[simp] theorem State.modCg_diag (s : State) (f : CgUnit → CgUnit) : (s.modCg f).diag = s.diag := rfl
@[simp] theorem State.modCg_pwr (s : State) (f : CgUnit → CgUnit) : (s.modCg f).pwr = s.pwr := rfl
@[simp] theorem State.modCg_trace (s : State) (f : CgUnit → CgUnit) : (s.modCg f).trace = s.trace := rfl
@[simp] theorem State.modCg_traceDrop (s : State) (f : CgUnit → CgUnit) : (s.modCg f).traceDrop = s.traceDrop := rfl
@[simp] theorem State.modCg_msix (s : State) (f : CgUnit → CgUnit) : (s.modCg f).msix = s.msix := rfl
@[simp] theorem State.modCg_cg (s : State) (f : CgUnit → CgUnit) : (s.modCg f).cg = f s.cg := rfl
@[simp] theorem State.modCg_firm (s : State) (f : CgUnit → CgUnit) : (s.modCg f).firm = s.firm := rfl
@[simp] theorem State.modCg_keep (s : State) (f : CgUnit → CgUnit) : (s.modCg f).keep = s.keep := rfl
@[simp] theorem State.modCg_start (s : State) (f : CgUnit → CgUnit) : (s.modCg f).start = s.start := rfl
@[simp] theorem State.modCg_snapCmp (s : State) (f : CgUnit → CgUnit) : (s.modCg f).snapCmp = s.snapCmp := rfl
@[simp] theorem State.modCg_obs (s : State) (f : CgUnit → CgUnit) : (s.modCg f).obs = s.obs := rfl
@[simp] theorem State.modCg_now (s : State) (f : CgUnit → CgUnit) : (s.modCg f).now = s.now := rfl
@[simp] theorem State.modCg_reg (s : State) (f : CgUnit → CgUnit) (j : Nat) : (s.modCg f).reg j = s.reg j := rfl

@[simp] theorem State.modFirm_pending (s : State) (f : Firmware → Firmware) : (s.modFirm f).pending = s.pending := rfl
@[simp] theorem State.modFirm_tick (s : State) (f : Firmware → Firmware) : (s.modFirm f).tick = s.tick := rfl
@[simp] theorem State.modFirm_free (s : State) (f : Firmware → Firmware) : (s.modFirm f).free = s.free := rfl
@[simp] theorem State.modFirm_rdata (s : State) (f : Firmware → Firmware) : (s.modFirm f).rdata = s.rdata := rfl
@[simp] theorem State.modFirm_mainClk (s : State) (f : Firmware → Firmware) : (s.modFirm f).mainClk = s.mainClk := rfl
@[simp] theorem State.modFirm_rclkOn (s : State) (f : Firmware → Firmware) : (s.modFirm f).rclkOn = s.rclkOn := rfl
@[simp] theorem State.modFirm_rphase (s : State) (f : Firmware → Firmware) : (s.modFirm f).rphase = s.rphase := rfl
@[simp] theorem State.modFirm_rclk (s : State) (f : Firmware → Firmware) : (s.modFirm f).rclk = s.rclk := rfl
@[simp] theorem State.modFirm_regs (s : State) (f : Firmware → Firmware) : (s.modFirm f).regs = s.regs := rfl
@[simp] theorem State.modFirm_logs (s : State) (f : Firmware → Firmware) : (s.modFirm f).logs = s.logs := rfl
@[simp] theorem State.modFirm_mem (s : State) (f : Firmware → Firmware) : (s.modFirm f).mem = s.mem := rfl
@[simp] theorem State.modFirm_poison (s : State) (f : Firmware → Firmware) : (s.modFirm f).poison = s.poison := rfl
@[simp] theorem State.modFirm_upset (s : State) (f : Firmware → Firmware) : (s.modFirm f).upset = s.upset := rfl
@[simp] theorem State.modFirm_cells (s : State) (f : Firmware → Firmware) : (s.modFirm f).cells = s.cells := rfl
@[simp] theorem State.modFirm_tb (s : State) (f : Firmware → Firmware) : (s.modFirm f).tb = s.tb := rfl
@[simp] theorem State.modFirm_evr (s : State) (f : Firmware → Firmware) : (s.modFirm f).evr = s.evr := rfl
@[simp] theorem State.modFirm_line (s : State) (f : Firmware → Firmware) : (s.modFirm f).line = s.line := rfl
@[simp] theorem State.modFirm_auth (s : State) (f : Firmware → Firmware) : (s.modFirm f).auth = s.auth := rfl
@[simp] theorem State.modFirm_safe (s : State) (f : Firmware → Firmware) : (s.modFirm f).safe = s.safe := rfl
@[simp] theorem State.modFirm_hostEvent (s : State) (f : Firmware → Firmware) : (s.modFirm f).hostEvent = s.hostEvent := rfl
@[simp] theorem State.modFirm_frt (s : State) (f : Firmware → Firmware) : (s.modFirm f).frt = s.frt := rfl
@[simp] theorem State.modFirm_vats (s : State) (f : Firmware → Firmware) : (s.modFirm f).vats = s.vats := rfl
@[simp] theorem State.modFirm_mig (s : State) (f : Firmware → Firmware) : (s.modFirm f).mig = s.mig := rfl
@[simp] theorem State.modFirm_harp (s : State) (f : Firmware → Firmware) : (s.modFirm f).harp = s.harp := rfl
@[simp] theorem State.modFirm_harpShare (s : State) (f : Firmware → Firmware) : (s.modFirm f).harpShare = s.harpShare := rfl
@[simp] theorem State.modFirm_walkers (s : State) (f : Firmware → Firmware) : (s.modFirm f).walkers = s.walkers := rfl
@[simp] theorem State.modFirm_swaps (s : State) (f : Firmware → Firmware) : (s.modFirm f).swaps = s.swaps := rfl
@[simp] theorem State.modFirm_ing (s : State) (f : Firmware → Firmware) : (s.modFirm f).ing = s.ing := rfl
@[simp] theorem State.modFirm_fus (s : State) (f : Firmware → Firmware) : (s.modFirm f).fus = s.fus := rfl
@[simp] theorem State.modFirm_slv (s : State) (f : Firmware → Firmware) : (s.modFirm f).slv = s.slv := rfl
@[simp] theorem State.modFirm_pln (s : State) (f : Firmware → Firmware) : (s.modFirm f).pln = s.pln := rfl
@[simp] theorem State.modFirm_lp (s : State) (f : Firmware → Firmware) : (s.modFirm f).lp = s.lp := rfl
@[simp] theorem State.modFirm_tsn (s : State) (f : Firmware → Firmware) : (s.modFirm f).tsn = s.tsn := rfl
@[simp] theorem State.modFirm_xsl (s : State) (f : Firmware → Firmware) : (s.modFirm f).xsl = s.xsl := rfl
@[simp] theorem State.modFirm_fbx (s : State) (f : Firmware → Firmware) : (s.modFirm f).fbx = s.fbx := rfl
@[simp] theorem State.modFirm_wd (s : State) (f : Firmware → Firmware) : (s.modFirm f).wd = s.wd := rfl
@[simp] theorem State.modFirm_diag (s : State) (f : Firmware → Firmware) : (s.modFirm f).diag = s.diag := rfl
@[simp] theorem State.modFirm_pwr (s : State) (f : Firmware → Firmware) : (s.modFirm f).pwr = s.pwr := rfl
@[simp] theorem State.modFirm_trace (s : State) (f : Firmware → Firmware) : (s.modFirm f).trace = s.trace := rfl
@[simp] theorem State.modFirm_traceDrop (s : State) (f : Firmware → Firmware) : (s.modFirm f).traceDrop = s.traceDrop := rfl
@[simp] theorem State.modFirm_msix (s : State) (f : Firmware → Firmware) : (s.modFirm f).msix = s.msix := rfl
@[simp] theorem State.modFirm_cg (s : State) (f : Firmware → Firmware) : (s.modFirm f).cg = s.cg := rfl
@[simp] theorem State.modFirm_firm (s : State) (f : Firmware → Firmware) : (s.modFirm f).firm = f s.firm := rfl
@[simp] theorem State.modFirm_keep (s : State) (f : Firmware → Firmware) : (s.modFirm f).keep = s.keep := rfl
@[simp] theorem State.modFirm_start (s : State) (f : Firmware → Firmware) : (s.modFirm f).start = s.start := rfl
@[simp] theorem State.modFirm_snapCmp (s : State) (f : Firmware → Firmware) : (s.modFirm f).snapCmp = s.snapCmp := rfl
@[simp] theorem State.modFirm_obs (s : State) (f : Firmware → Firmware) : (s.modFirm f).obs = s.obs := rfl
@[simp] theorem State.modFirm_now (s : State) (f : Firmware → Firmware) : (s.modFirm f).now = s.now := rfl
@[simp] theorem State.modFirm_reg (s : State) (f : Firmware → Firmware) (j : Nat) : (s.modFirm f).reg j = s.reg j := rfl

@[simp] theorem State.modLp_pending (s : State) (f : Loop → Loop) : (s.modLp f).pending = s.pending := rfl
@[simp] theorem State.modLp_tick (s : State) (f : Loop → Loop) : (s.modLp f).tick = s.tick := rfl
@[simp] theorem State.modLp_free (s : State) (f : Loop → Loop) : (s.modLp f).free = s.free := rfl
@[simp] theorem State.modLp_rdata (s : State) (f : Loop → Loop) : (s.modLp f).rdata = s.rdata := rfl
@[simp] theorem State.modLp_mainClk (s : State) (f : Loop → Loop) : (s.modLp f).mainClk = s.mainClk := rfl
@[simp] theorem State.modLp_rclkOn (s : State) (f : Loop → Loop) : (s.modLp f).rclkOn = s.rclkOn := rfl
@[simp] theorem State.modLp_rphase (s : State) (f : Loop → Loop) : (s.modLp f).rphase = s.rphase := rfl
@[simp] theorem State.modLp_rclk (s : State) (f : Loop → Loop) : (s.modLp f).rclk = s.rclk := rfl
@[simp] theorem State.modLp_regs (s : State) (f : Loop → Loop) : (s.modLp f).regs = s.regs := rfl
@[simp] theorem State.modLp_logs (s : State) (f : Loop → Loop) : (s.modLp f).logs = s.logs := rfl
@[simp] theorem State.modLp_mem (s : State) (f : Loop → Loop) : (s.modLp f).mem = s.mem := rfl
@[simp] theorem State.modLp_poison (s : State) (f : Loop → Loop) : (s.modLp f).poison = s.poison := rfl
@[simp] theorem State.modLp_upset (s : State) (f : Loop → Loop) : (s.modLp f).upset = s.upset := rfl
@[simp] theorem State.modLp_cells (s : State) (f : Loop → Loop) : (s.modLp f).cells = s.cells := rfl
@[simp] theorem State.modLp_tb (s : State) (f : Loop → Loop) : (s.modLp f).tb = s.tb := rfl
@[simp] theorem State.modLp_evr (s : State) (f : Loop → Loop) : (s.modLp f).evr = s.evr := rfl
@[simp] theorem State.modLp_line (s : State) (f : Loop → Loop) : (s.modLp f).line = s.line := rfl
@[simp] theorem State.modLp_auth (s : State) (f : Loop → Loop) : (s.modLp f).auth = s.auth := rfl
@[simp] theorem State.modLp_safe (s : State) (f : Loop → Loop) : (s.modLp f).safe = s.safe := rfl
@[simp] theorem State.modLp_hostEvent (s : State) (f : Loop → Loop) : (s.modLp f).hostEvent = s.hostEvent := rfl
@[simp] theorem State.modLp_frt (s : State) (f : Loop → Loop) : (s.modLp f).frt = s.frt := rfl
@[simp] theorem State.modLp_vats (s : State) (f : Loop → Loop) : (s.modLp f).vats = s.vats := rfl
@[simp] theorem State.modLp_mig (s : State) (f : Loop → Loop) : (s.modLp f).mig = s.mig := rfl
@[simp] theorem State.modLp_harp (s : State) (f : Loop → Loop) : (s.modLp f).harp = s.harp := rfl
@[simp] theorem State.modLp_harpShare (s : State) (f : Loop → Loop) : (s.modLp f).harpShare = s.harpShare := rfl
@[simp] theorem State.modLp_walkers (s : State) (f : Loop → Loop) : (s.modLp f).walkers = s.walkers := rfl
@[simp] theorem State.modLp_swaps (s : State) (f : Loop → Loop) : (s.modLp f).swaps = s.swaps := rfl
@[simp] theorem State.modLp_ing (s : State) (f : Loop → Loop) : (s.modLp f).ing = s.ing := rfl
@[simp] theorem State.modLp_fus (s : State) (f : Loop → Loop) : (s.modLp f).fus = s.fus := rfl
@[simp] theorem State.modLp_slv (s : State) (f : Loop → Loop) : (s.modLp f).slv = s.slv := rfl
@[simp] theorem State.modLp_pln (s : State) (f : Loop → Loop) : (s.modLp f).pln = s.pln := rfl
@[simp] theorem State.modLp_lp (s : State) (f : Loop → Loop) : (s.modLp f).lp = f s.lp := rfl
@[simp] theorem State.modLp_tsn (s : State) (f : Loop → Loop) : (s.modLp f).tsn = s.tsn := rfl
@[simp] theorem State.modLp_xsl (s : State) (f : Loop → Loop) : (s.modLp f).xsl = s.xsl := rfl
@[simp] theorem State.modLp_fbx (s : State) (f : Loop → Loop) : (s.modLp f).fbx = s.fbx := rfl
@[simp] theorem State.modLp_wd (s : State) (f : Loop → Loop) : (s.modLp f).wd = s.wd := rfl
@[simp] theorem State.modLp_diag (s : State) (f : Loop → Loop) : (s.modLp f).diag = s.diag := rfl
@[simp] theorem State.modLp_pwr (s : State) (f : Loop → Loop) : (s.modLp f).pwr = s.pwr := rfl
@[simp] theorem State.modLp_trace (s : State) (f : Loop → Loop) : (s.modLp f).trace = s.trace := rfl
@[simp] theorem State.modLp_traceDrop (s : State) (f : Loop → Loop) : (s.modLp f).traceDrop = s.traceDrop := rfl
@[simp] theorem State.modLp_msix (s : State) (f : Loop → Loop) : (s.modLp f).msix = s.msix := rfl
@[simp] theorem State.modLp_cg (s : State) (f : Loop → Loop) : (s.modLp f).cg = s.cg := rfl
@[simp] theorem State.modLp_firm (s : State) (f : Loop → Loop) : (s.modLp f).firm = s.firm := rfl
@[simp] theorem State.modLp_keep (s : State) (f : Loop → Loop) : (s.modLp f).keep = s.keep := rfl
@[simp] theorem State.modLp_start (s : State) (f : Loop → Loop) : (s.modLp f).start = s.start := rfl
@[simp] theorem State.modLp_snapCmp (s : State) (f : Loop → Loop) : (s.modLp f).snapCmp = s.snapCmp := rfl
@[simp] theorem State.modLp_obs (s : State) (f : Loop → Loop) : (s.modLp f).obs = s.obs := rfl
@[simp] theorem State.modLp_now (s : State) (f : Loop → Loop) : (s.modLp f).now = s.now := rfl
@[simp] theorem State.modLp_reg (s : State) (f : Loop → Loop) (j : Nat) : (s.modLp f).reg j = s.reg j := rfl

@[simp] theorem State.modMig_pending (s : State) (f : Migration → Migration) : (s.modMig f).pending = s.pending := rfl
@[simp] theorem State.modMig_tick (s : State) (f : Migration → Migration) : (s.modMig f).tick = s.tick := rfl
@[simp] theorem State.modMig_free (s : State) (f : Migration → Migration) : (s.modMig f).free = s.free := rfl
@[simp] theorem State.modMig_rdata (s : State) (f : Migration → Migration) : (s.modMig f).rdata = s.rdata := rfl
@[simp] theorem State.modMig_mainClk (s : State) (f : Migration → Migration) : (s.modMig f).mainClk = s.mainClk := rfl
@[simp] theorem State.modMig_rclkOn (s : State) (f : Migration → Migration) : (s.modMig f).rclkOn = s.rclkOn := rfl
@[simp] theorem State.modMig_rphase (s : State) (f : Migration → Migration) : (s.modMig f).rphase = s.rphase := rfl
@[simp] theorem State.modMig_rclk (s : State) (f : Migration → Migration) : (s.modMig f).rclk = s.rclk := rfl
@[simp] theorem State.modMig_regs (s : State) (f : Migration → Migration) : (s.modMig f).regs = s.regs := rfl
@[simp] theorem State.modMig_logs (s : State) (f : Migration → Migration) : (s.modMig f).logs = s.logs := rfl
@[simp] theorem State.modMig_mem (s : State) (f : Migration → Migration) : (s.modMig f).mem = s.mem := rfl
@[simp] theorem State.modMig_poison (s : State) (f : Migration → Migration) : (s.modMig f).poison = s.poison := rfl
@[simp] theorem State.modMig_upset (s : State) (f : Migration → Migration) : (s.modMig f).upset = s.upset := rfl
@[simp] theorem State.modMig_cells (s : State) (f : Migration → Migration) : (s.modMig f).cells = s.cells := rfl
@[simp] theorem State.modMig_tb (s : State) (f : Migration → Migration) : (s.modMig f).tb = s.tb := rfl
@[simp] theorem State.modMig_evr (s : State) (f : Migration → Migration) : (s.modMig f).evr = s.evr := rfl
@[simp] theorem State.modMig_line (s : State) (f : Migration → Migration) : (s.modMig f).line = s.line := rfl
@[simp] theorem State.modMig_auth (s : State) (f : Migration → Migration) : (s.modMig f).auth = s.auth := rfl
@[simp] theorem State.modMig_safe (s : State) (f : Migration → Migration) : (s.modMig f).safe = s.safe := rfl
@[simp] theorem State.modMig_hostEvent (s : State) (f : Migration → Migration) : (s.modMig f).hostEvent = s.hostEvent := rfl
@[simp] theorem State.modMig_frt (s : State) (f : Migration → Migration) : (s.modMig f).frt = s.frt := rfl
@[simp] theorem State.modMig_vats (s : State) (f : Migration → Migration) : (s.modMig f).vats = s.vats := rfl
@[simp] theorem State.modMig_mig (s : State) (f : Migration → Migration) : (s.modMig f).mig = f s.mig := rfl
@[simp] theorem State.modMig_harp (s : State) (f : Migration → Migration) : (s.modMig f).harp = s.harp := rfl
@[simp] theorem State.modMig_harpShare (s : State) (f : Migration → Migration) : (s.modMig f).harpShare = s.harpShare := rfl
@[simp] theorem State.modMig_walkers (s : State) (f : Migration → Migration) : (s.modMig f).walkers = s.walkers := rfl
@[simp] theorem State.modMig_swaps (s : State) (f : Migration → Migration) : (s.modMig f).swaps = s.swaps := rfl
@[simp] theorem State.modMig_ing (s : State) (f : Migration → Migration) : (s.modMig f).ing = s.ing := rfl
@[simp] theorem State.modMig_fus (s : State) (f : Migration → Migration) : (s.modMig f).fus = s.fus := rfl
@[simp] theorem State.modMig_slv (s : State) (f : Migration → Migration) : (s.modMig f).slv = s.slv := rfl
@[simp] theorem State.modMig_pln (s : State) (f : Migration → Migration) : (s.modMig f).pln = s.pln := rfl
@[simp] theorem State.modMig_lp (s : State) (f : Migration → Migration) : (s.modMig f).lp = s.lp := rfl
@[simp] theorem State.modMig_tsn (s : State) (f : Migration → Migration) : (s.modMig f).tsn = s.tsn := rfl
@[simp] theorem State.modMig_xsl (s : State) (f : Migration → Migration) : (s.modMig f).xsl = s.xsl := rfl
@[simp] theorem State.modMig_fbx (s : State) (f : Migration → Migration) : (s.modMig f).fbx = s.fbx := rfl
@[simp] theorem State.modMig_wd (s : State) (f : Migration → Migration) : (s.modMig f).wd = s.wd := rfl
@[simp] theorem State.modMig_diag (s : State) (f : Migration → Migration) : (s.modMig f).diag = s.diag := rfl
@[simp] theorem State.modMig_pwr (s : State) (f : Migration → Migration) : (s.modMig f).pwr = s.pwr := rfl
@[simp] theorem State.modMig_trace (s : State) (f : Migration → Migration) : (s.modMig f).trace = s.trace := rfl
@[simp] theorem State.modMig_traceDrop (s : State) (f : Migration → Migration) : (s.modMig f).traceDrop = s.traceDrop := rfl
@[simp] theorem State.modMig_msix (s : State) (f : Migration → Migration) : (s.modMig f).msix = s.msix := rfl
@[simp] theorem State.modMig_cg (s : State) (f : Migration → Migration) : (s.modMig f).cg = s.cg := rfl
@[simp] theorem State.modMig_firm (s : State) (f : Migration → Migration) : (s.modMig f).firm = s.firm := rfl
@[simp] theorem State.modMig_keep (s : State) (f : Migration → Migration) : (s.modMig f).keep = s.keep := rfl
@[simp] theorem State.modMig_start (s : State) (f : Migration → Migration) : (s.modMig f).start = s.start := rfl
@[simp] theorem State.modMig_snapCmp (s : State) (f : Migration → Migration) : (s.modMig f).snapCmp = s.snapCmp := rfl
@[simp] theorem State.modMig_obs (s : State) (f : Migration → Migration) : (s.modMig f).obs = s.obs := rfl
@[simp] theorem State.modMig_now (s : State) (f : Migration → Migration) : (s.modMig f).now = s.now := rfl
@[simp] theorem State.modMig_reg (s : State) (f : Migration → Migration) (j : Nat) : (s.modMig f).reg j = s.reg j := rfl

@[simp] theorem State.modPln_pending (s : State) (f : Planner → Planner) : (s.modPln f).pending = s.pending := rfl
@[simp] theorem State.modPln_tick (s : State) (f : Planner → Planner) : (s.modPln f).tick = s.tick := rfl
@[simp] theorem State.modPln_free (s : State) (f : Planner → Planner) : (s.modPln f).free = s.free := rfl
@[simp] theorem State.modPln_rdata (s : State) (f : Planner → Planner) : (s.modPln f).rdata = s.rdata := rfl
@[simp] theorem State.modPln_mainClk (s : State) (f : Planner → Planner) : (s.modPln f).mainClk = s.mainClk := rfl
@[simp] theorem State.modPln_rclkOn (s : State) (f : Planner → Planner) : (s.modPln f).rclkOn = s.rclkOn := rfl
@[simp] theorem State.modPln_rphase (s : State) (f : Planner → Planner) : (s.modPln f).rphase = s.rphase := rfl
@[simp] theorem State.modPln_rclk (s : State) (f : Planner → Planner) : (s.modPln f).rclk = s.rclk := rfl
@[simp] theorem State.modPln_regs (s : State) (f : Planner → Planner) : (s.modPln f).regs = s.regs := rfl
@[simp] theorem State.modPln_logs (s : State) (f : Planner → Planner) : (s.modPln f).logs = s.logs := rfl
@[simp] theorem State.modPln_mem (s : State) (f : Planner → Planner) : (s.modPln f).mem = s.mem := rfl
@[simp] theorem State.modPln_poison (s : State) (f : Planner → Planner) : (s.modPln f).poison = s.poison := rfl
@[simp] theorem State.modPln_upset (s : State) (f : Planner → Planner) : (s.modPln f).upset = s.upset := rfl
@[simp] theorem State.modPln_cells (s : State) (f : Planner → Planner) : (s.modPln f).cells = s.cells := rfl
@[simp] theorem State.modPln_tb (s : State) (f : Planner → Planner) : (s.modPln f).tb = s.tb := rfl
@[simp] theorem State.modPln_evr (s : State) (f : Planner → Planner) : (s.modPln f).evr = s.evr := rfl
@[simp] theorem State.modPln_line (s : State) (f : Planner → Planner) : (s.modPln f).line = s.line := rfl
@[simp] theorem State.modPln_auth (s : State) (f : Planner → Planner) : (s.modPln f).auth = s.auth := rfl
@[simp] theorem State.modPln_safe (s : State) (f : Planner → Planner) : (s.modPln f).safe = s.safe := rfl
@[simp] theorem State.modPln_hostEvent (s : State) (f : Planner → Planner) : (s.modPln f).hostEvent = s.hostEvent := rfl
@[simp] theorem State.modPln_frt (s : State) (f : Planner → Planner) : (s.modPln f).frt = s.frt := rfl
@[simp] theorem State.modPln_vats (s : State) (f : Planner → Planner) : (s.modPln f).vats = s.vats := rfl
@[simp] theorem State.modPln_mig (s : State) (f : Planner → Planner) : (s.modPln f).mig = s.mig := rfl
@[simp] theorem State.modPln_harp (s : State) (f : Planner → Planner) : (s.modPln f).harp = s.harp := rfl
@[simp] theorem State.modPln_harpShare (s : State) (f : Planner → Planner) : (s.modPln f).harpShare = s.harpShare := rfl
@[simp] theorem State.modPln_walkers (s : State) (f : Planner → Planner) : (s.modPln f).walkers = s.walkers := rfl
@[simp] theorem State.modPln_swaps (s : State) (f : Planner → Planner) : (s.modPln f).swaps = s.swaps := rfl
@[simp] theorem State.modPln_ing (s : State) (f : Planner → Planner) : (s.modPln f).ing = s.ing := rfl
@[simp] theorem State.modPln_fus (s : State) (f : Planner → Planner) : (s.modPln f).fus = s.fus := rfl
@[simp] theorem State.modPln_slv (s : State) (f : Planner → Planner) : (s.modPln f).slv = s.slv := rfl
@[simp] theorem State.modPln_pln (s : State) (f : Planner → Planner) : (s.modPln f).pln = f s.pln := rfl
@[simp] theorem State.modPln_lp (s : State) (f : Planner → Planner) : (s.modPln f).lp = s.lp := rfl
@[simp] theorem State.modPln_tsn (s : State) (f : Planner → Planner) : (s.modPln f).tsn = s.tsn := rfl
@[simp] theorem State.modPln_xsl (s : State) (f : Planner → Planner) : (s.modPln f).xsl = s.xsl := rfl
@[simp] theorem State.modPln_fbx (s : State) (f : Planner → Planner) : (s.modPln f).fbx = s.fbx := rfl
@[simp] theorem State.modPln_wd (s : State) (f : Planner → Planner) : (s.modPln f).wd = s.wd := rfl
@[simp] theorem State.modPln_diag (s : State) (f : Planner → Planner) : (s.modPln f).diag = s.diag := rfl
@[simp] theorem State.modPln_pwr (s : State) (f : Planner → Planner) : (s.modPln f).pwr = s.pwr := rfl
@[simp] theorem State.modPln_trace (s : State) (f : Planner → Planner) : (s.modPln f).trace = s.trace := rfl
@[simp] theorem State.modPln_traceDrop (s : State) (f : Planner → Planner) : (s.modPln f).traceDrop = s.traceDrop := rfl
@[simp] theorem State.modPln_msix (s : State) (f : Planner → Planner) : (s.modPln f).msix = s.msix := rfl
@[simp] theorem State.modPln_cg (s : State) (f : Planner → Planner) : (s.modPln f).cg = s.cg := rfl
@[simp] theorem State.modPln_firm (s : State) (f : Planner → Planner) : (s.modPln f).firm = s.firm := rfl
@[simp] theorem State.modPln_keep (s : State) (f : Planner → Planner) : (s.modPln f).keep = s.keep := rfl
@[simp] theorem State.modPln_start (s : State) (f : Planner → Planner) : (s.modPln f).start = s.start := rfl
@[simp] theorem State.modPln_snapCmp (s : State) (f : Planner → Planner) : (s.modPln f).snapCmp = s.snapCmp := rfl
@[simp] theorem State.modPln_obs (s : State) (f : Planner → Planner) : (s.modPln f).obs = s.obs := rfl
@[simp] theorem State.modPln_now (s : State) (f : Planner → Planner) : (s.modPln f).now = s.now := rfl
@[simp] theorem State.modPln_reg (s : State) (f : Planner → Planner) (j : Nat) : (s.modPln f).reg j = s.reg j := rfl

@[simp] theorem State.modPwr_pending (s : State) (f : Power → Power) : (s.modPwr f).pending = s.pending := rfl
@[simp] theorem State.modPwr_tick (s : State) (f : Power → Power) : (s.modPwr f).tick = s.tick := rfl
@[simp] theorem State.modPwr_free (s : State) (f : Power → Power) : (s.modPwr f).free = s.free := rfl
@[simp] theorem State.modPwr_rdata (s : State) (f : Power → Power) : (s.modPwr f).rdata = s.rdata := rfl
@[simp] theorem State.modPwr_mainClk (s : State) (f : Power → Power) : (s.modPwr f).mainClk = s.mainClk := rfl
@[simp] theorem State.modPwr_rclkOn (s : State) (f : Power → Power) : (s.modPwr f).rclkOn = s.rclkOn := rfl
@[simp] theorem State.modPwr_rphase (s : State) (f : Power → Power) : (s.modPwr f).rphase = s.rphase := rfl
@[simp] theorem State.modPwr_rclk (s : State) (f : Power → Power) : (s.modPwr f).rclk = s.rclk := rfl
@[simp] theorem State.modPwr_regs (s : State) (f : Power → Power) : (s.modPwr f).regs = s.regs := rfl
@[simp] theorem State.modPwr_logs (s : State) (f : Power → Power) : (s.modPwr f).logs = s.logs := rfl
@[simp] theorem State.modPwr_mem (s : State) (f : Power → Power) : (s.modPwr f).mem = s.mem := rfl
@[simp] theorem State.modPwr_poison (s : State) (f : Power → Power) : (s.modPwr f).poison = s.poison := rfl
@[simp] theorem State.modPwr_upset (s : State) (f : Power → Power) : (s.modPwr f).upset = s.upset := rfl
@[simp] theorem State.modPwr_cells (s : State) (f : Power → Power) : (s.modPwr f).cells = s.cells := rfl
@[simp] theorem State.modPwr_tb (s : State) (f : Power → Power) : (s.modPwr f).tb = s.tb := rfl
@[simp] theorem State.modPwr_evr (s : State) (f : Power → Power) : (s.modPwr f).evr = s.evr := rfl
@[simp] theorem State.modPwr_line (s : State) (f : Power → Power) : (s.modPwr f).line = s.line := rfl
@[simp] theorem State.modPwr_auth (s : State) (f : Power → Power) : (s.modPwr f).auth = s.auth := rfl
@[simp] theorem State.modPwr_safe (s : State) (f : Power → Power) : (s.modPwr f).safe = s.safe := rfl
@[simp] theorem State.modPwr_hostEvent (s : State) (f : Power → Power) : (s.modPwr f).hostEvent = s.hostEvent := rfl
@[simp] theorem State.modPwr_frt (s : State) (f : Power → Power) : (s.modPwr f).frt = s.frt := rfl
@[simp] theorem State.modPwr_vats (s : State) (f : Power → Power) : (s.modPwr f).vats = s.vats := rfl
@[simp] theorem State.modPwr_mig (s : State) (f : Power → Power) : (s.modPwr f).mig = s.mig := rfl
@[simp] theorem State.modPwr_harp (s : State) (f : Power → Power) : (s.modPwr f).harp = s.harp := rfl
@[simp] theorem State.modPwr_harpShare (s : State) (f : Power → Power) : (s.modPwr f).harpShare = s.harpShare := rfl
@[simp] theorem State.modPwr_walkers (s : State) (f : Power → Power) : (s.modPwr f).walkers = s.walkers := rfl
@[simp] theorem State.modPwr_swaps (s : State) (f : Power → Power) : (s.modPwr f).swaps = s.swaps := rfl
@[simp] theorem State.modPwr_ing (s : State) (f : Power → Power) : (s.modPwr f).ing = s.ing := rfl
@[simp] theorem State.modPwr_fus (s : State) (f : Power → Power) : (s.modPwr f).fus = s.fus := rfl
@[simp] theorem State.modPwr_slv (s : State) (f : Power → Power) : (s.modPwr f).slv = s.slv := rfl
@[simp] theorem State.modPwr_pln (s : State) (f : Power → Power) : (s.modPwr f).pln = s.pln := rfl
@[simp] theorem State.modPwr_lp (s : State) (f : Power → Power) : (s.modPwr f).lp = s.lp := rfl
@[simp] theorem State.modPwr_tsn (s : State) (f : Power → Power) : (s.modPwr f).tsn = s.tsn := rfl
@[simp] theorem State.modPwr_xsl (s : State) (f : Power → Power) : (s.modPwr f).xsl = s.xsl := rfl
@[simp] theorem State.modPwr_fbx (s : State) (f : Power → Power) : (s.modPwr f).fbx = s.fbx := rfl
@[simp] theorem State.modPwr_wd (s : State) (f : Power → Power) : (s.modPwr f).wd = s.wd := rfl
@[simp] theorem State.modPwr_diag (s : State) (f : Power → Power) : (s.modPwr f).diag = s.diag := rfl
@[simp] theorem State.modPwr_pwr (s : State) (f : Power → Power) : (s.modPwr f).pwr = f s.pwr := rfl
@[simp] theorem State.modPwr_trace (s : State) (f : Power → Power) : (s.modPwr f).trace = s.trace := rfl
@[simp] theorem State.modPwr_traceDrop (s : State) (f : Power → Power) : (s.modPwr f).traceDrop = s.traceDrop := rfl
@[simp] theorem State.modPwr_msix (s : State) (f : Power → Power) : (s.modPwr f).msix = s.msix := rfl
@[simp] theorem State.modPwr_cg (s : State) (f : Power → Power) : (s.modPwr f).cg = s.cg := rfl
@[simp] theorem State.modPwr_firm (s : State) (f : Power → Power) : (s.modPwr f).firm = s.firm := rfl
@[simp] theorem State.modPwr_keep (s : State) (f : Power → Power) : (s.modPwr f).keep = s.keep := rfl
@[simp] theorem State.modPwr_start (s : State) (f : Power → Power) : (s.modPwr f).start = s.start := rfl
@[simp] theorem State.modPwr_snapCmp (s : State) (f : Power → Power) : (s.modPwr f).snapCmp = s.snapCmp := rfl
@[simp] theorem State.modPwr_obs (s : State) (f : Power → Power) : (s.modPwr f).obs = s.obs := rfl
@[simp] theorem State.modPwr_now (s : State) (f : Power → Power) : (s.modPwr f).now = s.now := rfl
@[simp] theorem State.modPwr_reg (s : State) (f : Power → Power) (j : Nat) : (s.modPwr f).reg j = s.reg j := rfl

@[simp] theorem State.modEvr_pending (s : State) (f : Recorder → Recorder) : (s.modEvr f).pending = s.pending := rfl
@[simp] theorem State.modEvr_tick (s : State) (f : Recorder → Recorder) : (s.modEvr f).tick = s.tick := rfl
@[simp] theorem State.modEvr_free (s : State) (f : Recorder → Recorder) : (s.modEvr f).free = s.free := rfl
@[simp] theorem State.modEvr_rdata (s : State) (f : Recorder → Recorder) : (s.modEvr f).rdata = s.rdata := rfl
@[simp] theorem State.modEvr_mainClk (s : State) (f : Recorder → Recorder) : (s.modEvr f).mainClk = s.mainClk := rfl
@[simp] theorem State.modEvr_rclkOn (s : State) (f : Recorder → Recorder) : (s.modEvr f).rclkOn = s.rclkOn := rfl
@[simp] theorem State.modEvr_rphase (s : State) (f : Recorder → Recorder) : (s.modEvr f).rphase = s.rphase := rfl
@[simp] theorem State.modEvr_rclk (s : State) (f : Recorder → Recorder) : (s.modEvr f).rclk = s.rclk := rfl
@[simp] theorem State.modEvr_regs (s : State) (f : Recorder → Recorder) : (s.modEvr f).regs = s.regs := rfl
@[simp] theorem State.modEvr_logs (s : State) (f : Recorder → Recorder) : (s.modEvr f).logs = s.logs := rfl
@[simp] theorem State.modEvr_mem (s : State) (f : Recorder → Recorder) : (s.modEvr f).mem = s.mem := rfl
@[simp] theorem State.modEvr_poison (s : State) (f : Recorder → Recorder) : (s.modEvr f).poison = s.poison := rfl
@[simp] theorem State.modEvr_upset (s : State) (f : Recorder → Recorder) : (s.modEvr f).upset = s.upset := rfl
@[simp] theorem State.modEvr_cells (s : State) (f : Recorder → Recorder) : (s.modEvr f).cells = s.cells := rfl
@[simp] theorem State.modEvr_tb (s : State) (f : Recorder → Recorder) : (s.modEvr f).tb = s.tb := rfl
@[simp] theorem State.modEvr_evr (s : State) (f : Recorder → Recorder) : (s.modEvr f).evr = f s.evr := rfl
@[simp] theorem State.modEvr_line (s : State) (f : Recorder → Recorder) : (s.modEvr f).line = s.line := rfl
@[simp] theorem State.modEvr_auth (s : State) (f : Recorder → Recorder) : (s.modEvr f).auth = s.auth := rfl
@[simp] theorem State.modEvr_safe (s : State) (f : Recorder → Recorder) : (s.modEvr f).safe = s.safe := rfl
@[simp] theorem State.modEvr_hostEvent (s : State) (f : Recorder → Recorder) : (s.modEvr f).hostEvent = s.hostEvent := rfl
@[simp] theorem State.modEvr_frt (s : State) (f : Recorder → Recorder) : (s.modEvr f).frt = s.frt := rfl
@[simp] theorem State.modEvr_vats (s : State) (f : Recorder → Recorder) : (s.modEvr f).vats = s.vats := rfl
@[simp] theorem State.modEvr_mig (s : State) (f : Recorder → Recorder) : (s.modEvr f).mig = s.mig := rfl
@[simp] theorem State.modEvr_harp (s : State) (f : Recorder → Recorder) : (s.modEvr f).harp = s.harp := rfl
@[simp] theorem State.modEvr_harpShare (s : State) (f : Recorder → Recorder) : (s.modEvr f).harpShare = s.harpShare := rfl
@[simp] theorem State.modEvr_walkers (s : State) (f : Recorder → Recorder) : (s.modEvr f).walkers = s.walkers := rfl
@[simp] theorem State.modEvr_swaps (s : State) (f : Recorder → Recorder) : (s.modEvr f).swaps = s.swaps := rfl
@[simp] theorem State.modEvr_ing (s : State) (f : Recorder → Recorder) : (s.modEvr f).ing = s.ing := rfl
@[simp] theorem State.modEvr_fus (s : State) (f : Recorder → Recorder) : (s.modEvr f).fus = s.fus := rfl
@[simp] theorem State.modEvr_slv (s : State) (f : Recorder → Recorder) : (s.modEvr f).slv = s.slv := rfl
@[simp] theorem State.modEvr_pln (s : State) (f : Recorder → Recorder) : (s.modEvr f).pln = s.pln := rfl
@[simp] theorem State.modEvr_lp (s : State) (f : Recorder → Recorder) : (s.modEvr f).lp = s.lp := rfl
@[simp] theorem State.modEvr_tsn (s : State) (f : Recorder → Recorder) : (s.modEvr f).tsn = s.tsn := rfl
@[simp] theorem State.modEvr_xsl (s : State) (f : Recorder → Recorder) : (s.modEvr f).xsl = s.xsl := rfl
@[simp] theorem State.modEvr_fbx (s : State) (f : Recorder → Recorder) : (s.modEvr f).fbx = s.fbx := rfl
@[simp] theorem State.modEvr_wd (s : State) (f : Recorder → Recorder) : (s.modEvr f).wd = s.wd := rfl
@[simp] theorem State.modEvr_diag (s : State) (f : Recorder → Recorder) : (s.modEvr f).diag = s.diag := rfl
@[simp] theorem State.modEvr_pwr (s : State) (f : Recorder → Recorder) : (s.modEvr f).pwr = s.pwr := rfl
@[simp] theorem State.modEvr_trace (s : State) (f : Recorder → Recorder) : (s.modEvr f).trace = s.trace := rfl
@[simp] theorem State.modEvr_traceDrop (s : State) (f : Recorder → Recorder) : (s.modEvr f).traceDrop = s.traceDrop := rfl
@[simp] theorem State.modEvr_msix (s : State) (f : Recorder → Recorder) : (s.modEvr f).msix = s.msix := rfl
@[simp] theorem State.modEvr_cg (s : State) (f : Recorder → Recorder) : (s.modEvr f).cg = s.cg := rfl
@[simp] theorem State.modEvr_firm (s : State) (f : Recorder → Recorder) : (s.modEvr f).firm = s.firm := rfl
@[simp] theorem State.modEvr_keep (s : State) (f : Recorder → Recorder) : (s.modEvr f).keep = s.keep := rfl
@[simp] theorem State.modEvr_start (s : State) (f : Recorder → Recorder) : (s.modEvr f).start = s.start := rfl
@[simp] theorem State.modEvr_snapCmp (s : State) (f : Recorder → Recorder) : (s.modEvr f).snapCmp = s.snapCmp := rfl
@[simp] theorem State.modEvr_obs (s : State) (f : Recorder → Recorder) : (s.modEvr f).obs = s.obs := rfl
@[simp] theorem State.modEvr_now (s : State) (f : Recorder → Recorder) : (s.modEvr f).now = s.now := rfl
@[simp] theorem State.modEvr_reg (s : State) (f : Recorder → Recorder) (j : Nat) : (s.modEvr f).reg j = s.reg j := rfl

@[simp] theorem State.modLine_pending (s : State) (f : DoubtLine → DoubtLine) : (s.modLine f).pending = s.pending := rfl
@[simp] theorem State.modLine_tick (s : State) (f : DoubtLine → DoubtLine) : (s.modLine f).tick = s.tick := rfl
@[simp] theorem State.modLine_free (s : State) (f : DoubtLine → DoubtLine) : (s.modLine f).free = s.free := rfl
@[simp] theorem State.modLine_rdata (s : State) (f : DoubtLine → DoubtLine) : (s.modLine f).rdata = s.rdata := rfl
@[simp] theorem State.modLine_mainClk (s : State) (f : DoubtLine → DoubtLine) : (s.modLine f).mainClk = s.mainClk := rfl
@[simp] theorem State.modLine_rclkOn (s : State) (f : DoubtLine → DoubtLine) : (s.modLine f).rclkOn = s.rclkOn := rfl
@[simp] theorem State.modLine_rphase (s : State) (f : DoubtLine → DoubtLine) : (s.modLine f).rphase = s.rphase := rfl
@[simp] theorem State.modLine_rclk (s : State) (f : DoubtLine → DoubtLine) : (s.modLine f).rclk = s.rclk := rfl
@[simp] theorem State.modLine_regs (s : State) (f : DoubtLine → DoubtLine) : (s.modLine f).regs = s.regs := rfl
@[simp] theorem State.modLine_logs (s : State) (f : DoubtLine → DoubtLine) : (s.modLine f).logs = s.logs := rfl
@[simp] theorem State.modLine_mem (s : State) (f : DoubtLine → DoubtLine) : (s.modLine f).mem = s.mem := rfl
@[simp] theorem State.modLine_poison (s : State) (f : DoubtLine → DoubtLine) : (s.modLine f).poison = s.poison := rfl
@[simp] theorem State.modLine_upset (s : State) (f : DoubtLine → DoubtLine) : (s.modLine f).upset = s.upset := rfl
@[simp] theorem State.modLine_cells (s : State) (f : DoubtLine → DoubtLine) : (s.modLine f).cells = s.cells := rfl
@[simp] theorem State.modLine_tb (s : State) (f : DoubtLine → DoubtLine) : (s.modLine f).tb = s.tb := rfl
@[simp] theorem State.modLine_evr (s : State) (f : DoubtLine → DoubtLine) : (s.modLine f).evr = s.evr := rfl
@[simp] theorem State.modLine_line (s : State) (f : DoubtLine → DoubtLine) : (s.modLine f).line = f s.line := rfl
@[simp] theorem State.modLine_auth (s : State) (f : DoubtLine → DoubtLine) : (s.modLine f).auth = s.auth := rfl
@[simp] theorem State.modLine_safe (s : State) (f : DoubtLine → DoubtLine) : (s.modLine f).safe = s.safe := rfl
@[simp] theorem State.modLine_hostEvent (s : State) (f : DoubtLine → DoubtLine) : (s.modLine f).hostEvent = s.hostEvent := rfl
@[simp] theorem State.modLine_frt (s : State) (f : DoubtLine → DoubtLine) : (s.modLine f).frt = s.frt := rfl
@[simp] theorem State.modLine_vats (s : State) (f : DoubtLine → DoubtLine) : (s.modLine f).vats = s.vats := rfl
@[simp] theorem State.modLine_mig (s : State) (f : DoubtLine → DoubtLine) : (s.modLine f).mig = s.mig := rfl
@[simp] theorem State.modLine_harp (s : State) (f : DoubtLine → DoubtLine) : (s.modLine f).harp = s.harp := rfl
@[simp] theorem State.modLine_harpShare (s : State) (f : DoubtLine → DoubtLine) : (s.modLine f).harpShare = s.harpShare := rfl
@[simp] theorem State.modLine_walkers (s : State) (f : DoubtLine → DoubtLine) : (s.modLine f).walkers = s.walkers := rfl
@[simp] theorem State.modLine_swaps (s : State) (f : DoubtLine → DoubtLine) : (s.modLine f).swaps = s.swaps := rfl
@[simp] theorem State.modLine_ing (s : State) (f : DoubtLine → DoubtLine) : (s.modLine f).ing = s.ing := rfl
@[simp] theorem State.modLine_fus (s : State) (f : DoubtLine → DoubtLine) : (s.modLine f).fus = s.fus := rfl
@[simp] theorem State.modLine_slv (s : State) (f : DoubtLine → DoubtLine) : (s.modLine f).slv = s.slv := rfl
@[simp] theorem State.modLine_pln (s : State) (f : DoubtLine → DoubtLine) : (s.modLine f).pln = s.pln := rfl
@[simp] theorem State.modLine_lp (s : State) (f : DoubtLine → DoubtLine) : (s.modLine f).lp = s.lp := rfl
@[simp] theorem State.modLine_tsn (s : State) (f : DoubtLine → DoubtLine) : (s.modLine f).tsn = s.tsn := rfl
@[simp] theorem State.modLine_xsl (s : State) (f : DoubtLine → DoubtLine) : (s.modLine f).xsl = s.xsl := rfl
@[simp] theorem State.modLine_fbx (s : State) (f : DoubtLine → DoubtLine) : (s.modLine f).fbx = s.fbx := rfl
@[simp] theorem State.modLine_wd (s : State) (f : DoubtLine → DoubtLine) : (s.modLine f).wd = s.wd := rfl
@[simp] theorem State.modLine_diag (s : State) (f : DoubtLine → DoubtLine) : (s.modLine f).diag = s.diag := rfl
@[simp] theorem State.modLine_pwr (s : State) (f : DoubtLine → DoubtLine) : (s.modLine f).pwr = s.pwr := rfl
@[simp] theorem State.modLine_trace (s : State) (f : DoubtLine → DoubtLine) : (s.modLine f).trace = s.trace := rfl
@[simp] theorem State.modLine_traceDrop (s : State) (f : DoubtLine → DoubtLine) : (s.modLine f).traceDrop = s.traceDrop := rfl
@[simp] theorem State.modLine_msix (s : State) (f : DoubtLine → DoubtLine) : (s.modLine f).msix = s.msix := rfl
@[simp] theorem State.modLine_cg (s : State) (f : DoubtLine → DoubtLine) : (s.modLine f).cg = s.cg := rfl
@[simp] theorem State.modLine_firm (s : State) (f : DoubtLine → DoubtLine) : (s.modLine f).firm = s.firm := rfl
@[simp] theorem State.modLine_keep (s : State) (f : DoubtLine → DoubtLine) : (s.modLine f).keep = s.keep := rfl
@[simp] theorem State.modLine_start (s : State) (f : DoubtLine → DoubtLine) : (s.modLine f).start = s.start := rfl
@[simp] theorem State.modLine_snapCmp (s : State) (f : DoubtLine → DoubtLine) : (s.modLine f).snapCmp = s.snapCmp := rfl
@[simp] theorem State.modLine_obs (s : State) (f : DoubtLine → DoubtLine) : (s.modLine f).obs = s.obs := rfl
@[simp] theorem State.modLine_now (s : State) (f : DoubtLine → DoubtLine) : (s.modLine f).now = s.now := rfl
@[simp] theorem State.modLine_reg (s : State) (f : DoubtLine → DoubtLine) (j : Nat) : (s.modLine f).reg j = s.reg j := rfl

@[simp] theorem State.modFbx_pending (s : State) (f : Fbx → Fbx) : (s.modFbx f).pending = s.pending := rfl
@[simp] theorem State.modFbx_tick (s : State) (f : Fbx → Fbx) : (s.modFbx f).tick = s.tick := rfl
@[simp] theorem State.modFbx_free (s : State) (f : Fbx → Fbx) : (s.modFbx f).free = s.free := rfl
@[simp] theorem State.modFbx_rdata (s : State) (f : Fbx → Fbx) : (s.modFbx f).rdata = s.rdata := rfl
@[simp] theorem State.modFbx_mainClk (s : State) (f : Fbx → Fbx) : (s.modFbx f).mainClk = s.mainClk := rfl
@[simp] theorem State.modFbx_rclkOn (s : State) (f : Fbx → Fbx) : (s.modFbx f).rclkOn = s.rclkOn := rfl
@[simp] theorem State.modFbx_rphase (s : State) (f : Fbx → Fbx) : (s.modFbx f).rphase = s.rphase := rfl
@[simp] theorem State.modFbx_rclk (s : State) (f : Fbx → Fbx) : (s.modFbx f).rclk = s.rclk := rfl
@[simp] theorem State.modFbx_regs (s : State) (f : Fbx → Fbx) : (s.modFbx f).regs = s.regs := rfl
@[simp] theorem State.modFbx_logs (s : State) (f : Fbx → Fbx) : (s.modFbx f).logs = s.logs := rfl
@[simp] theorem State.modFbx_mem (s : State) (f : Fbx → Fbx) : (s.modFbx f).mem = s.mem := rfl
@[simp] theorem State.modFbx_poison (s : State) (f : Fbx → Fbx) : (s.modFbx f).poison = s.poison := rfl
@[simp] theorem State.modFbx_upset (s : State) (f : Fbx → Fbx) : (s.modFbx f).upset = s.upset := rfl
@[simp] theorem State.modFbx_cells (s : State) (f : Fbx → Fbx) : (s.modFbx f).cells = s.cells := rfl
@[simp] theorem State.modFbx_tb (s : State) (f : Fbx → Fbx) : (s.modFbx f).tb = s.tb := rfl
@[simp] theorem State.modFbx_evr (s : State) (f : Fbx → Fbx) : (s.modFbx f).evr = s.evr := rfl
@[simp] theorem State.modFbx_line (s : State) (f : Fbx → Fbx) : (s.modFbx f).line = s.line := rfl
@[simp] theorem State.modFbx_auth (s : State) (f : Fbx → Fbx) : (s.modFbx f).auth = s.auth := rfl
@[simp] theorem State.modFbx_safe (s : State) (f : Fbx → Fbx) : (s.modFbx f).safe = s.safe := rfl
@[simp] theorem State.modFbx_hostEvent (s : State) (f : Fbx → Fbx) : (s.modFbx f).hostEvent = s.hostEvent := rfl
@[simp] theorem State.modFbx_frt (s : State) (f : Fbx → Fbx) : (s.modFbx f).frt = s.frt := rfl
@[simp] theorem State.modFbx_vats (s : State) (f : Fbx → Fbx) : (s.modFbx f).vats = s.vats := rfl
@[simp] theorem State.modFbx_mig (s : State) (f : Fbx → Fbx) : (s.modFbx f).mig = s.mig := rfl
@[simp] theorem State.modFbx_harp (s : State) (f : Fbx → Fbx) : (s.modFbx f).harp = s.harp := rfl
@[simp] theorem State.modFbx_harpShare (s : State) (f : Fbx → Fbx) : (s.modFbx f).harpShare = s.harpShare := rfl
@[simp] theorem State.modFbx_walkers (s : State) (f : Fbx → Fbx) : (s.modFbx f).walkers = s.walkers := rfl
@[simp] theorem State.modFbx_swaps (s : State) (f : Fbx → Fbx) : (s.modFbx f).swaps = s.swaps := rfl
@[simp] theorem State.modFbx_ing (s : State) (f : Fbx → Fbx) : (s.modFbx f).ing = s.ing := rfl
@[simp] theorem State.modFbx_fus (s : State) (f : Fbx → Fbx) : (s.modFbx f).fus = s.fus := rfl
@[simp] theorem State.modFbx_slv (s : State) (f : Fbx → Fbx) : (s.modFbx f).slv = s.slv := rfl
@[simp] theorem State.modFbx_pln (s : State) (f : Fbx → Fbx) : (s.modFbx f).pln = s.pln := rfl
@[simp] theorem State.modFbx_lp (s : State) (f : Fbx → Fbx) : (s.modFbx f).lp = s.lp := rfl
@[simp] theorem State.modFbx_tsn (s : State) (f : Fbx → Fbx) : (s.modFbx f).tsn = s.tsn := rfl
@[simp] theorem State.modFbx_xsl (s : State) (f : Fbx → Fbx) : (s.modFbx f).xsl = s.xsl := rfl
@[simp] theorem State.modFbx_fbx (s : State) (f : Fbx → Fbx) : (s.modFbx f).fbx = f s.fbx := rfl
@[simp] theorem State.modFbx_wd (s : State) (f : Fbx → Fbx) : (s.modFbx f).wd = s.wd := rfl
@[simp] theorem State.modFbx_diag (s : State) (f : Fbx → Fbx) : (s.modFbx f).diag = s.diag := rfl
@[simp] theorem State.modFbx_pwr (s : State) (f : Fbx → Fbx) : (s.modFbx f).pwr = s.pwr := rfl
@[simp] theorem State.modFbx_trace (s : State) (f : Fbx → Fbx) : (s.modFbx f).trace = s.trace := rfl
@[simp] theorem State.modFbx_traceDrop (s : State) (f : Fbx → Fbx) : (s.modFbx f).traceDrop = s.traceDrop := rfl
@[simp] theorem State.modFbx_msix (s : State) (f : Fbx → Fbx) : (s.modFbx f).msix = s.msix := rfl
@[simp] theorem State.modFbx_cg (s : State) (f : Fbx → Fbx) : (s.modFbx f).cg = s.cg := rfl
@[simp] theorem State.modFbx_firm (s : State) (f : Fbx → Fbx) : (s.modFbx f).firm = s.firm := rfl
@[simp] theorem State.modFbx_keep (s : State) (f : Fbx → Fbx) : (s.modFbx f).keep = s.keep := rfl
@[simp] theorem State.modFbx_start (s : State) (f : Fbx → Fbx) : (s.modFbx f).start = s.start := rfl
@[simp] theorem State.modFbx_snapCmp (s : State) (f : Fbx → Fbx) : (s.modFbx f).snapCmp = s.snapCmp := rfl
@[simp] theorem State.modFbx_obs (s : State) (f : Fbx → Fbx) : (s.modFbx f).obs = s.obs := rfl
@[simp] theorem State.modFbx_now (s : State) (f : Fbx → Fbx) : (s.modFbx f).now = s.now := rfl
@[simp] theorem State.modFbx_reg (s : State) (f : Fbx → Fbx) (j : Nat) : (s.modFbx f).reg j = s.reg j := rfl

@[simp] theorem State.modSlv_pending (s : State) (f : Solver → Solver) : (s.modSlv f).pending = s.pending := rfl
@[simp] theorem State.modSlv_tick (s : State) (f : Solver → Solver) : (s.modSlv f).tick = s.tick := rfl
@[simp] theorem State.modSlv_free (s : State) (f : Solver → Solver) : (s.modSlv f).free = s.free := rfl
@[simp] theorem State.modSlv_rdata (s : State) (f : Solver → Solver) : (s.modSlv f).rdata = s.rdata := rfl
@[simp] theorem State.modSlv_mainClk (s : State) (f : Solver → Solver) : (s.modSlv f).mainClk = s.mainClk := rfl
@[simp] theorem State.modSlv_rclkOn (s : State) (f : Solver → Solver) : (s.modSlv f).rclkOn = s.rclkOn := rfl
@[simp] theorem State.modSlv_rphase (s : State) (f : Solver → Solver) : (s.modSlv f).rphase = s.rphase := rfl
@[simp] theorem State.modSlv_rclk (s : State) (f : Solver → Solver) : (s.modSlv f).rclk = s.rclk := rfl
@[simp] theorem State.modSlv_regs (s : State) (f : Solver → Solver) : (s.modSlv f).regs = s.regs := rfl
@[simp] theorem State.modSlv_logs (s : State) (f : Solver → Solver) : (s.modSlv f).logs = s.logs := rfl
@[simp] theorem State.modSlv_mem (s : State) (f : Solver → Solver) : (s.modSlv f).mem = s.mem := rfl
@[simp] theorem State.modSlv_poison (s : State) (f : Solver → Solver) : (s.modSlv f).poison = s.poison := rfl
@[simp] theorem State.modSlv_upset (s : State) (f : Solver → Solver) : (s.modSlv f).upset = s.upset := rfl
@[simp] theorem State.modSlv_cells (s : State) (f : Solver → Solver) : (s.modSlv f).cells = s.cells := rfl
@[simp] theorem State.modSlv_tb (s : State) (f : Solver → Solver) : (s.modSlv f).tb = s.tb := rfl
@[simp] theorem State.modSlv_evr (s : State) (f : Solver → Solver) : (s.modSlv f).evr = s.evr := rfl
@[simp] theorem State.modSlv_line (s : State) (f : Solver → Solver) : (s.modSlv f).line = s.line := rfl
@[simp] theorem State.modSlv_auth (s : State) (f : Solver → Solver) : (s.modSlv f).auth = s.auth := rfl
@[simp] theorem State.modSlv_safe (s : State) (f : Solver → Solver) : (s.modSlv f).safe = s.safe := rfl
@[simp] theorem State.modSlv_hostEvent (s : State) (f : Solver → Solver) : (s.modSlv f).hostEvent = s.hostEvent := rfl
@[simp] theorem State.modSlv_frt (s : State) (f : Solver → Solver) : (s.modSlv f).frt = s.frt := rfl
@[simp] theorem State.modSlv_vats (s : State) (f : Solver → Solver) : (s.modSlv f).vats = s.vats := rfl
@[simp] theorem State.modSlv_mig (s : State) (f : Solver → Solver) : (s.modSlv f).mig = s.mig := rfl
@[simp] theorem State.modSlv_harp (s : State) (f : Solver → Solver) : (s.modSlv f).harp = s.harp := rfl
@[simp] theorem State.modSlv_harpShare (s : State) (f : Solver → Solver) : (s.modSlv f).harpShare = s.harpShare := rfl
@[simp] theorem State.modSlv_walkers (s : State) (f : Solver → Solver) : (s.modSlv f).walkers = s.walkers := rfl
@[simp] theorem State.modSlv_swaps (s : State) (f : Solver → Solver) : (s.modSlv f).swaps = s.swaps := rfl
@[simp] theorem State.modSlv_ing (s : State) (f : Solver → Solver) : (s.modSlv f).ing = s.ing := rfl
@[simp] theorem State.modSlv_fus (s : State) (f : Solver → Solver) : (s.modSlv f).fus = s.fus := rfl
@[simp] theorem State.modSlv_slv (s : State) (f : Solver → Solver) : (s.modSlv f).slv = f s.slv := rfl
@[simp] theorem State.modSlv_pln (s : State) (f : Solver → Solver) : (s.modSlv f).pln = s.pln := rfl
@[simp] theorem State.modSlv_lp (s : State) (f : Solver → Solver) : (s.modSlv f).lp = s.lp := rfl
@[simp] theorem State.modSlv_tsn (s : State) (f : Solver → Solver) : (s.modSlv f).tsn = s.tsn := rfl
@[simp] theorem State.modSlv_xsl (s : State) (f : Solver → Solver) : (s.modSlv f).xsl = s.xsl := rfl
@[simp] theorem State.modSlv_fbx (s : State) (f : Solver → Solver) : (s.modSlv f).fbx = s.fbx := rfl
@[simp] theorem State.modSlv_wd (s : State) (f : Solver → Solver) : (s.modSlv f).wd = s.wd := rfl
@[simp] theorem State.modSlv_diag (s : State) (f : Solver → Solver) : (s.modSlv f).diag = s.diag := rfl
@[simp] theorem State.modSlv_pwr (s : State) (f : Solver → Solver) : (s.modSlv f).pwr = s.pwr := rfl
@[simp] theorem State.modSlv_trace (s : State) (f : Solver → Solver) : (s.modSlv f).trace = s.trace := rfl
@[simp] theorem State.modSlv_traceDrop (s : State) (f : Solver → Solver) : (s.modSlv f).traceDrop = s.traceDrop := rfl
@[simp] theorem State.modSlv_msix (s : State) (f : Solver → Solver) : (s.modSlv f).msix = s.msix := rfl
@[simp] theorem State.modSlv_cg (s : State) (f : Solver → Solver) : (s.modSlv f).cg = s.cg := rfl
@[simp] theorem State.modSlv_firm (s : State) (f : Solver → Solver) : (s.modSlv f).firm = s.firm := rfl
@[simp] theorem State.modSlv_keep (s : State) (f : Solver → Solver) : (s.modSlv f).keep = s.keep := rfl
@[simp] theorem State.modSlv_start (s : State) (f : Solver → Solver) : (s.modSlv f).start = s.start := rfl
@[simp] theorem State.modSlv_snapCmp (s : State) (f : Solver → Solver) : (s.modSlv f).snapCmp = s.snapCmp := rfl
@[simp] theorem State.modSlv_obs (s : State) (f : Solver → Solver) : (s.modSlv f).obs = s.obs := rfl
@[simp] theorem State.modSlv_now (s : State) (f : Solver → Solver) : (s.modSlv f).now = s.now := rfl
@[simp] theorem State.modSlv_reg (s : State) (f : Solver → Solver) (j : Nat) : (s.modSlv f).reg j = s.reg j := rfl

@[simp] theorem State.modStart_pending (s : State) (f : Startup → Startup) : (s.modStart f).pending = s.pending := rfl
@[simp] theorem State.modStart_tick (s : State) (f : Startup → Startup) : (s.modStart f).tick = s.tick := rfl
@[simp] theorem State.modStart_free (s : State) (f : Startup → Startup) : (s.modStart f).free = s.free := rfl
@[simp] theorem State.modStart_rdata (s : State) (f : Startup → Startup) : (s.modStart f).rdata = s.rdata := rfl
@[simp] theorem State.modStart_mainClk (s : State) (f : Startup → Startup) : (s.modStart f).mainClk = s.mainClk := rfl
@[simp] theorem State.modStart_rclkOn (s : State) (f : Startup → Startup) : (s.modStart f).rclkOn = s.rclkOn := rfl
@[simp] theorem State.modStart_rphase (s : State) (f : Startup → Startup) : (s.modStart f).rphase = s.rphase := rfl
@[simp] theorem State.modStart_rclk (s : State) (f : Startup → Startup) : (s.modStart f).rclk = s.rclk := rfl
@[simp] theorem State.modStart_regs (s : State) (f : Startup → Startup) : (s.modStart f).regs = s.regs := rfl
@[simp] theorem State.modStart_logs (s : State) (f : Startup → Startup) : (s.modStart f).logs = s.logs := rfl
@[simp] theorem State.modStart_mem (s : State) (f : Startup → Startup) : (s.modStart f).mem = s.mem := rfl
@[simp] theorem State.modStart_poison (s : State) (f : Startup → Startup) : (s.modStart f).poison = s.poison := rfl
@[simp] theorem State.modStart_upset (s : State) (f : Startup → Startup) : (s.modStart f).upset = s.upset := rfl
@[simp] theorem State.modStart_cells (s : State) (f : Startup → Startup) : (s.modStart f).cells = s.cells := rfl
@[simp] theorem State.modStart_tb (s : State) (f : Startup → Startup) : (s.modStart f).tb = s.tb := rfl
@[simp] theorem State.modStart_evr (s : State) (f : Startup → Startup) : (s.modStart f).evr = s.evr := rfl
@[simp] theorem State.modStart_line (s : State) (f : Startup → Startup) : (s.modStart f).line = s.line := rfl
@[simp] theorem State.modStart_auth (s : State) (f : Startup → Startup) : (s.modStart f).auth = s.auth := rfl
@[simp] theorem State.modStart_safe (s : State) (f : Startup → Startup) : (s.modStart f).safe = s.safe := rfl
@[simp] theorem State.modStart_hostEvent (s : State) (f : Startup → Startup) : (s.modStart f).hostEvent = s.hostEvent := rfl
@[simp] theorem State.modStart_frt (s : State) (f : Startup → Startup) : (s.modStart f).frt = s.frt := rfl
@[simp] theorem State.modStart_vats (s : State) (f : Startup → Startup) : (s.modStart f).vats = s.vats := rfl
@[simp] theorem State.modStart_mig (s : State) (f : Startup → Startup) : (s.modStart f).mig = s.mig := rfl
@[simp] theorem State.modStart_harp (s : State) (f : Startup → Startup) : (s.modStart f).harp = s.harp := rfl
@[simp] theorem State.modStart_harpShare (s : State) (f : Startup → Startup) : (s.modStart f).harpShare = s.harpShare := rfl
@[simp] theorem State.modStart_walkers (s : State) (f : Startup → Startup) : (s.modStart f).walkers = s.walkers := rfl
@[simp] theorem State.modStart_swaps (s : State) (f : Startup → Startup) : (s.modStart f).swaps = s.swaps := rfl
@[simp] theorem State.modStart_ing (s : State) (f : Startup → Startup) : (s.modStart f).ing = s.ing := rfl
@[simp] theorem State.modStart_fus (s : State) (f : Startup → Startup) : (s.modStart f).fus = s.fus := rfl
@[simp] theorem State.modStart_slv (s : State) (f : Startup → Startup) : (s.modStart f).slv = s.slv := rfl
@[simp] theorem State.modStart_pln (s : State) (f : Startup → Startup) : (s.modStart f).pln = s.pln := rfl
@[simp] theorem State.modStart_lp (s : State) (f : Startup → Startup) : (s.modStart f).lp = s.lp := rfl
@[simp] theorem State.modStart_tsn (s : State) (f : Startup → Startup) : (s.modStart f).tsn = s.tsn := rfl
@[simp] theorem State.modStart_xsl (s : State) (f : Startup → Startup) : (s.modStart f).xsl = s.xsl := rfl
@[simp] theorem State.modStart_fbx (s : State) (f : Startup → Startup) : (s.modStart f).fbx = s.fbx := rfl
@[simp] theorem State.modStart_wd (s : State) (f : Startup → Startup) : (s.modStart f).wd = s.wd := rfl
@[simp] theorem State.modStart_diag (s : State) (f : Startup → Startup) : (s.modStart f).diag = s.diag := rfl
@[simp] theorem State.modStart_pwr (s : State) (f : Startup → Startup) : (s.modStart f).pwr = s.pwr := rfl
@[simp] theorem State.modStart_trace (s : State) (f : Startup → Startup) : (s.modStart f).trace = s.trace := rfl
@[simp] theorem State.modStart_traceDrop (s : State) (f : Startup → Startup) : (s.modStart f).traceDrop = s.traceDrop := rfl
@[simp] theorem State.modStart_msix (s : State) (f : Startup → Startup) : (s.modStart f).msix = s.msix := rfl
@[simp] theorem State.modStart_cg (s : State) (f : Startup → Startup) : (s.modStart f).cg = s.cg := rfl
@[simp] theorem State.modStart_firm (s : State) (f : Startup → Startup) : (s.modStart f).firm = s.firm := rfl
@[simp] theorem State.modStart_keep (s : State) (f : Startup → Startup) : (s.modStart f).keep = s.keep := rfl
@[simp] theorem State.modStart_start (s : State) (f : Startup → Startup) : (s.modStart f).start = f s.start := rfl
@[simp] theorem State.modStart_snapCmp (s : State) (f : Startup → Startup) : (s.modStart f).snapCmp = s.snapCmp := rfl
@[simp] theorem State.modStart_obs (s : State) (f : Startup → Startup) : (s.modStart f).obs = s.obs := rfl
@[simp] theorem State.modStart_now (s : State) (f : Startup → Startup) : (s.modStart f).now = s.now := rfl
@[simp] theorem State.modStart_reg (s : State) (f : Startup → Startup) (j : Nat) : (s.modStart f).reg j = s.reg j := rfl

@[simp] theorem State.modTb_pending (s : State) (f : Timebase → Timebase) : (s.modTb f).pending = s.pending := rfl
@[simp] theorem State.modTb_tick (s : State) (f : Timebase → Timebase) : (s.modTb f).tick = s.tick := rfl
@[simp] theorem State.modTb_free (s : State) (f : Timebase → Timebase) : (s.modTb f).free = s.free := rfl
@[simp] theorem State.modTb_rdata (s : State) (f : Timebase → Timebase) : (s.modTb f).rdata = s.rdata := rfl
@[simp] theorem State.modTb_mainClk (s : State) (f : Timebase → Timebase) : (s.modTb f).mainClk = s.mainClk := rfl
@[simp] theorem State.modTb_rclkOn (s : State) (f : Timebase → Timebase) : (s.modTb f).rclkOn = s.rclkOn := rfl
@[simp] theorem State.modTb_rphase (s : State) (f : Timebase → Timebase) : (s.modTb f).rphase = s.rphase := rfl
@[simp] theorem State.modTb_rclk (s : State) (f : Timebase → Timebase) : (s.modTb f).rclk = s.rclk := rfl
@[simp] theorem State.modTb_regs (s : State) (f : Timebase → Timebase) : (s.modTb f).regs = s.regs := rfl
@[simp] theorem State.modTb_logs (s : State) (f : Timebase → Timebase) : (s.modTb f).logs = s.logs := rfl
@[simp] theorem State.modTb_mem (s : State) (f : Timebase → Timebase) : (s.modTb f).mem = s.mem := rfl
@[simp] theorem State.modTb_poison (s : State) (f : Timebase → Timebase) : (s.modTb f).poison = s.poison := rfl
@[simp] theorem State.modTb_upset (s : State) (f : Timebase → Timebase) : (s.modTb f).upset = s.upset := rfl
@[simp] theorem State.modTb_cells (s : State) (f : Timebase → Timebase) : (s.modTb f).cells = s.cells := rfl
@[simp] theorem State.modTb_tb (s : State) (f : Timebase → Timebase) : (s.modTb f).tb = f s.tb := rfl
@[simp] theorem State.modTb_evr (s : State) (f : Timebase → Timebase) : (s.modTb f).evr = s.evr := rfl
@[simp] theorem State.modTb_line (s : State) (f : Timebase → Timebase) : (s.modTb f).line = s.line := rfl
@[simp] theorem State.modTb_auth (s : State) (f : Timebase → Timebase) : (s.modTb f).auth = s.auth := rfl
@[simp] theorem State.modTb_safe (s : State) (f : Timebase → Timebase) : (s.modTb f).safe = s.safe := rfl
@[simp] theorem State.modTb_hostEvent (s : State) (f : Timebase → Timebase) : (s.modTb f).hostEvent = s.hostEvent := rfl
@[simp] theorem State.modTb_frt (s : State) (f : Timebase → Timebase) : (s.modTb f).frt = s.frt := rfl
@[simp] theorem State.modTb_vats (s : State) (f : Timebase → Timebase) : (s.modTb f).vats = s.vats := rfl
@[simp] theorem State.modTb_mig (s : State) (f : Timebase → Timebase) : (s.modTb f).mig = s.mig := rfl
@[simp] theorem State.modTb_harp (s : State) (f : Timebase → Timebase) : (s.modTb f).harp = s.harp := rfl
@[simp] theorem State.modTb_harpShare (s : State) (f : Timebase → Timebase) : (s.modTb f).harpShare = s.harpShare := rfl
@[simp] theorem State.modTb_walkers (s : State) (f : Timebase → Timebase) : (s.modTb f).walkers = s.walkers := rfl
@[simp] theorem State.modTb_swaps (s : State) (f : Timebase → Timebase) : (s.modTb f).swaps = s.swaps := rfl
@[simp] theorem State.modTb_ing (s : State) (f : Timebase → Timebase) : (s.modTb f).ing = s.ing := rfl
@[simp] theorem State.modTb_fus (s : State) (f : Timebase → Timebase) : (s.modTb f).fus = s.fus := rfl
@[simp] theorem State.modTb_slv (s : State) (f : Timebase → Timebase) : (s.modTb f).slv = s.slv := rfl
@[simp] theorem State.modTb_pln (s : State) (f : Timebase → Timebase) : (s.modTb f).pln = s.pln := rfl
@[simp] theorem State.modTb_lp (s : State) (f : Timebase → Timebase) : (s.modTb f).lp = s.lp := rfl
@[simp] theorem State.modTb_tsn (s : State) (f : Timebase → Timebase) : (s.modTb f).tsn = s.tsn := rfl
@[simp] theorem State.modTb_xsl (s : State) (f : Timebase → Timebase) : (s.modTb f).xsl = s.xsl := rfl
@[simp] theorem State.modTb_fbx (s : State) (f : Timebase → Timebase) : (s.modTb f).fbx = s.fbx := rfl
@[simp] theorem State.modTb_wd (s : State) (f : Timebase → Timebase) : (s.modTb f).wd = s.wd := rfl
@[simp] theorem State.modTb_diag (s : State) (f : Timebase → Timebase) : (s.modTb f).diag = s.diag := rfl
@[simp] theorem State.modTb_pwr (s : State) (f : Timebase → Timebase) : (s.modTb f).pwr = s.pwr := rfl
@[simp] theorem State.modTb_trace (s : State) (f : Timebase → Timebase) : (s.modTb f).trace = s.trace := rfl
@[simp] theorem State.modTb_traceDrop (s : State) (f : Timebase → Timebase) : (s.modTb f).traceDrop = s.traceDrop := rfl
@[simp] theorem State.modTb_msix (s : State) (f : Timebase → Timebase) : (s.modTb f).msix = s.msix := rfl
@[simp] theorem State.modTb_cg (s : State) (f : Timebase → Timebase) : (s.modTb f).cg = s.cg := rfl
@[simp] theorem State.modTb_firm (s : State) (f : Timebase → Timebase) : (s.modTb f).firm = s.firm := rfl
@[simp] theorem State.modTb_keep (s : State) (f : Timebase → Timebase) : (s.modTb f).keep = s.keep := rfl
@[simp] theorem State.modTb_start (s : State) (f : Timebase → Timebase) : (s.modTb f).start = s.start := rfl
@[simp] theorem State.modTb_snapCmp (s : State) (f : Timebase → Timebase) : (s.modTb f).snapCmp = s.snapCmp := rfl
@[simp] theorem State.modTb_obs (s : State) (f : Timebase → Timebase) : (s.modTb f).obs = s.obs := rfl
@[simp] theorem State.modTb_now (s : State) (f : Timebase → Timebase) : (s.modTb f).now = s.now := rfl
@[simp] theorem State.modTb_reg (s : State) (f : Timebase → Timebase) (j : Nat) : (s.modTb f).reg j = s.reg j := rfl

@[simp] theorem State.modXsl_pending (s : State) (f : Xexisha → Xexisha) : (s.modXsl f).pending = s.pending := rfl
@[simp] theorem State.modXsl_tick (s : State) (f : Xexisha → Xexisha) : (s.modXsl f).tick = s.tick := rfl
@[simp] theorem State.modXsl_free (s : State) (f : Xexisha → Xexisha) : (s.modXsl f).free = s.free := rfl
@[simp] theorem State.modXsl_rdata (s : State) (f : Xexisha → Xexisha) : (s.modXsl f).rdata = s.rdata := rfl
@[simp] theorem State.modXsl_mainClk (s : State) (f : Xexisha → Xexisha) : (s.modXsl f).mainClk = s.mainClk := rfl
@[simp] theorem State.modXsl_rclkOn (s : State) (f : Xexisha → Xexisha) : (s.modXsl f).rclkOn = s.rclkOn := rfl
@[simp] theorem State.modXsl_rphase (s : State) (f : Xexisha → Xexisha) : (s.modXsl f).rphase = s.rphase := rfl
@[simp] theorem State.modXsl_rclk (s : State) (f : Xexisha → Xexisha) : (s.modXsl f).rclk = s.rclk := rfl
@[simp] theorem State.modXsl_regs (s : State) (f : Xexisha → Xexisha) : (s.modXsl f).regs = s.regs := rfl
@[simp] theorem State.modXsl_logs (s : State) (f : Xexisha → Xexisha) : (s.modXsl f).logs = s.logs := rfl
@[simp] theorem State.modXsl_mem (s : State) (f : Xexisha → Xexisha) : (s.modXsl f).mem = s.mem := rfl
@[simp] theorem State.modXsl_poison (s : State) (f : Xexisha → Xexisha) : (s.modXsl f).poison = s.poison := rfl
@[simp] theorem State.modXsl_upset (s : State) (f : Xexisha → Xexisha) : (s.modXsl f).upset = s.upset := rfl
@[simp] theorem State.modXsl_cells (s : State) (f : Xexisha → Xexisha) : (s.modXsl f).cells = s.cells := rfl
@[simp] theorem State.modXsl_tb (s : State) (f : Xexisha → Xexisha) : (s.modXsl f).tb = s.tb := rfl
@[simp] theorem State.modXsl_evr (s : State) (f : Xexisha → Xexisha) : (s.modXsl f).evr = s.evr := rfl
@[simp] theorem State.modXsl_line (s : State) (f : Xexisha → Xexisha) : (s.modXsl f).line = s.line := rfl
@[simp] theorem State.modXsl_auth (s : State) (f : Xexisha → Xexisha) : (s.modXsl f).auth = s.auth := rfl
@[simp] theorem State.modXsl_safe (s : State) (f : Xexisha → Xexisha) : (s.modXsl f).safe = s.safe := rfl
@[simp] theorem State.modXsl_hostEvent (s : State) (f : Xexisha → Xexisha) : (s.modXsl f).hostEvent = s.hostEvent := rfl
@[simp] theorem State.modXsl_frt (s : State) (f : Xexisha → Xexisha) : (s.modXsl f).frt = s.frt := rfl
@[simp] theorem State.modXsl_vats (s : State) (f : Xexisha → Xexisha) : (s.modXsl f).vats = s.vats := rfl
@[simp] theorem State.modXsl_mig (s : State) (f : Xexisha → Xexisha) : (s.modXsl f).mig = s.mig := rfl
@[simp] theorem State.modXsl_harp (s : State) (f : Xexisha → Xexisha) : (s.modXsl f).harp = s.harp := rfl
@[simp] theorem State.modXsl_harpShare (s : State) (f : Xexisha → Xexisha) : (s.modXsl f).harpShare = s.harpShare := rfl
@[simp] theorem State.modXsl_walkers (s : State) (f : Xexisha → Xexisha) : (s.modXsl f).walkers = s.walkers := rfl
@[simp] theorem State.modXsl_swaps (s : State) (f : Xexisha → Xexisha) : (s.modXsl f).swaps = s.swaps := rfl
@[simp] theorem State.modXsl_ing (s : State) (f : Xexisha → Xexisha) : (s.modXsl f).ing = s.ing := rfl
@[simp] theorem State.modXsl_fus (s : State) (f : Xexisha → Xexisha) : (s.modXsl f).fus = s.fus := rfl
@[simp] theorem State.modXsl_slv (s : State) (f : Xexisha → Xexisha) : (s.modXsl f).slv = s.slv := rfl
@[simp] theorem State.modXsl_pln (s : State) (f : Xexisha → Xexisha) : (s.modXsl f).pln = s.pln := rfl
@[simp] theorem State.modXsl_lp (s : State) (f : Xexisha → Xexisha) : (s.modXsl f).lp = s.lp := rfl
@[simp] theorem State.modXsl_tsn (s : State) (f : Xexisha → Xexisha) : (s.modXsl f).tsn = s.tsn := rfl
@[simp] theorem State.modXsl_xsl (s : State) (f : Xexisha → Xexisha) : (s.modXsl f).xsl = f s.xsl := rfl
@[simp] theorem State.modXsl_fbx (s : State) (f : Xexisha → Xexisha) : (s.modXsl f).fbx = s.fbx := rfl
@[simp] theorem State.modXsl_wd (s : State) (f : Xexisha → Xexisha) : (s.modXsl f).wd = s.wd := rfl
@[simp] theorem State.modXsl_diag (s : State) (f : Xexisha → Xexisha) : (s.modXsl f).diag = s.diag := rfl
@[simp] theorem State.modXsl_pwr (s : State) (f : Xexisha → Xexisha) : (s.modXsl f).pwr = s.pwr := rfl
@[simp] theorem State.modXsl_trace (s : State) (f : Xexisha → Xexisha) : (s.modXsl f).trace = s.trace := rfl
@[simp] theorem State.modXsl_traceDrop (s : State) (f : Xexisha → Xexisha) : (s.modXsl f).traceDrop = s.traceDrop := rfl
@[simp] theorem State.modXsl_msix (s : State) (f : Xexisha → Xexisha) : (s.modXsl f).msix = s.msix := rfl
@[simp] theorem State.modXsl_cg (s : State) (f : Xexisha → Xexisha) : (s.modXsl f).cg = s.cg := rfl
@[simp] theorem State.modXsl_firm (s : State) (f : Xexisha → Xexisha) : (s.modXsl f).firm = s.firm := rfl
@[simp] theorem State.modXsl_keep (s : State) (f : Xexisha → Xexisha) : (s.modXsl f).keep = s.keep := rfl
@[simp] theorem State.modXsl_start (s : State) (f : Xexisha → Xexisha) : (s.modXsl f).start = s.start := rfl
@[simp] theorem State.modXsl_snapCmp (s : State) (f : Xexisha → Xexisha) : (s.modXsl f).snapCmp = s.snapCmp := rfl
@[simp] theorem State.modXsl_obs (s : State) (f : Xexisha → Xexisha) : (s.modXsl f).obs = s.obs := rfl
@[simp] theorem State.modXsl_now (s : State) (f : Xexisha → Xexisha) : (s.modXsl f).now = s.now := rfl
@[simp] theorem State.modXsl_reg (s : State) (f : Xexisha → Xexisha) (j : Nat) : (s.modXsl f).reg j = s.reg j := rfl

@[simp] theorem State.modVat_pending (s : State) (n : Nat) (f : Vat → Vat) : (s.modVat n f).pending = s.pending := rfl
@[simp] theorem State.modVat_tick (s : State) (n : Nat) (f : Vat → Vat) : (s.modVat n f).tick = s.tick := rfl
@[simp] theorem State.modVat_free (s : State) (n : Nat) (f : Vat → Vat) : (s.modVat n f).free = s.free := rfl
@[simp] theorem State.modVat_rdata (s : State) (n : Nat) (f : Vat → Vat) : (s.modVat n f).rdata = s.rdata := rfl
@[simp] theorem State.modVat_mainClk (s : State) (n : Nat) (f : Vat → Vat) : (s.modVat n f).mainClk = s.mainClk := rfl
@[simp] theorem State.modVat_rclkOn (s : State) (n : Nat) (f : Vat → Vat) : (s.modVat n f).rclkOn = s.rclkOn := rfl
@[simp] theorem State.modVat_rphase (s : State) (n : Nat) (f : Vat → Vat) : (s.modVat n f).rphase = s.rphase := rfl
@[simp] theorem State.modVat_rclk (s : State) (n : Nat) (f : Vat → Vat) : (s.modVat n f).rclk = s.rclk := rfl
@[simp] theorem State.modVat_regs (s : State) (n : Nat) (f : Vat → Vat) : (s.modVat n f).regs = s.regs := rfl
@[simp] theorem State.modVat_logs (s : State) (n : Nat) (f : Vat → Vat) : (s.modVat n f).logs = s.logs := rfl
@[simp] theorem State.modVat_mem (s : State) (n : Nat) (f : Vat → Vat) : (s.modVat n f).mem = s.mem := rfl
@[simp] theorem State.modVat_poison (s : State) (n : Nat) (f : Vat → Vat) : (s.modVat n f).poison = s.poison := rfl
@[simp] theorem State.modVat_upset (s : State) (n : Nat) (f : Vat → Vat) : (s.modVat n f).upset = s.upset := rfl
@[simp] theorem State.modVat_cells (s : State) (n : Nat) (f : Vat → Vat) : (s.modVat n f).cells = s.cells := rfl
@[simp] theorem State.modVat_tb (s : State) (n : Nat) (f : Vat → Vat) : (s.modVat n f).tb = s.tb := rfl
@[simp] theorem State.modVat_evr (s : State) (n : Nat) (f : Vat → Vat) : (s.modVat n f).evr = s.evr := rfl
@[simp] theorem State.modVat_line (s : State) (n : Nat) (f : Vat → Vat) : (s.modVat n f).line = s.line := rfl
@[simp] theorem State.modVat_auth (s : State) (n : Nat) (f : Vat → Vat) : (s.modVat n f).auth = s.auth := rfl
@[simp] theorem State.modVat_safe (s : State) (n : Nat) (f : Vat → Vat) : (s.modVat n f).safe = s.safe := rfl
@[simp] theorem State.modVat_hostEvent (s : State) (n : Nat) (f : Vat → Vat) : (s.modVat n f).hostEvent = s.hostEvent := rfl
@[simp] theorem State.modVat_frt (s : State) (n : Nat) (f : Vat → Vat) : (s.modVat n f).frt = s.frt := rfl
@[simp] theorem State.modVat_vats (s : State) (n : Nat) (f : Vat → Vat) : (s.modVat n f).vats = listModify f s.vats n := rfl
@[simp] theorem State.modVat_mig (s : State) (n : Nat) (f : Vat → Vat) : (s.modVat n f).mig = s.mig := rfl
@[simp] theorem State.modVat_harp (s : State) (n : Nat) (f : Vat → Vat) : (s.modVat n f).harp = s.harp := rfl
@[simp] theorem State.modVat_harpShare (s : State) (n : Nat) (f : Vat → Vat) : (s.modVat n f).harpShare = s.harpShare := rfl
@[simp] theorem State.modVat_walkers (s : State) (n : Nat) (f : Vat → Vat) : (s.modVat n f).walkers = s.walkers := rfl
@[simp] theorem State.modVat_swaps (s : State) (n : Nat) (f : Vat → Vat) : (s.modVat n f).swaps = s.swaps := rfl
@[simp] theorem State.modVat_ing (s : State) (n : Nat) (f : Vat → Vat) : (s.modVat n f).ing = s.ing := rfl
@[simp] theorem State.modVat_fus (s : State) (n : Nat) (f : Vat → Vat) : (s.modVat n f).fus = s.fus := rfl
@[simp] theorem State.modVat_slv (s : State) (n : Nat) (f : Vat → Vat) : (s.modVat n f).slv = s.slv := rfl
@[simp] theorem State.modVat_pln (s : State) (n : Nat) (f : Vat → Vat) : (s.modVat n f).pln = s.pln := rfl
@[simp] theorem State.modVat_lp (s : State) (n : Nat) (f : Vat → Vat) : (s.modVat n f).lp = s.lp := rfl
@[simp] theorem State.modVat_tsn (s : State) (n : Nat) (f : Vat → Vat) : (s.modVat n f).tsn = s.tsn := rfl
@[simp] theorem State.modVat_xsl (s : State) (n : Nat) (f : Vat → Vat) : (s.modVat n f).xsl = s.xsl := rfl
@[simp] theorem State.modVat_fbx (s : State) (n : Nat) (f : Vat → Vat) : (s.modVat n f).fbx = s.fbx := rfl
@[simp] theorem State.modVat_wd (s : State) (n : Nat) (f : Vat → Vat) : (s.modVat n f).wd = s.wd := rfl
@[simp] theorem State.modVat_diag (s : State) (n : Nat) (f : Vat → Vat) : (s.modVat n f).diag = s.diag := rfl
@[simp] theorem State.modVat_pwr (s : State) (n : Nat) (f : Vat → Vat) : (s.modVat n f).pwr = s.pwr := rfl
@[simp] theorem State.modVat_trace (s : State) (n : Nat) (f : Vat → Vat) : (s.modVat n f).trace = s.trace := rfl
@[simp] theorem State.modVat_traceDrop (s : State) (n : Nat) (f : Vat → Vat) : (s.modVat n f).traceDrop = s.traceDrop := rfl
@[simp] theorem State.modVat_msix (s : State) (n : Nat) (f : Vat → Vat) : (s.modVat n f).msix = s.msix := rfl
@[simp] theorem State.modVat_cg (s : State) (n : Nat) (f : Vat → Vat) : (s.modVat n f).cg = s.cg := rfl
@[simp] theorem State.modVat_firm (s : State) (n : Nat) (f : Vat → Vat) : (s.modVat n f).firm = s.firm := rfl
@[simp] theorem State.modVat_keep (s : State) (n : Nat) (f : Vat → Vat) : (s.modVat n f).keep = s.keep := rfl
@[simp] theorem State.modVat_start (s : State) (n : Nat) (f : Vat → Vat) : (s.modVat n f).start = s.start := rfl
@[simp] theorem State.modVat_snapCmp (s : State) (n : Nat) (f : Vat → Vat) : (s.modVat n f).snapCmp = s.snapCmp := rfl
@[simp] theorem State.modVat_obs (s : State) (n : Nat) (f : Vat → Vat) : (s.modVat n f).obs = s.obs := rfl
@[simp] theorem State.modVat_now (s : State) (n : Nat) (f : Vat → Vat) : (s.modVat n f).now = s.now := rfl
@[simp] theorem State.modVat_reg (s : State) (n : Nat) (f : Vat → Vat) (j : Nat) : (s.modVat n f).reg j = s.reg j := rfl

@[simp] theorem State.modHarp_pending (s : State) (n : Nat) (f : HarpEngine → HarpEngine) : (s.modHarp n f).pending = s.pending := rfl
@[simp] theorem State.modHarp_tick (s : State) (n : Nat) (f : HarpEngine → HarpEngine) : (s.modHarp n f).tick = s.tick := rfl
@[simp] theorem State.modHarp_free (s : State) (n : Nat) (f : HarpEngine → HarpEngine) : (s.modHarp n f).free = s.free := rfl
@[simp] theorem State.modHarp_rdata (s : State) (n : Nat) (f : HarpEngine → HarpEngine) : (s.modHarp n f).rdata = s.rdata := rfl
@[simp] theorem State.modHarp_mainClk (s : State) (n : Nat) (f : HarpEngine → HarpEngine) : (s.modHarp n f).mainClk = s.mainClk := rfl
@[simp] theorem State.modHarp_rclkOn (s : State) (n : Nat) (f : HarpEngine → HarpEngine) : (s.modHarp n f).rclkOn = s.rclkOn := rfl
@[simp] theorem State.modHarp_rphase (s : State) (n : Nat) (f : HarpEngine → HarpEngine) : (s.modHarp n f).rphase = s.rphase := rfl
@[simp] theorem State.modHarp_rclk (s : State) (n : Nat) (f : HarpEngine → HarpEngine) : (s.modHarp n f).rclk = s.rclk := rfl
@[simp] theorem State.modHarp_regs (s : State) (n : Nat) (f : HarpEngine → HarpEngine) : (s.modHarp n f).regs = s.regs := rfl
@[simp] theorem State.modHarp_logs (s : State) (n : Nat) (f : HarpEngine → HarpEngine) : (s.modHarp n f).logs = s.logs := rfl
@[simp] theorem State.modHarp_mem (s : State) (n : Nat) (f : HarpEngine → HarpEngine) : (s.modHarp n f).mem = s.mem := rfl
@[simp] theorem State.modHarp_poison (s : State) (n : Nat) (f : HarpEngine → HarpEngine) : (s.modHarp n f).poison = s.poison := rfl
@[simp] theorem State.modHarp_upset (s : State) (n : Nat) (f : HarpEngine → HarpEngine) : (s.modHarp n f).upset = s.upset := rfl
@[simp] theorem State.modHarp_cells (s : State) (n : Nat) (f : HarpEngine → HarpEngine) : (s.modHarp n f).cells = s.cells := rfl
@[simp] theorem State.modHarp_tb (s : State) (n : Nat) (f : HarpEngine → HarpEngine) : (s.modHarp n f).tb = s.tb := rfl
@[simp] theorem State.modHarp_evr (s : State) (n : Nat) (f : HarpEngine → HarpEngine) : (s.modHarp n f).evr = s.evr := rfl
@[simp] theorem State.modHarp_line (s : State) (n : Nat) (f : HarpEngine → HarpEngine) : (s.modHarp n f).line = s.line := rfl
@[simp] theorem State.modHarp_auth (s : State) (n : Nat) (f : HarpEngine → HarpEngine) : (s.modHarp n f).auth = s.auth := rfl
@[simp] theorem State.modHarp_safe (s : State) (n : Nat) (f : HarpEngine → HarpEngine) : (s.modHarp n f).safe = s.safe := rfl
@[simp] theorem State.modHarp_hostEvent (s : State) (n : Nat) (f : HarpEngine → HarpEngine) : (s.modHarp n f).hostEvent = s.hostEvent := rfl
@[simp] theorem State.modHarp_frt (s : State) (n : Nat) (f : HarpEngine → HarpEngine) : (s.modHarp n f).frt = s.frt := rfl
@[simp] theorem State.modHarp_vats (s : State) (n : Nat) (f : HarpEngine → HarpEngine) : (s.modHarp n f).vats = s.vats := rfl
@[simp] theorem State.modHarp_mig (s : State) (n : Nat) (f : HarpEngine → HarpEngine) : (s.modHarp n f).mig = s.mig := rfl
@[simp] theorem State.modHarp_harp (s : State) (n : Nat) (f : HarpEngine → HarpEngine) : (s.modHarp n f).harp = listModify f s.harp n := rfl
@[simp] theorem State.modHarp_harpShare (s : State) (n : Nat) (f : HarpEngine → HarpEngine) : (s.modHarp n f).harpShare = s.harpShare := rfl
@[simp] theorem State.modHarp_walkers (s : State) (n : Nat) (f : HarpEngine → HarpEngine) : (s.modHarp n f).walkers = s.walkers := rfl
@[simp] theorem State.modHarp_swaps (s : State) (n : Nat) (f : HarpEngine → HarpEngine) : (s.modHarp n f).swaps = s.swaps := rfl
@[simp] theorem State.modHarp_ing (s : State) (n : Nat) (f : HarpEngine → HarpEngine) : (s.modHarp n f).ing = s.ing := rfl
@[simp] theorem State.modHarp_fus (s : State) (n : Nat) (f : HarpEngine → HarpEngine) : (s.modHarp n f).fus = s.fus := rfl
@[simp] theorem State.modHarp_slv (s : State) (n : Nat) (f : HarpEngine → HarpEngine) : (s.modHarp n f).slv = s.slv := rfl
@[simp] theorem State.modHarp_pln (s : State) (n : Nat) (f : HarpEngine → HarpEngine) : (s.modHarp n f).pln = s.pln := rfl
@[simp] theorem State.modHarp_lp (s : State) (n : Nat) (f : HarpEngine → HarpEngine) : (s.modHarp n f).lp = s.lp := rfl
@[simp] theorem State.modHarp_tsn (s : State) (n : Nat) (f : HarpEngine → HarpEngine) : (s.modHarp n f).tsn = s.tsn := rfl
@[simp] theorem State.modHarp_xsl (s : State) (n : Nat) (f : HarpEngine → HarpEngine) : (s.modHarp n f).xsl = s.xsl := rfl
@[simp] theorem State.modHarp_fbx (s : State) (n : Nat) (f : HarpEngine → HarpEngine) : (s.modHarp n f).fbx = s.fbx := rfl
@[simp] theorem State.modHarp_wd (s : State) (n : Nat) (f : HarpEngine → HarpEngine) : (s.modHarp n f).wd = s.wd := rfl
@[simp] theorem State.modHarp_diag (s : State) (n : Nat) (f : HarpEngine → HarpEngine) : (s.modHarp n f).diag = s.diag := rfl
@[simp] theorem State.modHarp_pwr (s : State) (n : Nat) (f : HarpEngine → HarpEngine) : (s.modHarp n f).pwr = s.pwr := rfl
@[simp] theorem State.modHarp_trace (s : State) (n : Nat) (f : HarpEngine → HarpEngine) : (s.modHarp n f).trace = s.trace := rfl
@[simp] theorem State.modHarp_traceDrop (s : State) (n : Nat) (f : HarpEngine → HarpEngine) : (s.modHarp n f).traceDrop = s.traceDrop := rfl
@[simp] theorem State.modHarp_msix (s : State) (n : Nat) (f : HarpEngine → HarpEngine) : (s.modHarp n f).msix = s.msix := rfl
@[simp] theorem State.modHarp_cg (s : State) (n : Nat) (f : HarpEngine → HarpEngine) : (s.modHarp n f).cg = s.cg := rfl
@[simp] theorem State.modHarp_firm (s : State) (n : Nat) (f : HarpEngine → HarpEngine) : (s.modHarp n f).firm = s.firm := rfl
@[simp] theorem State.modHarp_keep (s : State) (n : Nat) (f : HarpEngine → HarpEngine) : (s.modHarp n f).keep = s.keep := rfl
@[simp] theorem State.modHarp_start (s : State) (n : Nat) (f : HarpEngine → HarpEngine) : (s.modHarp n f).start = s.start := rfl
@[simp] theorem State.modHarp_snapCmp (s : State) (n : Nat) (f : HarpEngine → HarpEngine) : (s.modHarp n f).snapCmp = s.snapCmp := rfl
@[simp] theorem State.modHarp_obs (s : State) (n : Nat) (f : HarpEngine → HarpEngine) : (s.modHarp n f).obs = s.obs := rfl
@[simp] theorem State.modHarp_now (s : State) (n : Nat) (f : HarpEngine → HarpEngine) : (s.modHarp n f).now = s.now := rfl
@[simp] theorem State.modHarp_reg (s : State) (n : Nat) (f : HarpEngine → HarpEngine) (j : Nat) : (s.modHarp n f).reg j = s.reg j := rfl

@[simp] theorem State.modCtx_pending (s : State) (n : Nat) (f : IngCtx → IngCtx) : (s.modCtx n f).pending = s.pending := rfl
@[simp] theorem State.modCtx_tick (s : State) (n : Nat) (f : IngCtx → IngCtx) : (s.modCtx n f).tick = s.tick := rfl
@[simp] theorem State.modCtx_free (s : State) (n : Nat) (f : IngCtx → IngCtx) : (s.modCtx n f).free = s.free := rfl
@[simp] theorem State.modCtx_rdata (s : State) (n : Nat) (f : IngCtx → IngCtx) : (s.modCtx n f).rdata = s.rdata := rfl
@[simp] theorem State.modCtx_mainClk (s : State) (n : Nat) (f : IngCtx → IngCtx) : (s.modCtx n f).mainClk = s.mainClk := rfl
@[simp] theorem State.modCtx_rclkOn (s : State) (n : Nat) (f : IngCtx → IngCtx) : (s.modCtx n f).rclkOn = s.rclkOn := rfl
@[simp] theorem State.modCtx_rphase (s : State) (n : Nat) (f : IngCtx → IngCtx) : (s.modCtx n f).rphase = s.rphase := rfl
@[simp] theorem State.modCtx_rclk (s : State) (n : Nat) (f : IngCtx → IngCtx) : (s.modCtx n f).rclk = s.rclk := rfl
@[simp] theorem State.modCtx_regs (s : State) (n : Nat) (f : IngCtx → IngCtx) : (s.modCtx n f).regs = s.regs := rfl
@[simp] theorem State.modCtx_logs (s : State) (n : Nat) (f : IngCtx → IngCtx) : (s.modCtx n f).logs = s.logs := rfl
@[simp] theorem State.modCtx_mem (s : State) (n : Nat) (f : IngCtx → IngCtx) : (s.modCtx n f).mem = s.mem := rfl
@[simp] theorem State.modCtx_poison (s : State) (n : Nat) (f : IngCtx → IngCtx) : (s.modCtx n f).poison = s.poison := rfl
@[simp] theorem State.modCtx_upset (s : State) (n : Nat) (f : IngCtx → IngCtx) : (s.modCtx n f).upset = s.upset := rfl
@[simp] theorem State.modCtx_cells (s : State) (n : Nat) (f : IngCtx → IngCtx) : (s.modCtx n f).cells = s.cells := rfl
@[simp] theorem State.modCtx_tb (s : State) (n : Nat) (f : IngCtx → IngCtx) : (s.modCtx n f).tb = s.tb := rfl
@[simp] theorem State.modCtx_evr (s : State) (n : Nat) (f : IngCtx → IngCtx) : (s.modCtx n f).evr = s.evr := rfl
@[simp] theorem State.modCtx_line (s : State) (n : Nat) (f : IngCtx → IngCtx) : (s.modCtx n f).line = s.line := rfl
@[simp] theorem State.modCtx_auth (s : State) (n : Nat) (f : IngCtx → IngCtx) : (s.modCtx n f).auth = s.auth := rfl
@[simp] theorem State.modCtx_safe (s : State) (n : Nat) (f : IngCtx → IngCtx) : (s.modCtx n f).safe = s.safe := rfl
@[simp] theorem State.modCtx_hostEvent (s : State) (n : Nat) (f : IngCtx → IngCtx) : (s.modCtx n f).hostEvent = s.hostEvent := rfl
@[simp] theorem State.modCtx_frt (s : State) (n : Nat) (f : IngCtx → IngCtx) : (s.modCtx n f).frt = s.frt := rfl
@[simp] theorem State.modCtx_vats (s : State) (n : Nat) (f : IngCtx → IngCtx) : (s.modCtx n f).vats = s.vats := rfl
@[simp] theorem State.modCtx_mig (s : State) (n : Nat) (f : IngCtx → IngCtx) : (s.modCtx n f).mig = s.mig := rfl
@[simp] theorem State.modCtx_harp (s : State) (n : Nat) (f : IngCtx → IngCtx) : (s.modCtx n f).harp = s.harp := rfl
@[simp] theorem State.modCtx_harpShare (s : State) (n : Nat) (f : IngCtx → IngCtx) : (s.modCtx n f).harpShare = s.harpShare := rfl
@[simp] theorem State.modCtx_walkers (s : State) (n : Nat) (f : IngCtx → IngCtx) : (s.modCtx n f).walkers = s.walkers := rfl
@[simp] theorem State.modCtx_swaps (s : State) (n : Nat) (f : IngCtx → IngCtx) : (s.modCtx n f).swaps = s.swaps := rfl
@[simp] theorem State.modCtx_ing (s : State) (n : Nat) (f : IngCtx → IngCtx) : (s.modCtx n f).ing = listModify f s.ing n := rfl
@[simp] theorem State.modCtx_fus (s : State) (n : Nat) (f : IngCtx → IngCtx) : (s.modCtx n f).fus = s.fus := rfl
@[simp] theorem State.modCtx_slv (s : State) (n : Nat) (f : IngCtx → IngCtx) : (s.modCtx n f).slv = s.slv := rfl
@[simp] theorem State.modCtx_pln (s : State) (n : Nat) (f : IngCtx → IngCtx) : (s.modCtx n f).pln = s.pln := rfl
@[simp] theorem State.modCtx_lp (s : State) (n : Nat) (f : IngCtx → IngCtx) : (s.modCtx n f).lp = s.lp := rfl
@[simp] theorem State.modCtx_tsn (s : State) (n : Nat) (f : IngCtx → IngCtx) : (s.modCtx n f).tsn = s.tsn := rfl
@[simp] theorem State.modCtx_xsl (s : State) (n : Nat) (f : IngCtx → IngCtx) : (s.modCtx n f).xsl = s.xsl := rfl
@[simp] theorem State.modCtx_fbx (s : State) (n : Nat) (f : IngCtx → IngCtx) : (s.modCtx n f).fbx = s.fbx := rfl
@[simp] theorem State.modCtx_wd (s : State) (n : Nat) (f : IngCtx → IngCtx) : (s.modCtx n f).wd = s.wd := rfl
@[simp] theorem State.modCtx_diag (s : State) (n : Nat) (f : IngCtx → IngCtx) : (s.modCtx n f).diag = s.diag := rfl
@[simp] theorem State.modCtx_pwr (s : State) (n : Nat) (f : IngCtx → IngCtx) : (s.modCtx n f).pwr = s.pwr := rfl
@[simp] theorem State.modCtx_trace (s : State) (n : Nat) (f : IngCtx → IngCtx) : (s.modCtx n f).trace = s.trace := rfl
@[simp] theorem State.modCtx_traceDrop (s : State) (n : Nat) (f : IngCtx → IngCtx) : (s.modCtx n f).traceDrop = s.traceDrop := rfl
@[simp] theorem State.modCtx_msix (s : State) (n : Nat) (f : IngCtx → IngCtx) : (s.modCtx n f).msix = s.msix := rfl
@[simp] theorem State.modCtx_cg (s : State) (n : Nat) (f : IngCtx → IngCtx) : (s.modCtx n f).cg = s.cg := rfl
@[simp] theorem State.modCtx_firm (s : State) (n : Nat) (f : IngCtx → IngCtx) : (s.modCtx n f).firm = s.firm := rfl
@[simp] theorem State.modCtx_keep (s : State) (n : Nat) (f : IngCtx → IngCtx) : (s.modCtx n f).keep = s.keep := rfl
@[simp] theorem State.modCtx_start (s : State) (n : Nat) (f : IngCtx → IngCtx) : (s.modCtx n f).start = s.start := rfl
@[simp] theorem State.modCtx_snapCmp (s : State) (n : Nat) (f : IngCtx → IngCtx) : (s.modCtx n f).snapCmp = s.snapCmp := rfl
@[simp] theorem State.modCtx_obs (s : State) (n : Nat) (f : IngCtx → IngCtx) : (s.modCtx n f).obs = s.obs := rfl
@[simp] theorem State.modCtx_now (s : State) (n : Nat) (f : IngCtx → IngCtx) : (s.modCtx n f).now = s.now := rfl
@[simp] theorem State.modCtx_reg (s : State) (n : Nat) (f : IngCtx → IngCtx) (j : Nat) : (s.modCtx n f).reg j = s.reg j := rfl

@[simp] theorem State.modWalker_pending (s : State) (n : Nat) (f : Walker → Walker) : (s.modWalker n f).pending = s.pending := rfl
@[simp] theorem State.modWalker_tick (s : State) (n : Nat) (f : Walker → Walker) : (s.modWalker n f).tick = s.tick := rfl
@[simp] theorem State.modWalker_free (s : State) (n : Nat) (f : Walker → Walker) : (s.modWalker n f).free = s.free := rfl
@[simp] theorem State.modWalker_rdata (s : State) (n : Nat) (f : Walker → Walker) : (s.modWalker n f).rdata = s.rdata := rfl
@[simp] theorem State.modWalker_mainClk (s : State) (n : Nat) (f : Walker → Walker) : (s.modWalker n f).mainClk = s.mainClk := rfl
@[simp] theorem State.modWalker_rclkOn (s : State) (n : Nat) (f : Walker → Walker) : (s.modWalker n f).rclkOn = s.rclkOn := rfl
@[simp] theorem State.modWalker_rphase (s : State) (n : Nat) (f : Walker → Walker) : (s.modWalker n f).rphase = s.rphase := rfl
@[simp] theorem State.modWalker_rclk (s : State) (n : Nat) (f : Walker → Walker) : (s.modWalker n f).rclk = s.rclk := rfl
@[simp] theorem State.modWalker_regs (s : State) (n : Nat) (f : Walker → Walker) : (s.modWalker n f).regs = s.regs := rfl
@[simp] theorem State.modWalker_logs (s : State) (n : Nat) (f : Walker → Walker) : (s.modWalker n f).logs = s.logs := rfl
@[simp] theorem State.modWalker_mem (s : State) (n : Nat) (f : Walker → Walker) : (s.modWalker n f).mem = s.mem := rfl
@[simp] theorem State.modWalker_poison (s : State) (n : Nat) (f : Walker → Walker) : (s.modWalker n f).poison = s.poison := rfl
@[simp] theorem State.modWalker_upset (s : State) (n : Nat) (f : Walker → Walker) : (s.modWalker n f).upset = s.upset := rfl
@[simp] theorem State.modWalker_cells (s : State) (n : Nat) (f : Walker → Walker) : (s.modWalker n f).cells = s.cells := rfl
@[simp] theorem State.modWalker_tb (s : State) (n : Nat) (f : Walker → Walker) : (s.modWalker n f).tb = s.tb := rfl
@[simp] theorem State.modWalker_evr (s : State) (n : Nat) (f : Walker → Walker) : (s.modWalker n f).evr = s.evr := rfl
@[simp] theorem State.modWalker_line (s : State) (n : Nat) (f : Walker → Walker) : (s.modWalker n f).line = s.line := rfl
@[simp] theorem State.modWalker_auth (s : State) (n : Nat) (f : Walker → Walker) : (s.modWalker n f).auth = s.auth := rfl
@[simp] theorem State.modWalker_safe (s : State) (n : Nat) (f : Walker → Walker) : (s.modWalker n f).safe = s.safe := rfl
@[simp] theorem State.modWalker_hostEvent (s : State) (n : Nat) (f : Walker → Walker) : (s.modWalker n f).hostEvent = s.hostEvent := rfl
@[simp] theorem State.modWalker_frt (s : State) (n : Nat) (f : Walker → Walker) : (s.modWalker n f).frt = s.frt := rfl
@[simp] theorem State.modWalker_vats (s : State) (n : Nat) (f : Walker → Walker) : (s.modWalker n f).vats = s.vats := rfl
@[simp] theorem State.modWalker_mig (s : State) (n : Nat) (f : Walker → Walker) : (s.modWalker n f).mig = s.mig := rfl
@[simp] theorem State.modWalker_harp (s : State) (n : Nat) (f : Walker → Walker) : (s.modWalker n f).harp = s.harp := rfl
@[simp] theorem State.modWalker_harpShare (s : State) (n : Nat) (f : Walker → Walker) : (s.modWalker n f).harpShare = s.harpShare := rfl
@[simp] theorem State.modWalker_walkers (s : State) (n : Nat) (f : Walker → Walker) : (s.modWalker n f).walkers = listModify f s.walkers n := rfl
@[simp] theorem State.modWalker_swaps (s : State) (n : Nat) (f : Walker → Walker) : (s.modWalker n f).swaps = s.swaps := rfl
@[simp] theorem State.modWalker_ing (s : State) (n : Nat) (f : Walker → Walker) : (s.modWalker n f).ing = s.ing := rfl
@[simp] theorem State.modWalker_fus (s : State) (n : Nat) (f : Walker → Walker) : (s.modWalker n f).fus = s.fus := rfl
@[simp] theorem State.modWalker_slv (s : State) (n : Nat) (f : Walker → Walker) : (s.modWalker n f).slv = s.slv := rfl
@[simp] theorem State.modWalker_pln (s : State) (n : Nat) (f : Walker → Walker) : (s.modWalker n f).pln = s.pln := rfl
@[simp] theorem State.modWalker_lp (s : State) (n : Nat) (f : Walker → Walker) : (s.modWalker n f).lp = s.lp := rfl
@[simp] theorem State.modWalker_tsn (s : State) (n : Nat) (f : Walker → Walker) : (s.modWalker n f).tsn = s.tsn := rfl
@[simp] theorem State.modWalker_xsl (s : State) (n : Nat) (f : Walker → Walker) : (s.modWalker n f).xsl = s.xsl := rfl
@[simp] theorem State.modWalker_fbx (s : State) (n : Nat) (f : Walker → Walker) : (s.modWalker n f).fbx = s.fbx := rfl
@[simp] theorem State.modWalker_wd (s : State) (n : Nat) (f : Walker → Walker) : (s.modWalker n f).wd = s.wd := rfl
@[simp] theorem State.modWalker_diag (s : State) (n : Nat) (f : Walker → Walker) : (s.modWalker n f).diag = s.diag := rfl
@[simp] theorem State.modWalker_pwr (s : State) (n : Nat) (f : Walker → Walker) : (s.modWalker n f).pwr = s.pwr := rfl
@[simp] theorem State.modWalker_trace (s : State) (n : Nat) (f : Walker → Walker) : (s.modWalker n f).trace = s.trace := rfl
@[simp] theorem State.modWalker_traceDrop (s : State) (n : Nat) (f : Walker → Walker) : (s.modWalker n f).traceDrop = s.traceDrop := rfl
@[simp] theorem State.modWalker_msix (s : State) (n : Nat) (f : Walker → Walker) : (s.modWalker n f).msix = s.msix := rfl
@[simp] theorem State.modWalker_cg (s : State) (n : Nat) (f : Walker → Walker) : (s.modWalker n f).cg = s.cg := rfl
@[simp] theorem State.modWalker_firm (s : State) (n : Nat) (f : Walker → Walker) : (s.modWalker n f).firm = s.firm := rfl
@[simp] theorem State.modWalker_keep (s : State) (n : Nat) (f : Walker → Walker) : (s.modWalker n f).keep = s.keep := rfl
@[simp] theorem State.modWalker_start (s : State) (n : Nat) (f : Walker → Walker) : (s.modWalker n f).start = s.start := rfl
@[simp] theorem State.modWalker_snapCmp (s : State) (n : Nat) (f : Walker → Walker) : (s.modWalker n f).snapCmp = s.snapCmp := rfl
@[simp] theorem State.modWalker_obs (s : State) (n : Nat) (f : Walker → Walker) : (s.modWalker n f).obs = s.obs := rfl
@[simp] theorem State.modWalker_now (s : State) (n : Nat) (f : Walker → Walker) : (s.modWalker n f).now = s.now := rfl
@[simp] theorem State.modWalker_reg (s : State) (n : Nat) (f : Walker → Walker) (j : Nat) : (s.modWalker n f).reg j = s.reg j := rfl

@[simp] theorem State.modTport_pending (s : State) (n : Nat) (f : TsnPort → TsnPort) : (s.modTport n f).pending = s.pending := rfl
@[simp] theorem State.modTport_tick (s : State) (n : Nat) (f : TsnPort → TsnPort) : (s.modTport n f).tick = s.tick := rfl
@[simp] theorem State.modTport_free (s : State) (n : Nat) (f : TsnPort → TsnPort) : (s.modTport n f).free = s.free := rfl
@[simp] theorem State.modTport_rdata (s : State) (n : Nat) (f : TsnPort → TsnPort) : (s.modTport n f).rdata = s.rdata := rfl
@[simp] theorem State.modTport_mainClk (s : State) (n : Nat) (f : TsnPort → TsnPort) : (s.modTport n f).mainClk = s.mainClk := rfl
@[simp] theorem State.modTport_rclkOn (s : State) (n : Nat) (f : TsnPort → TsnPort) : (s.modTport n f).rclkOn = s.rclkOn := rfl
@[simp] theorem State.modTport_rphase (s : State) (n : Nat) (f : TsnPort → TsnPort) : (s.modTport n f).rphase = s.rphase := rfl
@[simp] theorem State.modTport_rclk (s : State) (n : Nat) (f : TsnPort → TsnPort) : (s.modTport n f).rclk = s.rclk := rfl
@[simp] theorem State.modTport_regs (s : State) (n : Nat) (f : TsnPort → TsnPort) : (s.modTport n f).regs = s.regs := rfl
@[simp] theorem State.modTport_logs (s : State) (n : Nat) (f : TsnPort → TsnPort) : (s.modTport n f).logs = s.logs := rfl
@[simp] theorem State.modTport_mem (s : State) (n : Nat) (f : TsnPort → TsnPort) : (s.modTport n f).mem = s.mem := rfl
@[simp] theorem State.modTport_poison (s : State) (n : Nat) (f : TsnPort → TsnPort) : (s.modTport n f).poison = s.poison := rfl
@[simp] theorem State.modTport_upset (s : State) (n : Nat) (f : TsnPort → TsnPort) : (s.modTport n f).upset = s.upset := rfl
@[simp] theorem State.modTport_cells (s : State) (n : Nat) (f : TsnPort → TsnPort) : (s.modTport n f).cells = s.cells := rfl
@[simp] theorem State.modTport_tb (s : State) (n : Nat) (f : TsnPort → TsnPort) : (s.modTport n f).tb = s.tb := rfl
@[simp] theorem State.modTport_evr (s : State) (n : Nat) (f : TsnPort → TsnPort) : (s.modTport n f).evr = s.evr := rfl
@[simp] theorem State.modTport_line (s : State) (n : Nat) (f : TsnPort → TsnPort) : (s.modTport n f).line = s.line := rfl
@[simp] theorem State.modTport_auth (s : State) (n : Nat) (f : TsnPort → TsnPort) : (s.modTport n f).auth = s.auth := rfl
@[simp] theorem State.modTport_safe (s : State) (n : Nat) (f : TsnPort → TsnPort) : (s.modTport n f).safe = s.safe := rfl
@[simp] theorem State.modTport_hostEvent (s : State) (n : Nat) (f : TsnPort → TsnPort) : (s.modTport n f).hostEvent = s.hostEvent := rfl
@[simp] theorem State.modTport_frt (s : State) (n : Nat) (f : TsnPort → TsnPort) : (s.modTport n f).frt = s.frt := rfl
@[simp] theorem State.modTport_vats (s : State) (n : Nat) (f : TsnPort → TsnPort) : (s.modTport n f).vats = s.vats := rfl
@[simp] theorem State.modTport_mig (s : State) (n : Nat) (f : TsnPort → TsnPort) : (s.modTport n f).mig = s.mig := rfl
@[simp] theorem State.modTport_harp (s : State) (n : Nat) (f : TsnPort → TsnPort) : (s.modTport n f).harp = s.harp := rfl
@[simp] theorem State.modTport_harpShare (s : State) (n : Nat) (f : TsnPort → TsnPort) : (s.modTport n f).harpShare = s.harpShare := rfl
@[simp] theorem State.modTport_walkers (s : State) (n : Nat) (f : TsnPort → TsnPort) : (s.modTport n f).walkers = s.walkers := rfl
@[simp] theorem State.modTport_swaps (s : State) (n : Nat) (f : TsnPort → TsnPort) : (s.modTport n f).swaps = s.swaps := rfl
@[simp] theorem State.modTport_ing (s : State) (n : Nat) (f : TsnPort → TsnPort) : (s.modTport n f).ing = s.ing := rfl
@[simp] theorem State.modTport_fus (s : State) (n : Nat) (f : TsnPort → TsnPort) : (s.modTport n f).fus = s.fus := rfl
@[simp] theorem State.modTport_slv (s : State) (n : Nat) (f : TsnPort → TsnPort) : (s.modTport n f).slv = s.slv := rfl
@[simp] theorem State.modTport_pln (s : State) (n : Nat) (f : TsnPort → TsnPort) : (s.modTport n f).pln = s.pln := rfl
@[simp] theorem State.modTport_lp (s : State) (n : Nat) (f : TsnPort → TsnPort) : (s.modTport n f).lp = s.lp := rfl
@[simp] theorem State.modTport_tsn (s : State) (n : Nat) (f : TsnPort → TsnPort) : (s.modTport n f).tsn = listModify f s.tsn n := rfl
@[simp] theorem State.modTport_xsl (s : State) (n : Nat) (f : TsnPort → TsnPort) : (s.modTport n f).xsl = s.xsl := rfl
@[simp] theorem State.modTport_fbx (s : State) (n : Nat) (f : TsnPort → TsnPort) : (s.modTport n f).fbx = s.fbx := rfl
@[simp] theorem State.modTport_wd (s : State) (n : Nat) (f : TsnPort → TsnPort) : (s.modTport n f).wd = s.wd := rfl
@[simp] theorem State.modTport_diag (s : State) (n : Nat) (f : TsnPort → TsnPort) : (s.modTport n f).diag = s.diag := rfl
@[simp] theorem State.modTport_pwr (s : State) (n : Nat) (f : TsnPort → TsnPort) : (s.modTport n f).pwr = s.pwr := rfl
@[simp] theorem State.modTport_trace (s : State) (n : Nat) (f : TsnPort → TsnPort) : (s.modTport n f).trace = s.trace := rfl
@[simp] theorem State.modTport_traceDrop (s : State) (n : Nat) (f : TsnPort → TsnPort) : (s.modTport n f).traceDrop = s.traceDrop := rfl
@[simp] theorem State.modTport_msix (s : State) (n : Nat) (f : TsnPort → TsnPort) : (s.modTport n f).msix = s.msix := rfl
@[simp] theorem State.modTport_cg (s : State) (n : Nat) (f : TsnPort → TsnPort) : (s.modTport n f).cg = s.cg := rfl
@[simp] theorem State.modTport_firm (s : State) (n : Nat) (f : TsnPort → TsnPort) : (s.modTport n f).firm = s.firm := rfl
@[simp] theorem State.modTport_keep (s : State) (n : Nat) (f : TsnPort → TsnPort) : (s.modTport n f).keep = s.keep := rfl
@[simp] theorem State.modTport_start (s : State) (n : Nat) (f : TsnPort → TsnPort) : (s.modTport n f).start = s.start := rfl
@[simp] theorem State.modTport_snapCmp (s : State) (n : Nat) (f : TsnPort → TsnPort) : (s.modTport n f).snapCmp = s.snapCmp := rfl
@[simp] theorem State.modTport_obs (s : State) (n : Nat) (f : TsnPort → TsnPort) : (s.modTport n f).obs = s.obs := rfl
@[simp] theorem State.modTport_now (s : State) (n : Nat) (f : TsnPort → TsnPort) : (s.modTport n f).now = s.now := rfl
@[simp] theorem State.modTport_reg (s : State) (n : Nat) (f : TsnPort → TsnPort) (j : Nat) : (s.modTport n f).reg j = s.reg j := rfl

@[simp] theorem State.modSwap_pending (s : State) (n : Nat) (f : SwapEng → SwapEng) : (s.modSwap n f).pending = s.pending := rfl
@[simp] theorem State.modSwap_tick (s : State) (n : Nat) (f : SwapEng → SwapEng) : (s.modSwap n f).tick = s.tick := rfl
@[simp] theorem State.modSwap_free (s : State) (n : Nat) (f : SwapEng → SwapEng) : (s.modSwap n f).free = s.free := rfl
@[simp] theorem State.modSwap_rdata (s : State) (n : Nat) (f : SwapEng → SwapEng) : (s.modSwap n f).rdata = s.rdata := rfl
@[simp] theorem State.modSwap_mainClk (s : State) (n : Nat) (f : SwapEng → SwapEng) : (s.modSwap n f).mainClk = s.mainClk := rfl
@[simp] theorem State.modSwap_rclkOn (s : State) (n : Nat) (f : SwapEng → SwapEng) : (s.modSwap n f).rclkOn = s.rclkOn := rfl
@[simp] theorem State.modSwap_rphase (s : State) (n : Nat) (f : SwapEng → SwapEng) : (s.modSwap n f).rphase = s.rphase := rfl
@[simp] theorem State.modSwap_rclk (s : State) (n : Nat) (f : SwapEng → SwapEng) : (s.modSwap n f).rclk = s.rclk := rfl
@[simp] theorem State.modSwap_regs (s : State) (n : Nat) (f : SwapEng → SwapEng) : (s.modSwap n f).regs = s.regs := rfl
@[simp] theorem State.modSwap_logs (s : State) (n : Nat) (f : SwapEng → SwapEng) : (s.modSwap n f).logs = s.logs := rfl
@[simp] theorem State.modSwap_mem (s : State) (n : Nat) (f : SwapEng → SwapEng) : (s.modSwap n f).mem = s.mem := rfl
@[simp] theorem State.modSwap_poison (s : State) (n : Nat) (f : SwapEng → SwapEng) : (s.modSwap n f).poison = s.poison := rfl
@[simp] theorem State.modSwap_upset (s : State) (n : Nat) (f : SwapEng → SwapEng) : (s.modSwap n f).upset = s.upset := rfl
@[simp] theorem State.modSwap_cells (s : State) (n : Nat) (f : SwapEng → SwapEng) : (s.modSwap n f).cells = s.cells := rfl
@[simp] theorem State.modSwap_tb (s : State) (n : Nat) (f : SwapEng → SwapEng) : (s.modSwap n f).tb = s.tb := rfl
@[simp] theorem State.modSwap_evr (s : State) (n : Nat) (f : SwapEng → SwapEng) : (s.modSwap n f).evr = s.evr := rfl
@[simp] theorem State.modSwap_line (s : State) (n : Nat) (f : SwapEng → SwapEng) : (s.modSwap n f).line = s.line := rfl
@[simp] theorem State.modSwap_auth (s : State) (n : Nat) (f : SwapEng → SwapEng) : (s.modSwap n f).auth = s.auth := rfl
@[simp] theorem State.modSwap_safe (s : State) (n : Nat) (f : SwapEng → SwapEng) : (s.modSwap n f).safe = s.safe := rfl
@[simp] theorem State.modSwap_hostEvent (s : State) (n : Nat) (f : SwapEng → SwapEng) : (s.modSwap n f).hostEvent = s.hostEvent := rfl
@[simp] theorem State.modSwap_frt (s : State) (n : Nat) (f : SwapEng → SwapEng) : (s.modSwap n f).frt = s.frt := rfl
@[simp] theorem State.modSwap_vats (s : State) (n : Nat) (f : SwapEng → SwapEng) : (s.modSwap n f).vats = s.vats := rfl
@[simp] theorem State.modSwap_mig (s : State) (n : Nat) (f : SwapEng → SwapEng) : (s.modSwap n f).mig = s.mig := rfl
@[simp] theorem State.modSwap_harp (s : State) (n : Nat) (f : SwapEng → SwapEng) : (s.modSwap n f).harp = s.harp := rfl
@[simp] theorem State.modSwap_harpShare (s : State) (n : Nat) (f : SwapEng → SwapEng) : (s.modSwap n f).harpShare = s.harpShare := rfl
@[simp] theorem State.modSwap_walkers (s : State) (n : Nat) (f : SwapEng → SwapEng) : (s.modSwap n f).walkers = s.walkers := rfl
@[simp] theorem State.modSwap_swaps (s : State) (n : Nat) (f : SwapEng → SwapEng) : (s.modSwap n f).swaps = listModify f s.swaps n := rfl
@[simp] theorem State.modSwap_ing (s : State) (n : Nat) (f : SwapEng → SwapEng) : (s.modSwap n f).ing = s.ing := rfl
@[simp] theorem State.modSwap_fus (s : State) (n : Nat) (f : SwapEng → SwapEng) : (s.modSwap n f).fus = s.fus := rfl
@[simp] theorem State.modSwap_slv (s : State) (n : Nat) (f : SwapEng → SwapEng) : (s.modSwap n f).slv = s.slv := rfl
@[simp] theorem State.modSwap_pln (s : State) (n : Nat) (f : SwapEng → SwapEng) : (s.modSwap n f).pln = s.pln := rfl
@[simp] theorem State.modSwap_lp (s : State) (n : Nat) (f : SwapEng → SwapEng) : (s.modSwap n f).lp = s.lp := rfl
@[simp] theorem State.modSwap_tsn (s : State) (n : Nat) (f : SwapEng → SwapEng) : (s.modSwap n f).tsn = s.tsn := rfl
@[simp] theorem State.modSwap_xsl (s : State) (n : Nat) (f : SwapEng → SwapEng) : (s.modSwap n f).xsl = s.xsl := rfl
@[simp] theorem State.modSwap_fbx (s : State) (n : Nat) (f : SwapEng → SwapEng) : (s.modSwap n f).fbx = s.fbx := rfl
@[simp] theorem State.modSwap_wd (s : State) (n : Nat) (f : SwapEng → SwapEng) : (s.modSwap n f).wd = s.wd := rfl
@[simp] theorem State.modSwap_diag (s : State) (n : Nat) (f : SwapEng → SwapEng) : (s.modSwap n f).diag = s.diag := rfl
@[simp] theorem State.modSwap_pwr (s : State) (n : Nat) (f : SwapEng → SwapEng) : (s.modSwap n f).pwr = s.pwr := rfl
@[simp] theorem State.modSwap_trace (s : State) (n : Nat) (f : SwapEng → SwapEng) : (s.modSwap n f).trace = s.trace := rfl
@[simp] theorem State.modSwap_traceDrop (s : State) (n : Nat) (f : SwapEng → SwapEng) : (s.modSwap n f).traceDrop = s.traceDrop := rfl
@[simp] theorem State.modSwap_msix (s : State) (n : Nat) (f : SwapEng → SwapEng) : (s.modSwap n f).msix = s.msix := rfl
@[simp] theorem State.modSwap_cg (s : State) (n : Nat) (f : SwapEng → SwapEng) : (s.modSwap n f).cg = s.cg := rfl
@[simp] theorem State.modSwap_firm (s : State) (n : Nat) (f : SwapEng → SwapEng) : (s.modSwap n f).firm = s.firm := rfl
@[simp] theorem State.modSwap_keep (s : State) (n : Nat) (f : SwapEng → SwapEng) : (s.modSwap n f).keep = s.keep := rfl
@[simp] theorem State.modSwap_start (s : State) (n : Nat) (f : SwapEng → SwapEng) : (s.modSwap n f).start = s.start := rfl
@[simp] theorem State.modSwap_snapCmp (s : State) (n : Nat) (f : SwapEng → SwapEng) : (s.modSwap n f).snapCmp = s.snapCmp := rfl
@[simp] theorem State.modSwap_obs (s : State) (n : Nat) (f : SwapEng → SwapEng) : (s.modSwap n f).obs = s.obs := rfl
@[simp] theorem State.modSwap_now (s : State) (n : Nat) (f : SwapEng → SwapEng) : (s.modSwap n f).now = s.now := rfl
@[simp] theorem State.modSwap_reg (s : State) (n : Nat) (f : SwapEng → SwapEng) (j : Nat) : (s.modSwap n f).reg j = s.reg j := rfl

@[simp] theorem State.modCore_pending (s : State) (n : Nat) (f : VatCore → VatCore) : (s.modCore n f).pending = s.pending := rfl
@[simp] theorem State.modCore_tick (s : State) (n : Nat) (f : VatCore → VatCore) : (s.modCore n f).tick = s.tick := rfl
@[simp] theorem State.modCore_free (s : State) (n : Nat) (f : VatCore → VatCore) : (s.modCore n f).free = s.free := rfl
@[simp] theorem State.modCore_rdata (s : State) (n : Nat) (f : VatCore → VatCore) : (s.modCore n f).rdata = s.rdata := rfl
@[simp] theorem State.modCore_mainClk (s : State) (n : Nat) (f : VatCore → VatCore) : (s.modCore n f).mainClk = s.mainClk := rfl
@[simp] theorem State.modCore_rclkOn (s : State) (n : Nat) (f : VatCore → VatCore) : (s.modCore n f).rclkOn = s.rclkOn := rfl
@[simp] theorem State.modCore_rphase (s : State) (n : Nat) (f : VatCore → VatCore) : (s.modCore n f).rphase = s.rphase := rfl
@[simp] theorem State.modCore_rclk (s : State) (n : Nat) (f : VatCore → VatCore) : (s.modCore n f).rclk = s.rclk := rfl
@[simp] theorem State.modCore_regs (s : State) (n : Nat) (f : VatCore → VatCore) : (s.modCore n f).regs = s.regs := rfl
@[simp] theorem State.modCore_logs (s : State) (n : Nat) (f : VatCore → VatCore) : (s.modCore n f).logs = s.logs := rfl
@[simp] theorem State.modCore_mem (s : State) (n : Nat) (f : VatCore → VatCore) : (s.modCore n f).mem = s.mem := rfl
@[simp] theorem State.modCore_poison (s : State) (n : Nat) (f : VatCore → VatCore) : (s.modCore n f).poison = s.poison := rfl
@[simp] theorem State.modCore_upset (s : State) (n : Nat) (f : VatCore → VatCore) : (s.modCore n f).upset = s.upset := rfl
@[simp] theorem State.modCore_cells (s : State) (n : Nat) (f : VatCore → VatCore) : (s.modCore n f).cells = s.cells := rfl
@[simp] theorem State.modCore_tb (s : State) (n : Nat) (f : VatCore → VatCore) : (s.modCore n f).tb = s.tb := rfl
@[simp] theorem State.modCore_evr (s : State) (n : Nat) (f : VatCore → VatCore) : (s.modCore n f).evr = s.evr := rfl
@[simp] theorem State.modCore_line (s : State) (n : Nat) (f : VatCore → VatCore) : (s.modCore n f).line = s.line := rfl
@[simp] theorem State.modCore_auth (s : State) (n : Nat) (f : VatCore → VatCore) : (s.modCore n f).auth = s.auth := rfl
@[simp] theorem State.modCore_safe (s : State) (n : Nat) (f : VatCore → VatCore) : (s.modCore n f).safe = s.safe := rfl
@[simp] theorem State.modCore_hostEvent (s : State) (n : Nat) (f : VatCore → VatCore) : (s.modCore n f).hostEvent = s.hostEvent := rfl
@[simp] theorem State.modCore_frt (s : State) (n : Nat) (f : VatCore → VatCore) : (s.modCore n f).frt = s.frt := rfl
@[simp] theorem State.modCore_mig (s : State) (n : Nat) (f : VatCore → VatCore) : (s.modCore n f).mig = s.mig := rfl
@[simp] theorem State.modCore_harp (s : State) (n : Nat) (f : VatCore → VatCore) : (s.modCore n f).harp = s.harp := rfl
@[simp] theorem State.modCore_harpShare (s : State) (n : Nat) (f : VatCore → VatCore) : (s.modCore n f).harpShare = s.harpShare := rfl
@[simp] theorem State.modCore_walkers (s : State) (n : Nat) (f : VatCore → VatCore) : (s.modCore n f).walkers = s.walkers := rfl
@[simp] theorem State.modCore_swaps (s : State) (n : Nat) (f : VatCore → VatCore) : (s.modCore n f).swaps = s.swaps := rfl
@[simp] theorem State.modCore_ing (s : State) (n : Nat) (f : VatCore → VatCore) : (s.modCore n f).ing = s.ing := rfl
@[simp] theorem State.modCore_fus (s : State) (n : Nat) (f : VatCore → VatCore) : (s.modCore n f).fus = s.fus := rfl
@[simp] theorem State.modCore_slv (s : State) (n : Nat) (f : VatCore → VatCore) : (s.modCore n f).slv = s.slv := rfl
@[simp] theorem State.modCore_pln (s : State) (n : Nat) (f : VatCore → VatCore) : (s.modCore n f).pln = s.pln := rfl
@[simp] theorem State.modCore_lp (s : State) (n : Nat) (f : VatCore → VatCore) : (s.modCore n f).lp = s.lp := rfl
@[simp] theorem State.modCore_tsn (s : State) (n : Nat) (f : VatCore → VatCore) : (s.modCore n f).tsn = s.tsn := rfl
@[simp] theorem State.modCore_xsl (s : State) (n : Nat) (f : VatCore → VatCore) : (s.modCore n f).xsl = s.xsl := rfl
@[simp] theorem State.modCore_fbx (s : State) (n : Nat) (f : VatCore → VatCore) : (s.modCore n f).fbx = s.fbx := rfl
@[simp] theorem State.modCore_wd (s : State) (n : Nat) (f : VatCore → VatCore) : (s.modCore n f).wd = s.wd := rfl
@[simp] theorem State.modCore_diag (s : State) (n : Nat) (f : VatCore → VatCore) : (s.modCore n f).diag = s.diag := rfl
@[simp] theorem State.modCore_pwr (s : State) (n : Nat) (f : VatCore → VatCore) : (s.modCore n f).pwr = s.pwr := rfl
@[simp] theorem State.modCore_trace (s : State) (n : Nat) (f : VatCore → VatCore) : (s.modCore n f).trace = s.trace := rfl
@[simp] theorem State.modCore_traceDrop (s : State) (n : Nat) (f : VatCore → VatCore) : (s.modCore n f).traceDrop = s.traceDrop := rfl
@[simp] theorem State.modCore_msix (s : State) (n : Nat) (f : VatCore → VatCore) : (s.modCore n f).msix = s.msix := rfl
@[simp] theorem State.modCore_cg (s : State) (n : Nat) (f : VatCore → VatCore) : (s.modCore n f).cg = s.cg := rfl
@[simp] theorem State.modCore_firm (s : State) (n : Nat) (f : VatCore → VatCore) : (s.modCore n f).firm = s.firm := rfl
@[simp] theorem State.modCore_keep (s : State) (n : Nat) (f : VatCore → VatCore) : (s.modCore n f).keep = s.keep := rfl
@[simp] theorem State.modCore_start (s : State) (n : Nat) (f : VatCore → VatCore) : (s.modCore n f).start = s.start := rfl
@[simp] theorem State.modCore_snapCmp (s : State) (n : Nat) (f : VatCore → VatCore) : (s.modCore n f).snapCmp = s.snapCmp := rfl
@[simp] theorem State.modCore_obs (s : State) (n : Nat) (f : VatCore → VatCore) : (s.modCore n f).obs = s.obs := rfl
@[simp] theorem State.modCore_now (s : State) (n : Nat) (f : VatCore → VatCore) : (s.modCore n f).now = s.now := rfl
@[simp] theorem State.modCore_reg (s : State) (n : Nat) (f : VatCore → VatCore) (j : Nat) : (s.modCore n f).reg j = s.reg j := rfl

@[simp] theorem State.modPort_pending (s : State) (p : Nat) (f : XPort → XPort) : (s.modPort p f).pending = s.pending := rfl
@[simp] theorem State.modPort_tick (s : State) (p : Nat) (f : XPort → XPort) : (s.modPort p f).tick = s.tick := rfl
@[simp] theorem State.modPort_free (s : State) (p : Nat) (f : XPort → XPort) : (s.modPort p f).free = s.free := rfl
@[simp] theorem State.modPort_rdata (s : State) (p : Nat) (f : XPort → XPort) : (s.modPort p f).rdata = s.rdata := rfl
@[simp] theorem State.modPort_mainClk (s : State) (p : Nat) (f : XPort → XPort) : (s.modPort p f).mainClk = s.mainClk := rfl
@[simp] theorem State.modPort_rclkOn (s : State) (p : Nat) (f : XPort → XPort) : (s.modPort p f).rclkOn = s.rclkOn := rfl
@[simp] theorem State.modPort_rphase (s : State) (p : Nat) (f : XPort → XPort) : (s.modPort p f).rphase = s.rphase := rfl
@[simp] theorem State.modPort_rclk (s : State) (p : Nat) (f : XPort → XPort) : (s.modPort p f).rclk = s.rclk := rfl
@[simp] theorem State.modPort_regs (s : State) (p : Nat) (f : XPort → XPort) : (s.modPort p f).regs = s.regs := rfl
@[simp] theorem State.modPort_logs (s : State) (p : Nat) (f : XPort → XPort) : (s.modPort p f).logs = s.logs := rfl
@[simp] theorem State.modPort_mem (s : State) (p : Nat) (f : XPort → XPort) : (s.modPort p f).mem = s.mem := rfl
@[simp] theorem State.modPort_poison (s : State) (p : Nat) (f : XPort → XPort) : (s.modPort p f).poison = s.poison := rfl
@[simp] theorem State.modPort_upset (s : State) (p : Nat) (f : XPort → XPort) : (s.modPort p f).upset = s.upset := rfl
@[simp] theorem State.modPort_cells (s : State) (p : Nat) (f : XPort → XPort) : (s.modPort p f).cells = s.cells := rfl
@[simp] theorem State.modPort_tb (s : State) (p : Nat) (f : XPort → XPort) : (s.modPort p f).tb = s.tb := rfl
@[simp] theorem State.modPort_evr (s : State) (p : Nat) (f : XPort → XPort) : (s.modPort p f).evr = s.evr := rfl
@[simp] theorem State.modPort_line (s : State) (p : Nat) (f : XPort → XPort) : (s.modPort p f).line = s.line := rfl
@[simp] theorem State.modPort_auth (s : State) (p : Nat) (f : XPort → XPort) : (s.modPort p f).auth = s.auth := rfl
@[simp] theorem State.modPort_safe (s : State) (p : Nat) (f : XPort → XPort) : (s.modPort p f).safe = s.safe := rfl
@[simp] theorem State.modPort_hostEvent (s : State) (p : Nat) (f : XPort → XPort) : (s.modPort p f).hostEvent = s.hostEvent := rfl
@[simp] theorem State.modPort_frt (s : State) (p : Nat) (f : XPort → XPort) : (s.modPort p f).frt = s.frt := rfl
@[simp] theorem State.modPort_vats (s : State) (p : Nat) (f : XPort → XPort) : (s.modPort p f).vats = s.vats := rfl
@[simp] theorem State.modPort_mig (s : State) (p : Nat) (f : XPort → XPort) : (s.modPort p f).mig = s.mig := rfl
@[simp] theorem State.modPort_harp (s : State) (p : Nat) (f : XPort → XPort) : (s.modPort p f).harp = s.harp := rfl
@[simp] theorem State.modPort_harpShare (s : State) (p : Nat) (f : XPort → XPort) : (s.modPort p f).harpShare = s.harpShare := rfl
@[simp] theorem State.modPort_walkers (s : State) (p : Nat) (f : XPort → XPort) : (s.modPort p f).walkers = s.walkers := rfl
@[simp] theorem State.modPort_swaps (s : State) (p : Nat) (f : XPort → XPort) : (s.modPort p f).swaps = s.swaps := rfl
@[simp] theorem State.modPort_ing (s : State) (p : Nat) (f : XPort → XPort) : (s.modPort p f).ing = s.ing := rfl
@[simp] theorem State.modPort_fus (s : State) (p : Nat) (f : XPort → XPort) : (s.modPort p f).fus = s.fus := rfl
@[simp] theorem State.modPort_slv (s : State) (p : Nat) (f : XPort → XPort) : (s.modPort p f).slv = s.slv := rfl
@[simp] theorem State.modPort_pln (s : State) (p : Nat) (f : XPort → XPort) : (s.modPort p f).pln = s.pln := rfl
@[simp] theorem State.modPort_lp (s : State) (p : Nat) (f : XPort → XPort) : (s.modPort p f).lp = s.lp := rfl
@[simp] theorem State.modPort_tsn (s : State) (p : Nat) (f : XPort → XPort) : (s.modPort p f).tsn = s.tsn := rfl
@[simp] theorem State.modPort_fbx (s : State) (p : Nat) (f : XPort → XPort) : (s.modPort p f).fbx = s.fbx := rfl
@[simp] theorem State.modPort_wd (s : State) (p : Nat) (f : XPort → XPort) : (s.modPort p f).wd = s.wd := rfl
@[simp] theorem State.modPort_diag (s : State) (p : Nat) (f : XPort → XPort) : (s.modPort p f).diag = s.diag := rfl
@[simp] theorem State.modPort_pwr (s : State) (p : Nat) (f : XPort → XPort) : (s.modPort p f).pwr = s.pwr := rfl
@[simp] theorem State.modPort_trace (s : State) (p : Nat) (f : XPort → XPort) : (s.modPort p f).trace = s.trace := rfl
@[simp] theorem State.modPort_traceDrop (s : State) (p : Nat) (f : XPort → XPort) : (s.modPort p f).traceDrop = s.traceDrop := rfl
@[simp] theorem State.modPort_msix (s : State) (p : Nat) (f : XPort → XPort) : (s.modPort p f).msix = s.msix := rfl
@[simp] theorem State.modPort_cg (s : State) (p : Nat) (f : XPort → XPort) : (s.modPort p f).cg = s.cg := rfl
@[simp] theorem State.modPort_firm (s : State) (p : Nat) (f : XPort → XPort) : (s.modPort p f).firm = s.firm := rfl
@[simp] theorem State.modPort_keep (s : State) (p : Nat) (f : XPort → XPort) : (s.modPort p f).keep = s.keep := rfl
@[simp] theorem State.modPort_start (s : State) (p : Nat) (f : XPort → XPort) : (s.modPort p f).start = s.start := rfl
@[simp] theorem State.modPort_snapCmp (s : State) (p : Nat) (f : XPort → XPort) : (s.modPort p f).snapCmp = s.snapCmp := rfl
@[simp] theorem State.modPort_obs (s : State) (p : Nat) (f : XPort → XPort) : (s.modPort p f).obs = s.obs := rfl
@[simp] theorem State.modPort_now (s : State) (p : Nat) (f : XPort → XPort) : (s.modPort p f).now = s.now := rfl
@[simp] theorem State.modPort_reg (s : State) (p : Nat) (f : XPort → XPort) (j : Nat) : (s.modPort p f).reg j = s.reg j := rfl

/-! ### What reads after writes -/

/-- The register written holds the value; every other is unchanged. -/
theorem State.setReg_reg {s : State} {k j v : Nat} (h : mapWf 0 s.regs = true) : (s.setReg k v).reg j = if j = k then v else s.reg j :=
  mapGet_mapSet h

theorem State.setRegBits_reg {s : State} {k j hi lo v : Nat} (h : mapWf 0 s.regs = true) :
    (s.setRegBits k hi lo v).reg j = if j = k then putBits (s.reg k) hi lo v else s.reg j := mapGet_mapSet h

theorem State.setRegBit_reg {s : State} {k j i : Nat} (h : mapWf 0 s.regs = true) :
    (s.setRegBit k i).reg j = if j = k then putBit (s.reg k) i true else s.reg j := mapGet_mapSet h

theorem State.bumpBy_reg {s : State} {k j n : Nat} (h : mapWf 0 s.regs = true) :
    (s.bumpBy k n).reg j = if j = k then (s.reg k + n) % 2 ^ 32 else s.reg j := mapGet_mapSet h

theorem State.bump_reg {s : State} {k j : Nat} (h : mapWf 0 s.regs = true) :
    (s.bump k).reg j = if j = k then (s.reg k + 1) % 2 ^ 32 else s.reg j := mapGet_mapSet h

theorem State.hwSetBit_reg {s : State} {k j i : Nat} (h : mapWf 0 s.regs = true) :
    (s.hwSetBit k i).reg j = if j = k then putBit (s.reg k) i true else s.reg j := mapGet_mapSet h

/-- A write of a register keeps the register file canonical. -/
theorem State.setReg_wf {s : State} {k v : Nat} (h : mapWf 0 s.regs = true) : mapWf 0 (s.setReg k v).regs = true := mapWf_mapSet h

/-- A stored byte reads back; every byte outside the stored ones is unchanged. -/
theorem State.store_byte {s : State} {a i : Nat} {l : List Byte} (h : memWf s.mem = true) (hi : i < l.length) : memByte (s.store a l).mem (a + i) = l[i] :=
  memByte_memStore h hi

theorem State.store_byte_outside {s : State} {a x : Nat} {l : List Byte} (h : memWf s.mem = true) (hx : x < a ∨ a + l.length ≤ x) :
    memByte (s.store a l).mem x = memByte s.mem x := memByte_memStore_outside h hx

theorem State.storePoisoned_byte {s : State} {a i : Nat} {l : List Byte} (h : memWf s.mem = true) (hi : i < l.length) :
    memByte (s.storePoisoned a l).mem (a + i) = l[i] := memByte_memStore h hi

theorem State.storePoisoned_byte_outside {s : State} {a x : Nat} {l : List Byte} (h : memWf s.mem = true) (hx : x < a ∨ a + l.length ≤ x) :
    memByte (s.storePoisoned a l).mem x = memByte s.mem x := memByte_memStore_outside h hx

/-- Every store keeps memory canonical. -/
theorem State.store_wf {s : State} {a : Nat} {l : List Byte} (h : memWf s.mem = true) : memWf (s.store a l).mem = true := memWf_memStore h

theorem State.storePoisoned_wf {s : State} {a : Nat} {l : List Byte} (h : memWf s.mem = true) : memWf (s.storePoisoned a l).mem = true := memWf_memStore h

/-- A sync cell set holds its value modulo 2^64; every other cell is unchanged. -/
theorem State.setCell_cell {s : State} {n k m j v : Nat} (h : mapWf 0 s.cells = true) :
    (s.setCell n k v).cell m j = if cellKey m j = cellKey n k then v % 2 ^ 64 else s.cell m j := mapGet_mapSet h

end Sys2Proof.Machine
end

