-- ==== Sys2Proof/Laws/Issue.lean ====
section
/-! SUPPORT. What the issue of a slot operation does: the long word it opens, and the state it leaves where it is ready, where its guard does not
hold, and where it faults (03 R80, R85, R86). -/

namespace Sys2Proof.Machine

theorem listModify_getD_same {α : Type} (f : α → α) (l : List α) (i : Nat) (d : α) (h : i < l.length) :
    (listModify f l i).getD i d = f (l.getD i d) := by
  induction l generalizing i with
  | nil => simp at h
  | cons a l ih =>
    cases i with
    | zero => rfl
    | succ i => simpa [listModify] using ih i (by simpa using h)

theorem listModify_getD_other {α : Type} (f : α → α) (l : List α) (i j : Nat) (d : α) (h : j ≠ i) :
    (listModify f l i).getD j d = l.getD j d := by
  induction l generalizing i j with
  | nil => rfl
  | cons a l ih =>
    cases i with
    | zero => cases j with
      | zero => exact absurd rfl h
      | succ j => rfl
    | succ i => cases j with
      | zero => rfl
      | succ j => simpa [listModify] using ih i j (by simpa using h)

theorem listModify_listModify {α : Type} (f g : α → α) (l : List α) (i : Nat) :
    listModify g (listModify f l i) i = listModify (fun a => g (f a)) l i := by
  induction l generalizing i with
  | nil => rfl
  | cons a l ih => cases i with
    | zero => rfl
    | succ i => simp [listModify, ih]

theorem State.modVat_same (s : State) (v : Nat) (f : Vat → Vat) (h : v < s.vats.length) : (s.modVat v f).vat v = f (s.vat v) :=
  listModify_getD_same f s.vats v _ h

theorem State.modVat_other (s : State) (v u : Nat) (f : Vat → Vat) (h : u ≠ v) : (s.modVat v f).vat u = s.vat u :=
  listModify_getD_other f s.vats v u _ h

/-- A Vat that issues is one of the Vats. -/
theorem State.vat_of_canIssue {s : State} {v slot : Nat} (h : (s.vat v).canIssue slot = true) : v < s.vats.length := by
  rcases Nat.lt_or_ge v s.vats.length with g | g
  · exact g
  · have e : s.vat v = Vat.reset := by simp [State.vat, List.getD, List.getElem?_eq_none g]
    rw [e] at h; simp [Vat.canIssue, Vat.wordDue, Vat.reset] at h

theorem State.act_vats (s : State) (q i n : Nat) : (s.act q i n).vats = s.vats := by
  unfold State.act; split <;> rfl

theorem State.act_only (s : State) (q i n : Nat) (f : Part) (h : f ≠ .pwr) : f.same s (s.act q i n) := by
  unfold State.act; split
  · exact f.same_refl s
  · cases f <;> first | rfl | exact absurd rfl h

theorem State.act_pending (s : State) (q i n : Nat) : (s.act q i n).pending = s.pending := by
  unfold State.act; split <;> rfl

/-- What Only says, for one part. -/
theorem Only.part {l : List Part} {s t : State} (h : Only l s t) (f : Part) (hn : f ≠ .now) (hf : f ∉ l) : f.same s t := h.2 f hn hf

theorem Only.refl (l : List Part) (s : State) : Only l s s := ⟨rfl, fun f _ _ => f.same_refl s⟩

theorem Only.trans {l : List Part} {s t u : State} (h : Only l s t) (g : Only l t u) : Only l s u :=
  ⟨g.1.trans h.1, fun f hn hf => Part.same_trans (h.2 f hn hf) (g.2 f hn hf)⟩

theorem Only.mono {l m : List Part} {s t : State} (h : Only l s t) (g : ∀ f, f ∈ l → f ∈ m) : Only m s t :=
  ⟨h.1, fun f hn hf => h.2 f hn (fun x => hf (g f x))⟩

/-- The promise of a state about its own successors: the parts of l may change, and the marks of the present cycle. -/
def State.promise (s : State) (l : List Part) : Promise := ⟨s.pending, s.keep, false, false, s, fun f => decide (f = .now ∨ f ∈ l)⟩

theorem State.promise_kept {s : State} (h : s.canonical = true) (l : List Part) : s.Kept (s.promise l) :=
  { queue := rfl
    form := h
    fuses := by simp [State.promise, Keep.fusesLe]
    safeStays := by simp [State.promise]
    outside := by simp [State.promise]
    frame := fun f _ => f.same_refl s }

theorem State.Kept.only {s t : State} {l : List Part} (h : t.Kept (s.promise l)) : Only l s t :=
  ⟨h.queue, fun f hn hf => h.frame f (by simp [State.promise, hn, hf])⟩

theorem State.modVat_only (s : State) (v : Nat) (f : Vat → Vat) : Only [.vats] s (s.modVat v f) :=
  ⟨rfl, fun g _ hg => by cases g <;> first | rfl | exact absurd (by simp) hg⟩

theorem State.vatAct_vats (s : State) (v i n : Nat) : (s.vatAct v i n).vats = s.vats := s.act_vats _ _ _

theorem State.vatAct_only (s : State) (v i n : Nat) : Only [.pwr] s (s.vatAct v i n) :=
  ⟨s.act_pending _ _ _, fun f _ hf => s.act_only _ _ _ f (fun h => hf (by simp [h]))⟩

theorem State.issueAct_vats (s : State) (v slot : Nat) (r : List (Nat × Nat)) (n : Nat) : (s.issueAct v slot r n).vats = s.vats := by
  unfold State.issueAct
  simp only [State.vatAct_vats]
  split <;> split <;> simp only [State.vatAct_vats]

theorem State.issueAct_only (s : State) (v slot : Nat) (r : List (Nat × Nat)) (n : Nat) : Only [.pwr] s (s.issueAct v slot r n) := by
  unfold State.issueAct
  refine Only.trans ?_ (State.vatAct_only ..)
  split <;> split <;> first
    | exact Only.refl _ _
    | exact State.vatAct_only ..
    | exact (State.vatAct_only ..).trans (State.vatAct_only ..)

/-- Opening a long word leaves the registers, the predicates and the rest of the core but its next cycle. -/
theorem Vat.openWord_preds (t : Vat) : t.openWord.core.preds = t.core.preds := by
  unfold Vat.openWord; split <;> rfl

theorem Vat.openWord_cyc (t : Vat) : t.openWord.cyc = t.cyc := by
  unfold Vat.openWord; split <;> rfl

theorem State.issuer_eq {s : State} {v slot : Nat} (h : v < s.vats.length) :
    s.issuer v slot = { (s.vat v).openWord with lw := some (slot :: (s.vat v).openWord.lw.getD []) } := by
  unfold State.issuer State.begun
  rw [State.modVat_same _ _ _ (by rw [State.modVat_vats, listModify_length]; exact h), State.modVat_same _ _ _ h]

theorem State.issuer_cyc {s : State} {v slot : Nat} (h : v < s.vats.length) : (s.issuer v slot).cyc = (s.vat v).cyc := by
  rw [State.issuer_eq h]; exact Vat.openWord_cyc _

theorem State.issuer_preds {s : State} {v slot : Nat} (h : v < s.vats.length) :
    (s.issuer v slot).core.preds = (s.vat v).core.preds := by
  rw [State.issuer_eq h]; exact Vat.openWord_preds _

theorem State.begun_length (s : State) (v slot : Nat) : (s.begun v slot).vats.length = s.vats.length := by
  unfold State.begun; simp only [State.modVat_vats, listModify_length]

theorem State.begun_other {s : State} {v u slot : Nat} (h : u ≠ v) : (s.begun v slot).vat u = s.vat u := by
  unfold State.begun; rw [State.modVat_other _ _ _ _ h, State.modVat_other _ _ _ _ h]

theorem State.begun_only (s : State) (v slot : Nat) : Only [.vats] s (s.begun v slot) :=
  (State.modVat_only ..).trans (State.modVat_only ..)

theorem State.begun_canonical {s : State} {v slot : Nat} (h : s.canonical = true) : (s.begun v slot).canonical = true :=
  (State.modVat_kept (State.modVat_kept (State.promise_kept h [.vats]) rfl) rfl).form

/-- The fetch check reads nothing of the Vat. -/
theorem State.pcOk_modVat (s : State) (v : Nat) (f : Vat → Vat) (pc : Nat) : (s.modVat v f).pcOk v pc = s.pcOk v pc := rfl

/-- The fetch of a long word without an error changes nothing. -/
theorem State.fetchRead_whole {s : State} {v : Nat} (h : s.fetchWhole v = true) (f : Vat → Vat) :
    (s.modVat v f).fetchBad v (s.vat v).core.pc = false ∧ (s.modVat v f).fetchRead v (s.vat v).core.pc = s.modVat v f := by
  simp only [State.fetchWhole, List.all_eq_true, Bool.and_eq_true, Bool.not_eq_true'] at h
  have hu : (wordsOf (pondAddr v (s.vat v).core.pc) 128).filter (fun w => s.upset.contains w) = [] :=
    List.filter_eq_nil_iff.2 fun w hw => by rw [(h w hw).1]; decide
  have hp : (wordsOf (pondAddr v (s.vat v).core.pc) 128).filter (fun w => s.poison.contains w) = [] :=
    List.filter_eq_nil_iff.2 fun w hw => by rw [(h w hw).2]; decide
  constructor
  · show (wordsOf _ 128).any (fun w => s.poison.contains w) = false
    exact List.any_eq_false.2 fun w hw => by rw [(h w hw).2]; decide
  · unfold State.fetchRead State.eccRead
    show List.foldl _ (List.foldl _ _ ((wordsOf _ 128).filter (fun w => s.upset.contains w))) ((wordsOf _ 128).filter (fun w => s.poison.contains w)) = _
    rw [hu, hp]; rfl

/-- The issue of a slot that may issue: illegal, withheld by its guard, faulting or executing. -/
theorem State.issue_open {s : State} {v slot : Nat} {w : BitVec 56} {illegal : VatCore → Bool} {reads : VatCore → List (Nat × Nat)}
    {act : State → Vat → Sum Nat VatCore} (h : s.SlotOpen v slot) :
    s.issue v slot w illegal reads act =
      let u := s.begun v slot
      let c := (s.issuer v slot).core
      if illegal c then u.issueFault v slot fIllegal
      else if !guardHolds c.preds (oPred w) (oNeg w) then u
      else
        let ecc (x : State) : State := (reads c).foldl (fun x r => x.eccRead (pondAddr v r.1) r.2 (x.runPart v) (vatDoubt x v)) x
        match act u (s.issuer v slot) with
        | .inl code => (if code = fPoison then ecc u else u).issueFault v slot code
        | .inr c' => ((ecc u).modVat v (fun t => { t with core := c' })).issueAct v slot (reads c) (s.vat v).cyc := by
  unfold State.issue
  simp only [h.slot, Bool.not_true, Bool.false_eq_true, if_false, State.pcOk_modVat]
  cases hl : (s.vat v).lw with
  | some l => rfl
  | none =>
    have f := State.fetchRead_whole (h.whole hl) Vat.openWord
    simp only [Option.isNone_none, Bool.true_and, h.pc hl, f.1, f.2, Bool.not_true, Bool.false_eq_true, if_false, if_true]
    rfl

/-- An operation that reads nothing and may execute leaves the core its action gives. -/
theorem State.issue_runs {s : State} {v slot : Nat} {w : BitVec 56} {illegal : VatCore → Bool}
    {act : State → Vat → Sum Nat VatCore} {c : VatCore} (h : s.Ready v slot w) (hi : illegal (s.issuer v slot).core = false)
    (ha : act (s.begun v slot) (s.issuer v slot) = .inr c) :
    s.Issued v slot [] c (s.issue v slot w illegal (fun _ => []) act) := by
  have hv := State.vat_of_canIssue h.slot.slot
  rw [State.issue_open h.slot]
  simp only [hi, Bool.false_eq_true, if_false, State.issuer_preds hv, h.guard, Bool.not_true, ha, List.foldl_nil]
  refine ⟨?_, ?_, ?_⟩
  · rw [State.vat, State.issueAct_vats]
    exact State.modVat_same _ _ _ (by rw [State.begun_length]; exact hv)
  · intro u hu
    rw [State.vat, State.issueAct_vats]
    exact (State.modVat_other _ _ _ _ hu).trans (State.begun_other hu)
  · refine Only.trans (Only.trans ?_ (Only.mono (State.modVat_only ..) ?_)) (Only.mono (State.issueAct_only ..) ?_)
    · exact Only.mono (State.begun_only ..) (by simp)
    · simp
    · simp

/-- A guard that does not hold: the long word has the slot and nothing else has changed (03 R86). -/
theorem State.issue_withheld {s : State} {v slot : Nat} {w : BitVec 56} {illegal : VatCore → Bool} {reads : VatCore → List (Nat × Nat)}
    {act : State → Vat → Sum Nat VatCore} (h : s.SlotOpen v slot) (hi : illegal (s.issuer v slot).core = false)
    (hg : guardHolds (s.vat v).core.preds (oPred w) (oNeg w) = false) : s.issue v slot w illegal reads act = s.begun v slot := by
  rw [State.issue_open h]
  simp only [hi, Bool.false_eq_true, if_false, State.issuer_preds (State.vat_of_canIssue h.slot), hg, Bool.not_false, if_true]


theorem State.correct_only {s : State} {l : List Nat} {p : Promise} (h : s.Kept p) (_ : p.mays correctParts) (hn : p.may .now = true) :
    (l.foldl State.correct s).Kept p := by
  have hm : p.may .regs = true ∧ p.may .upset = true ∧ p.may .evr = true ∧ p.may .hostEvent = true ∧ p.may .msix = true := by
    simpa [Promise.mays, correctParts] using ‹p.mays correctParts›
  induction l generalizing s with
  | nil => exact h
  | cons w l ih => exact ih (State.correct_kept h hm.1 hm.2.1 hm.2.2.1 hm.2.2.2.1 hm.2.2.2.2 hn)

/-- Reading bytes without an uncorrectable word only corrects and counts (05 R160). -/
theorem State.eccRead_kept_whole {s : State} {a n q : Nat} {d : DoubtInfo} {p : Promise} (h : s.Kept p) (hp : s.poisoned a n = false)
    (hm : p.mays correctParts) (hn : p.may .now = true) : (s.eccRead a n q d).Kept p := by
  unfold State.eccRead
  have e : (wordsOf a n).filter (fun w => s.poison.contains w) = [] := by
    simpa [State.poisoned, List.filter_eq_nil_iff, List.any_eq_false] using hp
  simp only [e, List.foldl_nil]
  exact State.correct_only h hm hn


theorem State.Kept.poisoned {s t : State} {p : Promise} (h : t.Kept p) (hb : p.base = s) (hp : p.may .poison = false) (a n : Nat) :
    t.poisoned a n = s.poisoned a n := by
  have e : t.poison = s.poison := hb ▸ h.frame .poison hp
  unfold State.poisoned; rw [e]

/-- Every part of a list may change under a promise that allows a longer one. -/
theorem State.promise_mays (s : State) {l m : List Part} (h : ∀ f, f ∈ m → f = .now ∨ f ∈ l) : (s.promise l).mays m := by
  induction m with
  | nil => trivial
  | cons f m ih => exact ⟨by simp [State.promise, h f (by simp)], ih (fun g hg => h g (by simp [hg]))⟩

/-- An operation that reads whole words and may execute leaves the core its action gives; the words it read are corrected and counted. -/
theorem State.issue_reads {s : State} {v slot : Nat} {w : BitVec 56} {illegal : VatCore → Bool} {reads : VatCore → List (Nat × Nat)}
    {act : State → Vat → Sum Nat VatCore} {c : VatCore} (hc : s.canonical = true) (h : s.Ready v slot w)
    (hi : illegal (s.issuer v slot).core = false) (hr : s.ReadsWhole v (reads (s.issuer v slot).core))
    (ha : act (s.begun v slot) (s.issuer v slot) = .inr c) :
    s.Issued v slot correctParts c (s.issue v slot w illegal reads act) := by
  have hv := State.vat_of_canIssue h.slot.slot
  rw [State.issue_open h.slot]
  simp only [hi, Bool.false_eq_true, if_false, State.issuer_preds hv, h.guard, Bool.not_true, ha]
  generalize hl : reads (s.issuer v slot).core = l at hr ⊢
  have hx : ∀ (m : List (Nat × Nat)) (x : State), (∀ r ∈ m, s.poisoned (pondAddr v r.1) r.2 = false) → x.Kept ((s.begun v slot).promise correctParts) →
      (m.foldl (fun x r => x.eccRead (pondAddr v r.1) r.2 (x.runPart v) (vatDoubt x v)) x).Kept ((s.begun v slot).promise correctParts) := by
    intro m
    induction m with
    | nil => intro x _ k; exact k
    | cons r m ih =>
      intro x hm k
      refine ih _ (fun y hy => hm y (by simp [hy])) (State.eccRead_kept_whole k ?_ (State.promise_mays _ (fun f hf => .inr hf)) (by simp [State.promise]))
      rw [k.poisoned rfl (rfl)]
      exact hm r (by simp)
  have k := hx l _ hr (State.promise_kept (State.begun_canonical hc) correctParts)
  generalize l.foldl (fun x r => x.eccRead (pondAddr v r.1) r.2 (x.runPart v) (vatDoubt x v)) (s.begun v slot) = x at k ⊢
  have o := k.only
  have ev : x.vats = (s.begun v slot).vats := o.2 .vats (by decide) (by decide)
  refine ⟨?_, ?_, ?_⟩
  · rw [State.vat, State.issueAct_vats]
    refine (State.modVat_same _ _ _ (by rw [ev, State.begun_length]; exact hv)).trans ?_
    have : x.vat v = s.issuer v slot := by rw [State.vat, ev]; rfl
    rw [this]
  · intro u hu
    rw [State.vat, State.issueAct_vats]
    refine (State.modVat_other _ _ _ _ hu).trans ?_
    have : x.vat u = (s.begun v slot).vat u := by rw [State.vat, ev]; rfl
    rw [this]; exact State.begun_other hu
  · refine Only.trans (Only.trans (Only.trans (Only.mono (State.begun_only ..) ?_) (Only.mono o ?_)) (Only.mono (State.modVat_only ..) ?_))
      (Only.mono (State.issueAct_only ..) ?_)
    all_goals intro f hf
    all_goals simp only [List.mem_cons, List.not_mem_nil, or_false] at hf ⊢
    · exact .inl hf
    · exact .inr (.inr hf)
    · exact .inl hf
    · exact .inr (.inl hf)

end Sys2Proof.Machine
end

