-- ==== Sys2Proof/Laws/KeptFabric.lean ====
section
/-! SUPPORT. State.Kept through the operations of Machine/Fabric.lean. -/

set_option linter.all false

namespace Sys2Proof.Machine

variable {p : Promise}

theorem State.refuse_kept {s : State} {i : Initiator} {p' : Option Nat} {k : Want} {a : Nat} (h : s.Kept p) (_ : p.may .regs) (_ : p.may .logs) :
    State.Kept p (State.refuse s i p' k a) := by
  unfold State.refuse
  repeat' first
    | with_reducible assumption
    | (intro x; first
        | (refine (have hx : State.Kept p x := ?_; ?_); subst x; rotate_left; clear_value x; rotate_right)
        | (refine (have hx : State.Kept p x.1 := ?_; ?_); subst x; rotate_left; clear_value x; rotate_right)
        | (try clear_value x))
    | lift_lets -underBinder
    | with_reducible apply State.Kept.ite
    | with_reducible apply State.deny_kept
    | split

theorem State.putBytes_kept {s : State} {a : Nat} {l : List Byte} {mask : List Bool} (h : s.Kept p) (_ : p.may .regs) (_ : p.may .mem) (_ : p.may .poison) (_ : p.may .upset) (_ : p.may .evr) (_ : p.may .hostEvent) (_ : p.may .msix) (_ : p.may .now) :
    State.Kept p (State.putBytes s a l mask) := by
  unfold State.putBytes
  repeat' first
    | with_reducible assumption
    | (intro x; first
        | (refine (have hx : State.Kept p x := ?_; ?_); subst x; rotate_left; clear_value x; rotate_right)
        | (refine (have hx : State.Kept p x.1 := ?_; ?_); subst x; rotate_left; clear_value x; rotate_right)
        | (try clear_value x))
    | lift_lets -underBinder
    | with_reducible apply State.Kept.ite
    | with_reducible apply State.Kept.foldl
    | with_reducible apply State.Kept.foldl_fst
    | with_reducible apply State.store_kept
    | with_reducible apply State.mend_kept
    | (with_reducible apply State.Kept.upd_poison <;> with_reducible assumption)
    | split

theorem State.modLeaf_kept {s : State} {page : Nat} {f : Nat → Nat} (h : s.Kept p) (_ : p.may .mem) (_ : p.may .poison) (_ : p.may .upset) :
    State.Kept p (State.modLeaf s page f) := by
  unfold State.modLeaf
  repeat' first
    | with_reducible assumption
    | (intro x; first
        | (refine (have hx : State.Kept p x := ?_; ?_); subst x; rotate_left; clear_value x; rotate_right)
        | (refine (have hx : State.Kept p x.1 := ?_; ?_); subst x; rotate_left; clear_value x; rotate_right)
        | (try clear_value x))
    | lift_lets -underBinder
    | with_reducible apply State.Kept.ite
    | with_reducible apply State.storeLE_kept
    | split

theorem State.sendUpdate_kept {s : State} {entry : Nat} {v : Nat} (h : s.Kept p) (_ : p.may .mig) :
    State.Kept p (State.sendUpdate s entry v) := by
  unfold State.sendUpdate
  exact State.Kept.upd_mig h (by assumption)

theorem State.holdRead_kept {s : State} {who : Waiter} {i : Initiator} {p' : Nat} {a : Nat} {n : Nat} {deadline : Option Nat} {seen : Bool} (h : s.Kept p) (_ : p.may .mig) :
    State.Kept p (State.holdRead s who i p' a n deadline seen) := by
  unfold State.holdRead
  exact State.Kept.upd_mig h (by assumption)

theorem State.unsee_kept {s : State} {page : Nat} (h : s.Kept p) (_ : p.may .mig) :
    State.Kept p (State.unsee s page) := by
  unfold State.unsee
  repeat' first
    | with_reducible assumption
    | with_reducible apply State.Kept.ite
    | (with_reducible apply State.Kept.upd_mig <;> with_reducible assumption)
    | split

theorem State.withdraw_kept {s : State} {page : Nat} {f : Nat} {p' : Nat} (h : s.Kept p) (_ : p.may .regs) (_ : p.may .logs) (_ : p.may .mem) (_ : p.may .poison) (_ : p.may .upset) (_ : p.may .mig) :
    State.Kept p (State.withdraw s page f p') := by
  unfold State.withdraw
  repeat' first
    | with_reducible assumption
    | (intro x; first
        | (refine (have hx : State.Kept p x := ?_; ?_); subst x; rotate_left; clear_value x; rotate_right)
        | (refine (have hx : State.Kept p x.1 := ?_; ?_); subst x; rotate_left; clear_value x; rotate_right)
        | (try clear_value x))
    | lift_lets -underBinder
    | with_reducible apply State.bump_kept
    | with_reducible apply State.unsee_kept
    | with_reducible apply State.pushLog_kept
    | with_reducible apply State.modLeaf_kept
    | with_reducible apply State.sendUpdate_kept
    | (with_reducible apply State.Kept.upd_poison_mig <;> with_reducible assumption)

theorem State.withdrawAt_kept {s : State} {a : Nat} {n : Nat} {p' : Nat} (h : s.Kept p) (_ : p.may .regs) (_ : p.may .logs) (_ : p.may .mem) (_ : p.may .poison) (_ : p.may .upset) (_ : p.may .mig) :
    State.Kept p (State.withdrawAt s a n p') := by
  unfold State.withdrawAt
  repeat' first
    | with_reducible assumption
    | (intro x; first
        | (refine (have hx : State.Kept p x := ?_; ?_); subst x; rotate_left; clear_value x; rotate_right)
        | (refine (have hx : State.Kept p x.1 := ?_; ?_); subst x; rotate_left; clear_value x; rotate_right)
        | (try clear_value x))
    | lift_lets -underBinder
    | with_reducible apply State.Kept.ite
    | with_reducible apply State.Kept.foldl
    | with_reducible apply State.Kept.foldl_fst
    | with_reducible apply State.withdraw_kept
    | split

theorem State.readPart_kept {s : State} {who : Waiter} {i : Initiator} {p' : Nat} {a : Nat} {n : Nat} {deadline : Option Nat} (h : s.Kept p) (_ : p.may .regs) (_ : p.may .logs) (_ : p.may .mem) (_ : p.may .poison) (_ : p.may .upset) (_ : p.may .evr) (_ : p.may .line) (_ : p.may .auth) (_ : p.may .safe) (_ : p.may .hostEvent) (_ : p.may .mig) (_ : p.may .fbx) (_ : p.may .trace) (_ : p.may .traceDrop) (_ : p.may .msix) (_ : p.may .firm) (_ : p.may .now) :
    State.Kept p (State.readPart s who i p' a n deadline).1 := by
  unfold State.readPart
  repeat' first
    | with_reducible assumption
    | with_reducible apply State.Kept.ite
    | with_reducible apply State.eccRead_kept
    | with_reducible apply State.holdRead_kept
    | with_reducible apply State.withdraw_kept
    | split

end Sys2Proof.Machine
end

