-- ==== Sys2Proof/Laws/KeptPost.lean ====
section
/-! SUPPORT. State.Kept through the operations of Machine/Post.lean. -/

set_option linter.all false

namespace Sys2Proof.Machine

variable {p : Promise}

theorem State.postNow_kept {s : State} {x' : Post} (h : s.Kept p) (_ : p.may .regs) (_ : p.may .mem) (_ : p.may .poison) (_ : p.may .upset) (_ : p.may .cells) (_ : p.may .evr) (_ : p.may .hostEvent) (_ : p.may .pwr) (_ : p.may .msix) (_ : p.may .now) :
    State.Kept p (State.postNow s x') := by
  unfold State.postNow
  repeat' first
    | with_reducible assumption
    | with_reducible apply State.store_kept
    | with_reducible apply State.cellOp_kept
    | with_reducible apply State.actHub_kept
    | with_reducible apply State.mend_kept
    | split

theorem State.postPut_kept {s : State} {x' : Post} (h : s.Kept p) (_ : p.may .regs) (_ : p.may .mem) (_ : p.may .poison) (_ : p.may .upset) (_ : p.may .cells) (_ : p.may .evr) (_ : p.may .hostEvent) (_ : p.may .mig) (_ : p.may .pwr) (_ : p.may .msix) (_ : p.may .now) :
    State.Kept p (State.postPut s x') := by
  unfold State.postPut
  repeat' first
    | with_reducible assumption
    | with_reducible apply State.Kept.ite
    | with_reducible apply State.postNow_kept
    | (with_reducible apply State.Kept.upd_mig <;> with_reducible assumption)
    | split

theorem State.postsCycle_kept {s : State} (h : s.Kept p) (_ : p.may .regs) (_ : p.may .mem) (_ : p.may .poison) (_ : p.may .upset) (_ : p.may .cells) (_ : p.may .evr) (_ : p.may .hostEvent) (_ : p.may .mig) (_ : p.may .pwr) (_ : p.may .msix) (_ : p.may .now) :
    State.Kept p (State.postsCycle s) := by
  unfold State.postsCycle
  repeat' first
    | with_reducible assumption
    | (intro x; first
        | (refine (have hx : State.Kept p x := ?_; ?_); subst x; rotate_left; clear_value x; rotate_right)
        | (refine (have hx : State.Kept p x.1 := ?_; ?_); subst x; rotate_left; clear_value x; rotate_right)
        | (try clear_value x))
    | lift_lets -underBinder
    | with_reducible apply State.Kept.ite
    | with_reducible apply State.Kept.foldl
    | with_reducible apply State.Kept.foldl_fst
    | with_reducible apply State.postPut_kept
    | (with_reducible apply State.Kept.upd_mig <;> with_reducible assumption)
    | split

theorem State.postCell_kept {s : State} {i : Initiator} {p' : Nat} {a : Nat} {op : CellOp} (h : s.Kept p) (_ : p.may .regs) (_ : p.may .logs) (_ : p.may .mem) (_ : p.may .poison) (_ : p.may .upset) (_ : p.may .cells) (_ : p.may .evr) (_ : p.may .hostEvent) (_ : p.may .mig) (_ : p.may .pwr) (_ : p.may .msix) (_ : p.may .now) :
    State.Kept p (State.postCell s i p' a op) := by
  unfold State.postCell
  repeat' first
    | with_reducible assumption
    | with_reducible apply State.Kept.ite
    | with_reducible apply State.refuse_kept
    | with_reducible apply State.postPut_kept
    | split

theorem State.postWrite_kept {s : State} {i : Initiator} {p' : Nat} {a : Nat} {l : List Byte} (h : s.Kept p) (_ : p.may .regs) (_ : p.may .logs) (_ : p.may .mem) (_ : p.may .poison) (_ : p.may .upset) (_ : p.may .cells) (_ : p.may .evr) (_ : p.may .hostEvent) (_ : p.may .mig) (_ : p.may .pwr) (_ : p.may .msix) (_ : p.may .now) :
    State.Kept p (State.postWrite s i p' a l) := by
  unfold State.postWrite
  repeat' first
    | with_reducible assumption
    | with_reducible apply State.Kept.ite
    | with_reducible apply State.refuse_kept
    | with_reducible apply State.postPut_kept
    | split

end Sys2Proof.Machine
end

