-- ==== Sys2Proof/Laws/KeptXslSend.lean ====
section
/-! SUPPORT. State.Kept through the operations of Machine/XslSend.lean. -/

set_option linter.all false

namespace Sys2Proof.Machine

variable {p : Promise}

theorem State.takeTag_kept {s : State} (h : s.Kept p) (_ : p.may .xsl) :
    ∀ r_, (State.takeTag s) = some r_ → State.Kept p r_.2 := by
  intro t e
  unfold State.takeTag at e
  try dsimp only at e
  repeat' (first | (cases e; done) | split at e)
  all_goals (try cases e)
  repeat' first
    | with_reducible assumption
    | with_reducible apply State.Kept.ite
    | (with_reducible apply State.Kept.upd_xsl <;> with_reducible assumption)
    | split

theorem State.sendMsg_kept {s : State} {who : Waiter} {dst : Nat} {gen : Nat} {addr : Nat} {data : Option (List Byte)} {value : Nat} {set : Bool} {poison : Bool} (h : s.Kept p) (_ : p.may .xsl) :
    ∀ r_, (State.sendMsg s who dst gen addr data value set poison) = some r_ → State.Kept p r_ := by
  intro t e
  unfold State.sendMsg at e
  try dsimp only at e
  repeat' (first | (cases e; done) | split at e)
  all_goals (try cases e)
  repeat' first
    | with_reducible assumption
    | (intro x; first
        | (refine (have hx : State.Kept p x := ?_; ?_); subst x; rotate_left; clear_value x; rotate_right)
        | (refine (have hx : State.Kept p x.1 := ?_; ?_); subst x; rotate_left; clear_value x; rotate_right)
        | (try clear_value x))
    | lift_lets -underBinder
    | with_reducible apply State.Kept.ite
    | with_reducible apply State.Kept.foldl
    | with_reducible apply State.Kept.foldl_fst
    | with_reducible apply State.modPort_kept
    | (with_reducible refine State.takeTag_kept ?_ (by assumption) _ (by assumption))
    | (with_reducible apply State.Kept.upd_xsl <;> (first
      | with_reducible assumption
      | (intro _; with_reducible rfl)
      | (intro _; decide)
      | with_reducible apply State.modPort_kept
      | (with_reducible refine State.takeTag_kept ?_ (by assumption) _ (by assumption))))
    | split

end Sys2Proof.Machine
end

