-- ==== Sys2Proof/Laws/KeptVatMover.lean ====
section
/-! SUPPORT. State.Kept through the operations of Machine/VatMover.lean. -/

set_option linter.all false

namespace Sys2Proof.Machine

variable {p : Promise}

theorem mpushEffect_kept {v : VatNo} {m : Fin 2} {w : BitVec 56} {x' : W64} {s : State} (h : s.Kept p) (_ : p.may .regs) (_ : p.may .logs) (_ : p.may .mem) (_ : p.may .poison) (_ : p.may .upset) (_ : p.may .evr) (_ : p.may .line) (_ : p.may .auth) (_ : p.may .safe) (_ : p.may .hostEvent) (_ : p.may .frt) (_ : p.may .vats) (_ : p.may .mig) (_ : p.may .walkers) (_ : p.may .xsl) (_ : p.may .fbx) (_ : p.may .diag) (_ : p.may .pwr) (_ : p.may .trace) (_ : p.may .traceDrop) (_ : p.may .msix) (_ : p.may .firm) (_ : p.may .now) :
    State.Kept p (mpushEffect v m w x' s) := by
  unfold mpushEffect
  repeat' first
    | with_reducible assumption
    | (intro x; first
        | (refine (have hx : State.Kept p x := ?_; ?_); subst x; rotate_left; clear_value x; rotate_right)
        | (refine (have hx : State.Kept p x.1 := ?_; ?_); subst x; rotate_left; clear_value x; rotate_right)
        | (try clear_value x))
    | lift_lets -underBinder
    | with_reducible apply State.Kept.ite
    | with_reducible apply State.issue_kept
    | split

theorem mcntEffect_kept {v : VatNo} {m : Fin 2} {w : BitVec 56} {s : State} (h : s.Kept p) (_ : p.may .regs) (_ : p.may .logs) (_ : p.may .mem) (_ : p.may .poison) (_ : p.may .upset) (_ : p.may .evr) (_ : p.may .line) (_ : p.may .auth) (_ : p.may .safe) (_ : p.may .hostEvent) (_ : p.may .frt) (_ : p.may .vats) (_ : p.may .mig) (_ : p.may .walkers) (_ : p.may .xsl) (_ : p.may .fbx) (_ : p.may .diag) (_ : p.may .pwr) (_ : p.may .trace) (_ : p.may .traceDrop) (_ : p.may .msix) (_ : p.may .firm) (_ : p.may .now) :
    State.Kept p (mcntEffect v m w s) := by
  unfold mcntEffect
  repeat' first
    | with_reducible assumption
    | (intro x; first
        | (refine (have hx : State.Kept p x := ?_; ?_); subst x; rotate_left; clear_value x; rotate_right)
        | (refine (have hx : State.Kept p x.1 := ?_; ?_); subst x; rotate_left; clear_value x; rotate_right)
        | (try clear_value x))
    | lift_lets -underBinder
    | with_reducible apply State.issue_kept

theorem mstatEffect_kept {v : VatNo} {m : Fin 2} {w : BitVec 56} {s : State} (h : s.Kept p) (_ : p.may .regs) (_ : p.may .logs) (_ : p.may .mem) (_ : p.may .poison) (_ : p.may .upset) (_ : p.may .evr) (_ : p.may .line) (_ : p.may .auth) (_ : p.may .safe) (_ : p.may .hostEvent) (_ : p.may .frt) (_ : p.may .vats) (_ : p.may .mig) (_ : p.may .walkers) (_ : p.may .xsl) (_ : p.may .fbx) (_ : p.may .diag) (_ : p.may .pwr) (_ : p.may .trace) (_ : p.may .traceDrop) (_ : p.may .msix) (_ : p.may .firm) (_ : p.may .now) :
    State.Kept p (mstatEffect v m w s) := by
  unfold mstatEffect
  repeat' first
    | with_reducible assumption
    | (intro x; first
        | (refine (have hx : State.Kept p x := ?_; ?_); subst x; rotate_left; clear_value x; rotate_right)
        | (refine (have hx : State.Kept p x.1 := ?_; ?_); subst x; rotate_left; clear_value x; rotate_right)
        | (try clear_value x))
    | lift_lets -underBinder
    | with_reducible apply State.issue_kept

theorem vatFaultInStreamEffect_kept {v : VatNo} {s : State} (h : s.Kept p) (_ : p.may .regs) (_ : p.may .logs) (_ : p.may .mem) (_ : p.may .poison) (_ : p.may .upset) (_ : p.may .evr) (_ : p.may .line) (_ : p.may .auth) (_ : p.may .safe) (_ : p.may .hostEvent) (_ : p.may .frt) (_ : p.may .vats) (_ : p.may .mig) (_ : p.may .walkers) (_ : p.may .xsl) (_ : p.may .fbx) (_ : p.may .diag) (_ : p.may .trace) (_ : p.may .traceDrop) (_ : p.may .msix) (_ : p.may .firm) (_ : p.may .now) :
    State.Kept p (vatFaultInStreamEffect v s) := by
  unfold vatFaultInStreamEffect
  repeat' first
    | with_reducible assumption
    | (intro x; first
        | (refine (have hx : State.Kept p x := ?_; ?_); subst x; rotate_left; clear_value x; rotate_right)
        | (refine (have hx : State.Kept p x.1 := ?_; ?_); subst x; rotate_left; clear_value x; rotate_right)
        | (try clear_value x))
    | lift_lets -underBinder
    | with_reducible apply State.Kept.ite
    | with_reducible apply State.Kept.foldl
    | with_reducible apply State.Kept.foldl_fst
    | with_reducible apply State.recordFault_kept
    | with_reducible apply State.faultEnds_kept
    | split

theorem State.modMover_kept {s : State} {v : Nat} {m : Nat} {f : Mover → Mover} (h : s.Kept p) (_ : p.may .vats) :
    State.Kept p (State.modMover s v m f) := by
  unfold State.modMover
  repeat' first
    | with_reducible assumption
    | with_reducible apply State.modCore_kept

theorem moverQueueEntryEffect_kept {v : VatNo} {m : Fin 2} {s : State} (h : s.Kept p) (_ : p.may .vats) :
    State.Kept p (moverQueueEntryEffect v m s) := by
  unfold moverQueueEntryEffect
  repeat' first
    | with_reducible assumption
    | (intro x; first
        | (refine (have hx : State.Kept p x := ?_; ?_); subst x; rotate_left; clear_value x; rotate_right)
        | (refine (have hx : State.Kept p x.1 := ?_; ?_); subst x; rotate_left; clear_value x; rotate_right)
        | (try clear_value x))
    | lift_lets -underBinder
    | with_reducible apply State.modCore_kept
    | with_reducible apply State.modMover_kept
    | split

theorem State.mvDecodeUnit_kept {s : State} {v : Nat} {b : List Byte} {r : Nat × Nat × Nat × Nat} {u : Nat × Nat × Nat} {l : List Byte} {bad : Bool} (h : s.Kept p) (_ : p.may .regs) (_ : p.may .mem) (_ : p.may .poison) (_ : p.may .upset) (_ : p.may .evr) (_ : p.may .hostEvent) (_ : p.may .pwr) (_ : p.may .msix) (_ : p.may .now) :
    State.Kept p (State.mvDecodeUnit s v b r u l bad) := by
  unfold State.mvDecodeUnit
  repeat' first
    | with_reducible assumption
    | (intro x; first
        | (refine (have hx : State.Kept p x := ?_; ?_); subst x; rotate_left; clear_value x; rotate_right)
        | (refine (have hx : State.Kept p x.1 := ?_; ?_); subst x; rotate_left; clear_value x; rotate_right)
        | (try clear_value x))
    | lift_lets -underBinder
    | with_reducible apply State.Kept.ite
    | with_reducible apply State.Kept.foldl
    | with_reducible apply State.Kept.foldl_fst
    | with_reducible apply State.vatAct_kept
    | with_reducible apply State.putBytes_kept
    | split

theorem State.modEntry_kept {s : State} {v : Nat} {m : Nat} {i : Nat} {f : MvEntry → MvEntry} (h : s.Kept p) (_ : p.may .vats) :
    State.Kept p (State.modEntry s v m i f) := by
  unfold State.modEntry
  repeat' first
    | with_reducible assumption
    | with_reducible apply State.modMover_kept

theorem State.modSeq_kept {s : State} {v : Nat} {m : Nat} {seq : Nat} {f : MvEntry → MvEntry} (h : s.Kept p) (_ : p.may .vats) :
    State.Kept p (State.modSeq s v m seq f) := by
  unfold State.modSeq
  repeat' first
    | with_reducible assumption
    | (intro x; first
        | (refine (have hx : State.Kept p x := ?_; ?_); subst x; rotate_left; clear_value x; rotate_right)
        | (refine (have hx : State.Kept p x.1 := ?_; ?_); subst x; rotate_left; clear_value x; rotate_right)
        | (try clear_value x))
    | lift_lets -underBinder
    | with_reducible apply State.Kept.ite
    | with_reducible apply State.modMover_kept
    | split

theorem State.mvReadImage_kept {s : State} {v : Nat} {m : Nat} {i : Nat} {e : MvEntry} {p' : Nat} (h : s.Kept p) (_ : p.may .regs) (_ : p.may .logs) (_ : p.may .mem) (_ : p.may .poison) (_ : p.may .upset) (_ : p.may .evr) (_ : p.may .line) (_ : p.may .auth) (_ : p.may .safe) (_ : p.may .hostEvent) (_ : p.may .vats) (_ : p.may .mig) (_ : p.may .fbx) (_ : p.may .pwr) (_ : p.may .trace) (_ : p.may .traceDrop) (_ : p.may .msix) (_ : p.may .firm) (_ : p.may .now) :
    State.Kept p (State.mvReadImage s v m i e p') := by
  unfold State.mvReadImage
  repeat' first
    | with_reducible assumption
    | (intro x; first
        | (refine (have hx : State.Kept p x := ?_; ?_); subst x; rotate_left; clear_value x; rotate_right)
        | (refine (have hx : State.Kept p x.1 := ?_; ?_); subst x; rotate_left; clear_value x; rotate_right)
        | (try clear_value x))
    | lift_lets -underBinder
    | with_reducible apply State.Kept.ite
    | with_reducible apply State.Kept.foldl
    | with_reducible apply State.Kept.foldl_fst
    | with_reducible apply State.readPart_kept
    | with_reducible apply State.actMover_kept
    | with_reducible apply State.modEntry_kept
    | split

theorem State.mvWrite_kept {s : State} {v : Nat} {m : Nat} {dst : Nat} {l : List Byte} {mask : List Bool} (h : s.Kept p) (_ : p.may .regs) (_ : p.may .mem) (_ : p.may .poison) (_ : p.may .upset) (_ : p.may .evr) (_ : p.may .hostEvent) (_ : p.may .diag) (_ : p.may .pwr) (_ : p.may .msix) (_ : p.may .now) :
    State.Kept p (State.mvWrite s v m dst l mask) := by
  unfold State.mvWrite
  repeat' first
    | with_reducible assumption
    | (intro x; first
        | (refine (have hx : State.Kept p x := ?_; ?_); subst x; rotate_left; clear_value x; rotate_right)
        | (refine (have hx : State.Kept p x.1 := ?_; ?_); subst x; rotate_left; clear_value x; rotate_right)
        | (try clear_value x))
    | lift_lets -underBinder
    | with_reducible apply State.Kept.ite
    | with_reducible apply State.actMover_kept
    | with_reducible apply State.rsigAdd_kept
    | with_reducible apply State.putBytes_kept
    | split

theorem State.mvCellOp_kept {s : State} {v : Nat} {m : Nat} {e : MvEntry} {a : Nat} (h : s.Kept p) (_ : p.may .cells) (_ : p.may .xsl) (_ : p.may .diag) (_ : p.may .now) :
    ∀ r_, (State.mvCellOp s v m e a) = some r_ → State.Kept p r_ := by
  intro t e
  unfold State.mvCellOp at e
  try dsimp only at e
  repeat' (first | (cases e; done) | split at e)
  all_goals (try cases e)
  repeat' first
    | with_reducible assumption
    | (intro x; first
        | (refine (have hx : State.Kept p x := ?_; ?_); subst x; rotate_left; clear_value x; rotate_right)
        | (refine (have hx : State.Kept p x.1 := ?_; ?_); subst x; rotate_left; clear_value x; rotate_right)
        | (try clear_value x))
    | lift_lets -underBinder
    | with_reducible apply State.Kept.ite
    | with_reducible apply State.cellOp_kept
    | with_reducible apply State.rsigAdd_kept
    | (with_reducible refine State.sendMsg_kept ?_ (by assumption) _ (by assumption))
    | split

theorem State.mvPut_kept {s : State} {v : Nat} {m : Nat} {e : MvEntry} {r : Nat × Nat × Nat} {l : List Byte} {mask : List Bool} (h : s.Kept p) (_ : p.may .regs) (_ : p.may .mem) (_ : p.may .poison) (_ : p.may .upset) (_ : p.may .evr) (_ : p.may .hostEvent) (_ : p.may .xsl) (_ : p.may .diag) (_ : p.may .pwr) (_ : p.may .msix) (_ : p.may .now) :
    ∀ r_, (State.mvPut s v m e r l mask) = some r_ → State.Kept p r_ := by
  intro t e
  unfold State.mvPut at e
  try dsimp only at e
  repeat' (first | (cases e; done) | split at e)
  all_goals (try cases e)
  repeat' first
    | with_reducible assumption
    | (intro x; first
        | (refine (have hx : State.Kept p x := ?_; ?_); subst x; rotate_left; clear_value x; rotate_right)
        | (refine (have hx : State.Kept p x.1 := ?_; ?_); subst x; rotate_left; clear_value x; rotate_right)
        | (try clear_value x))
    | lift_lets -underBinder
    | with_reducible apply State.Kept.ite
    | with_reducible apply State.mvWrite_kept
    | with_reducible apply State.rsigAdd_kept
    | with_reducible apply State.vatAct_kept
    | with_reducible apply State.mvDecodeUnit_kept
    | (with_reducible refine State.sendMsg_kept ?_ (by assumption) _ (by assumption))
    | split

theorem State.mvFetch_kept {s : State} {v : Nat} {m : Nat} {i : Nat} {p' : Nat} {r : Nat × Nat × Nat} (h : s.Kept p) (_ : p.may .regs) (_ : p.may .logs) (_ : p.may .upset) (_ : p.may .evr) (_ : p.may .line) (_ : p.may .auth) (_ : p.may .safe) (_ : p.may .hostEvent) (_ : p.may .vats) (_ : p.may .fbx) (_ : p.may .pwr) (_ : p.may .trace) (_ : p.may .traceDrop) (_ : p.may .msix) (_ : p.may .firm) (_ : p.may .now) :
    State.Kept p (State.mvFetch s v m i p' r) := by
  unfold State.mvFetch
  repeat' first
    | with_reducible assumption
    | (intro x; first
        | (refine (have hx : State.Kept p x := ?_; ?_); subst x; rotate_left; clear_value x; rotate_right)
        | (refine (have hx : State.Kept p x.1 := ?_; ?_); subst x; rotate_left; clear_value x; rotate_right)
        | (try clear_value x))
    | lift_lets -underBinder
    | with_reducible apply State.Kept.ite
    | with_reducible apply State.actMover_kept
    | with_reducible apply State.eccRead_kept
    | with_reducible apply State.modEntry_kept
    | split

theorem State.mvPiece_kept {s : State} {v : Nat} {m : Nat} {i : Nat} {p' : Nat} {e : MvEntry} {r : Nat × Nat × Nat} (h : s.Kept p) (_ : p.may .regs) (_ : p.may .logs) (_ : p.may .mem) (_ : p.may .poison) (_ : p.may .upset) (_ : p.may .cells) (_ : p.may .evr) (_ : p.may .line) (_ : p.may .auth) (_ : p.may .safe) (_ : p.may .hostEvent) (_ : p.may .vats) (_ : p.may .xsl) (_ : p.may .fbx) (_ : p.may .diag) (_ : p.may .pwr) (_ : p.may .trace) (_ : p.may .traceDrop) (_ : p.may .msix) (_ : p.may .firm) (_ : p.may .now) :
    State.Kept p (State.mvPiece s v m i p' e r).1 := by
  unfold State.mvPiece
  repeat' first
    | with_reducible assumption
    | intro x
    | dsimp only
    | with_reducible apply State.Kept.ite
    | with_reducible apply State.Kept.foldl
    | with_reducible apply State.Kept.foldl_fst
    | (with_reducible refine State.mvCellOp_kept ?_ (by assumption) ‹_› (by with_reducible assumption) (by assumption) _ (by assumption))
    | (with_reducible refine State.mvPut_kept ?_ (by assumption) ‹_› (by with_reducible assumption) (by assumption) ‹_› (by with_reducible assumption) (by assumption) ‹_› (by with_reducible assumption) (by assumption) ‹_› _ (by assumption))
    | with_reducible apply State.mvFetch_kept
    | split

theorem State.mvSendAll_kept {s : State} {v : Nat} {m : Nat} {i : Nat} {a1_ : Nat} (h : s.Kept p) (_ : p.may .regs) (_ : p.may .logs) (_ : p.may .mem) (_ : p.may .poison) (_ : p.may .upset) (_ : p.may .cells) (_ : p.may .evr) (_ : p.may .line) (_ : p.may .auth) (_ : p.may .safe) (_ : p.may .hostEvent) (_ : p.may .vats) (_ : p.may .xsl) (_ : p.may .fbx) (_ : p.may .diag) (_ : p.may .pwr) (_ : p.may .trace) (_ : p.may .traceDrop) (_ : p.may .msix) (_ : p.may .firm) (_ : p.may .now) :
    State.Kept p (State.mvSendAll s v m i a1_) := by
  induction a1_ generalizing s v m i with
  | zero =>
    unfold State.mvSendAll
    repeat' first
      | with_reducible assumption
      | (intro x; first
          | (refine (have hx : State.Kept p x := ?_; ?_); subst x; rotate_left; clear_value x; rotate_right)
          | (refine (have hx : State.Kept p x.1 := ?_; ?_); subst x; rotate_left; clear_value x; rotate_right)
          | (try clear_value x))
      | lift_lets -underBinder
      | with_reducible apply State.Kept.ite
      | with_reducible apply State.Kept.foldl
      | with_reducible apply State.Kept.foldl_fst
      | with_reducible apply State.modEntry_kept
      | with_reducible apply State.mvPiece_kept
      | split
  | succ n_ ih =>
    unfold State.mvSendAll
    repeat' first
      | with_reducible apply ih
      | with_reducible assumption
      | (intro x; first
          | (refine (have hx : State.Kept p x := ?_; ?_); subst x; rotate_left; clear_value x; rotate_right)
          | (refine (have hx : State.Kept p x.1 := ?_; ?_); subst x; rotate_left; clear_value x; rotate_right)
          | (try clear_value x))
      | lift_lets -underBinder
      | with_reducible apply State.Kept.ite
      | with_reducible apply State.Kept.foldl
      | with_reducible apply State.Kept.foldl_fst
      | with_reducible apply State.modEntry_kept
      | with_reducible apply State.mvPiece_kept
      | split

theorem State.mvBegin_kept {s : State} {v : Nat} {m : Nat} {i : Nat} {e : MvEntry} (h : s.Kept p) (_ : p.may .regs) (_ : p.may .logs) (_ : p.may .mem) (_ : p.may .poison) (_ : p.may .upset) (_ : p.may .evr) (_ : p.may .line) (_ : p.may .auth) (_ : p.may .safe) (_ : p.may .hostEvent) (_ : p.may .vats) (_ : p.may .mig) (_ : p.may .fbx) (_ : p.may .pwr) (_ : p.may .trace) (_ : p.may .traceDrop) (_ : p.may .msix) (_ : p.may .firm) (_ : p.may .now) :
    State.Kept p (State.mvBegin s v m i e) := by
  unfold State.mvBegin
  repeat' first
    | with_reducible assumption
    | (intro x; first
        | (refine (have hx : State.Kept p x := ?_; ?_); subst x; rotate_left; clear_value x; rotate_right)
        | (refine (have hx : State.Kept p x.1 := ?_; ?_); subst x; rotate_left; clear_value x; rotate_right)
        | (try clear_value x))
    | lift_lets -underBinder
    | with_reducible apply State.Kept.ite
    | with_reducible apply State.Kept.foldl
    | with_reducible apply State.Kept.foldl_fst
    | with_reducible apply State.eccRead_kept
    | with_reducible apply State.modEntry_kept
    | with_reducible apply State.mvReadImage_kept
    | split

theorem State.mvStart_kept {s : State} {v : Nat} {m : Nat} {i : Nat} {e : MvEntry} (h : s.Kept p) (_ : p.may .regs) (_ : p.may .logs) (_ : p.may .mem) (_ : p.may .poison) (_ : p.may .upset) (_ : p.may .evr) (_ : p.may .line) (_ : p.may .auth) (_ : p.may .safe) (_ : p.may .hostEvent) (_ : p.may .frt) (_ : p.may .vats) (_ : p.may .mig) (_ : p.may .walkers) (_ : p.may .xsl) (_ : p.may .fbx) (_ : p.may .diag) (_ : p.may .pwr) (_ : p.may .trace) (_ : p.may .traceDrop) (_ : p.may .msix) (_ : p.may .firm) (_ : p.may .now) :
    State.Kept p (State.mvStart s v m i e) := by
  unfold State.mvStart
  repeat' first
    | with_reducible assumption
    | (intro x; first
        | (refine (have hx : State.Kept p x := ?_; ?_); subst x; rotate_left; clear_value x; rotate_right)
        | (refine (have hx : State.Kept p x.1 := ?_; ?_); subst x; rotate_left; clear_value x; rotate_right)
        | skip)
    | lift_lets -underBinder
    | with_reducible apply State.Kept.ite
    | with_reducible apply State.Kept.foldl
    | with_reducible apply State.Kept.foldl_fst
    | with_reducible apply State.mvBegin_kept
    | with_reducible apply State.vatFault_kept
    | with_reducible apply State.modEntry_kept
    | with_reducible apply State.refuse_kept
    | split

theorem moverDescriptorStartEffect_kept {v : VatNo} {m : Fin 2} {s : State} (h : s.Kept p) (_ : p.may .regs) (_ : p.may .logs) (_ : p.may .mem) (_ : p.may .poison) (_ : p.may .upset) (_ : p.may .cells) (_ : p.may .evr) (_ : p.may .line) (_ : p.may .auth) (_ : p.may .safe) (_ : p.may .hostEvent) (_ : p.may .frt) (_ : p.may .vats) (_ : p.may .mig) (_ : p.may .walkers) (_ : p.may .xsl) (_ : p.may .fbx) (_ : p.may .diag) (_ : p.may .pwr) (_ : p.may .trace) (_ : p.may .traceDrop) (_ : p.may .msix) (_ : p.may .firm) (_ : p.may .now) :
    State.Kept p (moverDescriptorStartEffect v m s) := by
  unfold moverDescriptorStartEffect
  repeat' first
    | with_reducible assumption
    | (intro x; first
        | (refine (have hx : State.Kept p x := ?_; ?_); subst x; rotate_left; clear_value x; rotate_right)
        | (refine (have hx : State.Kept p x.1 := ?_; ?_); subst x; rotate_left; clear_value x; rotate_right)
        | (try clear_value x))
    | lift_lets -underBinder
    | with_reducible apply State.Kept.ite
    | with_reducible apply State.mvStart_kept
    | with_reducible apply State.mvSendAll_kept
    | split

theorem State.tellWalker_kept {s : State} {v : Nat} {m : Nat} {seq : Nat} {status : Nat} (h : s.Kept p) (_ : p.may .walkers) :
    State.Kept p (State.tellWalker s v m seq status) := by
  unfold State.tellWalker
  repeat' first
    | with_reducible assumption
    | with_reducible apply State.Kept.ite
    | with_reducible apply State.modWalker_kept
    | split

theorem State.mvRecord_kept {s : State} {v : Nat} {m : Nat} {e : MvEntry} {status : Nat} (h : s.Kept p) (_ : p.may .regs) (_ : p.may .cells) (_ : p.may .walkers) (_ : p.may .now) :
    State.Kept p (State.mvRecord s v m e status) := by
  unfold State.mvRecord
  repeat' first
    | with_reducible assumption
    | (intro x; first
        | (refine (have hx : State.Kept p x := ?_; ?_); subst x; rotate_left; clear_value x; rotate_right)
        | (refine (have hx : State.Kept p x.1 := ?_; ?_); subst x; rotate_left; clear_value x; rotate_right)
        | (try clear_value x))
    | lift_lets -underBinder
    | with_reducible apply State.Kept.ite
    | with_reducible apply State.setReg_kept
    | with_reducible apply State.bump_kept
    | with_reducible apply State.cellDo_kept
    | with_reducible apply State.tellWalker_kept
    | split

theorem moverDescriptorEndEffect_kept {v : VatNo} {m : Fin 2} {s : State} (h : s.Kept p) (_ : p.may .regs) (_ : p.may .cells) (_ : p.may .vats) (_ : p.may .walkers) (_ : p.may .now) :
    State.Kept p (moverDescriptorEndEffect v m s) := by
  unfold moverDescriptorEndEffect
  repeat' first
    | with_reducible assumption
    | (intro x; first
        | (refine (have hx : State.Kept p x := ?_; ?_); subst x; rotate_left; clear_value x; rotate_right)
        | (refine (have hx : State.Kept p x.1 := ?_; ?_); subst x; rotate_left; clear_value x; rotate_right)
        | (try clear_value x))
    | lift_lets -underBinder
    | with_reducible apply State.Kept.ite
    | with_reducible apply State.mvRecord_kept
    | with_reducible apply State.modMover_kept
    | split

theorem State.endMsgs_kept {s : State} {w : Waiter} (h : s.Kept p) (_ : p.may .xsl) :
    State.Kept p (State.endMsgs s w) := by
  unfold State.endMsgs
  exact State.Kept.upd_xsl h (by assumption)

theorem State.endHeldLate_kept {s : State} {w : Waiter} (h : s.Kept p) (_ : p.may .regs) (_ : p.may .mig) :
    State.Kept p (State.endHeldLate s w) := by
  unfold State.endHeldLate
  repeat' first
    | with_reducible assumption
    | (intro x; first
        | (refine (have hx : State.Kept p x := ?_; ?_); subst x; rotate_left; clear_value x; rotate_right)
        | (refine (have hx : State.Kept p x.1 := ?_; ?_); subst x; rotate_left; clear_value x; rotate_right)
        | (try clear_value x))
    | lift_lets -underBinder
    | with_reducible apply State.Kept.ite
    | with_reducible apply State.bumpBy_kept
    | (with_reducible apply State.Kept.upd_mig <;> with_reducible assumption)
    | split

theorem State.mvLands_kept {s : State} {v : Nat} {m : Nat} {e : MvEntry} (h : s.Kept p) (_ : p.may .regs) (_ : p.may .mem) (_ : p.may .poison) (_ : p.may .upset) (_ : p.may .evr) (_ : p.may .hostEvent) (_ : p.may .xsl) (_ : p.may .diag) (_ : p.may .pwr) (_ : p.may .msix) (_ : p.may .now) :
    State.Kept p (State.mvLands s v m e) := by
  unfold State.mvLands
  repeat' first
    | with_reducible assumption
    | (intro x; first
        | (refine (have hx : State.Kept p x := ?_; ?_); subst x; rotate_left; clear_value x; rotate_right)
        | (refine (have hx : State.Kept p x.1 := ?_; ?_); subst x; rotate_left; clear_value x; rotate_right)
        | (try clear_value x))
    | lift_lets -underBinder
    | with_reducible apply State.Kept.ite
    | with_reducible apply State.Kept.foldl
    | with_reducible apply State.Kept.foldl_fst
    | with_reducible apply State.Kept.getD
    | (with_reducible refine State.mvPut_kept ?_ (by assumption) ‹_› (by with_reducible assumption) (by assumption) ‹_› (by with_reducible assumption) (by assumption) ‹_› (by with_reducible assumption) (by assumption) ‹_› _ (by assumption))
    | split

theorem moverDeadlineEffect_kept {v : VatNo} {m : Fin 2} {sent : Bool} {s : State} (h : s.Kept p) (_ : p.may .regs) (_ : p.may .mem) (_ : p.may .poison) (_ : p.may .upset) (_ : p.may .evr) (_ : p.may .hostEvent) (_ : p.may .vats) (_ : p.may .mig) (_ : p.may .xsl) (_ : p.may .diag) (_ : p.may .pwr) (_ : p.may .msix) (_ : p.may .now) :
    State.Kept p (moverDeadlineEffect v m sent s) := by
  unfold moverDeadlineEffect
  repeat' first
    | with_reducible assumption
    | (intro x; first
        | (refine (have hx : State.Kept p x := ?_; ?_); subst x; rotate_left; clear_value x; rotate_right)
        | (refine (have hx : State.Kept p x.1 := ?_; ?_); subst x; rotate_left; clear_value x; rotate_right)
        | (try clear_value x))
    | lift_lets -underBinder
    | with_reducible apply State.Kept.ite
    | with_reducible apply State.mvLands_kept
    | with_reducible apply State.endMsgs_kept
    | with_reducible apply State.modEntry_kept
    | with_reducible apply State.endHeldLate_kept
    | split

end Sys2Proof.Machine
end

