-- ==== Sys2Proof/Laws/KeptMigration.lean ====
section
/-! SUPPORT. State.Kept through the operations of Machine/Migration.lean. -/

set_option linter.all false

namespace Sys2Proof.Machine

variable {p : Promise}

theorem State.modMig_kept {s : State} {f : Migration → Migration} (h : s.Kept p) (_ : p.may .mig) :
    State.Kept p (State.modMig s f) := by
  unfold State.modMig
  exact State.Kept.upd_mig h (by assumption)

theorem State.pickFree_kept {s : State} {l : List Nat} (h : s.Kept p) (_ : p.may .free) :
    ∀ r_, (State.pickFree s l) = some r_ → State.Kept p r_.2 := by
  intro t e
  unfold State.pickFree at e
  try dsimp only at e
  repeat' (first | (cases e; done) | split at e)
  all_goals (try cases e)
  repeat' first
    | with_reducible assumption
    | with_reducible apply State.useFree_kept
    | split

theorem dieCopyUpdateEffect_kept {die : Fin 2} {s : State} (h : s.Kept p) (_ : p.may .mig) :
    State.Kept p (dieCopyUpdateEffect die s) := by
  unfold dieCopyUpdateEffect
  repeat' first
    | with_reducible assumption
    | with_reducible apply State.modMig_kept
    | split

theorem State.dieCopiesDue_kept {s : State} (h : s.Kept p) (_ : p.may .mig) :
    State.Kept p (State.dieCopiesDue s) := by
  unfold State.dieCopiesDue
  repeat' first
    | with_reducible assumption
    | (intro x; first
        | (refine (have hx : State.Kept p x := ?_; ?_); subst x; rotate_left; clear_value x; rotate_right)
        | (refine (have hx : State.Kept p x.1 := ?_; ?_); subst x; rotate_left; clear_value x; rotate_right)
        | (try clear_value x))
    | lift_lets -underBinder
    | with_reducible apply State.Kept.ite
    | with_reducible apply State.Kept.foldl
    | with_reducible apply State.Kept.foldl_fst
    | with_reducible apply State.modMig_kept
    | split

theorem State.heldEnds_kept {s : State} {h' : HeldRead} {status : Nat} {l : List Byte} (h : s.Kept p) (_ : p.may .rdata) (_ : p.may .vats) (_ : p.may .mig) :
    State.Kept p (State.heldEnds s h' status l) := by
  unfold State.heldEnds
  repeat' first
    | with_reducible assumption
    | (intro x; first
        | (refine (have hx : State.Kept p x := ?_; ?_); subst x; rotate_left; clear_value x; rotate_right)
        | (refine (have hx : State.Kept p x.1 := ?_; ?_); subst x; rotate_left; clear_value x; rotate_right)
        | (try clear_value x))
    | lift_lets -underBinder
    | with_reducible apply State.Kept.ite
    | with_reducible apply State.modSeq_kept
    | with_reducible apply State.modMig_kept
    | (with_reducible apply State.Kept.upd_rdata <;> with_reducible assumption)
    | split

theorem State.release_kept {s : State} {h' : HeldRead} {f : Nat} (h : s.Kept p) (_ : p.may .rdata) (_ : p.may .regs) (_ : p.may .logs) (_ : p.may .mem) (_ : p.may .poison) (_ : p.may .upset) (_ : p.may .evr) (_ : p.may .line) (_ : p.may .auth) (_ : p.may .safe) (_ : p.may .hostEvent) (_ : p.may .vats) (_ : p.may .mig) (_ : p.may .fbx) (_ : p.may .pwr) (_ : p.may .trace) (_ : p.may .traceDrop) (_ : p.may .msix) (_ : p.may .firm) (_ : p.may .now) :
    State.Kept p (State.release s h' f) := by
  unfold State.release
  repeat' first
    | with_reducible assumption
    | (intro x; first
        | (refine (have hx : State.Kept p x := ?_; ?_); subst x; rotate_left; clear_value x; rotate_right)
        | (refine (have hx : State.Kept p x.1 := ?_; ?_); subst x; rotate_left; clear_value x; rotate_right)
        | (try clear_value x))
    | lift_lets -underBinder
    | with_reducible apply State.Kept.ite
    | with_reducible apply State.actMover_kept
    | with_reducible apply State.eccRead_kept
    | with_reducible apply State.withdraw_kept
    | with_reducible apply State.heldEnds_kept
    | with_reducible apply State.actHub_kept
    | split

theorem heldReadReleaseEffect_kept {s : State} (h : s.Kept p) (_ : p.may .rdata) (_ : p.may .regs) (_ : p.may .logs) (_ : p.may .mem) (_ : p.may .poison) (_ : p.may .upset) (_ : p.may .evr) (_ : p.may .line) (_ : p.may .auth) (_ : p.may .safe) (_ : p.may .hostEvent) (_ : p.may .vats) (_ : p.may .mig) (_ : p.may .fbx) (_ : p.may .pwr) (_ : p.may .trace) (_ : p.may .traceDrop) (_ : p.may .msix) (_ : p.may .firm) (_ : p.may .now) :
    State.Kept p (heldReadReleaseEffect s) := by
  unfold heldReadReleaseEffect
  repeat' first
    | with_reducible assumption
    | with_reducible apply State.release_kept
    | split

theorem State.endWaiting_kept {s : State} {q : Nat} {status : Nat} (h : s.Kept p) (_ : p.may .rdata) (_ : p.may .regs) (_ : p.may .vats) (_ : p.may .mig) :
    State.Kept p (State.endWaiting s q status) := by
  unfold State.endWaiting
  repeat' first
    | with_reducible assumption
    | (intro x; first
        | (refine (have hx : State.Kept p x := ?_; ?_); subst x; rotate_left; clear_value x; rotate_right)
        | (refine (have hx : State.Kept p x.1 := ?_; ?_); subst x; rotate_left; clear_value x; rotate_right)
        | (try clear_value x))
    | lift_lets -underBinder
    | with_reducible apply State.Kept.ite
    | with_reducible apply State.Kept.foldl
    | with_reducible apply State.Kept.foldl_fst
    | with_reducible apply State.bump_kept
    | with_reducible apply State.heldEnds_kept
    | split

theorem State.evictPage_kept {s : State} {q : Nat} {f : Nat} (h : s.Kept p) (_ : p.may .mem) (_ : p.may .poison) (_ : p.may .upset) (_ : p.may .mig) :
    State.Kept p (State.evictPage s q f) := by
  unfold State.evictPage
  repeat' first
    | with_reducible assumption
    | with_reducible apply State.unsee_kept
    | with_reducible apply State.modLeaf_kept
    | with_reducible apply State.sendUpdate_kept
    | with_reducible apply State.modMig_kept

theorem State.migEnds_kept {s : State} {b : List Byte} {status : Nat} {pages : Nat} (h : s.Kept p) (_ : p.may .regs) (_ : p.may .logs) (_ : p.may .mem) (_ : p.may .poison) (_ : p.may .upset) (_ : p.may .cells) (_ : p.may .evr) (_ : p.may .hostEvent) (_ : p.may .mig) (_ : p.may .pwr) (_ : p.may .msix) (_ : p.may .now) :
    State.Kept p (State.migEnds s b status pages) := by
  unfold State.migEnds
  repeat' first
    | with_reducible assumption
    | (intro x; first
        | (refine (have hx : State.Kept p x := ?_; ?_); subst x; rotate_left; clear_value x; rotate_right)
        | (refine (have hx : State.Kept p x.1 := ?_; ?_); subst x; rotate_left; clear_value x; rotate_right)
        | (try clear_value x))
    | lift_lets -underBinder
    | with_reducible apply State.Kept.ite
    | with_reducible apply State.pushLog_kept
    | with_reducible apply State.postPut_kept
    | with_reducible apply State.modMig_kept
    | split

theorem State.dropFill_kept {s : State} (h : s.Kept p) (_ : p.may .mig) :
    State.Kept p (State.dropFill s) := by
  unfold State.dropFill
  repeat' first
    | with_reducible assumption
    | with_reducible apply State.modMig_kept

theorem State.failFill_kept {s : State} {q : Nat} {status : Nat} (h : s.Kept p) (_ : p.may .rdata) (_ : p.may .regs) (_ : p.may .logs) (_ : p.may .mem) (_ : p.may .poison) (_ : p.may .upset) (_ : p.may .cells) (_ : p.may .evr) (_ : p.may .hostEvent) (_ : p.may .vats) (_ : p.may .mig) (_ : p.may .pwr) (_ : p.may .msix) (_ : p.may .now) :
    State.Kept p (State.failFill s q status) := by
  unfold State.failFill
  repeat' first
    | with_reducible assumption
    | (intro x; first
        | (refine (have hx : State.Kept p x := ?_; ?_); subst x; rotate_left; clear_value x; rotate_right)
        | (refine (have hx : State.Kept p x.1 := ?_; ?_); subst x; rotate_left; clear_value x; rotate_right)
        | (try clear_value x))
    | lift_lets -underBinder
    | with_reducible apply State.Kept.ite
    | with_reducible apply State.migEnds_kept
    | with_reducible apply State.dropFill_kept
    | with_reducible apply State.modLeaf_kept
    | with_reducible apply State.endWaiting_kept
    | split

theorem State.aquiferFault_kept {s : State} {cause : Nat} (h : s.Kept p) (_ : p.may .rdata) (_ : p.may .regs) (_ : p.may .logs) (_ : p.may .mem) (_ : p.may .poison) (_ : p.may .upset) (_ : p.may .cells) (_ : p.may .evr) (_ : p.may .hostEvent) (_ : p.may .vats) (_ : p.may .mig) (_ : p.may .pwr) (_ : p.may .msix) (_ : p.may .now) :
    State.Kept p (State.aquiferFault s cause) := by
  unfold State.aquiferFault
  repeat' first
    | with_reducible assumption
    | (intro x; first
        | (refine (have hx : State.Kept p x := ?_; ?_); subst x; rotate_left; clear_value x; rotate_right)
        | (refine (have hx : State.Kept p x.1 := ?_; ?_); subst x; rotate_left; clear_value x; rotate_right)
        | (try clear_value x))
    | lift_lets -underBinder
    | with_reducible apply State.bump_kept
    | with_reducible apply State.failFill_kept
    | with_reducible apply State.pushLog_kept
    | with_reducible apply State.outcome_kept
    | with_reducible apply State.modLeaf_kept
    | split

theorem State.jobPage_kept {s : State} {q : Nat} (h : s.Kept p) (_ : p.may .mig) :
    State.Kept p (State.jobPage s q) := by
  unfold State.jobPage
  repeat' first
    | with_reducible assumption
    | with_reducible apply State.Kept.ite
    | with_reducible apply State.modMig_kept
    | split

theorem State.lakeFull_kept {s : State} {f : Fill} (h : s.Kept p) (_ : p.may .rdata) (_ : p.may .regs) (_ : p.may .logs) (_ : p.may .mem) (_ : p.may .poison) (_ : p.may .upset) (_ : p.may .cells) (_ : p.may .evr) (_ : p.may .hostEvent) (_ : p.may .vats) (_ : p.may .mig) (_ : p.may .pwr) (_ : p.may .msix) (_ : p.may .now) :
    State.Kept p (State.lakeFull s f) := by
  unfold State.lakeFull
  repeat' first
    | with_reducible assumption
    | (intro x; first
        | (refine (have hx : State.Kept p x := ?_; ?_); subst x; rotate_left; clear_value x; rotate_right)
        | (refine (have hx : State.Kept p x.1 := ?_; ?_); subst x; rotate_left; clear_value x; rotate_right)
        | (try clear_value x))
    | lift_lets -underBinder
    | with_reducible apply State.Kept.ite
    | with_reducible apply State.failFill_kept
    | with_reducible apply State.jobPage_kept
    | with_reducible apply State.dropFill_kept
    | with_reducible apply State.modLeaf_kept
    | with_reducible apply State.endWaiting_kept
    | with_reducible apply State.modMig_kept
    | split

theorem State.fillFrame_kept {s : State} (h : s.Kept p) (_ : p.may .free) (_ : p.may .rdata) (_ : p.may .regs) (_ : p.may .logs) (_ : p.may .mem) (_ : p.may .poison) (_ : p.may .upset) (_ : p.may .cells) (_ : p.may .evr) (_ : p.may .hostEvent) (_ : p.may .vats) (_ : p.may .mig) (_ : p.may .pwr) (_ : p.may .msix) (_ : p.may .now) :
    State.Kept p (State.fillFrame s) := by
  unfold State.fillFrame
  repeat' first
    | with_reducible assumption
    | with_reducible apply State.Kept.ite
    | with_reducible apply State.evictPage_kept
    | with_reducible apply State.lakeFull_kept
    | (with_reducible refine State.pickFree_kept ?_ (by assumption) _ (by assumption))
    | with_reducible apply State.modMig_kept
    | split

theorem State.fillRead_kept {s : State} (h : s.Kept p) (_ : p.may .rdata) (_ : p.may .regs) (_ : p.may .logs) (_ : p.may .mem) (_ : p.may .poison) (_ : p.may .upset) (_ : p.may .cells) (_ : p.may .evr) (_ : p.may .hostEvent) (_ : p.may .vats) (_ : p.may .mig) (_ : p.may .pwr) (_ : p.may .msix) (_ : p.may .now) :
    State.Kept p (State.fillRead s) := by
  unfold State.fillRead
  repeat' first
    | with_reducible assumption
    | (intro x; first
        | (refine (have hx : State.Kept p x := ?_; ?_); subst x; rotate_left; clear_value x; rotate_right)
        | (refine (have hx : State.Kept p x.1 := ?_; ?_); subst x; rotate_left; clear_value x; rotate_right)
        | (try clear_value x))
    | lift_lets -underBinder
    | with_reducible apply State.Kept.ite
    | with_reducible apply State.aquiferFault_kept
    | with_reducible apply State.modMig_kept
    | split

theorem State.jobNext_kept {s : State} {a1_ : Nat} (h : s.Kept p) (_ : p.may .regs) (_ : p.may .logs) (_ : p.may .mem) (_ : p.may .poison) (_ : p.may .upset) (_ : p.may .cells) (_ : p.may .evr) (_ : p.may .hostEvent) (_ : p.may .mig) (_ : p.may .pwr) (_ : p.may .msix) (_ : p.may .now) :
    State.Kept p (State.jobNext s a1_) := by
  induction a1_ generalizing s with
  | zero =>
    unfold State.jobNext
    repeat' first
      | with_reducible assumption
      | (intro x; first
          | (refine (have hx : State.Kept p x := ?_; ?_); subst x; rotate_left; clear_value x; rotate_right)
          | (refine (have hx : State.Kept p x.1 := ?_; ?_); subst x; rotate_left; clear_value x; rotate_right)
          | (try clear_value x))
      | lift_lets -underBinder
      | with_reducible apply State.Kept.ite
      | with_reducible apply State.evictPage_kept
      | with_reducible apply State.migEnds_kept
      | with_reducible apply State.modLeaf_kept
      | with_reducible apply State.modMig_kept
      | split
  | succ n_ ih =>
    unfold State.jobNext
    repeat' first
      | with_reducible apply ih
      | with_reducible assumption
      | (intro x; first
          | (refine (have hx : State.Kept p x := ?_; ?_); subst x; rotate_left; clear_value x; rotate_right)
          | (refine (have hx : State.Kept p x.1 := ?_; ?_); subst x; rotate_left; clear_value x; rotate_right)
          | (try clear_value x))
      | lift_lets -underBinder
      | with_reducible apply State.Kept.ite
      | with_reducible apply State.evictPage_kept
      | with_reducible apply State.migEnds_kept
      | with_reducible apply State.modLeaf_kept
      | with_reducible apply State.modMig_kept
      | split

theorem State.engineOnce_kept {s : State} (h : s.Kept p) (_ : p.may .free) (_ : p.may .rdata) (_ : p.may .regs) (_ : p.may .logs) (_ : p.may .mem) (_ : p.may .poison) (_ : p.may .upset) (_ : p.may .cells) (_ : p.may .evr) (_ : p.may .hostEvent) (_ : p.may .vats) (_ : p.may .mig) (_ : p.may .pwr) (_ : p.may .msix) (_ : p.may .now) :
    State.Kept p (State.engineOnce s) := by
  unfold State.engineOnce
  repeat' first
    | with_reducible assumption
    | with_reducible apply State.jobNext_kept
    | with_reducible apply State.fillRead_kept
    | with_reducible apply State.fillFrame_kept

theorem State.engineLoop_kept {s : State} {a1_ : Nat} (h : s.Kept p) (_ : p.may .free) (_ : p.may .rdata) (_ : p.may .regs) (_ : p.may .logs) (_ : p.may .mem) (_ : p.may .poison) (_ : p.may .upset) (_ : p.may .cells) (_ : p.may .evr) (_ : p.may .hostEvent) (_ : p.may .vats) (_ : p.may .mig) (_ : p.may .pwr) (_ : p.may .msix) (_ : p.may .now) :
    State.Kept p (State.engineLoop s a1_) := by
  induction a1_ generalizing s with
  | zero =>
    unfold State.engineLoop
    repeat' first
      | with_reducible assumption
      | with_reducible apply State.Kept.ite
      | with_reducible apply State.engineOnce_kept
      | split
  | succ n_ ih =>
    unfold State.engineLoop
    repeat' first
      | with_reducible apply ih
      | with_reducible assumption
      | with_reducible apply State.Kept.ite
      | with_reducible apply State.engineOnce_kept
      | split

theorem State.engine_kept {s : State} (h : s.Kept p) (_ : p.may .free) (_ : p.may .rdata) (_ : p.may .regs) (_ : p.may .logs) (_ : p.may .mem) (_ : p.may .poison) (_ : p.may .upset) (_ : p.may .cells) (_ : p.may .evr) (_ : p.may .hostEvent) (_ : p.may .vats) (_ : p.may .mig) (_ : p.may .pwr) (_ : p.may .msix) (_ : p.may .now) :
    State.Kept p (State.engine s) := by
  unfold State.engine
  repeat' first
    | with_reducible assumption
    | with_reducible apply State.engineLoop_kept

theorem State.seeHeld_kept {s : State} {h' : HeldRead} (h : s.Kept p) (_ : p.may .mig) :
    State.Kept p (State.seeHeld s h') := by
  unfold State.seeHeld
  repeat' first
    | with_reducible assumption
    | with_reducible apply State.Kept.ite
    | with_reducible apply State.modMig_kept
    | split

theorem migDemandMissEffect_kept {s : State} (h : s.Kept p) (_ : p.may .free) (_ : p.may .rdata) (_ : p.may .regs) (_ : p.may .logs) (_ : p.may .mem) (_ : p.may .poison) (_ : p.may .upset) (_ : p.may .cells) (_ : p.may .evr) (_ : p.may .hostEvent) (_ : p.may .vats) (_ : p.may .mig) (_ : p.may .pwr) (_ : p.may .msix) (_ : p.may .now) :
    State.Kept p (migDemandMissEffect s) := by
  unfold migDemandMissEffect
  repeat' first
    | with_reducible assumption
    | (intro x; first
        | (refine (have hx : State.Kept p x := ?_; ?_); subst x; rotate_left; clear_value x; rotate_right)
        | (refine (have hx : State.Kept p x.1 := ?_; ?_); subst x; rotate_left; clear_value x; rotate_right)
        | (try clear_value x))
    | lift_lets -underBinder
    | with_reducible apply State.Kept.ite
    | with_reducible apply State.bump_kept
    | with_reducible apply State.seeHeld_kept
    | with_reducible apply State.heldEnds_kept
    | with_reducible apply State.modLeaf_kept
    | with_reducible apply State.engine_kept
    | with_reducible apply State.modMig_kept
    | split

theorem State.freeReservoir_kept {s : State} {q : Nat} (h : s.Kept p) (_ : p.may .mem) (_ : p.may .poison) (_ : p.may .upset) (_ : p.may .mig) :
    State.Kept p (State.freeReservoir s q) := by
  unfold State.freeReservoir
  repeat' first
    | with_reducible assumption
    | with_reducible apply State.modLeaf_kept
    | with_reducible apply State.modMig_kept

theorem State.countCEs_kept {s : State} {blk : Nat} {key : Nat} {n : Nat} (h : s.Kept p) (_ : p.may .regs) (_ : p.may .evr) (_ : p.may .hostEvent) (_ : p.may .msix) (_ : p.may .now) :
    State.Kept p (State.countCEs s blk key n) := by
  unfold State.countCEs
  repeat' first
    | with_reducible assumption
    | (intro x; first
        | (refine (have hx : State.Kept p x := ?_; ?_); subst x; rotate_left; clear_value x; rotate_right)
        | (refine (have hx : State.Kept p x.1 := ?_; ?_); subst x; rotate_left; clear_value x; rotate_right)
        | (try clear_value x))
    | lift_lets -underBinder
    | with_reducible apply State.Kept.ite
    | with_reducible apply State.Kept.foldl
    | with_reducible apply State.Kept.foldl_fst
    | with_reducible apply State.bumpBy_kept
    | with_reducible apply State.outcome_kept
    | split

theorem State.fillMoves_kept {s : State} (h : s.Kept p) (_ : p.may .mig) :
    State.Kept p (State.fillMoves s) := by
  unfold State.fillMoves
  repeat' first
    | with_reducible assumption
    | with_reducible apply State.Kept.ite
    | with_reducible apply State.modMig_kept
    | split

theorem pageFillCompleteEffect_kept {link : LinkRead} {s : State} (h : s.Kept p) (_ : p.may .free) (_ : p.may .rdata) (_ : p.may .regs) (_ : p.may .logs) (_ : p.may .mem) (_ : p.may .poison) (_ : p.may .upset) (_ : p.may .cells) (_ : p.may .evr) (_ : p.may .hostEvent) (_ : p.may .vats) (_ : p.may .mig) (_ : p.may .pwr) (_ : p.may .msix) (_ : p.may .now) :
    State.Kept p (pageFillCompleteEffect link s) := by
  unfold pageFillCompleteEffect
  repeat' first
    | with_reducible assumption
    | (intro x; first
        | (refine (have hx : State.Kept p x := ?_; ?_); subst x; rotate_left; clear_value x; rotate_right)
        | (refine (have hx : State.Kept p x.1 := ?_; ?_); subst x; rotate_left; clear_value x; rotate_right)
        | (try clear_value x))
    | lift_lets -underBinder
    | with_reducible apply State.Kept.ite
    | with_reducible apply State.aquiferFault_kept
    | with_reducible apply State.jobPage_kept
    | with_reducible apply State.store_kept
    | with_reducible apply State.modLeaf_kept
    | with_reducible apply State.freeReservoir_kept
    | with_reducible apply State.engine_kept
    | with_reducible apply State.sendUpdate_kept
    | with_reducible apply State.countCEs_kept
    | with_reducible apply State.actHub_kept
    | with_reducible apply State.modMig_kept
    | split

theorem State.takeReservoir_kept {s : State} (h : s.Kept p) (_ : p.may .free) (_ : p.may .mem) (_ : p.may .poison) (_ : p.may .upset) (_ : p.may .mig) :
    ∀ r_, (State.takeReservoir s) = some r_ → State.Kept p r_.2 := by
  intro t e
  unfold State.takeReservoir at e
  try dsimp only at e
  repeat' (first | (cases e; done) | split at e)
  all_goals (try cases e)
  repeat' first
    | with_reducible assumption
    | (intro x; first
        | (refine (have hx : State.Kept p x := ?_; ?_); subst x; rotate_left; clear_value x; rotate_right)
        | (refine (have hx : State.Kept p x.1 := ?_; ?_); subst x; rotate_left; clear_value x; rotate_right)
        | (try clear_value x))
    | lift_lets -underBinder
    | with_reducible apply State.freeReservoir_kept
    | (with_reducible refine State.pickFree_kept ?_ (by assumption) _ (by assumption))
    | split

theorem aquiferReadCompleteEffect_kept {status : Nat} {data : List Byte} {s : State} (h : s.Kept p) (_ : p.may .free) (_ : p.may .rdata) (_ : p.may .regs) (_ : p.may .logs) (_ : p.may .mem) (_ : p.may .poison) (_ : p.may .upset) (_ : p.may .cells) (_ : p.may .evr) (_ : p.may .hostEvent) (_ : p.may .vats) (_ : p.may .mig) (_ : p.may .pwr) (_ : p.may .msix) (_ : p.may .now) :
    State.Kept p (aquiferReadCompleteEffect status data s) := by
  unfold aquiferReadCompleteEffect
  repeat' first
    | with_reducible assumption
    | (intro x; first
        | (refine (have hx : State.Kept p x := ?_; ?_); subst x; rotate_left; clear_value x; rotate_right)
        | (refine (have hx : State.Kept p x.1 := ?_; ?_); subst x; rotate_left; clear_value x; rotate_right)
        | (try clear_value x))
    | lift_lets -underBinder
    | with_reducible apply State.Kept.ite
    | with_reducible apply State.failFill_kept
    | with_reducible apply State.aquiferFault_kept
    | with_reducible apply State.jobPage_kept
    | (with_reducible refine State.takeReservoir_kept ?_ (by assumption) ‹_› (by with_reducible assumption) (by assumption) ‹_› _ (by assumption))
    | with_reducible apply State.modLeaf_kept
    | with_reducible apply State.engine_kept
    | with_reducible apply State.modMig_kept
    | split

theorem aquiferReadTimeoutEffect_kept {s : State} (h : s.Kept p) (_ : p.may .free) (_ : p.may .rdata) (_ : p.may .regs) (_ : p.may .logs) (_ : p.may .mem) (_ : p.may .poison) (_ : p.may .upset) (_ : p.may .cells) (_ : p.may .evr) (_ : p.may .hostEvent) (_ : p.may .vats) (_ : p.may .mig) (_ : p.may .pwr) (_ : p.may .msix) (_ : p.may .now) :
    State.Kept p (aquiferReadTimeoutEffect s) := by
  unfold aquiferReadTimeoutEffect
  repeat' first
    | with_reducible assumption
    | with_reducible apply State.Kept.ite
    | with_reducible apply State.aquiferFault_kept
    | with_reducible apply State.engine_kept
    | split

theorem aquiferLinkDownEffect_kept {s : State} (h : s.Kept p) (_ : p.may .free) (_ : p.may .rdata) (_ : p.may .regs) (_ : p.may .logs) (_ : p.may .mem) (_ : p.may .poison) (_ : p.may .upset) (_ : p.may .cells) (_ : p.may .evr) (_ : p.may .hostEvent) (_ : p.may .vats) (_ : p.may .mig) (_ : p.may .pwr) (_ : p.may .msix) (_ : p.may .now) :
    State.Kept p (aquiferLinkDownEffect s) := by
  unfold aquiferLinkDownEffect
  repeat' first
    | with_reducible assumption
    | (intro x; first
        | (refine (have hx : State.Kept p x := ?_; ?_); subst x; rotate_left; clear_value x; rotate_right)
        | (refine (have hx : State.Kept p x.1 := ?_; ?_); subst x; rotate_left; clear_value x; rotate_right)
        | (try clear_value x))
    | lift_lets -underBinder
    | with_reducible apply State.Kept.ite
    | with_reducible apply State.setReg_kept
    | with_reducible apply State.aquiferFault_kept
    | with_reducible apply State.outcome_kept
    | with_reducible apply State.engine_kept
    | split

theorem aquiferNvmeReadyEffect_kept {port : PortLink} {ready : Bool} {s : State} (h : s.Kept p) (_ : p.may .regs) :
    State.Kept p (aquiferNvmeReadyEffect port ready s) := by
  unfold aquiferNvmeReadyEffect
  repeat' first
    | with_reducible assumption
    | with_reducible apply State.Kept.ite
    | with_reducible apply State.setReg_kept
    | split

theorem evictFrameFreeEffect_kept {s : State} (h : s.Kept p) (_ : p.may .free) (_ : p.may .rdata) (_ : p.may .regs) (_ : p.may .logs) (_ : p.may .mem) (_ : p.may .poison) (_ : p.may .upset) (_ : p.may .cells) (_ : p.may .evr) (_ : p.may .hostEvent) (_ : p.may .vats) (_ : p.may .mig) (_ : p.may .pwr) (_ : p.may .msix) (_ : p.may .now) :
    State.Kept p (evictFrameFreeEffect s) := by
  unfold evictFrameFreeEffect
  repeat' first
    | with_reducible assumption
    | with_reducible apply State.Kept.ite
    | with_reducible apply State.engine_kept
    | with_reducible apply State.modMig_kept
    | split

theorem migCmdPushEffect_kept {value : Nat} {s : State} (h : s.Kept p) (_ : p.may .regs) (_ : p.may .mig) (_ : p.may .now) :
    State.Kept p (migCmdPushEffect value s) := by
  unfold migCmdPushEffect
  repeat' first
    | with_reducible assumption
    | (intro x; first
        | (refine (have hx : State.Kept p x := ?_; ?_); subst x; rotate_left; clear_value x; rotate_right)
        | (refine (have hx : State.Kept p x.1 := ?_; ?_); subst x; rotate_left; clear_value x; rotate_right)
        | (try clear_value x))
    | lift_lets -underBinder
    | with_reducible apply State.Kept.ite
    | with_reducible apply State.hwSetBit_kept
    | with_reducible apply State.bump_kept
    | with_reducible apply State.modMig_kept
    | split

theorem migCplReadEffect_kept {s : State} (h : s.Kept p) (_ : p.may .rdata) (_ : p.may .regs) (_ : p.may .logs) (_ : p.may .tb) (_ : p.may .evr) (_ : p.may .trace) (_ : p.may .traceDrop) :
    State.Kept p (migCplReadEffect s) := by
  unfold migCplReadEffect
  repeat' first
    | with_reducible assumption
    | (intro x; first
        | (refine (have hx : State.Kept p x := ?_; ?_); subst x; rotate_left; clear_value x; rotate_right)
        | (refine (have hx : State.Kept p x.1 := ?_; ?_); subst x; rotate_left; clear_value x; rotate_right)
        | (try clear_value x))
    | lift_lets -underBinder
    | with_reducible apply State.Kept.ite
    | with_reducible apply State.Kept.foldl
    | with_reducible apply State.Kept.foldl_fst
    | with_reducible apply State.readEffect_kept
    | (with_reducible apply State.Kept.upd_rdata <;> (first
      | with_reducible assumption
      | (intro _; with_reducible rfl)
      | (intro _; decide)
      | with_reducible apply State.readEffect_kept))
    | split

theorem State.mcRun_kept {s : State} {op : Nat} {ok : State → List Byte → Bool} {act : State → List Byte → State} (h : s.Kept p) (hact : ∀ (t : State) b0, t.Kept p → State.Kept p (act t b0)) (_ : p.may .regs) (_ : p.may .logs) (_ : p.may .mem) (_ : p.may .poison) (_ : p.may .upset) (_ : p.may .cells) (_ : p.may .evr) (_ : p.may .hostEvent) (_ : p.may .mig) (_ : p.may .pwr) (_ : p.may .msix) (_ : p.may .now) :
    State.Kept p (State.mcRun s op ok act) := by
  unfold State.mcRun
  repeat' first
    | with_reducible assumption
    | (intro x; first
        | (refine (have hx : State.Kept p x := ?_; ?_); subst x; rotate_left; clear_value x; rotate_right)
        | (refine (have hx : State.Kept p x.1 := ?_; ?_); subst x; rotate_left; clear_value x; rotate_right)
        | (try clear_value x))
    | lift_lets -underBinder
    | with_reducible apply State.Kept.ite
    | with_reducible apply hact
    | with_reducible apply State.migEnds_kept
    | with_reducible apply State.modMig_kept
    | split

theorem State.addLeaf_kept {s : State} {d : Nat} (h : s.Kept p) (_ : p.may .free) (_ : p.may .mem) (_ : p.may .poison) (_ : p.may .upset) (_ : p.may .mig) :
    State.Kept p (State.addLeaf s d) := by
  unfold State.addLeaf
  repeat' first
    | with_reducible assumption
    | (intro x; first
        | (refine (have hx : State.Kept p x := ?_; ?_); subst x; rotate_left; clear_value x; rotate_right)
        | (refine (have hx : State.Kept p x.1 := ?_; ?_); subst x; rotate_left; clear_value x; rotate_right)
        | (try clear_value x))
    | lift_lets -underBinder
    | with_reducible apply State.store_kept
    | with_reducible apply State.storeLE_kept
    | with_reducible apply State.sendUpdate_kept
    | (with_reducible refine State.pickFree_kept ?_ (by assumption) _ (by assumption))
    | split

theorem State.mapPage_kept {s : State} {b : List Byte} {i : Nat} (h : s.Kept p) (_ : p.may .mem) (_ : p.may .poison) (_ : p.may .upset) :
    State.Kept p (State.mapPage s b i) := by
  unfold State.mapPage
  repeat' first
    | with_reducible assumption
    | (intro x; first
        | (refine (have hx : State.Kept p x := ?_; ?_); subst x; rotate_left; clear_value x; rotate_right)
        | (refine (have hx : State.Kept p x.1 := ?_; ?_); subst x; rotate_left; clear_value x; rotate_right)
        | (try clear_value x))
    | lift_lets -underBinder
    | with_reducible apply State.storeLE_kept
    | split

theorem State.migMap_kept {s : State} {b : List Byte} (h : s.Kept p) (_ : p.may .free) (_ : p.may .regs) (_ : p.may .logs) (_ : p.may .mem) (_ : p.may .poison) (_ : p.may .upset) (_ : p.may .cells) (_ : p.may .evr) (_ : p.may .hostEvent) (_ : p.may .mig) (_ : p.may .pwr) (_ : p.may .msix) (_ : p.may .now) :
    State.Kept p (State.migMap s b) := by
  unfold State.migMap
  repeat' first
    | with_reducible assumption
    | (intro x; first
        | (refine (have hx : State.Kept p x := ?_; ?_); subst x; rotate_left; clear_value x; rotate_right)
        | (refine (have hx : State.Kept p x.1 := ?_; ?_); subst x; rotate_left; clear_value x; rotate_right)
        | (try clear_value x))
    | lift_lets -underBinder
    | with_reducible apply State.Kept.ite
    | with_reducible apply State.Kept.foldl
    | with_reducible apply State.Kept.foldl_fst
    | with_reducible apply State.setRegBit_kept
    | with_reducible apply State.store_kept
    | with_reducible apply State.migEnds_kept
    | with_reducible apply State.addLeaf_kept
    | with_reducible apply State.mapPage_kept
    | split

theorem migMapEffect_kept {s : State} (h : s.Kept p) (_ : p.may .free) (_ : p.may .regs) (_ : p.may .logs) (_ : p.may .mem) (_ : p.may .poison) (_ : p.may .upset) (_ : p.may .cells) (_ : p.may .evr) (_ : p.may .hostEvent) (_ : p.may .mig) (_ : p.may .pwr) (_ : p.may .msix) (_ : p.may .now) :
    State.Kept p (migMapEffect s) := by
  unfold migMapEffect
  repeat' first
    | with_reducible assumption
    | (intro x; first
        | (refine (have hx : State.Kept p x := ?_; ?_); subst x; rotate_left; clear_value x; rotate_right)
        | (refine (have hx : State.Kept p x.1 := ?_; ?_); subst x; rotate_left; clear_value x; rotate_right)
        | (try clear_value x))
    | lift_lets -underBinder
    | with_reducible apply State.migMap_kept
    | with_reducible apply State.mcRun_kept

theorem State.unmapPage_kept {s : State} {q : Nat} (h : s.Kept p) (_ : p.may .mem) (_ : p.may .poison) (_ : p.may .upset) (_ : p.may .mig) :
    State.Kept p (State.unmapPage s q) := by
  unfold State.unmapPage
  repeat' first
    | with_reducible assumption
    | (intro x; first
        | (refine (have hx : State.Kept p x := ?_; ?_); subst x; rotate_left; clear_value x; rotate_right)
        | (refine (have hx : State.Kept p x.1 := ?_; ?_); subst x; rotate_left; clear_value x; rotate_right)
        | (try clear_value x))
    | lift_lets -underBinder
    | with_reducible apply State.Kept.ite
    | with_reducible apply State.evictPage_kept
    | with_reducible apply State.store_kept
    | with_reducible apply State.freeReservoir_kept
    | split

theorem State.dropLeaf_kept {s : State} {d : Nat} (h : s.Kept p) (_ : p.may .mem) (_ : p.may .poison) (_ : p.may .upset) (_ : p.may .mig) :
    State.Kept p (State.dropLeaf s d) := by
  unfold State.dropLeaf
  repeat' first
    | with_reducible assumption
    | with_reducible apply State.Kept.ite
    | with_reducible apply State.storeLE_kept
    | with_reducible apply State.sendUpdate_kept
    | split

theorem State.awaitFrames_kept {s : State} {b : List Byte} {done : Nat} {frames : List Nat} (h : s.Kept p) (_ : p.may .free) (_ : p.may .rdata) (_ : p.may .regs) (_ : p.may .logs) (_ : p.may .mem) (_ : p.may .poison) (_ : p.may .upset) (_ : p.may .cells) (_ : p.may .evr) (_ : p.may .hostEvent) (_ : p.may .vats) (_ : p.may .mig) (_ : p.may .pwr) (_ : p.may .msix) (_ : p.may .now) :
    State.Kept p (State.awaitFrames s b done frames) := by
  unfold State.awaitFrames
  repeat' first
    | with_reducible assumption
    | with_reducible apply State.engine_kept
    | with_reducible apply State.modMig_kept

theorem State.migUnmap_kept {s : State} {b : List Byte} (h : s.Kept p) (_ : p.may .free) (_ : p.may .rdata) (_ : p.may .regs) (_ : p.may .logs) (_ : p.may .mem) (_ : p.may .poison) (_ : p.may .upset) (_ : p.may .cells) (_ : p.may .evr) (_ : p.may .hostEvent) (_ : p.may .vats) (_ : p.may .mig) (_ : p.may .pwr) (_ : p.may .msix) (_ : p.may .now) :
    State.Kept p (State.migUnmap s b) := by
  unfold State.migUnmap
  repeat' first
    | with_reducible assumption
    | (intro x; first
        | (refine (have hx : State.Kept p x := ?_; ?_); subst x; rotate_left; clear_value x; rotate_right)
        | (refine (have hx : State.Kept p x.1 := ?_; ?_); subst x; rotate_left; clear_value x; rotate_right)
        | (try clear_value x))
    | lift_lets -underBinder
    | with_reducible apply State.Kept.ite
    | with_reducible apply State.Kept.foldl
    | with_reducible apply State.Kept.foldl_fst
    | with_reducible apply State.migEnds_kept
    | with_reducible apply State.storeLE_kept
    | with_reducible apply State.dropLeaf_kept
    | with_reducible apply State.unmapPage_kept
    | with_reducible apply State.awaitFrames_kept
    | with_reducible apply State.setRegBits_kept
    | split

theorem migUnmapEffect_kept {s : State} (h : s.Kept p) (_ : p.may .free) (_ : p.may .rdata) (_ : p.may .regs) (_ : p.may .logs) (_ : p.may .mem) (_ : p.may .poison) (_ : p.may .upset) (_ : p.may .cells) (_ : p.may .evr) (_ : p.may .hostEvent) (_ : p.may .vats) (_ : p.may .mig) (_ : p.may .pwr) (_ : p.may .msix) (_ : p.may .now) :
    State.Kept p (migUnmapEffect s) := by
  unfold migUnmapEffect
  repeat' first
    | with_reducible assumption
    | (intro x; first
        | (refine (have hx : State.Kept p x := ?_; ?_); subst x; rotate_left; clear_value x; rotate_right)
        | (refine (have hx : State.Kept p x.1 := ?_; ?_); subst x; rotate_left; clear_value x; rotate_right)
        | (try clear_value x))
    | lift_lets -underBinder
    | with_reducible apply State.migUnmap_kept
    | with_reducible apply State.mcRun_kept

theorem State.migJob_kept {s : State} {b : List Byte} (h : s.Kept p) (_ : p.may .free) (_ : p.may .rdata) (_ : p.may .regs) (_ : p.may .logs) (_ : p.may .mem) (_ : p.may .poison) (_ : p.may .upset) (_ : p.may .cells) (_ : p.may .evr) (_ : p.may .hostEvent) (_ : p.may .vats) (_ : p.may .mig) (_ : p.may .pwr) (_ : p.may .msix) (_ : p.may .now) :
    State.Kept p (State.migJob s b) := by
  unfold State.migJob
  repeat' first
    | with_reducible assumption
    | with_reducible apply State.engine_kept
    | with_reducible apply State.modMig_kept

theorem migStageEffect_kept {s : State} (h : s.Kept p) (_ : p.may .free) (_ : p.may .rdata) (_ : p.may .regs) (_ : p.may .logs) (_ : p.may .mem) (_ : p.may .poison) (_ : p.may .upset) (_ : p.may .cells) (_ : p.may .evr) (_ : p.may .hostEvent) (_ : p.may .vats) (_ : p.may .mig) (_ : p.may .pwr) (_ : p.may .msix) (_ : p.may .now) :
    State.Kept p (migStageEffect s) := by
  unfold migStageEffect
  repeat' first
    | with_reducible assumption
    | (intro x; first
        | (refine (have hx : State.Kept p x := ?_; ?_); subst x; rotate_left; clear_value x; rotate_right)
        | (refine (have hx : State.Kept p x.1 := ?_; ?_); subst x; rotate_left; clear_value x; rotate_right)
        | (try clear_value x))
    | lift_lets -underBinder
    | with_reducible apply State.mcRun_kept
    | with_reducible apply State.migJob_kept

theorem migLoadEffect_kept {s : State} (h : s.Kept p) (_ : p.may .free) (_ : p.may .rdata) (_ : p.may .regs) (_ : p.may .logs) (_ : p.may .mem) (_ : p.may .poison) (_ : p.may .upset) (_ : p.may .cells) (_ : p.may .evr) (_ : p.may .hostEvent) (_ : p.may .vats) (_ : p.may .mig) (_ : p.may .pwr) (_ : p.may .msix) (_ : p.may .now) :
    State.Kept p (migLoadEffect s) := by
  unfold migLoadEffect
  repeat' first
    | with_reducible assumption
    | (intro x; first
        | (refine (have hx : State.Kept p x := ?_; ?_); subst x; rotate_left; clear_value x; rotate_right)
        | (refine (have hx : State.Kept p x.1 := ?_; ?_); subst x; rotate_left; clear_value x; rotate_right)
        | (try clear_value x))
    | lift_lets -underBinder
    | with_reducible apply State.mcRun_kept
    | with_reducible apply State.migJob_kept

theorem State.migPin_kept {s : State} {b : List Byte} (h : s.Kept p) (_ : p.may .regs) (_ : p.may .logs) (_ : p.may .mem) (_ : p.may .poison) (_ : p.may .upset) (_ : p.may .cells) (_ : p.may .evr) (_ : p.may .hostEvent) (_ : p.may .mig) (_ : p.may .pwr) (_ : p.may .msix) (_ : p.may .now) :
    State.Kept p (State.migPin s b) := by
  unfold State.migPin
  repeat' first
    | with_reducible assumption
    | (intro x; first
        | (refine (have hx : State.Kept p x := ?_; ?_); subst x; rotate_left; clear_value x; rotate_right)
        | (refine (have hx : State.Kept p x.1 := ?_; ?_); subst x; rotate_left; clear_value x; rotate_right)
        | (try clear_value x))
    | lift_lets -underBinder
    | with_reducible apply State.Kept.ite
    | with_reducible apply State.Kept.foldl
    | with_reducible apply State.Kept.foldl_fst
    | with_reducible apply State.migEnds_kept
    | with_reducible apply State.modLeaf_kept
    | split

theorem migPinEffect_kept {s : State} (h : s.Kept p) (_ : p.may .regs) (_ : p.may .logs) (_ : p.may .mem) (_ : p.may .poison) (_ : p.may .upset) (_ : p.may .cells) (_ : p.may .evr) (_ : p.may .hostEvent) (_ : p.may .mig) (_ : p.may .pwr) (_ : p.may .msix) (_ : p.may .now) :
    State.Kept p (migPinEffect s) := by
  unfold migPinEffect
  repeat' first
    | with_reducible assumption
    | (intro x; first
        | (refine (have hx : State.Kept p x := ?_; ?_); subst x; rotate_left; clear_value x; rotate_right)
        | (refine (have hx : State.Kept p x.1 := ?_; ?_); subst x; rotate_left; clear_value x; rotate_right)
        | (try clear_value x))
    | lift_lets -underBinder
    | with_reducible apply State.mcRun_kept
    | with_reducible apply State.migPin_kept

theorem State.migUnpin_kept {s : State} {b : List Byte} (h : s.Kept p) (_ : p.may .regs) (_ : p.may .logs) (_ : p.may .mem) (_ : p.may .poison) (_ : p.may .upset) (_ : p.may .cells) (_ : p.may .evr) (_ : p.may .hostEvent) (_ : p.may .mig) (_ : p.may .pwr) (_ : p.may .msix) (_ : p.may .now) :
    State.Kept p (State.migUnpin s b) := by
  unfold State.migUnpin
  repeat' first
    | with_reducible assumption
    | (intro x; first
        | (refine (have hx : State.Kept p x := ?_; ?_); subst x; rotate_left; clear_value x; rotate_right)
        | (refine (have hx : State.Kept p x.1 := ?_; ?_); subst x; rotate_left; clear_value x; rotate_right)
        | (try clear_value x))
    | lift_lets -underBinder
    | with_reducible apply State.Kept.foldl
    | with_reducible apply State.Kept.foldl_fst
    | with_reducible apply State.migEnds_kept
    | with_reducible apply State.modLeaf_kept

theorem migUnpinEffect_kept {s : State} (h : s.Kept p) (_ : p.may .regs) (_ : p.may .logs) (_ : p.may .mem) (_ : p.may .poison) (_ : p.may .upset) (_ : p.may .cells) (_ : p.may .evr) (_ : p.may .hostEvent) (_ : p.may .mig) (_ : p.may .pwr) (_ : p.may .msix) (_ : p.may .now) :
    State.Kept p (migUnpinEffect s) := by
  unfold migUnpinEffect
  repeat' first
    | with_reducible assumption
    | (intro x; first
        | (refine (have hx : State.Kept p x := ?_; ?_); subst x; rotate_left; clear_value x; rotate_right)
        | (refine (have hx : State.Kept p x.1 := ?_; ?_); subst x; rotate_left; clear_value x; rotate_right)
        | (try clear_value x))
    | lift_lets -underBinder
    | with_reducible apply State.mcRun_kept
    | with_reducible apply State.migUnpin_kept

theorem State.migDropL_kept {s : State} {b : List Byte} (h : s.Kept p) (_ : p.may .free) (_ : p.may .rdata) (_ : p.may .regs) (_ : p.may .logs) (_ : p.may .mem) (_ : p.may .poison) (_ : p.may .upset) (_ : p.may .cells) (_ : p.may .evr) (_ : p.may .hostEvent) (_ : p.may .vats) (_ : p.may .mig) (_ : p.may .pwr) (_ : p.may .msix) (_ : p.may .now) :
    State.Kept p (State.migDropL s b) := by
  unfold State.migDropL
  repeat' first
    | with_reducible assumption
    | (intro x; first
        | (refine (have hx : State.Kept p x := ?_; ?_); subst x; rotate_left; clear_value x; rotate_right)
        | (refine (have hx : State.Kept p x.1 := ?_; ?_); subst x; rotate_left; clear_value x; rotate_right)
        | (try clear_value x))
    | lift_lets -underBinder
    | with_reducible apply State.Kept.foldl
    | with_reducible apply State.Kept.foldl_fst
    | with_reducible apply State.evictPage_kept
    | with_reducible apply State.awaitFrames_kept

theorem migDropLEffect_kept {s : State} (h : s.Kept p) (_ : p.may .free) (_ : p.may .rdata) (_ : p.may .regs) (_ : p.may .logs) (_ : p.may .mem) (_ : p.may .poison) (_ : p.may .upset) (_ : p.may .cells) (_ : p.may .evr) (_ : p.may .hostEvent) (_ : p.may .vats) (_ : p.may .mig) (_ : p.may .pwr) (_ : p.may .msix) (_ : p.may .now) :
    State.Kept p (migDropLEffect s) := by
  unfold migDropLEffect
  repeat' first
    | with_reducible assumption
    | (intro x; first
        | (refine (have hx : State.Kept p x := ?_; ?_); subst x; rotate_left; clear_value x; rotate_right)
        | (refine (have hx : State.Kept p x.1 := ?_; ?_); subst x; rotate_left; clear_value x; rotate_right)
        | (try clear_value x))
    | lift_lets -underBinder
    | with_reducible apply State.migDropL_kept
    | with_reducible apply State.mcRun_kept

theorem State.migDropR_kept {s : State} {b : List Byte} (h : s.Kept p) (_ : p.may .regs) (_ : p.may .logs) (_ : p.may .mem) (_ : p.may .poison) (_ : p.may .upset) (_ : p.may .cells) (_ : p.may .evr) (_ : p.may .hostEvent) (_ : p.may .mig) (_ : p.may .pwr) (_ : p.may .msix) (_ : p.may .now) :
    State.Kept p (State.migDropR s b) := by
  unfold State.migDropR
  repeat' first
    | with_reducible assumption
    | (intro x; first
        | (refine (have hx : State.Kept p x := ?_; ?_); subst x; rotate_left; clear_value x; rotate_right)
        | (refine (have hx : State.Kept p x.1 := ?_; ?_); subst x; rotate_left; clear_value x; rotate_right)
        | (try clear_value x))
    | lift_lets -underBinder
    | with_reducible apply State.Kept.foldl
    | with_reducible apply State.Kept.foldl_fst
    | with_reducible apply State.migEnds_kept
    | with_reducible apply State.freeReservoir_kept

theorem migDropREffect_kept {s : State} (h : s.Kept p) (_ : p.may .regs) (_ : p.may .logs) (_ : p.may .mem) (_ : p.may .poison) (_ : p.may .upset) (_ : p.may .cells) (_ : p.may .evr) (_ : p.may .hostEvent) (_ : p.may .mig) (_ : p.may .pwr) (_ : p.may .msix) (_ : p.may .now) :
    State.Kept p (migDropREffect s) := by
  unfold migDropREffect
  repeat' first
    | with_reducible assumption
    | (intro x; first
        | (refine (have hx : State.Kept p x := ?_; ?_); subst x; rotate_left; clear_value x; rotate_right)
        | (refine (have hx : State.Kept p x.1 := ?_; ?_); subst x; rotate_left; clear_value x; rotate_right)
        | (try clear_value x))
    | lift_lets -underBinder
    | with_reducible apply State.mcRun_kept
    | with_reducible apply State.migDropR_kept

theorem State.migClearFault_kept {s : State} {b : List Byte} (h : s.Kept p) (_ : p.may .regs) (_ : p.may .logs) (_ : p.may .mem) (_ : p.may .poison) (_ : p.may .upset) (_ : p.may .cells) (_ : p.may .evr) (_ : p.may .hostEvent) (_ : p.may .mig) (_ : p.may .pwr) (_ : p.may .msix) (_ : p.may .now) :
    State.Kept p (State.migClearFault s b) := by
  unfold State.migClearFault
  repeat' first
    | with_reducible assumption
    | (intro x; first
        | (refine (have hx : State.Kept p x := ?_; ?_); subst x; rotate_left; clear_value x; rotate_right)
        | (refine (have hx : State.Kept p x.1 := ?_; ?_); subst x; rotate_left; clear_value x; rotate_right)
        | (try clear_value x))
    | lift_lets -underBinder
    | with_reducible apply State.Kept.foldl
    | with_reducible apply State.Kept.foldl_fst
    | with_reducible apply State.migEnds_kept
    | with_reducible apply State.modLeaf_kept

theorem State.mcUnknown_kept {s : State} (h : s.Kept p) (_ : p.may .regs) (_ : p.may .logs) (_ : p.may .mem) (_ : p.may .poison) (_ : p.may .upset) (_ : p.may .cells) (_ : p.may .evr) (_ : p.may .hostEvent) (_ : p.may .mig) (_ : p.may .pwr) (_ : p.may .msix) (_ : p.may .now) :
    State.Kept p (State.mcUnknown s) := by
  unfold State.mcUnknown
  repeat' first
    | with_reducible assumption
    | with_reducible apply State.Kept.ite
    | with_reducible apply State.migEnds_kept
    | with_reducible apply State.modMig_kept
    | split

theorem migClearFaultEffect_kept {s : State} (h : s.Kept p) (_ : p.may .regs) (_ : p.may .logs) (_ : p.may .mem) (_ : p.may .poison) (_ : p.may .upset) (_ : p.may .cells) (_ : p.may .evr) (_ : p.may .hostEvent) (_ : p.may .mig) (_ : p.may .pwr) (_ : p.may .msix) (_ : p.may .now) :
    State.Kept p (migClearFaultEffect s) := by
  unfold migClearFaultEffect
  repeat' first
    | with_reducible assumption
    | (intro x; first
        | (refine (have hx : State.Kept p x := ?_; ?_); subst x; rotate_left; clear_value x; rotate_right)
        | (refine (have hx : State.Kept p x.1 := ?_; ?_); subst x; rotate_left; clear_value x; rotate_right)
        | (try clear_value x))
    | lift_lets -underBinder
    | with_reducible apply State.migClearFault_kept
    | with_reducible apply State.mcUnknown_kept
    | with_reducible apply State.mcRun_kept

theorem State.scrubWord_kept {s : State} {a : Nat} (h : s.Kept p) (_ : p.may .regs) (_ : p.may .logs) (_ : p.may .mem) (_ : p.may .poison) (_ : p.may .upset) (_ : p.may .evr) (_ : p.may .line) (_ : p.may .auth) (_ : p.may .safe) (_ : p.may .hostEvent) (_ : p.may .mig) (_ : p.may .fbx) (_ : p.may .trace) (_ : p.may .traceDrop) (_ : p.may .msix) (_ : p.may .firm) (_ : p.may .now) :
    State.Kept p (State.scrubWord s a) := by
  unfold State.scrubWord
  repeat' first
    | with_reducible assumption
    | with_reducible apply State.Kept.ite
    | with_reducible apply State.eccRead_kept
    | with_reducible apply State.withdrawAt_kept
    | split

theorem sramScrubEffect_kept {m : Fin 10} {s : State} (h : s.Kept p) (_ : p.may .regs) (_ : p.may .logs) (_ : p.may .mem) (_ : p.may .poison) (_ : p.may .upset) (_ : p.may .evr) (_ : p.may .line) (_ : p.may .auth) (_ : p.may .safe) (_ : p.may .hostEvent) (_ : p.may .mig) (_ : p.may .fbx) (_ : p.may .trace) (_ : p.may .traceDrop) (_ : p.may .msix) (_ : p.may .firm) (_ : p.may .now) :
    State.Kept p (sramScrubEffect m s) := by
  unfold sramScrubEffect
  repeat' first
    | with_reducible assumption
    | (intro x; first
        | (refine (have hx : State.Kept p x := ?_; ?_); subst x; rotate_left; clear_value x; rotate_right)
        | (refine (have hx : State.Kept p x.1 := ?_; ?_); subst x; rotate_left; clear_value x; rotate_right)
        | (try clear_value x))
    | lift_lets -underBinder
    | with_reducible apply State.scrubWord_kept
    | with_reducible apply State.modMig_kept

theorem State.scrubLake_kept {s : State} {k : Nat} (h : s.Kept p) (_ : p.may .regs) (_ : p.may .logs) (_ : p.may .mem) (_ : p.may .poison) (_ : p.may .upset) (_ : p.may .evr) (_ : p.may .line) (_ : p.may .auth) (_ : p.may .safe) (_ : p.may .hostEvent) (_ : p.may .mig) (_ : p.may .fbx) (_ : p.may .trace) (_ : p.may .traceDrop) (_ : p.may .msix) (_ : p.may .firm) (_ : p.may .now) :
    State.Kept p (State.scrubLake s k) := by
  unfold State.scrubLake
  repeat' first
    | with_reducible assumption
    | (intro x; first
        | (refine (have hx : State.Kept p x := ?_; ?_); subst x; rotate_left; clear_value x; rotate_right)
        | (refine (have hx : State.Kept p x.1 := ?_; ?_); subst x; rotate_left; clear_value x; rotate_right)
        | (try clear_value x))
    | lift_lets -underBinder
    | with_reducible apply State.Kept.foldl
    | with_reducible apply State.Kept.foldl_fst
    | with_reducible apply State.setReg_kept
    | with_reducible apply State.scrubWord_kept

theorem lakeRefreshSubslotEffect_kept {s : State} (h : s.Kept p) (_ : p.may .regs) (_ : p.may .logs) (_ : p.may .mem) (_ : p.may .poison) (_ : p.may .upset) (_ : p.may .evr) (_ : p.may .line) (_ : p.may .auth) (_ : p.may .safe) (_ : p.may .hostEvent) (_ : p.may .mig) (_ : p.may .fbx) (_ : p.may .trace) (_ : p.may .traceDrop) (_ : p.may .msix) (_ : p.may .firm) (_ : p.may .now) :
    State.Kept p (lakeRefreshSubslotEffect s) := by
  unfold lakeRefreshSubslotEffect
  repeat' first
    | with_reducible assumption
    | (intro x; first
        | (refine (have hx : State.Kept p x := ?_; ?_); subst x; rotate_left; clear_value x; rotate_right)
        | (refine (have hx : State.Kept p x.1 := ?_; ?_); subst x; rotate_left; clear_value x; rotate_right)
        | (try clear_value x))
    | lift_lets -underBinder
    | with_reducible apply State.Kept.ite
    | with_reducible apply State.Kept.foldl
    | with_reducible apply State.Kept.foldl_fst
    | with_reducible apply State.scrubLake_kept
    | with_reducible apply State.modMig_kept
    | split

end Sys2Proof.Machine
end

