-- ==== Sys2Proof/Laws/KeptClient.lean ====
section
/-! SUPPORT. State.Kept through the operations of Machine/Client.lean. -/

set_option linter.all false

namespace Sys2Proof.Machine

variable {p : Promise}

theorem State.fetchPart_kept {s : State} {i : Initiator} {p' : Nat} {a : Nat} {n : Nat} {dl : Option Nat} (h : s.Kept p) (_ : p.may .regs) (_ : p.may .logs) (_ : p.may .mem) (_ : p.may .poison) (_ : p.may .upset) (_ : p.may .evr) (_ : p.may .line) (_ : p.may .auth) (_ : p.may .safe) (_ : p.may .hostEvent) (_ : p.may .mig) (_ : p.may .fbx) (_ : p.may .trace) (_ : p.may .traceDrop) (_ : p.may .msix) (_ : p.may .firm) (_ : p.may .now) :
    State.Kept p (State.fetchPart s i p' a n dl).1 := by
  unfold State.fetchPart
  repeat' first
    | with_reducible assumption
    | (intro x; first
        | (refine (have hx : State.Kept p x := ?_; ?_); subst x; rotate_left; clear_value x; rotate_right)
        | (refine (have hx : State.Kept p x.1 := ?_; ?_); subst x; rotate_left; clear_value x; rotate_right)
        | (try clear_value x))
    | lift_lets -underBinder
    | with_reducible apply State.Kept.ite
    | with_reducible apply State.readPart_kept
    | split

theorem State.fetch_kept {s : State} {i : Initiator} {p' : Nat} {a : Nat} {n : Nat} {dl : Option Nat} (h : s.Kept p) (_ : p.may .regs) (_ : p.may .logs) (_ : p.may .mem) (_ : p.may .poison) (_ : p.may .upset) (_ : p.may .evr) (_ : p.may .line) (_ : p.may .auth) (_ : p.may .safe) (_ : p.may .hostEvent) (_ : p.may .mig) (_ : p.may .fbx) (_ : p.may .pwr) (_ : p.may .trace) (_ : p.may .traceDrop) (_ : p.may .msix) (_ : p.may .firm) (_ : p.may .now) :
    State.Kept p (State.fetch s i p' a n dl).1 := by
  unfold State.fetch
  repeat' first
    | with_reducible assumption
    | (intro x; first
        | (refine (have hx : State.Kept p x := ?_; ?_); subst x; rotate_left; clear_value x; rotate_right)
        | (refine (have hx : State.Kept p x.1 := ?_; ?_); subst x; rotate_left; clear_value x; rotate_right)
        | (try clear_value x))
    | lift_lets -underBinder
    | with_reducible apply State.Kept.ite
    | with_reducible apply State.Kept.foldl
    | with_reducible apply State.Kept.foldl_fst
    | with_reducible apply State.eccRead_kept
    | with_reducible apply State.refuse_kept
    | with_reducible apply State.actHub_kept
    | with_reducible apply State.modMig_kept
    | with_reducible apply State.fetchPart_kept
    | split

theorem State.keepRead_kept {u : State × Got} {i : Initiator} {j : Nat} {a : Nat} {n : Nat} (h : u.1.Kept p) (_ : p.may .mig) :
    State.Kept p (State.keepRead u i j a n).1 := by
  unfold State.keepRead
  repeat' first
    | with_reducible assumption
    | with_reducible apply State.modMig_kept
    | split

theorem State.gather_kept {s : State} {i : Initiator} {j : Nat} {p' : Nat} {a : Nat} {n : Nat} {dl : Option Nat} (h : s.Kept p) (_ : p.may .regs) (_ : p.may .logs) (_ : p.may .mem) (_ : p.may .poison) (_ : p.may .upset) (_ : p.may .evr) (_ : p.may .line) (_ : p.may .auth) (_ : p.may .safe) (_ : p.may .hostEvent) (_ : p.may .mig) (_ : p.may .fbx) (_ : p.may .pwr) (_ : p.may .trace) (_ : p.may .traceDrop) (_ : p.may .msix) (_ : p.may .firm) (_ : p.may .now) :
    State.Kept p (State.gather s i j p' a n dl).1 := by
  unfold State.gather
  repeat' first
    | with_reducible assumption
    | with_reducible apply State.Kept.ite
    | with_reducible apply State.keepRead_kept
    | with_reducible apply State.fetch_kept
    | split

theorem State.gatherCell_kept {s : State} {i : Initiator} {j : Nat} {p' : Nat} {a : Nat} (h : s.Kept p) (_ : p.may .regs) (_ : p.may .logs) (_ : p.may .upset) (_ : p.may .evr) (_ : p.may .line) (_ : p.may .auth) (_ : p.may .safe) (_ : p.may .hostEvent) (_ : p.may .mig) (_ : p.may .fbx) (_ : p.may .trace) (_ : p.may .traceDrop) (_ : p.may .msix) (_ : p.may .firm) (_ : p.may .now) :
    State.Kept p (State.gatherCell s i j p' a).1 := by
  unfold State.gatherCell
  repeat' first
    | with_reducible assumption
    | with_reducible apply State.Kept.ite
    | with_reducible apply State.eccRead_kept
    | with_reducible apply State.keepRead_kept
    | with_reducible apply State.refuse_kept
    | split

theorem State.dropReads_kept {s : State} {i : Initiator} {j : Nat} (h : s.Kept p) (_ : p.may .mig) :
    State.Kept p (State.dropReads s i j) := by
  unfold State.dropReads
  repeat' first
    | with_reducible assumption
    | with_reducible apply State.modMig_kept

theorem State.deliver_kept {s : State} {i : Initiator} {p' : Nat} {a : Nat} {l : List Byte} (h : s.Kept p) (_ : p.may .regs) (_ : p.may .logs) (_ : p.may .mem) (_ : p.may .poison) (_ : p.may .upset) (_ : p.may .evr) (_ : p.may .hostEvent) (_ : p.may .pwr) (_ : p.may .msix) (_ : p.may .now) :
    State.Kept p (State.deliver s i p' a l).1 := by
  unfold State.deliver
  repeat' first
    | with_reducible assumption
    | with_reducible apply State.Kept.ite
    | with_reducible apply State.refuse_kept
    | with_reducible apply State.store_kept
    | with_reducible apply State.actHub_kept
    | with_reducible apply State.mend_kept
    | split

theorem State.complete_kept {s : State} {i : Initiator} {p' : Nat} {cell : Nat} {status : Nat} (h : s.Kept p) (_ : p.may .regs) (_ : p.may .logs) (_ : p.may .mem) (_ : p.may .poison) (_ : p.may .upset) (_ : p.may .cells) (_ : p.may .evr) (_ : p.may .hostEvent) (_ : p.may .mig) (_ : p.may .pwr) (_ : p.may .msix) (_ : p.may .now) :
    State.Kept p (State.complete s i p' cell status) := by
  unfold State.complete
  repeat' first
    | with_reducible assumption
    | with_reducible apply State.postCell_kept

end Sys2Proof.Machine
end

