-- ==== Sys2Proof/Laws/KeptRind.lean ====
section
/-! SUPPORT. State.Kept through the operations of Machine/Rind.lean. -/

set_option linter.all false

namespace Sys2Proof.Machine

variable {p : Promise}

theorem State.modLine_kept {s : State} {f : DoubtLine → DoubtLine} (h : s.Kept p) (_ : p.may .line) :
    State.Kept p (State.modLine s f) := by
  unfold State.modLine
  exact State.Kept.upd_line h (by assumption)

theorem State.modFbx_kept {s : State} {f : Fbx → Fbx} (h : s.Kept p) (_ : p.may .fbx) :
    State.Kept p (State.modFbx s f) := by
  unfold State.modFbx
  exact State.Kept.upd_fbx h (by assumption)

theorem doubtCodeSendEffect_kept {s : State} (h : s.Kept p) (_ : p.may .line) :
    State.Kept p (doubtCodeSendEffect s) := by
  unfold doubtCodeSendEffect
  repeat' first
    | with_reducible assumption
    | with_reducible apply State.modLine_kept
    | split

theorem doubtCodeReceiveEffect_kept {s : State} (h : s.Kept p) (_ : p.may .regs) (_ : p.may .line) :
    State.Kept p (doubtCodeReceiveEffect s) := by
  unfold doubtCodeReceiveEffect
  repeat' first
    | with_reducible assumption
    | (intro x; first
        | (refine (have hx : State.Kept p x := ?_; ?_); subst x; rotate_left; clear_value x; rotate_right)
        | (refine (have hx : State.Kept p x.1 := ?_; ?_); subst x; rotate_left; clear_value x; rotate_right)
        | (try clear_value x))
    | lift_lets -underBinder
    | with_reducible apply State.modLine_kept
    | with_reducible apply State.bump_kept
    | with_reducible apply State.rindFirst_kept
    | split

theorem doubtCodeTimeoutEffect_kept {s : State} (h : s.Kept p) (_ : p.may .regs) (_ : p.may .evr) (_ : p.may .line) (_ : p.may .auth) (_ : p.may .safe) (_ : p.may .hostEvent) (_ : p.may .fbx) (_ : p.may .trace) (_ : p.may .traceDrop) (_ : p.may .msix) (_ : p.may .firm) (_ : p.may .now) :
    State.Kept p (doubtCodeTimeoutEffect s) := by
  unfold doubtCodeTimeoutEffect
  repeat' first
    | with_reducible assumption
    | with_reducible apply State.Kept.ite
    | with_reducible apply State.modLine_kept
    | with_reducible apply State.raise_kept
    | split

theorem doubtQualifyEffect_kept {s : State} (h : s.Kept p) (_ : p.may .regs) (_ : p.may .evr) (_ : p.may .line) (_ : p.may .auth) (_ : p.may .hostEvent) (_ : p.may .fbx) (_ : p.may .msix) (_ : p.may .firm) (_ : p.may .now) :
    State.Kept p (doubtQualifyEffect s) := by
  unfold doubtQualifyEffect
  repeat' first
    | with_reducible assumption
    | with_reducible apply State.Kept.ite
    | with_reducible apply State.modLine_kept
    | with_reducible apply State.doubtActs_kept
    | split

theorem doubtGlitchEffect_kept {s : State} (h : s.Kept p) (_ : p.may .regs) (_ : p.may .line) :
    State.Kept p (doubtGlitchEffect s) := by
  unfold doubtGlitchEffect
  repeat' first
    | with_reducible assumption
    | with_reducible apply State.Kept.ite
    | with_reducible apply State.modLine_kept
    | with_reducible apply State.bump_kept
    | split

theorem State.settleDoubt_kept {s : State} (h : s.Kept p) (_ : p.may .regs) (_ : p.may .line) (_ : p.may .hostEvent) (_ : p.may .msix) (_ : p.may .now) :
    State.Kept p (State.settleDoubt s) := by
  unfold State.settleDoubt
  repeat' first
    | with_reducible assumption
    | (intro x; first
        | (refine (have hx : State.Kept p x := ?_; ?_); subst x; rotate_left; clear_value x; rotate_right)
        | (refine (have hx : State.Kept p x.1 := ?_; ?_); subst x; rotate_left; clear_value x; rotate_right)
        | (try clear_value x))
    | lift_lets -underBinder
    | with_reducible apply State.Kept.ite
    | with_reducible apply State.modLine_kept
    | with_reducible apply State.syncState_kept
    | split

theorem State.clearDoubt_kept {s : State} {rind : Bool} {v : Nat} (h : s.Kept p) (_ : p.may .regs) (_ : p.may .line) (_ : p.may .hostEvent) (_ : p.may .msix) (_ : p.may .now) :
    State.Kept p (State.clearDoubt s rind v) := by
  unfold State.clearDoubt
  repeat' first
    | with_reducible assumption
    | (intro x; first
        | (refine (have hx : State.Kept p x := ?_; ?_); subst x; rotate_left; clear_value x; rotate_right)
        | (refine (have hx : State.Kept p x.1 := ?_; ?_); subst x; rotate_left; clear_value x; rotate_right)
        | (try clear_value x))
    | lift_lets -underBinder
    | with_reducible apply State.Kept.ite
    | with_reducible apply State.hwSetBit_kept
    | with_reducible apply State.setReg_kept
    | with_reducible apply State.settleDoubt_kept
    | split

theorem doubtClearEffect_kept {rind : Bool} {clear : BitVec 32} {s : State} (h : s.Kept p) (_ : p.may .regs) (_ : p.may .line) (_ : p.may .hostEvent) (_ : p.may .msix) (_ : p.may .now) :
    State.Kept p (doubtClearEffect rind clear s) := by
  unfold doubtClearEffect
  repeat' first
    | with_reducible assumption
    | with_reducible apply State.clearDoubt_kept

theorem hdHeartbeatEffect_kept {s : State} (h : s.Kept p) (_ : p.may .wd) :
    State.Kept p (hdHeartbeatEffect s) := by
  unfold hdHeartbeatEffect
  repeat' first
    | with_reducible assumption
    | with_reducible apply State.Kept.ite
    | (with_reducible apply State.Kept.upd_wd <;> with_reducible assumption)
    | split

theorem hdHeartbeatMissEffect_kept {s : State} (h : s.Kept p) (_ : p.may .regs) (_ : p.may .evr) (_ : p.may .line) (_ : p.may .auth) (_ : p.may .safe) (_ : p.may .hostEvent) (_ : p.may .fbx) (_ : p.may .wd) (_ : p.may .trace) (_ : p.may .traceDrop) (_ : p.may .msix) (_ : p.may .firm) (_ : p.may .now) :
    State.Kept p (hdHeartbeatMissEffect s) := by
  unfold hdHeartbeatMissEffect
  repeat' first
    | with_reducible assumption
    | with_reducible apply State.Kept.ite
    | with_reducible apply State.raise_kept
    | (with_reducible apply State.Kept.upd_wd <;> with_reducible assumption)
    | split

theorem rindWdtKickEffect_kept {v : BitVec 32} {s : State} (h : s.Kept p) (_ : p.may .regs) (_ : p.may .evr) (_ : p.may .line) (_ : p.may .auth) (_ : p.may .safe) (_ : p.may .hostEvent) (_ : p.may .fbx) (_ : p.may .wd) (_ : p.may .trace) (_ : p.may .traceDrop) (_ : p.may .msix) (_ : p.may .firm) (_ : p.may .now) :
    State.Kept p (rindWdtKickEffect v s) := by
  unfold rindWdtKickEffect
  repeat' first
    | with_reducible assumption
    | (intro x; first
        | (refine (have hx : State.Kept p x := ?_; ?_); subst x; rotate_left; clear_value x; rotate_right)
        | (refine (have hx : State.Kept p x.1 := ?_; ?_); subst x; rotate_left; clear_value x; rotate_right)
        | (try clear_value x))
    | lift_lets -underBinder
    | with_reducible apply State.Kept.ite
    | with_reducible apply State.raise_kept
    | (with_reducible apply State.Kept.upd_wd <;> with_reducible assumption)
    | split

theorem watchdogMissEffect_kept {s : State} (h : s.Kept p) (_ : p.may .regs) (_ : p.may .evr) (_ : p.may .line) (_ : p.may .auth) (_ : p.may .safe) (_ : p.may .hostEvent) (_ : p.may .fbx) (_ : p.may .wd) (_ : p.may .trace) (_ : p.may .traceDrop) (_ : p.may .msix) (_ : p.may .firm) (_ : p.may .now) :
    State.Kept p (watchdogMissEffect s) := by
  unfold watchdogMissEffect
  repeat' first
    | with_reducible assumption
    | with_reducible apply State.Kept.ite
    | with_reducible apply State.raise_kept
    | (with_reducible apply State.Kept.upd_wd <;> with_reducible assumption)
    | split

theorem supplyLimitEffect_kept {rails : BitVec 16} {s : State} (h : s.Kept p) (_ : p.may .regs) (_ : p.may .evr) (_ : p.may .line) (_ : p.may .auth) (_ : p.may .safe) (_ : p.may .hostEvent) (_ : p.may .fbx) (_ : p.may .trace) (_ : p.may .traceDrop) (_ : p.may .msix) (_ : p.may .firm) (_ : p.may .now) :
    State.Kept p (supplyLimitEffect rails s) := by
  unfold supplyLimitEffect
  repeat' first
    | with_reducible assumption
    | (intro x; first
        | (refine (have hx : State.Kept p x := ?_; ?_); subst x; rotate_left; clear_value x; rotate_right)
        | (refine (have hx : State.Kept p x.1 := ?_; ?_); subst x; rotate_left; clear_value x; rotate_right)
        | (try clear_value x))
    | lift_lets -underBinder
    | with_reducible apply State.Kept.ite
    | with_reducible apply State.setReg_kept
    | with_reducible apply State.raise_kept
    | split

theorem fbxHbReqEffect_kept {v : BitVec 32} {s : State} (h : s.Kept p) (_ : p.may .regs) (_ : p.may .auth) (_ : p.may .hostEvent) (_ : p.may .fbx) (_ : p.may .msix) (_ : p.may .now) :
    State.Kept p (fbxHbReqEffect v s) := by
  unfold fbxHbReqEffect
  repeat' first
    | with_reducible assumption
    | with_reducible apply State.Kept.ite
    | with_reducible apply State.syncState_kept
    | (with_reducible apply State.Kept.upd_auth_fbx <;> (first | with_reducible assumption | (intro _; with_reducible rfl) | (intro _; decide)))
    | split

theorem fbxHbGoEffect_kept {v : BitVec 32} {s : State} (h : s.Kept p) (_ : p.may .fbx) :
    State.Kept p (fbxHbGoEffect v s) := by
  unfold fbxHbGoEffect
  repeat' first
    | with_reducible assumption
    | with_reducible apply State.Kept.ite
    | with_reducible apply State.modFbx_kept
    | split

/-- The one command that makes the authority MAIN. -/
theorem handbackCompleteEffect_kept {s : State} (h : s.Kept p) (_ : p.may .regs) (_ : p.may .auth) (_ : p.may .hostEvent) (_ : p.may .fbx) (_ : p.may .msix) (_ : p.may .now) (hfb : p.fallback = false) : (handbackCompleteEffect s).Kept p := by
  unfold handbackCompleteEffect
  split
  · apply State.syncState_kept <;> try (with_reducible assumption)
    apply State.Kept.upd_auth_fbx <;> try (with_reducible assumption)
    simp [hfb]
  · exact h


theorem State.handbackLapse_kept {s : State} (h : s.Kept p) (_ : p.may .regs) (_ : p.may .evr) (_ : p.may .auth) (_ : p.may .hostEvent) (_ : p.may .fbx) (_ : p.may .msix) (_ : p.may .firm) (_ : p.may .now) :
    State.Kept p (State.handbackLapse s) := by
  unfold State.handbackLapse
  repeat' first
    | with_reducible assumption
    | with_reducible apply State.Kept.ite
    | with_reducible apply State.cancelHandback_kept
    | split

end Sys2Proof.Machine
end

