-- ==== Sys2Proof/Laws/KeptFallback.lean ====
section
/-! SUPPORT. State.Kept through the operations of Machine/Fallback.lean. -/

set_option linter.all false

namespace Sys2Proof.Machine

variable {p : Promise}

theorem State.trjCommit_kept {s : State} (h : s.Kept p) (_ : p.may .regs) (_ : p.may .evr) (_ : p.may .hostEvent) (_ : p.may .fbx) (_ : p.may .msix) (_ : p.may .now) :
    State.Kept p (State.trjCommit s) := by
  unfold State.trjCommit
  repeat' first
    | with_reducible assumption
    | (intro x; first
        | (refine (have hx : State.Kept p x := ?_; ?_); subst x; rotate_left; clear_value x; rotate_right)
        | (refine (have hx : State.Kept p x.1 := ?_; ?_); subst x; rotate_left; clear_value x; rotate_right)
        | (try clear_value x))
    | lift_lets -underBinder
    | with_reducible apply State.Kept.ite
    | with_reducible apply State.setReg_kept
    | with_reducible apply State.bump_kept
    | with_reducible apply State.postRd_kept
    | with_reducible apply State.modFbx_kept
    | split

theorem fbxTrjCommitEffect_kept {v : BitVec 32} {s : State} (h : s.Kept p) (_ : p.may .regs) (_ : p.may .evr) (_ : p.may .hostEvent) (_ : p.may .fbx) (_ : p.may .msix) (_ : p.may .now) :
    State.Kept p (fbxTrjCommitEffect v s) := by
  unfold fbxTrjCommitEffect
  repeat' first
    | with_reducible assumption
    | with_reducible apply State.Kept.ite
    | with_reducible apply State.trjCommit_kept
    | split

theorem fbxLateEffect_kept {s : State} (h : s.Kept p) (_ : p.may .regs) (_ : p.may .evr) (_ : p.may .line) (_ : p.may .auth) (_ : p.may .safe) (_ : p.may .hostEvent) (_ : p.may .fbx) (_ : p.may .trace) (_ : p.may .traceDrop) (_ : p.may .msix) (_ : p.may .firm) (_ : p.may .now) :
    State.Kept p (fbxLateEffect s) := by
  unfold fbxLateEffect
  repeat' first
    | with_reducible assumption
    | with_reducible apply State.Kept.ite
    | with_reducible apply State.raise_kept
    | split

theorem State.fbxSample_kept {s : State} (h : s.Kept p) (_ : p.may .fbx) :
    State.Kept p (State.fbxSample s) := by
  unfold State.fbxSample
  repeat' first
    | with_reducible assumption
    | with_reducible apply State.modFbx_kept

theorem State.fbxAxis_kept {s : State} {a : Nat} (h : s.Kept p) (_ : p.may .regs) (_ : p.may .fbx) :
    State.Kept p (State.fbxAxis s a) := by
  unfold State.fbxAxis
  repeat' first
    | with_reducible assumption
    | (intro x; first
        | (refine (have hx : State.Kept p x := ?_; ?_); subst x; rotate_left; clear_value x; rotate_right)
        | (refine (have hx : State.Kept p x.1 := ?_; ?_); subst x; rotate_left; clear_value x; rotate_right)
        | (try clear_value x))
    | lift_lets -underBinder
    | with_reducible apply State.Kept.ite
    | with_reducible apply State.bump_kept
    | with_reducible apply State.modFbx_kept
    | split

theorem State.fbxMissPort_kept {s : State} {p' : Nat} (h : s.Kept p) (_ : p.may .regs) (_ : p.may .fbx) :
    State.Kept p (State.fbxMissPort s p') := by
  unfold State.fbxMissPort
  repeat' first
    | with_reducible assumption
    | (intro x; first
        | (refine (have hx : State.Kept p x := ?_; ?_); subst x; rotate_left; clear_value x; rotate_right)
        | (refine (have hx : State.Kept p x.1 := ?_; ?_); subst x; rotate_left; clear_value x; rotate_right)
        | (try clear_value x))
    | lift_lets -underBinder
    | with_reducible apply State.Kept.ite
    | with_reducible apply State.bump_kept
    | with_reducible apply State.modFbx_kept
    | split

theorem fbxTrackingStepEffect_kept {s : State} (h : s.Kept p) (_ : p.may .regs) (_ : p.may .fbx) :
    State.Kept p (fbxTrackingStepEffect s) := by
  unfold fbxTrackingStepEffect
  repeat' first
    | with_reducible assumption
    | (intro x; first
        | (refine (have hx : State.Kept p x := ?_; ?_); subst x; rotate_left; clear_value x; rotate_right)
        | (refine (have hx : State.Kept p x.1 := ?_; ?_); subst x; rotate_left; clear_value x; rotate_right)
        | (try clear_value x))
    | lift_lets -underBinder
    | with_reducible apply State.Kept.ite
    | with_reducible apply State.Kept.foldl
    | with_reducible apply State.Kept.foldl_fst
    | with_reducible apply State.fbxSample_kept
    | with_reducible apply State.fbxAxis_kept
    | with_reducible apply State.modFbx_kept
    | with_reducible apply State.fbxMissPort_kept
    | split

theorem fbxCommandFrameEffect_kept {p' : Fin 8} {s : State} (h : s.Kept p) (_ : p.may .fbx) :
    State.Kept p (fbxCommandFrameEffect p' s) := by
  unfold fbxCommandFrameEffect
  repeat' first
    | with_reducible assumption
    | (intro x; first
        | (refine (have hx : State.Kept p x := ?_; ?_); subst x; rotate_left; clear_value x; rotate_right)
        | (refine (have hx : State.Kept p x.1 := ?_; ?_); subst x; rotate_left; clear_value x; rotate_right)
        | (try clear_value x))
    | lift_lets -underBinder
    | with_reducible apply State.Kept.ite
    | with_reducible apply State.modFbx_kept
    | split

theorem safeFrameEffect_kept {s : State} (h : s.Kept p) (_ : p.may .free) (_ : p.may .fbx) :
    State.Kept p (safeFrameEffect s) := by
  unfold safeFrameEffect
  repeat' first
    | with_reducible assumption
    | (intro x; first
        | (refine (have hx : State.Kept p x := ?_; ?_); subst x; rotate_left; clear_value x; rotate_right)
        | (refine (have hx : State.Kept p x.1 := ?_; ?_); subst x; rotate_left; clear_value x; rotate_right)
        | (try clear_value x))
    | lift_lets -underBinder
    | with_reducible apply State.Kept.ite
    | with_reducible apply State.Kept.foldl
    | with_reducible apply State.Kept.foldl_fst
    | with_reducible apply State.useFrees_kept
    | with_reducible apply State.modFbx_kept
    | split

theorem State.ethSend_kept {s : State} {i : Nat} {f : List Byte} (h : s.Kept p) (_ : p.may .fbx) :
    State.Kept p (State.ethSend s i f) := by
  unfold State.ethSend
  repeat' first
    | with_reducible assumption
    | with_reducible apply State.modFbx_kept

theorem fbxEthSendEffect_kept {s : State} (h : s.Kept p) (_ : p.may .fbx) :
    State.Kept p (fbxEthSendEffect s) := by
  unfold fbxEthSendEffect
  repeat' first
    | with_reducible assumption
    | (intro x; first
        | (refine (have hx : State.Kept p x := ?_; ?_); subst x; rotate_left; clear_value x; rotate_right)
        | (refine (have hx : State.Kept p x.1 := ?_; ?_); subst x; rotate_left; clear_value x; rotate_right)
        | (try clear_value x))
    | lift_lets -underBinder
    | with_reducible apply State.Kept.ite
    | with_reducible apply State.ethSend_kept
    | split

theorem fbxEndActionEffect_kept {s : State} (h : s.Kept p) (_ : p.may .fbx) :
    State.Kept p (fbxEndActionEffect s) := by
  unfold fbxEndActionEffect
  repeat' first
    | with_reducible assumption
    | (intro x; first
        | (refine (have hx : State.Kept p x := ?_; ?_); subst x; rotate_left; clear_value x; rotate_right)
        | (refine (have hx : State.Kept p x.1 := ?_; ?_); subst x; rotate_left; clear_value x; rotate_right)
        | (try clear_value x))
    | lift_lets -underBinder
    | with_reducible apply State.Kept.ite
    | with_reducible apply State.Kept.foldl
    | with_reducible apply State.Kept.foldl_fst
    | with_reducible apply State.modFbx_kept
    | split

end Sys2Proof.Machine
end

