-- ==== Sys2Proof/Laws/KeptHarp.lean ====
section
/-! SUPPORT. State.Kept through the operations of Machine/Harp.lean. -/

set_option linter.all false

namespace Sys2Proof.Machine

variable {p : Promise}

theorem State.modHarp_kept {s : State} {e : Nat} {f : HarpEngine → HarpEngine} (h : s.Kept p) (_ : p.may .harp) :
    State.Kept p (State.modHarp s e f) := by
  unfold State.modHarp
  repeat' first
    | with_reducible assumption
    | (intro x; first
        | (refine (have hx : State.Kept p x := ?_; ?_); subst x; rotate_left; clear_value x; rotate_right)
        | (refine (have hx : State.Kept p x.1 := ?_; ?_); subst x; rotate_left; clear_value x; rotate_right)
        | (try clear_value x))
    | lift_lets -underBinder
    | with_reducible apply State.Kept.ite
    | with_reducible apply State.Kept.foldl
    | with_reducible apply State.Kept.foldl_fst
    | (with_reducible apply State.Kept.upd_harp <;> (first | with_reducible assumption | (simp only [listModify_length, listSet_length]; done)))
    | split

theorem State.harpTell_kept {s : State} {d : List Byte} {code : Nat} (h : s.Kept p) (_ : p.may .regs) (_ : p.may .logs) (_ : p.may .cells) (_ : p.may .now) :
    State.Kept p (State.harpTell s d code) := by
  unfold State.harpTell
  repeat' first
    | with_reducible assumption
    | with_reducible apply State.Kept.ite
    | with_reducible apply State.refuse_kept
    | with_reducible apply State.cellOp_kept
    | split

theorem State.harpWord_kept {s : State} {d : List Byte} {w : Nat} (h : s.Kept p) (_ : p.may .regs) (_ : p.may .logs) (_ : p.may .mem) (_ : p.may .poison) (_ : p.may .upset) :
    State.Kept p (State.harpWord s d w) := by
  unfold State.harpWord
  repeat' first
    | with_reducible assumption
    | with_reducible apply State.Kept.ite
    | with_reducible apply State.refuse_kept
    | with_reducible apply State.storeLE_kept
    | split

theorem State.harpNotify_kept {s : State} {e : Nat} {d : List Byte} {w : Nat} {code : Nat} (h : s.Kept p) (_ : p.may .regs) (_ : p.may .logs) (_ : p.may .mem) (_ : p.may .poison) (_ : p.may .upset) (_ : p.may .cells) (_ : p.may .harp) (_ : p.may .now) :
    State.Kept p (State.harpNotify s e d w code) := by
  unfold State.harpNotify
  repeat' first
    | with_reducible assumption
    | with_reducible apply State.Kept.ite
    | with_reducible apply State.harpWord_kept
    | with_reducible apply State.modHarp_kept
    | with_reducible apply State.harpTell_kept
    | split

theorem State.harpCancel_kept {s : State} {e : Nat} (h : s.Kept p) (_ : p.may .mig) (_ : p.may .harp) :
    State.Kept p (State.harpCancel s e) := by
  unfold State.harpCancel
  repeat' first
    | with_reducible assumption
    | with_reducible apply State.modHarp_kept
    | with_reducible apply State.modMig_kept

theorem State.harpFail_kept {s : State} {e : Nat} {code : Nat} (h : s.Kept p) (_ : p.may .regs) (_ : p.may .logs) (_ : p.may .mem) (_ : p.may .poison) (_ : p.may .upset) (_ : p.may .cells) (_ : p.may .mig) (_ : p.may .harp) (_ : p.may .now) :
    State.Kept p (State.harpFail s e code) := by
  unfold State.harpFail
  repeat' first
    | with_reducible assumption
    | (intro x; first
        | (refine (have hx : State.Kept p x := ?_; ?_); subst x; rotate_left; clear_value x; rotate_right)
        | (refine (have hx : State.Kept p x.1 := ?_; ?_); subst x; rotate_left; clear_value x; rotate_right)
        | (try clear_value x))
    | lift_lets -underBinder
    | with_reducible apply State.Kept.ite
    | with_reducible apply State.harpCancel_kept
    | with_reducible apply State.modHarp_kept
    | with_reducible apply State.harpNotify_kept
    | split

theorem State.harpIssue_kept {s : State} {e : Nat} {r : HarpRead} (h : s.Kept p) (_ : p.may .regs) (_ : p.may .logs) (_ : p.may .mem) (_ : p.may .poison) (_ : p.may .upset) (_ : p.may .evr) (_ : p.may .line) (_ : p.may .auth) (_ : p.may .safe) (_ : p.may .hostEvent) (_ : p.may .mig) (_ : p.may .harp) (_ : p.may .fbx) (_ : p.may .pwr) (_ : p.may .trace) (_ : p.may .traceDrop) (_ : p.may .msix) (_ : p.may .firm) (_ : p.may .now) :
    State.Kept p (State.harpIssue s e r) := by
  unfold State.harpIssue
  repeat' first
    | with_reducible assumption
    | (intro x; first
        | (refine (have hx : State.Kept p x := ?_; ?_); subst x; rotate_left; clear_value x; rotate_right)
        | (refine (have hx : State.Kept p x.1 := ?_; ?_); subst x; rotate_left; clear_value x; rotate_right)
        | skip)
    | lift_lets -underBinder
    | with_reducible apply State.Kept.ite
    | with_reducible apply State.Kept.foldl
    | with_reducible apply State.Kept.foldl_fst
    | with_reducible apply State.readPart_kept
    | with_reducible apply State.eccRead_kept
    | with_reducible apply State.modHarp_kept
    | with_reducible apply State.actHub_kept
    | split

theorem State.harpRead_kept {s : State} {e : Nat} {a : Nat} {n : Nat} (h : s.Kept p) (_ : p.may .regs) (_ : p.may .logs) (_ : p.may .mem) (_ : p.may .poison) (_ : p.may .upset) (_ : p.may .evr) (_ : p.may .line) (_ : p.may .auth) (_ : p.may .safe) (_ : p.may .hostEvent) (_ : p.may .mig) (_ : p.may .harp) (_ : p.may .fbx) (_ : p.may .pwr) (_ : p.may .trace) (_ : p.may .traceDrop) (_ : p.may .msix) (_ : p.may .firm) (_ : p.may .now) :
    State.Kept p (State.harpRead s e a n).1 := by
  unfold State.harpRead
  repeat' first
    | with_reducible assumption
    | (intro x; first
        | (refine (have hx : State.Kept p x := ?_; ?_); subst x; rotate_left; clear_value x; rotate_right)
        | (refine (have hx : State.Kept p x.1 := ?_; ?_); subst x; rotate_left; clear_value x; rotate_right)
        | (try clear_value x))
    | lift_lets -underBinder
    | with_reducible apply State.Kept.ite
    | with_reducible apply State.harpIssue_kept
    | with_reducible apply State.refuse_kept
    | split

theorem State.harpResend_kept {s : State} {e : Nat} (h : s.Kept p) (_ : p.may .regs) (_ : p.may .logs) (_ : p.may .mem) (_ : p.may .poison) (_ : p.may .upset) (_ : p.may .evr) (_ : p.may .line) (_ : p.may .auth) (_ : p.may .safe) (_ : p.may .hostEvent) (_ : p.may .mig) (_ : p.may .harp) (_ : p.may .fbx) (_ : p.may .pwr) (_ : p.may .trace) (_ : p.may .traceDrop) (_ : p.may .msix) (_ : p.may .firm) (_ : p.may .now) :
    State.Kept p (State.harpResend s e) := by
  unfold State.harpResend
  repeat' first
    | with_reducible assumption
    | (intro x; first
        | (refine (have hx : State.Kept p x := ?_; ?_); subst x; rotate_left; clear_value x; rotate_right)
        | (refine (have hx : State.Kept p x.1 := ?_; ?_); subst x; rotate_left; clear_value x; rotate_right)
        | (try clear_value x))
    | lift_lets -underBinder
    | with_reducible apply State.Kept.foldl
    | with_reducible apply State.Kept.foldl_fst
    | with_reducible apply State.harpIssue_kept
    | with_reducible apply State.modHarp_kept

theorem State.harpCollect_kept {s : State} {e : Nat} (h : s.Kept p) (_ : p.may .mig) (_ : p.may .harp) :
    State.Kept p (State.harpCollect s e).1 := by
  unfold State.harpCollect
  repeat' first
    | with_reducible assumption
    | (intro x; first
        | (refine (have hx : State.Kept p x := ?_; ?_); subst x; rotate_left; clear_value x; rotate_right)
        | (refine (have hx : State.Kept p x.1 := ?_; ?_); subst x; rotate_left; clear_value x; rotate_right)
        | (try clear_value x))
    | lift_lets -underBinder
    | with_reducible apply State.Kept.ite
    | with_reducible apply State.modHarp_kept
    | with_reducible apply State.modMig_kept
    | split

theorem State.harpLoad_kept {s : State} {e : Nat} (h : s.Kept p) (_ : p.may .regs) (_ : p.may .logs) (_ : p.may .mem) (_ : p.may .poison) (_ : p.may .upset) (_ : p.may .cells) (_ : p.may .mig) (_ : p.may .harp) (_ : p.may .now) :
    State.Kept p (State.harpLoad s e) := by
  unfold State.harpLoad
  repeat' first
    | with_reducible assumption
    | (intro x; first
        | (refine (have hx : State.Kept p x := ?_; ?_); subst x; rotate_left; clear_value x; rotate_right)
        | (refine (have hx : State.Kept p x.1 := ?_; ?_); subst x; rotate_left; clear_value x; rotate_right)
        | (try clear_value x))
    | lift_lets -underBinder
    | with_reducible apply State.Kept.ite
    | with_reducible apply State.modHarp_kept
    | with_reducible apply State.harpFail_kept
    | with_reducible apply State.harpCollect_kept
    | split

theorem State.harpArmNow_kept {s : State} {e : Nat} (h : s.Kept p) (_ : p.may .regs) (_ : p.may .logs) (_ : p.may .mem) (_ : p.may .poison) (_ : p.may .upset) (_ : p.may .cells) (_ : p.may .evr) (_ : p.may .line) (_ : p.may .auth) (_ : p.may .safe) (_ : p.may .hostEvent) (_ : p.may .mig) (_ : p.may .harp) (_ : p.may .fbx) (_ : p.may .pwr) (_ : p.may .trace) (_ : p.may .traceDrop) (_ : p.may .msix) (_ : p.may .firm) (_ : p.may .now) :
    State.Kept p (State.harpArmNow s e) := by
  unfold State.harpArmNow
  repeat' first
    | with_reducible assumption
    | (intro x; first
        | (refine (have hx : State.Kept p x := ?_; ?_); subst x; rotate_left; clear_value x; rotate_right)
        | (refine (have hx : State.Kept p x.1 := ?_; ?_); subst x; rotate_left; clear_value x; rotate_right)
        | (try clear_value x))
    | lift_lets -underBinder
    | with_reducible apply State.Kept.ite
    | with_reducible apply State.Kept.foldl
    | with_reducible apply State.Kept.foldl_fst
    | with_reducible apply State.setReg_kept
    | with_reducible apply State.eccRead_kept
    | with_reducible apply State.modHarp_kept
    | with_reducible apply State.harpFail_kept
    | with_reducible apply State.harpLoad_kept
    | with_reducible apply State.harpRead_kept
    | with_reducible apply State.actHub_kept
    | split

theorem harpArmEffect_kept {e : Fin 4} {s : State} (h : s.Kept p) (_ : p.may .regs) (_ : p.may .logs) (_ : p.may .mem) (_ : p.may .poison) (_ : p.may .upset) (_ : p.may .cells) (_ : p.may .evr) (_ : p.may .line) (_ : p.may .auth) (_ : p.may .safe) (_ : p.may .hostEvent) (_ : p.may .mig) (_ : p.may .harp) (_ : p.may .fbx) (_ : p.may .pwr) (_ : p.may .trace) (_ : p.may .traceDrop) (_ : p.may .msix) (_ : p.may .firm) (_ : p.may .now) :
    State.Kept p (harpArmEffect e s) := by
  unfold harpArmEffect
  repeat' first
    | with_reducible assumption
    | (intro x; first
        | (refine (have hx : State.Kept p x := ?_; ?_); subst x; rotate_left; clear_value x; rotate_right)
        | (refine (have hx : State.Kept p x.1 := ?_; ?_); subst x; rotate_left; clear_value x; rotate_right)
        | (try clear_value x))
    | lift_lets -underBinder
    | with_reducible apply State.Kept.ite
    | with_reducible apply State.hwSetBit_kept
    | with_reducible apply State.harpArmNow_kept
    | with_reducible apply State.setRegBits_kept
    | split

theorem harpDisarmEffect_kept {e : Fin 4} {s : State} (h : s.Kept p) (_ : p.may .regs) (_ : p.may .harp) :
    State.Kept p (harpDisarmEffect e s) := by
  unfold harpDisarmEffect
  repeat' first
    | with_reducible assumption
    | (intro x; first
        | (refine (have hx : State.Kept p x := ?_; ?_); subst x; rotate_left; clear_value x; rotate_right)
        | (refine (have hx : State.Kept p x.1 := ?_; ?_); subst x; rotate_left; clear_value x; rotate_right)
        | (try clear_value x))
    | lift_lets -underBinder
    | with_reducible apply State.Kept.ite
    | with_reducible apply State.modHarp_kept
    | with_reducible apply State.setRegBits_kept
    | split

theorem State.harpFrameStart_kept {s : State} {stream : Nat} (h : s.Kept p) (_ : p.may .harp) :
    State.Kept p (State.harpFrameStart s stream) := by
  unfold State.harpFrameStart
  repeat' first
    | with_reducible assumption
    | (intro x; first
        | (refine (have hx : State.Kept p x := ?_; ?_); subst x; rotate_left; clear_value x; rotate_right)
        | (refine (have hx : State.Kept p x.1 := ?_; ?_); subst x; rotate_left; clear_value x; rotate_right)
        | (try clear_value x))
    | lift_lets -underBinder
    | with_reducible apply State.Kept.ite
    | with_reducible apply State.Kept.foldl
    | with_reducible apply State.Kept.foldl_fst
    | with_reducible apply State.modHarp_kept
    | split

theorem State.harpFrameStop_kept {s : State} {stream : Nat} (h : s.Kept p) (_ : p.may .regs) (_ : p.may .harp) :
    State.Kept p (State.harpFrameStop s stream) := by
  unfold State.harpFrameStop
  repeat' first
    | with_reducible assumption
    | (intro x; first
        | (refine (have hx : State.Kept p x := ?_; ?_); subst x; rotate_left; clear_value x; rotate_right)
        | (refine (have hx : State.Kept p x.1 := ?_; ?_); subst x; rotate_left; clear_value x; rotate_right)
        | (try clear_value x))
    | lift_lets -underBinder
    | with_reducible apply State.Kept.ite
    | with_reducible apply State.Kept.foldl
    | with_reducible apply State.Kept.foldl_fst
    | with_reducible apply State.bump_kept
    | with_reducible apply State.modHarp_kept
    | split

theorem State.harpLine_kept {s : State} {stream : Nat} {l : List Byte} (h : s.Kept p) (_ : p.may .harp) :
    State.Kept p (State.harpLine s stream l) := by
  unfold State.harpLine
  repeat' first
    | with_reducible assumption
    | (intro x; first
        | (refine (have hx : State.Kept p x := ?_; ?_); subst x; rotate_left; clear_value x; rotate_right)
        | (refine (have hx : State.Kept p x.1 := ?_; ?_); subst x; rotate_left; clear_value x; rotate_right)
        | (try clear_value x))
    | lift_lets -underBinder
    | with_reducible apply State.Kept.ite
    | with_reducible apply State.Kept.foldl
    | with_reducible apply State.Kept.foldl_fst
    | with_reducible apply State.modHarp_kept
    | split

theorem State.harpStreamRow_kept {s : State} {e : Nat} (h : s.Kept p) (_ : p.may .regs) (_ : p.may .harp) :
    State.Kept p (State.harpStreamRow s e) := by
  unfold State.harpStreamRow
  repeat' first
    | with_reducible assumption
    | (intro x; first
        | (refine (have hx : State.Kept p x := ?_; ?_); subst x; rotate_left; clear_value x; rotate_right)
        | (refine (have hx : State.Kept p x.1 := ?_; ?_); subst x; rotate_left; clear_value x; rotate_right)
        | (try clear_value x))
    | lift_lets -underBinder
    | with_reducible apply State.Kept.ite
    | with_reducible apply State.bump_kept
    | with_reducible apply State.modHarp_kept
    | split

theorem State.harpMemRow_kept {s : State} {e : Nat} (h : s.Kept p) (_ : p.may .regs) (_ : p.may .logs) (_ : p.may .mem) (_ : p.may .poison) (_ : p.may .upset) (_ : p.may .evr) (_ : p.may .line) (_ : p.may .auth) (_ : p.may .safe) (_ : p.may .hostEvent) (_ : p.may .mig) (_ : p.may .harp) (_ : p.may .fbx) (_ : p.may .pwr) (_ : p.may .trace) (_ : p.may .traceDrop) (_ : p.may .msix) (_ : p.may .firm) (_ : p.may .now) :
    State.Kept p (State.harpMemRow s e) := by
  unfold State.harpMemRow
  repeat' first
    | with_reducible assumption
    | (intro x; first
        | (refine (have hx : State.Kept p x := ?_; ?_); subst x; rotate_left; clear_value x; rotate_right)
        | (refine (have hx : State.Kept p x.1 := ?_; ?_); subst x; rotate_left; clear_value x; rotate_right)
        | (try clear_value x))
    | lift_lets -underBinder
    | with_reducible apply State.Kept.ite
    | with_reducible apply State.Kept.foldl
    | with_reducible apply State.Kept.foldl_fst
    | with_reducible apply State.harpCancel_kept
    | with_reducible apply State.modHarp_kept
    | with_reducible apply State.harpResend_kept
    | with_reducible apply State.harpRead_kept
    | with_reducible apply State.harpCollect_kept
    | split

theorem harpRowArrivalEffect_kept {e : Fin 4} {s : State} (h : s.Kept p) (_ : p.may .regs) (_ : p.may .logs) (_ : p.may .mem) (_ : p.may .poison) (_ : p.may .upset) (_ : p.may .cells) (_ : p.may .evr) (_ : p.may .line) (_ : p.may .auth) (_ : p.may .safe) (_ : p.may .hostEvent) (_ : p.may .mig) (_ : p.may .harp) (_ : p.may .fbx) (_ : p.may .pwr) (_ : p.may .trace) (_ : p.may .traceDrop) (_ : p.may .msix) (_ : p.may .firm) (_ : p.may .now) :
    State.Kept p (harpRowArrivalEffect e s) := by
  unfold harpRowArrivalEffect
  repeat' first
    | with_reducible assumption
    | (intro x; first
        | (refine (have hx : State.Kept p x := ?_; ?_); subst x; rotate_left; clear_value x; rotate_right)
        | (refine (have hx : State.Kept p x.1 := ?_; ?_); subst x; rotate_left; clear_value x; rotate_right)
        | (try clear_value x))
    | lift_lets -underBinder
    | with_reducible apply State.Kept.ite
    | with_reducible apply State.harpStreamRow_kept
    | with_reducible apply State.harpLoad_kept
    | with_reducible apply State.harpResend_kept
    | with_reducible apply State.harpMemRow_kept
    | split

theorem State.harpWrite_kept {s : State} {e : Nat} {w : HarpWrite} {rest : List HarpWrite} (h : s.Kept p) (_ : p.may .regs) (_ : p.may .logs) (_ : p.may .mem) (_ : p.may .poison) (_ : p.may .upset) (_ : p.may .evr) (_ : p.may .hostEvent) (_ : p.may .harp) (_ : p.may .pwr) (_ : p.may .msix) (_ : p.may .now) :
    State.Kept p (State.harpWrite s e w rest) := by
  unfold State.harpWrite
  repeat' first
    | with_reducible assumption
    | (intro x; first
        | (refine (have hx : State.Kept p x := ?_; ?_); subst x; rotate_left; clear_value x; rotate_right)
        | (refine (have hx : State.Kept p x.1 := ?_; ?_); subst x; rotate_left; clear_value x; rotate_right)
        | (try clear_value x))
    | lift_lets -underBinder
    | with_reducible apply State.Kept.ite
    | with_reducible apply State.modHarp_kept
    | with_reducible apply State.refuse_kept
    | with_reducible apply State.putBytes_kept
    | with_reducible apply State.actHub_kept
    | split

theorem State.harpDrain_kept {s : State} {e : Nat} (h : s.Kept p) (_ : p.may .regs) (_ : p.may .logs) (_ : p.may .mem) (_ : p.may .poison) (_ : p.may .upset) (_ : p.may .evr) (_ : p.may .hostEvent) (_ : p.may .harp) (_ : p.may .pwr) (_ : p.may .msix) (_ : p.may .now) :
    State.Kept p (State.harpDrain s e) := by
  unfold State.harpDrain
  repeat' first
    | with_reducible assumption
    | (intro x; first
        | (refine (have hx : State.Kept p x := ?_; ?_); subst x; rotate_left; clear_value x; rotate_right)
        | (refine (have hx : State.Kept p x.1 := ?_; ?_); subst x; rotate_left; clear_value x; rotate_right)
        | (try clear_value x))
    | lift_lets -underBinder
    | with_reducible apply State.Kept.ite
    | with_reducible apply State.Kept.foldl
    | with_reducible apply State.Kept.foldl_fst
    | with_reducible apply State.harpWrite_kept
    | split

theorem State.harpCe_kept {s : State} {e : Nat} {n : Nat} (h : s.Kept p) (_ : p.may .regs) (_ : p.may .evr) (_ : p.may .hostEvent) (_ : p.may .msix) (_ : p.may .now) :
    State.Kept p (State.harpCe s e n) := by
  unfold State.harpCe
  repeat' first
    | with_reducible assumption
    | (intro x; first
        | (refine (have hx : State.Kept p x := ?_; ?_); subst x; rotate_left; clear_value x; rotate_right)
        | (refine (have hx : State.Kept p x.1 := ?_; ?_); subst x; rotate_left; clear_value x; rotate_right)
        | (try clear_value x))
    | lift_lets -underBinder
    | with_reducible apply State.Kept.ite
    | with_reducible apply State.Kept.foldl
    | with_reducible apply State.Kept.foldl_fst
    | with_reducible apply State.countCE_kept
    | split

theorem harpOutputRowEffect_kept {e : Fin 4} {s : State} (h : s.Kept p) (_ : p.may .regs) (_ : p.may .evr) (_ : p.may .hostEvent) (_ : p.may .harp) (_ : p.may .msix) (_ : p.may .now) :
    State.Kept p (harpOutputRowEffect e s) := by
  unfold harpOutputRowEffect
  repeat' first
    | with_reducible assumption
    | (intro x; first
        | (refine (have hx : State.Kept p x := ?_; ?_); subst x; rotate_left; clear_value x; rotate_right)
        | (refine (have hx : State.Kept p x.1 := ?_; ?_); subst x; rotate_left; clear_value x; rotate_right)
        | (try clear_value x))
    | lift_lets -underBinder
    | with_reducible apply State.Kept.ite
    | with_reducible apply State.modHarp_kept
    | with_reducible apply State.harpCe_kept
    | split

theorem harpFrameEndEffect_kept {e : Fin 4} {s : State} (h : s.Kept p) (_ : p.may .regs) (_ : p.may .logs) (_ : p.may .mem) (_ : p.may .poison) (_ : p.may .upset) (_ : p.may .cells) (_ : p.may .harp) (_ : p.may .now) :
    State.Kept p (harpFrameEndEffect e s) := by
  unfold harpFrameEndEffect
  repeat' first
    | with_reducible assumption
    | (intro x; first
        | (refine (have hx : State.Kept p x := ?_; ?_); subst x; rotate_left; clear_value x; rotate_right)
        | (refine (have hx : State.Kept p x.1 := ?_; ?_); subst x; rotate_left; clear_value x; rotate_right)
        | (try clear_value x))
    | lift_lets -underBinder
    | with_reducible apply State.Kept.ite
    | with_reducible apply State.bump_kept
    | with_reducible apply State.modHarp_kept
    | with_reducible apply State.harpNotify_kept
    | with_reducible apply State.setRegBits_kept
    | split

theorem harpReadDeadlineEffect_kept {e : Fin 4} {s : State} (h : s.Kept p) (_ : p.may .regs) (_ : p.may .logs) (_ : p.may .mem) (_ : p.may .poison) (_ : p.may .upset) (_ : p.may .cells) (_ : p.may .mig) (_ : p.may .harp) (_ : p.may .now) :
    State.Kept p (harpReadDeadlineEffect e s) := by
  unfold harpReadDeadlineEffect
  repeat' first
    | with_reducible assumption
    | (intro x; first
        | (refine (have hx : State.Kept p x := ?_; ?_); subst x; rotate_left; clear_value x; rotate_right)
        | (refine (have hx : State.Kept p x.1 := ?_; ?_); subst x; rotate_left; clear_value x; rotate_right)
        | (try clear_value x))
    | lift_lets -underBinder
    | with_reducible apply State.Kept.ite
    | with_reducible apply State.harpCancel_kept
    | with_reducible apply State.bumpBy_kept
    | with_reducible apply State.modHarp_kept
    | with_reducible apply State.harpFail_kept
    | split

theorem State.goldBegin_kept {s : State} {e : Nat} (h : s.Kept p) (_ : p.may .harp) :
    State.Kept p (State.goldBegin s e) := by
  unfold State.goldBegin
  repeat' first
    | with_reducible assumption
    | with_reducible apply State.modHarp_kept

theorem State.goldFinish_kept {s : State} {e : Nat} {sig : Nat} (h : s.Kept p) (_ : p.may .regs) (_ : p.may .harp) :
    State.Kept p (State.goldFinish s e sig) := by
  unfold State.goldFinish
  repeat' first
    | with_reducible assumption
    | (intro x; first
        | (refine (have hx : State.Kept p x := ?_; ?_); subst x; rotate_left; clear_value x; rotate_right)
        | (refine (have hx : State.Kept p x.1 := ?_; ?_); subst x; rotate_left; clear_value x; rotate_right)
        | (try clear_value x))
    | lift_lets -underBinder
    | with_reducible apply State.Kept.ite
    | with_reducible apply State.setReg_kept
    | with_reducible apply State.bump_kept
    | with_reducible apply State.modHarp_kept
    | split

theorem State.goldDrop_kept {s : State} {e : Nat} {v : Nat} {d : Nat} (h : s.Kept p) (_ : p.may .regs) (_ : p.may .evr) (_ : p.may .line) (_ : p.may .auth) (_ : p.may .safe) (_ : p.may .hostEvent) (_ : p.may .frt) (_ : p.may .harp) (_ : p.may .fbx) (_ : p.may .trace) (_ : p.may .traceDrop) (_ : p.may .msix) (_ : p.may .firm) (_ : p.may .now) :
    State.Kept p (State.goldDrop s e v d) := by
  unfold State.goldDrop
  repeat' first
    | with_reducible assumption
    | (intro x; first
        | (refine (have hx : State.Kept p x := ?_; ?_); subst x; rotate_left; clear_value x; rotate_right)
        | (refine (have hx : State.Kept p x.1 := ?_; ?_); subst x; rotate_left; clear_value x; rotate_right)
        | (try clear_value x))
    | lift_lets -underBinder
    | with_reducible apply State.Kept.ite
    | with_reducible apply State.setReg_kept
    | with_reducible apply State.modHarp_kept
    | with_reducible apply State.modRun_kept
    | with_reducible apply State.goldOutcome_kept
    | split

theorem State.goldCycle_kept {s : State} {e : Nat} (h : s.Kept p) (_ : p.may .regs) (_ : p.may .logs) (_ : p.may .upset) (_ : p.may .evr) (_ : p.may .line) (_ : p.may .auth) (_ : p.may .safe) (_ : p.may .hostEvent) (_ : p.may .frt) (_ : p.may .harp) (_ : p.may .fbx) (_ : p.may .pwr) (_ : p.may .trace) (_ : p.may .traceDrop) (_ : p.may .msix) (_ : p.may .firm) (_ : p.may .now) :
    State.Kept p (State.goldCycle s e) := by
  unfold State.goldCycle
  repeat' first
    | with_reducible assumption
    | (intro x; first
        | (refine (have hx : State.Kept p x := ?_; ?_); subst x; rotate_left; clear_value x; rotate_right)
        | (refine (have hx : State.Kept p x.1 := ?_; ?_); subst x; rotate_left; clear_value x; rotate_right)
        | (try clear_value x))
    | lift_lets -underBinder
    | with_reducible apply State.Kept.ite
    | with_reducible apply State.eccRead_kept
    | with_reducible apply State.modHarp_kept
    | with_reducible apply State.goldFinish_kept
    | with_reducible apply State.refuse_kept
    | with_reducible apply State.goldDrop_kept
    | with_reducible apply State.actHub_kept
    | split

theorem harpGoldenAbandonEffect_kept {e : Fin 4} {s : State} (h : s.Kept p) (_ : p.may .regs) (_ : p.may .evr) (_ : p.may .line) (_ : p.may .auth) (_ : p.may .safe) (_ : p.may .hostEvent) (_ : p.may .frt) (_ : p.may .harp) (_ : p.may .fbx) (_ : p.may .trace) (_ : p.may .traceDrop) (_ : p.may .msix) (_ : p.may .firm) (_ : p.may .now) :
    State.Kept p (harpGoldenAbandonEffect e s) := by
  unfold harpGoldenAbandonEffect
  repeat' first
    | with_reducible assumption
    | with_reducible apply State.Kept.ite
    | with_reducible apply State.goldDrop_kept
    | split

theorem State.harpCycle_kept {s : State} {e : Nat} (h : s.Kept p) (_ : p.may .regs) (_ : p.may .logs) (_ : p.may .mem) (_ : p.may .poison) (_ : p.may .upset) (_ : p.may .cells) (_ : p.may .evr) (_ : p.may .line) (_ : p.may .auth) (_ : p.may .safe) (_ : p.may .hostEvent) (_ : p.may .frt) (_ : p.may .mig) (_ : p.may .harp) (_ : p.may .fbx) (_ : p.may .pwr) (_ : p.may .trace) (_ : p.may .traceDrop) (_ : p.may .msix) (_ : p.may .firm) (_ : p.may .now) :
    State.Kept p (State.harpCycle s e) := by
  unfold State.harpCycle
  repeat' first
    | with_reducible assumption
    | (intro x; first
        | (refine (have hx : State.Kept p x := ?_; ?_); subst x; rotate_left; clear_value x; rotate_right)
        | (refine (have hx : State.Kept p x.1 := ?_; ?_); subst x; rotate_left; clear_value x; rotate_right)
        | (try clear_value x))
    | lift_lets -underBinder
    | with_reducible apply State.Kept.ite
    | with_reducible apply State.harpWord_kept
    | with_reducible apply State.modHarp_kept
    | with_reducible apply State.harpDrain_kept
    | with_reducible apply State.harpLoad_kept
    | with_reducible apply State.goldCycle_kept
    | with_reducible apply State.harpResend_kept
    | with_reducible apply State.harpTell_kept
    | with_reducible apply harpArmEffect_kept
    | split

end Sys2Proof.Machine
end

