-- ==== Sys2Proof/Laws/KeptVatScan.lean ====
section
/-! SUPPORT. State.Kept through the operations of Machine/VatScan.lean. -/

set_option linter.all false

namespace Sys2Proof.Machine

variable {p : Promise}

theorem State.scnIssue_kept {s : State} {v : Nat} {w : BitVec 56} {x' : W64} {kind : ScnKind} {occ : Nat} {act : State →   Vat → List Byte → VatCore → VatCore} (h : s.Kept p) (_ : p.may .regs) (_ : p.may .logs) (_ : p.may .mem) (_ : p.may .poison) (_ : p.may .upset) (_ : p.may .evr) (_ : p.may .line) (_ : p.may .auth) (_ : p.may .safe) (_ : p.may .hostEvent) (_ : p.may .frt) (_ : p.may .vats) (_ : p.may .mig) (_ : p.may .walkers) (_ : p.may .xsl) (_ : p.may .fbx) (_ : p.may .diag) (_ : p.may .pwr) (_ : p.may .trace) (_ : p.may .traceDrop) (_ : p.may .msix) (_ : p.may .firm) (_ : p.may .now) :
    State.Kept p (State.scnIssue s v w x' kind occ act) := by
  unfold State.scnIssue
  repeat' first
    | with_reducible assumption
    | (intro x; first
        | (refine (have hx : State.Kept p x := ?_; ?_); subst x; rotate_left; clear_value x; rotate_right)
        | (refine (have hx : State.Kept p x.1 := ?_; ?_); subst x; rotate_left; clear_value x; rotate_right)
        | (try clear_value x))
    | lift_lets -underBinder
    | with_reducible apply State.Kept.ite
    | with_reducible apply State.issue_kept
    | split

theorem scnRunEffect_kept {v : VatNo} {w : BitVec 56} {x' : W64} {s : State} (h : s.Kept p) (_ : p.may .regs) (_ : p.may .logs) (_ : p.may .mem) (_ : p.may .poison) (_ : p.may .upset) (_ : p.may .evr) (_ : p.may .line) (_ : p.may .auth) (_ : p.may .safe) (_ : p.may .hostEvent) (_ : p.may .frt) (_ : p.may .vats) (_ : p.may .mig) (_ : p.may .walkers) (_ : p.may .xsl) (_ : p.may .fbx) (_ : p.may .diag) (_ : p.may .pwr) (_ : p.may .trace) (_ : p.may .traceDrop) (_ : p.may .msix) (_ : p.may .firm) (_ : p.may .now) :
    State.Kept p (scnRunEffect v w x' s) := by
  unfold scnRunEffect
  repeat' first
    | with_reducible assumption
    | (intro x; first
        | (refine (have hx : State.Kept p x := ?_; ?_); subst x; rotate_left; clear_value x; rotate_right)
        | (refine (have hx : State.Kept p x.1 := ?_; ?_); subst x; rotate_left; clear_value x; rotate_right)
        | (try clear_value x))
    | lift_lets -underBinder
    | with_reducible apply State.scnIssue_kept

theorem scnAnchEffect_kept {v : VatNo} {w : BitVec 56} {x' : W64} {s : State} (h : s.Kept p) (_ : p.may .regs) (_ : p.may .logs) (_ : p.may .mem) (_ : p.may .poison) (_ : p.may .upset) (_ : p.may .evr) (_ : p.may .line) (_ : p.may .auth) (_ : p.may .safe) (_ : p.may .hostEvent) (_ : p.may .frt) (_ : p.may .vats) (_ : p.may .mig) (_ : p.may .walkers) (_ : p.may .xsl) (_ : p.may .fbx) (_ : p.may .diag) (_ : p.may .pwr) (_ : p.may .trace) (_ : p.may .traceDrop) (_ : p.may .msix) (_ : p.may .firm) (_ : p.may .now) :
    State.Kept p (scnAnchEffect v w x' s) := by
  unfold scnAnchEffect
  repeat' first
    | with_reducible assumption
    | (intro x; first
        | (refine (have hx : State.Kept p x := ?_; ?_); subst x; rotate_left; clear_value x; rotate_right)
        | (refine (have hx : State.Kept p x.1 := ?_; ?_); subst x; rotate_left; clear_value x; rotate_right)
        | (try clear_value x))
    | lift_lets -underBinder
    | with_reducible apply State.scnIssue_kept

theorem scnSaveEffect_kept {v : VatNo} {w : BitVec 56} {x' : W64} {s : State} (h : s.Kept p) (_ : p.may .regs) (_ : p.may .logs) (_ : p.may .mem) (_ : p.may .poison) (_ : p.may .upset) (_ : p.may .evr) (_ : p.may .line) (_ : p.may .auth) (_ : p.may .safe) (_ : p.may .hostEvent) (_ : p.may .frt) (_ : p.may .vats) (_ : p.may .mig) (_ : p.may .walkers) (_ : p.may .xsl) (_ : p.may .fbx) (_ : p.may .diag) (_ : p.may .pwr) (_ : p.may .trace) (_ : p.may .traceDrop) (_ : p.may .msix) (_ : p.may .firm) (_ : p.may .now) :
    State.Kept p (scnSaveEffect v w x' s) := by
  unfold scnSaveEffect
  repeat' first
    | with_reducible assumption
    | (intro x; first
        | (refine (have hx : State.Kept p x := ?_; ?_); subst x; rotate_left; clear_value x; rotate_right)
        | (refine (have hx : State.Kept p x.1 := ?_; ?_); subst x; rotate_left; clear_value x; rotate_right)
        | (try clear_value x))
    | lift_lets -underBinder
    | with_reducible apply State.scnIssue_kept

theorem scnLoadEffect_kept {v : VatNo} {w : BitVec 56} {x' : W64} {s : State} (h : s.Kept p) (_ : p.may .regs) (_ : p.may .logs) (_ : p.may .mem) (_ : p.may .poison) (_ : p.may .upset) (_ : p.may .evr) (_ : p.may .line) (_ : p.may .auth) (_ : p.may .safe) (_ : p.may .hostEvent) (_ : p.may .frt) (_ : p.may .vats) (_ : p.may .mig) (_ : p.may .walkers) (_ : p.may .xsl) (_ : p.may .fbx) (_ : p.may .diag) (_ : p.may .pwr) (_ : p.may .trace) (_ : p.may .traceDrop) (_ : p.may .msix) (_ : p.may .firm) (_ : p.may .now) :
    State.Kept p (scnLoadEffect v w x' s) := by
  unfold scnLoadEffect
  repeat' first
    | with_reducible assumption
    | (intro x; first
        | (refine (have hx : State.Kept p x := ?_; ?_); subst x; rotate_left; clear_value x; rotate_right)
        | (refine (have hx : State.Kept p x.1 := ?_; ?_); subst x; rotate_left; clear_value x; rotate_right)
        | (try clear_value x))
    | lift_lets -underBinder
    | with_reducible apply State.scnIssue_kept

theorem State.chunkStream_kept {s : State} {v : Nat} {m : Nat} {n : Nat} (h : s.Kept p) (_ : p.may .regs) :
    State.Kept p (State.chunkStream s v m n).2 := by
  unfold State.chunkStream
  repeat' first
    | with_reducible assumption
    | (intro x; first
        | (refine (have hx : State.Kept p x := ?_; ?_); subst x; rotate_left; clear_value x; rotate_right)
        | (refine (have hx : State.Kept p x.1 := ?_; ?_); subst x; rotate_left; clear_value x; rotate_right)
        | (try clear_value x))
    | lift_lets -underBinder
    | with_reducible apply State.Kept.ite
    | with_reducible apply State.setReg_kept
    | split

theorem scnRunCompleteEffect_kept {v : VatNo} {s : State} (h : s.Kept p) (_ : p.may .regs) (_ : p.may .vats) :
    State.Kept p (scnRunCompleteEffect v s) := by
  unfold scnRunCompleteEffect
  repeat' first
    | with_reducible assumption
    | (intro x; first
        | (refine (have hx : State.Kept p x := ?_; ?_); subst x; rotate_left; clear_value x; rotate_right)
        | (refine (have hx : State.Kept p x.1 := ?_; ?_); subst x; rotate_left; clear_value x; rotate_right)
        | skip)
    | lift_lets -underBinder
    | with_reducible apply State.Kept.ite
    | with_reducible apply State.Kept.foldl
    | with_reducible apply State.Kept.foldl_fst
    | with_reducible apply State.bump_kept
    | with_reducible apply State.bumpBy_kept
    | with_reducible apply State.modCore_kept
    | with_reducible apply State.chunkStream_kept
    | split

theorem State.modSwap_kept {s : State} {v : Nat} {f : SwapEng → SwapEng} (h : s.Kept p) (_ : p.may .swaps) :
    State.Kept p (State.modSwap s v f) := by
  unfold State.modSwap
  exact State.Kept.upd_swaps h (by assumption) (by simp only [listModify_length, listSet_length])

theorem State.scnLasterr_kept {s : State} {v : Nat} {m : Nat} {code : Nat} (h : s.Kept p) (_ : p.may .regs) :
    State.Kept p (State.scnLasterr s v m code) := by
  unfold State.scnLasterr
  repeat' first
    | with_reducible assumption
    | (intro x; first
        | (refine (have hx : State.Kept p x := ?_; ?_); subst x; rotate_left; clear_value x; rotate_right)
        | (refine (have hx : State.Kept p x.1 := ?_; ?_); subst x; rotate_left; clear_value x; rotate_right)
        | (try clear_value x))
    | lift_lets -underBinder
    | with_reducible apply State.Kept.ite
    | with_reducible apply State.setReg_kept
    | split

theorem State.nextOut_kept {s : State} {v : Nat} (h : s.Kept p) (_ : p.may .vats) (_ : p.may .swaps) :
    State.Kept p (State.nextOut s v) := by
  unfold State.nextOut
  repeat' first
    | with_reducible assumption
    | (intro x; first
        | (refine (have hx : State.Kept p x := ?_; ?_); subst x; rotate_left; clear_value x; rotate_right)
        | (refine (have hx : State.Kept p x.1 := ?_; ?_); subst x; rotate_left; clear_value x; rotate_right)
        | (try clear_value x))
    | lift_lets -underBinder
    | with_reducible apply State.modSwap_kept
    | with_reducible apply State.modCore_kept
    | split

theorem swapOutEffect_kept {v : VatNo} {m : Fin 64} {s : State} (h : s.Kept p) (_ : p.may .regs) (_ : p.may .cells) (_ : p.may .vats) (_ : p.may .swaps) (_ : p.may .now) :
    State.Kept p (swapOutEffect v m s) := by
  unfold swapOutEffect
  repeat' first
    | with_reducible assumption
    | with_reducible apply State.Kept.ite
    | with_reducible apply State.modSwap_kept
    | with_reducible apply State.nextOut_kept
    | with_reducible apply State.cellDo_kept
    | with_reducible apply State.setStrSt_kept
    | split

theorem State.makeDue_kept {s : State} {v : Nat} {m : Nat} {init : Bool} (h : s.Kept p) (_ : p.may .swaps) :
    State.Kept p (State.makeDue s v m init) := by
  unfold State.makeDue
  repeat' first
    | with_reducible assumption
    | with_reducible apply State.Kept.ite
    | with_reducible apply State.modSwap_kept
    | split

theorem swapInEffect_kept {v : VatNo} {m : Fin 64} {s : State} (h : s.Kept p) (_ : p.may .swaps) :
    State.Kept p (swapInEffect v m s) := by
  unfold swapInEffect
  repeat' first
    | with_reducible assumption
    | with_reducible apply State.Kept.ite
    | with_reducible apply State.makeDue_kept
    | split

theorem initEffect_kept {v : VatNo} {m : Fin 64} {s : State} (h : s.Kept p) (_ : p.may .swaps) :
    State.Kept p (initEffect v m s) := by
  unfold initEffect
  repeat' first
    | with_reducible assumption
    | with_reducible apply State.Kept.ite
    | with_reducible apply State.makeDue_kept
    | split

theorem swapOutCompleteEffect_kept {v : VatNo} {s : State} (h : s.Kept p) (_ : p.may .regs) (_ : p.may .mem) (_ : p.may .poison) (_ : p.may .upset) (_ : p.may .vats) (_ : p.may .swaps) (_ : p.may .pwr) :
    State.Kept p (swapOutCompleteEffect v s) := by
  unfold swapOutCompleteEffect
  repeat' first
    | with_reducible assumption
    | (intro x; first
        | (refine (have hx : State.Kept p x := ?_; ?_); subst x; rotate_left; clear_value x; rotate_right)
        | (refine (have hx : State.Kept p x.1 := ?_; ?_); subst x; rotate_left; clear_value x; rotate_right)
        | (try clear_value x))
    | lift_lets -underBinder
    | with_reducible apply State.Kept.ite
    | with_reducible apply State.bump_kept
    | with_reducible apply State.modSwap_kept
    | with_reducible apply State.store_kept
    | with_reducible apply State.vatAct_kept
    | with_reducible apply State.nextOut_kept
    | with_reducible apply State.setStrSt_kept
    | split

theorem swapInStartEffect_kept {v : VatNo} {s : State} (h : s.Kept p) (_ : p.may .regs) (_ : p.may .vats) (_ : p.may .swaps) :
    State.Kept p (swapInStartEffect v s) := by
  unfold swapInStartEffect
  repeat' first
    | with_reducible assumption
    | (intro x; first
        | (refine (have hx : State.Kept p x := ?_; ?_); subst x; rotate_left; clear_value x; rotate_right)
        | (refine (have hx : State.Kept p x.1 := ?_; ?_); subst x; rotate_left; clear_value x; rotate_right)
        | (try clear_value x))
    | lift_lets -underBinder
    | with_reducible apply State.Kept.ite
    | with_reducible apply State.modSwap_kept
    | with_reducible apply State.modCore_kept
    | with_reducible apply State.scnLasterr_kept
    | with_reducible apply State.setStrSt_kept
    | split

theorem swapInCompleteEffect_kept {v : VatNo} {s : State} (h : s.Kept p) (_ : p.may .regs) (_ : p.may .logs) (_ : p.may .upset) (_ : p.may .evr) (_ : p.may .line) (_ : p.may .auth) (_ : p.may .safe) (_ : p.may .hostEvent) (_ : p.may .vats) (_ : p.may .swaps) (_ : p.may .fbx) (_ : p.may .pwr) (_ : p.may .trace) (_ : p.may .traceDrop) (_ : p.may .msix) (_ : p.may .firm) (_ : p.may .now) :
    State.Kept p (swapInCompleteEffect v s) := by
  unfold swapInCompleteEffect
  repeat' first
    | with_reducible assumption
    | (intro x; first
        | (refine (have hx : State.Kept p x := ?_; ?_); subst x; rotate_left; clear_value x; rotate_right)
        | (refine (have hx : State.Kept p x.1 := ?_; ?_); subst x; rotate_left; clear_value x; rotate_right)
        | skip)
    | lift_lets -underBinder
    | with_reducible apply State.Kept.ite
    | with_reducible apply State.Kept.foldl
    | with_reducible apply State.Kept.foldl_fst
    | with_reducible apply State.setReg_kept
    | with_reducible apply State.bump_kept
    | with_reducible apply State.eccRead_kept
    | with_reducible apply State.modSwap_kept
    | with_reducible apply State.modCore_kept
    | with_reducible apply State.vatAct_kept
    | with_reducible apply State.outcome_kept
    | with_reducible apply State.nextOut_kept
    | with_reducible apply State.setStrSt_kept
    | split

theorem State.swapCycle_kept {s : State} {v : Nat} (h : s.Kept p) (_ : p.may .regs) (_ : p.may .cells) (_ : p.may .swaps) (_ : p.may .now) :
    State.Kept p (State.swapCycle s v) := by
  unfold State.swapCycle
  repeat' first
    | with_reducible assumption
    | (intro x; first
        | (refine (have hx : State.Kept p x := ?_; ?_); subst x; rotate_left; clear_value x; rotate_right)
        | (refine (have hx : State.Kept p x.1 := ?_; ?_); subst x; rotate_left; clear_value x; rotate_right)
        | (try clear_value x))
    | lift_lets -underBinder
    | with_reducible apply State.Kept.ite
    | with_reducible apply State.Kept.foldl
    | with_reducible apply State.Kept.foldl_fst
    | with_reducible apply State.modSwap_kept
    | with_reducible apply State.makeDue_kept
    | with_reducible apply State.cellDo_kept
    | with_reducible apply State.setStrSt_kept
    | split

end Sys2Proof.Machine
end

