-- ==== Sys2Proof/Laws/KeptXexisha.lean ====
section
/-! SUPPORT. State.Kept through the operations of Machine/Xexisha.lean. -/

set_option linter.all false

namespace Sys2Proof.Machine

variable {p : Promise}

theorem State.modXsl_kept {s : State} {f : Xexisha → Xexisha} (h : s.Kept p) (_ : p.may .xsl) :
    State.Kept p (State.modXsl s f) := by
  unfold State.modXsl
  exact State.Kept.upd_xsl h (by assumption)

theorem State.endMsg_kept {s : State} {x' : XMsg} {status : Nat} (h : s.Kept p) (_ : p.may .rdata) (_ : p.may .vats) (_ : p.may .xsl) :
    State.Kept p (State.endMsg s x' status) := by
  unfold State.endMsg
  repeat' first
    | with_reducible assumption
    | (intro x; first
        | (refine (have hx : State.Kept p x := ?_; ?_); subst x; rotate_left; clear_value x; rotate_right)
        | (refine (have hx : State.Kept p x.1 := ?_; ?_); subst x; rotate_left; clear_value x; rotate_right)
        | (try clear_value x))
    | lift_lets -underBinder
    | with_reducible apply State.Kept.ite
    | with_reducible apply State.modXsl_kept
    | with_reducible apply State.modSeq_kept
    | (with_reducible apply State.Kept.upd_rdata <;> with_reducible assumption)
    | split

theorem State.endPeerMsgs_kept {s : State} {d : Nat} (h : s.Kept p) (_ : p.may .rdata) (_ : p.may .vats) (_ : p.may .xsl) :
    State.Kept p (State.endPeerMsgs s d) := by
  unfold State.endPeerMsgs
  repeat' first
    | with_reducible assumption
    | (intro x; first
        | (refine (have hx : State.Kept p x := ?_; ?_); subst x; rotate_left; clear_value x; rotate_right)
        | (refine (have hx : State.Kept p x.1 := ?_; ?_); subst x; rotate_left; clear_value x; rotate_right)
        | (try clear_value x))
    | lift_lets -underBinder
    | with_reducible apply State.Kept.foldl
    | with_reducible apply State.Kept.foldl_fst
    | with_reducible apply State.endMsg_kept

theorem State.losePeer_kept {s : State} {d : Nat} {cause : Nat} (h : s.Kept p) (_ : p.may .rdata) (_ : p.may .regs) (_ : p.may .evr) (_ : p.may .hostEvent) (_ : p.may .vats) (_ : p.may .xsl) (_ : p.may .msix) (_ : p.may .now) :
    State.Kept p (State.losePeer s d cause) := by
  unfold State.losePeer
  repeat' first
    | with_reducible assumption
    | with_reducible apply State.Kept.ite
    | with_reducible apply State.hwSetBit_kept
    | with_reducible apply State.bump_kept
    | with_reducible apply State.outcome_kept
    | with_reducible apply State.endPeerMsgs_kept
    | split

theorem State.portDown_kept {s : State} {p' : Nat} (h : s.Kept p) (_ : p.may .rdata) (_ : p.may .regs) (_ : p.may .evr) (_ : p.may .hostEvent) (_ : p.may .vats) (_ : p.may .xsl) (_ : p.may .msix) (_ : p.may .now) :
    State.Kept p (State.portDown s p') := by
  unfold State.portDown
  repeat' first
    | with_reducible assumption
    | (intro x; first
        | (refine (have hx : State.Kept p x := ?_; ?_); subst x; rotate_left; clear_value x; rotate_right)
        | (refine (have hx : State.Kept p x.1 := ?_; ?_); subst x; rotate_left; clear_value x; rotate_right)
        | (try clear_value x))
    | lift_lets -underBinder
    | with_reducible apply State.Kept.foldl
    | with_reducible apply State.Kept.foldl_fst
    | with_reducible apply State.modPort_kept
    | with_reducible apply State.losePeer_kept

theorem xslPortEnableEffect_kept {p' : Fin 6} {on : Bool} {s : State} (h : s.Kept p) (_ : p.may .rdata) (_ : p.may .regs) (_ : p.may .evr) (_ : p.may .hostEvent) (_ : p.may .vats) (_ : p.may .xsl) (_ : p.may .msix) (_ : p.may .now) :
    State.Kept p (xslPortEnableEffect p' on s) := by
  unfold xslPortEnableEffect
  repeat' first
    | with_reducible assumption
    | (intro x; first
        | (refine (have hx : State.Kept p x := ?_; ?_); subst x; rotate_left; clear_value x; rotate_right)
        | (refine (have hx : State.Kept p x.1 := ?_; ?_); subst x; rotate_left; clear_value x; rotate_right)
        | (try clear_value x))
    | lift_lets -underBinder
    | with_reducible apply State.Kept.ite
    | with_reducible apply State.modPort_kept
    | with_reducible apply State.portDown_kept
    | with_reducible apply State.setRegBits_kept
    | split

theorem xslPortTrainedEffect_kept {p' : Fin 6} {wire : Nat} {s : State} (h : s.Kept p) (_ : p.may .xsl) :
    State.Kept p (xslPortTrainedEffect p' wire s) := by
  unfold xslPortTrainedEffect
  repeat' first
    | with_reducible assumption
    | with_reducible apply State.Kept.ite
    | with_reducible apply State.modPort_kept
    | split

theorem xslPortDownEffect_kept {p' : Fin 6} {s : State} (h : s.Kept p) (_ : p.may .rdata) (_ : p.may .regs) (_ : p.may .evr) (_ : p.may .hostEvent) (_ : p.may .vats) (_ : p.may .xsl) (_ : p.may .msix) (_ : p.may .now) :
    State.Kept p (xslPortDownEffect p' s) := by
  unfold xslPortDownEffect
  repeat' first
    | with_reducible assumption
    | with_reducible apply State.Kept.ite
    | with_reducible apply State.portDown_kept
    | split

theorem xslSlotFrameTxEffect_kept {p' : Fin 6} {s : State} (h : s.Kept p) (_ : p.may .regs) (_ : p.may .xsl) :
    State.Kept p (xslSlotFrameTxEffect p' s) := by
  unfold xslSlotFrameTxEffect
  repeat' first
    | with_reducible assumption
    | (intro x; first
        | (refine (have hx : State.Kept p x := ?_; ?_); subst x; rotate_left; clear_value x; rotate_right)
        | (refine (have hx : State.Kept p x.1 := ?_; ?_); subst x; rotate_left; clear_value x; rotate_right)
        | (try clear_value x))
    | lift_lets -underBinder
    | with_reducible apply State.Kept.ite
    | with_reducible apply State.modPort_kept
    | with_reducible apply State.bumpBy_kept
    | with_reducible apply State.modXsl_kept
    | split

theorem State.takeAcks_kept {s : State} {f : Flit} (h : s.Kept p) (_ : p.may .rdata) (_ : p.may .regs) (_ : p.may .vats) (_ : p.may .xsl) :
    State.Kept p (State.takeAcks s f) := by
  unfold State.takeAcks
  repeat' first
    | with_reducible assumption
    | (intro x; first
        | (refine (have hx : State.Kept p x := ?_; ?_); subst x; rotate_left; clear_value x; rotate_right)
        | (refine (have hx : State.Kept p x.1 := ?_; ?_); subst x; rotate_left; clear_value x; rotate_right)
        | (try clear_value x))
    | lift_lets -underBinder
    | with_reducible apply State.Kept.foldl
    | with_reducible apply State.Kept.foldl_fst
    | with_reducible apply State.bump_kept
    | with_reducible apply State.endMsg_kept
    | split

theorem State.takeFlit_kept {s : State} {p' : Nat} {a2_ : Option Flit} (h : s.Kept p) (_ : p.may .rdata) (_ : p.may .regs) (_ : p.may .vats) (_ : p.may .xsl) :
    State.Kept p (State.takeFlit s p' a2_) := by
  unfold State.takeFlit
  repeat' first
    | with_reducible assumption
    | with_reducible apply State.Kept.ite
    | with_reducible apply State.modPort_kept
    | with_reducible apply State.bump_kept
    | with_reducible apply State.takeAcks_kept
    | with_reducible apply State.modXsl_kept
    | split

theorem xslSlotFrameRxEffect_kept {p' : Fin 6} {bad : Bool} {corrected : Nat} {frame : List Byte} {s : State} (h : s.Kept p) (_ : p.may .rdata) (_ : p.may .regs) (_ : p.may .evr) (_ : p.may .hostEvent) (_ : p.may .vats) (_ : p.may .xsl) (_ : p.may .msix) (_ : p.may .now) :
    State.Kept p (xslSlotFrameRxEffect p' bad corrected frame s) := by
  unfold xslSlotFrameRxEffect
  repeat' first
    | with_reducible assumption
    | (intro x; first
        | (refine (have hx : State.Kept p x := ?_; ?_); subst x; rotate_left; clear_value x; rotate_right)
        | (refine (have hx : State.Kept p x.1 := ?_; ?_); subst x; rotate_left; clear_value x; rotate_right)
        | (try clear_value x))
    | lift_lets -underBinder
    | with_reducible apply State.Kept.ite
    | with_reducible apply State.Kept.foldl
    | with_reducible apply State.Kept.foldl_fst
    | with_reducible apply State.modPort_kept
    | with_reducible apply State.bump_kept
    | with_reducible apply State.bumpBy_kept
    | with_reducible apply State.portDown_kept
    | with_reducible apply State.outcome_kept
    | with_reducible apply State.takeFlit_kept
    | split

theorem State.ack_kept {s : State} {f : Flit} {status : Nat} (h : s.Kept p) (_ : p.may .xsl) :
    State.Kept p (State.ack s f status) := by
  unfold State.ack
  repeat' first
    | with_reducible assumption
    | with_reducible apply State.modXsl_kept

theorem State.land_kept {s : State} {f : Flit} (h : s.Kept p) (_ : p.may .regs) (_ : p.may .logs) (_ : p.may .mem) (_ : p.may .poison) (_ : p.may .upset) (_ : p.may .cells) (_ : p.may .evr) (_ : p.may .hostEvent) (_ : p.may .xsl) (_ : p.may .pwr) (_ : p.may .msix) (_ : p.may .now) :
    State.Kept p (State.land s f) := by
  unfold State.land
  repeat' first
    | with_reducible assumption
    | (intro x; first
        | (refine (have hx : State.Kept p x := ?_; ?_); subst x; rotate_left; clear_value x; rotate_right)
        | (refine (have hx : State.Kept p x.1 := ?_; ?_); subst x; rotate_left; clear_value x; rotate_right)
        | (try clear_value x))
    | lift_lets -underBinder
    | with_reducible apply State.Kept.ite
    | with_reducible apply State.bump_kept
    | with_reducible apply State.ack_kept
    | with_reducible apply State.refuse_kept
    | with_reducible apply State.cellOp_kept
    | with_reducible apply State.putBytes_kept
    | with_reducible apply State.actHub_kept
    | split

theorem xslLandingEffect_kept {p' : Fin 6} {s : State} (h : s.Kept p) (_ : p.may .regs) (_ : p.may .logs) (_ : p.may .mem) (_ : p.may .poison) (_ : p.may .upset) (_ : p.may .cells) (_ : p.may .evr) (_ : p.may .hostEvent) (_ : p.may .xsl) (_ : p.may .pwr) (_ : p.may .msix) (_ : p.may .now) :
    State.Kept p (xslLandingEffect p' s) := by
  unfold xslLandingEffect
  repeat' first
    | with_reducible assumption
    | with_reducible apply State.Kept.ite
    | with_reducible apply State.modPort_kept
    | with_reducible apply State.land_kept
    | split

theorem xslFlitAgeEffect_kept {p' : Fin 6} {s : State} (h : s.Kept p) (_ : p.may .regs) (_ : p.may .xsl) :
    State.Kept p (xslFlitAgeEffect p' s) := by
  unfold xslFlitAgeEffect
  repeat' first
    | with_reducible assumption
    | (intro x; first
        | (refine (have hx : State.Kept p x := ?_; ?_); subst x; rotate_left; clear_value x; rotate_right)
        | (refine (have hx : State.Kept p x.1 := ?_; ?_); subst x; rotate_left; clear_value x; rotate_right)
        | (try clear_value x))
    | lift_lets -underBinder
    | with_reducible apply State.modPort_kept
    | with_reducible apply State.bumpBy_kept

theorem xslMessageTimeoutEffect_kept {s : State} (h : s.Kept p) (_ : p.may .rdata) (_ : p.may .vats) (_ : p.may .xsl) :
    State.Kept p (xslMessageTimeoutEffect s) := by
  unfold xslMessageTimeoutEffect
  repeat' first
    | with_reducible assumption
    | with_reducible apply State.endMsg_kept
    | split

theorem xslTagReleaseEffect_kept {s : State} (h : s.Kept p) (_ : p.may .xsl) :
    State.Kept p (xslTagReleaseEffect s) := by
  unfold xslTagReleaseEffect
  repeat' first
    | with_reducible assumption
    | with_reducible apply State.Kept.ite
    | with_reducible apply State.modXsl_kept
    | split

theorem xslPeerTimeoutEffect_kept {d : Fin 64} {s : State} (h : s.Kept p) (_ : p.may .rdata) (_ : p.may .regs) (_ : p.may .evr) (_ : p.may .hostEvent) (_ : p.may .vats) (_ : p.may .xsl) (_ : p.may .msix) (_ : p.may .now) :
    State.Kept p (xslPeerTimeoutEffect d s) := by
  unfold xslPeerTimeoutEffect
  repeat' first
    | with_reducible assumption
    | with_reducible apply State.Kept.ite
    | with_reducible apply State.losePeer_kept
    | split

theorem xslGenAdvanceEffect_kept {k : Fin 128} {value : Nat} {s : State} (h : s.Kept p) (_ : p.may .regs) (_ : p.may .xsl) (_ : p.may .now) :
    State.Kept p (xslGenAdvanceEffect k value s) := by
  unfold xslGenAdvanceEffect
  repeat' first
    | with_reducible assumption
    | with_reducible apply State.Kept.ite
    | with_reducible apply State.hwSetBit_kept
    | with_reducible apply State.setReg_kept
    | with_reducible apply State.modXsl_kept
    | split

theorem xslLostClearEffect_kept {mask : BitVec 64} {s : State} (h : s.Kept p) (_ : p.may .regs) (_ : p.may .xsl) :
    State.Kept p (xslLostClearEffect mask s) := by
  unfold xslLostClearEffect
  repeat' first
    | with_reducible assumption
    | (intro x; first
        | (refine (have hx : State.Kept p x := ?_; ?_); subst x; rotate_left; clear_value x; rotate_right)
        | (refine (have hx : State.Kept p x.1 := ?_; ?_); subst x; rotate_left; clear_value x; rotate_right)
        | (try clear_value x))
    | lift_lets -underBinder
    | with_reducible apply State.Kept.foldl
    | with_reducible apply State.Kept.foldl_fst
    | with_reducible apply State.setReg_kept
    | with_reducible apply State.modXsl_kept

theorem State.setMembers_kept {s : State} {x' : Nat} (h : s.Kept p) (_ : p.may .rdata) (_ : p.may .regs) (_ : p.may .vats) (_ : p.may .xsl) :
    State.Kept p (State.setMembers s x') := by
  unfold State.setMembers
  repeat' first
    | with_reducible assumption
    | (intro x; first
        | (refine (have hx : State.Kept p x := ?_; ?_); subst x; rotate_left; clear_value x; rotate_right)
        | (refine (have hx : State.Kept p x.1 := ?_; ?_); subst x; rotate_left; clear_value x; rotate_right)
        | (try clear_value x))
    | lift_lets -underBinder
    | with_reducible apply State.Kept.foldl
    | with_reducible apply State.Kept.foldl_fst
    | with_reducible apply State.setReg_kept
    | with_reducible apply State.endPeerMsgs_kept
    | with_reducible apply State.modXsl_kept

theorem State.heartbeats_kept {s : State} (h : s.Kept p) (_ : p.may .xsl) :
    State.Kept p (State.heartbeats s) := by
  unfold State.heartbeats
  repeat' first
    | with_reducible assumption
    | (intro x; first
        | (refine (have hx : State.Kept p x := ?_; ?_); subst x; rotate_left; clear_value x; rotate_right)
        | (refine (have hx : State.Kept p x.1 := ?_; ?_); subst x; rotate_left; clear_value x; rotate_right)
        | (try clear_value x))
    | lift_lets -underBinder
    | with_reducible apply State.Kept.ite
    | with_reducible apply State.Kept.foldl
    | with_reducible apply State.Kept.foldl_fst
    | with_reducible apply State.modPort_kept
    | split

end Sys2Proof.Machine
end

