-- ==== Sys2Proof/Laws/KeptFrameTable.lean ====
section
/-! SUPPORT. State.Kept through the operations of Machine/FrameTable.lean. -/

set_option linter.all false

namespace Sys2Proof.Machine

variable {p : Promise}

theorem State.goldCut_kept {s : State} {v : Nat} (h : s.Kept p) (_ : p.may .regs) (_ : p.may .evr) (_ : p.may .line) (_ : p.may .auth) (_ : p.may .safe) (_ : p.may .hostEvent) (_ : p.may .frt) (_ : p.may .vats) (_ : p.may .mig) (_ : p.may .walkers) (_ : p.may .xsl) (_ : p.may .fbx) (_ : p.may .trace) (_ : p.may .traceDrop) (_ : p.may .msix) (_ : p.may .firm) (_ : p.may .now) :
    State.Kept p (State.goldCut s v) := by
  unfold State.goldCut
  repeat' first
    | with_reducible assumption
    | (intro x; first
        | (refine (have hx : State.Kept p x := ?_; ?_); subst x; rotate_left; clear_value x; rotate_right)
        | (refine (have hx : State.Kept p x.1 := ?_; ?_); subst x; rotate_left; clear_value x; rotate_right)
        | (try clear_value x))
    | lift_lets -underBinder
    | with_reducible apply State.stopIssue_kept
    | with_reducible apply State.setVatState_kept
    | with_reducible apply State.noKernel_kept
    | with_reducible apply State.modVat_kept
    | with_reducible apply State.modRun_kept
    | with_reducible apply State.goldOutcome_kept

theorem State.sliceCut_kept {s : State} {v : Nat} (h : s.Kept p) (_ : p.may .regs) (_ : p.may .frt) (_ : p.may .vats) (_ : p.may .mig) (_ : p.may .walkers) (_ : p.may .xsl) (_ : p.may .diag) :
    State.Kept p (State.sliceCut s v) := by
  unfold State.sliceCut
  repeat' first
    | with_reducible assumption
    | (intro x; first
        | (refine (have hx : State.Kept p x := ?_; ?_); subst x; rotate_left; clear_value x; rotate_right)
        | (refine (have hx : State.Kept p x.1 := ?_; ?_); subst x; rotate_left; clear_value x; rotate_right)
        | (try clear_value x))
    | lift_lets -underBinder
    | with_reducible apply State.stopIssue_kept
    | with_reducible apply State.setVatState_kept
    | with_reducible apply State.noKernel_kept
    | with_reducible apply State.modVat_kept
    | with_reducible apply State.modRun_kept
    | with_reducible apply State.endSlice_kept
    | with_reducible apply State.bumpSt_kept

theorem State.cutAt_kept {s : State} {v : Nat} {now : Nat} (h : s.Kept p) (_ : p.may .regs) (_ : p.may .mem) (_ : p.may .poison) (_ : p.may .upset) (_ : p.may .evr) (_ : p.may .line) (_ : p.may .auth) (_ : p.may .safe) (_ : p.may .hostEvent) (_ : p.may .frt) (_ : p.may .vats) (_ : p.may .mig) (_ : p.may .walkers) (_ : p.may .xsl) (_ : p.may .fbx) (_ : p.may .diag) (_ : p.may .trace) (_ : p.may .traceDrop) (_ : p.may .msix) (_ : p.may .firm) (_ : p.may .now) :
    State.Kept p (State.cutAt s v now) := by
  unfold State.cutAt
  repeat' first
    | with_reducible assumption
    | with_reducible apply State.Kept.ite
    | with_reducible apply State.goldCut_kept
    | with_reducible apply State.sliceCut_kept
    | with_reducible apply State.cutKernel_kept
    | split

theorem State.overrunAt_kept {s : State} {v : Nat} {now : Nat} (h : s.Kept p) (_ : p.may .regs) (_ : p.may .logs) (_ : p.may .mem) (_ : p.may .poison) (_ : p.may .upset) (_ : p.may .evr) (_ : p.may .line) (_ : p.may .auth) (_ : p.may .safe) (_ : p.may .hostEvent) (_ : p.may .frt) (_ : p.may .vats) (_ : p.may .mig) (_ : p.may .walkers) (_ : p.may .xsl) (_ : p.may .fbx) (_ : p.may .trace) (_ : p.may .traceDrop) (_ : p.may .msix) (_ : p.may .firm) (_ : p.may .now) :
    State.Kept p (State.overrunAt s v now) := by
  unfold State.overrunAt
  repeat' first
    | with_reducible assumption
    | with_reducible apply State.Kept.ite
    | with_reducible apply State.lcMiss_kept
    | split

theorem State.harpGoldEnd_kept {s : State} {v : Nat} (h : s.Kept p) (_ : p.may .regs) (_ : p.may .evr) (_ : p.may .line) (_ : p.may .auth) (_ : p.may .safe) (_ : p.may .hostEvent) (_ : p.may .frt) (_ : p.may .harp) (_ : p.may .fbx) (_ : p.may .trace) (_ : p.may .traceDrop) (_ : p.may .msix) (_ : p.may .firm) (_ : p.may .now) :
    State.Kept p (State.harpGoldEnd s v) := by
  unfold State.harpGoldEnd
  repeat' first
    | with_reducible assumption
    | (intro x; first
        | (refine (have hx : State.Kept p x := ?_; ?_); subst x; rotate_left; clear_value x; rotate_right)
        | (refine (have hx : State.Kept p x.1 := ?_; ?_); subst x; rotate_left; clear_value x; rotate_right)
        | (try clear_value x))
    | lift_lets -underBinder
    | with_reducible apply State.Kept.ite
    | with_reducible apply State.goldDrop_kept
    | with_reducible apply State.modRun_kept
    | with_reducible apply State.goldOutcome_kept
    | split

theorem State.endSlot_kept {s : State} {v : Nat} (h : s.Kept p) (_ : p.may .regs) (_ : p.may .logs) (_ : p.may .mem) (_ : p.may .poison) (_ : p.may .upset) (_ : p.may .evr) (_ : p.may .line) (_ : p.may .auth) (_ : p.may .safe) (_ : p.may .hostEvent) (_ : p.may .frt) (_ : p.may .vats) (_ : p.may .mig) (_ : p.may .harp) (_ : p.may .walkers) (_ : p.may .xsl) (_ : p.may .fbx) (_ : p.may .diag) (_ : p.may .trace) (_ : p.may .traceDrop) (_ : p.may .msix) (_ : p.may .firm) (_ : p.may .now) :
    State.Kept p (State.endSlot s v) := by
  unfold State.endSlot
  repeat' first
    | with_reducible assumption
    | (intro x; first
        | (refine (have hx : State.Kept p x := ?_; ?_); subst x; rotate_left; clear_value x; rotate_right)
        | (refine (have hx : State.Kept p x.1 := ?_; ?_); subst x; rotate_left; clear_value x; rotate_right)
        | (try clear_value x))
    | lift_lets -underBinder
    | with_reducible apply State.Kept.ite
    | with_reducible apply State.winClose_kept
    | with_reducible apply State.cutAt_kept
    | with_reducible apply State.overrunAt_kept
    | with_reducible apply State.harpGoldEnd_kept
    | split

theorem cutPointEffect_kept {v : VatNo} {s : State} (h : s.Kept p) (_ : p.may .regs) (_ : p.may .mem) (_ : p.may .poison) (_ : p.may .upset) (_ : p.may .evr) (_ : p.may .line) (_ : p.may .auth) (_ : p.may .safe) (_ : p.may .hostEvent) (_ : p.may .frt) (_ : p.may .vats) (_ : p.may .mig) (_ : p.may .walkers) (_ : p.may .xsl) (_ : p.may .fbx) (_ : p.may .diag) (_ : p.may .trace) (_ : p.may .traceDrop) (_ : p.may .msix) (_ : p.may .firm) (_ : p.may .now) :
    State.Kept p (cutPointEffect v s) := by
  unfold cutPointEffect
  repeat' first
    | with_reducible assumption
    | with_reducible apply State.Kept.ite
    | with_reducible apply State.cutAt_kept
    | split

theorem lcOverrunEffect_kept {v : VatNo} {s : State} (h : s.Kept p) (_ : p.may .regs) (_ : p.may .logs) (_ : p.may .mem) (_ : p.may .poison) (_ : p.may .upset) (_ : p.may .evr) (_ : p.may .line) (_ : p.may .auth) (_ : p.may .safe) (_ : p.may .hostEvent) (_ : p.may .frt) (_ : p.may .vats) (_ : p.may .mig) (_ : p.may .walkers) (_ : p.may .xsl) (_ : p.may .fbx) (_ : p.may .trace) (_ : p.may .traceDrop) (_ : p.may .msix) (_ : p.may .firm) (_ : p.may .now) :
    State.Kept p (lcOverrunEffect v s) := by
  unfold lcOverrunEffect
  repeat' first
    | with_reducible assumption
    | with_reducible apply State.Kept.ite
    | with_reducible apply State.overrunAt_kept
    | split

theorem State.failStreams_kept {s : State} {v : Nat} {ok : Nat → Bool} (h : s.Kept p) (_ : p.may .regs) (_ : p.may .mem) (_ : p.may .poison) (_ : p.may .upset) (_ : p.may .vats) (_ : p.may .swaps) :
    State.Kept p (State.failStreams s v ok) := by
  unfold State.failStreams
  repeat' first
    | with_reducible assumption
    | (intro x; first
        | (refine (have hx : State.Kept p x := ?_; ?_); subst x; rotate_left; clear_value x; rotate_right)
        | (refine (have hx : State.Kept p x.1 := ?_; ?_); subst x; rotate_left; clear_value x; rotate_right)
        | (try clear_value x))
    | lift_lets -underBinder
    | with_reducible apply State.Kept.ite
    | with_reducible apply State.Kept.foldl
    | with_reducible apply State.Kept.foldl_fst
    | with_reducible apply State.modSwap_kept
    | with_reducible apply State.modCore_kept
    | with_reducible apply State.store_kept
    | with_reducible apply State.nextOut_kept
    | with_reducible apply State.setStrSt_kept
    | split

theorem State.vatResetBegin_kept {s : State} {v : Nat} (h : s.Kept p) (_ : p.may .regs) (_ : p.may .mem) (_ : p.may .poison) (_ : p.may .upset) (_ : p.may .frt) (_ : p.may .vats) (_ : p.may .mig) (_ : p.may .walkers) (_ : p.may .swaps) (_ : p.may .xsl) (_ : p.may .diag) :
    State.Kept p (State.vatResetBegin s v) := by
  unfold State.vatResetBegin
  repeat' first
    | with_reducible assumption
    | (intro x; first
        | (refine (have hx : State.Kept p x := ?_; ?_); subst x; rotate_left; clear_value x; rotate_right)
        | (refine (have hx : State.Kept p x.1 := ?_; ?_); subst x; rotate_left; clear_value x; rotate_right)
        | (try clear_value x))
    | lift_lets -underBinder
    | with_reducible apply State.stopIssue_kept
    | with_reducible apply State.setVatState_kept
    | with_reducible apply State.noKernel_kept
    | with_reducible apply State.modVat_kept
    | with_reducible apply State.failStreams_kept
    | with_reducible apply State.modRun_kept
    | with_reducible apply State.endSlice_kept
    | (with_reducible apply State.Kept.upd_swaps <;> (first | with_reducible assumption | (simp only [listModify_length, listSet_length]; done)))

theorem State.partResetBegin_kept {s : State} {p' : Nat} (h : s.Kept p) (_ : p.may .regs) (_ : p.may .mem) (_ : p.may .poison) (_ : p.may .upset) (_ : p.may .frt) (_ : p.may .vats) (_ : p.may .mig) (_ : p.may .walkers) (_ : p.may .swaps) (_ : p.may .xsl) :
    State.Kept p (State.partResetBegin s p') := by
  unfold State.partResetBegin
  repeat' first
    | with_reducible assumption
    | (intro x; first
        | (refine (have hx : State.Kept p x := ?_; ?_); subst x; rotate_left; clear_value x; rotate_right)
        | (refine (have hx : State.Kept p x.1 := ?_; ?_); subst x; rotate_left; clear_value x; rotate_right)
        | (try clear_value x))
    | lift_lets -underBinder
    | with_reducible apply State.Kept.ite
    | with_reducible apply State.Kept.foldl
    | with_reducible apply State.Kept.foldl_fst
    | with_reducible apply State.stopIssue_kept
    | with_reducible apply State.noKernel_kept
    | with_reducible apply State.modVat_kept
    | with_reducible apply State.failStreams_kept
    | with_reducible apply State.modRun_kept
    | split

theorem State.beginResets_kept {s : State} {e : Nat} (h : s.Kept p) (_ : p.may .regs) (_ : p.may .mem) (_ : p.may .poison) (_ : p.may .upset) (_ : p.may .frt) (_ : p.may .vats) (_ : p.may .mig) (_ : p.may .walkers) (_ : p.may .swaps) (_ : p.may .xsl) (_ : p.may .diag) :
    State.Kept p (State.beginResets s e) := by
  unfold State.beginResets
  repeat' first
    | with_reducible assumption
    | (intro x; first
        | (refine (have hx : State.Kept p x := ?_; ?_); subst x; rotate_left; clear_value x; rotate_right)
        | (refine (have hx : State.Kept p x.1 := ?_; ?_); subst x; rotate_left; clear_value x; rotate_right)
        | (try clear_value x))
    | lift_lets -underBinder
    | with_reducible apply State.Kept.ite
    | with_reducible apply State.Kept.foldl
    | with_reducible apply State.Kept.foldl_fst
    | with_reducible apply State.vatResetBegin_kept
    | with_reducible apply State.partResetBegin_kept
    | (with_reducible apply State.Kept.upd_frt <;> with_reducible assumption)
    | split

theorem State.endReset_kept {s : State} {r : PartReset} (h : s.Kept p) (_ : p.may .regs) (_ : p.may .frt) :
    State.Kept p (State.endReset s r) := by
  unfold State.endReset
  repeat' first
    | with_reducible assumption
    | (intro x; first
        | (refine (have hx : State.Kept p x := ?_; ?_); subst x; rotate_left; clear_value x; rotate_right)
        | (refine (have hx : State.Kept p x.1 := ?_; ?_); subst x; rotate_left; clear_value x; rotate_right)
        | (try clear_value x))
    | lift_lets -underBinder
    | with_reducible apply State.Kept.ite
    | with_reducible apply State.Kept.foldl
    | with_reducible apply State.Kept.foldl_fst
    | with_reducible apply State.setReg_kept
    | with_reducible apply State.setVatState_kept
    | with_reducible apply State.modRun_kept
    | (with_reducible apply State.Kept.upd_frt <;> with_reducible assumption)
    | split

theorem State.startLC_kept {s : State} {v : Nat} {k : Nat} {arg : Nat} (h : s.Kept p) (_ : p.may .regs) (_ : p.may .frt) (_ : p.may .vats) (_ : p.may .walkers) (_ : p.may .diag) (_ : p.may .trace) (_ : p.may .traceDrop) :
    State.Kept p (State.startLC s v k arg) := by
  unfold State.startLC
  repeat' first
    | with_reducible assumption
    | (intro x; first
        | (refine (have hx : State.Kept p x := ?_; ?_); subst x; rotate_left; clear_value x; rotate_right)
        | (refine (have hx : State.Kept p x.1 := ?_; ?_); subst x; rotate_left; clear_value x; rotate_right)
        | (try clear_value x))
    | lift_lets -underBinder
    | with_reducible apply State.startKernel_kept

theorem State.beginWindow_kept {s : State} {v : Nat} {n : Nat} (h : s.Kept p) (_ : p.may .regs) (_ : p.may .frt) (_ : p.may .vats) (_ : p.may .harp) (_ : p.may .walkers) (_ : p.may .diag) (_ : p.may .pwr) (_ : p.may .trace) (_ : p.may .traceDrop) :
    State.Kept p (State.beginWindow s v n) := by
  unfold State.beginWindow
  repeat' first
    | with_reducible assumption
    | (intro x; first
        | (refine (have hx : State.Kept p x := ?_; ?_); subst x; rotate_left; clear_value x; rotate_right)
        | (refine (have hx : State.Kept p x.1 := ?_; ?_); subst x; rotate_left; clear_value x; rotate_right)
        | (try clear_value x))
    | lift_lets -underBinder
    | with_reducible apply State.Kept.ite
    | with_reducible apply State.setVatState_kept
    | with_reducible apply State.modRun_kept
    | with_reducible apply State.goldBegin_kept
    | with_reducible apply State.startLC_kept
    | with_reducible apply State.winOpen_kept
    | (with_reducible apply State.Kept.upd_diag <;> with_reducible assumption)
    | split

theorem State.beginVat_kept {n : Nat} {s : State} {v : Nat} (h : s.Kept p) (_ : p.may .regs) (_ : p.may .frt) (_ : p.may .vats) (_ : p.may .harp) (_ : p.may .walkers) (_ : p.may .diag) (_ : p.may .pwr) (_ : p.may .trace) (_ : p.may .traceDrop) :
    State.Kept p (State.beginVat n s v) := by
  unfold State.beginVat
  repeat' first
    | with_reducible assumption
    | (intro x; first
        | (refine (have hx : State.Kept p x := ?_; ?_); subst x; rotate_left; clear_value x; rotate_right)
        | (refine (have hx : State.Kept p x.1 := ?_; ?_); subst x; rotate_left; clear_value x; rotate_right)
        | (try clear_value x))
    | lift_lets -underBinder
    | with_reducible apply State.Kept.ite
    | with_reducible apply State.setVatState_kept
    | with_reducible apply State.modRun_kept
    | with_reducible apply State.beginWindow_kept
    | split

theorem State.slotBegin_kept {s : State} {n : Nat} {e : Nat} (h : s.Kept p) (_ : p.may .regs) (_ : p.may .mem) (_ : p.may .poison) (_ : p.may .upset) (_ : p.may .frt) (_ : p.may .vats) (_ : p.may .mig) (_ : p.may .harp) (_ : p.may .walkers) (_ : p.may .swaps) (_ : p.may .xsl) (_ : p.may .diag) (_ : p.may .pwr) (_ : p.may .trace) (_ : p.may .traceDrop) :
    State.Kept p (State.slotBegin s n e) := by
  unfold State.slotBegin
  repeat' first
    | with_reducible assumption
    | (intro x; first
        | (refine (have hx : State.Kept p x := ?_; ?_); subst x; rotate_left; clear_value x; rotate_right)
        | (refine (have hx : State.Kept p x.1 := ?_; ?_); subst x; rotate_left; clear_value x; rotate_right)
        | (try clear_value x))
    | lift_lets -underBinder
    | with_reducible apply State.Kept.ite
    | with_reducible apply State.Kept.foldl
    | with_reducible apply State.Kept.foldl_fst
    | with_reducible apply State.setReg_kept
    | with_reducible apply State.bump_kept
    | with_reducible apply State.beginVat_kept
    | with_reducible apply State.beginResets_kept
    | with_reducible apply State.setRegBits_kept
    | with_reducible apply State.emit_kept
    | (with_reducible apply State.Kept.upd_frt <;> with_reducible assumption)
    | split

theorem slotStartEffect_kept {s : State} (h : s.Kept p) (_ : p.may .regs) (_ : p.may .logs) (_ : p.may .mem) (_ : p.may .poison) (_ : p.may .upset) (_ : p.may .evr) (_ : p.may .line) (_ : p.may .auth) (_ : p.may .safe) (_ : p.may .hostEvent) (_ : p.may .frt) (_ : p.may .vats) (_ : p.may .mig) (_ : p.may .harp) (_ : p.may .walkers) (_ : p.may .swaps) (_ : p.may .xsl) (_ : p.may .fbx) (_ : p.may .diag) (_ : p.may .pwr) (_ : p.may .trace) (_ : p.may .traceDrop) (_ : p.may .msix) (_ : p.may .firm) (_ : p.may .now) :
    State.Kept p (slotStartEffect s) := by
  unfold slotStartEffect
  repeat' first
    | with_reducible assumption
    | (intro x; first
        | (refine (have hx : State.Kept p x := ?_; ?_); subst x; rotate_left; clear_value x; rotate_right)
        | (refine (have hx : State.Kept p x.1 := ?_; ?_); subst x; rotate_left; clear_value x; rotate_right)
        | (try clear_value x))
    | lift_lets -underBinder
    | with_reducible apply State.Kept.ite
    | with_reducible apply State.Kept.foldl
    | with_reducible apply State.Kept.foldl_fst
    | with_reducible apply State.endSlot_kept
    | with_reducible apply State.slotBegin_kept
    | split

theorem State.takeTable_kept {s : State} (h : s.Kept p) (_ : p.may .regs) (_ : p.may .frt) :
    State.Kept p (State.takeTable s) := by
  unfold State.takeTable
  repeat' first
    | with_reducible assumption
    | (intro x; first
        | (refine (have hx : State.Kept p x := ?_; ?_); subst x; rotate_left; clear_value x; rotate_right)
        | (refine (have hx : State.Kept p x.1 := ?_; ?_); subst x; rotate_left; clear_value x; rotate_right)
        | (try clear_value x))
    | lift_lets -underBinder
    | with_reducible apply State.Kept.ite
    | with_reducible apply State.Kept.foldl
    | with_reducible apply State.Kept.foldl_fst
    | with_reducible apply State.setReg_kept
    | with_reducible apply State.setRegBits_kept
    | (with_reducible apply State.Kept.upd_frt <;> with_reducible assumption)
    | split

theorem State.dropTable_kept {s : State} {e : Nat} (h : s.Kept p) (_ : p.may .regs) (_ : p.may .frt) :
    State.Kept p (State.dropTable s e) := by
  unfold State.dropTable
  repeat' first
    | with_reducible assumption
    | (intro x; first
        | (refine (have hx : State.Kept p x := ?_; ?_); subst x; rotate_left; clear_value x; rotate_right)
        | (refine (have hx : State.Kept p x.1 := ?_; ?_); subst x; rotate_left; clear_value x; rotate_right)
        | (try clear_value x))
    | lift_lets -underBinder
    | with_reducible apply State.Kept.foldl
    | with_reducible apply State.Kept.foldl_fst
    | with_reducible apply State.setReg_kept
    | with_reducible apply State.setVatState_kept
    | with_reducible apply State.noKernel_kept
    | with_reducible apply State.modRun_kept
    | (with_reducible apply State.Kept.upd_frt <;> with_reducible assumption)

theorem State.passStart_kept {switched : Bool} {s : State} {v : Nat} (h : s.Kept p) (_ : p.may .regs) (_ : p.may .evr) (_ : p.may .line) (_ : p.may .auth) (_ : p.may .safe) (_ : p.may .hostEvent) (_ : p.may .fbx) (_ : p.may .diag) (_ : p.may .trace) (_ : p.may .traceDrop) (_ : p.may .msix) (_ : p.may .firm) (_ : p.may .now) :
    State.Kept p (State.passStart switched s v) := by
  unfold State.passStart
  repeat' first
    | with_reducible assumption
    | (intro x; first
        | (refine (have hx : State.Kept p x := ?_; ?_); subst x; rotate_left; clear_value x; rotate_right)
        | (refine (have hx : State.Kept p x.1 := ?_; ?_); subst x; rotate_left; clear_value x; rotate_right)
        | (try clear_value x))
    | lift_lets -underBinder
    | with_reducible apply State.Kept.ite
    | with_reducible apply State.raise_kept
    | with_reducible apply State.showSlices_kept
    | with_reducible apply State.setRegBits_kept
    | (with_reducible apply State.Kept.upd_diag <;> with_reducible assumption)
    | split

theorem State.frameBegin_kept {s : State} {switched : Bool} {k : Int} {e : Nat} (h : s.Kept p) (_ : p.may .regs) (_ : p.may .mem) (_ : p.may .poison) (_ : p.may .upset) (_ : p.may .evr) (_ : p.may .line) (_ : p.may .auth) (_ : p.may .safe) (_ : p.may .hostEvent) (_ : p.may .frt) (_ : p.may .vats) (_ : p.may .mig) (_ : p.may .harp) (_ : p.may .harpShare) (_ : p.may .walkers) (_ : p.may .swaps) (_ : p.may .xsl) (_ : p.may .fbx) (_ : p.may .diag) (_ : p.may .pwr) (_ : p.may .trace) (_ : p.may .traceDrop) (_ : p.may .msix) (_ : p.may .firm) (_ : p.may .now) :
    State.Kept p (State.frameBegin s switched k e) := by
  unfold State.frameBegin
  repeat' first
    | with_reducible assumption
    | (intro x; first
        | (refine (have hx : State.Kept p x := ?_; ?_); subst x; rotate_left; clear_value x; rotate_right)
        | (refine (have hx : State.Kept p x.1 := ?_; ?_); subst x; rotate_left; clear_value x; rotate_right)
        | (try clear_value x))
    | lift_lets -underBinder
    | with_reducible apply State.Kept.foldl
    | with_reducible apply State.Kept.foldl_fst
    | with_reducible apply State.setReg_kept
    | with_reducible apply State.heartbeats_kept
    | with_reducible apply State.passStart_kept
    | with_reducible apply State.slotBegin_kept
    | (with_reducible apply State.Kept.upd_frt_harpShare <;> with_reducible assumption)

theorem State.frameBoundary_kept {s : State} {e : Nat} (h : s.Kept p) (_ : p.may .regs) (_ : p.may .logs) (_ : p.may .mem) (_ : p.may .poison) (_ : p.may .upset) (_ : p.may .evr) (_ : p.may .line) (_ : p.may .auth) (_ : p.may .safe) (_ : p.may .hostEvent) (_ : p.may .frt) (_ : p.may .vats) (_ : p.may .mig) (_ : p.may .harp) (_ : p.may .harpShare) (_ : p.may .walkers) (_ : p.may .swaps) (_ : p.may .xsl) (_ : p.may .fbx) (_ : p.may .diag) (_ : p.may .pwr) (_ : p.may .trace) (_ : p.may .traceDrop) (_ : p.may .msix) (_ : p.may .firm) (_ : p.may .now) :
    State.Kept p (State.frameBoundary s e) := by
  unfold State.frameBoundary
  repeat' first
    | with_reducible assumption
    | (intro x; first
        | (refine (have hx : State.Kept p x := ?_; ?_); subst x; rotate_left; clear_value x; rotate_right)
        | (refine (have hx : State.Kept p x.1 := ?_; ?_); subst x; rotate_left; clear_value x; rotate_right)
        | (try clear_value x))
    | lift_lets -underBinder
    | with_reducible apply State.Kept.ite
    | with_reducible apply State.Kept.foldl
    | with_reducible apply State.Kept.foldl_fst
    | with_reducible apply State.frameBegin_kept
    | with_reducible apply State.endReset_kept
    | with_reducible apply State.takeTable_kept
    | with_reducible apply State.endSlot_kept
    | with_reducible apply State.dropTable_kept
    | split

theorem State.frtSwitch_kept {s : State} (h : s.Kept p) (_ : p.may .regs) (_ : p.may .frt) :
    State.Kept p (State.frtSwitch s) := by
  unfold State.frtSwitch
  repeat' first
    | with_reducible assumption
    | (intro x; first
        | (refine (have hx : State.Kept p x := ?_; ?_); subst x; rotate_left; clear_value x; rotate_right)
        | (refine (have hx : State.Kept p x.1 := ?_; ?_); subst x; rotate_left; clear_value x; rotate_right)
        | (try clear_value x))
    | lift_lets -underBinder
    | with_reducible apply State.setReg_kept
    | with_reducible apply State.setRegBit_kept
    | (with_reducible apply State.Kept.upd_frt <;> with_reducible assumption)

theorem ftSwitchEffect_kept {s : State} (h : s.Kept p) (_ : p.may .regs) (_ : p.may .frt) :
    State.Kept p (ftSwitchEffect s) := by
  unfold ftSwitchEffect
  repeat' first
    | with_reducible assumption
    | with_reducible apply State.Kept.ite
    | with_reducible apply State.frtSwitch_kept
    | split

theorem State.frtStop_kept {s : State} (h : s.Kept p) (_ : p.may .regs) (_ : p.may .frt) :
    State.Kept p (State.frtStop s) := by
  unfold State.frtStop
  repeat' first
    | with_reducible assumption
    | (intro x; first
        | (refine (have hx : State.Kept p x := ?_; ?_); subst x; rotate_left; clear_value x; rotate_right)
        | (refine (have hx : State.Kept p x.1 := ?_; ?_); subst x; rotate_left; clear_value x; rotate_right)
        | (try clear_value x))
    | lift_lets -underBinder
    | with_reducible apply State.setRegBit_kept
    | (with_reducible apply State.Kept.upd_frt <;> with_reducible assumption)

theorem State.frtUnstop_kept {s : State} (h : s.Kept p) (_ : p.may .regs) (_ : p.may .frt) :
    State.Kept p (State.frtUnstop s) := by
  unfold State.frtUnstop
  repeat' first
    | with_reducible assumption
    | (intro x; first
        | (refine (have hx : State.Kept p x := ?_; ?_); subst x; rotate_left; clear_value x; rotate_right)
        | (refine (have hx : State.Kept p x.1 := ?_; ?_); subst x; rotate_left; clear_value x; rotate_right)
        | (try clear_value x))
    | lift_lets -underBinder
    | with_reducible apply State.setRegBits_kept
    | (with_reducible apply State.Kept.upd_frt <;> with_reducible assumption)

theorem ftStopEffect_kept {s : State} (h : s.Kept p) (_ : p.may .regs) (_ : p.may .frt) (_ : p.may .now) :
    State.Kept p (ftStopEffect s) := by
  unfold ftStopEffect
  repeat' first
    | with_reducible assumption
    | with_reducible apply State.Kept.ite
    | with_reducible apply State.hwSetBit_kept
    | with_reducible apply State.frtStop_kept
    | split

theorem frtLoadCmdEffect_kept {value : BitVec 32} {s : State} (h : s.Kept p) (_ : p.may .regs) (_ : p.may .frt) (_ : p.may .now) :
    State.Kept p (frtLoadCmdEffect value s) := by
  unfold frtLoadCmdEffect
  repeat' first
    | with_reducible assumption
    | (intro x; first
        | (refine (have hx : State.Kept p x := ?_; ?_); subst x; rotate_left; clear_value x; rotate_right)
        | (refine (have hx : State.Kept p x.1 := ?_; ?_); subst x; rotate_left; clear_value x; rotate_right)
        | (try clear_value x))
    | lift_lets -underBinder
    | with_reducible apply State.Kept.ite
    | with_reducible apply State.hwSetBit_kept
    | with_reducible apply State.setReg_kept
    | with_reducible apply State.setRegBits_kept
    | (with_reducible apply State.Kept.upd_frt <;> with_reducible assumption)
    | split

theorem State.loadUE_kept {s : State} {w : Nat} (h : s.Kept p) (_ : p.may .regs) (_ : p.may .logs) :
    State.Kept p (State.loadUE s w) := by
  unfold State.loadUE
  repeat' first
    | with_reducible assumption
    | with_reducible apply State.bump_kept
    | with_reducible apply State.pushLog_kept

theorem State.setBank_kept {s : State} {b : Nat} {l : List Byte} {d : List Byte} (h : s.Kept p) (_ : p.may .frt) (_ : p.may .diag) :
    State.Kept p (State.setBank s b l d) := by
  unfold State.setBank
  repeat' first
    | with_reducible assumption
    | with_reducible apply State.Kept.ite
    | (with_reducible apply State.Kept.upd_frt_diag <;> with_reducible assumption)
    | split

theorem frtLoadCompleteEffect_kept {s : State} (h : s.Kept p) (_ : p.may .regs) (_ : p.may .logs) (_ : p.may .upset) (_ : p.may .evr) (_ : p.may .hostEvent) (_ : p.may .frt) (_ : p.may .diag) (_ : p.may .msix) (_ : p.may .now) :
    State.Kept p (frtLoadCompleteEffect s) := by
  unfold frtLoadCompleteEffect
  repeat' first
    | with_reducible assumption
    | (intro x; first
        | (refine (have hx : State.Kept p x := ?_; ?_); subst x; rotate_left; clear_value x; rotate_right)
        | (refine (have hx : State.Kept p x.1 := ?_; ?_); subst x; rotate_left; clear_value x; rotate_right)
        | (try clear_value x))
    | lift_lets -underBinder
    | with_reducible apply State.Kept.ite
    | with_reducible apply State.Kept.foldl
    | with_reducible apply State.Kept.foldl_fst
    | with_reducible apply State.setReg_kept
    | with_reducible apply State.setBank_kept
    | with_reducible apply State.loadUE_kept
    | with_reducible apply State.correct_kept
    | (with_reducible apply State.Kept.upd_frt <;> with_reducible assumption)
    | split

theorem fillEntryStartEffect_kept {v : VatNo} {s : State} (h : s.Kept p) (_ : p.may .regs) (_ : p.may .frt) (_ : p.may .vats) (_ : p.may .walkers) (_ : p.may .diag) (_ : p.may .trace) (_ : p.may .traceDrop) :
    State.Kept p (fillEntryStartEffect v s) := by
  unfold fillEntryStartEffect
  repeat' first
    | with_reducible assumption
    | (intro x; first
        | (refine (have hx : State.Kept p x := ?_; ?_); subst x; rotate_left; clear_value x; rotate_right)
        | (refine (have hx : State.Kept p x.1 := ?_; ?_); subst x; rotate_left; clear_value x; rotate_right)
        | (try clear_value x))
    | lift_lets -underBinder
    | with_reducible apply State.Kept.ite
    | with_reducible apply State.startKernel_kept
    | split

theorem selftestSliceStartEffect_kept {v : VatNo} {s : State} (h : s.Kept p) (_ : p.may .free) (_ : p.may .regs) (_ : p.may .frt) (_ : p.may .vats) (_ : p.may .walkers) (_ : p.may .diag) (_ : p.may .trace) (_ : p.may .traceDrop) :
    State.Kept p (selftestSliceStartEffect v s) := by
  unfold selftestSliceStartEffect
  repeat' first
    | with_reducible assumption
    | (intro x; first
        | (refine (have hx : State.Kept p x := ?_; ?_); subst x; rotate_left; clear_value x; rotate_right)
        | (refine (have hx : State.Kept p x.1 := ?_; ?_); subst x; rotate_left; clear_value x; rotate_right)
        | (try clear_value x))
    | lift_lets -underBinder
    | with_reducible apply State.Kept.ite
    | with_reducible apply State.startKernel_kept
    | with_reducible apply State.modCore_kept
    | with_reducible apply State.modRun_kept
    | with_reducible apply State.useFree_kept
    | with_reducible apply State.bumpSt_kept
    | (with_reducible apply State.Kept.upd_diag <;> with_reducible assumption)
    | split

theorem pairCompareEffect_kept {s : State} (h : s.Kept p) (_ : p.may .regs) (_ : p.may .evr) (_ : p.may .line) (_ : p.may .auth) (_ : p.may .safe) (_ : p.may .hostEvent) (_ : p.may .fbx) (_ : p.may .diag) (_ : p.may .trace) (_ : p.may .traceDrop) (_ : p.may .msix) (_ : p.may .firm) (_ : p.may .now) :
    State.Kept p (pairCompareEffect s) := by
  unfold pairCompareEffect
  repeat' first
    | with_reducible assumption
    | (intro x; first
        | (refine (have hx : State.Kept p x := ?_; ?_); subst x; rotate_left; clear_value x; rotate_right)
        | (refine (have hx : State.Kept p x.1 := ?_; ?_); subst x; rotate_left; clear_value x; rotate_right)
        | (try clear_value x))
    | lift_lets -underBinder
    | with_reducible apply State.Kept.ite
    | with_reducible apply State.bump_kept
    | with_reducible apply State.raise_kept
    | (with_reducible apply State.Kept.upd_diag <;> with_reducible assumption)
    | split

end Sys2Proof.Machine
end

