-- ==== Sys2Proof/Laws/KeptIngest.lean ====
section
/-! SUPPORT. State.Kept through the operations of Machine/Ingest.lean. -/

set_option linter.all false

namespace Sys2Proof.Machine

variable {p : Promise}

theorem State.modCtx_kept {s : State} {c : Nat} {f : IngCtx → IngCtx} (h : s.Kept p) (_ : p.may .ing) :
    State.Kept p (State.modCtx s c f) := by
  unfold State.modCtx
  repeat' first
    | with_reducible assumption
    | (with_reducible apply State.Kept.upd_ing <;> (first | with_reducible assumption | (simp only [listModify_length, listSet_length]; done)))
    | split

theorem State.noteHwm_kept {s : State} (h : s.Kept p) (_ : p.may .regs) :
    State.Kept p (State.noteHwm s) := by
  unfold State.noteHwm
  repeat' first
    | with_reducible assumption
    | (intro x; first
        | (refine (have hx : State.Kept p x := ?_; ?_); subst x; rotate_left; clear_value x; rotate_right)
        | (refine (have hx : State.Kept p x.1 := ?_; ?_); subst x; rotate_left; clear_value x; rotate_right)
        | (try clear_value x))
    | lift_lets -underBinder
    | with_reducible apply State.Kept.ite
    | with_reducible apply State.setReg_kept
    | split

theorem State.stage_kept {s : State} {c : Nat} {emb : Bool} {l : List Byte} (h : s.Kept p) (_ : p.may .regs) (_ : p.may .ing) :
    State.Kept p (State.stage s c emb l) := by
  unfold State.stage
  repeat' first
    | with_reducible assumption
    | (intro x; first
        | (refine (have hx : State.Kept p x := ?_; ?_); subst x; rotate_left; clear_value x; rotate_right)
        | (refine (have hx : State.Kept p x.1 := ?_; ?_); subst x; rotate_left; clear_value x; rotate_right)
        | (try clear_value x))
    | lift_lets -underBinder
    | with_reducible apply State.Kept.ite
    | with_reducible apply State.modCtx_kept
    | with_reducible apply State.noteHwm_kept
    | split

theorem State.ingestCycle_kept {s : State} (h : s.Kept p) (_ : p.may .ing) :
    State.Kept p (State.ingestCycle s) := by
  unfold State.ingestCycle
  repeat' first
    | with_reducible assumption
    | with_reducible apply State.modCtx_kept
    | split

theorem State.openSample_kept {s : State} {c : Nat} {stamp : Int} (h : s.Kept p) (_ : p.may .ing) :
    State.Kept p (State.openSample s c stamp) := by
  unfold State.openSample
  repeat' first
    | with_reducible assumption
    | (intro x; first
        | (refine (have hx : State.Kept p x := ?_; ?_); subst x; rotate_left; clear_value x; rotate_right)
        | (refine (have hx : State.Kept p x.1 := ?_; ?_); subst x; rotate_left; clear_value x; rotate_right)
        | (try clear_value x))
    | lift_lets -underBinder
    | with_reducible apply State.modCtx_kept

theorem State.closeSample_kept {s : State} {c : Nat} (h : s.Kept p) (_ : p.may .regs) (_ : p.may .ing) :
    State.Kept p (State.closeSample s c) := by
  unfold State.closeSample
  repeat' first
    | with_reducible assumption
    | (intro x; first
        | (refine (have hx : State.Kept p x := ?_; ?_); subst x; rotate_left; clear_value x; rotate_right)
        | (refine (have hx : State.Kept p x.1 := ?_; ?_); subst x; rotate_left; clear_value x; rotate_right)
        | (try clear_value x))
    | lift_lets -underBinder
    | with_reducible apply State.Kept.ite
    | with_reducible apply State.setReg_kept
    | with_reducible apply State.modCtx_kept
    | split

theorem State.linkErr_kept {s : State} (h : s.Kept p) (_ : p.may .regs) :
    State.Kept p (State.linkErr s) := by
  unfold State.linkErr
  repeat' first
    | with_reducible assumption
    | with_reducible apply State.bump_kept
    | split

theorem State.csiSync_kept {s : State} {rx : Nat} (h : s.Kept p) (_ : p.may .regs) :
    State.Kept p (State.csiSync s rx) := by
  unfold State.csiSync
  repeat' first
    | with_reducible assumption
    | with_reducible apply State.setRegBits_kept

theorem csiFrameStartEffect_kept {rx : Fin 8} {vc : Fin 16} {bad : Bool} {s : State} (h : s.Kept p) (_ : p.may .regs) (_ : p.may .harp) (_ : p.may .ing) :
    State.Kept p (csiFrameStartEffect rx vc bad s) := by
  unfold csiFrameStartEffect
  repeat' first
    | with_reducible assumption
    | (intro x; first
        | (refine (have hx : State.Kept p x := ?_; ?_); subst x; rotate_left; clear_value x; rotate_right)
        | (refine (have hx : State.Kept p x.1 := ?_; ?_); subst x; rotate_left; clear_value x; rotate_right)
        | (try clear_value x))
    | lift_lets -underBinder
    | with_reducible apply State.Kept.ite
    | with_reducible apply State.Kept.foldl
    | with_reducible apply State.Kept.foldl_fst
    | with_reducible apply State.closeSample_kept
    | with_reducible apply State.openSample_kept
    | with_reducible apply State.harpFrameStart_kept
    | with_reducible apply State.csiSync_kept
    | with_reducible apply State.linkErr_kept
    | split

theorem csiPacketEffect_kept {rx : Fin 8} {vc : Fin 16} {dt : Fin 64} {bad : Bool} {crcBad : Bool} {data : List Byte} {s : State} (h : s.Kept p) (_ : p.may .regs) (_ : p.may .harp) (_ : p.may .ing) :
    State.Kept p (csiPacketEffect rx vc dt bad crcBad data s) := by
  unfold csiPacketEffect
  repeat' first
    | with_reducible assumption
    | (intro x; first
        | (refine (have hx : State.Kept p x := ?_; ?_); subst x; rotate_left; clear_value x; rotate_right)
        | (refine (have hx : State.Kept p x.1 := ?_; ?_); subst x; rotate_left; clear_value x; rotate_right)
        | (try clear_value x))
    | lift_lets -underBinder
    | with_reducible apply State.Kept.ite
    | with_reducible apply State.bump_kept
    | with_reducible apply State.harpLine_kept
    | with_reducible apply State.stage_kept
    | with_reducible apply State.modCtx_kept
    | with_reducible apply State.csiSync_kept
    | with_reducible apply State.linkErr_kept
    | split

theorem csiFrameEndEffect_kept {rx : Fin 8} {vc : Fin 16} {bad : Bool} {s : State} (h : s.Kept p) (_ : p.may .regs) (_ : p.may .harp) (_ : p.may .ing) :
    State.Kept p (csiFrameEndEffect rx vc bad s) := by
  unfold csiFrameEndEffect
  repeat' first
    | with_reducible assumption
    | (intro x; first
        | (refine (have hx : State.Kept p x := ?_; ?_); subst x; rotate_left; clear_value x; rotate_right)
        | (refine (have hx : State.Kept p x.1 := ?_; ?_); subst x; rotate_left; clear_value x; rotate_right)
        | (try clear_value x))
    | lift_lets -underBinder
    | with_reducible apply State.Kept.ite
    | with_reducible apply State.Kept.foldl
    | with_reducible apply State.Kept.foldl_fst
    | with_reducible apply State.closeSample_kept
    | with_reducible apply State.harpFrameStop_kept
    | with_reducible apply State.csiSync_kept
    | with_reducible apply State.linkErr_kept
    | split

theorem ethRxFrameEffect_kept {mac : Fin 4} {sfd : Int} {bad : Bool} {frame : List Byte} {s : State} (h : s.Kept p) (_ : p.may .free) (_ : p.may .regs) (_ : p.may .ing) :
    State.Kept p (ethRxFrameEffect mac sfd bad frame s) := by
  unfold ethRxFrameEffect
  repeat' first
    | with_reducible assumption
    | (intro x; first
        | (refine (have hx : State.Kept p x := ?_; ?_); subst x; rotate_left; clear_value x; rotate_right)
        | (refine (have hx : State.Kept p x.1 := ?_; ?_); subst x; rotate_left; clear_value x; rotate_right)
        | (try clear_value x))
    | lift_lets -underBinder
    | with_reducible apply State.Kept.ite
    | with_reducible apply State.bump_kept
    | with_reducible apply State.closeSample_kept
    | with_reducible apply State.stage_kept
    | with_reducible apply State.openSample_kept
    | with_reducible apply State.useFrees_kept
    | with_reducible apply State.modCtx_kept
    | with_reducible apply State.linkErr_kept
    | split

theorem spiTriggerEffect_kept {m : Fin 4} {cs : Fin 4} {s : State} (h : s.Kept p) (_ : p.may .ing) :
    State.Kept p (spiTriggerEffect m cs s) := by
  unfold spiTriggerEffect
  repeat' first
    | with_reducible assumption
    | (intro x; first
        | (refine (have hx : State.Kept p x := ?_; ?_); subst x; rotate_left; clear_value x; rotate_right)
        | (refine (have hx : State.Kept p x.1 := ?_; ?_); subst x; rotate_left; clear_value x; rotate_right)
        | (try clear_value x))
    | lift_lets -underBinder
    | with_reducible apply State.Kept.ite
    | with_reducible apply State.openSample_kept
    | with_reducible apply State.modCtx_kept
    | split

theorem spiTransferEndEffect_kept {m : Fin 4} {cs : Fin 4} {data : List Byte} {s : State} (h : s.Kept p) (_ : p.may .regs) (_ : p.may .ing) :
    State.Kept p (spiTransferEndEffect m cs data s) := by
  unfold spiTransferEndEffect
  repeat' first
    | with_reducible assumption
    | with_reducible apply State.Kept.ite
    | with_reducible apply State.bump_kept
    | with_reducible apply State.closeSample_kept
    | with_reducible apply State.stage_kept
    | split

theorem canRxFrameEffect_kept {n : Fin 2} {sof : Int} {ident : BitVec 29} {format : Fin 4} {bad : Bool} {data : List Byte} {s : State} (h : s.Kept p) (_ : p.may .regs) (_ : p.may .ing) :
    State.Kept p (canRxFrameEffect n sof ident format bad data s) := by
  unfold canRxFrameEffect
  repeat' first
    | with_reducible assumption
    | with_reducible apply State.Kept.ite
    | with_reducible apply State.bump_kept
    | with_reducible apply State.closeSample_kept
    | with_reducible apply State.stage_kept
    | with_reducible apply State.openSample_kept
    | with_reducible apply State.linkErr_kept
    | split

theorem State.checkSample_kept {s : State} {c : Nat} {o : IngSample} (h : s.Kept p) (_ : p.may .free) (_ : p.may .regs) (_ : p.may .evr) (_ : p.may .line) (_ : p.may .auth) (_ : p.may .safe) (_ : p.may .hostEvent) (_ : p.may .ing) (_ : p.may .fus) (_ : p.may .fbx) (_ : p.may .trace) (_ : p.may .traceDrop) (_ : p.may .msix) (_ : p.may .firm) (_ : p.may .now) :
    State.Kept p (State.checkSample s c o).1 := by
  unfold State.checkSample
  repeat' first
    | with_reducible assumption
    | (intro x; first
        | (refine (have hx : State.Kept p x := ?_; ?_); subst x; rotate_left; clear_value x; rotate_right)
        | (refine (have hx : State.Kept p x.1 := ?_; ?_); subst x; rotate_left; clear_value x; rotate_right)
        | (try clear_value x))
    | lift_lets -underBinder
    | with_reducible apply State.Kept.ite
    | with_reducible apply State.bump_kept
    | with_reducible apply State.raise_kept
    | with_reducible apply State.modCtx_kept
    | with_reducible apply State.useFree_kept
    | (with_reducible apply State.Kept.upd_fus <;> with_reducible assumption)
    | split

theorem State.writeSample_kept {s : State} {c : Nat} {o : IngSample} {k : Nat × Nat × Nat × Nat × Nat} (h : s.Kept p) (_ : p.may .regs) (_ : p.may .logs) (_ : p.may .mem) (_ : p.may .poison) (_ : p.may .upset) (_ : p.may .evr) (_ : p.may .hostEvent) (_ : p.may .pwr) (_ : p.may .msix) (_ : p.may .now) :
    State.Kept p (State.writeSample s c o k) := by
  unfold State.writeSample
  repeat' first
    | with_reducible assumption
    | (intro x; first
        | (refine (have hx : State.Kept p x := ?_; ?_); subst x; rotate_left; clear_value x; rotate_right)
        | (refine (have hx : State.Kept p x.1 := ?_; ?_); subst x; rotate_left; clear_value x; rotate_right)
        | (try clear_value x))
    | lift_lets -underBinder
    | with_reducible apply State.deliver_kept

theorem sampleEndEffect_kept {c : Fin 96} {s : State} (h : s.Kept p) (_ : p.may .free) (_ : p.may .regs) (_ : p.may .logs) (_ : p.may .mem) (_ : p.may .poison) (_ : p.may .upset) (_ : p.may .cells) (_ : p.may .evr) (_ : p.may .line) (_ : p.may .auth) (_ : p.may .safe) (_ : p.may .hostEvent) (_ : p.may .mig) (_ : p.may .ing) (_ : p.may .fus) (_ : p.may .fbx) (_ : p.may .pwr) (_ : p.may .trace) (_ : p.may .traceDrop) (_ : p.may .msix) (_ : p.may .firm) (_ : p.may .now) :
    State.Kept p (sampleEndEffect c s) := by
  unfold sampleEndEffect
  repeat' first
    | with_reducible assumption
    | (intro x; first
        | (refine (have hx : State.Kept p x := ?_; ?_); subst x; rotate_left; clear_value x; rotate_right)
        | (refine (have hx : State.Kept p x.1 := ?_; ?_); subst x; rotate_left; clear_value x; rotate_right)
        | (try clear_value x))
    | lift_lets -underBinder
    | with_reducible apply State.Kept.ite
    | with_reducible apply State.setReg_kept
    | with_reducible apply State.bump_kept
    | with_reducible apply State.writeSample_kept
    | with_reducible apply State.complete_kept
    | with_reducible apply State.modCtx_kept
    | with_reducible apply State.checkSample_kept
    | split

theorem State.ctxStart_kept {s : State} {c : Nat} (h : s.Kept p) (_ : p.may .ing) :
    State.Kept p (State.ctxStart s c) := by
  unfold State.ctxStart
  repeat' first
    | with_reducible assumption
    | with_reducible apply State.modCtx_kept

theorem State.ctxStop_kept {s : State} {c : Nat} (h : s.Kept p) (_ : p.may .regs) (_ : p.may .ing) :
    State.Kept p (State.ctxStop s c) := by
  unfold State.ctxStop
  repeat' first
    | with_reducible assumption
    | with_reducible apply State.Kept.ite
    | with_reducible apply State.setReg_kept
    | with_reducible apply State.modCtx_kept
    | split

end Sys2Proof.Machine
end

