-- ==== Sys2Proof/Laws/KeptLoopEngine.lean ====
section
/-! SUPPORT. State.Kept through the operations of Machine/LoopEngine.lean. -/

set_option linter.all false

namespace Sys2Proof.Machine

variable {p : Promise}

theorem State.modLp_kept {s : State} {f : Loop → Loop} (h : s.Kept p) (_ : p.may .lp) :
    State.Kept p (State.modLp s f) := by
  unfold State.modLp
  exact State.Kept.upd_lp h (by assumption)

theorem State.modAxis_kept {s : State} {a : Nat} {f : LoopAxis → LoopAxis} (h : s.Kept p) (_ : p.may .lp) :
    State.Kept p (State.modAxis s a f) := by
  unfold State.modAxis
  repeat' first
    | with_reducible assumption
    | with_reducible apply State.modLp_kept

theorem State.modLport_kept {s : State} {p' : Nat} {f : LoopPort → LoopPort} (h : s.Kept p) (_ : p.may .lp) :
    State.Kept p (State.modLport s p' f) := by
  unfold State.modLport
  repeat' first
    | with_reducible assumption
    | (intro x; first
        | (refine (have hx : State.Kept p x := ?_; ?_); subst x; rotate_left; clear_value x; rotate_right)
        | (refine (have hx : State.Kept p x.1 := ?_; ?_); subst x; rotate_left; clear_value x; rotate_right)
        | (try clear_value x))
    | lift_lets -underBinder
    | with_reducible apply State.Kept.ite
    | with_reducible apply State.Kept.foldl
    | with_reducible apply State.Kept.foldl_fst
    | with_reducible apply State.modLp_kept
    | split

theorem State.setStaging_kept {s : State} {b : SegBank} (h : s.Kept p) (_ : p.may .regs) :
    State.Kept p (State.setStaging s b) := by
  unfold State.setStaging
  repeat' first
    | with_reducible assumption
    | (intro x; first
        | (refine (have hx : State.Kept p x := ?_; ?_); subst x; rotate_left; clear_value x; rotate_right)
        | (refine (have hx : State.Kept p x.1 := ?_; ?_); subst x; rotate_left; clear_value x; rotate_right)
        | (try clear_value x))
    | lift_lets -underBinder
    | with_reducible apply State.Kept.foldl
    | with_reducible apply State.Kept.foldl_fst
    | with_reducible apply State.setReg_kept

theorem State.swapBanks_kept {s : State} (h : s.Kept p) (_ : p.may .regs) (_ : p.may .lp) :
    State.Kept p (State.swapBanks s) := by
  unfold State.swapBanks
  repeat' first
    | with_reducible assumption
    | (intro x; first
        | (refine (have hx : State.Kept p x := ?_; ?_); subst x; rotate_left; clear_value x; rotate_right)
        | (refine (have hx : State.Kept p x.1 := ?_; ?_); subst x; rotate_left; clear_value x; rotate_right)
        | (try clear_value x))
    | lift_lets -underBinder
    | with_reducible apply State.Kept.ite
    | with_reducible apply State.setStaging_kept
    | with_reducible apply State.modLp_kept
    | split

theorem State.takeTables_kept {s : State} (h : s.Kept p) (_ : p.may .lp) :
    State.Kept p (State.takeTables s) := by
  unfold State.takeTables
  repeat' first
    | with_reducible assumption
    | (intro x; first
        | (refine (have hx : State.Kept p x := ?_; ?_); subst x; rotate_left; clear_value x; rotate_right)
        | (refine (have hx : State.Kept p x.1 := ?_; ?_); subst x; rotate_left; clear_value x; rotate_right)
        | (try clear_value x))
    | lift_lets -underBinder
    | with_reducible apply State.Kept.foldl
    | with_reducible apply State.Kept.foldl_fst
    | with_reducible apply State.modLp_kept

theorem State.loopTake_kept {s : State} {k : Int} (h : s.Kept p) (_ : p.may .regs) (_ : p.may .lp) :
    State.Kept p (State.loopTake s k) := by
  unfold State.loopTake
  repeat' first
    | with_reducible assumption
    | (intro x; first
        | (refine (have hx : State.Kept p x := ?_; ?_); subst x; rotate_left; clear_value x; rotate_right)
        | (refine (have hx : State.Kept p x.1 := ?_; ?_); subst x; rotate_left; clear_value x; rotate_right)
        | (try clear_value x))
    | lift_lets -underBinder
    | with_reducible apply State.modLp_kept
    | with_reducible apply State.swapBanks_kept
    | with_reducible apply State.takeTables_kept

theorem State.loopRetake_kept {s : State} (h : s.Kept p) (_ : p.may .regs) (_ : p.may .lp) :
    State.Kept p (State.loopRetake s) := by
  unfold State.loopRetake
  repeat' first
    | with_reducible assumption
    | with_reducible apply State.Kept.ite
    | with_reducible apply State.loopTake_kept
    | split

theorem State.loopRest_kept {s : State} (h : s.Kept p) (_ : p.may .lp) :
    State.Kept p (State.loopRest s) := by
  unfold State.loopRest
  repeat' first
    | with_reducible assumption
    | with_reducible apply State.Kept.ite
    | with_reducible apply State.modLp_kept
    | with_reducible apply State.takeTables_kept
    | split

theorem State.axisCommand_kept {s : State} {a : Nat} {c : Nat} (h : s.Kept p) (_ : p.may .regs) (_ : p.may .lp) :
    State.Kept p (State.axisCommand s a c) := by
  unfold State.axisCommand
  repeat' first
    | with_reducible assumption
    | with_reducible apply State.Kept.ite
    | with_reducible apply State.loopRetake_kept
    | with_reducible apply State.modAxis_kept
    | split

theorem axisEnableEffect_kept {a : Fin 64} {s : State} (h : s.Kept p) (_ : p.may .regs) (_ : p.may .lp) :
    State.Kept p (axisEnableEffect a s) := by
  unfold axisEnableEffect
  repeat' first
    | with_reducible assumption
    | with_reducible apply State.axisCommand_kept

theorem axisDisableEffect_kept {a : Fin 64} {s : State} (h : s.Kept p) (_ : p.may .regs) (_ : p.may .lp) :
    State.Kept p (axisDisableEffect a s) := by
  unfold axisDisableEffect
  repeat' first
    | with_reducible assumption
    | with_reducible apply State.axisCommand_kept

theorem axisClearEffect_kept {a : Fin 64} {s : State} (h : s.Kept p) (_ : p.may .regs) (_ : p.may .lp) :
    State.Kept p (axisClearEffect a s) := by
  unfold axisClearEffect
  repeat' first
    | with_reducible assumption
    | with_reducible apply State.axisCommand_kept

theorem State.loopStart_kept {s : State} (h : s.Kept p) (_ : p.may .regs) (_ : p.may .lp) :
    State.Kept p (State.loopStart s) := by
  unfold State.loopStart
  repeat' first
    | with_reducible assumption
    | (intro x; first
        | (refine (have hx : State.Kept p x := ?_; ?_); subst x; rotate_left; clear_value x; rotate_right)
        | (refine (have hx : State.Kept p x.1 := ?_; ?_); subst x; rotate_left; clear_value x; rotate_right)
        | (try clear_value x))
    | lift_lets -underBinder
    | with_reducible apply State.setReg_kept
    | with_reducible apply State.setRegBit_kept
    | with_reducible apply State.modLp_kept

theorem State.loopStop_kept {s : State} (h : s.Kept p) (_ : p.may .regs) (_ : p.may .lp) :
    State.Kept p (State.loopStop s) := by
  unfold State.loopStop
  repeat' first
    | with_reducible assumption
    | with_reducible apply State.setReg_kept
    | with_reducible apply State.loopRest_kept

theorem loopRunEffect_kept {run : Bool} {s : State} (h : s.Kept p) (_ : p.may .regs) (_ : p.may .lp) :
    State.Kept p (loopRunEffect run s) := by
  unfold loopRunEffect
  repeat' first
    | with_reducible assumption
    | with_reducible apply State.Kept.ite
    | with_reducible apply State.loopStop_kept
    | with_reducible apply State.loopStart_kept
    | split

theorem loopSegSwapEffect_kept {v : BitVec 32} {s : State} (h : s.Kept p) (_ : p.may .regs) (_ : p.may .lp) :
    State.Kept p (loopSegSwapEffect v s) := by
  unfold loopSegSwapEffect
  repeat' first
    | with_reducible assumption
    | with_reducible apply State.Kept.ite
    | with_reducible apply State.loopRetake_kept
    | with_reducible apply State.modLp_kept
    | split

theorem loopTblDataWriteEffect_kept {v : BitVec 32} {s : State} (h : s.Kept p) (_ : p.may .regs) (_ : p.may .lp) (_ : p.may .now) :
    State.Kept p (loopTblDataWriteEffect v s) := by
  unfold loopTblDataWriteEffect
  repeat' first
    | with_reducible assumption
    | (intro x; first
        | (refine (have hx : State.Kept p x := ?_; ?_); subst x; rotate_left; clear_value x; rotate_right)
        | (refine (have hx : State.Kept p x.1 := ?_; ?_); subst x; rotate_left; clear_value x; rotate_right)
        | (try clear_value x))
    | lift_lets -underBinder
    | with_reducible apply State.Kept.ite
    | with_reducible apply State.loopRetake_kept
    | with_reducible apply State.hwSetBit_kept
    | with_reducible apply State.setReg_kept
    | with_reducible apply State.modLp_kept
    | with_reducible apply State.loopRest_kept
    | split

theorem loopTickEffect_kept {s : State} (h : s.Kept p) (_ : p.may .regs) (_ : p.may .lp) (_ : p.may .trace) (_ : p.may .traceDrop) :
    State.Kept p (loopTickEffect s) := by
  unfold loopTickEffect
  repeat' first
    | with_reducible assumption
    | (intro x; first
        | (refine (have hx : State.Kept p x := ?_; ?_); subst x; rotate_left; clear_value x; rotate_right)
        | (refine (have hx : State.Kept p x.1 := ?_; ?_); subst x; rotate_left; clear_value x; rotate_right)
        | (try clear_value x))
    | lift_lets -underBinder
    | with_reducible apply State.Kept.ite
    | with_reducible apply State.setReg_kept
    | with_reducible apply State.bump_kept
    | with_reducible apply State.modLp_kept
    | with_reducible apply State.loopTake_kept
    | with_reducible apply State.emit_kept
    | split

theorem State.loopRelease_kept {s : State} (h : s.Kept p) (_ : p.may .lp) :
    State.Kept p (State.loopRelease s) := by
  unfold State.loopRelease
  repeat' first
    | with_reducible assumption
    | (intro x; first
        | (refine (have hx : State.Kept p x := ?_; ?_); subst x; rotate_left; clear_value x; rotate_right)
        | (refine (have hx : State.Kept p x.1 := ?_; ?_); subst x; rotate_left; clear_value x; rotate_right)
        | (try clear_value x))
    | lift_lets -underBinder
    | with_reducible apply State.Kept.ite
    | with_reducible apply State.Kept.foldl
    | with_reducible apply State.Kept.foldl_fst
    | with_reducible apply State.modAxis_kept
    | split

theorem State.axisFault_kept {s : State} {a : Nat} {x' : LoopAxis} {cause : Nat} (h : s.Kept p) (_ : p.may .regs) (_ : p.may .evr) (_ : p.may .hostEvent) (_ : p.may .lp) (_ : p.may .msix) (_ : p.may .now) :
    State.Kept p (State.axisFault s a x' cause) := by
  unfold State.axisFault
  repeat' first
    | with_reducible assumption
    | with_reducible apply State.bump_kept
    | with_reducible apply State.outcome_kept
    | with_reducible apply State.modAxis_kept

theorem State.drive_kept {s : State} {a : Nat} {par : List Nat} {refs : List Nat} {x' : LoopAxis} {hit : Bool} (h : s.Kept p) (_ : p.may .regs) (_ : p.may .evr) (_ : p.may .hostEvent) (_ : p.may .lp) (_ : p.may .msix) (_ : p.may .now) :
    State.Kept p (State.drive s a par refs x' hit) := by
  unfold State.drive
  repeat' first
    | with_reducible assumption
    | (intro x; first
        | (refine (have hx : State.Kept p x := ?_; ?_); subst x; rotate_left; clear_value x; rotate_right)
        | (refine (have hx : State.Kept p x.1 := ?_; ?_); subst x; rotate_left; clear_value x; rotate_right)
        | (try clear_value x))
    | lift_lets -underBinder
    | with_reducible apply State.Kept.ite
    | with_reducible apply State.axisFault_kept
    | with_reducible apply State.modAxis_kept
    | split

theorem State.runAxis_kept {s : State} {a : Nat} {par : List Nat} {x' : LoopAxis} {hit : Bool} (h : s.Kept p) (_ : p.may .regs) (_ : p.may .evr) (_ : p.may .hostEvent) (_ : p.may .lp) (_ : p.may .msix) (_ : p.may .now) :
    State.Kept p (State.runAxis s a par x' hit) := by
  unfold State.runAxis
  repeat' first
    | with_reducible assumption
    | (intro x; first
        | (refine (have hx : State.Kept p x := ?_; ?_); subst x; rotate_left; clear_value x; rotate_right)
        | (refine (have hx : State.Kept p x.1 := ?_; ?_); subst x; rotate_left; clear_value x; rotate_right)
        | (try clear_value x))
    | lift_lets -underBinder
    | with_reducible apply State.Kept.ite
    | with_reducible apply State.bump_kept
    | with_reducible apply State.drive_kept
    | with_reducible apply State.axisFault_kept
    | with_reducible apply State.outcome_kept
    | split

theorem State.axisPoison_kept {s : State} {a : Nat} {x' : LoopAxis} (h : s.Kept p) (_ : p.may .regs) (_ : p.may .logs) (_ : p.may .evr) (_ : p.may .line) (_ : p.may .auth) (_ : p.may .safe) (_ : p.may .hostEvent) (_ : p.may .lp) (_ : p.may .fbx) (_ : p.may .trace) (_ : p.may .traceDrop) (_ : p.may .msix) (_ : p.may .firm) (_ : p.may .now) :
    State.Kept p (State.axisPoison s a x') := by
  unfold State.axisPoison
  repeat' first
    | with_reducible assumption
    | (intro x; first
        | (refine (have hx : State.Kept p x := ?_; ?_); subst x; rotate_left; clear_value x; rotate_right)
        | (refine (have hx : State.Kept p x.1 := ?_; ?_); subst x; rotate_left; clear_value x; rotate_right)
        | (try clear_value x))
    | lift_lets -underBinder
    | with_reducible apply State.Kept.foldl
    | with_reducible apply State.Kept.foldl_fst
    | with_reducible apply State.pushLog_kept
    | with_reducible apply State.axisFault_kept
    | with_reducible apply State.raise_kept

theorem State.axisCorrect_kept {s : State} {a : Nat} (h : s.Kept p) (_ : p.may .regs) (_ : p.may .evr) (_ : p.may .hostEvent) (_ : p.may .lp) (_ : p.may .msix) (_ : p.may .now) :
    State.Kept p (State.axisCorrect s a) := by
  unfold State.axisCorrect
  repeat' first
    | with_reducible assumption
    | (intro x; first
        | (refine (have hx : State.Kept p x := ?_; ?_); subst x; rotate_left; clear_value x; rotate_right)
        | (refine (have hx : State.Kept p x.1 := ?_; ?_); subst x; rotate_left; clear_value x; rotate_right)
        | (try clear_value x))
    | lift_lets -underBinder
    | with_reducible apply State.Kept.foldl
    | with_reducible apply State.Kept.foldl_fst
    | with_reducible apply State.countCE_kept
    | with_reducible apply State.modLp_kept

theorem State.computeAxis_kept {s0 : State} {a : Nat} (h : s0.Kept p) (_ : p.may .regs) (_ : p.may .logs) (_ : p.may .evr) (_ : p.may .line) (_ : p.may .auth) (_ : p.may .safe) (_ : p.may .hostEvent) (_ : p.may .lp) (_ : p.may .fbx) (_ : p.may .trace) (_ : p.may .traceDrop) (_ : p.may .msix) (_ : p.may .firm) (_ : p.may .now) :
    State.Kept p (State.computeAxis s0 a) := by
  unfold State.computeAxis
  repeat' first
    | with_reducible assumption
    | (intro x; first
        | (refine (have hx : State.Kept p x := ?_; ?_); subst x; rotate_left; clear_value x; rotate_right)
        | (refine (have hx : State.Kept p x.1 := ?_; ?_); subst x; rotate_left; clear_value x; rotate_right)
        | (try clear_value x))
    | lift_lets -underBinder
    | with_reducible apply State.Kept.ite
    | with_reducible apply State.runAxis_kept
    | with_reducible apply State.drive_kept
    | with_reducible apply State.axisFault_kept
    | with_reducible apply State.axisCorrect_kept
    | with_reducible apply State.axisPoison_kept
    | with_reducible apply State.modAxis_kept
    | split

theorem loopGroupStartEffect_kept {s : State} (h : s.Kept p) (_ : p.may .regs) (_ : p.may .logs) (_ : p.may .evr) (_ : p.may .line) (_ : p.may .auth) (_ : p.may .safe) (_ : p.may .hostEvent) (_ : p.may .lp) (_ : p.may .fbx) (_ : p.may .trace) (_ : p.may .traceDrop) (_ : p.may .msix) (_ : p.may .firm) (_ : p.may .now) :
    State.Kept p (loopGroupStartEffect s) := by
  unfold loopGroupStartEffect
  repeat' first
    | with_reducible assumption
    | (intro x; first
        | (refine (have hx : State.Kept p x := ?_; ?_); subst x; rotate_left; clear_value x; rotate_right)
        | (refine (have hx : State.Kept p x.1 := ?_; ?_); subst x; rotate_left; clear_value x; rotate_right)
        | (try clear_value x))
    | lift_lets -underBinder
    | with_reducible apply State.Kept.ite
    | with_reducible apply State.Kept.foldl
    | with_reducible apply State.Kept.foldl_fst
    | with_reducible apply State.bump_kept
    | with_reducible apply State.modLport_kept
    | with_reducible apply State.modLp_kept
    | with_reducible apply State.loopRest_kept
    | with_reducible apply State.computeAxis_kept
    | split

theorem servoCommandFrameEffect_kept {p' : Fin 8} {s : State} (h : s.Kept p) (_ : p.may .lp) (_ : p.may .fbx) :
    State.Kept p (servoCommandFrameEffect p' s) := by
  unfold servoCommandFrameEffect
  repeat' first
    | with_reducible assumption
    | (intro x; first
        | (refine (have hx : State.Kept p x := ?_; ?_); subst x; rotate_left; clear_value x; rotate_right)
        | (refine (have hx : State.Kept p x.1 := ?_; ?_); subst x; rotate_left; clear_value x; rotate_right)
        | (try clear_value x))
    | lift_lets -underBinder
    | with_reducible apply State.Kept.ite
    | with_reducible apply State.Kept.foldl
    | with_reducible apply State.Kept.foldl_fst
    | with_reducible apply State.modLport_kept
    | (with_reducible apply State.Kept.upd_fbx <;> with_reducible assumption)
    | split

theorem State.fbxFeedback_kept {s : State} {p' : Nat} {ws : List Nat} (h : s.Kept p) (_ : p.may .fbx) :
    State.Kept p (State.fbxFeedback s p' ws) := by
  unfold State.fbxFeedback
  repeat' first
    | with_reducible assumption
    | (intro x; first
        | (refine (have hx : State.Kept p x := ?_; ?_); subst x; rotate_left; clear_value x; rotate_right)
        | (refine (have hx : State.Kept p x.1 := ?_; ?_); subst x; rotate_left; clear_value x; rotate_right)
        | (try clear_value x))
    | lift_lets -underBinder
    | with_reducible apply State.Kept.foldl
    | with_reducible apply State.Kept.foldl_fst
    | (with_reducible apply State.Kept.upd_fbx <;> with_reducible assumption)

theorem servoFeedbackFrameEffect_kept {p' : Fin 8} {bad : Bool} {frame : List Byte} {s : State} (h : s.Kept p) (_ : p.may .regs) (_ : p.may .lp) (_ : p.may .fbx) :
    State.Kept p (servoFeedbackFrameEffect p' bad frame s) := by
  unfold servoFeedbackFrameEffect
  repeat' first
    | with_reducible assumption
    | (intro x; first
        | (refine (have hx : State.Kept p x := ?_; ?_); subst x; rotate_left; clear_value x; rotate_right)
        | (refine (have hx : State.Kept p x.1 := ?_; ?_); subst x; rotate_left; clear_value x; rotate_right)
        | (try clear_value x))
    | lift_lets -underBinder
    | with_reducible apply State.Kept.ite
    | with_reducible apply State.setReg_kept
    | with_reducible apply State.bump_kept
    | with_reducible apply State.modLport_kept
    | with_reducible apply State.fbxFeedback_kept
    | split

theorem State.lostAxis_kept {s : State} {a : Nat} (h : s.Kept p) (_ : p.may .regs) (_ : p.may .evr) (_ : p.may .hostEvent) (_ : p.may .lp) (_ : p.may .msix) (_ : p.may .now) :
    State.Kept p (State.lostAxis s a) := by
  unfold State.lostAxis
  repeat' first
    | with_reducible assumption
    | (intro x; first
        | (refine (have hx : State.Kept p x := ?_; ?_); subst x; rotate_left; clear_value x; rotate_right)
        | (refine (have hx : State.Kept p x.1 := ?_; ?_); subst x; rotate_left; clear_value x; rotate_right)
        | (try clear_value x))
    | lift_lets -underBinder
    | with_reducible apply State.Kept.ite
    | with_reducible apply State.bump_kept
    | with_reducible apply State.outcome_kept
    | with_reducible apply State.modAxis_kept
    | split

theorem State.portMiss_kept {s : State} {p' : Nat} (h : s.Kept p) (_ : p.may .regs) (_ : p.may .evr) (_ : p.may .hostEvent) (_ : p.may .lp) (_ : p.may .trace) (_ : p.may .traceDrop) (_ : p.may .msix) (_ : p.may .now) :
    State.Kept p (State.portMiss s p') := by
  unfold State.portMiss
  repeat' first
    | with_reducible assumption
    | (intro x; first
        | (refine (have hx : State.Kept p x := ?_; ?_); subst x; rotate_left; clear_value x; rotate_right)
        | (refine (have hx : State.Kept p x.1 := ?_; ?_); subst x; rotate_left; clear_value x; rotate_right)
        | (try clear_value x))
    | lift_lets -underBinder
    | with_reducible apply State.Kept.ite
    | with_reducible apply State.Kept.foldl
    | with_reducible apply State.Kept.foldl_fst
    | with_reducible apply State.lostAxis_kept
    | with_reducible apply State.bump_kept
    | with_reducible apply State.modLport_kept
    | with_reducible apply State.emit_kept
    | split

theorem State.portHit_kept {s : State} {p' : Nat} {ws : List Nat} (h : s.Kept p) (_ : p.may .lp) :
    State.Kept p (State.portHit s p' ws) := by
  unfold State.portHit
  repeat' first
    | with_reducible assumption
    | (intro x; first
        | (refine (have hx : State.Kept p x := ?_; ?_); subst x; rotate_left; clear_value x; rotate_right)
        | (refine (have hx : State.Kept p x.1 := ?_; ?_); subst x; rotate_left; clear_value x; rotate_right)
        | (try clear_value x))
    | lift_lets -underBinder
    | with_reducible apply State.Kept.foldl
    | with_reducible apply State.Kept.foldl_fst
    | with_reducible apply State.modLport_kept
    | with_reducible apply State.modAxis_kept

theorem feedbackCutoffEffect_kept {p' : Fin 8} {s : State} (h : s.Kept p) (_ : p.may .regs) (_ : p.may .evr) (_ : p.may .hostEvent) (_ : p.may .lp) (_ : p.may .trace) (_ : p.may .traceDrop) (_ : p.may .msix) (_ : p.may .now) :
    State.Kept p (feedbackCutoffEffect p' s) := by
  unfold feedbackCutoffEffect
  repeat' first
    | with_reducible assumption
    | (intro x; first
        | (refine (have hx : State.Kept p x := ?_; ?_); subst x; rotate_left; clear_value x; rotate_right)
        | (refine (have hx : State.Kept p x.1 := ?_; ?_); subst x; rotate_left; clear_value x; rotate_right)
        | (try clear_value x))
    | lift_lets -underBinder
    | with_reducible apply State.Kept.ite
    | with_reducible apply State.portMiss_kept
    | with_reducible apply State.portHit_kept
    | split

theorem servoLinkAlignEffect_kept {p' : Fin 8} {s : State} (h : s.Kept p) (_ : p.may .lp) :
    State.Kept p (servoLinkAlignEffect p' s) := by
  unfold servoLinkAlignEffect
  repeat' first
    | with_reducible assumption
    | with_reducible apply State.modLport_kept

theorem servoLinkDownEffect_kept {p' : Fin 8} {s : State} (h : s.Kept p) (_ : p.may .regs) (_ : p.may .lp) :
    State.Kept p (servoLinkDownEffect p' s) := by
  unfold servoLinkDownEffect
  repeat' first
    | with_reducible assumption
    | with_reducible apply State.Kept.ite
    | with_reducible apply State.bump_kept
    | with_reducible apply State.modLport_kept
    | split

theorem State.loopMismatch_kept {s : State} {a : Nat} (h : s.Kept p) (_ : p.may .regs) (_ : p.may .lp) :
    State.Kept p (State.loopMismatch s a) := by
  unfold State.loopMismatch
  repeat' first
    | with_reducible assumption
    | with_reducible apply State.bump_kept
    | with_reducible apply State.modAxis_kept

end Sys2Proof.Machine
end

