-- ==== Sys2Proof/Laws/KeptPower.lean ====
section
/-! SUPPORT. State.Kept through the operations of Machine/Power.lean. -/

set_option linter.all false

namespace Sys2Proof.Machine

variable {p : Promise}

theorem State.modPwr_kept {s : State} {f : Power → Power} (h : s.Kept p) (_ : p.may .pwr) :
    State.Kept p (State.modPwr s f) := by
  unfold State.modPwr
  repeat' first
    | with_reducible assumption
    | (intro x; first
        | (refine (have hx : State.Kept p x := ?_; ?_); subst x; rotate_left; clear_value x; rotate_right)
        | (refine (have hx : State.Kept p x.1 := ?_; ?_); subst x; rotate_left; clear_value x; rotate_right)
        | (try clear_value x))
    | lift_lets -underBinder
    | with_reducible apply State.Kept.ite
    | (with_reducible apply State.Kept.upd_pwr <;> with_reducible assumption)
    | split

theorem multiplierApplyEffect_kept {v : VatNo} {s : State} (h : s.Kept p) (_ : p.may .regs) (_ : p.may .pwr) :
    State.Kept p (multiplierApplyEffect v s) := by
  unfold multiplierApplyEffect
  repeat' first
    | with_reducible assumption
    | (intro x; first
        | (refine (have hx : State.Kept p x := ?_; ?_); subst x; rotate_left; clear_value x; rotate_right)
        | (refine (have hx : State.Kept p x.1 := ?_; ?_); subst x; rotate_left; clear_value x; rotate_right)
        | (try clear_value x))
    | lift_lets -underBinder
    | with_reducible apply State.Kept.ite
    | with_reducible apply State.modPwr_kept
    | with_reducible apply State.setRegBits_kept
    | split

theorem State.belowMin_kept {s : State} (h : s.Kept p) (_ : p.may .regs) (_ : p.may .evr) (_ : p.may .hostEvent) (_ : p.may .msix) (_ : p.may .now) :
    State.Kept p (State.belowMin s) := by
  unfold State.belowMin
  repeat' first
    | with_reducible assumption
    | (intro x; first
        | (refine (have hx : State.Kept p x := ?_; ?_); subst x; rotate_left; clear_value x; rotate_right)
        | (refine (have hx : State.Kept p x.1 := ?_; ?_); subst x; rotate_left; clear_value x; rotate_right)
        | (try clear_value x))
    | lift_lets -underBinder
    | with_reducible apply State.Kept.ite
    | with_reducible apply State.Kept.foldl
    | with_reducible apply State.Kept.foldl_fst
    | with_reducible apply State.setReg_kept
    | with_reducible apply State.outcome_kept
    | split

theorem State.meterAll_kept {s : State} {e : Nat} (h : s.Kept p) (_ : p.may .regs) (_ : p.may .pwr) :
    State.Kept p (State.meterAll s e) := by
  unfold State.meterAll
  repeat' first
    | with_reducible assumption
    | (intro x; first
        | (refine (have hx : State.Kept p x := ?_; ?_); subst x; rotate_left; clear_value x; rotate_right)
        | (refine (have hx : State.Kept p x.1 := ?_; ?_); subst x; rotate_left; clear_value x; rotate_right)
        | (try clear_value x))
    | lift_lets -underBinder
    | with_reducible apply State.Kept.foldl
    | with_reducible apply State.Kept.foldl_fst
    | with_reducible apply State.modPwr_kept
    | with_reducible apply State.setReg_kept

theorem State.takePower_kept {s : State} (h : s.Kept p) (_ : p.may .regs) (_ : p.may .pwr) :
    State.Kept p (State.takePower s) := by
  unfold State.takePower
  repeat' first
    | with_reducible assumption
    | (intro x; first
        | (refine (have hx : State.Kept p x := ?_; ?_); subst x; rotate_left; clear_value x; rotate_right)
        | (refine (have hx : State.Kept p x.1 := ?_; ?_); subst x; rotate_left; clear_value x; rotate_right)
        | (try clear_value x))
    | lift_lets -underBinder
    | with_reducible apply State.Kept.ite
    | with_reducible apply State.modPwr_kept
    | with_reducible apply State.setRegBits_kept
    | split

theorem State.stepCeilings_kept {s : State} (h : s.Kept p) (_ : p.may .regs) (_ : p.may .pwr) :
    State.Kept p (State.stepCeilings s) := by
  unfold State.stepCeilings
  repeat' first
    | with_reducible assumption
    | (intro x; first
        | (refine (have hx : State.Kept p x := ?_; ?_); subst x; rotate_left; clear_value x; rotate_right)
        | (refine (have hx : State.Kept p x.1 := ?_; ?_); subst x; rotate_left; clear_value x; rotate_right)
        | (try clear_value x))
    | lift_lets -underBinder
    | with_reducible apply State.Kept.ite
    | with_reducible apply State.modPwr_kept
    | with_reducible apply State.setReg_kept
    | with_reducible apply State.bump_kept
    | split

theorem State.capLoop_kept {s : State} {e : Nat} (h : s.Kept p) (_ : p.may .regs) (_ : p.may .pwr) :
    State.Kept p (State.capLoop s e) := by
  unfold State.capLoop
  repeat' first
    | with_reducible assumption
    | (intro x; first
        | (refine (have hx : State.Kept p x := ?_; ?_); subst x; rotate_left; clear_value x; rotate_right)
        | (refine (have hx : State.Kept p x.1 := ?_; ?_); subst x; rotate_left; clear_value x; rotate_right)
        | (try clear_value x))
    | lift_lets -underBinder
    | with_reducible apply State.Kept.ite
    | with_reducible apply State.modPwr_kept
    | with_reducible apply State.setReg_kept
    | with_reducible apply State.bump_kept
    | split

theorem powerPeriodEffect_kept {s : State} (h : s.Kept p) (_ : p.may .regs) (_ : p.may .evr) (_ : p.may .hostEvent) (_ : p.may .pwr) (_ : p.may .msix) (_ : p.may .now) :
    State.Kept p (powerPeriodEffect s) := by
  unfold powerPeriodEffect
  repeat' first
    | with_reducible assumption
    | (intro x; first
        | (refine (have hx : State.Kept p x := ?_; ?_); subst x; rotate_left; clear_value x; rotate_right)
        | (refine (have hx : State.Kept p x.1 := ?_; ?_); subst x; rotate_left; clear_value x; rotate_right)
        | (try clear_value x))
    | lift_lets -underBinder
    | with_reducible apply State.Kept.ite
    | with_reducible apply State.modPwr_kept
    | with_reducible apply State.setReg_kept
    | with_reducible apply State.meterAll_kept
    | with_reducible apply State.belowMin_kept
    | with_reducible apply State.capLoop_kept
    | with_reducible apply State.syncState_kept
    | with_reducible apply State.takePower_kept
    | with_reducible apply State.stepCeilings_kept
    | split

theorem pwrModeWriteEffect_kept {v : BitVec 32} {s : State} (h : s.Kept p) (_ : p.may .regs) (_ : p.may .now) :
    State.Kept p (pwrModeWriteEffect v s) := by
  unfold pwrModeWriteEffect
  repeat' first
    | with_reducible assumption
    | with_reducible apply State.Kept.ite
    | with_reducible apply State.hwSetBit_kept
    | with_reducible apply State.setReg_kept
    | split

theorem pwrMeterCfgWriteEffect_kept {k : Fin 8} {v : BitVec 32} {s : State} (h : s.Kept p) (_ : p.may .regs) (_ : p.may .pwr) :
    State.Kept p (pwrMeterCfgWriteEffect k v s) := by
  unfold pwrMeterCfgWriteEffect
  repeat' first
    | with_reducible assumption
    | with_reducible apply State.modPwr_kept
    | with_reducible apply State.setReg_kept

theorem State.modDroop_kept {s : State} {v : Nat} {f : Droop → Droop} (h : s.Kept p) (_ : p.may .pwr) :
    State.Kept p (State.modDroop s v f) := by
  unfold State.modDroop
  repeat' first
    | with_reducible assumption
    | with_reducible apply State.modPwr_kept

theorem droopAssertEffect_kept {v : VatNo} {s : State} (h : s.Kept p) (_ : p.may .regs) (_ : p.may .pwr) :
    State.Kept p (droopAssertEffect v s) := by
  unfold droopAssertEffect
  repeat' first
    | with_reducible assumption
    | with_reducible apply State.Kept.ite
    | with_reducible apply State.bump_kept
    | with_reducible apply State.modDroop_kept
    | with_reducible apply State.setRegBits_kept
    | split

theorem droopReleaseEffect_kept {v : VatNo} {s : State} (h : s.Kept p) (_ : p.may .pwr) :
    State.Kept p (droopReleaseEffect v s) := by
  unfold droopReleaseEffect
  repeat' first
    | with_reducible assumption
    | with_reducible apply State.Kept.ite
    | with_reducible apply State.modDroop_kept
    | split

theorem droopSwallowEndEffect_kept {v : VatNo} {s : State} (h : s.Kept p) (_ : p.may .regs) (_ : p.may .pwr) :
    State.Kept p (droopSwallowEndEffect v s) := by
  unfold droopSwallowEndEffect
  repeat' first
    | with_reducible assumption
    | (intro x; first
        | (refine (have hx : State.Kept p x := ?_; ?_); subst x; rotate_left; clear_value x; rotate_right)
        | (refine (have hx : State.Kept p x.1 := ?_; ?_); subst x; rotate_left; clear_value x; rotate_right)
        | (try clear_value x))
    | lift_lets -underBinder
    | with_reducible apply State.Kept.ite
    | with_reducible apply State.modDroop_kept
    | with_reducible apply State.setRegBits_kept
    | split

theorem State.swallow_kept {s : State} {v : Nat} (h : s.Kept p) (_ : p.may .pwr) :
    State.Kept p (State.swallow s v).1 := by
  unfold State.swallow
  repeat' first
    | with_reducible assumption
    | (intro x; first
        | (refine (have hx : State.Kept p x := ?_; ?_); subst x; rotate_left; clear_value x; rotate_right)
        | (refine (have hx : State.Kept p x.1 := ?_; ?_); subst x; rotate_left; clear_value x; rotate_right)
        | (try clear_value x))
    | lift_lets -underBinder
    | with_reducible apply State.Kept.ite
    | with_reducible apply State.modPwr_kept
    | with_reducible apply State.modDroop_kept
    | split

theorem State.sourcePulse_kept {s : State} {v : Nat} {i : Nat} (h : s.Kept p) (_ : p.may .regs) (_ : p.may .pwr) :
    State.Kept p (State.sourcePulse s v i).1 := by
  unfold State.sourcePulse
  repeat' first
    | with_reducible assumption
    | (intro x; first
        | (refine (have hx : State.Kept p x := ?_; ?_); subst x; rotate_left; clear_value x; rotate_right)
        | (refine (have hx : State.Kept p x.1 := ?_; ?_); subst x; rotate_left; clear_value x; rotate_right)
        | (try clear_value x))
    | lift_lets -underBinder
    | with_reducible apply State.Kept.ite
    | with_reducible apply State.modPwr_kept
    | with_reducible apply State.setReg_kept
    | with_reducible apply State.swallow_kept
    | split

theorem State.lakeTemp_kept {s : State} {k : Nat} {t : Int} (h : s.Kept p) (_ : p.may .regs) :
    State.Kept p (State.lakeTemp s k t) := by
  unfold State.lakeTemp
  repeat' first
    | with_reducible assumption
    | (intro x; first
        | (refine (have hx : State.Kept p x := ?_; ?_); subst x; rotate_left; clear_value x; rotate_right)
        | (refine (have hx : State.Kept p x.1 := ?_; ?_); subst x; rotate_left; clear_value x; rotate_right)
        | (try clear_value x))
    | lift_lets -underBinder
    | with_reducible apply State.Kept.ite
    | with_reducible apply State.setReg_kept
    | split

theorem State.regionTemp_kept {temps : List (BitVec 16)} {s : State} {r : Nat} (h : s.Kept p) (_ : p.may .regs) (_ : p.may .evr) (_ : p.may .line) (_ : p.may .auth) (_ : p.may .safe) (_ : p.may .hostEvent) (_ : p.may .fbx) (_ : p.may .trace) (_ : p.may .traceDrop) (_ : p.may .msix) (_ : p.may .firm) (_ : p.may .now) :
    State.Kept p (State.regionTemp temps s r) := by
  unfold State.regionTemp
  repeat' first
    | with_reducible assumption
    | (intro x; first
        | (refine (have hx : State.Kept p x := ?_; ?_); subst x; rotate_left; clear_value x; rotate_right)
        | (refine (have hx : State.Kept p x.1 := ?_; ?_); subst x; rotate_left; clear_value x; rotate_right)
        | (try clear_value x))
    | lift_lets -underBinder
    | with_reducible apply State.Kept.ite
    | with_reducible apply State.setReg_kept
    | with_reducible apply State.bump_kept
    | with_reducible apply State.lakeTemp_kept
    | with_reducible apply State.setRegBit_kept
    | with_reducible apply State.raise_kept
    | split

theorem thermalSampleEffect_kept {temps : List (BitVec 16)} {s : State} (h : s.Kept p) (_ : p.may .regs) (_ : p.may .evr) (_ : p.may .line) (_ : p.may .auth) (_ : p.may .safe) (_ : p.may .hostEvent) (_ : p.may .fbx) (_ : p.may .trace) (_ : p.may .traceDrop) (_ : p.may .msix) (_ : p.may .firm) (_ : p.may .now) :
    State.Kept p (thermalSampleEffect temps s) := by
  unfold thermalSampleEffect
  repeat' first
    | with_reducible assumption
    | (intro x; first
        | (refine (have hx : State.Kept p x := ?_; ?_); subst x; rotate_left; clear_value x; rotate_right)
        | (refine (have hx : State.Kept p x.1 := ?_; ?_); subst x; rotate_left; clear_value x; rotate_right)
        | (try clear_value x))
    | lift_lets -underBinder
    | with_reducible apply State.Kept.foldl
    | with_reducible apply State.Kept.foldl_fst
    | with_reducible apply State.regionTemp_kept

theorem State.regionStart_kept {s : State} {v : Nat} (h : s.Kept p) (_ : p.may .regs) (_ : p.may .pwr) :
    State.Kept p (State.regionStart s v) := by
  unfold State.regionStart
  repeat' first
    | with_reducible assumption
    | with_reducible apply State.modPwr_kept
    | with_reducible apply State.setRegBits_kept
    | split

theorem State.pairSample_kept {s : State} {p' : Nat × Nat} (h : s.Kept p) (_ : p.may .regs) (_ : p.may .evr) (_ : p.may .hostEvent) (_ : p.may .pwr) (_ : p.may .msix) (_ : p.may .now) :
    State.Kept p (State.pairSample s p') := by
  unfold State.pairSample
  repeat' first
    | with_reducible assumption
    | (intro x; first
        | (refine (have hx : State.Kept p x := ?_; ?_); subst x; rotate_left; clear_value x; rotate_right)
        | (refine (have hx : State.Kept p x.1 := ?_; ?_); subst x; rotate_left; clear_value x; rotate_right)
        | (try clear_value x))
    | lift_lets -underBinder
    | with_reducible apply State.Kept.ite
    | with_reducible apply State.Kept.foldl
    | with_reducible apply State.Kept.foldl_fst
    | with_reducible apply State.modPwr_kept
    | with_reducible apply State.setReg_kept
    | with_reducible apply State.bump_kept
    | with_reducible apply State.setRegBit_kept
    | with_reducible apply State.outcome_kept
    | with_reducible apply State.regionStart_kept
    | split

theorem regionDiffSampleEffect_kept {s : State} (h : s.Kept p) (_ : p.may .regs) (_ : p.may .evr) (_ : p.may .hostEvent) (_ : p.may .pwr) (_ : p.may .msix) (_ : p.may .now) :
    State.Kept p (regionDiffSampleEffect s) := by
  unfold regionDiffSampleEffect
  repeat' first
    | with_reducible assumption
    | (intro x; first
        | (refine (have hx : State.Kept p x := ?_; ?_); subst x; rotate_left; clear_value x; rotate_right)
        | (refine (have hx : State.Kept p x.1 := ?_; ?_); subst x; rotate_left; clear_value x; rotate_right)
        | (try clear_value x))
    | lift_lets -underBinder
    | with_reducible apply State.Kept.ite
    | with_reducible apply State.Kept.foldl
    | with_reducible apply State.Kept.foldl_fst
    | with_reducible apply State.modPwr_kept
    | with_reducible apply State.pairSample_kept
    | split

theorem regionSwallowEndEffect_kept {s : State} (h : s.Kept p) (_ : p.may .regs) (_ : p.may .pwr) :
    State.Kept p (regionSwallowEndEffect s) := by
  unfold regionSwallowEndEffect
  repeat' first
    | with_reducible assumption
    | (intro x; first
        | (refine (have hx : State.Kept p x := ?_; ?_); subst x; rotate_left; clear_value x; rotate_right)
        | (refine (have hx : State.Kept p x.1 := ?_; ?_); subst x; rotate_left; clear_value x; rotate_right)
        | (try clear_value x))
    | lift_lets -underBinder
    | with_reducible apply State.Kept.ite
    | with_reducible apply State.Kept.foldl
    | with_reducible apply State.Kept.foldl_fst
    | with_reducible apply State.modPwr_kept
    | with_reducible apply State.setReg_kept
    | with_reducible apply State.setRegBits_kept
    | split

theorem energySampleEffect_kept {rails : List (BitVec 16 × BitVec 16)} {s : State} (h : s.Kept p) (_ : p.may .regs) :
    State.Kept p (energySampleEffect rails s) := by
  unfold energySampleEffect
  repeat' first
    | with_reducible assumption
    | (intro x; first
        | (refine (have hx : State.Kept p x := ?_; ?_); subst x; rotate_left; clear_value x; rotate_right)
        | (refine (have hx : State.Kept p x.1 := ?_; ?_); subst x; rotate_left; clear_value x; rotate_right)
        | (try clear_value x))
    | lift_lets -underBinder
    | with_reducible apply State.Kept.foldl
    | with_reducible apply State.Kept.foldl_fst
    | with_reducible apply State.setReg_kept

end Sys2Proof.Machine
end

