-- ==== Sys2Proof/Laws/KeptSolver.lean ====
section
/-! SUPPORT. State.Kept through the operations of Machine/Solver.lean. -/

set_option linter.all false

namespace Sys2Proof.Machine

variable {p : Promise}

theorem State.modSlv_kept {s : State} {f : Solver → Solver} (h : s.Kept p) (_ : p.may .slv) :
    State.Kept p (State.modSlv s f) := by
  unfold State.modSlv
  exact State.Kept.upd_slv h (by assumption)

theorem State.modSlvSlot_kept {s : State} {j : Nat} {f : SlvSlot → SlvSlot} (h : s.Kept p) (_ : p.may .slv) :
    State.Kept p (State.modSlvSlot s j f) := by
  unfold State.modSlvSlot
  repeat' first
    | with_reducible assumption
    | (intro x; first
        | (refine (have hx : State.Kept p x := ?_; ?_); subst x; rotate_left; clear_value x; rotate_right)
        | (refine (have hx : State.Kept p x.1 := ?_; ?_); subst x; rotate_left; clear_value x; rotate_right)
        | (try clear_value x))
    | lift_lets -underBinder
    | with_reducible apply State.Kept.ite
    | with_reducible apply State.modSlv_kept
    | split

theorem State.slvEnable_kept {s : State} {j : Nat} (h : s.Kept p) (_ : p.may .regs) (_ : p.may .slv) :
    State.Kept p (State.slvEnable s j) := by
  unfold State.slvEnable
  repeat' first
    | with_reducible assumption
    | (intro x; first
        | (refine (have hx : State.Kept p x := ?_; ?_); subst x; rotate_left; clear_value x; rotate_right)
        | (refine (have hx : State.Kept p x.1 := ?_; ?_); subst x; rotate_left; clear_value x; rotate_right)
        | (try clear_value x))
    | lift_lets -underBinder
    | with_reducible apply State.Kept.ite
    | with_reducible apply State.setReg_kept
    | with_reducible apply State.modSlvSlot_kept
    | split

theorem State.slvDisable_kept {s : State} {j : Nat} (h : s.Kept p) (_ : p.may .regs) (_ : p.may .slv) :
    State.Kept p (State.slvDisable s j) := by
  unfold State.slvDisable
  repeat' first
    | with_reducible assumption
    | with_reducible apply State.Kept.ite
    | with_reducible apply State.setReg_kept
    | with_reducible apply State.setRegBit_kept
    | with_reducible apply State.modSlvSlot_kept
    | split

theorem State.slvRead_kept {s : State} {q : SlvJob} {p' : Nat} {a : Nat} {n : Nat} (h : s.Kept p) (_ : p.may .regs) (_ : p.may .logs) (_ : p.may .mem) (_ : p.may .poison) (_ : p.may .upset) (_ : p.may .evr) (_ : p.may .line) (_ : p.may .auth) (_ : p.may .safe) (_ : p.may .hostEvent) (_ : p.may .mig) (_ : p.may .fbx) (_ : p.may .pwr) (_ : p.may .trace) (_ : p.may .traceDrop) (_ : p.may .msix) (_ : p.may .firm) (_ : p.may .now) :
    State.Kept p (State.slvRead s q p' a n).1 := by
  unfold State.slvRead
  repeat' first
    | with_reducible assumption
    | (intro x; first
        | (refine (have hx : State.Kept p x := ?_; ?_); subst x; rotate_left; clear_value x; rotate_right)
        | (refine (have hx : State.Kept p x.1 := ?_; ?_); subst x; rotate_left; clear_value x; rotate_right)
        | (try clear_value x))
    | lift_lets -underBinder
    | with_reducible apply State.Kept.ite
    | with_reducible apply State.gather_kept
    | split

theorem State.slvReads_kept {s : State} {q : SlvJob} {p' : Nat} {l : List (Nat × Nat)} (h : s.Kept p) (_ : p.may .regs) (_ : p.may .logs) (_ : p.may .mem) (_ : p.may .poison) (_ : p.may .upset) (_ : p.may .evr) (_ : p.may .line) (_ : p.may .auth) (_ : p.may .safe) (_ : p.may .hostEvent) (_ : p.may .mig) (_ : p.may .fbx) (_ : p.may .pwr) (_ : p.may .trace) (_ : p.may .traceDrop) (_ : p.may .msix) (_ : p.may .firm) (_ : p.may .now) :
    State.Kept p (State.slvReads s q p' l).1 := by
  unfold State.slvReads
  repeat' first
    | with_reducible assumption
    | (intro x; first
        | (refine (have hx : State.Kept p x := ?_; ?_); subst x; rotate_left; clear_value x; rotate_right)
        | (refine (have hx : State.Kept p x.1 := ?_; ?_); subst x; rotate_left; clear_value x; rotate_right)
        | (try clear_value x))
    | lift_lets -underBinder
    | with_reducible apply State.Kept.foldl
    | with_reducible apply State.Kept.foldl_fst
    | with_reducible apply State.slvRead_kept

theorem State.slvDesc_kept {s : State} {q : SlvJob} (h : s.Kept p) (_ : p.may .regs) (_ : p.may .logs) (_ : p.may .mem) (_ : p.may .poison) (_ : p.may .upset) (_ : p.may .evr) (_ : p.may .line) (_ : p.may .auth) (_ : p.may .safe) (_ : p.may .hostEvent) (_ : p.may .mig) (_ : p.may .fbx) (_ : p.may .pwr) (_ : p.may .trace) (_ : p.may .traceDrop) (_ : p.may .msix) (_ : p.may .firm) (_ : p.may .now) :
    State.Kept p (State.slvDesc s q).1 := by
  unfold State.slvDesc
  repeat' first
    | with_reducible assumption
    | (intro x; first
        | (refine (have hx : State.Kept p x := ?_; ?_); subst x; rotate_left; clear_value x; rotate_right)
        | (refine (have hx : State.Kept p x.1 := ?_; ?_); subst x; rotate_left; clear_value x; rotate_right)
        | (try clear_value x))
    | lift_lets -underBinder
    | with_reducible apply State.Kept.ite
    | with_reducible apply State.slvRead_kept
    | split

theorem State.slvPrev_kept {s : State} {r : SlvRun} (h : s.Kept p) (_ : p.may .regs) (_ : p.may .logs) (_ : p.may .mem) (_ : p.may .poison) (_ : p.may .upset) (_ : p.may .evr) (_ : p.may .line) (_ : p.may .auth) (_ : p.may .safe) (_ : p.may .hostEvent) (_ : p.may .mig) (_ : p.may .fbx) (_ : p.may .pwr) (_ : p.may .trace) (_ : p.may .traceDrop) (_ : p.may .msix) (_ : p.may .firm) (_ : p.may .now) :
    State.Kept p (State.slvPrev s r).1 := by
  unfold State.slvPrev
  repeat' first
    | with_reducible assumption
    | (intro x; first
        | (refine (have hx : State.Kept p x := ?_; ?_); subst x; rotate_left; clear_value x; rotate_right)
        | (refine (have hx : State.Kept p x.1 := ?_; ?_); subst x; rotate_left; clear_value x; rotate_right)
        | (try clear_value x))
    | lift_lets -underBinder
    | with_reducible apply State.Kept.ite
    | with_reducible apply State.Kept.getD
    | with_reducible apply State.slvReads_kept
    | split

theorem State.slvPut_kept {s : State} {o : SlvOut} (h : s.Kept p) (_ : p.may .slv) :
    State.Kept p (State.slvPut s o) := by
  unfold State.slvPut
  repeat' first
    | with_reducible assumption
    | with_reducible apply State.modSlv_kept

theorem State.slvEnd_kept {s : State} {r : SlvRun} {causes : List Nat} {flags : Nat} {rho : Nat} {it : Nat} {x' : List Nat} (h : s.Kept p) (_ : p.may .slv) :
    State.Kept p (State.slvEnd s r causes flags rho it x') := by
  unfold State.slvEnd
  repeat' first
    | with_reducible assumption
    | with_reducible apply State.Kept.ite
    | with_reducible apply State.slvPut_kept
    | split

theorem State.slvAbandon_kept {s : State} {r : SlvRun} {cause : Nat} {flags : Nat} (h : s.Kept p) (_ : p.may .slv) :
    State.Kept p (State.slvAbandon s r cause flags) := by
  unfold State.slvAbandon
  repeat' first
    | with_reducible assumption
    | with_reducible apply State.Kept.ite
    | with_reducible apply State.slvEnd_kept
    | with_reducible apply State.slvPut_kept
    | split

theorem State.slvRegs_kept {s : State} {n : Nat} (h : s.Kept p) (_ : p.may .regs) :
    State.Kept p (State.slvRegs s n) := by
  unfold State.slvRegs
  repeat' first
    | with_reducible assumption
    | with_reducible apply State.Kept.ite
    | with_reducible apply State.bumpBy_kept
    | split

theorem State.slvDrop_kept {s : State} {r : SlvRun} {cause : Nat} (h : s.Kept p) (_ : p.may .free) (_ : p.may .regs) (_ : p.may .slv) :
    State.Kept p (State.slvDrop s r cause) := by
  unfold State.slvDrop
  repeat' first
    | with_reducible assumption
    | (intro x; first
        | (refine (have hx : State.Kept p x := ?_; ?_); subst x; rotate_left; clear_value x; rotate_right)
        | (refine (have hx : State.Kept p x.1 := ?_; ?_); subst x; rotate_left; clear_value x; rotate_right)
        | (try clear_value x))
    | lift_lets -underBinder
    | with_reducible apply State.slvAbandon_kept
    | with_reducible apply State.slvRegs_kept
    | with_reducible apply State.useFrees_kept

theorem State.slvInputs_kept {s : State} {r : SlvRun} (h : s.Kept p) (_ : p.may .free) (_ : p.may .regs) (_ : p.may .logs) (_ : p.may .mem) (_ : p.may .poison) (_ : p.may .upset) (_ : p.may .evr) (_ : p.may .line) (_ : p.may .auth) (_ : p.may .safe) (_ : p.may .hostEvent) (_ : p.may .mig) (_ : p.may .fbx) (_ : p.may .pwr) (_ : p.may .trace) (_ : p.may .traceDrop) (_ : p.may .msix) (_ : p.may .firm) (_ : p.may .now) :
    State.Kept p (State.slvInputs s r).1 := by
  unfold State.slvInputs
  repeat' first
    | with_reducible assumption
    | (intro x; first
        | (refine (have hx : State.Kept p x := ?_; ?_); subst x; rotate_left; clear_value x; rotate_right)
        | (refine (have hx : State.Kept p x.1 := ?_; ?_); subst x; rotate_left; clear_value x; rotate_right)
        | (try clear_value x))
    | lift_lets -underBinder
    | with_reducible apply State.Kept.ite
    | with_reducible apply State.Kept.foldl
    | with_reducible apply State.Kept.foldl_fst
    | with_reducible apply State.slvReads_kept
    | with_reducible apply State.useFrees_kept
    | split

theorem State.slvNoPrev_kept {s : State} {r : SlvRun} {causes : List Nat} {f : Nat} (h : s.Kept p) (_ : p.may .free) :
    State.Kept p (State.slvNoPrev s r causes f).1 := by
  unfold State.slvNoPrev
  repeat' first
    | with_reducible assumption
    | with_reducible apply State.useFrees_kept

theorem State.slvResolve_kept {s : State} {r0 : SlvRun} {causes : List Nat} {f : Nat} (h : s.Kept p) (_ : p.may .free) (_ : p.may .regs) (_ : p.may .logs) (_ : p.may .mem) (_ : p.may .poison) (_ : p.may .upset) (_ : p.may .evr) (_ : p.may .line) (_ : p.may .auth) (_ : p.may .safe) (_ : p.may .hostEvent) (_ : p.may .mig) (_ : p.may .fbx) (_ : p.may .pwr) (_ : p.may .trace) (_ : p.may .traceDrop) (_ : p.may .msix) (_ : p.may .firm) (_ : p.may .now) :
    State.Kept p (State.slvResolve s r0 causes f).1 := by
  unfold State.slvResolve
  repeat' first
    | with_reducible assumption
    | (intro x; first
        | (refine (have hx : State.Kept p x := ?_; ?_); subst x; rotate_left; clear_value x; rotate_right)
        | (refine (have hx : State.Kept p x.1 := ?_; ?_); subst x; rotate_left; clear_value x; rotate_right)
        | (try clear_value x))
    | lift_lets -underBinder
    | with_reducible apply State.Kept.ite
    | with_reducible apply State.slvPrev_kept
    | with_reducible apply State.slvNoPrev_kept
    | with_reducible apply State.slvInputs_kept
    | with_reducible apply State.slvRead_kept
    | split

theorem State.slvSettle_kept {s : State} {o : SlvOut} (h : s.Kept p) (_ : p.may .free) (_ : p.may .regs) (_ : p.may .logs) (_ : p.may .mem) (_ : p.may .poison) (_ : p.may .upset) (_ : p.may .evr) (_ : p.may .line) (_ : p.may .auth) (_ : p.may .safe) (_ : p.may .hostEvent) (_ : p.may .mig) (_ : p.may .fbx) (_ : p.may .pwr) (_ : p.may .trace) (_ : p.may .traceDrop) (_ : p.may .msix) (_ : p.may .firm) (_ : p.may .now) :
    State.Kept p (State.slvSettle s o).1 := by
  unfold State.slvSettle
  repeat' first
    | with_reducible assumption
    | (intro x; first
        | (refine (have hx : State.Kept p x := ?_; ?_); subst x; rotate_left; clear_value x; rotate_right)
        | (refine (have hx : State.Kept p x.1 := ?_; ?_); subst x; rotate_left; clear_value x; rotate_right)
        | (try clear_value x))
    | lift_lets -underBinder
    | with_reducible apply State.Kept.ite
    | with_reducible apply State.slvResolve_kept
    | with_reducible apply State.slvDesc_kept
    | split

theorem State.slvSettleOut_kept {s : State} (h : s.Kept p) (_ : p.may .free) (_ : p.may .regs) (_ : p.may .logs) (_ : p.may .mem) (_ : p.may .poison) (_ : p.may .upset) (_ : p.may .evr) (_ : p.may .line) (_ : p.may .auth) (_ : p.may .safe) (_ : p.may .hostEvent) (_ : p.may .mig) (_ : p.may .slv) (_ : p.may .fbx) (_ : p.may .pwr) (_ : p.may .trace) (_ : p.may .traceDrop) (_ : p.may .msix) (_ : p.may .firm) (_ : p.may .now) :
    State.Kept p (State.slvSettleOut s) := by
  unfold State.slvSettleOut
  repeat' first
    | with_reducible assumption
    | (intro x; first
        | (refine (have hx : State.Kept p x := ?_; ?_); subst x; rotate_left; clear_value x; rotate_right)
        | (refine (have hx : State.Kept p x.1 := ?_; ?_); subst x; rotate_left; clear_value x; rotate_right)
        | (try clear_value x))
    | lift_lets -underBinder
    | with_reducible apply State.Kept.ite
    | with_reducible apply State.modSlv_kept
    | with_reducible apply State.slvSettle_kept
    | split

theorem solverJobArriveEffect_kept {j : Fin 8} {s : State} (h : s.Kept p) (_ : p.may .free) (_ : p.may .regs) (_ : p.may .slv) :
    State.Kept p (solverJobArriveEffect j s) := by
  unfold solverJobArriveEffect
  repeat' first
    | with_reducible assumption
    | (intro x; first
        | (refine (have hx : State.Kept p x := ?_; ?_); subst x; rotate_left; clear_value x; rotate_right)
        | (refine (have hx : State.Kept p x.1 := ?_; ?_); subst x; rotate_left; clear_value x; rotate_right)
        | (try clear_value x))
    | lift_lets -underBinder
    | with_reducible apply State.Kept.ite
    | with_reducible apply State.Kept.getD
    | with_reducible apply State.setReg_kept
    | with_reducible apply State.modSlv_kept
    | with_reducible apply State.slvDrop_kept
    | with_reducible apply State.modSlvSlot_kept
    | split

theorem State.slvIterate0_kept {s : State} {r0 : SlvRun} (h : s.Kept p) (_ : p.may .regs) (_ : p.may .logs) (_ : p.may .mem) (_ : p.may .poison) (_ : p.may .upset) (_ : p.may .evr) (_ : p.may .line) (_ : p.may .auth) (_ : p.may .safe) (_ : p.may .hostEvent) (_ : p.may .mig) (_ : p.may .slv) (_ : p.may .fbx) (_ : p.may .pwr) (_ : p.may .trace) (_ : p.may .traceDrop) (_ : p.may .msix) (_ : p.may .firm) (_ : p.may .now) :
    State.Kept p (State.slvIterate0 s r0) := by
  unfold State.slvIterate0
  repeat' first
    | with_reducible assumption
    | (intro x; first
        | (refine (have hx : State.Kept p x := ?_; ?_); subst x; rotate_left; clear_value x; rotate_right)
        | (refine (have hx : State.Kept p x.1 := ?_; ?_); subst x; rotate_left; clear_value x; rotate_right)
        | skip)
    | lift_lets -underBinder
    | with_reducible apply State.Kept.ite
    | with_reducible apply State.Kept.foldl
    | with_reducible apply State.Kept.foldl_fst
    | with_reducible apply State.bump_kept
    | with_reducible apply State.modSlv_kept
    | with_reducible apply State.slvAbandon_kept
    | with_reducible apply State.slvPrev_kept
    | with_reducible apply State.slvRead_kept
    | split

theorem State.slvLoad_kept {s : State} {r : SlvRun} (h : s.Kept p) (_ : p.may .regs) (_ : p.may .logs) (_ : p.may .mem) (_ : p.may .poison) (_ : p.may .upset) (_ : p.may .evr) (_ : p.may .line) (_ : p.may .auth) (_ : p.may .safe) (_ : p.may .hostEvent) (_ : p.may .mig) (_ : p.may .slv) (_ : p.may .fbx) (_ : p.may .pwr) (_ : p.may .trace) (_ : p.may .traceDrop) (_ : p.may .msix) (_ : p.may .firm) (_ : p.may .now) :
    State.Kept p (State.slvLoad s r) := by
  unfold State.slvLoad
  repeat' first
    | with_reducible assumption
    | (intro x; first
        | (refine (have hx : State.Kept p x := ?_; ?_); subst x; rotate_left; clear_value x; rotate_right)
        | (refine (have hx : State.Kept p x.1 := ?_; ?_); subst x; rotate_left; clear_value x; rotate_right)
        | (try clear_value x))
    | lift_lets -underBinder
    | with_reducible apply State.Kept.ite
    | with_reducible apply State.Kept.foldl
    | with_reducible apply State.Kept.foldl_fst
    | with_reducible apply State.slvAbandon_kept
    | with_reducible apply State.slvReads_kept
    | with_reducible apply State.slvIterate0_kept
    | with_reducible apply State.slvPut_kept
    | split

theorem State.slvBegin_kept {s : State} {r : SlvRun} (h : s.Kept p) (_ : p.may .regs) (_ : p.may .logs) (_ : p.may .mem) (_ : p.may .poison) (_ : p.may .upset) (_ : p.may .evr) (_ : p.may .line) (_ : p.may .auth) (_ : p.may .safe) (_ : p.may .hostEvent) (_ : p.may .mig) (_ : p.may .slv) (_ : p.may .fbx) (_ : p.may .pwr) (_ : p.may .trace) (_ : p.may .traceDrop) (_ : p.may .msix) (_ : p.may .firm) (_ : p.may .now) :
    State.Kept p (State.slvBegin s r) := by
  unfold State.slvBegin
  repeat' first
    | with_reducible assumption
    | (intro x; first
        | (refine (have hx : State.Kept p x := ?_; ?_); subst x; rotate_left; clear_value x; rotate_right)
        | (refine (have hx : State.Kept p x.1 := ?_; ?_); subst x; rotate_left; clear_value x; rotate_right)
        | (try clear_value x))
    | lift_lets -underBinder
    | with_reducible apply State.Kept.ite
    | with_reducible apply State.modSlv_kept
    | with_reducible apply State.gatherCell_kept
    | with_reducible apply State.slvAbandon_kept
    | with_reducible apply State.slvLoad_kept
    | with_reducible apply State.slvPut_kept
    | with_reducible apply State.slvDesc_kept
    | split

theorem solverJobStartEffect_kept {s : State} (h : s.Kept p) (_ : p.may .regs) (_ : p.may .logs) (_ : p.may .mem) (_ : p.may .poison) (_ : p.may .upset) (_ : p.may .evr) (_ : p.may .line) (_ : p.may .auth) (_ : p.may .safe) (_ : p.may .hostEvent) (_ : p.may .mig) (_ : p.may .slv) (_ : p.may .fbx) (_ : p.may .pwr) (_ : p.may .trace) (_ : p.may .traceDrop) (_ : p.may .msix) (_ : p.may .firm) (_ : p.may .now) :
    State.Kept p (solverJobStartEffect s) := by
  unfold solverJobStartEffect
  repeat' first
    | with_reducible assumption
    | with_reducible apply State.Kept.ite
    | with_reducible apply State.modSlv_kept
    | with_reducible apply State.slvBegin_kept
    | split

theorem State.solverCycle_kept {s : State} (h : s.Kept p) (_ : p.may .free) (_ : p.may .regs) (_ : p.may .logs) (_ : p.may .mem) (_ : p.may .poison) (_ : p.may .upset) (_ : p.may .evr) (_ : p.may .line) (_ : p.may .auth) (_ : p.may .safe) (_ : p.may .hostEvent) (_ : p.may .mig) (_ : p.may .slv) (_ : p.may .fbx) (_ : p.may .pwr) (_ : p.may .trace) (_ : p.may .traceDrop) (_ : p.may .msix) (_ : p.may .firm) (_ : p.may .now) :
    State.Kept p (State.solverCycle s) := by
  unfold State.solverCycle
  repeat' first
    | with_reducible assumption
    | with_reducible apply State.Kept.ite
    | with_reducible apply State.slvSettleOut_kept
    | with_reducible apply State.slvBegin_kept
    | split

theorem State.slvTested_kept {s : State} {r : SlvRun} (h : s.Kept p) (_ : p.may .slv) :
    State.Kept p (State.slvTested s r) := by
  unfold State.slvTested
  repeat' first
    | with_reducible assumption
    | with_reducible apply State.Kept.ite
    | with_reducible apply State.modSlv_kept
    | with_reducible apply State.slvEnd_kept
    | split

theorem State.slvLinear_kept {s : State} {r : SlvRun} (h : s.Kept p) (_ : p.may .regs) (_ : p.may .slv) :
    State.Kept p (State.slvLinear s r) := by
  unfold State.slvLinear
  repeat' first
    | with_reducible assumption
    | (intro x; first
        | (refine (have hx : State.Kept p x := ?_; ?_); subst x; rotate_left; clear_value x; rotate_right)
        | (refine (have hx : State.Kept p x.1 := ?_; ?_); subst x; rotate_left; clear_value x; rotate_right)
        | (try clear_value x))
    | lift_lets -underBinder
    | with_reducible apply State.slvAbandon_kept
    | with_reducible apply State.slvRegs_kept
    | with_reducible apply State.slvTested_kept
    | split

theorem State.slvBundle_kept {s : State} {r : SlvRun} (h : s.Kept p) (_ : p.may .regs) (_ : p.may .slv) :
    State.Kept p (State.slvBundle s r) := by
  unfold State.slvBundle
  repeat' first
    | with_reducible assumption
    | (intro x; first
        | (refine (have hx : State.Kept p x := ?_; ?_); subst x; rotate_left; clear_value x; rotate_right)
        | (refine (have hx : State.Kept p x.1 := ?_; ?_); subst x; rotate_left; clear_value x; rotate_right)
        | (try clear_value x))
    | lift_lets -underBinder
    | with_reducible apply State.Kept.ite
    | with_reducible apply State.slvAbandon_kept
    | with_reducible apply State.slvRegs_kept
    | with_reducible apply State.slvTested_kept
    | split

theorem State.slvTest0_kept {s : State} {r : SlvRun} (h : s.Kept p) (_ : p.may .slv) :
    State.Kept p (State.slvTest0 s r) := by
  unfold State.slvTest0
  repeat' first
    | with_reducible assumption
    | (intro x; first
        | (refine (have hx : State.Kept p x := ?_; ?_); subst x; rotate_left; clear_value x; rotate_right)
        | (refine (have hx : State.Kept p x.1 := ?_; ?_); subst x; rotate_left; clear_value x; rotate_right)
        | (try clear_value x))
    | lift_lets -underBinder
    | with_reducible apply State.Kept.ite
    | with_reducible apply State.slvTested_kept
    | split

theorem State.slvMeet_kept {s : State} {r : SlvRun} (h : s.Kept p) (_ : p.may .regs) (_ : p.may .evr) (_ : p.may .line) (_ : p.may .auth) (_ : p.may .safe) (_ : p.may .hostEvent) (_ : p.may .fbx) (_ : p.may .trace) (_ : p.may .traceDrop) (_ : p.may .msix) (_ : p.may .firm) (_ : p.may .now) :
    State.Kept p (State.slvMeet s r) := by
  unfold State.slvMeet
  repeat' first
    | with_reducible assumption
    | (intro x; first
        | (refine (have hx : State.Kept p x := ?_; ?_); subst x; rotate_left; clear_value x; rotate_right)
        | (refine (have hx : State.Kept p x.1 := ?_; ?_); subst x; rotate_left; clear_value x; rotate_right)
        | (try clear_value x))
    | lift_lets -underBinder
    | with_reducible apply State.Kept.ite
    | with_reducible apply State.Kept.foldl
    | with_reducible apply State.Kept.foldl_fst
    | with_reducible apply State.countCE_kept
    | with_reducible apply State.raise_kept
    | split

theorem solverIterateDoneEffect_kept {s : State} (h : s.Kept p) (_ : p.may .free) (_ : p.may .regs) (_ : p.may .evr) (_ : p.may .line) (_ : p.may .auth) (_ : p.may .safe) (_ : p.may .hostEvent) (_ : p.may .slv) (_ : p.may .fbx) (_ : p.may .trace) (_ : p.may .traceDrop) (_ : p.may .msix) (_ : p.may .firm) (_ : p.may .now) :
    State.Kept p (solverIterateDoneEffect s) := by
  unfold solverIterateDoneEffect
  repeat' first
    | with_reducible assumption
    | (intro x; first
        | (refine (have hx : State.Kept p x := ?_; ?_); subst x; rotate_left; clear_value x; rotate_right)
        | (refine (have hx : State.Kept p x.1 := ?_; ?_); subst x; rotate_left; clear_value x; rotate_right)
        | (try clear_value x))
    | lift_lets -underBinder
    | with_reducible apply State.Kept.ite
    | with_reducible apply State.slvDrop_kept
    | with_reducible apply State.slvMeet_kept
    | with_reducible apply State.slvTest0_kept
    | with_reducible apply State.slvLinear_kept
    | with_reducible apply State.slvBundle_kept
    | split

theorem State.slvExpire_kept {s : State} {q : SlvJob} (h : s.Kept p) (_ : p.may .slv) :
    State.Kept p (State.slvExpire s q) := by
  unfold State.slvExpire
  repeat' first
    | with_reducible assumption
    | (intro x; first
        | (refine (have hx : State.Kept p x := ?_; ?_); subst x; rotate_left; clear_value x; rotate_right)
        | (refine (have hx : State.Kept p x.1 := ?_; ?_); subst x; rotate_left; clear_value x; rotate_right)
        | (try clear_value x))
    | lift_lets -underBinder
    | with_reducible apply State.Kept.ite
    | with_reducible apply State.modSlv_kept
    | split

theorem solverDeadlineEffect_kept {s : State} (h : s.Kept p) (_ : p.may .free) (_ : p.may .regs) (_ : p.may .slv) :
    State.Kept p (solverDeadlineEffect s) := by
  unfold solverDeadlineEffect
  repeat' first
    | with_reducible assumption
    | (intro x; first
        | (refine (have hx : State.Kept p x := ?_; ?_); subst x; rotate_left; clear_value x; rotate_right)
        | (refine (have hx : State.Kept p x.1 := ?_; ?_); subst x; rotate_left; clear_value x; rotate_right)
        | (try clear_value x))
    | lift_lets -underBinder
    | with_reducible apply State.Kept.ite
    | with_reducible apply State.slvDrop_kept
    | with_reducible apply State.slvExpire_kept
    | split

theorem State.slvWrite_kept {s : State} {o : SlvOut} (h : s.Kept p) (_ : p.may .regs) (_ : p.may .logs) (_ : p.may .mem) (_ : p.may .poison) (_ : p.may .upset) (_ : p.may .evr) (_ : p.may .hostEvent) (_ : p.may .pwr) (_ : p.may .msix) (_ : p.may .now) :
    State.Kept p (State.slvWrite s o).1 := by
  unfold State.slvWrite
  repeat' first
    | with_reducible assumption
    | with_reducible apply State.Kept.ite
    | with_reducible apply State.refuse_kept
    | with_reducible apply State.writeSeqRecord_kept
    | split

theorem State.slvAccount_kept {s : State} {o : SlvOut} {status : Nat} (h : s.Kept p) (_ : p.may .regs) (_ : p.may .slv) :
    State.Kept p (State.slvAccount s o status) := by
  unfold State.slvAccount
  repeat' first
    | with_reducible assumption
    | (intro x; first
        | (refine (have hx : State.Kept p x := ?_; ?_); subst x; rotate_left; clear_value x; rotate_right)
        | (refine (have hx : State.Kept p x.1 := ?_; ?_); subst x; rotate_left; clear_value x; rotate_right)
        | (try clear_value x))
    | lift_lets -underBinder
    | with_reducible apply State.Kept.ite
    | with_reducible apply State.setReg_kept
    | with_reducible apply State.bump_kept
    | with_reducible apply State.modSlvSlot_kept
    | split

theorem solverRecordWriteEffect_kept {s0 : State} (h : s0.Kept p) (_ : p.may .free) (_ : p.may .regs) (_ : p.may .logs) (_ : p.may .mem) (_ : p.may .poison) (_ : p.may .upset) (_ : p.may .cells) (_ : p.may .evr) (_ : p.may .line) (_ : p.may .auth) (_ : p.may .safe) (_ : p.may .hostEvent) (_ : p.may .mig) (_ : p.may .slv) (_ : p.may .fbx) (_ : p.may .pwr) (_ : p.may .trace) (_ : p.may .traceDrop) (_ : p.may .msix) (_ : p.may .firm) (_ : p.may .now) :
    State.Kept p (solverRecordWriteEffect s0) := by
  unfold solverRecordWriteEffect
  repeat' first
    | with_reducible assumption
    | (intro x; first
        | (refine (have hx : State.Kept p x := ?_; ?_); subst x; rotate_left; clear_value x; rotate_right)
        | (refine (have hx : State.Kept p x.1 := ?_; ?_); subst x; rotate_left; clear_value x; rotate_right)
        | (try clear_value x))
    | lift_lets -underBinder
    | with_reducible apply State.Kept.ite
    | with_reducible apply State.modSlv_kept
    | with_reducible apply State.dropReads_kept
    | with_reducible apply State.slvAccount_kept
    | with_reducible apply State.complete_kept
    | with_reducible apply State.slvSettleOut_kept
    | with_reducible apply State.slvWrite_kept
    | split

end Sys2Proof.Machine
end

