-- ==== Sys2Proof/Laws/KeptTimeServo.lean ====
section
/-! SUPPORT. State.Kept through the operations of Machine/TimeServo.lean. -/

set_option linter.all false

namespace Sys2Proof.Machine

variable {p : Promise}

theorem State.modTb_kept {s : State} {f : Timebase → Timebase} (h : s.Kept p) (_ : p.may .tb) :
    State.Kept p (State.modTb s f) := by
  unfold State.modTb
  repeat' first
    | with_reducible assumption
    | (intro x; first
        | (refine (have hx : State.Kept p x := ?_; ?_); subst x; rotate_left; clear_value x; rotate_right)
        | (refine (have hx : State.Kept p x.1 := ?_; ?_); subst x; rotate_left; clear_value x; rotate_right)
        | (try clear_value x))
    | lift_lets -underBinder
    | with_reducible apply State.Kept.ite
    | (with_reducible apply State.Kept.upd_tb <;> with_reducible assumption)
    | split

theorem State.enterHoldover_kept {s : State} {c0 : Nat} (h : s.Kept p) (_ : p.may .regs) (_ : p.may .tb) (_ : p.may .hostEvent) (_ : p.may .msix) (_ : p.may .now) :
    State.Kept p (State.enterHoldover s c0) := by
  unfold State.enterHoldover
  repeat' first
    | with_reducible assumption
    | with_reducible apply State.bump_kept
    | with_reducible apply State.syncState_kept
    | with_reducible apply State.modTb_kept

theorem State.setTimeState_kept {s : State} {x' : Nat} (h : s.Kept p) (_ : p.may .regs) (_ : p.may .tb) (_ : p.may .hostEvent) (_ : p.may .msix) (_ : p.may .now) :
    State.Kept p (State.setTimeState s x') := by
  unfold State.setTimeState
  repeat' first
    | with_reducible assumption
    | with_reducible apply State.syncState_kept
    | with_reducible apply State.modTb_kept

theorem State.measOutlier_kept {s : State} (h : s.Kept p) (_ : p.may .regs) (_ : p.may .tb) (_ : p.may .hostEvent) (_ : p.may .msix) (_ : p.may .now) :
    State.Kept p (State.measOutlier s) := by
  unfold State.measOutlier
  repeat' first
    | with_reducible assumption
    | (intro x; first
        | (refine (have hx : State.Kept p x := ?_; ?_); subst x; rotate_left; clear_value x; rotate_right)
        | (refine (have hx : State.Kept p x.1 := ?_; ?_); subst x; rotate_left; clear_value x; rotate_right)
        | (try clear_value x))
    | lift_lets -underBinder
    | with_reducible apply State.Kept.ite
    | with_reducible apply State.bump_kept
    | with_reducible apply State.modTb_kept
    | with_reducible apply State.enterHoldover_kept
    | split

theorem State.measAccept_kept {s : State} {theta : Int} (h : s.Kept p) (_ : p.may .regs) (_ : p.may .tb) (_ : p.may .hostEvent) (_ : p.may .msix) (_ : p.may .now) :
    State.Kept p (State.measAccept s theta) := by
  unfold State.measAccept
  repeat' first
    | with_reducible assumption
    | (intro x; first
        | (refine (have hx : State.Kept p x := ?_; ?_); subst x; rotate_left; clear_value x; rotate_right)
        | (refine (have hx : State.Kept p x.1 := ?_; ?_); subst x; rotate_left; clear_value x; rotate_right)
        | (try clear_value x))
    | lift_lets -underBinder
    | with_reducible apply State.Kept.ite
    | with_reducible apply State.bump_kept
    | with_reducible apply State.modTb_kept
    | with_reducible apply State.setTimeState_kept
    | split

theorem tbMeasWriteEffect_kept {theta : BitVec 64} {s : State} (h : s.Kept p) (_ : p.may .regs) (_ : p.may .tb) (_ : p.may .hostEvent) (_ : p.may .msix) (_ : p.may .now) :
    State.Kept p (tbMeasWriteEffect theta s) := by
  unfold tbMeasWriteEffect
  repeat' first
    | with_reducible assumption
    | (intro x; first
        | (refine (have hx : State.Kept p x := ?_; ?_); subst x; rotate_left; clear_value x; rotate_right)
        | (refine (have hx : State.Kept p x.1 := ?_; ?_); subst x; rotate_left; clear_value x; rotate_right)
        | (try clear_value x))
    | lift_lets -underBinder
    | with_reducible apply State.Kept.ite
    | with_reducible apply State.setReg_kept
    | with_reducible apply State.measAccept_kept
    | with_reducible apply State.measOutlier_kept
    | split

theorem tbRateApplyEffect_kept {s : State} (h : s.Kept p) (_ : p.may .tb) :
    State.Kept p (tbRateApplyEffect s) := by
  unfold tbRateApplyEffect
  repeat' first
    | with_reducible assumption
    | with_reducible apply State.Kept.ite
    | with_reducible apply State.modTb_kept
    | split

theorem tbRateWriteEffect_kept {rate : BitVec 32} {s : State} (h : s.Kept p) (_ : p.may .regs) (_ : p.may .tb) (_ : p.may .now) :
    State.Kept p (tbRateWriteEffect rate s) := by
  unfold tbRateWriteEffect
  repeat' first
    | with_reducible assumption
    | with_reducible apply State.Kept.ite
    | with_reducible apply State.hwSetBit_kept
    | with_reducible apply State.modTb_kept
    | split

theorem State.stepTime_kept {s : State} {z : Int} (h : s.Kept p) (_ : p.may .regs) (_ : p.may .tb) :
    State.Kept p (State.stepTime s z) := by
  unfold State.stepTime
  repeat' first
    | with_reducible assumption
    | with_reducible apply State.bump_kept
    | with_reducible apply State.modTb_kept

theorem tbServoEnableEffect_kept {en : Bool} {s : State} (h : s.Kept p) (_ : p.may .regs) (_ : p.may .tb) (_ : p.may .hostEvent) (_ : p.may .msix) (_ : p.may .now) :
    State.Kept p (tbServoEnableEffect en s) := by
  unfold tbServoEnableEffect
  repeat' first
    | with_reducible assumption
    | (intro x; first
        | (refine (have hx : State.Kept p x := ?_; ?_); subst x; rotate_left; clear_value x; rotate_right)
        | (refine (have hx : State.Kept p x.1 := ?_; ?_); subst x; rotate_left; clear_value x; rotate_right)
        | (try clear_value x))
    | lift_lets -underBinder
    | with_reducible apply State.Kept.ite
    | with_reducible apply State.setReg_kept
    | with_reducible apply State.modTb_kept
    | with_reducible apply State.setTimeState_kept
    | split

theorem tbMeasTimeoutEffect_kept {s : State} (h : s.Kept p) (_ : p.may .regs) (_ : p.may .tb) (_ : p.may .hostEvent) (_ : p.may .msix) (_ : p.may .now) :
    State.Kept p (tbMeasTimeoutEffect s) := by
  unfold tbMeasTimeoutEffect
  repeat' first
    | with_reducible assumption
    | with_reducible apply State.Kept.ite
    | with_reducible apply State.modTb_kept
    | with_reducible apply State.enterHoldover_kept
    | split

theorem tbHoldoverExpiryEffect_kept {s : State} (h : s.Kept p) (_ : p.may .regs) (_ : p.may .tb) (_ : p.may .evr) (_ : p.may .line) (_ : p.may .auth) (_ : p.may .safe) (_ : p.may .hostEvent) (_ : p.may .fbx) (_ : p.may .trace) (_ : p.may .traceDrop) (_ : p.may .msix) (_ : p.may .firm) (_ : p.may .now) :
    State.Kept p (tbHoldoverExpiryEffect s) := by
  unfold tbHoldoverExpiryEffect
  repeat' first
    | with_reducible assumption
    | with_reducible apply State.Kept.ite
    | with_reducible apply State.bump_kept
    | with_reducible apply State.raise_kept
    | with_reducible apply State.setTimeState_kept
    | split

theorem tbNowReadEffect_kept {s : State} (h : s.Kept p) (_ : p.may .rdata) (_ : p.may .regs) (_ : p.may .logs) (_ : p.may .tb) (_ : p.may .evr) (_ : p.may .trace) (_ : p.may .traceDrop) :
    State.Kept p (tbNowReadEffect s) := by
  unfold tbNowReadEffect
  repeat' first
    | with_reducible assumption
    | (intro x; first
        | (refine (have hx : State.Kept p x := ?_; ?_); subst x; rotate_left; clear_value x; rotate_right)
        | (refine (have hx : State.Kept p x.1 := ?_; ?_); subst x; rotate_left; clear_value x; rotate_right)
        | (try clear_value x))
    | lift_lets -underBinder
    | with_reducible apply State.Kept.ite
    | with_reducible apply State.Kept.foldl
    | with_reducible apply State.Kept.foldl_fst
    | with_reducible apply State.readEffect_kept
    | (with_reducible apply State.Kept.upd_rdata <;> (first
      | with_reducible assumption
      | (intro _; with_reducible rfl)
      | (intro _; decide)
      | with_reducible apply State.readEffect_kept))
    | split

end Sys2Proof.Machine
end

