-- ==== Sys2Proof/Laws/KeptTimeStep.lean ====
section
/-! SUPPORT. State.Kept through the operations of Machine/TimeStep.lean. -/

set_option linter.all false

namespace Sys2Proof.Machine

variable {p : Promise}

theorem State.skipped_kept {s : State} {n : Nat} (h : s.Kept p) (_ : p.may .regs) :
    State.Kept p (State.skipped s n) := by
  unfold State.skipped
  repeat' first
    | with_reducible assumption
    | with_reducible apply State.Kept.ite
    | with_reducible apply State.bumpBy_kept
    | split

theorem State.skipChannel_kept {s : State} {k : Nat} (h : s.Kept p) (_ : p.may .regs) (_ : p.may .fus) :
    State.Kept p (State.skipChannel s k) := by
  unfold State.skipChannel
  repeat' first
    | with_reducible assumption
    | (intro x; first
        | (refine (have hx : State.Kept p x := ?_; ?_); subst x; rotate_left; clear_value x; rotate_right)
        | (refine (have hx : State.Kept p x.1 := ?_; ?_); subst x; rotate_left; clear_value x; rotate_right)
        | (try clear_value x))
    | lift_lets -underBinder
    | with_reducible apply State.Kept.ite
    | with_reducible apply State.skipped_kept
    | with_reducible apply State.modFus_kept
    | split

theorem State.skipAssoc_kept {s : State} {a : Nat} (h : s.Kept p) (_ : p.may .regs) (_ : p.may .fus) :
    State.Kept p (State.skipAssoc s a) := by
  unfold State.skipAssoc
  repeat' first
    | with_reducible assumption
    | (intro x; first
        | (refine (have hx : State.Kept p x := ?_; ?_); subst x; rotate_left; clear_value x; rotate_right)
        | (refine (have hx : State.Kept p x.1 := ?_; ?_); subst x; rotate_left; clear_value x; rotate_right)
        | (try clear_value x))
    | lift_lets -underBinder
    | with_reducible apply State.Kept.ite
    | with_reducible apply State.skipped_kept
    | with_reducible apply State.modFus_kept
    | split

theorem State.skipEgo_kept {s : State} (h : s.Kept p) (_ : p.may .regs) (_ : p.may .fus) :
    State.Kept p (State.skipEgo s) := by
  unfold State.skipEgo
  repeat' first
    | with_reducible assumption
    | (intro x; first
        | (refine (have hx : State.Kept p x := ?_; ?_); subst x; rotate_left; clear_value x; rotate_right)
        | (refine (have hx : State.Kept p x.1 := ?_; ?_); subst x; rotate_left; clear_value x; rotate_right)
        | (try clear_value x))
    | lift_lets -underBinder
    | with_reducible apply State.Kept.ite
    | with_reducible apply State.skipped_kept
    | with_reducible apply State.modFus_kept
    | split

theorem State.skipSolver_kept {s : State} {i : Nat} (h : s.Kept p) (_ : p.may .regs) (_ : p.may .slv) :
    State.Kept p (State.skipSolver s i) := by
  unfold State.skipSolver
  repeat' first
    | with_reducible assumption
    | (intro x; first
        | (refine (have hx : State.Kept p x := ?_; ?_); subst x; rotate_left; clear_value x; rotate_right)
        | (refine (have hx : State.Kept p x.1 := ?_; ?_); subst x; rotate_left; clear_value x; rotate_right)
        | (try clear_value x))
    | lift_lets -underBinder
    | with_reducible apply State.Kept.ite
    | with_reducible apply State.Kept.getD
    | with_reducible apply State.setReg_kept
    | with_reducible apply State.skipped_kept
    | with_reducible apply State.modSlvSlot_kept
    | split

theorem State.skipPlanner_kept {s : State} (h : s.Kept p) (_ : p.may .regs) (_ : p.may .pln) :
    State.Kept p (State.skipPlanner s) := by
  unfold State.skipPlanner
  repeat' first
    | with_reducible assumption
    | (intro x; first
        | (refine (have hx : State.Kept p x := ?_; ?_); subst x; rotate_left; clear_value x; rotate_right)
        | (refine (have hx : State.Kept p x.1 := ?_; ?_); subst x; rotate_left; clear_value x; rotate_right)
        | (try clear_value x))
    | lift_lets -underBinder
    | with_reducible apply State.Kept.ite
    | with_reducible apply State.skipped_kept
    | with_reducible apply State.modPln_kept
    | split

theorem State.skipSpi_kept {s : State} {c : Nat} (h : s.Kept p) (_ : p.may .regs) (_ : p.may .ing) :
    State.Kept p (State.skipSpi s c) := by
  unfold State.skipSpi
  repeat' first
    | with_reducible assumption
    | (intro x; first
        | (refine (have hx : State.Kept p x := ?_; ?_); subst x; rotate_left; clear_value x; rotate_right)
        | (refine (have hx : State.Kept p x.1 := ?_; ?_); subst x; rotate_left; clear_value x; rotate_right)
        | (try clear_value x))
    | lift_lets -underBinder
    | with_reducible apply State.Kept.ite
    | with_reducible apply State.skipped_kept
    | with_reducible apply State.modCtx_kept
    | split

theorem State.skipInstants_kept {s : State} (h : s.Kept p) (_ : p.may .regs) (_ : p.may .ing) (_ : p.may .fus) (_ : p.may .slv) (_ : p.may .pln) :
    State.Kept p (State.skipInstants s) := by
  unfold State.skipInstants
  repeat' first
    | with_reducible assumption
    | (intro x; first
        | (refine (have hx : State.Kept p x := ?_; ?_); subst x; rotate_left; clear_value x; rotate_right)
        | (refine (have hx : State.Kept p x.1 := ?_; ?_); subst x; rotate_left; clear_value x; rotate_right)
        | (try clear_value x))
    | lift_lets -underBinder
    | with_reducible apply State.Kept.foldl
    | with_reducible apply State.Kept.foldl_fst
    | with_reducible apply State.skipSolver_kept
    | with_reducible apply State.skipAssoc_kept
    | with_reducible apply State.skipEgo_kept
    | with_reducible apply State.skipChannel_kept
    | with_reducible apply State.skipPlanner_kept
    | with_reducible apply State.skipSpi_kept

theorem State.stepNow_kept {s : State} {z : Int} (h : s.Kept p) (_ : p.may .regs) (_ : p.may .tb) (_ : p.may .ing) (_ : p.may .fus) (_ : p.may .slv) (_ : p.may .pln) :
    State.Kept p (State.stepNow s z) := by
  unfold State.stepNow
  repeat' first
    | with_reducible assumption
    | (intro x; first
        | (refine (have hx : State.Kept p x := ?_; ?_); subst x; rotate_left; clear_value x; rotate_right)
        | (refine (have hx : State.Kept p x.1 := ?_; ?_); subst x; rotate_left; clear_value x; rotate_right)
        | (try clear_value x))
    | lift_lets -underBinder
    | with_reducible apply State.Kept.ite
    | with_reducible apply State.skipInstants_kept
    | with_reducible apply State.stepTime_kept
    | split

theorem tbStepEffect_kept {delta : BitVec 64} {s : State} (h : s.Kept p) (_ : p.may .regs) (_ : p.may .tb) (_ : p.may .ing) (_ : p.may .fus) (_ : p.may .slv) (_ : p.may .pln) :
    State.Kept p (tbStepEffect delta s) := by
  unfold tbStepEffect
  repeat' first
    | with_reducible assumption
    | with_reducible apply State.Kept.ite
    | with_reducible apply State.stepNow_kept
    | with_reducible apply State.modTb_kept
    | split

theorem State.tclkEdge_kept {s : State} (h : s.Kept p) (_ : p.may .regs) (_ : p.may .tb) (_ : p.may .ing) (_ : p.may .fus) (_ : p.may .slv) (_ : p.may .pln) :
    State.Kept p (State.tclkEdge s) := by
  unfold State.tclkEdge
  repeat' first
    | with_reducible assumption
    | (intro x; first
        | (refine (have hx : State.Kept p x := ?_; ?_); subst x; rotate_left; clear_value x; rotate_right)
        | (refine (have hx : State.Kept p x.1 := ?_; ?_); subst x; rotate_left; clear_value x; rotate_right)
        | (try clear_value x))
    | lift_lets -underBinder
    | with_reducible apply State.Kept.foldl
    | with_reducible apply State.Kept.foldl_fst
    | with_reducible apply State.stepNow_kept
    | with_reducible apply State.modTb_kept
    | split

end Sys2Proof.Machine
end

