-- ==== Sys2Proof/Laws/KeptTsn.lean ====
section
/-! SUPPORT. State.Kept through the operations of Machine/Tsn.lean. -/

set_option linter.all false

namespace Sys2Proof.Machine

variable {p : Promise}

theorem State.modTport_kept {s : State} {m : Nat} {f : TsnPort → TsnPort} (h : s.Kept p) (_ : p.may .tsn) :
    State.Kept p (State.modTport s m f) := by
  unfold State.modTport
  exact State.Kept.upd_tsn h (by assumption) (by simp only [listModify_length, listSet_length])

theorem State.modTqueue_kept {s : State} {m : Nat} {q : Nat} {f : TxQueue → TxQueue} (h : s.Kept p) (_ : p.may .tsn) :
    State.Kept p (State.modTqueue s m q f) := by
  unfold State.modTqueue
  repeat' first
    | with_reducible assumption
    | with_reducible apply State.modTport_kept

theorem ptpFrameRxEffect_kept {mac : Fin 4} {sfd : Int} {frame : List Byte} {s : State} (h : s.Kept p) (_ : p.may .regs) (_ : p.may .tsn) :
    State.Kept p (ptpFrameRxEffect mac sfd frame s) := by
  unfold ptpFrameRxEffect
  repeat' first
    | with_reducible assumption
    | with_reducible apply State.Kept.ite
    | with_reducible apply State.bump_kept
    | with_reducible apply State.modTport_kept
    | split

theorem State.pollQueue_kept {s : State} {m : Nat} {q : Nat} (h : s.Kept p) (_ : p.may .regs) (_ : p.may .logs) (_ : p.may .upset) (_ : p.may .evr) (_ : p.may .line) (_ : p.may .auth) (_ : p.may .safe) (_ : p.may .hostEvent) (_ : p.may .tsn) (_ : p.may .fbx) (_ : p.may .trace) (_ : p.may .traceDrop) (_ : p.may .msix) (_ : p.may .firm) (_ : p.may .now) :
    State.Kept p (State.pollQueue s m q) := by
  unfold State.pollQueue
  repeat' first
    | with_reducible assumption
    | (intro x; first
        | (refine (have hx : State.Kept p x := ?_; ?_); subst x; rotate_left; clear_value x; rotate_right)
        | (refine (have hx : State.Kept p x.1 := ?_; ?_); subst x; rotate_left; clear_value x; rotate_right)
        | (try clear_value x))
    | lift_lets -underBinder
    | with_reducible apply State.Kept.ite
    | with_reducible apply State.eccRead_kept
    | with_reducible apply State.modTqueue_kept
    | with_reducible apply State.refuse_kept
    | split

theorem tsnDoorbellPollEffect_kept {s : State} (h : s.Kept p) (_ : p.may .regs) (_ : p.may .logs) (_ : p.may .upset) (_ : p.may .evr) (_ : p.may .line) (_ : p.may .auth) (_ : p.may .safe) (_ : p.may .hostEvent) (_ : p.may .tsn) (_ : p.may .fbx) (_ : p.may .trace) (_ : p.may .traceDrop) (_ : p.may .msix) (_ : p.may .firm) (_ : p.may .now) :
    State.Kept p (tsnDoorbellPollEffect s) := by
  unfold tsnDoorbellPollEffect
  repeat' first
    | with_reducible assumption
    | (intro x; first
        | (refine (have hx : State.Kept p x := ?_; ?_); subst x; rotate_left; clear_value x; rotate_right)
        | (refine (have hx : State.Kept p x.1 := ?_; ?_); subst x; rotate_left; clear_value x; rotate_right)
        | (try clear_value x))
    | lift_lets -underBinder
    | with_reducible apply State.Kept.foldl
    | with_reducible apply State.Kept.foldl_fst
    | with_reducible apply State.pollQueue_kept

theorem State.txEnd_kept {s : State} {m : Nat} {q : Nat} {f : TxFrame} {status : Nat} {late : Bool} {time : Option Int} (h : s.Kept p) (_ : p.may .regs) (_ : p.may .logs) (_ : p.may .mem) (_ : p.may .poison) (_ : p.may .upset) (_ : p.may .cells) (_ : p.may .evr) (_ : p.may .hostEvent) (_ : p.may .mig) (_ : p.may .pwr) (_ : p.may .msix) (_ : p.may .now) :
    State.Kept p (State.txEnd s m q f status late time) := by
  unfold State.txEnd
  repeat' first
    | with_reducible assumption
    | (intro x; first
        | (refine (have hx : State.Kept p x := ?_; ?_); subst x; rotate_left; clear_value x; rotate_right)
        | (refine (have hx : State.Kept p x.1 := ?_; ?_); subst x; rotate_left; clear_value x; rotate_right)
        | (try clear_value x))
    | lift_lets -underBinder
    | with_reducible apply State.Kept.ite
    | with_reducible apply State.complete_kept
    | with_reducible apply State.postWrite_kept
    | split

theorem State.popTx_kept {s : State} {m : Nat} {q : Nat} (h : s.Kept p) (_ : p.may .tsn) :
    State.Kept p (State.popTx s m q) := by
  unfold State.popTx
  repeat' first
    | with_reducible assumption
    | (intro x; first
        | (refine (have hx : State.Kept p x := ?_; ?_); subst x; rotate_left; clear_value x; rotate_right)
        | (refine (have hx : State.Kept p x.1 := ?_; ?_); subst x; rotate_left; clear_value x; rotate_right)
        | (try clear_value x))
    | lift_lets -underBinder
    | with_reducible apply State.modTqueue_kept

theorem State.settle_kept {m : Nat} {q : Nat} {a1_ : Nat} {a2_ : State} (h : a2_.Kept p) (_ : p.may .regs) (_ : p.may .logs) (_ : p.may .mem) (_ : p.may .poison) (_ : p.may .upset) (_ : p.may .cells) (_ : p.may .evr) (_ : p.may .hostEvent) (_ : p.may .mig) (_ : p.may .tsn) (_ : p.may .pwr) (_ : p.may .msix) (_ : p.may .now) :
    State.Kept p (State.settle m q a1_ a2_) := by
  induction a1_ generalizing m q a2_ with
  | zero =>
    unfold State.settle
    repeat' first
      | with_reducible assumption
      | (intro x; first
          | (refine (have hx : State.Kept p x := ?_; ?_); subst x; rotate_left; clear_value x; rotate_right)
          | (refine (have hx : State.Kept p x.1 := ?_; ?_); subst x; rotate_left; clear_value x; rotate_right)
          | (try clear_value x))
      | lift_lets -underBinder
      | with_reducible apply State.Kept.ite
      | with_reducible apply State.Kept.foldl
      | with_reducible apply State.Kept.foldl_fst
      | with_reducible apply State.bump_kept
      | with_reducible apply State.popTx_kept
      | with_reducible apply State.txEnd_kept
      | split
  | succ n_ ih =>
    unfold State.settle
    repeat' first
      | with_reducible apply ih
      | with_reducible assumption
      | (intro x; first
          | (refine (have hx : State.Kept p x := ?_; ?_); subst x; rotate_left; clear_value x; rotate_right)
          | (refine (have hx : State.Kept p x.1 := ?_; ?_); subst x; rotate_left; clear_value x; rotate_right)
          | (try clear_value x))
      | lift_lets -underBinder
      | with_reducible apply State.Kept.ite
      | with_reducible apply State.Kept.foldl
      | with_reducible apply State.Kept.foldl_fst
      | with_reducible apply State.bump_kept
      | with_reducible apply State.popTx_kept
      | with_reducible apply State.txEnd_kept
      | split

theorem State.readFrame_kept {s : State} {p' : Nat} {d : List Byte} (h : s.Kept p) (_ : p.may .regs) (_ : p.may .logs) (_ : p.may .mem) (_ : p.may .poison) (_ : p.may .upset) (_ : p.may .evr) (_ : p.may .line) (_ : p.may .auth) (_ : p.may .safe) (_ : p.may .hostEvent) (_ : p.may .mig) (_ : p.may .fbx) (_ : p.may .pwr) (_ : p.may .trace) (_ : p.may .traceDrop) (_ : p.may .msix) (_ : p.may .firm) (_ : p.may .now) :
    State.Kept p (State.readFrame s p' d).1 := by
  unfold State.readFrame
  repeat' first
    | with_reducible assumption
    | (intro x; first
        | (refine (have hx : State.Kept p x := ?_; ?_); subst x; rotate_left; clear_value x; rotate_right)
        | (refine (have hx : State.Kept p x.1 := ?_; ?_); subst x; rotate_left; clear_value x; rotate_right)
        | (try clear_value x))
    | lift_lets -underBinder
    | with_reducible apply State.Kept.ite
    | with_reducible apply State.fetch_kept
    | split

theorem tsnFrameFetchEffect_kept {m : Fin 4} {q : Fin 8} {s : State} (h : s.Kept p) (_ : p.may .regs) (_ : p.may .logs) (_ : p.may .mem) (_ : p.may .poison) (_ : p.may .upset) (_ : p.may .cells) (_ : p.may .evr) (_ : p.may .line) (_ : p.may .auth) (_ : p.may .safe) (_ : p.may .hostEvent) (_ : p.may .mig) (_ : p.may .tsn) (_ : p.may .fbx) (_ : p.may .pwr) (_ : p.may .trace) (_ : p.may .traceDrop) (_ : p.may .msix) (_ : p.may .firm) (_ : p.may .now) :
    State.Kept p (tsnFrameFetchEffect m q s) := by
  unfold tsnFrameFetchEffect
  repeat' first
    | with_reducible assumption
    | (intro x; first
        | (refine (have hx : State.Kept p x := ?_; ?_); subst x; rotate_left; clear_value x; rotate_right)
        | (refine (have hx : State.Kept p x.1 := ?_; ?_); subst x; rotate_left; clear_value x; rotate_right)
        | (try clear_value x))
    | lift_lets -underBinder
    | with_reducible apply State.Kept.ite
    | with_reducible apply State.setReg_kept
    | with_reducible apply State.modTqueue_kept
    | with_reducible apply State.settle_kept
    | with_reducible apply State.fetch_kept
    | with_reducible apply State.readFrame_kept
    | split

theorem State.bumpLate_kept {s : State} {m : Nat} {q : Nat} {lo : Nat} (h : s.Kept p) (_ : p.may .regs) :
    State.Kept p (State.bumpLate s m q lo) := by
  unfold State.bumpLate
  repeat' first
    | with_reducible assumption
    | (intro x; first
        | (refine (have hx : State.Kept p x := ?_; ?_); subst x; rotate_left; clear_value x; rotate_right)
        | (refine (have hx : State.Kept p x.1 := ?_; ?_); subst x; rotate_left; clear_value x; rotate_right)
        | (try clear_value x))
    | lift_lets -underBinder
    | with_reducible apply State.setReg_kept

theorem State.txGo_kept {s : State} {m : Nat} (h : s.Kept p) (_ : p.may .regs) (_ : p.may .logs) (_ : p.may .mem) (_ : p.may .poison) (_ : p.may .upset) (_ : p.may .cells) (_ : p.may .evr) (_ : p.may .hostEvent) (_ : p.may .mig) (_ : p.may .tsn) (_ : p.may .fbx) (_ : p.may .pwr) (_ : p.may .msix) (_ : p.may .now) :
    State.Kept p (State.txGo s m) := by
  unfold State.txGo
  repeat' first
    | with_reducible assumption
    | (intro x; first
        | (refine (have hx : State.Kept p x := ?_; ?_); subst x; rotate_left; clear_value x; rotate_right)
        | (refine (have hx : State.Kept p x.1 := ?_; ?_); subst x; rotate_left; clear_value x; rotate_right)
        | skip)
    | lift_lets -underBinder
    | with_reducible apply State.Kept.ite
    | with_reducible apply State.Kept.foldl
    | with_reducible apply State.Kept.foldl_fst
    | with_reducible apply State.bumpLate_kept
    | with_reducible apply State.popTx_kept
    | with_reducible apply State.txEnd_kept
    | with_reducible apply State.modTport_kept
    | (with_reducible apply State.Kept.upd_fbx <;> (first
      | with_reducible assumption
      | (intro _; with_reducible rfl)
      | (intro _; decide)
      | with_reducible apply State.bumpLate_kept
      | with_reducible apply State.popTx_kept
      | with_reducible apply State.txEnd_kept
      | with_reducible apply State.modTport_kept))
    | split

theorem State.settleAll_kept {s : State} {m : Nat} (h : s.Kept p) (_ : p.may .regs) (_ : p.may .logs) (_ : p.may .mem) (_ : p.may .poison) (_ : p.may .upset) (_ : p.may .cells) (_ : p.may .evr) (_ : p.may .hostEvent) (_ : p.may .mig) (_ : p.may .tsn) (_ : p.may .pwr) (_ : p.may .msix) (_ : p.may .now) :
    State.Kept p (State.settleAll s m) := by
  unfold State.settleAll
  repeat' first
    | with_reducible assumption
    | (intro x; first
        | (refine (have hx : State.Kept p x := ?_; ?_); subst x; rotate_left; clear_value x; rotate_right)
        | (refine (have hx : State.Kept p x.1 := ?_; ?_); subst x; rotate_left; clear_value x; rotate_right)
        | (try clear_value x))
    | lift_lets -underBinder
    | with_reducible apply State.Kept.foldl
    | with_reducible apply State.Kept.foldl_fst
    | with_reducible apply State.settle_kept

theorem tsnFrameTxStartEffect_kept {m : Fin 4} {s : State} (h : s.Kept p) (_ : p.may .regs) (_ : p.may .logs) (_ : p.may .mem) (_ : p.may .poison) (_ : p.may .upset) (_ : p.may .cells) (_ : p.may .evr) (_ : p.may .hostEvent) (_ : p.may .mig) (_ : p.may .tsn) (_ : p.may .fbx) (_ : p.may .pwr) (_ : p.may .msix) (_ : p.may .now) :
    State.Kept p (tsnFrameTxStartEffect m s) := by
  unfold tsnFrameTxStartEffect
  repeat' first
    | with_reducible assumption
    | (intro x; first
        | (refine (have hx : State.Kept p x := ?_; ?_); subst x; rotate_left; clear_value x; rotate_right)
        | (refine (have hx : State.Kept p x.1 := ?_; ?_); subst x; rotate_left; clear_value x; rotate_right)
        | (try clear_value x))
    | lift_lets -underBinder
    | with_reducible apply State.Kept.ite
    | with_reducible apply State.settleAll_kept
    | with_reducible apply State.txGo_kept
    | split

theorem tsnFrameLateEffect_kept {m : Fin 4} {q : Fin 8} {s : State} (h : s.Kept p) (_ : p.may .regs) (_ : p.may .logs) (_ : p.may .mem) (_ : p.may .poison) (_ : p.may .upset) (_ : p.may .cells) (_ : p.may .evr) (_ : p.may .hostEvent) (_ : p.may .mig) (_ : p.may .tsn) (_ : p.may .fbx) (_ : p.may .pwr) (_ : p.may .msix) (_ : p.may .now) :
    State.Kept p (tsnFrameLateEffect m q s) := by
  unfold tsnFrameLateEffect
  repeat' first
    | with_reducible assumption
    | with_reducible apply State.Kept.ite
    | with_reducible apply State.txGo_kept
    | split

theorem tsnFrameTxEndEffect_kept {m : Fin 4} {s : State} (h : s.Kept p) (_ : p.may .regs) (_ : p.may .logs) (_ : p.may .mem) (_ : p.may .poison) (_ : p.may .upset) (_ : p.may .cells) (_ : p.may .evr) (_ : p.may .hostEvent) (_ : p.may .mig) (_ : p.may .tsn) (_ : p.may .pwr) (_ : p.may .msix) (_ : p.may .now) :
    State.Kept p (tsnFrameTxEndEffect m s) := by
  unfold tsnFrameTxEndEffect
  repeat' first
    | with_reducible assumption
    | (intro x; first
        | (refine (have hx : State.Kept p x := ?_; ?_); subst x; rotate_left; clear_value x; rotate_right)
        | (refine (have hx : State.Kept p x.1 := ?_; ?_); subst x; rotate_left; clear_value x; rotate_right)
        | (try clear_value x))
    | lift_lets -underBinder
    | with_reducible apply State.Kept.ite
    | with_reducible apply State.bump_kept
    | with_reducible apply State.txEnd_kept
    | with_reducible apply State.modTport_kept
    | split

theorem tsnGclEnableEffect_kept {m : Fin 4} {value : BitVec 32} {s : State} (h : s.Kept p) (_ : p.may .regs) (_ : p.may .logs) (_ : p.may .upset) (_ : p.may .evr) (_ : p.may .line) (_ : p.may .auth) (_ : p.may .safe) (_ : p.may .hostEvent) (_ : p.may .tsn) (_ : p.may .fbx) (_ : p.may .trace) (_ : p.may .traceDrop) (_ : p.may .msix) (_ : p.may .firm) (_ : p.may .now) :
    State.Kept p (tsnGclEnableEffect m value s) := by
  unfold tsnGclEnableEffect
  repeat' first
    | with_reducible assumption
    | (intro x; first
        | (refine (have hx : State.Kept p x := ?_; ?_); subst x; rotate_left; clear_value x; rotate_right)
        | (refine (have hx : State.Kept p x.1 := ?_; ?_); subst x; rotate_left; clear_value x; rotate_right)
        | (try clear_value x))
    | lift_lets -underBinder
    | with_reducible apply State.Kept.ite
    | with_reducible apply State.setReg_kept
    | with_reducible apply State.eccRead_kept
    | with_reducible apply State.modTport_kept
    | split

theorem tsnGclTakeEffectEffect_kept {m : Fin 4} {s : State} (h : s.Kept p) (_ : p.may .tsn) :
    State.Kept p (tsnGclTakeEffectEffect m s) := by
  unfold tsnGclTakeEffectEffect
  repeat' first
    | with_reducible assumption
    | with_reducible apply State.Kept.ite
    | with_reducible apply State.modTport_kept
    | split

theorem State.tqEnable_kept {s : State} {m : Nat} {q : Nat} (h : s.Kept p) (_ : p.may .regs) (_ : p.may .tsn) :
    State.Kept p (State.tqEnable s m q) := by
  unfold State.tqEnable
  repeat' first
    | with_reducible assumption
    | with_reducible apply State.setReg_kept
    | with_reducible apply State.modTqueue_kept

end Sys2Proof.Machine
end

