-- ==== Sys2Proof/Laws/KeptRegWrite.lean ====
section
/-! SUPPORT. State.Kept through the operations of Machine/RegWrite.lean. -/

set_option linter.all false

namespace Sys2Proof.Machine

variable {p : Promise}

theorem State.markRefused_kept {s : State} {k : Nat} {e : Nat} (h : s.Kept p) (_ : p.may .regs) (_ : p.may .now) :
    State.Kept p (State.markRefused s k e) := by
  unfold State.markRefused
  repeat' first
    | with_reducible assumption
    | (intro x; first
        | (refine (have hx : State.Kept p x := ?_; ?_); subst x; rotate_left; clear_value x; rotate_right)
        | (refine (have hx : State.Kept p x.1 := ?_; ?_); subst x; rotate_left; clear_value x; rotate_right)
        | (try clear_value x))
    | lift_lets -underBinder
    | with_reducible apply State.Kept.ite
    | with_reducible apply State.hwSetBit_kept
    | with_reducible apply State.bump_kept
    | with_reducible apply State.setRegBits_kept
    | split

theorem State.storeReg_kept {s : State} {r : RegRow} {k : Nat} {v : Nat} (h : s.Kept p) (_ : p.may .regs) :
    State.Kept p (State.storeReg s r k v) := by
  unfold State.storeReg
  repeat' first
    | with_reducible assumption
    | (intro x; first
        | (refine (have hx : State.Kept p x := ?_; ?_); subst x; rotate_left; clear_value x; rotate_right)
        | (refine (have hx : State.Kept p x.1 := ?_; ?_); subst x; rotate_left; clear_value x; rotate_right)
        | (try clear_value x))
    | lift_lets -underBinder
    | with_reducible apply State.setReg_kept
    | split

theorem State.unitOff_kept {s : State} {k : Nat} (h : s.Kept p) (_ : p.may .regs) (_ : p.may .ing) (_ : p.may .slv) (_ : p.may .pln) :
    State.Kept p (State.unitOff s k) := by
  unfold State.unitOff
  repeat' first
    | with_reducible assumption
    | with_reducible apply State.Kept.ite
    | with_reducible apply State.setReg_kept
    | with_reducible apply State.ctxStop_kept
    | with_reducible apply State.slvDisable_kept
    | with_reducible apply State.plnDisable_kept
    | split

theorem State.writeFrt_kept {s : State} {c : WCtx} {r : RegRow} {k : Nat} {v : Nat} (h : s.Kept p) (_ : p.may .regs) (_ : p.may .frt) (_ : p.may .now) :
    State.Kept p (State.writeFrt s c r k v) := by
  unfold State.writeFrt
  repeat' first
    | with_reducible assumption
    | with_reducible apply State.Kept.ite
    | with_reducible apply frtLoadCmdEffect_kept
    | with_reducible apply State.setRegBit_kept
    | with_reducible apply State.frtUnstop_kept
    | with_reducible apply State.storeReg_kept
    | with_reducible apply State.frtStop_kept
    | split

theorem State.writeLoop_kept {s : State} {r : RegRow} {k : Nat} {v : Nat} (h : s.Kept p) (_ : p.may .regs) (_ : p.may .lp) (_ : p.may .now) :
    State.Kept p (State.writeLoop s r k v) := by
  unfold State.writeLoop
  repeat' first
    | with_reducible assumption
    | with_reducible apply State.Kept.ite
    | with_reducible apply State.loopRetake_kept
    | with_reducible apply loopTblDataWriteEffect_kept
    | with_reducible apply loopRunEffect_kept
    | with_reducible apply State.axisCommand_kept
    | with_reducible apply loopSegSwapEffect_kept
    | with_reducible apply State.storeReg_kept
    | split

theorem State.writeTb_kept {s : State} {c : WCtx} {r : RegRow} {k : Nat} {v : Nat} (h : s.Kept p) (_ : p.may .regs) (_ : p.may .tb) (_ : p.may .hostEvent) (_ : p.may .ing) (_ : p.may .fus) (_ : p.may .slv) (_ : p.may .pln) (_ : p.may .msix) (_ : p.may .now) :
    State.Kept p (State.writeTb s c r k v) := by
  unfold State.writeTb
  repeat' first
    | with_reducible assumption
    | with_reducible apply State.Kept.ite
    | with_reducible apply tbStepEffect_kept
    | with_reducible apply tbRateWriteEffect_kept
    | with_reducible apply tbServoEnableEffect_kept
    | with_reducible apply tbMeasWriteEffect_kept
    | with_reducible apply State.modTb_kept
    | with_reducible apply State.storeReg_kept
    | split

theorem State.showLmax_kept {s : State} (h : s.Kept p) (_ : p.may .regs) :
    State.Kept p (State.showLmax s) := by
  unfold State.showLmax
  repeat' first
    | with_reducible assumption
    | with_reducible apply State.setReg_kept

theorem State.writeXsl_kept {s : State} {r : RegRow} {k : Nat} {v : Nat} (h : s.Kept p) (_ : p.may .rdata) (_ : p.may .regs) (_ : p.may .evr) (_ : p.may .hostEvent) (_ : p.may .vats) (_ : p.may .xsl) (_ : p.may .msix) (_ : p.may .now) :
    State.Kept p (State.writeXsl s r k v) := by
  unfold State.writeXsl
  repeat' first
    | with_reducible assumption
    | (intro x; first
        | (refine (have hx : State.Kept p x := ?_; ?_); subst x; rotate_left; clear_value x; rotate_right)
        | (refine (have hx : State.Kept p x.1 := ?_; ?_); subst x; rotate_left; clear_value x; rotate_right)
        | (try clear_value x))
    | lift_lets -underBinder
    | with_reducible apply State.Kept.ite
    | with_reducible apply xslLostClearEffect_kept
    | with_reducible apply xslPortEnableEffect_kept
    | with_reducible apply State.setMembers_kept
    | with_reducible apply xslGenAdvanceEffect_kept
    | with_reducible apply State.storeReg_kept
    | with_reducible apply State.showLmax_kept
    | split

theorem State.writeScn_kept {s : State} {r : RegRow} {k : Nat} {v : Nat} (h : s.Kept p) (_ : p.may .regs) (_ : p.may .cells) (_ : p.may .vats) (_ : p.may .swaps) (_ : p.may .now) :
    State.Kept p (State.writeScn s r k v) := by
  unfold State.writeScn
  repeat' first
    | with_reducible assumption
    | (intro x; first
        | (refine (have hx : State.Kept p x := ?_; ?_); subst x; rotate_left; clear_value x; rotate_right)
        | (refine (have hx : State.Kept p x.1 := ?_; ?_); subst x; rotate_left; clear_value x; rotate_right)
        | (try clear_value x))
    | lift_lets -underBinder
    | with_reducible apply State.Kept.ite
    | with_reducible apply initEffect_kept
    | with_reducible apply swapInEffect_kept
    | with_reducible apply swapOutEffect_kept
    | with_reducible apply State.storeReg_kept
    | split

theorem State.writeSnp_kept {s : State} {r : RegRow} {k : Nat} {v : Nat} (h : s.Kept p) (_ : p.may .regs) (_ : p.may .snapCmp) :
    State.Kept p (State.writeSnp s r k v) := by
  unfold State.writeSnp
  repeat' first
    | with_reducible assumption
    | (intro x; first
        | (refine (have hx : State.Kept p x := ?_; ?_); subst x; rotate_left; clear_value x; rotate_right)
        | (refine (have hx : State.Kept p x.1 := ?_; ?_); subst x; rotate_left; clear_value x; rotate_right)
        | (try clear_value x))
    | lift_lets -underBinder
    | with_reducible apply State.Kept.ite
    | with_reducible apply State.Kept.foldl
    | with_reducible apply State.Kept.foldl_fst
    | with_reducible apply State.setReg_kept
    | with_reducible apply State.storeReg_kept
    | (with_reducible apply State.Kept.upd_snapCmp <;> (first
      | with_reducible assumption
      | (intro _; with_reducible rfl)
      | (intro _; decide)
      | with_reducible apply State.setReg_kept
      | with_reducible apply State.storeReg_kept))
    | split

theorem State.writeRind_kept {s : State} {r : RegRow} {k : Nat} {v : Nat} (h : s.Kept p) (_ : p.may .regs) (_ : p.may .evr) (_ : p.may .line) (_ : p.may .auth) (_ : p.may .safe) (_ : p.may .hostEvent) (_ : p.may .fbx) (_ : p.may .wd) (_ : p.may .trace) (_ : p.may .traceDrop) (_ : p.may .msix) (_ : p.may .firm) (_ : p.may .now) :
    State.Kept p (State.writeRind s r k v) := by
  unfold State.writeRind
  repeat' first
    | with_reducible assumption
    | with_reducible apply State.Kept.ite
    | with_reducible apply fbxHbReqEffect_kept
    | with_reducible apply State.clearDoubt_kept
    | with_reducible apply State.modFbx_kept
    | with_reducible apply rindWdtKickEffect_kept
    | with_reducible apply fbxTrjCommitEffect_kept
    | with_reducible apply fbxHbGoEffect_kept
    | with_reducible apply State.storeReg_kept
    | (with_reducible apply State.Kept.upd_evr <;> with_reducible assumption)
    | split

theorem State.writeObs_kept {s : State} {r : RegRow} {k : Nat} {v : Nat} (h : s.Kept p) (_ : p.may .regs) (_ : p.may .hostEvent) (_ : p.may .msix) (_ : p.may .now) :
    State.Kept p (State.writeObs s r k v) := by
  unfold State.writeObs
  repeat' first
    | with_reducible assumption
    | with_reducible apply State.Kept.ite
    | with_reducible apply State.syncState_kept
    | with_reducible apply State.storeReg_kept
    | split

theorem State.writePwr_kept {s : State} {r : RegRow} {k : Nat} {v : Nat} (h : s.Kept p) (_ : p.may .regs) (_ : p.may .hostEvent) (_ : p.may .pwr) (_ : p.may .msix) (_ : p.may .now) :
    State.Kept p (State.writePwr s r k v) := by
  unfold State.writePwr
  repeat' first
    | with_reducible assumption
    | with_reducible apply State.Kept.ite
    | with_reducible apply pwrModeWriteEffect_kept
    | with_reducible apply pwrMeterCfgWriteEffect_kept
    | with_reducible apply State.syncState_kept
    | with_reducible apply State.storeReg_kept
    | split

theorem State.writeHarp_kept {s : State} {r : RegRow} {k : Nat} {v : Nat} (h : s.Kept p) (_ : p.may .regs) (_ : p.may .logs) (_ : p.may .mem) (_ : p.may .poison) (_ : p.may .upset) (_ : p.may .cells) (_ : p.may .evr) (_ : p.may .line) (_ : p.may .auth) (_ : p.may .safe) (_ : p.may .hostEvent) (_ : p.may .mig) (_ : p.may .harp) (_ : p.may .fbx) (_ : p.may .pwr) (_ : p.may .trace) (_ : p.may .traceDrop) (_ : p.may .msix) (_ : p.may .firm) (_ : p.may .now) :
    State.Kept p (State.writeHarp s r k v) := by
  unfold State.writeHarp
  repeat' first
    | with_reducible assumption
    | (intro x; first
        | (refine (have hx : State.Kept p x := ?_; ?_); subst x; rotate_left; clear_value x; rotate_right)
        | (refine (have hx : State.Kept p x.1 := ?_; ?_); subst x; rotate_left; clear_value x; rotate_right)
        | (try clear_value x))
    | lift_lets -underBinder
    | with_reducible apply State.Kept.ite
    | with_reducible apply harpDisarmEffect_kept
    | with_reducible apply harpArmEffect_kept
    | with_reducible apply State.storeReg_kept
    | split

theorem State.writeTsn_kept {s : State} {r : RegRow} {k : Nat} {v : Nat} (h : s.Kept p) (_ : p.may .regs) (_ : p.may .logs) (_ : p.may .upset) (_ : p.may .evr) (_ : p.may .line) (_ : p.may .auth) (_ : p.may .safe) (_ : p.may .hostEvent) (_ : p.may .tsn) (_ : p.may .fbx) (_ : p.may .trace) (_ : p.may .traceDrop) (_ : p.may .msix) (_ : p.may .firm) (_ : p.may .now) :
    State.Kept p (State.writeTsn s r k v) := by
  unfold State.writeTsn
  repeat' first
    | with_reducible assumption
    | with_reducible apply State.Kept.ite
    | with_reducible apply tsnGclEnableEffect_kept
    | with_reducible apply State.storeReg_kept
    | split

theorem State.writeIng_kept {s : State} {r : RegRow} {k : Nat} {v : Nat} (h : s.Kept p) (_ : p.may .regs) :
    State.Kept p (State.writeIng s r k v) := by
  unfold State.writeIng
  repeat' first
    | with_reducible assumption
    | (intro x; first
        | (refine (have hx : State.Kept p x := ?_; ?_); subst x; rotate_left; clear_value x; rotate_right)
        | (refine (have hx : State.Kept p x.1 := ?_; ?_); subst x; rotate_left; clear_value x; rotate_right)
        | (try clear_value x))
    | lift_lets -underBinder
    | with_reducible apply State.Kept.ite
    | with_reducible apply State.setReg_kept
    | with_reducible apply State.storeReg_kept
    | split

theorem State.writeMig_kept {s : State} {r : RegRow} {k : Nat} {v : Nat} (h : s.Kept p) (_ : p.may .regs) (_ : p.may .mig) (_ : p.may .now) :
    State.Kept p (State.writeMig s r k v) := by
  unfold State.writeMig
  repeat' first
    | with_reducible assumption
    | with_reducible apply State.Kept.ite
    | with_reducible apply migCmdPushEffect_kept
    | with_reducible apply State.setReg_kept
    | with_reducible apply State.storeReg_kept
    | split

theorem State.writeMbx_kept {s : State} {r : RegRow} {k : Nat} {v : Nat} (h : s.Kept p) (_ : p.may .regs) (_ : p.may .hostEvent) (_ : p.may .msix) (_ : p.may .now) :
    State.Kept p (State.writeMbx s r k v) := by
  unfold State.writeMbx
  repeat' first
    | with_reducible assumption
    | (intro x; first
        | (refine (have hx : State.Kept p x := ?_; ?_); subst x; rotate_left; clear_value x; rotate_right)
        | (refine (have hx : State.Kept p x.1 := ?_; ?_); subst x; rotate_left; clear_value x; rotate_right)
        | (try clear_value x))
    | lift_lets -underBinder
    | with_reducible apply State.Kept.ite
    | with_reducible apply State.setReg_kept
    | with_reducible apply State.hostEv_kept
    | with_reducible apply State.raiseVector_kept
    | with_reducible apply State.storeReg_kept
    | split

theorem State.applyWrite_kept {s : State} {c : WCtx} {k : Nat} {v : Nat} (h : s.Kept p) (_ : p.may .rdata) (_ : p.may .regs) (_ : p.may .logs) (_ : p.may .mem) (_ : p.may .poison) (_ : p.may .upset) (_ : p.may .cells) (_ : p.may .tb) (_ : p.may .evr) (_ : p.may .line) (_ : p.may .auth) (_ : p.may .safe) (_ : p.may .hostEvent) (_ : p.may .frt) (_ : p.may .vats) (_ : p.may .mig) (_ : p.may .harp) (_ : p.may .swaps) (_ : p.may .ing) (_ : p.may .fus) (_ : p.may .slv) (_ : p.may .pln) (_ : p.may .lp) (_ : p.may .tsn) (_ : p.may .xsl) (_ : p.may .fbx) (_ : p.may .wd) (_ : p.may .pwr) (_ : p.may .trace) (_ : p.may .traceDrop) (_ : p.may .msix) (_ : p.may .firm) (_ : p.may .snapCmp) (_ : p.may .now) :
    State.Kept p (State.applyWrite s c k v) := by
  unfold State.applyWrite
  repeat' first
    | with_reducible assumption
    | (intro x; first
        | (refine (have hx : State.Kept p x := ?_; ?_); subst x; rotate_left; clear_value x; rotate_right)
        | (refine (have hx : State.Kept p x.1 := ?_; ?_); subst x; rotate_left; clear_value x; rotate_right)
        | (try clear_value x))
    | lift_lets -underBinder
    | with_reducible apply State.Kept.ite
    | with_reducible apply State.loopRetake_kept
    | with_reducible apply State.writeLoop_kept
    | with_reducible apply State.writeTb_kept
    | with_reducible apply State.writePwr_kept
    | with_reducible apply State.writeSnp_kept
    | with_reducible apply State.writeRind_kept
    | with_reducible apply State.clearDoubt_kept
    | with_reducible apply State.writeFrt_kept
    | with_reducible apply State.writeScn_kept
    | with_reducible apply State.writeXsl_kept
    | with_reducible apply State.unitOff_kept
    | with_reducible apply State.egoDisable_kept
    | with_reducible apply State.writeMig_kept
    | with_reducible apply State.writeMbx_kept
    | with_reducible apply State.writeTsn_kept
    | with_reducible apply State.storeReg_kept
    | with_reducible apply State.writeObs_kept
    | with_reducible apply State.writeHarp_kept
    | with_reducible apply State.writeIng_kept
    | split

theorem State.unitOn_kept {s : State} {k : Nat} (h : s.Kept p) (_ : p.may .regs) (_ : p.may .logs) (_ : p.may .mem) (_ : p.may .poison) (_ : p.may .upset) (_ : p.may .evr) (_ : p.may .line) (_ : p.may .auth) (_ : p.may .safe) (_ : p.may .hostEvent) (_ : p.may .mig) (_ : p.may .ing) (_ : p.may .fus) (_ : p.may .slv) (_ : p.may .pln) (_ : p.may .tsn) (_ : p.may .fbx) (_ : p.may .pwr) (_ : p.may .trace) (_ : p.may .traceDrop) (_ : p.may .msix) (_ : p.may .firm) (_ : p.may .now) :
    State.Kept p (State.unitOn s k).1 := by
  unfold State.unitOn
  repeat' first
    | with_reducible assumption
    | (intro x; first
        | (refine (have hx : State.Kept p x := ?_; ?_); subst x; rotate_left; clear_value x; rotate_right)
        | (refine (have hx : State.Kept p x.1 := ?_; ?_); subst x; rotate_left; clear_value x; rotate_right)
        | (try clear_value x))
    | lift_lets -underBinder
    | with_reducible apply State.Kept.ite
    | with_reducible apply State.egoEnable_kept
    | with_reducible apply State.ctxStart_kept
    | with_reducible apply State.slvEnable_kept
    | with_reducible apply State.asEnable_kept
    | with_reducible apply State.plnEnable_kept
    | with_reducible apply State.chEnable_kept
    | with_reducible apply State.tqEnable_kept
    | split

end Sys2Proof.Machine
end

