-- ==== Sys2Proof/Laws/KeptGroups.lean ====
section
/-! SUPPORT. State.Kept through the operations of Machine/Groups.lean. -/

set_option linter.all false

namespace Sys2Proof.Machine

variable {p : Promise}

theorem State.modCg_kept {s : State} {f : CgUnit → CgUnit} (h : s.Kept p) (_ : p.may .cg) :
    State.Kept p (State.modCg s f) := by
  unfold State.modCg
  exact State.Kept.upd_cg h (by assumption)

theorem State.modFirm_kept {s : State} {f : Firmware → Firmware} (h : s.Kept p) (_ : p.may .firm) :
    State.Kept p (State.modFirm s f) := by
  unfold State.modFirm
  repeat' first
    | with_reducible assumption
    | with_reducible apply State.Kept.ite
    | (with_reducible apply State.Kept.upd_firm <;> with_reducible assumption)
    | split

theorem State.mark_kept {s : State} {value : Nat} {gtag : Nat} (h : s.Kept p) (_ : p.may .regs) (_ : p.may .evr) (_ : p.may .hostEvent) (_ : p.may .msix) (_ : p.may .now) :
    State.Kept p (State.mark s value gtag) := by
  unfold State.mark
  repeat' first
    | with_reducible assumption
    | with_reducible apply State.post_kept

theorem State.applyEntry_kept {s : State} {c : WCtx} {gtag : Nat} {e : CEntry} (h : s.Kept p) (_ : p.may .rdata) (_ : p.may .regs) (_ : p.may .logs) (_ : p.may .mem) (_ : p.may .poison) (_ : p.may .upset) (_ : p.may .cells) (_ : p.may .tb) (_ : p.may .evr) (_ : p.may .line) (_ : p.may .auth) (_ : p.may .safe) (_ : p.may .hostEvent) (_ : p.may .frt) (_ : p.may .vats) (_ : p.may .mig) (_ : p.may .harp) (_ : p.may .swaps) (_ : p.may .ing) (_ : p.may .fus) (_ : p.may .slv) (_ : p.may .pln) (_ : p.may .lp) (_ : p.may .tsn) (_ : p.may .xsl) (_ : p.may .fbx) (_ : p.may .wd) (_ : p.may .pwr) (_ : p.may .trace) (_ : p.may .traceDrop) (_ : p.may .msix) (_ : p.may .firm) (_ : p.may .snapCmp) (_ : p.may .now) :
    State.Kept p (State.applyEntry s c gtag e) := by
  unfold State.applyEntry
  repeat' first
    | with_reducible assumption
    | with_reducible apply State.Kept.ite
    | with_reducible apply State.snapshotFire_kept
    | with_reducible apply State.mark_kept
    | with_reducible apply State.applyWrite_kept
    | split

theorem State.runEntries_kept {c : WCtx} {gtag : Nat} {a1_ : Nat} {a2_ : List CEntry} {a3_ : State} (h : a3_.Kept p) (_ : p.may .rdata) (_ : p.may .regs) (_ : p.may .logs) (_ : p.may .mem) (_ : p.may .poison) (_ : p.may .upset) (_ : p.may .cells) (_ : p.may .tb) (_ : p.may .evr) (_ : p.may .line) (_ : p.may .auth) (_ : p.may .safe) (_ : p.may .hostEvent) (_ : p.may .frt) (_ : p.may .vats) (_ : p.may .mig) (_ : p.may .harp) (_ : p.may .swaps) (_ : p.may .ing) (_ : p.may .fus) (_ : p.may .slv) (_ : p.may .pln) (_ : p.may .lp) (_ : p.may .tsn) (_ : p.may .xsl) (_ : p.may .fbx) (_ : p.may .wd) (_ : p.may .pwr) (_ : p.may .trace) (_ : p.may .traceDrop) (_ : p.may .msix) (_ : p.may .firm) (_ : p.may .snapCmp) (_ : p.may .now) :
    ∀ r_, (State.runEntries c gtag a1_ a2_ a3_) = .inl r_ → State.Kept p r_ := by
  induction a2_ generalizing c gtag a1_ a3_ with
  | nil =>
    intro t e
    unfold State.runEntries at e
    try dsimp only at e
    repeat' (first | (cases e; done) | split at e)
    all_goals (try cases e)
    repeat' first
      | with_reducible assumption
      | with_reducible apply State.applyEntry_kept
      | split
  | cons y_ l_ ih =>
    intro t e
    unfold State.runEntries at e
    try dsimp only at e
    repeat' (first | (cases e; done) | split at e)
    all_goals (try cases e)
    repeat' first
      | (with_reducible refine ih ?_ _ (by assumption))
      | with_reducible assumption
      | with_reducible apply State.applyEntry_kept
      | split

theorem State.runUnits_kept {c : WCtx} {a1_ : Nat} {a2_ : List CEntry} {a3_ : State} (h : a3_.Kept p) (_ : p.may .regs) (_ : p.may .logs) (_ : p.may .mem) (_ : p.may .poison) (_ : p.may .upset) (_ : p.may .evr) (_ : p.may .line) (_ : p.may .auth) (_ : p.may .safe) (_ : p.may .hostEvent) (_ : p.may .mig) (_ : p.may .ing) (_ : p.may .fus) (_ : p.may .slv) (_ : p.may .pln) (_ : p.may .tsn) (_ : p.may .fbx) (_ : p.may .pwr) (_ : p.may .trace) (_ : p.may .traceDrop) (_ : p.may .msix) (_ : p.may .firm) (_ : p.may .now) :
    ∀ r_, (State.runUnits c a1_ a2_ a3_) = .inl r_ → State.Kept p r_ := by
  induction a2_ generalizing c a1_ a3_ with
  | nil =>
    intro t e
    unfold State.runUnits at e
    try dsimp only at e
    repeat' (first | (cases e; done) | split at e)
    all_goals (try cases e)
    repeat' first
      | with_reducible assumption
      | with_reducible apply State.Kept.ite
      | with_reducible apply State.unitOn_kept
      | split
  | cons y_ l_ ih =>
    intro t e
    unfold State.runUnits at e
    try dsimp only at e
    repeat' (first | (cases e; done) | split at e)
    all_goals (try cases e)
    repeat' first
      | (with_reducible refine ih ?_ _ (by assumption))
      | with_reducible assumption
      | with_reducible apply State.Kept.ite
      | with_reducible apply State.unitOn_kept
      | split

theorem State.runGroup_kept {s : State} {tag : Nat} {point : Nat} {gtag : Nat} {l : List CEntry} (h : s.Kept p) (_ : p.may .rdata) (_ : p.may .regs) (_ : p.may .logs) (_ : p.may .mem) (_ : p.may .poison) (_ : p.may .upset) (_ : p.may .cells) (_ : p.may .tb) (_ : p.may .evr) (_ : p.may .line) (_ : p.may .auth) (_ : p.may .safe) (_ : p.may .hostEvent) (_ : p.may .frt) (_ : p.may .vats) (_ : p.may .mig) (_ : p.may .harp) (_ : p.may .swaps) (_ : p.may .ing) (_ : p.may .fus) (_ : p.may .slv) (_ : p.may .pln) (_ : p.may .lp) (_ : p.may .tsn) (_ : p.may .xsl) (_ : p.may .fbx) (_ : p.may .wd) (_ : p.may .pwr) (_ : p.may .trace) (_ : p.may .traceDrop) (_ : p.may .msix) (_ : p.may .firm) (_ : p.may .snapCmp) (_ : p.may .now) :
    ∀ r_, (State.runGroup s tag point gtag l) = .inl r_ → State.Kept p r_ := by
  intro t e
  unfold State.runGroup at e
  try dsimp only at e
  repeat' (first | (cases e; done) | split at e)
  all_goals (try cases e)
  repeat' first
    | with_reducible assumption
    | (intro x; first
        | (refine (have hx : State.Kept p x := ?_; ?_); subst x; rotate_left; clear_value x; rotate_right)
        | (refine (have hx : State.Kept p x.1 := ?_; ?_); subst x; rotate_left; clear_value x; rotate_right)
        | (try clear_value x))
    | lift_lets -underBinder
    | (with_reducible refine State.runUnits_kept ?_ (by assumption) ‹_› (by with_reducible assumption) (by assumption) ‹_› (by with_reducible assumption) (by assumption) ‹_› (by with_reducible assumption) (by assumption) ‹_› (by with_reducible assumption) (by assumption) ‹_› (by with_reducible assumption) (by assumption) ‹_› (by with_reducible assumption) (by assumption) ‹_› (by with_reducible assumption) (by assumption) ‹_› _ (by assumption))
    | (with_reducible refine State.runEntries_kept ?_ (by assumption) ‹_› (by with_reducible assumption) (by assumption) ‹_› (by with_reducible assumption) (by assumption) ‹_› (by with_reducible assumption) (by assumption) ‹_› (by with_reducible assumption) (by assumption) ‹_› (by with_reducible assumption) (by assumption) ‹_› (by with_reducible assumption) (by assumption) ‹_› (by with_reducible assumption) (by assumption) ‹_› (by with_reducible assumption) (by assumption) ‹_› (by with_reducible assumption) (by assumption) ‹_› (by with_reducible assumption) (by assumption) ‹_› (by with_reducible assumption) (by assumption) _ (by assumption))
    | split

theorem State.forceGroup_kept {s : State} {tag : Nat} {point : Nat} {gtag : Nat} {l : List CEntry} (h : s.Kept p) (_ : p.may .rdata) (_ : p.may .regs) (_ : p.may .logs) (_ : p.may .mem) (_ : p.may .poison) (_ : p.may .upset) (_ : p.may .cells) (_ : p.may .tb) (_ : p.may .evr) (_ : p.may .line) (_ : p.may .auth) (_ : p.may .safe) (_ : p.may .hostEvent) (_ : p.may .frt) (_ : p.may .vats) (_ : p.may .mig) (_ : p.may .harp) (_ : p.may .swaps) (_ : p.may .ing) (_ : p.may .fus) (_ : p.may .slv) (_ : p.may .pln) (_ : p.may .lp) (_ : p.may .tsn) (_ : p.may .xsl) (_ : p.may .fbx) (_ : p.may .wd) (_ : p.may .pwr) (_ : p.may .trace) (_ : p.may .traceDrop) (_ : p.may .msix) (_ : p.may .firm) (_ : p.may .snapCmp) (_ : p.may .now) :
    State.Kept p (State.forceGroup s tag point gtag l) := by
  unfold State.forceGroup
  repeat' first
    | with_reducible assumption
    | (intro x; first
        | (refine (have hx : State.Kept p x := ?_; ?_); subst x; rotate_left; clear_value x; rotate_right)
        | (refine (have hx : State.Kept p x.1 := ?_; ?_); subst x; rotate_left; clear_value x; rotate_right)
        | (try clear_value x))
    | lift_lets -underBinder
    | with_reducible apply State.Kept.ite
    | with_reducible apply State.Kept.foldl
    | with_reducible apply State.Kept.foldl_fst
    | (with_reducible refine State.runUnits_kept ?_ (by assumption) ‹_› (by with_reducible assumption) (by assumption) ‹_› (by with_reducible assumption) (by assumption) ‹_› (by with_reducible assumption) (by assumption) ‹_› (by with_reducible assumption) (by assumption) ‹_› (by with_reducible assumption) (by assumption) ‹_› (by with_reducible assumption) (by assumption) ‹_› (by with_reducible assumption) (by assumption) ‹_› _ (by assumption))
    | with_reducible apply State.applyEntry_kept
    | with_reducible apply State.modMig_kept
    | split

theorem State.fwAfter_kept {s : State} {l : List CEntry} (h : s.Kept p) (_ : p.may .regs) (_ : p.may .hostEvent) (_ : p.may .msix) (_ : p.may .now) :
    State.Kept p (State.fwAfter s l) := by
  unfold State.fwAfter
  repeat' first
    | with_reducible assumption
    | with_reducible apply State.Kept.ite
    | with_reducible apply State.setFw_kept
    | split

theorem State.cgStatus_kept {s : State} {g : CGroup} {st : Nat} {status : Nat} {entry : Nat} {blk : Nat} (h : s.Kept p) (_ : p.may .regs) :
    State.Kept p (State.cgStatus s g st status entry blk) := by
  unfold State.cgStatus
  repeat' first
    | with_reducible assumption
    | with_reducible apply State.setReg_kept

theorem State.tellJob_kept {s : State} {id : Nat} {status : Nat} {detail : Nat} (h : s.Kept p) (_ : p.may .firm) :
    State.Kept p (State.tellJob s id status detail) := by
  unfold State.tellJob
  repeat' first
    | with_reducible assumption
    | with_reducible apply State.Kept.ite
    | with_reducible apply State.modFirm_kept
    | split

theorem State.ownRecord_kept {s : State} {status : Nat} {gtag : Nat} {detail : Nat} (h : s.Kept p) (_ : p.may .regs) (_ : p.may .evr) (_ : p.may .hostEvent) (_ : p.may .msix) (_ : p.may .now) :
    State.Kept p (State.ownRecord s status gtag detail) := by
  unfold State.ownRecord
  repeat' first
    | with_reducible assumption
    | with_reducible apply State.post_kept

theorem State.groupDone_kept {s : State} {g : CGroup} (h : s.Kept p) (_ : p.may .regs) (_ : p.may .hostEvent) (_ : p.may .trace) (_ : p.may .traceDrop) (_ : p.may .msix) (_ : p.may .firm) (_ : p.may .now) :
    State.Kept p (State.groupDone s g) := by
  unfold State.groupDone
  repeat' first
    | with_reducible assumption
    | (intro x; first
        | (refine (have hx : State.Kept p x := ?_; ?_); subst x; rotate_left; clear_value x; rotate_right)
        | (refine (have hx : State.Kept p x.1 := ?_; ?_); subst x; rotate_left; clear_value x; rotate_right)
        | (try clear_value x))
    | lift_lets -underBinder
    | with_reducible apply State.fwAfter_kept
    | with_reducible apply State.bump_kept
    | with_reducible apply State.cgStatus_kept
    | with_reducible apply State.tellJob_kept
    | with_reducible apply State.emit_kept

theorem State.settleSwitch_kept {s : State} (h : s.Kept p) (_ : p.may .regs) (_ : p.may .hostEvent) (_ : p.may .frt) (_ : p.may .msix) (_ : p.may .now) :
    State.Kept p (State.settleSwitch s) := by
  unfold State.settleSwitch
  repeat' first
    | with_reducible assumption
    | (intro x; first
        | (refine (have hx : State.Kept p x := ?_; ?_); subst x; rotate_left; clear_value x; rotate_right)
        | (refine (have hx : State.Kept p x.1 := ?_; ?_); subst x; rotate_left; clear_value x; rotate_right)
        | (try clear_value x))
    | lift_lets -underBinder
    | with_reducible apply State.Kept.ite
    | with_reducible apply State.setReg_kept
    | with_reducible apply State.syncState_kept
    | (with_reducible apply State.Kept.upd_frt <;> with_reducible assumption)
    | split

theorem State.groupAborts_kept {s : State} {g : CGroup} {status : Nat} {x' : Abort} (h : s.Kept p) (_ : p.may .regs) (_ : p.may .evr) (_ : p.may .hostEvent) (_ : p.may .frt) (_ : p.may .trace) (_ : p.may .traceDrop) (_ : p.may .msix) (_ : p.may .firm) (_ : p.may .now) :
    State.Kept p (State.groupAborts s g status x') := by
  unfold State.groupAborts
  repeat' first
    | with_reducible assumption
    | (intro x; first
        | (refine (have hx : State.Kept p x := ?_; ?_); subst x; rotate_left; clear_value x; rotate_right)
        | (refine (have hx : State.Kept p x.1 := ?_; ?_); subst x; rotate_left; clear_value x; rotate_right)
        | (try clear_value x))
    | lift_lets -underBinder
    | with_reducible apply State.Kept.ite
    | with_reducible apply State.bump_kept
    | with_reducible apply State.markRefused_kept
    | with_reducible apply State.cgStatus_kept
    | with_reducible apply State.settleSwitch_kept
    | with_reducible apply State.tellJob_kept
    | with_reducible apply State.ownRecord_kept
    | with_reducible apply State.emit_kept
    | split

theorem State.implicitAborts_kept {s : State} {e : CEntry} {x' : Abort} (h : s.Kept p) (_ : p.may .regs) (_ : p.may .evr) (_ : p.may .hostEvent) (_ : p.may .msix) (_ : p.may .now) :
    State.Kept p (State.implicitAborts s e x') := by
  unfold State.implicitAborts
  repeat' first
    | with_reducible assumption
    | (intro x; first
        | (refine (have hx : State.Kept p x := ?_; ?_); subst x; rotate_left; clear_value x; rotate_right)
        | (refine (have hx : State.Kept p x.1 := ?_; ?_); subst x; rotate_left; clear_value x; rotate_right)
        | (try clear_value x))
    | lift_lets -underBinder
    | with_reducible apply State.Kept.ite
    | with_reducible apply State.bump_kept
    | with_reducible apply State.markRefused_kept
    | with_reducible apply State.ownRecord_kept
    | split

theorem State.implicitGroup_kept {s : State} {tag : Nat} {e : CEntry} (h : s.Kept p) (_ : p.may .rdata) (_ : p.may .regs) (_ : p.may .logs) (_ : p.may .mem) (_ : p.may .poison) (_ : p.may .upset) (_ : p.may .cells) (_ : p.may .tb) (_ : p.may .evr) (_ : p.may .line) (_ : p.may .auth) (_ : p.may .safe) (_ : p.may .hostEvent) (_ : p.may .frt) (_ : p.may .vats) (_ : p.may .mig) (_ : p.may .harp) (_ : p.may .swaps) (_ : p.may .ing) (_ : p.may .fus) (_ : p.may .slv) (_ : p.may .pln) (_ : p.may .lp) (_ : p.may .tsn) (_ : p.may .xsl) (_ : p.may .fbx) (_ : p.may .wd) (_ : p.may .pwr) (_ : p.may .trace) (_ : p.may .traceDrop) (_ : p.may .msix) (_ : p.may .cg) (_ : p.may .firm) (_ : p.may .snapCmp) (_ : p.may .now) :
    State.Kept p (State.implicitGroup s tag e) := by
  unfold State.implicitGroup
  repeat' first
    | with_reducible assumption
    | with_reducible apply State.Kept.ite
    | with_reducible apply State.implicitAborts_kept
    | with_reducible apply State.modCg_kept
    | (with_reducible refine State.runGroup_kept ?_ (by assumption) ‹_› (by with_reducible assumption) (by assumption) ‹_› (by with_reducible assumption) (by assumption) ‹_› (by with_reducible assumption) (by assumption) ‹_› (by with_reducible assumption) (by assumption) ‹_› (by with_reducible assumption) (by assumption) ‹_› (by with_reducible assumption) (by assumption) ‹_› (by with_reducible assumption) (by assumption) ‹_› (by with_reducible assumption) (by assumption) ‹_› (by with_reducible assumption) (by assumption) ‹_› (by with_reducible assumption) (by assumption) ‹_› (by with_reducible assumption) (by assumption) _ (by assumption))
    | with_reducible apply State.modMig_kept
    | split

theorem State.separateWrite_kept {s : State} {tag : Nat} {e : CEntry} (h : s.Kept p) (_ : p.may .rdata) (_ : p.may .regs) (_ : p.may .logs) (_ : p.may .mem) (_ : p.may .poison) (_ : p.may .upset) (_ : p.may .cells) (_ : p.may .tb) (_ : p.may .evr) (_ : p.may .line) (_ : p.may .auth) (_ : p.may .safe) (_ : p.may .hostEvent) (_ : p.may .frt) (_ : p.may .vats) (_ : p.may .mig) (_ : p.may .harp) (_ : p.may .swaps) (_ : p.may .ing) (_ : p.may .fus) (_ : p.may .slv) (_ : p.may .pln) (_ : p.may .lp) (_ : p.may .tsn) (_ : p.may .xsl) (_ : p.may .fbx) (_ : p.may .wd) (_ : p.may .pwr) (_ : p.may .trace) (_ : p.may .traceDrop) (_ : p.may .msix) (_ : p.may .cg) (_ : p.may .firm) (_ : p.may .snapCmp) (_ : p.may .now) :
    State.Kept p (State.separateWrite s tag e) := by
  unfold State.separateWrite
  repeat' first
    | with_reducible assumption
    | (intro x; first
        | (refine (have hx : State.Kept p x := ?_; ?_); subst x; rotate_left; clear_value x; rotate_right)
        | (refine (have hx : State.Kept p x.1 := ?_; ?_); subst x; rotate_left; clear_value x; rotate_right)
        | (try clear_value x))
    | lift_lets -underBinder
    | with_reducible apply State.Kept.ite
    | with_reducible apply State.implicitGroup_kept
    | (with_reducible apply State.Kept.upd_now <;> with_reducible assumption)
    | split

theorem State.separateAfter_kept {s : State} {l : List CEntry} (h : s.Kept p) (_ : p.may .rdata) (_ : p.may .regs) (_ : p.may .logs) (_ : p.may .mem) (_ : p.may .poison) (_ : p.may .upset) (_ : p.may .cells) (_ : p.may .tb) (_ : p.may .evr) (_ : p.may .line) (_ : p.may .auth) (_ : p.may .safe) (_ : p.may .hostEvent) (_ : p.may .frt) (_ : p.may .vats) (_ : p.may .mig) (_ : p.may .harp) (_ : p.may .swaps) (_ : p.may .ing) (_ : p.may .fus) (_ : p.may .slv) (_ : p.may .pln) (_ : p.may .lp) (_ : p.may .tsn) (_ : p.may .xsl) (_ : p.may .fbx) (_ : p.may .wd) (_ : p.may .pwr) (_ : p.may .trace) (_ : p.may .traceDrop) (_ : p.may .msix) (_ : p.may .cg) (_ : p.may .firm) (_ : p.may .snapCmp) (_ : p.may .now) :
    State.Kept p (State.separateAfter s l) := by
  unfold State.separateAfter
  repeat' first
    | with_reducible assumption
    | (intro x; first
        | (refine (have hx : State.Kept p x := ?_; ?_); subst x; rotate_left; clear_value x; rotate_right)
        | (refine (have hx : State.Kept p x.1 := ?_; ?_); subst x; rotate_left; clear_value x; rotate_right)
        | (try clear_value x))
    | lift_lets -underBinder
    | with_reducible apply State.Kept.foldl
    | with_reducible apply State.Kept.foldl_fst
    | with_reducible apply State.implicitGroup_kept
    | split

theorem State.evalGroup_kept {s : State} {bad : Option Nat} {g : CGroup} (h : s.Kept p) (_ : p.may .rdata) (_ : p.may .regs) (_ : p.may .logs) (_ : p.may .mem) (_ : p.may .poison) (_ : p.may .upset) (_ : p.may .cells) (_ : p.may .tb) (_ : p.may .evr) (_ : p.may .line) (_ : p.may .auth) (_ : p.may .safe) (_ : p.may .hostEvent) (_ : p.may .frt) (_ : p.may .vats) (_ : p.may .mig) (_ : p.may .harp) (_ : p.may .swaps) (_ : p.may .ing) (_ : p.may .fus) (_ : p.may .slv) (_ : p.may .pln) (_ : p.may .lp) (_ : p.may .tsn) (_ : p.may .xsl) (_ : p.may .fbx) (_ : p.may .wd) (_ : p.may .pwr) (_ : p.may .trace) (_ : p.may .traceDrop) (_ : p.may .msix) (_ : p.may .cg) (_ : p.may .firm) (_ : p.may .snapCmp) (_ : p.may .now) :
    State.Kept p (State.evalGroup s bad g) := by
  unfold State.evalGroup
  repeat' first
    | with_reducible assumption
    | (intro x; first
        | (refine (have hx : State.Kept p x := ?_; ?_); subst x; rotate_left; clear_value x; rotate_right)
        | (refine (have hx : State.Kept p x.1 := ?_; ?_); subst x; rotate_left; clear_value x; rotate_right)
        | (try clear_value x))
    | lift_lets -underBinder
    | with_reducible apply State.Kept.ite
    | with_reducible apply State.Kept.foldl
    | with_reducible apply State.Kept.foldl_fst
    | with_reducible apply State.groupDone_kept
    | with_reducible apply State.implicitAborts_kept
    | with_reducible apply State.separateAfter_kept
    | with_reducible apply State.groupAborts_kept
    | (with_reducible refine State.runGroup_kept ?_ (by assumption) ‹_› (by with_reducible assumption) (by assumption) ‹_› (by with_reducible assumption) (by assumption) ‹_› (by with_reducible assumption) (by assumption) ‹_› (by with_reducible assumption) (by assumption) ‹_› (by with_reducible assumption) (by assumption) ‹_› (by with_reducible assumption) (by assumption) ‹_› (by with_reducible assumption) (by assumption) ‹_› (by with_reducible assumption) (by assumption) ‹_› (by with_reducible assumption) (by assumption) ‹_› (by with_reducible assumption) (by assumption) ‹_› (by with_reducible assumption) (by assumption) _ (by assumption))
    | split

theorem State.switchStaged_kept {s : State} (h : s.Kept p) (_ : p.may .regs) (_ : p.may .hostEvent) (_ : p.may .frt) (_ : p.may .msix) (_ : p.may .now) :
    State.Kept p (State.switchStaged s) := by
  unfold State.switchStaged
  repeat' first
    | with_reducible assumption
    | (intro x; first
        | (refine (have hx : State.Kept p x := ?_; ?_); subst x; rotate_left; clear_value x; rotate_right)
        | (refine (have hx : State.Kept p x.1 := ?_; ?_); subst x; rotate_left; clear_value x; rotate_right)
        | (try clear_value x))
    | lift_lets -underBinder
    | with_reducible apply State.setReg_kept
    | with_reducible apply State.syncState_kept
    | (with_reducible apply State.Kept.upd_frt <;> with_reducible assumption)
    | split

theorem cgSubmitWriteEffect_kept {value : BitVec 32} {s : State} (h : s.Kept p) (_ : p.may .regs) (_ : p.may .hostEvent) (_ : p.may .frt) (_ : p.may .msix) (_ : p.may .cg) (_ : p.may .now) :
    State.Kept p (cgSubmitWriteEffect value s) := by
  unfold cgSubmitWriteEffect
  repeat' first
    | with_reducible assumption
    | (intro x; first
        | (refine (have hx : State.Kept p x := ?_; ?_); subst x; rotate_left; clear_value x; rotate_right)
        | (refine (have hx : State.Kept p x.1 := ?_; ?_); subst x; rotate_left; clear_value x; rotate_right)
        | (try clear_value x))
    | lift_lets -underBinder
    | with_reducible apply State.Kept.ite
    | with_reducible apply State.setReg_kept
    | with_reducible apply State.modCg_kept
    | with_reducible apply State.cgStatus_kept
    | with_reducible apply State.switchStaged_kept
    | split

theorem State.cancelGroup_kept {s : State} {g : CGroup} (h : s.Kept p) (_ : p.may .regs) (_ : p.may .hostEvent) (_ : p.may .frt) (_ : p.may .msix) (_ : p.may .cg) (_ : p.may .firm) (_ : p.may .now) :
    State.Kept p (State.cancelGroup s g) := by
  unfold State.cancelGroup
  repeat' first
    | with_reducible assumption
    | (intro x; first
        | (refine (have hx : State.Kept p x := ?_; ?_); subst x; rotate_left; clear_value x; rotate_right)
        | (refine (have hx : State.Kept p x.1 := ?_; ?_); subst x; rotate_left; clear_value x; rotate_right)
        | (try clear_value x))
    | lift_lets -underBinder
    | with_reducible apply State.Kept.ite
    | with_reducible apply State.modCg_kept
    | with_reducible apply State.cgStatus_kept
    | with_reducible apply State.settleSwitch_kept
    | with_reducible apply State.tellJob_kept
    | split

theorem cgCancelWriteEffect_kept {k : Fin 8} {value : BitVec 32} {s : State} (h : s.Kept p) (_ : p.may .regs) (_ : p.may .hostEvent) (_ : p.may .frt) (_ : p.may .msix) (_ : p.may .cg) (_ : p.may .firm) (_ : p.may .now) :
    State.Kept p (cgCancelWriteEffect k value s) := by
  unfold cgCancelWriteEffect
  repeat' first
    | with_reducible assumption
    | with_reducible apply State.Kept.ite
    | with_reducible apply State.cancelGroup_kept
    | split

theorem commitPointEffect_kept {k : Fin 8} {s : State} (h : s.Kept p) (_ : p.may .cg) :
    State.Kept p (commitPointEffect k s) := by
  unfold commitPointEffect
  repeat' first
    | with_reducible assumption
    | (intro x; first
        | (refine (have hx : State.Kept p x := ?_; ?_); subst x; rotate_left; clear_value x; rotate_right)
        | (refine (have hx : State.Kept p x.1 := ?_; ?_); subst x; rotate_left; clear_value x; rotate_right)
        | (try clear_value x))
    | lift_lets -underBinder
    | with_reducible apply State.Kept.ite
    | with_reducible apply State.modCg_kept
    | split

theorem commitEvaluateEffect_kept {bad : Option Nat} {s : State} (h : s.Kept p) (_ : p.may .rdata) (_ : p.may .regs) (_ : p.may .logs) (_ : p.may .mem) (_ : p.may .poison) (_ : p.may .upset) (_ : p.may .cells) (_ : p.may .tb) (_ : p.may .evr) (_ : p.may .line) (_ : p.may .auth) (_ : p.may .safe) (_ : p.may .hostEvent) (_ : p.may .frt) (_ : p.may .vats) (_ : p.may .mig) (_ : p.may .harp) (_ : p.may .swaps) (_ : p.may .ing) (_ : p.may .fus) (_ : p.may .slv) (_ : p.may .pln) (_ : p.may .lp) (_ : p.may .tsn) (_ : p.may .xsl) (_ : p.may .fbx) (_ : p.may .wd) (_ : p.may .pwr) (_ : p.may .trace) (_ : p.may .traceDrop) (_ : p.may .msix) (_ : p.may .cg) (_ : p.may .firm) (_ : p.may .snapCmp) (_ : p.may .now) :
    State.Kept p (commitEvaluateEffect bad s) := by
  unfold commitEvaluateEffect
  repeat' first
    | with_reducible assumption
    | (intro x; first
        | (refine (have hx : State.Kept p x := ?_; ?_); subst x; rotate_left; clear_value x; rotate_right)
        | (refine (have hx : State.Kept p x.1 := ?_; ?_); subst x; rotate_left; clear_value x; rotate_right)
        | (try clear_value x))
    | lift_lets -underBinder
    | with_reducible apply State.Kept.ite
    | with_reducible apply State.Kept.foldl
    | with_reducible apply State.Kept.foldl_fst
    | with_reducible apply State.modCg_kept
    | with_reducible apply State.evalGroup_kept
    | with_reducible apply State.modMig_kept
    | split

theorem State.relayPump_kept {s : State} (h : s.Kept p) (_ : p.may .regs) (_ : p.may .cg) (_ : p.may .firm) :
    State.Kept p (State.relayPump s) := by
  unfold State.relayPump
  repeat' first
    | with_reducible assumption
    | (intro x; first
        | (refine (have hx : State.Kept p x := ?_; ?_); subst x; rotate_left; clear_value x; rotate_right)
        | (refine (have hx : State.Kept p x.1 := ?_; ?_); subst x; rotate_left; clear_value x; rotate_right)
        | (try clear_value x))
    | lift_lets -underBinder
    | with_reducible apply State.Kept.ite
    | with_reducible apply State.modCg_kept
    | with_reducible apply State.modFirm_kept
    | with_reducible apply State.cgStatus_kept
    | split

theorem rindGroupApplyEffect_kept {bad : Option Nat} {s : State} (h : s.Kept p) (_ : p.may .rdata) (_ : p.may .regs) (_ : p.may .logs) (_ : p.may .mem) (_ : p.may .poison) (_ : p.may .upset) (_ : p.may .cells) (_ : p.may .tb) (_ : p.may .evr) (_ : p.may .line) (_ : p.may .auth) (_ : p.may .safe) (_ : p.may .hostEvent) (_ : p.may .frt) (_ : p.may .vats) (_ : p.may .mig) (_ : p.may .harp) (_ : p.may .swaps) (_ : p.may .ing) (_ : p.may .fus) (_ : p.may .slv) (_ : p.may .pln) (_ : p.may .lp) (_ : p.may .tsn) (_ : p.may .xsl) (_ : p.may .fbx) (_ : p.may .wd) (_ : p.may .pwr) (_ : p.may .trace) (_ : p.may .traceDrop) (_ : p.may .msix) (_ : p.may .cg) (_ : p.may .firm) (_ : p.may .snapCmp) (_ : p.may .now) :
    State.Kept p (rindGroupApplyEffect bad s) := by
  unfold rindGroupApplyEffect
  repeat' first
    | with_reducible assumption
    | with_reducible apply State.modCg_kept
    | with_reducible apply State.evalGroup_kept
    | with_reducible apply State.relayPump_kept
    | split

theorem registerWriteEffect_kept {tag : Fin 4} {addr : BitVec 48} {width : Nat} {value : BitVec 64} {s : State} (h : s.Kept p) (_ : p.may .rdata) (_ : p.may .regs) (_ : p.may .logs) (_ : p.may .mem) (_ : p.may .poison) (_ : p.may .upset) (_ : p.may .cells) (_ : p.may .tb) (_ : p.may .evr) (_ : p.may .line) (_ : p.may .auth) (_ : p.may .safe) (_ : p.may .hostEvent) (_ : p.may .frt) (_ : p.may .vats) (_ : p.may .mig) (_ : p.may .harp) (_ : p.may .swaps) (_ : p.may .ing) (_ : p.may .fus) (_ : p.may .slv) (_ : p.may .pln) (_ : p.may .lp) (_ : p.may .tsn) (_ : p.may .xsl) (_ : p.may .fbx) (_ : p.may .wd) (_ : p.may .pwr) (_ : p.may .trace) (_ : p.may .traceDrop) (_ : p.may .msix) (_ : p.may .cg) (_ : p.may .firm) (_ : p.may .snapCmp) (_ : p.may .now) :
    State.Kept p (registerWriteEffect tag addr width value s) := by
  unfold registerWriteEffect
  repeat' first
    | with_reducible assumption
    | (intro x; first
        | (refine (have hx : State.Kept p x := ?_; ?_); subst x; rotate_left; clear_value x; rotate_right)
        | (refine (have hx : State.Kept p x.1 := ?_; ?_); subst x; rotate_left; clear_value x; rotate_right)
        | (try clear_value x))
    | lift_lets -underBinder
    | with_reducible apply State.Kept.ite
    | with_reducible apply State.hwSetBit_kept
    | with_reducible apply State.separateWrite_kept
    | with_reducible apply cgCancelWriteEffect_kept
    | with_reducible apply cgSubmitWriteEffect_kept
    | with_reducible apply State.markRefused_kept
    | with_reducible apply State.applyWrite_kept
    | split

theorem eventMarkEffect_kept {value : BitVec 64} {gtag : BitVec 32} {s : State} (h : s.Kept p) (_ : p.may .regs) (_ : p.may .evr) (_ : p.may .hostEvent) (_ : p.may .msix) (_ : p.may .now) :
    State.Kept p (eventMarkEffect value gtag s) := by
  unfold eventMarkEffect
  repeat' first
    | with_reducible assumption
    | with_reducible apply State.mark_kept

theorem mbxIrqWriteEffect_kept {value : BitVec 32} {s : State} (h : s.Kept p) (_ : p.may .regs) (_ : p.may .msix) (_ : p.may .now) :
    State.Kept p (mbxIrqWriteEffect value s) := by
  unfold mbxIrqWriteEffect
  repeat' first
    | with_reducible assumption
    | with_reducible apply State.Kept.ite
    | with_reducible apply State.hwSetBit_kept
    | with_reducible apply State.raiseVector_kept
    | split

end Sys2Proof.Machine
end

