-- ==== Sys2Proof/Laws/KeptMailbox.lean ====
section
/-! SUPPORT. State.Kept through the operations of Machine/Mailbox.lean. -/

set_option linter.all false

namespace Sys2Proof.Machine

variable {p : Promise}

theorem State.setMail_kept {s : State} {m : Nat} {o : Nat} {l : List Byte} (h : s.Kept p) (_ : p.may .firm) :
    State.Kept p (State.setMail s m o l) := by
  unfold State.setMail
  repeat' first
    | with_reducible assumption
    | with_reducible apply State.Kept.ite
    | with_reducible apply State.modFirm_kept
    | split

theorem State.takeBell_kept {s : State} {m : Nat} (h : s.Kept p) (_ : p.may .regs) (_ : p.may .trace) (_ : p.may .traceDrop) (_ : p.may .firm) :
    State.Kept p (State.takeBell s m) := by
  unfold State.takeBell
  repeat' first
    | with_reducible assumption
    | with_reducible apply State.Kept.ite
    | with_reducible apply State.setReg_kept
    | with_reducible apply State.modFirm_kept
    | with_reducible apply State.emit_kept
    | split

theorem State.tellHost_kept {s : State} {m : Nat} (h : s.Kept p) (_ : p.may .msix) :
    State.Kept p (State.tellHost s m) := by
  unfold State.tellHost
  repeat' first
    | with_reducible assumption
    | with_reducible apply State.Kept.ite
    | with_reducible apply State.raiseVector_kept
    | split

theorem State.finishAt_kept {s : State} {m : Nat} {role : Nat} {status : Nat} {detail : Nat} {res : List Byte} {stw : Nat} (h : s.Kept p) (_ : p.may .regs) (_ : p.may .evr) (_ : p.may .hostEvent) (_ : p.may .trace) (_ : p.may .traceDrop) (_ : p.may .msix) (_ : p.may .firm) (_ : p.may .now) :
    State.Kept p (State.finishAt s m role status detail res stw) := by
  unfold State.finishAt
  repeat' first
    | with_reducible assumption
    | (intro x; first
        | (refine (have hx : State.Kept p x := ?_; ?_); subst x; rotate_left; clear_value x; rotate_right)
        | (refine (have hx : State.Kept p x.1 := ?_; ?_); subst x; rotate_left; clear_value x; rotate_right)
        | (try clear_value x))
    | lift_lets -underBinder
    | with_reducible apply State.Kept.ite
    | with_reducible apply State.post_kept
    | with_reducible apply State.tellHost_kept
    | with_reducible apply State.setRegBit_kept
    | with_reducible apply State.setMail_kept
    | with_reducible apply State.emit_kept
    | split

theorem State.finish_kept {s : State} {m : Nat} {status : Nat} {detail : Nat} {res : List Byte} (h : s.Kept p) (_ : p.may .regs) (_ : p.may .evr) (_ : p.may .hostEvent) (_ : p.may .trace) (_ : p.may .traceDrop) (_ : p.may .msix) (_ : p.may .firm) (_ : p.may .now) :
    State.Kept p (State.finish s m status detail res) := by
  unfold State.finish
  repeat' first
    | with_reducible assumption
    | with_reducible apply State.finishAt_kept

theorem State.conflict_kept {s : State} {m : Nat} {blk : Nat} {obj : Nat} (h : s.Kept p) (_ : p.may .regs) (_ : p.may .evr) (_ : p.may .hostEvent) (_ : p.may .trace) (_ : p.may .traceDrop) (_ : p.may .msix) (_ : p.may .firm) (_ : p.may .now) :
    State.Kept p (State.conflict s m blk obj) := by
  unfold State.conflict
  repeat' first
    | with_reducible assumption
    | with_reducible apply State.finish_kept

theorem State.drainOnce_kept {a1_ : Nat} {a2_ : State} (h : a2_.Kept p) (_ : p.may .regs) (_ : p.may .evr) (_ : p.may .hostEvent) (_ : p.may .trace) (_ : p.may .traceDrop) (_ : p.may .msix) (_ : p.may .firm) (_ : p.may .now) :
    State.Kept p (State.drainOnce a1_ a2_) := by
  induction a1_ generalizing a2_ with
  | zero =>
    unfold State.drainOnce
    repeat' first
      | with_reducible assumption
      | with_reducible apply State.Kept.ite
      | with_reducible apply State.finish_kept
      | with_reducible apply State.takeBell_kept
      | split
  | succ n_ ih =>
    unfold State.drainOnce
    repeat' first
      | with_reducible apply ih
      | with_reducible assumption
      | with_reducible apply State.Kept.ite
      | with_reducible apply State.finish_kept
      | with_reducible apply State.takeBell_kept
      | split

theorem State.romDrain_kept {s : State} (h : s.Kept p) (_ : p.may .regs) (_ : p.may .evr) (_ : p.may .hostEvent) (_ : p.may .trace) (_ : p.may .traceDrop) (_ : p.may .msix) (_ : p.may .firm) (_ : p.may .now) :
    State.Kept p (State.romDrain s) := by
  unfold State.romDrain
  repeat' first
    | with_reducible assumption
    | with_reducible apply State.Kept.ite
    | with_reducible apply State.finish_kept
    | with_reducible apply State.takeBell_kept
    | split

theorem State.drain_kept {s : State} (h : s.Kept p) (_ : p.may .regs) (_ : p.may .evr) (_ : p.may .hostEvent) (_ : p.may .trace) (_ : p.may .traceDrop) (_ : p.may .msix) (_ : p.may .firm) (_ : p.may .now) :
    State.Kept p (State.drain s) := by
  unfold State.drain
  repeat' first
    | with_reducible assumption
    | with_reducible apply State.Kept.ite
    | with_reducible apply State.drainOnce_kept
    | with_reducible apply State.romDrain_kept
    | split

theorem State.serve_kept {s : State} {m : Nat} {op : Nat} {need : State → Need} {ok : State → Bool} {act : State → State} (h : s.Kept p) (hact : ∀ (t : State), t.Kept p → State.Kept p (act t )) (_ : p.may .regs) (_ : p.may .evr) (_ : p.may .hostEvent) (_ : p.may .trace) (_ : p.may .traceDrop) (_ : p.may .msix) (_ : p.may .firm) (_ : p.may .now) :
    State.Kept p (State.serve s m op need ok act) := by
  unfold State.serve
  repeat' first
    | with_reducible assumption
    | (intro x; first
        | (refine (have hx : State.Kept p x := ?_; ?_); subst x; rotate_left; clear_value x; rotate_right)
        | (refine (have hx : State.Kept p x.1 := ?_; ?_); subst x; rotate_left; clear_value x; rotate_right)
        | (try clear_value x))
    | lift_lets -underBinder
    | with_reducible apply State.Kept.ite
    | with_reducible apply hact
    | with_reducible apply State.finish_kept
    | with_reducible apply State.takeBell_kept
    | with_reducible apply State.drain_kept
    | split

theorem State.accept_kept {s : State} {m : Nat} {args : List Nat} {data : List Byte} {group : Option Nat} (h : s.Kept p) (_ : p.may .msix) (_ : p.may .firm) :
    State.Kept p (State.accept s m args data group) := by
  unfold State.accept
  repeat' first
    | with_reducible assumption
    | (intro x; first
        | (refine (have hx : State.Kept p x := ?_; ?_); subst x; rotate_left; clear_value x; rotate_right)
        | (refine (have hx : State.Kept p x.1 := ?_; ?_); subst x; rotate_left; clear_value x; rotate_right)
        | (try clear_value x))
    | lift_lets -underBinder
    | with_reducible apply State.Kept.ite
    | with_reducible apply State.modFirm_kept
    | with_reducible apply State.setMail_kept
    | with_reducible apply State.raiseVector_kept
    | split

theorem hostDoorbellEffect_kept {m : Fin 16} {s : State} (h : s.Kept p) (_ : p.may .regs) (_ : p.may .evr) (_ : p.may .hostEvent) (_ : p.may .trace) (_ : p.may .traceDrop) (_ : p.may .msix) (_ : p.may .firm) (_ : p.may .now) :
    State.Kept p (hostDoorbellEffect m s) := by
  unfold hostDoorbellEffect
  repeat' first
    | with_reducible assumption
    | with_reducible apply State.Kept.ite
    | with_reducible apply State.hwSetBit_kept
    | with_reducible apply State.noteSet_kept
    | with_reducible apply State.setReg_kept
    | with_reducible apply State.modFirm_kept
    | with_reducible apply State.setMail_kept
    | with_reducible apply State.drain_kept
    | (with_reducible apply State.Kept.upd_firm <;> with_reducible assumption)
    | split

theorem State.hostByte_kept {s : State} {o : Nat} {b : Byte} (h : s.Kept p) (_ : p.may .hostEvent) (_ : p.may .firm) :
    State.Kept p (State.hostByte s o b) := by
  unfold State.hostByte
  repeat' first
    | with_reducible assumption
    | (intro x; first
        | (refine (have hx : State.Kept p x := ?_; ?_); subst x; rotate_left; clear_value x; rotate_right)
        | (refine (have hx : State.Kept p x.1 := ?_; ?_); subst x; rotate_left; clear_value x; rotate_right)
        | (try clear_value x))
    | lift_lets -underBinder
    | with_reducible apply State.Kept.ite
    | with_reducible apply State.modFirm_kept
    | with_reducible apply State.setMail_kept
    | (with_reducible apply State.Kept.upd_hostEvent <;> with_reducible assumption)
    | split

theorem State.hostWrite_kept {s : State} {a1_ : Nat} {a2_ : List Byte} (h : s.Kept p) (_ : p.may .hostEvent) (_ : p.may .firm) :
    State.Kept p (State.hostWrite s a1_ a2_) := by
  induction a2_ generalizing s a1_ with
  | nil =>
    unfold State.hostWrite
    repeat' first
      | with_reducible assumption
      | with_reducible apply State.hostByte_kept
  | cons y_ l_ ih =>
    unfold State.hostWrite
    repeat' first
      | with_reducible apply ih
      | with_reducible assumption
      | with_reducible apply State.hostByte_kept

theorem hostMailboxWriteEffect_kept {off : BitVec 17} {data : List Byte} {s : State} (h : s.Kept p) (_ : p.may .hostEvent) (_ : p.may .firm) :
    State.Kept p (hostMailboxWriteEffect off data s) := by
  unfold hostMailboxWriteEffect
  repeat' first
    | with_reducible assumption
    | with_reducible apply State.hostWrite_kept

theorem identifyEffect_kept {m : Fin 16} {s : State} (h : s.Kept p) (_ : p.may .regs) (_ : p.may .evr) (_ : p.may .hostEvent) (_ : p.may .trace) (_ : p.may .traceDrop) (_ : p.may .msix) (_ : p.may .firm) (_ : p.may .now) :
    State.Kept p (identifyEffect m s) := by
  unfold identifyEffect
  repeat' first
    | with_reducible assumption
    | (intro x; first
        | (refine (have hx : State.Kept p x := ?_; ?_); subst x; rotate_left; clear_value x; rotate_right)
        | (refine (have hx : State.Kept p x.1 := ?_; ?_); subst x; rotate_left; clear_value x; rotate_right)
        | (try clear_value x))
    | lift_lets -underBinder
    | with_reducible apply State.Kept.ite
    | with_reducible apply State.serve_kept
    | with_reducible apply State.finish_kept
    | with_reducible apply State.takeBell_kept
    | split

theorem getStateEffect_kept {m : Fin 16} {s : State} (h : s.Kept p) (_ : p.may .regs) (_ : p.may .evr) (_ : p.may .hostEvent) (_ : p.may .trace) (_ : p.may .traceDrop) (_ : p.may .msix) (_ : p.may .firm) (_ : p.may .now) :
    State.Kept p (getStateEffect m s) := by
  unfold getStateEffect
  repeat' first
    | with_reducible assumption
    | (intro x; first
        | (refine (have hx : State.Kept p x := ?_; ?_); subst x; rotate_left; clear_value x; rotate_right)
        | (refine (have hx : State.Kept p x.1 := ?_; ?_); subst x; rotate_left; clear_value x; rotate_right)
        | (try clear_value x))
    | lift_lets -underBinder
    | with_reducible apply State.serve_kept
    | with_reducible apply State.finish_kept

theorem State.sessionRecord_kept {s : State} {op : Nat} {m : Nat} {ev : Nat} {role : Nat} {key : Nat} (h : s.Kept p) (_ : p.may .regs) (_ : p.may .evr) (_ : p.may .hostEvent) (_ : p.may .msix) (_ : p.may .now) :
    State.Kept p (State.sessionRecord s op m ev role key) := by
  unfold State.sessionRecord
  repeat' first
    | with_reducible assumption
    | with_reducible apply State.post_kept

theorem State.endSession_kept {s : State} {op : Nat} {ev : Nat} {m : Nat} (h : s.Kept p) (_ : p.may .regs) (_ : p.may .evr) (_ : p.may .hostEvent) (_ : p.may .msix) (_ : p.may .firm) (_ : p.may .now) :
    State.Kept p (State.endSession s op ev m) := by
  unfold State.endSession
  repeat' first
    | with_reducible assumption
    | with_reducible apply State.modFirm_kept
    | with_reducible apply State.sessionRecord_kept
    | split

theorem State.lapse_kept {s : State} {m : Nat} (h : s.Kept p) (_ : p.may .regs) (_ : p.may .evr) (_ : p.may .hostEvent) (_ : p.may .msix) (_ : p.may .firm) (_ : p.may .now) :
    State.Kept p (State.lapse s m) := by
  unfold State.lapse
  repeat' first
    | with_reducible assumption
    | with_reducible apply State.Kept.ite
    | with_reducible apply State.endSession_kept
    | split

theorem sessionChallengeEffect_kept {m : Fin 16} {nonce : BitVec 256} {s : State} (h : s.Kept p) (_ : p.may .regs) (_ : p.may .evr) (_ : p.may .hostEvent) (_ : p.may .trace) (_ : p.may .traceDrop) (_ : p.may .msix) (_ : p.may .firm) (_ : p.may .now) :
    State.Kept p (sessionChallengeEffect m nonce s) := by
  unfold sessionChallengeEffect
  repeat' first
    | with_reducible assumption
    | (intro x; first
        | (refine (have hx : State.Kept p x := ?_; ?_); subst x; rotate_left; clear_value x; rotate_right)
        | (refine (have hx : State.Kept p x.1 := ?_; ?_); subst x; rotate_left; clear_value x; rotate_right)
        | (try clear_value x))
    | lift_lets -underBinder
    | with_reducible apply State.Kept.ite
    | with_reducible apply State.serve_kept
    | with_reducible apply State.modFirm_kept
    | with_reducible apply State.lapse_kept
    | with_reducible apply State.finish_kept
    | with_reducible apply State.sessionRecord_kept
    | split

theorem State.sessionFails_kept {s : State} {m : Nat} (h : s.Kept p) (_ : p.may .firm) :
    State.Kept p (State.sessionFails s m) := by
  unfold State.sessionFails
  repeat' first
    | with_reducible assumption
    | (intro x; first
        | (refine (have hx : State.Kept p x := ?_; ?_); subst x; rotate_left; clear_value x; rotate_right)
        | (refine (have hx : State.Kept p x.1 := ?_; ?_); subst x; rotate_left; clear_value x; rotate_right)
        | (try clear_value x))
    | lift_lets -underBinder
    | with_reducible apply State.Kept.ite
    | with_reducible apply State.modFirm_kept
    | split

theorem sessionOpenEffect_kept {m : Fin 16} {s : State} (h : s.Kept p) (_ : p.may .regs) (_ : p.may .evr) (_ : p.may .hostEvent) (_ : p.may .trace) (_ : p.may .traceDrop) (_ : p.may .msix) (_ : p.may .firm) (_ : p.may .now) :
    State.Kept p (sessionOpenEffect m s) := by
  unfold sessionOpenEffect
  repeat' first
    | with_reducible assumption
    | (intro x; first
        | (refine (have hx : State.Kept p x := ?_; ?_); subst x; rotate_left; clear_value x; rotate_right)
        | (refine (have hx : State.Kept p x.1 := ?_; ?_); subst x; rotate_left; clear_value x; rotate_right)
        | (try clear_value x))
    | lift_lets -underBinder
    | with_reducible apply State.Kept.ite
    | with_reducible apply State.serve_kept
    | with_reducible apply State.modFirm_kept
    | with_reducible apply State.sessionFails_kept
    | with_reducible apply State.lapse_kept
    | with_reducible apply State.finish_kept
    | with_reducible apply State.sessionRecord_kept
    | split

theorem sessionCloseEffect_kept {m : Fin 16} {s : State} (h : s.Kept p) (_ : p.may .regs) (_ : p.may .evr) (_ : p.may .hostEvent) (_ : p.may .trace) (_ : p.may .traceDrop) (_ : p.may .msix) (_ : p.may .firm) (_ : p.may .now) :
    State.Kept p (sessionCloseEffect m s) := by
  unfold sessionCloseEffect
  repeat' first
    | with_reducible assumption
    | (intro x; first
        | (refine (have hx : State.Kept p x := ?_; ?_); subst x; rotate_left; clear_value x; rotate_right)
        | (refine (have hx : State.Kept p x.1 := ?_; ?_); subst x; rotate_left; clear_value x; rotate_right)
        | (try clear_value x))
    | lift_lets -underBinder
    | with_reducible apply State.serve_kept
    | with_reducible apply State.finishAt_kept
    | with_reducible apply State.endSession_kept

theorem sessionExpiryEffect_kept {m : Fin 16} {s : State} (h : s.Kept p) (_ : p.may .regs) (_ : p.may .evr) (_ : p.may .hostEvent) (_ : p.may .msix) (_ : p.may .firm) (_ : p.may .now) :
    State.Kept p (sessionExpiryEffect m s) := by
  unfold sessionExpiryEffect
  repeat' first
    | with_reducible assumption
    | with_reducible apply State.Kept.ite
    | with_reducible apply State.endSession_kept
    | split

theorem sessionLockoutEndEffect_kept {m : Fin 16} {s : State} (h : s.Kept p) (_ : p.may .firm) :
    State.Kept p (sessionLockoutEndEffect m s) := by
  unfold sessionLockoutEndEffect
  repeat' first
    | with_reducible assumption
    | with_reducible apply State.Kept.ite
    | with_reducible apply State.modFirm_kept
    | split

theorem State.endInvalid_kept {s : State} (h : s.Kept p) (_ : p.may .regs) (_ : p.may .evr) (_ : p.may .hostEvent) (_ : p.may .msix) (_ : p.may .firm) (_ : p.may .now) :
    State.Kept p (State.endInvalid s) := by
  unfold State.endInvalid
  repeat' first
    | with_reducible assumption
    | (intro x; first
        | (refine (have hx : State.Kept p x := ?_; ?_); subst x; rotate_left; clear_value x; rotate_right)
        | (refine (have hx : State.Kept p x.1 := ?_; ?_); subst x; rotate_left; clear_value x; rotate_right)
        | (try clear_value x))
    | lift_lets -underBinder
    | with_reducible apply State.Kept.foldl
    | with_reducible apply State.Kept.foldl_fst
    | with_reducible apply State.endSession_kept

theorem State.coreRead_kept {s : State} {k : Nat} (h : s.Kept p) (_ : p.may .regs) (_ : p.may .logs) (_ : p.may .tb) (_ : p.may .evr) (_ : p.may .diag) (_ : p.may .trace) (_ : p.may .traceDrop) :
    State.Kept p (State.coreRead s k).1 := by
  unfold State.coreRead
  repeat' first
    | with_reducible assumption
    | (intro x; first
        | (refine (have hx : State.Kept p x := ?_; ?_); subst x; rotate_left; clear_value x; rotate_right)
        | (refine (have hx : State.Kept p x.1 := ?_; ?_); subst x; rotate_left; clear_value x; rotate_right)
        | (try clear_value x))
    | lift_lets -underBinder
    | with_reducible apply State.Kept.ite
    | with_reducible apply State.readEffect_kept
    | with_reducible apply State.journalRead_kept
    | (with_reducible apply State.Kept.upd_diag <;> with_reducible assumption)
    | split

theorem State.mgmtRead_kept {s : State} {a : Nat} (h : s.Kept p) (_ : p.may .regs) (_ : p.may .logs) (_ : p.may .tb) (_ : p.may .evr) (_ : p.may .diag) (_ : p.may .trace) (_ : p.may .traceDrop) (_ : p.may .now) :
    State.Kept p (State.mgmtRead s a).1 := by
  generalize e : State.mgmtRead s a = t
  unfold State.mgmtRead at e
  try dsimp only at e
  repeat' split at e
  all_goals subst e
  repeat' first
    | with_reducible assumption
    | intro x
    | dsimp only
    | with_reducible apply State.Kept.ite
    | with_reducible apply State.Kept.foldl
    | with_reducible apply State.Kept.foldl_fst
    | with_reducible apply State.hwSetBit_kept
    | with_reducible apply State.coreRead_kept
    | split

theorem State.mgmtReads_kept {s : State} {a1_ : List Nat} (h : s.Kept p) (_ : p.may .regs) (_ : p.may .logs) (_ : p.may .tb) (_ : p.may .evr) (_ : p.may .diag) (_ : p.may .trace) (_ : p.may .traceDrop) (_ : p.may .now) :
    State.Kept p (State.mgmtReads s a1_).1 := by
  induction a1_ generalizing s with
  | nil =>
    unfold State.mgmtReads
    repeat' first
      | with_reducible assumption
      | (intro x; first
          | (refine (have hx : State.Kept p x := ?_; ?_); subst x; rotate_left; clear_value x; rotate_right)
          | (refine (have hx : State.Kept p x.1 := ?_; ?_); subst x; rotate_left; clear_value x; rotate_right)
          | (try clear_value x))
      | lift_lets -underBinder
      | with_reducible apply State.mgmtRead_kept
  | cons y_ l_ ih =>
    unfold State.mgmtReads
    repeat' first
      | with_reducible apply ih
      | with_reducible assumption
      | (intro x; first
          | (refine (have hx : State.Kept p x := ?_; ?_); subst x; rotate_left; clear_value x; rotate_right)
          | (refine (have hx : State.Kept p x.1 := ?_; ?_); subst x; rotate_left; clear_value x; rotate_right)
          | (try clear_value x))
      | lift_lets -underBinder
      | with_reducible apply State.mgmtRead_kept

theorem regReadEffect_kept {m : Fin 16} {s : State} (h : s.Kept p) (_ : p.may .regs) (_ : p.may .logs) (_ : p.may .tb) (_ : p.may .evr) (_ : p.may .hostEvent) (_ : p.may .diag) (_ : p.may .trace) (_ : p.may .traceDrop) (_ : p.may .msix) (_ : p.may .firm) (_ : p.may .now) :
    State.Kept p (regReadEffect m s) := by
  unfold regReadEffect
  repeat' first
    | with_reducible assumption
    | (intro x; first
        | (refine (have hx : State.Kept p x := ?_; ?_); subst x; rotate_left; clear_value x; rotate_right)
        | (refine (have hx : State.Kept p x.1 := ?_; ?_); subst x; rotate_left; clear_value x; rotate_right)
        | (try clear_value x))
    | lift_lets -underBinder
    | with_reducible apply State.Kept.ite
    | with_reducible apply State.serve_kept
    | with_reducible apply State.mgmtReads_kept
    | with_reducible apply State.finish_kept
    | split

theorem State.readEvents_kept {n : Nat} {s : State} (h : s.Kept p) (_ : p.may .regs) (_ : p.may .logs) (_ : p.may .tb) (_ : p.may .evr) (_ : p.may .diag) (_ : p.may .trace) (_ : p.may .traceDrop) : (State.readEvents n s).1.Kept p := by
  induction n generalizing s with
  | zero => exact h
  | succ n ih =>
    have ht : (s.coreRead (Reg.EVR_WIN_F 7)).1.Kept p := by apply State.coreRead_kept <;> with_reducible assumption
    generalize e : State.readEvents (n + 1) s = r
    unfold State.readEvents at e
    generalize (State.coreRead s (Reg.EVR_WIN_F 7)).1 = t at ht e
    dsimp only at e
    split at e <;> subst e
    · exact ht
    · exact ih ht


theorem eventReadEffect_kept {m : Fin 16} {s : State} (h : s.Kept p) (_ : p.may .regs) (_ : p.may .logs) (_ : p.may .tb) (_ : p.may .evr) (_ : p.may .hostEvent) (_ : p.may .diag) (_ : p.may .trace) (_ : p.may .traceDrop) (_ : p.may .msix) (_ : p.may .firm) (_ : p.may .now) :
    State.Kept p (eventReadEffect m s) := by
  unfold eventReadEffect
  repeat' first
    | with_reducible assumption
    | (intro x; first
        | (refine (have hx : State.Kept p x := ?_; ?_); subst x; rotate_left; clear_value x; rotate_right)
        | (refine (have hx : State.Kept p x.1 := ?_; ?_); subst x; rotate_left; clear_value x; rotate_right)
        | (try clear_value x))
    | lift_lets -underBinder
    | with_reducible apply State.Kept.ite
    | with_reducible apply State.serve_kept
    | with_reducible apply State.coreRead_kept
    | with_reducible apply State.finish_kept
    | with_reducible apply State.readEvents_kept
    | (with_reducible apply State.Kept.upd_evr <;> with_reducible assumption)
    | split

theorem snapshotEffect_kept {m : Fin 16} {s : State} (h : s.Kept p) (_ : p.may .regs) (_ : p.may .evr) (_ : p.may .hostEvent) (_ : p.may .trace) (_ : p.may .traceDrop) (_ : p.may .msix) (_ : p.may .firm) (_ : p.may .now) :
    State.Kept p (snapshotEffect m s) := by
  unfold snapshotEffect
  repeat' first
    | with_reducible assumption
    | (intro x; first
        | (refine (have hx : State.Kept p x := ?_; ?_); subst x; rotate_left; clear_value x; rotate_right)
        | (refine (have hx : State.Kept p x.1 := ?_; ?_); subst x; rotate_left; clear_value x; rotate_right)
        | (try clear_value x))
    | lift_lets -underBinder
    | with_reducible apply State.Kept.ite
    | with_reducible apply State.conflict_kept
    | with_reducible apply State.serve_kept
    | with_reducible apply State.snapshotFire_kept
    | with_reducible apply State.finish_kept
    | split

end Sys2Proof.Machine
end

