-- ==== Sys2Proof/Laws/KeptCommands.lean ====
section
/-! SUPPORT. State.Kept through the operations of Machine/Commands.lean. -/

set_option linter.all false

namespace Sys2Proof.Machine

variable {p : Promise}

theorem State.stageGroup_kept {s : State} {l : List Byte} {tag : Nat} (h : s.Kept p) (_ : p.may .regs) :
    State.Kept p (State.stageGroup s l tag) := by
  unfold State.stageGroup
  repeat' first
    | with_reducible assumption
    | (intro x; first
        | (refine (have hx : State.Kept p x := ?_; ?_); subst x; rotate_left; clear_value x; rotate_right)
        | (refine (have hx : State.Kept p x.1 := ?_; ?_); subst x; rotate_left; clear_value x; rotate_right)
        | (try clear_value x))
    | lift_lets -underBinder
    | with_reducible apply State.Kept.foldl
    | with_reducible apply State.Kept.foldl_fst
    | with_reducible apply State.setReg_kept

theorem State.submit_kept {s : State} {l : List Byte} {tag : Nat} (h : s.Kept p) (_ : p.may .regs) (_ : p.may .hostEvent) (_ : p.may .frt) (_ : p.may .msix) (_ : p.may .cg) (_ : p.may .now) :
    ∀ r_, (State.submit s l tag) = .inr r_ → State.Kept p r_.1 := by
  intro t e
  unfold State.submit at e
  try dsimp only at e
  repeat' (first | (cases e; done) | split at e)
  all_goals (try cases e)
  repeat' first
    | with_reducible assumption
    | with_reducible apply State.Kept.ite
    | with_reducible apply cgSubmitWriteEffect_kept
    | with_reducible apply State.stageGroup_kept
    | split

theorem State.submitFor_kept {s : State} {m : Nat} {l : List Byte} {tag : Nat} {args : List Nat} (h : s.Kept p) (_ : p.may .regs) (_ : p.may .evr) (_ : p.may .hostEvent) (_ : p.may .frt) (_ : p.may .trace) (_ : p.may .traceDrop) (_ : p.may .msix) (_ : p.may .cg) (_ : p.may .firm) (_ : p.may .now) :
    State.Kept p (State.submitFor s m l tag args) := by
  unfold State.submitFor
  repeat' first
    | with_reducible assumption
    | with_reducible apply State.finish_kept
    | (with_reducible refine State.submit_kept ?_ (by assumption) ‹_› (by with_reducible assumption) (by assumption) ‹_› (by with_reducible assumption) _ (by assumption))
    | with_reducible apply State.accept_kept
    | split

theorem cgSubmitEffect_kept {m : Fin 16} {s : State} (h : s.Kept p) (_ : p.may .regs) (_ : p.may .evr) (_ : p.may .hostEvent) (_ : p.may .frt) (_ : p.may .trace) (_ : p.may .traceDrop) (_ : p.may .msix) (_ : p.may .cg) (_ : p.may .firm) (_ : p.may .now) :
    State.Kept p (cgSubmitEffect m s) := by
  unfold cgSubmitEffect
  repeat' first
    | with_reducible assumption
    | (intro x; first
        | (refine (have hx : State.Kept p x := ?_; ?_); subst x; rotate_left; clear_value x; rotate_right)
        | (refine (have hx : State.Kept p x.1 := ?_; ?_); subst x; rotate_left; clear_value x; rotate_right)
        | (try clear_value x))
    | lift_lets -underBinder
    | with_reducible apply State.serve_kept
    | with_reducible apply State.submitFor_kept

theorem cgCancelEffect_kept {m : Fin 16} {s : State} (h : s.Kept p) (_ : p.may .regs) (_ : p.may .evr) (_ : p.may .hostEvent) (_ : p.may .frt) (_ : p.may .trace) (_ : p.may .traceDrop) (_ : p.may .msix) (_ : p.may .cg) (_ : p.may .firm) (_ : p.may .now) :
    State.Kept p (cgCancelEffect m s) := by
  unfold cgCancelEffect
  repeat' first
    | with_reducible assumption
    | (intro x; first
        | (refine (have hx : State.Kept p x := ?_; ?_); subst x; rotate_left; clear_value x; rotate_right)
        | (refine (have hx : State.Kept p x.1 := ?_; ?_); subst x; rotate_left; clear_value x; rotate_right)
        | (try clear_value x))
    | lift_lets -underBinder
    | with_reducible apply State.conflict_kept
    | with_reducible apply State.cancelGroup_kept
    | with_reducible apply State.serve_kept
    | with_reducible apply State.finish_kept
    | split

theorem workloadDefineEffect_kept {m : Fin 16} {s : State} (h : s.Kept p) (_ : p.may .regs) (_ : p.may .evr) (_ : p.may .hostEvent) (_ : p.may .trace) (_ : p.may .traceDrop) (_ : p.may .msix) (_ : p.may .firm) (_ : p.may .now) :
    State.Kept p (workloadDefineEffect m s) := by
  unfold workloadDefineEffect
  repeat' first
    | with_reducible assumption
    | (intro x; first
        | (refine (have hx : State.Kept p x := ?_; ?_); subst x; rotate_left; clear_value x; rotate_right)
        | (refine (have hx : State.Kept p x.1 := ?_; ?_); subst x; rotate_left; clear_value x; rotate_right)
        | (try clear_value x))
    | lift_lets -underBinder
    | with_reducible apply State.Kept.ite
    | with_reducible apply State.conflict_kept
    | with_reducible apply State.serve_kept
    | with_reducible apply State.modFirm_kept
    | with_reducible apply State.finish_kept
    | split

theorem State.runWorkload_kept {s : State} {m : Nat} {start : Bool} (h : s.Kept p) (_ : p.may .regs) (_ : p.may .evr) (_ : p.may .hostEvent) (_ : p.may .frt) (_ : p.may .trace) (_ : p.may .traceDrop) (_ : p.may .msix) (_ : p.may .cg) (_ : p.may .firm) (_ : p.may .now) :
    State.Kept p (State.runWorkload s m start) := by
  unfold State.runWorkload
  repeat' first
    | with_reducible assumption
    | (intro x; first
        | (refine (have hx : State.Kept p x := ?_; ?_); subst x; rotate_left; clear_value x; rotate_right)
        | (refine (have hx : State.Kept p x.1 := ?_; ?_); subst x; rotate_left; clear_value x; rotate_right)
        | (try clear_value x))
    | lift_lets -underBinder
    | with_reducible apply State.Kept.ite
    | with_reducible apply State.submitFor_kept
    | with_reducible apply State.finish_kept
    | split

theorem workloadStartEffect_kept {m : Fin 16} {s : State} (h : s.Kept p) (_ : p.may .regs) (_ : p.may .evr) (_ : p.may .hostEvent) (_ : p.may .frt) (_ : p.may .trace) (_ : p.may .traceDrop) (_ : p.may .msix) (_ : p.may .cg) (_ : p.may .firm) (_ : p.may .now) :
    State.Kept p (workloadStartEffect m s) := by
  unfold workloadStartEffect
  repeat' first
    | with_reducible assumption
    | (intro x; first
        | (refine (have hx : State.Kept p x := ?_; ?_); subst x; rotate_left; clear_value x; rotate_right)
        | (refine (have hx : State.Kept p x.1 := ?_; ?_); subst x; rotate_left; clear_value x; rotate_right)
        | (try clear_value x))
    | lift_lets -underBinder
    | with_reducible apply State.serve_kept
    | with_reducible apply State.runWorkload_kept

theorem workloadStopEffect_kept {m : Fin 16} {s : State} (h : s.Kept p) (_ : p.may .regs) (_ : p.may .evr) (_ : p.may .hostEvent) (_ : p.may .frt) (_ : p.may .trace) (_ : p.may .traceDrop) (_ : p.may .msix) (_ : p.may .cg) (_ : p.may .firm) (_ : p.may .now) :
    State.Kept p (workloadStopEffect m s) := by
  unfold workloadStopEffect
  repeat' first
    | with_reducible assumption
    | (intro x; first
        | (refine (have hx : State.Kept p x := ?_; ?_); subst x; rotate_left; clear_value x; rotate_right)
        | (refine (have hx : State.Kept p x.1 := ?_; ?_); subst x; rotate_left; clear_value x; rotate_right)
        | (try clear_value x))
    | lift_lets -underBinder
    | with_reducible apply State.serve_kept
    | with_reducible apply State.runWorkload_kept

theorem State.ownWrite_kept {s : State} {k : Nat} {w : Nat} {v : Nat} (h : s.Kept p) (_ : p.may .rdata) (_ : p.may .regs) (_ : p.may .logs) (_ : p.may .mem) (_ : p.may .poison) (_ : p.may .upset) (_ : p.may .cells) (_ : p.may .tb) (_ : p.may .evr) (_ : p.may .line) (_ : p.may .auth) (_ : p.may .safe) (_ : p.may .hostEvent) (_ : p.may .frt) (_ : p.may .vats) (_ : p.may .mig) (_ : p.may .harp) (_ : p.may .swaps) (_ : p.may .ing) (_ : p.may .fus) (_ : p.may .slv) (_ : p.may .pln) (_ : p.may .lp) (_ : p.may .tsn) (_ : p.may .xsl) (_ : p.may .fbx) (_ : p.may .wd) (_ : p.may .pwr) (_ : p.may .trace) (_ : p.may .traceDrop) (_ : p.may .msix) (_ : p.may .cg) (_ : p.may .firm) (_ : p.may .snapCmp) (_ : p.may .now) :
    State.Kept p (State.ownWrite s k w v) := by
  unfold State.ownWrite
  repeat' first
    | with_reducible assumption
    | with_reducible apply State.Kept.ite
    | with_reducible apply State.implicitGroup_kept
    | split

theorem handbackEffect_kept {m : Fin 16} {s : State} (h : s.Kept p) (_ : p.may .rdata) (_ : p.may .regs) (_ : p.may .logs) (_ : p.may .mem) (_ : p.may .poison) (_ : p.may .upset) (_ : p.may .cells) (_ : p.may .tb) (_ : p.may .evr) (_ : p.may .line) (_ : p.may .auth) (_ : p.may .safe) (_ : p.may .hostEvent) (_ : p.may .frt) (_ : p.may .vats) (_ : p.may .mig) (_ : p.may .harp) (_ : p.may .swaps) (_ : p.may .ing) (_ : p.may .fus) (_ : p.may .slv) (_ : p.may .pln) (_ : p.may .lp) (_ : p.may .tsn) (_ : p.may .xsl) (_ : p.may .fbx) (_ : p.may .wd) (_ : p.may .pwr) (_ : p.may .trace) (_ : p.may .traceDrop) (_ : p.may .msix) (_ : p.may .cg) (_ : p.may .firm) (_ : p.may .snapCmp) (_ : p.may .now) :
    State.Kept p (handbackEffect m s) := by
  unfold handbackEffect
  repeat' first
    | with_reducible assumption
    | (intro x; first
        | (refine (have hx : State.Kept p x := ?_; ?_); subst x; rotate_left; clear_value x; rotate_right)
        | (refine (have hx : State.Kept p x.1 := ?_; ?_); subst x; rotate_left; clear_value x; rotate_right)
        | (try clear_value x))
    | lift_lets -underBinder
    | with_reducible apply State.Kept.ite
    | with_reducible apply State.conflict_kept
    | with_reducible apply State.serve_kept
    | with_reducible apply State.ownWrite_kept
    | with_reducible apply State.accept_kept
    | split

theorem fbRelayEffect_kept {m : Fin 16} {s : State} (h : s.Kept p) (_ : p.may .regs) (_ : p.may .evr) (_ : p.may .hostEvent) (_ : p.may .trace) (_ : p.may .traceDrop) (_ : p.may .msix) (_ : p.may .firm) (_ : p.may .now) :
    State.Kept p (fbRelayEffect m s) := by
  unfold fbRelayEffect
  repeat' first
    | with_reducible assumption
    | (intro x; first
        | (refine (have hx : State.Kept p x := ?_; ?_); subst x; rotate_left; clear_value x; rotate_right)
        | (refine (have hx : State.Kept p x.1 := ?_; ?_); subst x; rotate_left; clear_value x; rotate_right)
        | (try clear_value x))
    | lift_lets -underBinder
    | with_reducible apply State.Kept.ite
    | with_reducible apply State.conflict_kept
    | with_reducible apply State.serve_kept
    | with_reducible apply State.modFirm_kept
    | with_reducible apply State.finish_kept
    | split

theorem State.modKeep_kept {s : State} {f : Keep → Keep} (h : s.Kept p) (m : p.may .keep) (hf : s.keep.fusesLe (f s.keep) = true) : (s.modKeep f).Kept p :=
  h.withKeep m hf


theorem keyAddEffect_kept {m : Fin 16} {s : State} (h : s.Kept p) (_ : p.may .regs) (_ : p.may .evr) (_ : p.may .hostEvent) (_ : p.may .trace) (_ : p.may .traceDrop) (_ : p.may .msix) (_ : p.may .firm) (_ : p.may .keep) (_ : p.may .now) :
    State.Kept p (keyAddEffect m s) := by
  unfold keyAddEffect
  repeat' first
    | with_reducible assumption
    | (intro x; first
        | (refine (have hx : State.Kept p x := ?_; ?_); subst x; rotate_left; clear_value x; rotate_right)
        | (refine (have hx : State.Kept p x.1 := ?_; ?_); subst x; rotate_left; clear_value x; rotate_right)
        | (try clear_value x))
    | lift_lets -underBinder
    | with_reducible apply State.Kept.ite
    | with_reducible apply State.Kept.foldl
    | with_reducible apply State.Kept.foldl_fst
    | (with_reducible refine State.modKeep_kept ?_ (by assumption) (Keep.fusesLe_refl _))
    | with_reducible apply State.serve_kept
    | with_reducible apply State.finish_kept
    | split

theorem keyRemoveEffect_kept {m : Fin 16} {s : State} (h : s.Kept p) (_ : p.may .regs) (_ : p.may .evr) (_ : p.may .hostEvent) (_ : p.may .trace) (_ : p.may .traceDrop) (_ : p.may .msix) (_ : p.may .firm) (_ : p.may .keep) (_ : p.may .now) :
    State.Kept p (keyRemoveEffect m s) := by
  unfold keyRemoveEffect
  repeat' first
    | with_reducible assumption
    | (intro x; first
        | (refine (have hx : State.Kept p x := ?_; ?_); subst x; rotate_left; clear_value x; rotate_right)
        | (refine (have hx : State.Kept p x.1 := ?_; ?_); subst x; rotate_left; clear_value x; rotate_right)
        | (try clear_value x))
    | lift_lets -underBinder
    | with_reducible apply State.Kept.ite
    | with_reducible apply State.Kept.foldl
    | with_reducible apply State.Kept.foldl_fst
    | (with_reducible refine State.modKeep_kept ?_ (by assumption) (Keep.fusesLe_refl _))
    | with_reducible apply State.serve_kept
    | with_reducible apply State.finishAt_kept
    | with_reducible apply State.endInvalid_kept
    | with_reducible apply State.finish_kept
    | split

theorem lifecycleAdvanceEffect_kept {m : Fin 16} {s : State} (h : s.Kept p) (_ : p.may .regs) (_ : p.may .evr) (_ : p.may .hostEvent) (_ : p.may .trace) (_ : p.may .traceDrop) (_ : p.may .msix) (_ : p.may .firm) (_ : p.may .keep) (_ : p.may .now) : (lifecycleAdvanceEffect m s).Kept p := by
  unfold lifecycleAdvanceEffect
  apply State.serve_kept <;> try (with_reducible assumption)
  intro t ht
  extract_lets x ready
  clear_value ready
  split
  · apply State.finish_kept <;> with_reducible assumption
  · apply State.finish_kept <;> try (with_reducible assumption)
    apply State.setRegBits_kept <;> try (with_reducible assumption)
    exact State.modKeep_kept ht (by assumption) (Keep.fusesLe_lifecycle (by omega))


theorem State.setNor_kept {s : State} {o : Nat} {l : List Byte} (h : s.Kept p) (_ : p.may .keep) :
    State.Kept p (State.setNor s o l) := by
  unfold State.setNor
  repeat' first
    | with_reducible assumption
    | (intro x; first
        | (refine (have hx : State.Kept p x := ?_; ?_); subst x; rotate_left; clear_value x; rotate_right)
        | (refine (have hx : State.Kept p x.1 := ?_; ?_); subst x; rotate_left; clear_value x; rotate_right)
        | (try clear_value x))
    | lift_lets -underBinder
    | with_reducible apply State.Kept.ite
    | with_reducible apply State.Kept.foldl
    | with_reducible apply State.Kept.foldl_fst
    | (with_reducible refine State.modKeep_kept ?_ (by assumption) (Keep.fusesLe_refl _))
    | split

theorem fwActivateEffect_kept {m : Fin 16} {s : State} (h : s.Kept p) (_ : p.may .regs) (_ : p.may .evr) (_ : p.may .hostEvent) (_ : p.may .trace) (_ : p.may .traceDrop) (_ : p.may .msix) (_ : p.may .firm) (_ : p.may .keep) (_ : p.may .now) :
    State.Kept p (fwActivateEffect m s) := by
  unfold fwActivateEffect
  repeat' first
    | with_reducible assumption
    | (intro x; first
        | (refine (have hx : State.Kept p x := ?_; ?_); subst x; rotate_left; clear_value x; rotate_right)
        | (refine (have hx : State.Kept p x.1 := ?_; ?_); subst x; rotate_left; clear_value x; rotate_right)
        | (try clear_value x))
    | lift_lets -underBinder
    | with_reducible apply State.Kept.ite
    | with_reducible apply State.Kept.foldl
    | with_reducible apply State.Kept.foldl_fst
    | (with_reducible refine State.modKeep_kept ?_ (by assumption) (Keep.fusesLe_refl _))
    | with_reducible apply State.serve_kept
    | with_reducible apply State.setNor_kept
    | with_reducible apply State.finish_kept
    | split

theorem firmwareInternalErrorEffect_kept {s : State} (h : s.Kept p) (_ : p.may .regs) (_ : p.may .evr) (_ : p.may .hostEvent) (_ : p.may .msix) (_ : p.may .now) :
    State.Kept p (firmwareInternalErrorEffect s) := by
  unfold firmwareInternalErrorEffect
  repeat' first
    | with_reducible assumption
    | with_reducible apply State.Kept.ite
    | with_reducible apply State.post_kept
    | with_reducible apply State.setFw_kept
    | split

end Sys2Proof.Machine
end

