-- ==== Sys2Proof/Laws/KeptJobs.lean ====
section
/-! SUPPORT. State.Kept through the operations of Machine/Jobs.lean. -/

set_option linter.all false

namespace Sys2Proof.Machine

variable {p : Promise}

theorem Keep.program_le (a : Keep) {f v : Nat} {l : List Byte} : a.fusesLe (a.program f v l) = true := by
  unfold Keep.program
  repeat' split
  all_goals simp [Keep.fusesLe]
  all_goals first
    | omega
    | exact .inl ‹_›
    | (cases a.bootHost <;> simp)

theorem State.setJob_kept {s : State} {j : FwJob} (h : s.Kept p) (_ : p.may .firm) :
    State.Kept p (State.setJob s j) := by
  unfold State.setJob
  repeat' first
    | with_reducible assumption
    | with_reducible apply State.Kept.ite
    | with_reducible apply State.modFirm_kept
    | split

theorem State.endJobAt_kept {s : State} {j : FwJob} {status : Nat} {detail : Nat} {res : List Byte} {stw : Nat} (h : s.Kept p) (_ : p.may .regs) (_ : p.may .evr) (_ : p.may .hostEvent) (_ : p.may .trace) (_ : p.may .traceDrop) (_ : p.may .msix) (_ : p.may .firm) (_ : p.may .now) :
    State.Kept p (State.endJobAt s j status detail res stw) := by
  unfold State.endJobAt
  repeat' first
    | with_reducible assumption
    | with_reducible apply State.modFirm_kept
    | with_reducible apply State.finishAt_kept

theorem State.endJob_kept {s : State} {j : FwJob} {status : Nat} {detail : Nat} {res : List Byte} (h : s.Kept p) (_ : p.may .regs) (_ : p.may .evr) (_ : p.may .hostEvent) (_ : p.may .trace) (_ : p.may .traceDrop) (_ : p.may .msix) (_ : p.may .firm) (_ : p.may .now) :
    State.Kept p (State.endJob s j status detail res) := by
  unfold State.endJob
  repeat' first
    | with_reducible assumption
    | with_reducible apply State.endJobAt_kept

theorem State.nextStage_kept {s : State} {j : FwJob} {n : Nat} (h : s.Kept p) (_ : p.may .firm) :
    State.Kept p (State.nextStage s j n) := by
  unfold State.nextStage
  repeat' first
    | with_reducible assumption
    | with_reducible apply State.setJob_kept

theorem State.pushMig_kept {s : State} {b : List Byte} (h : s.Kept p) (_ : p.may .rdata) (_ : p.may .regs) (_ : p.may .logs) (_ : p.may .mem) (_ : p.may .poison) (_ : p.may .upset) (_ : p.may .cells) (_ : p.may .tb) (_ : p.may .evr) (_ : p.may .line) (_ : p.may .auth) (_ : p.may .safe) (_ : p.may .hostEvent) (_ : p.may .frt) (_ : p.may .vats) (_ : p.may .mig) (_ : p.may .harp) (_ : p.may .swaps) (_ : p.may .ing) (_ : p.may .fus) (_ : p.may .slv) (_ : p.may .pln) (_ : p.may .lp) (_ : p.may .tsn) (_ : p.may .xsl) (_ : p.may .fbx) (_ : p.may .wd) (_ : p.may .pwr) (_ : p.may .trace) (_ : p.may .traceDrop) (_ : p.may .msix) (_ : p.may .firm) (_ : p.may .snapCmp) (_ : p.may .now) :
    ∀ r_, (State.pushMig s b) = some r_ → State.Kept p r_ := by
  intro t e
  unfold State.pushMig at e
  try dsimp only at e
  repeat' (first | (cases e; done) | split at e)
  all_goals (try cases e)
  repeat' first
    | with_reducible assumption
    | (intro x; first
        | (refine (have hx : State.Kept p x := ?_; ?_); subst x; rotate_left; clear_value x; rotate_right)
        | (refine (have hx : State.Kept p x.1 := ?_; ?_); subst x; rotate_left; clear_value x; rotate_right)
        | (try clear_value x))
    | lift_lets -underBinder
    | (with_reducible refine State.runGroup_kept ?_ (by assumption) ‹_› (by with_reducible assumption) (by assumption) ‹_› (by with_reducible assumption) (by assumption) ‹_› (by with_reducible assumption) (by assumption) ‹_› (by with_reducible assumption) (by assumption) ‹_› (by with_reducible assumption) (by assumption) ‹_› (by with_reducible assumption) (by assumption) ‹_› (by with_reducible assumption) (by assumption) ‹_› (by with_reducible assumption) (by assumption) ‹_› (by with_reducible assumption) (by assumption) ‹_› (by with_reducible assumption) (by assumption) ‹_› (by with_reducible assumption) (by assumption) _ (by assumption))
    | split

theorem State.takeCpl_kept {s : State} {t : Nat} (h : s.Kept p) (_ : p.may .logs) :
    ∀ r_, (State.takeCpl s t) = some r_ → State.Kept p r_.2 := by
  intro t e
  unfold State.takeCpl at e
  try dsimp only at e
  repeat' (first | (cases e; done) | split at e)
  all_goals (try cases e)
  repeat' first
    | with_reducible assumption
    | (intro x; first
        | (refine (have hx : State.Kept p x := ?_; ?_); subst x; rotate_left; clear_value x; rotate_right)
        | (refine (have hx : State.Kept p x.1 := ?_; ?_); subst x; rotate_left; clear_value x; rotate_right)
        | (try clear_value x))
    | lift_lets -underBinder
    | (with_reducible apply State.Kept.upd_logs <;> with_reducible assumption)
    | split

theorem State.migStep_kept {s : State} {j : FwJob} {b : List Byte} {stage : Nat} (h : s.Kept p) (_ : p.may .rdata) (_ : p.may .regs) (_ : p.may .logs) (_ : p.may .mem) (_ : p.may .poison) (_ : p.may .upset) (_ : p.may .cells) (_ : p.may .tb) (_ : p.may .evr) (_ : p.may .line) (_ : p.may .auth) (_ : p.may .safe) (_ : p.may .hostEvent) (_ : p.may .frt) (_ : p.may .vats) (_ : p.may .mig) (_ : p.may .harp) (_ : p.may .swaps) (_ : p.may .ing) (_ : p.may .fus) (_ : p.may .slv) (_ : p.may .pln) (_ : p.may .lp) (_ : p.may .tsn) (_ : p.may .xsl) (_ : p.may .fbx) (_ : p.may .wd) (_ : p.may .pwr) (_ : p.may .trace) (_ : p.may .traceDrop) (_ : p.may .msix) (_ : p.may .firm) (_ : p.may .snapCmp) (_ : p.may .now) :
    State.Kept p (State.migStep s j b stage) := by
  unfold State.migStep
  repeat' first
    | with_reducible assumption
    | (with_reducible refine State.pushMig_kept ?_ (by assumption) ‹_› (by with_reducible assumption) (by assumption) ‹_› (by with_reducible assumption) (by assumption) ‹_› (by with_reducible assumption) (by assumption) ‹_› (by with_reducible assumption) (by assumption) ‹_› (by with_reducible assumption) (by assumption) ‹_› (by with_reducible assumption) (by assumption) ‹_› (by with_reducible assumption) (by assumption) ‹_› (by with_reducible assumption) (by assumption) ‹_› (by with_reducible assumption) (by assumption) ‹_› (by with_reducible assumption) (by assumption) ‹_› (by with_reducible assumption) (by assumption) _ (by assumption))
    | with_reducible apply State.nextStage_kept
    | with_reducible apply State.endJob_kept
    | split

theorem migCmdEffect_kept {m : Fin 16} {s : State} (h : s.Kept p) (_ : p.may .rdata) (_ : p.may .regs) (_ : p.may .logs) (_ : p.may .mem) (_ : p.may .poison) (_ : p.may .upset) (_ : p.may .cells) (_ : p.may .tb) (_ : p.may .evr) (_ : p.may .line) (_ : p.may .auth) (_ : p.may .safe) (_ : p.may .hostEvent) (_ : p.may .frt) (_ : p.may .vats) (_ : p.may .mig) (_ : p.may .harp) (_ : p.may .swaps) (_ : p.may .ing) (_ : p.may .fus) (_ : p.may .slv) (_ : p.may .pln) (_ : p.may .lp) (_ : p.may .tsn) (_ : p.may .xsl) (_ : p.may .fbx) (_ : p.may .wd) (_ : p.may .pwr) (_ : p.may .trace) (_ : p.may .traceDrop) (_ : p.may .msix) (_ : p.may .firm) (_ : p.may .snapCmp) (_ : p.may .now) :
    State.Kept p (migCmdEffect m s) := by
  unfold migCmdEffect
  repeat' first
    | with_reducible assumption
    | (intro x; first
        | (refine (have hx : State.Kept p x := ?_; ?_); subst x; rotate_left; clear_value x; rotate_right)
        | (refine (have hx : State.Kept p x.1 := ?_; ?_); subst x; rotate_left; clear_value x; rotate_right)
        | (try clear_value x))
    | lift_lets -underBinder
    | with_reducible apply State.Kept.ite
    | with_reducible apply State.conflict_kept
    | (with_reducible refine State.pushMig_kept ?_ (by assumption) ‹_› (by with_reducible assumption) (by assumption) ‹_› (by with_reducible assumption) (by assumption) ‹_› (by with_reducible assumption) (by assumption) ‹_› (by with_reducible assumption) (by assumption) ‹_› (by with_reducible assumption) (by assumption) ‹_› (by with_reducible assumption) (by assumption) ‹_› (by with_reducible assumption) (by assumption) ‹_› (by with_reducible assumption) (by assumption) ‹_› (by with_reducible assumption) (by assumption) ‹_› (by with_reducible assumption) (by assumption) ‹_› (by with_reducible assumption) (by assumption) _ (by assumption))
    | with_reducible apply State.serve_kept
    | with_reducible apply State.finish_kept
    | with_reducible apply State.accept_kept
    | split

theorem imageUnloadEffect_kept {m : Fin 16} {s : State} (h : s.Kept p) (_ : p.may .rdata) (_ : p.may .regs) (_ : p.may .logs) (_ : p.may .mem) (_ : p.may .poison) (_ : p.may .upset) (_ : p.may .cells) (_ : p.may .tb) (_ : p.may .evr) (_ : p.may .line) (_ : p.may .auth) (_ : p.may .safe) (_ : p.may .hostEvent) (_ : p.may .frt) (_ : p.may .vats) (_ : p.may .mig) (_ : p.may .harp) (_ : p.may .swaps) (_ : p.may .ing) (_ : p.may .fus) (_ : p.may .slv) (_ : p.may .pln) (_ : p.may .lp) (_ : p.may .tsn) (_ : p.may .xsl) (_ : p.may .fbx) (_ : p.may .wd) (_ : p.may .pwr) (_ : p.may .trace) (_ : p.may .traceDrop) (_ : p.may .msix) (_ : p.may .firm) (_ : p.may .snapCmp) (_ : p.may .now) :
    State.Kept p (imageUnloadEffect m s) := by
  unfold imageUnloadEffect
  repeat' first
    | with_reducible assumption
    | (intro x; first
        | (refine (have hx : State.Kept p x := ?_; ?_); subst x; rotate_left; clear_value x; rotate_right)
        | (refine (have hx : State.Kept p x.1 := ?_; ?_); subst x; rotate_left; clear_value x; rotate_right)
        | (try clear_value x))
    | lift_lets -underBinder
    | with_reducible apply State.Kept.ite
    | with_reducible apply State.conflict_kept
    | (with_reducible refine State.pushMig_kept ?_ (by assumption) ‹_› (by with_reducible assumption) (by assumption) ‹_› (by with_reducible assumption) (by assumption) ‹_› (by with_reducible assumption) (by assumption) ‹_› (by with_reducible assumption) (by assumption) ‹_› (by with_reducible assumption) (by assumption) ‹_› (by with_reducible assumption) (by assumption) ‹_› (by with_reducible assumption) (by assumption) ‹_› (by with_reducible assumption) (by assumption) ‹_› (by with_reducible assumption) (by assumption) ‹_› (by with_reducible assumption) (by assumption) ‹_› (by with_reducible assumption) (by assumption) _ (by assumption))
    | with_reducible apply State.serve_kept
    | with_reducible apply State.finish_kept
    | with_reducible apply State.accept_kept
    | split

theorem imageLoadEffect_kept {m : Fin 16} {s : State} (h : s.Kept p) (_ : p.may .regs) (_ : p.may .evr) (_ : p.may .hostEvent) (_ : p.may .trace) (_ : p.may .traceDrop) (_ : p.may .msix) (_ : p.may .firm) (_ : p.may .now) :
    State.Kept p (imageLoadEffect m s) := by
  unfold imageLoadEffect
  repeat' first
    | with_reducible assumption
    | (intro x; first
        | (refine (have hx : State.Kept p x := ?_; ?_); subst x; rotate_left; clear_value x; rotate_right)
        | (refine (have hx : State.Kept p x.1 := ?_; ?_); subst x; rotate_left; clear_value x; rotate_right)
        | (try clear_value x))
    | lift_lets -underBinder
    | with_reducible apply State.Kept.ite
    | with_reducible apply State.conflict_kept
    | with_reducible apply State.serve_kept
    | with_reducible apply State.finish_kept
    | with_reducible apply State.accept_kept
    | split

theorem State.imageStep_kept {s : State} {j : FwJob} {status : Nat} {data : List Byte} (h : s.Kept p) (_ : p.may .rdata) (_ : p.may .regs) (_ : p.may .logs) (_ : p.may .mem) (_ : p.may .poison) (_ : p.may .upset) (_ : p.may .cells) (_ : p.may .tb) (_ : p.may .evr) (_ : p.may .line) (_ : p.may .auth) (_ : p.may .safe) (_ : p.may .hostEvent) (_ : p.may .frt) (_ : p.may .vats) (_ : p.may .mig) (_ : p.may .harp) (_ : p.may .swaps) (_ : p.may .ing) (_ : p.may .fus) (_ : p.may .slv) (_ : p.may .pln) (_ : p.may .lp) (_ : p.may .tsn) (_ : p.may .xsl) (_ : p.may .fbx) (_ : p.may .wd) (_ : p.may .pwr) (_ : p.may .trace) (_ : p.may .traceDrop) (_ : p.may .msix) (_ : p.may .firm) (_ : p.may .snapCmp) (_ : p.may .now) :
    State.Kept p (State.imageStep s j status data) := by
  unfold State.imageStep
  repeat' first
    | with_reducible assumption
    | (intro x; first
        | (refine (have hx : State.Kept p x := ?_; ?_); subst x; rotate_left; clear_value x; rotate_right)
        | (refine (have hx : State.Kept p x.1 := ?_; ?_); subst x; rotate_left; clear_value x; rotate_right)
        | skip)
    | lift_lets -underBinder
    | with_reducible apply State.Kept.ite
    | with_reducible apply State.Kept.foldl
    | with_reducible apply State.Kept.foldl_fst
    | with_reducible apply State.modFirm_kept
    | with_reducible apply State.store_kept
    | with_reducible apply State.setJob_kept
    | (with_reducible refine State.takeCpl_kept ?_ (by assumption) _ (by assumption))
    | with_reducible apply State.migStep_kept
    | with_reducible apply State.endJob_kept
    | split

theorem hostDmaEffect_kept {m : Fin 16} {s : State} (h : s.Kept p) (_ : p.may .regs) (_ : p.may .logs) (_ : p.may .evr) (_ : p.may .hostEvent) (_ : p.may .trace) (_ : p.may .traceDrop) (_ : p.may .msix) (_ : p.may .firm) (_ : p.may .now) :
    State.Kept p (hostDmaEffect m s) := by
  unfold hostDmaEffect
  repeat' first
    | with_reducible assumption
    | (intro x; first
        | (refine (have hx : State.Kept p x := ?_; ?_); subst x; rotate_left; clear_value x; rotate_right)
        | (refine (have hx : State.Kept p x.1 := ?_; ?_); subst x; rotate_left; clear_value x; rotate_right)
        | (try clear_value x))
    | lift_lets -underBinder
    | with_reducible apply State.Kept.ite
    | with_reducible apply State.serve_kept
    | with_reducible apply State.refuse_kept
    | with_reducible apply State.finish_kept
    | with_reducible apply State.accept_kept
    | split

theorem State.dmaStep_kept {s : State} {j : FwJob} {status : Nat} {data : List Byte} (h : s.Kept p) (_ : p.may .regs) (_ : p.may .logs) (_ : p.may .mem) (_ : p.may .poison) (_ : p.may .upset) (_ : p.may .evr) (_ : p.may .line) (_ : p.may .auth) (_ : p.may .safe) (_ : p.may .hostEvent) (_ : p.may .fbx) (_ : p.may .pwr) (_ : p.may .trace) (_ : p.may .traceDrop) (_ : p.may .msix) (_ : p.may .firm) (_ : p.may .now) :
    State.Kept p (State.dmaStep s j status data) := by
  unfold State.dmaStep
  repeat' first
    | with_reducible assumption
    | (intro x; first
        | (refine (have hx : State.Kept p x := ?_; ?_); subst x; rotate_left; clear_value x; rotate_right)
        | (refine (have hx : State.Kept p x.1 := ?_; ?_); subst x; rotate_left; clear_value x; rotate_right)
        | (try clear_value x))
    | lift_lets -underBinder
    | with_reducible apply State.Kept.ite
    | with_reducible apply State.eccRead_kept
    | with_reducible apply State.modFirm_kept
    | with_reducible apply State.store_kept
    | with_reducible apply State.actHub_kept
    | with_reducible apply State.mend_kept
    | with_reducible apply State.endJob_kept
    | split

theorem ftLoadEffect_kept {m : Fin 16} {s : State} (h : s.Kept p) (_ : p.may .regs) (_ : p.may .evr) (_ : p.may .hostEvent) (_ : p.may .trace) (_ : p.may .traceDrop) (_ : p.may .msix) (_ : p.may .firm) (_ : p.may .now) :
    State.Kept p (ftLoadEffect m s) := by
  unfold ftLoadEffect
  repeat' first
    | with_reducible assumption
    | (intro x; first
        | (refine (have hx : State.Kept p x := ?_; ?_); subst x; rotate_left; clear_value x; rotate_right)
        | (refine (have hx : State.Kept p x.1 := ?_; ?_); subst x; rotate_left; clear_value x; rotate_right)
        | (try clear_value x))
    | lift_lets -underBinder
    | with_reducible apply State.Kept.ite
    | with_reducible apply State.conflict_kept
    | with_reducible apply State.serve_kept
    | with_reducible apply State.finish_kept
    | with_reducible apply State.accept_kept
    | split

theorem State.dropLoaded_kept {s : State} (h : s.Kept p) (_ : p.may .regs) :
    State.Kept p (State.dropLoaded s) := by
  unfold State.dropLoaded
  repeat' first
    | with_reducible assumption
    | with_reducible apply State.setReg_kept

theorem State.loadTable_kept {s : State} {n : Nat} (h : s.Kept p) (_ : p.may .rdata) (_ : p.may .regs) (_ : p.may .logs) (_ : p.may .mem) (_ : p.may .poison) (_ : p.may .upset) (_ : p.may .cells) (_ : p.may .tb) (_ : p.may .evr) (_ : p.may .line) (_ : p.may .auth) (_ : p.may .safe) (_ : p.may .hostEvent) (_ : p.may .frt) (_ : p.may .vats) (_ : p.may .mig) (_ : p.may .harp) (_ : p.may .swaps) (_ : p.may .ing) (_ : p.may .fus) (_ : p.may .slv) (_ : p.may .pln) (_ : p.may .lp) (_ : p.may .tsn) (_ : p.may .xsl) (_ : p.may .fbx) (_ : p.may .wd) (_ : p.may .pwr) (_ : p.may .trace) (_ : p.may .traceDrop) (_ : p.may .msix) (_ : p.may .firm) (_ : p.may .snapCmp) (_ : p.may .now) :
    ∀ r_, (State.loadTable s n) = .inl r_ → State.Kept p r_ := by
  intro t e
  unfold State.loadTable at e
  try dsimp only at e
  repeat' (first | (cases e; done) | split at e)
  all_goals (try cases e)
  repeat' first
    | with_reducible assumption
    | (intro x; first
        | (refine (have hx : State.Kept p x := ?_; ?_); subst x; rotate_left; clear_value x; rotate_right)
        | (refine (have hx : State.Kept p x.1 := ?_; ?_); subst x; rotate_left; clear_value x; rotate_right)
        | (try clear_value x))
    | lift_lets -underBinder
    | with_reducible apply State.Kept.ite
    | with_reducible apply State.store_kept
    | (with_reducible refine State.runGroup_kept ?_ (by assumption) ‹_› (by with_reducible assumption) (by assumption) ‹_› (by with_reducible assumption) (by assumption) ‹_› (by with_reducible assumption) (by assumption) ‹_› (by with_reducible assumption) (by assumption) ‹_› (by with_reducible assumption) (by assumption) ‹_› (by with_reducible assumption) (by assumption) ‹_› (by with_reducible assumption) (by assumption) ‹_› (by with_reducible assumption) (by assumption) ‹_› (by with_reducible assumption) (by assumption) ‹_› (by with_reducible assumption) (by assumption) ‹_› (by with_reducible assumption) (by assumption) _ (by assumption))
    | split

theorem State.tableStep_kept {s : State} {j : FwJob} {status : Nat} {data : List Byte} (h : s.Kept p) (_ : p.may .rdata) (_ : p.may .regs) (_ : p.may .logs) (_ : p.may .mem) (_ : p.may .poison) (_ : p.may .upset) (_ : p.may .cells) (_ : p.may .tb) (_ : p.may .evr) (_ : p.may .line) (_ : p.may .auth) (_ : p.may .safe) (_ : p.may .hostEvent) (_ : p.may .frt) (_ : p.may .vats) (_ : p.may .mig) (_ : p.may .harp) (_ : p.may .swaps) (_ : p.may .ing) (_ : p.may .fus) (_ : p.may .slv) (_ : p.may .pln) (_ : p.may .lp) (_ : p.may .tsn) (_ : p.may .xsl) (_ : p.may .fbx) (_ : p.may .wd) (_ : p.may .pwr) (_ : p.may .trace) (_ : p.may .traceDrop) (_ : p.may .msix) (_ : p.may .firm) (_ : p.may .snapCmp) (_ : p.may .now) :
    State.Kept p (State.tableStep s j status data) := by
  unfold State.tableStep
  repeat' first
    | with_reducible assumption
    | (intro x; first
        | (refine (have hx : State.Kept p x := ?_; ?_); subst x; rotate_left; clear_value x; rotate_right)
        | (refine (have hx : State.Kept p x.1 := ?_; ?_); subst x; rotate_left; clear_value x; rotate_right)
        | (try clear_value x))
    | lift_lets -underBinder
    | with_reducible apply State.Kept.ite
    | with_reducible apply State.dropLoaded_kept
    | (with_reducible refine State.loadTable_kept ?_ (by assumption) ‹_› (by with_reducible assumption) (by assumption) ‹_› (by with_reducible assumption) (by assumption) ‹_› (by with_reducible assumption) (by assumption) ‹_› (by with_reducible assumption) (by assumption) ‹_› (by with_reducible assumption) (by assumption) ‹_› (by with_reducible assumption) (by assumption) ‹_› (by with_reducible assumption) (by assumption) ‹_› (by with_reducible assumption) (by assumption) ‹_› (by with_reducible assumption) (by assumption) ‹_› (by with_reducible assumption) (by assumption) ‹_› (by with_reducible assumption) (by assumption) _ (by assumption))
    | with_reducible apply State.store_kept
    | with_reducible apply State.nextStage_kept
    | with_reducible apply State.endJob_kept
    | split

theorem State.storeCommand_kept {s : State} {m : Nat} {op : Nat} (h : s.Kept p) (_ : p.may .regs) (_ : p.may .evr) (_ : p.may .hostEvent) (_ : p.may .trace) (_ : p.may .traceDrop) (_ : p.may .msix) (_ : p.may .firm) (_ : p.may .now) :
    State.Kept p (State.storeCommand s m op) := by
  unfold State.storeCommand
  repeat' first
    | with_reducible assumption
    | (intro x; first
        | (refine (have hx : State.Kept p x := ?_; ?_); subst x; rotate_left; clear_value x; rotate_right)
        | (refine (have hx : State.Kept p x.1 := ?_; ?_); subst x; rotate_left; clear_value x; rotate_right)
        | (try clear_value x))
    | lift_lets -underBinder
    | with_reducible apply State.Kept.ite
    | with_reducible apply State.conflict_kept
    | with_reducible apply State.finish_kept
    | with_reducible apply State.accept_kept
    | split

theorem storeWriteEffect_kept {m : Fin 16} {s : State} (h : s.Kept p) (_ : p.may .regs) (_ : p.may .evr) (_ : p.may .hostEvent) (_ : p.may .trace) (_ : p.may .traceDrop) (_ : p.may .msix) (_ : p.may .firm) (_ : p.may .now) :
    State.Kept p (storeWriteEffect m s) := by
  unfold storeWriteEffect
  repeat' first
    | with_reducible assumption
    | (intro x; first
        | (refine (have hx : State.Kept p x := ?_; ?_); subst x; rotate_left; clear_value x; rotate_right)
        | (refine (have hx : State.Kept p x.1 := ?_; ?_); subst x; rotate_left; clear_value x; rotate_right)
        | (try clear_value x))
    | lift_lets -underBinder
    | with_reducible apply State.serve_kept
    | with_reducible apply State.storeCommand_kept

theorem storeTrimEffect_kept {m : Fin 16} {s : State} (h : s.Kept p) (_ : p.may .regs) (_ : p.may .evr) (_ : p.may .hostEvent) (_ : p.may .trace) (_ : p.may .traceDrop) (_ : p.may .msix) (_ : p.may .firm) (_ : p.may .now) :
    State.Kept p (storeTrimEffect m s) := by
  unfold storeTrimEffect
  repeat' first
    | with_reducible assumption
    | (intro x; first
        | (refine (have hx : State.Kept p x := ?_; ?_); subst x; rotate_left; clear_value x; rotate_right)
        | (refine (have hx : State.Kept p x.1 := ?_; ?_); subst x; rotate_left; clear_value x; rotate_right)
        | (try clear_value x))
    | lift_lets -underBinder
    | with_reducible apply State.serve_kept
    | with_reducible apply State.storeCommand_kept

theorem State.storeStep_kept {s : State} {j : FwJob} {status : Nat} {data : List Byte} (h : s.Kept p) (_ : p.may .regs) (_ : p.may .evr) (_ : p.may .hostEvent) (_ : p.may .mig) (_ : p.may .trace) (_ : p.may .traceDrop) (_ : p.may .msix) (_ : p.may .firm) (_ : p.may .now) :
    State.Kept p (State.storeStep s j status data) := by
  unfold State.storeStep
  repeat' first
    | with_reducible assumption
    | (intro x; first
        | (refine (have hx : State.Kept p x := ?_; ?_); subst x; rotate_left; clear_value x; rotate_right)
        | (refine (have hx : State.Kept p x.1 := ?_; ?_); subst x; rotate_left; clear_value x; rotate_right)
        | (try clear_value x))
    | lift_lets -underBinder
    | with_reducible apply State.Kept.ite
    | with_reducible apply State.endJob_kept
    | with_reducible apply State.modMig_kept
    | split

theorem fwStageEffect_kept {m : Fin 16} {s : State} (h : s.Kept p) (_ : p.may .regs) (_ : p.may .evr) (_ : p.may .hostEvent) (_ : p.may .trace) (_ : p.may .traceDrop) (_ : p.may .msix) (_ : p.may .firm) (_ : p.may .now) :
    State.Kept p (fwStageEffect m s) := by
  unfold fwStageEffect
  repeat' first
    | with_reducible assumption
    | (intro x; first
        | (refine (have hx : State.Kept p x := ?_; ?_); subst x; rotate_left; clear_value x; rotate_right)
        | (refine (have hx : State.Kept p x.1 := ?_; ?_); subst x; rotate_left; clear_value x; rotate_right)
        | (try clear_value x))
    | lift_lets -underBinder
    | with_reducible apply State.Kept.ite
    | with_reducible apply State.conflict_kept
    | with_reducible apply State.serve_kept
    | with_reducible apply State.finish_kept
    | with_reducible apply State.accept_kept
    | split

theorem State.stageStep_kept {s : State} {j : FwJob} {status : Nat} {data : List Byte} (h : s.Kept p) (_ : p.may .regs) (_ : p.may .evr) (_ : p.may .hostEvent) (_ : p.may .trace) (_ : p.may .traceDrop) (_ : p.may .msix) (_ : p.may .firm) (_ : p.may .keep) (_ : p.may .now) :
    State.Kept p (State.stageStep s j status data) := by
  unfold State.stageStep
  repeat' first
    | with_reducible assumption
    | (intro x; first
        | (refine (have hx : State.Kept p x := ?_; ?_); subst x; rotate_left; clear_value x; rotate_right)
        | (refine (have hx : State.Kept p x.1 := ?_; ?_); subst x; rotate_left; clear_value x; rotate_right)
        | (try clear_value x))
    | lift_lets -underBinder
    | with_reducible apply State.Kept.ite
    | with_reducible apply State.Kept.foldl
    | with_reducible apply State.Kept.foldl_fst
    | (with_reducible refine State.modKeep_kept ?_ (by assumption) (Keep.fusesLe_refl _))
    | with_reducible apply State.setNor_kept
    | with_reducible apply State.endJob_kept
    | split

theorem fuseProgramEffect_kept {m : Fin 16} {s : State} (h : s.Kept p) (_ : p.may .regs) (_ : p.may .evr) (_ : p.may .hostEvent) (_ : p.may .trace) (_ : p.may .traceDrop) (_ : p.may .msix) (_ : p.may .firm) (_ : p.may .now) :
    State.Kept p (fuseProgramEffect m s) := by
  unfold fuseProgramEffect
  repeat' first
    | with_reducible assumption
    | (intro x; first
        | (refine (have hx : State.Kept p x := ?_; ?_); subst x; rotate_left; clear_value x; rotate_right)
        | (refine (have hx : State.Kept p x.1 := ?_; ?_); subst x; rotate_left; clear_value x; rotate_right)
        | (try clear_value x))
    | lift_lets -underBinder
    | with_reducible apply State.Kept.ite
    | with_reducible apply State.conflict_kept
    | with_reducible apply State.serve_kept
    | with_reducible apply State.finish_kept
    | with_reducible apply State.accept_kept
    | split

theorem State.fuseStep_kept {s : State} {j : FwJob} (h : s.Kept p) (_ : p.may .regs) (_ : p.may .evr) (_ : p.may .hostEvent) (_ : p.may .trace) (_ : p.may .traceDrop) (_ : p.may .msix) (_ : p.may .firm) (_ : p.may .keep) (_ : p.may .now) : (s.fuseStep j).Kept p := by
  unfold State.fuseStep
  extract_lets f
  split
  · apply State.endJob_kept <;> with_reducible assumption
  · apply State.endJob_kept <;> try (with_reducible assumption)
    apply State.endInvalid_kept <;> try (with_reducible assumption)
    exact State.modKeep_kept h (by assumption) (Keep.program_le s.keep)


theorem batchSubmitEffect_kept {m : Fin 16} {s : State} (h : s.Kept p) (_ : p.may .regs) (_ : p.may .evr) (_ : p.may .hostEvent) (_ : p.may .trace) (_ : p.may .traceDrop) (_ : p.may .msix) (_ : p.may .firm) (_ : p.may .now) :
    State.Kept p (batchSubmitEffect m s) := by
  unfold batchSubmitEffect
  repeat' first
    | with_reducible assumption
    | (intro x; first
        | (refine (have hx : State.Kept p x := ?_; ?_); subst x; rotate_left; clear_value x; rotate_right)
        | (refine (have hx : State.Kept p x.1 := ?_; ?_); subst x; rotate_left; clear_value x; rotate_right)
        | (try clear_value x))
    | lift_lets -underBinder
    | with_reducible apply State.Kept.ite
    | with_reducible apply State.conflict_kept
    | with_reducible apply State.serve_kept
    | with_reducible apply State.finish_kept
    | with_reducible apply State.accept_kept
    | split

theorem State.batchStep_kept {s : State} {j : FwJob} (h : s.Kept p) (_ : p.may .regs) (_ : p.may .mem) (_ : p.may .poison) (_ : p.may .upset) (_ : p.may .cells) (_ : p.may .evr) (_ : p.may .hostEvent) (_ : p.may .trace) (_ : p.may .traceDrop) (_ : p.may .msix) (_ : p.may .firm) (_ : p.may .now) :
    State.Kept p (State.batchStep s j) := by
  unfold State.batchStep
  repeat' first
    | with_reducible assumption
    | (intro x; first
        | (refine (have hx : State.Kept p x := ?_; ?_); subst x; rotate_left; clear_value x; rotate_right)
        | (refine (have hx : State.Kept p x.1 := ?_; ?_); subst x; rotate_left; clear_value x; rotate_right)
        | (try clear_value x))
    | lift_lets -underBinder
    | with_reducible apply State.Kept.ite
    | with_reducible apply State.modFirm_kept
    | with_reducible apply State.store_kept
    | with_reducible apply State.setJob_kept
    | with_reducible apply State.cellDo_kept
    | with_reducible apply State.endJob_kept
    | split

theorem State.groupEnds_kept {s : State} {j : FwJob} {status : Nat} {detail : Nat} {stw : Nat} (h : s.Kept p) (_ : p.may .regs) (_ : p.may .evr) (_ : p.may .hostEvent) (_ : p.may .trace) (_ : p.may .traceDrop) (_ : p.may .msix) (_ : p.may .firm) (_ : p.may .now) :
    State.Kept p (State.groupEnds s j status detail stw) := by
  unfold State.groupEnds
  repeat' first
    | with_reducible assumption
    | (intro x; first
        | (refine (have hx : State.Kept p x := ?_; ?_); subst x; rotate_left; clear_value x; rotate_right)
        | (refine (have hx : State.Kept p x.1 := ?_; ?_); subst x; rotate_left; clear_value x; rotate_right)
        | (try clear_value x))
    | lift_lets -underBinder
    | with_reducible apply State.Kept.ite
    | with_reducible apply State.modFirm_kept
    | with_reducible apply State.endJobAt_kept
    | with_reducible apply State.endJob_kept
    | split

theorem State.handbackStep_kept {s : State} {j : FwJob} (h : s.Kept p) (_ : p.may .rdata) (_ : p.may .regs) (_ : p.may .logs) (_ : p.may .mem) (_ : p.may .poison) (_ : p.may .upset) (_ : p.may .cells) (_ : p.may .tb) (_ : p.may .evr) (_ : p.may .line) (_ : p.may .auth) (_ : p.may .safe) (_ : p.may .hostEvent) (_ : p.may .frt) (_ : p.may .vats) (_ : p.may .mig) (_ : p.may .harp) (_ : p.may .swaps) (_ : p.may .ing) (_ : p.may .fus) (_ : p.may .slv) (_ : p.may .pln) (_ : p.may .lp) (_ : p.may .tsn) (_ : p.may .xsl) (_ : p.may .fbx) (_ : p.may .wd) (_ : p.may .pwr) (_ : p.may .trace) (_ : p.may .traceDrop) (_ : p.may .msix) (_ : p.may .cg) (_ : p.may .firm) (_ : p.may .snapCmp) (_ : p.may .now) :
    State.Kept p (State.handbackStep s j) := by
  unfold State.handbackStep
  repeat' first
    | with_reducible assumption
    | with_reducible apply State.Kept.ite
    | with_reducible apply State.nextStage_kept
    | with_reducible apply State.ownWrite_kept
    | with_reducible apply State.endJob_kept
    | split

theorem commandCompleteEffect_kept {m : Fin 16} {status : Nat} {data : List Byte} {s : State} (h : s.Kept p) (_ : p.may .rdata) (_ : p.may .regs) (_ : p.may .logs) (_ : p.may .mem) (_ : p.may .poison) (_ : p.may .upset) (_ : p.may .cells) (_ : p.may .tb) (_ : p.may .evr) (_ : p.may .line) (_ : p.may .auth) (_ : p.may .safe) (_ : p.may .hostEvent) (_ : p.may .frt) (_ : p.may .vats) (_ : p.may .mig) (_ : p.may .harp) (_ : p.may .swaps) (_ : p.may .ing) (_ : p.may .fus) (_ : p.may .slv) (_ : p.may .pln) (_ : p.may .lp) (_ : p.may .tsn) (_ : p.may .xsl) (_ : p.may .fbx) (_ : p.may .wd) (_ : p.may .pwr) (_ : p.may .trace) (_ : p.may .traceDrop) (_ : p.may .msix) (_ : p.may .cg) (_ : p.may .firm) (_ : p.may .keep) (_ : p.may .snapCmp) (_ : p.may .now) :
    State.Kept p (commandCompleteEffect m status data s) := by
  unfold commandCompleteEffect
  repeat' first
    | with_reducible assumption
    | (intro x; first
        | (refine (have hx : State.Kept p x := ?_; ?_); subst x; rotate_left; clear_value x; rotate_right)
        | (refine (have hx : State.Kept p x.1 := ?_; ?_); subst x; rotate_left; clear_value x; rotate_right)
        | (try clear_value x))
    | lift_lets -underBinder
    | with_reducible apply State.Kept.ite
    | with_reducible apply State.dmaStep_kept
    | with_reducible apply State.handbackStep_kept
    | with_reducible apply State.imageStep_kept
    | with_reducible apply State.groupEnds_kept
    | with_reducible apply State.tableStep_kept
    | with_reducible apply State.stageStep_kept
    | with_reducible apply State.modFirm_kept
    | with_reducible apply State.batchStep_kept
    | with_reducible apply State.storeStep_kept
    | with_reducible apply State.fuseStep_kept
    | (with_reducible refine State.takeCpl_kept ?_ (by assumption) _ (by assumption))
    | with_reducible apply State.endJob_kept
    | split

end Sys2Proof.Machine
end

