-- ==== Sys2Proof/Laws/KeptLate.lean ====
section
/-! SUPPORT. State.Kept through the operations of Machine/Late.lean. -/

set_option linter.all false

namespace Sys2Proof.Machine

variable {p : Promise}

theorem State.nextSwitch_kept {s : State} (h : s.Kept p) (_ : p.may .regs) (_ : p.may .frt) :
    State.Kept p (State.nextSwitch s) := by
  unfold State.nextSwitch
  repeat' first
    | with_reducible assumption
    | (intro x; first
        | (refine (have hx : State.Kept p x := ?_; ?_); subst x; rotate_left; clear_value x; rotate_right)
        | (refine (have hx : State.Kept p x.1 := ?_; ?_); subst x; rotate_left; clear_value x; rotate_right)
        | (try clear_value x))
    | lift_lets -underBinder
    | with_reducible apply State.setReg_kept
    | (with_reducible apply State.Kept.upd_frt <;> with_reducible assumption)
    | split

theorem State.pickSwitch_kept {s : State} {a1_ : List CGroup} (h : s.Kept p) (_ : p.may .rdata) (_ : p.may .regs) (_ : p.may .logs) (_ : p.may .mem) (_ : p.may .poison) (_ : p.may .upset) (_ : p.may .cells) (_ : p.may .tb) (_ : p.may .evr) (_ : p.may .line) (_ : p.may .auth) (_ : p.may .safe) (_ : p.may .hostEvent) (_ : p.may .frt) (_ : p.may .vats) (_ : p.may .mig) (_ : p.may .harp) (_ : p.may .swaps) (_ : p.may .ing) (_ : p.may .fus) (_ : p.may .slv) (_ : p.may .pln) (_ : p.may .lp) (_ : p.may .tsn) (_ : p.may .xsl) (_ : p.may .fbx) (_ : p.may .wd) (_ : p.may .pwr) (_ : p.may .trace) (_ : p.may .traceDrop) (_ : p.may .msix) (_ : p.may .cg) (_ : p.may .firm) (_ : p.may .snapCmp) (_ : p.may .now) :
    State.Kept p (State.pickSwitch s a1_).1 := by
  induction a1_ generalizing s with
  | nil =>
    unfold State.pickSwitch
    repeat' first
      | with_reducible assumption
      | with_reducible apply State.modCg_kept
      | with_reducible apply State.nextSwitch_kept
      | with_reducible apply State.groupAborts_kept
      | (with_reducible refine State.runGroup_kept ?_ (by assumption) ‹_› (by with_reducible assumption) (by assumption) ‹_› (by with_reducible assumption) (by assumption) ‹_› (by with_reducible assumption) (by assumption) ‹_› (by with_reducible assumption) (by assumption) ‹_› (by with_reducible assumption) (by assumption) ‹_› (by with_reducible assumption) (by assumption) ‹_› (by with_reducible assumption) (by assumption) ‹_› (by with_reducible assumption) (by assumption) ‹_› (by with_reducible assumption) (by assumption) ‹_› (by with_reducible assumption) (by assumption) ‹_› (by with_reducible assumption) (by assumption) _ (by assumption))
      | with_reducible apply State.modMig_kept
      | split
  | cons y_ l_ ih =>
    unfold State.pickSwitch
    repeat' first
      | with_reducible apply ih
      | with_reducible assumption
      | with_reducible apply State.modCg_kept
      | with_reducible apply State.nextSwitch_kept
      | with_reducible apply State.groupAborts_kept
      | (with_reducible refine State.runGroup_kept ?_ (by assumption) ‹_› (by with_reducible assumption) (by assumption) ‹_› (by with_reducible assumption) (by assumption) ‹_› (by with_reducible assumption) (by assumption) ‹_› (by with_reducible assumption) (by assumption) ‹_› (by with_reducible assumption) (by assumption) ‹_› (by with_reducible assumption) (by assumption) ‹_› (by with_reducible assumption) (by assumption) ‹_› (by with_reducible assumption) (by assumption) ‹_› (by with_reducible assumption) (by assumption) ‹_› (by with_reducible assumption) (by assumption) ‹_› (by with_reducible assumption) (by assumption) _ (by assumption))
      | with_reducible apply State.modMig_kept
      | split

theorem State.boundaryWith_kept {s : State} {e : Nat} (h : s.Kept p) (_ : p.may .rdata) (_ : p.may .regs) (_ : p.may .logs) (_ : p.may .mem) (_ : p.may .poison) (_ : p.may .upset) (_ : p.may .cells) (_ : p.may .tb) (_ : p.may .evr) (_ : p.may .line) (_ : p.may .auth) (_ : p.may .safe) (_ : p.may .hostEvent) (_ : p.may .frt) (_ : p.may .vats) (_ : p.may .mig) (_ : p.may .harp) (_ : p.may .harpShare) (_ : p.may .walkers) (_ : p.may .swaps) (_ : p.may .ing) (_ : p.may .fus) (_ : p.may .slv) (_ : p.may .pln) (_ : p.may .lp) (_ : p.may .tsn) (_ : p.may .xsl) (_ : p.may .fbx) (_ : p.may .wd) (_ : p.may .diag) (_ : p.may .pwr) (_ : p.may .trace) (_ : p.may .traceDrop) (_ : p.may .msix) (_ : p.may .cg) (_ : p.may .firm) (_ : p.may .snapCmp) (_ : p.may .now) :
    State.Kept p (State.boundaryWith s e) := by
  unfold State.boundaryWith
  repeat' first
    | with_reducible assumption
    | (intro x; first
        | (refine (have hx : State.Kept p x := ?_; ?_); subst x; rotate_left; clear_value x; rotate_right)
        | (refine (have hx : State.Kept p x.1 := ?_; ?_); subst x; rotate_left; clear_value x; rotate_right)
        | (try clear_value x))
    | lift_lets -underBinder
    | with_reducible apply State.Kept.ite
    | with_reducible apply State.groupDone_kept
    | with_reducible apply State.setReg_kept
    | with_reducible apply State.nextSwitch_kept
    | with_reducible apply State.frameBoundary_kept
    | with_reducible apply State.pickSwitch_kept
    | with_reducible apply State.forceGroup_kept
    | (with_reducible apply State.Kept.upd_frt <;> with_reducible assumption)
    | split

theorem State.relayPoll_kept {s : State} (h : s.Kept p) (_ : p.may .regs) (_ : p.may .logs) (_ : p.may .upset) (_ : p.may .evr) (_ : p.may .line) (_ : p.may .auth) (_ : p.may .safe) (_ : p.may .hostEvent) (_ : p.may .fbx) (_ : p.may .trace) (_ : p.may .traceDrop) (_ : p.may .msix) (_ : p.may .cg) (_ : p.may .firm) (_ : p.may .now) :
    State.Kept p (State.relayPoll s) := by
  unfold State.relayPoll
  repeat' first
    | with_reducible assumption
    | (intro x; first
        | (refine (have hx : State.Kept p x := ?_; ?_); subst x; rotate_left; clear_value x; rotate_right)
        | (refine (have hx : State.Kept p x.1 := ?_; ?_); subst x; rotate_left; clear_value x; rotate_right)
        | (try clear_value x))
    | lift_lets -underBinder
    | with_reducible apply State.Kept.ite
    | with_reducible apply State.eccRead_kept
    | with_reducible apply State.modFirm_kept
    | with_reducible apply State.relayPump_kept
    | split

theorem majorFrameStartEffect_kept {s : State} (h : s.Kept p) (_ : p.may .rdata) (_ : p.may .regs) (_ : p.may .logs) (_ : p.may .mem) (_ : p.may .poison) (_ : p.may .upset) (_ : p.may .cells) (_ : p.may .tb) (_ : p.may .evr) (_ : p.may .line) (_ : p.may .auth) (_ : p.may .safe) (_ : p.may .hostEvent) (_ : p.may .frt) (_ : p.may .vats) (_ : p.may .mig) (_ : p.may .harp) (_ : p.may .harpShare) (_ : p.may .walkers) (_ : p.may .swaps) (_ : p.may .ing) (_ : p.may .fus) (_ : p.may .slv) (_ : p.may .pln) (_ : p.may .lp) (_ : p.may .tsn) (_ : p.may .xsl) (_ : p.may .fbx) (_ : p.may .wd) (_ : p.may .diag) (_ : p.may .pwr) (_ : p.may .trace) (_ : p.may .traceDrop) (_ : p.may .msix) (_ : p.may .cg) (_ : p.may .firm) (_ : p.may .snapCmp) (_ : p.may .now) :
    State.Kept p (majorFrameStartEffect s) := by
  unfold majorFrameStartEffect
  repeat' first
    | with_reducible assumption
    | with_reducible apply State.boundaryWith_kept
    | with_reducible apply State.relayPoll_kept
    | with_reducible apply State.belowMin_kept
    | with_reducible apply State.syncState_kept
    | split

theorem State.answer_kept {s : State} {status : Nat} (h : s.Kept p) (_ : p.may .rdata) :
    State.Kept p (State.answer s status) := by
  unfold State.answer
  exact State.Kept.upd_rdata h (by assumption)

theorem State.refusedReq_kept {s : State} {i : Initiator} {p' : Option Nat} {a : Nat} {op : FabricOp} (h : s.Kept p) (_ : p.may .rdata) (_ : p.may .regs) (_ : p.may .logs) :
    State.Kept p (State.refusedReq s i p' a op) := by
  unfold State.refusedReq
  repeat' first
    | with_reducible assumption
    | (intro x; first
        | (refine (have hx : State.Kept p x := ?_; ?_); subst x; rotate_left; clear_value x; rotate_right)
        | (refine (have hx : State.Kept p x.1 := ?_; ?_); subst x; rotate_left; clear_value x; rotate_right)
        | (try clear_value x))
    | lift_lets -underBinder
    | with_reducible apply State.Kept.ite
    | with_reducible apply State.Kept.foldl
    | with_reducible apply State.Kept.foldl_fst
    | with_reducible apply State.refuse_kept
    | (with_reducible apply State.Kept.upd_rdata <;> (first
      | with_reducible assumption
      | (intro _; with_reducible rfl)
      | (intro _; decide)
      | with_reducible apply State.refuse_kept))
    | split

theorem State.actReq_kept {s : State} {i : Initiator} {p' : Nat} {a : Nat} {n : Nat} (h : s.Kept p) (_ : p.may .pwr) :
    State.Kept p (State.actReq s i p' a n) := by
  unfold State.actReq
  repeat' first
    | with_reducible assumption
    | with_reducible apply State.actMover_kept
    | with_reducible apply State.actHub_kept
    | split

theorem State.linkError_kept {s : State} {a : Nat} {p' : Nat} {d : DoubtInfo} (h : s.Kept p) (_ : p.may .regs) (_ : p.may .logs) (_ : p.may .evr) (_ : p.may .line) (_ : p.may .auth) (_ : p.may .safe) (_ : p.may .hostEvent) (_ : p.may .fbx) (_ : p.may .trace) (_ : p.may .traceDrop) (_ : p.may .msix) (_ : p.may .firm) (_ : p.may .now) :
    State.Kept p (State.linkError s a p' d) := by
  unfold State.linkError
  repeat' first
    | with_reducible assumption
    | (intro x; first
        | (refine (have hx : State.Kept p x := ?_; ?_); subst x; rotate_left; clear_value x; rotate_right)
        | (refine (have hx : State.Kept p x.1 := ?_; ?_); subst x; rotate_left; clear_value x; rotate_right)
        | (try clear_value x))
    | lift_lets -underBinder
    | with_reducible apply State.Kept.ite
    | with_reducible apply State.bump_kept
    | with_reducible apply State.pushLog_kept
    | with_reducible apply State.raise_kept
    | split

theorem State.transitErr_kept {s : State} {tr : Transit} {rows : List Nat} {a : Nat} {p' : Nat} {d : DoubtInfo} (h : s.Kept p) (_ : p.may .regs) (_ : p.may .logs) (_ : p.may .evr) (_ : p.may .line) (_ : p.may .auth) (_ : p.may .safe) (_ : p.may .hostEvent) (_ : p.may .fbx) (_ : p.may .trace) (_ : p.may .traceDrop) (_ : p.may .msix) (_ : p.may .firm) (_ : p.may .now) :
    State.Kept p (State.transitErr s tr rows a p' d) := by
  unfold State.transitErr
  repeat' first
    | with_reducible assumption
    | with_reducible apply State.Kept.ite
    | with_reducible apply State.countCE_kept
    | with_reducible apply State.linkError_kept
    | with_reducible apply State.uncorrectable_kept
    | split

theorem State.imagePart_kept {s : State} {i : Initiator} {p' : Nat} {a : Nat} {n : Nat} {deadline : Option Nat} {tr : Transit} (h : s.Kept p) (_ : p.may .regs) (_ : p.may .logs) (_ : p.may .mem) (_ : p.may .poison) (_ : p.may .upset) (_ : p.may .evr) (_ : p.may .line) (_ : p.may .auth) (_ : p.may .safe) (_ : p.may .hostEvent) (_ : p.may .mig) (_ : p.may .fbx) (_ : p.may .trace) (_ : p.may .traceDrop) (_ : p.may .msix) (_ : p.may .firm) (_ : p.may .now) :
    State.Kept p (State.imagePart s i p' a n deadline tr).1 := by
  unfold State.imagePart
  repeat' first
    | with_reducible assumption
    | (intro x; first
        | (refine (have hx : State.Kept p x := ?_; ?_); subst x; rotate_left; clear_value x; rotate_right)
        | (refine (have hx : State.Kept p x.1 := ?_; ?_); subst x; rotate_left; clear_value x; rotate_right)
        | (try clear_value x))
    | lift_lets -underBinder
    | with_reducible apply State.Kept.ite
    | with_reducible apply State.readPart_kept
    | with_reducible apply State.holdRead_kept
    | with_reducible apply State.withdraw_kept
    | with_reducible apply State.transitErr_kept
    | split

theorem State.imageReq_kept {s : State} {i : Initiator} {p' : Nat} {a : Nat} {n : Nat} {deadline : Option Nat} {tr : Transit} (h : s.Kept p) (_ : p.may .rdata) (_ : p.may .regs) (_ : p.may .logs) (_ : p.may .mem) (_ : p.may .poison) (_ : p.may .upset) (_ : p.may .evr) (_ : p.may .line) (_ : p.may .auth) (_ : p.may .safe) (_ : p.may .hostEvent) (_ : p.may .mig) (_ : p.may .fbx) (_ : p.may .pwr) (_ : p.may .trace) (_ : p.may .traceDrop) (_ : p.may .msix) (_ : p.may .firm) (_ : p.may .now) :
    State.Kept p (State.imageReq s i p' a n deadline tr) := by
  unfold State.imageReq
  repeat' first
    | with_reducible assumption
    | (intro x; first
        | (refine (have hx : State.Kept p x := ?_; ?_); subst x; rotate_left; clear_value x; rotate_right)
        | (refine (have hx : State.Kept p x.1 := ?_; ?_); subst x; rotate_left; clear_value x; rotate_right)
        | (try clear_value x))
    | lift_lets -underBinder
    | with_reducible apply State.Kept.ite
    | with_reducible apply State.Kept.foldl
    | with_reducible apply State.Kept.foldl_fst
    | with_reducible apply State.answer_kept
    | with_reducible apply State.imagePart_kept
    | with_reducible apply State.actReq_kept
    | (with_reducible apply State.Kept.upd_rdata <;> with_reducible assumption)
    | split

theorem State.readErrs_kept {s : State} {i : Initiator} {p' : Nat} {a : Nat} {n : Nat} (h : s.Kept p) (_ : p.may .regs) (_ : p.may .logs) (_ : p.may .mem) (_ : p.may .poison) (_ : p.may .upset) (_ : p.may .evr) (_ : p.may .line) (_ : p.may .auth) (_ : p.may .safe) (_ : p.may .hostEvent) (_ : p.may .mig) (_ : p.may .fbx) (_ : p.may .trace) (_ : p.may .traceDrop) (_ : p.may .msix) (_ : p.may .firm) (_ : p.may .now) :
    State.Kept p (State.readErrs s i p' a n) := by
  unfold State.readErrs
  repeat' first
    | with_reducible assumption
    | with_reducible apply State.Kept.ite
    | with_reducible apply State.eccRead_kept
    | with_reducible apply State.withdrawAt_kept
    | split

theorem State.localReq_kept {s : State} {i : Initiator} {p' : Option Nat} {a : Nat} {op : FabricOp} {deadline : Option Nat} {tr : Transit} (h : s.Kept p) (_ : p.may .rdata) (_ : p.may .regs) (_ : p.may .logs) (_ : p.may .mem) (_ : p.may .poison) (_ : p.may .upset) (_ : p.may .cells) (_ : p.may .evr) (_ : p.may .line) (_ : p.may .auth) (_ : p.may .safe) (_ : p.may .hostEvent) (_ : p.may .mig) (_ : p.may .fbx) (_ : p.may .pwr) (_ : p.may .trace) (_ : p.may .traceDrop) (_ : p.may .msix) (_ : p.may .firm) (_ : p.may .now) :
    State.Kept p (State.localReq s i p' a op deadline tr) := by
  unfold State.localReq
  repeat' first
    | with_reducible assumption
    | (intro x; first
        | (refine (have hx : State.Kept p x := ?_; ?_); subst x; rotate_left; clear_value x; rotate_right)
        | (refine (have hx : State.Kept p x.1 := ?_; ?_); subst x; rotate_left; clear_value x; rotate_right)
        | (try clear_value x))
    | lift_lets -underBinder
    | with_reducible apply State.Kept.ite
    | with_reducible apply State.answer_kept
    | with_reducible apply State.refusedReq_kept
    | with_reducible apply State.cellOp_kept
    | with_reducible apply State.actReq_kept
    | with_reducible apply State.transitErr_kept
    | with_reducible apply State.readErrs_kept
    | with_reducible apply State.putBytes_kept
    | with_reducible apply State.imageReq_kept
    | (with_reducible apply State.Kept.upd_rdata <;> with_reducible assumption)
    | split

theorem State.sendParts_kept {s : State} {who : Waiter} {dev : Nat} {gen : Nat} {base : Nat} {l : List Byte} {bad : Bool} {a1_ : List (Nat × Nat)} (h : s.Kept p) (_ : p.may .xsl) :
    ∀ r_, (State.sendParts s who dev gen base l bad a1_) = some r_ → State.Kept p r_ := by
  induction a1_ generalizing s who dev gen base l bad with
  | nil =>
    intro t e
    unfold State.sendParts at e
    try dsimp only at e
    repeat' (first | (cases e; done) | split at e)
    all_goals (try cases e)
    repeat' first
      | with_reducible assumption
      | (with_reducible refine State.sendMsg_kept ?_ (by assumption) _ (by assumption))
      | split
  | cons y_ l_ ih =>
    intro t e
    unfold State.sendParts at e
    try dsimp only at e
    repeat' (first | (cases e; done) | split at e)
    all_goals (try cases e)
    repeat' first
      | (with_reducible refine ih ?_ _ (by assumption))
      | with_reducible assumption
      | (with_reducible refine State.sendMsg_kept ?_ (by assumption) _ (by assumption))
      | split

theorem State.remoteReq_kept {s : State} {i : Initiator} {p' : Option Nat} {dev : Nat} {gen : Nat} {a : Nat} {op : FabricOp} {tr : Transit} (h : s.Kept p) (_ : p.may .rdata) (_ : p.may .regs) (_ : p.may .logs) (_ : p.may .xsl) :
    State.Kept p (State.remoteReq s i p' dev gen a op tr) := by
  unfold State.remoteReq
  repeat' first
    | with_reducible assumption
    | intro x
    | dsimp only
    | with_reducible apply State.Kept.ite
    | with_reducible apply State.Kept.foldl
    | with_reducible apply State.Kept.foldl_fst
    | with_reducible apply State.Kept.getD
    | with_reducible apply State.answer_kept
    | with_reducible apply State.refusedReq_kept
    | (with_reducible refine State.sendParts_kept ?_ (by assumption) _ (by assumption))
    | (with_reducible refine State.sendMsg_kept ?_ (by assumption) _ (by assumption))
    | split

theorem State.regReq_kept {s : State} {a : Nat} {op : FabricOp} (h : s.Kept p) (_ : p.may .rdata) (_ : p.may .regs) (_ : p.may .logs) (_ : p.may .mem) (_ : p.may .poison) (_ : p.may .upset) (_ : p.may .cells) (_ : p.may .tb) (_ : p.may .evr) (_ : p.may .line) (_ : p.may .auth) (_ : p.may .safe) (_ : p.may .hostEvent) (_ : p.may .frt) (_ : p.may .vats) (_ : p.may .mig) (_ : p.may .harp) (_ : p.may .swaps) (_ : p.may .ing) (_ : p.may .fus) (_ : p.may .slv) (_ : p.may .pln) (_ : p.may .lp) (_ : p.may .tsn) (_ : p.may .xsl) (_ : p.may .fbx) (_ : p.may .wd) (_ : p.may .diag) (_ : p.may .pwr) (_ : p.may .trace) (_ : p.may .traceDrop) (_ : p.may .msix) (_ : p.may .cg) (_ : p.may .firm) (_ : p.may .snapCmp) (_ : p.may .now) :
    State.Kept p (State.regReq s a op) := by
  unfold State.regReq
  repeat' first
    | with_reducible assumption
    | intro x
    | dsimp only
    | with_reducible apply State.Kept.ite
    | with_reducible apply State.Kept.foldl
    | with_reducible apply State.Kept.foldl_fst
    | with_reducible apply State.hwSetBit_kept
    | with_reducible apply State.answer_kept
    | with_reducible apply registerWriteEffect_kept
    | with_reducible apply State.refusedReq_kept
    | with_reducible apply State.mgmtRead_kept
    | (with_reducible apply State.Kept.upd_rdata <;> (first
      | with_reducible assumption
      | (intro _; with_reducible rfl)
      | (intro _; decide)
      | with_reducible apply State.hwSetBit_kept
      | with_reducible apply State.answer_kept
      | with_reducible apply registerWriteEffect_kept
      | with_reducible apply State.refusedReq_kept
      | with_reducible apply State.mgmtRead_kept))
    | split

theorem fabricRequestEffect_kept {i : Initiator} {p' : Fin 16} {addr : BitVec 54} {gen : BitVec 16} {op : FabricOp} {deadline : Option (BitVec 64)} {tr : Transit} {s : State} (h : s.Kept p) (_ : p.may .rdata) (_ : p.may .regs) (_ : p.may .logs) (_ : p.may .mem) (_ : p.may .poison) (_ : p.may .upset) (_ : p.may .cells) (_ : p.may .tb) (_ : p.may .evr) (_ : p.may .line) (_ : p.may .auth) (_ : p.may .safe) (_ : p.may .hostEvent) (_ : p.may .frt) (_ : p.may .vats) (_ : p.may .mig) (_ : p.may .harp) (_ : p.may .swaps) (_ : p.may .ing) (_ : p.may .fus) (_ : p.may .slv) (_ : p.may .pln) (_ : p.may .lp) (_ : p.may .tsn) (_ : p.may .xsl) (_ : p.may .fbx) (_ : p.may .wd) (_ : p.may .diag) (_ : p.may .pwr) (_ : p.may .trace) (_ : p.may .traceDrop) (_ : p.may .msix) (_ : p.may .cg) (_ : p.may .firm) (_ : p.may .snapCmp) (_ : p.may .now) :
    State.Kept p (fabricRequestEffect i p' addr gen op deadline tr s) := by
  unfold fabricRequestEffect
  repeat' first
    | with_reducible assumption
    | (intro x; first
        | (refine (have hx : State.Kept p x := ?_; ?_); subst x; rotate_left; clear_value x; rotate_right)
        | (refine (have hx : State.Kept p x.1 := ?_; ?_); subst x; rotate_left; clear_value x; rotate_right)
        | (try clear_value x))
    | lift_lets -underBinder
    | with_reducible apply State.Kept.ite
    | with_reducible apply State.localReq_kept
    | with_reducible apply State.remoteReq_kept
    | with_reducible apply State.regReq_kept
    | split

theorem syncCellOperationEffect_kept {v : VatNo} {k : Fin 16384} {ops : List (Fin 6 × CellOp)} {s : State} (h : s.Kept p) (_ : p.may .cells) (_ : p.may .now) :
    State.Kept p (syncCellOperationEffect v k ops s) := by
  unfold syncCellOperationEffect
  repeat' first
    | with_reducible assumption
    | (intro x; first
        | (refine (have hx : State.Kept p x := ?_; ?_); subst x; rotate_left; clear_value x; rotate_right)
        | (refine (have hx : State.Kept p x.1 := ?_; ?_); subst x; rotate_left; clear_value x; rotate_right)
        | (try clear_value x))
    | lift_lets -underBinder
    | with_reducible apply State.Kept.foldl
    | with_reducible apply State.Kept.foldl_fst
    | with_reducible apply State.cellDo_kept

end Sys2Proof.Machine
end

