-- ==== Sys2Proof/Laws/KeptRecorder.lean ====
section
/-! SUPPORT. State.Kept through the operations of Machine/Recorder.lean. -/

set_option linter.all false

namespace Sys2Proof.Machine

variable {p : Promise}

theorem State.modEvr_kept {s : State} {f : Recorder → Recorder} (h : s.Kept p) (_ : p.may .evr) :
    State.Kept p (State.modEvr s f) := by
  unfold State.modEvr
  exact State.Kept.upd_evr h (by assumption)

theorem eventRecordPostEffect_kept {kind : Fin 6} {code : BitVec 16} {role : Fin 4} {mbox : BitVec 8} {frame : BitVec 32} {stw : BitVec 32} {detail : BitVec 224} {s : State} (h : s.Kept p) (_ : p.may .regs) (_ : p.may .evr) (_ : p.may .hostEvent) (_ : p.may .msix) (_ : p.may .now) :
    State.Kept p (eventRecordPostEffect kind code role mbox frame stw detail s) := by
  unfold eventRecordPostEffect
  repeat' first
    | with_reducible assumption
    | with_reducible apply State.Kept.ite
    | with_reducible apply State.post_kept
    | split

theorem State.mramWrite_kept {s : State} {r : EvRecord} (h : s.Kept p) (_ : p.may .regs) (_ : p.may .evr) :
    State.Kept p (State.mramWrite s r) := by
  unfold State.mramWrite
  repeat' first
    | with_reducible assumption
    | (intro x; first
        | (refine (have hx : State.Kept p x := ?_; ?_); subst x; rotate_left; clear_value x; rotate_right)
        | (refine (have hx : State.Kept p x.1 := ?_; ?_); subst x; rotate_left; clear_value x; rotate_right)
        | (try clear_value x))
    | lift_lets -underBinder
    | with_reducible apply State.Kept.ite
    | with_reducible apply State.bump_kept
    | with_reducible apply State.modEvr_kept
    | split

theorem State.mramRecord_kept {s : State} {code : Nat} {detail : Nat} (h : s.Kept p) (_ : p.may .regs) (_ : p.may .evr) (_ : p.may .hostEvent) (_ : p.may .msix) (_ : p.may .now) :
    State.Kept p (State.mramRecord s code detail) := by
  unfold State.mramRecord
  repeat' first
    | with_reducible assumption
    | (intro x; first
        | (refine (have hx : State.Kept p x := ?_; ?_); subst x; rotate_left; clear_value x; rotate_right)
        | (refine (have hx : State.Kept p x.1 := ?_; ?_); subst x; rotate_left; clear_value x; rotate_right)
        | (try clear_value x))
    | lift_lets -underBinder
    | with_reducible apply State.mramWrite_kept
    | with_reducible apply State.hostEv_kept
    | with_reducible apply State.modEvr_kept

theorem State.flushEnd_kept {s : State} (h : s.Kept p) (_ : p.may .regs) (_ : p.may .evr) (_ : p.may .hostEvent) (_ : p.may .msix) (_ : p.may .now) :
    State.Kept p (State.flushEnd s) := by
  unfold State.flushEnd
  repeat' first
    | with_reducible assumption
    | (intro x; first
        | (refine (have hx : State.Kept p x := ?_; ?_); subst x; rotate_left; clear_value x; rotate_right)
        | (refine (have hx : State.Kept p x.1 := ?_; ?_); subst x; rotate_left; clear_value x; rotate_right)
        | (try clear_value x))
    | lift_lets -underBinder
    | with_reducible apply State.mramRecord_kept
    | with_reducible apply State.modEvr_kept
    | split

theorem evrFlushWriteEffect_kept {s : State} (h : s.Kept p) (_ : p.may .regs) (_ : p.may .evr) (_ : p.may .hostEvent) (_ : p.may .msix) (_ : p.may .now) :
    State.Kept p (evrFlushWriteEffect s) := by
  unfold evrFlushWriteEffect
  repeat' first
    | with_reducible assumption
    | (intro x; first
        | (refine (have hx : State.Kept p x := ?_; ?_); subst x; rotate_left; clear_value x; rotate_right)
        | (refine (have hx : State.Kept p x.1 := ?_; ?_); subst x; rotate_left; clear_value x; rotate_right)
        | (try clear_value x))
    | lift_lets -underBinder
    | with_reducible apply State.Kept.ite
    | with_reducible apply State.mramWrite_kept
    | with_reducible apply State.flushEnd_kept
    | with_reducible apply State.modEvr_kept
    | split

theorem evrFlushTimerEffect_kept {s : State} (h : s.Kept p) (_ : p.may .evr) :
    State.Kept p (evrFlushTimerEffect s) := by
  unfold evrFlushTimerEffect
  repeat' first
    | with_reducible assumption
    | with_reducible apply State.Kept.ite
    | with_reducible apply State.modEvr_kept
    | split

theorem evrWindowReadEffect_kept {port : Bool} {s : State} (h : s.Kept p) (_ : p.may .rdata) (_ : p.may .regs) (_ : p.may .logs) (_ : p.may .tb) (_ : p.may .evr) (_ : p.may .diag) (_ : p.may .trace) (_ : p.may .traceDrop) :
    State.Kept p (evrWindowReadEffect port s) := by
  unfold evrWindowReadEffect
  repeat' first
    | with_reducible assumption
    | (intro x; first
        | (refine (have hx : State.Kept p x := ?_; ?_); subst x; rotate_left; clear_value x; rotate_right)
        | (refine (have hx : State.Kept p x.1 := ?_; ?_); subst x; rotate_left; clear_value x; rotate_right)
        | (try clear_value x))
    | lift_lets -underBinder
    | with_reducible apply State.Kept.ite
    | with_reducible apply State.coreRead_kept
    | (with_reducible apply State.Kept.upd_rdata <;> with_reducible assumption)
    | split

theorem State.shutDown_kept {s : State} (h : s.Kept p) (_ : p.may .regs) (_ : p.may .hostEvent) (_ : p.may .mig) (_ : p.may .msix) (_ : p.may .firm) (_ : p.may .now) :
    State.Kept p (State.shutDown s) := by
  unfold State.shutDown
  repeat' first
    | with_reducible assumption
    | (intro x; first
        | (refine (have hx : State.Kept p x := ?_; ?_); subst x; rotate_left; clear_value x; rotate_right)
        | (refine (have hx : State.Kept p x.1 := ?_; ?_); subst x; rotate_left; clear_value x; rotate_right)
        | (try clear_value x))
    | lift_lets -underBinder
    | with_reducible apply State.Kept.ite
    | with_reducible apply State.modFirm_kept
    | with_reducible apply State.setFw_kept
    | with_reducible apply State.modMig_kept
    | split

theorem powerFailWarningEffect_kept {low : Bool} {s : State} (h : s.Kept p) (_ : p.may .regs) (_ : p.may .evr) (_ : p.may .hostEvent) (_ : p.may .mig) (_ : p.may .msix) (_ : p.may .firm) (_ : p.may .now) :
    State.Kept p (powerFailWarningEffect low s) := by
  unfold powerFailWarningEffect
  repeat' first
    | with_reducible assumption
    | with_reducible apply State.Kept.ite
    | with_reducible apply State.shutDown_kept
    | with_reducible apply State.setRegBit_kept
    | with_reducible apply State.modEvr_kept
    | split

theorem powerFailRecoveryEffect_kept {s : State} (h : s.Kept p) (_ : p.may .regs) (_ : p.may .evr) (_ : p.may .hostEvent) (_ : p.may .msix) (_ : p.may .now) :
    State.Kept p (powerFailRecoveryEffect s) := by
  unfold powerFailRecoveryEffect
  repeat' first
    | with_reducible assumption
    | (intro x; first
        | (refine (have hx : State.Kept p x := ?_; ?_); subst x; rotate_left; clear_value x; rotate_right)
        | (refine (have hx : State.Kept p x.1 := ?_; ?_); subst x; rotate_left; clear_value x; rotate_right)
        | (try clear_value x))
    | lift_lets -underBinder
    | with_reducible apply State.Kept.ite
    | with_reducible apply State.setReg_kept
    | with_reducible apply State.postRd_kept
    | with_reducible apply State.setFw_kept
    | split

theorem nvInhibitEffect_kept {s : State} (h : s.Kept p) (_ : p.may .regs) :
    State.Kept p (nvInhibitEffect s) := by
  unfold nvInhibitEffect
  repeat' first
    | with_reducible assumption
    | with_reducible apply State.Kept.ite
    | with_reducible apply State.setRegBit_kept
    | split

theorem snapshotTriggerEffect_kept {sources : BitVec 5} {s : State} (h : s.Kept p) (_ : p.may .regs) (_ : p.may .now) :
    State.Kept p (snapshotTriggerEffect sources s) := by
  unfold snapshotTriggerEffect
  repeat' first
    | with_reducible assumption
    | with_reducible apply State.Kept.ite
    | with_reducible apply State.snapshotFire_kept
    | split

theorem snapInEdgeEffect_kept {s : State} (h : s.Kept p) (_ : p.may .regs) (_ : p.may .now) :
    State.Kept p (snapInEdgeEffect s) := by
  unfold snapInEdgeEffect
  repeat' first
    | with_reducible assumption
    | with_reducible apply State.snapshotFire_kept

theorem snapshotCompareInstantEffect_kept {s : State} (h : s.Kept p) (_ : p.may .regs) (_ : p.may .snapCmp) (_ : p.may .now) :
    State.Kept p (snapshotCompareInstantEffect s) := by
  unfold snapshotCompareInstantEffect
  repeat' first
    | with_reducible assumption
    | with_reducible apply State.Kept.ite
    | with_reducible apply State.snapshotFire_kept
    | (with_reducible apply State.Kept.upd_snapCmp <;> with_reducible assumption)
    | split

theorem State.portAt_kept {s : State} {k : Nat} {o : Option RegRow} (h : s.Kept p) (_ : p.may .regs) (_ : p.may .logs) (_ : p.may .tb) (_ : p.may .evr) (_ : p.may .diag) (_ : p.may .trace) (_ : p.may .traceDrop) (_ : p.may .obs) :
    State.Kept p (State.portAt s k o).1 := by
  unfold State.portAt
  repeat' first
    | with_reducible assumption
    | (intro x; first
        | (refine (have hx : State.Kept p x := ?_; ?_); subst x; rotate_left; clear_value x; rotate_right)
        | (refine (have hx : State.Kept p x.1 := ?_; ?_); subst x; rotate_left; clear_value x; rotate_right)
        | (try clear_value x))
    | lift_lets -underBinder
    | with_reducible apply State.Kept.ite
    | with_reducible apply State.coreRead_kept
    | (with_reducible apply State.Kept.upd_obs <;> with_reducible assumption)
    | split

theorem State.portCount_kept {s : State} {a : Nat} (h : s.Kept p) (_ : p.may .regs) (_ : p.may .obs) :
    State.Kept p (State.portCount s a) := by
  unfold State.portCount
  repeat' first
    | with_reducible assumption
    | (intro x; first
        | (refine (have hx : State.Kept p x := ?_; ?_); subst x; rotate_left; clear_value x; rotate_right)
        | (refine (have hx : State.Kept p x.1 := ?_; ?_); subst x; rotate_left; clear_value x; rotate_right)
        | (try clear_value x))
    | lift_lets -underBinder
    | with_reducible apply State.bump_kept
    | (with_reducible apply State.Kept.upd_obs <;> with_reducible assumption)

theorem State.portWord_kept {s : State} {a : Nat} (h : s.Kept p) (_ : p.may .regs) (_ : p.may .logs) (_ : p.may .tb) (_ : p.may .evr) (_ : p.may .diag) (_ : p.may .trace) (_ : p.may .traceDrop) (_ : p.may .obs) :
    State.Kept p (State.portWord s a).1 := by
  generalize e : State.portWord s a = t
  unfold State.portWord at e
  try dsimp only at e
  repeat' split at e
  all_goals subst e
  repeat' first
    | with_reducible assumption
    | intro x
    | dsimp only
    | with_reducible apply State.Kept.ite
    | with_reducible apply State.Kept.foldl
    | with_reducible apply State.Kept.foldl_fst
    | with_reducible apply State.portCount_kept
    | with_reducible apply State.portAt_kept
    | split

theorem State.portWords_kept {s : State} {a1_ : Nat} {a2_ : Nat} (h : s.Kept p) (_ : p.may .regs) (_ : p.may .logs) (_ : p.may .tb) (_ : p.may .evr) (_ : p.may .diag) (_ : p.may .trace) (_ : p.may .traceDrop) (_ : p.may .obs) :
    State.Kept p (State.portWords s a1_ a2_).1 := by
  induction a1_ generalizing s a2_ with
  | zero =>
    unfold State.portWords
    repeat' first
      | with_reducible assumption
      | (intro x; first
          | (refine (have hx : State.Kept p x := ?_; ?_); subst x; rotate_left; clear_value x; rotate_right)
          | (refine (have hx : State.Kept p x.1 := ?_; ?_); subst x; rotate_left; clear_value x; rotate_right)
          | (try clear_value x))
      | lift_lets -underBinder
      | with_reducible apply State.portWord_kept
  | succ n_ ih =>
    unfold State.portWords
    repeat' first
      | with_reducible apply ih
      | with_reducible assumption
      | (intro x; first
          | (refine (have hx : State.Kept p x := ?_; ?_); subst x; rotate_left; clear_value x; rotate_right)
          | (refine (have hx : State.Kept p x.1 := ?_; ?_); subst x; rotate_left; clear_value x; rotate_right)
          | (try clear_value x))
      | lift_lets -underBinder
      | with_reducible apply State.portWord_kept

theorem obsReadEffect_kept {addr : BitVec 48} {words : Nat} {s : State} (h : s.Kept p) (_ : p.may .rdata) (_ : p.may .regs) (_ : p.may .logs) (_ : p.may .tb) (_ : p.may .evr) (_ : p.may .diag) (_ : p.may .trace) (_ : p.may .traceDrop) (_ : p.may .obs) :
    State.Kept p (obsReadEffect addr words s) := by
  unfold obsReadEffect
  repeat' first
    | with_reducible assumption
    | (intro x; first
        | (refine (have hx : State.Kept p x := ?_; ?_); subst x; rotate_left; clear_value x; rotate_right)
        | (refine (have hx : State.Kept p x.1 := ?_; ?_); subst x; rotate_left; clear_value x; rotate_right)
        | (try clear_value x))
    | lift_lets -underBinder
    | with_reducible apply State.portWords_kept
    | (with_reducible apply State.Kept.upd_rdata <;> with_reducible assumption)

theorem obsStatusEffect_kept {s : State} (h : s.Kept p) (_ : p.may .rdata) :
    State.Kept p (obsStatusEffect s) := by
  unfold obsStatusEffect
  exact State.Kept.upd_rdata h (by assumption)

theorem obsTrcPopEffect_kept {s : State} (h : s.Kept p) (_ : p.may .rdata) (_ : p.may .regs) (_ : p.may .trace) (_ : p.may .traceDrop) :
    State.Kept p (obsTrcPopEffect s) := by
  unfold obsTrcPopEffect
  repeat' first
    | with_reducible assumption
    | (intro x; first
        | (refine (have hx : State.Kept p x := ?_; ?_); subst x; rotate_left; clear_value x; rotate_right)
        | (refine (have hx : State.Kept p x.1 := ?_; ?_); subst x; rotate_left; clear_value x; rotate_right)
        | (try clear_value x))
    | lift_lets -underBinder
    | with_reducible apply State.Kept.ite
    | with_reducible apply State.Kept.foldl
    | with_reducible apply State.Kept.foldl_fst
    | with_reducible apply State.popTrace_kept
    | (with_reducible apply State.Kept.upd_rdata <;> (first
      | with_reducible assumption
      | (intro _; with_reducible rfl)
      | (intro _; decide)
      | with_reducible apply State.popTrace_kept))
    | split

theorem counterReadClearEffect_kept {addr : BitVec 48} {s : State} (h : s.Kept p) (_ : p.may .rdata) (_ : p.may .regs) (_ : p.may .logs) (_ : p.may .tb) (_ : p.may .evr) (_ : p.may .diag) (_ : p.may .trace) (_ : p.may .traceDrop) (_ : p.may .now) :
    State.Kept p (counterReadClearEffect addr s) := by
  unfold counterReadClearEffect
  repeat' first
    | with_reducible assumption
    | intro x
    | dsimp only
    | with_reducible apply State.Kept.ite
    | with_reducible apply State.Kept.foldl
    | with_reducible apply State.Kept.foldl_fst
    | with_reducible apply State.mgmtRead_kept
    | (with_reducible apply State.Kept.upd_rdata <;> (first
      | with_reducible assumption
      | (intro _; with_reducible rfl)
      | (intro _; decide)
      | with_reducible apply State.mgmtRead_kept))
    | split

theorem logReadAdvanceEffect_kept {addr : BitVec 48} {s : State} (h : s.Kept p) (_ : p.may .rdata) (_ : p.may .regs) (_ : p.may .logs) (_ : p.may .tb) (_ : p.may .evr) (_ : p.may .diag) (_ : p.may .trace) (_ : p.may .traceDrop) (_ : p.may .now) :
    State.Kept p (logReadAdvanceEffect addr s) := by
  unfold logReadAdvanceEffect
  repeat' first
    | with_reducible assumption
    | intro x
    | dsimp only
    | with_reducible apply State.Kept.ite
    | with_reducible apply State.Kept.foldl
    | with_reducible apply State.Kept.foldl_fst
    | with_reducible apply State.mgmtRead_kept
    | (with_reducible apply State.Kept.upd_rdata <;> (first
      | with_reducible assumption
      | (intro _; with_reducible rfl)
      | (intro _; decide)
      | with_reducible apply State.mgmtRead_kept))
    | split

end Sys2Proof.Machine
end

