-- ==== Sys2Proof/Laws/KeptStartup.lean ====
section
/-! SUPPORT. State.Kept through the operations of Machine/Startup.lean. -/

set_option linter.all false

namespace Sys2Proof.Machine

variable {p : Promise}

theorem mapWf_resetRegs : mapWf 0 State.reset.regs = true := by decide +kernel

theorem mapWf_foldl_mapSet {l r : List (Nat × Nat)} (h : mapWf 0 r = true) : mapWf 0 (l.foldl (fun m e => mapSet 0 m e.1 e.2) r) = true := by
  induction l generalizing r with
  | nil => exact h
  | cons e l ih => exact ih (mapWf_mapSet h)

theorem State.keptRegs_wf (s : State) (warm : Bool) : mapWf 0 (s.keptRegs warm) = true := by
  have h : mapWf 0 ((s.regs.filter (fun e => keepsReg warm e.1)).foldl (fun r e => mapSet 0 r e.1 e.2)
      (State.reset.regs.filter (fun e => !keepsReg warm e.1))) = true :=
    mapWf_foldl_mapSet (mapWf_filter mapWf_resetRegs)
  unfold State.keptRegs
  extract_lets base m
  split
  · exact mapWf_mapSet h
  · exact h

/-- The part of memory a warm reset keeps. -/
theorem memWf_kept {m : List Host.Cell} {warm : Bool} (h : memWf m = true) : memWf (if warm then m.filter (fun e => inLake e.1) else []) = true := by
  split
  · exact mapWf_filter h
  · rfl

theorem State.modStart_kept {s : State} {f : Startup → Startup} (h : s.Kept p) (_ : p.may .start) :
    State.Kept p (State.modStart s f) := by
  unfold State.modStart
  repeat' first
    | with_reducible assumption
    | (intro x; first
        | (refine (have hx : State.Kept p x := ?_; ?_); subst x; rotate_left; clear_value x; rotate_right)
        | (refine (have hx : State.Kept p x.1 := ?_; ?_); subst x; rotate_left; clear_value x; rotate_right)
        | (try clear_value x))
    | lift_lets -underBinder
    | with_reducible apply State.Kept.ite
    | with_reducible apply State.Kept.foldl
    | with_reducible apply State.Kept.foldl_fst
    | (with_reducible apply State.Kept.upd_start <;> with_reducible assumption)
    | split

theorem State.resetImage_kept {s : State} {warm : Bool} {step knd : Nat} (h : s.Kept p) (_ : p.may .tick) (_ : p.may .mainClk) (_ : p.may .regs) (_ : p.may .logs) (_ : p.may .mem) (_ : p.may .poison) (_ : p.may .upset) (_ : p.may .cells) (_ : p.may .tb) (_ : p.may .line) (_ : p.may .hostEvent) (_ : p.may .frt) (_ : p.may .vats) (_ : p.may .mig) (_ : p.may .harp) (_ : p.may .harpShare) (_ : p.may .walkers) (_ : p.may .swaps) (_ : p.may .ing) (_ : p.may .fus) (_ : p.may .slv) (_ : p.may .pln) (_ : p.may .lp) (_ : p.may .tsn) (_ : p.may .xsl) (_ : p.may .diag) (_ : p.may .pwr) (_ : p.may .trace) (_ : p.may .traceDrop) (_ : p.may .cg) (_ : p.may .firm) (_ : p.may .start) (_ : p.may .snapCmp) (_ : p.may .obs) (_ : p.may .now) :
    (s.resetImage warm step knd).Kept p := by
  unfold State.resetImage
  extract_lets z l1 l2 l3 l4 a b
  have ha : a.Kept p := h.build rfl (memWf_kept h.mem_wf) rfl (State.keptRegs_wf s warm) rfl rfl rfl rfl (fun f hf => by cases f <;> first | rfl | simp_all)
  have hb : b.Kept p := State.Kept.ite ha (by apply State.setReg_kept <;> with_reducible assumption)
  apply State.setRegBits_kept <;> with_reducible assumption


theorem State.holdReset_kept {s : State} (h : s.Kept p) (_ : p.may .tick) (_ : p.may .mainClk) (_ : p.may .regs) (_ : p.may .logs) (_ : p.may .mem) (_ : p.may .poison) (_ : p.may .upset) (_ : p.may .cells) (_ : p.may .tb) (_ : p.may .line) (_ : p.may .hostEvent) (_ : p.may .frt) (_ : p.may .vats) (_ : p.may .mig) (_ : p.may .harp) (_ : p.may .harpShare) (_ : p.may .walkers) (_ : p.may .swaps) (_ : p.may .ing) (_ : p.may .fus) (_ : p.may .slv) (_ : p.may .pln) (_ : p.may .lp) (_ : p.may .tsn) (_ : p.may .xsl) (_ : p.may .diag) (_ : p.may .pwr) (_ : p.may .trace) (_ : p.may .traceDrop) (_ : p.may .cg) (_ : p.may .firm) (_ : p.may .start) (_ : p.may .snapCmp) (_ : p.may .obs) (_ : p.may .now) :
    State.Kept p (State.holdReset s) := by
  unfold State.holdReset
  repeat' first
    | with_reducible assumption
    | with_reducible apply State.resetImage_kept

/-- The one command that sets SAFE aside. -/
theorem rindPowerOnEffect_kept {flash : List (Nat × List Byte)} {s : State} (h : s.Kept p) (_ : p.may .tick) (_ : p.may .mainClk) (_ : p.may .rclkOn) (_ : p.may .rphase) (_ : p.may .rclk) (_ : p.may .regs) (_ : p.may .logs) (_ : p.may .mem) (_ : p.may .poison) (_ : p.may .upset) (_ : p.may .cells) (_ : p.may .tb) (_ : p.may .evr) (_ : p.may .line) (_ : p.may .auth) (_ : p.may .safe) (_ : p.may .hostEvent) (_ : p.may .frt) (_ : p.may .vats) (_ : p.may .mig) (_ : p.may .harp) (_ : p.may .harpShare) (_ : p.may .walkers) (_ : p.may .swaps) (_ : p.may .ing) (_ : p.may .fus) (_ : p.may .slv) (_ : p.may .pln) (_ : p.may .lp) (_ : p.may .tsn) (_ : p.may .xsl) (_ : p.may .fbx) (_ : p.may .wd) (_ : p.may .diag) (_ : p.may .pwr) (_ : p.may .trace) (_ : p.may .traceDrop) (_ : p.may .cg) (_ : p.may .firm) (_ : p.may .keep) (_ : p.may .start) (_ : p.may .snapCmp) (_ : p.may .obs) (_ : p.may .now) (hsf : p.safe = false) :
    (rindPowerOnEffect flash s).Kept p := by
  have ha : State.Kept p ((flash.filter (fun e => norRegions.contains e.1)).foldl (fun t e => t.setNor e.1 e.2) s) :=
    State.Kept.foldl (fun _ _ ht => by apply State.setNor_kept <;> with_reducible assumption) h
  unfold rindPowerOnEffect
  generalize (flash.filter (fun e => norRegions.contains e.1)).foldl (fun t e => t.setNor e.1 e.2) s = a at ha
  apply State.resetImage_kept <;> try (with_reducible assumption)
  refine ⟨ha.queue, ?_, ha.fuses, by simp [hsf], fun _ => nofun, fun f hf => Part.same_trans (ha.frame f hf) (by cases f <;> first | rfl | simp_all)⟩
  have hm := ha.mem_wf
  have hc := ha.cells_wf
  simp only [State.canonical, Bool.and_eq_true]
  exact ⟨⟨⟨hm, hc⟩, mapWf_resetRegs⟩, ha.shape⟩


theorem State.scanMram_kept {s : State} {torn : List Nat} (h : s.Kept p) (_ : p.may .evr) :
    State.Kept p (State.scanMram s torn) := by
  unfold State.scanMram
  repeat' first
    | with_reducible assumption
    | (intro x; first
        | (refine (have hx : State.Kept p x := ?_; ?_); subst x; rotate_left; clear_value x; rotate_right)
        | (refine (have hx : State.Kept p x.1 := ?_; ?_); subst x; rotate_left; clear_value x; rotate_right)
        | (try clear_value x))
    | lift_lets -underBinder
    | with_reducible apply State.Kept.ite
    | with_reducible apply State.Kept.foldl
    | with_reducible apply State.Kept.foldl_fst
    | with_reducible apply State.modEvr_kept
    | split

theorem rindBootEndEffect_kept {fail : Bool} {torn : List Nat} {s : State} (h : s.Kept p) (_ : p.may .regs) (_ : p.may .evr) (_ : p.may .auth) (_ : p.may .safe) (_ : p.may .hostEvent) (_ : p.may .fbx) (_ : p.may .msix) (_ : p.may .start) (_ : p.may .now) :
    State.Kept p (rindBootEndEffect fail torn s) := by
  unfold rindBootEndEffect
  repeat' first
    | with_reducible assumption
    | (intro x; first
        | (refine (have hx : State.Kept p x := ?_; ?_); subst x; rotate_left; clear_value x; rotate_right)
        | (refine (have hx : State.Kept p x.1 := ?_; ?_); subst x; rotate_left; clear_value x; rotate_right)
        | (try clear_value x))
    | lift_lets -underBinder
    | with_reducible apply State.Kept.ite
    | with_reducible apply State.mramRecord_kept
    | with_reducible apply State.enterSafe_kept
    | with_reducible apply State.modStart_kept
    | with_reducible apply State.scanMram_kept
    | split

theorem rindSupplyLossEffect_kept {s : State} (h : s.Kept p) (_ : p.may .rclkOn) (_ : p.may .start) :
    State.Kept p (rindSupplyLossEffect s) := by
  unfold rindSupplyLossEffect
  exact State.Kept.upd_rclkOn_start h (by assumption) ‹_›

theorem rindXtalStopEffect_kept {s : State} (h : s.Kept p) (_ : p.may .rclkOn) :
    State.Kept p (rindXtalStopEffect s) := by
  unfold rindXtalStopEffect
  exact State.Kept.upd_rclkOn h (by assumption)

theorem mcResetReleaseEffect_kept {s : State} (h : s.Kept p) (_ : p.may .tick) (_ : p.may .mainClk) (_ : p.may .regs) (_ : p.may .logs) (_ : p.may .mem) (_ : p.may .poison) (_ : p.may .upset) (_ : p.may .cells) (_ : p.may .tb) (_ : p.may .line) (_ : p.may .hostEvent) (_ : p.may .frt) (_ : p.may .vats) (_ : p.may .mig) (_ : p.may .harp) (_ : p.may .harpShare) (_ : p.may .walkers) (_ : p.may .swaps) (_ : p.may .ing) (_ : p.may .fus) (_ : p.may .slv) (_ : p.may .pln) (_ : p.may .lp) (_ : p.may .tsn) (_ : p.may .xsl) (_ : p.may .diag) (_ : p.may .pwr) (_ : p.may .trace) (_ : p.may .traceDrop) (_ : p.may .cg) (_ : p.may .firm) (_ : p.may .start) (_ : p.may .snapCmp) (_ : p.may .obs) (_ : p.may .now) :
    State.Kept p (mcResetReleaseEffect s) := by
  unfold mcResetReleaseEffect
  repeat' first
    | with_reducible assumption
    | (intro x; first
        | (refine (have hx : State.Kept p x := ?_; ?_); subst x; rotate_left; clear_value x; rotate_right)
        | (refine (have hx : State.Kept p x.1 := ?_; ?_); subst x; rotate_left; clear_value x; rotate_right)
        | (try clear_value x))
    | lift_lets -underBinder
    | with_reducible apply State.Kept.ite
    | with_reducible apply State.resetImage_kept
    | (with_reducible apply State.Kept.upd_mainClk_start <;> with_reducible assumption)
    | split

theorem resetNAssertEffect_kept {low : Bool} {s : State} (h : s.Kept p) (_ : p.may .tick) (_ : p.may .mainClk) (_ : p.may .regs) (_ : p.may .logs) (_ : p.may .mem) (_ : p.may .poison) (_ : p.may .upset) (_ : p.may .cells) (_ : p.may .tb) (_ : p.may .line) (_ : p.may .hostEvent) (_ : p.may .frt) (_ : p.may .vats) (_ : p.may .mig) (_ : p.may .harp) (_ : p.may .harpShare) (_ : p.may .walkers) (_ : p.may .swaps) (_ : p.may .ing) (_ : p.may .fus) (_ : p.may .slv) (_ : p.may .pln) (_ : p.may .lp) (_ : p.may .tsn) (_ : p.may .xsl) (_ : p.may .diag) (_ : p.may .pwr) (_ : p.may .trace) (_ : p.may .traceDrop) (_ : p.may .cg) (_ : p.may .firm) (_ : p.may .start) (_ : p.may .snapCmp) (_ : p.may .obs) (_ : p.may .now) :
    State.Kept p (resetNAssertEffect low s) := by
  unfold resetNAssertEffect
  repeat' first
    | with_reducible assumption
    | (intro x; first
        | (refine (have hx : State.Kept p x := ?_; ?_); subst x; rotate_left; clear_value x; rotate_right)
        | (refine (have hx : State.Kept p x.1 := ?_; ?_); subst x; rotate_left; clear_value x; rotate_right)
        | (try clear_value x))
    | lift_lets -underBinder
    | with_reducible apply State.Kept.ite
    | with_reducible apply State.holdReset_kept
    | with_reducible apply State.modStart_kept
    | split

theorem railPowerGoodLossEffect_kept {bad : Bool} {s : State} (h : s.Kept p) (_ : p.may .tick) (_ : p.may .mainClk) (_ : p.may .regs) (_ : p.may .logs) (_ : p.may .mem) (_ : p.may .poison) (_ : p.may .upset) (_ : p.may .cells) (_ : p.may .tb) (_ : p.may .line) (_ : p.may .hostEvent) (_ : p.may .frt) (_ : p.may .vats) (_ : p.may .mig) (_ : p.may .harp) (_ : p.may .harpShare) (_ : p.may .walkers) (_ : p.may .swaps) (_ : p.may .ing) (_ : p.may .fus) (_ : p.may .slv) (_ : p.may .pln) (_ : p.may .lp) (_ : p.may .tsn) (_ : p.may .xsl) (_ : p.may .diag) (_ : p.may .pwr) (_ : p.may .trace) (_ : p.may .traceDrop) (_ : p.may .cg) (_ : p.may .firm) (_ : p.may .start) (_ : p.may .snapCmp) (_ : p.may .obs) (_ : p.may .now) :
    State.Kept p (railPowerGoodLossEffect bad s) := by
  unfold railPowerGoodLossEffect
  repeat' first
    | with_reducible assumption
    | (intro x; first
        | (refine (have hx : State.Kept p x := ?_; ?_); subst x; rotate_left; clear_value x; rotate_right)
        | (refine (have hx : State.Kept p x.1 := ?_; ?_); subst x; rotate_left; clear_value x; rotate_right)
        | (try clear_value x))
    | lift_lets -underBinder
    | with_reducible apply State.Kept.ite
    | with_reducible apply State.holdReset_kept
    | with_reducible apply State.modStart_kept
    | split

theorem rootPllLossEffect_kept {refclk : Bool} {s : State} (h : s.Kept p) (_ : p.may .mainClk) (_ : p.may .regs) (_ : p.may .start) :
    State.Kept p (rootPllLossEffect refclk s) := by
  unfold rootPllLossEffect
  repeat' first
    | with_reducible assumption
    | (intro x; first
        | (refine (have hx : State.Kept p x := ?_; ?_); subst x; rotate_left; clear_value x; rotate_right)
        | (refine (have hx : State.Kept p x.1 := ?_; ?_); subst x; rotate_left; clear_value x; rotate_right)
        | (try clear_value x))
    | lift_lets -underBinder
    | with_reducible apply State.Kept.ite
    | with_reducible apply State.Kept.foldl
    | with_reducible apply State.Kept.foldl_fst
    | with_reducible apply State.setReg_kept
    | (with_reducible apply State.Kept.upd_mainClk_start <;> (first
      | with_reducible assumption
      | (intro _; with_reducible rfl)
      | (intro _; decide)
      | with_reducible apply State.setReg_kept))
    | split

theorem resetBeginEffect_kept {s : State} (h : s.Kept p) (_ : p.may .tick) (_ : p.may .mainClk) (_ : p.may .regs) (_ : p.may .logs) (_ : p.may .mem) (_ : p.may .poison) (_ : p.may .upset) (_ : p.may .cells) (_ : p.may .tb) (_ : p.may .line) (_ : p.may .hostEvent) (_ : p.may .frt) (_ : p.may .vats) (_ : p.may .mig) (_ : p.may .harp) (_ : p.may .harpShare) (_ : p.may .walkers) (_ : p.may .swaps) (_ : p.may .ing) (_ : p.may .fus) (_ : p.may .slv) (_ : p.may .pln) (_ : p.may .lp) (_ : p.may .tsn) (_ : p.may .xsl) (_ : p.may .diag) (_ : p.may .pwr) (_ : p.may .trace) (_ : p.may .traceDrop) (_ : p.may .cg) (_ : p.may .firm) (_ : p.may .start) (_ : p.may .snapCmp) (_ : p.may .obs) (_ : p.may .now) :
    State.Kept p (resetBeginEffect s) := by
  unfold resetBeginEffect
  repeat' first
    | with_reducible assumption
    | (intro x; first
        | (refine (have hx : State.Kept p x := ?_; ?_); subst x; rotate_left; clear_value x; rotate_right)
        | (refine (have hx : State.Kept p x.1 := ?_; ?_); subst x; rotate_left; clear_value x; rotate_right)
        | (try clear_value x))
    | lift_lets -underBinder
    | with_reducible apply State.Kept.ite
    | with_reducible apply State.resetImage_kept
    | (with_reducible apply State.Kept.upd_mainClk_start <;> with_reducible assumption)
    | split

theorem State.commandReset_kept {s : State} {m : Nat} {kind : Nat} (h : s.Kept p) (_ : p.may .regs) (_ : p.may .evr) (_ : p.may .hostEvent) (_ : p.may .trace) (_ : p.may .traceDrop) (_ : p.may .msix) (_ : p.may .firm) (_ : p.may .start) (_ : p.may .now) :
    State.Kept p (State.commandReset s m kind) := by
  unfold State.commandReset
  repeat' first
    | with_reducible assumption
    | (intro x; first
        | (refine (have hx : State.Kept p x := ?_; ?_); subst x; rotate_left; clear_value x; rotate_right)
        | (refine (have hx : State.Kept p x.1 := ?_; ?_); subst x; rotate_left; clear_value x; rotate_right)
        | (try clear_value x))
    | lift_lets -underBinder
    | with_reducible apply State.Kept.ite
    | with_reducible apply State.conflict_kept
    | with_reducible apply State.finish_kept
    | with_reducible apply State.modStart_kept
    | split

theorem resetWarmEffect_kept {m : Fin 16} {s : State} (h : s.Kept p) (_ : p.may .regs) (_ : p.may .evr) (_ : p.may .hostEvent) (_ : p.may .trace) (_ : p.may .traceDrop) (_ : p.may .msix) (_ : p.may .firm) (_ : p.may .start) (_ : p.may .now) :
    State.Kept p (resetWarmEffect m s) := by
  unfold resetWarmEffect
  repeat' first
    | with_reducible assumption
    | (intro x; first
        | (refine (have hx : State.Kept p x := ?_; ?_); subst x; rotate_left; clear_value x; rotate_right)
        | (refine (have hx : State.Kept p x.1 := ?_; ?_); subst x; rotate_left; clear_value x; rotate_right)
        | (try clear_value x))
    | lift_lets -underBinder
    | with_reducible apply State.Kept.ite
    | with_reducible apply State.serve_kept
    | with_reducible apply State.commandReset_kept
    | with_reducible apply State.finish_kept
    | split

theorem resetColdEffect_kept {m : Fin 16} {s : State} (h : s.Kept p) (_ : p.may .regs) (_ : p.may .evr) (_ : p.may .hostEvent) (_ : p.may .trace) (_ : p.may .traceDrop) (_ : p.may .msix) (_ : p.may .firm) (_ : p.may .start) (_ : p.may .now) :
    State.Kept p (resetColdEffect m s) := by
  unfold resetColdEffect
  repeat' first
    | with_reducible assumption
    | (intro x; first
        | (refine (have hx : State.Kept p x := ?_; ?_); subst x; rotate_left; clear_value x; rotate_right)
        | (refine (have hx : State.Kept p x.1 := ?_; ?_); subst x; rotate_left; clear_value x; rotate_right)
        | (try clear_value x))
    | lift_lets -underBinder
    | with_reducible apply State.Kept.ite
    | with_reducible apply State.serve_kept
    | with_reducible apply State.commandReset_kept
    | split

theorem resetPartitionEffect_kept {m : Fin 16} {s : State} (h : s.Kept p) (_ : p.may .regs) (_ : p.may .evr) (_ : p.may .hostEvent) (_ : p.may .frt) (_ : p.may .trace) (_ : p.may .traceDrop) (_ : p.may .msix) (_ : p.may .firm) (_ : p.may .now) :
    State.Kept p (resetPartitionEffect m s) := by
  unfold resetPartitionEffect
  repeat' first
    | with_reducible assumption
    | (intro x; first
        | (refine (have hx : State.Kept p x := ?_; ?_); subst x; rotate_left; clear_value x; rotate_right)
        | (refine (have hx : State.Kept p x.1 := ?_; ?_); subst x; rotate_left; clear_value x; rotate_right)
        | (try clear_value x))
    | lift_lets -underBinder
    | with_reducible apply State.Kept.ite
    | with_reducible apply State.conflict_kept
    | with_reducible apply State.serve_kept
    | with_reducible apply State.finish_kept
    | with_reducible apply State.accept_kept
    | (with_reducible apply State.Kept.upd_frt <;> with_reducible assumption)
    | split

theorem State.startHold_kept {s : State} {cause : Nat} {obj : Nat} (h : s.Kept p) (_ : p.may .regs) (_ : p.may .evr) (_ : p.may .hostEvent) (_ : p.may .msix) (_ : p.may .start) (_ : p.may .now) :
    State.Kept p (State.startHold s cause obj) := by
  unfold State.startHold
  repeat' first
    | with_reducible assumption
    | with_reducible apply State.postHd_kept
    | with_reducible apply State.modStart_kept

theorem State.startImage_kept {s : State} {l : List Byte} (h : s.Kept p) (_ : p.may .regs) (_ : p.may .evr) (_ : p.may .hostEvent) (_ : p.may .trace) (_ : p.may .traceDrop) (_ : p.may .msix) (_ : p.may .firm) (_ : p.may .start) (_ : p.may .now) :
    State.Kept p (State.startImage s l) := by
  unfold State.startImage
  repeat' first
    | with_reducible assumption
    | with_reducible apply State.modFirm_kept
    | with_reducible apply State.syncState_kept
    | with_reducible apply State.modStart_kept
    | with_reducible apply State.drain_kept

theorem State.bootRom_kept {s : State} (h : s.Kept p) (_ : p.may .regs) (_ : p.may .evr) (_ : p.may .hostEvent) (_ : p.may .trace) (_ : p.may .traceDrop) (_ : p.may .msix) (_ : p.may .firm) (_ : p.may .start) (_ : p.may .now) :
    State.Kept p (State.bootRom s) := by
  unfold State.bootRom
  repeat' first
    | with_reducible assumption
    | (intro x; first
        | (refine (have hx : State.Kept p x := ?_; ?_); subst x; rotate_left; clear_value x; rotate_right)
        | (refine (have hx : State.Kept p x.1 := ?_; ?_); subst x; rotate_left; clear_value x; rotate_right)
        | (try clear_value x))
    | lift_lets -underBinder
    | with_reducible apply State.Kept.ite
    | with_reducible apply State.postHd_kept
    | with_reducible apply State.startImage_kept
    | with_reducible apply State.startHold_kept
    | with_reducible apply State.modStart_kept
    | split

theorem bootPushEffect_kept {data : List Byte} {s : State} (h : s.Kept p) (_ : p.may .regs) (_ : p.may .evr) (_ : p.may .hostEvent) (_ : p.may .trace) (_ : p.may .traceDrop) (_ : p.may .msix) (_ : p.may .firm) (_ : p.may .start) (_ : p.may .now) :
    State.Kept p (bootPushEffect data s) := by
  unfold bootPushEffect
  repeat' first
    | with_reducible assumption
    | (intro x; first
        | (refine (have hx : State.Kept p x := ?_; ?_); subst x; rotate_left; clear_value x; rotate_right)
        | (refine (have hx : State.Kept p x.1 := ?_; ?_); subst x; rotate_left; clear_value x; rotate_right)
        | (try clear_value x))
    | lift_lets -underBinder
    | with_reducible apply State.Kept.ite
    | with_reducible apply State.startImage_kept
    | with_reducible apply State.finish_kept
    | with_reducible apply State.takeBell_kept
    | split

theorem State.startGroup_kept {s : State} {target : Nat} {l : List Byte} (h : s.Kept p) (_ : p.may .rdata) (_ : p.may .regs) (_ : p.may .logs) (_ : p.may .mem) (_ : p.may .poison) (_ : p.may .upset) (_ : p.may .cells) (_ : p.may .tb) (_ : p.may .evr) (_ : p.may .line) (_ : p.may .auth) (_ : p.may .safe) (_ : p.may .hostEvent) (_ : p.may .frt) (_ : p.may .vats) (_ : p.may .mig) (_ : p.may .harp) (_ : p.may .swaps) (_ : p.may .ing) (_ : p.may .fus) (_ : p.may .slv) (_ : p.may .pln) (_ : p.may .lp) (_ : p.may .tsn) (_ : p.may .xsl) (_ : p.may .fbx) (_ : p.may .wd) (_ : p.may .pwr) (_ : p.may .trace) (_ : p.may .traceDrop) (_ : p.may .msix) (_ : p.may .cg) (_ : p.may .firm) (_ : p.may .snapCmp) (_ : p.may .now) :
    State.Kept p (State.startGroup s target l).1 := by
  unfold State.startGroup
  repeat' first
    | with_reducible assumption
    | (intro x; first
        | (refine (have hx : State.Kept p x := ?_; ?_); subst x; rotate_left; clear_value x; rotate_right)
        | (refine (have hx : State.Kept p x.1 := ?_; ?_); subst x; rotate_left; clear_value x; rotate_right)
        | (try clear_value x))
    | lift_lets -underBinder
    | with_reducible apply State.Kept.ite
    | with_reducible apply State.modCg_kept
    | (with_reducible refine State.submit_kept ?_ (by assumption) ‹_› (by with_reducible assumption) (by assumption) ‹_› (by with_reducible assumption) _ (by assumption))
    | with_reducible apply State.evalGroup_kept
    | split

theorem State.runPhase_kept {target : Nat} {a1_ : Nat} {a2_ : List (List Byte)} {a3_ : State} (h : a3_.Kept p) (_ : p.may .rdata) (_ : p.may .regs) (_ : p.may .logs) (_ : p.may .mem) (_ : p.may .poison) (_ : p.may .upset) (_ : p.may .cells) (_ : p.may .tb) (_ : p.may .evr) (_ : p.may .line) (_ : p.may .auth) (_ : p.may .safe) (_ : p.may .hostEvent) (_ : p.may .frt) (_ : p.may .vats) (_ : p.may .mig) (_ : p.may .harp) (_ : p.may .swaps) (_ : p.may .ing) (_ : p.may .fus) (_ : p.may .slv) (_ : p.may .pln) (_ : p.may .lp) (_ : p.may .tsn) (_ : p.may .xsl) (_ : p.may .fbx) (_ : p.may .wd) (_ : p.may .pwr) (_ : p.may .trace) (_ : p.may .traceDrop) (_ : p.may .msix) (_ : p.may .cg) (_ : p.may .firm) (_ : p.may .start) (_ : p.may .snapCmp) (_ : p.may .now) :
    State.Kept p (State.runPhase target a1_ a2_ a3_) := by
  induction a2_ generalizing target a1_ a3_ with
  | nil =>
    unfold State.runPhase
    repeat' first
      | with_reducible assumption
      | with_reducible apply State.Kept.ite
      | with_reducible apply State.startGroup_kept
      | with_reducible apply State.startHold_kept
      | split
  | cons y_ l_ ih =>
    unfold State.runPhase
    repeat' first
      | with_reducible apply ih
      | with_reducible assumption
      | with_reducible apply State.Kept.ite
      | with_reducible apply State.startGroup_kept
      | with_reducible apply State.startHold_kept
      | split

theorem State.phase_kept {s : State} {p' : Nat} (h : s.Kept p) (_ : p.may .rdata) (_ : p.may .regs) (_ : p.may .logs) (_ : p.may .mem) (_ : p.may .poison) (_ : p.may .upset) (_ : p.may .cells) (_ : p.may .tb) (_ : p.may .evr) (_ : p.may .line) (_ : p.may .auth) (_ : p.may .safe) (_ : p.may .hostEvent) (_ : p.may .frt) (_ : p.may .vats) (_ : p.may .mig) (_ : p.may .harp) (_ : p.may .swaps) (_ : p.may .ing) (_ : p.may .fus) (_ : p.may .slv) (_ : p.may .pln) (_ : p.may .lp) (_ : p.may .tsn) (_ : p.may .xsl) (_ : p.may .fbx) (_ : p.may .wd) (_ : p.may .pwr) (_ : p.may .trace) (_ : p.may .traceDrop) (_ : p.may .msix) (_ : p.may .cg) (_ : p.may .firm) (_ : p.may .start) (_ : p.may .snapCmp) (_ : p.may .now) :
    State.Kept p (State.phase s p') := by
  unfold State.phase
  repeat' first
    | with_reducible assumption
    | with_reducible apply State.Kept.ite
    | with_reducible apply State.runPhase_kept
    | split

theorem State.runRun_kept {s : State} {l : List Byte} (h : s.Kept p) (_ : p.may .regs) (_ : p.may .evr) (_ : p.may .hostEvent) (_ : p.may .frt) (_ : p.may .msix) (_ : p.may .cg) (_ : p.may .now) :
    State.Kept p (State.runRun s l) := by
  unfold State.runRun
  repeat' first
    | with_reducible assumption
    | (with_reducible refine State.submit_kept ?_ (by assumption) ‹_› (by with_reducible assumption) (by assumption) ‹_› (by with_reducible assumption) _ (by assumption))
    | with_reducible apply State.ownRecord_kept
    | split

theorem State.checkConfig_kept {s : State} (h : s.Kept p) (_ : p.may .regs) (_ : p.may .evr) (_ : p.may .hostEvent) (_ : p.may .msix) (_ : p.may .start) (_ : p.may .now) :
    State.Kept p (State.checkConfig s) := by
  unfold State.checkConfig
  repeat' first
    | with_reducible assumption
    | (intro x; first
        | (refine (have hx : State.Kept p x := ?_; ?_); subst x; rotate_left; clear_value x; rotate_right)
        | (refine (have hx : State.Kept p x.1 := ?_; ?_); subst x; rotate_left; clear_value x; rotate_right)
        | (try clear_value x))
    | lift_lets -underBinder
    | with_reducible apply State.Kept.ite
    | with_reducible apply State.startHold_kept
    | with_reducible apply State.modStart_kept
    | split

theorem State.nextStep_kept {s : State} (h : s.Kept p) (_ : p.may .start) :
    State.Kept p (State.nextStep s) := by
  unfold State.nextStep
  repeat' first
    | with_reducible assumption
    | with_reducible apply State.Kept.ite
    | with_reducible apply State.modStart_kept
    | split

theorem State.endStep2_kept {s : State} (h : s.Kept p) (_ : p.may .rdata) (_ : p.may .regs) (_ : p.may .logs) (_ : p.may .mem) (_ : p.may .poison) (_ : p.may .upset) (_ : p.may .cells) (_ : p.may .tb) (_ : p.may .evr) (_ : p.may .line) (_ : p.may .auth) (_ : p.may .safe) (_ : p.may .hostEvent) (_ : p.may .frt) (_ : p.may .vats) (_ : p.may .mig) (_ : p.may .harp) (_ : p.may .swaps) (_ : p.may .ing) (_ : p.may .fus) (_ : p.may .slv) (_ : p.may .pln) (_ : p.may .lp) (_ : p.may .tsn) (_ : p.may .xsl) (_ : p.may .fbx) (_ : p.may .wd) (_ : p.may .pwr) (_ : p.may .trace) (_ : p.may .traceDrop) (_ : p.may .msix) (_ : p.may .cg) (_ : p.may .firm) (_ : p.may .start) (_ : p.may .snapCmp) (_ : p.may .now) :
    State.Kept p (State.endStep2 s) := by
  unfold State.endStep2
  repeat' first
    | with_reducible assumption
    | (intro x; first
        | (refine (have hx : State.Kept p x := ?_; ?_); subst x; rotate_left; clear_value x; rotate_right)
        | (refine (have hx : State.Kept p x.1 := ?_; ?_); subst x; rotate_left; clear_value x; rotate_right)
        | (try clear_value x))
    | lift_lets -underBinder
    | with_reducible apply State.Kept.ite
    | with_reducible apply State.nextStep_kept
    | with_reducible apply State.settleDoubt_kept
    | with_reducible apply State.bootRom_kept
    | with_reducible apply State.phase_kept
    | with_reducible apply State.checkConfig_kept
    | split

theorem State.failStep3_kept {s : State} {p' : Nat} {laneB : Bool} (h : s.Kept p) (_ : p.may .regs) (_ : p.may .logs) (_ : p.may .evr) (_ : p.may .line) (_ : p.may .auth) (_ : p.may .safe) (_ : p.may .hostEvent) (_ : p.may .fbx) (_ : p.may .trace) (_ : p.may .traceDrop) (_ : p.may .msix) (_ : p.may .firm) (_ : p.may .start) (_ : p.may .now) :
    State.Kept p (State.failStep3 s p' laneB) := by
  unfold State.failStep3
  repeat' first
    | with_reducible assumption
    | (intro x; first
        | (refine (have hx : State.Kept p x := ?_; ?_); subst x; rotate_left; clear_value x; rotate_right)
        | (refine (have hx : State.Kept p x.1 := ?_; ?_); subst x; rotate_left; clear_value x; rotate_right)
        | (try clear_value x))
    | lift_lets -underBinder
    | with_reducible apply State.Kept.ite
    | with_reducible apply State.bump_kept
    | with_reducible apply State.cmpLog_kept
    | with_reducible apply State.raise_kept
    | with_reducible apply State.startHold_kept
    | split

theorem State.endStep4_kept {s : State} (h : s.Kept p) (_ : p.may .regs) (_ : p.may .start) :
    State.Kept p (State.endStep4 s) := by
  unfold State.endStep4
  repeat' first
    | with_reducible assumption
    | (intro x; first
        | (refine (have hx : State.Kept p x := ?_; ?_); subst x; rotate_left; clear_value x; rotate_right)
        | (refine (have hx : State.Kept p x.1 := ?_; ?_); subst x; rotate_left; clear_value x; rotate_right)
        | (try clear_value x))
    | lift_lets -underBinder
    | with_reducible apply State.Kept.ite
    | with_reducible apply State.Kept.foldl
    | with_reducible apply State.Kept.foldl_fst
    | with_reducible apply State.setReg_kept
    | with_reducible apply State.nextStep_kept
    | with_reducible apply State.setRegBit_kept
    | split

theorem State.endStep5_kept {s : State} (h : s.Kept p) (_ : p.may .rdata) (_ : p.may .regs) (_ : p.may .logs) (_ : p.may .mem) (_ : p.may .poison) (_ : p.may .upset) (_ : p.may .cells) (_ : p.may .tb) (_ : p.may .evr) (_ : p.may .line) (_ : p.may .auth) (_ : p.may .safe) (_ : p.may .hostEvent) (_ : p.may .frt) (_ : p.may .vats) (_ : p.may .mig) (_ : p.may .harp) (_ : p.may .swaps) (_ : p.may .ing) (_ : p.may .fus) (_ : p.may .slv) (_ : p.may .pln) (_ : p.may .lp) (_ : p.may .tsn) (_ : p.may .xsl) (_ : p.may .fbx) (_ : p.may .wd) (_ : p.may .pwr) (_ : p.may .trace) (_ : p.may .traceDrop) (_ : p.may .msix) (_ : p.may .cg) (_ : p.may .firm) (_ : p.may .start) (_ : p.may .snapCmp) (_ : p.may .now) : (s.endStep5).Kept p := by
  unfold State.endStep5
  extract_lets warm l1 l2 a b
  have ha : a.Kept p := h.build rfl (memWf_kept h.mem_wf) rfl h.regs_wf rfl rfl rfl h.shape (fun f hf => by cases f <;> first | rfl | simp_all)
  have hb : b.Kept p := by apply State.phase_kept <;> with_reducible assumption
  clear_value b
  split
  · exact hb
  · apply State.nextStep_kept <;> with_reducible assumption


theorem State.pushTrj_kept {s : State} {l : List Byte} (h : s.Kept p) (_ : p.may .rdata) (_ : p.may .regs) (_ : p.may .logs) (_ : p.may .mem) (_ : p.may .poison) (_ : p.may .upset) (_ : p.may .cells) (_ : p.may .tb) (_ : p.may .evr) (_ : p.may .line) (_ : p.may .auth) (_ : p.may .safe) (_ : p.may .hostEvent) (_ : p.may .frt) (_ : p.may .vats) (_ : p.may .mig) (_ : p.may .harp) (_ : p.may .swaps) (_ : p.may .ing) (_ : p.may .fus) (_ : p.may .slv) (_ : p.may .pln) (_ : p.may .lp) (_ : p.may .tsn) (_ : p.may .xsl) (_ : p.may .fbx) (_ : p.may .wd) (_ : p.may .pwr) (_ : p.may .trace) (_ : p.may .traceDrop) (_ : p.may .msix) (_ : p.may .cg) (_ : p.may .firm) (_ : p.may .snapCmp) (_ : p.may .now) :
    State.Kept p (State.pushTrj s l) := by
  unfold State.pushTrj
  repeat' first
    | with_reducible assumption
    | (intro x; first
        | (refine (have hx : State.Kept p x := ?_; ?_); subst x; rotate_left; clear_value x; rotate_right)
        | (refine (have hx : State.Kept p x.1 := ?_; ?_); subst x; rotate_left; clear_value x; rotate_right)
        | (try clear_value x))
    | lift_lets -underBinder
    | with_reducible apply State.markRefused_kept
    | with_reducible apply State.ownWrite_kept
    | (with_reducible refine State.runGroup_kept ?_ (by assumption) ‹_› (by with_reducible assumption) (by assumption) ‹_› (by with_reducible assumption) (by assumption) ‹_› (by with_reducible assumption) (by assumption) ‹_› (by with_reducible assumption) (by assumption) ‹_› (by with_reducible assumption) (by assumption) ‹_› (by with_reducible assumption) (by assumption) ‹_› (by with_reducible assumption) (by assumption) ‹_› (by with_reducible assumption) (by assumption) ‹_› (by with_reducible assumption) (by assumption) ‹_› (by with_reducible assumption) (by assumption) ‹_› (by with_reducible assumption) (by assumption) _ (by assumption))
    | split

theorem State.commitEmpty_kept {s : State} (h : s.Kept p) (_ : p.may .free) (_ : p.may .rdata) (_ : p.may .regs) (_ : p.may .logs) (_ : p.may .mem) (_ : p.may .poison) (_ : p.may .upset) (_ : p.may .cells) (_ : p.may .tb) (_ : p.may .evr) (_ : p.may .line) (_ : p.may .auth) (_ : p.may .safe) (_ : p.may .hostEvent) (_ : p.may .frt) (_ : p.may .vats) (_ : p.may .mig) (_ : p.may .harp) (_ : p.may .swaps) (_ : p.may .ing) (_ : p.may .fus) (_ : p.may .slv) (_ : p.may .pln) (_ : p.may .lp) (_ : p.may .tsn) (_ : p.may .xsl) (_ : p.may .fbx) (_ : p.may .wd) (_ : p.may .pwr) (_ : p.may .trace) (_ : p.may .traceDrop) (_ : p.may .msix) (_ : p.may .cg) (_ : p.may .firm) (_ : p.may .start) (_ : p.may .snapCmp) (_ : p.may .now) :
    State.Kept p (State.commitEmpty s) := by
  unfold State.commitEmpty
  repeat' first
    | with_reducible assumption
    | with_reducible apply State.pushTrj_kept
    | with_reducible apply State.useFree_kept
    | with_reducible apply State.modStart_kept

theorem State.askHandback_kept {s : State} (h : s.Kept p) (_ : p.may .free) (_ : p.may .rdata) (_ : p.may .regs) (_ : p.may .logs) (_ : p.may .mem) (_ : p.may .poison) (_ : p.may .upset) (_ : p.may .cells) (_ : p.may .tb) (_ : p.may .evr) (_ : p.may .line) (_ : p.may .auth) (_ : p.may .safe) (_ : p.may .hostEvent) (_ : p.may .frt) (_ : p.may .vats) (_ : p.may .mig) (_ : p.may .harp) (_ : p.may .swaps) (_ : p.may .ing) (_ : p.may .fus) (_ : p.may .slv) (_ : p.may .pln) (_ : p.may .lp) (_ : p.may .tsn) (_ : p.may .xsl) (_ : p.may .fbx) (_ : p.may .wd) (_ : p.may .pwr) (_ : p.may .trace) (_ : p.may .traceDrop) (_ : p.may .msix) (_ : p.may .cg) (_ : p.may .firm) (_ : p.may .start) (_ : p.may .snapCmp) (_ : p.may .now) :
    State.Kept p (State.askHandback s) := by
  unfold State.askHandback
  repeat' first
    | with_reducible assumption
    | with_reducible apply State.ownWrite_kept
    | with_reducible apply State.commitEmpty_kept

theorem State.handover_kept {s : State} (h : s.Kept p) (_ : p.may .free) (_ : p.may .rdata) (_ : p.may .regs) (_ : p.may .logs) (_ : p.may .mem) (_ : p.may .poison) (_ : p.may .upset) (_ : p.may .cells) (_ : p.may .tb) (_ : p.may .evr) (_ : p.may .line) (_ : p.may .auth) (_ : p.may .safe) (_ : p.may .hostEvent) (_ : p.may .frt) (_ : p.may .vats) (_ : p.may .mig) (_ : p.may .harp) (_ : p.may .swaps) (_ : p.may .ing) (_ : p.may .fus) (_ : p.may .slv) (_ : p.may .pln) (_ : p.may .lp) (_ : p.may .tsn) (_ : p.may .xsl) (_ : p.may .fbx) (_ : p.may .wd) (_ : p.may .pwr) (_ : p.may .trace) (_ : p.may .traceDrop) (_ : p.may .msix) (_ : p.may .cg) (_ : p.may .firm) (_ : p.may .start) (_ : p.may .snapCmp) (_ : p.may .now) :
    State.Kept p (State.handover s) := by
  unfold State.handover
  repeat' first
    | with_reducible assumption
    | (intro x; first
        | (refine (have hx : State.Kept p x := ?_; ?_); subst x; rotate_left; clear_value x; rotate_right)
        | (refine (have hx : State.Kept p x.1 := ?_; ?_); subst x; rotate_left; clear_value x; rotate_right)
        | (try clear_value x))
    | lift_lets -underBinder
    | with_reducible apply State.Kept.ite
    | with_reducible apply State.askHandback_kept
    | with_reducible apply State.startHold_kept
    | with_reducible apply State.ownWrite_kept
    | split

theorem State.endStep6_kept {s : State} (h : s.Kept p) (_ : p.may .free) (_ : p.may .rdata) (_ : p.may .regs) (_ : p.may .logs) (_ : p.may .mem) (_ : p.may .poison) (_ : p.may .upset) (_ : p.may .cells) (_ : p.may .tb) (_ : p.may .evr) (_ : p.may .line) (_ : p.may .auth) (_ : p.may .safe) (_ : p.may .hostEvent) (_ : p.may .frt) (_ : p.may .vats) (_ : p.may .mig) (_ : p.may .harp) (_ : p.may .swaps) (_ : p.may .ing) (_ : p.may .fus) (_ : p.may .slv) (_ : p.may .pln) (_ : p.may .lp) (_ : p.may .tsn) (_ : p.may .xsl) (_ : p.may .fbx) (_ : p.may .wd) (_ : p.may .diag) (_ : p.may .pwr) (_ : p.may .trace) (_ : p.may .traceDrop) (_ : p.may .msix) (_ : p.may .cg) (_ : p.may .firm) (_ : p.may .start) (_ : p.may .snapCmp) (_ : p.may .now) :
    State.Kept p (State.endStep6 s) := by
  unfold State.endStep6
  repeat' first
    | with_reducible assumption
    | (intro x; first
        | (refine (have hx : State.Kept p x := ?_; ?_); subst x; rotate_left; clear_value x; rotate_right)
        | (refine (have hx : State.Kept p x.1 := ?_; ?_); subst x; rotate_left; clear_value x; rotate_right)
        | (try clear_value x))
    | lift_lets -underBinder
    | with_reducible apply State.Kept.ite
    | with_reducible apply State.handover_kept
    | with_reducible apply frtLoadCompleteEffect_kept
    | (with_reducible refine State.loadTable_kept ?_ (by assumption) ‹_› (by with_reducible assumption) (by assumption) ‹_› (by with_reducible assumption) (by assumption) ‹_› (by with_reducible assumption) (by assumption) ‹_› (by with_reducible assumption) (by assumption) ‹_› (by with_reducible assumption) (by assumption) ‹_› (by with_reducible assumption) (by assumption) ‹_› (by with_reducible assumption) (by assumption) ‹_› (by with_reducible assumption) (by assumption) ‹_› (by with_reducible assumption) (by assumption) ‹_› (by with_reducible assumption) (by assumption) ‹_› (by with_reducible assumption) (by assumption) _ (by assumption))
    | with_reducible apply State.nextStep_kept
    | with_reducible apply State.store_kept
    | with_reducible apply State.startHold_kept
    | split

theorem State.endStep7_kept {s : State} (h : s.Kept p) (_ : p.may .free) (_ : p.may .rdata) (_ : p.may .regs) (_ : p.may .logs) (_ : p.may .mem) (_ : p.may .poison) (_ : p.may .upset) (_ : p.may .cells) (_ : p.may .tb) (_ : p.may .evr) (_ : p.may .line) (_ : p.may .auth) (_ : p.may .safe) (_ : p.may .hostEvent) (_ : p.may .frt) (_ : p.may .vats) (_ : p.may .mig) (_ : p.may .harp) (_ : p.may .swaps) (_ : p.may .ing) (_ : p.may .fus) (_ : p.may .slv) (_ : p.may .pln) (_ : p.may .lp) (_ : p.may .tsn) (_ : p.may .xsl) (_ : p.may .fbx) (_ : p.may .wd) (_ : p.may .pwr) (_ : p.may .trace) (_ : p.may .traceDrop) (_ : p.may .msix) (_ : p.may .cg) (_ : p.may .firm) (_ : p.may .start) (_ : p.may .snapCmp) (_ : p.may .now) :
    State.Kept p (State.endStep7 s) := by
  unfold State.endStep7
  repeat' first
    | with_reducible assumption
    | (intro x; first
        | (refine (have hx : State.Kept p x := ?_; ?_); subst x; rotate_left; clear_value x; rotate_right)
        | (refine (have hx : State.Kept p x.1 := ?_; ?_); subst x; rotate_left; clear_value x; rotate_right)
        | (try clear_value x))
    | lift_lets -underBinder
    | with_reducible apply State.Kept.ite
    | with_reducible apply State.Kept.foldl
    | with_reducible apply State.Kept.foldl_fst
    | with_reducible apply State.handover_kept
    | with_reducible apply State.runRun_kept
    | with_reducible apply State.setFw_kept
    | with_reducible apply State.phase_kept
    | with_reducible apply State.modStart_kept
    | split

theorem startupStepEndEffect_kept {fault : Option Nat} {laneB : Bool} {s : State} (h : s.Kept p) (_ : p.may .free) (_ : p.may .rdata) (_ : p.may .regs) (_ : p.may .logs) (_ : p.may .mem) (_ : p.may .poison) (_ : p.may .upset) (_ : p.may .cells) (_ : p.may .tb) (_ : p.may .evr) (_ : p.may .line) (_ : p.may .auth) (_ : p.may .safe) (_ : p.may .hostEvent) (_ : p.may .frt) (_ : p.may .vats) (_ : p.may .mig) (_ : p.may .harp) (_ : p.may .swaps) (_ : p.may .ing) (_ : p.may .fus) (_ : p.may .slv) (_ : p.may .pln) (_ : p.may .lp) (_ : p.may .tsn) (_ : p.may .xsl) (_ : p.may .fbx) (_ : p.may .wd) (_ : p.may .diag) (_ : p.may .pwr) (_ : p.may .trace) (_ : p.may .traceDrop) (_ : p.may .msix) (_ : p.may .cg) (_ : p.may .firm) (_ : p.may .start) (_ : p.may .snapCmp) (_ : p.may .now) :
    State.Kept p (startupStepEndEffect fault laneB s) := by
  unfold startupStepEndEffect
  repeat' first
    | with_reducible assumption
    | with_reducible apply State.Kept.ite
    | with_reducible apply State.endStep6_kept
    | with_reducible apply State.failStep3_kept
    | with_reducible apply State.nextStep_kept
    | with_reducible apply State.endStep4_kept
    | with_reducible apply State.endStep7_kept
    | with_reducible apply State.endStep5_kept
    | with_reducible apply State.startHold_kept
    | with_reducible apply State.endStep2_kept
    | split

theorem emptyTrajectoryCommitEffect_kept {s : State} (h : s.Kept p) (_ : p.may .free) (_ : p.may .rdata) (_ : p.may .regs) (_ : p.may .logs) (_ : p.may .mem) (_ : p.may .poison) (_ : p.may .upset) (_ : p.may .cells) (_ : p.may .tb) (_ : p.may .evr) (_ : p.may .line) (_ : p.may .auth) (_ : p.may .safe) (_ : p.may .hostEvent) (_ : p.may .frt) (_ : p.may .vats) (_ : p.may .mig) (_ : p.may .harp) (_ : p.may .swaps) (_ : p.may .ing) (_ : p.may .fus) (_ : p.may .slv) (_ : p.may .pln) (_ : p.may .lp) (_ : p.may .tsn) (_ : p.may .xsl) (_ : p.may .fbx) (_ : p.may .wd) (_ : p.may .pwr) (_ : p.may .trace) (_ : p.may .traceDrop) (_ : p.may .msix) (_ : p.may .cg) (_ : p.may .firm) (_ : p.may .start) (_ : p.may .snapCmp) (_ : p.may .now) :
    State.Kept p (emptyTrajectoryCommitEffect s) := by
  unfold emptyTrajectoryCommitEffect
  repeat' first
    | with_reducible assumption
    | with_reducible apply State.Kept.ite
    | with_reducible apply State.commitEmpty_kept
    | split

theorem handbackTimeoutEffect_kept {s : State} (h : s.Kept p) (_ : p.may .free) (_ : p.may .rdata) (_ : p.may .regs) (_ : p.may .logs) (_ : p.may .mem) (_ : p.may .poison) (_ : p.may .upset) (_ : p.may .cells) (_ : p.may .tb) (_ : p.may .evr) (_ : p.may .line) (_ : p.may .auth) (_ : p.may .safe) (_ : p.may .hostEvent) (_ : p.may .frt) (_ : p.may .vats) (_ : p.may .mig) (_ : p.may .harp) (_ : p.may .swaps) (_ : p.may .ing) (_ : p.may .fus) (_ : p.may .slv) (_ : p.may .pln) (_ : p.may .lp) (_ : p.may .tsn) (_ : p.may .xsl) (_ : p.may .fbx) (_ : p.may .wd) (_ : p.may .pwr) (_ : p.may .trace) (_ : p.may .traceDrop) (_ : p.may .msix) (_ : p.may .cg) (_ : p.may .firm) (_ : p.may .start) (_ : p.may .snapCmp) (_ : p.may .now) :
    State.Kept p (handbackTimeoutEffect s) := by
  unfold handbackTimeoutEffect
  repeat' first
    | with_reducible assumption
    | (intro x; first
        | (refine (have hx : State.Kept p x := ?_; ?_); subst x; rotate_left; clear_value x; rotate_right)
        | (refine (have hx : State.Kept p x.1 := ?_; ?_); subst x; rotate_left; clear_value x; rotate_right)
        | (try clear_value x))
    | lift_lets -underBinder
    | with_reducible apply State.Kept.ite
    | with_reducible apply State.handbackLapse_kept
    | with_reducible apply State.askHandback_kept
    | split

end Sys2Proof.Machine
end

