-- ==== Sys2Proof/Laws/KeptTick.lean ====
section
/-! SUPPORT. State.Kept through the operations of Machine/Tick.lean. -/

set_option linter.all false

namespace Sys2Proof.Machine

variable {p : Promise}

theorem State.vatPulse_kept {i : Nat} {s : State} {v : Nat} (h : s.Kept p) (_ : p.may .regs) (_ : p.may .logs) (_ : p.may .mem) (_ : p.may .poison) (_ : p.may .upset) (_ : p.may .cells) (_ : p.may .evr) (_ : p.may .line) (_ : p.may .auth) (_ : p.may .safe) (_ : p.may .hostEvent) (_ : p.may .frt) (_ : p.may .vats) (_ : p.may .mig) (_ : p.may .walkers) (_ : p.may .swaps) (_ : p.may .xsl) (_ : p.may .fbx) (_ : p.may .diag) (_ : p.may .pwr) (_ : p.may .trace) (_ : p.may .traceDrop) (_ : p.may .msix) (_ : p.may .firm) (_ : p.may .now) :
    State.Kept p (State.vatPulse i s v) := by
  unfold State.vatPulse
  repeat' first
    | with_reducible assumption
    | (intro x; first
        | (refine (have hx : State.Kept p x := ?_; ?_); subst x; rotate_left; clear_value x; rotate_right)
        | (refine (have hx : State.Kept p x.1 := ?_; ?_); subst x; rotate_left; clear_value x; rotate_right)
        | (try clear_value x))
    | lift_lets -underBinder
    | with_reducible apply State.Kept.ite
    | with_reducible apply State.swapCycle_kept
    | with_reducible apply State.sourcePulse_kept
    | with_reducible apply State.vcycle_kept
    | with_reducible apply State.act_kept
    | split

theorem State.lateClients_kept {s : State} (h : s.Kept p) (_ : p.may .rdata) (_ : p.may .regs) (_ : p.may .vats) (_ : p.may .mig) :
    State.Kept p (State.lateClients s) := by
  unfold State.lateClients
  repeat' first
    | with_reducible assumption
    | (intro x; first
        | (refine (have hx : State.Kept p x := ?_; ?_); subst x; rotate_left; clear_value x; rotate_right)
        | (refine (have hx : State.Kept p x.1 := ?_; ?_); subst x; rotate_left; clear_value x; rotate_right)
        | (try clear_value x))
    | lift_lets -underBinder
    | with_reducible apply State.Kept.ite
    | with_reducible apply State.Kept.foldl
    | with_reducible apply State.Kept.foldl_fst
    | with_reducible apply State.bump_kept
    | with_reducible apply State.heldEnds_kept
    | split

theorem State.traceOut_kept {s : State} (h : s.Kept p) (_ : p.may .trace) (_ : p.may .traceDrop) :
    State.Kept p (State.traceOut s) := by
  unfold State.traceOut
  repeat' first
    | with_reducible assumption
    | with_reducible apply State.Kept.ite
    | with_reducible apply State.dropTrace_kept
    | split

theorem State.showClocks_kept {s : State} (h : s.Kept p) (_ : p.may .regs) :
    State.Kept p (State.showClocks s) := by
  unfold State.showClocks
  repeat' first
    | with_reducible assumption
    | (intro x; first
        | (refine (have hx : State.Kept p x := ?_; ?_); subst x; rotate_left; clear_value x; rotate_right)
        | (refine (have hx : State.Kept p x.1 := ?_; ?_); subst x; rotate_left; clear_value x; rotate_right)
        | (try clear_value x))
    | lift_lets -underBinder
    | with_reducible apply State.Kept.ite
    | with_reducible apply State.setReg_kept
    | split

theorem State.mainTick_kept {s : State} (h : s.Kept p) (_ : p.may .tick) (_ : p.may .free) (_ : p.may .rdata) (_ : p.may .regs) (_ : p.may .logs) (_ : p.may .mem) (_ : p.may .poison) (_ : p.may .upset) (_ : p.may .cells) (_ : p.may .tb) (_ : p.may .evr) (_ : p.may .line) (_ : p.may .auth) (_ : p.may .safe) (_ : p.may .hostEvent) (_ : p.may .frt) (_ : p.may .vats) (_ : p.may .mig) (_ : p.may .harp) (_ : p.may .walkers) (_ : p.may .swaps) (_ : p.may .ing) (_ : p.may .fus) (_ : p.may .slv) (_ : p.may .pln) (_ : p.may .lp) (_ : p.may .xsl) (_ : p.may .fbx) (_ : p.may .diag) (_ : p.may .pwr) (_ : p.may .trace) (_ : p.may .traceDrop) (_ : p.may .msix) (_ : p.may .firm) (_ : p.may .now) :
    State.Kept p (State.mainTick s) := by
  unfold State.mainTick
  repeat' first
    | with_reducible assumption
    | (intro x; first
        | (refine (have hx : State.Kept p x := ?_; ?_); subst x; rotate_left; clear_value x; rotate_right)
        | (refine (have hx : State.Kept p x.1 := ?_; ?_); subst x; rotate_left; clear_value x; rotate_right)
        | (try clear_value x))
    | lift_lets -underBinder
    | with_reducible apply State.Kept.ite
    | with_reducible apply State.Kept.foldl
    | with_reducible apply State.Kept.foldl_fst
    | with_reducible apply State.traceOut_kept
    | with_reducible apply State.showClocks_kept
    | with_reducible apply State.fillMoves_kept
    | with_reducible apply State.dieCopiesDue_kept
    | with_reducible apply State.postsCycle_kept
    | with_reducible apply State.fusionCycle_kept
    | with_reducible apply State.vatPulse_kept
    | with_reducible apply State.plannerCycle_kept
    | with_reducible apply State.solverCycle_kept
    | with_reducible apply State.lateClients_kept
    | with_reducible apply State.harpCycle_kept
    | with_reducible apply State.loopRelease_kept
    | with_reducible apply State.tclkEdge_kept
    | with_reducible apply State.ingestCycle_kept
    | (with_reducible apply State.Kept.upd_tick <;> with_reducible assumption)
    | split

theorem State.switchLines_kept {s : State} (h : s.Kept p) (_ : p.may .fbx) :
    State.Kept p (State.switchLines s) := by
  unfold State.switchLines
  repeat' first
    | with_reducible assumption
    | (intro x; first
        | (refine (have hx : State.Kept p x := ?_; ?_); subst x; rotate_left; clear_value x; rotate_right)
        | (refine (have hx : State.Kept p x.1 := ?_; ?_); subst x; rotate_left; clear_value x; rotate_right)
        | (try clear_value x))
    | lift_lets -underBinder
    | with_reducible apply State.Kept.ite
    | with_reducible apply State.Kept.foldl
    | with_reducible apply State.Kept.foldl_fst
    | with_reducible apply State.modFbx_kept
    | split

theorem State.rindTick_kept {s : State} (h : s.Kept p) (_ : p.may .rclk) (_ : p.may .evr) (_ : p.may .line) (_ : p.may .fbx) :
    State.Kept p (State.rindTick s) := by
  unfold State.rindTick
  repeat' first
    | with_reducible assumption
    | (intro x; first
        | (refine (have hx : State.Kept p x := ?_; ?_); subst x; rotate_left; clear_value x; rotate_right)
        | (refine (have hx : State.Kept p x.1 := ?_; ?_); subst x; rotate_left; clear_value x; rotate_right)
        | (try clear_value x))
    | lift_lets -underBinder
    | with_reducible apply State.Kept.ite
    | with_reducible apply State.switchLines_kept
    | (with_reducible apply State.Kept.upd_rclk_evr_line_fbx <;> with_reducible assumption)
    | split

theorem State.tickOnce_kept {s : State} (h : s.Kept p) (_ : p.may .tick) (_ : p.may .free) (_ : p.may .rdata) (_ : p.may .rphase) (_ : p.may .rclk) (_ : p.may .regs) (_ : p.may .logs) (_ : p.may .mem) (_ : p.may .poison) (_ : p.may .upset) (_ : p.may .cells) (_ : p.may .tb) (_ : p.may .evr) (_ : p.may .line) (_ : p.may .auth) (_ : p.may .safe) (_ : p.may .hostEvent) (_ : p.may .frt) (_ : p.may .vats) (_ : p.may .mig) (_ : p.may .harp) (_ : p.may .walkers) (_ : p.may .swaps) (_ : p.may .ing) (_ : p.may .fus) (_ : p.may .slv) (_ : p.may .pln) (_ : p.may .lp) (_ : p.may .xsl) (_ : p.may .fbx) (_ : p.may .diag) (_ : p.may .pwr) (_ : p.may .trace) (_ : p.may .traceDrop) (_ : p.may .msix) (_ : p.may .firm) (_ : p.may .now) :
    State.Kept p (State.tickOnce s) := by
  unfold State.tickOnce
  repeat' first
    | with_reducible assumption
    | (intro x; first
        | (refine (have hx : State.Kept p x := ?_; ?_); subst x; rotate_left; clear_value x; rotate_right)
        | (refine (have hx : State.Kept p x.1 := ?_; ?_); subst x; rotate_left; clear_value x; rotate_right)
        | (try clear_value x))
    | lift_lets -underBinder
    | with_reducible apply State.Kept.ite
    | with_reducible apply State.rindTick_kept
    | with_reducible apply State.mainTick_kept
    | (with_reducible apply State.Kept.upd_rphase <;> with_reducible assumption)
    | split

end Sys2Proof.Machine
end

