-- ==== Sys2Proof/Laws/KeptWalker.lean ====
section
/-! SUPPORT. State.Kept through the operations of Machine/Walker.lean. -/

set_option linter.all false

namespace Sys2Proof.Machine

variable {p : Promise}

theorem State.wkEnd_kept {s : State} {v : Nat} {c : WalkCmd} {code : Nat} {count : Nat} {value : Nat} (h : s.Kept p) (_ : p.may .regs) (_ : p.may .mem) (_ : p.may .poison) (_ : p.may .upset) (_ : p.may .cells) (_ : p.may .walkers) (_ : p.may .now) :
    State.Kept p (State.wkEnd s v c code count value) := by
  unfold State.wkEnd
  repeat' first
    | with_reducible assumption
    | (intro x; first
        | (refine (have hx : State.Kept p x := ?_; ?_); subst x; rotate_left; clear_value x; rotate_right)
        | (refine (have hx : State.Kept p x.1 := ?_; ?_); subst x; rotate_left; clear_value x; rotate_right)
        | (try clear_value x))
    | lift_lets -underBinder
    | with_reducible apply State.Kept.ite
    | with_reducible apply State.setReg_kept
    | with_reducible apply State.bump_kept
    | with_reducible apply State.storeLE_kept
    | with_reducible apply State.modWalker_kept
    | with_reducible apply State.cellDo_kept
    | split

theorem State.wkFail_kept {s : State} {v : Nat} {c : WalkCmd} {code : Nat} (h : s.Kept p) (_ : p.may .free) (_ : p.may .regs) (_ : p.may .mem) (_ : p.may .poison) (_ : p.may .upset) (_ : p.may .cells) (_ : p.may .walkers) (_ : p.may .now) :
    State.Kept p (State.wkFail s v c code) := by
  unfold State.wkFail
  repeat' first
    | with_reducible assumption
    | (intro x; first
        | (refine (have hx : State.Kept p x := ?_; ?_); subst x; rotate_left; clear_value x; rotate_right)
        | (refine (have hx : State.Kept p x.1 := ?_; ?_); subst x; rotate_left; clear_value x; rotate_right)
        | (try clear_value x))
    | lift_lets -underBinder
    | with_reducible apply State.Kept.ite
    | with_reducible apply State.Kept.foldl
    | with_reducible apply State.Kept.foldl_fst
    | with_reducible apply State.wkEnd_kept
    | with_reducible apply State.useFree_kept
    | split

theorem State.wkPush_kept {s : State} {v : Nat} {m : Nat} {a1_ : List (List Byte)} (h : s.Kept p) (_ : p.may .vats) :
    State.Kept p (State.wkPush s v m a1_).1 := by
  induction a1_ generalizing s v m with
  | nil =>
    unfold State.wkPush
    repeat' first
      | with_reducible assumption
      | (intro x; first
          | (refine (have hx : State.Kept p x := ?_; ?_); subst x; rotate_left; clear_value x; rotate_right)
          | (refine (have hx : State.Kept p x.1 := ?_; ?_); subst x; rotate_left; clear_value x; rotate_right)
          | (try clear_value x))
      | lift_lets -underBinder
      | with_reducible apply State.Kept.ite
      | with_reducible apply State.modMover_kept
      | split
  | cons y_ l_ ih =>
    unfold State.wkPush
    repeat' first
      | with_reducible apply ih
      | with_reducible assumption
      | (intro x; first
          | (refine (have hx : State.Kept p x := ?_; ?_); subst x; rotate_left; clear_value x; rotate_right)
          | (refine (have hx : State.Kept p x.1 := ?_; ?_); subst x; rotate_left; clear_value x; rotate_right)
          | (try clear_value x))
      | lift_lets -underBinder
      | with_reducible apply State.Kept.ite
      | with_reducible apply State.modMover_kept
      | split

theorem State.kvTile_kept {s : State} {v : Nat} {kw : Nat} {sum : Nat} {t : Nat} {rs : List KvRun} (h : s.Kept p) (_ : p.may .mem) (_ : p.may .poison) (_ : p.may .upset) :
    State.Kept p (State.kvTile s v kw sum t rs) := by
  unfold State.kvTile
  repeat' first
    | with_reducible assumption
    | (intro x; first
        | (refine (have hx : State.Kept p x := ?_; ?_); subst x; rotate_left; clear_value x; rotate_right)
        | (refine (have hx : State.Kept p x.1 := ?_; ?_); subst x; rotate_left; clear_value x; rotate_right)
        | (try clear_value x))
    | lift_lets -underBinder
    | with_reducible apply State.Kept.foldl
    | with_reducible apply State.Kept.foldl_fst
    | with_reducible apply State.store_kept
    | split

theorem State.wkGather_kept {s : State} {v : Nat} {c : WalkCmd} (h : s.Kept p) (_ : p.may .free) (_ : p.may .regs) (_ : p.may .mem) (_ : p.may .poison) (_ : p.may .upset) (_ : p.may .cells) (_ : p.may .vats) (_ : p.may .walkers) (_ : p.may .now) :
    State.Kept p (State.wkGather s v c).1 := by
  unfold State.wkGather
  repeat' first
    | with_reducible assumption
    | (intro x; first
        | (refine (have hx : State.Kept p x := ?_; ?_); subst x; rotate_left; clear_value x; rotate_right)
        | (refine (have hx : State.Kept p x.1 := ?_; ?_); subst x; rotate_left; clear_value x; rotate_right)
        | (try clear_value x))
    | lift_lets -underBinder
    | with_reducible apply State.Kept.ite
    | with_reducible apply State.Kept.foldl
    | with_reducible apply State.Kept.foldl_fst
    | with_reducible apply State.kvTile_kept
    | with_reducible apply State.wkPush_kept
    | with_reducible apply State.wkEnd_kept
    | with_reducible apply State.wkFail_kept
    | split

theorem State.wkRun_kept {s : State} {v : Nat} {op : Nat} {act : State → WalkCmd → State × Nat} (h : s.Kept p) (hact : ∀ (t : State) b0, t.Kept p → State.Kept p (act t b0).1) (_ : p.may .free) (_ : p.may .regs) (_ : p.may .mem) (_ : p.may .poison) (_ : p.may .upset) (_ : p.may .cells) (_ : p.may .walkers) (_ : p.may .now) :
    State.Kept p (State.wkRun s v op act) := by
  unfold State.wkRun
  repeat' first
    | with_reducible assumption
    | (intro x; first
        | (refine (have hx : State.Kept p x := ?_; ?_); subst x; rotate_left; clear_value x; rotate_right)
        | (refine (have hx : State.Kept p x.1 := ?_; ?_); subst x; rotate_left; clear_value x; rotate_right)
        | (try clear_value x))
    | lift_lets -underBinder
    | with_reducible apply State.Kept.ite
    | with_reducible apply hact
    | with_reducible apply State.wkFail_kept
    | split

theorem walkerGatherEffect_kept {v : VatNo} {s : State} (h : s.Kept p) (_ : p.may .free) (_ : p.may .regs) (_ : p.may .mem) (_ : p.may .poison) (_ : p.may .upset) (_ : p.may .cells) (_ : p.may .vats) (_ : p.may .walkers) (_ : p.may .now) :
    State.Kept p (walkerGatherEffect v s) := by
  unfold walkerGatherEffect
  repeat' first
    | with_reducible assumption
    | (intro x; first
        | (refine (have hx : State.Kept p x := ?_; ?_); subst x; rotate_left; clear_value x; rotate_right)
        | (refine (have hx : State.Kept p x.1 := ?_; ?_); subst x; rotate_left; clear_value x; rotate_right)
        | (try clear_value x))
    | lift_lets -underBinder
    | with_reducible apply State.wkRun_kept
    | with_reducible apply State.wkGather_kept

theorem State.wkAppend_kept {s : State} {v : Nat} {c : WalkCmd} (h : s.Kept p) (_ : p.may .free) (_ : p.may .regs) (_ : p.may .mem) (_ : p.may .poison) (_ : p.may .upset) (_ : p.may .cells) (_ : p.may .vats) (_ : p.may .walkers) (_ : p.may .now) :
    State.Kept p (State.wkAppend s v c).1 := by
  unfold State.wkAppend
  repeat' first
    | with_reducible assumption
    | (intro x; first
        | (refine (have hx : State.Kept p x := ?_; ?_); subst x; rotate_left; clear_value x; rotate_right)
        | (refine (have hx : State.Kept p x.1 := ?_; ?_); subst x; rotate_left; clear_value x; rotate_right)
        | (try clear_value x))
    | lift_lets -underBinder
    | with_reducible apply State.Kept.ite
    | with_reducible apply State.Kept.foldl
    | with_reducible apply State.Kept.foldl_fst
    | with_reducible apply State.wkPush_kept
    | with_reducible apply State.wkEnd_kept
    | with_reducible apply State.wkFail_kept
    | with_reducible apply State.modWalker_kept
    | split

theorem walkerAppendEffect_kept {v : VatNo} {s : State} (h : s.Kept p) (_ : p.may .free) (_ : p.may .regs) (_ : p.may .mem) (_ : p.may .poison) (_ : p.may .upset) (_ : p.may .cells) (_ : p.may .vats) (_ : p.may .walkers) (_ : p.may .now) :
    State.Kept p (walkerAppendEffect v s) := by
  unfold walkerAppendEffect
  repeat' first
    | with_reducible assumption
    | (intro x; first
        | (refine (have hx : State.Kept p x := ?_; ?_); subst x; rotate_left; clear_value x; rotate_right)
        | (refine (have hx : State.Kept p x.1 := ?_; ?_); subst x; rotate_left; clear_value x; rotate_right)
        | (try clear_value x))
    | lift_lets -underBinder
    | with_reducible apply State.wkAppend_kept
    | with_reducible apply State.wkRun_kept

theorem walkerAppendCommitEffect_kept {v : VatNo} {s : State} (h : s.Kept p) (_ : p.may .free) (_ : p.may .regs) (_ : p.may .mem) (_ : p.may .poison) (_ : p.may .upset) (_ : p.may .cells) (_ : p.may .walkers) (_ : p.may .pwr) (_ : p.may .now) :
    State.Kept p (walkerAppendCommitEffect v s) := by
  unfold walkerAppendCommitEffect
  repeat' first
    | with_reducible assumption
    | (intro x; first
        | (refine (have hx : State.Kept p x := ?_; ?_); subst x; rotate_left; clear_value x; rotate_right)
        | (refine (have hx : State.Kept p x.1 := ?_; ?_); subst x; rotate_left; clear_value x; rotate_right)
        | (try clear_value x))
    | lift_lets -underBinder
    | with_reducible apply State.Kept.ite
    | with_reducible apply State.Kept.foldl
    | with_reducible apply State.Kept.foldl_fst
    | with_reducible apply State.wkEnd_kept
    | with_reducible apply State.vatAct_kept
    | with_reducible apply State.storeLE_kept
    | with_reducible apply State.wkFail_kept
    | split

theorem State.wkEvict_kept {s : State} {v : Nat} {c : WalkCmd} (h : s.Kept p) (_ : p.may .free) (_ : p.may .regs) (_ : p.may .mem) (_ : p.may .poison) (_ : p.may .upset) (_ : p.may .cells) (_ : p.may .walkers) (_ : p.may .now) :
    State.Kept p (State.wkEvict s v c).1 := by
  unfold State.wkEvict
  repeat' first
    | with_reducible assumption
    | (intro x; first
        | (refine (have hx : State.Kept p x := ?_; ?_); subst x; rotate_left; clear_value x; rotate_right)
        | (refine (have hx : State.Kept p x.1 := ?_; ?_); subst x; rotate_left; clear_value x; rotate_right)
        | (try clear_value x))
    | lift_lets -underBinder
    | with_reducible apply State.Kept.ite
    | with_reducible apply State.Kept.foldl
    | with_reducible apply State.Kept.foldl_fst
    | with_reducible apply State.bumpBy_kept
    | with_reducible apply State.store_kept
    | with_reducible apply State.wkEnd_kept
    | with_reducible apply State.storeLE_kept
    | with_reducible apply State.wkFail_kept
    | with_reducible apply State.useFree_kept
    | split

theorem walkerEvictEffect_kept {v : VatNo} {s : State} (h : s.Kept p) (_ : p.may .free) (_ : p.may .regs) (_ : p.may .mem) (_ : p.may .poison) (_ : p.may .upset) (_ : p.may .cells) (_ : p.may .walkers) (_ : p.may .now) :
    State.Kept p (walkerEvictEffect v s) := by
  unfold walkerEvictEffect
  repeat' first
    | with_reducible assumption
    | (intro x; first
        | (refine (have hx : State.Kept p x := ?_; ?_); subst x; rotate_left; clear_value x; rotate_right)
        | (refine (have hx : State.Kept p x.1 := ?_; ?_); subst x; rotate_left; clear_value x; rotate_right)
        | (try clear_value x))
    | lift_lets -underBinder
    | with_reducible apply State.wkRun_kept
    | with_reducible apply State.wkEvict_kept

theorem walkerDoorbellEffect_kept {v : VatNo} {s : State} (h : s.Kept p) (_ : p.may .regs) (_ : p.may .logs) (_ : p.may .upset) (_ : p.may .evr) (_ : p.may .line) (_ : p.may .auth) (_ : p.may .safe) (_ : p.may .hostEvent) (_ : p.may .vats) (_ : p.may .walkers) (_ : p.may .fbx) (_ : p.may .pwr) (_ : p.may .trace) (_ : p.may .traceDrop) (_ : p.may .msix) (_ : p.may .firm) (_ : p.may .now) :
    State.Kept p (walkerDoorbellEffect v s) := by
  unfold walkerDoorbellEffect
  repeat' first
    | with_reducible assumption
    | (intro x; first
        | (refine (have hx : State.Kept p x := ?_; ?_); subst x; rotate_left; clear_value x; rotate_right)
        | (refine (have hx : State.Kept p x.1 := ?_; ?_); subst x; rotate_left; clear_value x; rotate_right)
        | (try clear_value x))
    | lift_lets -underBinder
    | with_reducible apply State.Kept.ite
    | with_reducible apply State.Kept.foldl
    | with_reducible apply State.Kept.foldl_fst
    | with_reducible apply State.bump_kept
    | with_reducible apply State.eccRead_kept
    | with_reducible apply State.modCore_kept
    | with_reducible apply State.vatAct_kept
    | with_reducible apply State.modWalker_kept
    | split

end Sys2Proof.Machine
end

