-- ==== Sys2Proof/Laws/KeptExec.lean ====
section
/-! SUPPORT. State.Kept through every command: exec answers a next state in which what the promise says holds. -/

set_option linter.all false

namespace Sys2Proof.Machine

variable {p : Promise}

/-- SAFE is set aside by RIND_POWER_ON alone, MAIN entered by HANDBACK_COMPLETE alone, and a command touches the parts of changes only. -/
theorem exec_kept {c : Instr} {s : State} (h : s.Kept p) (hm : p.mays (changes c)) (hs : p.safe = true → keepsSafe c = true)
    (hf : p.fallback = true → keepsFallback c = true) : ∃ t, exec c s = .next t ∧ t.Kept p := by
  cases c with
  | registerWrite _ _ _ _ =>
    obtain ⟨m0, m1, m2, m3, m4, m5, m6, m7, m8, m9, m10, m11, m12, m13, m14, m15, m16, m17, m18, m19, m20, m21, m22, m23, m24, m25, m26, m27, m28, m29, m30, m31, m32, m33, m34, _⟩ := hm
    exact ⟨_, rfl, State.onMain_kept h (fun _ h => registerWriteEffect_kept h m12 m0 m13 m14 m15 m16 m17 m18 m1 m2 m3 m4 m5 m19 m20 m21 m22 m23 m24 m25 m26 m27 m28 m29 m30 m6 m31 m32 m7 m8 m9 m33 m10 m34 m11)⟩
  | counterReadClear _ =>
    obtain ⟨m0, m1, m2, m3, m4, m5, m6, m7, m8, _⟩ := hm
    exact ⟨_, rfl, State.onMain_kept h (fun _ h => counterReadClearEffect_kept h m0 m1 m2 m3 m4 m5 m6 m7 m8)⟩
  | logReadAdvance _ =>
    obtain ⟨m0, m1, m2, m3, m4, m5, m6, m7, m8, _⟩ := hm
    exact ⟨_, rfl, State.onMain_kept h (fun _ h => logReadAdvanceEffect_kept h m0 m1 m2 m3 m4 m5 m6 m7 m8)⟩
  | fabricRequest _ _ _ _ _ _ _ =>
    obtain ⟨m0, m1, m2, m3, m4, m5, m6, m7, m8, m9, m10, m11, m12, m13, m14, m15, m16, m17, m18, m19, m20, m21, m22, m23, m24, m25, m26, m27, m28, m29, m30, m31, m32, m33, m34, m35, _⟩ := hm
    exact ⟨_, rfl, State.onMain_kept h (fun _ h => fabricRequestEffect_kept h m12 m0 m13 m14 m15 m16 m17 m18 m1 m2 m3 m4 m5 m19 m20 m21 m22 m23 m24 m25 m26 m27 m28 m29 m30 m6 m31 m32 m33 m7 m8 m9 m34 m10 m35 m11)⟩
  | syncCellOperation _ _ _ =>
    obtain ⟨m0, m1, _⟩ := hm
    exact ⟨_, rfl, State.onMain_kept h (fun _ h => syncCellOperationEffect_kept h m0 m1)⟩
  | majorFrameStart =>
    obtain ⟨m0, m1, m2, m3, m4, m5, m6, m7, m8, m9, m10, m11, m12, m13, m14, m15, m16, m17, m18, m19, m20, m21, m22, m23, m24, m25, m26, m27, m28, m29, m30, m31, m32, m33, m34, m35, m36, m37, _⟩ := hm
    exact ⟨_, rfl, State.onMain_kept h (fun _ h => majorFrameStartEffect_kept h m23 m0 m12 m13 m14 m15 m24 m25 m1 m2 m3 m4 m5 m16 m17 m18 m26 m27 m19 m28 m29 m30 m31 m32 m33 m34 m20 m6 m35 m21 m22 m7 m8 m9 m36 m10 m37 m11)⟩
  | slotStart =>
    obtain ⟨m0, m1, m2, m3, m4, m5, m6, m7, m8, m9, m10, m11, m12, m13, m14, m15, m16, m17, m18, m19, m20, m21, m22, m23, m24, _⟩ := hm
    exact ⟨_, rfl, State.onMain_kept h (fun _ h => slotStartEffect_kept h m0 m12 m13 m14 m15 m1 m2 m3 m4 m5 m16 m17 m18 m23 m19 m24 m20 m6 m21 m22 m7 m8 m9 m10 m11)⟩
  | lakeRefreshSubslot =>
    obtain ⟨m0, m1, m2, m3, m4, m5, m6, m7, m8, m9, m10, m11, m12, m13, m14, m15, m16, _⟩ := hm
    exact ⟨_, rfl, State.onMain_kept h (fun _ h => lakeRefreshSubslotEffect_kept h m0 m12 m13 m14 m15 m1 m2 m3 m4 m5 m16 m6 m7 m8 m9 m10 m11)⟩
  | fillEntryStart _ =>
    obtain ⟨m0, m1, m2, m3, m4, m5, m6, _⟩ := hm
    exact ⟨_, rfl, State.onMain_kept h (fun _ h => fillEntryStartEffect_kept h m0 m1 m2 m3 m4 m5 m6)⟩
  | cutPoint _ =>
    obtain ⟨m0, m1, m2, m3, m4, m5, m6, m7, m8, m9, m10, m11, m12, m13, m14, m15, m16, m17, m18, m19, m20, _⟩ := hm
    exact ⟨_, rfl, State.onMain_kept h (fun _ h => cutPointEffect_kept h m0 m12 m13 m14 m1 m2 m3 m4 m5 m15 m16 m17 m18 m19 m6 m20 m7 m8 m9 m10 m11)⟩
  | lcOverrun _ =>
    obtain ⟨m0, m1, m2, m3, m4, m5, m6, m7, m8, m9, m10, m11, m12, m13, m14, m15, m16, m17, m18, m19, m20, _⟩ := hm
    exact ⟨_, rfl, State.onMain_kept h (fun _ h => lcOverrunEffect_kept h m0 m12 m13 m14 m15 m1 m2 m3 m4 m5 m16 m17 m18 m19 m20 m6 m7 m8 m9 m10 m11)⟩
  | frtLoadCmd _ =>
    obtain ⟨m0, m1, m2, _⟩ := hm
    exact ⟨_, rfl, State.onMain_kept h (fun _ h => frtLoadCmdEffect_kept h m0 m1 m2)⟩
  | frtLoadComplete =>
    obtain ⟨m0, m1, m2, m3, m4, m5, m6, m7, m8, _⟩ := hm
    exact ⟨_, rfl, State.onMain_kept h (fun _ h => frtLoadCompleteEffect_kept h m0 m1 m2 m3 m4 m5 m6 m7 m8)⟩
  | ftSwitch =>
    obtain ⟨m0, m1, _⟩ := hm
    exact ⟨_, rfl, State.onMain_kept h (fun _ h => ftSwitchEffect_kept h m0 m1)⟩
  | ftStop =>
    obtain ⟨m0, m1, m2, _⟩ := hm
    exact ⟨_, rfl, State.onMain_kept h (fun _ h => ftStopEffect_kept h m0 m1 m2)⟩
  | opBr _ _ _ =>
    obtain ⟨m0, m1, m2, m3, m4, m5, m6, m7, m8, m9, m10, m11, m12, m13, m14, m15, m16, m17, m18, m19, m20, m21, m22, _⟩ := hm
    exact ⟨_, rfl, State.onMain_kept h (fun _ h => brEffect_kept h m0 m12 m13 m14 m15 m1 m2 m3 m4 m5 m16 m17 m18 m19 m20 m6 m21 m22 m7 m8 m9 m10 m11)⟩
  | opBri _ _ _ =>
    obtain ⟨m0, m1, m2, m3, m4, m5, m6, m7, m8, m9, m10, m11, m12, m13, m14, m15, m16, m17, m18, m19, m20, m21, m22, _⟩ := hm
    exact ⟨_, rfl, State.onMain_kept h (fun _ h => briEffect_kept h m0 m12 m13 m14 m15 m1 m2 m3 m4 m5 m16 m17 m18 m19 m20 m6 m21 m22 m7 m8 m9 m10 m11)⟩
  | opCall _ _ _ =>
    obtain ⟨m0, m1, m2, m3, m4, m5, m6, m7, m8, m9, m10, m11, m12, m13, m14, m15, m16, m17, m18, m19, m20, m21, m22, _⟩ := hm
    exact ⟨_, rfl, State.onMain_kept h (fun _ h => callEffect_kept h m0 m12 m13 m14 m15 m1 m2 m3 m4 m5 m16 m17 m18 m19 m20 m6 m21 m22 m7 m8 m9 m10 m11)⟩
  | opCalli _ _ _ =>
    obtain ⟨m0, m1, m2, m3, m4, m5, m6, m7, m8, m9, m10, m11, m12, m13, m14, m15, m16, m17, m18, m19, m20, m21, m22, _⟩ := hm
    exact ⟨_, rfl, State.onMain_kept h (fun _ h => calliEffect_kept h m0 m12 m13 m14 m15 m1 m2 m3 m4 m5 m16 m17 m18 m19 m20 m6 m21 m22 m7 m8 m9 m10 m11)⟩
  | opRet _ _ _ =>
    obtain ⟨m0, m1, m2, m3, m4, m5, m6, m7, m8, m9, m10, m11, m12, m13, m14, m15, m16, m17, m18, m19, m20, m21, m22, _⟩ := hm
    exact ⟨_, rfl, State.onMain_kept h (fun _ h => retEffect_kept h m0 m12 m13 m14 m15 m1 m2 m3 m4 m5 m16 m17 m18 m19 m20 m6 m21 m22 m7 m8 m9 m10 m11)⟩
  | opLoop _ _ _ =>
    obtain ⟨m0, m1, m2, m3, m4, m5, m6, m7, m8, m9, m10, m11, m12, m13, m14, m15, m16, m17, m18, m19, m20, m21, m22, _⟩ := hm
    exact ⟨_, rfl, State.onMain_kept h (fun _ h => loopEffect_kept h m0 m12 m13 m14 m15 m1 m2 m3 m4 m5 m16 m17 m18 m19 m20 m6 m21 m22 m7 m8 m9 m10 m11)⟩
  | opWaitc _ _ _ =>
    obtain ⟨m0, m1, m2, m3, m4, m5, m6, m7, m8, m9, m10, m11, m12, m13, m14, m15, m16, m17, m18, m19, m20, m21, m22, _⟩ := hm
    exact ⟨_, rfl, State.onMain_kept h (fun _ h => waitcEffect_kept h m0 m12 m13 m14 m15 m1 m2 m3 m4 m5 m16 m17 m18 m19 m20 m6 m21 m22 m7 m8 m9 m10 m11)⟩
  | waitcExpiry _ =>
    obtain ⟨m0, _⟩ := hm
    exact ⟨_, rfl, State.onMain_kept h (fun _ h => waitcExpiryEffect_kept h m0)⟩
  | opYield _ _ _ =>
    obtain ⟨m0, m1, m2, m3, m4, m5, m6, m7, m8, m9, m10, m11, m12, m13, m14, m15, m16, m17, m18, m19, m20, m21, m22, _⟩ := hm
    exact ⟨_, rfl, State.onMain_kept h (fun _ h => yieldEffect_kept h m0 m12 m13 m14 m15 m1 m2 m3 m4 m5 m16 m17 m18 m19 m20 m6 m21 m22 m7 m8 m9 m10 m11)⟩
  | yieldResume _ =>
    obtain ⟨m0, _⟩ := hm
    exact ⟨_, rfl, State.onMain_kept h (fun _ h => yieldResumeEffect_kept h m0)⟩
  | opEnd _ _ _ =>
    obtain ⟨m0, m1, m2, m3, m4, m5, m6, m7, m8, m9, m10, m11, m12, m13, m14, m15, m16, m17, m18, m19, m20, m21, m22, _⟩ := hm
    exact ⟨_, rfl, State.onMain_kept h (fun _ h => endEffect_kept h m0 m12 m13 m14 m15 m1 m2 m3 m4 m5 m16 m17 m18 m19 m20 m6 m21 m22 m7 m8 m9 m10 m11)⟩
  | endDoneIncrement _ =>
    obtain ⟨m0, m1, m2, m3, m4, m5, m6, m7, m8, m9, m10, m11, m12, m13, m14, m15, _⟩ := hm
    exact ⟨_, rfl, State.onMain_kept h (fun _ h => endDoneEffect_kept h m0 m12 m1 m2 m3 m4 m5 m13 m14 m6 m15 m7 m8 m9 m10 m11)⟩
  | opSadd _ _ _ =>
    obtain ⟨m0, m1, m2, m3, m4, m5, m6, m7, m8, m9, m10, m11, m12, m13, m14, m15, m16, m17, m18, m19, m20, m21, m22, _⟩ := hm
    exact ⟨_, rfl, State.onMain_kept h (fun _ h => saddEffect_kept h m0 m12 m13 m14 m15 m1 m2 m3 m4 m5 m16 m17 m18 m19 m20 m6 m21 m22 m7 m8 m9 m10 m11)⟩
  | opSset _ _ _ =>
    obtain ⟨m0, m1, m2, m3, m4, m5, m6, m7, m8, m9, m10, m11, m12, m13, m14, m15, m16, m17, m18, m19, m20, m21, m22, _⟩ := hm
    exact ⟨_, rfl, State.onMain_kept h (fun _ h => ssetEffect_kept h m0 m12 m13 m14 m15 m1 m2 m3 m4 m5 m16 m17 m18 m19 m20 m6 m21 m22 m7 m8 m9 m10 m11)⟩
  | opSrd _ _ _ =>
    obtain ⟨m0, m1, m2, m3, m4, m5, m6, m7, m8, m9, m10, m11, m12, m13, m14, m15, m16, m17, m18, m19, m20, m21, m22, _⟩ := hm
    exact ⟨_, rfl, State.onMain_kept h (fun _ h => srdEffect_kept h m0 m12 m13 m14 m15 m1 m2 m3 m4 m5 m16 m17 m18 m19 m20 m6 m21 m22 m7 m8 m9 m10 m11)⟩
  | opSwait _ _ _ =>
    obtain ⟨m0, m1, m2, m3, m4, m5, m6, m7, m8, m9, m10, m11, m12, m13, m14, m15, m16, m17, m18, m19, m20, m21, m22, _⟩ := hm
    exact ⟨_, rfl, State.onMain_kept h (fun _ h => swaitEffect_kept h m0 m12 m13 m14 m15 m1 m2 m3 m4 m5 m16 m17 m18 m19 m20 m6 m21 m22 m7 m8 m9 m10 m11)⟩
  | swaitSatisfied _ =>
    obtain ⟨m0, _⟩ := hm
    exact ⟨_, rfl, State.onMain_kept h (fun _ h => swaitSatisfiedEffect_kept h m0)⟩
  | swaitTimeout _ =>
    obtain ⟨m0, _⟩ := hm
    exact ⟨_, rfl, State.onMain_kept h (fun _ h => swaitTimeoutEffect_kept h m0)⟩
  | opAdd _ _ _ _ =>
    obtain ⟨m0, m1, m2, m3, m4, m5, m6, m7, m8, m9, m10, m11, m12, m13, m14, m15, m16, m17, m18, m19, m20, m21, m22, _⟩ := hm
    exact ⟨_, rfl, State.onMain_kept h (fun _ h => addEffect_kept h m0 m12 m13 m14 m15 m1 m2 m3 m4 m5 m16 m17 m18 m19 m20 m6 m21 m22 m7 m8 m9 m10 m11)⟩
  | opSub _ _ _ _ =>
    obtain ⟨m0, m1, m2, m3, m4, m5, m6, m7, m8, m9, m10, m11, m12, m13, m14, m15, m16, m17, m18, m19, m20, m21, m22, _⟩ := hm
    exact ⟨_, rfl, State.onMain_kept h (fun _ h => subEffect_kept h m0 m12 m13 m14 m15 m1 m2 m3 m4 m5 m16 m17 m18 m19 m20 m6 m21 m22 m7 m8 m9 m10 m11)⟩
  | opAnd _ _ _ _ =>
    obtain ⟨m0, m1, m2, m3, m4, m5, m6, m7, m8, m9, m10, m11, m12, m13, m14, m15, m16, m17, m18, m19, m20, m21, m22, _⟩ := hm
    exact ⟨_, rfl, State.onMain_kept h (fun _ h => andEffect_kept h m0 m12 m13 m14 m15 m1 m2 m3 m4 m5 m16 m17 m18 m19 m20 m6 m21 m22 m7 m8 m9 m10 m11)⟩
  | opOr _ _ _ _ =>
    obtain ⟨m0, m1, m2, m3, m4, m5, m6, m7, m8, m9, m10, m11, m12, m13, m14, m15, m16, m17, m18, m19, m20, m21, m22, _⟩ := hm
    exact ⟨_, rfl, State.onMain_kept h (fun _ h => orEffect_kept h m0 m12 m13 m14 m15 m1 m2 m3 m4 m5 m16 m17 m18 m19 m20 m6 m21 m22 m7 m8 m9 m10 m11)⟩
  | opXor _ _ _ _ =>
    obtain ⟨m0, m1, m2, m3, m4, m5, m6, m7, m8, m9, m10, m11, m12, m13, m14, m15, m16, m17, m18, m19, m20, m21, m22, _⟩ := hm
    exact ⟨_, rfl, State.onMain_kept h (fun _ h => xorEffect_kept h m0 m12 m13 m14 m15 m1 m2 m3 m4 m5 m16 m17 m18 m19 m20 m6 m21 m22 m7 m8 m9 m10 m11)⟩
  | opShl _ _ _ _ =>
    obtain ⟨m0, m1, m2, m3, m4, m5, m6, m7, m8, m9, m10, m11, m12, m13, m14, m15, m16, m17, m18, m19, m20, m21, m22, _⟩ := hm
    exact ⟨_, rfl, State.onMain_kept h (fun _ h => shlEffect_kept h m0 m12 m13 m14 m15 m1 m2 m3 m4 m5 m16 m17 m18 m19 m20 m6 m21 m22 m7 m8 m9 m10 m11)⟩
  | opShr _ _ _ _ =>
    obtain ⟨m0, m1, m2, m3, m4, m5, m6, m7, m8, m9, m10, m11, m12, m13, m14, m15, m16, m17, m18, m19, m20, m21, m22, _⟩ := hm
    exact ⟨_, rfl, State.onMain_kept h (fun _ h => shrEffect_kept h m0 m12 m13 m14 m15 m1 m2 m3 m4 m5 m16 m17 m18 m19 m20 m6 m21 m22 m7 m8 m9 m10 m11)⟩
  | opSar _ _ _ _ =>
    obtain ⟨m0, m1, m2, m3, m4, m5, m6, m7, m8, m9, m10, m11, m12, m13, m14, m15, m16, m17, m18, m19, m20, m21, m22, _⟩ := hm
    exact ⟨_, rfl, State.onMain_kept h (fun _ h => sarEffect_kept h m0 m12 m13 m14 m15 m1 m2 m3 m4 m5 m16 m17 m18 m19 m20 m6 m21 m22 m7 m8 m9 m10 m11)⟩
  | opMin _ _ _ _ =>
    obtain ⟨m0, m1, m2, m3, m4, m5, m6, m7, m8, m9, m10, m11, m12, m13, m14, m15, m16, m17, m18, m19, m20, m21, m22, _⟩ := hm
    exact ⟨_, rfl, State.onMain_kept h (fun _ h => minEffect_kept h m0 m12 m13 m14 m15 m1 m2 m3 m4 m5 m16 m17 m18 m19 m20 m6 m21 m22 m7 m8 m9 m10 m11)⟩
  | opMax _ _ _ _ =>
    obtain ⟨m0, m1, m2, m3, m4, m5, m6, m7, m8, m9, m10, m11, m12, m13, m14, m15, m16, m17, m18, m19, m20, m21, m22, _⟩ := hm
    exact ⟨_, rfl, State.onMain_kept h (fun _ h => maxEffect_kept h m0 m12 m13 m14 m15 m1 m2 m3 m4 m5 m16 m17 m18 m19 m20 m6 m21 m22 m7 m8 m9 m10 m11)⟩
  | opMinu _ _ _ _ =>
    obtain ⟨m0, m1, m2, m3, m4, m5, m6, m7, m8, m9, m10, m11, m12, m13, m14, m15, m16, m17, m18, m19, m20, m21, m22, _⟩ := hm
    exact ⟨_, rfl, State.onMain_kept h (fun _ h => minuEffect_kept h m0 m12 m13 m14 m15 m1 m2 m3 m4 m5 m16 m17 m18 m19 m20 m6 m21 m22 m7 m8 m9 m10 m11)⟩
  | opMaxu _ _ _ _ =>
    obtain ⟨m0, m1, m2, m3, m4, m5, m6, m7, m8, m9, m10, m11, m12, m13, m14, m15, m16, m17, m18, m19, m20, m21, m22, _⟩ := hm
    exact ⟨_, rfl, State.onMain_kept h (fun _ h => maxuEffect_kept h m0 m12 m13 m14 m15 m1 m2 m3 m4 m5 m16 m17 m18 m19 m20 m6 m21 m22 m7 m8 m9 m10 m11)⟩
  | opMul _ _ _ _ =>
    obtain ⟨m0, m1, m2, m3, m4, m5, m6, m7, m8, m9, m10, m11, m12, m13, m14, m15, m16, m17, m18, m19, m20, m21, m22, _⟩ := hm
    exact ⟨_, rfl, State.onMain_kept h (fun _ h => mulEffect_kept h m0 m12 m13 m14 m15 m1 m2 m3 m4 m5 m16 m17 m18 m19 m20 m6 m21 m22 m7 m8 m9 m10 m11)⟩
  | opMulhu _ _ _ _ =>
    obtain ⟨m0, m1, m2, m3, m4, m5, m6, m7, m8, m9, m10, m11, m12, m13, m14, m15, m16, m17, m18, m19, m20, m21, m22, _⟩ := hm
    exact ⟨_, rfl, State.onMain_kept h (fun _ h => mulhuEffect_kept h m0 m12 m13 m14 m15 m1 m2 m3 m4 m5 m16 m17 m18 m19 m20 m6 m21 m22 m7 m8 m9 m10 m11)⟩
  | opCmpeq _ _ _ _ =>
    obtain ⟨m0, m1, m2, m3, m4, m5, m6, m7, m8, m9, m10, m11, m12, m13, m14, m15, m16, m17, m18, m19, m20, m21, m22, _⟩ := hm
    exact ⟨_, rfl, State.onMain_kept h (fun _ h => cmpeqEffect_kept h m0 m12 m13 m14 m15 m1 m2 m3 m4 m5 m16 m17 m18 m19 m20 m6 m21 m22 m7 m8 m9 m10 m11)⟩
  | opCmplt _ _ _ _ =>
    obtain ⟨m0, m1, m2, m3, m4, m5, m6, m7, m8, m9, m10, m11, m12, m13, m14, m15, m16, m17, m18, m19, m20, m21, m22, _⟩ := hm
    exact ⟨_, rfl, State.onMain_kept h (fun _ h => cmpltEffect_kept h m0 m12 m13 m14 m15 m1 m2 m3 m4 m5 m16 m17 m18 m19 m20 m6 m21 m22 m7 m8 m9 m10 m11)⟩
  | opCmpltu _ _ _ _ =>
    obtain ⟨m0, m1, m2, m3, m4, m5, m6, m7, m8, m9, m10, m11, m12, m13, m14, m15, m16, m17, m18, m19, m20, m21, m22, _⟩ := hm
    exact ⟨_, rfl, State.onMain_kept h (fun _ h => cmpltuEffect_kept h m0 m12 m13 m14 m15 m1 m2 m3 m4 m5 m16 m17 m18 m19 m20 m6 m21 m22 m7 m8 m9 m10 m11)⟩
  | opPand _ _ _ _ =>
    obtain ⟨m0, m1, m2, m3, m4, m5, m6, m7, m8, m9, m10, m11, m12, m13, m14, m15, m16, m17, m18, m19, m20, m21, m22, _⟩ := hm
    exact ⟨_, rfl, State.onMain_kept h (fun _ h => pandEffect_kept h m0 m12 m13 m14 m15 m1 m2 m3 m4 m5 m16 m17 m18 m19 m20 m6 m21 m22 m7 m8 m9 m10 m11)⟩
  | opPor _ _ _ _ =>
    obtain ⟨m0, m1, m2, m3, m4, m5, m6, m7, m8, m9, m10, m11, m12, m13, m14, m15, m16, m17, m18, m19, m20, m21, m22, _⟩ := hm
    exact ⟨_, rfl, State.onMain_kept h (fun _ h => porEffect_kept h m0 m12 m13 m14 m15 m1 m2 m3 m4 m5 m16 m17 m18 m19 m20 m6 m21 m22 m7 m8 m9 m10 m11)⟩
  | opPxor _ _ _ _ =>
    obtain ⟨m0, m1, m2, m3, m4, m5, m6, m7, m8, m9, m10, m11, m12, m13, m14, m15, m16, m17, m18, m19, m20, m21, m22, _⟩ := hm
    exact ⟨_, rfl, State.onMain_kept h (fun _ h => pxorEffect_kept h m0 m12 m13 m14 m15 m1 m2 m3 m4 m5 m16 m17 m18 m19 m20 m6 m21 m22 m7 m8 m9 m10 m11)⟩
  | opLd _ _ _ _ =>
    obtain ⟨m0, m1, m2, m3, m4, m5, m6, m7, m8, m9, m10, m11, m12, m13, m14, m15, m16, m17, m18, m19, m20, m21, m22, _⟩ := hm
    exact ⟨_, rfl, State.onMain_kept h (fun _ h => ldEffect_kept h m0 m12 m13 m14 m15 m1 m2 m3 m4 m5 m16 m17 m18 m19 m20 m6 m21 m22 m7 m8 m9 m10 m11)⟩
  | opSt _ _ _ _ =>
    obtain ⟨m0, m1, m2, m3, m4, m5, m6, m7, m8, m9, m10, m11, m12, m13, m14, m15, m16, m17, m18, m19, m20, m21, m22, _⟩ := hm
    exact ⟨_, rfl, State.onMain_kept h (fun _ h => stEffect_kept h m0 m12 m13 m14 m15 m1 m2 m3 m4 m5 m16 m17 m18 m19 m20 m6 m21 m22 m7 m8 m9 m10 m11)⟩
  | opRdc _ _ _ _ =>
    obtain ⟨m0, m1, m2, m3, m4, m5, m6, m7, m8, m9, m10, m11, m12, m13, m14, m15, m16, m17, m18, m19, m20, m21, m22, _⟩ := hm
    exact ⟨_, rfl, State.onMain_kept h (fun _ h => rdcEffect_kept h m0 m12 m13 m14 m15 m1 m2 m3 m4 m5 m16 m17 m18 m19 m20 m6 m21 m22 m7 m8 m9 m10 m11)⟩
  | opAld _ _ _ _ =>
    obtain ⟨m0, m1, m2, m3, m4, m5, m6, m7, m8, m9, m10, m11, m12, m13, m14, m15, m16, m17, m18, m19, m20, m21, m22, _⟩ := hm
    exact ⟨_, rfl, State.onMain_kept h (fun _ h => aldEffect_kept h m0 m12 m13 m14 m15 m1 m2 m3 m4 m5 m16 m17 m18 m19 m20 m6 m21 m22 m7 m8 m9 m10 m11)⟩
  | opAset _ _ _ _ =>
    obtain ⟨m0, m1, m2, m3, m4, m5, m6, m7, m8, m9, m10, m11, m12, m13, m14, m15, m16, m17, m18, m19, m20, m21, m22, _⟩ := hm
    exact ⟨_, rfl, State.onMain_kept h (fun _ h => asetEffect_kept h m0 m12 m13 m14 m15 m1 m2 m3 m4 m5 m16 m17 m18 m19 m20 m6 m21 m22 m7 m8 m9 m10 m11)⟩
  | opArst _ _ _ _ =>
    obtain ⟨m0, m1, m2, m3, m4, m5, m6, m7, m8, m9, m10, m11, m12, m13, m14, m15, m16, m17, m18, m19, m20, m21, m22, _⟩ := hm
    exact ⟨_, rfl, State.onMain_kept h (fun _ h => arstEffect_kept h m0 m12 m13 m14 m15 m1 m2 m3 m4 m5 m16 m17 m18 m19 m20 m6 m21 m22 m7 m8 m9 m10 m11)⟩
  | opVld _ _ _ _ =>
    obtain ⟨m0, m1, m2, m3, m4, m5, m6, m7, m8, m9, m10, m11, m12, m13, m14, m15, m16, m17, m18, m19, m20, m21, m22, _⟩ := hm
    exact ⟨_, rfl, State.onMain_kept h (fun _ h => vldEffect_kept h m0 m12 m13 m14 m15 m1 m2 m3 m4 m5 m16 m17 m18 m19 m20 m6 m21 m22 m7 m8 m9 m10 m11)⟩
  | opVst _ _ _ _ =>
    obtain ⟨m0, m1, m2, m3, m4, m5, m6, m7, m8, m9, m10, m11, m12, m13, m14, m15, m16, m17, m18, m19, m20, m21, m22, _⟩ := hm
    exact ⟨_, rfl, State.onMain_kept h (fun _ h => vstEffect_kept h m0 m12 m13 m14 m15 m1 m2 m3 m4 m5 m16 m17 m18 m19 m20 m6 m21 m22 m7 m8 m9 m10 m11)⟩
  | opAskip _ _ _ _ =>
    obtain ⟨m0, m1, m2, m3, m4, m5, m6, m7, m8, m9, m10, m11, m12, m13, m14, m15, m16, m17, m18, m19, m20, m21, m22, _⟩ := hm
    exact ⟨_, rfl, State.onMain_kept h (fun _ h => askipEffect_kept h m0 m12 m13 m14 m15 m1 m2 m3 m4 m5 m16 m17 m18 m19 m20 m6 m21 m22 m7 m8 m9 m10 m11)⟩
  | opTwld _ _ _ _ =>
    obtain ⟨m0, m1, m2, m3, m4, m5, m6, m7, m8, m9, m10, m11, m12, m13, m14, m15, m16, m17, m18, m19, m20, m21, m22, _⟩ := hm
    exact ⟨_, rfl, State.onMain_kept h (fun _ h => twldEffect_kept h m0 m12 m13 m14 m15 m1 m2 m3 m4 m5 m16 m17 m18 m19 m20 m6 m21 m22 m7 m8 m9 m10 m11)⟩
  | opTmm _ _ _ _ =>
    obtain ⟨m0, m1, m2, m3, m4, m5, m6, m7, m8, m9, m10, m11, m12, m13, m14, m15, m16, m17, m18, m19, m20, m21, m22, _⟩ := hm
    exact ⟨_, rfl, State.onMain_kept h (fun _ h => tmmEffect_kept h m0 m12 m13 m14 m15 m1 m2 m3 m4 m5 m16 m17 m18 m19 m20 m6 m21 m22 m7 m8 m9 m10 m11)⟩
  | opTrd _ _ _ _ =>
    obtain ⟨m0, m1, m2, m3, m4, m5, m6, m7, m8, m9, m10, m11, m12, m13, m14, m15, m16, m17, m18, m19, m20, m21, m22, m23, _⟩ := hm
    exact ⟨_, rfl, State.onMain_kept h (fun _ h => trdEffect_kept h m23 m0 m12 m13 m14 m15 m1 m2 m3 m4 m5 m16 m17 m18 m19 m20 m6 m21 m22 m7 m8 m9 m10 m11)⟩
  | opTclr _ _ _ _ =>
    obtain ⟨m0, m1, m2, m3, m4, m5, m6, m7, m8, m9, m10, m11, m12, m13, m14, m15, m16, m17, m18, m19, m20, m21, m22, _⟩ := hm
    exact ⟨_, rfl, State.onMain_kept h (fun _ h => tclrEffect_kept h m0 m12 m13 m14 m15 m1 m2 m3 m4 m5 m16 m17 m18 m19 m20 m6 m21 m22 m7 m8 m9 m10 m11)⟩
  | opTlut _ _ _ _ =>
    obtain ⟨m0, m1, m2, m3, m4, m5, m6, m7, m8, m9, m10, m11, m12, m13, m14, m15, m16, m17, m18, m19, m20, m21, m22, _⟩ := hm
    exact ⟨_, rfl, State.onMain_kept h (fun _ h => tlutEffect_kept h m0 m12 m13 m14 m15 m1 m2 m3 m4 m5 m16 m17 m18 m19 m20 m6 m21 m22 m7 m8 m9 m10 m11)⟩
  | opVadd _ _ _ =>
    obtain ⟨m0, m1, m2, m3, m4, m5, m6, m7, m8, m9, m10, m11, m12, m13, m14, m15, m16, m17, m18, m19, m20, m21, m22, _⟩ := hm
    exact ⟨_, rfl, State.onMain_kept h (fun _ h => vaddEffect_kept h m0 m12 m13 m14 m15 m1 m2 m3 m4 m5 m16 m17 m18 m19 m20 m6 m21 m22 m7 m8 m9 m10 m11)⟩
  | opVsub _ _ _ =>
    obtain ⟨m0, m1, m2, m3, m4, m5, m6, m7, m8, m9, m10, m11, m12, m13, m14, m15, m16, m17, m18, m19, m20, m21, m22, _⟩ := hm
    exact ⟨_, rfl, State.onMain_kept h (fun _ h => vsubEffect_kept h m0 m12 m13 m14 m15 m1 m2 m3 m4 m5 m16 m17 m18 m19 m20 m6 m21 m22 m7 m8 m9 m10 m11)⟩
  | opVmax _ _ _ =>
    obtain ⟨m0, m1, m2, m3, m4, m5, m6, m7, m8, m9, m10, m11, m12, m13, m14, m15, m16, m17, m18, m19, m20, m21, m22, _⟩ := hm
    exact ⟨_, rfl, State.onMain_kept h (fun _ h => vmaxEffect_kept h m0 m12 m13 m14 m15 m1 m2 m3 m4 m5 m16 m17 m18 m19 m20 m6 m21 m22 m7 m8 m9 m10 m11)⟩
  | opVmin _ _ _ =>
    obtain ⟨m0, m1, m2, m3, m4, m5, m6, m7, m8, m9, m10, m11, m12, m13, m14, m15, m16, m17, m18, m19, m20, m21, m22, _⟩ := hm
    exact ⟨_, rfl, State.onMain_kept h (fun _ h => vminEffect_kept h m0 m12 m13 m14 m15 m1 m2 m3 m4 m5 m16 m17 m18 m19 m20 m6 m21 m22 m7 m8 m9 m10 m11)⟩
  | opVmul _ _ _ =>
    obtain ⟨m0, m1, m2, m3, m4, m5, m6, m7, m8, m9, m10, m11, m12, m13, m14, m15, m16, m17, m18, m19, m20, m21, m22, _⟩ := hm
    exact ⟨_, rfl, State.onMain_kept h (fun _ h => vmulEffect_kept h m0 m12 m13 m14 m15 m1 m2 m3 m4 m5 m16 m17 m18 m19 m20 m6 m21 m22 m7 m8 m9 m10 m11)⟩
  | opVfma _ _ _ =>
    obtain ⟨m0, m1, m2, m3, m4, m5, m6, m7, m8, m9, m10, m11, m12, m13, m14, m15, m16, m17, m18, m19, m20, m21, m22, _⟩ := hm
    exact ⟨_, rfl, State.onMain_kept h (fun _ h => vfmaEffect_kept h m0 m12 m13 m14 m15 m1 m2 m3 m4 m5 m16 m17 m18 m19 m20 m6 m21 m22 m7 m8 m9 m10 m11)⟩
  | opVexp2 _ _ _ =>
    obtain ⟨m0, m1, m2, m3, m4, m5, m6, m7, m8, m9, m10, m11, m12, m13, m14, m15, m16, m17, m18, m19, m20, m21, m22, _⟩ := hm
    exact ⟨_, rfl, State.onMain_kept h (fun _ h => vexp2Effect_kept h m0 m12 m13 m14 m15 m1 m2 m3 m4 m5 m16 m17 m18 m19 m20 m6 m21 m22 m7 m8 m9 m10 m11)⟩
  | opVlog2 _ _ _ =>
    obtain ⟨m0, m1, m2, m3, m4, m5, m6, m7, m8, m9, m10, m11, m12, m13, m14, m15, m16, m17, m18, m19, m20, m21, m22, _⟩ := hm
    exact ⟨_, rfl, State.onMain_kept h (fun _ h => vlog2Effect_kept h m0 m12 m13 m14 m15 m1 m2 m3 m4 m5 m16 m17 m18 m19 m20 m6 m21 m22 m7 m8 m9 m10 m11)⟩
  | opVrcp _ _ _ =>
    obtain ⟨m0, m1, m2, m3, m4, m5, m6, m7, m8, m9, m10, m11, m12, m13, m14, m15, m16, m17, m18, m19, m20, m21, m22, _⟩ := hm
    exact ⟨_, rfl, State.onMain_kept h (fun _ h => vrcpEffect_kept h m0 m12 m13 m14 m15 m1 m2 m3 m4 m5 m16 m17 m18 m19 m20 m6 m21 m22 m7 m8 m9 m10 m11)⟩
  | opVrsq _ _ _ =>
    obtain ⟨m0, m1, m2, m3, m4, m5, m6, m7, m8, m9, m10, m11, m12, m13, m14, m15, m16, m17, m18, m19, m20, m21, m22, _⟩ := hm
    exact ⟨_, rfl, State.onMain_kept h (fun _ h => vrsqEffect_kept h m0 m12 m13 m14 m15 m1 m2 m3 m4 m5 m16 m17 m18 m19 m20 m6 m21 m22 m7 m8 m9 m10 m11)⟩
  | opVsig _ _ _ =>
    obtain ⟨m0, m1, m2, m3, m4, m5, m6, m7, m8, m9, m10, m11, m12, m13, m14, m15, m16, m17, m18, m19, m20, m21, m22, _⟩ := hm
    exact ⟨_, rfl, State.onMain_kept h (fun _ h => vsigEffect_kept h m0 m12 m13 m14 m15 m1 m2 m3 m4 m5 m16 m17 m18 m19 m20 m6 m21 m22 m7 m8 m9 m10 m11)⟩
  | opVtanh _ _ _ =>
    obtain ⟨m0, m1, m2, m3, m4, m5, m6, m7, m8, m9, m10, m11, m12, m13, m14, m15, m16, m17, m18, m19, m20, m21, m22, _⟩ := hm
    exact ⟨_, rfl, State.onMain_kept h (fun _ h => vtanhEffect_kept h m0 m12 m13 m14 m15 m1 m2 m3 m4 m5 m16 m17 m18 m19 m20 m6 m21 m22 m7 m8 m9 m10 m11)⟩
  | opVcvt _ _ _ =>
    obtain ⟨m0, m1, m2, m3, m4, m5, m6, m7, m8, m9, m10, m11, m12, m13, m14, m15, m16, m17, m18, m19, m20, m21, m22, _⟩ := hm
    exact ⟨_, rfl, State.onMain_kept h (fun _ h => vcvtEffect_kept h m0 m12 m13 m14 m15 m1 m2 m3 m4 m5 m16 m17 m18 m19 m20 m6 m21 m22 m7 m8 m9 m10 m11)⟩
  | opVscl _ _ _ =>
    obtain ⟨m0, m1, m2, m3, m4, m5, m6, m7, m8, m9, m10, m11, m12, m13, m14, m15, m16, m17, m18, m19, m20, m21, m22, _⟩ := hm
    exact ⟨_, rfl, State.onMain_kept h (fun _ h => vsclEffect_kept h m0 m12 m13 m14 m15 m1 m2 m3 m4 m5 m16 m17 m18 m19 m20 m6 m21 m22 m7 m8 m9 m10 m11)⟩
  | opVqnt _ _ _ =>
    obtain ⟨m0, m1, m2, m3, m4, m5, m6, m7, m8, m9, m10, m11, m12, m13, m14, m15, m16, m17, m18, m19, m20, m21, m22, _⟩ := hm
    exact ⟨_, rfl, State.onMain_kept h (fun _ h => vqntEffect_kept h m0 m12 m13 m14 m15 m1 m2 m3 m4 m5 m16 m17 m18 m19 m20 m6 m21 m22 m7 m8 m9 m10 m11)⟩
  | opVrmax _ _ _ =>
    obtain ⟨m0, m1, m2, m3, m4, m5, m6, m7, m8, m9, m10, m11, m12, m13, m14, m15, m16, m17, m18, m19, m20, m21, m22, _⟩ := hm
    exact ⟨_, rfl, State.onMain_kept h (fun _ h => vrmaxEffect_kept h m0 m12 m13 m14 m15 m1 m2 m3 m4 m5 m16 m17 m18 m19 m20 m6 m21 m22 m7 m8 m9 m10 m11)⟩
  | opVrsum _ _ _ =>
    obtain ⟨m0, m1, m2, m3, m4, m5, m6, m7, m8, m9, m10, m11, m12, m13, m14, m15, m16, m17, m18, m19, m20, m21, m22, _⟩ := hm
    exact ⟨_, rfl, State.onMain_kept h (fun _ h => vrsumEffect_kept h m0 m12 m13 m14 m15 m1 m2 m3 m4 m5 m16 m17 m18 m19 m20 m6 m21 m22 m7 m8 m9 m10 m11)⟩
  | opVsmxMask _ _ _ =>
    obtain ⟨m0, m1, m2, m3, m4, m5, m6, m7, m8, m9, m10, m11, m12, m13, m14, m15, m16, m17, m18, m19, m20, m21, m22, _⟩ := hm
    exact ⟨_, rfl, State.onMain_kept h (fun _ h => vsmxMaskEffect_kept h m0 m12 m13 m14 m15 m1 m2 m3 m4 m5 m16 m17 m18 m19 m20 m6 m21 m22 m7 m8 m9 m10 m11)⟩
  | opVsmxExpd _ _ _ =>
    obtain ⟨m0, m1, m2, m3, m4, m5, m6, m7, m8, m9, m10, m11, m12, m13, m14, m15, m16, m17, m18, m19, m20, m21, m22, _⟩ := hm
    exact ⟨_, rfl, State.onMain_kept h (fun _ h => vsmxExpdEffect_kept h m0 m12 m13 m14 m15 m1 m2 m3 m4 m5 m16 m17 m18 m19 m20 m6 m21 m22 m7 m8 m9 m10 m11)⟩
  | opVsmxNorm _ _ _ =>
    obtain ⟨m0, m1, m2, m3, m4, m5, m6, m7, m8, m9, m10, m11, m12, m13, m14, m15, m16, m17, m18, m19, m20, m21, m22, _⟩ := hm
    exact ⟨_, rfl, State.onMain_kept h (fun _ h => vsmxNormEffect_kept h m0 m12 m13 m14 m15 m1 m2 m3 m4 m5 m16 m17 m18 m19 m20 m6 m21 m22 m7 m8 m9 m10 m11)⟩
  | opVsmxMass _ _ _ =>
    obtain ⟨m0, m1, m2, m3, m4, m5, m6, m7, m8, m9, m10, m11, m12, m13, m14, m15, m16, m17, m18, m19, m20, m21, m22, _⟩ := hm
    exact ⟨_, rfl, State.onMain_kept h (fun _ h => vsmxMassEffect_kept h m0 m12 m13 m14 m15 m1 m2 m3 m4 m5 m16 m17 m18 m19 m20 m6 m21 m22 m7 m8 m9 m10 m11)⟩
  | opVbc _ _ _ =>
    obtain ⟨m0, m1, m2, m3, m4, m5, m6, m7, m8, m9, m10, m11, m12, m13, m14, m15, m16, m17, m18, m19, m20, m21, m22, _⟩ := hm
    exact ⟨_, rfl, State.onMain_kept h (fun _ h => vbcEffect_kept h m0 m12 m13 m14 m15 m1 m2 m3 m4 m5 m16 m17 m18 m19 m20 m6 m21 m22 m7 m8 m9 m10 m11)⟩
  | opVext _ _ _ =>
    obtain ⟨m0, m1, m2, m3, m4, m5, m6, m7, m8, m9, m10, m11, m12, m13, m14, m15, m16, m17, m18, m19, m20, m21, m22, _⟩ := hm
    exact ⟨_, rfl, State.onMain_kept h (fun _ h => vextEffect_kept h m0 m12 m13 m14 m15 m1 m2 m3 m4 m5 m16 m17 m18 m19 m20 m6 m21 m22 m7 m8 m9 m10 m11)⟩
  | opVsel _ _ _ =>
    obtain ⟨m0, m1, m2, m3, m4, m5, m6, m7, m8, m9, m10, m11, m12, m13, m14, m15, m16, m17, m18, m19, m20, m21, m22, _⟩ := hm
    exact ⟨_, rfl, State.onMain_kept h (fun _ h => vselEffect_kept h m0 m12 m13 m14 m15 m1 m2 m3 m4 m5 m16 m17 m18 m19 m20 m6 m21 m22 m7 m8 m9 m10 m11)⟩
  | opScnRun _ _ _ =>
    obtain ⟨m0, m1, m2, m3, m4, m5, m6, m7, m8, m9, m10, m11, m12, m13, m14, m15, m16, m17, m18, m19, m20, m21, m22, _⟩ := hm
    exact ⟨_, rfl, State.onMain_kept h (fun _ h => scnRunEffect_kept h m0 m12 m13 m14 m15 m1 m2 m3 m4 m5 m16 m17 m18 m19 m20 m6 m21 m22 m7 m8 m9 m10 m11)⟩
  | opScnRunComplete _ =>
    obtain ⟨m0, m1, _⟩ := hm
    exact ⟨_, rfl, State.onMain_kept h (fun _ h => scnRunCompleteEffect_kept h m0 m1)⟩
  | opScnAnch _ _ _ =>
    obtain ⟨m0, m1, m2, m3, m4, m5, m6, m7, m8, m9, m10, m11, m12, m13, m14, m15, m16, m17, m18, m19, m20, m21, m22, _⟩ := hm
    exact ⟨_, rfl, State.onMain_kept h (fun _ h => scnAnchEffect_kept h m0 m12 m13 m14 m15 m1 m2 m3 m4 m5 m16 m17 m18 m19 m20 m6 m21 m22 m7 m8 m9 m10 m11)⟩
  | opScnSave _ _ _ =>
    obtain ⟨m0, m1, m2, m3, m4, m5, m6, m7, m8, m9, m10, m11, m12, m13, m14, m15, m16, m17, m18, m19, m20, m21, m22, _⟩ := hm
    exact ⟨_, rfl, State.onMain_kept h (fun _ h => scnSaveEffect_kept h m0 m12 m13 m14 m15 m1 m2 m3 m4 m5 m16 m17 m18 m19 m20 m6 m21 m22 m7 m8 m9 m10 m11)⟩
  | opScnLoad _ _ _ =>
    obtain ⟨m0, m1, m2, m3, m4, m5, m6, m7, m8, m9, m10, m11, m12, m13, m14, m15, m16, m17, m18, m19, m20, m21, m22, _⟩ := hm
    exact ⟨_, rfl, State.onMain_kept h (fun _ h => scnLoadEffect_kept h m0 m12 m13 m14 m15 m1 m2 m3 m4 m5 m16 m17 m18 m19 m20 m6 m21 m22 m7 m8 m9 m10 m11)⟩
  | opMpush _ _ _ _ =>
    obtain ⟨m0, m1, m2, m3, m4, m5, m6, m7, m8, m9, m10, m11, m12, m13, m14, m15, m16, m17, m18, m19, m20, m21, m22, _⟩ := hm
    exact ⟨_, rfl, State.onMain_kept h (fun _ h => mpushEffect_kept h m0 m12 m13 m14 m15 m1 m2 m3 m4 m5 m16 m17 m18 m19 m20 m6 m21 m22 m7 m8 m9 m10 m11)⟩
  | opMcnt _ _ _ _ =>
    obtain ⟨m0, m1, m2, m3, m4, m5, m6, m7, m8, m9, m10, m11, m12, m13, m14, m15, m16, m17, m18, m19, m20, m21, m22, _⟩ := hm
    exact ⟨_, rfl, State.onMain_kept h (fun _ h => mcntEffect_kept h m0 m12 m13 m14 m15 m1 m2 m3 m4 m5 m16 m17 m18 m19 m20 m6 m21 m22 m7 m8 m9 m10 m11)⟩
  | opMstat _ _ _ _ =>
    obtain ⟨m0, m1, m2, m3, m4, m5, m6, m7, m8, m9, m10, m11, m12, m13, m14, m15, m16, m17, m18, m19, m20, m21, m22, _⟩ := hm
    exact ⟨_, rfl, State.onMain_kept h (fun _ h => mstatEffect_kept h m0 m12 m13 m14 m15 m1 m2 m3 m4 m5 m16 m17 m18 m19 m20 m6 m21 m22 m7 m8 m9 m10 m11)⟩
  | vatFaultInStream _ =>
    obtain ⟨m0, m1, m2, m3, m4, m5, m6, m7, m8, m9, m10, m11, m12, m13, m14, m15, m16, m17, m18, m19, m20, m21, _⟩ := hm
    exact ⟨_, rfl, State.onMain_kept h (fun _ h => vatFaultInStreamEffect_kept h m0 m12 m13 m14 m15 m1 m2 m3 m4 m5 m16 m17 m18 m19 m20 m6 m21 m7 m8 m9 m10 m11)⟩
  | moverQueueEntry _ _ =>
    obtain ⟨m0, _⟩ := hm
    exact ⟨_, rfl, State.onMain_kept h (fun _ h => moverQueueEntryEffect_kept h m0)⟩
  | moverDescriptorStart _ _ =>
    obtain ⟨m0, m1, m2, m3, m4, m5, m6, m7, m8, m9, m10, m11, m12, m13, m14, m15, m16, m17, m18, m19, m20, m21, m22, m23, _⟩ := hm
    exact ⟨_, rfl, State.onMain_kept h (fun _ h => moverDescriptorStartEffect_kept h m0 m12 m13 m14 m15 m23 m1 m2 m3 m4 m5 m16 m17 m18 m19 m20 m6 m21 m22 m7 m8 m9 m10 m11)⟩
  | moverDescriptorEnd _ _ =>
    obtain ⟨m0, m1, m2, m3, m4, _⟩ := hm
    exact ⟨_, rfl, State.onMain_kept h (fun _ h => moverDescriptorEndEffect_kept h m0 m1 m2 m3 m4)⟩
  | moverDeadline _ _ _ =>
    obtain ⟨m0, m1, m2, m3, m4, m5, m6, m7, m8, m9, m10, m11, m12, _⟩ := hm
    exact ⟨_, rfl, State.onMain_kept h (fun _ h => moverDeadlineEffect_kept h m0 m1 m2 m3 m4 m5 m6 m7 m8 m9 m10 m11 m12)⟩
  | heldOutputCompare _ _ =>
    obtain ⟨m0, m1, m2, m3, m4, m5, m6, m7, m8, m9, m10, m11, m12, m13, m14, m15, m16, m17, m18, m19, m20, m21, m22, _⟩ := hm
    exact ⟨_, rfl, State.onCore_kept h (fun _ h => heldOutputCompareEffect_kept h m0 m12 m13 m14 m15 m1 m2 m3 m4 m5 m16 m17 m18 m19 m20 m21 m6 m22 m7 m8 m9 m10 m11)⟩
  | coreCheckpoint _ _ =>
    obtain ⟨m0, m1, m2, m3, m4, m5, m6, m7, m8, m9, m10, m11, m12, m13, m14, m15, m16, m17, m18, m19, m20, m21, m22, m23, _⟩ := hm
    exact ⟨_, rfl, State.onCore_kept h (fun _ h => coreCheckpointEffect_kept h m12 m0 m13 m14 m15 m16 m1 m2 m3 m4 m5 m17 m18 m19 m20 m21 m22 m6 m23 m7 m8 m9 m10 m11)⟩
  | journalApply _ =>
    obtain ⟨m0, _⟩ := hm
    exact ⟨_, rfl, State.onCore_kept h (fun _ h => journalApplyEffect_kept h m0)⟩
  | arrayChecksum _ _ _ =>
    obtain ⟨m0, m1, m2, m3, m4, m5, m6, m7, m8, m9, m10, m11, m12, m13, _⟩ := hm
    exact ⟨_, rfl, State.onMain_kept h (fun _ h => arrayChecksumEffect_kept h m0 m12 m1 m2 m3 m4 m5 m13 m6 m7 m8 m9 m10 m11)⟩
  | dieCopyUpdate _ =>
    obtain ⟨m0, _⟩ := hm
    exact ⟨_, rfl, State.onMain_kept h (fun _ h => dieCopyUpdateEffect_kept h m0)⟩
  | migDemandMiss =>
    obtain ⟨m0, m1, m2, m3, m4, m5, m6, m7, m8, m9, m10, m11, m12, m13, m14, _⟩ := hm
    exact ⟨_, rfl, State.onMain_kept h (fun _ h => migDemandMissEffect_kept h m0 m1 m2 m3 m4 m5 m6 m7 m8 m9 m10 m11 m12 m13 m14)⟩
  | heldReadRelease =>
    obtain ⟨m0, m1, m2, m3, m4, m5, m6, m7, m8, m9, m10, m11, m12, m13, m14, m15, m16, m17, m18, m19, _⟩ := hm
    exact ⟨_, rfl, State.onMain_kept h (fun _ h => heldReadReleaseEffect_kept h m12 m0 m13 m14 m15 m16 m1 m2 m3 m4 m5 m17 m18 m6 m19 m7 m8 m9 m10 m11)⟩
  | pageFillComplete _ =>
    obtain ⟨m0, m1, m2, m3, m4, m5, m6, m7, m8, m9, m10, m11, m12, m13, m14, _⟩ := hm
    exact ⟨_, rfl, State.onMain_kept h (fun _ h => pageFillCompleteEffect_kept h m0 m1 m2 m3 m4 m5 m6 m7 m8 m9 m10 m11 m12 m13 m14)⟩
  | aquiferReadComplete _ _ =>
    obtain ⟨m0, m1, m2, m3, m4, m5, m6, m7, m8, m9, m10, m11, m12, m13, m14, _⟩ := hm
    exact ⟨_, rfl, State.onMain_kept h (fun _ h => aquiferReadCompleteEffect_kept h m0 m1 m2 m3 m4 m5 m6 m7 m8 m9 m10 m11 m12 m13 m14)⟩
  | aquiferReadTimeout =>
    obtain ⟨m0, m1, m2, m3, m4, m5, m6, m7, m8, m9, m10, m11, m12, m13, m14, _⟩ := hm
    exact ⟨_, rfl, State.onMain_kept h (fun _ h => aquiferReadTimeoutEffect_kept h m0 m1 m2 m3 m4 m5 m6 m7 m8 m9 m10 m11 m12 m13 m14)⟩
  | aquiferLinkDown =>
    obtain ⟨m0, m1, m2, m3, m4, m5, m6, m7, m8, m9, m10, m11, m12, m13, m14, _⟩ := hm
    exact ⟨_, rfl, State.onMain_kept h (fun _ h => aquiferLinkDownEffect_kept h m0 m1 m2 m3 m4 m5 m6 m7 m8 m9 m10 m11 m12 m13 m14)⟩
  | evictFrameFree =>
    obtain ⟨m0, m1, m2, m3, m4, m5, m6, m7, m8, m9, m10, m11, m12, m13, m14, _⟩ := hm
    exact ⟨_, rfl, State.onMain_kept h (fun _ h => evictFrameFreeEffect_kept h m0 m1 m2 m3 m4 m5 m6 m7 m8 m9 m10 m11 m12 m13 m14)⟩
  | sramScrub _ =>
    obtain ⟨m0, m1, m2, m3, m4, m5, m6, m7, m8, m9, m10, m11, m12, m13, m14, m15, m16, _⟩ := hm
    exact ⟨_, rfl, State.onMain_kept h (fun _ h => sramScrubEffect_kept h m0 m12 m13 m14 m15 m1 m2 m3 m4 m5 m16 m6 m7 m8 m9 m10 m11)⟩
  | migCmdPush _ =>
    obtain ⟨m0, m1, m2, _⟩ := hm
    exact ⟨_, rfl, State.onMain_kept h (fun _ h => migCmdPushEffect_kept h m0 m1 m2)⟩
  | migCplRead =>
    obtain ⟨m0, m1, m2, m3, m4, m5, m6, _⟩ := hm
    exact ⟨_, rfl, State.onMain_kept h (fun _ h => migCplReadEffect_kept h m0 m1 m2 m3 m4 m5 m6)⟩
  | migMap =>
    obtain ⟨m0, m1, m2, m3, m4, m5, m6, m7, m8, m9, m10, m11, m12, _⟩ := hm
    exact ⟨_, rfl, State.onMain_kept h (fun _ h => migMapEffect_kept h m0 m1 m2 m3 m4 m5 m6 m7 m8 m9 m10 m11 m12)⟩
  | migUnmap =>
    obtain ⟨m0, m1, m2, m3, m4, m5, m6, m7, m8, m9, m10, m11, m12, m13, m14, _⟩ := hm
    exact ⟨_, rfl, State.onMain_kept h (fun _ h => migUnmapEffect_kept h m0 m1 m2 m3 m4 m5 m6 m7 m8 m9 m10 m11 m12 m13 m14)⟩
  | migStage =>
    obtain ⟨m0, m1, m2, m3, m4, m5, m6, m7, m8, m9, m10, m11, m12, m13, m14, _⟩ := hm
    exact ⟨_, rfl, State.onMain_kept h (fun _ h => migStageEffect_kept h m0 m1 m2 m3 m4 m5 m6 m7 m8 m9 m10 m11 m12 m13 m14)⟩
  | migLoad =>
    obtain ⟨m0, m1, m2, m3, m4, m5, m6, m7, m8, m9, m10, m11, m12, m13, m14, _⟩ := hm
    exact ⟨_, rfl, State.onMain_kept h (fun _ h => migLoadEffect_kept h m0 m1 m2 m3 m4 m5 m6 m7 m8 m9 m10 m11 m12 m13 m14)⟩
  | migPin =>
    obtain ⟨m0, m1, m2, m3, m4, m5, m6, m7, m8, m9, m10, m11, _⟩ := hm
    exact ⟨_, rfl, State.onMain_kept h (fun _ h => migPinEffect_kept h m0 m1 m2 m3 m4 m5 m6 m7 m8 m9 m10 m11)⟩
  | migUnpin =>
    obtain ⟨m0, m1, m2, m3, m4, m5, m6, m7, m8, m9, m10, m11, _⟩ := hm
    exact ⟨_, rfl, State.onMain_kept h (fun _ h => migUnpinEffect_kept h m0 m1 m2 m3 m4 m5 m6 m7 m8 m9 m10 m11)⟩
  | migDropL =>
    obtain ⟨m0, m1, m2, m3, m4, m5, m6, m7, m8, m9, m10, m11, m12, m13, m14, _⟩ := hm
    exact ⟨_, rfl, State.onMain_kept h (fun _ h => migDropLEffect_kept h m0 m1 m2 m3 m4 m5 m6 m7 m8 m9 m10 m11 m12 m13 m14)⟩
  | migDropR =>
    obtain ⟨m0, m1, m2, m3, m4, m5, m6, m7, m8, m9, m10, m11, _⟩ := hm
    exact ⟨_, rfl, State.onMain_kept h (fun _ h => migDropREffect_kept h m0 m1 m2 m3 m4 m5 m6 m7 m8 m9 m10 m11)⟩
  | migClearFault =>
    obtain ⟨m0, m1, m2, m3, m4, m5, m6, m7, m8, m9, m10, m11, _⟩ := hm
    exact ⟨_, rfl, State.onMain_kept h (fun _ h => migClearFaultEffect_kept h m0 m1 m2 m3 m4 m5 m6 m7 m8 m9 m10 m11)⟩
  | harpArm _ =>
    obtain ⟨m0, m1, m2, m3, m4, m5, m6, m7, m8, m9, m10, m11, m12, m13, m14, m15, m16, m17, m18, m19, _⟩ := hm
    exact ⟨_, rfl, State.onMain_kept h (fun _ h => harpArmEffect_kept h m0 m12 m13 m14 m15 m16 m1 m2 m3 m4 m5 m17 m18 m6 m19 m7 m8 m9 m10 m11)⟩
  | harpDisarm _ =>
    obtain ⟨m0, m1, _⟩ := hm
    exact ⟨_, rfl, State.onMain_kept h (fun _ h => harpDisarmEffect_kept h m0 m1)⟩
  | harpRowArrival _ =>
    obtain ⟨m0, m1, m2, m3, m4, m5, m6, m7, m8, m9, m10, m11, m12, m13, m14, m15, m16, m17, m18, m19, _⟩ := hm
    exact ⟨_, rfl, State.onMain_kept h (fun _ h => harpRowArrivalEffect_kept h m0 m12 m13 m14 m15 m16 m1 m2 m3 m4 m5 m17 m18 m6 m19 m7 m8 m9 m10 m11)⟩
  | harpOutputRow _ =>
    obtain ⟨m0, m1, m2, m3, m4, m5, _⟩ := hm
    exact ⟨_, rfl, State.onMain_kept h (fun _ h => harpOutputRowEffect_kept h m0 m1 m2 m3 m4 m5)⟩
  | harpFrameEnd _ =>
    obtain ⟨m0, m1, m2, m3, m4, m5, m6, m7, _⟩ := hm
    exact ⟨_, rfl, State.onMain_kept h (fun _ h => harpFrameEndEffect_kept h m0 m1 m2 m3 m4 m5 m6 m7)⟩
  | harpGoldenAbandon _ =>
    obtain ⟨m0, m1, m2, m3, m4, m5, m6, m7, m8, m9, m10, m11, m12, m13, _⟩ := hm
    exact ⟨_, rfl, State.onMain_kept h (fun _ h => harpGoldenAbandonEffect_kept h m0 m1 m2 m3 m4 m5 m12 m13 m6 m7 m8 m9 m10 m11)⟩
  | walkerDoorbell _ =>
    obtain ⟨m0, m1, m2, m3, m4, m5, m6, m7, m8, m9, m10, m11, m12, m13, m14, m15, m16, _⟩ := hm
    exact ⟨_, rfl, State.onMain_kept h (fun _ h => walkerDoorbellEffect_kept h m0 m12 m13 m1 m2 m3 m4 m5 m14 m15 m6 m16 m7 m8 m9 m10 m11)⟩
  | walkerGather _ =>
    obtain ⟨m0, m1, m2, m3, m4, m5, m6, m7, m8, _⟩ := hm
    exact ⟨_, rfl, State.onMain_kept h (fun _ h => walkerGatherEffect_kept h m0 m1 m2 m3 m4 m5 m6 m7 m8)⟩
  | walkerAppend _ =>
    obtain ⟨m0, m1, m2, m3, m4, m5, m6, m7, m8, _⟩ := hm
    exact ⟨_, rfl, State.onMain_kept h (fun _ h => walkerAppendEffect_kept h m0 m1 m2 m3 m4 m5 m6 m7 m8)⟩
  | walkerAppendCommit _ =>
    obtain ⟨m0, m1, m2, m3, m4, m5, m6, m7, m8, _⟩ := hm
    exact ⟨_, rfl, State.onMain_kept h (fun _ h => walkerAppendCommitEffect_kept h m0 m1 m2 m3 m4 m5 m6 m7 m8)⟩
  | walkerEvict _ =>
    obtain ⟨m0, m1, m2, m3, m4, m5, m6, m7, _⟩ := hm
    exact ⟨_, rfl, State.onMain_kept h (fun _ h => walkerEvictEffect_kept h m0 m1 m2 m3 m4 m5 m6 m7)⟩
  | swapOut _ _ =>
    obtain ⟨m0, m1, m2, m3, m4, _⟩ := hm
    exact ⟨_, rfl, State.onMain_kept h (fun _ h => swapOutEffect_kept h m0 m1 m2 m3 m4)⟩
  | swapIn _ _ =>
    obtain ⟨m0, _⟩ := hm
    exact ⟨_, rfl, State.onMain_kept h (fun _ h => swapInEffect_kept h m0)⟩
  | init _ _ =>
    obtain ⟨m0, _⟩ := hm
    exact ⟨_, rfl, State.onMain_kept h (fun _ h => initEffect_kept h m0)⟩
  | swapOutComplete _ =>
    obtain ⟨m0, m1, m2, m3, m4, m5, m6, _⟩ := hm
    exact ⟨_, rfl, State.onMain_kept h (fun _ h => swapOutCompleteEffect_kept h m0 m1 m2 m3 m4 m5 m6)⟩
  | swapInStart _ =>
    obtain ⟨m0, m1, m2, _⟩ := hm
    exact ⟨_, rfl, State.onMain_kept h (fun _ h => swapInStartEffect_kept h m0 m1 m2)⟩
  | swapInComplete _ =>
    obtain ⟨m0, m1, m2, m3, m4, m5, m6, m7, m8, m9, m10, m11, m12, m13, m14, m15, m16, _⟩ := hm
    exact ⟨_, rfl, State.onMain_kept h (fun _ h => swapInCompleteEffect_kept h m0 m12 m13 m1 m2 m3 m4 m5 m14 m15 m6 m16 m7 m8 m9 m10 m11)⟩
  | csiFrameStart _ _ _ =>
    obtain ⟨m0, m1, m2, _⟩ := hm
    exact ⟨_, rfl, State.onMain_kept h (fun _ h => csiFrameStartEffect_kept h m0 m1 m2)⟩
  | csiPacket _ _ _ _ _ _ =>
    obtain ⟨m0, m1, m2, _⟩ := hm
    exact ⟨_, rfl, State.onMain_kept h (fun _ h => csiPacketEffect_kept h m0 m1 m2)⟩
  | csiFrameEnd _ _ _ =>
    obtain ⟨m0, m1, m2, _⟩ := hm
    exact ⟨_, rfl, State.onMain_kept h (fun _ h => csiFrameEndEffect_kept h m0 m1 m2)⟩
  | ethRxFrame _ _ _ _ =>
    obtain ⟨m0, m1, m2, _⟩ := hm
    exact ⟨_, rfl, State.onMain_kept h (fun _ h => ethRxFrameEffect_kept h m0 m1 m2)⟩
  | spiTrigger _ _ =>
    obtain ⟨m0, _⟩ := hm
    exact ⟨_, rfl, State.onMain_kept h (fun _ h => spiTriggerEffect_kept h m0)⟩
  | spiTransferEnd _ _ _ =>
    obtain ⟨m0, m1, _⟩ := hm
    exact ⟨_, rfl, State.onMain_kept h (fun _ h => spiTransferEndEffect_kept h m0 m1)⟩
  | canRxFrame _ _ _ _ _ _ =>
    obtain ⟨m0, m1, _⟩ := hm
    exact ⟨_, rfl, State.onMain_kept h (fun _ h => canRxFrameEffect_kept h m0 m1)⟩
  | sampleEnd _ =>
    obtain ⟨m0, m1, m2, m3, m4, m5, m6, m7, m8, m9, m10, m11, m12, m13, m14, m15, m16, m17, m18, m19, m20, m21, _⟩ := hm
    exact ⟨_, rfl, State.onMain_kept h (fun _ h => sampleEndEffect_kept h m12 m0 m13 m14 m15 m16 m17 m1 m2 m3 m4 m5 m18 m19 m20 m6 m21 m7 m8 m9 m10 m11)⟩
  | sampleAccept =>
    obtain ⟨m0, m1, _⟩ := hm
    exact ⟨_, rfl, State.onMain_kept h (fun _ h => sampleAcceptEffect_kept h m0 m1)⟩
  | egoTick =>
    obtain ⟨m0, m1, m2, m3, m4, m5, m6, m7, m8, m9, m10, m11, m12, m13, m14, m15, m16, m17, m18, m19, _⟩ := hm
    exact ⟨_, rfl, State.onMain_kept h (fun _ h => egoTickEffect_kept h m0 m12 m13 m14 m15 m16 m1 m2 m3 m4 m5 m17 m18 m6 m19 m7 m8 m9 m10 m11)⟩
  | alignEval _ =>
    obtain ⟨m0, m1, m2, m3, m4, m5, m6, m7, m8, m9, m10, m11, m12, m13, m14, m15, m16, m17, m18, m19, m20, _⟩ := hm
    exact ⟨_, rfl, State.onMain_kept h (fun _ h => alignEvalEffect_kept h m12 m0 m13 m14 m15 m16 m17 m1 m2 m3 m4 m5 m18 m19 m6 m20 m7 m8 m9 m10 m11)⟩
  | associationJob _ =>
    obtain ⟨m0, m1, m2, m3, m4, m5, m6, m7, m8, m9, m10, m11, m12, m13, m14, m15, m16, m17, m18, m19, _⟩ := hm
    exact ⟨_, rfl, State.onMain_kept h (fun _ h => associationJobEffect_kept h m0 m12 m13 m14 m15 m16 m1 m2 m3 m4 m5 m17 m18 m6 m19 m7 m8 m9 m10 m11)⟩
  | solverJobArrive _ =>
    obtain ⟨m0, m1, m2, _⟩ := hm
    exact ⟨_, rfl, State.onMain_kept h (fun _ h => solverJobArriveEffect_kept h m0 m1 m2)⟩
  | solverJobStart =>
    obtain ⟨m0, m1, m2, m3, m4, m5, m6, m7, m8, m9, m10, m11, m12, m13, m14, m15, m16, m17, m18, _⟩ := hm
    exact ⟨_, rfl, State.onMain_kept h (fun _ h => solverJobStartEffect_kept h m0 m12 m13 m14 m15 m1 m2 m3 m4 m5 m16 m17 m6 m18 m7 m8 m9 m10 m11)⟩
  | solverIterateDone =>
    obtain ⟨m0, m1, m2, m3, m4, m5, m6, m7, m8, m9, m10, m11, m12, m13, _⟩ := hm
    exact ⟨_, rfl, State.onMain_kept h (fun _ h => solverIterateDoneEffect_kept h m12 m0 m1 m2 m3 m4 m5 m13 m6 m7 m8 m9 m10 m11)⟩
  | solverDeadline =>
    obtain ⟨m0, m1, m2, _⟩ := hm
    exact ⟨_, rfl, State.onMain_kept h (fun _ h => solverDeadlineEffect_kept h m0 m1 m2)⟩
  | solverRecordWrite =>
    obtain ⟨m0, m1, m2, m3, m4, m5, m6, m7, m8, m9, m10, m11, m12, m13, m14, m15, m16, m17, m18, m19, m20, _⟩ := hm
    exact ⟨_, rfl, State.onMain_kept h (fun _ h => solverRecordWriteEffect_kept h m12 m0 m13 m14 m15 m16 m17 m1 m2 m3 m4 m5 m18 m19 m6 m20 m7 m8 m9 m10 m11)⟩
  | planCycleStart =>
    obtain ⟨m0, m1, m2, m3, m4, m5, m6, m7, m8, m9, m10, m11, m12, m13, m14, m15, m16, m17, m18, m19, m20, _⟩ := hm
    exact ⟨_, rfl, State.onMain_kept h (fun _ h => planCycleStartEffect_kept h m12 m0 m13 m14 m15 m16 m17 m1 m2 m3 m4 m5 m18 m19 m6 m20 m7 m8 m9 m10 m11)⟩
  | planPrecheckEnd =>
    obtain ⟨m0, m1, m2, m3, m4, m5, m6, m7, m8, m9, m10, m11, m12, m13, m14, _⟩ := hm
    exact ⟨_, rfl, State.onMain_kept h (fun _ h => planPrecheckEndEffect_kept h m0 m12 m13 m1 m2 m3 m4 m5 m14 m6 m7 m8 m9 m10 m11)⟩
  | planPrepEnd =>
    obtain ⟨m0, m1, m2, m3, m4, m5, m6, m7, m8, m9, m10, m11, m12, m13, m14, m15, m16, m17, m18, _⟩ := hm
    exact ⟨_, rfl, State.onMain_kept h (fun _ h => planPrepEndEffect_kept h m0 m12 m13 m14 m15 m1 m2 m3 m4 m5 m16 m17 m6 m18 m7 m8 m9 m10 m11)⟩
  | planSweepStart =>
    obtain ⟨m0, _⟩ := hm
    exact ⟨_, rfl, State.onMain_kept h (fun _ h => planSweepStartEffect_kept h m0)⟩
  | planSweepEnd =>
    obtain ⟨m0, m1, m2, m3, m4, m5, m6, m7, m8, m9, m10, m11, m12, m13, m14, _⟩ := hm
    exact ⟨_, rfl, State.onMain_kept h (fun _ h => planSweepEndEffect_kept h m0 m12 m13 m1 m2 m3 m4 m5 m14 m6 m7 m8 m9 m10 m11)⟩
  | planRecheckEnd =>
    obtain ⟨m0, m1, m2, m3, m4, m5, m6, m7, m8, m9, m10, m11, m12, m13, m14, _⟩ := hm
    exact ⟨_, rfl, State.onMain_kept h (fun _ h => planRecheckEndEffect_kept h m0 m12 m13 m1 m2 m3 m4 m5 m14 m6 m7 m8 m9 m10 m11)⟩
  | planDeadline =>
    obtain ⟨m0, m1, m2, m3, m4, m5, m6, m7, m8, m9, m10, m11, m12, m13, _⟩ := hm
    exact ⟨_, rfl, State.onMain_kept h (fun _ h => planDeadlineEffect_kept h m0 m1 m2 m3 m4 m5 m6 m7 m8 m9 m10 m11 m12 m13)⟩
  | planRecordWrite =>
    obtain ⟨m0, m1, m2, m3, m4, m5, m6, m7, m8, m9, m10, m11, m12, m13, m14, m15, m16, m17, m18, m19, m20, _⟩ := hm
    exact ⟨_, rfl, State.onMain_kept h (fun _ h => planRecordWriteEffect_kept h m12 m0 m13 m14 m15 m16 m17 m1 m2 m3 m4 m5 m18 m19 m6 m20 m7 m8 m9 m10 m11)⟩
  | loopRun _ =>
    obtain ⟨m0, m1, _⟩ := hm
    exact ⟨_, rfl, State.onMain_kept h (fun _ h => loopRunEffect_kept h m0 m1)⟩
  | loopTick =>
    obtain ⟨m0, m1, m2, m3, _⟩ := hm
    exact ⟨_, rfl, State.onMain_kept h (fun _ h => loopTickEffect_kept h m0 m1 m2 m3)⟩
  | loopGroupStart =>
    obtain ⟨m0, m1, m2, m3, m4, m5, m6, m7, m8, m9, m10, m11, m12, m13, _⟩ := hm
    exact ⟨_, rfl, State.onMain_kept h (fun _ h => loopGroupStartEffect_kept h m0 m12 m1 m2 m3 m4 m5 m13 m6 m7 m8 m9 m10 m11)⟩
  | servoCommandFrame _ =>
    obtain ⟨m0, m1, _⟩ := hm
    exact ⟨_, rfl, State.onMain_kept h (fun _ h => servoCommandFrameEffect_kept h m0 m1)⟩
  | servoFeedbackFrame _ _ _ =>
    obtain ⟨m0, m1, m2, _⟩ := hm
    exact ⟨_, rfl, servoFeedbackFrameEffect_kept h m0 m1 m2⟩
  | feedbackCutoff _ =>
    obtain ⟨m0, m1, m2, m3, m4, m5, m6, m7, _⟩ := hm
    exact ⟨_, rfl, State.onMain_kept h (fun _ h => feedbackCutoffEffect_kept h m0 m1 m2 m3 m4 m5 m6 m7)⟩
  | servoLinkAlign _ =>
    obtain ⟨m0, _⟩ := hm
    exact ⟨_, rfl, State.onMain_kept h (fun _ h => servoLinkAlignEffect_kept h m0)⟩
  | servoLinkDown _ =>
    obtain ⟨m0, m1, _⟩ := hm
    exact ⟨_, rfl, State.onMain_kept h (fun _ h => servoLinkDownEffect_kept h m0 m1)⟩
  | axisEnable _ =>
    obtain ⟨m0, m1, _⟩ := hm
    exact ⟨_, rfl, State.onMain_kept h (fun _ h => axisEnableEffect_kept h m0 m1)⟩
  | axisDisable _ =>
    obtain ⟨m0, m1, _⟩ := hm
    exact ⟨_, rfl, State.onMain_kept h (fun _ h => axisDisableEffect_kept h m0 m1)⟩
  | axisClear _ =>
    obtain ⟨m0, m1, _⟩ := hm
    exact ⟨_, rfl, State.onMain_kept h (fun _ h => axisClearEffect_kept h m0 m1)⟩
  | loopSegSwap _ =>
    obtain ⟨m0, m1, _⟩ := hm
    exact ⟨_, rfl, State.onMain_kept h (fun _ h => loopSegSwapEffect_kept h m0 m1)⟩
  | loopTblDataWrite _ =>
    obtain ⟨m0, m1, m2, _⟩ := hm
    exact ⟨_, rfl, State.onMain_kept h (fun _ h => loopTblDataWriteEffect_kept h m0 m1 m2)⟩
  | tbMeasWrite _ =>
    obtain ⟨m0, m1, m2, m3, m4, _⟩ := hm
    exact ⟨_, rfl, State.onMain_kept h (fun _ h => tbMeasWriteEffect_kept h m0 m1 m2 m3 m4)⟩
  | tbRateApply =>
    obtain ⟨m0, _⟩ := hm
    exact ⟨_, rfl, State.onMain_kept h (fun _ h => tbRateApplyEffect_kept h m0)⟩
  | tbRateWrite _ =>
    obtain ⟨m0, m1, m2, _⟩ := hm
    exact ⟨_, rfl, State.onMain_kept h (fun _ h => tbRateWriteEffect_kept h m0 m1 m2)⟩
  | tbStep _ =>
    obtain ⟨m0, m1, m2, m3, m4, m5, _⟩ := hm
    exact ⟨_, rfl, State.onMain_kept h (fun _ h => tbStepEffect_kept h m0 m1 m2 m3 m4 m5)⟩
  | tbServoEnable _ =>
    obtain ⟨m0, m1, m2, m3, m4, _⟩ := hm
    exact ⟨_, rfl, State.onMain_kept h (fun _ h => tbServoEnableEffect_kept h m0 m1 m2 m3 m4)⟩
  | tbMeasTimeout =>
    obtain ⟨m0, m1, m2, m3, m4, _⟩ := hm
    exact ⟨_, rfl, State.onMain_kept h (fun _ h => tbMeasTimeoutEffect_kept h m0 m1 m2 m3 m4)⟩
  | tbHoldoverExpiry =>
    obtain ⟨m0, m1, m2, m3, m4, m5, m6, m7, m8, m9, m10, m11, m12, _⟩ := hm
    exact ⟨_, rfl, State.onMain_kept h (fun _ h => tbHoldoverExpiryEffect_kept h m0 m12 m1 m2 m3 m4 m5 m6 m7 m8 m9 m10 m11)⟩
  | tbNowRead =>
    obtain ⟨m0, m1, m2, m3, m4, m5, m6, _⟩ := hm
    exact ⟨_, rfl, State.onMain_kept h (fun _ h => tbNowReadEffect_kept h m0 m1 m2 m3 m4 m5 m6)⟩
  | ptpFrameRx _ _ _ =>
    obtain ⟨m0, m1, _⟩ := hm
    exact ⟨_, rfl, State.onMain_kept h (fun _ h => ptpFrameRxEffect_kept h m0 m1)⟩
  | tsnDoorbellPoll =>
    obtain ⟨m0, m1, m2, m3, m4, m5, m6, m7, m8, m9, m10, m11, m12, m13, m14, _⟩ := hm
    exact ⟨_, rfl, State.onMain_kept h (fun _ h => tsnDoorbellPollEffect_kept h m0 m12 m13 m1 m2 m3 m4 m5 m14 m6 m7 m8 m9 m10 m11)⟩
  | tsnFrameFetch _ _ =>
    obtain ⟨m0, m1, m2, m3, m4, m5, m6, m7, m8, m9, m10, m11, m12, m13, m14, m15, m16, m17, m18, m19, _⟩ := hm
    exact ⟨_, rfl, State.onMain_kept h (fun _ h => tsnFrameFetchEffect_kept h m0 m12 m13 m14 m15 m16 m1 m2 m3 m4 m5 m17 m18 m6 m19 m7 m8 m9 m10 m11)⟩
  | tsnFrameTxStart _ =>
    obtain ⟨m0, m1, m2, m3, m4, m5, m6, m7, m8, m9, m10, m11, m12, m13, _⟩ := hm
    exact ⟨_, rfl, State.onMain_kept h (fun _ h => tsnFrameTxStartEffect_kept h m0 m1 m2 m3 m4 m5 m6 m7 m8 m9 m10 m11 m12 m13)⟩
  | tsnFrameLate _ _ =>
    obtain ⟨m0, m1, m2, m3, m4, m5, m6, m7, m8, m9, m10, m11, m12, m13, _⟩ := hm
    exact ⟨_, rfl, State.onMain_kept h (fun _ h => tsnFrameLateEffect_kept h m0 m1 m2 m3 m4 m5 m6 m7 m8 m9 m10 m11 m12 m13)⟩
  | tsnFrameTxEnd _ =>
    obtain ⟨m0, m1, m2, m3, m4, m5, m6, m7, m8, m9, m10, m11, m12, _⟩ := hm
    exact ⟨_, rfl, State.onMain_kept h (fun _ h => tsnFrameTxEndEffect_kept h m0 m1 m2 m3 m4 m5 m6 m7 m8 m9 m10 m11 m12)⟩
  | tsnGclEnable _ _ =>
    obtain ⟨m0, m1, m2, m3, m4, m5, m6, m7, m8, m9, m10, m11, m12, m13, m14, _⟩ := hm
    exact ⟨_, rfl, State.onMain_kept h (fun _ h => tsnGclEnableEffect_kept h m0 m12 m13 m1 m2 m3 m4 m5 m14 m6 m7 m8 m9 m10 m11)⟩
  | tsnGclTakeEffect _ =>
    obtain ⟨m0, _⟩ := hm
    exact ⟨_, rfl, State.onMain_kept h (fun _ h => tsnGclTakeEffectEffect_kept h m0)⟩
  | xslPortEnable _ _ =>
    obtain ⟨m0, m1, m2, m3, m4, m5, m6, m7, _⟩ := hm
    exact ⟨_, rfl, State.onMain_kept h (fun _ h => xslPortEnableEffect_kept h m0 m1 m2 m3 m4 m5 m6 m7)⟩
  | xslPortTrained _ _ =>
    obtain ⟨m0, _⟩ := hm
    exact ⟨_, rfl, State.onMain_kept h (fun _ h => xslPortTrainedEffect_kept h m0)⟩
  | xslPortDown _ =>
    obtain ⟨m0, m1, m2, m3, m4, m5, m6, m7, _⟩ := hm
    exact ⟨_, rfl, State.onMain_kept h (fun _ h => xslPortDownEffect_kept h m0 m1 m2 m3 m4 m5 m6 m7)⟩
  | xslSlotFrameTx _ =>
    obtain ⟨m0, m1, _⟩ := hm
    exact ⟨_, rfl, State.onMain_kept h (fun _ h => xslSlotFrameTxEffect_kept h m0 m1)⟩
  | xslSlotFrameRx _ _ _ _ =>
    obtain ⟨m0, m1, m2, m3, m4, m5, m6, m7, _⟩ := hm
    exact ⟨_, rfl, State.onMain_kept h (fun _ h => xslSlotFrameRxEffect_kept h m0 m1 m2 m3 m4 m5 m6 m7)⟩
  | xslLanding _ =>
    obtain ⟨m0, m1, m2, m3, m4, m5, m6, m7, m8, m9, m10, m11, _⟩ := hm
    exact ⟨_, rfl, State.onMain_kept h (fun _ h => xslLandingEffect_kept h m0 m1 m2 m3 m4 m5 m6 m7 m8 m9 m10 m11)⟩
  | xslFlitAge _ =>
    obtain ⟨m0, m1, _⟩ := hm
    exact ⟨_, rfl, State.onMain_kept h (fun _ h => xslFlitAgeEffect_kept h m0 m1)⟩
  | xslMessageTimeout =>
    obtain ⟨m0, m1, m2, _⟩ := hm
    exact ⟨_, rfl, State.onMain_kept h (fun _ h => xslMessageTimeoutEffect_kept h m0 m1 m2)⟩
  | xslTagRelease =>
    obtain ⟨m0, _⟩ := hm
    exact ⟨_, rfl, State.onMain_kept h (fun _ h => xslTagReleaseEffect_kept h m0)⟩
  | xslPeerTimeout _ =>
    obtain ⟨m0, m1, m2, m3, m4, m5, m6, m7, _⟩ := hm
    exact ⟨_, rfl, State.onMain_kept h (fun _ h => xslPeerTimeoutEffect_kept h m0 m1 m2 m3 m4 m5 m6 m7)⟩
  | xslGenAdvance _ _ =>
    obtain ⟨m0, m1, m2, _⟩ := hm
    exact ⟨_, rfl, State.onMain_kept h (fun _ h => xslGenAdvanceEffect_kept h m0 m1 m2)⟩
  | xslLostClear _ =>
    obtain ⟨m0, m1, _⟩ := hm
    exact ⟨_, rfl, State.onMain_kept h (fun _ h => xslLostClearEffect_kept h m0 m1)⟩
  | doubtCodeSend =>
    obtain ⟨m0, _⟩ := hm
    exact ⟨_, rfl, State.onMain_kept h (fun _ h => doubtCodeSendEffect_kept h m0)⟩
  | doubtCodeReceive =>
    obtain ⟨m0, m1, _⟩ := hm
    exact ⟨_, rfl, doubtCodeReceiveEffect_kept h m0 m1⟩
  | doubtCodeTimeout =>
    obtain ⟨m0, m1, m2, m3, m4, m5, m6, m7, m8, m9, m10, m11, _⟩ := hm
    exact ⟨_, rfl, doubtCodeTimeoutEffect_kept h m0 m1 m2 m3 m4 m5 m6 m7 m8 m9 m10 m11⟩
  | doubtQualify =>
    obtain ⟨m0, m1, m2, m3, m4, m5, m6, m7, m8, _⟩ := hm
    exact ⟨_, rfl, doubtQualifyEffect_kept h m0 m1 m2 m3 m4 m5 m6 m7 m8⟩
  | doubtGlitch =>
    obtain ⟨m0, m1, _⟩ := hm
    exact ⟨_, rfl, doubtGlitchEffect_kept h m0 m1⟩
  | doubtClear _ _ =>
    obtain ⟨m0, m1, m2, m3, m4, _⟩ := hm
    exact ⟨_, rfl, doubtClearEffect_kept h m0 m1 m2 m3 m4⟩
  | laneInjection _ _ _ =>
    obtain ⟨m0, m1, m2, m3, m4, m5, m6, m7, m8, m9, m10, m11, m12, m13, _⟩ := hm
    exact ⟨_, rfl, State.onCore_kept h (fun _ h => laneInjectionEffect_kept h m0 m12 m1 m2 m3 m4 m5 m6 m13 m7 m8 m9 m10 m11)⟩
  | pairCompare =>
    obtain ⟨m0, m1, m2, m3, m4, m5, m6, m7, m8, m9, m10, m11, m12, _⟩ := hm
    exact ⟨_, rfl, State.onMain_kept h (fun _ h => pairCompareEffect_kept h m0 m1 m2 m3 m4 m5 m6 m12 m7 m8 m9 m10 m11)⟩
  | selftestSliceStart _ =>
    obtain ⟨m0, m1, m2, m3, m4, m5, m6, m7, _⟩ := hm
    exact ⟨_, rfl, State.onMain_kept h (fun _ h => selftestSliceStartEffect_kept h m0 m1 m2 m3 m4 m5 m6 m7)⟩
  | fbxTrjCommit _ =>
    obtain ⟨m0, m1, m2, m3, m4, m5, _⟩ := hm
    exact ⟨_, rfl, fbxTrjCommitEffect_kept h m0 m1 m2 m3 m4 m5⟩
  | fbxLate =>
    obtain ⟨m0, m1, m2, m3, m4, m5, m6, m7, m8, m9, m10, m11, _⟩ := hm
    exact ⟨_, rfl, fbxLateEffect_kept h m0 m1 m2 m3 m4 m5 m6 m7 m8 m9 m10 m11⟩
  | fbxTrackingStep =>
    obtain ⟨m0, m1, _⟩ := hm
    exact ⟨_, rfl, fbxTrackingStepEffect_kept h m0 m1⟩
  | fbxCommandFrame _ =>
    obtain ⟨m0, _⟩ := hm
    exact ⟨_, rfl, fbxCommandFrameEffect_kept h m0⟩
  | fbxEthSend =>
    obtain ⟨m0, _⟩ := hm
    exact ⟨_, rfl, fbxEthSendEffect_kept h m0⟩
  | fbxEndAction =>
    obtain ⟨m0, _⟩ := hm
    exact ⟨_, rfl, fbxEndActionEffect_kept h m0⟩
  | fbxHbReq _ =>
    obtain ⟨m0, m1, m2, m3, m4, m5, _⟩ := hm
    exact ⟨_, rfl, fbxHbReqEffect_kept h m0 m1 m2 m3 m4 m5⟩
  | fbxHbGo _ =>
    obtain ⟨m0, _⟩ := hm
    exact ⟨_, rfl, fbxHbGoEffect_kept h m0⟩
  | handbackComplete =>
    obtain ⟨m0, m1, m2, m3, m4, m5, _⟩ := hm
    exact ⟨_, rfl, handbackCompleteEffect_kept h m0 m1 m2 m3 m4 m5 (by cases hp : p.fallback with | false => rfl | true => exact absurd (hf hp) nofun)⟩
  | handbackTimeout =>
    obtain ⟨m0, m1, m2, m3, m4, m5, m6, m7, m8, m9, m10, m11, m12, m13, m14, m15, m16, m17, m18, m19, m20, m21, m22, m23, m24, m25, m26, m27, m28, m29, m30, m31, m32, m33, m34, m35, m36, _⟩ := hm
    exact ⟨_, rfl, handbackTimeoutEffect_kept h m12 m13 m0 m14 m15 m16 m17 m18 m19 m1 m2 m3 m4 m5 m20 m21 m22 m23 m24 m25 m26 m27 m28 m29 m30 m31 m6 m32 m33 m7 m8 m9 m34 m10 m35 m36 m11⟩
  | hdHeartbeat =>
    obtain ⟨m0, _⟩ := hm
    exact ⟨_, rfl, hdHeartbeatEffect_kept h m0⟩
  | hdHeartbeatMiss =>
    obtain ⟨m0, m1, m2, m3, m4, m5, m6, m7, m8, m9, m10, m11, m12, _⟩ := hm
    exact ⟨_, rfl, hdHeartbeatMissEffect_kept h m0 m1 m2 m3 m4 m5 m6 m12 m7 m8 m9 m10 m11⟩
  | rindWdtKick _ =>
    obtain ⟨m0, m1, m2, m3, m4, m5, m6, m7, m8, m9, m10, m11, m12, _⟩ := hm
    exact ⟨_, rfl, rindWdtKickEffect_kept h m0 m1 m2 m3 m4 m5 m6 m12 m7 m8 m9 m10 m11⟩
  | watchdogMiss =>
    obtain ⟨m0, m1, m2, m3, m4, m5, m6, m7, m8, m9, m10, m11, m12, _⟩ := hm
    exact ⟨_, rfl, watchdogMissEffect_kept h m0 m1 m2 m3 m4 m5 m6 m12 m7 m8 m9 m10 m11⟩
  | supplyLimit _ =>
    obtain ⟨m0, m1, m2, m3, m4, m5, m6, m7, m8, m9, m10, m11, _⟩ := hm
    exact ⟨_, rfl, supplyLimitEffect_kept h m0 m1 m2 m3 m4 m5 m6 m7 m8 m9 m10 m11⟩
  | safeFrame =>
    obtain ⟨m0, m1, _⟩ := hm
    exact ⟨_, rfl, safeFrameEffect_kept h m0 m1⟩
  | powerPeriod =>
    obtain ⟨m0, m1, m2, m3, m4, m5, _⟩ := hm
    exact ⟨_, rfl, State.onMain_kept h (fun _ h => powerPeriodEffect_kept h m0 m1 m2 m3 m4 m5)⟩
  | multiplierApply _ =>
    obtain ⟨m0, m1, _⟩ := hm
    exact ⟨_, rfl, State.onMain_kept h (fun _ h => multiplierApplyEffect_kept h m0 m1)⟩
  | pwrModeWrite _ =>
    obtain ⟨m0, m1, _⟩ := hm
    exact ⟨_, rfl, State.onMain_kept h (fun _ h => pwrModeWriteEffect_kept h m0 m1)⟩
  | droopAssert _ =>
    obtain ⟨m0, m1, _⟩ := hm
    exact ⟨_, rfl, State.onMain_kept h (fun _ h => droopAssertEffect_kept h m0 m1)⟩
  | droopSwallowEnd _ =>
    obtain ⟨m0, m1, _⟩ := hm
    exact ⟨_, rfl, State.onMain_kept h (fun _ h => droopSwallowEndEffect_kept h m0 m1)⟩
  | thermalSample _ =>
    obtain ⟨m0, m1, m2, m3, m4, m5, m6, m7, m8, m9, m10, m11, _⟩ := hm
    exact ⟨_, rfl, State.onMain_kept h (fun _ h => thermalSampleEffect_kept h m0 m1 m2 m3 m4 m5 m6 m7 m8 m9 m10 m11)⟩
  | regionDiffSample =>
    obtain ⟨m0, m1, m2, m3, m4, m5, _⟩ := hm
    exact ⟨_, rfl, State.onMain_kept h (fun _ h => regionDiffSampleEffect_kept h m0 m1 m2 m3 m4 m5)⟩
  | regionSwallowEnd =>
    obtain ⟨m0, m1, _⟩ := hm
    exact ⟨_, rfl, State.onMain_kept h (fun _ h => regionSwallowEndEffect_kept h m0 m1)⟩
  | energySample _ =>
    obtain ⟨m0, _⟩ := hm
    exact ⟨_, rfl, State.onMain_kept h (fun _ h => energySampleEffect_kept h m0)⟩
  | pwrMeterCfgWrite _ _ =>
    obtain ⟨m0, m1, _⟩ := hm
    exact ⟨_, rfl, State.onMain_kept h (fun _ h => pwrMeterCfgWriteEffect_kept h m0 m1)⟩
  | hostDoorbell _ =>
    obtain ⟨m0, m1, m2, m3, m4, m5, m6, m7, _⟩ := hm
    exact ⟨_, rfl, State.onMain_kept h (fun _ h => hostDoorbellEffect_kept h m0 m1 m2 m3 m4 m5 m6 m7)⟩
  | commandComplete _ _ _ =>
    obtain ⟨m0, m1, m2, m3, m4, m5, m6, m7, m8, m9, m10, m11, m12, m13, m14, m15, m16, m17, m18, m19, m20, m21, m22, m23, m24, m25, m26, m27, m28, m29, m30, m31, m32, m33, m34, m35, _⟩ := hm
    exact ⟨_, rfl, State.onMain_kept h (fun _ h => commandCompleteEffect_kept h m12 m0 m13 m14 m15 m16 m17 m18 m1 m2 m3 m4 m5 m19 m20 m21 m22 m23 m24 m25 m26 m27 m28 m29 m30 m6 m31 m32 m7 m8 m9 m33 m10 m34 m35 m11)⟩
  | identify _ =>
    obtain ⟨m0, m1, m2, m3, m4, m5, m6, m7, _⟩ := hm
    exact ⟨_, rfl, State.onMain_kept h (fun _ h => identifyEffect_kept h m0 m1 m2 m3 m4 m5 m6 m7)⟩
  | getState _ =>
    obtain ⟨m0, m1, m2, m3, m4, m5, m6, m7, _⟩ := hm
    exact ⟨_, rfl, State.onMain_kept h (fun _ h => getStateEffect_kept h m0 m1 m2 m3 m4 m5 m6 m7)⟩
  | sessionChallenge _ _ =>
    obtain ⟨m0, m1, m2, m3, m4, m5, m6, m7, _⟩ := hm
    exact ⟨_, rfl, State.onMain_kept h (fun _ h => sessionChallengeEffect_kept h m0 m1 m2 m3 m4 m5 m6 m7)⟩
  | sessionOpen _ =>
    obtain ⟨m0, m1, m2, m3, m4, m5, m6, m7, _⟩ := hm
    exact ⟨_, rfl, State.onMain_kept h (fun _ h => sessionOpenEffect_kept h m0 m1 m2 m3 m4 m5 m6 m7)⟩
  | sessionClose _ =>
    obtain ⟨m0, m1, m2, m3, m4, m5, m6, m7, _⟩ := hm
    exact ⟨_, rfl, State.onMain_kept h (fun _ h => sessionCloseEffect_kept h m0 m1 m2 m3 m4 m5 m6 m7)⟩
  | sessionExpiry _ =>
    obtain ⟨m0, m1, m2, m3, m4, m5, _⟩ := hm
    exact ⟨_, rfl, State.onMain_kept h (fun _ h => sessionExpiryEffect_kept h m0 m1 m2 m3 m4 m5)⟩
  | sessionLockoutEnd _ =>
    obtain ⟨m0, _⟩ := hm
    exact ⟨_, rfl, State.onMain_kept h (fun _ h => sessionLockoutEndEffect_kept h m0)⟩
  | regRead _ =>
    obtain ⟨m0, m1, m2, m3, m4, m5, m6, m7, m8, m9, m10, _⟩ := hm
    exact ⟨_, rfl, State.onMain_kept h (fun _ h => regReadEffect_kept h m0 m1 m2 m3 m4 m5 m6 m7 m8 m9 m10)⟩
  | eventRead _ =>
    obtain ⟨m0, m1, m2, m3, m4, m5, m6, m7, m8, m9, m10, _⟩ := hm
    exact ⟨_, rfl, State.onMain_kept h (fun _ h => eventReadEffect_kept h m0 m1 m2 m3 m4 m5 m6 m7 m8 m9 m10)⟩
  | snapshot _ =>
    obtain ⟨m0, m1, m2, m3, m4, m5, m6, m7, _⟩ := hm
    exact ⟨_, rfl, State.onMain_kept h (fun _ h => snapshotEffect_kept h m0 m1 m2 m3 m4 m5 m6 m7)⟩
  | workloadStart _ =>
    obtain ⟨m0, m1, m2, m3, m4, m5, m6, m7, m8, m9, _⟩ := hm
    exact ⟨_, rfl, State.onMain_kept h (fun _ h => workloadStartEffect_kept h m0 m1 m2 m3 m4 m5 m6 m7 m8 m9)⟩
  | workloadStop _ =>
    obtain ⟨m0, m1, m2, m3, m4, m5, m6, m7, m8, m9, _⟩ := hm
    exact ⟨_, rfl, State.onMain_kept h (fun _ h => workloadStopEffect_kept h m0 m1 m2 m3 m4 m5 m6 m7 m8 m9)⟩
  | imageLoad _ =>
    obtain ⟨m0, m1, m2, m3, m4, m5, m6, m7, _⟩ := hm
    exact ⟨_, rfl, State.onMain_kept h (fun _ h => imageLoadEffect_kept h m0 m1 m2 m3 m4 m5 m6 m7)⟩
  | imageUnload _ =>
    obtain ⟨m0, m1, m2, m3, m4, m5, m6, m7, m8, m9, m10, m11, m12, m13, m14, m15, m16, m17, m18, m19, m20, m21, m22, m23, m24, m25, m26, m27, m28, m29, m30, m31, m32, m33, _⟩ := hm
    exact ⟨_, rfl, State.onMain_kept h (fun _ h => imageUnloadEffect_kept h m12 m0 m13 m14 m15 m16 m17 m18 m1 m2 m3 m4 m5 m19 m20 m21 m22 m23 m24 m25 m26 m27 m28 m29 m30 m6 m31 m32 m7 m8 m9 m10 m33 m11)⟩
  | hostDma _ =>
    obtain ⟨m0, m1, m2, m3, m4, m5, m6, m7, m8, _⟩ := hm
    exact ⟨_, rfl, State.onMain_kept h (fun _ h => hostDmaEffect_kept h m0 m1 m2 m3 m4 m5 m6 m7 m8)⟩
  | batchSubmit _ =>
    obtain ⟨m0, m1, m2, m3, m4, m5, m6, m7, _⟩ := hm
    exact ⟨_, rfl, State.onMain_kept h (fun _ h => batchSubmitEffect_kept h m0 m1 m2 m3 m4 m5 m6 m7)⟩
  | handback _ =>
    obtain ⟨m0, m1, m2, m3, m4, m5, m6, m7, m8, m9, m10, m11, m12, m13, m14, m15, m16, m17, m18, m19, m20, m21, m22, m23, m24, m25, m26, m27, m28, m29, m30, m31, m32, m33, m34, _⟩ := hm
    exact ⟨_, rfl, State.onMain_kept h (fun _ h => handbackEffect_kept h m12 m0 m13 m14 m15 m16 m17 m18 m1 m2 m3 m4 m5 m19 m20 m21 m22 m23 m24 m25 m26 m27 m28 m29 m30 m6 m31 m32 m7 m8 m9 m33 m10 m34 m11)⟩
  | cgSubmit _ =>
    obtain ⟨m0, m1, m2, m3, m4, m5, m6, m7, m8, m9, _⟩ := hm
    exact ⟨_, rfl, State.onMain_kept h (fun _ h => cgSubmitEffect_kept h m0 m1 m2 m3 m4 m5 m6 m7 m8 m9)⟩
  | cgCancel _ =>
    obtain ⟨m0, m1, m2, m3, m4, m5, m6, m7, m8, m9, _⟩ := hm
    exact ⟨_, rfl, State.onMain_kept h (fun _ h => cgCancelEffect_kept h m0 m1 m2 m3 m4 m5 m6 m7 m8 m9)⟩
  | ftLoad _ =>
    obtain ⟨m0, m1, m2, m3, m4, m5, m6, m7, _⟩ := hm
    exact ⟨_, rfl, State.onMain_kept h (fun _ h => ftLoadEffect_kept h m0 m1 m2 m3 m4 m5 m6 m7)⟩
  | workloadDefine _ =>
    obtain ⟨m0, m1, m2, m3, m4, m5, m6, m7, _⟩ := hm
    exact ⟨_, rfl, State.onMain_kept h (fun _ h => workloadDefineEffect_kept h m0 m1 m2 m3 m4 m5 m6 m7)⟩
  | migCmd _ =>
    obtain ⟨m0, m1, m2, m3, m4, m5, m6, m7, m8, m9, m10, m11, m12, m13, m14, m15, m16, m17, m18, m19, m20, m21, m22, m23, m24, m25, m26, m27, m28, m29, m30, m31, m32, m33, _⟩ := hm
    exact ⟨_, rfl, State.onMain_kept h (fun _ h => migCmdEffect_kept h m12 m0 m13 m14 m15 m16 m17 m18 m1 m2 m3 m4 m5 m19 m20 m21 m22 m23 m24 m25 m26 m27 m28 m29 m30 m6 m31 m32 m7 m8 m9 m10 m33 m11)⟩
  | storeWrite _ =>
    obtain ⟨m0, m1, m2, m3, m4, m5, m6, m7, _⟩ := hm
    exact ⟨_, rfl, State.onMain_kept h (fun _ h => storeWriteEffect_kept h m0 m1 m2 m3 m4 m5 m6 m7)⟩
  | storeTrim _ =>
    obtain ⟨m0, m1, m2, m3, m4, m5, m6, m7, _⟩ := hm
    exact ⟨_, rfl, State.onMain_kept h (fun _ h => storeTrimEffect_kept h m0 m1 m2 m3 m4 m5 m6 m7)⟩
  | fbRelay _ =>
    obtain ⟨m0, m1, m2, m3, m4, m5, m6, m7, _⟩ := hm
    exact ⟨_, rfl, State.onMain_kept h (fun _ h => fbRelayEffect_kept h m0 m1 m2 m3 m4 m5 m6 m7)⟩
  | keyAdd _ =>
    obtain ⟨m0, m1, m2, m3, m4, m5, m6, m7, m8, _⟩ := hm
    exact ⟨_, rfl, State.onMain_kept h (fun _ h => keyAddEffect_kept h m0 m1 m2 m3 m4 m5 m6 m7 m8)⟩
  | keyRemove _ =>
    obtain ⟨m0, m1, m2, m3, m4, m5, m6, m7, m8, _⟩ := hm
    exact ⟨_, rfl, State.onMain_kept h (fun _ h => keyRemoveEffect_kept h m0 m1 m2 m3 m4 m5 m6 m7 m8)⟩
  | resetWarm _ =>
    obtain ⟨m0, m1, m2, m3, m4, m5, m6, m7, m8, _⟩ := hm
    exact ⟨_, rfl, State.onMain_kept h (fun _ h => resetWarmEffect_kept h m0 m1 m2 m3 m4 m5 m6 m7 m8)⟩
  | resetCold _ =>
    obtain ⟨m0, m1, m2, m3, m4, m5, m6, m7, m8, _⟩ := hm
    exact ⟨_, rfl, State.onMain_kept h (fun _ h => resetColdEffect_kept h m0 m1 m2 m3 m4 m5 m6 m7 m8)⟩
  | resetPartition _ =>
    obtain ⟨m0, m1, m2, m3, m4, m5, m6, m7, m8, _⟩ := hm
    exact ⟨_, rfl, State.onMain_kept h (fun _ h => resetPartitionEffect_kept h m0 m1 m2 m3 m4 m5 m6 m7 m8)⟩
  | resetBegin =>
    obtain ⟨m0, m1, m2, m3, m4, m5, m6, m7, m8, m9, m10, m11, m12, m13, m14, m15, m16, m17, m18, m19, m20, m21, m22, m23, m24, m25, m26, m27, m28, m29, m30, m31, m32, m33, m34, _⟩ := hm
    exact ⟨_, rfl, resetBeginEffect_kept h m0 m1 m2 m3 m4 m5 m6 m7 m8 m9 m10 m11 m12 m13 m14 m15 m16 m17 m18 m19 m20 m21 m22 m23 m24 m25 m26 m27 m28 m29 m30 m31 m32 m33 m34⟩
  | fwStage _ =>
    obtain ⟨m0, m1, m2, m3, m4, m5, m6, m7, _⟩ := hm
    exact ⟨_, rfl, State.onMain_kept h (fun _ h => fwStageEffect_kept h m0 m1 m2 m3 m4 m5 m6 m7)⟩
  | fwActivate _ =>
    obtain ⟨m0, m1, m2, m3, m4, m5, m6, m7, m8, _⟩ := hm
    exact ⟨_, rfl, State.onMain_kept h (fun _ h => fwActivateEffect_kept h m0 m1 m2 m3 m4 m5 m6 m7 m8)⟩
  | fuseProgram _ =>
    obtain ⟨m0, m1, m2, m3, m4, m5, m6, m7, _⟩ := hm
    exact ⟨_, rfl, State.onMain_kept h (fun _ h => fuseProgramEffect_kept h m0 m1 m2 m3 m4 m5 m6 m7)⟩
  | lifecycleAdvance _ =>
    obtain ⟨m0, m1, m2, m3, m4, m5, m6, m7, m8, _⟩ := hm
    exact ⟨_, rfl, State.onMain_kept h (fun _ h => lifecycleAdvanceEffect_kept h m0 m1 m2 m3 m4 m5 m6 m7 m8)⟩
  | bootPush _ =>
    obtain ⟨m0, m1, m2, m3, m4, m5, m6, m7, m8, _⟩ := hm
    exact ⟨_, rfl, State.onMain_kept h (fun _ h => bootPushEffect_kept h m0 m1 m2 m3 m4 m5 m6 m7 m8)⟩
  | firmwareInternalError =>
    obtain ⟨m0, m1, m2, m3, m4, _⟩ := hm
    exact ⟨_, rfl, State.onMain_kept h (fun _ h => firmwareInternalErrorEffect_kept h m0 m1 m2 m3 m4)⟩
  | cgSubmitWrite _ =>
    obtain ⟨m0, m1, m2, m3, m4, m5, _⟩ := hm
    exact ⟨_, rfl, State.onMain_kept h (fun _ h => cgSubmitWriteEffect_kept h m0 m1 m2 m3 m4 m5)⟩
  | cgCancelWrite _ _ =>
    obtain ⟨m0, m1, m2, m3, m4, m5, m6, _⟩ := hm
    exact ⟨_, rfl, State.onMain_kept h (fun _ h => cgCancelWriteEffect_kept h m0 m1 m2 m3 m4 m5 m6)⟩
  | commitPoint _ =>
    obtain ⟨m0, _⟩ := hm
    exact ⟨_, rfl, State.onMain_kept h (fun _ h => commitPointEffect_kept h m0)⟩
  | commitEvaluate _ =>
    obtain ⟨m0, m1, m2, m3, m4, m5, m6, m7, m8, m9, m10, m11, m12, m13, m14, m15, m16, m17, m18, m19, m20, m21, m22, m23, m24, m25, m26, m27, m28, m29, m30, m31, m32, m33, m34, _⟩ := hm
    exact ⟨_, rfl, State.onMain_kept h (fun _ h => commitEvaluateEffect_kept h m12 m0 m13 m14 m15 m16 m17 m18 m1 m2 m3 m4 m5 m19 m20 m21 m22 m23 m24 m25 m26 m27 m28 m29 m30 m6 m31 m32 m7 m8 m9 m33 m10 m34 m11)⟩
  | rindGroupApply _ =>
    obtain ⟨m0, m1, m2, m3, m4, m5, m6, m7, m8, m9, m10, m11, m12, m13, m14, m15, m16, m17, m18, m19, m20, m21, m22, m23, m24, m25, m26, m27, m28, m29, m30, m31, m32, m33, m34, _⟩ := hm
    exact ⟨_, rfl, rindGroupApplyEffect_kept h m12 m0 m13 m14 m15 m16 m17 m18 m1 m2 m3 m4 m5 m19 m20 m21 m22 m23 m24 m25 m26 m27 m28 m29 m30 m6 m31 m32 m7 m8 m9 m33 m10 m34 m11⟩
  | eventMark _ _ =>
    obtain ⟨m0, m1, m2, m3, m4, _⟩ := hm
    exact ⟨_, rfl, State.onMain_kept h (fun _ h => eventMarkEffect_kept h m0 m1 m2 m3 m4)⟩
  | mbxIrqWrite _ =>
    obtain ⟨m0, m1, m2, _⟩ := hm
    exact ⟨_, rfl, State.onMain_kept h (fun _ h => mbxIrqWriteEffect_kept h m0 m1 m2)⟩
  | eventRecordPost _ _ _ _ _ _ _ =>
    obtain ⟨m0, m1, m2, m3, m4, _⟩ := hm
    exact ⟨_, rfl, eventRecordPostEffect_kept h m0 m1 m2 m3 m4⟩
  | evrFlushWrite =>
    obtain ⟨m0, m1, m2, m3, m4, _⟩ := hm
    exact ⟨_, rfl, evrFlushWriteEffect_kept h m0 m1 m2 m3 m4⟩
  | evrFlushTimer =>
    obtain ⟨m0, _⟩ := hm
    exact ⟨_, rfl, evrFlushTimerEffect_kept h m0⟩
  | evrWindowRead _ =>
    obtain ⟨m0, m1, m2, m3, m4, m5, m6, m7, _⟩ := hm
    exact ⟨_, rfl, evrWindowReadEffect_kept h m0 m1 m2 m3 m4 m5 m6 m7⟩
  | powerFailWarning _ =>
    obtain ⟨m0, m1, m2, m3, m4, m5, m6, _⟩ := hm
    exact ⟨_, rfl, powerFailWarningEffect_kept h m0 m1 m2 m3 m4 m5 m6⟩
  | powerFailRecovery =>
    obtain ⟨m0, m1, m2, m3, m4, _⟩ := hm
    exact ⟨_, rfl, powerFailRecoveryEffect_kept h m0 m1 m2 m3 m4⟩
  | nvInhibit =>
    obtain ⟨m0, _⟩ := hm
    exact ⟨_, rfl, nvInhibitEffect_kept h m0⟩
  | snapshotTrigger _ =>
    obtain ⟨m0, m1, _⟩ := hm
    exact ⟨_, rfl, State.onMain_kept h (fun _ h => snapshotTriggerEffect_kept h m0 m1)⟩
  | snapInEdge =>
    obtain ⟨m0, m1, _⟩ := hm
    exact ⟨_, rfl, State.onMain_kept h (fun _ h => snapInEdgeEffect_kept h m0 m1)⟩
  | snapshotCompareInstant =>
    obtain ⟨m0, m1, m2, _⟩ := hm
    exact ⟨_, rfl, State.onMain_kept h (fun _ h => snapshotCompareInstantEffect_kept h m0 m1 m2)⟩
  | obsRead _ _ =>
    obtain ⟨m0, m1, m2, m3, m4, m5, m6, m7, m8, _⟩ := hm
    exact ⟨_, rfl, State.onMain_kept h (fun _ h => obsReadEffect_kept h m0 m1 m2 m3 m4 m5 m6 m7 m8)⟩
  | obsStatus =>
    obtain ⟨m0, _⟩ := hm
    exact ⟨_, rfl, State.onMain_kept h (fun _ h => obsStatusEffect_kept h m0)⟩
  | obsTrcPop =>
    obtain ⟨m0, m1, m2, m3, _⟩ := hm
    exact ⟨_, rfl, State.onMain_kept h (fun _ h => obsTrcPopEffect_kept h m0 m1 m2 m3)⟩
  | rindPowerOn _ =>
    obtain ⟨m0, m1, m2, m3, m4, m5, m6, m7, m8, m9, m10, m11, m12, m13, m14, m15, m16, m17, m18, m19, m20, m21, m22, m23, m24, m25, m26, m27, m28, m29, m30, m31, m32, m33, m34, m35, m36, m37, m38, m39, m40, m41, m42, m43, _⟩ := hm
    exact ⟨_, rfl, rindPowerOnEffect_kept h m0 m1 m35 m36 m37 m2 m3 m4 m5 m6 m7 m8 m38 m9 m39 m40 m10 m11 m12 m13 m14 m15 m16 m17 m18 m19 m20 m21 m22 m23 m24 m41 m42 m25 m26 m27 m28 m29 m30 m43 m31 m32 m33 m34 (by cases hp : p.safe with | false => rfl | true => exact absurd (hs hp) nofun)⟩
  | rindBootEnd _ _ =>
    obtain ⟨m0, m1, m2, m3, m4, m5, m6, m7, m8, _⟩ := hm
    exact ⟨_, rfl, rindBootEndEffect_kept h m0 m1 m2 m3 m4 m5 m6 m7 m8⟩
  | mcResetRelease =>
    obtain ⟨m0, m1, m2, m3, m4, m5, m6, m7, m8, m9, m10, m11, m12, m13, m14, m15, m16, m17, m18, m19, m20, m21, m22, m23, m24, m25, m26, m27, m28, m29, m30, m31, m32, m33, m34, _⟩ := hm
    exact ⟨_, rfl, mcResetReleaseEffect_kept h m0 m1 m2 m3 m4 m5 m6 m7 m8 m9 m10 m11 m12 m13 m14 m15 m16 m17 m18 m19 m20 m21 m22 m23 m24 m25 m26 m27 m28 m29 m30 m31 m32 m33 m34⟩
  | startupStepEnd _ _ =>
    obtain ⟨m0, m1, m2, m3, m4, m5, m6, m7, m8, m9, m10, m11, m12, m13, m14, m15, m16, m17, m18, m19, m20, m21, m22, m23, m24, m25, m26, m27, m28, m29, m30, m31, m32, m33, m34, m35, m36, m37, _⟩ := hm
    exact ⟨_, rfl, startupStepEndEffect_kept h m12 m13 m0 m14 m15 m16 m17 m18 m19 m1 m2 m3 m4 m5 m20 m21 m22 m23 m24 m25 m26 m27 m28 m29 m30 m31 m6 m32 m33 m34 m7 m8 m9 m35 m10 m36 m37 m11⟩
  | emptyTrajectoryCommit =>
    obtain ⟨m0, m1, m2, m3, m4, m5, m6, m7, m8, m9, m10, m11, m12, m13, m14, m15, m16, m17, m18, m19, m20, m21, m22, m23, m24, m25, m26, m27, m28, m29, m30, m31, m32, m33, m34, m35, m36, _⟩ := hm
    exact ⟨_, rfl, State.onMain_kept h (fun _ h => emptyTrajectoryCommitEffect_kept h m12 m13 m0 m14 m15 m16 m17 m18 m19 m1 m2 m3 m4 m5 m20 m21 m22 m23 m24 m25 m26 m27 m28 m29 m30 m31 m6 m32 m33 m7 m8 m9 m34 m10 m35 m36 m11)⟩
  | resetNAssert _ =>
    obtain ⟨m0, m1, m2, m3, m4, m5, m6, m7, m8, m9, m10, m11, m12, m13, m14, m15, m16, m17, m18, m19, m20, m21, m22, m23, m24, m25, m26, m27, m28, m29, m30, m31, m32, m33, m34, _⟩ := hm
    exact ⟨_, rfl, resetNAssertEffect_kept h m0 m1 m2 m3 m4 m5 m6 m7 m8 m9 m10 m11 m12 m13 m14 m15 m16 m17 m18 m19 m20 m21 m22 m23 m24 m25 m26 m27 m28 m29 m30 m31 m32 m33 m34⟩
  | railPowerGoodLoss _ =>
    obtain ⟨m0, m1, m2, m3, m4, m5, m6, m7, m8, m9, m10, m11, m12, m13, m14, m15, m16, m17, m18, m19, m20, m21, m22, m23, m24, m25, m26, m27, m28, m29, m30, m31, m32, m33, m34, _⟩ := hm
    exact ⟨_, rfl, railPowerGoodLossEffect_kept h m0 m1 m2 m3 m4 m5 m6 m7 m8 m9 m10 m11 m12 m13 m14 m15 m16 m17 m18 m19 m20 m21 m22 m23 m24 m25 m26 m27 m28 m29 m30 m31 m32 m33 m34⟩
  | rootPllLoss _ =>
    obtain ⟨m0, m1, m2, _⟩ := hm
    exact ⟨_, rfl, rootPllLossEffect_kept h m0 m1 m2⟩
  | rindSupplyLoss =>
    obtain ⟨m0, m1, _⟩ := hm
    exact ⟨_, rfl, rindSupplyLossEffect_kept h m0 m1⟩
  | harpReadDeadline _ =>
    obtain ⟨m0, m1, m2, m3, m4, m5, m6, m7, m8, _⟩ := hm
    exact ⟨_, rfl, State.onMain_kept h (fun _ h => harpReadDeadlineEffect_kept h m0 m1 m2 m3 m4 m5 m6 m7 m8)⟩
  | hostMailboxWrite _ _ =>
    obtain ⟨m0, m1, _⟩ := hm
    exact ⟨_, rfl, State.onMain_kept h (fun _ h => hostMailboxWriteEffect_kept h m0 m1)⟩
  | aquiferNvmeReady _ _ =>
    obtain ⟨m0, _⟩ := hm
    exact ⟨_, rfl, State.onMain_kept h (fun _ h => aquiferNvmeReadyEffect_kept h m0)⟩
  | droopRelease _ =>
    obtain ⟨m0, _⟩ := hm
    exact ⟨_, rfl, State.onMain_kept h (fun _ h => droopReleaseEffect_kept h m0)⟩
  | rindXtalStop =>
    obtain ⟨m0, _⟩ := hm
    exact ⟨_, rfl, rindXtalStopEffect_kept h m0⟩

end Sys2Proof.Machine
end

