-- ==== Sys2Proof/Laws/Units.lean ====
section
/-! SUPPORT. What reads give after a write to one unit, one register field or one register, in a canonical state. -/

namespace Sys2Proof.Machine

theorem Answers.of {c : Instr} {s t : State} {P : State → Prop} (h : exec c s = .next t) (p : P t) : Answers c s P := ⟨t, h, p⟩

theorem State.canonical_mem {s : State} (h : s.canonical = true) : memWf s.mem = true := by
  simp only [State.canonical, Bool.and_eq_true] at h; exact h.1.1.1

theorem State.canonical_cells {s : State} (h : s.canonical = true) : mapWf 0 s.cells = true := by
  simp only [State.canonical, Bool.and_eq_true] at h; exact h.1.1.2

theorem State.canonical_regs {s : State} (h : s.canonical = true) : mapWf 0 s.regs = true := by
  simp only [State.canonical, Bool.and_eq_true] at h; exact h.1.2

theorem State.canonical_units {s : State} (h : s.canonical = true) :
    s.vats.length = 8 ∧ s.walkers.length = 8 ∧ s.swaps.length = 8 ∧ s.harp.length = 4 ∧ s.ing.length = 96 ∧ s.tsn.length = 4 := by
  simp only [State.canonical, Bool.and_eq_true] at h
  have := h.2
  simp only [State.shaped, Bool.and_eq_true, beq_iff_eq] at this
  obtain ⟨⟨⟨⟨⟨a, b⟩, c⟩, d⟩, e⟩, f⟩ := this
  exact ⟨a, b, c, d, e, f⟩

theorem State.vat_mem {s : State} (h : s.canonical = true) (v : VatNo) : v.val < s.vats.length := by
  rw [(State.canonical_units h).1]; exact v.isLt

/-! ### Units -/

theorem State.modSwap_same (s : State) (v : Nat) (f : SwapEng → SwapEng) (h : v < s.swaps.length) : (s.modSwap v f).swap v = f (s.swap v) :=
  listModify_getD_same f s.swaps v _ h

theorem State.modWalker_same (s : State) (v : Nat) (f : Walker → Walker) (h : v < s.walkers.length) : (s.modWalker v f).walker v = f (s.walker v) :=
  listModify_getD_same f s.walkers v _ h

/-- The core of Vat v changed by f: nothing else has changed. -/
theorem State.modCore_newCore {s : State} {v : Nat} {l : List Part} (h : v < s.vats.length) (f : VatCore → VatCore) :
    s.NewCore v l (f (s.vat v).core) (s.modCore v f) :=
  ⟨State.modVat_same _ _ _ h, fun u hu => State.modVat_other _ _ _ _ hu, (State.modVat_only ..).mono (by simp)⟩

/-! ### Fields -/

theorem bits_lt (n hi lo : Nat) : bits n hi lo < 2 ^ (hi + 1 - lo) := Nat.mod_lt _ (Nat.two_pow_pos _)

theorem bits_putBits (n hi lo v : Nat) : bits (putBits n hi lo v) hi lo = v % 2 ^ (hi + 1 - lo) := by
  unfold putBits bits
  simp only [Nat.shiftRight_eq_div_pow]
  have hp := Nat.two_pow_pos lo
  have hq := Nat.two_pow_pos (hi + 1 - lo)
  generalize 2 ^ lo = p at *
  generalize 2 ^ (hi + 1 - lo) = q at *
  have e : n - n / p % q * p = n / p / q * (q * p) + n % p := by
    have e1 := Nat.div_add_mod n p
    have e2 := Nat.div_add_mod (n / p) q
    have e3 : n / p * p = n / p / q * (q * p) + n / p % q * p := by
      conv => lhs; rw [← e2]
      rw [Nat.add_mul, Nat.mul_comm q, Nat.mul_assoc]
    rw [Nat.mul_comm] at e1
    omega
  rw [e]
  have hv := Nat.mod_lt v hq
  rw [show n / p / q * (q * p) + n % p + v % q * p = (n / p / q * q + v % q) * p + n % p by rw [Nat.add_mul, Nat.mul_assoc]; omega]
  rw [Nat.mul_comm _ p, Nat.mul_add_div hp, Nat.div_eq_of_lt (Nat.mod_lt n hp), Nat.add_zero, Nat.mul_comm, Nat.mul_add_mod, Nat.mod_mod]

/-! ### Registers -/

/-- The register file is canonical and only registers of the list differ from another state's. -/
def State.RegsKept (l : List Nat) (s t : State) : Prop := mapWf 0 t.regs = true ∧ RegsBut l s t

theorem State.RegsKept.refl {l : List Nat} {s : State} (h : mapWf 0 s.regs = true) : State.RegsKept l s s := ⟨h, fun _ _ => rfl⟩

theorem State.RegsKept.setReg {l : List Nat} {s t : State} (h : State.RegsKept l s t) {k : Nat} (hk : k ∈ l) (v : Nat) : State.RegsKept l s (t.setReg k v) :=
  ⟨mapWf_mapSet h.1, fun j hj => by
    have e : j ≠ k := fun e => hj (by rw [e]; exact hk)
    rw [State.setReg_reg h.1, if_neg e]; exact h.2 j hj⟩

theorem State.RegsKept.of_regs {l : List Nat} {s t u : State} (h : State.RegsKept l s t) (e : u.regs = t.regs) : State.RegsKept l s u :=
  ⟨e ▸ h.1, fun j hj => by rw [State.reg, e]; exact h.2 j hj⟩

theorem State.RegsKept.bump {l : List Nat} {s t : State} (h : State.RegsKept l s t) {k : Nat} (hk : k ∈ l) : State.RegsKept l s (t.bump k) :=
  h.setReg hk _

theorem State.RegsKept.bumpBy {l : List Nat} {s t : State} (h : State.RegsKept l s t) {k : Nat} (hk : k ∈ l) (n : Nat) :
    State.RegsKept l s (t.bumpBy k n) := h.setReg hk _

theorem State.RegsKept.ite {l : List Nat} {s a b : State} {c : Prop} [Decidable c] (h : State.RegsKept l s a) (g : State.RegsKept l s b) :
    State.RegsKept l s (if c then a else b) := by split <;> assumption

theorem State.setReg_only (s : State) (k v : Nat) : Only [.regs] s (s.setReg k v) :=
  ⟨rfl, fun f _ hf => by cases f <;> first | rfl | exact absurd (by simp) hf⟩

theorem State.bumpBy_only (s : State) (k n : Nat) : Only [.regs] s (s.bumpBy k n) := s.setReg_only _ _
theorem State.bump_only (s : State) (k : Nat) : Only [.regs] s (s.bump k) := s.setReg_only _ _

theorem Only.ite {l : List Part} {s a b : State} {c : Prop} [Decidable c] (h : Only l s a) (g : Only l s b) : Only l s (if c then a else b) := by
  split <;> assumption

theorem State.modSwap_only (s : State) (v : Nat) (f : SwapEng → SwapEng) : Only [.swaps] s (s.modSwap v f) :=
  ⟨rfl, fun g _ hg => by cases g <;> first | rfl | exact absurd (by simp) hg⟩

theorem State.setCell_only (s : State) (v k x : Nat) : Only [.cells] s (s.setCell v k x) :=
  ⟨rfl, fun g _ hg => by cases g <;> first | rfl | exact absurd (by simp) hg⟩

theorem State.ite_reg {c : Prop} [Decidable c] {a b : State} {k x : Nat} (h : a.reg k = x) (g : b.reg k = x) : (if c then a else b).reg k = x := by
  split <;> assumption

theorem State.setReg_same {s : State} (h : mapWf 0 s.regs = true) (k v : Nat) : (s.setReg k v).reg k = v :=
  (State.setReg_reg h).trans (if_pos rfl)

theorem State.setReg_other {s : State} (h : mapWf 0 s.regs = true) {k j : Nat} (v : Nat) (hk : j ≠ k) : (s.setReg k v).reg j = s.reg j :=
  (State.setReg_reg h).trans (if_neg hk)

theorem State.bump_same {s : State} (h : mapWf 0 s.regs = true) (k : Nat) : (s.bump k).reg k = (s.reg k + 1) % 2 ^ 32 := State.setReg_same h _ _

/-- A field of a register reads as it was written. -/
theorem State.setRegBits_same {s : State} (h : mapWf 0 s.regs = true) (k hi lo v : Nat) : (s.setRegBits k hi lo v).regBits k hi lo = v % 2 ^ (hi + 1 - lo) := by
  unfold State.regBits State.setRegBits
  rw [State.setReg_same h, bits_putBits]

end Sys2Proof.Machine
end

