-- ==== Sys2Proof/Laws/Side.lean ====
section
/-! SUPPORT. The register file through doubts, records, trace packets, snapshots and corrected words: which registers they leave as they are. -/

namespace Sys2Proof.Machine

/-- The register file is canonical and, sideRegs and snapshot areas aside, only registers of l differ from another state's. -/
def State.Side (l : Nat → Prop) (s t : State) : Prop := mapWf 0 t.regs = true ∧ ∀ k, sideKey k = false → ¬l k → t.reg k = s.reg k

theorem State.Side.regsSide {l : List Nat} {s t : State} (h : State.Side (fun k => k ∈ l) s t) : RegsSide l s t := h.2

variable {l : Nat → Prop} {s t u : State}

theorem State.Side.refl (h : mapWf 0 s.regs = true) : State.Side l s s := ⟨h, fun _ _ _ => rfl⟩

theorem State.Side.trans (h : State.Side l s t) (g : State.Side l t u) : State.Side l s u :=
  ⟨g.1, fun k a b => (g.2 k a b).trans (h.2 k a b)⟩

theorem State.Side.of_regs (h : State.Side l s t) (e : u.regs = t.regs) : State.Side l s u :=
  ⟨e ▸ h.1, fun j a b => by rw [State.reg, e]; exact h.2 j a b⟩

theorem State.Side.setReg (h : State.Side l s t) {k : Nat} (v : Nat) (hk : sideKey k = true ∨ l k) : State.Side l s (t.setReg k v) :=
  ⟨mapWf_mapSet h.1, fun j a b => by
    have e : j ≠ k := fun e => by subst e; rcases hk with hk | hk <;> simp_all
    rw [State.setReg_reg h.1, if_neg e]; exact h.2 j a b⟩

theorem State.Side.bump (h : State.Side l s t) {k : Nat} (hk : sideKey k = true ∨ l k) : State.Side l s (t.bump k) := h.setReg _ hk
theorem State.Side.bumpBy (h : State.Side l s t) {k : Nat} (n : Nat) (hk : sideKey k = true ∨ l k) : State.Side l s (t.bumpBy k n) := h.setReg _ hk
theorem State.Side.setRegBits (h : State.Side l s t) {k : Nat} (hi lo v : Nat) (hk : sideKey k = true ∨ l k) : State.Side l s (t.setRegBits k hi lo v) :=
  h.setReg _ hk
theorem State.Side.setRegBit (h : State.Side l s t) {k : Nat} (i : Nat) (hk : sideKey k = true ∨ l k) : State.Side l s (t.setRegBit k i) := h.setReg _ hk

theorem State.Side.ite {c : Prop} [Decidable c] {a b : State} (h : c → State.Side l s a) (g : ¬c → State.Side l s b) : State.Side l s (if c then a else b) := by
  split <;> solve_by_elim

theorem State.Side.fold {α : Type} {f : State → α → State} (ls : List α) (hf : ∀ (x : State) (a : α), a ∈ ls → State.Side l s x → State.Side l s (f x a))
    (h : State.Side l s t) : State.Side l s (ls.foldl f t) := by
  induction ls generalizing t with
  | nil => exact h
  | cons a r ih => exact ih (fun x b hb hx => hf x b (List.mem_cons_of_mem _ hb) hx) (hf t a (List.mem_cons_self ..) h)

theorem State.hostEv_regs (s : State) (m : Nat) : (s.hostEv m).regs = s.regs := by unfold State.hostEv; split <;> rfl

theorem State.Side.hwSetBit (h : State.Side l s t) {k : Nat} (i : Nat) (hk : sideKey k = true ∨ l k) : State.Side l s (t.hwSetBit k i) :=
  (h.setRegBit i hk).of_regs rfl

theorem State.Side.syncState (h : State.Side l s t) : State.Side l s t.syncState := by
  unfold State.syncState
  split
  · exact h
  · exact (h.setReg (k := Reg.MBX_STATE) t.stateWord (.inl (by decide))).of_regs (State.hostEv_regs _ _)

theorem State.Side.setFw (h : State.Side l s t) (x : Nat) : State.Side l s (t.setFw x) := by
  unfold State.setFw
  split
  · exact h
  · exact (h.setRegBits (k := Reg.MBX_STATE) 7 0 x (.inl (by decide))).of_regs (State.hostEv_regs _ _)

theorem State.Side.post (h : State.Side l s t) (a b c d e f g : Nat) : State.Side l s (t.post a b c d e f g) := by
  unfold State.post
  split
  · exact h.bump (.inl (by decide))
  · dsimp only
    split
    · exact h.of_regs (State.hostEv_regs _ _)
    · exact h.of_regs rfl

theorem State.Side.postHd (h : State.Side l s t) (a b c : Nat) : State.Side l s (t.postHd a b c) := h.post ..
theorem State.Side.postRd (h : State.Side l s t) (a b c : Nat) : State.Side l s (t.postRd a b c) := h.post ..
theorem State.Side.outcome (h : State.Side l s t) (a b c : Nat) : State.Side l s (t.outcome a b c) := h.post ..

theorem State.Side.emit (h : State.Side l s t) (a b c d : Nat) : State.Side l s (t.emit a b c d) := by
  unfold State.emit
  split
  · dsimp only
    split
    · exact (h.bump (k := Reg.OBS_TRC_DROP_CNT) (.inl (by decide))).of_regs rfl
    · exact h.of_regs rfl
  · exact h

theorem State.Side.takeover (h : State.Side l s t) : State.Side l s t.takeover := by
  unfold State.takeover
  refine State.Side.syncState (State.Side.bump (State.Side.setReg ?_ _ (.inl (by decide))) (.inl (by decide)))
  exact h.of_regs rfl

theorem State.Side.cancelHandback (h : State.Side l s t) (c : Nat) : State.Side l s (t.cancelHandback c) := by
  unfold State.cancelHandback
  refine State.Side.syncState (State.Side.postRd ?_ _ _ _)
  exact h.of_regs rfl

theorem State.Side.doubtActs (h : State.Side l s t) (c : Nat) : State.Side l s (t.doubtActs c) := by
  unfold State.doubtActs
  split
  · exact h.takeover
  · exact h.cancelHandback c
  · exact h

theorem State.Side.enterSafe (h : State.Side l s t) : State.Side l s t.enterSafe := by
  unfold State.enterSafe
  refine State.Side.syncState ?_
  exact h.of_regs rfl

theorem State.Side.rindFirst (h : State.Side l s t) (c : Nat) : State.Side l s (t.rindFirst c) := by
  unfold State.rindFirst
  split
  · exact (h.setReg (k := Reg.RIND_DOUBT_FIRST) c (.inl (by decide))).of_regs rfl
  · exact h

/-- Every register a trigger latches lies in a snapshot area. -/
theorem snapVat_keys (s : State) (n : Nat) (h : n < 8) : ∀ e ∈ snapVat s n, sideKey e.1 = true := by
  intro e he
  simp only [snapVat, List.mem_append, List.mem_map, List.mem_range, List.mem_cons, List.not_mem_nil, or_false] at he
  unfold sideKey
  rw [Bool.or_eq_true]
  left
  rw [decide_eq_true_eq]
  rcases he with ⟨rfl | rfl | rfl | rfl | rfl⟩ | ⟨k, hk, rfl⟩ <;>
    simp only [Reg.VAT_SNP_PC, Reg.VAT_SNP_VCYC, Reg.VAT_SNP_STATUS, Reg.VAT_SNP_PRED, Reg.VAT_SNP_MVCNT, Reg.VAT_SNP_S, regKey] <;> omega

theorem snapCopies_keys : ∀ e ∈ snapCopies, sideKey e.1 = true := by decide +kernel

theorem snapParts_keys (s : State) : ∀ e ∈ snapParts s, sideKey e.1 = true := by
  intro e he
  simp only [snapParts, List.mem_append, List.mem_map, List.mem_range, List.mem_cons, List.not_mem_nil, or_false] at he
  unfold sideKey
  rw [Bool.or_eq_true]
  left
  rw [decide_eq_true_eq]
  rcases he with ((((⟨k, hk, rfl⟩ | rfl | rfl) | ⟨k, hk, rfl⟩) | ⟨k, hk, rfl⟩) | ⟨k, hk, rfl⟩) | rfl | rfl <;>
    simp only [Reg.HARP_SNP_FRAME, Reg.MIG_SNP_MISS, Reg.PLN_SNP_SEQ, Reg.ING_SNP_SEQ, Reg.LOOP_SNP_AX, Reg.FBX_SNP_IQ, Reg.CLK_SNP_M, Reg.CG_SNP_STATUS,
      regKey] <;> omega

theorem State.snapValues_keys (s : State) : ∀ e ∈ s.snapValues, sideKey e.1 = true := by
  intro e he
  simp only [State.snapValues, List.mem_append, List.mem_flatten, List.mem_map, List.mem_range] at he
  rcases he with (⟨l, ⟨n, hn, rfl⟩, h⟩ | ⟨p, hp, rfl⟩) | h
  · exact snapVat_keys s n hn e h
  · exact snapCopies_keys p hp
  · exact snapParts_keys s e h

theorem State.Side.snapshotFire (h : State.Side l s t) (n : Nat) : State.Side l s (t.snapshotFire n) := by
  unfold State.snapshotFire
  split
  · exact h
  · split
    · exact h.setReg _ (.inl (by decide))
    · split
      · lift_lets
        intro s1 s2 s3 s4 s5
        have h1 : State.Side l s s1 := State.Side.fold _ (fun x a ha hx => hx.setReg _ (.inl (t.snapValues_keys a ha))) h
        clear_value s1
        have h2 : State.Side l s s2 := h1.setReg _ (.inl (by decide))
        clear_value s2
        have h3 : State.Side l s s3 := h2.setReg _ (.inl (by decide))
        clear_value s3
        have h4 : State.Side l s s4 := h3.setReg _ (.inl (by decide))
        clear_value s4
        have h5 : State.Side l s s5 := h4.setReg _ (.inl (by decide))
        clear_value s5
        exact h5.of_regs rfl
      · exact h.bump (.inl (by decide))

theorem sideKey_count (c : Nat) (h : c < 32) : sideKey (Reg.SAF_DOUBT_CNT c) = true ∧ sideKey (Reg.RIND_DOUBT_CNT c) = true := by
  unfold sideKey
  simp only [Bool.or_eq_true, List.contains_iff_mem]
  constructor <;> refine .inr ?_ <;> unfold sideRegs <;> rw [List.mem_append, List.mem_append]
  · exact .inl (.inr (List.mem_map_of_mem (List.mem_range.2 h)))
  · exact .inr (List.mem_map_of_mem (List.mem_range.2 h))

/-- A doubt touches no register but those of sideKey. -/
theorem State.Side.raise (h : State.Side l s t) (c : Nat) (d : DoubtInfo) (hc : c < 0xA0) : State.Side l s (t.raise c d) := by
  have k := sideKey_count (c - 0x80) (by omega)
  unfold State.raise
  dsimp only
  split
  · split
    · exact h
    · split
      · exact h.bump (.inl k.2)
      · have a := State.Side.snapshotFire (State.Side.postRd (State.Side.hwSetBit (State.Side.rindFirst (h.bump (.inl k.2)) c)
          (k := Reg.RIND_DOUBT) (c - 0x80) (.inl (by decide))) 0 (d.blk * 256 + c) d.detail) 4
        split
        · exact (a.doubtActs 2).enterSafe
        · exact a.doubtActs 2
  · split
    · exact h.bump (.inl k.1)
    · have x : State.Side l s ((if t.noDoubtBits then (t.bump (Reg.SAF_DOUBT_CNT (c - 0x80))).setReg Reg.SAF_DOUBT_FIRST c
          else t.bump (Reg.SAF_DOUBT_CNT (c - 0x80))).hwSetBit Reg.SAF_DOUBT (c - 0x80)) :=
        State.Side.hwSetBit (State.Side.ite (fun _ => (h.bump (.inl k.1)).setReg (k := Reg.SAF_DOUBT_FIRST) c (.inl (by decide)))
          (fun _ => h.bump (.inl k.1))) _ (.inl (by decide))
      generalize (State.hwSetBit (if t.noDoubtBits then (t.bump (Reg.SAF_DOUBT_CNT (c - 0x80))).setReg Reg.SAF_DOUBT_FIRST c
          else t.bump (Reg.SAF_DOUBT_CNT (c - 0x80))) Reg.SAF_DOUBT (c - 0x80)) = w at x ⊢
      refine State.Side.syncState (State.Side.snapshotFire (State.Side.emit (State.Side.postHd ?_ _ _ _) _ _ _ _) _)
      exact x.of_regs rfl

end Sys2Proof.Machine
end

