-- ==== Sys2Proof/Laws/Slots.lean ====
section
/-! SUPPORT. What the ends and begins of slots leave as it is in the frame table's own state: its first registers and all but the runs and resets. -/

namespace Sys2Proof.Machine

/-- Every register but FRT_ID to FRT_LOAD_LEN, FRT_STATUS, FRT_CTRL, FRT_FRAME_CNT and FRT_SLOT_NOW among them. -/
def frtOther (k : Nat) : Prop := k < 0x200000 ∨ 0x20003F < k

/-- The frame table is as before, runs and resets aside, and so are its first registers. -/
structure State.Slot (s t : State) : Prop where
  side : State.Side frtOther s t
  frt : t.frt = { s.frt with runs := t.frt.runs, resets := t.frt.resets }

variable {s t u : State}

theorem State.Slot.refl (h : mapWf 0 s.regs = true) : State.Slot s s := ⟨.refl h, rfl⟩

theorem State.Slot.trans (h : State.Slot s t) (g : State.Slot t u) : State.Slot s u := ⟨h.side.trans g.side, by rw [g.frt, h.frt]⟩

theorem State.Slot.of_eq (h : State.Slot s t) (e : u.regs = t.regs) (f : u.frt = t.frt) : State.Slot s u := ⟨h.side.of_regs e, by rw [f]; exact h.frt⟩

theorem State.Slot.ite {c : Prop} [Decidable c] {a b : State} (h : c → State.Slot s a) (g : ¬c → State.Slot s b) : State.Slot s (if c then a else b) := by
  split <;> solve_by_elim

theorem State.Slot.fold {α : Type} {f : State → α → State} (ls : List α) (hf : ∀ (x : State) (a : α), State.Slot s x → State.Slot s (f x a))
    (h : State.Slot s t) : State.Slot s (ls.foldl f t) := by
  induction ls generalizing t with
  | nil => exact h
  | cons a r ih => exact ih (hf t a h)

theorem State.Slot.setReg (h : State.Slot s t) {k : Nat} (v : Nat) (hk : frtOther k) : State.Slot s (t.setReg k v) :=
  ⟨h.side.setReg v (.inr hk), h.frt⟩
theorem State.Slot.bump (h : State.Slot s t) {k : Nat} (hk : frtOther k) : State.Slot s (t.bump k) := h.setReg _ hk

/-! ### The frame table through doubts, records and trace packets -/

theorem State.hostEv_frt (s : State) (m : Nat) : (s.hostEv m).frt = s.frt := by unfold State.hostEv; split <;> rfl
theorem State.syncState_frt (s : State) : s.syncState.frt = s.frt := by
  unfold State.syncState
  split
  · rfl
  · rw [State.hostEv_frt]
    exact State.setReg_frt ..

theorem State.emit_frt (s : State) (a b c d : Nat) : (s.emit a b c d).frt = s.frt := by
  unfold State.emit
  simp only [apply_ite State.frt, State.bump_frt, ite_self]

theorem State.post_frt (s : State) (a b c d e f g : Nat) : (s.post a b c d e f g).frt = s.frt := by
  unfold State.post
  split
  · rw [State.bump_frt]
  · dsimp only
    split
    · rw [State.hostEv_frt]
    · rfl

theorem State.postHd_frt (s : State) (a b c : Nat) : (s.postHd a b c).frt = s.frt := State.post_frt ..
theorem State.postRd_frt (s : State) (a b c : Nat) : (s.postRd a b c).frt = s.frt := State.post_frt ..

theorem State.latch_frt (l : List (Nat × Nat)) (s : State) : (l.foldl (fun t e => t.setReg e.1 e.2) s).frt = s.frt := by
  induction l generalizing s with
  | nil => rfl
  | cons e r ih => rw [List.foldl_cons, ih, State.setReg_frt]

theorem State.snapshotFire_frt (s : State) (n : Nat) : (s.snapshotFire n).frt = s.frt := by
  unfold State.snapshotFire
  split
  · rfl
  · split
    · exact State.setReg_frt ..
    · split
      · lift_lets
        intro s1 s2 s3 s4 s5
        have h1 : s1.frt = s.frt := State.latch_frt _ _
        clear_value s1
        have h2 : s2.frt = s1.frt := State.setReg_frt ..
        clear_value s2
        have h3 : s3.frt = s2.frt := State.setReg_frt ..
        clear_value s3
        have h4 : s4.frt = s3.frt := State.setReg_frt ..
        clear_value s4
        have h5 : s5.frt = s4.frt := State.setReg_frt ..
        clear_value s5
        exact h5.trans (h4.trans (h3.trans (h2.trans h1)))
      · exact State.bump_frt ..

theorem State.takeover_frt (s : State) : s.takeover.frt = s.frt := by
  unfold State.takeover
  simp only [State.syncState_frt, State.bump_frt, State.setReg_frt]

theorem State.doubtActs_frt (s : State) (c : Nat) : (s.doubtActs c).frt = s.frt := by
  unfold State.doubtActs
  split
  · exact s.takeover_frt
  · unfold State.cancelHandback State.tellHandback
    simp only [State.syncState_frt, State.postRd_frt]
  · rfl

theorem State.rindFirst_frt (s : State) (c : Nat) : (s.rindFirst c).frt = s.frt := by
  unfold State.rindFirst
  split <;> rfl

theorem State.enterSafe_frt (s : State) : s.enterSafe.frt = s.frt := by
  unfold State.enterSafe
  rw [State.syncState_frt]

theorem State.raise_frt (s : State) (c : Nat) (d : DoubtInfo) : (s.raise c d).frt = s.frt := by
  unfold State.raise
  lift_lets
  intro k s1 s2 s3 s4 s5 a1 a2 a3 src a4 a5
  have h1 : s1.frt = s.frt := State.bump_frt ..
  have h2 : s2.frt = s1.frt := State.rindFirst_frt ..
  have h3 : s3.frt = s2.frt := State.hwSetBit_frt ..
  have h4 : s4.frt = s3.frt := State.postRd_frt ..
  have h5 : s5.frt = s4.frt := State.snapshotFire_frt ..
  have g1 : a1.frt = s.frt := State.bump_frt ..
  have g2 : a2.frt = a1.frt := by
    unfold a2
    split
    · exact State.setReg_frt a1 _ _
    · rfl
  have g3 : a3.frt = a2.frt := State.hwSetBit_frt ..
  clear_value a3
  have g4 : a4.frt = a3.frt := rfl
  clear_value a4
  have g5 : a5.frt = a4.frt := State.postHd_frt ..
  clear_value s5 s4 s3 s2 s1 a5 a2 a1
  split
  · split
    · rfl
    · split
      · exact h1
      · split
        · rw [State.enterSafe_frt, State.doubtActs_frt, h5, h4, h3, h2, h1]
        · rw [State.doubtActs_frt, h5, h4, h3, h2, h1]
  · split
    · exact g1
    · rw [State.syncState_frt, State.snapshotFire_frt, State.emit_frt, g5, g4, g3, g2, g1]

theorem State.Slot.emit (h : State.Slot s t) (a b c d : Nat) : State.Slot s (t.emit a b c d) :=
  ⟨h.side.emit a b c d, by rw [State.emit_frt]; exact h.frt⟩
theorem State.Slot.syncState (h : State.Slot s t) : State.Slot s t.syncState := ⟨h.side.syncState, by rw [State.syncState_frt]; exact h.frt⟩
theorem State.Slot.outcome (h : State.Slot s t) (a b c : Nat) : State.Slot s (t.outcome a b c) :=
  ⟨h.side.outcome a b c, by rw [show (t.outcome a b c).frt = t.frt from State.post_frt ..]; exact h.frt⟩
theorem State.Slot.raise (h : State.Slot s t) (c : Nat) (d : DoubtInfo) (hc : c < 0xA0) : State.Slot s (t.raise c d) :=
  ⟨h.side.raise c d hc, by rw [State.raise_frt]; exact h.frt⟩

theorem State.Slot.modRun (h : State.Slot s t) (v : Nat) (f : SlotRun → SlotRun) : State.Slot s (t.modRun v f) :=
  ⟨h.side.of_regs rfl, by rw [show (t.modRun v f).frt = { t.frt with runs := listModify f t.frt.runs v } from rfl, h.frt]⟩

theorem State.Slot.resets (h : State.Slot s t) (l : List PartReset) : State.Slot s { t with frt := { t.frt with resets := l } } :=
  ⟨h.side.of_regs rfl, by rw [show State.frt { t with frt := { t.frt with resets := l } } = { t.frt with resets := l } from rfl, h.frt]⟩

theorem State.Slot.setVatState (h : State.Slot s t) (v hi lo x : Nat) : State.Slot s (t.setVatState v hi lo x) :=
  h.setReg _ (.inr (by simp only [Reg.FRT_VAT_STATE, regKey]; omega))

theorem State.Slot.noKernel (h : State.Slot s t) (v : Nat) : State.Slot s (t.noKernel v) :=
  ((h.setVatState v 47 36 0xFFF).setVatState v 35 32 0).setVatState v 31 31 0

/-! ### Ends of slots -/

theorem State.Slot.raw (h : State.Slot s t) {k : Nat} (v : Nat) (hk : frtOther k) : State.Slot s (t.setReg k v) := h.setReg v hk

theorem State.Slot.stopIssue (h : State.Slot s t) (v : Nat) : State.Slot s (t.stopIssue v) := h.of_eq rfl rfl

theorem State.Slot.modVat (h : State.Slot s t) (v : Nat) (f : Vat → Vat) : State.Slot s (t.modVat v f) := h.of_eq rfl rfl

theorem State.Slot.modWalker (h : State.Slot s t) (v : Nat) (f : Walker → Walker) : State.Slot s (t.modWalker v f) := h.of_eq rfl rfl

theorem State.Slot.modSwap (h : State.Slot s t) (v : Nat) (f : SwapEng → SwapEng) : State.Slot s (t.modSwap v f) := h.of_eq rfl rfl

theorem State.Slot.modCore (h : State.Slot s t) (v : Nat) (f : VatCore → VatCore) : State.Slot s (t.modCore v f) := h.of_eq rfl rfl

theorem State.Slot.store (h : State.Slot s t) (a : Nat) (l : List Byte) : State.Slot s (t.store a l) := h.of_eq rfl rfl

theorem State.Slot.diag (h : State.Slot s t) (d : Diag) : State.Slot s { t with diag := d } := h.of_eq rfl rfl

theorem State.Slot.endSlice (h : State.Slot s t) (v : Nat) : State.Slot s (t.endSlice v) := h.of_eq rfl rfl

theorem State.Slot.statusWord (h : State.Slot s t) (k c : Nat) : State.Slot s (t.statusWord k c) := h.of_eq rfl rfl

theorem State.Slot.bumpSt (h : State.Slot s t) (v lo : Nat) : State.Slot s (t.bumpSt v lo) := by
  unfold State.bumpSt
  exact h.setReg _ (.inr (by simp only [Reg.SAF_ST_CNT, regKey]; omega))

theorem State.Slot.goldOutcome (h : State.Slot s t) (d r : Nat) : State.Slot s (t.goldOutcome d r) := by
  unfold State.goldOutcome
  lift_lets
  intro key w miss a
  have ha : State.Slot s a := h.setReg _ (.inr (by simp only [key, Reg.SAF_GOLD_STAT, regKey]; omega))
  clear_value a
  split
  · split
    · exact ha.raise 0x86 _ (by omega)
    · exact ha.bump (.inr (by decide))
  · exact ha

theorem State.Slot.cutKernel (h : State.Slot s t) (v : Nat) : State.Slot s (t.cutKernel v) := by
  unfold State.cutKernel
  lift_lets
  intro k a b
  have ha : State.Slot s a := ((h.stopIssue v).statusWord k stPreempted).bump (.inr (by decide))
  clear_value a
  have hb : State.Slot s b := State.Slot.noKernel (State.Slot.modVat ha v _) v
  clear_value b
  exact (hb.setVatState v 30 30 1).emit ..

theorem State.Slot.lcMiss (h : State.Slot s t) (v : Nat) : State.Slot s (t.lcMiss v) := by
  unfold State.lcMiss
  lift_lets
  intro k a b c
  have ha : State.Slot s a := ((h.stopIssue v).statusWord k stDeadlineMiss).bump (.inr (by decide))
  clear_value a
  have hb : State.Slot s b := ha.of_eq rfl rfl
  clear_value b
  have hc : State.Slot s c :=
    State.Slot.modRun (State.Slot.noKernel (State.Slot.modVat hb v _) v) v _
  clear_value c
  exact ((hc.setVatState v 30 30 1).emit ..).raise 0x8A _ (by omega)

theorem State.Slot.sliceCut (h : State.Slot s t) (v : Nat) : State.Slot s (t.sliceCut v) := by
  unfold State.sliceCut
  lift_lets
  intro a
  have ha : State.Slot s a := State.Slot.noKernel
    (State.Slot.modVat (h.stopIssue v) v _) v
  clear_value a
  exact State.Slot.setVatState (State.Slot.modRun (State.Slot.bumpSt (ha.endSlice v) v 16) v _) v 30 30 1

theorem State.Slot.goldCut (h : State.Slot s t) (v : Nat) : State.Slot s (t.goldCut v) := by
  unfold State.goldCut
  lift_lets
  intro d a
  have ha : State.Slot s a := State.Slot.noKernel
    (State.Slot.modVat (h.stopIssue v) v _) v
  clear_value a
  exact ((ha.goldOutcome d 3).modRun v _).setVatState v 30 30 1

theorem State.Slot.cutAt (h : State.Slot s t) (v n : Nat) : State.Slot s (t.cutAt v n) := by
  unfold State.cutAt
  split
  · exact State.Slot.ite (fun _ => h.cutKernel v) (fun _ => h)
  · exact State.Slot.ite (fun _ => h) (fun _ => State.Slot.ite (fun _ => h.sliceCut v) (fun _ => State.Slot.ite (fun _ => h.goldCut v) (fun _ => h)))

theorem State.Slot.overrunAt (h : State.Slot s t) (v n : Nat) : State.Slot s (t.overrunAt v n) :=
  State.Slot.ite (fun _ => h.lcMiss v) (fun _ => h)

theorem State.Slot.goldDrop (h : State.Slot s t) (e v o : Nat) : State.Slot s (t.goldDrop e v o) := by
  unfold State.goldDrop
  lift_lets
  intro a
  have ha : State.Slot s a := State.Slot.of_eq (t := t.setReg (Reg.HARP_GOLD_SIG e) 0) (h.setReg 0 (.inr (by simp only [Reg.HARP_GOLD_SIG, regKey]; omega))) rfl rfl
  clear_value a
  exact (ha.goldOutcome ..).modRun ..

theorem State.Slot.harpGoldEnd (h : State.Slot s t) (v : Nat) : State.Slot s (t.harpGoldEnd v) := by
  unfold State.harpGoldEnd
  lift_lets
  intro o d res
  exact State.Slot.ite (fun _ => State.Slot.ite (fun _ => h.goldDrop ..) (fun _ => (h.goldOutcome ..).modRun ..)) (fun _ => h)

theorem State.Slot.winClose (h : State.Slot s t) (v : Nat) : State.Slot s (t.winClose v) := by
  unfold State.winClose
  exact State.Slot.ite (fun _ => h.bump (.inr (by simp only [Reg.CLK_DROOP_OVER, regKey]; omega))) (fun _ => h)

theorem State.Slot.endSlot (h : State.Slot s t) (v : Nat) : State.Slot s (t.endSlot v) := by
  unfold State.endSlot
  lift_lets
  intro a
  have ha : State.Slot s a := (h.overrunAt v _).cutAt v _
  clear_value a
  exact State.Slot.ite (fun _ => State.Slot.ite (fun _ => ha.winClose v) (fun _ => ha.harpGoldEnd v)) (fun _ => ha)

/-! ### Resets and begins of slots -/

theorem State.Slot.setStrSt (h : State.Slot s t) (v m x : Nat) : State.Slot s (t.setStrSt v m x) :=
  h.setReg _ (.inr (by simp only [Reg.SCN_STR_STATE, regKey]; omega))

theorem State.Slot.nextOut (h : State.Slot s t) (v : Nat) : State.Slot s (t.nextOut v) := by
  unfold State.nextOut
  repeat' first
    | with_reducible assumption
    | split
    | (intro x; clear_value x)
    | lift_lets -underBinder
    | (refine State.Slot.of_eq h ?_ ?_ <;> rfl)

theorem State.Slot.failStreams (h : State.Slot s t) (v : Nat) (ok : Nat → Bool) : State.Slot s (t.failStreams v ok) := by
  unfold State.failStreams
  lift_lets
  intro c a b
  have ha : State.Slot s a := by
    unfold a
    split
    · exact State.Slot.ite (fun _ => h) (fun _ => State.Slot.modCore (State.Slot.modSwap (State.Slot.ite (fun _ => h) (fun _ => h.store ..)) v _) v _)
    · exact h
  clear_value a
  have hb : State.Slot s b := ha.of_eq rfl rfl
  clear_value b
  exact State.Slot.nextOut (State.Slot.fold _ (fun _ m hx => State.Slot.ite (fun _ => hx.setStrSt v m 4) (fun _ => hx)) hb) v

theorem State.Slot.dropUnlocked (h : State.Slot s t) (v : Nat) (ls : List Nat) : State.Slot s (t.dropUnlocked v ls) :=
  State.Slot.fold _ (fun _ m hx => State.Slot.ite (fun _ => hx.setStrSt v m 4) (fun _ => hx)) h

theorem State.Slot.vatResetBegin (h : State.Slot s t) (v : Nat) : State.Slot s (t.vatResetBegin v) := by
  unfold State.vatResetBegin
  lift_lets
  intro a cc b c
  have ha : State.Slot s a := ((h.stopIssue v).endSlice v).failStreams v _
  clear_value a
  have hb : State.Slot s b := ha.modVat v _
  clear_value b
  have hc : State.Slot s c := hb.of_eq rfl rfl
  clear_value c
  exact ((hc.noKernel v).modRun v _).setVatState v 29 29 1

theorem State.Slot.partResetBegin (h : State.Slot s t) (p : Nat) : State.Slot s (t.partResetBegin p) := by
  unfold State.partResetBegin
  refine State.Slot.fold _ (fun x v hx => ?_) h
  lift_lets
  intro a
  have ha : State.Slot s a := State.Slot.ite (fun _ => State.Slot.modRun (State.Slot.noKernel
    (State.Slot.modVat (hx.stopIssue v) v _) v) v _) (fun _ => hx)
  clear_value a
  exact (ha.failStreams v _).modVat v _

theorem State.Slot.beginResets (h : State.Slot s t) (e : Nat) : State.Slot s (t.beginResets e) := by
  unfold State.beginResets
  lift_lets
  intro new a
  have ha : State.Slot s a := State.Slot.fold _ (fun x r hx => State.Slot.ite (fun _ => hx.vatResetBegin _) (fun _ => hx.partResetBegin _)) h
  clear_value a
  exact ha.resets _

theorem State.Slot.endReset (h : State.Slot s t) (r : PartReset) : State.Slot s (t.endReset r) := by
  unfold State.endReset
  lift_lets
  intro ft a
  have ha : State.Slot s a := h.resets _
  clear_value a
  refine State.Slot.ite (fun _ => (ha.setVatState ..).modRun ..) (fun _ => State.Slot.fold _ (fun x f hx => ?_) ha)
  exact State.Slot.ite (fun _ => hx.setReg _ (.inr (by simp only [Reg.FRT_FILL_CUR, regKey]; omega))) (fun _ => hx)

theorem State.Slot.startKernel (h : State.Slot s t) (v k p e x : Nat) : State.Slot s (t.startKernel v k p e x) := by
  unfold State.startKernel
  lift_lets
  intro ls a b c dg d
  have ha : State.Slot s a := by
    unfold a State.walkStart
    lift_lets
    intro y
    exact State.Slot.setReg (k := Reg.ATT_RING_HEAD v) ((h.dropUnlocked v ls).modWalker v _) 0 (.inr (by simp only [Reg.ATT_RING_HEAD, regKey]; omega))
  clear_value a
  have hb : State.Slot s b := ha.of_eq rfl rfl
  clear_value b
  have hc : State.Slot s c := ((hb.setVatState v 47 36 k).setVatState v 35 32 p).setVatState v 30 30 0
  clear_value c
  have hd : State.Slot s d := hc.of_eq rfl rfl
  clear_value d
  exact (hd.modRun v _).emit ..

theorem State.Slot.beginWindow (h : State.Slot s t) (v n : Nat) : State.Slot s (t.beginWindow v n) := by
  unfold State.beginWindow
  lift_lets
  intro e o a b b' d
  have ha : State.Slot s a := h.modRun ..
  clear_value a
  have hb : State.Slot s b := ha.setVatState ..
  clear_value b
  have hb' : State.Slot s b' := hb.of_eq rfl rfl
  clear_value b'
  refine State.Slot.ite (fun _ => State.Slot.ite (fun _ => hb'.modRun ..) (fun _ => hb'.startKernel ..)) (fun _ => State.Slot.ite (fun _ => hb.modRun ..)
    (fun _ => State.Slot.ite (fun _ => hb.of_eq rfl rfl) (fun _ => State.Slot.ite (fun _ => State.Slot.ite (fun _ => State.Slot.ite (fun _ => hb) (fun _ =>
      hb.startKernel ..)) (fun _ => hb.of_eq rfl rfl)) (fun _ => hb.modRun ..))))

theorem State.Slot.beginVat (h : State.Slot s t) (n v : Nat) : State.Slot s (State.beginVat n t v) := by
  unfold State.beginVat
  lift_lets
  intro e a
  have ha : State.Slot s a := ((h.setVatState ..).setVatState ..).setVatState ..
  clear_value a
  exact State.Slot.ite (fun _ => ha) (fun _ => State.Slot.ite (fun _ => State.Slot.ite (fun _ => ha) (fun _ => (ha.modRun ..).setVatState ..))
    (fun _ => State.Slot.ite (fun _ => ha.beginWindow ..) (fun _ => ha)))

theorem State.Slot.showSlices (h : State.Slot s t) (v : Nat) : State.Slot s (t.showSlices v) :=
  h.setReg _ (.inr (by simp only [Reg.SAF_ST_STATE, regKey]; omega))

theorem State.Slot.passStart (h : State.Slot s t) (w : Bool) (v : Nat) : State.Slot s (State.passStart w t v) := by
  unfold State.passStart
  repeat' first
    | with_reducible assumption
    | (intro x; first
        | (refine (have hx : State.Slot s x := ?_; ?_); subst x; rotate_left; clear_value x; rotate_right)
        | (try clear_value x))
    | lift_lets -underBinder
    | (refine State.Slot.raise ?_ _ _ (by omega))
    | with_reducible apply State.Slot.showSlices
    | (refine State.Slot.setReg (k := Reg.SAF_ST_STATE v) ?_ _ (.inr (by simp only [Reg.SAF_ST_STATE, regKey]; omega)))
    | split
    | with_reducible apply State.Slot.diag

/-! ### What they leave as it is -/

theorem State.Slot.reg (h : State.Slot s t) {k : Nat} (a : 0x200000 ≤ k := by decide) (b : k ≤ 0x20003F := by decide) (c : sideKey k = false := by decide) :
    t.reg k = s.reg k := h.side.2 k c (by unfold frtOther; omega)

theorem State.Slot.status (h : State.Slot s t) : t.reg Reg.FRT_STATUS = s.reg Reg.FRT_STATUS := h.reg
theorem State.Slot.frame (h : State.Slot s t) : t.reg Reg.FRT_FRAME_CNT = s.reg Reg.FRT_FRAME_CNT := h.reg
theorem State.Slot.slot (h : State.Slot s t) : t.reg Reg.FRT_SLOT_NOW = s.reg Reg.FRT_SLOT_NOW := h.reg

theorem State.Slot.bank (h : State.Slot s t) (b : Nat) : t.bank b = s.bank b := by
  unfold State.bank
  rw [h.frt]

theorem State.Slot.tableValid (h : State.Slot s t) : t.tableValid = s.tableValid := by unfold State.tableValid; rw [h.status]
theorem State.Slot.activeBank (h : State.Slot s t) : t.activeBank = s.activeBank := by unfold State.activeBank State.regBits; rw [h.status]
theorem State.Slot.table (h : State.Slot s t) : t.table = s.table := by unfold State.table; rw [h.tableValid, h.activeBank, h.bank]
theorem State.Slot.slotNow (h : State.Slot s t) : t.slotNow = s.slotNow := by unfold State.slotNow State.regBits; rw [h.slot]
theorem State.Slot.idleBank (h : State.Slot s t) : t.idleBank = s.idleBank := by unfold State.idleBank; rw [h.tableValid, h.frame, h.activeBank]
theorem State.Slot.nextTable (h : State.Slot s t) : t.nextTable = s.nextTable := by unfold State.nextTable; rw [h.idleBank, h.bank]
theorem State.Slot.switchPending (h : State.Slot s t) : t.switchPending = s.switchPending := by unfold State.switchPending; rw [h.status]
theorem State.Slot.switchTakes (h : State.Slot s t) (e : Nat) : t.switchTakes e = s.switchTakes e := by
  unfold State.switchTakes
  rw [h.switchPending, h.frt]

/-- Slot n begins in FCLK cycle e: the slot number, its start and the trim length are new; the frame's own registers and fields stay. -/
theorem State.slotBegin_fields (h : mapWf 0 s.regs = true) (n e : Nat) (hn : n < 65536) :
    ∀ t, t = s.slotBegin n e →
    mapWf 0 t.regs = true ∧ t.slotNow = n ∧ t.frt.slotStart = e ∧ t.reg Reg.FRT_FRAME_CNT = s.reg Reg.FRT_FRAME_CNT ∧ t.reg Reg.FRT_STATUS = s.reg Reg.FRT_STATUS ∧
      t.frt = { s.frt with slotStart := t.frt.slotStart, trimLen := t.frt.trimLen, runs := t.frt.runs, resets := t.frt.resets } := by
  intro r hr
  unfold State.slotBegin at hr
  revert hr
  lift_lets
  intro a f b tt want lim d x y ff c
  have wa : mapWf 0 a.regs = true := mapWf_mapSet h
  have ha : a.reg Reg.FRT_SLOT_NOW = putBits (s.reg Reg.FRT_SLOT_NOW) 15 0 n := (State.setReg_reg h).trans (if_pos rfl)
  have hb : ∀ k, k ≠ Reg.FRT_SLOT_NOW → a.reg k = s.reg k := fun k hk => (State.setReg_reg h).trans (if_neg hk)
  have hf : a.frt = s.frt := rfl
  clear_value a
  have hc : mapWf 0 c.regs = true ∧ c.reg Reg.FRT_SLOT_NOW = a.reg Reg.FRT_SLOT_NOW ∧ c.reg Reg.FRT_FRAME_CNT = a.reg Reg.FRT_FRAME_CNT ∧
      c.reg Reg.FRT_STATUS = a.reg Reg.FRT_STATUS ∧ c.frt = { a.frt with slotStart := e, trimLen := c.frt.trimLen } := by
    have wb : mapWf 0 b.regs = true := wa
    have hx : mapWf 0 x.regs = true := mapWf_mapSet wb
    have hx2 : ∀ k, k ≠ Reg.FRT_TRIM_LAST → x.reg k = b.reg k := fun k hk => (State.setReg_reg wb).trans (if_neg hk)
    have fx : x.frt = b.frt := rfl
    have bf : b.frt = { a.frt with slotStart := e, trimLen := none } := rfl
    have br : ∀ k, b.reg k = a.reg k := fun k => rfl
    clear_value b x
    have hy : mapWf 0 y.regs = true ∧ (∀ k, k ≠ Reg.FRT_SLIP_CNT → y.reg k = x.reg k) ∧ y.frt = x.frt := by
      unfold y
      split
      · exact ⟨hx, fun _ _ => rfl, rfl⟩
      · exact ⟨mapWf_mapSet hx, fun k hk => (State.setReg_reg hx).trans (if_neg hk), rfl⟩
    clear_value y
    unfold c
    split
    · refine ⟨hy.1, ?_, ?_, ?_, ?_⟩
      · show y.reg _ = _
        rw [hy.2.1 _ (by decide), hx2 _ (by decide), br]
      · show y.reg _ = _
        rw [hy.2.1 _ (by decide), hx2 _ (by decide), br]
      · show y.reg _ = _
        rw [hy.2.1 _ (by decide), hx2 _ (by decide), br]
      · show ({ y.frt with trimLen := _ } : FrameTab) = _
        rw [hy.2.2, fx, bf]
    · exact ⟨wb, br _, br _, br _, by rw [bf]⟩
  clear_value c
  intro fr hr
  have hs : State.Slot c r := hr ▸ State.Slot.emit (State.Slot.fold _ (fun y v hy => hy.beginVat n v) ((State.Slot.refl hc.1).beginResets e)) ..
  refine ⟨hs.side.1, ?_, ?_, ?_, ?_, ?_⟩
  · unfold State.slotNow State.regBits
    rw [hs.slot, hc.2.1, ha, bits_putBits]
    exact Nat.mod_eq_of_lt hn
  · rw [hs.frt, hc.2.2.2.2]
  · rw [hs.frame, hc.2.2.1, hb _ (by decide)]
  · rw [hs.status, hc.2.2.2.1, hb _ (by decide)]
  · rw [hs.frt, hc.2.2.2.2, hf]


theorem State.slotCount_lt (s : State) : s.slotCount < 65536 := fieldLE_lt _ _ 2

theorem State.Slot.heartbeats (h : State.Slot s t) : State.Slot s t.heartbeats := by
  unfold State.heartbeats
  refine State.Slot.ite (fun _ => h) (fun _ => State.Slot.fold _ (fun x d hx => ?_) h)
  split
  · exact State.Slot.ite (fun _ => hx) (fun _ => hx.of_eq rfl rfl)
  · exact hx

theorem State.Slot.belowMin (h : State.Slot s t) : State.Slot s t.belowMin := by
  unfold State.belowMin
  lift_lets
  intro now a
  have ha : State.Slot s a := h.setReg _ (.inr (by decide))
  clear_value a
  exact State.Slot.ite (fun _ => ha.outcome ..) (fun _ => ha)

/-- The counters of a protected memory are none of the frame table's first registers. -/
theorem eccRegs_other {w b ce ue lg : Nat} (h : eccRegs w = some (b, ce, ue, lg)) : frtOther ce ∧ frtOther ue := by
  unfold eccRegs at h
  split at h <;> cases h
  all_goals
    simp only [frtOther, Reg.LAKE_CE_CNT, Reg.LAKE_UE_CNT, Reg.VAT_POND_CE_CNT, Reg.VAT_POND_UE_CNT, Reg.MBX_HS_CE_CNT, Reg.MBX_HS_UE_CNT, Reg.MBX_GS_CE_CNT,
      Reg.MBX_GS_UE_CNT, regKey]
    omega

theorem State.Slot.correct (h : State.Slot s t) (w : Nat) : State.Slot s (t.correct w) := by
  unfold State.correct
  split
  · rename_i b ce ue lg e
    unfold State.countCE
    lift_lets
    intro a
    have ha : State.Slot s a := (h.bump (eccRegs_other e).1).of_eq rfl rfl
    clear_value a
    exact State.Slot.ite (fun _ => ha.outcome ..) (fun _ => ha)
  · exact h

theorem State.Slot.uncorrectable (h : State.Slot s t) (w q : Nat) (d : DoubtInfo) : State.Slot s (t.uncorrectable w q d) := by
  unfold State.uncorrectable
  split
  · rename_i b ce ue lg e
    lift_lets
    intro a
    have ha : State.Slot s a := (h.bump (eccRegs_other e).2).of_eq rfl rfl
    clear_value a
    exact State.Slot.ite (fun _ => ha.raise 0x89 _ (by omega)) (fun _ => ha)
  · exact h

/-- What a read corrects, records and doubts. -/
theorem State.Slot.eccRead (h : State.Slot s t) (a n q : Nat) (d : DoubtInfo) : State.Slot s (t.eccRead a n q d) :=
  State.Slot.fold _ (fun _ _ hx => hx.uncorrectable ..) (State.Slot.fold _ (fun _ _ hx => hx.correct _) h)

theorem State.Slot.relayPump (h : State.Slot s t) : State.Slot s t.relayPump := by
  unfold State.relayPump
  lift_lets
  intro r
  refine State.Slot.ite (fun _ => h) (fun _ => ?_)
  split
  · exact h
  · rename_i k hk
    have hk8 : k < 8 := List.mem_range.1 (List.mem_of_find?_eq_some hk)
    lift_lets
    intro g
    have hg : g.slot = k := rfl
    clear_value g
    have hx : State.Slot s (t.cgStatus g 1 0 0 0) := h.setReg _ (.inl (by rw [hg]; simp only [Reg.CG_STATUS, regKey]; omega))
    generalize t.cgStatus g 1 0 0 0 = x at hx ⊢
    exact hx.of_eq rfl rfl

theorem State.Slot.relayPoll (h : State.Slot s t) : State.Slot s t.relayPoll := by
  unfold State.relayPoll
  lift_lets
  intro r v buf n a
  have ha : State.Slot s a := h.eccRead ..
  clear_value a
  exact State.Slot.ite (fun _ => h.relayPump) (fun _ => State.Slot.ite (fun _ => ha) (fun _ => State.Slot.relayPump (ha.of_eq rfl rfl)))

/-- What a frame begins with before its passes and its slot 0. -/
theorem State.frameBegin_eq (h : mapWf 0 s.regs = true) (w : Bool) (k : Int) (e : Nat) :
    ∃ c : State, s.frameBegin w k e = (((List.range 8).foldl (State.passStart w) c).slotBegin 0 e).heartbeats ∧ mapWf 0 c.regs = true ∧
      c.reg Reg.FRT_FRAME_CNT = (s.reg Reg.FRT_FRAME_CNT + 1) % 2 ^ 64 ∧ (∃ b, c.reg Reg.FRT_STATUS = putBit (s.reg Reg.FRT_STATUS) 6 b) ∧
      c.frt = { s.frt with instant := k, frameStart := e } := by
  unfold State.frameBegin
  refine ⟨_, rfl, ?_⟩
  have wa : mapWf 0 (s.setReg Reg.FRT_FRAME_CNT ((s.reg Reg.FRT_FRAME_CNT + 1) % 2 ^ 64)).regs = true := mapWf_mapSet h
  have ha : (s.setReg Reg.FRT_FRAME_CNT ((s.reg Reg.FRT_FRAME_CNT + 1) % 2 ^ 64)).reg Reg.FRT_FRAME_CNT = (s.reg Reg.FRT_FRAME_CNT + 1) % 2 ^ 64 :=
    (State.setReg_reg h).trans (if_pos rfl)
  have ha2 : (s.setReg Reg.FRT_FRAME_CNT ((s.reg Reg.FRT_FRAME_CNT + 1) % 2 ^ 64)).reg Reg.FRT_STATUS = s.reg Reg.FRT_STATUS :=
    (State.setReg_reg h).trans (if_neg (by decide))
  have fa : (s.setReg Reg.FRT_FRAME_CNT ((s.reg Reg.FRT_FRAME_CNT + 1) % 2 ^ 64)).frt = s.frt := State.setReg_frt ..
  generalize s.setReg Reg.FRT_FRAME_CNT ((s.reg Reg.FRT_FRAME_CNT + 1) % 2 ^ 64) = a at wa ha ha2 fa ⊢
  refine ⟨mapWf_mapSet wa, ((State.setReg_reg wa).trans (if_neg (by decide))).trans ha, ⟨_, ((State.setReg_reg wa).trans (if_pos rfl)).trans (by rw [ha2])⟩, ?_⟩
  show ({ a.frt with instant := k, frameStart := e } : FrameTab) = _
  rw [fa]

/-- A frame of instant k begins in FCLK cycle e: slot 0, the frame count, SLIP and the frame's own fields; the rest of the frame table stays. -/
theorem State.frameBegin_fields (h : mapWf 0 s.regs = true) (w : Bool) (k : Int) (e : Nat) :
    ∀ t, t = s.frameBegin w k e →
    mapWf 0 t.regs = true ∧ t.slotNow = 0 ∧ t.reg Reg.FRT_FRAME_CNT = (s.reg Reg.FRT_FRAME_CNT + 1) % 2 ^ 64 ∧
      (∃ b, t.reg Reg.FRT_STATUS = putBit (s.reg Reg.FRT_STATUS) 6 b) ∧
      t.frt = { s.frt with instant := k, frameStart := e, slotStart := e, trimLen := t.frt.trimLen, runs := t.frt.runs, resets := t.frt.resets } := by
  intro r hr
  obtain ⟨c, he, wc, c1, c2, fc⟩ := State.frameBegin_eq h w k e
  rw [he] at hr
  have hp : State.Slot c ((List.range 8).foldl (State.passStart w) c) := State.Slot.fold _ (fun x v hx => hx.passStart w v) (.refl wc)
  generalize (List.range 8).foldl (State.passStart w) c = p at hp hr
  obtain ⟨h1, h2, h3, h4, h5, h6⟩ := State.slotBegin_fields hp.side.1 0 e (by decide) _ rfl
  generalize p.slotBegin 0 e = q at hr h1 h2 h3 h4 h5 h6
  have hq : State.Slot q r := hr ▸ (State.Slot.refl h1).heartbeats
  refine ⟨hq.side.1, ?_, ?_, ?_, ?_⟩
  · rw [hq.slotNow, h2]
  · rw [hq.frame, h4, hp.frame, c1]
  · obtain ⟨x, hx⟩ := c2
    exact ⟨x, by rw [hq.status, h5, hp.status, hx]⟩
  · have e1 := hq.frt
    have e3 := hp.frt
    clear hq hp he hr
    generalize r.frt = R at *
    generalize q.frt = Q at *
    generalize p.frt = P at *
    generalize c.frt = C at *
    cases R; cases Q; cases P; cases C
    simp only [FrameTab.mk.injEq] at *
    simp_all

/-! ### Frame boundaries -/

theorem State.boundary_slot (hc : s.canonical = true) (e : Nat) :
    State.Slot s ((State.resetsEnding (if s.tableValid then (List.range 8).foldl State.endSlot s else s) e).foldl State.endReset
      (if s.tableValid then (List.range 8).foldl State.endSlot s else s)) :=
  State.Slot.fold _ (fun x r hx => hx.endReset r) (State.Slot.ite (fun _ => State.Slot.fold _ (fun x v hx => hx.endSlot v) (.refl (State.canonical_regs hc)))
    (fun _ => .refl (State.canonical_regs hc)))

theorem State.majorFrame_eq {e : Nat} (hd : s.frameDue = some e) (hg : s.switchGroups e = []) :
    majorFrameStartEffect s = (s.frameBoundary e).belowMin.syncState.relayPoll := by
  unfold majorFrameStartEffect
  rw [hd]
  simp only [State.boundaryWith, hg, List.isEmpty_nil, if_true]


theorem State.takeTable_fields (h : mapWf 0 s.regs = true) :
    mapWf 0 s.takeTable.regs = true ∧ s.takeTable.reg Reg.FRT_FRAME_CNT = s.reg Reg.FRT_FRAME_CNT ∧
      s.takeTable.reg Reg.FRT_STATUS = putBit (putBit (putBit (s.reg Reg.FRT_STATUS) 0 (s.idleBank == 1)) 1 true) 5 false ∧
      s.takeTable.frt = { s.frt with switchAt := none, stopAt := false, runs := s.takeTable.frt.runs, resets := s.takeTable.frt.resets } := by
  unfold State.takeTable
  extract_lets t w a b c
  have wa0 : mapWf 0 (s.setReg Reg.FRT_STATUS w).regs = true := mapWf_mapSet h
  have wa : mapWf 0 a.regs = true := mapWf_mapSet wa0
  have a1 : a.reg Reg.FRT_STATUS = w := (State.setReg_reg wa0).trans ((if_neg (by decide)).trans ((State.setReg_reg h).trans (if_pos rfl)))
  have a2 : a.reg Reg.FRT_FRAME_CNT = s.reg Reg.FRT_FRAME_CNT :=
    (State.setReg_reg wa0).trans ((if_neg (by decide)).trans ((State.setReg_reg h).trans (if_neg (by decide))))
  have fa : a.frt = s.frt := (State.setRegBits_frt ..).trans (State.setReg_frt ..)
  clear_value a
  have hb : mapWf 0 b.regs = true ∧ b.reg Reg.FRT_STATUS = a.reg Reg.FRT_STATUS ∧ b.reg Reg.FRT_FRAME_CNT = a.reg Reg.FRT_FRAME_CNT ∧ b.frt = a.frt := by
    refine ⟨mapWf_mapSet (mapWf_mapSet wa), ?_, ?_, ?_⟩
    · exact (State.setReg_reg (mapWf_mapSet wa)).trans ((if_neg (by decide)).trans ((State.setReg_reg wa).trans (if_neg (by decide))))
    · exact (State.setReg_reg (mapWf_mapSet wa)).trans ((if_neg (by decide)).trans ((State.setReg_reg wa).trans (if_neg (by decide))))
    · exact (State.setReg_frt ..).trans (State.setReg_frt ..)
  clear_value b
  have hc : State.Slot b c := State.Slot.fold _ (fun x f hx => (hx.setReg _ (.inr (by simp only [Reg.FRT_FILL_CUR, regKey]; omega))).setReg _
    (.inr (by simp only [Reg.FRT_FILL_EN, regKey]; omega))) (.refl hb.1)
  clear_value c
  refine ⟨hc.side.1, ?_, ?_, ?_⟩
  · exact hc.frame.trans (hb.2.2.1.trans a2)
  · exact hc.status.trans (hb.2.1.trans a1)
  · have e1 := hc.frt
    rw [hb.2.2.2, fa] at e1
    show ({ c.frt with switchAt := none, stopAt := false } : FrameTab) = { s.frt with switchAt := none, stopAt := false, runs := c.frt.runs, resets := c.frt.resets }
    generalize c.frt = C at e1
    generalize s.frt = B at e1
    cases C; cases B
    simp only [FrameTab.mk.injEq] at *
    simp_all

theorem State.Slot.tail (h : State.Slot s t) : State.Slot s t.belowMin.syncState.relayPoll := h.belowMin.syncState.relayPoll

end Sys2Proof.Machine
end

