-- ==== Sys2Proof/WellFormed.lean ====
section
/-! DEFINITION. What the wires, pins and interfaces behind a command can carry: the lengths and values that the spec bounds. Every other operand is bounded by its
type. -/

namespace Sys2Proof

/-- A fabric request moves at least one byte and at most the 16 MiB of the longest row (03 R106). -/
def fabricOpWf : FabricOp → Bool
  | .read n => decide (1 ≤ n) && decide (n ≤ 0x1000000)
  | .write l => decide (1 ≤ l.length) && decide (l.length ≤ 0x1000000)
  | .cell _ => true

/-- An entry of a commit group: 0 to 63 (17 Table 17.11). -/
def entryWf : Option Nat → Bool
  | some i => decide (i < 64)
  | none => true

/-- A region of SPI NOR other than the key store, with no more bytes than it holds (18 Table 18.3). -/
def norWf (e : Nat × List Byte) : Bool :=
  ([(0, 0x1000), (0x100000, 0x800000), (0x900000, 0x800000), (0x1110000, 0x10000), (0x1120000, 0x400000)] : List (Nat × Nat)).any
    (fun r => e.1 == r.1 && decide (e.2.length ≤ r.2))

/-- The command is one that its sender can send: at most one operation of each class inside the Vat reaches a cell in a cycle (03 R97); long CSI-2 packets (09
Table 9.1), Ethernet frames (13 R344), SPI transfers and CAN XL data (09 Table 9.1), servo frames (12 Table 12.3), slot frames (14 R357), pages of Aquifer (05 R144),
its link rates and widths (05 R167), regions and rails (16 R423), host data (17 Table 17.8), mailbox space (17 Table 17.2), images and NOR regions (18 R474, Table
18.3), MRAM slots (17 R455), and objects of a hold (18 Table 18.2). -/
def Instr.wf : Instr → Bool
  | .registerWrite .. => true
  | .counterReadClear .. => true
  | .logReadAdvance .. => true
  | .fabricRequest _ _ _ _ op _ _ => fabricOpWf op
  | .syncCellOperation _ _ ops => (List.range 5).all (fun c => decide ((ops.filter (fun e => e.1.val == c)).length ≤ 1))
  | .majorFrameStart .. => true
  | .slotStart .. => true
  | .lakeRefreshSubslot .. => true
  | .fillEntryStart .. => true
  | .cutPoint .. => true
  | .lcOverrun .. => true
  | .frtLoadCmd .. => true
  | .frtLoadComplete .. => true
  | .ftSwitch .. => true
  | .ftStop .. => true
  | .opBr .. => true
  | .opBri .. => true
  | .opCall .. => true
  | .opCalli .. => true
  | .opRet .. => true
  | .opLoop .. => true
  | .opWaitc .. => true
  | .waitcExpiry .. => true
  | .opYield .. => true
  | .yieldResume .. => true
  | .opEnd .. => true
  | .endDoneIncrement .. => true
  | .opSadd .. => true
  | .opSset .. => true
  | .opSrd .. => true
  | .opSwait .. => true
  | .swaitSatisfied .. => true
  | .swaitTimeout .. => true
  | .opAdd .. => true
  | .opSub .. => true
  | .opAnd .. => true
  | .opOr .. => true
  | .opXor .. => true
  | .opShl .. => true
  | .opShr .. => true
  | .opSar .. => true
  | .opMin .. => true
  | .opMax .. => true
  | .opMinu .. => true
  | .opMaxu .. => true
  | .opMul .. => true
  | .opMulhu .. => true
  | .opCmpeq .. => true
  | .opCmplt .. => true
  | .opCmpltu .. => true
  | .opPand .. => true
  | .opPor .. => true
  | .opPxor .. => true
  | .opLd .. => true
  | .opSt .. => true
  | .opRdc .. => true
  | .opAld .. => true
  | .opAset .. => true
  | .opArst .. => true
  | .opVld .. => true
  | .opVst .. => true
  | .opAskip .. => true
  | .opTwld .. => true
  | .opTmm .. => true
  | .opTrd .. => true
  | .opTclr .. => true
  | .opTlut .. => true
  | .opVadd .. => true
  | .opVsub .. => true
  | .opVmax .. => true
  | .opVmin .. => true
  | .opVmul .. => true
  | .opVfma .. => true
  | .opVexp2 .. => true
  | .opVlog2 .. => true
  | .opVrcp .. => true
  | .opVrsq .. => true
  | .opVsig .. => true
  | .opVtanh .. => true
  | .opVcvt .. => true
  | .opVscl .. => true
  | .opVqnt .. => true
  | .opVrmax .. => true
  | .opVrsum .. => true
  | .opVsmxMask .. => true
  | .opVsmxExpd .. => true
  | .opVsmxNorm .. => true
  | .opVsmxMass .. => true
  | .opVbc .. => true
  | .opVext .. => true
  | .opVsel .. => true
  | .opScnRun .. => true
  | .opScnRunComplete .. => true
  | .opScnAnch .. => true
  | .opScnSave .. => true
  | .opScnLoad .. => true
  | .opMpush .. => true
  | .opMcnt .. => true
  | .opMstat .. => true
  | .vatFaultInStream .. => true
  | .moverQueueEntry .. => true
  | .moverDescriptorStart .. => true
  | .moverDescriptorEnd .. => true
  | .moverDeadline .. => true
  | .heldOutputCompare .. => true
  | .coreCheckpoint .. => true
  | .journalApply .. => true
  | .arrayChecksum .. => true
  | .dieCopyUpdate .. => true
  | .migDemandMiss .. => true
  | .heldReadRelease .. => true
  | .pageFillComplete .. => true
  | .aquiferReadComplete _ data => decide (data.length ≤ 0x200000)
  | .aquiferReadTimeout .. => true
  | .aquiferLinkDown .. => true
  | .evictFrameFree .. => true
  | .sramScrub .. => true
  | .migCmdPush .. => true
  | .migCplRead .. => true
  | .migMap .. => true
  | .migUnmap .. => true
  | .migStage .. => true
  | .migLoad .. => true
  | .migPin .. => true
  | .migUnpin .. => true
  | .migDropL .. => true
  | .migDropR .. => true
  | .migClearFault .. => true
  | .harpArm .. => true
  | .harpDisarm .. => true
  | .harpRowArrival .. => true
  | .harpOutputRow .. => true
  | .harpFrameEnd .. => true
  | .harpGoldenAbandon .. => true
  | .walkerDoorbell .. => true
  | .walkerGather .. => true
  | .walkerAppend .. => true
  | .walkerAppendCommit .. => true
  | .walkerEvict .. => true
  | .swapOut .. => true
  | .swapIn .. => true
  | .init .. => true
  | .swapOutComplete .. => true
  | .swapInStart .. => true
  | .swapInComplete .. => true
  | .csiFrameStart .. => true
  | .csiPacket _ _ _ _ _ data => decide (data.length ≤ 65535)
  | .csiFrameEnd .. => true
  | .ethRxFrame _ _ _ frame => decide (frame.length ≤ 1522)
  | .spiTrigger .. => true
  | .spiTransferEnd _ _ data => decide (1 ≤ data.length) && decide (data.length ≤ 256)
  | .canRxFrame _ _ _ _ _ data => decide (data.length ≤ 2048)
  | .sampleEnd .. => true
  | .sampleAccept .. => true
  | .egoTick .. => true
  | .alignEval .. => true
  | .associationJob .. => true
  | .solverJobArrive .. => true
  | .solverJobStart .. => true
  | .solverIterateDone .. => true
  | .solverDeadline .. => true
  | .solverRecordWrite .. => true
  | .planCycleStart .. => true
  | .planPrecheckEnd .. => true
  | .planPrepEnd .. => true
  | .planSweepStart .. => true
  | .planSweepEnd .. => true
  | .planRecheckEnd .. => true
  | .planDeadline .. => true
  | .planRecordWrite .. => true
  | .loopRun .. => true
  | .loopTick .. => true
  | .loopGroupStart .. => true
  | .servoCommandFrame .. => true
  | .servoFeedbackFrame _ _ frame => decide (frame.length ≤ 74)
  | .feedbackCutoff .. => true
  | .servoLinkAlign .. => true
  | .servoLinkDown .. => true
  | .axisEnable .. => true
  | .axisDisable .. => true
  | .axisClear .. => true
  | .loopSegSwap .. => true
  | .loopTblDataWrite .. => true
  | .tbMeasWrite .. => true
  | .tbRateApply .. => true
  | .tbRateWrite .. => true
  | .tbStep .. => true
  | .tbServoEnable .. => true
  | .tbMeasTimeout .. => true
  | .tbHoldoverExpiry .. => true
  | .tbNowRead .. => true
  | .ptpFrameRx _ _ frame => decide (frame.length ≤ 1522)
  | .tsnDoorbellPoll .. => true
  | .tsnFrameFetch .. => true
  | .tsnFrameTxStart .. => true
  | .tsnFrameLate .. => true
  | .tsnFrameTxEnd .. => true
  | .tsnGclEnable .. => true
  | .tsnGclTakeEffect .. => true
  | .xslPortEnable .. => true
  | .xslPortTrained .. => true
  | .xslPortDown .. => true
  | .xslSlotFrameTx .. => true
  | .xslSlotFrameRx _ _ _ frame => decide (frame.length = 6425)
  | .xslLanding .. => true
  | .xslFlitAge .. => true
  | .xslMessageTimeout .. => true
  | .xslTagRelease .. => true
  | .xslPeerTimeout .. => true
  | .xslGenAdvance .. => true
  | .xslLostClear .. => true
  | .doubtCodeSend .. => true
  | .doubtCodeReceive .. => true
  | .doubtCodeTimeout .. => true
  | .doubtQualify .. => true
  | .doubtGlitch .. => true
  | .doubtClear .. => true
  | .laneInjection .. => true
  | .pairCompare .. => true
  | .selftestSliceStart .. => true
  | .fbxTrjCommit .. => true
  | .fbxLate .. => true
  | .fbxTrackingStep .. => true
  | .fbxCommandFrame .. => true
  | .fbxEthSend .. => true
  | .fbxEndAction .. => true
  | .fbxHbReq .. => true
  | .fbxHbGo .. => true
  | .handbackComplete .. => true
  | .handbackTimeout .. => true
  | .hdHeartbeat .. => true
  | .hdHeartbeatMiss .. => true
  | .rindWdtKick .. => true
  | .watchdogMiss .. => true
  | .supplyLimit .. => true
  | .safeFrame .. => true
  | .powerPeriod .. => true
  | .multiplierApply .. => true
  | .pwrModeWrite .. => true
  | .droopAssert .. => true
  | .droopSwallowEnd .. => true
  | .thermalSample temps => decide (temps.length = 16)
  | .regionDiffSample .. => true
  | .regionSwallowEnd .. => true
  | .energySample rails => decide (rails.length = 17)
  | .pwrMeterCfgWrite .. => true
  | .hostDoorbell .. => true
  | .commandComplete _ _ data => decide (data.length ≤ 0x1000000)
  | .identify .. => true
  | .getState .. => true
  | .sessionChallenge .. => true
  | .sessionOpen .. => true
  | .sessionClose .. => true
  | .sessionExpiry .. => true
  | .sessionLockoutEnd .. => true
  | .regRead .. => true
  | .eventRead .. => true
  | .snapshot .. => true
  | .workloadStart .. => true
  | .workloadStop .. => true
  | .imageLoad .. => true
  | .imageUnload .. => true
  | .hostDma .. => true
  | .batchSubmit .. => true
  | .handback .. => true
  | .cgSubmit .. => true
  | .cgCancel .. => true
  | .ftLoad .. => true
  | .workloadDefine .. => true
  | .migCmd .. => true
  | .storeWrite .. => true
  | .storeTrim .. => true
  | .fbRelay .. => true
  | .keyAdd .. => true
  | .keyRemove .. => true
  | .resetWarm .. => true
  | .resetCold .. => true
  | .resetPartition .. => true
  | .resetBegin .. => true
  | .fwStage .. => true
  | .fwActivate .. => true
  | .fuseProgram .. => true
  | .lifecycleAdvance .. => true
  | .bootPush data => decide (data.length ≤ 0x800000)
  | .firmwareInternalError .. => true
  | .cgSubmitWrite .. => true
  | .cgCancelWrite .. => true
  | .commitPoint .. => true
  | .commitEvaluate bad => entryWf bad
  | .rindGroupApply bad => entryWf bad
  | .eventMark .. => true
  | .mbxIrqWrite .. => true
  | .eventRecordPost .. => true
  | .evrFlushWrite .. => true
  | .evrFlushTimer .. => true
  | .evrWindowRead .. => true
  | .powerFailWarning .. => true
  | .powerFailRecovery .. => true
  | .nvInhibit .. => true
  | .snapshotTrigger .. => true
  | .snapInEdge .. => true
  | .snapshotCompareInstant .. => true
  | .obsRead _ words => decide (1 ≤ words)
  | .obsStatus .. => true
  | .obsTrcPop .. => true
  | .rindPowerOn flash => flash.all norWf
  | .rindBootEnd _ torn => torn.all (fun k => decide (k < 131072))
  | .mcResetRelease .. => true
  | .startupStepEnd fault _ => (match fault with | some o => decide (o < 256) | none => true)
  | .emptyTrajectoryCommit .. => true
  | .resetNAssert .. => true
  | .railPowerGoodLoss .. => true
  | .rootPllLoss .. => true
  | .rindSupplyLoss .. => true
  | .harpReadDeadline .. => true
  | .hostMailboxWrite off data => decide (1 ≤ data.length) && decide (off.toNat + data.length ≤ 0x20000)
  | .aquiferNvmeReady port _ => decide (1 ≤ port.rate) && decide (port.rate ≤ 5) && ([1, 2, 4] : List Nat).contains port.width
  | .droopRelease .. => true
  | .rindXtalStop .. => true

/-- The well-formedness of a command as a proposition. -/
abbrev Instr.WellFormed (i : Instr) : Prop := i.wf = true

end Sys2Proof
end

