-- ==== Sys2Proof/Tests/Slice0.lean ====
section
/-! SUPPORT. The model's own tests: the checks of well-formedness refuse what they should, a state and operands that meet the hypotheses of each clause of the
statements (the theorems met_…), and single commands on small states with the results the spec gives. -/


namespace Sys2Proof.Machine

set_option maxRecDepth 8000
set_option autoImplicit false
set_option Elab.async false

/-! ### Well-formedness refuses -/

theorem test_wf_request_moves_bytes : ¬ (Instr.fabricRequest .mgmt 0 0 0 (.read 0) none .clean).WellFormed := by decide
theorem test_wf_request_has_an_end : ¬ (Instr.fabricRequest .mgmt 0 0 0 (.read 0x1000001) none .clean).WellFormed := by decide
theorem test_wf_write_moves_bytes : ¬ (Instr.fabricRequest .mgmt 0 0 0 (.write []) none .clean).WellFormed := by decide
theorem test_wf_one_operation_of_a_class : ¬ (Instr.syncCellOperation 0 0 [(2, .add 1), (2, .add 1)]).WellFormed := by decide
theorem test_wf_classes_that_repeat : (Instr.syncCellOperation 0 0 [(5, .add 1), (5, .add 1), (0, .set 1)]).WellFormed := by decide
theorem test_wf_page (l : List Byte) (h : 0x200000 < l.length) : ¬ (Instr.aquiferReadComplete 0 l).WellFormed :=
  fun w => absurd (of_decide_eq_true w) (Nat.not_le.mpr h)
theorem test_wf_csi_packet (l : List Byte) (h : 65535 < l.length) : ¬ (Instr.csiPacket 0 0 0 false false l).WellFormed :=
  fun w => absurd (of_decide_eq_true w) (Nat.not_le.mpr h)
theorem test_wf_ethernet_frame : ¬ (Instr.ethRxFrame 0 0 false (List.replicate 1523 0)).WellFormed ∧ ¬ (Instr.ptpFrameRx 0 0 (List.replicate 1523 0)).WellFormed := by
  decide +kernel
theorem test_wf_spi_transfer : ¬ (Instr.spiTransferEnd 0 0 (List.replicate 0 0)).WellFormed ∧ ¬ (Instr.spiTransferEnd 0 0 (List.replicate 257 0)).WellFormed := by
  decide +kernel
theorem test_wf_can_frame : ¬ (Instr.canRxFrame 0 0 0 0 false (List.replicate 2049 0)).WellFormed := by
  decide +kernel
theorem test_wf_servo_frame : ¬ (Instr.servoFeedbackFrame 0 false (List.replicate 75 0)).WellFormed := by
  decide +kernel
theorem test_wf_slot_frame : ¬ (Instr.xslSlotFrameRx 0 false 0 (List.replicate 6424 0)).WellFormed ∧ ¬ (Instr.xslSlotFrameRx 0 false 0 (List.replicate 6426 0)).WellFormed := by
  decide +kernel
theorem test_wf_sensors : ¬ (Instr.thermalSample (List.replicate 15 0)).WellFormed ∧ ¬ (Instr.energySample (List.replicate 18 (0, 0))).WellFormed := by
  decide +kernel
theorem test_wf_host_data (l : List Byte) (h : 0x1000000 < l.length) : ¬ (Instr.commandComplete 0 0 l).WellFormed :=
  fun w => absurd (of_decide_eq_true w) (Nat.not_le.mpr h)
theorem test_wf_boot_push (l : List Byte) (h : 0x800000 < l.length) : ¬ (Instr.bootPush l).WellFormed :=
  fun w => absurd (of_decide_eq_true w) (Nat.not_le.mpr h)
theorem test_wf_group_entry : ¬ (Instr.commitEvaluate (some 64)).WellFormed ∧ ¬ (Instr.rindGroupApply (some 64)).WellFormed := by
  decide +kernel
theorem test_wf_observation_read : ¬ (Instr.obsRead 0 0).WellFormed := by
  decide +kernel
theorem test_wf_nor_regions : ¬ (Instr.rindPowerOn [(0, List.replicate 0x1001 0)]).WellFormed ∧ ¬ (Instr.rindPowerOn [(0x1000, List.replicate 1 0)]).WellFormed := by
  decide +kernel
theorem test_wf_mram_slots : ¬ (Instr.rindBootEnd false [131072]).WellFormed := by
  decide +kernel
theorem test_wf_hold_object : ¬ (Instr.startupStepEnd (some 256) false).WellFormed := by
  decide +kernel
theorem test_wf_mailbox_window : ¬ (Instr.hostMailboxWrite 0x1FFFF (List.replicate 2 0)).WellFormed ∧ ¬ (Instr.hostMailboxWrite 0 (List.replicate 0 0)).WellFormed := by
  decide +kernel
theorem test_wf_aquifer_link : ¬ (Instr.aquiferNvmeReady ⟨0, 4⟩ true).WellFormed ∧ ¬ (Instr.aquiferNvmeReady ⟨6, 4⟩ true).WellFormed ∧ ¬ (Instr.aquiferNvmeReady ⟨5, 3⟩ true).WellFormed := by
  decide +kernel

/-! ### Small states -/

/-- A table of n slots (1 or 2) of 1 µs and one path map: partition 0 (latency-critical) may do everything in the Pond of Vat 0, in hub SRAM and in part of the
image, partition 1 (best effort) in the Pond of Vat 0; kernel 0 is latency-critical, kernel 1 is on fill list 0; slot 0 holds `e0` for Vat 0 and slot 1 `e1`, and `row` owns every
segment. -/
def tRange (base last perms : Nat) : List Byte := toLE 8 base ++ toLE 8 (last / 4096 * 4096 + perms * 2 ^ 60)
def tKernel (k cls : Nat) : List Byte :=
  toLE 2 k ++ [BitVec.ofNat 8 cls, BitVec.ofNat 8 cls, 0, 0xFF, 0xFF, 0] ++ toLE 8 0x200000000000 ++ toLE 4 100 ++ toLE 4 0 ++ toLE 4 100 ++ toLE 4 7 ++
    toLE 8 0x200000001000 ++ List.replicate 24 0
def tTable (n e0 e1 row : Nat) : List Byte :=
  List.replicate 16 0 ++ [1, 24, 0, 2] ++ toLE 2 n ++ toLE 2 0 ++ toLE 2 450 ++ toLE 2 10 ++ toLE 2 5 ++ toLE 2 0 ++
    toLE 2 2 ++ toLE 2 1 ++ toLE 2 1 ++ toLE 2 0 ++ toLE 4 0x80 ++ toLE 4 0x1A0 ++ toLE 4 0x220 ++ toLE 4 0x430 ++ toLE 4 0x4D0 ++ toLE 4 0 ++
    toLE 4 0x5C0 ++ List.replicate 60 0 ++
  ([0, 0, 0, 3] ++ List.replicate 12 0 ++ tRange 0x200000000000 0x200003FFF000 15 ++ tRange 0x200100000000 0x200103FFF000 15 ++
    tRange 0x100000000000 0x100000FFF000 15 ++ List.replicate 80 0) ++
  ([1, 1, 0, 1] ++ List.replicate 12 0 ++ tRange 0x200000000000 0x200003FFF000 15 ++ List.replicate 112 0) ++
  tKernel 0 0 ++ tKernel 1 1 ++
  ([0, 1, 1, 1] ++ List.replicate 12 0 ++ toLE 8 1 ++ List.replicate 504 0) ++
  (toLE 8 e0 ++ List.replicate 56 0 ++ toLE 2 0 ++ toLE 2 0xFFFF ++ List.replicate 12 0) ++
  (toLE 8 e1 ++ List.replicate 56 0 ++ toLE 2 0 ++ toLE 2 0xFFFF ++ List.replicate 12 0) ++
  List.replicate 240 (BitVec.ofNat 8 row)

/-- With that table in force. -/
def tState2 (n e0 e1 row : Nat) : State :=
  { State.reset.setRegBits Reg.FRT_STATUS 1 1 1 with frt := { FrameTab.reset with bankA := tTable n e0 e1 row } }
def tState (entry row : Nat) : State := tState2 1 entry 0 row

/-- Vat 0 issues, its long word is open. -/
def sVat (f : VatCore → VatCore) : State :=
  (tState 0 0).modVat 0 (fun t => { t with running := true, issuing := true, lw := some [], cyc := 1000, core := f t.core })

theorem ready_of {s : State} {v slot : Nat} {w : BitVec 56}
    (h : (s.mainClk && (s.vat v).canIssue slot && (s.vat v).lw.isSome && guardHolds (s.vat v).core.preds (oPred w) (oNeg w)) = true) : s.Ready v slot w := by
  simp only [Bool.and_eq_true] at h
  exact ⟨⟨h.1.1.1, h.1.1.2, fun n => by rw [n] at h; simp at h, fun n => by rw [n] at h; simp at h⟩, h.2⟩

/-- Vat 0 between long words: none is open. -/
def sBetween (f : VatCore → VatCore) : State :=
  (tState 0 0).modVat 0 (fun t => { t with running := true, issuing := true, lw := none, cyc := 1000, core := f t.core })

/-- A word with values at bit positions. -/
def word (l : List (Nat × Nat)) : BitVec 56 := BitVec.ofNat 56 (l.foldl (fun n e => n + e.2 * 2 ^ e.1) 0)

/-- A linear descriptor of vec elements of code elem, at Pond offset 0. -/
def tDesc (vec elem : Nat) : List Byte := List.replicate 0x30 0 ++ [BitVec.ofNat 8 elem, 0] ++ toLE 2 vec ++ List.replicate 12 0
def sDesc (vec elem : Nat) : State := sVat (fun c => { c with descs := [(0, tDesc vec elem)] })

theorem fst_of {α β : Type} {p : α × Option β} (h : p.2.isNone = true) : ∃ xs, p = (xs, none) := ⟨p.1, Prod.ext rfl (Option.isNone_iff_eq_none.mp h)⟩

theorem clean {s : State} (h : s.poison = []) (a n : Nat) : s.poisoned a n = false := by simp [State.poisoned, h]


/-- Hub SRAM above the page-table region is readable and writable for partition p. -/
def hubOk (s : State) (p : Nat) : Bool :=
  decide (s.iptBase + iptSize ≤ 0x200101000000) && (s.partRanges p).any (fun r => (r.r && r.w) && decide (r.base ≤ 0x200101000000) && decide (0x200103FFF000 ≤ r.last + 1))
theorem hub_region {x : Nat} (_ : 0x200101000000 ≤ x) (_ : x < 0x200103FFF000) : regionOf x = .hub := by
  unfold regionOf
  rw [if_neg (by omega), if_neg (by omega), if_neg (by omega), if_pos (by omega)]
theorem hub_open {s : State} {i : Initiator} {p : Nat} {k : Want} (hi : reaches i .hub k = true) (hk : k ≠ .s) (hm : i ≠ .migration) (hx : i ≠ .xexisha)
    (h : hubOk s p = true) {a n : Nat} (ha : 0x200101000000 ≤ a) (he : a + n ≤ 0x200103FFF000) (hn : 0 < n) : s.admits i (some p) k a n = true := by
  simp only [hubOk, Bool.and_eq_true, decide_eq_true_eq, List.any_eq_true] at h
  obtain ⟨h1, r, hr, ⟨⟨hw, hw'⟩, hb⟩, hl⟩ := h
  have e2 : extentRegion a n = .hub := by simp [extentRegion, hub_region ha (show a < _ by omega), hub_region (x := a + n - 1) (by omega) (by omega)]
  have e3 : s.reserved i k a n = false := by
    simp only [State.reserved, Bool.and_eq_false_iff, Bool.or_eq_false_iff, decide_eq_false_iff_not]
    exact .inl (.inl ⟨.inl (by omega), .inl (by omega)⟩)
  have e4 : s.inRanges i (some p) k a n = true := by
    have : ∀ z : Want, z ≠ .s → inRange (s.partRanges p) (fun x => match z with | .r => x.r | .w => x.w | .s => x.sy) a n = true := by
      intro z hz
      simp only [inRange, List.any_eq_true, Bool.and_eq_true, decide_eq_true_eq]
      refine ⟨r, hr, ⟨?_, by omega⟩, by omega⟩
      cases z <;> first | exact hw | exact hw' | exact absurd rfl hz
    cases i <;> first | exact absurd rfl hm | exact absurd rfl hx | exact this k hk
  have e5 : a + n ≤ 281474976710656 := by omega
  cases k <;> first | exact absurd rfl hk | simp [State.admits, hn, e5, e2, hi, e3, e4]

/-! ### The Vat sequencer -/

theorem met_BranchesLoopsAndWaitsGovernIssue_branch :
    (sVat id).Ready 0 0 (word [(24, 3)]) ∧ branchBarred ((sVat id).issuer 0 0).core = false ∧ ((sVat id).issuer 0 0).core.rets.length < 16 :=
  ⟨ready_of (by decide +kernel), by decide +kernel⟩
theorem met_BranchesLoopsAndWaitsGovernIssue_return : let s := sVat (fun c => { c with rets := List.replicate 16 256 })
    s.Ready 0 0 0 ∧ branchBarred (s.issuer 0 0).core = false ∧ (s.issuer 0 0).core.rets = 256 :: List.replicate 15 256 :=
  ⟨ready_of (by decide +kernel), by decide +kernel⟩
theorem met_BranchesLoopsAndWaitsGovernIssue_loop : let s := sVat (fun c => { c with loops := List.replicate 3 ⟨0, 1280, 2⟩ })
    let w := word [(24, 4096)]
    s.Ready 0 0 w ∧ 1 ≤ fld w 37 24 ∧ fld w 37 24 ≤ 4096 ∧ (s.issuer 0 0).core.loops.length < 4 := ⟨ready_of (by decide +kernel), by decide +kernel⟩
theorem met_BranchesLoopsAndWaitsGovernIssue_expiry : let s := sBetween (fun c => { c with hold := .waitc 1000 })
    s.mainClk = true ∧ (s.vat 0).core.hold = .waitc 1000 ∧ (s.vat 0).lw = none ∧ 1000 ≤ (s.vat 0).cyc := by decide +kernel
theorem met_BranchesLoopsAndWaitsGovernIssue_resume : let s := { sBetween (fun c => { c with hold := .yield 0 }) with frt := { FrameTab.reset with slotStart := 1 } }
    s.mainClk = true ∧ (s.vat 0).core.hold = .yield 0 ∧ (s.vat 0).lw = none ∧ 0 < s.frt.slotStart := by decide +kernel

/-- 03 R93: BR with IMM24 = 3 at pc 0 is taken after two delay long words, to offset 384. -/
theorem test_br_sets_target : (brEffect 0 (word [(24, 0), (0, 3)]) 0 (sVat id)).vat 0 = { (sVat id).vat 0 with
    lw := some [0], core := { ((sVat id).vat 0).core with branch := some ⟨2, 384, true⟩ } } := by decide +kernel

theorem met_SyncCellOperations_swait : ∀ held ∈ [none, some 1000], let s := sBetween (fun c => { c with hold := .swait 5 0 0 1 990 20 held })
    s.mainClk = true ∧ (s.vat 0).core.hold = .swait 5 0 0 1 990 20 held ∧ swaitTest 0 (s.cellSeen 0 5) (0 : W64).toNat = true ∧ (s.vat 0).cyc = 1000 ∧ 1000 < 990 + 20 := by
  decide +kernel
theorem met_SyncCellOperations_timeout : ∀ held ∈ [none, some 1000], let s := sBetween (fun c => { c with hold := .swait 5 0 7 1 990 10 held })
    s.mainClk = true ∧ (s.vat 0).core.hold = .swait 5 0 7 1 990 10 held ∧ swaitTest 0 (s.cellSeen 0 5) (7 : W64).toNat = false ∧ 990 + 10 ≤ (s.vat 0).cyc ∧ 990 + 10 ≤ 1000 := by
  decide +kernel
theorem met_SyncCellOperations_done : let s := sBetween (fun c => { c with hold := .ended (some 0), flights := [⟨999, 990, 0, false, .done⟩] })
    s.canonical = true ∧ s.mainClk = true ∧ (s.vat 0).core.hold = .ended (some 0) ∧ (s.vat 0).core.flights = [⟨999, 990, 0, false, .done⟩] ∧ 999 ≤ (s.vat 0).cyc ∧
      s.sliceOn 0 = none ∧ s.cellNow 0 (kDoneCell (s.runEntry 0)) = none := by decide +kernel
theorem met_SyncCellOperations_cell : let s := sVat id
    s.canonical = true ∧ s.mainClk = true ∧ s.cellNow 0 7 = none ∧ ((s.cellDo 0 7 5 (.add 1)).cellNow 0 7) = some (0, [(5, .add 1)]) ∧ 0 < 5 := by decide +kernel

theorem met_ScalarArithmeticAndComparisons : (sVat id).Ready 0 (1 + 1) 0 ∧ fld 0 31 16 = 0 ∧ fld 0 49 48 = 0 ∧ fld 0 43 42 = 0 ∧ fld 0 37 36 = 0 :=
  ⟨ready_of (by decide +kernel), by decide +kernel⟩
theorem met_ScalarLoadAndStore : let w := word [(44, 3), (0, 16)]
    let off := (((sVat id).issuer 0 1).core.sreg (fld w 43 38) + oImm 16 w 0).toNat
    (sVat id).Ready 0 (1 + 0) w ∧ fld w 31 16 = 0 ∧ (sVat id).canonical = true ∧ off % 8 = 0 ∧ (sVat id).pondMay 0 off 8 false = true ∧
      (sVat id).pondMay 0 off 8 true = true ∧ (sVat id).poisoned (pondAddr 0 off) 8 = false := ⟨ready_of (by decide +kernel), by decide +kernel⟩
/-- 03 R81, Table 3.9: MULHU of 2^64 - 1 and 2 is 1, in s[SD] three cycles on. -/
theorem test_mulhu : (((mulhuEffect 0 0 (word [(44, 3), (38, 1), (32, 2)]) 0
      (sVat (fun c => { c with sregs := [(1, 0xFFFFFFFFFFFFFFFF), (2, 2)] }))).vat 0).core.flights.map (fun f => (f.due, f.dest)) = [(1003, .sreg 3 1)]) := by
  decide +kernel

theorem met_AddressGenerators_load : let s := sDesc 4 3
    let w := word [(28, 21)]
    let t := s.issuer 0 3
    let val := t.core.sreg (fld w 39 34) + oImm 16 w 0
    s.Ready 0 (3 + 0) w ∧ fld w 27 16 = 0 ∧ t.core.agFree t.cyc 0 0 = true ∧ s.canonical = true ∧ val.toNat % 64 = 0 ∧
      s.pondMay 0 val.toNat 64 false = true ∧ s.poisoned (pondAddr 0 val.toNat) 64 = false ∧ fld w 33 28 < 22 := ⟨ready_of (by decide +kernel), by decide +kernel⟩
theorem met_AddressGenerators_vectors : let s := sDesc 4 3
    let t := s.issuer 0 3
    let d := parseDesc (t.core.desc 0)
    let p := d.at (t.core.pos 0)
    d.usable = true ∧ s.agVector 0 d (t.core.pos 0) = .inr ([0, 0, 0, 0], [0, 0, 0, 0]) ∧ s.ReadsWhole 0 (d.reads (t.core.pos 0)) ∧
      p.2 = false ∧ s.spanMay 0 p.1 d.vbytes true = true ∧ d.expBase = 0 := by
  refine ⟨by decide +kernel, by decide +kernel, ?_, by decide +kernel⟩
  simp only [State.ReadsWhole]; decide +kernel
theorem met_AddressGenerators_padding : let s := sVat (fun c => { c with
      descs := [(0, List.replicate 0x30 0 ++ [3, 1] ++ toLE 2 4 ++ toLE 2 1 ++ toLE 2 1 ++ [0x11, 0x11, 0x11, 1, 0, 0, 0, 0])] })
    let t := s.issuer 0 3
    let d := parseDesc (t.core.desc 0)
    d.usable = true ∧ (d.at (t.core.pos 0)).2 = true := by decide +kernel

theorem met_TileLoadsAndProducts_load : let s := sDesc 128 1
    let t := s.issuer 0 7
    let d := (parseDesc (t.core.desc 0)).noExp (0 == 5)
    (s.canonical = true ∧ fld 0 13 0 = 0 ∧ fld 0 23 21 ≠ 2 ∧ t.core.agFree t.cyc 0 0 = true ∧ d.usable = true ∧ t.core.twUntil.getD 0 0 ≤ t.cyc ∧
      t.core.wbUntil.getD 0 0 ≤ t.cyc ∧ d.fits 0 true = true) ∧ s.Ready 0 (7 + 0) 0 ∧
      (∃ xs, s.agStream 0 d (t.core.pos 0) 128 = (xs, none)) ∧ s.ReadsWhole 0 (d.streamReads (t.core.pos 0) 128) := by
  refine ⟨by decide +kernel, ready_of (by decide +kernel), fst_of (by decide +kernel), ?_⟩
  simp only [State.ReadsWhole]; decide +kernel
theorem met_TileLoadsAndProducts_product : let s := sVat (fun c => { c with descs := [(0, tDesc 128 1)], wbufs := [(0, ⟨some 0, false, [], [], []⟩)] })
    let w := word [(32, 127)]
    let t := s.issuer 0 7
    let d := (parseDesc (t.core.desc 0)).noExp (0 == 5)
    (s.canonical = true ∧ t.core.agFree t.cyc 0 0 = true ∧ d.usable = true ∧
      t.core.wbufs.find? (fun e => e.1 == 0) = some (0, ⟨some 0, false, [], [], []⟩) ∧ t.core.tileUntil.getD 0 0 ≤ t.cyc ∧ scanOnTile t 0 = false ∧
      lockedOut t.lock 0 (fld w 42 39) (s.runPart 0) = false ∧ d.fits 0 false = true ∧ fld w 38 32 + tN w ≤ 128 ∧
      s.agStream 0 d (t.core.pos 0) (tN w) = ([(List.replicate 128 0, List.replicate 128 0)], none)) ∧ s.Ready 0 (7 + 0) w ∧ s.ReadsWhole 0 (d.streamReads (t.core.pos 0) (tN w)) := by
  refine ⟨by decide +kernel, ready_of (by decide +kernel), ?_⟩
  simp only [State.ReadsWhole]; decide +kernel
theorem met_TileReadsAndTables : let t := (sVat id).issuer 0 7
    (sVat id).Ready 0 (7 + 0) (word [(32, 5)]) ∧ (sVat id).Ready 0 (7 + 0) (word [(31, 1)]) ∧ bit (word [(31, 1)]).toNat 31 = true ∧
      bit (word [(32, 5)]).toNat 31 = false ∧ fld (word [(32, 5)]) 38 32 % 4 ≠ 0 ∧ fld (word [(32, 5)]) 13 0 = 0 ∧
      lockedOut t.lock 0 0 ((sVat id).runPart 0) = false ∧ fld (word [(0, 0xFFFF)]) 49 16 = 0 ∧
      ∀ b, b < 16 → bit (fld (word [(0, 0xFFFF)]) 15 0) b = true → lockedOut t.lock 0 b ((sVat id).runPart 0) = false :=
  ⟨ready_of (by decide +kernel), ready_of (by decide +kernel), by decide +kernel⟩
theorem met_TileReadsAndTables_lut : let s := sDesc 16 1
    let t := s.issuer 0 7
    let d := (parseDesc (t.core.desc 0)).noExp true
    (s.canonical = true ∧ t.core.agFree t.cyc 0 0 = true ∧ d.usable = true ∧ d.vec = 16 ∧ d.elem = 1 ∧
      s.agVector 0 d (t.core.pos 0) = .inr (List.replicate 16 0, List.replicate 16 0)) ∧ s.Ready 0 (7 + 0) 0 ∧ s.ReadsWhole 0 (d.reads (t.core.pos 0)) := by
  refine ⟨by decide +kernel, ready_of (by decide +kernel), ?_⟩
  simp only [State.ReadsWhole]; decide +kernel
theorem met_ElementwiseOperations : (sVat id).Ready 0 11 (word [(20, 4)]) ∧ (sVat id).Ready 0 11 (word [(0, 511)]) ∧ fld (word [(20, 4)]) 19 0 = 0 ∧ fld (word [(20, 2)]) 23 20 < 3 ∧
    fld (word [(20, 7)]) 23 20 < 8 ∧ fld (word [(20, 4)]) 23 20 < 5 ∧ fld (word [(0, 511)]) 19 16 = 0 ∧ fld (word [(0, 511)]) 15 9 = 0 ∧ extLane (word [(0, 511)]) 0 ≤ 511 :=
  ⟨ready_of (by decide +kernel), ready_of (by decide +kernel), by decide +kernel⟩
theorem met_SoftmaxSteps : let t := (sVat id).issuer 0 11
    let w := word [(20, 3)]
    (sVat id).Ready 0 11 w ∧ fld w 19 0 = 0 ∧ fld w 23 20 = 3 ∧ t.core.massUntil ≤ t.cyc ∧
      ∀ e ∈ (sVat id).massUpdates 0 (t.core.sreg (fld w 29 24)).toNat (t.core.vreg (fld w 39 35)) (massWeights (t.core.vreg (fld w 44 40)) (t.core.vreg (fld w 34 30))),
        (sVat id).pondMay 0 e.1 4 true = true := ⟨ready_of (by decide +kernel), by decide +kernel⟩
theorem met_ReductionsFollowTheFixedTree : (sVat id).Ready 0 11 0 ∧ fld 0 19 0 = 0 ∧ (((sVat id).issuer 0 11).core.vreg (fld 0 44 40)).length = 512 :=
  ⟨ready_of (by decide +kernel), by decide +kernel⟩
theorem met_IntegerTileSumsAreExact : (1 = 0 ∧ (List.replicate 256 8).length = 128 ∨ 1 = 1 ∧ (List.replicate 256 8).length = 256) ∧ 127 < 128 ∧
    mapWf (zeros 128) VatCore.reset.acc = true ∧ (VatCore.reset.accRow 0).length = 128 := by decide +kernel

def sScan (stream : Nat) (bytes : List Byte) : State :=
  { sVat id with mem := memStore [] 0x200000000000 (List.replicate 0x1A 0 ++ [BitVec.ofNat 8 stream, 0] ++ bytes), regs := mapSet 0 (sVat id).regs (Reg.SCN_STR_CFG 0 0) (2 ^ 63) }
theorem met_ScanOperations_run : let s := sScan 255 [64, 0]
    let w := word [(37, 4)]
    let t := s.issuer 0 12
    s.canonical = true ∧ s.Ready 0 12 w ∧ fld w 36 16 = 0 ∧ t.core.scnUntil ≤ t.cyc ∧ (t.core.sreg (fld w 49 44) + oImm 16 w 0).toNat = 0 ∧
      s.pondMay 0 0 64 false = true ∧ s.poisoned (pondAddr 0 0) 64 = false ∧ nLc w ≤ 4 ∧ sdStream (s.bytes (pondAddr 0 0) 64) = 255 :=
  ⟨by decide +kernel, ready_of (by decide +kernel), by decide +kernel⟩
/-- A stream that is RESIDENT runs; one that is ABSENT has its chunk discarded. -/
theorem met_ScanOperations_stream : let s := sScan 0 [1, 0]
    s.canonical = true ∧ sdStream (s.bytes (pondAddr 0 0) 64) = 0 ∧ (s.setStrSt 0 0 2).strSt 0 0 = 2 ∧ s.strSt 0 0 ≠ 2 := by
  decide +kernel
def tScan (n : Nat) : ScanOp :=
  { issued := 100, pc := 0, part := 0, lc := 16, n := n, stream := 0, tile := 0, acc := 0, dmode := 0, g := 0, x := 0, b := 0, q := 0, gd := 0, yd := 0, cell := 3, comp := true }
theorem met_ScanOperations_complete : ∀ nan, let k : Chunk := ⟨tScan 1, 0, [], [], [], [], [], [], some (nan, 0)⟩
    let s := sVat (fun c => { c with chunk := [k] })
    s.canonical = true ∧ s.mainClk = true ∧ (s.vat 0).core.chunk = [k] ∧ k.ends = some (nan, 0) ∧ 100 + 0 + 16 + 48 ≤ (s.vat 0).cyc := by decide +kernel

def sStream (st : Nat) (e : SwapEng) : State :=
  { (((sVat id).setReg (Reg.SCN_STR_CFG 0 5) (2 ^ 63)).setStrSt 0 5 st) with swaps := e :: List.replicate 7 SwapEng.reset }
theorem met_StreamSwaps_out : (sStream 2 SwapEng.reset).canonical = true ∧ (sStream 2 SwapEng.reset).mainClk = true ∧ (sStream 2 SwapEng.reset).swapAnswer 0 5 true = 0 ∧
    (sStream 2 ⟨some ⟨4, true, true, 0⟩, [], [], []⟩).swapAnswer 0 5 true = 0 := by decide +kernel
theorem met_StreamSwaps_in : (sStream 0 SwapEng.reset).mainClk = true ∧ (sStream 0 SwapEng.reset).swapAnswer 0 5 false = 0 ∧ (sStream 4 SwapEng.reset).swapAnswer 0 5 false = 0 := by decide +kernel
theorem met_StreamSwaps_start : let s := sStream 0 ⟨none, [], [(7, 5, false)], []⟩
    s.canonical = true ∧ s.mainClk = true ∧ (s.swap 0).busy = none ∧ s.firstDue 0 = some (7, 5, false) ∧ s.saveOk 0 5 = true := by decide +kernel
theorem met_StreamSwaps_complete : ∀ inward init, let s := sStream 1 ⟨some ⟨5, inward, init, 100⟩, [], [], []⟩
    s.canonical = true ∧ s.mainClk = true ∧ (s.swap 0).busy = some ⟨5, inward, init, 100⟩ ∧ 100 + 262 ≤ (s.vat 0).cyc ∧ s.poisoned (pondAddr 0 (s.saveArea 0 5)) 0x20000 = false := by
  intro inward init
  exact ⟨by revert inward init; decide +kernel, rfl, by revert inward init; decide +kernel, by revert inward init; decide +kernel, clean (by rfl) _ _⟩

theorem met_MoverQueues_push : let t := (sVat id).issuer 0 14
    (sVat id).canonical = true ∧ (sVat id).mainClk = true ∧ (sVat id).Ready 0 (13 + 1) 0 ∧ fld 0 37 16 = 0 ∧ moverCount t.core 1 < 4096 ∧ (sVat id).pondMay 0 0 64 false = true ∧
      (sVat id).sliceOn 0 = none ∧ (sVat id).poisoned (pondAddr 0 0) 64 = false := ⟨by decide +kernel, rfl, ready_of (by decide +kernel), by decide +kernel⟩
theorem met_MoverQueues_full : let s := sVat (fun c => { c with movers := [⟨List.replicate 4096 ⟨0, [], none, none, [], [], []⟩, 0⟩, Mover.reset] })
    s.canonical = true ∧ s.mainClk = true ∧ s.Ready 0 (13 + 0) 0 ∧ 4096 ≤ moverCount (s.issuer 0 13).core 0 := ⟨by decide +kernel, rfl, ready_of (by decide +kernel), by decide +kernel⟩
theorem met_MoverQueues_entry : let s := sVat (fun c => { c with flights := [⟨1000, 990, 13, false, .mpush 0 [1]⟩] })
    let c := (s.vat 0).core
    s.canonical = true ∧ s.mainClk = true ∧ c.flights = [⟨1000, 990, 13, false, .mpush 0 [1]⟩] ∧ 1000 ≤ (s.vat 0).cyc ∧ 0 < c.movers.length := by decide +kernel

/-- A descriptor of a local copy of 64 bytes of hub SRAM to Pond (KIND 0), or of a sync-cell operation (KIND 1), its completion on cell 3, with a deadline. -/
def tCopy (deadline kind : Nat) : List Byte :=
  toLE 8 0x200101000000 ++ toLE 8 (if kind = 1 then 0x200003000028 else 0x200000001000) ++ toLE 4 64 ++ toLE 4 1 ++ toLE 4 0 ++ toLE 4 0 ++
    [BitVec.ofNat 8 kind, 0] ++ toLE 2 3 ++ toLE 4 deadline ++ List.replicate 24 0
def sMover (e : MvEntry) : State := { sVat (fun c => { c with movers := [⟨[e], 1⟩, Mover.reset] }) with tick := 800 }
/-- In a sub-slot whose segments the Vat owns: a sync-cell operation and a copy. -/
theorem met_MoverDescriptorsAndStreamFaults_start : ∀ kind, kind < 2 → let b := tCopy 0 kind
    let e : MvEntry := ⟨0, b, none, none, [], [], []⟩
    let s := sMover e
    s.canonical = true ∧ s.mainClk = true ∧ 0 < (s.vat 0).core.movers.length ∧ ((s.vat 0).core.mover 0).queue = [e] ∧ s.mvVerdict 0 b = none ∧
      s.owns (.vat 0) (s.mvPath 0 b) = true ∧ s.mvRemote b = false ∧ s.suppressed 0 = false ∧ s.waitsHeld (.mover 0 0 0) = false ∧ mvKind b = kind ∧ mvCodec b = 0 ∧
      mvImageParts b = [] := by decide +kernel
theorem met_MoverDescriptorsAndStreamFaults_copy : let b := tCopy 0 0
    let s := sMover ⟨0, b, none, none, [], [], []⟩
    (mvRowList b).length = 1 ∧ ∀ r ∈ mvRowList b, s.owns (.vat 0) (readRows 0 r.1 (mvRowBytes b)) = true ∧ s.owns (.vat 0) (s.writeRows 0 b r.2 (mvRowBytes b)) = true ∧
      s.poisoned r.1 (mvRowBytes b) = false := by decide +kernel
theorem met_MoverDescriptorsAndStreamFaults_refused : let b := List.replicate 64 (0xFF : Byte)
    let s := sMover ⟨0, b, none, none, [], [], []⟩
    s.canonical = true ∧ s.mainClk = true ∧ 0 < (s.vat 0).core.movers.length ∧ (s.mvVerdict 0 b).map (fun x => x.2) = some none := by decide +kernel
theorem met_MoverDescriptorsAndStreamFaults_end : ∀ k ∈ [stDone, stDeadlineMiss], let e : MvEntry := ⟨0, tCopy 0 0, some (9, 0), some k, [], [], []⟩
    let s := sMover e
    s.canonical = true ∧ s.mainClk = true ∧ ((s.vat 0).core.mover 0).queue = [e] ∧ e.fixed.getD (mvStatus e.fails) = k ∧ s.waitsHeld (.mover 0 0 0) = false ∧
      s.waitsMsg (.mover 0 0 0) = false ∧ bit (mvCell (tCopy 0 0)) 15 = false ∧ s.cellFree 0 (mvCell (tCopy 0 0) % 16384) (1 + 0) = true := by decide +kernel
theorem met_MoverDescriptorsAndStreamFaults_late : let e : MvEntry := ⟨0, tCopy 91 1, some (9, 0), none, [], [], []⟩
    (sMover e).canonical = true ∧ (sMover e).mainClk = true ∧ e.late (sMover e).fclk = true ∧ e.fetched = none ∧ ((sMover e).vat 0).core.movers.length = 2 := by decide +kernel
theorem met_MoverDescriptorsAndStreamFaults_landed : let l : List Byte := List.replicate 64 7
    let e : MvEntry := { (⟨0, tCopy 91 0, some (9, 0), none, [], [], []⟩ : MvEntry) with todo := [(0x101000000, 0x1000, 64)], got := [(0x1000, l, List.replicate 64 false)] }
    (sMover e).canonical = true ∧ (sMover e).mainClk = true ∧ e.late (sMover e).fclk = true ∧
      e.fetched = some ((0x101000000, 0x1000, 64), l, List.replicate 64 false) ∧ (sMover e).mvRemote (tCopy 91 0) = false ∧ mvCodec (tCopy 91 0) = 0 ∧
      (sMover e).suppressed 0 = false ∧ (sMover e).waitsTier (.mover 0 0 0) = false := by decide +kernel
theorem met_MoverDescriptorsAndStreamFaults_fault : let s := sVat (fun c => { c with stream := [(1000, 7, 3, 0), (1001, 7, 3, 0)] })
    s.canonical = true ∧ s.mainClk = true ∧ (s.vat 0).running = true ∧ (s.vat 0).faulted = false ∧
      (s.vat 0).core.stream.filter (fun x => decide (x.1 ≤ (s.vat 0).cyc)) = [(1000, 7, 3, 0)] := by decide +kernel

theorem met_AnOperationWithItsGuardOffDoesNothing : slotOp (.opAdd 0 1 (word [(51, 3)]) 0) = some (0, 2, word [(51, 3)]) ∧ (sBetween id).SlotOpen 0 2 ∧
    guardHolds ((sBetween id).vat 0).core.preds (oPred (word [(51, 3)])) (oNeg (word [(51, 3)])) = false :=
  ⟨by decide +kernel, ⟨rfl, by decide +kernel, fun _ => by decide +kernel, fun _ => by decide +kernel⟩, by decide +kernel⟩
theorem met_ResultsAndStoresLandWhereTheyWereSent : (sVat id).canonical = true ∧ mapWf 0 VatCore.reset.sregs = true ∧ mapWf (zeros 512) VatCore.reset.vregs = true ∧
    mapWf (List.replicate 64 0) VatCore.reset.descs = true ∧ mapWf 0 VatCore.reset.poss = true := by decide +kernel

/-! ### The frame table (02; 15 R393) -/

theorem met_SlotsAndFramesBegin_slot : let s := { tState2 2 0 0 0 with tick := 8000 }
    s.canonical = true ∧ s.mainClk = true ∧ s.slotDue = true := by decide +kernel
theorem met_SlotsAndFramesBegin_frame : ∀ stop, let s := { tState 0 0 with tick := 8000, frt := { (tState 0 0).frt with stopAt := stop } }
    s.canonical = true ∧ s.mainClk = true ∧ s.frameDue = some 1000 ∧ s.switchGroups 1000 = [] ∧ s.tableValid = true ∧ s.switchTakes 1000 = false ∧ s.frt.stopAt = stop := by
  decide +kernel
theorem met_SlotsAndFramesBegin_switch : let s0 := (tState 0 0).setRegBits Reg.FRT_STATUS 5 5 1
    let s := { s0 with tick := 8 * 17000, frt := { s0.frt with slotStart := 16000, switchAt := some 1000 } }
    s.canonical = true ∧ s.mainClk = true ∧ s.frameDue = some 17000 ∧ s.switchGroups 17000 = [] ∧ s.switchTakes 17000 = true := by decide +kernel
theorem met_SlotsAndFramesBegin_first : let s0 := (tState 0 0).setRegBits Reg.FRT_STATUS 5 1 0b10000
    let s := { s0 with tick := 8000, frt := { s0.frt with switchAt := some 1000 } }
    s.canonical = true ∧ s.mainClk = true ∧ s.tableValid = false ∧ (s.frameDue.map s.switchGroups) = some [] := by decide +kernel
/-- 02 R47: a frame of two 1 µs slots; slot 1 follows slot 0 at FCLK 1000. -/
theorem test_slot_start : let t := slotStartEffect { tState2 2 0 0 0 with tick := 8000 }
    t.slotNow = 1 ∧ t.frt.slotStart = 1000 := by decide +kernel

def sList (tick : Nat) (run : Bool) : State :=
  let s := (((tState2 2 (2 * 2 ^ 60 + 2 ^ 35) 0 0).setRegBits (Reg.FRT_FILL_EN 0) 0 0 1).setRegBits (Reg.FRT_VAT_STATE 0) 35 32 1).modVat 0 (fun t => { t with running := run, issuing := run })
  { s with tick := tick, frt := { s.frt with runs := { SlotRun.reset with list := some 0 } :: List.replicate 7 SlotRun.reset } }
theorem met_KernelsStartAndAreCut_start : let s := sList 0 false
    let e := fEntry (fillList s.table 0) (s.regBits (Reg.FRT_FILL_CUR 0) 5 0)
    let ke := kernEntry s.table (bits e 11 0)
    s.canonical = true ∧ s.mainClk = true ∧ s.tableValid = true ∧ s.frt.runs.length = 8 ∧ (s.run 0).list = some 0 ∧ (s.vat 0).running = false ∧ s.vatInReset 0 = false ∧
      (s.run 0).waitWindow = false ∧ bit (s.reg (Reg.FRT_FILL_EN 0)) 0 = true ∧ s.partHeld (kPart ke) = false ∧ s.entryReady 0 e = true ∧
      s.fclk + tTStart s.table + kCDecl ke ≤ s.cutPoint 0 0 := by decide +kernel
theorem met_KernelsStartAndAreCut_cut : let s := sList 7920 true
    s.canonical = true ∧ s.mainClk = true ∧ s.tableValid = true ∧ s.frt.runs.length = 8 ∧ (s.run 0).list = some 0 ∧ (s.vat 0).running = true ∧ s.cutPoint 0 0 ≤ s.fclk := by
  decide +kernel
theorem met_KernelsStartAndAreCut_overrun : let s := { (tState (2 ^ 60 + 0xFF * 2 ^ 36 + 2 ^ 35) 0).modVat 0 (fun t => { t with running := true, issuing := true }) with tick := 7920 }
    s.canonical = true ∧ s.mainClk = true ∧ s.tableValid = true ∧ s.frt.runs.length = 8 ∧ (s.run 0).list = none ∧ (s.vat 0).running = true ∧
      eType (s.entry s.slotNow 0) = 1 ∧ s.windowEnd 0 ≤ s.fclk + tGCut s.table := by decide +kernel

def sTest (tick : Nat) (lock : Nat) : State :=
  { (tState (3 * 2 ^ 60 + 2 ^ 35) 0).setReg (Reg.VAT_ACC_LOCK 0 0) lock with tick := tick, diag := { Diag.reset with pendSlices := [(0, [0, 1])] } }
theorem met_SelfTestSlicesStartDeferOrSkip : ∀ e ∈ [(0, 0), (8 * 985, 0), (8 * 986, 0), (0, 2 ^ 30)], let s := sTest e.1 e.2
    let p := s.plan (eOwner (s.entry s.slotNow 0))
    s.canonical = true ∧ s.mainClk = true ∧ s.frt.runs.length = 8 ∧ s.tableValid = true ∧ eType (s.entry s.slotNow 0) = 3 ∧ (s.vat 0).running = false ∧ s.vatInReset 0 = false ∧
      (s.run 0).waitWindow = false ∧ (s.run 0).lcDone = false ∧ (s.pendSlices 0).find? (fun i => decide (mapGet 0 s.diag.sliceNext 0 ≤ i)) = some 0 ∧
      (s.testBankLocked 0 (slTile p 0) = decide (e.2 ≠ 0)) ∧
      (decide (s.fclk + tGCut s.table + tTStart s.table + slD p 0 ≤ s.windowEnd 0) = decide (e.1 ≤ 8 * 985)) := by decide +kernel

theorem met_TablesLoadSwitchAndStop_refused : let s := State.reset.setRegBits Reg.FRT_STATUS 4 4 1
    s.canonical = true ∧ s.mainClk = true ∧ bit (1 : BitVec 32).toNat 0 = true ∧ (s.switchPending = true ∨ bit (s.reg Reg.FRT_STATUS) 4 = true) := by decide +kernel
theorem met_TablesLoadSwitchAndStop_load : ∀ n ∈ [0x400000, 0x400001], let s := State.reset.setReg Reg.FRT_LOAD_LEN n
    s.canonical = true ∧ s.mainClk = true ∧ s.switchPending = false ∧ bit (s.reg Reg.FRT_STATUS) 4 = false ∧ (0x400000 < s.reg Reg.FRT_LOAD_LEN ↔ n = 0x400001) := by decide +kernel
theorem met_TablesLoadSwitchAndStop_copied : let s := { State.reset with frt := { FrameTab.reset with load := some (0x200100000000, 0x1000) } }
    s.canonical = true ∧ s.mainClk = true ∧ s.frt.load = some (0x200100000000, 0x1000) := by decide +kernel
theorem met_TablesLoadSwitchAndStop_commands : (State.reset.setRegBits Reg.FRT_STATUS 3 2 3).idleLoaded = true ∧ (tState 0 0).tableValid = true ∧
    State.reset.tableValid = false := by decide +kernel

/-! ### Requests, registers and groups (01, 05, 17) -/

theorem met_RequestsAreCheckedOnceAndMove_register : let s := tState 0 0
    s.canonical = true ∧ s.mainClk = true ∧ gaDev (0x300000000000 : BitVec 54).toNat = s.devId ∧ regionOf (gaLocal (0x300000000000 : BitVec 54).toNat) = .regs ∧
      (rowAt (keyOfAddr 0x300000000000)).all (fun r => r.width == 8 * 4) = true := by decide +kernel
theorem met_RequestsAreCheckedOnceAndMove_refused : ∀ op ∈ [FabricOp.read 8, .write [1], .cell (.add 1)], let s := tState 0 0
    s.canonical = true ∧ s.mainClk = true ∧ gaDev (0x10 : BitVec 54).toNat = s.devId ∧ s.admits .harp (s.actsFor .harp 1) (wantOf op) 0x10 (lenOf op) = false := by decide +kernel
theorem met_RequestsAreCheckedOnceAndMove_moves : ∀ e ∈ [(0x200000002000, FabricOp.read 1), (0x200102000000, .write [1, 2]), (0x200003000008, .cell (.add 1))],
    let s := tState 0 8
    let a := gaLocal (BitVec.ofNat 54 e.1).toNat
    s.canonical = true ∧ s.mainClk = true ∧ gaDev (BitVec.ofNat 54 e.1).toNat = s.devId ∧ s.admits .harp (s.actsFor .harp 0) (wantOf e.2) a (lenOf e.2) = true ∧
      regionOf a ≠ .image ∧ s.pathOpen .harp (pathRows .harp (extentRegion a (lenOf e.2)) (wantOf e.2 == .r)) = true ∧ s.poisoned a (lenOf e.2) = false := by
  decide +kernel

def tGroup (slot target : Nat) (l : List CEntry) : CGroup := ⟨3, slot, 77, 3, 0, target, 0, l, 10, some 20⟩
def sGroup (l : List CEntry) : State := { State.reset with cg := { State.reset.cg with pending := [tGroup 7 0 l], bridge := [tGroup 7 1 l] } }
theorem met_GroupsApplyWholeOrNotAtAll : let s := sGroup []
    s.canonical = true ∧ s.mainClk = true ∧ s.mig.waits = false ∧ 7 < 8 ∧ firstCommit s.cg.pending = some 20 ∧ s.cg.pending.filter (fun x => x.commit == some 20) = [tGroup 7 0 []] ∧
      s.cg.bridge = tGroup 7 1 [] :: [] := by decide +kernel
theorem met_GroupsApplyWholeOrNotAtAll_applies : let s := sGroup [⟨1, 0, 0x300000000000 + Reg.LOOP_PERIOD, 1600⟩]
    let a := s.modCg (fun u => { u with pending := u.pending.filter (fun x => x.commit != some 20) })
    (a.runGroup 3 0 77 [⟨1, 0, 0x300000000000 + Reg.LOOP_PERIOD, 1600⟩]).isLeft = true ∧ (a.runGroup 3 0 77 [⟨1, 0, 0x300000000000 + Reg.LOOP_PERIOD, 5⟩]).isRight = true := by decide +kernel

/-- A group that brings the planner into service while the read of its body table waits for its path. -/
theorem met_GroupsApplyWholeOrNotAtAll_waits : let l : List CEntry := [⟨1, 0, 0x300000000000 + Reg.PLN_CTRL, 1⟩]
    let s : State := { ((tState 0 0).setReg Reg.PLN_CFG 1).setReg Reg.PLN_BODY_BASE 0x1000000 with cg := { CgUnit.reset with pending := [tGroup 7 0 l] } }
    let a := s.modCg (fun u => { u with pending := u.pending.filter (fun x => x.commit != some 20) })
    s.canonical = true ∧ s.mainClk = true ∧ s.mig.waits = false ∧
      (match a.runGroup 3 0 77 l with | .inl u => ((u.groupDone (tGroup 7 0 l)).separateAfter l).mig.waits | .inr _ => false) = true := by decide +kernel

/-- 17 R449: the group's write is stored and CG_APPLY_CNT steps. -/
theorem test_group_applies : let t := commitEvaluateEffect none (sGroup [⟨1, 0, 0x300000000000 + Reg.LOOP_PERIOD, 3200⟩])
    t.reg Reg.LOOP_PERIOD = 3200 ∧ t.reg Reg.CG_APPLY_CNT = 1 ∧ t.regBits (Reg.CG_STATUS 7) 2 0 = 2 := by decide +kernel

theorem met_RegisterWritesAreStoredOrRefused_unmapped : State.reset.canonical = true ∧ State.reset.mainClk = true ∧ regionOf (0x300006000000 : BitVec 48).toNat = .regs ∧
    blockAssigned (keyBlk (keyOfAddr (0x300006000000 : BitVec 48).toNat)) = false := by decide +kernel
theorem met_RegisterWritesAreStoredOrRefused_refused : ∀ e ∈ [(0, 0x5C), (7, 0x200)], let k := regKey e.1 e.2
    regionOf (BitVec.ofNat 48 (0x300000000000 + k)).toNat = .regs ∧ blockAssigned (keyBlk k) = true ∧
      (State.reset.writeRefusal ⟨1, 0, State.reset.settingOf [⟨1, 0, 0x300000000000 + k, 0⟩]⟩ k 32 0).isSome = true ∧
      (keyBlk k ≤ 1 → (State.reset.writeRefusal ⟨1, 0, []⟩ k 32 0).isSome = true) := by decide +kernel
theorem met_RegisterWritesAreStoredOrRefused_stored : let k := Reg.VAT_CHK_LAG 7
    blockAssigned (keyBlk k) = true ∧ (rowAt k).any (fun r => decide (r.acc = .rw) && r.width == 32) = true ∧ keyBlk k = 0x27 ∧
      State.reset.writeRefusal ⟨3, 0, []⟩ k 32 16 = none := by decide +kernel

theorem met_GroupsAreStagedWithdrawnAndCommitted : let g : CGroup := { tGroup 7 0 [] with commit := none }
    let s := { State.reset with tick := 800, cg := { State.reset.cg with pending := [g] } }
    s.canonical = true ∧ s.mainClk = true ∧ bit (1 : BitVec 32).toNat 0 = true ∧ (List.range 8).find? s.slotFree = some 0 ∧
      s.cg.pending.find? (fun g => g.slot == (7 : Fin 8).val && g.commit == none) = some g ∧ s.commitDue g = true := by decide +kernel
theorem met_GroupsAreStagedWithdrawnAndCommitted_full :
    let s := (List.range 8).foldl (fun s k => s.setReg (Reg.CG_STATUS k) 1) State.reset
    s.canonical = true ∧ s.mainClk = true ∧ (List.range 8).find? s.slotFree = none := by decide +kernel

def tRec (k : Nat) : EvRecord := ⟨131071, 0, 1, k, 0, 0, 0, 0, 0, 0, 0⟩
def sEvr (n : Nat) (f : Recorder → Recorder) : State := { State.reset with rclk := 400000000, evr := f { Recorder.reset with buffer := List.replicate n (tRec 1) } }
theorem met_RecordsArePostedFlushedAndRead : ∀ n ∈ [4095, 4096], (sEvr n id).canonical = true ∧ (sEvr n id).mainClk = true ∧ (sEvr n id).rindRuns = true ∧ (sEvr n id).evr.buffer.length = n := by
  decide +kernel
theorem met_RecordsArePostedFlushedAndRead_flush : let s := sEvr 1 (fun e => { e with flushing := true })
    s.rindRuns = true ∧ s.evr.flushing = true ∧ s.nvInhibited = false ∧ s.evr.buffer = tRec 1 :: [] ∧ s.evr.pfRecord = none := by decide +kernel
theorem met_RecordsArePostedFlushedAndRead_timer : (sEvr 0 id).evr.flushing = false ∧ (sEvr 0 id).evr.lastFlush + 400000000 ≤ (sEvr 0 id).rclk := by decide +kernel
theorem met_RecordsArePostedFlushedAndRead_window : (State.reset.setReg Reg.OBS_MODE 1).regBits Reg.OBS_MODE 1 0 ≠ 0 := by decide +kernel
/-- 17 R452, R454: EVENT_MARK posts a record of KIND 5 with VALUE, without a flush. -/
theorem test_event_mark : let t := eventMarkEffect 9 2 (sEvr 0 id)
    t.evr.buffer.map (fun r => (r.kind, r.detail)) = [(5, 9 + 2 * 2 ^ 64)] ∧ t.evr.flushing = false := by decide +kernel

def sSnap (w : Nat) : State := { State.reset.setReg Reg.SNP_CTRL w with snapCmp := true }
theorem met_SupplySagsAndSnapshots : (sSnap 5).canonical = true ∧ (sSnap 5).mainClk = true ∧ (sSnap 5).now.snap ≠ some (sSnap 5).fclk ∧ (16 : BitVec 5) ≠ 0 ∧ bit ((sSnap 5).reg Reg.SNP_CTRL) 0 = true ∧ bit ((sSnap 4).reg Reg.SNP_CTRL) 0 = false ∧
    (sSnap 5).snapCmp = true ∧ bit ((sSnap 5).reg Reg.SNP_CTRL) 2 = true ∧ (sSnap 5).reached (toInt 64 ((sSnap 5).reg Reg.SNP_CMP_T)) = true := by decide +kernel
theorem met_SupplySagsAndSnapshots_same : let s := { sSnap 4 with now := ⟨[], [], [], some 0⟩ }
    s.canonical = true ∧ s.mainClk = true ∧ s.now.snap = some s.fclk := by decide +kernel
theorem met_SupplySagsAndSnapshots_sag : State.reset.canonical = true ∧ State.reset.rindRuns = true ∧ State.reset.pfw = false ∧
    (State.reset.setRegBit Reg.EVR_STATUS 2).pfw = true ∧ (State.reset.setRegBit Reg.EVR_STATUS 2).nvInhibited = false := by decide +kernel
theorem met_ReadsOfCountersLogsAndTheObservationPort : ∀ e ∈ [(Reg.CG_APPLY_CNT, Access.rc), (Reg.MIG_CPL, .ra)],
    regionOf (BitVec.ofNat 48 (0x300000000000 + e.1)).toNat = .regs ∧ blockAssigned (keyBlk e.1) = true ∧ (rowAt e.1).any (fun r => decide (r.acc = e.2)) = true ∧
      e.1 ≠ Reg.OBS_TRC_POP0 := by decide +kernel
theorem met_ReadsOfCountersLogsAndTheObservationPort_none : blockAssigned (keyBlk (regKey 7 0xFFFF8)) = true ∧ (rowAt (regKey 7 0xFFFF8)).isNone = true ∧
    blockAssigned (keyBlk 0x6000000) = false ∧ regionOf (0x300006000000 : BitVec 48).toNat = .regs := by decide +kernel
theorem met_ReadsOfCountersLogsAndTheObservationPort_trace : let s := { State.reset with trace := [⟨9, 0, 5, 7⟩], traceDrop := (2, 9) }
    s.canonical = true ∧ s.mainClk = true ∧ s.trace = [⟨9, 0, 5, 7⟩] ∧ bit (s.reg Reg.OBS_MODE) 8 = false := by decide +kernel
theorem met_ReadsOfCountersLogsAndTheObservationPort_port : let s := State.reset.setReg Reg.OBS_MODE 1
    State.reset.canonical = true ∧ State.reset.mainClk = true ∧ State.reset.regBits Reg.OBS_MODE 1 0 = 0 ∧ s.regBits Reg.OBS_MODE 1 0 ≠ 0 ∧ (0x300000000000 : BitVec 48).toNat % 4 = 0 ∧
      (rowAt (keyOfAddr (0x300000000000 : BitVec 48).toNat)).any (fun r => r.width == 32) = true ∧ bit (s.reg Reg.OBS_MODE) 8 = false := by decide +kernel

/-! ### Migration (05) -/

/-- Image slot 0 maps n pages from page 0 of the window, whose one leaf shows word w for page 0. -/
def tMem (n w : Nat) : List Host.Cell :=
  memStore (memStore (memStore [] hubBase (toLE 8 0 ++ toLE 8 imageBase ++ toLE 8 0 ++ toLE 4 n ++ [1, 2, 1, 0])) (hubBase + 0x8000) (toLE 4 (2 ^ 31)))
    (hubBase + 0x10000) (toLE 8 w)
def sMig (n w : Nat) (m : Migration) : State := { tState 0 13 with mem := tMem n w, mig := m }
def tHeld (who : Waiter) (seen : Bool) : HeldRead := ⟨who, imageBase, 64, 0, 0, some 90, seen⟩
def tFill : Fill := ⟨0, 2, some 5, true, true, some 7, false, true⟩
theorem met_MigrationQueueLinkAndScrubbing : let m := { Migration.reset with updates := [(1, 7, 3, 0), (0, 8, 0, 64)], queue := List.replicate 63 [], evicts := [⟨9, 0, true⟩], scrub := [(7, pondSize - 8)] }
    let s := { (sMig 1 0 m).setReg Reg.MIG_AQ_STATUS 0x100 with tick := 8 * 294 }
    s.canonical = true ∧ s.mainClk = true ∧ s.mig.updates.findIdx? (fun u => u.1 == (0 : Fin 2).val) = some 1 ∧ s.mig.updates[1]? = some (0, 8, 0, 64) ∧ s.mig.queue.length < 64 ∧
      bit (s.reg Reg.MIG_AQ_STATUS) 8 = true ∧ s.mig.fills = [] ∧ s.mig.evicts = ⟨9, 0, true⟩ :: [] ∧ 0 + 294 ≤ s.fclk ∧ s.mig.job = none ∧
      mapGet 0 s.mig.scrub 7 % 8 = 0 ∧ mapGet 0 s.mig.scrub 7 < (scrubMem 7).2 := by decide +kernel
theorem met_MigrationQueueLinkAndScrubbing_full : let s := sMig 1 0 { Migration.reset with queue := List.replicate 64 [] }
    s.canonical = true ∧ s.mainClk = true ∧ 64 ≤ s.mig.queue.length ∧ s.refreshNow ≠ 0 ∧ s.mig.refreshed ≠ s.refreshNow := by decide +kernel

theorem met_MissesAndFillsMovePages_miss : ∀ e ∈ [(0, []), (2 ^ 59, []), (0, [tFill]), (0, List.replicate 256 { tFill with page := 9 })],
    let s := sMig 1 (2 ^ 63 + e.1) { Migration.reset with held := [tHeld (.client 15) false], fills := e.2 }
    s.canonical = true ∧ s.mainClk = true ∧ s.mig.held.find? (fun h => !h.seen) = some (tHeld (.client 15) false) ∧ pageOf (tHeld (.client 15) false).addr = 0 ∧ lfL (s.leaf 0) = false ∧
      (lfFault (s.leaf 0) = decide (e.1 ≠ 0)) ∧ (s.mig.fills.any (fun f => f.page == 0 && f.demand) = decide (e.2 = [tFill])) ∧
      (s.missPages = e.2.length) := by decide +kernel
theorem met_MissesAndFillsMovePages_resident : let s := sMig 1 (2 ^ 63 + 2 ^ 62) { Migration.reset with held := [tHeld (.client 15) false] }
    s.canonical = true ∧ s.mainClk = true ∧ s.mig.held.find? (fun h => !h.seen) = some (tHeld (.client 15) false) ∧ lfL (s.leaf 0) = true := by decide +kernel
theorem met_MissesAndFillsMovePages_waits : let s := sMig 1 (2 ^ 63) { Migration.reset with held := [tHeld (.client 15) false], fills := List.replicate 255 { tFill with page := 9 } }
    s.mig.fills.any (fun f => f.page == 0) = false ∧ s.missPages < 256 ∧ s.FillWaits :=
  ⟨by decide +kernel, by decide +kernel, { tFill with page := 9 }, List.replicate 254 { tFill with page := 9 }, rfl, rfl, rfl⟩
theorem met_MissesAndFillsMovePages_release : let s := { sMig 1 (2 ^ 63) { Migration.reset with held := [tHeld (.client 15) true], dies := [(0, 6)] } with frt := (tState 0 15).frt, regs := (tState 0 15).regs }
    s.canonical = true ∧ s.mainClk = true ∧ s.mig.held.find? (fun h => s.canRelease h) = some (tHeld (.client 15) true) ∧ s.dieFrame 0 0 = some 5 ∧ s.framePoisoned 5 imageBase 64 = false := by
  decide +kernel
theorem met_MissesAndFillsMovePages_fails : let s := { sMig 1 (2 ^ 63) { Migration.reset with fills := [tFill] } with tick := 8 * 10000007 }
    s.canonical = true ∧ s.mainClk = true ∧ s.mig.fills = [tFill] ∧ s.mig.job = none ∧ tFill.reading = some 7 ∧ 7 + 10000000 ≤ s.fclk := by decide +kernel

theorem memBytes_outside {m : List Host.Cell} (h : memWf m = true) {a : Nat} {l : List Byte} : ∀ n x, x + n ≤ a ∨ a + l.length ≤ x →
    memBytes (memStore m a l) x n = memBytes m x n
  | 0, _, _ => rfl
  | n + 1, x, hx => by
    rw [memBytes, memBytes, memByte_memStore_outside h (by omega), memBytes_outside h n (x + 1) (by omega)]
theorem memBytes_four {m : List Host.Cell} (h : memWf m = true) (a c : Nat) (hc : c < 2 ^ 32) : fromLE (memBytes (memStore m a (toLE 4 c)) a 4) = c := by
  have g := fun i (hi : i < (toLE 4 c).length) => memByte_memStore (a := a) (l := toLE 4 c) h hi
  simp only [memBytes, Nat.add_assoc]
  have g0 := g 0 (by simp [toLE]); have g1 := g 1 (by simp [toLE]); have g2 := g 2 (by simp [toLE]); have g3 := g 3 (by simp [toLE])
  simp only [toLE, Nat.add_zero, List.getElem_cons_zero, List.getElem_cons_succ] at g0 g1 g2 g3
  simp only [toLE, g0, g1, g2, g3, fromLE, BitVec.toNat_ofNat]
  omega
theorem crc32cBits_lt : ∀ n r, r < 2 ^ 32 → crc32cBits n r < 2 ^ 32
  | 0, _, h => h
  | n + 1, r, h => by
    unfold crc32cBits
    refine crc32cBits_lt n _ ?_
    split
    · exact Nat.xor_lt_two_pow (by omega) (by decide)
    · omega
theorem crc32c_lt (l : List Byte) : crc32c l < 2 ^ 32 := by
  have k : ∀ (l : List Byte) r, r < 2 ^ 32 → l.foldl crc32cByte r < 2 ^ 32 := by
    intro l
    induction l with
    | nil => intro r h; exact h
    | cons b l ih => intro r h; exact ih _ (crc32cBits_lt 8 _ (Nat.xor_lt_two_pow h (Nat.lt_trans b.isLt (by decide))))
  exact Nat.xor_lt_two_pow (k l _ (by decide)) (by decide)

/-- A page of zeros. -/
def zeroPage : List Byte := List.replicate 0x200000 0
/-- Page 0 of the image, with CRC c in its leaf entry. -/
def sPage (c w : Nat) (m : Migration) : State := { sMig 1 w m with mem := memStore (tMem 1 w) (hubBase + 0x10008) (toLE 4 c) }
theorem sPage_leafAddr (c w : Nat) (m : Migration) (hw : memWf (tMem 1 w) = true) (hl : (sMig 1 w m).leafAddr 0 = some (hubBase + 0x10000)) :
    (sPage c w m).leafAddr 0 = some (hubBase + 0x10000) := by
  have hi : (sPage c w m).iptBase = (tState 0 13).iptBase := by simp only [sPage, sMig, State.iptBase, State.regBits, State.reg]
  have hm : (sMig 1 w m).iptBase = (tState 0 13).iptBase := by simp only [sMig, State.iptBase, State.regBits, State.reg]
  have hb : (tState 0 13).iptBase = hubBase := by decide +kernel
  have hx := memBytes_outside hw (a := hubBase + 0x10008) (l := toLE 4 c) 4 (hubBase + 0x8000 + 4 * (0 / 1024)) (Or.inl (by decide))
  rw [← hl]
  simp only [State.leafAddr, State.loadLE, State.bytes, hi, hm, hb]
  rw [show (sPage c w m).mem = memStore (tMem 1 w) (hubBase + 0x10008) (toLE 4 c) from rfl, hx]
  rfl
theorem sPage_canonical (c w : Nat) (m : Migration) (hw : memWf (tMem 1 w) = true) : (sPage c w m).canonical = true := by
  simp only [State.canonical, Bool.and_eq_true]
  exact ⟨⟨⟨memWf_memStore hw, (by decide +kernel : mapWf 0 State.reset.cells = true)⟩, (by decide +kernel : mapWf 0 (tState 0 13).regs = true)⟩,
    (by decide +kernel : State.reset.shaped = true)⟩
theorem sPage_crc (c w : Nat) (m : Migration) (hc : c < 2 ^ 32) (hw : memWf (tMem 1 w) = true) (hl : (sMig 1 w m).leafAddr 0 = some (hubBase + 0x10000)) :
    (sPage c w m).leafCrc 0 = c := by
  simp only [State.leafCrc, sPage_leafAddr c w m hw hl, State.loadLE, State.bytes]
  exact memBytes_four hw _ _ hc
theorem sPage_leaf (c w : Nat) (m : Migration) (hw : memWf (tMem 1 w) = true) (hl : (sMig 1 w m).leafAddr 0 = some (hubBase + 0x10000)) :
    (sPage c w m).leaf 0 = (sMig 1 w m).leaf 0 := by
  have hx := memBytes_outside hw (a := hubBase + 0x10008) (l := toLE 4 c) 8 (hubBase + 0x10000) (Or.inl (by decide))
  simp only [State.leaf, sPage_leafAddr c w m hw hl, hl, State.loadLE, State.bytes]
  rw [show (sPage c w m).mem = memStore (tMem 1 w) (hubBase + 0x10008) (toLE 4 c) from rfl, hx]
  rfl
def tRead : Migration := { Migration.reset with fills := [tFill], resv := [(3, (9 : Nat))] }
def tStored : Migration := { Migration.reset with fills := [{ tFill with reading := none }] }
theorem sPage_clock (c w : Nat) (m : Migration) : (sPage c w m).mainClk = true ∧ (sPage c w m).mig = m := ⟨rfl, rfl⟩
theorem sPage_owns (c w : Nat) (m : Migration) (l : List Nat) : (sPage c w m).engineOwns l = ({ tState 0 13 with mig := m } : State).engineOwns l := rfl
theorem sPage_reservoir (c : Nat) : (sPage c (2 ^ 63) tRead).takeReservoir.isSome = true := by rfl
theorem met_MissesAndFillsMovePages_read : let s := sPage (crc32c zeroPage) (2 ^ 63) tRead
    s.canonical = true ∧ s.mainClk = true ∧ s.mig.job = none ∧ s.engineOwns [29] = true ∧ s.engineOwns [28] = true ∧ tFill.reading = some 7 ∧ s.mig.fills = [tFill] ∧ tFill.page = 0 ∧ zeroPage.length = 0x200000 ∧ crc32c zeroPage = s.leafCrc 0 ∧ s.takeReservoir.isSome = true :=
  ⟨sPage_canonical _ _ _ (by decide +kernel), (sPage_clock ..).1, by rw [(sPage_clock ..).2]; rfl, (sPage_owns ..).trans (by decide +kernel),
    (sPage_owns ..).trans (by decide +kernel), rfl, by rw [(sPage_clock ..).2]; rfl, rfl, List.length_replicate,
    (sPage_crc _ _ _ (crc32c_lt _) (by decide +kernel) (by decide +kernel)).symm, sPage_reservoir _⟩
theorem memBytes_empty (a : Nat) : ∀ n, memBytes ([] : List Host.Cell) a n = List.replicate n 0 := by
  intro n
  induction n generalizing a with
  | zero => rfl
  | succ n ih => rw [memBytes, ih, List.replicate_succ]; rfl
theorem met_MissesAndFillsMovePages_lake : let s := sPage (crc32c zeroPage) (2 ^ 63 + 2 ^ 58 + 3) tStored
    s.canonical = true ∧ s.mainClk = true ∧ s.mig.job = none ∧ s.engineOwns [28] = true ∧ s.engineOwns (pathRows .migration (.lake 0) false) = true ∧
      s.mig.fills = [{ tFill with reading := none }] ∧ tFill.frame = some 5 ∧ lfR (s.leaf 0) = true ∧
      crc32c (memBytes s.mig.rmem (lfRFrame (s.leaf 0) * 0x200000) 0x200000) = s.leafCrc 0 := by
  refine ⟨sPage_canonical _ _ _ (by decide +kernel), (sPage_clock ..).1, by rw [(sPage_clock ..).2]; rfl, (sPage_owns ..).trans (by decide +kernel),
    (sPage_owns ..).trans (by decide +kernel), by rw [(sPage_clock ..).2]; rfl, rfl, ?_, ?_⟩
  · rw [sPage_leaf _ _ _ (by decide +kernel) (by decide +kernel)]; decide +kernel
  · rw [sPage_crc _ _ _ (crc32c_lt _) (by decide +kernel) (by decide +kernel)]
    exact congrArg crc32c (memBytes_empty _ _)

/-- A migration command: OP, stack, COUNT, MAP's base and fields. -/
def tCmd (op stack first count : Nat) (base : Nat) : List Byte :=
  [BitVec.ofNat 8 op, BitVec.ofNat 8 stack] ++ toLE 2 (if op = 1 then 1 else 0) ++ toLE 4 first ++ toLE 4 count ++ toLE 4 77 ++ toLE 8 0 ++ toLE 8 0 ++ toLE 8 0 ++
    toLE 8 base ++ toLE 8 0 ++ (if op = 1 then [1, 3] else [0, 0]) ++ List.replicate 6 0
def sCmd (w : Nat) (b : List Byte) : State :=
  ({ State.reset with mem := tMem 2 w, mig := { Migration.reset with queue := [b] } } : State).setReg Reg.MIG_AQ_STATUS 0x314
theorem met_MigrationCommandsAct_range : ∀ op ∈ [2, 3, 4, 5, 6, 7, 8, 9], ∀ n ∈ [2, 3], let s := sCmd (2 ^ 63) (tCmd op 0 0 n 0)
    s.canonical = true ∧ s.mainClk = true ∧ s.mcFront op = some (tCmd op 0 0 n 0) ∧ s.mcRange (tCmd op 0 0 n 0) = decide (n = 2) ∧ (s.mig.queue.drop 1).head? = none := by decide +kernel
theorem met_MigrationCommandsAct_map : ∀ e ∈ [(imageBase + 0x80000000, true), (imageBase, true), (imageBase + 1, false)],
    let b := tCmd 1 0 0 1 e.1
    let s := sCmd (2 ^ 63) b
    let q := pageOf (mcBaseField b)
    s.mcFront 1 = some b ∧ mcMapFields b = e.2 ∧
      (imgValid (s.imgEntry (mcSlot b)) || (List.range (mcCount b)).any (fun i => lfMapped (s.leaf (q + i)))) = decide (e.1 < imageBase + 2) ∧
      (s.dirsWithout q (mcCount b)).length ≤ 1 := by decide +kernel
theorem tMem_dir (d : Nat) (h : 1 ≤ d) (k : d < 8192) : fromLE (memBytes (tMem 2 (2 ^ 63)) (hubBase + 0x8000 + 4 * d) 4) = 0 := by
  have w1 : memWf (memStore [] hubBase (toLE 8 0 ++ toLE 8 imageBase ++ toLE 8 0 ++ toLE 4 2 ++ [1, 2, 1, 0])) = true := by decide +kernel
  have w2 := memWf_memStore (a := hubBase + 0x8000) (l := toLE 4 (2 ^ 31)) w1
  rw [tMem, memBytes_outside w2 4 _ (Or.inl (by omega)), memBytes_outside w1 4 _ (Or.inr (by simp only [toLE, List.length_cons, List.length_nil]; omega)),
    memBytes_outside (by decide) 4 _ (Or.inr (by simp only [toLE, List.length_cons, List.length_nil, List.length_append]; omega))]
  rfl
theorem sCmd_iptBase (b : List Byte) : (sCmd (2 ^ 63) b).iptBase = hubBase := by
  have h : (sCmd (2 ^ 63) b).regs = (State.reset.setReg Reg.MIG_AQ_STATUS 0x314).regs := rfl
  simp only [State.iptBase, State.regBits, State.reg, h]
  decide +kernel
theorem sCmd_leaves (b : List Byte) : (sCmd (2 ^ 63) b).leavesUsed.length ≤ 1 := by
  have hb := sCmd_iptBase b
  have hm : (sCmd (2 ^ 63) b).mem = tMem 2 (2 ^ 63) := by rfl
  have hr : List.range 8192 = 0 :: (List.range 8191).map Nat.succ := List.range_succ_eq_map
  have hn : ((List.range 8191).map Nat.succ).filterMap (fun d => let e := (sCmd (2 ^ 63) b).loadLE ((sCmd (2 ^ 63) b).iptBase + 0x8000 + 4 * d) 4
      if bit e 31 then some (bits e 8 0) else none) = [] := by
    rw [List.filterMap_eq_nil_iff]
    intro d hd
    simp only [List.mem_map, List.mem_range] at hd
    simp only [State.loadLE, State.bytes, hb, hm, tMem_dir d (by omega) (by omega)]
    rfl
  rw [State.leavesUsed, hr, List.filterMap_cons, hn]
  split <;> simp
theorem met_MigrationCommandsAct_room (b : List Byte) (n : Nat) (h : n ≤ 1) : ¬ 512 < (sCmd (2 ^ 63) b).leavesUsed.length + n := by
  have := sCmd_leaves b
  omega
theorem met_MigrationCommandsAct_full : let b := tCmd 1 0 0 524288 (imageBase + 1025 * 0x200000)
    let s := sCmd (2 ^ 63) b
    let q := pageOf (mcBaseField b)
    s.mcFront 1 = some b ∧ mcMapFields b = true ∧
      (imgValid (s.imgEntry (mcSlot b)) || (List.range (mcCount b)).any (fun i => lfMapped (s.leaf (q + i)))) = false ∧
      512 < s.leavesUsed.length + (s.dirsWithout q (mcCount b)).length := by
  intro b s q
  have hq : q = 1025 := by decide +kernel
  have hc : mcCount b = 524288 := by decide +kernel
  have hb : s.iptBase = hubBase := sCmd_iptBase b
  have hm : s.mem = tMem 2 (2 ^ 63) := by rfl
  have hn : (s.dirsWithout q (mcCount b)).length = 513 := by decide +kernel
  refine ⟨by decide +kernel, by decide +kernel, ?_, by omega⟩
  rw [Bool.or_eq_false_iff]
  refine ⟨by decide +kernel, ?_⟩
  rw [List.any_eq_false, hc, hq]
  intro i hi
  rw [List.mem_range] at hi
  simp only [State.leaf, State.leafAddr, State.loadLE, State.bytes, hb, hm, tMem_dir ((1025 + i) / 1024) (by omega) (by omega)]
  exact (by decide : ¬ lfMapped 0 = true)
theorem met_MigrationCommandsAct_unmap : ∀ w ∈ [2 ^ 63, 2 ^ 63 + 2 ^ 60], let b := tCmd 2 0 0 2 0
    (sCmd w b).unmapBlocked b ((sCmd w b).imgEntry (mcSlot b)) = decide (w ≠ 2 ^ 63) := by decide +kernel
theorem met_MigrationCommandsAct_moved : let w := 2 ^ 63 + 2 ^ 62 + 2 ^ 58 + 12288 * 2 ^ 32
    (∀ op ∈ [3, 4, 5, 7], let b := tCmd op (if op = 4 then 1 else 0) 0 1 0
      let s := sCmd w b
      s.mcFront op = some b ∧ s.mcRange b = true ∧ (s.mcPages b).all (fun q => lfL (s.leaf q) || lfR (s.leaf q)) = true ∧
        (op = 4 → (s.mcPages b).all (fun q => lfL (s.leaf q) && lfLFrame (s.leaf q) / 12288 == mcStack b) = true) ∧
        (op = 7 → (s.mcPages b).filter (fun q => lfL (s.leaf q) && !lfPin (s.leaf q)) ≠ [])) := by decide +kernel
theorem met_MigrationCommandsAct_stage : let b := tCmd 3 0 0 1 0
    let s := sCmd (2 ^ 63) b
    (s.mcPages b).head? = some 0 ∧ lfL (s.leaf 0) = false ∧ lfR (s.leaf 0) = false ∧ lfFault (s.leaf 0) = false ∧ bit (s.reg Reg.MIG_AQ_STATUS) 9 = true ∧
      (s.mcPages b).filter (fun q => lfL (s.leaf q) && !lfPin (s.leaf q)) = [] := by decide +kernel

/-! ### Compared cores, Harp and the walker (04, 06, 07, 15) -/

def sHeld : State := (sVat (fun c => { c with flights := [⟨1002, 990, 1, true, .sreg 1 0⟩] })).modVat 0 (fun t => { t with cyc0 := some 0, cyc := 4096 })
theorem met_CoresAreComparedAndStopped_vat : sHeld.canonical = true ∧ sHeld.mainClk = true ∧ sHeld.compares (.vat 0) = true ∧ sHeld.nextHeld 0 = some ⟨1002, 990, 1, true, .sreg 1 0⟩ ∧
    sHeld.atCheckpoint (.vat 0) = true := by decide +kernel
def sCore : State := { (sVat id).setReg Reg.LOOP_CTRL 1 with tick := 8 * 8192, rclk := 4096, lp := { Loop.reset with half := 1, axes := List.replicate 8 { LoopAxis.reset with held := some 5 } ++ List.replicate 56 LoopAxis.reset } }
theorem met_CoresAreComparedAndStopped : sCore.canonical = true ∧ sCore.mainClk = true ∧ (3 : Fin 4) ≠ 0 ∧
    (∀ c ∈ [RepCore.solver, .planner, .rind 0, .rind 1] ++ (List.finRange 8).map (fun l => .lane l), sCore.compares c = true ∧ sCore.atCheckpoint c = true) ∧
    (∀ t ∈ [([] : List (Nat × Nat)), [(64, 0)]], let u := { sCore with tick := 400000000, start := { sCore.start with step := 8 }, diag := { sCore.diag with laneT := t } }
      u.canonical = true ∧ u.fclk = 50000000 ∧ 8 ≤ u.start.step ∧ (u.diag.laneT.find? (fun x => x.1 == 2 * (16 * (repNumber .solver).1 + (repNumber .solver).2)) = t.head?)) ∧ (∀ l : Fin 8, sCore.laneAxis l.val = some l.val ∧ (sCore.axis l.val).held = some 5 ∧ l.val < sCore.lp.axes.length) := by decide +kernel
theorem met_CoresAreComparedAndStopped_checksum : ∀ lc ∈ [true, false], let s := sVat (fun c => { c with tmms := [(2, 1005, 7, lc)] })
    s.canonical = true ∧ s.mainClk = true ∧ (s.vat 0).core.checkedTmm (s.vat 0).cyc (2 : TileNo) = some (2, 1005, 7, lc) := by decide +kernel
theorem met_CoresAreComparedAndStopped_journal : let s := { sVat id with diag := { Diag.reset with journals := [(0, [(1000, 5)])] } }
    mapGet [] s.diag.journals (repJournal (.vat 0)) = (1000, 5) :: [] ∧ 1000 ≤ (s.coreClock (repJournal (.vat 0))).1 := by decide +kernel
/-- Kernels 0 (Vat 0) and 1 (Vat 1), each the other's partner. -/
def sPair (a b : Nat) : State :=
  let t := tTable 1 0 0 0
  { tState 0 0 with
    frt := { FrameTab.reset with bankA := t.take 0x1A0 ++ (toLE 2 0 ++ [0, 0, 0, 0xFF, 1, 0] ++ toLE 8 0x200000000000 ++ List.replicate 48 0) ++
      (toLE 2 1 ++ [0, 0, 1, 0xFF, 0, 0] ++ toLE 8 0x200004000000 ++ List.replicate 48 0) ++ t.drop 0x220 }
    diag := { Diag.reset with pairSig := [(0, a, 5, 0), (1, b, 5, 1)] } }
theorem met_CoresAreComparedAndStopped_pair : ∀ b ∈ [7, 8], (sPair 7 b).canonical = true ∧ (sPair 7 b).mainClk = true ∧
    (sPair 7 b).diag.pairSig.findSome? (fun a => ((sPair 7 b).partner a).map (fun b => (a, b))) = some ((0, 7, 5, 0), (1, b, 5, 1)) := by decide +kernel

/-- A MODE 0 job of 1 x 2 pixels with a 1 x 1 kernel. -/
def tJob (src outfmt codec flags cout : Nat) : List Byte :=
  [0, BitVec.ofNat 8 src, 0, 0, 0, 0, 0, BitVec.ofNat 8 outfmt] ++ toLE 2 1 ++ toLE 2 2 ++ toLE 2 3 ++ [BitVec.ofNat 8 cout, 0x11, 0x11, 0, 0, 0, 0, 0, 0, 0, BitVec.ofNat 8 codec, BitVec.ofNat 8 flags] ++
    toLE 2 1 ++ toLE 4 256 ++ toLE 8 0x200103000000 ++ toLE 8 0 ++ toLE 8 0x200103010000 ++ toLE 8 0 ++ toLE 8 0x200103020000 ++ toLE 8 0x200103030000 ++
    toLE 8 0x200103040000 ++ toLE 8 0x200003000008 ++ toLE 8 0x200103050000 ++ List.replicate 24 0
def sHarp (h : HarpEngine) (job : List Byte) : State :=
  { (tState 0 8).setReg (Reg.HARP_JOB 0) 0x200102000000 with harp := h :: List.replicate 3 HarpEngine.reset, mem := memStore [] 0x200102000000 job, tick := 80 }
theorem met_HarpEnginesRunTheirJobs_arm : ∀ outfmt ∈ [2, 3], let d := tJob 1 outfmt 0 0 1
    let s := sHarp HarpEngine.reset d
    s.canonical = true ∧ s.mainClk = true ∧ s.bytes 0x200102000000 128 = d ∧ extentRegion (s.reg (Reg.HARP_JOB 0)) 128 = .hub ∧ (s.engineOf 0).armed = false ∧
      (s.engineOf 0).golden = false ∧ s.harpOwns 0 0x200102000000 true = true ∧ s.poisoned 0x200102000000 128 = false ∧ (s.engineOf 0).owed = [] ∧
      s.harpCanTell 0 d = true ∧ hjOk d = decide (outfmt = 2) ∧ s.streamBound 0 d = false ∧ s.mig.arrived = [] ∧
      ∀ x ∈ hjLoads d, s.admits .harp (some (hjPart d)) .r x.1 x.2 = true ∧ regionOf x.1 ≠ .image ∧ s.harpOwns 0 x.1 true = true ∧ s.poisoned x.1 x.2 = false := by
  decide +kernel
/-- The sub-slot is another client's: the arming waits. -/
theorem met_HarpEnginesRunTheirJobs_waits : let s := { sHarp HarpEngine.reset [] with frt := (tState 0 0).frt }
    s.canonical = true ∧ s.mainClk = true ∧ extentRegion (s.reg (Reg.HARP_JOB 0)) 128 = .hub ∧ s.harpOwns 0 (s.reg (Reg.HARP_JOB 0)) true = false := by decide +kernel
/-- Frame 0 with so many rows come, computed and written. -/
def tRows (i o w : Nat) : HarpFrame := { HarpFrame.start 0 with rowsIn := i, rowsOut := o, written := w }
def tEngine (d : List Byte) (f : List HarpFrame) : HarpEngine := { HarpEngine.reset with desc := d, armed := true, loaded := true, frames := f }
theorem met_HarpEnginesRunTheirJobs_disarm : hjRepeat (tEngine (tJob 0 2 0 1 1) []).desc = true ∧ (tEngine (tJob 0 2 0 1 1) []).armed = true := by decide +kernel
theorem met_HarpEnginesRunTheirJobs_idle : let h := { tEngine (tJob 0 2 0 1 1) [] with lines := [[1, 2, 3]] }
    (sHarp h []).canonical = true ∧ (sHarp h []).mainClk = true ∧ h.loaded = true ∧ hjSource h.desc = 0 ∧ linesPerRow (hjPix h.desc) ≤ h.lines.length := by decide +kernel
theorem met_HarpEnginesRunTheirJobs_stream : ∀ e ∈ [([1, 2, 3], 0, true), ([1, 2, 3], 2, true), ([1, 2], 0, false)],
    let h := { tEngine (tJob 0 2 0 1 1) [tRows e.2.1 0 0] with lines := [e.1] }
    (sHarp h []).canonical = true ∧ (sHarp h []).mainClk = true ∧ h.frames.getLast? = some (tRows e.2.1 0 0) ∧ hjSource h.desc = 0 ∧ linesPerRow (hjPix h.desc) ≤ h.lines.length ∧
      (e.2.1 < hjIh h.desc ↔ e.2.1 = 0) ∧ decide ((convertRow h.desc (h.lines.take (linesPerRow (hjPix h.desc)))).length = 4 * hjIw h.desc) = e.2.2 ∧ h.full = false := by
  decide +kernel
theorem met_HarpEnginesRunTheirJobs_full : { tEngine (tJob 0 2 0 1 1) [tRows 1 0 0] with ring := [⟨0, 0, 0, [], [], false, 0⟩], arrivals := 393216 }.full = true := by
  decide +kernel
theorem met_HarpEnginesRunTheirJobs_memory : let h := tEngine (tJob 1 2 0 0 1) [tRows 1 0 0]
    let s := sHarp h []
    hjSource h.desc ≠ 0 ∧ 1 < hjIh h.desc ∧ h.full = false ∧ h.want = [] ∧ h.got = [] ∧ s.mig.arrived = [] ∧
      ∀ x ∈ hjRowReads h.desc 1, s.admits .harp (some (hjPart h.desc)) .r x.1 x.2 = true ∧ regionOf x.1 ≠ .image ∧ s.harpOwns 0 x.1 true = true := by decide +kernel
theorem met_HarpEnginesRunTheirJobs_output : ∀ outfmt ∈ [1, 2], let d := tJob 1 outfmt 0 0 1
    let f := tRows 1 0 0
    let h := tEngine d [f]
    (sHarp h []).canonical = true ∧ (sHarp h []).mainClk = true ∧ h.current = some f ∧ h.golden = false ∧ f.ready d = true ∧ hjCodec d = 0 ∧ h.upsetFor f = 0 ∧
      outBytes (h.out ++ (harpEmit d f (h.nextRow f) (h.badFor f)).1) ≤ 262144 := by decide +kernel
/-- The output buffer is full but for a byte. -/
theorem met_HarpEnginesRunTheirJobs_room : let f := tRows 1 0 0
    let d := tJob 1 2 0 0 1
    let h := { tEngine d [f] with out := [⟨0, 0x200103020000, List.replicate 262143 0, false, 0⟩] }
    h.current = some f ∧ f.ready d = true ∧ 262144 < outBytes (h.out ++ (harpEmit d f (h.nextRow f) (h.badFor f)).1) := by
  refine ⟨by decide +kernel, by decide +kernel, ?_⟩
  simp only [outBytes, List.map_append, List.foldl_append, List.map_cons, List.map_nil, List.foldl_cons, List.foldl_nil, List.length_replicate]
  decide +kernel
theorem met_HarpEnginesRunTheirJobs_units : let d := tJob 1 0 1 0 32
    let f := tRows 1 0 0
    hjOk d = true ∧ hjCodec d ≠ 0 ∧ f.ready d = true ∧ 0 % 8 ≠ 7 ∧ 0 + 1 ≠ (hjOh d).toNat := by decide +kernel
/-- A write of the output buffer on a path that the engine owns, and one that it does not. -/
theorem met_HarpEnginesRunTheirJobs_drain : ∀ n ∈ [256, 257], let w : HarpWrite := ⟨0, 0x200103020000, List.replicate n 0, false, 0⟩
    let s := sHarp { tEngine (tJob 1 2 0 0 1) [tRows 1 0 0] with out := [w] } []
    (s.engineOf 0).out = [w] ∧ s.harpOwns 0 w.addr false = true ∧ s.admits .harp (some (hjPart (s.engineOf 0).desc)) .w w.addr (min 256 w.data.length) = true ∧
      { s with frt := (tState 0 0).frt }.harpMay 0 (s.engineOf 0).desc .w w.addr (min 256 w.data.length) = false := by decide +kernel
theorem met_HarpEnginesRunTheirJobs_end : ∀ flags ∈ [0, 1], let d := tJob 0 2 0 flags 1
    let f := tRows 2 2 2
    let s := sHarp (tEngine d [f]) []
    s.canonical = true ∧ s.mainClk = true ∧ (s.engineOf 0).frames = f :: [] ∧ f.pending d = false ∧ (s.engineOf 0).out = [] ∧ f.visible ≤ s.fclk ∧ (s.engineOf 0).owed = [] ∧
      s.harpCanTell 0 d = true ∧ hjRepeat d = decide (flags = 1) ∧ (s.engineOf 0).stopping = false ∧
      s.admits .harp (some (hjPart d)) .w (hjStatus d) 8 = true ∧ hjCell d ≠ 0 ∧ s.admits .harp (some (hjPart d)) .s (hjCell d) 8 = true := by decide +kernel
theorem met_HarpEnginesRunTheirJobs_golden : let s0 := tState (4 * 2 ^ 60 + 2 ^ 35) 8
    let s := { s0 with harp := { tEngine [] [] with golden := true } :: List.replicate 3 HarpEngine.reset, tick := 7920,
                       diag := { Diag.reset with copyA := [1, 0, 0, 0, 0, 0] ++ toLE 2 1 ++ toLE 2 0 ++ List.replicate 54 0 } }
    s.canonical = true ∧ s.mainClk = true ∧ s.goldWindow 0 = some (0, 0) ∧ (s.engineOf 0).golden = true ∧ s.windowEnd 0 ≤ s.fclk + tGCut s.table := by decide +kernel
theorem met_HarpEnginesRunTheirJobs_late : ∀ loaded, let h := { tEngine (tJob 1 2 0 0 1) [] with loaded := loaded }
    let s := { sHarp h [] with mig := { Migration.reset with held := [⟨.harp 0, imageBase, 64, 0, 0, some 10, true⟩] } }
    s.canonical = true ∧ s.mainClk = true ∧ (s.engineOf 0).loaded = loaded ∧ h.owed = [] ∧ s.harpCanTell 0 h.desc = true ∧
      s.mig.held.filter (fun x => x.who == .harp 0 && (match x.deadline with | some t => decide (t ≤ s.fclk) | none => false)) ≠ [] := by decide +kernel

def tSeq : List Byte := [0, 0, 0, 0, 1, 0, 64, 0] ++ toLE 2 1 ++ List.replicate 6 0 ++ toLE 4 0x2000 ++ List.replicate 44 0
def tW0 : Nat := 2 ^ 63 + 0x100000
def tLane (fill next : Nat) : KvLane := ⟨0x2000, next, [⟨0x3000, tW0, fill, 0⟩]⟩
/-- A command on lane 0 of sequence 0, mover 0, no completion cell. -/
def tWalk (op : Nat) (args : List Nat) : List Byte :=
  [BitVec.ofNat 8 op, 0] ++ toLE 2 0 ++ toLE 2 0 ++ toLE 2 0x8000 ++ toLE 4 0x4000 ++ toLE 2 0 ++ toLE 2 0 ++ ((List.range 6).map (fun i => toLE 8 (args.getD i 0))).flatten
def tCmdOf (b : List Byte) (sums : List (Nat × Nat)) : WalkCmd := ⟨0, b, 100, [], [], 0, 0, 0, sums⟩
def sWalk (n : Nat) (cmd : Option WalkCmd) (fill next : Nat) : State :=
  { sVat (fun c => { c with movers := [⟨List.replicate n ⟨0, [], none, none, [], [], []⟩, 0⟩, Mover.reset] }) with
    mem := memStore (memStore (memStore [] (pondAddr 0 0x1000) tSeq) (pondAddr 0 0x2000) (toLE 4 0x3000 ++ toLE 2 1 ++ [0, 0] ++ toLE 4 next)) (pondAddr 0 0x3000)
      (toLE 8 tW0 ++ toLE 8 (fill * 2 ^ 24))
    walkers := { Walker.reset with seqBase := 0x1000, seqCount := 1, cmd := cmd } :: List.replicate 7 Walker.reset }
theorem met_TheWalkerRunsItsCommands_doorbell : let s := (sWalk 0 none 0 0).setCell 0 0 1
    s.canonical = true ∧ s.mainClk = true ∧ (s.walker 0).cmd = none ∧ s.cellSeen 0 (s.walker 0).dbCell ≠ (s.walker 0).count ∧ (s.vat 0).running = true := by decide +kernel
theorem met_TheWalkerRunsItsCommands_bad : ∀ op ∈ [0, 1, 2, 3, 4], let c := tCmdOf ((tWalk op []).set 2 1) []
    let s := sWalk 0 (some c) 0 0
    s.canonical = true ∧ s.mainClk = true ∧ (s.walker 0).cmd = some c ∧ wkOp c.bytes = op ∧ s.wkOpen 0 c.bytes = .inl stBadArg ∧ c.ready + 2 ≤ (s.vat 0).cyc := by decide +kernel
theorem met_TheWalkerRunsItsCommands_gather : ∀ n ∈ [4094, 4095], let b := tWalk 1 [2 ^ 32, 0x8000, 0x10000, 0x20000, 0x30000]
    let s := sWalk n (some (tCmdOf b [])) 32 32
    let r := kvRuns 64 1 0 128 (tLane 32 32).pages 0
    let ds := (r.1.map (s.kvCopies 0 (wkMcell b) 64 1 (wkArg b 1) (wkArg b 2))).flatten
    s.canonical = true ∧ s.mainClk = true ∧ (s.walker 0).cmd = some (tCmdOf b []) ∧ s.wkOpen 0 b = .inr (tSeq, tLane 32 32) ∧ sqDim tSeq = 64 ∧ sqBytes tSeq = 1 ∧ wkOp b = 1 ∧
      s.wkGatherArgs 0 b = true ∧ ((tLane 32 32).pages.take r.2.1).all (fun p => p.ok 64 1) = true ∧
      (decide (4096 < moverCount (s.vat 0).core (wkMover b) + ds.length) = decide (n = 4095)) ∧
      (tCmdOf b []).ready + (2 * r.2.1 + 2 * ds.length + 4 * 1 + 2) ≤ (s.vat 0).cyc := by decide +kernel
theorem met_TheWalkerRunsItsCommands_append : ∀ e ∈ [(1, 0, 4, false), (0, 0, 4, false), (1, 0, 32, true), (0, 1 + 28 * 2 ^ 16, 4, false), (0, 1 + 29 * 2 ^ 16, 4, true)],
    let b := tWalk 2 [e.1, 0x8000 + 64 * 2 ^ 32, 0x10000, e.2.1]
    let s := sWalk 0 (some (tCmdOf b [])) e.2.2.1 e.2.2.1
    let l := tLane e.2.2.1 e.2.2.1
    let kept := (List.range 64).filter (fun r => bit (wkArg b 0) r)
    let n := if bit (wkArg b 3) 0 then bits (wkArg b 3) 28 16 else kept.length
    let taken := kvTaken 64 1 l.next n l.pages
    s.canonical = true ∧ s.mainClk = true ∧ (s.walker 0).cmd = some (tCmdOf b []) ∧ s.wkOpen 0 b = .inr (tSeq, l) ∧ wkOp b = 2 ∧ wkAppendArgs b = true ∧ l.pages.all (fun p => p.ok 64 1) = true ∧
      (decide ((taken.map (fun x => x.2.2.1)).sum < n) = e.2.2.2) ∧ (n = 0 ↔ e.1 = 0 ∧ e.2.1 = 0) ∧ moverCount (s.vat 0).core (wkMover b) + 2 * taken.length ≤ 4096 ∧
      (tCmdOf b []).ready + (2 + 2 * 2) ≤ (s.vat 0).cyc := by decide +kernel
theorem met_TheWalkerRunsItsCommands_evict : let b := tWalk 3 [64, 0, 0, 0x5000]
    let c := tCmdOf b [(0, 0x3F800000)]
    let s := sWalk 0 (some c) 32 32
    s.canonical = true ∧ s.mainClk = true ∧ (s.walker 0).cmd = some c ∧ s.wkOpen 0 b = .inr (tSeq, tLane 32 32) ∧ wkOp b = 3 ∧ wkArg b 0 = 64 ∧ wkArg b 3 < 2 ^ 32 ∧ wkArg b 5 = 0 ∧
      (wkConsidered tSeq (tLane 32 32) (wkArg b 1) (wkArg b 2)).length = 1 ∧ (tLane 32 32).pages.all (fun p => p.ok 64 1) = true ∧
      s.pondMay 0 (wkArg b 3) (8 * 1) true = true ∧ (∀ x ∈ wkConsidered tSeq (tLane 32 32) (wkArg b 1) (wkArg b 2),
        (∀ r ∈ massReads tSeq x.2, s.wkReads 0 r.1 r.2 = true) ∧ s.pondMay 0 x.2.off 16 true = true) ∧ c.ready + (2 + (3 + 1) + 4 + 2) ≤ (s.vat 0).cyc := by decide +kernel
theorem met_TheWalkerRunsItsCommands_commit : ∀ f ∈ [0, stTierFault], let b := tWalk 2 [1]
    let c := { tCmdOf b [] with nextPos := 5, fills := [(0x3000, 5)], rows := 1, failed := f }
    let s := sWalk 0 (some c) 4 4
    s.canonical = true ∧ s.mainClk = true ∧ (s.walker 0).cmd = some c ∧ wkOp c.bytes = 2 ∧ c.pushed = [] ∧ c.nextPos ≠ 0 ∧ c.ready ≤ (s.vat 0).cyc ∧ (c.failed ≠ 0 ↔ f ≠ 0) ∧
      s.wkOpen 0 c.bytes = .inr (tSeq, tLane 4 4) := by decide +kernel
theorem met_TheWalkerRunsItsCommands_args : let g := tWalk 1 [2 ^ 63]
    let a := tWalk 2 [1, 0, 0, 2 ^ 63]
    let s := sWalk 0 (some (tCmdOf g [])) 32 32
    s.canonical = true ∧ s.mainClk = true ∧ s.wkOpen 0 g = .inr (tSeq, tLane 32 32) ∧ wkOp g = 1 ∧ s.wkGatherArgs 0 g = false ∧
      s.wkOpen 0 a = .inr (tSeq, tLane 32 32) ∧ wkOp a = 2 ∧ wkAppendArgs a = false := by decide +kernel
/-- The append of a page entry out of the partition's ranges, and one whose lane cannot be opened any more. -/
theorem met_TheWalkerRunsItsCommands_closed : let b := tWalk 2 [1]
    let c := { tCmdOf b [] with nextPos := 5, fills := [(0x3000000, 5)], rows := 1 }
    let s := sWalk 0 (some c) 4 4
    s.canonical = true ∧ s.mainClk = true ∧ (s.walker 0).cmd = some c ∧ wkOp c.bytes = 2 ∧ c.pushed = [] ∧ c.failed = 0 ∧ s.wkOpen 0 c.bytes = .inr (tSeq, tLane 4 4) ∧
      (c.fills.all (fun x => s.pondMay 0 x.1 16 true) && s.pondMay 0 (tLane 4 4).off 16 true) = false ∧ s.wkOpen 0 (c.bytes.set 2 1) = .inl stBadArg := by decide +kernel

/-! ### Ingest and fusion (09) -/

/-- Context 0 has CFG `cfg`, FILT `filt`, ring `ring`, contents `x`; client 9 owns every path. -/
def sIng (cfg filt ring : Nat) (x : IngCtx) : State :=
  let s := (((((tState 0 9).setReg (Reg.ING_CTX_CFG 0) (2 ^ 63 + cfg)).setReg (Reg.ING_CTX_FILT 0) filt).setReg (Reg.ING_CTX_RING 0) ring).setReg (Reg.ING_CSI_CFG 0) 1).setReg
    (Reg.TSN_PCFG 0) 1
  { (s.setReg (Reg.ING_CAN_CFG 0) (2 ^ 34)) with ing := x :: List.replicate 95 IngCtx.reset }
def tSample (l : List Byte) : IngSample := { stamp := 5, arrive := 9, emb := [], data := l, frames := 0, fault := false, full := false, left := 0, checked := none }
def tFrame (et : Nat) (l : List Byte) : List Byte := List.replicate 12 0 ++ (toLE 2 et).reverse ++ l
theorem met_SamplesAreStampedStagedAndWritten_csi : ∀ cur ∈ [none, some (tSample [1])], ∀ dt ∈ [0x1E, 0x1F, 0x20], let s := sIng 0 (0x1E * 2 ^ 8 + 0x1F * 2 ^ 16) 0 { IngCtx.reset with cur := cur }
    s.canonical = true ∧ s.mainClk = true ∧ bit (s.reg (Reg.ING_CSI_CFG 0)) 0 = true ∧ s.cameras 0 0 = [0] ∧ ((s.ctx 0).closing = false ∧ (s.ctx 0).cur = cur) ∧
      (s.cameras 0 0).find? (fun c => s.filt c 13 8 == dt || (s.filt c 21 16 == dt && dt != 0)) = (if dt = 0x20 then none else some 0) := by decide +kernel
theorem met_SamplesAreStampedStagedAndWritten_ethernet : ∀ e ∈ [(0x88B5, true), (0x88B6, false)], let s := sIng 1 0x88B5 0 IngCtx.reset
    let f := tFrame e.1 [1, 2, 3]
    s.canonical = true ∧ s.mainClk = true ∧ s.tpEn 0 = true ∧ isPtp f = false ∧ (ethParse f).2.1 ≠ 0x8808 ∧
      (s.matching (fun c => s.ctxKind c == 1 && s.ctxPort c == 0)).findSome? (fun c => (s.ethPayload c f).map (fun l => (c, l))) =
        (if e.2 then some (0, [1, 2, 3]) else none) := by decide +kernel
theorem met_SamplesAreStampedStagedAndWritten_spi : ∀ cur ∈ [none, some (tSample [])], let s := sIng 2 (2 * 2 ^ 44) 0 { IngCtx.reset with cur := cur }
    s.canonical = true ∧ s.mainClk = true ∧ s.spiCtx 0 2 = some 0 ∧ s.filt 0 56 56 = 0 ∧ s.spiCtx 0 1 = none ∧ (s.ctx 0).cur = cur := by decide +kernel
/-- TRIG 1: the period instant of 1 s is to come, or has come. -/
theorem met_SamplesAreStampedStagedAndWritten_period : ∀ e ∈ [((0 : Int), true), (1000000000, false)],
    let s := sIng 2 (2 * 2 ^ 44 + 2 ^ 56) 0 { IngCtx.reset with instant := e.1 }
    s.canonical = true ∧ s.mainClk = true ∧ s.spiCtx 0 2 = some 0 ∧ s.filt 0 56 56 = 1 ∧ s.reached (s.ctx 0).instant = e.2 := by decide +kernel
theorem met_SamplesAreStampedStagedAndWritten_can : ∀ e ∈ [((1 : Fin 4), 7, true), (1, 8, false), (2, 7, true)], let s := sIng 3 (7 + 0x1FFFFFFF * 2 ^ 29) 0 IngCtx.reset
    s.canonical = true ∧ s.mainClk = true ∧ bit (s.reg (Reg.ING_CAN_CFG 0)) 34 = true ∧ s.canTakes 0 e.1 = decide (e.1 = 1) ∧
      (s.matching (fun c => s.canMatch c 0 e.2.1 e.1)).head? = (if e.2.2 then some 0 else none) ∧ (s.ctx 0).cur = none := by decide +kernel
def sEnded (ring cell : Nat) : State :=
  (sIng (2 ^ 5 + 2 ^ 7) 0 ring { IngCtx.reset with ended := [tSample [1, 2, 3]], hashes := [crc64 [1, 2, 3]] }).setReg (Reg.ING_CTX_CELL 0) cell
theorem met_SamplesAreStampedStagedAndWritten_end : ∀ ring ∈ [0, 0x200102000000 + 7 * 2 ^ 48], ∀ cell ∈ [2 ^ 63, 0x200003000008], let s := sEnded ring cell
    s.canonical = true ∧ s.mainClk = true ∧ (s.ctx 0).ended = tSample [1, 2, 3] :: [] ∧ (tSample [1, 2, 3]).checked = none ∧ (tSample [1, 2, 3]).left = 0 ∧
      s.ringAddr 0 = ring % 2 ^ 48 ∧ (ring ≠ 0 → s.mayGo .ingest (s.ctxPart 0) .w (s.ringSlot 0 0) 64 = true ∧ s.ringSlot 0 0 = 0x200102000000 ∧
        min 3 (s.slotRoom 0) = 3 ∧ hubOk s (s.ctxPart 0) = true) ∧
      ((bit (s.ctxCfg 0) 5 && (s.ctx 0).hashes.contains (crc64 (s.hashInput 0 (tSample [1, 2, 3]).payload))) = true) ∧
      (cell ≠ 2 ^ 63 → s.admits .ingest (some (s.ctxPart 0)) .s 0x200003000008 8 = true) := by decide +kernel
theorem met_SamplesAreStampedStagedAndWritten_slot (k m : Nat) (h : k + m ≤ 64 + 3) (h0 : 0 < m) :
    (sEnded (0x200102000000 + 7 * 2 ^ 48) (2 ^ 63)).admits .ingest (some 0) .w (0x200102000000 + k) m = true :=
  hub_open rfl (by decide) (by decide) (by decide) (by decide +kernel) (by omega) (by omega) h0

def sFus (f : Fusion) (l : List (Nat × Nat)) : State := { l.foldl (fun s e => s.setReg e.1 e.2) (tState 0 0xA) with fus := f }
theorem met_FusionAcceptsAlignsAndAssociates_accept : ∀ late ∈ [0, 100], ∀ ok, let h : Held := ⟨0, 100, 0, [1]⟩
    let s := { sFus { Fusion.reset with waiting := [(0, h, ok)] } [(Reg.ING_CTX_LIM 0, late * 2 ^ 40)] with tb := { Timebase.reset with ofs := 2 ^ 32 } }
    s.canonical = true ∧ s.mainClk = true ∧ s.fus.waiting.find? (fun w => s.reached (w.2.1.arrive + 200)) = some (0, h, ok) ∧ s.dueBefore (h.arrive + 200) = false ∧
      (s.lateMax 0 < h.arrive - h.stamp - s.lat 0 ↔ late = 0) := by decide +kernel
theorem met_FusionAcceptsAlignsAndAssociates_ego : ∀ cfg ∈ [1, 3], let s := sFus { Fusion.reset with heldRun := 19 } [(Reg.FUS_EGO_CFG, cfg), (Reg.FUS_POSE_BASE, 0x2000000)]
    s.canonical = true ∧ s.mainClk = true ∧ bit (s.reg Reg.FUS_EGO_CFG) 0 = true ∧ s.reached (0 * 500000) = true ∧ hubBase + s.reg Reg.FUS_POSE_BASE + 64 * ((0 : Int) % 4000).toNat = 0x200102000000 ∧
      s.egoFields (bits cfg 14 8) (bits cfg 27 24) 3 0 = none ∧ hubOk s s.egoPart = true ∧ s.fus.outs = [] ∧ s.mayGo .fusion s.egoPart .w 0x200102000000 64 = true ∧
      s.mayGo .fusion s.egoPart .r s.velAddr 12 = true := by decide +kernel
theorem met_FusionAcceptsAlignsAndAssociates_ego_write (k : Int) (q p v : List Nat) (st : Nat) (hq : q.length = 4) (hp : p.length = 3) (hv : v.length = 3) :
    (sFus { Fusion.reset with heldRun := 19 } [(Reg.FUS_EGO_CFG, 1), (Reg.FUS_POSE_BASE, 0x2000000)]).admits .fusion (some 0) .w 0x200102000000 (Pose.bytes ⟨k, q, p, v, st⟩).length =
      true := by
  have e : (Pose.bytes ⟨k, q, p, v, st⟩).length = 64 := by
    match q, p, v, hq, hp, hv with
    | [_, _, _, _], [_, _, _], [_, _, _], _, _, _ => simp [Pose.bytes, toLE]
  rw [e]
  exact hub_open rfl (by decide) (by decide) (by decide) (by decide +kernel) (by decide) (by decide) (by decide)
def sChan : State := sFus Fusion.reset [(Reg.FUS_CH_CFG 0, 1), (Reg.FUS_CH_OUT 0, 0x200102000000)]
theorem met_FusionAcceptsAlignsAndAssociates_channel : sChan.canonical = true ∧ sChan.mainClk = true ∧ mapGet 0 sChan.fus.next 0 = 0 ∧ sChan.chEn 0 = true ∧ sChan.chNproj 0 = 0 ∧
    sChan.reached (sChan.chT 0 0 + sChan.chDelay 0) = true ∧ sChan.evalFirst 0 (sChan.chT 0 0 + sChan.chDelay 0) = false ∧ sChan.fus.outs = [] ∧ sChan.fus.pairs = [] ∧ sChan.mayGo .fusion (sChan.chPart 0) .w 0x200102000000 64 = true ∧ sChan.chPart 0 = 0 ∧
    bits (sChan.reg (Reg.FUS_CH_OUT 0)) 47 0 = 0x200102000000 := by decide +kernel
theorem met_FusionAcceptsAlignsAndAssociates_record (k m n : Nat) (h : k + m ≤ n) (h0 : 0 < m) (hn : n ≤ 4096) :
    sChan.admits .fusion (some 0) .w (0x200102000000 + k) m = true ∧ sChan.mayGo .fusion 0 .w (0x200102000000 + k) m = true := by
  have e : extentRegion (0x200102000000 + k) m = .hub := by
    simp [extentRegion, hub_region (x := 0x200102000000 + k) (by omega) (by omega), hub_region (x := 0x200102000000 + k + m - 1) (by omega) (by omega)]
  refine ⟨hub_open rfl (by decide) (by decide) (by decide) (by decide +kernel) (by omega) (by omega) h0, ?_⟩
  have o : sChan.owns .fusion (pathRows .fusion .hub (Want.w == Want.r)) = true := by decide +kernel
  simp [State.mayGo, e, o]
def sAssoc (thr : Nat) (tr de : List Byte) : State :=
  { sFus { Fusion.reset with next := [(0, 1)] } [(Reg.FUS_CH_CFG 0, 1), (Reg.FUS_CH_TIME 0, 1), (Reg.FUS_AS_CFG 0, 1 + 0x41200000 * 2 ^ 32), (Reg.FUS_AS_OUT 0, 0x200102000000), (Reg.FUS_AS_READY 0, 0x200003000008),
      (Reg.FUS_AS_THR 0, thr), (Reg.FUS_AS_TRACK 0, 0x200103000000), (Reg.FUS_AS_DET 0, 0x200103010000)] with
    mem := memStore (memStore [] 0x200103000000 tr) 0x200103010000 de }
/-- An object at (x, 0, 0) with variances 1. -/
def tObj (x : Nat) : List Byte := toLE 4 1 ++ toLE 4 x ++ toLE 4 0 ++ toLE 4 0 ++ toLE 4 0x3F800000 ++ toLE 4 0x3F800000 ++ toLE 4 0x3F800000 ++ toLE 4 0
def tObjs (l : List Nat) : List Byte := toLE 4 l.length ++ List.replicate 12 0 ++ (l.map tObj).flatten
theorem met_FusionAcceptsAlignsAndAssociates_association : ∀ thr ∈ [0, 1], let s := sAssoc thr (tObjs [0, 0x41A00000]) (tObjs [0x3F800000])
    let p := s.asPart 0
    s.canonical = true ∧ s.mainClk = true ∧ mapGet 0 s.fus.asNext 0 = 0 ∧ s.asOn 0 = true ∧ s.reached (s.asDue 0 0) = true ∧ s.assocAfter 0 (s.asDue 0 0) = false ∧ s.fus.outs = [] ∧ s.mig.inbox = [] ∧
      s.mayGo .fusion p .w 0x200102000000 16 = true ∧ s.reg (Reg.FUS_AS_READY 0) % 2 ^ 48 = 0x200003000008 ∧ s.admits .fusion (some p) .s 0x200003000008 8 = true ∧ s.cellAt 0x200003000008 = 0 ∧
      s.owns .fusion (pathRows .fusion (regionOf 0x200003000008) true) = true ∧ s.poisoned 0x200003000008 8 = false ∧ s.upset = [] ∧ s.reg (Reg.FUS_AS_THR 0) = thr ∧ hubOk s p = true ∧
      s.loadLE 0x200103000000 4 = 2 ∧ s.loadLE 0x200103010000 4 = 1 := by decide +kernel
theorem met_FusionAcceptsAlignsAndAssociates_arrays : let s := sAssoc 0 (tObjs [0, 0x41A00000]) (tObjs [0x3F800000])
    ∀ e ∈ [(0x200103000000, 2), (0x200103010000, 1)], s.admits .fusion (some (s.asPart 0)) .r e.1 16 = true ∧ s.admits .fusion (some (s.asPart 0)) .r e.1 (16 + 32 * e.2) = true ∧ s.mayGo .fusion (s.asPart 0) .r e.1 16 = true ∧
      s.mayGo .fusion (s.asPart 0) .r e.1 (16 + 32 * e.2) = true ∧
      regionOf e.1 = .hub ∧ s.poisoned e.1 (16 + 32 * e.2) = false := by decide +kernel
/-- Table 9.9: the pair within the gate is assigned. -/
theorem test_association : (assignPairs (gatedPairs (tObjs [0, 0x41A00000]) (tObjs [0x3F800000]) 2 1 0x41200000)) = [(0x3F000000, 0, 0)] := by decide +kernel


/-! ### The solver and the planner (10, 11) -/

/-- A 1 x 1 dense FP64 job (class EST): H at 0x200103000000, g at 0x200103000100, record at 0x200103010000. -/
def tSlvDesc (cls flags n1 thr : Nat) : List Byte :=
  [BitVec.ofNat 8 cls, 1, 0, BitVec.ofNat 8 flags, 1, 0, 0, 0] ++ toLE 4 n1 ++ toLE 4 0 ++ toLE 4 0 ++ toLE 4 256 ++ toLE 8 0x3F50000000000000 ++ toLE 8 0x3E10000000000000 ++
    toLE 8 0 ++ toLE 8 0 ++ toLE 8 0 ++ toLE 8 0x200103000000 ++ toLE 8 0x200103000100 ++ toLE 8 0 ++ toLE 8 0x200103010000 ++ toLE 8 0 ++ toLE 8 0x200003000008 ++
    toLE 8 thr ++ toLE 8 0
def tJobAt (slot : Nat) (dl : Int) : SlvJob := ⟨slot, 0, 0, dl⟩
def sSlv (d : List Byte) (v : Solver) : State :=
  { (((tState 0 0xB).setReg (Reg.SLV_JOB_DESC 0) 0x200102000000).setReg (Reg.SLV_JOB_DESC 1) 0x200102000000).setReg (Reg.SLV_JOB_CTRL 0) 1 with
    slv := v, mem := memStore (memStore (memStore [] 0x200102000000 d) 0x200103000000 (toLE 8 0x4010000000000000)) 0x200103000100 (toLE 8 0x4020000000000000) }
def tIns (h : Nat) : List (List Byte) := [toLE 8 h, toLE 8 0x4020000000000000, [], []]
def tRun (d : List Byte) (slot : Nat) (dl : Int) (tested : Bool) (h : Nat) : SlvRun :=
  { SlvRun.start (tJobAt slot dl) with desc := d, ready := true, loaded := true, ins := tIns h, x0 := [0], x := [0], tested := tested }
theorem met_TheSolverRunsJobsToTheirRecords_arrive : ∀ per ∈ [0, 1000000], 
    let s := State.setReg (sSlv [] { Solver.reset with slots := ⟨0, some 0, false⟩ :: List.replicate 7 ⟨0, none, false⟩ }) (Reg.SLV_JOB_PERIOD 0) per
    s.canonical = true ∧ s.mainClk = true ∧ (s.slvSlot 0).n = 0 ∧ s.slvStart 0 0 = some 0 ∧ s.slvEn 0 = true ∧ (s.slvSlot 0).stopping = false ∧ s.reached 0 = true ∧ s.slvWaits 0 = false ∧
      s.slvPreempts 0 = false := by decide +kernel
theorem met_TheSolverRunsJobsToTheirRecords_preempts : let d := (tSlvDesc 0 0 1 0).set 2 1
    let s := ((sSlv d { Solver.reset with slots := ⟨0, some 0, false⟩ :: List.replicate 7 ⟨0, none, false⟩, run := some (tRun d 1 1000 true 0) }).setReg
      (Reg.SLV_JOB_DESC 0) 0x200103020000)
    let s1 := { s with frt := { s.frt with bankA := s.frt.bankA.set 0x82 5 }, mem := memStore s.mem 0x200103020000 ((tSlvDesc 0 0 1 0).set 2 0) }
    s1.canonical = true ∧ s1.mainClk = true ∧ s1.slvStart 0 0 = some 0 ∧ s1.slvWaits 0 = false ∧ s1.slvPreempts 0 = true ∧ s1.slv.run = some (tRun d 1 1000 true 0) := by decide +kernel
/-- The solver job of tSlvDesc with its inputs in place, and what its statements ask of a read. -/
def tPlain (s : State) (x : Nat × Nat) : Bool :=
  s.admits .solver (some 0) .r x.1 x.2 && regionOf x.1 == .hub && !s.poisoned x.1 x.2 && s.mayGo .solver 0 .r x.1 x.2
theorem met_TheSolverRunsJobsToTheirRecords_start : ∀ e ∈ [(1, 1), (0, 0), (1, 0)], let d := tSlvDesc 0 0 e.1 e.2
    let s := sSlv d { Solver.reset with pending := [tJobAt 0 1000] }
    s.canonical = true ∧ s.mainClk = true ∧ s.slvPick = some (tJobAt 0 1000) ∧ s.slvFree = true ∧ s.diag.halted.contains 2 = false ∧ s.reached 1000 = false ∧ s.mig.inbox = [] ∧
      s.bytes 0x200102000000 128 = d ∧ jdPart d = 0 ∧ s.admits .solver (some 0) .s (jdReady d) 8 = true ∧
      s.owns .solver (pathRows .solver (regionOf (jdReady d)) true) = true ∧ s.poisoned (jdReady d) 8 = false ∧ s.cellAt (jdReady d) = 0 ∧ jdThr d = e.2 ∧
      jdLimits d = decide (e.1 = 1) ∧ tPlain s (0x200102000000, 128) = true := by decide +kernel
/-- A previous record of the job with a sequence number and a signature, and the job's state with it. -/
def tPrevRec (seq : Nat) (d : List Byte) : List Byte := toLE 8 0 ++ toLE 4 seq ++ List.replicate 16 0 ++ jobSig d (tIns 0x4010000000000000) ++ toLE 8 0 ++ toLE 8 0x4000000000000000
def sWarm (d : List Byte) (seq : Nat) (of : List Byte) (v : Solver) : State :=
  let s := sSlv d v
  { s with mem := memStore s.mem 0x200103010000 (tPrevRec seq of) }
theorem met_TheSolverRunsJobsToTheirRecords_warm : ∀ e ∈ [(0, 0, 1, true), (1, 0xFFFFFFFF, 1, false), (1, 5, 2, true), (1, 5, 1, true)], let d := tSlvDesc 0 e.1 1 0
    let s := { sWarm d e.2.1 (tSlvDesc 0 0 e.2.2.1 0) { Solver.reset with pending := [tJobAt 0 1000] } with tick := 0 }
    let s1 := { s with mem := memStore s.mem 0x200103010100 (toLE 8 0 ++ toLE 4 0xFFFFFFFF) }
    let ins := (jdInputs d).map (fun x => s1.bytes x.1 x.2)
    s1.canonical = true ∧ s1.mainClk = true ∧ s1.slvPick = some (tJobAt 0 1000) ∧ s1.slvFree = true ∧ s1.mig.inbox = [] ∧ ((jdInputs d).filter (fun x => x.2 != 0)).all (tPlain s1) = true ∧
      jdFields d = true ∧ baLimits d ins = true ∧ inputsOk d ins = true ∧ jdWs d = decide (e.1 = 1) ∧
      tPlain s1 (0x200103010000, 64) = true ∧ tPlain s1 (0x200103010100, 64) = true ∧ tPlain s1 (0x200103010040, jdVecLen d) = true ∧
      ((laterRecord d (s1.bytes (jdSol d 0) 64) (s1.bytes (jdSol d 1) 64)).isSome = e.2.2.2) ∧
      (e = (1, 5, 2, true) → headerSig (s1.bytes 0x200103010000 64) ≠ jobSig d ins) ∧
      (e = (1, 5, 1, true) → headerSig (s1.bytes 0x200103010000 64) = jobSig d ins) := by decide +kernel
theorem met_TheSolverRunsJobsToTheirRecords_iterate : ∀ e ∈ [(false, 0x4010000000000000), (true, 0x4010000000000000), (true, 0x7FF0000000000000)],
    let r := tRun (tSlvDesc 0 0 1 0) 0 1000 e.1 e.2
    let s := sSlv [] { Solver.reset with run := some r }
    s.canonical = true ∧ s.mainClk = true ∧ s.reached r.job.deadline = false ∧ s.diag.halted.contains 2 = false ∧ jdClass r.desc ≠ 1 ∧ r.bad = false ∧ r.upset = 0 ∧
      (e.1 = true → (linearStep r.desc r.ins r.x).1.isNone = decide (e.2 = 0x7FF0000000000000)) := by decide +kernel
theorem met_TheSolverRunsJobsToTheirRecords_bundle : let r := tRun (tSlvDesc 1 0 1 0) 0 1000 true 0
    let s := sSlv [] { Solver.reset with run := some r }
    s.canonical = true ∧ s.mainClk = true ∧ s.reached r.job.deadline = false ∧ s.diag.halted.contains 2 = false ∧ jdClass r.desc = 1 ∧ r.tested = true ∧
      (baStep r.desc r.ins r.x r.mu).1.isSome = true := by decide +kernel
theorem met_TheSolverRunsJobsToTheirRecords_bad : let r := { tRun (tSlvDesc 1 0 1 0) 0 1000 true 0 with bad := true }
    let s := sSlv [] { Solver.reset with run := some r }
    s.canonical = true ∧ s.mainClk = true ∧ s.reached r.job.deadline = false ∧ s.diag.halted.contains 2 = false ∧ r.loaded = true := by decide +kernel
theorem met_TheSolverRunsJobsToTheirRecords_deadline : ∀ e ∈ [([], some (tRun (tSlvDesc 0 0 1 0) 0 0 true 0)), ([tJobAt 0 0], none)],
    let s := sSlv [] { Solver.reset with pending := e.1, run := e.2 }
    s.canonical = true ∧ s.mainClk = true ∧ s.slv.run = e.2 ∧ s.reached 0 = true ∧ s.slv.pending.find? (fun q => s.reached q.deadline) = e.1.head? := by decide +kernel
def sOut (part : Nat) : State := sSlv [] { Solver.reset with outs := [⟨tJobAt 0 0, part, some (0x200103010000, List.replicate 72 0), 1, 0, none⟩] }
theorem met_TheSolverRunsJobsToTheirRecords_write : ∀ part ∈ [0, 1], let s := sOut part
    s.canonical = true ∧ s.mainClk = true ∧ s.diag.halted.contains 2 = false ∧ s.mayGo .solver part .w 0x200103010000 72 = true ∧ hubOk s part = decide (part = 0) ∧
      s.admits .solver (some part) .w 0x200103010000 72 = decide (part = 0) := by decide +kernel
theorem met_TheSolverRunsJobsToTheirRecords_record (k m : Nat) (h : k + m ≤ 72) (h0 : 0 < m) : (sOut 0).admits .solver (some 0) .w (0x200103010000 + k) m = true :=
  hub_open rfl (by decide) (by decide) (by decide) (by decide +kernel) (by omega) (by omega) h0
/-- An abandoned job with a previous record, of its structure or of another. -/
def sLeft (n : Nat) : State :=
  let d := tSlvDesc 0 0 1 0
  let s := sWarm d 5 (tSlvDesc 0 0 n 0) { Solver.reset with outs := [⟨tJobAt 0 0, 0, none, 0, stDeadlineMiss, some (tRun d 0 0 true 0x4010000000000000, [stDeadlineMiss], 0)⟩] }
  { s with mem := memStore s.mem 0x200103010100 (toLE 8 0 ++ toLE 4 0xFFFFFFFF) }
theorem met_TheSolverRunsJobsToTheirRecords_left : ∀ n ∈ [1, 2], let s := sLeft n
    let r := tRun (tSlvDesc 0 0 1 0) 0 0 true 0x4010000000000000
    s.canonical = true ∧ s.mainClk = true ∧ s.diag.halted.contains 2 = false ∧ jdLimits r.desc = true ∧ baLimits r.desc r.ins = true ∧ s.mig.inbox = [] ∧
      tPlain s (0x200103010000, 64) = true ∧ tPlain s (0x200103010100, 64) = true ∧ tPlain s (0x200103010040, 8) = true ∧
      laterRecord r.desc (s.bytes 0x200103010000 64) (s.bytes 0x200103010100 64) = some (0x200103010000, s.bytes 0x200103010000 64) ∧
      (headerSig (s.bytes 0x200103010000 64) = jobSig r.desc r.ins ↔ n = 1) ∧ (slvRecord r [stDeadlineMiss] 0 0 0 r.x0).length = 72 ∧
      jdSol r.desc (r.job.n % 2).toNat = 0x200103010000 ∧ s.mayGo .solver 0 .w 0x200103010000 72 = true ∧
      (s.prevVec r (s.bytes 0x200103010000 64) (s.bytes 0x200103010040 8)).1.length = r.x0.length := by decide +kernel
theorem met_TheSolverRunsJobsToTheirRecords_leftPath (n : Nat) (e : n = 1 ∨ n = 2) (k m : Nat) (h : k + m ≤ 72) (h0 : 0 < m) :
    (sLeft n).admits .solver (some 0) .w (0x200103010000 + k) m = true := by
  rcases e with rfl | rfl <;> exact hub_open rfl (by decide) (by decide) (by decide) (by decide +kernel) (by omega) (by omega) h0
/-- 10 R282, Table 10.2: from x = 0 one iterate of 4 x = 8 gives x = 2 with no pivot regularised. -/
theorem test_linear_step : linearStep (tSlvDesc 0 0 1 0) (tIns 0x4010000000000000) [0] = (some [0x4000000000000000], 0) := by decide +kernel
/-- 10 R283: a held camera with fx = fy = 1 sees u = 1 where the landmark (0, 0, 1) projects to 0; with mu = 3 the landmark's step is 1 / (1 + 3) in x. -/
def tBaDesc : List Byte := ((tSlvDesc 1 0 1 0).set 0xC 1).set 0x10 1
def tBaIns : List (List Byte) :=
  [toLE 8 0 ++ toLE 4 0x3F800000 ++ toLE 4 0 ++ toLE 4 0x3F800000 ++ List.replicate 12 0, toLE 4 0x3F800000 ++ toLE 4 0x3F800000 ++ List.replicate 24 0, [], []]
def tBaState (x : Nat) : List Nat := [dOne, 0, 0, 0, 0, 0, 0, 0] ++ [x, 0, dOne, 0]
theorem test_bundle_step : baCost tBaDesc tBaIns (tBaState 0) = dHalf ∧ baStep tBaDesc tBaIns (tBaState 0) 0x4008000000000000 = (some (tBaState 0x3FD0000000000000), 0) := by decide +kernel

/-- Partition 0 also has the grid store; client 0xC owns every path. -/
def sPlan (pub : Nat) (r : Option PlanRun) : State :=
  let t := tTable 1 0 0 0xC
  let s := [(Reg.PLN_CTRL, 1), (Reg.PLN_PUB_ADDR, 0x200003000010), (Reg.PLN_PIN_ADDR, 0x200003000018), (Reg.PLN_READY_ADDR, 0x200003000008), (Reg.PLN_GHDR_BASE, 0x3F00000),
    (Reg.PLN_CAND_ADDR, 0x200103000000), (Reg.PLN_RES_ADDR, 0x200102000000)].foldl (fun s e => s.setReg e.1 e.2) (State.reset.setRegBits Reg.FRT_STATUS 1 1 1)
  { s with frt := { FrameTab.reset with bankA := (t.take 0xC0 ++ tRange gridBase (gridBase + 0x1FFF000) 15 ++ t.drop 0xD0).set 0x83 4 }
           pln := { Planner.reset with run := r }
           cells := [(cellKey 0 2, pub)].filter (fun e => e.2 != 0) }
def tPlan (stage : Nat) (full : Bool) (sel : Nat) (dl : Int) : PlanRun :=
  { PlanRun.fresh 0 0 dl with
    stage := stage, named := true, hdrWait := false, pinned := true, ver := 1, hdr := List.replicate 128 1, full := full, p0 := [0, 0, 0, 0],
    stop := List.replicate 64 [0, 0, 0, 0], preDone := stage != 2, prepDone := stage != 2, count := 2,
    cands := [⟨1, 0x3F800000, [[0, 0, 0, 0]]⟩], sel := sel, selVer := 1 }
/-- What the statement asks of a cell that the unit reads. -/
def tCell (s : State) (a : Nat) : Bool :=
  s.admits .planner (some s.plnPart) .s a 8 && s.owns .planner (pathRows .planner (regionOf a) true) && !s.poisoned a 8 && s.mig.inbox.isEmpty
theorem met_ThePlannerChecksSelectsAndReports_start : ∀ v ∈ [0, 2 ^ 63 + 1], let s := sPlan v none
    s.canonical = true ∧ s.mainClk = true ∧ s.diag.halted.contains 3 = false ∧ s.plnEn = true ∧ s.pln.stopping = false ∧ s.pln.run = none ∧ s.pln.n = 0 ∧ s.reached (s.plnStart 0) = true ∧
      tCell s (s.reg Reg.PLN_PUB_ADDR % 2 ^ 48) = true ∧ s.cellAt (s.reg Reg.PLN_PUB_ADDR % 2 ^ 48) = v ∧
      s.admits .planner (some s.plnPart) .s (s.reg Reg.PLN_PIN_ADDR % 2 ^ 48) 8 = true ∧
      s.pathOpen .planner (pathRows .planner (regionOf (s.reg Reg.PLN_PIN_ADDR % 2 ^ 48)) false) = true ∧ s.mig.posts = [] := by decide +kernel
theorem met_ThePlannerChecksSelectsAndReports_unread : let s := (sPlan 0 none).setReg Reg.PLN_PUB_ADDR 0x200007000010
    s.canonical = true ∧ s.mainClk = true ∧ s.mig.inbox = [] ∧ s.admits .planner (some s.plnPart) .s (s.reg Reg.PLN_PUB_ADDR % 2 ^ 48) 8 = false := by decide +kernel
theorem met_ThePlannerChecksSelectsAndReports_pin : let r := tPlan 1 true 0 1000
    let s := sPlan 0 (some r)
    let a := hubBase + s.reg Reg.PLN_GHDR_BASE
    s.canonical = true ∧ s.mainClk = true ∧ s.diag.halted.contains 3 = false ∧ s.pln.run = some r ∧ s.reached r.deadline = false ∧ r.named = true ∧ r.pinned = true ∧ s.mig.inbox = [] ∧
      s.admits .planner (some s.plnPart) .r a 128 = true ∧ regionOf a = .hub ∧ s.mayGo .planner s.plnPart .r a 128 = true ∧ s.poisoned a 128 = false := by decide +kernel
theorem met_ThePlannerChecksSelectsAndReports_precheck : let r := tPlan 2 false 0 1000
    let s := sPlan 0 (some r)
    s.canonical = true ∧ s.mainClk = true ∧ s.pln.run = some r ∧ s.reached r.deadline = false ∧ r.preDone = false ∧ s.gridPath = true ∧ s.trajRefused r 64 = false ∧
      s.poison.filter (fun w => (s.trajWords r r.stop).contains w) = [] := by decide +kernel
def tHead (n seq : Nat) : List Byte := toLE 2 n ++ [0, 0] ++ toLE 4 seq ++ List.replicate 56 0
def sPrep (thr n seq : Nat) : State :=
  let s := (sPlan 0 (some (tPlan 2 false 0 1000))).setReg Reg.PLN_READY_THR thr
  { s with mem := memStore s.mem 0x200103000000 (tHead n seq ++ List.replicate 1040 0 ++ toLE 4 0x3F800000 ++ [1, 0, 0, 0]) }
theorem met_ThePlannerChecksSelectsAndReports_prep : ∀ e ∈ [(1, 2, 0), (0, 2, 5), (0, 2, 0)], let s := sPrep e.1 e.2.1 e.2.2
    s.canonical = true ∧ s.mainClk = true ∧ s.mayGo .planner s.plnPart .r (s.candBase 0) 8 = true ∧ s.candBase 0 = 0x200103000000 ∧ tCell s (s.reg Reg.PLN_READY_ADDR % 2 ^ 48) = true ∧ s.cellAt (s.reg Reg.PLN_READY_ADDR % 2 ^ 48) = 0 ∧
      s.reg Reg.PLN_READY_THR = e.1 ∧ s.loadLE (s.candBase 0) 2 = e.2.1 ∧ (s.loadLE (s.candBase 0 + 4) 4 = ofInt 32 0 ↔ e.2.2 = 0) ∧
      hubOk s s.plnPart = true ∧ s.poisoned (s.candBase 0) 2144 = false ∧ s.plnPart = 0 := by decide +kernel
theorem met_ThePlannerChecksSelectsAndReports_array (k m : Nat) (h : k + m ≤ 2144) (h0 : 0 < m) :
    (sPrep 0 2 0).admits .planner (some (sPrep 0 2 0).plnPart) .r (0x200103000000 + k) m = true ∧ regionOf (0x200103000000 + k) = .hub :=
  ⟨hub_open rfl (by decide) (by decide) (by decide) (by decide +kernel) (by omega) (by omega) h0, hub_region (by omega) (by omega)⟩
theorem met_ThePlannerChecksSelectsAndReports_sweepStart : let r := { tPlan 2 false 0 1000 with preDone := true, prepDone := true }
    let s := sPlan 0 (some r)
    s.canonical = true ∧ s.mainClk = true ∧ s.pln.run = some r ∧ r.stage = 2 ∧ s.reached r.deadline = false := by decide +kernel
theorem met_ThePlannerChecksSelectsAndReports_sweep : let r := tPlan 3 false 0 1000
    let s := sPlan 0 (some r)
    s.canonical = true ∧ s.mainClk = true ∧ s.gridPath = true ∧ r.full = false ∧ (∀ l, l < 64 → s.layerOk r.buf l = true) ∧ s.poison = [] := by decide +kernel
theorem met_ThePlannerChecksSelectsAndReports_reduce : ∀ v ∈ [0, 2 ^ 63 + 2 ^ 33 + 7], let r := tPlan 4 false 0 1000
    let s := sPlan v (some r)
    s.canonical = true ∧ s.mainClk = true ∧ s.pln.run = some r ∧ s.reached r.deadline = false ∧ tCell s (s.reg Reg.PLN_PUB_ADDR % 2 ^ 48) = true ∧
      s.cellAt (s.reg Reg.PLN_PUB_ADDR % 2 ^ 48) = v ∧ ((bit v 63 && bit v 33 && v % 2 ^ 32 != r.ver) = decide (v ≠ 0)) := by decide +kernel
theorem met_ThePlannerChecksSelectsAndReports_recheck : ∀ e ∈ [(false, 0), (false, 1), (true, 1)], let r := tPlan 5 e.1 e.2 1000
    let s := sPlan 0 (some r)
    s.canonical = true ∧ s.mainClk = true ∧ s.gridPath = true ∧ r.sel = e.2 ∧ s.trajRefused r 64 = false ∧ s.trajRefused r r.selWps.length = false ∧ s.poison = [] ∧
      s.trajPasses r r.selWps = !e.1 := by decide +kernel
theorem met_ThePlannerChecksSelectsAndReports_deadline : ∀ k ∈ [1, 3], let s := sPlan 0 (some (tPlan k false 0 0))
    s.canonical = true ∧ s.mainClk = true ∧ s.reached 0 = true ∧ s.admits .planner (some s.plnPart) .s (s.reg Reg.PLN_PIN_ADDR % 2 ^ 48) 8 = true := by decide +kernel
theorem met_ThePlannerChecksSelectsAndReports_record : let s := sPlan 0 (some (tPlan 6 false 0 0))
    s.canonical = true ∧ s.mainClk = true ∧ s.pln.run = some (tPlan 6 false 0 0) ∧ (tPlan 6 false 0 0).p0.length = 4 ∧ s.reg Reg.PLN_RES_ADDR % 2 ^ 48 + 2048 * ((0 : Int) % 2).toNat = 0x200102000000 ∧
      s.mayGo .planner s.plnPart .w 0x200102000000 1600 = true ∧ hubOk s s.plnPart = true := by decide +kernel
theorem met_ThePlannerChecksSelectsAndReports_slot (k m : Nat) (h : k + m ≤ 1600) (h0 : 0 < m) :
    (sPlan 0 (some (tPlan 6 false 0 0))).admits .planner (some (sPlan 0 (some (tPlan 6 false 0 0))).plnPart) .w (0x200102000000 + k) m = true :=
  hub_open rfl (by decide) (by decide) (by decide) (by decide +kernel) (by omega) (by omega) h0
/-- 11 R307: at v0 = 2 m/s and A_STOP = 4 m/s^2 a waypoint after 0.25 s lies 2 * 0.25 - 4 * 0.25^2 / 2 = 0.375 m on; after the stop at 0.5 s, 0.5 m. -/
theorem test_stop_path : stopPath dTwo 0x4010000000000000 250000 1 = 0x3FD8000000000000 ∧ stopPath dTwo 0x4010000000000000 250000 9 = dHalf := by decide +kernel
/-- 11 R307: on a straight line the waypoint lies s_k ahead of P_0. -/
theorem test_stop_straight : stopWay [dOne, 0, 0, 0] dTwo 0 dHalf = [0x3FF8000000000000, 0, 0, 0] := by decide +kernel


/-! ### The loop engine and its servo ports (12) -/

/-- Axis 0 is `a`, port 0 is `p` with SRV_CFG `srv`, RUN is `run`. -/
def sLoop (run srv : Nat) (a : LoopAxis) (p : LoopPort) (f : Loop → Loop) : State :=
  { ((State.reset.setReg Reg.LOOP_CTRL run).setReg (Reg.SRV_CFG 0) srv).setReg Reg.LOOP_PERIOD 1600 with
    lp := f { Loop.reset with axes := a :: List.replicate 63 LoopAxis.reset, ports := p :: List.replicate 7 LoopPort.reset, srv := [srv] } }
/-- No tick in progress, one whose first cycle is over, one in its first cycle. -/
theorem met_TicksAndGroupsDriveTheAxes_commands : ∀ run ∈ [0, 1], ∀ st ∈ [0, 1, 3], ∀ e ∈ [(8, 5), (3, 5), (0, 0)],
    let s := sLoop run 1 { LoopAxis.reset with st := st } LoopPort.reset (fun l => { l with half := e.1, start := e.2 })
    (s.lp.half = 8 ∨ s.lp.half < 8) ∧ (s.lp.half = 0 ∧ s.lclk = s.lp.start ↔ e.1 = 0) ∧ s.lp.writes = [] ∧ (∀ x ∈ s.lp.axes, x.cmds = []) ∧
    s.canonical = true ∧ s.mainClk = true ∧ s.lp.axes.length = 64 ∧ s.lp.ports.length = 8 ∧ s.loopRunning = decide (run = 1) ∧ (s.axis 0).settled.st = st ∧ (s.axis 0).st = st ∧ s.srvEn 0 = true ∧
      s.allDisabled = decide (st = 0) ∧ 0 < s.loopPeriod := by decide +kernel
theorem met_TicksAndGroupsDriveTheAxes_table : ∀ st ∈ [0, 1], let s := sLoop 1 1 { LoopAxis.reset with st := st } LoopPort.reset id
    (s.axis (bits (s.reg Reg.LOOP_TBL_ADDR) 21 16)).settled.st = st := by decide +kernel
theorem met_TicksAndGroupsDriveTheAxes_tick : ∀ swap ∈ [true, false], let s := sLoop 1 1 LoopAxis.reset LoopPort.reset (fun l => { l with first := true, swap := swap })
    s.canonical = true ∧ s.mainClk = true ∧ s.loopRunning = true ∧ s.lp.half = 8 ∧ s.nextTick ≤ (s.lclk : Int) ∧ s.lp.swap = swap := by decide +kernel
/-- Axis 0 with feedback word `fb` and output gain `g`. -/
def sLaw (st g fb : Nat) (hit : Bool) : State :=
  (fun s : State => { s with tick := 16 }) <| sLoop 1 1 { LoopAxis.reset with st := st, pend := st == 0, fb := fb, stale := true } { LoopPort.reset with cut := true, hit := hit }
    (fun l => { l with half := 0, counted := !hit, par := [[0, 0, 0, 0, 0, 0, g, 0, 0, 0, 0, 0, 0x0A0000]] })
theorem met_TicksAndGroupsDriveTheAxes_group : ∀ e ∈ [(1, 0, 0, true), (0, 0, 0, true), (3, 0, 0, true), (1, 0, 2 ^ 50, true), (1, 0, 2 ^ 52, true), (1, 0x7FC00000, 0, true), (1, 0, 0, false)],
    let s := sLaw e.1 e.2.1 e.2.2.1 e.2.2.2
    let x := { s.axis 0 with miss := !e.2.2.2 }
    let o := s.law 0 (s.lp.par.getD 0 []) x.refs x e.2.2.2
    s.canonical = true ∧ s.mainClk = true ∧ s.lp.half = 0 ∧ s.loopRunning = true ∧ s.lp.start < s.lclk ∧ s.lp.start + (200 * (0 / 2) + 96 * (0 % 2)) ≤ s.lclk ∧ bit (s.lp.srv.getD 0 0) 0 = true ∧ (s.lport 0).cut = true ∧
      (s.lport 0).hit = e.2.2.2 ∧ s.lp.bad.any (fun e => e.1 == 0) = false ∧ flt (fofInt ((s.lp.par.getD 0 []).getD 11 0 : Nat)) (fabs o.ep) = false ∧
      isFinite32 o.iu = decide (e.2.1 = 0) := by decide +kernel

def sServo (x : LoopPort) : State := sLoop 1 (1 + 2 * 3 + 9 * 2 ^ 16) { LoopAxis.reset with st := 1 } x (fun l => { l with half := 0 })
theorem met_ServoFramesCarryWordsAndFeedback_command : ∀ e ∈ [([], Auth.fallback), ([0], .fallback), ([0], .main)], let s0 := sServo { LoopPort.reset with made := true }
    let s := { s0 with fbx := { s0.fbx with swPorts := e.1 }, auth := e.2, rclk := 122 }
    s.canonical = true ∧ s.mainClk = true ∧ s.lp.axes.length = 64 ∧ s.lp.ports.length = 8 ∧ (s.lport 0).made = true ∧ (s.lport 0).due ≤ s.lclk ∧ (List.range 8).all (fun j => (s.axis j).held == none) ∧
      s.fbx.swPorts.contains 0 = decide (e.1 ≠ []) ∧ (e.2 = .main → s.auth = .main ∧ mapGet 0 s.fbx.txT 0 + 122 ≤ s.rclk) := by decide +kernel
def tFeedback (seq : Nat) : List Byte := let b := toLE 1 0xD1 ++ [0] ++ toLE 2 seq ++ toLE 2 0 ++ List.replicate 64 0; b ++ toLE 4 (crc32c b)
theorem met_ServoFramesCarryWordsAndFeedback_feedback : ∀ e ∈ [(none, false), (some 0, true), (some 0, false)], let s := sServo { LoopPort.reset with up := true, sof := e.1, seq := 4, cut := e.2 }
    s.canonical = true ∧ s.mainClk = true ∧ (s.lport 0).up = true ∧ (s.lport 0).sof = e.1 ∧ (s.lport 0).cut = e.2 ∧ (s.lport 0).seq = 4 ∧ mapWf 0 s.fbx.fbPos = true := by decide +kernel
theorem met_ServoFramesCarryWordsAndFeedback_frame : ∀ seq ∈ [4, 5], let f := tFeedback seq
    f.length = 74 ∧ fieldLE f 0 1 = 0xD1 ∧ fieldLE f 70 4 = crc32c (f.take 70) ∧ fieldLE f 2 2 = seq ∧ fieldLE (f.set 70 (0xFF ^^^ f.getD 70 0)) 70 4 ≠ crc32c (f.take 70) := by decide +kernel
theorem met_ServoFramesCarryWordsAndFeedback_cutoff : ∀ got ∈ [none, some [0, 1]], let s0 := sServo { LoopPort.reset with got := got, misses := 2 }
    let s := { s0 with lp := { s0.lp with start := 4 }, tick := 160 }
    s.canonical = true ∧ s.mainClk = true ∧ s.cutoffAt 0 = some 0 ∧ s.lp.half < 8 ∧ bit (s.lp.srv.getD 0 0) 0 = true ∧ (s.lport 0).cut = false ∧ (0 : Int) < (s.lclk : Int) ∧ (s.lport 0).got = got ∧
      decide (bits (s.lp.srv.getD 0 0) 4 1 ≤ 3) = true := by decide +kernel
/-- A following error for one group: stop or hold; an axis that holds already. -/
theorem met_TicksAndGroupsDriveTheAxes_error : ∀ e ∈ [(1, 0), (1, 1), (2, 0)], let par := [0, 0, 0, 0, 0, 0, 0, 0, 0, 0, 0, 0, 2 ^ 16 + e.2 * 2 ^ 9]
    let s0 := sLaw e.1 0 5 true
    let s := { s0 with lp := { s0.lp with par := [par] } }
    let x := { s.axis 0 with miss := false }
    let o := s.law 0 par x.refs x true
    s.canonical = true ∧ (s.lport 0).hit = true ∧ bit x.fb 50 = false ∧ bit x.fb 52 = false ∧ x.st = e.1 ∧ s.lp.par.getD 0 [] = par ∧ s.lp.bad.any (fun e => e.1 == 0) = false ∧
      (e.1 = 1 → flt (fofInt (par.getD 11 0 : Nat)) (fabs o.ep) = true) ∧ bits (par.getD 12 0) 31 16 ≤ x.timer + 1 ∧ bit (par.getD 12 0) 9 = decide (e.2 = 1) ∧
      isFinite32 (s.law 0 par [x.fb % 2 ^ 32, 0, 0, 0] x true).iu = true ∧ isFinite32 (s.law 0 par [x.hold, 0, 0, 0] x true).iu = true := by decide +kernel


/-! ### The timebase, TSN ports and Xexisha ports (13, 14) -/

def sTime (en : Nat) (t : Timebase) : State := { (State.reset.setReg Reg.TB_CTRL en).setReg Reg.TB_LOCK (100 + 2 * 2 ^ 16 + 3 * 2 ^ 24) with tb := t }
theorem met_TheTimebaseServesAndSteps : ∀ e ∈ [(0, 0, 0), (1, 1, 0), (1, 1, 2), (1, 2, 0)], let s := sTime e.1 { Timebase.reset with st := e.2.1, outRun := e.2.2, accInHold := true, count := 2 ^ 40 }
    s.canonical = true ∧ s.mainClk = true ∧ s.servoEn = decide (e.1 = 1) ∧ s.tb.st = e.2.1 ∧ (bits (s.reg Reg.TB_LOCK) 31 24 ≤ s.tb.outRun + 1 ↔ e.2.2 = 2) ∧
      s.tb.lastAcc + s.reg Reg.TB_MEAS_TO * 250000 ≤ s.tb.count ∧ s.tb.holdEntry + s.reg Reg.TB_HOLD_MAX * 250000 ≤ s.tb.count := by decide +kernel
theorem met_TheTimebaseServesAndSteps_outlier : let s := sTime 1 { Timebase.reset with count := 5 }
    s.tb.stepAt ≠ some s.tb.count ∧ s.reg Reg.TB_OUTLIER * 65536 < (BitVec.ofNat 64 (2 ^ 62)).toInt.natAbs ∧ ¬s.reg Reg.TB_OUTLIER * 65536 < (0 : BitVec 64).toInt.natAbs := by decide +kernel
theorem met_TheTimebaseServesAndSteps_rate : let s := sTime 1 { Timebase.reset with count := 5, pendRate := [(5, 77)] }
    s.canonical = true ∧ s.mainClk = true ∧ s.tb.pendRate = (5, 77) :: [] ∧ 5 ≤ s.tb.count := by decide +kernel
/-- 13 R337: a step of -1 ns takes 2^16 from OFS. -/
theorem test_tb_step : (tbStepEffect (-1) (sTime 0 Timebase.reset)).tb.ofs = -65536 := by decide +kernel

/-- Queue 7 of port 0 holds `q`; its ring is at 0x200102000000. -/
def sTsn (cfg : Nat) (q : TxQueue) (p : TsnPort) : State :=
  let s := [(Reg.TSN_PCFG 0, 1), (Reg.TSN_QCFG 0 7, cfg), (Reg.TSN_QRING 0 7, 0x200102000000), (Reg.TSN_QDB 0 7, 0x200003000008), (Reg.TSN_QCPL 0 7, 0x200003000010)].foldl
    (fun s e => s.setReg e.1 e.2) (tState 0 9)
  { s with tsn := { p with queues := List.replicate 7 TxQueue.reset ++ [q] } :: List.replicate 3 TsnPort.reset
           mem := memStore [] 0x200102000000 (toLE 8 0x200103000000 ++ toLE 2 60 ++ [5, 0] ++ List.replicate 20 0) }
theorem met_TsnPortsQueueSendAndGate_ptp : let s := sTsn 1 TxQueue.reset TsnPort.reset
    s.canonical = true ∧ s.mainClk = true ∧ (∀ p ∈ s.tsn, p.queues.length = 8) ∧ s.tpEn 0 = true ∧ isPtp (tFrame 0x88F7 []) = true ∧ s.tqEn 0 7 = true ∧
      s.firstOwned .ingest (pathRows .ingest (regionOf (s.reg (Reg.TSN_QDB 0 7) % 2 ^ 48)) true) = true ∧ s.cellRead .ingest (s.tqPart 0 7) (s.reg (Reg.TSN_QDB 0 7) % 2 ^ 48) = some 0 := by decide +kernel
theorem met_TsnPortsQueueSendAndGate_fetch : let s := sTsn 1 { TxQueue.reset with announced := 1 } TsnPort.reset
    s.canonical = true ∧ s.mainClk = true ∧ (s.tqueue 0 7).announced ≠ (s.tqueue 0 7).fetched % 2 ^ 32 ∧ s.tsnMay 0 7 .r 0x200102000000 32 = true ∧ s.tsnMay 0 7 .r 0x200103000000 60 = true ∧
      (∀ x ∈ [(0x200102000000, 32), (0x200103000000, 60)], regionOf x.1 = .hub ∧ extentRegion x.1 x.2 = .hub ∧ s.admits .ingest (some (s.tqPart 0 7)) .r x.1 x.2 = true ∧
        s.poisoned x.1 x.2 = false) ∧ fieldLE (s.bytes 0x200102000000 32) 0 8 = 0x200103000000 ∧ fieldLE (s.bytes 0x200102000000 32) 8 2 = 60 ∧ s.txBytes 0 + 60 ≤ 0x40000 ∧
      s.actq 0 7 = false ∧ (s.tqueue 0 7).buf.head? = none := by decide +kernel
def tTx : TxFrame := ⟨0x200102000000, 5, List.replicate 60 0, 100, none⟩
theorem met_TsnPortsQueueSendAndGate_start : ∀ e ∈ [(1, 0), (3, 1000), (7, 1000)], let s0 := sTsn e.1 { TxQueue.reset with buf := [tTx] } TsnPort.reset
    let s := { s0 with tb := { s0.tb with ofs := e.2 * 2 ^ 16 } }
    s.canonical = true ∧ s.mainClk = true ∧ (∀ q, q < 8 → ∀ f ∈ (s.tqueue 0 q).buf.head?, f.fixed = none ∧ s.actq 0 q = false) ∧ s.tpEn 0 = true ∧ (s.tport 0).sending = none ∧ (s.tport 0).ends = 0 ∧ s.actq 0 7 = false ∧ s.mig.posts = [] ∧
      (∀ a ∈ [tTx.desc + 0x0A, tTx.desc + 0x0C, tTx.desc + 0x18, bits (s.reg (Reg.TSN_QCPL 0 7)) 47 0], s.pathOpen .ingest (pathRows .ingest (regionOf a) false) = true) ∧
      (List.range 8).reverse.findSome? (fun q => (s.eligible 0 q).map (fun f => (q, f))) = some (7, tTx) ∧
      (s.tqLt 0 7 && decide (tTx.launch + s.tqTol 0 7 < s.nowNs)) = decide (e.2 ≠ 0) ∧ s.tqSend 0 7 = decide (e.1 = 7) ∧
      s.admits .ingest (some (s.tqPart 0 7)) .w (tTx.desc + 0x0A) 2 = true ∧ s.admits .ingest (some (s.tqPart 0 7)) .w (tTx.desc + 0x18) 8 = true ∧
      s.admits .ingest (some (s.tqPart 0 7)) .s (bits (s.reg (Reg.TSN_QCPL 0 7)) 47 0) 8 = true := by decide +kernel
theorem met_TsnPortsQueueSendAndGate_end : ∀ q ∈ [7, 8], let s := sTsn 1 TxQueue.reset { TsnPort.reset with sending := some (q, tTx, -1000000000) }
    s.canonical = true ∧ s.mainClk = true ∧ (s.tport 0).sending = some (q, tTx, -1000000000) ∧ (s.tport 0).ends ≤ s.tick := by decide +kernel
theorem met_TsnPortsQueueSendAndGate_gates : let s := (sTsn 1 TxQueue.reset { TsnPort.reset with pend := some (⟨[], 0, 1000⟩, 0) }).setReg (Reg.TSN_GCL_CYCLE 0) 1000
    s.canonical = true ∧ s.mainClk = true ∧ 0 < s.reg (Reg.TSN_GCL_CYCLE 0) ∧ (s.tport 0).pend = some (⟨[], 0, 1000⟩, 0) ∧ s.reached 0 = true := by decide +kernel

/-- Port 0 is `p`; device 1 is a member reached through port 0, device 2 through port 1; this is device 0; client 0xE owns every path. -/
def sXsl (p : XPort) (f : Xexisha → Xexisha) : State :=
  let s := [(Reg.XSL_MEMBERS, 7), (Reg.XSL_ROUTE 0, 0xFFFFFFFFFF0100FF)].foldl (fun s e => s.setReg e.1 e.2) (tState 0 0xE)
  { s with xsl := f { Xexisha.reset with ports := p :: List.replicate 5 XPort.reset }, tick := 8000 }
theorem met_LinkPortsCarryAndLandMessages_ports : ∀ st ∈ [0, 1, 2], let s := sXsl { XPort.reset with st := st } id
    s.canonical = true ∧ s.mainClk = true ∧ s.xsl.ports.length = 6 ∧ bit (s.reg (Reg.XSL_PCFG 0)) 0 = false ∧ (s.port 0).st = st ∧ (s.port 0).lastRx + 1000 ≤ s.fclk ∧
      (s.port 0).sentAt ≠ 1 + s.frt.slotStart + s.subNow ∧ s.xsl.acks = [] ∧ s.devId = 0 := by decide +kernel
theorem met_LinkPortsCarryAndLandMessages_owner : ∀ e ∈ [(0, none), (1, some 0), (2, some 1)], let s := { (sXsl XPort.reset id).setReg (Reg.XSL_ROTMASK 0) e.1 with tick := 4000 }
    s.linkOwner 0 = e.2 := by decide +kernel
/-- A flit of type `typ` from device `src` to `dst` at hub offset 0x2000000, generation `gen`, with 2 hops left, and the slot frame that carries it from device 1. -/
def tFlit (typ src dst gen : Nat) : List Byte :=
  let b := [BitVec.ofNat 8 typ, BitVec.ofNat 8 src, BitVec.ofNat 8 dst, BitVec.ofNat 8 gen] ++ toLE 2 9 ++ [2, 0] ++ toLE 6 0x200102000000 ++ [1, 0] ++ [7, 8] ++ List.replicate 254 0
  b ++ toLE 4 (crc32c b)
def tSlotFrame (origin kind : Nat) (f : List Byte) : List Byte :=
  let h := [BitVec.ofNat 8 origin, 0, BitVec.ofNat 8 kind] ++ List.replicate 9 0
  h ++ toLE 4 (crc32c h) ++ f
theorem met_LinkPortsCarryAndLandMessages_frame : ∀ origin ∈ [0, 1], let f := tSlotFrame origin 1 (tFlit 1 1 0 0)
    crc32c ((f.take 16).take 12) = fieldLE (f.take 16) 0xC 4 ∧ fieldLE (f.take 16) 0 1 % 64 = origin ∧ fieldLE (f.take 16) 2 1 = 1 ∧
      (parseFlit ((f.drop 16).take 276) 0).isSome = true ∧ parseFlit (List.replicate 276 0) 0 = none := by decide +kernel
theorem met_LinkPortsCarryAndLandMessages_flit : ∀ e ∈ [(1, 0), (3, 0), (1, 2)], let s := sXsl { XPort.reset with st := 2 } id
    ∃ f, parseFlit (tFlit 1 e.1 e.2 0) s.nowNs = some f ∧ s.member f.src = decide (e.1 = 1) ∧ s.peerLost f.src = false ∧ f.dst = e.2 ∧ f.typ = 1 ∧ f.hops = 2 ∧
      (e.2 = 2 → s.routeOf f.dst = some 1) ∧ (s.port 0).inb.length < 4096 := by
  intro e he
  refine ⟨(parseFlit (tFlit 1 e.1 e.2 0) (sXsl { XPort.reset with st := 2 } id).nowNs).getD ⟨0, 0, 0, 0, 0, 0, false, false, 0, [], 0⟩, ?_⟩
  revert e
  decide +kernel
/-- The header with a wrong CRC. -/
theorem met_LinkPortsCarryAndLandMessages_unsound : let h := ((tSlotFrame 1 1 []).set 0 2).take 16
    crc32c (h.take 12) ≠ fieldLE h 0xC 4 := by decide +kernel
def sLand (gen : Nat) (addr : Nat) : State := { sXsl { XPort.reset with inb := [⟨1, 1, 0, gen, 9, 2, false, false, addr, [7, 8], 0⟩] } id with tick := 0 }
theorem met_LinkPortsCarryAndLandMessages_landing : ∀ e ∈ [(0, 0x200102000000), (5, 0x200102000000), (0, 0x200100400000)], let s := sLand e.1 e.2
    let f : Flit := ⟨1, 1, 0, e.1, 9, 2, false, false, e.2, [7, 8], 0⟩
    s.canonical = true ∧ s.mainClk = true ∧ (s.port 0).inb = f :: [] ∧ s.owns .xexisha (pathRows .xexisha (regionOf f.addr) false) = true ∧
      s.landingRange .w f.addr 2 = some (0, 1) ∧ s.admits .xexisha none .w f.addr 2 = decide (e.2 = 0x200102000000) ∧
      (f.gen = bits (s.reg (Reg.XSL_GEN (8 * 0 + 1))) 7 0 ↔ e.1 = 0) := by decide +kernel
def sOld : State :=
  { (sXsl XPort.reset (fun l => { l with msgs := [⟨9, 1, .client 0xF, 0⟩], released := [(4, 0)], seen := [(1, 0)], genAt := [(3, 0)] })) with tb := { Timebase.reset with ofs := 2 ^ 60 } }
theorem met_LinkPortsCarryAndLandMessages_ages : sOld.canonical = true ∧ sOld.mainClk = true ∧ sOld.xsl.msgs.find? (fun m => sOld.reached (m.since + (sOld.quarantine : Int))) = some ⟨9, 1, .client 0xF, 0⟩ ∧
    sOld.xsl.released = (4, 0) :: [] ∧ sOld.reached (0 + (sOld.quarantine : Int)) = true ∧ sOld.reached (mapGet (-1) sOld.xsl.seen 1 + 1000 * (sOld.reg Reg.XSL_PEER_TO : Int)) = true ∧
    sOld.member 1 = true ∧ sOld.peerLost 1 = false ∧ 1 ≠ sOld.devId := by decide +kernel
theorem met_LinkPortsCarryAndLandMessages_generation : ∀ v ∈ [1, 2],
    (decide (v = (bits (sOld.reg (Reg.XSL_GEN 3)) 7 0 + 1) % 256) &&
      (match sOld.xsl.genAt.find? (fun e => e.1 == 3) with | some e => sOld.reached (e.2 + (sOld.quarantine : Int)) | none => true)) = decide (v = 1) := by decide +kernel


/-! ### Doubt, authority and the fallback executor (15) -/

/-- 1 s after the Rind's power-on. -/
def sRind (auth : Auth) (line : DoubtLine) (wd : Watchdogs) (f : Fbx) : State :=
  { (State.reset.setReg Reg.FBX_TIMES (20 + 20 * 2 ^ 16 + 100 * 2 ^ 32)).setReg Reg.RIND_WDT_CFG 10 with auth := auth, line := line, wd := wd, fbx := f, rclk := 400000000 }
def tWd (hb kick : Nat) (kicked : Bool) : Watchdogs := { hbLast := hb, hbArmed := true, kickLast := kick, kickExpect := 0x5A5A0001, kickArmed := true, kicked := kicked }
theorem met_DoubtReachesTheRindAndHandbackReturns_codes : let s := sRind .main { DoubtLine.reset with toSend := [0x85], bridge := [0x86], dlP := true, dlN := false, glitches := 1 } (tWd 0 0 true) Fbx.reset
    s.canonical = true ∧ s.mainClk = true ∧ s.line.toSend = 0x85 :: [] ∧ s.line.bridge = 0x86 :: [] ∧ 0x80 ≤ 0x86 ∧ 0x86 < 0xA0 ∧ 0 < s.line.glitches := by decide +kernel
theorem met_DoubtReachesTheRindAndHandbackReturns_timeout : ∀ kicked ∈ [true, false], let s := sRind .main { DoubtLine.reset with assertT := some 0, dlP := true, dlN := false } (tWd 0 0 kicked) Fbx.reset
    s.canonical = true ∧ s.mainClk = true ∧ s.line.assertT = some 0 ∧ 0 + 800 ≤ s.rclk ∧ s.lineDoubt = true ∧ s.wd.kicked = kicked := by decide +kernel
def tTrj : Trj := ⟨7, 1, 2, 1, 5, [⟨0, 0, [(0, 0), (100, 0)]⟩], [⟨0, 1, [1]⟩, ⟨1, 0, [2]⟩], 399999000⟩
theorem met_DoubtReachesTheRindAndHandbackReturns_qualify : ∀ e ∈ [(Auth.main, some tTrj), (.main, none), (.handbackPending, none), (.fallback, none)],
    let s := sRind e.1 { DoubtLine.reset with run := 4 } (tWd 0 0 true) { Fbx.reset with active := e.2 }
    s.canonical = true ∧ s.mainClk = true ∧ 4 ≤ s.line.run ∧ s.line.qualified = false ∧ s.auth = e.1 ∧ s.evr.buffer.length < 4096 ∧
      (∀ tr ∈ s.fbx.active, tr = tTrj ∧ s.rclk - tr.accT ≤ s.regBits Reg.FBX_TIMES 15 0 * 400000) := by decide +kernel
theorem met_DoubtReachesTheRindAndHandbackReturns_clear : ∀ e ∈ [Auth.main, .fallback], let s := sRind e DoubtLine.reset (tWd 0 0 true) Fbx.reset
    s.canonical = true ∧ (s.auth = .main ↔ e = .main) ∧ { s with mainClk := true, start := { s.start with step := 8 } }.canonical = true := by decide +kernel
theorem met_DoubtReachesTheRindAndHandbackReturns_watchdogs : ∀ kick ∈ [0, 400000000], let s := sRind .main DoubtLine.reset (tWd 0 kick true) Fbx.reset
    s.canonical = true ∧ s.mainClk = true ∧ s.wd.hbArmed = true ∧ s.wd.hbLast + 1600 ≤ s.rclk ∧ s.wd.kicked = true ∧ (BitVec.ofNat 32 0x5A5A0001).toNat = s.wd.kickExpect ∧
      ((s.wd.kickArmed = true ∧ s.wd.kickLast + s.regBits Reg.RIND_WDT_CFG 9 0 * 400000 < s.rclk) ↔ kick = 0) := by decide +kernel
theorem met_DoubtReachesTheRindAndHandbackReturns_handback : ∀ cfg ∈ [0, 1],
    let s0 := sRind .handbackPending { DoubtLine.reset with dlN := true } (tWd 399999000 399999000 true) { Fbx.reset with hbGo := true, hbAcc := true, clearT := some 0, playSet := [3], stillT := [(3, 0)] }
    let s := s0.setRegBits Reg.FBX_CFG 0 0 cfg
    s.canonical = true ∧ s.mainClk = true ∧ s.auth = .handbackPending ∧ s.fbx.hbGo = true ∧ s.fbx.hbAcc = true ∧ s.safe = false ∧
      (s.reg Reg.SAF_DOUBT = 0 ∧ s.reg Reg.RIND_DOUBT = 0 ∧ s.lineDoubt = false ∧ s.fbx.clearT = some 0 ∧ 0 + 400000 ≤ s.rclk) ∧
      (s.wd.hbArmed = true ∧ s.rclk ≤ s.wd.hbLast + 1600 ∧ s.wd.kickArmed = true ∧ s.rclk ≤ s.wd.kickLast + s.regBits Reg.RIND_WDT_CFG 9 0 * 400000) ∧
      (bit (s.reg Reg.FBX_CFG) 0 = decide (cfg = 1)) ∧ s.fbx.playSet = [3] ∧ s.fbx.stillT.find? (fun e => e.1 == 3) = some (3, 0) ∧ 0 + s.regBits Reg.FBX_TIMES 31 16 * 400000 ≤ s.rclk := by
  decide +kernel
theorem met_DoubtReachesTheRindAndHandbackReturns_waits : let s := sRind .handbackPending DoubtLine.reset (tWd 0 0 true) Fbx.reset
    s.canonical = true ∧ s.mainClk = true ∧ s.fbx.hbGo = false := by decide +kernel

/-- A trajectory of one axis and two knots, its magic `m`. -/
def tTrjBytes (m : Nat) : List Byte :=
  let a := toLE 4 m ++ toLE 4 88
  let b := toLE 4 1 ++ toLE 2 1 ++ [2, 1, 0, 1] ++ toLE 2 0 ++ toLE 8 1 ++ List.replicate 32 0 ++ ([0, 0, 0, 0] ++ toLE 4 0 ++ toLE 4 0 ++ toLE 4 0 ++ toLE 4 0 ++ toLE 4 0)
  a ++ toLE 4 (crc32c (a ++ [0, 0, 0, 0] ++ b)) ++ b
def sTrj (auth : Auth) (m : Nat) : State :=
  let s := sRind auth DoubtLine.reset (tWd 0 0 true) { Fbx.reset with staging := (List.range 11).map (fun k => (k, fieldLE (tTrjBytes m) (8 * k) 8)) }
  { s.setReg Reg.FBX_AXEN 1 with safe := false }
theorem met_TheFallbackExecutorPlaysItsTrajectory_commit : ∀ e ∈ [(Auth.main, 0x46584231), (.fallback, 0x46584231), (.main, 0)], let s := sTrj e.1 e.2
    let l := s.stageBytes (max 64 (min 16384 (fieldLE (s.stageBytes 8) 4 4)))
    s.canonical = true ∧ s.mainClk = true ∧ mapWf 0 s.fbx.iq = true ∧ mapWf 0 s.fbx.fbMiss = true ∧ s.safe = false ∧ l = tTrjBytes e.2 ∧ (s.trjReject l = 0 ↔ e.2 ≠ 0) ∧ (fieldLE l 0 4 ≠ 0x46584231 ↔ e.2 = 0) ∧
      s.fbx.lateFrom + s.reg Reg.FBX_LATE_US * 400 ≤ s.rclk := by decide +kernel
/-- Playback of tTrj since the last ms; FBX_CFG `cfg`. -/
def sPlay (cfg : Nat) (deflt : Bool) (sent : Option Nat) (safe : Bool) : State :=
  let s := sRind .fallback DoubtLine.reset (tWd 0 0 true) { Fbx.reset with playing := true, deflt := deflt, active := some tTrj, playSet := [0], t0 := 0, ethSent := sent, swPorts := [] }
  { s.setReg Reg.FBX_CFG cfg with safe := safe }
theorem met_TheFallbackExecutorPlaysItsTrajectory_step : ∀ safe ∈ [true, false], let s := sPlay (2 ^ 8) false none safe
    s.canonical = true ∧ s.mainClk = true ∧ s.fbx.stepT ≤ s.rclk ∧ s.safe = safe ∧ s.fbx.playing = true ∧ 0 ∈ s.fbx.playSet ∧ bit (s.reg Reg.FBX_CFG) (8 + 0) = true := by decide +kernel
theorem met_TheFallbackExecutorPlaysItsTrajectory_reference : let s := sPlay 0 false none false
    s.fbx.deflt = false ∧ s.fbx.active = some tTrj ∧ tTrj.axes.find? (fun y => y.axis == 0) = some ⟨0, 0, [(0, 0), (100, 0)]⟩ ∧
      tTrj.nk ≤ (s.fbx.tau0 + (s.rclk - s.fbx.t0)) / (max 1 (tTrj.kdtMs * 400000)) + 1 := by decide +kernel
/-- The example of 15: axis 21 at 0.42 ms of its first segment (POS 100,262; VEL 622,061.3125). -/
def tSegment : Trj := ⟨7, 100, 2, 1, 5, [⟨21, 0, [(100000, 0x49189680), (130000, 0)]⟩], [], 0⟩
theorem met_TheFallbackExecutorPlaysItsTrajectory_segment : let s0 := sPlay 0 false none false
    let s := { s0 with rclk := 168000, fbx := { s0.fbx with active := some tSegment } }
    s.canonical = true ∧ s.mainClk = true ∧ s.fbx.deflt = false ∧ s.fbx.active = some tSegment ∧ (s.fbx.tau0 + (s.rclk - s.fbx.t0)) / (max 1 (tSegment.kdtMs * 400000)) + 1 < tSegment.nk ∧
      s.fbxRef 21 = (100262, 0x4917DED5, 0) := by decide +kernel
theorem met_TheFallbackExecutorPlaysItsTrajectory_safe : ∀ tx ∈ [[], [(0, 399996000)], [(0, 399996001)]], let s0 := sPlay (2 ^ 8) false none true
    let s := { s0 with fbx := { s0.fbx with txT := tx } }
    s.canonical = true ∧ s.mainClk = true ∧ s.safe = true ∧ bit (s.reg Reg.FBX_CFG) (8 + 0) = true ∧ (s.lport 0).sof = none ∧ s.safeDue 1 = false ∧ s.safeDue 0 = decide (tx ≠ [(0, 399996001)]) := by
  decide +kernel
theorem met_TheFallbackExecutorPlaysItsTrajectory_frame : let s0 := sPlay (2 ^ 8) false none false
    let s := { s0 with fbx := { s0.fbx with stepT := 1 } }
    s.canonical = true ∧ s.mainClk = true ∧ s.auth ≠ .main ∧ s.safe = false ∧ bit (s.reg Reg.FBX_CFG) (8 + 0) = true ∧ s.fbx.t0 < s.fbx.stepT ∧ (∀ e ∈ s.fbx.txT, e.1 ≠ 0) ∧ (s.lport 0).sof = none := by decide +kernel
theorem met_TheFallbackExecutorPlaysItsTrajectory_ethernet : ∀ e ∈ [(true, none), (false, none), (false, some 0), (false, some 1)], let s := sPlay (2 ^ 16) e.1 e.2 false
    s.canonical = true ∧ s.mainClk = true ∧ s.fbx.playing = true ∧ s.safe = false ∧ bit (s.reg Reg.FBX_CFG) 16 = true ∧ s.fbx.deflt = e.1 ∧ s.fbx.active = some tTrj ∧ s.fbx.ethSent = e.2 ∧
      (∀ i ∈ [0, 1], ∀ e ∈ tTrj.eth[i]?, e.offsetMs * 400000 ≤ s.fbx.tau0 + (s.rclk - s.fbx.t0)) ∧ tTrj.eth.length = 2 ∧
      s.fbx.t0 + s.regBits Reg.FBX_DEF_CFG 47 32 * 400000 ≤ s.rclk ∧ tTrj.endAction = 1 ∧
      ((tTrj.nk - 1) * tTrj.kdtMs + tTrj.endHoldMs) * 400000 ≤ s.fbx.tau0 + (s.rclk - s.fbx.t0) := by decide +kernel
/-- The repeat of the only entry. -/
theorem met_TheFallbackExecutorPlaysItsTrajectory_repeat : let s0 := sPlay (2 ^ 16) false (some 0) false
    let tr := { tTrj with eth := [⟨0, 1, [1]⟩] }
    let s := { s0 with fbx := { s0.fbx with active := some tr } }
    s.canonical = true ∧ s.mainClk = true ∧ s.fbx.ethSent = some 0 ∧ tr.eth[0]? = some ⟨0, 1, [1]⟩ ∧ tr.eth.length = 1 ∧ s.fbx.ethLastT + 1 * 400 ≤ s.rclk := by decide +kernel


/-! ### Start-up and resets (18) -/

def sStart (f : Startup → Startup) : State := { State.reset with start := f Startup.reset }
theorem met_ResetsLeaveWhatTheTableKeeps : let s := sStart (fun x => { x with step := 1 })
    s.canonical = true ∧ s.mainClk = true ∧ s.start.step = 1 ∧ s.start.mcRst = false ∧ s.start.resetN = false ∧ s.start.railBad = false ∧ s.start.rind = true ∧ s.start.booting = false ∧
      s.start.refclk = true := by decide +kernel
theorem met_ResetsLeaveWhatTheTableKeeps_reset : ∀ e ∈ [(8, 1), (8, 2), (3, 1)], let s := sStart (fun x => { x with step := e.1, resetAt := some (0, e.2) })
    s.canonical = true ∧ s.start.resetAt = some (0, e.2) ∧ 0 ≤ s.fclk ∧ s.mainClk = true ∧ (if s.start.step < 8 then max e.2 s.start.kind else e.2) = (if e.1 = 8 then e.2 else 2) := by
  decide +kernel
theorem met_ResetsLeaveWhatTheTableKeeps_clocks : let s := { State.reset with mainClk := false }
    s.canonical = true ∧ s.mainClk = false := by decide +kernel
def tBoot (seq pcyc : Nat) : EvRecord := ⟨seq, 0, pcyc, 4, 0xFF, 0, 0, 0, 0, 0, 0⟩
theorem met_ResetsLeaveWhatTheTableKeeps_boot : let s := { sStart (fun x => { x with booting := true, mcRst := true }) with evr := { Recorder.reset with mram := [(4, tBoot 4 9)] } }
    s.canonical = true ∧ s.mainClk = true ∧ s.start.booting = true ∧ (4, tBoot 4 9) ∈ s.evr.mram ∧ 4 ∉ s.evr.torn ∧ (∀ k ∈ [5], k % mramSlots ≠ 4) ∧ (∀ x ∈ s.evr.mram, x.2.seq < 2 ^ 32 - 2) := by
  decide +kernel

/-- Mailbox 3 has a session of role `role`; its command `op` with `args` is the one firmware, in state `fw`, serves. -/
def sMail (s : State) (role fw op : Nat) (args : List Byte) : State :=
  let t := s.setRegBits Reg.MBX_STATE 7 0 fw
  let u := { t with start := { t.start with step := 8, running := true }, firm := { t.firm with sessions := [(3, ⟨role, 7, [], 1000, 0, 0⟩)], bells := [3] } }
  ((u.setMail 3 0 (toLE 2 op)).setMail 3 8 (toLE 4 args.length)).setMail 3 0x40 args
def serves (s : State) (op : Nat) (need : Need) : Bool :=
  s.canonical && s.atHead 3 op && mapWf (0 : Byte) s.firm.mail && s.fw != 7 && holds (s.roleOf 3) s.keep.lifecycle need && (s.firm.bells.filter (fun y => y != 3)).isEmpty && s.mainClk
theorem serves_of {s : State} {op : Nat} {need : Need} (h : serves s op need = true) : s.canonical = true ∧ mapWf (0 : Byte) s.firm.mail = true ∧ s.Serves 3 op need := by
  simp only [serves, Bool.and_eq_true, bne_iff_ne] at h
  obtain ⟨⟨⟨⟨⟨⟨h0, h1⟩, h2⟩, h3⟩, h4⟩, h5⟩, h6⟩ := h
  refine ⟨h0, h2, h6, h1, h2, h3, h4, fun x l e => ?_⟩
  rw [List.isEmpty_iff.mp h5] at e
  exact absurd e (by simp)

theorem met_StartUpRunsItsStepsAndResetIsCommanded_image : ∀ host ∈ [true, false], let s := { sStart id with keep := { Keep.reset with bootHost := host } }
    s.canonical = true ∧ s.start.hold = 0 ∧ s.mainClk = true ∧ s.start.hostWait = false ∧ s.start.step = 2 ∧ s.start.running = false ∧ s.firm.bells = [] ∧ s.startConfig = none ∧
      s.imageRefused (s.nor (slotOffset s.activeSlot)) = 1 ∧ s.imageRefused (s.nor (slotOffset (1 - s.activeSlot))) = 1 ∧ s.keep.bootHost = host := by decide +kernel
/-- An image without a body; whether its signature verifies is an open constant. -/
def tImage : List Byte := toLE 4 0x46574931 ++ toLE 2 3 ++ toLE 2 0 ++ toLE 4 5 ++ toLE 4 0 ++ sha384 [] ++ List.replicate 192 0
def sImage : State := { sStart id with keep := { Keep.reset with nor := [(0x100000, tImage)] } }
theorem met_StartUpRunsItsStepsAndResetIsCommanded_signed (h : sImage.makerSigned (tImage.take 0x60) ((tImage.drop 0x60).take 96) = true) :
    sImage.nor (slotOffset sImage.activeSlot) = tImage ∧ sImage.imageRefused tImage = 0 := by
  refine ⟨by decide +kernel, ?_⟩
  have e : fieldLE tImage 0 4 = 0x46574931 ∧ fieldLE tImage 0xC 4 = 0 ∧ tImage.length = 256 ∧ sha384 ((tImage.drop 256).take 0) = (tImage.drop 0x10).take 48 := by decide +kernel
  have e2 : ¬fieldLE tImage 6 2 < sImage.keep.svn := by decide +kernel
  simp only [State.imageRefused, e.1, e.2.1, e.2.2.1, e.2.2.2, h, e2]
  decide
def tConfig : List Byte := toLE 4 0x53554331 ++ toLE 4 256 ++ List.replicate 248 0
theorem met_StartUpRunsItsStepsAndResetIsCommanded_config : ∀ l ∈ [0, 1], let s := { sStart (fun x => { x with running := true }) with keep := { Keep.reset with lifecycle := l } }
    s.canonical = true ∧ s.mainClk = true ∧ s.start.running = true ∧ s.startConfig = none ∧ s.keep.lifecycle = l ∧
      { s with keep := { s.keep with nor := [(norConfig, tConfig)] } }.startConfig = some tConfig ∧ configPhases tConfig = some [[], [], [], []] := by decide +kernel
theorem met_StartUpRunsItsStepsAndResetIsCommanded_steps : ∀ k ∈ [3, 4, 5, 6, 7], ∀ d ∈ [0, 1], let s := { (sStart (fun x => { x with step := k })).setReg Reg.SAF_DOUBT d with auth := if k = 7 then .main else .fallback }
    s.canonical = true ∧ s.start.hold = 0 ∧ s.mainClk = true ∧ s.start.hostWait = false ∧ s.start.step = k ∧ s.startConfig = none ∧ s.reg Reg.SAF_DOUBT = d ∧ s.reg Reg.RIND_DOUBT = 0 ∧
      s.wd.kickArmed = false ∧ s.safe = false ∧ (∀ i ∈ [1, 2, 3], s.start.phases.getD i [] = []) := by decide +kernel
theorem met_StartUpRunsItsStepsAndResetIsCommanded_push : ∀ n ∈ [256, 0x800001], let s0 := sMail (sStart id) 0 0 0 []
    let s1 := (s0.setMail 0 0 (toLE 2 0x310)).setMail 0 8 (toLE 4 16)
    let s2 := s1.setMail 0 0x48 (toLE 4 n)
    let s := { s2 with start := { s2.start with running := false, hostWait := true, step := 2 }, firm := { s2.firm with bells := [0] } }
    s.canonical = true ∧ s.mainClk = true ∧ s.start.running = false ∧ s.start.hostWait = true ∧ 0 ∈ s.firm.bells ∧ s.opcode 0 = 0x310 ∧ mapWf (0 : Byte) s.firm.mail = true ∧ s.arg 0 8 4 = n ∧
      s.firm.bells.filter (fun y => y != 0) = [] ∧ s.imageRefused (sized [] n) = 1 := by decide +kernel
theorem met_StartUpRunsItsStepsAndResetIsCommanded_empty : let s := sStart (fun x => { x with running := true, empties := some 0 })
    s.canonical = true ∧ s.mainClk = true ∧ s.start.running = true ∧ s.start.empties.isSome = true ∧ s.firm.relay.begun = false ∧ s.safe = false := by decide +kernel
theorem met_StartUpRunsItsStepsAndResetIsCommanded_timeout : ∀ k ∈ [7, 8], let s := { sStart (fun x => { x with step := k }) with auth := .handbackPending, fbx := { Fbx.reset with hbReqT := some 0 } }
    s.canonical = true ∧ s.mainClk = true ∧ s.auth = .handbackPending ∧ s.fbx.hbReqT = some 0 ∧ 0 + s.regBits Reg.FBX_TIMES 47 32 * 400000 ≤ s.rclk ∧ s.start.step = k ∧ s.start.hold = 0 ∧ s.safe = false ∧
      s.evr.buffer.length < 4096 := by decide +kernel
/-- RESET of kind k and target b; the axes run where `busy`. -/
def sReset (k b : Nat) (busy : Bool) : State :=
  let s := sMail (tState (1 + 2 ^ 16) 0) 2 2 0x20A (toLE 4 k ++ [BitVec.ofNat 8 b, 0, 0, 0])
  if busy then { s with auth := .main, lp := { s.lp with axes := { LoopAxis.reset with st := 1 } :: List.replicate 63 LoopAxis.reset } } else s
theorem met_StartUpRunsItsStepsAndResetIsCommanded_reset : ∀ e ∈ [(1, false), (1, true), (2, false), (2, true), (0, false), (9, false)], let s := sReset e.1 0 e.2
    serves s 0x20A .installer = true ∧ s.openOrStarting = true ∧ s.arg 3 0 4 = e.1 ∧ s.axesBusy = e.2 := by decide +kernel
theorem met_StartUpRunsItsStepsAndResetIsCommanded_partition : ∀ b ∈ [0, 0x81], let s := sReset 3 b false
    serves s 0x20A .installer = true ∧ s.arg 3 0 4 = 3 ∧ s.arg 3 4 1 = b ∧ s.tableValid = true ∧ s.frt.resets = [] ∧ (b = 0x81 → (partOf s.table 1).isSome = true) ∧ s.auth ≠ .main := by decide +kernel


/-! ### Power, thermal control and supervision (16) -/

def sPwr (mode energy : Nat) (p : Power) : State :=
  { (((State.reset.setRegBits Reg.PWR_STATUS 1 0 mode).setRegBits Reg.PWR_MODE 1 0 mode).setReg Reg.PWR_ENERGY energy) with pwr := p, tick := 400000 }
/-- Modes 0 to 2; energies on every side of the four thresholds of R413. -/
theorem met_PowerPeriodsCapAndMeter : ∀ mode ∈ [0, 1, 2], ∀ e ∈ [14080 * 450 + 1, 12800 * 450 + 1, 12416 * 450, 0], ∀ low ∈ [0, 1], let s := sPwr mode e { Power.reset with low := low }
    s.canonical = true ∧ s.mainClk = true ∧ (s.pwr.periods + 1) * 50000 ≤ s.fclk ∧ bits (s.reg Reg.PWR_MODE) 1 0 = mode ∧ (s.reg Reg.PWR_ENERGY + 2 ^ 64 - s.pwr.eStart) % 2 ^ 64 = e ∧ s.takePower.pwr.low = low ∧
      s.pwr.raised.length = 8 ∧ s.evr.buffer.length < 4096 := by decide +kernel
theorem met_PowerPeriodsCapAndMeter_group : let s := { sPwr 1 0 Power.reset with tick := 384 }
    s.canonical = true ∧ s.mainClk = true ∧ s.groupBoundary = true ∧ s.pwr.raised.length = 8 := by decide +kernel
theorem met_PowerPeriodsCapAndMeter_below : let s := (tState 0 0).setReg Reg.PWR_MODE (1 + 90 * 2 ^ 16)
    s.tableValid = true ∧ bits (s.reg Reg.PWR_MODE) 1 0 = 1 ∧ (decide (bits (s.reg Reg.PWR_MODE) 24 16 < tPMinW s.table) || bit (s.reg Reg.PWR_STATUS) 4) = true := by decide +kernel
theorem met_PowerPeriodsCapAndMeter_ceiling : ∀ e ∈ [(1600, true), (1500, false)], let s := (List.range 16).foldl (fun (u : State) r => u.setReg (Reg.PWR_TEMP r) e.1) (sPwr 1 0 Power.reset)
    ∀ r ∈ (List.range 16).filter (fun r => (loadSet r).contains 0), decide (((16 * s.pwr.tsoft : Nat) : Int) ≤ s.temp r) = e.2 ∧ decide (s.temp r < ((16 * s.pwr.tsoft : Nat) : Int) - 80) = !e.2 := by
  decide +kernel
theorem met_PowerPeriodsCapAndMeter_mode : ∀ n ∈ [0x1C20001, 0x1C20003], let w := BitVec.ofNat 32 n
    decide (bits w.toNat 1 0 ≤ 2 ∧ 90 ≤ bits w.toNat 24 16 ∧ bits w.toNat 24 16 ≤ 450) = decide (n = 0x1C20001) := by decide +kernel
theorem met_DroopTemperatureAndEnergyAreWatched : ∀ d ∈ [(false, false), (true, true), (false, true)], let s := sPwr 1 0 { Power.reset with droop := ⟨d.1, d.2, 0, false⟩ :: List.replicate 7 ⟨false, false, 0, false⟩ }
    s.canonical = true ∧ s.mainClk = true ∧ s.pwr.droop.length = 8 ∧ s.pwr.region.length = 8 ∧ (s.pwr.droop.getD 0 ⟨false, false, 0, false⟩).asserted = d.1 ∧
      (s.pwr.droop.getD 0 ⟨false, false, 0, false⟩).active = d.2 ∧ (s.pwr.droop.getD 0 ⟨false, false, 0, false⟩).left = 0 := by decide +kernel
theorem met_DroopTemperatureAndEnergyAreWatched_pairs : let s := (sPwr 1 0 Power.reset).setReg (Reg.PWR_RAIL 8) 900
    s.canonical = true ∧ s.mainClk = true ∧ (0, 8) ∈ regionPairs ∧ s.beyond (0, 8) = true := by decide +kernel
theorem met_DroopTemperatureAndEnergyAreWatched_release : let s := { (sPwr 1 0 { Power.reset with within := some 0 }).setRegBits Reg.PWR_STATUS 7 7 1 with tick := 8000000 }
    s.canonical = true ∧ s.mainClk = true ∧ s.pwr.within = some 0 ∧ bit (s.reg Reg.PWR_STATUS) 7 = true ∧ 0 + 1000000 ≤ s.fclk := by decide +kernel


/-! ### Mailboxes and firmware (17, 18) -/

theorem met_MailboxesAdmitCommandsByRoleAndState : ∀ e ∈ [(7, 2), (2, 0), (6, 2), (3, 2)], let s := sMail State.reset e.2 e.1 0x300 []
    s.canonical = true ∧ s.mainClk = true ∧ s.mailRow (.fwStage 3) = some (3, 0x300, .maker, decide (e.1 = 2)) ∧ s.atHead 3 0x300 = true ∧ mapWf (0 : Byte) s.firm.mail = true ∧
      s.firm.bells.filter (fun y => y != 3) = [] ∧ s.fw = e.1 ∧ holds (s.roleOf 3) s.keep.lifecycle .maker = false := by decide +kernel
theorem met_MailboxesAdmitCommandsByRoleAndState_state : ∀ fw ∈ [3, 6], let s := sMail State.reset 3 fw 0x300 []
    s.canonical = true ∧ s.mainClk = true ∧ s.mailRow (.fwStage 3) = some (3, 0x300, .maker, false) ∧ s.atHead 3 0x300 = true ∧ s.fw = fw ∧ holds (s.roleOf 3) s.keep.lifecycle .maker = true := by decide +kernel
theorem met_MailboxesAdmitCommandsByRoleAndState_doorbell : ∀ op ∈ [1, 0x999], let s0 := sMail State.reset 3 2 op []
    let s := { s0 with firm := { s0.firm with bells := [] } }
    s.canonical = true ∧ s.mainClk = true ∧ s.hostOwns 3 = true ∧ s.start.running = true ∧ s.firm.bells = [] ∧ s.fw ≠ 7 ∧ s.opcode 3 = op ∧ listed (s.opcode 3) = decide (op = 1) ∧
      (s.setRegBits Reg.MBX_OWNER 3 3 0).hostOwns 3 = false ∧ mapWf (0 : Byte) (s.setRegBits Reg.MBX_OWNER 3 3 0).firm.mail = true := by decide +kernel

def sNone (s : State) : State := { s with firm := { s.firm with sessions := [] } }
theorem met_SessionsOpenAndEndAndTheHostReads_challenge : ∀ e ∈ [[], [(3, 5)]], let s0 := sNone (sMail State.reset 0 2 3 [])
    let s := { s0 with firm := { s0.firm with lockout := e } }
    serves s 3 .any = true ∧ mapWf 0 s.firm.fails = true ∧ s.fw ≠ 6 ∧ s.session 3 = none ∧ s.lockedOut 3 = decide (e ≠ []) := by decide +kernel
/-- A token with a certificate of one byte; what that says is an open constant. -/
def tToken : List Byte := toLE 4 0x544F4B31 ++ [2, 0, 0, 0] ++ List.replicate 48 0 ++ toLE 4 60 ++ List.replicate 132 0 ++ [1]
theorem met_SessionsOpenAndEndAndTheHostReads_open : ∀ fails ∈ [[], [(3, 7)]], let s0 := sNone (sMail State.reset 0 2 4 tToken)
    let s := { s0 with firm := { s0.firm with fails := fails } }
    serves s 4 .any = true ∧ mapWf 0 s.firm.fails = true ∧ s.fw ≠ 6 ∧ s.session 3 = none ∧ s.args 3 = tToken ∧ tokenOk (s.args 3) = true ∧ s.firm.nonces = [] ∧ tokenOk [] = false ∧
      (8 ≤ mapGet 0 s.firm.fails 3 + 1 ↔ fails ≠ []) := by decide +kernel
/-- Without a nonce no token holds. -/
theorem met_SessionsOpenAndEndAndTheHostReads_fails (s : State) (h : s.firm.nonces = []) (l : List Byte) : s.tokenHolds 3 l = false := by simp [State.tokenHolds, h]
/-- A token holds where the constants say so: one nonce, a maker certificate of epoch 0. -/
theorem met_SessionsOpenAndEndAndTheHostReads_holds (s : State) (l : List Byte) (hr : Config.certRole (l.drop 192) = fieldLE l 4 1) (h3 : fieldLE l 4 1 = 3)
    (hk : (Config.certKey (l.drop 192)).toNat = fieldLE l 6 2) (hs : (l.drop 8).take 16 = serialBytes) (hn : s.firm.nonces = [(3, s.fclk, (l.drop 0x18).take 32)])
    (hc : Config.rootSigned s.keep.rootKey (l.drop 192) = true) (he : s.keep.epoch = 0) (hg : Config.sigBy (l.drop 192) (sha384 (l.take 0x60)) ((l.drop 0x60).take 96) = true) :
    s.tokenHolds 3 l = true := by
  have f : 0 < 60 * fclkPerSecond := by decide
  simp [State.tokenHolds, hr, hk, hs, hn, State.certOk, h3, State.rootCertOk, hc, he, hg, f]
theorem met_SessionsOpenAndEndAndTheHostReads_close : ∀ op ∈ [5, 1, 2], let s := sMail State.reset 2 2 op []
    serves s op .any = true ∧ s.fw ≠ 6 ∧ (s.session 3).isSome = true := by decide +kernel
theorem met_SessionsOpenAndEndAndTheHostReads_expiry : let s := { sMail State.reset 2 2 0 [] with tick := 2 ^ 50 }
    s.canonical = true ∧ s.mainClk = true ∧ s.session 3 = some ⟨2, 7, [], 1000, 0, 0⟩ ∧ 0 + 1000 * 1000000000 ≤ s.fclk ∧ s.lockedOut 3 = false ∧ s.evr.buffer.length < 4096 := by decide +kernel
theorem met_SessionsOpenAndEndAndTheHostReads_rom : let s := { (sMail State.reset 0 0 0 []).setMail 0 0 (toLE 2 1) with start := Startup.reset, firm := { ((sMail State.reset 0 0 0 []).setMail 0 0 (toLE 2 1)).firm with bells := [0] } }
    s.canonical = true ∧ s.mainClk = true ∧ s.start.running = false ∧ 0 ∈ s.firm.bells ∧ s.opcode 0 = 1 := by decide +kernel
theorem met_SessionsOpenAndEndAndTheHostReads_registers : ∀ x ∈ [0x300000000000, 0x10], let s := sMail State.reset 1 2 0x10 (toLE 8 x)
    serves s 0x10 .read = true ∧ s.argLen 3 / 8 = 1 ∧ s.argLen 3 % 8 = 0 ∧ s.arg 3 0 8 = x ∧ decide (regionOf x = .regs) = decide (x ≠ 0x10) ∧
      blockAssigned (keyBlk (keyOfAddr 0x300006000000)) = false ∧ blockAssigned (keyBlk (keyOfAddr 0x300000000000)) = true ∧ (rowAt (keyOfAddr 0x300000000000)).isSome = true := by
  decide +kernel
theorem met_SessionsOpenAndEndAndTheHostReads_events : ∀ n ∈ [0, 1, 62, 63], let s := sMail State.reset 1 2 0x11 (toLE 4 0 ++ toLE 4 n)
    serves s 0x11 .read = true ∧ s.arg 3 4 4 = n := by decide +kernel
theorem met_SessionsOpenAndEndAndTheHostReads_snapshot : let s := sMail (State.reset.setRegBits Reg.SNP_CTRL 0 0 1) 1 2 0x12 []
    serves s 0x12 .read = true ∧ s.fwIn [1, 2, 3, 4] = true ∧ bit (s.reg Reg.SNP_CTRL) 0 = true ∧ s.now.snap ≠ some s.fclk ∧
      serves { s with now := { s.now with snap := some s.fclk } } 0x12 .read = true ∧ serves (s.setRegBits Reg.SNP_CTRL 0 0 0) 0x12 .read = true ∧
      bit ((s.setRegBits Reg.SNP_CTRL 0 0 0).reg Reg.SNP_CTRL) 0 = false := by decide +kernel
theorem met_SessionsOpenAndEndAndTheHostReads_lockout : let s := sMail State.reset 2 2 5 []
    s.canonical = true ∧ s.mainClk = true ∧ mapWf (0 : Byte) s.firm.mail = true ∧ mapWf 0 s.firm.fails = true ∧ s.lockedOut 3 = false := by decide +kernel

theorem met_AsynchronousCommandsAreAcceptedAndCompleted_image : ∀ k ∈ [1023, 1024], let s := sMail State.reset 1 2 0x102 (toLE 4 1 ++ toLE 8 64 ++ toLE 4 k ++ toLE 4 1)
    serves s 0x102 .operator = true ∧ s.isOpen = true ∧ s.busy 0x102 0 = false ∧ s.arg 3 0 4 = 1 ∧ s.arg 3 4 8 = 64 ∧ s.arg 3 12 4 = k ∧ s.arg 3 16 4 = 1 := by decide +kernel
theorem met_AsynchronousCommandsAreAcceptedAndCompleted_unload : ∀ k ∈ [1023, 1024], ∀ q ∈ [0, 64], let s0 := sMail State.reset 1 2 0x103 (toLE 4 k)
    let s := { s0 with mig := { s0.mig with queue := List.replicate q [] } }
    serves s 0x103 .operator = true ∧ s.isOpen = true ∧ s.busy 0x103 0 = false ∧ s.arg 3 0 4 = k ∧ decide (s.mig.queue.length < 64) = decide (q = 0) := by decide +kernel
theorem met_AsynchronousCommandsAreAcceptedAndCompleted_migration : ∀ n ∈ [64, 63], let s := sMail State.reset 2 2 0x204 (List.replicate n 1)
    serves s 0x204 .installer = true ∧ s.isOpen = true ∧ s.busy 0x204 0 = false ∧ decide (64 ≤ s.argLen 3) = decide (n = 64) := by decide +kernel
theorem met_AsynchronousCommandsAreAcceptedAndCompleted_dma : ∀ e ∈ [(1, 0x200102000000), (1, 0x10), (2, 0x200102000000)],
    let s := sMail (tState 0 0) 1 2 0x104 (toLE 4 e.1 ++ toLE 4 0 ++ toLE 8 0 ++ toLE 8 e.2 ++ toLE 4 16)
    serves s 0x104 .operator = true ∧ s.isOpen = true ∧ s.arg 3 0 4 = e.1 ∧ s.arg 3 4 4 = 0 ∧ s.arg 3 24 4 = 16 ∧
      (e.1 = 1 → s.admits .hostDma (some (s.arg 3 4 4)) .r (s.arg 3 16 8) (s.arg 3 24 4) = decide (e.2 ≠ 0x10)) := by decide +kernel
/-- The calibration table of the fusion unit is the installer's. -/
theorem met_AsynchronousCommandsAreAcceptedAndCompleted_calibration : ∀ role ∈ [1, 2],
    let s := sMail ((tState 0 0).setReg Reg.FUS_CAL_BASE 0x2000000) role 2 0x104 (toLE 4 0 ++ toLE 4 0 ++ toLE 8 0 ++ toLE 8 0x200102000000 ++ toLE 4 16)
    serves s 0x104 .operator = true ∧ s.isOpen = true ∧ s.arg 3 0 4 = 0 ∧ s.inCalTable (s.arg 3 16 8) (s.arg 3 24 4) = true ∧
      holds (s.roleOf 3) s.keep.lifecycle .installer = decide (role = 2) := by decide +kernel
theorem met_AsynchronousCommandsAreAcceptedAndCompleted_busy : let s0 := sMail State.reset 2 2 0x202 (toLE 8 0 ++ toLE 4 4096)
    let s := { s0 with firm := { s0.firm with jobs := [⟨4, 0x202, 9, 2, 0, [0], [], none, none⟩] } }
    serves s 0x202 .installer = true ∧ s.isOpen = true ∧ s.busy 0x202 0 = true := by decide +kernel
theorem met_AsynchronousCommandsAreAcceptedAndCompleted_table : ∀ b ∈ [0, 1], let s := (sMail State.reset 2 2 0x202 (toLE 8 0 ++ toLE 4 4096)).setRegBits Reg.FRT_STATUS 5 5 b
    serves s 0x202 .installer = true ∧ s.isOpen = true ∧ s.busy 0x202 0 = false ∧ s.switchPending = decide (b = 1) ∧ s.arg 3 8 4 = 4096 := by decide +kernel
/-- Memory that nothing has written holds no image slot. -/
theorem no_images {s : State} (h : s.mem = []) (ns lba n : Nat) : s.blocksMapped ns lba n = false := by
  have e : ∀ k, imgValid (s.imgEntry k) = false := by
    intro k
    have z : ∀ a, s.bytes a 32 = List.replicate 32 0 := by intro a; rw [State.bytes, h]; rfl
    rw [State.imgEntry, z]
    decide
  simp [State.blocksMapped, e]
theorem met_AsynchronousCommandsAreAcceptedAndCompleted_store : ∀ op ∈ [0x205, 0x206], ∀ n ∈ [0, 4096], let s := sMail State.reset 2 2 op (toLE 4 1 ++ toLE 8 100 ++ toLE 4 n)
    serves s op .installer = true ∧ s.isOpen = true ∧ s.busy op 0 = false ∧ s.arg 3 0 4 = 1 ∧ s.arg 3 4 8 = 100 ∧ s.arg 3 12 4 = n ∧ s.mem = [] := by decide +kernel
/-- An image of one page at LBA 100 of namespace 1 stands in the table. -/
theorem met_AsynchronousCommandsAreAcceptedAndCompleted_mapped : ∀ op ∈ [0x205, 0x206], let s0 := sMail State.reset 2 2 op (toLE 4 1 ++ toLE 8 100 ++ toLE 4 8)
    let s := { s0 with mem := memStore [] (s0.slotAddr 0 + 0x10) (toLE 8 100 ++ toLE 4 1 ++ [1, 0, 1]) }
    serves s op .installer = true ∧ s.isOpen = true ∧ s.busy op 0 = false ∧ s.arg 3 0 4 = 1 ∧ s.arg 3 4 8 = 100 ∧ s.arg 3 12 4 = 8 ∧ (imgValid (s.imgEntry 0) && imgNsid (s.imgEntry 0) == 1 &&
      decide (100 < imgLba (s.imgEntry 0) + 512 * imgPages (s.imgEntry 0)) && decide (imgLba (s.imgEntry 0) < 100 + 8)) = true := by decide +kernel
theorem met_AsynchronousCommandsAreAcceptedAndCompleted_stage : let s := sMail State.reset 3 2 0x300 (toLE 8 0 ++ toLE 4 256)
    serves s 0x300 .maker = true ∧ s.fwIn [2, 4] = true ∧ s.busy 0x300 0 = false ∧ s.arg 3 8 4 = 256 := by decide +kernel
theorem met_AsynchronousCommandsAreAcceptedAndCompleted_fuses : ∀ e ∈ [(0, 0, 0), (1, 0, 0), (2, 64, 0), (2, 65, 0), (3, 1, 2), (4, 1, 1), (4, 1, 2)],
    let s0 := sMail State.reset 3 2 0x302 (toLE 4 e.1 ++ toLE 4 e.2.1 ++ List.replicate 44 0)
    let s := { s0 with keep := { s0.keep with lifecycle := e.2.2 } }
    serves s 0x302 .maker = true ∧ s.fwIn [2] = true ∧ s.arg 3 0 4 = e.1 ∧ s.arg 3 4 4 = e.2.1 ∧ s.keep.lifecycle = e.2.2 ∧ s.argLen 3 = 52 ∧ s.keep.rootKey = [] := by decide +kernel
/-- Manifest: one bucket b = 7 of Vat 0, cell 1, lists at 0x10000 and 0x20000, 2 sequences at most; 1 page, not pinned. -/
def tManifest (pin : Nat) : List Byte :=
  toLE 4 0x494D4731 ++ List.replicate 8 0 ++ toLE 4 1 ++ List.replicate 24 0 ++ [0, BitVec.ofNat 8 pin, 1, 2, 0, 0, 0, 0] ++ [7, 0, 1, 0] ++ toLE 4 0x10000 ++ toLE 4 0x20000 ++ List.replicate 240 0 ++
    [0, 0, 0, 0] ++ sha384 (sized [] 4) ++ List.replicate 4000 0
def tEntry (len : Nat) : List Byte := [1, 0, 1, 0] ++ toLE 4 9 ++ toLE 3 len ++ [0, 0, 0, 0, 0]
theorem met_AsynchronousCommandsAreAcceptedAndCompleted_batch : ∀ len ∈ [100, 1000], let s0 := sMail State.reset 1 3 0x105 (toLE 4 5 ++ List.replicate 12 0 ++ tEntry len)
    let s := { s0 with firm := { s0.firm with images := [(5, tManifest 0)] } }
    serves s 0x105 .operator = true ∧ s.fwIn [3] = true ∧ s.arg 3 0 4 = 5 ∧ s.firm.images.find? (fun x => x.1 == 5) = some (5, tManifest 0) ∧ s0.firm.images.find? (fun x => x.1 == 5) = none ∧
      s.busy 0x105 5 = false ∧ (s.argLen 3 - 16) / 16 = 1 ∧ batchEntry (s.args 3) 0 = tEntry len ∧ batchOk (tManifest 0) (tEntry len) = decide (len = 100) := by decide +kernel

/-- A job in mailbox 3. -/
def sJob (s : State) (op stage : Nat) (args : List Nat) (data : List Byte) (ends : Option (Nat × Nat × Nat)) (fw : Nat) : State :=
  let t := s.setRegBits Reg.MBX_STATE 7 0 fw
  { t with start := { t.start with step := 8, running := true }, firm := { t.firm with jobs := [⟨3, op, 9, 2, stage, args, data, none, ends⟩] } }
theorem met_AsynchronousCommandsAreAcceptedAndCompleted_ends : ∀ e ∈ [(0x100, 0), (0x200, 2), (0x106, 9)], ∀ fw ∈ [2, 7], let s0 := sJob State.reset e.1 0 [4] [] (some (e.2, 0, 0)) fw
    let s := { s0 with firm := { s0.firm with works := [(4, ⟨[], [], 2, false⟩)] } }
    s.canonical = true ∧ s.mainClk = true ∧ mapWf (0 : Byte) s.firm.mail = true ∧ (s.firm.jobs.find? (fun x => x.mbox == 3)).isSome = true ∧ s.fw = fw ∧ s.workload 4 = some ⟨[], [], 2, false⟩ := by decide +kernel
theorem met_AsynchronousCommandsAreAcceptedAndCompleted_manifest : ∀ b ∈ [0, 1], let s := (sJob State.reset 0x102 0 [5, 1, 64, 0, 0] [] none 2).setRegBits Reg.MIG_AQ_STATUS 9 9 b
    s.canonical = true ∧ s.mainClk = true ∧ s.fw ≠ 7 ∧ s.nvmeReady = decide (b = 1) ∧ s.manifestOk (sized [] 4096) = false := by decide +kernel
/-- A manifest that an installer's key signs is accepted; which keys and signatures do so are open constants. -/
theorem met_AsynchronousCommandsAreAcceptedAndCompleted_signed (s : State)
    (h : s.installerSigned (fieldLE (sized (tManifest 0) 4096) 0x2C 2) ((sized (tManifest 0) 4096).take 0x1A0) (((sized (tManifest 0) 4096).drop 0x1A0).take 96) = true) :
    s.manifestOk (sized (tManifest 0) 4096) = true := by
  have e : ∀ l, l = sized (tManifest 0) 4096 → (fieldLE l 0 4 == 0x494D4731 && !outside 1 524288 (mfPages l) && decide (mfHome l ≤ 3) && decide (fieldLE l 0x29 1 ≤ 1) && decide (mfBuckets l ≤ 16) &&
      (mfBuckets l == 0 || !outside 1 250 (mfMax l)) && fieldLE l 0x2E 2 == 0 && fieldLE l 0x160 64 == 0 &&
      (List.range (mfBuckets l)).all (fun k => !outside 7 24 (mfB l k) && decide (fieldLE l (0x31 + 16 * k) 1 ≤ 7))) = true := by
    intro l hl
    subst hl
    decide +kernel
  simp only [State.manifestOk]
  rw [h, Bool.and_true]
  exact e _ rfl
theorem met_AsynchronousCommandsAreAcceptedAndCompleted_crcs : ∀ d ∈ [[], [1]], let s := (sJob State.reset 0x102 1 [5, 1, 64, 0, 0] (tManifest 0) none 2).setRegBits Reg.MIG_AQ_STATUS 9 9 1
    s.canonical = true ∧ s.mainClk = true ∧ s.nvmeReady = true ∧ s.firmMoves s.loadArea 1 false = true ∧ mfPages (tManifest 0) = 1 ∧ s.mig.queue.length < 64 ∧
      decide (sha384 (sized d 4) = ((tManifest 0).drop 0x130).take 48) = decide (d = []) := by decide +kernel
theorem met_AsynchronousCommandsAreAcceptedAndCompleted_stages : ∀ n ∈ [2, 3, 4, 5, 6], ∀ st ∈ [0, 3], ∀ pin ∈ [0, 1],
    let s := { sJob State.reset 0x102 n [5, 1, 64, 0, 0] (tManifest pin) none 2 with logs := [(Reg.MIG_CPL, [9 * 2 ^ 32 + st])] }
    s.canonical = true ∧ s.mainClk = true ∧ (s.takeCpl 9).map (fun x => x.1) = some (9 * 2 ^ 32 + st) ∧ bits (9 * 2 ^ 32 + st) 7 0 = st ∧ s.mig.queue.length < 64 ∧ mfPin (tManifest pin) = decide (pin = 1) := by decide +kernel
theorem met_AsynchronousCommandsAreAcceptedAndCompleted_moves : ∀ w ∈ [0, 1], ∀ bad ∈ [[], [0x200102000000]], let s := { sJob (tState 0 15) 0x104 0 [w, 0, 77, 0x200102000000, 16] [] none 2 with poison := bad }
    s.canonical = true ∧ s.mainClk = true ∧ s.owns .hostDma (pathRows .hostDma (extentRegion 0x200102000000 16) (w == 1)) = true ∧ s.poisoned 0x200102000000 16 = decide (bad ≠ []) := by decide +kernel
theorem met_AsynchronousCommandsAreAcceptedAndCompleted_load : ∀ st ∈ [0, 1, 4], let s := (sJob State.reset 0x202 1 [0, 0, 256] [] none 2).setRegBits Reg.FRT_STATUS 15 8 st
    s.canonical = true ∧ s.mainClk = true ∧ s.frt.load = none ∧ s.regBits Reg.FRT_STATUS 15 8 = st ∧ s.firmMoves s.loadArea 256 false = true := by decide +kernel
theorem met_AsynchronousCommandsAreAcceptedAndCompleted_invalid : let s := sJob State.reset 0x202 0 [0, 0, 256] [] none 2
    let put := s.store s.loadArea (sized [] 256)
    put.poisoned s.loadArea 256 = false ∧ (put.validate (put.bytes s.loadArea 256)).isSome = true := by decide +kernel
theorem met_AsynchronousCommandsAreAcceptedAndCompleted_blocks : ∀ op ∈ [0x205, 0x206], let s := (sJob State.reset op 0 [0, 1, 100, 2, 0] [] none 2).setRegBits Reg.MIG_AQ_STATUS 9 9 1
    s.canonical = true ∧ s.mainClk = true ∧ s.noWrites = false ∧ s.nvmeReady = true ∧ s.mem = [] ∧ s.frt.resets = [] := by decide +kernel
theorem met_AsynchronousCommandsAreAcceptedAndCompleted_keep : ∀ op ∈ [0x300, 0x302, 0x20A], ∀ key ∈ [[], [1]], let s0 := sJob State.reset op 0 [0, 1, 300] (List.replicate 48 0) none 2
    let s := { s0 with keep := { s0.keep with rootKey := key } }
    s.canonical = true ∧ s.mainClk = true ∧ s.fw ≠ 7 ∧ s.imageRefused (sized [] 300) = 1 ∧ s.keep.rootKey = key ∧ ∀ r ∈ s.frt.resets, r.mbox ≠ some 3 := by decide +kernel
theorem met_AsynchronousCommandsAreAcceptedAndCompleted_handback : ∀ auth ∈ [Auth.main, .handbackPending], let s := { sJob State.reset 0x106 0 [] [] none 2 with auth := auth, fbx := { Fbx.reset with hbAcc := true } }
    s.canonical = true ∧ s.mainClk = true ∧ s.auth = auth ∧ s.fbx.hbAcc = true := by decide +kernel
theorem met_AsynchronousCommandsAreAcceptedAndCompleted_lists : ∀ i ∈ [0, 1], let s0 := sJob State.reset 0x105 i [5] (tEntry 100) none 3
    let s := { s0 with firm := { s0.firm with images := [(5, tManifest 0)] } }
    s.canonical = true ∧ s.mainClk = true ∧ s.firm.images.find? (fun y => y.1 == 5) = some (5, tManifest 0) ∧ mfBuckets (tManifest 0) = 1 ∧ s.listFree 0 (s.batch (16 * 5 + i)).since = true ∧ s.cellFree 0 (mfCell (tManifest 0) i) 5 = true ∧
      s.firmMoves (pondAddr 0 (mfList (tManifest 0) 0 1)) 1 false = true := by decide +kernel

/-- A group of one entry: a write of LOOP_PERIOD. -/
def tGrp (n point : Nat) (e : List Byte) : List Byte := [BitVec.ofNat 8 n, BitVec.ofNat 8 point, 0, 0] ++ toLE 4 5 ++ toLE 8 0 ++ List.replicate 16 0 ++ e
def tWrite (kind a v : Nat) : List Byte := [BitVec.ofNat 8 kind, 0] ++ toLE 6 a ++ toLE 8 v ++ toLE 8 0
theorem met_CommandsOnGroupsKeysAndAuthorityAct_submit : ∀ e ∈ [(0, 0, 1, 0x300000000000 + Reg.LOOP_PERIOD), (1, 0, 9, 0x300000000000 + Reg.LOOP_PERIOD), (1, 0, 2, 0x300000000000 + Reg.CG_STAGE_HDR),
      (1, 1, 1, 0x300000000000 + Reg.LOOP_PERIOD), (1, 0, 1, 0x300000000000 + Reg.LOOP_PERIOD)], let l := tGrp e.1 e.2.1 (tWrite e.2.2.1 e.2.2.2 1600)
    let s := sMail State.reset 2 2 0x200 l
    serves s 0x200 .installer = true ∧ s.isOpen = true ∧ s.args 3 = l ∧ groupShape l = decide (e.1 = 1) ∧ entryBadArg l 0 = decide (e.2.2.1 = 9) ∧
      s.entryRoleBad 2 (groupEntry l 0) = decide (e.2.2.1 = 2) ∧ s.pointBad l = decide (e.2.1 = 1) ∧ s.slotFree 0 = true ∧
      (s.submit l 2).isRight = decide (e = (1, 0, 1, 0x300000000000 + Reg.LOOP_PERIOD)) := by decide +kernel
theorem met_CommandsOnGroupsKeysAndAuthorityAct_full : let s := (List.range 8).foldl (fun (u : State) k => u.setRegBits (Reg.CG_STATUS k) 2 0 1) State.reset
    ∀ k, k < 8 → s.slotFree k = false := by decide +kernel
theorem met_CommandsOnGroupsKeysAndAuthorityAct_cancel : ∀ commit ∈ [none, some 7], let s0 := sMail State.reset 2 2 0x201 (toLE 4 5)
    let g : CGroup := ⟨3, 0, 5, 2, 0, 0, 0, [], 0, commit⟩
    let s := { s0 with cg := { s0.cg with pending := [g] } }
    serves s 0x201 .installer = true ∧ s.isOpen = true ∧ s.cg.pending.find? (fun g => g.gtag == s.arg 3 0 4 && g.commit == none) = if commit = none then some g else none := by decide +kernel
theorem met_CommandsOnGroupsKeysAndAuthorityAct_define : ∀ e ∈ [(64, false, 1), (3, true, 1), (3, false, 0), (3, false, 1)], let g := tGrp e.2.2 0 (tWrite 1 (0x300000000000 + Reg.LOOP_PERIOD) 1600)
    let s0 := sMail State.reset 2 2 0x203 (toLE 4 e.1 ++ g ++ g)
    let s := { s0 with firm := { s0.firm with works := [(3, ⟨g, g, 2, e.2.1⟩)] } }
    serves s 0x203 .installer = true ∧ s.isOpen = true ∧ fieldLE (s.args 3) 0 4 = e.1 ∧ s.workload 3 = some ⟨g, g, 2, e.2.1⟩ ∧ groupShape ((s.args 3).drop 4) = decide (e.2.2 = 1) ∧
      (e.2.2 = 1 → groupShape (((s.args 3).drop 4).drop (groupLen ((s.args 3).drop 4))) = true) := by decide +kernel
theorem met_CommandsOnGroupsKeysAndAuthorityAct_workload : ∀ op ∈ [0x100, 0x101], ∀ w ∈ [3, 4], let g := tGrp 1 0 (tWrite 1 (0x300000000000 + Reg.LOOP_PERIOD) 1600)
    let s0 := sMail State.reset 1 3 op (toLE 4 w)
    let s := { s0 with firm := { s0.firm with works := [(3, ⟨g, g, 2, false⟩)] } }
    serves s op .operator = true ∧ s.fwIn [3] = true ∧ s.arg 3 0 4 = w ∧ s.workload w = (if w = 3 then some ⟨g, g, 2, false⟩ else none) ∧ (s.submit g 2).isRight = true := by decide +kernel
theorem met_CommandsOnGroupsKeysAndAuthorityAct_handback : ∀ safe ∈ [true, false], let s := { sMail State.reset 1 2 0x106 [] with safe := safe }
    serves s 0x106 .operator = true ∧ s.auth = .fallback ∧ s.fwIn [2, 3, 4] = true ∧ s.reg Reg.SAF_DOUBT < 2 ^ 32 ∧ s.setNow Reg.SAF_DOUBT = 0 ∧ s.safe = safe := by decide +kernel
theorem met_CommandsOnGroupsKeysAndAuthorityAct_authority : ∀ auth ∈ [Auth.main, .handbackPending], let s := { sMail State.reset 1 2 0x106 [] with auth := auth }
    serves s 0x106 .operator = true ∧ s.fwIn [2, 3, 4] = true ∧ s.auth ≠ .fallback := by decide +kernel
theorem met_CommandsOnGroupsKeysAndAuthorityAct_fallback : let s := sMail State.reset 2 2 0x207 []
    serves s 0x207 .installer = true ∧ s.isOpen = true ∧ s.auth ≠ .main := by decide +kernel
theorem met_CommandsOnGroupsKeysAndAuthorityAct_relay : ∀ en ∈ [1, 2], let s := { sMail State.reset 2 2 0x207 (toLE 8 0x200102000000 ++ toLE 8 0x200103000000 ++ toLE 8 0x200003000008 ++ toLE 4 en) with auth := .main }
    serves s 0x207 .installer = true ∧ s.isOpen = true ∧ s.auth = .main ∧ s.arg 3 24 4 = en ∧ hubBuffer (s.arg 3 0 8) = true ∧ hubBuffer (s.arg 3 8 8) = true ∧ cellAligned (s.arg 3 16 8) = true := by decide +kernel
/-- A maker in MANUFACTURE has the rights of both roles: whatever role a certificate names, the command is served. -/
theorem met_CommandsOnGroupsKeysAndAuthorityAct_keys : ∀ op ∈ [0x208, 0x209], ∀ need ∈ [Need.maker, .installer], let s := sMail State.reset 3 2 op (toLE 4 7)
    serves s op need = true ∧ s.fwIn [2, 4] = true ∧ s.keep.keys = [] ∧ s.args 3 = toLE 4 7 := by decide +kernel
theorem met_CommandsOnGroupsKeysAndAuthorityAct_activate : let s0 := sMail State.reset 3 2 0x301 []
    let s := { s0 with keep := { s0.keep with staged := true } }
    serves s 0x301 .maker = true ∧ s.fwIn [2, 4] = true ∧ s.keep.staged = true := by decide +kernel
theorem met_CommandsOnGroupsKeysAndAuthorityAct_lifecycle : ∀ x ∈ [1, 2], let s := sMail State.reset 3 2 0x303 (toLE 4 x)
    serves s 0x303 .maker = true ∧ s.fwIn [2] = true ∧ s.arg 3 0 4 = x ∧ s.keep.lifecycle = 0 ∧ s.keep.rootKey = [] := by decide +kernel
/-- With an installer's key in the store, where its certificate verifies. -/
theorem met_CommandsOnGroupsKeysAndAuthorityAct_ready (c k : List Byte) (hk : k ≠ []) (hr : Config.certRole c = 2) (hs : Config.rootSigned k c = true) :
    let s := { State.reset with keep := { Keep.reset with rootKey := k, keys := [c] } }
    s.keep.rootKey ≠ [] ∧ s.installers ≠ [] :=
  ⟨hk, by simp [State.installers, State.rootCertOk, hr, hs, Keep.reset]⟩
theorem met_CommandsOnGroupsKeysAndAuthorityAct_error : let s := sMail State.reset 0 2 0 []
    s.canonical = true ∧ s.mainClk = true ∧ s.start.running = true ∧ s.fw ≠ 1 ∧ s.fw ≠ 7 ∧ s.evr.buffer.length < 4096 := by decide +kernel


/-! ### Every command and every step -/

def sWaiting (c : Instr) : State := { State.reset with pending := [c] }
theorem met_StepRunsTheFrontCommand : (sWaiting .handbackComplete).pending = .handbackComplete :: [] := rfl
theorem met_AnEmptyQueueLetsAPeriodPass : State.reset.canonical = true ∧ State.reset.pending = [] ∧ ({ State.reset with mainClk := false, rphase := 19 } : State).canonical = true := by
  decide +kernel
theorem met_EveryStepKeepsCanonicalForm : (sWaiting .handbackComplete).canonical = true ∧ ∃ t, Sys2Proof.Machine.step (sWaiting .handbackComplete) = .next t :=
  ⟨by decide +kernel, handbackCompleteEffect State.reset, rfl⟩
theorem met_FusesOnlyGainBits : (sWaiting .rindXtalStop).canonical = true ∧ ∃ t, Sys2Proof.Machine.step (sWaiting .rindXtalStop) = .next t :=
  ⟨by decide +kernel, rindXtalStopEffect State.reset, rfl⟩
theorem met_SafeAndMainChangeOnlyAsStated : let s := { sWaiting (.rindPowerOn []) with safe := true }
    s.canonical = true ∧ s.safe = true ∧ s.auth ≠ .main ∧ ∃ t, Sys2Proof.Machine.step s = .next t :=
  ⟨by decide +kernel, by decide +kernel, by decide +kernel, rindPowerOnEffect [] { State.reset with safe := true }, rfl⟩
/-- Log entry 2: an idle step is one period, in which the phase of RCLK moves. -/
theorem test_idle_step : ∃ t, Sys2Proof.Machine.step { State.reset with mainClk := false } = .next t ∧ t.rphase = 1 := ⟨_, rfl, rfl⟩
theorem met_EveryCommandAnswersWithinItsParts : State.reset.canonical = true := by decide +kernel

end Sys2Proof.Machine
end

section
/-! A slot operation whose guard does not hold (03 R86). Every slot operation goes through State.issue, which leaves the state it began in or the
ILLEGAL fault of that state; what a command does beside it (the trace of a taken branch, the counter of free values) does not act then. -/

namespace Sys2Proof.Machine

/-! ### The Vats through records, trace packets, snapshots and doubts of the hub -/

theorem State.hostEv_vats (s : State) (m : Nat) : (s.hostEv m).vats = s.vats := by
  unfold State.hostEv
  split <;> rfl

theorem State.syncState_vats (s : State) : s.syncState.vats = s.vats := by
  unfold State.syncState
  split
  · rfl
  · rw [State.hostEv_vats]
    exact State.setReg_vats ..

theorem State.emit_vats (s : State) (src ev a b : Nat) : (s.emit src ev a b).vats = s.vats := by
  unfold State.emit
  simp only [apply_ite State.vats, State.bump_vats, ite_self]

theorem State.post_vats (s : State) (kind code role mbox frame stw detail : Nat) :
    (s.post kind code role mbox frame stw detail).vats = s.vats := by
  unfold State.post
  simp only [apply_ite State.vats, State.bump_vats, State.hostEv_vats, ite_self]

theorem State.setRegs_vats (l : List (Nat × Nat)) (s : State) : (l.foldl (fun t e => t.setReg e.1 e.2) s).vats = s.vats := by
  induction l generalizing s with
  | nil => rfl
  | cons e l ih => rw [List.foldl_cons, ih, State.setReg_vats]

theorem State.latchSnapshots_vats (s : State) : s.latchSnapshots.vats = s.vats := State.setRegs_vats _ s

theorem State.snapshotFire_vats (s : State) (sources : Nat) : (s.snapshotFire sources).vats = s.vats := by
  unfold State.snapshotFire
  split
  · rfl
  · split
    · exact State.setReg_vats ..
    · split
      · lift_lets
        intro s1 s2 s3 s4 s5
        have h1 : s1.vats = s.vats := s.latchSnapshots_vats
        clear_value s1
        have h2 : s2.vats = s1.vats := State.setReg_vats ..
        clear_value s2
        have h3 : s3.vats = s2.vats := State.setReg_vats ..
        clear_value s3
        have h4 : s4.vats = s3.vats := State.setReg_vats ..
        clear_value s4
        have h5 : s5.vats = s4.vats := State.setReg_vats ..
        clear_value s5
        exact h5.trans (h4.trans (h3.trans (h2.trans h1)))
      · exact State.bump_vats ..

/-- A doubt of the hub leaves the Vats as they are. -/
theorem State.raise_vats {code : Nat} (h : onRind code = false) (s : State) (d : DoubtInfo) : (s.raise code d).vats = s.vats := by
  unfold State.raise
  simp only [h, Bool.false_eq_true, if_false, apply_ite State.vats, State.syncState_vats, State.snapshotFire_vats, State.emit_vats, State.postHd,
    State.post_vats, State.hwSetBit_vats, State.setReg_vats, State.bump_vats, ite_self]

section Vats

/-! ### A fault leaves no branch in progress (03 R111) -/

/-- No taken branch of Vat v waits for its delay long words. -/
def State.NoBranch (s : State) (v : Nat) : Prop := (s.vat v).core.branch = none

variable {s t : State} {v slot : Nat}

theorem State.NoBranch.of_vats (h : s.NoBranch v) (e : t.vats = s.vats) : t.NoBranch v := by
  unfold State.NoBranch State.vat
  rw [e]
  exact h

/-- A number that names no Vat reads as the Vat after reset, which has no branch. -/
theorem State.modVat_noBranch {f : Vat → Vat} (h : (f (s.vat v)).core.branch = none) : (s.modVat v f).NoBranch v := by
  unfold State.NoBranch
  rcases Nat.lt_or_ge v s.vats.length with hv | hv
  · rw [State.modVat_same _ _ _ hv]
    exact h
  · have e : (s.modVat v f).vat v = Vat.reset := by
      simp [State.vat, List.getD, listModify_length, hv]
    rw [e]
    rfl

theorem State.stopIssue_noBranch (s : State) (v : Nat) : (s.stopIssue v).NoBranch v := by
  unfold State.stopIssue State.walkAbandon
  refine State.modVat_noBranch (State.NoBranch.of_vats ?_ (s := s.modVat v _) rfl)
  exact State.modVat_noBranch rfl

theorem State.noKernel_vats (s : State) (v : Nat) : (s.noKernel v).vats = s.vats := by
  unfold State.noKernel State.setVatState
  rw [State.setRegBits_vats, State.setRegBits_vats, State.setRegBits_vats]

theorem State.sliceDone_vats (s : State) (v sl : Nat) : (s.sliceDone v sl).vats = s.vats := by
  unfold State.sliceDone
  lift_lets
  intro d a b
  have ha : a.vats = s.vats := rfl
  clear_value a
  have hb : b.vats = a.vats := by
    unfold b State.showSlices
    rw [State.setReg_vats, State.setRegBits_vats]
  clear_value b
  split
  · rw [State.bumpSt, State.setReg_vats, hb, ha]
  · exact hb.trans ha

theorem State.statusWord_vats (s : State) (k code : Nat) : (s.statusWord k code).vats = s.vats := State.storeLE_vats ..

theorem State.pushLog_vats (s : State) (k n e : Nat) : (s.pushLog k n e).vats = s.vats := rfl

theorem State.modRun_vats (s : State) (v : Nat) (f : SlotRun → SlotRun) : (s.modRun v f).vats = s.vats := rfl

theorem State.lcMiss_noBranch (s : State) (v : Nat) : (s.lcMiss v).NoBranch v := by
  unfold State.lcMiss
  lift_lets
  intro k a b c
  have ha : a.NoBranch v := (s.stopIssue_noBranch v).of_vats (by
    unfold a
    rw [State.bump_vats, State.statusWord_vats])
  clear_value a
  have hb : b.NoBranch v := ha.of_vats (State.pushLog_vats ..)
  clear_value b
  have hm := State.modVat_noBranch (f := fun x => { x with running := false }) hb
  have hc : c.NoBranch v := (hm.of_vats (State.noKernel_vats _ v)).of_vats (State.modRun_vats ..)
  clear_value c
  refine hc.of_vats ((State.raise_vats rfl ..).trans ((State.emit_vats ..).trans ?_))
  exact State.setRegBits_vats ..

theorem State.faultEnds_noBranch (s : State) (v : Nat) : (s.faultEnds v).NoBranch v := by
  have ha := State.modVat_noBranch (f := fun x => { x with faulted := true }) (s.stopIssue_noBranch v)
  unfold State.faultEnds
  dsimp only
  generalize (s.stopIssue v).modVat v (fun x => { x with faulted := true }) = a at ha ⊢
  split
  case h_1 sl _ =>
    refine State.modVat_noBranch (ha.of_vats ?_)
    exact (State.sliceDone_vats ..).trans (State.raise_vats rfl (a.endSlice v) _)
  case h_2 =>
    split
    · exact State.modVat_noBranch (ha.of_vats (a.noKernel_vats v))
    · split
      · exact a.lcMiss_noBranch v
      · split
        · exact ha.of_vats rfl
        · exact ha

theorem State.issueFault_noBranch (s : State) (v slot code : Nat) : (s.issueFault v slot code).NoBranch v :=
  State.faultEnds_noBranch ..

/-! ### What a command does beside the issue -/

theorem Vat.openWord_branch (x : Vat) : x.openWord.core.branch = x.core.branch := by
  unfold Vat.openWord
  split <;> rfl

/-- Beginning to issue leaves the branch in progress. -/
theorem State.begun_branch (h : v < s.vats.length) : ((s.begun v slot).vat v).core.branch = (s.vat v).core.branch := by
  change (s.issuer v slot).core.branch = _
  rw [State.issuer_eq h]
  exact Vat.openWord_branch _

/-- Where no branch is in progress none is traced. -/
theorem State.traceBranch_of_noBranch (h : t.NoBranch v) : t.traceBranch v s = t := by
  unfold State.traceBranch
  rw [show (t.vat v).core.branch = none from h]

/-- A branch in progress before is not traced again. -/
theorem State.traceBranch_of_same (h : (t.vat v).core.branch = (s.vat v).core.branch) : t.traceBranch v s = t := by
  unfold State.traceBranch
  rw [h]
  cases (s.vat v).core.branch <;> rfl

/-- The same state but for the model's own counter of free values (log entry 4). -/
def State.SameButFree (t u : State) : Prop := ∃ n, t = { u with free := n }

theorem State.SameButFree.refl (s : State) : s.SameButFree s := ⟨s.free, rfl⟩

theorem State.useFrees_sameButFree (s : State) (n : Nat) : (s.useFrees n).SameButFree s := ⟨s.free + n, rfl⟩

/-! ### An operation whose guard does not hold -/

/-- Only the test for ILLEGAL comes before the guard (03 R85, R86). -/
theorem State.issue_guard_off {w : BitVec 56} {illegal : VatCore → Bool} {reads : VatCore → List (Nat × Nat)} {act : State → Vat → Sum Nat VatCore}
    (h : s.SlotOpen v slot) (hg : guardHolds (s.vat v).core.preds (oPred w) (oNeg w) = false) :
    s.issue v slot w illegal reads act = s.begun v slot ∨
      s.issue v slot w illegal reads act = (s.begun v slot).issueFault v slot fIllegal := by
  cases hi : illegal (s.issuer v slot).core with
  | false => exact .inl (State.issue_withheld h hi hg)
  | true =>
    right
    rw [State.issue_open h]
    simp only [hi, if_true]

/-- With its guard off the slot operation c leaves the state it began in, or the ILLEGAL fault of that state. -/
def SkipsWithGuardOff (c : Instr) : Prop :=
  ∀ (v : VatNo) (slot : Nat) (w : BitVec 56) (s : State), slotOp c = some (v, slot, w) → s.SlotOpen v slot →
    guardHolds (s.vat v).core.preds (oPred w) (oNeg w) = false →
    Answers c s (fun t => t.SameButFree (s.begun v slot) ∨ t.SameButFree ((s.begun v slot).issueFault v slot fIllegal))

end Vats

section Commands

/-! ### The kinds of slot operations -/

variable {c : Instr} {v : VatNo} {slot : Nat} {w : BitVec 56} {illegal : VatCore → Bool} {reads : State → VatCore → List (Nat × Nat)}
  {act : State → Vat → Sum Nat VatCore}

/-- A command that issues and then applies post skips with its guard off where post leaves both outcomes of such an issue. -/
theorem skips_of_issue_then {post : State → State → State} (hc : slotOp c = some (v, slot, w))
    (he : ∀ s, exec c s = .next (s.onMain fun u => post u (u.issue v slot w illegal (reads u) act)))
    (hb : ∀ s : State, s.SlotOpen v slot → (post s (s.begun v slot)).SameButFree (s.begun v slot))
    (hf : ∀ s u : State, (post s (u.issueFault v slot fIllegal)).SameButFree (u.issueFault v slot fIllegal)) : SkipsWithGuardOff c := by
  intro v' slot' w' s h ho hg
  cases hc.symm.trans h
  refine Answers.of ((he s).trans (congrArg _ (if_pos ho.clock))) ?_
  dsimp only
  rcases State.issue_guard_off (illegal := illegal) (reads := reads s) (act := act) ho hg with e | e
  · rw [e]
    exact .inl (hb s ho)
  · rw [e]
    exact .inr (hf s _)

/-- A command that does nothing but issue. -/
theorem skips_of_issue (hc : slotOp c = some (v, slot, w))
    (he : ∀ s, exec c s = .next (s.onMain fun u => u.issue v slot w illegal (reads u) act)) : SkipsWithGuardOff c :=
  skips_of_issue_then (post := fun _ t => t) hc he (fun _ _ => .refl _) (fun _ _ => .refl _)

/-- A branch is traced only where it is taken. -/
theorem skips_of_branch (hc : slotOp c = some (v, slot, w))
    (he : ∀ s, exec c s = .next (s.onMain fun u => (u.issue v slot w illegal (reads u) act).traceBranch v u)) : SkipsWithGuardOff c :=
  skips_of_issue_then (post := fun u t => t.traceBranch v u) hc he
    (fun s ho => by
      rw [State.traceBranch_of_same (State.begun_branch (State.vat_of_canIssue ho.slot))]
      exact .refl _)
    (fun s u => by
      rw [State.traceBranch_of_noBranch (State.issueFault_noBranch ..)]
      exact .refl _)

/-- A TRD takes its free values whether it executes or not (log entry 4). -/
theorem skips_of_trd (v : VatNo) (tile : TileNo) (w : BitVec 56) (x : W64) : SkipsWithGuardOff (.opTrd v tile w x) := by
  have h : ∀ t : State, (if trdOpen w then t.useFrees 513 else t).SameButFree t := fun t => by
    split
    · exact t.useFrees_sameButFree 513
    · exact .refl t
  exact skips_of_issue_then (post := fun _ t => if trdOpen w then t.useFrees 513 else t) rfl (fun _ => rfl) (fun _ _ => h _) (fun _ _ => h _)

/-! The shared operations of slots 1, 2, 11 and 12 are issues. -/

theorem skips_of_scalar {alu lat : Nat} {x : W64} {f : W64 → W64 → W64} (hc : slotOp c = some (v, 1 + alu, w))
    (he : ∀ s, exec c s = .next (s.onMain fun u => u.scalar v alu w x lat f)) : SkipsWithGuardOff c :=
  skips_of_issue (reads := fun _ _ => []) hc he

theorem skips_of_compare {alu : Nat} {x : W64} {k : Cmp} (hc : slotOp c = some (v, 1 + alu, w))
    (he : ∀ s, exec c s = .next (s.onMain fun u => u.compare v alu w x k)) : SkipsWithGuardOff c :=
  skips_of_issue (reads := fun _ _ => []) hc he

theorem skips_of_predOp {alu : Nat} {f : Bool → Bool → Bool} (hc : slotOp c = some (v, 1 + alu, w))
    (he : ∀ s, exec c s = .next (s.onMain fun u => u.predOp v alu w f)) : SkipsWithGuardOff c :=
  skips_of_issue (reads := fun _ _ => []) hc he

theorem skips_of_lanes {lat subs : Nat} {f : List W32 → List W32 → List W32 → List W32} (hc : slotOp c = some (v, 11, w))
    (he : ∀ s, exec c s = .next (s.onMain fun u => u.lanes v w lat subs f)) : SkipsWithGuardOff c :=
  skips_of_issue (reads := fun _ _ => []) hc he

theorem skips_of_scnIssue {x : W64} {kind : ScnKind} {occ : Nat} {after : State → Vat → List Byte → VatCore → VatCore}
    (hc : slotOp c = some (v, 12, w)) (he : ∀ s, exec c s = .next (s.onMain fun u => u.scnIssue v w x kind occ after)) : SkipsWithGuardOff c :=
  skips_of_issue (reads := fun u c => if u.pondMay v (nOff c w x) 64 false then [(nOff c w x, 64)] else []) hc he

/-- A command that is no slot operation. -/
theorem skips_of_none (hc : slotOp c = none) : SkipsWithGuardOff c := by
  intro _ _ _ _ h
  cases hc.symm.trans h

/-- VSMX MASK, EXPD and NORM are slot operations only with a SUB of their own. -/
theorem skips_of_smx {sub : Nat} {f : List W32 → List W32 → List W32 → List W32} (hc : slotOp c = if eSub w = sub then some (v, 11, w) else none)
    (he : ∀ s, exec c s = .next (s.onMain fun u => u.smx v w sub f)) : SkipsWithGuardOff c := by
  by_cases h : eSub w = sub
  · refine skips_of_lanes (lat := 14) (subs := 4) (f := f) (hc.trans (if_pos h)) fun s => ?_
    simp only [he, State.smx, h, true_or, if_true]
  · exact skips_of_none (hc.trans (if_neg h))

/-- A MASS step with a SUB of its own does nothing but issue. -/
theorem vsmxMassEffect_issues (v : VatNo) (w : BitVec 56) (h : 3 ≤ eSub w) :
    ∃ illegal act, ∀ s, vsmxMassEffect v w s = s.issue v 11 w illegal (fun _ => []) act :=
  ⟨_, _, fun _ => if_pos (by omega)⟩

/-- VSMX MASS. -/
theorem skips_of_mass (v : VatNo) (w : BitVec 56) (x : W64) : SkipsWithGuardOff (.opVsmxMass v w x) := by
  by_cases h : 3 ≤ eSub w
  · obtain ⟨_, _, e⟩ := vsmxMassEffect_issues v w h
    exact skips_of_issue (reads := fun _ _ => []) (if_pos h) fun s => congrArg (fun f => Host.Outcome.next (s.onMain f)) (funext e)
  · exact skips_of_none (if_neg h)

/-- Every command skips with its guard off: each slot operation is one of the kinds above. -/
theorem skips_with_guard_off (c : Instr) : SkipsWithGuardOff c := by
  cases c with
  | opBr v w x | opBri v w x | opCall v w x | opCalli v w x | opRet v w x =>
    exact skips_of_branch rfl fun _ => rfl
  | opAdd v k w x | opSub v k w x | opAnd v k w x | opOr v k w x | opXor v k w x | opShl v k w x | opShr v k w x | opSar v k w x
    | opMin v k w x | opMax v k w x | opMinu v k w x | opMaxu v k w x | opMul v k w x | opMulhu v k w x =>
    exact skips_of_scalar rfl fun _ => rfl
  | opCmpeq v k w x | opCmplt v k w x | opCmpltu v k w x =>
    exact skips_of_compare rfl fun _ => rfl
  | opPand v k w x | opPor v k w x | opPxor v k w x =>
    exact skips_of_predOp rfl fun _ => rfl
  | opVadd v w x | opVsub v w x | opVmax v w x | opVmin v w x | opVmul v w x | opVfma v w x | opVexp2 v w x | opVlog2 v w x | opVrcp v w x
    | opVrsq v w x | opVsig v w x | opVtanh v w x | opVcvt v w x | opVscl v w x | opVqnt v w x | opVrmax v w x | opVrsum v w x
    | opVsel v w x =>
    exact skips_of_lanes rfl fun _ => rfl
  | opScnRun v w x | opScnAnch v w x | opScnSave v w x | opScnLoad v w x =>
    exact skips_of_scnIssue rfl fun _ => rfl
  | opLoop v w x | opWaitc v w x | opYield v w x | opEnd v w x | opSadd v w x | opSset v w x | opSrd v w x | opSwait v w x | opLd v k w x
    | opSt v k w x | opRdc v k w x | opAld v k w x | opAset v k w x | opArst v k w x | opVld v k w x | opVst v k w x | opAskip v k w x
    | opTwld v k w x | opTmm v k w x | opTclr v k w x | opTlut v k w x | opVbc v w x | opVext v w x | opMpush v k w x | opMcnt v k w x
    | opMstat v k w x =>
    exact skips_of_issue rfl fun _ => rfl
  | opTrd v tile w x => exact skips_of_trd v tile w x
  | opVsmxMask v w x | opVsmxExpd v w x | opVsmxNorm v w x => exact skips_of_smx rfl fun _ => rfl
  | opVsmxMass v w x => exact skips_of_mass v w x
  | _ => exact skips_of_none rfl

end Commands

/-- Settles O23: every slot operation goes through State.issue, where only the test for ILLEGAL comes before the guard; the trace of a branch
and the free values of a TRD are all that a command adds. -/
theorem anOperationWithItsGuardOffDoesNothing : Obligations.AnOperationWithItsGuardOffDoesNothing := by
  intro c v slot w s hc ho hg
  obtain ⟨t, he, ⟨n, hn⟩ | ⟨n, hn⟩⟩ := skips_with_guard_off c v slot w s hc ho hg
  · exact ⟨t, he, n, .inl hn⟩
  · exact ⟨t, he, n, .inr hn⟩

end Sys2Proof.Machine
end

section
/-! The reductions of the element-wise pipeline (04 R130) and the integer sums of the tiles (04 R124). A level of the fixed tree is stated on a list
given by its elements, so that the seven levels are one induction; the integer sum of a column is a sum over a list, whose bound is that of its terms. -/

namespace Sys2Proof.Machine

/-! ### The fixed tree (04 R130) -/

/-- A level of the tree on a list given by its elements: element k comes of elements 2 k and 2 k + 1. -/
theorem pairUp_map_range (op : W32 → W32 → W32) (f : Nat → W32) (m : Nat) :
    pairUp op ((List.range (2 * m)).map f) = (List.range m).map fun k => op (f (2 * k)) (f (2 * k + 1)) := by
  induction m generalizing f with
  | zero => rfl
  | succ m ih =>
    have two : List.range (2 * (m + 1)) = 0 :: 1 :: (List.range (2 * m)).map (· + 2) := by
      simp only [Nat.mul_succ, List.range_succ_eq_map, List.map_cons, List.map_map]
      rfl
    rw [two, List.range_succ_eq_map]
    simp only [List.map_cons, List.map_map, pairUp, ih]
    rfl

/-- The list that n levels of the tree leave. -/
def treeLevels (op : W32 → W32 → W32) (l : List W32) : Nat → List W32
  | 0 => l
  | n + 1 => pairUp op (treeLevels op l n)

theorem treeOf_eq_treeLevels (op : W32 → W32 → W32) (l : List W32) : treeOf op l = (treeLevels op l 7).headD 0 := rfl

section Tree

variable {op : W32 → W32 → W32} {level : Nat → Nat → W32}
  (hlevel : ∀ n k, n < 7 → k < 2 ^ (6 - n) → level (n + 1) k = op (level n (2 * k)) (level n (2 * k + 1)))
include hlevel

/-- The list after n levels, by the values of level n. -/
theorem treeLevels_eq_level {n : Nat} (hn : n ≤ 7) :
    treeLevels op ((List.range 128).map (level 0)) n = (List.range (2 ^ (7 - n))).map (level n) := by
  induction n with
  | zero => rfl
  | succ n ih =>
    have half : 2 ^ (7 - n) = 2 * 2 ^ (6 - n) := by rw [← Nat.pow_succ', ← Nat.succ_sub (by omega)]
    rw [treeLevels, ih (by omega), half, pairUp_map_range, show 7 - (n + 1) = 6 - n by omega]
    exact List.map_congr_left fun k hk => (hlevel n k hn (List.mem_range.1 hk)).symm

theorem treeOf_eq_level : treeOf op ((List.range 128).map (level 0)) = level 7 0 := by
  rw [treeOf_eq_treeLevels, treeLevels_eq_level hlevel (Nat.le_refl 7)]
  rfl

end Tree

/-! ### The four groups of lanes (04 R130) -/

theorem length_flatten_replicates {α : Type} (f : Nat → α) (m n : Nat) :
    ((List.range n).map fun g => List.replicate m (f g)).flatten.length = m * n := by
  induction n with
  | zero => rfl
  | succ n ih =>
    rw [List.range_succ, List.map_append, List.flatten_append, List.length_append, ih, List.map_singleton, List.flatten_singleton,
      List.length_replicate, Nat.mul_succ]

/-- Element j of block g, where each block repeats one value m times. -/
theorem getElem?_flatten_replicates {α : Type} (f : Nat → α) {m n g j : Nat} (hg : g < n) (hj : j < m) :
    ((List.range n).map fun g => List.replicate m (f g)).flatten[m * g + j]? = some (f g) := by
  induction n with
  | zero => omega
  | succ n ih =>
    rw [List.range_succ, List.map_append, List.flatten_append]
    rcases Nat.lt_succ_iff_lt_or_eq.1 hg with hlt | rfl
    · have before : m * g + j < m * n :=
        calc m * g + j < m * (g + 1) := by rw [Nat.mul_succ]; omega
          _ ≤ m * n := Nat.mul_le_mul_left m hlt
      rw [List.getElem?_append_left (by rwa [length_flatten_replicates]), ih hlt]
    · rw [List.getElem?_append_right (by rw [length_flatten_replicates]; omega), length_flatten_replicates, Nat.add_sub_cancel_left,
        List.map_singleton, List.flatten_singleton, List.getElem?_replicate, if_pos hj]

theorem length_groups (op : W32 → W32 → W32) (a b c : List W32) : (groups op a b c).length = 512 :=
  length_flatten_replicates _ 128 4

/-- Every lane of group g holds the result of its tree. -/
theorem getD_groups (op : W32 → W32 → W32) (a b c : List W32) {g j : Nat} (hg : g < 4) (hj : j < 128) :
    (groups op a b c).getD (128 * g + j) 0 = treeOf op ((a.drop (128 * g)).take 128) := by
  rw [List.getD_eq_getElem?_getD, groups, getElem?_flatten_replicates _ hg hj, Option.getD_some]

/-- The n elements of a list from place i, by their places. -/
theorem take_drop_eq_map_range {α : Type} {l : List α} {i n : Nat} (d : α) (h : i + n ≤ l.length) :
    (l.drop i).take n = (List.range n).map fun k => l.getD (i + k) d := by
  refine List.ext_getElem (by rw [List.length_take, List.length_drop, List.length_map, List.length_range]; omega) fun k hk hk' => ?_
  have hkn : k < n := by rwa [List.length_map, List.length_range] at hk'
  rw [List.getElem_take, List.getElem_drop, List.getElem_map, List.getElem_range, List.getD_eq_getElem?_getD,
    List.getElem?_eq_getElem (by omega), Option.getD_some]

/-- A group of lanes reduced by a tree whose levels are given. -/
theorem getD_groups_eq_level {op : W32 → W32 → W32} {a : List W32} (b c : List W32) (ha : a.length = 512) {g j : Nat} (hg : g < 4) (hj : j < 128)
    {level : Nat → Nat → W32} (hleaf : ∀ k, k < 128 → level 0 k = a.getD (128 * g + k) 0)
    (hlevel : ∀ n k, n < 7 → k < 2 ^ (6 - n) → level (n + 1) k = op (level n (2 * k)) (level n (2 * k + 1))) :
    (groups op a b c).getD (128 * g + j) 0 = level 7 0 := by
  have leaves : (a.drop (128 * g)).take 128 = (List.range 128).map (level 0) := by
    rw [take_drop_eq_map_range 0 (by omega)]
    exact List.map_congr_left fun k hk => (hleaf k (List.mem_range.1 hk)).symm
  rw [getD_groups op a b c hg hj, leaves, treeOf_eq_level hlevel]

/-! ### The element-wise pipeline -/

/-- An element-wise operation with a SUB it defines sends its lanes. -/
theorem answers_of_lanes {e : Instr} {v : VatNo} {w : BitVec 56} {s : State} {lat subs : Nat} {f : List W32 → List W32 → List W32 → List W32}
    (he : exec e s = .next (s.onMain fun u => u.lanes v w lat subs f)) (h : s.Ready v 11 w) (hw : fld w 19 0 = 0) (hsub : fld w 23 20 < subs) :
    Answers e s (s.Issued v 11 [] ((s.issuer v 11).send (s.issuer v 11).core 11 lat false (.vreg (fld w 49 45)
      (f ((s.issuer v 11).core.vreg (fld w 44 40)) ((s.issuer v 11).core.vreg (fld w 39 35)) ((s.issuer v 11).core.vreg (fld w 34 30)))))) := by
  refine Answers.of (he.trans (congrArg _ (if_pos h.slot.clock))) (State.issue_runs h ?_ (if_neg (Nat.not_le.2 hsub)))
  simp only [eIllegal, rsv, hw, bne_self_eq_false]

/-- SUB has four bits. -/
theorem fld_sub_lt (w : BitVec 56) : fld w 23 20 < 16 := Nat.mod_lt _ (by decide)

/-- Settles O17: the seven levels are one induction, whose step is a level on a list given by its elements. -/
theorem reductionsFollowTheFixedTree : Obligations.ReductionsFollowTheFixedTree := by
  intro v w x s h hw ha e he
  have hexec : exec e.1 s = .next (s.onMain fun u => u.lanes v w 12 16 (groups e.2)) := by
    simp only [List.mem_cons, List.not_mem_nil, or_false] at he
    rcases he with rfl | rfl
    · rfl
    · rfl
  exact ⟨_, answers_of_lanes hexec h hw (fld_sub_lt w), length_groups .., fun g hg level hleaf hlevel j hj =>
    getD_groups_eq_level _ _ ha hg hj hleaf hlevel⟩

/-! ### Two's complement patterns -/

theorem natAbs_toInt_le {w : Nat} (hw : 0 < w) (n : Nat) : (toInt w n).natAbs ≤ 2 ^ (w - 1) := by
  have half : 2 ^ w = 2 * 2 ^ (w - 1) := by rw [← Nat.pow_succ', Nat.succ_eq_add_one, Nat.sub_add_cancel hw]
  have hlt : n % 2 ^ w < 2 ^ w := Nat.mod_lt _ (Nat.two_pow_pos w)
  unfold toInt
  split <;> omega

theorem toInt_toNat (a : W32) : toInt 32 a.toNat = a.toInt := by
  rw [BitVec.toInt_eq_toNat_cond, toInt, Nat.mod_eq_of_lt a.isLt]
  have := a.isLt
  split <;> split <;> omega

theorem ofNat_ofInt (z : Int) : BitVec.ofNat 32 (ofInt 32 z) = BitVec.ofInt 32 z := by
  apply BitVec.eq_of_toNat_eq
  rw [BitVec.toNat_ofNat, BitVec.toNat_ofInt, ofInt]
  omega

/-! ### The integer sum of a column (04 R124) -/

/-- The code of the weight that element i of a vector meets in column j (03 R89, 04 R122). -/
def weightCode (fmt : Nat) (b : WBuf) (j i : Nat) : Nat :=
  (b.codes.getD (if fmt = 1 then i / 2 else i) []).getD (if fmt = 1 then 2 * j + i % 2 else j) 0

theorem intSum_eq_sum (fmt : Nat) (b : WBuf) (x : List Nat) (j : Nat) :
    intSum fmt b x j = ((List.range x.length).map fun i => elemInt fmt (x.getD i 0) * elemInt fmt (weightCode fmt b j i)).sum := by
  rw [List.sum_eq_foldl, List.foldl_map]
  rfl

/-- The magnitude of a product of two elements: of 8 bits, or of 4 for Q4S. -/
def maxProduct (fmt : Nat) : Nat := if fmt = 1 then 64 else 16384

theorem natAbs_elemInt_mul_le (fmt m n : Nat) : (elemInt fmt m * elemInt fmt n).natAbs ≤ maxProduct fmt := by
  rw [Int.natAbs_mul]
  unfold elemInt maxProduct
  split
  · exact Nat.mul_le_mul (natAbs_toInt_le (w := 4) (by decide) m) (natAbs_toInt_le (w := 4) (by decide) n)
  · exact Nat.mul_le_mul (natAbs_toInt_le (w := 8) (by decide) m) (natAbs_toInt_le (w := 8) (by decide) n)

theorem natAbs_sum_map_le {f : Nat → Int} {B : Nat} (h : ∀ i, (f i).natAbs ≤ B) (l : List Nat) : (l.map f).sum.natAbs ≤ l.length * B := by
  induction l with
  | nil => exact Nat.zero_le _
  | cons i l ih =>
    have hi := h i
    rw [List.map_cons, List.sum_cons, List.length_cons, Nat.succ_mul]
    omega

/-- Each term of the sum is a product of two elements. -/
theorem natAbs_intSum_le (fmt : Nat) (b : WBuf) (x : List Nat) (j : Nat) : (intSum fmt b x j).natAbs ≤ x.length * maxProduct fmt := by
  have h := natAbs_sum_map_le (fun i => natAbs_elemInt_mul_le fmt (x.getD i 0) (weightCode fmt b j i)) (List.range x.length)
  rwa [← intSum_eq_sum, List.length_range] at h

/-! ### Accumulator rows (04 R124) -/

theorem VatCore.accRow_land_accSet {c d : VatCore} {key : Nat} (l : List W32) (h : mapWf (zeros 128) d.acc = true) :
    (VatCore.land c d (.accSet key l)).accRow key = l :=
  (mapGet_mapSet h).trans (if_pos rfl)

theorem VatCore.accRow_land_accInt {c d : VatCore} {key : Nat} (l : List Int) (h : mapWf (zeros 128) d.acc = true) :
    (VatCore.land c d (.accInt key l)).accRow key =
      List.zipWith (fun a z => BitVec.ofInt 32 (satInt 32 (a.toInt + z))) (c.accRow key) l := by
  refine ((mapGet_mapSet h).trans (if_pos rfl)).trans ?_
  simp only [ofNat_ofInt, toInt_toNat]

section Row

variable {c : VatCore} {key j : Nat} (h : mapWf (zeros 128) c.acc = true) (hj : j < 128) (fmt : Nat) (b : WBuf) (codes exps : List Nat)
include h hj

/-- With ZERO = 1 lane j of the row becomes the sum of its column. -/
theorem getD_accRow_rowResult_zero : ((VatCore.land c c (rowResult fmt true true b (codes, exps) key)).accRow key).getD j 0 =
    BitVec.ofInt 32 (intSum fmt b codes j) := by
  simp only [rowResult, if_true, VatCore.accRow_land_accSet _ h, List.getD_eq_getElem?_getD, List.getElem?_map, List.getElem?_range hj,
    Option.map_some, Option.getD_some, ofNat_ofInt]

/-- With ZERO = 0 the sum of its column is added to lane j of the row and clamped. -/
theorem getD_accRow_rowResult_add (hrow : (c.accRow key).length = 128) :
    ((VatCore.land c c (rowResult fmt true false b (codes, exps) key)).accRow key).getD j 0 =
      BitVec.ofInt 32 (satInt 32 (((c.accRow key).getD j 0).toInt + intSum fmt b codes j)) := by
  have lane : (c.accRow key)[j]? = some (c.accRow key)[j] := List.getElem?_eq_getElem (by omega)
  simp only [rowResult, if_true, Bool.false_eq_true, if_false, VatCore.accRow_land_accInt _ h, List.getD_eq_getElem?_getD, List.getElem?_zipWith,
    List.getElem?_map, List.getElem?_range hj, lane, Option.map_some, Option.getD_some]

end Row

/-- Settles O18: the sum has 128 terms of magnitude at most 128 * 128, or 256 of magnitude at most 8 * 8, and a row read after it has landed is the row
written. -/
theorem integerTileSumsAreExact : Obligations.IntegerTileSumsAreExact := by
  intro fmt b codes exps c key j hfmt hj hc hrow weight element sum
  have hterm : ∀ i, element i * weight i = elemInt fmt (codes.getD i 0) * elemInt fmt (weightCode fmt b j i) := fun i => by
    simp only [element, weight, elemInt, weightCode]
    split <;> rfl
  have hsum : sum = intSum fmt b codes j := by
    simp only [sum, hterm, intSum_eq_sum, List.sum_eq_foldl]
  have hbound : codes.length * maxProduct fmt ≤ 2097152 := by
    rcases hfmt with ⟨rfl, hl⟩ | ⟨rfl, hl⟩
    · rw [hl]; decide
    · rw [hl]; decide
  rw [hsum]
  exact ⟨Nat.le_trans (natAbs_intSum_le ..) hbound, getD_accRow_rowResult_zero hc hj .., getD_accRow_rowResult_add hc hj fmt b codes exps hrow⟩

end Sys2Proof.Machine
end

section
/-! Mailbox commands begin and end (17 R428 to R430, R434, R435). What the bytes of a mailbox read after a store, what a trace packet, a record without
HOST_EVENT and a doorbell taken leave as they are, and that State.finishAt is what State.Ended says of the end of a command. -/

namespace Sys2Proof.Machine

/-! ### Little-endian fields -/

theorem length_toLE (n v : Nat) : (toLE n v).length = n := by
  induction n generalizing v with
  | zero => rfl
  | succ n ih => exact congrArg (· + 1) (ih _)

theorem fromLE_toLE (n v : Nat) : fromLE (toLE n v) = v % 256 ^ n := by
  induction n generalizing v with
  | zero => exact (Nat.mod_one v).symm
  | succ n ih =>
    have low : v % (256 * 256 ^ n) = v % 256 + 256 * (v / 256 % 256 ^ n) := Nat.mod_mul
    rw [toLE, fromLE, ih, BitVec.toNat_ofNat, Nat.pow_succ' (n := n), low]

/-! ### The bytes of a mailbox -/

section Mail

variable {s t : State} {m o : Nat} {l : List Byte} (h : mapWf (0 : Byte) s.firm.mail = true)

theorem State.mailByte_of_mail {x p : Nat} (e : t.firm.mail = s.firm.mail) : t.mailByte x p = s.mailByte x p := by
  unfold State.mailByte
  rw [e]

theorem State.mailField_congr {x p n : Nat} (e : ∀ i, i < n → t.mailByte x (p + i) = s.mailByte x (p + i)) : t.mailField x p n = s.mailField x p n :=
  congrArg fromLE (List.map_congr_left fun i hi => e i (List.mem_range.1 hi))

include h

theorem State.setMail_wf : mapWf (0 : Byte) (s.setMail m o l).firm.mail = true := memWf_memStore h

/-- A byte apart from those stored reads as before. -/
theorem State.mailByte_setMail_apart {x p : Nat} (hx : 4096 * x + p < 4096 * m + o ∨ 4096 * m + o + l.length ≤ 4096 * x + p) :
    (s.setMail m o l).mailByte x p = s.mailByte x p := memByte_memStore_outside h hx

/-- A run of the bytes stored. -/
theorem State.mailBytes_setMail {i n : Nat} (hi : i + n ≤ l.length) : (s.setMail m o l).mailBytes m (o + i) n = (l.drop i).take n := by
  rw [take_drop_eq_map_range 0 hi]
  refine List.map_congr_left fun j hj => ?_
  have hl : i + j < l.length := by have := List.mem_range.1 hj; omega
  rw [List.getD_eq_getElem?_getD, List.getElem?_eq_getElem hl, Option.getD_some, ← memByte_memStore h hl (a := 4096 * m + o)]
  unfold State.mailByte
  rw [Nat.add_assoc o, ← Nat.add_assoc]
  rfl

/-- A run of bytes apart from those stored. -/
theorem State.mailBytes_setMail_apart {p n : Nat} (hp : p + n ≤ o) : (s.setMail m o l).mailBytes m p n = s.mailBytes m p n :=
  List.map_congr_left fun i hi => State.mailByte_setMail_apart h (by have := List.mem_range.1 hi; omega)

end Mail

/-! ### Parts -/

theorem State.modFirm_only (s : State) (f : Firmware → Firmware) : Only [.firm] s (s.modFirm f) :=
  ⟨rfl, fun g _ hg => by cases g <;> first | rfl | exact absurd (by simp) hg⟩

theorem State.raiseVector_only (s : State) (v : Nat) : Only [.msix] s (s.raiseVector v) :=
  ⟨rfl, fun g _ hg => by cases g <;> first | rfl | exact absurd (by simp) hg⟩

theorem State.tellHost_only (s : State) (m : Nat) : Only [.msix] s (s.tellHost m) := by
  unfold State.tellHost
  exact Only.ite (Only.refl ..) (s.raiseVector_only m)

theorem State.emit_only (s : State) (src ev a b : Nat) : Only [.regs, .trace, .traceDrop] s (s.emit src ev a b) := by
  unfold State.emit
  refine Only.ite (Only.ite ?_ ?_) (Only.refl ..)
  · exact ⟨rfl, fun g _ hg => by cases g <;> first | rfl | exact absurd (by simp) hg⟩
  · exact ⟨rfl, fun g _ hg => by cases g <;> first | rfl | exact absurd (by simp) hg⟩

/-- A record of a kind that tells HOST_EVENT nothing touches the recorder alone, or the count of records lost (17 R452 to R454, Table 17.2). -/
theorem State.post_only {kind : Nat} (h : ¬(kind = 0 ∨ kind = 4)) (s : State) (code role mbox frame stw detail : Nat) :
    Only [.regs, .evr] s (s.post kind code role mbox frame stw detail) := by
  unfold State.post
  refine Only.ite ((s.bump_only _).mono (by simp)) ?_
  simp only [h, if_false]
  exact ⟨rfl, fun g _ hg => by cases g <;> first | rfl | exact absurd (by simp) hg⟩

/-! ### Registers -/

section Regs

variable {l : List Nat} {s t : State} (h : State.RegsKept l s t)
include h

theorem State.RegsKept.emit (hk : Reg.OBS_TRC_DROP_CNT ∈ l) (src ev a b : Nat) : State.RegsKept l s (t.emit src ev a b) := by
  unfold State.emit
  exact .ite (.ite ((h.bump hk).of_regs rfl) (h.of_regs rfl)) h

theorem State.RegsKept.post (hk : Reg.EVR_LOST_CNT ∈ l) (kind code role mbox frame stw detail : Nat) :
    State.RegsKept l s (t.post kind code role mbox frame stw detail) := by
  unfold State.post
  exact .ite (h.bump hk) (.ite (h.of_regs (State.hostEv_regs ..)) (h.of_regs rfl))

theorem State.RegsKept.tellHost (m : Nat) : State.RegsKept l s (t.tellHost m) := by
  unfold State.tellHost
  exact .ite h (h.of_regs rfl)

end Regs

/-! ### A doorbell taken (17 R430, R434) -/

section TakeBell

variable (s : State) (m : Nat)

theorem State.takeBell_only : Only [.regs, .firm, .trace, .traceDrop] s (s.takeBell m) := by
  unfold State.takeBell
  refine ((s.setReg_only _ _).mono (by simp)).trans (Only.trans ((State.modFirm_only _ _).mono (by simp)) ((State.emit_only ..).mono (by simp)))

/-- The session of mailbox m, if it has not ended, has had a command. -/
def State.refresh (x : Session) : Session := if s.sessionOver x then x else { x with last := s.fclk }

theorem State.takeBell_firm : (s.takeBell m).firm = { s.firm with
    bells := s.firm.bells.filter (fun x => x != m)
    sessions := s.firm.sessions.map fun e => if e.1 = m then (m, s.refresh e.2) else e } := by
  refine ((State.emit_only ..).part .firm (by decide) (by decide)).trans ?_
  rw [State.modFirm_firm, State.setReg_firm]
  congr 1
  refine List.map_congr_left fun ⟨j, x⟩ _ => ?_
  by_cases hj : j = m
  · cases ho : s.sessionOver x <;> simp [hj, ho, State.refresh]
  · simp [hj]

variable {s m}

theorem State.takeBell_mail : (s.takeBell m).firm.mail = s.firm.mail := by rw [State.takeBell_firm]

theorem State.takeBell_keep : (s.takeBell m).keep = s.keep := (s.takeBell_only m).part .keep (by decide) (by decide)

theorem State.takeBell_fclk : (s.takeBell m).fclk = s.fclk :=
  congrArg (· / 8) ((s.takeBell_only m).part .tick (by decide) (by decide))

theorem State.takeBell_start : (s.takeBell m).start = s.start := (s.takeBell_only m).part .start (by decide) (by decide)

theorem State.takeBell_args (x : Nat) : (s.takeBell m).args x = s.args x := by
  unfold State.args State.argLen State.mailField State.mailBytes
  simp only [State.mailByte_of_mail State.takeBell_mail]

theorem State.takeBell_arg (x o n : Nat) : (s.takeBell m).arg x o n = s.arg x o n := congrArg (fieldLE · o n) (State.takeBell_args x)

theorem State.takeBell_regs (h : mapWf 0 s.regs = true) : State.RegsKept [Reg.MBX_DB_PEND, Reg.OBS_TRC_DROP_CNT] s (s.takeBell m) := by
  unfold State.takeBell
  have pend := (State.RegsKept.refl h).setReg (k := Reg.MBX_DB_PEND) (l := [Reg.MBX_DB_PEND, Reg.OBS_TRC_DROP_CNT]) (List.mem_cons_self ..)
    (putBit (s.reg Reg.MBX_DB_PEND) m false)
  exact (pend.of_regs (State.modFirm_regs ..)).emit (by decide) ..

theorem State.takeBell_fw (h : mapWf 0 s.regs = true) : (s.takeBell m).fw = s.fw :=
  congrArg (bits · 7 0) ((State.takeBell_regs h).2 Reg.MBX_STATE (by decide))

theorem State.takeBell_fwIn (h : mapWf 0 s.regs = true) (l : List Nat) : (s.takeBell m).fwIn l = s.fwIn l := congrArg l.contains (State.takeBell_fw h)

theorem State.takeBell_sessionOver (x : Session) : (s.takeBell m).sessionOver x = s.sessionOver x := by
  unfold State.sessionOver
  rw [State.takeBell_fclk]

/-- A session that has had a command now is as little over as before. -/
theorem State.sessionOver_refresh (x : Session) : s.sessionOver (s.refresh x) = s.sessionOver x := by
  unfold State.refresh
  cases h : s.sessionOver x with
  | true => exact h
  | false =>
    obtain ⟨hlife, _⟩ := Bool.or_eq_false_iff.1 h
    refine Bool.or_eq_false_iff.2 ⟨hlife, decide_eq_false (Nat.not_le.2 (Nat.lt_add_of_pos_right ?_))⟩
    exact Nat.mul_pos (by decide) (by decide)

theorem State.refresh_role (x : Session) : (s.refresh x).role = x.role := by
  unfold State.refresh
  split <;> rfl

/-- The entry of a key, after every entry of that key has been changed by g. -/
theorem map_find?_map_entry {α : Type} (g : α → α) (k : Nat) (l : List (Nat × α)) :
    ((l.map fun e => if e.1 = k then (k, g e.2) else e).find? fun e => e.1 == k).map (fun e => e.2) =
      ((l.find? fun e => e.1 == k).map fun e => e.2).map g := by
  induction l with
  | nil => rfl
  | cons e l ih =>
    by_cases he : e.1 = k
    · simp [he]
    · simp only [List.map_cons, he, if_false, List.find?_cons, beq_false_of_ne he, ih]

theorem State.takeBell_session : (s.takeBell m).session m = (s.session m).map s.refresh := by
  unfold State.session
  rw [State.takeBell_firm]
  exact map_find?_map_entry s.refresh m s.firm.sessions

theorem State.takeBell_roleOf : (s.takeBell m).roleOf m = s.roleOf m := by
  unfold State.roleOf
  rw [State.takeBell_session]
  cases s.session m with
  | none => rfl
  | some x => simp only [Option.map_some, State.takeBell_sessionOver, State.sessionOver_refresh, State.refresh_role]

theorem State.takeBell_inSession : (s.takeBell m).inSession m = s.inSession m := by
  unfold State.inSession
  rw [State.takeBell_session]
  cases s.session m with
  | none => rfl
  | some x => simp only [Option.map_some, State.takeBell_sessionOver, State.sessionOver_refresh]

/-- Taking a doorbell changes no session's mailbox or role. -/
theorem State.takeBell_roles : (s.takeBell m).firm.sessions.map (fun e => (e.1, e.2.role)) = s.firm.sessions.map (fun e => (e.1, e.2.role)) := by
  rw [State.takeBell_firm, List.map_map]
  refine List.map_congr_left fun e _ => ?_
  by_cases he : e.1 = m <;> simp [he, State.refresh_role]

end TakeBell

/-! ### The end of a command (17 R430, R435, Table 17.3) -/

/-- The record of a command's end, where one is made. -/
def State.endRecord (s : State) (m role status detail stw : Nat) : State :=
  if quiet (s.opcode m) then s
  else s.post 2 (s.opcode m) role m s.frameLo stw (status + 2 ^ 32 * s.mailTag m + 2 ^ 64 * (detail % 2 ^ 64))

/-- The completion fields of mailbox m, from byte 0x00C on. -/
def State.completion (s : State) (m status detail len stw : Nat) : List Byte :=
  [0, BitVec.ofNat 8 status, BitVec.ofNat 8 (s.roleOf m), 0] ++ toLE 4 stw ++ toLE 4 len ++ toLE 8 detail ++
    toLE 4 (if quiet (s.opcode m) = true ∨ 4096 ≤ s.evr.buffer.length then 0xFFFFFFFF else s.evr.nextSeq)

/-- Completion fields and results in place. -/
def State.endMail (s : State) (m : Nat) (fields res : List Byte) : State := (s.setMail m 0xC fields).setMail m 0x40 res

/-- A command ends with its record, then its mailbox bytes, then ownership and the vector. -/
theorem State.finishAt_eq (s : State) (m role status detail : Nat) (res : List Byte) (stw : Nat) :
    s.finishAt m role status detail res stw =
      ((((s.endRecord m role status detail stw).endMail m (s.completion m status detail res.length stw) res).setRegBit Reg.MBX_OWNER m).tellHost m).emit
        10 1 (s.opcode m) status := rfl

/-- A record that is not lost is the last of those that wait. -/
theorem State.post_last {s : State} {kind code role mbox frame stw detail : Nat} (h : ¬(kind = 0 ∨ kind = 4))
    (hl : (s.post kind code role mbox frame stw detail).evr.buffer.length < 4096) :
    ∃ r : EvRecord, (s.post kind code role mbox frame stw detail).evr.buffer.getLast? = some r ∧ r.kind = kind ∧ r.code = code ∧ r.mbox = mbox ∧
      r.detail = detail := by
  unfold State.post at hl ⊢
  by_cases hb : s.evr.buffer.length ≥ 4096
  · rw [if_pos hb, State.bump_evr] at hl
    omega
  · simp only [if_neg hb, if_neg h]
    exact ⟨_, List.getLast?_concat .., rfl, rfl, rfl, rfl⟩

section End

variable {s : State} {m role status detail stw : Nat} {fields res : List Byte}

theorem State.endRecord_only : Only [.regs, .evr] s (s.endRecord m role status detail stw) := by
  unfold State.endRecord
  exact Only.ite (Only.refl ..) (State.post_only (by decide) ..)

theorem State.endRecord_firm : (s.endRecord m role status detail stw).firm = s.firm := State.endRecord_only.part .firm (by decide) (by decide)

theorem State.endRecord_msix : (s.endRecord m role status detail stw).msix = s.msix := State.endRecord_only.part .msix (by decide) (by decide)

/-- A command that is not quiet leaves its record behind, unless it is lost. -/
theorem State.endRecord_last (hq : quiet (s.opcode m) = false) (hl : (s.endRecord m role status detail stw).evr.buffer.length < 4096) :
    ∃ r : EvRecord, (s.endRecord m role status detail stw).evr.buffer.getLast? = some r ∧ r.kind = 2 ∧ r.code = s.opcode m ∧ r.mbox = m ∧
      r.detail % 2 ^ 32 = status % 2 ^ 32 := by
  unfold State.endRecord at hl ⊢
  rw [hq, if_neg Bool.false_ne_true] at hl ⊢
  obtain ⟨r, hlast, hkind, hcode, hmbox, hdetail⟩ := State.post_last (by decide) hl
  exact ⟨r, hlast, hkind, hcode, hmbox, by rw [hdetail]; omega⟩

theorem State.endMail_only : Only [.firm] s (s.endMail m fields res) := (s.modFirm_only _).trans (State.modFirm_only ..)

theorem State.finishAt_only : Only [.regs, .evr, .firm, .msix, .trace, .traceDrop] s (s.finishAt m role status detail res stw) := by
  rw [State.finishAt_eq]
  refine Only.trans ?_ ((State.emit_only ..).mono (by decide))
  refine Only.trans ?_ ((State.tellHost_only ..).mono (by decide))
  refine Only.trans ?_ ((State.setReg_only ..).mono (by decide))
  exact (State.endRecord_only.mono (by decide)).trans (State.endMail_only.mono (by decide))

/-- Firmware's own state but for the bytes of the mailbox. -/
theorem State.finishAt_firm : (s.finishAt m role status detail res stw).firm =
    ((s.endRecord m role status detail stw).endMail m (s.completion m status detail res.length stw) res).firm := by
  rw [State.finishAt_eq]
  exact ((State.emit_only ..).part .firm (by decide) (by decide)).trans ((State.tellHost_only ..).part .firm (by decide) (by decide))

theorem State.endMail_firm (s : State) (m : Nat) (fields res : List Byte) : ∃ l, (s.endMail m fields res).firm = { s.firm with mail := l } := ⟨_, rfl⟩

/-- A command's end changes the mailbox bytes of firmware's state alone. -/
theorem State.finishAt_firm_but_mail (s : State) (m role status detail : Nat) (res : List Byte) (stw : Nat) :
    ∃ l, (s.finishAt m role status detail res stw).firm = { s.firm with mail := l } := by
  obtain ⟨l, hl⟩ := (s.endRecord m role status detail stw).endMail_firm m (s.completion m status detail res.length stw) res
  exact ⟨l, by rw [State.finishAt_firm, hl, State.endRecord_firm]⟩

theorem State.finishAt_mailBytes (x p n : Nat) : (s.finishAt m role status detail res stw).mailBytes x p n =
    ((s.endRecord m role status detail stw).endMail m (s.completion m status detail res.length stw) res).mailBytes x p n := by
  unfold State.mailBytes State.mailByte
  rw [State.finishAt_firm]

theorem State.endRecord_wf (h : mapWf (0 : Byte) s.firm.mail = true) : mapWf (0 : Byte) (s.endRecord m role status detail stw).firm.mail = true := by
  rwa [State.endRecord_firm]

theorem State.completion_length {len : Nat} : (s.completion m status detail len stw).length = 24 := by
  simp only [State.completion, List.length_append, List.length_cons, List.length_nil, length_toLE]

theorem State.endRecord_regs (h : mapWf 0 s.regs = true) : State.RegsKept [Reg.EVR_LOST_CNT] s (s.endRecord m role status detail stw) := by
  unfold State.endRecord
  exact .ite (.refl h) ((State.RegsKept.refl h).post (List.mem_cons_self ..) ..)

theorem State.endMail_regs : (s.endMail m fields res).regs = s.regs := rfl

/-- What follows the write of ownership steps no register but the count of packets dropped. -/
theorem State.tellHost_emit_regs (h : mapWf 0 s.regs = true) (src ev a b : Nat) :
    State.RegsKept [Reg.OBS_TRC_DROP_CNT] s ((s.tellHost m).emit src ev a b) :=
  ((State.RegsKept.refl h).tellHost m).emit (List.mem_cons_self ..) ..

/-- The end of a command gives the mailbox back to the host; beside that it steps counts of what is lost or dropped. -/
theorem State.finishAt_reg (h : mapWf 0 s.regs = true) {k : Nat} (hk : k ∉ [Reg.EVR_LOST_CNT, Reg.OBS_TRC_DROP_CNT]) :
    (s.finishAt m role status detail res stw).reg k = if k = Reg.MBX_OWNER then putBit (s.reg Reg.MBX_OWNER) m true else s.reg k := by
  obtain ⟨hlost, hdrop⟩ : k ∉ [Reg.EVR_LOST_CNT] ∧ k ∉ [Reg.OBS_TRC_DROP_CNT] := by simpa using hk
  have mail := (State.endRecord_regs (m := m) (role := role) (status := status) (detail := detail) (stw := stw) h).of_regs
    (State.endMail_regs (m := m) (fields := s.completion m status detail res.length stw) (res := res))
  rw [State.finishAt_eq, (State.tellHost_emit_regs (mapWf_mapSet mail.1) ..).2 k hdrop, State.setRegBit_reg mail.1, mail.2 k hlost,
    mail.2 Reg.MBX_OWNER (by decide)]

section Bytes

variable (h : mapWf (0 : Byte) s.firm.mail = true)
include h

/-- The completion fields stand where they were written: PAYLOAD lies behind them. -/
theorem State.mailBytes_finishAt {i n : Nat} (hi : i + n ≤ 24) :
    (s.finishAt m role status detail res stw).mailBytes m (0xC + i) n = ((s.completion m status detail res.length stw).drop i).take n := by
  have hw := State.endRecord_wf (m := m) (role := role) (status := status) (detail := detail) (stw := stw) h
  rw [State.finishAt_mailBytes, State.endMail, State.mailBytes_setMail_apart (State.setMail_wf hw) (by omega),
    State.mailBytes_setMail hw (by rw [State.completion_length]; exact hi)]

/-- The results stand in PAYLOAD. -/
theorem State.mailBytes_finishAt_payload : (s.finishAt m role status detail res stw).mailBytes m 0x40 res.length = res := by
  have hw := State.endRecord_wf (m := m) (role := role) (status := status) (detail := detail) (stw := stw) h
  have payload := State.mailBytes_setMail (m := m) (o := 0x40) (l := res) (i := 0) (n := res.length)
    (State.setMail_wf hw (m := m) (o := 0xC) (l := s.completion m status detail res.length stw)) (Nat.le_of_eq (Nat.zero_add _))
  rw [List.drop_zero, List.take_length] at payload
  exact (State.finishAt_mailBytes ..).trans payload

/-- Completion fields and results leave the other mailboxes and the head of their own. -/
theorem State.mailByte_endMail {x p : Nat} (hf : fields.length = 24) (hres : res.length ≤ 4032) (hp : p < 4096) (hx : x = m → p < 0xC) :
    (s.endMail m fields res).mailByte x p = s.mailByte x p := by
  rw [State.endMail, State.mailByte_setMail_apart (State.setMail_wf h) (by omega), State.mailByte_setMail_apart h (by omega)]

/-- The other mailboxes read as before, and so does the head of this one. -/
theorem State.mailByte_finishAt {x p : Nat} (hres : res.length ≤ 4032) (hp : p < 4096) (hx : x = m → p < 0xC) :
    (s.finishAt m role status detail res stw).mailByte x p = s.mailByte x p := by
  rw [State.mailByte_of_mail (congrArg Firmware.mail State.finishAt_firm),
    State.mailByte_endMail (State.endRecord_wf h) State.completion_length hres hp hx, State.mailByte_of_mail (congrArg Firmware.mail State.endRecord_firm)]

end Bytes

/-! ### The vector of a mailbox -/

/-- What has been put at a key is there, whatever the order of the keys. -/
theorem mapGet_mapInsert_same {α : Type} (d : α) (l : List (Nat × α)) (k : Nat) (v : α) : mapGet d (mapInsert l k v) k = v := by
  induction l with
  | nil => simp [mapInsert, mapGet]
  | cons e l ih =>
    unfold mapInsert
    split
    · simp [mapGet]
    · split
      · simp [mapGet]
      case _ hk =>
        rw [mapGet, if_neg fun e => hk e.symm]
        exact ih

theorem State.raiseVector_msix : mapGet 0 (s.raiseVector m).msix m = mapGet 0 s.msix m + 1 := by
  unfold State.raiseVector mapSet
  rw [if_neg (Nat.succ_ne_zero _), mapGet_mapInsert_same]

theorem State.tellHost_msix (hb : bit (s.mailField m 2 2) 0 = false) : mapGet 0 (s.tellHost m).msix m = mapGet 0 s.msix m + 1 := by
  rw [State.tellHost, hb, if_neg Bool.false_ne_true, State.raiseVector_msix]

theorem State.setRegBit_mailField (k i p n : Nat) : (s.setRegBit k i).mailField m p n = s.mailField m p n := rfl

/-- FLAGS[0] = 0 lets the vector of mailbox m tell of the end. -/
theorem State.finishAt_msix (h : mapWf (0 : Byte) s.firm.mail = true) (hres : res.length ≤ 4032) (hb : bit (s.mailField m 2 2) 0 = false) :
    mapGet 0 (s.finishAt m role status detail res stw).msix m = mapGet 0 s.msix m + 1 := by
  have flags : ((s.endRecord m role status detail stw).endMail m (s.completion m status detail res.length stw) res).mailField m 2 2 = s.mailField m 2 2 :=
    State.mailField_congr fun i hi => (State.mailByte_endMail (State.endRecord_wf h) State.completion_length hres (by omega) (fun _ => by omega)).trans
      (State.mailByte_of_mail (congrArg Firmware.mail State.endRecord_firm))
  rw [State.finishAt_eq, (State.emit_only ..).part .msix (by decide) (by decide),
    State.tellHost_msix (by rw [State.setRegBit_mailField, flags, hb]), State.setRegBit_msix, State.endMail_only.part .msix (by decide) (by decide),
    State.endRecord_msix]

end End

end Sys2Proof.Machine
end

section
/-! Which commands firmware refuses (17 R431, R437 to R439). Every mailbox command is one call of State.serve, whose refusals take the doorbell, end the command
and do nothing else. -/

namespace Sys2Proof.Machine

section Ended

variable {s t u : State} {m role status detail stw : Nat} {res : List Byte}

/-- The end of a command is what State.Ended says of it. -/
theorem State.finishAt_ended (hr : mapWf 0 s.regs = true) (hm : mapWf (0 : Byte) s.firm.mail = true) (hres : res.length ≤ 4032) :
    s.Ended m status detail res (s.finishAt m role status detail res stw) where
  owner := by rw [State.finishAt_reg hr (by decide), if_pos rfl, bit_putBit]
  others x hx := by rw [State.finishAt_reg hr (by decide), if_pos rfl, bit_putBit_other _ _ _ _ hx]
  phase := State.mailBytes_finishAt hm (i := 0) (by decide)
  explained := (congrArg fromLE (State.mailBytes_finishAt hm (i := 12) (by decide))).trans (fromLE_toLE 8 detail)
  size := (congrArg fromLE (State.mailBytes_finishAt hm (i := 8) (by decide))).trans
    ((fromLE_toLE 4 res.length).trans (Nat.mod_eq_of_lt (by omega)))
  results := State.mailBytes_finishAt_payload hm
  mails x o hx ho := State.mailByte_finishAt hm hres ho fun e => absurd e hx
  record hq hl := by
    have e : (s.finishAt m role status detail res stw).evr = (s.endRecord m role status detail stw).evr := by
      rw [State.finishAt_eq, (State.emit_only ..).part .evr (by decide) (by decide), (State.tellHost_only ..).part .evr (by decide) (by decide),
        State.setRegBit_evr, State.endMail_only.part .evr (by decide) (by decide)]
    rw [e] at hl ⊢
    exact State.endRecord_last hq hl
  vector hb := State.finishAt_msix hm hres hb

/-- Two states agree in all that the end of mailbox m's command is measured against. -/
structure State.SameBox (m : Nat) (s u : State) : Prop where
  owners : ∀ x, x ≠ m → bit (u.reg Reg.MBX_OWNER) x = bit (s.reg Reg.MBX_OWNER) x
  mails : ∀ x o, o < 4096 → (x = m → o < 0xC) → u.mailByte x o = s.mailByte x o
  msix : u.msix = s.msix

theorem State.SameBox.opcode (h : State.SameBox m s u) (x : Nat) : u.opcode x = s.opcode x :=
  State.mailField_congr fun _ _ => h.mails _ _ (by omega) fun _ => by omega

theorem State.Ended.of_sameBox (h : State.SameBox m s u) (g : u.Ended m status detail res t) : s.Ended m status detail res t where
  owner := g.owner
  others x hx := (g.others x hx).trans (h.owners x hx)
  phase := g.phase
  explained := g.explained
  size := g.size
  results := g.results
  mails x o hx ho := (g.mails x o hx ho).trans (h.mails x o ho fun e => absurd e hx)
  record := h.opcode m ▸ g.record
  vector := by
    have flags : u.mailField m 2 2 = s.mailField m 2 2 := State.mailField_congr fun _ _ => h.mails _ _ (by omega) fun _ => by omega
    rw [← flags, ← h.msix]
    exact g.vector

theorem State.takeBell_sameBox (hr : mapWf 0 s.regs = true) : State.SameBox m s (s.takeBell m) where
  owners x _ := congrArg (bit · x) ((State.takeBell_regs hr).2 Reg.MBX_OWNER (by decide))
  mails _ _ _ _ := State.mailByte_of_mail State.takeBell_mail
  msix := (s.takeBell_only m).part .msix (by decide) (by decide)

/-- Firmware takes the doorbell and ends the command. -/
theorem State.takeBell_finish_done (hr : mapWf 0 s.regs = true) (hm : mapWf (0 : Byte) s.firm.mail = true) (hres : res.length ≤ 4032) :
    s.Done m status detail res ((s.takeBell m).finish m status detail res) := by
  refine ⟨?_, State.Ended.of_sameBox (State.takeBell_sameBox hr) (State.finishAt_ended (State.takeBell_regs hr).1 ?_ hres)⟩
  · obtain ⟨l, hl⟩ := (s.takeBell m).finishAt_firm_but_mail m ((s.takeBell m).roleOf m) status detail res ((s.takeBell m).reg Reg.MBX_STATE)
    rw [State.finish, hl, State.takeBell_firm]
  · rwa [State.takeBell_mail]

/-! ### Doorbells whose opcode is not listed (17 R430) -/

/-- Firmware leaves a listed command at the head of the doorbells to its own row. -/
theorem State.drain_of_listed (hrun : s.start.running = true) (h : ∀ x l, s.firm.bells = x :: l → listed (s.opcode x) = true) : s.drain = s := by
  rw [State.drain, if_pos hrun]
  unfold State.drainOnce
  split
  next x l hb => rw [if_pos (h x l hb)]
  next => rfl

/-- After a command has ended, a listed one behind it waits for its own row. -/
theorem State.Done.drain (h : s.Done m status detail res t) (hrun : t.start.running = true)
    (next : ∀ x l, s.firm.bells.filter (fun y => y != m) = x :: l → listed (s.opcode x) = true) : t.drain = t := by
  obtain ⟨hbells, hended⟩ := h
  refine State.drain_of_listed hrun fun x l hb => ?_
  have hx : x ≠ m := by
    have mem : x ∈ s.firm.bells.filter (fun y => y != m) := by rw [← hbells, hb]; exact List.mem_cons_self ..
    simpa using (List.mem_filter.1 mem).2
  have op : t.opcode x = s.opcode x := State.mailField_congr fun _ _ => hended.mails _ _ hx (by omega)
  rw [op]
  exact next x l (hbells.symm.trans hb)

/-- A single doorbell whose opcode is not listed is taken and its command ended. -/
theorem State.drain_unlisted (hr : mapWf 0 s.regs = true) (hm : mapWf (0 : Byte) s.firm.mail = true) (hrun : s.start.running = true)
    (hb : s.firm.bells = [m]) (hop : listed (s.opcode m) = false) (hfw : s.fw ≠ 7) : s.drain = (s.takeBell m).finish m stBadArg 0 [] := by
  have hdone : s.Done m stBadArg 0 [] ((s.takeBell m).finish m stBadArg 0 []) := State.takeBell_finish_done hr hm (by decide)
  have none_left : ((s.takeBell m).finish m stBadArg 0 []).firm.bells = [] := by rw [hdone.1, hb]; simp
  rw [State.drain, if_pos hrun]
  unfold State.drainOnce
  rw [hb]
  simp only [hop, Bool.false_eq_true, if_false, hfw]
  unfold State.drainOnce
  rw [none_left]

end Ended

/-! ### Refusals (17 R431, R437 to R439) -/

/-- Firmware takes the doorbell of mailbox m and ends its command with a status and nothing else. -/
def State.Refused (s : State) (m status : Nat) (t : State) : Prop :=
  s.Done m status 0 [] t ∧ Only [.regs, .evr, .trace, .traceDrop, .msix, .firm] s t ∧ RegsSide [Reg.MBX_OWNER, Reg.MBX_DB_PEND] s t ∧
    t.firm = { s.firm with
      bells := t.firm.bells
      mail := t.firm.mail
      sessions := t.firm.sessions } ∧
    t.firm.sessions.map (fun e => (e.1, e.2.role)) = s.firm.sessions.map (fun e => (e.1, e.2.role))

section Refusals

variable {s : State} {m op status : Nat} {need : State → Need} {ok : State → Bool} {act : State → State}

theorem State.takeBell_finish_refused (hr : mapWf 0 s.regs = true) (hm : mapWf (0 : Byte) s.firm.mail = true) :
    s.Refused m status ((s.takeBell m).finish m status 0 []) := by
  have taken := State.takeBell_regs (m := m) hr
  obtain ⟨_, hfirm⟩ := (s.takeBell m).finishAt_firm_but_mail m ((s.takeBell m).roleOf m) status 0 [] ((s.takeBell m).reg Reg.MBX_STATE)
  refine ⟨State.takeBell_finish_done hr hm (by decide), ?_, fun k hk hl => ?_, ?_, ?_⟩
  · exact ((s.takeBell_only m).mono (by decide)).trans (State.finishAt_only.mono (by decide))
  · obtain ⟨howner, hpend⟩ : k ≠ Reg.MBX_OWNER ∧ k ≠ Reg.MBX_DB_PEND := by simpa using hl
    have hlost : k ≠ Reg.EVR_LOST_CNT := fun e => absurd (e ▸ hk) (by decide)
    have hdrop : k ≠ Reg.OBS_TRC_DROP_CNT := fun e => absurd (e ▸ hk) (by decide)
    rw [State.finish, State.finishAt_reg taken.1 (by simp [hlost, hdrop]), if_neg howner, taken.2 k (by simp [hpend, hdrop])]
  · rw [State.finish, hfirm, State.takeBell_firm]
  · rw [State.finish, hfirm]
    exact State.takeBell_roles

/-- Firmware at the head of the doorbells: HALTED, then the role, then the state, each judged as it stood. -/
theorem State.serve_at_head (hr : mapWf 0 s.regs = true) (hh : s.atHead m op = true) :
    s.serve m op need ok act = State.drain (
      if s.fw = 7 ∧ (!inHalted op) = true then (s.takeBell m).finish m stInternal 0 []
      else if (!holds (s.roleOf m) s.keep.lifecycle (need (s.takeBell m))) = true then (s.takeBell m).finish m stRoleDenied 0 []
      else if (s.fw = 6 ∧ (!inShutdown op) = true) ∨ (!ok (s.takeBell m)) = true then (s.takeBell m).finish m stStateConflict 0 []
      else act (s.takeBell m)) := by
  unfold State.serve
  dsimp only
  rw [hh, if_neg (by decide), State.takeBell_fw hr, State.takeBell_roleOf, State.takeBell_keep]

/-- A refusal stands where a listed opcode follows. -/
theorem State.takeBell_finish_drain (hr : mapWf 0 s.regs = true) (hm : mapWf (0 : Byte) s.firm.mail = true) (hrun : s.start.running = true)
    (next : ∀ x l, s.firm.bells.filter (fun y => y != m) = x :: l → listed (s.opcode x) = true) :
    ((s.takeBell m).finish m status 0 []).drain = (s.takeBell m).finish m status 0 [] := by
  have hstart : ((s.takeBell m).finish m status 0 []).start = s.start :=
    (State.finishAt_only.part .start (by decide) (by decide)).trans State.takeBell_start
  exact (State.takeBell_finish_done hr hm (by decide)).drain (by rw [hstart]; exact hrun) next

end Refusals

/-! ### The row of a mailbox command (17 Tables 17.4 and 17.8) -/

/-- Where the command's row holds, the command is one call of State.serve with the right and the states of the row. -/
def State.ServesRow (s : State) (c : Instr) : Prop :=
  ∀ m op need ok, s.mailRow c = some (m, op, need, ok) → s.atHead m op = true →
    ∃ n k act, exec c s = .next (s.serve m op n k act) ∧ n (s.takeBell m) = need ∧ k (s.takeBell m) = ok

section Rows

variable {s : State} {c : Instr} {m op : Nat} {need : Need} {ok : Bool} {n : State → Need} {k : State → Bool} {act : State → State}

theorem State.servesRow_of_none (hrow : s.mailRow c = none) : s.ServesRow c := fun _ _ _ _ h _ => by cases hrow.symm.trans h

theorem State.servesRow_of {f : State → State} (hc : s.mainClk = true) (hrow : s.mailRow c = some (m, op, need, ok)) (he : exec c s = .next (s.onMain f))
    (hf : s.atHead m op = true → f s = s.serve m op n k act) (hn : n (s.takeBell m) = need) (hk : k (s.takeBell m) = ok) : s.ServesRow c := by
  intro m' op' need' ok' h hh
  cases hrow.symm.trans h
  exact ⟨n, k, act, he.trans (congrArg _ ((if_pos hc).trans (hf hh))), hn, hk⟩

/-- The warm row serves kind 1 and the kinds that Table 17.8 does not have. -/
theorem State.resetKind_warm : s.resetKind m 1 = true ↔ s.arg m 0 4 = 1 ∨ s.arg m 0 4 = 0 ∨ 3 < s.arg m 0 4 := by
  simp only [State.resetKind, beq_self_eq_true, Bool.true_and, Bool.or_eq_true, beq_iff_eq, decide_eq_true_eq]

theorem State.resetKind_other {i : Nat} (hi : i ≠ 1) : s.resetKind m i = true ↔ s.arg m 0 4 = i := by
  simp only [State.resetKind, beq_false_of_ne hi, Bool.false_and, Bool.or_false, beq_iff_eq]

/-- Right and states of a RESET. -/
def State.resetRow (s : State) (m : Nat) : Option (Nat × Nat × Need × Bool) := some (m, 0x20A, .installer, s.fwIn [1, 2, 3, 4])

/-- A RESET of kind i is served in IDLE, RUNNING, STOPPED and STARTING; one of another kind has no row. -/
theorem State.servesRow_of_reset {f : State → State} {p : Prop} [Decidable p] {i : Nat} (hc : s.mainClk = true) (hr : mapWf 0 s.regs = true)
    (hrow : s.mailRow c = if p then s.resetRow m else none) (he : exec c s = .next (s.onMain f)) (hp : p → s.resetKind m i = true)
    (hf : f s = if !s.resetKind m i then s else s.serve m 0x20A (fun _ => .installer) State.openOrStarting act) : s.ServesRow c := by
  by_cases h : p
  · refine State.servesRow_of (n := fun _ => .installer) (k := State.openOrStarting) (act := act) hc (hrow.trans (if_pos h)) he (fun _ => ?_) rfl
      (State.takeBell_fwIn hr [1, 2, 3, 4])
    rw [hf, hp h]
    exact if_neg (by decide)
  · exact State.servesRow_of_none (hrow.trans (if_neg h))

/-- Every mailbox command is served as its row says. -/
theorem State.servesRow (hc : s.mainClk = true) (hr : mapWf 0 s.regs = true) (c : Instr) : s.ServesRow c := by
  cases c with
  | identify m =>
    exact State.servesRow_of hc rfl rfl (fun h => if_neg (by
      simp only [State.atHead, Bool.and_eq_true] at h
      rw [h.1.1]
      decide)) rfl rfl
  | getState m | sessionOpen m | sessionClose m | regRead m | eventRead m => exact State.servesRow_of hc rfl rfl (fun _ => rfl) rfl rfl
  | sessionChallenge m _ => exact State.servesRow_of hc rfl rfl (fun _ => rfl) rfl (congrArg (! ·) State.takeBell_inSession)
  | snapshot m | workloadStart m | workloadStop m | imageLoad m | imageUnload m | hostDma m | batchSubmit m | handback m | cgSubmit m | cgCancel m | ftLoad m
    | workloadDefine m | migCmd m | storeWrite m | storeTrim m | fbRelay m | fwStage m | fuseProgram m | lifecycleAdvance m =>
    exact State.servesRow_of hc rfl rfl (fun _ => rfl) rfl (State.takeBell_fwIn hr _)
  | keyAdd m => exact State.servesRow_of hc rfl rfl (fun _ => rfl) (by simp only [keyNeed, State.takeBell_args, beq_iff_eq]) (State.takeBell_fwIn hr _)
  | keyRemove m =>
    exact State.servesRow_of hc rfl rfl (fun _ => rfl) (by simp only [keyNeed, hasId, State.takeBell_arg, State.takeBell_keep]) (State.takeBell_fwIn hr _)
  | fwActivate m =>
    exact State.servesRow_of hc rfl rfl (fun _ => rfl) rfl (by rw [State.takeBell_fwIn hr, State.takeBell_keep])
  | resetWarm m =>
    have row : s.mailRow (.resetWarm m) = if s.arg m 0 4 = 1 ∨ s.arg m 0 4 = 0 ∨ 3 < s.arg m 0 4 then s.resetRow m else none := rfl
    exact State.servesRow_of_reset (f := resetWarmEffect m) hc hr row rfl State.resetKind_warm.2 rfl
  | resetCold m =>
    have row : s.mailRow (.resetCold m) = if s.arg m 0 4 = 2 then s.resetRow m else none := rfl
    exact State.servesRow_of_reset (f := resetColdEffect m) hc hr row rfl (State.resetKind_other (by decide)).2 rfl
  | resetPartition m =>
    have row : s.mailRow (.resetPartition m) = if s.arg m 0 4 = 3 then s.resetRow m else none := rfl
    exact State.servesRow_of_reset (f := resetPartitionEffect m) hc hr row rfl (State.resetKind_other (by decide)).2 rfl
  | _ => exact State.servesRow_of_none rfl

end Rows

/-! ### Which refusal a command meets (17 R431, R437 to R439) -/

theorem holds_eq (r l : Nat) : holds r l .any = true ∧ holds r l .read = decide (r ≠ 0) ∧ holds r l .maker = decide (r = 3) ∧
    holds r l .installer = decide (r = 2 ∨ (r = 3 ∧ l = 0)) ∧ holds r l .operator = decide (r = 1 ∨ r = 2 ∨ (r = 3 ∧ l = 0)) := by
  refine ⟨rfl, ?_, ?_, ?_, ?_⟩ <;> rw [Bool.eq_iff_iff] <;> simp [holds, or_assoc]

section Refusals

variable {c : Instr} {s : State} {m op : Nat} {need : Need} {ok : Bool}

/-- HALTED serves IDENTIFY, GET_STATE and EVENT_READ. -/
theorem inHalted_eq_false : inHalted op = false ↔ op ≠ 1 ∧ op ≠ 2 ∧ op ≠ 0x11 := by
  simp [inHalted, and_assoc]

/-- SHUTDOWN serves IDENTIFY, GET_STATE, REG_READ and EVENT_READ. -/
theorem inShutdown_eq_false : inShutdown op = false ↔ op ∉ [1, 2, 0x10, 0x11] := by
  simp [inShutdown, quiet, and_assoc]

/-- What a command meets before its arguments are read, in this order: HALTED, the role, the state. -/
theorem State.answers_refused (hrow : s.mailRow c = some (m, op, need, ok)) (hh : s.atHead m op = true) (hm : mapWf (0 : Byte) s.firm.mail = true)
    (hr : mapWf 0 s.regs = true) (hc : s.mainClk = true)
    (next : ∀ x l, s.firm.bells.filter (fun y => y != m) = x :: l → listed (s.opcode x) = true) :
    let stopped := s.fw = 7 ∧ op ≠ 1 ∧ op ≠ 2 ∧ op ≠ 0x11
    let right := holds (s.roleOf m) s.keep.lifecycle need
    (stopped → Answers c s (s.Refused m stInternal)) ∧
    (¬stopped → right = false → Answers c s (s.Refused m stRoleDenied)) ∧
    (¬stopped → right = true → ok = false ∨ (s.fw = 6 ∧ op ∉ [1, 2, 0x10, 0x11]) → Answers c s (s.Refused m stStateConflict)) := by
  intro stopped right
  obtain ⟨n, k, act, he, hn, hk⟩ := State.servesRow hc hr c m op need ok hrow hh
  have hrun : s.start.running = true := by
    simp only [State.atHead, Bool.and_eq_true] at hh
    exact hh.1.1
  have refused : ∀ status, s.serve m op n k act = ((s.takeBell m).finish m status 0 []).drain → Answers c s (s.Refused m status) := fun status e =>
    Answers.of (he.trans (congrArg _ (e.trans (State.takeBell_finish_drain hr hm hrun next)))) (State.takeBell_finish_refused hr hm)
  have halted : (s.fw = 7 ∧ (!inHalted op) = true) ↔ stopped := by rw [Bool.not_eq_true', inHalted_eq_false]
  have shut : (s.fw = 6 ∧ (!inShutdown op) = true) ↔ s.fw = 6 ∧ op ∉ [1, 2, 0x10, 0x11] := by rw [Bool.not_eq_true', inShutdown_eq_false]
  have verdict := State.serve_at_head (need := n) (ok := k) (act := act) hr hh
  simp only [halted, shut, hn, hk] at verdict
  refine ⟨fun h => refused _ ?_, fun h hright => refused _ ?_, fun h hright hstate => refused _ ?_⟩
  · rw [verdict, if_pos h]
  · rw [verdict, if_neg h, if_pos (by rw [Bool.not_eq_true']; exact hright)]
  · have held : ¬(!right) = true := by rw [hright]; decide
    rw [verdict, if_neg h, if_neg held, if_pos (hstate.elim (fun h => .inr (by rw [h]; rfl)) .inl)]

end Refusals

end Sys2Proof.Machine
end

section
/-! What the host does to a mailbox (17 R428 to R430): its doorbell hands the mailbox over, and what it writes lands byte by byte. -/

namespace Sys2Proof.Machine

/-! ### The doorbell (17 R429, R430) -/

/-- Mailbox m changes to firmware. -/
def State.handOver (s : State) (m : Nat) : State := (s.hwSetBit Reg.MBX_DB_PEND m).setReg Reg.MBX_OWNER (putBit (s.reg Reg.MBX_OWNER) m false)

/-- The doorbell stands behind the others, and the host sees the mailbox with firmware. -/
def State.rung (s : State) (m : Nat) : State := ((s.modFirm fun f => { f with bells := f.bells ++ [m] }).handOver m).setMail m 0xC [1]

theorem hostDoorbell_owned {m : Fin 16} {s : State} (h : s.hostOwns m = true) : hostDoorbellEffect m s = (s.rung m).drain := if_pos h

theorem hostDoorbell_not_owned {m : Fin 16} {s : State} (h : s.hostOwns m = false) :
    hostDoorbellEffect m s = (s.modFirm (fun f => { f with hostErr := f.hostErr ||| 2 ^ m.val })).noteSet hostErrKey (2 ^ m.val) := by
  unfold hostDoorbellEffect
  rw [h, if_neg Bool.false_ne_true]

section Rung

variable {s : State} {m : Nat}

theorem State.noteSet_only (s : State) (k i : Nat) : Only [] s (s.noteSet k i) := ⟨rfl, fun g hn _ => by cases g <;> first | rfl | exact absurd rfl hn⟩

theorem State.handOver_only : Only [.regs] s (s.handOver m) :=
  (Only.trans (State.setReg_only ..) ((State.noteSet_only ..).mono (by simp))).trans (State.setReg_only ..)

theorem State.handOver_firm : (s.handOver m).firm = s.firm := rfl

theorem State.handOver_reg (h : mapWf 0 s.regs = true) (k : Nat) : (s.handOver m).reg k =
    if k = Reg.MBX_OWNER then putBit (s.reg Reg.MBX_OWNER) m false else if k = Reg.MBX_DB_PEND then putBit (s.reg Reg.MBX_DB_PEND) m true else s.reg k := by
  have hw : mapWf 0 (s.hwSetBit Reg.MBX_DB_PEND m).regs = true := mapWf_mapSet h
  rw [State.handOver, State.setReg_reg hw, State.hwSetBit_reg h]

/-- One byte stored. -/
theorem State.mailByte_setMail_one (h : mapWf (0 : Byte) s.firm.mail = true) {o x p : Nat} (b : Byte) :
    (s.setMail m o [b]).mailByte x p = if 4096 * x + p = 4096 * m + o then b else s.mailByte x p := by
  unfold State.mailByte State.setMail
  exact mapGet_mapSet h

theorem State.rung_only : Only [.regs, .firm] s (s.rung m) := by
  refine Only.trans ?_ ((State.modFirm_only ..).mono (by decide))
  exact Only.trans ((State.modFirm_only ..).mono (by decide)) (State.handOver_only.mono (by decide))

theorem State.rung_bells : (s.rung m).firm.bells = s.firm.bells ++ [m] := by
  rw [State.rung, State.setMail, State.modFirm_firm, State.handOver_firm, State.modFirm_firm]

theorem State.rung_wf (h : mapWf (0 : Byte) s.firm.mail = true) : mapWf (0 : Byte) (s.rung m).firm.mail = true :=
  State.setMail_wf (by rw [State.handOver_firm, State.modFirm_firm]; exact h)

theorem State.rung_mailByte (h : mapWf (0 : Byte) s.firm.mail = true) {x p : Nat} :
    (s.rung m).mailByte x p = if 4096 * x + p = 4096 * m + 0xC then 1 else s.mailByte x p := by
  rw [State.rung, State.mailByte_setMail_one (by rw [State.handOver_firm, State.modFirm_firm]; exact h)]
  congr 1

theorem State.rung_reg (h : mapWf 0 s.regs = true) (k : Nat) : (s.rung m).reg k =
    if k = Reg.MBX_OWNER then putBit (s.reg Reg.MBX_OWNER) m false else if k = Reg.MBX_DB_PEND then putBit (s.reg Reg.MBX_DB_PEND) m true else s.reg k := by
  rw [State.rung, State.setMail, State.modFirm_reg, State.handOver_reg (by rw [State.modFirm_regs]; exact h)]
  simp only [State.modFirm_reg]

theorem State.rung_sameBox (hr : mapWf 0 s.regs = true) (hm : mapWf (0 : Byte) s.firm.mail = true) : State.SameBox m s (s.rung m) where
  owners x hx := by rw [State.rung_reg hr, if_pos rfl, bit_putBit_other _ _ _ _ hx]
  mails x o ho hx := by rw [State.rung_mailByte hm, if_neg (by omega)]
  msix := State.rung_only.part .msix (by decide) (by decide)

end Rung

/-- A command of the main complex answers with its effect while the clocks run (01 R42). -/
theorem Answers.of_onMain {c : Instr} {f : State → State} {s t : State} {P : State → Prop} (he : exec c s = .next (s.onMain f)) (hc : s.mainClk = true)
    (hf : f s = t) (p : P t) : Answers c s P := Answers.of (he.trans (congrArg _ ((if_pos hc).trans hf))) p

section Doorbell

variable {s : State} {m : Fin 16} (hr : mapWf 0 s.regs = true) (hm : mapWf (0 : Byte) s.firm.mail = true) (hc : s.mainClk = true)
include hc

/-- A doorbell of a mailbox that firmware owns sets its bit of HOST_ERR. -/
theorem hostDoorbell_errs (ho : s.hostOwns m = false) : Answers (.hostDoorbell m) s (fun t => Only [.firm] s t ∧
    t.firm = { s.firm with hostErr := t.firm.hostErr } ∧ ∀ i, bit t.firm.hostErr i = (bit s.firm.hostErr i || decide (i = m.val))) := by
  refine Answers.of_onMain (f := hostDoorbellEffect m) rfl hc (hostDoorbell_not_owned ho) ⟨?_, rfl, fun i => ?_⟩
  · exact (State.modFirm_only ..).trans ((State.noteSet_only ..).mono (by simp))
  · rw [State.noteSet_firm, State.modFirm_firm, bit, Nat.testBit_or, Nat.testBit_two_pow, bit]
    simp only [eq_comm]

include hr hm

/-- A doorbell of a mailbox that the host owns hands it to firmware, which leaves a listed command at the head to its own row. -/
theorem hostDoorbell_hands (ho : s.hostOwns m = true) (hrun : s.start.running = true)
    (head : ∀ x l, s.firm.bells ++ [m.val] = x :: l → listed (s.opcode x) = true) :
    Answers (.hostDoorbell m) s (fun t => Only [.regs, .firm] s t ∧ t.firm.bells = s.firm.bells ++ [m.val] ∧ t.hostOwns m = false ∧ t.mailByte m 0xC = 1 ∧
      RegsBut [Reg.MBX_OWNER, Reg.MBX_DB_PEND] s t ∧ bit (t.reg Reg.MBX_DB_PEND) m = true ∧ ∀ x, x ≠ m.val → t.hostOwns x = s.hostOwns x) := by
  have same := State.rung_sameBox (m := m) hr hm
  have waits : (s.rung m).drain = s.rung m := State.drain_of_listed
    (by rw [State.rung_only.part .start (by decide) (by decide)]; exact hrun)
    fun x l hb => by rw [same.opcode]; exact head x l (State.rung_bells.symm.trans hb)
  refine Answers.of_onMain (f := hostDoorbellEffect m) rfl hc ((hostDoorbell_owned ho).trans waits)
    ⟨State.rung_only, State.rung_bells, ?_, ?_, ?_, ?_, same.owners⟩
  · rw [State.hostOwns, State.rung_reg hr, if_pos rfl, bit_putBit]
  · rw [State.rung_mailByte hm, if_pos rfl]
  · intro k hk
    obtain ⟨howner, hpend⟩ : k ≠ Reg.MBX_OWNER ∧ k ≠ Reg.MBX_DB_PEND := by simpa using hk
    rw [State.rung_reg hr, if_neg howner, if_neg hpend]
  · rw [State.rung_reg hr, if_neg (by decide), if_pos rfl, bit_putBit]

/-- A doorbell that firmware finds alone, with an opcode that Table 17.8 does not list. -/
theorem hostDoorbell_unlisted (ho : s.hostOwns m = true) (hrun : s.start.running = true) (hb : s.firm.bells = []) (hfw : s.fw ≠ 7)
    (hop : listed (s.opcode m) = false) : Answers (.hostDoorbell m) s (s.Done m stBadArg 0 []) := by
  have same := State.rung_sameBox (m := m) hr hm
  have regs : mapWf 0 (s.rung m).regs = true := mapWf_mapSet (mapWf_mapSet hr)
  have mail : mapWf (0 : Byte) (s.rung m).firm.mail = true := State.rung_wf hm
  have bells : (s.rung m).firm.bells = [m.val] := by rw [State.rung_bells, hb]; rfl
  have fw : (s.rung m).fw = s.fw := by rw [State.fw, State.regBits, State.rung_reg hr, if_neg (by decide), if_neg (by decide)]; rfl
  have taken : (s.rung m).drain = ((s.rung m).takeBell m).finish m stBadArg 0 [] := State.drain_unlisted regs mail
    (by rw [State.rung_only.part .start (by decide) (by decide)]; exact hrun) bells (by rw [same.opcode]; exact hop) (by rw [fw]; exact hfw)
  obtain ⟨hleft, hended⟩ := State.takeBell_finish_done (m := m) (status := stBadArg) (detail := 0) (res := []) regs mail (by decide)
  refine Answers.of_onMain (f := hostDoorbellEffect m) rfl hc ((hostDoorbell_owned ho).trans taken) ⟨?_, hended.of_sameBox same⟩
  rw [hleft, bells, hb]
  simp

end Doorbell

/-! ### A clear by software -/

/-- Taking the common bits away. -/
theorem testBit_sub_and (x w i : Nat) : (x - (x &&& w)).testBit i = (x.testBit i && !w.testBit i) := by
  have le : x &&& w ≤ x := Nat.and_le_left
  have odd : (x &&& w) % 2 = 1 ↔ x % 2 = 1 ∧ w % 2 = 1 := Nat.and_mod_two_eq_one
  induction i generalizing x w with
  | zero =>
    rw [Bool.eq_iff_iff]
    simp only [Nat.testBit_zero, decide_eq_true_eq, Bool.and_eq_true, Bool.not_eq_true', decide_eq_false_iff_not]
    omega
  | succ i ih =>
    have half : (x - (x &&& w)) / 2 = x / 2 - (x / 2 &&& w / 2) := by
      rw [← Nat.and_div_two]
      omega
    rw [Nat.testBit_succ, Nat.testBit_succ, Nat.testBit_succ, half]
    exact ih _ _ Nat.and_le_left Nat.and_mod_two_eq_one

/-- What a clear leaves: the bits not written 1, and those that hardware has set in the cycle (00 R11). -/
theorem State.bit_cleared (s : State) (k x v i : Nat) : bit (s.cleared k x v) i = (bit x i && (!bit v i || bit (s.setNow k) i)) := by
  simp only [bit, State.cleared, testBit_sub_and, Bool.not_and, Bool.not_not]

/-- The bits of byte j of a number. -/
theorem bit_byte (b : Byte) (j i : Nat) : bit (b.toNat * 2 ^ (8 * j)) i = (decide (i / 8 = j) && bit b.toNat (i % 8)) := by
  simp only [bit, Nat.testBit_mul_two_pow]
  rcases Nat.lt_trichotomy (i / 8) j with h | h | h
  · simp [show ¬8 * j ≤ i by omega, Nat.ne_of_lt h]
  · simp [show 8 * j ≤ i by omega, h, show i - 8 * j = i % 8 by omega]
  · have high : b.toNat.testBit (i - 8 * j) = false :=
      Nat.testBit_lt_two_pow (Nat.lt_of_lt_of_le b.isLt (Nat.pow_le_pow_right (by decide) (by omega)))
    simp [high, Nat.ne_of_gt h]

/-! ### Bytes the host writes (17 R428, Table 17.2) -/

/-- Bit j of the byte for address a among the bytes l from o on; none where l has none for a. -/
def writesOne (o : Nat) (l : List Byte) (a j : Nat) : Bool := decide (o ≤ a ∧ a < o + l.length) && bit (l.getD (a - o) 0).toNat j

theorem writesOne_nil (o a j : Nat) : writesOne o [] a j = false := by
  have : ¬(o ≤ a ∧ a < o + ([] : List Byte).length) := by rw [List.length_nil]; omega
  simp only [writesOne, this, decide_false, Bool.false_and]

theorem writesOne_cons (o : Nat) (b : Byte) (l : List Byte) (a j : Nat) :
    writesOne o (b :: l) a j = ((decide (a = o) && bit b.toNat j) || writesOne (o + 1) l a j) := by
  unfold writesOne
  rw [List.length_cons]
  rcases Nat.lt_trichotomy a o with h | rfl | h
  · simp [show ¬o ≤ a by omega, show ¬o + 1 ≤ a by omega, Nat.ne_of_lt h]
  · have here : a ≤ a ∧ a < a + (l.length + 1) := by omega
    have past : ¬(a + 1 ≤ a ∧ a < a + 1 + l.length) := by omega
    simp only [here, past, and_self, decide_true, decide_false, Bool.true_and, Bool.false_and, Bool.or_false, Nat.sub_self, List.getD_cons_zero]
  · obtain ⟨k, rfl⟩ : ∃ k, a = o + 1 + k := ⟨a - (o + 1), by omega⟩
    simp only [show o + 1 + k - o = k + 1 by omega, show o + 1 + k - (o + 1) = k by omega, List.getD_cons_succ, Nat.ne_of_gt h, decide_false, Bool.false_and,
      Bool.false_or]
    congr 2
    rw [eq_iff_iff]
    omega

section Host

variable {s : State} {o : Nat} {b : Byte} {l : List Byte}

theorem State.hostByte_only : Only [.hostEvent, .firm] s (s.hostByte o b) := by
  unfold State.hostByte
  refine Only.ite ((State.modFirm_only ..).mono (by decide)) (Only.ite ?_ (Only.ite ((State.modFirm_only ..).mono (by decide)) (Only.refl ..)))
  exact ⟨rfl, fun g _ hg => by cases g <;> first | rfl | exact absurd (by simp) hg⟩

theorem State.hostByte_setNow (k : Nat) : (s.hostByte o b).setNow k = s.setNow k := by
  unfold State.hostByte
  dsimp only
  split
  · rfl
  · split
    · rfl
    · split <;> rfl

theorem State.hostByte_hostOwns (m : Nat) : (s.hostByte o b).hostOwns m = s.hostOwns m :=
  congrArg (fun r => bit (mapGet 0 r Reg.MBX_OWNER) m) (State.hostByte_only.part .regs (by decide) (by decide))

/-- The byte at o of BAR0 is one of a mailbox that the host owns, and one it may write (17 R428). -/
def State.hostMay (s : State) (o : Nat) : Prop := o < 0x10000 ∧ s.hostOwns (o / 4096) = true ∧ (o % 4096 < 0xC ∨ 0x40 ≤ o % 4096)

theorem State.hostByte_stored (h : s.hostMay o) : s.hostByte o b = s.setMail (o / 4096) (o % 4096) [b] := if_pos h

theorem State.hostByte_ignored (h : ¬s.hostMay o) : (s.hostByte o b).firm.mail = s.firm.mail := by
  have e : s.hostByte o b = _ := if_neg h
  rw [e]
  split
  · rfl
  · split <;> rfl

theorem State.hostByte_wf (h : mapWf (0 : Byte) s.firm.mail = true) : mapWf (0 : Byte) (s.hostByte o b).firm.mail = true := by
  by_cases hw : s.hostMay o
  · rw [State.hostByte_stored hw]
    exact State.setMail_wf h
  · rwa [State.hostByte_ignored hw]

/-- The byte stands where it was written. -/
theorem State.hostByte_mailByte (h : mapWf (0 : Byte) s.firm.mail = true) (m : Fin 16) (p : Fin 4096) : (s.hostByte o b).mailByte m p =
    if 4096 * m.val + p.val = o ∧ s.hostOwns m = true ∧ (p.val < 0xC ∨ 0x40 ≤ p.val) then b else s.mailByte m p := by
  have hm := m.isLt
  have hp := p.isLt
  by_cases ha : 4096 * m.val + p.val = o
  · have hbox : o / 4096 = m.val := by omega
    have hplace : o % 4096 = p.val := by omega
    by_cases hw : s.hostOwns m = true ∧ (p.val < 0xC ∨ 0x40 ≤ p.val)
    · have may : s.hostMay o := ⟨by omega, by rw [hbox, hplace]; exact hw⟩
      rw [if_pos ⟨ha, hw⟩, State.hostByte_stored may, State.mailByte_setMail_one h, if_pos (by omega)]
    · have no : ¬s.hostMay o := fun e => hw (by rw [← hbox, ← hplace]; exact e.2)
      rw [if_neg fun e => hw e.2, State.mailByte_of_mail (State.hostByte_ignored no)]
  · rw [if_neg fun e => ha e.1]
    by_cases hw : s.hostMay o
    · rw [State.hostByte_stored hw, State.mailByte_setMail_one h, if_neg (by omega)]
    · exact State.mailByte_of_mail (State.hostByte_ignored hw)

/-- Byte o of a W1C register whose four bytes stand from base on. -/
theorem State.bit_cleared_byte (s : State) (k x base : Nat) {i : Nat} (hi : i < 32) :
    bit (if base ≤ o ∧ o < base + 4 then s.cleared k x (b.toNat * 2 ^ (8 * (o - base))) else x) i =
      (bit x i && (!(decide (base + i / 8 = o) && bit b.toNat (i % 8)) || bit (s.setNow k) i)) := by
  split
  case isTrue h =>
    have place : decide (i / 8 = o - base) = decide (base + i / 8 = o) := by
      rw [decide_eq_decide]
      omega
    rw [State.bit_cleared, bit_byte, place]
  case isFalse h =>
    have apart : decide (base + i / 8 = o) = false := decide_eq_false (by omega)
    simp only [apart, Bool.false_and, Bool.not_false, Bool.true_or, Bool.and_true]

theorem State.hostByte_hostEvent_eq : (s.hostByte o b).hostEvent =
    if 0x10044 ≤ o ∧ o < 0x10044 + 4 then s.cleared hostEventKey s.hostEvent (b.toNat * 2 ^ (8 * (o - 0x10044))) else s.hostEvent := by
  unfold State.hostByte
  dsimp only
  split
  · rw [if_neg (by omega)]
    rfl
  · split
    · rfl
    · split <;> rfl

theorem State.hostByte_hostErr_eq : (s.hostByte o b).firm.hostErr =
    if 0x1004C ≤ o ∧ o < 0x1004C + 4 then s.cleared hostErrKey s.firm.hostErr (b.toNat * 2 ^ (8 * (o - 0x1004C))) else s.firm.hostErr := by
  unfold State.hostByte
  dsimp only
  split
  · rw [if_neg (by omega)]
    rfl
  · split
    · rw [if_neg (by omega)]
    · split <;> rfl

/-! ### All the bytes of one write -/

theorem State.hostWrite_only (l : List Byte) (s : State) (o : Nat) : Only [.hostEvent, .firm] s (s.hostWrite o l) := by
  induction l generalizing s o with
  | nil => exact Only.refl ..
  | cons b l ih => exact State.hostByte_only.trans (ih ..)

theorem State.hostWrite_mailByte (l : List Byte) {s : State} (h : mapWf (0 : Byte) s.firm.mail = true) (o : Nat) (m : Fin 16) (p : Fin 4096) :
    (s.hostWrite o l).mailByte m p =
      if (o ≤ 4096 * m.val + p.val ∧ 4096 * m.val + p.val < o + l.length) ∧ s.hostOwns m = true ∧ (p.val < 0xC ∨ 0x40 ≤ p.val)
      then l.getD (4096 * m.val + p.val - o) 0 else s.mailByte m p := by
  induction l generalizing s o with
  | nil =>
    rw [List.length_nil, if_neg (by omega)]
    rfl
  | cons b l ih =>
    rw [State.hostWrite, ih (State.hostByte_wf h), State.hostByte_hostOwns, State.hostByte_mailByte h, List.length_cons]
    rcases Nat.lt_trichotomy (4096 * m.val + p.val) o with ho | rfl | ho
    · rw [if_neg (by omega), if_neg (by omega), if_neg (by omega)]
    · rw [if_neg (by omega), Nat.sub_self, List.getD_cons_zero]
      simp
    · obtain ⟨k, hk⟩ : ∃ k, 4096 * m.val + p.val = o + 1 + k := ⟨4096 * m.val + p.val - (o + 1), by omega⟩
      simp only [hk, show o + 1 + k - o = k + 1 by omega, show o + 1 + k - (o + 1) = k by omega, List.getD_cons_succ, show o + 1 + k ≠ o by omega, false_and,
        if_false]
      congr 2
      rw [eq_iff_iff]
      omega

theorem State.hostWrite_hostEvent (l : List Byte) (s : State) (o i : Nat) (hi : i < 32) : bit (s.hostWrite o l).hostEvent i =
    (bit s.hostEvent i && (!writesOne o l (0x10044 + i / 8) (i % 8) || bit (s.setNow hostEventKey) i)) := by
  induction l generalizing s o with
  | nil => simp [State.hostWrite, writesOne_nil]
  | cons b l ih =>
    rw [State.hostWrite, ih, State.hostByte_hostEvent_eq, State.bit_cleared_byte _ _ _ _ hi, State.hostByte_setNow, writesOne_cons,
      Bool.not_or, Bool.or_and_distrib_right, Bool.and_assoc]

theorem State.hostWrite_hostErr (l : List Byte) (s : State) (o i : Nat) (hi : i < 32) : bit (s.hostWrite o l).firm.hostErr i =
    (bit s.firm.hostErr i && (!writesOne o l (0x1004C + i / 8) (i % 8) || bit (s.setNow hostErrKey) i)) := by
  induction l generalizing s o with
  | nil => simp [State.hostWrite, writesOne_nil]
  | cons b l ih =>
    rw [State.hostWrite, ih, State.hostByte_hostErr_eq, State.bit_cleared_byte _ _ _ _ hi, State.hostByte_setNow, writesOne_cons,
      Bool.not_or, Bool.or_and_distrib_right, Bool.and_assoc]

end Host

/-- Settles O57: every mailbox command is one call of State.serve, whose refusals take the doorbell and end the command; a doorbell hands the mailbox over
and drains what no row serves; what the host writes lands byte by byte. -/
theorem mailboxesAdmitCommandsByRoleAndState : Obligations.MailboxesAdmitCommandsByRoleAndState := by
  refine ⟨fun c m op need ok s hrow hh hm hs hc next => ?_, holds_eq, fun m s hs hc hm => ⟨?_, ?_, ?_⟩, fun off data s hc hm => ?_⟩
  · exact State.answers_refused hrow hh hm (State.canonical_regs hs) hc next
  · exact hostDoorbell_errs hc
  · exact hostDoorbell_hands (State.canonical_regs hs) hm hc
  · exact hostDoorbell_unlisted (State.canonical_regs hs) hm hc
  · exact Answers.of_onMain (f := hostMailboxWriteEffect off data) rfl hc rfl ⟨State.hostWrite_only .., State.hostWrite_mailByte data hm _, fun i hi =>
      ⟨State.hostWrite_hostEvent data s _ i hi, State.hostWrite_hostErr data s _ i hi⟩⟩

end Sys2Proof.Machine
end
